-- ==== Sys2Proof/Word.lean ====
section
/-! DEFINITION. The words of the device and their plainest arithmetic (00_scope.md, R2, R3, R9). -/

namespace Sys2Proof

/-- One byte of memory. -/
abbrev Byte := BitVec 8
/-- A vector register of one lane (R156). -/
abbrev W32 := BitVec 32
/-- A scalar register, an instruction word or a control register (R156, R26, R7). -/
abbrev W64 := BitVec 64
/-- A `D` register (R156). -/
abbrev W128 := BitVec 128
/-- A set of lanes: bit l for lane l (R341). -/
abbrev Lanes := BitVec 64

/-- `sext(x, n)` of R9 on an unbounded natural: the n-bit value x read as two's complement. -/
def sextN (x n : Nat) : Int :=
  if n = 0 then 0
  else if x % 2 ^ n < 2 ^ (n - 1) then Int.ofNat (x % 2 ^ n)
  else Int.ofNat (x % 2 ^ n) - Int.ofNat (2 ^ n)

/-- `sat(x, lo, hi)` of R9. -/
def satI (x lo hi : Int) : Int := if x < lo then lo else if hi < x then hi else x

/-- `v mod 2^n` of R8's unbounded integers, as a natural. -/
def wrapN (v : Int) (n : Nat) : Nat := (v.emod (Int.ofNat (2 ^ n))).toNat

end Sys2Proof
end

