-- ==== Sys2Proof/Machine/Crypto.lean ====
section
/-! DEFINITION. The published functions that the manual names: AES-256 in XTS mode (R80; FIPS 197, IEEE 1619), SHAKE256
(R441, R442; FIPS 202) and Ed448 (R441, R442; RFC 8032). -/

namespace Sys2Proof.Crypto

-- ## AES-256 (FIPS 197)

/-- Multiplication by x, and of two elements, in the field of 256 elements. -/
def xtime (b : Byte) : Byte := (b <<< 1) ^^^ (if b.msb then 0x1B else 0)
def gmul (a b : Byte) : Byte :=
  ((List.range 8).foldl (fun (r : Byte × Byte) i => (if b.getLsbD i then r.1 ^^^ r.2 else r.1, xtime r.2)) (0, a)).1
/-- The inverse, 0 for 0: the 254th power. -/
def ginv (a : Byte) : Byte :=
  ((List.range 7).foldl (fun (r : Byte × Byte) _ => let q := gmul r.2 r.2; (gmul r.1 q, q)) (1, a)).1
def subByte (a : Byte) : Byte :=
  let x := ginv a
  x ^^^ x.rotateLeft 1 ^^^ x.rotateLeft 2 ^^^ x.rotateLeft 3 ^^^ x.rotateLeft 4 ^^^ 0x63
def unsubByte (a : Byte) : Byte := ginv (a.rotateLeft 1 ^^^ a.rotateLeft 3 ^^^ a.rotateLeft 6 ^^^ 0x05)
def xorBytes (a b : List Byte) : List Byte := (a.zip b).map (fun p => p.1 ^^^ p.2)

/-- A block is 16 bytes, column after column. Row r moves left by r columns, or right by `4 - r`. -/
def shiftRows (s : List Byte) : List Byte := (List.range 16).map (fun i => s.getD (4 * ((i / 4 + i % 4) % 4) + i % 4) 0)
def unshiftRows (s : List Byte) : List Byte := (List.range 16).map (fun i => s.getD (4 * ((i / 4 + 4 - i % 4) % 4) + i % 4) 0)
/-- Each column times the circulant matrix whose first row is given. -/
def mixWith (m : List Byte) (s : List Byte) : List Byte :=
  (List.range 16).map (fun i =>
    (List.range 4).foldl (fun a j => a ^^^ gmul (m.getD ((j + 4 - i % 4) % 4) 0) (s.getD (4 * (i / 4) + j) 0)) 0)
def mixColumns : List Byte → List Byte := mixWith [2, 3, 1, 1]
def unmixColumns : List Byte → List Byte := mixWith [14, 11, 13, 9]

/-- The next word of the key schedule from those before it, the newest first; `i` is its index. -/
def nextWord (ws : List (List Byte)) (i : Nat) : List Byte :=
  let t := ws.headD []
  let t := if i % 8 = 0 then
      ((t.drop 1 ++ t.take 1).map subByte).zipIdx.map (fun p => if p.2 = 0 then p.1 ^^^ ((List.range (i / 8 - 1)).foldl (fun a _ => xtime a) 1) else p.1)
    else if i % 8 = 4 then t.map subByte else t
  xorBytes (ws.getD 7 []) t
/-- The fifteen round keys of a 32-byte key. -/
def roundKeys (key : List Byte) : List (List Byte) :=
  let first := ((List.range 8).map (fun i => (key.drop (4 * i)).take 4)).reverse
  let ws := ((List.range 52).foldl (fun ws i => nextWord ws (i + 8) :: ws) first).reverse
  (List.range 15).map (fun r => ((ws.drop (4 * r)).take 4).flatten)
def aesEnc (ks : List (List Byte)) (b : List Byte) : List Byte :=
  let s := (List.range 13).foldl (fun s r => xorBytes (mixColumns (shiftRows (s.map subByte))) (ks.getD (r + 1) [])) (xorBytes b (ks.getD 0 []))
  xorBytes (shiftRows (s.map subByte)) (ks.getD 14 [])
def aesDec (ks : List (List Byte)) (b : List Byte) : List Byte :=
  let s := (List.range 13).foldl (fun s r => unmixColumns (xorBytes ((unshiftRows s).map unsubByte) (ks.getD (13 - r) []))) (xorBytes b (ks.getD 14 []))
  xorBytes ((unshiftRows s).map unsubByte) (ks.getD 0 [])

-- ## XTS (IEEE 1619, R80)

/-- Little-endian bytes of a natural, and back. -/
def leBytes (n v : Nat) : List Byte := (List.range n).map (fun i => BitVec.ofNat 8 (v / 2 ^ (8 * i)))
def leNat (bs : List Byte) : Nat := bs.foldr (fun b n => b.toNat + 256 * n) 0
/-- A tweak times the primitive element. -/
def tweakNext (t : List Byte) : List Byte :=
  let v := leNat t
  leBytes 16 (if 2 ^ 127 ≤ v then (2 * v % 2 ^ 128) ^^^ 0x87 else 2 * v)
/-- The blocks of a data unit, each under its tweak. -/
def xtsBlocks (f : List Byte → List Byte) (t : List Byte) : Nat → List Byte → List Byte
  | 0, _ => []
  | n + 1, bs => xorBytes (f (xorBytes (bs.take 16) t)) t ++ xtsBlocks f (tweakNext t) n (bs.drop 16)
/-- The two keys of a slot: the first, for the data, in the lower half (log 5). -/
def dataKey (k : BitVec 512) : List (List Byte) := roundKeys (leBytes 32 k.toNat)
def tweakKey (k : BitVec 512) : List (List Byte) := roundKeys (leBytes 32 (k.toNat / 2 ^ 256))
/-- A 64-byte burst encrypted or decrypted; the tweak is its number, canonical address bits `[47:6]` (R80). -/
def xtsEnc (k : BitVec 512) (burst : Nat) (p : BitVec 512) : BitVec 512 :=
  BitVec.ofNat 512 (leNat (xtsBlocks (aesEnc (dataKey k)) (aesEnc (tweakKey k) (leBytes 16 (burst % 2 ^ 42))) 4 (leBytes 64 p.toNat)))
def xtsDec (k : BitVec 512) (burst : Nat) (c : BitVec 512) : BitVec 512 :=
  BitVec.ofNat 512 (leNat (xtsBlocks (aesDec (dataKey k)) (aesEnc (tweakKey k) (leBytes 16 (burst % 2 ^ 42))) 4 (leBytes 64 c.toNat)))

-- ## SHAKE256 (FIPS 202)

/-- The 25 lanes of the sponge's state, lane (x, y) at x + 5 y. -/
abbrev Sponge := List W64
def lane (a : Sponge) (i : Nat × Nat) : W64 := a.getD (i.1 % 5 + 5 * (i.2 % 5)) 0
def sponge (f : Nat × Nat → W64) : Sponge := (List.range 25).map (fun i => f (i % 5, i / 5))
/-- The lanes that rho turns, in its order, each with its offset modulo 64: a walk from (1, 0) by (x, y) to (y, 2 x + 3 y). -/
def rhoWalk : Nat → Nat → Nat × Nat → List ((Nat × Nat) × Nat)
  | 0, _, _ => []
  | n + 1, t, i => (i, (t + 1) * (t + 2) / 2 % 64) :: rhoWalk n (t + 1) (i.2, (2 * i.1 + 3 * i.2) % 5)
def rhoOffset (i : Nat × Nat) : Nat := ((rhoWalk 24 0 (1, 0)).lookup i).getD 0
/-- The bits of the round constants: a shift register of eight bits, stepped once for each. -/
def lfsr (b : Byte) : Byte := (b <<< 1) ^^^ (if b.msb then 0x71 else 0)
def rcBits : List Bool := ((List.range 168).foldl (fun (r : List Bool × Byte) _ => (r.1 ++ [r.2.getLsbD 0], lfsr r.2)) ([], 1)).1
/-- The constant of a round: bit 2^j - 1 is the register's bit j + 7 r. -/
def roundConst (r : Nat) : W64 :=
  (List.range 7).foldl (fun (v : W64) j => if rcBits.getD (j + 7 * r) false then v ||| (1 <<< (2 ^ j - 1)) else v) 0
def theta (a : Sponge) : Sponge :=
  let parity (x : Nat) : W64 := [0, 1, 2, 3, 4].foldl (fun (v : W64) y => v ^^^ lane a (x, y)) 0
  sponge (fun i => lane a i ^^^ parity (i.1 + 4) ^^^ (parity (i.1 + 1)).rotateLeft 1)
/-- Rho and pi: lane (x, y) is what stood, turned, at (x + 3 y, x). -/
def rhoPi (a : Sponge) : Sponge :=
  sponge (fun i =>
    let src := ((i.1 + 3 * i.2) % 5, i.1)
    (lane a src).rotateLeft (rhoOffset src))
def chi (a : Sponge) : Sponge := sponge (fun i => lane a i ^^^ (~~~ lane a (i.1 + 1, i.2) &&& lane a (i.1 + 2, i.2)))
def iota (r : Nat) (a : Sponge) : Sponge := sponge (fun i => if i = (0, 0) then lane a i ^^^ roundConst r else lane a i)
def keccak (a : Sponge) : Sponge := (List.range 24).foldl (fun s r => iota r (chi (rhoPi (theta s)))) a
def absorb (a : Sponge) (block : List Byte) : Sponge :=
  keccak (a.zipIdx.map (fun p => p.1 ^^^ BitVec.ofNat 64 (leNat ((block.drop (8 * p.2)).take 8))))
def absorbAll : Nat → Sponge → List Byte → Sponge
  | 0, a, _ => a
  | n + 1, a, m => absorbAll n (absorb a (m.take 136)) (m.drop 136)
def squeeze : Nat → Sponge → List Byte
  | 0, _ => []
  | n + 1, a => (a.take 17).flatMap (fun w => leBytes 8 w.toNat) ++ squeeze n (keccak a)
/-- The first `n` bytes of SHAKE256 of a message: rate 136, domain 1111, padding to whole blocks. -/
def shake256 (m : List Byte) (n : Nat) : List Byte :=
  let k := m.length / 136 + 1
  let z := 136 * k - m.length
  let pad : List Byte := if z = 1 then [0x9F] else [0x1F] ++ List.replicate (z - 2) 0 ++ [0x80]
  (squeeze (n / 136 + 1) (absorbAll k (List.replicate 25 0) (m ++ pad))).take n

-- ## Ed448 (RFC 8032)

def edP : Nat := 2 ^ 448 - 2 ^ 224 - 1
def edL : Nat := 2 ^ 446 - 13818066809895115352007386748515426880336692474882178609894547503885
def powMod (b e m n : Nat) : Nat :=
  ((List.range n).foldl (fun (r : Nat × Nat) i => (if e.testBit i then r.1 * r.2 % m else r.1, r.2 * r.2 % m)) (1, b % m)).1
/-- A point, projective. -/
structure EdPt where
  x : Nat
  y : Nat
  z : Nat
  deriving DecidableEq, Repr
def edB : EdPt :=
  ⟨224580040295924300187604334099896036246789641632564134246125461686950415467406032909029192869357953282578032075146446173674602635247710,
   298819210078481492676017930443930673437544040154080242095928241372331506189835876003536878655418784733982303233503462500531545062832660, 1⟩
/-- Addition on x² + y² = 1 + d x² y² with d = -39081; it is complete. -/
def EdPt.add (p q : EdPt) : EdPt :=
  let a := p.z * q.z % edP
  let b := a * a % edP
  let c := p.x * q.x % edP
  let d := p.y * q.y % edP
  let e := 39081 * (c * d % edP) % edP
  let f := (b + e) % edP
  let g := (b + (edP - e)) % edP
  let h := (p.x + p.y) * (q.x + q.y) % edP
  ⟨a * (f * ((h + 2 * edP - c - d) % edP) % edP) % edP, a * (g * ((d + edP - c) % edP) % edP) % edP, f * g % edP⟩
def EdPt.mul (p : EdPt) (n : Nat) : EdPt :=
  ((List.range 448).foldl (fun (r : EdPt × EdPt) i => (if n.testBit i then r.1.add r.2 else r.1, r.2.add r.2)) (⟨0, 1, 1⟩, p)).1
/-- The 57 bytes of a point. -/
def EdPt.enc (p : EdPt) : List Byte :=
  let i := powMod p.z (edP - 2) edP 448
  leBytes 57 (p.y * i % edP + p.x * i % edP % 2 * 2 ^ 455)
/-- The secret scalar and the prefix of a 57-byte private key. -/
def edScalar (key : List Byte) : Nat :=
  let v := leNat ((shake256 key 114).take 55)
  v / 4 * 4 % 2 ^ 440 + ((leNat (((shake256 key 114).drop 55).take 1)) ||| 0x80) * 2 ^ 440
def edPublic (key : List Byte) : List Byte := (edB.mul (edScalar key)).enc
/-- SHAKE256 to 114 bytes behind `dom4(0, "")`, as a scalar. -/
def edHash (m : List Byte) : Nat :=
  leNat (shake256 ([0x53, 0x69, 0x67, 0x45, 0x64, 0x34, 0x34, 0x38, 0, 0] ++ m) 114) % edL
def edSign (key m : List Byte) : List Byte :=
  let r := edHash ((shake256 key 114).drop 57 ++ m)
  let rp := (edB.mul r).enc
  rp ++ leBytes 57 ((r + edHash (rp ++ edPublic key ++ m) * edScalar key) % edL)

end Sys2Proof.Crypto
end

