-- ==== Sys2Proof/Syntax.lean ====
section
/-! DEFINITION. The syntax of the device: one constructor of `Instr` per row of opcode_table.json. Igyan words carry the
common header and the operands their descriptions name; fabric and sieve words their fields. The rows that are steps of
the hardware, the reeve, firmware or the outside have no words and no operands: the unit they act on and the data the
outside supplies stand in the state (`EvIn`), where the step places them. -/

namespace Sys2Proof

/-- A register field of 8 bits (R28): a `V` register, or an `S` register below 64 in a scalar form (R30). -/
abbrev Reg := BitVec 8
/-- A field that can name only `S0`-`S63`. -/
abbrev SReg := BitVec 6
/-- A predicate `P0`-`P7`. -/
abbrev PReg := BitVec 3

/-- The fields every single word shares (R28): run end, guard, quiet, lookahead. -/
structure Hdr where
  e  : Bool
  pg : PReg
  pn : Bool
  q  : Bool
  la : BitVec 4
  deriving DecidableEq, Repr

/-- Operand type of class 0 (R184). -/
inductive ITy | s32 | z32 | s64 | z64
  deriving DecidableEq, Repr

/-- Rounding modes (R168). -/
inductive RM | rn | rz | ru | rd | rs
  deriving DecidableEq, Repr

/-- Scopes (R9, R10). -/
inductive Scope | team | cluster | device | system
  deriving DecidableEq, Repr

/-- Memory order suffixes (R137). -/
inductive Ord4 | rlx | acq | rel | ar
  deriving DecidableEq, Repr

/-- Cache hints (R137). -/
inductive Hint | none | strm | nol1
  deriving DecidableEq, Repr

/-- Access types of the common memory form (R139). -/
inductive MTy | z8 | s8 | z16 | s16 | w32 | w64 | b128
  deriving DecidableEq, Repr

/-- Combining of a comparison with a predicate (R196). -/
inductive BOp | none | and | or | xor
  deriving DecidableEq, Repr

/-- Integer comparisons (R196). -/
inductive ICmp | eq | ne | lt | le | gt | ge
  deriving DecidableEq, Repr

/-- Floating-point comparisons (R206). -/
inductive FCmp | eq | ne | lt | le | gt | ge | un | num
  deriving DecidableEq, Repr

/-- Word-wait comparisons (R151, R315). -/
inductive WCmp | eq | ne | geu | ges
  deriving DecidableEq, Repr

/-- Two-, three- and four-operand integer forms with `K`, `SB` and `TY` (R30, R184). -/
structure I2 where
  k : Bool
  ty : ITy
  d : Reg
  a : Reg
  deriving DecidableEq, Repr
structure I3 where
  k : Bool
  sb : Bool
  ty : ITy
  d : Reg
  a : Reg
  b : Reg
  deriving DecidableEq, Repr
structure I4 where
  k : Bool
  sb : Bool
  ty : ITy
  d : Reg
  a : Reg
  b : Reg
  c : Reg
  deriving DecidableEq, Repr

/-- A shift amount (R193): an immediate, or the 32-bit operand B. -/
inductive ShAmt
  | imm (n : BitVec 6)
  | reg (sb : Bool) (b : Reg)
  deriving DecidableEq, Repr

/-- The forms of `MOVI` (R187). -/
inductive MoviForm | vec | sx | zx | hi
  deriving DecidableEq, Repr

/-- Floating-point operand forms with `K`, `SB`, `RM`, `FTZ` (R199). -/
structure F2 where
  k : Bool
  rm : RM
  ftz : Bool
  d : Reg
  a : Reg
  deriving DecidableEq, Repr
structure F3 where
  k : Bool
  sb : Bool
  rm : RM
  ftz : Bool
  d : Reg
  a : Reg
  b : Reg
  deriving DecidableEq, Repr
structure F4 where
  k : Bool
  sb : Bool
  rm : RM
  ftz : Bool
  d : Reg
  a : Reg
  b : Reg
  c : Reg
  deriving DecidableEq, Repr

/-- Sign operations of `FSIGN` (R205). -/
inductive SOp | cp | neg | xor
  deriving DecidableEq, Repr

/-- Operations of `OVF` (R214). -/
inductive OvfOp | chk | rd | step
  deriving DecidableEq, Repr

/-- Conversion operands: format codes as encoded (R179), rounding, random word register (R200). -/
structure Cv where
  k : Bool
  rm : RM
  d : Reg
  a : Reg
  r : Reg
  deriving DecidableEq, Repr

/-- Lane set selection (R226): sub-group code `SG`, or a mask operand. -/
inductive LaneSet
  | sub (sg : BitVec 3)
  | mask (c : Reg)
  deriving DecidableEq, Repr

inductive ShflMode | from_ | rot | mir | xor
  deriving DecidableEq, Repr

inductive VoteOp | every | some_ | same
  deriving DecidableEq, Repr

/-- The destination forms of `VOTE` (R230): a predicate per lane over the lane sets, or the mask of the whole split. -/
inductive VoteTgt
  | set (op : VoteOp) (pd : PReg) (ls : LaneSet)
  | bits (d : SReg)
  deriving DecidableEq, Repr

inductive RedOp | add | mins | maxs | minz | maxz | and | or | xor
  deriving DecidableEq, Repr

inductive FRedOp | add | min | max
  deriving DecidableEq, Repr

/-- The common memory form (R137): access type, scope, order, hint, base, index, 12-bit offset. -/
structure MemOp where
  ty : MTy
  sc : Scope
  ord : Ord4
  hnt : Hint
  d : Reg
  a : SReg
  b : Reg
  off : BitVec 12
  deriving DecidableEq, Repr

/-- The scratchpad forms (R138): swizzle in place of scope. -/
structure ScrOp where
  ty : MTy
  swz : Bool
  ord : Ord4
  d : Reg
  a : SReg
  b : Reg
  off : BitVec 12
  deriving DecidableEq, Repr

inductive LdcTy | z32 | s32 | w64
  deriving DecidableEq, Repr

inductive StwsOp | inc | addb | set
  deriving DecidableEq, Repr

inductive CctlOp | wb | inv | wbinv | dis | wball | invall | wbinvall
  deriving DecidableEq, Repr

/-- Integer atomic operations (R264). -/
inductive AOp | add | mins | maxs | minz | maxz | and | or | xor | exch | inc | dec
  deriving DecidableEq, Repr

/-- Floating-point atomic data (R264). -/
inductive AFmt | f32 | bf16x2 | f16x2
  deriving DecidableEq, Repr

/-- Operations of `ATOMS` (R264) and of `RATOM` (R284). -/
inductive ASOp
  | int (o : AOp)
  | fp (o : FRedOp)
  deriving DecidableEq, Repr
inductive RAOp
  | int (o : AOp)
  | cas
  deriving DecidableEq, Repr

/-- Fields of an atomic (R263). -/
structure Atm where
  w64 : Bool
  sc : Scope
  ord : Ord4
  d : Reg
  a : SReg
  b : Reg
  c : Reg
  deriving DecidableEq, Repr

inductive CpyDir | g2s | s2g | g2g | s2s
  deriving DecidableEq, Repr

/-- Modifiers of the block transfers (R279). -/
structure RMods where
  rod : Bool
  trig : Bool
  np : Bool
  deriving DecidableEq, Repr

/-- Membership modes (R359). -/
inductive PhMode | aw | arr | wt
  deriving DecidableEq, Repr

/-- One half of a pair word (R36). -/
structure Half where
  op : BitVec 7
  d : BitVec 7
  a : BitVec 7
  b : BitVec 7
  q : Bool
  deriving DecidableEq, Repr

/-- A fabric packet from or to a peer (R276, R281, R283, R284, R92). -/
inductive PktKind
  | write (addr : W64) (bytes : List Byte)
  | read (addr : W64) (len : Nat)
  | flag (addr : W64) (op : StwsOp) (len : Nat)
  | atomic (addr : W64) (w64 : Bool) (op : RAOp) (v : W64) (cmp : W64)
  | append (hdr : W64) (n : Nat)
  | row (addr : W64) (bytes : List Byte)
  deriving DecidableEq, Repr
structure Packet where
  job : BitVec 24
  src : BitVec 16
  dst : BitVec 16
  cmd : Nat
  part : Nat
  kind : PktKind
  deriving DecidableEq, Repr

/-- What a destination answers (R278, R281, R283). -/
inductive Reply
  | ok
  | data (bytes : List Byte)
  | old (v : W64)
  | queue (tail : W64) (base : W64) (cap : W64) (rowb : W64)
  | fault (cause : BitVec 8) (detail : BitVec 6) (addr : W64)
  deriving DecidableEq, Repr

/-- A fabric-program message (R316) and a start packet (R320). -/
structure Msg where
  job : BitVec 24
  srcDev : BitVec 16
  srcProc : BitVec 4
  tag : BitVec 16
  bytes : List Byte
  deriving DecidableEq, Repr
structure StartPkt where
  job : BitVec 24
  srcDev : BitVec 16
  srcProc : BitVec 4
  srcFpc : W64
  prog : W64
  arg : W64
  deriving DecidableEq, Repr

/-- The units whose errors the reliability unit counts (R444). -/
inductive RasUnit
  | row (pch : Nat) (bank : Nat) (row : Nat)
  | coreBank (core : Nat) (bank : Nat)
  | clusterBank (cluster : Nat) (bank : Nat)
  | sliceBank (slice : Nat) (bank : Nat)
  | link (i : Nat)
  deriving DecidableEq, Repr

/-- A remote activity whose transport can fail (R278). -/
inductive WireRef
  | copy (engine : Nat) (cmd : Nat)
  | remote (die : Nat) (cmd : Nat)
  | fx (p : Nat)
  deriving DecidableEq, Repr

/-- Fields of fabric words: register numbers. -/
abbrev FReg := BitVec 4
/-- The second operand of fabric arithmetic (R313). -/
inductive FOp2
  | reg (c : FReg)
  | imm (i : BitVec 43)
  deriving DecidableEq, Repr
inductive FCond | eq | ne | ltu | geu | lts | ges
  deriving DecidableEq, Repr
inductive BlkLen | k16 | k32 | k64
  deriving DecidableEq, Repr

/-- What a step that is no word carries beside its name: the unit it concerns, and what the outside supplies. -/
inductive Payload
  | none
  | packet (p : Packet)
  | reply (r : Reply)
  | msg (m : Msg)
  | start (s : StartPkt)
  | ras (u : RasUnit)
  | units (us : List RasUnit)
  | wire (w : WireRef)
  | keys (k1 k2 : BitVec 256)
  deriving DecidableEq, Repr

/-- The inputs of a step that is no word: `unit` names the partition, group, core, die, engine, queue, slot, link or walk
the row's description speaks of, `sub`, `idx` and `idx2` the split, command, bank, row, page or block within it. -/
structure EvIn where
  unit : Nat
  sub : Nat
  idx : Nat
  idx2 : Nat
  addr : W64
  val : W64
  on : Bool
  bytes : List Byte
  data : Payload
  deriving DecidableEq, Repr

/-- One row of opcode_table.json each: the words first, in the table's order within each instruction set, then the rows
that are steps, whose inputs stand in the state (`EvIn`). -/
inductive Instr where
  -- class 0 (12_integer_instructions.md)
  | nop (h : Hdr)
  | mov (h : Hdr) (o : I2)
  | movi (h : Hdr) (f : MoviForm) (d : Reg) (imm : W32)
  | iadd (h : Hdr) (o : I3)
  | isub (h : Hdr) (o : I3)
  | iaddi (h : Hdr) (o : I2) (imm : BitVec 16)
  | imul (h : Hdr) (o : I3)
  | imulh (h : Hdr) (o : I3)
  | imad (h : Hdr) (o : I4)
  | idiv (h : Hdr) (o : I3)
  | irem (h : Hdr) (o : I3)
  | imin (h : Hdr) (o : I3)
  | imax (h : Hdr) (o : I3)
  | iabs (h : Hdr) (o : I2)
  | ineg (h : Hdr) (o : I2)
  | isadd (h : Hdr) (sub : Bool) (o : I3)
  | lop3 (h : Hdr) (lut : BitVec 8) (o : I4)
  | andB (h : Hdr) (o : I3)
  | orB (h : Hdr) (o : I3)
  | xorB (h : Hdr) (o : I3)
  | shl (h : Hdr) (o : I2) (n : ShAmt)
  | shr (h : Hdr) (o : I2) (n : ShAmt)
  | sar (h : Hdr) (o : I2) (n : ShAmt)
  | rot (h : Hdr) (right : Bool) (o : I2) (n : ShAmt)
  | bfx (h : Hdr) (o : I3)
  | bfi (h : Hdr) (o : I4)
  | popc (h : Hdr) (o : I2)
  | clz (h : Hdr) (o : I2)
  | brev (h : Hdr) (o : I2)
  | icmp (h : Hdr) (k sb : Bool) (ty : ITy) (cmp : ICmp) (bop : BOp) (pd : PReg) (a b : Reg) (pc : PReg)
  | sel (h : Hdr) (sb : Bool) (ty : ITy) (d a b : Reg) (pc : PReg)
  | lea (h : Hdr) (k sb : Bool) (sx : Bool) (sh : BitVec 3) (d a b : Reg)
  -- class 1 (13_float_instructions.md)
  | fadd (h : Hdr) (o : F3)
  | fsub (h : Hdr) (o : F3)
  | fmul (h : Hdr) (o : F3)
  | ffma (h : Hdr) (o : F4)
  | ffms (h : Hdr) (o : F4)
  | fmin (h : Hdr) (k sb ftz : Bool) (d a b : Reg)
  | fmax (h : Hdr) (k sb ftz : Bool) (d a b : Reg)
  | fabs (h : Hdr) (k : Bool) (d a : Reg)
  | fneg (h : Hdr) (k : Bool) (d a : Reg)
  | fcmp (h : Hdr) (k sb ftz : Bool) (cmp : FCmp) (bop : BOp) (pd : PReg) (a b : Reg) (pc : PReg)
  | fclass (h : Hdr) (k : Bool) (d a : Reg)
  | frnd (h : Hdr) (o : F2)
  | fscale (h : Hdr) (o : F3)
  | fdiv (h : Hdr) (o : F3)
  | fsqrt (h : Hdr) (o : F2)
  | fsign (h : Hdr) (k sb : Bool) (op : SOp) (d a b : Reg)
  | badd2 (h : Hdr) (o : F3)
  | bmul2 (h : Hdr) (o : F3)
  | bfma2 (h : Hdr) (o : F4)
  | bmin2 (h : Hdr) (o : F3)
  | bmax2 (h : Hdr) (o : F3)
  | hadd2 (h : Hdr) (o : F3)
  | hmul2 (h : Hdr) (o : F3)
  | hfma2 (h : Hdr) (o : F4)
  | xpr (h : Hdr) (o : F4) (bodyE : Bool) (toks : BitVec 60)
  | lscale (h : Hdr) (dv bf2 : Bool) (o : F2)
  | ovf (h : Hdr) (op : OvfOp) (bf2 : Bool) (d a : Reg)
  -- class 2
  | cvt (h : Hdr) (df sf : BitVec 4) (o : Cv)
  | cvti (h : Hdr) (it : BitVec 3) (sf : BitVec 4) (o : Cv)
  | cvtf (h : Hdr) (df : BitVec 4) (it : BitVec 3) (o : Cv)
  | srnd (h : Hdr) (n : BitVec 5) (o : Cv)
  | qblk (h : Hdr) (df : BitVec 4) (bl32 : Bool) (rm : RM) (d a r : Reg)
  | dqblk (h : Hdr) (sf : BitVec 4) (sb : Bool) (rm : RM) (d a b : Reg)
  | pack (h : Hdr) (df : BitVec 4) (pos : BitVec 3) (sb : Bool) (rm : RM) (d a b r : Reg)
  | unpack (h : Hdr) (sf : BitVec 4) (pos : BitVec 3) (d a : Reg)
  | rcp (h : Hdr) (ftz : Bool) (d a : Reg)
  | rsq (h : Hdr) (ftz : Bool) (d a : Reg)
  | ex2 (h : Hdr) (ftz : Bool) (d a : Reg)
  | lg2 (h : Hdr) (ftz : Bool) (d a : Reg)
  | sin (h : Hdr) (ftz : Bool) (d a : Reg)
  | cos (h : Hdr) (ftz : Bool) (d a : Reg)
  | tanh (h : Hdr) (ftz : Bool) (d a : Reg)
  | erf (h : Hdr) (ftz : Bool) (d a : Reg)
  | rng (h : Hdr) (k w64 : Bool) (d a : Reg) (b : SReg)
  | drop (h : Hdr) (sb : Bool) (d a b : Reg) (c : SReg)
  | tqnt (h : Hdr) (sign : Bool) (n : BlkLen) (d a : Reg)
  | tdq (h : Hdr) (sign : Bool) (pos : BitVec 3) (sb : Bool) (d a b : Reg)
  -- class 3 (14_cross_lane_random.md)
  | shfl (h : Hdr) (mode : ShflMode) (w64 : Bool) (sg : BitVec 3) (sb : Bool) (d a b : Reg)
  | bcast (h : Hdr) (w64 : Bool) (sg : BitVec 3) (n : BitVec 6) (d a : Reg)
  | vote (h : Hdr) (neg : Bool) (pa : PReg) (t : VoteTgt)
  | mtch (h : Hdr) (w64 : Bool) (sg : BitVec 3) (d a : Reg)
  | redux (h : Hdr) (op : RedOp) (ls : LaneSet) (d a : Reg)
  | fredux (h : Hdr) (op : FRedOp) (rm : RM) (ftz : Bool) (ls : LaneSet) (d a : Reg)
  | scan (h : Hdr) (op : RedOp) (excl : Bool) (ls : LaneSet) (d a : Reg)
  | fscan (h : Hdr) (op : FRedOp) (rm : RM) (ftz excl : Bool) (ls : LaneSet) (d a : Reg)
  | rdlane (h : Hdr) (w64 : Bool) (d : SReg) (a : Reg) (b : SReg)
  | wrlane (h : Hdr) (w64 : Bool) (d : Reg) (a b : SReg)
  | plop (h : Hdr) (lut : BitVec 8) (pd pa pb pc : PReg)
  | pmovTov (h : Hdr) (d : Reg) (mask : BitVec 7)
  | pmovTop (h : Hdr) (a : Reg) (mask : BitVec 7)
  | elect (h : Hdr) (pd : PReg) (ls : LaneSet)
  -- class 4 (09_load_store.md)
  | ldg (h : Hdr) (o : MemOp)
  | stg (h : Hdr) (o : MemOp)
  | lds (h : Hdr) (o : ScrOp)
  | sts (h : Hdr) (o : ScrOp)
  | ldc (h : Hdr) (s : Bool) (ty : LdcTy) (d : Reg) (a : SReg) (off : BitVec 12)
  | ldl (h : Hdr) (ty : MTy) (hnt : Hint) (d : Reg) (a : SReg) (b : Reg) (off : BitVec 12)
  | stl (h : Hdr) (ty : MTy) (hnt : Hint) (d : Reg) (a : SReg) (b : Reg) (off : BitVec 12)
  | ldp (h : Hdr) (w64 : Bool) (sc : Scope) (acq : Bool) (hnt : Hint) (d : Reg) (a : SReg) (b c : Reg)
  | ldv (h : Hdr) (o : MemOp)
  | stws (h : Hdr) (ty : MTy) (sc : Scope) (sop : StwsOp) (d : Reg) (a : SReg) (b : Reg) (c : SReg)
  | prf (h : Hdr) (lvl : BitVec 2) (a : SReg) (b : Reg) (off : BitVec 12)
  | cctl (h : Hdr) (op : CctlOp) (a b : SReg)
  | fence (h : Hdr) (ord : Ord4) (sc : Scope)
  | ldm (h : Hdr) (n : BitVec 3) (sc : Scope) (ord : Ord4) (d a : SReg) (off : BitVec 12)
  | stm (h : Hdr) (n : BitVec 3) (sc : Scope) (ord : Ord4) (d a : SReg) (off : BitVec 12)
  | waitv (h : Hdr) (cmp : WCmp) (w32 : Bool) (sc : Scope) (d a b : SReg)
  -- class 5 (16, 07, 17)
  | atom (h : Hdr) (op : AOp) (o : Atm)
  | atomf (h : Hdr) (fmt : AFmt) (op : FRedOp) (sc : Scope) (ord : Ord4) (d : Reg) (a : SReg) (b c : Reg)
  | cas (h : Hdr) (o : Atm)
  | red (h : Hdr) (op : AOp) (w64 : Bool) (sc : Scope) (ord : Ord4) (a : SReg) (b c : Reg)
  | redf (h : Hdr) (fmt : AFmt) (op : FRedOp) (sc : Scope) (ord : Ord4) (a : SReg) (b c : Reg)
  | atoms (h : Hdr) (op : ASOp) (w64 swz : Bool) (ord : Ord4) (d : Reg) (a : SReg) (b c : Reg)
  | cass (h : Hdr) (w64 swz : Bool) (ord : Ord4) (d : Reg) (a : SReg) (b c : Reg)
  | cpy (h : Hdr) (dir : CpyDir) (np : Bool) (dst src : SReg) (shape : BitVec 3) (ctl : SReg)
  | offl (h : Hdr) (np : Bool) (loc rem len ctl : SReg)
  | rtrn (h : Hdr) (np : Bool) (loc rem len ctl : SReg)
  | putr (h : Hdr) (m : RMods) (r l len ctl : SReg)
  | getr (h : Hdr) (m : RMods) (r l len ctl : SReg)
  | puts (h : Hdr) (sop : StwsOp) (m : RMods) (r l len ctl : SReg)
  | append (h : Hdr) (d : Reg) (a : SReg) (b : Reg)
  | ratom (h : Hdr) (op : RAOp) (w64 : Bool) (ord : Ord4) (d : Reg) (a : SReg) (b c : Reg)
  | coll (h : Hdr) (np : Bool) (prog arg ctl : SReg)
  | layx (h : Hdr) (np : Bool) (desc ctl : SReg)
  -- class 6 (15, 22, 23, 24, 26)
  | gang (h : Hdr) (imm : W32)
  | gangClr (h : Hdr)
  | mma (h : Hdr) (za : Bool) (tile : BitVec 4) (rec : BitVec 3) (bb shape sf : SReg)
  | mfence (h : Hdr) (d : SReg)
  | mwait (h : Hdr) (n : BitVec 4)
  | mwaitAll (h : Hdr)
  | accz (h : Hdr) (tile : BitVec 4)
  | accrd (h : Hdr) (nr : BitVec 3) (d : Reg) (tile : BitVec 4) (b : SReg)
  | accwr (h : Hdr) (nr : BitVec 3) (tile : BitVec 4) (a : Reg) (b : SReg)
  | accq (h : Hdr) (df : BitVec 4) (bl16 : Bool) (rm : RM) (g : Bool) (tile : BitVec 4) (a b c : SReg)
  | shape (h : Hdr) (d : BitVec 3) (a b : SReg)
  | phjoin (h : Hdr) (mode : PhMode) (d a : SReg)
  | phdrop (h : Hdr) (a : SReg)
  | pharr (h : Hdr) (sc : Scope) (d a b : SReg)
  | phwait (h : Hdr) (sc : Scope) (d a b : SReg)
  | phexp (h : Hdr) (a b : SReg)
  | drain (h : Hdr) (mask : BitVec 3)
  | bar (h : Hdr) (id : BitVec 3) (c : SReg)
  | quies (h : Hdr)
  | grace (h : Hdr)
  | fallow (h : Hdr) (a b c : SReg)
  | tokb (h : Hdr) (d a b c : SReg)
  | vpub (h : Hdr) (hold : Bool) (a b : SReg)
  | vreq (h : Hdr) (own : Bool) (d a : SReg)
  | trpop (h : Hdr) (d : SReg) (t : BitVec 8)
  | trpsh (h : Hdr) (a : SReg) (t : BitVec 8)
  | prog (h : Hdr) (k : BitVec 3)
  -- class 7 (21, 25)
  | bra (h : Hdr) (off : BitVec 24)
  | brad (h : Hdr) (off : BitVec 24) (rej : BitVec 21)
  | join (h : Hdr)
  | brk (h : Hdr) (n : BitVec 5)
  | brx (h : Hdr) (a : SReg) (b : Reg)
  | call (h : Hdr) (off : BitVec 24) (d : SReg)
  | callR (h : Hdr) (a d : SReg)
  | ret (h : Hdr) (a : SReg)
  | yield (h : Hdr)
  | sleep (h : Hdr) (a : SReg)
  | wake (h : Hdr) (a : SReg)
  | wakeAll (h : Hdr)
  | exit (h : Hdr)
  | trap (h : Hdr) (n : BitVec 12)
  | rte (h : Hdr)
  | bkpt (h : Hdr) (n : BitVec 12)
  | csrr (h : Hdr) (s : Bool) (d : Reg) (csr : BitVec 12)
  | csrw (h : Hdr) (s : Bool) (a : Reg) (csr : BitVec 12)
  | pairWord (e : Bool) (pg : PReg) (pn : Bool) (h0 h1 : Half)
  -- fabric processor words (19_fabric_processor.md)
  | fxNop
  | fxLdi (a : FReg) (imm : BitVec 44)
  | fxLdiHi (a : FReg) (imm : BitVec 20)
  | fxAdd (a b : FReg) (c : FOp2)
  | fxSub (a b : FReg) (c : FOp2)
  | fxAnd (a b : FReg) (c : FOp2)
  | fxShl (a b : FReg) (c : FOp2)
  | fxCmpb (c : FCond) (a b : FReg) (off : BitVec 44)
  | fxJmp (off : BitVec 44)
  | fxLoop (a : FReg) (off : BitVec 44)
  | fxWaitm (c : WCmp) (a b d : FReg)
  | fxSigm (set : Bool) (a b : FReg)
  | fxLoadc (a b c : FReg)
  | fxStorec (a b c : FReg)
  | fxSend (a b c : FReg)
  | fxRecv (a b c : FReg)
  | fxDec (sign : Bool) (n : BlkLen) (a b c : FReg)
  | fxEnc (sign : Bool) (n : BlkLen) (a b c : FReg)
  | fxAddb (bf : Bool) (a b c : FReg)
  | fxSqacc (bf : Bool) (a c : FReg)
  | fxNormx (a b c : FReg)
  | fxGlnClm (a b c : FReg)
  | fxGlnAdd (a b c : FReg)
  | fxGlnSt (a b c : FReg)
  | fxGlnHop
  | fxGlnRel
  | fxGlnRsm (a b c : FReg)
  | fxCkptSv (a : FReg) (mask : BitVec 8)
  | fxCkptLd (a : FReg)
  | fxTrig (a b c : FReg)
  | fxHalt
  -- sieve words (R431)
  | sieveLdf (d a : BitVec 3) (i : BitVec 20)
  | sieveLdi (d : BitVec 3) (i : BitVec 20)
  | sieveAdd (d a : BitVec 3) (i : BitVec 20)
  | sieveSub (d a : BitVec 3) (i : BitVec 20)
  | sieveAnd (d a : BitVec 3) (i : BitVec 20)
  | sieveOr (d a : BitVec 3) (i : BitVec 20)
  | sieveXor (d a : BitVec 3) (i : BitVec 20)
  | sieveShr (d a : BitVec 3) (i : BitVec 20)
  | sieveShl (d a : BitVec 3) (i : BitVec 20)
  | sieveJeq (d a : BitVec 3) (i : BitVec 20)
  | sieveJne (d a : BitVec 3) (i : BitVec 20)
  | sieveJlt (d a : BitVec 3) (i : BitVec 20)
  | sieveKeep
  | sieveDrop
  | sieveCnt (d a : BitVec 3) (i : BitVec 20)
  | sieveTrig (d : BitVec 2)
  | sieveHist (d : BitVec 2) (a : BitVec 3) (i : BitVec 20)
  -- steps of the hardware, the reeve, firmware and the outside; their inputs stand in `EvIn`
  | runArbitration
  | forcedRunEnd
  | longLatencyResult
  | storePerform
  | bankQueueServe
  | sleepTimeout
  | waitvReread
  | pageWalkComplete
  | invalidateRange
  | invalidateAsid
  | invalidateAll
  | invalidationDone
  | contextSlotWrite
  | regulatorWrite
  | requestSchedule
  | memoryRequestComplete
  | refreshDue
  | catchUpEnd
  | owedRefresh
  | rowHammerRefresh
  | hotrefChange
  | patrolScrub
  | correctedError
  | uncorrectableError
  | keySlotLoad
  | copyCommandStart
  | deliveryUnitCount
  | offloadPageOut
  | returnPageResident
  | ceReset
  | ceEn
  | engineCommandComplete
  | matrixEngineReset
  | fabricPacketArrival
  | remoteAcknowledge
  | remoteTriggerFire
  | ueJobWrite
  | gleaningTableWrite
  | fxProgramStart
  | messageAccept
  | startPacketArrival
  | fxWaitmReread
  | fxAbort
  | fxEn
  | phaserEngineCount
  | phaserEngineFault
  | phwaitWake
  | graceEnd
  | releaseRingEntry
  | releaseRingBaseWrite
  | vpubWaitEnd
  | versionRegionConfig
  | nopPacket
  | launchPacket
  | feedPacket
  | waitmemPacket
  | writememStore64
  | writememStore32
  | writememAdd64
  | linksigPacket
  | linkwaitPacket
  | graphPacket
  | graphNodeFinish
  | copyPacket
  | collPacket
  | vpubPacket
  | ckptPacket
  | ctxctlEnd
  | ctxctlSuspend
  | ctxctlResume
  | eventQueueRegisterWrite
  | troughDisable
  | teamPlacement
  | priorityAgeing
  | deadlineMissed
  | asyncFaultDelivery
  | priorityPreemption
  | teamSave
  | teamResume
  | traceSieveRun
  | sieveLoad
  | trcStatClear
  | powerGateRequest
  | powerGateTimeout
  | debugStopRequest
  | debugResume
  | trialStart
  | trialStop
  | trialWindowEnd
  | powerOn
  | bootCold
  | bootWarm
  | bootOk
  | startTimeout
  | attestationRequest
  | checkpointStreamStart
  | sendAhead
  | checkpointComplete
  | checkpointTransportFailure
  | hostPortWrite
  | powerSample
  | thermalTrip
  | registerWrite
  | transportFailure
  | perBankRefreshEnd
  | matrixEngineResetEnd
  | thermalTripClear
  | fxTransferComplete
  deriving DecidableEq, Repr

end Sys2Proof
end

