-- ==== Sys2Proof/Config.lean ====
section
/-! DEFINITION. What an implementation fixes and the manual leaves open: the free values. None has a body, so nothing can
be proved of their values beyond what a statement assumes for every one. -/

namespace Sys2Proof

/-- Whose turn a step takes (log 1): the next word of a partition's run, of a fabric processor or of a trace core, a step
of the hardware or the outside with its inputs, the passing of reference cycles, or device time set forward to the network's
(R6, log 39). -/
inductive Turn
  | issue (part : Nat)
  | fx (p : Nat)
  | sieve (die : Nat)
  | ev (i : Instr) (a : EvIn)
  | elapse (n : Nat)
  | sync (ns : Nat)
  deriving DecidableEq, Repr, Inhabited

end Sys2Proof

namespace Sys2Proof.Config

/-- Who moves next where the agenda names nobody (log 1). -/
opaque schedule : Nat → Turn
/-- The bits of a special function inside its bounds (R224, log 7): function code, argument, free choice. -/
opaque special : Nat → W32 → W32
/-- The refresh epoch of a pseudo-channel, chosen by start-up (R72, log 14). -/
opaque epoch : Nat → Nat → Nat
/-- The measurement of a firmware image (R439, R441, log 15): the image, the quadword. -/
opaque measure : Nat → Nat → W64
/-- The fused device secret (R441, log 15). -/
opaque fused : Nat → Byte
/-- Where firmware places the capability list at a start (R443, log 15). -/
opaque capPlace : Nat → Nat
/-- A byte that the manual leaves to either its old or its new value (log 16): true takes the new one. -/
opaque newByte : Nat → Nat → Bool

end Sys2Proof.Config
end

