-- ==== Sys2Proof/Machine/RegUse.lean ====
section
/-! DEFINITION. The registers a word names as sources and destinations, in the form in which it is encoded (R30, R32,
R46, R158), and its latency class (R42, R44). The encoding checks, the budget check and the lookahead windows all read
this one list. -/

namespace Sys2Proof

/-- The register files of a group (R156). -/
inductive RKind | v | s | p | d
  deriving DecidableEq, Repr

/-- One register (R156). -/
structure RName where
  kind : RKind
  n : Nat
  deriving DecidableEq, Repr

/-- One register operand: `cnt` registers from `n`, read or written (both for a register that is both). -/
structure Use where
  kind : RKind
  n : Nat
  cnt : Nat
  aligned : Bool
  rd : Bool
  wr : Bool
  deriving DecidableEq, Repr

/-- `VZ`, `SZ` and `P7` are never pending (R33, R46). -/
def RName.constant (r : RName) : Bool :=
  match r.kind with
  | .v => decide (r.n = 255)
  | .s => decide (r.n = 63)
  | .p => decide (r.n = 7)
  | .d => false

/-- The registers of an operand. -/
def Use.names (u : Use) : List RName :=
  ((List.range u.cnt).map (fun i => (⟨u.kind, u.n + i⟩ : RName))).filter (fun r => !r.constant)

/-- The encoding rule of an operand's number alone (R30, R32, R139): pairs are even and stop below `VZ`, quads are
multiples of four, a scalar number is below 64. `VZ` is odd and therefore no operand of 64 bits, the `Vc` of a 64-bit `LDP`
among them (R148, log 53). -/
def Use.wf (u : Use) : Bool :=
  match u.kind with
  | .v => decide (u.n < 256) && (u.cnt == 1 || !u.aligned || (u.n % u.cnt == 0 && decide (u.n + u.cnt ≤ 255)))
  | .s => decide (u.n + u.cnt ≤ 64) && (u.cnt == 1 || !u.aligned || u.n % u.cnt == 0)
  | .p => decide (u.n < 8)
  | .d => decide (u.n < 8)

/-- The budget rule of an operand (R32, R157): every vector register below the budget, or `VZ` alone. -/
def Use.within (u : Use) (budget : Nat) : Bool :=
  match u.kind with
  | .v => (u.cnt == 1 && u.n == 255) || decide (u.n + u.cnt ≤ budget)
  | _ => true

def Use.rv (r : Reg) (cnt : Nat := 1) : Use := ⟨.v, r.toNat, cnt, true, true, false⟩
def Use.wv (r : Reg) (cnt : Nat := 1) : Use := ⟨.v, r.toNat, cnt, true, false, true⟩
def Use.rs (r : SReg) (cnt : Nat := 1) : Use := ⟨.s, r.toNat, cnt, true, true, false⟩
def Use.ws (r : SReg) (cnt : Nat := 1) : Use := ⟨.s, r.toNat, cnt, true, false, true⟩
def Use.rp (r : PReg) : Use := ⟨.p, r.toNat, 1, true, true, false⟩
def Use.wp (r : PReg) : Use := ⟨.p, r.toNat, 1, true, false, true⟩

/-- An open field: a scalar register under `K` or `SB`, else `cnt` vector registers (R30, R158). -/
def Use.ro (s : Bool) (r : Reg) (cnt : Nat := 1) : Use :=
  if s then ⟨.s, r.toNat, 1, true, true, false⟩ else ⟨.v, r.toNat, cnt, true, true, false⟩
def Use.wo (s : Bool) (r : Reg) (cnt : Nat := 1) : Use :=
  if s then ⟨.s, r.toNat, 1, true, false, true⟩ else ⟨.v, r.toNat, cnt, true, false, true⟩

/-- Whether a type is 64 bits wide (R184). -/
def ITy.wide : ITy → Bool
  | .s32 => false | .z32 => false | .s64 => true | .z64 => true
/-- Whether a type is signed (R184). -/
def ITy.signed : ITy → Bool
  | .s32 => true | .z32 => false | .s64 => true | .z64 => false
/-- The width in bits. -/
def ITy.bits (t : ITy) : Nat := if t.wide then 64 else 32
/-- Vector registers of an operand of this type (R158). -/
def ITy.cnt (t : ITy) : Nat := if t.wide then 2 else 1

def cnt64 (w64 : Bool) : Nat := if w64 then 2 else 1

def I2.uses (o : I2) : List Use := [Use.wo o.k o.d o.ty.cnt, Use.ro o.k o.a o.ty.cnt]
def I3.uses (o : I3) : List Use :=
  [Use.wo o.k o.d o.ty.cnt, Use.ro o.k o.a o.ty.cnt, Use.ro (o.k || o.sb) o.b o.ty.cnt]
/-- `BFX`: B is a 32-bit operand (R194). -/
def I3.usesB32 (o : I3) : List Use :=
  [Use.wo o.k o.d o.ty.cnt, Use.ro o.k o.a o.ty.cnt, Use.ro (o.k || o.sb) o.b 1]
def I4.uses (o : I4) : List Use :=
  [Use.wo o.k o.d o.ty.cnt, Use.ro o.k o.a o.ty.cnt, Use.ro (o.k || o.sb) o.b o.ty.cnt, Use.ro o.k o.c o.ty.cnt]
/-- `BFI`: B is a 32-bit operand (R194). -/
def I4.usesB32 (o : I4) : List Use :=
  [Use.wo o.k o.d o.ty.cnt, Use.ro o.k o.a o.ty.cnt, Use.ro (o.k || o.sb) o.b 1, Use.ro o.k o.c o.ty.cnt]
/-- A shift amount in a register is a 32-bit operand (R193). -/
def ShAmt.uses (k : Bool) : ShAmt → List Use
  | .imm _ => []
  | .reg sb b => [Use.ro (k || sb) b 1]
def F2.uses (o : F2) : List Use := [Use.wo o.k o.d, Use.ro o.k o.a]
def F3.uses (o : F3) : List Use := [Use.wo o.k o.d, Use.ro o.k o.a, Use.ro (o.k || o.sb) o.b]
def F4.uses (o : F4) : List Use :=
  [Use.wo o.k o.d, Use.ro o.k o.a, Use.ro (o.k || o.sb) o.b, Use.ro o.k o.c]
/-- The random word of `.rs` (R200). -/
def usesRnd (k : Bool) (rm : RM) (r : Reg) : List Use := if rm = .rs then [Use.ro k r] else []
/-- A combining predicate is read only when it combines (R196). -/
def usesComb (bop : BOp) (pc : PReg) : List Use := if bop = .none then [] else [Use.rp pc]
/-- The mask operand of `.m` (R226). -/
def LaneSet.uses : LaneSet → List Use
  | .sub _ => []
  | .mask c => [Use.rv c 2]
/-- Vector registers of an access type (R139). -/
def MTy.cnt : MTy → Nat
  | .w64 => 2 | .b128 => 4 | _ => 1
/-- Registers of the common memory form (R137); `st` marks a store. -/
def memUses (st : Bool) (ty : MTy) (d : Reg) (a : SReg) (b : Reg) : List Use :=
  [if st then Use.rv d ty.cnt else Use.wv d ty.cnt, Use.rs a, Use.rv b]
def Atm.uses (o : Atm) (cc : Nat) : List Use := [Use.wv o.d (cnt64 o.w64), Use.rs o.a, Use.rv o.b, Use.rv o.c cc]
/-- Registers of a compare-and-swap operand C (R265). -/
def casCnt (w64 : Bool) : Nat := if w64 then 4 else 2

/-- The tokens of an `XPR` body, in order (R210). -/
def xprTokens (toks : BitVec 60) : List Nat := (List.range 12).map (fun i => (toks.toNat / 2 ^ (5 * i)) % 32)
/-- The tokens before the first `end`. -/
def xprProgram (toks : BitVec 60) : List Nat := (xprTokens toks).takeWhile (fun t => t != 0)
def xprUses (o : F4) (toks : BitVec 60) : List Use :=
  let p := xprProgram toks
  [Use.wo false o.d] ++ (if 4 ∈ p then [Use.rv o.d] else [])
    ++ (if 1 ∈ p then [Use.rv o.a] else []) ++ (if 2 ∈ p then [Use.ro o.sb o.b] else [])
    ++ (if 3 ∈ p then [Use.rv o.c] else [])

/-- Integer type codes of conversions (R218): 3 and 7 are 64 bits. -/
def itCnt (k : Bool) (it : BitVec 3) : Nat := if !k && (it == 3 || it == 7) then 2 else 1

/-- The predicates of a `PMOV` mask (R235). -/
def maskPreds (mask : BitVec 7) : List Nat := (List.range 7).filter (fun i => mask.getLsbD i)

/-- Which source fields a pair opcode reads, and whether it is an FMA-pipe opcode (R37). -/
inductive PairKind | fma2 | fma3 | alu1 | alu2
  deriving DecidableEq, Repr
def pairKind (op : BitVec 7) : Option PairKind :=
  match op.toNat with
  | 0x00 => some .fma2 | 0x01 => some .fma2 | 0x02 => some .fma2 | 0x03 => some .fma3
  | 0x04 => some .fma2 | 0x05 => some .fma2 | 0x06 => some .fma2 | 0x07 => some .fma2
  | 0x08 => some .fma3 | 0x09 => some .fma2 | 0x0A => some .fma2 | 0x0B => some .fma3
  | 0x40 => some .alu1 | 0x41 => some .alu2 | 0x42 => some .alu2 | 0x43 => some .alu2
  | 0x44 => some .alu2 | 0x45 => some .alu2 | 0x46 => some .alu2 | 0x47 => some .alu2
  | 0x48 => some .alu2 | 0x49 => some .alu2 | 0x4A => some .alu2 | 0x4B => some .alu1
  | 0x4C => some .alu1
  | _ => none

/-- The registers a half reads (R37). -/
def Half.reads (h : Half) : List (BitVec 7) :=
  match pairKind h.op with
  | some .fma2 => [h.a, h.b]
  | some .alu2 => [h.a, h.b]
  | some .fma3 => [h.a, h.b, h.d]
  | some .alu1 => [h.a]
  | none => []
def Half.uses (h : Half) : List Use :=
  ⟨.v, h.d.toNat, 1, true, false, true⟩ :: h.reads.map (fun r => (⟨.v, r.toNat, 1, true, true, false⟩ : Use))
def Half.isFma (h : Half) : Bool := decide (h.op.toNat < 0x40)

/-- Legality of a pair word (R37, R38). -/
def pairLegal (h0 h1 : Half) : Bool :=
  match pairKind h0.op, pairKind h1.op with
  | some k0, some k1 =>
    let rs := (h0.reads ++ h1.reads).dedup
    (k0 != .alu1 || h0.b == 0) && (k1 != .alu1 || h1.b == 0)
      && (h0.isFma != h1.isFma) && (h0.d != h1.d) && !(h1.reads.contains h0.d)
      && (List.range 4).all (fun k => decide ((rs.filter (fun r => r.toNat % 4 == k)).length ≤ 2))
  | _, _ => false

/-- Latency and run classes (R42, R44). -/
inductive Lat | short | long | ctl
  deriving DecidableEq, Repr

/-- The body of an `XPR` is legal (R211): tokens, stack depth, and no unread nonzero source. -/
def xprStack : List Nat → Nat → Option Nat
  | [], d => some d
  | t :: ts, d =>
    if 1 ≤ t && t ≤ 8 then if d < 4 then xprStack ts (d + 1) else none
    else if t = 9 then if 1 ≤ d && d < 4 then xprStack ts (d + 1) else none
    else if t = 10 then if 2 ≤ d then xprStack ts d else none
    else if t = 11 || t = 12 || t = 13 || t = 15 || t = 16 then if 2 ≤ d then xprStack ts (d - 1) else none
    else if t = 14 then if 3 ≤ d then xprStack ts (d - 2) else none
    else if t = 17 || t = 18 || t = 19 || t = 20 then if 1 ≤ d then xprStack ts d else none
    else none
/-- The checks of an `XPR` body (R211): reserved tokens, the stack, and each of A, B and C named where its field is not 0. A word with
`SB` = 1 whose body names no B is accepted where B is 0 (log 53). -/
def xprLegal (o : F4) (toks : BitVec 60) : Bool :=
  let all := xprTokens toks
  let p := xprProgram toks
  (all.drop p.length).all (fun t => t == 0) && xprStack p 0 == some 1
    && (o.a == 0 || p.contains 1) && (o.b == 0 || p.contains 2) && (o.c == 0 || p.contains 3)

/-- The registers every word names (R46). Rows that are no Igyan words name none. -/
def Instr.uses : Instr → List Use
  | .mov _ o => o.uses
  | .movi _ f d _ => match f with
    | .vec => [Use.wv d]
    | .hi => [Use.wo true d, Use.ro true d]
    | .sx => [Use.wo true d]
    | .zx => [Use.wo true d]
  | .iadd _ o => o.uses
  | .isub _ o => o.uses
  | .iaddi _ o _ => o.uses
  | .imul _ o => o.uses
  | .imulh _ o => o.uses
  | .imad _ o => o.uses
  | .idiv _ o => o.uses
  | .irem _ o => o.uses
  | .imin _ o => o.uses
  | .imax _ o => o.uses
  | .iabs _ o => o.uses
  | .ineg _ o => o.uses
  | .isadd _ _ o => o.uses
  | .lop3 _ _ o => o.uses
  | .andB _ o => o.uses
  | .orB _ o => o.uses
  | .xorB _ o => o.uses
  | .shl _ o n => o.uses ++ n.uses o.k
  | .shr _ o n => o.uses ++ n.uses o.k
  | .sar _ o n => o.uses ++ n.uses o.k
  | .rot _ _ o n => o.uses ++ n.uses o.k
  | .bfx _ o => o.usesB32
  | .bfi _ o => o.usesB32
  | .popc _ o => o.uses
  | .clz _ o => o.uses
  | .brev _ o => o.uses
  | .icmp _ k sb ty _ bop pd a b pc => [Use.wp pd, Use.ro k a ty.cnt, Use.ro (k || sb) b ty.cnt] ++ usesComb bop pc
  | .sel _ sb ty d a b pc => [Use.wv d ty.cnt, Use.rv a ty.cnt, Use.ro sb b ty.cnt, Use.rp pc]
  | .lea _ k sb _ _ d a b => [Use.wo k d 2, Use.ro k a 1, Use.ro (k || sb) b 2]
  | .fadd _ o => o.uses
  | .fsub _ o => o.uses
  | .fmul _ o => o.uses
  | .ffma _ o => o.uses
  | .ffms _ o => o.uses
  | .fmin _ k sb _ d a b => [Use.wo k d, Use.ro k a, Use.ro (k || sb) b]
  | .fmax _ k sb _ d a b => [Use.wo k d, Use.ro k a, Use.ro (k || sb) b]
  | .fabs _ k d a => [Use.wo k d, Use.ro k a]
  | .fneg _ k d a => [Use.wo k d, Use.ro k a]
  | .fcmp _ k sb _ _ bop pd a b pc => [Use.wp pd, Use.ro k a, Use.ro (k || sb) b] ++ usesComb bop pc
  | .fclass _ k d a => [Use.wo k d, Use.ro k a]
  | .frnd _ o => o.uses
  | .fscale _ o => o.uses
  | .fdiv _ o => o.uses
  | .fsqrt _ o => o.uses
  | .fsign _ k sb _ d a b => [Use.wo k d, Use.ro k a, Use.ro (k || sb) b]
  | .badd2 _ o => o.uses
  | .bmul2 _ o => o.uses
  | .bfma2 _ o => o.uses
  | .bmin2 _ o => o.uses
  | .bmax2 _ o => o.uses
  | .hadd2 _ o => o.uses
  | .hmul2 _ o => o.uses
  | .hfma2 _ o => o.uses
  | .xpr _ o _ toks => xprUses o toks
  | .lscale _ _ _ o => o.uses
  | .ovf _ op _ d a => [Use.wv d] ++ (if op = .chk then [Use.rv a] else [])
  | .cvt _ _ _ o => [Use.wo o.k o.d, Use.ro o.k o.a] ++ usesRnd o.k o.rm o.r
  | .cvti _ it _ o => [Use.wo o.k o.d (itCnt o.k it), Use.ro o.k o.a] ++ usesRnd o.k o.rm o.r
  | .cvtf _ _ it o => [Use.wo o.k o.d, Use.ro o.k o.a (itCnt o.k it)] ++ usesRnd o.k o.rm o.r
  | .srnd _ _ o => [Use.wo o.k o.d, Use.ro o.k o.a] ++ usesRnd o.k o.rm o.r
  | .qblk _ _ _ rm d a r => [Use.wv d 2, Use.rv a] ++ usesRnd false rm r
  | .dqblk _ _ sb _ d a b => [Use.wv d, Use.rv a, Use.ro sb b]
  | .pack _ _ _ sb rm d a b r => [Use.wv d, Use.rv a, Use.ro sb b] ++ usesRnd false rm r
  | .unpack _ _ _ d a => [Use.wv d, Use.rv a]
  | .rcp _ _ d a => [Use.wv d, Use.rv a]
  | .rsq _ _ d a => [Use.wv d, Use.rv a]
  | .ex2 _ _ d a => [Use.wv d, Use.rv a]
  | .lg2 _ _ d a => [Use.wv d, Use.rv a]
  | .sin _ _ d a => [Use.wv d, Use.rv a]
  | .cos _ _ d a => [Use.wv d, Use.rv a]
  | .tanh _ _ d a => [Use.wv d, Use.rv a]
  | .erf _ _ d a => [Use.wv d, Use.rv a]
  | .rng _ k w64 d a b => [Use.wo k d (cnt64 w64), Use.ro k a 2, Use.rs b]
  | .drop _ sb d a b c => [Use.wv d, Use.rv a, Use.ro sb b 2, Use.rs c 2]
  | .tqnt _ _ _ d a => [Use.wv d 2, Use.rv a]
  | .tdq _ _ _ sb d a b => [Use.wv d, Use.rv a, Use.ro sb b]
  | .shfl _ _ w64 _ sb d a b => [Use.wv d (cnt64 w64), Use.rv a (cnt64 w64), Use.ro sb b]
  | .bcast _ w64 _ _ d a => [Use.wv d (cnt64 w64), Use.rv a (cnt64 w64)]
  | .vote _ _ pa t => match t with
    | .set _ pd ls => [Use.wp pd, Use.rp pa] ++ ls.uses
    | .bits d => [Use.ws d, Use.rp pa]
  | .mtch _ w64 _ d a => [Use.wv d 2, Use.rv a (cnt64 w64)]
  | .redux _ _ ls d a => [Use.wv d, Use.rv a] ++ ls.uses
  | .fredux _ _ _ _ ls d a => [Use.wv d, Use.rv a] ++ ls.uses
  | .scan _ _ _ ls d a => [Use.wv d, Use.rv a] ++ ls.uses
  | .fscan _ _ _ _ _ ls d a => [Use.wv d, Use.rv a] ++ ls.uses
  | .rdlane _ w64 d a b => [Use.ws d, Use.rv a (cnt64 w64), Use.rs b]
  | .wrlane _ w64 d a b => [Use.wv d (cnt64 w64), Use.rs a, Use.rs b]
  | .plop _ _ pd pa pb pc => [Use.wp pd, Use.rp pa, Use.rp pb, Use.rp pc]
  | .pmovTov _ d mask => [Use.wv d] ++ (maskPreds mask).map (fun i => (⟨.p, i, 1, true, true, false⟩ : Use))
  | .pmovTop _ a mask => [Use.rv a] ++ (maskPreds mask).map (fun i => (⟨.p, i, 1, true, false, true⟩ : Use))
  | .elect _ pd ls => [Use.wp pd] ++ ls.uses
  | .ldg _ o => memUses false o.ty o.d o.a o.b
  | .stg _ o => memUses true o.ty o.d o.a o.b
  | .lds _ o => memUses false o.ty o.d o.a o.b
  | .sts _ o => memUses true o.ty o.d o.a o.b
  | .ldc _ s ty d a _ => [Use.wo s d (if ty = .w64 then 2 else 1), Use.rs a]
  | .ldl _ ty _ d a b _ => memUses false ty d a b
  | .stl _ ty _ d a b _ => memUses true ty d a b
  | .ldp _ w64 _ _ _ d a b c => [Use.wv d (cnt64 w64), Use.rs a, Use.rv b, Use.rv c (cnt64 w64)]
  | .ldv _ o => memUses false o.ty o.d o.a o.b
  | .stws _ ty _ _ d a b c => memUses true ty d a b ++ [Use.rs c]
  | .prf _ _ a b _ => [Use.rs a, Use.rv b]
  | .cctl _ op a b => if op == .wball || op == .invall || op == .wbinvall then [] else [Use.rs a, Use.rs b]
  | .fence _ _ _ => []
  | .ldm _ n _ _ d a _ => [⟨.s, d.toNat, n.toNat + 1, false, false, true⟩, Use.rs a]
  | .stm _ n _ _ d a _ => [⟨.s, d.toNat, n.toNat + 1, false, true, false⟩, Use.rs a]
  | .waitv _ _ _ _ d a b => [Use.ws d, Use.rs a, Use.rs b]
  | .atom _ _ o => o.uses (cnt64 o.w64)
  | .atomf _ _ _ _ _ d a b c => [Use.wv d, Use.rs a, Use.rv b, Use.rv c]
  | .cas _ o => o.uses (casCnt o.w64)
  | .red _ _ w64 _ _ a b c => [Use.rs a, Use.rv b, Use.rv c (cnt64 w64)]
  | .redf _ _ _ _ _ a b c => [Use.rs a, Use.rv b, Use.rv c]
  | .atoms _ _ w64 _ _ d a b c => [Use.wv d (cnt64 w64), Use.rs a, Use.rv b, Use.rv c (cnt64 w64)]
  | .cass _ w64 _ _ d a b c => [Use.wv d (cnt64 w64), Use.rs a, Use.rv b, Use.rv c (casCnt w64)]
  | .cpy _ _ np dst src shp ctl =>
    [Use.rs dst, Use.rs src, ⟨.d, shp.toNat, 1, true, true, false⟩] ++ (if np then [] else [Use.rs ctl])
  | .offl _ _ loc rem len ctl => [Use.rs loc, Use.rs rem, Use.rs len, Use.rs ctl]
  | .rtrn _ _ loc rem len ctl => [Use.rs loc, Use.rs rem, Use.rs len, Use.rs ctl]
  | .putr _ m r l len ctl => [Use.rs r, Use.rs l, Use.rs len, Use.rs ctl (cnt64 m.trig)]
  | .getr _ m r l len ctl => [Use.rs r, Use.rs l, Use.rs len, Use.rs ctl (cnt64 m.trig)]
  | .puts _ _ m r l len ctl => [Use.rs r, Use.rs l, Use.rs len 2, Use.rs ctl (cnt64 m.trig)]
  | .append _ d a b => [Use.wv d 2, Use.rs a 2, Use.rv b 2]
  | .ratom _ op w64 _ d a b c =>
    [Use.wv d (cnt64 w64), Use.rs a 2, Use.rv b, Use.rv c (match op with | .cas => casCnt w64 | .int _ => cnt64 w64)]
  | .coll _ _ pg arg ctl => [Use.rs pg, Use.rs arg, Use.rs ctl]
  | .layx _ _ desc ctl => [Use.rs desc, Use.rs ctl]
  | .mma _ _ _ rc bb shp sf =>
    [⟨.d, rc.toNat, 1, true, true, false⟩, Use.rs bb, Use.rs shp, Use.rs sf 2]
  | .mfence _ d => [Use.ws d]
  | .accrd _ nr d _ b => [⟨.v, d.toNat, nr.toNat + 1, false, false, true⟩, Use.rs b]
  | .accwr _ nr _ a b => [⟨.v, a.toNat, nr.toNat + 1, false, true, false⟩, Use.rs b]
  | .accq _ df _ _ _ _ a b c => [Use.rs a, Use.rs b] ++ (if df.toNat ≤ 1 then [] else [Use.rs c])
  | .shape _ d a b => [⟨.d, d.toNat, 1, true, false, true⟩, Use.rs a, Use.rs b]
  | .phjoin _ _ d a => [Use.ws d, Use.rs a]
  | .phdrop _ a => [Use.rs a]
  | .pharr _ _ d a b => [Use.ws d, Use.rs a, Use.rs b]
  | .phwait _ _ d a b => [Use.ws d, Use.rs a, Use.rs b]
  | .phexp _ a b => [Use.rs a, Use.rs b]
  | .bar _ _ c => [Use.rs c]
  | .fallow _ a b c => [Use.rs a, Use.rs b, Use.rs c]
  | .tokb _ d a b c => [Use.ws d, Use.rs a, Use.rs b, Use.rs c]
  | .vpub _ _ a b => [Use.rs a, Use.rs b]
  | .vreq _ own d a => [Use.ws d] ++ (if own then [] else [Use.rs a])
  | .trpop _ d _ => [⟨.s, d.toNat, 8, false, false, true⟩]
  | .trpsh _ a _ => [⟨.s, a.toNat, 8, false, true, false⟩]
  | .brx _ a b => [Use.rs a, Use.rv b]
  | .call _ _ d => [Use.ws d]
  | .callR _ a d => [Use.ws d, Use.rs a]
  | .ret _ a => [Use.rs a]
  | .sleep _ a => [Use.rs a]
  | .wake _ a => [Use.rs a]
  | .csrr _ s d _ => [Use.wo s d]
  | .csrw _ s a _ => [Use.ro s a]
  | .pairWord _ _ _ h0 h1 => h0.uses ++ h1.uses
  | _ => []

/-- The latency class (R42, R44). -/
def Instr.lat : Instr → Lat
  | .idiv .. | .irem .. => .long
  | .fdiv .. | .fsqrt .. | .xpr .. | .lscale .. | .ovf .. => .long
  | .nop .. | .mov .. | .movi .. | .iadd .. | .isub .. | .iaddi .. | .imul .. | .imulh .. | .imad .. | .imin .. => .short
  | .imax .. | .iabs .. | .ineg .. | .isadd .. | .lop3 .. | .andB .. | .orB .. | .xorB .. | .shl .. | .shr .. => .short
  | .sar .. | .rot .. | .bfx .. | .bfi .. | .popc .. | .clz .. | .brev .. | .icmp .. | .sel .. | .lea .. => .short
  | .fadd .. | .fsub .. | .fmul .. | .ffma .. | .ffms .. | .fmin .. | .fmax .. | .fabs .. | .fneg .. | .fcmp .. => .short
  | .fclass .. | .frnd .. | .fscale .. | .fsign .. | .badd2 .. | .bmul2 .. | .bfma2 .. | .bmin2 .. => .short
  | .bmax2 .. | .hadd2 .. | .hmul2 .. | .hfma2 .. | .plop .. | .pmovTov .. | .pmovTop .. | .pairWord .. => .short
  | .bra .. | .brad .. | .join .. | .brk .. | .brx .. | .call .. | .callR .. | .ret .. | .yield .. | .sleep .. => .ctl
  | .exit .. | .rte .. => .ctl
  | _ => .long

end Sys2Proof
end

