-- ==== Sys2Proof/Machine/SMap.lean ====
section
/-! DEFINITION. The sparse map that holds every large piece of state: a list of (key, value) pairs with strictly
rising keys. Where the map has a default value, no entry holds it, so equal contents are equal lists. -/

namespace Sys2Proof

/-- A sparse map with natural keys, sorted by key. -/
abbrev SMap (α : Type) := List (Nat × α)

/-- The entry at a key, if there is one. -/
def SMap.find? {α : Type} : SMap α → Nat → Option α
  | [], _ => none
  | (k', v) :: m, k => if k' = k then some v else SMap.find? m k

/-- The value at a key; an unlisted key reads as the default. -/
def SMap.get {α : Type} (d : α) (m : SMap α) (k : Nat) : α := (SMap.find? m k).getD d

/-- Place a value at a key, keeping the keys strictly rising. -/
def SMap.insert {α : Type} : SMap α → Nat → α → SMap α
  | [], k, v => [(k, v)]
  | (k', v') :: m, k, v =>
    if k < k' then (k, v) :: (k', v') :: m
    else if k = k' then (k, v) :: m
    else (k', v') :: SMap.insert m k v

/-- Remove a key. -/
def SMap.erase {α : Type} (m : SMap α) (k : Nat) : SMap α := m.filter (fun e => e.1 != k)

/-- Write a value in a map whose default is `d`: the default is never listed. -/
def SMap.set {α : Type} [DecidableEq α] (d : α) (m : SMap α) (k : Nat) (v : α) : SMap α :=
  if v = d then SMap.erase m k else SMap.insert m k v

/-- Change the entry at a key, if there is one. -/
def SMap.adjust {α : Type} (m : SMap α) (k : Nat) (f : α → α) : SMap α :=
  match SMap.find? m k with
  | some v => SMap.insert m k (f v)
  | none => m

/-- The keys strictly rise. -/
def SMap.sorted {α : Type} : SMap α → Bool
  | [] => true
  | (k, _) :: m => m.all (fun p => decide (k < p.1)) && SMap.sorted m

/-- The canonical form of a map with default `d`: keys strictly rise and no entry is the default. -/
def SMap.wf {α : Type} [DecidableEq α] (d : α) (m : SMap α) : Bool :=
  SMap.sorted m && m.all (fun p => decide (p.2 ≠ d))

/-- The entries whose key and value satisfy a test. -/
def SMap.keep {α : Type} (m : SMap α) (p : Nat → α → Bool) : SMap α := m.filter (fun e => p e.1 e.2)

/-- Apply a function to every value. -/
def SMap.mapV {α β : Type} (m : SMap α) (f : α → β) : SMap β := m.map (fun e => (e.1, f e.2))

/-- The values, in key order. -/
def SMap.vals {α : Type} (m : SMap α) : List α := m.map Prod.snd

end Sys2Proof
end

