-- ==== Sys2Proof/Machine/GroupTypes.lean ====
section
/-! DEFINITION. The data of a group of lanes: registers, splits, windows, pending results, the rejoin stack, the store FIFO,
trap state, memberships (10, 13, 15, 21, 22, 23, 24, 25). -/

namespace Sys2Proof.Machine

/-- One write of a result: a vector register of a lane, a scalar register, a predicate of a lane, a `D` register, or flags
ORed into a lane's `FLG` (R164). -/
inductive RegWrite
  | v (reg lane : Nat) (x : W32)
  | s (reg : Nat) (x : W64)
  | p (reg lane : Nat) (b : Bool)
  | d (reg : Nat) (x : W128)
  | flg (lane : Nat) (f : BitVec 8)
  deriving DecidableEq, Repr

/-- A precise fault before delivery: code, detail, address, deciding lane (R51, R408). -/
structure FInfo where
  code : BitVec 8
  detail : W32
  addr : W64
  lane : Nat
  deriving DecidableEq, Repr

/-- The kind of command that raised an asynchronous fault: the words that depend on it (R254, R369, R410). A matrix command
is known by its tile and the serial of its batch, none while that is open. A `MATRIX_RESET` is raised at an `MWAIT` or `ACCRD`
only (R261); `named` says that it names a discarded command. -/
inductive CmdKind
  | other | copy | remote | fabric
  | matrix (tile : Nat) (batch : Option Nat)
  | reset (named : Bool)
  deriving DecidableEq, Repr

/-- An asynchronous fault with its launch-site name (R256, R410). -/
structure AFault where
  code : BitVec 8
  detail : W32
  addr : W64
  site : W64
  seq : W32
  kind : CmdKind
  deriving DecidableEq, Repr

/-- A pending `MATRIX_RESET`. -/
def AFault.isReset (f : AFault) : Bool := match f.kind with
  | .reset _ => true
  | _ => false

/-- A launch-site name with the group that owns it (R256). -/
structure Site where
  gid : Nat
  pc : W64
  seq : W32
  deriving DecidableEq, Repr

/-- Why a split stalls at a word that will issue again (R41, R340). -/
inductive Why
  | results (ids : List Nat)
  | flags
  | walk (slot region : Nat)
  | page (slot : Nat) (va : Nat) (writes : Bool)
  | fifoEmpty
  | lines
  | regulator
  | exit
  | ordered
  | bank (core bank : Nat)
  | copyQueue (engine : Nat)
  | remoteQueue (die : Nat)
  | fxQueue (p : Nat)
  | drainFull (cls : Nat)
  | drain (mask : Nat)
  | batches
  | latch
  | tile (tile : Nat)
  | phase (phaser : Nat) (ap : W32)
  | barrier (id : Nat)
  | fallowFull (slot : Nat)
  | troughFull (t : Nat)
  | keyLoad (key : Nat)
  deriving DecidableEq, Repr

/-- A wait that another step completes (R41); a `WAITV` keeps the lane that decides its faults (R51); an `MWAIT` is for the batches with serials below a bound (R254). -/
inductive Wait
  | word (va : W64) (cmp : WCmp) (w32 : Bool) (sc : Scope) (d : Nat) (v : W64) (lane : Nat) (last : Nat)
  | barrier (id : Nat)
  | matrix (upTo : Nat)
  | grace (id : Nat)
  | publish (region : Nat) (v : W32) (hold : Bool)
  | stopped (f : Option FInfo) (af : Option AFault)
  deriving DecidableEq, Repr

/-- What a split is asleep in (R340). -/
inductive Sleep
  | sleep (deadline : Option Nat)
  | trpop (t d : Nat)
  | phwait (phaser : Nat) (n : W32) (d : Nat) (sc : Scope)
  deriving DecidableEq, Repr

/-- The state of a split (R340). -/
inductive SplitSt
  | ready
  | stalled (w : Why)
  | waiting (w : Wait)
  | asleep (s : Sleep)
  deriving DecidableEq, Repr

/-- An open lookahead window (R46): the pending result, the words it still covers, and its destinations. -/
structure Win where
  id : Nat
  left : Nat
  dests : List RName
  deriving DecidableEq, Repr

/-- A live split (R341). `holdFor` holds the results that its first word after a run-ending control instruction waits for
(R48). -/
structure Split where
  idx : Nat
  pc : W64
  mask : Lanes
  st : SplitSt
  demote : Bool
  wins : List Win
  holdFor : List Nat
  deriving DecidableEq, Repr

/-- A record of the rejoin stack (R344). -/
structure Rec where
  rejpc : W64
  mask : Lanes
  arr : Lanes
  pkpc : W64
  pkmask : Lanes
  deriving DecidableEq, Repr

/-- A long-latency result computed at issue and not yet written (R44, R46); `lines` counts the bank lines still queued
(R128), `demote` the polling loads and failed compare-and-swaps of R343, `bad` the fault of a load that consumed a poisoned
byte (R141), `pc` its word and `tick` the step of its issue, whose requests it waits for. -/
structure Pend where
  id : Nat
  split : Nat
  dests : List RName
  setsFlg : Bool
  demote : Bool
  lines : Nat
  writes : List RegWrite
  bad : Option FInfo
  pc : W64
  tick : Nat
  deriving DecidableEq, Repr

/-- One element of a store: a byte at a canonical address (or a swizzled scratchpad offset). -/
structure StByte where
  addr : Nat
  b : Byte
  deriving DecidableEq, Repr

/-- The attributes of a translated page that an access carries on (R83). -/
structure Attr where
  key : Nat
  cp : Nat
  lat : Bool
  deriving DecidableEq, Repr

/-- One lane of an atomic: its address as written, the canonical address or offset, operand and comparand. -/
structure AtLane where
  lane : Nat
  va : W64
  addr : Nat
  attr : Attr
  v : W64
  cmp : W64
  deriving DecidableEq, Repr

/-- Atomic operations at a place (R264). -/
inductive AtOp
  | int (o : AOp)
  | fp (fm : AFmt) (o : FRedOp)
  | cas
  deriving DecidableEq, Repr

/-- The pages, by base and size, that an access on its way was translated through, and the step in which it was (R91). -/
structure Via where
  tick : Nat
  pages : List (Nat × Nat)
  deriving DecidableEq, Repr

/-- The word that put an atomic in the FIFO: its split and address (R269). -/
structure From where
  split : Nat
  pc : W64
  deriving DecidableEq, Repr

/-- An entry of the store FIFO (R142, R268), and the signal of an `STWS` behind its payload (R150): the amount added, or
none to set 1. -/
inductive FifoE
  | global (sc : Scope) (nol1 : Bool) (attr : Attr) (via : Via) (bytes : List StByte)
  | scratch (bytes : List StByte)
  | red (op : AtOp) (w64 : Bool) (sc : Scope) (word : From) (via : Via) (lanes : List AtLane)
  | signal (sc : Scope) (k : Option W64) (word : From) (via : Via) (flag : AtLane)
  deriving DecidableEq, Repr

/-- A membership of a phaser (R359). -/
structure Member where
  phaser : Nat
  mode : PhMode
  ap : W32
  deriving DecidableEq, Repr

/-- The rendezvous latch entry of a group (R249, R422). -/
structure Latch where
  id : Nat
  site : W64
  seq : W32
  tswz : BitVec 4
  za : Bool
  tile : Nat
  list : W32
  bb : Nat
  m : Nat
  n : Nat
  k : Nat
  sf0 : W64
  sf1 : W64
  rcd : W128
  deriving DecidableEq, Repr

/-- A closed batch: its serial number, whose low four bits are the batch number, and the engine commands it waits for
(R253). -/
structure Batch where
  num : Nat
  cmds : List Nat
  deriving DecidableEq, Repr

/-- What an `ACCQ` wrote to global memory, still to be acquired by `MWAIT` (R254): the serial of its batch, none while that is
open, its tile, and canonical 32-byte sectors. -/
structure QWrite where
  batch : Option Nat
  tile : Nat
  sectors : List Nat
  deriving DecidableEq, Repr

/-- A resident group. -/
structure Group where
  tid : Nat
  ctx : Nat
  gi : Nat
  role : Nat
  rank : Nat
  width : Nat
  budget : Nat
  slot : Nat
  core : Nat
  part : Nat
  -- registers (R156)
  v : SMap W32
  s : SMap W64
  d : SMap W128
  p : SMap Lanes
  flg : SMap (BitVec 8)
  -- control (21)
  splits : List Split
  stack : List Rec
  wakeBit : Bool
  -- outstanding work
  pend : List Pend
  nextPend : Nat
  fifo : List FifoE
  cc : Nat
  -- loss scaling (R212)
  nf : Bool
  mx : Bool
  lsc : W32
  lscn : W32
  lsci : W32
  -- matrix engine (R255, R256)
  gang : W32
  cmdseq : W32
  latch : Option Latch
  openCmds : List Nat
  openCnt : Nat
  batches : List Batch
  nextBatch : Nat
  qwrites : List QWrite
  -- traps (R410, R411)
  tcause : W32
  tpc : W64
  taddr : W64
  tdetail : W32
  tsite : W64
  tseq : W32
  tlane : W32
  tscr : W64
  hm : Bool
  pendq : List AFault
  -- synchronisation (R359, R369)
  members : List Member
  drFx : Nat
  drRm : Nat
  drCp : Nat
  -- versions (R378)
  vcur : W32
  vpart : Nat
  -- lane-private memory, launch, counters (R146, R407, R435)
  lbase : W64
  lsize : W64
  runs : W32
  forced : W32
  trdly : W32
  readyAt : Option Nat
  wait : Nat
  dbgStop : Bool
  -- stopped at a run boundary, or in its wait, for a save (R419)
  halted : Bool
  deriving DecidableEq, Repr

end Sys2Proof.Machine
end

