-- ==== Sys2Proof/Machine/MemTypes.lean ====
section
/-! DEFINITION. The data of memory, caches, translation, regulators and the memory controllers (04, 05, 06, 08). -/

namespace Sys2Proof.Machine

/-- A cached leaf translation (R83, R86): page base and size in bytes, physical base as the leaf names it, attributes, and
the physical address of the leaf entry. -/
structure TlbE where
  asid : Nat
  base : Nat
  size : Nat
  pa : Nat
  entry : Nat
  key : Nat
  ofs : Nat
  cp : Nat
  dl : Bool
  vr : Bool
  lat : Bool
  x : Bool
  w : Bool
  r : Bool
  deriving DecidableEq, Repr

/-- A walk of a die (R86): the 64 KiB region it translates, the cores that wait for it, whether the die's engine TLB does;
`failed` holds the fault code and detail of a walk that failed (R84, R85). A walk that has not failed holds or awaits a slot. -/
structure Walk where
  id : Nat
  die : Nat
  slot : Nat
  region : Nat
  cores : List Nat
  eng : Bool
  failed : Option (Nat × Nat)
  deriving DecidableEq, Repr

/-- A line of L1 (R129), its data as 128 bytes and the poison marks of its four words (R79). -/
structure L1Line where
  set : Nat
  way : Nat
  line : Nat
  slot : Nat
  key : Nat
  valid : BitVec 4
  dirty : BitVec 128
  sc : Scope
  data : BitVec 1024
  poison : BitVec 4
  deriving DecidableEq, Repr

/-- A line of a cluster cache, with its way in the set of its address (R93): it holds no dirty data (R94). -/
structure CLine where
  way : Nat
  slot : Nat
  line : Nat
  key : Nat
  valid : BitVec 4
  data : BitVec 1024
  poison : BitVec 4
  deriving DecidableEq, Repr

/-- The tag of a line of an L2 slice: its way, address and key ID, its valid and its dirty sectors (R93, R96). Its bytes
are those of `State.mem`, and what the stack holds under dirty ones stands in `State.stale`. -/
structure L2Line where
  way : Nat
  line : Nat
  key : Nat
  valid : BitVec 4
  dirty : BitVec 4
  deriving DecidableEq, Repr
/-- An L2 slice: its lines, and the replacement bits of its sets (R93). -/
structure SliceSt where
  lines : List L2Line
  plru : SMap (BitVec 32)
  deriving DecidableEq, Repr

/-- A request in a bank queue (R127): the group whose counter it lowers, none for an engine, a fill or a write-back, and the
pending result it belongs to, if any. -/
structure BankReq where
  gid : Option Nat
  pend : Option Nat
  deriving DecidableEq, Repr

/-- What a core holds beside its groups: L1 size in KiB, lines, replacement bits, TLB, bank queues, and the engine's reset
(R121, R129, R130, R86, R127, R261). -/
structure CoreSt where
  l1 : Nat
  lines : List L1Line
  plru : SMap (BitVec 32)
  tlb : List TlbE
  bankq : SMap (List BankReq)
  resetEnd : Option Nat
  deriving DecidableEq, Repr

/-- What a cluster holds: cache lines, the replacement bits of the sets, and its TLB (R86, R93). -/
structure ClusterSt where
  lines : List CLine
  plru : SMap (BitVec 32)
  tlb : List TlbE
  deriving DecidableEq, Repr

/-- What a traffic request does at a slice: a read, a write, or an atomic performed there (R97). -/
inductive TKind | read | write | atom
  deriving DecidableEq, Repr
/-- A traffic request waiting at a slice or a stack controller (R101, R102): the step that made it, context slot, class (0
core, 1 copy, 2 fabric, 3 exempt), line and key, the sectors it moves, those the slice must hold before it is served, when it
arrived, and whether it carries `LAT`. -/
structure Traffic where
  id : Nat
  tick : Nat
  slot : Nat
  cls : Nat
  line : Nat
  key : Nat
  secs : BitVec 4
  need : BitVec 4
  kind : TKind
  age : Nat
  lat : Bool
  deriving DecidableEq, Repr

/-- An access that a regulator with `CAP` holds back: its requests, stripped of number, step and age, and the step in which they
entered their queues. It goes on once they have been served (R101, R102). -/
structure Post where
  reqs : List Traffic
  tick : Nat
  deriving DecidableEq, Repr

/-- What a stack still holds of a burst whose newest bytes are dirty in its slice (R96): the bytes, the key material they were
written under, and the poison marks of its two words. -/
structure Stored where
  data : BitVec 512
  tag : BitVec 512
  poison : List Bool
  deriving DecidableEq, Repr

/-- A bucket of a regulator instance: tokens with 16 fractional bits and the instant of the last refill (R101). -/
structure Bucket where
  tokens : Nat
  at_ : Nat
  deriving DecidableEq, Repr

/-- One bank's refresh state: signed debt, next due index, end of the refresh in progress, the lengths of those to follow it,
acceptance and completion of the `LAT` requests that may still count, open row (R72 to R75). -/
structure BankRf where
  debt : Int
  next : Nat
  busy : Option Nat
  more : List Nat
  lats : List (Nat × Nat)
  row : Option Nat
  deriving DecidableEq, Repr

/-- A pseudo-channel (R72 to R76): epoch, interval, banks, catch-up end, queue of accepted requests with acceptance time,
activation counts per bank and row; `abLeft` counts the all-bank refreshes of the catch-up that have not ended, and `owed`
the hammered rows, as (bank, row), whose neighbours are still to be refreshed. -/
structure PchSt where
  epoch : Nat
  interval : Nat
  banks : SMap BankRf
  catchUp : Option Nat
  abLeft : Nat
  queue : List (Traffic × Nat)
  acts : SMap Nat
  owed : List (Nat × Nat)
  deriving DecidableEq, Repr

/-- An invalidation command (R90, R91). -/
inductive InvKind
  | range (asid : Nat) (base pages : Nat)
  | asid (asid : Nat)
  | all
  deriving DecidableEq, Repr
/-- `tick` is the step in which its entries left the TLBs. -/
structure InvCmd where
  kind : InvKind
  running : Bool
  started : Nat
  tick : Nat
  deriving DecidableEq, Repr

end Sys2Proof.Machine
end

