-- ==== Sys2Proof/Machine/UnitTypes.lean ====
section
/-! DEFINITION. The data of the units beside the groups and the caches: teams and grids, copy engines, remote queues, the
matrix engine, fabric processors, phasers, the reeve, trace cores, start-up, checkpoint, reliability and power. -/

namespace Sys2Proof.Machine

/-- A unit that degraded operation has removed (R16, R445). -/
inductive RemovedUnit
  | cluster (i : Nat)
  | engine (i : Nat)
  | fx (i : Nat)
  | port (i : Nat)
  | ways (slice bank : Nat)
  deriving DecidableEq, Repr

/-- A barrier round in progress (R368): the count and the groups that joined. -/
structure Round where
  count : Nat
  joined : List Nat
  deriving DecidableEq, Repr

/-- A resident team (R21, R122, R125, R160, R368, R397). Tiles are keyed `tile * 8192 + row * 128 + column`, scratchpad
bytes by offset after swizzle. -/
structure Team where
  grid : Nat
  idx : Nat
  ctx : Nat
  core : Nat
  base : Nat
  scratch : Nat
  acc : Nat
  teamg : Nat
  member : Nat
  placedAt : Nat
  sram : SMap Byte
  poison : SMap Bool
  tiles : SMap W32
  tswz : BitVec 4
  rounds : SMap Round
  deriving DecidableEq, Repr

/-- The fields of a launch record that placement uses (R63). `l1` is in KiB; roles are (groups, budget). -/
structure LaunchRec where
  entry : W64
  width : Nat
  l1 : Nat
  scratch : Nat
  acc : Nat
  cset : Nat
  paramlen : Nat
  roles : List (Nat × Nat)
  deriving DecidableEq, Repr

/-- What a command, grid or program was started by, and hence where its completion and faults go (R116, R323, R390). -/
inductive Origin
  | group (gid : Nat)
  | packet (queue : Nat) (pkt tag : W32)
  | node (graph node : Nat)
  | peer (dev proc : Nat) (fpc : W64)
  /-- Its context has ended: nobody is told. -/
  | ended
  deriving DecidableEq, Repr

/-- A grid (R394 to R398). -/
structure Grid where
  slot : Nat
  num : W32
  org : Origin
  queue : Nat
  prio : Nat
  rankDl : Option W64
  deadline : W64
  late : Bool
  teamN : Nat
  rec_ : LaunchRec
  consts : List Byte
  vpart : Nat
  lbase : W64
  lsize : W64
  doneAddr : W64
  nextTeam : Nat
  ended : Nat
  since : Nat
  killed : Bool
  deriving DecidableEq, Repr

/-- A partition: the group and split whose run is issuing, the words issued in the run, and the runs issued (R40, R41,
R427); the run's first word with its `CMDSEQ`, the cycles idle before it, and when the last run ended (R427); `trial` marks
a partition counted in the present delayed window (R437). -/
structure PartSt where
  run : Option (Nat × Nat)
  count : Nat
  runs : Nat
  pc : W64
  seq : W32
  idle : Nat
  endAt : Nat
  trial : Bool
  deriving DecidableEq, Repr

/-- A swapped-out team (R419, R423): its grid and index, image address, units, and when it was saved. Its groups are kept
for what other units ask of them while they are out (memberships, versions, drain counts, faults, a debug stop) and for what
the image has no place for; everything the image holds is read back from it. `late` are the faults that arrived since, `rest`
and `restPoison` what stood in the region of its scratchpad past `SCRATCH` KiB, where a swizzled offset can lie (R122, R124). -/
structure SavedTeam where
  grid : Nat
  idx : Nat
  ctx : Nat
  unit : Nat
  units : Nat
  savedAt : Nat
  member : Nat
  groups : SMap Group
  late : List (Nat × AFault)
  rest : SMap Byte
  restPoison : SMap Bool
  deriving DecidableEq, Repr

/-- The commands of a copy engine (R107, R112). -/
inductive CopyOp
  | cpy (dir : CpyDir) (dst src : W64) (shape : W128)
  | offl (loc rem len : W64) (dev : Nat)
  | rtrn (loc rem len : W64) (dev : Nat)
  deriving DecidableEq, Repr

/-- A page claimed by an offload or return (R113, R114): its leaf at claim time, and whether it has settled. -/
structure PageClaim where
  e : TlbE
  settled : Bool
  deriving DecidableEq, Repr

/-- A copy-engine command (R104 to R109). `units` holds the progress of its delivery units by starting byte position in copy
order (1: its packet is on the wire; 2: performed, its count on the way; 3: counted, or performed under `.np`), `left` the
bytes not yet in state 3. `fail` is the earliest unit found to fail, with code, detail and address: it is reported once all
before it are counted (R116). `saved` holds bursts of an offload's pages as they were at the claim, where stores have changed
them since (R114). -/
structure CopyCmd where
  op : CopyOp
  np : Bool
  phaser : Nat
  ctx : Nat
  tid : Option Nat
  tswz : BitVec 4
  org : Origin
  site : W64
  seq : W32
  engine : Nat
  started : Bool
  units : SMap Nat
  left : Nat
  pages : List PageClaim
  fail : Option (Nat × Nat × Nat × Nat)
  saved : SMap (BitVec 512)
  deriving DecidableEq, Repr

/-- An engine: queue and active commands (R104, R105). -/
structure EngineSt where
  queue : List Nat
  active : List Nat
  deriving DecidableEq, Repr

/-- A remote command of a die's queue (R279 to R284). -/
inductive RemoteOp
  | put (r l len : W64) (flag : Option (StwsOp × W64))
  | get (r l len : W64)
  | append (hdr : W64) (lanes : List (Nat × W64))
  | ratom (op : RAOp) (w64 : Bool) (ord : Ord4) (lanes : List (Nat × W64 × W64 × W64))
  deriving DecidableEq, Repr

/-- Its state: the trigger it is held by, whether it has begun, the progress of its delivery units, lanes or rows (1: on the
wire; 3: done), the bytes or lanes left, whether nobody is to learn of a fault any more, and the header `APPEND` read. `pend`
is the result it writes, `fail` the earliest unit or lane found to fail, with code, detail and address (R116, R278). -/
structure RemoteCmd where
  op : RemoteOp
  die : Nat
  gid : Nat
  tid : Nat
  ctx : Nat
  dev : Nat
  np : Bool
  phaser : Nat
  rod : Bool
  trig : Option (W64 × W64)
  site : W64
  seq : W32
  pend : Option Nat
  sent : Bool
  units : SMap Nat
  left : Nat
  faulted : Bool
  head : Option (W64 × W64 × W64 × W64)
  fail : Option (Nat × Nat × Nat × W64)
  deriving DecidableEq, Repr

/-- A member of a matrix command: the group, its batch, and its latch entry (R249, R257). -/
structure MMember where
  gid : Nat
  batch : Nat
  entry : Latch
  deriving DecidableEq, Repr

/-- Matrix-engine commands (R246, R258, R259). -/
inductive MatrixOp
  | mma (members : List MMember)
  | accz (tile : Nat)
  | accwr (tile : Nat) (row : Nat) (data : List (Nat × Nat × W32))
  | accq (df : Nat) (bl16 : Bool) (rm : RM) (g : Bool) (tile : Nat) (dst stride scale : W64)
  deriving DecidableEq, Repr

/-- A queued matrix command: its core and team, the issuing group and batch, its name, and the tile swizzle it was issued
with (R124). -/
structure MCmd where
  core : Nat
  tid : Nat
  gid : Nat
  batch : Nat
  site : W64
  seq : W32
  tswz : BitVec 4
  op : MatrixOp
  deriving DecidableEq, Repr

/-- A start waiting in a fabric processor's queue or running (R285, R286, R320). `gen` numbers the incarnation of the
slot (R307); `desc` is the descriptor of a `LAYX`. -/
structure FxStart where
  slot : Nat
  gen : Nat
  prog : W64
  arg : W64
  desc : Option W64
  org : Origin
  tid : Option Nat
  site : W64
  seq : W32
  np : Bool
  phaser : Nat
  deriving DecidableEq, Repr

/-- A claim of a gleaning buffer (R301). -/
structure GClaim where
  handle : W32
  entry : Nat
  addr : W64
  elems : Nat
  cid : W32
  deriving DecidableEq, Repr

/-- An accepted message (R307, R316). -/
structure RxMsg where
  slot : Nat
  gen : Nat
  dev : Nat
  proc : Nat
  tag : Nat
  bytes : List Byte
  deriving DecidableEq, Repr

/-- What a fabric processor waits for (R315, R316, R318, R320). -/
inductive FxWait
  | none
  /-- A `WAITM`: comparison, register, address, comparand. -/
  | waitm (c : WCmp) (d : Nat) (va v : W64)
  /-- A `RECV`: buffer address, length register, channel. -/
  | recv (a d : Nat) (chan : W64)
  /-- A `SEND` or `TRIG`: what it has on the wire. -/
  | send (id : Nat)
  /-- A `NORMX`: the devices of its rank table and the result's address. -/
  | norm (ranks : List Nat) (va : W64)
  /-- The program has ended by a fault, but the entry of its claim waits to be cleared (R301, R323): cause, detail, address. -/
  | ending (code : BitVec 8) (detail : Nat) (addr : W64)
  deriving DecidableEq, Repr

/-- A ring step of an exchange (R288, R289): along a dimension, over the flat local shard, or between two dimensions. -/
inductive RingKind
  | reduce (d : Nat)
  | reduceFlat
  | gatherFlat
  | gather (d : Nat)
  | allToAll (d e : Nat)
  deriving DecidableEq, Repr

/-- The exchange that a `LAYX` runs (R287 to R290): the descriptor's quadwords and the rank table; the step and hop reached;
the local data by position and the data under construction; the chunk on the wire, whether its successor has acknowledged it,
the residuals that it leaves and whether they are stored (R294, R304), and the predecessor's chunk. `summing` holds while the
norm's partials are exchanged, `ending` once only the release of the claim is left (R290, R301). -/
structure LayRun where
  desc : List W64
  ranks : List Nat
  step : Nat
  hop : Nat
  elems : SMap W32
  nxt : SMap W32
  sent : Option Nat
  acked : Bool
  resid : List (Nat × W32)
  arr : Option (List Byte)
  counted : Bool
  summing : Bool
  ending : Bool
  deriving DecidableEq, Repr

/-- A fabric processor (R306). `busy` holds the next `FPC` while a transfer is in progress (R308); `owes` says that residuals
have been stored and `PROG` has yet to count them (R304); `parts` are the partials that have arrived, by device. -/
structure FxSt where
  f : SMap W64
  buf : SMap Byte
  nacc : W64
  fpc : W64
  claim : Option GClaim
  store : List RxMsg
  queue : List FxStart
  cur : Option FxStart
  owner : Option (Nat × Nat)
  wait : FxWait
  busy : Option W64
  owes : Bool
  parts : SMap W64
  lay : Option LayRun
  deriving DecidableEq, Repr

/-- What a fabric processor puts on the wire: a message, a start packet, a chunk of an exchange, a partial of a norm. -/
inductive FxPkt
  | msg (tag : Nat) (bytes : List Byte)
  | start (fpc prog arg : W64)
  | chunk (cid : W32) (step : Nat) (bytes : List Byte)
  | partial_ (v : W64)
  deriving DecidableEq, Repr
/-- With its processor, the number it is answered under, its job, and the device and processor it goes to (R316, R320). -/
structure FxWire where
  p : Nat
  id : Nat
  job : Nat
  dev : Nat
  proc : Nat
  pkt : FxPkt
  deriving DecidableEq, Repr

/-- What the counts of a phase let its observers acquire (R336): the canonical 32-byte sectors of counted units, and `all`
after the count of a fabric program, which orders everything that program wrote. -/
structure Wrote where
  secs : List Nat
  all : Bool
  deriving DecidableEq, Repr
def Wrote.none : Wrote := ⟨[], false⟩
def Wrote.join (a b : Wrote) : Wrote := ⟨(a.secs ++ b.secs).dedup, a.all || b.all⟩

/-- A bound phaser (R358). An unlisted phaser is unbound. `cur` is what the counts of the current phase brought, `past` the
same of the complete ones, each under its number. -/
structure Phaser where
  owner : Nat
  phase : W32
  memb : Nat
  pend : Nat
  exp : Nat
  cnt : Nat
  flt : Option AFault
  cur : Wrote
  past : List (W32 × Wrote)
  deriving DecidableEq, Repr

/-- An engine count or an engine fault on its way to a phaser's cluster unit (R360, R362): the command it belongs to, by
context, kind, origin, unit, first byte and name, and what the unit wrote. -/
structure PhMsg where
  phaser : Nat
  slot : Nat
  n : Nat
  flt : Option AFault
  kind : CmdKind
  cmd : Nat
  org : Origin
  pos : Nat
  addr : W64
  site : W64
  seq : W32
  wrote : Wrote
  deriving DecidableEq, Repr

/-- A fallow entry (R372): address, bytes, tag, and the grace period it waits for. -/
structure FallowE where
  addr : W64
  bytes : W64
  tag : W64
  grace : Nat
  deriving DecidableEq, Repr

/-- A grace period in progress (R371): its context and the groups still to pass a quiescent point. -/
structure Grace where
  slot : Nat
  waiting : List Nat
  deriving DecidableEq, Repr

/-- A queue as the reeve holds it (R387, R389, R394): the packets taken and not completed, the levels its priority has
risen, the instant from which it counts its age, since when it is runnable, and the tags of open packets that asked for an
event. -/
structure QueueSt where
  open_ : List W32
  risen : Nat
  since : Option Nat
  runnable : Option Nat
  evts : List (W32 × W32)
  deriving DecidableEq, Repr

/-- A trough (R401 to R405): records of eight quadwords, sleepers oldest first, `closing` a close not yet reached. -/
structure TroughSt where
  recs : List (List W64)
  sleepers : List (Nat × Nat)
  closed : Bool
  closing : Bool
  deriving DecidableEq, Repr

/-- A graph being walked (R399, R400): counts per node, the nodes that may start, run, and have completed. -/
structure GraphSt where
  slot : Nat
  queue : Nat
  pkt : W32
  tag : W32
  hdr : W64
  n : Nat
  done : W64
  counts : SMap Nat
  ready : List Nat
  running : List Nat
  fin : List Nat
  aborted : Bool
  deriving DecidableEq, Repr

/-- An event record before its time is stamped (R391). -/
structure EventRec where
  slot : Nat
  w0 : W64
  w1 : W64
  w2 : W64
  w3 : W64
  deriving DecidableEq, Repr

/-- A trace record (R426). -/
structure TraceRec where
  q0 : W64
  q1 : W64
  q2 : W64
  q3 : W64
  deriving DecidableEq, Repr

/-- The trace buffer of a cluster and its count of dropped records (R428), and a pending power-gate request (R429). -/
structure TraceBuf where
  recs : List TraceRec
  lost : Nat
  gate : Option Nat
  gated : Bool
  deriving DecidableEq, Repr

/-- A trace core (R430 to R432): the accepted program, and while it filters a record: the record, the word index and
`k1` to `k7`. -/
structure TraceSt where
  prog : Option (List W32)
  cur : Option TraceRec
  idx : Nat
  k : SMap W64
  deriving DecidableEq, Repr

/-- A trial in progress (R438). -/
structure Trial where
  delayed : Bool
  endAt : Nat
  deriving DecidableEq, Repr

/-- Start-up (R439 to R443): whether the device has been started, the instant of the start's deadline, what the control
die retains. -/
inductive BootPhase | off | started | open_
  deriving DecidableEq, Repr
structure BootSt where
  phase : BootPhase
  deadline : Option Nat
  starts : Nat
  measured : Option (List W64)
  deriving DecidableEq, Repr

/-- A checkpoint (R446, R447): pages below `next` and the listed ones have been sent. -/
structure Ckpt where
  queue : Nat
  pkt : W32
  tag : W32
  slot : Nat
  dev : Nat
  addr : W64
  done : W64
  streaming : Bool
  next : Nat
  ahead : SMap Bool
  time : W64
  deriving DecidableEq, Repr

/-- The reliability unit (R444, R445): times of corrected errors per unit, units with a lasting fault. -/
structure RasSt where
  errs : List (RasUnit × List Nat)
  lasting : List RasUnit
  deriving DecidableEq, Repr

/-- The power unit (R449): a thermal trip in force, and the instant of the last sample. -/
structure PowerSt where
  trip : Bool
  last : Nat
  deriving DecidableEq, Repr

end Sys2Proof.Machine
end

