-- ==== Sys2Proof/Machine/State.lean ====
section
/-! DEFINITION. The state of the machine, the reasons a step can stop, and the state after reset. -/

namespace Sys2Proof.Machine

/-- The reasons a step stops with a fault. Every fault the manual describes is taken by the machine (a next state); these
are the model's own, raised only where `exec` is asked for a word that no agent is issuing (log 9). -/
inductive Fault
  /-- Raised by an Igyan word executed while no split is issuing; safe: the step function never asks for it. -/
  | noIssuer
  /-- Raised by a fabric word executed while no fabric processor runs a program; safe, likewise. -/
  | noProcessor
  /-- Raised by a sieve word executed while no trace core filters a record; safe, likewise. -/
  | noSieve
  deriving DecidableEq, Repr

/-- The reasons an instruction has no meaning. -/
inductive Refusal
  /-- Raised by the dispatcher for an instruction whose meaning is not written; safe. -/
  | notModelled (mnemonic : String)
  deriving DecidableEq, Repr

/-- The state. Sparse maps list only what differs from their default (SMap). -/
structure State where
  -- the model's own fields (log 1, 2, 10)
  tick : Nat
  agenda : List Turn
  ev : EvIn
  cur : Option (Nat × Nat)
  curFx : Option Nat
  curDie : Option Nat
  nextId : Nat
  -- time (R6)
  now : Nat
  timeBase : Nat
  -- control registers by address (R7)
  mmio : SMap W64
  -- memory (R68, R79, R80)
  mem : SMap Byte
  burst : SMap (BitVec 512)
  poison : SMap Bool
  -- bursts with bytes that are dirty in a slice, as the stack still holds them (R96)
  stale : SMap Stored
  keySlots : SMap (BitVec 512)
  keyLoad : List Nat
  removedPch : List Nat
  retiredRows : List Nat
  removedUnits : List RemovedUnit
  -- translation and caches
  cores : SMap CoreSt
  clusters : SMap ClusterSt
  slices : SMap SliceSt
  engTlb : SMap (List TlbE)
  walks : List Walk
  invq : List InvCmd
  -- writes of `XL_INVCMD` held while its queue is full (R91): the value, and `XL_INVADDR` as it stood
  invHeld : List (W64 × Nat)
  -- regulators and controllers
  buckets : SMap Bucket
  traffic : SMap (List Traffic)
  posts : List Post
  pchs : SMap PchSt
  hotWant : SMap Bool
  -- groups, teams, grids
  groups : SMap Group
  teams : SMap Team
  grids : SMap Grid
  parts : SMap PartSt
  saved : SMap SavedTeam
  gridNum : SMap W32
  susp : List Nat
  -- slots being ended (R406): slot, and the queue, packet number and tag to complete
  endings : List (Nat × Nat × W32 × W32)
  -- engines
  engines : SMap EngineSt
  ecmds : SMap CopyCmd
  remotes : SMap RemoteCmd
  wireOut : List Packet
  -- answers on their way back: device, number and part of the request, the answer (R276)
  replies : List (BitVec 16 × Nat × Nat × Reply)
  mcmds : SMap MCmd
  fxs : SMap FxSt
  fxWires : List FxWire
  -- synchronisation
  phasers : SMap Phaser
  phMsgs : List PhMsg
  fallow : SMap (List FallowE)
  graces : SMap Grace
  -- the reeve
  queues : SMap QueueSt
  suspends : List (Nat × Nat × W32 × W32)
  troughs : SMap TroughSt
  graphs : SMap GraphSt
  events : SMap (List EventRec)
  ctxGen : SMap Nat
  preemptAt : SMap Nat
  preempts : List Nat
  ended : List Nat
  -- trace, debug, trials
  tbufs : SMap TraceBuf
  traces : SMap TraceSt
  trial : Option Trial
  -- stop requests not yet met: slot and group (R433)
  stops : List (Nat × Nat)
  -- start-up, checkpoint, reliability, power
  boot : BootSt
  ckpt : Option Ckpt
  ckptWait : List Nat
  ras : RasSt
  power : PowerSt
  deriving DecidableEq, Repr

/-- A core before anything has run on it; the spec gives no reset value for the L1 size (log 10). -/
def CoreSt.init : CoreSt := ⟨1024, [], [], [], [], none⟩
def ClusterSt.init : ClusterSt := ⟨[], [], []⟩
def PartSt.init : PartSt := ⟨none, 0, 0, 0, 0, 0, 0, false⟩
def EngineSt.init : EngineSt := ⟨[], []⟩
/-- A fabric processor; registers, buffers and `NACC` at reset are the model's choice (log 10). -/
def FxSt.init : FxSt := ⟨[], [], 0, 0, none, [], [], none, none, .none, none, false, [], none⟩
def QueueSt.init : QueueSt := ⟨[], 0, none, none, []⟩
def TroughSt.init : TroughSt := ⟨[], [], false, false⟩
def TraceBuf.init : TraceBuf := ⟨[], 0, none, false⟩
def TraceSt.init : TraceSt := ⟨none, none, 0, []⟩
def EvIn.none : EvIn := ⟨0, 0, 0, 0, 0, 0, false, [], .none⟩

/-- The machine right after reset, before `POWER_ON`: nothing runs, memory lists nothing, every control register at the
reset value of its table (log 10). -/
def State.reset : State where
  tick := 0
  agenda := []
  ev := EvIn.none
  cur := none
  curFx := none
  curDie := none
  nextId := 1
  now := 0
  timeBase := 0
  mmio := []
  mem := []
  burst := []
  poison := []
  stale := []
  keySlots := []
  keyLoad := []
  removedPch := []
  retiredRows := []
  removedUnits := []
  cores := []
  clusters := []
  slices := []
  engTlb := []
  walks := []
  invq := []
  invHeld := []
  buckets := []
  traffic := []
  posts := []
  pchs := []
  hotWant := []
  groups := []
  teams := []
  grids := []
  parts := []
  saved := []
  gridNum := []
  susp := []
  endings := []
  engines := []
  ecmds := []
  remotes := []
  wireOut := []
  replies := []
  mcmds := []
  fxs := []
  fxWires := []
  phasers := []
  phMsgs := []
  fallow := []
  graces := []
  queues := []
  suspends := []
  troughs := []
  graphs := []
  events := []
  ctxGen := []
  preemptAt := []
  preempts := []
  ended := []
  tbufs := []
  traces := []
  trial := none
  stops := []
  boot := ⟨.off, none, 0, none⟩
  ckpt := none
  ckptWait := []
  ras := ⟨[], []⟩
  power := ⟨false, 0⟩

end Sys2Proof.Machine
end

