-- ==== Sys2Proof/Machine/Regs.lean ====
section
/-! DEFINITION. Control registers: their addresses, reset values and access masks as the register tables give them (R7, R77,
R88, R90, R100, R119, R277, R299, R324, R373, R377, R392, R412, R430, R433, R436, R437, R450), the named accessors of
their fields, and device time (R6). -/

namespace Sys2Proof.Machine

/-- Bits `[hi:lo]` set. -/
def bitsM (hi lo : Nat) : W64 := BitVec.ofNat 64 (2 ^ (hi + 1) - 2 ^ lo)
/-- Field `[hi:lo]` of a register. -/
def fld (v : W64) (hi lo : Nat) : Nat := (v.toNat / 2 ^ lo) % 2 ^ (hi + 1 - lo)
/-- A register with field `[hi:lo]` replaced. -/
def setFld (v : W64) (hi lo : Nat) (x : Nat) : W64 :=
  (v &&& ~~~ bitsM hi lo) ||| (BitVec.ofNat 64 (x % 2 ^ (hi + 1 - lo)) <<< lo)

/-- A register's table entry (R7): reset value, `RW` bits, `W1C` bits. -/
structure RegSpec where
  reset : W64
  rw : W64
  w1c : W64
  deriving DecidableEq, Repr

def csrBase : Nat := 0xFF0000000000
def mcAddr (d off : Nat) : Nat := 0xFF0000100000 + d * 0x10000 + off
def ctxCfgAddr (n : Nat) : Nat := 0xFF0000200000 + n * 0x10
def ctxRootAddr (n : Nat) : Nat := 0xFF0000200008 + n * 0x10
def invAddrAddr : Nat := 0xFF0000200800
def invCmdAddr : Nat := 0xFF0000200808
def invDoneAddr : Nat := 0xFF0000200810
def vrBaseAddr (k : Nat) : Nat := 0xFF0000201000 + 16 * k
def vrCfgAddr (k : Nat) : Nat := 0xFF0000201008 + 16 * k
def vrVerAddr (k : Nat) : Nat := 0xFF0000202000 + 8 * k
def vpStatAddr (p : Nat) : Nat := 0xFF0000202800 + 8 * p
def l2RegAddr (n k : Nat) : Nat := 0xFF0000300000 + n * 0x40 + 8 * k
def ceAddr (e off : Nat) : Nat := 0xFF0000400000 + e * 0x40 + off
def ueDevIdAddr : Nat := 0xFF0000500000
def uePeerAddr : Nat := 0xFF0000500008
def ueJobAddr (n : Nat) : Nat := 0xFF0000500100 + 8 * n
def fxAddr (p off : Nat) : Nat := 0xFF0000600000 + p * 0x40 + off
def fxGltabAddr (n : Nat) : Nat := 0xFF0000608000 + 8 * n
def rrAddr (n off : Nat) : Nat := 0xFF0000700000 + n * 0x20 + off
def rvQtabAddr : Nat := 0xFF0000720000
def rvSchedAddr : Nat := 0xFF0000720008
def rvAgeAddr (k : Nat) : Nat := 0xFF0000720010 + 8 * k
def rvPreemptAddr : Nat := 0xFF0000720020
def evBaseAddr (n : Nat) : Nat := 0xFF0000721000 + 16 * n
def evPtrAddr (n : Nat) : Nat := 0xFF0000721008 + 16 * n
def lostAddr (n : Nat) : Nat := 0xFF0000721408 + 16 * n
def linkAddr (l : Nat) : Nat := 0xFF0000722000 + 16 * l
def linkCntAddr (l : Nat) : Nat := 0xFF0000722008 + 16 * l
def trapVecAddr (n : Nat) : Nat := 0xFF0000723000 + 32 * n
def saveBaseAddr (n : Nat) : Nat := 0xFF0000723008 + 32 * n
def saveLenAddr (n : Nat) : Nat := 0xFF0000723010 + 32 * n
def trCfgAddr (t : Nat) : Nat := 0xFF0000724000 + 16 * t
def trStatAddr (t : Nat) : Nat := 0xFF0000724008 + 16 * t
def trcAddr (d off : Nat) : Nat := 0xFF0000740000 + d * 0x400 + off
def progAddr (n k : Nat) : Nat := 0xFF0000742000 + 64 * n + 8 * k
def trialAddr (off : Nat) : Nat := 0xFF0000743000 + off
def dbgAddr (n : Nat) : Nat := 0xFF0000744000 + 8 * n
def bootAddr (off : Nat) : Nat := 0xFF0000780000 + off

/-- Registers of a memory controller (R77). -/
def mcSpec (off : Nat) : Option RegSpec :=
  if off = 0 then some ⟨0x0000100000000003, bitsM 47 32 ||| 3, 0⟩
  else if off = 8 then some ⟨0, bitsM 8 8 ||| bitsM 6 0, 0⟩
  else if off = 0x10 then some ⟨0, bitsM 47 0, 0⟩
  else if off = 0x18 then some ⟨0, bitsM 63 0, 0⟩
  else if off = 0x20 || off = 0x28 then some ⟨0, 0, 0⟩
  else if 0x40 ≤ off && off < 0x60 && off % 8 == 0 then some ⟨0, 0, 0⟩
  else if 0x80 ≤ off && off < 0x100 && off % 8 == 0 then some ⟨0, bitsM 47 0, 0⟩
  else none

/-- Translation, invalidation and version registers (R88, R90, R377), by offset from `0xFF00_0020_0000`. -/
def xlSpec (off : Nat) : Option RegSpec :=
  if off < 0x400 then
    if off % 16 = 0 then some ⟨0, bitsM 31 24 ||| bitsM 17 0, 0⟩
    else if off % 16 = 8 then some ⟨0, bitsM 47 16, 0⟩ else none
  else if off = 0x800 then some ⟨0, bitsM 51 16, 0⟩
  else if off = 0x808 then some ⟨0, bitsM 47 16 ||| 3, 0⟩
  else if off = 0x810 then some ⟨0, 0, 0⟩
  else if 0x1000 ≤ off && off < 0x2000 then
    if off % 16 = 0 then some ⟨0, bitsM 51 16, 0⟩
    else if off % 16 = 8 then some ⟨0, bitsM 63 48 ||| bitsM 45 40 ||| bitsM 32 0, 0⟩ else none
  else if 0x2000 ≤ off && off < 0x2880 && off % 8 == 0 then some ⟨0, 0, 0⟩
  else none

/-- Registers of a fabric processor (R324). -/
def fxSpec (off : Nat) : Option RegSpec :=
  if off = 0 then some ⟨1, 3, 0⟩
  else if off = 8 || off = 0x10 || off = 0x20 then some ⟨0, 0, 0⟩
  else if off = 0x18 then some ⟨0, bitsM 47 16 ||| bitsM 7 0, 0⟩
  else if off = 0x28 then some ⟨0, bitsM 63 0, 0⟩
  else none

/-- Registers of the reeve (R392, R412), by offset from `0xFF00_0072_0000`. -/
def rvSpec (off : Nat) : Option RegSpec :=
  if off = 0 then some ⟨0, bitsM 47 16 ||| bitsM 12 0, 0⟩
  else if off = 8 then some ⟨4, 7, 0⟩
  else if off = 0x10 || off = 0x18 then some ⟨0, bitsM 63 0, 0⟩
  else if off = 0x20 then some ⟨0, bitsM 31 0, 0⟩
  else if 0x1000 ≤ off && off < 0x1400 then
    if off % 16 = 0 then some ⟨0, bitsM 51 12 ||| bitsM 4 0, 0⟩
    else if off % 16 = 8 then some ⟨0, bitsM 63 32, 0⟩ else none
  else if 0x1400 ≤ off && off < 0x1800 then
    if off % 16 = 8 then some ⟨0, bitsM 31 0, 0⟩ else none
  else if 0x2000 ≤ off && off < 0x3000 then
    if off % 16 = 0 then some ⟨0, bitsM 63 63 ||| bitsM 27 16 ||| bitsM 11 0, 0⟩
    else if off % 16 = 8 then some ⟨0, bitsM 31 0, 0⟩ else none
  else if 0x3000 ≤ off && off < 0x3800 then
    if off % 32 = 0 then some ⟨0, bitsM 51 3 ||| 1, 0⟩
    else if off % 32 = 8 then some ⟨0, bitsM 51 16, 0⟩
    else if off % 32 = 16 then some ⟨0, bitsM 31 0, 0⟩ else none
  else if 0x4000 ≤ off && off < 0x5000 then
    if off % 16 = 0 then some ⟨12, bitsM 32 32 ||| bitsM 29 24 ||| bitsM 3 0, 0⟩
    else if off % 16 = 8 then some ⟨0, 0, 0⟩ else none
  else none

/-- Registers of a trace core (R430). -/
def trcSpec (off : Nat) : Option RegSpec :=
  if off = 0 then some ⟨0, bitsM 23 16 ||| bitsM 12 8 ||| 7, 0⟩
  else if off = 8 then some ⟨0, bitsM 47 2, 0⟩
  else if off = 0x10 then some ⟨0, bitsM 47 12 ||| bitsM 4 0, 0⟩
  else if off = 0x18 then some ⟨0, bitsM 63 32, 0⟩
  else if off = 0x20 then some ⟨0, 0, bitsM 7 7 ||| bitsM 4 0⟩
  else if off = 0x28 then some ⟨0, bitsM 63 0, 0⟩
  else if 0x40 ≤ off && off < 0x80 && off % 8 == 0 then some ⟨0, bitsM 63 0, 0⟩
  else if 0x200 ≤ off && off < 0x400 && off % 8 == 0 then some ⟨0, bitsM 63 0, 0⟩
  else none

/-- Trial registers (R437). -/
def trialSpec (off : Nat) : Option RegSpec :=
  if off = 0 then some ⟨0, bitsM 63 63 ||| bitsM 61 56 ||| bitsM 43 16 ||| 7, 0⟩
  else if off = 8 || off = 0x10 then some ⟨0, bitsM 51 3, 0⟩
  else if off = 0x18 || off = 0x20 || off = 0x30 || off = 0x38 then some ⟨0, bitsM 63 0, 0⟩
  else if off = 0x28 then some ⟨0, bitsM 31 0, 0⟩
  else none

/-- Start-up, reliability and power registers (R450). -/
def bootSpec (off : Nat) : Option RegSpec :=
  if off = 0 then some ⟨0, 7, 0⟩
  else if off = 8 then some ⟨0, 16, 0⟩
  else if off = 0x10 then some ⟨0, 0, 0⟩
  else if off = 0x18 then some ⟨0, bitsM 23 0, 0⟩
  else if off = 0x20 then some ⟨0, bitsM 63 0, 0⟩
  else if 0x40 ≤ off && off < 0x80 && off % 8 == 0 then some ⟨0, 0, 0⟩
  else if off = 0x100 then some ⟨0xA03, bitsM 15 8 ||| bitsM 3 0, 0⟩
  else if off = 0x108 then some ⟨0, bitsM 63 0, 0⟩
  else if off = 0x110 then some ⟨0, 0, 0⟩
  else if off = 0x200 then some ⟨6000, bitsM 15 0, 0⟩
  else if off = 0x208 then some ⟨0x0000035200000000, 0, 0⟩
  else none

/-- The table entry of the register at an address; none where no register stands. -/
def regSpec (a : Nat) : Option RegSpec :=
  if a < 0xFF0000100000 then none
  else if a < 0xFF0000180000 then mcSpec ((a - 0xFF0000100000) % 0x10000)
  else if a < 0xFF0000200000 then none
  else if a < 0xFF0000300000 then xlSpec (a - 0xFF0000200000)
  else if a < 0xFF0000301000 then
    if (a - 0xFF0000300000) % 0x40 < 0x30 && a % 8 == 0 then some ⟨0, bitsM 63 8 ||| 3, 0⟩ else none
  else if a < 0xFF0000400000 then none
  else if a < 0xFF0000400800 then
    let off := (a - 0xFF0000400000) % 0x40
    if off = 0 then some ⟨1, 3, 0⟩
    else if off = 8 then some ⟨0, 0, 0⟩
    else if off = 0x10 || off = 0x18 then some ⟨0, bitsM 63 0, 0⟩
    else none
  else if a < 0xFF0000500000 then none
  else if a = 0xFF0000500000 then some ⟨0xFFFF, bitsM 15 0, 0⟩
  else if a = 0xFF0000500008 then some ⟨0, bitsM 47 4, 0⟩
  else if a < 0xFF0000500100 then none
  else if a < 0xFF0000500300 then if a % 8 = 0 then some ⟨0, bitsM 32 32 ||| bitsM 23 0, 0⟩ else none
  else if a < 0xFF0000600000 then none
  else if a < 0xFF0000600400 then fxSpec ((a - 0xFF0000600000) % 0x40)
  else if a < 0xFF0000608000 then none
  else if a < 0xFF0000608200 then if a % 8 = 0 then some ⟨0, bitsM 55 0, 0⟩ else none
  else if a < 0xFF0000700000 then none
  else if a < 0xFF0000700800 then
    let off := (a - 0xFF0000700000) % 0x20
    if off = 0 then some ⟨0, bitsM 51 12 ||| bitsM 4 0, 0⟩
    else if off = 8 then some ⟨0, bitsM 31 0, 0⟩
    else if off = 0x10 || off = 0x18 then some ⟨0, 0, 0⟩
    else none
  else if a < 0xFF0000720000 then none
  else if a < 0xFF0000740000 then rvSpec (a - 0xFF0000720000)
  else if a < 0xFF0000742000 then trcSpec ((a - 0xFF0000740000) % 0x400)
  else if a < 0xFF0000743000 then if a % 8 = 0 then some ⟨0, bitsM 63 0, 0⟩ else none
  else if a < 0xFF0000743040 then trialSpec (a - 0xFF0000743000)
  else if a < 0xFF0000744000 then none
  else if a < 0xFF0000744200 then if a % 8 = 0 then some ⟨0, bitsM 3 0, 0⟩ else none
  else if a < 0xFF0000780000 then none
  else if a < 0xFF0000780400 then bootSpec (a - 0xFF0000780000)
  else none

/-- The reset value of the register at an address. -/
def regReset (a : Nat) : W64 := match regSpec a with | some r => r.reset | none => 0

/-- The stored value of a control register. -/
def State.reg (s : State) (a : Nat) : W64 := s.mmio.get (regReset a) a
/-- The device sets a register, `RO` fields included. -/
def State.setReg (s : State) (a : Nat) (v : W64) : State := { s with mmio := s.mmio.set (regReset a) a v }
/-- The device changes one field. -/
def State.setRegFld (s : State) (a hi lo x : Nat) : State := s.setReg a (setFld (s.reg a) hi lo x)

/-- A field's stated range (R7): the write of a value outside it is ignored in whole. -/
def regRange (a : Nat) (v : W64) : Bool :=
  let sz (lo hi : Nat) := fld v 4 0 == 0 || (lo ≤ fld v 4 0 && decide (fld v 4 0 ≤ hi))
  if 0xFF0000700000 ≤ a && a < 0xFF0000700800 && a % 0x20 == 0 then sz 4 20
  else if a = rvQtabAddr then decide (fld v 12 0 ≤ 4096)
  else if 0xFF0000721000 ≤ a && a < 0xFF0000721400 && a % 16 == 0 then sz 4 16
  else if 0xFF0000724000 ≤ a && a < 0xFF0000725000 && a % 16 == 0 then
    decide (4 ≤ fld v 3 0) && decide (fld v 3 0 ≤ 12)
  else if 0xFF0000740000 ≤ a && a < 0xFF0000742000 && a % 0x400 == 0x10 then sz 4 24
  else if a = trialAddr 0 then decide (1 ≤ fld v 31 16)
  else if a = bootAddr 0x100 then decide (1 ≤ fld v 15 8) && decide (2 ≤ fld v 3 0)
  else if a = bootAddr 0x200 then decide (1000 ≤ fld v 15 0) && decide (fld v 15 0 ≤ 6000)
  else true

/-- The value a register takes from a software write (R7): `RW` bits from the write, `W1C` bits cleared by ones. -/
def RegSpec.written (r : RegSpec) (old v : W64) : W64 :=
  ((old &&& ~~~ r.rw) ||| (v &&& r.rw)) &&& ~~~ (v &&& r.w1c)

/-- A software write with no side effect: masks and ranges (R7). -/
def State.regPut (s : State) (a : Nat) (v : W64) : State :=
  match regSpec a with
  | none => s
  | some r => if regRange a v then s.setReg a (r.written (s.reg a) v) else s

-- contexts (R88)
def State.ctxEn (s : State) (n : Nat) : Bool := fld (s.reg (ctxCfgAddr n)) 16 16 == 1
def State.ctxAsid (s : State) (n : Nat) : Nat := fld (s.reg (ctxCfgAddr n)) 15 0
def State.ctxTkey (s : State) (n : Nat) : Nat := fld (s.reg (ctxCfgAddr n)) 31 24
def State.ctxCompat (s : State) (n : Nat) : Bool := fld (s.reg (ctxCfgAddr n)) 17 17 == 1
def State.ctxRoot (s : State) (n : Nat) : Nat := fld (s.reg (ctxRootAddr n)) 47 16 * 65536
-- fabric identity (R277)
def State.devId (s : State) : Nat := fld (s.reg ueDevIdAddr) 15 0
def State.jobEn (s : State) (n : Nat) : Bool := fld (s.reg (ueJobAddr n)) 32 32 == 1
def State.job (s : State) (n : Nat) : Nat := fld (s.reg (ueJobAddr n)) 23 0
/-- The enabled slot that holds a job (R277). -/
def State.slotOfJob (s : State) (j : Nat) : Option Nat :=
  (List.range 64).find? (fun n => s.jobEn n && s.job n == j)
-- traps and saving (R412)
def State.trapEn (s : State) (n : Nat) : Bool := fld (s.reg (trapVecAddr n)) 0 0 == 1
def State.trapVec (s : State) (n : Nat) : W64 := s.reg (trapVecAddr n) &&& bitsM 51 3
-- debug (R433)
def State.bkStop (s : State) (n : Nat) : Bool := fld (s.reg (dbgAddr n)) 0 0 == 1
def State.fltStop (s : State) (n : Nat) : Bool := fld (s.reg (dbgAddr n)) 1 1 == 1
-- versions (R377)
def State.vrEn (s : State) (k : Nat) : Bool :=
  fld (s.reg (vrCfgAddr k)) 32 32 == 1 && fld (s.reg (vrCfgAddr k)) 31 0 != 0
def State.vrSlot (s : State) (k : Nat) : Nat := fld (s.reg (vrCfgAddr k)) 45 40
def State.vrBase (s : State) (k : Nat) : Nat := fld (s.reg (vrBaseAddr k)) 51 16 * 65536
def State.vrSpan (s : State) (k : Nat) : Nat := fld (s.reg (vrCfgAddr k)) 31 0 * 65536
def State.vrVer (s : State) (k : Nat) : W32 := BitVec.ofNat 32 (fld (s.reg (vrVerAddr k)) 31 0)
def State.vpv (s : State) (p : Nat) : W32 := BitVec.ofNat 32 (fld (s.reg (vpStatAddr p)) 31 0)
-- troughs (R392)
def State.trEn (s : State) (t : Nat) : Bool := fld (s.reg (trCfgAddr t)) 32 32 == 1
def State.trSlot (s : State) (t : Nat) : Nat := fld (s.reg (trCfgAddr t)) 29 24
def State.trCap (s : State) (t : Nat) : Nat := 2 ^ fld (s.reg (trCfgAddr t)) 3 0
-- engines (R119, R324)
def State.ceEn (s : State) (e : Nat) : Bool := fld (s.reg (ceAddr e 0)) 0 0 == 1
def State.fxEn (s : State) (p : Nat) : Bool := fld (s.reg (fxAddr p 0)) 0 0 == 1

/-- Device time in nanoseconds: a reference cycle is 20/17 ns (R6). -/
def State.deviceNs (s : State) : Nat := s.timeBase + 20 * s.now / 17
def State.deviceTime (s : State) : W64 := BitVec.ofNat 64 s.deviceNs

/-- A unit's index is present unless degraded operation removed it (R16). -/
def State.present (s : State) (u : RemovedUnit) : Bool := !s.removedUnits.contains u

end Sys2Proof.Machine
end

