-- ==== Sys2Proof/Machine/Memory.lean ====
section
/-! DEFINITION. Device memory, its keys and poison, address decode, translation, the cluster caches and L1 (R68 to R71, R79
to R98, R129 to R135). -/

namespace Sys2Proof.Machine

/-- Little-endian bytes of a natural (R3). -/
def bytesOf (n : Nat) (v : Nat) : List Byte := (List.range n).map (fun i => BitVec.ofNat 8 (v / 2 ^ (8 * i)))
/-- The natural whose little-endian bytes these are (R3). -/
def natOf : List Byte → Nat
  | [] => 0
  | b :: bs => b.toNat + 256 * natOf bs

/-- Change the element of a list that satisfies a test. -/
def updWhere {α : Type} (l : List α) (p : α → Bool) (f : α → α) : List α := l.map (fun x => if p x then f x else x)

-- ## Address decode (R68 to R71, R96)

/-- HBM ends here (R68). -/
def hbmEnd : Nat := 0xC000000000
/-- XOR of the six nibbles of a 24-bit value (R69). -/
def fold4 (x : Nat) : Nat :=
  (x % 16) ^^^ (x / 16 % 16) ^^^ (x / 256 % 16) ^^^ (x / 4096 % 16) ^^^ (x / 65536 % 16) ^^^ (x / 1048576 % 16)
/-- Stack and granule within the stack of a physical address (R69). -/
def stackLg (pa : Nat) (dl : Bool) : Nat × Nat :=
  if dl then
    let j := (pa % 0x1800000000) / 4096
    (2 * (pa / 0x1800000000) + j % 2, j / 2)
  else
    let g := pa / 4096
    ((g % 16) ^^^ fold4 (g / 16), g / 16)
/-- The canonical address of a byte (R70). -/
def canon (pa : Nat) (dl : Bool) : Nat :=
  let (st, lg) := stackLg pa dl
  4096 * (16 * lg + (st ^^^ fold4 lg)) + pa % 4096
/-- Pseudo-channel in its stack (R69). -/
def pchOf (lg : Nat) : Nat := (lg % 64) ^^^ (lg / 64 % 64) ^^^ (lg / 4096 % 64)
/-- Bank and row (R69). -/
def bankOf (pa lg : Nat) : Nat := (2 * (lg / 64 % 8) + pa / 2048 % 2) ^^^ (lg / 512 % 16)
def rowOf (lg : Nat) : Nat := lg / 512
/-- Global pseudo-channel, bank and row of a canonical address (R69, R15). -/
def rowName (c : Nat) : Nat × Nat × Nat :=
  let (st, lg) := stackLg c false
  (64 * st + pchOf lg, bankOf c lg, rowOf lg)
/-- A retired row's key in the state. -/
def rowKey (p b r : Nat) : Nat := (p * 16 + b) * 32768 + r
/-- Home slice: 16 per die (R15, R96). -/
def sliceOf (c : Nat) : Nat :=
  let (st, lg) := stackLg c false
  16 * (st / 2) + 8 * (st % 2) + pchOf lg % 8
/-- The address, as a page's leaf names it, of a canonical byte (R69, R70). -/
def uncanon (dl : Bool) (c : Nat) : Nat :=
  if dl then
    let r := stackLg c false
    r.1 / 2 * 0x1800000000 + 4096 * (2 * r.2 + r.1 % 2) + c % 4096
  else c
/-- A line overlaps one of the pages' parts. -/
def lineInRange (ps : List (Nat × Nat × TlbE)) (line : Nat) : Bool :=
  ps.any (fun p =>
    let a := uncanon p.2.2.dl (128 * line)
    let lo := p.2.2.pa + (p.1 - p.2.2.base)
    let hi := p.2.2.pa + (p.2.1 - p.2.2.base)
    decide (lo < a + 128) && decide (a < hi))
/-- Whether degraded operation left a canonical address without storage (R71). -/
def State.unbacked (s : State) (c : Nat) : Bool :=
  let (p, b, r) := rowName c
  s.removedPch.contains p || s.retiredRows.contains (rowKey p b r)

-- ## Stored bytes, keys and poison (R79 to R81)

/-- The key material an access key ID selects; key ID 0 is plaintext (R80). -/
def State.keyOf (s : State) (k : Nat) : BitVec 512 := if k = 0 then 0 else s.keySlots.get 0 k
/-- A key ID whose slot is loaded (R80). -/
def State.keyLoaded (s : State) (k : Nat) : Bool := k == 0 || (s.keySlots.find? k).isSome
/-- The 64 bytes of a burst as they were last written. -/
def State.plainBurst (s : State) (burst : Nat) : BitVec 512 :=
  BitVec.ofNat 512 (natOf ((List.range 64).map (fun i => s.mem.get 0 (64 * burst + i))))
/-- The 64 bytes of a burst as a read under key material `k` returns them (R80, R81). -/
def State.burstUnder (s : State) (burst : Nat) (k : BitVec 512) : BitVec 512 :=
  let tag := s.burst.get 0 burst
  let p := s.plainBurst burst
  if tag = k then p
  else
    let c := if tag = 0 then p else Crypto.xtsEnc tag burst p
    if k = 0 then c else Crypto.xtsDec k burst c
/-- One byte at home, read under a key ID. -/
def State.homeByte (s : State) (key a : Nat) : Byte :=
  if s.burst.get 0 (a / 64) = s.keyOf key then s.mem.get 0 a
  else (s.burstUnder (a / 64) (s.keyOf key) >>> (8 * (a % 64))).setWidth 8
def State.homeBytes (s : State) (key a n : Nat) : List Byte := (List.range n).map (fun i => s.homeByte key (a + i))
/-- Whether the 32-byte word that holds a byte is poisoned (R79). -/
def State.homePoison (s : State) (a : Nat) : Bool := s.poison.get false (a / 32)

/-- Store a burst again as written under other key material (R81). -/
def State.rebase (s : State) (burst : Nat) (k : BitVec 512) : State :=
  if s.burst.get 0 burst = k then s
  else
    let v := s.burstUnder burst k
    { s with
      mem := (List.range 64).foldl (fun m i => m.set 0 (64 * burst + i) ((v >>> (8 * i)).setWidth 8)) s.mem
      burst := s.burst.set 0 burst k }

/-- A traffic request for one sector at its home slice (R97, R99): class 0 core, 1 copy, 2 fabric, 3 exempt. `need` says that
the slice must hold the sector to serve it. Sectors of one line that one step asks for alike are one request. -/
def State.traffick (s : State) (slot cls w : Nat) (kind : TKind) (need : Bool) (at_ : Attr) : State :=
  let sec : BitVec 4 := 1#4 <<< (w % 4)
  let n : BitVec 4 := if need then sec else 0
  let inst := sliceOf (32 * w)
  let old := s.traffic.get [] inst
  let same (t : Traffic) : Bool := t.tick == s.tick && t.slot == slot && t.cls == cls && t.line == w / 4
    && t.key == at_.key && t.kind == kind
  if old.any same then
    { s with traffic := s.traffic.insert inst (updWhere old same (fun t =>
        { t with secs := t.secs ||| sec, need := t.need ||| n, lat := t.lat || at_.lat })) }
  else
    { s with
      nextId := s.nextId + 1
      traffic := s.traffic.insert inst (old ++ [⟨s.nextId, s.tick, slot, cls, w / 4, at_.key, sec, n, kind, s.now, at_.lat⟩]) }
/-- 64 KiB of a checkpoint leave for the silo: part 0 is the manifest, part n the (n - 1)-th page of HBM (R446). -/
def State.ckptSend (s : State) (c : Ckpt) (part : Nat) (bytes : List Byte) : State :=
  { s with wireOut := s.wireOut ++ [⟨BitVec.ofNat 24 (s.job c.slot), BitVec.ofNat 16 s.devId, BitVec.ofNat 16 c.dev, 0, part,
      .write (c.addr + BitVec.ofNat 64 (65536 * part)) bytes⟩] }
/-- A page of HBM as it is stored: key ID 0 shows ciphertext, and what has no storage is sent as zero (R71, R446, log 34). -/
def State.storedPage (s : State) (page : Nat) : List Byte :=
  (List.range 65536).map (fun i =>
    if s.unbacked (65536 * page + i) then 0
    else ((s.burstUnder ((65536 * page + i) / 64) 0) >>> (8 * (i % 64))).setWidth 8)
/-- The reads of a page that is streamed: exempt traffic, of what has storage (R71, R99). -/
def State.pageReads (s : State) (page : Nat) : State :=
  (List.range 2048).foldl (fun s i =>
    if s.unbacked (65536 * page + 32 * i) then s else s.traffick 0 3 (2048 * page + i) .read true ⟨0, 0, false⟩) s
/-- The 64 KiB page of a checkpoint's order that holds a byte is sent before the byte is overwritten (R447). -/
def State.sendAhead (s : State) (page : Nat) : State :=
  match s.ckpt with
  | some c =>
    if c.streaming && decide (c.next ≤ page) && !c.ahead.get false page then
      ({ s.pageReads page with ckpt := some { c with ahead := c.ahead.set false page true } } : State).ckptSend c (page + 1) (s.storedPage page)
    else s
  | none => s

/-- The key of the page that an offload has claimed and not yet settled, and in which a canonical address lies (R114). -/
def CopyCmd.claimKey (c : CopyCmd) (a : Nat) : Option Nat :=
  match c.op with
  | .offl .. => (c.pages.find? (fun p => !p.settled && decide (p.e.pa ≤ uncanon p.e.dl a)
      && decide (uncanon p.e.dl a < p.e.pa + p.e.size))).map (fun p => p.e.key)
  | _ => none
/-- Before a burst of a claimed page is overwritten, the offload keeps what it was at the claim: later stores are no part of
what is sent (R114). -/
def State.saveClaimed (s : State) (burst : Nat) : State :=
  { s with ecmds := s.ecmds.mapV (fun c =>
      match c.claimKey (64 * burst), c.saved.find? burst with
      | some k, none => { c with saved := c.saved.insert burst (s.burstUnder burst (s.keyOf k)) }
      | _, _ => c) }

/-- A slice takes a burst as dirty under key material `k` (R96): what the stack holds of it is kept, unless it already is; bytes
dirty under another key have been written back first (R81). -/
def State.takeDirty (s : State) (burst : Nat) (k : BitVec 512) : State :=
  if s.burst.get 0 burst = k ∧ (s.stale.find? burst).isSome = true then s
  else { s with stale := s.stale.insert burst ⟨s.plainBurst burst, s.burst.get 0 burst,
    [s.poison.get false (2 * burst), s.poison.get false (2 * burst + 1)]⟩ }
/-- One byte written at home under a key ID. -/
def State.homePut (s : State) (key : Nat) (a : Nat) (b : Byte) : State :=
  let s := (((s.sendAhead (a / 65536)).saveClaimed (a / 64)).takeDirty (a / 64) (s.keyOf key)).rebase (a / 64) (s.keyOf key)
  { s with mem := s.mem.set 0 a b }
/-- The stack takes the sectors `secs` of a line that its slice writes back (R96). -/
def State.writtenBack (s : State) (line : Nat) (secs : BitVec 4) : State :=
  { s with stale := s.stale.keep (fun b _ => b / 2 != line || (secs >>> (2 * (b % 2))) &&& 3 == 0) }
/-- A burst whose dirty bytes are lost: it is again what its stack holds. -/
def State.revert (s : State) (burst : Nat) (x : Stored) : State :=
  { s with
    mem := (List.range 64).foldl (fun m i => m.set 0 (64 * burst + i) ((x.data >>> (8 * i)).setWidth 8)) s.mem
    burst := s.burst.set 0 burst x.tag
    poison := (List.range 2).foldl (fun m i => m.set false (2 * burst + i) (x.poison.getD i false)) s.poison
    stale := s.stale.erase burst }
/-- Dirty bytes of the slices in bursts that satisfy a test are discarded (R114, R439). -/
def State.loseDirty (s : State) (p : Nat → Bool) : State :=
  (s.stale.keep (fun b _ => p b)).foldl (fun s e => s.revert e.1 e.2) s

/-- The 32-byte words that a list of bytes covers whole (R79). -/
def wholeWords (as : List Nat) : List Nat :=
  ((as.map (· / 32)).dedup).filter (fun w => (List.range 32).all (fun i => as.contains (32 * w + i)))

/-- Bytes performed at their home slices: stored, and the poison of words covered whole cleared (R79, R97). -/
def State.homeWrite (s : State) (key : Nat) (bs : List (Nat × Byte)) : State :=
  let s := bs.foldl (fun s p => s.homePut key p.1 p.2) s
  { s with poison := (wholeWords (bs.map Prod.fst)).foldl (fun m w => m.set false w false) s.poison }

-- ## Traffic at the slices, and its regulators (R99 to R103)

/-- The requests of an access to the bytes at some addresses: a write of part of a sector needs the rest of it. -/
def State.trafficks (s : State) (slot cls : Nat) (kind : TKind) (at_ : Attr) (as : List Nat) : State :=
  ((as.map (· / 32)).dedup).foldl (fun s w =>
    s.traffick slot cls w kind (kind != .write || !(List.range 32).all (fun i => as.contains (32 * w + i))) at_) s
/-- The same for an engine, whose bytes may lie in pages of different attributes. -/
def State.engTraffic (s : State) (slot cls : Nat) (kind : TKind) (l : List (Nat × Attr)) : State :=
  ((l.map Prod.snd).dedup).foldl (fun s a => s.trafficks slot cls kind a ((l.filter (fun p => p.2 == a)).map Prod.fst)) s

/-- A request for one word at its stack's controller, exempt, as scrubbing makes it (R78, R99). -/
def State.scrubRequest (s : State) (a : Nat) (kind : TKind) : State :=
  let inst := 128 + (rowName a).1 / 64
  { s with
    nextId := s.nextId + 1
    traffic := s.traffic.insert inst (s.traffic.get [] inst ++
      [⟨s.nextId, s.tick, 0, 3, a / 128, 0, 1#4 <<< (a / 32 % 4), 0, kind, s.now, false⟩]) }

/-- Sectors of a request, and the 64-byte bursts they lie in. -/
def secCount (v : BitVec 4) : Nat := ((List.range 4).filter (fun i => v.getLsbD i)).length
def burstCount (v : BitVec 4) : Nat := (if v &&& 3 = 0 then 0 else 1) + (if v &&& 12 = 0 then 0 else 1)
/-- The bytes a request takes tokens for at an instance (R101): 32 for each sector at a slice, 64 for each burst at a stack. -/
def Traffic.cost (t : Traffic) (inst : Nat) : Nat := if inst < 128 then 32 * secCount t.secs else 64 * burstCount t.secs
/-- The stack's instance of a request. -/
def Traffic.up (t : Traffic) : Nat := 128 + (rowName (128 * t.line)).1 / 64

/-- Depth of a regulator in bytes; below 128 acts as 128 (R101). -/
def regDepth (r : W64) : Nat := max 128 (fld r 31 8)
/-- Tokens that a reference cycle adds, in 65,536ths of a byte (R101); a fraction below that is dropped (log 31). -/
def regRate (r : W64) : Nat := fld r 63 32 * 65536 / 850
def bucketKey (inst slot k : Nat) : Nat := (inst * 64 + slot) * 8 + k
/-- The bucket of an instance now: refilled, clamped; one not listed is full (R101, R103). -/
def State.bucket (s : State) (inst slot k : Nat) : Nat :=
  let r := s.reg (l2RegAddr slot k)
  match s.buckets.find? (bucketKey inst slot k) with
  | none => regDepth r * 65536
  | some b => min (regDepth r * 65536) (b.tokens + (s.now - b.at_) * regRate r)
def State.setBucket (s : State) (inst slot k n : Nat) : State :=
  { s with buckets := s.buckets.insert (bucketKey inst slot k) ⟨n, s.now⟩ }
/-- The regulator of a request at an instance: resource 0 at slices, 1 at stack controllers (R99). -/
def regOf (inst : Nat) (t : Traffic) : Nat := 2 * t.cls + (if inst < 128 then 0 else 1)
/-- The tier of a head request, none where it must wait (R102). -/
def State.tier (s : State) (inst : Nat) (t : Traffic) : Option Nat :=
  if 3 ≤ t.cls then some 1
  else
    let r := s.reg (l2RegAddr t.slot (regOf inst t))
    if s.ended.contains t.slot || !s.ctxEn t.slot || fld r 0 0 == 0 then some 2
    else if t.cost inst * 65536 ≤ s.bucket inst t.slot (regOf inst t) then some 1
    else if fld r 1 1 == 0 then some 3
    else none
/-- The heads of the class queues of an instance (R101). -/
def headsOf : List (Nat × Nat) → List Traffic → List Traffic
  | _, [] => []
  | seen, t :: ts => if seen.contains (t.slot, t.cls) then headsOf seen ts else t :: headsOf ((t.slot, t.cls) :: seen) ts

/-- What a slice holds (R96), and the sectors that a request needs and finds missing there: a line under another key ID does
not count (R81). -/
def State.slice (s : State) (inst : Nat) : SliceSt := s.slices.get ⟨[], []⟩ inst
def SliceSt.missing (x : SliceSt) (t : Traffic) : BitVec 4 :=
  match x.lines.find? (fun l => l.line == t.line && l.key == t.key) with
  | some l => t.need &&& ~~~ l.valid
  | none => t.need
/-- A request that arrives at an instance is served without waiting for tokens (R101, R102, R406): its regulator does not cap,
its context has been ended, or its class queue is empty, but for what the same step makes, and the bucket holds the `n` bytes
that the access moves in that queue. -/
def State.admitted (s : State) (inst : Nat) (t : Traffic) (n : Nat) : Bool :=
  let r := s.reg (l2RegAddr t.slot (regOf inst t))
  decide (3 ≤ t.cls) || s.ended.contains t.slot || !s.ctxEn t.slot || fld r 0 0 == 0 || fld r 1 1 == 0
    || (!(s.traffic.get [] inst).any (fun x => x.tick != s.tick && x.slot == t.slot && x.cls == t.cls)
        && decide (n * 65536 ≤ s.bucket inst t.slot (regOf inst t)))
/-- The requests in which `t` differs from `s`, each with its slice. Reads count only under `reads`: a core's load is bound at
once, and its result waits for them instead (log 3). -/
def State.newRequests (s t : State) (reads : Bool) : List (Nat × Traffic) :=
  t.traffic.flatMap (fun e => (e.2.filter (fun x => decide (s.nextId ≤ x.id) && (reads || x.kind != .read))).map (fun x => (e.1, x)))
/-- What of these goes on to a stack. -/
def State.missesOf (s : State) (l : List (Nat × Traffic)) : List (Nat × Traffic) :=
  l.filterMap (fun x =>
    let m := (s.slice x.1).missing x.2
    if m = 0 then none else some (x.2.up, { x.2 with secs := m }))
/-- A regulator with `CAP` holds back what has made the requests in which `t` differs from `s` (R101, R102): of some class queue,
at a slice or at a stack, they move more bytes together than it admits now. -/
def State.heldBack (s t : State) (reads : Bool) : Bool :=
  let l := s.newRequests t reads
  let l := l ++ s.missesOf l
  l.any (fun x => !s.admitted x.1 x.2
    (((l.filter (fun y => y.1 == x.1 && y.2.slot == x.2.slot && y.2.cls == x.2.cls)).map (fun y => y.2.cost y.1)).foldl (· + ·) 0))
/-- Requests of a held access have not all been served. -/
def State.posting (s : State) (p : Post) : Bool :=
  s.traffic.any (fun e => e.2.any (fun x => x.tick == p.tick && p.reqs.any (fun r => r.slot == x.slot)))
/-- Requests that arrive at their instances. -/
def State.arrive (s : State) (l : List (Nat × Traffic)) : State :=
  { s with traffic := l.foldl (fun m x => m.insert x.1 (m.get [] x.1 ++ [x.2])) s.traffic }
/-- What a step from `s` that would lead to `u`, but waits, leaves behind: its walks, with their reads, and what it has
translated (R86). -/
def State.waiting (s u : State) : State :=
  ({ s with engTlb := u.engTlb, walks := u.walks, nextId := u.nextId } : State).arrive
    ((s.newRequests u true).filter (fun x => decide (3 ≤ x.2.cls)))
/-- An access that leads from `s` to `t` goes on, or a regulator holds it back: then only its requests are made, in whose queues
they gather their tokens, and it goes on, without making them again, once all of them have been served (R101, R102). -/
def State.pass (s t : State) (reads : Bool) : Except State State :=
  let new := (s.newRequests t reads).filter (fun x => decide (x.2.cls < 3))
  let reqs := new.map (fun x => { x.2 with id := 0, tick := 0, age := 0 })
  if t.traffic = s.traffic ∨ reqs = [] then .ok t
  else match s.posts.find? (fun p => p.reqs == reqs) with
  | some p =>
    if s.posting p then .error (s.waiting t)
    else .ok { t with
      posts := s.posts.erase p
      traffic := (t.traffic.mapV (fun l => l.filter (fun x => !new.any (fun y => y.2.id == x.id)))).keep (fun _ l => !l.isEmpty) }
  | none =>
    if !s.heldBack t reads then .ok t
    else .error { (s.waiting t).arrive new with posts := s.posts ++ [⟨reqs, s.tick⟩] }
/-- The same for a whole step of an engine: where a regulator holds back what it reads or writes, it has no other effect. -/
def State.passed (s t : State) : State :=
  match s.pass t true with
  | .ok u => u
  | .error w => w

-- ## Pseudo-LRU replacement (R130, R93)

/-- Bit of a set's replacement state. -/
def rbit (bits : BitVec 32) (i : Nat) : Bool := bits.getLsbD i
def rset (bits : BitVec 32) (i : Nat) (v : Bool) : BitVec 32 :=
  if v then bits ||| (1#32 <<< i) else bits &&& ~~~ (1#32 <<< i)
/-- The quad that the tree over the quads points to (R130): `h` levels from node `node` over leaves from `lo`. -/
def plruQuad (nq : Nat) (bits : BitVec 32) : Nat → Nat → Nat → Nat
  | 0, lo, _ => lo
  | h + 1, lo, node =>
    if rbit bits (18 + node) && decide (lo + 2 ^ h < nq) then plruQuad nq bits h (lo + 2 ^ h) (2 * node + 1)
    else plruQuad nq bits h lo (2 * node)
/-- Set every bit on the path to a quad to point toward it or away from it. -/
def plruTouchQuad (q : Nat) (toward : Bool) : Nat → Nat → Nat → BitVec 32 → BitVec 32
  | 0, _, _, bits => bits
  | h + 1, lo, node, bits =>
    if q < lo + 2 ^ h then plruTouchQuad q toward h lo (2 * node) (rset bits (18 + node) (!toward))
    else plruTouchQuad q toward h (lo + 2 ^ h) (2 * node + 1) (rset bits (18 + node) toward)
def plruDepth (nq : Nat) : Nat := if nq ≤ 4 then 2 else 3
/-- The victim way (R130). -/
def plruVictim (ways : Nat) (bits : BitVec 32) : Nat :=
  let nq := ways / 4
  let q := plruQuad nq bits (plruDepth nq) 0 1
  let hi := rbit bits (3 * q)
  let lo := rbit bits (3 * q + (if hi then 2 else 1))
  4 * q + (if hi then 2 else 0) + (if lo then 1 else 0)
/-- A hit, or a fill at the most (`toward` false) or least recently used position (R130). -/
def plruTouch (ways way : Nat) (toward : Bool) (bits : BitVec 32) : BitVec 32 :=
  let q := way / 4
  let bits := plruTouchQuad q toward (plruDepth (ways / 4)) 0 1 bits
  let up := decide (2 ≤ way % 4)
  let bits := rset bits (3 * q) (if toward then up else !up)
  rset bits (3 * q + (if up then 2 else 1)) (if toward then way % 2 == 1 else way % 2 == 0)
/-- A way for a new line: the lowest that is not in use, else the victim (R130). -/
def wayFor (ways : Nat) (used : List Nat) (bits : BitVec 32) : Nat :=
  match (List.range ways).find? (fun w => !used.contains w) with
  | some w => w
  | none => plruVictim ways bits

-- ## Cluster caches (R93 to R95)

def State.clus (s : State) (cl : Nat) : ClusterSt := s.clusters.get ClusterSt.init cl
def State.setClus (s : State) (cl : Nat) (c : ClusterSt) : State :=
  { s with clusters := s.clusters.set ClusterSt.init cl c }
/-- Bytes of a 128-byte line. -/
def lineByte (d : BitVec 1024) (i : Nat) : Byte := (d >>> (8 * i)).setWidth 8
def lineSet (d : BitVec 1024) (i : Nat) (b : Byte) : BitVec 1024 :=
  (d &&& ~~~ ((255 : BitVec 1024) <<< (8 * i))) ||| ((b.setWidth 1024) <<< (8 * i))
/-- A sector's 32 bytes replaced. -/
def lineFill (d : BitVec 1024) (sec : Nat) (bs : List Byte) : BitVec 1024 :=
  (bs.zipIdx).foldl (fun d p => lineSet d (32 * sec + p.2) p.1) d

/-- The set of a line in the shared caches: 2,048 sets of 16 ways, by canonical address bits `[17:7]` (R93, log 5). -/
def sharedSet (line : Nat) : Nat := line % 2048
/-- A hit on a way, or a fill that enters it (R93, R130). -/
def touch16 (m : SMap (BitVec 32)) (line way : Nat) (lru : Bool) : SMap (BitVec 32) :=
  m.set 0 (sharedSet line) (plruTouch 16 way lru (m.get 0 (sharedSet line)))
/-- A context's line: lines are matched by context slot beside address and key, so that a `DEVICE` acquire finds those of its own
context (R95, log 50). -/
def ClusterSt.find (c : ClusterSt) (slot line : Nat) : Option CLine := c.lines.find? (fun l => l.line == line && l.slot == slot)
/-- A line made present with no sector valid; the victim of its set is clean and leaves (R93, R94). -/
def ClusterSt.alloc (c : ClusterSt) (slot line key : Nat) : ClusterSt :=
  let here := c.lines.filter (fun l => sharedSet l.line == sharedSet line)
  let way := wayFor 16 (here.map (·.way)) (c.plru.get 0 (sharedSet line))
  { c with lines := c.lines.filter (fun l => !(sharedSet l.line == sharedSet line && l.way == way))
      ++ [⟨way, slot, line, key, 0, 0, 0⟩] }
/-- A sector of a present line filled. -/
def CLine.fill (l : CLine) (sec : Nat) (bs : List Byte) (poison : Bool) : CLine :=
  { l with
    valid := l.valid ||| (1#4 <<< sec)
    data := lineFill l.data sec bs
    poison := if poison then l.poison ||| (1#4 <<< sec) else l.poison &&& ~~~ (1#4 <<< sec) }
/-- A sector of a context's line in the cluster cache is dropped, with the line where none is left. -/
def CLine.without (l : CLine) (w : Nat) : CLine := if l.line = w / 4 then { l with valid := l.valid &&& ~~~ (1#4 <<< (w % 4)) } else l

/-- Make the 32-byte sector at `w * 32` present in a context's line of the cluster cache (R94); copies under another key are
dropped first (R81). A fill under `CP` = 1 enters at the least recently used position (R93). -/
def State.clFill (s : State) (cl slot : Nat) (at_ : Attr) (w : Nat) : State :=
  let c : ClusterSt := { s.clus cl with lines := (s.clus cl).lines.filter (fun l => !(l.line == w / 4 && l.key != at_.key)) }
  let c := if (c.find slot (w / 4)).isSome then c else c.alloc slot (w / 4) at_.key
  match c.find slot (w / 4) with
  | none => s
  | some l =>
    let hit := l.valid.getLsbD (w % 4)
    let c : ClusterSt := { c with plru := touch16 c.plru l.line l.way (!hit && at_.cp == 1) }
    if hit then s.setClus cl c
    else
      let filled (x : CLine) : CLine := x.fill (w % 4) (s.homeBytes at_.key (32 * w) 32) (s.homePoison (32 * w))
      (s.traffick slot 0 w .read true at_).setClus cl
        { c with lines := updWhere c.lines (fun x => x.line == w / 4 && x.slot == slot) filled }
/-- A sector as the cluster cache holds it, each byte with its poison; only after `clFill`. -/
def State.clSector (s : State) (cl slot w : Nat) : List (Byte × Bool) :=
  match (s.clus cl).find slot (w / 4) with
  | some l => (List.range 32).map (fun j => (lineByte l.data (32 * (w % 4) + j), l.poison.getLsbD (w % 4)))
  | none => List.replicate 32 (0, false)
/-- A sector leaves every line of a cluster cache. -/
def State.clDrop (s : State) (cl w : Nat) : State :=
  let c := s.clus cl
  s.setClus cl { c with lines := (c.lines.map (fun l => l.without w)).filter (fun l => l.valid != 0) }
/-- Bytes written through the cluster cache: any present copy under the key is updated, a hit on its way (R130), one under another
key dropped, and the bytes go on to their home slices (R81, R94). `marks` are the words that arrive poisoned: they stay so in the copy and at
home (R79). -/
def State.clWrite (s : State) (cl slot : Nat) (at_ : Attr) (bs : List (Nat × Byte)) (marks : List Nat) : State :=
  if bs.isEmpty then s
  else
    let c := s.clus cl
    let whole := wholeWords (bs.map Prod.fst)
    let touched (l : CLine) : Bool := bs.any (fun p => p.1 / 128 == l.line)
    let ls := (c.lines.filter (fun l => !(touched l && l.key != at_.key))).map (fun l =>
      { l with
        data := bs.foldl (fun d p => if p.1 / 128 == l.line then lineSet d (p.1 % 128) p.2 else d) l.data
        poison := marks.foldl (fun m w => if w / 4 == l.line then m ||| (1#4 <<< (w % 4)) else m)
          (whole.foldl (fun m w => if w / 4 == l.line then m &&& ~~~ (1#4 <<< (w % 4)) else m) l.poison) })
    let plru := (ls.filter touched).foldl (fun m l => touch16 m l.line l.way false) c.plru
    let s := s.setClus cl { c with lines := ls, plru := plru }
    let s := s.homeWrite at_.key bs
    let s := { s with poison := marks.foldl (fun m w => m.set false w true) s.poison }
    s.trafficks slot 0 .write at_ (bs.map Prod.fst)

-- ## L1 (R129 to R135)

def State.core (s : State) (c : Nat) : CoreSt := s.cores.get CoreSt.init c
def State.setCore (s : State) (c : Nat) (x : CoreSt) : State := { s with cores := s.cores.set CoreSt.init c x }

/-- Number of ways (R129). -/
def CoreSt.ways (c : CoreSt) : Nat := c.l1 / 64
def CoreSt.findLine (c : CoreSt) (line : Nat) : Option L1Line := c.lines.find? (fun l => l.line == line)
def CoreSt.dropLine (c : CoreSt) (line : Nat) : CoreSt := { c with lines := c.lines.filter (fun l => l.line != line) }
def CoreSt.putLine (c : CoreSt) (x : L1Line) : CoreSt := { c with lines := updWhere c.lines (fun l => l.line == x.line) (fun _ => x) }
def CoreSt.touch (c : CoreSt) (set way : Nat) (toward : Bool) : CoreSt :=
  { c with plru := c.plru.set 0 set (plruTouch c.ways way toward (c.plru.get 0 set)) }
/-- The dirty bytes of a line. -/
def L1Line.dirtyBytes (l : L1Line) : List (Nat × Byte) :=
  ((List.range 128).filter (fun i => l.dirty.getLsbD i)).map (fun i => (128 * l.line + i, lineByte l.data i))
/-- A byte is present when its sector is valid or its dirty bit is set (R129). -/
def L1Line.has (l : L1Line) (i : Nat) : Bool := l.valid.getLsbD (i / 32) || l.dirty.getLsbD i

/-- The sectors of a line that have a dirty byte. -/
def L1Line.dirtySecs (l : L1Line) : BitVec 4 :=
  (List.range 4).foldl (fun (m : BitVec 4) i => if (List.range 32).any (fun j => l.dirty.getLsbD (32 * i + j)) then m ||| (1#4 <<< i) else m) 0
/-- Marks stay only with bytes that are present (R79). -/
def L1Line.settle (l : L1Line) : L1Line := { l with poison := l.poison &&& (l.valid ||| l.dirtySecs) }
/-- Sectors become invalid: their dirty bytes stay, and marks with them. -/
def L1Line.invalid (l : L1Line) (secs : BitVec 4) : L1Line := { l with valid := l.valid &&& ~~~ secs }.settle
/-- The dirty bytes have gone below, and the line takes a tag. -/
def L1Line.clean (l : L1Line) (sc : Scope) : L1Line := { l with dirty := 0, sc := sc }.settle
/-- Nothing of the line is present. -/
def L1Line.empty (l : L1Line) : Bool := l.valid == 0 && l.dirty == 0
/-- The poisoned words of a line that have a dirty byte: a write-back stores them poisoned again (R79). -/
def L1Line.marks (l : L1Line) : List Nat :=
  ((List.range 4).filter (fun i => l.poison.getLsbD i && (List.range 32).any (fun j => l.dirty.getLsbD (32 * i + j)))).map
    (fun i => 4 * l.line + i)
/-- A request of a core's bank queues that belongs to no group (R127): a fill, a write-back, an engine's line. One that finds a
full queue waits behind it, in arrival order (log 28). -/
def State.bankPut (s : State) (core : Nat) (lines : List Nat) : State :=
  let c := s.core core
  s.setCore core { c with bankq := lines.foldl (fun m l => m.set [] (l % 64) (m.get [] (l % 64) ++ [⟨none, none⟩])) c.bankq }
/-- Send a line's dirty bytes to the cluster cache; poisoned words stay poisoned below (R79, R94). -/
def State.writeBack (s : State) (core : Nat) (l : L1Line) : State :=
  if l.dirty = 0 then s
  else (s.bankPut core ((l.dirtyBytes.map (fun p => p.1 / 32)).dedup)).clWrite (core / 16) l.slot ⟨l.key, 0, false⟩ l.dirtyBytes l.marks

/-- A line at the address under another slot or key is written back and dropped before the access (R81, R130). -/
def State.l1Match (s : State) (core slot key line : Nat) : State :=
  match (s.core core).findLine line with
  | some l =>
    if l.slot = slot ∧ l.key = key then s
    else
      let s := s.writeBack core l
      s.setCore core ((s.core core).dropLine line)
  | none => s

/-- Allocate an absent line: an invalid way first, else the victim, whose dirty bytes are written back (R130). -/
def State.l1Alloc (s : State) (core slot key line : Nat) (lru : Bool) : State :=
  let c := s.core core
  let set := line % 512
  let way := wayFor c.ways ((c.lines.filter (fun l => l.set == set)).map (·.way)) (c.plru.get 0 set)
  let s := match c.lines.find? (fun l => l.set == set && l.way == way) with
    | some l =>
      let s := s.writeBack core l
      s.setCore core ((s.core core).dropLine l.line)
    | none => s
  let c := s.core core
  s.setCore core { (c.touch set way lru) with lines := c.lines ++ [⟨set, way, line, slot, key, 0, 0, .team, 0, 0⟩] }

/-- Fill the sector at `w * 32` of a present line from the cluster cache; dirty bytes keep their values, and the mark is that
of the word as it arrives (R79, R130). -/
def State.l1Fill (s : State) (core slot : Nat) (at_ : Attr) (w : Nat) : State :=
  let s := (s.clFill (core / 16) slot at_ w).bankPut core [w]
  match (s.core core).findLine (w / 4) with
  | some l =>
    let sec := w % 4
    let bs := (s.clSector (core / 16) slot w).zipIdx
    s.setCore core ((s.core core).putLine { l with
      valid := l.valid ||| (1#4 <<< sec)
      data := bs.foldl (fun d p => if l.dirty.getLsbD (32 * sec + p.2) then d else lineSet d (32 * sec + p.2) p.1.1) l.data
      poison := if bs.any (fun p => p.1.2) then l.poison ||| (1#4 <<< sec) else l.poison &&& ~~~ (1#4 <<< sec) })
  | none => s

/-- The bytes of a sector that this core's L1 holds, with their poison: all that are present, or the dirty ones. -/
def State.ownBytes (s : State) (core w : Nat) (dirtyOnly : Bool) : List (Option (Byte × Bool)) :=
  (List.range 32).map (fun j =>
    match (s.core core).findLine (w / 4) with
    | some l =>
      let i := 32 * (w % 4) + j
      if (if dirtyOnly then l.dirty.getLsbD i else l.has i) then some (lineByte l.data i, l.poison.getLsbD (w % 4)) else none
    | none => none)
/-- A hit on a present line (R130). -/
def State.l1Hit (s : State) (core line : Nat) : State :=
  match (s.core core).findLine line with
  | some l => s.setCore core ((s.core core).touch l.set l.way false)
  | none => s
/-- A line takes its place again, or goes where nothing of it is left. -/
def CoreSt.keepLine (c : CoreSt) (l : L1Line) : CoreSt := if l.empty then c.dropLine l.line else c.putLine l
/-- The clean bytes of a sector leave L1. -/
def State.l1Forget (s : State) (core w : Nat) : State :=
  match (s.core core).findLine (w / 4) with
  | some l => s.setCore core ((s.core core).keepLine (l.invalid (1#4 <<< (w % 4))))
  | none => s
/-- Bytes held above others. -/
def overlay (top : List (Option (Byte × Bool))) (below : List (Byte × Bool)) : List (Byte × Bool) :=
  (top.zip below).map (fun p => p.1.getD p.2)
/-- Some of the offsets are held. -/
def heldSome (top : List (Option (Byte × Bool))) (offs : List Nat) : Bool := offs.any (fun j => (top.getD j none).isSome)
/-- The offsets of a sector that it must give are all held. -/
def heldAll (top : List (Option (Byte × Bool))) (offs : List Nat) : Bool := offs.all (fun j => (top.getD j none).isSome)

/-- A sector read at `TEAM` scope for the bytes at `offs`, once for the whole access (R130, R143): `cp` is the policy of its
fills, after the hint. Bytes that L1 holds come from L1, on a page with `CP` = 2 the dirty ones; the others from a fill, or
under policy 2 from the cluster cache. A clean copy that a hint brought to L1 on a page with `CP` = 2 goes when the cluster cache
is read instead, so that no later access of the team finds an older value there (R330, log 36). -/
def State.l1Sector (s : State) (core slot : Nat) (at_ : Attr) (cp w : Nat) (offs : List Nat) : State × List (Byte × Bool) :=
  let s := s.l1Match core slot at_.key (w / 4)
  let own := s.ownBytes core w (at_.cp == 2 && cp == 2)
  let s := if heldSome own offs then s.l1Hit core (w / 4) else s
  if heldAll own offs then (s, overlay own (List.replicate 32 (0, false)))
  else if cp = 2 then
    let s := (if at_.cp = 2 then s.l1Forget core w else s).clFill (core / 16) slot at_ w
    (s, overlay own (s.clSector (core / 16) slot w))
  else
    let at_ := { at_ with cp := cp }
    let s := match (s.core core).findLine (w / 4) with
      | some l => s.setCore core ((s.core core).touch l.set l.way (cp == 1))
      | none => s.l1Alloc core slot at_.key (w / 4) (cp == 1)
    let s := s.l1Fill core slot at_ w
    (s, overlay (s.ownBytes core w false) (List.replicate 32 (0, false)))
/-- A sector read at a wider scope: what is dirty in this core's L1, the rest at the point of coherence (R143). -/
def State.wideSector (s : State) (core slot : Nat) (at_ : Attr) (sc : Scope) (w : Nat) (offs : List Nat) :
    State × List (Byte × Bool) :=
  let s := s.l1Match core slot at_.key (w / 4)
  let own := s.ownBytes core w true
  let s := if heldSome own offs then s.l1Hit core (w / 4) else s
  if heldAll own offs then (s, overlay own (List.replicate 32 (0, false)))
  else match sc with
    | .cluster =>
      let s := s.clFill (core / 16) slot at_ w
      (s, overlay own (s.clSector (core / 16) slot w))
    | _ =>
      (s.traffick slot 0 w .read true at_,
        overlay own ((s.homeBytes at_.key (32 * w) 32).map (fun b => (b, s.homePoison (32 * w)))))
/-- A sector read at a scope. -/
def State.sectorAt (s : State) (core slot : Nat) (at_ : Attr) (cp : Nat) (sc : Scope) (w : Nat) (offs : List Nat) :
    State × List (Byte × Bool) :=
  match sc with
  | .team => s.l1Sector core slot at_ cp w offs
  | _ => s.wideSector core slot at_ sc w offs

/-- Put bytes into a present line, marking them dirty or not; words covered whole lose their poison (R79, R131). -/
def L1Line.store (l : L1Line) (dirty : Bool) (bs : List (Nat × Byte)) : L1Line :=
  let mine := bs.filter (fun p => p.1 / 128 == l.line)
  let whole := wholeWords (mine.map Prod.fst)
  { l with
    data := mine.foldl (fun d p => lineSet d (p.1 % 128) p.2) l.data
    dirty := if dirty then mine.foldl (fun m p => m ||| (1#128 <<< (p.1 % 128))) l.dirty else l.dirty
    poison := whole.foldl (fun m w => m &&& ~~~ (1#4 <<< (w % 4))) l.poison }

/-- The bytes of a store that lie in one line, performed at L1 (R131, R134): `through` for a scope wider than `TEAM`, a page
with `CP` = 2, or `.nol1`. A line that is allocated without a fill enters its set where a fill under its page's `CP` would
(log 50). -/
def State.l1StoreLine (s : State) (core slot : Nat) (at_ : Attr) (sc : Scope) (through : Bool) (line : Nat)
    (bs : List (Nat × Byte)) : State :=
  let s := s.l1Match core slot at_.key line
  if through then
    match (s.core core).findLine line with
    | some l =>
      let l' := l.store false bs
      let dirty := l.dirtyBytes.filter (fun p => !(bs.any (fun q => q.1 == p.1)))
      let s := s.l1Hit core line
      (s.setCore core ((s.core core).keepLine (l'.clean sc))).clWrite (core / 16) slot at_ (dirty ++ bs) l'.marks
    | none => s.clWrite (core / 16) slot at_ bs []
  else
    let s := match (s.core core).findLine line with
      | some l => s.setCore core ((s.core core).touch l.set l.way false)
      | none => s.l1Alloc core slot at_.key line (at_.cp == 1)
    match (s.core core).findLine line with
    | some l => s.setCore core ((s.core core).putLine { (l.store true bs) with sc := .team })
    | none => s

/-- Whether a store goes through L1 to the cluster cache (R131, R134). -/
def State.storeThrough (s : State) (slot : Nat) (at_ : Attr) (sc : Scope) (nol1 : Bool) : Bool :=
  at_.cp == 2 || nol1 || (sc != .team && !s.ctxCompat slot)
/-- A store of a group performed (R131, R134). -/
def State.l1Store (s : State) (core slot : Nat) (at_ : Attr) (sc : Scope) (nol1 : Bool) (bs : List (Nat × Byte)) : State :=
  let sc' := if s.ctxCompat slot then Scope.team else sc
  ((bs.map (fun p => p.1 / 128)).dedup).foldl
    (fun s line => s.l1StoreLine core slot at_ sc' (s.storeThrough slot at_ sc nol1) line (bs.filter (fun p => p.1 / 128 == line))) s
/-- The bank lines that a store of a group reaches (R123): those of the L1 lines it writes. -/
def State.storeLines (s : State) (core slot : Nat) (at_ : Attr) (sc : Scope) (nol1 : Bool) (as : List Nat) : List Nat :=
  ((as.map (· / 32)).dedup).filter (fun w => !s.storeThrough slot at_ sc nol1 || ((s.core core).findLine (w / 4)).isSome)

def Scope.rank : Scope → Nat
  | .team => 0 | .cluster => 1 | .device => 2 | .system => 3

/-- Write back and clean the lines of a core that satisfy a test; a line left with nothing is dropped (R132). -/
def State.cleanLines (s : State) (core : Nat) (p : L1Line → Bool) : State :=
  let todo := (s.core core).lines.filter (fun l => p l && l.dirty != 0)
  let s := todo.foldl (fun s l => s.writeBack core l) s
  let c := s.core core
  s.setCore core { c with lines := (c.lines.map (fun l =>
      if p l && l.dirty != 0 then l.clean .team else l)).filter (fun l => !l.empty) }

/-- The release of a context at a scope in a core's L1 (R132, R134). -/
def State.l1Release (s : State) (core slot : Nat) (sc : Scope) : State :=
  match sc with
  | .team => s
  | _ => s.cleanLines core (fun l => l.slot == slot && (s.ctxCompat slot || decide (Scope.rank l.sc < Scope.rank sc)))

/-- The acquire of a context at a scope (R95, R133). -/
def State.acquireAt (s : State) (core slot : Nat) (sc : Scope) : State :=
  match sc with
  | .team => s
  | _ =>
    let c := s.core core
    let s := s.setCore core { c with lines := (c.lines.map (fun l =>
      if l.slot = slot then l.invalid 15 else l)).filter (fun l => !l.empty) }
    match sc with
    | .cluster => s
    | _ =>
      let k := s.clus (core / 16)
      s.setClus (core / 16) { k with lines := k.lines.filter (fun l => l.slot != slot) }

/-- Write back and drop everything a core's L1 holds (R121). -/
def State.l1Flush (s : State) (core : Nat) : State :=
  let s := s.cleanLines core (fun _ => true)
  s.setCore core { s.core core with lines := [], plru := [] }

-- ## Translation (R82 to R87)

/-- A fault code and detail. -/
abbrev XFault := Nat × Nat

/-- Index of an address at a level (R82). -/
def levelIdx (va lv : Nat) : Nat :=
  if lv = 3 then va / 2 ^ 39 % 8192 else if lv = 2 then va / 2 ^ 30 % 512
  else if lv = 1 then va / 2 ^ 21 % 512 else va / 2 ^ 16 % 32
/-- Alignment of the table that a level's entries name next, and size of a leaf at a level (R82). -/
def tableAlign (lv : Nat) : Nat := if lv = 1 then 256 else 4096
def leafSize (lv : Nat) : Nat := if lv = 2 then 2 ^ 30 else if lv = 1 then 2 ^ 21 else 2 ^ 16

/-- What a walk finds at a level in a table: a leaf, the next table, or the fault code and detail at which it stops (R82 to R85).
A poisoned entry, or one without storage, is UNCORRECTABLE_MEMORY at the access's own address (R71, R79, log 48). -/
def State.entryAt (s : State) (slot va lv tbl : Nat) : Except XFault (TlbE ⊕ Nat) :=
  let ea := canon (tbl + 8 * levelIdx va lv) false
  let e := natOf (s.homeBytes (s.ctxTkey slot) ea 8)
  let f (hi lo : Nat) := (e / 2 ^ lo) % 2 ^ (hi + 1 - lo)
  let addr := f 63 24 * 256
  let leaf := f 4 4 == 1
  let bad (code : Nat) : Except XFault (TlbE ⊕ Nat) := .error (0x06, 16 * lv + code)
  if !s.keyLoaded (s.ctxTkey slot) then .error (0x07, 0x0B)
  else if s.unbacked ea || s.homePoison ea then .error (0x16, 0)
  else if f 0 0 == 0 then bad 2
  else if f 23 20 != 0 || (!leaf && (f 19 5 != 0 || f 3 1 != 0)) || (leaf && f 9 8 == 3) then bad 3
  else if (leaf && lv == 3) || (!leaf && lv == 0) then bad 4
  else if addr % (if leaf then leafSize lv else tableAlign lv) != 0 then bad 4
  else if hbmEnd ≤ addr then bad 5
  else if leaf then
    .ok (.inl ⟨s.ctxAsid slot, va / leafSize lv * leafSize lv, leafSize lv, addr, ea, f 19 12, f 11 10, f 9 8,
      f 7 7 == 1, f 6 6 == 1, f 5 5 == 1, f 3 3 == 1, f 2 2 == 1, f 1 1 == 1⟩)
  else .ok (.inr addr)
/-- The walk from a table at a level: the leaf, or the first failure. -/
def State.walkFrom (s : State) (slot va : Nat) : Nat → Nat → Except XFault TlbE
  | lv, tbl =>
    match s.entryAt slot va lv tbl with
    | .error f => .error f
    | .ok (.inl e) => .ok e
    | .ok (.inr addr) => match lv with
      | 0 => .error (0x06, 4)
      | lv' + 1 => State.walkFrom s slot va lv' addr

/-- A whole walk of a context's tables. A root outside HBM stops at level 3 with code 5 (log 32). -/
def State.walk (s : State) (slot va : Nat) : Except XFault TlbE :=
  if hbmEnd ≤ s.ctxRoot slot then .error (0x06, 0x35) else s.walkFrom slot va 3 (s.ctxRoot slot)
/-- The canonical addresses of the entries that a walk reads (R86): none under a key that is not loaded, none where there is no
storage (R71, R80). -/
def State.walkEntries (s : State) (slot va : Nat) : Nat → Nat → List Nat
  | lv, tbl =>
    let ea := canon (tbl + 8 * levelIdx va lv) false
    if !s.keyLoaded (s.ctxTkey slot) || s.unbacked ea then []
    else match s.entryAt slot va lv tbl with
      | .ok (.inr addr) => match lv with
        | 0 => [ea]
        | lv' + 1 => ea :: State.walkEntries s slot va lv' addr
      | _ => [ea]
/-- The walker's reads as traffic: exempt, eight bytes each (R86, R99). -/
def State.walkTraffic (s : State) (slot va : Nat) : State :=
  if hbmEnd ≤ s.ctxRoot slot then s
  else (s.walkEntries slot va 3 (s.ctxRoot slot)).foldl
    (fun s ea => s.traffick slot 3 (ea / 32) .read true ⟨s.ctxTkey slot, 0, false⟩) s
/-- A walk waits while the key of the context's tables is being replaced (R81). -/
def State.walkHeld (s : State) (slot : Nat) : Bool := s.keyLoad.contains (s.ctxTkey slot)

/-- A cached entry that covers an address (R86). -/
def tlbFind (t : List TlbE) (asid va : Nat) : Option TlbE :=
  t.find? (fun e => e.asid == asid && decide (e.base ≤ va) && decide (va < e.base + e.size))
/-- Enter a leaf; the oldest entry leaves a full TLB (log 4). -/
def tlbAdd (cap : Nat) (t : List TlbE) (e : TlbE) : List TlbE :=
  let t := t.filter (fun x => !(x.asid == e.asid && x.base == e.base && x.size == e.size))
  let t := if cap ≤ t.length then t.drop 1 else t
  t ++ [e]

/-- The outcome of looking an address up. -/
inductive XRes
  | hit (e : TlbE)
  | wait
  | bad (f : XFault)
  deriving DecidableEq, Repr

/-- A walk of a region for a context on a die (R86). -/
def Walk.isAt (w : Walk) (die slot region : Nat) : Bool := w.die == die && w.slot == slot && w.region == region
/-- A walk in progress that a core's access waits for. -/
def Walk.waits (w : Walk) (core slot region : Nat) : Bool :=
  w.isAt (core / 80) slot region && w.failed.isNone && w.cores.contains core
/-- The walks of a die that hold or await a slot, in arrival order. -/
def State.liveWalks (s : State) (die : Nat) : List Walk := s.walks.filter (fun w => w.die == die && w.failed.isNone)
/-- A walk holds one of its die's 1,024 slots: fewer arrived before it and go on (R86). -/
def State.walkRuns (s : State) (w : Walk) : Bool :=
  decide (((s.liveWalks w.die).takeWhile (fun x => x.id != w.id)).length < 1024)

/-- Translation of an instruction's address: core TLB, cluster TLB, then a walk that it starts or joins (R86). A failed walk
is what the access that retries finds; invalid results are never held, so where the tables have since become valid the walk
runs again. -/
def State.xlate (s : State) (core slot va : Nat) : State × XRes :=
  if 2 ^ 52 ≤ va then (s, .bad (0x06, 1))
  else
    let asid := s.ctxAsid slot
    let c := s.core core
    let region := va / 65536
    match tlbFind c.tlb asid va with
    | some e => (s, .hit e)
    | none =>
      match tlbFind (s.clus (core / 16)).tlb asid va with
      | some e => (s.setCore core { c with tlb := tlbAdd 128 c.tlb e }, .hit e)
      | none =>
        match s.walks.find? (fun w => w.isAt (core / 80) slot region && w.failed.isSome && w.cores.contains core) with
        | some w =>
          match s.walk slot va with
          | .error f => (s, .bad f)
          | .ok _ => ({ s with walks := updWhere s.walks (fun x => x.id == w.id) (fun x => { x with failed := none }) }, .wait)
        | none =>
          match s.walks.find? (fun w => w.isAt (core / 80) slot region && w.failed.isNone) with
          | some w => ({ s with walks := updWhere s.walks (fun x => x.id == w.id) (fun x =>
              if x.cores.contains core then x else { x with cores := x.cores ++ [core] }) }, .wait)
          | none =>
            ({ s with nextId := s.nextId + 1, walks := s.walks ++ [⟨s.nextId, core / 80, slot, region, [core], false, none⟩] }, .wait)

/-- An access of a core takes the fault of a failed walk: the core no longer waits for those it looked up, and one that nobody
waits for ends. -/
def State.dropFailed (s : State) (core slot : Nat) (regions : List Nat) : State :=
  { s with walks := (s.walks.map (fun w =>
      if w.failed.isSome && regions.any (fun r => w.isAt (core / 80) slot r) then { w with cores := w.cores.filter (· != core) }
      else w)).filter (fun w => w.failed.isNone || !w.cores.isEmpty) }

/-- Drop the entries of a page from every TLB (R91, R113). -/
def State.tlbDrop (s : State) (p : TlbE → Bool) : State :=
  { s with
    cores := s.cores.mapV (fun c => { c with tlb := c.tlb.filter (fun e => !p e) })
    clusters := s.clusters.mapV (fun c => { c with tlb := c.tlb.filter (fun e => !p e) })
    engTlb := s.engTlb.mapV (fun t => t.filter (fun e => !p e)) }

/-- Who waits for a walk: a core, or the engines of the die. -/
def Walk.join (w : Walk) : Option Nat → Walk
  | some c => if w.cores.contains c then w else { w with cores := w.cores ++ [c] }
  | none => { w with eng := true }
/-- A walk that is taken in the step that needs it, by an engine of a die, or by a core for `CCTL` and `PRF` (R86, R81): one of the
region that is in progress is joined; where the context's tables cannot be read for now it waits; where no slot is free it takes
its place in arrival order; else the walk is taken in the same step (logs 25, 33). -/
def State.walkNow (s : State) (die slot va : Nat) (core : Option Nat) : State × XRes :=
  match (s.liveWalks die).find? (fun w => w.isAt die slot (va / 65536)) with
  | some w => ({ s with walks := updWhere s.walks (fun x => x.id == w.id) (fun x => x.join core) }, .wait)
  | none =>
    if s.walkHeld slot then (s, .wait)
    else if 1024 ≤ (s.liveWalks die).length then
      ({ s with nextId := s.nextId + 1, walks := s.walks ++ [⟨s.nextId, die, slot, va / 65536, core.toList, core.isNone, none⟩] }, .wait)
    else match s.walk slot va with
      | .ok e => (s.walkTraffic slot va, .hit e)
      | .error f => (s.walkTraffic slot va, .bad f)
/-- Translation by a copy engine or fabric processor through its die's engine TLB, else a walk (R86). The spec names no TLB and
no walker for the reeve, nor one for what the matrix engine writes to memory: the reeve uses those of die 0, the matrix engine
those of its core's die (log 51). -/
def State.engXlate (s : State) (die slot va : Nat) : State × XRes :=
  if 2 ^ 52 ≤ va then (s, .bad (0x06, 1))
  else match tlbFind (s.engTlb.get [] die) (s.ctxAsid slot) va with
    | some e => (s, .hit e)
    | none =>
      match s.walkNow die slot va none with
      | (s, .hit e) => ({ s with engTlb := s.engTlb.set [] die (tlbAdd 256 (s.engTlb.get [] die) e) }, .hit e)
      | r => r

/-- Translation for `CCTL` and `PRF`, which skip a page that has none (R152, R153): through the core TLB, the cluster TLB, or a walk
taken at once (log 25). -/
def State.coreWalk (s : State) (core slot va : Nat) : State × XRes :=
  if 2 ^ 52 ≤ va then (s, .bad (0x06, 1))
  else match tlbFind (s.core core).tlb (s.ctxAsid slot) va with
    | some e => (s, .hit e)
    | none =>
      match tlbFind (s.clus (core / 16)).tlb (s.ctxAsid slot) va with
      | some e => (s.setCore core { s.core core with tlb := tlbAdd 128 (s.core core).tlb e }, .hit e)
      | none =>
        match s.walkNow (core / 80) slot va (some core) with
        | (s, .hit e) =>
          let s := s.setClus (core / 16) { s.clus (core / 16) with tlb := tlbAdd 4096 (s.clus (core / 16)).tlb e }
          (s.setCore core { s.core core with tlb := tlbAdd 128 (s.core core).tlb e }, .hit e)
        | r => r

/-- What an access needs of its page (R84). -/
inductive Need | r | w | rw | x
  deriving DecidableEq, Repr
def Need.writes : Need → Bool
  | .w => true | .rw => true | _ => false

/-- The permission check of R84, R85, in its order. -/
def State.permit (s : State) (n : Need) (e : TlbE) : Option XFault :=
  if (n = .r || n = .rw) && !e.r then some (0x07, 0x8)
  else if n.writes && !e.w then some (0x07, 0x9)
  else if n = .x && !e.x then some (0x07, 0xA)
  else if !s.keyLoaded e.key then some (0x07, 0xB)
  else none

/-- The canonical address of a virtual address in a translated page (R70, R87). -/
def TlbE.at_ (e : TlbE) (va : Nat) : Nat := canon (e.pa + (va - e.base)) e.dl
def TlbE.attr (e : TlbE) : Attr := ⟨e.key, e.cp, e.lat⟩

/-- Whether an access waits for its page's offload state (R115). -/
def offWait (n : Need) (e : TlbE) : Bool := e.ofs == 3 || (e.ofs == 1 && n.writes)

/-- A stop of an engine access: a fault code, detail and address, or a wait for a page or a key load. -/
inductive EStop
  | fault (code detail : Nat) (va : Nat)
  | wait
  deriving DecidableEq, Repr

/-- One byte of an engine access translated, permitted and decided by its offload state (R84, R115, R71). -/
def State.engByte (s : State) (die slot : Nat) (n : Need) (va : Nat) : State × Except EStop (Nat × Attr) :=
  match s.engXlate die slot va with
  | (s, .bad f) => (s, .error (.fault f.1 f.2 va))
  | (s, .wait) => (s, .error .wait)
  | (s, .hit e) =>
    match s.permit n e with
    | some f => (s, .error (.fault f.1 f.2 va))
    | none =>
      if s.keyLoad.contains e.key then (s, .error .wait)
      else if e.ofs = 2 then (s, .error (.fault 0x08 0 va))
      else if offWait n e then (s, .error .wait)
      else if s.unbacked (e.at_ va) then (s, .error (.fault 0x16 0 va))
      else (s, .ok (e.at_ va, e.attr))
/-- `n` bytes of an engine access from an address: canonical addresses and attributes; the first failing byte in ascending
order stops it (R116), and for a read so does a poisoned one (R79). -/
def State.engBytes (s : State) (die slot : Nat) (need : Need) (va : Nat) : Nat → State × Except EStop (List (Nat × Attr))
  | 0 => (s, .ok [])
  | n + 1 =>
    match State.engBytes s die slot need va n with
    | (s, .error x) => (s, .error x)
    | (s, .ok l) =>
      match s.engByte die slot need (va + n) with
      | (s, .error x) => (s, .error x)
      | (s, .ok p) =>
        if (need = .r ∨ need = .rw) ∧ s.homePoison p.1 = true then (s, .error (.fault 0x16 0 (va + n)))
        else (s, .ok (l ++ [p]))
/-- An engine access has its requests made, unless a regulator holds it back (R99, R101, R102). -/
def State.engPass (s : State) (slot cls : Nat) (kind : TKind) (l : List (Nat × Attr)) : Except State State :=
  s.pass (s.engTraffic slot cls kind l) true
/-- An access from `s` goes on unless a regulator holds it back. -/
def State.gate {α : Type} (s : State) (r : State × Except EStop α) : State × Except EStop α :=
  match r with
  | (t, .ok a) => match s.pass t true with
    | .ok u => (u, .ok a)
    | .error w => (w, .error .wait)
  | (t, .error e) => (t, .error e)
/-- Bytes read by an engine at `DEVICE` scope, with the traffic of a class that this makes (R99, R109). -/
def State.rawRead (s : State) (cls die slot va n : Nat) : State × Except EStop (List Byte) :=
  match s.engBytes die slot .r va n with
  | (s, .error x) => (s, .error x)
  | (s, .ok l) => (s.engTraffic slot cls .read l, .ok (l.map (fun p => s.homeByte p.2.key p.1)))
/-- An engine's read by itself. -/
def State.engRead (s : State) (cls die slot va n : Nat) : State × Except EStop (List Byte) := s.gate (s.rawRead cls die slot va n)

/-- Bytes checked for writing by an engine: their canonical addresses and attributes. -/
def State.engTargets (s : State) (die slot va : Nat) (bs : List Byte) : State × Except EStop (List (Nat × Attr × Byte)) :=
  match s.engBytes die slot .w va bs.length with
  | (s, .error x) => (s, .error x)
  | (s, .ok l) => (s, .ok ((l.zip bs).map (fun p => (p.1.1, p.1.2, p.2))))
/-- Bytes performed at home under the keys of their pages, those of one key together. -/
def State.homeScatter (s : State) (l : List (Nat × Attr × Byte)) : State :=
  ((l.map (fun p => p.2.1.key)).dedup).foldl (fun s k =>
    s.homeWrite k ((l.filter (fun p => p.2.1.key == k)).map (fun p => (p.1, p.2.2)))) s
/-- Bytes with their addresses performed at home as an engine's write of a class. -/
def State.rawPut (s : State) (slot cls : Nat) (l : List (Nat × Attr × Byte)) : State :=
  (s.engTraffic slot cls .write (l.map (fun p => (p.1, p.2.1)))).homeScatter l
/-- Bytes written by an engine at their home slices, all or none, as traffic of a class (R99, R109). -/
def State.rawWrite (s : State) (cls die slot va : Nat) (bs : List Byte) : State × Except EStop Unit :=
  match s.engTargets die slot va bs with
  | (s, .error x) => (s, .error x)
  | (s, .ok l) => (s.rawPut slot cls l, .ok ())
/-- An engine's write by itself. -/
def State.engWrite (s : State) (cls die slot va : Nat) (bs : List Byte) : State × Except EStop Unit :=
  s.gate (s.rawWrite cls die slot va bs)
/-- A word of `n` bytes in one granule read and written again by an engine at its home slice (R84, R99): its old value. -/
def State.rawUpd (s : State) (cls die slot va n : Nat) (f : W64 → W64) : State × Except EStop W64 :=
  match s.engBytes die slot .rw va n with
  | (s, .error x) => (s, .error x)
  | (s, .ok l) =>
    let old := BitVec.ofNat 64 (natOf (l.map (fun p => s.homeByte p.2.key p.1)))
    ((s.engTraffic slot cls .atom l).homeScatter ((l.zip (bytesOf n (f old).toNat)).map (fun p => (p.1.1, p.1.2, p.2))), .ok old)
/-- An engine's update by itself. -/
def State.engUpd (s : State) (cls die slot va n : Nat) (f : W64 → W64) : State × Except EStop W64 :=
  s.gate (s.rawUpd cls die slot va n f)

/-- Bytes that the reeve, the root of trust or the host reads at home by physical address, as plaintext; where degraded
operation left no storage the access is not performed and gives zero (R71, log 34). -/
def State.physRead (s : State) (a n : Nat) : List Byte :=
  (List.range n).map (fun i => let c := canon (a + i) false; if s.unbacked c then 0 else s.homeByte 0 c)
/-- Bytes written so, as exempt traffic: those without storage are lost (R71, R99). -/
def State.physWrite (s : State) (a : Nat) (bs : List Byte) : State :=
  let l := (bs.zipIdx.map (fun p => (canon (a + p.2) false, p.1))).filter (fun p => !s.unbacked p.1)
  (s.trafficks 0 3 .write ⟨0, 0, false⟩ (l.map Prod.fst)).homeWrite 0 l

/-- Memory in canonical form: bytes, key tags and poison marks list no default. -/
def State.memWf (s : State) : Bool := s.mem.wf 0 && s.burst.wf 0 && s.poison.wf false

end Sys2Proof.Machine
end

