-- ==== Sys2Proof/Machine/Num.lean ====
section
/-! DEFINITION. Number formats and rounding (R165 to R183): exact values, `round_fmt`, the tapered format M8, integer
elements, block scales, ternary and sign codes. -/

namespace Sys2Proof.Num

/-- A value: NaN, an infinity, or the exact rational ±num/den (den positive); a zero keeps its sign (R165, R166). -/
inductive XV
  | nan
  | inf (neg : Bool)
  | fin (neg : Bool) (num den : Nat)
  deriving DecidableEq, Repr

/-- The bits of `FLG` (R164). -/
abbrev Fl := BitVec 8
def flNV : Fl := 0x01
def flDZ : Fl := 0x02
def flOF : Fl := 0x04
def flUF : Fl := 0x08
def flNX : Fl := 0x10
def flIDZ : Fl := 0x20
def flIOV : Fl := 0x40
def flSAT : Fl := 0x80

/-- What a format does above its largest finite value (R170). -/
inductive Over | ieee | e5m2 | sat
  deriving DecidableEq, Repr

/-- An IEEE-style format of R165: exponent and fraction widths, bias, largest finite magnitude code, overflow rule, and
the magnitude code of its canonical NaN, if it has one. -/
structure Fmt where
  ew : Nat
  fw : Nat
  bias : Nat
  maxCode : Nat
  ovr : Over
  nanCode : Option Nat
  deriving DecidableEq, Repr

def fp32 : Fmt := ⟨8, 23, 127, 0x7F7FFFFF, .ieee, some 0x7FC00000⟩
def bf16 : Fmt := ⟨8, 7, 127, 0x7F7F, .ieee, some 0x7FC0⟩
def fp16 : Fmt := ⟨5, 10, 15, 0x7BFF, .ieee, some 0x7E00⟩
def e4m3 : Fmt := ⟨4, 3, 7, 0x7E, .sat, some 0x7F⟩
def e5m2 : Fmt := ⟨5, 2, 15, 0x7B, .e5m2, some 0x7E⟩
def e2m3 : Fmt := ⟨2, 3, 1, 0x1F, .sat, none⟩
def e3m2 : Fmt := ⟨3, 2, 3, 0x1F, .sat, none⟩
def e2m1 : Fmt := ⟨2, 1, 1, 0x7, .sat, none⟩
/-- binary64, the format of `NACC` (R318). -/
def fp64 : Fmt := ⟨11, 52, 1023, 0x7FEFFFFFFFFFFFFF, .ieee, some 0x7FF8000000000000⟩
/-- The format T_N of `SRND` (R220): FP32's exponent with N fraction bits. -/
def fpN (n : Nat) : Fmt := ⟨8, n, 127, 255 * 2 ^ n - 1, .ieee, some (255 * 2 ^ n + 2 ^ (n - 1))⟩

/-- The width of a format in bits. -/
def Fmt.bits (f : Fmt) : Nat := 1 + f.ew + f.fw
/-- The magnitude code of infinity in a format that has one. -/
def Fmt.infCode (f : Fmt) : Nat := (2 ^ f.ew - 1) * 2 ^ f.fw
/-- Whether the format has infinities (R165). -/
def Fmt.hasInf (f : Fmt) : Bool := decide (f.ovr ≠ .sat)

/-- ±m × 2^e as an exact value. -/
def mk2 (neg : Bool) (m : Nat) (e : Int) : XV :=
  if 0 ≤ e then .fin neg (m * 2 ^ e.toNat) 1 else .fin neg m (2 ^ (-e).toNat)

/-- The value of an encoding (R165). -/
def Fmt.decode (f : Fmt) (code : Nat) : XV :=
  let neg := decide (code / 2 ^ (f.ew + f.fw) % 2 = 1)
  let mag := code % 2 ^ (f.ew + f.fw)
  let e := mag / 2 ^ f.fw
  let fr := mag % 2 ^ f.fw
  if f.maxCode < mag then
    if f.hasInf && mag == f.infCode then .inf neg else .nan
  else if e = 0 then mk2 neg fr (1 - (f.bias : Int) - f.fw)
  else mk2 neg (2 ^ f.fw + fr) ((e : Int) - f.bias - f.fw)

/-- `floor(log2(num/den))` of a positive rational. -/
def floorLog2 (num den : Nat) : Int :=
  let g : Int := (Nat.log2 num : Int) - (Nat.log2 den : Int)
  let ge : Bool := if 0 ≤ g then decide (den * 2 ^ g.toNat ≤ num) else decide (den ≤ num * 2 ^ (-g).toNat)
  if ge then g else g - 1

/-- The choice between the candidates k and k+1 when the remainder is rem/div of a gap, rem nonzero (R169); `evenLo`
says that the lower candidate's encoding has bit 0 equal to 0. -/
def pickUp (m : RM) (r : W32) (neg : Bool) (rem div : Nat) (evenLo evenHi : Bool) : Bool :=
  match m with
  | .rn => if 2 * rem < div then false else if div < 2 * rem then true else (!evenLo || evenHi)
  | .rz => false
  | .ru => !neg
  | .rd => neg
  | .rs => decide (2 ^ 24 ≤ rem * 2 ^ 24 / div + r.toNat % 2 ^ 24)

/-- The sign bit in place. -/
def Fmt.signed (f : Fmt) (neg : Bool) (mag : Nat) : Nat := (if neg then 2 ^ (f.ew + f.fw) else 0) + mag

/-- `overflow(T, m, neg)` of a finite input (R170). -/
def Fmt.overflow (f : Fmt) (m : RM) (neg : Bool) : Nat × Fl :=
  match f.ovr with
  | .ieee =>
    let toInf := match m with
      | .rn => true
      | .rs => true
      | .rz => false
      | .ru => !neg
      | .rd => neg
    (f.signed neg (if toInf then f.infCode else f.maxCode), flOF ||| flNX)
  | .e5m2 => (f.signed neg f.maxCode, flSAT ||| flNX)
  | .sat => (f.signed neg f.maxCode, flSAT ||| flNX)

/-- `round_fmt` for the formats of R165 (R169, R170). -/
def Fmt.round (f : Fmt) (m : RM) (r : W32) (v : XV) : Nat × Fl :=
  match v with
  | .nan => match f.nanCode with
    | some c => (c, 0)
    | none => (0, flNV)
  | .inf neg => if f.hasInf then (f.signed neg f.infCode, 0) else (f.signed neg f.maxCode, flSAT)
  | .fin neg num den =>
    if num = 0 then (f.signed neg 0, 0)
    else
      let emin : Int := 1 - (f.bias : Int)
      let et := max (floorLog2 num den) emin
      let q : Int := et - f.fw
      let n := if 0 ≤ q then num else num * 2 ^ (-q).toNat
      let d := if 0 ≤ q then den * 2 ^ q.toNat else den
      let k := n / d
      let rem := n % d
      let base := (et - emin).toNat * 2 ^ f.fw
      let exact := rem == 0
      let k' := if exact then k
        else if pickUp m r neg rem d ((base + k) % 2 == 0) ((base + k + 1) % 2 == 0) then k + 1 else k
      let code := base + k'
      let isOver := match f.ovr with
        | .ieee => decide (f.maxCode < code)
        | _ => decide (f.maxCode < base + k) || (base + k == f.maxCode && !exact)
      if isOver then f.overflow m neg
      else
        let tiny := decide (code < 2 ^ f.fw)
        (f.signed neg code, (if exact then 0 else flNX) ||| (if !exact && tiny then flUF else 0))

/-! ### M8 (R173 to R176) -/

/-- The magnitude of an M8 payload, times 2^18. -/
def m8Mag (p : Nat) : Nat :=
  if p = 0 then 0
  else
    let z := 6 - Nat.log2 p
    let l := 6 - z
    let w := p % 2 ^ l
    let g := if z = 0 then 2 else if z ≤ 3 then 3 else if z = 4 then 2 else if z = 5 then 1 else 0
    let f := l - g
    let fr := w % 2 ^ f
    let gv := w / 2 ^ f
    let e : Int :=
      if z = 0 then (gv : Int) - 2
      else if z = 6 then -18
      else
        let hs := gv / 2 ^ (g - 1) % 2
        let vv := gv % 2 ^ (g - 1)
        let base : Nat := if z = 1 then 2 else if z = 2 then 6 else if z = 3 then 10 else if z = 4 then 14 else 16
        if hs = 0 then (base + vv : Nat) else -((base + 1 + vv : Nat) : Int)
    (2 ^ f + fr) * 2 ^ ((e + 18).toNat) / 2 ^ f

/-- The value of an M8 byte. -/
def m8Decode (code : Nat) : XV :=
  let p := code % 128
  let neg := decide (128 ≤ code % 256)
  if p = 0 then (if neg then .nan else .fin false 0 1) else .fin neg (m8Mag p) (2 ^ 18)

/-- The payload with the largest magnitude not above n/d, magnitudes in units of 2^-18. -/
def m8Lo (n d : Nat) : Nat :=
  (List.range 128).foldl (fun best p => if m8Mag p * d ≤ n && decide (m8Mag best ≤ m8Mag p) then p else best) 0
/-- The payload with the smallest magnitude not below n/d; 2 (2^16) bounds every one. -/
def m8Hi (n d : Nat) : Nat :=
  (List.range 128).foldl (fun best p => if n ≤ m8Mag p * d && decide (m8Mag p ≤ m8Mag best) then p else best) 2

def m8Round (m : RM) (r : W32) (v : XV) : Nat × Fl :=
  let sg := fun (neg : Bool) (p : Nat) => if p = 0 then 0 else (if neg then 128 else 0) + p
  match v with
  | .nan => (0x80, 0)
  | .inf neg => (sg neg 2, flSAT)
  | .fin neg num den =>
    let n := num * 2 ^ 18
    if m8Mag 2 * den < n then (sg neg 2, flSAT ||| flNX)
    else
      let lo := m8Lo n den
      let hi := m8Hi n den
      let exact := decide (m8Mag lo * den = n)
      let q := if exact then lo
        else
          let rem := n - m8Mag lo * den
          let div := (m8Mag hi - m8Mag lo) * den
          let up := match m with
            | .rn => if 2 * rem < div then false else if div < 2 * rem then true
              else if lo % 2 = 0 && hi % 2 = 1 then false else true
            | _ => pickUp m r neg rem div true true
          if up then hi else lo
      (sg neg q, (if exact then 0 else flNX) ||| (if !exact && q == 0 then flUF else 0))

/-! ### Integer elements (R172) -/

/-- Round a magnitude to an integer under the lo/hi rule, ties to even; the second component is inexactness. -/
def roundMag (m : RM) (r : W32) (neg : Bool) (num den : Nat) : Nat × Bool :=
  let k := num / den
  let rem := num % den
  if rem = 0 then (k, false)
  else (if pickUp m r neg rem den (k % 2 == 0) (k % 2 == 1) then k + 1 else k, true)

/-- Conversion to a two's-complement integer of range [lo, hi]: the integer and its flags (R172, R218). -/
def toInt (m : RM) (r : W32) (lo hi : Int) (v : XV) : Int × Fl :=
  match v with
  | .nan => (0, flNV)
  | .inf neg => (if neg then lo else hi, flSAT ||| flNX)
  | .fin neg num den =>
    let (k, ix) := roundMag m r neg num den
    let i : Int := if neg then -(k : Int) else k
    let c := satI i lo hi
    (c, (if ix then flNX else 0) ||| (if c ≠ i then flSAT ||| flNX else 0))

def ofInt (i : Int) : XV := .fin (decide (i < 0)) i.natAbs 1

/-! ### Exact arithmetic -/

def XV.isNan : XV → Bool | .nan => true | _ => false
def XV.isZero : XV → Bool | .fin _ n _ => n == 0 | _ => false
def XV.neg : XV → Bool | .nan => false | .inf s => s | .fin s _ _ => s
def XV.finite : XV → Bool | .fin .. => true | _ => false
def XV.flip : XV → XV
  | .nan => .nan
  | .inf s => .inf (!s)
  | .fin s n d => .fin (!s) n d
def XV.abs : XV → XV
  | .nan => .nan
  | .inf _ => .inf false
  | .fin _ n d => .fin false n d
/-- The signed numerator. -/
def sgnI (neg : Bool) (n : Nat) : Int := if neg then -(n : Int) else n

/-- Exact sum; the flag is `NV` for opposite infinities (R202, R203). `down` is mode `rd`. -/
def add (down : Bool) (x y : XV) : XV × Fl :=
  match x, y with
  | .nan, _ => (.nan, 0)
  | _, .nan => (.nan, 0)
  | .inf s, .inf t => if s = t then (.inf s, 0) else (.nan, flNV)
  | .inf s, _ => (.inf s, 0)
  | _, .inf t => (.inf t, 0)
  | .fin s n d, .fin t k e =>
    let v := sgnI s (n * e) + sgnI t (k * d)
    if v = 0 then (.fin (if s = t then s else down) 0 1, 0)
    else (.fin (decide (v < 0)) v.natAbs (d * e), 0)

/-- Exact product; `NV` for 0 × ∞. -/
def mul (x y : XV) : XV × Fl :=
  match x, y with
  | .nan, _ => (.nan, 0)
  | _, .nan => (.nan, 0)
  | .inf s, .inf t => (.inf (s != t), 0)
  | .inf s, .fin t k _ => if k = 0 then (.nan, flNV) else (.inf (s != t), 0)
  | .fin s n _, .inf t => if n = 0 then (.nan, flNV) else (.inf (s != t), 0)
  | .fin s n d, .fin t k e => (.fin (s != t) (n * k) (d * e), 0)

/-- Exact x × y + z. 0 × ∞ is invalid whatever z is (R203). -/
def fma (down : Bool) (x y z : XV) : XV × Fl :=
  let (p, f) := mul x y
  if f ≠ 0 then (.nan, f)
  else
    let (v, g) := add down p z
    (v, f ||| g)

/-- Exact quotient with `DZ` and `NV` (R208). -/
def div (x y : XV) : XV × Fl :=
  match x, y with
  | .nan, _ => (.nan, 0)
  | _, .nan => (.nan, 0)
  | .inf _, .inf _ => (.nan, flNV)
  | .inf s, .fin t _ _ => (.inf (s != t), 0)
  | .fin s _ _, .inf t => (.fin (s != t) 0 1, 0)
  | .fin s n d, .fin t k e =>
    if k = 0 then (if n = 0 then (.nan, flNV) else (.inf (s != t), flDZ))
    else (.fin (s != t) (n * e) (d * k), 0)

/-- Integer square root, bit by bit from bit `fuel - 1` of the root. -/
def isqrtAux : Nat → Nat → Nat → Nat
  | 0, _, acc => acc
  | fuel + 1, n, acc =>
    let t := acc + 2 ^ fuel
    isqrtAux fuel n (if t * t ≤ n then t else acc)
def isqrt (n : Nat) : Nat := isqrtAux (Nat.log2 n / 2 + 1) n 0

/-- The square root, exact, or a value strictly between the same two neighbours of a grid far finer than FP32 (R208). -/
def sqrt (x : XV) : XV × Fl :=
  match x with
  | .nan => (.nan, 0)
  | .inf s => if s then (.nan, flNV) else (.inf false, 0)
  | .fin s n d =>
    if n = 0 then (.fin s 0 1, 0)
    else if s then (.nan, flNV)
    else
      let t := n * d * 4 ^ 40
      let r := isqrt t
      if r * r = t then (.fin false r (d * 2 ^ 40), 0) else (.fin false (2 * r + 1) (2 * d * 2 ^ 40), 0)

/-- Order of two non-NaN values, −0 equal to +0. -/
def lt (x y : XV) : Bool :=
  match x, y with
  | .nan, _ => false
  | _, .nan => false
  | .inf s, .inf t => s && !t
  | .inf s, _ => s
  | _, .inf t => !t
  | .fin s n d, .fin t k e => decide (sgnI s (n * e) < sgnI t (k * d))
/-- Numerical equality of non-NaN values. -/
def eq (x y : XV) : Bool := !x.isNan && !y.isNan && !lt x y && !lt y x

/-! ### Format codes (R179) -/

/-- The IEEE-style formats by code. -/
def fmtOf (code : Nat) : Option Fmt :=
  match code with
  | 0 => some fp32 | 1 => some bf16 | 2 => some fp16 | 3 => some e4m3 | 4 => some e5m2
  | 6 => some e2m3 | 7 => some e3m2 | 8 => some e2m1 | _ => none
/-- Bits of an element. -/
def elemBits (code : Nat) : Nat :=
  match code with
  | 0 => 32 | 1 => 16 | 2 => 16 | 3 => 8 | 4 => 8 | 5 => 8 | 6 => 6 | 7 => 6 | 8 => 4 | 9 => 8 | 10 => 4 | _ => 0
/-- The value of an element of a format code; `blk` selects the block-scale reading of INT8 and INT4 (R172). -/
def decodeCode (code : Nat) (blk : Bool) (c : Nat) : XV :=
  match code with
  | 5 => m8Decode c
  | 9 => let i := sextN c 8
    .fin (decide (i < 0)) i.natAbs (if blk then 64 else 1)
  | 10 => let i := sextN c 4
    .fin (decide (i < 0)) i.natAbs (if blk then 4 else 1)
  | _ => match fmtOf code with
    | some f => f.decode c
    | none => .nan
/-- Multiply by 2^e exactly. -/
def scale2 (v : XV) (e : Int) : XV :=
  match v with
  | .fin s n d => if 0 ≤ e then .fin s (n * 2 ^ e.toNat) d else .fin s n (d * 2 ^ (-e).toNat)
  | _ => v
/-- `round_fmt` into a two's-complement element of n bits: as `toInt`, and `UF` marks a zero from a nonzero value (R169, R172). -/
def intElem (n : Nat) (m : RM) (r : W32) (v : XV) : Nat × Fl :=
  let (i, f) := toInt m r (-(2 ^ (n - 1) : Nat)) ((2 ^ (n - 1) : Nat) - 1) v
  (wrapN i n, f ||| (if i = 0 ∧ v.finite = true ∧ v.isZero = false then flUF else 0))
/-- `round_fmt` by format code, INT8 and INT4 by the reading given (R169, R172). -/
def roundCode (code : Nat) (blk : Bool) (m : RM) (r : W32) (v : XV) : Nat × Fl :=
  match code with
  | 5 => m8Round m r v
  | 9 => intElem 8 m r (if blk then scale2 v 6 else v)
  | 10 => intElem 4 m r (if blk then scale2 v 2 else v)
  | _ => match fmtOf code with
    | some f => f.round m r v
    | none => (0, 0)

/-! ### FP32 words -/

def dec32 (w : W32) : XV := fp32.decode w.toNat
/-- `round_fp32` (R9). -/
def rnd32 (m : RM) (v : XV) : W32 × Fl :=
  let (c, f) := fp32.round m 0 v
  (BitVec.ofNat 32 c, f)
def subnormal (f : Fmt) (code : Nat) : Bool :=
  let mag := code % 2 ^ (f.ew + f.fw)
  decide (0 < mag) && decide (mag < 2 ^ f.fw)
/-- Input flushing under `.ftz` (R167). -/
def flushIn (f : Fmt) (ftz : Bool) (code : Nat) : Nat :=
  if ftz && subnormal f code then code / 2 ^ (f.ew + f.fw) % 2 * 2 ^ (f.ew + f.fw) else code
/-- Result flushing under `.ftz` (R167). -/
def flushOut (f : Fmt) (ftz : Bool) (cf : Nat × Fl) : Nat × Fl :=
  if ftz && subnormal f cf.1 then (cf.1 / 2 ^ (f.ew + f.fw) % 2 * 2 ^ (f.ew + f.fw), cf.2 ||| flUF ||| flNX) else cf

/-- A two-operand operation in one format with `.ftz` (R202, R209). -/
def op2 (f : Fmt) (m : RM) (ftz : Bool) (g : XV → XV → XV × Fl) (a b : Nat) : Nat × Fl :=
  let (v, nv) := g (f.decode (flushIn f ftz a)) (f.decode (flushIn f ftz b))
  let (c, fl) := flushOut f ftz (f.round m 0 v)
  (c, fl ||| nv)
def op3 (f : Fmt) (m : RM) (ftz : Bool) (g : XV → XV → XV → XV × Fl) (a b c : Nat) : Nat × Fl :=
  let (v, nv) := g (f.decode (flushIn f ftz a)) (f.decode (flushIn f ftz b)) (f.decode (flushIn f ftz c))
  let (r, fl) := flushOut f ftz (f.round m 0 v)
  (r, fl ||| nv)

/-- minimumNumber and maximumNumber (R204): −0 below +0, one NaN gives the other operand. -/
def minmax (f : Fmt) (max' ftz : Bool) (a b : Nat) : Nat :=
  let a' := flushIn f ftz a
  let b' := flushIn f ftz b
  let x := f.decode a'
  let y := f.decode b'
  match x.isNan, y.isNan with
  | true, true => f.nanCode.getD 0
  | true, false => b'
  | false, true => a'
  | false, false =>
    let aLess := lt x y || (eq x y && x.neg && !y.neg)
    if aLess = max' then b' else a'

/-! ### Block scales (R177, R178) -/

def emax (code : Nat) : Int :=
  match code with | 3 => 8 | 4 => 15 | 6 => 2 | 7 => 4 | 8 => 2 | _ => 0

/-- The larger of two magnitudes. -/
def maxMag (x y : XV) : XV := if lt x.abs y.abs then y.abs else x.abs

/-- The E8M0 scale code of a block (R178). -/
def blockScale (code : Nat) (xs : List XV) : Nat :=
  if xs.any (fun x => !x.finite) then 0xFF
  else match xs.foldl maxMag (.fin false 0 1) with
    | .fin _ n d => if n = 0 then 0x7F else (satI (floorLog2 n d - emax code + 127) 0 254).toNat
    | _ => 0xFF
/-- One element's code and flags under a block scale (R178). -/
def blockElem (code scale : Nat) (m : RM) (r : W32) (v : XV) : Nat × Fl :=
  if scale = 0xFF then (0, if v.finite then 0 else flNV)
  else roundCode code true m r (scale2 v (127 - (scale : Int)))

/-- The value of an E8M0 scale times an element (R177). -/
def scaled (scale : Nat) (v : XV) : XV := if scale = 0xFF then .nan else scale2 v ((scale : Int) - 127)

/-! ### Ternary and sign codes (R181 to R183) -/

/-- The BF16 scale of a ternary or sign block. -/
def ternScale (xs : List W32) : Nat :=
  if xs.any (fun x => !(dec32 x).finite) then 0x7FC0
  else
    let acc := xs.foldl (fun acc x => (rnd32 .rn (add false (dec32 acc) (dec32 x).abs).1).1) 0
    match dec32 acc with
    | .fin s n d => (bf16.round .rn 0 (dec32 (rnd32 .rn (.fin s n (d * xs.length))).1)).1
    | _ => 0x7FC0
/-- The code, −1, 0 or 1, of one element. -/
def ternCode (sign : Bool) (s : Nat) (x : W32) : Int :=
  if s = 0x7FC0 then 0
  else if sign then (if lt (dec32 x) (.fin false 0 1) then -1 else 1)
  else match bf16.decode s, dec32 x with
    | .fin _ k e, .fin t n d =>
      if k = 0 then 0
      else match dec32 (rnd32 .rn (.fin t (n * e) (d * k))).1 with
        | .fin u a b => satI (sgnI u (roundMag .rn 0 u a b).1) (-1) 1
        | .inf u => if u then -1 else 1
        | .nan => 0
    | _, _ => 0
/-- s × code as an FP32 word (R183); a NaN scale gives the canonical NaN. -/
def ternValue (s : Nat) (c : Int) : W32 :=
  match bf16.decode s with
  | .nan => 0x7FC00000
  | v => if c = 0 then 0 else
    let w : W32 := BitVec.ofNat 32 ((fp32.round .rn 0 v).1)
    if c < 0 then w ^^^ 0x80000000 else w
/-- Bytes of codes of one block (R182). -/
def ternBytes (sign : Bool) (bl : Nat) : Nat :=
  if sign then bl / 8 else if bl = 16 then 4 else if bl = 32 then 7 else 13
/-- Pack a block's codes (R182). -/
def ternPack (sign : Bool) (bl : Nat) (cs : List Int) : List Byte :=
  (List.range (ternBytes sign bl)).map (fun j =>
    if sign then BitVec.ofNat 8 ((List.range 8).foldl (fun a k => a + (if cs.getD (8 * j + k) 1 < 0 then 2 ^ k else 0)) 0)
    else BitVec.ofNat 8 ((List.range 5).foldl (fun a k => a + (cs.getD (5 * j + k) 0 + 1).toNat * 3 ^ k) 0))
/-- Code i of a packed byte (R182); `none` for a ternary byte from 243 to 255. -/
def ternUnpack (sign : Bool) (b : Byte) (k : Nat) : Option Int :=
  if sign then some (if b.getLsbD k then -1 else 1)
  else if 243 ≤ b.toNat then none
  else some (((b.toNat / 3 ^ k % 3 : Nat) : Int) - 1)

end Sys2Proof.Num
end

