-- ==== Sys2Proof/Machine/Flags.lean ====
section
/-! DEFINITION. The flag register `FLG` (R164): how results set its bits, and the integer overflow flag (R189). -/

namespace Sys2Proof.Machine

/-- A flag set of `FLG`. -/
abbrev Fl := BitVec 8

/-- The flags a word sets in a lane: none under `Q` = 1 (R164). Flags are sticky: they are ORed in (`RegWrite.flg`). -/
def flagWrite (q : Bool) (lane : Nat) (f : Fl) : List RegWrite := if q || f == 0 then [] else [.flg lane f]

/-- `IOV` when an exact integer lies outside its type (R189). -/
def ovFlag (signed : Bool) (bits : Nat) (v : Int) : Fl :=
  let lo : Int := if signed then -(2 ^ (bits - 1) : Nat) else 0
  let hi : Int := if signed then (2 ^ (bits - 1) : Nat) - 1 else (2 ^ bits : Nat) - 1
  if v < lo ∨ hi < v then Num.flIOV else 0

end Sys2Proof.Machine
end

