-- ==== Sys2Proof/Machine/Operands.lean ====
section
/-! DEFINITION. Reading and writing the registers of a group, in every operand form (R29, R30, R31, R33, R156, R158). -/

namespace Sys2Proof.Machine

/-- The lanes of a set, ascending. -/
def laneList (m : Lanes) : List Nat := (List.range 64).filter (fun l => m.getLsbD l)
/-- The lowest lane of a set. -/
def lowLane (m : Lanes) : Nat := ((laneList m).head?).getD 0
/-- One lane's bit. -/
def laneBit (l : Nat) : Lanes := 1#64 <<< l
/-- The set of the lanes of a list. -/
def lanesOf (ls : List Nat) : Lanes := ls.foldl (fun m l => m ||| laneBit l) 0
/-- All lanes of a width. -/
def allLanes (w : Nat) : Lanes := BitVec.ofNat 64 (2 ^ w - 1)

/-- `Vn` of a lane; `VZ` reads zero (R33). -/
def Group.getV (g : Group) (n lane : Nat) : W32 := if n = 255 then 0 else g.v.get 0 (64 * n + lane)
/-- The pair `Vn:Vn+1` of a lane (R158). -/
def Group.getV64 (g : Group) (n lane : Nat) : W64 := (g.getV (n + 1) lane) ++ (g.getV n lane)
/-- `Sn`; `SZ` reads zero (R33). -/
def Group.getS (g : Group) (n : Nat) : W64 := if n = 63 then 0 else g.s.get 0 n
/-- `Pn` in every lane; `P7` reads true (R33). -/
def Group.getP (g : Group) (n : Nat) : Lanes := if n = 7 then BitVec.allOnes 64 else g.p.get 0 n
/-- `Dn`. -/
def Group.getD (g : Group) (n : Nat) : W128 := g.d.get 0 n
/-- `FLG` of a lane. -/
def Group.getFlg (g : Group) (lane : Nat) : Fl := g.flg.get 0 lane

/-- Writes; those to `VZ`, `SZ` and `P7` are discarded (R33). -/
def Group.setV (g : Group) (n lane : Nat) (x : W32) : Group :=
  if n = 255 then g else { g with v := g.v.set 0 (64 * n + lane) x }
def Group.setS (g : Group) (n : Nat) (x : W64) : Group := if n = 63 then g else { g with s := g.s.set 0 n x }
def Group.setPm (g : Group) (n : Nat) (m : Lanes) : Group := if n = 7 then g else { g with p := g.p.set 0 n m }
def Group.setP (g : Group) (n lane : Nat) (b : Bool) : Group :=
  g.setPm n (if b then g.getP n ||| laneBit lane else g.getP n &&& ~~~ laneBit lane)
def Group.setD (g : Group) (n : Nat) (x : W128) : Group := { g with d := g.d.set 0 n x }
def Group.orFlg (g : Group) (lane : Nat) (f : Fl) : Group := { g with flg := g.flg.set 0 lane (g.getFlg lane ||| f) }

/-- One result written. -/
def Group.write (g : Group) : RegWrite → Group
  | .v n lane x => g.setV n lane x
  | .s n x => g.setS n x
  | .p n lane b => g.setP n lane b
  | .d n x => g.setD n x
  | .flg lane f => g.orFlg lane f
/-- Results written in order. -/
def Group.writes (g : Group) (ws : List RegWrite) : Group := ws.foldl Group.write g

/-- The lanes whose guard is true (R29). -/
def Group.guard (g : Group) (pg : PReg) (pn : Bool) : Lanes := if pn then ~~~ g.getP pg.toNat else g.getP pg.toNat

/-- A 32- or 64-bit source of a lane, zero-extended: a scalar register (under `K`, or `SB` for B) or vector registers (R30,
R158). -/
def Group.src (g : Group) (scalar wide : Bool) (r : Reg) (lane : Nat) : W64 :=
  if scalar then
    if wide then g.getS r.toNat else ((g.getS r.toNat).setWidth 32).setWidth 64
  else if wide then g.getV64 r.toNat lane
  else (g.getV r.toNat lane).setWidth 64
/-- A 32-bit source of a lane. -/
def Group.src32 (g : Group) (scalar : Bool) (r : Reg) (lane : Nat) : W32 := (g.src scalar false r lane).setWidth 32
/-- A scalar source. -/
def Group.srcS (g : Group) (r : SReg) : W64 := g.getS r.toNat

/-- The writes of a 32- or 64-bit result: an `S` register zero-extended under `K`, else vector registers (R158). -/
def destW (scalar wide : Bool) (d : Reg) (lane : Nat) (x : W64) : List RegWrite :=
  if scalar then [.s d.toNat (if wide then x else (x.setWidth 32).setWidth 64)]
  else if wide then [.v d.toNat lane (x.setWidth 32), .v (d.toNat + 1) lane ((x >>> 32).setWidth 32)]
  else [.v d.toNat lane (x.setWidth 32)]
def dest32 (scalar : Bool) (d : Reg) (lane : Nat) (x : W32) : List RegWrite := destW scalar false d lane (x.setWidth 64)

/-- The results of a word that acts in lanes: `f` gives a lane's writes and flags. Under `K` it acts once, if any lane
participates, and its flags go to every participating lane (R31, R185). -/
def laneWork (k : Bool) (q : Bool) (act : Lanes) (f : Nat → List RegWrite × Fl) : List RegWrite :=
  if k then
    match (laneList act).head? with
    | none => []
    | some l => (f l).1 ++ (laneList act).flatMap (fun i => flagWrite q i (f l).2)
  else (laneList act).flatMap (fun l => (f l).1 ++ flagWrite q l (f l).2)

end Sys2Proof.Machine
end

