-- ==== Sys2Proof/Machine/Splits.lean ====
section
/-! DEFINITION. Splits and the rejoin stack (R341 to R348): the operations on a group that control instructions use. -/

namespace Sys2Proof.Machine

def Group.split? (g : Group) (i : Nat) : Option Split := g.splits.find? (fun x => x.idx == i)
def Group.putSplit (g : Group) (sp : Split) : Group :=
  { g with splits := g.splits.map (fun x => if x.idx = sp.idx then sp else x) }
def Group.dropSplit (g : Group) (i : Nat) : Group := { g with splits := g.splits.filter (fun x => x.idx != i) }
/-- Move a split to the back of the queue (R342). -/
def Group.toBack (g : Group) (i : Nat) : Group :=
  { g with splits := g.splits.filter (fun x => x.idx != i) ++ g.splits.filter (fun x => x.idx == i) }
/-- Splits that a result has demoted go behind their siblings (R343). -/
def Group.demoteNow (g : Group) : Group :=
  (g.splits.filter (fun x => x.demote)).foldl (fun g x => (g.putSplit { x with demote := false }).toBack x.idx) g
/-- The lowest free split index (R341). -/
def Group.freeIdx (g : Group) : Option Nat := (List.range 4).find? (fun i => (g.split? i).isNone)
/-- Every lane that has not exited: in a split, arrived, or parked (R341, R348). -/
def Group.lanesLeft (g : Group) : Lanes :=
  g.stack.foldl (fun m r => m ||| r.arr ||| r.pkmask) (g.splits.foldl (fun m x => m ||| x.mask) 0)

/-- The results still outstanding. -/
def Group.outstanding (g : Group) : List Nat := g.pend.map (·.id)
/-- The index that results and reductions of a split bear once another split has taken its own. -/
def goneSplit : Nat := 4
def FifoE.disown (i : Nat) : FifoE → FifoE
  | .red o w64 sc w v ls => .red o w64 sc (if w.split = i then { w with split := goneSplit } else w) v ls
  | .signal sc k w v x => .signal sc k (if w.split = i then { w with split := goneSplit } else w) v x
  | e => e
/-- What is outstanding of a split that has ended is no longer that of its index: it demotes no split (R343). -/
def Group.disown (g : Group) (i : Nat) : Group :=
  { g with
    pend := g.pend.map (fun p => if p.split = i then { p with split := goneSplit, demote := false } else p)
    fifo := g.fifo.map (FifoE.disown i) }
/-- A new split at the back of the queue; its first word waits for the results outstanding now (R48). -/
def Group.newSplit (g : Group) (i : Nat) (pc : W64) (mask : Lanes) : Group :=
  { g.disown i with splits := g.splits ++ [⟨i, pc, mask, .ready, false, [], g.outstanding⟩] }
/-- Close a split's windows (R48). -/
def Split.closeWins (sp : Split) : Split :=
  { sp with wins := [], holdFor := (sp.holdFor ++ sp.wins.map (·.id)).dedup }

/-- The chain of a lane, from the top down (R345). -/
def Group.chain (g : Group) (lane : Nat) : List Rec := g.stack.filter (fun r => r.mask.getLsbD lane)

/-- Park a path on the first record of a lane's chain with a free park (R346); none where there is none. -/
def parkOn (pc : W64) (mask : Lanes) (lane : Nat) : List Rec → Option (List Rec)
  | [] => none
  | r :: rs =>
    if r.mask.getLsbD lane && r.pkmask == 0 then some ({ r with pkpc := pc, pkmask := mask } :: rs)
    else (parkOn pc mask lane rs).map (r :: ·)

/-- A path becomes a new split, or is parked on the chain of a lane (R346). -/
def Group.addPath (g : Group) (pc : W64) (mask : Lanes) (lane : Nat) : Option Group :=
  match g.freeIdx with
  | some i => some (g.newSplit i pc mask)
  | none => (parkOn pc mask lane g.stack).map (fun st => { g with stack := st })

/-- A record stands while lanes are in it; one that still holds a parked path stands until the path leaves (log 20). -/
def Rec.stands (r : Rec) : Bool := r.mask != 0 || r.pkmask != 0
/-- Lanes leave the records of a list; records left empty are removed (R345, R347). -/
def leaveRecs (m : Lanes) (rs : List Rec) : List Rec :=
  (rs.map (fun r => { r with mask := r.mask &&& ~~~ m, arr := r.arr &&& ~~~ m })).filter Rec.stands

/-- A record is releasable when every lane of it has arrived (R345), and never while it holds a parked path (R346). -/
def Rec.releasable (r : Rec) : Bool := r.arr == r.mask && r.mask != 0 && r.pkmask == 0

/-- Release every releasable record, topmost first (R347); none where a park is missing. -/
def Group.releaseAll : Nat → Group → Option Group
  | 0, g => some g
  | n + 1, g =>
    match g.stack.findIdx? (fun r => r.releasable) with
    | none => some g
    | some i =>
      match g.stack[i]? with
      | none => some g
      | some r =>
        let g' := { g with stack := leaveRecs r.mask (g.stack.take i) ++ g.stack.drop (i + 1) }
        match g'.addPath (r.rejpc + 8) r.mask (lowLane r.mask) with
        | none => none
        | some g'' => Group.releaseAll n g''

/-- Clear the park of the topmost record that holds one, giving its path. -/
def takePark : List Rec → Option (W64 × Lanes × List Rec)
  | [] => none
  | r :: rs =>
    if r.pkmask ≠ 0 then
      some (r.pkpc, r.pkmask, if r.mask = 0 then rs else { r with pkpc := 0, pkmask := 0 } :: rs)
    else (takePark rs).map (fun x => (x.1, x.2.1, r :: x.2.2))
/-- Parked paths take the split slots that have freed (R346). -/
def Group.resumeParked : Nat → Group → Group
  | 0, g => g
  | n + 1, g =>
    match g.freeIdx, takePark g.stack with
    | some i, some (pc, m, st) => Group.resumeParked n ({ g with stack := st }.newSplit i pc m)
    | _, _ => g

/-- Two paths divide a split: the one with the lowest active lane continues in it (R346). An empty path is dropped. The split
has moved to the back of the queue before a new one joins it there (R342). -/
def Group.divide (g : Group) (sp : Split) (a b : W64 × Lanes) : Option Group :=
  let sp := sp.closeWins
  if a.2 = 0 then some (g.putSplit { sp with pc := b.1 })
  else if b.2 = 0 then some (g.putSplit { sp with pc := a.1 })
  else
    let (c, o) := if a.2.getLsbD (lowLane sp.mask) then (a, b) else (b, a)
    ((g.toBack sp.idx).putSplit { sp with pc := c.1, mask := c.2, demote := false }).addPath o.1 o.2 (lowLane c.2)

/-- The fault of a control instruction that cannot take effect (R346 to R348). -/
inductive RejFault | overflow | deadlock
  deriving DecidableEq, Repr

/-- Releases, then parked paths that have room, and again while a record that a path has left is now releasable (R346, R347);
none where a park is missing. -/
def Group.releases : Nat → Group → Option Group
  | 0, g => some g
  | n + 1, g =>
    match g.releaseAll 33 with
    | none => none
    | some g =>
      let g := g.resumeParked 4
      if g.stack.any Rec.releasable then Group.releases n g else some g
/-- The end of an instruction that changed the records: releases and parked paths, then the deadlock test (R347, R348). -/
def Group.settle (g : Group) : Except RejFault Group :=
  match g.releases 33 with
  | none => .error .overflow
  | some g => if g.splits.isEmpty && g.lanesLeft != 0 then .error .deadlock else .ok g

/-- `JOIN` (R347). -/
def Group.join (g : Group) (sp : Split) : Except RejFault Group :=
  let lane := lowLane sp.mask
  let here (r : Rec) : Bool := r.mask.getLsbD lane && r.rejpc == sp.pc
  match g.stack.findIdx? here with
  | none => .ok (g.putSplit { sp.closeWins with pc := sp.pc + 8 })
  | some i =>
    let st := g.stack.zipIdx.map (fun p => if p.2 = i then { p.1 with arr := p.1.arr ||| sp.mask } else p.1)
    ({ g with stack := st }.dropSplit sp.idx).settle

/-- `EXIT` of a set of lanes (R356). What is left of a split has moved to the back of the queue (R342). -/
def Group.exitLanes (g : Group) (sp : Split) (m : Lanes) : Except RejFault Group :=
  if m = 0 then .ok (g.putSplit { sp.closeWins with pc := sp.pc + 8 })
  else
    let g := { g with stack := leaveRecs m g.stack }
    let rest := sp.mask &&& ~~~ m
    (if rest = 0 then g.dropSplit sp.idx
      else (g.toBack sp.idx).putSplit { sp.closeWins with pc := sp.pc + 8, mask := rest, demote := false }).settle

/-- A branch of the mould of R350: `P` to `T`, the rest to the other address. `n` records are left by `P` (`BRK`), and `push`
is a record to push first (`BRAD`). -/
def Group.branch (g : Group) (sp : Split) (push : Option Rec) (n : Nat) (p : W64 × Lanes) (o : W64 × Lanes) :
    Except RejFault Group :=
  let g := match push with
    | some r => { g with stack := r :: g.stack }
    | none => g
  let g :=
    if n = 0 then g
    else
      let inner := ((g.stack.zipIdx.filter (fun x => x.1.mask.getLsbD (lowLane sp.mask))).take n).map (·.2)
      { g with stack := (g.stack.zipIdx.map (fun x =>
          if inner.contains x.2 then { x.1 with mask := x.1.mask &&& ~~~ p.2, arr := x.1.arr &&& ~~~ p.2 }
          else x.1)).filter Rec.stands }
  match g.divide sp p o with
  | none => .error .overflow
  | some g => g.settle

end Sys2Proof.Machine
end

