-- ==== Sys2Proof/Machine/Units.lean ====
section
/-! DEFINITION. Shared operations of the units around a group: lookups, releases and acquires, trace records (R426 to R428),
event records (R391), phasers (R358 to R362), troughs (R403 to R405), quiescent points (R370, R371), drains (R369), the
rendezvous latch (R250), and the ends of groups, teams and grids (R356, R398). -/

namespace Sys2Proof.Machine

-- ## Lookups

def State.grp (s : State) (gid : Nat) : Option Group := s.groups.find? gid
def State.setGrp (s : State) (gid : Nat) (g : Group) : State := { s with groups := s.groups.insert gid g }
def State.updGrp (s : State) (gid : Nat) (f : Group → Group) : State := { s with groups := s.groups.adjust gid f }
def State.team (s : State) (tid : Nat) : Option Team := s.teams.find? tid
def State.setTeam (s : State) (tid : Nat) (t : Team) : State := { s with teams := s.teams.insert tid t }
def State.updTeam (s : State) (tid : Nat) (f : Team → Team) : State := { s with teams := s.teams.adjust tid f }
def State.grid (s : State) (k : Nat) : Option Grid := s.grids.find? k
/-- The groups of a team. -/
def State.teamGroups (s : State) (tid : Nat) : List Nat := (s.groups.keep (fun _ g => g.tid == tid)).map Prod.fst
/-- The groups of a context slot. -/
def State.ctxGroups (s : State) (slot : Nat) : List Nat := (s.groups.keep (fun _ g => g.ctx == slot)).map Prod.fst
/-- The resident group of a team by its index. -/
def State.groupOf (s : State) (tid gi : Nat) : Option Nat :=
  ((s.groups.keep (fun _ g => g.tid == tid && g.gi == gi)).head?).map Prod.fst
/-- A partition's number: core, slot, partition in the slot (R18). -/
def partNo (core slot part : Nat) : Nat := core * 16 + slot * 4 + part
def Group.partNo (g : Group) : Nat := Machine.partNo g.core g.slot g.part
def State.part (s : State) (p : Nat) : PartSt := s.parts.get PartSt.init p
def State.setPart (s : State) (p : Nat) (x : PartSt) : State := { s with parts := s.parts.set PartSt.init p x }
/-- Change a group wherever it is, resident or swapped out (R419). -/
def State.updAny (s : State) (gid : Nat) (f : Group → Group) : State :=
  match s.grp gid with
  | some g => s.setGrp gid (f g)
  | none => { s with saved := s.saved.mapV (fun t => { t with groups := t.groups.adjust gid f }) }
/-- A fresh number. -/
def State.fresh (s : State) : Nat × State := (s.nextId, { s with nextId := s.nextId + 1 })

/-- A checkpoint's pause is in force (R447). -/
def State.paused (s : State) : Bool := match s.ckpt with
  | some c => !c.streaming
  | none => false
/-- A fabric processor held by the pause: it goes on only while stored residuals are still to be counted (R304, R325). -/
def State.fxHeld (s : State) (p : Nat) : Bool := s.paused && !(s.fxs.get FxSt.init p).owes

-- ## Release and acquire of a group (R132, R133, R144)

/-- Nothing of the group's stores is on its way (R144). -/
def Group.drained (g : Group) : Bool := g.fifo.isEmpty && g.cc == 0
/-- Remote commands of a group that a `SYSTEM` release waits for: those not held by a trigger (R282). -/
def State.remoteOpen (s : State) (gid : Nat) : Bool :=
  s.remotes.any (fun e => e.2.gid == gid && (e.2.trig.isNone || e.2.sent))
/-- A release at a scope may complete (R144, R282). -/
def State.relReady (s : State) (gid : Nat) (g : Group) (sc : Scope) : Bool :=
  g.drained && (sc != .system || !s.remoteOpen gid)
def State.release (s : State) (g : Group) (sc : Scope) : State := s.l1Release g.core g.ctx sc
def State.acquire (s : State) (g : Group) (sc : Scope) : State := s.acquireAt g.core g.ctx sc
/-- The acquire of what engines have written (R254, R336): the group's later reads find those sectors neither in its L1, but
for dirty bytes, nor in its cluster cache. -/
def State.acquireWrote (s : State) (g : Group) (w : Wrote) : State :=
  if w.all then s.acquire g .device
  else
    let c := s.core g.core
    let drop (line : Nat) (valid : BitVec 4) : BitVec 4 := (w.secs.filter (fun x => x / 4 == line)).foldl (fun m x => m &&& ~~~ (1#4 <<< (x % 4))) valid
    let s := s.setCore g.core { c with lines := (c.lines.map (fun l =>
      if l.slot = g.ctx then { l with valid := drop l.line l.valid }.settle else l)).filter (fun l => !l.empty) }
    let k := s.clus (g.core / 16)
    s.setClus (g.core / 16) { k with lines := (k.lines.map (fun l =>
      if l.slot = g.ctx then { l with valid := drop l.line l.valid } else l)).filter (fun l => l.valid != 0) }

-- ## Trace records (R426 to R428)

/-- A trace record of a group (R425, R426). -/
def State.traceRec (s : State) (g : Group) (idx kind : Nat) (pc : W64) (seq : W32) (arg arg1 : Nat) : TraceRec :=
  let ti := match s.team g.tid with
    | some t => t.idx
    | none => 0
  ⟨BitVec.ofNat 64 (ti % 2 ^ 32 * 2 ^ 32 + g.core * 2 ^ 20 + g.gi * 2 ^ 16 + idx * 2 ^ 14 + g.ctx * 2 ^ 8 + kind), pc,
   BitVec.ofNat 64 (arg % 2 ^ 32 * 2 ^ 32 + seq.toNat), BitVec.ofNat 64 (arg1 % 2 ^ 16 * 2 ^ 48 + s.deviceNs % 2 ^ 48)⟩
/-- A record enters the buffer of a cluster, or is counted where the buffer is full (R428). -/
def State.bufTrace (s : State) (cl : Nat) (r : TraceRec) : State :=
  let b := s.tbufs.get TraceBuf.init cl
  let b := if 2048 ≤ b.recs.length then { b with lost := b.lost + 1 } else { b with recs := b.recs ++ [r] : TraceBuf }
  { s with tbufs := s.tbufs.set TraceBuf.init cl b }
/-- A record of a kind is produced only while its bit is set (R427); while tracing is off it is discarded (R430). -/
def State.trace (s : State) (g : Group) (idx kind : Nat) (pc : W64) (seq : W32) (arg arg1 : Nat) : State :=
  let ctl := s.reg (trcAddr (g.core / 80) 0)
  if fld ctl (16 + kind) (16 + kind) == 1 && fld ctl 0 0 == 1 then
    s.bufTrace (g.core / 16) (s.traceRec g idx kind pc seq arg arg1)
  else s

-- ## Event records (R391)

/-- A place of an event queue is poisoned: the write of a record there faults (R391), whether or not its page may be read. -/
def State.eventPoison (s : State) (slot va : Nat) : Bool :=
  match (s.engBytes 0 slot .w va 32).2 with
  | .ok l => l.any (fun p => s.homePoison p.1)
  | .error _ => false
/-- The first waiting event of a context is written, if it can be; whether it was. -/
def State.flushEvent (s : State) (slot : Nat) : State × Bool :=
  match s.events.get [] slot with
  | [] => (s, false)
  | e :: rest =>
    let b := s.reg (evBaseAddr slot)
    let p := s.reg (evPtrAddr slot)
    let head := fld p 63 32
    let tail := fld p 31 0
    let size := 2 ^ fld b 4 0
    if fld b 4 0 == 0 || decide (size ≤ (tail + 2 ^ 32 - head) % 2 ^ 32) then (s, false)
    else
      let va := fld b 51 12 * 4096 + 32 * (tail % size)
      let bytes := bytesOf 8 e.w0.toNat ++ bytesOf 8 e.w1.toNat ++ bytesOf 8 e.w2.toNat ++ bytesOf 8 e.w3.toNat
      if s.eventPoison slot va then (s, false)
      else match s.engWrite 3 0 slot va bytes with
        | (s, .error _) => (s, false)
        | (s, .ok _) => ({ s.setReg (evPtrAddr slot) (setFld p 31 0 (tail + 1)) with events := s.events.set [] slot rest }, true)
/-- Write the oldest waiting event of a slot if its queue has room and its page takes it. -/
def State.flushEvents (s : State) (slot : Nat) : Nat → State
  | 0 => s
  | n + 1 => match s.flushEvent slot with
    | (s, true) => State.flushEvents s slot n
    | (s, false) => s

/-- An event of a context: written, or waiting behind at most 255 others, or counted in `LOST` (R391). -/
def State.event (s : State) (slot code fc queue : Nat) (tag : W32) (w1 w2 : W64) : State :=
  let w0 := BitVec.ofNat 64 (code + fc * 256 + queue % 4096 * 65536 + tag.toNat * 2 ^ 32)
  let w3 := BitVec.ofNat 64 (2 ^ 63 + s.deviceNs % 2 ^ 63)
  let q := s.events.get [] slot
  if 256 ≤ q.length then
    let l := fld (s.reg (lostAddr slot)) 31 0
    s.setRegFld (lostAddr slot) 31 0 (l + 1)
  else
    let s := { s with events := s.events.set [] slot (q ++ [(⟨slot, w0, w1, w2, w3⟩ : EventRec)]) }
    if q.isEmpty then s.flushEvents slot 1 else s

-- ## Splits waking, quiescent points

/-- The group last became ready now (R407). -/
def Group.becomeReady (g : Group) (t : Nat) : Group := if g.readyAt.isSome then g else { g with readyAt := some t, wait := 0 }
/-- A waiting or sleeping split continues at the next word (R41). -/
def State.wakeSplit (s : State) (gid idx : Nat) : State :=
  s.updGrp gid (fun g =>
    match g.split? idx with
    | some sp => (g.putSplit { sp with pc := sp.pc + 8, st := .ready }).becomeReady s.tick
    | none => g)
/-- Every live split is asleep, and the debugger does not hold the group (R340, R434). -/
def Group.sleeping (g : Group) : Bool :=
  !g.dbgStop && !g.splits.isEmpty && g.splits.all (fun x => match x.st with | .asleep _ => true | _ => false)
/-- A counted passage of a quiescent point (R370, R371). -/
def State.passQ (s : State) (gid : Nat) : State :=
  { s with graces := s.graces.mapV (fun x => { x with waiting := x.waiting.filter (fun i => i != gid) }) }
/-- A sleeping group's passage counts once its loads and stores are performed, and its stores are released at `DEVICE` (R370). -/
def State.quiet (s : State) (gid : Nat) : State :=
  match s.grp gid with
  | some g =>
    if g.sleeping && g.drained && g.pend.isEmpty then
      (s.release g .device).passQ gid
    else s
  | none => s

-- ## Phasers (R358 to R362)

def State.phaser (s : State) (id : Nat) : Option Phaser := s.phasers.find? id
def State.setPhaser (s : State) (id : Nat) (p : Phaser) : State := { s with phasers := s.phasers.insert id p }
/-- The cluster of a phaser is present (R16, R363). -/
def State.phPresent (s : State) (id : Nat) : Bool := decide (id / 1024 < 40) && s.present (.cluster (id / 1024))
/-- The completion test of R360. -/
def Phaser.complete (p : Phaser) : Bool :=
  p.pend == 0 && decide (p.exp ≤ p.cnt) && (decide (0 < p.memb) || decide (0 < p.exp)) && p.flt.isNone
def Phaser.flip (p : Phaser) : Phaser :=
  { p with
    phase := p.phase + 1, cnt := p.cnt - p.exp, exp := 0, pend := p.memb
    cur := Wrote.none, past := if p.cur = Wrote.none then p.past else p.past ++ [(p.phase, p.cur)] }
/-- The test after an operation; a second flip may follow at once (R360). -/
def Phaser.test (p : Phaser) : Phaser :=
  let p := if p.complete then p.flip else p
  if p.complete then p.flip else p
/-- A phase number is complete (R367). -/
def phaseDone (phase n : W32) : Bool := decide (1 ≤ (phase - n).toNat) && decide ((phase - n).toNat < 2 ^ 31)
/-- What an observer of phase n's flip acquires: the counts of that phase and of all before it (R361). -/
def Phaser.counted (p : Phaser) (n : W32) : Wrote :=
  (p.past.filter (fun x => decide ((n - x.1).toNat < 2 ^ 31))).foldl (fun w x => w.join x.2) Wrote.none
/-- Some group, resident or swapped out, is a member (R359). -/
def State.hasMember (s : State) (id : Nat) : Bool :=
  s.groups.any (fun e => e.2.members.any (fun m => m.phaser == id)) || s.saved.any (fun e => e.2.groups.any (fun x => x.2.members.any (fun m => m.phaser == id)))
/-- Some split of a group sleeps in `PHWAIT` on the phaser. -/
def Group.waitsOn (g : Group) (id : Nat) : Bool :=
  g.splits.any (fun x => match x.st with
    | .asleep (.phwait p _ _ _) => p == id
    | _ => false)
/-- Some group, resident or swapped out, waits in `PHWAIT` on the phaser (R359, R367). -/
def State.hasWaiter (s : State) (id : Nat) : Bool :=
  s.groups.any (fun e => e.2.waitsOn id) || s.saved.any (fun e => e.2.groups.any (fun x => x.2.waitsOn id))
/-- Some outstanding engine command counts into the phaser (R359). -/
def State.hasCounter (s : State) (id : Nat) : Bool :=
  s.ecmds.any (fun e => !e.2.np && e.2.phaser == id)
    || s.remotes.any (fun e => !e.2.np && e.2.phaser == id && (match e.2.op with
        | .append .. => false | .ratom .. => false | _ => true))
    || s.fxs.any (fun e => (e.2.cur.toList ++ e.2.queue).any (fun c => !c.np && c.phaser == id))
    || s.phMsgs.any (fun m => m.phaser == id)
/-- A phaser with no member, waiter or command returns to unbound (R359). -/
def State.phaserGc (s : State) (id : Nat) : State :=
  if s.hasMember id || s.hasWaiter id || s.hasCounter id then s else { s with phasers := s.phasers.erase id }
/-- Place a fault record in a phaser of the context, unless one is there (R362). -/
def State.phaserFault (s : State) (id slot : Nat) (f : AFault) : State :=
  match s.phaser id with
  | some p => if p.owner = slot ∧ p.flt = none then s.setPhaser id { p with flt := some f } else s
  | none => s
/-- An engine count (R360, R362, R363): none where the phaser is unbound or another context's. -/
def State.phaserCount (s : State) (id slot n : Nat) (site : W64) (seq : W32) (w : Wrote) : Option State :=
  match s.phaser id with
  | none => none
  | some p =>
    if p.owner ≠ slot then none
    else if 2 ^ 48 ≤ p.cnt + n then some (s.phaserFault id slot ⟨0x13, 6, 0, site, seq, .other⟩)
    else some (s.setPhaser id { p with cnt := p.cnt + n, cur := p.cur.join w }.test)
/-- `PHDROP`, or the drop at `EXIT` (R365). -/
def State.dropMember (s : State) (gid : Nat) (m : Member) : State :=
  let s := s.updGrp gid (fun g => { g with members := g.members.filter (fun x => x.phaser != m.phaser) })
  let s := match s.phaser m.phaser with
    | some p =>
      if m.mode = PhMode.wt then s
      else if m.ap = p.phase then s.setPhaser m.phaser { p with memb := p.memb - 1, pend := p.pend - 1 }.test
      else s.setPhaser m.phaser { p with memb := p.memb - 1 }.test
    | none => s
  s.phaserGc m.phaser

-- ## Troughs (R403 to R405)

def State.trough (s : State) (t : Nat) : TroughSt := s.troughs.get TroughSt.init t
def State.setTrough (s : State) (t : Nat) (x : TroughSt) : State := { s with troughs := s.troughs.set TroughSt.init t x }
/-- The record a closed, empty trough returns (R403). -/
def endRec : List W64 := [BitVec.allOnes 64, 0, 0, 0, 0, 0, 0, 0]
def Group.writeRec (g : Group) (d : Nat) (r : List W64) : Group := (r.zipIdx).foldl (fun g p => g.setS (d + p.2) p.1) g
/-- A record handed to a sleeping `TRPOP`: registers written, acquire at `DEVICE`, the split continues (R403, R404). -/
def State.handRec (s : State) (gid idx : Nat) (r : List W64) : State :=
  match s.grp gid with
  | some g =>
    match g.split? idx with
    | some sp =>
      match sp.st with
      | .asleep (.trpop _ d) => (((s.setGrp gid (g.writeRec d r)).acquire g .device).wakeSplit gid idx)
      | _ => s
    | none => s
  | none => s
/-- Append a record: to the longest sleeper, else held (R404). -/
def State.trAppend (s : State) (t : Nat) (r : List W64) : State :=
  let x := s.trough t
  match x.sleepers with
  | (gid, idx) :: rest => (s.setTrough t { x with sleepers := rest, closed := false, closing := false }).handRec gid idx r
  | [] => s.setTrough t { x with recs := x.recs ++ [r], closed := false, closing := false }
/-- Close a trough whose records have drained: every sleeper wakes with the end record (R405). -/
def State.trClose (s : State) (t : Nat) : State :=
  let x := s.trough t
  if x.recs.isEmpty then
    x.sleepers.foldl (fun s p => s.handRec p.1 p.2 endRec)
      (s.setTrough t { x with sleepers := [], closed := true, closing := false })
  else s.setTrough t { x with closing := true }
/-- The oldest record leaves; a pending close takes effect when none is left (R405). -/
def State.trTake (s : State) (t : Nat) : Option (List W64 × State) :=
  let x := s.trough t
  match x.recs with
  | [] => none
  | r :: rest =>
    let s := s.setTrough t { x with recs := rest }
    some (r, if rest.isEmpty && x.closing then s.trClose t else s)

-- ## Packets and graphs completing (R388, R390)

def State.queue (s : State) (q : Nat) : QueueSt := s.queues.get QueueSt.init q
def State.setQueue (s : State) (q : Nat) (x : QueueSt) : State := { s with queues := s.queues.set QueueSt.init q x }
/-- A packet completes: event `0x01` if it asked for one (R388). -/
def State.packetDone (s : State) (slot q : Nat) (pkt : W32) : State :=
  let x := s.queue q
  let ev := x.evts.find? (fun e => e.1 == pkt)
  let s := s.setQueue q { x with open_ := x.open_.filter (fun p => p != pkt), evts := x.evts.filter (fun e => e.1 != pkt) }
  match ev with
  | some e => s.event slot 0x01 0 q e.2 (pkt.setWidth 64) 0
  | none => s
/-- What started a command learns of its end: a packet completes, a node waits for the walker (R390, R400). -/
def State.originDone (s : State) (slot : Nat) : Origin → State
  | .packet q pkt _ => s.packetDone slot q pkt
  | .node k n => { s with graphs := s.graphs.adjust k (fun g => { g with running := g.running.filter (· != n), fin := g.fin ++ [n] }) }
  | _ => s

-- ## The rendezvous latch (R249, R250)

/-- The group indices a `GANG` value names (R248). -/
def gangList (w : W32) : List Nat := (List.range (w.toNat % 8)).map (fun j => w.toNat / 2 ^ (4 * j + 4) % 16)
/-- An asynchronous fault joins a group's pending queue; none where the queue is full (R410). -/
def Group.pushFault (g : Group) (f : AFault) : Option Group :=
  if 8 ≤ g.pendq.length then none else some { g with pendq := g.pendq ++ [f] }

-- ## Bank queues (R127, R128)

/-- Distinct bank lines of byte addresses, with the bank of each. -/
def bankLines (as : List Nat) : List Nat := (as.map (· / 32)).dedup
def State.bankFull (s : State) (core : Nat) (lines : List Nat) : Option Nat :=
  ((lines.map (· % 64)).dedup).find? (fun b =>
    decide (16 < ((s.core core).bankq.get [] b).length + (lines.filter (fun l => l % 64 == b)).length
      ∧ 0 < ((s.core core).bankq.get [] b).length))
/-- Enter a group's lines in their bank queues: its counter rises with each (R128). -/
def State.bankEnter (s : State) (core gid : Nat) (pend : Option Nat) (lines : List Nat) : State :=
  let c := s.core core
  let s := s.setCore core { c with bankq := lines.foldl (fun m l => m.set [] (l % 64) (m.get [] (l % 64) ++ [⟨some gid, pend⟩])) c.bankq }
  s.updGrp gid (fun g => { g with cc := g.cc + lines.length })

-- ## Atomic words at home (R264 names the operations; this is the reeve's and the fabric's addition)

/-- Add to a 64-bit word at its home slice through an engine translation; both permissions are needed, and the traffic is
exempt (R84, R99, R398). -/
def State.engAdd (s : State) (die slot va : Nat) (n : W64) : State × Except EStop W64 :=
  if va % 8 ≠ 0 then (s, .error (.fault 0x05 0 va)) else s.engUpd 3 die slot va 8 (· + n)

-- ## Ends of teams and grids (R398)

/-- A team's commands are still outstanding (R398, R369). -/
def State.teamBusy (s : State) (tid : Nat) : Bool :=
  s.ecmds.any (fun e => e.2.tid == some tid) || s.remotes.any (fun e => e.2.tid == tid)
    || s.mcmds.any (fun e => e.2.tid == tid)
    || s.fxs.any (fun e => (e.2.cur.toList ++ e.2.queue).any (fun c => c.tid == some tid))
/-- The queue, the `TAG` and the quadword at `0x08` of an event about something's origin (R391). -/
def State.orgName (s : State) : Origin → Nat × W32 × W64
  | .packet q pkt tag => (q, tag, pkt.setWidth 64)
  | .node k n => match s.graphs.find? k with
    | some g => (g.queue, g.tag, BitVec.ofNat 64 (g.pkt.toNat + n % 65536 * 2 ^ 32))
    | none => (0, 0, BitVec.ofNat 64 (n % 65536 * 2 ^ 32))
  | _ => (0, 0, 0)
/-- A done word is given its 1 (R398): none while its page makes it wait; a fault is event `0x04`. -/
def State.doneWord (s : State) (slot : Nat) (org : Origin) (addr : W64) : Option State :=
  if addr = 0 then some s
  else match s.engAdd 0 slot addr.toNat 1 with
    | (s, .ok _) => some s
    | (s, .error (.fault c _ _)) =>
      let n := s.orgName org
      some (s.event slot 0x04 c n.1 n.2.1 n.2.2 addr)
    | (_, .error .wait) => none
/-- Device time has passed a grid's deadline (R395): event `0x08`, once. -/
def State.noteLate (s : State) (kid : Nat) : State :=
  match s.grid kid with
  | none => s
  | some k =>
    if k.deadline = 0 ∨ k.late = true ∨ s.deviceNs ≤ k.deadline.toNat then s
    else
      let n := s.orgName k.org
      ({ s with grids := s.grids.insert kid { k with late := true } } : State).event k.slot 0x08 0 n.1 n.2.1 n.2.2 0
/-- The grid's done word and its packet (R398). A grid ended by its context adds nothing (R406). -/
def State.gridEnd (s : State) (k : Nat) : State :=
  let s := s.noteLate k
  match s.grid k with
  | none => s
  | some g =>
    match s.doneWord g.slot g.org (if g.killed then 0 else g.doneAddr) with
    | some s => ({ s with grids := s.grids.erase k } : State).originDone g.slot g.org
    | none => s
/-- Grids whose done word waited for its page are tried again when a page settles (R115, R398). -/
def State.retryGrids (s : State) : State :=
  (s.grids.keep (fun _ g => g.ended == g.teamN)).foldl (fun s e => s.gridEnd e.1) s
/-- A team with no group left and no command outstanding ends; its tiles and scratchpad are freed (R398). -/
def State.tryTeamEnd (s : State) (tid : Nat) : State :=
  match s.team tid with
  | none => s
  | some t =>
    if !(s.teamGroups tid).isEmpty || s.teamBusy tid then s
    else
      let s := { s with teams := s.teams.erase tid }
      match s.grid t.grid with
      | none => s
      | some g =>
        let s := { s with grids := s.grids.insert t.grid { g with ended := g.ended + 1 } }
        if g.ended + 1 = g.teamN then s.gridEnd t.grid else s

end Sys2Proof.Machine
end

