-- ==== Sys2Proof/Machine/Ops.lean ====
section
/-! DEFINITION. The named operations over the machine: ending a context (R406, R414), taking an exception and returning from
it (R409 to R416), asynchronous faults (R117, R323, R410), waits (R41), and the issue of a word (R40 to R48). -/

namespace Sys2Proof.Machine

-- fault codes (R408)
def fcOpcode : BitVec 8 := 0x01
def fcOperand : BitVec 8 := 0x02
def fcPair : BitVec 8 := 0x03
def fcLookahead : BitVec 8 := 0x04
def fcMisaligned : BitVec 8 := 0x05
def fcTranslation : BitVec 8 := 0x06
def fcProtection : BitVec 8 := 0x07
def fcOffloaded : BitVec 8 := 0x08
def fcFormat : BitVec 8 := 0x09
def fcGang : BitVec 8 := 0x0A
def fcDeadlock : BitVec 8 := 0x0B
def fcOverflow : BitVec 8 := 0x0C
def fcPrivilege : BitVec 8 := 0x0D
def fcTrap : BitVec 8 := 0x0E
def fcBreak : BitVec 8 := 0x0F
def fcMatrixReset : BitVec 8 := 0x10
def fcCopy : BitVec 8 := 0x11
def fcFabric : BitVec 8 := 0x12
def fcPhaser : BitVec 8 := 0x13
def fcVersion : BitVec 8 := 0x14
def fcLayout : BitVec 8 := 0x15
def fcMemory : BitVec 8 := 0x16
def fcHang : BitVec 8 := 0x17
def fcGleaning : BitVec 8 := 0x18

-- ## Queue descriptors (R386)

/-- The physical address of queue q's descriptor. -/
def State.qdescAddr (s : State) (q : Nat) : Nat := fld (s.reg rvQtabAddr) 47 16 * 65536 + 64 * q
/-- A quadword of it, read as plaintext at home. -/
def State.qword (s : State) (q off : Nat) : W64 :=
  BitVec.ofNat 64 (natOf (s.physRead (s.qdescAddr q + off) 8))
/-- The reeve writes a quadword of it. -/
def State.qput (s : State) (q off : Nat) (v : W64) : State := s.physWrite (s.qdescAddr q + off) (bytesOf 8 v.toNat)
def State.qCfg (s : State) (q : Nat) : W64 := s.qword q 0x18
def State.qSlot (s : State) (q : Nat) : Nat := fld (s.qCfg q) 13 8
def State.qEn (s : State) (q : Nat) : Bool := decide (q < fld (s.reg rvQtabAddr) 12 0) && fld (s.qCfg q) 0 0 == 1
/-- The reeve halts a queue (R388). -/
def State.qHalt (s : State) (q : Nat) : State := s.qput q 0x18 (s.qCfg q ||| 2)

-- ## Ending a context (R406, R325, R359, R374, R385)

/-- A claim's entry loses `BUSY` without an exchange being counted (R301, R323); a page that cannot be written leaves it, and
one in transition makes the write wait (R115). -/
def State.dropClaim (s : State) (p : Nat) (slot : Nat) (entry : Nat) : Except State State :=
  match s.rawUpd 2 (p / 2) slot (entry + 0x0E) 1 (· &&& 0xFD) with
  | (t, .error .wait) => .error (s.waiting t)
  | (t, _) => .ok t
/-- What waited for a page or a key is tried again: done words (R398). -/
def State.settleWaits (s : State) : State := s.retryGrids
/-- A program does nothing more: what it had in progress and on the wire is dropped. -/
def State.fxIdle (s : State) (p : Nat) (cur : Option FxStart) (claim : Option GClaim) (w : FxWait) : State :=
  let x := s.fxs.get FxSt.init p
  { s with
    fxs := s.fxs.set FxSt.init p { x with cur := cur, claim := claim, wait := w, busy := none, owes := false, lay := none, parts := [] }
    fxWires := s.fxWires.filter (fun w => w.p != p) }
/-- A fabric program ends by a fault: its claim is released first, then registers and processor (R301, R323, R324). While the
claim's entry waits for its page the program stays, ending. -/
def State.fxStop (s : State) (p : Nat) (code : BitVec 8) (detail : Nat) (addr : W64) : Except State State :=
  let x := s.fxs.get FxSt.init p
  match (match x.cur, x.claim with
    | some c, some cl => s.dropClaim p c.slot cl.entry
    | _, _ => .ok s) with
  | .error w => .error (w.fxIdle p x.cur x.claim (.ending code detail addr))
  | .ok s =>
    let s := s.fxIdle p none none .none
    let s := s.setReg (fxAddr p 0x18) (BitVec.ofNat 64 (detail * 65536 + code.toNat))
    let s := s.setReg (fxAddr p 0x20) addr
    let s := s.setReg (fxAddr p 0x10) x.fpc
    let s := s.setRegFld (fxAddr p 0x28) 63 32 (fld (s.reg (fxAddr p 0x28)) 63 32 + 1)
    .ok (s.setRegFld (fxAddr p 0) 1 1 0)

/-- The packet of a command or start that is discarded has completed (R406, log 30). -/
def State.packetGone (s : State) (slot : Nat) : Origin → State
  | .packet q pkt _ => s.packetDone slot q pkt
  | _ => s
/-- Abort the programs of a context, discard its queued starts and its messages (R325). Of a program whose claim waits to be
released only the origin learns, when it ends. -/
def State.fxEndCtx (s : State) (slot : Nat) : State :=
  (List.range 16).foldl (fun s p =>
    let x := s.fxs.get FxSt.init p
    let x' := { x with queue := x.queue.filter (fun c => c.slot != slot), store := x.store.filter (fun m => m.slot != slot) }
    let s := (x.queue.filter (fun c => c.slot == slot)).foldl (fun s c => s.packetGone slot c.org) { s with fxs := s.fxs.set FxSt.init p x' }
    match x.cur with
    | some c =>
      if c.slot = slot then
        match s.fxStop p 0x17 0 0 with
        | .error w =>
          let y := w.fxs.get FxSt.init p
          let org := match c.org with
            | .group _ => .ended
            | o => o
          { w with fxs := w.fxs.set FxSt.init p { y with cur := some { c with org := org, np := true } } }
        | .ok s =>
          match c.org with
          | .peer dev proc fpc => s.event slot 0x05 0x17 0 0 fpc (BitVec.ofNat 64 (dev + proc * 65536))
          | .packet q pkt tag => (s.event slot 0x05 0x17 q tag (pkt.setWidth 64) 0).packetDone slot q pkt
          | .node k n =>
            let o := s.orgName (.node k n)
            s.event slot 0x05 0x17 o.1 o.2.1 o.2.2 0
          | _ => s
      else s
    | none => s) s

/-- What remains of a context: a group, a command or a program (R406). -/
def State.ctxBusy (s : State) (slot : Nat) : Bool :=
  s.groups.any (fun e => e.2.ctx == slot) || s.ecmds.any (fun e => e.2.ctx == slot)
    || s.remotes.any (fun e => e.2.ctx == slot)
    || s.mcmds.any (fun e => match s.team e.2.tid with
        | some t => t.ctx == slot
        | none => false)
    || s.fxs.any (fun e => (e.2.cur.toList ++ e.2.queue).any (fun c => c.slot == slot))
/-- Suspensions whose slots hold no resident team complete (R406). -/
def State.checkSuspends (s : State) : State :=
  let here (e : Nat × Nat × W32 × W32) : Bool := s.teams.any (fun t => t.2.ctx == e.1 && !(s.teamGroups t.1).isEmpty)
  let done := s.suspends.filter (fun e => !here e)
  done.foldl (fun s e => s.packetDone (s.qSlot e.2.1) e.2.1 e.2.2.1) { s with suspends := s.suspends.filter here }
/-- `CTXCTL` ends whose contexts have emptied complete, with event `0x09`, and so do suspensions that wait for nobody any more
(R406). -/
def State.checkEndings (s : State) : State :=
  let s := s.checkSuspends
  let done := s.endings.filter (fun e => !s.ctxBusy e.1)
  let s := { s with endings := s.endings.filter (fun e => s.ctxBusy e.1) }
  done.foldl (fun s e =>
    (s.event e.1 0x09 0 e.2.1 e.2.2.2 (e.2.2.1.setWidth 64) 0).packetDone (s.qSlot e.2.1) e.2.1 e.2.2.1) s

/-- The context's groups leave without handlers, its swapped-out teams, grace periods and walks with them (R406). -/
def State.endGroups (s : State) (slot : Nat) : State :=
  let gone := s.ctxGroups slot
  { s with
    ended := if s.ended.contains slot then s.ended else s.ended ++ [slot]
    groups := s.groups.keep (fun _ g => g.ctx != slot)
    saved := s.saved.keep (fun _ t => t.ctx != slot)
    parts := s.parts.mapV (fun x => match x.run with
      | some (gid, _) => if gone.contains gid then { x with run := none, count := 0 } else x
      | none => x)
    graces := (s.graces.keep (fun _ x => x.slot != slot)).mapV
      (fun x => { x with waiting := x.waiting.filter (fun i => !gone.contains i) })
    fallow := s.fallow.erase slot
    traffic := s.traffic.mapV (fun (l : List Traffic) => updWhere l (fun t => t.slot == slot) (fun t => { t with cls := 3 }))
    posts := s.posts.filter (fun p => !p.reqs.any (fun t => t.slot == slot && t.cls == 0))
    walks := s.walks.filter (fun w => w.slot != slot) }
/-- Queued engine commands are discarded; started ones finish, and only their packets learn of it (R406, log 30). -/
def State.endCommands (s : State) (slot : Nat) : State :=
  let keepCmd (id : Nat) : Bool := match s.ecmds.find? id with
    | some c => c.ctx != slot || c.started
    | none => false
  let ends (c : CopyCmd) : CopyCmd := match c.org with
    | .packet .. => c
    | _ => { c with org := .ended }
  let s := (s.ecmds.keep (fun _ c => c.ctx == slot && !c.started)).foldl (fun s e => s.packetGone slot e.2.org) s
  { s with
    engines := s.engines.mapV (fun e => { e with queue := e.queue.filter keepCmd })
    ecmds := (s.ecmds.keep (fun _ c => c.ctx != slot || c.started)).mapV (fun c => if c.ctx = slot then ends c else c)
    remotes := (s.remotes.keep (fun _ c => c.ctx != slot || c.sent)).mapV (fun c => if c.ctx = slot then { c with faulted := true } else c)
    mcmds := s.mcmds.keep (fun _ c => match s.team c.tid with
      | some t => t.ctx != slot
      | none => true) }
/-- Phasers, the release ring, regions, troughs and links of the context (R359, R374, R385, R392, R406). -/
def State.endPhasers (s : State) (slot : Nat) : State :=
  { s with
    phasers := s.phasers.keep (fun _ p => p.owner != slot)
    phMsgs := s.phMsgs.filter (fun m => m.slot != slot) }.setReg (rrAddr slot 0x18) 0
def State.endRegions (s : State) (slot : Nat) : State :=
  (List.range 256).foldl (fun s k =>
    if s.vrSlot k = slot ∧ fld (s.reg (vrCfgAddr k)) 32 32 = 1 then (s.setRegFld (vrCfgAddr k) 32 32 0).setReg (vrVerAddr k) 0
    else s) s
def State.endTroughs (s : State) (slot : Nat) : State :=
  (List.range 256).foldl (fun s t =>
    if s.trEn t && s.trSlot t == slot then
      ({ s with troughs := s.troughs.erase t }).setRegFld (trCfgAddr t) 32 32 0 else s) s
def State.endLinks (s : State) (slot : Nat) : State :=
  (List.range 256).foldl (fun s l =>
    let r := s.reg (linkAddr l)
    if fld r 63 63 = 1 ∧ (s.qSlot (fld r 11 0) = slot ∨ s.qSlot (fld r 27 16) = slot) then
      s.setRegFld (linkAddr l) 63 63 0 else s) s
/-- The context's queues are halted, but for the issuing one (R406). -/
def State.endQueues (s : State) (slot : Nat) (keep : Option Nat) : State :=
  (List.range (fld (s.reg rvQtabAddr) 12 0)).foldl (fun s q =>
    if s.qEn q && s.qSlot q == slot && keep != some q then s.qHalt q else s) s
/-- Nothing more of the context's grids is placed, and nothing is added to their done words; `lost` are the swapped-out teams
that count as ended (R406). -/
def State.endGrids (s : State) (slot : Nat) (lost : SMap SavedTeam) : State :=
  lost.foldl (fun s e => { s with grids := s.grids.adjust e.2.grid (fun g => { g with ended := g.ended + 1 }) })
    { s with
      graphs := s.graphs.mapV (fun g => if g.slot = slot then { g with aborted := true, ready := [], running := [], fin := [] } else g)
      grids := s.grids.mapV (fun g => if g.slot = slot then { g with killed := true, teamN := g.nextTeam } else g) }
/-- The teams and grids of the context that have emptied end (R398). -/
def State.endTeams (s : State) (slot : Nat) : State :=
  let s := ((s.teams.keep (fun _ t => t.ctx == slot)).map Prod.fst).foldl (fun s t => s.tryTeamEnd t) s
  ((s.grids.keep (fun _ g => g.slot == slot && g.ended == g.teamN)).map Prod.fst).foldl (fun s k => s.gridEnd k) s
/-- End a context as `CTXCTL` does; `keep` is the issuing queue, which is not halted (R406). -/
def State.endContext (s : State) (slot : Nat) (keep : Option Nat) : State :=
  let units := ((((((s.endGroups slot).endCommands slot).fxEndCtx slot).endPhasers slot).endRegions slot).endTroughs slot).endLinks slot
  (((units.endQueues slot keep).endGrids slot (s.saved.keep (fun _ t => t.ctx == slot))).endTeams slot).checkEndings

/-- An unhandled fault ends the context, and event `0x09` carries it (R414). -/
def State.unhandled (s : State) (slot : Nat) (code : BitVec 8) (seq : W32) (site : W64) : State :=
  (s.endContext slot none).event slot 0x09 code.toNat 0 0 (seq.setWidth 64) site

-- ## Asynchronous faults (R117, R250, R410)

/-- A fault reaches a group's pending queue, or is unhandled where the queue is full; a swapped-out group takes it on
resumption (R410, R414, R419). -/
def State.asyncTo (s : State) (gid : Nat) (f : AFault) : State :=
  match s.grp gid with
  | some g =>
    match g.pushFault f with
    | some g' => s.setGrp gid g'
    | none => s.unhandled g.ctx f.code f.seq f.site
  | none => { s with saved := s.saved.mapV (fun t => if (t.groups.find? gid).isSome then { t with late := t.late ++ [(gid, f)] } else t) }

/-- The group still exists, resident or swapped out. -/
def State.groupLives (s : State) (gid : Nat) : Bool :=
  (s.grp gid).isSome || s.saved.any (fun e => (e.2.groups.find? gid).isSome)

/-- A command's fault is delivered: to the phaser it counted into, to its group, to the reeve's events, or, with nobody to
take it, to the context (R117, R323, R391). -/
def State.cmdFault (s : State) (org : Origin) (slot : Nat) (ph : Option Nat) (f : AFault) : State :=
  let waiters := match ph with
    | some id => s.hasWaiter id
    | none => false
  let s := match ph with
    | some id => { s with phMsgs := s.phMsgs ++ [(⟨id, slot, 0, some f, f.kind, 0, org, 0, f.addr, f.site, f.seq, Wrote.none⟩ : PhMsg)] }
    | none => s
  match org with
  | .group gid =>
    if s.groupLives gid then s.asyncTo gid f
    else if waiters then s
    else s.unhandled slot f.code f.seq f.site
  | .packet q pkt tag => s.event slot 0x05 f.code.toNat q tag (pkt.setWidth 64) f.addr
  | .node k n =>
    let o := s.orgName (.node k n)
    ({ s with graphs := s.graphs.adjust k (fun g => { g with aborted := true }) } : State).event slot 0x05 f.code.toNat o.1 o.2.1
      o.2.2 f.addr
  | .peer dev proc fpc => s.event slot 0x05 f.code.toNat 0 0 fpc (BitVec.ofNat 64 (dev % 65536 + proc % 16 * 65536))
  | .ended => s

/-- A command id leaves a group's open list and batches (R253). -/
def Group.endCmd (g : Group) (id : Nat) : Group :=
  { g with openCmds := g.openCmds.filter (· != id), batches := g.batches.map (fun b => { b with cmds := b.cmds.filter (· != id) }) }
/-- Batches complete in order (R253). -/
def Group.trimBatches (g : Group) : Group := { g with batches := g.batches.dropWhile (fun b => b.cmds.isEmpty) }
/-- The serial of the closed batch that a command is in (R253). -/
def Group.batchOf (g : Group) (id : Nat) : Option Nat := (g.batches.find? (fun b => b.cmds.contains id)).map (·.num)
/-- What a word waits for of the matrix engine: the batches with serials below a bound, or the commands on a tile (R254,
R258). -/
inductive MatrixDep
  | before (n : Nat)
  | tile (t : Nat)
  deriving DecidableEq, Repr
/-- A pending fault belongs to a command that the word depends on (R262); `MATRIX_RESET` is raised at every such word (R261). -/
def MatrixDep.on (d : MatrixDep) (k : CmdKind) : Bool :=
  match k, d with
  | .reset _, _ => true
  | .matrix _ (some b), .before n => decide (b < n)
  | .matrix t _, .tile t' => t == t'
  | _, _ => false
/-- A fault that `MWAIT` or `ACCRD` has to raise: one of a command it depends on, or `MATRIX_RESET` (R254, R258, R261, R262). -/
def Group.matrixBad (g : Group) (d : MatrixDep) : Bool := g.pendq.any (fun f => d.on f.kind)
/-- It raises it now: not in handler mode (R413). -/
def Group.matrixFault (g : Group) (d : MatrixDep) : Bool := !g.hm && g.matrixBad d
/-- What an `ACCQ` wrote is awaited by the word. -/
def QWrite.isOf (q : QWrite) : MatrixDep → Bool
  | .before n => q.batch.any (fun b => decide (b < n))
  | .tile t => q.tile == t
/-- The global bytes that the awaited `ACCQ`s of a group wrote are acquired (R254, R331): sectors of the context's lines in
the core's L1, but for dirty bytes, and whole lines of its cluster cache. -/
def State.acquireQ (s : State) (g : Group) (d : MatrixDep) : State :=
  let secs := (g.qwrites.filter (fun q => q.isOf d)).flatMap (fun q => q.sectors)
  if secs.isEmpty then s
  else
    let hit (line i : Nat) : Bool := secs.contains (4 * line + i)
    let c := s.core g.core
    let ls := c.lines.map (fun l =>
      if l.slot = g.ctx then { l with valid := (List.range 4).foldl (fun (m : BitVec 4) i => if hit l.line i then m &&& ~~~ (1#4 <<< i) else m) l.valid }.settle
      else l)
    let s := s.setCore g.core { c with lines := ls.filter (fun l => !l.empty) }
    let k := s.clus (g.core / 16)
    s.setClus (g.core / 16) { k with lines := k.lines.filter (fun l => !((List.range 4).any (hit l.line))) }
/-- The end of an `MWAIT` on the batches with serials below a bound (R254). -/
def State.mwaitDone (s : State) (gid n : Nat) : State :=
  match s.grp gid with
  | some g => (s.acquireQ g (.before n)).updGrp gid (fun g => { g with qwrites := g.qwrites.filter (fun q => !q.isOf (.before n)) })
  | none => s
/-- The split that the handler runs in (R413). -/
def Group.handler (g : Group) (idx : Nat) : Bool := g.hm && idx == g.tlane.toNat / 65536
/-- A waiting `MWAIT` is over (R254): its batches are complete, and there is no fault for it to raise first; in the handler
it raises none (R413). -/
def Group.mwaitOver (g : Group) (idx n : Nat) : Bool :=
  !g.batches.any (fun b => decide (b.num < n)) && (!g.matrixBad (.before n) || g.handler idx)
/-- The waiting `MWAIT`s of a group that are over complete. -/
def State.matrixSettle (s : State) (gid : Nat) : State :=
  match s.grp gid with
  | none => s
  | some g => g.splits.foldl (fun s sp =>
      match sp.st with
      | .waiting (.matrix n) => if g.mwaitOver sp.idx n then (s.mwaitDone gid n).wakeSplit gid sp.idx else s
      | _ => s) s

/-- A latch entry is discarded with `GANG_MISMATCH` (R249, R250). -/
def State.dropLatch (s : State) (gid : Nat) : State :=
  match s.grp gid with
  | some g =>
    match g.latch with
    | some e =>
      ((s.setGrp gid (({ g with latch := none }.endCmd e.id).trimBatches)).asyncTo gid
        ⟨fcGang, 0, 0, e.site, e.seq, .matrix e.tile (g.batchOf e.id)⟩).matrixSettle gid
    | none => s
  | none => s
/-- A listed group exits, is terminated or faults: the entries of the others that list it are discarded (R250); those of a team
whose groups have all stopped for a save have left the latch for its image (R419). -/
def State.gangBreak (s : State) (tid gi : Nat) : State :=
  if (s.groups.keep (fun _ g => g.tid == tid)).all (fun e => e.2.halted) then s
  else ((s.groups.keep (fun _ g => g.tid == tid && g.gi != gi && (match g.latch with
    | some e => (gangList e.list).contains gi
    | none => false))).map Prod.fst).foldl (fun s gid => s.dropLatch gid) s

-- ## Taking an exception, and returning (R409 to R416)

/-- The record of a run, every 2^`SINT`-th of its partition (R427). -/
def State.sampleRun (s : State) (gid idx : Nat) : State :=
  match s.grp gid with
  | none => s
  | some g =>
    let x := s.part g.partNo
    let n := 2 ^ fld (s.reg (trcAddr (g.core / 80) 0)) 12 8
    if 0 < x.count ∧ x.runs % n = 0 ∧ x.run.map Prod.fst = some gid then
      s.trace g idx 0x01 x.pc x.seq x.count (min 65535 x.idle)
    else s
/-- A split's run has ended: the partition is free, a demoted or switching split goes to the back of the queue, and the group
counts as ready from now (R41, R342, R343, R407). -/
def State.endRun (s : State) (gid idx : Nat) (switch : Bool) : State :=
  let s := s.sampleRun gid idx
  let s := { s with parts := s.parts.mapV (fun x => match x.run with
    | some (i, _) => if i = gid then { x with run := none, count := 0, endAt := s.now } else x
    | none => x) }
  s.updGrp gid (fun g =>
    let back := switch || (match g.split? idx with
      | some sp => sp.demote
      | none => false)
    let g := match g.split? idx with
      | some sp => g.putSplit { sp with demote := false }
      | none => g
    let g := if back then g.toBack idx else g
    { g with readyAt := if g.splits.any (fun x => x.st == .ready) then some s.tick else none, wait := 0 })

/-- Handler entry (R409, R410, R413): the trap CSRs are written, `HM` is set, the split's windows close, and it continues at
the vector. -/
def State.enterHandler (s : State) (gid idx : Nat) (async : Bool) (code : BitVec 8) (detail : W32) (addr : W64)
    (tpc site : W64) (seq : W32) (lane : Nat) : State :=
  match s.grp gid with
  | none => s
  | some g =>
    let s := s.trace g idx 0x02 site seq (code.toNat + (if async then 256 else 0)) (detail.toNat % 65536)
    match g.split? idx with
    | none => s
    | some sp =>
      let g := g.putSplit { sp.closeWins with pc := s.trapVec g.ctx, st := .ready }
      s.setGrp gid ({ g with
        tcause := (code.setWidth 32) ||| (if async then 0x200 else 0), tpc := tpc, taddr := addr, tdetail := detail
        tsite := site, tseq := seq, tlane := BitVec.ofNat 32 (idx % 4 * 65536 + lane % 64), hm := true }.becomeReady s.tick)

/-- A fault delivered to a split: to the handler, or unhandled (R413, R414). -/
def State.deliver (s : State) (gid idx : Nat) (async : Bool) (code : BitVec 8) (detail : W32) (addr : W64)
    (tpc site : W64) (seq : W32) (lane : Nat) : State :=
  match s.grp gid with
  | none => s
  | some g =>
    if g.hm || !s.trapEn g.ctx then s.unhandled g.ctx code seq site
    else s.enterHandler gid idx async code detail addr tpc site seq lane

/-- A split stops for the debugger (R434). -/
def State.debugStop (s : State) (gid idx : Nat) (cause : Nat) (pc : W64) (seq : W32) (f : Option FInfo) (af : Option AFault) : State :=
  match s.grp gid with
  | none => s
  | some g =>
    let s := s.trace g idx 0x03 pc seq cause 0
    s.updGrp gid (fun g =>
      let g := match g.split? idx with
        | some sp => g.putSplit { sp with st := .waiting (.stopped f af) }
        | none => g
      { g with dbgStop := true, readyAt := none })

/-- A precise fault at a word of a split (R409): its run ends there, latch entries that list the group are discarded, and the
fault is delivered, or stops the group under `FLTSTOP` (R434). `tpc` is the resume address. -/
def State.raise (s : State) (gid idx : Nat) (f : FInfo) (tpc : W64) : State :=
  match s.grp gid with
  | none => s
  | some g =>
    match g.split? idx with
    | none => s
    | some sp =>
      let s := (s.endRun gid idx false).gangBreak g.tid g.gi
      if s.fltStop g.ctx then s.debugStop gid idx 2 sp.pc g.cmdseq (some f) none
      else s.deliver gid idx false f.code f.detail f.addr tpc sp.pc g.cmdseq f.lane

/-- A split that a fault of an earlier word can be taken by: it is neither asleep nor waiting at a word of its own. -/
def Split.open_ (sp : Split) : Bool :=
  match sp.st with
  | .ready | .stalled _ => true
  | _ => false
/-- A precise fault found after its word has issued, at the word's own address (R141, R269): the split goes back to that word
and takes it there, the lowest split where its own has gone (log 35). None while no split can take it. In a group that has
stopped for a save it joins the pending queue (R419). -/
def State.raiseLate (s : State) (gid idx : Nat) (f : FInfo) (pc : W64) : Option State :=
  match s.grp gid with
  | none => some s
  | some g =>
    if g.halted then some (s.asyncTo gid ⟨f.code, f.detail, f.addr, pc, g.cmdseq, .other⟩)
    else match (match g.split? idx with
      | some sp => some sp
      | none => g.splits.head?) with
    | none => some s
    | some sp =>
      if sp.open_ then some ((s.setGrp gid (g.putSplit { sp with pc := pc, st := .ready })).raise gid sp.idx f pc) else none

/-- The oldest pending fault is delivered to a split at a run boundary or a dependent word (R410); a `MATRIX_RESET` stays until
`takeReset` lets it go (R261). -/
def State.deliverPending (s : State) (gid idx : Nat) (tpc : W64) : State :=
  match s.grp gid with
  | none => s
  | some g =>
    match g.pendq.find? (fun f => !f.isReset) with
    | none => s
    | some f =>
      let s := s.gangBreak g.tid g.gi
      if s.fltStop g.ctx then s.debugStop gid idx 2 f.site f.seq none (some f)
      else
        let s := s.updGrp gid (fun g => { g with pendq := g.pendq.eraseP (fun f => !f.isReset) })
        (s.deliver gid idx true f.code f.detail f.addr tpc f.site f.seq 0).matrixSettle gid

/-- At an `MWAIT` or `ACCRD` the oldest pending fault may be a `MATRIX_RESET`: where the group had no command to name, it names
that word and the current `CMDSEQ` (R261). -/
def State.takeReset (s : State) (gid : Nat) (pc : W64) : State :=
  s.updGrp gid (fun g =>
    match g.pendq with
    | [] => g
    | f :: q =>
      match f.kind with
      | .reset named => { g with pendq := { f with
          site := if named then f.site else pc
          seq := if named then f.seq else g.cmdseq
          kind := .matrix 16 none } :: q }
      | _ => g)

-- ## Waits (R41)

/-- A fault of one of these kinds is pending and may be raised here: not in handler mode (R410, R413). -/
def Group.hasFault (g : Group) (ks : List CmdKind) : Bool := !g.hm && g.pendq.any (fun f => ks.contains f.kind)
/-- The kinds that a `DRAIN` mask selects (R369). -/
def drainKinds (m : Nat) : List CmdKind :=
  (if m % 2 = 1 then [.copy] else []) ++ (if m / 2 % 2 = 1 then [.remote] else []) ++ (if m / 4 % 2 = 1 then [.fabric] else [])
/-- The tiles a matrix command touches, none for no tile (R251). -/
def MatrixOp.tiles : MatrixOp → List Nat
  | .mma ms => ms.map (fun m => m.entry.tile)
  | .accz t => [t]
  | .accwr t _ _ => [t]
  | .accq _ _ _ _ t _ _ _ => [t]
/-- The engine commands of a group still outstanding, in issue order (R253). -/
def Group.cmdIds (g : Group) : List Nat := g.batches.flatMap (fun b => b.cmds) ++ g.openCmds
/-- An engine command of the group on a tile has not taken effect (R258). -/
def State.tileBusy (s : State) (g : Group) (t : Nat) : Bool :=
  (match g.latch with
    | some e => e.tile == t
    | none => false)
  || g.cmdIds.any (fun id => match s.mcmds.find? id with
    | some c => c.op.tiles.contains t
    | none => false)
/-- Whether a stalled word may issue again. -/
def State.waitOver (s : State) (gid : Nat) (g : Group) : Why → Bool
  | .results ids => ids.all (fun i => !g.outstanding.contains i)
  | .flags => !g.pend.any (fun p => p.setsFlg)
  | .walk slot region => !s.walks.any (fun w => w.waits g.core slot region)
  | .page slot va wr => match s.walk slot va with
    | .ok e => !offWait (if wr then .rw else .r) e
    | .error _ => true
  | .fifoEmpty => g.drained
  | .lines => g.cc == 0
  | .regulator => true
  | .exit => g.drained && g.pend.isEmpty
  | .ordered => g.drained && !s.remoteOpen gid
  | .bank core b => decide (((s.core core).bankq.get [] b).length < 16)
  | .copyQueue e => decide ((s.engines.get EngineSt.init e).queue.length < 64)
  | .remoteQueue d => decide ((s.remotes.keep (fun _ c => c.die == d)).length < 256)
  | .fxQueue p => decide ((s.fxs.get FxSt.init p).queue.length < 16)
  | .drainFull c => decide ((if c = 0 then g.drCp else if c = 1 then g.drRm else g.drFx) < 65535)
  | .drain m => (m % 2 == 0 || g.drCp == 0) && (m / 2 % 2 == 0 || g.drRm == 0) && (m / 4 % 2 == 0 || g.drFx == 0)
  | .batches => decide (g.batches.length < 8)
  | .latch => g.latch.isNone
  | .tile t => !s.tileBusy g t || g.matrixFault (.tile t)
  | .phase p ap => match s.phaser p with
    | some x => x.phase == ap || x.flt.isSome
    | none => true
  | .barrier id => match s.team g.tid with
    | some t => match t.rounds.find? id with
      | some r => !r.joined.contains gid
      | none => true
    | none => true
  | .fallowFull slot => decide ((s.fallow.get [] slot).length < 4096)
  | .troughFull t => decide ((s.trough t).recs.length < s.trCap t)
  | .keyLoad k => !s.keyLoad.contains k

/-- A split can issue: ready, or stalled with its wait over (R340). -/
def State.splitReady (s : State) (gid : Nat) (g : Group) (sp : Split) : Bool :=
  match sp.st with
  | .ready => true
  | .stalled w => s.waitOver gid g w
  | _ => false

-- ## The issue of a word (R29, R31, R40 to R48)

/-- What a word leaves to be written, the bank lines it reads, whether it demotes its split, the fault of a load that has
consumed a poisoned byte (R141), and whether its result comes from elsewhere, though it names no register (R284). -/
structure Res where
  ws : List RegWrite
  lines : List Nat
  demote : Bool
  bad : Option FInfo
  late : Bool
  deriving DecidableEq, Repr
def Res.of (ws : List RegWrite) : Res := ⟨ws, [], false, none, false⟩
def Res.nil : Res := ⟨[], [], false, none, false⟩

/-- What a word does: it completes; it is a run-ending control instruction that has set its splits and their queue; it faults;
it stalls and will issue again; or its split sleeps or waits at it. -/
inductive Eff
  | done (s : State) (r : Res)
  | ctl (s : State)
  | fault (s : State) (f : FInfo)
  | stall (s : State) (w : Why)
  | pause (s : State) (st : SplitSt)
  /-- The word traps after completing: resume address PC + 8 (`TRAP`, `BKPT`). -/
  | trap (s : State) (f : FInfo)
  /-- A pending asynchronous fault is delivered at the word, which has not completed (R410). -/
  | async (s : State)
  /-- The state is final: the word's group is gone or its context has ended. -/
  | gone (s : State)

/-- The word being issued: its group, split and participating lanes. -/
structure Ctx where
  gid : Nat
  idx : Nat
  g : Group
  sp : Split
  act : Lanes
  deriving DecidableEq, Repr

/-- A fault of a word. -/
def flt (code : BitVec 8) (detail : Nat := 0) (addr : W64 := 0) (lane : Nat := 0) : FInfo :=
  ⟨code, BitVec.ofNat 32 detail, addr, lane⟩

/-- The registers a word reads or writes, its guard included (R46). -/
def wordNames (h : Hdr) (us : List Use) : List RName :=
  us.flatMap Use.names ++ (if h.pg = 7 then [] else [⟨.p, h.pg.toNat⟩])
/-- The register destinations of a word (R46). -/
def destNames (us : List Use) : List RName := (us.filter (fun u => u.wr)).flatMap Use.names

/-- The word breaks an open window (R46). -/
def Split.violates (sp : Split) (names : List RName) : Bool :=
  sp.wins.any (fun w => decide (0 < w.left) && w.dests.any (fun d => names.contains d))
/-- The results that a word of `len` words waits for: expired windows, and what a closed window left (R47, R48). -/
def Split.blocked (sp : Split) (g : Group) (len : Nat) : List Nat :=
  ((sp.wins.filter (fun w => decide (w.left < len))).map (·.id) ++ sp.holdFor).filter (fun i => g.outstanding.contains i)
/-- The windows after a word of `len` words. -/
def Split.age (sp : Split) (g : Group) (len : Nat) : List Win :=
  (sp.wins.map (fun w => { w with left := w.left - len })).filter
    (fun w => decide (0 < w.left) || g.outstanding.contains w.id)

/-- The delay of a causal trial before a run that begins at an address (R437, R438): its cycles are counted, and the
partition once in each delayed window. -/
def State.trialRun (s : State) (g : Group) (pc : W64) : State :=
  let cfg := s.reg (trialAddr 0)
  match s.trial with
  | some t =>
    if t.delayed && fld cfg 61 56 == g.ctx then
      let p := s.part g.partNo
      let s := if p.trial then s
        else (s.setPart g.partNo { p with trial := true }).setReg (trialAddr 0x38) (s.reg (trialAddr 0x38) + 1)
      if pc < s.reg (trialAddr 8) ∨ s.reg (trialAddr 0x10) ≤ pc then
        let d := BitVec.ofNat 64 (fld cfg 43 32)
        s.setReg (trialAddr 0x30) (s.reg (trialAddr 0x30) + d)
      else s
    else s
  | none => s
def State.trialDelay (s : State) (g : Group) (pc : W64) : W32 :=
  let cfg := s.reg (trialAddr 0)
  match s.trial with
  | some t =>
    if t.delayed && fld cfg 61 56 == g.ctx && (decide (pc < s.reg (trialAddr 8)) || decide (s.reg (trialAddr 0x10) ≤ pc)) then
      BitVec.ofNat 32 (fld cfg 43 32)
    else 0
  | none => 0
/-- The first word of a run issues: the run is counted for its group (R435), its partition (R427) and the groups that wait
(R407). -/
def State.beginRun (s : State) (c : Ctx) : State :=
  let p := c.g.partNo
  let x := s.part p
  let s := s.setPart p { x with runs := x.runs + 1, pc := c.sp.pc, seq := c.g.cmdseq, idle := s.now - x.endAt }
  let d := s.trialDelay c.g c.sp.pc
  let s := s.trialRun c.g c.sp.pc
  let s := { s with groups := s.groups.mapV (fun g => if g.partNo = p ∧ g.readyAt.isSome = true then { g with wait := g.wait + 1 } else g) }
  s.updGrp c.gid (fun g => { g with runs := g.runs + 1, trdly := g.trdly + d, readyAt := none, wait := 0 })
/-- The run counts a word; a word with `E` ends it (R41). -/
def State.countWord (s : State) (c : Ctx) (len : Nat) (e : Bool) : State :=
  let s := if (s.part c.g.partNo).count = 0 then s.beginRun c else s
  let s := { s with parts := s.parts.mapV (fun x => match x.run with
    | some (i, _) => if i = c.gid then { x with count := x.count + len } else x
    | none => x) }
  if e then s.endRun c.gid c.idx false else s

/-- A word has completed: results written (short) or pending (long), the windows aged, a window opened, the program counter
advanced (R25, R44 to R47). `flg` says that the word may set a flag. -/
def State.complete (s : State) (c : Ctx) (h : Hdr) (lat : Lat) (us : List Use) (flg : Bool) (len : Nat) (r : Res) : State :=
  let dests := destNames us
  let late := lat == .long && (!dests.isEmpty || flg || !r.lines.isEmpty || r.demote || r.bad.isSome || r.late)
  let pid := s.nextId
  let s := if late then { s with nextId := s.nextId + 1 } else s
  let s := s.updGrp c.gid (fun g =>
    match g.split? c.idx with
    | none => g
    | some sp =>
      let wins := sp.age g len ++ (if late && (!dests.isEmpty || r.bad.isSome) then [⟨pid, h.la.toNat, dests⟩] else [])
      let g := g.putSplit { sp with pc := sp.pc + BitVec.ofNat 64 (8 * len), wins := wins, holdFor := [], st := .ready }
      if late then { g with pend := g.pend ++ [⟨pid, c.idx, dests, flg, r.demote, r.lines.length, r.ws, r.bad, c.sp.pc, s.tick⟩] }
      else g.writes r.ws)
  let s := if r.lines.isEmpty then s else s.bankEnter c.g.core c.gid (some pid) r.lines
  s.countWord c len h.e

/-- A split stays at a word, asleep or waiting; its window opens with the word (R41, R46). -/
def State.pauseAt (s : State) (c : Ctx) (h : Hdr) (us : List Use) (st : SplitSt) : State :=
  let pid := s.nextId
  let s := { s with nextId := s.nextId + 1 }
  let s := s.updGrp c.gid (fun g =>
    match g.split? c.idx with
    | none => g
    | some sp =>
      let d := destNames us
      g.putSplit { sp with wins := sp.age g 1 ++ (if d.isEmpty || h.la = 0 then [] else [⟨pid, h.la.toNat, d⟩]),
                           st := st })
  ((s.countWord c 1 false).endRun c.gid c.idx true).quiet c.gid

/-- The effect of a word on the machine. A word that faults is not counted in its run, so that a run whose first word faults
counts nowhere and leaves no sample (log 41); nor is one that waits at issue, for stores or commands to drain among other things:
its run ends before it (log 42). -/
def applyEff (c : Ctx) (h : Hdr) (lat : Lat) (us : List Use) (flg : Bool) (len : Nat) : Eff → State
  | .done s r => s.complete c h lat us flg len r
  | .ctl s => ((s.countWord c 1 false).endRun c.gid c.idx false).quiet c.gid
  | .fault s f => s.raise c.gid c.idx f c.sp.pc
  | .stall s w =>
    let s := s.updGrp c.gid (fun g => match g.split? c.idx with
      | some sp => g.putSplit { sp with st := .stalled w }
      | none => g)
    s.endRun c.gid c.idx true
  | .pause s st => s.pauseAt c h us st
  | .trap s f => (s.countWord c 1 false).raise c.gid c.idx f (c.sp.pc + 8)
  | .async s => (s.endRun c.gid c.idx false).deliverPending c.gid c.idx c.sp.pc
  | .gone s => s

/-- The issue of a word by a split: the checks that depend on the word alone come before its effect (R46, R50, R51). -/
def State.issueAt (s : State) (c : Ctx) (h : Hdr) (lat : Lat) (us : List Use) (flg : Bool) (len : Nat)
    (body : State → Ctx → Eff) : State :=
  if us.any (fun u => !u.within c.g.budget) then s.raise c.gid c.idx (flt fcOperand) c.sp.pc
  else if c.sp.violates (wordNames h us) then s.raise c.gid c.idx (flt fcLookahead) c.sp.pc
  else if (c.sp.blocked c.g len).isEmpty then applyEff c h lat us flg len (body s c)
  else applyEff c h lat us flg len (.stall s (.results (c.sp.blocked c.g len)))

/-- The issuing group and split (R342), with the lanes whose guard is true (R29). -/
def State.ctx? (s : State) (h : Hdr) : Option Ctx :=
  match s.cur with
  | none => none
  | some (gid, idx) =>
    match s.grp gid with
    | none => none
    | some g =>
      match g.split? idx with
      | none => none
      | some sp =>
        let sp := { sp with st := .ready }
        some ⟨gid, idx, g.putSplit sp, sp, sp.mask &&& g.guard h.pg h.pn⟩

/-- A word executed by the issuing split. -/
def issue (s : State) (h : Hdr) (lat : Lat) (us : List Use) (flg : Bool) (len : Nat) (body : State → Ctx → Eff) :
    Host.Outcome State Fault Refusal :=
  match s.ctx? h with
  | none => .fault .noIssuer
  | some c => .next (s.issueAt c h lat us flg len body)

/-- A word whose encoding names what its team does not have: the fault comes whatever the guard, before the word is looked at
further (R50, R51). -/
def limited (s : State) (h : Hdr) (bad : Ctx → Bool) (k : Host.Outcome State Fault Refusal) : Host.Outcome State Fault Refusal :=
  match s.ctx? h with
  | none => .fault .noIssuer
  | some c => if bad c then .next (s.raise c.gid c.idx (flt fcOperand) c.sp.pc) else k

/-- A word that acts on registers only, in each participating lane or once (R31); `flg` as in `complete`. -/
def aluWord (s : State) (h : Hdr) (lat : Lat) (us : List Use) (flg : Bool) (k : Bool)
    (f : Group → Nat → List RegWrite × Fl) : Host.Outcome State Fault Refusal :=
  issue s h lat us (flg && !h.q) 1 (fun s c => .done s (Res.of (laneWork k h.q c.act (f c.g))))

/-- A word that acts once, when the guard is true in at least one active lane (R31, R471). -/
def onceWord (s : State) (h : Hdr) (lat : Lat) (us : List Use) (body : State → Ctx → Eff) :
    Host.Outcome State Fault Refusal :=
  issue s h lat us false 1 (fun s c => if c.act = 0 then .done s Res.nil else body s c)

-- ## Releases at issue (R144)

/-- A release at a scope before an access: it waits for the group's older stores, and while a regulator holds back its
write-backs (R101, R144). -/
def relAt (s : State) (c : Ctx) (rel : Bool) (sc : Scope) : Except Eff State :=
  if !rel then .ok s
  else if !s.relReady c.gid c.g sc then .error (.stall s (if sc = .system then .ordered else .fifoEmpty))
  else match s.pass (s.release c.g sc) false with
    | .error w => .error (.stall w .regulator)
    | .ok u => .ok u

/-- A group as placement makes it (R160, R341, R353, R411): registers zero, one split with every lane at `ENTRY`. -/
def Group.placed (tid ctx gi role rank width budget slot core part : Nat) (entry : W64) (vcur : W32) (vpart : Nat)
    (lbase lsize : W64) (t : Nat) : Group where
  tid := tid
  ctx := ctx
  gi := gi
  role := role
  rank := rank
  width := width
  budget := budget
  slot := slot
  core := core
  part := part
  v := []
  s := []
  d := []
  p := []
  flg := []
  splits := [⟨0, entry, allLanes width, .ready, false, [], []⟩]
  stack := []
  wakeBit := false
  pend := []
  nextPend := 0
  fifo := []
  cc := 0
  nf := false
  mx := false
  lsc := 0x3F800000
  lscn := 0
  lsci := 0x7D0
  gang := 0
  cmdseq := 0
  latch := none
  openCmds := []
  openCnt := 0
  batches := []
  nextBatch := 0
  qwrites := []
  tcause := 0
  tpc := 0
  taddr := 0
  tdetail := 0
  tsite := 0
  tseq := 0
  tlane := 0
  tscr := 0
  hm := false
  pendq := []
  members := []
  drFx := 0
  drRm := 0
  drCp := 0
  vcur := vcur
  vpart := vpart
  lbase := lbase
  lsize := lsize
  runs := 0
  forced := 0
  trdly := 0
  readyAt := some t
  wait := 0
  dbgStop := false
  halted := false

end Sys2Proof.Machine
end

