-- ==== Sys2Proof/Machine/Access.lean ====
section
/-! DEFINITION. What every memory instruction shares: effective addresses and the checks of R140 in their order, the store
FIFO (R142), loads and stores at a scope (R143, R144), the scratchpad and its swizzle (R122 to R124), and atomics at their
places (R264 to R273). -/

namespace Sys2Proof.Machine

/-- A check that stops a word: a fault, or a wait at issue. -/
inductive Stop
  | fault (f : FInfo)
  | wait (w : Why)
  deriving DecidableEq, Repr
def Stop.eff (s : State) : Stop → Eff
  | .fault f => .fault s f
  | .wait w => .stall s w

/-- A lane's checked access: its address as written, the canonical address and the translation. -/
structure LaneAt where
  lane : Nat
  va : W64
  ca : Nat
  e : TlbE
  deriving DecidableEq, Repr

/-- Bytes of an access type (R139). -/
def tyBytes : MTy → Nat
  | .z8 => 1 | .s8 => 1 | .z16 => 2 | .s16 => 2 | .w32 => 4 | .w64 => 8 | .b128 => 16
/-- The effective address of a lane (R137). -/
def Group.ea (g : Group) (a : SReg) (b : Reg) (off : BitVec 12) (l : Nat) : W64 :=
  g.srcS a + (g.getV b.toNat l).setWidth 64 + off.signExtend 64
/-- The participating lanes with their addresses. -/
def Ctx.addrs (c : Ctx) (f : Nat → W64) : List (Nat × W64) := (laneList c.act).map (fun l => (l, f l))

-- ## The checks of R140

/-- Translate every lane, starting every walk that is needed (R86). -/
def State.xlateAll (s : State) (core slot : Nat) : List (Nat × W64) → State × List (Nat × W64 × XRes)
  | [] => (s, [])
  | (l, va) :: rest =>
    let r := s.xlate core slot va.toNat
    let t := State.xlateAll r.1 core slot rest
    (t.1, (l, va, r.2) :: t.2)
/-- Whether a page lacks one of the permissions of R84, by detail code (R85). -/
def State.lacks (s : State) (n : Need) (code : Nat) (e : TlbE) : Bool :=
  if code = 8 then (n == .r || n == .rw) && !e.r
  else if code = 9 then n.writes && !e.w
  else if code = 10 then n == .x && !e.x
  else !s.keyLoaded e.key
/-- The first permission check that some lane fails, with the lowest such lane. -/
def State.denied (s : State) (n : Need) (ls : List LaneAt) : Option FInfo :=
  [8, 9, 10, 11].findSome? (fun code =>
    (ls.find? (fun x => s.lacks n code x.e)).map (fun x => flt fcProtection code x.va x.lane))
/-- The lowest lane that is not naturally aligned. -/
def misaligned (n : Nat) (as : List (Nat × W64)) : Option FInfo :=
  (as.find? (fun x => x.2.toNat % n != 0)).map (fun x => flt fcMisaligned 0 x.2 x.1)
/-- Checks 3 of R140 and R71: key loads, offload states, unbacked addresses. -/
def State.pageStop (s : State) (slot : Nat) (n : Need) (ls : List LaneAt) : Option Stop :=
  match ls.find? (fun x => s.keyLoad.contains x.e.key) with
  | some x => some (.wait (.keyLoad x.e.key))
  | none =>
    match ls.find? (fun x => offWait n x.e) with
    | some x => some (.wait (.page slot x.va.toNat n.writes))
    | none =>
      match ls.find? (fun x => x.e.ofs == 2) with
      | some x => some (.fault (flt fcOffloaded 0 x.va x.lane))
      | none => (ls.find? (fun x => s.unbacked x.ca)).map (fun x => .fault (flt fcMemory 0 x.va x.lane))
/-- Every lane's translation (R86): the first that waits, or the lowest lane that has none. -/
def State.pagesAt (s : State) (core slot : Nat) (as : List (Nat × W64)) : State × Except Stop (List LaneAt) :=
  let (s, rs) := s.xlateAll core slot as
  match rs.find? (fun x => x.2.2 == .wait) with
  | some x => (s, .error (.wait (.walk slot (x.2.1.toNat / 65536))))
  | none =>
    let bads := rs.filterMap (fun x => match x.2.2 with
      | .bad f => some (flt (BitVec.ofNat 8 f.1) f.2 x.2.1 x.1)
      | _ => none)
    match bads with
    | f :: _ => (s.dropFailed core slot (as.map (fun x => x.2.toNat / 65536)), .error (.fault f))
    | [] => (s, .ok (rs.filterMap (fun x => match x.2.2 with
        | .hit e => some (⟨x.1, x.2.1, e.at_ x.2.1.toNat, e⟩ : LaneAt)
        | _ => none)))
/-- Permissions, then key loads, offload states and storage, of translated lanes (R84, R140). -/
def State.barred (s : State) (slot : Nat) (need : Need) (ls : List LaneAt) : Option Stop :=
  match s.denied need ls with
  | some f => some (.fault f)
  | none => s.pageStop slot need ls
/-- Every check of a global access of n bytes a lane (R140). -/
def State.globalAt (s : State) (core slot : Nat) (need : Need) (n : Nat) (as : List (Nat × W64)) :
    State × Except Stop (List LaneAt) :=
  match misaligned n as with
  | some f => (s, .error (.fault f))
  | none =>
    match s.pagesAt core slot as with
    | (s, .error x) => (s, .error x)
    | (s, .ok ls) =>
      match s.barred slot need ls with
      | some x => (s, .error x)
      | none => (s, .ok ls)

-- ## The scratchpad (R122 to R125)

/-- The offset after the swizzle of R124. -/
def swizzle (tswz : BitVec 4) (o : Nat) : Nat :=
  if tswz.getLsbD 3 then
    let p := tswz.toNat % 8 + 5
    let b := 11 - p
    let k := 6 - b
    let r := o / 2 ^ p
    let cl := o / 32 % 64
    let cl' := if 0 < k then cl ^^^ (r / 2 ^ b % 2 ^ k) else cl
    o / 2048 * 2048 + cl' * 32 + o % 32
  else o
/-- The offset of an access that asks for the swizzle or not. -/
def Team.off (t : Team) (swz : Bool) (o : Nat) : Nat := if swz then swizzle t.tswz o else o
/-- The bank line of an offset (R123). -/
def Team.line (t : Team) (o : Nat) : Nat := (t.base + o) / 32
/-- Bytes of a team's scratchpad, by offset after the swizzle. -/
def Team.read (t : Team) (o n : Nat) : List Byte := (List.range n).map (fun i => t.sram.get 0 (o + i))
def Team.write (t : Team) (bs : List (Nat × Byte)) : Team :=
  { t with
    sram := bs.foldl (fun m p => m.set 0 p.1 p.2) t.sram
    poison := (wholeWords (bs.map Prod.fst)).foldl (fun m w => m.set false w false) t.poison }
/-- The checks of a scratchpad access (R140): alignment, then the end of the team's region. -/
def Team.checkAt (t : Team) (wr : Bool) (n : Nat) (as : List (Nat × W64)) : Option FInfo :=
  match misaligned n as with
  | some f => some f
  | none =>
    (as.find? (fun x => decide (t.scratch * 1024 < x.2.toNat + n))).map
      (fun x => flt fcProtection (if wr then 9 else 8) x.2 x.1)

-- ## The store FIFO (R142)

/-- The byte that an entry holds for an address, global or scratchpad; the last lane's where lanes overlap. -/
def FifoE.byteAt (scr : Bool) (a : Nat) : FifoE → Option Byte
  | .global _ _ _ _ bs => if scr then none else (bs.reverse.find? (fun x => x.addr == a)).map (·.b)
  | .scratch bs => if scr then (bs.reverse.find? (fun x => x.addr == a)).map (·.b) else none
  | _ => none
/-- A reduction or a signal on its way touches bytes: their values are not known yet. -/
def FifoE.unknown (a n : Nat) : FifoE → Bool
  | .red _ w64 _ _ _ ls => ls.any (fun x => decide (x.addr < a + n) && decide (a < x.addr + (if w64 then 8 else 4)))
  | .signal _ _ _ _ x => decide (x.addr < a + n) && decide (a < x.addr + 8)
  | _ => false
/-- The youngest FIFO byte of a group. -/
def Group.fifoByte (g : Group) (scr : Bool) (a : Nat) : Option Byte := g.fifo.reverse.findSome? (FifoE.byteAt scr a)
def Group.fifoUnknown (g : Group) (ls : List LaneAt) (n : Nat) : Bool :=
  ls.any (fun x => g.fifo.any (FifoE.unknown x.ca n))
/-- Entries join the FIFO of a group in program order. -/
def State.enqueue (s : State) (gid : Nat) (es : List FifoE) : State := s.updGrp gid (fun g => { g with fifo := g.fifo ++ es })
/-- The pages that checked lanes were translated through (R91). -/
def State.via (s : State) (ls : List LaneAt) : Via := ⟨s.tick, (ls.map (fun x => (x.e.base, x.e.size))).dedup⟩
/-- The bytes of a lane. -/
def laneBytes (x : LaneAt × List Byte) : List StByte := x.2.zipIdx.map (fun b => ⟨x.1.ca + b.2, b.1⟩)
/-- The lanes of a store, ascending, those that follow each other under one page attribute together: a byte that several lanes
write keeps the highest lane's value under whatever attributes they reach it (R8). -/
def storeRuns : List (LaneAt × List Byte) → List (Attr × List StByte)
  | [] => []
  | x :: xs =>
    match storeRuns xs with
    | (a, bs) :: rest => if a = x.1.e.attr then (a, laneBytes x ++ bs) :: rest else (x.1.e.attr, laneBytes x) :: (a, bs) :: rest
    | [] => [(x.1.e.attr, laneBytes x)]
/-- The entries of one store (R142, R145). -/
def storeEntries (sc : Scope) (nol1 : Bool) (via : Via) (ls : List (LaneAt × List Byte)) : List FifoE :=
  (storeRuns ls).map (fun r => .global sc nol1 r.1 via r.2)

-- ## Loads (R143, R144)

/-- The cache policy of an access after its hint (R143). -/
def hintCp (h : Hint) (cp : Nat) : Nat :=
  match h with
  | .none => cp | .strm => 1 | .nol1 => 2
/-- The address of a lane's byte, with its page's attributes and the policy of fills, where no FIFO entry gives it. -/
def Group.wanted (g : Group) (h : Hint) (n : Nat) (x : LaneAt) : List (Attr × Nat × Nat) :=
  ((List.range n).filter (fun i => (g.fifoByte false (x.ca + i)).isNone)).map (fun i => (x.e.attr, hintCp h x.e.cp, x.ca + i))
/-- The 32-byte words that an access takes from memory, each once, with the bytes it needs of them. -/
def Group.sectors (g : Group) (h : Hint) (n : Nat) (ls : List LaneAt) : List (Attr × Nat × Nat × List Nat) :=
  let bs := (ls.flatMap (fun x => g.wanted h n x)).dedup
  ((bs.map (fun b => (b.1, b.2.1, b.2.2 / 32))).dedup).map (fun k =>
    (k.1, k.2.1, k.2.2, (bs.filter (fun b => (b.1, b.2.1, b.2.2 / 32) == k)).map (fun b => b.2.2 % 32)))
/-- Those words read at a scope, one after another: what each holds, by attributes and word. -/
def State.readSectors (s : State) (core slot : Nat) (sc : Scope) :
    List (Attr × Nat × Nat × List Nat) → State × List ((Attr × Nat) × List (Byte × Bool))
  | [] => (s, [])
  | k :: ks =>
    let r := s.sectorAt core slot k.1 k.2.1 sc k.2.2.1 k.2.2.2
    let t := State.readSectors r.1 core slot sc ks
    (t.1, ((k.1, k.2.2.1), r.2) :: t.2)
/-- One byte of a lane: from the youngest FIFO entry that holds it, else from the word read (R142, R143). -/
def Group.laneByte (g : Group) (ws : List ((Attr × Nat) × List (Byte × Bool))) (x : LaneAt) (i : Nat) : Byte × Bool :=
  match g.fifoByte false (x.ca + i) with
  | some b => (b, false)
  | none =>
    match ws.find? (fun w => w.1 == (x.e.attr, (x.ca + i) / 32)) with
    | some w => w.2.getD ((x.ca + i) % 32) (0, false)
    | none => (0, false)
/-- Every lane's bytes, and the lowest lane that consumed poison. -/
def State.readLanes (s : State) (g : Group) (sc : Scope) (h : Hint) (n : Nat) (ls : List LaneAt) :
    State × List (LaneAt × List Byte) × Option LaneAt :=
  let r := s.readSectors g.core g.ctx sc (g.sectors h n ls)
  let bytes (x : LaneAt) : List (Byte × Bool) := (List.range n).map (fun i => g.laneByte r.2 x i)
  (r.1, ls.map (fun x => (x, (bytes x).map Prod.fst)), ls.find? (fun x => (bytes x).any Prod.snd))
/-- L1 serves bytes of a lane's access (R126, R130, R143): all of a `TEAM` access that fills L1; of another one those that it
holds and that no FIFO entry gives, the dirty ones only where the access is wider, or its page has `CP` = 2. -/
def State.l1Gives (s : State) (g : Group) (sc : Scope) (cp n : Nat) (x : LaneAt) : Bool :=
  (sc == .team && cp != 2) ||
  match (s.core g.core).findLine (x.ca / 128) with
  | some l => l.slot == g.ctx && l.key == x.e.key && (List.range n).any (fun i => (g.fifoByte false (x.ca + i)).isNone
      && (if sc == .team && x.e.cp != 2 then l.has ((x.ca + i) % 128) else l.dirty.getLsbD ((x.ca + i) % 128)))
  | none => false
/-- The L1 bank lines of a load (R123, R126). -/
def State.l1Lines (s : State) (g : Group) (sc : Scope) (h : Hint) (n : Nat) (ls : List LaneAt) : List Nat :=
  bankLines ((ls.filter (fun x => s.l1Gives g sc (hintCp h x.e.cp) n x)).map (·.ca))
/-- The registers that a load writes (R139). -/
def loadRegs (ty : MTy) (d l : Nat) (bs : List Byte) : List RegWrite :=
  let v := natOf bs
  match ty with
  | .s8 => [.v d l ((BitVec.ofNat 8 v).signExtend 32)]
  | .s16 => [.v d l ((BitVec.ofNat 16 v).signExtend 32)]
  | .w64 => [.v d l (BitVec.ofNat 32 v), .v (d + 1) l (BitVec.ofNat 32 (v / 2 ^ 32))]
  | .b128 => (List.range 4).map (fun i => .v (d + i) l (BitVec.ofNat 32 (v / 2 ^ (32 * i))))
  | _ => [.v d l (BitVec.ofNat 32 v)]
/-- A load of checked lanes: `f` makes the register writes from every lane's bytes, and whether the split is demoted. A load
that consumed poison writes nothing and faults when its result is due (R141). -/
def loadEff (s : State) (c : Ctx) (sc : Scope) (acq : Bool) (h : Hint) (n : Nat) (ls : List LaneAt)
    (f : List (LaneAt × List Byte) → List RegWrite × Bool) : Eff :=
  let lines := s.l1Lines c.g sc h n ls
  if c.g.fifoUnknown ls n then .stall s .fifoEmpty
  else match s.bankFull c.g.core lines with
    | some b => .stall s (.bank c.g.core b)
    | none =>
      let r := s.readLanes c.g sc h n ls
      match s.pass r.1 false with
      | .error w => .stall w .regulator
      | .ok u =>
        match r.2.2 with
        | some x => .done u ⟨[], lines, false, some (flt fcMemory 0 x.va x.lane), false⟩
        | none =>
          let w := f r.2.1
          .done (if acq then u.acquire c.g sc else u) ⟨w.1, lines, w.2, none, false⟩

-- ## Atomics at their places (R264 to R273)

/-- A floating-point combination, its flags discarded (R266). -/
def atomF (fm : AFmt) (o : FRedOp) (old v : W64) : W64 :=
  let f (t : Num.Fmt) (x y : Nat) : Nat :=
    match o with
    | .add => (Num.op2 t .rn false (Num.add false) x y).1
    | .min => Num.minmax t false false x y
    | .max => Num.minmax t true false x y
  let pr (t : Num.Fmt) : Nat :=
    f t (old.toNat % 65536) (v.toNat % 65536) + 65536 * f t (old.toNat / 65536 % 65536) (v.toNat / 65536 % 65536)
  match fm with
  | .f32 => BitVec.ofNat 64 (f Num.fp32 (old.toNat % 2 ^ 32) (v.toNat % 2 ^ 32))
  | .bf16x2 => BitVec.ofNat 64 (pr Num.bf16)
  | .f16x2 => BitVec.ofNat 64 (pr Num.fp16)
/-- An integer combination of w-bit values (R264). -/
def atomI (o : AOp) (w : Nat) (old v : W64) : W64 :=
  let a := old.toNat % 2 ^ w
  let b := v.toNat % 2 ^ w
  let r : Nat := match o with
    | .add => (a + b) % 2 ^ w
    | .mins => if sextN a w ≤ sextN b w then a else b
    | .maxs => if sextN a w ≤ sextN b w then b else a
    | .minz => min a b
    | .maxz => max a b
    | .and => a &&& b
    | .or => a ||| b
    | .xor => a ^^^ b
    | .exch => b
    | .inc => if b ≤ a then 0 else a + 1
    | .dec => if a = 0 ∨ b < a then b else a - 1
  BitVec.ofNat 64 r
/-- The value an atomic leaves (R264, R273). -/
def AtOp.new (op : AtOp) (w64 : Bool) (old v cmp : W64) : W64 :=
  match op with
  | .int o => atomI o (if w64 then 64 else 32) old v
  | .fp fm o => atomF fm o old v
  | .cas => if old = cmp then v else old

/-- Before an atomic below L1: this core's dirty bytes of the line go to the cluster cache, and the sector it covers is no
longer valid here (R270). -/
def State.l1Yield (s : State) (core slot : Nat) (at_ : Attr) (ca : Nat) (sc : Scope) : State :=
  let s := s.l1Match core slot at_.key (ca / 128)
  match (s.core core).findLine (ca / 128) with
  | none => s
  | some l =>
    let s := if l.dirty = 0 then s
      else (s.bankPut core ((l.dirtyBytes.map (fun p => p.1 / 32)).dedup)).clWrite (core / 16) slot at_ l.dirtyBytes l.marks
    s.setCore core ((s.core core).keepLine ((if l.dirty = 0 then l else l.clean sc).invalid (1#4 <<< (ca / 32 % 4))))

/-- The place of an atomic (R98, R270): L1, the cluster unit, else the home slice. -/
def atomInL1 (sc : Scope) (cp : Nat) : Bool := sc == .team && cp != 2
def atomInCluster (sc : Scope) : Bool := sc == .team || sc == .cluster
/-- The sector of an atomic as its place holds it, for the bytes at `offs`. The home slice's copy in the core's own cluster
cache goes, so that no later access of the team finds an older value there (R329, log 36). -/
def State.placeSector (s : State) (core slot : Nat) (at_ : Attr) (sc : Scope) (w : Nat) (offs : List Nat) :
    State × List (Byte × Bool) :=
  if atomInL1 sc at_.cp then s.l1Sector core slot at_ at_.cp w offs
  else if atomInCluster sc then
    let s := s.clFill (core / 16) slot at_ w
    (s, s.clSector (core / 16) slot w)
  else
    ((s.clDrop (core / 16) w).traffick slot 0 w .atom true at_,
      (s.homeBytes at_.key (32 * w) 32).map (fun b => (b, s.homePoison (32 * w))))
def State.placeWrite (s : State) (core slot : Nat) (at_ : Attr) (sc : Scope) (bs : List (Nat × Byte)) : State :=
  if atomInL1 sc at_.cp then s.l1StoreLine core slot at_ .team false ((bs.map Prod.fst).headD 0 / 128) bs
  else if atomInCluster sc then s.clWrite (core / 16) slot at_ bs []
  else s.homeWrite at_.key bs
/-- The word of an atomic is poisoned at its place (R269): in the copy that L1 or the cluster cache holds, else at home. -/
def State.placePoison (s : State) (core slot : Nat) (at_ : Attr) (sc : Scope) (a : Nat) : Bool :=
  let cl := match (s.clus (core / 16)).find slot (a / 128) with
    | some l => if l.key = at_.key ∧ l.valid.getLsbD (a / 32 % 4) = true then some (l.poison.getLsbD (a / 32 % 4)) else none
    | none => none
  let l1 := match (s.core core).findLine (a / 128) with
    | some l => if l.slot = slot ∧ l.key = at_.key ∧ l.has (a % 128) = true then some (l.poison.getLsbD (a / 32 % 4)) else none
    | none => none
  if atomInL1 sc at_.cp then (l1.or cl).getD (s.homePoison a)
  else if atomInCluster sc then cl.getD (s.homePoison a)
  else s.homePoison a

/-- One lane's atomic on global memory: the old value, or none where it consumed poison (R269). -/
def State.atomGlobal (s : State) (core slot : Nat) (sc : Scope) (op : AtOp) (w64 : Bool) (x : AtLane) :
    State × Option W64 :=
  let n := if w64 then 8 else 4
  let s := if atomInL1 sc x.attr.cp then s else s.l1Yield core slot x.attr x.addr sc
  let r := s.placeSector core slot x.attr sc (x.addr / 32) ((List.range n).map (fun i => x.addr % 32 + i))
  let bs := (r.2.drop (x.addr % 32)).take n
  if bs.any Prod.snd then (r.1, none)
  else
    let old := BitVec.ofNat 64 (natOf (bs.map Prod.fst))
    let new := op.new w64 old x.v x.cmp
    (if op = .cas ∧ old ≠ x.cmp then r.1
      else r.1.placeWrite core slot x.attr sc ((bytesOf n new.toNat).zipIdx.map (fun b => (x.addr + b.2, b.1))), some old)
/-- One lane's atomic on a team's scratchpad. -/
def Team.atomScr (t : Team) (op : AtOp) (w64 : Bool) (x : AtLane) : Team × Option W64 :=
  let n := if w64 then 8 else 4
  if t.poison.get false (x.addr / 32) then (t, none)
  else
    let old := BitVec.ofNat 64 (natOf (t.read x.addr n))
    let new := op.new w64 old x.v x.cmp
    (if op = .cas ∧ old ≠ x.cmp then t
     else t.write ((bytesOf n new.toNat).zipIdx.map (fun b => (x.addr + b.2, b.1))), some old)

/-- Lanes performed one after another, ascending (R272): each lane's old value. -/
def State.atomLanes (s : State) (core slot : Nat) (sc : Scope) (op : AtOp) (w64 : Bool) :
    List AtLane → State × List (AtLane × Option W64)
  | [] => (s, [])
  | x :: xs =>
    let r := s.atomGlobal core slot sc op w64 x
    let t := State.atomLanes r.1 core slot sc op w64 xs
    (t.1, (x, r.2) :: t.2)
def Team.atomLanes (t : Team) (op : AtOp) (w64 : Bool) : List AtLane → Team × List (AtLane × Option W64)
  | [] => (t, [])
  | x :: xs =>
    let r := t.atomScr op w64 x
    let u := Team.atomLanes r.1 op w64 xs
    (u.1, (x, r.2) :: u.2)

end Sys2Proof.Machine
end

