-- ==== Sys2Proof/Machine/Integer.lean ====
section
/-! DEFINITION. The integer and address instructions, class 0 (R184 to R198). -/

namespace Sys2Proof.Machine

/-- `rd(x)` of R185: a w-bit operand read under its type. -/
def rdI (t : ITy) (x : W64) : Int :=
  if t.signed then sextN x.toNat t.bits else Int.ofNat (x.toNat % 2 ^ t.bits)
/-- `wr(v)` of R185: the value mod 2^w. -/
def wrI (t : ITy) (v : Int) : W64 := BitVec.ofNat 64 (wrapN v t.bits)

/-- Bounds of a type. -/
def loI (t : ITy) : Int := if t.signed then -(2 ^ (t.bits - 1) : Nat) else 0
def hiI (t : ITy) : Int := if t.signed then (2 ^ (t.bits - 1) : Nat) - 1 else (2 ^ t.bits : Nat) - 1

-- ## The functions

def fAdd (a b : Int) : Int := a + b
/-- `IMULH`: the high w bits of the product (R189). -/
def fMulh (t : ITy) (a b : Int) : Int := (a * b).fdiv (2 ^ t.bits : Nat)
/-- `ISADD` (R189): the clamped sum or difference, and `IOV`. -/
def fSat (t : ITy) (sub : Bool) (a b : Int) : Int × Fl :=
  let v := if sub then a - b else a + b
  (satI v (loI t) (hiI t), ovFlag t.signed t.bits v)
/-- Quotient and remainder of R190 with their flag. -/
def fDiv (t : ITy) (a b : Int) : Int × Int × Fl :=
  if b = 0 then ((2 ^ t.bits : Nat) - 1, a, Num.flIDZ)
  else if t.signed ∧ a = loI t ∧ b = -1 then (a, 0, Num.flIOV)
  else (a.tdiv b, a - b * a.tdiv b, 0)
/-- `IABS`, `INEG` (R191). -/
def fAbs (t : ITy) (a : Int) : Int × Fl := if a = loI t then (a, Num.flIOV) else ((a.natAbs : Int), 0)
def fNeg (t : ITy) (a : Int) : Int × Fl := if a = loI t then (a, Num.flIOV) else (-a, 0)
/-- `LOP3` (R192): bit i of the result is `LUT[A[i] + 2 B[i] + 4 C[i]]`. -/
def fLop3 (lut : BitVec 8) (a b c : W64) : W64 :=
  (List.range 8).foldl (fun r i =>
    if lut.getLsbD i then
      r ||| ((if i % 2 = 1 then a else ~~~ a) &&& (if i / 2 % 2 = 1 then b else ~~~ b) &&& (if i / 4 = 1 then c else ~~~ c))
    else r) 0
/-- Shifts and rotation by n (R193). -/
def fShl (t : ITy) (a : W64) (n : Nat) : Int := if n < t.bits then Int.ofNat (a.toNat % 2 ^ t.bits * 2 ^ n) else 0
def fShr (t : ITy) (a : W64) (n : Nat) : Int := if n < t.bits then Int.ofNat (a.toNat % 2 ^ t.bits / 2 ^ n) else 0
def fSar (t : ITy) (a : W64) (n : Nat) : Int :=
  let v := sextN a.toNat t.bits
  if n < t.bits then v.fdiv (2 ^ n : Nat) else if v < 0 then -1 else 0
def fRot (t : ITy) (right : Bool) (a : W64) (n : Nat) : Int :=
  let x := a.toNat % 2 ^ t.bits
  let k := if right then (t.bits - n % t.bits) % t.bits else n % t.bits
  Int.ofNat (x * 2 ^ k % 2 ^ t.bits + x / 2 ^ (t.bits - k))
/-- `BFX` (R194). -/
def fBfx (t : ITy) (a : W64) (b : W32) : Int :=
  let pos := b.toNat % 256
  let len := min (b.toNat / 256 % 256) t.bits
  if len = 0 then 0
  else
    let f := ((rdI t a).fdiv (2 ^ pos : Nat)).emod (2 ^ len : Nat)
    if t.signed then sextN f.toNat len else f
/-- `BFI` (R194). -/
def fBfi (t : ITy) (a : W64) (b : W32) (c : W64) : W64 :=
  let pos := b.toNat % 256
  let len := min (b.toNat / 256 % 256) t.bits
  let m := BitVec.ofNat 64 ((2 ^ len - 1) * 2 ^ pos)
  (c &&& ~~~ m) ||| (BitVec.ofNat 64 (a.toNat * 2 ^ pos) &&& m)
/-- Counts and reversal (R195). -/
def fPopc (t : ITy) (a : W64) : Nat := ((List.range t.bits).filter (fun i => a.getLsbD i)).length
def fClz (t : ITy) (a : W64) : Nat :=
  match (List.range t.bits).find? (fun i => a.getLsbD (t.bits - 1 - i)) with
  | some i => i
  | none => t.bits
def fBrev (t : ITy) (a : W64) : W64 :=
  (List.range t.bits).foldl (fun r i => if a.getLsbD i then r ||| (1#64 <<< (t.bits - 1 - i)) else r) 0
/-- Integer comparison (R196). -/
def fIcmp (c : ICmp) (a b : Int) : Bool :=
  match c with
  | .eq => decide (a = b) | .ne => decide (a ≠ b) | .lt => decide (a < b)
  | .le => decide (a ≤ b) | .gt => decide (b < a) | .ge => decide (b ≤ a)
/-- Combining with a predicate (R196). -/
def fComb (o : BOp) (t p : Bool) : Bool :=
  match o with
  | .none => t | .and => t && p | .or => t || p | .xor => t != p

-- ## The operand forms

/-- Two-operand forms: the result and flags of a lane. -/
def int2 (s : State) (h : Hdr) (o : I2) (f : W64 → W64 × Fl) : Host.Outcome State Fault Refusal :=
  aluWord s h .short o.uses false o.k (fun g l =>
    let r := f (g.src o.k o.ty.wide o.a l)
    (destW o.k o.ty.wide o.d l r.1, r.2))
/-- Three-operand forms. -/
def int3 (s : State) (h : Hdr) (lat : Lat) (flg : Bool) (o : I3) (f : W64 → W64 → W64 × Fl) :
    Host.Outcome State Fault Refusal :=
  aluWord s h lat o.uses flg o.k (fun g l =>
    let r := f (g.src o.k o.ty.wide o.a l) (g.src (o.k || o.sb) o.ty.wide o.b l)
    (destW o.k o.ty.wide o.d l r.1, r.2))
/-- Four-operand forms. -/
def int4 (s : State) (h : Hdr) (o : I4) (f : W64 → W64 → W64 → W64) : Host.Outcome State Fault Refusal :=
  aluWord s h .short o.uses false o.k (fun g l =>
    (destW o.k o.ty.wide o.d l (f (g.src o.k o.ty.wide o.a l) (g.src (o.k || o.sb) o.ty.wide o.b l)
      (g.src o.k o.ty.wide o.c l)), 0))
/-- Shifts: the amount is an immediate or the 32-bit operand B (R193). -/
def intShift (s : State) (h : Hdr) (o : I2) (n : ShAmt) (f : W64 → Nat → Int) : Host.Outcome State Fault Refusal :=
  aluWord s h .short (o.uses ++ n.uses o.k) false o.k (fun g l =>
    let k := match n with
      | .imm i => i.toNat
      | .reg sb b => (g.src32 (o.k || sb) b l).toNat
    (destW o.k o.ty.wide o.d l (wrI o.ty (f (g.src o.k o.ty.wide o.a l) k)), 0))

-- ## The instructions

/-- `NOP` (R49). -/
def execNop (h : Hdr) (s : State) : Host.Outcome State Fault Refusal :=
  aluWord s h .short [] false false (fun _ _ => ([], 0))
/-- `MOV` (R187). -/
def execMov (h : Hdr) (o : I2) (s : State) : Host.Outcome State Fault Refusal := int2 s h o (fun a => (a, 0))
/-- `MOVI` (R187). -/
def execMovi (h : Hdr) (f : MoviForm) (d : Reg) (imm : W32) (s : State) : Host.Outcome State Fault Refusal :=
  aluWord s h .short (Instr.movi h f d imm).uses false (f != .vec) (fun g l =>
    (match f with
    | .vec => [.v d.toNat l imm]
    | .sx => [.s d.toNat (imm.signExtend 64)]
    | .zx => [.s d.toNat (imm.setWidth 64)]
    | .hi => [.s d.toNat (imm ++ (g.getS d.toNat).setWidth 32)], 0))
/-- `IADD`, `ISUB`, `IMUL`, `IMULH` (R189). -/
def execIadd (h : Hdr) (o : I3) (s : State) : Host.Outcome State Fault Refusal :=
  int3 s h .short false o (fun a b => (wrI o.ty (rdI o.ty a + rdI o.ty b), 0))
def execIsub (h : Hdr) (o : I3) (s : State) : Host.Outcome State Fault Refusal :=
  int3 s h .short false o (fun a b => (wrI o.ty (rdI o.ty a - rdI o.ty b), 0))
/-- `IADDI` (R188). -/
def execIaddi (h : Hdr) (o : I2) (imm : BitVec 16) (s : State) : Host.Outcome State Fault Refusal :=
  int2 s h o (fun a => (wrI o.ty (rdI o.ty a + imm.toInt), 0))
def execImul (h : Hdr) (o : I3) (s : State) : Host.Outcome State Fault Refusal :=
  int3 s h .short false o (fun a b => (wrI o.ty (rdI o.ty a * rdI o.ty b), 0))
def execImulh (h : Hdr) (o : I3) (s : State) : Host.Outcome State Fault Refusal :=
  int3 s h .short false o (fun a b => (wrI o.ty (fMulh o.ty (rdI o.ty a) (rdI o.ty b)), 0))
/-- `IMAD` (R189). -/
def execImad (h : Hdr) (o : I4) (s : State) : Host.Outcome State Fault Refusal :=
  int4 s h o (fun a b c => wrI o.ty (rdI o.ty a * rdI o.ty b + rdI o.ty c))
/-- `IDIV`, `IREM` (R190). -/
def execIdiv (h : Hdr) (o : I3) (s : State) : Host.Outcome State Fault Refusal :=
  int3 s h .long true o (fun a b =>
    let r := fDiv o.ty (rdI o.ty a) (rdI o.ty b)
    (wrI o.ty r.1, r.2.2))
def execIrem (h : Hdr) (o : I3) (s : State) : Host.Outcome State Fault Refusal :=
  int3 s h .long true o (fun a b =>
    let r := fDiv o.ty (rdI o.ty a) (rdI o.ty b)
    (wrI o.ty r.2.1, r.2.2))
/-- `IMIN`, `IMAX`, `IABS`, `INEG` (R191). -/
def execImin (h : Hdr) (o : I3) (s : State) : Host.Outcome State Fault Refusal :=
  int3 s h .short false o (fun a b => (wrI o.ty (min (rdI o.ty a) (rdI o.ty b)), 0))
def execImax (h : Hdr) (o : I3) (s : State) : Host.Outcome State Fault Refusal :=
  int3 s h .short false o (fun a b => (wrI o.ty (max (rdI o.ty a) (rdI o.ty b)), 0))
def execIabs (h : Hdr) (o : I2) (s : State) : Host.Outcome State Fault Refusal :=
  int2 s h o (fun a => (wrI o.ty (fAbs o.ty (rdI o.ty a)).1, (fAbs o.ty (rdI o.ty a)).2))
def execIneg (h : Hdr) (o : I2) (s : State) : Host.Outcome State Fault Refusal :=
  int2 s h o (fun a => (wrI o.ty (fNeg o.ty (rdI o.ty a)).1, (fNeg o.ty (rdI o.ty a)).2))
/-- `ISADD` (R189). -/
def execIsadd (h : Hdr) (sub : Bool) (o : I3) (s : State) : Host.Outcome State Fault Refusal :=
  int3 s h .short true o (fun a b =>
    let r := fSat o.ty sub (rdI o.ty a) (rdI o.ty b)
    (wrI o.ty r.1, r.2))
/-- Logic (R192). -/
def execLop3 (h : Hdr) (lut : BitVec 8) (o : I4) (s : State) : Host.Outcome State Fault Refusal :=
  int4 s h o (fun a b c => fLop3 lut a b c)
def execAndB (h : Hdr) (o : I3) (s : State) : Host.Outcome State Fault Refusal :=
  int3 s h .short false o (fun a b => (a &&& b, 0))
def execOrB (h : Hdr) (o : I3) (s : State) : Host.Outcome State Fault Refusal :=
  int3 s h .short false o (fun a b => (a ||| b, 0))
def execXorB (h : Hdr) (o : I3) (s : State) : Host.Outcome State Fault Refusal :=
  int3 s h .short false o (fun a b => (a ^^^ b, 0))
/-- Shifts and rotation (R193). -/
def execShl (h : Hdr) (o : I2) (n : ShAmt) (s : State) : Host.Outcome State Fault Refusal := intShift s h o n (fShl o.ty)
def execShr (h : Hdr) (o : I2) (n : ShAmt) (s : State) : Host.Outcome State Fault Refusal := intShift s h o n (fShr o.ty)
def execSar (h : Hdr) (o : I2) (n : ShAmt) (s : State) : Host.Outcome State Fault Refusal := intShift s h o n (fSar o.ty)
def execRot (h : Hdr) (right : Bool) (o : I2) (n : ShAmt) (s : State) : Host.Outcome State Fault Refusal :=
  intShift s h o n (fRot o.ty right)
/-- Bit fields (R194): B is a 32-bit operand. -/
def execBfx (h : Hdr) (o : I3) (s : State) : Host.Outcome State Fault Refusal :=
  aluWord s h .short o.usesB32 false o.k (fun g l =>
    (destW o.k o.ty.wide o.d l (wrI o.ty (fBfx o.ty (g.src o.k o.ty.wide o.a l) (g.src32 (o.k || o.sb) o.b l))), 0))
def execBfi (h : Hdr) (o : I4) (s : State) : Host.Outcome State Fault Refusal :=
  aluWord s h .short o.usesB32 false o.k (fun g l =>
    (destW o.k o.ty.wide o.d l (fBfi o.ty (g.src o.k o.ty.wide o.a l) (g.src32 (o.k || o.sb) o.b l)
      (g.src o.k o.ty.wide o.c l)), 0))
/-- Counts (R195). -/
def execPopc (h : Hdr) (o : I2) (s : State) : Host.Outcome State Fault Refusal :=
  int2 s h o (fun a => (BitVec.ofNat 64 (fPopc o.ty a), 0))
def execClz (h : Hdr) (o : I2) (s : State) : Host.Outcome State Fault Refusal :=
  int2 s h o (fun a => (BitVec.ofNat 64 (fClz o.ty a), 0))
def execBrev (h : Hdr) (o : I2) (s : State) : Host.Outcome State Fault Refusal := int2 s h o (fun a => (fBrev o.ty a, 0))
/-- `ICMP` (R196): the scalar form compares once, for every participating lane, and combines the result with the lane's own `P[C]`
(log 53). -/
def execIcmp (h : Hdr) (k sb : Bool) (ty : ITy) (cmp : ICmp) (bop : BOp) (pd : PReg) (a b : Reg) (pc : PReg) (s : State) :
    Host.Outcome State Fault Refusal :=
  aluWord s h .short (Instr.icmp h k sb ty cmp bop pd a b pc).uses false false (fun g l =>
    let t := fIcmp cmp (rdI ty (g.src k ty.wide a l)) (rdI ty (g.src (k || sb) ty.wide b l))
    ([.p pd.toNat l (fComb bop t ((g.getP pc.toNat).getLsbD l))], 0))
/-- `SEL` (R197). -/
def execSel (h : Hdr) (sb : Bool) (ty : ITy) (d a b : Reg) (pc : PReg) (s : State) : Host.Outcome State Fault Refusal :=
  aluWord s h .short (Instr.sel h sb ty d a b pc).uses false false (fun g l =>
    (destW false ty.wide d l (if (g.getP pc.toNat).getLsbD l then g.src false ty.wide a l else g.src sb ty.wide b l), 0))
/-- `LEA` (R198). -/
def execLea (h : Hdr) (k sb : Bool) (sx : Bool) (sh : BitVec 3) (d a b : Reg) (s : State) :
    Host.Outcome State Fault Refusal :=
  aluWord s h .short (Instr.lea h k sb sx sh d a b).uses false k (fun g l =>
    let x := g.src32 k a l
    let i : W64 := if sx then x.signExtend 64 else x.setWidth 64
    (destW k true d l (g.src (k || sb) true b l + (i <<< sh.toNat)), 0))

end Sys2Proof.Machine
end

