-- ==== Sys2Proof/Machine/LoadStore.lean ====
section
/-! DEFINITION. The load and store instructions, class 4 (R137 to R155), and the steps that complete them (R127, R128, R142,
R151). -/

namespace Sys2Proof.Machine

-- ## Global loads and stores (R145)

/-- A load of checked lanes into the registers of its type. -/
def typedLoad (s : State) (c : Ctx) (ty : MTy) (sc : Scope) (acq : Bool) (h : Hint) (d : Reg) (ls : List LaneAt) : Eff :=
  loadEff s c sc acq h (tyBytes ty) ls (fun rs => (rs.flatMap (fun r => loadRegs ty d.toNat r.1.lane r.2), false))
/-- A load whose lanes' addresses are checked as one access; `own` is what a check of the instruction's own finds (R140). -/
def globalLoad (s : State) (c : Ctx) (ty : MTy) (sc : Scope) (acq : Bool) (h : Hint) (d : Reg) (as : List (Nat × W64))
    (own : Option FInfo) : Eff :=
  match s.globalAt c.g.core c.g.ctx .r (tyBytes ty) as with
  | (s, .error x) => x.eff s
  | (s, .ok ls) =>
    match own with
    | some f => .fault s f
    | none => typedLoad s c ty sc acq h d ls
/-- The bytes a lane stores (R139). -/
def Group.storeBytes (g : Group) (ty : MTy) (d : Reg) (l : Nat) : List Byte :=
  bytesOf (tyBytes ty) ((List.range ty.cnt).foldl (fun a i => a + (g.getV (d.toNat + i) l).toNat * 2 ^ (32 * i)) 0)
/-- A store of checked addresses: the release first, then the FIFO (R142, R144); `own` as for a load. -/
def globalStore (s : State) (c : Ctx) (ty : MTy) (sc : Scope) (rel : Bool) (h : Hint) (d : Reg) (as : List (Nat × W64))
    (own : Option FInfo) : Eff :=
  match s.globalAt c.g.core c.g.ctx .w (tyBytes ty) as with
  | (s, .error x) => x.eff s
  | (s, .ok ls) =>
    match own with
    | some f => .fault s f
    | none =>
      match relAt s c rel sc with
      | .error e => e
      | .ok s =>
        .done (s.enqueue c.gid (storeEntries sc (h == .nol1) (s.via ls) (ls.map (fun x => (x, c.g.storeBytes ty d x.lane))))) Res.nil

/-- A word that acts in each participating lane, and does nothing where none participates. -/
def memWord (s : State) (h : Hdr) (us : List Use) (body : State → Ctx → Eff) : Host.Outcome State Fault Refusal :=
  onceWord s h .long us body

def ordAcq (o : Ord4) : Bool := o == .acq || o == .ar
def ordRel (o : Ord4) : Bool := o == .rel || o == .ar

/-- `LDG`, `STG` (R145). -/
def execLdg (h : Hdr) (o : MemOp) (s : State) : Host.Outcome State Fault Refusal :=
  memWord s h (Instr.ldg h o).uses (fun s c => globalLoad s c o.ty o.sc (ordAcq o.ord) o.hnt o.d (c.addrs (c.g.ea o.a o.b o.off)) none)
def execStg (h : Hdr) (o : MemOp) (s : State) : Host.Outcome State Fault Refusal :=
  memWord s h (Instr.stg h o).uses (fun s c => globalStore s c o.ty o.sc (ordRel o.ord) o.hnt o.d (c.addrs (c.g.ea o.a o.b o.off)) none)

-- ## The scratchpad (R145)

/-- One byte of a scratchpad load: FIFO first, then the bank (R142). -/
def scrByte (g : Group) (t : Team) (a : Nat) : Byte := (g.fifoByte true a).getD (t.sram.get 0 a)
/-- `LDS` (R145). -/
def execLds (h : Hdr) (o : ScrOp) (s : State) : Host.Outcome State Fault Refusal :=
  memWord s h (Instr.lds h o).uses (fun s c =>
    match s.team c.g.tid with
    | none => .done s Res.nil
    | some t =>
      let as := c.addrs (c.g.ea o.a o.b o.off)
      let n := tyBytes o.ty
      match t.checkAt false n as with
      | some f => .fault s f
      | none =>
        let os := as.map (fun x => (x.1, x.2, t.off o.swz x.2.toNat))
        let lines := (os.map (fun x => t.line x.2.2)).dedup
        match s.bankFull c.g.core lines with
        | some b => .stall s (.bank c.g.core b)
        | none =>
          match os.find? (fun x => t.poison.get false (x.2.2 / 32)
            && (List.range n).any (fun i => (c.g.fifoByte true (x.2.2 + i)).isNone)) with
          | some x => .done s ⟨[], lines, false, some (flt fcMemory 0 x.2.1 x.1), false⟩
          | none =>
            .done s ⟨os.flatMap (fun x => loadRegs o.ty o.d.toNat x.1 ((List.range n).map (fun i => scrByte c.g t (x.2.2 + i)))),
              lines, false, none, false⟩)
/-- `STS` (R145). -/
def execSts (h : Hdr) (o : ScrOp) (s : State) : Host.Outcome State Fault Refusal :=
  memWord s h (Instr.sts h o).uses (fun s c =>
    match s.team c.g.tid with
    | none => .done s Res.nil
    | some t =>
      let as := c.addrs (c.g.ea o.a o.b o.off)
      match t.checkAt true (tyBytes o.ty) as with
      | some f => .fault s f
      | none =>
        match relAt s c (ordRel o.ord) .team with
        | .error e => e
        | .ok s =>
          .done (s.enqueue c.gid [.scratch (as.flatMap (fun x =>
            (c.g.storeBytes o.ty o.d x.1).zipIdx.map (fun b => ⟨t.off o.swz x.2.toNat + b.2, b.1⟩)))]) Res.nil)

-- ## Lane-private memory (R146)

/-- Lane-private offsets mapped to global addresses. -/
def privateAt (s : State) (c : Ctx) (as : List (Nat × W64)) : List (Nat × W64) :=
  let ti := match s.team c.g.tid with
    | some t => t.idx
    | none => 0
  let g := 16 * ti + c.g.gi
  as.map (fun x =>
    let o := x.2.toNat
    (x.1, c.g.lbase + BitVec.ofNat 64 (((g * (c.g.lsize.toNat / 16) + o / 16) * c.g.width + x.1) * 16 + o % 16)))
/-- The lowest lane whose offset passes `LSIZE`: the check of the instruction's own, after those of R140. -/
def privateBad (c : Ctx) (wr : Bool) (n : Nat) (as : List (Nat × W64)) : Option FInfo :=
  (as.find? (fun x => decide (c.g.lsize.toNat < x.2.toNat + n))).map (fun x => flt fcProtection (if wr then 9 else 8) x.2 x.1)
/-- `LDL`, `STL` (R146): alignment is that of the offset. -/
def execLdl (h : Hdr) (ty : MTy) (hnt : Hint) (d : Reg) (a : SReg) (b : Reg) (off : BitVec 12) (s : State) :
    Host.Outcome State Fault Refusal :=
  memWord s h (Instr.ldl h ty hnt d a b off).uses (fun s c =>
    let as := c.addrs (c.g.ea a b off)
    match misaligned (tyBytes ty) as with
    | some f => .fault s f
    | none => globalLoad s c ty .team false hnt d (privateAt s c as) (privateBad c false (tyBytes ty) as))
def execStl (h : Hdr) (ty : MTy) (hnt : Hint) (d : Reg) (a : SReg) (b : Reg) (off : BitVec 12) (s : State) :
    Host.Outcome State Fault Refusal :=
  memWord s h (Instr.stl h ty hnt d a b off).uses (fun s c =>
    let as := c.addrs (c.g.ea a b off)
    match misaligned (tyBytes ty) as with
    | some f => .fault s f
    | none => globalStore s c ty .team false hnt d (privateAt s c as) (privateBad c true (tyBytes ty) as))

-- ## Launch constants, polling, versioned loads (R147 to R149)

/-- A byte of the grid's constant store: zero at or beyond `PARAMLEN` (R147). -/
def State.constByte (s : State) (tid a : Nat) : Byte :=
  match s.team tid with
  | none => 0
  | some t =>
    match s.grid t.grid with
    | none => 0
    | some g => if a < g.rec_.paramlen then g.consts.getD a 0 else 0
/-- `LDC` (R147). -/
def execLdc (h : Hdr) (sd : Bool) (ty : LdcTy) (d : Reg) (a : SReg) (off : BitVec 12) (s : State) :
    Host.Outcome State Fault Refusal :=
  memWord s h (Instr.ldc h sd ty d a off).uses (fun s c =>
    let o := (c.g.srcS a + off.setWidth 64)
    let n := if ty = .w64 then 8 else 4
    if o.toNat % n ≠ 0 then .fault s (flt fcMisaligned 0 o (lowLane c.act))
    else
      let v := natOf ((List.range n).map (fun i => s.constByte c.g.tid (o.toNat + i)))
      let x : W64 := if ty = .s32 then (BitVec.ofNat 32 v).signExtend 64 else BitVec.ofNat 64 v
      .done s (Res.of (if sd then [.s d.toNat x] else (laneList c.act).flatMap (fun l => destW false (ty == .w64) d l x))))
/-- `LDP` (R148): demotes its split when every lane still reads its waiting value. -/
def execLdp (h : Hdr) (w64 : Bool) (sc : Scope) (acq : Bool) (hnt : Hint) (d : Reg) (a : SReg) (b cc : Reg) (s : State) :
    Host.Outcome State Fault Refusal :=
  memWord s h (Instr.ldp h w64 sc acq hnt d a b cc).uses (fun s c =>
    let ty : MTy := if w64 then .w64 else .w32
    match s.globalAt c.g.core c.g.ctx .r (tyBytes ty) (c.addrs (c.g.ea a b 0)) with
    | (s, .error x) => x.eff s
    | (s, .ok ls) =>
      loadEff s c sc acq hnt (tyBytes ty) ls (fun rs =>
        (rs.flatMap (fun r => loadRegs ty d.toNat r.1.lane r.2),
         rs.all (fun r => BitVec.ofNat 64 (natOf r.2) == c.g.src false w64 cc r.1.lane))))

/-- The enabled region of a context that holds an address (R379). -/
def State.regionOf (s : State) (slot va : Nat) : Option Nat :=
  (List.range 256).find? (fun k => s.vrEn k && s.vrSlot k == slot && decide (s.vrBase k ≤ va)
    && decide (va < s.vrBase k + 2 * s.vrSpan k))
/-- The address of an `LDV` lane in the copy its group reads (R149, R379), or the detail of its fault: a page that is none of
a version region, no region, or a copy that is no longer kept. -/
def State.redirect (s : State) (g : Group) (vr : Bool) (va : Nat) : Except Nat W64 :=
  if !vr then .error 1
  else match s.regionOf g.ctx va with
  | none => .error 2
  | some k =>
    if g.vcur ≠ s.vrVer k ∧ g.vcur ≠ s.vrVer k - 1 then .error 5
    else .ok (BitVec.ofNat 64 (s.vrBase k + g.vcur.toNat % 2 * s.vrSpan k + (va - s.vrBase k) % s.vrSpan k))
/-- The fault of a versioned access: the lowest lane that fails decides (R140, R379). -/
def versionFault (rs : List (LaneAt × Except Nat W64)) : Option FInfo :=
  rs.findSome? (fun x => match x.2 with
    | .error n => some (flt fcVersion n x.1.va x.1.lane)
    | .ok _ => none)
/-- Lanes in ascending order: of one lane's accesses the first given comes first. -/
def byLane (ls : List LaneAt) : List LaneAt := ls.insertionSort (fun a b => a.lane ≤ b.lane)
/-- `LDV` (R149, R379): a lane's page names its redirection, and its target is checked with it, check by check; the page of `ea`
itself is checked as well (log 52). -/
def execLdv (h : Hdr) (o : MemOp) (s : State) : Host.Outcome State Fault Refusal :=
  memWord s h (Instr.ldv h o).uses (fun s c =>
    let as := c.addrs (c.g.ea o.a o.b o.off)
    match misaligned (tyBytes o.ty) as with
    | some f => .fault s f
    | none =>
      match s.pagesAt c.g.core c.g.ctx as with
      | (s, .error x) => x.eff s
      | (s, .ok ls) =>
        let rs := ls.map (fun x => (x, s.redirect c.g x.e.vr x.va.toNat))
        match s.pagesAt c.g.core c.g.ctx (rs.filterMap (fun x => match x.2 with
          | .ok t => some (x.1.lane, t)
          | .error _ => none)) with
        | (s, .error x) => x.eff s
        | (s, .ok ts) =>
          match s.barred c.g.ctx .r (byLane (ls ++ ts)) with
          | some x => x.eff s
          | none =>
            match versionFault rs with
            | some f => .fault s f
            | none => typedLoad s c o.ty o.sc (ordAcq o.ord) o.hnt o.d ts)

-- ## Write then signal (R150)

/-- `STWS` (R150): payload and flag are checked as one access, the flag as the lowest lane's; the payload enters the FIFO, and the
signal behind it waits there for the release. -/
def execStws (h : Hdr) (ty : MTy) (sc : Scope) (sop : StwsOp) (d : Reg) (a : SReg) (b : Reg) (fl : SReg) (s : State) :
    Host.Outcome State Fault Refusal :=
  memWord s h (Instr.stws h ty sc sop d a b fl).uses (fun s c =>
    let as := c.addrs (c.g.ea a b 0)
    let flag := (lowLane c.act, c.g.srcS fl)
    match ((misaligned (tyBytes ty) (as.take 1)).or (misaligned 8 [flag])).or (misaligned (tyBytes ty) as) with
    | some f => .fault s f
    | none =>
      match s.pagesAt c.g.core c.g.ctx (as.take 1 ++ flag :: as.drop 1) with
      | (s, .error x) => x.eff s
      | (s, .ok all) =>
        match s.barred c.g.ctx .w all with
        | some x => x.eff s
        | none =>
          let ls := all.take 1 ++ all.drop 2
          let fs := (all.drop 1).take 1
          let k : Option W64 := match sop with
            | .inc => some 1
            | .addb => some (BitVec.ofNat 64 (tyBytes ty * ls.length))
            | .set => none
          .done (s.enqueue c.gid (storeEntries sc false (s.via ls) (ls.map (fun x => (x, c.g.storeBytes ty d x.lane)))
            ++ fs.map (fun x => .signal sc k ⟨c.idx, c.sp.pc⟩ (s.via fs) ⟨x.lane, x.va, x.ca, x.e.attr, 0, 0⟩))) Res.nil)

-- ## Waiting on a word (R151)

/-- The comparison of `WAITV` and `WAITM` (R151, R315). -/
def wcmp (c : WCmp) (v w : W64) : Bool :=
  match c with
  | .eq => v == w
  | .ne => v != w
  | .geu => decide (w.toNat ≤ v.toNat)
  | .ges => decide (w.toInt ≤ v.toInt)
/-- Read the word of a `WAITV`: the value with the bank lines that L1 served it from, or what stops the read. -/
def State.waitRead (s : State) (g : Group) (va : W64) (w32 : Bool) (sc : Scope) (lane : Nat) :
    State × Except Stop (W64 × List Nat) :=
  let n := if w32 then 4 else 8
  match s.globalAt g.core g.ctx .r n [(lane, va)] with
  | (s, .error x) => (s, .error x)
  | (s, .ok ls) =>
    let lines := s.l1Lines g sc .none n ls
    if g.fifoUnknown ls n then (s, .error (.wait .fifoEmpty))
    else match s.bankFull g.core lines with
      | some b => (s, .error (.wait (.bank g.core b)))
      | none =>
        let r := s.readLanes g sc .none n ls
        match r.2.2 with
        | some x => (r.1, .error (.fault (flt fcMemory 0 x.va x.lane)))
        | none =>
          match s.pass r.1 true with
          | .error w => (w, .error (.wait .regulator))
          | .ok u => (u, .ok (BitVec.ofNat 64 (natOf (r.2.1.flatMap (·.2))), lines))
/-- `WAITV` (R151): completes at once, or the split waits on the word. Its bank lines are entered either way (R128). -/
def execWaitv (h : Hdr) (cmp : WCmp) (w32 : Bool) (sc : Scope) (d a b : SReg) (s : State) :
    Host.Outcome State Fault Refusal :=
  onceWord s h .long (Instr.waitv h cmp w32 sc d a b).uses (fun s c =>
    match s.waitRead c.g (c.g.srcS a) w32 sc (lowLane c.act) with
    | (s, .error x) => x.eff s
    | (s, .ok (v, lines)) =>
      if wcmp cmp v (c.g.srcS b) then .done (s.acquire c.g sc) ⟨[.s d.toNat v], lines, false, none, false⟩
      else .pause (s.bankEnter c.g.core c.gid none lines)
        (.waiting (.word (c.g.srcS a) cmp w32 sc d.toNat (c.g.srcS b) (lowLane c.act) s.now)))
/-- The registers that a `WAITV` writes. -/
def waitDest (d : Nat) : List RName := if d = 63 then [] else [⟨.s, d⟩]
/-- A waiting `WAITV` has its value: the split goes on, and `Sd` is written once the lines of the read have been served, under the
window that the word opened (R46, R128). -/
def State.wakeResult (s : State) (gid : Nat) (sp : Split) (d : Nat) (v : W64) (lines : List Nat) : State :=
  match s.grp gid with
  | none => s
  | some g =>
    if lines.isEmpty then (s.setGrp gid (g.setS d v)).wakeSplit gid sp.idx
    else
      let old := (sp.wins.filter (fun w => w.dests == waitDest d)).getLast?
      let id := (old.map (·.id)).getD s.nextId
      let wins := match old with
        | some _ => sp.wins
        | none => sp.wins ++ (if waitDest d = [] then [] else [⟨id, 0, waitDest d⟩])
      let g := { g.putSplit { sp with wins := wins } with
        pend := g.pend ++ [⟨id, sp.idx, waitDest d, false, false, lines.length, [.s d v], none, sp.pc, s.tick⟩] }
      ((({ s with nextId := s.nextId + 1 } : State).setGrp gid g).bankEnter g.core gid (some id) lines).wakeSplit gid sp.idx
/-- The core reads the word again (R151): `unit` is the group, `sub` the split; on `on` a write has been performed on the
word's line, without it the interval of 1,024 reference cycles since the last read must have passed (R6). -/
def execWaitvReread (s : State) : Host.Outcome State Fault Refusal :=
  let gid := s.ev.unit
  match s.grp gid with
  | none => .next s
  | some g =>
    match g.split? s.ev.sub with
    | none => .next s
    | some sp =>
      match sp.st with
      | .waiting (.word va cmp w32 sc d v lane last) =>
        if g.halted || !s.ev.on && decide (s.now < last + 1024) then .next s
        else match s.waitRead g va w32 sc lane with
        | (s, .error (.fault f)) => .next (s.raise gid sp.idx f sp.pc)
        | (s, .error (.wait _)) => .next s
        | (s, .ok (x, lines)) =>
          if wcmp cmp x v then .next ((s.acquire g sc).wakeResult gid sp d x lines)
          else .next ((s.bankEnter g.core gid none lines).updGrp gid (fun g =>
            g.putSplit { sp with st := .waiting (.word va cmp w32 sc d v lane s.now) }))
      | _ => .next s

-- ## `PRF`, `CCTL`, `FENCE` (R152 to R154)

/-- What a word waits for whose walk has to wait: the key of the context's tables, or the walk (R81, R86). -/
def State.walkWhy (s : State) (slot va : Nat) : Why :=
  if s.walkHeld slot then .keyLoad (s.ctxTkey slot) else .walk slot (va / 65536)
/-- The pages of prefetched addresses that may be read, walks taken as they are needed; the others are dropped (R84, R152). Under a
key that is being replaced the word waits (R81). -/
def State.prefetchPages (s : State) (core slot : Nat) : List (Nat × W64) → State × Except Why (List LaneAt)
  | [] => (s, .ok [])
  | x :: xs =>
    match s.coreWalk core slot x.2.toNat with
    | (s, .wait) => (s, .error (s.walkWhy slot x.2.toNat))
    | (s, .bad _) => State.prefetchPages s core slot xs
    | (s, .hit e) =>
      let l : LaneAt := ⟨x.1, x.2, e.at_ x.2.toNat, e⟩
      if (s.permit .r e).isNone && s.keyLoad.contains e.key then (s, .error (.keyLoad e.key))
      else
        match State.prefetchPages s core slot xs with
        | (s, .error w) => (s, .error w)
        | (s, .ok ls) =>
          (s, .ok (if (s.permit .r e).isSome || e.ofs == 2 || offWait .r e || s.unbacked l.ca then ls else l :: ls))
/-- The four sectors of a line are fetched into a level and those between (R152). -/
def State.prefetch (s : State) (g : Group) (lvl : Nat) (x : LaneAt) : State :=
  let line := x.ca / 128
  if lvl = 0 then
    (List.range 4).foldl (fun s i => (s.l1Sector g.core g.ctx x.e.attr x.e.cp (4 * line + i) (List.range 32)).1) s
  else if lvl = 1 then (List.range 4).foldl (fun s i => s.clFill (g.core / 16) g.ctx x.e.attr (4 * line + i)) s
  else (List.range 4).foldl (fun s i => s.traffick g.ctx 0 (4 * line + i) .read true x.e.attr) s
/-- `PRF` (R152): it never faults, nor waits for an offload state. -/
def execPrf (h : Hdr) (lvl : BitVec 2) (a : SReg) (b : Reg) (off : BitVec 12) (s : State) :
    Host.Outcome State Fault Refusal :=
  memWord s h (Instr.prf h lvl a b off).uses (fun s c =>
    let as := c.addrs (c.g.ea a b off)
    match s.prefetchPages c.g.core c.g.ctx as with
    | (s, .error w) => .stall s w
    | (s, .ok ls) =>
      match s.pass (ls.foldl (fun s x => s.prefetch c.g lvl.toNat x) s) false with
      | .error w => .stall w .regulator
      | .ok u => .done (u.dropFailed c.g.core c.g.ctx (as.map (fun x => x.2.toNat / 65536))) Res.nil)

/-- The pages that a virtual range maps to, as (virtual start, virtual end, translation), walks taken as they are needed; pages that
fail are skipped (R153). -/
def State.rangePages (s : State) (core slot : Nat) : Nat → Nat → Nat → State × Except Why (List (Nat × Nat × TlbE))
  | 0, _, _ => (s, .ok [])
  | n + 1, lo, hi =>
    if hi ≤ lo then (s, .ok [])
    else
      match s.coreWalk core slot lo with
      | (s, .wait) => (s, .error (s.walkWhy slot lo))
      | (s, .bad _) => State.rangePages s core slot n (lo / 65536 * 65536 + 65536) hi
      | (s, .hit e) =>
        match State.rangePages s core slot n (e.base + e.size) hi with
        | (s, .error w) => (s, .error w)
        | (s, .ok ps) => (s, .ok ((lo, min hi (e.base + e.size), e) :: ps))
/-- The effect of `CCTL` on the lines that satisfy a test (R136). -/
def State.cctl (s : State) (core : Nat) (op : CctlOp) (p : L1Line → Bool) : State :=
  let on (s : State) (f : L1Line → L1Line) : State :=
    s.setCore core { s.core core with lines := ((s.core core).lines.map (fun l => if p l then f l else l)).filter (fun l => !l.empty) }
  let wb (s : State) : State :=
    on (((s.core core).lines.filter (fun l => p l && l.dirty != 0)).foldl (fun s l => s.writeBack core l) s) (fun l => l.clean .cluster)
  let drop (s : State) : State :=
    s.setCore core { s.core core with lines := (s.core core).lines.filter (fun l => !p l) }
  match op with
  | .wb => wb s
  | .wball => wb s
  | .inv => on s (fun l => l.invalid 15)
  | .invall => on s (fun l => l.invalid 15)
  | .wbinv => drop (wb s)
  | .wbinvall => drop (wb s)
  | .dis => drop s
/-- `CCTL` has chosen its lines: it completes, unless a regulator holds back its write-backs (R101, R136). -/
def cctlEff (s : State) (c : Ctx) (op : CctlOp) (p : L1Line → Bool) : Eff :=
  match s.pass (s.cctl c.g.core op (fun l => l.slot == c.g.ctx && p l)) false with
  | .error w => .stall w .regulator
  | .ok u => .done u Res.nil
/-- `CCTL` (R153). -/
def execCctl (h : Hdr) (op : CctlOp) (a b : SReg) (s : State) : Host.Outcome State Fault Refusal :=
  onceWord s h .long (Instr.cctl h op a b).uses (fun s c =>
    if op == .wball || op == .invall || op == .wbinvall then cctlEff s c op (fun _ => true)
    else
      let lo := (c.g.srcS a).toNat
      let hi := lo + (c.g.srcS b).toNat
      if 2 ^ 52 < hi then .fault s (flt fcTranslation 1 (c.g.srcS a) (lowLane c.act))
      else
        match s.rangePages c.g.core c.g.ctx ((hi - lo) / 65536 + 2) lo hi with
        | (s, .error w) => .stall s w
        | (s, .ok ps) =>
          let s := s.dropFailed c.g.core c.g.ctx ((s.walks.map (·.region)).filter (fun r => decide (lo / 65536 ≤ r ∧ r ≤ hi / 65536)))
          match (if op = .dis then ps.find? (fun p => !p.2.2.w) else none) with
          | some p => .fault s (flt fcProtection 9 (BitVec.ofNat 64 p.1) (lowLane c.act))
          | none => cctlEff s c op (fun l => lineInRange ps l.line))

/-- `FENCE` (R154): of any order it waits for the completion counter (R128). -/
def execFence (h : Hdr) (o : Ord4) (sc : Scope) (s : State) : Host.Outcome State Fault Refusal :=
  onceWord s h .long [] (fun s c =>
    match relAt s c (ordRel o) sc with
    | .error e => e
    | .ok s => if c.g.cc = 0 then .done (if ordAcq o then s.acquire c.g sc else s) Res.nil else .stall s .lines)

-- ## Scalar multiples (R155)

/-- The word addresses of a scalar multiple. -/
def smAddrs (c : Ctx) (a : SReg) (off : BitVec 12) (n : Nat) : List (Nat × W64) :=
  (List.range n).map (fun i => (lowLane c.act, c.g.srcS a + off.signExtend 64 + BitVec.ofNat 64 (8 * i)))
/-- `LDM`, `STM` (R155). -/
def execLdm (h : Hdr) (n : BitVec 3) (sc : Scope) (ord : Ord4) (d a : SReg) (off : BitVec 12) (s : State) :
    Host.Outcome State Fault Refusal :=
  onceWord s h .long (Instr.ldm h n sc ord d a off).uses (fun s c =>
    match s.globalAt c.g.core c.g.ctx .r 8 (smAddrs c a off (n.toNat + 1)) with
    | (s, .error x) => x.eff s
    | (s, .ok ls) =>
      loadEff s c sc (ordAcq ord) .none 8 ls (fun rs =>
        (rs.zipIdx.map (fun r => .s (d.toNat + r.2) (BitVec.ofNat 64 (natOf r.1.2))), false)))
def execStm (h : Hdr) (n : BitVec 3) (sc : Scope) (ord : Ord4) (d a : SReg) (off : BitVec 12) (s : State) :
    Host.Outcome State Fault Refusal :=
  onceWord s h .long (Instr.stm h n sc ord d a off).uses (fun s c =>
    match s.globalAt c.g.core c.g.ctx .w 8 (smAddrs c a off (n.toNat + 1)) with
    | (s, .error x) => x.eff s
    | (s, .ok ls) =>
      match relAt s c (ordRel ord) sc with
      | .error e => e
      | .ok s =>
        .done (s.enqueue c.gid (storeEntries sc false (s.via ls) (ls.zipIdx.map (fun x =>
          (x.1, bytesOf 8 (c.g.getS (d.toNat + x.2)).toNat))))) Res.nil)

-- ## The steps behind them

/-- A request that a result of a step waits for is still at a slice, a stack or its pseudo-channel (R101, R76). -/
def State.requestsOpen (s : State) (tick : Nat) : Bool :=
  let mine (t : Traffic) : Bool := t.tick == tick && t.cls == 0 && t.kind != .write
  s.traffic.any (fun e => e.2.any mine) || s.pchs.any (fun e => e.2.queue.any (fun q => mine q.1))
/-- A long-latency result is written (R44, R128): `unit` is the group, `idx` the result. Its lines have all been served, and
so have the requests it waits for. One that consumed poison faults instead (R141). -/
def execLongLatencyResult (s : State) : Host.Outcome State Fault Refusal :=
  let gid := s.ev.unit
  match s.grp gid with
  | none => .next s
  | some g =>
    match g.pend.find? (fun p => p.id == s.ev.idx) with
    | none => .next s
    | some p =>
      if p.lines ≠ 0 ∨ s.remotes.any (fun e => e.2.gid == gid && e.2.pend == some p.id) = true ∨ s.requestsOpen p.tick = true then
        .next s
      else
        let g := { g with pend := g.pend.filter (fun x => x.id != p.id) }
        match p.bad with
        | some f => .next (((s.setGrp gid g).raiseLate gid p.split f p.pc).getD s)
        | none =>
          let g := g.writes p.writes
          let g := match p.demote, g.split? p.split with
            | true, some sp => g.putSplit { sp with demote := true }
            | _, _ => g
          .next ((s.setGrp gid g).quiet gid)

/-- A bank serves the request at its head (R127): `unit` is the core, `idx` the bank. -/
def execBankQueueServe (s : State) : Host.Outcome State Fault Refusal :=
  let c := s.core s.ev.unit
  match c.bankq.get [] s.ev.idx with
  | [] => .next s
  | r :: rest =>
    let s := s.setCore s.ev.unit { c with bankq := c.bankq.set [] s.ev.idx rest }
    match r.gid with
    | none => .next s
    | some gid =>
      .next ((s.updGrp gid (fun g => { g with
        cc := g.cc - 1
        pend := updWhere g.pend (fun p => r.pend == some p.id) (fun p => { p with lines := p.lines - 1 }) })).quiet gid)

/-- Atomics of the FIFO performed (R268): where a lane consumed poison, the lowest such lane's fault is taken precisely at
their word (R269), once a split can take it (log 21). -/
def State.fifoAtoms (s : State) (gid : Nat) (g : Group) (sc : Scope) (op : AtOp) (w64 : Bool) (w : From) (ls : List AtLane) :
    Option State :=
  let r := s.atomLanes g.core g.ctx sc op w64 ls
  match r.2.find? (fun x => x.2.isNone) with
  | some x => r.1.raiseLate gid w.split (flt fcMemory 0 x.1.va x.1.lane) w.pc
  | none => some r.1

/-- The oldest entry of a group's FIFO is performed (R142): `unit` is the group. It waits while a bank queue is full (R127), or
while a regulator holds back its requests (R101, R102). -/
def execStorePerform (s : State) : Host.Outcome State Fault Refusal :=
  let gid := s.ev.unit
  match s.grp gid with
  | none => .next s
  | some g =>
    match g.fifo with
    | [] => .next s
    | e :: rest =>
      let pop (s : State) : State := s.updGrp gid (fun g => { g with fifo := rest })
      let settle (lines : List Nat) (t : Option State) : State :=
        match t with
        | some t =>
          if (s.bankFull g.core lines).isSome then s
          else match s.pass t false with
            | .error w => w
            | .ok u => (u.bankEnter g.core gid none lines).quiet gid
        | none => s
      match e with
      | .global sc nol1 at_ _ bs =>
        .next (settle (s.storeLines g.core g.ctx at_ sc nol1 (bs.map (·.addr)))
          (some ((pop s).l1Store g.core g.ctx at_ sc nol1 (bs.map (fun b => (b.addr, b.b))))))
      | .scratch bs =>
        match s.team g.tid with
        | none => .next (pop s)
        | some t =>
          .next (settle ((bs.map (fun b => t.line b.addr)).dedup)
            (some ((pop s).setTeam g.tid (t.write (bs.map (fun b => (b.addr, b.b)))))))
      | .red op w64 sc w _ ls =>
        .next (settle (bankLines ((ls.filter (fun x => atomInL1 sc x.attr.cp)).map (·.addr)))
          ((pop s).fifoAtoms gid g sc op w64 w ls))
      | .signal sc k w _ x =>
        if g.cc ≠ 0 ∨ (sc = .system ∧ s.remoteOpen gid = true) then .next s
        else
          .next (settle (bankLines (if atomInL1 sc x.attr.cp then [x.addr] else []))
            (((pop s).release g sc).fifoAtoms gid g sc (match k with
              | some _ => .int .add
              | none => .int .exch) true w [{ x with v := k.getD 1 }]))

end Sys2Proof.Machine
end

