-- ==== Sys2Proof/Machine/Atomics.lean ====
section
/-! DEFINITION. The atomics (R263 to R274). -/

namespace Sys2Proof.Machine

/-- The lanes of an atomic: operand and comparand from C (R265). -/
def atLanes (g : Group) (cas w64 : Bool) (cc : Reg) (ls : List LaneAt) : List AtLane :=
  ls.map (fun x =>
    if cas then
      if w64 then ⟨x.lane, x.va, x.ca, x.e.attr, g.getV64 (cc.toNat + 2) x.lane, g.getV64 cc.toNat x.lane⟩
      else ⟨x.lane, x.va, x.ca, x.e.attr, (g.getV (cc.toNat + 1) x.lane).setWidth 64, (g.getV cc.toNat x.lane).setWidth 64⟩
    else ⟨x.lane, x.va, x.ca, x.e.attr, g.src false w64 cc x.lane, 0⟩)
/-- What an atomic that has been performed leaves: the old values in D, demotion where a compare-and-swap failed (R273), or
the fault of the lowest lane that consumed poison (R269). -/
def atomDone (s : State) (c : Ctx) (acq : Bool) (sc : Scope) (cas w64 : Bool) (d : Option Reg) (lines : List Nat)
    (rs : List (AtLane × Option W64)) : Eff :=
  match rs.find? (fun x => x.2.isNone) with
  | some x => .fault s (flt fcMemory 0 x.1.va x.1.lane)
  | none =>
    let s := if acq then s.acquire c.g sc else s
    let ws := match d with
      | some d => rs.flatMap (fun x => destW false w64 d x.1.lane (x.2.getD 0))
      | none => []
    .done s ⟨ws, lines, cas && rs.any (fun x => x.2 != some x.1.cmp), none, false⟩
/-- An atomic that waits for older stores and is then performed (R268). -/
def atomNow (s : State) (c : Ctx) (op : AtOp) (w64 : Bool) (sc : Scope) (ord : Ord4) (d : Option Reg) (cc : Reg)
    (ls : List LaneAt) : Eff :=
  let lines := if sc = .team then bankLines ((ls.filter (fun x => x.e.cp != 2)).map (·.ca)) else []
  if !c.g.fifo.isEmpty then .stall s .fifoEmpty
  else match relAt s c (ordRel ord) sc with
    | .error e => e
    | .ok s =>
      match s.bankFull c.g.core lines with
      | some b => .stall s (.bank c.g.core b)
      | none =>
        let r := s.atomLanes c.g.core c.g.ctx sc op w64 (atLanes c.g (op == .cas) w64 cc ls)
        match s.pass r.1 false with
        | .error w => .stall w .regulator
        | .ok u => atomDone u c (ordAcq ord) sc (op == .cas) w64 d lines r.2
/-- A store on its way may clear the mark of a reduction's word before the reduction is performed (R79, R142, R270): an older
entry of the FIFO, or dirty bytes of the core's L1 that are written through first. -/
def State.mayClear (s : State) (g : Group) (sc : Scope) (x : LaneAt) : Bool :=
  g.fifo.any (fun e => match e with
    | .global _ _ _ _ bs => bs.any (fun b => b.addr / 32 == x.ca / 32)
    | _ => false)
  || (!atomInL1 sc x.e.cp && (s.core g.core).lines.any (fun l => l.line == x.ca / 128
      && (List.range 32).any (fun j => l.dirty.getLsbD (32 * (x.ca / 32 % 4) + j))))
/-- A reduction that enters the FIFO (R268): lanes whose word is poisoned at the place of the reduction fault, and the others
stand (R269); where the mark may yet go, that is found when the entry is performed (log 21). -/
def redQueue (s : State) (c : Ctx) (op : AtOp) (w64 : Bool) (sc : Scope) (cc : Reg) (ls : List LaneAt) : Eff :=
  let bad (x : LaneAt) : Bool := s.placePoison c.g.core c.g.ctx x.e.attr sc x.ca && !s.mayClear c.g sc x
  let ok := ls.filter (fun x => !bad x)
  let s' := if ok.isEmpty then s
    else s.enqueue c.gid [.red op w64 sc ⟨c.idx, c.sp.pc⟩ (s.via ok) (atLanes c.g false w64 cc ok)]
  match ls.find? bad with
  | some x => .fault s' (flt fcMemory 0 x.va x.lane)
  | none => .done s' Res.nil

/-- A global atomic word (R267). -/
def atomWord (s : State) (h : Hdr) (us : List Use) (op : AtOp) (w64 : Bool) (sc : Scope) (ord : Ord4) (d : Option Reg)
    (a : SReg) (b cc : Reg) : Host.Outcome State Fault Refusal :=
  memWord s h us (fun s c =>
    match s.globalAt c.g.core c.g.ctx .rw (if w64 then 8 else 4) (c.addrs (c.g.ea a b 0)) with
    | (s, .error x) => x.eff s
    | (s, .ok ls) =>
      if d.isSome || ordAcq ord then atomNow s c op w64 sc ord d cc ls
      else match relAt s c (ordRel ord) sc with
        | .error e => e
        | .ok s => redQueue s c op w64 sc cc ls)
/-- A scratchpad atomic word (R267, R270). -/
def atomScrWord (s : State) (h : Hdr) (us : List Use) (op : AtOp) (w64 swz : Bool) (ord : Ord4) (d : Reg) (a : SReg)
    (b cc : Reg) : Host.Outcome State Fault Refusal :=
  memWord s h us (fun s c =>
    match s.team c.g.tid with
    | none => .done s Res.nil
    | some t =>
      let as := c.addrs (c.g.ea a b 0)
      match t.checkAt true (if w64 then 8 else 4) as with
      | some f => .fault s f
      | none =>
        if !c.g.fifo.isEmpty then .stall s .fifoEmpty
        else match relAt s c (ordRel ord) .team with
          | .error e => e
          | .ok s =>
            let ls := as.map (fun x => (⟨x.1, x.2, t.off swz x.2.toNat,
              ⟨0, 0, 0, 0, 0, 0, 0, 0, false, false, false, false, false, false⟩⟩ : LaneAt))
            let lines := (ls.map (fun x => t.line x.ca)).dedup
            match s.bankFull c.g.core lines with
            | some k => .stall s (.bank c.g.core k)
            | none =>
              let r := t.atomLanes op w64 (atLanes c.g (op == .cas) w64 cc ls)
              atomDone (s.setTeam c.g.tid r.1) c (ordAcq ord) .team (op == .cas) w64 (some d) lines r.2)

/-- `ATOM`, `ATOMF`, `CAS`, `RED`, `REDF`. -/
def execAtom (h : Hdr) (op : AOp) (o : Atm) (s : State) : Host.Outcome State Fault Refusal :=
  atomWord s h (Instr.atom h op o).uses (.int op) o.w64 o.sc o.ord (some o.d) o.a o.b o.c
def execAtomf (h : Hdr) (fmt : AFmt) (op : FRedOp) (sc : Scope) (ord : Ord4) (d : Reg) (a : SReg) (b c : Reg) (s : State) :
    Host.Outcome State Fault Refusal :=
  atomWord s h (Instr.atomf h fmt op sc ord d a b c).uses (.fp fmt op) false sc ord (some d) a b c
def execCas (h : Hdr) (o : Atm) (s : State) : Host.Outcome State Fault Refusal :=
  atomWord s h (Instr.cas h o).uses .cas o.w64 o.sc o.ord (some o.d) o.a o.b o.c
def execRed (h : Hdr) (op : AOp) (w64 : Bool) (sc : Scope) (ord : Ord4) (a : SReg) (b c : Reg) (s : State) :
    Host.Outcome State Fault Refusal :=
  atomWord s h (Instr.red h op w64 sc ord a b c).uses (.int op) w64 sc ord none a b c
def execRedf (h : Hdr) (fmt : AFmt) (op : FRedOp) (sc : Scope) (ord : Ord4) (a : SReg) (b c : Reg) (s : State) :
    Host.Outcome State Fault Refusal :=
  atomWord s h (Instr.redf h fmt op sc ord a b c).uses (.fp fmt op) false sc ord none a b c
/-- `ATOMS`, `CASS`. -/
def execAtoms (h : Hdr) (op : ASOp) (w64 swz : Bool) (ord : Ord4) (d : Reg) (a : SReg) (b c : Reg) (s : State) :
    Host.Outcome State Fault Refusal :=
  atomScrWord s h (Instr.atoms h op w64 swz ord d a b c).uses (match op with
    | .int o => .int o
    | .fp o => .fp .f32 o) w64 swz ord d a b c
def execCass (h : Hdr) (w64 swz : Bool) (ord : Ord4) (d : Reg) (a : SReg) (b c : Reg) (s : State) :
    Host.Outcome State Fault Refusal :=
  atomScrWord s h (Instr.cass h w64 swz ord d a b c).uses .cas w64 swz ord d a b c

end Sys2Proof.Machine
end

