-- ==== Sys2Proof/Machine/Special.lean ====
section
/-! DEFINITION. The special functions (R224): the exact and special cases, and for every other argument any FP32 value within
the bound of the table. The function's value is computed in fixed point far finer than the bound; which value inside the
bound the device returns is free (log 7). -/

namespace Sys2Proof.Num

/-- The special functions in opcode order. -/
inductive SFn | rcp | rsq | ex2 | lg2 | sin | cos | tanh | erf
  deriving DecidableEq, Repr
def SFn.code : SFn → Nat
  | .rcp => 0x48 | .rsq => 0x49 | .ex2 => 0x4A | .lg2 => 0x4B | .sin => 0x4C | .cos => 0x4D | .tanh => 0x4E | .erf => 0x4F

/-- One in fixed point. -/
def fxOne : Nat := 2 ^ 320
/-- π in fixed point, rounded down. -/
def fxPi : Nat :=
  6710401180212168915155840974220003240804194089427148950727106424351713218671805380099500388914039
/-- A signed value in fixed point. -/
def toFx (neg : Bool) (n d : Nat) : Int := sgnI neg (n * fxOne / d)
def fxMul (a b : Int) : Int := (a * b).tdiv fxOne
def ofFx (v : Int) : XV := .fin (decide (v < 0)) v.natAbs fxOne

/-- `Σ x^k / k!` (`step` 1), or its even or odd alternating part (`step` 2, sign -1), from a first term and its index. -/
def fxSeries (x2 : Int) (step : Nat) (sg : Int) : Nat → Nat → Int → Int → Int
  | 0, _, _, acc => acc
  | fuel + 1, k, t, acc =>
    let t' := sg * (fxMul t x2).tdiv (if step = 1 then k + 1 else (k + 1) * (k + 2) : Nat)
    fxSeries x2 step sg fuel (k + step) t' (acc + t')
/-- e^x for |x| below 20. -/
def fxExp (x : Int) : Int := fxSeries x 1 1 200 0 fxOne fxOne
/-- ln 2. -/
def fxLn2 : Nat := (List.range 330).foldl (fun a k => a + fxOne / ((k + 1) * 2 ^ (k + 1))) 0
/-- The argument reduced to [0, 2π). -/
def fxReduce (neg : Bool) (n d : Nat) : Int := (toFx neg n d).emod (2 * fxPi : Nat)
def fxSin (x : Int) : Int := fxSeries (fxMul x x) 2 (-1) 60 1 x x
def fxCos (x : Int) : Int := fxSeries (fxMul x x) 2 (-1) 60 0 fxOne fxOne
/-- `Σ (-1)^k x^(2k+1) / (k! (2k+1))`. -/
def fxErfSum (x2 : Int) : Nat → Nat → Int → Int → Int
  | 0, _, _, acc => acc
  | fuel + 1, k, p, acc =>
    let p' := -((fxMul p x2).tdiv (k + 1 : Nat))
    fxErfSum x2 fuel (k + 1) p' (acc + p'.tdiv (2 * k + 3 : Nat))
def fxErf (x : Int) : Int :=
  let s := fxErfSum (fxMul x x) 160 0 x x
  (2 * s * fxOne).tdiv (isqrt (fxPi * fxOne))
/-- Binary digits of log2 of m in [1, 2). -/
def fxLogBits : Nat → Nat → Nat → Nat
  | 0, _, acc => acc
  | fuel + 1, m, acc =>
    let q := m * m / fxOne
    if 2 * fxOne ≤ q then fxLogBits fuel (q / 2) (2 * acc + 1) else fxLogBits fuel q (2 * acc)

/-- The value of a function at a finite nonzero argument outside its special cases. -/
def SFn.value (f : SFn) (neg : Bool) (n d : Nat) : XV :=
  match f with
  | .rcp => .fin neg d n
  | .rsq => (sqrt (.fin false d n)).1
  | .ex2 =>
    let i := (sgnI neg n).fdiv d
    let fr := (sgnI neg n).fmod d
    if 200 < i then .fin false (2 ^ 200) 1
    else if i < -200 then .fin false 1 (2 ^ 200)
    else scale2 (ofFx (fxExp ((fr * fxLn2).tdiv d))) i
  | .lg2 =>
    let e := floorLog2 n d
    let m := if 0 ≤ e then n * fxOne / (d * 2 ^ e.toNat) else n * fxOne * 2 ^ (-e).toNat / d
    let v : Int := e * 2 ^ 80 + fxLogBits 80 m 0
    .fin (decide (v < 0)) v.natAbs (2 ^ 80)
  | .sin => ofFx (fxSin (fxReduce neg n d))
  | .cos => ofFx (fxCos (fxReduce neg n d))
  | .tanh =>
    let y := fxExp (2 * toFx false n d)
    ofFx (sgnI neg (((y - fxOne) * fxOne).tdiv (y + fxOne)).natAbs)
  | .erf => ofFx (sgnI neg (fxErf (toFx false n d)).natAbs)

/-- A power of two, and its exponent. -/
def pow2? (n d : Nat) : Option Int :=
  let e := floorLog2 n d
  if (if 0 ≤ e then n == d * 2 ^ e.toNat else n * 2 ^ (-e).toNat == d) then some e else none
/-- The arguments whose results the table lists as exact. -/
def SFn.exact (f : SFn) (neg : Bool) (n d : Nat) : Bool :=
  match f with
  | .rcp => (pow2? n d).isSome
  | .rsq => match pow2? n d with
    | some e => e % 2 == 0
    | none => false
  | .ex2 => n % d == 0 && decide (-149 ≤ sgnI neg (n / d)) && decide (sgnI neg (n / d) ≤ 127)
  | .lg2 => (pow2? n d).isSome
  | _ => false
/-- The exact value where the table lists one. -/
def SFn.exactValue (f : SFn) (neg : Bool) (n d : Nat) : XV :=
  match f with
  | .ex2 => scale2 (.fin false 1 1) (sgnI neg (n / d))
  | .lg2 => ofInt ((pow2? n d).getD 0)
  | .rsq => scale2 (.fin false 1 1) (-((pow2? n d).getD 0 / 2))
  | _ => f.value neg n d

/-- Distance of two finite values at most b. -/
def near (x y b : XV) : Bool :=
  match (add false x y.flip).1, b with
  | .fin s n d, b => !lt b (XV.abs (.fin s n d))
  | _, _ => false
/-- One unit in the last place of an FP32 code. -/
def ulpOf (code : Nat) : XV :=
  let e := code / 2 ^ 23 % 256
  mk2 false 1 ((max e 1 : Nat) - 150)
/-- The error bound of the table at an exact result v whose nearest FP32 value has a code. -/
def SFn.bound (f : SFn) (n d code : Nat) : XV :=
  let u := ulpOf code
  match f with
  | .rcp => u
  | .sin => .fin false 1 (2 ^ 22)
  | .cos => .fin false 1 (2 ^ 22)
  | .lg2 => if decide (d ≤ 2 * n) && decide (n ≤ 2 * d) then .fin false 1 (2 ^ 22) else scale2 u 1
  | _ => scale2 u 1

/-- A result within the bound: the free value where it lies inside, else the nearest (log 7). -/
def SFn.pick (f : SFn) (n d : Nat) (v : XV) (free : W32) : W32 × Fl :=
  let r := fp32.round .rn 0 v
  if fp32.maxCode < r.1 % 2 ^ 31 then (BitVec.ofNat 32 r.1, flOF ||| flNX)
  else
    let ok := (dec32 free).finite && near (dec32 free) v (f.bound n d r.1)
    let c := if ok then free.toNat else r.1
    (BitVec.ofNat 32 c, flNX ||| (if c % 2 ^ 31 < 2 ^ 23 then flUF else 0))

/-- A special function of an FP32 word (R224). -/
def SFn.eval (f : SFn) (ftz : Bool) (a : W32) : W32 × Fl :=
  let a' := BitVec.ofNat 32 (flushIn fp32 ftz a.toNat)
  let nan : W32 := 0x7FC00000
  let sgn : W32 := a' &&& 0x80000000
  let res : W32 × Fl :=
    match dec32 a' with
    | .nan => (nan, 0)
    | .inf neg =>
      match f with
      | .rcp => (sgn, 0)
      | .rsq => if neg then (nan, flNV) else (0, 0)
      | .ex2 => if neg then (0, 0) else (0x7F800000, 0)
      | .lg2 => if neg then (nan, flNV) else (0x7F800000, 0)
      | .sin => (nan, flNV)
      | .cos => (nan, flNV)
      | .tanh => (sgn ||| 0x3F800000, 0)
      | .erf => (sgn ||| 0x3F800000, 0)
    | .fin neg n d =>
      if n = 0 then
        match f with
        | .rcp => (sgn ||| 0x7F800000, flDZ)
        | .rsq => (sgn ||| 0x7F800000, flDZ)
        | .ex2 => (0x3F800000, 0)
        | .lg2 => (0xFF800000, flDZ)
        | .cos => (0x3F800000, 0)
        | _ => (a', 0)
      else if (f = .rsq ∨ f = .lg2) ∧ neg = true then (nan, flNV)
      else if f = .tanh ∧ 91 * d ≤ 10 * n then (sgn ||| 0x3F800000, flNX)
      else if f = .erf ∧ 392 * d ≤ 100 * n then (sgn ||| 0x3F800000, flNX)
      else if f.exact neg n d then rnd32 .rn (f.exactValue neg n d)
      else f.pick n d (f.value neg n d) (Config.special f.code a')
  let out := flushOut fp32 ftz (res.1.toNat, res.2)
  (BitVec.ofNat 32 out.1, out.2)

end Sys2Proof.Num
end

