-- ==== Sys2Proof/Machine/Float.lean ====
section
/-! DEFINITION. The floating-point, conversion and fused-expression instructions: class 1 and `0x40`-`0x4F` of class 2 (R199 to
R224). -/

namespace Sys2Proof.Machine

open Sys2Proof.Num

/-- The canonical FP32 NaN (R166). -/
def nan32 : W32 := 0x7FC00000

-- ## The functions

/-- A code and flags as a 32-bit result. -/
def w32 (r : Nat × Fl) : W32 × Fl := (BitVec.ofNat 32 r.1, r.2)
/-- FP32 arithmetic of one rounding (R203). -/
def fBin (rm : RM) (ftz : Bool) (f : XV → XV → XV × Fl) (a b : W32) : W32 × Fl :=
  w32 (op2 fp32 rm ftz f a.toNat b.toNat)
def fTri (rm : RM) (ftz : Bool) (f : XV → XV → XV → XV × Fl) (a b c : W32) : W32 × Fl :=
  w32 (op3 fp32 rm ftz f a.toNat b.toNat c.toNat)
/-- The exact functions of R203 under a mode. -/
def xAdd (rm : RM) (x y : XV) : XV × Fl := Num.add (rm == .rd) x y
def xSub (rm : RM) (x y : XV) : XV × Fl := Num.add (rm == .rd) x y.flip
def xFma (rm : RM) (x y z : XV) : XV × Fl := Num.fma (rm == .rd) x y z
def xFms (rm : RM) (x y z : XV) : XV × Fl := Num.fma (rm == .rd) x y z.flip
/-- `FMIN` and `FMAX` (R204). -/
def fMinMax (max' ftz : Bool) (a b : W32) : W32 := BitVec.ofNat 32 (minmax fp32 max' ftz a.toNat b.toNat)
/-- `FABS`, `FNEG` and `FSIGN` (R205): a NaN gives the canonical NaN. -/
def fSign (a sign : W32) : W32 :=
  if (dec32 a).isNan then nan32 else (a &&& 0x7FFFFFFF) ||| (sign &&& 0x80000000)
/-- `FCMP` (R206). -/
def fFcmp (c : FCmp) (ftz : Bool) (a b : W32) : Bool :=
  let x := fp32.decode (flushIn fp32 ftz a.toNat)
  let y := fp32.decode (flushIn fp32 ftz b.toNat)
  let un := x.isNan || y.isNan
  match c with
  | .eq => Num.eq x y
  | .ne => !Num.eq x y
  | .lt => lt x y
  | .le => !un && !lt y x
  | .gt => lt y x
  | .ge => !un && !lt x y
  | .un => un
  | .num => !un
/-- `FCLASS` (R207). -/
def fClass (a : W32) : W32 :=
  let mag := a.toNat % 2 ^ 31
  let i := if 0x7F800000 < mag then 8 else if mag = 0x7F800000 then 7 else if 2 ^ 23 ≤ mag then 6 else if 0 < mag then 5 else 4
  1#32 <<< (if i = 8 then 8 else if a.getLsbD 31 then 7 - i else i)
/-- `FRND` (R208). -/
def fRnd (rm : RM) (ftz : Bool) (a : W32) : W32 × Fl :=
  let a' := flushIn fp32 ftz a.toNat
  match fp32.decode a' with
  | .fin neg n d =>
    let (k, ix) := roundMag rm 0 neg n d
    (BitVec.ofNat 32 (fp32.round .rn 0 (.fin neg k 1)).1, if ix then flNX else 0)
  | .inf _ => (BitVec.ofNat 32 a', 0)
  | .nan => (nan32, 0)
/-- `FSCALE` (R208); beyond 600 the power of two only overflows or vanishes. -/
def fScale (rm : RM) (ftz : Bool) (a b : W32) : W32 × Fl :=
  w32 (op2 fp32 rm ftz (fun x _ => (scale2 x (satI b.toInt (-600) 600), 0)) a.toNat 0)
/-- Both 16-bit elements (R209), flags ORed. -/
def fPair (f : Nat → Nat → Nat → Nat × Fl) (a b c : W32) : W32 × Fl :=
  let lo := f (a.toNat % 65536) (b.toNat % 65536) (c.toNat % 65536)
  let hi := f (a.toNat / 65536) (b.toNat / 65536) (c.toNat / 65536)
  (BitVec.ofNat 32 (lo.1 + 65536 * hi.1), lo.2 ||| hi.2)

-- ## `XPR` (R210)

/-- The sources of an expression. -/
structure XprIn where
  a : W32
  b : W32
  c : W32
  d : W32
  deriving DecidableEq, Repr
/-- One token on the stack, top first, with the flags so far. -/
def xprTok (x : XprIn) (rm : RM) (ftz : Bool) (t : Nat) (st : List W32 × Fl) : List W32 × Fl :=
  let put (r : W32 × Fl) (rest : List W32) : List W32 × Fl := (r.1 :: rest, st.2 ||| r.2)
  let fl (v : W32) : W32 := BitVec.ofNat 32 (flushIn fp32 ftz v.toNat)
  match t, st.1 with
  | 1, s => (x.a :: s, st.2)
  | 2, s => (x.b :: s, st.2)
  | 3, s => (x.c :: s, st.2)
  | 4, s => (x.d :: s, st.2)
  | 5, s => (0 :: s, st.2)
  | 6, s => (0x3F800000 :: s, st.2)
  | 7, s => (0x3F000000 :: s, st.2)
  | 8, s => (0xBF800000 :: s, st.2)
  | 9, y :: s => (y :: y :: s, st.2)
  | 10, y :: z :: s => (z :: y :: s, st.2)
  | 11, y :: z :: s => put (fBin rm ftz (xAdd rm) z y) s
  | 12, y :: z :: s => put (fBin rm ftz (xSub rm) z y) s
  | 13, y :: z :: s => put (fBin rm ftz mul z y) s
  | 14, w :: y :: z :: s => put (fTri rm ftz (xFma rm) z y w) s
  | 15, y :: z :: s => (fMinMax false ftz z y :: s, st.2)
  | 16, y :: z :: s => (fMinMax true ftz z y :: s, st.2)
  | 17, y :: s => (fSign (fl y) (~~~ fl y) :: s, st.2)
  | 18, y :: s => (fSign (fl y) 0 :: s, st.2)
  | 19, y :: s => (fMinMax true ftz y 0 :: s, st.2)
  | 20, y :: s => put (fBin rm ftz mul y y) s
  | _, _ => st
/-- The value and flags of an expression. -/
def xprEval (x : XprIn) (rm : RM) (ftz : Bool) (toks : BitVec 60) : W32 × Fl :=
  let r := (xprProgram toks).foldl (fun st t => xprTok x rm ftz t st) ([], 0)
  (r.1.headD 0, r.2)

-- ## The operand forms

/-- Two-, three- and four-operand forms. -/
def flt2 (s : State) (h : Hdr) (lat : Lat) (o : F2) (f : W32 → W32 × Fl) : Host.Outcome State Fault Refusal :=
  aluWord s h lat o.uses true o.k (fun g l =>
    let r := f (g.src32 o.k o.a l)
    (dest32 o.k o.d l r.1, r.2))
def flt3 (s : State) (h : Hdr) (lat : Lat) (o : F3) (f : W32 → W32 → W32 × Fl) : Host.Outcome State Fault Refusal :=
  aluWord s h lat o.uses true o.k (fun g l =>
    let r := f (g.src32 o.k o.a l) (g.src32 (o.k || o.sb) o.b l)
    (dest32 o.k o.d l r.1, r.2))
def flt4 (s : State) (h : Hdr) (lat : Lat) (o : F4) (f : W32 → W32 → W32 → W32 × Fl) : Host.Outcome State Fault Refusal :=
  aluWord s h lat o.uses true o.k (fun g l =>
    let r := f (g.src32 o.k o.a l) (g.src32 (o.k || o.sb) o.b l) (g.src32 o.k o.c l)
    (dest32 o.k o.d l r.1, r.2))
/-- Packed forms in a format (R209). -/
def pair3 (s : State) (h : Hdr) (o : F3) (f : Nat → Nat → Nat × Fl) : Host.Outcome State Fault Refusal :=
  flt3 s h .short o (fun a b => fPair (fun x y _ => f x y) a b 0)
/-- A conversion, with its random word; `ok` says that the format codes are accepted (R179, R216). -/
def cvtWord (s : State) (h : Hdr) (us : List Use) (flg k : Bool) (ok : Group → Bool) (f : Group → Nat → List RegWrite × Fl) :
    Host.Outcome State Fault Refusal :=
  issue s h .long us (flg && !h.q) 1 (fun s c =>
    if ok c.g then .done s (Res.of (laneWork k h.q c.act (f c.g))) else .fault s (flt fcFormat))
/-- The random word r (R200). -/
def Group.rnd (g : Group) (k : Bool) (rm : RM) (r : Reg) (lane : Nat) : W32 := if rm = .rs then g.src32 k r lane else 0
/-- A special function (R224). -/
def special (s : State) (h : Hdr) (f : SFn) (ftz : Bool) (d a : Reg) : Host.Outcome State Fault Refusal :=
  aluWord s h .long [Use.wv d, Use.rv a] true false (fun g l =>
    let r := f.eval ftz (g.getV a.toNat l)
    (dest32 false d l r.1, r.2))

-- ## Class 1

/-- `FADD`, `FSUB`, `FMUL`, `FFMA`, `FFMS` (R203). -/
def execFadd (h : Hdr) (o : F3) (s : State) : Host.Outcome State Fault Refusal :=
  flt3 s h .short o (fBin o.rm o.ftz (xAdd o.rm))
def execFsub (h : Hdr) (o : F3) (s : State) : Host.Outcome State Fault Refusal :=
  flt3 s h .short o (fBin o.rm o.ftz (xSub o.rm))
def execFmul (h : Hdr) (o : F3) (s : State) : Host.Outcome State Fault Refusal :=
  flt3 s h .short o (fBin o.rm o.ftz mul)
def execFfma (h : Hdr) (o : F4) (s : State) : Host.Outcome State Fault Refusal :=
  flt4 s h .short o (fTri o.rm o.ftz (xFma o.rm))
def execFfms (h : Hdr) (o : F4) (s : State) : Host.Outcome State Fault Refusal :=
  flt4 s h .short o (fTri o.rm o.ftz (xFms o.rm))
/-- `FMIN`, `FMAX` (R204). -/
def execFmin (h : Hdr) (k sb ftz : Bool) (d a b : Reg) (s : State) : Host.Outcome State Fault Refusal :=
  flt3 s h .short ⟨k, sb, .rn, ftz, d, a, b⟩ (fun x y => (fMinMax false ftz x y, 0))
def execFmax (h : Hdr) (k sb ftz : Bool) (d a b : Reg) (s : State) : Host.Outcome State Fault Refusal :=
  flt3 s h .short ⟨k, sb, .rn, ftz, d, a, b⟩ (fun x y => (fMinMax true ftz x y, 0))
/-- `FABS`, `FNEG`, `FSIGN` (R205). -/
def execFabs (h : Hdr) (k : Bool) (d a : Reg) (s : State) : Host.Outcome State Fault Refusal :=
  flt2 s h .short ⟨k, .rn, false, d, a⟩ (fun x => (fSign x 0, 0))
def execFneg (h : Hdr) (k : Bool) (d a : Reg) (s : State) : Host.Outcome State Fault Refusal :=
  flt2 s h .short ⟨k, .rn, false, d, a⟩ (fun x => (fSign x (~~~ x), 0))
def execFsign (h : Hdr) (k sb : Bool) (op : SOp) (d a b : Reg) (s : State) : Host.Outcome State Fault Refusal :=
  flt3 s h .short ⟨k, sb, .rn, false, d, a, b⟩ (fun x y =>
    (fSign x (match op with | .cp => y | .neg => ~~~ y | .xor => x ^^^ y), 0))
/-- `FCMP` (R206): the scalar form compares once, for every participating lane, and combines the result with the lane's own `P[C]`
(log 53). -/
def execFcmp (h : Hdr) (k sb ftz : Bool) (cmp : FCmp) (bop : BOp) (pd : PReg) (a b : Reg) (pc : PReg) (s : State) :
    Host.Outcome State Fault Refusal :=
  aluWord s h .short (Instr.fcmp h k sb ftz cmp bop pd a b pc).uses false false (fun g l =>
    let t := fFcmp cmp ftz (g.src32 k a l) (g.src32 (k || sb) b l)
    ([.p pd.toNat l (fComb bop t ((g.getP pc.toNat).getLsbD l))], 0))
/-- `FCLASS` (R207). -/
def execFclass (h : Hdr) (k : Bool) (d a : Reg) (s : State) : Host.Outcome State Fault Refusal :=
  flt2 s h .short ⟨k, .rn, false, d, a⟩ (fun x => (fClass x, 0))
/-- `FRND`, `FSCALE`, `FDIV`, `FSQRT` (R208). -/
def execFrnd (h : Hdr) (o : F2) (s : State) : Host.Outcome State Fault Refusal :=
  flt2 s h .short o (fRnd o.rm o.ftz)
def execFscale (h : Hdr) (o : F3) (s : State) : Host.Outcome State Fault Refusal :=
  flt3 s h .short o (fScale o.rm o.ftz)
def execFdiv (h : Hdr) (o : F3) (s : State) : Host.Outcome State Fault Refusal :=
  flt3 s h .long o (fBin o.rm o.ftz div)
def execFsqrt (h : Hdr) (o : F2) (s : State) : Host.Outcome State Fault Refusal :=
  flt2 s h .long o (fun a => fBin o.rm o.ftz (fun x _ => sqrt x) a 0)
/-- Packed 16-bit pairs (R209). -/
def execBadd2 (h : Hdr) (o : F3) (s : State) : Host.Outcome State Fault Refusal :=
  pair3 s h o (op2 bf16 o.rm o.ftz (xAdd o.rm))
def execBmul2 (h : Hdr) (o : F3) (s : State) : Host.Outcome State Fault Refusal := pair3 s h o (op2 bf16 o.rm o.ftz mul)
def execBfma2 (h : Hdr) (o : F4) (s : State) : Host.Outcome State Fault Refusal :=
  flt4 s h .short o (fPair (op3 bf16 o.rm o.ftz (xFma o.rm)))
def execBmin2 (h : Hdr) (o : F3) (s : State) : Host.Outcome State Fault Refusal :=
  pair3 s h o (fun a b => (minmax bf16 false o.ftz a b, 0))
def execBmax2 (h : Hdr) (o : F3) (s : State) : Host.Outcome State Fault Refusal :=
  pair3 s h o (fun a b => (minmax bf16 true o.ftz a b, 0))
def execHadd2 (h : Hdr) (o : F3) (s : State) : Host.Outcome State Fault Refusal :=
  pair3 s h o (op2 fp16 o.rm o.ftz (xAdd o.rm))
def execHmul2 (h : Hdr) (o : F3) (s : State) : Host.Outcome State Fault Refusal := pair3 s h o (op2 fp16 o.rm o.ftz mul)
def execHfma2 (h : Hdr) (o : F4) (s : State) : Host.Outcome State Fault Refusal :=
  flt4 s h .short o (fPair (op3 fp16 o.rm o.ftz (xFma o.rm)))
/-- `XPR` (R210, R211): two words; the body's `E` ends the run. -/
def execXpr (h : Hdr) (o : F4) (bodyE : Bool) (toks : BitVec 60) (s : State) : Host.Outcome State Fault Refusal :=
  issue s { h with e := bodyE } .long (xprUses o toks) (!h.q) 2 (fun s c =>
    .done s (Res.of (laneWork false h.q c.act (fun l =>
      let r := xprEval ⟨c.g.getV o.a.toNat l, c.g.src32 o.sb o.b l, c.g.getV o.c.toNat l, c.g.getV o.d.toNat l⟩ o.rm o.ftz toks
      (dest32 false o.d l r.1, r.2)))))

/-- A lane's operand holds a non-finite element: one FP32 value, or two BF16 elements (R213, R214). -/
def nonFinite (bf2 : Bool) (a : W32) : Bool :=
  if bf2 then !(bf16.decode (a.toNat % 65536)).finite || !(bf16.decode (a.toNat / 65536)).finite
  else !(dec32 a).finite
/-- One element times or over the loss scale (R213). -/
def lscaleElem (f : Fmt) (dv : Bool) (rm : RM) (ftz : Bool) (lsc : W32) (x : Nat) : Nat × Fl :=
  let v := f.decode (flushIn f ftz x)
  let r := if dv then div v (dec32 lsc) else mul v (dec32 lsc)
  let o := flushOut f ftz (f.round rm 0 r.1)
  (o.1, o.2 ||| r.2)
/-- `LSCALE` (R213, R215): `NF` is updated at issue. -/
def execLscale (h : Hdr) (dv bf2 : Bool) (o : F2) (s : State) : Host.Outcome State Fault Refusal :=
  issue s h .long o.uses (!h.q) 1 (fun s c =>
    let bad := (laneList c.act).any (fun l => nonFinite bf2 (c.g.getV o.a.toNat l))
    let s := if bad then s.updGrp c.gid (fun g => { g with nf := true }) else s
    .done s (Res.of (laneWork false h.q c.act (fun l =>
      let a := c.g.getV o.a.toNat l
      let r := if bf2 then fPair (fun x _ _ => lscaleElem bf16 dv o.rm o.ftz c.g.lsc x) a 0 0
        else w32 (lscaleElem fp32 dv o.rm o.ftz c.g.lsc a.toNat)
      (dest32 false o.d l r.1, r.2)))))

/-- The `OVF` CSR (R212). -/
def Group.ovf (g : Group) : W32 := (if g.nf then 2 else 0) ||| (if g.mx then 1 else 0)
/-- `OVF.step` (R214). -/
def Group.ovfStep (g : Group) : Group :=
  let g' :=
    if g.ovf ≠ 0 then
      let half := scale2 (dec32 g.lsc) (-1)
      { g with lsc := if lt half (.fin false 1 (2 ^ 24)) then g.lsc else (rnd32 .rn half).1, lscn := 0 }
    else
      let n := g.lscn + 1
      if g.lsci ≠ 0 ∧ g.lsci.toNat ≤ n.toNat then
        let dbl := scale2 (dec32 g.lsc) 1
        { g with lsc := if lt (.fin false (2 ^ 24) 1) dbl then 0x4B800000 else (rnd32 .rn dbl).1, lscn := 0 }
      else { g with lscn := n }
  { g' with nf := false, mx := false }
/-- `OVF` (R214): acts once, when a lane participates. -/
def execOvf (h : Hdr) (op : OvfOp) (bf2 : Bool) (d a : Reg) (s : State) : Host.Outcome State Fault Refusal :=
  issue s h .long (Instr.ovf h op bf2 d a).uses false 1 (fun s c =>
    if c.act = 0 then .done s Res.nil
    else
      let g' := match op with
        | .chk => { c.g with nf := c.g.nf || (laneList c.act).any (fun l => nonFinite bf2 (c.g.getV a.toNat l)) }
        | .rd => c.g
        | .step => c.g.ovfStep
      let v : W32 := match op with
        | .chk => g'.ovf
        | .rd => g'.ovf
        | .step => if c.g.ovf = 0 then 0 else 1
      let s := s.updGrp c.gid (fun g => { g with nf := g'.nf, mx := g'.mx, lsc := g'.lsc, lscn := g'.lscn })
      .done s (Res.of ((laneList c.act).map (fun l => .v d.toNat l v))))

-- ## Conversions (R216 to R223)

/-- The element of k bits at position `pos` of a register. -/
def elemAt (code pos : Nat) (a : W32) : Nat := a.toNat / 2 ^ (elemBits code * pos) % 2 ^ elemBits code

/-- `CVT` (R217). -/
def execCvt (h : Hdr) (df sf : BitVec 4) (o : Cv) (s : State) : Host.Outcome State Fault Refusal :=
  cvtWord s h (Instr.cvt h df sf o).uses true o.k (fun _ => decide (df.toNat ≤ 8) && decide (sf.toNat ≤ 8)) (fun g l =>
    let r := roundCode df.toNat false o.rm (g.rnd o.k o.rm o.r l)
      (decodeCode sf.toNat false (elemAt sf.toNat 0 (g.src32 o.k o.a l)))
    (dest32 o.k o.d l (BitVec.ofNat 32 r.1), r.2))

/-- Bits and sign of an integer type code (R218). -/
def itBits (it : BitVec 3) : Nat := 8 * 2 ^ (it.toNat % 4)
def itSigned (it : BitVec 3) : Bool := decide (it.toNat < 4)
/-- `CVTI` (R218): narrow signed results are sign-extended to the register. -/
def execCvti (h : Hdr) (it : BitVec 3) (sf : BitVec 4) (o : Cv) (s : State) : Host.Outcome State Fault Refusal :=
  cvtWord s h (Instr.cvti h it sf o).uses true o.k (fun _ => decide (sf.toNat ≤ 2)) (fun g l =>
    let n := itBits it
    let lo : Int := if itSigned it then -(2 ^ (n - 1) : Nat) else 0
    let hi : Int := if itSigned it then (2 ^ (n - 1) : Nat) - 1 else (2 ^ n : Nat) - 1
    let r := toInt o.rm (g.rnd o.k o.rm o.r l) lo hi (decodeCode sf.toNat false (elemAt sf.toNat 0 (g.src32 o.k o.a l)))
    (destW o.k (o.k || n == 64) o.d l (BitVec.ofInt 64 r.1), r.2))
/-- `CVTF` (R219). -/
def execCvtf (h : Hdr) (df : BitVec 4) (it : BitVec 3) (o : Cv) (s : State) : Host.Outcome State Fault Refusal :=
  cvtWord s h (Instr.cvtf h df it o).uses true o.k (fun _ => decide (df.toNat ≤ 2)) (fun g l =>
    let n := itBits it
    let a := (g.src o.k (n == 64) o.a l).toNat % 2 ^ n
    let r := roundCode df.toNat false o.rm (g.rnd o.k o.rm o.r l) (ofInt (if itSigned it then sextN a n else a))
    (dest32 o.k o.d l (BitVec.ofNat 32 r.1), r.2))
/-- `SRND` (R220): a T_N code is an FP32 code with its low fraction bits zero. -/
def execSrnd (h : Hdr) (n : BitVec 5) (o : Cv) (s : State) : Host.Outcome State Fault Refusal :=
  cvtWord s h (Instr.srnd h n o).uses true o.k (fun _ => true) (fun g l =>
    let v := dec32 (g.src32 o.k o.a l)
    let r := (fpN n.toNat).round o.rm (g.rnd o.k o.rm o.r l) v
    if v.isNan then (dest32 o.k o.d l nan32, 0)
    else (dest32 o.k o.d l (BitVec.ofNat 32 (r.1 * 2 ^ (23 - n.toNat))), r.2))
/-- `QBLK` (R221). -/
def execQblk (h : Hdr) (df : BitVec 4) (bl32 : Bool) (rm : RM) (d a r : Reg) (s : State) : Host.Outcome State Fault Refusal :=
  issue s h .long (Instr.qblk h df bl32 rm d a r).uses (!h.q) 1 (fun s c =>
    let bl := if bl32 then 32 else 16
    if !(decide (3 ≤ df.toNat) && decide (df.toNat ≤ 10)) || (!bl32 && df != 5) || decide (c.g.width < bl) then
      .fault s (flt fcFormat)
    else
      let x (l : Nat) : XV := if c.act.getLsbD l then dec32 (c.g.getV a.toNat l) else .fin false 0 1
      .done s (Res.of (laneWork false h.q c.act (fun l =>
        let scale := blockScale df.toNat ((List.range bl).map (fun i => x (l / bl * bl + i)))
        let e := blockElem df.toNat scale rm (c.g.rnd false rm r l) (x l)
        ([.v d.toNat l (BitVec.ofNat 32 e.1), .v (d.toNat + 1) l (BitVec.ofNat 32 scale)], e.2)))))
/-- `DQBLK` (R222). -/
def execDqblk (h : Hdr) (sf : BitVec 4) (sb : Bool) (rm : RM) (d a b : Reg) (s : State) : Host.Outcome State Fault Refusal :=
  cvtWord s h (Instr.dqblk h sf sb rm d a b).uses true false (fun _ => decide (3 ≤ sf.toNat) && decide (sf.toNat ≤ 10)) (fun g l =>
    let r := rnd32 rm (scaled ((g.src32 sb b l).toNat % 256) (decodeCode sf.toNat true (elemAt sf.toNat 0 (g.getV a.toNat l))))
    (dest32 false d l r.1, r.2))
/-- The formats of `PACK` and `UNPACK` (R223). -/
def packFmt (f : BitVec 4) : Bool :=
  (decide (1 ≤ f.toNat) && decide (f.toNat ≤ 5)) || (decide (8 ≤ f.toNat) && decide (f.toNat ≤ 10))
/-- `PACK`, `UNPACK` (R223). -/
def execPack (h : Hdr) (df : BitVec 4) (pos : BitVec 3) (sb : Bool) (rm : RM) (d a b r : Reg) (s : State) :
    Host.Outcome State Fault Refusal :=
  cvtWord s h (Instr.pack h df pos sb rm d a b r).uses true false (fun _ => packFmt df) (fun g l =>
    let k := elemBits df.toNat
    let e := roundCode df.toNat false rm (g.rnd false rm r l) (dec32 (g.src32 sb b l))
    let m := BitVec.ofNat 32 ((2 ^ k - 1) * 2 ^ (k * pos.toNat))
    (dest32 false d l ((g.getV a.toNat l &&& ~~~ m) ||| (BitVec.ofNat 32 (e.1 * 2 ^ (k * pos.toNat)) &&& m)), e.2))
def execUnpack (h : Hdr) (sf : BitVec 4) (pos : BitVec 3) (d a : Reg) (s : State) : Host.Outcome State Fault Refusal :=
  cvtWord s h (Instr.unpack h sf pos d a).uses false false (fun _ => packFmt sf) (fun g l =>
    (dest32 false d l (rnd32 .rn (decodeCode sf.toNat false (elemAt sf.toNat pos.toNat (g.getV a.toNat l)))).1, 0))

-- ## Special functions (R224)

def execRcp (h : Hdr) (ftz : Bool) (d a : Reg) (s : State) : Host.Outcome State Fault Refusal := special s h .rcp ftz d a
def execRsq (h : Hdr) (ftz : Bool) (d a : Reg) (s : State) : Host.Outcome State Fault Refusal := special s h .rsq ftz d a
def execEx2 (h : Hdr) (ftz : Bool) (d a : Reg) (s : State) : Host.Outcome State Fault Refusal := special s h .ex2 ftz d a
def execLg2 (h : Hdr) (ftz : Bool) (d a : Reg) (s : State) : Host.Outcome State Fault Refusal := special s h .lg2 ftz d a
def execSin (h : Hdr) (ftz : Bool) (d a : Reg) (s : State) : Host.Outcome State Fault Refusal := special s h .sin ftz d a
def execCos (h : Hdr) (ftz : Bool) (d a : Reg) (s : State) : Host.Outcome State Fault Refusal := special s h .cos ftz d a
def execTanh (h : Hdr) (ftz : Bool) (d a : Reg) (s : State) : Host.Outcome State Fault Refusal := special s h .tanh ftz d a
def execErf (h : Hdr) (ftz : Bool) (d a : Reg) (s : State) : Host.Outcome State Fault Refusal := special s h .erf ftz d a

end Sys2Proof.Machine
end

