-- ==== Sys2Proof/Machine/CrossLane.lean ====
section
/-! DEFINITION. The cross-lane, match, random and ternary instructions: class 3 and `0x50`-`0x53` of class 2 (R225 to R240). -/

namespace Sys2Proof.Machine

open Sys2Proof.Num

-- ## Lane sets (R226)

/-- Sub-group width of a code. -/
def subWidth (w : Nat) (sg : BitVec 3) : Nat := if sg = 0 then w else 2 ^ sg.toNat
/-- A sub-group may not be wider than the group. -/
def lsFits (w : Nat) : LaneSet → Bool
  | .sub sg => decide (subWidth w sg ≤ w)
  | .mask _ => true
/-- A lane's set: how many positions it has, and the lane at each position, if it is in the set. -/
def lsAt (ls : LaneSet) (g : Group) (lane : Nat) : Nat × (Nat → Option Nat) :=
  match ls with
  | .sub sg =>
    let n := subWidth g.width sg
    (n, fun p => if p < n then some (lane / n * n + p) else none)
  | .mask c =>
    let m := g.getV64 c.toNat lane ||| laneBit lane
    (g.width, fun p => if p < g.width && m.getLsbD p then some p else none)
/-- The position of a lane in its own set. -/
def lsPos (ls : LaneSet) (w lane : Nat) : Nat :=
  match ls with
  | .sub sg => lane % subWidth w sg
  | .mask _ => lane
/-- The present lanes of a lane's set with their positions, ascending. -/
def lsPresent (ls : LaneSet) (g : Group) (act : Lanes) (lane : Nat) : List (Nat × Nat) :=
  let s := lsAt ls g lane
  (List.range s.1).filterMap (fun p => match s.2 p with
    | some l => if act.getLsbD l then some (p, l) else none
    | none => none)

/-- A class 3 word that acts in each participating lane; a sub-group wider than the group is an encoding fault. -/
def laneWord (s : State) (h : Hdr) (us : List Use) (flg : Bool) (fits : Nat → Bool) (f : Group → Lanes → Nat → List RegWrite × Fl) :
    Host.Outcome State Fault Refusal :=
  match s.ctx? h with
  | none => .fault .noIssuer
  | some c =>
    if !fits c.g.width then .next (s.raise c.gid c.idx (flt fcOperand) c.sp.pc)
    else .next (s.issueAt c h .long us (flg && !h.q) 1 (fun s c => .done s (Res.of (laneWork false h.q c.act (f c.g c.act)))))

-- ## Shuffles, broadcast and lane access (R228, R229)

/-- The source lane of a shuffle. -/
def shflSrc (mode : ShflMode) (g j b : Nat) : Nat :=
  match mode with
  | .from_ => b % g
  | .rot => (j + b) % g
  | .mir => (((b : Int) - j).emod g).toNat
  | .xor => (j ^^^ b) % g
/-- A value taken from lane t where it participates, else the lane's own. -/
def takeLane (g : Group) (act : Lanes) (wide : Bool) (a : Reg) (t l : Nat) : W64 :=
  g.src false wide a (if act.getLsbD t then t else l)
/-- `SHFL` (R228). -/
def execShfl (h : Hdr) (mode : ShflMode) (w64 : Bool) (sg : BitVec 3) (sb : Bool) (d a b : Reg) (s : State) :
    Host.Outcome State Fault Refusal :=
  laneWord s h (Instr.shfl h mode w64 sg sb d a b).uses false (fun w => decide (subWidth w sg ≤ w)) (fun g act l =>
    let n := subWidth g.width sg
    (destW false w64 d l (takeLane g act w64 a (l / n * n + shflSrc mode n (l % n) (g.src32 sb b l).toNat) l), 0))
/-- `BCAST` (R228). -/
def execBcast (h : Hdr) (w64 : Bool) (sg : BitVec 3) (n : BitVec 6) (d a : Reg) (s : State) :
    Host.Outcome State Fault Refusal :=
  laneWord s h (Instr.bcast h w64 sg n d a).uses false (fun w => decide (subWidth w sg ≤ w)) (fun g act l =>
    let k := subWidth g.width sg
    (destW false w64 d l (takeLane g act w64 a (l / k * k + n.toNat % k) l), 0))
/-- `RDLANE` and `WRLANE` (R229). -/
def execRdlane (h : Hdr) (w64 : Bool) (d : SReg) (a : Reg) (b : SReg) (s : State) : Host.Outcome State Fault Refusal :=
  onceWord s h .long (Instr.rdlane h w64 d a b).uses (fun s c =>
    .done s (Res.of [.s d.toNat (c.g.src false w64 a ((c.g.srcS b).toNat % c.g.width))]))
def execWrlane (h : Hdr) (w64 : Bool) (d : Reg) (a b : SReg) (s : State) : Host.Outcome State Fault Refusal :=
  onceWord s h .long (Instr.wrlane h w64 d a b).uses (fun s c =>
    let k := (c.g.srcS b).toNat % c.g.width
    .done s (Res.of (if c.act.getLsbD k then destW false w64 d k (c.g.srcS a) else [])))

-- ## Votes, match and elect (R230 to R232)

/-- `VOTE` (R230). -/
def execVote (h : Hdr) (neg : Bool) (pa : PReg) (t : VoteTgt) (s : State) : Host.Outcome State Fault Refusal :=
  match t with
  | .bits d =>
    onceWord s h .long (Instr.vote h neg pa t).uses (fun s c =>
      .done s (Res.of [.s d.toNat (c.act &&& (if neg then ~~~ c.g.getP pa.toNat else c.g.getP pa.toNat))]))
  | .set op pd ls =>
    laneWord s h (Instr.vote h neg pa t).uses false (fun w => lsFits w ls) (fun g act l =>
      let ps := (lsPresent ls g act l).map (fun x => (g.getP pa.toNat).getLsbD x.2 != neg)
      let v := match op with
        | .every => ps.all id
        | .some_ => ps.any id
        | .same => ps.all id || !(ps.any id)
      ([.p pd.toNat l v], 0))
/-- `MATCH` (R231). -/
def execMtch (h : Hdr) (w64 : Bool) (sg : BitVec 3) (d a : Reg) (s : State) : Host.Outcome State Fault Refusal :=
  laneWord s h (Instr.mtch h w64 sg d a).uses false (fun w => decide (subWidth w sg ≤ w)) (fun g act l =>
    let same := (lsPresent (LaneSet.sub sg) g act l).filter (fun x => g.src false w64 a x.2 == g.src false w64 a l)
    (destW false true d l (lanesOf (same.map (·.2))), 0))
/-- `ELECT` (R232). -/
def execElect (h : Hdr) (pd : PReg) (ls : LaneSet) (s : State) : Host.Outcome State Fault Refusal :=
  laneWord s h (Instr.elect h pd ls).uses false (fun w => lsFits w ls) (fun g act l =>
    ([.p pd.toNat l (((lsPresent ls g act l).map (·.2)).head? == some l)], 0))

-- ## Reductions and scans (R233, R234)

/-- The identity and the operation of an integer combination (R233). -/
def redId : RedOp → W32
  | .add => 0 | .or => 0 | .xor => 0 | .maxz => 0 | .and => 0xFFFFFFFF | .minz => 0xFFFFFFFF
  | .mins => 0x7FFFFFFF | .maxs => 0x80000000
def redOp (o : RedOp) (x y : W32) : W32 :=
  match o with
  | .add => x + y
  | .and => x &&& y
  | .or => x ||| y
  | .xor => x ^^^ y
  | .mins => if x.toInt ≤ y.toInt then x else y
  | .maxs => if x.toInt ≤ y.toInt then y else x
  | .minz => if x.toNat ≤ y.toNat then x else y
  | .maxz => if x.toNat ≤ y.toNat then y else x
/-- The present lanes that a scan at a lane combines. -/
def scanSet (scan excl : Bool) (own : Nat) (ps : List (Nat × Nat)) : List (Nat × Nat) :=
  ps.filter (fun x => !scan || decide (x.1 < own) || (!excl && x.1 == own))
/-- `REDUX`, `SCAN` (R233). -/
def execRedux (h : Hdr) (op : RedOp) (ls : LaneSet) (d a : Reg) (s : State) : Host.Outcome State Fault Refusal :=
  laneWord s h (Instr.redux h op ls d a).uses false (fun w => lsFits w ls) (fun g act l =>
    (dest32 false d l ((lsPresent ls g act l).foldl (fun acc x => redOp op acc (g.getV a.toNat x.2)) (redId op)), 0))
def execScan (h : Hdr) (op : RedOp) (excl : Bool) (ls : LaneSet) (d a : Reg) (s : State) :
    Host.Outcome State Fault Refusal :=
  laneWord s h (Instr.scan h op excl ls d a).uses false (fun w => lsFits w ls) (fun g act l =>
    (dest32 false d l ((scanSet true excl (lsPos ls g.width l) (lsPresent ls g act l)).foldl
      (fun acc x => redOp op acc (g.getV a.toNat x.2)) (redId op)), 0))

/-- Two neighbours of the tree combined (R234). -/
def fComb2 (op : FRedOp) (rm : RM) (ftz : Bool) (x y : Option W32) : Option W32 × Fl :=
  match x, y with
  | none, none => (none, 0)
  | some a, none => (some a, 0)
  | none, some b => (some b, 0)
  | some a, some b =>
    match op with
    | .add => let r := fBin rm ftz (xAdd rm) a b
      (some r.1, r.2)
    | .min => (some (fMinMax false ftz a b), 0)
    | .max => (some (fMinMax true ftz a b), 0)
/-- One level of the tree. -/
def fLevel (op : FRedOp) (rm : RM) (ftz : Bool) : List (Option W32) → List (Option W32) × Fl
  | x :: y :: rest =>
    let r := fComb2 op rm ftz x y
    let t := fLevel op rm ftz rest
    (r.1 :: t.1, r.2 ||| t.2)
  | l => (l, 0)
/-- The fixed tree (R234): at most six levels. -/
def fTree (op : FRedOp) (rm : RM) (ftz : Bool) : Nat → List (Option W32) → Option W32 × Fl
  | 0, l => (l.headD none, 0)
  | n + 1, l =>
    let r := fLevel op rm ftz l
    let t := fTree op rm ftz n r.1
    (t.1, r.2 ||| t.2)
/-- A lane's evaluation of the tree. -/
def fRed (g : Group) (act : Lanes) (op : FRedOp) (rm : RM) (ftz scan excl : Bool) (ls : LaneSet) (a : Reg) (l : Nat) :
    W32 × Fl :=
  let n := (lsAt ls g l).1
  let ps := scanSet scan excl (lsPos ls g.width l) (lsPresent ls g act l)
  let leaf (p : Nat) : Option W32 :=
    (ps.find? (fun x => x.1 == p)).map (fun x => BitVec.ofNat 32 (flushIn fp32 ftz (g.getV a.toNat x.2).toNat))
  let r := fTree op rm ftz 6 ((List.range n).map leaf)
  let empty : W32 := match op with
    | .add => 0
    | .min => 0x7F800000
    | .max => 0xFF800000
  (r.1.getD empty, r.2)
/-- `FREDUX`, `FSCAN` (R234). -/
def execFredux (h : Hdr) (op : FRedOp) (rm : RM) (ftz : Bool) (ls : LaneSet) (d a : Reg) (s : State) :
    Host.Outcome State Fault Refusal :=
  laneWord s h (Instr.fredux h op rm ftz ls d a).uses true (fun w => lsFits w ls) (fun g act l =>
    let r := fRed g act op rm ftz false false ls a l
    (dest32 false d l r.1, r.2))
def execFscan (h : Hdr) (op : FRedOp) (rm : RM) (ftz excl : Bool) (ls : LaneSet) (d a : Reg) (s : State) :
    Host.Outcome State Fault Refusal :=
  laneWord s h (Instr.fscan h op rm ftz excl ls d a).uses true (fun w => lsFits w ls) (fun g act l =>
    let r := fRed g act op rm ftz true excl ls a l
    (dest32 false d l r.1, r.2))

-- ## Predicate logic (R235)

def execPlop (h : Hdr) (lut : BitVec 8) (pd pa pb pc : PReg) (s : State) : Host.Outcome State Fault Refusal :=
  aluWord s h .short (Instr.plop h lut pd pa pb pc).uses false false (fun g l =>
    let b (p : PReg) : Nat := if (g.getP p.toNat).getLsbD l then 1 else 0
    ([.p pd.toNat l (lut.getLsbD (b pa + 2 * b pb + 4 * b pc))], 0))
def execPmovTov (h : Hdr) (d : Reg) (mask : BitVec 7) (s : State) : Host.Outcome State Fault Refusal :=
  aluWord s h .short (Instr.pmovTov h d mask).uses false false (fun g l =>
    ([.v d.toNat l ((maskPreds mask).foldl (fun r i => if (g.getP i).getLsbD l then r ||| (1#32 <<< i) else r) 0x80)], 0))
def execPmovTop (h : Hdr) (a : Reg) (mask : BitVec 7) (s : State) : Host.Outcome State Fault Refusal :=
  aluWord s h .short (Instr.pmovTop h a mask).uses false false (fun g l =>
    ((maskPreds mask).map (fun i => .p i l ((g.getV a.toNat l).getLsbD i)), 0))

-- ## Random words and dropout (R236 to R238)

/-- The keyed counter hash (R236). -/
def hash64 (key ctr : W64) : W64 :=
  (List.range 4).foldl (fun x i =>
    let y := (x ^^^ key) * 0x8D3A5C6F1E47B2A9
    y ^^^ (y >>> (23 + 4 * i))) ctr
/-- `RNG` (R237). -/
def execRng (h : Hdr) (k w64 : Bool) (d a : Reg) (b : SReg) (s : State) : Host.Outcome State Fault Refusal :=
  aluWord s h .long (Instr.rng h k w64 d a b).uses false k (fun g l =>
    (destW k w64 d l (hash64 (g.srcS b) (g.src k true a l)), 0))
/-- `DROP` (R238): the reserved bits of the second scalar are checked when a lane participates (R471). -/
def execDrop (h : Hdr) (sb : Bool) (d a b : Reg) (c : SReg) (s : State) : Host.Outcome State Fault Refusal :=
  issue s h .long (Instr.drop h sb d a b c).uses false 1 (fun s x =>
    let p := x.g.getS (c.toNat + 1)
    if x.act ≠ 0 ∧ fld p 63 48 ≠ 0 then .fault s (flt fcOperand)
    else
      .done s (Res.of (laneWork false h.q x.act (fun l =>
        let i := fld (x.g.src sb true b l) 39 0
        let v := hash64 (x.g.srcS c) (BitVec.ofNat 64 (fld p 47 24 * 2 ^ 40 + i))
        (dest32 false d l (if fld p 23 0 ≤ fld v 31 8 then x.g.getV a.toNat l else 0), 0)))))

-- ## Ternary and sign codes (R239, R240)

def BlkLen.n : BlkLen → Nat
  | .k16 => 16 | .k32 => 32 | .k64 => 64
/-- `TQNT` (R239). -/
def execTqnt (h : Hdr) (sign : Bool) (n : BlkLen) (d a : Reg) (s : State) : Host.Outcome State Fault Refusal :=
  issue s h .long (Instr.tqnt h sign n d a).uses false 1 (fun s c =>
    let k := BlkLen.n n
    if c.g.width < k then .fault s (flt fcFormat)
    else
      .done s (Res.of (laneWork false h.q c.act (fun l =>
        let xs := (List.range k).map (fun i =>
          let m := l / k * k + i
          if c.act.getLsbD m then c.g.getV a.toNat m else 0)
        let sc := ternScale xs
        let code := ternCode sign sc (c.g.getV a.toNat l)
        ([.v d.toNat l (ternValue sc code), .v (d.toNat + 1) l (BitVec.ofNat 32 (sc + (code + 1).toNat * 65536))], 0)))))
/-- `TDQ` (R240). -/
def execTdq (h : Hdr) (sign : Bool) (pos : BitVec 3) (sb : Bool) (d a b : Reg) (s : State) :
    Host.Outcome State Fault Refusal :=
  aluWord s h .long (Instr.tdq h sign pos sb d a b).uses true false (fun g l =>
    let sc := (g.src32 sb b l).toNat % 65536
    match ternUnpack sign ((g.getV a.toNat l).setWidth 8) pos.toNat with
    | some c => (dest32 false d l (ternValue sc c), 0)
    | none => (dest32 false d l (ternValue sc 0), flNV))

end Sys2Proof.Machine
end

