-- ==== Sys2Proof/Machine/Copy.lean ====
section
/-! DEFINITION. Copy engines, offload and return (R104 to R119), and what every engine command shares: its name, its drain
counter, its counts into a phaser, its end and its fault (R116, R117, R256, R369). -/

namespace Sys2Proof.Machine

-- ## What every engine command shares

/-- The class counter of a command (R369). -/
def Group.drainAdd (g : Group) (k : CmdKind) (n : Int) : Group :=
  let f (x : Nat) : Nat := (Int.ofNat x + n).toNat
  match k with
  | .copy => { g with drCp := f g.drCp }
  | .remote => { g with drRm := f g.drRm }
  | .fabric => { g with drFx := f g.drFx }
  | _ => g
/-- A class counter that stalls the next command (R369). -/
def Group.drainFull (g : Group) : CmdKind → Option Why
  | .copy => if 65535 ≤ g.drCp then some (.drainFull 0) else none
  | .remote => if 65535 ≤ g.drRm then some (.drainFull 1) else none
  | .fabric => if 65535 ≤ g.drFx then some (.drainFull 2) else none
  | _ => none
/-- The issue of a command: its sequence number and its counter (R256, R369). -/
def State.nameEngine (s : State) (c : Ctx) (k : CmdKind) : State :=
  s.updGrp c.gid (fun g => { g.drainAdd k 1 with cmdseq := g.cmdseq + 1 })
/-- The stalls and the release that precede the issue of an engine command: its counter, its queue, its release (R104, R109,
R337, R369). -/
def issueEngine (s : State) (c : Ctx) (k : CmdKind) (full : Option Why) (sc : Scope) (f : State → Eff) : Eff :=
  match c.g.drainFull k, full with
  | some w, _ => .stall s w
  | none, some w => .stall s w
  | none, none =>
    match relAt s c true sc with
    | .error e => e
    | .ok s => f (s.nameEngine c k)
/-- A count on its way to a phaser (R109, R360). -/
def State.sendCount (s : State) (m : PhMsg) : State := { s with phMsgs := s.phMsgs ++ [m] }
/-- A group's command has ended (R369). -/
def State.drainDone (s : State) (org : Origin) (k : CmdKind) : State :=
  match org with
  | .group gid => s.updAny gid (fun g => g.drainAdd k (-1))
  | _ => s
/-- What may follow the end of a command: its team, a context's end, a grid that waited for a page (R398, R406). -/
def State.afterCmd (s : State) (tid : Option Nat) (ph : Option Nat) : State :=
  let s := match ph with
    | some id => s.phaserGc id
    | none => s
  let s := match tid with
    | some t => s.tryTeamEnd t
    | none => s
  s.checkEndings

-- ## Shapes and engines (R104, R106)

/-- The copy view of a `D` register (R106). -/
structure CShape where
  rows : Nat
  rowb : Nat
  sstr : Nat
  dstr : Nat
  swz : Bool
  deriving DecidableEq, Repr
def cshape (d : W128) : CShape :=
  ⟨d.toNat / 2 ^ 48 % 2 ^ 16 + 1, d.toNat / 2 ^ 24 % 2 ^ 20 + 1, d.toNat / 2 ^ 96, d.toNat / 2 ^ 64 % 2 ^ 32, d.getLsbD 16⟩
def cshapeBad (d : W128) : Bool :=
  d.toNat / 2 ^ 44 % 16 != 0 || d.toNat / 2 ^ 17 % 128 != 0 || d.toNat % 65536 != 0
def CShape.bytes (h : CShape) : Nat := h.rows * h.rowb
/-- The last byte of a hull above its first. -/
def CShape.span (h : CShape) (stride : Nat) : Nat := (h.rows - 1) * stride + h.rowb - 1
/-- Links between two dies (R13, R14). -/
def dieLinks (a b : Nat) : Nat := (if a % 4 ≤ b % 4 then b % 4 - a % 4 else a % 4 - b % 4) + (if a / 4 = b / 4 then 0 else 1)
/-- The engine that takes a command meant for an engine (R104). -/
def State.copyEngine (s : State) (e : Nat) : Option Nat :=
  let d := e / 4
  match ((List.range 4).map (fun j => 4 * d + (e + j) % 4)).find? (fun i => s.present (.engine i)) with
  | some i => some i
  | none =>
    ((List.range 32).filter (fun i => s.present (.engine i))).foldl (fun best i =>
      match best with
      | none => some i
      | some b => if dieLinks d (i / 4) < dieLinks d (b / 4) then some i else some b) none
def State.engine (s : State) (e : Nat) : EngineSt := s.engines.get EngineSt.init e
def State.setEngine (s : State) (e : Nat) (x : EngineSt) : State := { s with engines := s.engines.set EngineSt.init e x }
/-- A command joins an engine's queue. -/
def State.pushCopy (s : State) (e : Nat) (c : CopyCmd) : State :=
  let id := s.nextId
  let s := { s with nextId := id + 1, ecmds := s.ecmds.insert id { c with engine := e } }
  s.setEngine e { s.engine e with queue := (s.engine e).queue ++ [id] }
/-- The command's destination address of a byte position in copy order, its local address for an offload or return (R116). -/
def CopyCmd.dstAt (c : CopyCmd) (pos : Nat) : Nat :=
  match c.op with
  | .cpy _ dst _ d => dst.toNat + pos / (cshape d).rowb * (cshape d).dstr + pos % (cshape d).rowb
  | .offl loc _ _ _ => loc.toNat + pos
  | .rtrn loc _ _ _ => loc.toNat + pos
def CopyCmd.srcAt (c : CopyCmd) (pos : Nat) : Nat :=
  match c.op with
  | .cpy _ _ src d => src.toNat + pos / (cshape d).rowb * (cshape d).sstr + pos % (cshape d).rowb
  | .offl loc _ _ _ => loc.toNat + pos
  | .rtrn _ rem _ _ => rem.toNat + pos
def CopyOp.bytes : CopyOp → Nat
  | .cpy _ _ _ d => (cshape d).bytes
  | .offl _ _ len _ => len.toNat
  | .rtrn _ _ len _ => len.toNat
/-- The bytes of the delivery unit that starts at a position, 0 where none starts (R109). -/
def CopyCmd.unitLen (c : CopyCmd) (pos : Nat) : Nat :=
  let rowb := match c.op with
    | .cpy _ _ _ d => (cshape d).rowb
    | _ => c.op.bytes
  if c.op.bytes ≤ pos then 0
  else if pos % rowb = 0 ∨ c.dstAt pos % 4096 = 0 then min (rowb - pos % rowb) (4096 - c.dstAt pos % 4096)
  else 0
/-- A command before it starts. -/
def copyCmd (op : CopyOp) (np : Bool) (ph ctx : Nat) (tid : Option Nat) (tswz : BitVec 4) (org : Origin) (site : W64)
    (seq : W32) : CopyCmd :=
  ⟨op, np, ph, ctx, tid, tswz, org, site, seq, 0, false, [], op.bytes, [], none, []⟩
/-- It is an offload or a return, whose start claims its pages (R114). -/
def CopyCmd.claims (c : CopyCmd) : Bool := match c.op with
  | .cpy .. => false
  | _ => true
def CopyCmd.ph (c : CopyCmd) : Option Nat := if c.np then none else some c.phaser

-- ## The end of a command (R113, R116, R117)

/-- The `OFS` bits of a leaf, `[11:10]`, change, as class 1 traffic, and its cached entries are dropped (R83, R99, R113). -/
def State.setOfs (s : State) (slot : Nat) (e : TlbE) (ofs : Nat) : State :=
  let k := s.ctxTkey slot
  let b := s.homeByte k (e.entry + 1)
  let s := (s.trafficks slot 1 .write ⟨k, 0, false⟩ [e.entry + 1]).homeWrite k [(e.entry + 1, (b &&& 0xF3) ||| BitVec.ofNat 8 (4 * ofs))]
  s.tlbDrop (fun t => t.entry == e.entry)
/-- The lines of a page leave every L1, cluster cache and home slice, dirty bytes and all (R114); of those that a slice held its
stack keeps what was last written back (R96, log 18). -/
def State.dropPage (s : State) (e : TlbE) : State :=
  let hit (line : Nat) : Bool := lineInRange [(e.base, e.base + e.size, e)] line
  { s.loseDirty (fun b => hit (b / 2)) with
    cores := s.cores.mapV (fun c => { c with lines := c.lines.filter (fun l => !hit l.line) })
    clusters := s.clusters.mapV (fun c => { c with lines := c.lines.filter (fun l => !hit l.line) })
    slices := s.slices.mapV (fun c => { c with lines := c.lines.filter (fun l => !hit l.line) }) }
/-- Every byte of a claimed page has been acknowledged, or written. -/
def CopyCmd.pageDone (c : CopyCmd) (p : PageClaim) : Bool :=
  match c.op with
  | .cpy .. => false
  | .offl loc .. | .rtrn loc .. =>
    (List.range (p.e.size / 4096)).all (fun i => decide (2 ≤ c.units.get 0 (p.e.base - loc.toNat + 4096 * i)))
/-- A page settles (R113, R114). -/
def State.settlePage (s : State) (c : CopyCmd) (p : PageClaim) : State :=
  match c.op with
  | .cpy .. => s
  | .offl .. => if c.pageDone p then (s.setOfs c.ctx p.e 2).dropPage p.e else s.setOfs c.ctx p.e 0
  | .rtrn .. => s.setOfs c.ctx p.e (if c.pageDone p then 0 else 2)
/-- A command leaves its engine. -/
def State.dropCopy (s : State) (id : Nat) (c : CopyCmd) (faulted : Bool) : State :=
  let s := { s with ecmds := s.ecmds.erase id, wireOut := s.wireOut.filter (fun p => p.cmd != id) }
  if 32 ≤ c.engine then s
  else
    let x := s.engine c.engine
    let s := s.setEngine c.engine ⟨x.queue.filter (· != id), x.active.filter (· != id)⟩
    let a := ceAddr c.engine 0x18
    if faulted then s.setRegFld a 63 32 (fld (s.reg a) 63 32 + 1) else s.setRegFld a 31 0 (fld (s.reg a) 31 0 + 1)
/-- A command completes without fault. -/
def State.copyDone (s : State) (id : Nat) (c : CopyCmd) : State :=
  let s := (s.dropCopy id c false).drainDone c.org .copy
  ((s.originDone c.ctx c.org).afterCmd c.tid c.ph).settleWaits
/-- A command ends by a fault (R116, R117): no further counts; its pages settle; the fault is delivered. While the context's
tables cannot be read for now (R81) the command stays, with its fault. -/
def State.copyFault (s : State) (id : Nat) (c : CopyCmd) (code detail : Nat) (va : Nat) : State :=
  let open_ := c.pages.filter (fun p => !p.settled)
  if !open_.isEmpty && s.walkHeld c.ctx then
    { s with ecmds := s.ecmds.insert id { c with fail := some (0, code, detail, va) } }
  else
    let s := s.dropCopy id c true
    let s := open_.foldl (fun s p => s.settlePage c p) s
    let s := s.drainDone c.org .copy
    let s := s.cmdFault c.org c.ctx c.ph ⟨BitVec.ofNat 8 code, BitVec.ofNat 32 detail, BitVec.ofNat 64 va, c.site, c.seq, .copy⟩
    let s := match c.org with
      | .group _ => s
      | o => s.originDone c.ctx o
    (s.afterCmd c.tid c.ph).settleWaits
/-- The first unit in copy order that has not reached a state, from a position on; with none, where the command ends. -/
def CopyCmd.firstBelow (c : CopyCmd) (k : Nat) : Nat → Nat → Nat
  | 0, pos => pos
  | n + 1, pos =>
    let l := c.unitLen pos
    if l = 0 ∨ c.units.get 0 pos < k then pos else CopyCmd.firstBelow c k n (pos + l)
/-- An engine reset, or no engine (R116): the first byte that the engine has not counted is reported. Where a regulator holds
back what its pages need to settle, the command stays, with its fault. -/
def State.copyAbort (s : State) (id : Nat) (c : CopyCmd) (detail : Nat) : State :=
  let va := c.dstAt (c.firstBelow 2 c.op.bytes 0)
  match s.pass (s.copyFault id c 0x11 detail va) true with
  | .ok t => t
  | .error w => { w with ecmds := w.ecmds.insert id { c with fail := some (0, 0x11, detail, va) } }
/-- Everything a command does has been done: its units counted, its pages settled (R109, R113). -/
def CopyCmd.ready (c : CopyCmd) : Bool :=
  c.left == 0 && (match c.op with
    | .cpy .. => true
    | _ => c.pages.all (fun p => p.settled))
/-- A command whose earliest failing unit has only counted ones before it ends by that fault (R116); one with nothing left
completes. -/
def State.copyCheck (s : State) (id : Nat) : State :=
  match s.ecmds.find? id with
  | none => s
  | some c =>
    match c.fail with
    | some (pos, code, detail, va) => if pos ≤ c.firstBelow 3 c.op.bytes 0 then s.copyFault id c code detail va else s
    | none => if c.ready then s.copyDone id c else s
/-- A unit of a command has failed: it is reported unless an earlier one fails too (R116). -/
def State.copyFail (s : State) (id : Nat) (c : CopyCmd) (pos code detail va : Nat) : State :=
  let f := match c.fail with
    | some x => if x.1 < pos then x else (pos, code, detail, va)
    | none => (pos, code, detail, va)
  ({ s with ecmds := s.ecmds.insert id { c with fail := some f } } : State).copyCheck id

-- ## Issue (R104, R107, R108, R112)

/-- A checked command is issued: to an engine, or, where the device has none, to its fault (R104). -/
def copyIssue (s : State) (c : Ctx) (sc : Scope) (k : CopyCmd) : Eff :=
  match s.copyEngine (4 * (c.g.core / 80) + c.g.core % 4) with
  | some e =>
    issueEngine s c .copy (if 64 ≤ (s.engine e).queue.length then some (.copyQueue e) else none) sc
      (fun s => .done (s.pushCopy e k) Res.nil)
  | none => issueEngine s c .copy none sc (fun s => .done (s.copyAbort s.nextId { k with engine := 32 } 5) Res.nil)
/-- The checks of `CPY` (R108). -/
def cpyCheck (t : Team) (dir : CpyDir) (dst src : W64) (d : W128) (ctl : Nat) (lane : Nat) : Option FInfo :=
  let h := cshape d
  let sg := dir = .g2s ∨ dir = .g2g
  let dg := dir = .s2g ∨ dir = .g2g
  let s0 := src.toNat
  let s1 := s0 + h.span h.sstr
  let d0 := dst.toNat
  let d1 := d0 + h.span h.dstr
  if 2 ^ 16 ≤ ctl ∨ cshapeBad d = true then some (flt fcOperand)
  else if 2 ^ 32 ≤ h.bytes then some (flt fcOperand)
  else if (sg ↔ dg) ∧ s0 ≤ d1 ∧ d0 ≤ s1 then some (flt fcOperand)
  else if sg ∧ 2 ^ 52 ≤ s1 then some (flt fcTranslation 1 src lane)
  else if dg ∧ 2 ^ 52 ≤ d1 then some (flt fcTranslation 1 dst lane)
  else if ¬ sg ∧ t.scratch * 1024 ≤ s1 then some (flt fcProtection 8 src lane)
  else if ¬ dg ∧ t.scratch * 1024 ≤ d1 then some (flt fcProtection 9 dst lane)
  else none
/-- `CPY` (R107 to R109). -/
def execCpy (h : Hdr) (dir : CpyDir) (np : Bool) (dst src : SReg) (shp : BitVec 3) (ctl : SReg) (s : State) :
    Host.Outcome State Fault Refusal :=
  onceWord s h .long (Instr.cpy h dir np dst src shp ctl).uses (fun s c =>
    match s.team c.g.tid with
    | none => .done s Res.nil
    | some t =>
      let d := c.g.getD shp.toNat
      let k := if np then 0 else (c.g.srcS ctl).toNat
      match cpyCheck t dir (c.g.srcS dst) (c.g.srcS src) d k (lowLane c.act) with
      | some f => .fault s f
      | none =>
        copyIssue s c (if dir = .s2s then .team else .device)
          (copyCmd (.cpy dir (c.g.srcS dst) (c.g.srcS src) d) np k c.g.ctx (some c.g.tid) t.tswz (.group c.gid) c.sp.pc
            (c.g.cmdseq + 1)))
/-- The checks of `OFFL` and `RTRN` (R112). -/
def offCheck (loc rem len ctl : W64) (lane : Nat) : Option FInfo :=
  if 2 ^ 32 ≤ ctl.toNat ∨ len = 0 ∨ len.toNat % 65536 ≠ 0 ∨ loc.toNat % 65536 ≠ 0 ∨ rem.toNat % 65536 ≠ 0 then
    some (flt fcOperand)
  else if 2 ^ 52 ≤ rem.toNat then some (flt fcOperand)
  else if 2 ^ 52 < loc.toNat + len.toNat then some (flt fcTranslation 1 loc lane)
  else none
def offWord (s : State) (h : Hdr) (us : List Use) (np : Bool) (loc rem len ctl : SReg)
    (f : W64 → W64 → W64 → Nat → CopyOp) : Host.Outcome State Fault Refusal :=
  onceWord s h .long us (fun s c =>
    let w := c.g.srcS ctl
    match offCheck (c.g.srcS loc) (c.g.srcS rem) (c.g.srcS len) w (lowLane c.act) with
    | some x => .fault s x
    | none =>
      copyIssue s c .device
        (copyCmd (f (c.g.srcS loc) (c.g.srcS rem) (c.g.srcS len) (fld w 31 16)) np (fld w 15 0) c.g.ctx (some c.g.tid) 0
          (.group c.gid) c.sp.pc (c.g.cmdseq + 1)))
/-- `OFFL`, `RTRN` (R112). -/
def execOffl (h : Hdr) (np : Bool) (loc rem len ctl : SReg) (s : State) : Host.Outcome State Fault Refusal :=
  offWord s h (Instr.offl h np loc rem len ctl).uses np loc rem len ctl .offl
def execRtrn (h : Hdr) (np : Bool) (loc rem len ctl : SReg) (s : State) : Host.Outcome State Fault Refusal :=
  offWord s h (Instr.rtrn h np loc rem len ctl).uses np loc rem len ctl .rtrn

-- ## Start and claim (R105, R113, R114)

/-- The leaves of a range, from its first page, walked by the engine (R86): the fault of the first byte that has none; neither
while a walk waits. -/
def State.leaves (s : State) (die slot : Nat) : Nat → Nat → Nat → State × Except EStop (List TlbE)
  | 0, _, _ => (s, .ok [])
  | n + 1, va, hi =>
    if hi ≤ va then (s, .ok [])
    else match s.walkNow die slot va none with
      | (s, .wait) => (s, .error .wait)
      | (s, .bad f) => (s, .error (.fault f.1 f.2 va))
      | (s, .hit e) =>
        match State.leaves s die slot n (e.base + e.size) hi with
        | (s, .ok l) => (s, .ok (e :: l))
        | (s, .error x) => (s, .error x)
/-- The claim of an offload (`ofs` 0 to 1) or a return (2 to 3): every page changes state, or the fault, or a wait (R114). -/
def State.claim (s : State) (c : CopyCmd) (loc len : Nat) (frm ofs : Nat) : State × Except EStop (List PageClaim) :=
  match s.leaves (c.engine / 4) c.ctx (len / 65536) loc (loc + len) with
  | (s, .error x) => (s, .error x)
  | (s, .ok es) =>
    let need : Need := if frm = 0 then .r else .w
    match es.find? (fun e => decide (e.base < loc) || decide (loc + len < e.base + e.size)), es.find? (fun e => e.ofs != frm),
        es.find? (fun e => (s.permit need e).isSome) with
    | some e, _, _ => (s, .error (.fault 0x11 3 (max e.base loc)))
    | none, some e, _ => (s, .error (.fault 0x11 2 e.base))
    | none, none, some e =>
      match s.permit need e with
      | some f => (s, .error (.fault f.1 f.2 e.base))
      | none => (s, .error (.fault 0x07 8 e.base))
    | none, none, none => (es.foldl (fun s e => s.setOfs c.ctx e ofs) s, .ok (es.map (fun e => ⟨e, false⟩)))
/-- The engine starts the command at the head of its queue (R105): `unit` is the engine. An offload or return claims its range; it
stays in the queue while its walks wait (R81), or a regulator holds back the change of its leaves (R101). -/
def execCopyCommandStart (s : State) : Host.Outcome State Fault Refusal :=
  let e := s.ev.unit
  let x := s.engine e
  match x.queue with
  | [] => .next s
  | id :: rest =>
    if 32 ≤ e ∨ s.ceEn e = false ∨ s.paused = true ∨ 8 ≤ x.active.length then .next s
    else match s.ecmds.find? id with
      | none => .next (s.setEngine e { x with queue := rest })
      | some c =>
        let c := { c with started := true }
        let take (s : State) : State := s.setEngine e ⟨rest, x.active ++ [id]⟩
        let go (r : State × Except EStop (List PageClaim)) : State :=
          match r with
          | (t, .error .wait) => s.waiting t
          | (t, .error (.fault f d va)) => (take t).copyFault id c f d va
          | (t, .ok ps) =>
            let t := take t
            s.passed { t with ecmds := t.ecmds.insert id { c with pages := ps } }
        match c.op with
        | .cpy .. => .next { take s with ecmds := s.ecmds.insert id c }
        | .offl loc _ len _ => .next (go (s.claim c loc.toNat len.toNat 0 1))
        | .rtrn loc _ len _ => .next (go (s.claim c loc.toNat len.toNat 2 3))

-- ## Moving bytes (R109, R115)

/-- The offset of a scratchpad address of a copy, after the swizzle it asks for (R106). -/
def CopyCmd.off (c : CopyCmd) (t : Team) (a : Nat) : Nat :=
  Team.off { t with tswz := c.tswz } (match c.op with
    | .cpy _ _ _ d => (cshape d).swz
    | _ => false) a
/-- The places of consecutive addresses of a side, or the first that stops (R109, R116): a `g` side's canonical addresses, an `s`
side's offsets. -/
def State.sideAt (s : State) (c : CopyCmd) (glob : Bool) (need : Need) (a n : Nat) : State × Except EStop (List (Nat × Attr)) :=
  if glob then s.engBytes (c.engine / 4) c.ctx need a n
  else
    match c.tid.bind (fun t => s.team t) with
    | none => (s, .ok [])
    | some t =>
      let os := (List.range n).map (fun i => (a + i, c.off t (a + i)))
      match (if need.writes then none else os.find? (fun x => t.poison.get false (x.2 / 32))) with
      | some x => (s, .error (.fault 0x16 0 x.1))
      | none => (s, .ok (os.map (fun x => (x.2, ⟨0, 0, false⟩))))
/-- What the accesses of a side ask for: class 1 traffic at the home slices, or lines of the team's banks (R99, R127). -/
def State.sideAsk (s : State) (c : CopyCmd) (glob : Bool) (kind : TKind) (l : List (Nat × Attr)) : State :=
  if glob then s.engTraffic c.ctx 1 kind l
  else match c.tid.bind (fun t => s.team t) with
    | none => s
    | some t => s.bankPut t.core ((l.map (fun p => t.line p.1)).dedup)
/-- The bytes at the places of the source side. -/
def State.sideGet (s : State) (c : CopyCmd) (glob : Bool) (l : List (Nat × Attr)) : List Byte :=
  if glob then l.map (fun p => s.homeByte p.2.key p.1)
  else match c.tid.bind (fun t => s.team t) with
    | none => []
    | some t => l.map (fun p => t.sram.get 0 p.1)
/-- Bytes put at the places of the destination side. -/
def State.sidePut (s : State) (c : CopyCmd) (glob : Bool) (l : List (Nat × Attr)) (bs : List Byte) : State :=
  if glob then s.homeScatter ((l.zip bs).map (fun p => (p.1.1, p.1.2, p.2)))
  else match c.tid.bind (fun t => (s.team t).map (fun x => (t, x))) with
    | none => s
    | some (tid, t) => s.setTeam tid (t.write ((l.map Prod.fst).zip bs))
def srcGlob (d : CpyDir) : Bool := match d with | .g2s => true | .g2g => true | _ => false
def dstGlob (d : CpyDir) : Bool := match d with | .s2g => true | .g2g => true | _ => false
/-- The places that a run of bytes of a copy comes from and goes to. -/
def State.sides (s : State) (c : CopyCmd) (dir : CpyDir) (pos n : Nat) :
    State × Except EStop (List (Nat × Attr) × List (Nat × Attr)) :=
  match s.sideAt c (srcGlob dir) .r (c.srcAt pos) n with
  | (s, .error x) => (s, .error x)
  | (s, .ok src) =>
    match s.sideAt c (dstGlob dir) .w (c.dstAt pos) n with
    | (s, .error x) => (s, .error x)
    | (s, .ok dst) => (s, .ok (src, dst))
/-- A run of bytes of a copy moves. -/
def State.moveBytes (s : State) (c : CopyCmd) (dir : CpyDir) (src dst : List (Nat × Attr)) : State :=
  ((s.sideAsk c (srcGlob dir) .read src).sideAsk c (dstGlob dir) .write dst).sidePut c (dstGlob dir) dst (s.sideGet c (srcGlob dir) src)
/-- The stop of one byte of a copy: of its read, else of its write. -/
def State.byteStop (s : State) (c : CopyCmd) (dir : CpyDir) (pos : Nat) : Option EStop :=
  match (s.sides c dir pos 1).2 with
  | .error x => some x
  | .ok _ => none
/-- What stops a unit: the first byte in copy order that fails, or waits (R115, R116). -/
def State.firstStop (s : State) (c : CopyCmd) (dir : CpyDir) (pos n : Nat) : Option EStop :=
  (List.range n).findSome? (fun i => s.byteStop c dir (pos + i))
/-- The canonical sectors of bytes that an engine has written at home, for those who acquire them (R336). -/
def State.sectorsAt (s : State) (die slot va n : Nat) : Wrote :=
  match (s.engBytes die slot .w va n).2 with
  | .ok l => ⟨(l.map (fun p => p.1 / 32)).dedup, false⟩
  | .error _ => Wrote.none
/-- A unit has been performed: `CE_BYTES` has its bytes, and its count is sent (R109). -/
def State.unitDone (s : State) (id : Nat) (c : CopyCmd) (pos n : Nat) (w : Wrote) : State :=
  let c := if c.np then { c with units := c.units.set 0 pos 3, left := c.left - n } else { c with units := c.units.set 0 pos 2 }
  let a := ceAddr c.engine 0x10
  let s := { s with ecmds := s.ecmds.insert id c }.setReg a (s.reg a + BitVec.ofNat 64 n)
  if c.np then s.copyCheck id
  else s.sendCount ⟨c.phaser, c.ctx, n, none, .copy, id, c.org, pos, BitVec.ofNat 64 (c.dstAt pos), c.site, c.seq, w⟩
/-- A unit's count has been included at its phaser (R360). -/
def State.unitCounted (s : State) (m : PhMsg) : State :=
  match m.kind, s.ecmds.find? m.cmd with
  | .copy, some c =>
    ({ s with ecmds := s.ecmds.insert m.cmd { c with units := c.units.set 0 m.pos 3, left := c.left - m.n } } : State).copyCheck m.cmd
  | _, _ => s
/-- A step of a `CPY`'s delivery unit: with `part` none, its bytes are performed and it is counted; else one of its bytes is
performed early, and nothing is counted. Where the first byte that cannot move waits for its page, the step is left for later
(R115), and so it is while a regulator holds it back (R101). -/
def State.copyUnit (s : State) (id : Nat) (c : CopyCmd) (dir : CpyDir) (pos : Nat) (part : Option Nat) : State :=
  let n := c.unitLen pos
  match part with
  | some k =>
    match s.sides c dir (pos + k % n) 1 with
    | (t, .ok (src, dst)) => s.passed (t.moveBytes c dir src dst)
    | (t, .error _) => s.waiting t
  | none =>
    match s.sides c dir pos n with
    | (t, .ok (src, dst)) =>
      let t := t.moveBytes c dir src dst
      s.passed (t.unitDone id c pos n (if dstGlob dir then t.sectorsAt (c.engine / 4) c.ctx (c.dstAt pos) n else Wrote.none))
    | (t, .error _) =>
      match t.firstStop c dir pos n with
      | some (.fault a b va) => t.copyFail id c pos a b va
      | _ => s.waiting t

-- ## Settling (R113)

/-- A claimed page whose bytes have all gone, or come, settles, once the context's tables can be written (R81, R101): `unit` is the
command, `idx` the page. -/
def State.pageSettle (s : State) (id idx : Nat) (offl : Bool) : State :=
  match s.ecmds.find? id with
  | none => s
  | some c =>
    match c.pages[idx]?, (match c.op with | .cpy .. => none | .offl .. => some true | .rtrn .. => some false) with
    | some p, some k =>
      if k ≠ offl ∨ p.settled = true ∨ c.pageDone p = false ∨ s.walkHeld c.ctx = true then s
      else
        let t := s.settlePage c p
        let c := { c with pages := (c.pages.zipIdx).map (fun x => if x.2 = idx then { x.1 with settled := true } else x.1) }
        s.passed (({ t with ecmds := t.ecmds.insert id c } : State).copyCheck id).settleWaits
    | _, _ => s
def execOffloadPageOut (s : State) : Host.Outcome State Fault Refusal := .next (s.pageSettle s.ev.unit s.ev.idx true)
def execReturnPageResident (s : State) : Host.Outcome State Fault Refusal := .next (s.pageSettle s.ev.unit s.ev.idx false)

/-- Commands that have failed but could not end are tried again (R81, R101). -/
def State.retryCopies (s : State) : State :=
  ((s.ecmds.keep (fun _ c => c.fail.isSome)).map Prod.fst).foldl (fun s id => s.passed (s.copyCheck id)) s

-- ## Registers (R119)

/-- A reset fails every queued and active command of the engine with detail `0x4`, oldest first. -/
def State.engineReset (s : State) (e : Nat) : State :=
  ((s.engine e).active ++ (s.engine e).queue).foldl (fun s id =>
    match s.ecmds.find? id with
    | some c => s.copyAbort id c 4
    | none => s) s
/-- A reset of an engine that is not done: a command that it failed has not ended. -/
def State.resetting (s : State) (e : Nat) : Bool :=
  s.ecmds.any (fun x => x.2.engine == e && (match x.2.fail with
    | some (0, 0x11, 4, _) => true
    | _ => false))
/-- A write of `CE_CTL`; `RESET` is kept in no register: `ceCtl` shows it. -/
def State.ceWrite (s : State) (e : Nat) (v : W64) : State :=
  let s := s.setRegFld (ceAddr e 0) 0 0 (fld v 0 0)
  if fld v 1 1 = 1 then s.engineReset e else s
/-- `CE_CTL` as a read finds it: `RESET` reads 1 until it is done. -/
def State.ceCtl (s : State) (e : Nat) : W64 := s.reg (ceAddr e 0) ||| (if s.resetting e then 2 else 0)
/-- `CE_RESET`, `CE_EN`: `unit` is the engine, `on` the value of `EN`. -/
def execCeReset (s : State) : Host.Outcome State Fault Refusal := .next (if s.ev.unit < 32 then s.engineReset s.ev.unit else s)
def execCeEn (s : State) : Host.Outcome State Fault Refusal :=
  .next (if s.ev.unit < 32 then s.setRegFld (ceAddr s.ev.unit 0) 0 0 (if s.ev.on then 1 else 0) else s)

end Sys2Proof.Machine
end

