-- ==== Sys2Proof/Machine/FxFault.lean ====
section
/-! DEFINITION. A fabric program ended by a fault (R323, R324). -/

namespace Sys2Proof.Machine

/-- The program of processor p ends: claim and registers as `fxStop`, and the fault goes to what started it (R323). -/
def State.fxFault (s : State) (p : Nat) (code : BitVec 8) (detail : Nat) (addr : W64) : State :=
  match (s.fxs.get FxSt.init p).cur with
  | none => s
  | some c =>
    match s.fxStop p code detail addr with
    | .error w => w
    | .ok s =>
      let s := match c.org with
        | .group gid => s.updAny gid (fun g => { g with drFx := g.drFx - 1 })
        | _ => s
      let s := s.cmdFault c.org c.slot (if c.np then none else some c.phaser) ⟨code, BitVec.ofNat 32 detail, addr, c.site, c.seq, .fabric⟩
      let s := match c.org with
        | .group _ => s
        | o => s.originDone c.slot o
      let s := match c.tid with
        | some t => s.tryTeamEnd t
        | none => s
      (if c.np then s else s.phaserGc c.phaser).checkEndings
/-- The program ends so, unless a regulator holds back the release of its claim: then it stays, ending. -/
def State.fxTry (s : State) (p : Nat) (code : BitVec 8) (detail : Nat) (addr : W64) : State :=
  match s.pass (s.fxFault p code detail addr) true with
  | .ok t => t
  | .error w =>
    let x := w.fxs.get FxSt.init p
    w.fxIdle p x.cur x.claim (.ending code detail addr)
/-- A fault from outside the program, or from its fetch, ends it; one that is ending already keeps its own. -/
def State.fxFail (s : State) (p : Nat) (code : BitVec 8) (detail : Nat) (addr : W64) : State :=
  match (s.fxs.get FxSt.init p).wait with
  | .ending .. => s
  | _ => s.fxTry p code detail addr
/-- `ABORT` ends the program of a processor with `HANG`, and reads 1 until that is done (R324). -/
def State.fxAbort (s : State) (p : Nat) : State :=
  let s := s.fxFail p fcHang 0 0
  match (s.fxs.get FxSt.init p).wait with
  | .ending .. => s.setRegFld (fxAddr p 0) 1 1 1
  | _ => s
/-- Programs that are ending are tried again (R115, R301). -/
def State.retryFx (s : State) : State :=
  (List.range 16).foldl (fun s p => match (s.fxs.get FxSt.init p).wait with
    | .ending c d a => s.fxTry p c d a
    | _ => s) s

end Sys2Proof.Machine
end

