-- ==== Sys2Proof/Machine/Remote.lean ====
section
/-! DEFINITION. The fabric: packets at a destination (R276 to R278), the remote instructions (R279 to R284), the transfers of
offload and return (R114), acknowledgements, and counts that reach a phaser (R360, R362). -/

namespace Sys2Proof.Machine

-- ## At the destination (R92, R276, R278)

/-- The cause of a remote fault (R278). -/
def remoteCause (code detail : Nat) : Nat × Nat :=
  if code = 0x06 then (2, detail % 64) else if code = 0x07 then (3, detail % 64) else if code = 0x08 then (4, 0) else (5, 0)
def replyFault (code detail va : Nat) : Reply :=
  let c := remoteCause code detail
  .fault (BitVec.ofNat 8 c.1) (BitVec.ofNat 6 c.2) (BitVec.ofNat 64 va)
/-- A queue header that keeps its limits (R283). -/
def headerOk (rowb : W64) : Bool := decide (8 ≤ rowb.toNat) && decide (rowb.toNat ≤ 4096) && rowb.toNat % 8 == 0
/-- The value a flag takes (R281). -/
def flagNew (op : StwsOp) (len : Nat) (old : W64) : W64 :=
  match op with
  | .inc => old + 1
  | .addb => old + BitVec.ofNat 64 len
  | .set => 1
/-- A packet performed at its destination as class 2 traffic (R99, R276), and the answer; none while a page makes it wait
(R115). -/
def State.serveAt (s : State) (die slot : Nat) (p : Packet) : State × Option Reply :=
  let ans {α : Type} (r : State × Except EStop α) (k : α → Reply) : State × Option Reply :=
    match r with
    | (s, .ok x) => (s, some (k x))
    | (s, .error .wait) => (s, none)
    | (s, .error (.fault c d va)) => (s, some (replyFault c d va))
  match p.kind with
  | .write addr bytes => ans (s.rawWrite 2 die slot addr.toNat bytes) (fun _ => .ok)
  | .row addr bytes => ans (s.rawWrite 2 die slot addr.toNat bytes) (fun _ => .ok)
  | .read addr len => ans (s.rawRead 2 die slot addr.toNat len) .data
  | .flag addr op len => ans (s.rawUpd 2 die slot addr.toNat 8 (flagNew op len)) (fun _ => .ok)
  | .atomic addr w64 op v cmp =>
    let o : AtOp := match op with
      | .int o => .int o
      | .cas => .cas
    ans (s.rawUpd 2 die slot addr.toNat (if w64 then 8 else 4) (fun old => o.new w64 old v cmp)) .old
  | .append hdr n =>
    match s.rawRead 2 die slot hdr.toNat 32 with
    | (t, .ok bs) =>
      let q (i : Nat) : W64 := BitVec.ofNat 64 (natOf ((bs.drop (8 * i)).take 8))
      if headerOk (q 3) then
        ans (t.rawUpd 2 die slot hdr.toNat 8 (fun x => x + BitVec.ofNat 64 n)) (fun x => .queue x (q 1) (q 2) (q 3))
      else (t, some (.fault 7 0 hdr))
    | (t, .error .wait) => (t, none)
    | (t, .error (.fault c d va)) => (t, some (replyFault c d va))
/-- The address a packet names. -/
def PktKind.addr : PktKind → W64
  | .write a _ => a
  | .read a _ => a
  | .flag a _ _ => a
  | .atomic a _ _ _ _ => a
  | .append a _ => a
  | .row a _ => a
/-- The context slot is the enabled one that holds the packet's `JOB` (R277). -/
def State.serve (s : State) (die : Nat) (p : Packet) : State × Option Reply :=
  match s.slotOfJob p.job.toNat with
  | none => (s, some (.fault 1 0 (PktKind.addr p.kind)))
  | some slot => s.serveAt die slot p
/-- A peer's packet arrives (R276): `unit` is the port. It waits for a page, or while a regulator holds it back (R101, R115). -/
def execFabricPacketArrival (s : State) : Host.Outcome State Fault Refusal :=
  match s.ev.data with
  | .packet p =>
    if 64 ≤ s.ev.unit ∨ s.present (.port s.ev.unit) = false then .next s
    else match s.serve (s.ev.unit / 8) p with
      | (t, some r) => .next (s.passed { t with replies := t.replies ++ [(p.src, p.cmd, p.part, r)] })
      | (t, none) => .next (s.waiting t)
  | _ => .next s
/-- A write of `UE_JOB` (R277): ignored where it would enable a job twice. -/
def State.jobWrite (s : State) (n : Nat) (v : W64) : State :=
  if fld v 32 32 = 1 ∧ (List.range 64).any (fun m => m != n && s.jobEn m && s.job m == fld v 23 0) = true then s
  else s.regPut (ueJobAddr n) v
/-- `UE_JOB_WRITE`: `unit` is the slot, `val` the value. -/
def execUeJobWrite (s : State) : Host.Outcome State Fault Refusal :=
  .next (if s.ev.unit < 64 then s.jobWrite s.ev.unit s.ev.val else s)

-- ## Sending (R277, R278)

/-- A device ID whose peer-table entry is invalid (R277). -/
def State.peerBad (s : State) (dev : Nat) : Bool :=
  let a := fld (s.reg uePeerAddr) 47 4 * 16 + 16 * dev
  let c := canon a false
  decide (hbmEnd ≤ a) || s.homePoison c || s.unbacked c || natOf (s.homeBytes 0 c 16) == 0
/-- Why nothing may be sent to a device: the cause of R278. The device's own ID names no peer. -/
def State.peerStop (s : State) (slot dev : Nat) : Option Nat :=
  if s.jobEn slot = false then some 9
  else if dev = s.devId then none
  else if s.peerBad dev then some 8
  else none
/-- A packet of a context. -/
def State.packet (s : State) (slot dev cmd part : Nat) (k : PktKind) : Packet :=
  ⟨BitVec.ofNat 24 (s.job slot), BitVec.ofNat 16 s.devId, BitVec.ofNat 16 dev, cmd, part, k⟩
/-- The detail word of a `FABRIC_FAULT` (R278). -/
def fabricDetail (cause detail : Nat) : Nat := cause + detail * 256

-- ## Offload and return on the fabric (R114)

/-- The claimed page of an address. -/
def CopyCmd.page? (c : CopyCmd) (va : Nat) : Option TlbE :=
  (c.pages.find? (fun p => decide (p.e.base ≤ va) && decide (va < p.e.base + p.e.size))).map (fun p => p.e)
/-- The bytes of a return's unit land in the frame of the leaf at the claim, as class 1 traffic (R99, R114). -/
def State.pageLand (s : State) (id : Nat) (c : CopyCmd) (pos : Nat) (bs : List Byte) : State :=
  match c.page? (c.dstAt pos) with
  | none => s
  | some e =>
    let l := (bs.take (c.unitLen pos)).zipIdx.map (fun x => (e.at_ (c.dstAt pos + x.2), e.attr, x.1))
    match l.findIdx? (fun x => s.unbacked x.1) with
    | some i => s.copyFail id c pos 0x16 0 (c.dstAt pos + i)
    | none => (s.rawPut c.ctx 1 l).unitDone id c pos l.length ⟨(l.map (fun x => x.1 / 32)).dedup, false⟩
/-- A part of a command that has been answered is no longer on the wire. -/
def State.answered (s : State) (id part : Nat) : State :=
  { s with wireOut := s.wireOut.filter (fun p => !(p.cmd == id && p.part == part)) }
/-- The answer to a unit of an offload or return. Nothing is counted from the first unit that has failed on (R117). -/
def State.pageReply (s : State) (id : Nat) (c : CopyCmd) (pos : Nat) (r : Reply) : State :=
  let t := s.answered id pos
  let n := c.unitLen pos
  let failed : Bool := c.fail.any (fun f => decide (f.1 ≤ pos))
  match r with
  | .ok => match c.op with
    | .offl _ rem _ dev =>
      if failed then { t with ecmds := t.ecmds.insert id { c with units := c.units.set 0 pos 2 } }
      else t.unitDone id c pos n (if dev = s.devId then t.sectorsAt (c.engine / 4) c.ctx (rem.toNat + pos) n else Wrote.none)
    | _ => t
  | .data bs => match c.op with
    | .rtrn .. => if failed then t else t.pageLand id c pos bs
    | _ => t
  | .fault cause d va => t.copyFail id c pos 0x12 (fabricDetail cause.toNat d.toNat) va.toNat
  | _ => t
/-- The bytes of an offload's unit as they were at the claim (R114): `bs` is what their places hold now. -/
def CopyCmd.claimed (c : CopyCmd) (va : Nat) (bs : List Byte) : List Byte :=
  bs.zipIdx.map (fun x =>
    match (c.page? (va + x.2)).bind (fun e => (c.saved.find? (e.at_ (va + x.2) / 64)).map (fun v => (v, e.at_ (va + x.2) % 64))) with
    | some (v, o) => (v >>> (8 * o)).setWidth 8
    | none => x.1)
/-- A unit of an offload is read and sent, one of a return is asked for; to the device's own ID it is performed at once. It waits
for a page, or while a regulator holds it back (R101, R115). -/
def State.pageUnit (s : State) (id : Nat) (c : CopyCmd) (pos : Nat) : State :=
  let n := c.unitLen pos
  let start (t : State) (dev : Nat) (rem : W64) (k : PktKind) : State :=
    match t.peerStop c.ctx dev with
    | some cause => s.passed (t.copyFail id c pos 0x12 cause (rem.toNat + pos))
    | none =>
      let p := t.packet c.ctx dev id pos k
      if dev = t.devId then
        match t.serve (c.engine / 4) p with
        | (u, some r) => s.passed (u.pageReply id c pos r)
        | (u, none) => s.waiting u
      else s.passed { t with ecmds := t.ecmds.insert id { c with units := c.units.set 0 pos 1 }, wireOut := t.wireOut ++ [p] }
  match c.op with
  | .cpy .. => s
  | .offl loc rem _ dev =>
    match s.rawRead 1 (c.engine / 4) c.ctx (loc.toNat + pos) n with
    | (t, .ok bs) => start t dev rem (.write (rem + BitVec.ofNat 64 pos) (c.claimed (loc.toNat + pos) bs))
    | (t, .error (.fault a b va)) => s.passed (t.copyFail id c pos a b va)
    | (t, .error .wait) => s.waiting t
  | .rtrn _ rem _ dev => start s dev rem (.read (rem + BitVec.ofNat 64 pos) n)

-- ## Remote commands: units and ends (R281, R282)

/-- The bytes of the unit that starts at a position of a transfer to an address (R109). -/
def runLen (dst len pos : Nat) : Nat :=
  if len ≤ pos then 0
  else if pos = 0 ∨ (dst + pos) % 4096 = 0 then min (len - pos) (4096 - (dst + pos) % 4096)
  else 0
def RemoteCmd.unitLen (c : RemoteCmd) (pos : Nat) : Nat :=
  match c.op with
  | .put r _ len _ => runLen r.toNat len.toNat pos
  | .get _ l len => runLen l.toNat len.toNat pos
  | _ => 0
def RemoteCmd.counts (c : RemoteCmd) : Option Nat :=
  match c.op with
  | .put .. => if c.np then none else some c.phaser
  | .get .. => if c.np then none else some c.phaser
  | _ => none
/-- The remote address of a position, for faults (R278): the flag of a `PUTS` follows its payload, the rows of an `APPEND` its
header. -/
def RemoteCmd.remoteAt (c : RemoteCmd) (pos : Nat) : W64 :=
  match c.op with
  | .put r _ len flag => match flag with
    | some (_, fa) => if pos = len.toNat then fa else r + BitVec.ofNat 64 pos
    | none => r + BitVec.ofNat 64 pos
  | .get r _ _ => r + BitVec.ofNat 64 pos
  | .append h _ => match pos, c.head with
    | k + 1, some (t, base, _, rowb) => base + (t + BitVec.ofNat 64 k) * rowb
    | _, _ => h
  | .ratom _ _ _ ls => match ls[pos]? with
    | some x => x.2.1
    | none => 0
/-- A command leaves its die's queue. -/
def State.remoteEnd (s : State) (id : Nat) (c : RemoteCmd) : State :=
  let s := { s with remotes := s.remotes.erase id, wireOut := s.wireOut.filter (fun p => p.cmd != id) }
  let s := s.drainDone (.group c.gid) .remote
  let acq := match c.op with
    | .ratom _ _ o _ => ordAcq o
    | _ => false
  let s := match s.grp c.gid with
    | some g => if acq then s.acquire g .system else s
    | none => s
  s.afterCmd (some c.tid) c.counts
/-- A fault of a command is delivered (R278): once. -/
def State.remoteRaise (s : State) (c : RemoteCmd) (code detail : Nat) (va : W64) : State :=
  if c.faulted then s
  else s.cmdFault (.group c.gid) c.ctx c.counts ⟨BitVec.ofNat 8 code, BitVec.ofNat 32 detail, va, c.site, c.seq, .remote⟩
/-- A fault that ends a command. -/
def State.remoteFault (s : State) (id : Nat) (c : RemoteCmd) (code detail : Nat) (va : W64) : State :=
  (s.remoteRaise c code detail va).remoteEnd id c
/-- A block transfer's first unit that is not done, from a position on; with none, where it ends. -/
def RemoteCmd.firstOpen (c : RemoteCmd) : Nat → Nat → Nat
  | 0, pos => pos
  | n + 1, pos =>
    let l := c.unitLen pos
    if l = 0 ∨ c.units.get 0 pos ≠ 3 then pos else RemoteCmd.firstOpen c n (pos + l)
/-- The length of a block transfer; its lanes' own faults leave an `APPEND` or `RATOM` going on (R284). -/
def RemoteCmd.block? (c : RemoteCmd) : Option Nat := match c.op with
  | .put _ _ len _ => some len.toNat
  | .get _ _ len => some len.toNat
  | _ => none
/-- The flag of a `PUTS` is still to be performed. -/
def RemoteCmd.flagLeft (c : RemoteCmd) : Bool := match c.op with
  | .put _ _ len (some _) => c.units.get 0 len.toNat != 3
  | _ => false
/-- A command's progress is recorded. It ends by its fault once every byte before the failing one is done (R116, R278), with
its lanes' fault once all have ended, and otherwise with nothing left. -/
def State.remotePut (s : State) (id : Nat) (c : RemoteCmd) : State :=
  match c.fail, c.block? with
  | some (pos, code, d, va), some len =>
    if pos ≤ c.firstOpen len 0 then s.remoteFault id c code d va else { s with remotes := s.remotes.insert id c }
  | some (_, code, d, va), none =>
    if c.left = 0 then s.remoteFault id c code d va else { s with remotes := s.remotes.insert id c }
  | none, _ => if c.left = 0 ∧ c.flagLeft = false then s.remoteEnd id c else { s with remotes := s.remotes.insert id c }
/-- A unit or lane has failed: the earliest is reported (R116, R278). -/
def RemoteCmd.fails (c : RemoteCmd) (pos code detail : Nat) (va : W64) : RemoteCmd :=
  { c with fail := match c.fail with
    | some x => if x.1 < pos then some x else some (pos, code, detail, va)
    | none => some (pos, code, detail, va) }
/-- A count of a command (R281), with what its bytes let observers acquire (R336). -/
def State.remoteCount (s : State) (id : Nat) (c : RemoteCmd) (n pos : Nat) (va : W64) (w : Wrote) : State :=
  if c.np then s else s.sendCount ⟨c.phaser, c.ctx, n, none, .remote, id, .group c.gid, pos, va, c.site, c.seq, w⟩
/-- What the bytes of a `PUTR` or `PUTS` to the device itself let observers acquire. -/
def State.putWrote (s : State) (c : RemoteCmd) (pos n : Nat) : Wrote :=
  if c.dev = s.devId then s.sectorsAt c.die c.ctx (c.remoteAt pos).toNat n else Wrote.none
/-- Registers that a lane's answer will have written (R283, R284). -/
def State.pendAdd (s : State) (c : RemoteCmd) (ws : List RegWrite) (demote : Bool) : State :=
  s.updGrp c.gid (fun g => { g with
    pend := updWhere g.pend (fun p => c.pend == some p.id) (fun p => { p with writes := p.writes ++ ws, demote := p.demote || demote }) })
/-- The destination register and width of a lane's result. -/
def State.laneDest (s : State) (c : RemoteCmd) : Nat :=
  match s.grp c.gid with
  | some g => match (g.pend.find? (fun p => c.pend == some p.id)).bind (fun p => p.dests.head?) with
    | some d => d.n
    | none => 255
  | none => 255
def lane64 (d l : Nat) (v : W64) : List RegWrite := [.v d l (v.setWidth 32), .v (d + 1) l ((v >>> 32).setWidth 32)]
/-- A part of a command has failed: a unit or the flag of a block transfer, a lane, which keeps its register (R284), or the
header, with which an `APPEND` ends. -/
def State.partFault (s : State) (id : Nat) (c : RemoteCmd) (part code detail : Nat) (va : W64) : State :=
  match c.op, part with
  | .append .., 0 => s.remoteFault id c code detail va
  | .append .., k + 1 =>
    s.remotePut id { c.fails (k + 1) code detail va with units := c.units.set 0 (k + 1) 3, left := c.left - 1 }
  | .ratom .., k => s.remotePut id { c.fails k code detail va with units := c.units.set 0 k 3, left := c.left - 1 }
  | _, k => s.remotePut id (c.fails k code detail va)

/-- The answer to a packet of a command; a wait where the page of bytes that it brings is in transition (R115). -/
def State.remoteReply (s : State) (id : Nat) (c : RemoteCmd) (part : Nat) (r : Reply) : Except State State :=
  let n := c.unitLen part
  let mark (c : RemoteCmd) (k : Nat) : RemoteCmd := { c with units := c.units.set 0 part 3, left := c.left - k, sent := true }
  match r with
  | .ok => match c.op with
    | .put _ _ len flag =>
      if part = len.toNat then
        .ok (((s.answered id part).remoteCount id c len.toNat part (c.remoteAt 0) (s.putWrote c 0 len.toNat)).remotePut id (mark c 0))
      else
        let t := s.answered id part
        .ok ((if flag.isNone then t.remoteCount id c n part (c.remoteAt part) (s.putWrote c part n) else t).remotePut id (mark c n))
    | .append _ ls => match ls[part - 1]?, c.head with
      | some (lane, _), some (t, _) =>
        .ok (((s.answered id part).pendAdd c (lane64 (s.laneDest c) lane (t + BitVec.ofNat 64 (part - 1))) false).remotePut id (mark c 1))
      | _, _ => .ok s
    | _ => .ok s
  | .data bs => match c.op with
    | .get _ l _ => match s.rawWrite 2 c.die c.ctx (l.toNat + part) (bs.take n) with
      | (t, .ok _) =>
        .ok (((t.answered id part).remoteCount id c n part (l + BitVec.ofNat 64 part) (t.sectorsAt c.die c.ctx (l.toNat + part) n)).remotePut id
          (mark c n))
      | (t, .error .wait) => .error t
      | (t, .error (.fault a b va)) => .ok ((t.answered id part).partFault id c part a b (BitVec.ofNat 64 va))
    | _ => .ok s
  | .old v => match c.op with
    | .ratom op w64 _ ls => match ls[part]? with
      | none => .ok s
      | some (lane, _, _, cmp) =>
        let d := s.laneDest c
        let fail : Bool := op == .cas && v != cmp
        .ok (((s.answered id part).pendAdd c (if w64 then lane64 d lane v else [.v d lane (v.setWidth 32)]) fail).remotePut id (mark c 1))
    | _ => .ok s
  | .queue t base cap rowb => match c.op with
    | .append _ ls =>
      let d := s.laneDest c
      let late := ls.zipIdx.filter (fun x => decide (cap.toNat ≤ t.toNat + x.2))
      let ws := late.flatMap (fun x => lane64 d x.1.1 (BitVec.ofNat 64 (2 ^ 63 + (t.toNat + x.2))))
      let units := late.foldl (fun m x => m.set 0 (x.2 + 1) 3) (c.units.set 0 0 3)
      .ok (((s.answered id part).pendAdd c ws false).remotePut id
        { c with units := units, left := c.left - late.length, head := some (t, base, cap, rowb), sent := true })
    | _ => .ok s
  | .fault cause d va => .ok ((s.answered id part).partFault id c part 0x12 (fabricDetail cause.toNat d.toNat) va)
/-- An earlier `.rod` command of the group to the device has not ended (R282). -/
def State.rodBlocked (s : State) (id : Nat) (c : RemoteCmd) : Bool :=
  c.rod && s.remotes.any (fun e => decide (e.1 < id) && e.2.rod && e.2.gid == c.gid && e.2.dev == c.dev)
/-- The next packet of a command at a unit, lane or row; none where there is none to send, or a stop of the local access. -/
def State.remoteNext (s : State) (c : RemoteCmd) (part : Nat) : State × Option (Except EStop PktKind) :=
  let n := c.unitLen part
  let load (va n : Nat) (k : List Byte → PktKind) : State × Option (Except EStop PktKind) :=
    match s.rawRead 2 c.die c.ctx va n with
    | (s, .ok bs) => (s, some (.ok (k bs)))
    | (s, .error x) => (s, some (.error x))
  if c.units.get 0 part ≠ 0 ∨ (c.block?.isSome ∧ c.fail.any (fun f => decide (f.1 ≤ part)) = true) then (s, none)
  else
    match c.op with
    | .put r l len flag =>
      if n ≠ 0 then load (l.toNat + part) n (.write (r + BitVec.ofNat 64 part))
      else match flag with
        | some (op, fa) => if part = len.toNat ∧ c.left = 0 then (s, some (.ok (.flag fa op len.toNat))) else (s, none)
        | none => (s, none)
    | .get r _ _ => if n ≠ 0 then (s, some (.ok (.read (r + BitVec.ofNat 64 part) n))) else (s, none)
    | .ratom op w64 _ ls =>
      match ls[part]? with
      | none => (s, none)
      | some (_, a, v, cmp) =>
        if part = 0 ∨ c.units.get 0 (part - 1) = 3 then (s, some (.ok (.atomic a w64 op v cmp))) else (s, none)
    | .append h ls =>
      if part = 0 then (s, some (.ok (.append h ls.length)))
      else match ls[part - 1]?, c.head with
        | some (_, va), some (t, base, _, rowb) =>
          load va.toNat rowb.toNat (.row (base + (t + BitVec.ofNat 64 (part - 1)) * rowb))
        | _, _ => (s, none)
/-- A command sends a unit's packet, or performs it where the device names itself (R276). What a unit needs comes first: a stop
of the local access, then one of the sending (R277, R280). It waits for a page, or while a regulator holds it back (R101, R115). -/
def State.remoteUnit (s : State) (id : Nat) (c : RemoteCmd) (part : Nat) : State :=
  if c.trig.isSome || s.rodBlocked id c || (s.paused && !c.sent) then s
  else
    match s.remoteNext c part with
    | (_, none) => s
    | (t, some (.error .wait)) => s.waiting t
    | (t, some (.error (.fault a b va))) => s.passed (t.partFault id c part a b (BitVec.ofNat 64 va))
    | (t, some (.ok k)) =>
      match s.peerStop c.ctx c.dev with
      | some cause => s.passed (t.partFault id c part 0x12 cause (c.remoteAt part))
      | none =>
        let p := t.packet c.ctx c.dev id part k
        if c.dev = s.devId then
          match t.serve c.die p with
          | (u, some r) => match u.remoteReply id c part r with
            | .ok v => s.passed v
            | .error v => s.waiting v
          | (u, none) => s.waiting u
        else s.passed { t with
          remotes := t.remotes.insert id { c with units := c.units.set 0 part 1, sent := true }
          wireOut := t.wireOut ++ [p] }

-- ## Fabric processors' queues (R285)

def State.fx (s : State) (p : Nat) : FxSt := s.fxs.get FxSt.init p
def State.setFx (s : State) (p : Nat) (x : FxSt) : State := { s with fxs := s.fxs.set FxSt.init p x }
/-- A start joins a processor's queue. -/
def State.pushFx (s : State) (p : Nat) (st : FxStart) : State := s.setFx p { s.fx p with queue := (s.fx p).queue ++ [st] }
def State.fxFull (s : State) (p : Nat) : Bool := decide (16 ≤ (s.fx p).queue.length)

-- ## What fabric processors have on the wire (R278, R296, R316, R320)

/-- The answer to what a processor sent under a number: its `SEND` or `TRIG` is complete, or its chunk acknowledged, or the
program faults. -/
def State.fxAck (s : State) (id : Nat) (r : Reply) : State :=
  match s.fxWires.find? (fun w => w.id == id) with
  | none => s
  | some w =>
    let x := s.fx w.p
    match r with
    | .ok =>
      let s := { s with fxWires := s.fxWires.filter (fun v => v.id != id) }
      if x.wait = .send id then s.setFx w.p { x with wait := .none, fpc := x.fpc + 8 }
      else match x.lay with
        | some l => if l.sent = some id then s.setFx w.p { x with lay := some { l with acked := true } } else s
        | none => s
    | .fault cause d va => s.fxFail w.p fcFabric (fabricDetail cause.toNat d.toNat) va
    | _ => s

/-- A delivery unit of an engine command is moved, and counted (R109, R281): `unit` is the command, `idx` the unit's first
byte in copy order, the lane or the row. With `on` false, only byte `idx2` of a `CPY`'s unit is performed, early. -/
def execDeliveryUnitCount (s : State) : Host.Outcome State Fault Refusal :=
  let id := s.ev.unit
  let pos := s.ev.idx
  match s.ecmds.find? id with
  | some c =>
    if c.started = false ∨ c.unitLen pos = 0 ∨ c.units.get 0 pos ≠ 0 ∨ c.fail.any (fun f => decide (f.1 ≤ pos)) = true then .next s
    else match c.op with
      | .cpy dir _ _ _ => .next (s.copyUnit id c dir pos (if s.ev.on then none else some s.ev.idx2))
      | _ => .next (s.pageUnit id c pos)
  | none =>
    match s.remotes.find? id with
    | some c => .next (s.remoteUnit id c pos)
    | none => .next s
/-- A checkpoint ends without its done word: event `0x05` names the silo's address (R446, R447). -/
def State.ckptFail (s : State) : State :=
  match s.ckpt with
  | none => s
  | some c =>
    let s := { s with ckpt := none, wireOut := s.wireOut.filter (fun p => p.cmd != 0) }
    (s.event c.slot 0x05 fcFabric.toNat c.queue c.tag (c.pkt.setWidth 64) c.addr).packetDone c.slot c.queue c.pkt
/-- A peer answers a packet of this device (R278, R281): `unit` is the command, `idx` the unit, lane or row. An answer waits for a
page, or while a regulator holds back the bytes that it brings (R101, R115). Packets of a
checkpoint name command 0; what a fabric processor sent is named by its own number. -/
def execRemoteAcknowledge (s : State) : Host.Outcome State Fault Refusal :=
  let id := s.ev.unit
  let pos := s.ev.idx
  match s.ev.data with
  | .reply r =>
    if s.fxWires.any (fun w => w.id == id && w.dev != s.devId) then .next (s.fxAck id r)
    else if !s.wireOut.any (fun p => p.cmd == id && p.part == pos) then .next s
    else match s.ecmds.find? id with
      | some c => .next (s.passed (s.pageReply id c pos r))
      | none =>
        match s.remotes.find? id with
        | some c => match s.remoteReply id c pos r with
          | .ok t => .next (s.passed t)
          | .error t => .next (s.waiting t)
        | none =>
          if r = .ok then .next { s with wireOut := s.wireOut.filter (fun p => !(p.cmd == id && p.part == pos)) }
          else if id = 0 then .next s.ckptFail
          else .next s
  | _ => .next s
/-- A trigger's counter has reached its threshold (R281): `unit` is the command. -/
def execRemoteTriggerFire (s : State) : Host.Outcome State Fault Refusal :=
  let id := s.ev.unit
  match s.remotes.find? id with
  | none => .next s
  | some c =>
    match c.trig with
    | none => .next s
    | some (th, va) =>
      match s.engRead 2 c.die c.ctx va.toNat 8 with
      | (s, .ok bs) =>
        if th.toNat ≤ natOf bs then .next { s with remotes := s.remotes.insert id { c with trig := none } } else .next s
      | (s, .error .wait) => .next s
      | (s, .error (.fault a b v)) => .next (s.remoteFault id c a b (BitVec.ofNat 64 v))

-- ## Issue (R279 to R284)

/-- A checked remote command enters its die's queue (R280, R281); `pend` names the result its lanes will write. -/
def remoteIssue (s : State) (c : Ctx) (sc : Scope) (k : RemoteCmd) (writes : Bool) : Eff :=
  let d := c.g.core / 80
  let full := if 256 ≤ (s.remotes.keep (fun _ c => c.die == d)).length then some (Why.remoteQueue d) else none
  issueEngine s c .remote full sc (fun s =>
    let id := s.nextId
    let k := { k with die := d, gid := c.gid, tid := c.g.tid, ctx := c.g.ctx, site := c.sp.pc, seq := c.g.cmdseq + 1
                      pend := if writes then some (id + 1) else none }
    .done { s with nextId := id + 1, remotes := s.remotes.insert id k } { Res.nil with late := writes })
/-- A remote command before its queue has named it. -/
def remoteCmd (op : RemoteOp) (dev : Nat) (np : Bool) (ph : Nat) (rod : Bool) (trig : Option (W64 × W64)) (left : Nat) :
    RemoteCmd := ⟨op, 0, 0, 0, 0, dev, np, ph, rod, trig, 0, 0, none, false, [], left, false, none, none⟩
/-- A block transfer (R279, R280): the checks in their order. -/
def blockWord (s : State) (h : Hdr) (us : List Use) (m : RMods) (r l len ctl : SReg) (flag : Option StwsOp)
    (f : W64 → W64 → W64 → Option (StwsOp × W64) → RemoteOp) : Host.Outcome State Fault Refusal :=
  onceWord s h .long us (fun s c =>
    let ra := c.g.srcS r
    let la := c.g.srcS l
    let n := c.g.srcS len
    let w := c.g.srcS ctl
    let fa := flag.map (fun o => (o, c.g.getS (len.toNat + 1)))
    let ca := c.g.getS (ctl.toNat + 1)
    let lane := lowLane c.act
    if n.toNat = 0 ∨ 2 ^ 32 ≤ n.toNat ∨ 2 ^ 52 ≤ ra.toNat ∨ fa.any (fun x => decide (2 ^ 52 ≤ x.2.toNat)) = true ∨ (m.trig = false ∧ 2 ^ 32 ≤ w.toNat) then .fault s (flt fcOperand)
    else match (fa.map Prod.snd).filter (fun a => a.toNat % 8 != 0) with
      | some a => .fault s (flt fcMisaligned 0 a lane)
      | none =>
        if m.trig ∧ ca.toNat % 8 ≠ 0 then .fault s (flt fcMisaligned 0 ca lane)
        else if 2 ^ 52 < la.toNat + n.toNat then .fault s (flt fcTranslation 1 la lane)
        else
          let trig := if m.trig then some (BitVec.ofNat 64 (fld w 63 32), ca) else none
          remoteIssue s c .device (remoteCmd (f ra la n fa) (fld w 31 16) m.np (fld w 15 0) m.rod trig n.toNat) false)
/-- `PUTR`, `GETR`, `PUTS` (R279 to R282). -/
def execPutr (h : Hdr) (m : RMods) (r l len ctl : SReg) (s : State) : Host.Outcome State Fault Refusal :=
  blockWord s h (Instr.putr h m r l len ctl).uses m r l len ctl none .put
def execGetr (h : Hdr) (m : RMods) (r l len ctl : SReg) (s : State) : Host.Outcome State Fault Refusal :=
  blockWord s h (Instr.getr h m r l len ctl).uses m r l len ctl none (fun r l n _ => .get r l n)
def execPuts (h : Hdr) (sop : StwsOp) (m : RMods) (r l len ctl : SReg) (s : State) : Host.Outcome State Fault Refusal :=
  blockWord s h (Instr.puts h sop m r l len ctl).uses m r l len ctl (some sop) .put
/-- `APPEND` (R283). -/
def execAppend (h : Hdr) (d : Reg) (a : SReg) (b : Reg) (s : State) : Host.Outcome State Fault Refusal :=
  issue s h .long (Instr.append h d a b).uses false 1 (fun s c =>
    let ha := c.g.srcS a
    let dev := c.g.getS (a.toNat + 1)
    let ls := (laneList c.act).map (fun l => (l, c.g.getV64 b.toNat l))
    if ls.isEmpty then .done s Res.nil
    else if 2 ^ 16 ≤ dev.toNat ∨ 2 ^ 52 ≤ ha.toNat then .fault s (flt fcOperand)
    else if ha.toNat % 32 ≠ 0 then .fault s (flt fcMisaligned 0 ha (lowLane c.act))
    else match ls.find? (fun x => decide (2 ^ 52 ≤ x.2.toNat)) with
      | some x => .fault s (flt fcTranslation 1 x.2 x.1)
      | none => remoteIssue s c .device (remoteCmd (.append ha ls) dev.toNat true 0 false none ls.length) true)
/-- After the command named `n` or above, no split of its group performs a later access before the result is written: the
acquire of the command comes first (R144, R268, R328). -/
def State.holdNew (s : State) (n : Nat) : State :=
  match (List.find? (fun e => decide (n ≤ e.1)) s.remotes).bind (fun e => e.2.pend.map (fun p => (e.2.gid, p))) with
  | none => s
  | some (gid, p) => s.updGrp gid (fun g => { g with
      splits := g.splits.map (fun x => { x with holdFor := x.holdFor ++ [p] }) })
/-- `RATOM` (R284). -/
def execRatom (h : Hdr) (op : RAOp) (w64 : Bool) (ord : Ord4) (d : Reg) (a : SReg) (b cc : Reg) (s : State) :
    Host.Outcome State Fault Refusal :=
  let r := issue s h .long (Instr.ratom h op w64 ord d a b cc).uses false 1 (fun s c =>
    let as := c.addrs (c.g.ea a b 0)
    let dev := fld (c.g.getS (a.toNat + 1)) 15 0
    let val (l : Nat) : W64 × W64 :=
      match op with
      | .cas => if w64 then (c.g.getV64 (cc.toNat + 2) l, c.g.getV64 cc.toNat l)
        else ((c.g.getV (cc.toNat + 1) l).setWidth 64, (c.g.getV cc.toNat l).setWidth 64)
      | .int _ => (c.g.src false w64 cc l, 0)
    if as.isEmpty then .done s Res.nil
    else match misaligned (if w64 then 8 else 4) as with
      | some f => .fault s f
      | none =>
        match as.find? (fun x => decide (2 ^ 52 ≤ x.2.toNat)) with
        | some x => .fault s (flt fcTranslation 1 x.2 x.1)
        | none =>
        let ls := as.map (fun x => (x.1, x.2, (val x.1).1, (val x.1).2))
        remoteIssue s c (if ordRel ord then .system else .device)
          (remoteCmd (.ratom op w64 ord ls) dev true 0 false none ls.length) true)
  match r with
  | .next t => .next (if ordAcq ord then t.holdNew s.nextId else t)
  | .fault f => .fault f
  | .refused x => .refused x

-- ## Counts and faults that reach a phaser (R360, R362)

/-- A count that no phaser takes faults its command (R116, R362); a copy command is there until all its counts are taken. -/
def State.countLost (s : State) (m : PhMsg) : State :=
  match m.kind, s.ecmds.find? m.cmd, s.remotes.find? m.cmd with
  | .copy, some c, _ => s.copyFail m.cmd c m.pos 0x11 1 m.addr.toNat
  | .copy, none, _ => s
  | .remote, _, some c => s.remoteFault m.cmd c 0x13 2 m.addr
  | k, _, _ => s.cmdFault m.org m.slot none ⟨0x13, 2, m.addr, m.site, m.seq, k⟩
/-- An engine count reaches its cluster unit (R360): `unit` is its place among those on their way. -/
def execPhaserEngineCount (s : State) : Host.Outcome State Fault Refusal :=
  match s.phMsgs[s.ev.unit]? with
  | none => .next s
  | some m =>
    match m.flt with
    | some _ => .next s
    | none =>
      let t := { s with phMsgs := s.phMsgs.eraseIdx s.ev.unit }
      match t.phaserCount m.phaser m.slot m.n m.site m.seq m.wrote with
      | some t => .next (s.passed ((t.unitCounted m).phaserGc m.phaser))
      | none => .next (s.passed ((t.countLost m).phaserGc m.phaser))
/-- An engine fault reaches its phaser (R362): `unit` as for a count. -/
def execPhaserEngineFault (s : State) : Host.Outcome State Fault Refusal :=
  match s.phMsgs[s.ev.unit]? with
  | none => .next s
  | some m =>
    match m.flt with
    | none => .next s
    | some f => .next ((({ s with phMsgs := s.phMsgs.eraseIdx s.ev.unit } : State).phaserFault m.phaser m.slot f).phaserGc m.phaser)

end Sys2Proof.Machine
end

