-- ==== Sys2Proof/Machine/Fabric.lean ====
section
/-! DEFINITION. Fabric processors: the words of their programs, starts, messages, and control (R285, R299 to R325). -/

namespace Sys2Proof.Machine

open Sys2Proof.Num

-- ## The issue of a fabric word (R308)

/-- What a word does: it completes; it goes to an address; a transfer is in progress, after which the program goes on; it
waits; it faults; or a page makes it wait and it issues again. -/
inductive FxEff
  | next (s : State) (x : FxSt)
  | jump (s : State) (x : FxSt) (t : W64)
  | busy (s : State) (x : FxSt) (t : W64)
  | waits (s : State) (x : FxSt) (w : FxWait)
  | fault (s : State) (code : BitVec 8) (detail : Nat) (addr : W64)
  | stall (s : State)
def FxEff.apply (p : Nat) : FxEff → State
  | .next s x => s.setFx p { x with fpc := x.fpc + 8 }
  | .jump s x t => s.setFx p { x with fpc := t }
  | .busy s x t => s.setFx p { x with busy := some t }
  | .waits s x w => s.setFx p { x with wait := w }
  | .fault s code detail addr => s.fxFault p code detail addr
  | .stall s => s
/-- What it does to the machine, in one step: where a page makes it wait, or a regulator holds back what it reads and writes, it
has no effect and issues again (R99, R101, R115). -/
def FxEff.run (s : State) (p : Nat) : FxEff → State
  | .stall t => s.waiting t
  | e => s.passed (e.apply p)
/-- A word executed by the issuing processor; `f` has its number, its state and its start. -/
def fxWord (s : State) (f : State → Nat → FxSt → FxStart → FxEff) : Host.Outcome State Fault Refusal :=
  match s.curFx with
  | none => .fault .noProcessor
  | some p =>
    match (s.fx p).cur with
    | none => .fault .noProcessor
    | some c => .next ((f s p (s.fx p) c).run s p)
/-- What follows an engine access. -/
def eng {α : Type} (r : State × Except EStop α) (k : State → α → FxEff) : FxEff :=
  match r with
  | (s, .ok a) => k s a
  | (s, .error .wait) => .stall s
  | (s, .error (.fault c d va)) => .fault s (BitVec.ofNat 8 c) d (BitVec.ofNat 64 va)
/-- Two engine accesses that belong together: the second follows the first. -/
def engSeq {α β : Type} (a : State × Except EStop α) (b : State → α → State × Except EStop β) : State × Except EStop β :=
  match a with
  | (t, .ok x) => b t x
  | (t, .error e) => (t, .error e)
/-- An operand the rules forbid (R311). -/
def fxBad (s : State) : FxEff := .fault s fcOperand 0 0

-- ## Registers, branches (R313)

def FxSt.r (x : FxSt) (a : FReg) : W64 := x.f.get 0 a.toNat
def FxSt.put (x : FxSt) (a : FReg) (v : W64) : FxSt := { x with f := x.f.set 0 a.toNat v }
def FxSt.op2 (x : FxSt) : FOp2 → W64
  | .reg c => x.r c
  | .imm i => i.signExtend 64
/-- A word on registers alone. -/
def fxReg (s : State) (a : FReg) (f : FxSt → W64) : Host.Outcome State Fault Refusal :=
  fxWord s (fun s _ x _ => .next s (x.put a (f x)))
/-- `FX_NOP`. -/
def execFxNop (s : State) : Host.Outcome State Fault Refusal := fxWord s (fun s _ x _ => .next s x)
/-- `FX_LDI`. -/
def execFxLdi (a : FReg) (imm : BitVec 44) (s : State) : Host.Outcome State Fault Refusal := fxReg s a (fun _ => imm.signExtend 64)
/-- `FX_LDI_HI`. -/
def execFxLdiHi (a : FReg) (imm : BitVec 20) (s : State) : Host.Outcome State Fault Refusal :=
  fxReg s a (fun x => imm ++ (x.r a).setWidth 44)
/-- `FX_ADD`. -/
def execFxAdd (a b : FReg) (c : FOp2) (s : State) : Host.Outcome State Fault Refusal := fxReg s a (fun x => x.r b + x.op2 c)
/-- `FX_SUB`. -/
def execFxSub (a b : FReg) (c : FOp2) (s : State) : Host.Outcome State Fault Refusal := fxReg s a (fun x => x.r b - x.op2 c)
/-- `FX_AND`. -/
def execFxAnd (a b : FReg) (c : FOp2) (s : State) : Host.Outcome State Fault Refusal := fxReg s a (fun x => x.r b &&& x.op2 c)
/-- A shift by a signed amount, to the right where it is negative. -/
def fxShl (v n : W64) : W64 :=
  let k := n.toInt
  if 64 ≤ k ∨ k ≤ -64 then 0 else if 0 ≤ k then v <<< k.toNat else v >>> (-k).toNat
/-- `FX_SHL`. -/
def execFxShl (a b : FReg) (c : FOp2) (s : State) : Host.Outcome State Fault Refusal := fxReg s a (fun x => fxShl (x.r b) (x.op2 c))
/-- A branch's target (R310). -/
def FxSt.target (x : FxSt) (off : BitVec 44) : W64 := x.fpc + 8 * off.signExtend 64
def fcond (c : FCond) (v w : W64) : Bool :=
  match c with
  | .eq => v == w
  | .ne => v != w
  | .ltu => decide (v.toNat < w.toNat)
  | .geu => decide (w.toNat ≤ v.toNat)
  | .lts => decide (v.toInt < w.toInt)
  | .ges => decide (w.toInt ≤ v.toInt)
/-- `FX_CMPB`. -/
def execFxCmpb (c : FCond) (a b : FReg) (off : BitVec 44) (s : State) : Host.Outcome State Fault Refusal :=
  fxWord s (fun s _ x _ => if fcond c (x.r a) (x.r b) then .jump s x (x.target off) else .next s x)
/-- `FX_JMP`. -/
def execFxJmp (off : BitVec 44) (s : State) : Host.Outcome State Fault Refusal :=
  fxWord s (fun s _ x _ => .jump s x (x.target off))
/-- `FX_LOOP`. -/
def execFxLoop (a : FReg) (off : BitVec 44) (s : State) : Host.Outcome State Fault Refusal :=
  fxWord s (fun s _ x _ =>
    let x' := x.put a (x.r a - 1)
    if x'.r a = 0 then .next s x' else .jump s x' (x.target off))

-- ## Buffers and memory (R311, R314, R315)

/-- A buffer address with `n` bytes inside one buffer: its place in the buffers. -/
def bufAt (v : W64) (n : Nat) : Option Nat := if v.toNat < 2 ^ 19 ∧ v.toNat % 65536 + n ≤ 65536 then some v.toNat else none
def FxSt.bytes (x : FxSt) (b n : Nat) : List Byte := (List.range n).map (fun i => x.buf.get 0 (b + i))
def FxSt.putBytes (x : FxSt) (b : Nat) (bs : List Byte) : FxSt :=
  { x with buf := (bs.zipIdx).foldl (fun m y => m.set 0 (b + y.2) y.1) x.buf }
/-- A transfer's size in bytes. -/
def xferOk (n : W64) : Bool := decide (1 ≤ n.toNat) && decide (n.toNat ≤ 65536)
/-- Two ranges have a byte in common. -/
def meets (a n b k : Nat) : Bool := decide (a < b + k) && decide (b < a + n) && n != 0 && k != 0
/-- `FX_LOADC` (R314). -/
def execFxLoadc (a b c : FReg) (s : State) : Host.Outcome State Fault Refusal :=
  fxWord s (fun s p x k =>
    let n := (x.r c).toNat
    match bufAt (x.r a) n with
    | none => fxBad s
    | some o =>
      if xferOk (x.r c) = false then fxBad s
      else eng (s.rawRead 2 (p / 2) k.slot (x.r b).toNat n) (fun s bs =>
        .busy s (x.putBytes o bs) (x.fpc + 8)))
/-- `FX_STOREC` (R314). -/
def execFxStorec (a b c : FReg) (s : State) : Host.Outcome State Fault Refusal :=
  fxWord s (fun s p x k =>
    let n := (x.r c).toNat
    match bufAt (x.r a) n with
    | none => fxBad s
    | some o =>
      if xferOk (x.r c) = false then fxBad s
      else eng (s.rawWrite 2 (p / 2) k.slot (x.r b).toNat (x.bytes o n)) (fun s _ =>
        .busy s x (x.fpc + 8)))
/-- A barrier word read (R315): the comparison holds and the word completes, or the program waits. -/
def fxWaitm (s : State) (p : Nat) (x : FxSt) (slot : Nat) (c : WCmp) (d : Nat) (va v : W64) : FxEff :=
  eng (s.rawRead 2 (p / 2) slot va.toNat 8) (fun s bs =>
    let w : W64 := BitVec.ofNat 64 (natOf bs)
    if wcmp c w v then .next s { x with f := x.f.set 0 d w, wait := .none } else .waits s x (.waitm c d va v))
/-- `FX_WAITM` (R315). -/
def execFxWaitm (c : WCmp) (a b d : FReg) (s : State) : Host.Outcome State Fault Refusal :=
  fxWord s (fun s p x k =>
    if (x.r b).toNat % 8 ≠ 0 then .fault s fcMisaligned 0 (x.r b)
    else fxWaitm s p x k.slot c a.toNat (x.r b) (x.r d))
/-- `FX_WAITM_REREAD`: `unit` is the processor. -/
def execFxWaitmReread (s : State) : Host.Outcome State Fault Refusal :=
  let p := s.ev.unit
  let x := s.fx p
  match x.cur, x.wait with
  | some k, .waitm c d va v => .next ((fxWaitm s p x k.slot c d va v).run s p)
  | _, _ => .next s
/-- `FX_SIGM` (R315): the program's earlier stores have been performed. -/
def execFxSigm (set : Bool) (a b : FReg) (s : State) : Host.Outcome State Fault Refusal :=
  fxWord s (fun s p x k =>
    if (x.r a).toNat % 8 ≠ 0 then .fault s fcMisaligned 0 (x.r a)
    else eng (s.rawUpd 2 (p / 2) k.slot (x.r a).toNat 8 (fun old => if set then x.r b else old + x.r b)) (fun s _ => .next s x))

-- ## Messages and starts to peers (R316, R320)

/-- Something goes on the wire to a processor; the word waits until it is answered. -/
def fxSend (s : State) (p : Nat) (x : FxSt) (slot : Nat) (ch : W64) (k : FxPkt) : FxEff :=
  match s.peerStop slot (fld ch 15 0) with
  | some cause => .fault s fcFabric cause 0
  | none =>
    let id := s.nextId
    .waits { s with nextId := id + 1, fxWires := s.fxWires ++ [(⟨p, id, s.job slot, fld ch 15 0, fld ch 19 16, k⟩ : FxWire)] } x (.send id)
/-- `FX_SEND` (R316). -/
def execFxSend (a b c : FReg) (s : State) : Host.Outcome State Fault Refusal :=
  fxWord s (fun s p x k =>
    let ch := x.r b
    let n := (x.r c).toNat
    match bufAt (x.r a) n with
    | none => fxBad s
    | some o =>
      if xferOk (x.r c) = false ∨ 2 ^ 36 ≤ ch.toNat then fxBad s
      else fxSend s p x k.slot ch (.msg (fld ch 35 20) (x.bytes o n)))
/-- The oldest message of a channel in the store, of the program's context (R316). -/
def FxSt.pick (x : FxSt) (k : FxStart) (ch : W64) : Option Nat :=
  x.store.findIdx? (fun m => m.slot == k.slot && m.gen == k.gen && m.dev == fld ch 15 0 && m.proc == fld ch 19 16 && m.tag == fld ch 35 20)
/-- A `RECV` takes a message from the store, or waits. -/
def fxRecv (s : State) (x : FxSt) (k : FxStart) (va : W64) (d : Nat) (ch : W64) : FxEff :=
  match (x.pick k ch).bind (fun i => (x.store[i]?).map (fun m => (i, m))) with
  | none => .waits s x (.recv va.toNat d ch)
  | some (i, m) =>
    match bufAt va m.bytes.length with
    | none => fxBad s
    | some o =>
      let x := x.putBytes o m.bytes
      .next s { x with store := x.store.eraseIdx i, f := x.f.set 0 d (BitVec.ofNat 64 m.bytes.length), wait := .none }
/-- `FX_RECV` (R316). -/
def execFxRecv (a b c : FReg) (s : State) : Host.Outcome State Fault Refusal :=
  fxWord s (fun s _ x k =>
    if (bufAt (x.r a) 0).isNone = true ∨ 2 ^ 36 ≤ (x.r b).toNat then fxBad s
    else fxRecv s x k (x.r a) c.toNat (x.r b))
/-- A waiting `RECV` of a context that a message would satisfy. -/
def FxSt.wants (x : FxSt) (m : RxMsg) : Bool :=
  match x.cur, x.wait with
  | some k, .recv _ _ ch => m.slot == k.slot && m.gen == k.gen && m.dev == fld ch 15 0 && m.proc == fld ch 19 16 && m.tag == fld ch 35 20
  | _, _ => false
/-- The store has room for a message: 16 messages, 256 KiB. -/
def FxSt.room (x : FxSt) (n : Nat) : Bool :=
  decide (x.store.length < 16) && decide ((x.store.map (fun m => m.bytes.length)).foldl (· + ·) n ≤ 262144)
/-- A processor accepts a message, into a waiting `RECV` or its store; none while it has no room. -/
def State.acceptMsg (s : State) (p : Nat) (m : RxMsg) : Option State :=
  let x := s.fx p
  let x' := { x with store := x.store ++ [m] }
  match x.cur, x.wait with
  | some k, .recv va d ch =>
    if x.wants m then some ((fxRecv s x' k (BitVec.ofNat 64 va) d ch).apply p)
    else if x.room m.bytes.length then some (s.setFx p x') else none
  | _, _ => if x.room m.bytes.length then some (s.setFx p x') else none
/-- `FX_TRIG` (R320). -/
def execFxTrig (a b c : FReg) (s : State) : Host.Outcome State Fault Refusal :=
  fxWord s (fun s p x k =>
    if 2 ^ 20 ≤ (x.r a).toNat then fxBad s
    else if (x.r b).toNat % 8 ≠ 0 then .fault s fcMisaligned 0 (x.r b)
    else fxSend s p x k.slot (x.r a) (.start x.fpc (x.r b) (x.r c)))
/-- A start of a peer's program joins a queue: none while that is full (R320). -/
def State.acceptStart (s : State) (q slot dev proc : Nat) (fpc prog arg : W64) : Option State :=
  if s.fxFull q then none
  else some (s.pushFx q ⟨slot, s.ctxGen.get 0 slot, prog, arg, none, .peer dev proc fpc, none, 0, 0, true, 0⟩)
/-- What of this device's own wire waits for a processor (R276). -/
def State.ownWire (s : State) (q src : Nat) (start : Bool) : Option FxWire :=
  s.fxWires.find? (fun w => w.dev == s.devId && w.proc == q && w.p == src && (match w.pkt with
    | .msg .. => !start
    | .start .. => start
    | _ => false))
/-- `START_PACKET_ARRIVAL` (R320): `unit` is the processor, the packet its peer's, or that of a processor of this device. -/
def execStartPacketArrival (s : State) : Host.Outcome State Fault Refusal :=
  let q := s.ev.unit
  match s.ev.data with
  | .start m =>
    if 16 ≤ q ∨ s.present (.fx q) = false then .next s
    else if m.srcDev.toNat = s.devId then
      match s.ownWire q m.srcProc.toNat true with
      | some w => match w.pkt, s.slotOfJob w.job with
        | .start fpc prog arg, some slot => match s.acceptStart q slot s.devId w.p fpc prog arg with
          | some s => .next (s.fxAck w.id .ok)
          | none => .next s
        | _, _ => .next (s.fxAck w.id (.fault 1 0 0))
      | none => .next s
    else
      let answer (s : State) (r : Reply) : State := { s with replies := s.replies ++ [(m.srcDev, m.srcProc.toNat, 2 ^ 16, r)] }
      match s.slotOfJob m.job.toNat with
      | none => .next (answer s (.fault 1 0 0))
      | some slot => match s.acceptStart q slot m.srcDev.toNat m.srcProc.toNat m.srcFpc m.prog m.arg with
        | some s => .next (answer s .ok)
        | none => .next s
  | _ => .next s

-- ## The winnower (R181 to R183, R291 to R294, R317)

/-- The bytes of an image of n elements (R293). -/
def imageLen (sign : Bool) (bl n : Nat) : Nat := (n + bl - 1) / bl * (2 + ternBytes sign bl)
/-- The blocks of a chunk, the last padded with +0 (R181). -/
def blocksOf (bl : Nat) : Nat → List W32 → List (List W32)
  | 0, _ => []
  | k + 1, xs => (xs.take bl ++ List.replicate (bl - xs.length) 0) :: blocksOf bl k (xs.drop bl)
/-- The codes of a block and its scale; padding codes 0. -/
def codeBlock (sign : Bool) (b : List W32) : Nat × List Int :=
  let s := ternScale b
  (s, b.map (ternCode sign s))
/-- The coding of a chunk: the image, and the decoded value of each element. -/
def winnow (sign : Bool) (bl : Nat) (xs : List W32) : List Byte × List W32 :=
  let bs := (blocksOf bl ((xs.length + bl - 1) / bl) xs).map (codeBlock sign)
  (bs.flatMap (fun b => bytesOf 2 b.1) ++ bs.flatMap (fun b => ternPack sign bl b.2),
   (bs.flatMap (fun b => b.2.map (ternValue b.1))).take xs.length)
/-- The digits a code byte holds. -/
def perByte (sign : Bool) : Nat := if sign then 8 else 5
/-- A code byte that is no code (R292). -/
def badCode (sign : Bool) (b : Byte) : Bool := !sign && decide (243 ≤ b.toNat)
/-- The decoding of an image; true where a code byte is none. -/
def unwinnow (sign : Bool) (bl n : Nat) (img : List Byte) : List W32 × Bool :=
  let nb := (n + bl - 1) / bl
  let cb := ternBytes sign bl
  let codes := img.drop (2 * nb)
  let val (i : Nat) : W32 :=
    let s := natOf ((img.drop (2 * (i / bl))).take 2)
    let j := i % bl
    ternValue s ((ternUnpack sign (codes.getD (cb * (i / bl) + j / perByte sign) 0) (j % perByte sign)).getD 0)
  ((List.range n).map val, (codes.take (nb * cb)).any (badCode sign))
/-- FP32 elements of bytes, and bytes of elements. -/
def wordsOf (bs : List Byte) (n : Nat) : List W32 := (List.range n).map (fun i => BitVec.ofNat 32 (natOf ((bs.drop (4 * i)).take 4)))
def fp32Bytes (xs : List W32) : List Byte := xs.flatMap (fun v => bytesOf 4 v.toNat)
/-- FP32 sum and difference, to nearest even. -/
def fadd32 (a b : W32) : W32 := (rnd32 .rn (add false (dec32 a) (dec32 b)).1).1
def fsub32 (a b : W32) : W32 := (rnd32 .rn (add false (dec32 a) (dec32 b).flip).1).1
/-- `FX_DEC` (R292, R317): an invalid code leaves each element old or new. -/
def execFxDec (sign : Bool) (n : BlkLen) (a b c : FReg) (s : State) : Host.Outcome State Fault Refusal :=
  fxWord s (fun s p x _ =>
    let k := (x.r c).toNat
    let il := imageLen sign (BlkLen.n n) k
    if k = 0 then .next s x
    else match bufAt (x.r a) (4 * k), bufAt (x.r b) il with
      | some o, some i =>
        if meets o (4 * k) i il then fxBad s
        else
          let r := unwinnow sign (BlkLen.n n) k (x.bytes i il)
          if r.2 then
            let old := wordsOf (x.bytes o (4 * k)) k
            let mix := ((r.1.zip old).zipIdx).map (fun y => if Config.newByte s.tick y.2 then y.1.1 else y.1.2)
            .fault (s.setFx p (x.putBytes o (fp32Bytes mix))) fcGleaning 5 0
          else .busy s (x.putBytes o (fp32Bytes r.1)) (x.fpc + 8)
      | _, _ => fxBad s)
/-- `FX_ENC` (R317): the image, and the residual in place. -/
def execFxEnc (sign : Bool) (n : BlkLen) (a b c : FReg) (s : State) : Host.Outcome State Fault Refusal :=
  fxWord s (fun s _ x _ =>
    let k := (x.r c).toNat
    let il := imageLen sign (BlkLen.n n) k
    if k = 0 then .next s x
    else if 16384 < k then fxBad s
    else match bufAt (x.r a) il, bufAt (x.r b) (4 * k) with
      | some o, some i =>
        if meets o il i (4 * k) then fxBad s
        else
          let xs := wordsOf (x.bytes i (4 * k)) k
          let r := winnow sign (BlkLen.n n) xs
          .busy s ((x.putBytes o r.1).putBytes i (fp32Bytes ((xs.zip r.2).map (fun y => fsub32 y.1 y.2)))) (x.fpc + 8)
      | _, _ => fxBad s)
/-- The value of a BF16 element. -/
def decB (h : Nat) : XV := bf16.decode h
/-- The sum of two BF16 elements, formed in FP32 (R289, R317). -/
def baddN (a b : Nat) : Nat := (bf16.round .rn 0 (dec32 (rnd32 .rn (add false (decB a) (decB b)).1).1)).1
/-- Elements of two bytes. -/
def halvesOf (bs : List Byte) (n : Nat) : List Nat := (List.range n).map (fun i => natOf ((bs.drop (2 * i)).take 2))
/-- `FX_ADDB` (R317). -/
def execFxAddb (bf : Bool) (a b c : FReg) (s : State) : Host.Outcome State Fault Refusal :=
  fxWord s (fun s _ x _ =>
    let k := (x.r c).toNat
    let n := k * (if bf then 2 else 4)
    if k = 0 then .next s x
    else match bufAt (x.r a) n, bufAt (x.r b) n with
      | some o, some i =>
        if o ≠ i ∧ meets o n i n = true then fxBad s
        else
          let bs := if bf then ((halvesOf (x.bytes i n) k).zip (halvesOf (x.bytes o n) k)).flatMap (fun y => bytesOf 2 (baddN y.1 y.2))
            else fp32Bytes (((wordsOf (x.bytes i n) k).zip (wordsOf (x.bytes o n) k)).map (fun y => fadd32 y.1 y.2))
          .busy s (x.putBytes o bs) (x.fpc + 8)
      | _, _ => fxBad s)
/-- A square added to the norm (R318). -/
def sqAdd (acc : W64) (v : XV) : W64 :=
  BitVec.ofNat 64 (fp64.round .rn 0 (add false (fp64.decode acc.toNat) (mul v v).1).1).1
/-- `FX_SQACC` (R318). -/
def execFxSqacc (bf : Bool) (a c : FReg) (s : State) : Host.Outcome State Fault Refusal :=
  fxWord s (fun s _ x _ =>
    let k := (x.r c).toNat
    let n := k * (if bf then 2 else 4)
    if k = 0 then .next s x
    else match bufAt (x.r a) n with
      | some o =>
        let vs : List XV := if bf then (halvesOf (x.bytes o n) k).map decB else (wordsOf (x.bytes o n) k).map dec32
        .busy s { x with nacc := vs.foldl sqAdd x.nacc } (x.fpc + 8)
      | none => fxBad s)

-- ## The norm's all-reduce (R290, R318)

/-- This device's partial goes to every other device of the table. -/
def State.sendPartials (s : State) (p slot : Nat) (ranks : List Nat) (v : W64) : Except Nat State :=
  ((ranks.filter (· != s.devId)).dedup).foldlM (fun s d =>
    match s.peerStop slot d with
    | some cause => .error cause
    | none => .ok { s with
        nextId := s.nextId + 1
        fxWires := s.fxWires ++ [(⟨p, s.nextId, s.job slot, d, p, .partial_ v⟩ : FxWire)] }) s
/-- Every partial has arrived. -/
def FxSt.summed (x : FxSt) (me : Nat) (ranks : List Nat) : Bool := ranks.all (fun d => d == me || (x.parts.find? d).isSome)
/-- The sum in table order, from +0. -/
def FxSt.total (x : FxSt) (me : Nat) (ranks : List Nat) : W64 :=
  ranks.foldl (fun acc d =>
    let v := if d = me then x.nacc else x.parts.get 0 d
    BitVec.ofNat 64 (fp64.round .rn 0 (add false (fp64.decode acc.toNat) (fp64.decode v.toNat)).1).1) 0
/-- The sum rounded to FP32. -/
def toFp32 (v : W64) : W32 := (rnd32 .rn (fp64.decode v.toNat)).1
/-- `FX_NORMX` (R318). -/
def execFxNormx (a b c : FReg) (s : State) : Host.Outcome State Fault Refusal :=
  fxWord s (fun s p x k =>
    let n := (x.r b).toNat
    if n = 0 ∨ 65536 < n then fxBad s
    else if (x.r c).toNat % 4 ≠ 0 then .fault s fcMisaligned 0 (x.r c)
    else eng (s.rawRead 2 (p / 2) k.slot (x.r a).toNat (2 * n)) (fun s bs =>
      let ranks := halvesOf bs n
      if ranks.count s.devId ≠ 1 then .fault s fcLayout 0 0
      else match s.sendPartials p k.slot ranks x.nacc with
        | .error cause => .fault s fcFabric cause 0
        | .ok s => .waits s x (.norm ranks (x.r c))))

-- ## Gleaning buffers (R299 to R303, R319)

/-- The gleaning table of a slot. -/
def State.glEntry (s : State) (slot k : Nat) : Nat := fld (s.reg (fxGltabAddr slot)) 55 16 * 4096 + 32 * (k - 1)
/-- A handle that names no entry: detail `0x1`. -/
def State.glNone (s : State) (slot : Nat) (h : W32) : Bool :=
  let r := s.reg (fxGltabAddr slot)
  h == 0 || h.toNat % 65536 == 0 || decide (fld r 15 1 < h.toNat % 65536) || fld r 0 0 == 0
/-- The first failure of an entry's checks `0x2` and `0x3` (R301). -/
def entryBad (bs : List Byte) (h : W32) (need : Nat) : Option Nat :=
  let a := qfldB bs 0 63 0
  let f := qfldB bs 8
  if f 48 48 = 0 ∨ f 63 51 ≠ 0 ∨ f 47 32 ≠ h.toNat / 65536 then some 2
  else if a % 64 ≠ 0 ∨ 2 ^ 52 ≤ a ∨ f 31 0 < need then some 3
  else none
where
  qfldB (bs : List Byte) (off hi lo : Nat) : Nat := fld (BitVec.ofNat 64 (natOf ((bs.drop off).take 8))) hi lo
/-- An entry read for a claim: its bytes, or the fault. -/
def fxEntry (s : State) (p slot : Nat) (h : W32) (need : Nat) (k : State → List Byte → FxEff) : FxEff :=
  if s.glNone slot h then .fault s fcGleaning 1 0
  else eng (s.rawRead 2 (p / 2) slot (s.glEntry slot (h.toNat % 65536)) 32) (fun s bs =>
    match entryBad bs h need with
    | some d => .fault s fcGleaning d 0
    | none => k s bs)
/-- The claim an entry gives. -/
def claimOf (s : State) (slot : Nat) (h : W32) (bs : List Byte) (cid : W32) : GClaim :=
  ⟨h, s.glEntry slot (h.toNat % 65536), BitVec.ofNat 64 (natOf (bs.take 8)), natOf ((bs.drop 8).take 4), cid⟩
/-- Bits set in the byte of an entry that holds `BUSY` and `NF`, and bits cleared. -/
def State.glFlags (s : State) (p slot entry : Nat) (setb clr : W64) : State × Except EStop W64 :=
  s.rawUpd 2 (p / 2) slot (entry + 0x0E) 1 (fun b => (b ||| setb) &&& ~~~ clr)
/-- A claim (R301). -/
def fxClaim (s : State) (p slot : Nat) (h cid : W32) (need : Nat) (k : State → GClaim → FxEff) : FxEff :=
  fxEntry s p slot h need (fun s bs =>
    if (bs.getD 0x0E 0).getLsbD 1 then .fault s fcGleaning 4 0
    else
      let c := claimOf s slot h bs cid
      eng (engSeq (s.glFlags p slot c.entry 2 0) (fun s _ =>
        s.rawWrite 2 (p / 2) slot (c.entry + 0x10) (bytesOf 4 0 ++ bytesOf 4 cid.toNat))) (fun s _ => k s c))
/-- `FX_GLN_CLM`. -/
def execFxGlnClm (a b c : FReg) (s : State) : Host.Outcome State Fault Refusal :=
  fxWord s (fun s p x k =>
    if x.claim.isSome then fxBad s
    else fxClaim s p k.slot ((x.r a).setWidth 32) ((x.r b).setWidth 32) (x.r c).toNat (fun s cl => .next s { x with claim := some cl, owes := false }))
/-- The checks of a slot operation: a buffer range, a claim, slots inside it. -/
def fxSlots (s : State) (x : FxSt) (a b c : FReg) (k : Nat → Nat → Nat → FxEff) : FxEff :=
  let n := (x.r c).toNat
  match bufAt (x.r a) (4 * n), x.claim with
  | none, _ => fxBad s
  | some _, none => .fault s fcGleaning 1 0
  | some o, some cl => if cl.elems < (x.r b).toNat + n then .fault s fcGleaning 3 0 else k o (cl.addr.toNat + 4 * (x.r b).toNat) n
/-- `FX_GLN_ADD`. -/
def execFxGlnAdd (a b c : FReg) (s : State) : Host.Outcome State Fault Refusal :=
  fxWord s (fun s p x k =>
    if x.r c = 0 then .next s x
    else fxSlots s x a b c (fun o va n =>
      eng (s.rawRead 2 (p / 2) k.slot va (4 * n)) (fun s bs =>
        .busy s (x.putBytes o (fp32Bytes (((wordsOf (x.bytes o (4 * n)) n).zip (wordsOf bs n)).map (fun y => fadd32 y.1 y.2)))) (x.fpc + 8))))
/-- Residuals written to their slots, with `NF` where one is not finite (R298). -/
def State.glStore (s : State) (p slot : Nat) (cl : GClaim) (va : Nat) (vs : List W32) : State × Except EStop W64 :=
  engSeq (s.rawWrite 2 (p / 2) slot va (fp32Bytes vs)) (fun s _ =>
    if vs.any (fun v => !(dec32 v).finite) then s.glFlags p slot cl.entry 4 0 else (s, .ok 0))
/-- `FX_GLN_ST`. -/
def execFxGlnSt (a b c : FReg) (s : State) : Host.Outcome State Fault Refusal :=
  fxWord s (fun s p x k =>
    if x.r c = 0 then .next s x
    else fxSlots s x a b c (fun o va n =>
      match x.claim with
      | none => .fault s fcGleaning 1 0
      | some cl => eng (s.glStore p k.slot cl va (wordsOf (x.bytes o (4 * n)) n)) (fun s _ => .busy s { x with owes := true } (x.fpc + 8))))
/-- `PROG` counts a hop. -/
def State.glHop (s : State) (p slot : Nat) (cl : GClaim) : State × Except EStop W64 :=
  s.rawUpd 2 (p / 2) slot (cl.entry + 0x10) 4 (· + 1)
/-- `FX_GLN_HOP`. -/
def execFxGlnHop (s : State) : Host.Outcome State Fault Refusal :=
  fxWord s (fun s p x k =>
    match x.claim with
    | none => .fault s fcGleaning 1 0
    | some cl => eng (s.glHop p k.slot cl) (fun s _ => .next s { x with owes := false }))
/-- A claim released: `EXCH` counts the exchange, `BUSY` is cleared. -/
def State.glRelease (s : State) (p slot : Nat) (cl : GClaim) : State × Except EStop W64 :=
  engSeq (s.rawUpd 2 (p / 2) slot (cl.entry + 0x18) 8 (· + 1)) (fun s _ => s.glFlags p slot cl.entry 0 2)
/-- `FX_GLN_REL`. -/
def execFxGlnRel (s : State) : Host.Outcome State Fault Refusal :=
  fxWord s (fun s p x k =>
    match x.claim with
    | none => .fault s fcGleaning 1 0
    | some cl => eng (s.glRelease p k.slot cl) (fun s _ => .next s { x with claim := none, owes := false }))
/-- `FX_GLN_RSM` (R305). -/
def execFxGlnRsm (a b c : FReg) (s : State) : Host.Outcome State Fault Refusal :=
  fxWord s (fun s p x k =>
    let h := (x.r a).setWidth 32
    let cid := (x.r b).setWidth 32
    if x.claim.isSome then fxBad s
    else fxEntry s p k.slot h 0 (fun s bs =>
      if (bs.getD 0x0E 0).getLsbD 1 = false ∨ natOf ((bs.drop 0x14).take 4) ≠ cid.toNat then .fault s fcGleaning 4 0
      else .next s { x.put c (BitVec.ofNat 64 (natOf ((bs.drop 0x10).take 4))) with claim := some (claimOf s k.slot h bs cid) }))
/-- `GLEANING_TABLE_WRITE` (R299): `unit` is the slot, `val` the value; a claim reads the register when it is made. -/
def execGleaningTableWrite (s : State) : Host.Outcome State Fault Refusal :=
  .next (if s.ev.unit < 64 then s.regPut (fxGltabAddr s.ev.unit) s.ev.val else s)

-- ## State images (R321)

/-- The buffers of a mask. -/
def maskBufs (m : Nat) : List Nat := (List.range 8).filter (fun i => m / 2 ^ i % 2 == 1)
def FxSt.image (x : FxSt) (mask : Nat) : List Byte :=
  let h := bytesOf 8 (1 + mask * 65536) ++ bytesOf 8 (x.fpc + 8).toNat ++ bytesOf 8 x.nacc.toNat
    ++ (List.range 16).flatMap (fun i => bytesOf 8 (x.f.get 0 i).toNat)
    ++ bytesOf 8 (match x.claim with
      | some c => c.handle.toNat + c.cid.toNat * 2 ^ 32
      | none => 0)
  h ++ List.replicate (256 - h.length) 0 ++ (maskBufs mask).flatMap (fun i => x.bytes (65536 * i) 65536)
/-- `FX_CKPT_SV`. -/
def execFxCkptSv (a : FReg) (mask : BitVec 8) (s : State) : Host.Outcome State Fault Refusal :=
  fxWord s (fun s p x k =>
    if (x.r a).toNat % 256 ≠ 0 then .fault s fcMisaligned 0 (x.r a)
    else eng (s.rawWrite 2 (p / 2) k.slot (x.r a).toNat (x.image mask.toNat)) (fun s _ => .busy s x (x.fpc + 8)))
/-- An image's header that may be restored. -/
def imageOk (h : List Byte) : Bool := natOf (h.take 2) == 1 && ((h.drop 0xA0).take 0x60).all (· == 0)
/-- `FX_CKPT_LD`: `F`, `NACC` and the masked buffers are restored; the program continues at the saved `FPC`. -/
def execFxCkptLd (a : FReg) (s : State) : Host.Outcome State Fault Refusal :=
  fxWord s (fun s p x k =>
    if (x.r a).toNat % 256 ≠ 0 then .fault s fcMisaligned 0 (x.r a)
    else eng (s.rawRead 2 (p / 2) k.slot (x.r a).toNat 256) (fun s h =>
      if imageOk h = false then fxBad s
      else
        let bufs := maskBufs (natOf ((h.drop 2).take 1))
        eng (s.rawRead 2 (p / 2) k.slot ((x.r a).toNat + 256) (65536 * bufs.length)) (fun s bs =>
          let q (o : Nat) : W64 := BitVec.ofNat 64 (natOf ((h.drop o).take 8))
          let x' := (bufs.zipIdx).foldl (fun (x : FxSt) y => x.putBytes (65536 * y.1) ((bs.drop (65536 * y.2)).take 65536)) x
          let x' := { x' with nacc := q 0x10, f := (List.range 16).foldl (fun m i => m.set 0 i (q (0x18 + 8 * i))) [] }
          .busy s x' (q 8 &&& ~~~ 7))))

-- ## The end of a program (R322)

/-- A program ends without a fault: its phaser's count, its origin, the next start. -/
def State.fxEnd (s : State) (p : Nat) (k : FxStart) : State :=
  let x := s.fx p
  let s := s.setReg (fxAddr p 0x10) x.fpc
  let s := s.setRegFld (fxAddr p 0x28) 31 0 (fld (s.reg (fxAddr p 0x28)) 31 0 + 1)
  let s := { s.setFx p { x with cur := none, claim := none, wait := .none, busy := none, owes := false, parts := [], lay := none } with
    fxWires := s.fxWires.filter (fun w => w.p != p) }
  let s := if k.np then s else s.sendCount ⟨k.phaser, k.slot, 1, none, .fabric, 0, k.org, 0, 0, k.site, k.seq, ⟨[], true⟩⟩
  let s := (s.drainDone k.org .fabric).originDone k.slot k.org
  s.afterCmd k.tid (if k.np then none else some k.phaser)
/-- `FX_HALT`. -/
def execFxHalt (s : State) : Host.Outcome State Fault Refusal :=
  match s.curFx with
  | none => .fault .noProcessor
  | some p =>
    match (s.fx p).cur, (s.fx p).claim with
    | none, _ => .fault .noProcessor
    | some k, none => .next (s.fxEnd p k)
    | some k, some cl => match s.glRelease p k.slot cl with
      | (t, .ok _) => .next (s.passed (t.fxEnd p k))
      | (t, .error .wait) => .next (s.waiting t)
      | (t, .error (.fault c d va)) => .next (s.passed (t.fxFault p (BitVec.ofNat 8 c) d (BitVec.ofNat 64 va)))

-- ## Starts and control (R285, R286, R306, R307, R324)

/-- A processor takes its next start (R307): `unit` is the processor. -/
def execFxProgramStart (s : State) : Host.Outcome State Fault Refusal :=
  let p := s.ev.unit
  let x := s.fx p
  match x.queue, x.cur with
  | k :: rest, none =>
    if 16 ≤ p ∨ s.fxEn p = false ∨ s.paused = true ∨ s.present (.fx p) = false then .next s
    else .next (s.setFx p {
      f := if k.desc.isSome then [] else SMap.set 0 [] 0 k.arg
      buf := if x.owner = some (k.slot, k.gen) then x.buf else []
      nacc := 0
      fpc := k.prog &&& ~~~ 7
      claim := none
      store := x.store.filter (fun m => m.slot == k.slot && m.gen == k.gen)
      queue := rest
      cur := some k
      owner := some (k.slot, k.gen)
      wait := .none
      busy := none
      owes := false
      parts := []
      lay := none })
  | _, _ => .next s
/-- `FX_ABORT` (R324, R325): `unit` is the processor; a running program ends with `HANG`. -/
def execFxAbort (s : State) : Host.Outcome State Fault Refusal := .next (s.fxAbort s.ev.unit)
/-- `FX_EN`: `unit` is the processor, `on` the value. -/
def execFxEn (s : State) : Host.Outcome State Fault Refusal :=
  .next (if s.ev.unit < 16 then s.setRegFld (fxAddr s.ev.unit 0) 0 0 (if s.ev.on then 1 else 0) else s)

/-- `COLL` and `LAYX` (R285, R286): the checks, the release, the queue. -/
def fxIssue (s : State) (h : Hdr) (us : List Use) (np : Bool) (ctl a : SReg) (align : Nat)
    (f : State → Ctx → FxStart → FxStart) : Host.Outcome State Fault Refusal :=
  onceWord s h .long us (fun s c =>
    let w := c.g.srcS ctl
    let va := c.g.srcS a
    let p := fld w 19 16
    if 2 ^ 20 ≤ w.toNat ∨ s.present (.fx p) = false then .fault s (flt fcOperand)
    else if va.toNat % align ≠ 0 then .fault s (flt fcMisaligned 0 va (lowLane c.act))
    else issueEngine s c .fabric (if s.fxFull p then some (.fxQueue p) else none) .device (fun s =>
      let k : FxStart := ⟨c.g.ctx, s.ctxGen.get 0 c.g.ctx, va, 0, none, .group c.gid, some c.g.tid, c.sp.pc, c.g.cmdseq + 1, np, fld w 15 0⟩
      .done (s.pushFx p (f s c k)) Res.nil))
/-- `COLL` (R285). -/
def execColl (h : Hdr) (np : Bool) (a b ctl : SReg) (s : State) : Host.Outcome State Fault Refusal :=
  fxIssue s h (Instr.coll h np a b ctl).uses np ctl a 8 (fun _ c k => { k with arg := c.g.srcS b })
/-- `LAYX` (R286). -/
def execLayx (h : Hdr) (np : Bool) (a ctl : SReg) (s : State) : Host.Outcome State Fault Refusal :=
  fxIssue s h (Instr.layx h np a ctl).uses np ctl a 128 (fun _ _ k => { k with desc := some k.prog, prog := 0 })

end Sys2Proof.Machine
end

