-- ==== Sys2Proof/Machine/Layout.lean ====
section
/-! DEFINITION. Exchanges derived from layouts (R287 to R290, R294 to R303): the descriptor, the ring steps, the hops, what
arrives for a fabric processor, and transports that fail (R278). -/

namespace Sys2Proof.Machine

open Sys2Proof.Num

-- ## The descriptor (R287, R288)

/-- The 16 quadwords of a descriptor. -/
structure LayDesc where
  w : List W64
  deriving DecidableEq, Repr
def LayDesc.q (x : LayDesc) (i : Nat) : W64 := x.w[i]?.getD 0
def LayDesc.cid (x : LayDesc) : W32 := (x.q 0).setWidth 32
def LayDesc.nax (x : LayDesc) : Nat := fld (x.q 0) 33 32 + 1
def LayDesc.ndim (x : LayDesc) : Nat := fld (x.q 0) 35 34 + 1
def LayDesc.bf (x : LayDesc) : Bool := fld (x.q 0) 39 36 == 1
def LayDesc.cmp (x : LayDesc) : Nat := fld (x.q 0) 41 40
def LayDesc.sign (x : LayDesc) : Bool := x.cmp == 2
def LayDesc.bl (x : LayDesc) : Nat := 16 * 2 ^ fld (x.q 0) 43 42
def LayDesc.norm (x : LayDesc) : Bool := fld (x.q 0) 44 44 == 1
def LayDesc.ax (x : LayDesc) (a : Nat) : Nat := fld (x.q 1) (8 * a + 7) (8 * a) + 1
def LayDesc.dim (x : LayDesc) (d : Nat) : Nat := fld (x.q (5 + d / 2)) (32 * (d % 2) + 31) (32 * (d % 2)) + 1
def LayDesc.src (x : LayDesc) : Nat := (x.q 7).toNat
def LayDesc.dst (x : LayDesc) : Nat := (x.q 8).toNat
def LayDesc.gln (x : LayDesc) : W32 := (x.q 9).setWidth 32
def LayDesc.nrma (x : LayDesc) : Nat := (x.q 10).toNat
/-- The axes of a layout's mask: partial sums, or a dimension's shards; `tgt` selects the target. -/
def LayDesc.part (x : LayDesc) (tgt : Bool) (a : Nat) : Bool := (x.q (if tgt then 4 else 3)).getLsbD (32 + a)
def LayDesc.shd (x : LayDesc) (tgt : Bool) (d a : Nat) : Bool := (x.q (if tgt then 4 else 3)).getLsbD (8 * d + a)
/-- An axis's role in a layout. -/
inductive Role
  | rep
  | part
  | shard (d : Nat)
  deriving DecidableEq, Repr
/-- Every role an axis has been given. -/
def LayDesc.named (x : LayDesc) (tgt : Bool) (a : Nat) : List Role :=
  (if x.part tgt a then [.part] else []) ++ ((List.range 4).filter (fun d => x.shd tgt d a)).map .shard
def LayDesc.role (x : LayDesc) (tgt : Bool) (a : Nat) : Role := (x.named tgt a).headD .rep
/-- The sizes of the axes that shard a dimension. -/
def LayDesc.shards (x : LayDesc) (tgt : Bool) (d : Nat) : Nat :=
  ((List.range 4).filter (fun a => x.shd tgt d a)).foldl (fun n a => n * x.ax a) 1
/-- A layout's word: reserved bits, axes and dimensions beyond the counts, an axis in two places, a size that does not divide. -/
def LayDesc.layoutBad (x : LayDesc) (tgt : Bool) : Bool :=
  (x.q (if tgt then 4 else 3)) &&& ~~~ (bitsM 35 32 ||| bitsM 27 24 ||| bitsM 19 16 ||| bitsM 11 8 ||| bitsM 3 0) != 0
    || (List.range 4).any (fun a => (decide (x.nax ≤ a) && !(x.named tgt a).isEmpty) || decide (1 < (x.named tgt a).length))
    || (List.range 4).any (fun d => (decide (x.ndim ≤ d) && (List.range 4).any (fun a => x.shd tgt d a))
        || (decide (d < x.ndim) && x.dim d % x.shards tgt d != 0))
/-- The ring steps of an axis (R288); none for a pair of roles that has no step. -/
def LayDesc.axisSteps (x : LayDesc) (a : Nat) : Option (List RingKind) :=
  match x.role false a, x.role true a with
  | .part, .shard d => some [.reduce d]
  | .part, .rep => some [.reduceFlat, .gatherFlat]
  | .shard d, .rep => some [.gather d]
  | .shard d, .shard e => some (if d = e then [] else [.allToAll d e])
  | .part, .part => some []
  | .rep, .rep => some []
  | _, _ => none
/-- The exchange: axes and their steps, in ascending order. -/
def LayDesc.plan (x : LayDesc) : Option (List (Nat × RingKind)) :=
  ((List.range x.nax).mapM (fun a => (x.axisSteps a).map (fun ks => ks.map (fun k => (a, k))))).map List.flatten
def isReduce : RingKind → Bool
  | .reduce _ => true
  | .reduceFlat => true
  | _ => false
/-- A shape: the local sizes of the four dimensions. -/
abbrev Shape := List Nat
def Shape.dim (sh : Shape) (d : Nat) : Nat := sh[d]?.getD 1
def LayDesc.shape0 (x : LayDesc) : Shape := (List.range 4).map (fun d => if d < x.ndim then x.dim d / x.shards false d else 1)
/-- The shape after a step over n devices. -/
def RingKind.reshape (k : RingKind) (n : Nat) (sh : Shape) : Shape :=
  match k with
  | .reduce d => sh.set d (sh.dim d / n)
  | .gather d => sh.set d (sh.dim d * n)
  | .allToAll d e => (sh.set d (sh.dim d * n)).set e (sh.dim e / n)
  | _ => sh
/-- How many shards of a dimension, gathered by earlier steps, its local index now runs over, outermost; `n` is the size of
the step's axis (R287). -/
def RingKind.gathered (k : RingKind) (d n m : Nat) : Nat :=
  let split : Nat := if m % n = 0 then m / n else 1
  match k with
  | .gather e => if e = d then m * n else m
  | .reduce e => if e = d then split else m
  | .allToAll e f => if e = d then m * n else if f = d then split else m
  | _ => m
/-- The size that a step divides is divisible. -/
def RingKind.fits (k : RingKind) (n : Nat) (sh : Shape) : Bool :=
  match k with
  | .reduce d => sh.dim d % n == 0
  | .allToAll _ e => sh.dim e % n == 0
  | _ => true
/-- The shape before a step of the plan. -/
def LayDesc.shapeAt (x : LayDesc) (plan : List (Nat × RingKind)) (i : Nat) : Shape :=
  (plan.take i).foldl (fun sh y => y.2.reshape (x.ax y.1) sh) x.shape0
/-- The gathered shards of a dimension before a step of the plan. -/
def LayDesc.gatheredAt (x : LayDesc) (plan : List (Nat × RingKind)) (i d : Nat) : Nat :=
  (plan.take i).foldl (fun m y => y.2.gathered d (x.ax y.1) m) 1
def Shape.count (sh : Shape) : Nat := (List.range 4).foldl (fun n d => n * sh.dim d) 1
/-- A descriptor that breaks a condition of R288, but for the rank table. -/
def LayDesc.bad (x : LayDesc) : Bool :=
  fld (x.q 0) 63 45 != 0 || decide (1 < fld (x.q 0) 39 36) || fld (x.q 0) 43 42 == 3 || x.cmp == 3
    || fld (x.q 1) 63 32 != 0 || fld (x.q 9) 63 32 != 0 || (List.range 5).any (fun i => x.q (11 + i) != 0)
    || x.layoutBad false || x.layoutBad true
    || (match x.plan with
        | none => true
        | some pl =>
          (x.cmp != 0 && (x.bf || x.gln == 0 || !pl.any (fun y => isReduce y.2)))
            || (pl.zipIdx).any (fun y => !y.1.2.fits (x.ax y.1.1) (x.shapeAt pl y.2)))
/-- Devices of the mesh. -/
def LayDesc.devices (x : LayDesc) : Nat := (List.range x.nax).foldl (fun n a => n * x.ax a) 1
/-- The residual slots of the reduce steps before one (R297). -/
def LayDesc.region (x : LayDesc) (pl : List (Nat × RingKind)) (i : Nat) : Nat :=
  ((pl.zipIdx.filter (fun y => decide (y.2 < i) && isReduce y.1.2)).map (fun y => (x.shapeAt pl y.2).count)).foldl (· + ·) 0

-- ## Coordinates and chunks (R287, R289)

/-- The stride of an axis in the rank table. -/
def LayDesc.stride (x : LayDesc) (a : Nat) : Nat :=
  ((List.range x.nax).filter (fun b => decide (a < b))).foldl (fun n b => n * x.ax b) 1
/-- This device's place in the table, and its coordinate on an axis. -/
def LayRun.me (r : LayRun) (dev : Nat) : Nat := r.ranks.findIdx (· == dev)
def LayDesc.coord (x : LayDesc) (me a : Nat) : Nat := me / x.stride a % x.ax a
/-- The device at a coordinate of an axis, the others held fixed. -/
def LayRun.at_ (r : LayRun) (x : LayDesc) (me a c : Nat) : Nat :=
  (r.ranks[me - x.coord me a * x.stride a + c * x.stride a]?).getD 0
/-- The positions of coordinate c's part of a dimension, in row-major order: its index is divided into runs of m, dealt to n
coordinates in turn. -/
def Shape.slab (sh : Shape) (d m n c : Nat) : List Nat :=
  let st := ((List.range 4).filter (fun e => decide (d < e))).foldl (fun n e => n * sh.dim e) 1
  (List.range sh.count).filter (fun i => i / st % sh.dim d / m % n == c)
/-- A contiguous chunk of the flat local shard, its size rounded up. -/
def flatChunk (m n c : Nat) : List Nat :=
  let k := (m + n - 1) / n
  (List.range k).filterMap (fun i => if c * k + i < m then some (c * k + i) else none)
/-- The step in progress: its kind, ring size, this device's coordinate, the shape before it, and the shards that the
dimension it gathers already runs over. -/
structure Ring where
  kind : RingKind
  n : Nat
  q : Nat
  sh : Shape
  old : Nat
def LayRun.d (r : LayRun) : LayDesc := ⟨r.desc⟩
def LayRun.plan (r : LayRun) : List (Nat × RingKind) := r.d.plan.getD []
def LayRun.axis (r : LayRun) : Nat := ((r.plan[r.step]?).map Prod.fst).getD 0
def LayRun.ring (r : LayRun) (dev : Nat) : Option Ring :=
  (r.plan[r.step]?).map (fun y => ⟨y.2, r.d.ax y.1, r.d.coord (r.me dev) y.1, r.d.shapeAt r.plan r.step,
    match y.2 with
    | .gather d => r.d.gatheredAt r.plan r.step d
    | .allToAll d _ => r.d.gatheredAt r.plan r.step d
    | _ => 1⟩)
/-- The chunk that a hop sends, and to which coordinate. -/
def Ring.out (g : Ring) (hop : Nat) : Nat × Nat :=
  match g.kind with
  | .reduce _ => ((g.q + 2 * g.n - 1 - hop) % g.n, (g.q + 1) % g.n)
  | .reduceFlat => ((g.q + 2 * g.n - 1 - hop) % g.n, (g.q + 1) % g.n)
  | .allToAll _ _ => ((g.q + hop + 1) % g.n, (g.q + hop + 1) % g.n)
  | _ => ((g.q + g.n - hop) % g.n, (g.q + 1) % g.n)
/-- The chunk that a hop receives, and from which coordinate. -/
def Ring.inn (g : Ring) (hop : Nat) : Nat × Nat :=
  match g.kind with
  | .reduce _ => ((g.q + 2 * g.n - 2 - hop) % g.n, (g.q + g.n - 1) % g.n)
  | .reduceFlat => ((g.q + 2 * g.n - 2 - hop) % g.n, (g.q + g.n - 1) % g.n)
  | .allToAll _ _ => ((g.q + g.n - hop - 1) % g.n, (g.q + g.n - hop - 1) % g.n)
  | _ => ((g.q + 2 * g.n - 1 - hop) % g.n, (g.q + g.n - 1) % g.n)
/-- The places in the gathered data of the chunk that comes from coordinate c: this axis lies inside those gathered before it
(R287). -/
def Ring.gatherSlab (g : Ring) (d c : Nat) : List Nat := (g.kind.reshape g.n g.sh).slab d (g.sh.dim d / g.old) g.n c
/-- Where a chunk that is sent stands, and whether in the data under construction. -/
def Ring.from_ (g : Ring) (c : Nat) : Bool × List Nat :=
  match g.kind with
  | .reduce d => (false, g.sh.slab d (g.sh.dim d / g.n) g.n c)
  | .reduceFlat => (false, flatChunk g.sh.count g.n c)
  | .gatherFlat => (false, flatChunk g.sh.count g.n c)
  | .gather d => (true, g.gatherSlab d c)
  | .allToAll _ e => (false, g.sh.slab e (g.sh.dim e / g.n) g.n c)
/-- Where a chunk that arrives goes. -/
def Ring.into (g : Ring) (c : Nat) : Bool × List Nat :=
  match g.kind with
  | .allToAll d _ => (true, g.gatherSlab d c)
  | _ => g.from_ c
def pickElems (m : SMap W32) (ps : List Nat) : List W32 := ps.map (fun i => m.get 0 i)
def putElems (m : SMap W32) (ps : List Nat) (vs : List W32) : SMap W32 := (ps.zip vs).foldl (fun m y => m.set 0 y.1 y.2) m
/-- The run as a step begins: this device's own chunk is in place. -/
def LayRun.begin_ (r : LayRun) (dev : Nat) : LayRun :=
  match r.ring dev with
  | none => r
  | some g =>
    match g.kind with
    | .gather _ => { r with nxt := putElems [] (g.into g.q).2 (pickElems r.elems (List.range g.sh.count)) }
    | .allToAll _ _ => { r with nxt := putElems [] (g.into g.q).2 (pickElems r.elems (g.from_ g.q).2) }
    | _ => { r with nxt := [] }
/-- The run after the last hop of a step: the next step begins. -/
def LayRun.finish (r : LayRun) (dev : Nat) : LayRun :=
  match r.ring dev with
  | none => r
  | some g =>
    let es := match g.kind with
      | .reduce _ => let ps := (g.from_ g.q).2; putElems [] (List.range ps.length) (pickElems r.elems ps)
      | .gather _ => r.nxt
      | .allToAll _ _ => r.nxt
      | _ => r.elems
    ({ r with elems := es, nxt := [], step := r.step + 1, hop := 0 } : LayRun).begin_ dev

-- ## Chunks as bytes (R289, R293, R294)

def LayRun.compressed (r : LayRun) (g : Ring) : Bool := r.d.cmp != 0 && isReduce g.kind
def elemBytes (bf : Bool) (xs : List W32) : List Byte := xs.flatMap (fun v => bytesOf (if bf then 2 else 4) v.toNat)
def elemsOf (bf : Bool) (bs : List Byte) (n : Nat) : List W32 :=
  if bf then (halvesOf bs n).map (fun h => BitVec.ofNat 32 h) else wordsOf bs n
/-- The bytes of an arriving chunk of n elements. -/
def LayRun.chunkLen (r : LayRun) (g : Ring) (n : Nat) : Nat :=
  if r.compressed g then imageLen r.d.sign r.d.bl n else n * (if r.d.bf then 2 else 4)
/-- A hop's addition (R289). -/
def hopAdd (bf : Bool) (a b : W32) : W32 := if bf then BitVec.ofNat 32 (baddN a.toNat b.toNat) else fadd32 a b
/-- An arrival combined with the local data; none where a code byte is none (R292). -/
def LayRun.combine (r : LayRun) (g : Ring) (bs : List Byte) : Option LayRun :=
  let t := g.into (g.inn r.hop).1
  let n := t.2.length
  let z := if r.compressed g then unwinnow r.d.sign r.d.bl n bs else (elemsOf r.d.bf bs n, false)
  if z.2 then none
  else
    let m := if t.1 then r.nxt else r.elems
    let vs := if isReduce g.kind then ((z.1.zip (pickElems m t.2)).map (fun y => hopAdd r.d.bf y.1 y.2)) else z.1
    let m := putElems m t.2 vs
    some (if t.1 then { r with nxt := m } else { r with elems := m })

-- ## Running an exchange (R286, R294, R301)

/-- Slots of positions, read for a hop or written after it. -/
def slotsRead (s : State) (p slot : Nat) (cl : GClaim) (base : Nat) : List Nat → State × Except EStop (List W32)
  | [] => (s, .ok [])
  | i :: is =>
    match s.rawRead 2 (p / 2) slot (cl.addr.toNat + 4 * (base + i)) 4 with
    | (s, .ok bs) => match slotsRead s p slot cl base is with
      | (s, .ok vs) => (s, .ok (BitVec.ofNat 32 (natOf bs) :: vs))
      | (s, .error e) => (s, .error e)
    | (s, .error e) => (s, .error e)
/-- Residuals go to their slots together (R294, R303). -/
def State.residuals (s : State) (p slot : Nat) (cl : GClaim) (rs : List (Nat × W32)) : State × Except EStop W64 :=
  let t := (rs.foldl (fun (acc : State × Except EStop (List (Nat × Attr × Byte))) y =>
    match acc with
    | (s, .error e) => (s, .error e)
    | (s, .ok l) => match s.engTargets (p / 2) slot (cl.addr.toNat + 4 * y.1) (bytesOf 4 y.2.toNat) with
      | (s, .ok k) => (s, .ok (l ++ k))
      | (s, .error e) => (s, .error e)) (s, .ok []))
  match t with
  | (s, .error e) => (s, .error e)
  | (s, .ok l) =>
    let s := s.rawPut slot 2 l
    if rs.any (fun y => !(dec32 y.2).finite) then s.glFlags p slot cl.entry 4 0 else (s, .ok 0)
/-- The exchange's state in its processor. -/
def FxSt.withLay (x : FxSt) (r : LayRun) : FxSt := { x with lay := some r }
/-- A processor that keeps what it has and its place. -/
def fxStay (s : State) (x : FxSt) : FxEff := .jump s x x.fpc
/-- The descriptor is read and checked, the local data read, the buffer claimed (R286, R288, R301). -/
def layStart (s : State) (p : Nat) (x : FxSt) (k : FxStart) (va : W64) : FxEff :=
  eng (s.rawRead 2 (p / 2) k.slot va.toNat 128) (fun s bs =>
    let d : LayDesc := ⟨(List.range 16).map (fun i => BitVec.ofNat 64 (natOf ((bs.drop (8 * i)).take 8)))⟩
    if d.bad then .fault s fcLayout 0 0
    else eng (s.rawRead 2 (p / 2) k.slot (d.q 2).toNat (2 * d.devices)) (fun s bs =>
      let ranks := halvesOf bs d.devices
      if ranks.count s.devId ≠ 1 then .fault s fcLayout 0 0
      else
        let n := d.shape0.count
        eng (s.rawRead 2 (p / 2) k.slot d.src (n * (if d.bf then 2 else 4))) (fun s bs =>
          let r : LayRun := ⟨d.w, ranks, 0, 0, putElems [] (List.range n) (elemsOf d.bf bs n), [], none, false, [], none, false, false, false⟩
          let r := r.begin_ s.devId
          if d.cmp = 0 then fxStay s (x.withLay r)
          else fxClaim s p k.slot d.gln d.cid (d.region r.plan r.plan.length) (fun s cl =>
            fxStay s { x.withLay r with claim := some cl }))))
/-- A hop's chunk goes on the wire, coded where the exchange is compressed (R289, R294). -/
def laySend (s : State) (p : Nat) (x : FxSt) (k : FxStart) (r : LayRun) (g : Ring) : FxEff :=
  let o := g.out r.hop
  let t := g.from_ o.1
  let ys := pickElems (if t.1 then r.nxt else r.elems) t.2
  let dev := r.at_ r.d (r.me s.devId) r.axis o.2
  let put (s : State) (bytes : List Byte) (resid : List (Nat × W32)) : FxEff :=
    match s.peerStop k.slot dev with
    | some cause => .fault s fcFabric cause 0
    | none =>
      let id := s.nextId
      fxStay { s with
        nextId := id + 1
        fxWires := s.fxWires ++ [(⟨p, id, s.job k.slot, dev, p, .chunk r.d.cid r.step bytes⟩ : FxWire)] }
        (x.withLay { r with sent := some id, acked := false, counted := false, resid := resid })
  match r.compressed g, x.claim with
  | true, some cl =>
    let base := r.d.region r.plan r.step
    eng (slotsRead s p k.slot cl base t.2) (fun s rs =>
      let xs := (ys.zip rs).map (fun y => fadd32 y.1 y.2)
      let w := winnow r.d.sign r.d.bl xs
      put s w.1 ((t.2.map (· + base)).zip ((xs.zip w.2).map (fun y => fsub32 y.1 y.2))))
  | _, _ => put s (elemBytes r.d.bf ys) []
/-- A hop of a compressed step whose image has been acknowledged: the residuals and `PROG` are still to be written, whether or
not the arrival is here (R294, R301). -/
def LayRun.owes (r : LayRun) (g : Ring) : Bool := r.compressed g && r.acked && !r.counted
/-- They are written, both or, while a page makes one wait, neither (R304). -/
def layCount (s : State) (p : Nat) (x : FxSt) (k : FxStart) (r : LayRun) : FxEff :=
  match x.claim with
  | some cl => eng (engSeq (s.residuals p k.slot cl r.resid) (fun s _ => s.glHop p k.slot cl)) (fun s _ =>
      fxStay s (x.withLay { r with counted := true, resid := [] }))
  | none => fxStay s (x.withLay { r with counted := true, resid := [] })
/-- A hop that has been sent and acknowledged, and whose arrival is here: the sum, and the next hop (R289, R294). -/
def layHop (s : State) (x : FxSt) (r : LayRun) (g : Ring) (bs : List Byte) : FxEff :=
  match r.combine g bs with
  | none => .fault s fcGleaning 5 0
  | some r =>
    let r := { r with sent := none, acked := false, counted := false, resid := [], arr := none, hop := r.hop + 1 }
    fxStay s (x.withLay (if r.hop + 1 < g.n then r else r.finish s.devId))
/-- The exchange ends: a compressed one releases its claim, and the start is counted (R286, R301). -/
def layEnd (s : State) (p : Nat) (x : FxSt) (k : FxStart) : State :=
  match x.claim with
  | none => s.fxEnd p k
  | some cl => match s.glRelease p k.slot cl with
    | (t, .ok _) => s.passed (t.fxEnd p k)
    | (t, .error .wait) => s.waiting t
    | (t, .error (.fault c d va)) => s.passed (t.fxFault p (BitVec.ofNat 8 c) d (BitVec.ofNat 64 va))
/-- This device squares its elements: its coordinate is 0 on every axis of the target's replication (R290). -/
def LayRun.squares (r : LayRun) (dev : Nat) : Bool :=
  (List.range r.d.nax).all (fun a => r.d.role true a != .rep || r.d.coord (r.me dev) a == 0)
/-- The next move of an exchange. -/
def layMove (s : State) (p : Nat) (x : FxSt) (k : FxStart) (va : W64) : State :=
  match x.lay with
  | none => (layStart s p x k va).run s p
  | some r =>
    match r.ring s.devId with
    | some g =>
      if g.n ≤ r.hop + 1 then s.setFx p (x.withLay (r.finish s.devId))
      else if r.sent.isNone then (laySend s p x k r g).run s p
      else if r.owes g then (layCount s p x k r).run s p
      else match r.acked, r.arr with
        | true, some bs => (layHop s x r g bs).run s p
        | _, _ => s
    | none =>
      let n := (r.d.shapeAt r.plan r.step).count
      let vs := pickElems r.elems (List.range n)
      if r.ending then layEnd s p x k
      else if r.summing then
        if x.summed s.devId r.ranks then
          (eng (s.rawWrite 2 (p / 2) k.slot r.d.nrma (bytesOf 4 (toFp32 (x.total s.devId r.ranks)).toNat)) (fun s _ =>
            fxStay s { x.withLay { r with summing := false, ending := true } with nacc := 0, parts := [] })).run s p
        else s
      else
        (eng (s.rawWrite 2 (p / 2) k.slot r.d.dst (elemBytes r.d.bf vs)) (fun s _ =>
          if r.d.norm then
            let sq := if r.squares s.devId then vs.foldl (fun acc v => sqAdd acc (if r.d.bf then decB v.toNat else dec32 v)) 0 else 0
            match s.sendPartials p k.slot r.ranks sq with
            | .error cause => .fault s fcFabric cause 0
            | .ok s => fxStay s { x.withLay { r with summing := true } with nacc := sq }
          else fxStay s (x.withLay { r with ending := true }))).run s p
/-- What a pause still lets an exchange do: the residuals and `PROG` of an acknowledged hop (R304). -/
def State.layOwes (s : State) (x : FxSt) : Option (LayRun × Ring) :=
  x.lay.bind (fun r => (r.ring s.devId).bind (fun g => if r.owes g then some (r, g) else none))

/-- A transfer of a processor finishes, a norm's sum is complete, or an exchange goes on (R286, R308, R318): `unit` is the
processor. A pause holds the program between its instructions, so that a transfer begun still finishes (R304, R325). -/
def execFxTransferComplete (s : State) : Host.Outcome State Fault Refusal :=
  let p := s.ev.unit
  let x := s.fx p
  match x.cur with
  | none => .next s
  | some k =>
    match k.desc, x.busy, x.wait with
      | _, _, .ending .. => .next s
      | some va, _, _ =>
        if s.paused then .next (match s.layOwes x with
          | some (r, _) => (layCount s p x k r).run s p
          | none => s)
        else .next (layMove s p x k va)
      | none, some t, _ => .next (s.setFx p { x with busy := none, fpc := t })
      | none, none, .norm ranks va =>
        if s.fxHeld p then .next s
        else if x.summed s.devId ranks then
          .next ((eng (s.rawWrite 2 (p / 2) k.slot va.toNat (bytesOf 4 (toFp32 (x.total s.devId ranks)).toNat)) (fun s _ =>
            .next s { x with nacc := 0, parts := [], wait := .none })).run s p)
        else .next s
      | none, none, _ => .next s

-- ## What arrives (R288, R316, R318)

/-- A chunk of an exchange arrives: accepted only by the run that waits for it; none while it is not awaited. -/
def State.acceptChunk (s : State) (q slot dev : Nat) (cid : W32) (step : Nat) (bs : List Byte) : Option State :=
  let x := s.fx q
  match x.cur, x.lay with
  | some k, some r =>
    match r.ring s.devId with
    | some g =>
      let i := g.inn r.hop
      if k.slot ≠ slot ∨ r.arr.isSome = true ∨ g.n ≤ r.hop + 1 ∨ r.at_ r.d (r.me s.devId) r.axis i.2 ≠ dev then none
      else if cid ≠ r.d.cid ∨ step ≠ r.step ∨ bs.length ≠ r.chunkLen g (g.into i.1).2.length then some (s.fxFault q fcLayout 0 0)
      else some (s.setFx q (x.withLay { r with arr := some bs }))
    | none => none
  | _, _ => none
/-- A partial of a norm arrives, at a processor that is summing. -/
def State.acceptPart (s : State) (q slot dev : Nat) (bs : List Byte) : Option State :=
  let x := s.fx q
  let listed := match x.wait, x.lay with
    | .norm ranks _, _ => ranks.contains dev
    | _, some r => r.summing && r.ranks.contains dev
    | _, _ => false
  match x.cur with
  | some k =>
    if k.slot = slot ∧ listed = true ∧ (x.parts.find? dev).isNone = true then
      some (s.setFx q { x with parts := x.parts.insert dev (BitVec.ofNat 64 (natOf (bs.take 8))) })
    else none
  | none => none
/-- `MESSAGE_ACCEPT` (R316): `unit` is the processor. `sub` says what arrives: 0 a message, 1 a chunk of an exchange with its
`CID` in `val` and its step in `idx`, 2 a partial of a norm. A message of a processor of this device comes from its own wire. -/
def execMessageAccept (s : State) : Host.Outcome State Fault Refusal :=
  let q := s.ev.unit
  match s.ev.data with
  | .msg m =>
    let dev := m.srcDev.toNat
    if 16 ≤ q ∨ s.present (.fx q) = false then .next s
    else if dev = s.devId then
      match s.ownWire q m.srcProc.toNat false with
      | some w => match w.pkt, s.slotOfJob w.job with
        | .msg tag bs, some slot => match s.acceptMsg q ⟨slot, s.ctxGen.get 0 slot, dev, w.p, tag, bs⟩ with
          | some t => .next (s.passed (t.fxAck w.id .ok))
          | none => .next s
        | _, _ => .next (s.fxAck w.id (.fault 1 0 0))
      | none => .next s
    else
      let answer (s : State) (r : Reply) : State := { s with replies := s.replies ++ [(m.srcDev, m.srcProc.toNat, m.tag.toNat, r)] }
      match s.slotOfJob m.job.toNat with
      | none => .next (answer s (.fault 1 0 0))
      | some slot =>
        let r := if s.ev.sub = 0 then s.acceptMsg q ⟨slot, s.ctxGen.get 0 slot, dev, m.srcProc.toNat, m.tag.toNat, m.bytes⟩
          else if m.srcProc.toNat ≠ q then none
          else if s.ev.sub = 1 then s.acceptChunk q slot dev (s.ev.val.setWidth 32) s.ev.idx m.bytes
          else s.acceptPart q slot dev m.bytes
        match r with
        | some t => .next (s.passed (answer t .ok))
        | none => .next s
  | _ => .next s

/-- The lowest position of a command that is on the wire, and the remote address of a position of an offload or return. -/
def State.wirePos (s : State) (id : Nat) : Nat :=
  match (s.wireOut.filter (fun w => w.cmd == id)).map (fun w => w.part) with
  | [] => 0
  | n :: ns => ns.foldl min n
def CopyCmd.remoteAt (c : CopyCmd) (pos : Nat) : Nat :=
  match c.op with
  | .cpy .. => 0
  | .offl _ rem _ _ => rem.toNat + pos
  | .rtrn _ rem _ _ => rem.toNat + pos
/-- The transport has failed for what a remote command has on the wire: each part fails with cause `0x6`, at its own remote
address (R278). -/
def State.remoteLost (s : State) (id : Nat) : State :=
  let parts := (s.wireOut.filter (fun w => w.cmd == id)).map (fun w => w.part)
  parts.foldl (fun s part => match s.remotes.find? id with
    | some c => s.partFault id c part 0x12 6 (c.remoteAt part)
    | none => s) { s with wireOut := s.wireOut.filter (fun w => w.cmd != id) }
/-- `TRANSPORT_FAILURE` (R278): what is on the wire fails with cause `0x6`; a command names its first failing byte. -/
def execTransportFailure (s : State) : Host.Outcome State Fault Refusal :=
  match s.ev.data with
  | .wire (.copy _ id) =>
    match s.ecmds.find? id with
    | some c =>
      let pos := s.wirePos id
      .next (if s.wireOut.any (fun w => w.cmd == id) then
        s.passed (({ s with wireOut := s.wireOut.filter (fun w => w.cmd != id) } : State).copyFail id c pos 0x12 6 (c.remoteAt pos)) else s)
    | none => .next s
  | .wire (.remote _ id) => .next (s.remoteLost id)
  | .wire (.fx p) => .next (if s.fxWires.any (fun w => w.p == p && w.dev != s.devId) then s.fxFail p fcFabric 6 0 else s)
  | _ => .next s

end Sys2Proof.Machine
end

