-- ==== Sys2Proof/Machine/Matrix.lean ====
section
/-! DEFINITION. The matrix engine (R241 to R262): gangs, commands and their checks, the exact accumulation, tiles, batches and
the engine's reset. -/

namespace Sys2Proof.Machine

open Sys2Proof.Num

-- ## Operands (R242 to R246, R257)

/-- The format block, both halves (R242). -/
structure FmtBlk where
  af : Nat
  bf : Nat
  sm : Nat
  bcol : Bool
  bstr : Nat
  bsb : Nat
  asb : Nat
  astr : Nat
  deriving DecidableEq, Repr
def FmtBlk.of (sf0 sf1 : W64) : FmtBlk :=
  ⟨fld sf0 3 0, fld sf0 7 4, fld sf0 9 8, fld sf0 10 10 == 1, fld sf0 31 16, fld sf0 63 32, fld sf1 31 0, fld sf1 47 32⟩
/-- Values of K that share a scale (R243). -/
def FmtBlk.bl (f : FmtBlk) : Nat := if f.sm = 2 then 16 else 32

/-- The matrix view of a `D` register (R244), fields as encoded; the constants of chapter 29 that differ are read by it (log 49). -/
structure Unfold where
  m0 : Nat
  ow : Nat
  pp : Nat
  ch : Nat
  wi : Nat
  hi : Nat
  px : Nat
  py : Nat
  sx : Nat
  sy : Nat
  kw : Nat
  kh : Nat
  xb : Nat
  deriving DecidableEq, Repr
def bitsD (d : W128) (hi lo : Nat) : Nat := d.toNat / 2 ^ lo % 2 ^ (hi + 1 - lo)
def Unfold.of (d : W128) : Unfold :=
  ⟨bitsD d 115 100, bitsD d 99 89, bitsD d 88 73, bitsD d 72 60, bitsD d 58 48, bitsD d 47 37, bitsD d 36 34, bitsD d 33 31,
   bitsD d 30 29, bitsD d 28 27, bitsD d 26 24, bitsD d 23 21, bitsD d 20 0⟩
/-- Bytes that n packed elements of a format take (R245). -/
def packBytes (n code : Nat) : Nat :=
  if elemBits code = 6 then 3 * ((n + 3) / 4) else (n * elemBits code + 7) / 8
/-- Row pitch of B (R246). -/
def pitchOf (tswz : BitVec 4) : Nat := 2 ^ (tswz.toNat % 8 + 5)
def isFloatCode (c : Nat) : Bool := decide (1 ≤ c) && decide (c ≤ 8)
def isIntCode (c : Nat) : Bool := c == 9 || c == 10

/-- Check 1 of R257: reserved bits and ranges. -/
def Latch.illegal (e : Latch) (shape : W64) (acc : Nat) : Bool :=
  decide (acc ≤ e.tile) || shape &&& ~~~ (bitsM 6 0 ||| bitsM 15 8 ||| bitsM 29 16) != 0
    || e.m == 0 || decide (64 < e.m) || e.n == 0 || decide (128 < e.n) || e.k == 0 || decide (8192 < e.k)
    || fld e.sf0 15 11 != 0 || fld e.sf1 63 48 != 0 || fld e.sf0 9 8 == 3
    || bitsD e.rcd 127 116 != 0 || bitsD e.rcd 59 59 != 0
/-- Check 2 (R243, R245, R246). -/
def Latch.badFormat (e : Latch) : Bool :=
  let f := FmtBlk.of e.sf0 e.sf1
  let u := Unfold.of e.rcd
  !((isFloatCode f.af && isFloatCode f.bf) || (isIntCode f.af && isIntCode f.bf))
    || (f.sm != 0 && (decide (f.af ≤ 2) || decide (f.bf ≤ 2)))
    || (f.sm == 2 && !(f.af == 5 && f.bf == 5))
    || u.pp == 0 || decide (u.pp < packBytes (u.ch + 1) f.af) || decide ((u.kh + 1) * (u.kw + 1) * (u.ch + 1) < e.k)
    || (!f.bcol && decide (pitchOf e.tswz < packBytes e.n f.bf)) || (f.bcol && elemBits f.bf == 6)
/-- Check 3. -/
def Latch.misaligned (e : Latch) : Bool :=
  let f := FmtBlk.of e.sf0 e.sf1
  let u := Unfold.of e.rcd
  e.bb % 32 != 0 || (elemBits f.af == 16 && (u.xb % 2 != 0 || u.pp % 2 != 0))
/-- Elements of K in a row of column-fetched B (R246). -/
def kpOf (p code : Nat) : Nat := 8 * p / elemBits code
/-- The first byte of each hull of check 4, and the byte after it. -/
def Latch.hulls (e : Latch) : List (Nat × Nat) :=
  let f := FmtBlk.of e.sf0 e.sf1
  let u := Unfold.of e.rcd
  let p := pitchOf e.tswz
  let nb := (e.k + f.bl - 1) / f.bl
  [(u.xb, u.xb + (u.hi + 1) * (u.wi + 1) * u.pp),
   (e.bb, if f.bcol then e.bb + (e.k + kpOf p f.bf - 1) / kpOf p f.bf * e.n * p else e.bb + (e.k - 1) * p + packBytes e.n f.bf)]
  ++ (if f.sm = 0 then [] else
    [(f.asb, f.asb + (e.m - 1) * f.astr + nb), (f.bsb, f.bsb + (e.n - 1) * f.bstr + nb)])
/-- The first hull that passes a limit is named by its first byte (log 22). -/
def hullPast (code : BitVec 8) (detail lim : Nat) (hulls : List (Nat × Nat)) : Option FInfo :=
  (hulls.find? (fun x => decide (lim < x.2))).map (fun x => flt code detail (BitVec.ofNat 64 x.1))
/-- The checks of `MMA` in their order (R257); a misaligned operand is named by its base (log 22). -/
def Latch.check (e : Latch) (shape : W64) (t : Team) : Option FInfo :=
  if e.illegal shape t.acc then some (flt fcOperand)
  else if e.badFormat then some (flt fcFormat)
  else if e.misaligned then some (flt fcMisaligned 0 (BitVec.ofNat 64 (if e.bb % 32 ≠ 0 then e.bb else (Unfold.of e.rcd).xb)))
  else hullPast fcProtection 8 (t.scratch * 1024) e.hulls

-- ## The computation (R245 to R247)

/-- Element i of packed elements at a byte offset (R180). -/
def elemFrom (rd : Nat → Byte) (code base i : Nat) : Nat :=
  let b := elemBits code
  if b = 6 then
    let at_ := base + i / 4 * 3
    ((rd at_).toNat + 256 * (rd (at_ + 1)).toNat + 65536 * (rd (at_ + 2)).toNat) / 2 ^ (6 * (i % 4)) % 64
  else if b = 4 then (rd (base + i / 2)).toNat / 2 ^ (4 * (i % 2)) % 16
  else if b = 8 then (rd (base + i)).toNat
  else (rd (base + 2 * i)).toNat + 256 * (rd (base + 2 * i + 1)).toNat
/-- The bytes that an element lies in. -/
def elemSpan (code base i : Nat) : List Nat :=
  let b := elemBits code
  if b = 6 then [base + i / 4 * 3, base + i / 4 * 3 + 1, base + i / 4 * 3 + 2]
  else if b = 4 then [base + i / 2]
  else if b = 8 then [base + i]
  else [base + 2 * i, base + 2 * i + 1]
/-- Where element (i, k) of A lies, none in the padding (R245): the pixel's offset and the channel. -/
def Unfold.at_ (u : Unfold) (i k : Nat) : Option (Nat × Nat) :=
  let c := k % (u.ch + 1)
  let t := k / (u.ch + 1)
  let kx := t % (u.kw + 1)
  let ky := t / (u.kw + 1)
  let m := u.m0 + i
  let iy : Int := (m / (u.ow + 1) * (u.sy + 1) + ky : Nat) - (u.py : Int)
  let ix : Int := (m % (u.ow + 1) * (u.sx + 1) + kx : Nat) - (u.px : Int)
  if iy < 0 ∨ u.hi < iy ∨ ix < 0 ∨ u.wi < ix then none
  else some (u.xb + (iy.toNat * (u.wi + 1) + ix.toNat) * u.pp, c)
/-- Where element (k, n) of B lies before the swizzle (R246): the row's offset and the element in it. -/
def Latch.bAt (e : Latch) (k n : Nat) : Nat × Nat :=
  let f := FmtBlk.of e.sf0 e.sf1
  let p := pitchOf e.tswz
  if f.bcol then (e.bb + (k / kpOf p f.bf * e.n + n) * p, k % kpOf p f.bf) else (e.bb + k * p, n)
/-- An element of A, and of B, as a value with its scale (R243). -/
def Latch.aVal (e : Latch) (rd : Nat → Byte) (i k : Nat) : XV :=
  let f := FmtBlk.of e.sf0 e.sf1
  let v := match (Unfold.of e.rcd).at_ i k with
    | some (o, c) => decodeCode f.af (f.sm != 0) (elemFrom rd f.af o c)
    | none => .fin false 0 1
  if f.sm = 0 then v else scaled (rd (f.asb + i * f.astr + k / f.bl)).toNat v
def Latch.bVal (e : Latch) (rd : Nat → Byte) (k n : Nat) : XV :=
  let f := FmtBlk.of e.sf0 e.sf1
  let o := e.bAt k n
  let v := decodeCode f.bf (f.sm != 0) (elemFrom (fun x => rd (swizzle e.tswz x)) f.bf o.1 o.2)
  if f.sm = 0 then v else scaled (rd (f.bsb + n * f.bstr + k / f.bl)).toNat v
/-- The scratchpad bytes that row i, and column n, of a member's product read. -/
def Latch.aBytes (e : Latch) (i : Nat) : List Nat :=
  let f := FmtBlk.of e.sf0 e.sf1
  (List.range e.k).flatMap (fun k =>
    (match (Unfold.of e.rcd).at_ i k with
      | some (o, c) => elemSpan f.af o c
      | none => []) ++ (if f.sm = 0 then [] else [f.asb + i * f.astr + k / f.bl]))
def Latch.bBytes (e : Latch) (n : Nat) : List Nat :=
  let f := FmtBlk.of e.sf0 e.sf1
  (List.range e.k).flatMap (fun k =>
    (elemSpan f.bf (e.bAt k n).1 (e.bAt k n).2).map (swizzle e.tswz) ++ (if f.sm = 0 then [] else [f.bsb + n * f.bstr + k / f.bl]))

/-- A summand cut to the window whose last place is 2^q (R247), in units of 2^q. -/
def windowed (q : Int) : XV → Int
  | .fin s n d => sgnI s (if q < 0 then n * 2 ^ q.natAbs / d else n / (d * 2 ^ q.natAbs))
  | _ => 0
/-- One group of at most 32 addends (R247): the new accumulator, and whether rounding overflowed. -/
def accGroup (add : List XV) : W32 × Bool :=
  let infs := add.filter (fun x => match x with | .inf _ => true | _ => false)
  if add.any XV.isNan || (infs.any XV.neg && infs.any (fun x => !x.neg)) then (0x7FC00000, false)
  else match infs with
    | x :: _ => ((rnd32 .rn x).1, false)
    | [] =>
      let tops := add.filterMap (fun x => match x with
        | .fin _ n d => if n = 0 then none else some (floorLog2 n d)
        | _ => none)
      match tops with
      | [] => (0, false)
      | t :: ts =>
        let q := ts.foldl max t - 27
        let sum := (add.map (windowed q)).foldl (· + ·) 0
        if sum = 0 then (0, false)
        else
          let r := (rnd32 .rn (mk2 (decide (sum < 0)) sum.natAbs q)).1
          (r, r &&& 0x7FFFFFFF == 0x7F800000)
/-- An element of the product over ascending groups of K (R247). -/
def Latch.accElem (e : Latch) (rd : Nat → Byte) (i n : Nat) (acc0 : W32) : W32 × Bool :=
  (List.range ((e.k + 31) / 32)).foldl (fun (a : W32 × Bool) g =>
    let ks := (List.range (min (32 * g + 32) e.k - 32 * g)).map (32 * g + ·)
    let r := accGroup (dec32 a.1 :: ks.map (fun k => (mul (e.aVal rd i k) (e.bVal rd k n)).1))
    (r.1, a.2 || r.2)) (acc0, false)

def tileKey (tile row col : Nat) : Nat := tile * 8192 + row * 128 + col
/-- Old or new bits of an element left open by a fault (log 16). -/
def openElem (t i : Nat) (old new : W32) : W32 := if Config.newByte t i then new else old
/-- One member's update of its tile (R247, R257): the tiles, overflow, and whether poison was read. -/
def Latch.apply (e : Latch) (tick : Nat) (t : Team) : SMap W32 × Bool × Bool :=
  let rd (o : Nat) : Byte := t.sram.get 0 o
  let bad (o : Nat) : Bool := t.poison.get false (o / 32)
  let poisoned := (List.range e.m).any (fun i => (e.aBytes i).any bad) || (List.range e.n).any (fun n => (e.bBytes n).any bad)
  let cells := (List.range e.m).flatMap (fun i => (List.range e.n).map (fun n => (i, n)))
  let r := cells.foldl (fun (a : SMap W32 × Bool) x =>
    let k := tileKey e.tile x.1 x.2
    let old := t.tiles.get 0 k
    let v := e.accElem rd x.1 x.2 (if e.za then 0 else old)
    (a.1.set 0 k (if poisoned then openElem tick k old v.1 else v.1), a.2 || v.2)) (t.tiles, false)
  (r.1, r.2, poisoned)

-- ## Issuing commands (R249, R252, R253, R256)

/-- A command of the issuing group is named: `CMDSEQ` advances (R256), and it is open for the next batch (R253). -/
def State.nameCmd (s : State) (c : Ctx) (id : Nat) : State :=
  { s with nextId := s.nextId + 1 }.updGrp c.gid (fun g =>
    { g with cmdseq := g.cmdseq + 1, openCmds := g.openCmds ++ [id], openCnt := g.openCnt + 1 })
/-- A command enters the engine at issue. -/
def State.enterEngine (s : State) (c : Ctx) (op : MatrixOp) : State :=
  let id := s.nextId
  let tswz := (s.team c.g.tid).elim 0 (fun t => t.tswz)
  let s := s.nameCmd c id
  { s with mcmds := s.mcmds.insert id ⟨c.g.core, c.g.tid, c.gid, 0, c.sp.pc, c.g.cmdseq + 1, tswz, op⟩ }
/-- Every group that a list names holds an entry. -/
def State.latchFull (s : State) (tid : Nat) (list : W32) : Option (List (Nat × Latch)) :=
  (gangList list).mapM (fun i => (s.groupOf tid i).bind (fun gid => (s.grp gid).bind (fun g => g.latch.map (fun e => (gid, e)))))
/-- The members' entries agree (R249). -/
def agree (e : Latch) (ms : List (Nat × Latch)) : Bool :=
  ms.all (fun m => m.2.list == e.list && m.2.n == e.n && m.2.k == e.k && m.2.bb == e.bb && m.2.sf0 == e.sf0 && m.2.tswz == e.tswz)
    && decide ((ms.map (fun m => m.2.tile)).Nodup)
/-- Entries of a full list are resolved (R249): one gang command, or a mismatch. -/
def State.resolve (s : State) (core tid : Nat) (e : Latch) (ms : List (Nat × Latch)) : State :=
  if agree e ms then
    let id := s.nextId
    let s := ms.foldl (fun s m => s.updGrp m.1 (fun g =>
      let swap (l : List Nat) : List Nat := l.map (fun i => if i = m.2.id then id else i)
      { g with latch := none, openCmds := swap g.openCmds, batches := g.batches.map (fun b => { b with cmds := swap b.cmds }) }))
      { s with nextId := id + 1 }
    match ms with
    | [] => s
    | m :: _ =>
      { s with mcmds := s.mcmds.insert id ⟨core, tid, m.1, 0, m.2.site, m.2.seq, m.2.tswz,
          .mma (ms.map (fun x => ⟨x.1, 0, x.2⟩))⟩ }
  else ms.foldl (fun s m => s.dropLatch m.1) s
/-- After an entry, every list that is now full is resolved; a list that names a group that has ended is broken (R249, R250). -/
def State.latchSettle (s : State) (core tid : Nat) : State :=
  ((s.groups.keep (fun _ g => g.tid == tid && g.latch.isSome)).map Prod.fst).foldl (fun s gid =>
    match (s.grp gid).bind (fun g => g.latch) with
    | none => s
    | some e =>
      match s.latchFull tid e.list with
      | some ms => s.resolve core tid e ms
      | none => if (gangList e.list).any (fun i => (s.groupOf tid i).isNone) then s.dropLatch gid else s) s

/-- An engine command's word: it executes once, and releases the group's stores at `TEAM` scope (R252). -/
def engineEff (s : State) (c : Ctx) (body : State → Ctx → Team → Except FInfo (State → State)) : Eff :=
  match s.team c.g.tid with
  | none => .done s Res.nil
  | some t =>
    match body s c t with
    | .error f => .fault s f
    | .ok f => if s.relReady c.gid c.g .team then .done (f (s.release c.g .team)) Res.nil else .stall s .fifoEmpty
def engineWord (s : State) (h : Hdr) (us : List Use) (body : State → Ctx → Team → Except FInfo (State → State)) :
    Host.Outcome State Fault Refusal :=
  onceWord s h .long us (fun s c => engineEff s c body)

/-- The groups a team has (R312). -/
def State.teamgOf (s : State) (tid : Nat) : Nat := (s.team tid).elim 0 (fun t => t.teamg)
/-- The list of a `GANG` names a group that the team does not have, or omits the issuing one (R248). -/
def State.gangBad (s : State) (imm : W32) (c : Ctx) : Bool :=
  imm != 0 && ((gangList imm).any (fun i => decide (s.teamgOf c.g.tid ≤ i)) || !(gangList imm).contains c.g.gi)
/-- `GANG`, `GANG.clr` (R248). -/
def gangWord (s : State) (h : Hdr) (imm : W32) : Host.Outcome State Fault Refusal :=
  limited s h (s.gangBad imm) <| onceWord s h .long [] (fun s c =>
    if c.g.latch.isSome then .stall s .latch
    else .done (s.updGrp c.gid (fun g => { g with gang := imm })) Res.nil)
def execGang (h : Hdr) (imm : W32) (s : State) : Host.Outcome State Fault Refusal := gangWord s h imm
def execGangClr (h : Hdr) (s : State) : Host.Outcome State Fault Refusal := gangWord s h 0

/-- The team has no such tile (R159, R258): a limit of the encoding field (R50). -/
def State.tileBad (s : State) (tile : BitVec 4) (c : Ctx) : Bool := (s.team c.g.tid).any (fun t => decide (t.acc ≤ tile.toNat))

/-- `MMA` (R249, R257). -/
def execMma (h : Hdr) (za : Bool) (tile : BitVec 4) (rc : BitVec 3) (bb shp sf : SReg) (s : State) :
    Host.Outcome State Fault Refusal :=
  limited s h (s.tileBad tile) <| onceWord s h .long (Instr.mma h za tile rc bb shp sf).uses (fun s c =>
    match s.team c.g.tid with
    | none => .done s Res.nil
    | some t =>
      let g := c.g
      let w := g.srcS shp
      let e : Latch := ⟨s.nextId, c.sp.pc, g.cmdseq + 1, t.tswz, za, tile.toNat, g.gang, (g.srcS bb).toNat, fld w 6 0, fld w 15 8,
        fld w 29 16, g.getS sf.toNat, g.getS (sf.toNat + 1), g.getD rc.toNat⟩
      match e.check w t with
      | some f => .fault s f
      | none =>
        if g.latch.isSome then .stall s .latch
        else if !s.relReady c.gid g .team then .stall s .fifoEmpty
        else
          let s := s.release g .team
          if g.gang.toNat % 8 = 0 then .done (s.enterEngine c (.mma [⟨c.gid, 0, e⟩])) Res.nil
          else
            let s := (s.nameCmd c s.nextId).updGrp c.gid (fun g => { g with latch := some e })
            .done (s.latchSettle g.core g.tid) Res.nil)

/-- `MFENCE` (R253). -/
def execMfence (h : Hdr) (d : SReg) (s : State) : Host.Outcome State Fault Refusal :=
  onceWord s h .long (Instr.mfence h d).uses (fun s c =>
    if 8 ≤ c.g.batches.length then .stall s .batches
    else
      let n := c.g.nextBatch
      let s := s.updGrp c.gid (fun g =>
        ({ g with
          batches := g.batches ++ [⟨n, g.openCmds⟩], openCmds := [], openCnt := 0, nextBatch := n + 1
          qwrites := g.qwrites.map (fun q => { q with batch := some (q.batch.getD n) })
          pendq := g.pendq.map (fun f => match f.kind with
            | .matrix t none => { f with kind := .matrix t (some n) }
            | _ => f) } : Group).trimBatches)
      .done s (Res.of [.s d.toNat (BitVec.ofNat 64 (n % 16))]))
/-- The word raises its matrix faults (R254, R258, R261). -/
def raiseMatrix (s : State) (c : Ctx) : Eff := .async (s.takeReset c.gid c.sp.pc)
/-- `MWAIT` on the batches with serials below a bound (R254): a fault to raise, the wait, or the end. -/
def mwaitWord (s : State) (h : Hdr) (upTo : Group → Nat) : Host.Outcome State Fault Refusal :=
  onceWord s h .long [] (fun s c =>
    let n := upTo c.g
    if c.g.matrixFault (.before n) then raiseMatrix s c
    else if c.g.batches.any (fun b => decide (b.num < n)) then .pause s (.waiting (.matrix n))
    else .done (s.mwaitDone c.gid n) Res.nil)
/-- The bound of the most recent batch with a number; none of that number is outstanding where there is none (R254). -/
def Group.batchBound (g : Group) (n : BitVec 4) : Nat :=
  (((List.range 16).map (fun i => g.nextBatch - i)).find? (fun b => decide (0 < b) && (b - 1) % 16 == n.toNat)).getD 0
/-- `MWAIT n` (R254). -/
def execMwait (h : Hdr) (n : BitVec 4) (s : State) : Host.Outcome State Fault Refusal := mwaitWord s h (fun g => g.batchBound n)
/-- `MWAIT.all` (R254). -/
def execMwaitAll (h : Hdr) (s : State) : Host.Outcome State Fault Refusal := mwaitWord s h (fun g => g.nextBatch)

/-- `ACCZ` (R258). -/
def execAccz (h : Hdr) (tile : BitVec 4) (s : State) : Host.Outcome State Fault Refusal :=
  limited s h (s.tileBad tile) <| engineWord s h [] (fun _ c _ => .ok (fun s => s.enterEngine c (.accz tile.toNat)))
/-- Row and column operand of `ACCRD`, `ACCWR` (R258): none when it breaks a limit. -/
def accRC (g : Group) (b : SReg) (nr : Nat) : Option (Nat × Nat) :=
  let w := g.srcS b
  let r := fld w 5 0
  let c0 := fld w 14 8
  if w &&& ~~~ (bitsM 5 0 ||| bitsM 14 8) ≠ 0 ∨ 64 < r + nr ∨ 128 < c0 + g.width then none else some (r, c0)
/-- `ACCRD` (R258): acts in each lane, after the group's earlier commands on the tile, and acquires what they wrote (R331). -/
def execAccrd (h : Hdr) (nr : BitVec 3) (d : Reg) (tile : BitVec 4) (b : SReg) (s : State) :
    Host.Outcome State Fault Refusal :=
  limited s h (s.tileBad tile) <| issue s h .long (Instr.accrd h nr d tile b).uses false 1 (fun s c =>
    if c.act = 0 then .done s Res.nil
    else
      match s.team c.g.tid with
      | none => .done s Res.nil
      | some t =>
        match accRC c.g b (nr.toNat + 1) with
        | none => .fault s (flt fcOperand)
        | some (r, c0) =>
          if c.g.matrixFault (.tile tile.toNat) then raiseMatrix s c
          else if s.tileBusy c.g tile.toNat then .stall s (.tile tile.toNat)
          else .done (s.acquireQ c.g (.tile tile.toNat)) (Res.of ((laneList c.act).flatMap (fun l => (List.range (nr.toNat + 1)).map (fun j =>
            .v (d.toNat + j) l (t.tiles.get 0 (tileKey tile.toNat (r + j) (c0 + l))))))))
/-- `ACCWR` (R258): registers are read at issue. -/
def execAccwr (h : Hdr) (nr : BitVec 3) (tile : BitVec 4) (a : Reg) (b : SReg) (s : State) :
    Host.Outcome State Fault Refusal :=
  limited s h (s.tileBad tile) <| engineWord s h (Instr.accwr h nr tile a b).uses (fun _ c _ =>
    match accRC c.g b (nr.toNat + 1) with
    | none => .error (flt fcOperand)
    | some (r, c0) =>
      .ok (fun s => s.enterEngine c (.accwr tile.toNat r ((laneList c.act).flatMap (fun l =>
        (List.range (nr.toNat + 1)).map (fun j => (r + j, c0 + l, c.g.getV (a.toNat + j) l)))))))

/-- Element size of an `ACCQ` (R259). -/
def accqEs (df : Nat) : Nat := if df = 0 then 4 else if df = 1 then 2 else 1
/-- Rows, columns and pitch of an `ACCQ`. -/
def accqShape (b : W64) : Nat × Nat × Nat := (fld b 37 32 + 1, fld b 46 40 + 1, fld b 31 0)
def accqBl (bl16 : Bool) : Nat := if bl16 then 16 else 32
/-- The first byte of each hull of an `ACCQ`, and the byte after it. -/
def accqHulls (df : Nat) (bl16 : Bool) (a b sc : W64) : List (Nat × Nat) :=
  let (r, n, p) := accqShape b
  (a.toNat, a.toNat + (r - 1) * p + n * accqEs df)
    :: (if df ≤ 1 then [] else [(sc.toNat, sc.toNat + r * (n / accqBl bl16))])
/-- A format that the word may not name (R50, R259). -/
def accqForm (df : Nat) (bl16 : Bool) : Bool :=
  !(df == 0 || df == 1 || df == 3 || df == 4 || df == 5) || (bl16 && df != 5)
/-- The checks of `ACCQ` in their order (R259). -/
def accqCheck (df : Nat) (bl16 gl : Bool) (a b sc : W64) (t : Team) : Option FInfo :=
  let (_, n, p) := accqShape b
  if b &&& ~~~ (bitsM 37 32 ||| bitsM 46 40 ||| bitsM 31 0) ≠ 0 then some (flt fcOperand)
  else if accqForm df bl16 || (decide (3 ≤ df) && n % accqBl bl16 != 0) then some (flt fcFormat)
  else if a.toNat % accqEs df ≠ 0 ∨ p % accqEs df ≠ 0 then some (flt fcMisaligned 0 a)
  else if gl then hullPast fcTranslation 1 (2 ^ 52) (accqHulls df bl16 a b sc)
  else hullPast fcProtection 9 (t.scratch * 1024) (accqHulls df bl16 a b sc)
/-- `ACCQ` (R259). The guard does not suppress a format that the encoding may not name (R50). -/
def execAccq (h : Hdr) (df : BitVec 4) (bl16 : Bool) (rm : RM) (gl : Bool) (tile : BitVec 4) (a b cc : SReg) (s : State) :
    Host.Outcome State Fault Refusal :=
  limited s h (s.tileBad tile) <| issue s h .long (Instr.accq h df bl16 rm gl tile a b cc).uses false 1 (fun s c =>
    if c.act = 0 then if accqForm df.toNat bl16 then .fault s (flt fcFormat) else .done s Res.nil
    else engineEff s c (fun _ c t =>
      let x := c.g.srcS a
      let w := c.g.srcS b
      let sc := if df.toNat ≤ 1 then 0 else c.g.srcS cc
      match accqCheck df.toNat bl16 gl x w sc t with
      | some f => .error f
      | none => .ok (fun s => s.enterEngine c (.accq df.toNat bl16 rm gl tile.toNat x w sc))))
/-- `SHAPE` (R260). -/
def execShape (h : Hdr) (d : BitVec 3) (a b : SReg) (s : State) : Host.Outcome State Fault Refusal :=
  onceWord s h .long (Instr.shape h d a b).uses (fun s c => .done s (Res.of [.d d.toNat (c.g.srcS b ++ c.g.srcS a)]))

-- ## Completion (R251, R253, R259)

/-- The bytes an `ACCQ` writes, in its order (R259). -/
def accqBytes (tiles : SMap W32) (df : Nat) (bl16 : Bool) (rm : RM) (tile : Nat) (a b sc : W64) : List (Nat × Byte) :=
  let (r, n, p) := accqShape b
  let bl := accqBl bl16
  (List.range r).flatMap (fun i =>
    let x (j : Nat) : W32 := tiles.get 0 (tileKey tile i j)
    if df ≤ 1 then
      (List.range n).flatMap (fun j =>
        let v := if df = 0 then (if (dec32 (x j)).isNan then 0x7FC00000 else (x j).toNat) else (roundCode 1 false rm 0 (dec32 (x j))).1
        (bytesOf (accqEs df) v).zipIdx.map (fun q => (a.toNat + i * p + j * accqEs df + q.2, q.1)))
    else
      (List.range (n / bl)).flatMap (fun j =>
        let xs := (List.range bl).map (fun k => dec32 (x (j * bl + k)))
        let scale := blockScale df xs
        (sc.toNat + i * (n / bl) + j, BitVec.ofNat 8 scale)
          :: xs.zipIdx.map (fun q => (a.toNat + i * p + j * bl + q.2, BitVec.ofNat 8 (blockElem df scale rm 0 q.1).1))))

/-- Two commands of one group share a tile, or scratchpad or global bytes that one of them writes (R251). -/
def MatrixOp.shares : MatrixOp → MatrixOp → Bool
  | .accq .., .accq .. => true
  | .accq .., .mma _ => true
  | .mma _, .accq .. => true
  | x, y => x.tiles.any (fun t => y.tiles.contains t)
def MatrixOp.isAccq : MatrixOp → Bool
  | .accq .. => true
  | _ => false
/-- The groups a command belongs to, each with its name there (R256). -/
def MCmd.names (c : MCmd) : List (Nat × W64 × W32) := match c.op with
  | .mma ms => ms.map (fun m => (m.gid, m.entry.site, m.entry.seq))
  | _ => [(c.gid, c.site, c.seq)]
/-- One of two commands of a group was issued before the other: `CMDSEQ` wraps (R256). -/
def seqBefore (a b : W32) : Bool := decide (0 < (b - a).toNat) && decide ((b - a).toNat < 2 ^ 31)
/-- Two commands have a group in common, which issued `x` first. -/
def MCmd.before (x c : MCmd) : Bool := c.names.any (fun n => x.names.any (fun m => m.1 == n.1 && seqBefore m.2.2 n.2.2))
/-- A team has stopped for a save: its latch entries have left the latch for the image (R419). -/
def State.teamHalted (s : State) (tid : Nat) : Bool := (s.groups.keep (fun _ g => g.tid == tid)).all (fun e => e.2.halted)
/-- The command may take effect now: its engine is not resetting, and every command it is ordered behind has: those of its
groups, resident or ended, that share something with it, an entry of theirs in the latch unless it has left for an image
(log 44), and those of other groups that entered before it and touch its tile (R251, R261). -/
def State.mayComplete (s : State) (id : Nat) (c : MCmd) : Bool :=
  (s.core c.core).resetEnd.isNone
    && !s.mcmds.any (fun e => e.1 != id && e.2.before c && c.op.shares e.2.op)
    && (s.teamHalted c.tid || !c.names.any (fun n => ((s.grp n.1).bind (fun g => g.latch)).any (fun e =>
        seqBefore e.seq n.2.2 && (c.op.tiles.contains e.tile || c.op.isAccq))))
    && s.mcmds.all (fun e => decide (id ≤ e.1) || e.2.tid != c.tid || e.2.names.any (fun x => c.names.any (fun y => x.1 == y.1))
        || !(e.2.op.tiles.any (fun t => c.op.tiles.contains t)))

/-- A command leaves the engine: its groups' batches advance, and their `MWAIT`s end (R253, R254). -/
def State.retire (s : State) (id : Nat) (c : MCmd) : State :=
  let s := { s with mcmds := s.mcmds.erase id }
  ((c.names.foldl (fun s n => (s.updGrp n.1 (fun g => (g.endCmd id).trimBatches)).matrixSettle n.1) s).tryTeamEnd c.tid).checkEndings
/-- The kind of a command's faults (R262). -/
def State.matrixKind (s : State) (gid id tile : Nat) : CmdKind := .matrix tile ((s.grp gid).bind (fun g => g.batchOf id))
/-- The bank lines of hulls, which the engine's accesses enter (R127). -/
def Team.hullLines (t : Team) (hs : List (Nat × Nat)) : List Nat :=
  hs.flatMap (fun x => (List.range (t.line (x.2 - 1) + 1 - t.line x.1)).map (fun i => t.line x.1 + i))
/-- The effect of an `MMA`: each member's tile, `MX`, and the fault of a member that read poison. -/
def State.applyMma (s : State) (id : Nat) (c : MCmd) (slot : Nat) (ms : List MMember) : State :=
  ms.foldl (fun s m =>
    match s.team c.tid with
    | none => s
    | some t =>
      let r := m.entry.apply s.tick t
      let s := (s.bankPut c.core (t.hullLines m.entry.hulls)).setTeam c.tid { t with tiles := r.1 }
      let s := if r.2.1 then s.updGrp m.gid (fun g => { g with mx := true }) else s
      if r.2.2 then
        s.cmdFault (.group m.gid) slot none ⟨fcMemory, 0, 0, m.entry.site, m.entry.seq, s.matrixKind m.gid id m.entry.tile⟩
      else s) s
/-- The destination bytes of a discarded or faulting `ACCQ` hold old or new values (R261, R262, log 16). -/
def State.scatterOpen (s : State) (c : MCmd) : State :=
  match c.op, s.team c.tid with
  | .accq df bl16 rm gl tile a b sc, some t =>
    let bs := ((accqBytes t.tiles df bl16 rm tile a b sc).zipIdx.filter (fun x => Config.newByte s.tick x.2)).map (fun x => x.1)
    if gl then bs.foldl (fun s x => (s.rawWrite 0 (c.core / 80) t.ctx x.1 [x.2]).1) s
    else s.setTeam c.tid (t.write bs)
  | _, _ => s
/-- The global bytes of an `ACCQ` with the places they go to, or the first that stops. -/
def State.accqTargets (s : State) (die slot : Nat) : List (Nat × Byte) → State × Except EStop (List (Nat × Attr × Byte))
  | [] => (s, .ok [])
  | x :: xs =>
    match s.engByte die slot .w x.1 with
    | (s, .error e) => (s, .error e)
    | (s, .ok p) =>
      match State.accqTargets s die slot xs with
      | (s, .ok l) => (s, .ok ((p.1, p.2, x.2) :: l))
      | (s, .error e) => (s, .error e)
/-- A matrix engine command takes effect and completes (R251): `unit` is the command. A global `ACCQ` that meets a page in
transition, or that a regulator holds back, waits; one that faults writes nothing. -/
def execEngineCommandComplete (s : State) : Host.Outcome State Fault Refusal :=
  let id := s.ev.unit
  match s.mcmds.find? id with
  | none => .next s
  | some c =>
    match s.team c.tid with
    | none => .next s
    | some t =>
      if s.mayComplete id c = false then .next s
      else
        match c.op with
        | .mma ms => .next ((s.applyMma id c t.ctx ms).retire id c)
        | .accz tile =>
          .next ((s.setTeam c.tid { t with tiles := t.tiles.keep (fun k _ => k / 8192 != tile) }).retire id c)
        | .accwr tile _ data =>
          .next ((s.setTeam c.tid { t with tiles := data.foldl (fun m x => m.set 0 (tileKey tile x.1 x.2.1) x.2.2) t.tiles }).retire id c)
        | .accq df bl16 rm gl tile a b sc =>
          let bs := accqBytes t.tiles df bl16 rm tile a b sc
          if gl then
            match s.accqTargets (c.core / 80) t.ctx bs with
            | (t, .error .wait) => .next (s.waiting t)
            | (s, .error (.fault code d va)) =>
              .next (((s.scatterOpen c).cmdFault (.group c.gid) t.ctx none ⟨BitVec.ofNat 8 code, BitVec.ofNat 32 d, BitVec.ofNat 64 va,
                c.site, c.seq, s.matrixKind c.gid id tile⟩).retire id c)
            | (u, .ok l) =>
              .next (s.passed (((u.rawPut t.ctx 0 l).updGrp c.gid (fun g =>
                { g with qwrites := g.qwrites ++ [⟨g.batchOf id, tile, (l.map (fun x => x.1 / 32)).dedup⟩] })).retire id c))
          else .next (((s.bankPut c.core (t.hullLines (accqHulls df bl16 a b sc))).setTeam c.tid (t.write bs)).retire id c)

-- ## Reset (R261)

/-- The oldest command of a group that a reset discards, in the engine or, unless the entry is for the image, the latch. -/
def State.oldestOf (s : State) (core gid : Nat) (g : Group) : Option (W64 × W32) :=
  let of (i : Nat) : Option (W64 × W32) := match s.mcmds.find? i with
    | some x => if x.core = core then (x.names.find? (fun n => n.1 == gid)).map Prod.snd else none
    | none => match g.latch with
      | some e => if e.id = i ∧ s.teamHalted g.tid = false then some (e.site, e.seq) else none
      | none => none
  g.cmdIds.findSome? of
/-- A group after a reset of its engine (R261): its commands are gone, and its batches complete. An entry that is for the image
stays (R424). -/
def Group.afterReset (g : Group) (keep : Bool) : Group :=
  let stays (i : Nat) : Bool := keep && g.latch.any (fun e => e.id == i)
  ({ g with
    latch := if keep then g.latch else none, openCmds := g.openCmds.filter stays
    batches := g.batches.map (fun b => { b with cmds := b.cmds.filter stays }) } : Group).trimBatches
/-- `MATRIX_RESET` joins the pending faults of a group, once (R261, R410). -/
def State.pendReset (s : State) (gid : Nat) (f : AFault) : State :=
  if (s.grp gid).any (fun g => g.pendq.any AFault.isReset) then s else s.asyncTo gid f
/-- The core resets its engine (R261): `unit` is the core. Every context with a team that holds tiles there has its event, which
names its oldest discarded command, whether or not the team has a group left. -/
def execMatrixEngineReset (s : State) : Host.Outcome State Fault Refusal :=
  let core := s.ev.unit
  let mine := s.mcmds.keep (fun _ c => c.core == core)
  match mine with
  | [] => .next s
  | _ :: _ =>
    let teams := s.teams.keep (fun _ t => t.core == core && decide (0 < t.acc))
    let tids := teams.map Prod.fst
    let s := mine.foldl (fun s e => s.scatterOpen e.2) s
    let gs := s.groups.keep (fun _ g => tids.contains g.tid)
    let name (n : Nat) : Option (W64 × W32) :=
      match List.find? (fun (e : Nat × MCmd) => teams.any (fun t => t.1 == e.2.tid && t.2.ctx == n)) mine with
      | some e => some (e.2.site, e.2.seq)
      | none => (gs.keep (fun _ g => g.ctx == n)).findSome? (fun e => s.oldestOf core e.1 e.2)
    let evs := ((teams.vals.map (fun t => t.ctx)).dedup).map (fun n => (n, (name n).getD (0, 0)))
    let fs := gs.map (fun e => (e.1, s.teamHalted e.2.tid, match s.oldestOf core e.1 e.2 with
      | some x => (⟨fcMatrixReset, 0, 0, x.1, x.2, .reset true⟩ : AFault)
      | none => ⟨fcMatrixReset, 0, 0, 0, 0, .reset false⟩))
    let s := { s with
      mcmds := s.mcmds.keep (fun _ c => c.core != core)
      teams := s.teams.mapV (fun t => if t.core = core ∧ 0 < t.acc then { t with tiles := [] } else t) }
    let s := fs.foldl (fun s f => ((s.updGrp f.1 (fun g => g.afterReset f.2.1)).pendReset f.1 f.2.2).matrixSettle f.1) s
    let s := s.setCore core { s.core core with resetEnd := some (s.now + 4096) }
    let s := evs.foldl (fun s e => s.event e.1 0x06 0x10 0 0 (e.2.2.setWidth 64) e.2.1) s
    .next (tids.foldl (fun s t => s.tryTeamEnd t) s).checkEndings
/-- The reset ends (R261): `unit` is the core. -/
def execMatrixEngineResetEnd (s : State) : Host.Outcome State Fault Refusal :=
  match (s.core s.ev.unit).resetEnd with
  | none => .next s
  | some t => .next (if t ≤ s.now then s.setCore s.ev.unit { s.core s.ev.unit with resetEnd := none } else s)

end Sys2Proof.Machine
end

