-- ==== Sys2Proof/Machine/Placement.lean ====
section
/-! DEFINITION. Launch records, the fit of a team on a core, and the placement of teams (R21 to R23, R63, R64, R121, R122,
R394, R396, R397). -/

namespace Sys2Proof.Machine

-- ## Launch records (R63, R64)

/-- Bits of a record's bytes: field `[hi:lo]` of the quadword at an offset. -/
def qfld (bs : List Byte) (off hi lo : Nat) : Nat := fld (BitVec.ofNat 64 (natOf ((bs.drop off).take 8))) hi lo
/-- The L1 size of a code, in KiB. -/
def l1Kib (c : Nat) : Nat := 768 + 256 * c
/-- A well-formed launch record (R64), none otherwise; of what R63 says besides only the zero bits of `ENTRY` are checked (log 13). -/
def parseRecord (bs : List Byte) : Option LaunchRec :=
  let f := qfld bs
  let nrole := f 0x10 13 12 + 1
  let role (i : Nat) : Nat := qfld bs (0x18 + 4 * i) 31 0
  let roles := (List.range nrole).map (fun i => (role i % 256, role i / 256 % 256))
  let l1 := l1Kib (f 0x10 45 44)
  if f 0x00 2 0 = 0 ∧ f 0x00 63 52 = 0 ∧ f 0x08 63 48 = 1 ∧ f 0x10 1 0 ≠ 3 ∧ (f 0x10 20 16 = 0 ∨ (2 ≤ f 0x10 20 16 ∧ f 0x10 20 16 ≤ 16))
      ∧ f 0x10 42 32 + l1 ≤ 2048
      ∧ roles.all (fun r => decide (1 ≤ r.1 ∧ r.1 ≤ 16 ∧ 1 ≤ r.2 ∧ r.2 ≤ 32)) = true
      ∧ (List.range 4).all (fun i => decide (role i / 65536 = 0) && (decide (i < nrole) || role i == 0)) = true
      ∧ f 0x10 8 4 = (roles.map Prod.fst).foldl (· + ·) 0
      ∧ f 0x10 63 46 = 0 ∧ f 0x10 43 43 = 0 ∧ f 0x10 31 29 = 0 ∧ f 0x10 23 21 = 0 ∧ f 0x10 15 14 = 0 ∧ f 0x10 11 9 = 0 ∧ f 0x10 3 2 = 0
      ∧ natOf ((bs.drop 0x28).take 0x18) = 0 then
    some ⟨BitVec.ofNat 64 (f 0x00 63 0), 16 * 2 ^ f 0x10 1 0, l1, f 0x10 42 32, f 0x10 28 24, f 0x10 20 16, f 0x08 47 32,
      roles.map (fun r => (r.1, 8 * r.2))⟩
  else none
/-- The groups of a team in order: role, rank, budget (R22). -/
def LaunchRec.groups (r : LaunchRec) : List (Nat × Nat × Nat) :=
  (r.roles.zipIdx).flatMap (fun x => (List.range x.1.1).map (fun k => (x.2, k, x.1.2)))

-- ## Fitting (R18, R21, R121, R122, R397)

/-- A group on a core, as placement sees it: width, slot, partition, budget. -/
abbrev Spot := Nat × Nat × Nat × Nat
/-- The slot's width, none for an empty slot. -/
def slotWidth (on : List Spot) (slot : Nat) : Option Nat := (on.find? (fun x => x.2.1 == slot)).map Prod.fst
/-- A partition has room for a budget: 8 groups, 512 register rows. -/
def spotRoom (on : List Spot) (slot part budget : Nat) : Bool :=
  let here := on.filter (fun x => x.2.1 == slot && x.2.2.1 == part)
  decide (here.length < 8) && decide ((here.map (fun x => x.2.2.2)).foldl (· + ·) budget ≤ 512)
/-- The lowest partition with room, of the lowest slot of the width or empty. -/
def spotFor (on : List Spot) (w budget : Nat) : Option (Nat × Nat) :=
  ((List.range 4).flatMap (fun s => (List.range (64 / w)).map (fun p => (s, p)))).find? (fun x =>
    (slotWidth on x.1 == some w || (slotWidth on x.1).isNone) && spotRoom on x.1 x.2 budget)
/-- Places for groups, in group order. -/
def spotsFor (w : Nat) : List Spot → List Nat → Option (List (Nat × Nat))
  | _, [] => some []
  | on, b :: bs =>
    match spotFor on w b with
    | none => none
    | some x => (spotsFor w (on ++ [(w, x.1, x.2, b)]) bs).map (x :: ·)
/-- Scratchpad bytes of a team, rounded up to 2 KiB. -/
def scratchBytes (kib : Nat) : Nat := (kib + 1) / 2 * 2048
/-- The lowest free array address for a region, above the L1 (R120, R122). -/
def baseFor (l1 size : Nat) (used : List (Nat × Nat)) : Option Nat :=
  let lo := l1 * 1024
  ((lo :: used.map (fun x => x.1 + x.2)).insertionSort (· ≤ ·)).find? (fun b =>
    decide (b + size ≤ 2 ^ 21) && used.all (fun x => decide (b + size ≤ x.1) || decide (x.1 + x.2 ≤ b) || size == 0))
/-- What stands on a core, without the teams of a list. -/
def State.coreTeams (s : State) (c : Nat) (gone : List Nat) : List Team :=
  (s.teams.keep (fun tid t => t.core == c && !gone.contains tid)).vals
def State.coreSpots (s : State) (c : Nat) (gone : List Nat) : List Spot :=
  (s.groups.keep (fun _ g => g.core == c && !gone.contains g.tid)).vals.map (fun g => (g.width, g.slot, g.part, g.budget))
/-- A place for a team on a core (R397): the scratchpad base and a partition for each group. -/
def placeOn (l1 : Option Nat) (teams : List Team) (on : List Spot) (r : LaunchRec) : Option (Nat × List (Nat × Nat)) :=
  if (match l1 with
      | some k => k != r.l1
      | none => false)
    || decide (16 < (teams.map (fun t => t.acc)).foldl (· + ·) r.acc) || decide (64 < on.length + r.groups.length) then none
  else
    match baseFor r.l1 (scratchBytes r.scratch) (teams.map (fun t => (t.base, scratchBytes t.scratch))),
        spotsFor r.width on (r.groups.map (fun x => x.2.2)) with
    | some b, some ps => some (b, ps)
    | _, _ => none
/-- The fit on a core of the device, without the teams of a list. -/
def State.fitOn (s : State) (c : Nat) (gone : List Nat) (r : LaunchRec) : Option (Nat × List (Nat × Nat)) :=
  let ts := s.coreTeams c gone
  if s.present (.cluster (c / 16)) then
    placeOn (if ts.isEmpty then none else some (s.core c).l1) ts (s.coreSpots c gone) r
  else none
/-- A team fits an empty core (R21, R396): it is placed there as R397 would place it, in group order, whatever another order of
its groups would allow (log 46). -/
def LaunchRec.fitsEmpty (r : LaunchRec) : Bool := decide (r.groups.length ≤ 16) && (placeOn none [] [] r).isSome
/-- The cores on which the next team, or cluster set, of a grid would stand (R23, R397). -/
def State.coresFor (s : State) (gone : List Nat) (r : LaunchRec) : Option (List Nat) :=
  if r.cset = 0 then ((List.range 640).find? (fun c => (s.fitOn c gone r).isSome)).map (fun c => [c])
  else (List.range 40).findSome? (fun k =>
    let fit := ((List.range 16).map (fun i => 16 * k + i)).filter (fun c => (s.fitOn c gone r).isSome)
    if r.cset ≤ fit.length then some (fit.take r.cset) else none)

-- ## Placing (R122, R160, R397)

/-- A core takes its L1 size from the team placed on it while it holds none (R121). -/
def State.setL1 (s : State) (c l1 : Nat) : State :=
  if !(s.coreTeams c []).isEmpty ∨ (s.core c).l1 = l1 then s
  else
    let s := s.l1Flush c
    s.setCore c { s.core c with l1 := l1 }
/-- The groups of a team, each acquiring at `DEVICE` before its first word. -/
def State.placeGroups (s : State) (tid core : Nat) (k : Grid) : List ((Nat × Nat × Nat) × (Nat × Nat)) → Nat → State
  | [], _ => s
  | ((role, rank, budget), (slot, part)) :: rest, gi =>
    let g := Group.placed tid k.slot gi role rank k.rec_.width budget slot core part k.rec_.entry (s.vpv k.vpart) k.vpart k.lbase k.lsize
      s.tick
    let s := ({ s with nextId := s.nextId + 1, groups := s.groups.insert s.nextId g }).acquire g .device
    State.placeGroups s tid core k rest (gi + 1)
/-- A team of a grid is placed on a core. -/
def State.placeTeam (s : State) (kid : Nat) (k : Grid) (idx member core : Nat) : State :=
  match s.fitOn core [] k.rec_ with
  | none => s
  | some (base, ps) =>
    let s := s.setL1 core k.rec_.l1
    let tid := s.nextId
    let gs := k.rec_.groups
    let s := { s with
      nextId := tid + 1
      teams := s.teams.insert tid ⟨kid, idx, k.slot, core, base, k.rec_.scratch, k.rec_.acc, gs.length, member, s.tick, [], [], [], 0, []⟩ }
    s.placeGroups tid core k (gs.zip ps) 0

-- ## The order of grids (R394, R397)

/-- The rank of a grid: level, deadline class and deadline, longest waiting; the lower list wins. -/
def Grid.rank (kid : Nat) (k : Grid) : List Nat :=
  let d : Nat × Nat := match k.rankDl with
    | some d => (0, if d = 0 then 2 ^ 64 else d.toNat)
    | none => (1, 0)
  [7 - k.prio, d.1, d.2, k.since, kid]
/-- The lexicographic order of ranks. -/
def lexLt : List Nat → List Nat → Bool
  | a :: as, b :: bs => decide (a < b) || (a == b && lexLt as bs)
  | _, _ => false
/-- The swapped-out teams of a grid, by team index. -/
def State.savedOf (s : State) (kid : Nat) : List (Nat × SavedTeam) :=
  (s.saved.keep (fun _ t => t.grid == kid)).insertionSort (fun a b => a.2.idx ≤ b.2.idx)
/-- A grid with a team to place, new or swapped out. -/
def State.hasUnplaced (s : State) (kid : Nat) (k : Grid) : Bool :=
  !k.killed && (decide (k.nextTeam < k.teamN) || !(s.savedOf kid).isEmpty)
/-- Grids with teams waiting, best first. -/
def State.waitingGrids (s : State) : List (Nat × Grid) :=
  (s.grids.keep (fun kid k => s.hasUnplaced kid k && !s.susp.contains k.slot)).insertionSort (fun a b =>
    lexLt (Grid.rank b.1 b.2) (Grid.rank a.1 a.2) = false)
/-- What the dispatcher does next: a swapped-out team of a grid goes before its unplaced ones (R423). -/
inductive Choice
  | place (grid : Nat) (cores : List Nat)
  | resume (saved core : Nat)
  deriving DecidableEq, Repr
def State.choiceFor (s : State) (gone : List Nat) (kid : Nat) (k : Grid) : Option Choice :=
  match s.savedOf kid with
  | (id, _) :: _ => ((List.range 640).find? (fun c => (s.fitOn c gone k.rec_).isSome)).map (.resume id)
  | [] => if k.nextTeam < k.teamN then (s.coresFor gone k.rec_).map (.place kid) else none
/-- The next placement: the best grid whose next team fits somewhere. -/
def State.dispatch (s : State) : Option Choice := s.waitingGrids.findSome? (fun e => s.choiceFor [] e.1 e.2)
/-- A placement or a packet returns its queue to its base priority (R394). -/
def State.settleQueue (s : State) (q : Nat) : State := s.setQueue q { s.queue q with risen := 0, since := none }
/-- `TEAM_PLACEMENT`: the dispatcher places the next team or cluster set (R397). -/
def execTeamPlacement (s : State) : Host.Outcome State Fault Refusal :=
  match s.dispatch with
  | some (.place kid cores) =>
    match s.grid kid with
    | none => .next s
    | some k =>
      let s := (cores.zipIdx).foldl (fun s x => s.placeTeam kid k (k.nextTeam + x.2) x.2 x.1) s
      let s := { s with grids := s.grids.insert kid { k with nextTeam := k.nextTeam + cores.length } }
      .next (s.settleQueue k.queue)
  | _ => .next s

/-- A grid's deadline passes before its end (R395): event `0x08`, once. `unit` is the grid. -/
def execDeadlineMissed (s : State) : Host.Outcome State Fault Refusal :=
  .next (s.noteLate s.ev.unit)

end Sys2Proof.Machine
end

