-- ==== Sys2Proof/Machine/Versions.lean ====
section
/-! DEFINITION. Policy-versioned weight memory: token boundaries, publication, the region registers (R375 to R385). -/

namespace Sys2Proof.Machine

/-- Version a is before version b (R375). -/
def verBefore (a b : W32) : Bool := decide (1 ≤ (b - a).toNat) && decide ((b - a).toNat < 2 ^ 31)
/-- The versions that the groups of a partition read, resident and swapped out (R376). -/
def State.vcurs (s : State) (p : Nat) : List W32 :=
  ((s.groups.keep (fun _ g => g.vpart == p)).vals ++ s.saved.flatMap (fun e => (e.2.groups.keep (fun _ g => g.vpart == p)).vals)).map
    (fun g => g.vcur)
/-- `MINV` of a partition (R376). -/
def State.minv (s : State) (p : Nat) : W32 :=
  match s.vcurs p with
  | [] => s.vpv p
  | v :: vs => vs.foldl (fun m x => if verBefore x m then x else m) v
/-- The partitions that read a region (R377). -/
def State.vrParts (s : State) (k : Nat) : List Nat := (List.range 16).filter (fun p => (s.reg (vrCfgAddr k)).getLsbD (48 + p))
/-- The wait of R381 is over. -/
def State.pubReady (s : State) (k : Nat) (v : W32) : Bool :=
  (s.vrParts k).all (fun p => !verBefore (s.minv p) (v - 1) && !verBefore (s.vpv p) (v - 1))
/-- A version is published (R381). -/
def State.publish (s : State) (k : Nat) (v : W32) (hold : Bool) : State :=
  let s' := s.setReg (vrVerAddr k) (v.setWidth 64)
  if hold then s' else (s.vrParts k).foldl (fun s p => s.setRegFld (vpStatAddr p) 31 0 v.toNat) s'
/-- The checks of R381: the detail of the `VERSION_FAULT`. -/
def State.pubBad (s : State) (slot k : Nat) (v : W32) : Option Nat :=
  if s.vrEn k = false ∨ s.vrSlot k ≠ slot then some 4 else if v ≠ s.vrVer k + 1 then some 3 else none

/-- `VPUB` (R380, R381). -/
def execVpub (h : Hdr) (hold : Bool) (a b : SReg) (s : State) : Host.Outcome State Fault Refusal :=
  onceWord s h .long (Instr.vpub h hold a b).uses (fun s c =>
    let k := (c.g.srcS a).toNat
    let v := (c.g.srcS b).setWidth 32
    if 256 ≤ k ∨ 2 ^ 32 ≤ (c.g.srcS b).toNat then .fault s (flt fcOperand)
    else match s.pubBad c.g.ctx k v with
      | some d => .fault s (flt fcVersion d)
      | none =>
        match relAt s c true .device with
        | .error e => e
        | .ok s =>
          if s.pubReady k v then .done (s.publish k v hold) Res.nil
          else .pause s (.waiting (.publish k v hold)))
/-- A stalled `VPUB` publishes (R381): `unit` is the group, `sub` the split. -/
def execVpubWaitEnd (s : State) : Host.Outcome State Fault Refusal :=
  match (s.grp s.ev.unit).bind (fun g => g.split? s.ev.sub) with
  | none => .next s
  | some sp =>
    match sp.st with
    | .waiting (.publish k v hold) =>
      if s.pubReady k v then .next ((s.publish k v hold).wakeSplit s.ev.unit sp.idx) else .next s
    | _ => .next s

/-- The record of a token (R382). -/
def State.tokRecord (s : State) (g : Group) (tok pos : W64) : List Byte :=
  let ti := match s.team g.tid with | some t => t.idx | none => 0
  bytesOf 8 (tok.toNat % 2 ^ 32 + pos.toNat % 2 ^ 32 * 2 ^ 32) ++ bytesOf 8 (g.vcur.toNat + g.cmdseq.toNat * 2 ^ 32)
    ++ bytesOf 8 (ti % 2 ^ 32 + g.gi % 16 * 2 ^ 32 + g.vpart % 16 * 2 ^ 40) ++ bytesOf 8 s.deviceTime.toNat
/-- What `TOKB` does to memory: the release at `DEVICE`, then its record stored at `DEVICE` scope (R382). -/
def State.tokStore (s : State) (c : Ctx) (ls : List LaneAt) (bs : List Byte) : State :=
  ls.foldl (fun s x => s.l1Store c.g.core c.g.ctx x.e.attr .device false (bs.zipIdx.map (fun p => (x.ca + p.2, p.1))))
    (s.release c.g .device)
/-- `TOKB` (R382): both wait together for room in the bank queues and for the regulators (R101, R127). -/
def execTokb (h : Hdr) (d a b cc : SReg) (s : State) : Host.Outcome State Fault Refusal :=
  onceWord s h .long (Instr.tokb h d a b cc).uses (fun s c =>
    match s.globalAt c.g.core c.g.ctx .w 32 [(lowLane c.act, c.g.srcS a)] with
    | (s, .error x) => x.eff s
    | (s, .ok ls) =>
      let lines := ls.flatMap (fun x => s.storeLines c.g.core c.g.ctx x.e.attr .device false ((List.range 32).map (x.ca + ·)))
      if !s.relReady c.gid c.g .device then .stall s .fifoEmpty
      else match s.bankFull c.g.core lines with
        | some k => .stall s (.bank c.g.core k)
        | none =>
          match s.pass (s.tokStore c ls (s.tokRecord c.g (c.g.srcS b) (c.g.srcS cc))) false with
          | .error w => .stall w .regulator
          | .ok u =>
            let new := s.vpv c.g.vpart
            let s := ((u.bankEnter c.g.core c.gid none lines).passQ c.gid).updGrp c.gid (fun g => { g with vcur := new })
            .done (if new = c.g.vcur then s else s.acquire c.g .device) (Res.of [.s d.toNat (new.setWidth 64)]))
/-- `VREQ` (R383). -/
def execVreq (h : Hdr) (own : Bool) (d a : SReg) (s : State) : Host.Outcome State Fault Refusal :=
  onceWord s h .long (Instr.vreq h own d a).uses (fun s c =>
    if own = false ∧ 16 ≤ (c.g.srcS a).toNat then .fault s (flt fcOperand)
    else
      let p := if own then c.g.vpart else (c.g.srcS a).toNat
      .done s (Res.of [.s d.toNat (s.minv p ++ s.vpv p)]))

/-- A write of a region's `XL_VRCFG` (R377): an enabled region accepts only a change of `EN`; setting it sets `RVER` to 0. One
with `SPAN` 0 is treated as not enabled. -/
def State.regionCfgWrite (s : State) (k : Nat) (v : W64) : State :=
  let a := vrCfgAddr k
  if s.vrEn k then s.setRegFld a 32 32 (fld v 32 32)
  else
    let s := s.regPut a v
    if fld v 32 32 = 1 then s.setReg (vrVerAddr k) 0 else s
/-- A write of a region's `XL_VRBASE` (R377). -/
def State.regionBaseWrite (s : State) (k : Nat) (v : W64) : State :=
  if s.vrEn k then s else s.regPut (vrBaseAddr k) v
/-- `VERSION_REGION_CONFIG`: `unit` is the region, `idx` 0 for `XL_VRBASE` and 1 for `XL_VRCFG`, `val` the value. -/
def execVersionRegionConfig (s : State) : Host.Outcome State Fault Refusal :=
  .next (if 256 ≤ s.ev.unit then s
    else if s.ev.idx = 0 then s.regionBaseWrite s.ev.unit s.ev.val
    else if s.ev.idx = 1 then s.regionCfgWrite s.ev.unit s.ev.val
    else s)

end Sys2Proof.Machine
end

