-- ==== Sys2Proof/Machine/Reeve.lean ====
section
/-! DEFINITION. The reeve: queues and packets (R386 to R390), links (R393), priority and ageing (R394), launches (R396), and
the ending and suspending of contexts (R406). -/

namespace Sys2Proof.Machine

-- ## Queues (R386 to R389)

/-- A packet as its ring holds it. -/
structure Pkt where
  q : Nat
  slot : Nat
  num : W32
  w : List W64
  deriving DecidableEq, Repr
def Pkt.hdr (p : Pkt) : W64 := p.w.headD 0
def Pkt.ty (p : Pkt) : Nat := fld p.hdr 7 0
def Pkt.tag (p : Pkt) : W32 := BitVec.ofNat 32 (fld p.hdr 63 32)
def Pkt.fence (p : Pkt) : Bool := fld p.hdr 8 8 == 1
def Pkt.evt (p : Pkt) : Bool := fld p.hdr 9 9 == 1
/-- A quadword of the payload. -/
def Pkt.arg (p : Pkt) (i : Nat) : W64 := p.w[i]?.getD 0

def State.qWptr (s : State) (q : Nat) : Nat := fld (s.qword q 8) 31 0
def State.qRptr (s : State) (q : Nat) : Nat := fld (s.qword q 0x10) 31 0
def State.qSize (s : State) (q : Nat) : Nat := fld (s.qword q 0) 4 0
def State.qPriv (s : State) (q : Nat) : Bool := fld (s.qCfg q) 2 2 == 1
def State.qEdf (s : State) (q : Nat) : Bool := fld (s.qCfg q) 19 19 == 1
def State.qHalted (s : State) (q : Nat) : Bool := fld (s.qCfg q) 1 1 == 1
/-- An enabled queue that is not halted; one that has a packet. -/
def State.qLive (s : State) (q : Nat) : Bool := s.qEn q && !s.qHalted q
def State.qPending (s : State) (q : Nat) : Bool := s.qLive q && s.qWptr q != s.qRptr q
def State.qSizeOk (s : State) (q : Nat) : Bool := decide (4 ≤ s.qSize q) && decide (s.qSize q ≤ 16)
/-- The packet at `RPTR`. -/
def State.nextPkt (s : State) (q : Nat) : Pkt :=
  let a := fld (s.qword q 0) 47 12 * 4096 + 64 * (s.qRptr q % 2 ^ s.qSize q)
  ⟨q, s.qSlot q, BitVec.ofNat 32 (s.qRptr q),
   (List.range 8).map (fun i => BitVec.ofNat 64 (natOf (s.physRead (a + 8 * i) 8)))⟩

-- ## What a packet may hold (R388, R390)

/-- Payload quadwords that must be zero, and the bits of the others that may be set. -/
def Pkt.within (p : Pkt) (masks : List W64) : Bool :=
  (List.range 7).all (fun i => p.arg (i + 1) &&& ~~~ (masks[i]?.getD 0) == 0)
def full64 : W64 := BitVec.allOnes 64
/-- A link that a packet may name (R393). -/
def State.linkOk (s : State) (l q hi lo : Nat) : Bool :=
  fld (s.reg (linkAddr l)) 63 63 == 1 && fld (s.reg (linkAddr l)) hi lo == q
/-- The shape of a copy packet. -/
def Pkt.cshape (p : Pkt) : W128 := p.arg 4 ++ p.arg 3
/-- The limits that a type's payload sets (R390). -/
def State.payloadOk (s : State) (p : Pkt) (priv : Bool) : Bool :=
  let a := p.arg
  match p.ty with
  | 0 => p.within []
  | 1 => p.within [full64, full64, bitsM 35 0, full64, bitsM 31 0, full64, full64] && (a 1).toNat % 128 == 0 && (a 2).toNat % 8 == 0
      && (a 4).toNat % 65536 == 0
  | 2 => p.within [bitsM 16 0, full64] && (a 2).toNat % 64 == 0 && decide (fld (a 1) 15 8 ≤ 64) && s.trEn (fld (a 1) 7 0)
      && s.trSlot (fld (a 1) 7 0) == p.slot
  | 3 => p.within [full64, full64, bitsM 3 0] && (a 1).toNat % 8 == 0 && decide (fld (a 3) 2 0 < 4)
  | 4 => p.within [full64, full64, bitsM 1 0] && decide (fld (a 3) 1 0 < 3)
  | 5 => p.within [bitsM 7 0, bitsM 31 0] && s.linkOk (a 1).toNat p.q 11 0
  | 6 => p.within [bitsM 7 0, bitsM 31 0] && s.linkOk (a 1).toNat p.q 27 16 && decide (1 ≤ (a 2).toNat)
  | 7 => p.within [full64] && (a 1).toNat % 64 == 0
  | 8 => p.within [full64, full64, full64, full64, bitsM 4 0] && !cshapeBad p.cshape && !(cshape p.cshape).swz
      && decide ((cshape p.cshape).bytes < 2 ^ 32)
      && (let h := cshape p.cshape
          decide ((a 1).toNat + h.span h.dstr < (a 2).toNat) || decide ((a 2).toNat + h.span h.sstr < (a 1).toNat))
  | 9 => p.within [full64, full64, bitsM 3 0] && (a 1).toNat % 8 == 0 && s.present (.fx (a 3).toNat)
  | 10 => p.within [bitsM 8 0, bitsM 31 0]
  | 11 => p.within [full64] && (a 1).toNat % 64 == 0 && priv
  | 12 => p.within [bitsM 13 8 ||| bitsM 1 0] && decide (fld (a 1) 1 0 < 3) && (priv || fld (a 1) 13 8 == p.slot)
  | _ => false
/-- A packet that is not bad (R388). -/
def State.pktOk (s : State) (p : Pkt) (priv : Bool) : Bool := fld p.hdr 31 10 == 0 && s.payloadOk p priv

-- ## What a packet waits for (R389, R390)

/-- An engine access would wait for its page (R115). -/
def wouldWait {α : Type} : Except EStop α → Bool
  | .error .wait => true
  | _ => false
/-- The comparison of a `WAITMEM`; a fault ends the wait. -/
def State.memHolds (s : State) (p : Pkt) : Bool :=
  let w32 := fld (p.arg 3) 3 3 == 1
  match (s.engRead 3 0 p.slot (p.arg 1).toNat (if w32 then 4 else 8)).2 with
  | .ok bs =>
    let v : W64 := BitVec.ofNat 64 (natOf bs)
    let c := p.arg 2
    match fld (p.arg 3) 2 0 with
    | 0 => v == c
    | 1 => v != c
    | 2 => decide (c.toNat ≤ v.toNat)
    | _ => decide (c.toInt ≤ v.toInt)
  | .error .wait => false
  | .error (.fault ..) => true
/-- The condition under which a packet's type lets it be taken or its node start. -/
def State.tyReady (s : State) (p : Pkt) : Bool :=
  let a := p.arg
  match p.ty with
  | 1 => !wouldWait (s.engRead 3 0 p.slot (a 1).toNat 128).2 && !wouldWait (s.engRead 3 0 p.slot (a 2).toNat
      (match (s.engRead 3 0 p.slot (a 1).toNat 128).2 with
        | .ok bs => qfld bs 8 47 32
        | _ => 0)).2
  | 2 => decide ((s.trough (fld (a 1) 7 0)).recs.length + fld (a 1) 15 8 ≤ s.trCap (fld (a 1) 7 0))
      && !wouldWait (s.engRead 3 0 p.slot (a 2).toNat (64 * fld (a 1) 15 8)).2
  | 3 => s.memHolds p
  | 4 => !wouldWait (s.engTargets 0 p.slot (a 1).toNat (bytesOf (if fld (a 3) 1 0 = 1 then 4 else 8) 0)).2
  | 6 => decide ((a 2).toNat ≤ fld (s.reg (linkCntAddr (a 1).toNat)) 31 0)
  | 7 => decide (s.graphs.length < 64) && (match (s.engRead 3 0 p.slot (a 1).toNat 64).2 with
      | .ok bs => !wouldWait (s.engRead 3 0 p.slot ((a 1).toNat + 64) (64 * qfld bs 0 12 0)).2
      | x => !wouldWait x)
  | 8 => match s.copyEngine (a 5).toNat with
    | some e => decide ((s.engine e).queue.length < 64)
    | none => true
  | 9 => !s.fxFull (a 3).toNat
  | 10 =>
    let v := BitVec.ofNat 32 (a 2).toNat
    (s.pubBad p.slot (fld (a 1) 7 0) v).isSome || s.pubReady (fld (a 1) 7 0) v
  | 11 => s.ckpt.isNone && !wouldWait (s.engRead 3 0 p.slot (a 1).toNat 64).2
      && (s.ckptWait.isEmpty || s.ckptWait.head? == some p.q)
  | _ => true
/-- A packet may be taken (R389). -/
def State.takeable (s : State) (p : Pkt) : Bool :=
  ((!p.fence && p.ty != 5 && p.ty != 11) || (s.queue p.q).open_.isEmpty) && s.tyReady p
/-- A queue is runnable (R387); one with a bad packet is, to be halted. -/
def State.qRunnable (s : State) (q : Nat) : Bool :=
  s.qPending q && s.qSizeOk q && (let p := s.nextPkt q
                                  !s.pktOk p (s.qPriv q) || s.takeable p)

-- ## Priority (R387, R394)

/-- The effective level of a queue. -/
def State.qLevel (s : State) (q : Nat) : Nat :=
  if s.qEdf q then fld (s.reg rvSchedAddr) 2 0 else min 7 (fld (s.qCfg q) 18 16 + (s.queue q).risen)
/-- A queue holds a grid with unplaced teams. -/
def State.qUnplaced (s : State) (q : Nat) : Bool := s.grids.any (fun e => e.2.queue == q && s.hasUnplaced e.1 e.2)
def State.queues_ (s : State) : List Nat := List.range (fld (s.reg rvQtabAddr) 12 0)
/-- The reeve notes since when each queue is runnable and since when it ages, and the order of checkpoints. -/
def State.observeQueues (s : State) : State :=
  let s := s.queues_.foldl (fun s q =>
    let x := s.queue q
    let r := s.qRunnable q
    s.setQueue q { x with
      runnable := if r then some (x.runnable.getD s.now) else none
      since := if r || s.qUnplaced q then some (x.since.getD s.now) else none }) s
  let ck := s.queues_.filter (fun q => s.qPending q && s.qSizeOk q && (s.nextPkt q).ty == 11 && (s.queue q).open_.isEmpty)
  { s with ckptWait := s.ckptWait.filter ck.contains ++ ck.filter (fun q => !s.ckptWait.contains q) }
/-- The rank of a queue among those of its level (R394): the deadline class first, by the deadline of its next `LAUNCH`, none
or 0 last; then the one runnable longest. The lower list wins. -/
def State.qRank (s : State) (q : Nat) : List Nat :=
  let p := s.nextPkt q
  let dl := if p.ty = 1 ∧ p.arg 6 ≠ 0 then (p.arg 6).toNat else 2 ^ 64
  [7 - s.qLevel q, if s.qEdf q then 0 else 1, if s.qEdf q then dl else 0, ((s.queue q).runnable).getD s.now, q]
/-- A queue is among those that the 32 threads serve (R387). -/
def State.mapped (s : State) (q : Nat) : Bool :=
  decide (((s.queues_.filter (fun i => s.qRunnable i && lexLt (s.qRank i) (s.qRank q)))).length < 32)
/-- The ageing interval of a level, in cycles; 0: none (R392). -/
def State.ageOf (s : State) (level : Nat) : Nat :=
  850 * fld (s.reg (rvAgeAddr (level / 4))) (16 * (level % 4) + 15) (16 * (level % 4))
/-- A queue's ageing interval expires (R394): `unit` is the queue. -/
def execPriorityAgeing (s : State) : Host.Outcome State Fault Refusal :=
  let q := s.ev.unit
  let s := s.observeQueues
  let x := s.queue q
  let l := s.qLevel q
  match x.since with
  | none => .next s
  | some t =>
    if s.qEdf q = true ∨ 7 ≤ l ∨ s.ageOf l = 0 ∨ s.now < t + s.ageOf l then .next s
    else .next (s.setQueue q { x with risen := x.risen + 1, since := some s.now })

-- ## Taking a packet (R388, R389)

/-- A bad packet stops its queue (R388). -/
def State.badPacket (s : State) (q : Nat) (tag num : W32) : State :=
  (s.qHalt q).event (s.qSlot q) 0x03 0 q tag (num.setWidth 64) 0
/-- The packet is read and taken. -/
def State.take (s : State) (p : Pkt) : State :=
  let a := fld (s.qword p.q 0) 47 12 * 4096 + 64 * (p.num.toNat % 2 ^ s.qSize p.q)
  let s := s.trafficks 0 3 .read ⟨0, 0, false⟩ ((List.range 64).map (fun i => canon (a + i) false))
  let s := (s.qput p.q 0x10 ((p.num + 1).setWidth 64)).settleQueue p.q
  let x := s.queue p.q
  s.setQueue p.q { x with open_ := x.open_ ++ [p.num], evts := if p.evt then x.evts ++ [(p.num, p.tag)] else x.evts }
/-- A packet that completes as it is taken. -/
def State.donePkt (s : State) (p : Pkt) : State := s.packetDone p.slot p.q p.num
/-- A fault of a packet (R390): event `0x04`, and it completes. -/
def State.faultPkt (s : State) (p : Pkt) (code va : Nat) : State :=
  (s.event p.slot 0x04 code p.q p.tag (p.num.setWidth 64) (BitVec.ofNat 64 va)).donePkt p
/-- A thread serves a queue whose next packet is of a type: `unit` is the queue; `f` has the level the queue had. -/
def reeve (s : State) (ty : Nat) (sel : Pkt → Bool) (f : State → Pkt → Nat → State) : Host.Outcome State Fault Refusal :=
  let q := s.ev.unit
  let s := s.observeQueues
  if s.qLive q = true ∧ s.qSizeOk q = false then .next (s.badPacket q 0 (BitVec.ofNat 32 (s.qRptr q)))
  else if s.qPending q = false ∨ s.mapped q = false then .next s
  else
    let p := s.nextPkt q
    if s.pktOk p (s.qPriv q) = false then .next (s.badPacket q p.tag p.num)
    else if p.ty ≠ ty ∨ sel p = false ∨ s.takeable p = false then .next s
    else .next (f (s.take p) p (s.qLevel q))
def anyPkt (_ : Pkt) : Bool := true

/-- `NOP_PACKET`. -/
def execNopPacket (s : State) : Host.Outcome State Fault Refusal := reeve s 0 anyPkt (fun s p _ => s.donePkt p)

-- ## Launches (R395, R396)

/-- Bytes that the reeve reads for a context, none where they fault (R390, R396). -/
def State.reeveRead (s : State) (slot va n : Nat) : Option (State × List Byte) :=
  match s.engRead 3 0 slot va n with
  | (s, .ok bs) => some (s, bs)
  | (_, .error _) => none
/-- A launch is checked, and its grid created or refused; none once it is refused. Every team of the grid is placed by the
record as it is read here, whatever becomes of its bytes while the launch is in flight (R65, log 47). -/
def State.launch (s : State) (p : Pkt) (level : Nat) (org : Origin) : Option State :=
  let a := p.arg
  match (s.reeveRead p.slot (a 1).toNat 128).bind (fun x => (parseRecord x.2).map (fun r => (x.1, r))) with
  | none => none
  | some (s, r) =>
    match s.reeveRead p.slot (a 2).toNat r.paramlen with
    | none => none
    | some (s, ps) =>
      let n := fld (a 3) 31 0
      if r.fitsEmpty = false ∨ n = 0 ∨ (r.cset ≠ 0 ∧ n % r.cset ≠ 0) ∨ (a 5).toNat % 16 ≠ 0 then none
      else
        let num := s.gridNum.get 0 p.slot
        let edf := s.qEdf p.q
        some { s with
          nextId := s.nextId + 1
          gridNum := s.gridNum.set 0 p.slot (num + 1)
          grids := s.grids.insert s.nextId ⟨p.slot, num, org, p.q, level, if edf then some (a 6) else none, a 6, false, n, r, ps,
            fld (a 3) 35 32, a 4, a 5, a 7, 0, 0, s.now, false⟩ }
/-- A refused launch: event `0x02` (R396). -/
def State.refused (s : State) (slot : Nat) (org : Origin) : State :=
  let n := s.orgName org
  (s.event slot 0x02 0 n.1 n.2.1 n.2.2 0).originDone slot org
/-- `LAUNCH_PACKET`. -/
def execLaunchPacket (s : State) : Host.Outcome State Fault Refusal :=
  reeve s 1 anyPkt (fun s p l =>
    let org : Origin := .packet p.q p.num p.tag
    (s.launch p l org).getD (s.refused p.slot org))

-- ## Feeds, memory words, links (R393, R403, R405)

/-- The records of a feed: read, and appended in order; or the trough is closed. -/
def State.feed (s : State) (p : Pkt) : Except (Nat × Nat) State :=
  let t := fld (p.arg 1) 7 0
  let n := fld (p.arg 1) 15 8
  match s.engRead 3 0 p.slot (p.arg 2).toNat (64 * n) with
  | (_, .error (.fault c _ va)) => .error (c, va)
  | (_, .error .wait) => .error (0, 0)
  | (s, .ok bs) =>
    let s := (List.range n).foldl (fun s i =>
      s.trAppend t ((List.range 8).map (fun j => BitVec.ofNat 64 (natOf ((bs.drop (64 * i + 8 * j)).take 8))))) s
    .ok (if n = 0 ∧ fld (p.arg 1) 16 16 = 1 then s.trClose t else s)
/-- `FEED_PACKET`. -/
def execFeedPacket (s : State) : Host.Outcome State Fault Refusal :=
  reeve s 2 anyPkt (fun s p _ => match s.feed p with
    | .ok s => s.donePkt p
    | .error (c, va) => s.faultPkt p c va)
/-- `WAITMEM_PACKET`. -/
def execWaitmemPacket (s : State) : Host.Outcome State Fault Refusal :=
  reeve s 3 anyPkt (fun s p _ =>
    match s.engRead 3 0 p.slot (p.arg 1).toNat (if fld (p.arg 3) 3 3 = 1 then 4 else 8) with
    | (s, .error (.fault c _ va)) => s.faultPkt p c va
    | (s, _) => s.donePkt p)
/-- A word written for a packet or a graph node (R390): store 64, store 32, add 64. -/
def State.writeWord (s : State) (slot : Nat) (va v : W64) (op : Nat) : Except (Nat × Nat) State :=
  let n := if op = 1 then 4 else 8
  let out {α : Type} (r : State × Except EStop α) : Except (Nat × Nat) State := match r with
    | (s, .ok _) => .ok s
    | (_, .error (.fault c _ a)) => .error (c, a)
    | (s, .error .wait) => .ok s
  if va.toNat % n ≠ 0 then .error (0x05, va.toNat)
  else if op = 2 then out (s.engAdd 0 slot va.toNat v)
  else out (s.engWrite 3 0 slot va.toNat (bytesOf n v.toNat))
def writemem (s : State) (op : Nat) : Host.Outcome State Fault Refusal :=
  reeve s 4 (fun p => fld (p.arg 3) 1 0 == op) (fun s p _ =>
    match s.writeWord p.slot (p.arg 1) (p.arg 2) op with
    | .ok s => s.donePkt p
    | .error (c, va) => s.faultPkt p c va)
/-- `WRITEMEM_STORE64`, `WRITEMEM_STORE32`, `WRITEMEM_ADD64`. -/
def execWritememStore64 (s : State) : Host.Outcome State Fault Refusal := writemem s 0
def execWritememStore32 (s : State) : Host.Outcome State Fault Refusal := writemem s 1
def execWritememAdd64 (s : State) : Host.Outcome State Fault Refusal := writemem s 2
/-- `LINKSIG_PACKET`: tokens, saturating (R393). -/
def execLinksigPacket (s : State) : Host.Outcome State Fault Refusal :=
  reeve s 5 anyPkt (fun s p _ =>
    let a := linkCntAddr (p.arg 1).toNat
    (s.setReg a (BitVec.ofNat 64 (min (2 ^ 32 - 1) (fld (s.reg a) 31 0 + (p.arg 2).toNat)))).donePkt p)
/-- `LINKWAIT_PACKET`. -/
def execLinkwaitPacket (s : State) : Host.Outcome State Fault Refusal :=
  reeve s 6 anyPkt (fun s p _ =>
    let a := linkCntAddr (p.arg 1).toNat
    (s.setReg a (BitVec.ofNat 64 (fld (s.reg a) 31 0 - (p.arg 2).toNat))).donePkt p)

-- ## Copies, programs, versions (R104, R390)

/-- The launch-site name of a packet's command: the queue and the packet (R390). -/
def Pkt.site (p : Pkt) : W64 := BitVec.ofNat 64 p.q
/-- A copy packet's command enters its engine; a side past 2^52 faults. -/
def State.copyPkt (s : State) (p : Pkt) (org : Origin) : Except (Nat × Nat) State :=
  let h := cshape p.cshape
  let c := copyCmd (.cpy .g2g (p.arg 1) (p.arg 2) p.cshape) true 0 p.slot none 0 org p.site p.num
  if 2 ^ 52 ≤ (p.arg 2).toNat + h.span h.sstr then .error (0x06, (p.arg 2).toNat)
  else if 2 ^ 52 ≤ (p.arg 1).toNat + h.span h.dstr then .error (0x06, (p.arg 1).toNat)
  else match s.copyEngine (p.arg 5).toNat with
    | some e => .ok (s.pushCopy e c)
    | none => .ok (s.copyAbort s.nextId { c with engine := 32 } 5)
/-- `COPY_PACKET`. -/
def execCopyPacket (s : State) : Host.Outcome State Fault Refusal :=
  reeve s 8 anyPkt (fun s p _ => match s.copyPkt p (.packet p.q p.num p.tag) with
    | .ok s => s
    | .error (c, va) => s.faultPkt p c va)
/-- A program's start joins its processor's queue. -/
def State.collPkt (s : State) (p : Pkt) (org : Origin) : State :=
  s.pushFx (p.arg 3).toNat ⟨p.slot, s.ctxGen.get 0 p.slot, p.arg 1, p.arg 2, none, org, none, p.site, p.num, true, 0⟩
/-- `COLL_PACKET`. -/
def execCollPacket (s : State) : Host.Outcome State Fault Refusal :=
  reeve s 9 anyPkt (fun s p _ => s.collPkt p (.packet p.q p.num p.tag))
/-- `VPUB_PACKET` (R381). -/
def execVpubPacket (s : State) : Host.Outcome State Fault Refusal :=
  reeve s 10 anyPkt (fun s p _ =>
    let k := fld (p.arg 1) 7 0
    let v := BitVec.ofNat 32 (p.arg 2).toNat
    match s.pubBad p.slot k v with
    | some _ => s.faultPkt p 0x14 0
    | none => (s.publish k v (fld (p.arg 1) 8 8 == 1)).donePkt p)

-- ## Ending and suspending contexts (R406)

def ctxctl (s : State) (op : Nat) (f : State → Pkt → Nat → State) : Host.Outcome State Fault Refusal :=
  reeve s 12 (fun p => fld (p.arg 1) 1 0 == op) (fun s p _ => f s p (fld (p.arg 1) 13 8))
/-- `CTXCTL_END`: completes when nothing of the slot remains, with event `0x09`. -/
def execCtxctlEnd (s : State) : Host.Outcome State Fault Refusal :=
  ctxctl s 0 (fun s p slot =>
    let s := s.endContext slot (some p.q)
    ({ s with endings := s.endings ++ [(slot, p.q, p.num, p.tag)] } : State).checkEndings)
/-- The save area of a slot, in units of 64 KiB (R412, R418). -/
def State.saveUnits (s : State) (slot : Nat) : Nat := fld (s.reg (saveLenAddr slot)) 31 0
/-- `CTXCTL_SUSPEND`: every team of the slot is to be saved; a slot without a save area is not suspended (R418). -/
def execCtxctlSuspend (s : State) : Host.Outcome State Fault Refusal :=
  ctxctl s 1 (fun s p slot =>
    if s.saveUnits slot = 0 then s.faultPkt p 0 0
    else
      let ts := ((s.teams.keep (fun tid t => t.ctx == slot && !(s.teamGroups tid).isEmpty)).map Prod.fst)
      ({ s with
        susp := if s.susp.contains slot then s.susp else s.susp ++ [slot]
        preempts := s.preempts ++ ts.filter (fun t => !s.preempts.contains t)
        suspends := s.suspends ++ [(slot, p.q, p.num, p.tag)] } : State).checkSuspends)
/-- `CTXCTL_RESUME`. -/
def execCtxctlResume (s : State) : Host.Outcome State Fault Refusal :=
  ctxctl s 2 (fun s p slot => ({ s with susp := s.susp.filter (· != slot) } : State).donePkt p)

/-- A write of `RV_EVBASE` or `RV_EVPTR`: waiting events are written again (R391). -/
def State.eventWrite (s : State) (slot : Nat) (ptr : Bool) (v : W64) : State :=
  (s.regPut (if ptr then evPtrAddr slot else evBaseAddr slot) v).flushEvents slot 257
/-- `EVENT_QUEUE_REGISTER_WRITE`: `unit` is the slot, `idx` 0 for `RV_EVBASE` and 1 for `RV_EVPTR`, `val` the value. -/
def execEventQueueRegisterWrite (s : State) : Host.Outcome State Fault Refusal :=
  .next (if s.ev.unit < 64 ∧ s.ev.idx < 2 then s.eventWrite s.ev.unit (s.ev.idx == 1) s.ev.val else s)

end Sys2Proof.Machine
end

