-- ==== Sys2Proof/Machine/Startup.lean ====
section
/-! DEFINITION. Start-up (R439, R440), trust (R441, R442), the capability list (R443), reliability (R78, R79, R444, R445) and
power (R449). -/

namespace Sys2Proof.Machine

-- ## Units that fail (R71, R444, R445)

/-- The canonical address of a row's first byte (R69): the inverse of `rowName`. -/
def rowAddr (p b r : Nat) : Nat :=
  let x := b ^^^ (r % 16)
  let lg := 512 * r + 64 * (x / 2) + ((p % 64) ^^^ (x / 2 + 8 * (r % 8)) ^^^ (r / 8 % 64))
  4096 * (16 * lg + ((p / 64) ^^^ fold4 lg)) + 2048 * (x % 2)
/-- A unit's physical address or index, as an event names it (R445). -/
def RasUnit.name : RasUnit → Nat
  | .row p b r => rowAddr p b r
  | .coreBank c _ => c
  | .clusterBank k _ => k
  | .sliceBank l _ => l
  | .link i => i
/-- An index or row that exists. -/
def RasUnit.exists_ : RasUnit → Bool
  | .row p b r => decide (p < 1024) && decide (b < 16) && decide (r < 24576)
  | .coreBank c b => decide (c < 640) && decide (b < 64)
  | .clusterBank k _ => decide (k < 40)
  | .sliceBank l _ => decide (l < 128)
  | .link i => decide (i < 64)
def State.dropUnit (s : State) (u : RemovedUnit) : State :=
  if s.removedUnits.contains u then s else { s with removedUnits := s.removedUnits ++ [u] }
/-- The rows of a pseudo-channel that are retired. -/
def State.retiredOf (s : State) (p : Nat) : Nat := (s.retiredRows.filter (fun k => k / 32768 / 16 == p)).length
/-- What the next start removes for a unit with a lasting fault (R445). -/
def State.removeUnit (s : State) : RasUnit → State
  | .row p b r =>
    let s := if s.retiredRows.contains (rowKey p b r) then s else { s with retiredRows := s.retiredRows ++ [rowKey p b r] }
    if 64 < s.retiredOf p ∧ s.removedPch.contains p = false then { s with removedPch := s.removedPch ++ [p] } else s
  | .coreBank c _ => s.dropUnit (.cluster (c / 16))
  | .clusterBank k _ => s.dropUnit (.cluster k)
  | .sliceBank l b => s.dropUnit (.ways l b)
  | .link i => s.dropUnit (.port i)

def State.enabledSlots (s : State) : List Nat := (List.range 64).filter (fun n => s.ctxEn n)
/-- A lasting fault of a unit is recorded, once, and told to every enabled context (R445). -/
def State.lastingFault (s : State) (u : RasUnit) : State :=
  if s.ras.lasting.contains u then s
  else
    let s := { s with ras := { s.ras with lasting := s.ras.lasting ++ [u] } }
    let s := s.setReg (bootAddr 0x110) (BitVec.ofNat 64 (min 65535 s.ras.lasting.length))
    s.enabledSlots.foldl (fun s n => s.event n 0x04 fcMemory.toNat 0 0 0 (BitVec.ofNat 64 (RasUnit.name u))) s
/-- Rows and SRAM banks gather corrected errors; a link does not (R444). -/
def RasUnit.gathers : RasUnit → Bool
  | .link _ => false
  | _ => true
/-- The reliability window in reference cycles (R444, R450). -/
def State.rasWindow (s : State) : Nat := fld (s.reg (bootAddr 0x100)) 15 8 * 51000000000
/-- One corrected error of a unit (R444): counted, and lasting where it is the `THRESH`-th within the window. -/
def State.corrected (s : State) (u : RasUnit) : State :=
  let s := s.setRegFld (bootAddr 0x108) 31 0 (fld (s.reg (bootAddr 0x108)) 31 0 + 1)
  if RasUnit.gathers u = false then s
  else
    let old := match s.ras.errs.find? (fun e => e.1 == u) with
      | some e => e.2.filter (fun t => decide (s.now ≤ t + s.rasWindow))
      | none => []
    let ts := old ++ [s.now]
    let s := { s with ras := { s.ras with errs := s.ras.errs.filter (fun e => e.1 != u) ++ [(u, ts)] } }
    if fld (s.reg (bootAddr 0x100)) 3 0 ≤ ts.length then s.lastingFault u else s
/-- `CORRECTED_ERROR` (R444): the payload names the unit. The data delivered is the corrected data (R78). -/
def execCorrectedError (s : State) : Host.Outcome State Fault Refusal :=
  match s.ev.data with
  | .ras u => .next (if RasUnit.exists_ u then s.corrected u else s)
  | _ => .next s
/-- `PATROL_SCRUB` (R78): `unit` is the die, `addr` the word, read at its stack's controller and rewritten as it stands; where it had
a correctable error, the payload names its row, the error is counted, and the word is written back. -/
def execPatrolScrub (s : State) : Host.Outcome State Fault Refusal :=
  let a := s.ev.addr.toNat
  if 8 ≤ s.ev.unit ∨ fld (s.reg (mcAddr s.ev.unit 0)) 1 1 = 0 then .next s
  else
    let here := decide (a < hbmEnd) && (rowName a).1 / 128 == s.ev.unit && !s.unbacked a
    let s := if here then s.scrubRequest a .read else s
    match s.ev.data with
    | .ras (.row p b r) =>
      if RasUnit.exists_ (.row p b r) = true ∧ p / 128 = s.ev.unit then
        .next ((if here && rowName a == (p, b, r) then s.scrubRequest a .write else s).corrected (.row p b r))
      else .next s
    | _ => .next s

/-- The word of a unit that is found uncorrectable is marked (R79). -/
def State.markWord (s : State) (u : RasUnit) (owner a : Nat) (scratch : Bool) : State :=
  let home (ok : Bool) : State := if ok ∧ a < hbmEnd then { s with poison := s.poison.set false (a / 32) true } else s
  match u with
  | .row p b r => home (rowName a == (p, b, r))
  | .sliceBank l _ => home (sliceOf a == l)
  | .coreBank c b =>
    if scratch then
      match s.team owner with
      | some t => if t.core = c ∧ a < 1024 * t.scratch ∧ a / 32 % 64 = b then
          s.setTeam owner { t with poison := t.poison.set false (a / 32) true } else s
      | none => s
    else s.setCore c { s.core c with lines := updWhere (s.core c).lines (fun l => l.line == a / 128) (fun l => { l with poison := l.poison ||| (1#4 <<< (a / 32 % 4)) }) }
  | .clusterBank k _ =>
    let mine (l : CLine) : Bool := l.line == a / 128 && l.slot == owner
    s.setClus k { s.clus k with lines := updWhere (s.clus k).lines mine (fun l => { l with poison := l.poison ||| (1#4 <<< (a / 32 % 4)) }) }
  | .link _ => s
/-- `UNCORRECTABLE_ERROR` (R79, R444): the payload names the unit, `addr` the word's canonical address or, with `on`, its offset
in the scratchpad of team `unit`; in a cluster unit, `unit` is the line's context slot. -/
def execUncorrectableError (s : State) : Host.Outcome State Fault Refusal :=
  match s.ev.data with
  | .ras u =>
    if RasUnit.exists_ u = false then .next s
    else
      let s := s.markWord u s.ev.unit s.ev.addr.toNat s.ev.on
      let s := s.setRegFld (bootAddr 0x108) 63 32 (fld (s.reg (bootAddr 0x108)) 63 32 + 1)
      .next (s.lastingFault u)
  | _ => .next s

-- ## The capability list (R1, R443)

/-- A record's header. -/
def capHdr (id ver len next : Nat) : W64 := BitVec.ofNat 64 (id + ver * 2 ^ 16 + len * 2 ^ 32 + next * 2 ^ 48)
/-- The quadwords of a mask of `n` bits. -/
def maskQuads (n : Nat) (p : Nat → Bool) : List W64 :=
  (List.range ((n + 63) / 64)).map (fun q =>
    BitVec.ofNat 64 (((List.range 64).map (fun i => if 64 * q + i < n ∧ p (64 * q + i) = true then 2 ^ i else 0)).foldl (· + ·) 0))
/-- The list's quadwords. -/
def State.capList (s : State) : List W64 :=
  let n := s.retiredRows.length
  [capHdr 0x7460 0x00B0 8 1]
    ++ [capHdr 1 1 96 13] ++ maskQuads 40 (fun c => s.present (.cluster c)) ++ maskQuads 640 (fun k => s.present (.cluster (k / 16)))
    ++ [capHdr 2 1 136 30] ++ maskQuads 1024 (fun i => !s.removedPch.contains i)
    ++ [capHdr 3 1 32 34] ++ maskQuads 64 (fun i => s.present (.port i)) ++ maskQuads 32 (fun i => s.present (.engine i))
    ++ maskQuads 16 (fun i => s.present (.fx i))
    ++ [capHdr 4 1 (16 + 8 * n) 0, BitVec.ofNat 64 n]
    ++ s.retiredRows.map (fun k => BitVec.ofNat 64 (k / 32768 / 16 + k / 32768 % 16 * 2 ^ 16 + k % 32768 * 2 ^ 32))
def quadBytes (ws : List W64) : List Byte := ws.flatMap (fun w => bytesOf 8 w.toNat)
/-- Where firmware places the list: its choice (log 15). -/
def State.capBase (s : State) : W64 := BitVec.ofNat 64 (0xFF0000800000 + 8 * (Config.capPlace s.boot.starts % 2 ^ 32))
/-- `OK` is set: the host port is open, and `BOOT_CAP` shows the list (R439, R450). -/
def State.opened (s : State) : Bool := s.boot.phase == .open_ && fld (s.reg (bootAddr 8)) 4 4 == 1
/-- The bytes that `BOOT_CAP` shows: none before `OK`. -/
def State.capBytes (s : State) : List Byte := if s.opened then quadBytes s.capList else []

-- ## Starts (R439, R440)

def State.fails (s : State) : Nat := fld (s.reg (bootAddr 8)) 1 0
/-- Leaves below a table, by their entries; an invalid entry, or one outside HBM, maps nothing, nor does one that cannot be read:
its key is not loaded, it is poisoned, or it has no storage (R71, R79, R80). -/
def State.mapped_ (s : State) (key : Nat) : Nat → Nat → List (Nat × Nat × Bool)
  | lv, tbl =>
    (List.range (if lv = 3 then 8192 else if lv = 0 then 32 else 512)).flatMap (fun i =>
      let ea := canon (tbl + 8 * i) false
      let e := natOf (s.homeBytes key ea 8)
      let addr := e / 2 ^ 24 * 256
      if !s.keyLoaded key ∨ s.unbacked ea ∨ s.homePoison ea then []
      else if e % 2 = 0 ∨ hbmEnd ≤ addr then []
      else if e / 16 % 2 = 1 then [(addr, leafSize lv, e / 128 % 2 == 1)]
      else match lv with
        | 0 => []
        | lv' + 1 => State.mapped_ s key lv' addr)
/-- The canonical granules of 4 KiB that an ended context's tables map. -/
def State.ctxGranules (s : State) (slot : Nat) : List Nat :=
  (s.mapped_ (s.ctxTkey slot) 3 (s.ctxRoot slot)).flatMap (fun l =>
    (List.range (l.2.1 / 4096)).map (fun j => canon (l.1 + 4096 * j) l.2.2 / 4096))
/-- HBM as a start leaves it (R80, R439): all zero under key ID 0, or zero in the granules of a list. -/
def State.zeroHbm (s : State) : State := { s with mem := [], burst := [], poison := [], stale := [] }
def State.zeroGranules (s : State) (gs : List Nat) : State :=
  { s with
    mem := s.mem.keep (fun a _ => !gs.contains (a / 4096))
    burst := s.burst.keep (fun b _ => !gs.contains (b / 64))
    poison := s.poison.keep (fun w _ => !gs.contains (w / 128)) }
/-- What the control die and firmware keep across a start: the registers of start-up, with `OK` and `BOOT_CAP` cleared. -/
def State.startRegs (s : State) (fails img : Nat) (m : List W64) (warm : Bool) : SMap W64 :=
  let r : State := State.reset
  let r := r.setReg (bootAddr 0) (s.reg (bootAddr 0) &&& 4)
  let r := r.setReg (bootAddr 8) (BitVec.ofNat 64 (fails + 8 * img))
  let r := r.setReg (bootAddr 0x18) (s.reg (bootAddr 0x18))
  let r := (m.zipIdx).foldl (fun (r : State) x => r.setReg (bootAddr (0x40 + 8 * x.2)) x.1) r
  let r := if warm then (List.range 8).foldl (fun (r : State) d =>
      (List.range 4).foldl (fun (r : State) k => r.setReg (mcAddr d (0x40 + 8 * k)) (s.reg (mcAddr d (0x40 + 8 * k)))) r) r
    else r
  r.mmio
/-- A start up to step 6: units that failed are removed, memory is zeroed, everything that runs on the device is gone, and with the
caches the bytes that were dirty in them. -/
def State.startSteps (s : State) (warm : Bool) (m : List W64) (bist : List RasUnit) (ok : Bool) : State :=
  let fails := s.fails
  let s := (s.ras.lasting ++ (if warm then [] else bist.filter RasUnit.exists_)).foldl (fun s u => s.removeUnit u) s
  let s := if warm = false ∨ fld (s.reg (bootAddr 0)) 2 2 = 1 then s.zeroHbm
    else (s.loseDirty (fun _ => true)).zeroGranules (s.ended.flatMap (fun n => s.ctxGranules n))
  { State.reset with
    tick := s.tick
    agenda := s.agenda
    ev := s.ev
    nextId := s.nextId
    now := s.now
    timeBase := s.timeBase
    mmio := s.startRegs fails (if fails = 3 then 1 else 0) m warm
    mem := s.mem
    burst := s.burst
    poison := s.poison
    keySlots := if warm then s.keySlots else []
    removedPch := s.removedPch
    retiredRows := s.retiredRows
    removedUnits := s.removedUnits
    power := s.power
    boot := ⟨.started, if ok then some (s.now + 3400000000) else none, s.boot.starts + 1, some m⟩ }
/-- A start fails (R440): the count rises, to 3 at most. -/
def State.startFails (s : State) : State :=
  let s := { s with boot := { s.boot with deadline := none } }
  s.setRegFld (bootAddr 8) 1 0 (min 3 (s.fails + 1))
/-- A start that has not had its `OK` within 4 s of step 6 has failed, whether or not that was noted when the time ran out (R440). -/
def State.overdue (s : State) : State :=
  match s.boot.phase, s.boot.deadline with
  | .started, some t => if t < s.now then s.startFails else s
  | _, _ => s
/-- A start (R439): `img` is the firmware image found in the slot that the start loads, `bad` says that a step faults or that
verification rejects the image. A warm start that measures another image becomes a cold start. -/
def State.start (s : State) (warm : Bool) (img : Nat) (bist : List RasUnit) (bad : Bool) : State :=
  let m := (List.range 8).map (Config.measure img)
  let s := s.overdue
  let s := s.startSteps (warm && s.boot.measured == some m) m bist (!bad)
  let s := if s.power.trip then s.setRegFld (bootAddr 0x208) 47 32 500 else s
  if bad then s.startFails else s
def Payload.units_ : Payload → List RasUnit
  | .units us => us
  | .ras u => [u]
  | _ => []
/-- A start with the inputs of the present step: `idx` is the image, `on` a failing step, the payload the units that fail
BIST. -/
def State.startEv (s : State) (warm : Bool) : State := s.start warm s.ev.idx (Payload.units_ s.ev.data) s.ev.on
/-- `POWER_ON` (R439). -/
def execPowerOn (s : State) : Host.Outcome State Fault Refusal := .next (if s.boot.phase = .off then s.startEv false else s)
/-- `BOOT_COLD`, `BOOT_WARM` (R439): 1 is written to the bit. -/
def execBootCold (s : State) : Host.Outcome State Fault Refusal := .next (if s.boot.phase = .off then s else s.startEv false)
def execBootWarm (s : State) : Host.Outcome State Fault Refusal := .next (if s.boot.phase = .off then s else s.startEv true)
/-- `OK` becomes 1: no failed start counts any longer, and `BOOT_CAP` shows the list (R440, R443). -/
def State.opens (s : State) : State :=
  let s := { s with boot := { s.boot with phase := .open_, deadline := none } }
  let s := (s.setRegFld (bootAddr 8) 1 0 0).setRegFld (bootAddr 8) 4 4 1
  s.setReg (bootAddr 0x10) s.capBase
/-- Firmware sets `OK` (R439, R440, R443): more than 4 s after step 6 the start has failed. -/
def State.bootOk (s : State) : State :=
  match s.boot.phase, s.boot.deadline with
  | .started, some t => if t < s.now then s.startFails else s.opens
  | .open_, _ => s.opens
  | _, _ => s
/-- `BOOT_OK`. -/
def execBootOk (s : State) : Host.Outcome State Fault Refusal := .next s.bootOk
/-- `START_TIMEOUT` (R440). -/
def execStartTimeout (s : State) : Host.Outcome State Fault Refusal :=
  match s.boot.phase, s.boot.deadline with
  | .started, some t => .next (if t ≤ s.now then s.startFails else s)
  | _, _ => .next s

-- ## Attestation (R441, R442)

/-- "BGM7460-ID". -/
def idLabel : List Byte := [0x42, 0x47, 0x4D, 0x37, 0x34, 0x36, 0x30, 0x2D, 0x49, 0x44]
/-- The identity key: 57 bytes of SHAKE256 of the label, the fused secret and m. -/
def identityKey (m : List Byte) : List Byte :=
  Crypto.shake256 (idLabel ++ (List.range 64).map Config.fused ++ m) 57
/-- The report: what is signed is the 64-byte digest of its first 192 bytes (log 15). -/
def State.report (s : State) (nonce m : List Byte) : List Byte :=
  let body := nonce ++ m ++ Crypto.shake256 s.capBytes 64
  let key := identityKey m
  body ++ Crypto.edPublic key ++ Crypto.edSign key (Crypto.shake256 body 64)
/-- A write of `BOOT_ATT`: the nonce stands at the address, the report follows 64 bytes above it. -/
def State.attest (s : State) (v : W64) : State :=
  let s := s.regPut (bootAddr 0x20) v
  let a := v.toNat
  match s.boot.measured with
  | none => s
  | some m =>
    if hbmEnd < a + 427 then s
    else s.physWrite (a + 64) (s.report (s.physRead a 64) (quadBytes m))
/-- `ATTESTATION_REQUEST`: `val` is written to `BOOT_ATT`. -/
def execAttestationRequest (s : State) : Host.Outcome State Fault Refusal := .next (s.attest s.ev.val)

-- ## Power (R449)

def State.mhz (s : State) : Nat := fld (s.reg (bootAddr 0x208)) 47 32
def State.setMhz (s : State) (n : Nat) : State := s.setRegFld (bootAddr 0x208) 47 32 n
/-- `POWER_SAMPLE`: `val` is the average power in watts of the last 1 ms (850,000 reference cycles). -/
def execPowerSample (s : State) : Host.Outcome State Fault Refusal :=
  if s.now < s.power.last + 850000 then .next s
  else
    let w := min 65535 s.ev.val.toNat
    let lim := fld (s.reg (bootAddr 0x200)) 15 0
    let s := { s with power := { s.power with last := s.now } }.setRegFld (bootAddr 0x208) 15 0 w
    .next (if s.power.trip then s.setMhz 500
      else if lim < w then s.setMhz (max 500 (s.mhz - 50))
      else if 100 * w < 95 * lim then s.setMhz (min 850 (s.mhz + 50))
      else s)
/-- `THERMAL_TRIP`. -/
def execThermalTrip (s : State) : Host.Outcome State Fault Refusal :=
  .next ({ s with power := { s.power with trip := true } }.setMhz 500)
/-- `THERMAL_TRIP_CLEAR`: the clock rises again as the samples let it. -/
def execThermalTripClear (s : State) : Host.Outcome State Fault Refusal :=
  .next { s with power := { s.power with trip := false } }

end Sys2Proof.Machine
end

