-- ==== Sys2Proof/Machine/Checkpoint.lean ====
section
/-! DEFINITION. The silo checkpoint (R446, R447). -/

namespace Sys2Proof.Machine

/-- Pages of 64 KiB in HBM. -/
def hbmPages : Nat := 12582912
/-- A descriptor's quadwords that R446 makes a bad packet. -/
def ckptBad (bs : List Byte) : Bool :=
  let q (i : Nat) : Nat := natOf ((bs.drop (8 * i)).take 8)
  decide (65536 ≤ q 0) || q 1 % 65536 != 0 || decide (2 ^ 52 ≤ q 1) || q 2 % 8 != 0 || (List.range 5).any (fun i => q (3 + i) != 0)
/-- The next packet of a queue is a `CKPT` that may be taken, with a bad descriptor. -/
def State.ckptPktBad (s : State) (q : Nat) : Bool :=
  let p := s.nextPkt q
  s.qPending q && s.qSizeOk q && s.pktOk p (s.qPriv q) && p.ty == 11 && s.observeQueues.mapped q && s.observeQueues.takeable p
    && (match (s.engRead 3 0 p.slot (p.arg 1).toNat 64).2 with
        | .ok bs => ckptBad bs
        | .error _ => false)
/-- A checkpoint begins with its pause, or ends before it, where the silo's device ID has an invalid entry, the device's own ID too
(R446). -/
def State.ckptBegin (s : State) (p : Pkt) : State :=
  match s.engRead 3 0 p.slot (p.arg 1).toNat 64 with
  | (s, .error (.fault c _ va)) => s.faultPkt p c va
  | (s, .error .wait) => s
  | (s, .ok bs) =>
    let q (i : Nat) : W64 := BitVec.ofNat 64 (natOf ((bs.drop (8 * i)).take 8))
    let dev := fld (q 0) 15 0
    if (s.peerStop p.slot dev).isSome || s.peerBad dev then
      (s.event p.slot 0x05 fcFabric.toNat p.q p.tag (p.num.setWidth 64) (q 1)).donePkt p
    else
      { s with
        ckptWait := s.ckptWait.filter (· != p.q)
        ckpt := some ⟨p.q, p.num, p.tag, p.slot, dev, q 1, q 2, false, 0, [], 0⟩ }
/-- `CKPT_PACKET`: `unit` is the queue. -/
def execCkptPacket (s : State) : Host.Outcome State Fault Refusal :=
  let q := s.ev.unit
  if s.ckptPktBad q then
    let p := s.nextPkt q
    .next (s.badPacket q p.tag p.num)
  else reeve s 11 anyPkt (fun s p _ => s.ckptBegin p)

/-- What the pause waits for has come about (R304, R447): groups at run boundaries, started commands ended, those of the matrix
engines that can take effect among them, store FIFOs drained, transfers of fabric processors ended and residuals counted. -/
def State.pauseDone (s : State) : Bool :=
  s.parts.all (fun e => e.2.run.isNone) && s.groups.all (fun e => Group.drained e.2)
    && !s.ecmds.any (fun e => e.2.started) && !s.remotes.any (fun e => e.2.sent)
    && !s.mcmds.any (fun e => s.mayComplete e.1 e.2)
    && s.fxs.all (fun e => !e.2.owes && e.2.busy.isNone && (s.layOwes e.2).isNone)
/-- Every core releases at `DEVICE`, for every context. -/
def State.releaseAll (s : State) : State :=
  (s.cores.map Prod.fst).foldl (fun s c =>
    s.cleanLines c (fun l => s.ctxCompat l.slot || decide (Scope.rank l.sc < Scope.rank .device))) s
/-- Bytes at an offset of a block of zeros. -/
def blockPut (bs : List Byte) (off : Nat) (x : List Byte) : List Byte := bs.take off ++ x ++ bs.drop (off + x.length)
/-- The manifest (R446). -/
def State.manifest (s : State) : List Byte :=
  let z : List Byte := List.replicate 65536 0
  let cap := s.capBytes
  let z := blockPut z 0 (bytesOf 8 (1 + s.devId * 65536) ++ bytesOf 8 s.deviceNs ++ bytesOf 8 cap.length ++ bytesOf 8 0xC000000000)
  let z := blockPut z 0x40 (quadBytes (s.boot.measured.getD (List.replicate 8 0)))
  blockPut z 0x1000 (cap.take 61440)
/-- The next page in canonical order leaves, unless it was sent ahead. -/
def State.streamPage (s : State) (c : Ckpt) : State :=
  let s' : State := { s with ckpt := some { c with next := c.next + 1, ahead := c.ahead.erase c.next } }
  if c.ahead.get false c.next then s' else (s'.pageReads c.next).ckptSend c (c.next + 1) (s.storedPage c.next)
/-- `CHECKPOINT_STREAM_START`: the pause ends, the manifest leaves, and streaming begins; taken while streaming, it sends the
next page. -/
def execCheckpointStreamStart (s : State) : Host.Outcome State Fault Refusal :=
  match s.ckpt with
  | none => .next s
  | some c =>
    if c.streaming then .next (if c.next < hbmPages then s.streamPage c else s)
    else if s.pauseDone = false then .next s
    else match s.pass s.releaseAll false with
    | .error w => .next w
    | .ok s =>
      .next (({ s with ckpt := some { c with streaming := true, time := s.deviceTime } } : State).ckptSend c 0 s.manifest)
/-- `SEND_AHEAD`: `unit` is a page that a write waits for. -/
def execSendAhead (s : State) : Host.Outcome State Fault Refusal := .next (if s.ev.unit < hbmPages then s.sendAhead s.ev.unit else s)
/-- `CHECKPOINT_COMPLETE`: everything has been sent and acknowledged; the done word is written, and the packet completes. -/
def execCheckpointComplete (s : State) : Host.Outcome State Fault Refusal :=
  match s.ckpt with
  | none => .next s
  | some c =>
    if c.streaming = false ∨ c.next < hbmPages ∨ s.wireOut.any (fun p => p.cmd == 0) = true then .next s
    else match s.doneWord c.slot (.packet c.queue c.pkt c.tag) c.done with
      | some s => .next (({ s with ckpt := none } : State).packetDone c.slot c.queue c.pkt)
      | none => .next s
/-- `CHECKPOINT_TRANSPORT_FAILURE`. -/
def execCheckpointTransportFailure (s : State) : Host.Outcome State Fault Refusal :=
  .next (if s.wireOut.any (fun p => p.cmd == 0) then s.ckptFail else s)

end Sys2Proof.Machine
end

