-- ==== Sys2Proof/WellFormed.lean ====
section
/-! DEFINITION. What makes a term of `Instr` a word of the device: the checks that depend on the word alone (R30 to R51
and the limits each instruction's description states for its own fields). A row without words is always well formed. -/

namespace Sys2Proof

/-- The header of an Igyan word; `none` for a row that is no Igyan word. -/
def Instr.hdr? : Instr → Option Hdr
  | .nop h | .mov h .. | .movi h .. | .iadd h .. | .isub h .. | .iaddi h .. | .imul h .. | .imulh h .. => some h
  | .imad h .. | .idiv h .. | .irem h .. | .imin h .. | .imax h .. | .iabs h .. | .ineg h .. | .isadd h .. => some h
  | .lop3 h .. | .andB h .. | .orB h .. | .xorB h .. | .shl h .. | .shr h .. | .sar h .. | .rot h .. => some h
  | .bfx h .. | .bfi h .. | .popc h .. | .clz h .. | .brev h .. | .icmp h .. | .sel h .. | .lea h .. => some h
  | .fadd h .. | .fsub h .. | .fmul h .. | .ffma h .. | .ffms h .. | .fmin h .. | .fmax h .. | .fabs h .. => some h
  | .fneg h .. | .fcmp h .. | .fclass h .. | .frnd h .. | .fscale h .. | .fdiv h .. | .fsqrt h .. => some h
  | .fsign h .. | .badd2 h .. | .bmul2 h .. | .bfma2 h .. | .bmin2 h .. | .bmax2 h .. | .hadd2 h .. => some h
  | .hmul2 h .. | .hfma2 h .. | .xpr h .. | .lscale h .. | .ovf h .. | .cvt h .. | .cvti h .. | .cvtf h .. => some h
  | .srnd h .. | .qblk h .. | .dqblk h .. | .pack h .. | .unpack h .. | .rcp h .. | .rsq h .. | .ex2 h .. => some h
  | .lg2 h .. | .sin h .. | .cos h .. | .tanh h .. | .erf h .. | .rng h .. | .drop h .. | .tqnt h .. => some h
  | .tdq h .. | .shfl h .. | .bcast h .. | .vote h .. | .mtch h .. | .redux h .. | .fredux h .. | .scan h .. => some h
  | .fscan h .. | .rdlane h .. | .wrlane h .. | .plop h .. | .pmovTov h .. | .pmovTop h .. | .elect h .. => some h
  | .ldg h .. | .stg h .. | .lds h .. | .sts h .. | .ldc h .. | .ldl h .. | .stl h .. | .ldp h .. => some h
  | .ldv h .. | .stws h .. | .prf h .. | .cctl h .. | .fence h .. | .ldm h .. | .stm h .. | .waitv h .. => some h
  | .atom h .. | .atomf h .. | .cas h .. | .red h .. | .redf h .. | .atoms h .. | .cass h .. | .cpy h .. => some h
  | .offl h .. | .rtrn h .. | .putr h .. | .getr h .. | .puts h .. | .append h .. | .ratom h .. | .coll h .. => some h
  | .layx h .. | .gang h .. | .gangClr h | .mma h .. | .mfence h .. | .mwait h .. | .mwaitAll h | .accz h .. => some h
  | .accrd h .. | .accwr h .. | .accq h .. | .shape h .. | .phjoin h .. | .phdrop h .. | .pharr h .. => some h
  | .phwait h .. | .phexp h .. | .drain h .. | .bar h .. | .quies h | .grace h | .fallow h .. | .tokb h .. => some h
  | .vpub h .. | .vreq h .. | .trpop h .. | .trpsh h .. | .prog h .. | .bra h .. | .brad h .. | .join h => some h
  | .brk h .. | .brx h .. | .call h .. | .callR h .. | .ret h .. | .yield h | .sleep h .. | .wake h .. => some h
  | .wakeAll h | .exit h | .trap h .. | .rte h | .bkpt h .. | .csrr h .. | .csrw h .. => some h
  | .pairWord e pg pn _ _ => some ⟨e, pg, pn, false, 0⟩
  | _ => none

/-- The run-end and lookahead rules of a header (R42, R45). -/
def Lat.ok (l : Lat) (h : Hdr) : Bool :=
  match l with
  | .short => h.la == 0
  | .long => true
  | .ctl => h.e && h.la == 0

/-- `JOIN` and `RTE` take no guard (R349, R416). -/
def Hdr.unguarded (h : Hdr) : Bool := h.pg == 7 && !h.pn

def I3.ok (o : I3) : Bool := !(o.k && o.sb)
def I4.ok (o : I4) : Bool := !(o.k && o.sb)
def F2.ok (o : F2) : Bool := decide (o.rm ≠ .rs)
def F3.ok (o : F3) : Bool := !(o.k && o.sb) && decide (o.rm ≠ .rs)
def F4.ok (o : F4) : Bool := !(o.k && o.sb) && decide (o.rm ≠ .rs)
def ShAmt.ok (k : Bool) (ty : ITy) : ShAmt → Bool
  | .imm n => ty.wide || decide (n.toNat < 32)
  | .reg sb _ => !(k && sb)
def BOp.ok (bop : BOp) (pc : PReg) : Bool := decide (bop ≠ .none) || pc == 0
def rndOk (rm : RM) (r : Reg) : Bool := decide (rm = .rs) || r == 0
def LaneSet.ok : LaneSet → Bool
  | .sub sg => sg != 7
  | .mask _ => true
/-- The access types a store accepts (R139). -/
def MTy.store : MTy → Bool
  | .z8 => true | .s8 => false | .z16 => true | .s16 => false | .w32 => true | .w64 => true | .b128 => true
def Ord4.load (o : Ord4) : Bool := decide (o = .rlx) || decide (o = .acq)
def Ord4.store (o : Ord4) : Bool := decide (o = .rlx) || decide (o = .rel)
def CctlOp.all : CctlOp → Bool
  | .wball => true | .invall => true | .wbinvall => true | _ => false
/-- Positions of `PACK` and `UNPACK` (R223); other codes are decided by R216 instead. -/
def posOk (f : BitVec 4) (pos : BitVec 3) : Bool :=
  match f.toNat with
  | 1 => decide (pos.toNat ≤ 1) | 2 => decide (pos.toNat ≤ 1)
  | 3 => decide (pos.toNat ≤ 3) | 4 => decide (pos.toNat ≤ 3) | 5 => decide (pos.toNat ≤ 3) | 9 => decide (pos.toNat ≤ 3)
  | _ => true

/-- Fields of `GANG` (R248): the j-th index. -/
def gangIdx (imm : W32) (j : Nat) : Nat := (imm.toNat / 2 ^ (4 * j + 4)) % 16
def gangCnt (imm : W32) : Nat := imm.toNat % 8
/-- The word-only limits of `GANG` (R248). -/
def gangOk (imm : W32) : Bool :=
  let c := gangCnt imm
  decide (2 ≤ c) && decide (c ≤ 6) && (imm.toNat / 8 % 2 == 0) && decide (imm.toNat / 2 ^ 28 = 0)
    && (List.range 5).all (fun j => decide (c ≤ j + 1) || decide (gangIdx imm j < gangIdx imm (j + 1)))
    && (List.range 6).all (fun j => decide (j < c) || gangIdx imm j == 0)

/-- The CSRs that some chapter assigns (R125, R162, R164, R212, R255, R369, R378, R407, R411, R435). -/
def csrAssigned (n : Nat) : Bool :=
  decide (n ≤ 0x0A) || (decide (0x10 ≤ n) && decide (n ≤ 0x14)) || (decide (0x20 ≤ n) && decide (n ≤ 0x22)) || n == 0x2E
    || n == 0x30 || n == 0x31 || (decide (0x40 ≤ n) && decide (n ≤ 0x42)) || (decide (0x50 ≤ n) && decide (n ≤ 0x58))
    || n == 0x60 || n == 0x66 || n == 0x67 || n == 0x70 || n == 0x71
/-- The CSRs of a lane (R417). -/
def csrLane (n : Nat) : Bool := n == 0 || n == 0x10
/-- The CSRs that `CSRW` may name (R125, R164, R212, R411). -/
def csrWritable (n : Nat) : Bool := (decide (0x10 ≤ n) && decide (n ≤ 0x14)) || n == 0x2E || n == 0x51 || n == 0x57

/-- The limits of an instruction's own fields. -/
def Instr.own : Instr → Bool
  | .nop h => !h.q
  | .iadd _ o | .isub _ o | .imul _ o | .imulh _ o | .idiv _ o | .irem _ o | .imin _ o | .imax _ o => o.ok
  | .andB _ o | .orB _ o | .xorB _ o | .isadd _ _ o | .bfx _ o => o.ok
  | .imad _ o | .lop3 _ _ o | .bfi _ o => o.ok
  | .iabs _ o | .ineg _ o => o.ty.signed
  | .shl _ o n | .shr _ o n | .sar _ o n | .rot _ _ o n => n.ok o.k o.ty
  | .icmp _ k sb _ _ bop _ _ _ pc => !(k && sb) && bop.ok pc
  | .lea _ k sb _ _ _ _ _ => !(k && sb)
  | .fadd _ o | .fsub _ o | .fmul _ o | .fscale _ o | .fdiv _ o => o.ok
  | .ffma _ o | .ffms _ o => o.ok
  | .fmin _ k sb _ _ _ _ | .fmax _ k sb _ _ _ _ => !(k && sb)
  | .fcmp _ k sb _ _ bop _ _ _ pc => !(k && sb) && bop.ok pc
  | .frnd _ o | .fsqrt _ o => o.ok
  | .fsign _ k sb _ _ _ _ => !(k && sb)
  | .badd2 _ o | .bmul2 _ o | .bmin2 _ o | .bmax2 _ o | .hadd2 _ o | .hmul2 _ o => o.ok && !o.k
  | .bfma2 _ o | .hfma2 _ o => o.ok && !o.k
  | .xpr h o _ toks => !h.e && o.ok && !o.k && xprLegal o toks
  | .lscale _ _ _ o => o.ok && !o.k
  | .ovf _ op bf2 _ a => decide (op = .chk) || (a == 0 && !bf2)
  | .cvt _ _ _ o | .cvti _ _ _ o | .cvtf _ _ _ o => rndOk o.rm o.r
  | .srnd _ n o => decide (n.toNat ≤ 22) && rndOk o.rm o.r
  | .qblk _ _ _ rm _ _ r => rndOk rm r
  | .dqblk _ _ _ rm _ _ _ => decide (rm ≠ .rs)
  | .pack _ df pos _ rm _ _ _ r => posOk df pos && rndOk rm r
  | .unpack _ sf pos _ _ => posOk sf pos
  | .tdq _ sign pos _ _ _ _ => sign || decide (pos.toNat ≤ 4)
  | .shfl _ _ _ sg _ _ _ _ => sg != 7
  | .bcast _ _ sg _ _ _ => sg != 7
  | .vote _ _ _ (.set _ _ ls) => ls.ok
  | .mtch _ _ sg _ _ => sg != 7
  | .redux _ _ ls _ _ | .scan _ _ _ ls _ _ | .elect _ _ ls => ls.ok
  | .fredux _ _ rm _ ls _ _ | .fscan _ _ rm _ _ ls _ _ => ls.ok && decide (rm ≠ .rs)
  | .ldg _ o | .ldv _ o => o.ord.load
  | .stg _ o => o.ord.store && o.ty.store
  | .lds _ o => o.ord.load
  | .sts _ o => o.ord.store && o.ty.store
  | .stl _ ty _ _ _ _ _ => ty.store
  | .stws _ ty _ _ _ _ _ _ => ty.store
  | .prf _ lvl _ _ _ => decide (lvl.toNat ≤ 2)
  | .cctl _ op a b => !op.all || (a == 0 && b == 0)
  | .fence _ o _ => decide (o ≠ .rlx)
  | .ldm _ _ _ o _ _ _ => o.load
  | .stm _ _ _ o _ _ _ => o.store
  | .red _ op _ _ _ _ _ _ => decide (op ≠ .exch)
  | .atoms _ (.fp _) w64 _ _ _ _ _ _ => !w64
  | .cpy _ _ np _ _ _ ctl => !np || ctl == 0
  | .gang _ imm => gangOk imm
  | .accq _ df _ rm _ _ _ _ c => decide (rm ≠ .rs) && (decide (1 < df.toNat) || c == 0)
  | .pharr _ sc _ _ _ | .phwait _ sc _ _ _ => decide (sc ≠ .system)
  | .drain _ m => m != 0
  | .vreq _ own _ a => !own || a == 0
  | .trpop _ d _ => decide (d.toNat ≤ 55)
  | .trpsh _ a _ => decide (a.toNat ≤ 55)
  | .join h | .rte h => h.unguarded
  | .brk _ n => n != 0
  | .csrr _ sc _ n => csrAssigned n.toNat && !(sc && csrLane n.toNat)
  | .csrw _ sc _ n => csrWritable n.toNat && (sc != csrLane n.toNat)
  | .pairWord _ _ _ h0 h1 => pairLegal h0 h1
  | _ => true

/-- A term is well formed when its register operands, its header and its own fields obey the encoding rules. -/
def Instr.wf (i : Instr) : Bool :=
  i.uses.all Use.wf && (match i.hdr? with | some h => i.lat.ok h | none => true) && i.own

end Sys2Proof
end

