-- ==== Sys2Proof/Decode.lean ====
section
/-! DEFINITION. Decoding of Igyan words (R26 to R50), fabric-processor words (R309, R312) and sieve words (R431): total,
each rejection named. After it, the encoder, written from the same tables. -/

namespace Sys2Proof

/-- The fields of a single word (R28). -/
structure Fields where
  e : Bool
  op : BitVec 8
  d : BitVec 8
  a : BitVec 8
  b : BitVec 8
  c : BitVec 8
  pg : BitVec 3
  pn : Bool
  q : Bool
  la : BitVec 4
  x : BitVec 13
  deriving DecidableEq, Repr

/-- The fields of a word whose bit 62 is 0. -/
def Fields.ofWord (w : W64) : Fields where
  e := w.getLsbD 63
  op := w.extractLsb' 54 8
  d := w.extractLsb' 46 8
  a := w.extractLsb' 38 8
  b := w.extractLsb' 30 8
  c := w.extractLsb' 22 8
  pg := w.extractLsb' 19 3
  pn := w.getLsbD 18
  q := w.getLsbD 17
  la := w.extractLsb' 13 4
  x := w.extractLsb' 0 13

/-- The word of the fields. -/
def Fields.toWord (f : Fields) : W64 :=
  BitVec.ofBool f.e ++ 0#1 ++ f.op ++ f.d ++ f.a ++ f.b ++ f.c ++ f.pg ++ BitVec.ofBool f.pn ++ BitVec.ofBool f.q
    ++ f.la ++ f.x

def Fields.hdr (f : Fields) : Hdr := ⟨f.e, f.pg, f.pn, f.q, f.la⟩
/-- `K` and `SB` of classes 0 to 3 (R30). -/
def Fields.k (f : Fields) : Bool := f.x.getLsbD 12
def Fields.sb (f : Fields) : Bool := f.x.getLsbD 11
/-- `n` bits of `X` from bit `lo`. -/
def Fields.xb (f : Fields) (lo n : Nat) : BitVec n := f.x.extractLsb' lo n
def Fields.x1 (f : Fields) (i : Nat) : Bool := f.x.getLsbD i

/-- The reasons a word is rejected (R50). -/
inductive Reject | opcode | pair | operand
  deriving DecidableEq, Repr

/-- A condition of the decoder. -/
def need (b : Bool) : Option Unit := if b then some () else none

/-- A field that names `S0`-`S63` (values above raise `ILLEGAL_OPERAND`). -/
def sOf (r : BitVec 8) : Option SReg := if r.toNat < 64 then some (r.setWidth 6) else none
/-- A field that names a predicate, a `D` register or a three-bit number. -/
def pOf (r : BitVec 8) : Option (BitVec 3) := if r.toNat < 8 then some (r.setWidth 3) else none
/-- A field that names an accumulator tile; the team has at most 16. -/
def tOf (r : BitVec 8) : Option (BitVec 4) := if r.toNat < 16 then some (r.setWidth 4) else none

def ITy.ofCode (c : BitVec 2) : ITy :=
  match c.toNat with | 0 => .s32 | 1 => .z32 | 2 => .s64 | _ => .z64
def ITy.code : ITy → BitVec 2 | .s32 => 0 | .z32 => 1 | .s64 => 2 | .z64 => 3
def RM.ofCode (c : BitVec 3) : Option RM :=
  match c.toNat with | 0 => some .rn | 1 => some .rz | 2 => some .ru | 3 => some .rd | 4 => some .rs | _ => none
def RM.code : RM → BitVec 3 | .rn => 0 | .rz => 1 | .ru => 2 | .rd => 3 | .rs => 4
def Scope.ofCode (c : BitVec 2) : Scope :=
  match c.toNat with | 0 => .team | 1 => .cluster | 2 => .device | _ => .system
def Scope.code : Scope → BitVec 2 | .team => 0 | .cluster => 1 | .device => 2 | .system => 3
def Ord4.ofCode (c : BitVec 2) : Ord4 :=
  match c.toNat with | 0 => .rlx | 1 => .acq | 2 => .rel | _ => .ar
def Ord4.code : Ord4 → BitVec 2 | .rlx => 0 | .acq => 1 | .rel => 2 | .ar => 3
def Hint.ofCode (c : BitVec 2) : Option Hint :=
  match c.toNat with | 0 => some .none | 1 => some .strm | 2 => some .nol1 | _ => Option.none
def Hint.code : Hint → BitVec 2 | .none => 0 | .strm => 1 | .nol1 => 2
def MTy.ofCode (c : BitVec 3) : Option MTy :=
  match c.toNat with
  | 0 => some .z8 | 1 => some .s8 | 2 => some .z16 | 3 => some .s16 | 4 => some .w32 | 5 => some .w64
  | 6 => some .b128 | _ => none
def MTy.code : MTy → BitVec 3
  | .z8 => 0 | .s8 => 1 | .z16 => 2 | .s16 => 3 | .w32 => 4 | .w64 => 5 | .b128 => 6
def BOp.ofCode (c : BitVec 2) : BOp :=
  match c.toNat with | 0 => .none | 1 => .and | 2 => .or | _ => .xor
def BOp.code : BOp → BitVec 2 | .none => 0 | .and => 1 | .or => 2 | .xor => 3
def ICmp.ofCode (c : BitVec 3) : Option ICmp :=
  match c.toNat with
  | 0 => some .eq | 1 => some .ne | 2 => some .lt | 3 => some .le | 4 => some .gt | 5 => some .ge | _ => none
def ICmp.code : ICmp → BitVec 3 | .eq => 0 | .ne => 1 | .lt => 2 | .le => 3 | .gt => 4 | .ge => 5
def FCmp.ofCode (c : BitVec 3) : FCmp :=
  match c.toNat with
  | 0 => .eq | 1 => .ne | 2 => .lt | 3 => .le | 4 => .gt | 5 => .ge | 6 => .un | _ => .num
def FCmp.code : FCmp → BitVec 3
  | .eq => 0 | .ne => 1 | .lt => 2 | .le => 3 | .gt => 4 | .ge => 5 | .un => 6 | .num => 7
def WCmp.ofCode (c : BitVec 2) : WCmp :=
  match c.toNat with | 0 => .eq | 1 => .ne | 2 => .geu | _ => .ges
def WCmp.code : WCmp → BitVec 2 | .eq => 0 | .ne => 1 | .geu => 2 | .ges => 3
def SOp.ofCode (c : BitVec 2) : Option SOp :=
  match c.toNat with | 0 => some .cp | 1 => some .neg | 2 => some .xor | _ => none
def SOp.code : SOp → BitVec 2 | .cp => 0 | .neg => 1 | .xor => 2
def OvfOp.ofCode (c : BitVec 2) : Option OvfOp :=
  match c.toNat with | 0 => some .chk | 1 => some .rd | 2 => some .step | _ => none
def OvfOp.code : OvfOp → BitVec 2 | .chk => 0 | .rd => 1 | .step => 2
def BlkLen.ofCode (c : BitVec 2) : Option BlkLen :=
  match c.toNat with | 0 => some .k16 | 1 => some .k32 | 2 => some .k64 | _ => none
def BlkLen.code : BlkLen → BitVec 2 | .k16 => 0 | .k32 => 1 | .k64 => 2
def ShflMode.ofCode (c : BitVec 2) : ShflMode :=
  match c.toNat with | 0 => .from_ | 1 => .rot | 2 => .mir | _ => .xor
def ShflMode.code : ShflMode → BitVec 2 | .from_ => 0 | .rot => 1 | .mir => 2 | .xor => 3
def RedOp.ofCode (c : BitVec 3) : RedOp :=
  match c.toNat with
  | 0 => .add | 1 => .mins | 2 => .maxs | 3 => .minz | 4 => .maxz | 5 => .and | 6 => .or | _ => .xor
def RedOp.code : RedOp → BitVec 3
  | .add => 0 | .mins => 1 | .maxs => 2 | .minz => 3 | .maxz => 4 | .and => 5 | .or => 6 | .xor => 7
def FRedOp.ofCode (c : BitVec 2) : Option FRedOp :=
  match c.toNat with | 0 => some .add | 1 => some .min | 2 => some .max | _ => none
def FRedOp.code : FRedOp → BitVec 2 | .add => 0 | .min => 1 | .max => 2
def LdcTy.ofCode (c : BitVec 2) : Option LdcTy :=
  match c.toNat with | 0 => some .z32 | 1 => some .s32 | 2 => some .w64 | _ => none
def LdcTy.code : LdcTy → BitVec 2 | .z32 => 0 | .s32 => 1 | .w64 => 2
def StwsOp.ofCode (c : BitVec 2) : Option StwsOp :=
  match c.toNat with | 0 => some .inc | 1 => some .addb | 2 => some .set | _ => none
def StwsOp.code : StwsOp → BitVec 2 | .inc => 0 | .addb => 1 | .set => 2
def CctlOp.ofCode (c : BitVec 3) : Option CctlOp :=
  match c.toNat with
  | 0 => some .wb | 1 => some .inv | 2 => some .wbinv | 3 => some .dis | 4 => some .wball | 5 => some .invall
  | 6 => some .wbinvall | _ => none
def CctlOp.code : CctlOp → BitVec 3
  | .wb => 0 | .inv => 1 | .wbinv => 2 | .dis => 3 | .wball => 4 | .invall => 5 | .wbinvall => 6
def AOp.ofCode (c : BitVec 4) : Option AOp :=
  match c.toNat with
  | 0 => some .add | 1 => some .mins | 2 => some .maxs | 3 => some .minz | 4 => some .maxz | 5 => some .and
  | 6 => some .or | 7 => some .xor | 8 => some .exch | 9 => some .inc | 10 => some .dec | _ => none
def AOp.code : AOp → BitVec 4
  | .add => 0 | .mins => 1 | .maxs => 2 | .minz => 3 | .maxz => 4 | .and => 5 | .or => 6 | .xor => 7 | .exch => 8
  | .inc => 9 | .dec => 10
def AFmt.ofCode (c : BitVec 2) : Option AFmt :=
  match c.toNat with | 0 => some .f32 | 1 => some .bf16x2 | 2 => some .f16x2 | _ => none
def AFmt.code : AFmt → BitVec 2 | .f32 => 0 | .bf16x2 => 1 | .f16x2 => 2
def ASOp.ofCode (c : BitVec 4) : Option ASOp :=
  match c.toNat with
  | 12 => some (.fp .add) | 13 => some (.fp .min) | 14 => some (.fp .max) | _ => (AOp.ofCode c).map .int
def ASOp.code : ASOp → BitVec 4
  | .int o => o.code | .fp .add => 12 | .fp .min => 13 | .fp .max => 14
def RAOp.ofCode (c : BitVec 4) : Option RAOp :=
  match c.toNat with | 11 => some .cas | _ => (AOp.ofCode c).map .int
def RAOp.code : RAOp → BitVec 4 | .int o => o.code | .cas => 11
def CpyDir.ofCode (c : BitVec 2) : CpyDir :=
  match c.toNat with | 0 => .g2s | 1 => .s2g | 2 => .g2g | _ => .s2s
def CpyDir.code : CpyDir → BitVec 2 | .g2s => 0 | .s2g => 1 | .g2g => 2 | .s2s => 3
def PhMode.ofCode (c : BitVec 2) : Option PhMode :=
  match c.toNat with | 0 => some .aw | 1 => some .arr | 2 => some .wt | _ => none
def PhMode.code : PhMode → BitVec 2 | .aw => 0 | .arr => 1 | .wt => 2
def FCond.ofCode (c : BitVec 4) : Option FCond :=
  match c.toNat with
  | 0 => some .eq | 1 => some .ne | 2 => some .ltu | 3 => some .geu | 4 => some .lts | 5 => some .ges | _ => none
def FCond.code : FCond → BitVec 4 | .eq => 0 | .ne => 1 | .ltu => 2 | .geu => 3 | .lts => 4 | .ges => 5

/-! ### Operand forms of classes 0 to 3 -/

def Fields.ity (f : Fields) : ITy := ITy.ofCode (f.xb 9 2)
/-- Two operands: B, C and the low nine bits of X reserved. -/
def Fields.i2 (f : Fields) : Option I2 := do
  need (!f.sb && f.b == 0 && f.c == 0 && f.xb 0 9 == 0)
  some ⟨f.k, f.ity, f.d, f.a⟩
def Fields.i3 (f : Fields) : Option I3 := do
  need (f.c == 0 && f.xb 0 9 == 0)
  some ⟨f.k, f.sb, f.ity, f.d, f.a, f.b⟩
def Fields.i4 (f : Fields) : Option I4 := do
  need (f.xb 0 9 == 0)
  some ⟨f.k, f.sb, f.ity, f.d, f.a, f.b, f.c⟩
/-- Shifts (R193): the amount is an immediate or operand B. -/
def Fields.shift (f : Fields) : Option (I2 × ShAmt) := do
  need (f.c == 0 && !f.x1 8)
  if f.x1 6 then
    need (!f.sb && f.b == 0)
    some (⟨f.k, f.ity, f.d, f.a⟩, .imm (f.xb 0 6))
  else
    need (f.xb 0 6 == 0)
    some (⟨f.k, f.ity, f.d, f.a⟩, .reg f.sb f.b)
def Fields.f2 (f : Fields) (lowZero : Bool) : Option F2 := do
  need (!f.sb && f.b == 0 && f.c == 0 && (!lowZero || f.xb 0 7 == 0))
  let rm ← RM.ofCode (f.xb 8 3)
  some ⟨f.k, rm, f.x1 7, f.d, f.a⟩
def Fields.f3 (f : Fields) : Option F3 := do
  need (f.c == 0 && f.xb 0 7 == 0)
  let rm ← RM.ofCode (f.xb 8 3)
  some ⟨f.k, f.sb, rm, f.x1 7, f.d, f.a, f.b⟩
def Fields.f4 (f : Fields) : Option F4 := do
  need (f.xb 0 7 == 0)
  let rm ← RM.ofCode (f.xb 8 3)
  some ⟨f.k, f.sb, rm, f.x1 7, f.d, f.a, f.b, f.c⟩
def Fields.cv (f : Fields) : Option Cv := do
  need (!f.sb && f.b == 0)
  let rm ← RM.ofCode (f.xb 8 3)
  some ⟨f.k, rm, f.d, f.a, f.c⟩
/-- The special functions (R224): only `FTZ`. -/
def Fields.sf (f : Fields) : Option (Bool × Reg × Reg) := do
  need (!f.k && !f.sb && f.b == 0 && f.c == 0 && f.xb 8 3 == 0 && f.xb 0 7 == 0)
  some (f.x1 7, f.d, f.a)
/-- Lane sets (R226). -/
def Fields.laneSet (f : Fields) : Option LaneSet :=
  if f.x1 7 then do
    need (f.xb 8 3 == 0)
    some (.mask f.c)
  else do
    need (f.c == 0)
    some (.sub (f.xb 8 3))
/-- The common memory form (R137). -/
def Fields.off (f : Fields) : BitVec 12 := f.c ++ f.xb 0 4
def Fields.mem (f : Fields) : Option MemOp := do
  let ty ← MTy.ofCode (f.xb 10 3)
  let hnt ← Hint.ofCode (f.xb 4 2)
  let a ← sOf f.a
  some ⟨ty, Scope.ofCode (f.xb 8 2), Ord4.ofCode (f.xb 6 2), hnt, f.d, a, f.b, f.off⟩
def Fields.scr (f : Fields) : Option ScrOp := do
  need (!f.x1 8 && f.xb 4 2 == 0)
  let ty ← MTy.ofCode (f.xb 10 3)
  let a ← sOf f.a
  some ⟨ty, f.x1 9, Ord4.ofCode (f.xb 6 2), f.d, a, f.b, f.off⟩
/-- The integer atomics with `W64` (R263). -/
def Fields.atm (f : Fields) : Option Atm := do
  let a ← sOf f.a
  some ⟨f.x1 8, Scope.ofCode (f.xb 6 2), Ord4.ofCode (f.xb 4 2), f.d, a, f.b, f.c⟩
def Fields.rmods (f : Fields) : RMods := ⟨f.x1 2, f.x1 1, f.x1 0⟩
/-- The 24-bit offset of form F3 (R34). -/
def Fields.off24 (f : Fields) : BitVec 24 := f.a ++ f.b ++ f.c
def Fields.imm32 (f : Fields) : W32 := f.a ++ f.b ++ f.c ++ f.xb 0 8

/-! ### The opcode map (R49) -/

/-- Class 0 (R184 to R198). -/
def decodeC0 (f : Fields) : Option Instr :=
  let h := f.hdr
  match f.op.toNat with
  | 0x00 => do
    need (f.d == 0 && f.a == 0 && f.b == 0 && f.c == 0 && f.x == 0)
    some (.nop h)
  | 0x01 => do some (.mov h (← f.i2))
  | 0x02 => do
    need (!f.sb && !f.x1 8)
    match f.k, (f.xb 9 2).toNat with
    | false, 0 => some (.movi h .vec f.d f.imm32)
    | true, 0 => some (.movi h .sx f.d f.imm32)
    | true, 1 => some (.movi h .zx f.d f.imm32)
    | true, 2 => some (.movi h .hi f.d f.imm32)
    | _, _ => none
  | 0x03 => do some (.iadd h (← f.i3))
  | 0x04 => do some (.isub h (← f.i3))
  | 0x05 => do
    need (!f.sb && f.xb 0 9 == 0)
    some (.iaddi h ⟨f.k, f.ity, f.d, f.a⟩ (f.b ++ f.c))
  | 0x06 => do some (.imul h (← f.i3))
  | 0x07 => do some (.imulh h (← f.i3))
  | 0x08 => do some (.imad h (← f.i4))
  | 0x09 => do some (.idiv h (← f.i3))
  | 0x0A => do some (.irem h (← f.i3))
  | 0x0B => do some (.imin h (← f.i3))
  | 0x0C => do some (.imax h (← f.i3))
  | 0x0D => do some (.iabs h (← f.i2))
  | 0x0E => do some (.ineg h (← f.i2))
  | 0x0F => do
    need (f.c == 0 && f.xb 1 8 == 0)
    some (.isadd h (f.x1 0) ⟨f.k, f.sb, f.ity, f.d, f.a, f.b⟩)
  | 0x10 => do
    need (!f.x1 8)
    some (.lop3 h (f.xb 0 8) ⟨f.k, f.sb, f.ity, f.d, f.a, f.b, f.c⟩)
  | 0x11 => do some (.andB h (← f.i3))
  | 0x12 => do some (.orB h (← f.i3))
  | 0x13 => do some (.xorB h (← f.i3))
  | 0x14 => do
    need (!f.x1 7)
    let (o, n) ← f.shift
    some (.shl h o n)
  | 0x15 => do
    need (!f.x1 7)
    let (o, n) ← f.shift
    some (.shr h o n)
  | 0x16 => do
    need (!f.x1 7)
    let (o, n) ← f.shift
    some (.sar h o n)
  | 0x17 => do
    let (o, n) ← f.shift
    some (.rot h (f.x1 7) o n)
  | 0x18 => do some (.bfx h (← f.i3))
  | 0x19 => do some (.bfi h (← f.i4))
  | 0x1A => do some (.popc h (← f.i2))
  | 0x1B => do some (.clz h (← f.i2))
  | 0x1C => do some (.brev h (← f.i2))
  | 0x1D => do
    need (f.xb 5 4 == 0)
    let cmp ← ICmp.ofCode (f.xb 0 3)
    let pd ← pOf f.d
    let pc ← pOf f.c
    some (.icmp h f.k f.sb f.ity cmp (BOp.ofCode (f.xb 3 2)) pd f.a f.b pc)
  | 0x1E => do
    need (!f.k && f.xb 0 9 == 0)
    let pc ← pOf f.c
    some (.sel h f.sb f.ity f.d f.a f.b pc)
  | 0x1F => do
    need (f.c == 0 && f.xb 4 7 == 0)
    some (.lea h f.k f.sb (f.x1 3) (f.xb 0 3) f.d f.a f.b)
  | _ => none

/-- Class 1 (R199 to R214); the body of an `XPR` is the next word. -/
def decodeC1 (f : Fields) (body : W64) : Option Instr :=
  let h := f.hdr
  match f.op.toNat with
  | 0x20 => do some (.fadd h (← f.f3))
  | 0x21 => do some (.fsub h (← f.f3))
  | 0x22 => do some (.fmul h (← f.f3))
  | 0x23 => do some (.ffma h (← f.f4))
  | 0x24 => do some (.ffms h (← f.f4))
  | 0x25 => do
    need (f.c == 0 && f.xb 8 3 == 0 && f.xb 0 7 == 0)
    some (.fmin h f.k f.sb (f.x1 7) f.d f.a f.b)
  | 0x26 => do
    need (f.c == 0 && f.xb 8 3 == 0 && f.xb 0 7 == 0)
    some (.fmax h f.k f.sb (f.x1 7) f.d f.a f.b)
  | 0x27 => do
    need (!f.sb && f.b == 0 && f.c == 0 && f.xb 0 11 == 0)
    some (.fabs h f.k f.d f.a)
  | 0x28 => do
    need (!f.sb && f.b == 0 && f.c == 0 && f.xb 0 11 == 0)
    some (.fneg h f.k f.d f.a)
  | 0x29 => do
    need (f.xb 8 3 == 0 && f.xb 5 2 == 0)
    let pd ← pOf f.d
    let pc ← pOf f.c
    some (.fcmp h f.k f.sb (f.x1 7) (FCmp.ofCode (f.xb 0 3)) (BOp.ofCode (f.xb 3 2)) pd f.a f.b pc)
  | 0x2A => do
    need (!f.sb && f.b == 0 && f.c == 0 && f.xb 0 11 == 0)
    some (.fclass h f.k f.d f.a)
  | 0x2B => do some (.frnd h (← f.f2 true))
  | 0x2C => do some (.fscale h (← f.f3))
  | 0x2D => do some (.fdiv h (← f.f3))
  | 0x2E => do some (.fsqrt h (← f.f2 true))
  | 0x2F => do
    need (f.c == 0 && f.xb 2 9 == 0)
    let op ← SOp.ofCode (f.xb 0 2)
    some (.fsign h f.k f.sb op f.d f.a f.b)
  | 0x30 => do some (.badd2 h (← f.f3))
  | 0x31 => do some (.bmul2 h (← f.f3))
  | 0x32 => do some (.bfma2 h (← f.f4))
  | 0x33 => do some (.bmin2 h (← f.f3))
  | 0x34 => do some (.bmax2 h (← f.f3))
  | 0x35 => do some (.hadd2 h (← f.f3))
  | 0x36 => do some (.hmul2 h (← f.f3))
  | 0x37 => do some (.hfma2 h (← f.f4))
  | 0x38 => do
    need (body.extractLsb' 60 3 == 0)
    some (.xpr h (← f.f4) (body.getLsbD 63) (body.extractLsb' 0 60))
  | 0x39 => do
    need (f.xb 2 5 == 0)
    some (.lscale h (f.x1 0) (f.x1 1) (← f.f2 false))
  | 0x3A => do
    need (!f.k && !f.sb && f.b == 0 && f.c == 0 && f.xb 3 8 == 0)
    let op ← OvfOp.ofCode (f.xb 0 2)
    some (.ovf h op (f.x1 2) f.d f.a)
  | _ => none

/-- Class 2 (R216 to R224, R237 to R240). -/
def decodeC2 (f : Fields) : Option Instr :=
  let h := f.hdr
  match f.op.toNat with
  | 0x40 => do some (.cvt h (f.xb 4 4) (f.xb 0 4) (← f.cv))
  | 0x41 => do
    need (!f.x1 4)
    some (.cvti h (f.xb 5 3) (f.xb 0 4) (← f.cv))
  | 0x42 => do
    need (!f.x1 0)
    some (.cvtf h (f.xb 4 4) (f.xb 1 3) (← f.cv))
  | 0x43 => do
    need (f.xb 5 3 == 0)
    some (.srnd h (f.xb 0 5) (← f.cv))
  | 0x44 => do
    need (!f.k && !f.sb && f.b == 0 && f.xb 0 3 == 0)
    let rm ← RM.ofCode (f.xb 8 3)
    some (.qblk h (f.xb 4 4) (f.x1 3) rm f.d f.a f.c)
  | 0x45 => do
    need (!f.k && f.c == 0 && f.xb 0 4 == 0)
    let rm ← RM.ofCode (f.xb 8 3)
    some (.dqblk h (f.xb 4 4) f.sb rm f.d f.a f.b)
  | 0x46 => do
    need (!f.k && !f.x1 3)
    let rm ← RM.ofCode (f.xb 8 3)
    some (.pack h (f.xb 4 4) (f.xb 0 3) f.sb rm f.d f.a f.b f.c)
  | 0x47 => do
    need (!f.k && !f.sb && f.b == 0 && f.c == 0 && f.xb 8 3 == 0 && !f.x1 3)
    some (.unpack h (f.xb 4 4) (f.xb 0 3) f.d f.a)
  | 0x48 => do
    let (z, d, a) ← f.sf
    some (.rcp h z d a)
  | 0x49 => do
    let (z, d, a) ← f.sf
    some (.rsq h z d a)
  | 0x4A => do
    let (z, d, a) ← f.sf
    some (.ex2 h z d a)
  | 0x4B => do
    let (z, d, a) ← f.sf
    some (.lg2 h z d a)
  | 0x4C => do
    let (z, d, a) ← f.sf
    some (.sin h z d a)
  | 0x4D => do
    let (z, d, a) ← f.sf
    some (.cos h z d a)
  | 0x4E => do
    let (z, d, a) ← f.sf
    some (.tanh h z d a)
  | 0x4F => do
    let (z, d, a) ← f.sf
    some (.erf h z d a)
  | 0x50 => do
    need (f.k != f.sb && f.c == 0 && f.xb 1 10 == 0)
    let b ← sOf f.b
    some (.rng h f.k (f.x1 0) f.d f.a b)
  | 0x51 => do
    need (!f.k && f.xb 0 11 == 0)
    let c ← sOf f.c
    some (.drop h f.sb f.d f.a f.b c)
  | 0x52 => do
    need (!f.k && !f.sb && f.b == 0 && f.c == 0 && f.xb 3 8 == 0)
    let n ← BlkLen.ofCode (f.xb 0 2)
    some (.tqnt h (f.x1 2) n f.d f.a)
  | 0x53 => do
    need (!f.k && f.c == 0 && f.xb 4 7 == 0)
    some (.tdq h (f.x1 3) (f.xb 0 3) f.sb f.d f.a f.b)
  | _ => none

/-- Class 3 (R226 to R235): no scalar form, `SB` only on `SHFL`. -/
def decodeC3 (f : Fields) : Option Instr :=
  let h := f.hdr
  match f.op.toNat with
  | 0x60 => do
    need (!f.k && f.c == 0 && f.xb 3 5 == 0)
    some (.shfl h (ShflMode.ofCode (f.xb 0 2)) (f.x1 2) (f.xb 8 3) f.sb f.d f.a f.b)
  | 0x61 => do
    need (!f.k && !f.sb && f.b == 0 && f.c == 0 && !f.x1 7)
    some (.bcast h (f.x1 6) (f.xb 8 3) (f.xb 0 6) f.d f.a)
  | 0x62 => do
    need (!f.k && !f.sb && f.b == 0 && f.xb 3 4 == 0)
    let pa ← pOf f.a
    match (f.xb 0 2).toNat with
    | 3 => do
      need (f.c == 0 && f.xb 7 4 == 0)
      let d ← sOf f.d
      some (.vote h (f.x1 2) pa (.bits d))
    | n => do
      let pd ← pOf f.d
      let ls ← f.laneSet
      let op := match n with | 0 => VoteOp.every | 1 => VoteOp.some_ | _ => VoteOp.same
      some (.vote h (f.x1 2) pa (.set op pd ls))
  | 0x63 => do
    need (!f.k && !f.sb && f.b == 0 && f.c == 0 && f.xb 1 7 == 0)
    some (.mtch h (f.x1 0) (f.xb 8 3) f.d f.a)
  | 0x64 => do
    need (!f.k && !f.sb && f.b == 0 && f.xb 3 4 == 0)
    some (.redux h (RedOp.ofCode (f.xb 0 3)) (← f.laneSet) f.d f.a)
  | 0x65 => do
    need (!f.k && !f.sb && f.b == 0 && !f.x1 2)
    let op ← FRedOp.ofCode (f.xb 0 2)
    let rm ← RM.ofCode (f.xb 4 3)
    some (.fredux h op rm (f.x1 3) (← f.laneSet) f.d f.a)
  | 0x66 => do
    need (!f.k && !f.sb && f.b == 0 && f.xb 4 3 == 0)
    some (.scan h (RedOp.ofCode (f.xb 0 3)) (f.x1 3) (← f.laneSet) f.d f.a)
  | 0x67 => do
    need (!f.k && !f.sb && f.b == 0)
    let op ← FRedOp.ofCode (f.xb 0 2)
    let rm ← RM.ofCode (f.xb 4 3)
    some (.fscan h op rm (f.x1 3) (f.x1 2) (← f.laneSet) f.d f.a)
  | 0x68 => do
    need (f.c == 0 && f.xb 1 12 == 0)
    let d ← sOf f.d
    let b ← sOf f.b
    some (.rdlane h (f.x1 0) d f.a b)
  | 0x69 => do
    need (f.c == 0 && f.xb 1 12 == 0)
    let a ← sOf f.a
    let b ← sOf f.b
    some (.wrlane h (f.x1 0) f.d a b)
  | 0x6A => do
    need (f.xb 8 5 == 0)
    let pd ← pOf f.d
    let pa ← pOf f.a
    let pb ← pOf f.b
    let pc ← pOf f.c
    some (.plop h (f.xb 0 8) pd pa pb pc)
  | 0x6B => do
    need (f.xb 9 4 == 0 && !f.x1 7 && f.b == 0 && f.c == 0)
    if f.x1 8 then
      need (f.d == 0)
      some (.pmovTop h f.a (f.xb 0 7))
    else
      need (f.a == 0)
      some (.pmovTov h f.d (f.xb 0 7))
  | 0x6C => do
    need (!f.k && !f.sb && f.a == 0 && f.b == 0 && f.xb 0 7 == 0)
    let pd ← pOf f.d
    some (.elect h pd (← f.laneSet))
  | _ => none

/-- Class 4 (R137 to R155). -/
def decodeC4 (f : Fields) : Option Instr :=
  let h := f.hdr
  match f.op.toNat with
  | 0x80 => do some (.ldg h (← f.mem))
  | 0x81 => do some (.stg h (← f.mem))
  | 0x82 => do some (.lds h (← f.scr))
  | 0x83 => do some (.sts h (← f.scr))
  | 0x84 => do
    need (f.b == 0 && f.xb 4 6 == 0)
    let ty ← LdcTy.ofCode (f.xb 10 2)
    let a ← sOf f.a
    some (.ldc h (f.x1 12) ty f.d a f.off)
  | 0x85 => do
    need (f.xb 6 4 == 0)
    let o ← f.mem
    some (.ldl h o.ty o.hnt o.d o.a o.b o.off)
  | 0x86 => do
    need (f.xb 6 4 == 0)
    let o ← f.mem
    some (.stl h o.ty o.hnt o.d o.a o.b o.off)
  | 0x87 => do
    need (f.xb 0 6 == 0 && !f.x1 7 && f.xb 11 2 == 2)
    let a ← sOf f.a
    some (.ldp h (f.x1 10) (Scope.ofCode (f.xb 8 2)) (f.x1 6) .none f.d a f.b f.c)
  | 0x88 => do some (.ldv h (← f.mem))
  | 0x89 => do
    need (f.xb 2 6 == 0)
    let ty ← MTy.ofCode (f.xb 10 3)
    let sop ← StwsOp.ofCode (f.xb 0 2)
    let a ← sOf f.a
    let c ← sOf f.c
    some (.stws h ty (Scope.ofCode (f.xb 8 2)) sop f.d a f.b c)
  | 0x8A => do
    need (f.d == 0 && f.xb 4 6 == 0)
    let a ← sOf f.a
    need ((f.xb 10 3).toNat < 3)
    some (.prf h (f.xb 10 2) a f.b f.off)
  | 0x8B => do
    need (f.d == 0 && f.c == 0 && f.xb 3 10 == 0)
    let op ← CctlOp.ofCode (f.xb 0 3)
    let a ← sOf f.a
    let b ← sOf f.b
    some (.cctl h op a b)
  | 0x8C => do
    need (f.d == 0 && f.a == 0 && f.b == 0 && f.c == 0 && f.xb 10 3 == 0 && f.xb 0 6 == 0)
    some (.fence h (Ord4.ofCode (f.xb 6 2)) (Scope.ofCode (f.xb 8 2)))
  | 0x8D => do
    need (f.b == 0 && f.xb 4 2 == 0)
    let d ← sOf f.d
    let a ← sOf f.a
    some (.ldm h (f.xb 10 3) (Scope.ofCode (f.xb 8 2)) (Ord4.ofCode (f.xb 6 2)) d a f.off)
  | 0x8E => do
    need (f.b == 0 && f.xb 4 2 == 0)
    let d ← sOf f.d
    let a ← sOf f.a
    some (.stm h (f.xb 10 3) (Scope.ofCode (f.xb 8 2)) (Ord4.ofCode (f.xb 6 2)) d a f.off)
  | 0x8F => do
    need (f.c == 0 && f.xb 10 3 == 0 && f.xb 4 4 == 0 && !f.x1 2)
    let d ← sOf f.d
    let a ← sOf f.a
    let b ← sOf f.b
    some (.waitv h (WCmp.ofCode (f.xb 0 2)) (f.x1 3) (Scope.ofCode (f.xb 8 2)) d a b)
  | _ => none

/-- Class 5 (R107, R112, R263, R279, R283 to R286). -/
def decodeC5 (f : Fields) : Option Instr :=
  let h := f.hdr
  match f.op.toNat with
  | 0xA0 => do
    need (f.xb 0 4 == 0)
    some (.atom h (← AOp.ofCode (f.xb 9 4)) (← f.atm))
  | 0xA1 => do
    need (f.xb 0 4 == 0 && !f.x1 8)
    let fm ← AFmt.ofCode (f.xb 11 2)
    let op ← FRedOp.ofCode (f.xb 9 2)
    let a ← sOf f.a
    some (.atomf h fm op (Scope.ofCode (f.xb 6 2)) (Ord4.ofCode (f.xb 4 2)) f.d a f.b f.c)
  | 0xA2 => do
    need (f.xb 9 4 == 0 && f.xb 0 4 == 0)
    some (.cas h (← f.atm))
  | 0xA3 => do
    need (f.d == 0 && f.xb 0 4 == 0)
    let op ← AOp.ofCode (f.xb 9 4)
    let a ← sOf f.a
    some (.red h op (f.x1 8) (Scope.ofCode (f.xb 6 2)) (Ord4.ofCode (f.xb 4 2)) a f.b f.c)
  | 0xA4 => do
    need (f.d == 0 && f.xb 0 4 == 0 && !f.x1 8)
    let fm ← AFmt.ofCode (f.xb 11 2)
    let op ← FRedOp.ofCode (f.xb 9 2)
    let a ← sOf f.a
    some (.redf h fm op (Scope.ofCode (f.xb 6 2)) (Ord4.ofCode (f.xb 4 2)) a f.b f.c)
  | 0xA5 => do
    need (f.xb 6 2 == 0 && f.xb 0 3 == 0)
    let op ← ASOp.ofCode (f.xb 9 4)
    let a ← sOf f.a
    some (.atoms h op (f.x1 8) (f.x1 3) (Ord4.ofCode (f.xb 4 2)) f.d a f.b f.c)
  | 0xA6 => do
    need (f.xb 9 4 == 0 && f.xb 6 2 == 0 && f.xb 0 3 == 0)
    let a ← sOf f.a
    some (.cass h (f.x1 8) (f.x1 3) (Ord4.ofCode (f.xb 4 2)) f.d a f.b f.c)
  | 0xA7 => do
    need (f.xb 3 10 == 0)
    let ctl ← sOf f.d
    let dst ← sOf f.a
    let src ← sOf f.b
    let shp ← pOf f.c
    some (.cpy h (CpyDir.ofCode (f.xb 1 2)) (f.x1 0) dst src shp ctl)
  | 0xA8 => do
    need (f.xb 1 12 == 0)
    some (.offl h (f.x1 0) (← sOf f.a) (← sOf f.b) (← sOf f.c) (← sOf f.d))
  | 0xA9 => do
    need (f.xb 1 12 == 0)
    some (.rtrn h (f.x1 0) (← sOf f.a) (← sOf f.b) (← sOf f.c) (← sOf f.d))
  | 0xAA => do
    need (f.xb 3 10 == 0)
    some (.putr h f.rmods (← sOf f.a) (← sOf f.b) (← sOf f.c) (← sOf f.d))
  | 0xAB => do
    need (f.xb 3 10 == 0)
    some (.getr h f.rmods (← sOf f.a) (← sOf f.b) (← sOf f.c) (← sOf f.d))
  | 0xAC => do
    need (f.xb 5 8 == 0)
    let sop ← StwsOp.ofCode (f.xb 3 2)
    some (.puts h sop f.rmods (← sOf f.a) (← sOf f.b) (← sOf f.c) (← sOf f.d))
  | 0xAD => do
    need (f.c == 0 && f.x == 0)
    some (.append h f.d (← sOf f.a) f.b)
  | 0xAE => do
    need (f.xb 0 4 == 0 && f.xb 6 2 == 3)
    let op ← RAOp.ofCode (f.xb 9 4)
    let a ← sOf f.a
    some (.ratom h op (f.x1 8) (Ord4.ofCode (f.xb 4 2)) f.d a f.b f.c)
  | 0xAF => do
    need (f.c == 0 && f.xb 1 12 == 0)
    some (.coll h (f.x1 0) (← sOf f.a) (← sOf f.b) (← sOf f.d))
  | 0xB0 => do
    need (f.b == 0 && f.c == 0 && f.xb 1 12 == 0)
    some (.layx h (f.x1 0) (← sOf f.a) (← sOf f.d))
  | _ => none

/-- Class 6 (R248 to R260, R364, R380, R402, R436). -/
def decodeC6 (f : Fields) : Option Instr :=
  let h := f.hdr
  match f.op.toNat with
  | 0xC0 => do
    need (f.d == 0 && f.xb 8 5 == 0)
    if f.imm32 == 0 then some (.gangClr h) else some (.gang h f.imm32)
  | 0xC1 => do
    need (f.xb 7 6 == 0)
    let t ← tOf f.d
    let rc ← pOf f.a
    some (.mma h (f.x1 6) t rc (← sOf f.b) (← sOf f.c) (f.xb 0 6))
  | 0xC2 => do
    need (f.a == 0 && f.b == 0 && f.c == 0 && f.x == 0)
    some (.mfence h (← sOf f.d))
  | 0xC3 => do
    need (f.d == 0 && f.a == 0 && f.b == 0 && f.c == 0 && f.xb 5 8 == 0)
    if f.x1 4 then
      need (f.xb 0 4 == 0)
      some (.mwaitAll h)
    else some (.mwait h (f.xb 0 4))
  | 0xC4 => do
    need (f.a == 0 && f.b == 0 && f.c == 0 && f.x == 0)
    some (.accz h (← tOf f.d))
  | 0xC5 => do
    need (f.c == 0 && f.xb 3 10 == 0)
    some (.accrd h (f.xb 0 3) f.d (← tOf f.a) (← sOf f.b))
  | 0xC6 => do
    need (f.c == 0 && f.xb 3 10 == 0)
    some (.accwr h (f.xb 0 3) (← tOf f.d) f.a (← sOf f.b))
  | 0xC7 => do
    need (f.xb 9 4 == 0)
    let rm ← RM.ofCode (f.xb 5 3)
    some (.accq h (f.xb 0 4) (f.x1 4) rm (f.x1 8) (← tOf f.d) (← sOf f.a) (← sOf f.b) (← sOf f.c))
  | 0xC8 => do
    need (f.c == 0 && f.x == 0)
    some (.shape h (← pOf f.d) (← sOf f.a) (← sOf f.b))
  | 0xC9 => do
    need (f.b == 0 && f.c == 0 && f.xb 2 11 == 0)
    let m ← PhMode.ofCode (f.xb 0 2)
    some (.phjoin h m (← sOf f.d) (← sOf f.a))
  | 0xCA => do
    need (f.d == 0 && f.b == 0 && f.c == 0 && f.x == 0)
    some (.phdrop h (← sOf f.a))
  | 0xCB => do
    need (f.c == 0 && f.xb 2 11 == 0)
    some (.pharr h (Scope.ofCode (f.xb 0 2)) (← sOf f.d) (← sOf f.a) (← sOf f.b))
  | 0xCC => do
    need (f.c == 0 && f.xb 2 11 == 0)
    some (.phwait h (Scope.ofCode (f.xb 0 2)) (← sOf f.d) (← sOf f.a) (← sOf f.b))
  | 0xCD => do
    need (f.d == 0 && f.c == 0 && f.x == 0)
    some (.phexp h (← sOf f.a) (← sOf f.b))
  | 0xCE => do
    need (f.d == 0 && f.a == 0 && f.b == 0 && f.c == 0 && f.xb 3 10 == 0)
    some (.drain h (f.xb 0 3))
  | 0xCF => do
    need (f.d == 0 && f.a == 0 && f.b == 0 && f.xb 3 10 == 0)
    some (.bar h (f.xb 0 3) (← sOf f.c))
  | 0xD0 => do
    need (f.d == 0 && f.a == 0 && f.b == 0 && f.c == 0 && f.x == 0)
    some (.quies h)
  | 0xD1 => do
    need (f.d == 0 && f.a == 0 && f.b == 0 && f.c == 0 && f.x == 0)
    some (.grace h)
  | 0xD2 => do
    need (f.d == 0 && f.x == 0)
    some (.fallow h (← sOf f.a) (← sOf f.b) (← sOf f.c))
  | 0xD3 => do
    need (f.x == 0)
    some (.tokb h (← sOf f.d) (← sOf f.a) (← sOf f.b) (← sOf f.c))
  | 0xD4 => do
    need (f.d == 0 && f.c == 0 && f.xb 1 12 == 0)
    some (.vpub h (f.x1 0) (← sOf f.a) (← sOf f.b))
  | 0xD5 => do
    need (f.b == 0 && f.c == 0 && f.xb 1 12 == 0)
    some (.vreq h (f.x1 0) (← sOf f.d) (← sOf f.a))
  | 0xD6 => do
    need (f.a == 0 && f.b == 0 && f.c == 0 && f.xb 8 5 == 0)
    some (.trpop h (← sOf f.d) (f.xb 0 8))
  | 0xD7 => do
    need (f.d == 0 && f.b == 0 && f.c == 0 && f.xb 8 5 == 0)
    some (.trpsh h (← sOf f.a) (f.xb 0 8))
  | 0xD8 => do
    need (f.d == 0 && f.a == 0 && f.b == 0 && f.c == 0 && f.xb 3 10 == 0)
    some (.prog h (f.xb 0 3))
  | _ => none

/-- Class 7 (R349, R415). -/
def decodeC7 (f : Fields) : Option Instr :=
  let h := f.hdr
  let none4 := f.d == 0 && f.a == 0 && f.b == 0 && f.c == 0
  match f.op.toNat with
  | 0xE0 => do
    need (f.d == 0 && f.x == 0)
    some (.bra h f.off24)
  | 0xE1 => some (.brad h f.off24 (f.d ++ f.x))
  | 0xE2 => do
    need (none4 && f.x == 0)
    some (.join h)
  | 0xE3 => do
    need (none4 && f.xb 5 8 == 0)
    some (.brk h (f.xb 0 5))
  | 0xE4 => do
    need (f.d == 0 && f.c == 0 && f.x == 0)
    some (.brx h (← sOf f.a) f.b)
  | 0xE5 => do
    need (f.xb 1 12 == 0)
    let d ← sOf f.d
    if f.x1 0 then
      need (f.b == 0 && f.c == 0)
      some (.callR h (← sOf f.a) d)
    else some (.call h f.off24 d)
  | 0xE6 => do
    need (f.d == 0 && f.b == 0 && f.c == 0 && f.x == 0)
    some (.ret h (← sOf f.a))
  | 0xE7 => do
    need (none4 && f.x == 0)
    some (.yield h)
  | 0xE8 => do
    need (f.d == 0 && f.b == 0 && f.c == 0 && f.x == 0)
    some (.sleep h (← sOf f.a))
  | 0xE9 => do
    need (f.d == 0 && f.b == 0 && f.c == 0 && f.xb 1 12 == 0)
    let a ← sOf f.a
    if f.x1 0 then
      need (a == 63)
      some (.wakeAll h)
    else some (.wake h a)
  | 0xEA => do
    need (none4 && f.x == 0)
    some (.exit h)
  | 0xEB => do
    need (none4 && !f.x1 12)
    some (.trap h (f.xb 0 12))
  | 0xEC => do
    need (none4 && f.x == 0)
    some (.rte h)
  | 0xED => do
    need (none4 && !f.x1 12)
    some (.bkpt h (f.xb 0 12))
  | 0xEE => do
    need (f.a == 0 && f.b == 0 && f.c == 0)
    some (.csrr h (f.x1 12) f.d (f.xb 0 12))
  | 0xEF => do
    need (f.d == 0 && f.b == 0 && f.c == 0)
    some (.csrw h (f.x1 12) f.a (f.xb 0 12))
  | _ => none

/-- The reserved opcodes (R49). -/
def opcodeExists (op : BitVec 8) : Bool :=
  let n := op.toNat
  decide (n < 0x3B) || (decide (0x40 ≤ n) && decide (n < 0x54)) || (decide (0x60 ≤ n) && decide (n < 0x6D))
    || (decide (0x80 ≤ n) && decide (n < 0x90)) || (decide (0xA0 ≤ n) && decide (n < 0xB1))
    || (decide (0xC0 ≤ n) && decide (n < 0xD9)) || (decide (0xE0 ≤ n) && decide (n < 0xF0))

def decodeClass (f : Fields) (body : W64) : Option Instr :=
  match f.op.toNat / 32 with
  | 0 => decodeC0 f
  | 1 => decodeC1 f body
  | 2 => decodeC2 f
  | 3 => decodeC3 f
  | 4 => decodeC4 f
  | 5 => decodeC5 f
  | 6 => decodeC6 f
  | _ => decodeC7 f

/-- One half of a pair word (R36). -/
def halfOf (w : BitVec 29) : Half :=
  ⟨w.extractLsb' 22 7, w.extractLsb' 15 7, w.extractLsb' 8 7, w.extractLsb' 1 7, w.getLsbD 0⟩
def Half.toBits (h : Half) : BitVec 29 := h.op ++ h.d ++ h.a ++ h.b ++ BitVec.ofBool h.q

/-- Whether a word is the first word of an `XPR` (R35). -/
def isXprWord (w : W64) : Bool := !w.getLsbD 62 && w.extractLsb' 54 8 == 0x38

/-- Decode one Igyan instruction from its word and the word after it (R28, R36, R50, R51). -/
def decodeIgyan (w body : W64) : Except Reject Instr :=
  if w.getLsbD 62 then
    let i := Instr.pairWord (w.getLsbD 63) (w.extractLsb' 59 3) (w.getLsbD 58)
      (halfOf (w.extractLsb' 29 29)) (halfOf (w.extractLsb' 0 29))
    if i.wf then .ok i else .error .pair
  else
    let f := Fields.ofWord w
    if opcodeExists f.op then
      match decodeClass f body with
      | some i => if i.wf then .ok i else .error .operand
      | none => .error .operand
    else .error .opcode

/-! ### Fabric-processor words (R309, R312) -/

/-- The fields of a fabric word. -/
structure FxFields where
  op : BitVec 8
  a : BitVec 4
  b : BitVec 4
  c : BitVec 4
  imm : BitVec 44
  deriving DecidableEq, Repr

def FxFields.ofWord (w : W64) : FxFields :=
  ⟨w.extractLsb' 56 8, w.extractLsb' 52 4, w.extractLsb' 48 4, w.extractLsb' 44 4, w.extractLsb' 0 44⟩
def FxFields.toWord (f : FxFields) : W64 := f.op ++ f.a ++ f.b ++ f.c ++ f.imm

/-- The second operand of fabric arithmetic (R313). -/
def FxFields.op2 (f : FxFields) : Option FOp2 :=
  if f.imm.getLsbD 43 then
    if f.c == 0 then some (.imm (f.imm.extractLsb' 0 43)) else none
  else if f.imm == 0 then some (.reg f.c) else none

def decodeFxBody (f : FxFields) : Option Instr :=
  match f.op.toNat with
  | 0x00 => do
    need (f.a == 0 && f.b == 0 && f.c == 0 && f.imm == 0)
    some .fxNop
  | 0x01 => do
    need (f.b == 0)
    match f.c.toNat with
    | 0 => some (.fxLdi f.a f.imm)
    | 1 => do
      need (f.imm.extractLsb' 20 24 == 0)
      some (.fxLdiHi f.a (f.imm.extractLsb' 0 20))
    | _ => none
  | 0x02 => do some (.fxAdd f.a f.b (← f.op2))
  | 0x03 => do some (.fxSub f.a f.b (← f.op2))
  | 0x04 => do some (.fxAnd f.a f.b (← f.op2))
  | 0x05 => do some (.fxShl f.a f.b (← f.op2))
  | 0x06 => do some (.fxCmpb (← FCond.ofCode f.c) f.a f.b f.imm)
  | 0x07 => do
    need (f.a == 0 && f.b == 0 && f.c == 0)
    some (.fxJmp f.imm)
  | 0x08 => do
    need (f.b == 0 && f.c == 0)
    some (.fxLoop f.a f.imm)
  | 0x09 => do
    need (f.imm.extractLsb' 2 42 == 0)
    some (.fxWaitm (WCmp.ofCode (f.imm.extractLsb' 0 2)) f.a f.b f.c)
  | 0x0A => do
    need (f.c == 0 && f.imm.extractLsb' 1 43 == 0)
    some (.fxSigm (f.imm.getLsbD 0) f.a f.b)
  | 0x0B => do
    need (f.imm == 0)
    some (.fxLoadc f.a f.b f.c)
  | 0x0C => do
    need (f.imm == 0)
    some (.fxStorec f.a f.b f.c)
  | 0x0D => do
    need (f.imm == 0)
    some (.fxSend f.a f.b f.c)
  | 0x0E => do
    need (f.imm == 0)
    some (.fxRecv f.a f.b f.c)
  | 0x0F => do
    need (f.imm.extractLsb' 3 41 == 0)
    some (.fxDec (f.imm.getLsbD 2) (← BlkLen.ofCode (f.imm.extractLsb' 0 2)) f.a f.b f.c)
  | 0x10 => do
    need (f.imm.extractLsb' 3 41 == 0)
    some (.fxEnc (f.imm.getLsbD 2) (← BlkLen.ofCode (f.imm.extractLsb' 0 2)) f.a f.b f.c)
  | 0x11 => do
    need (f.imm.extractLsb' 1 43 == 0)
    some (.fxAddb (f.imm.getLsbD 0) f.a f.b f.c)
  | 0x12 => do
    need (f.b == 0 && f.imm.extractLsb' 1 43 == 0)
    some (.fxSqacc (f.imm.getLsbD 0) f.a f.c)
  | 0x13 => do
    need (f.imm == 0)
    some (.fxNormx f.a f.b f.c)
  | 0x14 =>
    match f.imm.toNat with
    | 0 => some (.fxGlnClm f.a f.b f.c)
    | 1 => some (.fxGlnAdd f.a f.b f.c)
    | 2 => some (.fxGlnSt f.a f.b f.c)
    | 3 => do
      need (f.a == 0 && f.b == 0 && f.c == 0)
      some .fxGlnHop
    | 4 => do
      need (f.a == 0 && f.b == 0 && f.c == 0)
      some .fxGlnRel
    | 5 => some (.fxGlnRsm f.a f.b f.c)
    | _ => none
  | 0x15 => do
    need (f.b == 0 && f.c == 0 && f.imm.extractLsb' 9 35 == 0)
    if f.imm.getLsbD 8 then
      need (f.imm.extractLsb' 0 8 == 0)
      some (.fxCkptLd f.a)
    else some (.fxCkptSv f.a (f.imm.extractLsb' 0 8))
  | 0x16 => do
    need (f.imm == 0)
    some (.fxTrig f.a f.b f.c)
  | 0x17 => do
    need (f.a == 0 && f.b == 0 && f.c == 0 && f.imm == 0)
    some .fxHalt
  | _ => none

/-- Decode a fabric-processor word (R309). -/
def decodeFx (w : W64) : Except Reject Instr :=
  let f := FxFields.ofWord w
  if f.op.toNat < 0x18 then
    match decodeFxBody f with
    | some i => .ok i
    | none => .error .operand
  else .error .opcode

/-! ### Sieve words (R431) -/

def decodeSieve (w : W32) : Option Instr :=
  let d := w.extractLsb' 23 3
  let a := w.extractLsb' 20 3
  let i := w.extractLsb' 0 20
  match (w.extractLsb' 26 6).toNat with
  | 0x00 => some (.sieveLdf d a i)
  | 0x01 => do
    need (a == 0)
    some (.sieveLdi d i)
  | 0x02 => some (.sieveAdd d a i)
  | 0x03 => some (.sieveSub d a i)
  | 0x04 => some (.sieveAnd d a i)
  | 0x05 => some (.sieveOr d a i)
  | 0x06 => some (.sieveXor d a i)
  | 0x07 => some (.sieveShr d a i)
  | 0x08 => some (.sieveShl d a i)
  | 0x09 => some (.sieveJeq d a i)
  | 0x0A => some (.sieveJne d a i)
  | 0x0B => some (.sieveJlt d a i)
  | 0x0C => do
    need (d == 0 && a == 0 && i == 0)
    some .sieveKeep
  | 0x0D => do
    need (d == 0 && a == 0 && i == 0)
    some .sieveDrop
  | 0x0E => some (.sieveCnt d a i)
  | 0x0F => do
    need (a == 0 && i == 0 && !d.getLsbD 2)
    some (.sieveTrig (d.setWidth 2))
  | 0x10 => do
    need (!d.getLsbD 2)
    some (.sieveHist (d.setWidth 2) a i)
  | _ => none

/-! ### Words of the opcode table -/

/-- The instruction whose bits are `w`, the first `nbits` of them given (bit 0 the least significant of the first word).
Words of 32 bits are sieve words, the only rows the table gives bits; every other length is an Igyan instruction, whose
second word stands in bits 127 to 64. -/
def decodeTableWord (nbits w : Nat) : Option Instr :=
  if nbits = 32 then decodeSieve (BitVec.ofNat 32 w)
  else
    match decodeIgyan (BitVec.ofNat 64 w) (BitVec.ofNat 64 (w / 2 ^ 64)) with
    | .ok i => some i
    | .error _ => none

/-! ### The encoder -/

/-- The words of an instruction, by instruction set. -/
inductive Words
  | none
  | igyan (w : W64)
  | igyan2 (w body : W64)
  | fabric (w : W64)
  | sieve (w : W32)
  deriving DecidableEq, Repr

/-- A single word from its header, opcode, register fields and `X`. -/
def enc1 (h : Hdr) (op : BitVec 8) (d a b c : BitVec 8) (x : BitVec 13) : Words :=
  .igyan (Fields.toWord ⟨h.e, op, d, a, b, c, h.pg, h.pn, h.q, h.la, x⟩)

/-- `X` of classes 0 to 3: `K`, `SB`, eleven own bits (R30). -/
def xKS (k sb : Bool) (r : BitVec 11) : BitVec 13 := BitVec.ofBool k ++ BitVec.ofBool sb ++ r
def b1 (b : Bool) : BitVec 1 := BitVec.ofBool b
/-- A narrow register field in its eight bits. -/
def r8 {n : Nat} (r : BitVec n) : BitVec 8 := r.setWidth 8

def encI2 (h : Hdr) (op : BitVec 8) (o : I2) : Words :=
  enc1 h op o.d o.a 0 0 (xKS o.k false (o.ty.code ++ 0#9))
def encI3 (h : Hdr) (op : BitVec 8) (o : I3) (own : BitVec 9 := 0) : Words :=
  enc1 h op o.d o.a o.b 0 (xKS o.k o.sb (o.ty.code ++ own))
def encI4 (h : Hdr) (op : BitVec 8) (o : I4) (own : BitVec 9 := 0) : Words :=
  enc1 h op o.d o.a o.b o.c (xKS o.k o.sb (o.ty.code ++ own))
def encShift (h : Hdr) (op : BitVec 8) (o : I2) (right : Bool) : ShAmt → Words
  | .imm n => enc1 h op o.d o.a 0 0 (xKS o.k false (o.ty.code ++ 0#1 ++ b1 right ++ 1#1 ++ n))
  | .reg sb b => enc1 h op o.d o.a b 0 (xKS o.k sb (o.ty.code ++ 0#1 ++ b1 right ++ 0#1 ++ 0#6))
def encF2 (h : Hdr) (op : BitVec 8) (o : F2) (own : BitVec 7 := 0) : Words :=
  enc1 h op o.d o.a 0 0 (xKS o.k false (o.rm.code ++ b1 o.ftz ++ own))
def encF3 (h : Hdr) (op : BitVec 8) (o : F3) : Words :=
  enc1 h op o.d o.a o.b 0 (xKS o.k o.sb (o.rm.code ++ b1 o.ftz ++ 0#7))
def encF4 (h : Hdr) (op : BitVec 8) (o : F4) : Words :=
  enc1 h op o.d o.a o.b o.c (xKS o.k o.sb (o.rm.code ++ b1 o.ftz ++ 0#7))
def encCv (h : Hdr) (op : BitVec 8) (o : Cv) (own : BitVec 8) : Words :=
  enc1 h op o.d o.a 0 o.r (xKS o.k false (o.rm.code ++ own))
def encSf (h : Hdr) (op : BitVec 8) (ftz : Bool) (d a : Reg) : Words :=
  enc1 h op d a 0 0 (0#5 ++ b1 ftz ++ 0#7)
def LaneSet.c : LaneSet → BitVec 8
  | .sub _ => 0
  | .mask c => c
/-- `SG` and `MSK` (R226). -/
def LaneSet.bits : LaneSet → BitVec 4
  | .sub sg => sg ++ 0#1
  | .mask _ => 1#4
def encMem (h : Hdr) (op : BitVec 8) (o : MemOp) : Words :=
  enc1 h op o.d (r8 o.a) o.b (o.off.extractLsb' 4 8)
    (o.ty.code ++ o.sc.code ++ o.ord.code ++ o.hnt.code ++ o.off.extractLsb' 0 4)
def encScr (h : Hdr) (op : BitVec 8) (o : ScrOp) : Words :=
  enc1 h op o.d (r8 o.a) o.b (o.off.extractLsb' 4 8)
    (o.ty.code ++ b1 o.swz ++ 0#1 ++ o.ord.code ++ 0#2 ++ o.off.extractLsb' 0 4)
def encLocal (h : Hdr) (op : BitVec 8) (ty : MTy) (hnt : Hint) (d : Reg) (a : SReg) (b : Reg) (off : BitVec 12) : Words :=
  enc1 h op d (r8 a) b (off.extractLsb' 4 8) (ty.code ++ 0#4 ++ hnt.code ++ off.extractLsb' 0 4)
def encMulti (h : Hdr) (op : BitVec 8) (n : BitVec 3) (sc : Scope) (o : Ord4) (d a : SReg) (off : BitVec 12) : Words :=
  enc1 h op (r8 d) (r8 a) 0 (off.extractLsb' 4 8) (n ++ sc.code ++ o.code ++ 0#2 ++ off.extractLsb' 0 4)
def encAtm (h : Hdr) (op : BitVec 8) (opc : BitVec 4) (o : Atm) : Words :=
  enc1 h op o.d (r8 o.a) o.b o.c (opc ++ b1 o.w64 ++ o.sc.code ++ o.ord.code ++ 0#4)
def encAtmF (h : Hdr) (op : BitVec 8) (fm : AFmt) (o : FRedOp) (sc : Scope) (ord : Ord4) (d : Reg) (a : SReg) (b c : Reg) :
    Words := enc1 h op d (r8 a) b c (fm.code ++ o.code ++ 0#1 ++ sc.code ++ ord.code ++ 0#4)
def encR4 (h : Hdr) (op : BitVec 8) (d a b c : SReg) (x : BitVec 13) : Words :=
  enc1 h op (r8 d) (r8 a) (r8 b) (r8 c) x
def RMods.bits (m : RMods) : BitVec 3 := b1 m.rod ++ b1 m.trig ++ b1 m.np
def FOp2.c : FOp2 → BitVec 4
  | .reg c => c
  | .imm _ => 0
def FOp2.immBits : FOp2 → BitVec 44
  | .reg _ => 0
  | .imm i => 1#1 ++ i
def encFx (op : BitVec 8) (a b c : BitVec 4) (imm : BitVec 44) : Words := .fabric (FxFields.toWord ⟨op, a, b, c, imm⟩)
def encSv (op : BitVec 6) (d a : BitVec 3) (i : BitVec 20) : Words := .sieve (op ++ d ++ a ++ i)
/-- The offset of an `F3` form in fields A, B and C. -/
def encF3off (h : Hdr) (op : BitVec 8) (off : BitVec 24) (d : BitVec 8) (x : BitVec 13) : Words :=
  enc1 h op d (off.extractLsb' 16 8) (off.extractLsb' 8 8) (off.extractLsb' 0 8) x
def encImm32 (h : Hdr) (op : BitVec 8) (d : BitVec 8) (imm : W32) (top : BitVec 5) : Words :=
  enc1 h op d (imm.extractLsb' 24 8) (imm.extractLsb' 16 8) (imm.extractLsb' 8 8) (top ++ imm.extractLsb' 0 8)

/-- The words of a well-formed instruction. -/
def encode : Instr → Words
  | .nop h => enc1 h 0x00 0 0 0 0 0
  | .mov h o => encI2 h 0x01 o
  | .movi h f d imm => encImm32 h 0x02 d imm (match f with | .vec => 0 | .sx => 16 | .zx => 18 | .hi => 20)
  | .iadd h o => encI3 h 0x03 o
  | .isub h o => encI3 h 0x04 o
  | .iaddi h o imm =>
    enc1 h 0x05 o.d o.a (imm.extractLsb' 8 8) (imm.extractLsb' 0 8) (xKS o.k false (o.ty.code ++ 0#9))
  | .imul h o => encI3 h 0x06 o
  | .imulh h o => encI3 h 0x07 o
  | .imad h o => encI4 h 0x08 o
  | .idiv h o => encI3 h 0x09 o
  | .irem h o => encI3 h 0x0A o
  | .imin h o => encI3 h 0x0B o
  | .imax h o => encI3 h 0x0C o
  | .iabs h o => encI2 h 0x0D o
  | .ineg h o => encI2 h 0x0E o
  | .isadd h sub o => encI3 h 0x0F o (0#8 ++ b1 sub)
  | .lop3 h lut o => encI4 h 0x10 o (0#1 ++ lut)
  | .andB h o => encI3 h 0x11 o
  | .orB h o => encI3 h 0x12 o
  | .xorB h o => encI3 h 0x13 o
  | .shl h o n => encShift h 0x14 o false n
  | .shr h o n => encShift h 0x15 o false n
  | .sar h o n => encShift h 0x16 o false n
  | .rot h right o n => encShift h 0x17 o right n
  | .bfx h o => encI3 h 0x18 o
  | .bfi h o => encI4 h 0x19 o
  | .popc h o => encI2 h 0x1A o
  | .clz h o => encI2 h 0x1B o
  | .brev h o => encI2 h 0x1C o
  | .icmp h k sb ty cmp bop pd a b pc =>
    enc1 h 0x1D (r8 pd) a b (r8 pc) (xKS k sb (ty.code ++ 0#4 ++ bop.code ++ cmp.code))
  | .sel h sb ty d a b pc => enc1 h 0x1E d a b (r8 pc) (xKS false sb (ty.code ++ 0#9))
  | .lea h k sb sx sh d a b => enc1 h 0x1F d a b 0 (xKS k sb (0#7 ++ b1 sx ++ sh))
  | .fadd h o => encF3 h 0x20 o
  | .fsub h o => encF3 h 0x21 o
  | .fmul h o => encF3 h 0x22 o
  | .ffma h o => encF4 h 0x23 o
  | .ffms h o => encF4 h 0x24 o
  | .fmin h k sb ftz d a b => enc1 h 0x25 d a b 0 (xKS k sb (0#3 ++ b1 ftz ++ 0#7))
  | .fmax h k sb ftz d a b => enc1 h 0x26 d a b 0 (xKS k sb (0#3 ++ b1 ftz ++ 0#7))
  | .fabs h k d a => enc1 h 0x27 d a 0 0 (xKS k false 0)
  | .fneg h k d a => enc1 h 0x28 d a 0 0 (xKS k false 0)
  | .fcmp h k sb ftz cmp bop pd a b pc =>
    enc1 h 0x29 (r8 pd) a b (r8 pc) (xKS k sb (0#3 ++ b1 ftz ++ 0#2 ++ bop.code ++ cmp.code))
  | .fclass h k d a => enc1 h 0x2A d a 0 0 (xKS k false 0)
  | .frnd h o => encF2 h 0x2B o
  | .fscale h o => encF3 h 0x2C o
  | .fdiv h o => encF3 h 0x2D o
  | .fsqrt h o => encF2 h 0x2E o
  | .fsign h k sb op d a b => enc1 h 0x2F d a b 0 (xKS k sb (0#9 ++ op.code))
  | .badd2 h o => encF3 h 0x30 o
  | .bmul2 h o => encF3 h 0x31 o
  | .bfma2 h o => encF4 h 0x32 o
  | .bmin2 h o => encF3 h 0x33 o
  | .bmax2 h o => encF3 h 0x34 o
  | .hadd2 h o => encF3 h 0x35 o
  | .hmul2 h o => encF3 h 0x36 o
  | .hfma2 h o => encF4 h 0x37 o
  | .xpr h o bodyE toks =>
    match encF4 h 0x38 o with
    | .igyan w => .igyan2 w (b1 bodyE ++ 0#3 ++ toks)
    | w => w
  | .lscale h dv bf2 o => encF2 h 0x39 o (0#5 ++ b1 bf2 ++ b1 dv)
  | .ovf h op bf2 d a => enc1 h 0x3A d a 0 0 (0#10 ++ b1 bf2 ++ op.code)
  | .cvt h df sf o => encCv h 0x40 o (df ++ sf)
  | .cvti h it sf o => encCv h 0x41 o (it ++ 0#1 ++ sf)
  | .cvtf h df it o => encCv h 0x42 o (df ++ it ++ 0#1)
  | .srnd h n o => encCv h 0x43 o (0#3 ++ n)
  | .qblk h df bl32 rm d a r => enc1 h 0x44 d a 0 r (0#2 ++ rm.code ++ df ++ b1 bl32 ++ 0#3)
  | .dqblk h sf sb rm d a b => enc1 h 0x45 d a b 0 (0#1 ++ b1 sb ++ rm.code ++ sf ++ 0#4)
  | .pack h df pos sb rm d a b r => enc1 h 0x46 d a b r (0#1 ++ b1 sb ++ rm.code ++ df ++ 0#1 ++ pos)
  | .unpack h sf pos d a => enc1 h 0x47 d a 0 0 (0#5 ++ sf ++ 0#1 ++ pos)
  | .rcp h z d a => encSf h 0x48 z d a
  | .rsq h z d a => encSf h 0x49 z d a
  | .ex2 h z d a => encSf h 0x4A z d a
  | .lg2 h z d a => encSf h 0x4B z d a
  | .sin h z d a => encSf h 0x4C z d a
  | .cos h z d a => encSf h 0x4D z d a
  | .tanh h z d a => encSf h 0x4E z d a
  | .erf h z d a => encSf h 0x4F z d a
  | .rng h k w64 d a b => enc1 h 0x50 d a (r8 b) 0 (b1 k ++ b1 (!k) ++ 0#10 ++ b1 w64)
  | .drop h sb d a b c => enc1 h 0x51 d a b (r8 c) (0#1 ++ b1 sb ++ 0#11)
  | .tqnt h sign n d a => enc1 h 0x52 d a 0 0 (0#10 ++ b1 sign ++ n.code)
  | .tdq h sign pos sb d a b => enc1 h 0x53 d a b 0 (0#1 ++ b1 sb ++ 0#7 ++ b1 sign ++ pos)
  | .shfl h m w64 sg sb d a b => enc1 h 0x60 d a b 0 (0#1 ++ b1 sb ++ sg ++ 0#5 ++ b1 w64 ++ m.code)
  | .bcast h w64 sg n d a => enc1 h 0x61 d a 0 0 (0#2 ++ sg ++ 0#1 ++ b1 w64 ++ n)
  | .vote h neg pa (.bits d) => enc1 h 0x62 (r8 d) (r8 pa) 0 0 (0#10 ++ b1 neg ++ 3#2)
  | .vote h neg pa (.set op pd ls) =>
    enc1 h 0x62 (r8 pd) (r8 pa) 0 ls.c
      (0#2 ++ ls.bits ++ 0#4 ++ b1 neg ++ (match op with | .every => 0#2 | .some_ => 1#2 | .same => 2#2))
  | .mtch h w64 sg d a => enc1 h 0x63 d a 0 0 (0#2 ++ sg ++ 0#7 ++ b1 w64)
  | .redux h op ls d a => enc1 h 0x64 d a 0 ls.c (0#2 ++ ls.bits ++ 0#4 ++ op.code)
  | .fredux h op rm ftz ls d a =>
    enc1 h 0x65 d a 0 ls.c (0#2 ++ ls.bits ++ rm.code ++ b1 ftz ++ 0#1 ++ op.code)
  | .scan h op ex ls d a => enc1 h 0x66 d a 0 ls.c (0#2 ++ ls.bits ++ 0#3 ++ b1 ex ++ op.code)
  | .fscan h op rm ftz ex ls d a =>
    enc1 h 0x67 d a 0 ls.c (0#2 ++ ls.bits ++ rm.code ++ b1 ftz ++ b1 ex ++ op.code)
  | .rdlane h w64 d a b => enc1 h 0x68 (r8 d) a (r8 b) 0 (0#12 ++ b1 w64)
  | .wrlane h w64 d a b => enc1 h 0x69 d (r8 a) (r8 b) 0 (0#12 ++ b1 w64)
  | .plop h lut pd pa pb pc => enc1 h 0x6A (r8 pd) (r8 pa) (r8 pb) (r8 pc) (0#5 ++ lut)
  | .pmovTov h d mask => enc1 h 0x6B d 0 0 0 (0#6 ++ mask)
  | .pmovTop h a mask => enc1 h 0x6B 0 a 0 0 (0#4 ++ 1#1 ++ 0#1 ++ mask)
  | .elect h pd ls => enc1 h 0x6C (r8 pd) 0 0 ls.c (0#2 ++ ls.bits ++ 0#7)
  | .ldg h o => encMem h 0x80 o
  | .stg h o => encMem h 0x81 o
  | .lds h o => encScr h 0x82 o
  | .sts h o => encScr h 0x83 o
  | .ldc h s ty d a off =>
    enc1 h 0x84 d (r8 a) 0 (off.extractLsb' 4 8) (b1 s ++ ty.code ++ 0#6 ++ off.extractLsb' 0 4)
  | .ldl h ty hnt d a b off => encLocal h 0x85 ty hnt d a b off
  | .stl h ty hnt d a b off => encLocal h 0x86 ty hnt d a b off
  | .ldp h w64 sc acq _ d a b c => enc1 h 0x87 d (r8 a) b c (2#2 ++ b1 w64 ++ sc.code ++ 0#1 ++ b1 acq ++ 0#6)
  | .ldv h o => encMem h 0x88 o
  | .stws h ty sc sop d a b c => enc1 h 0x89 d (r8 a) b (r8 c) (ty.code ++ sc.code ++ 0#6 ++ sop.code)
  | .prf h lvl a b off => enc1 h 0x8A 0 (r8 a) b (off.extractLsb' 4 8) (0#1 ++ lvl ++ 0#6 ++ off.extractLsb' 0 4)
  | .cctl h op a b => enc1 h 0x8B 0 (r8 a) (r8 b) 0 (0#10 ++ op.code)
  | .fence h o sc => enc1 h 0x8C 0 0 0 0 (0#3 ++ sc.code ++ o.code ++ 0#6)
  | .ldm h n sc o d a off => encMulti h 0x8D n sc o d a off
  | .stm h n sc o d a off => encMulti h 0x8E n sc o d a off
  | .waitv h cmp w32 sc d a b =>
    enc1 h 0x8F (r8 d) (r8 a) (r8 b) 0 (0#3 ++ sc.code ++ 0#4 ++ b1 w32 ++ 0#1 ++ cmp.code)
  | .atom h op o => encAtm h 0xA0 op.code o
  | .atomf h fm op sc ord d a b c => encAtmF h 0xA1 fm op sc ord d a b c
  | .cas h o => encAtm h 0xA2 0 o
  | .red h op w64 sc ord a b c => encAtm h 0xA3 op.code ⟨w64, sc, ord, 0, a, b, c⟩
  | .redf h fm op sc ord a b c => encAtmF h 0xA4 fm op sc ord 0 a b c
  | .atoms h op w64 swz ord d a b c =>
    enc1 h 0xA5 d (r8 a) b c (op.code ++ b1 w64 ++ 0#2 ++ ord.code ++ b1 swz ++ 0#3)
  | .cass h w64 swz ord d a b c => enc1 h 0xA6 d (r8 a) b c (0#4 ++ b1 w64 ++ 0#2 ++ ord.code ++ b1 swz ++ 0#3)
  | .cpy h dir np dst src shp ctl =>
    enc1 h 0xA7 (r8 ctl) (r8 dst) (r8 src) (r8 shp) (0#10 ++ dir.code ++ b1 np)
  | .offl h np loc rem len ctl => encR4 h 0xA8 ctl loc rem len (0#12 ++ b1 np)
  | .rtrn h np loc rem len ctl => encR4 h 0xA9 ctl loc rem len (0#12 ++ b1 np)
  | .putr h m r l len ctl => encR4 h 0xAA ctl r l len (0#10 ++ m.bits)
  | .getr h m r l len ctl => encR4 h 0xAB ctl r l len (0#10 ++ m.bits)
  | .puts h sop m r l len ctl => encR4 h 0xAC ctl r l len (0#8 ++ sop.code ++ m.bits)
  | .append h d a b => enc1 h 0xAD d (r8 a) b 0 0
  | .ratom h op w64 ord d a b c => enc1 h 0xAE d (r8 a) b c (op.code ++ b1 w64 ++ 3#2 ++ ord.code ++ 0#4)
  | .coll h np pg arg ctl => encR4 h 0xAF ctl pg arg 0 (0#12 ++ b1 np)
  | .layx h np desc ctl => encR4 h 0xB0 ctl desc 0 0 (0#12 ++ b1 np)
  | .gang h imm => encImm32 h 0xC0 0 imm 0
  | .gangClr h => encImm32 h 0xC0 0 0 0
  | .mma h za t rc bb shp sf => enc1 h 0xC1 (r8 t) (r8 rc) (r8 bb) (r8 shp) (0#6 ++ b1 za ++ sf)
  | .mfence h d => enc1 h 0xC2 (r8 d) 0 0 0 0
  | .mwait h n => enc1 h 0xC3 0 0 0 0 (0#9 ++ n)
  | .mwaitAll h => enc1 h 0xC3 0 0 0 0 16
  | .accz h t => enc1 h 0xC4 (r8 t) 0 0 0 0
  | .accrd h nr d t b => enc1 h 0xC5 d (r8 t) (r8 b) 0 (0#10 ++ nr)
  | .accwr h nr t a b => enc1 h 0xC6 (r8 t) a (r8 b) 0 (0#10 ++ nr)
  | .accq h df bl16 rm g t a b c =>
    enc1 h 0xC7 (r8 t) (r8 a) (r8 b) (r8 c) (0#4 ++ b1 g ++ rm.code ++ b1 bl16 ++ df)
  | .shape h d a b => enc1 h 0xC8 (r8 d) (r8 a) (r8 b) 0 0
  | .phjoin h m d a => enc1 h 0xC9 (r8 d) (r8 a) 0 0 (0#11 ++ m.code)
  | .phdrop h a => enc1 h 0xCA 0 (r8 a) 0 0 0
  | .pharr h sc d a b => enc1 h 0xCB (r8 d) (r8 a) (r8 b) 0 (0#11 ++ sc.code)
  | .phwait h sc d a b => enc1 h 0xCC (r8 d) (r8 a) (r8 b) 0 (0#11 ++ sc.code)
  | .phexp h a b => enc1 h 0xCD 0 (r8 a) (r8 b) 0 0
  | .drain h m => enc1 h 0xCE 0 0 0 0 (0#10 ++ m)
  | .bar h id c => enc1 h 0xCF 0 0 0 (r8 c) (0#10 ++ id)
  | .quies h => enc1 h 0xD0 0 0 0 0 0
  | .grace h => enc1 h 0xD1 0 0 0 0 0
  | .fallow h a b c => enc1 h 0xD2 0 (r8 a) (r8 b) (r8 c) 0
  | .tokb h d a b c => enc1 h 0xD3 (r8 d) (r8 a) (r8 b) (r8 c) 0
  | .vpub h hold a b => enc1 h 0xD4 0 (r8 a) (r8 b) 0 (0#12 ++ b1 hold)
  | .vreq h own d a => enc1 h 0xD5 (r8 d) (r8 a) 0 0 (0#12 ++ b1 own)
  | .trpop h d t => enc1 h 0xD6 (r8 d) 0 0 0 (0#5 ++ t)
  | .trpsh h a t => enc1 h 0xD7 0 (r8 a) 0 0 (0#5 ++ t)
  | .prog h k => enc1 h 0xD8 0 0 0 0 (0#10 ++ k)
  | .bra h off => encF3off h 0xE0 off 0 0
  | .brad h off rej => encF3off h 0xE1 off (rej.extractLsb' 13 8) (rej.extractLsb' 0 13)
  | .join h => enc1 h 0xE2 0 0 0 0 0
  | .brk h n => enc1 h 0xE3 0 0 0 0 (0#8 ++ n)
  | .brx h a b => enc1 h 0xE4 0 (r8 a) b 0 0
  | .call h off d => encF3off h 0xE5 off (r8 d) 0
  | .callR h a d => enc1 h 0xE5 (r8 d) (r8 a) 0 0 1
  | .ret h a => enc1 h 0xE6 0 (r8 a) 0 0 0
  | .yield h => enc1 h 0xE7 0 0 0 0 0
  | .sleep h a => enc1 h 0xE8 0 (r8 a) 0 0 0
  | .wake h a => enc1 h 0xE9 0 (r8 a) 0 0 0
  | .wakeAll h => enc1 h 0xE9 0 63 0 0 1
  | .exit h => enc1 h 0xEA 0 0 0 0 0
  | .trap h n => enc1 h 0xEB 0 0 0 0 (0#1 ++ n)
  | .rte h => enc1 h 0xEC 0 0 0 0 0
  | .bkpt h n => enc1 h 0xED 0 0 0 0 (0#1 ++ n)
  | .csrr h s d csr => enc1 h 0xEE d 0 0 0 (b1 s ++ csr)
  | .csrw h s a csr => enc1 h 0xEF 0 a 0 0 (b1 s ++ csr)
  | .pairWord e pg pn h0 h1 => .igyan (b1 e ++ 1#1 ++ pg ++ b1 pn ++ h0.toBits ++ h1.toBits)
  | .fxNop => encFx 0x00 0 0 0 0
  | .fxLdi a imm => encFx 0x01 a 0 0 imm
  | .fxLdiHi a imm => encFx 0x01 a 0 1 (0#24 ++ imm)
  | .fxAdd a b c => encFx 0x02 a b c.c c.immBits
  | .fxSub a b c => encFx 0x03 a b c.c c.immBits
  | .fxAnd a b c => encFx 0x04 a b c.c c.immBits
  | .fxShl a b c => encFx 0x05 a b c.c c.immBits
  | .fxCmpb c a b off => encFx 0x06 a b c.code off
  | .fxJmp off => encFx 0x07 0 0 0 off
  | .fxLoop a off => encFx 0x08 a 0 0 off
  | .fxWaitm c a b d => encFx 0x09 a b d (0#42 ++ c.code)
  | .fxSigm set a b => encFx 0x0A a b 0 (0#43 ++ b1 set)
  | .fxLoadc a b c => encFx 0x0B a b c 0
  | .fxStorec a b c => encFx 0x0C a b c 0
  | .fxSend a b c => encFx 0x0D a b c 0
  | .fxRecv a b c => encFx 0x0E a b c 0
  | .fxDec sign n a b c => encFx 0x0F a b c (0#41 ++ b1 sign ++ n.code)
  | .fxEnc sign n a b c => encFx 0x10 a b c (0#41 ++ b1 sign ++ n.code)
  | .fxAddb bf a b c => encFx 0x11 a b c (0#43 ++ b1 bf)
  | .fxSqacc bf a c => encFx 0x12 a 0 c (0#43 ++ b1 bf)
  | .fxNormx a b c => encFx 0x13 a b c 0
  | .fxGlnClm a b c => encFx 0x14 a b c 0
  | .fxGlnAdd a b c => encFx 0x14 a b c 1
  | .fxGlnSt a b c => encFx 0x14 a b c 2
  | .fxGlnHop => encFx 0x14 0 0 0 3
  | .fxGlnRel => encFx 0x14 0 0 0 4
  | .fxGlnRsm a b c => encFx 0x14 a b c 5
  | .fxCkptSv a mask => encFx 0x15 a 0 0 (0#36 ++ mask)
  | .fxCkptLd a => encFx 0x15 a 0 0 0x100
  | .fxTrig a b c => encFx 0x16 a b c 0
  | .fxHalt => encFx 0x17 0 0 0 0
  | .sieveLdf d a i => encSv 0x00 d a i
  | .sieveLdi d i => encSv 0x01 d 0 i
  | .sieveAdd d a i => encSv 0x02 d a i
  | .sieveSub d a i => encSv 0x03 d a i
  | .sieveAnd d a i => encSv 0x04 d a i
  | .sieveOr d a i => encSv 0x05 d a i
  | .sieveXor d a i => encSv 0x06 d a i
  | .sieveShr d a i => encSv 0x07 d a i
  | .sieveShl d a i => encSv 0x08 d a i
  | .sieveJeq d a i => encSv 0x09 d a i
  | .sieveJne d a i => encSv 0x0A d a i
  | .sieveJlt d a i => encSv 0x0B d a i
  | .sieveKeep => encSv 0x0C 0 0 0
  | .sieveDrop => encSv 0x0D 0 0 0
  | .sieveCnt d a i => encSv 0x0E d a i
  | .sieveTrig d => encSv 0x0F (0#1 ++ d) 0 0
  | .sieveHist d a i => encSv 0x10 (0#1 ++ d) a i
  | _ => .none

/-- Read words back. -/
def decodeWords : Words → Option Instr
  | .none => Option.none
  | .igyan w => match decodeIgyan w 0 with | .ok i => some i | .error _ => Option.none
  | .igyan2 w b => match decodeIgyan w b with | .ok i => some i | .error _ => Option.none
  | .fabric w => match decodeFx w with | .ok i => some i | .error _ => Option.none
  | .sieve w => decodeSieve w

end Sys2Proof
end

