-- ==== Sys2Proof/Machine/Fetch.lean ====
section
/-! DEFINITION. Fetching and decoding the next instruction of a split, a fabric processor and a trace core (R26, R27, R35, R41,
R308, R309, R430). -/

namespace Sys2Proof.Machine

/-- What stands at an address for an instruction fetch. -/
inductive Fetched
  | word (w : W64)
  | wait (w : Why)
  | bad (f : FInfo)
  deriving DecidableEq, Repr

/-- One instruction word through instruction translation (R27, R84), read as its home slice holds it (log 12). -/
def State.fetchWord (s : State) (g : Group) (pc : W64) : State × Fetched :=
  let va := pc.toNat
  match s.xlate g.core g.ctx va with
  | (s, .bad f) => (s.dropFailed g.core g.ctx [va / 65536], .bad (flt (BitVec.ofNat 8 f.1) f.2 pc 0))
  | (s, .wait) => (s, .wait (.walk g.ctx (va / 65536)))
  | (s, .hit e) =>
    match s.permit .x e with
    | some f => (s, .bad (flt (BitVec.ofNat 8 f.1) f.2 pc 0))
    | none =>
      if s.keyLoad.contains e.key then (s, .wait (.keyLoad e.key))
      else if e.ofs = 2 then (s, .bad (flt fcOffloaded 0 pc 0))
      else if offWait .x e then (s, .wait (.page g.ctx va false))
      else if s.unbacked (e.at_ va) || s.homePoison (e.at_ va) then (s, .bad (flt fcMemory 0 pc 0))
      else (s, .word (BitVec.ofNat 64 (natOf (s.homeBytes e.key (e.at_ va) 8))))

/-- What a fetch and decode give. -/
inductive Next
  | instr (i : Instr)
  | forced
  | wait (w : Why)
  | bad (f : FInfo)
  deriving DecidableEq, Repr

/-- The fault of an encoding the decoder rejects (R50). -/
def rejectFault : Reject → FInfo
  | .opcode => flt fcOpcode
  | .pair => flt fcPair
  | .operand => flt fcOperand

/-- The next instruction of a split whose run has issued `count` words: a run of 24 words, or of 23 before an `XPR`, has
ended (R41). A body word of an `XPR` that cannot be fetched is a fault of the whole instruction, at its first word, with the
body's address (log 43). -/
def State.nextInstr (s : State) (g : Group) (sp : Split) (count : Nat) : State × Next :=
  if 24 ≤ count then (s, .forced)
  else
    match s.fetchWord g sp.pc with
    | (s, .wait w) => (s, .wait w)
    | (s, .bad f) => (s, .bad f)
    | (s, .word w) =>
      if isXprWord w then
        if 23 ≤ count then (s, .forced)
        else
          match s.fetchWord g (sp.pc + 8) with
          | (s, .wait y) => (s, .wait y)
          | (s, .bad f) => (s, .bad f)
          | (s, .word b) =>
            match decodeIgyan w b with
            | .ok i => (s, .instr i)
            | .error r => (s, .bad (rejectFault r))
      else
        match decodeIgyan w 0 with
        | .ok i => (s, .instr i)
        | .error r => (s, .bad (rejectFault r))

/-- A split stalls at a word it could not fetch: its run ends before that word, as before a word that waits for a result
(R41, log 42). -/
def State.stallAt (s : State) (gid idx : Nat) (w : Why) : State :=
  (s.updGrp gid (fun g => match g.split? idx with
    | some sp => g.putSplit { sp with st := .stalled w }
    | none => g)).endRun gid idx true

/-- A fabric instruction at `FPC` (R308, R309): a fetch needs `X`, and is class 2 traffic (R99). -/
def State.fetchFx (s : State) (p : Nat) (slot : Nat) (fpc : W64) : State × Except EStop (Except Reject Instr) :=
  match s.engByte (p / 2) slot .x fpc.toNat with
  | (s, .error e) => (s, .error e)
  | (s, .ok (a, at_)) =>
    if s.homePoison a then (s, .error (.fault 0x16 0 fpc.toNat))
    else match s.engPass slot 2 .read ((List.range 8).map (fun i => (a + i, at_))) with
      | .error w => (w, .error .wait)
      | .ok t => (t, .ok (decodeFx (BitVec.ofNat 64 (natOf (s.homeBytes at_.key a 8)))))

/-- The sieve word a trace core runs next (R430). -/
def State.fetchSieve (s : State) (die : Nat) : Option Instr :=
  let t := s.traces.get TraceSt.init die
  match t.cur, t.prog with
  | some _, some ws => (ws[t.idx]?).bind decodeSieve
  | _, _ => none

/-- The rows that are steps of the hardware or the outside, and no words. -/
def isStep : Instr → Bool
  | .runArbitration | .forcedRunEnd | .longLatencyResult | .storePerform => true
  | .bankQueueServe | .sleepTimeout | .waitvReread | .pageWalkComplete => true
  | .invalidateRange | .invalidateAsid | .invalidateAll | .invalidationDone => true
  | .contextSlotWrite | .regulatorWrite | .requestSchedule | .memoryRequestComplete => true
  | .refreshDue | .catchUpEnd | .owedRefresh | .rowHammerRefresh => true
  | .hotrefChange | .patrolScrub | .correctedError | .uncorrectableError => true
  | .keySlotLoad | .copyCommandStart | .deliveryUnitCount | .offloadPageOut => true
  | .returnPageResident | .ceReset | .ceEn | .engineCommandComplete => true
  | .matrixEngineReset | .fabricPacketArrival | .remoteAcknowledge | .remoteTriggerFire => true
  | .ueJobWrite | .gleaningTableWrite | .fxProgramStart | .messageAccept => true
  | .startPacketArrival | .fxWaitmReread | .fxAbort | .fxEn => true
  | .phaserEngineCount | .phaserEngineFault | .phwaitWake | .graceEnd => true
  | .releaseRingEntry | .releaseRingBaseWrite | .vpubWaitEnd | .versionRegionConfig => true
  | .nopPacket | .launchPacket | .feedPacket | .waitmemPacket => true
  | .writememStore64 | .writememStore32 | .writememAdd64 | .linksigPacket => true
  | .linkwaitPacket | .graphPacket | .graphNodeFinish | .copyPacket => true
  | .collPacket | .vpubPacket | .ckptPacket | .ctxctlEnd => true
  | .ctxctlSuspend | .ctxctlResume | .eventQueueRegisterWrite | .troughDisable => true
  | .teamPlacement | .priorityAgeing | .deadlineMissed | .asyncFaultDelivery => true
  | .priorityPreemption | .teamSave | .teamResume | .traceSieveRun => true
  | .sieveLoad | .trcStatClear | .powerGateRequest | .powerGateTimeout => true
  | .debugStopRequest | .debugResume | .trialStart | .trialStop => true
  | .trialWindowEnd | .powerOn | .bootCold | .bootWarm => true
  | .bootOk | .startTimeout | .attestationRequest | .checkpointStreamStart => true
  | .sendAhead | .checkpointComplete | .checkpointTransportFailure | .hostPortWrite => true
  | .powerSample | .thermalTrip | .registerWrite | .transportFailure => true
  | .perBankRefreshEnd | .matrixEngineResetEnd | .thermalTripClear | .fxTransferComplete => true
  | _ => false

end Sys2Proof.Machine
end

