-- ==== Sys2Proof/Machine/Control.lean ====
section
/-! DEFINITION. Control flow: branches, regions, yielding, sleeping, waking and exiting (R340 to R356), and issue arbitration
(R41, R407). -/

namespace Sys2Proof.Machine

-- ## Branches (R349 to R351)

/-- The first fault of branch targets, by lane (R26, R51). -/
def targetFault (ts : List (Nat × W64)) : Option FInfo :=
  match ts.find? (fun x => x.2.toNat % 8 != 0) with
  | some x => some (flt fcMisaligned 0 x.2 x.1)
  | none => (ts.find? (fun x => decide (2 ^ 52 ≤ x.2.toNat))).map (fun x => flt fcTranslation 1 x.2 x.1)
/-- The effect of a change to the splits and the rejoin stack (R346 to R348). -/
def ctlEff (s : State) (gid : Nat) : Except RejFault Group → Eff
  | .ok g => .ctl (s.setGrp gid g)
  | .error .overflow => .fault s (flt fcOverflow)
  | .error .deadlock => .fault s (flt fcDeadlock)
/-- A word offset from the word (R34). -/
def Ctx.rel (c : Ctx) (n : Nat) (off : BitVec n) : W64 := c.sp.pc + 8 * off.signExtend 64
/-- `P` to a target, the others to the next word (R350). -/
def branchTo (s : State) (c : Ctx) (g : Group) (push : Option Rec) (n : Nat) (t : W64) : Eff :=
  match targetFault ((laneList c.act).map (fun l => (l, t))) with
  | some f => .fault s f
  | none => ctlEff s c.gid (g.branch c.sp push n (t, c.act) (c.sp.pc + 8, c.sp.mask &&& ~~~ c.act))
/-- A control word. -/
def ctlWord (s : State) (h : Hdr) (us : List Use) (body : State → Ctx → Eff) : Host.Outcome State Fault Refusal :=
  issue s h .ctl us false 1 body

/-- `BRA` (R350). -/
def execBra (h : Hdr) (off : BitVec 24) (s : State) : Host.Outcome State Fault Refusal :=
  ctlWord s h [] (fun s c => branchTo s c c.g none 0 (c.rel 24 off))
/-- `BRAD` (R350). -/
def execBrad (h : Hdr) (off : BitVec 24) (rej : BitVec 21) (s : State) : Host.Outcome State Fault Refusal :=
  ctlWord s h [] (fun s c =>
    if 32 ≤ c.g.stack.length then .fault s (flt fcOverflow)
    else branchTo s c c.g (some ⟨c.rel 21 rej, c.sp.mask, 0, 0, 0⟩) 0 (c.rel 24 off))
/-- `JOIN` (R347, R348). -/
def execJoin (h : Hdr) (s : State) : Host.Outcome State Fault Refusal :=
  ctlWord s h [] (fun s c => ctlEff s c.gid (c.g.join c.sp))
/-- `BRK` (R350). -/
def execBrk (h : Hdr) (n : BitVec 5) (s : State) : Host.Outcome State Fault Refusal :=
  ctlWord s h [] (fun s c =>
    match (c.g.chain (lowLane c.sp.mask))[n.toNat]? with
    | none => .fault s (flt fcOperand)
    | some r => branchTo s c c.g none n.toNat r.rejpc)
/-- `BRX` (R350): the lanes of another target come back to the word. -/
def execBrx (h : Hdr) (a : SReg) (b : Reg) (s : State) : Host.Outcome State Fault Refusal :=
  ctlWord s h (Instr.brx h a b).uses (fun s c =>
    let t (l : Nat) : W64 := c.g.srcS a + (c.g.getV b.toNat l).setWidth 64
    match targetFault ((laneList c.act).map (fun l => (l, t l))) with
    | some f => .fault s f
    | none =>
      if c.act = 0 then ctlEff s c.gid (c.g.branch c.sp none 0 (0, 0) (c.sp.pc + 8, c.sp.mask))
      else
        let t0 := t (lowLane c.act)
        let p := lanesOf ((laneList c.act).filter (fun l => t l == t0))
        ctlEff s c.gid (c.g.branch c.sp none 0 (t0, p) (c.sp.pc, c.sp.mask &&& ~~~ p)))
/-- The link register of a call that some lane takes. -/
def linkGroup (c : Ctx) (d : SReg) : Group := if c.act = 0 then c.g else c.g.setS d.toNat (c.sp.pc + 8)
/-- `CALL` (R350). -/
def execCall (h : Hdr) (off : BitVec 24) (d : SReg) (s : State) : Host.Outcome State Fault Refusal :=
  ctlWord s h (Instr.call h off d).uses (fun s c => branchTo s c (linkGroup c d) none 0 (c.rel 24 off))
/-- `CALL.r` (R350). -/
def execCallR (h : Hdr) (a d : SReg) (s : State) : Host.Outcome State Fault Refusal :=
  ctlWord s h (Instr.callR h a d).uses (fun s c => branchTo s c (linkGroup c d) none 0 (c.g.srcS a))
/-- `RET` (R350). -/
def execRet (h : Hdr) (a : SReg) (s : State) : Host.Outcome State Fault Refusal :=
  ctlWord s h (Instr.ret h a).uses (fun s c => branchTo s c c.g none 0 (c.g.srcS a))

-- ## Yielding, sleeping, waking (R352 to R355)

/-- A run-ending word that leaves its split as it is, at the next word, its windows closed (R48). -/
def Group.passBy (g : Group) (sp : Split) : Group := g.putSplit { sp.closeWins with pc := sp.pc + 8 }
/-- `YIELD` (R352): a demotion that the run already brings stands (R343). -/
def execYield (h : Hdr) (s : State) : Host.Outcome State Fault Refusal :=
  ctlWord s h [] (fun s c => .ctl (s.setGrp c.gid (c.g.passBy { c.sp with demote := c.sp.demote || c.act != 0 })))
/-- `SLEEP` (R354). -/
def execSleep (h : Hdr) (a : SReg) (s : State) : Host.Outcome State Fault Refusal :=
  ctlWord s h (Instr.sleep h a).uses (fun s c =>
    if c.act = 0 then .ctl (s.setGrp c.gid (c.g.passBy c.sp))
    else if c.g.wakeBit then .ctl (s.setGrp c.gid { c.g.passBy c.sp with wakeBit := false })
    else
      let n := (c.g.srcS a).toNat
      .pause (s.setGrp c.gid (c.g.putSplit c.sp.closeWins)) (.asleep (.sleep (if n = 0 then none else some (s.now + n)))))
/-- A sleeping split wakes: it acquires at `TEAM` scope and continues (R354). -/
def State.wakeSleeper (s : State) (gid idx : Nat) : State :=
  match s.grp gid with
  | some g => (s.acquire g .team).wakeSplit gid idx
  | none => s
/-- A group is woken (R355). -/
def State.wakeGroup (s : State) (gid : Nat) : State :=
  match s.grp gid with
  | none => s
  | some g =>
    let sl := g.splits.filter (fun x => match x.st with
      | .asleep (.sleep _) => true
      | _ => false)
    if sl.isEmpty then s.setGrp gid { g with wakeBit := true }
    else sl.foldl (fun s x => s.wakeSleeper gid x.idx) (s.setGrp gid { g with wakeBit := false })
/-- Groups in the issuing team of a word. -/
def State.teamG (s : State) (tid : Nat) : Nat := match s.team tid with | some t => t.teamg | none => 0
/-- The release that comes before a wake (R355). -/
def wakeEff (s : State) (c : Ctx) (gids : List Nat) : Eff :=
  if s.relReady c.gid c.g .team then .done (gids.foldl (fun s i => s.wakeGroup i) (s.release c.g .team)) Res.nil
  else .stall s .fifoEmpty
/-- `WAKE` (R355). -/
def execWake (h : Hdr) (a : SReg) (s : State) : Host.Outcome State Fault Refusal :=
  onceWord s h .long (Instr.wake h a).uses (fun s c =>
    if s.teamG c.g.tid ≤ (c.g.srcS a).toNat then .fault s (flt fcOperand)
    else wakeEff s c (s.groupOf c.g.tid (c.g.srcS a).toNat).toList)
/-- `WAKE.all` (R355). -/
def execWakeAll (h : Hdr) (s : State) : Host.Outcome State Fault Refusal :=
  onceWord s h .long [] (fun s c => wakeEff s c (s.teamGroups c.g.tid))

/-- A sleep's timeout elapses (R354): `unit` is the group, `sub` the split. -/
def execSleepTimeout (s : State) : Host.Outcome State Fault Refusal :=
  match s.grp s.ev.unit with
  | none => .next s
  | some g =>
    match g.split? s.ev.sub with
    | none => .next s
    | some sp =>
      match sp.st with
      | .asleep (.sleep (some t)) => .next (if t ≤ s.now then s.wakeSleeper s.ev.unit sp.idx else s)
      | _ => .next s

-- ## Exiting (R356, R368, R370)

/-- Rounds of a team that can no longer complete: every joined group takes `PHASER_FAULT` `0x9`, and the round is cleared
(R368). -/
def State.breakBarriers (s : State) (tid : Nat) : State :=
  match s.team tid with
  | none => s
  | some t =>
    let live := s.teamGroups tid
    let dead := t.rounds.keep (fun _ r => decide ((live.filter (fun i => !r.joined.contains i)).length < r.count - r.joined.length))
    dead.foldl (fun s e =>
      let s := s.updTeam tid (fun t => { t with rounds := t.rounds.erase e.1 })
      e.2.joined.foldl (fun s gid =>
        match s.grp gid with
        | none => s
        | some g =>
          match g.splits.find? (fun x => x.st == .waiting (.barrier e.1)) with
          | some sp => s.raise gid sp.idx (flt fcPhaser 9) sp.pc
          | none => s) s) s
/-- The group ends (R356): its last `EXIT` is a quiescent point with a `DEVICE` release (R370), its memberships are dropped
(R365), and entries that list it are discarded (R250). A fault still pending has no group left to take it (R117, R410); a
`MATRIX_RESET` met no `MWAIT` or `ACCRD` to be raised at (R261). -/
def State.groupEnd (s : State) (gid : Nat) (g : Group) : State :=
  let s := (s.release g .device).passQ gid
  let s := g.members.foldl (fun s m => s.dropMember gid m) s
  let s := { s with
    groups := s.groups.erase gid
    parts := s.parts.mapV (fun x => match x.run with
      | some (i, _) => if i = gid then { x with run := none, count := 0, endAt := s.now } else x
      | none => x) }
  let s := ((s.gangBreak g.tid g.gi).breakBarriers g.tid).tryTeamEnd g.tid
  let s := match g.pendq.find? (fun f => !f.isReset) with
    | some f => s.unhandled g.ctx f.code f.seq f.site
    | none => s
  s.checkEndings
/-- `EXIT` (R356). The exit of the last lane waits for the group's stores and results, and for its release (R101). -/
def execExit (h : Hdr) (s : State) : Host.Outcome State Fault Refusal :=
  ctlWord s h [] (fun s c =>
    match c.g.exitLanes c.sp c.act with
    | .error .overflow => .fault s (flt fcOverflow)
    | .error .deadlock => .fault s (flt fcDeadlock)
    | .ok g =>
      if g.lanesLeft ≠ 0 then .ctl (s.setGrp c.gid g)
      else if c.g.drained && c.g.pend.isEmpty then
        match relAt s c true .device with
        | .error e => e
        | .ok s => .gone (((s.countWord c 1 false).sampleRun c.gid c.idx).groupEnd c.gid c.g)
      else .stall s .exit)

-- ## Arbitration (R40, R41, R407, R410, R434)

/-- The split a group would issue: in handler mode, only the one that received the fault (R342, R357, R413). -/
def State.nextSplit (s : State) (gid : Nat) (g : Group) : Option Split :=
  g.splits.find? (fun x => s.splitReady gid g x && (!g.hm || x.idx == g.tlane.toNat / 65536))
/-- A fault is waiting to be delivered at the group's next boundary (R410); a `MATRIX_RESET` waits for its word (R261). -/
def Group.faultDue (g : Group) : Bool := g.pendq.any (fun f => !f.isReset) && !g.hm
/-- A stop request has yet to reach the group (R434). -/
def State.stopAsked (s : State) (gid : Nat) : Bool := s.stops.any (fun e => e.2 == gid)
/-- A group may win its partition (R407): ready, not held by the debugger, not being pre-empted. -/
def State.mayRun (s : State) (gid : Nat) (g : Group) : Bool :=
  !g.dbgStop && !g.faultDue && !s.paused && !s.preempts.contains g.tid && !s.stopAsked gid && (s.nextSplit gid g).isSome
/-- A group's run is in progress. -/
def State.running (s : State) (gid : Nat) : Bool := s.parts.any (fun e => match e.2.run with
  | some (i, _) => i == gid
  | none => false)
/-- Groups that are not running become ready, or cease to be, at the step at which their waits end (R340, R407). -/
def State.observe (s : State) : State :=
  { s with groups := s.groups.map (fun e =>
      if s.running e.1 then e
      else if !e.2.dbgStop && !e.2.halted && (s.nextSplit e.1 e.2).isSome then (e.1, e.2.becomeReady s.tick)
      else (e.1, { e.2 with readyAt := none, wait := 0 })) }
/-- The rank of a group: priority, rank deadline, when it became ready, group index, team index (R394, R395, R407); the
lower list wins. -/
def State.rank (s : State) (g : Group) : List Nat :=
  let ti := match s.team g.tid with | some t => t.idx | none => 0
  let (pr, dl) : Nat × Nat := match (s.team g.tid).bind (fun t => s.grid t.grid) with
    | some k => (k.prio, match k.rankDl with
      | some d => if d = 0 then 2 ^ 64 else d.toNat
      | none => 2 ^ 64)
    | none => (0, 2 ^ 64)
  [7 - pr, dl, g.readyAt.getD 0, g.gi, ti]
/-- The better of two groups for a partition (R407). -/
def State.better (s : State) (a b : Nat × Group) : Bool :=
  if 57 ≤ a.2.wait ∨ 57 ≤ b.2.wait then
    if a.2.wait = b.2.wait then lexLt ((s.rank a.2).drop 2) ((s.rank b.2).drop 2) else decide (b.2.wait < a.2.wait)
  else lexLt (s.rank a.2) (s.rank b.2)
/-- The group that wins a partition. -/
def State.winner (s : State) (p : Nat) : Option (Nat × Group) :=
  (s.groups.keep (fun gid g => g.partNo == p && s.mayRun gid g)).foldl (fun best e =>
    match best with
    | none => some e
    | some b => if s.better e b then some e else some b) none
/-- The stop request of a slot reaches a group at a run boundary (R434). -/
def State.stopGroup (s : State) (gid : Nat) (g : Group) : State :=
  let sp := match s.nextSplit gid g with
    | some x => some x
    | none => g.splits.head?
  let s := match sp with
    | some x => s.trace g x.idx 0x03 x.pc g.cmdseq 3 0
    | none => s
  s.updGrp gid (fun g => { g with dbgStop := true, readyAt := none, wait := 0 })
/-- Groups that a stop was asked of and that stand at a boundary stop; a slot's request is resolved when none of its groups is
left to stop (R433, R434). A group that is swapped out stops once it is resident again. -/
def State.takeStops (s : State) : State :=
  let s := (s.groups.keep (fun gid g => s.stopAsked gid && !g.dbgStop && !s.running gid)).foldl (fun s e => s.stopGroup e.1 e.2) s
  let left := s.stops.filter (fun e => s.groupLives e.2 && !(s.grp e.2).any (fun g => g.dbgStop))
  let s := (s.stops.filter (fun e => !left.any (fun l => l.1 == e.1))).foldl (fun s e => s.setRegFld (dbgAddr e.1) 2 2 0) s
  { s with stops := left }
/-- A partition at a run boundary chooses its next run (R407): `unit` is the partition. -/
def execRunArbitration (s : State) : Host.Outcome State Fault Refusal :=
  let p := s.ev.unit
  if (s.part p).run.isSome then .next s
  else
    let s := s.takeStops
    match s.winner p with
    | none => .next s
    | some (gid, g) =>
      match s.nextSplit gid g with
      | none => .next s
      | some sp => .next (s.setPart p { s.part p with run := some (gid, sp.idx), count := 0 })

/-- The hardware ends a run at its 24th word, or after its 23rd before an `XPR` (R41): `unit` is the partition. -/
def execForcedRunEnd (s : State) : Host.Outcome State Fault Refusal :=
  let x := s.part s.ev.unit
  match x.run with
  | none => .next s
  | some (gid, idx) =>
    match s.grp gid with
    | none => .next s
    | some g =>
      match g.split? idx with
      | none => .next s
      | some sp =>
        match s.nextInstr g sp x.count with
        | (s, .forced) =>
          let s := s.updGrp gid (fun g => { g with forced := g.forced + 1 })
          let s := s.trace g idx 0x05 sp.pc g.cmdseq x.count 0
          .next (s.endRun gid idx false)
        | _ => .next s

end Sys2Proof.Machine
end

