-- ==== Sys2Proof/Machine/Controllers.lean ====
section
/-! DEFINITION. The memory controllers and the bandwidth regulators: refresh (R72 to R75), the monitor (R76), keys (R81), the
regulators and the order of service (R99 to R103). -/

namespace Sys2Proof.Machine

-- ## Pseudo-channels (R72)

/-- A pseudo-channel as start-up leaves it: its epoch is free (log 14). -/
def State.pch (s : State) (p : Nat) : PchSt :=
  (s.pchs.find? p).getD ⟨Config.epoch s.boot.starts p, 3315, [], none, 0, [], [], []⟩
def State.setPch (s : State) (p : Nat) (x : PchSt) : State := { s with pchs := s.pchs.insert p x }
def BankRf.init : BankRf := ⟨0, 0, none, [], [], none⟩
def PchSt.bank (x : PchSt) (b : Nat) : BankRf := x.banks.get BankRf.init b
def PchSt.setBank (x : PchSt) (b : Nat) (y : BankRf) : PchSt := { x with banks := x.banks.set BankRf.init b y }
/-- Where a request's line lies (R69): the global pseudo-channel, the bank, the row. -/
def Traffic.pch (t : Traffic) : Nat := (rowName (128 * t.line)).1
def Traffic.bank (t : Traffic) : Nat := (rowName (128 * t.line)).2.1
def Traffic.row (t : Traffic) : Nat := (rowName (128 * t.line)).2.2
/-- The die of a pseudo-channel, and the one a die monitors (R77). -/
def dieOfPch (p : Nat) : Nat := p / 128
def State.monitored (s : State) (die : Nat) : Nat := 128 * die + fld (s.reg (mcAddr die 8)) 6 0
def State.isMonitored (s : State) (p : Nat) : Bool := s.monitored (dieOfPch p) == p
/-- A counter of `n` bits at an offset of a die's controller, saturating (R76). -/
def State.mcCount (s : State) (die off hi lo n : Nat) : State :=
  let a := mcAddr die off
  s.setRegFld a hi lo (min (2 ^ (hi + 1 - lo) - 1) (fld (s.reg a) hi lo + n))

/-- The instant at which a bank is next due (R72). -/
def PchSt.due (x : PchSt) (b : Nat) : Nat := x.epoch + b * x.interval / 16 + (x.bank b).next * x.interval
/-- A bank was LAT-busy at an instant (R74): a `LAT` request accepted by then, in the same cycle at the latest, had not
completed, or had done so fewer than `LATHOLD` cycles before. -/
def State.latBusy (s : State) (p : Nat) (x : PchSt) (b at_ : Nat) : Bool :=
  x.queue.any (fun q => q.1.bank == b && q.1.lat && decide (q.2 ≤ at_))
    || (x.bank b).lats.any (fun l => decide (l.1 ≤ at_) && decide (at_ < l.2 + fld (s.reg (mcAddr (dieOfPch p) 0)) 47 32))
/-- All-bank refreshes that have ended by an instant lower every debt (R75). -/
def PchSt.credit (x : PchSt) (at_ : Nat) : PchSt :=
  match x.catchUp with
  | none => x
  | some t =>
    let n := x.abLeft - (t - at_ + 297) / 298
    { (List.range 16).foldl (fun (x : PchSt) b =>
        let y : BankRf := x.bank b
        x.setBank b { y with debt := max (-8) (y.debt - n) }) x with abLeft := x.abLeft - n }
/-- A debt as the monitor shows it: one byte, two's complement. -/
def debtByte (d : Int) : Nat := (BitVec.ofInt 8 d).toNat
/-- `MC_REFDEBT0` and `1`: the debts of eight banks of the monitored pseudo-channel, as they stand at an instant (R75, R77). -/
def PchSt.debts (x : PchSt) (at_ b0 : Nat) : W64 :=
  BitVec.ofNat 64 (((List.range 8).map (fun i => debtByte ((x.credit at_).bank (b0 + i)).debt * 2 ^ (8 * i))).foldl (· + ·) 0)
/-- A refresh of n cycles falls to a bank at an instant (R72, R75): it begins then, after a catch-up in progress, or follows
the refresh that closes the bank already. -/
def PchSt.refresh (x : PchSt) (b at_ n : Nat) : PchSt :=
  let y : BankRf := x.bank b
  let from_ := max at_ (x.catchUp.getD 0)
  if y.more = [] ∧ y.busy.getD 0 ≤ from_ then x.setBank b { y with busy := some (from_ + n), row := none }
  else x.setBank b { y with more := y.more ++ [n], row := none }
/-- A forced catch-up begins once the refreshes in progress have finished, or another is added to the one in progress
(R75, log 28). -/
def PchSt.startCatchUp (x : PchSt) (at_ : Nat) : PchSt :=
  match x.catchUp with
  | some t => { x with catchUp := some (t + 2682), abLeft := x.abLeft + 9 }
  | none =>
    let start := (List.range 16).foldl (fun t b => max t (((x.bank b).busy).getD 0)) at_
    { x with catchUp := some (start + 2682), abLeft := 9 }

/-- The end of the last refresh that holds an accepted request (R76). -/
def PchSt.stallEnd (x : PchSt) : Nat :=
  let closed (b : Nat) : Nat := match (x.bank b).busy with
    | some t => (x.bank b).more.foldl (· + ·) t
    | none => 0
  x.queue.foldl (fun m q => max m (max (x.catchUp.getD 0) (closed q.1.bank))) 0
/-- A request of a pseudo-channel is held by a refresh (R76). -/
def PchSt.held (x : PchSt) (q : Traffic) : Bool := x.catchUp.isSome || (x.bank q.bank).busy.isSome
/-- What a refresh or catch-up does that was due at an instant already past: the monitor counts the cycles gone by in which it held
a request that was not held before (R76). -/
def State.refreshed (s : State) (p due : Nat) (x y : PchSt) : State :=
  let t := min s.now y.stallEnd
  let acc := (y.queue.filter (fun q => y.held q.1)).foldl (fun m q => min m q.2) t
  let s := if s.isMonitored p then s.mcCount (dieOfPch p) 0x10 47 0 (t - max (max due x.stallEnd) acc) else s
  s.setPch p y
/-- A due instant of a bank acts (R72, R73): `unit` is the pseudo-channel, `idx` the bank. It acts once its cycle has passed, so
that every request accepted in that cycle counts (R74), and what it does is timed from the instant itself. -/
def execRefreshDue (s : State) : Host.Outcome State Fault Refusal :=
  let p := s.ev.unit
  let b := s.ev.idx
  let x := s.pch p
  let due := x.due b
  -- a changed rate takes effect at a due instant of bank 0, after the earlier ones of the other banks
  let turn := decide (b = 0) && (s.hotWant.get false p != (x.interval == 1658))
  if s.boot.phase = .off ∨ 1024 ≤ p ∨ 16 ≤ b ∨ s.now ≤ due ∨ (turn = true ∧ (List.range 16).any (fun i => decide (x.due i < due)) = true) then
    .next s
  else
    let x := x.credit due
    let x : PchSt := if turn then
        { (List.range 16).foldl (fun (x : PchSt) i => x.setBank i { x.bank i with next := 0 }) x with
          epoch := due, interval := if s.hotWant.get false p then 1658 else 3315 }
      else x
    let lat := s.latBusy p x b due
    let y : BankRf := x.bank b
    let x : PchSt := ({ x with acts := x.acts.keep (fun k _ => k / 32768 != b) } : PchSt).setBank b
      { y with next := y.next + 1, lats := y.lats.filter (fun l => decide (due < l.2 + 65536)) }
    let y : BankRf := x.bank b
    let die := dieOfPch p
    if y.debt < 0 then .next (s.setPch p (x.setBank b { y with debt := y.debt + 1 }))
    else if lat && fld (s.reg (mcAddr die 0)) 0 0 == 1 && decide (y.debt < 8) then
      let s := if s.isMonitored p then s.mcCount die 0x18 31 0 1 else s
      .next (s.setPch p (x.setBank b { y with debt := y.debt + 1 }))
    else if lat && y.debt == 8 then
      let s := if s.isMonitored p then s.mcCount die 0x18 63 32 1 else s
      .next (s.refreshed p due x (x.startCatchUp due))
    else .next (s.refreshed p due x (x.refresh b due 102))

/-- A catch-up ends (R75): `unit` is the pseudo-channel. -/
def execCatchUpEnd (s : State) : Host.Outcome State Fault Refusal :=
  let p := s.ev.unit
  let x := s.pch p
  match x.catchUp with
  | none => .next s
  | some t =>
    if s.now < t then .next s
    else
      let x := x.credit s.now
      let x := (List.range 16).foldl (fun (x : PchSt) b => x.setBank b { x.bank b with row := none }) x
      .next (s.setPch p { x with catchUp := none, abLeft := 0 })

/-- An owed refresh of a bank that is not LAT-busy (R74): `unit` is the pseudo-channel, `idx` the bank. -/
def execOwedRefresh (s : State) : Host.Outcome State Fault Refusal :=
  let p := s.ev.unit
  let b := s.ev.idx
  let x := (s.pch p).credit s.now
  let y : BankRf := x.bank b
  if 1024 ≤ p ∨ 16 ≤ b ∨ y.debt ≤ 0 ∨ s.latBusy p x b s.now = true ∨ y.busy.isSome = true ∨ x.catchUp.isSome = true then .next s
  else .next (s.setPch p ((x.setBank b { y with debt := y.debt - 1 }).refresh b s.now 102))

/-- A per-bank refresh ends: the next one follows, or its bank reopens (R72): `unit` is the pseudo-channel, `idx` the bank. -/
def execPerBankRefreshEnd (s : State) : Host.Outcome State Fault Refusal :=
  let p := s.ev.unit
  let x := s.pch p
  let y : BankRf := x.bank s.ev.idx
  match y.busy with
  | none => .next s
  | some t =>
    if s.now < t then .next s
    else .next (s.setPch p (x.setBank s.ev.idx (match y.more with
      | [] => { y with busy := none }
      | n :: more => { y with busy := some (max t (x.catchUp.getD 0) + n), more := more })))

/-- The neighbours of a row activated 4,096 times are refreshed, 102 cycles each (R75): `unit` is the pseudo-channel, `idx` the
bank, `idx2` the row. A row at an edge of its bank has one neighbour (log 37). -/
def execRowHammerRefresh (s : State) : Host.Outcome State Fault Refusal :=
  let p := s.ev.unit
  let x := s.pch p
  let b := s.ev.idx
  let row := s.ev.idx2
  if 1024 ≤ p ∨ x.owed.contains (b, row) = false then .next s
  else
    let x : PchSt := ({ x with owed := x.owed.erase (b, row) } : PchSt).refresh b s.now 102
    .next (s.setPch p (if row = 0 ∨ row = 24575 then x else x.refresh b s.now 102))

/-- The temperature of a die's stacks begins or ceases to require doubled refresh (R72): `unit` is the die, `on` the rate. -/
def execHotrefChange (s : State) : Host.Outcome State Fault Refusal :=
  if 8 ≤ s.ev.unit then .next s
  else
    let s := s.setRegFld (mcAddr s.ev.unit 0) 2 2 (if s.ev.on then 1 else 0)
    .next { s with hotWant := (List.range 128).foldl (fun m i => m.set false (128 * s.ev.unit + i) s.ev.on) s.hotWant }

-- ## Service of requests (R69, R74, R76)

/-- The histogram bin of a latency (R76). -/
def latBin (n : Nat) : Nat := if n < 64 then 0 else if 2 ^ 20 ≤ n then 15 else Nat.log2 n - 5
/-- An accepted request completes (R76): `unit` is the pseudo-channel, `idx` its place in the queue. A read takes at least
the 88 cycles of an unloaded one. A row's 4,096th activation makes the refresh of its neighbours due, and its count begins again
(R75, log 37). -/
def execMemoryRequestComplete (s : State) : Host.Outcome State Fault Refusal :=
  let p := s.ev.unit
  let x := s.pch p
  match x.queue[s.ev.idx]? with
  | none => .next s
  | some (q, t) =>
    if x.held q = true ∨ s.now < t + 88 then .next s
    else
      let die := dieOfPch p
      let y : BankRf := x.bank q.bank
      let key := q.bank * 32768 + q.row
      let n := if y.row = some q.row then x.acts.get 0 key else x.acts.get 0 key + 1
      let x := if 4096 ≤ n then { x with acts := x.acts.set 0 key 0, owed := x.owed ++ [(q.bank, q.row)] }
        else { x with acts := x.acts.set 0 key n }
      let x := x.setBank q.bank { y with row := some q.row, lats := if q.lat then y.lats ++ [(t, s.now)] else y.lats }
      let x := { x with queue := x.queue.eraseIdx s.ev.idx }
      let counts := s.isMonitored p && (q.lat || fld (s.reg (mcAddr die 8)) 8 8 == 0)
      let s := if counts then s.mcCount die (0x80 + 8 * latBin (s.now - t)) 47 0 1 else s
      .next (s.setPch p x)

/-- Reference cycles pass: every monitor counts those in which a request is held (R76). -/
def State.elapse (s : State) (n : Nat) : State :=
  let s' := (List.range 8).foldl (fun s die =>
    let x := s.pch (s.monitored die)
    let stall := min n (x.stallEnd - s.now)
    if stall = 0 then s else s.mcCount die 0x10 47 0 stall) s
  { s' with now := s.now + n }

-- ## Service at slices and stacks (R96, R99 to R103)

/-- The request served next: the lowest tier, oldest first (R102). -/
def State.nextRequest (s : State) (inst : Nat) : Option (Nat × Traffic) :=
  (headsOf [] (s.traffic.get [] inst)).foldl (fun best t =>
    match s.tier inst t, best with
    | none, _ => best
    | some k, none => some (k, t)
    | some k, some (k', t') =>
      if k < k' ∨ (k = k' ∧ (t.age < t'.age ∨ (t.age = t'.age ∧ t.id < t'.id))) then some (k, t) else best) none
/-- The ways of a slice that serve: a bank removed by degraded operation has taken its way (R445); bank b holds way b mod 16
(log 37). -/
def State.sliceWays (s : State) (inst : Nat) : List Nat :=
  (List.range 16).filter (fun w => !s.removedUnits.any (fun u => match u with
    | .ways l b => l == inst && b % 16 == w
    | _ => false))
/-- A way of these for a new line: the lowest that is not in use, else the victim, or the next one after it that serves. -/
def wayAmong (ways used : List Nat) (bits : BitVec 32) : Option Nat :=
  match ways.find? (fun w => !used.contains w) with
  | some w => some w
  | none => ((List.range 16).map (fun i => (plruVictim 16 bits + i) % 16)).find? (fun w => ways.contains w)
/-- A slice serves a request (R93, R96): the line of its address under its key is present and most recently used after it,
what a write moved is dirty. The result names the sectors that a fill must bring, and the lines that leave dirty: one under
another key (R81), the victim of the set, or, where no way serves, what the request wrote. -/
def SliceSt.serve (x : SliceSt) (ways : List Nat) (t : Traffic) : SliceSt × BitVec 4 × List L2Line :=
  let stale (l : L2Line) : Bool := l.line == t.line && l.key != t.key
  let ls := x.lines.filter (fun l => !stale l)
  let wrote : BitVec 4 := if t.kind = .read then 0 else t.secs
  let old := ls.find? (fun l => l.line == t.line)
  match (match old with
    | some l => some l.way
    | none => wayAmong ways ((ls.filter (fun l => sharedSet l.line == sharedSet t.line)).map (·.way)) (x.plru.get 0 (sharedSet t.line))) with
  | none =>
    ({ x with lines := ls }, t.need,
      (x.lines.filter stale ++ [(⟨0, t.line, t.key, 0, wrote⟩ : L2Line)]).filter (fun y => y.dirty != 0))
  | some way =>
    let leaves (l : L2Line) : Bool := sharedSet l.line == sharedSet t.line && l.way == way && l.line != t.line
    let l := old.getD ⟨way, t.line, t.key, 0, 0⟩
    let l' := { l with valid := l.valid ||| t.secs, dirty := l.dirty ||| wrote }
    (⟨ls.filter (fun y => !leaves y && y.line != t.line) ++ [l'], touch16 x.plru t.line way false⟩,
      t.need &&& ~~~ l.valid, x.lines.filter (fun y => (stale y || leaves y) && y.dirty != 0))
/-- A request goes on to its stack's controller. -/
def State.sendUp (s : State) (t : Traffic) : State :=
  { s with
    nextId := s.nextId + 1
    traffic := s.traffic.insert t.up (s.traffic.get [] t.up ++ [{ t with id := s.nextId, age := s.now, need := 0 }]) }
/-- A dirty line of a slice is written back to HBM on behalf of a request (R96). -/
def State.sliceBack (s : State) (t : Traffic) (l : L2Line) : State :=
  (s.writtenBack l.line l.dirty).sendUp { t with line := l.line, key := l.key, secs := l.dirty, kind := .write, lat := false }
/-- A request leaves its queue; one that conforms takes its tokens (R101). -/
def State.takeRequest (s : State) (inst k : Nat) (t : Traffic) : State :=
  let s := { s with traffic := s.traffic.set [] inst ((s.traffic.get [] inst).filter (fun x => x.id != t.id)) }
  let n := regOf inst t
  if k = 1 ∧ t.cls < 3 ∧ s.ctxEn t.slot = true ∧ fld (s.reg (l2RegAddr t.slot n)) 0 0 = 1 then
    s.setBucket inst t.slot n (s.bucket inst t.slot n - t.cost inst * 65536)
  else s
/-- A slice serves a request: what it lacks goes on to the stack in bursts, behind what it writes back. -/
def State.serveSlice (s : State) (inst : Nat) (t : Traffic) : State :=
  let r := (s.slice inst).serve (s.sliceWays inst) t
  let s := r.2.2.foldl (fun s l => s.sliceBack t l) { s with slices := s.slices.insert inst r.1 }
  if r.2.1 = 0#4 then s else s.sendUp { t with secs := r.2.1 }
/-- A stack's controller accepts a request into its pseudo-channel (R76). -/
def State.serveStack (s : State) (t : Traffic) : State :=
  let x := s.pch t.pch
  s.setPch t.pch { x with queue := x.queue ++ [(t, s.now)] }
/-- A slice or a stack controller serves its next request (R101, R102): `unit` is the slice, or 128 + the stack. -/
def execRequestSchedule (s : State) : Host.Outcome State Fault Refusal :=
  let inst := s.ev.unit
  match s.nextRequest inst with
  | none => .next s
  | some (k, t) =>
    let s := s.takeRequest inst k t
    .next (if inst < 128 then s.serveSlice inst t else s.serveStack t)

/-- A write of `L2_REG` (R100, R101, R103). Setting `EN` fills the bucket of every instance; a write that leaves it set keeps the
tokens gathered under the old value, clamped to the new depth (log 31). -/
def State.regulatorPut (s : State) (slot k : Nat) (v : W64) : State :=
  let s' := s.regPut (l2RegAddr slot k) v
  let gone := s.buckets.keep (fun key _ => key % 512 != slot * 8 + k)
  if fld (s.reg (l2RegAddr slot k)) 0 0 = 0 ∨ fld v 0 0 = 0 then { s' with buckets := gone }
  else (List.range 144).foldl (fun t i => t.setBucket i slot k (min (regDepth v * 65536) (s.bucket i slot k))) s'
/-- `REGULATOR_WRITE`: `unit` is the slot, `idx` the regulator, `val` the value. -/
def execRegulatorWrite (s : State) : Host.Outcome State Fault Refusal :=
  .next (if s.ev.unit < 64 ∧ s.ev.idx < 6 then s.regulatorPut s.ev.unit s.ev.idx s.ev.val else s)

-- ## Keys (R81)

/-- Every line of a key on the device is written back and dropped: those of L1, of the cluster caches, of the slices. -/
def State.dropKey (s : State) (k : Nat) : State :=
  let s := (s.cores.map Prod.fst).foldl (fun s c =>
    let s := ((s.core c).lines.filter (fun l => l.key == k)).foldl (fun s l => s.writeBack c l) s
    s.setCore c { s.core c with lines := (s.core c).lines.filter (fun l => l.key != k) }) s
  let s := { s with clusters := s.clusters.mapV (fun c => { c with lines := c.lines.filter (fun l => l.key != k) }) }
  let dirty := s.slices.flatMap (fun e => e.2.lines.filter (fun l => l.key == k && l.dirty != 0))
  let s := dirty.foldl (fun s l => (s.writtenBack l.line l.dirty).sendUp ⟨0, s.tick, 0, 3, l.line, k, l.dirty, 0, .write, s.now, false⟩) s
  { s with slices := s.slices.mapV (fun x => { x with lines := x.lines.filter (fun l => l.key != k) }) }
/-- An access accepted under a key and not yet performed. -/
def FifoE.usesKey (k : Nat) : FifoE → Bool
  | .global _ _ a _ _ => a.key == k
  | .red _ _ _ _ _ ls => ls.any (fun x => x.attr.key == k)
  | .signal _ _ _ _ x => x.attr.key == k
  | .scratch _ => false
/-- `MC_KEYVAL` of every die shows a slot loaded or not: one set of key slots serves the eight dies (R77, R80, log 38). -/
def State.showKey (s : State) (k : Nat) (on : Bool) : State :=
  (List.range 8).foldl (fun s d =>
    s.setRegFld (mcAddr d (0x40 + 8 * (k / 64))) (k % 64) (k % 64) (if on then 1 else 0)) s
/-- A request under a key is on its way to a slice or a stack, or waits there. -/
def State.keyTraffic (s : State) (k : Nat) : Bool :=
  s.traffic.any (fun e => e.2.any (fun t => t.key == k)) || s.pchs.any (fun e => e.2.queue.any (fun q => q.1.key == k))
/-- The root of trust loads a key slot (R81, R441): `unit` is the slot, the keys are the payload. Accesses already accepted, and
the requests they have made, finish under the old key first: while some remain the load has begun, the slot does not show as
loaded, and the step is taken again to complete it. -/
def execKeySlotLoad (s : State) : Host.Outcome State Fault Refusal :=
  let k := s.ev.unit
  match s.ev.data with
  | .keys k1 k2 =>
    if k = 0 ∨ 256 ≤ k ∨ k1 = k2 then .next s
    else
      let s := (s.dropKey k).showKey k false
      if s.groups.any (fun e => e.2.fifo.any (FifoE.usesKey k)) ∨ s.keyTraffic k = true then
        .next { s with keyLoad := if s.keyLoad.contains k then s.keyLoad else s.keyLoad ++ [k] }
      else
        .next (({ s with keyLoad := s.keyLoad.filter (· != k), keySlots := s.keySlots.insert k (k1 ++ k2) } : State).showKey k true)
  | _ => .next s

end Sys2Proof.Machine
end

