-- ==== Sys2Proof/Machine/Graph.lean ====
section
/-! DEFINITION. Graphs: their nodes, starting and finishing them, and aborting (R399, R400). -/

namespace Sys2Proof.Machine

/-- A node as memory holds it: its eight quadwords. -/
structure Node where
  w : List W64
  deriving DecidableEq, Repr
def Node.q (x : Node) (i : Nat) : W64 := x.w[i]?.getD 0
def Node.kind (x : Node) : Nat := fld (x.q 0) 3 0
def Node.nsucc (x : Node) : Nat := fld (x.q 0) 11 8
def Node.pred (x : Node) : Nat := fld (x.q 0) 27 16
def Node.first (x : Node) : Nat := fld (x.q 3) 27 16
def Node.last (x : Node) : Nat := fld (x.q 3) 43 32
def Node.succ (x : Node) (j : Nat) : Nat := fld (x.q (4 + j / 4)) (16 * (j % 4) + 15) (16 * (j % 4))
/-- The successors j of a range, below `NSUCC`. -/
def Node.succs (x : Node) (from_ until_ : Nat) : List Nat :=
  ((List.range (min until_ x.nsucc)).filter (fun j => decide (from_ ≤ j))).map x.succ
/-- The type of the packet that a node's `ARG` names. -/
def Node.ptype (x : Node) : Option Nat :=
  match x.kind with
  | 0 => some 8
  | 1 => some 1
  | 2 => some 2
  | 3 => some 9
  | _ => none
/-- Nothing reserved is set and no index is beyond the count. What the layout gives to other kinds is reserved. -/
def Node.ok (x : Node) (n : Nat) : Bool :=
  x.q 0 &&& ~~~ (bitsM 3 0 ||| bitsM 11 8 ||| bitsM 27 16) == 0 && decide (x.kind < 8) && decide (x.nsucc ≤ 8)
    && (x.kind != 7 || x.q 1 == 0) && (x.kind == 4 || x.q 2 == 0)
    && (match x.kind with
        | 4 => decide ((x.q 3).toNat < 3)
        | 6 => x.q 3 &&& ~~~ (bitsM 43 32 ||| bitsM 27 16) == 0 && decide (x.first < n) && decide (x.last < n)
        | _ => x.q 3 == 0)
    && (List.range 8).all (fun j => if j < x.nsucc then decide (x.succ j < n) else x.succ j == 0) && x.q 6 == 0 && x.q 7 == 0
def nodeOf (bs : List Byte) : Node :=
  ⟨(List.range 8).map (fun i => BitVec.ofNat 64 (natOf ((bs.drop (8 * i)).take 8)))⟩
def GraphSt.nodeVa (g : GraphSt) (i : Nat) : Nat := g.hdr.toNat + 64 * (i + 1)
/-- What is made of bytes that the reeve reads (R99, R390). -/
def State.reeveGet {α : Type} (s : State) (slot va n : Nat) (f : List Byte → α) : State × Except EStop α :=
  match s.engRead 3 0 slot va n with
  | (s, .ok bs) => (s, .ok (f bs))
  | (s, .error e) => (s, .error e)
/-- A read after another, which a stop keeps from being made. -/
def thenGet {α β : Type} (r : State × Except EStop α) (f : State → α → State × Except EStop β) : State × Except EStop β :=
  match r with
  | (s, .ok x) => f s x
  | (s, .error e) => (s, .error e)
/-- A node read for the walker. -/
def State.node (s : State) (g : GraphSt) (i : Nat) : State × Except EStop Node := s.reeveGet g.slot (g.nodeVa i) 64 nodeOf
def State.setGraph (s : State) (k : Nat) (g : GraphSt) : State := { s with graphs := s.graphs.insert k g }

-- ## Aborting

/-- An aborted graph with no node running ends: event `0x0A`, and its packet completes without the done word (R400). -/
def State.graphGone (s : State) (k : Nat) : State :=
  match s.graphs.find? k with
  | none => s
  | some g =>
    if g.aborted = true ∧ g.running = [] then
      (({ s with graphs := s.graphs.erase k } : State).event g.slot 0x0A 0 g.queue g.tag (g.pkt.setWidth 64) 0).packetDone g.slot g.queue g.pkt
    else s
/-- No further node starts. -/
def State.graphAbort (s : State) (k : Nat) : State :=
  ({ s with graphs := s.graphs.adjust k (fun g => { g with aborted := true, ready := [], fin := [] }) } : State).graphGone k
/-- A node faults: event `0x05`, and the graph is aborted. -/
def State.nodeFault (s : State) (k i code va : Nat) : State :=
  let o := s.orgName (.node k i)
  let s := { s with graphs := s.graphs.adjust k (fun g => { g with running := g.running.filter (· != i), fin := g.fin.filter (· != i) }) }
  match s.graphs.find? k with
  | some g => (s.event g.slot 0x05 code o.1 o.2.1 o.2.2 (BitVec.ofNat 64 va)).graphAbort k
  | none => s

-- ## Starting

/-- The packet of a node, read when the node starts. -/
def State.nodePkt (s : State) (g : GraphSt) (x : Node) : State × Except EStop Pkt :=
  s.reeveGet g.slot (x.q 1).toNat 64 (fun bs => ⟨g.queue, g.slot, g.pkt, (nodeOf bs).w⟩)
/-- The node is no longer ready, and runs, or has finished. -/
def GraphSt.begin_ (g : GraphSt) (i : Nat) : GraphSt := { g with ready := g.ready.filter (· != i), running := g.running ++ [i] }
def GraphSt.done_ (g : GraphSt) (i : Nat) : GraphSt := { g with ready := g.ready.filter (· != i), fin := g.fin ++ [i] }
/-- Start one node whose packet is known. -/
def State.startPkt (s : State) (k : Nat) (g : GraphSt) (i : Nat) (p : Pkt) : State :=
  let org : Origin := .node k i
  let run := s.setGraph k (g.begin_ i)
  match p.ty with
  | 1 => (run.launch p (run.qLevel g.queue) org).getD (run.refused g.slot org)
  | 2 => match run.feed p with
    | .ok s => s.originDone g.slot org
    | .error (c, va) => run.nodeFault k i c va
  | 8 => match run.copyPkt p org with
    | .ok s => s
    | .error (c, va) => run.nodeFault k i c va
  | _ => run.collPkt p org
/-- Start a ready node, unless it must wait for a page, a queue or a trough (R390, R400). -/
def State.startNode (s : State) (k i : Nat) : State :=
  match s.graphs.find? k with
  | none => s
  | some g =>
    if g.aborted = true ∨ g.ready.contains i = false then s
    else match s.node g i with
      | (w, .error .wait) => s.waiting w
      | (s, .error (.fault c _ va)) => s.nodeFault k i c va
      | (t, .ok x) =>
        if x.ok g.n = false then t.graphAbort k
        else match x.ptype with
          | some ty =>
            match t.nodePkt g x with
            | (w, .error .wait) => s.waiting w
            | (s, .error (.fault c _ va)) => s.nodeFault k i c va
            | (t, .ok p) =>
              if p.ty ≠ ty ∨ s.pktOk p false = false then t.graphAbort k
              else if s.tyReady p = false then s
              else t.startPkt k g i p
          | none =>
            if x.kind = 4 then
              if wouldWait (s.engTargets 0 g.slot (x.q 1).toNat (bytesOf (if x.q 3 = 1 then 4 else 8) 0)).2 then s
              else match (t.setGraph k (g.done_ i)).writeWord g.slot (x.q 1) (x.q 2) (x.q 3).toNat with
                | .ok s => s
                | .error (c, va) => s.nodeFault k i c va
            else t.setGraph k (g.done_ i)
/-- Start what is ready, in ascending order among nodes that became ready at once. -/
def State.startNodes (s : State) (k : Nat) : State :=
  match s.graphs.find? k with
  | none => s
  | some g => g.ready.foldl (fun s i => s.startNode k i) s

-- ## Walking

/-- `GRAPH_PACKET`: the counts are loaded, and nodes whose count is 0 start (R400). -/
def execGraphPacket (s : State) : Host.Outcome State Fault Refusal :=
  reeve s 7 anyPkt (fun s p _ =>
    match s.reeveGet p.slot (p.arg 1).toNat 64 nodeOf with
    | (s, .error (.fault c _ va)) => s.faultPkt p c va
    | (w, .error .wait) => s.waiting w
    | (s, .ok h) =>
      let n := (h.q 0).toNat
      let k := s.nextId
      let g : GraphSt := ⟨p.slot, p.q, p.num, p.tag, p.arg 1, n, h.q 1, [], [], [], [], false⟩
      let s := ({ s with nextId := k + 1 } : State).setGraph k g
      if n = 0 ∨ 4096 < n ∨ (List.range 6).any (fun i => h.q (i + 2) != 0) = true then s.graphAbort k
      else match s.engRead 3 0 p.slot (g.nodeVa 0) (64 * n) with
        | (s, .error (.fault c _ va)) => s.nodeFault k ((va - g.nodeVa 0) / 64) c va
        | (w, .error .wait) => s.waiting w
        | (s, .ok bs) =>
          let ns := (List.range n).map (fun i => nodeOf ((bs.drop (64 * i)).take 64))
          if ns.all (fun x => x.ok n) then
            (s.setGraph k { g with
              counts := (ns.zipIdx).foldl (fun m x => m.set 0 x.2 x.1.pred) []
              ready := ((ns.zipIdx).filter (fun x => x.1.pred == 0)).map Prod.snd }).startNodes k
          else s.graphAbort k)

/-- The counts of successors go down by 1; those that reach 0 become ready, in ascending order. -/
def GraphSt.finish (g : GraphSt) (succs : List Nat) : GraphSt :=
  let cs := succs.foldl (fun m j => m.set 0 j (m.get 0 j - 1)) g.counts
  { g with counts := cs, ready := g.ready ++ (List.range g.n).filter (fun j => succs.contains j && cs.get 0 j == 0 && g.counts.get 0 j != 0) }
/-- The body of a `WHILE`: counts reloaded from `PRED`, nodes whose count is 0 ready. -/
def GraphSt.reload (g : GraphSt) (preds : List (Nat × Nat)) : GraphSt :=
  { g with
    counts := preds.foldl (fun m x => m.set 0 x.1 x.2) g.counts
    ready := g.ready ++ (preds.filter (fun x => x.2 == 0)).map Prod.fst }
/-- The word that a `COND` or `WHILE` reads. -/
def State.nodeWord (s : State) (g : GraphSt) (x : Node) : State × Except EStop W64 :=
  if (x.q 1).toNat % 8 ≠ 0 then (s, .error (.fault 0x05 0 (x.q 1).toNat))
  else s.reeveGet g.slot (x.q 1).toNat 8 (fun bs => BitVec.ofNat 64 (natOf bs))
/-- The `PRED` counts of the nodes of a body; a node that cannot be read stops. -/
def bodyPreds (g : GraphSt) (s : State) : List Nat → State × Except EStop (List (Nat × Nat))
  | [] => (s, .ok [])
  | j :: js => thenGet (s.node g j) (fun s x => thenGet (bodyPreds g s js) (fun s l => (s, .ok ((j, x.pred) :: l))))
/-- What a finished node selects (R400); the graph has not ended. -/
def State.selects (s : State) (g : GraphSt) (x : Node) : State × Except EStop GraphSt :=
  match x.kind with
  | 5 => thenGet (s.nodeWord g x) (fun s v => (s, .ok (g.finish (if v ≠ 0 then x.succs 0 4 else x.succs 4 8))))
  | 6 => thenGet (s.nodeWord g x) (fun s v =>
      if v ≠ 0 then
        thenGet (bodyPreds g s ((List.range (x.last + 1)).filter (fun j => decide (x.first ≤ j)))) (fun s l => (s, .ok (g.reload l)))
      else (s, .ok (g.finish (x.succs 0 8))))
  | 7 => thenGet (s.node g (x.succ 0)) (fun s y =>
      (s, .ok (if y.kind = 6 then { g with ready := g.ready ++ [x.succ 0] } else g.finish (x.succs 0 8))))
  | _ => (s, .ok (g.finish (x.succs 0 8)))
/-- A finished node is processed: it releases, selects, and nodes start; or the graph ends. -/
def State.nodeFinish (s : State) (k i : Nat) (g : GraphSt) : State :=
  match s.node g i with
  | (w, .error .wait) => s.waiting w
  | (s, .error (.fault c _ va)) => s.nodeFault k i c va
  | (t, .ok x) =>
    let g' := { g with fin := g.fin.filter (· != i) }
    if x.ok g.n = false then t.graphAbort k
    else if x.kind = 7 ∧ x.nsucc = 0 then
      match t.doneWord g.slot (.packet g.queue g.pkt g.tag) g.done with
      | some s => ({ s with graphs := s.graphs.erase k } : State).packetDone g.slot g.queue g.pkt
      | none => s
    else match t.selects g' x with
      | (w, .error .wait) => s.waiting w
      | (s, .error (.fault c _ va)) => s.nodeFault k i c va
      | (s, .ok g') => (s.setGraph k g').startNodes k
/-- `GRAPH_NODE_FINISH`: `unit` is the graph, `idx` a node that has finished or is ready (R400). -/
def execGraphNodeFinish (s : State) : Host.Outcome State Fault Refusal :=
  let k := s.ev.unit
  let i := s.ev.idx
  match s.graphs.find? k with
  | none => .next s
  | some g =>
    .next (if g.aborted then s.graphGone k
      else if g.fin.contains i then s.nodeFinish k i g
      else s.startNode k i)

end Sys2Proof.Machine
end

