-- ==== Sys2Proof/Machine/Pair.lean ====
section
/-! DEFINITION. The pair word (R36 to R39): two restricted instructions under one guard. -/

namespace Sys2Proof.Machine

open Sys2Proof.Num

/-- The value and flags of one half, from its operands A, B and old D (R37). -/
def halfValue (op : BitVec 7) (a b d : W32) : W32 × Fl :=
  let z (x : W32) : W64 := x.setWidth 64
  let i (v : W64) : W32 × Fl := (v.setWidth 32, 0)
  let t : ITy := .s32
  match op.toNat with
  | 0x00 => fBin .rn false (xAdd .rn) a b
  | 0x01 => fBin .rn false (xSub .rn) a b
  | 0x02 => fBin .rn false mul a b
  | 0x03 => fTri .rn false (xFma .rn) a b d
  | 0x04 => (fMinMax false false a b, 0)
  | 0x05 => (fMinMax true false a b, 0)
  | 0x06 => fPair (fun x y _ => op2 bf16 .rn false (xAdd .rn) x y) a b 0
  | 0x07 => fPair (fun x y _ => op2 bf16 .rn false mul x y) a b 0
  | 0x08 => fPair (op3 bf16 .rn false (xFma .rn)) a b d
  | 0x09 => fPair (fun x y _ => op2 fp16 .rn false (xAdd .rn) x y) a b 0
  | 0x0A => fPair (fun x y _ => op2 fp16 .rn false mul x y) a b 0
  | 0x0B => fPair (op3 fp16 .rn false (xFma .rn)) a b d
  | 0x40 => (a, 0)
  | 0x41 => (a + b, 0)
  | 0x42 => (a - b, 0)
  | 0x43 => (a &&& b, 0)
  | 0x44 => (a ||| b, 0)
  | 0x45 => (a ^^^ b, 0)
  | 0x46 => i (wrI t (fShl t (z a) b.toNat))
  | 0x47 => i (wrI t (fShr t (z a) b.toNat))
  | 0x48 => i (wrI t (fSar t (z a) b.toNat))
  | 0x49 => i (wrI t (min (rdI t (z a)) (rdI t (z b))))
  | 0x4A => i (wrI t (max (rdI t (z a)) (rdI t (z b))))
  | 0x4B => (fSign a 0, 0)
  | _ => (fSign a (~~~ a), 0)

/-- A half's writes in a lane: its registers are read before either half writes. -/
def halfWrites (g : Group) (x : Half) (l : Nat) : List RegWrite :=
  let r := halfValue x.op (g.getV x.a.toNat l) (g.getV x.b.toNat l) (g.getV x.d.toNat l)
  .v x.d.toNat l r.1 :: flagWrite x.q l r.2

/-- The pair word (R36 to R39). -/
def execPairWord (e : Bool) (pg : PReg) (pn : Bool) (h0 h1 : Half) (s : State) : Host.Outcome State Fault Refusal :=
  aluWord s ⟨e, pg, pn, false, 0⟩ .short (h0.uses ++ h1.uses) false false (fun g l =>
    (halfWrites g h0 l ++ halfWrites g h1 l, 0))

end Sys2Proof.Machine
end

