-- ==== Sys2Proof/Machine/System.lean ====
section
/-! DEFINITION. Traps, the return from a handler, breakpoints, the CSRs, and the delivery of asynchronous faults (R409 to R417,
R434). -/

namespace Sys2Proof.Machine

/-- `TRAP` (R416): completes, and raises `TRAP_INSTR` with its number. -/
def execTrap (h : Hdr) (n : BitVec 12) (s : State) : Host.Outcome State Fault Refusal :=
  onceWord s h .long [] (fun s _ => .trap s (flt fcTrap n.toNat))
/-- `BKPT` (R416, R434): stops the group where the slot asks for it, else raises `BREAKPOINT`. -/
def execBkpt (h : Hdr) (n : BitVec 12) (s : State) : Host.Outcome State Fault Refusal :=
  onceWord s h .long [] (fun s c =>
    if s.bkStop c.g.ctx then .gone ((s.endRun c.gid c.idx false).debugStop c.gid c.idx 1 c.sp.pc c.g.cmdseq none none)
    else .trap s (flt fcBreak n.toNat))
/-- `RTE` (R416): leaves handler mode and continues at `TPC`. -/
def execRte (h : Hdr) (s : State) : Host.Outcome State Fault Refusal :=
  ctlWord s h [] (fun s c =>
    if c.g.hm then .ctl (s.setGrp c.gid { c.g.putSplit { c.sp.closeWins with pc := c.g.tpc } with hm := false })
    else .fault s (flt fcPrivilege))

/-- `TSTAT` (R411). -/
def Group.tstat (g : Group) : Nat := g.pendq.length * 256 + (if g.hm then 1 else 0)
/-- `MBAT` and `DRCNT` (R255, R369). -/
def Group.mbat (g : Group) : Nat := min 65535 g.openCnt * 65536 + g.batches.length * 256 + g.nextBatch % 16
def Group.drcnt (g : Group) : Nat := g.drFx * 2 ^ 32 + g.drRm * 2 ^ 16 + g.drCp
/-- `OVF` (R212). -/
def Group.ovfCsr (g : Group) : Nat := (if g.nf then 2 else 0) + (if g.mx then 1 else 0)
/-- A group CSR as read by a split (R125, R162, R163, R212, R255, R369, R378, R407, R411, R435). -/
def State.csr (s : State) (g : Group) (idx n : Nat) : W64 :=
  let t := s.team g.tid
  let k := t.bind (fun t => s.grid t.grid)
  let tn (f : Team → Nat) : Nat := (t.map f).getD 0
  let kn (f : Grid → Nat) : Nat := (k.map f).getD 0
  if n = 0x11 then BitVec.ofNat 64 g.ovfCsr
  else if n = 0x12 then g.lsc.setWidth 64
  else if n = 0x13 then g.lscn.setWidth 64
  else if n = 0x14 then g.lsci.setWidth 64
  else if n = 0x20 then g.gang.setWidth 64
  else if n = 0x21 then BitVec.ofNat 64 g.mbat
  else if n = 0x22 then g.cmdseq.setWidth 64
  else if n = 0x2E then BitVec.ofNat 64 (tn (fun t => t.tswz.toNat))
  else if n = 0x30 then g.vcur.setWidth 64
  else if n = 0x31 then BitVec.ofNat 64 g.vpart
  else if n = 0x40 then g.runs.setWidth 64
  else if n = 0x41 then g.forced.setWidth 64
  else if n = 0x42 then g.trdly.setWidth 64
  else if n = 0x50 then g.tcause.setWidth 64
  else if n = 0x51 then g.tpc
  else if n = 0x52 then g.taddr
  else if n = 0x53 then g.tdetail.setWidth 64
  else if n = 0x54 then g.tsite
  else if n = 0x55 then g.tseq.setWidth 64
  else if n = 0x56 then g.tlane.setWidth 64
  else if n = 0x57 then g.tscr
  else if n = 0x58 then BitVec.ofNat 64 g.tstat
  else if n = 0x66 then g.lbase
  else if n = 0x67 then g.lsize
  else BitVec.ofNat 64 (
    if n = 0x01 then g.gi
    else if n = 0x02 then tn (fun t => t.idx)
    else if n = 0x03 then kn (fun k => k.num.toNat)
    else if n = 0x04 then g.rank * 256 + g.role
    else if n = 0x05 then g.budget * 65536 + g.width
    else if n = 0x06 then g.splits.length * 16 + idx
    else if n = 0x07 then g.part * 16384 + g.slot * 4096 + g.core
    else if n = 0x08 then s.ctxAsid g.ctx * 65536 + g.ctx
    else if n = 0x09 then kn (fun k => k.teamN)
    else if n = 0x0A then kn (fun k => k.rec_.cset) * 256 + tn (fun t => t.member)
    else if n = 0x60 then kn (fun k => k.queue * 65536 + k.prio)
    else if n = 0x70 then g.drcnt
    else if n = 0x71 then (s.fallow.get [] g.ctx).length
    else 0)
/-- `CSRR` (R417): a lane's CSR in each participating lane, a group's once into `Sd` or into every participating lane. -/
def execCsrr (h : Hdr) (sc : Bool) (d : Reg) (csr : BitVec 12) (s : State) : Host.Outcome State Fault Refusal :=
  issue s h .long (Instr.csrr h sc d csr).uses false 1 (fun s c =>
    let n := csr.toNat
    if c.act = 0 then .done s Res.nil
    else if n = 0 then .done s (Res.of ((laneList c.act).map (fun l => .v d.toNat l (BitVec.ofNat 32 l))))
    else if n = 0x10 then
      if c.g.pend.any (fun p => p.setsFlg) then .stall s .flags
      else .done s (Res.of ((laneList c.act).map (fun l => .v d.toNat l ((c.g.getFlg l).setWidth 32))))
    else
      let v := s.csr c.g c.idx n
      if sc then .done s (Res.of [.s d.toNat v])
      else .done s (Res.of ((laneList c.act).map (fun l => .v d.toNat l (v.setWidth 32)))))

/-- A value that a `CSRW` of a group CSR may write (R125, R212, R411, R417). -/
def csrValueOk (n : Nat) (v : W64) : Bool :=
  if n = 0x2E then decide (v.toNat < 16) && decide (v.toNat % 8 ≠ 7)
  else if n = 0x51 then v.toNat % 8 == 0 && decide (v.toNat < 2 ^ 52)
  else if n = 0x57 then true
  else if n = 0x12 then decide (0x33800000 ≤ v.toNat) && decide (v.toNat ≤ 0x4B800000)
  else decide (v.toNat < 2 ^ 32)
/-- The write of a group CSR. -/
def State.csrPut (s : State) (gid : Nat) (g : Group) (n : Nat) (v : W64) : State :=
  if n = 0x2E then s.updTeam g.tid (fun t => { t with tswz := v.setWidth 4 })
  else
    s.updGrp gid (fun g =>
      if n = 0x11 then { g with nf := g.nf && !v.getLsbD 1, mx := g.mx && !v.getLsbD 0 }
      else if n = 0x12 then { g with lsc := v.setWidth 32 }
      else if n = 0x13 then { g with lscn := v.setWidth 32 }
      else if n = 0x14 then { g with lsci := v.setWidth 32 }
      else if n = 0x51 then { g with tpc := v }
      else if n = 0x57 then { g with tscr := v }
      else g)
/-- `CSRW` (R164, R417): `FLG` from a vector register in each participating lane, a group CSR once from a scalar one. -/
def execCsrw (h : Hdr) (sc : Bool) (a : Reg) (csr : BitVec 12) (s : State) : Host.Outcome State Fault Refusal :=
  issue s h .long (Instr.csrw h sc a csr).uses false 1 (fun s c =>
    let n := csr.toNat
    if c.act = 0 then .done s Res.nil
    else if n = 0x10 then
      if c.g.pend.any (fun p => p.setsFlg) then .stall s .flags
      else match (laneList c.act).find? (fun l => decide (256 ≤ (c.g.getV a.toNat l).toNat)) with
        | some l => .fault s (flt fcOperand 0 0 l)
        | none =>
          let m := (laneList c.act).foldl (fun m l => m.set 0 l ((c.g.getV a.toNat l).setWidth 8)) c.g.flg
          .done (s.updGrp c.gid (fun g => { g with flg := m })) Res.nil
    else
      let v := c.g.getS a.toNat
      if !csrValueOk n v then .fault s (flt fcOperand)
      else if (n = 0x51 ∨ n = 0x57) ∧ c.g.hm = false then .fault s (flt fcPrivilege)
      else .done (s.csrPut c.gid c.g n v) Res.nil)

/-- A split waits in an `MWAIT` that has a fault to raise (R254, R410). -/
def Group.mwaitBad (g : Group) (x : Split) : Bool :=
  match x.st with
  | .waiting (.matrix n) => g.matrixFault (.before n)
  | _ => false
/-- A split asleep in `SLEEP`. -/
def Split.inSleep (x : Split) : Bool :=
  match x.st with
  | .asleep (.sleep _) => true
  | _ => false
/-- The delivery of a group's oldest asynchronous fault at a run boundary, where one can be made (R410): to the split that would
issue, to one whose `MWAIT` depends on it, or, with none of these, to one asleep in `SLEEP`, which wakes; a `MATRIX_RESET` only to an
`MWAIT` (R261). None in handler
mode, for a group that the debugger holds, or for one that has stopped for a save (R419). -/
def State.boundaryFault (s : State) (gid : Nat) (g : Group) : Option State :=
  if g.hm || g.dbgStop || g.halted || s.running gid then none
  else
    match (if g.pendq.all AFault.isReset then none else s.nextSplit gid g) with
    | some sp => some (s.deliverPending gid sp.idx sp.pc)
    | none =>
      match g.splits.find? g.mwaitBad with
      | some sp => some ((s.takeReset gid sp.pc).deliverPending gid sp.idx sp.pc)
      | none =>
        (if g.pendq.all AFault.isReset then none else g.splits.find? Split.inSleep).map
          (fun sp => (s.wakeSleeper gid sp.idx).deliverPending gid sp.idx (sp.pc + 8))
/-- The oldest pending asynchronous fault is delivered at a run boundary (R410): `unit` is the group. -/
def execAsyncFaultDelivery (s : State) : Host.Outcome State Fault Refusal :=
  .next (((s.grp s.ev.unit).bind (s.boundaryFault s.ev.unit)).getD s)

end Sys2Proof.Machine
end

