-- ==== Sys2Proof/Machine/Trace.lean ====
section
/-! DEFINITION. Trace records reaching the trace cores, sieve programs and their words (R428 to R432), debug stops (R433, R434),
progress counters and causal trials (R436 to R438). -/

namespace Sys2Proof.Machine

-- ## The trace ring (R430)

def State.trc (s : State) (die : Nat) : TraceSt := s.traces.get TraceSt.init die
def State.setTrc (s : State) (die : Nat) (t : TraceSt) : State := { s with traces := s.traces.set TraceSt.init die t }
def State.trcOn (s : State) (die : Nat) : Bool := fld (s.reg (trcAddr die 0)) 0 0 == 1
def State.frozen (s : State) (die : Nat) : Bool := fld (s.reg (trcAddr die 0x20)) 4 4 == 1
/-- A kept record goes to the die's ring, or is counted where that is full; none while tracing is off or frozen (R430, R431). -/
def State.keepRec (s : State) (die : Nat) (r : TraceRec) : State :=
  let b := s.reg (trcAddr die 0x10)
  let p := s.reg (trcAddr die 0x18)
  let size := 2 ^ fld b 4 0
  let tail := fld p 31 0
  if s.trcOn die = false ∨ s.frozen die = true ∨ fld b 4 0 = 0 then s
  else if size ≤ (tail + 2 ^ 32 - fld p 63 32) % 2 ^ 32 then s.setReg (trcAddr die 0x28) (s.reg (trcAddr die 0x28) + 1)
  else
    let a := fld b 47 12 * 4096 + 32 * (tail % size)
    let bytes := bytesOf 8 r.q0.toNat ++ bytesOf 8 r.q1.toNat ++ bytesOf 8 r.q2.toNat ++ bytesOf 8 r.q3.toNat
    (s.physWrite a bytes).setRegFld (trcAddr die 0x18) 31 0 (tail + 1)
/-- A loss record of a cluster (R427): only `CORE` is named. -/
def State.lossRec (s : State) (cl n cause : Nat) : TraceRec :=
  ⟨BitVec.ofNat 64 (16 * cl * 2 ^ 20 + 6), 0, BitVec.ofNat 64 (n % 2 ^ 32 * 2 ^ 32), BitVec.ofNat 64 (cause * 2 ^ 48 + s.deviceNs % 2 ^ 48)⟩
def TraceRec.kind (r : TraceRec) : Nat := fld r.q0 7 0
/-- The records that a buffer's contents stand for: a loss record stands for those it counts (R427, R429). -/
def TraceBuf.held (b : TraceBuf) : Nat := (b.recs.map (fun r => if r.kind = 6 then fld r.q2 63 32 else 1)).foldl (· + ·) 0
/-- A gate that was asked for closes once the buffer is empty (R429). -/
def TraceBuf.settle (b : TraceBuf) : TraceBuf := if b.gate.isSome ∧ b.recs = [] then { b with gate := none, gated := true } else b
/-- While tracing is off the buffers of a die's clusters discard their records without counting them (R430). -/
def State.dropTrace (s : State) (die : Nat) : State :=
  (List.range 5).foldl (fun s i =>
    let cl := 5 * die + i
    { s with tbufs := s.tbufs.set TraceBuf.init cl ({ s.tbufs.get TraceBuf.init cl with recs := [], lost := 0 } : TraceBuf).settle }) s
/-- `TRACE_SIEVE_RUN` (R428, R430): the oldest record of a cluster's buffer reaches the trace core: `unit` is the cluster. Where
records were lost, a loss record takes the freed place. A record is sieved where a program has been accepted. -/
def execTraceSieveRun (s : State) : Host.Outcome State Fault Refusal :=
  let cl := s.ev.unit
  let die := cl / 5
  let b := s.tbufs.get TraceBuf.init cl
  match b.recs with
  | [] => .next s
  | r :: rest =>
    if s.trcOn die = false then .next (s.dropTrace die)
    else if (s.trc die).cur.isSome then .next s
    else
      let b : TraceBuf := if b.lost = 0 then { b with recs := rest } else { b with recs := rest ++ [s.lossRec cl b.lost 0], lost := 0 }
      let s := { s with tbufs := s.tbufs.set TraceBuf.init cl b.settle }
      if r.kind = 6 ∨ (s.trc die).prog.isNone = true then .next (s.keepRec die r)
      else .next (s.setTrc die { s.trc die with cur := some r, idx := 0, k := [] })
/-- `POWER_GATE_REQUEST` (R429): `unit` is the cluster. -/
def execPowerGateRequest (s : State) : Host.Outcome State Fault Refusal :=
  let cl := s.ev.unit
  let b := s.tbufs.get TraceBuf.init cl
  if 40 ≤ cl ∨ b.gate.isSome = true ∨ b.gated = true then .next s
  else .next { s with tbufs := s.tbufs.set TraceBuf.init cl ({ b with gate := some (s.now + 54400) } : TraceBuf).settle }
/-- `POWER_GATE_TIMEOUT` (R429): what the buffer still holds is discarded, and one loss record counts it. -/
def execPowerGateTimeout (s : State) : Host.Outcome State Fault Refusal :=
  let cl := s.ev.unit
  let b := s.tbufs.get TraceBuf.init cl
  match b.gate with
  | none => .next s
  | some t =>
    if s.now < t then .next s
    else
      let s := { s with tbufs := s.tbufs.set TraceBuf.init cl ⟨[], 0, none, true⟩ }
      .next (s.keepRec (cl / 5) (s.lossRec cl (b.held + b.lost) 1))
/-- `TRC_STAT_CLEAR` (R430): `unit` is the die, `val` the value written. -/
def execTrcStatClear (s : State) : Host.Outcome State Fault Refusal :=
  .next (if s.ev.unit < 8 then s.regPut (trcAddr s.ev.unit 0x20) s.ev.val else s)

-- ## Loading a sieve (R432)

/-- How far ahead a word branches, none for a word that does not branch. -/
def branchOf (w : W32) : Option Nat :=
  if 9 ≤ w.toNat / 2 ^ 26 ∧ w.toNat / 2 ^ 26 ≤ 11 then some (w.toNat % 2 ^ 20) else none
def isStop (w : W32) : Bool := w.toNat / 2 ^ 26 == 12 || w.toNat / 2 ^ 26 == 13
/-- The words read: up to a `KEEP` or `DROP` that no branch passes, at most 64. `far` is the furthest target so far. -/
def readSieve (word : Nat → W32) : Nat → Nat → Nat → List W32
  | 0, _, _ => []
  | n + 1, i, far =>
    let w := word i
    let far := match branchOf w with
      | some k => max far (i + k)
      | none => far
    if isStop w && decide (far ≤ i) then [w] else w :: readSieve word n (i + 1) far
/-- The first word that keeps a program from being accepted. -/
def badSieve (ws : List W32) : Option Nat :=
  (List.range ws.length).find? (fun i =>
    let w := (ws[i]?).getD 0
    (decodeSieve w).isNone
      || (match branchOf w with
          | some k => k == 0 || decide (63 < k) || decide (ws.length ≤ i + k)
          | none => false)
      || (i + 1 == ws.length && !isStop w))
/-- `SIEVE_LOAD`: `unit` is the die. The load takes effect between two records; one that fails keeps the program. -/
def execSieveLoad (s : State) : Host.Outcome State Fault Refusal :=
  let d := s.ev.unit
  if 8 ≤ d ∨ (s.trc d).cur.isSome = true ∨ fld (s.reg (trcAddr d 0)) 1 1 = 0 then .next s
  else
    let a := fld (s.reg (trcAddr d 8)) 47 2 * 4
    let ws := readSieve (fun i => BitVec.ofNat 32 (natOf (s.homeBytes 0 (canon (a + 4 * i) false) 4))) 64 0 0
    let s := s.setRegFld (trcAddr d 0) 1 1 0
    match badSieve ws with
    | none => .next (s.setTrc d { s.trc d with prog := some ws })
    | some i => .next ((s.setRegFld (trcAddr d 0x20) 7 7 1).setRegFld (trcAddr d 0x20) 14 8 i)

-- ## Sieve words (R431)

def TraceSt.r (t : TraceSt) (k : BitVec 3) : W64 := if k = 0 then 0 else t.k.get 0 k.toNat
def TraceSt.put (t : TraceSt) (k : BitVec 3) (v : W64) : TraceSt := if k = 0 then t else { t with k := t.k.set 0 k.toNat v }
def TraceSt.y (t : TraceSt) (a : BitVec 3) (i : BitVec 20) : W64 := t.r a + i.signExtend 64
def TraceRec.quad (r : TraceRec) (y : W64) : W64 := if y = 0 then r.q0 else if y = 1 then r.q1 else if y = 2 then r.q2 else if y = 3 then r.q3 else 0
/-- A word of the running program; `f` has the die, the program's state and the record. -/
def sieveWord (s : State) (f : Nat → TraceSt → TraceRec → State) : Host.Outcome State Fault Refusal :=
  match s.curDie with
  | none => .fault .noSieve
  | some d =>
    match (s.trc d).cur with
    | none => .fault .noSieve
    | some r => .next (f d (s.trc d) r)
/-- A word that sets a register. -/
def sieveReg (s : State) (d : BitVec 3) (f : TraceSt → TraceRec → W64) : Host.Outcome State Fault Refusal :=
  sieveWord s (fun die t r => s.setTrc die { t.put d (f t r) with idx := t.idx + 1 })
/-- A branch. -/
def sieveJump (s : State) (d a : BitVec 3) (i : BitVec 20) (c : W64 → W64 → Bool) : Host.Outcome State Fault Refusal :=
  sieveWord s (fun die t _ => s.setTrc die { t with idx := t.idx + (if c (t.r d) (t.r a) then i.toNat else 1) })
/-- A word that counts. -/
def sieveCount (s : State) (f : Nat → TraceSt → State) : Host.Outcome State Fault Refusal :=
  sieveWord s (fun die t _ => (f die t).setTrc die { t with idx := t.idx + 1 })
/-- The program ends. -/
def sieveEnd (s : State) (keep : Bool) : Host.Outcome State Fault Refusal :=
  sieveWord s (fun die t r =>
    let s := s.setTrc die { t with cur := none, idx := 0, k := [] }
    if keep then s.keepRec die r else s)
/-- `SIEVE_LDF` … `SIEVE_HIST`. -/
def execSieveLdf (d a : BitVec 3) (i : BitVec 20) (s : State) : Host.Outcome State Fault Refusal :=
  sieveReg s d (fun t r => r.quad (t.y a i))
def execSieveLdi (d : BitVec 3) (i : BitVec 20) (s : State) : Host.Outcome State Fault Refusal :=
  sieveReg s d (fun _ _ => i.signExtend 64)
def execSieveAdd (d a : BitVec 3) (i : BitVec 20) (s : State) : Host.Outcome State Fault Refusal :=
  sieveReg s d (fun t _ => t.r d + t.y a i)
def execSieveSub (d a : BitVec 3) (i : BitVec 20) (s : State) : Host.Outcome State Fault Refusal :=
  sieveReg s d (fun t _ => t.r d - t.y a i)
def execSieveAnd (d a : BitVec 3) (i : BitVec 20) (s : State) : Host.Outcome State Fault Refusal :=
  sieveReg s d (fun t _ => t.r d &&& t.y a i)
def execSieveOr (d a : BitVec 3) (i : BitVec 20) (s : State) : Host.Outcome State Fault Refusal :=
  sieveReg s d (fun t _ => t.r d ||| t.y a i)
def execSieveXor (d a : BitVec 3) (i : BitVec 20) (s : State) : Host.Outcome State Fault Refusal :=
  sieveReg s d (fun t _ => t.r d ^^^ t.y a i)
def execSieveShr (d a : BitVec 3) (i : BitVec 20) (s : State) : Host.Outcome State Fault Refusal :=
  sieveReg s d (fun t _ => if 64 ≤ (t.y a i).toNat then 0 else t.r d >>> (t.y a i).toNat)
def execSieveShl (d a : BitVec 3) (i : BitVec 20) (s : State) : Host.Outcome State Fault Refusal :=
  sieveReg s d (fun t _ => if 64 ≤ (t.y a i).toNat then 0 else t.r d <<< (t.y a i).toNat)
def execSieveJeq (d a : BitVec 3) (i : BitVec 20) (s : State) : Host.Outcome State Fault Refusal :=
  sieveJump s d a i (fun v w => v == w)
def execSieveJne (d a : BitVec 3) (i : BitVec 20) (s : State) : Host.Outcome State Fault Refusal :=
  sieveJump s d a i (fun v w => v != w)
def execSieveJlt (d a : BitVec 3) (i : BitVec 20) (s : State) : Host.Outcome State Fault Refusal :=
  sieveJump s d a i (fun v w => decide (v.toNat < w.toNat))
def execSieveKeep (s : State) : Host.Outcome State Fault Refusal := sieveEnd s true
def execSieveDrop (s : State) : Host.Outcome State Fault Refusal := sieveEnd s false
def execSieveCnt (d a : BitVec 3) (i : BitVec 20) (s : State) : Host.Outcome State Fault Refusal :=
  sieveCount s (fun die t =>
    let r := trcAddr die (0x40 + 8 * d.toNat)
    s.setReg r (s.reg r + t.y a i))
def execSieveTrig (d : BitVec 2) (s : State) : Host.Outcome State Fault Refusal :=
  sieveCount s (fun die _ =>
    let r := trcAddr die 0x20
    let s := s.setRegFld r d.toNat d.toNat 1
    if fld (s.reg (trcAddr die 0)) 2 2 = 1 then s.setRegFld r 4 4 1 else s)
def execSieveHist (d : BitVec 2) (a : BitVec 3) (i : BitVec 20) (s : State) : Host.Outcome State Fault Refusal :=
  sieveCount s (fun die t =>
    let r := trcAddr die (0x200 + 8 * (16 * d.toNat + min 15 (t.y a i).toNat))
    s.setReg r (s.reg r + 1))

-- ## Debug stops (R433, R434)

/-- The groups of a slot, resident or swapped out, that the debugger does not hold. -/
def State.unstopped (s : State) (n : Nat) : List Nat :=
  ((s.groups ++ s.saved.flatMap (fun e => e.2.groups)).filter (fun e => e.2.ctx == n && !e.2.dbgStop)).map Prod.fst
/-- A stop of a slot's groups is asked for (R433); a slot without a group to stop has none to resolve. -/
def State.askStop (s : State) (n : Nat) : State :=
  let new := ((s.unstopped n).filter (fun i => !s.stopAsked i)).map (fun i => (n, i))
  if new.isEmpty then s else (({ s with stops := s.stops ++ new } : State).setRegFld (dbgAddr n) 2 2 1).takeStops
/-- `DEBUG_STOP_REQUEST`: `unit` is the slot. -/
def execDebugStopRequest (s : State) : Host.Outcome State Fault Refusal :=
  .next (if s.ev.unit < 64 then s.askStop s.ev.unit else s)
/-- The splits that stops hold, with their faults. -/
def Group.stopped (g : Group) : List (Split × Option FInfo × Option AFault) :=
  g.splits.filterMap (fun x => match x.st with
    | .waiting (.stopped f af) => some (x, f, af)
    | _ => none)
/-- A stopped split goes on: past a `BKPT`, or into the fault that stopped it (R434); an asynchronous one stays pending where
another split's fault has just begun the handler (R413). -/
def State.splitGo (s : State) (gid : Nat) (sp : Split) (f : Option FInfo) (af : Option AFault) : State :=
  match s.grp gid with
  | none => s
  | some g =>
    let g' := g.putSplit { sp with st := .ready }
    match f, af with
    | some f, _ =>
      let next : W64 := if f.code = fcTrap ∨ f.code = fcBreak then sp.pc + 8 else sp.pc
      (s.setGrp gid g').deliver gid sp.idx false f.code f.detail f.addr next sp.pc g.cmdseq f.lane
    | none, some f =>
      if g.hm then s.setGrp gid g'
      else ((s.setGrp gid { g' with pendq := g'.pendq.erase f }).deliver gid sp.idx true f.code f.detail f.addr sp.pc f.site f.seq 0).matrixSettle gid
    | none, none => s.setGrp gid (g.putSplit { sp with st := .ready, pc := sp.pc + 8, wins := sp.age g 1 })
/-- A resumed group goes on, every split of it that a stop held; one that is wholly asleep enters that state again (R370,
R434). -/
def State.debugGo (s : State) (gid : Nat) : State :=
  match s.grp gid with
  | none => s
  | some g =>
    (g.stopped.foldl (fun s x => s.splitGo gid x.1 x.2.1 x.2.2)
      (s.setGrp gid ({ g with dbgStop := false }.becomeReady s.tick))).quiet gid
/-- Every stopped group of a slot goes on (R433); one that is out does so once it is resident again. -/
def State.endStops (s : State) (n : Nat) : State :=
  let s := { s with
    saved := s.saved.mapV (fun (t : SavedTeam) =>
      if t.ctx = n then { t with groups := t.groups.mapV (fun (g : Group) => { g with dbgStop := false }) } else t) }
  (s.groups.keep (fun _ g => g.ctx == n && g.dbgStop)).foldl (fun s e => s.debugGo e.1) s
/-- `DEBUG_RESUME`: `unit` is the slot. -/
def execDebugResume (s : State) : Host.Outcome State Fault Refusal :=
  .next (if s.ev.unit < 64 then s.endStops s.ev.unit else s)

-- ## Progress counters and trials (R436 to R438)

/-- `PROG` (R436, R438). -/
def execProg (h : Hdr) (k : BitVec 3) (s : State) : Host.Outcome State Fault Refusal :=
  onceWord s h .long [] (fun s c =>
    let r := progAddr c.g.ctx k.toNat
    let s := s.setReg r (s.reg r + 1)
    let s := s.trace c.g c.idx 0x04 c.sp.pc c.g.cmdseq k.toNat 0
    let cfg := s.reg (trialAddr 0)
    let s := match s.trial with
      | some t =>
        if fld cfg 61 56 = c.g.ctx ∧ fld cfg 2 0 = k.toNat then
          let w := trialAddr (if t.delayed then 0x18 else 0x20)
          s.setReg w (s.reg w + 1)
        else s
      | none => s
    .done s Res.nil)
/-- The length of a trial's window, in cycles. -/
def State.trialLen (s : State) : Nat := 850 * fld (s.reg (trialAddr 0)) 31 16
/-- No partition has been counted in the window. -/
def State.clearTrial (s : State) : State := { s with parts := s.parts.mapV (fun (x : PartSt) => { x with trial := false }) }
/-- A write of a trial register (R437): while a trial runs, only `EN` may change. -/
def State.trialWrite (s : State) (off : Nat) (v : W64) : State :=
  let on := fld (s.reg (trialAddr 0)) 63 63 == 1
  if off ≠ 0 then (if on then s else s.regPut (trialAddr off) v)
  else if on then
    if fld v 63 63 = 1 then s else { s.setRegFld (trialAddr 0) 63 63 0 with trial := none }
  else
    let s := s.regPut (trialAddr 0) v
    if fld (s.reg (trialAddr 0)) 63 63 = 1 then { s.clearTrial with trial := some ⟨false, s.now + s.trialLen⟩ } else s
/-- `TRIAL_START`: `val` is written to `TRC_TCFG` with `EN` set. -/
def execTrialStart (s : State) : Host.Outcome State Fault Refusal := .next (s.trialWrite 0 (s.ev.val ||| bitsM 63 63))
/-- `TRIAL_STOP`. -/
def execTrialStop (s : State) : Host.Outcome State Fault Refusal := .next (s.trialWrite 0 (s.ev.val &&& ~~~ bitsM 63 63))
/-- `TRIAL_WINDOW_END`: the windows alternate, and a pair is counted (R438). -/
def execTrialWindowEnd (s : State) : Host.Outcome State Fault Refusal :=
  match s.trial with
  | none => .next s
  | some t =>
    if s.now < t.endAt then .next s
    else
      let s := { s.clearTrial with trial := some ⟨!t.delayed, t.endAt + s.trialLen⟩ }
      .next (if t.delayed then s.setRegFld (trialAddr 0x28) 31 0 (fld (s.reg (trialAddr 0x28)) 31 0 + 1) else s)

end Sys2Proof.Machine
end

