-- ==== Sys2Proof/Machine/Preempt.lean ====
section
/-! DEFINITION. Pre-emption: the choice of a team, its save image, saving and resuming it (R339, R357, R418 to R424). -/

namespace Sys2Proof.Machine

-- ## The image (R344, R420 to R422)

def padTo (n : Nat) (bs : List Byte) : List Byte := bs.take n ++ List.replicate (n - bs.length) 0
def le8 (v : Nat) : List Byte := bytesOf 8 v
def bit1 (b : Bool) : Nat := if b then 1 else 0
/-- The latch entry's 48 bytes (R422). -/
def Latch.image (e : Latch) : List Byte :=
  le8 (2 ^ 63 + e.tswz.toNat * 2 ^ 40 + bit1 e.za * 2 ^ 36 + e.tile % 16 * 2 ^ 32 + e.list.toNat)
    ++ le8 (e.bb % 2 ^ 32 * 2 ^ 32 + e.m % 128 + e.n % 256 * 2 ^ 8 + e.k % 2 ^ 14 * 2 ^ 16)
    ++ le8 e.sf0.toNat ++ le8 e.sf1.toNat ++ bytesOf 16 e.rcd.toNat
/-- A pending fault's 32 bytes. -/
def AFault.image (f : AFault) : List Byte :=
  le8 (f.code.toNat + f.detail.toNat * 2 ^ 32) ++ le8 f.addr.toNat ++ le8 f.site.toNat ++ le8 f.seq.toNat
/-- The encoding of a membership's mode (R359). -/
def phModeCode : PhMode → Nat
  | .aw => 0
  | .arr => 1
  | .wt => 2
def Member.image (m : Member) : List Byte :=
  le8 (m.phaser % 65536 + phModeCode m.mode * 65536 + 2 ^ 31 + m.ap.toNat * 2 ^ 32) ++ le8 0
/-- The state bits of a split. -/
def SplitSt.image : SplitSt → Nat
  | .ready => 0
  | .stalled _ => 1
  | .waiting _ => 1
  | .asleep _ => 2
/-- What is left of a `SLEEP`'s timeout; 0 for none. -/
def Split.left (sp : Split) (now : Nat) : Nat :=
  match sp.st with
  | .asleep (.sleep (some t)) => max 1 (t - now)
  | _ => 0
/-- A split of a group that the debugger holds is saved as waiting (R434). -/
def Split.image (sp : Split) (held : Bool) (pos now : Nat) : List Byte :=
  le8 sp.pc.toNat ++ le8 sp.mask.toNat ++ le8 ((if held && sp.st.image == 0 then 1 else sp.st.image) + pos * 16 + 128) ++ le8 (sp.left now)
def Rec.image (r : Rec) : List Byte :=
  le8 r.rejpc.toNat ++ le8 r.mask.toNat ++ le8 r.arr.toNat ++ le8 r.pkpc.toNat ++ le8 r.pkmask.toNat ++ le8 0
/-- The pending faults of an image, oldest first, `MATRIX_RESET` among them (R410, R424). -/
def Group.pendImage (g : Group) : List AFault := g.pendq.take 8
/-- A group record (R421): `Vj` of lane l stands at 0xC00 + 4(Wj + l), also where the table of R468 has `V1` at 0xC00 + 4j (log 49). -/
def Group.image (g : Group) (now : Nat) : List Byte :=
  let h := le8 (g.width + g.budget * 2 ^ 7 + g.gi * 2 ^ 16 + g.splits.length * 2 ^ 20 + bit1 g.wakeBit * 2 ^ 23 + bit1 g.hm * 2 ^ 24
      + g.stack.length * 2 ^ 25 + g.pendImage.length * 2 ^ 32)
    ++ le8 (g.cmdseq.toNat + g.mbat * 2 ^ 32) ++ le8 (g.gang.toNat + g.vcur.toNat * 2 ^ 32)
    ++ le8 (g.lsc.toNat + g.lscn.toNat * 2 ^ 32) ++ le8 (g.lsci.toNat + g.ovfCsr * 2 ^ 32) ++ le8 g.drcnt
    ++ le8 (g.latch.elim 0 (fun e => e.site.toNat)) ++ le8 (g.latch.elim 0 (fun e => e.seq.toNat))
  let csrs := le8 g.tcause.toNat ++ le8 g.tpc.toNat ++ le8 g.taddr.toNat ++ le8 g.tdetail.toNat ++ le8 g.tsite.toNat
    ++ le8 g.tseq.toNat ++ le8 g.tlane.toNat ++ le8 g.tscr.toNat ++ le8 g.tstat
  let splits := (List.range 4).flatMap (fun i => match g.splits.findIdx? (fun x => x.idx == i), g.split? i with
    | some pos, some sp => sp.image g.dbgStop pos now
    | _, _ => padTo 32 [])
  h ++ csrs ++ padTo 48 (g.latch.elim [] Latch.image) ++ padTo 264 (g.pendImage.flatMap AFault.image)
    ++ padTo 128 (g.members.flatMap Member.image) ++ splits ++ padTo 1536 (g.stack.flatMap Rec.image)
    ++ padTo 512 ((List.range 63).flatMap (fun i => le8 (g.getS i).toNat))
    ++ (List.range 8).flatMap (fun i => bytesOf 16 (g.getD i).toNat)
    ++ (List.range 7).flatMap (fun i => le8 (g.getP i).toNat)
    ++ padTo 136 ((List.range 64).map (fun l => g.getFlg l))
    ++ (List.range (g.budget * g.width)).flatMap (fun i => bytesOf 4 (g.getV (i / g.width) (i % g.width)).toNat)
/-- The bytes of a record, in whole 4 KiB. -/
def recBytes (width budget : Nat) : Nat := (0xC00 + 4 * width * budget + 4095) / 4096 * 4096
/-- Where the records stand, by group index in ascending order: the live groups' budgets decide. -/
def recOffs (width : Nat) : List (Nat × Nat) → Nat → List (Nat × Nat)
  | [], _ => []
  | (gi, budget) :: rest, off => (gi, off) :: recOffs width rest (off + recBytes width budget)
/-- A team's geometry in its image (R420): each record's offset, the scratchpad's, the tiles' directly after it, and the size. -/
structure Geo where
  recs : List (Nat × Nat)
  scratch : Nat
  tiles : Nat
  size : Nat
def geoOf (width scratchKib acc : Nat) (gs : List (Nat × Nat)) : Geo :=
  let rs := recOffs width gs 4096
  let sp := gs.foldl (fun o x => o + recBytes width x.2) 4096
  let tl := sp + scratchKib * 1024
  ⟨rs, sp, tl, tl + acc * 32768⟩
/-- The 64 KiB units that an image takes in the save area (R420). -/
def Geo.units (x : Geo) : Nat := (x.size + 65535) / 65536
def Geo.off (x : Geo) (gi : Nat) : Nat := ((x.recs.find? (fun r => r.1 == gi)).map Prod.snd).getD 0
/-- A barrier of the image. -/
def Round.image (r : Round) (gs : List Group) (gids : List Nat) : Nat :=
  2 ^ 63 + r.count % 32 + (((gids.zip gs).filter (fun x => r.joined.contains x.1)).map (fun x => 2 ^ (16 + x.2.gi))).foldl (· + ·) 0
/-- A team image (R420). -/
def Team.image (t : Team) (k : Grid) (gs : List (Nat × Group)) (geo : Geo) (now : Nat) : List Byte :=
  let h := le8 (1 + gs.length % 32 * 2 ^ 16 + t.acc % 32 * 2 ^ 24 + t.scratch % 2048 * 2 ^ 32 + (k.rec_.l1 - 768) / 256 % 4 * 2 ^ 44)
    ++ le8 (k.num.toNat + t.idx % 2 ^ 32 * 2 ^ 32) ++ le8 t.tswz.toNat ++ le8 t.core
    ++ (List.range 8).flatMap (fun i => le8 (match t.rounds.find? i with
        | some r => r.image (gs.map Prod.snd) (gs.map Prod.fst)
        | none => 0))
  padTo 128 h ++ padTo (4096 - 128) ((List.range 16).flatMap (fun i => le8 (geo.off i)))
    ++ gs.flatMap (fun e => padTo (recBytes e.2.width e.2.budget) (e.2.image now))
    ++ padTo (geo.tiles - geo.scratch) ((List.range (t.scratch * 1024)).map (fun o => t.sram.get 0 o))
    ++ (List.range (t.acc * 8192)).flatMap (fun i => bytesOf 4 (t.tiles.get 0 i).toNat)

-- ## Reading an image back

def natsOf (n : Nat) : Nat → List Byte → List Nat
  | 0, _ => []
  | k + 1, bs => natOf (bs.take n) :: natsOf n k (bs.drop n)
/-- The quadword at an offset. -/
def q64 (bs : List Byte) (off : Nat) : W64 := BitVec.ofNat 64 (natOf ((bs.drop off).take 8))
def w32At (bs : List Byte) (off : Nat) : W32 := BitVec.ofNat 32 (natOf ((bs.drop off).take 4))
def AFault.ofImage (bs : List Byte) (kind : CmdKind) : AFault :=
  ⟨BitVec.ofNat 8 (qfld bs 0 7 0), w32At bs 4, q64 bs 8, q64 bs 16, w32At bs 24, kind⟩
def phModeOf (c : Nat) : PhMode := if c = 0 then .aw else if c = 1 then .arr else .wt
def Latch.ofImage (bs : List Byte) (id : Nat) : Latch where
  id := id
  site := q64 bs 0x30
  seq := w32At bs 0x38
  tswz := BitVec.ofNat 4 (qfld bs 0x88 43 40)
  za := qfld bs 0x88 36 36 == 1
  tile := qfld bs 0x88 35 32
  list := w32At bs 0x88
  bb := qfld bs 0x90 63 32
  m := qfld bs 0x90 6 0
  n := qfld bs 0x90 15 8
  k := qfld bs 0x90 29 16
  sf0 := q64 bs 0x98
  sf1 := q64 bs 0xA0
  rcd := BitVec.ofNat 128 (natOf ((bs.drop 0xA8).take 16))
/-- The state a split resumes in (R357, R404): a split that waited at issue waits on, for a bank at its new core; a `TRPOP` issues
again; other waits go on, but for a `GRACE` whose period has ended. -/
def resumeSt (st : SplitSt) (core left savedAt : Nat) : SplitSt :=
  match st with
  | .ready => .ready
  | .stalled (.bank _ b) => .stalled (.bank core b)
  | .stalled w => .stalled w
  | .asleep (.trpop ..) => .ready
  | .asleep (.sleep _) => .asleep (.sleep (if left = 0 then none else some (savedAt + left)))
  | st => st
/-- A split of the image; a demotion that was due has moved it before it was saved (R343). -/
def splitOf (bs : List Byte) (kept : Group) (core savedAt i : Nat) : Option (Nat × Split) :=
  let o := 0x240 + 32 * i
  match kept.split? i with
  | none => none
  | some sp =>
    let w := q64 bs (o + 16)
    some (fld w 5 4, ⟨i, q64 bs o, q64 bs (o + 8), resumeSt sp.st core (qfld bs (o + 24) 63 0) savedAt, false, [], []⟩)
/-- A group from its record (R421) and from what the image has no place for, at its new place. -/
def State.groupOfImage (s : State) (bs : List Byte) (kept : Group) (savedAt core slot part : Nat) : Group :=
  let h := q64 bs 0
  let regs : Group := { kept with v := [], s := [], d := [], p := [], flg := [] }
  let g := ((natsOf 8 63 (bs.drop 0x8C0)).zipIdx).foldl (fun (g : Group) x => g.setS x.2 (BitVec.ofNat 64 x.1)) regs
  let g := ((natsOf 16 8 (bs.drop 0xAC0)).zipIdx).foldl (fun (g : Group) x => g.setD x.2 (BitVec.ofNat 128 x.1)) g
  let g := ((natsOf 8 7 (bs.drop 0xB40)).zipIdx).foldl (fun (g : Group) x => g.setPm x.2 (BitVec.ofNat 64 x.1)) g
  let g := { g with flg := (((bs.drop 0xB78).take 64).zipIdx).foldl (fun m x => m.set 0 x.2 x.1) [] }
  let g := ((natsOf 4 (kept.budget * kept.width) (bs.drop 0xC00)).zipIdx).foldl (fun (g : Group) x =>
    g.setV (x.2 / kept.width) (x.2 % kept.width) (BitVec.ofNat 32 x.1)) g
  let sps := ((List.range 4).filterMap (fun i => splitOf bs kept core savedAt i)).insertionSort (fun a b => a.1 ≤ b.1)
  let faults := (List.range (fld h 35 32)).map (fun i => AFault.ofImage (bs.drop (0xB8 + 32 * i))
      (((kept.pendImage[i]?).map (fun f => f.kind)).getD .other))
  { g with
    core := core
    slot := slot
    part := part
    halted := false
    splits := sps.map Prod.snd
    stack := (List.range (fld h 30 25)).map (fun i =>
      let o := 0x2C0 + 48 * i
      ⟨q64 bs o, q64 bs (o + 8), q64 bs (o + 16), q64 bs (o + 24), q64 bs (o + 32)⟩)
    wakeBit := fld h 23 23 == 1
    hm := fld h 24 24 == 1
    pendq := faults ++ kept.pendq.drop 8
    cmdseq := w32At bs 8
    openCnt := qfld bs 8 63 48
    gang := w32At bs 0x10
    vcur := w32At bs 0x14
    lsc := w32At bs 0x18
    lscn := w32At bs 0x1C
    lsci := w32At bs 0x20
    nf := qfld bs 0x20 33 33 == 1
    mx := qfld bs 0x20 32 32 == 1
    tcause := w32At bs 0x40
    tpc := q64 bs 0x48
    taddr := q64 bs 0x50
    tdetail := w32At bs 0x58
    tsite := q64 bs 0x60
    tseq := w32At bs 0x68
    tlane := w32At bs 0x70
    tscr := q64 bs 0x78
    latch := kept.latch.bind (fun e => if qfld bs 0x88 63 63 = 1 then some (Latch.ofImage bs e.id) else none)
    members := ((List.range 8).filter (fun i => qfld bs (0x1C0 + 16 * i) 31 31 == 1)).map (fun i =>
      let o := 0x1C0 + 16 * i
      ⟨qfld bs o 15 0, phModeOf (qfld bs o 17 16), w32At bs (o + 4)⟩)
    readyAt := if kept.dbgStop then none else some s.tick
    wait := 0 }

-- ## Choosing a team (R418)

/-- The interval of priority pre-emption, in cycles. -/
def State.preemptInt (s : State) : Nat := 850 * fld (s.reg rvPreemptAddr) 31 0
/-- The resident teams that a waiting grid may displace: those not already being saved. -/
def State.victims (s : State) (k : Grid) : List (Nat × Team × Nat) :=
  (s.teams.keep (fun tid _ => !(s.teamGroups tid).isEmpty && !s.preempts.contains tid)).filterMap (fun e =>
    match s.grid e.2.grid with
    | some x => if x.prio < k.prio ∧ s.saveUnits e.2.ctx ≠ 0 then some (e.1, e.2, x.prio) else none
    | none => none)
/-- The team of lowest priority, the most recently placed among those. -/
def worst (l : List (Nat × Team × Nat)) : Option Nat :=
  (l.foldl (fun (best : Option (Nat × Team × Nat)) x =>
    match best with
    | none => some x
    | some b => if lexLt [b.2.2, x.2.1.placedAt, x.1] [x.2.2, b.2.1.placedAt, b.1] then some b else some x) none).map Prod.fst
/-- The fewest removals of displaceable teams after which a team fits on a core. -/
def State.removals (s : State) (k : Grid) (vs : List (Nat × Team × Nat)) (core : Nat) : Option Nat :=
  let ids := (vs.filter (fun v => v.2.1.core == core)).map Prod.fst
  (List.range (ids.length + 1)).find? (fun n =>
    decide (0 < n) && (ids.sublistsLen n).any (fun gone => (s.fitOn core (s.preempts ++ gone) k.rec_).isSome))
/-- The team to pre-empt for a waiting grid. -/
def State.victim (s : State) (kid : Nat) (k : Grid) : Option Nat :=
  let vs := s.victims k
  let single := vs.filter (fun v => (s.choiceFor (s.preempts ++ [v.1]) kid k).isSome)
  if single.isEmpty then
    let need := (List.range 640).filterMap (fun c => (s.removals k vs c).map (fun n => (c, n)))
    let least := need.foldl (fun m x => min m x.2) 65
    worst (vs.filter (fun v => need.contains (v.2.1.core, least)))
  else worst single
/-- `PRIORITY_PREEMPTION`: `unit` is the waiting grid (R418). Its interval counts from when the grid came to have an unplaced
team, and from the last removal for it; while teams that are being saved make room for its next team, no further one is taken
(R470, log 45). -/
def execPriorityPreemption (s : State) : Host.Outcome State Fault Refusal :=
  let kid := s.ev.unit
  match s.grid kid with
  | none => .next s
  | some k =>
    if s.preemptInt = 0 ∨ s.hasUnplaced kid k = false ∨ s.susp.contains k.slot = true
        ∨ s.now < max k.since (s.preemptAt.get 0 kid) + s.preemptInt ∨ (s.choiceFor s.preempts kid k).isSome = true then .next s
    else match s.victim kid k with
      | none => .next s
      | some tid => .next { s with preempts := s.preempts ++ [tid], preemptAt := s.preemptAt.set 0 kid s.now }

-- ## Saving (R135, R339, R419)

/-- The team's commands have completed or faulted; transfers of `OFFL` and `RTRN` that have begun go on (R118). -/
def State.cmdsDone (s : State) (tid : Nat) : Bool :=
  !s.ecmds.any (fun e => e.2.tid == some tid && (match e.2.op with
      | .cpy .. => true
      | _ => !e.2.started))
    && !s.remotes.any (fun e => e.2.tid == tid) && !s.mcmds.any (fun e => e.2.tid == tid)
/-- The group can stop for a save (R419): it stands at a run boundary, and no fault is to be delivered first (R424). -/
def State.canHalt (s : State) (gid : Nat) (g : Group) : Bool := !s.running gid && (s.boundaryFault gid g).isNone
/-- A team being saved stops, each of its groups at a boundary (R419, R434). -/
def State.halt (s : State) (tid : Nat) : State :=
  let s := s.takeStops
  (s.groups.keep (fun gid g => g.tid == tid && !g.halted && s.canHalt gid g)).foldl (fun s e =>
    s.updGrp e.1 (fun g => { g with halted := true, readyAt := none, wait := 0 })) s
/-- A stopped group with nothing of it on its way (R419). -/
def Group.settled (g : Group) : Bool := g.halted && g.pend.isEmpty && g.drained
/-- A split that stalled at issue and whose wait is over is ready (R340). -/
def State.unstall (s : State) (gid : Nat) (g : Group) : Group :=
  { g with splits := g.splits.map (fun x => if s.splitReady gid g x then { x with st := .ready } else x) }
/-- The lowest free place of a save area, in units. -/
def State.saveSpace (s : State) (slot n : Nat) : Option Nat :=
  let used := (s.saved.keep (fun _ t => t.ctx == slot)).vals.map (fun t => (t.unit, t.units))
  ((0 :: used.map (fun x => x.1 + x.2)).insertionSort (· ≤ ·)).find? (fun u =>
    decide (u + n ≤ s.saveUnits slot) && used.all (fun x => decide (u + n ≤ x.1) || decide (x.1 + x.2 ≤ u)))
/-- The address of a unit of a save area. -/
def State.saveVa (s : State) (slot unit : Nat) : Nat := (fld (s.reg (saveBaseAddr slot)) 51 16 + unit) * 65536
/-- The image written, with the poison of the scratchpad's words (R79). -/
def State.writeImage (s : State) (slot va : Nat) (t : Team) (geo : Geo) (bs : List Byte) : State × Except EStop Unit :=
  match s.engTargets 0 slot va bs with
  | (s, .error x) => (s, .error x)
  | (s, .ok l) =>
    let s := (s.engTraffic slot 3 .write (l.map (fun p => (p.1, p.2.1)))).homeScatter l
    let ws := t.poison.filterMap (fun w => if w.2 && decide (geo.scratch + 32 * w.1 < geo.tiles) then l[geo.scratch + 32 * w.1]? else none)
    ({ s with poison := ws.foldl (fun m x => m.set false (x.1 / 32) true) s.poison }, .ok ())
/-- A team whose image is written leaves its core: the record of kind `0x07` names its first group and split (R419, R430). -/
def State.teamAway (s : State) (tid : Nat) (t : Team) (k : Grid) (gs : SMap Group) (unit n : Nat) : State :=
  let ids := gs.map Prod.fst
  let s := (gs.filter (fun e => e.2.sleeping)).foldl (fun s e => s.passQ e.1) s
  let s := match gs.head? with
    | some e => s.trace e.2 ((e.2.splits.head?).elim 0 (fun x => x.idx)) 0x07 ((e.2.splits.head?).elim 0 (fun x => x.pc)) e.2.cmdseq unit 0
    | none => s
  ({ s with
    groups := s.groups.keep (fun _ g => g.tid != tid)
    teams := s.teams.erase tid
    troughs := s.troughs.mapV (fun (x : TroughSt) => { x with sleepers := x.sleepers.filter (fun e => !ids.contains e.1) })
    preempts := s.preempts.filter (· != tid)
    grids := if s.hasUnplaced t.grid k then s.grids else s.grids.insert t.grid { k with since := s.now }
    saved := s.saved.insert tid ⟨t.grid, t.idx, t.ctx, unit, n, s.now, t.member, gs, [],
      t.sram.keep (fun o _ => decide (t.scratch * 1024 ≤ o)), t.poison.keep (fun w _ => decide (t.scratch * 32 ≤ w))⟩ } : State).checkSuspends
/-- The image of a stopped team goes to its place in the save area (R419 step 5); while its page makes it wait the team stays
stopped. -/
def State.saveAt (s : State) (tid : Nat) (t : Team) (k : Grid) (gs : SMap Group) (geo : Geo) (u : Nat) (image : List Byte) : State :=
  match s.writeImage t.ctx (s.saveVa t.ctx u) t geo image with
  | (s, .error .wait) => s
  | (s, .error (.fault c _ va)) =>
    ({ s with preempts := s.preempts.filter (· != tid) } : State).unhandled t.ctx (BitVec.ofNat 8 c) 0 (BitVec.ofNat 64 va)
  | (s, .ok _) => s.teamAway tid t k gs u geo.units
/-- Steps 4 and 5 of R419 for a team that has stopped and settled; without room, or while a regulator holds back its release, it
stays stopped. -/
def State.saveTeam (s : State) (tid : Nat) (t : Team) (k : Grid) (gs : SMap Group) : State :=
  match s.pass (gs.foldl (fun s e => s.release e.2 .device) s) false with
  | .error w => w
  | .ok s =>
  let geo := geoOf k.rec_.width t.scratch t.acc (gs.map (fun e => (e.2.gi, e.2.budget)))
  match s.saveSpace t.ctx geo.units with
  | none => s
  | some u => s.saveAt tid t k gs geo u (t.image k gs geo s.now)
/-- `TEAM_SAVE`: `unit` is a team being pre-empted. It stops, and once all of it has stopped and settled it is saved (R419). A
demotion that a result has brought since the stop moves its split now (R343). -/
def execTeamSave (s : State) : Host.Outcome State Fault Refusal :=
  let tid := s.ev.unit
  match s.team tid with
  | none => .next s
  | some t =>
    match s.grid t.grid with
    | none => .next s
    | some k =>
      let gs := ((s.groups.keep (fun _ g => g.tid == tid)).insertionSort (fun a b => a.2.gi ≤ b.2.gi)).map
        (fun e => (e.1, (s.unstall e.1 e.2).demoteNow))
      if s.preempts.contains tid = false ∨ gs.isEmpty = true then .next s
      else if s.cmdsDone tid = false ∨ gs.all (fun e => e.2.settled) = false then .next (s.halt tid)
      else .next (s.saveTeam tid t k gs)

-- ## Resuming (R339, R423)

/-- The scope of a resumed team's acquire (R339). -/
def moveScope (old new : Nat) : Scope := if old = new then .team else if old / 16 = new / 16 then .cluster else .device
/-- A barrier of the image: the groups it lists are those of the team. -/
def roundOf (w : W64) (gs : List (Nat × Group)) : Option Round :=
  if fld w 63 63 = 1 then some ⟨fld w 4 0, (gs.filter (fun e => fld w (16 + e.2.gi) (16 + e.2.gi) == 1)).map Prod.fst⟩ else none
/-- A `GRACE` whose period ended while its group was out ends now (R371). -/
def State.graceOver (s : State) (gid : Nat) : State :=
  match s.grp gid with
  | none => s
  | some g =>
    match g.splits.find? (fun x => match x.st with
      | .waiting (.grace id) => (s.graces.find? id).isNone
      | _ => false) with
    | some sp => (s.acquire g .device).wakeSplit gid sp.idx
    | none => s
/-- The resumed team in its new place, from its image's bytes. -/
def State.restore (s : State) (tid core base : Nat) (k : Grid) (x : SavedTeam) (geo : Geo) (bs : List Byte)
    (ps : List (Nat × Nat)) : State :=
  let s := s.setL1 core k.rec_.l1
  let acc := qfld bs 0 28 24
  let scratch := qfld bs 0 42 32
  let rounds := (List.range 8).foldl (fun (m : SMap Round) i => match roundOf (q64 bs (0x20 + 8 * i)) x.groups with
    | some r => m.insert i r
    | none => m) []
  let t : Team := ⟨x.grid, x.idx, x.ctx, core, base, scratch, acc, k.rec_.groups.length, x.member, s.tick,
    (((bs.drop geo.scratch).take (scratch * 1024)).zipIdx).foldl (fun m b => m.set 0 b.2 b.1) x.rest, x.restPoison,
    ((natsOf 4 (acc * 8192) (bs.drop geo.tiles)).zipIdx).foldl (fun m v => m.set 0 v.2 (BitVec.ofNat 32 v.1)) [],
    BitVec.ofNat 4 (qfld bs 0x10 3 0), rounds⟩
  let s := { s with teams := s.teams.insert tid t, saved := s.saved.erase tid }
  let sc := moveScope (qfld bs 0x18 9 0) core
  let s := x.groups.foldl (fun s e =>
    let p := (ps[e.2.gi]?).getD (0, 0)
    let g := s.groupOfImage (bs.drop (geo.off e.2.gi)) e.2 x.savedAt core p.1 p.2
    ({ s with groups := s.groups.insert e.1 g } : State).acquire g sc) s
  let s := (s.latchSettle core tid).takeStops
  let s := x.groups.foldl (fun s e => s.graceOver e.1) s
  let s := x.groups.foldl (fun s e =>
    if (s.groups.find? e.1).any (fun g => !g.dbgStop && (!g.stopped.isEmpty || g.sleeping)) then s.debugGo e.1 else s) s
  x.late.foldl (fun s f => if (s.grp f.1).isSome then s.asyncTo f.1 f.2 else s) s
/-- `TEAM_RESUME`: the dispatcher's next placement is a swapped-out team (R397, R423). -/
def execTeamResume (s : State) : Host.Outcome State Fault Refusal :=
  match s.dispatch with
  | some (.resume tid core) =>
    match s.saved.find? tid with
    | none => .next s
    | some x =>
      match s.grid x.grid with
      | none => .next s
      | some k =>
        match s.fitOn core [] k.rec_ with
        | none => .next s
        | some (base, ps) =>
          let geo := geoOf k.rec_.width k.rec_.scratch k.rec_.acc (x.groups.map (fun e => (e.2.gi, e.2.budget)))
          match s.engRead 3 0 x.ctx (s.saveVa x.ctx x.unit) geo.size with
          | (s, .error .wait) => .next s
          | (s, .error (.fault c _ va)) => .next (s.unhandled x.ctx (BitVec.ofNat 8 c) 0 (BitVec.ofNat 64 va))
          | (s, .ok bs) =>
            .next ((s.restore tid core base k x geo bs ps).settleQueue k.queue)
  | _ => .next s

end Sys2Proof.Machine
end

