-- ==== Sys2Proof/Machine/Sync.lean ====
section
/-! DEFINITION. Phasers, barriers, drains, quiescent points, grace periods, the fallow queue and the release ring (R358 to
R374). -/

namespace Sys2Proof.Machine

-- ## Phaser instructions (R363 to R367)

/-- A phaser operand with no reserved bit, and the checks `0x1` and `0x2` of R363. -/
def State.phaserFor (s : State) (g : Group) (a : SReg) : Except FInfo Nat :=
  let id := (g.srcS a).toNat
  if 2 ^ 16 ≤ id then .error (flt fcOperand)
  else if s.phPresent id = false then .error (flt fcPhaser 1)
  else match s.phaser id with
    | some p => if p.owner = g.ctx then .ok id else .error (flt fcPhaser 2)
    | none => .ok id
/-- The modes that may arrive and the modes that may wait (R359). -/
def phArrives : PhMode → Bool
  | .aw => true | .arr => true | .wt => false
def phWaits : PhMode → Bool
  | .aw => true | .arr => false | .wt => true
def Group.member (g : Group) (id : Nat) : Option Member := g.members.find? (fun m => m.phaser == id)
/-- A member of a permitted mode, with its phaser: the checks `0x1` to `0x3` of R363. -/
def State.memberFor (s : State) (g : Group) (a : SReg) (ok : PhMode → Bool) : Except FInfo (Member × Phaser) :=
  match s.phaserFor g a with
  | .error f => .error f
  | .ok id =>
    match g.member id, s.phaser id with
    | some m, some p => if ok m.mode then .ok (m, p) else .error (flt fcPhaser 3)
    | _, _ => .error (flt fcPhaser 3)

/-- A phaser as the first join binds it (R359). -/
def Phaser.bound (slot : Nat) : Phaser := ⟨slot, 0, 0, 0, 0, 0, none, Wrote.none, []⟩
/-- `PHJOIN` (R365). -/
def execPhjoin (h : Hdr) (mode : PhMode) (d a : SReg) (s : State) : Host.Outcome State Fault Refusal :=
  onceWord s h .long (Instr.phjoin h mode d a).uses (fun s c =>
    match s.phaserFor c.g a with
    | .error f => .fault s f
    | .ok id =>
      let p := (s.phaser id).getD (Phaser.bound c.g.ctx)
      if (c.g.member id).isSome then .fault s (flt fcPhaser 3)
      else if 8 ≤ c.g.members.length then .fault s (flt fcPhaser 4)
      else if phArrives mode ∧ 1023 ≤ p.memb then .fault s (flt fcPhaser 5)
      else
        let p' := if phArrives mode then { p with memb := p.memb + 1, pend := p.pend + 1 } else p
        let s := s.updGrp c.gid (fun g => { g with members := g.members ++ [⟨id, mode, p.phase⟩] })
        .done (s.setPhaser id p'.test) (Res.of [.s d.toNat (p.phase.setWidth 64)]))
/-- `PHDROP` (R365). -/
def execPhdrop (h : Hdr) (a : SReg) (s : State) : Host.Outcome State Fault Refusal :=
  onceWord s h .long (Instr.phdrop h a).uses (fun s c =>
    match s.memberFor c.g a (fun _ => true) with
    | .error f => .fault s f
    | .ok (m, _) => .done (s.dropMember c.gid m) Res.nil)
/-- The member's arrival phase has come, and its expectation fits (R362, R363, R366); `b` holds the bytes. -/
def expectEff (s : State) (c : Ctx) (a b : SReg) (k : Member → Phaser → Eff) : Eff :=
  match s.memberFor c.g a phArrives with
  | .error f => .fault s f
  | .ok (m, p) =>
    if p.flt.isSome then .fault s (flt fcPhaser 7)
    else if p.phase ≠ m.ap then .stall s (.phase m.phaser m.ap)
    else if 2 ^ 48 ≤ p.exp + (c.g.srcS b).toNat then .fault s (flt fcPhaser 6)
    else k m { p with exp := p.exp + (c.g.srcS b).toNat }
/-- `PHARR` (R366). -/
def execPharr (h : Hdr) (sc : Scope) (d a b : SReg) (s : State) : Host.Outcome State Fault Refusal :=
  onceWord s h .long (Instr.pharr h sc d a b).uses (fun s c =>
    expectEff s c a b (fun m p =>
      match relAt s c true sc with
      | .error e => e
      | .ok s =>
        let s := s.updGrp c.gid (fun g =>
          { g with members := g.members.map (fun x => if x.phaser = m.phaser then { x with ap := m.ap + 1 } else x) })
        .done (s.setPhaser m.phaser ({ p with pend := p.pend - 1 } : Phaser).test) (Res.of [.s d.toNat (m.ap.setWidth 64)])))
/-- `PHEXP` (R366). -/
def execPhexp (h : Hdr) (a b : SReg) (s : State) : Host.Outcome State Fault Refusal :=
  onceWord s h .long (Instr.phexp h a b).uses (fun s c =>
    expectEff s c a b (fun m p => .done (s.setPhaser m.phaser p.test) Res.nil))
/-- The fault a phaser holds is put where the word delivers it: once, though the group may be its issuer too (R117, R362). -/
def Group.takePhFault (g : Group) (f : AFault) : Group := { g with pendq := f :: g.pendq.erase f }
/-- A flip is observed (R361): an acquire at a scope, and, whatever that is, of what the counts brought (R336). -/
def State.observeFlip (s : State) (g : Group) (sc : Scope) (p : Phaser) (n : W32) : State :=
  (s.acquire g sc).acquireWrote g (p.counted n)
/-- `PHWAIT` (R362, R367, R413): complete, faulted, or asleep. -/
def execPhwait (h : Hdr) (sc : Scope) (d a b : SReg) (s : State) : Host.Outcome State Fault Refusal :=
  onceWord s h .long (Instr.phwait h sc d a b).uses (fun s c =>
    match s.memberFor c.g a phWaits with
    | .error f => .fault s f
    | .ok (m, p) =>
      let n := (c.g.srcS b).setWidth 32
      if phaseDone p.phase n then .done (s.observeFlip c.g sc p n) (Res.of [.s d.toNat (p.phase.setWidth 64)])
      else match p.flt with
        | some f => if c.g.hm then .done s Res.nil else .async (s.updGrp c.gid (fun g => g.takePhFault f))
        | none => .pause s (.asleep (.phwait m.phaser n d.toNat sc)))
/-- A sleeping `PHWAIT` ends (R362, R367): its phase is complete, or its phaser holds a fault, which it raises, but for one in
the handler (R413). `unit` is the group, `sub` the split. -/
def execPhwaitWake (s : State) : Host.Outcome State Fault Refusal :=
  let gid := s.ev.unit
  match s.grp gid with
  | none => .next s
  | some g =>
    match g.split? s.ev.sub with
    | none => .next s
    | some sp =>
      match sp.st with
      | .asleep (.phwait id n d sc) =>
        match s.phaser id with
        | none => .next s
        | some p =>
          if phaseDone p.phase n then
            let s := s.updGrp gid (fun g => g.setS d (p.phase.setWidth 64))
            .next (((s.observeFlip g sc p n).wakeSplit gid sp.idx).phaserGc id)
          else match p.flt with
            | some f =>
              if g.hm then .next (if g.handler sp.idx then (s.wakeSplit gid sp.idx).phaserGc id else s)
              else if g.dbgStop || g.halted then .next s
              else
                let s := s.updGrp gid (fun g => (g.putSplit { sp with st := .ready }).takePhFault f)
                .next ((s.deliverPending gid sp.idx sp.pc).phaserGc id)
            | none => .next s
      | _ => .next s

-- ## Barriers (R368)

/-- Every group of a full round continues, acquiring at `TEAM`, and the next round begins. -/
def State.roundDone (s : State) (tid id : Nat) (joined : List Nat) : State :=
  joined.foldl (fun s gid =>
    match s.grp gid with
    | none => s
    | some g =>
      match g.splits.find? (fun x => x.st == .waiting (.barrier id)) with
      | some sp => (s.acquire g .team).wakeSplit gid sp.idx
      | none => s) (s.updTeam tid (fun t => { t with rounds := t.rounds.erase id }))
/-- `BAR`: a group that has joined the round already waits for its end; the first fixes the count. -/
def execBar (h : Hdr) (id : BitVec 3) (n : SReg) (s : State) : Host.Outcome State Fault Refusal :=
  let us := (Instr.bar h id n).uses
  onceWord s h .long us (fun s c =>
    match s.team c.g.tid with
    | none => .done s Res.nil
    | some t =>
      let cnt := if n = 63 then t.teamg else (c.g.srcS n).toNat
      let k := id.toNat
      match t.rounds.find? k with
      | some r =>
        if r.joined.contains c.gid then .stall s (.barrier k)
        else if cnt ≠ r.count then .fault s (flt fcPhaser 8)
        else if !s.relReady c.gid c.g .team then .stall s .fifoEmpty
        else
          let s := s.release c.g .team
          if r.joined.length + 1 = r.count then .done ((s.roundDone c.g.tid k r.joined).acquire c.g .team) Res.nil
          else
            let s := s.updTeam c.g.tid (fun t => { t with rounds := t.rounds.insert k { r with joined := r.joined ++ [c.gid] } })
            .gone ((s.pauseAt c h us (.waiting (.barrier k))).breakBarriers c.g.tid)
      | none =>
        if cnt = 0 ∨ t.teamg < cnt then .fault s (flt fcOperand)
        else if !s.relReady c.gid c.g .team then .stall s .fifoEmpty
        else
          let s := s.release c.g .team
          if cnt = 1 then .done (s.acquire c.g .team) Res.nil
          else
            let s := s.updTeam c.g.tid (fun t => { t with rounds := t.rounds.insert k ⟨cnt, [c.gid]⟩ })
            .gone ((s.pauseAt c h us (.waiting (.barrier k))).breakBarriers c.g.tid))

-- ## Drains (R369)

/-- `DRAIN`: every selected counter is zero; acquire at `DEVICE`; a fault of those commands not yet raised is raised. -/
def execDrain (h : Hdr) (mask : BitVec 3) (s : State) : Host.Outcome State Fault Refusal :=
  onceWord s h .long [] (fun s c =>
    let m := mask.toNat
    if !s.waitOver c.gid c.g (.drain m) then .stall s (.drain m)
    else
      let s := s.acquire c.g .device
      if c.g.hasFault (drainKinds m) then .async s else .done s Res.nil)

-- ## Quiescent points and grace periods (R370, R371)

/-- `QUIES`. -/
def execQuies (h : Hdr) (s : State) : Host.Outcome State Fault Refusal :=
  onceWord s h .long [] (fun s c =>
    match relAt s c true .device with
    | .error e => e
    | .ok s => .done (s.passQ c.gid) Res.nil)
/-- A group counts at the instant a period begins: it sleeps and nothing of it is on its way, or it waits in `GRACE`, with no
split running or ready beside it. -/
def State.counted (s : State) (gid : Nat) (g : Group) : Bool :=
  (g.sleeping && g.drained && g.pend.isEmpty)
    || (g.splits.any (fun x => match x.st with | .waiting (.grace _) => true | _ => false)
        && !s.running gid && !g.splits.any (fun x => s.splitReady gid g x))
/-- A grace period begins (R371): its number and the groups, resident and swapped out, that have yet to pass. -/
def State.beginGrace (s : State) (slot : Nat) : Nat × State :=
  let res := (s.groups.keep (fun gid g => g.ctx == slot && !s.counted gid g)).map Prod.fst
  let out := (s.saved.keep (fun _ t => t.ctx == slot)).flatMap (fun e => (e.2.groups.keep (fun _ g => !g.sleeping)).map Prod.fst)
  (s.nextId, { s with nextId := s.nextId + 1, graces := s.graces.insert s.nextId ⟨slot, res ++ out⟩ })
/-- `GRACE` (R371). -/
def execGrace (h : Hdr) (s : State) : Host.Outcome State Fault Refusal :=
  onceWord s h .long [] (fun s c =>
    match relAt s c true .device with
    | .error e => e
    | .ok s =>
      let b := (s.passQ c.gid).beginGrace c.g.ctx
      .pause (b.2.passQ c.gid) (.waiting (.grace b.1)))
/-- A grace period ends (R371): `unit` is the period. A group waiting in its `GRACE` acquires at `DEVICE` and continues. -/
def execGraceEnd (s : State) : Host.Outcome State Fault Refusal :=
  let id := s.ev.unit
  match s.graces.find? id with
  | none => .next s
  | some x =>
    if !x.waiting.isEmpty then .next s
    else
      let s := { s with graces := s.graces.erase id }
      .next (s.groups.foldl (fun s e =>
        match e.2.splits.find? (fun x => x.st == .waiting (.grace id)) with
        | some sp => (s.acquire e.2 .device).wakeSplit e.1 sp.idx
        | none => s) s)

-- ## The fallow queue and the release ring (R372 to R374)

/-- The ring's registers of a slot (R373). -/
def State.ringSize (s : State) (n : Nat) : Nat := fld (s.reg (rrAddr n 0)) 4 0
def State.ringFull (s : State) (n : Nat) : Bool :=
  decide (2 ^ s.ringSize n ≤ (fld (s.reg (rrAddr n 0x10)) 31 0 + 2 ^ 32 - fld (s.reg (rrAddr n 8)) 31 0) % 2 ^ 32)
/-- The oldest fallow entry whose period has ended. -/
def State.ringHead (s : State) (n : Nat) : Option FallowE :=
  match s.fallow.get [] n with
  | e :: _ => if (s.graces.find? e.grace).isNone then some e else none
  | [] => none
/-- `RV_RRSTAT` follows the queue (R373). -/
def State.showRing (s : State) (n : Nat) (full : Bool) : State :=
  s.setReg (rrAddr n 0x18) (BitVec.ofNat 64 ((if full then 65536 else 0) + (s.fallow.get [] n).length))
def State.ringHeld (s : State) (n : Nat) : Bool := fld (s.reg (rrAddr n 0x18)) 16 16 == 1
/-- `FALLOW` (R372). -/
def execFallow (h : Hdr) (a b cc : SReg) (s : State) : Host.Outcome State Fault Refusal :=
  onceWord s h .long (Instr.fallow h a b cc).uses (fun s c =>
    let n := c.g.ctx
    let va := c.g.srcS a
    if c.g.srcS b = 0 then .fault s (flt fcOperand)
    else if 2 ^ 52 ≤ va.toNat then .fault s (flt fcTranslation 1 va)
    else if 4096 ≤ (s.fallow.get [] n).length then .stall s (.fallowFull n)
    else match relAt s c true .device with
    | .error e => e
    | .ok s =>
      let b' := s.beginGrace n
      let s := b'.2
      let s := { s with fallow := s.fallow.insert n (s.fallow.get [] n ++ [(⟨va, c.g.srcS b, c.g.srcS cc, b'.1⟩ : FallowE)]) }
      .done (s.showRing n (s.ringHeld n)) Res.nil)
/-- The oldest fallow entry whose period has ended is written to the ring (R374): `unit` is the slot. Without room, or where
the write faults, the entry is held until software writes a register of the ring. -/
def execReleaseRingEntry (s : State) : Host.Outcome State Fault Refusal :=
  let n := s.ev.unit
  match s.ringHead n with
  | none => .next s
  | some e =>
    if 64 ≤ n ∨ s.ringSize n = 0 ∨ s.ringHeld n = true then .next s
    else if s.ringFull n then .next (s.showRing n true)
    else
      let tail := fld (s.reg (rrAddr n 0x10)) 31 0
      let va := fld (s.reg (rrAddr n 0)) 51 12 * 4096 + 32 * (tail % 2 ^ s.ringSize n)
      let bytes := bytesOf 8 e.addr.toNat ++ bytesOf 8 e.bytes.toNat ++ bytesOf 8 e.tag.toNat ++ bytesOf 8 ((tail + 1) % 2 ^ 32)
      match s.engWrite 3 0 n va bytes with
      | (s, .ok _) =>
        let s := (s.setRegFld (rrAddr n 0x10) 31 0 (tail + 1))
        let s := { s with fallow := s.fallow.set [] n ((s.fallow.get [] n).drop 1) }
        .next (s.showRing n false)
      | (s, .error (.fault c _ fa)) => .next ((s.showRing n true).event n 0x07 c 0 0 0 (BitVec.ofNat 64 fa))
      | (s, .error .wait) => .next s
/-- A write of `RV_RRBASE` or `RV_RRHEAD`: a held entry is tried again where there is room (R373, R374). -/
def State.ringPut (s : State) (n off : Nat) (v : W64) : State :=
  let s := s.regPut (rrAddr n off) v
  s.showRing n ((s.ringHead n).isSome && s.ringSize n != 0 && s.ringFull n)
/-- `RELEASE_RING_BASE_WRITE` (R373): `unit` is the slot, `val` the value. -/
def execReleaseRingBaseWrite (s : State) : Host.Outcome State Fault Refusal :=
  .next (if s.ev.unit < 64 then s.ringPut s.ev.unit 0 s.ev.val else s)

end Sys2Proof.Machine
end

