-- ==== Sys2Proof/Machine/Translation.lean ====
section
/-! DEFINITION. The steps of translation: walks, invalidation, and writes of the context registers (R82 to R91). -/

namespace Sys2Proof.Machine

/-- A walk finishes (R84, R86): its leaf enters the TLBs of every core that waits for it, of their clusters, and the engine
TLB where an engine joined it; or those accesses take the fault. `unit` is the walk, which must hold a slot. -/
def execPageWalkComplete (s : State) : Host.Outcome State Fault Refusal :=
  match s.walks.find? (fun w => w.id == s.ev.unit) with
  | none => .next s
  | some w =>
    if w.failed.isSome || !s.walkRuns w || s.walkHeld w.slot then .next s
    else
      let s := s.walkTraffic w.slot (65536 * w.region)
      match s.walk w.slot (65536 * w.region) with
      | .ok e =>
        let s := { s with walks := s.walks.filter (fun x => x.id != w.id) }
        let s := w.cores.foldl (fun s c =>
          let s := s.setCore c { s.core c with tlb := tlbAdd 128 (s.core c).tlb e }
          let k := s.clus (c / 16)
          s.setClus (c / 16) { k with tlb := tlbAdd 4096 k.tlb e }) s
        .next (if w.eng then { s with engTlb := s.engTlb.set [] w.die (tlbAdd 256 (s.engTlb.get [] w.die) e) } else s)
      | .error f =>
        let ws := updWhere s.walks (fun x => x.id == w.id) (fun x => { x with failed := some f })
        .next { s with walks := ws.filter (fun x => x.failed.isNone || !x.cores.isEmpty) }

/-- The entries a command drops (R91): those whose page overlaps the range, of one address space, or all. -/
def InvKind.hits : InvKind → TlbE → Bool
  | .range a b n, e => e.asid == a && decide (e.base < min (b + 65536 * n) (2 ^ 52)) && decide (b < e.base + e.size)
  | .asid a, e => e.asid == a
  | .all, _ => true
/-- The command at the head starts: its entries leave every TLB (R91). -/
def State.invStart (s : State) : State :=
  match s.invq with
  | [] => s
  | c :: rest =>
    if c.running then s
    else { s.tlbDrop c.kind.hits with invq := { c with running := true, started := s.now, tick := s.tick } :: rest }
/-- A write of `XL_INVCMD` takes effect (R90): `base` is `XL_INVADDR` as it stood. One with `KIND` 0 starts no command. -/
def State.invTake (s : State) (v : W64) (base : Nat) : State :=
  let pages := if fld v 31 16 = 0 then 65536 else fld v 31 16
  let kind : InvKind :=
    if fld v 1 0 = 1 then .range (fld v 47 32) base pages
    else if fld v 1 0 = 2 then .asid (fld v 47 32)
    else .all
  let s := s.regPut invCmdAddr v
  if fld v 1 0 = 0 then s else ({ s with invq := s.invq ++ [(⟨kind, false, 0, 0⟩ : InvCmd)] } : State).invStart
/-- A write of `XL_INVCMD` (R90, R91): one that would queue a 17th command behind the running one is held until a slot frees,
and later ones behind it. -/
def State.invWrite (s : State) (v : W64) : State :=
  let base := fld (s.reg invAddrAddr) 51 16 * 65536
  if !s.invHeld.isEmpty || (fld v 1 0 != 0 && decide (17 ≤ s.invq.length)) then { s with invHeld := s.invHeld ++ [(v, base)] }
  else s.invTake v base
/-- Held writes take effect as far as slots are free. -/
def State.invFree (s : State) : Nat → State
  | 0 => s
  | n + 1 =>
    match s.invHeld with
    | [] => s
    | (v, base) :: rest =>
      if fld v 1 0 ≠ 0 ∧ 17 ≤ s.invq.length then s
      else State.invFree (({ s with invHeld := rest } : State).invTake v base) n
/-- Invalidations by kind (R90): `val` is the value written. -/
def execInvalidateRange (s : State) : Host.Outcome State Fault Refusal := .next (s.invWrite (setFld s.ev.val 1 0 1))
def execInvalidateAsid (s : State) : Host.Outcome State Fault Refusal := .next (s.invWrite (setFld s.ev.val 1 0 2))
def execInvalidateAll (s : State) : Host.Outcome State Fault Refusal := .next (s.invWrite (setFld s.ev.val 1 0 3))

/-- A page of an address space whose entry a command drops (R91). -/
def InvKind.page (k : InvKind) (asid : Nat) (p : Nat × Nat) : Bool :=
  match k with
  | .range a b n => asid == a && decide (p.1 < min (b + 65536 * n) (2 ^ 52)) && decide (b < p.1 + p.2)
  | .asid a => asid == a
  | .all => true
/-- An access on its way was translated through an entry that a command has dropped since (R91). -/
def InvCmd.holds (c : InvCmd) (asid : Nat) (v : Via) : Bool := decide (v.tick < c.tick) && v.pages.any (c.kind.page asid)
def FifoE.via : FifoE → Option Via
  | .global _ _ _ v _ => some v
  | .red _ _ _ _ v _ => some v
  | .signal _ _ _ v _ => some v
  | .scratch _ => none
/-- The running command completes (R91): not before 640 cycles, nor while a store translated through a dropped entry is
unperformed. -/
def execInvalidationDone (s : State) : Host.Outcome State Fault Refusal :=
  match s.invq with
  | [] => .next s
  | c :: rest =>
    if !c.running || decide (s.now < c.started + 640)
        || s.groups.any (fun e => e.2.fifo.any (fun x => x.via.any (c.holds (s.ctxAsid e.2.ctx)))) then .next s
    else
      let n := fld (s.reg invDoneAddr) 31 0
      let s := (({ s with invq := rest } : State).setRegFld invDoneAddr 31 0 (n + 1)).invStart
      .next (s.invFree s.invHeld.length)

/-- Something of a context is still there (R89): groups, swapped-out teams, grids, packets, commands. -/
def State.ctxInUse (s : State) (n : Nat) : Bool :=
  s.ctxBusy n || s.saved.any (fun e => e.2.ctx == n) || s.grids.any (fun e => e.2.slot == n)
    || s.queues.any (fun e => !e.2.open_.isEmpty && s.qSlot e.1 == n)
/-- A write to `XL_CTXCFG` of a slot (R89). A slot that is enabled begins with the buckets of its regulators full (log 31). -/
def State.ctxWrite (s : State) (n : Nat) (v : W64) : State :=
  let a := ctxCfgAddr n
  let en := fld v 16 16 == 1
  if s.ctxEn n then
    if en || s.ctxInUse n then s else s.setRegFld a 16 16 0
  else if en && (List.range 64).any (fun m => m != n && s.ctxEn m && s.ctxAsid m == fld v 15 0) then s
  else
    let s := s.regPut a v
    if en then { s with
      ctxGen := s.ctxGen.set 0 n (s.ctxGen.get 0 n + 1)
      gridNum := s.gridNum.erase n
      ended := s.ended.filter (· != n)
      buckets := s.buckets.keep (fun k _ => k / 8 % 64 != n) }
    else s
/-- A write to `XL_ROOT`: ignored while the slot is in use (R89). -/
def State.rootWrite (s : State) (n : Nat) (v : W64) : State := if s.ctxEn n then s else s.regPut (ctxRootAddr n) v
/-- `CONTEXT_SLOT_WRITE`: `unit` is the slot, `val` the value. -/
def execContextSlotWrite (s : State) : Host.Outcome State Fault Refusal :=
  .next (if s.ev.unit < 64 then s.ctxWrite s.ev.unit s.ev.val else s)

end Sys2Proof.Machine
end

