-- ==== Sys2Proof/Machine/Trough.lean ====
section
/-! DEFINITION. Troughs (R401 to R405) and their registers (R392). -/

namespace Sys2Proof.Machine

/-- A trough that a context may name (R401). -/
def State.troughOk (s : State) (slot t : Nat) : Bool := s.trEn t && s.trSlot t == slot
/-- `TRPOP` (R403). -/
def execTrpop (h : Hdr) (d : SReg) (t : BitVec 8) (s : State) : Host.Outcome State Fault Refusal :=
  onceWord s h .long (Instr.trpop h d t).uses (fun s c =>
    let k := t.toNat
    let x := s.trough k
    let sleep : Eff := .pause (s.setTrough k { x with sleepers := x.sleepers ++ [(c.gid, c.idx)] }) (.asleep (.trpop k d.toNat))
    let done (s : State) (r : List W64) : Eff :=
      .done (s.acquire c.g .device) (Res.of (r.zipIdx.map (fun p => .s (d.toNat + p.2) p.1)))
    if s.troughOk c.g.ctx k = false then .fault s (flt fcOperand)
    else if !x.sleepers.isEmpty then sleep
    else match s.trTake k with
      | some (r, s) => done s r
      | none => if x.closed then done s endRec else sleep)
/-- `TRPSH` (R403). -/
def execTrpsh (h : Hdr) (a : SReg) (t : BitVec 8) (s : State) : Host.Outcome State Fault Refusal :=
  onceWord s h .long (Instr.trpsh h a t).uses (fun s c =>
    let k := t.toNat
    if s.troughOk c.g.ctx k = false then .fault s (flt fcOperand)
    else match relAt s c true .device with
    | .error e => e
    | .ok s =>
      if s.trCap k ≤ (s.trough k).recs.length then .stall s (.troughFull k)
      else .done (s.trAppend k ((List.range 8).map (fun i => c.g.getS (a.toNat + i)))) Res.nil)
/-- A disabled trough loses its records, and its sleepers wake with the end record (R392, R405). -/
def State.troughOff (s : State) (t : Nat) : State :=
  let x := s.trough t
  x.sleepers.foldl (fun s p => s.handRec p.1 p.2 endRec) (s.setTrough t TroughSt.init)
/-- A write of `RV_TRCFG` (R392): an enabled trough accepts only one that clears `EN`. -/
def State.troughWrite (s : State) (t : Nat) (v : W64) : State :=
  let a := trCfgAddr t
  if s.trEn t then
    if fld v 32 32 = 1 then s
    else
      let s' := s.regPut a v
      if s'.trEn t then s' else s'.troughOff t
  else s.regPut a v
/-- `TROUGH_DISABLE`: `unit` is the trough. -/
def execTroughDisable (s : State) : Host.Outcome State Fault Refusal :=
  .next (if s.ev.unit < 256 then s.troughWrite s.ev.unit (setFld (s.reg (trCfgAddr s.ev.unit)) 32 32 0) else s)

end Sys2Proof.Machine
end

