-- ==== Sys2Proof/Machine/Registers.lean ====
section
/-! DEFINITION. Control registers as software reads and writes them (R7, R68): every write with the effect that its register's
table gives it, and what read-only fields show; the host port (R20, R448). -/

namespace Sys2Proof.Machine

-- ## Writes with an effect of their own

/-- The shift of an address in a block of `n` units of `step` bytes at `base`: the unit. -/
def unitAt (base step n off a : Nat) : Option Nat :=
  if base + off ≤ a ∧ (a - base - off) % step = 0 ∧ (a - base - off) / step < n then some ((a - base - off) / step) else none
/-- A slot has a resident or swapped-out group (R412). -/
def State.hasGroups (s : State) (n : Nat) : Bool := s.groups.any (fun e => e.2.ctx == n) || s.saved.any (fun e => e.2.ctx == n)
/-- A write of `RV_TRAPVEC`, `RV_SAVEBASE` or `RV_SAVELEN` (R412). -/
def State.trapRegWrite (s : State) (n a : Nat) (v : W64) : State := if s.hasGroups n then s else s.regPut a v
/-- A write of `RV_LINK` (R392): while `EN` is 1, only one that clears it. -/
def State.linkWrite (s : State) (l : Nat) (v : W64) : State :=
  if fld (s.reg (linkAddr l)) 63 63 = 1 ∧ fld v 63 63 = 1 then s else s.regPut (linkAddr l) v
/-- A write of `FX_CTL` (R324). -/
def State.fxCtlWrite (s : State) (p : Nat) (v : W64) : State :=
  let s := s.setRegFld (fxAddr p 0) 0 0 (fld v 0 0)
  if fld v 1 1 = 1 then s.fxAbort p else s
/-- A write of `TRC_CTL` (R430): `LOAD` stays 1 until the load is done, and with `EN` 0 the buffers are empty. -/
def State.trcCtlWrite (s : State) (d : Nat) (v : W64) : State :=
  let s := s.regPut (trcAddr d 0) (v ||| (s.reg (trcAddr d 0) &&& 2))
  if s.trcOn d then s else s.dropTrace d
/-- A write of `TRC_DBG` (R433). -/
def State.dbgWrite (s : State) (n : Nat) (v : W64) : State :=
  let s := s.setRegFld (dbgAddr n) 1 0 (fld v 1 0)
  let s := if fld v 2 2 = 1 then s.askStop n else s
  if fld v 3 3 = 1 then s.endStops n else s
/-- A write of `BOOT_CTL` (R450): a cold start goes before a warm one. -/
def State.bootCtlWrite (s : State) (v : W64) : State :=
  let s := s.setRegFld (bootAddr 0) 2 2 (fld v 2 2)
  if s.boot.phase = .off then s
  else if fld v 0 0 = 1 then s.startEv false
  else if fld v 1 1 = 1 then s.startEv true
  else s
/-- A write of `BOOT_STAT` (R450): while `OK` is 0, `BOOT_CAP` reads 0. -/
def State.bootStatWrite (s : State) (v : W64) : State :=
  if fld v 4 4 = 1 then s.bootOk else (s.regPut (bootAddr 8) v).setReg (bootAddr 0x10) 0
/-- The effect of a write on the registers that have one, by block; none for a register without. -/
def State.ownWrite (s : State) (a : Nat) (v : W64) : Option State :=
  if a < 0xFF0000200000 then none
  else if a < 0xFF0000300000 then
    if a = invCmdAddr then some (s.invWrite v)
    else match unitAt 0xFF0000200000 0x10 64 0 a, unitAt 0xFF0000200000 0x10 64 8 a,
        unitAt 0xFF0000201000 0x10 256 0 a, unitAt 0xFF0000201000 0x10 256 8 a with
      | some n, _, _, _ => some (s.ctxWrite n v)
      | _, some n, _, _ => some (s.rootWrite n v)
      | _, _, some k, _ => some (s.regionBaseWrite k v)
      | _, _, _, some k => some (s.regionCfgWrite k v)
      | _, _, _, _ => none
  else if a < 0xFF0000400000 then
    if (a - 0xFF0000300000) / 8 % 8 < 6 then (unitAt 0xFF0000300000 8 512 0 a).map (fun j => s.regulatorPut (j / 8) (j % 8) v) else none
  else if a < 0xFF0000500000 then (unitAt 0xFF0000400000 0x40 32 0 a).map (fun e => s.ceWrite e v)
  else if a < 0xFF0000600000 then (unitAt 0xFF0000500100 8 64 0 a).map (fun n => s.jobWrite n v)
  else if a < 0xFF0000700000 then (unitAt 0xFF0000600000 0x40 16 0 a).map (fun p => s.fxCtlWrite p v)
  else if a < 0xFF0000720000 then
    match unitAt 0xFF0000700000 0x20 64 0 a, unitAt 0xFF0000700000 0x20 64 8 a with
    | some n, _ => some (s.ringPut n 0 v)
    | _, some n => some (s.ringPut n 8 v)
    | _, _ => none
  else if a < 0xFF0000740000 then
    match unitAt 0xFF0000721000 16 64 0 a, unitAt 0xFF0000721000 16 64 8 a, unitAt 0xFF0000722000 16 256 0 a,
        unitAt 0xFF0000723000 8 256 0 a, unitAt 0xFF0000724000 16 256 0 a with
    | some n, _, _, _, _ => some (s.eventWrite n false v)
    | _, some n, _, _, _ => some (s.eventWrite n true v)
    | _, _, some l, _, _ => some (s.linkWrite l v)
    | _, _, _, some j, _ => some (s.trapRegWrite (j / 4) a v)
    | _, _, _, _, some t => some (s.troughWrite t v)
    | _, _, _, _, _ => none
  else if a < 0xFF0000742000 then (unitAt 0xFF0000740000 0x400 8 0 a).map (fun d => s.trcCtlWrite d v)
  else if a < 0xFF0000743000 then none
  else if a < 0xFF0000744000 then (unitAt 0xFF0000743000 8 8 0 a).map (fun j => s.trialWrite (8 * j) v)
  else if a < 0xFF0000780000 then (unitAt 0xFF0000744000 8 64 0 a).map (fun n => s.dbgWrite n v)
  else if a = bootAddr 0 then some (s.bootCtlWrite v)
  else if a = bootAddr 8 then some (s.bootStatWrite v)
  else if a = bootAddr 0x20 then some (s.attest v)
  else none
/-- A write of a control register (R7): the register's own effect, else masks and ranges; where no register stands, nothing. -/
def State.ctlWrite (s : State) (a : Nat) (v : W64) : State :=
  match s.ownWrite a v with
  | some s' => s'
  | none => s.regPut a v
/-- `REGISTER_WRITE`: the reeve or firmware writes `val` to the register at `addr`. -/
def execRegisterWrite (s : State) : Host.Outcome State Fault Refusal := .next (s.ctlWrite s.ev.addr.toNat s.ev.val)

-- ## What registers show (R119, R324, R377, R392, R443)

/-- `CE_STAT`. -/
def State.ceStat (s : State) (e : Nat) : W64 :=
  BitVec.ofNat 64 ((s.engine e).queue.length + (s.engine e).active.length * 256)
/-- `FX_STAT`: a disabled processor without a program reads 3. -/
def State.fxStat (s : State) (p : Nat) : W64 :=
  let x := s.fx p
  let waits := match x.wait with
    | .waitm .. => true
    | .recv .. => true
    | .send _ => true
    | _ => false
  let st := match x.cur with
    | some _ => if waits then 2 else 1
    | none => if s.fxEn p then 0 else 3
  BitVec.ofNat 64 (st + x.queue.length * 256 + (match x.cur with
    | some k => k.slot * 65536
    | none => 0))
/-- `RV_TRSTAT`. -/
def State.trStat (s : State) (t : Nat) : W64 :=
  let x := s.trough t
  BitVec.ofNat 64 (x.recs.length + (if x.closed then 65536 else 0) + x.sleepers.length * 2 ^ 32)
/-- `MC_REFDEBT0` and `1` of a die, as the debts of the monitored pseudo-channel now stand (R75, R77). -/
def State.mcDebt (s : State) (a : Nat) : Option W64 :=
  match unitAt 0xFF0000100000 0x10000 8 0x20 a, unitAt 0xFF0000100000 0x10000 8 0x28 a with
  | some d, _ => some ((s.pch (s.monitored d)).debts s.now 0)
  | _, some d => some ((s.pch (s.monitored d)).debts s.now 8)
  | _, _ => none
/-- The quadword that a read of a control register returns. -/
def State.regRead (s : State) (a : Nat) : W64 :=
  (s.mcDebt a).getD <| ((unitAt 0xFF0000400000 0x40 32 0 a).map s.ceCtl).getD <|
  match unitAt 0xFF0000400000 0x40 32 8 a, unitAt 0xFF0000600000 0x40 16 8 a, unitAt 0xFF0000600000 0x40 16 0x10 a,
      unitAt 0xFF0000724000 16 256 8 a, unitAt 0xFF0000202800 8 16 0 a with
  | some e, _, _, _, _ => s.ceStat e
  | _, some p, _, _, _ => s.fxStat p
  | _, _, some p, _, _ => if (s.fx p).cur.isSome then (s.fx p).fpc else s.reg a
  | _, _, _, some t, _ => s.trStat t
  | _, _, _, _, some p => s.minv p ++ s.vpv p
  | _, _, _, _, _ =>
    if s.opened = true ∧ s.capBase.toNat ≤ a ∧ a % 8 = 0 then s.capList[(a - s.capBase.toNat) / 8]?.getD 0 else s.reg a

-- ## The host port (R20, R439, R448)

/-- The host's registers during a start: those of start-up. -/
def bootBlock (a : Nat) : Bool := decide (bootAddr 0 ≤ a) && decide (a < bootAddr 0x100)
/-- A write of the host port: to HBM at the home slices, under key ID 0; bytes without storage are lost (R71). A whole quadword
of a control register is written as its register permits; `OK` is firmware's. -/
def State.hostWrite (s : State) (a : Nat) (bs : List Byte) : State :=
  let full := s.opened = true
  if a < hbmEnd then
    if full ∧ a + bs.length ≤ hbmEnd then s.physWrite a bs else s
  else if csrBase ≤ a ∧ a % 8 = 0 ∧ bs.length = 8 ∧ a ≠ bootAddr 8 ∧ (full ∨ bootBlock a = true) then s.ctlWrite a (BitVec.ofNat 64 (natOf bs))
  else s
/-- `HOST_PORT_WRITE`: `val` is the job that the packet carries, `addr` and `bytes` the write. -/
def execHostPortWrite (s : State) : Host.Outcome State Fault Refusal :=
  .next (if s.boot.phase ≠ .off ∧ s.ev.val.toNat = fld (s.reg (bootAddr 0x18)) 23 0 then s.hostWrite s.ev.addr.toNat s.ev.bytes else s)

end Sys2Proof.Machine
end

