-- ==== Sys2Proof/Machine/Dispatch.lean ====
section
/-! DEFINITION. The dispatcher: one arm per constructor of `Instr`. -/

namespace Sys2Proof.Machine

def exec (i : Instr) (s : State) : Host.Outcome State Fault Refusal :=
  match i with
  | .nop h => Sys2Proof.Machine.execNop h s
  | .mov h o => Sys2Proof.Machine.execMov h o s
  | .movi h f d imm => Sys2Proof.Machine.execMovi h f d imm s
  | .iadd h o => Sys2Proof.Machine.execIadd h o s
  | .isub h o => Sys2Proof.Machine.execIsub h o s
  | .iaddi h o imm => Sys2Proof.Machine.execIaddi h o imm s
  | .imul h o => Sys2Proof.Machine.execImul h o s
  | .imulh h o => Sys2Proof.Machine.execImulh h o s
  | .imad h o => Sys2Proof.Machine.execImad h o s
  | .idiv h o => Sys2Proof.Machine.execIdiv h o s
  | .irem h o => Sys2Proof.Machine.execIrem h o s
  | .imin h o => Sys2Proof.Machine.execImin h o s
  | .imax h o => Sys2Proof.Machine.execImax h o s
  | .iabs h o => Sys2Proof.Machine.execIabs h o s
  | .ineg h o => Sys2Proof.Machine.execIneg h o s
  | .isadd h sub o => Sys2Proof.Machine.execIsadd h sub o s
  | .lop3 h lut o => Sys2Proof.Machine.execLop3 h lut o s
  | .andB h o => Sys2Proof.Machine.execAndB h o s
  | .orB h o => Sys2Proof.Machine.execOrB h o s
  | .xorB h o => Sys2Proof.Machine.execXorB h o s
  | .shl h o n => Sys2Proof.Machine.execShl h o n s
  | .shr h o n => Sys2Proof.Machine.execShr h o n s
  | .sar h o n => Sys2Proof.Machine.execSar h o n s
  | .rot h right o n => Sys2Proof.Machine.execRot h right o n s
  | .bfx h o => Sys2Proof.Machine.execBfx h o s
  | .bfi h o => Sys2Proof.Machine.execBfi h o s
  | .popc h o => Sys2Proof.Machine.execPopc h o s
  | .clz h o => Sys2Proof.Machine.execClz h o s
  | .brev h o => Sys2Proof.Machine.execBrev h o s
  | .icmp h k sb ty cmp bop pd a b pc => Sys2Proof.Machine.execIcmp h k sb ty cmp bop pd a b pc s
  | .sel h sb ty d a b pc => Sys2Proof.Machine.execSel h sb ty d a b pc s
  | .lea h k sb sx sh d a b => Sys2Proof.Machine.execLea h k sb sx sh d a b s
  | .fadd h o => Sys2Proof.Machine.execFadd h o s
  | .fsub h o => Sys2Proof.Machine.execFsub h o s
  | .fmul h o => Sys2Proof.Machine.execFmul h o s
  | .ffma h o => Sys2Proof.Machine.execFfma h o s
  | .ffms h o => Sys2Proof.Machine.execFfms h o s
  | .fmin h k sb ftz d a b => Sys2Proof.Machine.execFmin h k sb ftz d a b s
  | .fmax h k sb ftz d a b => Sys2Proof.Machine.execFmax h k sb ftz d a b s
  | .fabs h k d a => Sys2Proof.Machine.execFabs h k d a s
  | .fneg h k d a => Sys2Proof.Machine.execFneg h k d a s
  | .fcmp h k sb ftz cmp bop pd a b pc => Sys2Proof.Machine.execFcmp h k sb ftz cmp bop pd a b pc s
  | .fclass h k d a => Sys2Proof.Machine.execFclass h k d a s
  | .frnd h o => Sys2Proof.Machine.execFrnd h o s
  | .fscale h o => Sys2Proof.Machine.execFscale h o s
  | .fdiv h o => Sys2Proof.Machine.execFdiv h o s
  | .fsqrt h o => Sys2Proof.Machine.execFsqrt h o s
  | .fsign h k sb op d a b => Sys2Proof.Machine.execFsign h k sb op d a b s
  | .badd2 h o => Sys2Proof.Machine.execBadd2 h o s
  | .bmul2 h o => Sys2Proof.Machine.execBmul2 h o s
  | .bfma2 h o => Sys2Proof.Machine.execBfma2 h o s
  | .bmin2 h o => Sys2Proof.Machine.execBmin2 h o s
  | .bmax2 h o => Sys2Proof.Machine.execBmax2 h o s
  | .hadd2 h o => Sys2Proof.Machine.execHadd2 h o s
  | .hmul2 h o => Sys2Proof.Machine.execHmul2 h o s
  | .hfma2 h o => Sys2Proof.Machine.execHfma2 h o s
  | .xpr h o bodyE toks => Sys2Proof.Machine.execXpr h o bodyE toks s
  | .lscale h dv bf2 o => Sys2Proof.Machine.execLscale h dv bf2 o s
  | .ovf h op bf2 d a => Sys2Proof.Machine.execOvf h op bf2 d a s
  | .cvt h df sf o => Sys2Proof.Machine.execCvt h df sf o s
  | .cvti h it sf o => Sys2Proof.Machine.execCvti h it sf o s
  | .cvtf h df it o => Sys2Proof.Machine.execCvtf h df it o s
  | .srnd h n o => Sys2Proof.Machine.execSrnd h n o s
  | .qblk h df bl32 rm d a r => Sys2Proof.Machine.execQblk h df bl32 rm d a r s
  | .dqblk h sf sb rm d a b => Sys2Proof.Machine.execDqblk h sf sb rm d a b s
  | .pack h df pos sb rm d a b r => Sys2Proof.Machine.execPack h df pos sb rm d a b r s
  | .unpack h sf pos d a => Sys2Proof.Machine.execUnpack h sf pos d a s
  | .rcp h ftz d a => Sys2Proof.Machine.execRcp h ftz d a s
  | .rsq h ftz d a => Sys2Proof.Machine.execRsq h ftz d a s
  | .ex2 h ftz d a => Sys2Proof.Machine.execEx2 h ftz d a s
  | .lg2 h ftz d a => Sys2Proof.Machine.execLg2 h ftz d a s
  | .sin h ftz d a => Sys2Proof.Machine.execSin h ftz d a s
  | .cos h ftz d a => Sys2Proof.Machine.execCos h ftz d a s
  | .tanh h ftz d a => Sys2Proof.Machine.execTanh h ftz d a s
  | .erf h ftz d a => Sys2Proof.Machine.execErf h ftz d a s
  | .rng h k w64 d a b => Sys2Proof.Machine.execRng h k w64 d a b s
  | .drop h sb d a b c => Sys2Proof.Machine.execDrop h sb d a b c s
  | .tqnt h sign n d a => Sys2Proof.Machine.execTqnt h sign n d a s
  | .tdq h sign pos sb d a b => Sys2Proof.Machine.execTdq h sign pos sb d a b s
  | .shfl h mode w64 sg sb d a b => Sys2Proof.Machine.execShfl h mode w64 sg sb d a b s
  | .bcast h w64 sg n d a => Sys2Proof.Machine.execBcast h w64 sg n d a s
  | .vote h neg pa t => Sys2Proof.Machine.execVote h neg pa t s
  | .mtch h w64 sg d a => Sys2Proof.Machine.execMtch h w64 sg d a s
  | .redux h op ls d a => Sys2Proof.Machine.execRedux h op ls d a s
  | .fredux h op rm ftz ls d a => Sys2Proof.Machine.execFredux h op rm ftz ls d a s
  | .scan h op excl ls d a => Sys2Proof.Machine.execScan h op excl ls d a s
  | .fscan h op rm ftz excl ls d a => Sys2Proof.Machine.execFscan h op rm ftz excl ls d a s
  | .rdlane h w64 d a b => Sys2Proof.Machine.execRdlane h w64 d a b s
  | .wrlane h w64 d a b => Sys2Proof.Machine.execWrlane h w64 d a b s
  | .plop h lut pd pa pb pc => Sys2Proof.Machine.execPlop h lut pd pa pb pc s
  | .pmovTov h d mask => Sys2Proof.Machine.execPmovTov h d mask s
  | .pmovTop h a mask => Sys2Proof.Machine.execPmovTop h a mask s
  | .elect h pd ls => Sys2Proof.Machine.execElect h pd ls s
  | .ldg h o => Sys2Proof.Machine.execLdg h o s
  | .stg h o => Sys2Proof.Machine.execStg h o s
  | .lds h o => Sys2Proof.Machine.execLds h o s
  | .sts h o => Sys2Proof.Machine.execSts h o s
  | .ldc h sx ty d a off => Sys2Proof.Machine.execLdc h sx ty d a off s
  | .ldl h ty hnt d a b off => Sys2Proof.Machine.execLdl h ty hnt d a b off s
  | .stl h ty hnt d a b off => Sys2Proof.Machine.execStl h ty hnt d a b off s
  | .ldp h w64 sc acq hnt d a b c => Sys2Proof.Machine.execLdp h w64 sc acq hnt d a b c s
  | .ldv h o => Sys2Proof.Machine.execLdv h o s
  | .stws h ty sc sop d a b c => Sys2Proof.Machine.execStws h ty sc sop d a b c s
  | .prf h lvl a b off => Sys2Proof.Machine.execPrf h lvl a b off s
  | .cctl h op a b => Sys2Proof.Machine.execCctl h op a b s
  | .fence h ord sc => Sys2Proof.Machine.execFence h ord sc s
  | .ldm h n sc ord d a off => Sys2Proof.Machine.execLdm h n sc ord d a off s
  | .stm h n sc ord d a off => Sys2Proof.Machine.execStm h n sc ord d a off s
  | .waitv h cmp w32 sc d a b => Sys2Proof.Machine.execWaitv h cmp w32 sc d a b s
  | .atom h op o => Sys2Proof.Machine.execAtom h op o s
  | .atomf h fmt op sc ord d a b c => Sys2Proof.Machine.execAtomf h fmt op sc ord d a b c s
  | .cas h o => Sys2Proof.Machine.execCas h o s
  | .red h op w64 sc ord a b c => Sys2Proof.Machine.execRed h op w64 sc ord a b c s
  | .redf h fmt op sc ord a b c => Sys2Proof.Machine.execRedf h fmt op sc ord a b c s
  | .atoms h op w64 swz ord d a b c => Sys2Proof.Machine.execAtoms h op w64 swz ord d a b c s
  | .cass h w64 swz ord d a b c => Sys2Proof.Machine.execCass h w64 swz ord d a b c s
  | .cpy h dir np dst src shape ctl => Sys2Proof.Machine.execCpy h dir np dst src shape ctl s
  | .offl h np loc rem len ctl => Sys2Proof.Machine.execOffl h np loc rem len ctl s
  | .rtrn h np loc rem len ctl => Sys2Proof.Machine.execRtrn h np loc rem len ctl s
  | .putr h m r l len ctl => Sys2Proof.Machine.execPutr h m r l len ctl s
  | .getr h m r l len ctl => Sys2Proof.Machine.execGetr h m r l len ctl s
  | .puts h sop m r l len ctl => Sys2Proof.Machine.execPuts h sop m r l len ctl s
  | .append h d a b => Sys2Proof.Machine.execAppend h d a b s
  | .ratom h op w64 ord d a b c => Sys2Proof.Machine.execRatom h op w64 ord d a b c s
  | .coll h np prog arg ctl => Sys2Proof.Machine.execColl h np prog arg ctl s
  | .layx h np desc ctl => Sys2Proof.Machine.execLayx h np desc ctl s
  | .gang h imm => Sys2Proof.Machine.execGang h imm s
  | .gangClr h => Sys2Proof.Machine.execGangClr h s
  | .mma h za tile rec bb shape sf => Sys2Proof.Machine.execMma h za tile rec bb shape sf s
  | .mfence h d => Sys2Proof.Machine.execMfence h d s
  | .mwait h n => Sys2Proof.Machine.execMwait h n s
  | .mwaitAll h => Sys2Proof.Machine.execMwaitAll h s
  | .accz h tile => Sys2Proof.Machine.execAccz h tile s
  | .accrd h nr d tile b => Sys2Proof.Machine.execAccrd h nr d tile b s
  | .accwr h nr tile a b => Sys2Proof.Machine.execAccwr h nr tile a b s
  | .accq h df bl16 rm g tile a b c => Sys2Proof.Machine.execAccq h df bl16 rm g tile a b c s
  | .shape h d a b => Sys2Proof.Machine.execShape h d a b s
  | .phjoin h mode d a => Sys2Proof.Machine.execPhjoin h mode d a s
  | .phdrop h a => Sys2Proof.Machine.execPhdrop h a s
  | .pharr h sc d a b => Sys2Proof.Machine.execPharr h sc d a b s
  | .phwait h sc d a b => Sys2Proof.Machine.execPhwait h sc d a b s
  | .phexp h a b => Sys2Proof.Machine.execPhexp h a b s
  | .drain h mask => Sys2Proof.Machine.execDrain h mask s
  | .bar h id c => Sys2Proof.Machine.execBar h id c s
  | .quies h => Sys2Proof.Machine.execQuies h s
  | .grace h => Sys2Proof.Machine.execGrace h s
  | .fallow h a b c => Sys2Proof.Machine.execFallow h a b c s
  | .tokb h d a b c => Sys2Proof.Machine.execTokb h d a b c s
  | .vpub h hold a b => Sys2Proof.Machine.execVpub h hold a b s
  | .vreq h own d a => Sys2Proof.Machine.execVreq h own d a s
  | .trpop h d t => Sys2Proof.Machine.execTrpop h d t s
  | .trpsh h a t => Sys2Proof.Machine.execTrpsh h a t s
  | .prog h k => Sys2Proof.Machine.execProg h k s
  | .bra h off => Sys2Proof.Machine.execBra h off s
  | .brad h off rej => Sys2Proof.Machine.execBrad h off rej s
  | .join h => Sys2Proof.Machine.execJoin h s
  | .brk h n => Sys2Proof.Machine.execBrk h n s
  | .brx h a b => Sys2Proof.Machine.execBrx h a b s
  | .call h off d => Sys2Proof.Machine.execCall h off d s
  | .callR h a d => Sys2Proof.Machine.execCallR h a d s
  | .ret h a => Sys2Proof.Machine.execRet h a s
  | .yield h => Sys2Proof.Machine.execYield h s
  | .sleep h a => Sys2Proof.Machine.execSleep h a s
  | .wake h a => Sys2Proof.Machine.execWake h a s
  | .wakeAll h => Sys2Proof.Machine.execWakeAll h s
  | .exit h => Sys2Proof.Machine.execExit h s
  | .trap h n => Sys2Proof.Machine.execTrap h n s
  | .rte h => Sys2Proof.Machine.execRte h s
  | .bkpt h n => Sys2Proof.Machine.execBkpt h n s
  | .csrr h sx d csr => Sys2Proof.Machine.execCsrr h sx d csr s
  | .csrw h sx a csr => Sys2Proof.Machine.execCsrw h sx a csr s
  | .pairWord e pg pn h0 h1 => Sys2Proof.Machine.execPairWord e pg pn h0 h1 s
  | .fxNop => Sys2Proof.Machine.execFxNop s
  | .fxLdi a imm => Sys2Proof.Machine.execFxLdi a imm s
  | .fxLdiHi a imm => Sys2Proof.Machine.execFxLdiHi a imm s
  | .fxAdd a b c => Sys2Proof.Machine.execFxAdd a b c s
  | .fxSub a b c => Sys2Proof.Machine.execFxSub a b c s
  | .fxAnd a b c => Sys2Proof.Machine.execFxAnd a b c s
  | .fxShl a b c => Sys2Proof.Machine.execFxShl a b c s
  | .fxCmpb c a b off => Sys2Proof.Machine.execFxCmpb c a b off s
  | .fxJmp off => Sys2Proof.Machine.execFxJmp off s
  | .fxLoop a off => Sys2Proof.Machine.execFxLoop a off s
  | .fxWaitm c a b d => Sys2Proof.Machine.execFxWaitm c a b d s
  | .fxSigm set a b => Sys2Proof.Machine.execFxSigm set a b s
  | .fxLoadc a b c => Sys2Proof.Machine.execFxLoadc a b c s
  | .fxStorec a b c => Sys2Proof.Machine.execFxStorec a b c s
  | .fxSend a b c => Sys2Proof.Machine.execFxSend a b c s
  | .fxRecv a b c => Sys2Proof.Machine.execFxRecv a b c s
  | .fxDec sign n a b c => Sys2Proof.Machine.execFxDec sign n a b c s
  | .fxEnc sign n a b c => Sys2Proof.Machine.execFxEnc sign n a b c s
  | .fxAddb bf a b c => Sys2Proof.Machine.execFxAddb bf a b c s
  | .fxSqacc bf a c => Sys2Proof.Machine.execFxSqacc bf a c s
  | .fxNormx a b c => Sys2Proof.Machine.execFxNormx a b c s
  | .fxGlnClm a b c => Sys2Proof.Machine.execFxGlnClm a b c s
  | .fxGlnAdd a b c => Sys2Proof.Machine.execFxGlnAdd a b c s
  | .fxGlnSt a b c => Sys2Proof.Machine.execFxGlnSt a b c s
  | .fxGlnHop => Sys2Proof.Machine.execFxGlnHop s
  | .fxGlnRel => Sys2Proof.Machine.execFxGlnRel s
  | .fxGlnRsm a b c => Sys2Proof.Machine.execFxGlnRsm a b c s
  | .fxCkptSv a mask => Sys2Proof.Machine.execFxCkptSv a mask s
  | .fxCkptLd a => Sys2Proof.Machine.execFxCkptLd a s
  | .fxTrig a b c => Sys2Proof.Machine.execFxTrig a b c s
  | .fxHalt => Sys2Proof.Machine.execFxHalt s
  | .sieveLdf d a ix => Sys2Proof.Machine.execSieveLdf d a ix s
  | .sieveLdi d ix => Sys2Proof.Machine.execSieveLdi d ix s
  | .sieveAdd d a ix => Sys2Proof.Machine.execSieveAdd d a ix s
  | .sieveSub d a ix => Sys2Proof.Machine.execSieveSub d a ix s
  | .sieveAnd d a ix => Sys2Proof.Machine.execSieveAnd d a ix s
  | .sieveOr d a ix => Sys2Proof.Machine.execSieveOr d a ix s
  | .sieveXor d a ix => Sys2Proof.Machine.execSieveXor d a ix s
  | .sieveShr d a ix => Sys2Proof.Machine.execSieveShr d a ix s
  | .sieveShl d a ix => Sys2Proof.Machine.execSieveShl d a ix s
  | .sieveJeq d a ix => Sys2Proof.Machine.execSieveJeq d a ix s
  | .sieveJne d a ix => Sys2Proof.Machine.execSieveJne d a ix s
  | .sieveJlt d a ix => Sys2Proof.Machine.execSieveJlt d a ix s
  | .sieveKeep => Sys2Proof.Machine.execSieveKeep s
  | .sieveDrop => Sys2Proof.Machine.execSieveDrop s
  | .sieveCnt d a ix => Sys2Proof.Machine.execSieveCnt d a ix s
  | .sieveTrig d => Sys2Proof.Machine.execSieveTrig d s
  | .sieveHist d a ix => Sys2Proof.Machine.execSieveHist d a ix s
  | .runArbitration => Sys2Proof.Machine.execRunArbitration s
  | .forcedRunEnd => Sys2Proof.Machine.execForcedRunEnd s
  | .longLatencyResult => Sys2Proof.Machine.execLongLatencyResult s
  | .storePerform => Sys2Proof.Machine.execStorePerform s
  | .bankQueueServe => Sys2Proof.Machine.execBankQueueServe s
  | .sleepTimeout => Sys2Proof.Machine.execSleepTimeout s
  | .waitvReread => Sys2Proof.Machine.execWaitvReread s
  | .pageWalkComplete => Sys2Proof.Machine.execPageWalkComplete s
  | .invalidateRange => Sys2Proof.Machine.execInvalidateRange s
  | .invalidateAsid => Sys2Proof.Machine.execInvalidateAsid s
  | .invalidateAll => Sys2Proof.Machine.execInvalidateAll s
  | .invalidationDone => Sys2Proof.Machine.execInvalidationDone s
  | .contextSlotWrite => Sys2Proof.Machine.execContextSlotWrite s
  | .regulatorWrite => Sys2Proof.Machine.execRegulatorWrite s
  | .requestSchedule => Sys2Proof.Machine.execRequestSchedule s
  | .memoryRequestComplete => Sys2Proof.Machine.execMemoryRequestComplete s
  | .refreshDue => Sys2Proof.Machine.execRefreshDue s
  | .catchUpEnd => Sys2Proof.Machine.execCatchUpEnd s
  | .owedRefresh => Sys2Proof.Machine.execOwedRefresh s
  | .rowHammerRefresh => Sys2Proof.Machine.execRowHammerRefresh s
  | .hotrefChange => Sys2Proof.Machine.execHotrefChange s
  | .patrolScrub => Sys2Proof.Machine.execPatrolScrub s
  | .correctedError => Sys2Proof.Machine.execCorrectedError s
  | .uncorrectableError => Sys2Proof.Machine.execUncorrectableError s
  | .keySlotLoad => Sys2Proof.Machine.execKeySlotLoad s
  | .copyCommandStart => Sys2Proof.Machine.execCopyCommandStart s
  | .deliveryUnitCount => Sys2Proof.Machine.execDeliveryUnitCount s
  | .offloadPageOut => Sys2Proof.Machine.execOffloadPageOut s
  | .returnPageResident => Sys2Proof.Machine.execReturnPageResident s
  | .ceReset => Sys2Proof.Machine.execCeReset s
  | .ceEn => Sys2Proof.Machine.execCeEn s
  | .engineCommandComplete => Sys2Proof.Machine.execEngineCommandComplete s
  | .matrixEngineReset => Sys2Proof.Machine.execMatrixEngineReset s
  | .fabricPacketArrival => Sys2Proof.Machine.execFabricPacketArrival s
  | .remoteAcknowledge => Sys2Proof.Machine.execRemoteAcknowledge s
  | .remoteTriggerFire => Sys2Proof.Machine.execRemoteTriggerFire s
  | .ueJobWrite => Sys2Proof.Machine.execUeJobWrite s
  | .gleaningTableWrite => Sys2Proof.Machine.execGleaningTableWrite s
  | .fxProgramStart => Sys2Proof.Machine.execFxProgramStart s
  | .messageAccept => Sys2Proof.Machine.execMessageAccept s
  | .startPacketArrival => Sys2Proof.Machine.execStartPacketArrival s
  | .fxWaitmReread => Sys2Proof.Machine.execFxWaitmReread s
  | .fxAbort => Sys2Proof.Machine.execFxAbort s
  | .fxEn => Sys2Proof.Machine.execFxEn s
  | .phaserEngineCount => Sys2Proof.Machine.execPhaserEngineCount s
  | .phaserEngineFault => Sys2Proof.Machine.execPhaserEngineFault s
  | .phwaitWake => Sys2Proof.Machine.execPhwaitWake s
  | .graceEnd => Sys2Proof.Machine.execGraceEnd s
  | .releaseRingEntry => Sys2Proof.Machine.execReleaseRingEntry s
  | .releaseRingBaseWrite => Sys2Proof.Machine.execReleaseRingBaseWrite s
  | .vpubWaitEnd => Sys2Proof.Machine.execVpubWaitEnd s
  | .versionRegionConfig => Sys2Proof.Machine.execVersionRegionConfig s
  | .nopPacket => Sys2Proof.Machine.execNopPacket s
  | .launchPacket => Sys2Proof.Machine.execLaunchPacket s
  | .feedPacket => Sys2Proof.Machine.execFeedPacket s
  | .waitmemPacket => Sys2Proof.Machine.execWaitmemPacket s
  | .writememStore64 => Sys2Proof.Machine.execWritememStore64 s
  | .writememStore32 => Sys2Proof.Machine.execWritememStore32 s
  | .writememAdd64 => Sys2Proof.Machine.execWritememAdd64 s
  | .linksigPacket => Sys2Proof.Machine.execLinksigPacket s
  | .linkwaitPacket => Sys2Proof.Machine.execLinkwaitPacket s
  | .graphPacket => Sys2Proof.Machine.execGraphPacket s
  | .graphNodeFinish => Sys2Proof.Machine.execGraphNodeFinish s
  | .copyPacket => Sys2Proof.Machine.execCopyPacket s
  | .collPacket => Sys2Proof.Machine.execCollPacket s
  | .vpubPacket => Sys2Proof.Machine.execVpubPacket s
  | .ckptPacket => Sys2Proof.Machine.execCkptPacket s
  | .ctxctlEnd => Sys2Proof.Machine.execCtxctlEnd s
  | .ctxctlSuspend => Sys2Proof.Machine.execCtxctlSuspend s
  | .ctxctlResume => Sys2Proof.Machine.execCtxctlResume s
  | .eventQueueRegisterWrite => Sys2Proof.Machine.execEventQueueRegisterWrite s
  | .troughDisable => Sys2Proof.Machine.execTroughDisable s
  | .teamPlacement => Sys2Proof.Machine.execTeamPlacement s
  | .priorityAgeing => Sys2Proof.Machine.execPriorityAgeing s
  | .deadlineMissed => Sys2Proof.Machine.execDeadlineMissed s
  | .asyncFaultDelivery => Sys2Proof.Machine.execAsyncFaultDelivery s
  | .priorityPreemption => Sys2Proof.Machine.execPriorityPreemption s
  | .teamSave => Sys2Proof.Machine.execTeamSave s
  | .teamResume => Sys2Proof.Machine.execTeamResume s
  | .traceSieveRun => Sys2Proof.Machine.execTraceSieveRun s
  | .sieveLoad => Sys2Proof.Machine.execSieveLoad s
  | .trcStatClear => Sys2Proof.Machine.execTrcStatClear s
  | .powerGateRequest => Sys2Proof.Machine.execPowerGateRequest s
  | .powerGateTimeout => Sys2Proof.Machine.execPowerGateTimeout s
  | .debugStopRequest => Sys2Proof.Machine.execDebugStopRequest s
  | .debugResume => Sys2Proof.Machine.execDebugResume s
  | .trialStart => Sys2Proof.Machine.execTrialStart s
  | .trialStop => Sys2Proof.Machine.execTrialStop s
  | .trialWindowEnd => Sys2Proof.Machine.execTrialWindowEnd s
  | .powerOn => Sys2Proof.Machine.execPowerOn s
  | .bootCold => Sys2Proof.Machine.execBootCold s
  | .bootWarm => Sys2Proof.Machine.execBootWarm s
  | .bootOk => Sys2Proof.Machine.execBootOk s
  | .startTimeout => Sys2Proof.Machine.execStartTimeout s
  | .attestationRequest => Sys2Proof.Machine.execAttestationRequest s
  | .checkpointStreamStart => Sys2Proof.Machine.execCheckpointStreamStart s
  | .sendAhead => Sys2Proof.Machine.execSendAhead s
  | .checkpointComplete => Sys2Proof.Machine.execCheckpointComplete s
  | .checkpointTransportFailure => Sys2Proof.Machine.execCheckpointTransportFailure s
  | .hostPortWrite => Sys2Proof.Machine.execHostPortWrite s
  | .powerSample => Sys2Proof.Machine.execPowerSample s
  | .thermalTrip => Sys2Proof.Machine.execThermalTrip s
  | .registerWrite => Sys2Proof.Machine.execRegisterWrite s
  | .transportFailure => Sys2Proof.Machine.execTransportFailure s
  | .perBankRefreshEnd => Sys2Proof.Machine.execPerBankRefreshEnd s
  | .matrixEngineResetEnd => Sys2Proof.Machine.execMatrixEngineResetEnd s
  | .thermalTripClear => Sys2Proof.Machine.execThermalTripClear s
  | .fxTransferComplete => Sys2Proof.Machine.execFxTransferComplete s

end Sys2Proof.Machine
end

