-- ==== Sys2Proof/Machine/Step.lean ====
section
/-! DEFINITION. One step of the machine: whose turn it is, the instruction or step it executes, and where the next instruction
is fetched. -/

namespace Sys2Proof.Machine

/-- The turn: the head of the agenda, else the free schedule (log 1). -/
def State.turn (s : State) : Turn :=
  match s.agenda with
  | [] => Config.schedule s.tick
  | t :: _ => t
/-- The state in which the turn is taken: the agenda and the model's counter have moved on, and groups whose waits ended in the
step before have become ready (R407). -/
def State.advance (s : State) : State := { s.observe with agenda := s.agenda.tail, tick := s.tick + 1 }
/-- Device time is set forward to that of the network, never back (R6, log 39). -/
def State.syncTime (s : State) (ns : Nat) : State := { s with timeBase := s.timeBase + (ns - s.deviceNs) }

/-- The next word of a partition's run. -/
def stepIssue (s : State) (p : Nat) : Host.Outcome State Fault Refusal :=
  match (s.part p).run with
  | none => .next s
  | some (gid, idx) =>
    match s.grp gid with
    | none => .next s
    | some g =>
      match g.split? idx with
      | none => .next s
      | some sp =>
        match s.nextInstr g sp (s.part p).count with
        | (s', .instr i) => exec i { s' with cur := some (gid, idx) }
        | (s', .forced) => exec .forcedRunEnd { s' with ev := { EvIn.none with unit := p } }
        | (s', .wait w) => .next (s'.stallAt gid idx w)
        | (s', .bad f) => .next (s'.raise gid idx f sp.pc)

/-- The next word of a fabric program that is not waiting. -/
def stepFx (s : State) (p : Nat) : Host.Outcome State Fault Refusal :=
  let x := s.fxs.get FxSt.init p
  match x.cur with
  | none => .next s
  | some c =>
    if x.wait ≠ .none ∨ x.busy.isSome = true ∨ c.desc.isSome = true ∨ s.fxHeld p = true then .next s
    else
      match s.fetchFx p c.slot x.fpc with
      | (s', .ok (.ok i)) => exec i { s' with curFx := some p }
      | (s', .ok (.error r)) => .next (s'.fxFail p (rejectFault r).code 0 0)
      | (s', .error (.fault code d va)) => .next (s'.fxFail p (BitVec.ofNat 8 code) d (BitVec.ofNat 64 va))
      | (s', .error .wait) => .next s'

/-- The next sieve word of a trace core. -/
def stepSieve (s : State) (die : Nat) : Host.Outcome State Fault Refusal :=
  match s.fetchSieve die with
  | none => .next s
  | some i => exec i { s with curDie := some die }

/-- One step. -/
def step (s : State) : Host.Outcome State Fault Refusal :=
  match s.turn with
  | .issue p => stepIssue s.advance p
  | .fx p => stepFx s.advance p
  | .sieve d => stepSieve s.advance d
  | .ev i a => if isStep i then exec i { s.advance with ev := a } else .next s.advance
  | .elapse n => .next (s.advance.observeQueues.settleWaits.retryCopies.retryFx.elapse n)
  | .sync n => .next (s.advance.syncTime n)

/-- Place a sieve program of one word in the trace core of die 0, with a record to filter (log 11). -/
def State.withSieveWord (s : State) (w : Nat) : State :=
  { s with
    traces := s.traces.set TraceSt.init 0 ⟨some [BitVec.ofNat 32 w], some ⟨0, 0, 0, 0⟩, 0, []⟩
    agenda := .sieve 0 :: s.agenda }

/-- Place an Igyan instruction: its words at address 0 of a page the core's TLB maps, and a group of one team of one grid of
context slot 0 in a run at it (log 11). -/
def State.withIgyanWord (s : State) (w : Nat) : State :=
  let e : TlbE := ⟨s.ctxAsid 0, 0, 65536, 0, 0, 0, 0, 0, false, false, false, true, true, true⟩
  let g := Group.placed 0 0 0 0 0 16 256 0 0 0 0 0 0 0 0 s.tick
  let rec_ : LaunchRec := ⟨0, 16, 1024, 64, 1, 0, 0, [(1, 256)]⟩
  let s := s.homeWrite 0 ((bytesOf 16 (w % 2 ^ 128)).zipIdx.map (fun p => (p.2, p.1)))
  { s with
    cores := s.cores.set CoreSt.init 0 { s.core 0 with tlb := [e] }
    groups := s.groups.insert 0 g
    teams := s.teams.insert 0 ⟨0, 0, 0, 0, 0x100000, 64, 1, 1, 0, s.tick, [], [], [], 0, []⟩
    grids := s.grids.insert 0 ⟨0, 0, .packet 0 0 0, 0, 0, none, 0, false, 1, rec_, [], 0, 0, 0, 0, 1, 0, 0, false⟩
    parts := s.parts.set PartSt.init 0 ⟨some (0, 0), 0, 0, 0, 0, 0, 0, false⟩
    agenda := .issue 0 :: s.agenda }

/-- The state with an instruction where the next step fetches it. -/
def State.withFetchWord (s : State) (nbits w : Nat) : State :=
  if nbits = 32 then s.withSieveWord w else s.withIgyanWord w

end Sys2Proof.Machine
end

