-- ==== Sys2Proof/Safety.lean ====
section
/-! DEFINITION. What the claims mean by a safe run, by a word that issues, and by what a word leaves alone. -/

namespace Sys2Proof.Machine

-- ## Runs

/-- A step that stops: the machine's own faults and refusals (log 9). The manual's faults are next states. -/
def Stops (s : State) : Prop := ∀ t, step s ≠ .next t

/-- A run of n steps. -/
inductive Reaches : State → State → Prop
  | refl (s : State) : Reaches s s
  | tail {s t u : State} : Reaches s t → step t = .next u → Reaches s u

/-- A state from which no run stops. -/
def Safe (s : State) : Prop := ∀ t, Reaches s t → ¬ Stops t

-- ## A word that issues

/-- A word with header `h`, registers `us` and `len` words issues for a group, a split and its lanes: the registers are within
the budget (R32), no open window covers them (R46), and no result is awaited (R47, R48). -/
structure Issues (s : State) (h : Hdr) (us : List Use) (len : Nat) (c : Ctx) : Prop where
  ctx : s.ctx? h = some c
  budget : us.all (fun u => u.within c.g.budget) = true
  windows : c.sp.violates (wordNames h us) = false
  results : c.sp.blocked c.g len = []

/-- A split apart from its place in the queue (R343). -/
def Split.core (x : Split) : Split := { x with demote := false }

/-- The bookkeeping of issue: partitions, run counters, trial counters and trace records, with the group's other data, every
other group, memory and every other register as they were (R40, R41, R407, R427, R435, R437). -/
structure Book (s t : State) (gid : Nat) : Prop where
  state : t = { s with groups := t.groups, parts := t.parts, mmio := t.mmio, tbufs := t.tbufs }
  regs : ∀ a, a ≠ trialAddr 0x30 → a ≠ trialAddr 0x38 → t.reg a = s.reg a
  groups : ∀ i, i ≠ gid → (t.grp i).map (fun g => { g with wait := 0 }) = (s.grp i).map (fun g => { g with wait := 0 })
  own : ∀ g, s.grp gid = some g → ∃ g', t.grp gid = some g'
    ∧ g' = { g with splits := g'.splits, runs := g'.runs, trdly := g'.trdly, readyAt := g'.readyAt, wait := g'.wait }
    ∧ ∀ i, (g'.split? i).map Split.core = (g.split? i).map Split.core

/-- The split of a word stands at the address after it, ready; every other split is as it was. -/
def Moved (c : Ctx) (pc : W64) (g' : Group) : Prop :=
  (∃ x, g'.split? c.idx = some x ∧ x.pc = pc ∧ x.mask = c.sp.mask ∧ x.st = .ready)
    ∧ ∀ i, i ≠ c.idx → (g'.split? i).map Split.core = (c.g.split? i).map Split.core

/-- A word that acts on the registers of its group has left nothing else changed: `g'` is the group after. -/
structure OnlyRegs (s t : State) (c : Ctx) (len : Nat) (g' : Group) : Prop where
  state : t = { s with groups := t.groups, parts := t.parts, mmio := t.mmio, tbufs := t.tbufs, nextId := t.nextId }
  regs : ∀ a, a ≠ trialAddr 0x30 → a ≠ trialAddr 0x38 → t.reg a = s.reg a
  memory : ∀ k a, t.homeByte k a = s.homeByte k a
  groups : ∀ i, i ≠ c.gid → (t.grp i).map (fun g => { g with wait := 0 }) = (s.grp i).map (fun g => { g with wait := 0 })
  here : t.grp c.gid = some g'
  own : g' = { c.g with
    v := g'.v, s := g'.s, d := g'.d, p := g'.p, flg := g'.flg, splits := g'.splits, pend := g'.pend, runs := g'.runs
    trdly := g'.trdly, readyAt := g'.readyAt, wait := g'.wait }
  moved : Moved c (c.sp.pc + BitVec.ofNat 64 (8 * len)) g'

/-- The registers of two groups are the same. -/
def SameRegs (g g' : Group) : Prop := g'.v = g.v ∧ g'.s = g.s ∧ g'.d = g.d ∧ g'.p = g.p ∧ g'.flg = g.flg

/-- The results of a word: written at issue where its latency is short, or where it has none; else pending until
`LONG_LATENCY_RESULT` (R44, R46). -/
def Results (s : State) (c : Ctx) (lat : Lat) (us : List Use) (flg : Bool) (ws : List RegWrite) (g' : Group) : Prop :=
  if lat = .long ∧ (destNames us ≠ [] ∨ flg = true) then
    SameRegs c.g g' ∧ g'.pend = c.g.pend ++ [⟨s.nextId, c.idx, destNames us, flg, false, 0, ws, none, c.sp.pc, s.tick⟩]
  else SameRegs (c.g.writes ws) g' ∧ g'.pend = c.g.pend

/-- Writing the list puts `val l` in register `d` of every participating lane, its high half in `d + 1` where the operand is
wide (R158), and ORs `fl l` into the lane's flags (R164); `VZ` is discarded (R33), and nothing else changes. -/
def GivesV (ws : List RegWrite) (act : Lanes) (wide : Bool) (d : Nat) (val : Nat → W64) (fl : Nat → Fl) : Prop :=
  ∀ g : Group,
    (∀ n l, l < 64 → (g.writes ws).getV n l =
      if act.getLsbD l = true ∧ n = d ∧ n ≠ 255 then (val l).setWidth 32
      else if act.getLsbD l = true ∧ wide = true ∧ n = d + 1 ∧ n ≠ 255 then ((val l) >>> 32).setWidth 32
      else g.getV n l)
    ∧ (∀ l, l < 64 → (g.writes ws).getFlg l = if act.getLsbD l = true then g.getFlg l ||| fl l else g.getFlg l)
    ∧ (∀ n, (g.writes ws).getS n = g.getS n) ∧ (∀ n, (g.writes ws).getD n = g.getD n)
    ∧ ∀ n l, l < 64 → ((g.writes ws).getP n).getLsbD l = (g.getP n).getLsbD l

/-- Writing the list puts `val` in register `Sd`, zero-extended where the operand is narrow (R158), and ORs `fl` into the flags
of every participating lane (R185); nothing where no lane participates (R31). `SZ` is discarded (R33). -/
def GivesS (ws : List RegWrite) (act : Lanes) (wide : Bool) (d : Nat) (val : W64) (fl : Fl) : Prop :=
  ∀ g : Group,
    (∀ n, (g.writes ws).getS n =
      if act ≠ 0 ∧ n = d ∧ n ≠ 63 then (if wide then val else (val.setWidth 32).setWidth 64) else g.getS n)
    ∧ (∀ l, l < 64 → (g.writes ws).getFlg l = if act.getLsbD l = true then g.getFlg l ||| fl else g.getFlg l)
    ∧ (∀ n l, l < 64 → (g.writes ws).getV n l = g.getV n l) ∧ (∀ n, (g.writes ws).getD n = g.getD n)
    ∧ ∀ n l, l < 64 → ((g.writes ws).getP n).getLsbD l = (g.getP n).getLsbD l

/-- Writing the list puts `val l` in predicate `pd` of every participating lane, and changes nothing else; `P7` is discarded
(R33). -/
def GivesP (ws : List RegWrite) (act : Lanes) (pd : Nat) (val : Nat → Bool) : Prop :=
  ∀ g : Group,
    (∀ n l, l < 64 → ((g.writes ws).getP n).getLsbD l =
      if act.getLsbD l = true ∧ n = pd ∧ n ≠ 7 then val l else (g.getP n).getLsbD l)
    ∧ (∀ l, l < 64 → (g.writes ws).getFlg l = g.getFlg l)
    ∧ (∀ n l, l < 64 → (g.writes ws).getV n l = g.getV n l) ∧ (∀ n, (g.writes ws).getS n = g.getS n)
    ∧ ∀ n, (g.writes ws).getD n = g.getD n

/-- A register word completes: `ws` are its results, and it changes nothing else. -/
def Completes (i : Instr) (s : State) (c : Ctx) (len : Nat) (lat : Lat) (us : List Use) (flg : Bool)
    (ws : List RegWrite) : Prop :=
  ∃ t g', exec i s = .next t ∧ OnlyRegs s t c len g' ∧ Results s c lat us flg ws g'

/-- A word with an open destination field (R30): a vector result in every participating lane, or a scalar result once. -/
def RegWord (i : Instr) (h : Hdr) (lat : Lat) (flg k wide : Bool) (d : Reg) (val : Group → Nat → W64 × Fl) : Prop :=
  ∀ s c, Issues s h i.uses 1 c → ∃ ws, Completes i s c 1 lat i.uses (flg && !h.q) ws
    ∧ (k = false → GivesV ws c.act wide d.toNat (fun l => (val c.g l).1) (fun l => if h.q then 0 else (val c.g l).2))
    ∧ (k = true → GivesS ws c.act wide d.toNat (val c.g (lowLane c.act)).1 (if h.q then 0 else (val c.g (lowLane c.act)).2))

-- ## Words that act in lanes, with a condition on the group

/-- A word whose vector result stands in every participating lane, where the group meets `ok`. -/
def LaneWord (i : Instr) (h : Hdr) (flg wide : Bool) (d : Reg) (ok : Group → Prop) (val : Group → Lanes → Nat → W64 × Fl) :
    Prop :=
  ∀ s c, Issues s h i.uses 1 c → ok c.g → ∃ ws, Completes i s c 1 .long i.uses (flg && !h.q) ws
    ∧ GivesV ws c.act wide d.toNat (fun l => (val c.g c.act l).1) (fun l => if h.q then 0 else (val c.g c.act l).2)

/-- A word that writes a predicate in every participating lane, where the group meets `ok`. -/
def PredWord (i : Instr) (h : Hdr) (lat : Lat) (flg : Bool) (pd : PReg) (ok : Group → Prop) (val : Group → Lanes → Nat → Bool) :
    Prop :=
  ∀ s c, Issues s h i.uses 1 c → ok c.g → ∃ ws, Completes i s c 1 lat i.uses (flg && !h.q) ws
    ∧ GivesP ws c.act pd.toNat (val c.g c.act)

/-- Writing the list changes nothing but the `V` registers, the `S` registers and `FLG` that the word names otherwise. -/
def GivesNothing (ws : List RegWrite) : Prop := ∀ g : Group, g.writes ws = g

/-- A word that raises a precise fault at its own address, and completes nothing (R409, R50). -/
def FaultsAt (i : Instr) (s : State) (c : Ctx) (code : BitVec 8) (detail : Nat) (addr : W64) (lane : Nat) : Prop :=
  exec i s = .next (s.raise c.gid c.idx ⟨code, BitVec.ofNat 32 detail, addr, lane⟩ c.sp.pc)

end Sys2Proof.Machine
namespace Sys2Proof

/-- An integer operand read under its type (R185): `sext` or `zext` of its low w bits. -/
def ITy.read (t : ITy) (x : W64) : Int :=
  match t with
  | .s32 => (x.setWidth 32).toInt
  | .z32 => ((x.setWidth 32).toNat : Int)
  | .s64 => x.toInt
  | .z64 => (x.toNat : Int)
/-- The least and the greatest value of a type (R189). -/
def ITy.least (t : ITy) : Int := if t.signed then -(2 ^ (t.bits - 1)) else 0
def ITy.greatest (t : ITy) : Int := if t.signed then 2 ^ (t.bits - 1) - 1 else 2 ^ t.bits - 1
/-- The amount of a shift (R193). -/
def ShAmt.amount (n : ShAmt) (k : Bool) (g : Machine.Group) (l : Nat) : Nat :=
  match n with
  | .imm i => i.toNat
  | .reg sb b => (g.src32 (k || sb) b l).toNat

end Sys2Proof
namespace Sys2Proof.Machine

-- ## Engine accesses (R84, R86, R115)

/-- A walk for an engine need not wait: none of its region is under way on the die, a slot of the 1,024 is free, and the key of
the context's tables is not being replaced (R81, R86). -/
def State.walkFree (s : State) (die slot va : Nat) : Prop :=
  (s.liveWalks die).find? (fun w => w.isAt die slot (va / 65536)) = none ∧ s.walkHeld slot = false ∧ (s.liveWalks die).length < 1024
/-- An engine of a die finds the page of an address: in the die's TLB, or in its context's tables by a walk, which takes no time
(log 33). -/
def EngFinds (s : State) (die slot va : Nat) (e : TlbE) : Prop :=
  va < 2 ^ 52 ∧ (tlbFind (s.engTlb.get [] die) (s.ctxAsid slot) va = some e
    ∨ (tlbFind (s.engTlb.get [] die) (s.ctxAsid slot) va = none ∧ s.walkFree die slot va ∧ s.walk slot va = .ok e))
/-- Every byte of a range is in pages the die's TLB holds, permitted and in place; `ls` are their canonical addresses and
attributes. -/
def EngMapped (s : State) (die slot : Nat) (need : Need) (va : Nat) (ls : List (Nat × Attr)) : Prop :=
  ∀ j x, ls[j]? = some x → va + j < 2 ^ 52 ∧ ∃ e, tlbFind (s.engTlb.get [] die) (s.ctxAsid slot) (va + j) = some e
    ∧ s.permit need e = none ∧ s.keyLoad.contains e.key = false ∧ e.ofs ≠ 2 ∧ offWait need e = false
    ∧ s.unbacked (e.at_ (va + j)) = false ∧ x = (e.at_ (va + j), e.attr)
/-- A group's command of a class has ended: its drain counter (R369). -/
def Group.undrained (g : Group) (k : CmdKind) : Group := match k with
  | .copy => { g with drCp := g.drCp - 1 }
  | .remote => { g with drRm := g.drRm - 1 }
  | .fabric => { g with drFx := g.drFx - 1 }
  | _ => g
/-- A message of a count (R360), with the unit it counts and what that unit wrote. -/
def countMsg (ph : Nat) (slot n : Nat) (k : CmdKind) (cmd : Nat) (org : Origin) (pos : Nat) (va site : W64) (seq : W32) (w : Wrote) :
    PhMsg := ⟨ph, slot, n, none, k, cmd, org, pos, va, site, seq, w⟩

/-- Nothing waits for the end of a command: no context or suspension that is ending, and no done word that a page has kept
waiting (R398, R406). -/
def State.idleEnds (s : State) : Prop :=
  s.endings = [] ∧ s.suspends = [] ∧ ∀ y ∈ s.grids, y.2.ended ≠ y.2.teamN
/-- The fault of an engine command, and the message of it that a phaser receives (R116, R117, R278). -/
def CopyCmd.faultAs (c : CopyCmd) (code detail va : Nat) : AFault :=
  ⟨BitVec.ofNat 8 code, BitVec.ofNat 32 detail, BitVec.ofNat 64 va, c.site, c.seq, .copy⟩
def RemoteCmd.faultAs (c : RemoteCmd) (code detail : Nat) (va : W64) : AFault :=
  ⟨BitVec.ofNat 8 code, BitVec.ofNat 32 detail, va, c.site, c.seq, .remote⟩
def faultMsg (ph slot : Nat) (org : Origin) (f : AFault) : PhMsg :=
  ⟨ph, slot, 0, some f, f.kind, 0, org, 0, f.addr, f.site, f.seq, Wrote.none⟩
/-- A copy-engine command of a resident group has ended by a fault: it is gone and counted as faulted, no count follows, and its
group and its phaser have the fault (R116, R117, R119). -/
structure CopyFailed (s t : State) (id : Nat) (c : CopyCmd) (gid : Nat) (g : Group) (f : AFault) : Prop where
  state : t = { s with
    ecmds := t.ecmds, engines := t.engines, mmio := t.mmio, groups := t.groups, phMsgs := t.phMsgs, phasers := t.phasers
    wireOut := t.wireOut }
  gone : t.ecmds.find? id = none
  kept : ∀ j, j ≠ id → t.ecmds.find? j = s.ecmds.find? j
  queue : t.engine c.engine = ⟨(s.engine c.engine).queue.filter (· != id), (s.engine c.engine).active.filter (· != id)⟩
  group : t.grp gid = some { g.undrained .copy with pendq := g.pendq ++ [f] }
  others : ∀ j, j ≠ gid → t.grp j = s.grp j
  faulted : fld (t.reg (ceAddr c.engine 0x18)) 63 32 = (fld (s.reg (ceAddr c.engine 0x18)) 63 32 + 1) % 2 ^ 32
    ∧ fld (t.reg (ceAddr c.engine 0x18)) 31 0 = fld (s.reg (ceAddr c.engine 0x18)) 31 0
  regs : ∀ a, a ≠ ceAddr c.engine 0x18 → t.reg a = s.reg a
  phaser : t.phMsgs = s.phMsgs ++ (if c.np then [] else [faultMsg c.phaser c.ctx c.org f])
  wire : ∀ p, p ∈ t.wireOut ↔ p ∈ s.wireOut ∧ p.cmd ≠ id
/-- A remote command of a resident group has ended by a fault (R278). -/
structure RemoteFailed (s t : State) (id : Nat) (c : RemoteCmd) (g : Group) (f : AFault) : Prop where
  state : t = { s with
    remotes := t.remotes, groups := t.groups, phMsgs := t.phMsgs, phasers := t.phasers, wireOut := t.wireOut }
  gone : t.remotes.find? id = none
  kept : ∀ j, j ≠ id → t.remotes.find? j = s.remotes.find? j
  group : t.grp c.gid = some { g.undrained .remote with pendq := g.pendq ++ [f] }
  others : ∀ j, j ≠ c.gid → t.grp j = s.grp j
  phaser : t.phMsgs = s.phMsgs ++ (if c.np then [] else [faultMsg c.phaser c.ctx (.group c.gid) f])
  wire : ∀ p, p ∈ t.wireOut ↔ p ∈ s.wireOut ∧ p.cmd ≠ id

/-- A conversion: where the format codes are accepted it writes its result, else `FORMAT_FAULT` (R216, R223). -/
def CvtWord (i : Instr) (h : Hdr) (flg k wide : Bool) (d : Reg) (ok : Group → Prop) (val : Group → Lanes → Nat → W64 × Fl) : Prop :=
  ∀ s c, Issues s h i.uses 1 c →
    (ok c.g → ∃ ws, Completes i s c 1 .long i.uses (flg && !h.q) ws
      ∧ (k = false → GivesV ws c.act wide d.toNat (fun l => (val c.g c.act l).1) (fun l => if h.q then 0 else (val c.g c.act l).2))
      ∧ (k = true → GivesS ws c.act wide d.toNat (val c.g c.act (lowLane c.act)).1
          (if h.q then 0 else (val c.g c.act (lowLane c.act)).2)))
    ∧ (¬ ok c.g → FaultsAt i s c fcFormat 0 0 0)

/-- A code and its flags as a result. -/
def res32 (r : Nat × Fl) : W64 × Fl := ((BitVec.ofNat 32 r.1).setWidth 64, r.2)
/-- The 16-bit elements of a word (R209). -/
def lo16 (x : W32) : Nat := x.toNat % 65536
def hi16 (x : W32) : Nat := x.toNat / 65536
/-- Two 16-bit results, flags ORed (R209). -/
def resPair (lo hi : Nat × Fl) : W64 × Fl := ((BitVec.ofNat 32 (lo.1 + 65536 * hi.1)).setWidth 64, lo.2 ||| hi.2)

-- ## Lane sets (R226)

/-- Lane m lies in lane l's set: its aligned sub-group, or the mask that lane l holds, itself included. -/
def LaneSet.has (ls : LaneSet) (g : Group) (l m : Nat) : Bool :=
  match ls with
  | .sub sg =>
    let n := subWidth g.width sg
    decide (l / n * n ≤ m) && decide (m < l / n * n + n)
  | .mask c => decide (m < g.width) && (m == l || (g.getV64 c.toNat l).getLsbD m)
/-- The position of a lane in a set. -/
def LaneSet.pos (ls : LaneSet) (g : Group) (m : Nat) : Nat :=
  match ls with
  | .sub sg => m % subWidth g.width sg
  | .mask _ => m
/-- The participating lanes of lane l's set, ascending. -/
def LaneSet.present (ls : LaneSet) (g : Group) (act : Lanes) (l : Nat) : List Nat :=
  (List.range 64).filter (fun m => act.getLsbD m && LaneSet.has ls g l m)
/-- Those that a scan at lane l combines. -/
def LaneSet.before (ls : LaneSet) (g : Group) (act : Lanes) (excl : Bool) (l : Nat) : List Nat :=
  (LaneSet.present ls g act l).filter (fun m => if excl then decide (m < l) else decide (m ≤ l))
/-- The widths a lane set allows (R226). -/
def LaneSet.fits (ls : LaneSet) (g : Group) : Prop :=
  match ls with
  | .sub sg => subWidth g.width sg ≤ g.width
  | .mask _ => True
/-- A node of the fixed tree of R234, over leaves by position: at level k, node i. -/
def treeNode (op : FRedOp) (rm : RM) (ftz : Bool) (leaf : Nat → Option W32) : Nat → Nat → Option W32 × Num.Fl
  | 0, i => (leaf i, 0)
  | k + 1, i =>
    let x := treeNode op rm ftz leaf k (2 * i)
    let y := treeNode op rm ftz leaf k (2 * i + 1)
    match x.1, y.1 with
    | none, b => (b, x.2 ||| y.2)
    | some a, none => (some a, x.2 ||| y.2)
    | some a, some b =>
      match op with
      | .add =>
        let r := Num.op2 Num.fp32 rm ftz (Sys2Proof.Num.add (rm == .rd)) a.toNat b.toNat
        (some (BitVec.ofNat 32 r.1), x.2 ||| y.2 ||| r.2)
      | .min => (some (BitVec.ofNat 32 (Num.minmax Num.fp32 false ftz a.toNat b.toNat)), x.2 ||| y.2)
      | .max => (some (BitVec.ofNat 32 (Num.minmax Num.fp32 true ftz a.toNat b.toNat)), x.2 ||| y.2)
/-- The value and flags of lane l over the lanes of a list: the root of six levels, or the value of an empty combination. -/
def treeValue (op : FRedOp) (rm : RM) (ftz : Bool) (ls : LaneSet) (g : Group) (a : Reg) (ms : List Nat) : W64 × Num.Fl :=
  let leaf (p : Nat) : Option W32 := (ms.find? (fun m => LaneSet.pos ls g m == p)).map (fun m =>
    BitVec.ofNat 32 (Num.flushIn Num.fp32 ftz (g.getV a.toNat m).toNat))
  let r := treeNode op rm ftz leaf 6 0
  let empty : W32 := match op with
    | .add => 0
    | .min => 0x7F800000
    | .max => 0xFF800000
  ((r.1.getD empty).setWidth 64, r.2)
/-- A class 3 word: where its lane set fits the group it writes a vector result, else `ILLEGAL_OPERAND` (R226). -/
def SetWord (i : Instr) (h : Hdr) (flg wide : Bool) (d : Reg) (fits : Group → Prop) (val : Group → Lanes → Nat → W64 × Fl) : Prop :=
  LaneWord i h flg wide d fits val
    ∧ ∀ s c, s.ctx? h = some c → ¬ fits c.g → FaultsAt i s c fcOperand 0 0 0

-- ## Pair words (R37)

/-- The single word whose effect half of a pair word has, and whether it may set flags. -/
def halfSingle (h : Hdr) (op : BitVec 7) (d a b : Reg) : Option (Instr × Bool) :=
  let f : F3 := ⟨false, false, .rn, false, d, a, b⟩
  let m : F4 := ⟨false, false, .rn, false, d, a, b, d⟩
  let i : I3 := ⟨false, false, .s32, d, a, b⟩
  let s : ShAmt := .reg false b
  match op.toNat with
  | 0x00 => some (.fadd h f, true)
  | 0x01 => some (.fsub h f, true)
  | 0x02 => some (.fmul h f, true)
  | 0x03 => some (.ffma h m, true)
  | 0x04 => some (.fmin h false false false d a b, true)
  | 0x05 => some (.fmax h false false false d a b, true)
  | 0x06 => some (.badd2 h f, true)
  | 0x07 => some (.bmul2 h f, true)
  | 0x08 => some (.bfma2 h m, true)
  | 0x09 => some (.hadd2 h f, true)
  | 0x0A => some (.hmul2 h f, true)
  | 0x0B => some (.hfma2 h m, true)
  | 0x40 => some (.mov h ⟨false, .s32, d, a⟩, false)
  | 0x41 => some (.iadd h i, false)
  | 0x42 => some (.isub h i, false)
  | 0x43 => some (.andB h i, false)
  | 0x44 => some (.orB h i, false)
  | 0x45 => some (.xorB h i, false)
  | 0x46 => some (.shl h ⟨false, .s32, d, a⟩ s, false)
  | 0x47 => some (.shr h ⟨false, .s32, d, a⟩ s, false)
  | 0x48 => some (.sar h ⟨false, .s32, d, a⟩ s, false)
  | 0x49 => some (.imin h i, false)
  | 0x4A => some (.imax h i, false)
  | 0x4B => some (.fabs h false d a, true)
  | 0x4C => some (.fneg h false d a, true)
  | _ => none

-- ## Words that reach memory

/-- Every lane of an access is aligned to its size and finds its page in the core's TLB, with the permissions it needs, its
key loaded and its page in place (R84, R115, R140). -/
structure Mapped (s : State) (core slot : Nat) (need : Need) (n : Nat) (as : List (Nat × W64)) (ls : List LaneAt) : Prop where
  lanes : ls.map (fun x => (x.lane, x.va)) = as
  aligned : ∀ x ∈ ls, x.va.toNat % n = 0
  found : ∀ x ∈ ls, x.va.toNat < 2 ^ 52 ∧ tlbFind (s.core core).tlb (s.ctxAsid slot) x.va.toNat = some x.e
  addr : ∀ x ∈ ls, x.ca = x.e.at_ x.va.toNat
  allowed : ∀ x ∈ ls, s.permit need x.e = none ∧ s.keyLoad.contains x.e.key = false
  here : ∀ x ∈ ls, offWait need x.e = false ∧ x.e.ofs ≠ 2 ∧ s.unbacked x.ca = false

/-- No byte at home has changed outside the 64-byte bursts whose bytes stood dirty in the core's L1: those may have been
written back (R130, R132). -/
def HomeKept (s t : State) (core : Nat) : Prop :=
  ∀ k a, (∀ l ∈ (s.core core).lines, ∀ p ∈ l.dirtyBytes, p.1 / 64 ≠ a / 64) → t.homeByte k a = s.homeByte k a

/-- Engine commands are as they were, but for the bursts of claimed pages that an offload has kept (R114). -/
def SameCopies (s t : State) : Prop :=
  ∀ j, (t.ecmds.find? j).map (fun c => { c with saved := [] }) = (s.ecmds.find? j).map (fun c => { c with saved := [] })

/-- A word that reached memory through its core: besides the group's own results, only the caches, the stored bytes, the
store FIFO, bank queues and requests may have changed; `es` are the entries it added to the FIFO. -/
structure OnlyMemory (s t : State) (c : Ctx) (len : Nat) (es : List FifoE) (g' : Group) : Prop where
  state : t = { s with
    groups := t.groups, parts := t.parts, mmio := t.mmio, tbufs := t.tbufs, nextId := t.nextId, cores := t.cores
    clusters := t.clusters, mem := t.mem, burst := t.burst, poison := t.poison, traffic := t.traffic, stale := t.stale
    posts := t.posts, wireOut := t.wireOut, ckpt := t.ckpt, ecmds := t.ecmds }
  copies : SameCopies s t
  regs : ∀ a, a ≠ trialAddr 0x30 → a ≠ trialAddr 0x38 → t.reg a = s.reg a
  groups : ∀ i, i ≠ c.gid → (t.grp i).map (fun g => { g with wait := 0 }) = (s.grp i).map (fun g => { g with wait := 0 })
  here : t.grp c.gid = some g'
  own : g' = { c.g with
    v := g'.v, s := g'.s, d := g'.d, p := g'.p, flg := g'.flg, splits := g'.splits, pend := g'.pend, runs := g'.runs
    trdly := g'.trdly, readyAt := g'.readyAt, wait := g'.wait, fifo := c.g.fifo ++ es, cc := g'.cc }
  moved : Moved c (c.sp.pc + BitVec.ofNat 64 (8 * len)) g'

/-- The results of a long-latency word that reads bank lines or may demote its split: pending, with the lines still to be
served, or written where it names no destination. -/
def MemResult (s : State) (c : Ctx) (us : List Use) (lines : List Nat) (dem : Bool) (ws : List RegWrite) (g' : Group) : Prop :=
  if destNames us ≠ [] ∨ lines ≠ [] ∨ dem = true then
    SameRegs c.g g' ∧ ∃ id, g'.pend = c.g.pend ++ [⟨id, c.idx, destNames us, false, dem, lines.length, ws, none, c.sp.pc, s.tick⟩]
  else SameRegs (c.g.writes ws) g' ∧ g'.pend = c.g.pend

/-- What leads from `s` to `t` goes on: no regulator holds back the requests that it makes, or all that it made have been served
(R101, R102). -/
def State.passes (s t : State) (reads : Bool) : Prop := ∃ u, s.pass t reads = .ok u

/-- A load over checked lanes completes: its results are made from the bytes that `readLanes` finds when it issues (log 3), and
nothing at home changes but what the caches write back. The write-backs that it makes pass their regulators (R101). -/
def LoadWord (i : Instr) (h : Hdr) (sc : Scope) (hnt : Hint) (n : Nat) (at_ : State → Ctx → List LaneAt → Prop)
    (f : Ctx → List (LaneAt × List Byte) → List RegWrite × Bool) : Prop :=
  ∀ s c ls s2 rs, Issues s h i.uses 1 c → c.act ≠ 0 → at_ s c ls → c.g.fifoUnknown ls n = false →
    s.bankFull c.g.core (s.l1Lines c.g sc hnt n ls) = none → s.readLanes c.g sc hnt n ls = (s2, rs, none) →
    s.passes s2 false →
    ∃ t g', exec i s = .next t ∧ OnlyMemory s t c 1 [] g' ∧ HomeKept s t c.g.core
      ∧ MemResult s c i.uses (s.l1Lines c.g sc hnt n ls) (f c rs).2 (f c rs).1 g'

/-- A release goes through: the group's older stores are done, and the write-backs that it makes pass their regulators (R101,
R144). -/
def State.mayRelease (s : State) (c : Ctx) (sc : Scope) : Prop :=
  s.relReady c.gid c.g sc = true ∧ s.passes (s.release c.g sc) false

/-- A word's release at a scope, where it has one, goes through and leads to `s1` (R101, R144). -/
def Releases (s : State) (c : Ctx) (rel : Bool) (sc : Scope) (s1 : State) : Prop :=
  if rel then s.relReady c.gid c.g sc = true ∧ s.pass (s.release c.g sc) false = .ok s1 else s1 = s

/-- A word has left all but its group's data and the bookkeeping of issue as it was: caches, memory, poison marks and requests
too. -/
def State.OnlyIssue (t s : State) : Prop := t = { s with groups := t.groups, parts := t.parts, mmio := t.mmio, tbufs := t.tbufs }

/-- A store over checked lanes completes: its bytes enter the store FIFO in lane order, and everything outside the group is as it
was, but for what a release writes back (R142, R144). -/
def StoreWord (i : Instr) (h : Hdr) (sc : Scope) (rel nol1 : Bool) (at_ : State → Ctx → List LaneAt → Prop)
    (bytes : Ctx → LaneAt → List Byte) : Prop :=
  ∀ s c ls, Issues s h i.uses 1 c → c.act ≠ 0 → at_ s c ls → (rel = true → s.mayRelease c sc) →
    ∃ t g', exec i s = .next t ∧ OnlyMemory s t c 1 (storeEntries sc nol1 (s.via ls) (ls.map (fun x => (x, bytes c x)))) g'
      ∧ SameRegs c.g g' ∧ g'.pend = c.g.pend ∧ HomeKept s t c.g.core
      ∧ (rel = false → t.OnlyIssue s)

/-- The participating lanes with a lane's base, index and signed offset added (R137). -/
def Ctx.lanesAt (c : Ctx) (a : SReg) (b : Reg) (off : BitVec 12) : List (Nat × W64) :=
  (laneList c.act).map (fun l => (l, c.g.getS a.toNat + (c.g.getV b.toNat l).setWidth 64 + off.signExtend 64))

/-- The low bytes of a lane's registers, lowest first (R139). -/
def Group.regBytes (g : Group) (ty : MTy) (d : Reg) (l : Nat) : List Byte :=
  (List.range (tyBytes ty)).map (fun i => (g.getV (d.toNat + i / 4) l >>> (8 * (i % 4))).setWidth 8)

/-- Lane-private addresses (R146): every lane aligned and inside `LSIZE`, mapped so that a group's lanes interleave. -/
def PrivateAt (need : Need) (n : Nat) (a : SReg) (b : Reg) (off : BitVec 12) (s : State) (c : Ctx) (ls : List LaneAt) : Prop :=
  ∃ t, s.team c.g.tid = some t
    ∧ (∀ x ∈ c.lanesAt a b off, x.2.toNat % n = 0 ∧ x.2.toNat + n ≤ c.g.lsize.toNat)
    ∧ Mapped s c.g.core c.g.ctx need n ((c.lanesAt a b off).map (fun x =>
        let o := x.2.toNat
        let g := 16 * t.idx + c.g.gi
        (x.1, c.g.lbase + BitVec.ofNat 64 (((g * (c.g.lsize.toNat / 16) + o / 16) * c.g.width + x.1) * 16 + o % 16)))) ls

-- ## Words that act once

end Sys2Proof.Machine
namespace Sys2Proof

/-- The words that act once, and those that act on memory or units in their lanes: with no lane participating they do nothing
(R31, R471). `ACCQ` stands apart: its format is checked whatever the guard (R50). -/
def Instr.guarded : Instr → Option Hdr
  | .ldg h _ => some h
  | .stg h _ => some h
  | .lds h _ => some h
  | .sts h _ => some h
  | .ldc h .. => some h
  | .ldl h .. => some h
  | .stl h .. => some h
  | .ldp h .. => some h
  | .ldv h _ => some h
  | .stws h .. => some h
  | .prf h .. => some h
  | .cctl h .. => some h
  | .fence h .. => some h
  | .ldm h .. => some h
  | .stm h .. => some h
  | .waitv h .. => some h
  | .atom h .. => some h
  | .atomf h .. => some h
  | .cas h _ => some h
  | .red h .. => some h
  | .redf h .. => some h
  | .atoms h .. => some h
  | .cass h .. => some h
  | .cpy h .. => some h
  | .offl h .. => some h
  | .rtrn h .. => some h
  | .putr h .. => some h
  | .getr h .. => some h
  | .puts h .. => some h
  | .append h .. => some h
  | .ratom h .. => some h
  | .coll h .. => some h
  | .layx h .. => some h
  | .gang h _ => some h
  | .gangClr h => some h
  | .mma h .. => some h
  | .mfence h _ => some h
  | .mwait h _ => some h
  | .mwaitAll h => some h
  | .accz h _ => some h
  | .accrd h .. => some h
  | .accwr h .. => some h
  | .shape h .. => some h
  | .phjoin h .. => some h
  | .phdrop h _ => some h
  | .pharr h .. => some h
  | .phwait h .. => some h
  | .phexp h .. => some h
  | .drain h _ => some h
  | .bar h .. => some h
  | .quies h => some h
  | .grace h => some h
  | .fallow h .. => some h
  | .tokb h .. => some h
  | .vpub h .. => some h
  | .vreq h .. => some h
  | .trpop h .. => some h
  | .trpsh h .. => some h
  | .prog h _ => some h
  | .wake h _ => some h
  | .wakeAll h => some h
  | .trap h _ => some h
  | .bkpt h _ => some h
  | .csrr h .. => some h
  | .csrw h .. => some h
  | _ => none

end Sys2Proof
namespace Sys2Proof.Machine

/-- The encoding of a word names what its team or its group does not have (R50, R159, R226, R248, R258): a group that is not there,
or a list without the issuing group, or a tile at `ACC` or above, or a sub-group wider than the group. -/
def State.overLimit (s : State) (c : Ctx) : Instr → Prop
  | .gang _ imm => imm ≠ 0 ∧ ((∃ k ∈ gangList imm, s.teamgOf c.g.tid ≤ k) ∨ c.g.gi ∉ gangList imm)
  | .mma _ _ tile .. => ∃ tm, s.team c.g.tid = some tm ∧ tm.acc ≤ tile.toNat
  | .accz _ tile => ∃ tm, s.team c.g.tid = some tm ∧ tm.acc ≤ tile.toNat
  | .accrd _ _ _ tile _ => ∃ tm, s.team c.g.tid = some tm ∧ tm.acc ≤ tile.toNat
  | .accwr _ _ tile .. => ∃ tm, s.team c.g.tid = some tm ∧ tm.acc ≤ tile.toNat
  | .accq _ _ _ _ _ tile .. => ∃ tm, s.team c.g.tid = some tm ∧ tm.acc ≤ tile.toNat
  | .shfl _ _ _ sg _ _ _ _ => c.g.width < subWidth c.g.width sg
  | .bcast _ _ sg _ _ _ => c.g.width < subWidth c.g.width sg
  | .mtch _ _ sg _ _ => c.g.width < subWidth c.g.width sg
  | .vote _ _ _ t => match t with
    | .bits _ => False
    | .set _ _ ls => ¬ LaneSet.fits ls c.g
  | .elect _ _ ls => ¬ LaneSet.fits ls c.g
  | .redux _ _ ls _ _ => ¬ LaneSet.fits ls c.g
  | .fredux _ _ _ _ ls _ _ => ¬ LaneSet.fits ls c.g
  | .scan _ _ _ ls _ _ => ¬ LaneSet.fits ls c.g
  | .fscan _ _ _ _ _ ls _ _ => ¬ LaneSet.fits ls c.g
  | _ => False

/-- Checks in their order: the first that holds raises its fault at the word; with none, the rest of the statement applies
(R51). -/
def Checks (i : Instr) (s : State) (c : Ctx) : List (Prop × BitVec 8 × Nat × W64 × Nat) → Prop → Prop
  | [], done => done
  | (p, code, detail, addr, lane) :: r, done => (p → FaultsAt i s c code detail addr lane) ∧ (¬ p → Checks i s c r done)

/-- A word stalls in the state `u`: its split stands at it and will issue it again, its run ends, and nothing else changes (R41). -/
def StallsIn (i : Instr) (s u : State) (c : Ctx) (w : Why) : Prop :=
  ∃ t g', exec i s = .next t ∧ t = { u with groups := t.groups, parts := t.parts, tbufs := t.tbufs }
    ∧ (∀ j, j ≠ c.gid → t.grp j = s.grp j)
    ∧ t.grp c.gid = some g' ∧ g' = { c.g with splits := g'.splits, readyAt := g'.readyAt, wait := g'.wait }
    ∧ (∃ x, g'.split? c.idx = some x ∧ x.pc = c.sp.pc ∧ x.mask = c.sp.mask ∧ x.st = .stalled w)
    ∧ ∀ j, j ≠ c.idx → (g'.split? j).map Split.core = (c.g.split? j).map Split.core

/-- A word stalls, and changes nothing else. -/
def Stalls (i : Instr) (s : State) (c : Ctx) (w : Why) : Prop := StallsIn i s s c w
/-- The group's older stores are done, but a regulator holds back what its release writes back: the word stalls, and those requests
gather their tokens (R101). -/
def HeldRelease (i : Instr) (s : State) (c : Ctx) (sc : Scope) : Prop :=
  s.relReady c.gid c.g sc = true → ∀ u, s.pass (s.release c.g sc) false = .error u → StallsIn i s u c .regulator

-- ## Engine commands

/-- An engine command has been issued: the word has completed, the group's sequence number and its class counter have
advanced, and nothing has changed outside the units' queues but what the release wrote back (R256, R337, R369). -/
structure Commanded (s t : State) (c : Ctx) (k : CmdKind) (g' : Group) : Prop where
  state : t = { s with
    groups := t.groups, parts := t.parts, mmio := t.mmio, tbufs := t.tbufs, nextId := t.nextId, cores := t.cores
    clusters := t.clusters, mem := t.mem, burst := t.burst, poison := t.poison, traffic := t.traffic, stale := t.stale
    posts := t.posts, wireOut := t.wireOut, ckpt := t.ckpt, engines := t.engines, ecmds := t.ecmds, remotes := t.remotes, fxs := t.fxs }
  regs : ∀ a, a ≠ trialAddr 0x30 → a ≠ trialAddr 0x38 → t.reg a = s.reg a
  groups : ∀ i, i ≠ c.gid → (t.grp i).map (fun g => { g with wait := 0 }) = (s.grp i).map (fun g => { g with wait := 0 })
  here : t.grp c.gid = some g'
  own : g' = { c.g with
    splits := g'.splits, pend := g'.pend, runs := g'.runs, trdly := g'.trdly, readyAt := g'.readyAt, wait := g'.wait
    cmdseq := c.g.cmdseq + 1, drCp := c.g.drCp + (if k = .copy then 1 else 0), drRm := c.g.drRm + (if k = .remote then 1 else 0)
    drFx := c.g.drFx + (if k = .fabric then 1 else 0) }
  moved : Moved c (c.sp.pc + 8) g'
  kept : HomeKept s t c.g.core

/-- A checked copy-engine command joins the queue of its engine, or its word stalls (R104, R369). -/
def CopyQueued (i : Instr) (s : State) (c : Ctx) (sc : Scope) (op : CopyOp) (np : Bool) (ph : Nat) (tswz : BitVec 4) : Prop :=
  ∀ e, s.copyEngine (4 * (c.g.core / 80) + c.g.core % 4) = some e →
    (65535 ≤ c.g.drCp → Stalls i s c (.drainFull 0))
    ∧ (c.g.drCp < 65535 → 64 ≤ (s.engine e).queue.length → Stalls i s c (.copyQueue e))
    ∧ (c.g.drCp < 65535 → (s.engine e).queue.length < 64 → s.relReady c.gid c.g sc = false → sc ≠ .system → Stalls i s c .fifoEmpty)
    ∧ (c.g.drCp < 65535 → (s.engine e).queue.length < 64 → HeldRelease i s c sc)
    ∧ (c.g.drCp < 65535 → (s.engine e).queue.length < 64 → s.mayRelease c sc →
      ∃ t g' id, exec i s = .next t ∧ Commanded s t c .copy g' ∧ g'.pend = c.g.pend
        ∧ t.engine e = ⟨(s.engine e).queue ++ [id], (s.engine e).active⟩ ∧ (∀ x, x ≠ e → t.engine x = s.engine x)
        ∧ t.ecmds.find? id = some
            { copyCmd op np ph c.g.ctx (some c.g.tid) tswz (.group c.gid) c.sp.pc (c.g.cmdseq + 1) with engine := e }
        ∧ SameCopies { s with ecmds := s.ecmds.erase id } { t with ecmds := t.ecmds.erase id } ∧ t.remotes = s.remotes ∧ t.fxs = s.fxs)

/-- A checked remote command joins its die's queue, or its word stalls (R280, R281, R369); `ds` says that its lanes write a
register when they are answered (R283, R284), `acq` that no split of the group then performs a later access until they are
(R144, R268). -/
def RemoteQueued (i : Instr) (s : State) (c : Ctx) (sc : Scope) (k : RemoteCmd) (ds acq : Bool) : Prop :=
  let die := c.g.core / 80
  let n := (s.remotes.keep (fun _ x => x.die == die)).length
  (65535 ≤ c.g.drRm → Stalls i s c (.drainFull 1))
  ∧ (c.g.drRm < 65535 → 256 ≤ n → Stalls i s c (.remoteQueue die))
  ∧ (c.g.drRm < 65535 → n < 256 → s.relReady c.gid c.g sc = false → Stalls i s c (if sc = .system then .ordered else .fifoEmpty))
  ∧ (c.g.drRm < 65535 → n < 256 → HeldRelease i s c sc)
  ∧ (c.g.drRm < 65535 → n < 256 → s.mayRelease c sc →
    ∃ t g' id, exec i s = .next (if acq then t.holdNew s.nextId else t) ∧ Commanded s t c .remote g'
      ∧ g'.pend = c.g.pend ++ (if ds then [⟨id + 1, c.idx, destNames i.uses, false, false, 0, [], none, c.sp.pc, s.tick⟩] else [])
      ∧ t.remotes.find? id = some { k with
          die := die, gid := c.gid, tid := c.g.tid, ctx := c.g.ctx, site := c.sp.pc, seq := c.g.cmdseq + 1
          pend := if ds then some (id + 1) else none }
      ∧ (∀ j, j ≠ id → t.remotes.find? j = s.remotes.find? j) ∧ SameCopies s t ∧ t.engines = s.engines ∧ t.fxs = s.fxs
      ∧ (acq = true → ds = true → (∀ j, s.nextId ≤ j → s.remotes.find? j = none) →
        (t.holdNew s.nextId).grp c.gid = some { g' with
          splits := g'.splits.map (fun x => { x with holdFor := x.holdFor ++ [id + 1] }) }))

/-- A checked start joins the queue of its fabric processor, or its word stalls (R285, R369). -/
def FxQueued (i : Instr) (s : State) (c : Ctx) (p : Nat) (k : FxStart) : Prop :=
  (65535 ≤ c.g.drFx → Stalls i s c (.drainFull 2))
  ∧ (c.g.drFx < 65535 → 16 ≤ (s.fx p).queue.length → Stalls i s c (.fxQueue p))
  ∧ (c.g.drFx < 65535 → (s.fx p).queue.length < 16 → s.relReady c.gid c.g .device = false → Stalls i s c .fifoEmpty)
  ∧ (c.g.drFx < 65535 → (s.fx p).queue.length < 16 → HeldRelease i s c .device)
  ∧ (c.g.drFx < 65535 → (s.fx p).queue.length < 16 → s.mayRelease c .device →
    ∃ t g', exec i s = .next t ∧ Commanded s t c .fabric g' ∧ g'.pend = c.g.pend
      ∧ t.fx p = { s.fx p with queue := (s.fx p).queue ++ [k] } ∧ (∀ q, q ≠ p → t.fx q = s.fx q)
      ∧ SameCopies s t ∧ t.engines = s.engines ∧ t.remotes = s.remotes)

/-- What counts brought is acquired by a group: later reads find those sectors neither in its L1, but for dirty bytes, nor in its
cluster cache; after the count of a fabric program, nothing of its context (R336, R361). -/
def Acquired (t : State) (g : Group) (w : Wrote) : Prop :=
  (∀ x ∈ w.secs, (∀ l ∈ (t.core g.core).lines, l.slot = g.ctx → l.line = x / 4 → l.valid.getLsbD (x % 4) = false)
    ∧ ∀ l ∈ (t.clus (g.core / 16)).lines, l.slot = g.ctx → l.line = x / 4 → l.valid.getLsbD (x % 4) = false)
  ∧ (w.all = true → (∀ l ∈ (t.core g.core).lines, l.slot = g.ctx → l.valid = 0) ∧ ∀ l ∈ (t.clus (g.core / 16)).lines, l.slot ≠ g.ctx)

-- ## Words that change a group's own state or a unit

/-- A group with the registers, pending results, splits and counters of another. -/
def Group.booked (g g' : Group) : Group := { g with
  v := g'.v, s := g'.s, d := g'.d, p := g'.p, flg := g'.flg, splits := g'.splits, pend := g'.pend, runs := g'.runs
  trdly := g'.trdly, readyAt := g'.readyAt, wait := g'.wait }

/-- A word has completed and, besides the bookkeeping of issue, has changed only its own group, `g'` afterwards. -/
structure OnlyOwn (s t : State) (c : Ctx) (g' : Group) : Prop where
  state : t = { s with groups := t.groups, parts := t.parts, mmio := t.mmio, tbufs := t.tbufs, nextId := t.nextId }
  regs : ∀ a, a ≠ trialAddr 0x30 → a ≠ trialAddr 0x38 → t.reg a = s.reg a
  groups : ∀ i, i ≠ c.gid → (t.grp i).map (fun g => { g with wait := 0 }) = (s.grp i).map (fun g => { g with wait := 0 })
  here : t.grp c.gid = some g'
  moved : Moved c (c.sp.pc + 8) g'

/-- The same for a word that releases or acquires: its core's caches may have changed too, and what they held dirty may have
been written back. -/
structure OnlyCaches (s t : State) (c : Ctx) (g' : Group) : Prop where
  state : t = { s with
    groups := t.groups, parts := t.parts, mmio := t.mmio, tbufs := t.tbufs, nextId := t.nextId, cores := t.cores
    clusters := t.clusters, mem := t.mem, burst := t.burst, poison := t.poison, traffic := t.traffic, stale := t.stale
    posts := t.posts, wireOut := t.wireOut, ckpt := t.ckpt, ecmds := t.ecmds }
  copies : SameCopies s t
  regs : ∀ a, a ≠ trialAddr 0x30 → a ≠ trialAddr 0x38 → t.reg a = s.reg a
  groups : ∀ i, i ≠ c.gid → (t.grp i).map (fun g => { g with wait := 0 }) = (s.grp i).map (fun g => { g with wait := 0 })
  here : t.grp c.gid = some g'
  moved : Moved c (c.sp.pc + 8) g'
  kept : HomeKept s t c.g.core

/-- No byte at home differs. -/
def SameHome (s t : State) : Prop := ∀ k a, t.homeByte k a = s.homeByte k a

/-- A word that delivers the oldest pending asynchronous fault of its group, from a state, and does not complete (R410). -/
def Delivers (i : Instr) (s : State) (c : Ctx) (s' : State) : Prop :=
  exec i s = .next ((s'.endRun c.gid c.idx false).deliverPending c.gid c.idx c.sp.pc)

/-- A split sleeps or waits at its word: no register and no byte of home memory that the L1 did not hold dirty has changed
(R41, R370). -/
def Pauses (i : Instr) (s : State) (c : Ctx) (st : SplitSt) : Prop :=
  ∃ t g', exec i s = .next t ∧ t.grp c.gid = some g' ∧ SameRegs c.g g' ∧ g'.pend = c.g.pend ∧ HomeKept s t c.g.core
    ∧ (∃ x, g'.split? c.idx = some x ∧ x.pc = c.sp.pc ∧ x.mask = c.sp.mask ∧ x.st = st)
    ∧ ∀ j, j ≠ c.idx → (g'.split? j).map Split.core = (c.g.split? j).map Split.core

/-- A checked matrix-engine command enters the engine, named for its word, or its word stalls for the group's stores (R252,
R253, R256). -/
def MatrixQueued (i : Instr) (s : State) (c : Ctx) (tm : Team) (op : MatrixOp) : Prop :=
  (c.g.drained = false → Stalls i s c .fifoEmpty)
  ∧ (c.g.drained = true → ∃ t g', exec i s = .next t ∧ OnlyOwn { s with mcmds := t.mcmds } t c g'
    ∧ t.mcmds.find? s.nextId = some ⟨c.g.core, c.g.tid, c.gid, 0, c.sp.pc, c.g.cmdseq + 1, tm.tswz, op⟩
    ∧ (∀ j, j ≠ s.nextId → t.mcmds.find? j = s.mcmds.find? j)
    ∧ SameRegs c.g g' ∧ g'.pend = c.g.pend
    ∧ g' = Group.booked { c.g with cmdseq := c.g.cmdseq + 1, openCmds := c.g.openCmds ++ [s.nextId], openCnt := c.g.openCnt + 1 } g')

-- ## Control words

/-- A run-ending control word has taken effect: the run has ended, the group is `g1` but for its counters and the order of its
splits, and nothing else has changed (R41, R341). -/
structure Turns (s t : State) (c : Ctx) (g1 g' : Group) : Prop where
  state : t = { s with groups := t.groups, parts := t.parts, mmio := t.mmio, tbufs := t.tbufs }
  regs : ∀ a, a ≠ trialAddr 0x30 → a ≠ trialAddr 0x38 → t.reg a = s.reg a
  groups : ∀ i, i ≠ c.gid → (t.grp i).map (fun g => { g with wait := 0 }) = (s.grp i).map (fun g => { g with wait := 0 })
  here : t.grp c.gid = some g'
  own : g' = { g1 with
    splits := g'.splits, runs := g'.runs, trdly := g'.trdly, readyAt := g'.readyAt, wait := g'.wait }
  splits : ∀ i, (g'.split? i).map Split.core = (g1.split? i).map Split.core
/-- A control word leaves its group as `g1`; where every split that is left is asleep, the group then passes a quiescent point
(R370). -/
def Goes (i : Instr) (s : State) (c : Ctx) (g1 : Group) : Prop :=
  ∃ t g', exec i s = .next (t.quiet c.gid) ∧ Turns s t c g1 g'

/-- The rejoin stack needs nothing done: every record stands, none is releasable, and no path is parked while an index is free
(R345 to R347). -/
def Group.stackSettled (g : Group) : Prop :=
  (∀ r ∈ g.stack, r.stands = true ∧ r.releasable = false) ∧ (g.freeIdx = none ∨ ∀ r ∈ g.stack, r.pkmask = 0)

/-- The lanes `p` of the split go to `t`, the others to `o`: with both, the path of the lowest lane continues in the split and
the other takes the lowest free index, or is parked, or, with no room, faults; a new split stands behind the one that divided,
which has gone behind all others (R342, R346, R350). -/
def Divides (i : Instr) (s : State) (c : Ctx) (g : Group) (p : Lanes) (t o : W64) : Prop :=
  let q := c.sp.mask &&& ~~~ p
  let sp := c.sp.closeWins
  let own := p.getLsbD (lowLane c.sp.mask)
  let stay : W64 × Lanes := if own then (t, p) else (o, q)
  let leave : W64 × Lanes := if own then (o, q) else (t, p)
  (p = 0 → g.stackSettled → Goes i s c (g.putSplit { sp with pc := o }))
  ∧ (p ≠ 0 → q = 0 → g.stackSettled → Goes i s c (g.putSplit { sp with pc := t }))
  ∧ (p ≠ 0 → q ≠ 0 → g.stackSettled →
    (∀ k, g.freeIdx = some k → Goes i s c ((g.putSplit { sp with pc := stay.1, mask := stay.2 }).newSplit k leave.1 leave.2)
      ∧ ((g.splits.map (fun x => x.idx)).Nodup → ∃ t g', exec i s = .next t ∧ t.grp c.gid = some g'
        ∧ g'.splits.map (fun x => x.idx) = (g.splits.map (fun x => x.idx)).filter (fun j => j != c.idx) ++ [c.idx, k]))
    ∧ (g.freeIdx = none → ∀ pre r post, g.stack = pre ++ r :: post → r.mask.getLsbD (lowLane stay.2) = true → r.pkmask = 0 →
        (∀ x ∈ pre, x.mask.getLsbD (lowLane stay.2) = true → x.pkmask ≠ 0) → Goes i s c { g.putSplit { sp with pc := stay.1, mask := stay.2 } with
          stack := pre ++ { r with pkpc := leave.1, pkmask := leave.2 } :: post })
    ∧ (g.freeIdx = none → (∀ x ∈ g.stack, x.mask.getLsbD (lowLane stay.2) = true → x.pkmask ≠ 0) → FaultsAt i s c fcOverflow 0 0 0))

/-- The participating lanes branch to a target, the others go on (R26, R350). -/
def Branches (i : Instr) (s : State) (c : Ctx) (g : Group) (t : W64) : Prop :=
  Checks i s c
    [ (c.act ≠ 0 ∧ t.toNat % 8 ≠ 0, fcMisaligned, 0, t, lowLane c.act),
      (c.act ≠ 0 ∧ 2 ^ 52 ≤ t.toNat, fcTranslation, 1, t, lowLane c.act) ]
    (Divides i s c g c.act t (c.sp.pc + 8))

/-- The records of a lane's chain that `BRK` leaves, without the lanes that leave them (R350). -/
def leaveInner (lane : Nat) (m : Lanes) : Nat → List Rec → List Rec
  | 0, rs => rs
  | _ + 1, [] => []
  | n + 1, r :: rs =>
    if r.mask.getLsbD lane then
      let r' : Rec := { r with mask := r.mask &&& ~~~ m, arr := r.arr &&& ~~~ m }
      if r'.stands then r' :: leaveInner lane m n rs else leaveInner lane m n rs
    else r :: leaveInner lane m (n + 1) rs

/-- A split asleep in `SLEEP`. -/
def Split.dozing (x : Split) : Bool := match x.st with
  | .asleep (.sleep _) => true
  | _ => false
/-- A group that `WAKE` names: its sleeping splits continue at the next word, or, with none, its wake bit is set (R355). -/
def Woken (g g' : Group) : Prop :=
  SameRegs g g' ∧ g'.pend = g.pend ∧ g'.wakeBit = !g.splits.any Split.dozing
    ∧ ((g.splits.map (fun x => x.idx)).Nodup → ∀ i x, g.split? i = some x → ∃ x', g'.split? i = some x' ∧ x'.mask = x.mask
      ∧ x'.pc = (if x.dozing then x.pc + 8 else x.pc) ∧ (x.dozing = true → x'.st = .ready))

-- ## Faults taken and delivered (R409 to R414)

/-- No other latch entry lists the group (R250). -/
def State.unlisted (s : State) (g : Group) : Prop :=
  ∀ x ∈ s.groups, x.2.tid = g.tid → x.2.gi ≠ g.gi → ∀ e, x.2.latch = some e → g.gi ∉ gangList e.list

/-- A fault has reached a split of a group: the trap CSRs are written and `HM` is set, the split continues at the vector with
its windows closed and its mask as it was, and registers, flags, memory and every other group are untouched. `q` are the faults
still pending. -/
structure Handles (s t : State) (gid idx : Nat) (g : Group) (m : Lanes) (cause : W32) (f : FInfo) (tpc site : W64) (seq : W32)
    (q : List AFault) (g' : Group) : Prop where
  state : t = { s with groups := t.groups, parts := t.parts, mmio := t.mmio, tbufs := t.tbufs }
  regs : ∀ a, a ≠ trialAddr 0x30 → a ≠ trialAddr 0x38 → t.reg a = s.reg a
  groups : ∀ j, j ≠ gid → (t.grp j).map (fun g => { g with wait := 0 }) = (s.grp j).map (fun g => { g with wait := 0 })
  here : t.grp gid = some g'
  own : g' = { g with
    splits := g'.splits, runs := g'.runs, trdly := g'.trdly, readyAt := g'.readyAt, wait := g'.wait, pendq := q, hm := true
    tcause := cause, tpc := tpc, taddr := f.addr, tdetail := f.detail, tsite := site, tseq := seq
    tlane := BitVec.ofNat 32 (65536 * idx + f.lane) }
  split : ∃ x, g'.split? idx = some x ∧ x.pc = s.trapVec g.ctx ∧ x.mask = m ∧ x.st = .ready ∧ x.wins = []
  others : ∀ i, i ≠ idx → (g'.split? i).map Split.core = (g.split? i).map Split.core

/-- A word that completes and then raises a precise fault of its own (R409, R416): the handler has `TPC` = PC + 8. -/
def TrapsAs (i : Instr) (s : State) (c : Ctx) (code : BitVec 8) (n : BitVec 12) : Prop :=
  c.g.ctx < 64 → s.trapEn c.g.ctx = true → c.g.hm = false → s.fltStop c.g.ctx = false → s.unlisted c.g → c.idx < 4 →
  ∃ t g', exec i s = .next t ∧ Handles s t c.gid c.idx c.g c.sp.mask (code.setWidth 32) ⟨code, n.setWidth 32, 0, 0⟩ (c.sp.pc + 8)
    c.sp.pc c.g.cmdseq c.g.pendq g'

/-- A group stops for the debugger at a split that keeps what it stopped with (R434). -/
def StopsAt (s t : State) (gid idx : Nat) (g : Group) (sp : Split) (f : Option FInfo) (af : Option AFault) : Prop :=
  t = { s with groups := t.groups, parts := t.parts, tbufs := t.tbufs } ∧ (∀ j, j ≠ gid → t.grp j = s.grp j)
    ∧ ∃ g', t.grp gid = some g' ∧ g' = { g with splits := g'.splits, readyAt := none, wait := g'.wait, dbgStop := true }
      ∧ (∃ x, g'.split? idx = some x ∧ x.pc = sp.pc ∧ x.mask = sp.mask ∧ x.st = .waiting (.stopped f af))
      ∧ ∀ i, i ≠ idx → (g'.split? i).map Split.core = (g.split? i).map Split.core

/-- The trap CSRs and the group CSRs of R162 that hold packed fields, as a `CSRR` reads them. -/
def Group.csrList (s : State) (g : Group) (t : Team) (k : Grid) (idx : Nat) : List (Nat × W64) :=
  [ (0x01, BitVec.ofNat 64 g.gi), (0x02, BitVec.ofNat 64 t.idx), (0x03, k.num.setWidth 64),
    (0x04, BitVec.ofNat 64 (g.role + 2 ^ 8 * g.rank)), (0x05, BitVec.ofNat 64 (g.width + 2 ^ 16 * g.budget)),
    (0x06, BitVec.ofNat 64 (idx + 16 * g.splits.length)), (0x07, BitVec.ofNat 64 (g.core + 2 ^ 12 * g.slot + 2 ^ 14 * g.part)),
    (0x08, BitVec.ofNat 64 (g.ctx + 2 ^ 16 * s.ctxAsid g.ctx)), (0x09, BitVec.ofNat 64 k.teamN),
    (0x0A, BitVec.ofNat 64 (t.member + 2 ^ 8 * k.rec_.cset)),
    (0x11, BitVec.ofNat 64 ((if g.mx then 1 else 0) + if g.nf then 2 else 0)), (0x12, g.lsc.setWidth 64),
    (0x13, g.lscn.setWidth 64), (0x14, g.lsci.setWidth 64), (0x20, g.gang.setWidth 64),
    (0x21, BitVec.ofNat 64 (g.nextBatch % 16 + 2 ^ 8 * g.batches.length + 2 ^ 16 * min 65535 g.openCnt)), (0x22, g.cmdseq.setWidth 64),
    (0x2E, t.tswz.setWidth 64), (0x30, g.vcur.setWidth 64), (0x31, BitVec.ofNat 64 g.vpart), (0x40, g.runs.setWidth 64),
    (0x41, g.forced.setWidth 64), (0x42, g.trdly.setWidth 64), (0x50, g.tcause.setWidth 64), (0x51, g.tpc), (0x52, g.taddr),
    (0x53, g.tdetail.setWidth 64), (0x54, g.tsite), (0x55, g.tseq.setWidth 64), (0x56, g.tlane.setWidth 64), (0x57, g.tscr),
    (0x58, BitVec.ofNat 64 ((if g.hm then 1 else 0) + 256 * g.pendq.length)),
    (0x60, BitVec.ofNat 64 (k.prio + 2 ^ 16 * k.queue)), (0x66, g.lbase), (0x67, g.lsize),
    (0x70, BitVec.ofNat 64 (g.drCp + 2 ^ 16 * g.drRm + 2 ^ 32 * g.drFx)),
    (0x71, BitVec.ofNat 64 (s.fallow.get [] g.ctx).length) ]
/-- What a `CSRW` of a group CSR leaves in its group (R212, R411, R417). -/
def Group.csrWrite (g : Group) (n : Nat) (v : W64) : Group :=
  if n = 0x11 then { g with nf := g.nf && !v.getLsbD 1, mx := g.mx && !v.getLsbD 0 }
  else if n = 0x12 then { g with lsc := v.setWidth 32 }
  else if n = 0x13 then { g with lscn := v.setWidth 32 }
  else if n = 0x14 then { g with lsci := v.setWidth 32 }
  else if n = 0x51 then { g with tpc := v }
  else if n = 0x57 then { g with tscr := v }
  else g

end Sys2Proof.Machine
namespace Sys2Proof

/-- The number of words of an instruction (R25, R35). -/
def Instr.words : Instr → Nat
  | .xpr .. => 2
  | _ => 1

end Sys2Proof
namespace Sys2Proof.Machine

-- ## Fabric words (R308 to R323)

/-- Processor p executes a word: its state `x`, its running start `k`. -/
structure FxAt (s : State) (p : Nat) (x : FxSt) (k : FxStart) : Prop where
  cur : s.curFx = some p
  st : s.fx p = x
  run : x.cur = some k

/-- A word of an engine would lead from `s` to `t`: it leads there, but for what has become of its requests, unless a regulator
holds back what it reads and writes; then it has no effect but requests and walks (R99, R101). -/
def Leads (i : Instr) (s t : State) : Prop :=
  exec i s = .next (s.passed t)
    ∧ (s.passes t true → ∃ u, exec i s = .next u ∧ u = { t with posts := u.posts, traffic := u.traffic })
    ∧ (t.traffic = s.traffic → exec i s = .next t)
/-- The word leaves its processor as `x'`, and nothing else of `s1` changed. -/
def FxLeaves (i : Instr) (s1 : State) (s : State) (p : Nat) (x' : FxSt) : Prop :=
  ∃ t, Leads i s t ∧ t = { s1 with fxs := t.fxs } ∧ t.fx p = x' ∧ ∀ q, q ≠ p → t.fx q = s1.fx q
/-- The word goes on to the next one, having written one register (R313). -/
def FxSets (i : Instr) (s1 s : State) (p : Nat) (x : FxSt) (a : FReg) (v : W64) : Prop :=
  ∃ x', FxLeaves i s1 s p x' ∧ x' = { x with f := x'.f, fpc := x.fpc + 8 } ∧ ∀ b, x'.r b = if b = a then v else x.r b
/-- The program ends by a fault of the word, unless a regulator holds back the release of its claim (R323). -/
def FxFaults (i : Instr) (s1 s : State) (p : Nat) (code : BitVec 8) (detail : Nat) (addr : W64) : Prop :=
  exec i s = .next (s.passed (s1.fxFault p code detail addr))
/-- The buffers after bytes are written at `o` (R311). -/
def BufPut (x x' : FxSt) (o : Nat) (bs : List Byte) : Prop :=
  x' = { x with buf := x'.buf } ∧ ∀ j, x'.buf.get 0 j = if o ≤ j ∧ j < o + bs.length then bs.getD (j - o) 0 else x.buf.get 0 j
/-- The word has written bytes into a buffer, and its transfer is in progress: the program goes on after it (R308). -/
def FxFills (i : Instr) (s1 s : State) (p : Nat) (x : FxSt) (o : Nat) (bs : List Byte) : Prop :=
  ∃ x', BufPut x x' o bs ∧ FxLeaves i s1 s p { x' with busy := some (x.fpc + 8) }
/-- A range of `n` bytes at a buffer address lies in one buffer (R311). -/
def InBuf (v : W64) (n : Nat) : Prop := v.toNat < 2 ^ 19 ∧ v.toNat % 2 ^ 16 + n ≤ 2 ^ 16
/-- Two ranges of bytes have none in common. -/
def Apart (a n b m : Nat) : Prop := a + n ≤ b ∨ b + m ≤ a
/-- The FP32 word and the two-byte element at a place of the buffers. -/
def FxSt.word32 (x : FxSt) (o : Nat) : W32 := BitVec.ofNat 32 (natOf (x.bytes o 4))
def FxSt.half (x : FxSt) (o : Nat) : Nat := natOf (x.bytes o 2)
/-- The bytes of an image (R293). -/
def imageBytes (sign : Bool) (bl n : Nat) : Nat := (n + bl - 1) / bl * (2 + Num.ternBytes sign bl)
/-- The code byte and its digit of element i of an image of n elements at `o` (R293). -/
def codePlace (sign : Bool) (bl n o i : Nat) : Nat × Nat :=
  let per := if sign then 8 else 5
  (o + 2 * ((n + bl - 1) / bl) + Num.ternBytes sign bl * (i / bl) + i % bl / per, i % bl % per)
/-- A fabric word reads bytes of memory through its context's translation (R311, R314). -/
def FxReads (s s1 : State) (p : Nat) (k : FxStart) (va : W64) (n : Nat) (bs : List Byte) : Prop :=
  s.rawRead 2 (p / 2) k.slot va.toNat n = (s1, .ok bs)
/-- A fabric word writes bytes of memory. -/
def FxWrites (s s1 : State) (p : Nat) (k : FxStart) (va : Nat) (bs : List Byte) : Prop :=
  s.rawWrite 2 (p / 2) k.slot va bs = (s1, .ok ())
/-- Something of the program goes on the wire, and the word waits until it is answered (R316, R320); the causes of R278. -/
def FxSends (i : Instr) (s : State) (p : Nat) (x : FxSt) (k : FxStart) (ch : W64) (pkt : FxPkt) : Prop :=
  let dev := fld ch 15 0
  (∀ cause, s.peerStop k.slot dev = some cause → FxFaults i s s p fcFabric cause 0)
  ∧ (s.peerStop k.slot dev = none →
    FxLeaves i { s with nextId := s.nextId + 1, fxWires := s.fxWires ++ [⟨p, s.nextId, s.job k.slot, dev, fld ch 19 16, pkt⟩] } s p
      { x with wait := .send s.nextId })

/-- The entry of a handle in its slot's table, where the handle names one (R299, R300). -/
def GlnEntry (s : State) (slot : Nat) (h : W32) (e : Nat) : Prop :=
  let r := s.reg (fxGltabAddr slot)
  fld r 0 0 = 1 ∧ h.toNat % 2 ^ 16 ≠ 0 ∧ h.toNat % 2 ^ 16 ≤ fld r 15 1 ∧ e = fld r 55 16 * 4096 + 32 * (h.toNat % 2 ^ 16 - 1)
/-- A quadword of an entry's bytes. -/
def entryQ (bs : List Byte) (i : Nat) : W64 := BitVec.ofNat 64 (natOf ((bs.drop (8 * i)).take 8))
/-- The checks `0x2` and `0x3` of R301, for a claim that needs `need` slots. -/
def EntryStale (bs : List Byte) (h : W32) : Prop :=
  fld (entryQ bs 1) 48 48 = 0 ∨ fld (entryQ bs 1) 63 51 ≠ 0 ∨ fld (entryQ bs 1) 47 32 ≠ h.toNat / 2 ^ 16
def EntrySmall (bs : List Byte) (need : Nat) : Prop :=
  (entryQ bs 0).toNat % 64 ≠ 0 ∨ 2 ^ 52 ≤ (entryQ bs 0).toNat ∨ fld (entryQ bs 1) 31 0 < need
def EntryBusy (bs : List Byte) : Prop := fld (entryQ bs 1) 49 49 = 1
/-- The claim that an entry gives. -/
def claimOfEntry (h : W32) (e : Nat) (bs : List Byte) (cid : W32) : GClaim := ⟨h, e, entryQ bs 0, fld (entryQ bs 1) 31 0, cid⟩
/-- Bits of an entry's flag byte are set and cleared (R301). -/
def FlagsPut (s t : State) (p slot e : Nat) (on off : Byte) : Prop :=
  ∃ v, s.rawUpd 2 (p / 2) slot (e + 0x0E) 1 (fun b => (b ||| on.setWidth 64) &&& ~~~ off.setWidth 64) = (t, .ok v)

-- ## Trace cores (R430, R431)

/-- A kept record reaches the ring of its die, or is counted as lost where the ring is full; it is not kept while tracing is off,
keeping is frozen or the ring has no size; bytes of the ring without storage are not written (R71, R430, R431). -/
def KeepsRec (s t : State) (die : Nat) (r : TraceRec) : Prop :=
  let ring := s.reg (trcAddr die 0x10)
  let ptr := s.reg (trcAddr die 0x18)
  let size := 2 ^ fld ring 4 0
  let keeps : Prop := fld (s.reg (trcAddr die 0)) 0 0 = 1 ∧ fld (s.reg (trcAddr die 0x20)) 4 4 = 0 ∧ fld ring 4 0 ≠ 0
  let full : Prop := size ≤ (fld ptr 31 0 + 2 ^ 32 - fld ptr 63 32) % 2 ^ 32
  let a := canon (4096 * fld ring 47 12 + 32 * (fld ptr 31 0 % size)) false
  (¬ keeps → SameHome s t ∧ t.mmio = s.mmio)
  ∧ (keeps → full → SameHome s t ∧ t.reg (trcAddr die 0x28) = s.reg (trcAddr die 0x28) + 1
    ∧ ∀ x, x ≠ trcAddr die 0x28 → t.reg x = s.reg x)
  ∧ (keeps → ¬ full → fld (t.reg (trcAddr die 0x18)) 31 0 = (fld ptr 31 0 + 1) % 2 ^ 32
    ∧ fld (t.reg (trcAddr die 0x18)) 63 32 = fld ptr 63 32 ∧ (∀ x, x ≠ trcAddr die 0x18 → t.reg x = s.reg x)
    ∧ (∀ j, j < 32 → s.unbacked (a + j) = false → t.homeByte 0 (a + j) = (quadBytes [r.q0, r.q1, r.q2, r.q3]).getD j 0)
    ∧ (∀ j, j < 32 → s.unbacked (a + j) = true → t.homeByte 0 (a + j) = s.homeByte 0 (a + j))
    ∧ (∀ x, x / 32 ≠ a / 32 → t.homeByte 0 x = s.homeByte 0 x) ∧ ∀ k x, x / 64 ≠ a / 64 → t.homeByte k x = s.homeByte k x)

/-- What a sieve word leaves: the program's own state `t'`, and no other trace core, cluster or register. -/
def SieveLeaves (i : Instr) (s : State) (die : Nat) (t' : State → TraceSt → Prop) : Prop :=
  ∃ t, exec i s = .next t ∧ t = { s with traces := t.traces, mmio := t.mmio } ∧ (∀ e, e ≠ die → t.trc e = s.trc e) ∧ t' t (t.trc die)

/-- What the words of a sieve program read a register as: `k0` reads zero (R431). -/
def TraceSt.key (t : TraceSt) (j : BitVec 3) : W64 := if j = 0 then 0 else t.k.get 0 j.toNat

/-- A branch of a sieve program before word i that passes it. -/
def SievePassed (ws : List W32) (i : Nat) : Prop := ∃ j w k, j < i ∧ ws[j]? = some w ∧ branchOf w = some k ∧ i < j + k
/-- The words that a trace core reads (R432): 64, or up to a `KEEP` or `DROP` that no branch passes. -/
def SieveRead (word : Nat → W32) (ws : List W32) : Prop :=
  ws ≠ [] ∧ ws.length ≤ 64 ∧ (∀ (i : Nat) (w : W32), ws[i]? = some w → w = word i)
  ∧ (∀ (i : Nat) (w : W32), ws[i]? = some w → i + 1 < ws.length → isStop w = true → SievePassed ws i)
  ∧ (ws.length = 64 ∨ ∃ w, ws[ws.length - 1]? = some w ∧ isStop w = true ∧ ¬ SievePassed ws (ws.length - 1))
/-- Word i keeps no program from being accepted (R432): it is a word, its branch goes 1 to 63 words on and not past the last, and
the last is `KEEP` or `DROP`. -/
def SieveGood (ws : List W32) (i : Nat) : Prop := ∃ w, ws[i]? = some w ∧ (decodeSieve w).isSome = true
  ∧ (∀ k, branchOf w = some k → 1 ≤ k ∧ k ≤ 63 ∧ i + k < ws.length) ∧ (i + 1 = ws.length → isStop w = true)

-- ## The reeve (R387 to R391, R406)

/-- A thread takes a packet of the queue that the step names: the queue is enabled, not halted, pending and among those served, the
packet is good and nothing that it waits for is missing; `s1` is the state with the packet taken. -/
structure Takes (s : State) (ty : Nat) (p : Pkt) (s1 : State) : Prop where
  pending : s.observeQueues.qPending s.ev.unit = true
  served : s.observeQueues.mapped s.ev.unit = true
  size : s.observeQueues.qSizeOk s.ev.unit = true
  here : p = s.observeQueues.nextPkt s.ev.unit
  good : s.observeQueues.pktOk p (s.observeQueues.qPriv s.ev.unit) = true
  free : s.observeQueues.takeable p = true
  type : p.ty = ty
  after : s1 = s.observeQueues.take p

/-- The words of the reeve's packets, with the packet type that each takes (R390). -/
def packetRows : List (Instr × Nat) :=
  [(.nopPacket, 0), (.launchPacket, 1), (.feedPacket, 2), (.waitmemPacket, 3), (.writememStore64, 4), (.writememStore32, 4),
   (.writememAdd64, 4), (.linksigPacket, 5), (.linkwaitPacket, 6), (.graphPacket, 7), (.copyPacket, 8), (.collPacket, 9),
   (.vpubPacket, 10), (.ckptPacket, 11), (.ctxctlEnd, 12), (.ctxctlSuspend, 12), (.ctxctlResume, 12)]

/-- Nothing of a slot's own is left but what has started: groups, swapped-out teams, queued commands, programs, messages, phasers,
walks, residuals, regions and troughs (R406). -/
structure Emptied (s t : State) (slot : Nat) : Prop where
  groups : ∀ x ∈ t.groups, x.2.ctx ≠ slot
  kept : ∀ j g, s.grp j = some g → g.ctx ≠ slot → t.grp j = some g
  saved : ∀ x ∈ t.saved, x.2.ctx ≠ slot
  commands : ∀ x ∈ t.ecmds, x.2.ctx = slot → x.2.started = true
  remotes : ∀ x ∈ t.remotes, x.2.ctx = slot → x.2.sent = true
  matrix : ∀ x ∈ t.mcmds, ∀ tm, s.team x.2.tid = some tm → tm.ctx ≠ slot
  programs : ∀ p, p < 16 → (∀ k ∈ (t.fx p).queue, k.slot ≠ slot) ∧ (∀ m ∈ (t.fx p).store, m.slot ≠ slot)
    ∧ ∀ k, (t.fx p).cur = some k → k.slot ≠ slot ∨ (t.fx p).wait = .ending 0x17 0 0
  phasers : ∀ x ∈ t.phasers, x.2.owner ≠ slot
  graces : ∀ x ∈ t.graces, x.2.slot ≠ slot
  walks : ∀ w ∈ t.walks, w.slot ≠ slot
  fallow : t.fallow.get [] slot = [] ∧ t.reg (rrAddr slot 0x18) = 0
  regions : ∀ k, k < 256 → t.vrSlot k = slot → fld (t.reg (vrCfgAddr k)) 32 32 = 0
  troughs : ∀ k, k < 256 → t.trSlot k = slot → t.trEn k = false
  grids : ∀ x ∈ t.grids, x.2.slot = slot → x.2.killed = true

end Sys2Proof.Machine
end

