-- ==== Sys2Proof/Certificates/Slice0/Obligations.lean ====
section
/-! DEFINITION. The statements for the provers. A `Claim` is a part of the obligation that names it. -/

open Sys2Proof Sys2Proof.Machine

-- ## Integer words (12_integer_instructions.md)

/-- R185, R187, R188, R189, R192: moves, sums, differences, products and logic modulo 2^w, at 32 and 64 bits. -/
def Claim.IntegerSums : Prop := ∀ (h : Hdr) (o : I3) (m : I2) (x : I4) (imm : BitVec 16),
  let a (g : Group) (l : Nat) := g.src o.k o.ty.wide o.a l
  let b (g : Group) (l : Nat) := g.src (o.k || o.sb) o.ty.wide o.b l
  RegWord (.mov h m) h .short false m.k m.ty.wide m.d (fun g l => (g.src m.k m.ty.wide m.a l, 0))
  ∧ RegWord (.iaddi h m imm) h .short false m.k m.ty.wide m.d (fun g l => (g.src m.k m.ty.wide m.a l + imm.signExtend 64, 0))
  ∧ RegWord (.iadd h o) h .short false o.k o.ty.wide o.d (fun g l => (a g l + b g l, 0))
  ∧ RegWord (.isub h o) h .short false o.k o.ty.wide o.d (fun g l => (a g l - b g l, 0))
  ∧ RegWord (.imul h o) h .short false o.k o.ty.wide o.d (fun g l => (a g l * b g l, 0))
  ∧ RegWord (.andB h o) h .short false o.k o.ty.wide o.d (fun g l => (a g l &&& b g l, 0))
  ∧ RegWord (.orB h o) h .short false o.k o.ty.wide o.d (fun g l => (a g l ||| b g l, 0))
  ∧ RegWord (.xorB h o) h .short false o.k o.ty.wide o.d (fun g l => (a g l ^^^ b g l, 0))
  ∧ RegWord (.imad h x) h .short false x.k x.ty.wide x.d (fun g l =>
      (g.src x.k x.ty.wide x.a l * g.src (x.k || x.sb) x.ty.wide x.b l + g.src x.k x.ty.wide x.c l, 0))

/-- R189, R191: the high product, the clamped sums with `IOV`, minimum, maximum, absolute value and negation; the least value
of a signed type keeps its value under `IABS` and `INEG` and sets `IOV`. `o.ty.read` is `rd` of R185. -/
def Claim.IntegerOrder : Prop := ∀ (h : Hdr) (o : I3) (m : I2) (sub : Bool),
  let a (g : Group) (l : Nat) := o.ty.read (g.src o.k o.ty.wide o.a l)
  let b (g : Group) (l : Nat) := o.ty.read (g.src (o.k || o.sb) o.ty.wide o.b l)
  let x (g : Group) (l : Nat) := m.ty.read (g.src m.k m.ty.wide m.a l)
  let t (g : Group) (l : Nat) := if sub then a g l - b g l else a g l + b g l
  RegWord (.imulh h o) h .short false o.k o.ty.wide o.d (fun g l => (BitVec.ofInt 64 ((a g l * b g l) / 2 ^ o.ty.bits), 0))
  ∧ RegWord (.isadd h sub o) h .short true o.k o.ty.wide o.d (fun g l =>
      (BitVec.ofInt 64 (max o.ty.least (min o.ty.greatest (t g l))),
        if t g l < o.ty.least ∨ o.ty.greatest < t g l then Num.flIOV else 0))
  ∧ RegWord (.imin h o) h .short false o.k o.ty.wide o.d (fun g l => (BitVec.ofInt 64 (min (a g l) (b g l)), 0))
  ∧ RegWord (.imax h o) h .short false o.k o.ty.wide o.d (fun g l => (BitVec.ofInt 64 (max (a g l) (b g l)), 0))
  ∧ RegWord (.iabs h m) h .short false m.k m.ty.wide m.d (fun g l =>
      if x g l = m.ty.least then (BitVec.ofInt 64 (x g l), Num.flIOV) else (BitVec.ofInt 64 |x g l|, 0))
  ∧ RegWord (.ineg h m) h .short false m.k m.ty.wide m.d (fun g l =>
      if x g l = m.ty.least then (BitVec.ofInt 64 (x g l), Num.flIOV) else (BitVec.ofInt 64 (-(x g l)), 0))

/-- R190: quotient toward zero and remainder of the dividend's sign; a zero divisor gives all ones and the dividend, with
`IDZ`; the least value over -1 gives itself and 0, with `IOV`. Both are long-latency (R44). -/
def Claim.Division : Prop := ∀ (h : Hdr) (o : I3),
  let a (g : Group) (l : Nat) := o.ty.read (g.src o.k o.ty.wide o.a l)
  let b (g : Group) (l : Nat) := o.ty.read (g.src (o.k || o.sb) o.ty.wide o.b l)
  let trap (g : Group) (l : Nat) := o.ty.signed = true ∧ a g l = o.ty.least ∧ b g l = -1
  RegWord (.idiv h o) h .long true o.k o.ty.wide o.d (fun g l =>
      if b g l = 0 then (BitVec.ofInt 64 (-1), Num.flIDZ)
      else if trap g l then (BitVec.ofInt 64 (a g l), Num.flIOV)
      else (BitVec.ofInt 64 ((a g l).tdiv (b g l)), 0))
  ∧ RegWord (.irem h o) h .long true o.k o.ty.wide o.d (fun g l =>
      if b g l = 0 then (BitVec.ofInt 64 (a g l), Num.flIDZ)
      else if trap g l then (0, Num.flIOV)
      else (BitVec.ofInt 64 ((a g l).tmod (b g l)), 0))

/-- R187 to R192: the integer moves, sums, products, clamped sums, orders, logic and divisions, at 32 and 64 bits, with their
flags. -/
def Obligations.IntegerArithmetic : Prop :=
  Claim.IntegerSums ∧ Claim.IntegerOrder ∧ Claim.Division

/-- R193: shifts and rotations of a w-bit operand by an immediate or by all 32 bits of operand B. -/
def Claim.Shifts : Prop := ∀ (h : Hdr) (o : I2) (n : ShAmt) (right : Bool),
  let a (g : Group) (l : Nat) := g.src o.k o.ty.wide o.a l
  let k (g : Group) (l : Nat) := n.amount o.k g l
  RegWord (.shl h o n) h .short false o.k o.ty.wide o.d (fun g l => (a g l <<< k g l, 0))
  ∧ RegWord (.shr h o n) h .short false o.k o.ty.wide o.d (fun g l => (a g l >>> k g l, 0))
  ∧ RegWord (.sar h o n) h .short false o.k o.ty.wide o.d (fun g l =>
      (if o.ty.wide then (a g l).sshiftRight (k g l) else (((a g l).setWidth 32).sshiftRight (k g l)).setWidth 64, 0))
  ∧ RegWord (.rot h right o n) h .short false o.k o.ty.wide o.d (fun g l =>
      (match o.ty.wide, right with
        | true, false => (a g l).rotateLeft (k g l)
        | true, true => (a g l).rotateRight (k g l)
        | false, false => (((a g l).setWidth 32).rotateLeft (k g l)).setWidth 64
        | false, true => (((a g l).setWidth 32).rotateRight (k g l)).setWidth 64, 0))

/-- R192, R194: bit by bit, `LOP3` looks up its table, `BFI` inserts a field; `BFX` takes a field out and extends it by the
operand's sign. -/
def Claim.IntegerBits : Prop := ∀ (h : Hdr) (o : I3) (x : I4) (lut : BitVec 8),
  let xa (g : Group) (l : Nat) := g.src x.k x.ty.wide x.a l
  let xb (g : Group) (l : Nat) := g.src (x.k || x.sb) x.ty.wide x.b l
  let xc (g : Group) (l : Nat) := g.src x.k x.ty.wide x.c l
  let bit (v : W64) (j : Nat) : Nat := (v.getLsbD j).toNat
  (∃ v : Group → Nat → W64, RegWord (.lop3 h lut x) h .short false x.k x.ty.wide x.d (fun g l => (v g l, 0))
    ∧ ∀ g l j, j < x.ty.bits → (v g l).getLsbD j = lut.getLsbD (bit (xa g l) j + 2 * bit (xb g l) j + 4 * bit (xc g l) j))
  ∧ (∃ v : Group → Nat → W64, RegWord (.bfi h x) h .short false x.k x.ty.wide x.d (fun g l => (v g l, 0))
    ∧ ∀ g l j, j < x.ty.bits →
        let pos := ((g.src32 (x.k || x.sb) x.b l).extractLsb' 0 8).toNat
        let len := min ((g.src32 (x.k || x.sb) x.b l).extractLsb' 8 8).toNat x.ty.bits
        (v g l).getLsbD j = if pos ≤ j ∧ j < pos + len then (xa g l).getLsbD (j - pos) else (xc g l).getLsbD j)
  ∧ (∃ v : Group → Nat → W64, RegWord (.bfx h o) h .short false o.k o.ty.wide o.d (fun g l => (v g l, 0))
    ∧ ∀ g l j, j < o.ty.bits →
        let a := g.src o.k o.ty.wide o.a l
        let pos := ((g.src32 (o.k || o.sb) o.b l).extractLsb' 0 8).toNat
        let len := min ((g.src32 (o.k || o.sb) o.b l).extractLsb' 8 8).toNat o.ty.bits
        let ext (k : Nat) : Bool := if k < o.ty.bits then a.getLsbD k else o.ty.signed && a.getLsbD (o.ty.bits - 1)
        (v g l).getLsbD j = if len = 0 then false else if j < len then ext (pos + j) else o.ty.signed && ext (pos + len - 1))

/-- R195: `POPC` writes the number of set bits, `CLZ` the number of zeros above the highest set bit, w for 0, `BREV` the bits in
the other order, of a w-bit operand, at 32 and at 64 bits; no flag is set. -/
def Obligations.BitCounts : Prop := ∀ (h : Hdr) (m : I2),
  let ma (g : Group) (l : Nat) := g.src m.k m.ty.wide m.a l
  RegWord (.popc h m) h .short false m.k m.ty.wide m.d (fun g l =>
      (BitVec.ofNat 64 ((List.range m.ty.bits).countP (fun j => (ma g l).getLsbD j)), 0))
  ∧ (∃ v : Group → Nat → Nat, RegWord (.clz h m) h .short false m.k m.ty.wide m.d (fun g l => (BitVec.ofNat 64 (v g l), 0))
    ∧ ∀ g l, v g l ≤ m.ty.bits ∧ (∀ j, j < v g l → (ma g l).getLsbD (m.ty.bits - 1 - j) = false)
        ∧ (v g l < m.ty.bits → (ma g l).getLsbD (m.ty.bits - 1 - v g l) = true))
  ∧ (∃ v : Group → Nat → W64, RegWord (.brev h m) h .short false m.k m.ty.wide m.d (fun g l => (v g l, 0))
    ∧ ∀ g l j, j < m.ty.bits → (v g l).getLsbD (m.ty.bits - 1 - j) = (ma g l).getLsbD j)

/-- R49, R187, R197, R198: `NOP` writes nothing; `MOVI` in its four forms; `SEL` takes A where the predicate is true and B
elsewhere; `LEA` adds a shifted 32-bit index to a 64-bit base. -/
def Claim.MovesAndAddresses : Prop := ∀ (h : Hdr) (d a b : Reg) (imm : W32) (k sb sx : Bool) (sh : BitVec 3) (ty : ITy) (pc : PReg),
  (∀ s c, Issues s h [] 1 c → ∃ ws, Completes (.nop h) s c 1 .short [] false ws ∧ GivesNothing ws)
  ∧ RegWord (.movi h .vec d imm) h .short false false false d (fun _ _ => (imm.setWidth 64, 0))
  ∧ RegWord (.movi h .sx d imm) h .short false true true d (fun _ _ => (imm.signExtend 64, 0))
  ∧ RegWord (.movi h .zx d imm) h .short false true true d (fun _ _ => (imm.setWidth 64, 0))
  ∧ RegWord (.movi h .hi d imm) h .short false true true d (fun g _ => (imm ++ (g.getS d.toNat).setWidth 32, 0))
  ∧ RegWord (.sel h sb ty d a b pc) h .short false false ty.wide d (fun g l =>
      (if (g.getP pc.toNat).getLsbD l then g.src false ty.wide a l else g.src sb ty.wide b l, 0))
  ∧ RegWord (.lea h k sb sx sh d a b) h .short false k true d (fun g l =>
      (g.src (k || sb) true b l
        + BitVec.ofInt 64 ((if sx then (g.src32 k a l).toInt else ((g.src32 k a l).toNat : Int)) * 2 ^ sh.toNat), 0))

/-- R187, R192 to R194, R197, R198: shifts, bit fields, `LOP3`, `NOP`, `MOVI`, `SEL` and `LEA`. -/
def Obligations.IntegerShiftsAndMoves : Prop :=
  Claim.Shifts ∧ Claim.IntegerBits ∧ Claim.MovesAndAddresses

/-- R196, R206, R235: comparisons into a predicate, combined with another; a predicate from a table of three predicates. The
scalar form compares the scalars, once, for every participating lane. -/
def Claim.Comparisons : Prop := ∀ (h : Hdr) (k sb ftz : Bool) (ty : ITy) (ic : ICmp) (fc : FCmp) (bop : BOp) (pd : PReg)
    (a b : Reg) (pa pb pc : PReg) (lut : BitVec 8),
  let comb (g : Group) (l : Nat) (t : Bool) : Bool :=
    let p := (g.getP pc.toNat).getLsbD l
    match bop with
    | .none => t
    | .and => t && p
    | .or => t || p
    | .xor => xor t p
  PredWord (.icmp h k sb ty ic bop pd a b pc) h .short false pd (fun _ => True) (fun g _ l =>
      let x := ty.read (g.src k ty.wide a l)
      let y := ty.read (g.src (k || sb) ty.wide b l)
      comb g l (match ic with
        | .eq => decide (x = y) | .ne => decide (x ≠ y) | .lt => decide (x < y)
        | .le => decide (x ≤ y) | .gt => decide (x > y) | .ge => decide (x ≥ y)))
  ∧ PredWord (.fcmp h k sb ftz fc bop pd a b pc) h .short false pd (fun _ => True) (fun g _ l =>
      let x := Num.fp32.decode (Num.flushIn Num.fp32 ftz (g.src32 k a l).toNat)
      let y := Num.fp32.decode (Num.flushIn Num.fp32 ftz (g.src32 (k || sb) b l).toNat)
      let un := x.isNan || y.isNan
      comb g l (match fc with
        | .eq => Num.eq x y
        | .ne => !Num.eq x y
        | .lt => Num.lt x y
        | .le => Num.lt x y || Num.eq x y
        | .gt => Num.lt y x
        | .ge => Num.lt y x || Num.eq x y
        | .un => un
        | .num => !un))
  ∧ PredWord (.plop h lut pd pa pb pc) h .short false pd (fun _ => True) (fun g _ l =>
      let p (q : PReg) : Nat := ((g.getP q.toNat).getLsbD l).toNat
      lut.getLsbD (p pa + 2 * p pb + 4 * p pc))

-- ## Floating-point words (13_float_instructions.md)

/-- R202, R203, R208: FP32 sums, products, fused products, quotients and roots: the exact result of the decoded operands,
rounded once in the word's mode, subnormals flushed in and out under `FTZ`, with its flags. -/
def Claim.FloatSums : Prop := ∀ (h : Hdr) (o : F3) (x : F4) (u : F2),
  let a (g : Group) (l : Nat) := (g.src32 o.k o.a l).toNat
  let b (g : Group) (l : Nat) := (g.src32 (o.k || o.sb) o.b l).toNat
  let two (f : Num.XV → Num.XV → Num.XV × Fl) (g : Group) (l : Nat) : W64 × Fl := res32 (Num.op2 Num.fp32 o.rm o.ftz f (a g l) (b g l))
  let three (f : Num.XV → Num.XV → Num.XV → Num.XV × Fl) (g : Group) (l : Nat) : W64 × Fl :=
    res32 (Num.op3 Num.fp32 x.rm x.ftz f (g.src32 x.k x.a l).toNat (g.src32 (x.k || x.sb) x.b l).toNat (g.src32 x.k x.c l).toNat)
  RegWord (.fadd h o) h .short true o.k false o.d (two (Sys2Proof.Num.add (o.rm == .rd)))
  ∧ RegWord (.fsub h o) h .short true o.k false o.d (two (fun v w => Sys2Proof.Num.add (o.rm == .rd) v w.flip))
  ∧ RegWord (.fmul h o) h .short true o.k false o.d (two Sys2Proof.Num.mul)
  ∧ RegWord (.fdiv h o) h .long true o.k false o.d (two Sys2Proof.Num.div)
  ∧ RegWord (.ffma h x) h .short true x.k false x.d (three (Num.fma (x.rm == .rd)))
  ∧ RegWord (.ffms h x) h .short true x.k false x.d (three (fun v w z => Num.fma (x.rm == .rd) v w z.flip))
  ∧ RegWord (.fsqrt h u) h .long true u.k false u.d (fun g l =>
      res32 (Num.op2 Num.fp32 u.rm u.ftz (fun v _ => Num.sqrt v) (g.src32 u.k u.a l).toNat 0))

/-- R204: minimum and maximum number; no flag is set. -/
def Claim.MinimumMaximum : Prop := ∀ (h : Hdr) (k sb ftz : Bool) (d a b : Reg),
  let x (g : Group) (l : Nat) := g.src32 k a l
  let y (g : Group) (l : Nat) := g.src32 (k || sb) b l
  RegWord (.fmin h k sb ftz d a b) h .short true k false d (fun g l =>
      res32 (Num.minmax Num.fp32 false ftz (x g l).toNat (y g l).toNat, 0))
  ∧ RegWord (.fmax h k sb ftz d a b) h .short true k false d (fun g l =>
      res32 (Num.minmax Num.fp32 true ftz (x g l).toNat (y g l).toNat, 0))

/-- R205, R207: `FABS`, `FNEG` and `FSIGN` change only the sign bit, and a NaN operand gives the canonical NaN; `FCLASS` sets one
bit, that of its operand's class; no flag is set. The fourth `SOP` raises `ILLEGAL_OPERAND` at decode. -/
def Obligations.SignsAndClasses : Prop :=
  (∀ w body : W64, w.getLsbD 62 = false → w.extractLsb' 54 8 = 0x2F → w.extractLsb' 0 2 = 3 → decodeIgyan w body = .error .operand)
  ∧ ∀ (h : Hdr) (k sb : Bool) (d a b : Reg) (op : SOp),
  let x (g : Group) (l : Nat) := g.src32 k a l
  let y (g : Group) (l : Nat) := g.src32 (k || sb) b l
  let isNan (v : W32) : Prop := v.extractLsb' 23 8 = 255 ∧ v.extractLsb' 0 23 ≠ 0
  let signed (v : W32) (neg : Bool) : W32 := if isNan v then 0x7FC00000 else BitVec.ofBool neg ++ v.extractLsb' 0 31
  let one (v : W32) : W64 × Fl := (v.setWidth 64, 0)
  RegWord (.fabs h k d a) h .short true k false d (fun g l => one (signed (x g l) false))
  ∧ RegWord (.fneg h k d a) h .short true k false d (fun g l => one (signed (x g l) (!(x g l).msb)))
  ∧ RegWord (.fsign h k sb op d a b) h .short true k false d (fun g l => one (signed (x g l) (match op with
      | .cp => (y g l).msb
      | .neg => !(y g l).msb
      | .xor => xor (x g l).msb (y g l).msb)))
  ∧ RegWord (.fclass h k d a) h .short true k false d (fun g l =>
      let v := x g l
      let e := v.extractLsb' 23 8
      let f := v.extractLsb' 0 23
      one (1#32 <<< (
        if e = 255 ∧ f ≠ 0 then 8
        else if e = 255 then (if v.msb then 0 else 7)
        else if e ≠ 0 then (if v.msb then 1 else 6)
        else if f ≠ 0 then (if v.msb then 2 else 5)
        else if v.msb then 3 else 4)))

/-- R208: `FRND` rounds to an integer, `NX` where the value changes; `FSCALE` multiplies by 2^B, B a signed 32-bit integer,
whatever its size. -/
def Claim.FloatScaling : Prop := ∀ (h : Hdr) (u : F2) (o : F3),
  RegWord (.fscale h o) h .short true o.k false o.d (fun g l =>
      let e := (g.src32 (o.k || o.sb) o.b l).toInt
      res32 (Num.op2 Num.fp32 o.rm o.ftz (fun v _ => (Num.scale2 v e, 0)) (g.src32 o.k o.a l).toNat 0))
  ∧ RegWord (.frnd h u) h .short true u.k false u.d (fun g l =>
      let a := Num.flushIn Num.fp32 u.ftz (g.src32 u.k u.a l).toNat
      match Num.fp32.decode a with
      | .nan => res32 (0x7FC00000, 0)
      | .inf _ => res32 (a, 0)
      | .fin neg n d =>
        let r := Num.roundMag u.rm 0 neg n d
        res32 ((Num.fp32.round .rn 0 (.fin neg r.1 1)).1, if n % d = 0 then 0 else Num.flNX))

/-- R209: two BF16 or two FP16 operations in the halves of a word, each rounded on its own, flags ORed. -/
def Claim.PackedPairs : Prop := ∀ (h : Hdr) (o : F3) (x : F4),
  let a (g : Group) (l : Nat) := g.src32 o.k o.a l
  let b (g : Group) (l : Nat) := g.src32 (o.k || o.sb) o.b l
  let two (f : Nat → Nat → Nat × Fl) (g : Group) (l : Nat) : W64 × Fl :=
    resPair (f (lo16 (a g l)) (lo16 (b g l))) (f (hi16 (a g l)) (hi16 (b g l)))
  let fused (f : Num.Fmt) (g : Group) (l : Nat) : W64 × Fl :=
    let u := g.src32 x.k x.a l
    let v := g.src32 (x.k || x.sb) x.b l
    let w := g.src32 x.k x.c l
    let e := Num.op3 f x.rm x.ftz (Num.fma (x.rm == .rd))
    resPair (e (lo16 u) (lo16 v) (lo16 w)) (e (hi16 u) (hi16 v) (hi16 w))
  RegWord (.badd2 h o) h .short true o.k false o.d (two (Num.op2 Num.bf16 o.rm o.ftz (Sys2Proof.Num.add (o.rm == .rd))))
  ∧ RegWord (.bmul2 h o) h .short true o.k false o.d (two (Num.op2 Num.bf16 o.rm o.ftz Sys2Proof.Num.mul))
  ∧ RegWord (.bfma2 h x) h .short true x.k false x.d (fused Num.bf16)
  ∧ RegWord (.bmin2 h o) h .short true o.k false o.d (two (fun v w => (Num.minmax Num.bf16 false o.ftz v w, 0)))
  ∧ RegWord (.bmax2 h o) h .short true o.k false o.d (two (fun v w => (Num.minmax Num.bf16 true o.ftz v w, 0)))
  ∧ RegWord (.hadd2 h o) h .short true o.k false o.d (two (Num.op2 Num.fp16 o.rm o.ftz (Sys2Proof.Num.add (o.rm == .rd))))
  ∧ RegWord (.hmul2 h o) h .short true o.k false o.d (two (Num.op2 Num.fp16 o.rm o.ftz Sys2Proof.Num.mul))
  ∧ RegWord (.hfma2 h x) h .short true x.k false x.d (fused Num.fp16)

/-- R169, R165: a value that a format holds rounds to its own code, in every mode and with every random word, and no flag is
set. -/
def Claim.RoundExact : Prop := ∀ (f : Num.Fmt) (m : RM) (r : W32) (c : Nat),
  f ∈ [Num.fp32, Num.bf16, Num.fp16, Num.e4m3, Num.e5m2, Num.e2m3, Num.e3m2, Num.e2m1] →
  c < 2 ^ f.bits → (f.decode c).finite = true → f.round m r (f.decode c) = (c, 0)

/-- R202 to R204, R208: FP32 arithmetic, each result rounded once, and rounding itself on the values a format holds. -/
def Obligations.FloatArithmetic : Prop :=
  Claim.FloatSums ∧ Claim.MinimumMaximum ∧ Claim.FloatScaling ∧ Claim.RoundExact

/-- R210: the effect of each token on the stack, top first: `u` is popped as y (or z), `v` as x (or y), `w` as x. The operations
are those of the single instructions of their names, with the flags of their rounding; `neg`, `abs`, `min`, `max` and `relu` set
none. -/
def Claim.ExpressionTokens : Prop := ∀ (x : XprIn) (rm : RM) (ftz : Bool) (u v w : W32) (st : List W32) (fl : Fl),
  let tok (t : Nat) (s : List W32) : List W32 × Fl := xprTok x rm ftz t (s, fl)
  let put (r : Nat × Fl) : List W32 × Fl := (BitVec.ofNat 32 r.1 :: st, fl ||| r.2)
  let f : W32 := BitVec.ofNat 32 (Num.flushIn Num.fp32 ftz u.toNat)
  let isNan : Prop := f.extractLsb' 23 8 = 255 ∧ f.extractLsb' 0 23 ≠ 0
  let least (big : Bool) (a b : W32) : List W32 × Fl := (BitVec.ofNat 32 (Num.minmax Num.fp32 big ftz a.toNat b.toNat) :: st, fl)
  tok 1 st = (x.a :: st, fl) ∧ tok 2 st = (x.b :: st, fl) ∧ tok 3 st = (x.c :: st, fl) ∧ tok 4 st = (x.d :: st, fl)
  ∧ tok 5 st = (0 :: st, fl) ∧ tok 6 st = (0x3F800000 :: st, fl) ∧ tok 7 st = (0x3F000000 :: st, fl) ∧ tok 8 st = (0xBF800000 :: st, fl)
  ∧ tok 9 (u :: st) = (u :: u :: st, fl) ∧ tok 10 (u :: v :: st) = (v :: u :: st, fl)
  ∧ tok 11 (u :: v :: st) = put (Num.op2 Num.fp32 rm ftz (Sys2Proof.Num.add (rm == .rd)) v.toNat u.toNat)
  ∧ tok 12 (u :: v :: st) = put (Num.op2 Num.fp32 rm ftz (fun a b => Sys2Proof.Num.add (rm == .rd) a b.flip) v.toNat u.toNat)
  ∧ tok 13 (u :: v :: st) = put (Num.op2 Num.fp32 rm ftz Sys2Proof.Num.mul v.toNat u.toNat)
  ∧ tok 14 (u :: v :: w :: st) = put (Num.op3 Num.fp32 rm ftz (Num.fma (rm == .rd)) w.toNat v.toNat u.toNat)
  ∧ tok 15 (u :: v :: st) = least false v u ∧ tok 16 (u :: v :: st) = least true v u ∧ tok 19 (u :: st) = least true u 0
  ∧ tok 17 (u :: st) = ((if isNan then 0x7FC00000 else BitVec.ofBool (!f.msb) ++ f.extractLsb' 0 31) :: st, fl)
  ∧ tok 18 (u :: st) = ((if isNan then 0x7FC00000 else 0#1 ++ f.extractLsb' 0 31) :: st, fl)
  ∧ tok 20 (u :: st) = put (Num.op2 Num.fp32 rm ftz Sys2Proof.Num.mul u.toNat u.toNat)

/-- R210, R211: `XPR` takes its tokens up to the first `end` in turn, in each lane, from an empty stack; it takes two words, the
body's `E` ends the run and without it the run goes on; a legal body leaves exactly one value on the stack, which is the
result. -/
def Claim.Expressions : Prop := ∀ (h : Hdr) (o : F4) (bodyE : Bool) (toks : BitVec 60),
  (∀ s c, Issues s { h with e := bodyE } (xprUses o toks) 2 c →
    let val (l : Nat) := xprEval ⟨c.g.getV o.a.toNat l, c.g.src32 o.sb o.b l, c.g.getV o.c.toNat l, c.g.getV o.d.toNat l⟩ o.rm o.ftz toks
    ∃ ws t g', exec (.xpr h o bodyE toks) s = .next t ∧ OnlyRegs s t c 2 g' ∧ Results s c .long (xprUses o toks) (!h.q) ws g'
      ∧ (∀ p, if bodyE then ∀ i, (t.part p).run ≠ some (c.gid, i) else (t.part p).run = (s.part p).run)
      ∧ GivesV ws c.act false o.d.toNat (fun l => (val l).1.setWidth 64) (fun l => if h.q then 0 else (val l).2))
  ∧ (xprLegal o toks = true → ∀ (x : XprIn) (rm : RM) (ftz : Bool),
      ∃ v, (xprProgram toks).foldl (fun st t => xprTok x rm ftz t st) ([], 0) = ([v], (xprEval x rm ftz toks).2)
        ∧ (xprEval x rm ftz toks).1 = v)
  ∧ xprProgram toks = ((List.range 12).map (fun i => (toks.extractLsb' (5 * i) 5).toNat)).takeWhile (fun t => t ≠ 0)

/-- R212, R213, R214: `LSCALE` multiplies or divides by the loss scale, and sets `NF` at issue when an element is not finite. -/
def Claim.LossScale : Prop := ∀ (h : Hdr) (dv bf2 : Bool) (o : F2) (s : State) (c : Ctx),
  Issues s h o.uses 1 c →
    let a (l : Nat) := c.g.getV o.a.toNat l
    let finite (x : W32) : Bool :=
      if bf2 then (Num.bf16.decode (lo16 x)).finite && (Num.bf16.decode (hi16 x)).finite else (Num.dec32 x).finite
    let bad := (laneList c.act).any (fun l => !finite (a l))
    let elem (f : Num.Fmt) (x : Nat) : Nat × Fl :=
      Num.op2 f o.rm o.ftz (fun v _ => if dv then Sys2Proof.Num.div v (Num.dec32 c.g.lsc) else Sys2Proof.Num.mul v (Num.dec32 c.g.lsc)) x 0
    let val (l : Nat) : W64 × Fl := if bf2 then resPair (elem Num.bf16 (lo16 (a l))) (elem Num.bf16 (hi16 (a l)))
      else res32 (elem Num.fp32 (a l).toNat)
    let g0 : Group := { c.g with nf := c.g.nf || bad }
    ∃ t g' ws, exec (.lscale h dv bf2 o) s = .next t
      ∧ OnlyRegs (s.updGrp c.gid (fun g => { g with nf := g.nf || bad })) t { c with g := g0 } 1 g'
      ∧ Results s { c with g := g0 } .long o.uses (!h.q) ws g'
      ∧ GivesV ws c.act false o.d.toNat (fun l => (val l).1) (fun l => if h.q then 0 else (val l).2)

/-- R212, R214: `OVF` acts once, when a lane participates: `.chk` adds the operand's non-finite elements to `NF`, `.step`
halves the loss scale after an overflow, counts a step without one, doubles the scale at the interval, within 2^-24 and 2^24,
and clears `NF` and `MX`; each writes its value to the destination in every participating lane. -/
def Claim.OverflowSteps : Prop := ∀ (h : Hdr) (op : OvfOp) (bf2 : Bool) (d a : Reg) (s : State) (c : Ctx),
  let i : Instr := .ovf h op bf2 d a
  let finite (x : W32) : Bool :=
    if bf2 then (Num.bf16.decode (lo16 x)).finite && (Num.bf16.decode (hi16 x)).finite else (Num.dec32 x).finite
  Issues s h i.uses 1 c → c.act ≠ 0 →
    let lost := c.g.nf || c.g.mx
    let half := Num.scale2 (Num.dec32 c.g.lsc) (-1)
    let twice := Num.scale2 (Num.dec32 c.g.lsc) 1
    let due := !lost && decide (c.g.lsci ≠ 0) && decide (c.g.lsci.toNat ≤ (c.g.lscn + 1).toNat)
    let nf' := match op with
      | .chk => c.g.nf || (laneList c.act).any (fun l => !finite (c.g.getV a.toNat l))
      | .rd => c.g.nf
      | .step => false
    let mx' := match op with
      | .step => false
      | _ => c.g.mx
    let lsc' : W32 := match op with
      | .step =>
        if lost then (if Num.lt half (.fin false 1 (2 ^ 24)) then c.g.lsc else (Num.rnd32 .rn half).1)
        else if due then (if Num.lt (.fin false (2 ^ 24) 1) twice then 0x4B800000 else (Num.rnd32 .rn twice).1)
        else c.g.lsc
      | _ => c.g.lsc
    let lscn' : W32 := match op with
      | .step => if lost || due then 0 else c.g.lscn + 1
      | _ => c.g.lscn
    let v : W32 := match op with
      | .step => if lost then 1 else 0
      | _ => (if nf' then 2 else 0) ||| (if c.g.mx then 1 else 0)
    let f (g : Group) : Group := { g with nf := nf', mx := mx', lsc := lsc', lscn := lscn' }
    ∃ t g' ws, exec i s = .next t
      ∧ OnlyRegs (s.updGrp c.gid f) t { c with g := f c.g } 1 g'
      ∧ Results s { c with g := f c.g } .long i.uses false ws g'
      ∧ GivesV ws c.act false d.toNat (fun _ => v.setWidth 64) (fun _ => 0)

/-- R212 to R214: the loss scale and the overflow state of a group. -/
def Obligations.LossScaling : Prop :=
  Claim.LossScale ∧ Claim.OverflowSteps

/-- R179, R216 to R220: conversions between formats, to and from integers, and stochastic rounding to fewer fraction bits;
another format code raises `OPERAND_FORMAT`. -/
def Claim.Conversions : Prop := ∀ (h : Hdr) (df sf : BitVec 4) (it : BitVec 3) (n : BitVec 5) (o : Cv),
  let src (g : Group) (l : Nat) := g.src32 o.k o.a l
  let rand (g : Group) (l : Nat) : W32 := if o.rm = .rs then g.src32 o.k o.r l else 0
  let elem (g : Group) (l : Nat) : Num.XV := Num.decodeCode sf.toNat false ((src g l).toNat % 2 ^ Num.elemBits sf.toNat)
  let bits := 8 * 2 ^ (it.toNat % 4)
  let signed := decide (it.toNat < 4)
  CvtWord (.cvt h df sf o) h true o.k false o.d (fun _ => df.toNat ≤ 8 ∧ sf.toNat ≤ 8) (fun g _ l =>
      res32 (Num.roundCode df.toNat false o.rm (rand g l) (elem g l)))
  ∧ CvtWord (.cvti h it sf o) h true o.k (o.k || bits == 64) o.d (fun _ => sf.toNat ≤ 2) (fun g _ l =>
      let r := Num.toInt o.rm (rand g l) (if signed then -(2 ^ (bits - 1)) else 0)
        (if signed then 2 ^ (bits - 1) - 1 else 2 ^ bits - 1) (elem g l)
      (BitVec.ofInt 64 r.1, r.2))
  ∧ CvtWord (.cvtf h df it o) h true o.k false o.d (fun _ => df.toNat ≤ 2) (fun g _ l =>
      let x : Nat := (g.src o.k (bits == 64) o.a l).toNat % 2 ^ bits
      let v : Int := if signed = true ∧ 2 ^ (bits - 1) ≤ x then (x : Int) - 2 ^ bits else (x : Int)
      res32 (Num.roundCode df.toNat false o.rm (rand g l) (.fin (decide (v < 0)) v.natAbs 1)))
  ∧ CvtWord (.srnd h n o) h true o.k false o.d (fun _ => True) (fun g _ l =>
      let v := Num.dec32 (src g l)
      let r := (Num.fpN n.toNat).round o.rm (rand g l) v
      if v.isNan then res32 (0x7FC00000, 0) else res32 (r.1 * 2 ^ (23 - n.toNat), r.2))

/-- R178, R221 to R223: block quantisation over 16 or 32 neighbouring lanes, an absent lane counting as zero; block
dequantisation; one element packed into a register or unpacked from one. -/
def Claim.BlockConversions : Prop := ∀ (h : Hdr) (f : BitVec 4) (bl32 sb : Bool) (rm : RM) (pos : BitVec 3) (d a b r : Reg),
  let rand (g : Group) (l : Nat) : W32 := if rm = .rs then g.getV r.toNat l else 0
  let bl := if bl32 then 32 else 16
  let k := Num.elemBits f.toNat
  let packs := f.toNat ∈ [1, 2, 3, 4, 5, 8, 9, 10]
  CvtWord (.qblk h f bl32 rm d a r) h true false true d
      (fun g => f.toNat ∈ [3, 4, 5, 6, 7, 8, 9, 10] ∧ (f = 5 ∨ bl32 = true) ∧ bl ≤ g.width) (fun g act l =>
      let x (j : Nat) : Num.XV := if act.getLsbD j then Num.dec32 (g.getV a.toNat j) else .fin false 0 1
      let scale := Num.blockScale f.toNat ((List.range bl).map (fun j => x (l / bl * bl + j)))
      let e := Num.blockElem f.toNat scale rm (rand g l) (x l)
      (BitVec.ofNat 32 scale ++ BitVec.ofNat 32 e.1, e.2))
  ∧ CvtWord (.dqblk h f sb rm d a b) h true false false d (fun _ => f.toNat ∈ [3, 4, 5, 6, 7, 8, 9, 10]) (fun g _ l =>
      let v := Num.decodeCode f.toNat true ((g.getV a.toNat l).toNat % 2 ^ k)
      res32 (Num.fp32.round rm 0 (Num.scaled ((g.src32 sb b l).toNat % 256) v)))
  ∧ CvtWord (.pack h f pos sb rm d a b r) h true false false d (fun _ => packs) (fun g _ l =>
      let e := Num.roundCode f.toNat false rm (rand g l) (Num.dec32 (g.src32 sb b l))
      let m : W32 := BitVec.ofNat 32 ((2 ^ k - 1) * 2 ^ (k * pos.toNat))
      (((g.getV a.toNat l &&& ~~~ m) ||| (BitVec.ofNat 32 (e.1 * 2 ^ (k * pos.toNat)) &&& m)).setWidth 64, e.2))
  ∧ CvtWord (.unpack h f pos d a) h false false false d (fun _ => packs) (fun g _ l =>
      let c := (g.getV a.toNat l).toNat / 2 ^ (k * pos.toNat) % 2 ^ k
      res32 ((Num.fp32.round .rn 0 (Num.decodeCode f.toNat false c)).1, 0))

/-- R181, R183, R239, R240: ternary and sign codes of a block of lanes with their BF16 scale, and their values; a group
narrower than the block raises `OPERAND_FORMAT`, a ternary byte above 242 reads as code 0 with `NV`. -/
def Claim.TernaryCodes : Prop := ∀ (h : Hdr) (sign sb : Bool) (n : BlkLen) (pos : BitVec 3) (d a b : Reg),
  (∀ s c, Issues s h (Instr.tqnt h sign n d a).uses 1 c →
    let k := BlkLen.n n
    let val (l : Nat) : W64 × Fl :=
      let xs := (List.range k).map (fun j => if c.act.getLsbD (l / k * k + j) then c.g.getV a.toNat (l / k * k + j) else 0)
      let sc := Num.ternScale xs
      let code := Num.ternCode sign sc (c.g.getV a.toNat l)
      (BitVec.ofNat 32 (sc + (code + 1).toNat * 65536) ++ Num.ternValue sc code, 0)
    (k ≤ c.g.width → ∃ ws, Completes (.tqnt h sign n d a) s c 1 .long (Instr.tqnt h sign n d a).uses false ws
      ∧ GivesV ws c.act true d.toNat (fun l => (val l).1) (fun _ => 0))
    ∧ (c.g.width < k → FaultsAt (.tqnt h sign n d a) s c fcFormat 0 0 0))
  ∧ RegWord (.tdq h sign pos sb d a b) h .long true false false d (fun g l =>
      let sc := (g.src32 sb b l).toNat % 65536
      let byte := (g.getV a.toNat l).toNat % 256
      if sign then ((Num.ternValue sc (if byte.testBit pos.toNat then -1 else 1)).setWidth 64, 0)
      else if 243 ≤ byte then ((Num.ternValue sc 0).setWidth 64, Num.flNV)
      else ((Num.ternValue sc (((byte / 3 ^ pos.toNat % 3 : Nat) : Int) - 1)).setWidth 64, 0))

/-- R178, R179, R181, R183, R216 to R223, R239, R240: conversions, block formats, ternary and sign codes. -/
def Obligations.FormatConversions : Prop :=
  Claim.Conversions ∧ Claim.BlockConversions ∧ Claim.TernaryCodes

/-- R224: the special functions write, in every participating lane, a value that the bounds of the table allow (which one is
free, log 7). -/
def Claim.SpecialFunctions : Prop := ∀ (h : Hdr) (ftz : Bool) (d a : Reg),
  let fn (f : Num.SFn) (g : Group) (l : Nat) : W64 × Fl :=
    ((f.eval ftz (g.getV a.toNat l)).1.setWidth 64, (f.eval ftz (g.getV a.toNat l)).2)
  RegWord (.rcp h ftz d a) h .long true false false d (fn .rcp)
  ∧ RegWord (.rsq h ftz d a) h .long true false false d (fn .rsq)
  ∧ RegWord (.ex2 h ftz d a) h .long true false false d (fn .ex2)
  ∧ RegWord (.lg2 h ftz d a) h .long true false false d (fn .lg2)
  ∧ RegWord (.sin h ftz d a) h .long true false false d (fn .sin)
  ∧ RegWord (.cos h ftz d a) h .long true false false d (fn .cos)
  ∧ RegWord (.tanh h ftz d a) h .long true false false d (fn .tanh)
  ∧ RegWord (.erf h ftz d a) h .long true false false d (fn .erf)

/-- R224: a NaN gives the canonical NaN with no flag, zeros and infinities give the values and flags of the table, a negative
argument of `RSQ` or `LG2` gives NaN with `NV`, and a finite argument of no special or exact case sets `NX` (or is flushed). -/
def Claim.SpecialCases : Prop := ∀ (ftz : Bool) (a : W32),
  let isNan (v : W32) : Prop := v.extractLsb' 23 8 = 255 ∧ v.extractLsb' 0 23 ≠ 0
  (∀ f : Num.SFn, isNan a → f.eval ftz a = (0x7FC00000, 0))
  ∧ Num.SFn.rcp.eval ftz 0 = (0x7F800000, Num.flDZ) ∧ Num.SFn.rcp.eval ftz 0x80000000 = (0xFF800000, Num.flDZ)
  ∧ Num.SFn.rcp.eval ftz 0x7F800000 = (0, 0) ∧ Num.SFn.rcp.eval ftz 0xFF800000 = (0x80000000, 0)
  ∧ Num.SFn.rsq.eval ftz 0 = (0x7F800000, Num.flDZ) ∧ Num.SFn.rsq.eval ftz 0x80000000 = (0xFF800000, Num.flDZ)
  ∧ Num.SFn.rsq.eval ftz 0x7F800000 = (0, 0)
  ∧ Num.SFn.ex2.eval ftz 0xFF800000 = (0, 0) ∧ Num.SFn.ex2.eval ftz 0x7F800000 = (0x7F800000, 0)
  ∧ Num.SFn.lg2.eval ftz 0 = (0xFF800000, Num.flDZ) ∧ Num.SFn.lg2.eval ftz 0x80000000 = (0xFF800000, Num.flDZ)
  ∧ Num.SFn.lg2.eval ftz 0x7F800000 = (0x7F800000, 0)
  ∧ (∀ f : Num.SFn, f = .sin ∨ f = .tanh ∨ f = .erf → f.eval ftz 0 = (0, 0) ∧ f.eval ftz 0x80000000 = (0x80000000, 0))
  ∧ (∀ f : Num.SFn, f = .sin ∨ f = .cos → f.eval ftz 0x7F800000 = (0x7FC00000, Num.flNV) ∧ f.eval ftz 0xFF800000 = (0x7FC00000, Num.flNV))
  ∧ Num.SFn.cos.eval ftz 0 = (0x3F800000, 0) ∧ Num.SFn.cos.eval ftz 0x80000000 = (0x3F800000, 0)
  ∧ (∀ f : Num.SFn, f = .tanh ∨ f = .erf → f.eval ftz 0x7F800000 = (0x3F800000, 0) ∧ f.eval ftz 0xFF800000 = (0xBF800000, 0))
  ∧ (∀ f : Num.SFn, f = .rsq ∨ f = .lg2 → a.msb = true → ¬ isNan a → a.extractLsb' 23 8 ≠ 0 → f.eval ftz a = (0x7FC00000, Num.flNV))
  ∧ (∀ (f : Num.SFn) (neg : Bool) (n d : Nat), Num.fp32.decode (Num.flushIn Num.fp32 ftz a.toNat) = .fin neg n d → n ≠ 0 →
      f.exact neg n d = false → ¬ ((f = .rsq ∨ f = .lg2) ∧ neg = true) → (f.eval ftz a).2 &&& Num.flNX = Num.flNX)

/-- R224: the results that the table lists as exact set no flag: 2^-k for `RCP` of 2^k, 2^-k for `RSQ` of 4^k, 2^m for `EX2` of
an integer m of -149 to 127, and k for `LG2` of 2^k; `TANH` from 9.1 and `ERF` from 3.92 up are ±1 with `NX`. -/
def Claim.SpecialExact : Prop := ∀ (ftz : Bool) (a : W32),
  let code (s : Bool) (e : Nat) : W32 := BitVec.ofBool s ++ BitVec.ofNat 8 e ++ 0#23
  (∀ s e, 1 ≤ e → e ≤ 253 → Num.SFn.rcp.eval ftz (code s e) = (code s (254 - e), 0))
  ∧ (∀ s, Num.SFn.rcp.eval false (code s 254) = (code s 0 ||| 0x00400000, 0)
      ∧ Num.SFn.rcp.eval false (code s 0 ||| 0x00400000) = (code s 254, 0))
  ∧ (∀ e, e % 2 = 1 → e ≤ 253 → Num.SFn.rsq.eval ftz (code false e) = (code false ((381 - e) / 2), 0))
  ∧ (∀ k : Nat, k < 23 → k % 2 = 1 → Num.SFn.rsq.eval false (1#32 <<< k) = (code false (127 + (149 - k) / 2), 0))
  ∧ (∀ (m : Int) (neg : Bool) (n d : Nat), Num.fp32.decode a.toNat = .fin neg n d → (if neg then -(n : Int) else n) = m * d →
      (-126 ≤ m → m ≤ 127 → Num.SFn.ex2.eval ftz a = (code false (m + 127).toNat, 0))
      ∧ (-149 ≤ m → m < -126 → Num.SFn.ex2.eval false a = (1#32 <<< (m + 149).toNat, 0)))
  ∧ (∀ e, 1 ≤ e → e ≤ 254 → (Num.SFn.lg2.eval ftz (code false e)).2 = 0
      ∧ ∃ neg n d, Num.dec32 (Num.SFn.lg2.eval ftz (code false e)).1 = .fin neg n d ∧ 0 < d
        ∧ (if neg then -(n : Int) else n) = ((e : Int) - 127) * d)
  ∧ (∀ k : Nat, k < 23 → (Num.SFn.lg2.eval false (1#32 <<< k)).2 = 0
      ∧ ∃ neg n d, Num.dec32 (Num.SFn.lg2.eval false (1#32 <<< k)).1 = .fin neg n d ∧ 0 < d
        ∧ (if neg then -(n : Int) else n) = ((k : Int) - 149) * d)
  ∧ (∀ (neg : Bool) (n d : Nat), Num.fp32.decode (Num.flushIn Num.fp32 ftz a.toNat) = .fin neg n d →
      (91 * d ≤ 10 * n → Num.SFn.tanh.eval ftz a = (code neg 127, Num.flNX))
      ∧ (392 * d ≤ 100 * n → Num.SFn.erf.eval ftz a = (code neg 127, Num.flNX)))

/-- R224: at every other finite argument the result is the FP32 value nearest the function's, or one within the bound of the
table: one unit in the last place of that nearest value for `RCP`, two for `RSQ`, `EX2`, `LG2`, `TANH` and `ERF`, 2^-22 for `SIN`,
`COS` and, from 0.5 to 2, `LG2`; it sets `NX`, and `UF` where it is tiny; a value past the greatest finite one gives infinity with
`OF`. Which value the bound allows is free, and the function's value is the model's fixed-point sum of its series (log 7), for
`RCP` the quotient itself. -/
def Claim.SpecialBounds : Prop := ∀ (f : Num.SFn) (ftz neg : Bool) (a : W32) (n d : Nat),
  Num.fp32.decode (Num.flushIn Num.fp32 ftz a.toNat) = .fin neg n d → n ≠ 0 → f.exact neg n d = false →
  ¬ ((f = .rsq ∨ f = .lg2) ∧ neg = true) → ¬ (f = .tanh ∧ 91 * d ≤ 10 * n) → ¬ (f = .erf ∧ 392 * d ≤ 100 * n) →
    let v := f.value neg n d
    let nearest := (Num.fp32.round .rn 0 v).1
    let ulp := Num.ulpOf nearest
    let bound : Num.XV := match f with
      | .rcp => ulp
      | .sin => .fin false 1 (2 ^ 22)
      | .cos => .fin false 1 (2 ^ 22)
      | .lg2 => if d ≤ 2 * n ∧ n ≤ 2 * d then .fin false 1 (2 ^ 22) else Num.scale2 ulp 1
      | _ => Num.scale2 ulp 1
    (f = .rcp → v = .fin neg d n)
    ∧ (Num.fp32.maxCode < nearest % 2 ^ 31 → f.eval ftz a = (BitVec.ofNat 32 nearest, Num.flOF ||| Num.flNX))
    ∧ (nearest % 2 ^ 31 ≤ Num.fp32.maxCode → ∃ c : Nat,
      (c = nearest ∨ (Num.dec32 (BitVec.ofNat 32 c)).finite = true ∧ Num.near (Num.dec32 (BitVec.ofNat 32 c)) v bound = true)
      ∧ f.eval ftz a =
        let o := Num.flushOut Num.fp32 ftz (c, Num.flNX ||| (if c % 2 ^ 31 < 2 ^ 23 then Num.flUF else 0))
        (BitVec.ofNat 32 o.1, o.2))

/-- R224: the special functions, whose values inside the bounds are free (log 7), with their exact and their special cases. -/
def Obligations.SpecialFunctionWords : Prop :=
  Claim.SpecialFunctions ∧ Claim.SpecialCases ∧ Claim.SpecialExact ∧ Claim.SpecialBounds

-- ## Cross-lane words, random words, pair words (14_cross_lane_random.md, 02_instruction_words.md)

/-- R228, R229: `SHFL` and `BCAST` take a value from a lane of the sub-group, a lane that does not participate giving the lane's
own; `RDLANE` reads any lane into a scalar register, `WRLANE` writes one participating lane. -/
def Claim.Shuffles : Prop := ∀ (h : Hdr) (mode : ShflMode) (w64 : Bool) (sg : BitVec 3) (sb : Bool) (n : BitVec 6)
    (d a b : Reg) (sd sa s2 : SReg),
  let size (g : Group) : Nat := if sg = 0 then g.width else 2 ^ sg.toNat
  let take (g : Group) (act : Lanes) (l j : Nat) : W64 × Fl :=
    let t := l / size g * size g + j
    (g.src false w64 a (if act.getLsbD t then t else l), 0)
  SetWord (.shfl h mode w64 sg sb d a b) h false w64 d (fun g => size g ≤ g.width) (fun g act l =>
      let k := (g.src32 sb b l).toNat
      let j := l % size g
      take g act l (match mode with
        | .from_ => k % size g
        | .rot => (j + k) % size g
        | .mir => (((k : Int) - j) % (size g : Int)).toNat
        | .xor => (j ^^^ k) % size g))
  ∧ SetWord (.bcast h w64 sg n d a) h false w64 d (fun g => size g ≤ g.width) (fun g act l => take g act l (n.toNat % size g))
  ∧ (∀ s c, Issues s h (Instr.rdlane h w64 sd a s2).uses 1 c → ∃ ws,
      Completes (.rdlane h w64 sd a s2) s c 1 .long (Instr.rdlane h w64 sd a s2).uses false ws
        ∧ GivesS ws c.act true sd.toNat (c.g.src false w64 a ((c.g.getS s2.toNat).toNat % c.g.width)) 0)
  ∧ (∀ s c, Issues s h (Instr.wrlane h w64 d sa s2).uses 1 c → ∃ ws,
      Completes (.wrlane h w64 d sa s2) s c 1 .long (Instr.wrlane h w64 d sa s2).uses false ws
        ∧ GivesV ws (c.act &&& laneBit ((c.g.getS s2.toNat).toNat % c.g.width)) w64 d.toNat (fun _ => c.g.getS sa.toNat) (fun _ => 0))

/-- R230, R231, R232: votes over the participating lanes of each lane's set, the mask of the whole split, the mask of the
lanes that hold the same value, and the election of the lowest lane. A set too wide for the group is `ILLEGAL_OPERAND`. -/
def Claim.Votes : Prop := ∀ (h : Hdr) (neg w64 : Bool) (pa pd : PReg) (op : VoteOp) (ls : LaneSet) (sg : BitVec 3) (sd : SReg) (d a : Reg),
  let p (g : Group) (m : Nat) : Bool := xor ((g.getP pa.toNat).getLsbD m) neg
  PredWord (.vote h neg pa (.set op pd ls)) h .long false pd (LaneSet.fits ls) (fun g act l =>
      let ps := (LaneSet.present ls g act l).map (p g)
      match op with
      | .every => !ps.contains false
      | .some_ => ps.contains true
      | .same => !(ps.contains false && ps.contains true))
  ∧ (∀ s c, s.ctx? h = some c → ¬ LaneSet.fits ls c.g → FaultsAt (.vote h neg pa (.set op pd ls)) s c fcOperand 0 0 0)
  ∧ (∀ s c, Issues s h (Instr.vote h neg pa (.bits sd)).uses 1 c → ∃ ws,
      Completes (.vote h neg pa (.bits sd)) s c 1 .long (Instr.vote h neg pa (.bits sd)).uses false ws
        ∧ ∃ v : W64, (∀ m, m < 64 → v.getLsbD m = (c.act.getLsbD m && p c.g m)) ∧ GivesS ws c.act true sd.toNat v 0)
  ∧ (∃ v : Group → Lanes → Nat → W64, SetWord (.mtch h w64 sg d a) h false true d (LaneSet.fits (.sub sg)) (fun g act l => (v g act l, 0))
      ∧ ∀ g act l m, m < 64 → (v g act l).getLsbD m
          = (act.getLsbD m && LaneSet.has (.sub sg) g l m && decide (g.src false w64 a m = g.src false w64 a l)))
  ∧ PredWord (.elect h pd ls) h .long false pd (LaneSet.fits ls) (fun g act l => (LaneSet.present ls g act l).head? == some l)
  ∧ (∀ s c, s.ctx? h = some c → ¬ LaneSet.fits ls c.g → FaultsAt (.elect h pd ls) s c fcOperand 0 0 0)

/-- R233, R234: integer reductions and scans over the participating lanes of each set, with the identity for an empty one;
FP32 reductions and scans in the fixed tree over positions, each lane with the flags of its own evaluation. -/
def Obligations.Reductions : Prop := ∀ (h : Hdr) (op : RedOp) (fop : FRedOp) (rm : RM) (ftz excl : Bool) (ls : LaneSet) (d a : Reg),
  let unit : W32 := match op with
    | .add => 0
    | .or => 0
    | .xor => 0
    | .maxz => 0
    | .and => 0xFFFFFFFF
    | .minz => 0xFFFFFFFF
    | .mins => 0x7FFFFFFF
    | .maxs => 0x80000000
  let two (x y : W32) : W32 := match op with
    | .add => x + y
    | .and => x &&& y
    | .or => x ||| y
    | .xor => x ^^^ y
    | .mins => if y.slt x then y else x
    | .maxs => if x.slt y then y else x
    | .minz => if y.ult x then y else x
    | .maxz => if x.ult y then y else x
  let all (g : Group) (ms : List Nat) : W64 × Fl := ((ms.foldl (fun r m => two r (g.getV a.toNat m)) unit).setWidth 64, 0)
  SetWord (.redux h op ls d a) h false false d (LaneSet.fits ls) (fun g act l => all g (LaneSet.present ls g act l))
  ∧ SetWord (.scan h op excl ls d a) h false false d (LaneSet.fits ls) (fun g act l => all g (LaneSet.before ls g act excl l))
  ∧ SetWord (.fredux h fop rm ftz ls d a) h true false d (LaneSet.fits ls) (fun g act l =>
      treeValue fop rm ftz ls g a (LaneSet.present ls g act l))
  ∧ SetWord (.fscan h fop rm ftz excl ls d a) h true false d (LaneSet.fits ls) (fun g act l =>
      treeValue fop rm ftz ls g a (LaneSet.before ls g act excl l))

/-- R235: `PMOV` moves the predicates of a mask to a vector register, bit 7 set, or back. -/
def Claim.PredicateMoves : Prop := ∀ (h : Hdr) (d a : Reg) (mask : BitVec 7),
  (∃ v : Group → Nat → W32, RegWord (.pmovTov h d mask) h .short false false false d (fun g l => ((v g l).setWidth 64, 0))
    ∧ ∀ g l j, j < 32 → (v g l).getLsbD j = if j < 7 then mask.getLsbD j && (g.getP j).getLsbD l else j == 7)
  ∧ (∀ s c, Issues s h (Instr.pmovTop h a mask).uses 1 c → ∃ ws,
      Completes (.pmovTop h a mask) s c 1 .short (Instr.pmovTop h a mask).uses false ws ∧ ∀ g : Group,
        (∀ n l, l < 64 → ((g.writes ws).getP n).getLsbD l =
          if c.act.getLsbD l = true ∧ n < 7 ∧ mask.getLsbD n = true then (c.g.getV a.toNat l).getLsbD n else (g.getP n).getLsbD l)
        ∧ (∀ n l, l < 64 → (g.writes ws).getV n l = g.getV n l) ∧ (∀ n, (g.writes ws).getS n = g.getS n)
        ∧ (∀ n, (g.writes ws).getD n = g.getD n) ∧ ∀ l, l < 64 → (g.writes ws).getFlg l = g.getFlg l)

/-- R196, R206, R235: the words that write predicates, and the moves between predicates and vector registers. -/
def Obligations.Predicates : Prop :=
  Claim.Comparisons ∧ Claim.PredicateMoves

/-- R236, R237, R238: `RNG` writes the keyed hash of a counter; `DROP` keeps an element whose hash reaches the threshold and
writes +0 elsewhere, and reserved threshold bits raise `ILLEGAL_OPERAND` when a lane participates. That `sb` makes B a scalar pair is the model's
reading (log 6). -/
def Claim.RandomWords : Prop := ∀ (h : Hdr) (k w64 sb : Bool) (d a b : Reg) (sk sc : SReg),
  let round (key x : W64) (i : Nat) : W64 :=
    let y := (x ^^^ key) * 0x8D3A5C6F1E47B2A9
    y ^^^ (y >>> (23 + 4 * i))
  let hash (key ctr : W64) : W64 := round key (round key (round key (round key ctr 0) 1) 2) 3
  RegWord (.rng h k w64 d a sk) h .long false k w64 d (fun g l => (hash (g.getS sk.toNat) (g.src k true a l), 0))
  ∧ ∀ s c, Issues s h (Instr.drop h sb d a b sc).uses 1 c →
      let p := c.g.getS (sc.toNat + 1)
      ((c.act = 0 ∨ p.extractLsb' 48 16 = 0) → ∃ ws,
        Completes (.drop h sb d a b sc) s c 1 .long (Instr.drop h sb d a b sc).uses false ws
          ∧ GivesV ws c.act false d.toNat (fun l =>
              let x := hash (c.g.getS sc.toNat) (p.extractLsb' 24 24 ++ (c.g.src sb true b l).extractLsb' 0 40)
              if p.extractLsb' 0 24 ≤ x.extractLsb' 8 24 then (c.g.getV a.toNat l).setWidth 64 else 0) (fun _ => 0))
      ∧ (c.act ≠ 0 → p.extractLsb' 48 16 ≠ 0 → FaultsAt (.drop h sb d a b sc) s c fcOperand 0 0 0)

/-- R228 to R232, R236 to R238: the words that move values between lanes, vote, elect, and make random words. -/
def Obligations.LaneWords : Prop :=
  Claim.Shuffles ∧ Claim.Votes ∧ Claim.RandomWords

/-- R36, R37, R39: each half of a pair word has the effect of its single word with default modifiers, on registers read
before either half writes. -/
def Claim.PairWords : Prop :=
  (∀ (h : Hdr) (op : BitVec 7) (d a b : Reg) (i : Instr) (flg : Bool), halfSingle h op d a b = some (i, flg) →
    RegWord i h .short flg false false d (fun g l =>
      let r := halfValue op (g.getV a.toNat l) (g.getV b.toNat l) (g.getV d.toNat l)
      (r.1.setWidth 64, r.2)))
  ∧ ∀ (e pn : Bool) (pg : PReg) (h0 h1 : Half) (s : State) (c : Ctx),
    let us := h0.uses ++ h1.uses
    Issues s ⟨e, pg, pn, false, 0⟩ us 1 c →
      let r (x : Half) (l : Nat) := halfValue x.op (c.g.getV x.a.toNat l) (c.g.getV x.b.toNat l) (c.g.getV x.d.toNat l)
      ∃ ws, Completes (.pairWord e pg pn h0 h1) s c 1 .short us false ws ∧ ∀ g : Group,
        (∀ n l, l < 64 → (g.writes ws).getV n l =
          if c.act.getLsbD l = true ∧ n = h1.d.toNat then (r h1 l).1
          else if c.act.getLsbD l = true ∧ n = h0.d.toNat then (r h0 l).1 else g.getV n l)
        ∧ (∀ l, l < 64 → (g.writes ws).getFlg l =
          if c.act.getLsbD l = true then g.getFlg l ||| (if h0.q then 0 else (r h0 l).2) ||| (if h1.q then 0 else (r h1 l).2)
          else g.getFlg l)
        ∧ (∀ n, (g.writes ws).getS n = g.getS n) ∧ (∀ n, (g.writes ws).getD n = g.getD n)
        ∧ ∀ n l, l < 64 → ((g.writes ws).getP n).getLsbD l = (g.getP n).getLsbD l

/-- R36 to R39, R209 to R211: packed halves, fused expressions and pair words. -/
def Obligations.PackedWords : Prop :=
  Claim.PackedPairs ∧ Claim.Expressions ∧ Claim.ExpressionTokens ∧ Claim.PairWords

-- ## Loads and stores (09_load_store.md, 08_core_sram.md)

/-- R139: the registers that a load of each access type writes from its bytes, lowest address first. -/
def Claim.AccessTypes : Prop := ∀ (d l : Nat) (b : Nat → Byte),
  let bs (n : Nat) : List Byte := (List.range n).map b
  let word (i : Nat) : W32 := b (i + 3) ++ b (i + 2) ++ b (i + 1) ++ b i
  loadRegs .z8 d l (bs 1) = [.v d l ((b 0).setWidth 32)]
  ∧ loadRegs .s8 d l (bs 1) = [.v d l ((b 0).signExtend 32)]
  ∧ loadRegs .z16 d l (bs 2) = [.v d l ((b 1 ++ b 0).setWidth 32)]
  ∧ loadRegs .s16 d l (bs 2) = [.v d l ((b 1 ++ b 0).signExtend 32)]
  ∧ loadRegs .w32 d l (bs 4) = [.v d l (word 0)]
  ∧ loadRegs .w64 d l (bs 8) = [.v d l (word 0), .v (d + 1) l (word 4)]
  ∧ loadRegs .b128 d l (bs 16) = [.v d l (word 0), .v (d + 1) l (word 4), .v (d + 2) l (word 8), .v (d + 3) l (word 12)]

/-- R140, R51: a global access whose lanes are all aligned, translated, permitted and in place is made; the lowest misaligned
lane of any raises `MISALIGNED`; with all aligned and translated, the lowest lane without the permission raises
`PROTECTION`. -/
def Claim.AccessChecks : Prop := ∀ (s : State) (core slot n : Nat) (need : Need) (as : List (Nat × W64)) (ls : List LaneAt),
  (Mapped s core slot need n as ls → s.globalAt core slot need n as = (s, .ok ls))
  ∧ (∀ pre x post, as = pre ++ x :: post → (∀ y ∈ pre, y.2.toNat % n = 0) → x.2.toNat % n ≠ 0 →
      s.globalAt core slot need n as = (s, .error (.fault ⟨fcMisaligned, 0, x.2, x.1⟩)))
  ∧ (∀ pre x post, ls = pre ++ x :: post → ls.map (fun y => (y.lane, y.va)) = as →
      (∀ y ∈ ls, y.va.toNat % n = 0 ∧ y.va.toNat < 2 ^ 52 ∧ tlbFind (s.core core).tlb (s.ctxAsid slot) y.va.toNat = some y.e) →
      (need = .r ∨ need = .rw → (∀ y ∈ pre, y.e.r = true) → x.e.r = false →
        s.globalAt core slot need n as = (s, .error (.fault ⟨fcProtection, 8, x.va, x.lane⟩)))
      ∧ (need = .w ∨ need = .rw → (need = .rw → ∀ y ∈ ls, y.e.r = true) → (∀ y ∈ pre, y.e.w = true) → x.e.w = false →
        s.globalAt core slot need n as = (s, .error (.fault ⟨fcProtection, 9, x.va, x.lane⟩))))

/-- R142, R143: the bytes that a load takes when it issues (log 3): the youngest FIFO entry's; at `DEVICE` and `SYSTEM` scope the
home slice's where the core's L1 holds nothing of the line; at `TEAM` scope those of the L1 line that holds them, on a page with
`CP` = 2 where they are dirty, and the home slice's where neither L1 nor the cluster cache holds the line. A poisoned word that a
byte is taken from is found. -/
def Claim.LoadedBytes : Prop := ∀ (s : State) (g : Group) (x : LaneAt) (h : Hint) (n : Nat),
  n ∈ [1, 2, 4, 8, 16] → x.ca % n = 0 →
  let r (sc : Scope) := (s.readLanes g sc h n [x]).2
  let line := x.ca / 128
  let open_ (i : Nat) : Prop := i < n ∧ g.fifoByte false (x.ca + i) = none
  let gives (b : Nat → Byte) (poison : Bool) (v : List (LaneAt × List Byte) × Option LaneAt) : Prop :=
    v.1 = [(x, (List.range n).map (fun i => (g.fifoByte false (x.ca + i)).getD (b i)))]
      ∧ v.2 = if (∃ i, open_ i) ∧ poison = true then some x else none
  (∀ sc, ∃ b p, gives b p (r sc))
  ∧ (∀ sc, sc = .device ∨ sc = .system → (s.core g.core).findLine line = none →
      gives (fun i => s.homeByte x.e.key (x.ca + i)) (s.homePoison x.ca) (r sc))
  ∧ (∀ l, (s.core g.core).findLine line = some l → l.slot = g.ctx → l.key = x.e.key →
      (∀ i, open_ i → if x.e.cp = 2 ∧ hintCp h x.e.cp = 2 then l.dirty.getLsbD ((x.ca + i) % 128) = true else l.has ((x.ca + i) % 128) = true) →
      gives (fun i => lineByte l.data ((x.ca + i) % 128)) (l.poison.getLsbD (x.ca / 32 % 4)) (r .team))
  ∧ ((s.core g.core).findLine line = none → (∀ l ∈ (s.clus (g.core / 16)).lines, l.line ≠ line) →
      gives (fun i => s.homeByte x.e.key (x.ca + i)) (s.homePoison x.ca) (r .team))

/-- R149, R379, R140: with every lane of an `LDV` and the copies that its lanes read translated, readable and in place, the lowest
lane that lies in no version region's page (detail 1), in no region (2), or in a copy that is no longer kept (5) raises
`VERSION_FAULT`. -/
def Claim.VersionChecks : Prop := ∀ (h : Hdr) (o : MemOp) (s : State) (c : Ctx) (pre post : List LaneAt) (x : LaneAt),
  let fails (y : LaneAt) : Nat :=
    if y.e.vr = false then 1
    else match s.regionOf c.g.ctx y.va.toNat with
      | none => 2
      | some k => if c.g.vcur = s.vrVer k ∨ c.g.vcur = s.vrVer k - 1 then 0 else 5
  Issues s h (Instr.ldv h o).uses 1 c → c.act ≠ 0 →
  Mapped s c.g.core c.g.ctx .r (tyBytes o.ty) (c.lanesAt o.a o.b o.off) (pre ++ x :: post) →
  (∃ ts, Mapped s c.g.core c.g.ctx .r (tyBytes o.ty) (((pre ++ x :: post).filter (fun y => fails y == 0)).map (fun y =>
    let k := (s.regionOf c.g.ctx y.va.toNat).getD 0
    (y.lane, BitVec.ofNat 64 (s.vrBase k + c.g.vcur.toNat % 2 * s.vrSpan k + (y.va.toNat - s.vrBase k) % s.vrSpan k)))) ts) →
  (∀ y ∈ pre, fails y = 0) → fails x ≠ 0 → FaultsAt (.ldv h o) s c fcVersion (fails x) x.va x.lane

/-- R145, R146, R148, R149, R155: the loads complete over checked lanes. `LDL` maps lane-private offsets, `LDP` demotes its
split when every lane still reads its waiting value, `LDV` reads the copy of its region that the group has adopted, `LDM`
loads consecutive 64-bit words into scalar registers. Each takes its bytes when it issues (log 3). -/
def Claim.Loads : Prop := ∀ (h : Hdr) (o : MemOp) (ty : MTy) (hnt : Hint) (d : Reg) (a : SReg) (b w : Reg) (off : BitVec 12)
    (w64 acq : Bool) (sc : Scope) (n : BitVec 3) (ord : Ord4) (sd : SReg),
  let regs (ty : MTy) (d : Reg) (rs : List (LaneAt × List Byte)) : List RegWrite :=
    rs.flatMap (fun r => loadRegs ty d.toNat r.1.lane r.2)
  let pty : MTy := if w64 then .w64 else .w32
  LoadWord (.ldg h o) h o.sc o.hnt (tyBytes o.ty)
      (fun s c => Mapped s c.g.core c.g.ctx .r (tyBytes o.ty) (c.lanesAt o.a o.b o.off)) (fun _ rs => (regs o.ty o.d rs, false))
  ∧ LoadWord (.ldl h ty hnt d a b off) h .team hnt (tyBytes ty) (PrivateAt .r (tyBytes ty) a b off) (fun _ rs => (regs ty d rs, false))
  ∧ LoadWord (.ldp h w64 sc acq hnt d a b w) h sc hnt (tyBytes pty)
      (fun s c => Mapped s c.g.core c.g.ctx .r (tyBytes pty) (c.lanesAt a b 0)) (fun c rs => (regs pty d rs,
        rs.all (fun r => BitVec.ofNat 64 (natOf r.2) == c.g.src false w64 w r.1.lane)))
  ∧ LoadWord (.ldv h o) h o.sc o.hnt (tyBytes o.ty) (fun s c ls => ∃ vs,
      let k (x : LaneAt) : Nat := (s.regionOf c.g.ctx x.va.toNat).getD 0
      Mapped s c.g.core c.g.ctx .r (tyBytes o.ty) (c.lanesAt o.a o.b o.off) vs
        ∧ (∀ x ∈ vs, x.e.vr = true ∧ (s.regionOf c.g.ctx x.va.toNat).isSome ∧ (c.g.vcur = s.vrVer (k x) ∨ c.g.vcur = s.vrVer (k x) - 1))
        ∧ Mapped s c.g.core c.g.ctx .r (tyBytes o.ty) (vs.map (fun x => (x.lane, BitVec.ofNat 64
            (s.vrBase (k x) + c.g.vcur.toNat % 2 * s.vrSpan (k x) + (x.va.toNat - s.vrBase (k x)) % s.vrSpan (k x))))) ls)
      (fun _ rs => (regs o.ty o.d rs, false))
  ∧ LoadWord (.ldm h n sc ord sd a off) h sc .none 8 (fun s c => Mapped s c.g.core c.g.ctx .r 8 ((List.range (n.toNat + 1)).map
      (fun i => (lowLane c.act, c.g.getS a.toNat + off.signExtend 64 + BitVec.ofNat 64 (8 * i)))))
      (fun _ rs => (rs.zipIdx.map (fun r => .s (sd.toNat + r.2) (BitVec.ofNat 64 (natOf r.1.2))), false))

/-- R139 to R149, R155, R379: the checks of an access, the bytes a load takes when it issues (log 3) and the registers it writes. -/
def Obligations.GlobalLoads : Prop :=
  Claim.AccessTypes ∧ Claim.AccessChecks ∧ Claim.VersionChecks ∧ Claim.LoadedBytes ∧ Claim.Loads

/-- R142, R144, R145, R146, R155: the stores complete over checked lanes: their bytes enter the group's FIFO. -/
def Claim.Stores : Prop := ∀ (h : Hdr) (o : MemOp) (ty : MTy) (hnt : Hint) (d : Reg) (a : SReg) (b : Reg) (off : BitVec 12)
    (sc : Scope) (n : BitVec 3) (ord : Ord4) (sd : SReg),
  StoreWord (.stg h o) h o.sc (o.ord == .rel || o.ord == .ar) (o.hnt == .nol1)
      (fun s c => Mapped s c.g.core c.g.ctx .w (tyBytes o.ty) (c.lanesAt o.a o.b o.off)) (fun c x => c.g.regBytes o.ty o.d x.lane)
  ∧ StoreWord (.stl h ty hnt d a b off) h .team false (hnt == .nol1) (PrivateAt .w (tyBytes ty) a b off)
      (fun c x => c.g.regBytes ty d x.lane)
  ∧ ∀ s c ls, Issues s h (Instr.stm h n sc ord sd a off).uses 1 c → c.act ≠ 0 →
      Mapped s c.g.core c.g.ctx .w 8 ((List.range (n.toNat + 1)).map
        (fun i => (lowLane c.act, c.g.getS a.toNat + off.signExtend 64 + BitVec.ofNat 64 (8 * i)))) ls →
      ((ord = .rel ∨ ord = .ar) → s.mayRelease c sc) →
      ∃ t g', exec (.stm h n sc ord sd a off) s = .next t
        ∧ OnlyMemory s t c 1 (storeEntries sc false (s.via ls) (ls.zipIdx.map (fun x =>
            (x.1, (List.range 8).map (fun i => (c.g.getS (sd.toNat + x.2) >>> (8 * i)).setWidth 8))))) g'
        ∧ SameRegs c.g g' ∧ g'.pend = c.g.pend ∧ HomeKept s t c.g.core
        ∧ (ord ≠ .rel → ord ≠ .ar → t.OnlyIssue s)

/-- R79, R122 to R126, R141, R142, R145: scratchpad loads and stores, at the swizzled offset, inside the team's region; a load takes the
FIFO's byte or the scratchpad's when it issues (log 3), and no byte of memory changes; one that would take a poisoned word's byte
from the scratchpad writes nothing and faults when its result is due (R79, R141). -/
def Claim.Scratchpad : Prop := ∀ (h : Hdr) (o : ScrOp) (s : State) (c : Ctx) (tm : Team), s.team c.g.tid = some tm → c.act ≠ 0 →
  (∀ x ∈ c.lanesAt o.a o.b o.off, x.2.toNat % tyBytes o.ty = 0 ∧ x.2.toNat + tyBytes o.ty ≤ tm.scratch * 1024) →
  let at_ (x : Nat × W64) : Nat := if o.swz then swizzle tm.tswz x.2.toNat else x.2.toNat
  let lines := ((c.lanesAt o.a o.b o.off).map (fun x => (tm.base + at_ x) / 32)).dedup
  let byte (a : Nat) : Byte := (c.g.fifoByte true a).getD (tm.sram.get 0 a)
  (Issues s h (Instr.lds h o).uses 1 c → s.bankFull c.g.core lines = none →
    (∀ x ∈ c.lanesAt o.a o.b o.off, tm.poison.get false (at_ x / 32) = false) →
    ∃ t g', exec (.lds h o) s = .next t ∧ OnlyMemory s t c 1 [] g' ∧ (∀ k a, t.homeByte k a = s.homeByte k a)
      ∧ MemResult s c (Instr.lds h o).uses lines false ((c.lanesAt o.a o.b o.off).flatMap (fun x =>
          loadRegs o.ty o.d.toNat x.1 ((List.range (tyBytes o.ty)).map (fun i => byte (at_ x + i))))) g')
  ∧ (∀ pre x post, Issues s h (Instr.lds h o).uses 1 c → s.bankFull c.g.core lines = none → c.lanesAt o.a o.b o.off = pre ++ x :: post →
      let taken (y : Nat × W64) : Prop := tm.poison.get false (at_ y / 32) = true ∧ ∃ i, i < tyBytes o.ty ∧ c.g.fifoByte true (at_ y + i) = none
      (∀ y ∈ pre, ¬ taken y) → taken x →
    ∃ t g', exec (.lds h o) s = .next t ∧ OnlyMemory s t c 1 [] g' ∧ SameRegs c.g g' ∧ SameHome s t
      ∧ ∃ id, g'.pend = c.g.pend ++ [⟨id, c.idx, destNames (Instr.lds h o).uses, false, false, lines.length, [],
          some ⟨fcMemory, 0, x.2, x.1⟩, c.sp.pc, s.tick⟩])
  ∧ (Issues s h (Instr.sts h o).uses 1 c → ((o.ord = .rel ∨ o.ord = .ar) → s.mayRelease c .team) →
    ∃ t g', exec (.sts h o) s = .next t
      ∧ OnlyMemory s t c 1 [.scratch ((c.lanesAt o.a o.b o.off).flatMap (fun x =>
          (List.range (tyBytes o.ty)).map (fun i => ⟨at_ x + i, (c.g.regBytes o.ty o.d x.1).getD i 0⟩)))] g'
      ∧ SameRegs c.g g' ∧ g'.pend = c.g.pend ∧ t.OnlyIssue s)

/-- R147: `LDC` reads the grid's constants, zero from `PARAMLEN` on, into every participating lane or a scalar register; an
offset that is not aligned raises `MISALIGNED`. -/
def Claim.LaunchConstants : Prop := ∀ (h : Hdr) (sd : Bool) (ty : LdcTy) (d : Reg) (a : SReg) (off : BitVec 12) (s : State)
    (c : Ctx) (tm : Team) (gr : Grid), s.team c.g.tid = some tm → s.grid tm.grid = some gr →
  let i : Instr := .ldc h sd ty d a off
  let o := c.g.getS a.toNat + off.setWidth 64
  let n := if ty = .w64 then 8 else 4
  let byte (j : Nat) : Byte := if o.toNat + j < gr.rec_.paramlen then gr.consts.getD (o.toNat + j) 0 else 0
  let lo : W32 := byte 3 ++ byte 2 ++ byte 1 ++ byte 0
  let hi : W32 := byte 7 ++ byte 6 ++ byte 5 ++ byte 4
  let v : W64 := match ty with
    | .z32 => lo.setWidth 64
    | .s32 => lo.signExtend 64
    | .w64 => hi ++ lo
  Issues s h i.uses 1 c →
    (o.toNat % n = 0 → ∃ ws, Completes i s c 1 .long i.uses false ws
      ∧ (sd = true → GivesS ws c.act true d.toNat v 0)
      ∧ (sd = false → GivesV ws c.act (ty == .w64) d.toNat (fun _ => v) (fun _ => 0)))
    ∧ (o.toNat % n ≠ 0 → c.act ≠ 0 → FaultsAt i s c fcMisaligned 0 o (lowLane c.act))

/-- R122 to R126, R145, R147: the scratchpad, whose loads take their bytes when they issue (log 3), and the constants of the
grid. -/
def Obligations.CoreMemory : Prop :=
  Claim.Scratchpad ∧ Claim.LaunchConstants

/-- R150: `STWS` puts its payload in the FIFO and its signal behind it: 1, the bytes stored, or a set; nothing outside its group
changes. -/
def Claim.StoreThenSignal : Prop := ∀ (h : Hdr) (ty : MTy) (sc : Scope) (sop : StwsOp) (d : Reg) (a : SReg) (b : Reg) (fl : SReg)
    (s : State) (c : Ctx) (ls : List LaneAt) (f : LaneAt),
  let i : Instr := .stws h ty sc sop d a b fl
  Issues s h i.uses 1 c → c.act ≠ 0 → Mapped s c.g.core c.g.ctx .w (tyBytes ty) (c.lanesAt a b 0) ls →
    Mapped s c.g.core c.g.ctx .w 8 [(lowLane c.act, c.g.getS fl.toNat)] [f] →
    let k : Option W64 := match sop with
      | .inc => some 1
      | .addb => some (BitVec.ofNat 64 (tyBytes ty * ls.length))
      | .set => none
    ∃ t g', exec i s = .next t
      ∧ OnlyMemory s t c 1 (storeEntries sc false (s.via ls) (ls.map (fun x => (x, c.g.regBytes ty d x.lane)))
          ++ [.signal sc k ⟨c.idx, c.sp.pc⟩ (s.via [f]) ⟨f.lane, f.va, f.ca, f.e.attr, 0, 0⟩]) g'
      ∧ SameRegs c.g g' ∧ g'.pend = c.g.pend ∧ t.OnlyIssue s

/-- R8, R142, R145: the entries of a store hold its lanes' bytes in lane order, so that of lanes that write one byte under whatever
attributes the highest lane's stays. -/
def Claim.StoreOrder : Prop := ∀ (sc : Scope) (nol1 : Bool) (via : Via) (ls : List (LaneAt × List Byte)),
  let es := storeEntries sc nol1 via ls
  (∀ e ∈ es, ∃ at_ bs, e = .global sc nol1 at_ via bs)
  ∧ (es.flatMap (fun e => match e with
      | .global _ _ at_ _ bs => bs.map (fun b => (at_, b.addr, b.b))
      | _ => [])) = ls.flatMap (fun x => x.2.zipIdx.map (fun b => (x.1.e.attr, x.1.ca + b.2, b.1)))

/-- R142, R144 to R146, R150, R155: stores and the store that signals put their bytes in the group's FIFO in lane order; what a
release writes back is all that changes below. -/
def Obligations.GlobalStores : Prop :=
  Claim.Stores ∧ Claim.StoreOrder ∧ Claim.StoreThenSignal

/-- R151: `WAITV` over a word in place completes with the value read when its comparison holds, else its split waits at the
word; a re-read, on a write to the line or once 1,024 reference cycles have passed since the last, completes it when the
comparison has come to hold: `Sd` is written at once, or once the bank lines of the read have been served. -/
def Claim.WordWaits : Prop := ∀ (h : Hdr) (cmp : WCmp) (w32 : Bool) (sc : Scope) (d a b : SReg) (s : State) (c : Ctx)
    (x : LaneAt) (s2 : State) (bs : List Byte),
  let i : Instr := .waitv h cmp w32 sc d a b
  let n := if w32 then 4 else 8
  let holds (v w : W64) : Bool := match cmp with
    | .eq => decide (v = w) | .ne => decide (v ≠ w) | .geu => w.ule v | .ges => w.sle v
  let v : W64 := BitVec.ofNat 64 (natOf bs)
  (Issues s h i.uses 1 c → c.act ≠ 0 → Mapped s c.g.core c.g.ctx .r n [(lowLane c.act, c.g.getS a.toNat)] [x] →
    let lines := s.l1Lines c.g sc .none n [x]
    c.g.fifoUnknown [x] n = false → s.bankFull c.g.core lines = none → s.readLanes c.g sc .none n [x] = (s2, [(x, bs)], none) →
    s.passes s2 true →
    (holds v (c.g.getS b.toNat) = true → ∃ t g', exec i s = .next t ∧ OnlyMemory s t c 1 [] g' ∧ HomeKept s t c.g.core
      ∧ MemResult s c i.uses lines false [.s d.toNat v] g')
    ∧ (holds v (c.g.getS b.toNat) = false → ∃ t g', exec i s = .next t ∧ t.grp c.gid = some g' ∧ SameRegs c.g g'
      ∧ HomeKept s t c.g.core ∧ ∃ sp, g'.split? c.idx = some sp ∧ sp.pc = c.sp.pc
        ∧ sp.st = .waiting (.word (c.g.getS a.toNat) cmp w32 sc d.toNat (c.g.getS b.toNat) (lowLane c.act) s.now)))
  ∧ (∀ g sp va dd w lane last, s.grp s.ev.unit = some g → g.split? s.ev.sub = some sp →
      sp.st = .waiting (.word va cmp w32 sc dd w lane last) →
      let lines := s.l1Lines g sc .none n [x]
      (g.halted = true ∨ s.ev.on = false ∧ s.now < last + 1024 → exec .waitvReread s = .next s)
      ∧ (g.halted = false → s.ev.on = true ∨ last + 1024 ≤ s.now →
      Mapped s g.core g.ctx .r n [(lane, va)] [x] → g.fifoUnknown [x] n = false → s.bankFull g.core lines = none →
      s.readLanes g sc .none n [x] = (s2, [(x, bs)], none) → ∀ u, s.pass s2 true = .ok u →
      (holds v w = true → ∃ t g', exec .waitvReread s = .next t ∧ t.grp s.ev.unit = some g' ∧ g'.v = g.v
        ∧ (lines = [] → g'.s = (g.setS dd v).s ∧ g'.pend = g.pend)
        ∧ (lines ≠ [] → g'.s = g.s ∧ ∃ id wd, g'.pend = g.pend ++ [⟨id, sp.idx, wd, false, false, lines.length, [.s dd v], none, sp.pc, s.tick⟩])
        ∧ HomeKept s t g.core ∧ ∃ sp', g'.split? sp.idx = some sp' ∧ sp'.pc = sp.pc + 8 ∧ sp'.st = .ready)
      ∧ (holds v w = false → exec .waitvReread s = .next ((u.bankEnter g.core s.ev.unit none lines).updGrp s.ev.unit (fun g =>
          g.putSplit { sp with st := .waiting (.word va cmp w32 sc dd w lane s.now) })))))

/-- R128, R132, R133, R152 to R154: `PRF` changes no register; `FENCE` waits for the completion counter, with release leaves no line of the context that a wider scope
still owes, with acquire no valid sector of it in L1 or the cluster cache; `CCTL` leaves no dirty byte, no valid sector, or no
line of the context in the core's L1, over all of it or over the lines of a range. That `CCTL` and `PRF` translate each page in
their own step, by walks that they take at once, is the model's reading (log 25). -/
def Claim.CacheWords : Prop := ∀ (h : Hdr) (lvl : BitVec 2) (a a2 : SReg) (b : Reg) (off : BitVec 12) (ord : Ord4) (sc : Scope)
    (op : CctlOp) (s : State) (c : Ctx),
  let mine (t : State) (p : L1Line → Prop) : Prop := ∀ l ∈ (t.core c.g.core).lines, l.slot = c.g.ctx → p l
  (Issues s h (Instr.prf h lvl a b off).uses 1 c → ∀ s1 : State,
    (∀ ls : List LaneAt, s.prefetchPages c.g.core c.g.ctx (c.lanesAt a b off) = (s1, .ok ls) →
      s1.passes (ls.foldl (fun s x => s.prefetch c.g lvl.toNat x) s1) false →
      ∃ t g', exec (.prf h lvl a b off) s = .next t ∧ OnlyMemory { s with walks := t.walks } t c 1 [] g'
        ∧ SameRegs c.g g' ∧ g'.pend = c.g.pend ∧ HomeKept s t c.g.core)
    ∧ (c.act ≠ 0 → ∀ w, s.prefetchPages c.g.core c.g.ctx (c.lanesAt a b off) = (s1, .error w) →
        StallsIn (.prf h lvl a b off) s s1 c w))
  ∧ (Issues s h [] 1 c → c.act ≠ 0 → ord = .acq → c.g.cc ≠ 0 → Stalls (.fence h ord sc) s c .lines)
  ∧ (Issues s h [] 1 c → c.act ≠ 0 → ord ≠ .rlx → ((ord = .rel ∨ ord = .ar) → s.mayRelease c sc) → c.g.cc = 0 →
    ∃ t g', exec (.fence h ord sc) s = .next t ∧ OnlyMemory s t c 1 [] g' ∧ SameRegs c.g g' ∧ g'.pend = c.g.pend
      ∧ HomeKept s t c.g.core
      ∧ (sc ≠ .team → (ord = .rel ∨ ord = .ar) → mine t (fun l => l.dirty = 0 ∨ (Scope.rank sc ≤ Scope.rank l.sc ∧ s.ctxCompat c.g.ctx = false)))
      ∧ (sc ≠ .team → (ord = .acq ∨ ord = .ar) → mine t (fun l => l.valid = 0))
      ∧ (sc = .device ∨ sc = .system → (ord = .acq ∨ ord = .ar) → ∀ l ∈ (t.clus (c.g.core / 16)).lines, l.slot ≠ c.g.ctx))
  ∧ (Issues s h (Instr.cctl h op a a2).uses 1 c → c.act ≠ 0 → op = .wball ∨ op = .invall ∨ op = .wbinvall →
    s.passes (s.cctl c.g.core op (fun l => l.slot == c.g.ctx)) false →
    ∃ t g', exec (.cctl h op a a2) s = .next t ∧ OnlyMemory s t c 1 [] g' ∧ SameRegs c.g g' ∧ g'.pend = c.g.pend
      ∧ HomeKept s t c.g.core
      ∧ (op = .wball → mine t (fun l => l.dirty = 0)) ∧ (op = .invall → mine t (fun l => l.valid = 0))
      ∧ (op = .wbinvall → mine t (fun _ => False)))
  ∧ (Issues s h (Instr.cctl h op a a2).uses 1 c → c.act ≠ 0 → op = .wb ∨ op = .inv ∨ op = .wbinv ∨ op = .dis →
    let lo := (c.g.getS a.toNat).toNat
    let hi := lo + (c.g.getS a2.toNat).toNat
    let pages := s.rangePages c.g.core c.g.ctx ((hi - lo) / 65536 + 2) lo hi
    (2 ^ 52 < hi → FaultsAt (.cctl h op a a2) s c fcTranslation 1 (c.g.getS a.toNat) (lowLane c.act))
    ∧ (∀ e, lo < hi → hi ≤ 2 ^ 52 → tlbFind (s.core c.g.core).tlb (s.ctxAsid c.g.ctx) lo = some e → hi ≤ e.base + e.size →
        pages = (s, .ok [(lo, hi, e)]))
    ∧ (∀ s1 w, hi ≤ 2 ^ 52 → pages = (s1, .error w) → StallsIn (.cctl h op a a2) s s1 c w)
    ∧ ∀ (s1 : State) (ps : List (Nat × Nat × TlbE)), hi ≤ 2 ^ 52 → pages = (s1, .ok ps) →
      let u := s1.dropFailed c.g.core c.g.ctx ((s1.walks.map (·.region)).filter (fun r => decide (lo / 65536 ≤ r ∧ r ≤ hi / 65536)))
      (op = .dis → ∀ pre p post, ps = pre ++ p :: post → (∀ q ∈ pre, q.2.2.w = true) → p.2.2.w = false →
        exec (.cctl h op a a2) s = .next (u.raise c.gid c.idx ⟨fcProtection, 9, BitVec.ofNat 64 p.1, lowLane c.act⟩ c.sp.pc))
      ∧ ((op = .dis → ∀ p ∈ ps, p.2.2.w = true) →
        u.passes (u.cctl c.g.core op (fun l => l.slot == c.g.ctx && lineInRange ps l.line)) false →
        ∃ t g', exec (.cctl h op a a2) s = .next t ∧ OnlyMemory { s with walks := t.walks } t c 1 [] g' ∧ SameRegs c.g g'
          ∧ g'.pend = c.g.pend ∧ HomeKept s t c.g.core
          ∧ mine t (fun l => lineInRange ps l.line = true → match op with
            | .wb => l.dirty = 0
            | .inv => l.valid = 0
            | _ => False)))

/-- R132, R133, R151 to R154: waiting on a word of memory, and the words that act on the caches. That a `WAITV` takes its bytes
in the step of each read is the model's choice (log 3); that `CCTL` and `PRF` take their walks in their own step, and wait only for
walks in progress and keys being replaced, is its reading (log 25). -/
def Obligations.WaitsAndCacheWords : Prop :=
  Claim.WordWaits ∧ Claim.CacheWords

-- ## Atomics (16_atomics.md)

/-- R264: the new value of each integer operation, at 64 and at 32 bits; a compare-and-swap writes where the values are equal. -/
def Claim.IntegerOperations : Prop :=
  (∀ a v x : W64,
    AtOp.new (.int .add) true a v x = a + v
    ∧ AtOp.new (.int .mins) true a v x = (if v.slt a then v else a) ∧ AtOp.new (.int .maxs) true a v x = (if a.slt v then v else a)
    ∧ AtOp.new (.int .minz) true a v x = (if v.ult a then v else a) ∧ AtOp.new (.int .maxz) true a v x = (if a.ult v then v else a)
    ∧ AtOp.new (.int .and) true a v x = a &&& v ∧ AtOp.new (.int .or) true a v x = a ||| v
    ∧ AtOp.new (.int .xor) true a v x = a ^^^ v ∧ AtOp.new (.int .exch) true a v x = v
    ∧ AtOp.new (.int .inc) true a v x = (if v ≤ a then 0 else a + 1)
    ∧ AtOp.new (.int .dec) true a v x = (if a = 0 ∨ v < a then v else a - 1)
    ∧ AtOp.new .cas true a v x = (if a = x then v else a))
  ∧ ∀ a v : W32, ∀ x : W64,
    let z (y : W32) : W64 := y.setWidth 64
    AtOp.new (.int .add) false (z a) (z v) x = z (a + v)
    ∧ AtOp.new (.int .mins) false (z a) (z v) x = z (if v.slt a then v else a)
    ∧ AtOp.new (.int .maxs) false (z a) (z v) x = z (if a.slt v then v else a)
    ∧ AtOp.new (.int .minz) false (z a) (z v) x = z (if v.ult a then v else a)
    ∧ AtOp.new (.int .maxz) false (z a) (z v) x = z (if a.ult v then v else a)
    ∧ AtOp.new (.int .and) false (z a) (z v) x = z (a &&& v) ∧ AtOp.new (.int .or) false (z a) (z v) x = z (a ||| v)
    ∧ AtOp.new (.int .xor) false (z a) (z v) x = z (a ^^^ v) ∧ AtOp.new (.int .exch) false (z a) (z v) x = z v
    ∧ AtOp.new (.int .inc) false (z a) (z v) x = z (if v ≤ a then 0 else a + 1)
    ∧ AtOp.new (.int .dec) false (z a) (z v) x = z (if a = 0 ∨ v < a then v else a - 1)

/-- R266: the new value of each floating-point operation: FP32, or two BF16 or FP16 elements each by itself, rounded to nearest even with
subnormals kept; minimum and maximum number. -/
def Claim.FloatOperations : Prop := ∀ (a v : W32) (x : W64),
  let z (y : W32) : W64 := y.setWidth 64
  let one (op : FRedOp) : Nat := match op with
    | .add => (Num.op2 Num.fp32 .rn false (Sys2Proof.Num.add false) a.toNat v.toNat).1
    | .min => Num.minmax Num.fp32 false false a.toNat v.toNat
    | .max => Num.minmax Num.fp32 true false a.toNat v.toNat
  let two (f : Num.Fmt) (op : FRedOp) : Nat :=
    let e (p q : Nat) : Nat := match op with
      | .add => (Num.op2 f .rn false (Sys2Proof.Num.add false) p q).1
      | .min => Num.minmax f false false p q
      | .max => Num.minmax f true false p q
    e (lo16 a) (lo16 v) + 65536 * e (hi16 a) (hi16 v)
  ∀ op, AtOp.new (.fp .f32 op) false (z a) (z v) x = BitVec.ofNat 64 (one op)
    ∧ AtOp.new (.fp .bf16x2 op) false (z a) (z v) x = BitVec.ofNat 64 (two Num.bf16 op)
    ∧ AtOp.new (.fp .f16x2 op) false (z a) (z v) x = BitVec.ofNat 64 (two Num.fp16 op)

/-- R266, R270: an atomic at `TEAM` scope on a line that the core's L1 holds is performed there, and nothing below changes; one at
`CLUSTER` scope, or at `TEAM` scope on a page with `CP` = 2, where L1 holds nothing of the line, is performed in the cluster unit, on
what the cluster cache holds or fills from home, and its value goes on to home. A compare-and-swap that fails leaves the line clean
where it was. -/
def Claim.AtomicsInCaches : Prop := ∀ (s : State) (core slot : Nat) (sc : Scope) (op : AtOp) (w64 : Bool) (x : AtLane),
  let n := if w64 then 8 else 4
  let line := x.addr / 128
  let word (f : Nat → Byte) : W64 := BitVec.ofNat 64 (natOf ((List.range n).map f))
  let puts (old : W64) (i : Nat) : Byte := ((op.new w64 old x.v x.cmp) >>> (8 * i)).setWidth 8
  x.addr % n = 0 →
  (∀ l, sc = .team → x.attr.cp ≠ 2 → (s.core core).findLine line = some l → l.slot = slot → l.key = x.attr.key →
    (∀ i, i < n → l.has ((x.addr + i) % 128) = true) → l.poison.getLsbD (x.addr / 32 % 4) = false →
    let old := word (fun i => lineByte l.data ((x.addr + i) % 128))
    ∃ t l', s.atomGlobal core slot sc op w64 x = (t, some old) ∧ SameHome s t ∧ t.clusters = s.clusters
      ∧ (t.core core).findLine line = some l'
      ∧ (∀ i, i < n → lineByte l'.data ((x.addr + i) % 128) = puts old i ∧ (op ≠ .cas ∨ old = x.cmp → l'.dirty.getLsbD ((x.addr + i) % 128) = true))
      ∧ ∀ j, j < 128 → (∀ i, i < n → (x.addr + i) % 128 ≠ j) → lineByte l'.data j = lineByte l.data j ∧ l'.dirty.getLsbD j = l.dirty.getLsbD j)
  ∧ (sc = .cluster ∨ sc = .team ∧ x.attr.cp = 2 → (s.core core).findLine line = none →
    let gives (old : W64) : Prop := ∃ t l', s.atomGlobal core slot sc op w64 x = (t, some old) ∧ t.cores = s.cores
      ∧ (t.clus (core / 16)).find slot line = some l' ∧ l'.key = x.attr.key
      ∧ (∀ i, i < n → lineByte l'.data ((x.addr + i) % 128) = puts old i)
      ∧ (op ≠ .cas ∨ old = x.cmp → ∀ i, i < n → t.homeByte x.attr.key (x.addr + i) = puts old i)
      ∧ ∀ k a, (∀ i, i < n → (x.addr + i) / 64 ≠ a / 64) → t.homeByte k a = s.homeByte k a
    (∀ l, (s.clus (core / 16)).find slot line = some l → (∀ y ∈ (s.clus (core / 16)).lines, y.line = line → y.key = x.attr.key) →
      l.valid.getLsbD (x.addr / 32 % 4) = true → l.poison.getLsbD (x.addr / 32 % 4) = false →
      gives (word (fun i => lineByte l.data ((x.addr + i) % 128))))
    ∧ ((∀ l ∈ (s.clus (core / 16)).lines, l.line ≠ line) → s.homePoison x.addr = false →
      gives (word (fun i => s.homeByte x.attr.key (x.addr + i)))))

/-- R270, R272: an atomic at `DEVICE` or `SYSTEM` scope, where the core's L1 holds nothing of the line, reads the location at
home and leaves the operation's value there and nowhere else under its key, and no copy of the sector in its own cluster cache
(log 36); of two lanes at one address, the second reads what the first left. -/
def Claim.AtomicsAtHome : Prop := ∀ (s : State) (core slot : Nat) (sc : Scope) (op : AtOp) (w64 : Bool) (x y : AtLane),
  let n := if w64 then 8 else 4
  sc = .device ∨ sc = .system → x.addr % n = 0 → (s.core core).findLine (x.addr / 128) = none →
    (∀ i, i < n → s.homePoison (x.addr + i) = false) →
    let old : W64 := BitVec.ofNat 64 (natOf ((List.range n).map (fun i => s.homeByte x.attr.key (x.addr + i))))
    let new := op.new w64 old x.v x.cmp
    ∃ t, s.atomGlobal core slot sc op w64 x = (t, some old) ∧ t.cores = s.cores
      ∧ (∀ l ∈ (t.clus (core / 16)).lines, l.line = x.addr / 128 → l.valid.getLsbD (x.addr / 32 % 4) = false)
      ∧ (∀ l ∈ (s.clus (core / 16)).lines, l.line ≠ x.addr / 128 → l.valid ≠ 0 → l ∈ (t.clus (core / 16)).lines)
      ∧ (∀ cl, cl ≠ core / 16 → t.clus cl = s.clus cl)
      ∧ (∀ i, i < n → t.homeByte x.attr.key (x.addr + i) = (new >>> (8 * i)).setWidth 8)
      ∧ (∀ a, (a < x.addr ∨ x.addr + n ≤ a) → t.homeByte x.attr.key a = s.homeByte x.attr.key a)
      ∧ (∀ k a, (∀ i, i < n → (x.addr + i) / 64 ≠ a / 64) → t.homeByte k a = s.homeByte k a)
      ∧ (y.addr = x.addr → y.attr = x.attr → (s.atomLanes core slot sc op w64 [x, y]).2 =
          [(x, some old), (y, some (if w64 then new else (new.setWidth 32).setWidth 64))])

/-- R265, R267 to R269, R273: the atomics that return a value, or that acquire, are performed at issue once the group's FIFO is
empty: old values to `Vd`, the split demoted where a compare-and-swap failed, a fault at the lowest lane that consumed poison;
the scratchpad atomics act on the team's banks. That they act in the step of their word is the model's choice (log 3). -/
def Obligations.Atomics : Prop := ∀ (h : Hdr) (op : AOp) (o : Atm) (fmt : AFmt) (fop : FRedOp) (sop : ASOp) (swz : Bool)
    (s : State) (c : Ctx),
  let n (w64 : Bool) := if w64 then 8 else 4
  let arg (cas w64 : Bool) (cc : Reg) (l : Nat) : W64 × W64 :=
    if cas then
      (if w64 then (c.g.getV64 (cc.toNat + 2) l, c.g.getV64 cc.toNat l)
        else ((c.g.getV (cc.toNat + 1) l).setWidth 64, (c.g.getV cc.toNat l).setWidth 64))
    else (c.g.src false w64 cc l, 0)
  let give (w64 : Bool) (d : Option Reg) (rs : List (AtLane × Option W64)) : List RegWrite := match d with
    | some d => rs.flatMap (fun r => destW false w64 d r.1.lane (r.2.getD 0))
    | none => []
  let failed (cas : Bool) (rs : List (AtLane × Option W64)) : Bool := cas && rs.any (fun r => r.2 != some r.1.cmp)
  -- a global atomic that is performed at issue
  let now (i : Instr) (op : AtOp) (cas w64 : Bool) (sc : Scope) (ord : Ord4) (d : Option Reg) (a : SReg) (b cc : Reg) : Prop :=
    ∀ ls s2 rs, Issues s h i.uses 1 c → c.act ≠ 0 → Mapped s c.g.core c.g.ctx .rw (n w64) (c.lanesAt a b 0) ls → c.g.fifo = [] →
      ∀ s1, Releases s c (ord == .rel || ord == .ar) sc s1 →
      let lines := if sc = .team then bankLines ((ls.filter (fun x => x.e.cp != 2)).map (·.ca)) else []
      s1.bankFull c.g.core lines = none →
      s1.atomLanes c.g.core c.g.ctx sc op w64 (ls.map (fun x =>
        ⟨x.lane, x.va, x.ca, x.e.attr, (arg cas w64 cc x.lane).1, (arg cas w64 cc x.lane).2⟩)) = (s2, rs) →
      ∀ u, s1.pass s2 false = .ok u →
      ((∀ r ∈ rs, r.2.isSome) →
        ∃ t g', exec i s = .next t ∧ OnlyMemory s t c 1 [] g' ∧ MemResult s c i.uses lines (failed cas rs) (give w64 d rs) g'
          ∧ ∀ k a, t.homeByte k a = s2.homeByte k a)
      ∧ ∀ pre r post, rs = pre ++ r :: post → (∀ y ∈ pre, y.2.isSome) → r.2 = none →
        exec i s = .next (u.raise c.gid c.idx ⟨fcMemory, 0, r.1.va, r.1.lane⟩ c.sp.pc)
  -- a scratchpad atomic
  let scr (i : Instr) (op : AtOp) (cas : Bool) : Prop :=
    ∀ tm tm' rs, Issues s h i.uses 1 c → c.act ≠ 0 → s.team c.g.tid = some tm → c.g.fifo = [] →
      ((o.ord = .rel ∨ o.ord = .ar) → s.mayRelease c .team) →
      (∀ x ∈ c.lanesAt o.a o.b 0, x.2.toNat % n o.w64 = 0 ∧ x.2.toNat + n o.w64 ≤ tm.scratch * 1024) →
      let at_ (x : Nat × W64) : Nat := if swz then swizzle tm.tswz x.2.toNat else x.2.toNat
      let lines := ((c.lanesAt o.a o.b 0).map (fun x => (tm.base + at_ x) / 32)).dedup
      s.bankFull c.g.core lines = none →
      tm.atomLanes op o.w64 ((c.lanesAt o.a o.b 0).map (fun x =>
        ⟨x.1, x.2, at_ x, ⟨0, 0, false⟩, (arg cas o.w64 o.c x.1).1, (arg cas o.w64 o.c x.1).2⟩)) = (tm', rs) →
      (∀ r ∈ rs, r.2.isSome) →
      ∃ t g', exec i s = .next t ∧ t.teams = (s.setTeam c.g.tid tm').teams
        ∧ OnlyMemory { s with teams := (s.setTeam c.g.tid tm').teams } t c 1 [] g'
        ∧ MemResult s c i.uses lines (failed cas rs) (give o.w64 (some o.d) rs) g' ∧ ∀ k a, t.homeByte k a = s.homeByte k a
  now (.atom h op o) (.int op) false o.w64 o.sc o.ord (some o.d) o.a o.b o.c
  ∧ now (.atomf h fmt fop o.sc o.ord o.d o.a o.b o.c) (.fp fmt fop) false false o.sc o.ord (some o.d) o.a o.b o.c
  ∧ now (.cas h o) .cas true o.w64 o.sc o.ord (some o.d) o.a o.b o.c
  ∧ (o.ord = .acq ∨ o.ord = .ar → now (.red h op o.w64 o.sc o.ord o.a o.b o.c) (.int op) false o.w64 o.sc o.ord none o.a o.b o.c)
  ∧ (o.ord = .acq ∨ o.ord = .ar → now (.redf h fmt fop o.sc o.ord o.a o.b o.c) (.fp fmt fop) false false o.sc o.ord none o.a o.b o.c)
  ∧ scr (.atoms h sop o.w64 swz o.ord o.d o.a o.b o.c) (match sop with
      | .int p => .int p
      | .fp p => .fp .f32 p) false
  ∧ scr (.cass h o.w64 swz o.ord o.d o.a o.b o.c) .cas true

/-- R268, R269: `RED` and `REDF` with `.rlx` or `.rel` enter the FIFO over the words that are not poisoned at the place of the
reduction, or whose mark an older store may yet clear (log 21), and change no memory at issue but what a release writes back; with
another poisoned one the lowest such lane faults precisely, and the others stand. -/
def Claim.QueuedReductions : Prop := ∀ (h : Hdr) (op : AOp) (fmt : AFmt) (fop : FRedOp) (w64 : Bool) (sc : Scope) (ord : Ord4)
    (a : SReg) (b cc : Reg) (s : State) (c : Ctx) (ls : List LaneAt), ord = .rlx ∨ ord = .rel →
  let queued (i : Instr) (op : AtOp) (w64 : Bool) : Prop :=
    Issues s h i.uses 1 c → c.act ≠ 0 → Mapped s c.g.core c.g.ctx .rw (if w64 then 8 else 4) (c.lanesAt a b 0) ls →
      ∀ s1, Releases s c (ord == .rel) sc s1 →
      let bad (x : LaneAt) : Bool := s1.placePoison c.g.core c.g.ctx x.e.attr sc x.ca && !s1.mayClear c.g sc x
      let entry (xs : List LaneAt) : FifoE := .red op w64 sc ⟨c.idx, c.sp.pc⟩ (s1.via xs)
        (xs.map (fun x => ⟨x.lane, x.va, x.ca, x.e.attr, c.g.src false w64 cc x.lane, 0⟩))
      ((∀ x ∈ ls, bad x = false) → ∃ t g', exec i s = .next t ∧ OnlyMemory s t c 1 [entry ls] g'
        ∧ SameRegs c.g g' ∧ g'.pend = c.g.pend ∧ HomeKept s t c.g.core ∧ (ord = .rlx → t.OnlyIssue s))
      ∧ ∀ pre x post, ls = pre ++ x :: post → (∀ y ∈ pre, bad y = false) → bad x = true →
        let ok := ls.filter (fun y => !bad y)
        exec i s = .next ((if ok = [] then s1 else s1.enqueue c.gid [entry ok]).raise c.gid c.idx ⟨fcMemory, 0, x.va, x.lane⟩ c.sp.pc)
  queued (.red h op w64 sc ord a b cc) (.int op) w64 ∧ queued (.redf h fmt fop sc ord a b cc) (.fp fmt fop) false

/-- R264, R266, R268 to R270, R272: what an atomic does to its word, where it is performed, and how a reduction waits its turn. That
a reduction over a word whose mark an older store may yet clear faults only when it is performed is the model's reading (log 21),
and that the core's own cluster cache then holds no copy of a word updated at home (log 36). -/
def Obligations.AtomicOperations : Prop :=
  Claim.IntegerOperations ∧ Claim.FloatOperations ∧ Claim.AtomicsAtHome ∧ Claim.AtomicsInCaches ∧ Claim.QueuedReductions

/-- R44, R76, R101, R127, R128, R141, R142: a result with no line left to serve and no request open is written, or takes the fault
of the poison it consumed; the head of a bank queue is served and counts for its group and its result; the oldest entry of a FIFO
is performed, unless a bank queue is full or a regulator holds it back: a scratchpad store in the team's banks, a store below L1
at home under its page's key and nowhere else under that key, in this step (log 3), a store in L1 in the line that holds it, a
reduction and a signal as atomics at their places, a signal after its release; poison they consume is a fault at their word
(log 21). Which split takes a fault that is found after its word has issued, and that this split goes back to the word, is the
model's choice (log 35), and so are the bank queue's entries that belong to no group (log 28). -/
def Obligations.MemorySteps : Prop := ∀ s : State,
  let u := s.ev.unit
  let pop (rest : List FifoE) : State := s.updGrp u (fun g => { g with fifo := rest })
  let core (g : Group) : CoreSt := s.core g.core
  let runs (g : Group) (e : FifoE) (rest : List FifoE) : Prop := s.grp u = some g ∧ g.fifo = e :: rest ∧ g.sleeping = false
  -- what the step does with the state `t` that performing leaves, and `done` of the state in which it goes on
  let settles (g : Group) (lines : List Nat) (t : State) (done : State → Prop) : Prop :=
    ((s.bankFull g.core lines).isSome = true → exec .storePerform s = .next s)
    ∧ (s.bankFull g.core lines = none → ∀ v, s.pass t false = .error v → exec .storePerform s = .next v)
    ∧ (s.bankFull g.core lines = none → ∀ v, s.pass t false = .ok v → done v)
  let done (g : Group) (rest : List FifoE) (t : State) : Prop := exec .storePerform s = .next t
    ∧ ∃ g', t.grp u = some g' ∧ g'.fifo = rest ∧ SameRegs g g'
  let atoms (g : Group) (s1 : State) (sc : Scope) (op : AtOp) (w64 : Bool) (w : From) (xs : List AtLane) : Prop :=
    ∀ s2 rs, s1.atomLanes g.core g.ctx sc op w64 xs = (s2, rs) →
    let lines := bankLines ((xs.filter (fun x => atomInL1 sc x.attr.cp)).map (·.addr))
    ((∀ r ∈ rs, r.2.isSome) → settles g lines s2 (fun v => exec .storePerform s = .next (v.bankEnter g.core u none lines)))
    ∧ ∀ pre r post, rs = pre ++ r :: post → (∀ y ∈ pre, y.2.isSome) → r.2 = none →
      let late := s2.raiseLate u w.split ⟨fcMemory, 0, r.1.va, r.1.lane⟩ w.pc
      (late = none → exec .storePerform s = .next s)
      ∧ ∀ t, late = some t → settles g lines t (fun v => exec .storePerform s = .next ((v.bankEnter g.core u none lines).quiet u))
  (∀ g p, s.grp u = some g → g.pend.find? (fun p => p.id == s.ev.idx) = some p →
    let open_ : Prop := p.lines ≠ 0 ∨ s.remotes.any (fun e => e.2.gid == u && e.2.pend == some p.id) = true ∨ s.requestsOpen p.tick = true
    let g0 : Group := { g with pend := g.pend.filter (fun x => x.id != s.ev.idx) }
    (open_ → exec .longLatencyResult s = .next s)
    ∧ (¬ open_ → p.bad = none → g.sleeping = false → ∃ t g', exec .longLatencyResult s = .next t ∧ t = s.setGrp u g'
        ∧ SameRegs (g.writes p.writes) g' ∧ g'.pend = g0.pend
        ∧ (p.demote = true → ∀ x, g.split? p.split = some x → ∃ x', g'.split? p.split = some x' ∧ x' = { x with demote := true }))
    ∧ (¬ open_ → ∀ f, p.bad = some f → exec .longLatencyResult s = .next (((s.setGrp u g0).raiseLate u p.split f p.pc).getD s)))
  ∧ (∀ r rest, (s.core u).bankq.get [] s.ev.idx = r :: rest → ∃ t, exec .bankQueueServe s = .next t
    ∧ (r.gid = none → (t.core u).bankq.get [] s.ev.idx = rest ∧ t = { s with cores := t.cores })
    ∧ ∀ gid g, r.gid = some gid → s.grp gid = some g → g.sleeping = false → (t.core u).bankq.get [] s.ev.idx = rest
      ∧ ∃ g', t.grp gid = some g' ∧ g' = { g with cc := g.cc - 1, pend := g'.pend }
      ∧ (∀ p, r.pend = some p.id → p ∈ g.pend → (∀ q ∈ g.pend, q.id = p.id → q = p) → { p with lines := p.lines - 1 } ∈ g'.pend)
      ∧ (∀ p ∈ g.pend, r.pend ≠ some p.id → p ∈ g'.pend) ∧ t.mem = s.mem)
  ∧ (∀ g tm bs rest, runs g (.scratch bs) rest → s.team g.tid = some tm →
    let lines := (bs.map (fun b => tm.line b.addr)).dedup
    ((s.bankFull g.core lines).isSome = true → exec .storePerform s = .next s)
    ∧ (s.bankFull g.core lines = none → (bs.map (·.addr)).Nodup → ∃ t tm', done g rest t
      ∧ t.team g.tid = some tm' ∧ (∀ b ∈ bs, tm'.sram.get 0 b.addr = b.b)
      ∧ (∀ a, a ∉ bs.map (·.addr) → tm'.sram.get 0 a = tm.sram.get 0 a) ∧ t.mem = s.mem))
  ∧ (∀ g sc nol1 at_ via bs rest, runs g (.global sc nol1 at_ via bs) rest →
    let s1 := (pop rest).l1Store g.core g.ctx at_ sc nol1 (bs.map (fun b => (b.addr, b.b)))
    let lines := s.storeLines g.core g.ctx at_ sc nol1 (bs.map (·.addr))
    let below : Prop := at_.cp = 2 ∨ nol1 = true ∨ (sc ≠ .team ∧ s.ctxCompat g.ctx = false)
    settles g lines s1 (fun _ => ∃ t, done g rest t
      ∧ (∀ k a, (∀ b ∈ bs, b.addr / 64 ≠ a / 64) → (∀ l ∈ (core g).lines, ∀ p ∈ l.dirtyBytes, p.1 / 64 ≠ a / 64) →
          t.homeByte k a = s.homeByte k a)
      ∧ (below → (bs.map (·.addr)).Nodup → (∀ b ∈ bs, (core g).findLine (b.addr / 128) = none) →
        (∀ b ∈ bs, t.homeByte at_.key b.addr = b.b)
        ∧ (∀ a, a ∉ bs.map (·.addr) → t.homeByte at_.key a = s.homeByte at_.key a)
        ∧ ∀ k a, (∀ b ∈ bs, b.addr / 64 ≠ a / 64) → t.homeByte k a = s.homeByte k a)
      ∧ (∀ line l, ¬ below → (∀ b ∈ bs, b.addr / 128 = line) → (bs.map (·.addr)).Nodup → bs ≠ [] →
        (core g).findLine line = some l → l.slot = g.ctx → l.key = at_.key → ∃ l', (t.core g.core).findLine line = some l'
          ∧ (∀ b ∈ bs, lineByte l'.data (b.addr % 128) = b.b ∧ l'.dirty.getLsbD (b.addr % 128) = true)
          ∧ (∀ j, j < 128 → 128 * line + j ∉ bs.map (·.addr) →
              lineByte l'.data j = lineByte l.data j ∧ l'.dirty.getLsbD j = l.dirty.getLsbD j)
          ∧ SameHome s t)))
  ∧ (∀ g op w64 sc w via xs rest, runs g (.red op w64 sc w via xs) rest → atoms g (pop rest) sc op w64 w xs)
  ∧ (∀ g sc k w via x rest, runs g (.signal sc k w via x) rest →
    (g.cc ≠ 0 ∨ (sc = .system ∧ s.remoteOpen u = true) → exec .storePerform s = .next s)
    ∧ (g.cc = 0 → (sc = .system → s.remoteOpen u = false) → atoms g ((pop rest).release g sc) sc (match k with
        | some _ => .int .add
        | none => .int .exch) true w [{ x with v := k.getD 1 }]))

-- ## Words that act once (02_instruction_words.md), engine commands (07_copy_engines.md, 17_fabric.md)

/-- R31, R50, R471: a word that acts once, on memory or on a unit, does nothing where no lane participates: it completes, and
leaves every register and all of memory as they were; a limit of its encoding (a tile, a list of groups) and a format that `ACCQ`
may not name still fault. -/
def Claim.MaskedWords : Prop :=
  (∀ (i : Instr) (h : Hdr) (s : State) (c : Ctx), i.guarded = some h → ¬ s.overLimit c i →
    Issues s h i.uses 1 c → c.act = 0 → Completes i s c 1 .long i.uses false [])
  ∧ (∀ (i : Instr) (h : Hdr) (s : State) (c : Ctx), i.hdr? = some h → s.ctx? h = some c → s.overLimit c i → FaultsAt i s c fcOperand 0 0 0)
  ∧ ∀ (h : Hdr) (df : BitVec 4) (bl16 gl : Bool) (rm : RM) (tile : BitVec 4) (a b cc : SReg) (s : State) (c : Ctx),
    let i : Instr := .accq h df bl16 rm gl tile a b cc
    Issues s h i.uses 1 c → c.act = 0 → Checks i s c
      [ (s.overLimit c i, fcOperand, 0, 0, 0), (df.toNat ∉ [0, 1, 3, 4, 5] ∨ (bl16 = true ∧ df.toNat ≠ 5), fcFormat, 0, 0, 0) ]
      (Completes i s c 1 .long i.uses false [])

/-- R104, R106 to R108, R112, R369: `CPY` checks its control word, shape, overlap and hulls in order, and `OFFL` and `RTRN` their
operands; then the command joins the queue of the core's engine. That `OFFL.np` and `RTRN.np` check and read the device number of
`Sctl` as the others do is the model's reading (log 18). -/
def Obligations.CopyCommands : Prop := ∀ (h : Hdr) (dir : CpyDir) (np : Bool) (dst src ctl loc rem len : SReg) (shp : BitVec 3)
    (s : State) (c : Ctx), c.act ≠ 0 →
  let lane := lowLane c.act
  let w := c.g.getS ctl.toNat
  let d := c.g.getD shp.toNat
  let f (lo n : Nat) : Nat := (d.extractLsb' lo n).toNat
  let ph := if np then 0 else w.toNat
  let size := (f 48 16 + 1) * (f 24 20 + 1)
  let sa := c.g.getS src.toNat
  let da := c.g.getS dst.toNat
  let sEnd := sa.toNat + (f 48 16 * f 96 32 + f 24 20)
  let dEnd := da.toNat + (f 48 16 * f 64 32 + f 24 20)
  let sg := dir = .g2s ∨ dir = .g2g
  let dg := dir = .s2g ∨ dir = .g2g
  let i : Instr := .cpy h dir np dst src shp ctl
  (∀ tm, s.team c.g.tid = some tm → Issues s h i.uses 1 c → Checks i s c
    [ (2 ^ 16 ≤ ph ∨ f 44 4 ≠ 0 ∨ f 17 7 ≠ 0 ∨ f 0 16 ≠ 0 ∨ 2 ^ 32 ≤ size, fcOperand, 0, 0, 0),
      ((sg ↔ dg) ∧ sa.toNat ≤ dEnd ∧ da.toNat ≤ sEnd, fcOperand, 0, 0, 0),
      (sg ∧ 2 ^ 52 ≤ sEnd, fcTranslation, 1, sa, lane), (dg ∧ 2 ^ 52 ≤ dEnd, fcTranslation, 1, da, lane),
      (¬ sg ∧ tm.scratch * 1024 ≤ sEnd, fcProtection, 8, sa, lane), (¬ dg ∧ tm.scratch * 1024 ≤ dEnd, fcProtection, 9, da, lane) ]
    (CopyQueued i s c (if dir = .s2s then .team else .device) (.cpy dir da sa d) np ph tm.tswz))
  ∧ (let la := c.g.getS loc.toNat
    let ra := c.g.getS rem.toNat
    let n := c.g.getS len.toNat
    let word (i : Instr) (op : CopyOp) : Prop := Issues s h i.uses 1 c → Checks i s c
      [ (2 ^ 32 ≤ w.toNat ∨ n = 0 ∨ n.toNat % 65536 ≠ 0 ∨ la.toNat % 65536 ≠ 0 ∨ ra.toNat % 65536 ≠ 0, fcOperand, 0, 0, 0),
        (2 ^ 52 ≤ ra.toNat, fcOperand, 0, 0, 0), (2 ^ 52 < la.toNat + n.toNat, fcTranslation, 1, la, lane) ]
      (CopyQueued i s c .device op np (fld w 15 0) 0)
    word (.offl h np loc rem len ctl) (.offl la ra n (fld w 31 16)) ∧ word (.rtrn h np loc rem len ctl) (.rtrn la ra n (fld w 31 16)))
  ∧ (s.present (.engine (4 * (c.g.core / 80) + c.g.core % 4)) = true →
    s.copyEngine (4 * (c.g.core / 80) + c.g.core % 4) = some (4 * (c.g.core / 80) + c.g.core % 4))

/-- R279 to R286, R369: the remote transfers, the queue append, the remote atomic and the starts of fabric programs: checks in
their order, then the command joins its queue. That `APPEND` and `RATOM` check their operands at issue is the model's reading
(log 25), and that behind an acquiring `RATOM` no split of its group goes on before its result is written (log 17). -/
def Obligations.FabricCommands : Prop := ∀ (h : Hdr) (m : RMods) (sop : StwsOp) (np : Bool) (r l len ctl a : SReg) (op : RAOp) (w64 : Bool)
    (ord : Ord4) (d b cc : Reg) (ab : SReg) (s : State) (c : Ctx), c.act ≠ 0 →
  let lane := lowLane c.act
  let w := c.g.getS ctl.toNat
  let block (i : Instr) (fa : Option W64) (op : RemoteOp) : Prop :=
    let ra := c.g.getS r.toNat
    let la := c.g.getS l.toNat
    let n := c.g.getS len.toNat
    let ca := c.g.getS (ctl.toNat + 1)
    Issues s h i.uses 1 c → Checks i s c
      [ (n = 0 ∨ 2 ^ 32 ≤ n.toNat ∨ 2 ^ 52 ≤ ra.toNat ∨ (∃ x, fa = some x ∧ 2 ^ 52 ≤ x.toNat) ∨ (m.trig = false ∧ 2 ^ 32 ≤ w.toNat),
          fcOperand, 0, 0, 0),
        ((fa.getD 0).toNat % 8 ≠ 0, fcMisaligned, 0, fa.getD 0, lane), (m.trig = true ∧ ca.toNat % 8 ≠ 0, fcMisaligned, 0, ca, lane),
        (2 ^ 52 < la.toNat + n.toNat, fcTranslation, 1, la, lane) ]
      (RemoteQueued i s c .device (remoteCmd op (fld w 31 16) m.np (fld w 15 0) m.rod
        (if m.trig then some (BitVec.ofNat 64 (fld w 63 32), ca) else none) n.toNat) false false)
  let ra := c.g.getS r.toNat
  let la := c.g.getS l.toNat
  let n := c.g.getS len.toNat
  let fa := c.g.getS (len.toNat + 1)
  block (.putr h m r l len ctl) none (.put ra la n none)
  ∧ block (.getr h m r l len ctl) none (.get ra la n)
  ∧ block (.puts h sop m r l len ctl) (some fa) (.put ra la n (some (sop, fa)))
  ∧ (let i : Instr := .append h d a b
    let ha := c.g.getS a.toNat
    let dev := c.g.getS (a.toNat + 1)
    let ls := (laneList c.act).map (fun l => (l, c.g.getV64 b.toNat l))
    Issues s h i.uses 1 c → Checks i s c
      [ (2 ^ 16 ≤ dev.toNat ∨ 2 ^ 52 ≤ ha.toNat, fcOperand, 0, 0, 0), (ha.toNat % 32 ≠ 0, fcMisaligned, 0, ha, lane) ]
      ((∀ pre x post, ls = pre ++ x :: post → (∀ y ∈ pre, y.2.toNat < 2 ^ 52) → 2 ^ 52 ≤ x.2.toNat →
          FaultsAt i s c fcTranslation 1 x.2 x.1)
        ∧ ((∀ x ∈ ls, x.2.toNat < 2 ^ 52) →
          RemoteQueued i s c .device (remoteCmd (.append ha ls) dev.toNat true 0 false none ls.length) true false)))
  ∧ (let i : Instr := .ratom h op w64 ord d a b cc
    let as := c.lanesAt a b 0
    let val (l : Nat) : W64 × W64 := match op with
      | .int _ => (c.g.src false w64 cc l, 0)
      | .cas =>
        if w64 then (c.g.getV64 (cc.toNat + 2) l, c.g.getV64 cc.toNat l)
        else ((c.g.getV (cc.toNat + 1) l).setWidth 64, (c.g.getV cc.toNat l).setWidth 64)
    Issues s h i.uses 1 c →
      (∀ pre x post, as = pre ++ x :: post → (∀ y ∈ pre, y.2.toNat % (if w64 then 8 else 4) = 0) →
        x.2.toNat % (if w64 then 8 else 4) ≠ 0 → FaultsAt i s c fcMisaligned 0 x.2 x.1)
      ∧ (∀ pre x post, (∀ x ∈ as, x.2.toNat % (if w64 then 8 else 4) = 0) → as = pre ++ x :: post → (∀ y ∈ pre, y.2.toNat < 2 ^ 52) →
        2 ^ 52 ≤ x.2.toNat → FaultsAt i s c fcTranslation 1 x.2 x.1)
      ∧ ((∀ x ∈ as, x.2.toNat % (if w64 then 8 else 4) = 0 ∧ x.2.toNat < 2 ^ 52) →
        RemoteQueued i s c (if ord = .rel ∨ ord = .ar then .system else .device)
          (remoteCmd (.ratom op w64 ord (as.map (fun x => (x.1, x.2, (val x.1).1, (val x.1).2)))) (fld (c.g.getS (a.toNat + 1)) 15 0)
            true 0 false none as.length) true (ord == .acq || ord == .ar)))
  ∧ (let p := fld w 19 16
    let start (i : Instr) (align : Nat) (k : FxStart) : Prop := Issues s h i.uses 1 c → Checks i s c
      [ (2 ^ 20 ≤ w.toNat ∨ s.present (.fx p) = false, fcOperand, 0, 0, 0),
        ((c.g.getS a.toNat).toNat % align ≠ 0, fcMisaligned, 0, c.g.getS a.toNat, lane) ]
      (FxQueued i s c p k)
    let va := c.g.getS a.toNat
    let gen := s.ctxGen.get 0 c.g.ctx
    start (.coll h np a ab ctl) 8
      ⟨c.g.ctx, gen, va, c.g.getS ab.toNat, none, .group c.gid, some c.g.tid, c.sp.pc, c.g.cmdseq + 1, np, fld w 15 0⟩
    ∧ start (.layx h np a ctl) 128 ⟨c.g.ctx, gen, 0, 0, some va, .group c.gid, some c.g.tid, c.sp.pc, c.g.cmdseq + 1, np, fld w 15 0⟩)

-- ## The matrix engine (15_matrix_engine.md)

/-- R248, R249, R252, R253, R256 to R258, R260: the words of the matrix engine: gangs, commands and their checks in order, batches,
tile reads, and `SHAPE`. An `MMA` of a gang waits in the latch until every listed group has one; then entries that agree become
one command, and others are discarded, each with a `GANG_MISMATCH` for its group. `MWAIT` waits at its word, raises a fault of the
batches it awaits, and acquires what their `ACCQ`s wrote. The address that a misaligned or overlong operand reports is the model's choice (log 22). -/
def Obligations.MatrixWords : Prop := ∀ (h : Hdr) (imm : W32) (za gl bl16 : Bool) (tile : BitVec 4) (rc nr : BitVec 3) (df : BitVec 4)
    (rm : RM) (bb shp sf a b cc d : SReg) (v : Reg) (s : State) (c : Ctx) (tm : Team), s.team c.g.tid = some tm → c.act ≠ 0 →
  let gang (i : Instr) (imm : W32) : Prop := Issues s h i.uses 1 c → Checks i s c
    [ (imm ≠ 0 ∧ ((∃ k ∈ gangList imm, tm.teamg ≤ k) ∨ c.g.gi ∉ gangList imm), fcOperand, 0, 0, 0) ]
    ((c.g.latch.isSome = true → Stalls i s c .latch)
      ∧ (c.g.latch = none → ∃ t g', exec i s = .next t ∧ OnlyOwn s t c g' ∧ SameRegs c.g g' ∧ g'.pend = c.g.pend
        ∧ g' = Group.booked { c.g with gang := imm } g'))
  let w := c.g.getS b.toNat
  let r := fld w 5 0
  let c0 := fld w 14 8
  let n := nr.toNat + 1
  let badRC : Prop := w.extractLsb' 6 2 ≠ 0 ∨ w.extractLsb' 15 49 ≠ 0 ∨ tm.acc ≤ tile.toNat ∨ 64 < r + n ∨ 128 < c0 + c.g.width
  gang (.gang h imm) imm ∧ gang (.gangClr h) 0
  ∧ (let i : Instr := .mma h za tile rc bb shp sf
    let x := c.g.getS shp.toNat
    let e : Latch := ⟨s.nextId, c.sp.pc, c.g.cmdseq + 1, tm.tswz, za, tile.toNat, c.g.gang, (c.g.getS bb.toNat).toNat, fld x 6 0,
      fld x 15 8, fld x 29 16, c.g.getS sf.toNat, c.g.getS (sf.toNat + 1), c.g.getD rc.toNat⟩
    Issues s h i.uses 1 c → Checks i s c
      ([ (e.illegal x tm.acc = true, fcOperand, 0, 0, 0), (e.badFormat = true, fcFormat, 0, 0, 0),
         -- the address that a fault names is the base of the operand (log 22)
         ((c.g.getS bb.toNat).toNat % 32 ≠ 0, fcMisaligned, 0, c.g.getS bb.toNat, 0),
         (e.misaligned = true, fcMisaligned, 0, BitVec.ofNat 64 (Unfold.of e.rcd).xb, 0) ]
        ++ e.hulls.map (fun y => (tm.scratch * 1024 < y.2, fcProtection, 8, BitVec.ofNat 64 y.1, 0)))
      ((c.g.latch.isSome = true → Stalls i s c .latch)
        ∧ (c.g.latch = none → c.g.drained = false → Stalls i s c .fifoEmpty)
        ∧ (c.g.latch = none → c.g.gang.toNat % 8 = 0 → MatrixQueued i s c tm (.mma [⟨c.gid, 0, e⟩]))
        ∧ (c.g.latch = none → c.g.gang.toNat % 8 ≠ 0 → c.g.drained = true → s.groupOf c.g.tid c.g.gi = some c.gid →
          c.g.gi ∈ gangList c.g.gang → (∀ j g x, s.grp j = some g → g.tid = c.g.tid → g.latch = some x → x.list = c.g.gang ∧ g.gi ∈ gangList c.g.gang) →
          -- some listed group has issued no `MMA`: the entry waits
          ((∀ k ∈ gangList c.g.gang, (s.groupOf c.g.tid k).isSome) →
            (∃ k ∈ gangList c.g.gang, k ≠ c.g.gi ∧ ∃ j g, s.groupOf c.g.tid k = some j ∧ s.grp j = some g ∧ g.latch = none) →
            ∃ t g', exec i s = .next t ∧ OnlyOwn s t c g' ∧ SameRegs c.g g' ∧ g'.pend = c.g.pend ∧ g' = Group.booked { c.g with
              latch := some e, cmdseq := c.g.cmdseq + 1, openCmds := c.g.openCmds ++ [s.nextId], openCnt := c.g.openCnt + 1 } g')
          -- every listed group has, and the entries agree: one command
          ∧ (∀ ms : List (Nat × Latch), (gangList c.g.gang).map (s.groupOf c.g.tid) = ms.map (fun m => some m.1) →
            (∀ m ∈ ms, (m.1 = c.gid ∧ m.2 = e) ∨ (m.1 ≠ c.gid ∧ ∃ g, s.grp m.1 = some g ∧ g.tid = c.g.tid ∧ g.latch = some m.2)) →
            (∀ m ∈ ms, m.2.n = e.n ∧ m.2.k = e.k ∧ m.2.bb = e.bb ∧ m.2.sf0 = e.sf0 ∧ m.2.tswz = e.tswz) →
            (ms.map (fun m => m.2.tile)).Nodup → (∀ j g x, s.grp j = some g → g.tid = c.g.tid → g.latch = some x → (j, x) ∈ ms) →
            ∃ t id, exec i s = .next t ∧ (∀ m ∈ ms, ∃ g, t.grp m.1 = some g ∧ g.latch = none)
              ∧ (∃ q, t.mcmds.find? id = some q ∧ q.core = c.g.core ∧ q.tid = c.g.tid ∧ q.op = .mma (ms.map (fun m => (⟨m.1, 0, m.2⟩ : MMember))))
              ∧ (∀ j, j ≠ id → t.mcmds.find? j = s.mcmds.find? j) ∧ SameHome s t)
          -- every listed group has, and the entries differ: all are discarded
          ∧ (∀ ms : List (Nat × Latch), (gangList c.g.gang).map (s.groupOf c.g.tid) = ms.map (fun m => some m.1) →
            (∀ m ∈ ms, (m.1 = c.gid ∧ m.2 = e) ∨ (m.1 ≠ c.gid ∧ ∃ g, s.grp m.1 = some g ∧ g.tid = c.g.tid ∧ g.latch = some m.2)) →
            ¬ ((∀ m ∈ ms, m.2.n = e.n ∧ m.2.k = e.k ∧ m.2.bb = e.bb ∧ m.2.sf0 = e.sf0 ∧ m.2.tswz = e.tswz) ∧ (ms.map (fun m => m.2.tile)).Nodup) →
            (∀ j g x, s.grp j = some g → g.tid = c.g.tid → g.latch = some x → (j, x) ∈ ms) →
            (∀ m ∈ ms, ∀ g, s.grp m.1 = some g → g.pendq.length < 8) →
            ∃ t, exec i s = .next t ∧ t.mcmds = s.mcmds ∧ SameHome s t
              ∧ ∀ m ∈ ms, ∀ g, s.grp m.1 = some g → ∃ g' q, t.grp m.1 = some g' ∧ g'.latch = none
                ∧ g'.pendq = g.pendq ++ [⟨fcGang, 0, 0, m.2.site, m.2.seq, .matrix m.2.tile q⟩]))))
  ∧ (let i : Instr := .mfence h d
    Issues s h i.uses 1 c → (8 ≤ c.g.batches.length → Stalls i s c .batches)
      ∧ (c.g.batches.length < 8 → ∃ t g', exec i s = .next t ∧ OnlyOwn s t c g'
        ∧ Results s c .long i.uses false [.s d.toNat (BitVec.ofNat 64 (c.g.nextBatch % 16))] g'
        ∧ g' = Group.booked { c.g with
            batches := (c.g.batches ++ [(⟨c.g.nextBatch, c.g.openCmds⟩ : Batch)]).dropWhile (fun x => x.cmds.isEmpty), openCmds := [], openCnt := 0
            nextBatch := c.g.nextBatch + 1
            qwrites := c.g.qwrites.map (fun q => { q with batch := some (q.batch.getD c.g.nextBatch) })
            pendq := c.g.pendq.map (fun f => match f.kind with
              | .matrix t none => { f with kind := .matrix t (some c.g.nextBatch) }
              | _ => f) } g'))
  ∧ (let acquired (t : State) (q : QWrite) : Prop := ∀ x ∈ q.sectors,
        (∀ l ∈ (t.core c.g.core).lines, l.slot = c.g.ctx → l.line = x / 4 → l.valid.getLsbD (x % 4) = false)
        ∧ ∀ l ∈ (t.clus (c.g.core / 16)).lines, l.line ≠ x / 4
    -- a fault of a command that the word depends on, or a `MATRIX_RESET`, makes it take the oldest that is pending; a `MATRIX_RESET` that
    -- has no name then names the word
    let faults (i : Instr) : Prop := Delivers i s c (s.takeReset c.gid c.sp.pc)
    let mwait (i : Instr) (upTo : Nat) : Prop := Issues s h [] 1 c →
      (c.g.matrixFault (.before upTo) = true → faults i)
      ∧ (c.g.matrixFault (.before upTo) = false → (∃ x ∈ c.g.batches, x.num < upTo) → Pauses i s c (.waiting (.matrix upTo)))
      ∧ (c.g.matrixFault (.before upTo) = false → (∀ x ∈ c.g.batches, upTo ≤ x.num) →
        ∃ t g', exec i s = .next t ∧ OnlyCaches s t c g' ∧ SameRegs c.g g' ∧ g'.pend = c.g.pend
        ∧ SameHome s t ∧ g' = Group.booked { c.g with qwrites := c.g.qwrites.filter (fun q => !q.batch.any (fun k => decide (k < upTo))) } g'
        ∧ ∀ q ∈ c.g.qwrites, (∃ k, q.batch = some k ∧ k < upTo) → acquired t q)
    (∀ k : BitVec 4,
      ((∀ q, q < c.g.nextBatch → q % 16 ≠ k.toNat) → mwait (.mwait h k) 0)
      ∧ ∀ q, q < c.g.nextBatch → c.g.nextBatch ≤ q + 16 → q % 16 = k.toNat → mwait (.mwait h k) (q + 1))
    ∧ mwait (.mwaitAll h) c.g.nextBatch
    ∧ (∀ d, c.g.matrixFault d = true ↔ c.g.hm = false ∧ ∃ f ∈ c.g.pendq, (∃ named, f.kind = .reset named)
        ∨ ∃ t b, f.kind = .matrix t b ∧ ((∃ n k, d = .before n ∧ b = some k ∧ k < n) ∨ d = .tile t))
    ∧ (∀ g pc, s.grp c.gid = some g → ∃ g', (s.takeReset c.gid pc).grp c.gid = some g'
      ∧ (g.pendq = [] → g' = g)
      ∧ ∀ f q, g.pendq = f :: q → ((∀ named, f.kind ≠ .reset named) → g' = g)
        ∧ ∀ named, f.kind = .reset named → g' = { g with pendq := { f with
            site := if named then f.site else pc, seq := if named then f.seq else g.cmdseq, kind := .matrix 16 none } :: q })
    ∧ (let i : Instr := .accrd h nr v tile b
      Issues s h i.uses 1 c → Checks i s c [ (badRC, fcOperand, 0, 0, 0) ]
        ((c.g.matrixFault (.tile tile.toNat) = true → faults i)
        ∧ (c.g.matrixFault (.tile tile.toNat) = false → (s.tileBusy c.g tile.toNat = true → Stalls i s c (.tile tile.toNat))
        ∧ (s.tileBusy c.g tile.toNat = false → ∃ t g', exec i s = .next t ∧ OnlyCaches s t c g' ∧ SameHome s t ∧ g' = Group.booked c.g g'
          ∧ Results s c .long i.uses false ((laneList c.act).flatMap (fun l =>
              (List.range n).map (fun j => .v (v.toNat + j) l (tm.tiles.get 0 (tile.toNat * 8192 + (r + j) * 128 + (c0 + l)))))) g'
          ∧ ∀ q ∈ c.g.qwrites, q.tile = tile.toNat → acquired t q)))))
  ∧ (Issues s h [] 1 c → Checks (.accz h tile) s c [ (tm.acc ≤ tile.toNat, fcOperand, 0, 0, 0) ]
      (MatrixQueued (.accz h tile) s c tm (.accz tile.toNat)))
  ∧ (let i : Instr := .accwr h nr tile v b
    Issues s h i.uses 1 c → Checks i s c [ (badRC, fcOperand, 0, 0, 0) ]
      (MatrixQueued i s c tm (.accwr tile.toNat r ((laneList c.act).flatMap (fun l =>
        (List.range n).map (fun j => (r + j, c0 + l, c.g.getV (v.toNat + j) l)))))))
  ∧ (let i : Instr := .accq h df bl16 rm gl tile a b cc
    let f := df.toNat
    let x := c.g.getS a.toNat
    let z := if f ≤ 1 then 0 else c.g.getS cc.toNat
    let rows := fld w 37 32 + 1
    let cols := fld w 46 40 + 1
    let es := if f = 0 then 4 else if f = 1 then 2 else 1
    let bl := if bl16 then 16 else 32
    let top := x.toNat + (rows - 1) * fld w 31 0 + cols * es
    let scales := z.toNat + rows * (cols / bl)
    Issues s h i.uses 1 c → Checks i s c
      [ (tm.acc ≤ tile.toNat ∨ w.extractLsb' 38 2 ≠ 0 ∨ w.extractLsb' 47 17 ≠ 0, fcOperand, 0, 0, 0),
        (f ∉ [0, 1, 3, 4, 5] ∨ (bl16 = true ∧ f ≠ 5) ∨ (3 ≤ f ∧ cols % bl ≠ 0), fcFormat, 0, 0, 0),
        (x.toNat % es ≠ 0 ∨ fld w 31 0 % es ≠ 0, fcMisaligned, 0, x, 0), (gl = true ∧ 2 ^ 52 < top, fcTranslation, 1, x, 0),
        (gl = true ∧ 2 ≤ f ∧ 2 ^ 52 < scales, fcTranslation, 1, z, 0), (gl = false ∧ tm.scratch * 1024 < top, fcProtection, 9, x, 0),
        (gl = false ∧ 2 ≤ f ∧ tm.scratch * 1024 < scales, fcProtection, 9, z, 0) ]
      (MatrixQueued i s c tm (.accq f bl16 rm gl tile.toNat x w z)))
  ∧ (Issues s h (Instr.shape h rc a b).uses 1 c →
      Completes (.shape h rc a b) s c 1 .long (Instr.shape h rc a b).uses false [.d rc.toNat (c.g.getS b.toNat ++ c.g.getS a.toNat)])

-- ## Phasers and barriers (22_synchronisation.md)

/-- R360, R361: after an operation a phaser flips when its arrivals and its expected bytes have come, and keeps what the counts of
the phase brought; who observes a phase acquires that of it and of every phase before it. -/
def Claim.PhaserTest : Prop := ∀ p : Phaser,
  let full : Prop := p.pend = 0 ∧ p.exp ≤ p.cnt ∧ (0 < p.memb ∨ 0 < p.exp) ∧ p.flt = none
  (¬ full → p.test = p)
  ∧ (full → p.test = { p with
      phase := p.phase + 1, cnt := p.cnt - p.exp, exp := 0, pend := p.memb
      cur := Wrote.none, past := if p.cur = Wrote.none then p.past else p.past ++ [(p.phase, p.cur)] })
  ∧ ∀ k, (∀ x, x ∈ (p.counted k).secs ↔ ∃ e ∈ p.past, (k - e.1).toNat < 2 ^ 31 ∧ x ∈ e.2.secs)
    ∧ ((p.counted k).all = true ↔ ∃ e ∈ p.past, (k - e.1).toNat < 2 ^ 31 ∧ e.2.all = true)

/-- R358, R359, R362 to R367: the phaser words: checks in order, then join, drop, arrival, expectation and wait; a sleeping
`PHWAIT` that ends; an engine's count and an engine's fault. -/
def Claim.Phasers : Prop := ∀ (h : Hdr) (mode : PhMode) (sc : Scope) (d a b : SReg) (s : State),
  (∀ c : Ctx, c.act ≠ 0 →
    let id := (c.g.getS a.toNat).toNat
    let n := (c.g.getS b.toNat).toNat
    let first : List (Prop × BitVec 8 × Nat × W64 × Nat) :=
      [ (2 ^ 16 ≤ id, fcOperand, 0, 0, 0), (40 ≤ id / 1024 ∨ s.present (.cluster (id / 1024)) = false, fcPhaser, 1, 0, 0),
        (∃ p, s.phaser id = some p ∧ p.owner ≠ c.g.ctx, fcPhaser, 2, 0, 0) ]
    let arrives (m : PhMode) : Prop := m ≠ .wt
    let others (t : State) : Prop := ∀ x, x ≠ id → t.phaser x = s.phaser x
    let p0 := (s.phaser id).getD ⟨c.g.ctx, 0, 0, 0, 0, 0, none, Wrote.none, []⟩
    (Issues s h (Instr.phjoin h mode d a).uses 1 c → Checks (.phjoin h mode d a) s c
      (first ++ [ (∃ m ∈ c.g.members, m.phaser = id, fcPhaser, 3, 0, 0), (8 ≤ c.g.members.length, fcPhaser, 4, 0, 0),
        (arrives mode ∧ 1023 ≤ p0.memb, fcPhaser, 5, 0, 0) ])
      (∃ t g', exec (.phjoin h mode d a) s = .next t ∧ OnlyOwn { s with phasers := t.phasers } t c g'
        ∧ Results s c .long (Instr.phjoin h mode d a).uses false [.s d.toNat (p0.phase.setWidth 64)] g'
        ∧ g' = Group.booked { c.g with members := c.g.members ++ [⟨id, mode, p0.phase⟩] } g' ∧ others t
        ∧ (mode = .wt → t.phaser id = some p0.test)
        ∧ (arrives mode → t.phaser id = some (Phaser.test { p0 with memb := p0.memb + 1, pend := p0.pend + 1 }))))
    ∧ (c.g.member id = none ∨ s.phaser id = none →
        let absent (i : Instr) : Prop := Issues s h i.uses 1 c → Checks i s c first (FaultsAt i s c fcPhaser 3 0 0)
        absent (.phdrop h a) ∧ absent (.pharr h sc d a b) ∧ absent (.phwait h sc d a b) ∧ absent (.phexp h a b))
    ∧ ∀ m p, c.g.member id = some m → s.phaser id = some p →
      (Issues s h (Instr.phdrop h a).uses 1 c → Checks (.phdrop h a) s c first
        (∃ t g', exec (.phdrop h a) s = .next t ∧ OnlyOwn { s with phasers := t.phasers } t c g' ∧ SameRegs c.g g' ∧ g'.pend = c.g.pend
          ∧ g' = Group.booked { c.g with members := c.g.members.filter (fun x => x.phaser != id) } g' ∧ others t
          ∧ t.phaser id = (if t.hasMember id || s.hasWaiter id || s.hasCounter id then some (
              if m.mode = .wt then p
              else Phaser.test { p with memb := p.memb - 1, pend := if m.ap = p.phase then p.pend - 1 else p.pend }) else none)))
      ∧ (let expects (i : Instr) (done : Prop) : Prop := Issues s h i.uses 1 c → Checks i s c
            (first ++ [ (¬ arrives m.mode, fcPhaser, 3, 0, 0), (p.flt ≠ none, fcPhaser, 7, 0, 0) ])
            ((p.phase ≠ m.ap → Stalls i s c (.phase id m.ap))
              ∧ (p.phase = m.ap → Checks i s c [ (2 ^ 48 ≤ p.exp + n, fcPhaser, 6, 0, 0) ] done))
        expects (.pharr h sc d a b) ((s.relReady c.gid c.g sc = false →
            Stalls (.pharr h sc d a b) s c (if sc = .system then .ordered else .fifoEmpty))
          ∧ HeldRelease (.pharr h sc d a b) s c sc
          ∧ (s.mayRelease c sc → ∃ t g', exec (.pharr h sc d a b) s = .next t
            ∧ OnlyCaches { s with phasers := t.phasers } t c g'
            ∧ MemResult s c (Instr.pharr h sc d a b).uses [] false [.s d.toNat (m.ap.setWidth 64)] g' ∧ others t
            ∧ g' = Group.booked { c.g with members := c.g.members.map (fun x => if x.phaser = id then { x with ap := m.ap + 1 } else x) } g'
            ∧ t.phaser id = some (Phaser.test { p with exp := p.exp + n, pend := p.pend - 1 })))
        ∧ expects (.phexp h a b) (∃ t g', exec (.phexp h a b) s = .next t ∧ OnlyOwn { s with phasers := t.phasers } t c g'
            ∧ SameRegs c.g g' ∧ g'.pend = c.g.pend ∧ g' = Group.booked c.g g' ∧ others t
            ∧ t.phaser id = some (Phaser.test { p with exp := p.exp + n })))
      ∧ (let i : Instr := .phwait h sc d a b
        let k : W32 := (c.g.getS b.toNat).setWidth 32
        let done : Prop := 1 ≤ (p.phase - k).toNat ∧ (p.phase - k).toNat < 2 ^ 31
        Issues s h i.uses 1 c → Checks i s c (first ++ [ (m.mode = .arr, fcPhaser, 3, 0, 0) ])
          ((done → ∃ t g', exec i s = .next t ∧ OnlyCaches s t c g' ∧ SameHome s t ∧ g' = Group.booked c.g g'
              ∧ MemResult s c i.uses [] false [.s d.toNat (p.phase.setWidth 64)] g' ∧ Acquired t c.g (p.counted k)
              ∧ (sc ≠ .team → ∀ l ∈ (t.core c.g.core).lines, l.slot = c.g.ctx → l.valid = 0))
            ∧ (¬ done → p.flt = none → Pauses i s c (.asleep (.phwait id k d.toNat sc)))
            ∧ ∀ f, ¬ done → p.flt = some f →
              (c.g.hm = false → Delivers i s c (s.updGrp c.gid (fun g => { g with pendq := f :: g.pendq.erase f })))
              ∧ (c.g.hm = true → Completes i s c 1 .long i.uses false []))))
  ∧ (∀ g sp id k dd p, s.grp s.ev.unit = some g → g.split? s.ev.sub = some sp → sp.st = .asleep (.phwait id k dd sc) →
      s.phaser id = some p →
      (1 ≤ (p.phase - k).toNat → (p.phase - k).toNat < 2 ^ 31 → ∃ t g' sp', exec .phwaitWake s = .next t
        ∧ t.grp s.ev.unit = some g' ∧ g'.s = (g.setS dd (p.phase.setWidth 64)).s ∧ g'.v = g.v ∧ g'.p = g.p ∧ SameHome s t
        ∧ g'.split? sp.idx = some sp' ∧ sp'.pc = sp.pc + 8 ∧ sp'.st = .ready ∧ sp'.mask = sp.mask
        ∧ Acquired t g (p.counted k))
      ∧ ((p.phase - k = 0 ∨ 2 ^ 31 ≤ (p.phase - k).toNat) → p.flt = none → exec .phwaitWake s = .next s)
      ∧ ∀ f, (p.phase - k = 0 ∨ 2 ^ 31 ≤ (p.phase - k).toNat) → p.flt = some f →
        (g.hm = true → g.tlane.toNat / 65536 = sp.idx → ∃ t g' sp', exec .phwaitWake s = .next t ∧ t.grp s.ev.unit = some g'
          ∧ SameRegs g g' ∧ SameHome s t ∧ t.cores = s.cores ∧ t.clusters = s.clusters
          ∧ g'.split? sp.idx = some sp' ∧ sp'.pc = sp.pc + 8 ∧ sp'.st = .ready ∧ sp'.mask = sp.mask)
        ∧ (g.hm = true → g.tlane.toNat / 65536 ≠ sp.idx → exec .phwaitWake s = .next s)
        ∧ (g.hm = false → g.dbgStop = true ∨ g.halted = true → exec .phwaitWake s = .next s)
        ∧ (g.hm = false → g.dbgStop = false → g.halted = false → exec .phwaitWake s = .next (((s.updGrp s.ev.unit (fun g =>
            { g.putSplit { sp with st := .ready } with pendq := f :: g.pendq.erase f })).deliverPending s.ev.unit sp.idx sp.pc).phaserGc id)))
  ∧ (∀ (m : PhMsg) p, s.phMsgs[s.ev.unit]? = some m → s.phaser m.phaser = some p → p.owner = m.slot → s.hasMember m.phaser = true →
      (let counts (t : State) : Prop := (∀ x, x ≠ m.phaser → t.phaser x = s.phaser x)
        ∧ (p.cnt + m.n < 2 ^ 48 → t.phaser m.phaser = some (Phaser.test { p with cnt := p.cnt + m.n, cur := p.cur.join m.wrote }))
        ∧ (2 ^ 48 ≤ p.cnt + m.n → ∃ f, t.phaser m.phaser = some { p with flt := some f }
            ∧ (p.flt = none → f = ⟨fcPhaser, 6, 0, m.site, m.seq, .other⟩) ∧ ∀ g, p.flt = some g → f = g)
      (m.flt = none → m.kind ≠ .copy ∨ s.ecmds.find? m.cmd = none → ∃ t, exec .phaserEngineCount s = .next t
        ∧ t = { s with phMsgs := s.phMsgs.eraseIdx s.ev.unit, phasers := t.phasers } ∧ counts t)
      ∧ ∀ cc, m.flt = none → m.kind = .copy → s.ecmds.find? m.cmd = some cc → cc.fail = none → m.n < cc.left →
        ∃ t, exec .phaserEngineCount s = .next t
        ∧ t = { s with phMsgs := s.phMsgs.eraseIdx s.ev.unit, phasers := t.phasers, ecmds := t.ecmds } ∧ counts t
        ∧ t.ecmds.find? m.cmd = some { cc with units := cc.units.set 0 m.pos 3, left := cc.left - m.n }
        ∧ ∀ j, j ≠ m.cmd → t.ecmds.find? j = s.ecmds.find? j)
      ∧ ∀ f, m.flt = some f → ∃ t, exec .phaserEngineFault s = .next t
        ∧ t = { s with phMsgs := s.phMsgs.eraseIdx s.ev.unit, phasers := t.phasers }
        ∧ (∀ x, x ≠ m.phaser → t.phaser x = s.phaser x) ∧ t.phaser m.phaser = some { p with flt := some (p.flt.getD f) })

/-- The phasers: joining, arriving, waiting, testing. -/
def Obligations.PhaserWords : Prop :=
  Claim.Phasers ∧ Claim.PhaserTest

/-- R368: the first group of a round fixes its count and waits; the group that fills it completes, and those that waited
continue; another count is a fault, and a group that has joined already waits for the round's end. That a first group's count of
0 or above `TEAMG` is `ILLEGAL_OPERAND` is the model's reading (log 26). -/
def Obligations.Barriers : Prop := ∀ (h : Hdr) (id : BitVec 3) (n : SReg) (s : State) (c : Ctx) (tm : Team),
  s.team c.g.tid = some tm → c.act ≠ 0 → Issues s h (Instr.bar h id n).uses 1 c →
  let i : Instr := .bar h id n
  let k := id.toNat
  let cnt := if n = 63 then tm.teamg else (c.g.getS n.toNat).toNat
  let joins (r : Round) : Prop := Pauses i s c (.waiting (.barrier k))
    ∧ ∃ t tm', exec i s = .next t ∧ t.team c.g.tid = some tm' ∧ tm'.rounds.find? k = some r
  let viable (r : Round) : Prop := r.count ≤ r.joined.length + ((s.teamGroups c.g.tid).filter (fun j => !r.joined.contains j)).length
  (tm.rounds.find? k = none → Checks i s c [ (cnt = 0 ∨ tm.teamg < cnt, fcOperand, 0, 0, 0) ]
    ((c.g.drained = false → Stalls i s c .fifoEmpty)
      ∧ (c.g.drained = true → cnt = 1 → ∃ t g', exec i s = .next t ∧ OnlyOwn s t c g' ∧ SameRegs c.g g' ∧ g' = Group.booked c.g g')
      ∧ (c.g.drained = true → 1 < cnt → viable ⟨cnt, [c.gid]⟩ → (∀ e ∈ tm.rounds, viable e.2) → joins ⟨cnt, [c.gid]⟩)))
  ∧ ∀ r, tm.rounds.find? k = some r →
    (c.gid ∈ r.joined → Stalls i s c (.barrier k))
    ∧ (c.gid ∉ r.joined → Checks i s c [ (cnt ≠ r.count, fcPhaser, 8, 0, 0) ]
      ((c.g.drained = false → Stalls i s c .fifoEmpty)
        ∧ (c.g.drained = true → r.joined.length + 1 = r.count → ∃ t g' tm', exec i s = .next t ∧ t.grp c.gid = some g' ∧ SameRegs c.g g'
          ∧ g' = Group.booked c.g g' ∧ Moved c (c.sp.pc + 8) g' ∧ t.team c.g.tid = some tm' ∧ tm'.rounds.find? k = none
          ∧ SameHome s t
          ∧ ∀ j ∈ r.joined, ∀ g sp, s.grp j = some g → g.splits.find? (fun x => x.st == .waiting (.barrier k)) = some sp →
              g.split? sp.idx = some sp →
              ∃ g2 sp2, t.grp j = some g2 ∧ SameRegs g g2 ∧ g2.split? sp.idx = some sp2 ∧ sp2.pc = sp.pc + 8 ∧ sp2.st = .ready)
        ∧ (c.g.drained = true → r.joined.length + 1 ≠ r.count → (∀ e ∈ tm.rounds, viable e.2) →
          viable { r with joined := r.joined ++ [c.gid] } → joins { r with joined := r.joined ++ [c.gid] })))

-- ## Drains, quiescent points, grace periods, the fallow queue (22_synchronisation.md)

/-- R369 to R374: `DRAIN` waits for its counters, acquires, and delivers a fault of those commands; `QUIES` releases and passes
every grace period; `GRACE` begins one and waits; `FALLOW` queues a range behind one; a period that no group is left to pass
ends, and the oldest entry whose period has ended is written to the ring, or held. That a group which waits in `GRACE` with no
ready split counts as quiescent is the model's reading (log 26). -/
def Obligations.QuietPoints : Prop := ∀ (h : Hdr) (m : BitVec 3) (a b cc : SReg) (s : State),
  (∀ c : Ctx, c.act ≠ 0 →
    let calm : Prop := (m.getLsbD 0 = true → c.g.drCp = 0) ∧ (m.getLsbD 1 = true → c.g.drRm = 0) ∧ (m.getLsbD 2 = true → c.g.drFx = 0)
    (Issues s h [] 1 c →
      (¬ calm → Stalls (.drain h m) s c (.drain m.toNat))
      ∧ (calm → c.g.hasFault (drainKinds m.toNat) = true → Delivers (.drain h m) s c (s.acquire c.g .device))
      ∧ (calm → c.g.hasFault (drainKinds m.toNat) = false → ∃ t g', exec (.drain h m) s = .next t ∧ OnlyCaches s t c g' ∧ SameHome s t
          ∧ SameRegs c.g g' ∧ g'.pend = c.g.pend ∧ g' = Group.booked c.g g'
          ∧ (∀ l ∈ (t.core c.g.core).lines, l.slot = c.g.ctx → l.valid = 0)
          ∧ ∀ l ∈ (t.clus (c.g.core / 16)).lines, l.slot ≠ c.g.ctx))
    ∧ (Issues s h [] 1 c → (c.g.drained = false → Stalls (.quies h) s c .fifoEmpty) ∧ HeldRelease (.quies h) s c .device
      ∧ (s.mayRelease c .device → ∃ t g', exec (.quies h) s = .next t ∧ OnlyCaches { s with graces := t.graces } t c g'
          ∧ SameRegs c.g g' ∧ g'.pend = c.g.pend ∧ g' = Group.booked c.g g'
          ∧ ∀ id x, s.graces.find? id = some x → t.graces.find? id = some { x with waiting := x.waiting.filter (fun j => j != c.gid) }))
    ∧ (Issues s h [] 1 c → (c.g.drained = false → Stalls (.grace h) s c .fifoEmpty) ∧ HeldRelease (.grace h) s c .device
      ∧ (s.mayRelease c .device → ∃ id, Pauses (.grace h) s c (.waiting (.grace id)) ∧ ∃ t x, exec (.grace h) s = .next t
          ∧ t.graces.find? id = some x ∧ x.slot = c.g.ctx ∧ c.gid ∉ x.waiting
          ∧ ∀ j g, j ≠ c.gid → s.grp j = some g → g.ctx = c.g.ctx → (g.sleeping = false ∨ g.drained = false ∨ g.pend ≠ []) →
              ((∀ sp ∈ g.splits, ∀ k, sp.st ≠ .waiting (.grace k)) ∨ s.running j = true) → j ∈ x.waiting))
    ∧ (let i : Instr := .fallow h a b cc
      let n := c.g.ctx
      let va := c.g.getS a.toNat
      n < 64 → Issues s h i.uses 1 c → Checks i s c
        [ (c.g.getS b.toNat = 0, fcOperand, 0, 0, 0), (2 ^ 52 ≤ va.toNat, fcTranslation, 1, va, 0) ]
        ((4096 ≤ (s.fallow.get [] n).length → Stalls i s c (.fallowFull n))
          ∧ ((s.fallow.get [] n).length < 4096 → c.g.drained = false → Stalls i s c .fifoEmpty)
          ∧ ((s.fallow.get [] n).length < 4096 → HeldRelease i s c .device)
          ∧ ((s.fallow.get [] n).length < 4096 → s.mayRelease c .device → ∃ t g' id x, exec i s = .next t
            ∧ OnlyCaches { s.setReg (rrAddr n 0x18) (t.reg (rrAddr n 0x18)) with fallow := t.fallow, graces := t.graces } t c g'
            ∧ SameRegs c.g g' ∧ g'.pend = c.g.pend ∧ g' = Group.booked c.g g'
            ∧ t.fallow.get [] n = s.fallow.get [] n ++ [⟨va, c.g.getS b.toNat, c.g.getS cc.toNat, id⟩]
            ∧ t.graces.find? id = some x ∧ x.slot = n
            ∧ fld (t.reg (rrAddr n 0x18)) 15 0 = (s.fallow.get [] n).length + 1
            ∧ fld (t.reg (rrAddr n 0x18)) 16 16 = fld (s.reg (rrAddr n 0x18)) 16 16))))
  ∧ (∀ x, s.graces.find? s.ev.unit = some x →
      (x.waiting ≠ [] → exec .graceEnd s = .next s)
      ∧ (x.waiting = [] → s.groups.sorted = true → ∃ t, exec .graceEnd s = .next t ∧ t.graces.find? s.ev.unit = none ∧ SameHome s t
        ∧ ∀ j g sp, s.grp j = some g → g.splits.find? (fun y => y.st == .waiting (.grace s.ev.unit)) = some sp →
            g.split? sp.idx = some sp → ∃ g' sp', t.grp j = some g' ∧ SameRegs g g' ∧ g'.split? sp.idx = some sp'
              ∧ sp'.pc = sp.pc + 8 ∧ sp'.st = .ready ∧ sp'.mask = sp.mask))
  ∧ (let n := s.ev.unit
    let tail := fld (s.reg (rrAddr n 0x10)) 31 0
    let used := (tail + 2 ^ 32 - fld (s.reg (rrAddr n 8)) 31 0) % 2 ^ 32
    let size := 2 ^ fld (s.reg (rrAddr n 0)) 4 0
    ∀ e rest, n < 64 → s.fallow.get [] n = e :: rest → s.graces.find? e.grace = none → fld (s.reg (rrAddr n 0)) 4 0 ≠ 0 →
      fld (s.reg (rrAddr n 0x18)) 16 16 = 0 → rest.length < 4096 →
      (size ≤ used → ∃ t, exec .releaseRingEntry s = .next t ∧ t = s.setReg (rrAddr n 0x18) (t.reg (rrAddr n 0x18))
        ∧ fld (t.reg (rrAddr n 0x18)) 16 16 = 1)
      ∧ ∀ s2, used < size → s.engWrite 3 0 n (fld (s.reg (rrAddr n 0)) 51 12 * 4096 + 32 * (tail % size))
          (bytesOf 8 e.addr.toNat ++ bytesOf 8 e.bytes.toNat ++ bytesOf 8 e.tag.toNat ++ bytesOf 8 ((tail + 1) % 2 ^ 32)) = (s2, .ok ()) →
        ∃ t, exec .releaseRingEntry s = .next t ∧ t = { s2 with fallow := t.fallow, mmio := t.mmio } ∧ t.fallow.get [] n = rest
          ∧ fld (t.reg (rrAddr n 0x10)) 31 0 = (tail + 1) % 2 ^ 32 ∧ fld (t.reg (rrAddr n 0x18)) 16 16 = 0)
  ∧ (s.ev.unit < 64 →
    let a0 := rrAddr s.ev.unit 0
    let v := s.ev.val
    ∃ t, exec .releaseRingBaseWrite s = .next t ∧ t = { s with mmio := t.mmio }
      ∧ (fld v 4 0 = 0 ∨ (4 ≤ fld v 4 0 ∧ fld v 4 0 ≤ 20) → fld (t.reg a0) 4 0 = fld v 4 0 ∧ fld (t.reg a0) 51 12 = fld v 51 12)
      ∧ (¬ (fld v 4 0 = 0 ∨ (4 ≤ fld v 4 0 ∧ fld v 4 0 ≤ 20)) → t.reg a0 = s.reg a0))

-- ## Versions, tokens, troughs, progress (23_policy_versions.md, 24_scheduling.md, 26_debug.md)

/-- R375, R376, R381: the wait of a publication is over when, of no partition that reads the region, the oldest version that a group
reads or the published one comes before the version that is replaced; `MINV` is a version that some group of the partition reads,
and, where these lie within half the numbers, none comes before it; with no group it is the published one. -/
def Claim.VersionOrder : Prop := ∀ (s : State) (k p : Nat) (v : W32),
  let before (a b : W32) : Prop := 1 ≤ (b - a).toNat ∧ (b - a).toNat < 2 ^ 31
  let reads (v : W32) : Prop := (∃ x ∈ s.groups, x.2.vpart = p ∧ x.2.vcur = v)
    ∨ ∃ e ∈ s.saved, ∃ x ∈ e.2.groups, x.2.vpart = p ∧ x.2.vcur = v
  (s.pubReady k v = true ↔ ∀ q, q < 16 → (s.reg (vrCfgAddr k)).getLsbD (48 + q) = true →
    ¬ before (s.minv q) (v - 1) ∧ ¬ before (s.vpv q) (v - 1))
  ∧ ((∀ x, ¬ reads x) → s.minv p = s.vpv p)
  ∧ ((∃ x, reads x) → reads (s.minv p))
  ∧ ∀ b : W32, (∀ x, reads x → (x - b).toNat < 2 ^ 31) → ∀ x, reads x → ¬ before x (s.minv p)

/-- R376 to R383, R436: `VPUB` publishes the next version of a region once its readers allow it, or waits; `VREQ` reads a
partition's versions; `TOKB` writes its record and takes up the published version; a waiting `VPUB` ends; the region registers
accept writes; `PROG` counts. That the record of `TOKB` reaches home in its own step is the model's choice (log 3), and so is what
a word leaves that a regulator holds back at issue: the split at the word, and its requests (log 31). -/
def Claim.VersionWords : Prop := ∀ (h : Hdr) (hold own : Bool) (a b d e : SReg) (np : BitVec 3) (s : State),
  (∀ c : Ctx, c.act ≠ 0 →
    (let i : Instr := .vpub h hold a b
      let k := (c.g.getS a.toNat).toNat
      let v : W32 := (c.g.getS b.toNat).setWidth 32
      let readers (p : Nat) : Prop := p < 16 ∧ (s.reg (vrCfgAddr k)).getLsbD (48 + p) = true
      Issues s h i.uses 1 c → Checks i s c
        [ (256 ≤ k ∨ 2 ^ 32 ≤ (c.g.getS b.toNat).toNat, fcOperand, 0, 0, 0),
          (s.vrEn k = false ∨ s.vrSlot k ≠ c.g.ctx, fcVersion, 4, 0, 0), (v ≠ s.vrVer k + 1, fcVersion, 3, 0, 0) ]
        ((c.g.drained = false → Stalls i s c .fifoEmpty)
          ∧ HeldRelease i s c .device
          ∧ (s.mayRelease c .device → s.pubReady k v = false → Pauses i s c (.waiting (.publish k v hold)))
          ∧ (s.mayRelease c .device → s.pubReady k v = true → ∃ t g', exec i s = .next t ∧ OnlyCaches { s with mmio := t.mmio } t c g'
            ∧ SameRegs c.g g' ∧ g'.pend = c.g.pend ∧ g' = Group.booked c.g g' ∧ fld (t.reg (vrVerAddr k)) 31 0 = v.toNat
            ∧ (hold = false → ∀ p, readers p → fld (t.reg (vpStatAddr p)) 31 0 = v.toNat)
            ∧ ∀ x, x ≠ vrVerAddr k → (∀ p, readers p → hold = false → x ≠ vpStatAddr p) → x ≠ trialAddr 0x30 → x ≠ trialAddr 0x38 →
                t.reg x = s.reg x)))
    ∧ (let i : Instr := .vreq h own d a
      let p := if own then c.g.vpart else (c.g.getS a.toNat).toNat
      Issues s h i.uses 1 c → Checks i s c [ (own = false ∧ 16 ≤ (c.g.getS a.toNat).toNat, fcOperand, 0, 0, 0) ]
        (Completes i s c 1 .long i.uses false [.s d.toNat (s.minv p ++ s.vpv p)]))
    ∧ (let i : Instr := .tokb h d a b e
      let new := s.vpv c.g.vpart
      ∀ x tm, Issues s h i.uses 1 c → s.team c.g.tid = some tm →
        Mapped s c.g.core c.g.ctx .w 32 [(lowLane c.act, c.g.getS a.toNat)] [x] →
        let u := s.tokStore c [x] (s.tokRecord c.g (c.g.getS b.toNat) (c.g.getS e.toNat))
        let lines := s.storeLines c.g.core c.g.ctx x.e.attr .device false ((List.range 32).map (x.ca + ·))
        (c.g.drained = false → Stalls i s c .fifoEmpty)
        ∧ (c.g.drained = true → ∀ k, s.bankFull c.g.core lines = some k → Stalls i s c (.bank c.g.core k))
        ∧ (c.g.drained = true → s.bankFull c.g.core lines = none → ∀ w, s.pass u false = .error w → StallsIn i s w c .regulator)
        ∧ (c.g.drained = true → s.bankFull c.g.core lines = none → s.passes u false → ∃ t g', exec i s = .next t
          ∧ OnlyCaches { s with graces := t.graces, mem := t.mem, burst := t.burst } t c g'
          ∧ (∀ id y, s.graces.find? id = some y → t.graces.find? id = some { y with waiting := y.waiting.filter (fun j => j != c.gid) })
          ∧ (new ≠ c.g.vcur → ∀ l ∈ (t.core c.g.core).lines, l.slot = c.g.ctx → l.valid = 0)
          ∧ MemResult s c i.uses [] false [.s d.toNat (new.setWidth 64)] g' ∧ g' = Group.booked { c.g with vcur := new, cc := g'.cc } g'
          ∧ (∀ k y, (∀ l ∈ (s.core c.g.core).lines, ∀ p ∈ l.dirtyBytes, p.1 / 64 ≠ y / 64) →
              (∀ j, j < 32 → (x.ca + j) / 64 ≠ y / 64) → t.homeByte k y = s.homeByte k y)
          ∧ (s.ctxCompat c.g.ctx = false → ∀ j, j < 32 → t.homeByte x.e.key (x.ca + j) = (
              let q0 : W64 := (c.g.getS e.toNat).setWidth 32 ++ (c.g.getS b.toNat).setWidth 32
              let q1 : W64 := c.g.cmdseq ++ c.g.vcur
              let q2 : W64 := BitVec.ofNat 64 (tm.idx % 2 ^ 32 + c.g.gi % 16 * 2 ^ 32 + c.g.vpart % 16 * 2 ^ 40)
              let q : BitVec 256 := s.deviceTime ++ q2 ++ q1 ++ q0
              (q >>> (8 * j)).setWidth 8)))))
  ∧ (∀ c : Ctx, c.act ≠ 0 → c.g.ctx < 64 → Issues s h [] 1 c →
      let r := progAddr c.g.ctx np.toNat
      let cfg := s.reg (trialAddr 0)
      ∃ t g', exec (.prog h np) s = .next t ∧ OnlyOwn { s with mmio := t.mmio, tbufs := t.tbufs } t c g' ∧ SameRegs c.g g'
        ∧ g'.pend = c.g.pend ∧ g' = Group.booked c.g g' ∧ t.reg r = s.reg r + 1
        ∧ (∀ x, s.trial = some x → fld cfg 61 56 = c.g.ctx → fld cfg 2 0 = np.toNat →
            let w := trialAddr (if x.delayed then 0x18 else 0x20)
            t.reg w = s.reg w + 1)
        ∧ ∀ x, x ≠ r → x ≠ trialAddr 0x18 → x ≠ trialAddr 0x20 → x ≠ trialAddr 0x30 → x ≠ trialAddr 0x38 → t.reg x = s.reg x)
  ∧ (∀ g sp k v hd, s.grp s.ev.unit = some g → g.split? s.ev.sub = some sp → sp.st = .waiting (.publish k v hd) →
      (s.pubReady k v = false → exec .vpubWaitEnd s = .next s)
      ∧ (s.pubReady k v = true → ∃ t g' sp', exec .vpubWaitEnd s = .next t ∧ t = { s with mmio := t.mmio, groups := t.groups }
        ∧ fld (t.reg (vrVerAddr k)) 31 0 = v.toNat ∧ t.grp s.ev.unit = some g' ∧ SameRegs g g' ∧ g'.split? sp.idx = some sp'
        ∧ sp'.pc = sp.pc + 8 ∧ sp'.st = .ready))
  ∧ (s.ev.unit < 256 →
    let c0 := vrCfgAddr s.ev.unit
    let b0 := vrBaseAddr s.ev.unit
    let v := s.ev.val
    let locked : Prop := fld (s.reg c0) 32 32 = 1 ∧ fld (s.reg c0) 31 0 ≠ 0
    ∃ t, exec .versionRegionConfig s = .next t ∧ t = { s with mmio := t.mmio }
      ∧ (s.ev.idx = 1 → fld (t.reg c0) 32 32 = fld v 32 32
        ∧ (locked → fld (t.reg c0) 31 0 = fld (s.reg c0) 31 0 ∧ fld (t.reg c0) 45 40 = fld (s.reg c0) 45 40
            ∧ fld (t.reg c0) 63 48 = fld (s.reg c0) 63 48 ∧ t.reg (vrVerAddr s.ev.unit) = s.reg (vrVerAddr s.ev.unit))
        ∧ (¬ locked → fld (t.reg c0) 31 0 = fld v 31 0 ∧ fld (t.reg c0) 45 40 = fld v 45 40 ∧ fld (t.reg c0) 63 48 = fld v 63 48
            ∧ (fld v 32 32 = 1 → t.reg (vrVerAddr s.ev.unit) = 0)))
      ∧ (s.ev.idx = 0 → (locked → fld (t.reg b0) 51 16 = fld (s.reg b0) 51 16) ∧ (¬ locked → fld (t.reg b0) 51 16 = fld v 51 16)))

/-- R375 to R383, R436: the order of versions, and the words and registers that act on them. -/
def Obligations.VersionsAndTokens : Prop :=
  Claim.VersionOrder ∧ Claim.VersionWords

/-- R401 to R405: `TRPOP` takes the oldest record, the end record of a closed trough, or sleeps behind the earlier sleepers;
`TRPSH` appends, or hands its record to the longest sleeper, or waits for room; a disabled trough loses its records. -/
def Obligations.Troughs : Prop := ∀ (h : Hdr) (d a : SReg) (n : BitVec 8) (s : State),
  let k := n.toNat
  (∀ c : Ctx, c.act ≠ 0 →
    let x := s.trough k
    let mine : Prop := s.trEn k = true ∧ s.trSlot k = c.g.ctx
    (let i : Instr := .trpop h d n
      let takes (r : List W64) (x' : TroughSt) : Prop := ∃ t g', exec i s = .next t ∧ OnlyCaches { s with troughs := t.troughs } t c g'
        ∧ SameHome s t ∧ MemResult s c i.uses [] false (r.zipIdx.map (fun p => .s (d.toNat + p.2) p.1)) g' ∧ g' = Group.booked c.g g'
        ∧ t.trough k = x' ∧ ∀ j, j ≠ k → t.trough j = s.trough j
      Issues s h i.uses 1 c → Checks i s c [ (¬ mine, fcOperand, 0, 0, 0) ]
        ((x.sleepers ≠ [] ∨ (x.recs = [] ∧ x.closed = false) → Pauses i s c (.asleep (.trpop k d.toNat))
          ∧ ∃ t, exec i s = .next t ∧ t.trough k = { x with sleepers := x.sleepers ++ [(c.gid, c.idx)] })
        ∧ (∀ r rest, x.sleepers = [] → x.recs = r :: rest →
            takes r (if rest = [] ∧ x.closing = true then ⟨[], [], true, false⟩ else { x with recs := rest }))
        ∧ (x.sleepers = [] → x.recs = [] → x.closed = true → takes [BitVec.allOnes 64, 0, 0, 0, 0, 0, 0, 0] x)))
    ∧ (let i : Instr := .trpsh h a n
      let r := (List.range 8).map (fun j => c.g.getS (a.toNat + j))
      Issues s h i.uses 1 c → Checks i s c [ (¬ mine, fcOperand, 0, 0, 0) ]
        ((c.g.drained = false → Stalls i s c .fifoEmpty)
        ∧ HeldRelease i s c .device
        ∧ (s.mayRelease c .device → 2 ^ fld (s.reg (trCfgAddr k)) 3 0 ≤ x.recs.length → Pauses i s c (.stalled (.troughFull k)))
        ∧ (s.mayRelease c .device → x.recs.length < 2 ^ fld (s.reg (trCfgAddr k)) 3 0 →
          (x.sleepers = [] → ∃ t g', exec i s = .next t ∧ OnlyCaches { s with troughs := t.troughs } t c g' ∧ SameRegs c.g g'
            ∧ g'.pend = c.g.pend ∧ g' = Group.booked c.g g' ∧ t.trough k = ⟨x.recs ++ [r], [], false, false⟩
            ∧ ∀ j, j ≠ k → t.trough j = s.trough j)
          ∧ ∀ j q rest g sp dd, x.sleepers = (j, q) :: rest → j ≠ c.gid → s.grp j = some g → g.split? q = some sp →
            sp.st = .asleep (.trpop k dd) → ∃ t g' sp' g2, exec i s = .next t ∧ t.trough k = ⟨x.recs, rest, false, false⟩
              ∧ t.grp j = some g' ∧ g'.s = (g.writeRec dd r).s ∧ g'.v = g.v ∧ g'.split? q = some sp' ∧ sp'.pc = sp.pc + 8
              ∧ sp'.st = .ready ∧ t.grp c.gid = some g2 ∧ SameRegs c.g g2 ∧ Moved c (c.sp.pc + 8) g2 ∧ HomeKept s t c.g.core))))
  ∧ (s.ev.unit < 256 → 4 ≤ fld (s.reg (trCfgAddr s.ev.unit)) 3 0 → fld (s.reg (trCfgAddr s.ev.unit)) 3 0 ≤ 12 →
      s.trEn s.ev.unit = true → ∃ t, exec .troughDisable s = .next t ∧ t.trEn s.ev.unit = false ∧ t.trough s.ev.unit = TroughSt.init)

-- ## Control flow (21_groups_control.md)

/-- R26, R344 to R350: the branches. `BRA` sends the participating lanes to its target; `BRAD` opens a region first; `JOIN` arrives
at its region's end, where the last arrival lets the lanes on; `BRK` leaves the innermost n regions; `BRX` takes the lanes of one
target and comes back for the others; calls write their link. A record kept with an empty `MASK` and a parked path is the model's
reading (log 20). -/
def Obligations.Branching : Prop := ∀ (h : Hdr) (off : BitVec 24) (rej : BitVec 21) (n : BitVec 5) (a d : SReg) (b : Reg)
    (s : State) (c : Ctx),
  let link : Group := if c.act = 0 then c.g else c.g.setS d.toNat (c.sp.pc + 8)
  let t : W64 := c.sp.pc + 8 * off.signExtend 64
  let rec_ : Rec := ⟨c.sp.pc + 8 * rej.signExtend 64, c.sp.mask, 0, 0, 0⟩
  (Issues s h [] 1 c → Branches (.bra h off) s c c.g t
    ∧ Checks (.brad h off rej) s c [ (32 ≤ c.g.stack.length, fcOverflow, 0, 0, 0) ]
        (Branches (.brad h off rej) s c { c.g with stack := rec_ :: c.g.stack } t)
    ∧ (let ch := c.g.chain (lowLane c.sp.mask)
      (ch.length ≤ n.toNat → FaultsAt (.brk h n) s c fcOperand 0 0 0)
      ∧ ∀ r, ch[n.toNat]? = some r → (∀ x ∈ c.g.stack, x.stands = true) → Branches (.brk h n) s c
          { c.g with stack := leaveInner (lowLane c.sp.mask) c.act n.toNat c.g.stack } r.rejpc))
  ∧ (Issues s h (Instr.call h off d).uses 1 c → Branches (.call h off d) s c link t)
  ∧ (Issues s h (Instr.callR h a d).uses 1 c → Branches (.callR h a d) s c link (c.g.getS a.toNat))
  ∧ (Issues s h (Instr.ret h a).uses 1 c → Branches (.ret h a) s c c.g (c.g.getS a.toNat))
  ∧ (let i : Instr := .brx h a b
    let to_ (l : Nat) : W64 := c.g.getS a.toNat + (c.g.getV b.toNat l).setWidth 64
    let ls := laneList c.act
    Issues s h i.uses 1 c →
      (∀ l ∈ ls, (to_ l).toNat % 8 ≠ 0 → (∀ m ∈ ls, m < l → (to_ m).toNat % 8 = 0) → FaultsAt i s c fcMisaligned 0 (to_ l) l)
      ∧ ((∀ l ∈ ls, (to_ l).toNat % 8 = 0) →
        (∀ l ∈ ls, 2 ^ 52 ≤ (to_ l).toNat → (∀ m ∈ ls, m < l → (to_ m).toNat < 2 ^ 52) → FaultsAt i s c fcTranslation 1 (to_ l) l)
        ∧ ((∀ l ∈ ls, (to_ l).toNat < 2 ^ 52) → (c.act = 0 → c.g.stackSettled → Goes i s c (c.g.passBy c.sp))
          ∧ ∀ p : Lanes, c.act ≠ 0 →
            (∀ l, l < 64 → p.getLsbD l = (c.act.getLsbD l && decide (to_ l = to_ (lowLane c.act)))) →
            Divides i s c c.g p (to_ (lowLane c.act)) c.sp.pc)))
  ∧ (Issues s h [] 1 c →
    let lane := lowLane c.sp.mask
    ((∀ r ∈ c.g.stack, ¬ (r.mask.getLsbD lane = true ∧ r.rejpc = c.sp.pc)) → Goes (.join h) s c (c.g.passBy c.sp))
    ∧ ∀ pre r post, c.g.stack = pre ++ r :: post → (∀ x ∈ pre, ¬ (x.mask.getLsbD lane = true ∧ x.rejpc = c.sp.pc)) →
      r.mask.getLsbD lane = true → r.rejpc = c.sp.pc → c.sp.mask ≠ 0 → (∀ x ∈ c.g.stack, x.pkmask = 0) →
      (∀ x ∈ leaveRecs r.mask pre ++ post ++ pre, x.releasable = false) →
      (r.arr ||| c.sp.mask ≠ r.mask → (c.g.dropSplit c.idx).splits ≠ [] → Goes (.join h) s c
        ({ c.g with stack := pre ++ { r with arr := r.arr ||| c.sp.mask } :: post }.dropSplit c.idx))
      ∧ (r.arr ||| c.sp.mask = r.mask → ∀ k, (c.g.dropSplit c.idx).freeIdx = some k → Goes (.join h) s c
        (({ c.g with stack := leaveRecs r.mask pre ++ post }.dropSplit c.idx).newSplit k (c.sp.pc + 8) r.mask))
      ∧ (r.arr ||| c.sp.mask ≠ r.mask → (c.g.dropSplit c.idx).splits = [] → FaultsAt (.join h) s c fcDeadlock 0 0 0))

/-- R352 to R356: `YIELD` goes to the back of the queue; `SLEEP` sleeps, to a deadline or without, unless the wake bit is set;
`WAKE` and `WAKE.all` wake groups of the team; `EXIT` ends lanes, and with the last, once its stores and results are done, the
group. A sleep whose deadline has come ends. A record that `EXIT` keeps for its parked path is the model's reading (log 20). -/
def Obligations.SleepingAndExit : Prop := ∀ (h : Hdr) (a : SReg) (s : State),
  (∀ c : Ctx, Issues s h [] 1 c → ∃ t g', exec (.yield h) s = .next t ∧ Turns s t c (c.g.passBy c.sp) g'
    ∧ (c.act ≠ 0 ∨ c.sp.demote = true → (g'.splits.getLast?).map (fun x => x.idx) = some c.idx))
  ∧ (∀ c : Ctx, let i : Instr := .sleep h a
    let n := (c.g.getS a.toNat).toNat
    Issues s h i.uses 1 c → (c.act = 0 → Goes i s c (c.g.passBy c.sp))
      ∧ (c.act ≠ 0 → c.g.wakeBit = true → Goes i s c { c.g.passBy c.sp with wakeBit := false })
      ∧ (c.act ≠ 0 → c.g.wakeBit = false → Pauses i s c (.asleep (.sleep (if n = 0 then none else some (s.now + n))))))
  ∧ (∀ (c : Ctx) (tm : Team), c.act ≠ 0 → s.team c.g.tid = some tm →
    let k := (c.g.getS a.toNat).toNat
    (Issues s h (Instr.wake h a).uses 1 c → Checks (.wake h a) s c [ (tm.teamg ≤ k, fcOperand, 0, 0, 0) ]
      ((c.g.drained = false → Stalls (.wake h a) s c .fifoEmpty)
        ∧ (c.g.drained = true → s.groupOf c.g.tid k = none → Completes (.wake h a) s c 1 .long (Instr.wake h a).uses false [])
        ∧ ∀ j g, c.g.drained = true → s.groupOf c.g.tid k = some j → s.grp j = some g →
          ∃ t g' x, exec (.wake h a) s = .next t ∧ SameHome s t ∧ t.grp j = some g'
            ∧ (j ≠ c.gid → Woken g g' ∧ t.grp c.gid = some x ∧ SameRegs c.g x ∧ Moved c (c.sp.pc + 8) x)
            ∧ (j = c.gid → g'.wakeBit = !g.splits.any Split.dozing ∧ SameRegs c.g g')
            ∧ ∀ m, m ≠ j → m ≠ c.gid → (t.grp m).map (fun g => { g with wait := 0 }) = (s.grp m).map (fun g => { g with wait := 0 })))
    ∧ (Issues s h [] 1 c → (c.g.drained = false → Stalls (.wakeAll h) s c .fifoEmpty)
      ∧ (c.g.drained = true → s.groups.sorted = true → ∃ t x, exec (.wakeAll h) s = .next t ∧ SameHome s t ∧ t.grp c.gid = some x
        ∧ SameRegs c.g x
        ∧ ∀ j g, s.grp j = some g → j ≠ c.gid → (g.tid = c.g.tid → ∃ g', t.grp j = some g' ∧ Woken g g')
            ∧ (g.tid ≠ c.g.tid → (t.grp j).map (fun g => { g with wait := 0 }) = some { g with wait := 0 }))))
  ∧ (∀ c : Ctx, Issues s h [] 1 c →
    let i : Instr := .exit h
    let rest := c.sp.mask &&& ~~~ c.act
    let st := leaveRecs c.act c.g.stack
    (c.act = 0 → Goes i s c (c.g.passBy c.sp))
    ∧ (c.act ≠ 0 → rest ≠ 0 → { c.g with stack := st }.stackSettled → Goes i s c
        ({ c.g with stack := st }.putSplit { c.sp.closeWins with pc := c.sp.pc + 8, mask := rest }))
    ∧ (c.act ≠ 0 → rest = 0 → (∀ r ∈ st, r.releasable = false ∧ r.pkmask = 0) →
      let g1 := { c.g with stack := st }.dropSplit c.idx
      (g1.splits ≠ [] → g1.lanesLeft ≠ 0 → Goes i s c g1)
      ∧ (g1.splits = [] → g1.lanesLeft ≠ 0 → FaultsAt i s c fcDeadlock 0 0 0)
      ∧ (g1.lanesLeft = 0 → c.g.drained = false ∨ c.g.pend ≠ [] → Stalls i s c .exit)
      ∧ (g1.lanesLeft = 0 → c.g.pend = [] → HeldRelease i s c .device)
      ∧ (g1.lanesLeft = 0 → s.mayRelease c .device → c.g.pend = [] → ∃ t, exec i s = .next t ∧ t.grp c.gid = none)))
  ∧ (∀ g sp dl, s.grp s.ev.unit = some g → g.split? s.ev.sub = some sp → sp.st = .asleep (.sleep (some dl)) →
      (s.now < dl → exec .sleepTimeout s = .next s)
      ∧ (dl ≤ s.now → ∃ t g' sp', exec .sleepTimeout s = .next t ∧ t = { s with groups := t.groups } ∧ t.grp s.ev.unit = some g'
        ∧ SameRegs g g' ∧ g'.split? sp.idx = some sp' ∧ sp'.pc = sp.pc + 8 ∧ sp'.st = .ready ∧ sp'.mask = sp.mask))

-- ## Traps (25_traps.md)

/-- R411, R415, R417: a `CSRR` of a number that no chapter assigns, a `CSRW` of one that is not there or may only be read, and either
of a lane's CSR with an `S` register, or a `CSRW` of a group's with a `V` register, raise `ILLEGAL_OPERAND` at decode. -/
def Claim.AbsentCsrs : Prop := ∀ w body : W64, w.getLsbD 62 = false →
  let n := (w.extractLsb' 0 12).toNat
  let lane : Prop := n = 0 ∨ n = 0x10
  (w.extractLsb' 54 8 = 0xEE →
    (n ∉ [0, 1, 2, 3, 4, 5, 6, 7, 8, 9, 10, 0x10, 0x11, 0x12, 0x13, 0x14, 0x20, 0x21, 0x22, 0x2E, 0x30, 0x31, 0x40, 0x41, 0x42, 0x50, 0x51,
        0x52, 0x53, 0x54, 0x55, 0x56, 0x57, 0x58, 0x60, 0x66, 0x67, 0x70, 0x71] ∨ (lane ∧ w.getLsbD 12 = true)) →
    decodeIgyan w body = .error .operand)
  ∧ (w.extractLsb' 54 8 = 0xEF →
    (n ∉ [0x10, 0x11, 0x12, 0x13, 0x14, 0x2E, 0x51, 0x57] ∨ (lane ∧ w.getLsbD 12 = true) ∨ (¬ lane ∧ w.getLsbD 12 = false)) →
    decodeIgyan w body = .error .operand)
  ∧ rejectFault .operand = ⟨fcOperand, 0, 0, 0⟩

/-- R409 to R417: `TRAP` and `BKPT` complete and enter the handler; `RTE` returns; `CSRR` and `CSRW` read and write. The order of
`CSRW`'s checks (log 8) and the half of a 64-bit CSR that a 32-bit read gives (log 27) are the model's readings. -/
def Claim.TrapWords : Prop := ∀ (h : Hdr) (n csr : BitVec 12) (sx : Bool) (r : Reg) (s : State) (c : Ctx),
  (Issues s h [] 1 c →
    (c.act ≠ 0 → TrapsAs (.trap h n) s c fcTrap n)
    ∧ (c.act ≠ 0 → s.bkStop c.g.ctx = false → TrapsAs (.bkpt h n) s c fcBreak n)
    ∧ (c.act ≠ 0 → s.bkStop c.g.ctx = true → ∃ t, exec (.bkpt h n) s = .next t ∧ StopsAt s t c.gid c.idx c.g c.sp none none)
    ∧ (c.g.hm = true → Goes (.rte h) s c { c.g.putSplit { c.sp.closeWins with pc := c.g.tpc } with hm := false })
    ∧ (c.g.hm = false → FaultsAt (.rte h) s c fcPrivilege 0 0 0))
  ∧ (let i : Instr := .csrr h sx r csr
    let reads (p : List RegWrite → Prop) : Prop := ∃ ws, Completes i s c 1 .long i.uses false ws ∧ p ws
    Issues s h i.uses 1 c → c.act ≠ 0 →
      (csr.toNat = 0 → reads (fun ws => GivesV ws c.act false r.toNat (fun l => BitVec.ofNat 64 l) (fun _ => 0)))
      ∧ (csr.toNat = 0x10 → (∃ p ∈ c.g.pend, p.setsFlg = true) → Stalls i s c .flags)
      ∧ (csr.toNat = 0x10 → (∀ p ∈ c.g.pend, p.setsFlg = false) →
          reads (fun ws => GivesV ws c.act false r.toNat (fun l => (c.g.getFlg l).setWidth 64) (fun _ => 0)))
      ∧ ∀ t k v, s.team c.g.tid = some t → s.grid t.grid = some k → (csr.toNat, v) ∈ c.g.csrList s t k c.idx →
          (sx = true → reads (fun ws => GivesS ws c.act true r.toNat v 0))
          ∧ (sx = false → reads (fun ws => GivesV ws c.act false r.toNat (fun _ => v) (fun _ => 0))))
  ∧ (let i : Instr := .csrw h sx r csr
    let v := c.g.getS r.toNat
    let m := csr.toNat
    Issues s h i.uses 1 c → c.act ≠ 0 →
      (m = 0x10 → (∃ p ∈ c.g.pend, p.setsFlg = true) → Stalls i s c .flags)
      ∧ (m = 0x10 → (∀ p ∈ c.g.pend, p.setsFlg = false) →
          let bad (l : Nat) : Prop := c.act.getLsbD l = true ∧ 256 ≤ (c.g.getV r.toNat l).toNat
          (∀ l, bad l → (∀ j, j < l → ¬ bad j) → FaultsAt i s c fcOperand 0 0 l)
          ∧ ((∀ l, ¬ bad l) → ∃ t g', exec i s = .next t ∧ OnlyOwn s t c g' ∧ g' = Group.booked { c.g with flg := g'.flg } g'
            ∧ g'.v = c.g.v ∧ g'.s = c.g.s ∧ g'.d = c.g.d ∧ g'.p = c.g.p ∧ g'.pend = c.g.pend
            ∧ ∀ l, l < 64 → g'.getFlg l = if c.act.getLsbD l = true then (c.g.getV r.toNat l).setWidth 8 else c.g.getFlg l))
      ∧ (m ∈ [0x11, 0x12, 0x13, 0x14, 0x51, 0x57] → Checks i s c
          [ (m ≠ 0x51 ∧ m ≠ 0x57 ∧ 2 ^ 32 ≤ v.toNat, fcOperand, 0, 0, 0),
            (m = 0x12 ∧ (v.toNat < 0x33800000 ∨ 0x4B800000 < v.toNat), fcOperand, 0, 0, 0),
            (m = 0x51 ∧ (v.toNat % 8 ≠ 0 ∨ 2 ^ 52 ≤ v.toNat), fcOperand, 0, 0, 0),
            ((m = 0x51 ∨ m = 0x57) ∧ c.g.hm = false, fcPrivilege, 0, 0, 0) ]
          (∃ t g', exec i s = .next t ∧ OnlyOwn s t c g' ∧ SameRegs c.g g' ∧ g'.pend = c.g.pend
            ∧ g' = Group.booked (c.g.csrWrite m v) g'))
      ∧ (m = 0x2E → ∀ tm, s.team c.g.tid = some tm → Checks i s c
          [ (16 ≤ v.toNat ∨ v.toNat % 8 = 7, fcOperand, 0, 0, 0) ]
          (∃ t g', exec i s = .next t ∧ OnlyOwn { s with teams := t.teams } t c g' ∧ SameRegs c.g g' ∧ g'.pend = c.g.pend
            ∧ g' = Group.booked c.g g' ∧ t.team c.g.tid = some { tm with tswz := v.setWidth 4 }
            ∧ ∀ j, j ≠ c.g.tid → t.team j = s.team j)))

/-- R409 to R417: the words of the trap chapter, with the CSRs that may be named. -/
def Obligations.TrapWords : Prop :=
  Claim.TrapWords ∧ Claim.AbsentCsrs

/-- R409 to R414, R434: a precise fault enters the handler, ends its context where nothing handles it, or stops the group for the
debugger; the oldest pending asynchronous fault is delivered at a run boundary, or where an `MWAIT` that waits depends on it (R254);
a `MATRIX_RESET` only there (R261).
That the event of an ended context is written in the same step is the model's choice (log 30). -/
def Claim.FaultDelivery : Prop := ∀ (s : State) (gid : Nat) (g : Group) (sp : Split), s.grp gid = some g →
  g.split? sp.idx = some sp → sp.idx < 4 → g.ctx < 64 → s.unlisted g →
  (∀ f tpc, f.lane < 64 →
    (s.fltStop g.ctx = false → s.trapEn g.ctx = true → g.hm = false → ∃ t g', s.raise gid sp.idx f tpc = t
      ∧ Handles s t gid sp.idx g sp.mask (f.code.setWidth 32) f tpc sp.pc g.cmdseq g.pendq g')
    ∧ (s.fltStop g.ctx = false → s.trapEn g.ctx = false ∨ g.hm = true → ∃ u : State,
        s.raise gid sp.idx f tpc = u.event g.ctx 0x09 f.code.toNat 0 0 (g.cmdseq.setWidth 64) sp.pc
        ∧ ∀ j x, u.grp j = some x → x.ctx ≠ g.ctx)
    ∧ (s.fltStop g.ctx = true → StopsAt s (s.raise gid sp.idx f tpc) gid sp.idx g sp (some f) none))
  ∧ (s.ev.unit = gid →
    let reset (f : AFault) : Prop := ∃ n, f.kind = .reset n
    let stuck (x : Split) : Prop := ∃ n, x.st = .waiting (.matrix n) ∧ g.matrixFault (.before n) = true
    (((∀ f ∈ g.pendq, reset f) ∧ ∀ x ∈ g.splits, ¬ stuck x) ∨ g.hm = true ∨ g.dbgStop = true ∨ g.halted = true ∨ s.running gid = true →
        exec .asyncFaultDelivery s = .next s)
    ∧ (g.hm = false → g.dbgStop = false → g.halted = false → s.running gid = false → s.trapEn g.ctx = true → s.fltStop g.ctx = false →
      (∀ pre f post, g.pendq = pre ++ f :: post → (∀ x ∈ pre, reset x) → ¬ reset f →
        let q := pre ++ post
        (s.nextSplit gid g = some sp → ∃ t g', exec .asyncFaultDelivery s = .next (t.matrixSettle gid)
          ∧ Handles s t gid sp.idx g sp.mask (f.code.setWidth 32 ||| 0x200) ⟨f.code, f.detail, f.addr, 0⟩ sp.pc f.site f.seq q g')
        ∧ (s.nextSplit gid g = none → (∀ x ∈ g.splits, ¬ stuck x) → g.splits.find? Split.dozing = some sp → ∃ t g',
          exec .asyncFaultDelivery s = .next t
          ∧ t.grp gid = some g' ∧ SameRegs g g' ∧ g'.hm = true ∧ g'.tpc = sp.pc + 8 ∧ g'.tcause = f.code.setWidth 32 ||| 0x200
          ∧ g'.tsite = f.site ∧ g'.tseq = f.seq ∧ g'.pendq = q)
        ∧ (s.nextSplit gid g = none → (∀ x ∈ g.splits, ¬ stuck x) → g.splits.any Split.dozing = false →
          exec .asyncFaultDelivery s = .next s))
      ∧ ∀ pre post, g.splits = pre ++ sp :: post → stuck sp → (∀ x ∈ pre, ¬ stuck x) → (∀ f ∈ g.pendq, reset f) ∨ s.nextSplit gid g = none →
        ∃ g1 f q t g', (s.takeReset gid sp.pc).grp gid = some g1 ∧ g1.pendq = f :: q
          ∧ exec .asyncFaultDelivery s = .next (t.matrixSettle gid)
          ∧ Handles (s.takeReset gid sp.pc) t gid sp.idx g1 sp.mask (f.code.setWidth 32 ||| 0x200) ⟨f.code, f.detail, f.addr, 0⟩ sp.pc
              f.site f.seq q g'))

-- ## Issue (02_instruction_words.md, 24_scheduling.md)

/-- R46 to R51: before any effect, a word with a register outside the group's budget raises `ILLEGAL_OPERAND`; one that touches
the destination of an open window raises `LOOKAHEAD_VIOLATION`; one whose window has run out, or whose split's windows were
closed, stalls for the results. Ahead of these come the limits of an encoding that the team sets. -/
def Claim.IssueChecks : Prop := ∀ (i : Instr) (h : Hdr) (s : State) (c : Ctx), i.hdr? = some h → s.ctx? h = some c →
  ¬ s.overLimit c i →
  Checks i s c
    [ (∃ u ∈ i.uses, u.within c.g.budget = false, fcOperand, 0, 0, 0),
      (∃ w ∈ c.sp.wins, 0 < w.left ∧ ∃ d ∈ w.dests, d ∈ wordNames h i.uses, fcLookahead, 0, 0, 0) ]
    (let awaits (x : Nat) : Prop :=
      ((∃ w ∈ c.sp.wins, w.left < i.words ∧ w.id = x) ∨ x ∈ c.sp.holdFor) ∧ ∃ p ∈ c.g.pend, p.id = x
    (∃ x, awaits x) → ∃ ids, (∀ x, x ∈ ids ↔ awaits x) ∧ Stalls i s c (.results ids))

/-- R31, R41, R46 to R51, R471: a word with no lane acts as the manual says, and a word that fails a check of issue traps or
waits. -/
def Obligations.MaskedAndChecked : Prop :=
  Claim.MaskedWords ∧ Claim.IssueChecks

/-- R40, R41, R407: a partition at a run boundary takes a group that may run and that no other such group goes before; a group
that is not running becomes ready in the step in which it can issue again; the hardware ends a run at its limit and counts it. -/
def Claim.Arbitration : Prop := ∀ s : State,
  let p := s.ev.unit
  (s.stops = [] → (s.part p).run = none → ∃ t, exec .runArbitration s = .next t
    ∧ t = { s with parts := t.parts } ∧ (∀ q, q ≠ p → t.part q = s.part q)
    ∧ (∀ x ∈ t.groups, (t.part p).run = none → x.2.partNo = p → t.mayRun x.1 x.2 = false)
    ∧ ∀ gid idx, (t.part p).run = some (gid, idx) → ∃ g sp, (gid, g) ∈ t.groups ∧ g.partNo = p ∧ t.mayRun gid g = true
      ∧ t.nextSplit gid g = some sp ∧ sp.idx = idx
      ∧ ∀ x ∈ t.groups, x.2.partNo = p → t.mayRun x.1 x.2 = true → t.better x (gid, g) = false)
  ∧ (∀ a b : Nat × Group,
    (57 ≤ a.2.wait → b.2.wait < a.2.wait → s.better a b = true)
    ∧ ∀ ta tb ka kb, s.team a.2.tid = some ta → s.team b.2.tid = some tb → s.grid ta.grid = some ka → s.grid tb.grid = some kb →
      (a.2.wait < 57 → b.2.wait < 57 → kb.prio < ka.prio → ka.prio ≤ 7 → s.better a b = true)
      ∧ (a.2.wait < 57 → b.2.wait < 57 → ka.prio = kb.prio → ka.rankDl = none → kb.rankDl = none →
          a.2.readyAt.getD 0 < b.2.readyAt.getD 0 → s.better a b = true))
  ∧ (∀ gid g, s.grp gid = some g →
    let may : Prop := g.dbgStop = false ∧ g.halted = false ∧ (s.nextSplit gid g).isSome = true
    (s.running gid = true → s.advance.grp gid = some g)
    ∧ (s.running gid = false → may → s.advance.grp gid = some (if g.readyAt.isSome then g else { g with readyAt := some s.tick, wait := 0 }))
    ∧ (s.running gid = false → ¬ may → s.advance.grp gid = some { g with readyAt := none, wait := 0 }))
  ∧ (∀ gid idx g sp s1, (s.part p).run = some (gid, idx) → s.grp gid = some g → g.split? idx = some sp →
      s.nextInstr g sp (s.part p).count = (s1, .forced) → s1.grp gid = some g →
      ∃ t g', exec .forcedRunEnd s = .next t ∧ t.grp gid = some g' ∧ g'.forced = g.forced + 1 ∧ SameRegs g g'
        ∧ (∀ q, (t.part q).run ≠ some (gid, idx)) ∧ SameHome s1 t)

/-- A pending fault is delivered at its group's turn, and a turn picks the word that issues. -/
def Obligations.FaultsAndArbitration : Prop :=
  Claim.FaultDelivery ∧ Claim.Arbitration

-- ## Fabric processors (19_fabric_processor.md)

/-- R313: the words on registers and the branches, with all arithmetic modulo 2^64. -/
def Obligations.FabricRegisters : Prop := ∀ (a b : FReg) (c : FOp2) (cc : FCond) (imm : BitVec 44) (hi : BitVec 20) (s : State)
    (p : Nat) (x : FxSt) (k : FxStart), FxAt s p x k →
  let v : W64 := match c with
    | .reg r => x.r r
    | .imm i => i.signExtend 64
  let target : W64 := x.fpc + 8 * imm.signExtend 64
  let goes (i : Instr) (take : Prop) (x' : FxSt) : Prop :=
    (take → FxLeaves i s s p { x' with fpc := target }) ∧ (¬ take → FxLeaves i s s p { x' with fpc := x.fpc + 8 })
  FxLeaves .fxNop s s p { x with fpc := x.fpc + 8 }
  ∧ FxSets (.fxLdi a imm) s s p x a (imm.signExtend 64)
  ∧ FxSets (.fxLdiHi a hi) s s p x a (hi ++ (x.r a).setWidth 44)
  ∧ FxSets (.fxAdd a b c) s s p x a (x.r b + v)
  ∧ FxSets (.fxSub a b c) s s p x a (x.r b - v)
  ∧ FxSets (.fxAnd a b c) s s p x a (x.r b &&& v)
  ∧ FxSets (.fxShl a b c) s s p x a (
      if 64 ≤ v.toInt ∨ v.toInt ≤ -64 then 0
      else if 0 ≤ v.toInt then BitVec.ofNat 64 ((x.r b).toNat * 2 ^ v.toInt.toNat)
      else BitVec.ofNat 64 ((x.r b).toNat / 2 ^ (-v.toInt).toNat))
  ∧ goes (.fxCmpb cc a b imm) (match cc with
      | .eq => x.r a = x.r b
      | .ne => x.r a ≠ x.r b
      | .ltu => (x.r a).toNat < (x.r b).toNat
      | .geu => (x.r b).toNat ≤ (x.r a).toNat
      | .lts => (x.r a).toInt < (x.r b).toInt
      | .ges => (x.r b).toInt ≤ (x.r a).toInt) x
  ∧ goes (.fxJmp imm) True x
  ∧ ∃ x', x' = { x with f := x'.f } ∧ (∀ r, x'.r r = if r = a then x.r a - 1 else x.r r) ∧ goes (.fxLoop a imm) (x.r a ≠ 1) x'

/-- R311, R314 to R316, R320, R321: a fabric word's copies between memory and a buffer, its barrier words, its messages and
starts, its state images, and the end of its program. That a count of 0 bytes is refused is the model's reading of R311 (log 40), and
that a regulator holds a word back whole is its reading of R101 (log 31). -/
def Obligations.FabricTransfers : Prop := ∀ (a b c d : FReg) (cmp : WCmp) (set : Bool) (mask : BitVec 8) (s : State) (p : Nat)
    (x : FxSt) (k : FxStart), FxAt s p x k →
  let n := (x.r c).toNat
  let o := (x.r a).toNat
  let sized : Prop := InBuf (x.r a) n ∧ 1 ≤ n ∧ n ≤ 65536
  let die := p / 2
  (¬ sized → FxFaults (.fxLoadc a b c) s s p fcOperand 0 0 ∧ FxFaults (.fxStorec a b c) s s p fcOperand 0 0
    ∧ FxFaults (.fxSend a b c) s s p fcOperand 0 0)
  ∧ (sized → (∀ s1 bs, FxReads s s1 p k (x.r b) n bs → FxFills (.fxLoadc a b c) s1 s p x o bs))
  ∧ (sized → ∀ s1 f dt va, s.rawRead 2 die k.slot (x.r b).toNat n = (s1, .error (.fault f dt va)) →
      FxFaults (.fxLoadc a b c) s1 s p (BitVec.ofNat 8 f) dt (BitVec.ofNat 64 va))
  ∧ (sized → ∀ s1, s.rawRead 2 die k.slot (x.r b).toNat n = (s1, .error .wait) → exec (.fxLoadc a b c) s = .next (s.waiting s1))
  ∧ (sized → (∀ s1, FxWrites s s1 p k (x.r b).toNat (x.bytes o n) →
      FxLeaves (.fxStorec a b c) s1 s p { x with busy := some (x.fpc + 8) }))
  ∧ (sized → ∀ s1 f dt va, s.rawWrite 2 die k.slot (x.r b).toNat (x.bytes o n) = (s1, .error (.fault f dt va)) →
      FxFaults (.fxStorec a b c) s1 s p (BitVec.ofNat 8 f) dt (BitVec.ofNat 64 va))
  ∧ (let i : Instr := .fxWaitm cmp a b d
    ((x.r b).toNat % 8 ≠ 0 → FxFaults i s s p fcMisaligned 0 (x.r b))
    ∧ ∀ s1 bs, (x.r b).toNat % 8 = 0 → FxReads s s1 p k (x.r b) 8 bs →
      let w : W64 := BitVec.ofNat 64 (natOf bs)
      let v := x.r d
      let holds : Prop := match cmp with
        | .eq => w = v
        | .ne => w ≠ v
        | .geu => v.toNat ≤ w.toNat
        | .ges => v.toInt ≤ w.toInt
      (holds → FxSets i s1 s p { x with wait := .none } a w)
      ∧ (¬ holds → FxLeaves i s1 s p { x with wait := .waitm cmp a.toNat (x.r b) v }))
  ∧ (let i : Instr := .fxSigm set a b
    ((x.r a).toNat % 8 ≠ 0 → FxFaults i s s p fcMisaligned 0 (x.r a))
    ∧ ∀ s1 old, (x.r a).toNat % 8 = 0 →
      s.rawUpd 2 die k.slot (x.r a).toNat 8 (fun old => if set then x.r b else old + x.r b) = (s1, .ok old) →
      FxLeaves i s1 s p { x with fpc := x.fpc + 8 })
  ∧ (let i : Instr := .fxSend a b c
    (sized → 2 ^ 36 ≤ (x.r b).toNat → FxFaults i s s p fcOperand 0 0)
    ∧ (sized → (x.r b).toNat < 2 ^ 36 → FxSends i s p x k (x.r b) (.msg (fld (x.r b) 35 20) (x.bytes o n))))
  ∧ (let i : Instr := .fxRecv a b c
    let ok : Prop := InBuf (x.r a) 0 ∧ (x.r b).toNat < 2 ^ 36
    let mine (m : RxMsg) : Prop := m.slot = k.slot ∧ m.gen = k.gen ∧ m.dev = fld (x.r b) 15 0 ∧ m.proc = fld (x.r b) 19 16
      ∧ m.tag = fld (x.r b) 35 20
    (¬ ok → FxFaults i s s p fcOperand 0 0)
    ∧ (ok → (∀ m ∈ x.store, ¬ mine m) → FxLeaves i s s p { x with wait := .recv o c.toNat (x.r b) })
    ∧ ∀ pre m post, ok → x.store = pre ++ m :: post → (∀ y ∈ pre, ¬ mine y) → mine m →
      (2 ^ 16 < o % 2 ^ 16 + m.bytes.length → FxFaults i s s p fcOperand 0 0)
      ∧ (o % 2 ^ 16 + m.bytes.length ≤ 2 ^ 16 → ∃ x1, BufPut x x1 o m.bytes ∧
        FxSets i s s p { x1 with store := pre ++ post, wait := .none } c (BitVec.ofNat 64 m.bytes.length)))
  ∧ (let i : Instr := .fxTrig a b c
    (2 ^ 20 ≤ o → FxFaults i s s p fcOperand 0 0)
    ∧ (o < 2 ^ 20 → (x.r b).toNat % 8 ≠ 0 → FxFaults i s s p fcMisaligned 0 (x.r b))
    ∧ (o < 2 ^ 20 → (x.r b).toNat % 8 = 0 → FxSends i s p x k (x.r a) (.start x.fpc (x.r b) (x.r c))))
  ∧ (let i : Instr := .fxCkptSv a mask
    let qs : List W64 := [BitVec.ofNat 64 (1 + mask.toNat * 2 ^ 16), x.fpc + 8, x.nacc] ++ (List.range 16).map (fun j => x.f.get 0 j)
      ++ [match x.claim with
        | some cl => cl.cid ++ cl.handle
        | none => 0]
    let img := (qs.flatMap (fun q => bytesOf 8 q.toNat) ++ List.replicate 96 0)
      ++ ((List.range 8).filter (fun j => mask.getLsbD j)).flatMap (fun j => x.bytes (65536 * j) 65536)
    (o % 256 ≠ 0 → FxFaults i s s p fcMisaligned 0 (x.r a))
    ∧ ∀ s1, o % 256 = 0 → FxWrites s s1 p k o img → FxLeaves i s1 s p { x with busy := some (x.fpc + 8) })
  ∧ (let i : Instr := .fxCkptLd a
    (o % 256 ≠ 0 → FxFaults i s s p fcMisaligned 0 (x.r a))
    ∧ ∀ s1 h, o % 256 = 0 → FxReads s s1 p k (x.r a) 256 h →
      let q (j : Nat) : W64 := BitVec.ofNat 64 (natOf ((h.drop (8 * j)).take 8))
      let bufs := (List.range 8).filter (fun j => (q 0).getLsbD (16 + j))
      let ok : Prop := fld (q 0) 15 0 = 1 ∧ ∀ j, 0xA0 ≤ j → j < 0x100 → h.getD j 0 = 0
      (¬ ok → FxFaults i s1 s p fcOperand 0 0)
      ∧ ∀ s2 bs, ok → s1.rawRead 2 die k.slot (o + 256) (65536 * bufs.length) = (s2, .ok bs) → ∃ x', FxLeaves i s2 s p x'
        ∧ x' = { x with f := x'.f, buf := x'.buf, nacc := q 2, busy := some (q 1 &&& ~~~ 7) }
        ∧ (∀ j, j < 16 → x'.f.get 0 j = q (3 + j))
        ∧ ∀ j y, j < 8 → y < 65536 → x'.buf.get 0 (65536 * j + y) =
            match bufs.findIdx? (fun m => m == j) with
            | some m => bs.getD (65536 * m + y) 0
            | none => x.buf.get 0 (65536 * j + y))
  ∧ (p < 16 → x.claim = none → ∃ t, exec .fxHalt s = .next t ∧ (t.fx p).cur = none ∧ (t.fx p).claim = none ∧ (t.fx p).wait = .none
    ∧ (t.fx p).queue = x.queue
    ∧ ∀ gid g, k.org = .group gid → s.grp gid = some g → k.tid = some g.tid → s.endings = [] → s.suspends = [] → SameHome s t
      ∧ t.grp gid = some { g with drFx := g.drFx - 1 } ∧ t.reg (fxAddr p 0x10) = x.fpc
      ∧ fld (t.reg (fxAddr p 0x28)) 31 0 = (fld (s.reg (fxAddr p 0x28)) 31 0 + 1) % 2 ^ 32
      ∧ t.phMsgs = s.phMsgs ++ (if k.np then [] else [countMsg k.phaser k.slot 1 .fabric 0 k.org 0 0 k.site k.seq ⟨[], true⟩]))

/-- R181 to R183, R289 to R293, R317, R318: the winnower's words on buffers, and the norm. That `NORMX` refuses a count of 0 or
above 65,536 is the model's reading (log 23). -/
def Obligations.WinnowerWords : Prop := ∀ (sign bf : Bool) (n : BlkLen) (a b c : FReg) (s : State) (p : Nat) (x : FxSt) (k : FxStart),
  FxAt s p x k →
  let e := (x.r c).toNat
  let o := (x.r a).toNat
  let i := (x.r b).toNat
  let bl := BlkLen.n n
  let il := imageBytes sign bl e
  let w := e * (if bf then 2 else 4)
  let skips (j : Instr) : Prop := e = 0 → FxLeaves j s s p { x with fpc := x.fpc + 8 }
  (let j : Instr := .fxDec sign n a b c
    let good : Prop := InBuf (x.r a) (4 * e) ∧ InBuf (x.r b) il ∧ Apart o (4 * e) i il
    let code (m : Nat) : Byte := x.buf.get 0 (codePlace sign bl e i m).1
    let new (m : Nat) : W32 := Num.ternValue (x.half (i + 2 * (m / bl)))
      (let g := (codePlace sign bl e i m).2
        if sign then (if (code m).getLsbD g then -1 else 1) else (((code m).toNat / 3 ^ g % 3 : Nat) : Int) - 1)
    skips j ∧ (e ≠ 0 → ¬ good → FxFaults j s s p fcOperand 0 0)
    ∧ (e ≠ 0 → good → (∀ y, i + 2 * ((e + bl - 1) / bl) ≤ y → y < i + il → sign = true ∨ (x.buf.get 0 y).toNat < 243) →
      ∃ bs, FxFills j s s p x o bs ∧ bs.length = 4 * e ∧ ∀ m, m < e → natOf ((bs.drop (4 * m)).take 4) = (new m).toNat)
    ∧ (e ≠ 0 → good → sign = false → (∃ y, i + 2 * ((e + bl - 1) / bl) ≤ y ∧ y < i + il ∧ 243 ≤ (x.buf.get 0 y).toNat) →
      ∃ x1 bs, BufPut x x1 o bs ∧ bs.length = 4 * e
        ∧ (∀ m, m < e → let v := natOf ((bs.drop (4 * m)).take 4)
          v = (x.word32 (o + 4 * m)).toNat ∨ v = (new m).toNat ∨ 243 ≤ (code m).toNat)
        ∧ ∃ s1 : State, s1 = { s with fxs := s1.fxs } ∧ s1.fx p = x1
        ∧ FxFaults j s1 s p fcGleaning 5 0))
  ∧ (let j : Instr := .fxEnc sign n a b c
    let good : Prop := e ≤ 16384 ∧ InBuf (x.r a) il ∧ InBuf (x.r b) (4 * e) ∧ Apart o il i (4 * e)
    let el (m : Nat) : W32 := x.word32 (i + 4 * m)
    let sc (m : Nat) : Nat := Num.ternScale ((List.range bl).map (fun y => if m * bl + y < e then el (m * bl + y) else 0))
    let code (m : Nat) : Int := Num.ternCode sign (sc (m / bl)) (el m)
    skips j ∧ (e ≠ 0 → ¬ good → FxFaults j s s p fcOperand 0 0)
    ∧ (e ≠ 0 → good → ∃ x', FxLeaves j s s p x' ∧ x' = { x with buf := x'.buf, busy := some (x.fpc + 8) }
      ∧ (∀ m, m < (e + bl - 1) / bl → x'.half (o + 2 * m) = sc m)
      ∧ (∀ m, m < e → let y := codePlace sign bl e o m
          (sign = true → (x'.buf.get 0 y.1).getLsbD y.2 = decide (code m < 0))
          ∧ (sign = false → (x'.buf.get 0 y.1).toNat / 3 ^ y.2 % 3 = (code m + 1).toNat))
      ∧ (∀ m, m < e → x'.word32 (i + 4 * m) =
          (Num.rnd32 .rn (Sys2Proof.Num.add false (Num.dec32 (el m)) (Num.dec32 (Num.ternValue (sc (m / bl)) (code m))).flip).1).1)
      ∧ ∀ y, (y < o ∨ o + il ≤ y) → (y < i ∨ i + 4 * e ≤ y) → x'.buf.get 0 y = x.buf.get 0 y))
  ∧ (let j : Instr := .fxAddb bf a b c
    let good : Prop := InBuf (x.r a) w ∧ InBuf (x.r b) w ∧ (o = i ∨ Apart o w i w)
    skips j ∧ (e ≠ 0 → ¬ good → FxFaults j s s p fcOperand 0 0)
    ∧ (e ≠ 0 → good → ∃ bs, FxFills j s s p x o bs ∧ bs.length = w ∧ ∀ m, m < e →
      (bf = false → natOf ((bs.drop (4 * m)).take 4) =
        (Num.rnd32 .rn (Sys2Proof.Num.add false (Num.dec32 (x.word32 (i + 4 * m))) (Num.dec32 (x.word32 (o + 4 * m)))).1).1.toNat)
      ∧ (bf = true → natOf ((bs.drop (2 * m)).take 2) =
        (Num.bf16.round .rn 0 (Num.dec32 (Num.rnd32 .rn (Sys2Proof.Num.add false (Num.bf16.decode (x.half (i + 2 * m)))
          (Num.bf16.decode (x.half (o + 2 * m)))).1).1)).1)))
  ∧ (let j : Instr := .fxSqacc bf a c
    let el (m : Nat) : Num.XV := if bf then Num.bf16.decode (x.half (o + 2 * m)) else Num.dec32 (x.word32 (o + 4 * m))
    skips j ∧ (e ≠ 0 → ¬ InBuf (x.r a) w → FxFaults j s s p fcOperand 0 0)
    ∧ (e ≠ 0 → InBuf (x.r a) w →
      let sum : W64 := (List.range e).foldl (fun acc m => BitVec.ofNat 64
        (Num.fp64.round .rn 0 (Sys2Proof.Num.add false (Num.fp64.decode acc.toNat) (Sys2Proof.Num.mul (el m) (el m)).1).1).1) x.nacc
      FxLeaves j s s p { x with busy := some (x.fpc + 8), nacc := sum }))
  ∧ (let j : Instr := .fxNormx a b c
    (i = 0 ∨ 65536 < i → FxFaults j s s p fcOperand 0 0)
    ∧ (1 ≤ i → i ≤ 65536 → e % 4 ≠ 0 → FxFaults j s s p fcMisaligned 0 (x.r c))
    ∧ ∀ s1 bs, 1 ≤ i → i ≤ 65536 → e % 4 = 0 → FxReads s s1 p k (x.r a) (2 * i) bs →
      let ranks := (List.range i).map (fun m => natOf ((bs.drop (2 * m)).take 2))
      (ranks.count s1.devId ≠ 1 → FxFaults j s1 s p fcLayout 0 0)
      ∧ (ranks.count s1.devId = 1 → (∀ r ∈ ranks, r ≠ s1.devId → s1.peerStop k.slot r = none) → ∃ ws s2,
        s2 = { s1 with nextId := s2.nextId, fxWires := s1.fxWires ++ ws } ∧ FxLeaves j s2 s p { x with wait := .norm ranks (x.r c) }
        ∧ (∀ r, r ∈ ws.map (fun y => y.dev) ↔ r ∈ ranks ∧ r ≠ s1.devId) ∧ (ws.map (fun y => y.dev)).Nodup
        ∧ ∀ y ∈ ws, y.p = p ∧ y.proc = p ∧ y.pkt = .partial_ x.nacc ∧ y.job = s1.job k.slot))

/-- R299 to R305, R319: gleaning words claim an entry, add its slots to a buffer, store residuals, count hops and release. That
a count of 0 is done before its claim is looked at, and that a claim cannot be made while one is held, are the model's readings
(log 23). -/
def Obligations.GleaningWords : Prop := ∀ (a b c : FReg) (s : State) (p : Nat) (x : FxSt) (k : FxStart), FxAt s p x k →
  let h : W32 := (x.r a).setWidth 32
  let cid : W32 := (x.r b).setWidth 32
  let n := (x.r c).toNat
  let o := (x.r a).toNat
  let die := p / 2
  (
    let claims (i : Instr) (need : Nat) (rest : State → Nat → List Byte → Prop) : Prop :=
    (x.claim ≠ none → FxFaults i s s p fcOperand 0 0)
    ∧ (x.claim = none → (∀ e, ¬ GlnEntry s k.slot h e) → FxFaults i s s p fcGleaning 1 0)
    ∧ ∀ e s1 bs, x.claim = none → GlnEntry s k.slot h e → s.rawRead 2 die k.slot e 32 = (s1, .ok bs) →
      (EntryStale bs h → FxFaults i s1 s p fcGleaning 2 0)
      ∧ (¬ EntryStale bs h → EntrySmall bs need → FxFaults i s1 s p fcGleaning 3 0)
      ∧ (¬ EntryStale bs h → ¬ EntrySmall bs need → rest s1 e bs)
    claims (.fxGlnClm a b c) n (fun s1 e bs =>
      (EntryBusy bs → FxFaults (.fxGlnClm a b c) s1 s p fcGleaning 4 0)
      ∧ (¬ EntryBusy bs → ∀ s2 s3, FlagsPut s1 s2 p k.slot e 2 0 →
        s2.rawWrite 2 die k.slot (e + 0x10) (bytesOf 4 0 ++ bytesOf 4 cid.toNat) = (s3, .ok ()) →
        FxLeaves (.fxGlnClm a b c) s3 s p { x with claim := some (claimOfEntry h e bs cid), owes := false, fpc := x.fpc + 8 }))
    ∧ claims (.fxGlnRsm a b c) 0 (fun s1 e bs =>
      let held : Prop := EntryBusy bs ∧ fld (entryQ bs 2) 63 32 = cid.toNat
      (¬ held → FxFaults (.fxGlnRsm a b c) s1 s p fcGleaning 4 0)
      ∧ (held → FxSets (.fxGlnRsm a b c) s1 s p { x with claim := some (claimOfEntry h e bs cid) } c (BitVec.ofNat 64 (fld (entryQ bs 2) 31 0)))))
  ∧ (let slots (i : Instr) (rest : GClaim → Prop) : Prop :=
    (n = 0 → FxLeaves i s s p { x with fpc := x.fpc + 8 })
    ∧ (n ≠ 0 → ¬ InBuf (x.r a) (4 * n) → FxFaults i s s p fcOperand 0 0)
    ∧ (n ≠ 0 → InBuf (x.r a) (4 * n) → x.claim = none → FxFaults i s s p fcGleaning 1 0)
    ∧ ∀ cl, n ≠ 0 → InBuf (x.r a) (4 * n) → x.claim = some cl →
      (cl.elems < (x.r b).toNat + n → FxFaults i s s p fcGleaning 3 0) ∧ ((x.r b).toNat + n ≤ cl.elems → rest cl)
    slots (.fxGlnAdd a b c) (fun cl => ∀ s1 bs, s.rawRead 2 die k.slot (cl.addr.toNat + 4 * (x.r b).toNat) (4 * n) = (s1, .ok bs) →
      ∃ r, FxFills (.fxGlnAdd a b c) s1 s p x o r ∧ r.length = 4 * n ∧ ∀ m, m < n → natOf ((r.drop (4 * m)).take 4) =
        (Num.rnd32 .rn (Sys2Proof.Num.add false (Num.dec32 (x.word32 (o + 4 * m)))
          (Num.dec32 (BitVec.ofNat 32 (natOf ((bs.drop (4 * m)).take 4))))).1).1.toNat)
    ∧ slots (.fxGlnSt a b c) (fun cl => ∀ s1, s.rawWrite 2 die k.slot (cl.addr.toNat + 4 * (x.r b).toNat) (x.bytes o (4 * n)) = (s1, .ok ()) →
      let x' := { x with owes := true, busy := some (x.fpc + 8) }
      let finite : Prop := ∀ m, m < n → (Num.dec32 (x.word32 (o + 4 * m))).finite = true
      (finite → FxLeaves (.fxGlnSt a b c) s1 s p x')
      ∧ (¬ finite → ∀ s2, FlagsPut s1 s2 p k.slot cl.entry 4 0 → FxLeaves (.fxGlnSt a b c) s2 s p x')))
  ∧ (x.claim = none → FxFaults .fxGlnHop s s p fcGleaning 1 0 ∧ FxFaults .fxGlnRel s s p fcGleaning 1 0)
  ∧ ∀ cl, x.claim = some cl →
    (∀ s1 v, s.rawUpd 2 die k.slot (cl.entry + 0x10) 4 (fun y => y + 1) = (s1, .ok v) →
      FxLeaves .fxGlnHop s1 s p { x with owes := false, fpc := x.fpc + 8 })
    ∧ ∀ s1 s2 v, s.rawUpd 2 die k.slot (cl.entry + 0x18) 8 (fun y => y + 1) = (s1, .ok v) → FlagsPut s1 s2 p k.slot cl.entry 0 2 →
      FxLeaves .fxGlnRel s2 s p { x with claim := none, owes := false, fpc := x.fpc + 8 }

-- ## Copy engines and the fabric (05_translation.md, 07_copy_engines.md, 17_fabric.md)

/-- R84, R86, R97, R99, R101, R115: what an engine's access to one byte finds, and what it reads, writes and updates over a mapped
range: every byte as its home slice holds it, nothing outside the 64-byte bursts it writes, its requests made, and none of it
while a regulator holds it back. That an engine's walk takes no time of its own is log 33. -/
def Claim.EngineAccesses : Prop := ∀ (s : State) (die slot va : Nat) (need : Need),
  let missed : Prop := va < 2 ^ 52 ∧ tlbFind (s.engTlb.get [] die) (s.ctxAsid slot) va = none
  (2 ^ 52 ≤ va → s.engByte die slot need va = (s, .error (.fault 0x06 1 va)))
  ∧ (missed → ¬ s.walkFree die slot va → ∃ s1, s1 = { s with walks := s1.walks, nextId := s1.nextId } ∧ s.engByte die slot need va = (s1, .error .wait))
  ∧ (∀ f, missed → s.walkFree die slot va → s.walk slot va = .error f →
      ∃ s1, s1 = { s with traffic := s1.traffic, nextId := s1.nextId } ∧ s.engByte die slot need va = (s1, .error (.fault f.1 f.2 va)))
  ∧ (∀ e, EngFinds s die slot va e → ∃ s1, s1 = { s with engTlb := s1.engTlb, traffic := s1.traffic, nextId := s1.nextId }
      ∧ s.engByte die slot need va = (s1,
      if (need = .r ∨ need = .rw) ∧ e.r = false then .error (.fault 0x07 0x8 va)
      else if (need = .w ∨ need = .rw) ∧ e.w = false then .error (.fault 0x07 0x9 va)
      else if need = .x ∧ e.x = false then .error (.fault 0x07 0xA va)
      else if s.keyLoaded e.key = false then .error (.fault 0x07 0xB va)
      else if s.keyLoad.contains e.key = true then .error .wait
      else if e.ofs = 2 then .error (.fault 0x08 0 va)
      else if e.ofs = 3 ∨ (e.ofs = 1 ∧ (need = .w ∨ need = .rw)) then .error .wait
      else if s.unbacked (e.at_ va) = true then .error (.fault 0x16 0 va)
      else .ok (canon (e.pa + (va - e.base)) e.dl, e.attr)))
  ∧ ∀ cls ls,
    let asks (k : TKind) : Except State State := s.pass (s.engTraffic slot cls k ls) true
    let one : Prop := (ls.map Prod.fst).Nodup ∧ ∀ x ∈ ls, ∀ y ∈ ls, x.1 / 64 = y.1 / 64 → x.2.key = y.2.key
    let wrote (t : State) (bs : List Byte) : Prop :=
      t = { s with
        mem := t.mem, burst := t.burst, poison := t.poison, stale := t.stale, ckpt := t.ckpt, wireOut := t.wireOut
        traffic := t.traffic, nextId := t.nextId, ecmds := t.ecmds }
      ∧ SameCopies s t
      ∧ (∀ (j : Nat) (x : Nat × Attr) (b : Byte), ls[j]? = some x → bs[j]? = some b → t.homeByte x.2.key x.1 = b)
      ∧ ∀ k a, (∀ x ∈ ls, x.1 / 64 ≠ a / 64) → t.homeByte k a = s.homeByte k a
    (EngMapped s die slot .r va ls → (∀ x ∈ ls, s.homePoison x.1 = false) →
      (∀ w, asks .read = .error w → s.engRead cls die slot va ls.length = (w, .error .wait))
      ∧ ∀ u, asks .read = .ok u → s.engRead cls die slot va ls.length = (u, .ok (ls.map (fun x => s.homeByte x.2.key x.1))))
    ∧ (∀ bs : List Byte, EngMapped s die slot .w va ls → bs.length = ls.length → one →
      ∃ t, s.rawWrite cls die slot va bs = (t, .ok ()) ∧ wrote t bs
        ∧ (∀ w, s.pass t true = .error w → s.engWrite cls die slot va bs = (w, .error .wait))
        ∧ ∀ u, s.pass t true = .ok u → s.engWrite cls die slot va bs = (u, .ok ()))
    ∧ (∀ f : W64 → W64, EngMapped s die slot .rw va ls → (∀ x ∈ ls, s.homePoison x.1 = false) → one →
      let old : W64 := BitVec.ofNat 64 (natOf (ls.map (fun x => s.homeByte x.2.key x.1)))
      ∃ t, s.rawUpd cls die slot va ls.length f = (t, .ok old) ∧ wrote t (bytesOf ls.length (f old).toNat)
        ∧ (∀ w, s.pass t true = .error w → s.engUpd cls die slot va ls.length f = (w, .error .wait))
        ∧ ∀ u, s.pass t true = .ok u → s.engUpd cls die slot va ls.length f = (u, .ok old))

/-- R101, R102: what becomes of an access whose effects lead from `s` to `t`. It goes on with all of them, or it has none but its
requests, which stand in their queues, and its walks. With no `CAP` set nothing is held back; a request that finds fewer tokens
than its bytes under a regulator with `CAP` is. That an access goes on only once all that it made has been served is the model's
reading (log 31). -/
def Claim.Regulated : Prop := ∀ (s t : State) (reads : Bool),
  (∀ u, s.pass t reads = .ok u → u = { t with posts := u.posts, traffic := u.traffic })
  ∧ (∀ w, s.pass t reads = .error w →
      w = { s with engTlb := w.engTlb, walks := w.walks, nextId := w.nextId, traffic := w.traffic, posts := w.posts })
  ∧ (t.traffic = s.traffic → s.pass t reads = .ok t)
  ∧ (s.posts = [] →
    ((∀ n k, fld (s.reg (l2RegAddr n k)) 1 1 = 0) → s.pass t reads = .ok t)
    ∧ (∀ x ∈ s.newRequests t reads, t.traffic ≠ s.traffic → x.2.cls < 3 → s.ctxEn x.2.slot = true → x.2.slot ∉ s.ended →
      let k := regOf x.1 x.2
      fld (s.reg (l2RegAddr x.2.slot k)) 0 0 = 1 → fld (s.reg (l2RegAddr x.2.slot k)) 1 1 = 1 →
      s.bucket x.1 x.2.slot k < 65536 * x.2.cost x.1 →
      ∃ w, s.pass t reads = .error w ∧ ∀ y ∈ s.newRequests t reads, y.2.cls < 3 → y.2 ∈ w.traffic.get [] y.1))

/-- R105, R109, R113 to R116, R119: an engine starts its oldest command, claiming the pages of an offload or a return; delivery
units move and are counted; a page whose bytes have all gone or come settles; a command whose units are all counted completes;
the first failing byte in copy order ends one, unless a byte before it waits, and a reset ends every command of the engine. That an
offload sends its bytes as claimed (log 18), that each unit moves in a step of its own (log 19) and that a regulator holds such a
step back whole (log 31) are the model's readings. -/
def Obligations.CopySteps : Prop := ∀ s : State,
  let u := s.ev.unit
  (∀ id rest c, u < 32 → s.ceEn u = true → s.paused = false → (s.engine u).active.length < 8 → (s.engine u).queue = id :: rest →
    s.ecmds.find? id = some c →
    let taken (t : State) : State := t.setEngine u ⟨rest, (s.engine u).active ++ [id]⟩
    let outside (lo hi : Nat) (e : TlbE) : Prop := e.base < lo ∨ hi < e.base + e.size
    (∀ dir dst src d, c.op = .cpy dir dst src d → ∃ t, exec .copyCommandStart s = .next t
      ∧ t = { s with ecmds := t.ecmds, engines := t.engines }
      ∧ t.engine u = ⟨rest, (s.engine u).active ++ [id]⟩ ∧ (∀ e, e ≠ u → t.engine e = s.engine e)
      ∧ t.ecmds.find? id = some { c with started := true } ∧ ∀ j, j ≠ id → t.ecmds.find? j = s.ecmds.find? j)
    ∧ ∀ loc rem len dev (off : Bool), c.op = (if off then .offl loc rem len dev else .rtrn loc rem len dev) →
      let lo := loc.toNat
      let hi := loc.toNat + len.toNat
      let from_ := if off then 0 else 2
      let c1 := { c with started := true }
      let walk := s.leaves (c.engine / 4) c.ctx (len.toNat / 65536) lo hi
      (∀ s1, walk = (s1, .error .wait) → exec .copyCommandStart s = .next (s.waiting s1))
      ∧ (∀ s1 f d va, walk = (s1, .error (.fault f d va)) → exec .copyCommandStart s = .next ((taken s1).copyFault id c1 f d va))
      ∧ ∀ s1 es, walk = (s1, .ok es) →
        ((∀ e ∈ es, ¬ outside lo hi e ∧ e.ofs = from_ ∧ s1.permit (if off then .r else .w) e = none) →
          ∃ t, Leads .copyCommandStart s t ∧ t.engine u = ⟨rest, (s.engine u).active ++ [id]⟩
          ∧ t.ecmds.find? id = some { c1 with pages := es.map (fun e => ⟨e, false⟩) }
          ∧ SameCopies { s with ecmds := s.ecmds.erase id } { t with ecmds := t.ecmds.erase id }
          ∧ ∀ e ∈ es, (t.homeByte (s.ctxTkey c.ctx) (e.entry + 1)) >>> 2 &&& 3 = if off then 1 else 3)
        ∧ (∀ pre e post, es = pre ++ e :: post → outside lo hi e → (∀ x ∈ pre, ¬ outside lo hi x) →
          exec .copyCommandStart s = .next ((taken s1).copyFault id c1 0x11 3 (max e.base lo)))
        ∧ (∀ pre e post, es = pre ++ e :: post → (∀ x ∈ es, ¬ outside lo hi x) → e.ofs ≠ from_ → (∀ x ∈ pre, x.ofs = from_) →
          exec .copyCommandStart s = .next ((taken s1).copyFault id c1 0x11 2 e.base))
        ∧ ∀ pre e post f, es = pre ++ e :: post → (∀ x ∈ es, ¬ outside lo hi x ∧ x.ofs = from_) →
          (∀ x ∈ pre, s1.permit (if off then .r else .w) x = none) → s1.permit (if off then .r else .w) e = some f →
          exec .copyCommandStart s = .next ((taken s1).copyFault id c1 f.1 f.2 e.base))
  ∧ (s.ceEn u = false ∨ s.paused = true ∨ 8 ≤ (s.engine u).active.length ∨ (s.engine u).queue = [] → exec .copyCommandStart s = .next s)
  ∧ (∀ c dir dst src d, s.ecmds.find? u = some c → c.started = true → c.unitLen s.ev.idx ≠ 0 → c.units.get 0 s.ev.idx = 0 →
      c.fail = none → c.op = .cpy dir dst src d → s.ev.on = true → c.engine < 32 →
      let pos := s.ev.idx
      let n := c.unitLen pos
      let bytes (s2 t : State) : Prop := t.reg (ceAddr c.engine 0x10) = s2.reg (ceAddr c.engine 0x10) + BitVec.ofNat 64 n
        ∧ ∀ a, a ≠ ceAddr c.engine 0x10 → t.reg a = s2.reg a
      let counted (s2 t : State) (w : Wrote) : Prop := t = { s2 with ecmds := t.ecmds, mmio := t.mmio, phMsgs := t.phMsgs } ∧ bytes s2 t
        ∧ (∀ j, j ≠ u → t.ecmds.find? j = s2.ecmds.find? j)
        ∧ (c.np = false → t.ecmds.find? u = some { c with units := c.units.set 0 pos 2 }
          ∧ t.phMsgs = s2.phMsgs ++ [countMsg c.phaser c.ctx n .copy u c.org pos (BitVec.ofNat 64 (c.dstAt pos)) c.site c.seq w])
        ∧ (c.np = true → t.ecmds.find? u = some { c with units := c.units.set 0 pos 3, left := c.left - n } ∧ t.phMsgs = s2.phMsgs)
      (∀ tid tm, dir = .s2s → c.tid = some tid → s.team tid = some tm → c.np = false ∨ n < c.left →
        (∀ j, j < n → tm.poison.get false (c.off tm (c.srcAt pos + j) / 32) = false) →
        ((List.range n).map (fun j => c.off tm (c.dstAt pos + j))).Nodup →
        ∃ t tm', exec .deliveryUnitCount s = .next t ∧ SameHome s t ∧ t.groups = s.groups ∧ bytes s t ∧ t.team tid = some tm'
          ∧ tm' = { tm with sram := tm'.sram, poison := tm'.poison }
          ∧ (∀ j, j < n → tm'.sram.get 0 (c.off tm (c.dstAt pos + j)) = tm.sram.get 0 (c.off tm (c.srcAt pos + j)))
          ∧ ∀ o, (∀ j, j < n → o ≠ c.off tm (c.dstAt pos + j)) → tm'.sram.get 0 o = tm.sram.get 0 o)
      ∧ (∀ s1 src dst, s.sides c dir pos n = (s1, .ok (src, dst)) →
        let s2 := s1.moveBytes c dir src dst
        (srcGlob dir = true → dstGlob dir = true → (dst.map Prod.fst).Nodup →
          (∀ x ∈ dst, ∀ y ∈ dst, x.1 / 64 = y.1 / 64 → x.2.key = y.2.key) →
          ∀ (j : Nat) (x y : Nat × Attr), src[j]? = some x → dst[j]? = some y → s2.homeByte y.2.key y.1 = s1.homeByte x.2.key x.1)
        ∧ (c.np = false ∨ n < c.left → ∃ t, Leads .deliveryUnitCount s t
          ∧ counted s2 t (if dstGlob dir then s2.sectorsAt (c.engine / 4) c.ctx (c.dstAt pos) n else Wrote.none))
        ∧ ∀ gid g, c.np = true → c.left ≤ n → c.org = .group gid → c.tid = some g.tid → s.grp gid = some g → s.idleEnds →
          ∃ t, Leads .deliveryUnitCount s t ∧ t.ecmds.find? u = none ∧ t.grp gid = some (g.undrained .copy)
          ∧ fld (t.reg (ceAddr c.engine 0x18)) 31 0 = (fld (s.reg (ceAddr c.engine 0x18)) 31 0 + 1) % 2 ^ 32)
      ∧ ∀ s1 x, s.sides c dir pos n = (s1, .error x) →
        ((∀ a b va, s1.firstStop c dir pos n ≠ some (.fault a b va)) → exec .deliveryUnitCount s = .next (s.waiting s1))
        ∧ ∀ a b va, s1.firstStop c dir pos n = some (.fault a b va) →
          let c' := { c with fail := some (pos, a, b, va) }
          let s' := { s1 with ecmds := s1.ecmds.insert u c' }
          (pos ≤ c.firstBelow 3 c.op.bytes 0 → exec .deliveryUnitCount s = .next (s'.copyFault u c' a b va))
          ∧ (c.firstBelow 3 c.op.bytes 0 < pos → exec .deliveryUnitCount s = .next s'))
  ∧ (∀ (m : PhMsg) p c, s.phMsgs[u]? = some m → m.flt = none → m.kind = .copy → s.ecmds.find? m.cmd = some c → c.fail = none →
      let s0 := { s with phMsgs := s.phMsgs.eraseIdx u }
      let c' := { c with fail := some (m.pos, 0x11, 1, m.addr.toNat) }
      let s' := { s0 with ecmds := s0.ecmds.insert m.cmd c' }
      (s.phaser m.phaser = none ∨ (s.phaser m.phaser = some p ∧ p.owner ≠ m.slot) →
        (m.pos ≤ c.firstBelow 3 c.op.bytes 0 →
          exec .phaserEngineCount s = .next (s.passed ((s'.copyFault m.cmd c' 0x11 1 m.addr.toNat).phaserGc m.phaser)))
        ∧ (c.firstBelow 3 c.op.bytes 0 < m.pos → exec .phaserEngineCount s = .next (s'.phaserGc m.phaser)))
      ∧ ∀ gid g, s.phaser m.phaser = some p → p.owner = m.slot → p.cnt + m.n < 2 ^ 48 → c.claims = false → c.left ≤ m.n → c.engine < 32 →
        c.org = .group gid → c.tid = some g.tid → s.grp gid = some g → s.idleEnds →
        ∃ t, exec .phaserEngineCount s = .next t ∧ t.ecmds.find? m.cmd = none ∧ t.grp gid = some (g.undrained .copy)
          ∧ fld (t.reg (ceAddr c.engine 0x18)) 31 0 = (fld (s.reg (ceAddr c.engine 0x18)) 31 0 + 1) % 2 ^ 32)
  ∧ (∀ c gid g code detail va, s.ecmds.find? u = some c → (∀ p ∈ c.pages, p.settled = true) → c.engine < 32 → c.org = .group gid →
      s.grp gid = some g → c.tid = some g.tid → g.pendq.length < 8 → s.idleEnds →
      CopyFailed s (s.copyFault u c code detail va) u c gid g (c.faultAs code detail va))
  ∧ (∀ c rem loc len dev, s.ecmds.find? u = some c → c.started = true → c.unitLen s.ev.idx ≠ 0 → c.units.get 0 s.ev.idx = 0 →
      c.fail = none → dev ≠ s.devId → s.peerStop c.ctx dev = none →
      let pos := s.ev.idx
      let n := c.unitLen pos
      let sends (s1 : State) (k : PktKind) : Prop := ∃ t, Leads .deliveryUnitCount s t
        ∧ t = { s1 with ecmds := t.ecmds, wireOut := s1.wireOut ++ [s.packet c.ctx dev u pos k] }
        ∧ t.ecmds.find? u = some { c with units := c.units.set 0 pos 1 } ∧ ∀ j, j ≠ u → t.ecmds.find? j = s1.ecmds.find? j
      (∀ s1 bs, c.op = .offl loc rem len dev → s.rawRead 1 (c.engine / 4) c.ctx (loc.toNat + pos) n = (s1, .ok bs) →
        sends s1 (.write (rem + BitVec.ofNat 64 pos) (c.claimed (loc.toNat + pos) bs)))
      ∧ (c.op = .rtrn loc rem len dev → sends s (.read (rem + BitVec.ofNat 64 pos) n)))
  ∧ (∀ c p (off : Bool), s.ecmds.find? u = some c → c.pages[s.ev.idx]? = some p → p.settled = false → c.fail = none →
      (match c.op with | .cpy .. => False | .offl .. => off = true | .rtrn .. => off = false) →
      let i : Instr := if off then .offloadPageOut else .returnPageResident
      (c.pageDone p = false ∨ s.walkHeld c.ctx = true → exec i s = .next s)
      ∧ (c.pageDone p = true → s.walkHeld c.ctx = false → ∃ t, Leads i s t
        ∧ (∀ core, ∀ e ∈ (t.core core).tlb, e.entry ≠ p.e.entry)
        ∧ ((∃ q y, q ≠ s.ev.idx ∧ c.pages[q]? = some y ∧ y.settled = false) → s.idleEnds →
          (t.homeByte (s.ctxTkey c.ctx) (p.e.entry + 1)) >>> 2 &&& 3 = (if off then 2 else 0)
          ∧ (off = true → ∀ core, ∀ l ∈ (t.core core).lines, lineInRange [(p.e.base, p.e.base + p.e.size, p.e)] l.line = false)
          ∧ ∃ c', t.ecmds.find? u = some c' ∧ c'.left = c.left
          ∧ c'.pages[s.ev.idx]? = some ⟨p.e, true⟩ ∧ ∀ q, q ≠ s.ev.idx → c'.pages[q]? = c.pages[q]?)
        ∧ (c.left = 0 → (∀ q y, q ≠ s.ev.idx → c.pages[q]? = some y → y.settled = true) → t.ecmds.find? u = none)))
  ∧ (u < 32 →
    let ids := (s.engine u).active ++ (s.engine u).queue
    ((∀ id ∈ ids, id < s.nextId) → ∃ t, exec .ceReset s = .next t ∧ ∀ id ∈ ids, ∀ c, t.ecmds.find? id = some c →
      ∃ va, c.fail = some (0, 0x11, 4, va))
    ∧ ∀ (cs : List CopyCmd) gid g, ids.map (fun id => s.ecmds.find? id) = cs.map some → ids.Nodup → s.grp gid = some g → g.pendq.length + ids.length ≤ 8 → s.idleEnds →
      (∀ c ∈ cs, c.org = .group gid ∧ c.tid = some g.tid ∧ c.engine = u ∧ ∀ p ∈ c.pages, p.settled = true) →
      let f (c : CopyCmd) : AFault := c.faultAs 0x11 4 (c.dstAt (c.firstBelow 2 c.op.bytes 0))
      ∃ t, exec .ceReset s = .next t
        ∧ t = { s with
          ecmds := t.ecmds, engines := t.engines, mmio := t.mmio, groups := t.groups, phMsgs := t.phMsgs, phasers := t.phasers
          wireOut := t.wireOut }
        ∧ t.engine u = ⟨[], []⟩ ∧ t.grp gid = some { g with drCp := g.drCp - ids.length, pendq := g.pendq ++ cs.map f }
        ∧ (∀ j, j ≠ gid → t.grp j = s.grp j) ∧ (∀ j, j ∉ ids → t.ecmds.find? j = s.ecmds.find? j)
        ∧ fld (t.reg (ceAddr u 0x18)) 63 32 = (fld (s.reg (ceAddr u 0x18)) 63 32 + ids.length) % 2 ^ 32
        ∧ fld (t.reg (ceAddr u 0x18)) 31 0 = fld (s.reg (ceAddr u 0x18)) 31 0 ∧ (∀ a, a ≠ ceAddr u 0x18 → t.reg a = s.reg a)
        ∧ t.phMsgs = s.phMsgs ++ (cs.filter (fun c => !c.np)).map (fun c => faultMsg c.phaser c.ctx c.org (f c)))
  ∧ (u < 32 → ∃ t, exec .ceEn s = .next t ∧ t = { s with mmio := t.mmio } ∧ fld (t.reg (ceAddr u 0)) 0 0 = (if s.ev.on then 1 else 0)
    ∧ ∀ a, a ≠ ceAddr u 0 → t.reg a = s.reg a)

/-- R276 to R284: packets are performed at the slot that holds their job and answered; units of remote commands are sent, answered
and counted; the answers to `GETR`, `RATOM` and `APPEND` bring bytes to memory, and old values and positions to their lanes' registers;
a trigger fires when its counter has reached its threshold; a failing unit ends its command once every byte before it is done; what
is on the wire when its transport fails ends with cause 6, at its first failing byte; job and table registers. That a regulator
holds such a step back whole is the model's reading of R101 (log 31). -/
def Obligations.FabricSteps : Prop := ∀ s : State,
  let u := s.ev.unit
  (∀ p : Packet, s.ev.data = .packet p → u < 64 → s.present (.port u) = true →
    let die := u / 8
    let answers (s1 : State) (r : Reply) : Prop :=
      Leads .fabricPacketArrival s { s1 with replies := s1.replies ++ [(p.src, p.cmd, p.part, r)] }
    (s.slotOfJob p.job.toNat = none → answers s (.fault 1 0 (PktKind.addr p.kind)))
    ∧ ∀ n, s.slotOfJob p.job.toNat = some n →
      (∀ va bs s1, p.kind = .write va bs ∨ p.kind = .row va bs →
        (s.rawWrite 2 die n va.toNat bs = (s1, .ok ()) → answers s1 .ok)
        ∧ (s.rawWrite 2 die n va.toNat bs = (s1, .error .wait) → exec .fabricPacketArrival s = .next (s.waiting s1))
        ∧ ∀ code dt a, s.rawWrite 2 die n va.toNat bs = (s1, .error (.fault code dt a)) →
          answers s1 (.fault (if code = 0x06 then 2 else if code = 0x07 then 3 else if code = 0x08 then 4 else 5)
            (if code = 0x06 ∨ code = 0x07 then BitVec.ofNat 6 (dt % 64) else 0) (BitVec.ofNat 64 a)))
      ∧ (∀ va len s1 bs, p.kind = .read va len → s.rawRead 2 die n va.toNat len = (s1, .ok bs) → answers s1 (.data bs))
      ∧ (∀ va op len s1 v, p.kind = .flag va op len → s.rawUpd 2 die n va.toNat 8 (fun old => match op with
          | .inc => old + 1
          | .addb => old + BitVec.ofNat 64 len
          | .set => 1) = (s1, .ok v) → answers s1 .ok)
      ∧ (∀ va w64 op v cmp s1 old, p.kind = .atomic va w64 op v cmp →
          s.rawUpd 2 die n va.toNat (if w64 then 8 else 4) (fun x => (match op with
            | .int o => AtOp.int o
            | .cas => AtOp.cas).new w64 x v cmp) = (s1, .ok old) → answers s1 (.old old))
      ∧ ∀ hd k s1 s2 bs tail, p.kind = .append hd k → s.rawRead 2 die n hd.toNat 32 = (s1, .ok bs) →
          let q (i : Nat) : W64 := BitVec.ofNat 64 (natOf ((bs.drop (8 * i)).take 8))
          (¬ (8 ≤ (q 3).toNat ∧ (q 3).toNat ≤ 4096 ∧ (q 3).toNat % 8 = 0) → answers s1 (.fault 7 0 hd))
          ∧ (8 ≤ (q 3).toNat → (q 3).toNat ≤ 4096 → (q 3).toNat % 8 = 0 →
            s1.rawUpd 2 die n hd.toNat 8 (fun y => y + BitVec.ofNat 64 k) = (s2, .ok tail) → answers s2 (.queue tail (q 1) (q 2) (q 3))))
  ∧ (∀ c r l len flag, s.ecmds.find? u = none → s.remotes.find? u = some c → c.op = .put r l len flag → c.trig = none → s.paused = false →
      s.rodBlocked u c = false → s.peerStop c.ctx c.dev = none → c.dev ≠ s.devId → c.units.get 0 s.ev.idx = 0 → c.fail = none →
      let pos := s.ev.idx
      let n := c.unitLen pos
      (n ≠ 0 → (∀ s1 bs, s.rawRead 2 c.die c.ctx (l.toNat + pos) n = (s1, .ok bs) → ∃ t, Leads .deliveryUnitCount s t
          ∧ t = { s1 with
            remotes := t.remotes
            wireOut := s1.wireOut ++ [s.packet c.ctx c.dev u pos (.write (r + BitVec.ofNat 64 pos) bs)] }
          ∧ t.remotes.find? u = some { c with units := c.units.set 0 pos 1, sent := true }
          ∧ ∀ j, j ≠ u → t.remotes.find? j = s.remotes.find? j)
        ∧ (∀ s1, s.rawRead 2 c.die c.ctx (l.toNat + pos) n = (s1, .error .wait) → exec .deliveryUnitCount s = .next (s.waiting s1))
        ∧ ∀ s1 f dt va, s.rawRead 2 c.die c.ctx (l.toNat + pos) n = (s1, .error (.fault f dt va)) →
          exec .deliveryUnitCount s = .next (s.passed (s1.partFault u c pos f dt (BitVec.ofNat 64 va)))))
  ∧ (∀ c r l len rep, s.ev.data = .reply rep → s.fxWires = [] → (∃ p ∈ s.wireOut, p.cmd = u ∧ p.part = s.ev.idx) → s.ecmds.find? u = none →
      s.remotes.find? u = some c → c.op = .put r l len none → s.ev.idx ≠ len.toNat → c.fail = none → c.dev ≠ s.devId →
      let pos := s.ev.idx
      let n := c.unitLen pos
      let left : List Packet → Prop := fun ps => ∀ p, p ∈ ps ↔ p ∈ s.wireOut ∧ ¬ (p.cmd = u ∧ p.part = pos)
      (rep = .ok → n < c.left → ∃ t, exec .remoteAcknowledge s = .next t
        ∧ t = { s with wireOut := t.wireOut, remotes := t.remotes, phMsgs := t.phMsgs }
        ∧ t.remotes.find? u = some { c with units := c.units.set 0 pos 3, left := c.left - n, sent := true }
        ∧ t.phMsgs = s.phMsgs ++ (if c.np then [] else
            [countMsg c.phaser c.ctx n .remote u (.group c.gid) pos (r + BitVec.ofNat 64 pos) c.site c.seq Wrote.none])
        ∧ left t.wireOut)
      ∧ (∀ cause d va, rep = .fault cause d va →
        let f := cause.toNat + 256 * d.toNat
        (pos ≤ c.firstOpen len.toNat 0 → ∀ g, s.grp c.gid = some g → g.tid = c.tid → g.pendq.length < 8 → c.faulted = false → s.idleEnds →
          ∃ t, exec .remoteAcknowledge s = .next t ∧ RemoteFailed s t u c g (c.faultAs 0x12 f va))
        ∧ (c.firstOpen len.toNat 0 < pos → ∃ t, exec .remoteAcknowledge s = .next t
          ∧ t = { s with wireOut := t.wireOut, remotes := t.remotes } ∧ left t.wireOut
          ∧ t.remotes.find? u = some { c with fail := some (pos, 0x12, f, va) }))
      ∧ ∀ g, rep = .ok → c.left ≤ n → s.grp c.gid = some g → g.tid = c.tid → s.idleEnds → ∃ t, exec .remoteAcknowledge s = .next t
        ∧ t.remotes.find? u = none ∧ t.grp c.gid = some (g.undrained .remote))
  ∧ (∀ c rep, s.ev.data = .reply rep → s.fxWires = [] → (∃ p ∈ s.wireOut, p.cmd = u ∧ p.part = s.ev.idx) → s.ecmds.find? u = none →
      s.remotes.find? u = some c → c.fail = none →
      let pos := s.ev.idx
      let n := c.unitLen pos
      (∀ r l len bs, c.op = .get r l len → rep = .data bs →
        (∀ s1, s.rawWrite 2 c.die c.ctx (l.toNat + pos) (bs.take n) = (s1, .ok ()) → n < c.left → ∃ t, Leads .remoteAcknowledge s t
          ∧ t = { s1 with wireOut := t.wireOut, remotes := t.remotes, phMsgs := t.phMsgs }
          ∧ t.remotes.find? u = some { c with units := c.units.set 0 pos 3, left := c.left - n, sent := true }
          ∧ t.phMsgs = s1.phMsgs ++ (if c.np then [] else [countMsg c.phaser c.ctx n .remote u (.group c.gid) pos
              (l + BitVec.ofNat 64 pos) c.site c.seq (s1.sectorsAt c.die c.ctx (l.toNat + pos) n)])
          ∧ ∀ p, p ∈ t.wireOut ↔ p ∈ s1.wireOut ∧ ¬ (p.cmd = u ∧ p.part = pos))
        ∧ (∀ s1, s.rawWrite 2 c.die c.ctx (l.toNat + pos) (bs.take n) = (s1, .error .wait) →
          exec .remoteAcknowledge s = .next (s.waiting s1))
        ∧ ∀ s1 f dt va, s.rawWrite 2 c.die c.ctx (l.toNat + pos) (bs.take n) = (s1, .error (.fault f dt va)) →
          exec .remoteAcknowledge s = .next (s.passed ((s1.answered u pos).partFault u c pos f dt (BitVec.ofNat 64 va))))
      ∧ ∀ g p d, s.grp c.gid = some g → g.pend.find? (fun q => c.pend == some q.id) = some p → p.dests.head? = some d →
        let lane (l : Nat) (w64 : Bool) (v : W64) : List RegWrite :=
          .v d.n l (v.setWidth 32) :: (if w64 then [.v (d.n + 1) l ((v >>> 32).setWidth 32)] else [])
        let brings (ws : List RegWrite) (dem : Bool) (c' : RemoteCmd) : Prop := ∃ t, exec .remoteAcknowledge s = .next t
          ∧ t = { s with wireOut := t.wireOut, remotes := t.remotes, groups := t.groups }
          ∧ t.grp c.gid = some { g with pend := g.pend.map (fun q =>
              if c.pend = some q.id then { q with writes := q.writes ++ ws, demote := q.demote || dem } else q) }
          ∧ (∀ j, j ≠ c.gid → t.grp j = s.grp j) ∧ t.remotes.find? u = some c'
          ∧ ∀ w, w ∈ t.wireOut ↔ w ∈ s.wireOut ∧ ¬ (w.cmd = u ∧ w.part = pos)
        let c1 := { c with units := c.units.set 0 pos 3, left := c.left - 1, sent := true }
        (∀ op w64 o ls v l a x y, c.op = .ratom op w64 o ls → rep = .old v → ls[pos]? = some (l, a, x, y) → 1 < c.left →
          brings (lane l w64 v) (decide (op = .cas ∧ v ≠ y)) c1)
        ∧ (∀ hd ls, c.op = .append hd ls →
          (∀ tl base cap rowb, rep = .queue tl base cap rowb →
            let full (k : Nat) : Prop := cap.toNat ≤ tl.toNat + k
            let late := ls.zipIdx.filter (fun x => decide (full x.2))
            late.length < c.left → ∃ m, brings (late.flatMap (fun x => lane x.1.1 true (BitVec.ofNat 64 (2 ^ 63 + (tl.toNat + x.2))))) false
                { c with units := m, left := c.left - late.length, head := some (tl, base, cap, rowb), sent := true }
              ∧ m.get 0 0 = 3 ∧ ∀ k, k < ls.length → m.get 0 (k + 1) = if cap.toNat ≤ tl.toNat + k then 3 else c.units.get 0 (k + 1))
          ∧ ∀ k l va tl base cap rowb, rep = .ok → pos = k + 1 → ls[k]? = some (l, va) → c.head = some (tl, base, cap, rowb) → 1 < c.left →
            brings (lane l true (tl + BitVec.ofNat 64 k)) false c1))
  ∧ (∀ c th va s1 bs, s.remotes.find? u = some c → c.trig = some (th, va) → s.engRead 2 c.die c.ctx va.toNat 8 = (s1, .ok bs) →
      (natOf bs < th.toNat → exec .remoteTriggerFire s = .next s1)
      ∧ (th.toNat ≤ natOf bs → ∃ t, exec .remoteTriggerFire s = .next t ∧ t = { s1 with remotes := t.remotes }
        ∧ t.remotes.find? u = some { c with trig := none }))
  ∧ (∀ id c len cl pos, s.ev.data = .wire (.remote cl id) → s.remotes.find? id = some c →
      (∃ r l flag, c.op = .put r l len flag) ∨ (∃ r l, c.op = .get r l len) → c.fail = none →
      (∃ p ∈ s.wireOut, p.cmd = id ∧ p.part = pos) → (∀ p ∈ s.wireOut, p.cmd = id → pos ≤ p.part ∧ c.firstOpen len.toNat 0 ≤ p.part) →
      (pos ≤ c.firstOpen len.toNat 0 → ∀ g, s.grp c.gid = some g → g.tid = c.tid → g.pendq.length < 8 → c.faulted = false → s.idleEnds →
        ∃ t, exec .transportFailure s = .next t ∧ RemoteFailed s t id c g (c.faultAs 0x12 6 (c.remoteAt pos)))
      ∧ (c.firstOpen len.toNat 0 < pos → ∃ t, exec .transportFailure s = .next t ∧ t = { s with wireOut := t.wireOut, remotes := t.remotes }
        ∧ t.remotes.find? id = some { c with fail := some (pos, 0x12, 6, c.remoteAt pos) }
        ∧ ∀ p, p ∈ t.wireOut ↔ p ∈ s.wireOut ∧ p.cmd ≠ id))
  ∧ (∀ id c cl pos, s.ev.data = .wire (.copy cl id) → s.ecmds.find? id = some c → c.fail = none →
      (∃ p ∈ s.wireOut, p.cmd = id ∧ p.part = pos) → (∀ p ∈ s.wireOut, p.cmd = id → pos ≤ p.part) → pos ≤ c.firstBelow 3 c.op.bytes 0 →
      let c' := { c with fail := some (pos, 0x12, 6, c.remoteAt pos) }
      exec .transportFailure s = .next (s.passed (({ s with
        wireOut := s.wireOut.filter (fun w => w.cmd != id), ecmds := s.ecmds.insert id c' } : State).copyFault id c' 0x12 6 (c.remoteAt pos))))
  ∧ (∀ p k, s.ev.data = .wire (.fx p) → p < 16 → (s.fx p).cur = some k → (∃ w ∈ s.fxWires, w.p = p ∧ w.dev ≠ s.devId) →
      exec .transportFailure s = .next (s.fxFail p fcFabric 6 0))
  ∧ (u < 64 → let v := s.ev.val
      ∃ t, exec .ueJobWrite s = .next t ∧ t = { s with mmio := t.mmio }
        ∧ ((∃ m, m < 64 ∧ m ≠ u ∧ fld v 32 32 = 1 ∧ s.jobEn m = true ∧ s.job m = fld v 23 0) → t = s)
        ∧ ((∀ m, m < 64 → m ≠ u → ¬ (fld v 32 32 = 1 ∧ s.jobEn m = true ∧ s.job m = fld v 23 0)) →
          fld (t.reg (ueJobAddr u)) 32 32 = fld v 32 32 ∧ fld (t.reg (ueJobAddr u)) 23 0 = fld v 23 0))
  ∧ (u < 64 → ∃ t, exec .gleaningTableWrite s = .next t ∧ t = { s with mmio := t.mmio }
      ∧ fld (t.reg (fxGltabAddr u)) 55 16 = fld s.ev.val 55 16 ∧ fld (t.reg (fxGltabAddr u)) 15 0 = fld s.ev.val 15 0
      ∧ ∀ a, a ≠ fxGltabAddr u → t.reg a = s.reg a)

-- ## The matrix engine's commands and reset (15_matrix_engine.md)

/-- R247, R251, R253, R254, R258, R259, R261: a command takes effect when those it is ordered behind have, and leaves the
engine: the tile elements of an `MMA`'s corner accumulate over ascending groups of K, `ACCZ` and `ACCWR` write their elements,
`ACCQ` its bytes; an `MWAIT` that this completes goes on. A reset discards the core's
commands, zeroes the tiles, leaves `MATRIX_RESET` pending and gives each context with tiles there its event, whether or not a
team of it has a group left. What a latch entry that is for an image does is the model's choice (log 44), and so is the TLB through
which a global `ACCQ` is translated (log 51). That a command reads and writes in one step (log 19), and that a regulator holds it back
whole (log 31), are the model's readings. -/
def Obligations.MatrixSteps : Prop := ∀ s : State,
  let u := s.ev.unit
  (∀ c, s.mcmds.find? u = some c → s.mayComplete u c = false → exec .engineCommandComplete s = .next s)
  ∧ (∀ c tm, s.mcmds.find? u = some c → s.team c.tid = some tm → s.mayComplete u c = true → s.idleEnds →
    (∃ j g, s.grp j = some g ∧ g.tid = c.tid) →
    let i : Instr := .engineCommandComplete
    let ends (t : State) (tm' : Team) : Prop := t.mcmds.find? u = none
      ∧ (∀ j, j ≠ u → t.mcmds.find? j = s.mcmds.find? j) ∧ t.team c.tid = some tm'
      ∧ ∀ j g, s.grp j = some g → ∃ g', t.grp j = some g' ∧ SameRegs g g' ∧ g'.pend = g.pend
        ∧ ((∀ n ∈ c.names, n.1 ≠ j) → g'.splits = g.splits ∧ g'.batches = g.batches ∧ g'.openCmds = g.openCmds)
        ∧ ((∃ n ∈ c.names, n.1 = j) → u ∉ g'.openCmds ∧ ∀ b ∈ g'.batches, u ∉ b.cmds)
        ∧ ((∀ sp ∈ g.splits, ∀ n, sp.st ≠ .waiting (.matrix n)) → g'.splits = g.splits)
    (∀ ms, c.op = .mma ms → (ms.map (fun m => m.entry.tile)).Nodup → (∀ m ∈ ms, m.entry.m ≤ 64 ∧ m.entry.n ≤ 128) →
      let rd (o : Nat) : Byte := tm.sram.get 0 o
      (∀ m ∈ ms, (∀ i, i < m.entry.m → ∀ o ∈ m.entry.aBytes i, tm.poison.get false (o / 32) = false)
        ∧ ∀ n, n < m.entry.n → ∀ o ∈ m.entry.bBytes n, tm.poison.get false (o / 32) = false) →
      ∃ t tm', exec i s = .next t ∧ ends t tm' ∧ SameHome s t ∧ tm' = { tm with tiles := tm'.tiles }
        ∧ (∀ m ∈ ms, ∀ i n, i < m.entry.m → n < m.entry.n → let k := tileKey m.entry.tile i n
            tm'.tiles.get 0 k = (m.entry.accElem rd i n (if m.entry.za then 0 else tm.tiles.get 0 k)).1)
        ∧ (∀ k, (∀ m ∈ ms, ∀ i n, i < m.entry.m → n < m.entry.n → k ≠ tileKey m.entry.tile i n) → tm'.tiles.get 0 k = tm.tiles.get 0 k)
        ∧ ∀ m ∈ ms, ∀ g, s.grp m.gid = some g → (∃ i n, i < m.entry.m ∧ n < m.entry.n
            ∧ (m.entry.accElem rd i n (if m.entry.za then 0 else tm.tiles.get 0 (tileKey m.entry.tile i n))).2 = true) →
            ∃ g', t.grp m.gid = some g' ∧ g'.mx = true)
    ∧ (∀ tile, c.op = .accz tile → ∃ t tm', exec i s = .next t ∧ ends t tm' ∧ SameHome s t ∧ tm' = { tm with tiles := tm'.tiles }
        ∧ (∀ k, tm'.tiles.find? k = if k / 8192 = tile then none else tm.tiles.find? k)
        ∧ ∀ g, s.grp c.gid = some g → (g.splits.map (fun x => x.idx)).Nodup → ∀ sp ∈ g.splits, ∀ n, sp.st = .waiting (.matrix n) →
          ∃ g', t.grp c.gid = some g' ∧ g'.split? sp.idx = some (if ((g.endCmd u).trimBatches).mwaitOver sp.idx n = true then
            { sp with pc := sp.pc + 8, st := .ready } else sp))
    ∧ (∀ tile r data, c.op = .accwr tile r data → (data.map (fun x => tileKey tile x.1 x.2.1)).Nodup →
        ∃ t tm', exec i s = .next t ∧ ends t tm' ∧ SameHome s t ∧ tm' = { tm with tiles := tm'.tiles }
        ∧ (∀ x ∈ data, tm'.tiles.get 0 (tileKey tile x.1 x.2.1) = x.2.2)
        ∧ ∀ k, k ∉ data.map (fun x => tileKey tile x.1 x.2.1) → tm'.tiles.get 0 k = tm.tiles.get 0 k)
    ∧ (∀ df bl16 rm gl tile a b sc, c.op = .accq df bl16 rm gl tile a b sc →
      let bs := accqBytes tm.tiles df bl16 rm tile a b sc
      (df = 0 → ∀ i j, i < (accqShape b).1 → j < (accqShape b).2.1 →
        let x := tm.tiles.get 0 (tileKey tile i j)
        let v : W32 := if (Num.dec32 x).isNan then 0x7FC00000 else x
        ∀ q, q < 4 → (a.toNat + i * (accqShape b).2.2 + j * 4 + q, (v >>> (8 * q)).setWidth 8) ∈ bs)
      ∧ ((bs.map Prod.fst).Nodup →
      (gl = false → ∃ t tm', exec i s = .next t ∧ ends t tm' ∧ SameHome s t ∧ tm' = { tm with sram := tm'.sram, poison := tm'.poison }
        ∧ (∀ x ∈ bs, tm'.sram.get 0 x.1 = x.2) ∧ ∀ o, o ∉ bs.map Prod.fst → tm'.sram.get 0 o = tm.sram.get 0 o)
      ∧ (gl = true → ∀ f : Nat → Nat × Attr, (∀ x ∈ bs, EngMapped s (c.core / 80) tm.ctx .w x.1 [f x.1]) →
        (bs.map (fun x => (f x.1).1)).Nodup → (∀ x ∈ bs, ∀ y ∈ bs, (f x.1).1 / 64 = (f y.1).1 / 64 → (f x.1).2.key = (f y.1).2.key) →
        ∃ t, Leads i s t ∧ ends t tm ∧ (∀ x ∈ bs, t.homeByte (f x.1).2.key (f x.1).1 = x.2)
          ∧ (∀ k y, (∀ x ∈ bs, (f x.1).1 / 64 ≠ y / 64) → t.homeByte k y = s.homeByte k y)
          ∧ ∀ g, s.grp c.gid = some g → (∀ sp ∈ g.splits, ∀ n, sp.st ≠ .waiting (.matrix n)) → ∃ g', t.grp c.gid = some g'
            ∧ g'.qwrites = g.qwrites ++ [⟨g.batchOf u, tile, (bs.map (fun x => (f x.1).1 / 32)).dedup⟩]))))
  ∧ ((∀ x ∈ s.mcmds, x.2.core ≠ u) → exec .matrixEngineReset s = .next s)
  ∧ (∀ id c, s.mcmds.find? id = some c → c.core = u → ∃ t, exec .matrixEngineReset s = .next t
      ∧ (∀ j x, t.mcmds.find? j = some x → x.core ≠ u) ∧ (t.core u).resetEnd = some (s.now + 4096)
      ∧ ((∀ x ∈ s.groups, x.2.pendq.length < 8 ∨ x.2.pendq.any AFault.isReset = true) → (∀ j g tm, s.grp j = some g → (∀ x ∈ s.groups, x.1 = j → x.2 = g) → s.team g.tid = some tm → tm.core = u → 0 < tm.acc →
        ∃ g' tm' f, t.grp j = some g'
        ∧ g' = { g.afterReset (s.teamHalted g.tid) with
          splits := g'.splits, qwrites := g'.qwrites, readyAt := g'.readyAt, wait := g'.wait
          pendq := if g.pendq.any AFault.isReset then g.pendq else g.pendq ++ [f] }
        ∧ f.code = fcMatrixReset ∧ f.isReset = true
        ∧ (∀ x, s.oldestOf u j g = some x → f = ⟨fcMatrixReset, 0, 0, x.1, x.2, .reset true⟩)
        ∧ t.team g.tid = some tm' ∧ tm'.tiles = [])
      ∧ ∀ n q, (∃ x ∈ s.teams, x.2.core = u ∧ 0 < x.2.acc ∧ x.2.ctx = n) → s.idleEnds →
        (∀ x ∈ s.teams, x.2.core = u → 0 < x.2.acc → s.teamGroups x.1 ≠ [] ∨ s.mcmds.any (fun e => e.2.core != u && e.2.tid == x.1)) →
        s.events.get [] n = q → q ≠ [] → q.length < 256 → ∃ e : EventRec, t.events.get [] n = q ++ [e]
          ∧ fld e.w0 7 0 = 0x06 ∧ fld e.w0 15 8 = 0x10))
  ∧ (∀ dl, (s.core u).resetEnd = some dl → (s.now < dl → exec .matrixEngineResetEnd s = .next s)
      ∧ (dl ≤ s.now → ∃ t, exec .matrixEngineResetEnd s = .next t ∧ t = { s with cores := t.cores }
        ∧ t.core u = { s.core u with resetEnd := none } ∧ ∀ v, v ≠ u → t.core v = s.core v))

/-- R306, R307, R315, R316, R318, R320, R323, R324: a fabric processor takes its next start; a program ended by a fault is recorded
and reported; a transfer ends; a barrier word is read again; messages and starts from peers are accepted or wait. -/
def Obligations.FabricProcessorSteps : Prop := ∀ s : State,
  let p := s.ev.unit
  let x := s.fx p
  let stays (i : Instr) (x' : FxSt) : Prop := ∃ t, exec i s = .next t ∧ t = { s with fxs := t.fxs } ∧ t.fx p = x'
    ∧ ∀ q, q ≠ p → t.fx q = s.fx q
  let ending (w : FxWait) : Prop := ∃ c d a, w = .ending c d a
  (∀ code d a, (ending x.wait → s.fxFail p code d a = s) ∧ (¬ ending x.wait →
    (∀ t, s.pass (s.fxFault p code d a) true = .ok t → s.fxFail p code d a = t)
    ∧ ∀ w, s.pass (s.fxFault p code d a) true = .error w → ∃ t, s.fxFail p code d a = t ∧ t = { w with fxs := t.fxs, fxWires := t.fxWires }
      ∧ (t.fx p).wait = .ending code d a ∧ (t.fx p).claim = (w.fx p).claim ∧ ∀ q, q ≠ p → t.fx q = w.fx q))
  ∧ (∀ k rest, x.queue = k :: rest → x.cur = none →
    (s.fxEn p = false ∨ s.paused = true → exec .fxProgramStart s = .next s)
    ∧ (p < 16 → s.fxEn p = true → s.paused = false → s.present (.fx p) = true → ∃ f b, stays .fxProgramStart { x with
        f := f, buf := b, nacc := 0, fpc := k.prog &&& ~~~ 7, claim := none, queue := rest, cur := some k, owner := some (k.slot, k.gen)
        wait := .none, busy := none, owes := false, parts := [], lay := none
        store := x.store.filter (fun m => m.slot == k.slot && m.gen == k.gen) }
      ∧ (∀ j, j < 16 → f.get 0 j = if j = 0 ∧ k.desc = none then k.arg else 0)
      ∧ (x.owner = some (k.slot, k.gen) → b = x.buf) ∧ (x.owner ≠ some (k.slot, k.gen) → ∀ j, b.get 0 j = 0)))
  ∧ (x.cur = none → ¬ ending x.wait → exec .fxAbort s = .next s)
  ∧ (ending x.wait → ∃ t, exec .fxAbort s = .next t ∧ t = { s with mmio := t.mmio } ∧ fld (t.reg (fxAddr p 0)) 1 1 = 1)
  ∧ (∀ k, x.cur = some k → ¬ ending x.wait →
    (∀ t, s.pass (s.fxFault p fcHang 0 0) true = .ok t → ¬ ending (t.fx p).wait → exec .fxAbort s = .next t)
    ∧ (∀ w, s.pass (s.fxFault p fcHang 0 0) true = .error w → ∃ t, exec .fxAbort s = .next t ∧ SameHome s t ∧ t.groups = s.groups
      ∧ (t.fx p).cur = some k ∧ (t.fx p).claim = x.claim ∧ (t.fx p).wait = .ending fcHang 0 0 ∧ fld (t.reg (fxAddr p 0)) 1 1 = 1))
  ∧ (∀ k gid g code detail addr, p < 16 → x.cur = some k → x.claim = none → k.np = true → k.org = .group gid → s.grp gid = some g →
    k.tid = some g.tid → g.pendq.length < 8 → s.idleEnds → detail < 2 ^ 32 → ∃ t, s.fxFault p code detail addr = t
      ∧ (t.fx p).cur = none ∧ (t.fx p).queue = x.queue ∧ SameHome s t
      ∧ t.grp gid = some { g with drFx := g.drFx - 1, pendq := g.pendq ++ [⟨code, BitVec.ofNat 32 detail, addr, k.site, k.seq, .fabric⟩] }
      ∧ t.reg (fxAddr p 0x18) = BitVec.ofNat 64 (detail * 65536 + code.toNat) ∧ t.reg (fxAddr p 0x20) = addr
      ∧ t.reg (fxAddr p 0x10) = x.fpc)
  ∧ (p < 16 → ∃ t, exec .fxEn s = .next t ∧ t = { s with mmio := t.mmio } ∧ fld (t.reg (fxAddr p 0)) 0 0 = (if s.ev.on then 1 else 0)
    ∧ ∀ a, a ≠ fxAddr p 0 → t.reg a = s.reg a)
  ∧ (∀ k, x.cur = some k → k.desc = none →
    (∀ d, x.busy = some d → ¬ ending x.wait → stays .fxTransferComplete { x with busy := none, fpc := d })
    ∧ ∀ ranks va, x.busy = none → x.wait = .norm ranks va → s.fxHeld p = false →
      ((∃ d ∈ ranks, d ≠ s.devId ∧ x.parts.find? d = none) → exec .fxTransferComplete s = .next s)
      ∧ ((∀ d ∈ ranks, d ≠ s.devId → (x.parts.find? d).isSome = true) → ∀ s1,
        let sum : W64 := ranks.foldl (fun acc d => BitVec.ofNat 64 (Num.fp64.round .rn 0 (Sys2Proof.Num.add false (Num.fp64.decode acc.toNat)
          (Num.fp64.decode (if d = s.devId then x.nacc else x.parts.get 0 d).toNat)).1).1) 0
        s.rawWrite 2 (p / 2) k.slot va.toNat (bytesOf 4 (Num.rnd32 .rn (Num.fp64.decode sum.toNat)).1.toNat) = (s1, .ok ()) →
        ∃ t, Leads .fxTransferComplete s t ∧ t = { s1 with fxs := t.fxs }
          ∧ t.fx p = { x with nacc := 0, parts := [], wait := .none, fpc := x.fpc + 8 }))
  ∧ (∀ k c d va v s1 bs, x.cur = some k → x.wait = .waitm c d va v → s.rawRead 2 (p / 2) k.slot va.toNat 8 = (s1, .ok bs) →
    let w : W64 := BitVec.ofNat 64 (natOf bs)
    let holds : Prop := match c with
      | .eq => w = v
      | .ne => w ≠ v
      | .geu => v.toNat ≤ w.toNat
      | .ges => v.toInt ≤ w.toInt
    ∃ t, Leads .fxWaitmReread s t ∧ t = { s1 with fxs := t.fxs }
      ∧ (holds → t.fx p = { x with f := (t.fx p).f, wait := .none, fpc := x.fpc + 8 } ∧ ∀ j, (t.fx p).f.get 0 j = if j = d then w else x.f.get 0 j)
      ∧ (¬ holds → t.fx p = x))
  ∧ (∀ m : Msg, s.ev.data = .msg m → m.srcDev.toNat ≠ s.devId → p < 16 → s.present (.fx p) = true →
    let answer (r : Reply) : List (BitVec 16 × Nat × Nat × Reply) := s.replies ++ [(m.srcDev, m.srcProc.toNat, m.tag.toNat, r)]
    (s.slotOfJob m.job.toNat = none → exec .messageAccept s = .next { s with replies := answer (.fault 1 0 0) })
    ∧ ∀ n, s.slotOfJob m.job.toNat = some n → s.ev.sub = 0 → (∀ va d ch, x.wait ≠ .recv va d ch) →
      let msg : RxMsg := ⟨n, s.ctxGen.get 0 n, m.srcDev.toNat, m.srcProc.toNat, m.tag.toNat, m.bytes⟩
      let room : Prop := x.store.length < 16 ∧ (x.store.map (fun y => y.bytes.length)).sum + m.bytes.length ≤ 262144
      (room → ∃ t, exec .messageAccept s = .next t ∧ t = { s with fxs := t.fxs, replies := answer .ok }
        ∧ t.fx p = { x with store := x.store ++ [msg] } ∧ ∀ q, q ≠ p → t.fx q = s.fx q)
      ∧ (¬ room → exec .messageAccept s = .next s))
  ∧ (∀ m : StartPkt, s.ev.data = .start m → m.srcDev.toNat ≠ s.devId → p < 16 → s.present (.fx p) = true →
    let answer (r : Reply) : List (BitVec 16 × Nat × Nat × Reply) := s.replies ++ [(m.srcDev, m.srcProc.toNat, 2 ^ 16, r)]
    (s.slotOfJob m.job.toNat = none → exec .startPacketArrival s = .next { s with replies := answer (.fault 1 0 0) })
    ∧ ∀ n, s.slotOfJob m.job.toNat = some n →
      (16 ≤ x.queue.length → exec .startPacketArrival s = .next s)
      ∧ (x.queue.length < 16 → ∃ t k, exec .startPacketArrival s = .next t ∧ t = { s with fxs := t.fxs, replies := answer .ok }
        ∧ t.fx p = { x with queue := x.queue ++ [k] } ∧ k.slot = n ∧ k.prog = m.prog ∧ k.arg = m.arg ∧ k.desc = none
        ∧ k.org = .peer m.srcDev.toNat m.srcProc.toNat m.srcFpc ∧ ∀ q, q ≠ p → t.fx q = s.fx q))

-- ## Translation and the memory controllers (04_device_memory.md, 05_translation.md, 06_shared_caches.md)

/-- R81, R84, R86, R89 to R91: a walk that holds one of its die's slots ends in the TLBs of all that wait for it, or in its
fault; invalidations drop entries from every TLB, run one after another and complete when the stores translated through what
they dropped have been performed, and a write that finds their queue full is held; a slot's register accepts writes while it is
unused; keys are loaded, and show as loaded, when what was accepted under the old ones has been performed and the requests under them have
been served. That one set of key
slots serves the eight dies is the model's choice (log 38). Which entry a full TLB drops (log 4), what an invalidation waits
for, and how a held write is taken (log 17) are the model's too. -/
def Obligations.TranslationSteps : Prop := ∀ s : State,
  let u := s.ev.unit
  (∀ w, s.walks.find? (fun x => x.id == u) = some w →
    (w.failed ≠ none ∨ s.walkRuns w = false ∨ s.walkHeld w.slot = true → exec .pageWalkComplete s = .next s)
    ∧ (w.failed = none → s.walkRuns w = true → s.walkHeld w.slot = false →
    (∀ e, s.walk w.slot (65536 * w.region) = .ok e → ∃ t, exec .pageWalkComplete s = .next t
      ∧ t = { s with
        walks := t.walks, cores := t.cores, clusters := t.clusters, engTlb := t.engTlb, traffic := t.traffic, nextId := t.nextId }
      ∧ (∀ x, x ∈ t.walks ↔ x ∈ s.walks ∧ x.id ≠ u)
      ∧ (∀ c ∈ w.cores, e ∈ (t.core c).tlb ∧ e ∈ (t.clus (c / 16)).tlb)
      ∧ (∀ j, (t.core j).lines = (s.core j).lines) ∧ (∀ j, j ∉ w.cores → t.core j = s.core j)
      ∧ (∀ d, t.engTlb.get [] d = if w.eng = true ∧ d = w.die then tlbAdd 256 (s.engTlb.get [] d) e else s.engTlb.get [] d))
    ∧ ∀ f, s.walk w.slot (65536 * w.region) = .error f → ∃ t, exec .pageWalkComplete s = .next t
      ∧ t = { s with walks := t.walks, traffic := t.traffic, nextId := t.nextId }
      ∧ (w.cores ≠ [] → t.walks.find? (fun x => x.id == u) = some { w with failed := some f })
      ∧ (w.cores = [] → (∀ x ∈ s.walks, x.id = u → x = w) → ∀ x ∈ t.walks, x.id ≠ u)))
  ∧ (let v := s.ev.val
    let b := fld (s.reg invAddrAddr) 51 16 * 65536
    let n := if fld v 31 16 = 0 then 65536 else fld v 31 16
    let asked (i : Instr) (k : Nat) (dropped : TlbE → Prop) : Prop :=
      (s.invHeld ≠ [] ∨ 17 ≤ s.invq.length → exec i s = .next { s with invHeld := s.invHeld ++ [(setFld v 1 0 k, b)] })
      ∧ (s.invHeld = [] → 1 ≤ s.invq.length → s.invq.length < 17 → (∀ q ∈ s.invq.head?, q.running = true) → ∃ t q, exec i s = .next t
        ∧ t = { s with invq := t.invq, mmio := t.mmio } ∧ t.invq = s.invq ++ [q] ∧ q.running = false)
      ∧ (s.invHeld = [] → s.invq = [] → ∃ t q, exec i s = .next t ∧ t.invq = [q] ∧ q.running = true ∧ q.started = s.now
        ∧ q.tick = s.tick
        ∧ (∀ j, ∀ e ∈ (t.core j).tlb, e ∈ (s.core j).tlb ∧ ¬ dropped e)
        ∧ (∀ j, ∀ e ∈ (s.core j).tlb, ¬ dropped e → e ∈ (t.core j).tlb)
        ∧ (∀ j, ∀ e ∈ (t.clus j).tlb, ¬ dropped e) ∧ (∀ d, ∀ e ∈ t.engTlb.get [] d, ¬ dropped e) ∧ SameHome s t)
    asked .invalidateRange 1 (fun e => e.asid = fld v 47 32 ∧ b < e.base + e.size ∧ e.base < min (b + 65536 * n) (2 ^ 52))
    ∧ asked .invalidateAsid 2 (fun e => e.asid = fld v 47 32)
    ∧ asked .invalidateAll 3 (fun _ => True))
  ∧ (∀ q rest, s.invq = q :: rest →
    let hit (asid : Nat) (pg : Nat × Nat) : Prop := match q.kind with
      | .range a b n => asid = a ∧ pg.1 < min (b + 65536 * n) (2 ^ 52) ∧ b < pg.1 + pg.2
      | .asid a => asid = a
      | .all => True
    let waits : Prop := q.running = false ∨ s.now < q.started + 640
      ∨ ∃ x ∈ s.groups, ∃ f ∈ x.2.fifo, ∃ v, f.via = some v ∧ v.tick < q.tick ∧ ∃ pg ∈ v.pages, hit (s.ctxAsid x.2.ctx) pg
    (waits → exec .invalidationDone s = .next s)
    ∧ (¬ waits → ∃ t, exec .invalidationDone s = .next t ∧ fld (t.reg invDoneAddr) 31 0 = (fld (s.reg invDoneAddr) 31 0 + 1) % 2 ^ 32
      ∧ (s.invHeld = [] → ∀ y rest', rest = y :: rest' → y.running = false →
        t.invq = { y with running := true, started := s.now, tick := s.tick } :: rest')
      ∧ (s.invHeld = [] → rest = [] → t.invq = [])
      ∧ (∀ h hs, s.invHeld = h :: hs → rest.length < 17 → t.invHeld.length ≤ hs.length) ∧ SameHome s t))
  ∧ (u < 64 → let v := s.ev.val
    let a := ctxCfgAddr u
    let on : Prop := fld v 16 16 = 1
    ∃ t, exec .contextSlotWrite s = .next t
      ∧ (s.ctxEn u = true → on ∨ s.ctxInUse u = true → t = s)
      ∧ (s.ctxEn u = true → ¬ on → s.ctxInUse u = false → t = { s with mmio := t.mmio } ∧ t.ctxEn u = false ∧ t.ctxAsid u = s.ctxAsid u)
      ∧ (s.ctxEn u = false → on → (∃ m, m < 64 ∧ m ≠ u ∧ s.ctxEn m = true ∧ s.ctxAsid m = fld v 15 0) → t = s)
      ∧ (s.ctxEn u = false → (on → ∀ m, m < 64 → m ≠ u → ¬ (s.ctxEn m = true ∧ s.ctxAsid m = fld v 15 0)) →
        t.ctxAsid u = fld v 15 0 ∧ (t.ctxEn u = true ↔ on))
      ∧ ∀ x, x ≠ a → t.reg x = s.reg x)
  ∧ (∀ k1 k2, s.ev.data = .keys k1 k2 →
    (u = 0 ∨ 256 ≤ u ∨ k1 = k2 → exec .keySlotLoad s = .next s)
    ∧ (1 ≤ u → u < 256 → k1 ≠ k2 → ∃ t, exec .keySlotLoad s = .next t
      ∧ (∀ c, ∀ l ∈ (t.core c).lines, l.key ≠ u) ∧ (∀ c, ∀ l ∈ (t.clus c).lines, l.key ≠ u)
      ∧ (∀ c, ∀ l ∈ (t.slice c).lines, l.key ≠ u)
      ∧ ((∃ x ∈ s.groups, ∃ f ∈ x.2.fifo, FifoE.usesKey u f = true) ∨ (s.dropKey u).keyTraffic u = true → u ∈ t.keyLoad ∧ t.keySlots = s.keySlots
        ∧ ∀ d, d < 8 → (t.reg (mcAddr d (0x40 + 8 * (u / 64)))).getLsbD (u % 64) = false)
      ∧ ((∀ x ∈ s.groups, ∀ f ∈ x.2.fifo, FifoE.usesKey u f = false) → (s.dropKey u).keyTraffic u = false → u ∉ t.keyLoad ∧ t.keySlots.find? u = some (k1 ++ k2)
        ∧ ∀ d, d < 8 → (t.reg (mcAddr d (0x40 + 8 * (u / 64)))).getLsbD (u % 64) = true)))

/-- R72 to R76, R93, R96, R99 to R103: banks fall due, are refreshed, owe or make up refreshes; slices hold lines, fetch what they
lack and write back what leaves dirty; requests are served and counted; regulators admit them by tokens. The epoch of a
pseudo-channel is free (log 14); the model's choices are the refreshes that follow one another (log 28), the set of a line in a slice
(log 5), the tokens that a write keeps (log 31), and the row at an edge of its bank with the count that begins again, and which way of
a slice a removed bank takes (log 37). -/
def Obligations.MemoryControllers : Prop := ∀ s : State,
  let p := s.ev.unit
  let b := s.ev.idx
  let x := s.pch p
  let y := x.bank b
  let pchOnly (t : State) : Prop := t = { s with pchs := t.pchs, mmio := t.mmio } ∧ ∀ q, q ≠ p → t.pch q = s.pch q
  let mode := fld (s.reg (mcAddr (p / 128) 0)) 0 0
  -- a refresh of n cycles falls to a bank at an instant
  let falls (z : BankRf) (at_ n : Nat) : Prop := let from_ := max at_ (x.catchUp.getD 0)
    z.row = none ∧ (y.more = [] → y.busy.getD 0 ≤ from_ → z.busy = some (from_ + n) ∧ z.more = [])
      ∧ (y.more ≠ [] ∨ from_ < y.busy.getD 0 → z.busy = y.busy ∧ z.more = y.more ++ [n])
  (p < 1024 → b < 16 → b ≠ 0 → s.boot.phase ≠ .off →
    let due := x.due b
    let debt := ((x.credit due).bank b).debt
    let lat := s.latBusy p x b due
    (s.now ≤ due → exec .refreshDue s = .next s)
    ∧ (due < s.now → ∃ t z, exec .refreshDue s = .next t ∧ pchOnly t ∧ (t.pch p).bank b = z ∧ z.next = y.next + 1
      ∧ (t.pch p).owed = x.owed ∧ (∀ k, k / 32768 = b → (t.pch p).acts.get 0 k = 0)
      ∧ (debt < 0 → z.debt = debt + 1 ∧ z.busy = y.busy ∧ z.more = y.more)
      ∧ (0 ≤ debt → lat = true → mode = 1 → debt < 8 → z.debt = debt + 1 ∧ z.busy = y.busy ∧ z.more = y.more)
      ∧ (lat = true → debt = 8 → z.debt = 8
        ∧ (x.catchUp = none → (t.pch p).abLeft = 9 ∧ ∃ e, (t.pch p).catchUp = some (e + 2682) ∧ due ≤ e ∧ ∀ j, j < 16 → (x.bank j).busy.getD 0 ≤ e)
        ∧ (∀ e, x.catchUp = some e → (t.pch p).catchUp = some (e + 2682)))
      ∧ (0 ≤ debt → debt ≤ 8 → lat = false ∨ (mode = 0 ∧ debt < 8) → z.debt = debt ∧ falls z due 102)))
  ∧ (∀ e, x.catchUp = some e → (s.now < e → exec .catchUpEnd s = .next s)
    ∧ (e ≤ s.now → ∃ t, exec .catchUpEnd s = .next t ∧ pchOnly t ∧ (t.pch p).catchUp = none
      ∧ ∀ j, j < 16 → ((t.pch p).bank j).row = none ∧ ((t.pch p).bank j).debt = max (-8) ((x.bank j).debt - x.abLeft)))
  ∧ (∀ e at_ j, x.catchUp = some e → at_ + 298 * x.abLeft ≤ e → j < 16 → -8 ≤ (x.bank j).debt →
    ((x.credit at_).bank j).debt = (x.bank j).debt)
  ∧ (let due : Prop := 0 < y.debt ∧ s.latBusy p x b s.now = false ∧ y.busy = none ∧ x.catchUp = none
    p < 1024 → b < 16 → (¬ due → exec .owedRefresh s = .next s)
      ∧ (due → y.more = [] → ∃ t, exec .owedRefresh s = .next t ∧ pchOnly t ∧ ((t.pch p).bank b).debt = y.debt - 1
        ∧ ((t.pch p).bank b).busy = some (s.now + 102) ∧ ((t.pch p).bank b).row = none))
  ∧ (∀ e, y.busy = some e → (s.now < e → exec .perBankRefreshEnd s = .next s)
    ∧ (e ≤ s.now → ∃ t, exec .perBankRefreshEnd s = .next t ∧ pchOnly t ∧ (t.pch p).bank b = match y.more with
      | [] => { y with busy := none }
      | n :: more => { y with busy := some (max e (x.catchUp.getD 0) + n), more := more }))
  ∧ (p < 1024 → b < 16 → let row := s.ev.idx2
    ((b, row) ∉ x.owed → exec .rowHammerRefresh s = .next s)
    ∧ ((b, row) ∈ x.owed → x.catchUp = none → y.busy = none → y.more = [] → ∃ t, exec .rowHammerRefresh s = .next t ∧ pchOnly t
      ∧ (t.pch p).owed = x.owed.erase (b, row) ∧ ((t.pch p).bank b).busy = some (s.now + 102)
      ∧ ((t.pch p).bank b).more = if row = 0 ∨ row = 24575 then [] else [102]))
  ∧ (p < 8 → ∃ t, exec .hotrefChange s = .next t ∧ t = { s with hotWant := t.hotWant, mmio := t.mmio }
      ∧ fld (t.reg (mcAddr p 0)) 2 2 = (if s.ev.on then 1 else 0)
      ∧ ∀ q, t.hotWant.get false q = if 128 * p ≤ q ∧ q < 128 * p + 128 then s.ev.on else s.hotWant.get false q)
  ∧ (∀ q t0, x.queue[b]? = some (q, t0) →
    let z := x.bank q.bank
    let held : Prop := x.catchUp ≠ none ∨ z.busy ≠ none ∨ s.now < t0 + 88
    (held → exec .memoryRequestComplete s = .next s)
    ∧ (¬ held → ∃ t, exec .memoryRequestComplete s = .next t ∧ pchOnly t ∧ (t.pch p).queue = x.queue.eraseIdx b
      ∧ ((t.pch p).bank q.bank).row = some q.row
      ∧ ((t.pch p).bank q.bank).lats = (if q.lat = true then z.lats ++ [(t0, s.now)] else z.lats)
      ∧ let k := q.bank * 32768 + q.row
        let n := x.acts.get 0 k + if z.row = some q.row then 0 else 1
        (n < 4096 → (t.pch p).acts.get 0 k = n ∧ (t.pch p).owed = x.owed)
        ∧ (4096 ≤ n → (t.pch p).acts.get 0 k = 0 ∧ (t.pch p).owed = x.owed ++ [(q.bank, q.row)])
        ∧ (s.isMonitored p = true → q.lat = true ∨ fld (s.reg (mcAddr (p / 128) 8)) 8 8 = 0 →
          let a := mcAddr (p / 128) (0x80 + 8 * latBin (s.now - t0))
          fld (t.reg a) 47 0 = min (2 ^ 48 - 1) (fld (s.reg a) 47 0 + 1))))
  ∧ (s.nextRequest p = none → exec .requestSchedule s = .next s)
  ∧ (∀ k q, s.nextRequest p = some (k, q) → ∃ t, exec .requestSchedule s = .next t
      ∧ t = { s with
        traffic := t.traffic, buckets := t.buckets, slices := t.slices, pchs := t.pchs, nextId := t.nextId, stale := t.stale }
      ∧ (∀ z, z ∈ t.traffic.get [] p → z ∈ s.traffic.get [] p ∧ z.id ≠ q.id)
      ∧ (k = 1 → q.cls < 3 → s.ctxEn q.slot = true → fld (s.reg (l2RegAddr q.slot (regOf p q))) 0 0 = 1 →
        t.bucket p q.slot (regOf p q) = s.bucket p q.slot (regOf p q) - q.cost p * 65536)
      ∧ (k ≠ 1 → t.buckets = s.buckets)
      ∧ (128 ≤ p → (t.pch q.pch).queue = (s.pch q.pch).queue ++ [(q, s.now)] ∧ t.slices = s.slices)
      ∧ (p < 128 → t.pchs = s.pchs ∧ (∀ j, j ≠ p → t.slice j = s.slice j)
        ∧ (s.sliceWays p ≠ [] → ∃ l ∈ (t.slice p).lines, l.line = q.line ∧ l.key = q.key ∧ q.secs &&& ~~~ l.valid = 0#4
          ∧ (q.kind ≠ .read → q.secs &&& ~~~ l.dirty = 0#4))
        ∧ (∀ l ∈ (t.slice p).lines, l.line = q.line → (∀ m ∈ (s.slice p).lines, ¬ (m.line = q.line ∧ m.key = q.key)) →
          l.way ∈ s.sliceWays p)
        ∧ (∀ l ∈ (t.slice p).lines, l.line = q.line → l.key = q.key)
        ∧ (∀ l ∈ (s.slice p).lines, sharedSet l.line ≠ sharedSet q.line → l ∈ (t.slice p).lines)
        ∧ (let miss := (s.slice p).missing q
          miss ≠ 0#4 → ∃ z ∈ t.traffic.get [] q.up, z.line = q.line ∧ z.key = q.key ∧ z.secs = miss ∧ z.slot = q.slot ∧ z.cls = q.cls
            ∧ z.kind = q.kind ∧ z.lat = q.lat ∧ z.age = s.now)
        ∧ (∀ l ∈ (s.slice p).lines, l.dirty ≠ 0#4 → (∀ m ∈ (t.slice p).lines, ¬ (m.line = l.line ∧ m.key = l.key)) →
          ∃ z ∈ t.traffic.get [] (128 + (rowName (128 * l.line)).1 / 64), z.line = l.line ∧ z.key = l.key ∧ z.kind = .write
            ∧ z.secs = l.dirty ∧ z.slot = q.slot ∧ z.cls = q.cls)))
  ∧ (∀ q k, s.nextRequest p = some (k, q) → q ∈ s.traffic.get [] p ∧ s.tier p q = some k
      ∧ ∀ z ∈ headsOf [] (s.traffic.get [] p), ∀ j, s.tier p z = some j → k ≤ j)
  ∧ (∀ q : Traffic, let r := s.reg (l2RegAddr q.slot (regOf p q))
    let cost := if p < 128 then 32 * secCount q.secs else 64 * burstCount q.secs
    let fits : Prop := cost * 65536 ≤ s.bucket p q.slot (regOf p q)
    (3 ≤ q.cls → s.tier p q = some 1)
    ∧ (q.cls < 3 → q.slot ∈ s.ended ∨ s.ctxEn q.slot = false ∨ fld r 0 0 = 0 → s.tier p q = some 2)
    ∧ (q.cls < 3 → q.slot ∉ s.ended → s.ctxEn q.slot = true → fld r 0 0 = 1 → (fits → s.tier p q = some 1)
      ∧ (¬ fits → s.tier p q = if fld r 1 1 = 0 then some 3 else none)))
  ∧ (p < 64 → s.ev.idx < 6 → let a := l2RegAddr p b
    let v := s.ev.val
    ∃ t, exec .regulatorWrite s = .next t ∧ t = { s with mmio := t.mmio, buckets := t.buckets }
      ∧ fld (t.reg a) 63 8 = fld v 63 8 ∧ fld (t.reg a) 1 0 = fld v 1 0 ∧ (∀ z, z ≠ a → t.reg z = s.reg z)
      ∧ ∀ inst, (fld (s.reg a) 0 0 = 0 → fld v 0 0 = 1 → t.bucket inst p b = max 128 (fld v 31 8) * 65536)
        ∧ (fld (s.reg a) 0 0 = 1 → t.bucket inst p b ≤ max 128 (fld v 31 8) * 65536)
        ∧ (inst < 144 → fld (s.reg a) 0 0 = 1 → fld v 0 0 = 1 →
          t.bucket inst p b = min (max 128 (fld v 31 8) * 65536) (s.bucket inst p b)))

-- ## Start-up, trust, reliability and power (27_device_operation.md)

/-- R71, R439 to R445, R449: starts, their timeout and end; corrected, uncorrectable and lasting errors; the attestation report;
the power loop. What a start measures, the fused secret and where firmware places the capability list are free values (log 15);
what an access to a place without storage does is the model's choice (log 34). That the digest is signed by plain Ed448 is so
too (log 15). -/
def Obligations.DeviceSteps : Prop := ∀ s : State,
  let warm : Prop := s.boot.measured = some ((List.range 8).map (Config.measure s.ev.idx))
  -- a start that has not had its `OK` in time, whether or not a `START_TIMEOUT` has come (R440)
  let late : Bool := decide (s.boot.phase = .started) && (match s.boot.deadline with
    | some dl => decide (dl < s.now)
    | none => false)
  let starts (i : Instr) (cold : Prop) : Prop := s.ev.on = false → s.power.trip = false → ∃ t, exec i s = .next t
    ∧ t.groups = [] ∧ t.teams = [] ∧ t.grids = [] ∧ t.ecmds = [] ∧ t.remotes = [] ∧ t.mcmds = [] ∧ t.fxs = [] ∧ t.cur = none
    ∧ t.boot = ⟨.started, some (s.now + 3400000000), s.boot.starts + 1, some ((List.range 8).map (Config.measure s.ev.idx))⟩
    ∧ (fld (t.reg (bootAddr 8)) 1 0 = if late then min 3 (fld (s.reg (bootAddr 8)) 1 0 + 1) else fld (s.reg (bootAddr 8)) 1 0)
    ∧ (cold → (∀ a, t.homeByte 0 a = 0) ∧ t.keySlots = [])
    ∧ (¬ cold → t.keySlots = s.keySlots)
    ∧ (∀ u ∈ s.ras.lasting, match u with
      | .row p b r => rowKey p b r ∈ t.retiredRows
      | .coreBank c _ => RemovedUnit.cluster (c / 16) ∈ t.removedUnits
      | .clusterBank k _ => RemovedUnit.cluster k ∈ t.removedUnits
      | .sliceBank l w => RemovedUnit.ways l w ∈ t.removedUnits
      | .link j => RemovedUnit.port j ∈ t.removedUnits)
  (s.boot.phase = .off → starts .powerOn True ∧ exec .bootCold s = .next s ∧ exec .bootWarm s = .next s)
  ∧ (s.boot.phase ≠ .off → exec .powerOn s = .next s ∧ starts .bootCold True ∧ starts .bootWarm (¬ warm))
  ∧ (let fails := fld (s.reg (bootAddr 8)) 1 0
    let opens : Prop := ∃ t, exec .bootOk s = .next t ∧ t = { s with mmio := t.mmio, boot := { s.boot with phase := .open_, deadline := none } }
      ∧ fld (t.reg (bootAddr 8)) 4 4 = 1 ∧ fld (t.reg (bootAddr 8)) 1 0 = 0 ∧ t.reg (bootAddr 0x10) = s.capBase ∧ t.opened = true
    (∀ dl, s.boot.phase = .started → s.boot.deadline = some dl →
      (s.now < dl → exec .startTimeout s = .next s)
      ∧ (dl ≤ s.now → ∃ t, exec .startTimeout s = .next t ∧ t = { s with mmio := t.mmio, boot := { s.boot with deadline := none } }
        ∧ fld (t.reg (bootAddr 8)) 1 0 = min 3 (fails + 1))
      ∧ (s.now ≤ dl → opens)
      ∧ (dl < s.now → ∃ t, exec .bootOk s = .next t ∧ t = { s with mmio := t.mmio, boot := { s.boot with deadline := none } }
        ∧ fld (t.reg (bootAddr 8)) 1 0 = min 3 (fails + 1)))
    ∧ (s.boot.phase = .open_ → opens)
    ∧ (s.boot.phase = .off ∨ (s.boot.phase = .started ∧ s.boot.deadline = none) → exec .bootOk s = .next s)
    ∧ (s.boot.phase ≠ .started ∨ s.boot.deadline = none → exec .startTimeout s = .next s))
  ∧ (∀ u : RasUnit, s.ev.data = .ras u →
    let e := bootAddr 0x108
    let old : List Nat := (s.ras.errs.find? (fun y => y.1 == u)).elim [] (fun y => y.2.filter (fun n => decide (s.now ≤ n + s.rasWindow)))
    let last : Prop := RasUnit.gathers u = true ∧ fld (s.reg (bootAddr 0x100)) 3 0 ≤ old.length + 1
    (RasUnit.exists_ u = true → ∃ t, exec .correctedError s = .next t ∧ (last → u ∈ t.ras.lasting)
      ∧ (¬ last → t = { s with ras := t.ras, mmio := t.mmio } ∧ t.ras.lasting = s.ras.lasting
        ∧ fld (t.reg e) 31 0 = (fld (s.reg e) 31 0 + 1) % 2 ^ 32))
    ∧ (RasUnit.exists_ u = true → ∃ t, exec .uncorrectableError s = .next t ∧ u ∈ t.ras.lasting
      ∧ (s.enabledSlots = [] → fld (t.reg e) 63 32 = (fld (s.reg e) 63 32 + 1) % 2 ^ 32
        ∧ (∀ p b r, u = .row p b r → rowName s.ev.addr.toNat = (p, b, r) → s.ev.addr.toNat < hbmEnd → t.homePoison s.ev.addr.toNat = true)
        ∧ (∀ k a, t.homeByte k a = s.homeByte k a)))
    ∧ (s.ev.unit < 8 → fld (s.reg (mcAddr s.ev.unit 0)) 1 1 = 1 → ∀ p b r, u = .row p b r → p / 128 = s.ev.unit →
        ∃ s1, s1 = { s with traffic := s1.traffic, nextId := s1.nextId } ∧ exec .patrolScrub s = exec .correctedError s1
          ∧ (s.ev.addr.toNat < hbmEnd → (rowName s.ev.addr.toNat).1 / 128 = s.ev.unit → s.unbacked s.ev.addr.toNat = false →
            ∃ z ∈ s1.traffic.get [] (128 + (rowName s.ev.addr.toNat).1 / 64), z.line = s.ev.addr.toNat / 128 ∧ z.cls = 3 ∧ z.kind = .read)))
  ∧ (8 ≤ s.ev.unit ∨ fld (s.reg (mcAddr s.ev.unit 0)) 1 1 = 0 → exec .patrolScrub s = .next s)
  ∧ (let a := s.ev.val.toNat
    (hbmEnd < a + 427 ∨ s.boot.measured = none → ∃ t, exec .attestationRequest s = .next t ∧ t = { s with mmio := t.mmio })
    ∧ ∀ m, s.boot.measured = some m → m.length = 8 → a + 427 ≤ hbmEnd → ∃ t, exec .attestationRequest s = .next t
      ∧ t.reg (bootAddr 0x20) = s.ev.val
      ∧ ((∀ j, j < 427 → s.unbacked (a + j) = false) →
        let nonce := s.homeBytes 0 a 64
        let digest := Crypto.shake256 s.capBytes 64
        let key := Crypto.shake256 ([0x42, 0x47, 0x4D, 0x37, 0x34, 0x36, 0x30, 0x2D, 0x49, 0x44] ++ (List.range 64).map Config.fused ++ quadBytes m) 57
        (∀ j, j < 64 → t.homeByte 0 (a + 64 + j) = nonce.getD j 0)
        ∧ (∀ j, j < 64 → t.homeByte 0 (a + 128 + j) = (quadBytes m).getD j 0)
        ∧ (∀ j, j < 64 → t.homeByte 0 (a + 192 + j) = digest.getD j 0)
        ∧ (∀ j, j < 57 → t.homeByte 0 (a + 256 + j) = (Crypto.edPublic key).getD j 0)
        ∧ ∀ j, j < 114 → t.homeByte 0 (a + 313 + j)
            = (Crypto.edSign key (Crypto.shake256 (nonce ++ quadBytes m ++ digest) 64)).getD j 0)
      ∧ (∀ x, s.unbacked x = true → t.homeByte 0 x = s.homeByte 0 x)
      ∧ ∀ k x, (x / 64 < (a + 64) / 64 ∨ (a + 426) / 64 < x / 64) → t.homeByte k x = s.homeByte k x)
  ∧ (let w := min 65535 s.ev.val.toNat
    let lim := fld (s.reg (bootAddr 0x200)) 15 0
    let mhz (t : State) : Nat := fld (t.reg (bootAddr 0x208)) 47 32
    (s.now < s.power.last + 850000 → exec .powerSample s = .next s)
    ∧ (s.power.last + 850000 ≤ s.now → 500 ≤ mhz s → mhz s ≤ 850 → ∃ t, exec .powerSample s = .next t
      ∧ t = { s with mmio := t.mmio, power := { s.power with last := s.now } } ∧ fld (t.reg (bootAddr 0x208)) 15 0 = w
      ∧ mhz t = if s.power.trip then 500 else if lim < w then max 500 (mhz s - 50)
          else if 100 * w < 95 * lim then min 850 (mhz s + 50) else mhz s)
    ∧ (∃ t, exec .thermalTrip s = .next t ∧ t = { s with mmio := t.mmio, power := { s.power with trip := true } } ∧ mhz t = 500)
    ∧ exec .thermalTripClear s = .next { s with power := { s.power with trip := false } })

-- ## Sieves and the trace ring (26_debug.md)

/-- R431: every sieve word, and the two that end the program: the kept record reaches the ring. -/
def Claim.SieveWords : Prop := ∀ (s : State) (die : Nat) (r : TraceRec), s.curDie = some die → (s.trc die).cur = some r →
  let x := s.trc die
  let y (a : BitVec 3) (i : BitVec 20) : W64 := x.key a + i.signExtend 64
  let sets (w : BitVec 3 → BitVec 3 → BitVec 20 → Instr) (f : W64 → W64 → W64) : Prop := ∀ d a i, SieveLeaves (w d a i) s die
    (fun t x' => t.mmio = s.mmio ∧ x' = { x with k := x'.k, idx := x.idx + 1 }
      ∧ ∀ j, x'.key j = if j = d ∧ d ≠ 0 then f (x.key d) (y a i) else x.key j)
  let jumps (w : BitVec 3 → BitVec 3 → BitVec 20 → Instr) (c : W64 → W64 → Prop) : Prop := ∀ d a i,
    (c (x.key d) (x.key a) → SieveLeaves (w d a i) s die (fun t x' => t.mmio = s.mmio ∧ x' = { x with idx := x.idx + i.toNat }))
    ∧ (¬ c (x.key d) (x.key a) → SieveLeaves (w d a i) s die (fun t x' => t.mmio = s.mmio ∧ x' = { x with idx := x.idx + 1 }))
  let adds (w : Instr) (reg : Nat) (n : W64) : Prop := SieveLeaves w s die (fun t x' => x' = { x with idx := x.idx + 1 }
    ∧ t.reg reg = s.reg reg + n ∧ ∀ a, a ≠ reg → t.reg a = s.reg a)
  let ended : TraceSt := { x with cur := none, idx := 0, k := [] }
  sets .sieveLdf (fun _ v => match v.toNat with
      | 0 => r.q0
      | 1 => r.q1
      | 2 => r.q2
      | 3 => r.q3
      | _ => 0)
  ∧ (∀ d i, SieveLeaves (.sieveLdi d i) s die (fun t x' => t.mmio = s.mmio ∧ x' = { x with k := x'.k, idx := x.idx + 1 }
      ∧ ∀ j, x'.key j = if j = d ∧ d ≠ 0 then i.signExtend 64 else x.key j))
  ∧ sets .sieveAdd (fun v w => v + w) ∧ sets .sieveSub (fun v w => v - w) ∧ sets .sieveAnd (fun v w => v &&& w)
  ∧ sets .sieveOr (fun v w => v ||| w) ∧ sets .sieveXor (fun v w => v ^^^ w)
  ∧ sets .sieveShr (fun v w => BitVec.ofNat 64 (v.toNat / 2 ^ w.toNat))
  ∧ sets .sieveShl (fun v w => BitVec.ofNat 64 (v.toNat * 2 ^ w.toNat))
  ∧ jumps .sieveJeq (fun v w => v = w) ∧ jumps .sieveJne (fun v w => v ≠ w) ∧ jumps .sieveJlt (fun v w => v.toNat < w.toNat)
  ∧ (∀ d a i, adds (.sieveCnt d a i) (trcAddr die (0x40 + 8 * d.toNat)) (y a i))
  ∧ (∀ d a i, adds (.sieveHist d a i) (trcAddr die (0x200 + 8 * (16 * d.toNat + min (y a i).toNat 15))) 1)
  ∧ (∀ d : BitVec 2, SieveLeaves (.sieveTrig d) s die (fun t x' => x' = { x with idx := x.idx + 1 }
    ∧ (∀ a, a ≠ trcAddr die 0x20 → t.reg a = s.reg a)
    ∧ ∀ j, j < 64 → (t.reg (trcAddr die 0x20)).getLsbD j = ((s.reg (trcAddr die 0x20)).getLsbD j || decide (j = d.toNat)
        || (decide (j = 4) && (s.reg (trcAddr die 0)).getLsbD 2))))
  ∧ SieveLeaves .sieveDrop s die (fun t x' => t.mmio = s.mmio ∧ x' = ended)
  ∧ ∃ t, exec .sieveKeep s = .next t ∧ (∀ e, e ≠ die → t.trc e = s.trc e) ∧ t.trc die = ended ∧ KeepsRec s t die r
    ∧ t = { s with
      traces := t.traces, mmio := t.mmio, mem := t.mem, burst := t.burst, poison := t.poison, wireOut := t.wireOut, ckpt := t.ckpt
      traffic := t.traffic, nextId := t.nextId, ecmds := t.ecmds }

/-- R428 to R432: the oldest record of a cluster's buffer reaches its trace core, which keeps it or filters it; a power gate
closes once the buffer is empty or its time is over, and what is then discarded is counted, a loss record as what it stands for; a
sieve is accepted or refused as a whole. That the count of lost records is cleared while tracing is off is the model's choice
(log 30). -/
def Claim.TraceSteps : Prop := ∀ s : State,
  let u := s.ev.unit
  let d := u / 5
  let b := s.tbufs.get TraceBuf.init u
  let on : Prop := fld (s.reg (trcAddr d 0)) 0 0 = 1
  let buf (t : State) : TraceBuf := t.tbufs.get TraceBuf.init u
  let others (t : State) : Prop := ∀ v, v ≠ u → t.tbufs.get TraceBuf.init v = s.tbufs.get TraceBuf.init v
  let closes (b : TraceBuf) : TraceBuf := if b.gate.isSome = true ∧ b.recs = [] then { b with gate := none, gated := true } else b
  let stands := (b.recs.map (fun r => if fld r.q0 7 0 = 6 then fld r.q2 63 32 else 1)).sum
  (b.recs = [] → exec .traceSieveRun s = .next s)
  ∧ (b.recs ≠ [] → ¬ on → ∃ t, exec .traceSieveRun s = .next t ∧ t = { s with tbufs := t.tbufs }
      ∧ ∀ v, t.tbufs.get TraceBuf.init v = if v / 5 = d then closes { s.tbufs.get TraceBuf.init v with recs := [], lost := 0 }
          else s.tbufs.get TraceBuf.init v)
  ∧ (on → (s.trc d).cur.isSome = true → exec .traceSieveRun s = .next s)
  ∧ (∀ r rest, b.recs = r :: rest → on → (s.trc d).cur = none → ∃ t, exec .traceSieveRun s = .next t ∧ others t
      ∧ (b.lost = 0 → buf t = closes { b with recs := rest })
      ∧ (b.lost ≠ 0 → ∃ l : TraceRec, buf t = { b with recs := rest ++ [l], lost := 0 } ∧ fld l.q0 7 0 = 6
          ∧ fld l.q2 63 32 = b.lost % 2 ^ 32 ∧ fld l.q3 63 48 = 0)
      ∧ (fld r.q0 7 0 = 6 ∨ (s.trc d).prog = none → KeepsRec s t d r ∧ t.traces = s.traces)
      ∧ (fld r.q0 7 0 ≠ 6 → (s.trc d).prog ≠ none → t = { s with tbufs := t.tbufs, traces := t.traces }
          ∧ t.trc d = { s.trc d with cur := some r, idx := 0, k := [] } ∧ ∀ e, e ≠ d → t.trc e = s.trc e))
  ∧ (40 ≤ u ∨ b.gate.isSome = true ∨ b.gated = true → exec .powerGateRequest s = .next s)
  ∧ (u < 40 → b.gate = none → b.gated = false → ∃ t, exec .powerGateRequest s = .next t ∧ t = { s with tbufs := t.tbufs } ∧ others t
      ∧ buf t = if b.recs = [] then { b with gated := true } else { b with gate := some (s.now + 54400) })
  ∧ (∀ e, b.gate = some e → (s.now < e → exec .powerGateTimeout s = .next s)
      ∧ (e ≤ s.now → ∃ t l, exec .powerGateTimeout s = .next t ∧ others t ∧ buf t = ⟨[], 0, none, true⟩ ∧ KeepsRec s t d l
          ∧ fld l.q0 7 0 = 6 ∧ fld l.q2 63 32 = (stands + b.lost) % 2 ^ 32 ∧ fld l.q3 63 48 = 1 ∧ t.traces = s.traces))
  ∧ (u < 8 → ∃ t, exec .trcStatClear s = .next t ∧ t = { s with mmio := t.mmio } ∧ (∀ a, a ≠ trcAddr u 0x20 → t.reg a = s.reg a)
      ∧ ∀ j, j < 64 → (t.reg (trcAddr u 0x20)).getLsbD j = ((s.reg (trcAddr u 0x20)).getLsbD j
          && !((decide (j ≤ 4) || decide (j = 7)) && s.ev.val.getLsbD j)))
  ∧ (8 ≤ u ∨ (s.trc u).cur.isSome = true ∨ fld (s.reg (trcAddr u 0)) 1 1 = 0 → exec .sieveLoad s = .next s)
  ∧ (u < 8 → (s.trc u).cur = none → fld (s.reg (trcAddr u 0)) 1 1 = 1 → ∀ ws : List W32,
      SieveRead (fun i => BitVec.ofNat 32 (natOf (s.homeBytes 0 (canon (4 * fld (s.reg (trcAddr u 8)) 47 2 + 4 * i) false) 4))) ws →
      ∃ t, exec .sieveLoad s = .next t ∧ t = { s with traces := t.traces, mmio := t.mmio } ∧ fld (t.reg (trcAddr u 0)) 1 1 = 0
        ∧ (∀ e, e ≠ u → t.trc e = s.trc e)
        ∧ ((∀ i, i < ws.length → SieveGood ws i) → t.trc u = { s.trc u with prog := some ws } ∧ t.reg (trcAddr u 0x20) = s.reg (trcAddr u 0x20))
        ∧ ∀ i, i < ws.length → ¬ SieveGood ws i → (∀ j, j < i → SieveGood ws j) → t.traces = s.traces
          ∧ fld (t.reg (trcAddr u 0x20)) 7 7 = 1 ∧ fld (t.reg (trcAddr u 0x20)) 14 8 = i)

/-- The words of a sieve program, and the steps of the trace core. -/
def Obligations.SieveAndTrace : Prop :=
  Claim.SieveWords ∧ Claim.TraceSteps

/-- R433, R434, R437, R438: a stop request takes every group of a slot at its run boundary, one that is swapped out once it is
resident again; on resuming, which leaves an unresolved request as it is, a stopped `BKPT` goes on at the next word and a stopped
fault is delivered; a trial's windows alternate until it is ended. -/
def Obligations.DebugSteps : Prop := ∀ s : State,
  let u := s.ev.unit
  (64 ≤ u → exec .debugStopRequest s = .next s ∧ exec .debugResume s = .next s)
  ∧ (u < 64 → s.stops = [] → (∀ x ∈ s.groups, x.2.ctx = u → x.2.dbgStop = true) →
      (∀ x ∈ s.saved, ∀ y ∈ x.2.groups, y.2.ctx = u → y.2.dbgStop = true) → exec .debugStopRequest s = .next s)
  ∧ (u < 64 → s.stops = [] → (∀ x ∈ s.saved, ∀ y ∈ x.2.groups, s.grp y.1 = none) →
      (∀ x ∈ s.groups, ∀ y ∈ s.groups, x.1 = y.1 → x = y) →
      let asked (g : Group) : Prop := g.ctx = u ∧ g.dbgStop = false
      let out : Prop := ∃ x ∈ s.saved, ∃ y ∈ x.2.groups, asked y.2
      let busy : Prop := ∃ x ∈ s.groups, asked x.2 ∧ s.running x.1 = true
      (out ∨ ∃ x ∈ s.groups, asked x.2) →
      ∃ t, exec .debugStopRequest s = .next t ∧ t = { s with stops := t.stops, mmio := t.mmio, groups := t.groups, tbufs := t.tbufs }
      ∧ (∀ a, a ≠ dbgAddr u → t.reg a = s.reg a)
      ∧ (∀ j g, s.grp j = some g →
        t.grp j = some (if g.ctx = u ∧ g.dbgStop = false ∧ s.running j = false then { g with dbgStop := true, readyAt := none, wait := 0 } else g))
      ∧ (out ∨ busy → fld (t.reg (dbgAddr u)) 2 2 = 1 ∧ t.stops ≠ [] ∧ ∀ e ∈ t.stops, e.1 = u)
      ∧ (¬ out → ¬ busy → fld (t.reg (dbgAddr u)) 2 2 = 0 ∧ t.stops = []))
  ∧ (u < 64 → (∀ x ∈ s.groups, x.2.ctx = u → x.2.dbgStop = true → s.trapEn u = true ∧ x.2.hm = false
        ∧ (x.2.stopped.filter (fun y => y.2.1.isSome || y.2.2.isSome)).length ≤ 1) →
      ∃ t, exec .debugResume s = .next t ∧ t.stops = s.stops ∧ t.mmio = s.mmio
      ∧ (∀ j (x : SavedTeam), s.saved.find? j = some x → t.saved.find? j = some (if x.ctx = u then
        { x with groups := x.groups.mapV (fun (g : Group) => { g with dbgStop := false }) } else x))
      ∧ (∀ j g, s.grp j = some g → g.ctx = u → g.dbgStop = true → s.groups.filter (fun x => x.2.ctx == u && x.2.dbgStop) = [(j, g)] →
        let on : Group := { g with dbgStop := false }
        let u1 : State := { s with saved := t.saved }
        ((∀ x ∈ g.splits, ∀ f af, x.st ≠ .waiting (.stopped f af)) → (∃ g', t.grp j = some g' ∧ g' = { on with readyAt := g'.readyAt, wait := g'.wait })
          ∧ (on.sleeping = true → g.drained = true → g.pend = [] → ∀ k x, t.graces.find? k = some x → j ∉ x.waiting))
        ∧ ((∀ x ∈ g.splits, ∀ f af, x.st = .waiting (.stopped f af) → f = none ∧ af = none) →
          (g.splits.map (fun x => x.idx)).Nodup → ∃ g', t.grp j = some g' ∧ SameRegs g g' ∧ g'.dbgStop = false
          ∧ ∀ i x, g.split? i = some x → g'.split? i = some (if x.st = .waiting (.stopped none none) then
              { x with pc := x.pc + 8, st := .ready, wins := x.age g 1 } else x))
        ∧ (∀ sp, g.splits = [sp] → sp.idx < 4 →
          (sp.st = .waiting (.stopped none none) → ∃ g' sp', t.grp j = some g' ∧ SameRegs g g' ∧ g'.splits = [sp']
              ∧ sp' = { sp with pc := sp.pc + 8, st := .ready, wins := sp.age g 1 } ∧ g'.dbgStop = false)
          ∧ (∀ f, sp.st = .waiting (.stopped (some f) none) → f.lane < 64 → ∃ g',
              Handles u1 t j sp.idx on sp.mask (f.code.setWidth 32) f (if f.code = fcTrap ∨ f.code = fcBreak then sp.pc + 8 else sp.pc)
                sp.pc g.cmdseq g.pendq g')
          ∧ ∀ f, sp.st = .waiting (.stopped none (some f)) → ∃ g',
              Handles u1 t j sp.idx on sp.mask (f.code.setWidth 32 ||| 0x200) ⟨f.code, f.detail, f.addr, 0⟩ sp.pc f.site f.seq
                (g.pendq.erase f) g')))
  ∧ (let v := s.ev.val
    let r := s.reg (trialAddr 0)
    let parts (t : State) : Prop := ∀ p, t.part p = { s.part p with trial := false }
    let only (t : State) : Prop := t = { s with mmio := t.mmio, parts := t.parts, trial := t.trial } ∧ ∀ a, a ≠ trialAddr 0 → t.reg a = s.reg a
    let fields (t : State) (on : Nat) : Prop := let r' := t.reg (trialAddr 0)
      fld r' 63 63 = on ∧ fld r' 61 56 = fld v 61 56 ∧ fld r' 43 32 = fld v 43 32 ∧ fld r' 31 16 = fld v 31 16 ∧ fld r' 2 0 = fld v 2 0
    (fld r 63 63 = 1 → exec .trialStart s = .next s
      ∧ ∃ t, exec .trialStop s = .next t ∧ only t ∧ t.trial = none ∧ fld (t.reg (trialAddr 0)) 63 63 = 0 ∧ t.parts = s.parts)
    ∧ (fld r 63 63 = 0 → fld v 31 16 = 0 → exec .trialStart s = .next s ∧ exec .trialStop s = .next s)
    ∧ (fld r 63 63 = 0 → fld v 31 16 ≠ 0 →
      (∃ t, exec .trialStart s = .next t ∧ only t ∧ fields t 1 ∧ parts t ∧ t.trial = some ⟨false, s.now + 850 * fld v 31 16⟩)
      ∧ ∃ t, exec .trialStop s = .next t ∧ only t ∧ fields t 0 ∧ t.parts = s.parts ∧ t.trial = s.trial)
    ∧ (s.trial = none → exec .trialWindowEnd s = .next s)
    ∧ ∀ x, s.trial = some x → (s.now < x.endAt → exec .trialWindowEnd s = .next s)
      ∧ (x.endAt ≤ s.now → ∃ t, exec .trialWindowEnd s = .next t ∧ t = { s with mmio := t.mmio, parts := t.parts, trial := t.trial } ∧ parts t
        ∧ t.trial = some ⟨!x.delayed, x.endAt + 850 * fld r 31 16⟩
        ∧ (∀ a, a ≠ trialAddr 0x28 → t.reg a = s.reg a)
        ∧ fld (t.reg (trialAddr 0x28)) 31 0 = (fld (s.reg (trialAddr 0x28)) 31 0 + if x.delayed then 1 else 0) % 2 ^ 32))

-- ## Control registers and the host port (01_machine.md, 04_device_memory.md, 27_device_operation.md)

/-- R7, R20, R439, R448: what a write of a control register leaves: nothing where no register stands, `RW` bits from the write,
ones clearing `W1C` bits, and a value outside a field's range ignored in whole; a host write reaches HBM or a register once the
device is open, and before that only start-up's registers. That the count of lost trace records is cleared while tracing is off
is the model's reading (log 30). -/
def Obligations.RegisterWrites : Prop := ∀ s : State,
  let a := s.ev.addr.toNat
  let v := s.ev.val
  (regSpec a = none → exec .registerWrite s = .next s)
  ∧ (∀ r, regSpec a = some r → s.ownWrite a v = none →
    (regRange a v = false → exec .registerWrite s = .next s)
    ∧ (regRange a v = true → ∃ t, exec .registerWrite s = .next t ∧ t = { s with mmio := t.mmio } ∧ (∀ b, b ≠ a → t.reg b = s.reg b)
      ∧ ∀ j, j < 64 → (t.reg a).getLsbD j = ((if r.rw.getLsbD j then v.getLsbD j else (s.reg a).getLsbD j)
          && !(r.w1c.getLsbD j && v.getLsbD j))))
  ∧ (∀ p, p < 16 → a = fxAddr p 0 → fld v 1 1 = 0 → ∃ t, exec .registerWrite s = .next t ∧ t = { s with mmio := t.mmio }
      ∧ fld (t.reg a) 0 0 = fld v 0 0 ∧ ∀ b, b ≠ a → t.reg b = s.reg b)
  ∧ (∀ l, l < 256 → a = linkAddr l → fld (s.reg a) 63 63 = 1 → fld v 63 63 = 1 → exec .registerWrite s = .next s)
  ∧ (∀ n k, n < 64 → k < 3 → a = trapVecAddr n + 8 * k → (∃ x ∈ s.groups, x.2.ctx = n) → exec .registerWrite s = .next s)
  ∧ (a = bootAddr 8 → (fld v 4 4 = 1 → exec .registerWrite s = exec .bootOk s)
      ∧ (fld v 4 4 = 0 → ∃ t, exec .registerWrite s = .next t ∧ t = { s with mmio := t.mmio } ∧ t.opened = false ∧ t.capBytes = []
        ∧ t.reg (bootAddr 0x10) = 0))
  ∧ (a = invCmdAddr → fld v 1 0 = 0 → s.invHeld = [] → ∃ t, exec .registerWrite s = .next t ∧ t = { s with mmio := t.mmio }
      ∧ fld (t.reg a) 47 32 = fld v 47 32 ∧ fld (t.reg a) 31 16 = fld v 31 16)
  ∧ (∀ d, d < 8 → a = trcAddr d 0 → ∃ t, exec .registerWrite s = .next t ∧ t = { s with mmio := t.mmio, tbufs := t.tbufs }
      ∧ (fld v 0 0 = 1 → t.tbufs = s.tbufs)
      ∧ (fld v 0 0 = 0 → ∀ k, if k / 5 = d then (t.tbufs.get TraceBuf.init k).recs = [] ∧ (t.tbufs.get TraceBuf.init k).lost = 0
          else t.tbufs.get TraceBuf.init k = s.tbufs.get TraceBuf.init k)
      ∧ fld (t.reg a) 1 1 = max (fld (s.reg a) 1 1) (fld v 1 1) ∧ fld (t.reg a) 0 0 = fld v 0 0 ∧ fld (t.reg a) 2 2 = fld v 2 2
      ∧ fld (t.reg a) 12 8 = fld v 12 8 ∧ fld (t.reg a) 23 16 = fld v 23 16 ∧ ∀ b, b ≠ a → t.reg b = s.reg b)
  ∧ (let bs := s.ev.bytes
    let named : Prop := v.toNat = fld (s.reg (bootAddr 0x18)) 23 0
    let full : Prop := s.boot.phase = .open_ ∧ fld (s.reg (bootAddr 8)) 4 4 = 1
    (s.boot.phase = .off ∨ ¬ named → exec .hostPortWrite s = .next s)
    ∧ (s.boot.phase ≠ .off → named → a < hbmEnd → ¬ full ∨ hbmEnd < a + bs.length → exec .hostPortWrite s = .next s)
    ∧ (named → full → a + bs.length ≤ hbmEnd → (∀ j, j < bs.length → s.unbacked (a + j) = false) → a < hbmEnd →
      ∃ t, exec .hostPortWrite s = .next t
        ∧ t = { s with
          mem := t.mem, burst := t.burst, poison := t.poison, stale := t.stale, ckpt := t.ckpt, wireOut := t.wireOut
          traffic := t.traffic, nextId := t.nextId, ecmds := t.ecmds }
        ∧ (∀ (j : Nat) (b : Byte), bs[j]? = some b → t.homeByte 0 (a + j) = b)
        ∧ (∀ x, x < a ∨ a + bs.length ≤ x → t.homeByte 0 x = s.homeByte 0 x)
        ∧ ∀ k x, (∀ j, j < bs.length → (a + j) / 64 ≠ x / 64) → t.homeByte k x = s.homeByte k x)
    ∧ (s.boot.phase ≠ .off → named → hbmEnd ≤ a → a < csrBase ∨ a % 8 ≠ 0 ∨ bs.length ≠ 8 ∨ a = bootAddr 8
        ∨ (¬ full ∧ (a < bootAddr 0 ∨ bootAddr 0x100 ≤ a)) → exec .hostPortWrite s = .next s)
    ∧ (s.boot.phase ≠ .off → named → csrBase ≤ a → a % 8 = 0 → bs.length = 8 → a ≠ bootAddr 8 →
        full ∨ (bootAddr 0 ≤ a ∧ a < bootAddr 0x100) → exec .hostPortWrite s = .next (s.ctlWrite a (BitVec.ofNat 64 (natOf bs)))))

/-- R304, R446, R447: a checkpoint's pause lasts until runs, stores and started commands have ended, and what the matrix engines can
do, and fabric processors have counted what they owe; it ends in its manifest, and streaming sends every page of HBM in order as it
stands stored, by exempt reads (R99), zero where there is no storage (log 34); a
page about to be written leaves first; when all has been answered its done word is written and its packet completes; a transport
failure ends it. -/
def Obligations.CheckpointSteps : Prop := ∀ s : State,
  let leaves (t : State) (c : Ckpt) (part : Nat) (bs : List Byte) : Prop := t.wireOut = s.wireOut ++
    [⟨BitVec.ofNat 24 (s.job c.slot), BitVec.ofNat 16 s.devId, BitVec.ofNat 16 c.dev, 0, part, .write (c.addr + BitVec.ofNat 64 (65536 * part)) bs⟩]
  let isPage (page : Nat) (bs : List Byte) : Prop := bs.length = 65536 ∧ ∀ (j : Nat) (b : Byte), bs[j]? = some b → b = if s.unbacked (65536 * page + j) then 0 else s.homeByte 0 (65536 * page + j)
  let asked (t : State) (page : Nat) : Prop := ∀ w, w / 2048 = page → s.unbacked (32 * w) = false →
    ∃ z ∈ t.traffic.get [] (sliceOf (32 * w)), z.cls = 3 ∧ z.kind = .read ∧ z.line = w / 4 ∧ z.secs.getLsbD (w % 4) = true
  let idle (i : Instr) : Prop := exec i s = .next s
  (s.ckpt = none → idle .checkpointStreamStart ∧ idle .sendAhead ∧ idle .checkpointComplete)
  ∧ (∀ c, s.ckpt = some c →
    (c.streaming = false → s.pauseDone = false → idle .checkpointStreamStart)
    ∧ (∀ w, c.streaming = false → s.pauseDone = true → s.pass s.releaseAll false = .error w → exec .checkpointStreamStart s = .next w)
    ∧ (c.streaming = false → s.pauseDone = true → s.passes s.releaseAll false → ∃ t bs, exec .checkpointStreamStart s = .next t
        ∧ t.ckpt = some { c with streaming := true, time := s.deviceTime } ∧ leaves t c 0 bs ∧ bs.length = 65536
        ∧ natOf (bs.take 8) = 1 + s.devId * 65536 ∧ BitVec.ofNat 64 (natOf ((bs.drop 8).take 8)) = s.deviceTime
        ∧ natOf ((bs.drop 24).take 8) = 0xC000000000
        ∧ (∀ m, s.boot.measured = some m → m.length = 8 → (bs.drop 0x40).take 64 = quadBytes m)
        ∧ (s.capBytes.length ≤ 61440 → natOf ((bs.drop 16).take 8) = s.capBytes.length ∧ (bs.drop 0x1000).take s.capBytes.length = s.capBytes)
        ∧ ∀ k a, (∀ x ∈ s.cores, ∀ l ∈ x.2.lines, ∀ p ∈ l.dirtyBytes, p.1 / 64 ≠ a / 64) → t.homeByte k a = s.homeByte k a)
    ∧ (c.streaming = true → hbmPages ≤ c.next → idle .checkpointStreamStart)
    ∧ (c.streaming = true → c.next < hbmPages → ∃ t, exec .checkpointStreamStart s = .next t
        ∧ t = { s with ckpt := t.ckpt, wireOut := t.wireOut, traffic := t.traffic, nextId := t.nextId } ∧ (∃ c', t.ckpt = some c' ∧ c' = { c with next := c.next + 1, ahead := c'.ahead }
          ∧ ∀ j, c.next < j → c'.ahead.get false j = c.ahead.get false j)
        ∧ (c.ahead.get false c.next = true → t.wireOut = s.wireOut ∧ t.traffic = s.traffic)
        ∧ (c.ahead.get false c.next = false → asked t c.next ∧ ∃ bs, leaves t c (c.next + 1) bs ∧ isPage c.next bs))
    ∧ (let u := s.ev.unit
      let sends : Prop := u < hbmPages ∧ c.streaming = true ∧ c.next ≤ u ∧ c.ahead.get false u = false
      (¬ sends → idle .sendAhead)
      ∧ (sends → ∃ t bs, exec .sendAhead s = .next t
        ∧ t = { s with ckpt := t.ckpt, wireOut := t.wireOut, traffic := t.traffic, nextId := t.nextId } ∧ asked t u ∧ leaves t c (u + 1) bs ∧ isPage u bs ∧ ∃ c', t.ckpt = some c' ∧ c' = { c with ahead := c'.ahead }
          ∧ ∀ j, c'.ahead.get false j = if j = u then true else c.ahead.get false j))
    ∧ (let waits : Prop := c.streaming = false ∨ c.next < hbmPages ∨ ∃ p ∈ s.wireOut, p.cmd = 0
      (waits → idle .checkpointComplete)
      ∧ (¬ waits → c.done = 0 → exec .checkpointComplete s = .next (({ s with ckpt := none } : State).packetDone c.slot c.queue c.pkt))
      ∧ (¬ waits → c.done ≠ 0 → ∀ s1 v, s.engAdd 0 c.slot c.done.toNat 1 = (s1, .ok v) →
          exec .checkpointComplete s = .next (({ s1 with ckpt := none } : State).packetDone c.slot c.queue c.pkt))))
  ∧ ((∀ p ∈ s.wireOut, p.cmd ≠ 0) → idle .checkpointTransportFailure)
  ∧ (∀ c, s.ckpt = some c → (∃ p ∈ s.wireOut, p.cmd = 0) → ∃ t, exec .checkpointTransportFailure s = .next t ∧ t.ckpt = none
      ∧ (∀ p ∈ t.wireOut, p.cmd ≠ 0) ∧ c.pkt ∉ (t.queue c.queue).open_)
  ∧ (s.pauseDone = true ↔ (∀ x ∈ s.parts, x.2.run = none) ∧ (∀ x ∈ s.groups, x.2.fifo = [] ∧ x.2.cc = 0)
      ∧ (∀ x ∈ s.ecmds, x.2.started = false) ∧ (∀ x ∈ s.remotes, x.2.sent = false) ∧ (∀ x ∈ s.mcmds, s.mayComplete x.1 x.2 = false)
      ∧ ∀ x ∈ s.fxs, x.2.owes = false ∧ x.2.busy = none
        ∧ ∀ l g, x.2.lay = some l → l.ring s.devId = some g → l.compressed g = true → l.acked = true → l.counted = true)

-- ## The reeve's packets (24_scheduling.md)

/-- R386 to R391, R394: a packet is taken from the queue that `RPTR` names, or stops its queue where it is bad, or waits, and so
does a ring whose size is none, packet or not; at one level queues of the deadline class go first; a packet that completes
leaves, with event `0x01` if it asked for one; events are written, wait behind others or for their poisoned place, or are
counted as lost. An event is written in the step that raises it by the model's choice (log 30), and a descriptor without storage
is not written (log 34). Where a deadline of 0 ranks is the model's reading (log 29). -/
def Obligations.PacketQueues : Prop := ∀ s : State,
  let u := s.observeQueues
  let q := s.ev.unit
  let p := u.nextPkt q
  (u = { s with queues := u.queues, ckptWait := u.ckptWait } ∧ ∀ j, (u.queue j).open_ = (s.queue j).open_ ∧ (u.queue j).evts = (s.queue j).evts
      ∧ (u.queue j).risen = (s.queue j).risen)
  ∧ (∀ i j, u.qLevel i = u.qLevel j → u.qEdf i = true → u.qEdf j = false → lexLt (u.qRank i) (u.qRank j) = true)
  ∧ (∀ i j, u.qLevel i = u.qLevel j → u.qEdf i = true → u.qEdf j = true → (u.nextPkt i).ty = 1 → (u.nextPkt j).ty = 1 →
      (u.nextPkt i).arg 6 ≠ 0 → (u.nextPkt j).arg 6 = 0 ∨ ((u.nextPkt i).arg 6).toNat < ((u.nextPkt j).arg 6).toNat →
      lexLt (u.qRank i) (u.qRank j) = true)
  ∧ (∀ x ∈ packetRows,
    (u.qLive q = true → u.qSizeOk q = false → exec x.1 s = .next (u.badPacket q 0 (BitVec.ofNat 32 (u.qRptr q))))
    ∧ (u.qLive q = false ∨ u.qSizeOk q = true → u.qPending q = false ∨ u.mapped q = false → exec x.1 s = .next u)
    ∧ (u.qPending q = true → u.mapped q = true → u.qSizeOk q = true → u.pktOk p (u.qPriv q) = true → p.ty ≠ x.2 ∨ u.takeable p = false →
        exec x.1 s = .next u)
    ∧ (u.qPending q = true → u.mapped q = true → u.qSizeOk q = true → u.pktOk p (u.qPriv q) = false →
        exec x.1 s = .next (u.badPacket q p.tag p.num)))
  ∧ (fld p.hdr 31 10 ≠ 0 ∨ 13 ≤ p.ty → ∀ priv, u.pktOk p priv = false)
  ∧ (∀ tag num, u.badPacket q tag num = (u.qHalt q).event (u.qSlot q) 0x03 0 q tag (num.setWidth 64) 0 ∧ (u.qHalt q).qHalted q = true)
  ∧ (let s1 := u.take p
    let a := canon (u.qdescAddr q + 0x10) false
    ((∀ j, j < 8 → u.unbacked (canon (u.qdescAddr q + 0x10 + j) false) = false) → s1.qRptr q = (u.qRptr q + 1) % 2 ^ 32)
    ∧ (s1.queue q).open_ = (u.queue q).open_ ++ [p.num] ∧ (s1.queue q).risen = 0
    ∧ (s1.queue q).evts = (u.queue q).evts ++ (if fld p.hdr 9 9 = 1 then [(p.num, p.tag)] else [])
    ∧ (∀ j, j ≠ q → s1.queue j = u.queue j)
    ∧ s1 = { u with
      queues := s1.queues, mem := s1.mem, burst := s1.burst, poison := s1.poison, stale := s1.stale, ckpt := s1.ckpt
      wireOut := s1.wireOut, traffic := s1.traffic, nextId := s1.nextId, ecmds := s1.ecmds }
    ∧ (∀ x, x / 8 ≠ a / 8 → s1.homeByte 0 x = u.homeByte 0 x) ∧ ∀ k x, x / 64 ≠ a / 64 → s1.homeByte k x = u.homeByte k x)
  ∧ (∀ slot n, let t := s.packetDone slot q n
    (n ∉ (t.queue q).open_) ∧ (∀ m, m ≠ n → (m ∈ (t.queue q).open_ ↔ m ∈ (s.queue q).open_)) ∧ (∀ j, j ≠ q → t.queue j = s.queue j)
    ∧ ((∀ e ∈ (s.queue q).evts, e.1 ≠ n) → t = { s with queues := t.queues })
    ∧ ∀ tag, (s.queue q).evts = [(n, tag)] → ∃ s1 : State, t = s1.event slot 0x01 0 q tag (n.setWidth 64) 0 ∧ s1 = { s with queues := s1.queues })
  ∧ (∀ slot code fc qn tag w1 w2, let t := s.event slot code fc qn tag w1 w2
    let old := s.events.get [] slot
    let e : EventRec := ⟨slot, BitVec.ofNat 64 (code + fc * 256 + qn % 4096 * 65536 + tag.toNat * 2 ^ 32), w1, w2,
      BitVec.ofNat 64 (2 ^ 63 + s.deviceNs % 2 ^ 63)⟩
    let b := s.reg (evBaseAddr slot)
    let r := s.reg (evPtrAddr slot)
    let tail := fld r 31 0
    let room : Prop := fld b 4 0 ≠ 0 ∧ (tail + 2 ^ 32 - fld r 63 32) % 2 ^ 32 < 2 ^ fld b 4 0
    (256 ≤ old.length → t = { s with mmio := t.mmio } ∧ fld (t.reg (lostAddr slot)) 31 0 = (fld (s.reg (lostAddr slot)) 31 0 + 1) % 2 ^ 32
      ∧ ∀ a, a ≠ lostAddr slot → t.reg a = s.reg a)
    ∧ (old.length < 256 → old ≠ [] ∨ ¬ room → t = { s with events := t.events } ∧ t.events.get [] slot = old ++ [e]
      ∧ ∀ j, j ≠ slot → t.events.get [] j = s.events.get [] j)
    ∧ (old = [] → room → slot < 64 → ∀ s1 s2 : State, s1 = { s with events := s1.events } → s1.events = s.events.set [] slot [e] →
      let va := fld b 51 12 * 4096 + 32 * (tail % 2 ^ fld b 4 0)
      let put := s1.engWrite 3 0 slot va (quadBytes [e.w0, e.w1, e.w2, e.w3])
      (s1.eventPoison slot va = true → t = s1)
      ∧ (∀ x, s1.eventPoison slot va = false → put = (s2, .error x) → t = s2)
      ∧ (s1.eventPoison slot va = false → put = (s2, .ok ()) → t = { s2 with events := t.events, mmio := t.mmio } ∧ t.events.get [] slot = [] ∧ fld (t.reg (evPtrAddr slot)) 31 0 = (tail + 1) % 2 ^ 32
      ∧ fld (t.reg (evPtrAddr slot)) 63 32 = fld r 63 32 ∧ ∀ a, a ≠ evPtrAddr slot → t.reg a = s.reg a)))
  ∧ (let a : Nat := if s.ev.idx = 0 then evBaseAddr q else evPtrAddr q
    let keep : Nat × Nat := if s.ev.idx = 0 then (51, 12) else (63, 32)
    (64 ≤ q ∨ 2 ≤ s.ev.idx → exec .eventQueueRegisterWrite s = .next s)
    ∧ (q < 64 → s.ev.idx < 2 → (s.ev.idx = 0 → fld s.ev.val 4 0 = 0 ∨ (4 ≤ fld s.ev.val 4 0 ∧ fld s.ev.val 4 0 ≤ 16)) →
      s.events.get [] q = [] → ∃ t, exec .eventQueueRegisterWrite s = .next t ∧ t = { s with mmio := t.mmio }
        ∧ fld (t.reg a) keep.1 keep.2 = fld s.ev.val keep.1 keep.2 ∧ (s.ev.idx = 0 → fld (t.reg a) 4 0 = fld s.ev.val 4 0)
        ∧ (s.ev.idx = 1 → fld (t.reg a) 31 0 = fld (s.reg a) 31 0) ∧ ∀ b, b ≠ a → t.reg b = s.reg b))

/-- R390, R393, R403, R405, R406, R381: what the packets that complete as they are taken do. That one which names a `COPY` or a
program of an ending context completes as it is discarded is the model's choice (log 30). That a packet that faults completes
with its own event too is the model's reading (log 29). -/
def Obligations.PacketWords : Prop := ∀ (s s1 : State) (p : Pkt),
  let a := p.arg
  let done (i : Instr) (s2 : State) : Prop := exec i s = .next (s2.donePkt p)
  let faults (i : Instr) (code va : Nat) : Prop := exec i s = .next (s1.faultPkt p code va)
  (∀ code va, s1.faultPkt p code va = (s1.event p.slot 0x04 code p.q p.tag (p.num.setWidth 64) (BitVec.ofNat 64 va)).donePkt p)
  ∧ (Takes s 0 p s1 → done .nopPacket s1)
  ∧ (Takes s 3 p s1 → (∀ s2 bs, s1.engRead 3 0 p.slot (a 1).toNat (if fld (a 3) 3 3 = 1 then 4 else 8) = (s2, .ok bs) → done .waitmemPacket s2)
    ∧ ∀ s2 c d va, s1.engRead 3 0 p.slot (a 1).toNat (if fld (a 3) 3 3 = 1 then 4 else 8) = (s2, .error (.fault c d va)) →
        exec .waitmemPacket s = .next (s2.faultPkt p c va))
  ∧ (∀ s2 bs, p.ty = 3 → s.engRead 3 0 p.slot (a 1).toNat (if fld (a 3) 3 3 = 1 then 4 else 8) = (s2, .ok bs) →
      let v : W64 := BitVec.ofNat 64 (natOf bs)
      (s.tyReady p = true ↔ match fld (a 3) 2 0 with
        | 0 => v = a 2
        | 1 => v ≠ a 2
        | 2 => (a 2).toNat ≤ v.toNat
        | _ => (a 2).toInt ≤ v.toInt))
  ∧ (∀ x ∈ ([(.writememStore64, 0, 8), (.writememStore32, 1, 4), (.writememAdd64, 2, 8)] : List (Instr × Nat × Nat)),
    Takes s 4 p s1 → fld (a 3) 1 0 = x.2.1 →
      ((a 1).toNat % x.2.2 ≠ 0 → faults x.1 0x05 (a 1).toNat)
      ∧ ((a 1).toNat % x.2.2 = 0 → x.2.1 < 2 →
        (∀ s2, s1.engWrite 3 0 p.slot (a 1).toNat (bytesOf x.2.2 (a 2).toNat) = (s2, .ok ()) → done x.1 s2)
        ∧ ∀ s2 c d va, s1.engWrite 3 0 p.slot (a 1).toNat (bytesOf x.2.2 (a 2).toNat) = (s2, .error (.fault c d va)) → faults x.1 c va)
      ∧ ((a 1).toNat % x.2.2 = 0 → x.2.1 = 2 →
        (∀ s2 v, s1.engAdd 0 p.slot (a 1).toNat (a 2) = (s2, .ok v) → done x.1 s2)
        ∧ ∀ s2 c d va, s1.engAdd 0 p.slot (a 1).toNat (a 2) = (s2, .error (.fault c d va)) → faults x.1 c va))
  ∧ (let r := linkCntAddr (a 1).toNat
    let n := fld (s1.reg r) 31 0
    (Takes s 5 p s1 → done .linksigPacket (s1.setReg r (BitVec.ofNat 64 (min (2 ^ 32 - 1) (n + (a 2).toNat)))))
    ∧ (Takes s 6 p s1 → done .linkwaitPacket (s1.setReg r (BitVec.ofNat 64 (n - (a 2).toNat))))
    ∧ (p.ty = 6 → (s.tyReady p = true ↔ (a 2).toNat ≤ fld (s.reg r) 31 0)))
  ∧ (Takes s 2 p s1 → let k := fld (a 1) 7 0
    let n := fld (a 1) 15 8
    let x := s1.trough k
    (∀ s2 c d va, s1.engRead 3 0 p.slot (a 2).toNat (64 * n) = (s2, .error (.fault c d va)) → faults .feedPacket c va)
    ∧ ∀ s2 bs, s1.engRead 3 0 p.slot (a 2).toNat (64 * n) = (s2, .ok bs) →
      let rec_ (i : Nat) : List W64 := (List.range 8).map (fun j => BitVec.ofNat 64 (natOf ((bs.drop (64 * i + 8 * j)).take 8)))
      (x.sleepers = [] → 0 < n → ∃ t, done .feedPacket t ∧ t = { s2 with troughs := t.troughs } ∧ (∀ j, j ≠ k → t.trough j = s1.trough j)
        ∧ t.trough k = { x with recs := x.recs ++ (List.range n).map rec_, closed := false, closing := false })
      ∧ (x.sleepers = [] → n = 0 → ∃ t, done .feedPacket t ∧ t = { s2 with troughs := t.troughs } ∧ (∀ j, j ≠ k → t.trough j = s1.trough j)
        ∧ t.trough k = if fld (a 1) 16 16 = 0 then x else if x.recs = [] then { x with closed := true, closing := false } else { x with closing := true })
      ∧ (∀ gid idx rest g sp tr d, x.sleepers = (gid, idx) :: rest → n = 1 → s1.grp gid = some g → g.split? idx = some sp →
          sp.st = .asleep (.trpop tr d) → d + 7 < 63 → ∃ t g' sp', done .feedPacket t ∧ (t.trough k).sleepers = rest
            ∧ (t.trough k).recs = x.recs ∧ t.grp gid = some g' ∧ g'.split? idx = some sp' ∧ sp'.pc = sp.pc + 8 ∧ sp'.st = .ready
            ∧ (∀ j, j < 8 → g'.getS (d + j) = (rec_ 0).getD j 0) ∧ (∀ j, j < d ∨ d + 7 < j → g'.getS j = g.getS j) ∧ g'.v = g.v))
  ∧ (Takes s 10 p s1 → let k := fld (a 1) 7 0
    let v := BitVec.ofNat 32 (a 2).toNat
    (∀ d, s1.pubBad p.slot k v = some d → faults .vpubPacket 0x14 0)
    ∧ (s1.pubBad p.slot k v = none → done .vpubPacket (s1.publish k v (fld (a 1) 8 8 == 1))))
  ∧ (Takes s 12 p s1 → let slot := fld (a 1) 13 8
    (fld (a 1) 1 0 = 2 → done .ctxctlResume { s1 with susp := s1.susp.filter (fun n => n != slot) })
    ∧ (fld (a 1) 1 0 = 1 → fld (s1.reg (saveLenAddr slot)) 31 0 = 0 → faults .ctxctlSuspend 0 0)
    ∧ (fld (a 1) 1 0 = 1 → fld (s1.reg (saveLenAddr slot)) 31 0 ≠ 0 → s1.suspends = [] →
      let rest (tid : Nat) : Prop := ∃ x ∈ s1.groups, x.2.tid = tid
      let asks (t : State) : Prop := slot ∈ t.susp ∧ (∀ n ∈ s1.susp, n ∈ t.susp)
        ∧ ∀ tid, tid ∈ t.preempts ↔ tid ∈ s1.preempts ∨ ∃ tm, (tid, tm) ∈ s1.teams ∧ tm.ctx = slot ∧ rest tid
      ((∃ x ∈ s1.teams, x.2.ctx = slot ∧ rest x.1) → ∃ t, exec .ctxctlSuspend s = .next t ∧ asks t ∧ t.suspends = [(slot, p.q, p.num, p.tag)]
        ∧ t = { s1 with susp := t.susp, preempts := t.preempts, suspends := t.suspends })
      ∧ ((∀ x ∈ s1.teams, x.2.ctx = slot → ¬ rest x.1) → ∃ t, exec .ctxctlSuspend s = .next t ∧ slot ∈ t.susp ∧ t.suspends = []
        ∧ p.num ∉ (t.queue p.q).open_))
    ∧ (fld (a 1) 1 0 = 0 → ∃ t, exec .ctxctlEnd s = .next t ∧ Emptied s1 t slot
      ∧ (t.ctxBusy slot = true → (slot, p.q, p.num, p.tag) ∈ t.endings)
      ∧ (t.ctxBusy slot = false → (slot, p.q, p.num, p.tag) ∉ t.endings ∧ p.num ∉ (t.queue p.q).open_)))

-- ## Launches, commands of packets, graphs (24_scheduling.md)

/-- R63, R64, R390, R395, R396, R104, R446: a launch is refused, or makes a grid that takes the next number of its context and
the queue's level; what a well-formed record holds; a `COPY` and a `COLL` join a queue; a `CKPT` begins, ends at once or is bad.
What fits an empty core (log 46) and that a grid keeps the record as its launch read it (log 47) are the model's choices. Which
launches are refused for their record's `ENTRY` (log 13), for a count of 0 or an `LSIZE` (log 29), and that a `COPY` beyond 2^52
is a fault of its packet (log 29), are its readings. -/
def Obligations.PacketStarts : Prop := ∀ (s s1 : State) (p : Pkt),
  let a := p.arg
  let faults (i : Instr) (code va : Nat) : Prop := exec i s = .next (s1.faultPkt p code va)
  (Takes s 1 p s1 →
    let n := fld (a 3) 31 0
    let refused : Prop := exec .launchPacket s = .next ((s1.event p.slot 0x02 0 p.q p.tag (p.num.setWidth 64) 0).donePkt p)
    (∀ s2 f, s1.engRead 3 0 p.slot (a 1).toNat 128 = (s2, .error f) → refused)
    ∧ ∀ s2 bs, s1.engRead 3 0 p.slot (a 1).toNat 128 = (s2, .ok bs) →
      (parseRecord bs = none → refused)
      ∧ ∀ r, parseRecord bs = some r →
        (∀ s3 f, s2.engRead 3 0 p.slot (a 2).toNat r.paramlen = (s3, .error f) → refused)
        ∧ ∀ s3 ps, s2.engRead 3 0 p.slot (a 2).toNat r.paramlen = (s3, .ok ps) →
          let bad : Prop := n = 0 ∨ (r.cset ≠ 0 ∧ n % r.cset ≠ 0) ∨ (a 5).toNat % 16 ≠ 0 ∨ r.fitsEmpty = false
          (bad → refused)
          ∧ (¬ bad → ∃ t, exec .launchPacket s = .next t ∧ t = { s3 with nextId := s3.nextId + 1, gridNum := t.gridNum, grids := t.grids }
            ∧ (∀ j, t.gridNum.get 0 j = s1.gridNum.get 0 j + if j = p.slot then 1 else 0)
            ∧ (∀ j, j ≠ s3.nextId → t.grid j = s1.grid j)
            ∧ ∃ k, t.grid s3.nextId = some k ∧ k.slot = p.slot ∧ k.num = s1.gridNum.get 0 p.slot ∧ k.org = .packet p.q p.num p.tag
              ∧ k.queue = p.q ∧ k.prio = s.observeQueues.qLevel p.q ∧ k.rankDl = (if s1.qEdf p.q then some (a 6) else none)
              ∧ k.deadline = a 6 ∧ k.teamN = n ∧ k.rec_ = r ∧ k.consts = ps ∧ k.vpart = fld (a 3) 35 32 ∧ k.lbase = a 4 ∧ k.lsize = a 5
              ∧ k.doneAddr = a 7 ∧ k.nextTeam = 0 ∧ k.ended = 0 ∧ k.killed = false))
  ∧ (∀ (bs : List Byte) (r : LaunchRec), bs.length = 128 → parseRecord bs = some r →
    r.entry.toNat % 8 = 0 ∧ r.entry.toNat < 2 ^ 52 ∧ (r.width = 16 ∨ r.width = 32 ∨ r.width = 64) ∧ r.l1 + r.scratch ≤ 2048 ∧ 768 ≤ r.l1
      ∧ r.cset ≠ 1 ∧ r.cset ≤ 16 ∧ 1 ≤ r.roles.length ∧ r.roles.length ≤ 4
      ∧ (∀ x ∈ r.roles, 1 ≤ x.1 ∧ x.1 ≤ 16 ∧ 8 ≤ x.2 ∧ x.2 ≤ 256 ∧ x.2 % 8 = 0) ∧ r.groups.length = (r.roles.map Prod.fst).sum)
  ∧ (Takes s 8 p s1 → let h := cshape (a 4 ++ a 3)
    (2 ^ 52 ≤ (a 2).toNat + h.span h.sstr → faults .copyPacket 0x06 (a 2).toNat)
    ∧ ((a 2).toNat + h.span h.sstr < 2 ^ 52 → 2 ^ 52 ≤ (a 1).toNat + h.span h.dstr → faults .copyPacket 0x06 (a 1).toNat)
    ∧ ((a 2).toNat + h.span h.sstr < 2 ^ 52 → (a 1).toNat + h.span h.dstr < 2 ^ 52 → ∀ e, s1.copyEngine (a 5).toNat = some e →
      ∃ t c, exec .copyPacket s = .next t ∧ t = { s1 with nextId := s1.nextId + 1, ecmds := t.ecmds, engines := t.engines }
        ∧ t.ecmds.find? s1.nextId = some c ∧ c.op = .cpy .g2g (a 1) (a 2) (a 4 ++ a 3) ∧ c.np = true ∧ c.ctx = p.slot ∧ c.started = false
        ∧ c.left = h.bytes ∧ c.org = .packet p.q p.num p.tag ∧ c.site = BitVec.ofNat 64 p.q ∧ c.seq = p.num ∧ c.engine = e
        ∧ t.engine e = { s1.engine e with queue := (s1.engine e).queue ++ [s1.nextId] } ∧ (∀ j, j ≠ e → t.engine j = s1.engine j)
        ∧ ∀ j, j ≠ s1.nextId → t.ecmds.find? j = s1.ecmds.find? j))
  ∧ (Takes s 9 p s1 → let n := (a 3).toNat
    ∃ t k, exec .collPacket s = .next t ∧ t = { s1 with fxs := t.fxs } ∧ t.fx n = { s1.fx n with queue := (s1.fx n).queue ++ [k] }
      ∧ k.slot = p.slot ∧ k.prog = a 1 ∧ k.arg = a 2 ∧ k.desc = none ∧ k.org = .packet p.q p.num p.tag ∧ k.seq = p.num
      ∧ ∀ j, j ≠ n → t.fx j = s1.fx j)
  ∧ (Takes s 11 p s1 → ∀ s0 s2 bs, s.engRead 3 0 p.slot (a 1).toNat 64 = (s0, .ok bs) → s1.engRead 3 0 p.slot (a 1).toNat 64 = (s2, .ok bs) →
    let q (i : Nat) : W64 := BitVec.ofNat 64 (natOf ((bs.drop (8 * i)).take 8))
    let bad : Prop := 65536 ≤ (q 0).toNat ∨ (q 1).toNat % 65536 ≠ 0 ∨ 2 ^ 52 ≤ (q 1).toNat ∨ (q 2).toNat % 8 ≠ 0 ∨ ∃ i, 3 ≤ i ∧ i < 8 ∧ q i ≠ 0
    (bad → exec .ckptPacket s = .next (s.badPacket p.q p.tag p.num))
    ∧ (¬ bad → s2.peerStop p.slot (q 0).toNat ≠ none ∨ s2.peerBad (q 0).toNat = true →
        exec .ckptPacket s = .next ((s2.event p.slot 0x05 0x12 p.q p.tag (p.num.setWidth 64) (q 1)).donePkt p))
    ∧ (¬ bad → s2.peerStop p.slot (q 0).toNat = none → s2.peerBad (q 0).toNat = false → ∃ t c, exec .ckptPacket s = .next t
        ∧ t = { s2 with ckpt := some c, ckptWait := t.ckptWait } ∧ c.queue = p.q ∧ c.pkt = p.num ∧ c.tag = p.tag ∧ c.slot = p.slot
        ∧ c.dev = (q 0).toNat ∧ c.addr = q 1 ∧ c.done = q 2 ∧ c.streaming = false ∧ c.next = 0))

/-- R399, R400: a graph is loaded with its counts or aborted; a finished node selects successors, whose counts go down, and
those that reach 0 are ready; an `END` ends the graph; an aborted graph ends when its last node has. A ready node starts: its copy
joins an engine's queue, its launch makes a grid or is refused, its records are fed, its program joins a processor's queue; a node
that cannot start for a fault aborts the graph. That a count stops at 0 is the model's reading (log 29). -/
def Obligations.GraphSteps : Prop := ∀ s : State,
  (∀ s1 p, Takes s 7 p s1 → ∀ s2 bs, s1.engRead 3 0 p.slot (p.arg 1).toNat 64 = (s2, .ok bs) →
    let h := nodeOf bs
    let n := (h.q 0).toNat
    let k := s2.nextId
    let g : GraphSt := ⟨p.slot, p.q, p.num, p.tag, p.arg 1, n, h.q 1, [], [], [], [], false⟩
    let begun : State := { s2 with nextId := k + 1, graphs := s2.graphs.insert k g }
    let gone (b : State) : Prop := ∃ u : State, u = { b with graphs := u.graphs } ∧ u.graphs.find? k = none
      ∧ (∀ j, j ≠ k → u.graphs.find? j = s1.graphs.find? j) ∧ exec .graphPacket s =
        .next ((u.event p.slot 0x0A 0 p.q p.tag (p.num.setWidth 64) 0).donePkt p)
    (n = 0 ∨ 4096 < n ∨ (∃ i, i < 6 ∧ h.q (i + 2) ≠ 0) → gone begun)
    ∧ (1 ≤ n → n ≤ 4096 → (∀ i, i < 6 → h.q (i + 2) = 0) → ∀ s3 ns, begun.engRead 3 0 p.slot ((p.arg 1).toNat + 64) (64 * n) = (s3, .ok ns) →
      let x (i : Nat) : Node := nodeOf ((ns.drop (64 * i)).take 64)
      ((∃ i, i < n ∧ (x i).ok n = false) → gone s3)
      ∧ ((∀ i, i < n → (x i).ok n = true) → ∃ (u : State) (g' : GraphSt), exec .graphPacket s = .next (u.startNodes k)
        ∧ u = { s3 with graphs := u.graphs } ∧ u.graphs.find? k = some g' ∧ g' = { g with counts := g'.counts, ready := g'.ready }
        ∧ (∀ i, i < n → g'.counts.get 0 i = fld ((x i).q 0) 27 16) ∧ (∀ j, j ≠ k → u.graphs.find? j = s1.graphs.find? j)
        ∧ g'.ready = (List.range n).filter (fun i => fld ((x i).q 0) 27 16 == 0))))
  ∧ (∀ s1 p s2 c d va, Takes s 7 p s1 → s1.engRead 3 0 p.slot (p.arg 1).toNat 64 = (s2, .error (.fault c d va)) →
      exec .graphPacket s = .next (s2.faultPkt p c va))
  ∧ (∀ k g, s.graphs.find? k = some g → g.ready = [] → s.startNodes k = s)
  ∧ (s.graphs.find? s.ev.unit = none → exec .graphNodeFinish s = .next s)
  ∧ (∀ g, s.graphs.find? s.ev.unit = some g →
    let k := s.ev.unit
    let i := s.ev.idx
    let o : Nat × W32 × W64 := (g.queue, g.tag, BitVec.ofNat 64 (g.pkt.toNat + i % 65536 * 2 ^ 32))
    let fails (b : State) (code va : Nat) : Prop := ∃ u1 u2 : State, u1 = { b with graphs := u1.graphs }
      ∧ u2 = { u1.event g.slot 0x05 code g.queue g.tag o.2.2 (BitVec.ofNat 64 va) with graphs := u2.graphs } ∧ u2.graphs.find? k = none
      ∧ exec .graphNodeFinish s = .next ((u2.event g.slot 0x0A 0 g.queue g.tag (g.pkt.setWidth 64) 0).packetDone g.slot g.queue g.pkt)
    (g.aborted = true → g.running ≠ [] → exec .graphNodeFinish s = .next s)
    ∧ (g.aborted = true → g.running = [] → ∃ u : State, u = { s with graphs := u.graphs } ∧ u.graphs.find? k = none
        ∧ exec .graphNodeFinish s = .next ((u.event g.slot 0x0A 0 g.queue g.tag (g.pkt.setWidth 64) 0).packetDone g.slot g.queue g.pkt))
    ∧ (g.aborted = false → i ∈ g.fin ∨ i ∈ g.ready → (∀ w, s.node g i = (w, .error .wait) → exec .graphNodeFinish s = .next (s.waiting w))
        ∧ (g.running = [] → ∀ t c d va, s.node g i = (t, .error (.fault c d va)) → fails t c va))
    ∧ (g.aborted = false → i ∈ g.fin → ∀ t x, s.node g i = (t, .ok x) → x.ok g.n = true →
      let picks (b : State) (l : List Nat) : Prop := ∃ (u : State) (g' : GraphSt),
        exec .graphNodeFinish s = .next (u.startNodes k) ∧ u = { b with graphs := u.graphs }
        ∧ u.graphs.find? k = some g' ∧ g' = { g with counts := g'.counts, ready := g'.ready, fin := g'.fin } ∧ i ∉ g'.fin
        ∧ (∀ j, g'.counts.get 0 j = g.counts.get 0 j - l.count j)
        ∧ ∀ j, j ∈ g'.ready ↔ j ∈ g.ready ∨ (j < g.n ∧ j ∈ l ∧ g.counts.get 0 j ≠ 0 ∧ g.counts.get 0 j ≤ l.count j)
      let succs (from_ until_ : Nat) : List Nat := ((List.range 8).filter (fun j => decide (from_ ≤ j ∧ j < until_ ∧ j < x.nsucc))).map x.succ
      let reads (t2 : State) (v : Nat) : Prop := (x.q 1).toNat % 8 = 0 ∧ ∃ bs, t.engRead 3 0 g.slot (x.q 1).toNat 8 = (t2, .ok bs) ∧ natOf bs = v
      (x.kind < 5 → picks t (succs 0 8))
      ∧ (∀ t2 v, x.kind = 5 → reads t2 v → picks t2 (if v ≠ 0 then succs 0 4 else succs 4 8))
      ∧ (∀ t2, x.kind = 6 → reads t2 0 → picks t2 (succs 0 8))
      ∧ (∀ t2 t3 v ps, x.kind = 6 → reads t2 v → v ≠ 0 →
          bodyPreds g t2 ((List.range (x.last + 1)).filter (fun j => decide (x.first ≤ j))) = (t3, .ok ps) →
          ∃ (u : State) (g' : GraphSt), exec .graphNodeFinish s = .next (u.startNodes k) ∧ u = { t3 with graphs := u.graphs } ∧ u.graphs.find? k = some g'
            ∧ g'.ready = g.ready ++ (ps.filter (fun y => y.2 == 0)).map Prod.fst ∧ (∀ y ∈ ps, x.first ≤ y.1 ∧ y.1 ≤ x.last ∧ g'.counts.get 0 y.1 = y.2)
            ∧ ∀ j, j < x.first ∨ x.last < j → g'.counts.get 0 j = g.counts.get 0 j)
      ∧ (∀ t2 y, x.kind = 7 → x.nsucc ≠ 0 → t.node g (x.succ 0) = (t2, .ok y) → (y.kind ≠ 6 → picks t2 (succs 0 8))
          ∧ (y.kind = 6 → ∃ u : State, exec .graphNodeFinish s = .next (u.startNodes k) ∧ u = { t2 with graphs := u.graphs }
            ∧ u.graphs.find? k = some { g with ready := g.ready ++ [x.succ 0], fin := g.fin.filter (fun j => j != i) }))
      ∧ (x.kind = 7 → x.nsucc = 0 → (g.done = 0 → ∃ u : State, u = { t with graphs := u.graphs } ∧ u.graphs.find? k = none
            ∧ exec .graphNodeFinish s = .next (u.packetDone g.slot g.queue g.pkt))
          ∧ ∀ s1 v, g.done ≠ 0 → t.engAdd 0 g.slot g.done.toNat 1 = (s1, .ok v) → ∃ u : State, u = { s1 with graphs := u.graphs }
            ∧ u.graphs.find? k = none ∧ exec .graphNodeFinish s = .next (u.packetDone g.slot g.queue g.pkt)))
    ∧ (g.aborted = false → i ∉ g.fin → i ∉ g.ready → exec .graphNodeFinish s = .next s)
    ∧ (g.aborted = false → i ∉ g.fin → i ∈ g.ready → ∀ t x, s.node g i = (t, .ok x) → x.ok g.n = true →
      let ended : GraphSt := { g with ready := g.ready.filter (fun j => j != i), fin := g.fin ++ [i] }
      let begun : GraphSt := { g with ready := g.ready.filter (fun j => j != i), running := g.running ++ [i] }
      let at_ (u : State) (g' : GraphSt) : Prop := u = { t with graphs := u.graphs } ∧ u.graphs.find? k = some g' ∧ ∀ j, j ≠ k → u.graphs.find? j = s.graphs.find? j
      (5 ≤ x.kind → ∃ u : State, exec .graphNodeFinish s = .next u ∧ at_ u ended)
      ∧ (x.kind = 4 → (x.q 3 ≠ 1 → (x.q 1).toNat % 8 = 0) → (x.q 3 = 1 → (x.q 1).toNat % 4 = 0) → x.q 3 ≠ 2 →
          wouldWait (s.engTargets 0 g.slot (x.q 1).toNat (bytesOf (if x.q 3 = 1 then 4 else 8) 0)).2 = false →
          ∀ u s1, at_ u ended → u.engWrite 3 0 g.slot (x.q 1).toNat (bytesOf (if x.q 3 = 1 then 4 else 8) (x.q 2).toNat) = (s1, .ok ()) →
            u.graphs = s.graphs.insert k ended → exec .graphNodeFinish s = .next s1)
      ∧ (x.kind < 4 → (∀ w, t.nodePkt g x = (w, .error .wait) → exec .graphNodeFinish s = .next (s.waiting w))
        ∧ (g.running = [] → ∀ t2 c d va, t.nodePkt g x = (t2, .error (.fault c d va)) → fails t2 c va))
      ∧ (∀ t2 p, x.kind < 4 → t.nodePkt g x = (t2, .ok p) → x.ptype = some p.ty → s.pktOk p false = true →
        let a := p.arg
        let run : State := { t2 with graphs := t2.graphs.insert k begun }
        let done (b : State) : Prop := ∃ (u : State) (g' : GraphSt), exec .graphNodeFinish s = .next u ∧ u = { b with graphs := u.graphs }
          ∧ u.graphs.find? k = some g' ∧ g'.fin = g.fin ++ [i] ∧ i ∉ g'.running ∧ g'.ready = ended.ready
        p.slot = g.slot ∧ p.q = g.queue ∧ p.num = g.pkt
        ∧ (s.tyReady p = false → exec .graphNodeFinish s = .next s)
        ∧ (s.tyReady p = true → x.kind = 0 → let h := cshape (a 4 ++ a 3)
          (g.running = [] → 2 ^ 52 ≤ (a 2).toNat + h.span h.sstr → fails run 0x06 (a 2).toNat)
          ∧ (g.running = [] → (a 2).toNat + h.span h.sstr < 2 ^ 52 → 2 ^ 52 ≤ (a 1).toNat + h.span h.dstr → fails run 0x06 (a 1).toNat)
          ∧ ((a 2).toNat + h.span h.sstr < 2 ^ 52 → (a 1).toNat + h.span h.dstr < 2 ^ 52 → ∀ e, s.copyEngine (a 5).toNat = some e →
            ∃ u c, exec .graphNodeFinish s = .next u
              ∧ u = { run with nextId := run.nextId + 1, ecmds := u.ecmds, engines := u.engines }
              ∧ u.ecmds.find? run.nextId = some c ∧ c.op = .cpy .g2g (a 1) (a 2) (a 4 ++ a 3) ∧ c.np = true ∧ c.ctx = g.slot
              ∧ c.started = false ∧ c.left = h.bytes ∧ c.org = .node k i ∧ c.seq = g.pkt ∧ c.engine = e
              ∧ u.engine e = { s.engine e with queue := (s.engine e).queue ++ [run.nextId] } ∧ (∀ j, j ≠ e → u.engine j = s.engine j)
              ∧ ∀ j, j ≠ run.nextId → u.ecmds.find? j = s.ecmds.find? j))
        ∧ (s.tyReady p = true → x.kind = 1 → let n := fld (a 3) 31 0
          let refused : Prop := done (run.event g.slot 0x02 0 g.queue g.tag o.2.2 0)
          (∀ s3 f, run.engRead 3 0 g.slot (a 1).toNat 128 = (s3, .error f) → refused)
          ∧ ∀ s3 bs, run.engRead 3 0 g.slot (a 1).toNat 128 = (s3, .ok bs) →
            (parseRecord bs = none → refused)
            ∧ ∀ r, parseRecord bs = some r →
              (∀ s4 f, s3.engRead 3 0 g.slot (a 2).toNat r.paramlen = (s4, .error f) → refused)
              ∧ ∀ s4 ps, s3.engRead 3 0 g.slot (a 2).toNat r.paramlen = (s4, .ok ps) →
                let bad : Prop := n = 0 ∨ (r.cset ≠ 0 ∧ n % r.cset ≠ 0) ∨ (a 5).toNat % 16 ≠ 0 ∨ r.fitsEmpty = false
                (bad → refused)
                ∧ (¬ bad → ∃ u : State, exec .graphNodeFinish s = .next u
                  ∧ u = { s4 with nextId := s4.nextId + 1, gridNum := u.gridNum, grids := u.grids } ∧ u.graphs.find? k = some begun
                  ∧ (∀ j, u.gridNum.get 0 j = s.gridNum.get 0 j + if j = g.slot then 1 else 0)
                  ∧ (∀ j, j ≠ s4.nextId → u.grid j = s4.grid j)
                  ∧ ∃ y, u.grid s4.nextId = some y ∧ y.slot = g.slot ∧ y.num = s.gridNum.get 0 g.slot ∧ y.org = .node k i
                    ∧ y.queue = g.queue ∧ y.prio = s.qLevel g.queue ∧ y.rankDl = (if s.qEdf g.queue then some (a 6) else none)
                    ∧ y.deadline = a 6 ∧ y.teamN = n ∧ y.rec_ = r ∧ y.consts = ps ∧ y.vpart = fld (a 3) 35 32 ∧ y.lbase = a 4
                    ∧ y.lsize = a 5 ∧ y.doneAddr = a 7 ∧ y.nextTeam = 0 ∧ y.ended = 0 ∧ y.killed = false))
        ∧ (s.tyReady p = true → x.kind = 2 → let j := fld (a 1) 7 0
          let n := fld (a 1) 15 8
          let y := s.trough j
          (g.running = [] → ∀ s3 c d va, run.engRead 3 0 g.slot (a 2).toNat (64 * n) = (s3, .error (.fault c d va)) → fails run c va)
          ∧ ∀ s3 bs, run.engRead 3 0 g.slot (a 2).toNat (64 * n) = (s3, .ok bs) → y.sleepers = [] → ∃ v : State, done v
            ∧ v = { s3 with troughs := v.troughs } ∧ (∀ l, l ≠ j → v.trough l = s.trough l)
            ∧ (0 < n → v.trough j = { y with closed := false, closing := false, recs := y.recs ++ (List.range n).map (fun m =>
                (List.range 8).map (fun l => BitVec.ofNat 64 (natOf ((bs.drop (64 * m + 8 * l)).take 8)))) })
            ∧ (n = 0 → v.trough j = if fld (a 1) 16 16 = 0 then y else if y.recs = [] then { y with closed := true, closing := false }
                else { y with closing := true }))
        ∧ (s.tyReady p = true → x.kind = 3 → ∃ (u : State) (c : FxStart), exec .graphNodeFinish s = .next u ∧ u = { t2 with graphs := u.graphs, fxs := u.fxs }
          ∧ u.graphs.find? k = some begun ∧ (u.fx (p.arg 3).toNat).queue = (s.fx (p.arg 3).toNat).queue ++ [c] ∧ c.org = .node k i
          ∧ c.prog = p.arg 1 ∧ c.arg = p.arg 2))
      ∧ (∀ t2 p, x.kind < 4 → t.nodePkt g x = (t2, .ok p) → x.ptype ≠ some p.ty ∨ s.pktOk p false = false → g.running = [] → ∃ u : State,
          u = { t2 with graphs := u.graphs } ∧ u.graphs.find? k = none ∧ exec .graphNodeFinish s =
            .next ((u.event g.slot 0x0A 0 g.queue g.tag (g.pkt.setWidth 64) 0).packetDone g.slot g.queue g.pkt)))
    ∧ s.orgName (.node k i) = o)

-- ## Placement, priority and pre-emption (24_scheduling.md, 25_traps.md)

/-- R21, R120 to R122, R394, R395, R397: a placement oversubscribes no core; the dispatcher serves the best grid whose next team
fits, in team order, on the lowest core; queues age; a passed deadline is told once. Where a deadline of 0 ranks is the model's
reading (log 29). -/
def Obligations.TeamPlacement : Prop := ∀ s : State,
  (∀ c gone r b ps, s.fitOn c gone r = some (b, ps) →
    let on := s.coreSpots c gone
    let news : List (Nat × Nat × Nat) := (ps.zip r.groups).map (fun x => (x.1.1, x.1.2, x.2.2.2))
    s.present (.cluster (c / 16)) = true ∧ ps.length = r.groups.length ∧ on.length + ps.length ≤ 64
    ∧ (s.coreTeams c gone = [] ∨ r.l1 = (s.core c).l1) ∧ ((s.coreTeams c gone).map (fun t => t.acc)).sum + r.acc ≤ 16
    ∧ b + scratchBytes r.scratch ≤ 2 ^ 21
    ∧ (∀ t ∈ s.coreTeams c gone, b + scratchBytes r.scratch ≤ t.base ∨ t.base + scratchBytes t.scratch ≤ b ∨ scratchBytes r.scratch = 0)
    ∧ ∀ x ∈ ps, x.1 < 4 ∧ x.2 < 64 / r.width
      ∧ ((∀ y ∈ on, y.2.1 ≠ x.1) ∨ (on.find? (fun y => y.2.1 == x.1)).map Prod.fst = some r.width)
      ∧ (on.filter (fun y => y.2.1 == x.1 && y.2.2.1 == x.2)).length + (news.filter (fun y => y.1 == x.1 && y.2.1 == x.2)).length ≤ 8
      ∧ ((on.filter (fun y => y.2.1 == x.1 && y.2.2.1 == x.2)).map (fun y => y.2.2.2)).sum
        + ((news.filter (fun y => y.1 == x.1 && y.2.1 == x.2)).map (fun y => y.2.2)).sum ≤ 512)
  ∧ ((∀ kid cores, s.dispatch ≠ some (.place kid cores)) → exec .teamPlacement s = .next s)
  ∧ (∀ kid cores, s.dispatch = some (.place kid cores) →
    (∃ k, (kid, k) ∈ s.grids ∧ s.hasUnplaced kid k = true ∧ k.slot ∉ s.susp
      ∧ (∀ x ∈ s.grids, s.hasUnplaced x.1 x.2 = true → x.2.slot ∉ s.susp → lexLt (Grid.rank x.1 x.2) (Grid.rank kid k) = true →
          s.choiceFor [] x.1 x.2 = none)
      ∧ k.nextTeam < k.teamN ∧ (∀ c ∈ cores, (s.fitOn c [] k.rec_).isSome = true)
      ∧ (k.rec_.cset = 0 → ∃ c, cores = [c] ∧ ∀ d, d < c → s.fitOn d [] k.rec_ = none)
      ∧ (k.rec_.cset ≠ 0 → cores.length = k.rec_.cset ∧ ∃ cl, ∀ c ∈ cores, c / 16 = cl))
    ∧ ∀ k, s.grid kid = some k → ∃ t, exec .teamPlacement s = .next t
      ∧ t.grid kid = some { k with nextTeam := k.nextTeam + cores.length } ∧ (t.queue k.queue).risen = 0
      ∧ (∀ j, j ≠ kid → t.grid j = s.grid j)
      ∧ ∀ c base ps, cores = [c] → s.fitOn c [] k.rec_ = some (base, ps) → ∃ tid, s.nextId ≤ tid ∧ (t.core c).l1 = k.rec_.l1
        ∧ t.team tid = some ⟨kid, k.nextTeam, k.slot, c, base, k.rec_.scratch, k.rec_.acc, k.rec_.groups.length, 0, s.tick, [], [], [], 0, []⟩
        ∧ ∀ gi role rank budget sl pt, k.rec_.groups[gi]? = some (role, rank, budget) → ps[gi]? = some (sl, pt) →
          t.grp (tid + 1 + gi) = some (Group.placed tid k.slot gi role rank k.rec_.width budget sl c pt k.rec_.entry
            (BitVec.ofNat 32 (fld (s.reg (vpStatAddr k.vpart)) 31 0)) k.vpart k.lbase k.lsize s.tick))
  ∧ (s.grid s.ev.unit = none → exec .deadlineMissed s = .next s ∧ exec .priorityPreemption s = .next s)
  ∧ (∀ k, s.grid s.ev.unit = some k →
    (k.deadline = 0 ∨ k.late = true ∨ s.deviceNs ≤ k.deadline.toNat → exec .deadlineMissed s = .next s)
    ∧ (∀ q n tag, k.deadline ≠ 0 → k.late = false → k.deadline.toNat < s.deviceNs → k.org = .packet q n tag → ∃ u : State,
        u = { s with grids := u.grids } ∧ u.grid s.ev.unit = some { k with late := true } ∧ (∀ j, j ≠ s.ev.unit → u.grid j = s.grid j)
        ∧ exec .deadlineMissed s = .next (u.event k.slot 0x08 0 q tag (n.setWidth 64) 0)))
  ∧ (let u := s.observeQueues
    let q := s.ev.unit
    let x := u.queue q
    let l := u.qLevel q
    let g := 850 * fld (s.reg (rvAgeAddr (l / 4))) (16 * (l % 4) + 15) (16 * (l % 4))
    let due : Prop := u.qEdf q = false ∧ l < 7 ∧ g ≠ 0 ∧ ∃ b, x.since = some b ∧ b + g ≤ s.now
    (¬ due → exec .priorityAgeing s = .next u)
    ∧ (due → ∃ t, exec .priorityAgeing s = .next t ∧ t = { u with queues := t.queues }
      ∧ t.queue q = { x with risen := x.risen + 1, since := some s.now } ∧ ∀ j, j ≠ q → t.queue j = u.queue j)
    ∧ (u.qEdf q = false → l = min 7 (fld (u.qCfg q) 18 16 + x.risen)))

/-- R418 to R424: a waiting grid pre-empts a team of lower priority; a team being saved stops group by group, is written to its
save area once all of it has stopped and settled, and leaves its core; it is resumed from its image, on whichever core it fits.
That no further team is taken while those leaving make room (log 45), and that bytes of its scratchpad which the image has no place
for are kept outside it (log 44), are the model's choices. So is that a regulator holds back the release of a save (log 31). That removals are counted from the lowest priority up is its reading (log 29). -/
def Obligations.Preemption : Prop := ∀ s : State,
  (∀ k, s.grid s.ev.unit = some k →
    let kid := s.ev.unit
    let int := 850 * fld (s.reg rvPreemptAddr) 31 0
    let idle : Prop := int = 0 ∨ s.hasUnplaced kid k = false ∨ k.slot ∈ s.susp ∨ s.now < max k.since (s.preemptAt.get 0 kid) + int
      ∨ (s.choiceFor s.preempts kid k).isSome = true
    let lower (tid : Nat) (tm : Team) (x : Grid) : Prop := (tid, tm) ∈ s.teams ∧ s.teamGroups tid ≠ [] ∧ tid ∉ s.preempts
      ∧ s.grid tm.grid = some x ∧ x.prio < k.prio ∧ fld (s.reg (saveLenAddr tm.ctx)) 31 0 ≠ 0
    (idle ∨ (∀ tid tm x, ¬ lower tid tm x) → exec .priorityPreemption s = .next s)
    ∧ (¬ idle → exec .priorityPreemption s = .next s ∨ ∃ t tid tm x, exec .priorityPreemption s = .next t ∧ lower tid tm x
      ∧ t = { s with preempts := s.preempts ++ [tid], preemptAt := t.preemptAt } ∧ t.preemptAt.get 0 kid = s.now
      ∧ ∀ tid' tm' x', lower tid' tm' x' → (s.choiceFor (s.preempts ++ [tid']) kid k).isSome = true →
        (s.choiceFor (s.preempts ++ [tid]) kid k).isSome = true ∧ x.prio ≤ x'.prio)
    ∧ (¬ idle → ∀ tid tm x, lower tid tm x → (s.choiceFor (s.preempts ++ [tid]) kid k).isSome = true →
        ∃ t, exec .priorityPreemption s = .next t ∧ t.preempts ≠ s.preempts))
  ∧ (let tid := s.ev.unit
    (s.team tid = none ∨ tid ∉ s.preempts ∨ (∀ x ∈ s.groups, x.2.tid ≠ tid) → exec .teamSave s = .next s)
    ∧ (∀ tm k, s.team tid = some tm → s.grid tm.grid = some k → tid ∈ s.preempts → (∃ x ∈ s.groups, x.2.tid = tid) →
      s.cmdsDone tid = false ∨ (∃ x ∈ s.groups, x.2.tid = tid ∧ x.2.settled = false) → s.stops = [] → (s.groups.map Prod.fst).Nodup →
      ∃ t, exec .teamSave s = .next t ∧ t = { s with groups := t.groups } ∧ ∀ gid g, s.grp gid = some g →
        let stops : Prop := g.tid = tid ∧ g.halted = false ∧ s.running gid = false ∧ s.boundaryFault gid g = none
        (stops → t.grp gid = some { g with halted := true, readyAt := none, wait := 0 }) ∧ (¬ stops → t.grp gid = some g))
    ∧ ∀ tm k gid g0 g, s.team tid = some tm → s.grid tm.grid = some k → tid ∈ s.preempts → s.cmdsDone tid = true → g0.settled = true →
      s.groups.filter (fun x => x.2.tid == tid) = [(gid, g0)] → g = (s.unstall gid g0).demoteNow → s.suspends = [] →
      (∀ w, s.pass (s.release g .device) false = .error w → exec .teamSave s = .next w)
      ∧ ∀ u s1 s2, s.pass (s.release g .device) false = .ok s1 →
      let geo := geoOf k.rec_.width tm.scratch tm.acc [(g.gi, g.budget)]
      let n := (geo.size + 65535) / 65536
      s1.saveSpace tm.ctx n = some u → s1.writeImage tm.ctx (65536 * (fld (s.reg (saveBaseAddr tm.ctx)) 51 16 + u)) tm geo
        (tm.image k [(gid, g)] geo s.now) = (s2, .ok ()) →
      ∃ t, exec .teamSave s = .next t ∧ t.team tid = none ∧ (∀ x ∈ t.groups, x.2.tid ≠ tid) ∧ tid ∉ t.preempts ∧ SameHome s2 t
        ∧ t.saved.find? tid = some ⟨tm.grid, tm.idx, tm.ctx, u, n, s.now, tm.member, [(gid, g)], [],
            tm.sram.keep (fun o _ => decide (tm.scratch * 1024 ≤ o)), tm.poison.keep (fun w _ => decide (tm.scratch * 32 ≤ w))⟩
        ∧ (∀ j, j ≠ tid → t.saved.find? j = s.saved.find? j ∧ t.team j = s.team j)
        ∧ ∀ j x, s.grp j = some x → x.tid ≠ tid → t.grp j = some x)
  ∧ ((∀ tid c, s.dispatch ≠ some (.resume tid c)) → exec .teamResume s = .next s)
  ∧ (∀ tid c x k base ps s1 bs, s.dispatch = some (.resume tid c) → s.saved.find? tid = some x → s.grid x.grid = some k →
      s.fitOn c [] k.rec_ = some (base, ps) →
      let geo := geoOf k.rec_.width k.rec_.scratch k.rec_.acc (x.groups.map (fun e => (e.2.gi, e.2.budget)))
      s.engRead 3 0 x.ctx (65536 * (fld (s.reg (saveBaseAddr x.ctx)) 51 16 + x.unit)) geo.size = (s1, .ok bs) →
      x.late = [] → (x.groups.map Prod.fst).Nodup →
      (∀ e ∈ x.groups, e.2.latch = none ∧ e.2.tid = tid ∧ ∀ y ∈ e.2.splits, ∀ f af, y.st ≠ .waiting (.stopped f af)) →
      (∀ e ∈ s.groups, e.2.latch = none) → s.stops = [] →
      ∃ t tm, exec .teamResume s = .next t ∧ t.saved.find? tid = none ∧ t.team tid = some tm ∧ tm.core = c ∧ tm.base = base
        ∧ tm.poison = x.restPoison ∧ (∀ o, tm.scratch * 1024 ≤ o → tm.sram.get 0 o = x.rest.get 0 o)
        ∧ tm.idx = x.idx ∧ tm.grid = x.grid ∧ t.grid x.grid = some k
        ∧ ∀ e ∈ x.groups, ∃ g', t.grp e.1 = some g' ∧ g'.core = c
          ∧ SameRegs (s.groupOfImage (bs.drop (geo.off e.2.gi)) e.2 x.savedAt c ((ps[e.2.gi]?).getD (0, 0)).1 ((ps[e.2.gi]?).getD (0, 0)).2) g')
  ∧ (∀ (g : Group) (now at_ core sl pt : Nat) (rest : List Byte), 16 ≤ g.width → g.width ≤ 64 → g.budget ≤ 256 → g.gi < 16 →
      g.splits.length ≤ 4 → g.stack.length ≤ 32 → let g' := s.groupOfImage (g.image now ++ rest) g at_ core sl pt
      (∀ n l, n < g.budget → l < g.width → g'.getV n l = g.getV n l) ∧ (∀ n, n < 64 → g'.getS n = g.getS n)
      ∧ (∀ n, n < 8 → g'.getD n = g.getD n) ∧ (∀ n, n < 8 → g'.getP n = g.getP n) ∧ (∀ l, l < 64 → g'.getFlg l = g.getFlg l)
      ∧ g'.tcause = g.tcause ∧ g'.tpc = g.tpc ∧ g'.taddr = g.taddr ∧ g'.tdetail = g.tdetail ∧ g'.tsite = g.tsite ∧ g'.tseq = g.tseq
      ∧ g'.tscr = g.tscr ∧ g'.hm = g.hm ∧ g'.cmdseq = g.cmdseq ∧ g'.gang = g.gang ∧ g'.vcur = g.vcur ∧ g'.lsc = g.lsc ∧ g'.lscn = g.lscn
      ∧ g'.lsci = g.lsci ∧ g'.latch.isSome = g.latch.isSome ∧ g'.pendq = g.pendq)
  ∧ (∀ gid g, let g' := s.unstall gid g
    g' = { g with splits := g'.splits } ∧ g'.splits.length = g.splits.length
    ∧ ∀ (i : Nat) sp, g.splits[i]? = some sp → g'.splits[i]? = some (if s.splitReady gid g sp = true then { sp with st := .ready } else sp))

-- ## Encodings, the step, memory and reset

/-- R25 to R51, R309, R431: every well-formed instruction of the three instruction sets is what its own words decode to, with every
operand at every value. -/
def Obligations.DecodeEncode : Prop := ∀ i : Instr, i.wf = true → isStep i = false → decodeWords (encode i) = some i

/-- R28, R32, R50, R309, R431: what decodes is well formed, and no other words mean it. -/
def Obligations.EncodeDecode : Prop :=
  (∀ (w b : W64) (i : Instr), decodeIgyan w b = .ok i → i.wf = true ∧ isStep i = false
    ∧ encode i = if isXprWord w = true then .igyan2 w b else .igyan w)
  ∧ (∀ (w : W64) (i : Instr), decodeFx w = .ok i → i.wf = true ∧ isStep i = false ∧ encode i = .fabric w)
  ∧ ∀ (w : W32) (i : Instr), decodeSieve w = some i → i.wf = true ∧ isStep i = false ∧ encode i = .sieve w

/-- Words written out from the encodings of chapters 2, 9, 17, 25, 19 and 26 decode to what they stand for. -/
def Obligations.DecodeWords : Prop :=
  decodeIgyan 0x80C1C0C240140800 0 = .ok (.iadd ⟨true, 2, true, false, 0⟩ ⟨false, true, .s32, 7, 3, 9⟩)
  ∧ decodeIgyan 0x0402804080F80096 0 = .ok (.lop3 ⟨false, 7, false, false, 0⟩ 0x96 ⟨false, false, .s32, 10, 1, 2, 3⟩)
  ∧ decodeIgyan 0xBB00000000380000 0 = .ok (.rte ⟨true, 7, false, false, 0⟩)
  ∧ decodeIgyan 0xB600000000380003 0 = .ok (.prog ⟨true, 7, false, false, 0⟩ 3)
  ∧ decodeIgyan 0x3B81400000381022 0 = .ok (.csrr ⟨false, 7, false, false, 0⟩ true 5 0x22)
  ∧ decodeIgyan 0x3AC0000000380015 0 = .ok (.trap ⟨false, 7, false, false, 0⟩ 0x15)
  ∧ decodeFx 0x08D00FFFFFFFFFF8 = .ok (.fxLoop 13 (-8))
  ∧ decodeSieve 0x108000FF = some (.sieveAnd 1 0 0xFF) ∧ decodeSieve 0x24A00003 = some (.sieveJeq 1 2 3)
  ∧ decodeSieve 0x30000000 = some .sieveKeep

/-- R26, R27, R41, R50, R308, R430: a step runs the instruction that the words at the program counter decode to, or ends the run
at its limit, or raises the fault of its encoding; every other turn is a step of the hardware or the outside, or lets time pass,
or sets device time forward (log 39). That a fetch that waits ends the run before its word (log 42), and that a body word which
cannot be fetched is a fault at the first word (log 43), are the model's choices. So are the turn that a step takes where the
manual orders none (log 1), that a word is fetched as its home slice holds it (log 12), and that a word which faults or stalls is
not counted in its run (logs 41, 42). -/
def Obligations.StepRuns : Prop := ∀ s : State,
  let s0 : State := s.advance
  (s0 = { s with agenda := s.agenda.tail, tick := s.tick + 1, groups := s0.groups }
    ∧ (∀ gid, s.grp gid = none → s0.grp gid = none)
    ∧ ∀ gid g, s.grp gid = some g → ∃ g', s0.grp gid = some g' ∧ g' = { g with readyAt := g'.readyAt, wait := g'.wait }
      ∧ (s.running gid = true → g' = g)
      ∧ (s.running gid = false → (g'.readyAt.isSome = true ↔ g.dbgStop = false ∧ g.halted = false ∧ (s.nextSplit gid g).isSome = true)
        ∧ (g.readyAt = none → g'.readyAt = none ∨ g'.readyAt = some s.tick)))
  ∧ ((∀ t l, s.agenda = t :: l → s.turn = t) ∧ (s.agenda = [] → s.turn = Config.schedule s.tick))
  ∧ (∀ p, s.turn = .issue p → (s.part p).run = none → step s = .next s0)
  ∧ (∀ p gid idx g sp, s.turn = .issue p → (s.part p).run = some (gid, idx) → s.grp gid = some g → g.split? idx = some sp →
    let n := (s.part p).count
    let ends (s1 : State) : Prop := step s = exec .forcedRunEnd { s1 with ev := { EvIn.none with unit := p } }
    let runs (s1 : State) (r : Except Reject Instr) : Prop :=
      (∀ i, r = .ok i → step s = exec i { s1 with cur := some (gid, idx) })
      ∧ ∀ x, r = .error x → ∃ code, step s = .next (s1.raise gid idx ⟨code, 0, 0, 0⟩ sp.pc)
        ∧ code = match x with
          | .opcode => 0x01
          | .operand => 0x02
          | .pair => 0x03
    (24 ≤ n → ends s0)
    ∧ (n < 24 → ∀ s1 w, s0.fetchWord g sp.pc = (s1, .word w) →
      (isXprWord w = false → runs s1 (decodeIgyan w 0))
      ∧ (isXprWord w = true → n = 23 → ends s1)
      ∧ (isXprWord w = true → n < 23 → ∀ s2 b, s1.fetchWord g (sp.pc + 8) = (s2, .word b) → runs s2 (decodeIgyan w b))
      ∧ (isXprWord w = true → n < 23 → ∀ s2 f, s1.fetchWord g (sp.pc + 8) = (s2, .bad f) → step s = .next (s2.raise gid idx f sp.pc))
      ∧ (isXprWord w = true → n < 23 → ∀ s2 y, s1.fetchWord g (sp.pc + 8) = (s2, .wait y) → step s = .next (s2.stallAt gid idx y)))
    ∧ (n < 24 → ∀ s1 f, s0.fetchWord g sp.pc = (s1, .bad f) → step s = .next (s1.raise gid idx f sp.pc))
    ∧ (n < 24 → ∀ s1 y, s0.fetchWord g sp.pc = (s1, .wait y) → step s = .next (s1.stallAt gid idx y)))
  ∧ (∀ (g : Group) (pc : W64) e, pc.toNat < 2 ^ 52 → tlbFind (s.core g.core).tlb (s.ctxAsid g.ctx) pc.toNat = some e →
      let at_ := canon (e.pa + (pc.toNat - e.base)) e.dl
      let bad (code : BitVec 8) (detail : W32) : Prop := s.fetchWord g pc = (s, .bad ⟨code, detail, pc, 0⟩)
      let waits (y : Why) : Prop := s.fetchWord g pc = (s, .wait y)
      (e.x = false → bad 0x07 0xA) ∧ (e.x = true → s.keyLoaded e.key = false → bad 0x07 0xB)
      ∧ (e.x = true → s.keyLoaded e.key = true → s.keyLoad.contains e.key = true → waits (.keyLoad e.key))
      ∧ (e.x = true → s.keyLoaded e.key = true → s.keyLoad.contains e.key = false → (e.ofs = 2 → bad 0x08 0)
        ∧ (e.ofs = 3 → waits (.page g.ctx pc.toNat false))
        ∧ (e.ofs = 0 ∨ e.ofs = 1 → s.unbacked at_ = true ∨ s.homePoison at_ = true → bad 0x16 0)
        ∧ (e.ofs = 0 ∨ e.ofs = 1 → s.unbacked at_ = false → s.homePoison at_ = false →
            s.fetchWord g pc = (s, .word (BitVec.ofNat 64 (natOf (s.homeBytes e.key at_ 8)))))))
  ∧ (∀ p, s.turn = .fx p → (s.fx p).cur = none ∨ (s.fx p).wait ≠ .none ∨ (s.fx p).busy ≠ none ∨ s.fxHeld p = true → step s = .next s0)
  ∧ (∀ p k, s.turn = .fx p → (s.fx p).cur = some k → k.desc = none → (s.fx p).wait = .none → (s.fx p).busy = none → s.fxHeld p = false →
      (∀ s1 i, s0.fetchFx p k.slot (s.fx p).fpc = (s1, .ok (.ok i)) → step s = exec i { s1 with curFx := some p })
      ∧ (∀ s1 r, s0.fetchFx p k.slot (s.fx p).fpc = (s1, .ok (.error r)) → ∃ code, step s = .next (s1.fxFail p code 0 0)
        ∧ (r = .opcode → code = 0x01) ∧ (r = .operand → code = 0x02))
      ∧ (∀ s1 c d va, s0.fetchFx p k.slot (s.fx p).fpc = (s1, .error (.fault c d va)) →
        step s = .next (s1.fxFail p (BitVec.ofNat 8 c) d (BitVec.ofNat 64 va)))
      ∧ ∀ s1, s0.fetchFx p k.slot (s.fx p).fpc = (s1, .error .wait) → step s = .next s1)
  ∧ (∀ d ws w i, s.turn = .sieve d → (s.trc d).cur ≠ none → (s.trc d).prog = some ws → ws[(s.trc d).idx]? = some w → decodeSieve w = some i →
      step s = exec i { s0 with curDie := some d })
  ∧ (∀ i a, s.turn = .ev i a → step s = if isStep i = true then exec i { s0 with ev := a } else .next s0)
  ∧ (∀ n, s.turn = .sync n → ∃ t, step s = .next t ∧ t = { s0 with timeBase := t.timeBase } ∧ t.deviceNs = max s.deviceNs n)
  ∧ ∀ n, s.turn = .elapse n → (∀ y ∈ s.ecmds, y.2.fail = none) → (∀ y ∈ s.fxs, ∀ c d a, y.2.wait ≠ .ending c d a) → (∀ y ∈ s.grids, y.2.ended ≠ y.2.teamN) → ∃ t, step s = .next t ∧ t.now = s.now + n
    ∧ t.groups = s0.groups ∧ SameHome s t

/-- R68, R79: a step keeps memory, key tags and poison marks in canonical form: addresses strictly rise and nothing equal to what
an unlisted address holds is listed. -/
def Obligations.MemoryInvariant : Prop := ∀ s t : State, s.memWf = true → step s = .next t → t.memWf = true

/-- R7, R16, R439: after reset no memory is listed and its form is canonical, nothing runs, every unit is present, and the
control registers hold the reset values of their tables; a group starts with the CSR values of its table. Memory of zeros, and
the values of the registers that the manual gives none, are the model's choice (log 10). -/
def Obligations.ResetState : Prop :=
  State.reset.memWf = true ∧ (∀ k a, State.reset.homeByte 0 a = 0 ∧ State.reset.homePoison a = false ∧ State.reset.grp k = none)
  ∧ (∀ u, State.reset.present u = true) ∧ State.reset.boot.phase = .off
  ∧ (∀ d, d < 8 → State.reset.reg (mcAddr d 0) = 0x0000100000000003 ∧ State.reset.reg (trcAddr d 0) = 0)
  ∧ (∀ e, e < 32 → State.reset.reg (ceAddr e 0) = 1) ∧ (∀ p, p < 16 → State.reset.reg (fxAddr p 0) = 1)
  ∧ State.reset.reg ueDevIdAddr = 0xFFFF ∧ State.reset.reg rvSchedAddr = 4 ∧ State.reset.reg rvQtabAddr = 0
  ∧ (∀ k, k < 256 → State.reset.reg (trCfgAddr k) = 12 ∧ State.reset.reg (linkAddr k) = 0)
  ∧ (∀ n, n < 64 → State.reset.ctxEn n = false ∧ State.reset.jobEn n = false ∧ State.reset.trapEn n = false)
  ∧ State.reset.reg (bootAddr 0x100) = 0xA03 ∧ State.reset.reg (bootAddr 0x200) = 6000
  ∧ fld (State.reset.reg (bootAddr 0x208)) 47 32 = 850
  ∧ ∀ tid ctx gi role rank width budget slot core part entry vcur vpart lbase lsize t,
      let g := Group.placed tid ctx gi role rank width budget slot core part entry vcur vpart lbase lsize t
      g.lsc = 0x3F800000 ∧ g.lscn = 0 ∧ g.lsci = 0x7D0 ∧ g.gang = 0 ∧ g.cmdseq = 0 ∧ g.runs = 0 ∧ g.forced = 0 ∧ g.trdly = 0 ∧ g.hm = false
        ∧ g.pendq = [] ∧ (∃ sp, g.splits = [sp] ∧ sp.pc = entry ∧ sp.st = .ready ∧ ∀ l, l < 64 → sp.mask.getLsbD l = decide (l < width))

/-- R3, R79 to R81, R97: a byte written at home under a key is read back under that key; under the same key every other byte is as
it was; other bursts are as they were under every key; words that a write covers whole lose their poison, and no others. -/
def Claim.HomeMemory : Prop := ∀ (s : State) (key : Nat) (bs : List (Nat × Byte)),
  let t := s.homeWrite key bs
  ((bs.map Prod.fst).Nodup → ∀ p ∈ bs, t.homeByte key p.1 = p.2)
  ∧ (∀ a, a ∉ bs.map Prod.fst → t.homeByte key a = s.homeByte key a)
  ∧ (∀ k a, (∀ p ∈ bs, p.1 / 64 ≠ a / 64) → t.homeByte k a = s.homeByte k a)
  ∧ (∀ a, t.homePoison a = true ↔ s.homePoison a = true ∧ ∃ i, i < 32 ∧ 32 * (a / 32) + i ∉ bs.map Prod.fst)
  ∧ t = { s with
      mem := t.mem, burst := t.burst, poison := t.poison, stale := t.stale, ckpt := t.ckpt, wireOut := t.wireOut, ecmds := t.ecmds
      traffic := t.traffic, nextId := t.nextId }
  ∧ (∀ x : List Byte, bytesOf x.length (natOf x) = x) ∧ ∀ n v, natOf (bytesOf n v) = v % 256 ^ n

/-- R3, R79 to R81, R97, R115: what engines read and write, and memory at home under its key. The order of the checks of a page
(log 25) and that an engine's walk is made within its access (log 33) are the model's readings. So is that the bytes move in the
step of the access (log 3). -/
def Obligations.EngineMemory : Prop :=
  Claim.EngineAccesses ∧ Claim.Regulated ∧ Claim.HomeMemory
end

