-- ==== Sys2Proof/Laws/SMap.lean ====
section
/-! SUPPORT. Sparse maps: reading after writing, and that every operation keeps the canonical form. -/

namespace Sys2Proof

variable {α : Type}

-- ## Lookup

@[simp] theorem SMap.find?_nil (k : Nat) : SMap.find? ([] : SMap α) k = none := rfl
theorem SMap.find?_cons (a : Nat) (v : α) (m : SMap α) (k : Nat) :
    SMap.find? ((a, v) :: m) k = if a = k then some v else SMap.find? m k := rfl

theorem SMap.find?_insert (m : SMap α) (k k' : Nat) (v : α) :
    SMap.find? (SMap.insert m k v) k' = if k = k' then some v else SMap.find? m k' := by
  induction m with
  | nil => simp [SMap.insert, SMap.find?]
  | cons p m ih =>
    obtain ⟨a, w⟩ := p
    simp only [SMap.insert]
    split_ifs <;> (simp_all [SMap.find?]; try grind)

theorem SMap.find?_insert_self (m : SMap α) (k : Nat) (v : α) : SMap.find? (SMap.insert m k v) k = some v := by
  simp [SMap.find?_insert]
theorem SMap.find?_insert_ne (m : SMap α) {k k' : Nat} (h : k ≠ k') (v : α) :
    SMap.find? (SMap.insert m k v) k' = SMap.find? m k' := by
  simp [SMap.find?_insert, h]

theorem SMap.find?_adjust (m : SMap α) (k k' : Nat) (f : α → α) :
    SMap.find? (SMap.adjust m k f) k' = if k = k' then (SMap.find? m k).map f else SMap.find? m k' := by
  unfold SMap.adjust
  cases h : SMap.find? m k with
  | none => by_cases e : k = k' <;> simp_all
  | some v => simp [SMap.find?_insert]

theorem SMap.find?_mapV {β : Type} (m : SMap α) (f : α → β) (k : Nat) :
    SMap.find? (SMap.mapV m f) k = (SMap.find? m k).map f := by
  induction m with
  | nil => rfl
  | cons p m ih =>
    obtain ⟨a, w⟩ := p
    have e : SMap.mapV ((a, w) :: m) f = (a, f w) :: SMap.mapV m f := rfl
    rw [e, SMap.find?_cons, SMap.find?_cons, ih]
    split_ifs <;> rfl

/-- A key below every listed one is absent. -/
theorem SMap.find?_of_lt (m : SMap α) (k : Nat) (h : m.all (fun p => decide (k < p.1)) = true) :
    SMap.find? m k = none := by
  induction m with
  | nil => rfl
  | cons p m ih =>
    obtain ⟨a, w⟩ := p
    simp only [List.all_cons, Bool.and_eq_true, decide_eq_true_eq] at h
    rw [SMap.find?_cons, if_neg (by omega), ih h.2]

theorem SMap.find?_erase (m : SMap α) (k k' : Nat) :
    SMap.find? (SMap.erase m k) k' = if k = k' then none else SMap.find? m k' := by
  induction m with
  | nil => simp [SMap.erase]
  | cons p m ih =>
    obtain ⟨a, w⟩ := p
    have e0 : SMap.erase ((a, w) :: m) k = if a = k then SMap.erase m k else (a, w) :: SMap.erase m k := by
      unfold SMap.erase
      rw [List.filter_cons]
      by_cases e : a = k <;> simp [e]
    rw [e0, SMap.find?_cons]
    by_cases e : a = k
    · rw [if_pos e, ih]
      subst e
      by_cases e' : a = k'
      · rw [if_pos e', if_pos e']
      · rw [if_neg e', if_neg e', if_neg e']
    · rw [if_neg e, SMap.find?_cons, ih]
      by_cases e' : k = k'
      · subst e'; rw [if_neg e, if_pos rfl, if_pos rfl]
      · rw [if_neg e', if_neg e']

-- ## The canonical form

theorem SMap.all_insert (m : SMap α) (q : Nat × α → Bool) (k : Nat) (v : α) (hm : m.all q = true) (hv : q (k, v) = true) :
    (SMap.insert m k v).all q = true := by
  induction m with
  | nil => simpa [SMap.insert] using hv
  | cons p m ih =>
    obtain ⟨a, w⟩ := p
    simp only [List.all_cons, Bool.and_eq_true] at hm
    simp only [SMap.insert]
    split_ifs
    · simp only [List.all_cons, Bool.and_eq_true]; exact ⟨hv, hm⟩
    · simp only [List.all_cons, Bool.and_eq_true]; exact ⟨hv, hm.2⟩
    · simp only [List.all_cons, Bool.and_eq_true]; exact ⟨hm.1, ih hm.2⟩

theorem SMap.all_filter (m : SMap α) (q r : Nat × α → Bool) (hm : m.all q = true) : (m.filter r).all q = true :=
  List.all_eq_true.2 (fun x hx => List.all_eq_true.1 hm x (List.mem_of_mem_filter hx))

theorem SMap.sorted_insert (m : SMap α) (k : Nat) (v : α) (h : SMap.sorted m = true) :
    SMap.sorted (SMap.insert m k v) = true := by
  induction m with
  | nil => simp [SMap.insert, SMap.sorted]
  | cons p m ih =>
    obtain ⟨a, w⟩ := p
    have h' := h
    simp only [SMap.sorted, Bool.and_eq_true] at h
    simp only [SMap.insert]
    split_ifs with e e'
    · simp only [SMap.sorted, List.all_cons, Bool.and_eq_true, decide_eq_true_eq]
      refine ⟨⟨e, ?_⟩, h⟩
      refine List.all_eq_true.2 (fun x hx => ?_)
      have := List.all_eq_true.1 h.1 x hx
      simp only [decide_eq_true_eq] at this ⊢
      omega
    · subst e'
      simpa only [SMap.sorted, Bool.and_eq_true] using h
    · simp only [SMap.sorted, Bool.and_eq_true]
      exact ⟨SMap.all_insert m _ k v h.1 (by simp; omega), ih h.2⟩

theorem SMap.sorted_filter (m : SMap α) (q : Nat × α → Bool) (h : SMap.sorted m = true) :
    SMap.sorted (m.filter q) = true := by
  induction m with
  | nil => rfl
  | cons p m ih =>
    obtain ⟨a, w⟩ := p
    simp only [SMap.sorted, Bool.and_eq_true] at h
    rw [List.filter_cons]
    split_ifs
    · simp only [SMap.sorted, Bool.and_eq_true]
      refine ⟨List.all_eq_true.2 (fun x hx => ?_), ih h.2⟩
      exact List.all_eq_true.1 h.1 x (List.mem_of_mem_filter hx)
    · exact ih h.2

variable [DecidableEq α]

/-- An empty map is in canonical form. -/
@[simp] theorem SMap.wf_nil (d : α) : SMap.wf d ([] : SMap α) = true := rfl

/-- Writing keeps the canonical form. -/
theorem SMap.wf_set (d : α) (m : SMap α) (k : Nat) (v : α) (h : SMap.wf d m = true) :
    SMap.wf d (SMap.set d m k v) = true := by
  simp only [SMap.wf, Bool.and_eq_true] at h ⊢
  unfold SMap.set
  split_ifs with e
  · exact ⟨SMap.sorted_filter m _ h.1, SMap.all_filter m _ _ h.2⟩
  · exact ⟨SMap.sorted_insert m k v h.1, SMap.all_insert m _ k v h.2 (by simpa using e)⟩

/-- Keeping some entries keeps the canonical form. -/
theorem SMap.wf_keep (d : α) (m : SMap α) (q : Nat → α → Bool) (h : SMap.wf d m = true) :
    SMap.wf d (SMap.keep m q) = true := by
  simp only [SMap.wf, Bool.and_eq_true] at h ⊢
  refine ⟨SMap.sorted_filter m _ h.1, List.all_eq_true.2 (fun x hx => ?_)⟩
  exact List.all_eq_true.1 h.2 x (List.mem_of_mem_filter hx)

/-- A fold of writes keeps the canonical form. -/
theorem SMap.wf_foldl_set {β : Type} (d : α) (l : List β) (key : β → Nat) (val : β → α) (m : SMap α)
    (h : SMap.wf d m = true) : SMap.wf d (l.foldl (fun m x => SMap.set d m (key x) (val x)) m) = true := by
  induction l generalizing m with
  | nil => exact h
  | cons x l ih => exact ih _ (SMap.wf_set d m _ _ h)

/-- Reading after writing. -/
theorem SMap.get_set (d : α) (m : SMap α) (k k' : Nat) (v : α) :
    SMap.get d (SMap.set d m k v) k' = if k = k' then v else SMap.get d m k' := by
  unfold SMap.get SMap.set
  by_cases e : v = d <;> by_cases e' : k = k'
  · subst e'; simp [SMap.find?_erase, e]
  · simp [SMap.find?_erase, e, e']
  · subst e'; simp [SMap.find?_insert, e]
  · simp [SMap.find?_insert, e, e']
theorem SMap.get_set_self (d : α) (m : SMap α) (k : Nat) (v : α) : SMap.get d (SMap.set d m k v) k = v := by
  simp [SMap.get_set]
theorem SMap.get_set_ne (d : α) (m : SMap α) {k k' : Nat} (h : k ≠ k') (v : α) :
    SMap.get d (SMap.set d m k v) k' = SMap.get d m k' := by
  simp [SMap.get_set, h]

/-- Two canonical maps that read alike are equal. -/
theorem SMap.ext_get (d : α) (m n : SMap α) (hm : SMap.wf d m = true) (hn : SMap.wf d n = true)
    (h : ∀ k, SMap.get d m k = SMap.get d n k) : m = n := by
  induction m generalizing n with
  | nil =>
    cases n with
    | nil => rfl
    | cons q n =>
      obtain ⟨b, w⟩ := q
      have := h b
      simp [SMap.wf, SMap.sorted] at hn
      simp [SMap.get, SMap.find?] at this
      exact absurd this.symm hn.2.1
  | cons p m ih =>
    obtain ⟨a, v⟩ := p
    simp only [SMap.wf, SMap.sorted, List.all_cons, Bool.and_eq_true, decide_eq_true_eq] at hm
    cases n with
    | nil =>
      have := h a
      simp [SMap.get, SMap.find?] at this
      exact absurd this hm.2.1
    | cons q n =>
      obtain ⟨b, w⟩ := q
      simp only [SMap.wf, SMap.sorted, List.all_cons, Bool.and_eq_true, decide_eq_true_eq] at hn
      have hma := SMap.find?_of_lt m a hm.1.1
      have hnb := SMap.find?_of_lt n b hn.1.1
      rcases lt_trichotomy a b with lt | rfl | lt
      · have h1 := h a
        have : SMap.find? n a = none := SMap.find?_of_lt n a (by
          refine List.all_eq_true.2 (fun x hx => ?_)
          have := List.all_eq_true.1 hn.1.1 x hx
          simp only [decide_eq_true_eq] at this ⊢; omega)
        simp [SMap.get, SMap.find?, Nat.ne_of_gt lt, this] at h1
        exact absurd h1 hm.2.1
      · have h1 := h a
        simp [SMap.get, SMap.find?] at h1
        subst h1
        rw [ih n (by simp [SMap.wf, hm.1.2]; simpa using hm.2.2) (by simp [SMap.wf, hn.1.2]; simpa using hn.2.2) (fun k => ?_)]
        by_cases e : a = k
        · subst e; simp [SMap.get, hma, hnb]
        · simpa [SMap.get, SMap.find?, e] using h k
      · have h1 := h b
        have : SMap.find? m b = none := SMap.find?_of_lt m b (by
          refine List.all_eq_true.2 (fun x hx => ?_)
          have := List.all_eq_true.1 hm.1.1 x hx
          simp only [decide_eq_true_eq] at this ⊢; omega)
        simp [SMap.get, SMap.find?, Nat.ne_of_gt lt, this] at h1
        exact absurd h1.symm hn.2.1

end Sys2Proof
end

