-- ==== Sys2Proof/Laws/GroupRegs.lean ====
section
/-! SUPPORT. The registers of a group: reading after one write, and what a word that acts in lanes leaves (R29, R31, R33, R156,
R158, R164). -/

namespace Sys2Proof.Machine

-- ## One write

theorem getV_setV (g : Group) (n n' l l' : Nat) (x : W32) (hl : l < 64) (hl' : l' < 64) :
    (g.setV n l x).getV n' l' = if n = n' ∧ l = l' ∧ n ≠ 255 then x else g.getV n' l' := by
  unfold Group.setV Group.getV
  by_cases h : n = 255
  · simp [h]
  · rw [if_neg h]
    by_cases h' : n' = 255
    · rw [if_pos h', if_neg (fun hh => h (hh.1.trans h')), if_pos h']
    · rw [if_neg h', if_neg h']
      show SMap.get 0 (SMap.set 0 g.v (64 * n + l) x) (64 * n' + l') = _
      rw [SMap.get_set]
      by_cases e : 64 * n + l = 64 * n' + l'
      · have h1 : n = n' := by omega
        have h2 : l = l' := by omega
        rw [if_pos e, if_pos ⟨h1, h2, h⟩]
      · have h1 : ¬ (n = n' ∧ l = l') := by rintro ⟨rfl, rfl⟩; exact e rfl
        rw [if_neg e, if_neg (fun hh => h1 ⟨hh.1, hh.2.1⟩)]
@[simp] theorem getV_setS (g : Group) (n n' l' : Nat) (x : W64) : (g.setS n x).getV n' l' = g.getV n' l' := by
  unfold Group.setS; split <;> rfl
@[simp] theorem getV_setPm (g : Group) (n n' l' : Nat) (m : Lanes) : (g.setPm n m).getV n' l' = g.getV n' l' := by
  unfold Group.setPm; split <;> rfl
@[simp] theorem getV_setP (g : Group) (n l n' l' : Nat) (b : Bool) : (g.setP n l b).getV n' l' = g.getV n' l' :=
  getV_setPm _ _ _ _ _
@[simp] theorem getV_setD (g : Group) (n n' l' : Nat) (x : W128) : (g.setD n x).getV n' l' = g.getV n' l' := rfl
@[simp] theorem getV_orFlg (g : Group) (l n' l' : Nat) (f : Fl) : (g.orFlg l f).getV n' l' = g.getV n' l' := rfl

theorem getS_setS (g : Group) (n n' : Nat) (x : W64) :
    (g.setS n x).getS n' = if n = n' ∧ n ≠ 63 then x else g.getS n' := by
  unfold Group.setS Group.getS
  by_cases h : n = 63
  · simp [h]
  · by_cases h' : n' = 63
    · have : n ≠ n' := by omega
      simp [h', this]
    · by_cases e : n = n'
      · subst e; simp [h, SMap.get_set]
      · simp [h, h', e, SMap.get_set]
@[simp] theorem getS_setV (g : Group) (n l n' : Nat) (x : W32) : (g.setV n l x).getS n' = g.getS n' := by
  unfold Group.setV; split <;> rfl
@[simp] theorem getS_setPm (g : Group) (n n' : Nat) (m : Lanes) : (g.setPm n m).getS n' = g.getS n' := by
  unfold Group.setPm; split <;> rfl
@[simp] theorem getS_setP (g : Group) (n l n' : Nat) (b : Bool) : (g.setP n l b).getS n' = g.getS n' := getS_setPm _ _ _ _
@[simp] theorem getS_setD (g : Group) (n n' : Nat) (x : W128) : (g.setD n x).getS n' = g.getS n' := rfl
@[simp] theorem getS_orFlg (g : Group) (l n' : Nat) (f : Fl) : (g.orFlg l f).getS n' = g.getS n' := rfl

theorem getP_setPm (g : Group) (n n' : Nat) (m : Lanes) :
    (g.setPm n m).getP n' = if n = n' ∧ n ≠ 7 then m else g.getP n' := by
  unfold Group.setPm Group.getP
  by_cases h : n = 7
  · simp [h]
  · by_cases h' : n' = 7
    · have : n ≠ n' := by omega
      simp [h', this]
    · by_cases e : n = n'
      · subst e; simp [h, SMap.get_set]
      · simp [h, h', e, SMap.get_set]
@[simp] theorem getP_setV (g : Group) (n l n' : Nat) (x : W32) : (g.setV n l x).getP n' = g.getP n' := by
  unfold Group.setV; split <;> rfl
@[simp] theorem getP_setS (g : Group) (n n' : Nat) (x : W64) : (g.setS n x).getP n' = g.getP n' := by
  unfold Group.setS; split <;> rfl
@[simp] theorem getP_setD (g : Group) (n n' : Nat) (x : W128) : (g.setD n x).getP n' = g.getP n' := rfl
@[simp] theorem getP_orFlg (g : Group) (l n' : Nat) (f : Fl) : (g.orFlg l f).getP n' = g.getP n' := rfl

/-- One lane's bit of a mask. -/
theorem laneBit_getLsbD (l i : Nat) (hi : i < 64) : (laneBit l).getLsbD i = decide (l = i) := by
  unfold laneBit
  rw [BitVec.getLsbD_shiftLeft]
  by_cases h : i < l
  · have : l ≠ i := by omega
    simp [h, this]
  · by_cases e : l = i
    · subst e; simp [hi]
    · have : 1 ≤ i - l := by omega
      have h2 : (1#64).getLsbD (i - l) = false := by
        rw [BitVec.getLsbD_one]; simp; omega
      simp [h2, e]
/-- A predicate write, lane by lane. -/
theorem getP_setP (g : Group) (n l n' i : Nat) (b : Bool) (hi : i < 64) :
    ((g.setP n l b).getP n').getLsbD i = if n = n' ∧ l = i ∧ n ≠ 7 then b else (g.getP n').getLsbD i := by
  unfold Group.setP
  rw [getP_setPm]
  by_cases e : n = n' ∧ n ≠ 7
  · obtain ⟨rfl, h7⟩ := e
    rw [if_pos ⟨rfl, h7⟩]
    cases b
    · simp only [if_false, Bool.false_eq_true, BitVec.getLsbD_and, BitVec.getLsbD_not, laneBit_getLsbD _ _ hi, hi]
      by_cases h : l = i <;> simp [h, h7]
    · simp only [if_true, BitVec.getLsbD_or, laneBit_getLsbD _ _ hi]
      by_cases h : l = i <;> simp [h, h7]
  · rw [if_neg e, if_neg (fun hh => e ⟨hh.1, hh.2.2⟩)]

theorem getD_setD (g : Group) (n n' : Nat) (x : W128) : (g.setD n x).getD n' = if n = n' then x else g.getD n' := by
  unfold Group.setD Group.getD; simp [SMap.get_set]
@[simp] theorem getD_setV (g : Group) (n l n' : Nat) (x : W32) : (g.setV n l x).getD n' = g.getD n' := by
  unfold Group.setV; split <;> rfl
@[simp] theorem getD_setS (g : Group) (n n' : Nat) (x : W64) : (g.setS n x).getD n' = g.getD n' := by
  unfold Group.setS; split <;> rfl
@[simp] theorem getD_setPm (g : Group) (n n' : Nat) (m : Lanes) : (g.setPm n m).getD n' = g.getD n' := by
  unfold Group.setPm; split <;> rfl
@[simp] theorem getD_setP (g : Group) (n l n' : Nat) (b : Bool) : (g.setP n l b).getD n' = g.getD n' := getD_setPm _ _ _ _
@[simp] theorem getD_orFlg (g : Group) (l n' : Nat) (f : Fl) : (g.orFlg l f).getD n' = g.getD n' := rfl

theorem getFlg_orFlg (g : Group) (l l' : Nat) (f : Fl) :
    (g.orFlg l f).getFlg l' = if l = l' then g.getFlg l ||| f else g.getFlg l' := by
  unfold Group.orFlg Group.getFlg; simp [SMap.get_set]
@[simp] theorem getFlg_setV (g : Group) (n l l' : Nat) (x : W32) : (g.setV n l x).getFlg l' = g.getFlg l' := by
  unfold Group.setV; split <;> rfl
@[simp] theorem getFlg_setS (g : Group) (n l' : Nat) (x : W64) : (g.setS n x).getFlg l' = g.getFlg l' := by
  unfold Group.setS; split <;> rfl
@[simp] theorem getFlg_setPm (g : Group) (n l' : Nat) (m : Lanes) : (g.setPm n m).getFlg l' = g.getFlg l' := by
  unfold Group.setPm; split <;> rfl
@[simp] theorem getFlg_setP (g : Group) (n l l' : Nat) (b : Bool) : (g.setP n l b).getFlg l' = g.getFlg l' :=
  getFlg_setPm _ _ _ _
@[simp] theorem getFlg_setD (g : Group) (n l' : Nat) (x : W128) : (g.setD n x).getFlg l' = g.getFlg l' := rfl

-- ## Lists of writes

@[simp] theorem writes_nil (g : Group) : g.writes [] = g := rfl
@[simp] theorem writes_cons (g : Group) (w : RegWrite) (ws : List RegWrite) : g.writes (w :: ws) = (g.write w).writes ws := rfl
theorem writes_append (g : Group) (a b : List RegWrite) : g.writes (a ++ b) = (g.writes a).writes b := by
  unfold Group.writes; exact List.foldl_append ..

/-- A write belongs to a lane: a vector, predicate or flag write of that lane. -/
def RegWrite.inLane (l : Nat) : RegWrite → Prop
  | .v _ i _ => i = l
  | .p _ i _ => i = l
  | .flg i _ => i = l
  | .s _ _ => False
  | .d _ _ => False

theorem getV_writes_other (ws : List RegWrite) (g : Group) (i n l : Nat) (hi : i < 64) (hl : l < 64) (h : i ≠ l)
    (hw : ∀ w ∈ ws, w.inLane i) : (g.writes ws).getV n l = g.getV n l := by
  induction ws generalizing g with
  | nil => rfl
  | cons w ws ih =>
    rw [writes_cons, ih _ (fun x hx => hw x (List.mem_cons_of_mem _ hx))]
    have := hw w List.mem_cons_self
    cases w with
    | v r j x =>
      simp only [RegWrite.inLane] at this
      subst this
      simp only [Group.write]
      rw [getV_setV _ _ _ _ _ _ hi hl, if_neg (fun hh => h hh.2.1)]
    | p r j x => simp [Group.write]
    | flg j x => simp [Group.write]
    | s r x => exact this.elim
    | d r x => exact this.elim
theorem getP_writes_other (ws : List RegWrite) (g : Group) (i n l : Nat) (hl : l < 64) (h : i ≠ l)
    (hw : ∀ w ∈ ws, w.inLane i) : ((g.writes ws).getP n).getLsbD l = (g.getP n).getLsbD l := by
  induction ws generalizing g with
  | nil => rfl
  | cons w ws ih =>
    rw [writes_cons, ih _ (fun x hx => hw x (List.mem_cons_of_mem _ hx))]
    have := hw w List.mem_cons_self
    cases w with
    | v r j x => simp [Group.write]
    | p r j x =>
      simp only [RegWrite.inLane] at this
      subst this
      simp only [Group.write]
      rw [getP_setP _ _ _ _ _ _ hl, if_neg (fun hh => h hh.2.1)]
    | flg j x => simp [Group.write]
    | s r x => exact this.elim
    | d r x => exact this.elim
theorem getFlg_writes_other (ws : List RegWrite) (g : Group) (i l : Nat) (h : i ≠ l)
    (hw : ∀ w ∈ ws, w.inLane i) : (g.writes ws).getFlg l = g.getFlg l := by
  induction ws generalizing g with
  | nil => rfl
  | cons w ws ih =>
    rw [writes_cons, ih _ (fun x hx => hw x (List.mem_cons_of_mem _ hx))]
    have := hw w List.mem_cons_self
    cases w with
    | v r j x => simp [Group.write]
    | p r j x => simp [Group.write]
    | flg j x =>
      simp only [RegWrite.inLane] at this
      subst this
      simp only [Group.write]
      rw [getFlg_orFlg, if_neg h]
    | s r x => exact this.elim
    | d r x => exact this.elim
theorem getS_writes_lane (ws : List RegWrite) (g : Group) (n : Nat) (hw : ∀ w ∈ ws, ∃ l, w.inLane l) :
    (g.writes ws).getS n = g.getS n := by
  induction ws generalizing g with
  | nil => rfl
  | cons w ws ih =>
    rw [writes_cons, ih _ (fun x hx => hw x (List.mem_cons_of_mem _ hx))]
    obtain ⟨l, this⟩ := hw w List.mem_cons_self
    cases w with
    | s r x => exact this.elim
    | d r x => exact this.elim
    | _ => simp [Group.write]
theorem getD_writes_lane (ws : List RegWrite) (g : Group) (n : Nat) (hw : ∀ w ∈ ws, ∃ l, w.inLane l) :
    (g.writes ws).getD n = g.getD n := by
  induction ws generalizing g with
  | nil => rfl
  | cons w ws ih =>
    rw [writes_cons, ih _ (fun x hx => hw x (List.mem_cons_of_mem _ hx))]
    obtain ⟨l, this⟩ := hw w List.mem_cons_self
    cases w with
    | s r x => exact this.elim
    | d r x => exact this.elim
    | _ => simp [Group.write]

/-- What a lane's own writes do to a vector register depends on that register alone. -/
theorem getV_writes_congr (ws : List RegWrite) (g g' : Group) (i n : Nat) (hi : i < 64) (h : g.getV n i = g'.getV n i)
    (hw : ∀ w ∈ ws, w.inLane i) : (g.writes ws).getV n i = (g'.writes ws).getV n i := by
  induction ws generalizing g g' with
  | nil => exact h
  | cons w ws ih =>
    rw [writes_cons, writes_cons]
    apply ih _ _ _ (fun x hx => hw x (List.mem_cons_of_mem _ hx))
    have := hw w List.mem_cons_self
    cases w with
    | v r j x =>
      simp only [RegWrite.inLane] at this
      subst this
      simp only [Group.write]
      rw [getV_setV _ _ _ _ _ _ hi hi, getV_setV _ _ _ _ _ _ hi hi, h]
    | p r j x => simpa [Group.write] using h
    | flg j x => simpa [Group.write] using h
    | s r x => exact this.elim
    | d r x => exact this.elim
theorem getP_writes_congr (ws : List RegWrite) (g g' : Group) (i n : Nat) (hi : i < 64)
    (h : (g.getP n).getLsbD i = (g'.getP n).getLsbD i)
    (hw : ∀ w ∈ ws, w.inLane i) : ((g.writes ws).getP n).getLsbD i = ((g'.writes ws).getP n).getLsbD i := by
  induction ws generalizing g g' with
  | nil => exact h
  | cons w ws ih =>
    rw [writes_cons, writes_cons]
    apply ih _ _ _ (fun x hx => hw x (List.mem_cons_of_mem _ hx))
    have := hw w List.mem_cons_self
    cases w with
    | v r j x => simpa [Group.write] using h
    | p r j x =>
      simp only [RegWrite.inLane] at this
      subst this
      simp only [Group.write]
      rw [getP_setP _ _ _ _ _ _ hi, getP_setP _ _ _ _ _ _ hi, h]
    | flg j x => simpa [Group.write] using h
    | s r x => exact this.elim
    | d r x => exact this.elim
theorem getFlg_writes_congr (ws : List RegWrite) (g g' : Group) (i : Nat) (h : g.getFlg i = g'.getFlg i)
    (hw : ∀ w ∈ ws, w.inLane i) : (g.writes ws).getFlg i = (g'.writes ws).getFlg i := by
  induction ws generalizing g g' with
  | nil => exact h
  | cons w ws ih =>
    rw [writes_cons, writes_cons]
    apply ih _ _ _ (fun x hx => hw x (List.mem_cons_of_mem _ hx))
    have := hw w List.mem_cons_self
    cases w with
    | v r j x => simpa [Group.write] using h
    | p r j x => simpa [Group.write] using h
    | flg j x =>
      simp only [RegWrite.inLane] at this
      subst this
      simp only [Group.write]
      rw [getFlg_orFlg, getFlg_orFlg, h]
    | s r x => exact this.elim
    | d r x => exact this.elim

-- ## A word that acts in lanes

theorem mem_laneList (m : Lanes) (l : Nat) : l ∈ laneList m ↔ l < 64 ∧ m.getLsbD l = true := by
  simp [laneList]
theorem laneList_nodup (m : Lanes) : (laneList m).Nodup := List.Nodup.filter _ List.nodup_range

/-- A property of one lane after the writes of a list of lanes, `F i` being lane i's. -/
theorem getV_writes_lanes (ls : List Nat) (F : Nat → List RegWrite) (g : Group) (n l : Nat) (hl : l < 64)
    (hd : ls.Nodup) (hb : ∀ i ∈ ls, i < 64) (hF : ∀ i, ∀ w ∈ F i, w.inLane i) :
    (g.writes (ls.flatMap F)).getV n l = if l ∈ ls then (g.writes (F l)).getV n l else g.getV n l := by
  induction ls generalizing g with
  | nil => simp
  | cons i ls ih =>
    have hd' := List.nodup_cons.1 hd
    rw [List.flatMap_cons, writes_append, ih _ hd'.2 (fun j hj => hb j (List.mem_cons_of_mem _ hj))]
    by_cases e : i = l
    · subst e
      rw [if_neg hd'.1, if_pos List.mem_cons_self]
    · have hi := hb i List.mem_cons_self
      have h1 := getV_writes_other (F i) g i n l hi hl e (hF i)
      by_cases m : l ∈ ls
      · rw [if_pos m, if_pos (List.mem_cons_of_mem _ m)]
        exact getV_writes_congr _ _ _ _ _ hl h1 (hF l)
      · rw [if_neg m, if_neg (by simp [m, Ne.symm e]), h1]
theorem getP_writes_lanes (ls : List Nat) (F : Nat → List RegWrite) (g : Group) (n l : Nat) (hl : l < 64)
    (hd : ls.Nodup) (hF : ∀ i, ∀ w ∈ F i, w.inLane i) :
    ((g.writes (ls.flatMap F)).getP n).getLsbD l
      = if l ∈ ls then ((g.writes (F l)).getP n).getLsbD l else (g.getP n).getLsbD l := by
  induction ls generalizing g with
  | nil => simp
  | cons i ls ih =>
    have hd' := List.nodup_cons.1 hd
    rw [List.flatMap_cons, writes_append, ih _ hd'.2]
    by_cases e : i = l
    · subst e
      rw [if_neg hd'.1, if_pos List.mem_cons_self]
    · have h1 := getP_writes_other (F i) g i n l hl e (hF i)
      by_cases m : l ∈ ls
      · rw [if_pos m, if_pos (List.mem_cons_of_mem _ m)]
        exact getP_writes_congr _ _ _ _ _ hl h1 (hF l)
      · rw [if_neg m, if_neg (by simp [m, Ne.symm e]), h1]
theorem getFlg_writes_lanes (ls : List Nat) (F : Nat → List RegWrite) (g : Group) (l : Nat)
    (hd : ls.Nodup) (hF : ∀ i, ∀ w ∈ F i, w.inLane i) :
    (g.writes (ls.flatMap F)).getFlg l = if l ∈ ls then (g.writes (F l)).getFlg l else g.getFlg l := by
  induction ls generalizing g with
  | nil => simp
  | cons i ls ih =>
    have hd' := List.nodup_cons.1 hd
    rw [List.flatMap_cons, writes_append, ih _ hd'.2]
    by_cases e : i = l
    · subst e
      rw [if_neg hd'.1, if_pos List.mem_cons_self]
    · have h1 := getFlg_writes_other (F i) g i l e (hF i)
      by_cases m : l ∈ ls
      · rw [if_pos m, if_pos (List.mem_cons_of_mem _ m)]
        exact getFlg_writes_congr _ _ _ _ h1 (hF l)
      · rw [if_neg m, if_neg (by simp [m, Ne.symm e]), h1]

end Sys2Proof.Machine
end

