-- ==== Sys2Proof/Laws/Integers.lean ====
section
/-! SUPPORT. Integer reading and writing, `rd` and `wr` of R185, against the arithmetic of words. -/

namespace Sys2Proof.Machine

/-- A value read under a type is the operand modulo 2^w. -/
theorem rdI_modEq (t : ITy) (x : W64) : rdI t x ≡ (x.toNat : Int) [ZMOD (2 ^ t.bits : Nat)] := by
  have key : ∀ n : Nat, 0 < n → sextN x.toNat n ≡ (x.toNat : Int) [ZMOD (2 ^ n : Nat)] := by
    intro n hn
    unfold sextN
    rw [if_neg (by omega)]
    have h1 : (Int.ofNat (x.toNat % 2 ^ n)) ≡ (x.toNat : Int) [ZMOD (2 ^ n : Nat)] := by
      have : (Int.ofNat (x.toNat % 2 ^ n)) = (x.toNat : Int) % ((2 ^ n : Nat) : Int) := by push_cast; rfl
      rw [this]; exact Int.mod_modEq _ _
    split
    · exact h1
    · refine Int.ModEq.trans ?_ h1
      have h2 : (Int.ofNat (2 ^ n)) ≡ 0 [ZMOD (2 ^ n : Nat)] := Int.modEq_zero_iff_dvd.2 (dvd_refl _)
      simpa using Int.ModEq.sub (Int.ModEq.refl (Int.ofNat (x.toNat % 2 ^ n))) h2
  unfold rdI
  split
  · exact key t.bits (by cases t <;> decide)
  · have : (Int.ofNat (x.toNat % 2 ^ t.bits)) = (x.toNat : Int) % ((2 ^ t.bits : Nat) : Int) := by push_cast; rfl
    rw [this]; exact Int.mod_modEq _ _

/-- What is written depends on the value modulo 2^w. -/
theorem wrI_congr (t : ITy) {v w : Int} (h : v ≡ w [ZMOD (2 ^ t.bits : Nat)]) : wrI t v = wrI t w := by
  have : v % ((2 ^ t.bits : Nat) : Int) = w % ((2 ^ t.bits : Nat) : Int) := h
  unfold wrI wrapN
  have e : ∀ u : Int, u.emod (Int.ofNat (2 ^ t.bits)) = u % ((2 ^ t.bits : Nat) : Int) := fun _ => rfl
  rw [e, e, this]

/-- A natural number written and read back as a word. -/
theorem wrI_nat (t : ITy) (n : Nat) : (wrI t n).setWidth 32 = (BitVec.ofNat 64 n).setWidth 32 ∧ (t.wide = true → wrI t n = BitVec.ofNat 64 n) := by
  have e : wrapN (n : Int) t.bits = n % 2 ^ t.bits := by
    unfold wrapN
    have : (n : Int).emod (Int.ofNat (2 ^ t.bits)) = ((n % 2 ^ t.bits : Nat) : Int) := by push_cast; rfl
    rw [this]; rfl
  unfold wrI
  rw [e]
  constructor
  · apply BitVec.eq_of_toNat_eq
    cases t <;> simp [ITy.bits, ITy.wide]
  · intro h
    apply BitVec.eq_of_toNat_eq
    cases t <;> simp_all [ITy.bits, ITy.wide]
/-- An integer congruent to a word's value is written as that word. -/
theorem wrI_of_modEq (t : ITy) (v : Int) (x : W64) (h : v ≡ (x.toNat : Int) [ZMOD (2 ^ t.bits : Nat)]) :
    (wrI t v).setWidth 32 = x.setWidth 32 ∧ (t.wide = true → wrI t v = x) := by
  rw [wrI_congr t h]
  have := wrI_nat t x.toNat
  simpa using this
theorem modEq_of_word (t : ITy) {v : Int} {n : Nat} {x : W64} (h : v ≡ (n : Int) [ZMOD (2 ^ t.bits : Nat)])
    (hx : x.toNat = n % 2 ^ 64) : v ≡ (x.toNat : Int) [ZMOD (2 ^ t.bits : Nat)] := by
  refine h.trans ?_
  rw [hx]
  have hd : ((2 ^ t.bits : Nat) : Int) ∣ ((2 ^ 64 : Nat) : Int) := by cases t <;> decide
  have : ((n % 2 ^ 64 : Nat) : Int) = (n : Int) % ((2 ^ 64 : Nat) : Int) := by push_cast; rfl
  rw [this]
  exact ((Int.mod_modEq (n : Int) ((2 ^ 64 : Nat) : Int)).of_dvd hd).symm

end Sys2Proof.Machine
end

