-- ==== Sys2Proof/Laws/State.lean ====
section
/-! SUPPORT. What each update of the state leaves alone: one lemma per field per update. -/

namespace Sys2Proof.Machine

-- ## `setReg`

@[simp] theorem State.setReg_tick (s : State) (a : Nat) (v : W64) : (s.setReg a v).tick = s.tick := rfl
@[simp] theorem State.setReg_agenda (s : State) (a : Nat) (v : W64) : (s.setReg a v).agenda = s.agenda := rfl
@[simp] theorem State.setReg_ev (s : State) (a : Nat) (v : W64) : (s.setReg a v).ev = s.ev := rfl
@[simp] theorem State.setReg_cur (s : State) (a : Nat) (v : W64) : (s.setReg a v).cur = s.cur := rfl
@[simp] theorem State.setReg_curFx (s : State) (a : Nat) (v : W64) : (s.setReg a v).curFx = s.curFx := rfl
@[simp] theorem State.setReg_curDie (s : State) (a : Nat) (v : W64) : (s.setReg a v).curDie = s.curDie := rfl
@[simp] theorem State.setReg_nextId (s : State) (a : Nat) (v : W64) : (s.setReg a v).nextId = s.nextId := rfl
@[simp] theorem State.setReg_now (s : State) (a : Nat) (v : W64) : (s.setReg a v).now = s.now := rfl
@[simp] theorem State.setReg_timeBase (s : State) (a : Nat) (v : W64) : (s.setReg a v).timeBase = s.timeBase := rfl
@[simp] theorem State.setReg_mem (s : State) (a : Nat) (v : W64) : (s.setReg a v).mem = s.mem := rfl
@[simp] theorem State.setReg_burst (s : State) (a : Nat) (v : W64) : (s.setReg a v).burst = s.burst := rfl
@[simp] theorem State.setReg_poison (s : State) (a : Nat) (v : W64) : (s.setReg a v).poison = s.poison := rfl
@[simp] theorem State.setReg_stale (s : State) (a : Nat) (v : W64) : (s.setReg a v).stale = s.stale := rfl
@[simp] theorem State.setReg_keySlots (s : State) (a : Nat) (v : W64) : (s.setReg a v).keySlots = s.keySlots := rfl
@[simp] theorem State.setReg_keyLoad (s : State) (a : Nat) (v : W64) : (s.setReg a v).keyLoad = s.keyLoad := rfl
@[simp] theorem State.setReg_removedPch (s : State) (a : Nat) (v : W64) : (s.setReg a v).removedPch = s.removedPch := rfl
@[simp] theorem State.setReg_retiredRows (s : State) (a : Nat) (v : W64) : (s.setReg a v).retiredRows = s.retiredRows := rfl
@[simp] theorem State.setReg_removedUnits (s : State) (a : Nat) (v : W64) : (s.setReg a v).removedUnits = s.removedUnits := rfl
@[simp] theorem State.setReg_cores (s : State) (a : Nat) (v : W64) : (s.setReg a v).cores = s.cores := rfl
@[simp] theorem State.setReg_clusters (s : State) (a : Nat) (v : W64) : (s.setReg a v).clusters = s.clusters := rfl
@[simp] theorem State.setReg_slices (s : State) (a : Nat) (v : W64) : (s.setReg a v).slices = s.slices := rfl
@[simp] theorem State.setReg_engTlb (s : State) (a : Nat) (v : W64) : (s.setReg a v).engTlb = s.engTlb := rfl
@[simp] theorem State.setReg_walks (s : State) (a : Nat) (v : W64) : (s.setReg a v).walks = s.walks := rfl
@[simp] theorem State.setReg_invq (s : State) (a : Nat) (v : W64) : (s.setReg a v).invq = s.invq := rfl
@[simp] theorem State.setReg_invHeld (s : State) (a : Nat) (v : W64) : (s.setReg a v).invHeld = s.invHeld := rfl
@[simp] theorem State.setReg_buckets (s : State) (a : Nat) (v : W64) : (s.setReg a v).buckets = s.buckets := rfl
@[simp] theorem State.setReg_traffic (s : State) (a : Nat) (v : W64) : (s.setReg a v).traffic = s.traffic := rfl
@[simp] theorem State.setReg_posts (s : State) (a : Nat) (v : W64) : (s.setReg a v).posts = s.posts := rfl
@[simp] theorem State.setReg_pchs (s : State) (a : Nat) (v : W64) : (s.setReg a v).pchs = s.pchs := rfl
@[simp] theorem State.setReg_hotWant (s : State) (a : Nat) (v : W64) : (s.setReg a v).hotWant = s.hotWant := rfl
@[simp] theorem State.setReg_groups (s : State) (a : Nat) (v : W64) : (s.setReg a v).groups = s.groups := rfl
@[simp] theorem State.setReg_teams (s : State) (a : Nat) (v : W64) : (s.setReg a v).teams = s.teams := rfl
@[simp] theorem State.setReg_grids (s : State) (a : Nat) (v : W64) : (s.setReg a v).grids = s.grids := rfl
@[simp] theorem State.setReg_parts (s : State) (a : Nat) (v : W64) : (s.setReg a v).parts = s.parts := rfl
@[simp] theorem State.setReg_saved (s : State) (a : Nat) (v : W64) : (s.setReg a v).saved = s.saved := rfl
@[simp] theorem State.setReg_gridNum (s : State) (a : Nat) (v : W64) : (s.setReg a v).gridNum = s.gridNum := rfl
@[simp] theorem State.setReg_susp (s : State) (a : Nat) (v : W64) : (s.setReg a v).susp = s.susp := rfl
@[simp] theorem State.setReg_endings (s : State) (a : Nat) (v : W64) : (s.setReg a v).endings = s.endings := rfl
@[simp] theorem State.setReg_engines (s : State) (a : Nat) (v : W64) : (s.setReg a v).engines = s.engines := rfl
@[simp] theorem State.setReg_ecmds (s : State) (a : Nat) (v : W64) : (s.setReg a v).ecmds = s.ecmds := rfl
@[simp] theorem State.setReg_remotes (s : State) (a : Nat) (v : W64) : (s.setReg a v).remotes = s.remotes := rfl
@[simp] theorem State.setReg_wireOut (s : State) (a : Nat) (v : W64) : (s.setReg a v).wireOut = s.wireOut := rfl
@[simp] theorem State.setReg_replies (s : State) (a : Nat) (v : W64) : (s.setReg a v).replies = s.replies := rfl
@[simp] theorem State.setReg_mcmds (s : State) (a : Nat) (v : W64) : (s.setReg a v).mcmds = s.mcmds := rfl
@[simp] theorem State.setReg_fxs (s : State) (a : Nat) (v : W64) : (s.setReg a v).fxs = s.fxs := rfl
@[simp] theorem State.setReg_fxWires (s : State) (a : Nat) (v : W64) : (s.setReg a v).fxWires = s.fxWires := rfl
@[simp] theorem State.setReg_phasers (s : State) (a : Nat) (v : W64) : (s.setReg a v).phasers = s.phasers := rfl
@[simp] theorem State.setReg_phMsgs (s : State) (a : Nat) (v : W64) : (s.setReg a v).phMsgs = s.phMsgs := rfl
@[simp] theorem State.setReg_fallow (s : State) (a : Nat) (v : W64) : (s.setReg a v).fallow = s.fallow := rfl
@[simp] theorem State.setReg_graces (s : State) (a : Nat) (v : W64) : (s.setReg a v).graces = s.graces := rfl
@[simp] theorem State.setReg_queues (s : State) (a : Nat) (v : W64) : (s.setReg a v).queues = s.queues := rfl
@[simp] theorem State.setReg_suspends (s : State) (a : Nat) (v : W64) : (s.setReg a v).suspends = s.suspends := rfl
@[simp] theorem State.setReg_troughs (s : State) (a : Nat) (v : W64) : (s.setReg a v).troughs = s.troughs := rfl
@[simp] theorem State.setReg_graphs (s : State) (a : Nat) (v : W64) : (s.setReg a v).graphs = s.graphs := rfl
@[simp] theorem State.setReg_events (s : State) (a : Nat) (v : W64) : (s.setReg a v).events = s.events := rfl
@[simp] theorem State.setReg_ctxGen (s : State) (a : Nat) (v : W64) : (s.setReg a v).ctxGen = s.ctxGen := rfl
@[simp] theorem State.setReg_preemptAt (s : State) (a : Nat) (v : W64) : (s.setReg a v).preemptAt = s.preemptAt := rfl
@[simp] theorem State.setReg_preempts (s : State) (a : Nat) (v : W64) : (s.setReg a v).preempts = s.preempts := rfl
@[simp] theorem State.setReg_ended (s : State) (a : Nat) (v : W64) : (s.setReg a v).ended = s.ended := rfl
@[simp] theorem State.setReg_tbufs (s : State) (a : Nat) (v : W64) : (s.setReg a v).tbufs = s.tbufs := rfl
@[simp] theorem State.setReg_traces (s : State) (a : Nat) (v : W64) : (s.setReg a v).traces = s.traces := rfl
@[simp] theorem State.setReg_trial (s : State) (a : Nat) (v : W64) : (s.setReg a v).trial = s.trial := rfl
@[simp] theorem State.setReg_stops (s : State) (a : Nat) (v : W64) : (s.setReg a v).stops = s.stops := rfl
@[simp] theorem State.setReg_boot (s : State) (a : Nat) (v : W64) : (s.setReg a v).boot = s.boot := rfl
@[simp] theorem State.setReg_ckpt (s : State) (a : Nat) (v : W64) : (s.setReg a v).ckpt = s.ckpt := rfl
@[simp] theorem State.setReg_ckptWait (s : State) (a : Nat) (v : W64) : (s.setReg a v).ckptWait = s.ckptWait := rfl
@[simp] theorem State.setReg_ras (s : State) (a : Nat) (v : W64) : (s.setReg a v).ras = s.ras := rfl
@[simp] theorem State.setReg_power (s : State) (a : Nat) (v : W64) : (s.setReg a v).power = s.power := rfl

-- ## `setRegFld`

@[simp] theorem State.setRegFld_tick (s : State) (a hi lo x : Nat) : (s.setRegFld a hi lo x).tick = s.tick := rfl
@[simp] theorem State.setRegFld_agenda (s : State) (a hi lo x : Nat) : (s.setRegFld a hi lo x).agenda = s.agenda := rfl
@[simp] theorem State.setRegFld_ev (s : State) (a hi lo x : Nat) : (s.setRegFld a hi lo x).ev = s.ev := rfl
@[simp] theorem State.setRegFld_cur (s : State) (a hi lo x : Nat) : (s.setRegFld a hi lo x).cur = s.cur := rfl
@[simp] theorem State.setRegFld_curFx (s : State) (a hi lo x : Nat) : (s.setRegFld a hi lo x).curFx = s.curFx := rfl
@[simp] theorem State.setRegFld_curDie (s : State) (a hi lo x : Nat) : (s.setRegFld a hi lo x).curDie = s.curDie := rfl
@[simp] theorem State.setRegFld_nextId (s : State) (a hi lo x : Nat) : (s.setRegFld a hi lo x).nextId = s.nextId := rfl
@[simp] theorem State.setRegFld_now (s : State) (a hi lo x : Nat) : (s.setRegFld a hi lo x).now = s.now := rfl
@[simp] theorem State.setRegFld_timeBase (s : State) (a hi lo x : Nat) : (s.setRegFld a hi lo x).timeBase = s.timeBase := rfl
@[simp] theorem State.setRegFld_mem (s : State) (a hi lo x : Nat) : (s.setRegFld a hi lo x).mem = s.mem := rfl
@[simp] theorem State.setRegFld_burst (s : State) (a hi lo x : Nat) : (s.setRegFld a hi lo x).burst = s.burst := rfl
@[simp] theorem State.setRegFld_poison (s : State) (a hi lo x : Nat) : (s.setRegFld a hi lo x).poison = s.poison := rfl
@[simp] theorem State.setRegFld_stale (s : State) (a hi lo x : Nat) : (s.setRegFld a hi lo x).stale = s.stale := rfl
@[simp] theorem State.setRegFld_keySlots (s : State) (a hi lo x : Nat) : (s.setRegFld a hi lo x).keySlots = s.keySlots := rfl
@[simp] theorem State.setRegFld_keyLoad (s : State) (a hi lo x : Nat) : (s.setRegFld a hi lo x).keyLoad = s.keyLoad := rfl
@[simp] theorem State.setRegFld_removedPch (s : State) (a hi lo x : Nat) : (s.setRegFld a hi lo x).removedPch = s.removedPch := rfl
@[simp] theorem State.setRegFld_retiredRows (s : State) (a hi lo x : Nat) : (s.setRegFld a hi lo x).retiredRows = s.retiredRows := rfl
@[simp] theorem State.setRegFld_removedUnits (s : State) (a hi lo x : Nat) : (s.setRegFld a hi lo x).removedUnits = s.removedUnits := rfl
@[simp] theorem State.setRegFld_cores (s : State) (a hi lo x : Nat) : (s.setRegFld a hi lo x).cores = s.cores := rfl
@[simp] theorem State.setRegFld_clusters (s : State) (a hi lo x : Nat) : (s.setRegFld a hi lo x).clusters = s.clusters := rfl
@[simp] theorem State.setRegFld_slices (s : State) (a hi lo x : Nat) : (s.setRegFld a hi lo x).slices = s.slices := rfl
@[simp] theorem State.setRegFld_engTlb (s : State) (a hi lo x : Nat) : (s.setRegFld a hi lo x).engTlb = s.engTlb := rfl
@[simp] theorem State.setRegFld_walks (s : State) (a hi lo x : Nat) : (s.setRegFld a hi lo x).walks = s.walks := rfl
@[simp] theorem State.setRegFld_invq (s : State) (a hi lo x : Nat) : (s.setRegFld a hi lo x).invq = s.invq := rfl
@[simp] theorem State.setRegFld_invHeld (s : State) (a hi lo x : Nat) : (s.setRegFld a hi lo x).invHeld = s.invHeld := rfl
@[simp] theorem State.setRegFld_buckets (s : State) (a hi lo x : Nat) : (s.setRegFld a hi lo x).buckets = s.buckets := rfl
@[simp] theorem State.setRegFld_traffic (s : State) (a hi lo x : Nat) : (s.setRegFld a hi lo x).traffic = s.traffic := rfl
@[simp] theorem State.setRegFld_posts (s : State) (a hi lo x : Nat) : (s.setRegFld a hi lo x).posts = s.posts := rfl
@[simp] theorem State.setRegFld_pchs (s : State) (a hi lo x : Nat) : (s.setRegFld a hi lo x).pchs = s.pchs := rfl
@[simp] theorem State.setRegFld_hotWant (s : State) (a hi lo x : Nat) : (s.setRegFld a hi lo x).hotWant = s.hotWant := rfl
@[simp] theorem State.setRegFld_groups (s : State) (a hi lo x : Nat) : (s.setRegFld a hi lo x).groups = s.groups := rfl
@[simp] theorem State.setRegFld_teams (s : State) (a hi lo x : Nat) : (s.setRegFld a hi lo x).teams = s.teams := rfl
@[simp] theorem State.setRegFld_grids (s : State) (a hi lo x : Nat) : (s.setRegFld a hi lo x).grids = s.grids := rfl
@[simp] theorem State.setRegFld_parts (s : State) (a hi lo x : Nat) : (s.setRegFld a hi lo x).parts = s.parts := rfl
@[simp] theorem State.setRegFld_saved (s : State) (a hi lo x : Nat) : (s.setRegFld a hi lo x).saved = s.saved := rfl
@[simp] theorem State.setRegFld_gridNum (s : State) (a hi lo x : Nat) : (s.setRegFld a hi lo x).gridNum = s.gridNum := rfl
@[simp] theorem State.setRegFld_susp (s : State) (a hi lo x : Nat) : (s.setRegFld a hi lo x).susp = s.susp := rfl
@[simp] theorem State.setRegFld_endings (s : State) (a hi lo x : Nat) : (s.setRegFld a hi lo x).endings = s.endings := rfl
@[simp] theorem State.setRegFld_engines (s : State) (a hi lo x : Nat) : (s.setRegFld a hi lo x).engines = s.engines := rfl
@[simp] theorem State.setRegFld_ecmds (s : State) (a hi lo x : Nat) : (s.setRegFld a hi lo x).ecmds = s.ecmds := rfl
@[simp] theorem State.setRegFld_remotes (s : State) (a hi lo x : Nat) : (s.setRegFld a hi lo x).remotes = s.remotes := rfl
@[simp] theorem State.setRegFld_wireOut (s : State) (a hi lo x : Nat) : (s.setRegFld a hi lo x).wireOut = s.wireOut := rfl
@[simp] theorem State.setRegFld_replies (s : State) (a hi lo x : Nat) : (s.setRegFld a hi lo x).replies = s.replies := rfl
@[simp] theorem State.setRegFld_mcmds (s : State) (a hi lo x : Nat) : (s.setRegFld a hi lo x).mcmds = s.mcmds := rfl
@[simp] theorem State.setRegFld_fxs (s : State) (a hi lo x : Nat) : (s.setRegFld a hi lo x).fxs = s.fxs := rfl
@[simp] theorem State.setRegFld_fxWires (s : State) (a hi lo x : Nat) : (s.setRegFld a hi lo x).fxWires = s.fxWires := rfl
@[simp] theorem State.setRegFld_phasers (s : State) (a hi lo x : Nat) : (s.setRegFld a hi lo x).phasers = s.phasers := rfl
@[simp] theorem State.setRegFld_phMsgs (s : State) (a hi lo x : Nat) : (s.setRegFld a hi lo x).phMsgs = s.phMsgs := rfl
@[simp] theorem State.setRegFld_fallow (s : State) (a hi lo x : Nat) : (s.setRegFld a hi lo x).fallow = s.fallow := rfl
@[simp] theorem State.setRegFld_graces (s : State) (a hi lo x : Nat) : (s.setRegFld a hi lo x).graces = s.graces := rfl
@[simp] theorem State.setRegFld_queues (s : State) (a hi lo x : Nat) : (s.setRegFld a hi lo x).queues = s.queues := rfl
@[simp] theorem State.setRegFld_suspends (s : State) (a hi lo x : Nat) : (s.setRegFld a hi lo x).suspends = s.suspends := rfl
@[simp] theorem State.setRegFld_troughs (s : State) (a hi lo x : Nat) : (s.setRegFld a hi lo x).troughs = s.troughs := rfl
@[simp] theorem State.setRegFld_graphs (s : State) (a hi lo x : Nat) : (s.setRegFld a hi lo x).graphs = s.graphs := rfl
@[simp] theorem State.setRegFld_events (s : State) (a hi lo x : Nat) : (s.setRegFld a hi lo x).events = s.events := rfl
@[simp] theorem State.setRegFld_ctxGen (s : State) (a hi lo x : Nat) : (s.setRegFld a hi lo x).ctxGen = s.ctxGen := rfl
@[simp] theorem State.setRegFld_preemptAt (s : State) (a hi lo x : Nat) : (s.setRegFld a hi lo x).preemptAt = s.preemptAt := rfl
@[simp] theorem State.setRegFld_preempts (s : State) (a hi lo x : Nat) : (s.setRegFld a hi lo x).preempts = s.preempts := rfl
@[simp] theorem State.setRegFld_ended (s : State) (a hi lo x : Nat) : (s.setRegFld a hi lo x).ended = s.ended := rfl
@[simp] theorem State.setRegFld_tbufs (s : State) (a hi lo x : Nat) : (s.setRegFld a hi lo x).tbufs = s.tbufs := rfl
@[simp] theorem State.setRegFld_traces (s : State) (a hi lo x : Nat) : (s.setRegFld a hi lo x).traces = s.traces := rfl
@[simp] theorem State.setRegFld_trial (s : State) (a hi lo x : Nat) : (s.setRegFld a hi lo x).trial = s.trial := rfl
@[simp] theorem State.setRegFld_stops (s : State) (a hi lo x : Nat) : (s.setRegFld a hi lo x).stops = s.stops := rfl
@[simp] theorem State.setRegFld_boot (s : State) (a hi lo x : Nat) : (s.setRegFld a hi lo x).boot = s.boot := rfl
@[simp] theorem State.setRegFld_ckpt (s : State) (a hi lo x : Nat) : (s.setRegFld a hi lo x).ckpt = s.ckpt := rfl
@[simp] theorem State.setRegFld_ckptWait (s : State) (a hi lo x : Nat) : (s.setRegFld a hi lo x).ckptWait = s.ckptWait := rfl
@[simp] theorem State.setRegFld_ras (s : State) (a hi lo x : Nat) : (s.setRegFld a hi lo x).ras = s.ras := rfl
@[simp] theorem State.setRegFld_power (s : State) (a hi lo x : Nat) : (s.setRegFld a hi lo x).power = s.power := rfl

-- ## `setGrp`

@[simp] theorem State.setGrp_tick (s : State) (gid : Nat) (g : Group) : (s.setGrp gid g).tick = s.tick := rfl
@[simp] theorem State.setGrp_agenda (s : State) (gid : Nat) (g : Group) : (s.setGrp gid g).agenda = s.agenda := rfl
@[simp] theorem State.setGrp_ev (s : State) (gid : Nat) (g : Group) : (s.setGrp gid g).ev = s.ev := rfl
@[simp] theorem State.setGrp_cur (s : State) (gid : Nat) (g : Group) : (s.setGrp gid g).cur = s.cur := rfl
@[simp] theorem State.setGrp_curFx (s : State) (gid : Nat) (g : Group) : (s.setGrp gid g).curFx = s.curFx := rfl
@[simp] theorem State.setGrp_curDie (s : State) (gid : Nat) (g : Group) : (s.setGrp gid g).curDie = s.curDie := rfl
@[simp] theorem State.setGrp_nextId (s : State) (gid : Nat) (g : Group) : (s.setGrp gid g).nextId = s.nextId := rfl
@[simp] theorem State.setGrp_now (s : State) (gid : Nat) (g : Group) : (s.setGrp gid g).now = s.now := rfl
@[simp] theorem State.setGrp_timeBase (s : State) (gid : Nat) (g : Group) : (s.setGrp gid g).timeBase = s.timeBase := rfl
@[simp] theorem State.setGrp_mmio (s : State) (gid : Nat) (g : Group) : (s.setGrp gid g).mmio = s.mmio := rfl
@[simp] theorem State.setGrp_mem (s : State) (gid : Nat) (g : Group) : (s.setGrp gid g).mem = s.mem := rfl
@[simp] theorem State.setGrp_burst (s : State) (gid : Nat) (g : Group) : (s.setGrp gid g).burst = s.burst := rfl
@[simp] theorem State.setGrp_poison (s : State) (gid : Nat) (g : Group) : (s.setGrp gid g).poison = s.poison := rfl
@[simp] theorem State.setGrp_stale (s : State) (gid : Nat) (g : Group) : (s.setGrp gid g).stale = s.stale := rfl
@[simp] theorem State.setGrp_keySlots (s : State) (gid : Nat) (g : Group) : (s.setGrp gid g).keySlots = s.keySlots := rfl
@[simp] theorem State.setGrp_keyLoad (s : State) (gid : Nat) (g : Group) : (s.setGrp gid g).keyLoad = s.keyLoad := rfl
@[simp] theorem State.setGrp_removedPch (s : State) (gid : Nat) (g : Group) : (s.setGrp gid g).removedPch = s.removedPch := rfl
@[simp] theorem State.setGrp_retiredRows (s : State) (gid : Nat) (g : Group) : (s.setGrp gid g).retiredRows = s.retiredRows := rfl
@[simp] theorem State.setGrp_removedUnits (s : State) (gid : Nat) (g : Group) : (s.setGrp gid g).removedUnits = s.removedUnits := rfl
@[simp] theorem State.setGrp_cores (s : State) (gid : Nat) (g : Group) : (s.setGrp gid g).cores = s.cores := rfl
@[simp] theorem State.setGrp_clusters (s : State) (gid : Nat) (g : Group) : (s.setGrp gid g).clusters = s.clusters := rfl
@[simp] theorem State.setGrp_slices (s : State) (gid : Nat) (g : Group) : (s.setGrp gid g).slices = s.slices := rfl
@[simp] theorem State.setGrp_engTlb (s : State) (gid : Nat) (g : Group) : (s.setGrp gid g).engTlb = s.engTlb := rfl
@[simp] theorem State.setGrp_walks (s : State) (gid : Nat) (g : Group) : (s.setGrp gid g).walks = s.walks := rfl
@[simp] theorem State.setGrp_invq (s : State) (gid : Nat) (g : Group) : (s.setGrp gid g).invq = s.invq := rfl
@[simp] theorem State.setGrp_invHeld (s : State) (gid : Nat) (g : Group) : (s.setGrp gid g).invHeld = s.invHeld := rfl
@[simp] theorem State.setGrp_buckets (s : State) (gid : Nat) (g : Group) : (s.setGrp gid g).buckets = s.buckets := rfl
@[simp] theorem State.setGrp_traffic (s : State) (gid : Nat) (g : Group) : (s.setGrp gid g).traffic = s.traffic := rfl
@[simp] theorem State.setGrp_posts (s : State) (gid : Nat) (g : Group) : (s.setGrp gid g).posts = s.posts := rfl
@[simp] theorem State.setGrp_pchs (s : State) (gid : Nat) (g : Group) : (s.setGrp gid g).pchs = s.pchs := rfl
@[simp] theorem State.setGrp_hotWant (s : State) (gid : Nat) (g : Group) : (s.setGrp gid g).hotWant = s.hotWant := rfl
@[simp] theorem State.setGrp_teams (s : State) (gid : Nat) (g : Group) : (s.setGrp gid g).teams = s.teams := rfl
@[simp] theorem State.setGrp_grids (s : State) (gid : Nat) (g : Group) : (s.setGrp gid g).grids = s.grids := rfl
@[simp] theorem State.setGrp_parts (s : State) (gid : Nat) (g : Group) : (s.setGrp gid g).parts = s.parts := rfl
@[simp] theorem State.setGrp_saved (s : State) (gid : Nat) (g : Group) : (s.setGrp gid g).saved = s.saved := rfl
@[simp] theorem State.setGrp_gridNum (s : State) (gid : Nat) (g : Group) : (s.setGrp gid g).gridNum = s.gridNum := rfl
@[simp] theorem State.setGrp_susp (s : State) (gid : Nat) (g : Group) : (s.setGrp gid g).susp = s.susp := rfl
@[simp] theorem State.setGrp_endings (s : State) (gid : Nat) (g : Group) : (s.setGrp gid g).endings = s.endings := rfl
@[simp] theorem State.setGrp_engines (s : State) (gid : Nat) (g : Group) : (s.setGrp gid g).engines = s.engines := rfl
@[simp] theorem State.setGrp_ecmds (s : State) (gid : Nat) (g : Group) : (s.setGrp gid g).ecmds = s.ecmds := rfl
@[simp] theorem State.setGrp_remotes (s : State) (gid : Nat) (g : Group) : (s.setGrp gid g).remotes = s.remotes := rfl
@[simp] theorem State.setGrp_wireOut (s : State) (gid : Nat) (g : Group) : (s.setGrp gid g).wireOut = s.wireOut := rfl
@[simp] theorem State.setGrp_replies (s : State) (gid : Nat) (g : Group) : (s.setGrp gid g).replies = s.replies := rfl
@[simp] theorem State.setGrp_mcmds (s : State) (gid : Nat) (g : Group) : (s.setGrp gid g).mcmds = s.mcmds := rfl
@[simp] theorem State.setGrp_fxs (s : State) (gid : Nat) (g : Group) : (s.setGrp gid g).fxs = s.fxs := rfl
@[simp] theorem State.setGrp_fxWires (s : State) (gid : Nat) (g : Group) : (s.setGrp gid g).fxWires = s.fxWires := rfl
@[simp] theorem State.setGrp_phasers (s : State) (gid : Nat) (g : Group) : (s.setGrp gid g).phasers = s.phasers := rfl
@[simp] theorem State.setGrp_phMsgs (s : State) (gid : Nat) (g : Group) : (s.setGrp gid g).phMsgs = s.phMsgs := rfl
@[simp] theorem State.setGrp_fallow (s : State) (gid : Nat) (g : Group) : (s.setGrp gid g).fallow = s.fallow := rfl
@[simp] theorem State.setGrp_graces (s : State) (gid : Nat) (g : Group) : (s.setGrp gid g).graces = s.graces := rfl
@[simp] theorem State.setGrp_queues (s : State) (gid : Nat) (g : Group) : (s.setGrp gid g).queues = s.queues := rfl
@[simp] theorem State.setGrp_suspends (s : State) (gid : Nat) (g : Group) : (s.setGrp gid g).suspends = s.suspends := rfl
@[simp] theorem State.setGrp_troughs (s : State) (gid : Nat) (g : Group) : (s.setGrp gid g).troughs = s.troughs := rfl
@[simp] theorem State.setGrp_graphs (s : State) (gid : Nat) (g : Group) : (s.setGrp gid g).graphs = s.graphs := rfl
@[simp] theorem State.setGrp_events (s : State) (gid : Nat) (g : Group) : (s.setGrp gid g).events = s.events := rfl
@[simp] theorem State.setGrp_ctxGen (s : State) (gid : Nat) (g : Group) : (s.setGrp gid g).ctxGen = s.ctxGen := rfl
@[simp] theorem State.setGrp_preemptAt (s : State) (gid : Nat) (g : Group) : (s.setGrp gid g).preemptAt = s.preemptAt := rfl
@[simp] theorem State.setGrp_preempts (s : State) (gid : Nat) (g : Group) : (s.setGrp gid g).preempts = s.preempts := rfl
@[simp] theorem State.setGrp_ended (s : State) (gid : Nat) (g : Group) : (s.setGrp gid g).ended = s.ended := rfl
@[simp] theorem State.setGrp_tbufs (s : State) (gid : Nat) (g : Group) : (s.setGrp gid g).tbufs = s.tbufs := rfl
@[simp] theorem State.setGrp_traces (s : State) (gid : Nat) (g : Group) : (s.setGrp gid g).traces = s.traces := rfl
@[simp] theorem State.setGrp_trial (s : State) (gid : Nat) (g : Group) : (s.setGrp gid g).trial = s.trial := rfl
@[simp] theorem State.setGrp_stops (s : State) (gid : Nat) (g : Group) : (s.setGrp gid g).stops = s.stops := rfl
@[simp] theorem State.setGrp_boot (s : State) (gid : Nat) (g : Group) : (s.setGrp gid g).boot = s.boot := rfl
@[simp] theorem State.setGrp_ckpt (s : State) (gid : Nat) (g : Group) : (s.setGrp gid g).ckpt = s.ckpt := rfl
@[simp] theorem State.setGrp_ckptWait (s : State) (gid : Nat) (g : Group) : (s.setGrp gid g).ckptWait = s.ckptWait := rfl
@[simp] theorem State.setGrp_ras (s : State) (gid : Nat) (g : Group) : (s.setGrp gid g).ras = s.ras := rfl
@[simp] theorem State.setGrp_power (s : State) (gid : Nat) (g : Group) : (s.setGrp gid g).power = s.power := rfl

-- ## `updGrp`

@[simp] theorem State.updGrp_tick (s : State) (gid : Nat) (f : Group → Group) : (s.updGrp gid f).tick = s.tick := rfl
@[simp] theorem State.updGrp_agenda (s : State) (gid : Nat) (f : Group → Group) : (s.updGrp gid f).agenda = s.agenda := rfl
@[simp] theorem State.updGrp_ev (s : State) (gid : Nat) (f : Group → Group) : (s.updGrp gid f).ev = s.ev := rfl
@[simp] theorem State.updGrp_cur (s : State) (gid : Nat) (f : Group → Group) : (s.updGrp gid f).cur = s.cur := rfl
@[simp] theorem State.updGrp_curFx (s : State) (gid : Nat) (f : Group → Group) : (s.updGrp gid f).curFx = s.curFx := rfl
@[simp] theorem State.updGrp_curDie (s : State) (gid : Nat) (f : Group → Group) : (s.updGrp gid f).curDie = s.curDie := rfl
@[simp] theorem State.updGrp_nextId (s : State) (gid : Nat) (f : Group → Group) : (s.updGrp gid f).nextId = s.nextId := rfl
@[simp] theorem State.updGrp_now (s : State) (gid : Nat) (f : Group → Group) : (s.updGrp gid f).now = s.now := rfl
@[simp] theorem State.updGrp_timeBase (s : State) (gid : Nat) (f : Group → Group) : (s.updGrp gid f).timeBase = s.timeBase := rfl
@[simp] theorem State.updGrp_mmio (s : State) (gid : Nat) (f : Group → Group) : (s.updGrp gid f).mmio = s.mmio := rfl
@[simp] theorem State.updGrp_mem (s : State) (gid : Nat) (f : Group → Group) : (s.updGrp gid f).mem = s.mem := rfl
@[simp] theorem State.updGrp_burst (s : State) (gid : Nat) (f : Group → Group) : (s.updGrp gid f).burst = s.burst := rfl
@[simp] theorem State.updGrp_poison (s : State) (gid : Nat) (f : Group → Group) : (s.updGrp gid f).poison = s.poison := rfl
@[simp] theorem State.updGrp_stale (s : State) (gid : Nat) (f : Group → Group) : (s.updGrp gid f).stale = s.stale := rfl
@[simp] theorem State.updGrp_keySlots (s : State) (gid : Nat) (f : Group → Group) : (s.updGrp gid f).keySlots = s.keySlots := rfl
@[simp] theorem State.updGrp_keyLoad (s : State) (gid : Nat) (f : Group → Group) : (s.updGrp gid f).keyLoad = s.keyLoad := rfl
@[simp] theorem State.updGrp_removedPch (s : State) (gid : Nat) (f : Group → Group) : (s.updGrp gid f).removedPch = s.removedPch := rfl
@[simp] theorem State.updGrp_retiredRows (s : State) (gid : Nat) (f : Group → Group) : (s.updGrp gid f).retiredRows = s.retiredRows := rfl
@[simp] theorem State.updGrp_removedUnits (s : State) (gid : Nat) (f : Group → Group) : (s.updGrp gid f).removedUnits = s.removedUnits := rfl
@[simp] theorem State.updGrp_cores (s : State) (gid : Nat) (f : Group → Group) : (s.updGrp gid f).cores = s.cores := rfl
@[simp] theorem State.updGrp_clusters (s : State) (gid : Nat) (f : Group → Group) : (s.updGrp gid f).clusters = s.clusters := rfl
@[simp] theorem State.updGrp_slices (s : State) (gid : Nat) (f : Group → Group) : (s.updGrp gid f).slices = s.slices := rfl
@[simp] theorem State.updGrp_engTlb (s : State) (gid : Nat) (f : Group → Group) : (s.updGrp gid f).engTlb = s.engTlb := rfl
@[simp] theorem State.updGrp_walks (s : State) (gid : Nat) (f : Group → Group) : (s.updGrp gid f).walks = s.walks := rfl
@[simp] theorem State.updGrp_invq (s : State) (gid : Nat) (f : Group → Group) : (s.updGrp gid f).invq = s.invq := rfl
@[simp] theorem State.updGrp_invHeld (s : State) (gid : Nat) (f : Group → Group) : (s.updGrp gid f).invHeld = s.invHeld := rfl
@[simp] theorem State.updGrp_buckets (s : State) (gid : Nat) (f : Group → Group) : (s.updGrp gid f).buckets = s.buckets := rfl
@[simp] theorem State.updGrp_traffic (s : State) (gid : Nat) (f : Group → Group) : (s.updGrp gid f).traffic = s.traffic := rfl
@[simp] theorem State.updGrp_posts (s : State) (gid : Nat) (f : Group → Group) : (s.updGrp gid f).posts = s.posts := rfl
@[simp] theorem State.updGrp_pchs (s : State) (gid : Nat) (f : Group → Group) : (s.updGrp gid f).pchs = s.pchs := rfl
@[simp] theorem State.updGrp_hotWant (s : State) (gid : Nat) (f : Group → Group) : (s.updGrp gid f).hotWant = s.hotWant := rfl
@[simp] theorem State.updGrp_teams (s : State) (gid : Nat) (f : Group → Group) : (s.updGrp gid f).teams = s.teams := rfl
@[simp] theorem State.updGrp_grids (s : State) (gid : Nat) (f : Group → Group) : (s.updGrp gid f).grids = s.grids := rfl
@[simp] theorem State.updGrp_parts (s : State) (gid : Nat) (f : Group → Group) : (s.updGrp gid f).parts = s.parts := rfl
@[simp] theorem State.updGrp_saved (s : State) (gid : Nat) (f : Group → Group) : (s.updGrp gid f).saved = s.saved := rfl
@[simp] theorem State.updGrp_gridNum (s : State) (gid : Nat) (f : Group → Group) : (s.updGrp gid f).gridNum = s.gridNum := rfl
@[simp] theorem State.updGrp_susp (s : State) (gid : Nat) (f : Group → Group) : (s.updGrp gid f).susp = s.susp := rfl
@[simp] theorem State.updGrp_endings (s : State) (gid : Nat) (f : Group → Group) : (s.updGrp gid f).endings = s.endings := rfl
@[simp] theorem State.updGrp_engines (s : State) (gid : Nat) (f : Group → Group) : (s.updGrp gid f).engines = s.engines := rfl
@[simp] theorem State.updGrp_ecmds (s : State) (gid : Nat) (f : Group → Group) : (s.updGrp gid f).ecmds = s.ecmds := rfl
@[simp] theorem State.updGrp_remotes (s : State) (gid : Nat) (f : Group → Group) : (s.updGrp gid f).remotes = s.remotes := rfl
@[simp] theorem State.updGrp_wireOut (s : State) (gid : Nat) (f : Group → Group) : (s.updGrp gid f).wireOut = s.wireOut := rfl
@[simp] theorem State.updGrp_replies (s : State) (gid : Nat) (f : Group → Group) : (s.updGrp gid f).replies = s.replies := rfl
@[simp] theorem State.updGrp_mcmds (s : State) (gid : Nat) (f : Group → Group) : (s.updGrp gid f).mcmds = s.mcmds := rfl
@[simp] theorem State.updGrp_fxs (s : State) (gid : Nat) (f : Group → Group) : (s.updGrp gid f).fxs = s.fxs := rfl
@[simp] theorem State.updGrp_fxWires (s : State) (gid : Nat) (f : Group → Group) : (s.updGrp gid f).fxWires = s.fxWires := rfl
@[simp] theorem State.updGrp_phasers (s : State) (gid : Nat) (f : Group → Group) : (s.updGrp gid f).phasers = s.phasers := rfl
@[simp] theorem State.updGrp_phMsgs (s : State) (gid : Nat) (f : Group → Group) : (s.updGrp gid f).phMsgs = s.phMsgs := rfl
@[simp] theorem State.updGrp_fallow (s : State) (gid : Nat) (f : Group → Group) : (s.updGrp gid f).fallow = s.fallow := rfl
@[simp] theorem State.updGrp_graces (s : State) (gid : Nat) (f : Group → Group) : (s.updGrp gid f).graces = s.graces := rfl
@[simp] theorem State.updGrp_queues (s : State) (gid : Nat) (f : Group → Group) : (s.updGrp gid f).queues = s.queues := rfl
@[simp] theorem State.updGrp_suspends (s : State) (gid : Nat) (f : Group → Group) : (s.updGrp gid f).suspends = s.suspends := rfl
@[simp] theorem State.updGrp_troughs (s : State) (gid : Nat) (f : Group → Group) : (s.updGrp gid f).troughs = s.troughs := rfl
@[simp] theorem State.updGrp_graphs (s : State) (gid : Nat) (f : Group → Group) : (s.updGrp gid f).graphs = s.graphs := rfl
@[simp] theorem State.updGrp_events (s : State) (gid : Nat) (f : Group → Group) : (s.updGrp gid f).events = s.events := rfl
@[simp] theorem State.updGrp_ctxGen (s : State) (gid : Nat) (f : Group → Group) : (s.updGrp gid f).ctxGen = s.ctxGen := rfl
@[simp] theorem State.updGrp_preemptAt (s : State) (gid : Nat) (f : Group → Group) : (s.updGrp gid f).preemptAt = s.preemptAt := rfl
@[simp] theorem State.updGrp_preempts (s : State) (gid : Nat) (f : Group → Group) : (s.updGrp gid f).preempts = s.preempts := rfl
@[simp] theorem State.updGrp_ended (s : State) (gid : Nat) (f : Group → Group) : (s.updGrp gid f).ended = s.ended := rfl
@[simp] theorem State.updGrp_tbufs (s : State) (gid : Nat) (f : Group → Group) : (s.updGrp gid f).tbufs = s.tbufs := rfl
@[simp] theorem State.updGrp_traces (s : State) (gid : Nat) (f : Group → Group) : (s.updGrp gid f).traces = s.traces := rfl
@[simp] theorem State.updGrp_trial (s : State) (gid : Nat) (f : Group → Group) : (s.updGrp gid f).trial = s.trial := rfl
@[simp] theorem State.updGrp_stops (s : State) (gid : Nat) (f : Group → Group) : (s.updGrp gid f).stops = s.stops := rfl
@[simp] theorem State.updGrp_boot (s : State) (gid : Nat) (f : Group → Group) : (s.updGrp gid f).boot = s.boot := rfl
@[simp] theorem State.updGrp_ckpt (s : State) (gid : Nat) (f : Group → Group) : (s.updGrp gid f).ckpt = s.ckpt := rfl
@[simp] theorem State.updGrp_ckptWait (s : State) (gid : Nat) (f : Group → Group) : (s.updGrp gid f).ckptWait = s.ckptWait := rfl
@[simp] theorem State.updGrp_ras (s : State) (gid : Nat) (f : Group → Group) : (s.updGrp gid f).ras = s.ras := rfl
@[simp] theorem State.updGrp_power (s : State) (gid : Nat) (f : Group → Group) : (s.updGrp gid f).power = s.power := rfl

-- ## `setTeam`

@[simp] theorem State.setTeam_tick (s : State) (tid : Nat) (t : Team) : (s.setTeam tid t).tick = s.tick := rfl
@[simp] theorem State.setTeam_agenda (s : State) (tid : Nat) (t : Team) : (s.setTeam tid t).agenda = s.agenda := rfl
@[simp] theorem State.setTeam_ev (s : State) (tid : Nat) (t : Team) : (s.setTeam tid t).ev = s.ev := rfl
@[simp] theorem State.setTeam_cur (s : State) (tid : Nat) (t : Team) : (s.setTeam tid t).cur = s.cur := rfl
@[simp] theorem State.setTeam_curFx (s : State) (tid : Nat) (t : Team) : (s.setTeam tid t).curFx = s.curFx := rfl
@[simp] theorem State.setTeam_curDie (s : State) (tid : Nat) (t : Team) : (s.setTeam tid t).curDie = s.curDie := rfl
@[simp] theorem State.setTeam_nextId (s : State) (tid : Nat) (t : Team) : (s.setTeam tid t).nextId = s.nextId := rfl
@[simp] theorem State.setTeam_now (s : State) (tid : Nat) (t : Team) : (s.setTeam tid t).now = s.now := rfl
@[simp] theorem State.setTeam_timeBase (s : State) (tid : Nat) (t : Team) : (s.setTeam tid t).timeBase = s.timeBase := rfl
@[simp] theorem State.setTeam_mmio (s : State) (tid : Nat) (t : Team) : (s.setTeam tid t).mmio = s.mmio := rfl
@[simp] theorem State.setTeam_mem (s : State) (tid : Nat) (t : Team) : (s.setTeam tid t).mem = s.mem := rfl
@[simp] theorem State.setTeam_burst (s : State) (tid : Nat) (t : Team) : (s.setTeam tid t).burst = s.burst := rfl
@[simp] theorem State.setTeam_poison (s : State) (tid : Nat) (t : Team) : (s.setTeam tid t).poison = s.poison := rfl
@[simp] theorem State.setTeam_stale (s : State) (tid : Nat) (t : Team) : (s.setTeam tid t).stale = s.stale := rfl
@[simp] theorem State.setTeam_keySlots (s : State) (tid : Nat) (t : Team) : (s.setTeam tid t).keySlots = s.keySlots := rfl
@[simp] theorem State.setTeam_keyLoad (s : State) (tid : Nat) (t : Team) : (s.setTeam tid t).keyLoad = s.keyLoad := rfl
@[simp] theorem State.setTeam_removedPch (s : State) (tid : Nat) (t : Team) : (s.setTeam tid t).removedPch = s.removedPch := rfl
@[simp] theorem State.setTeam_retiredRows (s : State) (tid : Nat) (t : Team) : (s.setTeam tid t).retiredRows = s.retiredRows := rfl
@[simp] theorem State.setTeam_removedUnits (s : State) (tid : Nat) (t : Team) : (s.setTeam tid t).removedUnits = s.removedUnits := rfl
@[simp] theorem State.setTeam_cores (s : State) (tid : Nat) (t : Team) : (s.setTeam tid t).cores = s.cores := rfl
@[simp] theorem State.setTeam_clusters (s : State) (tid : Nat) (t : Team) : (s.setTeam tid t).clusters = s.clusters := rfl
@[simp] theorem State.setTeam_slices (s : State) (tid : Nat) (t : Team) : (s.setTeam tid t).slices = s.slices := rfl
@[simp] theorem State.setTeam_engTlb (s : State) (tid : Nat) (t : Team) : (s.setTeam tid t).engTlb = s.engTlb := rfl
@[simp] theorem State.setTeam_walks (s : State) (tid : Nat) (t : Team) : (s.setTeam tid t).walks = s.walks := rfl
@[simp] theorem State.setTeam_invq (s : State) (tid : Nat) (t : Team) : (s.setTeam tid t).invq = s.invq := rfl
@[simp] theorem State.setTeam_invHeld (s : State) (tid : Nat) (t : Team) : (s.setTeam tid t).invHeld = s.invHeld := rfl
@[simp] theorem State.setTeam_buckets (s : State) (tid : Nat) (t : Team) : (s.setTeam tid t).buckets = s.buckets := rfl
@[simp] theorem State.setTeam_traffic (s : State) (tid : Nat) (t : Team) : (s.setTeam tid t).traffic = s.traffic := rfl
@[simp] theorem State.setTeam_posts (s : State) (tid : Nat) (t : Team) : (s.setTeam tid t).posts = s.posts := rfl
@[simp] theorem State.setTeam_pchs (s : State) (tid : Nat) (t : Team) : (s.setTeam tid t).pchs = s.pchs := rfl
@[simp] theorem State.setTeam_hotWant (s : State) (tid : Nat) (t : Team) : (s.setTeam tid t).hotWant = s.hotWant := rfl
@[simp] theorem State.setTeam_groups (s : State) (tid : Nat) (t : Team) : (s.setTeam tid t).groups = s.groups := rfl
@[simp] theorem State.setTeam_grids (s : State) (tid : Nat) (t : Team) : (s.setTeam tid t).grids = s.grids := rfl
@[simp] theorem State.setTeam_parts (s : State) (tid : Nat) (t : Team) : (s.setTeam tid t).parts = s.parts := rfl
@[simp] theorem State.setTeam_saved (s : State) (tid : Nat) (t : Team) : (s.setTeam tid t).saved = s.saved := rfl
@[simp] theorem State.setTeam_gridNum (s : State) (tid : Nat) (t : Team) : (s.setTeam tid t).gridNum = s.gridNum := rfl
@[simp] theorem State.setTeam_susp (s : State) (tid : Nat) (t : Team) : (s.setTeam tid t).susp = s.susp := rfl
@[simp] theorem State.setTeam_endings (s : State) (tid : Nat) (t : Team) : (s.setTeam tid t).endings = s.endings := rfl
@[simp] theorem State.setTeam_engines (s : State) (tid : Nat) (t : Team) : (s.setTeam tid t).engines = s.engines := rfl
@[simp] theorem State.setTeam_ecmds (s : State) (tid : Nat) (t : Team) : (s.setTeam tid t).ecmds = s.ecmds := rfl
@[simp] theorem State.setTeam_remotes (s : State) (tid : Nat) (t : Team) : (s.setTeam tid t).remotes = s.remotes := rfl
@[simp] theorem State.setTeam_wireOut (s : State) (tid : Nat) (t : Team) : (s.setTeam tid t).wireOut = s.wireOut := rfl
@[simp] theorem State.setTeam_replies (s : State) (tid : Nat) (t : Team) : (s.setTeam tid t).replies = s.replies := rfl
@[simp] theorem State.setTeam_mcmds (s : State) (tid : Nat) (t : Team) : (s.setTeam tid t).mcmds = s.mcmds := rfl
@[simp] theorem State.setTeam_fxs (s : State) (tid : Nat) (t : Team) : (s.setTeam tid t).fxs = s.fxs := rfl
@[simp] theorem State.setTeam_fxWires (s : State) (tid : Nat) (t : Team) : (s.setTeam tid t).fxWires = s.fxWires := rfl
@[simp] theorem State.setTeam_phasers (s : State) (tid : Nat) (t : Team) : (s.setTeam tid t).phasers = s.phasers := rfl
@[simp] theorem State.setTeam_phMsgs (s : State) (tid : Nat) (t : Team) : (s.setTeam tid t).phMsgs = s.phMsgs := rfl
@[simp] theorem State.setTeam_fallow (s : State) (tid : Nat) (t : Team) : (s.setTeam tid t).fallow = s.fallow := rfl
@[simp] theorem State.setTeam_graces (s : State) (tid : Nat) (t : Team) : (s.setTeam tid t).graces = s.graces := rfl
@[simp] theorem State.setTeam_queues (s : State) (tid : Nat) (t : Team) : (s.setTeam tid t).queues = s.queues := rfl
@[simp] theorem State.setTeam_suspends (s : State) (tid : Nat) (t : Team) : (s.setTeam tid t).suspends = s.suspends := rfl
@[simp] theorem State.setTeam_troughs (s : State) (tid : Nat) (t : Team) : (s.setTeam tid t).troughs = s.troughs := rfl
@[simp] theorem State.setTeam_graphs (s : State) (tid : Nat) (t : Team) : (s.setTeam tid t).graphs = s.graphs := rfl
@[simp] theorem State.setTeam_events (s : State) (tid : Nat) (t : Team) : (s.setTeam tid t).events = s.events := rfl
@[simp] theorem State.setTeam_ctxGen (s : State) (tid : Nat) (t : Team) : (s.setTeam tid t).ctxGen = s.ctxGen := rfl
@[simp] theorem State.setTeam_preemptAt (s : State) (tid : Nat) (t : Team) : (s.setTeam tid t).preemptAt = s.preemptAt := rfl
@[simp] theorem State.setTeam_preempts (s : State) (tid : Nat) (t : Team) : (s.setTeam tid t).preempts = s.preempts := rfl
@[simp] theorem State.setTeam_ended (s : State) (tid : Nat) (t : Team) : (s.setTeam tid t).ended = s.ended := rfl
@[simp] theorem State.setTeam_tbufs (s : State) (tid : Nat) (t : Team) : (s.setTeam tid t).tbufs = s.tbufs := rfl
@[simp] theorem State.setTeam_traces (s : State) (tid : Nat) (t : Team) : (s.setTeam tid t).traces = s.traces := rfl
@[simp] theorem State.setTeam_trial (s : State) (tid : Nat) (t : Team) : (s.setTeam tid t).trial = s.trial := rfl
@[simp] theorem State.setTeam_stops (s : State) (tid : Nat) (t : Team) : (s.setTeam tid t).stops = s.stops := rfl
@[simp] theorem State.setTeam_boot (s : State) (tid : Nat) (t : Team) : (s.setTeam tid t).boot = s.boot := rfl
@[simp] theorem State.setTeam_ckpt (s : State) (tid : Nat) (t : Team) : (s.setTeam tid t).ckpt = s.ckpt := rfl
@[simp] theorem State.setTeam_ckptWait (s : State) (tid : Nat) (t : Team) : (s.setTeam tid t).ckptWait = s.ckptWait := rfl
@[simp] theorem State.setTeam_ras (s : State) (tid : Nat) (t : Team) : (s.setTeam tid t).ras = s.ras := rfl
@[simp] theorem State.setTeam_power (s : State) (tid : Nat) (t : Team) : (s.setTeam tid t).power = s.power := rfl

-- ## `updTeam`

@[simp] theorem State.updTeam_tick (s : State) (tid : Nat) (f : Team → Team) : (s.updTeam tid f).tick = s.tick := rfl
@[simp] theorem State.updTeam_agenda (s : State) (tid : Nat) (f : Team → Team) : (s.updTeam tid f).agenda = s.agenda := rfl
@[simp] theorem State.updTeam_ev (s : State) (tid : Nat) (f : Team → Team) : (s.updTeam tid f).ev = s.ev := rfl
@[simp] theorem State.updTeam_cur (s : State) (tid : Nat) (f : Team → Team) : (s.updTeam tid f).cur = s.cur := rfl
@[simp] theorem State.updTeam_curFx (s : State) (tid : Nat) (f : Team → Team) : (s.updTeam tid f).curFx = s.curFx := rfl
@[simp] theorem State.updTeam_curDie (s : State) (tid : Nat) (f : Team → Team) : (s.updTeam tid f).curDie = s.curDie := rfl
@[simp] theorem State.updTeam_nextId (s : State) (tid : Nat) (f : Team → Team) : (s.updTeam tid f).nextId = s.nextId := rfl
@[simp] theorem State.updTeam_now (s : State) (tid : Nat) (f : Team → Team) : (s.updTeam tid f).now = s.now := rfl
@[simp] theorem State.updTeam_timeBase (s : State) (tid : Nat) (f : Team → Team) : (s.updTeam tid f).timeBase = s.timeBase := rfl
@[simp] theorem State.updTeam_mmio (s : State) (tid : Nat) (f : Team → Team) : (s.updTeam tid f).mmio = s.mmio := rfl
@[simp] theorem State.updTeam_mem (s : State) (tid : Nat) (f : Team → Team) : (s.updTeam tid f).mem = s.mem := rfl
@[simp] theorem State.updTeam_burst (s : State) (tid : Nat) (f : Team → Team) : (s.updTeam tid f).burst = s.burst := rfl
@[simp] theorem State.updTeam_poison (s : State) (tid : Nat) (f : Team → Team) : (s.updTeam tid f).poison = s.poison := rfl
@[simp] theorem State.updTeam_stale (s : State) (tid : Nat) (f : Team → Team) : (s.updTeam tid f).stale = s.stale := rfl
@[simp] theorem State.updTeam_keySlots (s : State) (tid : Nat) (f : Team → Team) : (s.updTeam tid f).keySlots = s.keySlots := rfl
@[simp] theorem State.updTeam_keyLoad (s : State) (tid : Nat) (f : Team → Team) : (s.updTeam tid f).keyLoad = s.keyLoad := rfl
@[simp] theorem State.updTeam_removedPch (s : State) (tid : Nat) (f : Team → Team) : (s.updTeam tid f).removedPch = s.removedPch := rfl
@[simp] theorem State.updTeam_retiredRows (s : State) (tid : Nat) (f : Team → Team) : (s.updTeam tid f).retiredRows = s.retiredRows := rfl
@[simp] theorem State.updTeam_removedUnits (s : State) (tid : Nat) (f : Team → Team) : (s.updTeam tid f).removedUnits = s.removedUnits := rfl
@[simp] theorem State.updTeam_cores (s : State) (tid : Nat) (f : Team → Team) : (s.updTeam tid f).cores = s.cores := rfl
@[simp] theorem State.updTeam_clusters (s : State) (tid : Nat) (f : Team → Team) : (s.updTeam tid f).clusters = s.clusters := rfl
@[simp] theorem State.updTeam_slices (s : State) (tid : Nat) (f : Team → Team) : (s.updTeam tid f).slices = s.slices := rfl
@[simp] theorem State.updTeam_engTlb (s : State) (tid : Nat) (f : Team → Team) : (s.updTeam tid f).engTlb = s.engTlb := rfl
@[simp] theorem State.updTeam_walks (s : State) (tid : Nat) (f : Team → Team) : (s.updTeam tid f).walks = s.walks := rfl
@[simp] theorem State.updTeam_invq (s : State) (tid : Nat) (f : Team → Team) : (s.updTeam tid f).invq = s.invq := rfl
@[simp] theorem State.updTeam_invHeld (s : State) (tid : Nat) (f : Team → Team) : (s.updTeam tid f).invHeld = s.invHeld := rfl
@[simp] theorem State.updTeam_buckets (s : State) (tid : Nat) (f : Team → Team) : (s.updTeam tid f).buckets = s.buckets := rfl
@[simp] theorem State.updTeam_traffic (s : State) (tid : Nat) (f : Team → Team) : (s.updTeam tid f).traffic = s.traffic := rfl
@[simp] theorem State.updTeam_posts (s : State) (tid : Nat) (f : Team → Team) : (s.updTeam tid f).posts = s.posts := rfl
@[simp] theorem State.updTeam_pchs (s : State) (tid : Nat) (f : Team → Team) : (s.updTeam tid f).pchs = s.pchs := rfl
@[simp] theorem State.updTeam_hotWant (s : State) (tid : Nat) (f : Team → Team) : (s.updTeam tid f).hotWant = s.hotWant := rfl
@[simp] theorem State.updTeam_groups (s : State) (tid : Nat) (f : Team → Team) : (s.updTeam tid f).groups = s.groups := rfl
@[simp] theorem State.updTeam_grids (s : State) (tid : Nat) (f : Team → Team) : (s.updTeam tid f).grids = s.grids := rfl
@[simp] theorem State.updTeam_parts (s : State) (tid : Nat) (f : Team → Team) : (s.updTeam tid f).parts = s.parts := rfl
@[simp] theorem State.updTeam_saved (s : State) (tid : Nat) (f : Team → Team) : (s.updTeam tid f).saved = s.saved := rfl
@[simp] theorem State.updTeam_gridNum (s : State) (tid : Nat) (f : Team → Team) : (s.updTeam tid f).gridNum = s.gridNum := rfl
@[simp] theorem State.updTeam_susp (s : State) (tid : Nat) (f : Team → Team) : (s.updTeam tid f).susp = s.susp := rfl
@[simp] theorem State.updTeam_endings (s : State) (tid : Nat) (f : Team → Team) : (s.updTeam tid f).endings = s.endings := rfl
@[simp] theorem State.updTeam_engines (s : State) (tid : Nat) (f : Team → Team) : (s.updTeam tid f).engines = s.engines := rfl
@[simp] theorem State.updTeam_ecmds (s : State) (tid : Nat) (f : Team → Team) : (s.updTeam tid f).ecmds = s.ecmds := rfl
@[simp] theorem State.updTeam_remotes (s : State) (tid : Nat) (f : Team → Team) : (s.updTeam tid f).remotes = s.remotes := rfl
@[simp] theorem State.updTeam_wireOut (s : State) (tid : Nat) (f : Team → Team) : (s.updTeam tid f).wireOut = s.wireOut := rfl
@[simp] theorem State.updTeam_replies (s : State) (tid : Nat) (f : Team → Team) : (s.updTeam tid f).replies = s.replies := rfl
@[simp] theorem State.updTeam_mcmds (s : State) (tid : Nat) (f : Team → Team) : (s.updTeam tid f).mcmds = s.mcmds := rfl
@[simp] theorem State.updTeam_fxs (s : State) (tid : Nat) (f : Team → Team) : (s.updTeam tid f).fxs = s.fxs := rfl
@[simp] theorem State.updTeam_fxWires (s : State) (tid : Nat) (f : Team → Team) : (s.updTeam tid f).fxWires = s.fxWires := rfl
@[simp] theorem State.updTeam_phasers (s : State) (tid : Nat) (f : Team → Team) : (s.updTeam tid f).phasers = s.phasers := rfl
@[simp] theorem State.updTeam_phMsgs (s : State) (tid : Nat) (f : Team → Team) : (s.updTeam tid f).phMsgs = s.phMsgs := rfl
@[simp] theorem State.updTeam_fallow (s : State) (tid : Nat) (f : Team → Team) : (s.updTeam tid f).fallow = s.fallow := rfl
@[simp] theorem State.updTeam_graces (s : State) (tid : Nat) (f : Team → Team) : (s.updTeam tid f).graces = s.graces := rfl
@[simp] theorem State.updTeam_queues (s : State) (tid : Nat) (f : Team → Team) : (s.updTeam tid f).queues = s.queues := rfl
@[simp] theorem State.updTeam_suspends (s : State) (tid : Nat) (f : Team → Team) : (s.updTeam tid f).suspends = s.suspends := rfl
@[simp] theorem State.updTeam_troughs (s : State) (tid : Nat) (f : Team → Team) : (s.updTeam tid f).troughs = s.troughs := rfl
@[simp] theorem State.updTeam_graphs (s : State) (tid : Nat) (f : Team → Team) : (s.updTeam tid f).graphs = s.graphs := rfl
@[simp] theorem State.updTeam_events (s : State) (tid : Nat) (f : Team → Team) : (s.updTeam tid f).events = s.events := rfl
@[simp] theorem State.updTeam_ctxGen (s : State) (tid : Nat) (f : Team → Team) : (s.updTeam tid f).ctxGen = s.ctxGen := rfl
@[simp] theorem State.updTeam_preemptAt (s : State) (tid : Nat) (f : Team → Team) : (s.updTeam tid f).preemptAt = s.preemptAt := rfl
@[simp] theorem State.updTeam_preempts (s : State) (tid : Nat) (f : Team → Team) : (s.updTeam tid f).preempts = s.preempts := rfl
@[simp] theorem State.updTeam_ended (s : State) (tid : Nat) (f : Team → Team) : (s.updTeam tid f).ended = s.ended := rfl
@[simp] theorem State.updTeam_tbufs (s : State) (tid : Nat) (f : Team → Team) : (s.updTeam tid f).tbufs = s.tbufs := rfl
@[simp] theorem State.updTeam_traces (s : State) (tid : Nat) (f : Team → Team) : (s.updTeam tid f).traces = s.traces := rfl
@[simp] theorem State.updTeam_trial (s : State) (tid : Nat) (f : Team → Team) : (s.updTeam tid f).trial = s.trial := rfl
@[simp] theorem State.updTeam_stops (s : State) (tid : Nat) (f : Team → Team) : (s.updTeam tid f).stops = s.stops := rfl
@[simp] theorem State.updTeam_boot (s : State) (tid : Nat) (f : Team → Team) : (s.updTeam tid f).boot = s.boot := rfl
@[simp] theorem State.updTeam_ckpt (s : State) (tid : Nat) (f : Team → Team) : (s.updTeam tid f).ckpt = s.ckpt := rfl
@[simp] theorem State.updTeam_ckptWait (s : State) (tid : Nat) (f : Team → Team) : (s.updTeam tid f).ckptWait = s.ckptWait := rfl
@[simp] theorem State.updTeam_ras (s : State) (tid : Nat) (f : Team → Team) : (s.updTeam tid f).ras = s.ras := rfl
@[simp] theorem State.updTeam_power (s : State) (tid : Nat) (f : Team → Team) : (s.updTeam tid f).power = s.power := rfl

-- ## `setPart`

@[simp] theorem State.setPart_tick (s : State) (p : Nat) (x : PartSt) : (s.setPart p x).tick = s.tick := rfl
@[simp] theorem State.setPart_agenda (s : State) (p : Nat) (x : PartSt) : (s.setPart p x).agenda = s.agenda := rfl
@[simp] theorem State.setPart_ev (s : State) (p : Nat) (x : PartSt) : (s.setPart p x).ev = s.ev := rfl
@[simp] theorem State.setPart_cur (s : State) (p : Nat) (x : PartSt) : (s.setPart p x).cur = s.cur := rfl
@[simp] theorem State.setPart_curFx (s : State) (p : Nat) (x : PartSt) : (s.setPart p x).curFx = s.curFx := rfl
@[simp] theorem State.setPart_curDie (s : State) (p : Nat) (x : PartSt) : (s.setPart p x).curDie = s.curDie := rfl
@[simp] theorem State.setPart_nextId (s : State) (p : Nat) (x : PartSt) : (s.setPart p x).nextId = s.nextId := rfl
@[simp] theorem State.setPart_now (s : State) (p : Nat) (x : PartSt) : (s.setPart p x).now = s.now := rfl
@[simp] theorem State.setPart_timeBase (s : State) (p : Nat) (x : PartSt) : (s.setPart p x).timeBase = s.timeBase := rfl
@[simp] theorem State.setPart_mmio (s : State) (p : Nat) (x : PartSt) : (s.setPart p x).mmio = s.mmio := rfl
@[simp] theorem State.setPart_mem (s : State) (p : Nat) (x : PartSt) : (s.setPart p x).mem = s.mem := rfl
@[simp] theorem State.setPart_burst (s : State) (p : Nat) (x : PartSt) : (s.setPart p x).burst = s.burst := rfl
@[simp] theorem State.setPart_poison (s : State) (p : Nat) (x : PartSt) : (s.setPart p x).poison = s.poison := rfl
@[simp] theorem State.setPart_stale (s : State) (p : Nat) (x : PartSt) : (s.setPart p x).stale = s.stale := rfl
@[simp] theorem State.setPart_keySlots (s : State) (p : Nat) (x : PartSt) : (s.setPart p x).keySlots = s.keySlots := rfl
@[simp] theorem State.setPart_keyLoad (s : State) (p : Nat) (x : PartSt) : (s.setPart p x).keyLoad = s.keyLoad := rfl
@[simp] theorem State.setPart_removedPch (s : State) (p : Nat) (x : PartSt) : (s.setPart p x).removedPch = s.removedPch := rfl
@[simp] theorem State.setPart_retiredRows (s : State) (p : Nat) (x : PartSt) : (s.setPart p x).retiredRows = s.retiredRows := rfl
@[simp] theorem State.setPart_removedUnits (s : State) (p : Nat) (x : PartSt) : (s.setPart p x).removedUnits = s.removedUnits := rfl
@[simp] theorem State.setPart_cores (s : State) (p : Nat) (x : PartSt) : (s.setPart p x).cores = s.cores := rfl
@[simp] theorem State.setPart_clusters (s : State) (p : Nat) (x : PartSt) : (s.setPart p x).clusters = s.clusters := rfl
@[simp] theorem State.setPart_slices (s : State) (p : Nat) (x : PartSt) : (s.setPart p x).slices = s.slices := rfl
@[simp] theorem State.setPart_engTlb (s : State) (p : Nat) (x : PartSt) : (s.setPart p x).engTlb = s.engTlb := rfl
@[simp] theorem State.setPart_walks (s : State) (p : Nat) (x : PartSt) : (s.setPart p x).walks = s.walks := rfl
@[simp] theorem State.setPart_invq (s : State) (p : Nat) (x : PartSt) : (s.setPart p x).invq = s.invq := rfl
@[simp] theorem State.setPart_invHeld (s : State) (p : Nat) (x : PartSt) : (s.setPart p x).invHeld = s.invHeld := rfl
@[simp] theorem State.setPart_buckets (s : State) (p : Nat) (x : PartSt) : (s.setPart p x).buckets = s.buckets := rfl
@[simp] theorem State.setPart_traffic (s : State) (p : Nat) (x : PartSt) : (s.setPart p x).traffic = s.traffic := rfl
@[simp] theorem State.setPart_posts (s : State) (p : Nat) (x : PartSt) : (s.setPart p x).posts = s.posts := rfl
@[simp] theorem State.setPart_pchs (s : State) (p : Nat) (x : PartSt) : (s.setPart p x).pchs = s.pchs := rfl
@[simp] theorem State.setPart_hotWant (s : State) (p : Nat) (x : PartSt) : (s.setPart p x).hotWant = s.hotWant := rfl
@[simp] theorem State.setPart_groups (s : State) (p : Nat) (x : PartSt) : (s.setPart p x).groups = s.groups := rfl
@[simp] theorem State.setPart_teams (s : State) (p : Nat) (x : PartSt) : (s.setPart p x).teams = s.teams := rfl
@[simp] theorem State.setPart_grids (s : State) (p : Nat) (x : PartSt) : (s.setPart p x).grids = s.grids := rfl
@[simp] theorem State.setPart_saved (s : State) (p : Nat) (x : PartSt) : (s.setPart p x).saved = s.saved := rfl
@[simp] theorem State.setPart_gridNum (s : State) (p : Nat) (x : PartSt) : (s.setPart p x).gridNum = s.gridNum := rfl
@[simp] theorem State.setPart_susp (s : State) (p : Nat) (x : PartSt) : (s.setPart p x).susp = s.susp := rfl
@[simp] theorem State.setPart_endings (s : State) (p : Nat) (x : PartSt) : (s.setPart p x).endings = s.endings := rfl
@[simp] theorem State.setPart_engines (s : State) (p : Nat) (x : PartSt) : (s.setPart p x).engines = s.engines := rfl
@[simp] theorem State.setPart_ecmds (s : State) (p : Nat) (x : PartSt) : (s.setPart p x).ecmds = s.ecmds := rfl
@[simp] theorem State.setPart_remotes (s : State) (p : Nat) (x : PartSt) : (s.setPart p x).remotes = s.remotes := rfl
@[simp] theorem State.setPart_wireOut (s : State) (p : Nat) (x : PartSt) : (s.setPart p x).wireOut = s.wireOut := rfl
@[simp] theorem State.setPart_replies (s : State) (p : Nat) (x : PartSt) : (s.setPart p x).replies = s.replies := rfl
@[simp] theorem State.setPart_mcmds (s : State) (p : Nat) (x : PartSt) : (s.setPart p x).mcmds = s.mcmds := rfl
@[simp] theorem State.setPart_fxs (s : State) (p : Nat) (x : PartSt) : (s.setPart p x).fxs = s.fxs := rfl
@[simp] theorem State.setPart_fxWires (s : State) (p : Nat) (x : PartSt) : (s.setPart p x).fxWires = s.fxWires := rfl
@[simp] theorem State.setPart_phasers (s : State) (p : Nat) (x : PartSt) : (s.setPart p x).phasers = s.phasers := rfl
@[simp] theorem State.setPart_phMsgs (s : State) (p : Nat) (x : PartSt) : (s.setPart p x).phMsgs = s.phMsgs := rfl
@[simp] theorem State.setPart_fallow (s : State) (p : Nat) (x : PartSt) : (s.setPart p x).fallow = s.fallow := rfl
@[simp] theorem State.setPart_graces (s : State) (p : Nat) (x : PartSt) : (s.setPart p x).graces = s.graces := rfl
@[simp] theorem State.setPart_queues (s : State) (p : Nat) (x : PartSt) : (s.setPart p x).queues = s.queues := rfl
@[simp] theorem State.setPart_suspends (s : State) (p : Nat) (x : PartSt) : (s.setPart p x).suspends = s.suspends := rfl
@[simp] theorem State.setPart_troughs (s : State) (p : Nat) (x : PartSt) : (s.setPart p x).troughs = s.troughs := rfl
@[simp] theorem State.setPart_graphs (s : State) (p : Nat) (x : PartSt) : (s.setPart p x).graphs = s.graphs := rfl
@[simp] theorem State.setPart_events (s : State) (p : Nat) (x : PartSt) : (s.setPart p x).events = s.events := rfl
@[simp] theorem State.setPart_ctxGen (s : State) (p : Nat) (x : PartSt) : (s.setPart p x).ctxGen = s.ctxGen := rfl
@[simp] theorem State.setPart_preemptAt (s : State) (p : Nat) (x : PartSt) : (s.setPart p x).preemptAt = s.preemptAt := rfl
@[simp] theorem State.setPart_preempts (s : State) (p : Nat) (x : PartSt) : (s.setPart p x).preempts = s.preempts := rfl
@[simp] theorem State.setPart_ended (s : State) (p : Nat) (x : PartSt) : (s.setPart p x).ended = s.ended := rfl
@[simp] theorem State.setPart_tbufs (s : State) (p : Nat) (x : PartSt) : (s.setPart p x).tbufs = s.tbufs := rfl
@[simp] theorem State.setPart_traces (s : State) (p : Nat) (x : PartSt) : (s.setPart p x).traces = s.traces := rfl
@[simp] theorem State.setPart_trial (s : State) (p : Nat) (x : PartSt) : (s.setPart p x).trial = s.trial := rfl
@[simp] theorem State.setPart_stops (s : State) (p : Nat) (x : PartSt) : (s.setPart p x).stops = s.stops := rfl
@[simp] theorem State.setPart_boot (s : State) (p : Nat) (x : PartSt) : (s.setPart p x).boot = s.boot := rfl
@[simp] theorem State.setPart_ckpt (s : State) (p : Nat) (x : PartSt) : (s.setPart p x).ckpt = s.ckpt := rfl
@[simp] theorem State.setPart_ckptWait (s : State) (p : Nat) (x : PartSt) : (s.setPart p x).ckptWait = s.ckptWait := rfl
@[simp] theorem State.setPart_ras (s : State) (p : Nat) (x : PartSt) : (s.setPart p x).ras = s.ras := rfl
@[simp] theorem State.setPart_power (s : State) (p : Nat) (x : PartSt) : (s.setPart p x).power = s.power := rfl

-- ## `setCore`

@[simp] theorem State.setCore_tick (s : State) (c : Nat) (x : CoreSt) : (s.setCore c x).tick = s.tick := rfl
@[simp] theorem State.setCore_agenda (s : State) (c : Nat) (x : CoreSt) : (s.setCore c x).agenda = s.agenda := rfl
@[simp] theorem State.setCore_ev (s : State) (c : Nat) (x : CoreSt) : (s.setCore c x).ev = s.ev := rfl
@[simp] theorem State.setCore_cur (s : State) (c : Nat) (x : CoreSt) : (s.setCore c x).cur = s.cur := rfl
@[simp] theorem State.setCore_curFx (s : State) (c : Nat) (x : CoreSt) : (s.setCore c x).curFx = s.curFx := rfl
@[simp] theorem State.setCore_curDie (s : State) (c : Nat) (x : CoreSt) : (s.setCore c x).curDie = s.curDie := rfl
@[simp] theorem State.setCore_nextId (s : State) (c : Nat) (x : CoreSt) : (s.setCore c x).nextId = s.nextId := rfl
@[simp] theorem State.setCore_now (s : State) (c : Nat) (x : CoreSt) : (s.setCore c x).now = s.now := rfl
@[simp] theorem State.setCore_timeBase (s : State) (c : Nat) (x : CoreSt) : (s.setCore c x).timeBase = s.timeBase := rfl
@[simp] theorem State.setCore_mmio (s : State) (c : Nat) (x : CoreSt) : (s.setCore c x).mmio = s.mmio := rfl
@[simp] theorem State.setCore_mem (s : State) (c : Nat) (x : CoreSt) : (s.setCore c x).mem = s.mem := rfl
@[simp] theorem State.setCore_burst (s : State) (c : Nat) (x : CoreSt) : (s.setCore c x).burst = s.burst := rfl
@[simp] theorem State.setCore_poison (s : State) (c : Nat) (x : CoreSt) : (s.setCore c x).poison = s.poison := rfl
@[simp] theorem State.setCore_stale (s : State) (c : Nat) (x : CoreSt) : (s.setCore c x).stale = s.stale := rfl
@[simp] theorem State.setCore_keySlots (s : State) (c : Nat) (x : CoreSt) : (s.setCore c x).keySlots = s.keySlots := rfl
@[simp] theorem State.setCore_keyLoad (s : State) (c : Nat) (x : CoreSt) : (s.setCore c x).keyLoad = s.keyLoad := rfl
@[simp] theorem State.setCore_removedPch (s : State) (c : Nat) (x : CoreSt) : (s.setCore c x).removedPch = s.removedPch := rfl
@[simp] theorem State.setCore_retiredRows (s : State) (c : Nat) (x : CoreSt) : (s.setCore c x).retiredRows = s.retiredRows := rfl
@[simp] theorem State.setCore_removedUnits (s : State) (c : Nat) (x : CoreSt) : (s.setCore c x).removedUnits = s.removedUnits := rfl
@[simp] theorem State.setCore_clusters (s : State) (c : Nat) (x : CoreSt) : (s.setCore c x).clusters = s.clusters := rfl
@[simp] theorem State.setCore_slices (s : State) (c : Nat) (x : CoreSt) : (s.setCore c x).slices = s.slices := rfl
@[simp] theorem State.setCore_engTlb (s : State) (c : Nat) (x : CoreSt) : (s.setCore c x).engTlb = s.engTlb := rfl
@[simp] theorem State.setCore_walks (s : State) (c : Nat) (x : CoreSt) : (s.setCore c x).walks = s.walks := rfl
@[simp] theorem State.setCore_invq (s : State) (c : Nat) (x : CoreSt) : (s.setCore c x).invq = s.invq := rfl
@[simp] theorem State.setCore_invHeld (s : State) (c : Nat) (x : CoreSt) : (s.setCore c x).invHeld = s.invHeld := rfl
@[simp] theorem State.setCore_buckets (s : State) (c : Nat) (x : CoreSt) : (s.setCore c x).buckets = s.buckets := rfl
@[simp] theorem State.setCore_traffic (s : State) (c : Nat) (x : CoreSt) : (s.setCore c x).traffic = s.traffic := rfl
@[simp] theorem State.setCore_posts (s : State) (c : Nat) (x : CoreSt) : (s.setCore c x).posts = s.posts := rfl
@[simp] theorem State.setCore_pchs (s : State) (c : Nat) (x : CoreSt) : (s.setCore c x).pchs = s.pchs := rfl
@[simp] theorem State.setCore_hotWant (s : State) (c : Nat) (x : CoreSt) : (s.setCore c x).hotWant = s.hotWant := rfl
@[simp] theorem State.setCore_groups (s : State) (c : Nat) (x : CoreSt) : (s.setCore c x).groups = s.groups := rfl
@[simp] theorem State.setCore_teams (s : State) (c : Nat) (x : CoreSt) : (s.setCore c x).teams = s.teams := rfl
@[simp] theorem State.setCore_grids (s : State) (c : Nat) (x : CoreSt) : (s.setCore c x).grids = s.grids := rfl
@[simp] theorem State.setCore_parts (s : State) (c : Nat) (x : CoreSt) : (s.setCore c x).parts = s.parts := rfl
@[simp] theorem State.setCore_saved (s : State) (c : Nat) (x : CoreSt) : (s.setCore c x).saved = s.saved := rfl
@[simp] theorem State.setCore_gridNum (s : State) (c : Nat) (x : CoreSt) : (s.setCore c x).gridNum = s.gridNum := rfl
@[simp] theorem State.setCore_susp (s : State) (c : Nat) (x : CoreSt) : (s.setCore c x).susp = s.susp := rfl
@[simp] theorem State.setCore_endings (s : State) (c : Nat) (x : CoreSt) : (s.setCore c x).endings = s.endings := rfl
@[simp] theorem State.setCore_engines (s : State) (c : Nat) (x : CoreSt) : (s.setCore c x).engines = s.engines := rfl
@[simp] theorem State.setCore_ecmds (s : State) (c : Nat) (x : CoreSt) : (s.setCore c x).ecmds = s.ecmds := rfl
@[simp] theorem State.setCore_remotes (s : State) (c : Nat) (x : CoreSt) : (s.setCore c x).remotes = s.remotes := rfl
@[simp] theorem State.setCore_wireOut (s : State) (c : Nat) (x : CoreSt) : (s.setCore c x).wireOut = s.wireOut := rfl
@[simp] theorem State.setCore_replies (s : State) (c : Nat) (x : CoreSt) : (s.setCore c x).replies = s.replies := rfl
@[simp] theorem State.setCore_mcmds (s : State) (c : Nat) (x : CoreSt) : (s.setCore c x).mcmds = s.mcmds := rfl
@[simp] theorem State.setCore_fxs (s : State) (c : Nat) (x : CoreSt) : (s.setCore c x).fxs = s.fxs := rfl
@[simp] theorem State.setCore_fxWires (s : State) (c : Nat) (x : CoreSt) : (s.setCore c x).fxWires = s.fxWires := rfl
@[simp] theorem State.setCore_phasers (s : State) (c : Nat) (x : CoreSt) : (s.setCore c x).phasers = s.phasers := rfl
@[simp] theorem State.setCore_phMsgs (s : State) (c : Nat) (x : CoreSt) : (s.setCore c x).phMsgs = s.phMsgs := rfl
@[simp] theorem State.setCore_fallow (s : State) (c : Nat) (x : CoreSt) : (s.setCore c x).fallow = s.fallow := rfl
@[simp] theorem State.setCore_graces (s : State) (c : Nat) (x : CoreSt) : (s.setCore c x).graces = s.graces := rfl
@[simp] theorem State.setCore_queues (s : State) (c : Nat) (x : CoreSt) : (s.setCore c x).queues = s.queues := rfl
@[simp] theorem State.setCore_suspends (s : State) (c : Nat) (x : CoreSt) : (s.setCore c x).suspends = s.suspends := rfl
@[simp] theorem State.setCore_troughs (s : State) (c : Nat) (x : CoreSt) : (s.setCore c x).troughs = s.troughs := rfl
@[simp] theorem State.setCore_graphs (s : State) (c : Nat) (x : CoreSt) : (s.setCore c x).graphs = s.graphs := rfl
@[simp] theorem State.setCore_events (s : State) (c : Nat) (x : CoreSt) : (s.setCore c x).events = s.events := rfl
@[simp] theorem State.setCore_ctxGen (s : State) (c : Nat) (x : CoreSt) : (s.setCore c x).ctxGen = s.ctxGen := rfl
@[simp] theorem State.setCore_preemptAt (s : State) (c : Nat) (x : CoreSt) : (s.setCore c x).preemptAt = s.preemptAt := rfl
@[simp] theorem State.setCore_preempts (s : State) (c : Nat) (x : CoreSt) : (s.setCore c x).preempts = s.preempts := rfl
@[simp] theorem State.setCore_ended (s : State) (c : Nat) (x : CoreSt) : (s.setCore c x).ended = s.ended := rfl
@[simp] theorem State.setCore_tbufs (s : State) (c : Nat) (x : CoreSt) : (s.setCore c x).tbufs = s.tbufs := rfl
@[simp] theorem State.setCore_traces (s : State) (c : Nat) (x : CoreSt) : (s.setCore c x).traces = s.traces := rfl
@[simp] theorem State.setCore_trial (s : State) (c : Nat) (x : CoreSt) : (s.setCore c x).trial = s.trial := rfl
@[simp] theorem State.setCore_stops (s : State) (c : Nat) (x : CoreSt) : (s.setCore c x).stops = s.stops := rfl
@[simp] theorem State.setCore_boot (s : State) (c : Nat) (x : CoreSt) : (s.setCore c x).boot = s.boot := rfl
@[simp] theorem State.setCore_ckpt (s : State) (c : Nat) (x : CoreSt) : (s.setCore c x).ckpt = s.ckpt := rfl
@[simp] theorem State.setCore_ckptWait (s : State) (c : Nat) (x : CoreSt) : (s.setCore c x).ckptWait = s.ckptWait := rfl
@[simp] theorem State.setCore_ras (s : State) (c : Nat) (x : CoreSt) : (s.setCore c x).ras = s.ras := rfl
@[simp] theorem State.setCore_power (s : State) (c : Nat) (x : CoreSt) : (s.setCore c x).power = s.power := rfl

-- ## `setClus`

@[simp] theorem State.setClus_tick (s : State) (c : Nat) (x : ClusterSt) : (s.setClus c x).tick = s.tick := rfl
@[simp] theorem State.setClus_agenda (s : State) (c : Nat) (x : ClusterSt) : (s.setClus c x).agenda = s.agenda := rfl
@[simp] theorem State.setClus_ev (s : State) (c : Nat) (x : ClusterSt) : (s.setClus c x).ev = s.ev := rfl
@[simp] theorem State.setClus_cur (s : State) (c : Nat) (x : ClusterSt) : (s.setClus c x).cur = s.cur := rfl
@[simp] theorem State.setClus_curFx (s : State) (c : Nat) (x : ClusterSt) : (s.setClus c x).curFx = s.curFx := rfl
@[simp] theorem State.setClus_curDie (s : State) (c : Nat) (x : ClusterSt) : (s.setClus c x).curDie = s.curDie := rfl
@[simp] theorem State.setClus_nextId (s : State) (c : Nat) (x : ClusterSt) : (s.setClus c x).nextId = s.nextId := rfl
@[simp] theorem State.setClus_now (s : State) (c : Nat) (x : ClusterSt) : (s.setClus c x).now = s.now := rfl
@[simp] theorem State.setClus_timeBase (s : State) (c : Nat) (x : ClusterSt) : (s.setClus c x).timeBase = s.timeBase := rfl
@[simp] theorem State.setClus_mmio (s : State) (c : Nat) (x : ClusterSt) : (s.setClus c x).mmio = s.mmio := rfl
@[simp] theorem State.setClus_mem (s : State) (c : Nat) (x : ClusterSt) : (s.setClus c x).mem = s.mem := rfl
@[simp] theorem State.setClus_burst (s : State) (c : Nat) (x : ClusterSt) : (s.setClus c x).burst = s.burst := rfl
@[simp] theorem State.setClus_poison (s : State) (c : Nat) (x : ClusterSt) : (s.setClus c x).poison = s.poison := rfl
@[simp] theorem State.setClus_stale (s : State) (c : Nat) (x : ClusterSt) : (s.setClus c x).stale = s.stale := rfl
@[simp] theorem State.setClus_keySlots (s : State) (c : Nat) (x : ClusterSt) : (s.setClus c x).keySlots = s.keySlots := rfl
@[simp] theorem State.setClus_keyLoad (s : State) (c : Nat) (x : ClusterSt) : (s.setClus c x).keyLoad = s.keyLoad := rfl
@[simp] theorem State.setClus_removedPch (s : State) (c : Nat) (x : ClusterSt) : (s.setClus c x).removedPch = s.removedPch := rfl
@[simp] theorem State.setClus_retiredRows (s : State) (c : Nat) (x : ClusterSt) : (s.setClus c x).retiredRows = s.retiredRows := rfl
@[simp] theorem State.setClus_removedUnits (s : State) (c : Nat) (x : ClusterSt) : (s.setClus c x).removedUnits = s.removedUnits := rfl
@[simp] theorem State.setClus_cores (s : State) (c : Nat) (x : ClusterSt) : (s.setClus c x).cores = s.cores := rfl
@[simp] theorem State.setClus_slices (s : State) (c : Nat) (x : ClusterSt) : (s.setClus c x).slices = s.slices := rfl
@[simp] theorem State.setClus_engTlb (s : State) (c : Nat) (x : ClusterSt) : (s.setClus c x).engTlb = s.engTlb := rfl
@[simp] theorem State.setClus_walks (s : State) (c : Nat) (x : ClusterSt) : (s.setClus c x).walks = s.walks := rfl
@[simp] theorem State.setClus_invq (s : State) (c : Nat) (x : ClusterSt) : (s.setClus c x).invq = s.invq := rfl
@[simp] theorem State.setClus_invHeld (s : State) (c : Nat) (x : ClusterSt) : (s.setClus c x).invHeld = s.invHeld := rfl
@[simp] theorem State.setClus_buckets (s : State) (c : Nat) (x : ClusterSt) : (s.setClus c x).buckets = s.buckets := rfl
@[simp] theorem State.setClus_traffic (s : State) (c : Nat) (x : ClusterSt) : (s.setClus c x).traffic = s.traffic := rfl
@[simp] theorem State.setClus_posts (s : State) (c : Nat) (x : ClusterSt) : (s.setClus c x).posts = s.posts := rfl
@[simp] theorem State.setClus_pchs (s : State) (c : Nat) (x : ClusterSt) : (s.setClus c x).pchs = s.pchs := rfl
@[simp] theorem State.setClus_hotWant (s : State) (c : Nat) (x : ClusterSt) : (s.setClus c x).hotWant = s.hotWant := rfl
@[simp] theorem State.setClus_groups (s : State) (c : Nat) (x : ClusterSt) : (s.setClus c x).groups = s.groups := rfl
@[simp] theorem State.setClus_teams (s : State) (c : Nat) (x : ClusterSt) : (s.setClus c x).teams = s.teams := rfl
@[simp] theorem State.setClus_grids (s : State) (c : Nat) (x : ClusterSt) : (s.setClus c x).grids = s.grids := rfl
@[simp] theorem State.setClus_parts (s : State) (c : Nat) (x : ClusterSt) : (s.setClus c x).parts = s.parts := rfl
@[simp] theorem State.setClus_saved (s : State) (c : Nat) (x : ClusterSt) : (s.setClus c x).saved = s.saved := rfl
@[simp] theorem State.setClus_gridNum (s : State) (c : Nat) (x : ClusterSt) : (s.setClus c x).gridNum = s.gridNum := rfl
@[simp] theorem State.setClus_susp (s : State) (c : Nat) (x : ClusterSt) : (s.setClus c x).susp = s.susp := rfl
@[simp] theorem State.setClus_endings (s : State) (c : Nat) (x : ClusterSt) : (s.setClus c x).endings = s.endings := rfl
@[simp] theorem State.setClus_engines (s : State) (c : Nat) (x : ClusterSt) : (s.setClus c x).engines = s.engines := rfl
@[simp] theorem State.setClus_ecmds (s : State) (c : Nat) (x : ClusterSt) : (s.setClus c x).ecmds = s.ecmds := rfl
@[simp] theorem State.setClus_remotes (s : State) (c : Nat) (x : ClusterSt) : (s.setClus c x).remotes = s.remotes := rfl
@[simp] theorem State.setClus_wireOut (s : State) (c : Nat) (x : ClusterSt) : (s.setClus c x).wireOut = s.wireOut := rfl
@[simp] theorem State.setClus_replies (s : State) (c : Nat) (x : ClusterSt) : (s.setClus c x).replies = s.replies := rfl
@[simp] theorem State.setClus_mcmds (s : State) (c : Nat) (x : ClusterSt) : (s.setClus c x).mcmds = s.mcmds := rfl
@[simp] theorem State.setClus_fxs (s : State) (c : Nat) (x : ClusterSt) : (s.setClus c x).fxs = s.fxs := rfl
@[simp] theorem State.setClus_fxWires (s : State) (c : Nat) (x : ClusterSt) : (s.setClus c x).fxWires = s.fxWires := rfl
@[simp] theorem State.setClus_phasers (s : State) (c : Nat) (x : ClusterSt) : (s.setClus c x).phasers = s.phasers := rfl
@[simp] theorem State.setClus_phMsgs (s : State) (c : Nat) (x : ClusterSt) : (s.setClus c x).phMsgs = s.phMsgs := rfl
@[simp] theorem State.setClus_fallow (s : State) (c : Nat) (x : ClusterSt) : (s.setClus c x).fallow = s.fallow := rfl
@[simp] theorem State.setClus_graces (s : State) (c : Nat) (x : ClusterSt) : (s.setClus c x).graces = s.graces := rfl
@[simp] theorem State.setClus_queues (s : State) (c : Nat) (x : ClusterSt) : (s.setClus c x).queues = s.queues := rfl
@[simp] theorem State.setClus_suspends (s : State) (c : Nat) (x : ClusterSt) : (s.setClus c x).suspends = s.suspends := rfl
@[simp] theorem State.setClus_troughs (s : State) (c : Nat) (x : ClusterSt) : (s.setClus c x).troughs = s.troughs := rfl
@[simp] theorem State.setClus_graphs (s : State) (c : Nat) (x : ClusterSt) : (s.setClus c x).graphs = s.graphs := rfl
@[simp] theorem State.setClus_events (s : State) (c : Nat) (x : ClusterSt) : (s.setClus c x).events = s.events := rfl
@[simp] theorem State.setClus_ctxGen (s : State) (c : Nat) (x : ClusterSt) : (s.setClus c x).ctxGen = s.ctxGen := rfl
@[simp] theorem State.setClus_preemptAt (s : State) (c : Nat) (x : ClusterSt) : (s.setClus c x).preemptAt = s.preemptAt := rfl
@[simp] theorem State.setClus_preempts (s : State) (c : Nat) (x : ClusterSt) : (s.setClus c x).preempts = s.preempts := rfl
@[simp] theorem State.setClus_ended (s : State) (c : Nat) (x : ClusterSt) : (s.setClus c x).ended = s.ended := rfl
@[simp] theorem State.setClus_tbufs (s : State) (c : Nat) (x : ClusterSt) : (s.setClus c x).tbufs = s.tbufs := rfl
@[simp] theorem State.setClus_traces (s : State) (c : Nat) (x : ClusterSt) : (s.setClus c x).traces = s.traces := rfl
@[simp] theorem State.setClus_trial (s : State) (c : Nat) (x : ClusterSt) : (s.setClus c x).trial = s.trial := rfl
@[simp] theorem State.setClus_stops (s : State) (c : Nat) (x : ClusterSt) : (s.setClus c x).stops = s.stops := rfl
@[simp] theorem State.setClus_boot (s : State) (c : Nat) (x : ClusterSt) : (s.setClus c x).boot = s.boot := rfl
@[simp] theorem State.setClus_ckpt (s : State) (c : Nat) (x : ClusterSt) : (s.setClus c x).ckpt = s.ckpt := rfl
@[simp] theorem State.setClus_ckptWait (s : State) (c : Nat) (x : ClusterSt) : (s.setClus c x).ckptWait = s.ckptWait := rfl
@[simp] theorem State.setClus_ras (s : State) (c : Nat) (x : ClusterSt) : (s.setClus c x).ras = s.ras := rfl
@[simp] theorem State.setClus_power (s : State) (c : Nat) (x : ClusterSt) : (s.setClus c x).power = s.power := rfl

-- ## `setPhaser`

@[simp] theorem State.setPhaser_tick (s : State) (id : Nat) (p : Phaser) : (s.setPhaser id p).tick = s.tick := rfl
@[simp] theorem State.setPhaser_agenda (s : State) (id : Nat) (p : Phaser) : (s.setPhaser id p).agenda = s.agenda := rfl
@[simp] theorem State.setPhaser_ev (s : State) (id : Nat) (p : Phaser) : (s.setPhaser id p).ev = s.ev := rfl
@[simp] theorem State.setPhaser_cur (s : State) (id : Nat) (p : Phaser) : (s.setPhaser id p).cur = s.cur := rfl
@[simp] theorem State.setPhaser_curFx (s : State) (id : Nat) (p : Phaser) : (s.setPhaser id p).curFx = s.curFx := rfl
@[simp] theorem State.setPhaser_curDie (s : State) (id : Nat) (p : Phaser) : (s.setPhaser id p).curDie = s.curDie := rfl
@[simp] theorem State.setPhaser_nextId (s : State) (id : Nat) (p : Phaser) : (s.setPhaser id p).nextId = s.nextId := rfl
@[simp] theorem State.setPhaser_now (s : State) (id : Nat) (p : Phaser) : (s.setPhaser id p).now = s.now := rfl
@[simp] theorem State.setPhaser_timeBase (s : State) (id : Nat) (p : Phaser) : (s.setPhaser id p).timeBase = s.timeBase := rfl
@[simp] theorem State.setPhaser_mmio (s : State) (id : Nat) (p : Phaser) : (s.setPhaser id p).mmio = s.mmio := rfl
@[simp] theorem State.setPhaser_mem (s : State) (id : Nat) (p : Phaser) : (s.setPhaser id p).mem = s.mem := rfl
@[simp] theorem State.setPhaser_burst (s : State) (id : Nat) (p : Phaser) : (s.setPhaser id p).burst = s.burst := rfl
@[simp] theorem State.setPhaser_poison (s : State) (id : Nat) (p : Phaser) : (s.setPhaser id p).poison = s.poison := rfl
@[simp] theorem State.setPhaser_stale (s : State) (id : Nat) (p : Phaser) : (s.setPhaser id p).stale = s.stale := rfl
@[simp] theorem State.setPhaser_keySlots (s : State) (id : Nat) (p : Phaser) : (s.setPhaser id p).keySlots = s.keySlots := rfl
@[simp] theorem State.setPhaser_keyLoad (s : State) (id : Nat) (p : Phaser) : (s.setPhaser id p).keyLoad = s.keyLoad := rfl
@[simp] theorem State.setPhaser_removedPch (s : State) (id : Nat) (p : Phaser) : (s.setPhaser id p).removedPch = s.removedPch := rfl
@[simp] theorem State.setPhaser_retiredRows (s : State) (id : Nat) (p : Phaser) : (s.setPhaser id p).retiredRows = s.retiredRows := rfl
@[simp] theorem State.setPhaser_removedUnits (s : State) (id : Nat) (p : Phaser) : (s.setPhaser id p).removedUnits = s.removedUnits := rfl
@[simp] theorem State.setPhaser_cores (s : State) (id : Nat) (p : Phaser) : (s.setPhaser id p).cores = s.cores := rfl
@[simp] theorem State.setPhaser_clusters (s : State) (id : Nat) (p : Phaser) : (s.setPhaser id p).clusters = s.clusters := rfl
@[simp] theorem State.setPhaser_slices (s : State) (id : Nat) (p : Phaser) : (s.setPhaser id p).slices = s.slices := rfl
@[simp] theorem State.setPhaser_engTlb (s : State) (id : Nat) (p : Phaser) : (s.setPhaser id p).engTlb = s.engTlb := rfl
@[simp] theorem State.setPhaser_walks (s : State) (id : Nat) (p : Phaser) : (s.setPhaser id p).walks = s.walks := rfl
@[simp] theorem State.setPhaser_invq (s : State) (id : Nat) (p : Phaser) : (s.setPhaser id p).invq = s.invq := rfl
@[simp] theorem State.setPhaser_invHeld (s : State) (id : Nat) (p : Phaser) : (s.setPhaser id p).invHeld = s.invHeld := rfl
@[simp] theorem State.setPhaser_buckets (s : State) (id : Nat) (p : Phaser) : (s.setPhaser id p).buckets = s.buckets := rfl
@[simp] theorem State.setPhaser_traffic (s : State) (id : Nat) (p : Phaser) : (s.setPhaser id p).traffic = s.traffic := rfl
@[simp] theorem State.setPhaser_posts (s : State) (id : Nat) (p : Phaser) : (s.setPhaser id p).posts = s.posts := rfl
@[simp] theorem State.setPhaser_pchs (s : State) (id : Nat) (p : Phaser) : (s.setPhaser id p).pchs = s.pchs := rfl
@[simp] theorem State.setPhaser_hotWant (s : State) (id : Nat) (p : Phaser) : (s.setPhaser id p).hotWant = s.hotWant := rfl
@[simp] theorem State.setPhaser_groups (s : State) (id : Nat) (p : Phaser) : (s.setPhaser id p).groups = s.groups := rfl
@[simp] theorem State.setPhaser_teams (s : State) (id : Nat) (p : Phaser) : (s.setPhaser id p).teams = s.teams := rfl
@[simp] theorem State.setPhaser_grids (s : State) (id : Nat) (p : Phaser) : (s.setPhaser id p).grids = s.grids := rfl
@[simp] theorem State.setPhaser_parts (s : State) (id : Nat) (p : Phaser) : (s.setPhaser id p).parts = s.parts := rfl
@[simp] theorem State.setPhaser_saved (s : State) (id : Nat) (p : Phaser) : (s.setPhaser id p).saved = s.saved := rfl
@[simp] theorem State.setPhaser_gridNum (s : State) (id : Nat) (p : Phaser) : (s.setPhaser id p).gridNum = s.gridNum := rfl
@[simp] theorem State.setPhaser_susp (s : State) (id : Nat) (p : Phaser) : (s.setPhaser id p).susp = s.susp := rfl
@[simp] theorem State.setPhaser_endings (s : State) (id : Nat) (p : Phaser) : (s.setPhaser id p).endings = s.endings := rfl
@[simp] theorem State.setPhaser_engines (s : State) (id : Nat) (p : Phaser) : (s.setPhaser id p).engines = s.engines := rfl
@[simp] theorem State.setPhaser_ecmds (s : State) (id : Nat) (p : Phaser) : (s.setPhaser id p).ecmds = s.ecmds := rfl
@[simp] theorem State.setPhaser_remotes (s : State) (id : Nat) (p : Phaser) : (s.setPhaser id p).remotes = s.remotes := rfl
@[simp] theorem State.setPhaser_wireOut (s : State) (id : Nat) (p : Phaser) : (s.setPhaser id p).wireOut = s.wireOut := rfl
@[simp] theorem State.setPhaser_replies (s : State) (id : Nat) (p : Phaser) : (s.setPhaser id p).replies = s.replies := rfl
@[simp] theorem State.setPhaser_mcmds (s : State) (id : Nat) (p : Phaser) : (s.setPhaser id p).mcmds = s.mcmds := rfl
@[simp] theorem State.setPhaser_fxs (s : State) (id : Nat) (p : Phaser) : (s.setPhaser id p).fxs = s.fxs := rfl
@[simp] theorem State.setPhaser_fxWires (s : State) (id : Nat) (p : Phaser) : (s.setPhaser id p).fxWires = s.fxWires := rfl
@[simp] theorem State.setPhaser_phMsgs (s : State) (id : Nat) (p : Phaser) : (s.setPhaser id p).phMsgs = s.phMsgs := rfl
@[simp] theorem State.setPhaser_fallow (s : State) (id : Nat) (p : Phaser) : (s.setPhaser id p).fallow = s.fallow := rfl
@[simp] theorem State.setPhaser_graces (s : State) (id : Nat) (p : Phaser) : (s.setPhaser id p).graces = s.graces := rfl
@[simp] theorem State.setPhaser_queues (s : State) (id : Nat) (p : Phaser) : (s.setPhaser id p).queues = s.queues := rfl
@[simp] theorem State.setPhaser_suspends (s : State) (id : Nat) (p : Phaser) : (s.setPhaser id p).suspends = s.suspends := rfl
@[simp] theorem State.setPhaser_troughs (s : State) (id : Nat) (p : Phaser) : (s.setPhaser id p).troughs = s.troughs := rfl
@[simp] theorem State.setPhaser_graphs (s : State) (id : Nat) (p : Phaser) : (s.setPhaser id p).graphs = s.graphs := rfl
@[simp] theorem State.setPhaser_events (s : State) (id : Nat) (p : Phaser) : (s.setPhaser id p).events = s.events := rfl
@[simp] theorem State.setPhaser_ctxGen (s : State) (id : Nat) (p : Phaser) : (s.setPhaser id p).ctxGen = s.ctxGen := rfl
@[simp] theorem State.setPhaser_preemptAt (s : State) (id : Nat) (p : Phaser) : (s.setPhaser id p).preemptAt = s.preemptAt := rfl
@[simp] theorem State.setPhaser_preempts (s : State) (id : Nat) (p : Phaser) : (s.setPhaser id p).preempts = s.preempts := rfl
@[simp] theorem State.setPhaser_ended (s : State) (id : Nat) (p : Phaser) : (s.setPhaser id p).ended = s.ended := rfl
@[simp] theorem State.setPhaser_tbufs (s : State) (id : Nat) (p : Phaser) : (s.setPhaser id p).tbufs = s.tbufs := rfl
@[simp] theorem State.setPhaser_traces (s : State) (id : Nat) (p : Phaser) : (s.setPhaser id p).traces = s.traces := rfl
@[simp] theorem State.setPhaser_trial (s : State) (id : Nat) (p : Phaser) : (s.setPhaser id p).trial = s.trial := rfl
@[simp] theorem State.setPhaser_stops (s : State) (id : Nat) (p : Phaser) : (s.setPhaser id p).stops = s.stops := rfl
@[simp] theorem State.setPhaser_boot (s : State) (id : Nat) (p : Phaser) : (s.setPhaser id p).boot = s.boot := rfl
@[simp] theorem State.setPhaser_ckpt (s : State) (id : Nat) (p : Phaser) : (s.setPhaser id p).ckpt = s.ckpt := rfl
@[simp] theorem State.setPhaser_ckptWait (s : State) (id : Nat) (p : Phaser) : (s.setPhaser id p).ckptWait = s.ckptWait := rfl
@[simp] theorem State.setPhaser_ras (s : State) (id : Nat) (p : Phaser) : (s.setPhaser id p).ras = s.ras := rfl
@[simp] theorem State.setPhaser_power (s : State) (id : Nat) (p : Phaser) : (s.setPhaser id p).power = s.power := rfl

-- ## `setTrough`

@[simp] theorem State.setTrough_tick (s : State) (t : Nat) (x : TroughSt) : (s.setTrough t x).tick = s.tick := rfl
@[simp] theorem State.setTrough_agenda (s : State) (t : Nat) (x : TroughSt) : (s.setTrough t x).agenda = s.agenda := rfl
@[simp] theorem State.setTrough_ev (s : State) (t : Nat) (x : TroughSt) : (s.setTrough t x).ev = s.ev := rfl
@[simp] theorem State.setTrough_cur (s : State) (t : Nat) (x : TroughSt) : (s.setTrough t x).cur = s.cur := rfl
@[simp] theorem State.setTrough_curFx (s : State) (t : Nat) (x : TroughSt) : (s.setTrough t x).curFx = s.curFx := rfl
@[simp] theorem State.setTrough_curDie (s : State) (t : Nat) (x : TroughSt) : (s.setTrough t x).curDie = s.curDie := rfl
@[simp] theorem State.setTrough_nextId (s : State) (t : Nat) (x : TroughSt) : (s.setTrough t x).nextId = s.nextId := rfl
@[simp] theorem State.setTrough_now (s : State) (t : Nat) (x : TroughSt) : (s.setTrough t x).now = s.now := rfl
@[simp] theorem State.setTrough_timeBase (s : State) (t : Nat) (x : TroughSt) : (s.setTrough t x).timeBase = s.timeBase := rfl
@[simp] theorem State.setTrough_mmio (s : State) (t : Nat) (x : TroughSt) : (s.setTrough t x).mmio = s.mmio := rfl
@[simp] theorem State.setTrough_mem (s : State) (t : Nat) (x : TroughSt) : (s.setTrough t x).mem = s.mem := rfl
@[simp] theorem State.setTrough_burst (s : State) (t : Nat) (x : TroughSt) : (s.setTrough t x).burst = s.burst := rfl
@[simp] theorem State.setTrough_poison (s : State) (t : Nat) (x : TroughSt) : (s.setTrough t x).poison = s.poison := rfl
@[simp] theorem State.setTrough_stale (s : State) (t : Nat) (x : TroughSt) : (s.setTrough t x).stale = s.stale := rfl
@[simp] theorem State.setTrough_keySlots (s : State) (t : Nat) (x : TroughSt) : (s.setTrough t x).keySlots = s.keySlots := rfl
@[simp] theorem State.setTrough_keyLoad (s : State) (t : Nat) (x : TroughSt) : (s.setTrough t x).keyLoad = s.keyLoad := rfl
@[simp] theorem State.setTrough_removedPch (s : State) (t : Nat) (x : TroughSt) : (s.setTrough t x).removedPch = s.removedPch := rfl
@[simp] theorem State.setTrough_retiredRows (s : State) (t : Nat) (x : TroughSt) : (s.setTrough t x).retiredRows = s.retiredRows := rfl
@[simp] theorem State.setTrough_removedUnits (s : State) (t : Nat) (x : TroughSt) : (s.setTrough t x).removedUnits = s.removedUnits := rfl
@[simp] theorem State.setTrough_cores (s : State) (t : Nat) (x : TroughSt) : (s.setTrough t x).cores = s.cores := rfl
@[simp] theorem State.setTrough_clusters (s : State) (t : Nat) (x : TroughSt) : (s.setTrough t x).clusters = s.clusters := rfl
@[simp] theorem State.setTrough_slices (s : State) (t : Nat) (x : TroughSt) : (s.setTrough t x).slices = s.slices := rfl
@[simp] theorem State.setTrough_engTlb (s : State) (t : Nat) (x : TroughSt) : (s.setTrough t x).engTlb = s.engTlb := rfl
@[simp] theorem State.setTrough_walks (s : State) (t : Nat) (x : TroughSt) : (s.setTrough t x).walks = s.walks := rfl
@[simp] theorem State.setTrough_invq (s : State) (t : Nat) (x : TroughSt) : (s.setTrough t x).invq = s.invq := rfl
@[simp] theorem State.setTrough_invHeld (s : State) (t : Nat) (x : TroughSt) : (s.setTrough t x).invHeld = s.invHeld := rfl
@[simp] theorem State.setTrough_buckets (s : State) (t : Nat) (x : TroughSt) : (s.setTrough t x).buckets = s.buckets := rfl
@[simp] theorem State.setTrough_traffic (s : State) (t : Nat) (x : TroughSt) : (s.setTrough t x).traffic = s.traffic := rfl
@[simp] theorem State.setTrough_posts (s : State) (t : Nat) (x : TroughSt) : (s.setTrough t x).posts = s.posts := rfl
@[simp] theorem State.setTrough_pchs (s : State) (t : Nat) (x : TroughSt) : (s.setTrough t x).pchs = s.pchs := rfl
@[simp] theorem State.setTrough_hotWant (s : State) (t : Nat) (x : TroughSt) : (s.setTrough t x).hotWant = s.hotWant := rfl
@[simp] theorem State.setTrough_groups (s : State) (t : Nat) (x : TroughSt) : (s.setTrough t x).groups = s.groups := rfl
@[simp] theorem State.setTrough_teams (s : State) (t : Nat) (x : TroughSt) : (s.setTrough t x).teams = s.teams := rfl
@[simp] theorem State.setTrough_grids (s : State) (t : Nat) (x : TroughSt) : (s.setTrough t x).grids = s.grids := rfl
@[simp] theorem State.setTrough_parts (s : State) (t : Nat) (x : TroughSt) : (s.setTrough t x).parts = s.parts := rfl
@[simp] theorem State.setTrough_saved (s : State) (t : Nat) (x : TroughSt) : (s.setTrough t x).saved = s.saved := rfl
@[simp] theorem State.setTrough_gridNum (s : State) (t : Nat) (x : TroughSt) : (s.setTrough t x).gridNum = s.gridNum := rfl
@[simp] theorem State.setTrough_susp (s : State) (t : Nat) (x : TroughSt) : (s.setTrough t x).susp = s.susp := rfl
@[simp] theorem State.setTrough_endings (s : State) (t : Nat) (x : TroughSt) : (s.setTrough t x).endings = s.endings := rfl
@[simp] theorem State.setTrough_engines (s : State) (t : Nat) (x : TroughSt) : (s.setTrough t x).engines = s.engines := rfl
@[simp] theorem State.setTrough_ecmds (s : State) (t : Nat) (x : TroughSt) : (s.setTrough t x).ecmds = s.ecmds := rfl
@[simp] theorem State.setTrough_remotes (s : State) (t : Nat) (x : TroughSt) : (s.setTrough t x).remotes = s.remotes := rfl
@[simp] theorem State.setTrough_wireOut (s : State) (t : Nat) (x : TroughSt) : (s.setTrough t x).wireOut = s.wireOut := rfl
@[simp] theorem State.setTrough_replies (s : State) (t : Nat) (x : TroughSt) : (s.setTrough t x).replies = s.replies := rfl
@[simp] theorem State.setTrough_mcmds (s : State) (t : Nat) (x : TroughSt) : (s.setTrough t x).mcmds = s.mcmds := rfl
@[simp] theorem State.setTrough_fxs (s : State) (t : Nat) (x : TroughSt) : (s.setTrough t x).fxs = s.fxs := rfl
@[simp] theorem State.setTrough_fxWires (s : State) (t : Nat) (x : TroughSt) : (s.setTrough t x).fxWires = s.fxWires := rfl
@[simp] theorem State.setTrough_phasers (s : State) (t : Nat) (x : TroughSt) : (s.setTrough t x).phasers = s.phasers := rfl
@[simp] theorem State.setTrough_phMsgs (s : State) (t : Nat) (x : TroughSt) : (s.setTrough t x).phMsgs = s.phMsgs := rfl
@[simp] theorem State.setTrough_fallow (s : State) (t : Nat) (x : TroughSt) : (s.setTrough t x).fallow = s.fallow := rfl
@[simp] theorem State.setTrough_graces (s : State) (t : Nat) (x : TroughSt) : (s.setTrough t x).graces = s.graces := rfl
@[simp] theorem State.setTrough_queues (s : State) (t : Nat) (x : TroughSt) : (s.setTrough t x).queues = s.queues := rfl
@[simp] theorem State.setTrough_suspends (s : State) (t : Nat) (x : TroughSt) : (s.setTrough t x).suspends = s.suspends := rfl
@[simp] theorem State.setTrough_graphs (s : State) (t : Nat) (x : TroughSt) : (s.setTrough t x).graphs = s.graphs := rfl
@[simp] theorem State.setTrough_events (s : State) (t : Nat) (x : TroughSt) : (s.setTrough t x).events = s.events := rfl
@[simp] theorem State.setTrough_ctxGen (s : State) (t : Nat) (x : TroughSt) : (s.setTrough t x).ctxGen = s.ctxGen := rfl
@[simp] theorem State.setTrough_preemptAt (s : State) (t : Nat) (x : TroughSt) : (s.setTrough t x).preemptAt = s.preemptAt := rfl
@[simp] theorem State.setTrough_preempts (s : State) (t : Nat) (x : TroughSt) : (s.setTrough t x).preempts = s.preempts := rfl
@[simp] theorem State.setTrough_ended (s : State) (t : Nat) (x : TroughSt) : (s.setTrough t x).ended = s.ended := rfl
@[simp] theorem State.setTrough_tbufs (s : State) (t : Nat) (x : TroughSt) : (s.setTrough t x).tbufs = s.tbufs := rfl
@[simp] theorem State.setTrough_traces (s : State) (t : Nat) (x : TroughSt) : (s.setTrough t x).traces = s.traces := rfl
@[simp] theorem State.setTrough_trial (s : State) (t : Nat) (x : TroughSt) : (s.setTrough t x).trial = s.trial := rfl
@[simp] theorem State.setTrough_stops (s : State) (t : Nat) (x : TroughSt) : (s.setTrough t x).stops = s.stops := rfl
@[simp] theorem State.setTrough_boot (s : State) (t : Nat) (x : TroughSt) : (s.setTrough t x).boot = s.boot := rfl
@[simp] theorem State.setTrough_ckpt (s : State) (t : Nat) (x : TroughSt) : (s.setTrough t x).ckpt = s.ckpt := rfl
@[simp] theorem State.setTrough_ckptWait (s : State) (t : Nat) (x : TroughSt) : (s.setTrough t x).ckptWait = s.ckptWait := rfl
@[simp] theorem State.setTrough_ras (s : State) (t : Nat) (x : TroughSt) : (s.setTrough t x).ras = s.ras := rfl
@[simp] theorem State.setTrough_power (s : State) (t : Nat) (x : TroughSt) : (s.setTrough t x).power = s.power := rfl

-- ## `setQueue`

@[simp] theorem State.setQueue_tick (s : State) (q : Nat) (x : QueueSt) : (s.setQueue q x).tick = s.tick := rfl
@[simp] theorem State.setQueue_agenda (s : State) (q : Nat) (x : QueueSt) : (s.setQueue q x).agenda = s.agenda := rfl
@[simp] theorem State.setQueue_ev (s : State) (q : Nat) (x : QueueSt) : (s.setQueue q x).ev = s.ev := rfl
@[simp] theorem State.setQueue_cur (s : State) (q : Nat) (x : QueueSt) : (s.setQueue q x).cur = s.cur := rfl
@[simp] theorem State.setQueue_curFx (s : State) (q : Nat) (x : QueueSt) : (s.setQueue q x).curFx = s.curFx := rfl
@[simp] theorem State.setQueue_curDie (s : State) (q : Nat) (x : QueueSt) : (s.setQueue q x).curDie = s.curDie := rfl
@[simp] theorem State.setQueue_nextId (s : State) (q : Nat) (x : QueueSt) : (s.setQueue q x).nextId = s.nextId := rfl
@[simp] theorem State.setQueue_now (s : State) (q : Nat) (x : QueueSt) : (s.setQueue q x).now = s.now := rfl
@[simp] theorem State.setQueue_timeBase (s : State) (q : Nat) (x : QueueSt) : (s.setQueue q x).timeBase = s.timeBase := rfl
@[simp] theorem State.setQueue_mmio (s : State) (q : Nat) (x : QueueSt) : (s.setQueue q x).mmio = s.mmio := rfl
@[simp] theorem State.setQueue_mem (s : State) (q : Nat) (x : QueueSt) : (s.setQueue q x).mem = s.mem := rfl
@[simp] theorem State.setQueue_burst (s : State) (q : Nat) (x : QueueSt) : (s.setQueue q x).burst = s.burst := rfl
@[simp] theorem State.setQueue_poison (s : State) (q : Nat) (x : QueueSt) : (s.setQueue q x).poison = s.poison := rfl
@[simp] theorem State.setQueue_stale (s : State) (q : Nat) (x : QueueSt) : (s.setQueue q x).stale = s.stale := rfl
@[simp] theorem State.setQueue_keySlots (s : State) (q : Nat) (x : QueueSt) : (s.setQueue q x).keySlots = s.keySlots := rfl
@[simp] theorem State.setQueue_keyLoad (s : State) (q : Nat) (x : QueueSt) : (s.setQueue q x).keyLoad = s.keyLoad := rfl
@[simp] theorem State.setQueue_removedPch (s : State) (q : Nat) (x : QueueSt) : (s.setQueue q x).removedPch = s.removedPch := rfl
@[simp] theorem State.setQueue_retiredRows (s : State) (q : Nat) (x : QueueSt) : (s.setQueue q x).retiredRows = s.retiredRows := rfl
@[simp] theorem State.setQueue_removedUnits (s : State) (q : Nat) (x : QueueSt) : (s.setQueue q x).removedUnits = s.removedUnits := rfl
@[simp] theorem State.setQueue_cores (s : State) (q : Nat) (x : QueueSt) : (s.setQueue q x).cores = s.cores := rfl
@[simp] theorem State.setQueue_clusters (s : State) (q : Nat) (x : QueueSt) : (s.setQueue q x).clusters = s.clusters := rfl
@[simp] theorem State.setQueue_slices (s : State) (q : Nat) (x : QueueSt) : (s.setQueue q x).slices = s.slices := rfl
@[simp] theorem State.setQueue_engTlb (s : State) (q : Nat) (x : QueueSt) : (s.setQueue q x).engTlb = s.engTlb := rfl
@[simp] theorem State.setQueue_walks (s : State) (q : Nat) (x : QueueSt) : (s.setQueue q x).walks = s.walks := rfl
@[simp] theorem State.setQueue_invq (s : State) (q : Nat) (x : QueueSt) : (s.setQueue q x).invq = s.invq := rfl
@[simp] theorem State.setQueue_invHeld (s : State) (q : Nat) (x : QueueSt) : (s.setQueue q x).invHeld = s.invHeld := rfl
@[simp] theorem State.setQueue_buckets (s : State) (q : Nat) (x : QueueSt) : (s.setQueue q x).buckets = s.buckets := rfl
@[simp] theorem State.setQueue_traffic (s : State) (q : Nat) (x : QueueSt) : (s.setQueue q x).traffic = s.traffic := rfl
@[simp] theorem State.setQueue_posts (s : State) (q : Nat) (x : QueueSt) : (s.setQueue q x).posts = s.posts := rfl
@[simp] theorem State.setQueue_pchs (s : State) (q : Nat) (x : QueueSt) : (s.setQueue q x).pchs = s.pchs := rfl
@[simp] theorem State.setQueue_hotWant (s : State) (q : Nat) (x : QueueSt) : (s.setQueue q x).hotWant = s.hotWant := rfl
@[simp] theorem State.setQueue_groups (s : State) (q : Nat) (x : QueueSt) : (s.setQueue q x).groups = s.groups := rfl
@[simp] theorem State.setQueue_teams (s : State) (q : Nat) (x : QueueSt) : (s.setQueue q x).teams = s.teams := rfl
@[simp] theorem State.setQueue_grids (s : State) (q : Nat) (x : QueueSt) : (s.setQueue q x).grids = s.grids := rfl
@[simp] theorem State.setQueue_parts (s : State) (q : Nat) (x : QueueSt) : (s.setQueue q x).parts = s.parts := rfl
@[simp] theorem State.setQueue_saved (s : State) (q : Nat) (x : QueueSt) : (s.setQueue q x).saved = s.saved := rfl
@[simp] theorem State.setQueue_gridNum (s : State) (q : Nat) (x : QueueSt) : (s.setQueue q x).gridNum = s.gridNum := rfl
@[simp] theorem State.setQueue_susp (s : State) (q : Nat) (x : QueueSt) : (s.setQueue q x).susp = s.susp := rfl
@[simp] theorem State.setQueue_endings (s : State) (q : Nat) (x : QueueSt) : (s.setQueue q x).endings = s.endings := rfl
@[simp] theorem State.setQueue_engines (s : State) (q : Nat) (x : QueueSt) : (s.setQueue q x).engines = s.engines := rfl
@[simp] theorem State.setQueue_ecmds (s : State) (q : Nat) (x : QueueSt) : (s.setQueue q x).ecmds = s.ecmds := rfl
@[simp] theorem State.setQueue_remotes (s : State) (q : Nat) (x : QueueSt) : (s.setQueue q x).remotes = s.remotes := rfl
@[simp] theorem State.setQueue_wireOut (s : State) (q : Nat) (x : QueueSt) : (s.setQueue q x).wireOut = s.wireOut := rfl
@[simp] theorem State.setQueue_replies (s : State) (q : Nat) (x : QueueSt) : (s.setQueue q x).replies = s.replies := rfl
@[simp] theorem State.setQueue_mcmds (s : State) (q : Nat) (x : QueueSt) : (s.setQueue q x).mcmds = s.mcmds := rfl
@[simp] theorem State.setQueue_fxs (s : State) (q : Nat) (x : QueueSt) : (s.setQueue q x).fxs = s.fxs := rfl
@[simp] theorem State.setQueue_fxWires (s : State) (q : Nat) (x : QueueSt) : (s.setQueue q x).fxWires = s.fxWires := rfl
@[simp] theorem State.setQueue_phasers (s : State) (q : Nat) (x : QueueSt) : (s.setQueue q x).phasers = s.phasers := rfl
@[simp] theorem State.setQueue_phMsgs (s : State) (q : Nat) (x : QueueSt) : (s.setQueue q x).phMsgs = s.phMsgs := rfl
@[simp] theorem State.setQueue_fallow (s : State) (q : Nat) (x : QueueSt) : (s.setQueue q x).fallow = s.fallow := rfl
@[simp] theorem State.setQueue_graces (s : State) (q : Nat) (x : QueueSt) : (s.setQueue q x).graces = s.graces := rfl
@[simp] theorem State.setQueue_suspends (s : State) (q : Nat) (x : QueueSt) : (s.setQueue q x).suspends = s.suspends := rfl
@[simp] theorem State.setQueue_troughs (s : State) (q : Nat) (x : QueueSt) : (s.setQueue q x).troughs = s.troughs := rfl
@[simp] theorem State.setQueue_graphs (s : State) (q : Nat) (x : QueueSt) : (s.setQueue q x).graphs = s.graphs := rfl
@[simp] theorem State.setQueue_events (s : State) (q : Nat) (x : QueueSt) : (s.setQueue q x).events = s.events := rfl
@[simp] theorem State.setQueue_ctxGen (s : State) (q : Nat) (x : QueueSt) : (s.setQueue q x).ctxGen = s.ctxGen := rfl
@[simp] theorem State.setQueue_preemptAt (s : State) (q : Nat) (x : QueueSt) : (s.setQueue q x).preemptAt = s.preemptAt := rfl
@[simp] theorem State.setQueue_preempts (s : State) (q : Nat) (x : QueueSt) : (s.setQueue q x).preempts = s.preempts := rfl
@[simp] theorem State.setQueue_ended (s : State) (q : Nat) (x : QueueSt) : (s.setQueue q x).ended = s.ended := rfl
@[simp] theorem State.setQueue_tbufs (s : State) (q : Nat) (x : QueueSt) : (s.setQueue q x).tbufs = s.tbufs := rfl
@[simp] theorem State.setQueue_traces (s : State) (q : Nat) (x : QueueSt) : (s.setQueue q x).traces = s.traces := rfl
@[simp] theorem State.setQueue_trial (s : State) (q : Nat) (x : QueueSt) : (s.setQueue q x).trial = s.trial := rfl
@[simp] theorem State.setQueue_stops (s : State) (q : Nat) (x : QueueSt) : (s.setQueue q x).stops = s.stops := rfl
@[simp] theorem State.setQueue_boot (s : State) (q : Nat) (x : QueueSt) : (s.setQueue q x).boot = s.boot := rfl
@[simp] theorem State.setQueue_ckpt (s : State) (q : Nat) (x : QueueSt) : (s.setQueue q x).ckpt = s.ckpt := rfl
@[simp] theorem State.setQueue_ckptWait (s : State) (q : Nat) (x : QueueSt) : (s.setQueue q x).ckptWait = s.ckptWait := rfl
@[simp] theorem State.setQueue_ras (s : State) (q : Nat) (x : QueueSt) : (s.setQueue q x).ras = s.ras := rfl
@[simp] theorem State.setQueue_power (s : State) (q : Nat) (x : QueueSt) : (s.setQueue q x).power = s.power := rfl

-- ## `passQ`

@[simp] theorem State.passQ_tick (s : State) (gid : Nat) : (s.passQ gid).tick = s.tick := rfl
@[simp] theorem State.passQ_agenda (s : State) (gid : Nat) : (s.passQ gid).agenda = s.agenda := rfl
@[simp] theorem State.passQ_ev (s : State) (gid : Nat) : (s.passQ gid).ev = s.ev := rfl
@[simp] theorem State.passQ_cur (s : State) (gid : Nat) : (s.passQ gid).cur = s.cur := rfl
@[simp] theorem State.passQ_curFx (s : State) (gid : Nat) : (s.passQ gid).curFx = s.curFx := rfl
@[simp] theorem State.passQ_curDie (s : State) (gid : Nat) : (s.passQ gid).curDie = s.curDie := rfl
@[simp] theorem State.passQ_nextId (s : State) (gid : Nat) : (s.passQ gid).nextId = s.nextId := rfl
@[simp] theorem State.passQ_now (s : State) (gid : Nat) : (s.passQ gid).now = s.now := rfl
@[simp] theorem State.passQ_timeBase (s : State) (gid : Nat) : (s.passQ gid).timeBase = s.timeBase := rfl
@[simp] theorem State.passQ_mmio (s : State) (gid : Nat) : (s.passQ gid).mmio = s.mmio := rfl
@[simp] theorem State.passQ_mem (s : State) (gid : Nat) : (s.passQ gid).mem = s.mem := rfl
@[simp] theorem State.passQ_burst (s : State) (gid : Nat) : (s.passQ gid).burst = s.burst := rfl
@[simp] theorem State.passQ_poison (s : State) (gid : Nat) : (s.passQ gid).poison = s.poison := rfl
@[simp] theorem State.passQ_stale (s : State) (gid : Nat) : (s.passQ gid).stale = s.stale := rfl
@[simp] theorem State.passQ_keySlots (s : State) (gid : Nat) : (s.passQ gid).keySlots = s.keySlots := rfl
@[simp] theorem State.passQ_keyLoad (s : State) (gid : Nat) : (s.passQ gid).keyLoad = s.keyLoad := rfl
@[simp] theorem State.passQ_removedPch (s : State) (gid : Nat) : (s.passQ gid).removedPch = s.removedPch := rfl
@[simp] theorem State.passQ_retiredRows (s : State) (gid : Nat) : (s.passQ gid).retiredRows = s.retiredRows := rfl
@[simp] theorem State.passQ_removedUnits (s : State) (gid : Nat) : (s.passQ gid).removedUnits = s.removedUnits := rfl
@[simp] theorem State.passQ_cores (s : State) (gid : Nat) : (s.passQ gid).cores = s.cores := rfl
@[simp] theorem State.passQ_clusters (s : State) (gid : Nat) : (s.passQ gid).clusters = s.clusters := rfl
@[simp] theorem State.passQ_slices (s : State) (gid : Nat) : (s.passQ gid).slices = s.slices := rfl
@[simp] theorem State.passQ_engTlb (s : State) (gid : Nat) : (s.passQ gid).engTlb = s.engTlb := rfl
@[simp] theorem State.passQ_walks (s : State) (gid : Nat) : (s.passQ gid).walks = s.walks := rfl
@[simp] theorem State.passQ_invq (s : State) (gid : Nat) : (s.passQ gid).invq = s.invq := rfl
@[simp] theorem State.passQ_invHeld (s : State) (gid : Nat) : (s.passQ gid).invHeld = s.invHeld := rfl
@[simp] theorem State.passQ_buckets (s : State) (gid : Nat) : (s.passQ gid).buckets = s.buckets := rfl
@[simp] theorem State.passQ_traffic (s : State) (gid : Nat) : (s.passQ gid).traffic = s.traffic := rfl
@[simp] theorem State.passQ_posts (s : State) (gid : Nat) : (s.passQ gid).posts = s.posts := rfl
@[simp] theorem State.passQ_pchs (s : State) (gid : Nat) : (s.passQ gid).pchs = s.pchs := rfl
@[simp] theorem State.passQ_hotWant (s : State) (gid : Nat) : (s.passQ gid).hotWant = s.hotWant := rfl
@[simp] theorem State.passQ_groups (s : State) (gid : Nat) : (s.passQ gid).groups = s.groups := rfl
@[simp] theorem State.passQ_teams (s : State) (gid : Nat) : (s.passQ gid).teams = s.teams := rfl
@[simp] theorem State.passQ_grids (s : State) (gid : Nat) : (s.passQ gid).grids = s.grids := rfl
@[simp] theorem State.passQ_parts (s : State) (gid : Nat) : (s.passQ gid).parts = s.parts := rfl
@[simp] theorem State.passQ_saved (s : State) (gid : Nat) : (s.passQ gid).saved = s.saved := rfl
@[simp] theorem State.passQ_gridNum (s : State) (gid : Nat) : (s.passQ gid).gridNum = s.gridNum := rfl
@[simp] theorem State.passQ_susp (s : State) (gid : Nat) : (s.passQ gid).susp = s.susp := rfl
@[simp] theorem State.passQ_endings (s : State) (gid : Nat) : (s.passQ gid).endings = s.endings := rfl
@[simp] theorem State.passQ_engines (s : State) (gid : Nat) : (s.passQ gid).engines = s.engines := rfl
@[simp] theorem State.passQ_ecmds (s : State) (gid : Nat) : (s.passQ gid).ecmds = s.ecmds := rfl
@[simp] theorem State.passQ_remotes (s : State) (gid : Nat) : (s.passQ gid).remotes = s.remotes := rfl
@[simp] theorem State.passQ_wireOut (s : State) (gid : Nat) : (s.passQ gid).wireOut = s.wireOut := rfl
@[simp] theorem State.passQ_replies (s : State) (gid : Nat) : (s.passQ gid).replies = s.replies := rfl
@[simp] theorem State.passQ_mcmds (s : State) (gid : Nat) : (s.passQ gid).mcmds = s.mcmds := rfl
@[simp] theorem State.passQ_fxs (s : State) (gid : Nat) : (s.passQ gid).fxs = s.fxs := rfl
@[simp] theorem State.passQ_fxWires (s : State) (gid : Nat) : (s.passQ gid).fxWires = s.fxWires := rfl
@[simp] theorem State.passQ_phasers (s : State) (gid : Nat) : (s.passQ gid).phasers = s.phasers := rfl
@[simp] theorem State.passQ_phMsgs (s : State) (gid : Nat) : (s.passQ gid).phMsgs = s.phMsgs := rfl
@[simp] theorem State.passQ_fallow (s : State) (gid : Nat) : (s.passQ gid).fallow = s.fallow := rfl
@[simp] theorem State.passQ_queues (s : State) (gid : Nat) : (s.passQ gid).queues = s.queues := rfl
@[simp] theorem State.passQ_suspends (s : State) (gid : Nat) : (s.passQ gid).suspends = s.suspends := rfl
@[simp] theorem State.passQ_troughs (s : State) (gid : Nat) : (s.passQ gid).troughs = s.troughs := rfl
@[simp] theorem State.passQ_graphs (s : State) (gid : Nat) : (s.passQ gid).graphs = s.graphs := rfl
@[simp] theorem State.passQ_events (s : State) (gid : Nat) : (s.passQ gid).events = s.events := rfl
@[simp] theorem State.passQ_ctxGen (s : State) (gid : Nat) : (s.passQ gid).ctxGen = s.ctxGen := rfl
@[simp] theorem State.passQ_preemptAt (s : State) (gid : Nat) : (s.passQ gid).preemptAt = s.preemptAt := rfl
@[simp] theorem State.passQ_preempts (s : State) (gid : Nat) : (s.passQ gid).preempts = s.preempts := rfl
@[simp] theorem State.passQ_ended (s : State) (gid : Nat) : (s.passQ gid).ended = s.ended := rfl
@[simp] theorem State.passQ_tbufs (s : State) (gid : Nat) : (s.passQ gid).tbufs = s.tbufs := rfl
@[simp] theorem State.passQ_traces (s : State) (gid : Nat) : (s.passQ gid).traces = s.traces := rfl
@[simp] theorem State.passQ_trial (s : State) (gid : Nat) : (s.passQ gid).trial = s.trial := rfl
@[simp] theorem State.passQ_stops (s : State) (gid : Nat) : (s.passQ gid).stops = s.stops := rfl
@[simp] theorem State.passQ_boot (s : State) (gid : Nat) : (s.passQ gid).boot = s.boot := rfl
@[simp] theorem State.passQ_ckpt (s : State) (gid : Nat) : (s.passQ gid).ckpt = s.ckpt := rfl
@[simp] theorem State.passQ_ckptWait (s : State) (gid : Nat) : (s.passQ gid).ckptWait = s.ckptWait := rfl
@[simp] theorem State.passQ_ras (s : State) (gid : Nat) : (s.passQ gid).ras = s.ras := rfl
@[simp] theorem State.passQ_power (s : State) (gid : Nat) : (s.passQ gid).power = s.power := rfl

-- ## `bufTrace`

@[simp] theorem State.bufTrace_tick (s : State) (cl : Nat) (r : TraceRec) : (s.bufTrace cl r).tick = s.tick := rfl
@[simp] theorem State.bufTrace_agenda (s : State) (cl : Nat) (r : TraceRec) : (s.bufTrace cl r).agenda = s.agenda := rfl
@[simp] theorem State.bufTrace_ev (s : State) (cl : Nat) (r : TraceRec) : (s.bufTrace cl r).ev = s.ev := rfl
@[simp] theorem State.bufTrace_cur (s : State) (cl : Nat) (r : TraceRec) : (s.bufTrace cl r).cur = s.cur := rfl
@[simp] theorem State.bufTrace_curFx (s : State) (cl : Nat) (r : TraceRec) : (s.bufTrace cl r).curFx = s.curFx := rfl
@[simp] theorem State.bufTrace_curDie (s : State) (cl : Nat) (r : TraceRec) : (s.bufTrace cl r).curDie = s.curDie := rfl
@[simp] theorem State.bufTrace_nextId (s : State) (cl : Nat) (r : TraceRec) : (s.bufTrace cl r).nextId = s.nextId := rfl
@[simp] theorem State.bufTrace_now (s : State) (cl : Nat) (r : TraceRec) : (s.bufTrace cl r).now = s.now := rfl
@[simp] theorem State.bufTrace_timeBase (s : State) (cl : Nat) (r : TraceRec) : (s.bufTrace cl r).timeBase = s.timeBase := rfl
@[simp] theorem State.bufTrace_mmio (s : State) (cl : Nat) (r : TraceRec) : (s.bufTrace cl r).mmio = s.mmio := rfl
@[simp] theorem State.bufTrace_mem (s : State) (cl : Nat) (r : TraceRec) : (s.bufTrace cl r).mem = s.mem := rfl
@[simp] theorem State.bufTrace_burst (s : State) (cl : Nat) (r : TraceRec) : (s.bufTrace cl r).burst = s.burst := rfl
@[simp] theorem State.bufTrace_poison (s : State) (cl : Nat) (r : TraceRec) : (s.bufTrace cl r).poison = s.poison := rfl
@[simp] theorem State.bufTrace_stale (s : State) (cl : Nat) (r : TraceRec) : (s.bufTrace cl r).stale = s.stale := rfl
@[simp] theorem State.bufTrace_keySlots (s : State) (cl : Nat) (r : TraceRec) : (s.bufTrace cl r).keySlots = s.keySlots := rfl
@[simp] theorem State.bufTrace_keyLoad (s : State) (cl : Nat) (r : TraceRec) : (s.bufTrace cl r).keyLoad = s.keyLoad := rfl
@[simp] theorem State.bufTrace_removedPch (s : State) (cl : Nat) (r : TraceRec) : (s.bufTrace cl r).removedPch = s.removedPch := rfl
@[simp] theorem State.bufTrace_retiredRows (s : State) (cl : Nat) (r : TraceRec) : (s.bufTrace cl r).retiredRows = s.retiredRows := rfl
@[simp] theorem State.bufTrace_removedUnits (s : State) (cl : Nat) (r : TraceRec) : (s.bufTrace cl r).removedUnits = s.removedUnits := rfl
@[simp] theorem State.bufTrace_cores (s : State) (cl : Nat) (r : TraceRec) : (s.bufTrace cl r).cores = s.cores := rfl
@[simp] theorem State.bufTrace_clusters (s : State) (cl : Nat) (r : TraceRec) : (s.bufTrace cl r).clusters = s.clusters := rfl
@[simp] theorem State.bufTrace_slices (s : State) (cl : Nat) (r : TraceRec) : (s.bufTrace cl r).slices = s.slices := rfl
@[simp] theorem State.bufTrace_engTlb (s : State) (cl : Nat) (r : TraceRec) : (s.bufTrace cl r).engTlb = s.engTlb := rfl
@[simp] theorem State.bufTrace_walks (s : State) (cl : Nat) (r : TraceRec) : (s.bufTrace cl r).walks = s.walks := rfl
@[simp] theorem State.bufTrace_invq (s : State) (cl : Nat) (r : TraceRec) : (s.bufTrace cl r).invq = s.invq := rfl
@[simp] theorem State.bufTrace_invHeld (s : State) (cl : Nat) (r : TraceRec) : (s.bufTrace cl r).invHeld = s.invHeld := rfl
@[simp] theorem State.bufTrace_buckets (s : State) (cl : Nat) (r : TraceRec) : (s.bufTrace cl r).buckets = s.buckets := rfl
@[simp] theorem State.bufTrace_traffic (s : State) (cl : Nat) (r : TraceRec) : (s.bufTrace cl r).traffic = s.traffic := rfl
@[simp] theorem State.bufTrace_posts (s : State) (cl : Nat) (r : TraceRec) : (s.bufTrace cl r).posts = s.posts := rfl
@[simp] theorem State.bufTrace_pchs (s : State) (cl : Nat) (r : TraceRec) : (s.bufTrace cl r).pchs = s.pchs := rfl
@[simp] theorem State.bufTrace_hotWant (s : State) (cl : Nat) (r : TraceRec) : (s.bufTrace cl r).hotWant = s.hotWant := rfl
@[simp] theorem State.bufTrace_groups (s : State) (cl : Nat) (r : TraceRec) : (s.bufTrace cl r).groups = s.groups := rfl
@[simp] theorem State.bufTrace_teams (s : State) (cl : Nat) (r : TraceRec) : (s.bufTrace cl r).teams = s.teams := rfl
@[simp] theorem State.bufTrace_grids (s : State) (cl : Nat) (r : TraceRec) : (s.bufTrace cl r).grids = s.grids := rfl
@[simp] theorem State.bufTrace_parts (s : State) (cl : Nat) (r : TraceRec) : (s.bufTrace cl r).parts = s.parts := rfl
@[simp] theorem State.bufTrace_saved (s : State) (cl : Nat) (r : TraceRec) : (s.bufTrace cl r).saved = s.saved := rfl
@[simp] theorem State.bufTrace_gridNum (s : State) (cl : Nat) (r : TraceRec) : (s.bufTrace cl r).gridNum = s.gridNum := rfl
@[simp] theorem State.bufTrace_susp (s : State) (cl : Nat) (r : TraceRec) : (s.bufTrace cl r).susp = s.susp := rfl
@[simp] theorem State.bufTrace_endings (s : State) (cl : Nat) (r : TraceRec) : (s.bufTrace cl r).endings = s.endings := rfl
@[simp] theorem State.bufTrace_engines (s : State) (cl : Nat) (r : TraceRec) : (s.bufTrace cl r).engines = s.engines := rfl
@[simp] theorem State.bufTrace_ecmds (s : State) (cl : Nat) (r : TraceRec) : (s.bufTrace cl r).ecmds = s.ecmds := rfl
@[simp] theorem State.bufTrace_remotes (s : State) (cl : Nat) (r : TraceRec) : (s.bufTrace cl r).remotes = s.remotes := rfl
@[simp] theorem State.bufTrace_wireOut (s : State) (cl : Nat) (r : TraceRec) : (s.bufTrace cl r).wireOut = s.wireOut := rfl
@[simp] theorem State.bufTrace_replies (s : State) (cl : Nat) (r : TraceRec) : (s.bufTrace cl r).replies = s.replies := rfl
@[simp] theorem State.bufTrace_mcmds (s : State) (cl : Nat) (r : TraceRec) : (s.bufTrace cl r).mcmds = s.mcmds := rfl
@[simp] theorem State.bufTrace_fxs (s : State) (cl : Nat) (r : TraceRec) : (s.bufTrace cl r).fxs = s.fxs := rfl
@[simp] theorem State.bufTrace_fxWires (s : State) (cl : Nat) (r : TraceRec) : (s.bufTrace cl r).fxWires = s.fxWires := rfl
@[simp] theorem State.bufTrace_phasers (s : State) (cl : Nat) (r : TraceRec) : (s.bufTrace cl r).phasers = s.phasers := rfl
@[simp] theorem State.bufTrace_phMsgs (s : State) (cl : Nat) (r : TraceRec) : (s.bufTrace cl r).phMsgs = s.phMsgs := rfl
@[simp] theorem State.bufTrace_fallow (s : State) (cl : Nat) (r : TraceRec) : (s.bufTrace cl r).fallow = s.fallow := rfl
@[simp] theorem State.bufTrace_graces (s : State) (cl : Nat) (r : TraceRec) : (s.bufTrace cl r).graces = s.graces := rfl
@[simp] theorem State.bufTrace_queues (s : State) (cl : Nat) (r : TraceRec) : (s.bufTrace cl r).queues = s.queues := rfl
@[simp] theorem State.bufTrace_suspends (s : State) (cl : Nat) (r : TraceRec) : (s.bufTrace cl r).suspends = s.suspends := rfl
@[simp] theorem State.bufTrace_troughs (s : State) (cl : Nat) (r : TraceRec) : (s.bufTrace cl r).troughs = s.troughs := rfl
@[simp] theorem State.bufTrace_graphs (s : State) (cl : Nat) (r : TraceRec) : (s.bufTrace cl r).graphs = s.graphs := rfl
@[simp] theorem State.bufTrace_events (s : State) (cl : Nat) (r : TraceRec) : (s.bufTrace cl r).events = s.events := rfl
@[simp] theorem State.bufTrace_ctxGen (s : State) (cl : Nat) (r : TraceRec) : (s.bufTrace cl r).ctxGen = s.ctxGen := rfl
@[simp] theorem State.bufTrace_preemptAt (s : State) (cl : Nat) (r : TraceRec) : (s.bufTrace cl r).preemptAt = s.preemptAt := rfl
@[simp] theorem State.bufTrace_preempts (s : State) (cl : Nat) (r : TraceRec) : (s.bufTrace cl r).preempts = s.preempts := rfl
@[simp] theorem State.bufTrace_ended (s : State) (cl : Nat) (r : TraceRec) : (s.bufTrace cl r).ended = s.ended := rfl
@[simp] theorem State.bufTrace_traces (s : State) (cl : Nat) (r : TraceRec) : (s.bufTrace cl r).traces = s.traces := rfl
@[simp] theorem State.bufTrace_trial (s : State) (cl : Nat) (r : TraceRec) : (s.bufTrace cl r).trial = s.trial := rfl
@[simp] theorem State.bufTrace_stops (s : State) (cl : Nat) (r : TraceRec) : (s.bufTrace cl r).stops = s.stops := rfl
@[simp] theorem State.bufTrace_boot (s : State) (cl : Nat) (r : TraceRec) : (s.bufTrace cl r).boot = s.boot := rfl
@[simp] theorem State.bufTrace_ckpt (s : State) (cl : Nat) (r : TraceRec) : (s.bufTrace cl r).ckpt = s.ckpt := rfl
@[simp] theorem State.bufTrace_ckptWait (s : State) (cl : Nat) (r : TraceRec) : (s.bufTrace cl r).ckptWait = s.ckptWait := rfl
@[simp] theorem State.bufTrace_ras (s : State) (cl : Nat) (r : TraceRec) : (s.bufTrace cl r).ras = s.ras := rfl
@[simp] theorem State.bufTrace_power (s : State) (cl : Nat) (r : TraceRec) : (s.bufTrace cl r).power = s.power := rfl

-- ## `advance`

@[simp] theorem State.advance_ev (s : State) : (s.advance).ev = s.ev := rfl
@[simp] theorem State.advance_cur (s : State) : (s.advance).cur = s.cur := rfl
@[simp] theorem State.advance_curFx (s : State) : (s.advance).curFx = s.curFx := rfl
@[simp] theorem State.advance_curDie (s : State) : (s.advance).curDie = s.curDie := rfl
@[simp] theorem State.advance_nextId (s : State) : (s.advance).nextId = s.nextId := rfl
@[simp] theorem State.advance_now (s : State) : (s.advance).now = s.now := rfl
@[simp] theorem State.advance_timeBase (s : State) : (s.advance).timeBase = s.timeBase := rfl
@[simp] theorem State.advance_mmio (s : State) : (s.advance).mmio = s.mmio := rfl
@[simp] theorem State.advance_mem (s : State) : (s.advance).mem = s.mem := rfl
@[simp] theorem State.advance_burst (s : State) : (s.advance).burst = s.burst := rfl
@[simp] theorem State.advance_poison (s : State) : (s.advance).poison = s.poison := rfl
@[simp] theorem State.advance_stale (s : State) : (s.advance).stale = s.stale := rfl
@[simp] theorem State.advance_keySlots (s : State) : (s.advance).keySlots = s.keySlots := rfl
@[simp] theorem State.advance_keyLoad (s : State) : (s.advance).keyLoad = s.keyLoad := rfl
@[simp] theorem State.advance_removedPch (s : State) : (s.advance).removedPch = s.removedPch := rfl
@[simp] theorem State.advance_retiredRows (s : State) : (s.advance).retiredRows = s.retiredRows := rfl
@[simp] theorem State.advance_removedUnits (s : State) : (s.advance).removedUnits = s.removedUnits := rfl
@[simp] theorem State.advance_cores (s : State) : (s.advance).cores = s.cores := rfl
@[simp] theorem State.advance_clusters (s : State) : (s.advance).clusters = s.clusters := rfl
@[simp] theorem State.advance_slices (s : State) : (s.advance).slices = s.slices := rfl
@[simp] theorem State.advance_engTlb (s : State) : (s.advance).engTlb = s.engTlb := rfl
@[simp] theorem State.advance_walks (s : State) : (s.advance).walks = s.walks := rfl
@[simp] theorem State.advance_invq (s : State) : (s.advance).invq = s.invq := rfl
@[simp] theorem State.advance_invHeld (s : State) : (s.advance).invHeld = s.invHeld := rfl
@[simp] theorem State.advance_buckets (s : State) : (s.advance).buckets = s.buckets := rfl
@[simp] theorem State.advance_traffic (s : State) : (s.advance).traffic = s.traffic := rfl
@[simp] theorem State.advance_posts (s : State) : (s.advance).posts = s.posts := rfl
@[simp] theorem State.advance_pchs (s : State) : (s.advance).pchs = s.pchs := rfl
@[simp] theorem State.advance_hotWant (s : State) : (s.advance).hotWant = s.hotWant := rfl
@[simp] theorem State.advance_teams (s : State) : (s.advance).teams = s.teams := rfl
@[simp] theorem State.advance_grids (s : State) : (s.advance).grids = s.grids := rfl
@[simp] theorem State.advance_parts (s : State) : (s.advance).parts = s.parts := rfl
@[simp] theorem State.advance_saved (s : State) : (s.advance).saved = s.saved := rfl
@[simp] theorem State.advance_gridNum (s : State) : (s.advance).gridNum = s.gridNum := rfl
@[simp] theorem State.advance_susp (s : State) : (s.advance).susp = s.susp := rfl
@[simp] theorem State.advance_endings (s : State) : (s.advance).endings = s.endings := rfl
@[simp] theorem State.advance_engines (s : State) : (s.advance).engines = s.engines := rfl
@[simp] theorem State.advance_ecmds (s : State) : (s.advance).ecmds = s.ecmds := rfl
@[simp] theorem State.advance_remotes (s : State) : (s.advance).remotes = s.remotes := rfl
@[simp] theorem State.advance_wireOut (s : State) : (s.advance).wireOut = s.wireOut := rfl
@[simp] theorem State.advance_replies (s : State) : (s.advance).replies = s.replies := rfl
@[simp] theorem State.advance_mcmds (s : State) : (s.advance).mcmds = s.mcmds := rfl
@[simp] theorem State.advance_fxs (s : State) : (s.advance).fxs = s.fxs := rfl
@[simp] theorem State.advance_fxWires (s : State) : (s.advance).fxWires = s.fxWires := rfl
@[simp] theorem State.advance_phasers (s : State) : (s.advance).phasers = s.phasers := rfl
@[simp] theorem State.advance_phMsgs (s : State) : (s.advance).phMsgs = s.phMsgs := rfl
@[simp] theorem State.advance_fallow (s : State) : (s.advance).fallow = s.fallow := rfl
@[simp] theorem State.advance_graces (s : State) : (s.advance).graces = s.graces := rfl
@[simp] theorem State.advance_queues (s : State) : (s.advance).queues = s.queues := rfl
@[simp] theorem State.advance_suspends (s : State) : (s.advance).suspends = s.suspends := rfl
@[simp] theorem State.advance_troughs (s : State) : (s.advance).troughs = s.troughs := rfl
@[simp] theorem State.advance_graphs (s : State) : (s.advance).graphs = s.graphs := rfl
@[simp] theorem State.advance_events (s : State) : (s.advance).events = s.events := rfl
@[simp] theorem State.advance_ctxGen (s : State) : (s.advance).ctxGen = s.ctxGen := rfl
@[simp] theorem State.advance_preemptAt (s : State) : (s.advance).preemptAt = s.preemptAt := rfl
@[simp] theorem State.advance_preempts (s : State) : (s.advance).preempts = s.preempts := rfl
@[simp] theorem State.advance_ended (s : State) : (s.advance).ended = s.ended := rfl
@[simp] theorem State.advance_tbufs (s : State) : (s.advance).tbufs = s.tbufs := rfl
@[simp] theorem State.advance_traces (s : State) : (s.advance).traces = s.traces := rfl
@[simp] theorem State.advance_trial (s : State) : (s.advance).trial = s.trial := rfl
@[simp] theorem State.advance_stops (s : State) : (s.advance).stops = s.stops := rfl
@[simp] theorem State.advance_boot (s : State) : (s.advance).boot = s.boot := rfl
@[simp] theorem State.advance_ckpt (s : State) : (s.advance).ckpt = s.ckpt := rfl
@[simp] theorem State.advance_ckptWait (s : State) : (s.advance).ckptWait = s.ckptWait := rfl
@[simp] theorem State.advance_ras (s : State) : (s.advance).ras = s.ras := rfl
@[simp] theorem State.advance_power (s : State) : (s.advance).power = s.power := rfl

-- ## `setFx`

@[simp] theorem State.setFx_tick (s : State) (p : Nat) (x : FxSt) : (s.setFx p x).tick = s.tick := rfl
@[simp] theorem State.setFx_agenda (s : State) (p : Nat) (x : FxSt) : (s.setFx p x).agenda = s.agenda := rfl
@[simp] theorem State.setFx_ev (s : State) (p : Nat) (x : FxSt) : (s.setFx p x).ev = s.ev := rfl
@[simp] theorem State.setFx_cur (s : State) (p : Nat) (x : FxSt) : (s.setFx p x).cur = s.cur := rfl
@[simp] theorem State.setFx_curFx (s : State) (p : Nat) (x : FxSt) : (s.setFx p x).curFx = s.curFx := rfl
@[simp] theorem State.setFx_curDie (s : State) (p : Nat) (x : FxSt) : (s.setFx p x).curDie = s.curDie := rfl
@[simp] theorem State.setFx_nextId (s : State) (p : Nat) (x : FxSt) : (s.setFx p x).nextId = s.nextId := rfl
@[simp] theorem State.setFx_now (s : State) (p : Nat) (x : FxSt) : (s.setFx p x).now = s.now := rfl
@[simp] theorem State.setFx_timeBase (s : State) (p : Nat) (x : FxSt) : (s.setFx p x).timeBase = s.timeBase := rfl
@[simp] theorem State.setFx_mmio (s : State) (p : Nat) (x : FxSt) : (s.setFx p x).mmio = s.mmio := rfl
@[simp] theorem State.setFx_mem (s : State) (p : Nat) (x : FxSt) : (s.setFx p x).mem = s.mem := rfl
@[simp] theorem State.setFx_burst (s : State) (p : Nat) (x : FxSt) : (s.setFx p x).burst = s.burst := rfl
@[simp] theorem State.setFx_poison (s : State) (p : Nat) (x : FxSt) : (s.setFx p x).poison = s.poison := rfl
@[simp] theorem State.setFx_stale (s : State) (p : Nat) (x : FxSt) : (s.setFx p x).stale = s.stale := rfl
@[simp] theorem State.setFx_keySlots (s : State) (p : Nat) (x : FxSt) : (s.setFx p x).keySlots = s.keySlots := rfl
@[simp] theorem State.setFx_keyLoad (s : State) (p : Nat) (x : FxSt) : (s.setFx p x).keyLoad = s.keyLoad := rfl
@[simp] theorem State.setFx_removedPch (s : State) (p : Nat) (x : FxSt) : (s.setFx p x).removedPch = s.removedPch := rfl
@[simp] theorem State.setFx_retiredRows (s : State) (p : Nat) (x : FxSt) : (s.setFx p x).retiredRows = s.retiredRows := rfl
@[simp] theorem State.setFx_removedUnits (s : State) (p : Nat) (x : FxSt) : (s.setFx p x).removedUnits = s.removedUnits := rfl
@[simp] theorem State.setFx_cores (s : State) (p : Nat) (x : FxSt) : (s.setFx p x).cores = s.cores := rfl
@[simp] theorem State.setFx_clusters (s : State) (p : Nat) (x : FxSt) : (s.setFx p x).clusters = s.clusters := rfl
@[simp] theorem State.setFx_slices (s : State) (p : Nat) (x : FxSt) : (s.setFx p x).slices = s.slices := rfl
@[simp] theorem State.setFx_engTlb (s : State) (p : Nat) (x : FxSt) : (s.setFx p x).engTlb = s.engTlb := rfl
@[simp] theorem State.setFx_walks (s : State) (p : Nat) (x : FxSt) : (s.setFx p x).walks = s.walks := rfl
@[simp] theorem State.setFx_invq (s : State) (p : Nat) (x : FxSt) : (s.setFx p x).invq = s.invq := rfl
@[simp] theorem State.setFx_invHeld (s : State) (p : Nat) (x : FxSt) : (s.setFx p x).invHeld = s.invHeld := rfl
@[simp] theorem State.setFx_buckets (s : State) (p : Nat) (x : FxSt) : (s.setFx p x).buckets = s.buckets := rfl
@[simp] theorem State.setFx_traffic (s : State) (p : Nat) (x : FxSt) : (s.setFx p x).traffic = s.traffic := rfl
@[simp] theorem State.setFx_posts (s : State) (p : Nat) (x : FxSt) : (s.setFx p x).posts = s.posts := rfl
@[simp] theorem State.setFx_pchs (s : State) (p : Nat) (x : FxSt) : (s.setFx p x).pchs = s.pchs := rfl
@[simp] theorem State.setFx_hotWant (s : State) (p : Nat) (x : FxSt) : (s.setFx p x).hotWant = s.hotWant := rfl
@[simp] theorem State.setFx_groups (s : State) (p : Nat) (x : FxSt) : (s.setFx p x).groups = s.groups := rfl
@[simp] theorem State.setFx_teams (s : State) (p : Nat) (x : FxSt) : (s.setFx p x).teams = s.teams := rfl
@[simp] theorem State.setFx_grids (s : State) (p : Nat) (x : FxSt) : (s.setFx p x).grids = s.grids := rfl
@[simp] theorem State.setFx_parts (s : State) (p : Nat) (x : FxSt) : (s.setFx p x).parts = s.parts := rfl
@[simp] theorem State.setFx_saved (s : State) (p : Nat) (x : FxSt) : (s.setFx p x).saved = s.saved := rfl
@[simp] theorem State.setFx_gridNum (s : State) (p : Nat) (x : FxSt) : (s.setFx p x).gridNum = s.gridNum := rfl
@[simp] theorem State.setFx_susp (s : State) (p : Nat) (x : FxSt) : (s.setFx p x).susp = s.susp := rfl
@[simp] theorem State.setFx_endings (s : State) (p : Nat) (x : FxSt) : (s.setFx p x).endings = s.endings := rfl
@[simp] theorem State.setFx_engines (s : State) (p : Nat) (x : FxSt) : (s.setFx p x).engines = s.engines := rfl
@[simp] theorem State.setFx_ecmds (s : State) (p : Nat) (x : FxSt) : (s.setFx p x).ecmds = s.ecmds := rfl
@[simp] theorem State.setFx_remotes (s : State) (p : Nat) (x : FxSt) : (s.setFx p x).remotes = s.remotes := rfl
@[simp] theorem State.setFx_wireOut (s : State) (p : Nat) (x : FxSt) : (s.setFx p x).wireOut = s.wireOut := rfl
@[simp] theorem State.setFx_replies (s : State) (p : Nat) (x : FxSt) : (s.setFx p x).replies = s.replies := rfl
@[simp] theorem State.setFx_mcmds (s : State) (p : Nat) (x : FxSt) : (s.setFx p x).mcmds = s.mcmds := rfl
@[simp] theorem State.setFx_fxWires (s : State) (p : Nat) (x : FxSt) : (s.setFx p x).fxWires = s.fxWires := rfl
@[simp] theorem State.setFx_phasers (s : State) (p : Nat) (x : FxSt) : (s.setFx p x).phasers = s.phasers := rfl
@[simp] theorem State.setFx_phMsgs (s : State) (p : Nat) (x : FxSt) : (s.setFx p x).phMsgs = s.phMsgs := rfl
@[simp] theorem State.setFx_fallow (s : State) (p : Nat) (x : FxSt) : (s.setFx p x).fallow = s.fallow := rfl
@[simp] theorem State.setFx_graces (s : State) (p : Nat) (x : FxSt) : (s.setFx p x).graces = s.graces := rfl
@[simp] theorem State.setFx_queues (s : State) (p : Nat) (x : FxSt) : (s.setFx p x).queues = s.queues := rfl
@[simp] theorem State.setFx_suspends (s : State) (p : Nat) (x : FxSt) : (s.setFx p x).suspends = s.suspends := rfl
@[simp] theorem State.setFx_troughs (s : State) (p : Nat) (x : FxSt) : (s.setFx p x).troughs = s.troughs := rfl
@[simp] theorem State.setFx_graphs (s : State) (p : Nat) (x : FxSt) : (s.setFx p x).graphs = s.graphs := rfl
@[simp] theorem State.setFx_events (s : State) (p : Nat) (x : FxSt) : (s.setFx p x).events = s.events := rfl
@[simp] theorem State.setFx_ctxGen (s : State) (p : Nat) (x : FxSt) : (s.setFx p x).ctxGen = s.ctxGen := rfl
@[simp] theorem State.setFx_preemptAt (s : State) (p : Nat) (x : FxSt) : (s.setFx p x).preemptAt = s.preemptAt := rfl
@[simp] theorem State.setFx_preempts (s : State) (p : Nat) (x : FxSt) : (s.setFx p x).preempts = s.preempts := rfl
@[simp] theorem State.setFx_ended (s : State) (p : Nat) (x : FxSt) : (s.setFx p x).ended = s.ended := rfl
@[simp] theorem State.setFx_tbufs (s : State) (p : Nat) (x : FxSt) : (s.setFx p x).tbufs = s.tbufs := rfl
@[simp] theorem State.setFx_traces (s : State) (p : Nat) (x : FxSt) : (s.setFx p x).traces = s.traces := rfl
@[simp] theorem State.setFx_trial (s : State) (p : Nat) (x : FxSt) : (s.setFx p x).trial = s.trial := rfl
@[simp] theorem State.setFx_stops (s : State) (p : Nat) (x : FxSt) : (s.setFx p x).stops = s.stops := rfl
@[simp] theorem State.setFx_boot (s : State) (p : Nat) (x : FxSt) : (s.setFx p x).boot = s.boot := rfl
@[simp] theorem State.setFx_ckpt (s : State) (p : Nat) (x : FxSt) : (s.setFx p x).ckpt = s.ckpt := rfl
@[simp] theorem State.setFx_ckptWait (s : State) (p : Nat) (x : FxSt) : (s.setFx p x).ckptWait = s.ckptWait := rfl
@[simp] theorem State.setFx_ras (s : State) (p : Nat) (x : FxSt) : (s.setFx p x).ras = s.ras := rfl
@[simp] theorem State.setFx_power (s : State) (p : Nat) (x : FxSt) : (s.setFx p x).power = s.power := rfl

-- ## `setEngine`

@[simp] theorem State.setEngine_tick (s : State) (e : Nat) (x : EngineSt) : (s.setEngine e x).tick = s.tick := rfl
@[simp] theorem State.setEngine_agenda (s : State) (e : Nat) (x : EngineSt) : (s.setEngine e x).agenda = s.agenda := rfl
@[simp] theorem State.setEngine_ev (s : State) (e : Nat) (x : EngineSt) : (s.setEngine e x).ev = s.ev := rfl
@[simp] theorem State.setEngine_cur (s : State) (e : Nat) (x : EngineSt) : (s.setEngine e x).cur = s.cur := rfl
@[simp] theorem State.setEngine_curFx (s : State) (e : Nat) (x : EngineSt) : (s.setEngine e x).curFx = s.curFx := rfl
@[simp] theorem State.setEngine_curDie (s : State) (e : Nat) (x : EngineSt) : (s.setEngine e x).curDie = s.curDie := rfl
@[simp] theorem State.setEngine_nextId (s : State) (e : Nat) (x : EngineSt) : (s.setEngine e x).nextId = s.nextId := rfl
@[simp] theorem State.setEngine_now (s : State) (e : Nat) (x : EngineSt) : (s.setEngine e x).now = s.now := rfl
@[simp] theorem State.setEngine_timeBase (s : State) (e : Nat) (x : EngineSt) : (s.setEngine e x).timeBase = s.timeBase := rfl
@[simp] theorem State.setEngine_mmio (s : State) (e : Nat) (x : EngineSt) : (s.setEngine e x).mmio = s.mmio := rfl
@[simp] theorem State.setEngine_mem (s : State) (e : Nat) (x : EngineSt) : (s.setEngine e x).mem = s.mem := rfl
@[simp] theorem State.setEngine_burst (s : State) (e : Nat) (x : EngineSt) : (s.setEngine e x).burst = s.burst := rfl
@[simp] theorem State.setEngine_poison (s : State) (e : Nat) (x : EngineSt) : (s.setEngine e x).poison = s.poison := rfl
@[simp] theorem State.setEngine_stale (s : State) (e : Nat) (x : EngineSt) : (s.setEngine e x).stale = s.stale := rfl
@[simp] theorem State.setEngine_keySlots (s : State) (e : Nat) (x : EngineSt) : (s.setEngine e x).keySlots = s.keySlots := rfl
@[simp] theorem State.setEngine_keyLoad (s : State) (e : Nat) (x : EngineSt) : (s.setEngine e x).keyLoad = s.keyLoad := rfl
@[simp] theorem State.setEngine_removedPch (s : State) (e : Nat) (x : EngineSt) : (s.setEngine e x).removedPch = s.removedPch := rfl
@[simp] theorem State.setEngine_retiredRows (s : State) (e : Nat) (x : EngineSt) : (s.setEngine e x).retiredRows = s.retiredRows := rfl
@[simp] theorem State.setEngine_removedUnits (s : State) (e : Nat) (x : EngineSt) : (s.setEngine e x).removedUnits = s.removedUnits := rfl
@[simp] theorem State.setEngine_cores (s : State) (e : Nat) (x : EngineSt) : (s.setEngine e x).cores = s.cores := rfl
@[simp] theorem State.setEngine_clusters (s : State) (e : Nat) (x : EngineSt) : (s.setEngine e x).clusters = s.clusters := rfl
@[simp] theorem State.setEngine_slices (s : State) (e : Nat) (x : EngineSt) : (s.setEngine e x).slices = s.slices := rfl
@[simp] theorem State.setEngine_engTlb (s : State) (e : Nat) (x : EngineSt) : (s.setEngine e x).engTlb = s.engTlb := rfl
@[simp] theorem State.setEngine_walks (s : State) (e : Nat) (x : EngineSt) : (s.setEngine e x).walks = s.walks := rfl
@[simp] theorem State.setEngine_invq (s : State) (e : Nat) (x : EngineSt) : (s.setEngine e x).invq = s.invq := rfl
@[simp] theorem State.setEngine_invHeld (s : State) (e : Nat) (x : EngineSt) : (s.setEngine e x).invHeld = s.invHeld := rfl
@[simp] theorem State.setEngine_buckets (s : State) (e : Nat) (x : EngineSt) : (s.setEngine e x).buckets = s.buckets := rfl
@[simp] theorem State.setEngine_traffic (s : State) (e : Nat) (x : EngineSt) : (s.setEngine e x).traffic = s.traffic := rfl
@[simp] theorem State.setEngine_posts (s : State) (e : Nat) (x : EngineSt) : (s.setEngine e x).posts = s.posts := rfl
@[simp] theorem State.setEngine_pchs (s : State) (e : Nat) (x : EngineSt) : (s.setEngine e x).pchs = s.pchs := rfl
@[simp] theorem State.setEngine_hotWant (s : State) (e : Nat) (x : EngineSt) : (s.setEngine e x).hotWant = s.hotWant := rfl
@[simp] theorem State.setEngine_groups (s : State) (e : Nat) (x : EngineSt) : (s.setEngine e x).groups = s.groups := rfl
@[simp] theorem State.setEngine_teams (s : State) (e : Nat) (x : EngineSt) : (s.setEngine e x).teams = s.teams := rfl
@[simp] theorem State.setEngine_grids (s : State) (e : Nat) (x : EngineSt) : (s.setEngine e x).grids = s.grids := rfl
@[simp] theorem State.setEngine_parts (s : State) (e : Nat) (x : EngineSt) : (s.setEngine e x).parts = s.parts := rfl
@[simp] theorem State.setEngine_saved (s : State) (e : Nat) (x : EngineSt) : (s.setEngine e x).saved = s.saved := rfl
@[simp] theorem State.setEngine_gridNum (s : State) (e : Nat) (x : EngineSt) : (s.setEngine e x).gridNum = s.gridNum := rfl
@[simp] theorem State.setEngine_susp (s : State) (e : Nat) (x : EngineSt) : (s.setEngine e x).susp = s.susp := rfl
@[simp] theorem State.setEngine_endings (s : State) (e : Nat) (x : EngineSt) : (s.setEngine e x).endings = s.endings := rfl
@[simp] theorem State.setEngine_ecmds (s : State) (e : Nat) (x : EngineSt) : (s.setEngine e x).ecmds = s.ecmds := rfl
@[simp] theorem State.setEngine_remotes (s : State) (e : Nat) (x : EngineSt) : (s.setEngine e x).remotes = s.remotes := rfl
@[simp] theorem State.setEngine_wireOut (s : State) (e : Nat) (x : EngineSt) : (s.setEngine e x).wireOut = s.wireOut := rfl
@[simp] theorem State.setEngine_replies (s : State) (e : Nat) (x : EngineSt) : (s.setEngine e x).replies = s.replies := rfl
@[simp] theorem State.setEngine_mcmds (s : State) (e : Nat) (x : EngineSt) : (s.setEngine e x).mcmds = s.mcmds := rfl
@[simp] theorem State.setEngine_fxs (s : State) (e : Nat) (x : EngineSt) : (s.setEngine e x).fxs = s.fxs := rfl
@[simp] theorem State.setEngine_fxWires (s : State) (e : Nat) (x : EngineSt) : (s.setEngine e x).fxWires = s.fxWires := rfl
@[simp] theorem State.setEngine_phasers (s : State) (e : Nat) (x : EngineSt) : (s.setEngine e x).phasers = s.phasers := rfl
@[simp] theorem State.setEngine_phMsgs (s : State) (e : Nat) (x : EngineSt) : (s.setEngine e x).phMsgs = s.phMsgs := rfl
@[simp] theorem State.setEngine_fallow (s : State) (e : Nat) (x : EngineSt) : (s.setEngine e x).fallow = s.fallow := rfl
@[simp] theorem State.setEngine_graces (s : State) (e : Nat) (x : EngineSt) : (s.setEngine e x).graces = s.graces := rfl
@[simp] theorem State.setEngine_queues (s : State) (e : Nat) (x : EngineSt) : (s.setEngine e x).queues = s.queues := rfl
@[simp] theorem State.setEngine_suspends (s : State) (e : Nat) (x : EngineSt) : (s.setEngine e x).suspends = s.suspends := rfl
@[simp] theorem State.setEngine_troughs (s : State) (e : Nat) (x : EngineSt) : (s.setEngine e x).troughs = s.troughs := rfl
@[simp] theorem State.setEngine_graphs (s : State) (e : Nat) (x : EngineSt) : (s.setEngine e x).graphs = s.graphs := rfl
@[simp] theorem State.setEngine_events (s : State) (e : Nat) (x : EngineSt) : (s.setEngine e x).events = s.events := rfl
@[simp] theorem State.setEngine_ctxGen (s : State) (e : Nat) (x : EngineSt) : (s.setEngine e x).ctxGen = s.ctxGen := rfl
@[simp] theorem State.setEngine_preemptAt (s : State) (e : Nat) (x : EngineSt) : (s.setEngine e x).preemptAt = s.preemptAt := rfl
@[simp] theorem State.setEngine_preempts (s : State) (e : Nat) (x : EngineSt) : (s.setEngine e x).preempts = s.preempts := rfl
@[simp] theorem State.setEngine_ended (s : State) (e : Nat) (x : EngineSt) : (s.setEngine e x).ended = s.ended := rfl
@[simp] theorem State.setEngine_tbufs (s : State) (e : Nat) (x : EngineSt) : (s.setEngine e x).tbufs = s.tbufs := rfl
@[simp] theorem State.setEngine_traces (s : State) (e : Nat) (x : EngineSt) : (s.setEngine e x).traces = s.traces := rfl
@[simp] theorem State.setEngine_trial (s : State) (e : Nat) (x : EngineSt) : (s.setEngine e x).trial = s.trial := rfl
@[simp] theorem State.setEngine_stops (s : State) (e : Nat) (x : EngineSt) : (s.setEngine e x).stops = s.stops := rfl
@[simp] theorem State.setEngine_boot (s : State) (e : Nat) (x : EngineSt) : (s.setEngine e x).boot = s.boot := rfl
@[simp] theorem State.setEngine_ckpt (s : State) (e : Nat) (x : EngineSt) : (s.setEngine e x).ckpt = s.ckpt := rfl
@[simp] theorem State.setEngine_ckptWait (s : State) (e : Nat) (x : EngineSt) : (s.setEngine e x).ckptWait = s.ckptWait := rfl
@[simp] theorem State.setEngine_ras (s : State) (e : Nat) (x : EngineSt) : (s.setEngine e x).ras = s.ras := rfl
@[simp] theorem State.setEngine_power (s : State) (e : Nat) (x : EngineSt) : (s.setEngine e x).power = s.power := rfl

-- ## `setPch`

@[simp] theorem State.setPch_tick (s : State) (p : Nat) (x : PchSt) : (s.setPch p x).tick = s.tick := rfl
@[simp] theorem State.setPch_agenda (s : State) (p : Nat) (x : PchSt) : (s.setPch p x).agenda = s.agenda := rfl
@[simp] theorem State.setPch_ev (s : State) (p : Nat) (x : PchSt) : (s.setPch p x).ev = s.ev := rfl
@[simp] theorem State.setPch_cur (s : State) (p : Nat) (x : PchSt) : (s.setPch p x).cur = s.cur := rfl
@[simp] theorem State.setPch_curFx (s : State) (p : Nat) (x : PchSt) : (s.setPch p x).curFx = s.curFx := rfl
@[simp] theorem State.setPch_curDie (s : State) (p : Nat) (x : PchSt) : (s.setPch p x).curDie = s.curDie := rfl
@[simp] theorem State.setPch_nextId (s : State) (p : Nat) (x : PchSt) : (s.setPch p x).nextId = s.nextId := rfl
@[simp] theorem State.setPch_now (s : State) (p : Nat) (x : PchSt) : (s.setPch p x).now = s.now := rfl
@[simp] theorem State.setPch_timeBase (s : State) (p : Nat) (x : PchSt) : (s.setPch p x).timeBase = s.timeBase := rfl
@[simp] theorem State.setPch_mmio (s : State) (p : Nat) (x : PchSt) : (s.setPch p x).mmio = s.mmio := rfl
@[simp] theorem State.setPch_mem (s : State) (p : Nat) (x : PchSt) : (s.setPch p x).mem = s.mem := rfl
@[simp] theorem State.setPch_burst (s : State) (p : Nat) (x : PchSt) : (s.setPch p x).burst = s.burst := rfl
@[simp] theorem State.setPch_poison (s : State) (p : Nat) (x : PchSt) : (s.setPch p x).poison = s.poison := rfl
@[simp] theorem State.setPch_stale (s : State) (p : Nat) (x : PchSt) : (s.setPch p x).stale = s.stale := rfl
@[simp] theorem State.setPch_keySlots (s : State) (p : Nat) (x : PchSt) : (s.setPch p x).keySlots = s.keySlots := rfl
@[simp] theorem State.setPch_keyLoad (s : State) (p : Nat) (x : PchSt) : (s.setPch p x).keyLoad = s.keyLoad := rfl
@[simp] theorem State.setPch_removedPch (s : State) (p : Nat) (x : PchSt) : (s.setPch p x).removedPch = s.removedPch := rfl
@[simp] theorem State.setPch_retiredRows (s : State) (p : Nat) (x : PchSt) : (s.setPch p x).retiredRows = s.retiredRows := rfl
@[simp] theorem State.setPch_removedUnits (s : State) (p : Nat) (x : PchSt) : (s.setPch p x).removedUnits = s.removedUnits := rfl
@[simp] theorem State.setPch_cores (s : State) (p : Nat) (x : PchSt) : (s.setPch p x).cores = s.cores := rfl
@[simp] theorem State.setPch_clusters (s : State) (p : Nat) (x : PchSt) : (s.setPch p x).clusters = s.clusters := rfl
@[simp] theorem State.setPch_slices (s : State) (p : Nat) (x : PchSt) : (s.setPch p x).slices = s.slices := rfl
@[simp] theorem State.setPch_engTlb (s : State) (p : Nat) (x : PchSt) : (s.setPch p x).engTlb = s.engTlb := rfl
@[simp] theorem State.setPch_walks (s : State) (p : Nat) (x : PchSt) : (s.setPch p x).walks = s.walks := rfl
@[simp] theorem State.setPch_invq (s : State) (p : Nat) (x : PchSt) : (s.setPch p x).invq = s.invq := rfl
@[simp] theorem State.setPch_invHeld (s : State) (p : Nat) (x : PchSt) : (s.setPch p x).invHeld = s.invHeld := rfl
@[simp] theorem State.setPch_buckets (s : State) (p : Nat) (x : PchSt) : (s.setPch p x).buckets = s.buckets := rfl
@[simp] theorem State.setPch_traffic (s : State) (p : Nat) (x : PchSt) : (s.setPch p x).traffic = s.traffic := rfl
@[simp] theorem State.setPch_posts (s : State) (p : Nat) (x : PchSt) : (s.setPch p x).posts = s.posts := rfl
@[simp] theorem State.setPch_hotWant (s : State) (p : Nat) (x : PchSt) : (s.setPch p x).hotWant = s.hotWant := rfl
@[simp] theorem State.setPch_groups (s : State) (p : Nat) (x : PchSt) : (s.setPch p x).groups = s.groups := rfl
@[simp] theorem State.setPch_teams (s : State) (p : Nat) (x : PchSt) : (s.setPch p x).teams = s.teams := rfl
@[simp] theorem State.setPch_grids (s : State) (p : Nat) (x : PchSt) : (s.setPch p x).grids = s.grids := rfl
@[simp] theorem State.setPch_parts (s : State) (p : Nat) (x : PchSt) : (s.setPch p x).parts = s.parts := rfl
@[simp] theorem State.setPch_saved (s : State) (p : Nat) (x : PchSt) : (s.setPch p x).saved = s.saved := rfl
@[simp] theorem State.setPch_gridNum (s : State) (p : Nat) (x : PchSt) : (s.setPch p x).gridNum = s.gridNum := rfl
@[simp] theorem State.setPch_susp (s : State) (p : Nat) (x : PchSt) : (s.setPch p x).susp = s.susp := rfl
@[simp] theorem State.setPch_endings (s : State) (p : Nat) (x : PchSt) : (s.setPch p x).endings = s.endings := rfl
@[simp] theorem State.setPch_engines (s : State) (p : Nat) (x : PchSt) : (s.setPch p x).engines = s.engines := rfl
@[simp] theorem State.setPch_ecmds (s : State) (p : Nat) (x : PchSt) : (s.setPch p x).ecmds = s.ecmds := rfl
@[simp] theorem State.setPch_remotes (s : State) (p : Nat) (x : PchSt) : (s.setPch p x).remotes = s.remotes := rfl
@[simp] theorem State.setPch_wireOut (s : State) (p : Nat) (x : PchSt) : (s.setPch p x).wireOut = s.wireOut := rfl
@[simp] theorem State.setPch_replies (s : State) (p : Nat) (x : PchSt) : (s.setPch p x).replies = s.replies := rfl
@[simp] theorem State.setPch_mcmds (s : State) (p : Nat) (x : PchSt) : (s.setPch p x).mcmds = s.mcmds := rfl
@[simp] theorem State.setPch_fxs (s : State) (p : Nat) (x : PchSt) : (s.setPch p x).fxs = s.fxs := rfl
@[simp] theorem State.setPch_fxWires (s : State) (p : Nat) (x : PchSt) : (s.setPch p x).fxWires = s.fxWires := rfl
@[simp] theorem State.setPch_phasers (s : State) (p : Nat) (x : PchSt) : (s.setPch p x).phasers = s.phasers := rfl
@[simp] theorem State.setPch_phMsgs (s : State) (p : Nat) (x : PchSt) : (s.setPch p x).phMsgs = s.phMsgs := rfl
@[simp] theorem State.setPch_fallow (s : State) (p : Nat) (x : PchSt) : (s.setPch p x).fallow = s.fallow := rfl
@[simp] theorem State.setPch_graces (s : State) (p : Nat) (x : PchSt) : (s.setPch p x).graces = s.graces := rfl
@[simp] theorem State.setPch_queues (s : State) (p : Nat) (x : PchSt) : (s.setPch p x).queues = s.queues := rfl
@[simp] theorem State.setPch_suspends (s : State) (p : Nat) (x : PchSt) : (s.setPch p x).suspends = s.suspends := rfl
@[simp] theorem State.setPch_troughs (s : State) (p : Nat) (x : PchSt) : (s.setPch p x).troughs = s.troughs := rfl
@[simp] theorem State.setPch_graphs (s : State) (p : Nat) (x : PchSt) : (s.setPch p x).graphs = s.graphs := rfl
@[simp] theorem State.setPch_events (s : State) (p : Nat) (x : PchSt) : (s.setPch p x).events = s.events := rfl
@[simp] theorem State.setPch_ctxGen (s : State) (p : Nat) (x : PchSt) : (s.setPch p x).ctxGen = s.ctxGen := rfl
@[simp] theorem State.setPch_preemptAt (s : State) (p : Nat) (x : PchSt) : (s.setPch p x).preemptAt = s.preemptAt := rfl
@[simp] theorem State.setPch_preempts (s : State) (p : Nat) (x : PchSt) : (s.setPch p x).preempts = s.preempts := rfl
@[simp] theorem State.setPch_ended (s : State) (p : Nat) (x : PchSt) : (s.setPch p x).ended = s.ended := rfl
@[simp] theorem State.setPch_tbufs (s : State) (p : Nat) (x : PchSt) : (s.setPch p x).tbufs = s.tbufs := rfl
@[simp] theorem State.setPch_traces (s : State) (p : Nat) (x : PchSt) : (s.setPch p x).traces = s.traces := rfl
@[simp] theorem State.setPch_trial (s : State) (p : Nat) (x : PchSt) : (s.setPch p x).trial = s.trial := rfl
@[simp] theorem State.setPch_stops (s : State) (p : Nat) (x : PchSt) : (s.setPch p x).stops = s.stops := rfl
@[simp] theorem State.setPch_boot (s : State) (p : Nat) (x : PchSt) : (s.setPch p x).boot = s.boot := rfl
@[simp] theorem State.setPch_ckpt (s : State) (p : Nat) (x : PchSt) : (s.setPch p x).ckpt = s.ckpt := rfl
@[simp] theorem State.setPch_ckptWait (s : State) (p : Nat) (x : PchSt) : (s.setPch p x).ckptWait = s.ckptWait := rfl
@[simp] theorem State.setPch_ras (s : State) (p : Nat) (x : PchSt) : (s.setPch p x).ras = s.ras := rfl
@[simp] theorem State.setPch_power (s : State) (p : Nat) (x : PchSt) : (s.setPch p x).power = s.power := rfl

-- ## `setGraph`

@[simp] theorem State.setGraph_tick (s : State) (k : Nat) (g : GraphSt) : (s.setGraph k g).tick = s.tick := rfl
@[simp] theorem State.setGraph_agenda (s : State) (k : Nat) (g : GraphSt) : (s.setGraph k g).agenda = s.agenda := rfl
@[simp] theorem State.setGraph_ev (s : State) (k : Nat) (g : GraphSt) : (s.setGraph k g).ev = s.ev := rfl
@[simp] theorem State.setGraph_cur (s : State) (k : Nat) (g : GraphSt) : (s.setGraph k g).cur = s.cur := rfl
@[simp] theorem State.setGraph_curFx (s : State) (k : Nat) (g : GraphSt) : (s.setGraph k g).curFx = s.curFx := rfl
@[simp] theorem State.setGraph_curDie (s : State) (k : Nat) (g : GraphSt) : (s.setGraph k g).curDie = s.curDie := rfl
@[simp] theorem State.setGraph_nextId (s : State) (k : Nat) (g : GraphSt) : (s.setGraph k g).nextId = s.nextId := rfl
@[simp] theorem State.setGraph_now (s : State) (k : Nat) (g : GraphSt) : (s.setGraph k g).now = s.now := rfl
@[simp] theorem State.setGraph_timeBase (s : State) (k : Nat) (g : GraphSt) : (s.setGraph k g).timeBase = s.timeBase := rfl
@[simp] theorem State.setGraph_mmio (s : State) (k : Nat) (g : GraphSt) : (s.setGraph k g).mmio = s.mmio := rfl
@[simp] theorem State.setGraph_mem (s : State) (k : Nat) (g : GraphSt) : (s.setGraph k g).mem = s.mem := rfl
@[simp] theorem State.setGraph_burst (s : State) (k : Nat) (g : GraphSt) : (s.setGraph k g).burst = s.burst := rfl
@[simp] theorem State.setGraph_poison (s : State) (k : Nat) (g : GraphSt) : (s.setGraph k g).poison = s.poison := rfl
@[simp] theorem State.setGraph_stale (s : State) (k : Nat) (g : GraphSt) : (s.setGraph k g).stale = s.stale := rfl
@[simp] theorem State.setGraph_keySlots (s : State) (k : Nat) (g : GraphSt) : (s.setGraph k g).keySlots = s.keySlots := rfl
@[simp] theorem State.setGraph_keyLoad (s : State) (k : Nat) (g : GraphSt) : (s.setGraph k g).keyLoad = s.keyLoad := rfl
@[simp] theorem State.setGraph_removedPch (s : State) (k : Nat) (g : GraphSt) : (s.setGraph k g).removedPch = s.removedPch := rfl
@[simp] theorem State.setGraph_retiredRows (s : State) (k : Nat) (g : GraphSt) : (s.setGraph k g).retiredRows = s.retiredRows := rfl
@[simp] theorem State.setGraph_removedUnits (s : State) (k : Nat) (g : GraphSt) : (s.setGraph k g).removedUnits = s.removedUnits := rfl
@[simp] theorem State.setGraph_cores (s : State) (k : Nat) (g : GraphSt) : (s.setGraph k g).cores = s.cores := rfl
@[simp] theorem State.setGraph_clusters (s : State) (k : Nat) (g : GraphSt) : (s.setGraph k g).clusters = s.clusters := rfl
@[simp] theorem State.setGraph_slices (s : State) (k : Nat) (g : GraphSt) : (s.setGraph k g).slices = s.slices := rfl
@[simp] theorem State.setGraph_engTlb (s : State) (k : Nat) (g : GraphSt) : (s.setGraph k g).engTlb = s.engTlb := rfl
@[simp] theorem State.setGraph_walks (s : State) (k : Nat) (g : GraphSt) : (s.setGraph k g).walks = s.walks := rfl
@[simp] theorem State.setGraph_invq (s : State) (k : Nat) (g : GraphSt) : (s.setGraph k g).invq = s.invq := rfl
@[simp] theorem State.setGraph_invHeld (s : State) (k : Nat) (g : GraphSt) : (s.setGraph k g).invHeld = s.invHeld := rfl
@[simp] theorem State.setGraph_buckets (s : State) (k : Nat) (g : GraphSt) : (s.setGraph k g).buckets = s.buckets := rfl
@[simp] theorem State.setGraph_traffic (s : State) (k : Nat) (g : GraphSt) : (s.setGraph k g).traffic = s.traffic := rfl
@[simp] theorem State.setGraph_posts (s : State) (k : Nat) (g : GraphSt) : (s.setGraph k g).posts = s.posts := rfl
@[simp] theorem State.setGraph_pchs (s : State) (k : Nat) (g : GraphSt) : (s.setGraph k g).pchs = s.pchs := rfl
@[simp] theorem State.setGraph_hotWant (s : State) (k : Nat) (g : GraphSt) : (s.setGraph k g).hotWant = s.hotWant := rfl
@[simp] theorem State.setGraph_groups (s : State) (k : Nat) (g : GraphSt) : (s.setGraph k g).groups = s.groups := rfl
@[simp] theorem State.setGraph_teams (s : State) (k : Nat) (g : GraphSt) : (s.setGraph k g).teams = s.teams := rfl
@[simp] theorem State.setGraph_grids (s : State) (k : Nat) (g : GraphSt) : (s.setGraph k g).grids = s.grids := rfl
@[simp] theorem State.setGraph_parts (s : State) (k : Nat) (g : GraphSt) : (s.setGraph k g).parts = s.parts := rfl
@[simp] theorem State.setGraph_saved (s : State) (k : Nat) (g : GraphSt) : (s.setGraph k g).saved = s.saved := rfl
@[simp] theorem State.setGraph_gridNum (s : State) (k : Nat) (g : GraphSt) : (s.setGraph k g).gridNum = s.gridNum := rfl
@[simp] theorem State.setGraph_susp (s : State) (k : Nat) (g : GraphSt) : (s.setGraph k g).susp = s.susp := rfl
@[simp] theorem State.setGraph_endings (s : State) (k : Nat) (g : GraphSt) : (s.setGraph k g).endings = s.endings := rfl
@[simp] theorem State.setGraph_engines (s : State) (k : Nat) (g : GraphSt) : (s.setGraph k g).engines = s.engines := rfl
@[simp] theorem State.setGraph_ecmds (s : State) (k : Nat) (g : GraphSt) : (s.setGraph k g).ecmds = s.ecmds := rfl
@[simp] theorem State.setGraph_remotes (s : State) (k : Nat) (g : GraphSt) : (s.setGraph k g).remotes = s.remotes := rfl
@[simp] theorem State.setGraph_wireOut (s : State) (k : Nat) (g : GraphSt) : (s.setGraph k g).wireOut = s.wireOut := rfl
@[simp] theorem State.setGraph_replies (s : State) (k : Nat) (g : GraphSt) : (s.setGraph k g).replies = s.replies := rfl
@[simp] theorem State.setGraph_mcmds (s : State) (k : Nat) (g : GraphSt) : (s.setGraph k g).mcmds = s.mcmds := rfl
@[simp] theorem State.setGraph_fxs (s : State) (k : Nat) (g : GraphSt) : (s.setGraph k g).fxs = s.fxs := rfl
@[simp] theorem State.setGraph_fxWires (s : State) (k : Nat) (g : GraphSt) : (s.setGraph k g).fxWires = s.fxWires := rfl
@[simp] theorem State.setGraph_phasers (s : State) (k : Nat) (g : GraphSt) : (s.setGraph k g).phasers = s.phasers := rfl
@[simp] theorem State.setGraph_phMsgs (s : State) (k : Nat) (g : GraphSt) : (s.setGraph k g).phMsgs = s.phMsgs := rfl
@[simp] theorem State.setGraph_fallow (s : State) (k : Nat) (g : GraphSt) : (s.setGraph k g).fallow = s.fallow := rfl
@[simp] theorem State.setGraph_graces (s : State) (k : Nat) (g : GraphSt) : (s.setGraph k g).graces = s.graces := rfl
@[simp] theorem State.setGraph_queues (s : State) (k : Nat) (g : GraphSt) : (s.setGraph k g).queues = s.queues := rfl
@[simp] theorem State.setGraph_suspends (s : State) (k : Nat) (g : GraphSt) : (s.setGraph k g).suspends = s.suspends := rfl
@[simp] theorem State.setGraph_troughs (s : State) (k : Nat) (g : GraphSt) : (s.setGraph k g).troughs = s.troughs := rfl
@[simp] theorem State.setGraph_events (s : State) (k : Nat) (g : GraphSt) : (s.setGraph k g).events = s.events := rfl
@[simp] theorem State.setGraph_ctxGen (s : State) (k : Nat) (g : GraphSt) : (s.setGraph k g).ctxGen = s.ctxGen := rfl
@[simp] theorem State.setGraph_preemptAt (s : State) (k : Nat) (g : GraphSt) : (s.setGraph k g).preemptAt = s.preemptAt := rfl
@[simp] theorem State.setGraph_preempts (s : State) (k : Nat) (g : GraphSt) : (s.setGraph k g).preempts = s.preempts := rfl
@[simp] theorem State.setGraph_ended (s : State) (k : Nat) (g : GraphSt) : (s.setGraph k g).ended = s.ended := rfl
@[simp] theorem State.setGraph_tbufs (s : State) (k : Nat) (g : GraphSt) : (s.setGraph k g).tbufs = s.tbufs := rfl
@[simp] theorem State.setGraph_traces (s : State) (k : Nat) (g : GraphSt) : (s.setGraph k g).traces = s.traces := rfl
@[simp] theorem State.setGraph_trial (s : State) (k : Nat) (g : GraphSt) : (s.setGraph k g).trial = s.trial := rfl
@[simp] theorem State.setGraph_stops (s : State) (k : Nat) (g : GraphSt) : (s.setGraph k g).stops = s.stops := rfl
@[simp] theorem State.setGraph_boot (s : State) (k : Nat) (g : GraphSt) : (s.setGraph k g).boot = s.boot := rfl
@[simp] theorem State.setGraph_ckpt (s : State) (k : Nat) (g : GraphSt) : (s.setGraph k g).ckpt = s.ckpt := rfl
@[simp] theorem State.setGraph_ckptWait (s : State) (k : Nat) (g : GraphSt) : (s.setGraph k g).ckptWait = s.ckptWait := rfl
@[simp] theorem State.setGraph_ras (s : State) (k : Nat) (g : GraphSt) : (s.setGraph k g).ras = s.ras := rfl
@[simp] theorem State.setGraph_power (s : State) (k : Nat) (g : GraphSt) : (s.setGraph k g).power = s.power := rfl

-- ## What they change

@[simp] theorem State.setGrp_groups (s : State) (gid : Nat) (g : Group) : (s.setGrp gid g).groups = s.groups.insert gid g := rfl
@[simp] theorem State.updGrp_groups (s : State) (gid : Nat) (f : Group → Group) : (s.updGrp gid f).groups = s.groups.adjust gid f := rfl
@[simp] theorem State.setTeam_teams (s : State) (tid : Nat) (t : Team) : (s.setTeam tid t).teams = s.teams.insert tid t := rfl
@[simp] theorem State.setPart_parts (s : State) (p : Nat) (x : PartSt) : (s.setPart p x).parts = s.parts.set PartSt.init p x := rfl
@[simp] theorem State.setCore_cores (s : State) (c : Nat) (x : CoreSt) : (s.setCore c x).cores = s.cores.set CoreSt.init c x := rfl
@[simp] theorem State.setReg_mmio (s : State) (a : Nat) (v : W64) : (s.setReg a v).mmio = s.mmio.set (regReset a) a v := rfl
@[simp] theorem State.setFx_fxs (s : State) (p : Nat) (x : FxSt) : (s.setFx p x).fxs = s.fxs.set FxSt.init p x := rfl
@[simp] theorem State.setEngine_engines (s : State) (e : Nat) (x : EngineSt) : (s.setEngine e x).engines = s.engines.set EngineSt.init e x := rfl
@[simp] theorem State.setPch_pchs (s : State) (p : Nat) (x : PchSt) : (s.setPch p x).pchs = s.pchs.insert p x := rfl
@[simp] theorem State.setGraph_graphs (s : State) (k : Nat) (g : GraphSt) : (s.setGraph k g).graphs = s.graphs.insert k g := rfl
@[simp] theorem State.advance_groups (s : State) : s.advance.groups = s.observe.groups := rfl

end Sys2Proof.Machine
end

