-- ==== Sys2Proof/Laws/Issue.lean ====
section
/-! SUPPORT. The issue of a word: what its bookkeeping leaves alone, and what a register word leaves (R40 to R48, R31). -/

namespace Sys2Proof.Machine

-- ## Lookups after updates

theorem grp_updGrp (s : State) (gid i : Nat) (f : Group → Group) :
    (s.updGrp gid f).grp i = if gid = i then (s.grp gid).map f else s.grp i := by
  unfold State.grp State.updGrp; exact SMap.find?_adjust _ _ _ _
theorem grp_setGrp (s : State) (gid i : Nat) (g : Group) :
    (s.setGrp gid g).grp i = if gid = i then some g else s.grp i := by
  unfold State.grp State.setGrp; exact SMap.find?_insert _ _ _ _
theorem reg_setReg (s : State) (a b : Nat) (v : W64) : (s.setReg a v).reg b = if a = b then v else s.reg b := by
  unfold State.reg State.setReg
  by_cases h : a = b
  · subst h; simp [SMap.get_set]
  · have : SMap.get (regReset b) (SMap.set (regReset a) s.mmio a v) b = SMap.get (regReset b) s.mmio b := by
      unfold SMap.get SMap.set
      split
      · rw [SMap.find?_erase, if_neg h]
      · rw [SMap.find?_insert, if_neg h]
    simpa [h] using this
theorem reg_congr {s t : State} (h : t.mmio = s.mmio) (a : Nat) : t.reg a = s.reg a := by
  unfold State.reg; rw [h]

-- ## Splits

theorem split?_map_ne (l : List Split) (sp : Split) (i : Nat) (h : i ≠ sp.idx) :
    (l.map (fun x => if x.idx = sp.idx then sp else x)).find? (fun x => x.idx == i) = l.find? (fun x => x.idx == i) := by
  induction l with
  | nil => rfl
  | cons x l ih =>
    rw [List.map_cons, List.find?_cons, List.find?_cons, ih]
    by_cases e : x.idx = sp.idx
    · have h1 : (sp.idx == i) = false := by simpa using (Ne.symm h)
      have h2 : (x.idx == i) = false := by simpa [e] using (Ne.symm h)
      simp [e, h1]
    · simp [e]
theorem split?_map_self (l : List Split) (sp x : Split) (h : l.find? (fun x => x.idx == sp.idx) = some x) :
    (l.map (fun x => if x.idx = sp.idx then sp else x)).find? (fun x => x.idx == sp.idx) = some sp := by
  induction l with
  | nil => cases h
  | cons y l ih =>
    rw [List.map_cons, List.find?_cons]
    rw [List.find?_cons] at h
    by_cases e : y.idx = sp.idx
    · simp [e]
    · have h1 : (y.idx == sp.idx) = false := by simpa using e
      simp only [h1] at h
      simp only [e, if_false, h1]
      exact ih h
theorem split?_putSplit_ne (g : Group) (sp : Split) (i : Nat) (h : i ≠ sp.idx) : (g.putSplit sp).split? i = g.split? i :=
  split?_map_ne _ _ _ h
theorem split?_putSplit_self (g : Group) (sp x : Split) (h : g.split? sp.idx = some x) :
    (g.putSplit sp).split? sp.idx = some sp := split?_map_self _ _ _ h
theorem find?_idx_filter (l : List Split) (q : Split → Bool) (i : Nat) (hq : ∀ x : Split, x.idx = i → q x = true) :
    (l.filter q).find? (fun x => x.idx == i) = l.find? (fun x => x.idx == i) := by
  induction l with
  | nil => rfl
  | cons x l ih =>
    rw [List.filter_cons, List.find?_cons]
    by_cases e : x.idx = i
    · rw [if_pos (hq x e), List.find?_cons]
      simp [e]
    · have e' : (x.idx == i) = false := by simpa using e
      rw [e']
      split
      · rw [List.find?_cons, e']; exact ih
      · exact ih
theorem split?_toBack (g : Group) (k i : Nat) : (g.toBack k).split? i = g.split? i := by
  unfold Group.toBack Group.split?
  show (List.filter (fun x => x.idx != k) g.splits ++ List.filter (fun x => x.idx == k) g.splits).find? _ = _
  rw [List.find?_append]
  by_cases e : i = k
  · subst e
    have h1 : (List.filter (fun x => x.idx != i) g.splits).find? (fun x => x.idx == i) = none := by
      rw [List.find?_eq_none]
      intro x hx
      have := (List.mem_filter.1 hx).2
      simpa using this
    rw [h1, Option.none_or]
    exact find?_idx_filter _ _ _ (fun x hx => by simpa using hx)
  · have h1 := find?_idx_filter g.splits (fun x => x.idx != k) i (fun x hx => by simp [hx, e])
    rw [h1]
    have h2 : (List.filter (fun x => x.idx == k) g.splits).find? (fun x => x.idx == i) = none := by
      rw [List.find?_eq_none]
      intro x hx
      have := (List.mem_filter.1 hx).2
      have h3 : x.idx = k := by simpa using this
      simp [h3, Ne.symm e]
    rw [h2, Option.or_none]
theorem split?_idx (g : Group) (i : Nat) (x : Split) (h : g.split? i = some x) : x.idx = i := by
  have := List.find?_some h; simpa using this

-- ## The bookkeeping

theorem Book.refl (s : State) (gid : Nat) : Book s s gid :=
  ⟨rfl, fun _ _ _ => rfl, fun _ _ => rfl, fun g h => ⟨g, h, rfl, fun _ => rfl⟩⟩
theorem Book.trans {s t u : State} {gid : Nat} (a : Book s t gid) (b : Book t u gid) : Book s u gid := by
  refine ⟨?_, ?_, ?_, ?_⟩
  · rw [b.state, a.state]
  · intro x h1 h2; rw [b.regs x h1 h2, a.regs x h1 h2]
  · intro i h; rw [b.groups i h, a.groups i h]
  · intro g h
    obtain ⟨g1, h1, e1, s1⟩ := a.own g h
    obtain ⟨g2, h2, e2, s2⟩ := b.own g1 h1
    refine ⟨g2, h2, ?_, fun i => (s2 i).trans (s1 i)⟩
    rw [e2, e1]
/-- A change of partitions, of trace buffers, or of the trial's two counters. -/
theorem Book.of_parts (s : State) (gid : Nat) (x : SMap PartSt) : Book s { s with parts := x } gid :=
  ⟨rfl, fun _ _ _ => rfl, fun _ _ => rfl, fun g h => ⟨g, h, rfl, fun _ => rfl⟩⟩
theorem Book.of_tbufs (s : State) (gid : Nat) (x : SMap TraceBuf) : Book s { s with tbufs := x } gid :=
  ⟨rfl, fun _ _ _ => rfl, fun _ _ => rfl, fun g h => ⟨g, h, rfl, fun _ => rfl⟩⟩
theorem Book.of_reg (s : State) (gid a : Nat) (v : W64) (h : a = trialAddr 0x30 ∨ a = trialAddr 0x38) :
    Book s (s.setReg a v) gid := by
  refine ⟨rfl, fun b h1 h2 => ?_, fun _ _ => rfl, fun g h => ⟨g, h, rfl, fun _ => rfl⟩⟩
  rw [reg_setReg, if_neg]; rintro rfl; rcases h with h | h
  · exact h1 h
  · exact h2 h
/-- A change of the group's own counters. -/
theorem Book.of_own (s : State) (gid : Nat) (f : Group → Group)
    (hf : ∀ g, f g = { g with splits := (f g).splits, runs := (f g).runs, trdly := (f g).trdly, readyAt := (f g).readyAt, wait := (f g).wait })
    (hs : ∀ g i, ((f g).split? i).map Split.core = (g.split? i).map Split.core) : Book s (s.updGrp gid f) gid := by
  refine ⟨rfl, fun _ _ _ => rfl, fun i h => ?_, fun g h => ⟨f g, ?_, hf g, hs g⟩⟩
  · rw [grp_updGrp, if_neg (Ne.symm h)]
  · rw [grp_updGrp, if_pos rfl, h]; rfl

theorem trace_book (s : State) (gid : Nat) (g : Group) (idx kind : Nat) (pc : W64) (seq : W32) (a b : Nat) :
    Book s (s.trace g idx kind pc seq a b) gid := by
  unfold State.trace
  dsimp only
  split
  · exact Book.of_tbufs _ _ _
  · exact Book.refl _ _
theorem sampleRun_book (s : State) (gid i idx : Nat) : Book s (s.sampleRun i idx) gid := by
  unfold State.sampleRun
  split
  · exact Book.refl _ _
  · dsimp only
    split
    · exact trace_book _ _ _ _ _ _ _ _ _
    · exact Book.refl _ _
theorem trialRun_book (s : State) (gid : Nat) (g : Group) (pc : W64) : Book s (s.trialRun g pc) gid := by
  have hp : ∀ t : State, ∀ x, Book t ((t.setPart g.partNo x).setReg (trialAddr 0x38) (t.reg (trialAddr 0x38) + 1)) gid :=
    fun t x => (Book.of_parts t gid _).trans (Book.of_reg _ _ _ _ (Or.inr rfl))
  unfold State.trialRun
  dsimp only
  split
  · split
    · split
      · split
        · exact Book.of_reg _ _ _ _ (Or.inl rfl)
        · exact Book.refl _ _
      · split
        · exact (hp _ _).trans (Book.of_reg _ _ _ _ (Or.inl rfl))
        · exact hp _ _
    · exact Book.refl _ _
  · exact Book.refl _ _
theorem waits_book (s : State) (gid : Nat) (q : Group → Bool) :
    Book s { s with groups := s.groups.mapV (fun g => if q g = true then { g with wait := g.wait + 1 } else g) } gid := by
  refine ⟨rfl, fun _ _ _ => rfl, fun i h => ?_, fun g h => ?_⟩
  · unfold State.grp
    dsimp only
    rw [SMap.find?_mapV, Option.map_map]
    congr 1; funext g; dsimp only [Function.comp]; split <;> rfl
  · refine ⟨if q g = true then { g with wait := g.wait + 1 } else g, ?_, ?_, ?_⟩
    · have h' : SMap.find? s.groups gid = some g := h
      unfold State.grp
      dsimp only
      rw [SMap.find?_mapV, h']; rfl
    · split <;> rfl
    · intro i; split <;> rfl
theorem beginRun_book (s : State) (c : Ctx) : Book s (s.beginRun c) c.gid := by
  unfold State.beginRun
  extract_lets p x s1 d s2 s3
  have h1 : Book s s1 c.gid := Book.of_parts _ _ _
  have h2 : Book s1 s2 c.gid := trialRun_book _ _ _ _
  have h3 : Book s2 s3 c.gid := by
    have := waits_book s2 c.gid (fun g => decide (g.partNo = p ∧ g.readyAt.isSome = true))
    simpa only [decide_eq_true_eq] using this
  exact ((h1.trans h2).trans h3).trans (Book.of_own _ _ _ (fun g => rfl) (fun g i => rfl))
theorem endRun_book (s : State) (gid idx : Nat) (sw : Bool) : Book s (s.endRun gid idx sw) gid := by
  unfold State.endRun
  extract_lets s1 s2
  have h1 : Book s s1 gid := sampleRun_book _ _ _ _
  have h2 : Book s1 s2 gid := Book.of_parts _ _ _
  refine (h1.trans h2).trans (Book.of_own _ _ _ (fun g => ?_) (fun g i => ?_))
  · dsimp only
    cases g.split? idx <;> dsimp only [Group.putSplit, Group.toBack] <;> split <;> rfl
  · have hp : ∀ sp, g.split? idx = some sp → ((g.putSplit { sp with demote := false }).split? i).map Split.core = (g.split? i).map Split.core := by
      intro sp hsp
      have hi := split?_idx g idx sp hsp
      by_cases e : i = idx
      · subst e
        have : (g.putSplit { sp with demote := false }).split? i = some { sp with demote := false } := by
          have := split?_putSplit_self g { sp with demote := false } sp (by simpa [hi] using hsp)
          simpa [hi] using this
        rw [this, hsp]; rfl
      · rw [split?_putSplit_ne _ _ _ (by simpa [hi] using e)]
    show Option.map Split.core (Group.split? _ i) = _
    cases hsp : g.split? idx with
    | none =>
      dsimp only
      split
      · show Option.map Split.core ((g.toBack idx).split? i) = _; rw [split?_toBack]
      · rfl
    | some sp =>
      dsimp only
      split
      · show Option.map Split.core (((g.putSplit { sp with demote := false }).toBack idx).split? i) = _
        rw [split?_toBack]; exact hp sp hsp
      · exact hp sp hsp
theorem countWord_book (s : State) (c : Ctx) (len : Nat) (e : Bool) : Book s (s.countWord c len e) c.gid := by
  unfold State.countWord
  extract_lets s1 s2
  have h1 : Book s s1 c.gid := by
    show Book s (if _ then _ else _) _
    split
    · exact beginRun_book _ _
    · exact Book.refl _ _
  have h2 : Book s1 s2 c.gid := Book.of_parts _ _ _
  split
  · exact (h1.trans h2).trans (endRun_book _ _ _ _)
  · exact h1.trans h2

-- ## Issue

/-- The group and split that `ctx?` finds. -/
theorem ctx?_some {s : State} {h : Hdr} {c : Ctx} (hc : s.ctx? h = some c) :
    ∃ g0 sp0, s.grp c.gid = some g0 ∧ g0.split? c.idx = some sp0 ∧ c.sp = { sp0 with st := .ready } ∧ c.g = g0.putSplit c.sp
      ∧ c.act = c.sp.mask &&& g0.guard h.pg h.pn ∧ s.cur = some (c.gid, c.idx) := by
  unfold State.ctx? at hc
  split at hc
  · cases hc
  · rename_i gid idx hcur
    split at hc
    · cases hc
    · rename_i g hg
      split at hc
      · cases hc
      · rename_i sp hsp
        cases hc
        exact ⟨g, sp, hg, hsp, rfl, rfl, rfl, hcur⟩
theorem issue_next {s : State} {h : Hdr} {us : List Use} {len : Nat} {c : Ctx} (hi : Issues s h us len c) (lat : Lat)
    (flg : Bool) (body : State → Ctx → Eff) :
    issue s h lat us flg len body = .next (applyEff c h lat us flg len (body s c)) := by
  unfold issue
  rw [hi.ctx]
  dsimp only
  unfold State.issueAt
  have h1 : us.any (fun u => !u.within c.g.budget) = false := by
    have := hi.budget
    simp only [List.all_eq_true] at this
    simp only [List.any_eq_false]
    intro x hx; simp [this x hx]
  rw [h1, hi.windows, hi.results]
  rfl

/-- The parts of a completed word's results that are plain: writes of registers and nothing else. -/
theorem writes_own (g : Group) (ws : List RegWrite) :
    g.writes ws = { g with v := (g.writes ws).v, s := (g.writes ws).s, d := (g.writes ws).d, p := (g.writes ws).p, flg := (g.writes ws).flg } := by
  induction ws generalizing g with
  | nil => rfl
  | cons w ws ih =>
    rw [writes_cons, ih (g.write w)]
    have : g.write w = { g with v := (g.write w).v, s := (g.write w).s, d := (g.write w).d, p := (g.write w).p, flg := (g.write w).flg } := by
      cases w <;> simp only [Group.write]
      · unfold Group.setV; split <;> rfl
      · unfold Group.setS; split <;> rfl
      · unfold Group.setP Group.setPm; split <;> rfl
      · rfl
      · rfl
    rw [this]
theorem homeByte_congr {s t : State} (hm : t.mem = s.mem) (hb : t.burst = s.burst) (hk : t.keySlots = s.keySlots) (k a : Nat) :
    t.homeByte k a = s.homeByte k a := by
  have e1 : t.keyOf k = s.keyOf k := by unfold State.keyOf; rw [hk]
  have e2 : ∀ b, t.plainBurst b = s.plainBurst b := by intro b; unfold State.plainBurst; rw [hm]
  have e3 : ∀ b x, t.burstUnder b x = s.burstUnder b x := by intro b x; unfold State.burstUnder; rw [hb, e2]
  unfold State.homeByte
  rw [hb, e1, hm, e3]
theorem split?_writes (g : Group) (ws : List RegWrite) (i : Nat) : (g.writes ws).split? i = g.split? i := by
  rw [writes_own]; rfl

/-- What a completed word that reads no bank line leaves: its results, its split at the next word, and nothing else changed. -/
theorem complete_spec (s : State) (h : Hdr) (c : Ctx) (hc : s.ctx? h = some c) (lat : Lat) (us : List Use) (flg : Bool)
    (len : Nat) (ws : List RegWrite) :
    ∃ g', OnlyRegs s (s.complete c h lat us flg len (Res.of ws)) c len g' ∧ Results s c lat us flg ws g' := by
  obtain ⟨g0, sp0, hg, hsp, ec, eg, -, -⟩ := ctx?_some hc
  have hidx : sp0.idx = c.idx := split?_idx _ _ _ hsp
  have hcidx : c.sp.idx = c.idx := by rw [ec]; exact hidx
  unfold State.complete
  extract_lets dests late pid s1 s2 s3
  have e3 : s3 = s2 := rfl
  clear_value s3
  subst e3
  -- the group after the results and the move
  let L : Bool := lat == .long && (!dests.isEmpty || flg)
  have eL : late = L := by simp [late, L, Res.of]
  have es1 : s1.grp c.gid = some g0 := by
    show State.grp (if _ then _ else _) _ = _
    split <;> exact hg
  have et : s1.tick = s.tick := by
    show State.tick (if _ then _ else _) = _
    split <;> rfl
  let wins := sp0.age g0 len ++ (if late && !dests.isEmpty then [⟨pid, h.la.toNat, dests⟩] else [])
  let sp1 : Split := { sp0 with pc := sp0.pc + BitVec.ofNat 64 (8 * len), wins := wins, holdFor := [], st := .ready }
  let g1 : Group := if late then { g0.putSplit sp1 with pend := g0.pend ++ [⟨pid, c.idx, dests, flg, false, 0, ws, none, c.sp.pc, s.tick⟩] }
    else (g0.putSplit sp1).writes ws
  have es2 : s2.grp c.gid = some g1 := by
    show (s1.updGrp c.gid _).grp c.gid = _
    rw [grp_updGrp, if_pos rfl, es1]
    simp only [Option.map_some, hsp, et, show (Res.of ws).bad.isSome = false from rfl, Bool.or_false]
    congr 1
  have hn : s2 = { s with groups := s2.groups, nextId := s2.nextId } := by
    have key : ∀ (b : Bool) (f : Group → Group),
        (if b = true then ({ s with nextId := s.nextId + 1 } : State) else s).updGrp c.gid f
          = { s with
              groups := ((if b = true then ({ s with nextId := s.nextId + 1 } : State) else s).updGrp c.gid f).groups
              nextId := ((if b = true then ({ s with nextId := s.nextId + 1 } : State) else s).updGrp c.gid f).nextId } := by
      intro b f; cases b <;> rfl
    exact key late _
  have hsplit : g1.split? c.idx = some sp1 := by
    have e0 : (g0.putSplit sp1).split? c.idx = some sp1 := by
      have := split?_putSplit_self g0 sp1 sp0 (by show g0.split? sp0.idx = _; rw [hidx]; exact hsp)
      rwa [show sp1.idx = c.idx from hidx] at this
    show Group.split? (if _ then _ else _) _ = _
    split
    · exact e0
    · rw [split?_writes]; exact e0
  have hothers : ∀ i, i ≠ c.idx → g1.split? i = g0.split? i := by
    intro i hi
    have e0 : (g0.putSplit sp1).split? i = g0.split? i := split?_putSplit_ne _ _ _ (by show i ≠ sp0.idx; rw [hidx]; exact hi)
    show Group.split? (if _ then _ else _) _ = _
    split
    · exact e0
    · rw [split?_writes]; exact e0
  have B := countWord_book s2 c len h.e
  obtain ⟨g', hg', eo, so⟩ := B.own g1 es2
  have hBs := B.state
  have egs : c.g = { g0 with splits := c.g.splits } := by rw [eg]; rfl
  refine ⟨g', ⟨?_, ?_, ?_, ?_, hg', ?_, ?_⟩, ?_⟩
  · rw [hBs, hn]
  · intro a h1 h2
    rw [B.regs a h1 h2]
    exact reg_congr (by rw [hn]) a
  · intro k a
    apply homeByte_congr <;> rw [hBs, hn]
  · intro i hi
    rw [B.groups i hi]
    have : s2.grp i = s.grp i := by
      show (s1.updGrp c.gid _).grp i = _
      rw [grp_updGrp, if_neg (Ne.symm hi)]
      show State.grp (if _ then _ else _) _ = _
      split <;> rfl
    rw [this]
  · have h1 : g1 = { c.g with v := g1.v, s := g1.s, d := g1.d, p := g1.p, flg := g1.flg, splits := g1.splits, pend := g1.pend } := by
      rw [egs]
      show (if _ then _ else _) = _
      by_cases hl : late = true
      · simp only [g1, hl, if_true]; rfl
      · simp only [g1, hl, if_false, Bool.false_eq_true]
        rw [writes_own]; rfl
    rw [eo, h1]
  · constructor
    · have h1 := so c.idx
      rw [hsplit] at h1
      cases hx : g'.split? c.idx with
      | none => rw [hx] at h1; cases h1
      | some x =>
        rw [hx] at h1
        have h2 : Split.core x = Split.core sp1 := by simpa using h1
        have p1 : x.pc = sp1.pc := (congrArg Split.pc h2 : x.core.pc = sp1.core.pc)
        have p2 : x.mask = sp1.mask := (congrArg Split.mask h2 : x.core.mask = sp1.core.mask)
        have p3 : x.st = sp1.st := (congrArg Split.st h2 : x.core.st = sp1.core.st)
        refine ⟨x, rfl, ?_, ?_, p3⟩
        · rw [p1, ec]
        · rw [p2, ec]
    · intro i hi
      rw [so i, hothers i hi, eg, split?_putSplit_ne _ _ _ (by rw [hcidx]; exact hi)]
  · have hcond : (lat = .long ∧ (destNames us ≠ [] ∨ flg = true)) ↔ late = true := by
      rw [eL]
      show _ ↔ (lat == .long && (!(destNames us).isEmpty || flg)) = true
      cases lat <;> cases flg <;> simp
    have hpidx : pid = s.nextId := rfl
    unfold Results
    by_cases hl : late = true
    · rw [if_pos (hcond.2 hl)]
      have h1 : g1 = { g0.putSplit sp1 with pend := g0.pend ++ [⟨pid, c.idx, dests, flg, false, 0, ws, none, c.sp.pc, s.tick⟩] } := by
        simp only [g1, hl, if_true]
      rw [eo, h1, egs]
      exact ⟨⟨rfl, rfl, rfl, rfl, rfl⟩, rfl⟩
    · rw [if_neg (fun hh => hl (hcond.1 hh))]
      have h1 : g1 = (g0.putSplit sp1).writes ws := by simp only [g1, hl, if_false, Bool.false_eq_true]
      have h2 : ∀ (ws : List RegWrite) (a b : Group), SameRegs a b → SameRegs (a.writes ws) (b.writes ws) := by
        intro ws
        induction ws with
        | nil => intro a b h; exact h
        | cons w ws ih =>
          intro a b hab
          rw [writes_cons, writes_cons]
          apply ih
          obtain ⟨h1, h2, h3, h4, h5⟩ := hab
          cases w <;> simp only [Group.write, Group.setV, Group.setS, Group.setP, Group.setPm, Group.setD, Group.orFlg, Group.getFlg, Group.getP]
          · split
            · exact ⟨h1, h2, h3, h4, h5⟩
            · exact ⟨by simp only [h1], h2, h3, h4, h5⟩
          · split
            · exact ⟨h1, h2, h3, h4, h5⟩
            · exact ⟨h1, by simp only [h2], h3, h4, h5⟩
          · split
            · exact ⟨h1, h2, h3, h4, h5⟩
            · exact ⟨h1, h2, h3, by simp only [h4], h5⟩
          · exact ⟨h1, h2, by simp only [h3], h4, h5⟩
          · exact ⟨h1, h2, h3, h4, by simp only [h5]⟩
      have h3 : SameRegs (c.g.writes ws) ((g0.putSplit sp1).writes ws) := by
        apply h2
        rw [egs]
        exact ⟨rfl, rfl, rfl, rfl, rfl⟩
      obtain ⟨q1, q2, q3, q4, q5⟩ := h3
      rw [eo, h1]
      refine ⟨⟨q1, q2, q3, q4, q5⟩, ?_⟩
      rw [egs]
      show ((g0.putSplit sp1).writes ws).pend = _
      rw [writes_own]; rfl

end Sys2Proof.Machine
end

