-- ==== Sys2Proof/Laws/OkMemory.lean ====
section
/-! SUPPORT. Memory's canonical form, kept by every operation: bytes, key tags and poison marks. -/

set_option linter.all false
namespace Sys2Proof.Machine

/-- The three maps of device memory are in canonical form. -/
def MapsOk (m : SMap Byte) (b : SMap (BitVec 512)) (p : SMap Bool) : Prop :=
  m.wf 0 = true ∧ b.wf 0 = true ∧ p.wf false = true
/-- Memory is in canonical form. -/
def MemOk (s : State) : Prop := MapsOk s.mem s.burst s.poison

theorem memWf_iff (s : State) : s.memWf = true ↔ MemOk s := by
  simp [State.memWf, MemOk, MapsOk, and_assoc]

/-- What an outcome, an effect, an option or a result leaves is in canonical form. -/
def OkO (o : Host.Outcome State Fault Refusal) : Prop := ∀ t, o = .next t → MemOk t
@[irreducible] def OkE : Eff → Prop
  | .done s _ | .ctl s | .fault s _ | .stall s _ | .pause s _ | .trap s _ | .async s | .gone s => MemOk s
def OkOpt (o : Option State) : Prop := ∀ t, o = some t → MemOk t
def OkX {ε : Type} (o : Except ε State) : Prop := ∀ t, o = .ok t → MemOk t

theorem okO_next {s : State} (h : MemOk s) : OkO (.next s) := by
  intro t e; cases e; exact h
theorem okO_fault (f : Fault) : OkO (.fault f) := by intro t e; cases e
theorem okO_refused (r : Refusal) : OkO (.refused r) := by intro t e; cases e
theorem okOpt_some {s : State} (h : MemOk s) : OkOpt (some s) := by
  intro t e; cases e; exact h
theorem okOpt_none : OkOpt none := by intro t e; cases e
theorem okX_ok {ε : Type} {s : State} (h : MemOk s) : OkX (.ok s : Except ε State) := by
  intro t e; cases e; exact h
theorem okX_error {ε : Type} (x : ε) : OkX (.error x : Except ε State) := by intro t e; cases e
theorem okO_elim {o : Host.Outcome State Fault Refusal} {t : State} (h : OkO o) (e : o = .next t) : MemOk t := h t e
theorem okOpt_elim {o : Option State} {t : State} (h : OkOpt o) (e : o = some t) : MemOk t := h t e
theorem okX_elim {ε : Type} {o : Except ε State} {t : State} (h : OkX o) (e : o = .ok t) : MemOk t := h t e
theorem ok_fst {α : Type} {p : State × α} {t : State} {a : α} (h : MemOk p.1) (e : p = (t, a)) : MemOk t := by
  rw [e] at h; exact h
/-- A result that is an operation on states keeps the form. -/
def OkF (r : Except FInfo (State → State)) : Prop := ∀ f, r = .ok f → ∀ s, MemOk s → MemOk (f s)
theorem okF_ok {f : State → State} (h : ∀ s, MemOk s → MemOk (f s)) : OkF (.ok f) := by
  intro g e; cases e; exact h
theorem okF_elim {r : Except FInfo (State → State)} {f : State → State} {s : State} (h : OkF r) (e : r = .ok f) (hs : MemOk s) :
    MemOk (f s) := h f e s hs
theorem okF_error (x : FInfo) : OkF (.error x) := by intro g e; cases e
theorem ok_snd {α : Type} {p : α × State} {t : State} {a : α} (h : MemOk p.2) (e : p = (a, t)) : MemOk t := by
  rw [e] at h; exact h
/-- What a fabric word leaves is in canonical form. -/
@[irreducible] def OkFx : FxEff → Prop
  | .next s _ | .jump s _ _ | .busy s _ _ | .waits s _ _ | .fault s _ _ _ | .stall s => MemOk s
theorem okFx_next {s : State} (x : FxSt) (h : MemOk s) : OkFx (.next s x) := by unfold OkFx; exact h
theorem okFx_jump {s : State} (x : FxSt) (t : W64) (h : MemOk s) : OkFx (.jump s x t) := by unfold OkFx; exact h
theorem okFx_busy {s : State} (x : FxSt) (t : W64) (h : MemOk s) : OkFx (.busy s x t) := by unfold OkFx; exact h
theorem okFx_waits {s : State} (x : FxSt) (w : FxWait) (h : MemOk s) : OkFx (.waits s x w) := by unfold OkFx; exact h
theorem okFx_fault {s : State} (c : BitVec 8) (d : Nat) (a : W64) (h : MemOk s) : OkFx (.fault s c d a) := by unfold OkFx; exact h
theorem okFx_stall {s : State} (h : MemOk s) : OkFx (.stall s) := by unfold OkFx; exact h
theorem okOpt_mapS (o : Option State) (f : State → State) (ho : OkOpt o) (h : ∀ a, MemOk a → MemOk (f a)) : OkOpt (o.map f) := by
  cases o with
  | none => exact okOpt_none
  | some a => exact okOpt_some (h a (ho a rfl))
theorem okOpt_map {α : Type} (o : Option α) (f : α → State) (h : ∀ a, MemOk (f a)) : OkOpt (o.map f) := by
  cases o with
  | none => exact okOpt_none
  | some a => exact okOpt_some (h a)
theorem okOpt_bind {α : Type} (o : Option α) (f : α → Option State) (h : ∀ a, OkOpt (f a)) : OkOpt (o.bind f) := by
  cases o with
  | none => exact okOpt_none
  | some a => exact h a
theorem okOpt_ite {c : Prop} [Decidable c] {a b : Option State} (ha : OkOpt a) (hb : OkOpt b) : OkOpt (if c then a else b) := by
  split <;> assumption
theorem foldlM_ok {β ε : Type} (f : State → β → Except ε State) (l : List β) (s : State) (h : MemOk s)
    (hf : ∀ s x, MemOk s → OkX (f s x)) : OkX (l.foldlM f s) := by
  induction l generalizing s with
  | nil => exact okX_ok h
  | cons x l ih =>
    rw [List.foldlM_cons]
    cases e : f s x with
    | error y => exact okX_error y
    | ok t => exact ih t (hf s x h t e)
theorem foldl_fst_ok {α β : Type} (f : State × α → β → State × α) (l : List β) (a : State × α) (h : MemOk a.1)
    (hf : ∀ a x, MemOk a.1 → MemOk (f a x).1) : MemOk (l.foldl f a).1 := by
  induction l generalizing a with
  | nil => exact h
  | cons x l ih => exact ih _ (hf _ _ h)
theorem okE_done {s : State} (r : Res) (h : MemOk s) : OkE (.done s r) := by unfold OkE; exact h
theorem okE_ctl {s : State} (h : MemOk s) : OkE (.ctl s) := by unfold OkE; exact h
theorem okE_fault {s : State} (f : FInfo) (h : MemOk s) : OkE (.fault s f) := by unfold OkE; exact h
theorem okE_stall {s : State} (w : Why) (h : MemOk s) : OkE (.stall s w) := by unfold OkE; exact h
theorem okE_pause {s : State} (x : SplitSt) (h : MemOk s) : OkE (.pause s x) := by unfold OkE; exact h
theorem okE_trap {s : State} (f : FInfo) (h : MemOk s) : OkE (.trap s f) := by unfold OkE; exact h
theorem okE_async {s : State} (h : MemOk s) : OkE (.async s) := by unfold OkE; exact h
theorem okE_gone {s : State} (h : MemOk s) : OkE (.gone s) := by unfold OkE; exact h
theorem okOpt_getD {o : Option State} {s : State} (h : OkOpt o) (hs : MemOk s) : MemOk (o.getD s) := by
  cases o with
  | none => exact hs
  | some t => exact h t rfl
theorem ok_ite {c : Prop} [Decidable c] {a b : State} (ha : MemOk a) (hb : MemOk b) : MemOk (if c then a else b) := by
  split <;> assumption
theorem foldl_ok {β : Type} (f : State → β → State) (l : List β) (s : State) (h : MemOk s)
    (hf : ∀ s x, MemOk s → MemOk (f s x)) : MemOk (l.foldl f s) := by
  induction l generalizing s with
  | nil => exact h
  | cons x l ih => exact ih _ (hf _ _ h)
/-- A record update that leaves the three maps alone. -/
theorem ok_of {s : State} (h : MemOk s) : MapsOk s.mem s.burst s.poison := h
/-- The same where the state stands beside a value. -/
def OkOptF {α : Type} (o : Option (State × α)) : Prop := ∀ t a, o = some (t, a) → MemOk t
def OkOptS {α : Type} (o : Option (α × State)) : Prop := ∀ t a, o = some (a, t) → MemOk t
def OkXF {ε α : Type} (o : Except ε (State × α)) : Prop := ∀ t a, o = .ok (t, a) → MemOk t
def OkXO {ε : Type} (o : Except ε (Option State)) : Prop := ∀ t, o = .ok (some t) → MemOk t
theorem okOptF_some {α : Type} {s : State} (a : α) (h : MemOk s) : OkOptF (some (s, a)) := by intro t b e; cases e; exact h
theorem okOptF_none {α : Type} : OkOptF (none : Option (State × α)) := by intro t b e; cases e
theorem okOptF_bind {α β : Type} (o : Option (State × α)) (f : State × α → Option β) (h : OkOptF o) :
    OkOptF (o.bind (fun x => (f x).map (fun r => (x.1, r)))) := by
  intro t b e
  cases o with
  | none => cases e
  | some x =>
    simp only [Option.bind_some, Option.map_eq_some_iff] at e
    obtain ⟨r, _, e⟩ := e
    cases e
    exact h _ _ rfl
theorem okOptS_some {α : Type} {s : State} (a : α) (h : MemOk s) : OkOptS (some (a, s)) := by intro t b e; cases e; exact h
theorem okOptS_none {α : Type} : OkOptS (none : Option (α × State)) := by intro t b e; cases e
theorem okXF_ok {ε α : Type} {s : State} (a : α) (h : MemOk s) : OkXF (.ok (s, a) : Except ε (State × α)) := by intro t b e; cases e; exact h
theorem okXF_error {ε α : Type} (x : ε) : OkXF (.error x : Except ε (State × α)) := by intro t b e; cases e
theorem okXO_ok {ε : Type} {o : Option State} (h : OkOpt o) : OkXO (.ok o : Except ε (Option State)) := by intro t e; cases e; exact h t rfl
theorem okXO_error {ε : Type} (x : ε) : OkXO (.error x : Except ε (Option State)) := by intro t e; cases e
theorem okOptF_elim {α : Type} {o : Option (State × α)} {t : State} {a : α} (h : OkOptF o) (e : o = some (t, a)) : MemOk t := h t a e
theorem okOptS_elim {α : Type} {o : Option (α × State)} {t : State} {a : α} (h : OkOptS o) (e : o = some (a, t)) : MemOk t := h t a e
theorem okXF_elim {ε α : Type} {o : Except ε (State × α)} {t : State} {a : α} (h : OkXF o) (e : o = .ok (t, a)) : MemOk t := h t a e
theorem okXO_elim {ε : Type} {o : Except ε (Option State)} {t : State} (h : OkXO o) (e : o = .ok (some t)) : MemOk t := h t e
/-- Both outcomes of a step that may be held back, or give an effect instead, keep the form. -/
def OkXS (o : Except State State) : Prop := (∀ t, o = .ok t → MemOk t) ∧ ∀ t, o = .error t → MemOk t
theorem okXS_ok {s : State} (h : MemOk s) : OkXS (.ok s) := ⟨(fun t e => by cases e; exact h), (fun t e => by cases e)⟩
theorem okXS_error {s : State} (h : MemOk s) : OkXS (.error s) := ⟨(fun t e => by cases e), (fun t e => by cases e; exact h)⟩
theorem okXS_elim {o : Except State State} {t : State} (h : OkXS o) (e : o = .ok t) : MemOk t := h.1 t e
theorem okXS_elimE {o : Except State State} {t : State} (h : OkXS o) (e : o = .error t) : MemOk t := h.2 t e
def OkXE (o : Except Eff State) : Prop := (∀ t, o = .ok t → MemOk t) ∧ ∀ t, o = .error t → OkE t
theorem okXE_ok {s : State} (h : MemOk s) : OkXE (.ok s) := ⟨(fun t e => by cases e; exact h), (fun t e => by cases e)⟩
theorem okXE_error {x : Eff} (h : OkE x) : OkXE (.error x) := ⟨(fun t e => by cases e), (fun t e => by cases e; exact h)⟩
theorem okXE_elim {o : Except Eff State} {t : State} (h : OkXE o) (e : o = .ok t) : MemOk t := h.1 t e
theorem okXE_elimE {o : Except Eff State} {x : Eff} (h : OkXE o) (e : o = .error x) : OkE x := h.2 x e
theorem ok_mk {tick : Nat} {agenda : List Turn} {ev : EvIn} {cur : Option (Nat × Nat)} {curFx : Option Nat} {curDie : Option Nat} {nextId : Nat} {now : Nat} {timeBase : Nat} {mmio : SMap W64} {mem : SMap Byte} {burst : SMap (BitVec 512)} {poison : SMap Bool} {stale : SMap Stored} {keySlots : SMap (BitVec 512)} {keyLoad : List Nat} {removedPch : List Nat} {retiredRows : List Nat} {removedUnits : List RemovedUnit} {cores : SMap CoreSt} {clusters : SMap ClusterSt} {slices : SMap SliceSt} {engTlb : SMap (List TlbE)} {walks : List Walk} {invq : List InvCmd} {invHeld : List (W64 × Nat)} {buckets : SMap Bucket} {traffic : SMap (List Traffic)} {posts : List Post} {pchs : SMap PchSt} {hotWant : SMap Bool} {groups : SMap Group} {teams : SMap Team} {grids : SMap Grid} {parts : SMap PartSt} {saved : SMap SavedTeam} {gridNum : SMap W32} {susp : List Nat} {endings : List (Nat × Nat × W32 × W32)} {engines : SMap EngineSt} {ecmds : SMap CopyCmd} {remotes : SMap RemoteCmd} {wireOut : List Packet} {replies : List (BitVec 16 × Nat × Nat × Reply)} {mcmds : SMap MCmd} {fxs : SMap FxSt} {fxWires : List FxWire} {phasers : SMap Phaser} {phMsgs : List PhMsg} {fallow : SMap (List FallowE)} {graces : SMap Grace} {queues : SMap QueueSt} {suspends : List (Nat × Nat × W32 × W32)} {troughs : SMap TroughSt} {graphs : SMap GraphSt} {events : SMap (List EventRec)} {ctxGen : SMap Nat} {preemptAt : SMap Nat} {preempts : List Nat} {ended : List Nat} {tbufs : SMap TraceBuf} {traces : SMap TraceSt} {trial : Option Trial} {stops : List (Nat × Nat)} {boot : BootSt} {ckpt : Option Ckpt} {ckptWait : List Nat} {ras : RasSt} {power : PowerSt} :
    MemOk ⟨tick, agenda, ev, cur, curFx, curDie, nextId, now, timeBase, mmio, mem, burst, poison, stale, keySlots, keyLoad, removedPch, retiredRows, removedUnits, cores, clusters, slices, engTlb, walks, invq, invHeld, buckets, traffic, posts, pchs, hotWant, groups, teams, grids, parts, saved, gridNum, susp, endings, engines, ecmds, remotes, wireOut, replies, mcmds, fxs, fxWires, phasers, phMsgs, fallow, graces, queues, suspends, troughs, graphs, events, ctxGen, preemptAt, preempts, ended, tbufs, traces, trial, stops, boot, ckpt, ckptWait, ras, power⟩ = MapsOk mem burst poison := rfl
theorem mapsOk_mem {m : SMap Byte} {b : SMap (BitVec 512)} {p : SMap Bool} (a : Nat) (v : Byte) (h : MapsOk m b p) :
    MapsOk (m.set 0 a v) b p := ⟨SMap.wf_set _ _ _ _ h.1, h.2⟩
theorem mapsOk_mems {β : Type} {m : SMap Byte} {b : SMap (BitVec 512)} {p : SMap Bool} (l : List β) (f : β → Nat)
    (g : β → Byte) (h : MapsOk m b p) : MapsOk (l.foldl (fun m w => m.set 0 (f w) (g w)) m) b p :=
  ⟨SMap.wf_foldl_set _ _ _ _ _ h.1, h.2⟩
theorem mapsOk_burst {m : SMap Byte} {b : SMap (BitVec 512)} {p : SMap Bool} (a : Nat) (v : BitVec 512) (h : MapsOk m b p) :
    MapsOk m (b.set 0 a v) p := ⟨h.1, SMap.wf_set _ _ _ _ h.2.1, h.2.2⟩
theorem mapsOk_poison {m : SMap Byte} {b : SMap (BitVec 512)} {p : SMap Bool} (a : Nat) (v : Bool) (h : MapsOk m b p) :
    MapsOk m b (p.set false a v) := ⟨h.1, h.2.1, SMap.wf_set _ _ _ _ h.2.2⟩
theorem mapsOk_poisons {β : Type} {m : SMap Byte} {b : SMap (BitVec 512)} {p : SMap Bool} (l : List β) (f : β → Nat)
    (v : Bool) (h : MapsOk m b p) : MapsOk m b (l.foldl (fun m w => m.set false (f w) v) p) :=
  ⟨h.1, h.2.1, SMap.wf_foldl_set _ _ _ _ _ h.2.2⟩
theorem State.setReg_ok (s : State) (a : Nat) (v : W64) (hs : MemOk s) : MemOk (State.setReg s a v) := by
  unfold State.setReg
  with_reducible repeat' (first | assumption | apply ok_of | simp only [ok_mk] | intro _ _ _ | intro _ | (refine ok_fst ?_ (by assumption)) | (refine ok_snd ?_ (by assumption)) | (refine okOpt_elim ?_ (by assumption)) | (refine okXS_elim ?_ (by assumption)) | (refine okXS_elimE ?_ (by assumption)) | (refine okXE_elim ?_ (by assumption)) | (refine okXE_elimE ?_ (by assumption)) | (refine okX_elim ?_ (by assumption)) | (refine okO_elim ?_ (by assumption)) | (refine okOptF_elim ?_ (by assumption)) | (refine okOptS_elim ?_ (by assumption)) | (refine okXF_elim ?_ (by assumption)) | (refine okXO_elim ?_ (by assumption)) | split | dsimp only)

theorem State.setRegFld_ok (s : State) (a : Nat) (hi : Nat) (lo : Nat) (x : Nat) (hs : MemOk s) : MemOk (State.setRegFld s a hi lo x) := by
  unfold State.setRegFld
  with_reducible repeat' (first | assumption | apply ok_of | simp only [ok_mk] | apply State.setReg_ok | intro _ _ _ | intro _ | (refine ok_fst ?_ (by assumption)) | (refine ok_snd ?_ (by assumption)) | (refine okOpt_elim ?_ (by assumption)) | (refine okXS_elim ?_ (by assumption)) | (refine okXS_elimE ?_ (by assumption)) | (refine okXE_elim ?_ (by assumption)) | (refine okXE_elimE ?_ (by assumption)) | (refine okX_elim ?_ (by assumption)) | (refine okO_elim ?_ (by assumption)) | (refine okOptF_elim ?_ (by assumption)) | (refine okOptS_elim ?_ (by assumption)) | (refine okXF_elim ?_ (by assumption)) | (refine okXO_elim ?_ (by assumption)) | split | dsimp only)

theorem State.regPut_ok (s : State) (a : Nat) (v : W64) (hs : MemOk s) : MemOk (State.regPut s a v) := by
  unfold State.regPut
  with_reducible repeat' (first | assumption | apply ok_of | simp only [ok_mk] | apply State.setReg_ok | apply okOpt_some | apply okOpt_none | apply okOpt_mapS | apply okOpt_map | apply okOpt_ite | apply ok_ite | intro _ _ _ | intro _ | (refine ok_fst ?_ (by assumption)) | (refine ok_snd ?_ (by assumption)) | (refine okOpt_elim ?_ (by assumption)) | (refine okXS_elim ?_ (by assumption)) | (refine okXS_elimE ?_ (by assumption)) | (refine okXE_elim ?_ (by assumption)) | (refine okXE_elimE ?_ (by assumption)) | (refine okX_elim ?_ (by assumption)) | (refine okO_elim ?_ (by assumption)) | (refine okOptF_elim ?_ (by assumption)) | (refine okOptS_elim ?_ (by assumption)) | (refine okXF_elim ?_ (by assumption)) | (refine okXO_elim ?_ (by assumption)) | split | dsimp only)

theorem State.rebase_ok (s : State) (burst : Nat) (k : BitVec 512) (hs : MemOk s) : MemOk (State.rebase s burst k) := by
  unfold State.rebase
  with_reducible repeat' (first | assumption | apply ok_of | simp only [ok_mk] | apply foldl_ok | apply foldl_fst_ok | apply mapsOk_mem | apply mapsOk_mems | apply mapsOk_burst | apply mapsOk_poisons | apply mapsOk_poison | apply ok_ite | intro _ _ _ | intro _ | (refine ok_fst ?_ (by assumption)) | (refine ok_snd ?_ (by assumption)) | (refine okOpt_elim ?_ (by assumption)) | (refine okXS_elim ?_ (by assumption)) | (refine okXS_elimE ?_ (by assumption)) | (refine okXE_elim ?_ (by assumption)) | (refine okXE_elimE ?_ (by assumption)) | (refine okX_elim ?_ (by assumption)) | (refine okO_elim ?_ (by assumption)) | (refine okOptF_elim ?_ (by assumption)) | (refine okOptS_elim ?_ (by assumption)) | (refine okXF_elim ?_ (by assumption)) | (refine okXO_elim ?_ (by assumption)) | split | dsimp only)

theorem State.traffick_ok (s : State) (slot : Nat) (cls : Nat) (w : Nat) (kind : TKind) (need : Bool) (at_ : Attr) (hs : MemOk s) : MemOk (State.traffick s slot cls w kind need at_) := by
  unfold State.traffick
  with_reducible repeat' (first | assumption | apply ok_of | simp only [ok_mk] | apply okO_next | apply okO_fault | apply okO_refused | apply ok_ite | intro _ _ _ | intro _ | (refine ok_fst ?_ (by assumption)) | (refine ok_snd ?_ (by assumption)) | (refine okOpt_elim ?_ (by assumption)) | (refine okXS_elim ?_ (by assumption)) | (refine okXS_elimE ?_ (by assumption)) | (refine okXE_elim ?_ (by assumption)) | (refine okXE_elimE ?_ (by assumption)) | (refine okX_elim ?_ (by assumption)) | (refine okO_elim ?_ (by assumption)) | (refine okOptF_elim ?_ (by assumption)) | (refine okOptS_elim ?_ (by assumption)) | (refine okXF_elim ?_ (by assumption)) | (refine okXO_elim ?_ (by assumption)) | split | dsimp only)

theorem State.ckptSend_ok (s : State) (c : Ckpt) (part : Nat) (bytes : List Byte) (hs : MemOk s) : MemOk (State.ckptSend s c part bytes) := by
  unfold State.ckptSend
  with_reducible repeat' (first | assumption | apply ok_of | simp only [ok_mk] | intro _ _ _ | intro _ | (refine ok_fst ?_ (by assumption)) | (refine ok_snd ?_ (by assumption)) | (refine okOpt_elim ?_ (by assumption)) | (refine okXS_elim ?_ (by assumption)) | (refine okXS_elimE ?_ (by assumption)) | (refine okXE_elim ?_ (by assumption)) | (refine okXE_elimE ?_ (by assumption)) | (refine okX_elim ?_ (by assumption)) | (refine okO_elim ?_ (by assumption)) | (refine okOptF_elim ?_ (by assumption)) | (refine okOptS_elim ?_ (by assumption)) | (refine okXF_elim ?_ (by assumption)) | (refine okXO_elim ?_ (by assumption)) | split | dsimp only)

theorem State.pageReads_ok (s : State) (page : Nat) (hs : MemOk s) : MemOk (State.pageReads s page) := by
  unfold State.pageReads
  with_reducible repeat' (first | assumption | apply ok_of | simp only [ok_mk] | apply State.traffick_ok | apply foldl_ok | apply foldl_fst_ok | apply ok_ite | intro _ _ _ | intro _ | (refine ok_fst ?_ (by assumption)) | (refine ok_snd ?_ (by assumption)) | (refine okOpt_elim ?_ (by assumption)) | (refine okXS_elim ?_ (by assumption)) | (refine okXS_elimE ?_ (by assumption)) | (refine okXE_elim ?_ (by assumption)) | (refine okXE_elimE ?_ (by assumption)) | (refine okX_elim ?_ (by assumption)) | (refine okO_elim ?_ (by assumption)) | (refine okOptF_elim ?_ (by assumption)) | (refine okOptS_elim ?_ (by assumption)) | (refine okXF_elim ?_ (by assumption)) | (refine okXO_elim ?_ (by assumption)) | split | dsimp only)

theorem aheadOf_ok (s x : State) (page : Nat) (bs : List Byte) (hs : MemOk s) (hx : MemOk x) :
    MemOk (match s.ckpt with
      | some c =>
        if c.streaming && decide (c.next ≤ page) && !c.ahead.get false page then
          ({ x with ckpt := some { c with ahead := c.ahead.set false page true } } : State).ckptSend c (page + 1) bs
        else s
      | none => s) := by
  split
  · split
    · exact State.ckptSend_ok _ _ _ _ hx
    · exact hs
  · exact hs
theorem State.sendAhead_ok (s : State) (page : Nat) (hs : MemOk s) : MemOk (s.sendAhead page) :=
  aheadOf_ok s _ page _ hs (State.pageReads_ok s page hs)

theorem State.saveClaimed_ok (s : State) (burst : Nat) (hs : MemOk s) : MemOk (State.saveClaimed s burst) := by
  unfold State.saveClaimed
  with_reducible repeat' (first | assumption | apply ok_of | simp only [ok_mk] | apply okOpt_some | apply okOpt_none | apply okOpt_mapS | apply okOpt_map | apply okOpt_ite | apply mapsOk_mem | apply mapsOk_mems | apply mapsOk_burst | apply mapsOk_poisons | apply mapsOk_poison | intro _ _ _ | intro _ | (refine ok_fst ?_ (by assumption)) | (refine ok_snd ?_ (by assumption)) | (refine okOpt_elim ?_ (by assumption)) | (refine okXS_elim ?_ (by assumption)) | (refine okXS_elimE ?_ (by assumption)) | (refine okXE_elim ?_ (by assumption)) | (refine okXE_elimE ?_ (by assumption)) | (refine okX_elim ?_ (by assumption)) | (refine okO_elim ?_ (by assumption)) | (refine okOptF_elim ?_ (by assumption)) | (refine okOptS_elim ?_ (by assumption)) | (refine okXF_elim ?_ (by assumption)) | (refine okXO_elim ?_ (by assumption)) | split | dsimp only)

theorem State.takeDirty_ok (s : State) (burst : Nat) (k : BitVec 512) (hs : MemOk s) : MemOk (State.takeDirty s burst k) := by
  unfold State.takeDirty
  with_reducible repeat' (first | assumption | apply ok_of | simp only [ok_mk] | apply mapsOk_mem | apply mapsOk_mems | apply mapsOk_burst | apply mapsOk_poisons | apply mapsOk_poison | apply ok_ite | intro _ _ _ | intro _ | (refine ok_fst ?_ (by assumption)) | (refine ok_snd ?_ (by assumption)) | (refine okOpt_elim ?_ (by assumption)) | (refine okXS_elim ?_ (by assumption)) | (refine okXS_elimE ?_ (by assumption)) | (refine okXE_elim ?_ (by assumption)) | (refine okXE_elimE ?_ (by assumption)) | (refine okX_elim ?_ (by assumption)) | (refine okO_elim ?_ (by assumption)) | (refine okOptF_elim ?_ (by assumption)) | (refine okOptS_elim ?_ (by assumption)) | (refine okXF_elim ?_ (by assumption)) | (refine okXO_elim ?_ (by assumption)) | split | dsimp only)

theorem State.homePut_ok (s : State) (key : Nat) (a : Nat) (b : Byte) (hs : MemOk s) : MemOk (State.homePut s key a b) := by
  unfold State.homePut
  with_reducible repeat' (first | assumption | apply ok_of | simp only [ok_mk] | apply State.rebase_ok | apply State.sendAhead_ok | apply State.saveClaimed_ok | apply State.takeDirty_ok | apply mapsOk_mem | apply mapsOk_mems | apply mapsOk_burst | apply mapsOk_poisons | apply mapsOk_poison | intro _ _ _ | intro _ | (refine ok_fst ?_ (by assumption)) | (refine ok_snd ?_ (by assumption)) | (refine okOpt_elim ?_ (by assumption)) | (refine okXS_elim ?_ (by assumption)) | (refine okXS_elimE ?_ (by assumption)) | (refine okXE_elim ?_ (by assumption)) | (refine okXE_elimE ?_ (by assumption)) | (refine okX_elim ?_ (by assumption)) | (refine okO_elim ?_ (by assumption)) | (refine okOptF_elim ?_ (by assumption)) | (refine okOptS_elim ?_ (by assumption)) | (refine okXF_elim ?_ (by assumption)) | (refine okXO_elim ?_ (by assumption)) | split | dsimp only)

theorem State.writtenBack_ok (s : State) (line : Nat) (secs : BitVec 4) (hs : MemOk s) : MemOk (State.writtenBack s line secs) := by
  unfold State.writtenBack
  with_reducible repeat' (first | assumption | apply ok_of | simp only [ok_mk] | intro _ _ _ | intro _ | (refine ok_fst ?_ (by assumption)) | (refine ok_snd ?_ (by assumption)) | (refine okOpt_elim ?_ (by assumption)) | (refine okXS_elim ?_ (by assumption)) | (refine okXS_elimE ?_ (by assumption)) | (refine okXE_elim ?_ (by assumption)) | (refine okXE_elimE ?_ (by assumption)) | (refine okX_elim ?_ (by assumption)) | (refine okO_elim ?_ (by assumption)) | (refine okOptF_elim ?_ (by assumption)) | (refine okOptS_elim ?_ (by assumption)) | (refine okXF_elim ?_ (by assumption)) | (refine okXO_elim ?_ (by assumption)) | split | dsimp only)

theorem State.revert_ok (s : State) (burst : Nat) (x : Stored) (hs : MemOk s) : MemOk (s.revert burst x) :=
  ⟨SMap.wf_foldl_set _ _ _ _ _ hs.1, SMap.wf_set _ _ _ _ hs.2.1, SMap.wf_foldl_set _ _ _ _ _ hs.2.2⟩

theorem State.loseDirty_ok (s : State) (p : Nat → Bool) (hs : MemOk s) : MemOk (State.loseDirty s p) := by
  unfold State.loseDirty
  with_reducible repeat' (first | assumption | apply ok_of | simp only [ok_mk] | apply State.revert_ok | apply foldl_ok | apply foldl_fst_ok | intro _ _ _ | intro _ | (refine ok_fst ?_ (by assumption)) | (refine ok_snd ?_ (by assumption)) | (refine okOpt_elim ?_ (by assumption)) | (refine okXS_elim ?_ (by assumption)) | (refine okXS_elimE ?_ (by assumption)) | (refine okXE_elim ?_ (by assumption)) | (refine okXE_elimE ?_ (by assumption)) | (refine okX_elim ?_ (by assumption)) | (refine okO_elim ?_ (by assumption)) | (refine okOptF_elim ?_ (by assumption)) | (refine okOptS_elim ?_ (by assumption)) | (refine okXF_elim ?_ (by assumption)) | (refine okXO_elim ?_ (by assumption)) | split | dsimp only)

theorem State.homeWrite_ok (s : State) (key : Nat) (bs : List (Nat × Byte)) (hs : MemOk s) : MemOk (State.homeWrite s key bs) := by
  unfold State.homeWrite
  with_reducible repeat' (first | assumption | apply ok_of | simp only [ok_mk] | apply State.homePut_ok | apply okOpt_some | apply okOpt_none | apply okOpt_mapS | apply okOpt_map | apply okOpt_ite | apply foldl_ok | apply foldl_fst_ok | apply mapsOk_mem | apply mapsOk_mems | apply mapsOk_burst | apply mapsOk_poisons | apply mapsOk_poison | intro _ _ _ | intro _ | (refine ok_fst ?_ (by assumption)) | (refine ok_snd ?_ (by assumption)) | (refine okOpt_elim ?_ (by assumption)) | (refine okXS_elim ?_ (by assumption)) | (refine okXS_elimE ?_ (by assumption)) | (refine okXE_elim ?_ (by assumption)) | (refine okXE_elimE ?_ (by assumption)) | (refine okX_elim ?_ (by assumption)) | (refine okO_elim ?_ (by assumption)) | (refine okOptF_elim ?_ (by assumption)) | (refine okOptS_elim ?_ (by assumption)) | (refine okXF_elim ?_ (by assumption)) | (refine okXO_elim ?_ (by assumption)) | split | dsimp only)

theorem State.trafficks_ok (s : State) (slot : Nat) (cls : Nat) (kind : TKind) (at_ : Attr) (as : List Nat) (hs : MemOk s) : MemOk (State.trafficks s slot cls kind at_ as) := by
  unfold State.trafficks
  with_reducible repeat' (first | assumption | apply ok_of | simp only [ok_mk] | apply State.traffick_ok | apply okOpt_some | apply okOpt_none | apply okOpt_mapS | apply okOpt_map | apply okOpt_ite | apply foldl_ok | apply foldl_fst_ok | intro _ _ _ | intro _ | (refine ok_fst ?_ (by assumption)) | (refine ok_snd ?_ (by assumption)) | (refine okOpt_elim ?_ (by assumption)) | (refine okXS_elim ?_ (by assumption)) | (refine okXS_elimE ?_ (by assumption)) | (refine okXE_elim ?_ (by assumption)) | (refine okXE_elimE ?_ (by assumption)) | (refine okX_elim ?_ (by assumption)) | (refine okO_elim ?_ (by assumption)) | (refine okOptF_elim ?_ (by assumption)) | (refine okOptS_elim ?_ (by assumption)) | (refine okXF_elim ?_ (by assumption)) | (refine okXO_elim ?_ (by assumption)) | split | dsimp only)

theorem State.engTraffic_ok (s : State) (slot : Nat) (cls : Nat) (kind : TKind) (l : List (Nat × Attr)) (hs : MemOk s) : MemOk (State.engTraffic s slot cls kind l) := by
  unfold State.engTraffic
  with_reducible repeat' (first | assumption | apply ok_of | simp only [ok_mk] | apply State.trafficks_ok | apply okOpt_some | apply okOpt_none | apply okOpt_mapS | apply okOpt_map | apply okOpt_ite | apply foldl_ok | apply foldl_fst_ok | intro _ _ _ | intro _ | (refine ok_fst ?_ (by assumption)) | (refine ok_snd ?_ (by assumption)) | (refine okOpt_elim ?_ (by assumption)) | (refine okXS_elim ?_ (by assumption)) | (refine okXS_elimE ?_ (by assumption)) | (refine okXE_elim ?_ (by assumption)) | (refine okXE_elimE ?_ (by assumption)) | (refine okX_elim ?_ (by assumption)) | (refine okO_elim ?_ (by assumption)) | (refine okOptF_elim ?_ (by assumption)) | (refine okOptS_elim ?_ (by assumption)) | (refine okXF_elim ?_ (by assumption)) | (refine okXO_elim ?_ (by assumption)) | split | dsimp only)

theorem State.scrubRequest_ok (s : State) (a : Nat) (kind : TKind) (hs : MemOk s) : MemOk (State.scrubRequest s a kind) := by
  unfold State.scrubRequest
  with_reducible repeat' (first | assumption | apply ok_of | simp only [ok_mk] | apply okO_next | apply okO_fault | apply okO_refused | intro _ _ _ | intro _ | (refine ok_fst ?_ (by assumption)) | (refine ok_snd ?_ (by assumption)) | (refine okOpt_elim ?_ (by assumption)) | (refine okXS_elim ?_ (by assumption)) | (refine okXS_elimE ?_ (by assumption)) | (refine okXE_elim ?_ (by assumption)) | (refine okXE_elimE ?_ (by assumption)) | (refine okX_elim ?_ (by assumption)) | (refine okO_elim ?_ (by assumption)) | (refine okOptF_elim ?_ (by assumption)) | (refine okOptS_elim ?_ (by assumption)) | (refine okXF_elim ?_ (by assumption)) | (refine okXO_elim ?_ (by assumption)) | split | dsimp only)

theorem State.setBucket_ok (s : State) (inst : Nat) (slot : Nat) (k : Nat) (n : Nat) (hs : MemOk s) : MemOk (State.setBucket s inst slot k n) := by
  unfold State.setBucket
  with_reducible repeat' (first | assumption | apply ok_of | simp only [ok_mk] | intro _ _ _ | intro _ | (refine ok_fst ?_ (by assumption)) | (refine ok_snd ?_ (by assumption)) | (refine okOpt_elim ?_ (by assumption)) | (refine okXS_elim ?_ (by assumption)) | (refine okXS_elimE ?_ (by assumption)) | (refine okXE_elim ?_ (by assumption)) | (refine okXE_elimE ?_ (by assumption)) | (refine okX_elim ?_ (by assumption)) | (refine okO_elim ?_ (by assumption)) | (refine okOptF_elim ?_ (by assumption)) | (refine okOptS_elim ?_ (by assumption)) | (refine okXF_elim ?_ (by assumption)) | (refine okXO_elim ?_ (by assumption)) | split | dsimp only)

theorem State.arrive_ok (s : State) (l : List (Nat × Traffic)) (hs : MemOk s) : MemOk (State.arrive s l) := by
  unfold State.arrive
  with_reducible repeat' (first | assumption | apply ok_of | simp only [ok_mk] | apply foldl_ok | apply foldl_fst_ok | intro _ _ _ | intro _ | (refine ok_fst ?_ (by assumption)) | (refine ok_snd ?_ (by assumption)) | (refine okOpt_elim ?_ (by assumption)) | (refine okXS_elim ?_ (by assumption)) | (refine okXS_elimE ?_ (by assumption)) | (refine okXE_elim ?_ (by assumption)) | (refine okXE_elimE ?_ (by assumption)) | (refine okX_elim ?_ (by assumption)) | (refine okO_elim ?_ (by assumption)) | (refine okOptF_elim ?_ (by assumption)) | (refine okOptS_elim ?_ (by assumption)) | (refine okXF_elim ?_ (by assumption)) | (refine okXO_elim ?_ (by assumption)) | split | dsimp only)

theorem State.waiting_ok (s : State) (u : State) (hs : MemOk s) (hu : MemOk u) : MemOk (State.waiting s u) := by
  unfold State.waiting
  with_reducible repeat' (first | assumption | apply ok_of | simp only [ok_mk] | apply State.arrive_ok | apply okO_next | apply okO_fault | apply okO_refused | intro _ _ _ | intro _ | (refine ok_fst ?_ (by assumption)) | (refine ok_snd ?_ (by assumption)) | (refine okOpt_elim ?_ (by assumption)) | (refine okXS_elim ?_ (by assumption)) | (refine okXS_elimE ?_ (by assumption)) | (refine okXE_elim ?_ (by assumption)) | (refine okXE_elimE ?_ (by assumption)) | (refine okX_elim ?_ (by assumption)) | (refine okO_elim ?_ (by assumption)) | (refine okOptF_elim ?_ (by assumption)) | (refine okOptS_elim ?_ (by assumption)) | (refine okXF_elim ?_ (by assumption)) | (refine okXO_elim ?_ (by assumption)) | split | dsimp only)

theorem State.pass_ok (s : State) (t : State) (reads : Bool) (hs : MemOk s) (ht : MemOk t) : OkXS (State.pass s t reads) := by
  unfold State.pass
  with_reducible repeat' (first | assumption | apply ok_of | simp only [ok_mk] | apply State.arrive_ok | apply State.waiting_ok | apply okOpt_some | apply okOpt_none | apply okOpt_mapS | apply okOpt_map | apply okOpt_ite | apply okXS_ok | apply okXS_error | apply ok_ite | intro _ _ _ | intro _ | (refine ok_fst ?_ (by assumption)) | (refine ok_snd ?_ (by assumption)) | (refine okOpt_elim ?_ (by assumption)) | (refine okXS_elim ?_ (by assumption)) | (refine okXS_elimE ?_ (by assumption)) | (refine okXE_elim ?_ (by assumption)) | (refine okXE_elimE ?_ (by assumption)) | (refine okX_elim ?_ (by assumption)) | (refine okO_elim ?_ (by assumption)) | (refine okOptF_elim ?_ (by assumption)) | (refine okOptS_elim ?_ (by assumption)) | (refine okXF_elim ?_ (by assumption)) | (refine okXO_elim ?_ (by assumption)) | split | dsimp only)

theorem State.passed_ok (s : State) (t : State) (hs : MemOk s) (ht : MemOk t) : MemOk (State.passed s t) := by
  unfold State.passed
  with_reducible repeat' (first | assumption | apply ok_of | simp only [ok_mk] | apply State.pass_ok | intro _ _ _ | intro _ | (refine ok_fst ?_ (by assumption)) | (refine ok_snd ?_ (by assumption)) | (refine okOpt_elim ?_ (by assumption)) | (refine okXS_elim ?_ (by assumption)) | (refine okXS_elimE ?_ (by assumption)) | (refine okXE_elim ?_ (by assumption)) | (refine okXE_elimE ?_ (by assumption)) | (refine okX_elim ?_ (by assumption)) | (refine okO_elim ?_ (by assumption)) | (refine okOptF_elim ?_ (by assumption)) | (refine okOptS_elim ?_ (by assumption)) | (refine okXF_elim ?_ (by assumption)) | (refine okXO_elim ?_ (by assumption)) | split | dsimp only)

theorem State.setClus_ok (s : State) (cl : Nat) (c : ClusterSt) (hs : MemOk s) : MemOk (State.setClus s cl c) := by
  unfold State.setClus
  with_reducible repeat' (first | assumption | apply ok_of | simp only [ok_mk] | intro _ _ _ | intro _ | (refine ok_fst ?_ (by assumption)) | (refine ok_snd ?_ (by assumption)) | (refine okOpt_elim ?_ (by assumption)) | (refine okXS_elim ?_ (by assumption)) | (refine okXS_elimE ?_ (by assumption)) | (refine okXE_elim ?_ (by assumption)) | (refine okXE_elimE ?_ (by assumption)) | (refine okX_elim ?_ (by assumption)) | (refine okO_elim ?_ (by assumption)) | (refine okOptF_elim ?_ (by assumption)) | (refine okOptS_elim ?_ (by assumption)) | (refine okXF_elim ?_ (by assumption)) | (refine okXO_elim ?_ (by assumption)) | split | dsimp only)

theorem State.clFill_ok (s : State) (cl : Nat) (slot : Nat) (at_ : Attr) (w : Nat) (hs : MemOk s) : MemOk (State.clFill s cl slot at_ w) := by
  unfold State.clFill
  with_reducible repeat' (first | assumption | apply ok_of | simp only [ok_mk] | apply State.traffick_ok | apply State.setClus_ok | apply okOpt_some | apply okOpt_none | apply okOpt_mapS | apply okOpt_map | apply okOpt_ite | apply ok_ite | intro _ _ _ | intro _ | (refine ok_fst ?_ (by assumption)) | (refine ok_snd ?_ (by assumption)) | (refine okOpt_elim ?_ (by assumption)) | (refine okXS_elim ?_ (by assumption)) | (refine okXS_elimE ?_ (by assumption)) | (refine okXE_elim ?_ (by assumption)) | (refine okXE_elimE ?_ (by assumption)) | (refine okX_elim ?_ (by assumption)) | (refine okO_elim ?_ (by assumption)) | (refine okOptF_elim ?_ (by assumption)) | (refine okOptS_elim ?_ (by assumption)) | (refine okXF_elim ?_ (by assumption)) | (refine okXO_elim ?_ (by assumption)) | split | dsimp only)

theorem State.clDrop_ok (s : State) (cl : Nat) (w : Nat) (hs : MemOk s) : MemOk (State.clDrop s cl w) := by
  unfold State.clDrop
  with_reducible repeat' (first | assumption | apply ok_of | simp only [ok_mk] | apply State.setClus_ok | apply okOpt_some | apply okOpt_none | apply okOpt_mapS | apply okOpt_map | apply okOpt_ite | intro _ _ _ | intro _ | (refine ok_fst ?_ (by assumption)) | (refine ok_snd ?_ (by assumption)) | (refine okOpt_elim ?_ (by assumption)) | (refine okXS_elim ?_ (by assumption)) | (refine okXS_elimE ?_ (by assumption)) | (refine okXE_elim ?_ (by assumption)) | (refine okXE_elimE ?_ (by assumption)) | (refine okX_elim ?_ (by assumption)) | (refine okO_elim ?_ (by assumption)) | (refine okOptF_elim ?_ (by assumption)) | (refine okOptS_elim ?_ (by assumption)) | (refine okXF_elim ?_ (by assumption)) | (refine okXO_elim ?_ (by assumption)) | split | dsimp only)

theorem State.clWrite_ok (s : State) (cl : Nat) (slot : Nat) (at_ : Attr) (bs : List (Nat × Byte)) (marks : List Nat) (hs : MemOk s) : MemOk (State.clWrite s cl slot at_ bs marks) := by
  unfold State.clWrite
  with_reducible repeat' (first | assumption | apply ok_of | simp only [ok_mk] | apply State.homeWrite_ok | apply State.trafficks_ok | apply State.setClus_ok | apply okOpt_some | apply okOpt_none | apply okOpt_mapS | apply okOpt_map | apply okOpt_ite | apply foldl_ok | apply foldl_fst_ok | apply mapsOk_mem | apply mapsOk_mems | apply mapsOk_burst | apply mapsOk_poisons | apply mapsOk_poison | apply ok_ite | intro _ _ _ | intro _ | (refine ok_fst ?_ (by assumption)) | (refine ok_snd ?_ (by assumption)) | (refine okOpt_elim ?_ (by assumption)) | (refine okXS_elim ?_ (by assumption)) | (refine okXS_elimE ?_ (by assumption)) | (refine okXE_elim ?_ (by assumption)) | (refine okXE_elimE ?_ (by assumption)) | (refine okX_elim ?_ (by assumption)) | (refine okO_elim ?_ (by assumption)) | (refine okOptF_elim ?_ (by assumption)) | (refine okOptS_elim ?_ (by assumption)) | (refine okXF_elim ?_ (by assumption)) | (refine okXO_elim ?_ (by assumption)) | split | dsimp only)

theorem State.setCore_ok (s : State) (c : Nat) (x : CoreSt) (hs : MemOk s) : MemOk (State.setCore s c x) := by
  unfold State.setCore
  with_reducible repeat' (first | assumption | apply ok_of | simp only [ok_mk] | intro _ _ _ | intro _ | (refine ok_fst ?_ (by assumption)) | (refine ok_snd ?_ (by assumption)) | (refine okOpt_elim ?_ (by assumption)) | (refine okXS_elim ?_ (by assumption)) | (refine okXS_elimE ?_ (by assumption)) | (refine okXE_elim ?_ (by assumption)) | (refine okXE_elimE ?_ (by assumption)) | (refine okX_elim ?_ (by assumption)) | (refine okO_elim ?_ (by assumption)) | (refine okOptF_elim ?_ (by assumption)) | (refine okOptS_elim ?_ (by assumption)) | (refine okXF_elim ?_ (by assumption)) | (refine okXO_elim ?_ (by assumption)) | split | dsimp only)

theorem State.bankPut_ok (s : State) (core : Nat) (lines : List Nat) (hs : MemOk s) : MemOk (State.bankPut s core lines) := by
  unfold State.bankPut
  with_reducible repeat' (first | assumption | apply ok_of | simp only [ok_mk] | apply State.setCore_ok | apply okOpt_some | apply okOpt_none | apply okOpt_mapS | apply okOpt_map | apply okOpt_ite | apply foldl_ok | apply foldl_fst_ok | intro _ _ _ | intro _ | (refine ok_fst ?_ (by assumption)) | (refine ok_snd ?_ (by assumption)) | (refine okOpt_elim ?_ (by assumption)) | (refine okXS_elim ?_ (by assumption)) | (refine okXS_elimE ?_ (by assumption)) | (refine okXE_elim ?_ (by assumption)) | (refine okXE_elimE ?_ (by assumption)) | (refine okX_elim ?_ (by assumption)) | (refine okO_elim ?_ (by assumption)) | (refine okOptF_elim ?_ (by assumption)) | (refine okOptS_elim ?_ (by assumption)) | (refine okXF_elim ?_ (by assumption)) | (refine okXO_elim ?_ (by assumption)) | split | dsimp only)

theorem State.writeBack_ok (s : State) (core : Nat) (l : L1Line) (hs : MemOk s) : MemOk (State.writeBack s core l) := by
  unfold State.writeBack
  with_reducible repeat' (first | assumption | apply ok_of | simp only [ok_mk] | apply State.clWrite_ok | apply State.bankPut_ok | apply okOpt_some | apply okOpt_none | apply okOpt_mapS | apply okOpt_map | apply okOpt_ite | apply ok_ite | intro _ _ _ | intro _ | (refine ok_fst ?_ (by assumption)) | (refine ok_snd ?_ (by assumption)) | (refine okOpt_elim ?_ (by assumption)) | (refine okXS_elim ?_ (by assumption)) | (refine okXS_elimE ?_ (by assumption)) | (refine okXE_elim ?_ (by assumption)) | (refine okXE_elimE ?_ (by assumption)) | (refine okX_elim ?_ (by assumption)) | (refine okO_elim ?_ (by assumption)) | (refine okOptF_elim ?_ (by assumption)) | (refine okOptS_elim ?_ (by assumption)) | (refine okXF_elim ?_ (by assumption)) | (refine okXO_elim ?_ (by assumption)) | split | dsimp only)

theorem State.l1Match_ok (s : State) (core : Nat) (slot : Nat) (key : Nat) (line : Nat) (hs : MemOk s) : MemOk (State.l1Match s core slot key line) := by
  unfold State.l1Match
  with_reducible repeat' (first | assumption | apply ok_of | simp only [ok_mk] | apply State.setCore_ok | apply State.writeBack_ok | apply okOpt_some | apply okOpt_none | apply okOpt_mapS | apply okOpt_map | apply okOpt_ite | apply ok_ite | intro _ _ _ | intro _ | (refine ok_fst ?_ (by assumption)) | (refine ok_snd ?_ (by assumption)) | (refine okOpt_elim ?_ (by assumption)) | (refine okXS_elim ?_ (by assumption)) | (refine okXS_elimE ?_ (by assumption)) | (refine okXE_elim ?_ (by assumption)) | (refine okXE_elimE ?_ (by assumption)) | (refine okX_elim ?_ (by assumption)) | (refine okO_elim ?_ (by assumption)) | (refine okOptF_elim ?_ (by assumption)) | (refine okOptS_elim ?_ (by assumption)) | (refine okXF_elim ?_ (by assumption)) | (refine okXO_elim ?_ (by assumption)) | split | dsimp only)

theorem State.l1Alloc_ok (s : State) (core : Nat) (slot : Nat) (key : Nat) (line : Nat) (lru : Bool) (hs : MemOk s) : MemOk (State.l1Alloc s core slot key line lru) := by
  unfold State.l1Alloc
  with_reducible repeat' (first | assumption | apply ok_of | simp only [ok_mk] | apply State.setCore_ok | apply State.writeBack_ok | apply okOpt_some | apply okOpt_none | apply okOpt_mapS | apply okOpt_map | apply okOpt_ite | intro _ _ _ | intro _ | (refine ok_fst ?_ (by assumption)) | (refine ok_snd ?_ (by assumption)) | (refine okOpt_elim ?_ (by assumption)) | (refine okXS_elim ?_ (by assumption)) | (refine okXS_elimE ?_ (by assumption)) | (refine okXE_elim ?_ (by assumption)) | (refine okXE_elimE ?_ (by assumption)) | (refine okX_elim ?_ (by assumption)) | (refine okO_elim ?_ (by assumption)) | (refine okOptF_elim ?_ (by assumption)) | (refine okOptS_elim ?_ (by assumption)) | (refine okXF_elim ?_ (by assumption)) | (refine okXO_elim ?_ (by assumption)) | split | dsimp only)

theorem State.l1Fill_ok (s : State) (core : Nat) (slot : Nat) (at_ : Attr) (w : Nat) (hs : MemOk s) : MemOk (State.l1Fill s core slot at_ w) := by
  unfold State.l1Fill
  with_reducible repeat' (first | assumption | apply ok_of | simp only [ok_mk] | apply State.clFill_ok | apply State.setCore_ok | apply State.bankPut_ok | apply okOpt_some | apply okOpt_none | apply okOpt_mapS | apply okOpt_map | apply okOpt_ite | apply foldl_ok | apply foldl_fst_ok | apply mapsOk_mem | apply mapsOk_mems | apply mapsOk_burst | apply mapsOk_poisons | apply mapsOk_poison | apply ok_ite | intro _ _ _ | intro _ | (refine ok_fst ?_ (by assumption)) | (refine ok_snd ?_ (by assumption)) | (refine okOpt_elim ?_ (by assumption)) | (refine okXS_elim ?_ (by assumption)) | (refine okXS_elimE ?_ (by assumption)) | (refine okXE_elim ?_ (by assumption)) | (refine okXE_elimE ?_ (by assumption)) | (refine okX_elim ?_ (by assumption)) | (refine okO_elim ?_ (by assumption)) | (refine okOptF_elim ?_ (by assumption)) | (refine okOptS_elim ?_ (by assumption)) | (refine okXF_elim ?_ (by assumption)) | (refine okXO_elim ?_ (by assumption)) | split | dsimp only)

theorem State.l1Hit_ok (s : State) (core : Nat) (line : Nat) (hs : MemOk s) : MemOk (State.l1Hit s core line) := by
  unfold State.l1Hit
  with_reducible repeat' (first | assumption | apply ok_of | simp only [ok_mk] | apply State.setCore_ok | apply okOpt_some | apply okOpt_none | apply okOpt_mapS | apply okOpt_map | apply okOpt_ite | intro _ _ _ | intro _ | (refine ok_fst ?_ (by assumption)) | (refine ok_snd ?_ (by assumption)) | (refine okOpt_elim ?_ (by assumption)) | (refine okXS_elim ?_ (by assumption)) | (refine okXS_elimE ?_ (by assumption)) | (refine okXE_elim ?_ (by assumption)) | (refine okXE_elimE ?_ (by assumption)) | (refine okX_elim ?_ (by assumption)) | (refine okO_elim ?_ (by assumption)) | (refine okOptF_elim ?_ (by assumption)) | (refine okOptS_elim ?_ (by assumption)) | (refine okXF_elim ?_ (by assumption)) | (refine okXO_elim ?_ (by assumption)) | split | dsimp only)

theorem State.l1Forget_ok (s : State) (core : Nat) (w : Nat) (hs : MemOk s) : MemOk (State.l1Forget s core w) := by
  unfold State.l1Forget
  with_reducible repeat' (first | assumption | apply ok_of | simp only [ok_mk] | apply State.setCore_ok | apply okOpt_some | apply okOpt_none | apply okOpt_mapS | apply okOpt_map | apply okOpt_ite | intro _ _ _ | intro _ | (refine ok_fst ?_ (by assumption)) | (refine ok_snd ?_ (by assumption)) | (refine okOpt_elim ?_ (by assumption)) | (refine okXS_elim ?_ (by assumption)) | (refine okXS_elimE ?_ (by assumption)) | (refine okXE_elim ?_ (by assumption)) | (refine okXE_elimE ?_ (by assumption)) | (refine okX_elim ?_ (by assumption)) | (refine okO_elim ?_ (by assumption)) | (refine okOptF_elim ?_ (by assumption)) | (refine okOptS_elim ?_ (by assumption)) | (refine okXF_elim ?_ (by assumption)) | (refine okXO_elim ?_ (by assumption)) | split | dsimp only)

theorem State.l1Sector_ok (s : State) (core : Nat) (slot : Nat) (at_ : Attr) (cp : Nat) (w : Nat) (offs : List Nat) (hs : MemOk s) : MemOk (State.l1Sector s core slot at_ cp w offs).1 := by
  unfold State.l1Sector
  with_reducible repeat' (first | assumption | apply ok_of | simp only [ok_mk] | apply State.clFill_ok | apply State.setCore_ok | apply State.l1Match_ok | apply State.l1Alloc_ok | apply State.l1Fill_ok | apply State.l1Hit_ok | apply State.l1Forget_ok | apply okOpt_some | apply okOpt_none | apply okOpt_mapS | apply okOpt_map | apply okOpt_ite | apply ok_ite | intro _ _ _ | intro _ | (refine ok_fst ?_ (by assumption)) | (refine ok_snd ?_ (by assumption)) | (refine okOpt_elim ?_ (by assumption)) | (refine okXS_elim ?_ (by assumption)) | (refine okXS_elimE ?_ (by assumption)) | (refine okXE_elim ?_ (by assumption)) | (refine okXE_elimE ?_ (by assumption)) | (refine okX_elim ?_ (by assumption)) | (refine okO_elim ?_ (by assumption)) | (refine okOptF_elim ?_ (by assumption)) | (refine okOptS_elim ?_ (by assumption)) | (refine okXF_elim ?_ (by assumption)) | (refine okXO_elim ?_ (by assumption)) | split | dsimp only)

theorem State.wideSector_ok (s : State) (core : Nat) (slot : Nat) (at_ : Attr) (sc : Scope) (w : Nat) (offs : List Nat) (hs : MemOk s) : MemOk (State.wideSector s core slot at_ sc w offs).1 := by
  unfold State.wideSector
  with_reducible repeat' (first | assumption | apply ok_of | simp only [ok_mk] | apply State.traffick_ok | apply State.clFill_ok | apply State.l1Match_ok | apply State.l1Hit_ok | apply okOpt_some | apply okOpt_none | apply okOpt_mapS | apply okOpt_map | apply okOpt_ite | apply ok_ite | intro _ _ _ | intro _ | (refine ok_fst ?_ (by assumption)) | (refine ok_snd ?_ (by assumption)) | (refine okOpt_elim ?_ (by assumption)) | (refine okXS_elim ?_ (by assumption)) | (refine okXS_elimE ?_ (by assumption)) | (refine okXE_elim ?_ (by assumption)) | (refine okXE_elimE ?_ (by assumption)) | (refine okX_elim ?_ (by assumption)) | (refine okO_elim ?_ (by assumption)) | (refine okOptF_elim ?_ (by assumption)) | (refine okOptS_elim ?_ (by assumption)) | (refine okXF_elim ?_ (by assumption)) | (refine okXO_elim ?_ (by assumption)) | split | dsimp only)

theorem State.sectorAt_ok (s : State) (core : Nat) (slot : Nat) (at_ : Attr) (cp : Nat) (sc : Scope) (w : Nat) (offs : List Nat) (hs : MemOk s) : MemOk (State.sectorAt s core slot at_ cp sc w offs).1 := by
  unfold State.sectorAt
  with_reducible repeat' (first | assumption | apply ok_of | simp only [ok_mk] | apply State.l1Sector_ok | apply State.wideSector_ok | intro _ _ _ | intro _ | (refine ok_fst ?_ (by assumption)) | (refine ok_snd ?_ (by assumption)) | (refine okOpt_elim ?_ (by assumption)) | (refine okXS_elim ?_ (by assumption)) | (refine okXS_elimE ?_ (by assumption)) | (refine okXE_elim ?_ (by assumption)) | (refine okXE_elimE ?_ (by assumption)) | (refine okX_elim ?_ (by assumption)) | (refine okO_elim ?_ (by assumption)) | (refine okOptF_elim ?_ (by assumption)) | (refine okOptS_elim ?_ (by assumption)) | (refine okXF_elim ?_ (by assumption)) | (refine okXO_elim ?_ (by assumption)) | split | dsimp only)

theorem State.l1StoreLine_ok (s : State) (core : Nat) (slot : Nat) (at_ : Attr) (sc : Scope) (through : Bool) (line : Nat) (bs : List (Nat × Byte)) (hs : MemOk s) : MemOk (State.l1StoreLine s core slot at_ sc through line bs) := by
  unfold State.l1StoreLine
  with_reducible repeat' (first | assumption | apply ok_of | simp only [ok_mk] | apply State.clWrite_ok | apply State.setCore_ok | apply State.l1Match_ok | apply State.l1Alloc_ok | apply State.l1Hit_ok | apply okOpt_some | apply okOpt_none | apply okOpt_mapS | apply okOpt_map | apply okOpt_ite | apply ok_ite | intro _ _ _ | intro _ | (refine ok_fst ?_ (by assumption)) | (refine ok_snd ?_ (by assumption)) | (refine okOpt_elim ?_ (by assumption)) | (refine okXS_elim ?_ (by assumption)) | (refine okXS_elimE ?_ (by assumption)) | (refine okXE_elim ?_ (by assumption)) | (refine okXE_elimE ?_ (by assumption)) | (refine okX_elim ?_ (by assumption)) | (refine okO_elim ?_ (by assumption)) | (refine okOptF_elim ?_ (by assumption)) | (refine okOptS_elim ?_ (by assumption)) | (refine okXF_elim ?_ (by assumption)) | (refine okXO_elim ?_ (by assumption)) | split | dsimp only)

theorem State.l1Store_ok (s : State) (core : Nat) (slot : Nat) (at_ : Attr) (sc : Scope) (nol1 : Bool) (bs : List (Nat × Byte)) (hs : MemOk s) : MemOk (State.l1Store s core slot at_ sc nol1 bs) := by
  unfold State.l1Store
  with_reducible repeat' (first | assumption | apply ok_of | simp only [ok_mk] | apply State.l1StoreLine_ok | apply okOpt_some | apply okOpt_none | apply okOpt_mapS | apply okOpt_map | apply okOpt_ite | apply foldl_ok | apply foldl_fst_ok | apply ok_ite | intro _ _ _ | intro _ | (refine ok_fst ?_ (by assumption)) | (refine ok_snd ?_ (by assumption)) | (refine okOpt_elim ?_ (by assumption)) | (refine okXS_elim ?_ (by assumption)) | (refine okXS_elimE ?_ (by assumption)) | (refine okXE_elim ?_ (by assumption)) | (refine okXE_elimE ?_ (by assumption)) | (refine okX_elim ?_ (by assumption)) | (refine okO_elim ?_ (by assumption)) | (refine okOptF_elim ?_ (by assumption)) | (refine okOptS_elim ?_ (by assumption)) | (refine okXF_elim ?_ (by assumption)) | (refine okXO_elim ?_ (by assumption)) | split | dsimp only)

theorem State.cleanLines_ok (s : State) (core : Nat) (p : L1Line → Bool) (hs : MemOk s) : MemOk (State.cleanLines s core p) := by
  unfold State.cleanLines
  with_reducible repeat' (first | assumption | apply ok_of | simp only [ok_mk] | apply State.setCore_ok | apply State.writeBack_ok | apply okOpt_some | apply okOpt_none | apply okOpt_mapS | apply okOpt_map | apply okOpt_ite | apply foldl_ok | apply foldl_fst_ok | apply ok_ite | intro _ _ _ | intro _ | (refine ok_fst ?_ (by assumption)) | (refine ok_snd ?_ (by assumption)) | (refine okOpt_elim ?_ (by assumption)) | (refine okXS_elim ?_ (by assumption)) | (refine okXS_elimE ?_ (by assumption)) | (refine okXE_elim ?_ (by assumption)) | (refine okXE_elimE ?_ (by assumption)) | (refine okX_elim ?_ (by assumption)) | (refine okO_elim ?_ (by assumption)) | (refine okOptF_elim ?_ (by assumption)) | (refine okOptS_elim ?_ (by assumption)) | (refine okXF_elim ?_ (by assumption)) | (refine okXO_elim ?_ (by assumption)) | split | dsimp only)

theorem State.l1Release_ok (s : State) (core : Nat) (slot : Nat) (sc : Scope) (hs : MemOk s) : MemOk (State.l1Release s core slot sc) := by
  unfold State.l1Release
  with_reducible repeat' (first | assumption | apply ok_of | simp only [ok_mk] | apply State.cleanLines_ok | intro _ _ _ | intro _ | (refine ok_fst ?_ (by assumption)) | (refine ok_snd ?_ (by assumption)) | (refine okOpt_elim ?_ (by assumption)) | (refine okXS_elim ?_ (by assumption)) | (refine okXS_elimE ?_ (by assumption)) | (refine okXE_elim ?_ (by assumption)) | (refine okXE_elimE ?_ (by assumption)) | (refine okX_elim ?_ (by assumption)) | (refine okO_elim ?_ (by assumption)) | (refine okOptF_elim ?_ (by assumption)) | (refine okOptS_elim ?_ (by assumption)) | (refine okXF_elim ?_ (by assumption)) | (refine okXO_elim ?_ (by assumption)) | split | dsimp only)

theorem State.acquireAt_ok (s : State) (core : Nat) (slot : Nat) (sc : Scope) (hs : MemOk s) : MemOk (State.acquireAt s core slot sc) := by
  unfold State.acquireAt
  with_reducible repeat' (first | assumption | apply ok_of | simp only [ok_mk] | apply State.setClus_ok | apply State.setCore_ok | apply okOpt_some | apply okOpt_none | apply okOpt_mapS | apply okOpt_map | apply okOpt_ite | apply ok_ite | intro _ _ _ | intro _ | (refine ok_fst ?_ (by assumption)) | (refine ok_snd ?_ (by assumption)) | (refine okOpt_elim ?_ (by assumption)) | (refine okXS_elim ?_ (by assumption)) | (refine okXS_elimE ?_ (by assumption)) | (refine okXE_elim ?_ (by assumption)) | (refine okXE_elimE ?_ (by assumption)) | (refine okX_elim ?_ (by assumption)) | (refine okO_elim ?_ (by assumption)) | (refine okOptF_elim ?_ (by assumption)) | (refine okOptS_elim ?_ (by assumption)) | (refine okXF_elim ?_ (by assumption)) | (refine okXO_elim ?_ (by assumption)) | split | dsimp only)

theorem State.l1Flush_ok (s : State) (core : Nat) (hs : MemOk s) : MemOk (State.l1Flush s core) := by
  unfold State.l1Flush
  with_reducible repeat' (first | assumption | apply ok_of | simp only [ok_mk] | apply State.setCore_ok | apply State.cleanLines_ok | intro _ _ _ | intro _ | (refine ok_fst ?_ (by assumption)) | (refine ok_snd ?_ (by assumption)) | (refine okOpt_elim ?_ (by assumption)) | (refine okXS_elim ?_ (by assumption)) | (refine okXS_elimE ?_ (by assumption)) | (refine okXE_elim ?_ (by assumption)) | (refine okXE_elimE ?_ (by assumption)) | (refine okX_elim ?_ (by assumption)) | (refine okO_elim ?_ (by assumption)) | (refine okOptF_elim ?_ (by assumption)) | (refine okOptS_elim ?_ (by assumption)) | (refine okXF_elim ?_ (by assumption)) | (refine okXO_elim ?_ (by assumption)) | split | dsimp only)

theorem State.walkTraffic_ok (s : State) (slot : Nat) (va : Nat) (hs : MemOk s) : MemOk (State.walkTraffic s slot va) := by
  unfold State.walkTraffic
  with_reducible repeat' (first | assumption | apply ok_of | simp only [ok_mk] | apply State.traffick_ok | apply foldl_ok | apply foldl_fst_ok | apply ok_ite | intro _ _ _ | intro _ | (refine ok_fst ?_ (by assumption)) | (refine ok_snd ?_ (by assumption)) | (refine okOpt_elim ?_ (by assumption)) | (refine okXS_elim ?_ (by assumption)) | (refine okXS_elimE ?_ (by assumption)) | (refine okXE_elim ?_ (by assumption)) | (refine okXE_elimE ?_ (by assumption)) | (refine okX_elim ?_ (by assumption)) | (refine okO_elim ?_ (by assumption)) | (refine okOptF_elim ?_ (by assumption)) | (refine okOptS_elim ?_ (by assumption)) | (refine okXF_elim ?_ (by assumption)) | (refine okXO_elim ?_ (by assumption)) | split | dsimp only)

theorem State.xlate_ok (s : State) (core : Nat) (slot : Nat) (va : Nat) (hs : MemOk s) : MemOk (State.xlate s core slot va).1 := by
  unfold State.xlate
  with_reducible repeat' (first | assumption | apply ok_of | simp only [ok_mk] | apply State.setCore_ok | apply okO_next | apply okO_fault | apply okO_refused | apply okOpt_some | apply okOpt_none | apply okOpt_mapS | apply okOpt_map | apply okOpt_ite | apply ok_ite | intro _ _ _ | intro _ | (refine ok_fst ?_ (by assumption)) | (refine ok_snd ?_ (by assumption)) | (refine okOpt_elim ?_ (by assumption)) | (refine okXS_elim ?_ (by assumption)) | (refine okXS_elimE ?_ (by assumption)) | (refine okXE_elim ?_ (by assumption)) | (refine okXE_elimE ?_ (by assumption)) | (refine okX_elim ?_ (by assumption)) | (refine okO_elim ?_ (by assumption)) | (refine okOptF_elim ?_ (by assumption)) | (refine okOptS_elim ?_ (by assumption)) | (refine okXF_elim ?_ (by assumption)) | (refine okXO_elim ?_ (by assumption)) | split | dsimp only)

theorem State.dropFailed_ok (s : State) (core : Nat) (slot : Nat) (regions : List Nat) (hs : MemOk s) : MemOk (State.dropFailed s core slot regions) := by
  unfold State.dropFailed
  with_reducible repeat' (first | assumption | apply ok_of | simp only [ok_mk] | apply okOpt_some | apply okOpt_none | apply okOpt_mapS | apply okOpt_map | apply okOpt_ite | apply ok_ite | intro _ _ _ | intro _ | (refine ok_fst ?_ (by assumption)) | (refine ok_snd ?_ (by assumption)) | (refine okOpt_elim ?_ (by assumption)) | (refine okXS_elim ?_ (by assumption)) | (refine okXS_elimE ?_ (by assumption)) | (refine okXE_elim ?_ (by assumption)) | (refine okXE_elimE ?_ (by assumption)) | (refine okX_elim ?_ (by assumption)) | (refine okO_elim ?_ (by assumption)) | (refine okOptF_elim ?_ (by assumption)) | (refine okOptS_elim ?_ (by assumption)) | (refine okXF_elim ?_ (by assumption)) | (refine okXO_elim ?_ (by assumption)) | split | dsimp only)

theorem State.tlbDrop_ok (s : State) (p : TlbE → Bool) (hs : MemOk s) : MemOk (State.tlbDrop s p) := by
  unfold State.tlbDrop
  with_reducible repeat' (first | assumption | apply ok_of | simp only [ok_mk] | apply okOpt_some | apply okOpt_none | apply okOpt_mapS | apply okOpt_map | apply okOpt_ite | intro _ _ _ | intro _ | (refine ok_fst ?_ (by assumption)) | (refine ok_snd ?_ (by assumption)) | (refine okOpt_elim ?_ (by assumption)) | (refine okXS_elim ?_ (by assumption)) | (refine okXS_elimE ?_ (by assumption)) | (refine okXE_elim ?_ (by assumption)) | (refine okXE_elimE ?_ (by assumption)) | (refine okX_elim ?_ (by assumption)) | (refine okO_elim ?_ (by assumption)) | (refine okOptF_elim ?_ (by assumption)) | (refine okOptS_elim ?_ (by assumption)) | (refine okXF_elim ?_ (by assumption)) | (refine okXO_elim ?_ (by assumption)) | split | dsimp only)

theorem State.walkNow_ok (s : State) (die : Nat) (slot : Nat) (va : Nat) (core : Option Nat) (hs : MemOk s) : MemOk (State.walkNow s die slot va core).1 := by
  unfold State.walkNow
  with_reducible repeat' (first | assumption | apply ok_of | simp only [ok_mk] | apply State.walkTraffic_ok | apply okO_next | apply okO_fault | apply okO_refused | apply okOpt_some | apply okOpt_none | apply okOpt_mapS | apply okOpt_map | apply okOpt_ite | apply ok_ite | intro _ _ _ | intro _ | (refine ok_fst ?_ (by assumption)) | (refine ok_snd ?_ (by assumption)) | (refine okOpt_elim ?_ (by assumption)) | (refine okXS_elim ?_ (by assumption)) | (refine okXS_elimE ?_ (by assumption)) | (refine okXE_elim ?_ (by assumption)) | (refine okXE_elimE ?_ (by assumption)) | (refine okX_elim ?_ (by assumption)) | (refine okO_elim ?_ (by assumption)) | (refine okOptF_elim ?_ (by assumption)) | (refine okOptS_elim ?_ (by assumption)) | (refine okXF_elim ?_ (by assumption)) | (refine okXO_elim ?_ (by assumption)) | split | dsimp only)

theorem State.engXlate_ok (s : State) (die : Nat) (slot : Nat) (va : Nat) (hs : MemOk s) : MemOk (State.engXlate s die slot va).1 := by
  unfold State.engXlate
  with_reducible repeat' (first | assumption | apply ok_of | simp only [ok_mk] | apply State.walkNow_ok | apply okOpt_some | apply okOpt_none | apply okOpt_mapS | apply okOpt_map | apply okOpt_ite | apply ok_ite | intro _ _ _ | intro _ | (refine ok_fst ?_ (by assumption)) | (refine ok_snd ?_ (by assumption)) | (refine okOpt_elim ?_ (by assumption)) | (refine okXS_elim ?_ (by assumption)) | (refine okXS_elimE ?_ (by assumption)) | (refine okXE_elim ?_ (by assumption)) | (refine okXE_elimE ?_ (by assumption)) | (refine okX_elim ?_ (by assumption)) | (refine okO_elim ?_ (by assumption)) | (refine okOptF_elim ?_ (by assumption)) | (refine okOptS_elim ?_ (by assumption)) | (refine okXF_elim ?_ (by assumption)) | (refine okXO_elim ?_ (by assumption)) | split | dsimp only)

theorem State.coreWalk_ok (s : State) (core : Nat) (slot : Nat) (va : Nat) (hs : MemOk s) : MemOk (State.coreWalk s core slot va).1 := by
  unfold State.coreWalk
  with_reducible repeat' (first | assumption | apply ok_of | simp only [ok_mk] | apply State.setClus_ok | apply State.setCore_ok | apply State.walkNow_ok | apply okOpt_some | apply okOpt_none | apply okOpt_mapS | apply okOpt_map | apply okOpt_ite | apply ok_ite | intro _ _ _ | intro _ | (refine ok_fst ?_ (by assumption)) | (refine ok_snd ?_ (by assumption)) | (refine okOpt_elim ?_ (by assumption)) | (refine okXS_elim ?_ (by assumption)) | (refine okXS_elimE ?_ (by assumption)) | (refine okXE_elim ?_ (by assumption)) | (refine okXE_elimE ?_ (by assumption)) | (refine okX_elim ?_ (by assumption)) | (refine okO_elim ?_ (by assumption)) | (refine okOptF_elim ?_ (by assumption)) | (refine okOptS_elim ?_ (by assumption)) | (refine okXF_elim ?_ (by assumption)) | (refine okXO_elim ?_ (by assumption)) | split | dsimp only)

theorem State.engByte_ok (s : State) (die : Nat) (slot : Nat) (n : Need) (va : Nat) (hs : MemOk s) : MemOk (State.engByte s die slot n va).1 := by
  unfold State.engByte
  with_reducible repeat' (first | assumption | apply ok_of | simp only [ok_mk] | apply State.engXlate_ok | apply okOpt_some | apply okOpt_none | apply okOpt_mapS | apply okOpt_map | apply okOpt_ite | apply okF_ok | apply okF_error | apply ok_ite | intro _ _ _ | intro _ | (refine ok_fst ?_ (by assumption)) | (refine ok_snd ?_ (by assumption)) | (refine okOpt_elim ?_ (by assumption)) | (refine okXS_elim ?_ (by assumption)) | (refine okXS_elimE ?_ (by assumption)) | (refine okXE_elim ?_ (by assumption)) | (refine okXE_elimE ?_ (by assumption)) | (refine okX_elim ?_ (by assumption)) | (refine okO_elim ?_ (by assumption)) | (refine okOptF_elim ?_ (by assumption)) | (refine okOptS_elim ?_ (by assumption)) | (refine okXF_elim ?_ (by assumption)) | (refine okXO_elim ?_ (by assumption)) | split | dsimp only)

theorem State.engBytes_ok (s : State) (die : Nat) (slot : Nat) (need : Need) (va : Nat) (x0 : Nat) (hs : MemOk s) : MemOk (State.engBytes s die slot need va x0).1 := by
  induction x0 generalizing s with
  | zero =>
    unfold State.engBytes
    with_reducible repeat' (first | assumption | apply ok_of | simp only [ok_mk] | apply State.engByte_ok | apply okF_ok | apply okF_error | apply ok_ite | intro _ _ _ | intro _ | (refine ok_fst ?_ (by assumption)) | (refine ok_snd ?_ (by assumption)) | (refine okOpt_elim ?_ (by assumption)) | (refine okXS_elim ?_ (by assumption)) | (refine okXS_elimE ?_ (by assumption)) | (refine okXE_elim ?_ (by assumption)) | (refine okXE_elimE ?_ (by assumption)) | (refine okX_elim ?_ (by assumption)) | (refine okO_elim ?_ (by assumption)) | (refine okOptF_elim ?_ (by assumption)) | (refine okOptS_elim ?_ (by assumption)) | (refine okXF_elim ?_ (by assumption)) | (refine okXO_elim ?_ (by assumption)) | split | dsimp only)
  | succ y ih =>
    unfold State.engBytes
    with_reducible repeat' (first | assumption | apply ok_of | simp only [ok_mk] | apply ih | apply State.engByte_ok | apply okF_ok | apply okF_error | apply ok_ite | intro _ _ _ | intro _ | (refine ok_fst ?_ (by assumption)) | (refine ok_snd ?_ (by assumption)) | (refine okOpt_elim ?_ (by assumption)) | (refine okXS_elim ?_ (by assumption)) | (refine okXS_elimE ?_ (by assumption)) | (refine okXE_elim ?_ (by assumption)) | (refine okXE_elimE ?_ (by assumption)) | (refine okX_elim ?_ (by assumption)) | (refine okO_elim ?_ (by assumption)) | (refine okOptF_elim ?_ (by assumption)) | (refine okOptS_elim ?_ (by assumption)) | (refine okXF_elim ?_ (by assumption)) | (refine okXO_elim ?_ (by assumption)) | split | dsimp only)

theorem State.engPass_ok (s : State) (slot : Nat) (cls : Nat) (kind : TKind) (l : List (Nat × Attr)) (hs : MemOk s) : OkXS (State.engPass s slot cls kind l) := by
  unfold State.engPass
  with_reducible repeat' (first | assumption | apply ok_of | simp only [ok_mk] | apply State.engTraffic_ok | apply State.pass_ok | apply okXS_ok | apply okXS_error | intro _ _ _ | intro _ | (refine ok_fst ?_ (by assumption)) | (refine ok_snd ?_ (by assumption)) | (refine okOpt_elim ?_ (by assumption)) | (refine okXS_elim ?_ (by assumption)) | (refine okXS_elimE ?_ (by assumption)) | (refine okXE_elim ?_ (by assumption)) | (refine okXE_elimE ?_ (by assumption)) | (refine okX_elim ?_ (by assumption)) | (refine okO_elim ?_ (by assumption)) | (refine okOptF_elim ?_ (by assumption)) | (refine okOptS_elim ?_ (by assumption)) | (refine okXF_elim ?_ (by assumption)) | (refine okXO_elim ?_ (by assumption)) | split | dsimp only)

theorem State.gate_ok {α : Type} (s : State) (r : State × Except EStop α) (hs : MemOk s) (hr : MemOk (r).1) : MemOk (State.gate s r).1 := by
  unfold State.gate
  with_reducible repeat' (first | assumption | apply ok_of | simp only [ok_mk] | apply State.pass_ok | intro _ _ _ | intro _ | (refine ok_fst ?_ (by assumption)) | (refine ok_snd ?_ (by assumption)) | (refine okOpt_elim ?_ (by assumption)) | (refine okXS_elim ?_ (by assumption)) | (refine okXS_elimE ?_ (by assumption)) | (refine okXE_elim ?_ (by assumption)) | (refine okXE_elimE ?_ (by assumption)) | (refine okX_elim ?_ (by assumption)) | (refine okO_elim ?_ (by assumption)) | (refine okOptF_elim ?_ (by assumption)) | (refine okOptS_elim ?_ (by assumption)) | (refine okXF_elim ?_ (by assumption)) | (refine okXO_elim ?_ (by assumption)) | split | dsimp only)

theorem State.rawRead_ok (s : State) (cls : Nat) (die : Nat) (slot : Nat) (va : Nat) (n : Nat) (hs : MemOk s) : MemOk (State.rawRead s cls die slot va n).1 := by
  unfold State.rawRead
  with_reducible repeat' (first | assumption | apply ok_of | simp only [ok_mk] | apply State.engTraffic_ok | apply State.engBytes_ok | apply okOpt_some | apply okOpt_none | apply okOpt_mapS | apply okOpt_map | apply okOpt_ite | apply okF_ok | apply okF_error | intro _ _ _ | intro _ | (refine ok_fst ?_ (by assumption)) | (refine ok_snd ?_ (by assumption)) | (refine okOpt_elim ?_ (by assumption)) | (refine okXS_elim ?_ (by assumption)) | (refine okXS_elimE ?_ (by assumption)) | (refine okXE_elim ?_ (by assumption)) | (refine okXE_elimE ?_ (by assumption)) | (refine okX_elim ?_ (by assumption)) | (refine okO_elim ?_ (by assumption)) | (refine okOptF_elim ?_ (by assumption)) | (refine okOptS_elim ?_ (by assumption)) | (refine okXF_elim ?_ (by assumption)) | (refine okXO_elim ?_ (by assumption)) | split | dsimp only)

theorem State.engRead_ok (s : State) (cls : Nat) (die : Nat) (slot : Nat) (va : Nat) (n : Nat) (hs : MemOk s) : MemOk (State.engRead s cls die slot va n).1 := by
  unfold State.engRead
  with_reducible repeat' (first | assumption | apply ok_of | simp only [ok_mk] | apply State.gate_ok | apply State.rawRead_ok | intro _ _ _ | intro _ | (refine ok_fst ?_ (by assumption)) | (refine ok_snd ?_ (by assumption)) | (refine okOpt_elim ?_ (by assumption)) | (refine okXS_elim ?_ (by assumption)) | (refine okXS_elimE ?_ (by assumption)) | (refine okXE_elim ?_ (by assumption)) | (refine okXE_elimE ?_ (by assumption)) | (refine okX_elim ?_ (by assumption)) | (refine okO_elim ?_ (by assumption)) | (refine okOptF_elim ?_ (by assumption)) | (refine okOptS_elim ?_ (by assumption)) | (refine okXF_elim ?_ (by assumption)) | (refine okXO_elim ?_ (by assumption)) | split | dsimp only)

theorem State.engTargets_ok (s : State) (die : Nat) (slot : Nat) (va : Nat) (bs : List Byte) (hs : MemOk s) : MemOk (State.engTargets s die slot va bs).1 := by
  unfold State.engTargets
  with_reducible repeat' (first | assumption | apply ok_of | simp only [ok_mk] | apply State.engBytes_ok | apply okOpt_some | apply okOpt_none | apply okOpt_mapS | apply okOpt_map | apply okOpt_ite | apply okF_ok | apply okF_error | intro _ _ _ | intro _ | (refine ok_fst ?_ (by assumption)) | (refine ok_snd ?_ (by assumption)) | (refine okOpt_elim ?_ (by assumption)) | (refine okXS_elim ?_ (by assumption)) | (refine okXS_elimE ?_ (by assumption)) | (refine okXE_elim ?_ (by assumption)) | (refine okXE_elimE ?_ (by assumption)) | (refine okX_elim ?_ (by assumption)) | (refine okO_elim ?_ (by assumption)) | (refine okOptF_elim ?_ (by assumption)) | (refine okOptS_elim ?_ (by assumption)) | (refine okXF_elim ?_ (by assumption)) | (refine okXO_elim ?_ (by assumption)) | split | dsimp only)

theorem State.homeScatter_ok (s : State) (l : List (Nat × Attr × Byte)) (hs : MemOk s) : MemOk (State.homeScatter s l) := by
  unfold State.homeScatter
  with_reducible repeat' (first | assumption | apply ok_of | simp only [ok_mk] | apply State.homeWrite_ok | apply okOpt_some | apply okOpt_none | apply okOpt_mapS | apply okOpt_map | apply okOpt_ite | apply foldl_ok | apply foldl_fst_ok | intro _ _ _ | intro _ | (refine ok_fst ?_ (by assumption)) | (refine ok_snd ?_ (by assumption)) | (refine okOpt_elim ?_ (by assumption)) | (refine okXS_elim ?_ (by assumption)) | (refine okXS_elimE ?_ (by assumption)) | (refine okXE_elim ?_ (by assumption)) | (refine okXE_elimE ?_ (by assumption)) | (refine okX_elim ?_ (by assumption)) | (refine okO_elim ?_ (by assumption)) | (refine okOptF_elim ?_ (by assumption)) | (refine okOptS_elim ?_ (by assumption)) | (refine okXF_elim ?_ (by assumption)) | (refine okXO_elim ?_ (by assumption)) | split | dsimp only)

theorem State.rawPut_ok (s : State) (slot : Nat) (cls : Nat) (l : List (Nat × Attr × Byte)) (hs : MemOk s) : MemOk (State.rawPut s slot cls l) := by
  unfold State.rawPut
  with_reducible repeat' (first | assumption | apply ok_of | simp only [ok_mk] | apply State.engTraffic_ok | apply State.homeScatter_ok | apply okOpt_some | apply okOpt_none | apply okOpt_mapS | apply okOpt_map | apply okOpt_ite | intro _ _ _ | intro _ | (refine ok_fst ?_ (by assumption)) | (refine ok_snd ?_ (by assumption)) | (refine okOpt_elim ?_ (by assumption)) | (refine okXS_elim ?_ (by assumption)) | (refine okXS_elimE ?_ (by assumption)) | (refine okXE_elim ?_ (by assumption)) | (refine okXE_elimE ?_ (by assumption)) | (refine okX_elim ?_ (by assumption)) | (refine okO_elim ?_ (by assumption)) | (refine okOptF_elim ?_ (by assumption)) | (refine okOptS_elim ?_ (by assumption)) | (refine okXF_elim ?_ (by assumption)) | (refine okXO_elim ?_ (by assumption)) | split | dsimp only)

theorem State.rawWrite_ok (s : State) (cls : Nat) (die : Nat) (slot : Nat) (va : Nat) (bs : List Byte) (hs : MemOk s) : MemOk (State.rawWrite s cls die slot va bs).1 := by
  unfold State.rawWrite
  with_reducible repeat' (first | assumption | apply ok_of | simp only [ok_mk] | apply State.engTargets_ok | apply State.rawPut_ok | apply okF_ok | apply okF_error | intro _ _ _ | intro _ | (refine ok_fst ?_ (by assumption)) | (refine ok_snd ?_ (by assumption)) | (refine okOpt_elim ?_ (by assumption)) | (refine okXS_elim ?_ (by assumption)) | (refine okXS_elimE ?_ (by assumption)) | (refine okXE_elim ?_ (by assumption)) | (refine okXE_elimE ?_ (by assumption)) | (refine okX_elim ?_ (by assumption)) | (refine okO_elim ?_ (by assumption)) | (refine okOptF_elim ?_ (by assumption)) | (refine okOptS_elim ?_ (by assumption)) | (refine okXF_elim ?_ (by assumption)) | (refine okXO_elim ?_ (by assumption)) | split | dsimp only)

theorem State.engWrite_ok (s : State) (cls : Nat) (die : Nat) (slot : Nat) (va : Nat) (bs : List Byte) (hs : MemOk s) : MemOk (State.engWrite s cls die slot va bs).1 := by
  unfold State.engWrite
  with_reducible repeat' (first | assumption | apply ok_of | simp only [ok_mk] | apply State.gate_ok | apply State.rawWrite_ok | intro _ _ _ | intro _ | (refine ok_fst ?_ (by assumption)) | (refine ok_snd ?_ (by assumption)) | (refine okOpt_elim ?_ (by assumption)) | (refine okXS_elim ?_ (by assumption)) | (refine okXS_elimE ?_ (by assumption)) | (refine okXE_elim ?_ (by assumption)) | (refine okXE_elimE ?_ (by assumption)) | (refine okX_elim ?_ (by assumption)) | (refine okO_elim ?_ (by assumption)) | (refine okOptF_elim ?_ (by assumption)) | (refine okOptS_elim ?_ (by assumption)) | (refine okXF_elim ?_ (by assumption)) | (refine okXO_elim ?_ (by assumption)) | split | dsimp only)

theorem State.rawUpd_ok (s : State) (cls : Nat) (die : Nat) (slot : Nat) (va : Nat) (n : Nat) (f : W64 → W64) (hs : MemOk s) : MemOk (State.rawUpd s cls die slot va n f).1 := by
  unfold State.rawUpd
  with_reducible repeat' (first | assumption | apply ok_of | simp only [ok_mk] | apply State.engTraffic_ok | apply State.engBytes_ok | apply State.homeScatter_ok | apply okOpt_some | apply okOpt_none | apply okOpt_mapS | apply okOpt_map | apply okOpt_ite | intro _ _ _ | intro _ | (refine ok_fst ?_ (by assumption)) | (refine ok_snd ?_ (by assumption)) | (refine okOpt_elim ?_ (by assumption)) | (refine okXS_elim ?_ (by assumption)) | (refine okXS_elimE ?_ (by assumption)) | (refine okXE_elim ?_ (by assumption)) | (refine okXE_elimE ?_ (by assumption)) | (refine okX_elim ?_ (by assumption)) | (refine okO_elim ?_ (by assumption)) | (refine okOptF_elim ?_ (by assumption)) | (refine okOptS_elim ?_ (by assumption)) | (refine okXF_elim ?_ (by assumption)) | (refine okXO_elim ?_ (by assumption)) | split | dsimp only)

theorem State.engUpd_ok (s : State) (cls : Nat) (die : Nat) (slot : Nat) (va : Nat) (n : Nat) (f : W64 → W64) (hs : MemOk s) : MemOk (State.engUpd s cls die slot va n f).1 := by
  unfold State.engUpd
  with_reducible repeat' (first | assumption | apply ok_of | simp only [ok_mk] | apply State.gate_ok | apply State.rawUpd_ok | intro _ _ _ | intro _ | (refine ok_fst ?_ (by assumption)) | (refine ok_snd ?_ (by assumption)) | (refine okOpt_elim ?_ (by assumption)) | (refine okXS_elim ?_ (by assumption)) | (refine okXS_elimE ?_ (by assumption)) | (refine okXE_elim ?_ (by assumption)) | (refine okXE_elimE ?_ (by assumption)) | (refine okX_elim ?_ (by assumption)) | (refine okO_elim ?_ (by assumption)) | (refine okOptF_elim ?_ (by assumption)) | (refine okOptS_elim ?_ (by assumption)) | (refine okXF_elim ?_ (by assumption)) | (refine okXO_elim ?_ (by assumption)) | split | dsimp only)

theorem State.physWrite_ok (s : State) (a : Nat) (bs : List Byte) (hs : MemOk s) : MemOk (State.physWrite s a bs) := by
  unfold State.physWrite
  with_reducible repeat' (first | assumption | apply ok_of | simp only [ok_mk] | apply State.homeWrite_ok | apply State.trafficks_ok | apply okOpt_some | apply okOpt_none | apply okOpt_mapS | apply okOpt_map | apply okOpt_ite | intro _ _ _ | intro _ | (refine ok_fst ?_ (by assumption)) | (refine ok_snd ?_ (by assumption)) | (refine okOpt_elim ?_ (by assumption)) | (refine okXS_elim ?_ (by assumption)) | (refine okXS_elimE ?_ (by assumption)) | (refine okXE_elim ?_ (by assumption)) | (refine okXE_elimE ?_ (by assumption)) | (refine okX_elim ?_ (by assumption)) | (refine okO_elim ?_ (by assumption)) | (refine okOptF_elim ?_ (by assumption)) | (refine okOptS_elim ?_ (by assumption)) | (refine okXF_elim ?_ (by assumption)) | (refine okXO_elim ?_ (by assumption)) | split | dsimp only)

end Sys2Proof.Machine
end

