-- ==== Sys2Proof/Laws/OkUnits.lean ====
section
/-! SUPPORT. Memory's canonical form, kept by the operations of groups, phasers, troughs, queues and events. -/

set_option linter.all false
namespace Sys2Proof.Machine

theorem State.setGrp_ok (s : State) (gid : Nat) (g : Group) (hs : MemOk s) : MemOk (State.setGrp s gid g) := by
  unfold State.setGrp
  with_reducible repeat' (first | assumption | apply ok_of | simp only [ok_mk] | intro _ _ _ | intro _ | (refine ok_fst ?_ (by assumption)) | (refine ok_snd ?_ (by assumption)) | (refine okOpt_elim ?_ (by assumption)) | (refine okXS_elim ?_ (by assumption)) | (refine okXS_elimE ?_ (by assumption)) | (refine okXE_elim ?_ (by assumption)) | (refine okXE_elimE ?_ (by assumption)) | (refine okX_elim ?_ (by assumption)) | (refine okO_elim ?_ (by assumption)) | (refine okOptF_elim ?_ (by assumption)) | (refine okOptS_elim ?_ (by assumption)) | (refine okXF_elim ?_ (by assumption)) | (refine okXO_elim ?_ (by assumption)) | split | dsimp only)

theorem State.updGrp_ok (s : State) (gid : Nat) (f : Group → Group) (hs : MemOk s) : MemOk (State.updGrp s gid f) := by
  unfold State.updGrp
  with_reducible repeat' (first | assumption | apply ok_of | simp only [ok_mk] | intro _ _ _ | intro _ | (refine ok_fst ?_ (by assumption)) | (refine ok_snd ?_ (by assumption)) | (refine okOpt_elim ?_ (by assumption)) | (refine okXS_elim ?_ (by assumption)) | (refine okXS_elimE ?_ (by assumption)) | (refine okXE_elim ?_ (by assumption)) | (refine okXE_elimE ?_ (by assumption)) | (refine okX_elim ?_ (by assumption)) | (refine okO_elim ?_ (by assumption)) | (refine okOptF_elim ?_ (by assumption)) | (refine okOptS_elim ?_ (by assumption)) | (refine okXF_elim ?_ (by assumption)) | (refine okXO_elim ?_ (by assumption)) | split | dsimp only)

theorem State.setTeam_ok (s : State) (tid : Nat) (t : Team) (hs : MemOk s) : MemOk (State.setTeam s tid t) := by
  unfold State.setTeam
  with_reducible repeat' (first | assumption | apply ok_of | simp only [ok_mk] | intro _ _ _ | intro _ | (refine ok_fst ?_ (by assumption)) | (refine ok_snd ?_ (by assumption)) | (refine okOpt_elim ?_ (by assumption)) | (refine okXS_elim ?_ (by assumption)) | (refine okXS_elimE ?_ (by assumption)) | (refine okXE_elim ?_ (by assumption)) | (refine okXE_elimE ?_ (by assumption)) | (refine okX_elim ?_ (by assumption)) | (refine okO_elim ?_ (by assumption)) | (refine okOptF_elim ?_ (by assumption)) | (refine okOptS_elim ?_ (by assumption)) | (refine okXF_elim ?_ (by assumption)) | (refine okXO_elim ?_ (by assumption)) | split | dsimp only)

theorem State.updTeam_ok (s : State) (tid : Nat) (f : Team → Team) (hs : MemOk s) : MemOk (State.updTeam s tid f) := by
  unfold State.updTeam
  with_reducible repeat' (first | assumption | apply ok_of | simp only [ok_mk] | intro _ _ _ | intro _ | (refine ok_fst ?_ (by assumption)) | (refine ok_snd ?_ (by assumption)) | (refine okOpt_elim ?_ (by assumption)) | (refine okXS_elim ?_ (by assumption)) | (refine okXS_elimE ?_ (by assumption)) | (refine okXE_elim ?_ (by assumption)) | (refine okXE_elimE ?_ (by assumption)) | (refine okX_elim ?_ (by assumption)) | (refine okO_elim ?_ (by assumption)) | (refine okOptF_elim ?_ (by assumption)) | (refine okOptS_elim ?_ (by assumption)) | (refine okXF_elim ?_ (by assumption)) | (refine okXO_elim ?_ (by assumption)) | split | dsimp only)

theorem State.setPart_ok (s : State) (p : Nat) (x : PartSt) (hs : MemOk s) : MemOk (State.setPart s p x) := by
  unfold State.setPart
  with_reducible repeat' (first | assumption | apply ok_of | simp only [ok_mk] | intro _ _ _ | intro _ | (refine ok_fst ?_ (by assumption)) | (refine ok_snd ?_ (by assumption)) | (refine okOpt_elim ?_ (by assumption)) | (refine okXS_elim ?_ (by assumption)) | (refine okXS_elimE ?_ (by assumption)) | (refine okXE_elim ?_ (by assumption)) | (refine okXE_elimE ?_ (by assumption)) | (refine okX_elim ?_ (by assumption)) | (refine okO_elim ?_ (by assumption)) | (refine okOptF_elim ?_ (by assumption)) | (refine okOptS_elim ?_ (by assumption)) | (refine okXF_elim ?_ (by assumption)) | (refine okXO_elim ?_ (by assumption)) | split | dsimp only)

theorem State.updAny_ok (s : State) (gid : Nat) (f : Group → Group) (hs : MemOk s) : MemOk (State.updAny s gid f) := by
  unfold State.updAny
  with_reducible repeat' (first | assumption | apply ok_of | simp only [ok_mk] | apply State.setGrp_ok | apply okOpt_some | apply okOpt_none | apply okOpt_mapS | apply okOpt_map | apply okOpt_ite | intro _ _ _ | intro _ | (refine ok_fst ?_ (by assumption)) | (refine ok_snd ?_ (by assumption)) | (refine okOpt_elim ?_ (by assumption)) | (refine okXS_elim ?_ (by assumption)) | (refine okXS_elimE ?_ (by assumption)) | (refine okXE_elim ?_ (by assumption)) | (refine okXE_elimE ?_ (by assumption)) | (refine okX_elim ?_ (by assumption)) | (refine okO_elim ?_ (by assumption)) | (refine okOptF_elim ?_ (by assumption)) | (refine okOptS_elim ?_ (by assumption)) | (refine okXF_elim ?_ (by assumption)) | (refine okXO_elim ?_ (by assumption)) | split | dsimp only)

theorem State.fresh_ok (s : State) (hs : MemOk s) : MemOk (State.fresh s).2 := by
  unfold State.fresh
  with_reducible repeat' (first | assumption | apply ok_of | simp only [ok_mk] | apply okO_next | apply okO_fault | apply okO_refused | intro _ _ _ | intro _ | (refine ok_fst ?_ (by assumption)) | (refine ok_snd ?_ (by assumption)) | (refine okOpt_elim ?_ (by assumption)) | (refine okXS_elim ?_ (by assumption)) | (refine okXS_elimE ?_ (by assumption)) | (refine okXE_elim ?_ (by assumption)) | (refine okXE_elimE ?_ (by assumption)) | (refine okX_elim ?_ (by assumption)) | (refine okO_elim ?_ (by assumption)) | (refine okOptF_elim ?_ (by assumption)) | (refine okOptS_elim ?_ (by assumption)) | (refine okXF_elim ?_ (by assumption)) | (refine okXO_elim ?_ (by assumption)) | split | dsimp only)

theorem State.release_ok (s : State) (g : Group) (sc : Scope) (hs : MemOk s) : MemOk (State.release s g sc) := by
  unfold State.release
  with_reducible repeat' (first | assumption | apply ok_of | simp only [ok_mk] | apply State.l1Release_ok | intro _ _ _ | intro _ | (refine ok_fst ?_ (by assumption)) | (refine ok_snd ?_ (by assumption)) | (refine okOpt_elim ?_ (by assumption)) | (refine okXS_elim ?_ (by assumption)) | (refine okXS_elimE ?_ (by assumption)) | (refine okXE_elim ?_ (by assumption)) | (refine okXE_elimE ?_ (by assumption)) | (refine okX_elim ?_ (by assumption)) | (refine okO_elim ?_ (by assumption)) | (refine okOptF_elim ?_ (by assumption)) | (refine okOptS_elim ?_ (by assumption)) | (refine okXF_elim ?_ (by assumption)) | (refine okXO_elim ?_ (by assumption)) | split | dsimp only)

theorem State.acquire_ok (s : State) (g : Group) (sc : Scope) (hs : MemOk s) : MemOk (State.acquire s g sc) := by
  unfold State.acquire
  with_reducible repeat' (first | assumption | apply ok_of | simp only [ok_mk] | apply State.acquireAt_ok | intro _ _ _ | intro _ | (refine ok_fst ?_ (by assumption)) | (refine ok_snd ?_ (by assumption)) | (refine okOpt_elim ?_ (by assumption)) | (refine okXS_elim ?_ (by assumption)) | (refine okXS_elimE ?_ (by assumption)) | (refine okXE_elim ?_ (by assumption)) | (refine okXE_elimE ?_ (by assumption)) | (refine okX_elim ?_ (by assumption)) | (refine okO_elim ?_ (by assumption)) | (refine okOptF_elim ?_ (by assumption)) | (refine okOptS_elim ?_ (by assumption)) | (refine okXF_elim ?_ (by assumption)) | (refine okXO_elim ?_ (by assumption)) | split | dsimp only)

theorem State.acquireWrote_ok (s : State) (g : Group) (w : Wrote) (hs : MemOk s) : MemOk (State.acquireWrote s g w) := by
  unfold State.acquireWrote
  with_reducible repeat' (first | assumption | apply ok_of | simp only [ok_mk] | apply State.setClus_ok | apply State.setCore_ok | apply State.acquire_ok | apply okOpt_some | apply okOpt_none | apply okOpt_mapS | apply okOpt_map | apply okOpt_ite | apply foldl_ok | apply foldl_fst_ok | apply ok_ite | intro _ _ _ | intro _ | (refine ok_fst ?_ (by assumption)) | (refine ok_snd ?_ (by assumption)) | (refine okOpt_elim ?_ (by assumption)) | (refine okXS_elim ?_ (by assumption)) | (refine okXS_elimE ?_ (by assumption)) | (refine okXE_elim ?_ (by assumption)) | (refine okXE_elimE ?_ (by assumption)) | (refine okX_elim ?_ (by assumption)) | (refine okO_elim ?_ (by assumption)) | (refine okOptF_elim ?_ (by assumption)) | (refine okOptS_elim ?_ (by assumption)) | (refine okXF_elim ?_ (by assumption)) | (refine okXO_elim ?_ (by assumption)) | split | dsimp only)

theorem State.bufTrace_ok (s : State) (cl : Nat) (r : TraceRec) (hs : MemOk s) : MemOk (State.bufTrace s cl r) := by
  unfold State.bufTrace
  with_reducible repeat' (first | assumption | apply ok_of | simp only [ok_mk] | apply ok_ite | intro _ _ _ | intro _ | (refine ok_fst ?_ (by assumption)) | (refine ok_snd ?_ (by assumption)) | (refine okOpt_elim ?_ (by assumption)) | (refine okXS_elim ?_ (by assumption)) | (refine okXS_elimE ?_ (by assumption)) | (refine okXE_elim ?_ (by assumption)) | (refine okXE_elimE ?_ (by assumption)) | (refine okX_elim ?_ (by assumption)) | (refine okO_elim ?_ (by assumption)) | (refine okOptF_elim ?_ (by assumption)) | (refine okOptS_elim ?_ (by assumption)) | (refine okXF_elim ?_ (by assumption)) | (refine okXO_elim ?_ (by assumption)) | split | dsimp only)

theorem State.trace_ok (s : State) (g : Group) (idx : Nat) (kind : Nat) (pc : W64) (seq : W32) (arg : Nat) (arg1 : Nat) (hs : MemOk s) : MemOk (State.trace s g idx kind pc seq arg arg1) := by
  unfold State.trace
  with_reducible repeat' (first | assumption | apply ok_of | simp only [ok_mk] | apply State.bufTrace_ok | apply ok_ite | intro _ _ _ | intro _ | (refine ok_fst ?_ (by assumption)) | (refine ok_snd ?_ (by assumption)) | (refine okOpt_elim ?_ (by assumption)) | (refine okXS_elim ?_ (by assumption)) | (refine okXS_elimE ?_ (by assumption)) | (refine okXE_elim ?_ (by assumption)) | (refine okXE_elimE ?_ (by assumption)) | (refine okX_elim ?_ (by assumption)) | (refine okO_elim ?_ (by assumption)) | (refine okOptF_elim ?_ (by assumption)) | (refine okOptS_elim ?_ (by assumption)) | (refine okXF_elim ?_ (by assumption)) | (refine okXO_elim ?_ (by assumption)) | split | dsimp only)

theorem State.flushEvent_ok (s : State) (slot : Nat) (hs : MemOk s) : MemOk (State.flushEvent s slot).1 := by
  unfold State.flushEvent
  with_reducible repeat' (first | assumption | apply ok_of | simp only [ok_mk] | apply State.setReg_ok | apply State.engWrite_ok | apply ok_ite | intro _ _ _ | intro _ | (refine ok_fst ?_ (by assumption)) | (refine ok_snd ?_ (by assumption)) | (refine okOpt_elim ?_ (by assumption)) | (refine okXS_elim ?_ (by assumption)) | (refine okXS_elimE ?_ (by assumption)) | (refine okXE_elim ?_ (by assumption)) | (refine okXE_elimE ?_ (by assumption)) | (refine okX_elim ?_ (by assumption)) | (refine okO_elim ?_ (by assumption)) | (refine okOptF_elim ?_ (by assumption)) | (refine okOptS_elim ?_ (by assumption)) | (refine okXF_elim ?_ (by assumption)) | (refine okXO_elim ?_ (by assumption)) | split | dsimp only)

theorem State.flushEvents_ok (s : State) (slot : Nat) (x0 : Nat) (hs : MemOk s) : MemOk (State.flushEvents s slot x0) := by
  induction x0 generalizing s with
  | zero =>
    unfold State.flushEvents
    with_reducible repeat' (first | assumption | apply ok_of | simp only [ok_mk] | apply State.flushEvent_ok | intro _ _ _ | intro _ | (refine ok_fst ?_ (by assumption)) | (refine ok_snd ?_ (by assumption)) | (refine okOpt_elim ?_ (by assumption)) | (refine okXS_elim ?_ (by assumption)) | (refine okXS_elimE ?_ (by assumption)) | (refine okXE_elim ?_ (by assumption)) | (refine okXE_elimE ?_ (by assumption)) | (refine okX_elim ?_ (by assumption)) | (refine okO_elim ?_ (by assumption)) | (refine okOptF_elim ?_ (by assumption)) | (refine okOptS_elim ?_ (by assumption)) | (refine okXF_elim ?_ (by assumption)) | (refine okXO_elim ?_ (by assumption)) | split | dsimp only)
  | succ y ih =>
    unfold State.flushEvents
    with_reducible repeat' (first | assumption | apply ok_of | simp only [ok_mk] | apply ih | apply State.flushEvent_ok | intro _ _ _ | intro _ | (refine ok_fst ?_ (by assumption)) | (refine ok_snd ?_ (by assumption)) | (refine okOpt_elim ?_ (by assumption)) | (refine okXS_elim ?_ (by assumption)) | (refine okXS_elimE ?_ (by assumption)) | (refine okXE_elim ?_ (by assumption)) | (refine okXE_elimE ?_ (by assumption)) | (refine okX_elim ?_ (by assumption)) | (refine okO_elim ?_ (by assumption)) | (refine okOptF_elim ?_ (by assumption)) | (refine okOptS_elim ?_ (by assumption)) | (refine okXF_elim ?_ (by assumption)) | (refine okXO_elim ?_ (by assumption)) | split | dsimp only)

theorem State.event_ok (s : State) (slot : Nat) (code : Nat) (fc : Nat) (queue : Nat) (tag : W32) (w1 : W64) (w2 : W64) (hs : MemOk s) : MemOk (State.event s slot code fc queue tag w1 w2) := by
  unfold State.event
  with_reducible repeat' (first | assumption | apply ok_of | simp only [ok_mk] | apply State.setRegFld_ok | apply State.flushEvents_ok | apply ok_ite | intro _ _ _ | intro _ | (refine ok_fst ?_ (by assumption)) | (refine ok_snd ?_ (by assumption)) | (refine okOpt_elim ?_ (by assumption)) | (refine okXS_elim ?_ (by assumption)) | (refine okXS_elimE ?_ (by assumption)) | (refine okXE_elim ?_ (by assumption)) | (refine okXE_elimE ?_ (by assumption)) | (refine okX_elim ?_ (by assumption)) | (refine okO_elim ?_ (by assumption)) | (refine okOptF_elim ?_ (by assumption)) | (refine okOptS_elim ?_ (by assumption)) | (refine okXF_elim ?_ (by assumption)) | (refine okXO_elim ?_ (by assumption)) | split | dsimp only)

theorem State.wakeSplit_ok (s : State) (gid : Nat) (idx : Nat) (hs : MemOk s) : MemOk (State.wakeSplit s gid idx) := by
  unfold State.wakeSplit
  with_reducible repeat' (first | assumption | apply ok_of | simp only [ok_mk] | apply State.updGrp_ok | apply okOpt_some | apply okOpt_none | apply okOpt_mapS | apply okOpt_map | apply okOpt_ite | intro _ _ _ | intro _ | (refine ok_fst ?_ (by assumption)) | (refine ok_snd ?_ (by assumption)) | (refine okOpt_elim ?_ (by assumption)) | (refine okXS_elim ?_ (by assumption)) | (refine okXS_elimE ?_ (by assumption)) | (refine okXE_elim ?_ (by assumption)) | (refine okXE_elimE ?_ (by assumption)) | (refine okX_elim ?_ (by assumption)) | (refine okO_elim ?_ (by assumption)) | (refine okOptF_elim ?_ (by assumption)) | (refine okOptS_elim ?_ (by assumption)) | (refine okXF_elim ?_ (by assumption)) | (refine okXO_elim ?_ (by assumption)) | split | dsimp only)

theorem State.passQ_ok (s : State) (gid : Nat) (hs : MemOk s) : MemOk (State.passQ s gid) := by
  unfold State.passQ
  with_reducible repeat' (first | assumption | apply ok_of | simp only [ok_mk] | apply State.waiting_ok | apply okOpt_some | apply okOpt_none | apply okOpt_mapS | apply okOpt_map | apply okOpt_ite | intro _ _ _ | intro _ | (refine ok_fst ?_ (by assumption)) | (refine ok_snd ?_ (by assumption)) | (refine okOpt_elim ?_ (by assumption)) | (refine okXS_elim ?_ (by assumption)) | (refine okXS_elimE ?_ (by assumption)) | (refine okXE_elim ?_ (by assumption)) | (refine okXE_elimE ?_ (by assumption)) | (refine okX_elim ?_ (by assumption)) | (refine okO_elim ?_ (by assumption)) | (refine okOptF_elim ?_ (by assumption)) | (refine okOptS_elim ?_ (by assumption)) | (refine okXF_elim ?_ (by assumption)) | (refine okXO_elim ?_ (by assumption)) | split | dsimp only)

theorem State.quiet_ok (s : State) (gid : Nat) (hs : MemOk s) : MemOk (State.quiet s gid) := by
  unfold State.quiet
  with_reducible repeat' (first | assumption | apply ok_of | simp only [ok_mk] | apply State.release_ok | apply State.passQ_ok | apply okOpt_some | apply okOpt_none | apply okOpt_mapS | apply okOpt_map | apply okOpt_ite | apply ok_ite | intro _ _ _ | intro _ | (refine ok_fst ?_ (by assumption)) | (refine ok_snd ?_ (by assumption)) | (refine okOpt_elim ?_ (by assumption)) | (refine okXS_elim ?_ (by assumption)) | (refine okXS_elimE ?_ (by assumption)) | (refine okXE_elim ?_ (by assumption)) | (refine okXE_elimE ?_ (by assumption)) | (refine okX_elim ?_ (by assumption)) | (refine okO_elim ?_ (by assumption)) | (refine okOptF_elim ?_ (by assumption)) | (refine okOptS_elim ?_ (by assumption)) | (refine okXF_elim ?_ (by assumption)) | (refine okXO_elim ?_ (by assumption)) | split | dsimp only)

theorem State.setPhaser_ok (s : State) (id : Nat) (p : Phaser) (hs : MemOk s) : MemOk (State.setPhaser s id p) := by
  unfold State.setPhaser
  with_reducible repeat' (first | assumption | apply ok_of | simp only [ok_mk] | intro _ _ _ | intro _ | (refine ok_fst ?_ (by assumption)) | (refine ok_snd ?_ (by assumption)) | (refine okOpt_elim ?_ (by assumption)) | (refine okXS_elim ?_ (by assumption)) | (refine okXS_elimE ?_ (by assumption)) | (refine okXE_elim ?_ (by assumption)) | (refine okXE_elimE ?_ (by assumption)) | (refine okX_elim ?_ (by assumption)) | (refine okO_elim ?_ (by assumption)) | (refine okOptF_elim ?_ (by assumption)) | (refine okOptS_elim ?_ (by assumption)) | (refine okXF_elim ?_ (by assumption)) | (refine okXO_elim ?_ (by assumption)) | split | dsimp only)

theorem State.phaserGc_ok (s : State) (id : Nat) (hs : MemOk s) : MemOk (State.phaserGc s id) := by
  unfold State.phaserGc
  with_reducible repeat' (first | assumption | apply ok_of | simp only [ok_mk] | apply ok_ite | intro _ _ _ | intro _ | (refine ok_fst ?_ (by assumption)) | (refine ok_snd ?_ (by assumption)) | (refine okOpt_elim ?_ (by assumption)) | (refine okXS_elim ?_ (by assumption)) | (refine okXS_elimE ?_ (by assumption)) | (refine okXE_elim ?_ (by assumption)) | (refine okXE_elimE ?_ (by assumption)) | (refine okX_elim ?_ (by assumption)) | (refine okO_elim ?_ (by assumption)) | (refine okOptF_elim ?_ (by assumption)) | (refine okOptS_elim ?_ (by assumption)) | (refine okXF_elim ?_ (by assumption)) | (refine okXO_elim ?_ (by assumption)) | split | dsimp only)

theorem State.phaserFault_ok (s : State) (id : Nat) (slot : Nat) (f : AFault) (hs : MemOk s) : MemOk (State.phaserFault s id slot f) := by
  unfold State.phaserFault
  with_reducible repeat' (first | assumption | apply ok_of | simp only [ok_mk] | apply State.setPhaser_ok | apply okOpt_some | apply okOpt_none | apply okOpt_mapS | apply okOpt_map | apply okOpt_ite | apply ok_ite | intro _ _ _ | intro _ | (refine ok_fst ?_ (by assumption)) | (refine ok_snd ?_ (by assumption)) | (refine okOpt_elim ?_ (by assumption)) | (refine okXS_elim ?_ (by assumption)) | (refine okXS_elimE ?_ (by assumption)) | (refine okXE_elim ?_ (by assumption)) | (refine okXE_elimE ?_ (by assumption)) | (refine okX_elim ?_ (by assumption)) | (refine okO_elim ?_ (by assumption)) | (refine okOptF_elim ?_ (by assumption)) | (refine okOptS_elim ?_ (by assumption)) | (refine okXF_elim ?_ (by assumption)) | (refine okXO_elim ?_ (by assumption)) | split | dsimp only)

theorem State.phaserCount_ok (s : State) (id : Nat) (slot : Nat) (n : Nat) (site : W64) (seq : W32) (w : Wrote) (hs : MemOk s) : OkOpt (State.phaserCount s id slot n site seq w) := by
  unfold State.phaserCount
  with_reducible repeat' (first | assumption | apply ok_of | simp only [ok_mk] | apply State.setPhaser_ok | apply State.phaserFault_ok | apply okOpt_some | apply okOpt_none | apply okOpt_mapS | apply okOpt_map | apply okOpt_ite | apply ok_ite | intro _ _ _ | intro _ | (refine ok_fst ?_ (by assumption)) | (refine ok_snd ?_ (by assumption)) | (refine okOpt_elim ?_ (by assumption)) | (refine okXS_elim ?_ (by assumption)) | (refine okXS_elimE ?_ (by assumption)) | (refine okXE_elim ?_ (by assumption)) | (refine okXE_elimE ?_ (by assumption)) | (refine okX_elim ?_ (by assumption)) | (refine okO_elim ?_ (by assumption)) | (refine okOptF_elim ?_ (by assumption)) | (refine okOptS_elim ?_ (by assumption)) | (refine okXF_elim ?_ (by assumption)) | (refine okXO_elim ?_ (by assumption)) | split | dsimp only)

theorem State.dropMember_ok (s : State) (gid : Nat) (m : Member) (hs : MemOk s) : MemOk (State.dropMember s gid m) := by
  unfold State.dropMember
  with_reducible repeat' (first | assumption | apply ok_of | simp only [ok_mk] | apply State.updGrp_ok | apply State.setPhaser_ok | apply State.phaserGc_ok | apply okOpt_some | apply okOpt_none | apply okOpt_mapS | apply okOpt_map | apply okOpt_ite | apply ok_ite | intro _ _ _ | intro _ | (refine ok_fst ?_ (by assumption)) | (refine ok_snd ?_ (by assumption)) | (refine okOpt_elim ?_ (by assumption)) | (refine okXS_elim ?_ (by assumption)) | (refine okXS_elimE ?_ (by assumption)) | (refine okXE_elim ?_ (by assumption)) | (refine okXE_elimE ?_ (by assumption)) | (refine okX_elim ?_ (by assumption)) | (refine okO_elim ?_ (by assumption)) | (refine okOptF_elim ?_ (by assumption)) | (refine okOptS_elim ?_ (by assumption)) | (refine okXF_elim ?_ (by assumption)) | (refine okXO_elim ?_ (by assumption)) | split | dsimp only)

theorem State.setTrough_ok (s : State) (t : Nat) (x : TroughSt) (hs : MemOk s) : MemOk (State.setTrough s t x) := by
  unfold State.setTrough
  with_reducible repeat' (first | assumption | apply ok_of | simp only [ok_mk] | intro _ _ _ | intro _ | (refine ok_fst ?_ (by assumption)) | (refine ok_snd ?_ (by assumption)) | (refine okOpt_elim ?_ (by assumption)) | (refine okXS_elim ?_ (by assumption)) | (refine okXS_elimE ?_ (by assumption)) | (refine okXE_elim ?_ (by assumption)) | (refine okXE_elimE ?_ (by assumption)) | (refine okX_elim ?_ (by assumption)) | (refine okO_elim ?_ (by assumption)) | (refine okOptF_elim ?_ (by assumption)) | (refine okOptS_elim ?_ (by assumption)) | (refine okXF_elim ?_ (by assumption)) | (refine okXO_elim ?_ (by assumption)) | split | dsimp only)

theorem State.handRec_ok (s : State) (gid : Nat) (idx : Nat) (r : List W64) (hs : MemOk s) : MemOk (State.handRec s gid idx r) := by
  unfold State.handRec
  with_reducible repeat' (first | assumption | apply ok_of | simp only [ok_mk] | apply State.setGrp_ok | apply State.acquire_ok | apply State.wakeSplit_ok | apply okOpt_some | apply okOpt_none | apply okOpt_mapS | apply okOpt_map | apply okOpt_ite | intro _ _ _ | intro _ | (refine ok_fst ?_ (by assumption)) | (refine ok_snd ?_ (by assumption)) | (refine okOpt_elim ?_ (by assumption)) | (refine okXS_elim ?_ (by assumption)) | (refine okXS_elimE ?_ (by assumption)) | (refine okXE_elim ?_ (by assumption)) | (refine okXE_elimE ?_ (by assumption)) | (refine okX_elim ?_ (by assumption)) | (refine okO_elim ?_ (by assumption)) | (refine okOptF_elim ?_ (by assumption)) | (refine okOptS_elim ?_ (by assumption)) | (refine okXF_elim ?_ (by assumption)) | (refine okXO_elim ?_ (by assumption)) | split | dsimp only)

theorem State.trAppend_ok (s : State) (t : Nat) (r : List W64) (hs : MemOk s) : MemOk (State.trAppend s t r) := by
  unfold State.trAppend
  with_reducible repeat' (first | assumption | apply ok_of | simp only [ok_mk] | apply State.setTrough_ok | apply State.handRec_ok | intro _ _ _ | intro _ | (refine ok_fst ?_ (by assumption)) | (refine ok_snd ?_ (by assumption)) | (refine okOpt_elim ?_ (by assumption)) | (refine okXS_elim ?_ (by assumption)) | (refine okXS_elimE ?_ (by assumption)) | (refine okXE_elim ?_ (by assumption)) | (refine okXE_elimE ?_ (by assumption)) | (refine okX_elim ?_ (by assumption)) | (refine okO_elim ?_ (by assumption)) | (refine okOptF_elim ?_ (by assumption)) | (refine okOptS_elim ?_ (by assumption)) | (refine okXF_elim ?_ (by assumption)) | (refine okXO_elim ?_ (by assumption)) | split | dsimp only)

theorem State.trClose_ok (s : State) (t : Nat) (hs : MemOk s) : MemOk (State.trClose s t) := by
  unfold State.trClose
  with_reducible repeat' (first | assumption | apply ok_of | simp only [ok_mk] | apply State.setTrough_ok | apply State.handRec_ok | apply foldl_ok | apply foldl_fst_ok | apply ok_ite | intro _ _ _ | intro _ | (refine ok_fst ?_ (by assumption)) | (refine ok_snd ?_ (by assumption)) | (refine okOpt_elim ?_ (by assumption)) | (refine okXS_elim ?_ (by assumption)) | (refine okXS_elimE ?_ (by assumption)) | (refine okXE_elim ?_ (by assumption)) | (refine okXE_elimE ?_ (by assumption)) | (refine okX_elim ?_ (by assumption)) | (refine okO_elim ?_ (by assumption)) | (refine okOptF_elim ?_ (by assumption)) | (refine okOptS_elim ?_ (by assumption)) | (refine okXF_elim ?_ (by assumption)) | (refine okXO_elim ?_ (by assumption)) | split | dsimp only)

theorem State.trTake_ok (s : State) (t : Nat) (hs : MemOk s) : OkOptS (State.trTake s t) := by
  unfold State.trTake
  with_reducible repeat' (first | assumption | apply ok_of | simp only [ok_mk] | apply State.setTrough_ok | apply State.trClose_ok | apply okOpt_some | apply okOpt_none | apply okOpt_mapS | apply okOpt_map | apply okOpt_ite | apply okOptS_some | apply okOptS_none | apply ok_ite | intro _ _ _ | intro _ | (refine ok_fst ?_ (by assumption)) | (refine ok_snd ?_ (by assumption)) | (refine okOpt_elim ?_ (by assumption)) | (refine okXS_elim ?_ (by assumption)) | (refine okXS_elimE ?_ (by assumption)) | (refine okXE_elim ?_ (by assumption)) | (refine okXE_elimE ?_ (by assumption)) | (refine okX_elim ?_ (by assumption)) | (refine okO_elim ?_ (by assumption)) | (refine okOptF_elim ?_ (by assumption)) | (refine okOptS_elim ?_ (by assumption)) | (refine okXF_elim ?_ (by assumption)) | (refine okXO_elim ?_ (by assumption)) | split | dsimp only)

theorem State.setQueue_ok (s : State) (q : Nat) (x : QueueSt) (hs : MemOk s) : MemOk (State.setQueue s q x) := by
  unfold State.setQueue
  with_reducible repeat' (first | assumption | apply ok_of | simp only [ok_mk] | intro _ _ _ | intro _ | (refine ok_fst ?_ (by assumption)) | (refine ok_snd ?_ (by assumption)) | (refine okOpt_elim ?_ (by assumption)) | (refine okXS_elim ?_ (by assumption)) | (refine okXS_elimE ?_ (by assumption)) | (refine okXE_elim ?_ (by assumption)) | (refine okXE_elimE ?_ (by assumption)) | (refine okX_elim ?_ (by assumption)) | (refine okO_elim ?_ (by assumption)) | (refine okOptF_elim ?_ (by assumption)) | (refine okOptS_elim ?_ (by assumption)) | (refine okXF_elim ?_ (by assumption)) | (refine okXO_elim ?_ (by assumption)) | split | dsimp only)

theorem State.packetDone_ok (s : State) (slot : Nat) (q : Nat) (pkt : W32) (hs : MemOk s) : MemOk (State.packetDone s slot q pkt) := by
  unfold State.packetDone
  with_reducible repeat' (first | assumption | apply ok_of | simp only [ok_mk] | apply State.event_ok | apply State.setQueue_ok | apply okOpt_some | apply okOpt_none | apply okOpt_mapS | apply okOpt_map | apply okOpt_ite | intro _ _ _ | intro _ | (refine ok_fst ?_ (by assumption)) | (refine ok_snd ?_ (by assumption)) | (refine okOpt_elim ?_ (by assumption)) | (refine okXS_elim ?_ (by assumption)) | (refine okXS_elimE ?_ (by assumption)) | (refine okXE_elim ?_ (by assumption)) | (refine okXE_elimE ?_ (by assumption)) | (refine okX_elim ?_ (by assumption)) | (refine okO_elim ?_ (by assumption)) | (refine okOptF_elim ?_ (by assumption)) | (refine okOptS_elim ?_ (by assumption)) | (refine okXF_elim ?_ (by assumption)) | (refine okXO_elim ?_ (by assumption)) | split | dsimp only)

theorem State.originDone_ok (s : State) (slot : Nat) (x0 : Origin) (hs : MemOk s) : MemOk (State.originDone s slot x0) := by
  unfold State.originDone
  with_reducible repeat' (first | assumption | apply ok_of | simp only [ok_mk] | apply State.packetDone_ok | intro _ _ _ | intro _ | (refine ok_fst ?_ (by assumption)) | (refine ok_snd ?_ (by assumption)) | (refine okOpt_elim ?_ (by assumption)) | (refine okXS_elim ?_ (by assumption)) | (refine okXS_elimE ?_ (by assumption)) | (refine okXE_elim ?_ (by assumption)) | (refine okXE_elimE ?_ (by assumption)) | (refine okX_elim ?_ (by assumption)) | (refine okO_elim ?_ (by assumption)) | (refine okOptF_elim ?_ (by assumption)) | (refine okOptS_elim ?_ (by assumption)) | (refine okXF_elim ?_ (by assumption)) | (refine okXO_elim ?_ (by assumption)) | split | dsimp only)

theorem State.bankEnter_ok (s : State) (core : Nat) (gid : Nat) (pend : Option Nat) (lines : List Nat) (hs : MemOk s) : MemOk (State.bankEnter s core gid pend lines) := by
  unfold State.bankEnter
  with_reducible repeat' (first | assumption | apply ok_of | simp only [ok_mk] | apply State.setCore_ok | apply State.updGrp_ok | apply okOpt_some | apply okOpt_none | apply okOpt_mapS | apply okOpt_map | apply okOpt_ite | apply foldl_ok | apply foldl_fst_ok | intro _ _ _ | intro _ | (refine ok_fst ?_ (by assumption)) | (refine ok_snd ?_ (by assumption)) | (refine okOpt_elim ?_ (by assumption)) | (refine okXS_elim ?_ (by assumption)) | (refine okXS_elimE ?_ (by assumption)) | (refine okXE_elim ?_ (by assumption)) | (refine okXE_elimE ?_ (by assumption)) | (refine okX_elim ?_ (by assumption)) | (refine okO_elim ?_ (by assumption)) | (refine okOptF_elim ?_ (by assumption)) | (refine okOptS_elim ?_ (by assumption)) | (refine okXF_elim ?_ (by assumption)) | (refine okXO_elim ?_ (by assumption)) | split | dsimp only)

theorem State.engAdd_ok (s : State) (die : Nat) (slot : Nat) (va : Nat) (n : W64) (hs : MemOk s) : MemOk (State.engAdd s die slot va n).1 := by
  unfold State.engAdd
  with_reducible repeat' (first | assumption | apply ok_of | simp only [ok_mk] | apply State.engUpd_ok | apply ok_ite | intro _ _ _ | intro _ | (refine ok_fst ?_ (by assumption)) | (refine ok_snd ?_ (by assumption)) | (refine okOpt_elim ?_ (by assumption)) | (refine okXS_elim ?_ (by assumption)) | (refine okXS_elimE ?_ (by assumption)) | (refine okXE_elim ?_ (by assumption)) | (refine okXE_elimE ?_ (by assumption)) | (refine okX_elim ?_ (by assumption)) | (refine okO_elim ?_ (by assumption)) | (refine okOptF_elim ?_ (by assumption)) | (refine okOptS_elim ?_ (by assumption)) | (refine okXF_elim ?_ (by assumption)) | (refine okXO_elim ?_ (by assumption)) | split | dsimp only)

theorem State.doneWord_ok (s : State) (slot : Nat) (org : Origin) (addr : W64) (hs : MemOk s) : OkOpt (State.doneWord s slot org addr) := by
  unfold State.doneWord
  with_reducible repeat' (first | assumption | apply ok_of | simp only [ok_mk] | apply State.event_ok | apply State.engAdd_ok | apply okOpt_some | apply okOpt_none | apply okOpt_mapS | apply okOpt_map | apply okOpt_ite | apply ok_ite | intro _ _ _ | intro _ | (refine ok_fst ?_ (by assumption)) | (refine ok_snd ?_ (by assumption)) | (refine okOpt_elim ?_ (by assumption)) | (refine okXS_elim ?_ (by assumption)) | (refine okXS_elimE ?_ (by assumption)) | (refine okXE_elim ?_ (by assumption)) | (refine okXE_elimE ?_ (by assumption)) | (refine okX_elim ?_ (by assumption)) | (refine okO_elim ?_ (by assumption)) | (refine okOptF_elim ?_ (by assumption)) | (refine okOptS_elim ?_ (by assumption)) | (refine okXF_elim ?_ (by assumption)) | (refine okXO_elim ?_ (by assumption)) | split | dsimp only)

theorem State.noteLate_ok (s : State) (kid : Nat) (hs : MemOk s) : MemOk (State.noteLate s kid) := by
  unfold State.noteLate
  with_reducible repeat' (first | assumption | apply ok_of | simp only [ok_mk] | apply State.event_ok | apply okOpt_some | apply okOpt_none | apply okOpt_mapS | apply okOpt_map | apply okOpt_ite | apply ok_ite | intro _ _ _ | intro _ | (refine ok_fst ?_ (by assumption)) | (refine ok_snd ?_ (by assumption)) | (refine okOpt_elim ?_ (by assumption)) | (refine okXS_elim ?_ (by assumption)) | (refine okXS_elimE ?_ (by assumption)) | (refine okXE_elim ?_ (by assumption)) | (refine okXE_elimE ?_ (by assumption)) | (refine okX_elim ?_ (by assumption)) | (refine okO_elim ?_ (by assumption)) | (refine okOptF_elim ?_ (by assumption)) | (refine okOptS_elim ?_ (by assumption)) | (refine okXF_elim ?_ (by assumption)) | (refine okXO_elim ?_ (by assumption)) | split | dsimp only)

theorem State.gridEnd_ok (s : State) (k : Nat) (hs : MemOk s) : MemOk (State.gridEnd s k) := by
  unfold State.gridEnd
  with_reducible repeat' (first | assumption | apply ok_of | simp only [ok_mk] | apply State.originDone_ok | apply State.doneWord_ok | apply State.noteLate_ok | apply okE_done | apply okE_ctl | apply okE_fault | apply okE_stall | apply okE_pause | apply okE_trap | apply okE_async | apply okE_gone | apply okE_late | apply okOpt_some | apply okOpt_none | apply okOpt_mapS | apply okOpt_map | apply okOpt_ite | intro _ _ _ | intro _ | (refine ok_fst ?_ (by assumption)) | (refine ok_snd ?_ (by assumption)) | (refine okOpt_elim ?_ (by assumption)) | (refine okXS_elim ?_ (by assumption)) | (refine okXS_elimE ?_ (by assumption)) | (refine okXE_elim ?_ (by assumption)) | (refine okXE_elimE ?_ (by assumption)) | (refine okX_elim ?_ (by assumption)) | (refine okO_elim ?_ (by assumption)) | (refine okOptF_elim ?_ (by assumption)) | (refine okOptS_elim ?_ (by assumption)) | (refine okXF_elim ?_ (by assumption)) | (refine okXO_elim ?_ (by assumption)) | split | dsimp only)

theorem State.retryGrids_ok (s : State) (hs : MemOk s) : MemOk (State.retryGrids s) := by
  unfold State.retryGrids
  with_reducible repeat' (first | assumption | apply ok_of | simp only [ok_mk] | apply State.gridEnd_ok | apply foldl_ok | apply foldl_fst_ok | intro _ _ _ | intro _ | (refine ok_fst ?_ (by assumption)) | (refine ok_snd ?_ (by assumption)) | (refine okOpt_elim ?_ (by assumption)) | (refine okXS_elim ?_ (by assumption)) | (refine okXS_elimE ?_ (by assumption)) | (refine okXE_elim ?_ (by assumption)) | (refine okXE_elimE ?_ (by assumption)) | (refine okX_elim ?_ (by assumption)) | (refine okO_elim ?_ (by assumption)) | (refine okOptF_elim ?_ (by assumption)) | (refine okOptS_elim ?_ (by assumption)) | (refine okXF_elim ?_ (by assumption)) | (refine okXO_elim ?_ (by assumption)) | split | dsimp only)

theorem State.tryTeamEnd_ok (s : State) (tid : Nat) (hs : MemOk s) : MemOk (State.tryTeamEnd s tid) := by
  unfold State.tryTeamEnd
  with_reducible repeat' (first | assumption | apply ok_of | simp only [ok_mk] | apply State.gridEnd_ok | apply okOpt_some | apply okOpt_none | apply okOpt_mapS | apply okOpt_map | apply okOpt_ite | apply ok_ite | intro _ _ _ | intro _ | (refine ok_fst ?_ (by assumption)) | (refine ok_snd ?_ (by assumption)) | (refine okOpt_elim ?_ (by assumption)) | (refine okXS_elim ?_ (by assumption)) | (refine okXS_elimE ?_ (by assumption)) | (refine okXE_elim ?_ (by assumption)) | (refine okXE_elimE ?_ (by assumption)) | (refine okX_elim ?_ (by assumption)) | (refine okO_elim ?_ (by assumption)) | (refine okOptF_elim ?_ (by assumption)) | (refine okOptS_elim ?_ (by assumption)) | (refine okXF_elim ?_ (by assumption)) | (refine okXO_elim ?_ (by assumption)) | split | dsimp only)

end Sys2Proof.Machine
end

