-- ==== Sys2Proof/Laws/OkOps.lean ====
section
/-! SUPPORT. Memory's canonical form, kept by the operations shared by many instructions. -/

set_option linter.all false
namespace Sys2Proof.Machine

theorem State.qput_ok (s : State) (q : Nat) (off : Nat) (v : W64) (hs : MemOk s) : MemOk (State.qput s q off v) := by
  unfold State.qput
  with_reducible repeat' (first | assumption | apply ok_of | simp only [ok_mk] | apply State.physWrite_ok | intro _ _ _ | intro _ | (refine ok_fst ?_ (by assumption)) | (refine ok_snd ?_ (by assumption)) | (refine okOpt_elim ?_ (by assumption)) | (refine okXS_elim ?_ (by assumption)) | (refine okXS_elimE ?_ (by assumption)) | (refine okXE_elim ?_ (by assumption)) | (refine okXE_elimE ?_ (by assumption)) | (refine okX_elim ?_ (by assumption)) | (refine okO_elim ?_ (by assumption)) | (refine okOptF_elim ?_ (by assumption)) | (refine okOptS_elim ?_ (by assumption)) | (refine okXF_elim ?_ (by assumption)) | (refine okXO_elim ?_ (by assumption)) | split | dsimp only)

theorem State.qHalt_ok (s : State) (q : Nat) (hs : MemOk s) : MemOk (State.qHalt s q) := by
  unfold State.qHalt
  with_reducible repeat' (first | assumption | apply ok_of | simp only [ok_mk] | apply State.qput_ok | intro _ _ _ | intro _ | (refine ok_fst ?_ (by assumption)) | (refine ok_snd ?_ (by assumption)) | (refine okOpt_elim ?_ (by assumption)) | (refine okXS_elim ?_ (by assumption)) | (refine okXS_elimE ?_ (by assumption)) | (refine okXE_elim ?_ (by assumption)) | (refine okXE_elimE ?_ (by assumption)) | (refine okX_elim ?_ (by assumption)) | (refine okO_elim ?_ (by assumption)) | (refine okOptF_elim ?_ (by assumption)) | (refine okOptS_elim ?_ (by assumption)) | (refine okXF_elim ?_ (by assumption)) | (refine okXO_elim ?_ (by assumption)) | split | dsimp only)

theorem State.dropClaim_ok (s : State) (p : Nat) (slot : Nat) (entry : Nat) (hs : MemOk s) : OkXS (State.dropClaim s p slot entry) := by
  unfold State.dropClaim
  with_reducible repeat' (first | assumption | apply ok_of | simp only [ok_mk] | apply State.waiting_ok | apply State.rawUpd_ok | apply okXS_ok | apply okXS_error | intro _ _ _ | intro _ | (refine ok_fst ?_ (by assumption)) | (refine ok_snd ?_ (by assumption)) | (refine okOpt_elim ?_ (by assumption)) | (refine okXS_elim ?_ (by assumption)) | (refine okXS_elimE ?_ (by assumption)) | (refine okXE_elim ?_ (by assumption)) | (refine okXE_elimE ?_ (by assumption)) | (refine okX_elim ?_ (by assumption)) | (refine okO_elim ?_ (by assumption)) | (refine okOptF_elim ?_ (by assumption)) | (refine okOptS_elim ?_ (by assumption)) | (refine okXF_elim ?_ (by assumption)) | (refine okXO_elim ?_ (by assumption)) | split | dsimp only)

theorem State.settleWaits_ok (s : State) (hs : MemOk s) : MemOk (State.settleWaits s) := by
  unfold State.settleWaits
  with_reducible repeat' (first | assumption | apply ok_of | simp only [ok_mk] | apply State.retryGrids_ok | intro _ _ _ | intro _ | (refine ok_fst ?_ (by assumption)) | (refine ok_snd ?_ (by assumption)) | (refine okOpt_elim ?_ (by assumption)) | (refine okXS_elim ?_ (by assumption)) | (refine okXS_elimE ?_ (by assumption)) | (refine okXE_elim ?_ (by assumption)) | (refine okXE_elimE ?_ (by assumption)) | (refine okX_elim ?_ (by assumption)) | (refine okO_elim ?_ (by assumption)) | (refine okOptF_elim ?_ (by assumption)) | (refine okOptS_elim ?_ (by assumption)) | (refine okXF_elim ?_ (by assumption)) | (refine okXO_elim ?_ (by assumption)) | split | dsimp only)

theorem State.fxIdle_ok (s : State) (p : Nat) (cur : Option FxStart) (claim : Option GClaim) (w : FxWait) (hs : MemOk s) : MemOk (State.fxIdle s p cur claim w) := by
  unfold State.fxIdle
  with_reducible repeat' (first | assumption | apply ok_of | simp only [ok_mk] | apply okOpt_some | apply okOpt_none | apply okOpt_mapS | apply okOpt_map | apply okOpt_ite | intro _ _ _ | intro _ | (refine ok_fst ?_ (by assumption)) | (refine ok_snd ?_ (by assumption)) | (refine okOpt_elim ?_ (by assumption)) | (refine okXS_elim ?_ (by assumption)) | (refine okXS_elimE ?_ (by assumption)) | (refine okXE_elim ?_ (by assumption)) | (refine okXE_elimE ?_ (by assumption)) | (refine okX_elim ?_ (by assumption)) | (refine okO_elim ?_ (by assumption)) | (refine okOptF_elim ?_ (by assumption)) | (refine okOptS_elim ?_ (by assumption)) | (refine okXF_elim ?_ (by assumption)) | (refine okXO_elim ?_ (by assumption)) | split | dsimp only)

theorem State.fxStop_ok (s : State) (p : Nat) (code : BitVec 8) (detail : Nat) (addr : W64) (hs : MemOk s) : OkXS (State.fxStop s p code detail addr) := by
  unfold State.fxStop
  with_reducible repeat' (first | assumption | apply ok_of | simp only [ok_mk] | apply State.setReg_ok | apply State.setRegFld_ok | apply State.dropClaim_ok | apply State.fxIdle_ok | apply okOpt_some | apply okOpt_none | apply okOpt_mapS | apply okOpt_map | apply okOpt_ite | apply okXS_ok | apply okXS_error | intro _ _ _ | intro _ | (refine ok_fst ?_ (by assumption)) | (refine ok_snd ?_ (by assumption)) | (refine okOpt_elim ?_ (by assumption)) | (refine okXS_elim ?_ (by assumption)) | (refine okXS_elimE ?_ (by assumption)) | (refine okXE_elim ?_ (by assumption)) | (refine okXE_elimE ?_ (by assumption)) | (refine okX_elim ?_ (by assumption)) | (refine okO_elim ?_ (by assumption)) | (refine okOptF_elim ?_ (by assumption)) | (refine okOptS_elim ?_ (by assumption)) | (refine okXF_elim ?_ (by assumption)) | (refine okXO_elim ?_ (by assumption)) | split | dsimp only)

theorem State.packetGone_ok (s : State) (slot : Nat) (x0 : Origin) (hs : MemOk s) : MemOk (State.packetGone s slot x0) := by
  unfold State.packetGone
  with_reducible repeat' (first | assumption | apply ok_of | simp only [ok_mk] | apply State.packetDone_ok | intro _ _ _ | intro _ | (refine ok_fst ?_ (by assumption)) | (refine ok_snd ?_ (by assumption)) | (refine okOpt_elim ?_ (by assumption)) | (refine okXS_elim ?_ (by assumption)) | (refine okXS_elimE ?_ (by assumption)) | (refine okXE_elim ?_ (by assumption)) | (refine okXE_elimE ?_ (by assumption)) | (refine okX_elim ?_ (by assumption)) | (refine okO_elim ?_ (by assumption)) | (refine okOptF_elim ?_ (by assumption)) | (refine okOptS_elim ?_ (by assumption)) | (refine okXF_elim ?_ (by assumption)) | (refine okXO_elim ?_ (by assumption)) | split | dsimp only)

theorem State.fxEndCtx_ok (s : State) (slot : Nat) (hs : MemOk s) : MemOk (State.fxEndCtx s slot) := by
  unfold State.fxEndCtx
  with_reducible repeat' (first | assumption | apply ok_of | simp only [ok_mk] | apply State.event_ok | apply State.packetDone_ok | apply State.fxStop_ok | apply State.packetGone_ok | apply okOpt_some | apply okOpt_none | apply okOpt_mapS | apply okOpt_map | apply okOpt_ite | apply foldl_ok | apply foldl_fst_ok | apply ok_ite | intro _ _ _ | intro _ | (refine ok_fst ?_ (by assumption)) | (refine ok_snd ?_ (by assumption)) | (refine okOpt_elim ?_ (by assumption)) | (refine okXS_elim ?_ (by assumption)) | (refine okXS_elimE ?_ (by assumption)) | (refine okXE_elim ?_ (by assumption)) | (refine okXE_elimE ?_ (by assumption)) | (refine okX_elim ?_ (by assumption)) | (refine okO_elim ?_ (by assumption)) | (refine okOptF_elim ?_ (by assumption)) | (refine okOptS_elim ?_ (by assumption)) | (refine okXF_elim ?_ (by assumption)) | (refine okXO_elim ?_ (by assumption)) | split | dsimp only)

theorem State.checkSuspends_ok (s : State) (hs : MemOk s) : MemOk (State.checkSuspends s) := by
  unfold State.checkSuspends
  with_reducible repeat' (first | assumption | apply ok_of | simp only [ok_mk] | apply State.packetDone_ok | apply foldl_ok | apply foldl_fst_ok | intro _ _ _ | intro _ | (refine ok_fst ?_ (by assumption)) | (refine ok_snd ?_ (by assumption)) | (refine okOpt_elim ?_ (by assumption)) | (refine okXS_elim ?_ (by assumption)) | (refine okXS_elimE ?_ (by assumption)) | (refine okXE_elim ?_ (by assumption)) | (refine okXE_elimE ?_ (by assumption)) | (refine okX_elim ?_ (by assumption)) | (refine okO_elim ?_ (by assumption)) | (refine okOptF_elim ?_ (by assumption)) | (refine okOptS_elim ?_ (by assumption)) | (refine okXF_elim ?_ (by assumption)) | (refine okXO_elim ?_ (by assumption)) | split | dsimp only)

theorem State.checkEndings_ok (s : State) (hs : MemOk s) : MemOk (State.checkEndings s) := by
  unfold State.checkEndings
  with_reducible repeat' (first | assumption | apply ok_of | simp only [ok_mk] | apply State.event_ok | apply State.packetDone_ok | apply State.checkSuspends_ok | apply foldl_ok | apply foldl_fst_ok | intro _ _ _ | intro _ | (refine ok_fst ?_ (by assumption)) | (refine ok_snd ?_ (by assumption)) | (refine okOpt_elim ?_ (by assumption)) | (refine okXS_elim ?_ (by assumption)) | (refine okXS_elimE ?_ (by assumption)) | (refine okXE_elim ?_ (by assumption)) | (refine okXE_elimE ?_ (by assumption)) | (refine okX_elim ?_ (by assumption)) | (refine okO_elim ?_ (by assumption)) | (refine okOptF_elim ?_ (by assumption)) | (refine okOptS_elim ?_ (by assumption)) | (refine okXF_elim ?_ (by assumption)) | (refine okXO_elim ?_ (by assumption)) | split | dsimp only)

theorem State.endGroups_ok (s : State) (slot : Nat) (hs : MemOk s) : MemOk (State.endGroups s slot) := by
  unfold State.endGroups
  with_reducible repeat' (first | assumption | apply ok_of | simp only [ok_mk] | apply State.waiting_ok | apply okOpt_some | apply okOpt_none | apply okOpt_mapS | apply okOpt_map | apply okOpt_ite | apply ok_ite | intro _ _ _ | intro _ | (refine ok_fst ?_ (by assumption)) | (refine ok_snd ?_ (by assumption)) | (refine okOpt_elim ?_ (by assumption)) | (refine okXS_elim ?_ (by assumption)) | (refine okXS_elimE ?_ (by assumption)) | (refine okXE_elim ?_ (by assumption)) | (refine okXE_elimE ?_ (by assumption)) | (refine okX_elim ?_ (by assumption)) | (refine okO_elim ?_ (by assumption)) | (refine okOptF_elim ?_ (by assumption)) | (refine okOptS_elim ?_ (by assumption)) | (refine okXF_elim ?_ (by assumption)) | (refine okXO_elim ?_ (by assumption)) | split | dsimp only)

theorem State.endCommands_ok (s : State) (slot : Nat) (hs : MemOk s) : MemOk (State.endCommands s slot) := by
  unfold State.endCommands
  with_reducible repeat' (first | assumption | apply ok_of | simp only [ok_mk] | apply State.packetGone_ok | apply okOpt_some | apply okOpt_none | apply okOpt_mapS | apply okOpt_map | apply okOpt_ite | apply foldl_ok | apply foldl_fst_ok | apply ok_ite | intro _ _ _ | intro _ | (refine ok_fst ?_ (by assumption)) | (refine ok_snd ?_ (by assumption)) | (refine okOpt_elim ?_ (by assumption)) | (refine okXS_elim ?_ (by assumption)) | (refine okXS_elimE ?_ (by assumption)) | (refine okXE_elim ?_ (by assumption)) | (refine okXE_elimE ?_ (by assumption)) | (refine okX_elim ?_ (by assumption)) | (refine okO_elim ?_ (by assumption)) | (refine okOptF_elim ?_ (by assumption)) | (refine okOptS_elim ?_ (by assumption)) | (refine okXF_elim ?_ (by assumption)) | (refine okXO_elim ?_ (by assumption)) | split | dsimp only)

theorem State.endPhasers_ok (s : State) (slot : Nat) (hs : MemOk s) : MemOk (State.endPhasers s slot) := by
  unfold State.endPhasers
  with_reducible repeat' (first | assumption | apply ok_of | simp only [ok_mk] | apply State.setReg_ok | intro _ _ _ | intro _ | (refine ok_fst ?_ (by assumption)) | (refine ok_snd ?_ (by assumption)) | (refine okOpt_elim ?_ (by assumption)) | (refine okXS_elim ?_ (by assumption)) | (refine okXS_elimE ?_ (by assumption)) | (refine okXE_elim ?_ (by assumption)) | (refine okXE_elimE ?_ (by assumption)) | (refine okX_elim ?_ (by assumption)) | (refine okO_elim ?_ (by assumption)) | (refine okOptF_elim ?_ (by assumption)) | (refine okOptS_elim ?_ (by assumption)) | (refine okXF_elim ?_ (by assumption)) | (refine okXO_elim ?_ (by assumption)) | split | dsimp only)

theorem State.endRegions_ok (s : State) (slot : Nat) (hs : MemOk s) : MemOk (State.endRegions s slot) := by
  unfold State.endRegions
  with_reducible repeat' (first | assumption | apply ok_of | simp only [ok_mk] | apply State.setReg_ok | apply State.setRegFld_ok | apply foldl_ok | apply foldl_fst_ok | apply ok_ite | intro _ _ _ | intro _ | (refine ok_fst ?_ (by assumption)) | (refine ok_snd ?_ (by assumption)) | (refine okOpt_elim ?_ (by assumption)) | (refine okXS_elim ?_ (by assumption)) | (refine okXS_elimE ?_ (by assumption)) | (refine okXE_elim ?_ (by assumption)) | (refine okXE_elimE ?_ (by assumption)) | (refine okX_elim ?_ (by assumption)) | (refine okO_elim ?_ (by assumption)) | (refine okOptF_elim ?_ (by assumption)) | (refine okOptS_elim ?_ (by assumption)) | (refine okXF_elim ?_ (by assumption)) | (refine okXO_elim ?_ (by assumption)) | split | dsimp only)

theorem State.endTroughs_ok (s : State) (slot : Nat) (hs : MemOk s) : MemOk (State.endTroughs s slot) := by
  unfold State.endTroughs
  with_reducible repeat' (first | assumption | apply ok_of | simp only [ok_mk] | apply State.setRegFld_ok | apply foldl_ok | apply foldl_fst_ok | apply ok_ite | intro _ _ _ | intro _ | (refine ok_fst ?_ (by assumption)) | (refine ok_snd ?_ (by assumption)) | (refine okOpt_elim ?_ (by assumption)) | (refine okXS_elim ?_ (by assumption)) | (refine okXS_elimE ?_ (by assumption)) | (refine okXE_elim ?_ (by assumption)) | (refine okXE_elimE ?_ (by assumption)) | (refine okX_elim ?_ (by assumption)) | (refine okO_elim ?_ (by assumption)) | (refine okOptF_elim ?_ (by assumption)) | (refine okOptS_elim ?_ (by assumption)) | (refine okXF_elim ?_ (by assumption)) | (refine okXO_elim ?_ (by assumption)) | split | dsimp only)

theorem State.endLinks_ok (s : State) (slot : Nat) (hs : MemOk s) : MemOk (State.endLinks s slot) := by
  unfold State.endLinks
  with_reducible repeat' (first | assumption | apply ok_of | simp only [ok_mk] | apply State.setRegFld_ok | apply foldl_ok | apply foldl_fst_ok | apply ok_ite | intro _ _ _ | intro _ | (refine ok_fst ?_ (by assumption)) | (refine ok_snd ?_ (by assumption)) | (refine okOpt_elim ?_ (by assumption)) | (refine okXS_elim ?_ (by assumption)) | (refine okXS_elimE ?_ (by assumption)) | (refine okXE_elim ?_ (by assumption)) | (refine okXE_elimE ?_ (by assumption)) | (refine okX_elim ?_ (by assumption)) | (refine okO_elim ?_ (by assumption)) | (refine okOptF_elim ?_ (by assumption)) | (refine okOptS_elim ?_ (by assumption)) | (refine okXF_elim ?_ (by assumption)) | (refine okXO_elim ?_ (by assumption)) | split | dsimp only)

theorem State.endQueues_ok (s : State) (slot : Nat) (keep : Option Nat) (hs : MemOk s) : MemOk (State.endQueues s slot keep) := by
  unfold State.endQueues
  with_reducible repeat' (first | assumption | apply ok_of | simp only [ok_mk] | apply State.qHalt_ok | apply okOpt_some | apply okOpt_none | apply okOpt_mapS | apply okOpt_map | apply okOpt_ite | apply foldl_ok | apply foldl_fst_ok | apply ok_ite | intro _ _ _ | intro _ | (refine ok_fst ?_ (by assumption)) | (refine ok_snd ?_ (by assumption)) | (refine okOpt_elim ?_ (by assumption)) | (refine okXS_elim ?_ (by assumption)) | (refine okXS_elimE ?_ (by assumption)) | (refine okXE_elim ?_ (by assumption)) | (refine okXE_elimE ?_ (by assumption)) | (refine okX_elim ?_ (by assumption)) | (refine okO_elim ?_ (by assumption)) | (refine okOptF_elim ?_ (by assumption)) | (refine okOptS_elim ?_ (by assumption)) | (refine okXF_elim ?_ (by assumption)) | (refine okXO_elim ?_ (by assumption)) | split | dsimp only)

theorem State.endGrids_ok (s : State) (slot : Nat) (lost : SMap SavedTeam) (hs : MemOk s) : MemOk (State.endGrids s slot lost) := by
  unfold State.endGrids
  with_reducible repeat' (first | assumption | apply ok_of | simp only [ok_mk] | apply okO_next | apply okO_fault | apply okO_refused | apply okOpt_some | apply okOpt_none | apply okOpt_mapS | apply okOpt_map | apply okOpt_ite | apply foldl_ok | apply foldl_fst_ok | apply ok_ite | intro _ _ _ | intro _ | (refine ok_fst ?_ (by assumption)) | (refine ok_snd ?_ (by assumption)) | (refine okOpt_elim ?_ (by assumption)) | (refine okXS_elim ?_ (by assumption)) | (refine okXS_elimE ?_ (by assumption)) | (refine okXE_elim ?_ (by assumption)) | (refine okXE_elimE ?_ (by assumption)) | (refine okX_elim ?_ (by assumption)) | (refine okO_elim ?_ (by assumption)) | (refine okOptF_elim ?_ (by assumption)) | (refine okOptS_elim ?_ (by assumption)) | (refine okXF_elim ?_ (by assumption)) | (refine okXO_elim ?_ (by assumption)) | split | dsimp only)

theorem State.endTeams_ok (s : State) (slot : Nat) (hs : MemOk s) : MemOk (State.endTeams s slot) := by
  unfold State.endTeams
  with_reducible repeat' (first | assumption | apply ok_of | simp only [ok_mk] | apply State.gridEnd_ok | apply State.tryTeamEnd_ok | apply okOpt_some | apply okOpt_none | apply okOpt_mapS | apply okOpt_map | apply okOpt_ite | apply foldl_ok | apply foldl_fst_ok | intro _ _ _ | intro _ | (refine ok_fst ?_ (by assumption)) | (refine ok_snd ?_ (by assumption)) | (refine okOpt_elim ?_ (by assumption)) | (refine okXS_elim ?_ (by assumption)) | (refine okXS_elimE ?_ (by assumption)) | (refine okXE_elim ?_ (by assumption)) | (refine okXE_elimE ?_ (by assumption)) | (refine okX_elim ?_ (by assumption)) | (refine okO_elim ?_ (by assumption)) | (refine okOptF_elim ?_ (by assumption)) | (refine okOptS_elim ?_ (by assumption)) | (refine okXF_elim ?_ (by assumption)) | (refine okXO_elim ?_ (by assumption)) | split | dsimp only)

theorem State.endContext_ok (s : State) (slot : Nat) (keep : Option Nat) (hs : MemOk s) : MemOk (State.endContext s slot keep) := by
  unfold State.endContext
  with_reducible repeat' (first | assumption | apply ok_of | simp only [ok_mk] | apply State.fxEndCtx_ok | apply State.checkEndings_ok | apply State.endGroups_ok | apply State.endCommands_ok | apply State.endPhasers_ok | apply State.endRegions_ok | apply State.endTroughs_ok | apply State.endLinks_ok | apply State.endQueues_ok | apply State.endGrids_ok | apply State.endTeams_ok | intro _ _ _ | intro _ | (refine ok_fst ?_ (by assumption)) | (refine ok_snd ?_ (by assumption)) | (refine okOpt_elim ?_ (by assumption)) | (refine okXS_elim ?_ (by assumption)) | (refine okXS_elimE ?_ (by assumption)) | (refine okXE_elim ?_ (by assumption)) | (refine okXE_elimE ?_ (by assumption)) | (refine okX_elim ?_ (by assumption)) | (refine okO_elim ?_ (by assumption)) | (refine okOptF_elim ?_ (by assumption)) | (refine okOptS_elim ?_ (by assumption)) | (refine okXF_elim ?_ (by assumption)) | (refine okXO_elim ?_ (by assumption)) | split | dsimp only)

theorem State.unhandled_ok (s : State) (slot : Nat) (code : BitVec 8) (seq : W32) (site : W64) (hs : MemOk s) : MemOk (State.unhandled s slot code seq site) := by
  unfold State.unhandled
  with_reducible repeat' (first | assumption | apply ok_of | simp only [ok_mk] | apply State.event_ok | apply State.endContext_ok | apply okOpt_some | apply okOpt_none | apply okOpt_mapS | apply okOpt_map | apply okOpt_ite | intro _ _ _ | intro _ | (refine ok_fst ?_ (by assumption)) | (refine ok_snd ?_ (by assumption)) | (refine okOpt_elim ?_ (by assumption)) | (refine okXS_elim ?_ (by assumption)) | (refine okXS_elimE ?_ (by assumption)) | (refine okXE_elim ?_ (by assumption)) | (refine okXE_elimE ?_ (by assumption)) | (refine okX_elim ?_ (by assumption)) | (refine okO_elim ?_ (by assumption)) | (refine okOptF_elim ?_ (by assumption)) | (refine okOptS_elim ?_ (by assumption)) | (refine okXF_elim ?_ (by assumption)) | (refine okXO_elim ?_ (by assumption)) | split | dsimp only)

theorem State.asyncTo_ok (s : State) (gid : Nat) (f : AFault) (hs : MemOk s) : MemOk (State.asyncTo s gid f) := by
  unfold State.asyncTo
  with_reducible repeat' (first | assumption | apply ok_of | simp only [ok_mk] | apply State.setGrp_ok | apply State.unhandled_ok | apply okOpt_some | apply okOpt_none | apply okOpt_mapS | apply okOpt_map | apply okOpt_ite | apply ok_ite | intro _ _ _ | intro _ | (refine ok_fst ?_ (by assumption)) | (refine ok_snd ?_ (by assumption)) | (refine okOpt_elim ?_ (by assumption)) | (refine okXS_elim ?_ (by assumption)) | (refine okXS_elimE ?_ (by assumption)) | (refine okXE_elim ?_ (by assumption)) | (refine okXE_elimE ?_ (by assumption)) | (refine okX_elim ?_ (by assumption)) | (refine okO_elim ?_ (by assumption)) | (refine okOptF_elim ?_ (by assumption)) | (refine okOptS_elim ?_ (by assumption)) | (refine okXF_elim ?_ (by assumption)) | (refine okXO_elim ?_ (by assumption)) | split | dsimp only)

theorem State.cmdFault_ok (s : State) (org : Origin) (slot : Nat) (ph : Option Nat) (f : AFault) (hs : MemOk s) : MemOk (State.cmdFault s org slot ph f) := by
  unfold State.cmdFault
  with_reducible repeat' (first | assumption | apply ok_of | simp only [ok_mk] | apply State.event_ok | apply State.unhandled_ok | apply State.asyncTo_ok | apply okOpt_some | apply okOpt_none | apply okOpt_mapS | apply okOpt_map | apply okOpt_ite | apply ok_ite | intro _ _ _ | intro _ | (refine ok_fst ?_ (by assumption)) | (refine ok_snd ?_ (by assumption)) | (refine okOpt_elim ?_ (by assumption)) | (refine okXS_elim ?_ (by assumption)) | (refine okXS_elimE ?_ (by assumption)) | (refine okXE_elim ?_ (by assumption)) | (refine okXE_elimE ?_ (by assumption)) | (refine okX_elim ?_ (by assumption)) | (refine okO_elim ?_ (by assumption)) | (refine okOptF_elim ?_ (by assumption)) | (refine okOptS_elim ?_ (by assumption)) | (refine okXF_elim ?_ (by assumption)) | (refine okXO_elim ?_ (by assumption)) | split | dsimp only)

theorem State.acquireQ_ok (s : State) (g : Group) (d : MatrixDep) (hs : MemOk s) : MemOk (State.acquireQ s g d) := by
  unfold State.acquireQ
  with_reducible repeat' (first | assumption | apply ok_of | simp only [ok_mk] | apply State.setClus_ok | apply State.setCore_ok | apply okOpt_some | apply okOpt_none | apply okOpt_mapS | apply okOpt_map | apply okOpt_ite | apply foldl_ok | apply foldl_fst_ok | apply ok_ite | intro _ _ _ | intro _ | (refine ok_fst ?_ (by assumption)) | (refine ok_snd ?_ (by assumption)) | (refine okOpt_elim ?_ (by assumption)) | (refine okXS_elim ?_ (by assumption)) | (refine okXS_elimE ?_ (by assumption)) | (refine okXE_elim ?_ (by assumption)) | (refine okXE_elimE ?_ (by assumption)) | (refine okX_elim ?_ (by assumption)) | (refine okO_elim ?_ (by assumption)) | (refine okOptF_elim ?_ (by assumption)) | (refine okOptS_elim ?_ (by assumption)) | (refine okXF_elim ?_ (by assumption)) | (refine okXO_elim ?_ (by assumption)) | split | dsimp only)

theorem State.mwaitDone_ok (s : State) (gid : Nat) (n : Nat) (hs : MemOk s) : MemOk (State.mwaitDone s gid n) := by
  unfold State.mwaitDone
  with_reducible repeat' (first | assumption | apply ok_of | simp only [ok_mk] | apply State.updGrp_ok | apply State.acquireQ_ok | apply okOpt_some | apply okOpt_none | apply okOpt_mapS | apply okOpt_map | apply okOpt_ite | intro _ _ _ | intro _ | (refine ok_fst ?_ (by assumption)) | (refine ok_snd ?_ (by assumption)) | (refine okOpt_elim ?_ (by assumption)) | (refine okXS_elim ?_ (by assumption)) | (refine okXS_elimE ?_ (by assumption)) | (refine okXE_elim ?_ (by assumption)) | (refine okXE_elimE ?_ (by assumption)) | (refine okX_elim ?_ (by assumption)) | (refine okO_elim ?_ (by assumption)) | (refine okOptF_elim ?_ (by assumption)) | (refine okOptS_elim ?_ (by assumption)) | (refine okXF_elim ?_ (by assumption)) | (refine okXO_elim ?_ (by assumption)) | split | dsimp only)

theorem State.matrixSettle_ok (s : State) (gid : Nat) (hs : MemOk s) : MemOk (State.matrixSettle s gid) := by
  unfold State.matrixSettle
  with_reducible repeat' (first | assumption | apply ok_of | simp only [ok_mk] | apply State.waiting_ok | apply State.wakeSplit_ok | apply State.mwaitDone_ok | apply okOpt_some | apply okOpt_none | apply okOpt_mapS | apply okOpt_map | apply okOpt_ite | apply foldl_ok | apply foldl_fst_ok | apply ok_ite | intro _ _ _ | intro _ | (refine ok_fst ?_ (by assumption)) | (refine ok_snd ?_ (by assumption)) | (refine okOpt_elim ?_ (by assumption)) | (refine okXS_elim ?_ (by assumption)) | (refine okXS_elimE ?_ (by assumption)) | (refine okXE_elim ?_ (by assumption)) | (refine okXE_elimE ?_ (by assumption)) | (refine okX_elim ?_ (by assumption)) | (refine okO_elim ?_ (by assumption)) | (refine okOptF_elim ?_ (by assumption)) | (refine okOptS_elim ?_ (by assumption)) | (refine okXF_elim ?_ (by assumption)) | (refine okXO_elim ?_ (by assumption)) | split | dsimp only)

theorem State.dropLatch_ok (s : State) (gid : Nat) (hs : MemOk s) : MemOk (State.dropLatch s gid) := by
  unfold State.dropLatch
  with_reducible repeat' (first | assumption | apply ok_of | simp only [ok_mk] | apply State.setGrp_ok | apply State.asyncTo_ok | apply State.matrixSettle_ok | apply okOpt_some | apply okOpt_none | apply okOpt_mapS | apply okOpt_map | apply okOpt_ite | intro _ _ _ | intro _ | (refine ok_fst ?_ (by assumption)) | (refine ok_snd ?_ (by assumption)) | (refine okOpt_elim ?_ (by assumption)) | (refine okXS_elim ?_ (by assumption)) | (refine okXS_elimE ?_ (by assumption)) | (refine okXE_elim ?_ (by assumption)) | (refine okXE_elimE ?_ (by assumption)) | (refine okX_elim ?_ (by assumption)) | (refine okO_elim ?_ (by assumption)) | (refine okOptF_elim ?_ (by assumption)) | (refine okOptS_elim ?_ (by assumption)) | (refine okXF_elim ?_ (by assumption)) | (refine okXO_elim ?_ (by assumption)) | split | dsimp only)

theorem State.gangBreak_ok (s : State) (tid : Nat) (gi : Nat) (hs : MemOk s) : MemOk (State.gangBreak s tid gi) := by
  unfold State.gangBreak
  with_reducible repeat' (first | assumption | apply ok_of | simp only [ok_mk] | apply State.dropLatch_ok | apply okOpt_some | apply okOpt_none | apply okOpt_mapS | apply okOpt_map | apply okOpt_ite | apply foldl_ok | apply foldl_fst_ok | apply ok_ite | intro _ _ _ | intro _ | (refine ok_fst ?_ (by assumption)) | (refine ok_snd ?_ (by assumption)) | (refine okOpt_elim ?_ (by assumption)) | (refine okXS_elim ?_ (by assumption)) | (refine okXS_elimE ?_ (by assumption)) | (refine okXE_elim ?_ (by assumption)) | (refine okXE_elimE ?_ (by assumption)) | (refine okX_elim ?_ (by assumption)) | (refine okO_elim ?_ (by assumption)) | (refine okOptF_elim ?_ (by assumption)) | (refine okOptS_elim ?_ (by assumption)) | (refine okXF_elim ?_ (by assumption)) | (refine okXO_elim ?_ (by assumption)) | split | dsimp only)

theorem State.sampleRun_ok (s : State) (gid : Nat) (idx : Nat) (hs : MemOk s) : MemOk (State.sampleRun s gid idx) := by
  unfold State.sampleRun
  with_reducible repeat' (first | assumption | apply ok_of | simp only [ok_mk] | apply State.trace_ok | apply okOpt_some | apply okOpt_none | apply okOpt_mapS | apply okOpt_map | apply okOpt_ite | apply ok_ite | intro _ _ _ | intro _ | (refine ok_fst ?_ (by assumption)) | (refine ok_snd ?_ (by assumption)) | (refine okOpt_elim ?_ (by assumption)) | (refine okXS_elim ?_ (by assumption)) | (refine okXS_elimE ?_ (by assumption)) | (refine okXE_elim ?_ (by assumption)) | (refine okXE_elimE ?_ (by assumption)) | (refine okX_elim ?_ (by assumption)) | (refine okO_elim ?_ (by assumption)) | (refine okOptF_elim ?_ (by assumption)) | (refine okOptS_elim ?_ (by assumption)) | (refine okXF_elim ?_ (by assumption)) | (refine okXO_elim ?_ (by assumption)) | split | dsimp only)

theorem State.endRun_ok (s : State) (gid : Nat) (idx : Nat) (switch : Bool) (hs : MemOk s) : MemOk (State.endRun s gid idx switch) := by
  unfold State.endRun
  with_reducible repeat' (first | assumption | apply ok_of | simp only [ok_mk] | apply State.updGrp_ok | apply State.sampleRun_ok | apply okOpt_some | apply okOpt_none | apply okOpt_mapS | apply okOpt_map | apply okOpt_ite | apply ok_ite | intro _ _ _ | intro _ | (refine ok_fst ?_ (by assumption)) | (refine ok_snd ?_ (by assumption)) | (refine okOpt_elim ?_ (by assumption)) | (refine okXS_elim ?_ (by assumption)) | (refine okXS_elimE ?_ (by assumption)) | (refine okXE_elim ?_ (by assumption)) | (refine okXE_elimE ?_ (by assumption)) | (refine okX_elim ?_ (by assumption)) | (refine okO_elim ?_ (by assumption)) | (refine okOptF_elim ?_ (by assumption)) | (refine okOptS_elim ?_ (by assumption)) | (refine okXF_elim ?_ (by assumption)) | (refine okXO_elim ?_ (by assumption)) | split | dsimp only)

theorem State.enterHandler_ok (s : State) (gid : Nat) (idx : Nat) (async : Bool) (code : BitVec 8) (detail : W32) (addr : W64) (tpc : W64) (site : W64) (seq : W32) (lane : Nat) (hs : MemOk s) : MemOk (State.enterHandler s gid idx async code detail addr tpc site seq lane) := by
  unfold State.enterHandler
  with_reducible repeat' (first | assumption | apply ok_of | simp only [ok_mk] | apply State.setGrp_ok | apply State.trace_ok | apply okOpt_some | apply okOpt_none | apply okOpt_mapS | apply okOpt_map | apply okOpt_ite | intro _ _ _ | intro _ | (refine ok_fst ?_ (by assumption)) | (refine ok_snd ?_ (by assumption)) | (refine okOpt_elim ?_ (by assumption)) | (refine okXS_elim ?_ (by assumption)) | (refine okXS_elimE ?_ (by assumption)) | (refine okXE_elim ?_ (by assumption)) | (refine okXE_elimE ?_ (by assumption)) | (refine okX_elim ?_ (by assumption)) | (refine okO_elim ?_ (by assumption)) | (refine okOptF_elim ?_ (by assumption)) | (refine okOptS_elim ?_ (by assumption)) | (refine okXF_elim ?_ (by assumption)) | (refine okXO_elim ?_ (by assumption)) | split | dsimp only)

theorem State.deliver_ok (s : State) (gid : Nat) (idx : Nat) (async : Bool) (code : BitVec 8) (detail : W32) (addr : W64) (tpc : W64) (site : W64) (seq : W32) (lane : Nat) (hs : MemOk s) : MemOk (State.deliver s gid idx async code detail addr tpc site seq lane) := by
  unfold State.deliver
  with_reducible repeat' (first | assumption | apply ok_of | simp only [ok_mk] | apply State.unhandled_ok | apply State.enterHandler_ok | apply okOpt_some | apply okOpt_none | apply okOpt_mapS | apply okOpt_map | apply okOpt_ite | apply ok_ite | intro _ _ _ | intro _ | (refine ok_fst ?_ (by assumption)) | (refine ok_snd ?_ (by assumption)) | (refine okOpt_elim ?_ (by assumption)) | (refine okXS_elim ?_ (by assumption)) | (refine okXS_elimE ?_ (by assumption)) | (refine okXE_elim ?_ (by assumption)) | (refine okXE_elimE ?_ (by assumption)) | (refine okX_elim ?_ (by assumption)) | (refine okO_elim ?_ (by assumption)) | (refine okOptF_elim ?_ (by assumption)) | (refine okOptS_elim ?_ (by assumption)) | (refine okXF_elim ?_ (by assumption)) | (refine okXO_elim ?_ (by assumption)) | split | dsimp only)

theorem State.debugStop_ok (s : State) (gid : Nat) (idx : Nat) (cause : Nat) (pc : W64) (seq : W32) (f : Option FInfo) (af : Option AFault) (hs : MemOk s) : MemOk (State.debugStop s gid idx cause pc seq f af) := by
  unfold State.debugStop
  with_reducible repeat' (first | assumption | apply ok_of | simp only [ok_mk] | apply State.waiting_ok | apply State.updGrp_ok | apply State.trace_ok | apply okOpt_some | apply okOpt_none | apply okOpt_mapS | apply okOpt_map | apply okOpt_ite | intro _ _ _ | intro _ | (refine ok_fst ?_ (by assumption)) | (refine ok_snd ?_ (by assumption)) | (refine okOpt_elim ?_ (by assumption)) | (refine okXS_elim ?_ (by assumption)) | (refine okXS_elimE ?_ (by assumption)) | (refine okXE_elim ?_ (by assumption)) | (refine okXE_elimE ?_ (by assumption)) | (refine okX_elim ?_ (by assumption)) | (refine okO_elim ?_ (by assumption)) | (refine okOptF_elim ?_ (by assumption)) | (refine okOptS_elim ?_ (by assumption)) | (refine okXF_elim ?_ (by assumption)) | (refine okXO_elim ?_ (by assumption)) | split | dsimp only)

theorem State.raise_ok (s : State) (gid : Nat) (idx : Nat) (f : FInfo) (tpc : W64) (hs : MemOk s) : MemOk (State.raise s gid idx f tpc) := by
  unfold State.raise
  with_reducible repeat' (first | assumption | apply ok_of | simp only [ok_mk] | apply State.gangBreak_ok | apply State.endRun_ok | apply State.deliver_ok | apply State.debugStop_ok | apply okOpt_some | apply okOpt_none | apply okOpt_mapS | apply okOpt_map | apply okOpt_ite | apply ok_ite | intro _ _ _ | intro _ | (refine ok_fst ?_ (by assumption)) | (refine ok_snd ?_ (by assumption)) | (refine okOpt_elim ?_ (by assumption)) | (refine okXS_elim ?_ (by assumption)) | (refine okXS_elimE ?_ (by assumption)) | (refine okXE_elim ?_ (by assumption)) | (refine okXE_elimE ?_ (by assumption)) | (refine okX_elim ?_ (by assumption)) | (refine okO_elim ?_ (by assumption)) | (refine okOptF_elim ?_ (by assumption)) | (refine okOptS_elim ?_ (by assumption)) | (refine okXF_elim ?_ (by assumption)) | (refine okXO_elim ?_ (by assumption)) | split | dsimp only)

theorem State.raiseLate_ok (s : State) (gid : Nat) (idx : Nat) (f : FInfo) (pc : W64) (hs : MemOk s) : OkOpt (State.raiseLate s gid idx f pc) := by
  unfold State.raiseLate
  with_reducible repeat' (first | assumption | apply ok_of | simp only [ok_mk] | apply State.setGrp_ok | apply State.asyncTo_ok | apply State.raise_ok | apply okOpt_some | apply okOpt_none | apply okOpt_mapS | apply okOpt_map | apply okOpt_ite | apply ok_ite | intro _ _ _ | intro _ | (refine ok_fst ?_ (by assumption)) | (refine ok_snd ?_ (by assumption)) | (refine okOpt_elim ?_ (by assumption)) | (refine okXS_elim ?_ (by assumption)) | (refine okXS_elimE ?_ (by assumption)) | (refine okXE_elim ?_ (by assumption)) | (refine okXE_elimE ?_ (by assumption)) | (refine okX_elim ?_ (by assumption)) | (refine okO_elim ?_ (by assumption)) | (refine okOptF_elim ?_ (by assumption)) | (refine okOptS_elim ?_ (by assumption)) | (refine okXF_elim ?_ (by assumption)) | (refine okXO_elim ?_ (by assumption)) | split | dsimp only)

theorem State.deliverPending_ok (s : State) (gid : Nat) (idx : Nat) (tpc : W64) (hs : MemOk s) : MemOk (State.deliverPending s gid idx tpc) := by
  unfold State.deliverPending
  with_reducible repeat' (first | assumption | apply ok_of | simp only [ok_mk] | apply State.updGrp_ok | apply State.matrixSettle_ok | apply State.gangBreak_ok | apply State.deliver_ok | apply State.debugStop_ok | apply okOpt_some | apply okOpt_none | apply okOpt_mapS | apply okOpt_map | apply okOpt_ite | apply ok_ite | intro _ _ _ | intro _ | (refine ok_fst ?_ (by assumption)) | (refine ok_snd ?_ (by assumption)) | (refine okOpt_elim ?_ (by assumption)) | (refine okXS_elim ?_ (by assumption)) | (refine okXS_elimE ?_ (by assumption)) | (refine okXE_elim ?_ (by assumption)) | (refine okXE_elimE ?_ (by assumption)) | (refine okX_elim ?_ (by assumption)) | (refine okO_elim ?_ (by assumption)) | (refine okOptF_elim ?_ (by assumption)) | (refine okOptS_elim ?_ (by assumption)) | (refine okXF_elim ?_ (by assumption)) | (refine okXO_elim ?_ (by assumption)) | split | dsimp only)

theorem State.takeReset_ok (s : State) (gid : Nat) (pc : W64) (hs : MemOk s) : MemOk (State.takeReset s gid pc) := by
  unfold State.takeReset
  with_reducible repeat' (first | assumption | apply ok_of | simp only [ok_mk] | apply State.updGrp_ok | apply okOpt_some | apply okOpt_none | apply okOpt_mapS | apply okOpt_map | apply okOpt_ite | apply ok_ite | intro _ _ _ | intro _ | (refine ok_fst ?_ (by assumption)) | (refine ok_snd ?_ (by assumption)) | (refine okOpt_elim ?_ (by assumption)) | (refine okXS_elim ?_ (by assumption)) | (refine okXS_elimE ?_ (by assumption)) | (refine okXE_elim ?_ (by assumption)) | (refine okXE_elimE ?_ (by assumption)) | (refine okX_elim ?_ (by assumption)) | (refine okO_elim ?_ (by assumption)) | (refine okOptF_elim ?_ (by assumption)) | (refine okOptS_elim ?_ (by assumption)) | (refine okXF_elim ?_ (by assumption)) | (refine okXO_elim ?_ (by assumption)) | split | dsimp only)

theorem State.trialRun_ok (s : State) (g : Group) (pc : W64) (hs : MemOk s) : MemOk (State.trialRun s g pc) := by
  unfold State.trialRun
  with_reducible repeat' (first | assumption | apply ok_of | simp only [ok_mk] | apply State.setReg_ok | apply State.setPart_ok | apply okOpt_some | apply okOpt_none | apply okOpt_mapS | apply okOpt_map | apply okOpt_ite | apply ok_ite | intro _ _ _ | intro _ | (refine ok_fst ?_ (by assumption)) | (refine ok_snd ?_ (by assumption)) | (refine okOpt_elim ?_ (by assumption)) | (refine okXS_elim ?_ (by assumption)) | (refine okXS_elimE ?_ (by assumption)) | (refine okXE_elim ?_ (by assumption)) | (refine okXE_elimE ?_ (by assumption)) | (refine okX_elim ?_ (by assumption)) | (refine okO_elim ?_ (by assumption)) | (refine okOptF_elim ?_ (by assumption)) | (refine okOptS_elim ?_ (by assumption)) | (refine okXF_elim ?_ (by assumption)) | (refine okXO_elim ?_ (by assumption)) | split | dsimp only)

theorem State.beginRun_ok (s : State) (c : Ctx) (hs : MemOk s) : MemOk (State.beginRun s c) := by
  unfold State.beginRun
  with_reducible repeat' (first | assumption | apply ok_of | simp only [ok_mk] | apply State.updGrp_ok | apply State.setPart_ok | apply State.trialRun_ok | apply okOpt_some | apply okOpt_none | apply okOpt_mapS | apply okOpt_map | apply okOpt_ite | apply ok_ite | intro _ _ _ | intro _ | (refine ok_fst ?_ (by assumption)) | (refine ok_snd ?_ (by assumption)) | (refine okOpt_elim ?_ (by assumption)) | (refine okXS_elim ?_ (by assumption)) | (refine okXS_elimE ?_ (by assumption)) | (refine okXE_elim ?_ (by assumption)) | (refine okXE_elimE ?_ (by assumption)) | (refine okX_elim ?_ (by assumption)) | (refine okO_elim ?_ (by assumption)) | (refine okOptF_elim ?_ (by assumption)) | (refine okOptS_elim ?_ (by assumption)) | (refine okXF_elim ?_ (by assumption)) | (refine okXO_elim ?_ (by assumption)) | split | dsimp only)

theorem State.countWord_ok (s : State) (c : Ctx) (len : Nat) (e : Bool) (hs : MemOk s) : MemOk (State.countWord s c len e) := by
  unfold State.countWord
  with_reducible repeat' (first | assumption | apply ok_of | simp only [ok_mk] | apply State.endRun_ok | apply State.beginRun_ok | apply okOpt_some | apply okOpt_none | apply okOpt_mapS | apply okOpt_map | apply okOpt_ite | apply ok_ite | intro _ _ _ | intro _ | (refine ok_fst ?_ (by assumption)) | (refine ok_snd ?_ (by assumption)) | (refine okOpt_elim ?_ (by assumption)) | (refine okXS_elim ?_ (by assumption)) | (refine okXS_elimE ?_ (by assumption)) | (refine okXE_elim ?_ (by assumption)) | (refine okXE_elimE ?_ (by assumption)) | (refine okX_elim ?_ (by assumption)) | (refine okO_elim ?_ (by assumption)) | (refine okOptF_elim ?_ (by assumption)) | (refine okOptS_elim ?_ (by assumption)) | (refine okXF_elim ?_ (by assumption)) | (refine okXO_elim ?_ (by assumption)) | split | dsimp only)

theorem State.complete_ok (s : State) (c : Ctx) (h : Hdr) (lat : Lat) (us : List Use) (flg : Bool) (len : Nat) (r : Res) (hs : MemOk s) : MemOk (State.complete s c h lat us flg len r) := by
  unfold State.complete
  with_reducible repeat' (first | assumption | apply ok_of | simp only [ok_mk] | apply State.updGrp_ok | apply State.bankEnter_ok | apply State.countWord_ok | apply okO_next | apply okO_fault | apply okO_refused | apply okOpt_some | apply okOpt_none | apply okOpt_mapS | apply okOpt_map | apply okOpt_ite | apply ok_ite | intro _ _ _ | intro _ | (refine ok_fst ?_ (by assumption)) | (refine ok_snd ?_ (by assumption)) | (refine okOpt_elim ?_ (by assumption)) | (refine okXS_elim ?_ (by assumption)) | (refine okXS_elimE ?_ (by assumption)) | (refine okXE_elim ?_ (by assumption)) | (refine okXE_elimE ?_ (by assumption)) | (refine okX_elim ?_ (by assumption)) | (refine okO_elim ?_ (by assumption)) | (refine okOptF_elim ?_ (by assumption)) | (refine okOptS_elim ?_ (by assumption)) | (refine okXF_elim ?_ (by assumption)) | (refine okXO_elim ?_ (by assumption)) | split | dsimp only)

theorem State.pauseAt_ok (s : State) (c : Ctx) (h : Hdr) (us : List Use) (st : SplitSt) (hs : MemOk s) : MemOk (State.pauseAt s c h us st) := by
  unfold State.pauseAt
  with_reducible repeat' (first | assumption | apply ok_of | simp only [ok_mk] | apply State.updGrp_ok | apply State.quiet_ok | apply State.endRun_ok | apply State.countWord_ok | apply okO_next | apply okO_fault | apply okO_refused | apply okOpt_some | apply okOpt_none | apply okOpt_mapS | apply okOpt_map | apply okOpt_ite | intro _ _ _ | intro _ | (refine ok_fst ?_ (by assumption)) | (refine ok_snd ?_ (by assumption)) | (refine okOpt_elim ?_ (by assumption)) | (refine okXS_elim ?_ (by assumption)) | (refine okXS_elimE ?_ (by assumption)) | (refine okXE_elim ?_ (by assumption)) | (refine okXE_elimE ?_ (by assumption)) | (refine okX_elim ?_ (by assumption)) | (refine okO_elim ?_ (by assumption)) | (refine okOptF_elim ?_ (by assumption)) | (refine okOptS_elim ?_ (by assumption)) | (refine okXF_elim ?_ (by assumption)) | (refine okXO_elim ?_ (by assumption)) | split | dsimp only)

theorem applyEff_ok (c : Ctx) (h : Hdr) (lat : Lat) (us : List Use) (flg : Bool) (len : Nat) (x0 : Eff) (hx0 : OkE (x0)) : MemOk (applyEff c h lat us flg len x0) := by
  unfold applyEff
  cases x0 <;> unfold OkE at hx0 <;> dsimp only at hx0 <;> dsimp only <;> (with_reducible repeat' (first | assumption | apply ok_of | simp only [ok_mk] | apply State.updGrp_ok | apply State.quiet_ok | apply State.endRun_ok | apply State.raise_ok | apply State.deliverPending_ok | apply State.countWord_ok | apply State.complete_ok | apply State.pauseAt_ok | apply okE_done | apply okE_ctl | apply okE_fault | apply okE_stall | apply okE_pause | apply okE_trap | apply okE_async | apply okE_gone | apply okE_late | apply okOpt_some | apply okOpt_none | apply okOpt_mapS | apply okOpt_map | apply okOpt_ite | intro _ _ _ | intro _ | (refine ok_fst ?_ (by assumption)) | (refine ok_snd ?_ (by assumption)) | (refine okOpt_elim ?_ (by assumption)) | (refine okXS_elim ?_ (by assumption)) | (refine okXS_elimE ?_ (by assumption)) | (refine okXE_elim ?_ (by assumption)) | (refine okXE_elimE ?_ (by assumption)) | (refine okX_elim ?_ (by assumption)) | (refine okO_elim ?_ (by assumption)) | (refine okOptF_elim ?_ (by assumption)) | (refine okOptS_elim ?_ (by assumption)) | (refine okXF_elim ?_ (by assumption)) | (refine okXO_elim ?_ (by assumption)) | split | dsimp only))

theorem State.issueAt_ok (s : State) (c : Ctx) (h : Hdr) (lat : Lat) (us : List Use) (flg : Bool) (len : Nat) (body : State → Ctx → Eff) (hs : MemOk s) (hbody : ∀ y0 y1, MemOk y0 → OkE (body y0 y1)) : MemOk (State.issueAt s c h lat us flg len body) := by
  unfold State.issueAt
  with_reducible repeat' (first | assumption | apply ok_of | simp only [ok_mk] | apply hbody | apply State.raise_ok | apply applyEff_ok | apply okE_done | apply okE_ctl | apply okE_fault | apply okE_stall | apply okE_pause | apply okE_trap | apply okE_async | apply okE_gone | apply okE_late | apply ok_ite | intro _ _ _ | intro _ | (refine ok_fst ?_ (by assumption)) | (refine ok_snd ?_ (by assumption)) | (refine okOpt_elim ?_ (by assumption)) | (refine okXS_elim ?_ (by assumption)) | (refine okXS_elimE ?_ (by assumption)) | (refine okXE_elim ?_ (by assumption)) | (refine okXE_elimE ?_ (by assumption)) | (refine okX_elim ?_ (by assumption)) | (refine okO_elim ?_ (by assumption)) | (refine okOptF_elim ?_ (by assumption)) | (refine okOptS_elim ?_ (by assumption)) | (refine okXF_elim ?_ (by assumption)) | (refine okXO_elim ?_ (by assumption)) | split | dsimp only)

theorem issue_ok (s : State) (h : Hdr) (lat : Lat) (us : List Use) (flg : Bool) (len : Nat) (body : State → Ctx → Eff) (hs : MemOk s) (hbody : ∀ y0 y1, MemOk y0 → OkE (body y0 y1)) : OkO (issue s h lat us flg len body) := by
  unfold issue
  with_reducible repeat' (first | assumption | apply ok_of | simp only [ok_mk] | apply hbody | apply State.issueAt_ok | apply okO_next | apply okO_fault | apply okO_refused | apply okE_done | apply okE_ctl | apply okE_fault | apply okE_stall | apply okE_pause | apply okE_trap | apply okE_async | apply okE_gone | apply okE_late | apply okOpt_some | apply okOpt_none | apply okOpt_mapS | apply okOpt_map | apply okOpt_ite | intro _ _ _ | intro _ | (refine ok_fst ?_ (by assumption)) | (refine ok_snd ?_ (by assumption)) | (refine okOpt_elim ?_ (by assumption)) | (refine okXS_elim ?_ (by assumption)) | (refine okXS_elimE ?_ (by assumption)) | (refine okXE_elim ?_ (by assumption)) | (refine okXE_elimE ?_ (by assumption)) | (refine okX_elim ?_ (by assumption)) | (refine okO_elim ?_ (by assumption)) | (refine okOptF_elim ?_ (by assumption)) | (refine okOptS_elim ?_ (by assumption)) | (refine okXF_elim ?_ (by assumption)) | (refine okXO_elim ?_ (by assumption)) | split | dsimp only)

theorem limited_ok (s : State) (h : Hdr) (bad : Ctx → Bool) (k : Host.Outcome State Fault Refusal) (hs : MemOk s) (hk : OkO (k)) : OkO (limited s h bad k) := by
  unfold limited
  with_reducible repeat' (first | assumption | apply ok_of | simp only [ok_mk] | apply State.raise_ok | apply okO_next | apply okO_fault | apply okO_refused | apply okE_done | apply okE_ctl | apply okE_fault | apply okE_stall | apply okE_pause | apply okE_trap | apply okE_async | apply okE_gone | apply okE_late | apply okOpt_some | apply okOpt_none | apply okOpt_mapS | apply okOpt_map | apply okOpt_ite | apply ok_ite | intro _ _ _ | intro _ | (refine ok_fst ?_ (by assumption)) | (refine ok_snd ?_ (by assumption)) | (refine okOpt_elim ?_ (by assumption)) | (refine okXS_elim ?_ (by assumption)) | (refine okXS_elimE ?_ (by assumption)) | (refine okXE_elim ?_ (by assumption)) | (refine okXE_elimE ?_ (by assumption)) | (refine okX_elim ?_ (by assumption)) | (refine okO_elim ?_ (by assumption)) | (refine okOptF_elim ?_ (by assumption)) | (refine okOptS_elim ?_ (by assumption)) | (refine okXF_elim ?_ (by assumption)) | (refine okXO_elim ?_ (by assumption)) | split | dsimp only)

theorem aluWord_ok (s : State) (h : Hdr) (lat : Lat) (us : List Use) (flg : Bool) (k : Bool) (f : Group → Nat → List RegWrite × Fl) (hs : MemOk s) : OkO (aluWord s h lat us flg k f) := by
  unfold aluWord
  with_reducible repeat' (first | assumption | apply ok_of | simp only [ok_mk] | apply issue_ok | apply okO_next | apply okO_fault | apply okO_refused | apply okE_done | apply okE_ctl | apply okE_fault | apply okE_stall | apply okE_pause | apply okE_trap | apply okE_async | apply okE_gone | apply okE_late | intro _ _ _ | intro _ | (refine ok_fst ?_ (by assumption)) | (refine ok_snd ?_ (by assumption)) | (refine okOpt_elim ?_ (by assumption)) | (refine okXS_elim ?_ (by assumption)) | (refine okXS_elimE ?_ (by assumption)) | (refine okXE_elim ?_ (by assumption)) | (refine okXE_elimE ?_ (by assumption)) | (refine okX_elim ?_ (by assumption)) | (refine okO_elim ?_ (by assumption)) | (refine okOptF_elim ?_ (by assumption)) | (refine okOptS_elim ?_ (by assumption)) | (refine okXF_elim ?_ (by assumption)) | (refine okXO_elim ?_ (by assumption)) | split | dsimp only)

theorem onceWord_ok (s : State) (h : Hdr) (lat : Lat) (us : List Use) (body : State → Ctx → Eff) (hs : MemOk s) (hbody : ∀ y0 y1, MemOk y0 → OkE (body y0 y1)) : OkO (onceWord s h lat us body) := by
  unfold onceWord
  with_reducible repeat' (first | assumption | apply ok_of | simp only [ok_mk] | apply hbody | apply issue_ok | apply okO_next | apply okO_fault | apply okO_refused | apply okE_done | apply okE_ctl | apply okE_fault | apply okE_stall | apply okE_pause | apply okE_trap | apply okE_async | apply okE_gone | apply okE_late | apply ok_ite | intro _ _ _ | intro _ | (refine ok_fst ?_ (by assumption)) | (refine ok_snd ?_ (by assumption)) | (refine okOpt_elim ?_ (by assumption)) | (refine okXS_elim ?_ (by assumption)) | (refine okXS_elimE ?_ (by assumption)) | (refine okXE_elim ?_ (by assumption)) | (refine okXE_elimE ?_ (by assumption)) | (refine okX_elim ?_ (by assumption)) | (refine okO_elim ?_ (by assumption)) | (refine okOptF_elim ?_ (by assumption)) | (refine okOptS_elim ?_ (by assumption)) | (refine okXF_elim ?_ (by assumption)) | (refine okXO_elim ?_ (by assumption)) | split | dsimp only)

theorem relAt_ok (s : State) (c : Ctx) (rel : Bool) (sc : Scope) (hs : MemOk s) : OkXE (relAt s c rel sc) := by
  unfold relAt
  with_reducible repeat' (first | assumption | apply ok_of | simp only [ok_mk] | apply State.pass_ok | apply State.release_ok | apply okE_done | apply okE_ctl | apply okE_fault | apply okE_stall | apply okE_pause | apply okE_trap | apply okE_async | apply okE_gone | apply okE_late | apply okXE_ok | apply okXE_error | apply ok_ite | intro _ _ _ | intro _ | (refine ok_fst ?_ (by assumption)) | (refine ok_snd ?_ (by assumption)) | (refine okOpt_elim ?_ (by assumption)) | (refine okXS_elim ?_ (by assumption)) | (refine okXS_elimE ?_ (by assumption)) | (refine okXE_elim ?_ (by assumption)) | (refine okXE_elimE ?_ (by assumption)) | (refine okX_elim ?_ (by assumption)) | (refine okO_elim ?_ (by assumption)) | (refine okOptF_elim ?_ (by assumption)) | (refine okOptS_elim ?_ (by assumption)) | (refine okXF_elim ?_ (by assumption)) | (refine okXO_elim ?_ (by assumption)) | split | dsimp only)

end Sys2Proof.Machine
end

