-- ==== Sys2Proof/Laws/OkAccess.lean ====
section
/-! SUPPORT. Memory's canonical form, kept by the operations of loads, stores and atomics. -/

set_option linter.all false
namespace Sys2Proof.Machine

theorem Stop.eff_ok (s : State) (x0 : Stop) (hs : MemOk s) : OkE (Stop.eff s x0) := by
  unfold Stop.eff
  with_reducible repeat' (first | assumption | apply ok_of | simp only [ok_mk] | apply okE_done | apply okE_ctl | apply okE_fault | apply okE_stall | apply okE_pause | apply okE_trap | apply okE_async | apply okE_gone | apply okE_late | intro _ _ _ | intro _ | (refine ok_fst ?_ (by assumption)) | (refine ok_snd ?_ (by assumption)) | (refine okOpt_elim ?_ (by assumption)) | (refine okXS_elim ?_ (by assumption)) | (refine okXS_elimE ?_ (by assumption)) | (refine okXE_elim ?_ (by assumption)) | (refine okXE_elimE ?_ (by assumption)) | (refine okX_elim ?_ (by assumption)) | (refine okO_elim ?_ (by assumption)) | (refine okOptF_elim ?_ (by assumption)) | (refine okOptS_elim ?_ (by assumption)) | (refine okXF_elim ?_ (by assumption)) | (refine okXO_elim ?_ (by assumption)) | split | dsimp only)

theorem State.xlateAll_ok (s : State) (core : Nat) (slot : Nat) (x0 : List (Nat × W64)) (hs : MemOk s) : MemOk (State.xlateAll s core slot x0).1 := by
  induction x0 generalizing s with
  | nil =>
    unfold State.xlateAll
    with_reducible repeat' (first | assumption | apply ok_of | simp only [ok_mk] | apply State.xlate_ok | intro _ _ _ | intro _ | (refine ok_fst ?_ (by assumption)) | (refine ok_snd ?_ (by assumption)) | (refine okOpt_elim ?_ (by assumption)) | (refine okXS_elim ?_ (by assumption)) | (refine okXS_elimE ?_ (by assumption)) | (refine okXE_elim ?_ (by assumption)) | (refine okXE_elimE ?_ (by assumption)) | (refine okX_elim ?_ (by assumption)) | (refine okO_elim ?_ (by assumption)) | (refine okOptF_elim ?_ (by assumption)) | (refine okOptS_elim ?_ (by assumption)) | (refine okXF_elim ?_ (by assumption)) | (refine okXO_elim ?_ (by assumption)) | split | dsimp only)
  | cons y ys ih =>
    unfold State.xlateAll
    with_reducible repeat' (first | assumption | apply ok_of | simp only [ok_mk] | apply ih | apply State.xlate_ok | intro _ _ _ | intro _ | (refine ok_fst ?_ (by assumption)) | (refine ok_snd ?_ (by assumption)) | (refine okOpt_elim ?_ (by assumption)) | (refine okXS_elim ?_ (by assumption)) | (refine okXS_elimE ?_ (by assumption)) | (refine okXE_elim ?_ (by assumption)) | (refine okXE_elimE ?_ (by assumption)) | (refine okX_elim ?_ (by assumption)) | (refine okO_elim ?_ (by assumption)) | (refine okOptF_elim ?_ (by assumption)) | (refine okOptS_elim ?_ (by assumption)) | (refine okXF_elim ?_ (by assumption)) | (refine okXO_elim ?_ (by assumption)) | split | dsimp only)

theorem State.pagesAt_ok (s : State) (core : Nat) (slot : Nat) (as : List (Nat × W64)) (hs : MemOk s) : MemOk (State.pagesAt s core slot as).1 := by
  unfold State.pagesAt
  with_reducible repeat' (first | assumption | apply ok_of | simp only [ok_mk] | apply State.dropFailed_ok | apply State.xlateAll_ok | apply okOpt_some | apply okOpt_none | apply okOpt_mapS | apply okOpt_map | apply okOpt_ite | apply okF_ok | apply okF_error | intro _ _ _ | intro _ | (refine ok_fst ?_ (by assumption)) | (refine ok_snd ?_ (by assumption)) | (refine okOpt_elim ?_ (by assumption)) | (refine okXS_elim ?_ (by assumption)) | (refine okXS_elimE ?_ (by assumption)) | (refine okXE_elim ?_ (by assumption)) | (refine okXE_elimE ?_ (by assumption)) | (refine okX_elim ?_ (by assumption)) | (refine okO_elim ?_ (by assumption)) | (refine okOptF_elim ?_ (by assumption)) | (refine okOptS_elim ?_ (by assumption)) | (refine okXF_elim ?_ (by assumption)) | (refine okXO_elim ?_ (by assumption)) | split | dsimp only)

theorem State.globalAt_ok (s : State) (core : Nat) (slot : Nat) (need : Need) (n : Nat) (as : List (Nat × W64)) (hs : MemOk s) : MemOk (State.globalAt s core slot need n as).1 := by
  unfold State.globalAt
  with_reducible repeat' (first | assumption | apply ok_of | simp only [ok_mk] | apply State.pagesAt_ok | apply okOpt_some | apply okOpt_none | apply okOpt_mapS | apply okOpt_map | apply okOpt_ite | intro _ _ _ | intro _ | (refine ok_fst ?_ (by assumption)) | (refine ok_snd ?_ (by assumption)) | (refine okOpt_elim ?_ (by assumption)) | (refine okXS_elim ?_ (by assumption)) | (refine okXS_elimE ?_ (by assumption)) | (refine okXE_elim ?_ (by assumption)) | (refine okXE_elimE ?_ (by assumption)) | (refine okX_elim ?_ (by assumption)) | (refine okO_elim ?_ (by assumption)) | (refine okOptF_elim ?_ (by assumption)) | (refine okOptS_elim ?_ (by assumption)) | (refine okXF_elim ?_ (by assumption)) | (refine okXO_elim ?_ (by assumption)) | split | dsimp only)

theorem State.enqueue_ok (s : State) (gid : Nat) (es : List FifoE) (hs : MemOk s) : MemOk (State.enqueue s gid es) := by
  unfold State.enqueue
  with_reducible repeat' (first | assumption | apply ok_of | simp only [ok_mk] | apply State.updGrp_ok | intro _ _ _ | intro _ | (refine ok_fst ?_ (by assumption)) | (refine ok_snd ?_ (by assumption)) | (refine okOpt_elim ?_ (by assumption)) | (refine okXS_elim ?_ (by assumption)) | (refine okXS_elimE ?_ (by assumption)) | (refine okXE_elim ?_ (by assumption)) | (refine okXE_elimE ?_ (by assumption)) | (refine okX_elim ?_ (by assumption)) | (refine okO_elim ?_ (by assumption)) | (refine okOptF_elim ?_ (by assumption)) | (refine okOptS_elim ?_ (by assumption)) | (refine okXF_elim ?_ (by assumption)) | (refine okXO_elim ?_ (by assumption)) | split | dsimp only)

theorem State.readSectors_ok (s : State) (core : Nat) (slot : Nat) (sc : Scope) (x0 : List (Attr × Nat × Nat × List Nat)) (hs : MemOk s) : MemOk (State.readSectors s core slot sc x0).1 := by
  induction x0 generalizing s with
  | nil =>
    unfold State.readSectors
    with_reducible repeat' (first | assumption | apply ok_of | simp only [ok_mk] | apply State.sectorAt_ok | intro _ _ _ | intro _ | (refine ok_fst ?_ (by assumption)) | (refine ok_snd ?_ (by assumption)) | (refine okOpt_elim ?_ (by assumption)) | (refine okXS_elim ?_ (by assumption)) | (refine okXS_elimE ?_ (by assumption)) | (refine okXE_elim ?_ (by assumption)) | (refine okXE_elimE ?_ (by assumption)) | (refine okX_elim ?_ (by assumption)) | (refine okO_elim ?_ (by assumption)) | (refine okOptF_elim ?_ (by assumption)) | (refine okOptS_elim ?_ (by assumption)) | (refine okXF_elim ?_ (by assumption)) | (refine okXO_elim ?_ (by assumption)) | split | dsimp only)
  | cons y ys ih =>
    unfold State.readSectors
    with_reducible repeat' (first | assumption | apply ok_of | simp only [ok_mk] | apply ih | apply State.sectorAt_ok | intro _ _ _ | intro _ | (refine ok_fst ?_ (by assumption)) | (refine ok_snd ?_ (by assumption)) | (refine okOpt_elim ?_ (by assumption)) | (refine okXS_elim ?_ (by assumption)) | (refine okXS_elimE ?_ (by assumption)) | (refine okXE_elim ?_ (by assumption)) | (refine okXE_elimE ?_ (by assumption)) | (refine okX_elim ?_ (by assumption)) | (refine okO_elim ?_ (by assumption)) | (refine okOptF_elim ?_ (by assumption)) | (refine okOptS_elim ?_ (by assumption)) | (refine okXF_elim ?_ (by assumption)) | (refine okXO_elim ?_ (by assumption)) | split | dsimp only)

theorem State.readLanes_ok (s : State) (g : Group) (sc : Scope) (h : Hint) (n : Nat) (ls : List LaneAt) (hs : MemOk s) : MemOk (State.readLanes s g sc h n ls).1 := by
  unfold State.readLanes
  with_reducible repeat' (first | assumption | apply ok_of | simp only [ok_mk] | apply State.readSectors_ok | apply okOpt_some | apply okOpt_none | apply okOpt_mapS | apply okOpt_map | apply okOpt_ite | intro _ _ _ | intro _ | (refine ok_fst ?_ (by assumption)) | (refine ok_snd ?_ (by assumption)) | (refine okOpt_elim ?_ (by assumption)) | (refine okXS_elim ?_ (by assumption)) | (refine okXS_elimE ?_ (by assumption)) | (refine okXE_elim ?_ (by assumption)) | (refine okXE_elimE ?_ (by assumption)) | (refine okX_elim ?_ (by assumption)) | (refine okO_elim ?_ (by assumption)) | (refine okOptF_elim ?_ (by assumption)) | (refine okOptS_elim ?_ (by assumption)) | (refine okXF_elim ?_ (by assumption)) | (refine okXO_elim ?_ (by assumption)) | split | dsimp only)

theorem loadEff_ok (s : State) (c : Ctx) (sc : Scope) (acq : Bool) (h : Hint) (n : Nat) (ls : List LaneAt) (f : List (LaneAt × List Byte) → List RegWrite × Bool) (hs : MemOk s) : OkE (loadEff s c sc acq h n ls f) := by
  unfold loadEff
  with_reducible repeat' (first | assumption | apply ok_of | simp only [ok_mk] | apply State.pass_ok | apply State.acquire_ok | apply State.readLanes_ok | apply okE_done | apply okE_ctl | apply okE_fault | apply okE_stall | apply okE_pause | apply okE_trap | apply okE_async | apply okE_gone | apply okE_late | apply okOpt_some | apply okOpt_none | apply okOpt_mapS | apply okOpt_map | apply okOpt_ite | apply ok_ite | intro _ _ _ | intro _ | (refine ok_fst ?_ (by assumption)) | (refine ok_snd ?_ (by assumption)) | (refine okOpt_elim ?_ (by assumption)) | (refine okXS_elim ?_ (by assumption)) | (refine okXS_elimE ?_ (by assumption)) | (refine okXE_elim ?_ (by assumption)) | (refine okXE_elimE ?_ (by assumption)) | (refine okX_elim ?_ (by assumption)) | (refine okO_elim ?_ (by assumption)) | (refine okOptF_elim ?_ (by assumption)) | (refine okOptS_elim ?_ (by assumption)) | (refine okXF_elim ?_ (by assumption)) | (refine okXO_elim ?_ (by assumption)) | split | dsimp only)

theorem State.l1Yield_ok (s : State) (core : Nat) (slot : Nat) (at_ : Attr) (ca : Nat) (sc : Scope) (hs : MemOk s) : MemOk (State.l1Yield s core slot at_ ca sc) := by
  unfold State.l1Yield
  with_reducible repeat' (first | assumption | apply ok_of | simp only [ok_mk] | apply State.clWrite_ok | apply State.setCore_ok | apply State.bankPut_ok | apply State.l1Match_ok | apply okOpt_some | apply okOpt_none | apply okOpt_mapS | apply okOpt_map | apply okOpt_ite | apply ok_ite | intro _ _ _ | intro _ | (refine ok_fst ?_ (by assumption)) | (refine ok_snd ?_ (by assumption)) | (refine okOpt_elim ?_ (by assumption)) | (refine okXS_elim ?_ (by assumption)) | (refine okXS_elimE ?_ (by assumption)) | (refine okXE_elim ?_ (by assumption)) | (refine okXE_elimE ?_ (by assumption)) | (refine okX_elim ?_ (by assumption)) | (refine okO_elim ?_ (by assumption)) | (refine okOptF_elim ?_ (by assumption)) | (refine okOptS_elim ?_ (by assumption)) | (refine okXF_elim ?_ (by assumption)) | (refine okXO_elim ?_ (by assumption)) | split | dsimp only)

theorem State.placeSector_ok (s : State) (core : Nat) (slot : Nat) (at_ : Attr) (sc : Scope) (w : Nat) (offs : List Nat) (hs : MemOk s) : MemOk (State.placeSector s core slot at_ sc w offs).1 := by
  unfold State.placeSector
  with_reducible repeat' (first | assumption | apply ok_of | simp only [ok_mk] | apply State.traffick_ok | apply State.clFill_ok | apply State.clDrop_ok | apply State.l1Sector_ok | apply okOpt_some | apply okOpt_none | apply okOpt_mapS | apply okOpt_map | apply okOpt_ite | apply ok_ite | intro _ _ _ | intro _ | (refine ok_fst ?_ (by assumption)) | (refine ok_snd ?_ (by assumption)) | (refine okOpt_elim ?_ (by assumption)) | (refine okXS_elim ?_ (by assumption)) | (refine okXS_elimE ?_ (by assumption)) | (refine okXE_elim ?_ (by assumption)) | (refine okXE_elimE ?_ (by assumption)) | (refine okX_elim ?_ (by assumption)) | (refine okO_elim ?_ (by assumption)) | (refine okOptF_elim ?_ (by assumption)) | (refine okOptS_elim ?_ (by assumption)) | (refine okXF_elim ?_ (by assumption)) | (refine okXO_elim ?_ (by assumption)) | split | dsimp only)

theorem State.placeWrite_ok (s : State) (core : Nat) (slot : Nat) (at_ : Attr) (sc : Scope) (bs : List (Nat × Byte)) (hs : MemOk s) : MemOk (State.placeWrite s core slot at_ sc bs) := by
  unfold State.placeWrite
  with_reducible repeat' (first | assumption | apply ok_of | simp only [ok_mk] | apply State.homeWrite_ok | apply State.clWrite_ok | apply State.l1StoreLine_ok | apply okOpt_some | apply okOpt_none | apply okOpt_mapS | apply okOpt_map | apply okOpt_ite | apply ok_ite | intro _ _ _ | intro _ | (refine ok_fst ?_ (by assumption)) | (refine ok_snd ?_ (by assumption)) | (refine okOpt_elim ?_ (by assumption)) | (refine okXS_elim ?_ (by assumption)) | (refine okXS_elimE ?_ (by assumption)) | (refine okXE_elim ?_ (by assumption)) | (refine okXE_elimE ?_ (by assumption)) | (refine okX_elim ?_ (by assumption)) | (refine okO_elim ?_ (by assumption)) | (refine okOptF_elim ?_ (by assumption)) | (refine okOptS_elim ?_ (by assumption)) | (refine okXF_elim ?_ (by assumption)) | (refine okXO_elim ?_ (by assumption)) | split | dsimp only)

theorem State.atomGlobal_ok (s : State) (core : Nat) (slot : Nat) (sc : Scope) (op : AtOp) (w64 : Bool) (x : AtLane) (hs : MemOk s) : MemOk (State.atomGlobal s core slot sc op w64 x).1 := by
  unfold State.atomGlobal
  with_reducible repeat' (first | assumption | apply ok_of | simp only [ok_mk] | apply State.l1Yield_ok | apply State.placeSector_ok | apply State.placeWrite_ok | apply okOpt_some | apply okOpt_none | apply okOpt_mapS | apply okOpt_map | apply okOpt_ite | apply ok_ite | intro _ _ _ | intro _ | (refine ok_fst ?_ (by assumption)) | (refine ok_snd ?_ (by assumption)) | (refine okOpt_elim ?_ (by assumption)) | (refine okXS_elim ?_ (by assumption)) | (refine okXS_elimE ?_ (by assumption)) | (refine okXE_elim ?_ (by assumption)) | (refine okXE_elimE ?_ (by assumption)) | (refine okX_elim ?_ (by assumption)) | (refine okO_elim ?_ (by assumption)) | (refine okOptF_elim ?_ (by assumption)) | (refine okOptS_elim ?_ (by assumption)) | (refine okXF_elim ?_ (by assumption)) | (refine okXO_elim ?_ (by assumption)) | split | dsimp only)

theorem State.atomLanes_ok (s : State) (core : Nat) (slot : Nat) (sc : Scope) (op : AtOp) (w64 : Bool) (x0 : List AtLane) (hs : MemOk s) : MemOk (State.atomLanes s core slot sc op w64 x0).1 := by
  induction x0 generalizing s with
  | nil =>
    unfold State.atomLanes
    with_reducible repeat' (first | assumption | apply ok_of | simp only [ok_mk] | apply State.atomGlobal_ok | intro _ _ _ | intro _ | (refine ok_fst ?_ (by assumption)) | (refine ok_snd ?_ (by assumption)) | (refine okOpt_elim ?_ (by assumption)) | (refine okXS_elim ?_ (by assumption)) | (refine okXS_elimE ?_ (by assumption)) | (refine okXE_elim ?_ (by assumption)) | (refine okXE_elimE ?_ (by assumption)) | (refine okX_elim ?_ (by assumption)) | (refine okO_elim ?_ (by assumption)) | (refine okOptF_elim ?_ (by assumption)) | (refine okOptS_elim ?_ (by assumption)) | (refine okXF_elim ?_ (by assumption)) | (refine okXO_elim ?_ (by assumption)) | split | dsimp only)
  | cons y ys ih =>
    unfold State.atomLanes
    with_reducible repeat' (first | assumption | apply ok_of | simp only [ok_mk] | apply ih | apply State.atomGlobal_ok | intro _ _ _ | intro _ | (refine ok_fst ?_ (by assumption)) | (refine ok_snd ?_ (by assumption)) | (refine okOpt_elim ?_ (by assumption)) | (refine okXS_elim ?_ (by assumption)) | (refine okXS_elimE ?_ (by assumption)) | (refine okXE_elim ?_ (by assumption)) | (refine okXE_elimE ?_ (by assumption)) | (refine okX_elim ?_ (by assumption)) | (refine okO_elim ?_ (by assumption)) | (refine okOptF_elim ?_ (by assumption)) | (refine okOptS_elim ?_ (by assumption)) | (refine okXF_elim ?_ (by assumption)) | (refine okXO_elim ?_ (by assumption)) | split | dsimp only)

theorem typedLoad_ok (s : State) (c : Ctx) (ty : MTy) (sc : Scope) (acq : Bool) (h : Hint) (d : Reg) (ls : List LaneAt) (hs : MemOk s) : OkE (typedLoad s c ty sc acq h d ls) := by
  unfold typedLoad
  with_reducible repeat' (first | assumption | apply ok_of | simp only [ok_mk] | apply loadEff_ok | apply okE_done | apply okE_ctl | apply okE_fault | apply okE_stall | apply okE_pause | apply okE_trap | apply okE_async | apply okE_gone | apply okE_late | intro _ _ _ | intro _ | (refine ok_fst ?_ (by assumption)) | (refine ok_snd ?_ (by assumption)) | (refine okOpt_elim ?_ (by assumption)) | (refine okXS_elim ?_ (by assumption)) | (refine okXS_elimE ?_ (by assumption)) | (refine okXE_elim ?_ (by assumption)) | (refine okXE_elimE ?_ (by assumption)) | (refine okX_elim ?_ (by assumption)) | (refine okO_elim ?_ (by assumption)) | (refine okOptF_elim ?_ (by assumption)) | (refine okOptS_elim ?_ (by assumption)) | (refine okXF_elim ?_ (by assumption)) | (refine okXO_elim ?_ (by assumption)) | split | dsimp only)

theorem globalLoad_ok (s : State) (c : Ctx) (ty : MTy) (sc : Scope) (acq : Bool) (h : Hint) (d : Reg) (as : List (Nat × W64)) (own : Option FInfo) (hs : MemOk s) : OkE (globalLoad s c ty sc acq h d as own) := by
  unfold globalLoad
  with_reducible repeat' (first | assumption | apply ok_of | simp only [ok_mk] | apply Stop.eff_ok | apply State.globalAt_ok | apply typedLoad_ok | apply okE_done | apply okE_ctl | apply okE_fault | apply okE_stall | apply okE_pause | apply okE_trap | apply okE_async | apply okE_gone | apply okE_late | apply okOpt_some | apply okOpt_none | apply okOpt_mapS | apply okOpt_map | apply okOpt_ite | intro _ _ _ | intro _ | (refine ok_fst ?_ (by assumption)) | (refine ok_snd ?_ (by assumption)) | (refine okOpt_elim ?_ (by assumption)) | (refine okXS_elim ?_ (by assumption)) | (refine okXS_elimE ?_ (by assumption)) | (refine okXE_elim ?_ (by assumption)) | (refine okXE_elimE ?_ (by assumption)) | (refine okX_elim ?_ (by assumption)) | (refine okO_elim ?_ (by assumption)) | (refine okOptF_elim ?_ (by assumption)) | (refine okOptS_elim ?_ (by assumption)) | (refine okXF_elim ?_ (by assumption)) | (refine okXO_elim ?_ (by assumption)) | split | dsimp only)

theorem globalStore_ok (s : State) (c : Ctx) (ty : MTy) (sc : Scope) (rel : Bool) (h : Hint) (d : Reg) (as : List (Nat × W64)) (own : Option FInfo) (hs : MemOk s) : OkE (globalStore s c ty sc rel h d as own) := by
  unfold globalStore
  with_reducible repeat' (first | assumption | apply ok_of | simp only [ok_mk] | apply relAt_ok | apply Stop.eff_ok | apply State.globalAt_ok | apply State.enqueue_ok | apply okE_done | apply okE_ctl | apply okE_fault | apply okE_stall | apply okE_pause | apply okE_trap | apply okE_async | apply okE_gone | apply okE_late | apply okOpt_some | apply okOpt_none | apply okOpt_mapS | apply okOpt_map | apply okOpt_ite | intro _ _ _ | intro _ | (refine ok_fst ?_ (by assumption)) | (refine ok_snd ?_ (by assumption)) | (refine okOpt_elim ?_ (by assumption)) | (refine okXS_elim ?_ (by assumption)) | (refine okXS_elimE ?_ (by assumption)) | (refine okXE_elim ?_ (by assumption)) | (refine okXE_elimE ?_ (by assumption)) | (refine okX_elim ?_ (by assumption)) | (refine okO_elim ?_ (by assumption)) | (refine okOptF_elim ?_ (by assumption)) | (refine okOptS_elim ?_ (by assumption)) | (refine okXF_elim ?_ (by assumption)) | (refine okXO_elim ?_ (by assumption)) | split | dsimp only)

theorem memWord_ok (s : State) (h : Hdr) (us : List Use) (body : State → Ctx → Eff) (hs : MemOk s) (hbody : ∀ y0 y1, MemOk y0 → OkE (body y0 y1)) : OkO (memWord s h us body) := by
  unfold memWord
  with_reducible repeat' (first | assumption | apply ok_of | simp only [ok_mk] | apply hbody | apply onceWord_ok | apply okO_next | apply okO_fault | apply okO_refused | apply okE_done | apply okE_ctl | apply okE_fault | apply okE_stall | apply okE_pause | apply okE_trap | apply okE_async | apply okE_gone | apply okE_late | intro _ _ _ | intro _ | (refine ok_fst ?_ (by assumption)) | (refine ok_snd ?_ (by assumption)) | (refine okOpt_elim ?_ (by assumption)) | (refine okXS_elim ?_ (by assumption)) | (refine okXS_elimE ?_ (by assumption)) | (refine okXE_elim ?_ (by assumption)) | (refine okXE_elimE ?_ (by assumption)) | (refine okX_elim ?_ (by assumption)) | (refine okO_elim ?_ (by assumption)) | (refine okOptF_elim ?_ (by assumption)) | (refine okOptS_elim ?_ (by assumption)) | (refine okXF_elim ?_ (by assumption)) | (refine okXO_elim ?_ (by assumption)) | split | dsimp only)

theorem execLdg_ok (h : Hdr) (o : MemOp) (s : State) (hs : MemOk s) : OkO (execLdg h o s) := by
  unfold execLdg
  with_reducible repeat' (first | assumption | apply ok_of | simp only [ok_mk] | apply globalLoad_ok | apply memWord_ok | apply okO_next | apply okO_fault | apply okO_refused | apply okE_done | apply okE_ctl | apply okE_fault | apply okE_stall | apply okE_pause | apply okE_trap | apply okE_async | apply okE_gone | apply okE_late | apply okOpt_some | apply okOpt_none | apply okOpt_mapS | apply okOpt_map | apply okOpt_ite | intro _ _ _ | intro _ | (refine ok_fst ?_ (by assumption)) | (refine ok_snd ?_ (by assumption)) | (refine okOpt_elim ?_ (by assumption)) | (refine okXS_elim ?_ (by assumption)) | (refine okXS_elimE ?_ (by assumption)) | (refine okXE_elim ?_ (by assumption)) | (refine okXE_elimE ?_ (by assumption)) | (refine okX_elim ?_ (by assumption)) | (refine okO_elim ?_ (by assumption)) | (refine okOptF_elim ?_ (by assumption)) | (refine okOptS_elim ?_ (by assumption)) | (refine okXF_elim ?_ (by assumption)) | (refine okXO_elim ?_ (by assumption)) | split | dsimp only)

theorem execStg_ok (h : Hdr) (o : MemOp) (s : State) (hs : MemOk s) : OkO (execStg h o s) := by
  unfold execStg
  with_reducible repeat' (first | assumption | apply ok_of | simp only [ok_mk] | apply globalStore_ok | apply memWord_ok | apply okO_next | apply okO_fault | apply okO_refused | apply okE_done | apply okE_ctl | apply okE_fault | apply okE_stall | apply okE_pause | apply okE_trap | apply okE_async | apply okE_gone | apply okE_late | apply okOpt_some | apply okOpt_none | apply okOpt_mapS | apply okOpt_map | apply okOpt_ite | intro _ _ _ | intro _ | (refine ok_fst ?_ (by assumption)) | (refine ok_snd ?_ (by assumption)) | (refine okOpt_elim ?_ (by assumption)) | (refine okXS_elim ?_ (by assumption)) | (refine okXS_elimE ?_ (by assumption)) | (refine okXE_elim ?_ (by assumption)) | (refine okXE_elimE ?_ (by assumption)) | (refine okX_elim ?_ (by assumption)) | (refine okO_elim ?_ (by assumption)) | (refine okOptF_elim ?_ (by assumption)) | (refine okOptS_elim ?_ (by assumption)) | (refine okXF_elim ?_ (by assumption)) | (refine okXO_elim ?_ (by assumption)) | split | dsimp only)

theorem execLds_ok (h : Hdr) (o : ScrOp) (s : State) (hs : MemOk s) : OkO (execLds h o s) := by
  unfold execLds
  with_reducible repeat' (first | assumption | apply ok_of | simp only [ok_mk] | apply memWord_ok | apply okO_next | apply okO_fault | apply okO_refused | apply okE_done | apply okE_ctl | apply okE_fault | apply okE_stall | apply okE_pause | apply okE_trap | apply okE_async | apply okE_gone | apply okE_late | apply okOpt_some | apply okOpt_none | apply okOpt_mapS | apply okOpt_map | apply okOpt_ite | apply mapsOk_mem | apply mapsOk_mems | apply mapsOk_burst | apply mapsOk_poisons | apply mapsOk_poison | intro _ _ _ | intro _ | (refine ok_fst ?_ (by assumption)) | (refine ok_snd ?_ (by assumption)) | (refine okOpt_elim ?_ (by assumption)) | (refine okXS_elim ?_ (by assumption)) | (refine okXS_elimE ?_ (by assumption)) | (refine okXE_elim ?_ (by assumption)) | (refine okXE_elimE ?_ (by assumption)) | (refine okX_elim ?_ (by assumption)) | (refine okO_elim ?_ (by assumption)) | (refine okOptF_elim ?_ (by assumption)) | (refine okOptS_elim ?_ (by assumption)) | (refine okXF_elim ?_ (by assumption)) | (refine okXO_elim ?_ (by assumption)) | split | dsimp only)

theorem execSts_ok (h : Hdr) (o : ScrOp) (s : State) (hs : MemOk s) : OkO (execSts h o s) := by
  unfold execSts
  with_reducible repeat' (first | assumption | apply ok_of | simp only [ok_mk] | apply relAt_ok | apply State.enqueue_ok | apply memWord_ok | apply okO_next | apply okO_fault | apply okO_refused | apply okE_done | apply okE_ctl | apply okE_fault | apply okE_stall | apply okE_pause | apply okE_trap | apply okE_async | apply okE_gone | apply okE_late | apply okOpt_some | apply okOpt_none | apply okOpt_mapS | apply okOpt_map | apply okOpt_ite | intro _ _ _ | intro _ | (refine ok_fst ?_ (by assumption)) | (refine ok_snd ?_ (by assumption)) | (refine okOpt_elim ?_ (by assumption)) | (refine okXS_elim ?_ (by assumption)) | (refine okXS_elimE ?_ (by assumption)) | (refine okXE_elim ?_ (by assumption)) | (refine okXE_elimE ?_ (by assumption)) | (refine okX_elim ?_ (by assumption)) | (refine okO_elim ?_ (by assumption)) | (refine okOptF_elim ?_ (by assumption)) | (refine okOptS_elim ?_ (by assumption)) | (refine okXF_elim ?_ (by assumption)) | (refine okXO_elim ?_ (by assumption)) | split | dsimp only)

theorem execLdl_ok (h : Hdr) (ty : MTy) (hnt : Hint) (d : Reg) (a : SReg) (b : Reg) (off : BitVec 12) (s : State) (hs : MemOk s) : OkO (execLdl h ty hnt d a b off s) := by
  unfold execLdl
  with_reducible repeat' (first | assumption | apply ok_of | simp only [ok_mk] | apply globalLoad_ok | apply memWord_ok | apply okO_next | apply okO_fault | apply okO_refused | apply okE_done | apply okE_ctl | apply okE_fault | apply okE_stall | apply okE_pause | apply okE_trap | apply okE_async | apply okE_gone | apply okE_late | apply okOpt_some | apply okOpt_none | apply okOpt_mapS | apply okOpt_map | apply okOpt_ite | intro _ _ _ | intro _ | (refine ok_fst ?_ (by assumption)) | (refine ok_snd ?_ (by assumption)) | (refine okOpt_elim ?_ (by assumption)) | (refine okXS_elim ?_ (by assumption)) | (refine okXS_elimE ?_ (by assumption)) | (refine okXE_elim ?_ (by assumption)) | (refine okXE_elimE ?_ (by assumption)) | (refine okX_elim ?_ (by assumption)) | (refine okO_elim ?_ (by assumption)) | (refine okOptF_elim ?_ (by assumption)) | (refine okOptS_elim ?_ (by assumption)) | (refine okXF_elim ?_ (by assumption)) | (refine okXO_elim ?_ (by assumption)) | split | dsimp only)

theorem execStl_ok (h : Hdr) (ty : MTy) (hnt : Hint) (d : Reg) (a : SReg) (b : Reg) (off : BitVec 12) (s : State) (hs : MemOk s) : OkO (execStl h ty hnt d a b off s) := by
  unfold execStl
  with_reducible repeat' (first | assumption | apply ok_of | simp only [ok_mk] | apply globalStore_ok | apply memWord_ok | apply okO_next | apply okO_fault | apply okO_refused | apply okE_done | apply okE_ctl | apply okE_fault | apply okE_stall | apply okE_pause | apply okE_trap | apply okE_async | apply okE_gone | apply okE_late | apply okOpt_some | apply okOpt_none | apply okOpt_mapS | apply okOpt_map | apply okOpt_ite | intro _ _ _ | intro _ | (refine ok_fst ?_ (by assumption)) | (refine ok_snd ?_ (by assumption)) | (refine okOpt_elim ?_ (by assumption)) | (refine okXS_elim ?_ (by assumption)) | (refine okXS_elimE ?_ (by assumption)) | (refine okXE_elim ?_ (by assumption)) | (refine okXE_elimE ?_ (by assumption)) | (refine okX_elim ?_ (by assumption)) | (refine okO_elim ?_ (by assumption)) | (refine okOptF_elim ?_ (by assumption)) | (refine okOptS_elim ?_ (by assumption)) | (refine okXF_elim ?_ (by assumption)) | (refine okXO_elim ?_ (by assumption)) | split | dsimp only)

theorem execLdc_ok (h : Hdr) (sd : Bool) (ty : LdcTy) (d : Reg) (a : SReg) (off : BitVec 12) (s : State) (hs : MemOk s) : OkO (execLdc h sd ty d a off s) := by
  unfold execLdc
  with_reducible repeat' (first | assumption | apply ok_of | simp only [ok_mk] | apply memWord_ok | apply okO_next | apply okO_fault | apply okO_refused | apply okE_done | apply okE_ctl | apply okE_fault | apply okE_stall | apply okE_pause | apply okE_trap | apply okE_async | apply okE_gone | apply okE_late | apply okOpt_some | apply okOpt_none | apply okOpt_mapS | apply okOpt_map | apply okOpt_ite | apply ok_ite | intro _ _ _ | intro _ | (refine ok_fst ?_ (by assumption)) | (refine ok_snd ?_ (by assumption)) | (refine okOpt_elim ?_ (by assumption)) | (refine okXS_elim ?_ (by assumption)) | (refine okXS_elimE ?_ (by assumption)) | (refine okXE_elim ?_ (by assumption)) | (refine okXE_elimE ?_ (by assumption)) | (refine okX_elim ?_ (by assumption)) | (refine okO_elim ?_ (by assumption)) | (refine okOptF_elim ?_ (by assumption)) | (refine okOptS_elim ?_ (by assumption)) | (refine okXF_elim ?_ (by assumption)) | (refine okXO_elim ?_ (by assumption)) | split | dsimp only)

theorem execLdp_ok (h : Hdr) (w64 : Bool) (sc : Scope) (acq : Bool) (hnt : Hint) (d : Reg) (a : SReg) (b : Reg) (cc : Reg) (s : State) (hs : MemOk s) : OkO (execLdp h w64 sc acq hnt d a b cc s) := by
  unfold execLdp
  with_reducible repeat' (first | assumption | apply ok_of | simp only [ok_mk] | apply Stop.eff_ok | apply State.globalAt_ok | apply loadEff_ok | apply memWord_ok | apply okO_next | apply okO_fault | apply okO_refused | apply okE_done | apply okE_ctl | apply okE_fault | apply okE_stall | apply okE_pause | apply okE_trap | apply okE_async | apply okE_gone | apply okE_late | apply ok_ite | intro _ _ _ | intro _ | (refine ok_fst ?_ (by assumption)) | (refine ok_snd ?_ (by assumption)) | (refine okOpt_elim ?_ (by assumption)) | (refine okXS_elim ?_ (by assumption)) | (refine okXS_elimE ?_ (by assumption)) | (refine okXE_elim ?_ (by assumption)) | (refine okXE_elimE ?_ (by assumption)) | (refine okX_elim ?_ (by assumption)) | (refine okO_elim ?_ (by assumption)) | (refine okOptF_elim ?_ (by assumption)) | (refine okOptS_elim ?_ (by assumption)) | (refine okXF_elim ?_ (by assumption)) | (refine okXO_elim ?_ (by assumption)) | split | dsimp only)

theorem execLdv_ok (h : Hdr) (o : MemOp) (s : State) (hs : MemOk s) : OkO (execLdv h o s) := by
  unfold execLdv
  with_reducible repeat' (first | assumption | apply ok_of | simp only [ok_mk] | apply Stop.eff_ok | apply State.pagesAt_ok | apply typedLoad_ok | apply memWord_ok | apply okO_next | apply okO_fault | apply okO_refused | apply okE_done | apply okE_ctl | apply okE_fault | apply okE_stall | apply okE_pause | apply okE_trap | apply okE_async | apply okE_gone | apply okE_late | apply okOpt_some | apply okOpt_none | apply okOpt_mapS | apply okOpt_map | apply okOpt_ite | intro _ _ _ | intro _ | (refine ok_fst ?_ (by assumption)) | (refine ok_snd ?_ (by assumption)) | (refine okOpt_elim ?_ (by assumption)) | (refine okXS_elim ?_ (by assumption)) | (refine okXS_elimE ?_ (by assumption)) | (refine okXE_elim ?_ (by assumption)) | (refine okXE_elimE ?_ (by assumption)) | (refine okX_elim ?_ (by assumption)) | (refine okO_elim ?_ (by assumption)) | (refine okOptF_elim ?_ (by assumption)) | (refine okOptS_elim ?_ (by assumption)) | (refine okXF_elim ?_ (by assumption)) | (refine okXO_elim ?_ (by assumption)) | split | dsimp only)

theorem execStws_ok (h : Hdr) (ty : MTy) (sc : Scope) (sop : StwsOp) (d : Reg) (a : SReg) (b : Reg) (fl : SReg) (s : State) (hs : MemOk s) : OkO (execStws h ty sc sop d a b fl s) := by
  unfold execStws
  with_reducible repeat' (first | assumption | apply ok_of | simp only [ok_mk] | apply Stop.eff_ok | apply State.pagesAt_ok | apply State.enqueue_ok | apply memWord_ok | apply okO_next | apply okO_fault | apply okO_refused | apply okE_done | apply okE_ctl | apply okE_fault | apply okE_stall | apply okE_pause | apply okE_trap | apply okE_async | apply okE_gone | apply okE_late | apply okOpt_some | apply okOpt_none | apply okOpt_mapS | apply okOpt_map | apply okOpt_ite | intro _ _ _ | intro _ | (refine ok_fst ?_ (by assumption)) | (refine ok_snd ?_ (by assumption)) | (refine okOpt_elim ?_ (by assumption)) | (refine okXS_elim ?_ (by assumption)) | (refine okXS_elimE ?_ (by assumption)) | (refine okXE_elim ?_ (by assumption)) | (refine okXE_elimE ?_ (by assumption)) | (refine okX_elim ?_ (by assumption)) | (refine okO_elim ?_ (by assumption)) | (refine okOptF_elim ?_ (by assumption)) | (refine okOptS_elim ?_ (by assumption)) | (refine okXF_elim ?_ (by assumption)) | (refine okXO_elim ?_ (by assumption)) | split | dsimp only)

theorem State.waitRead_ok (s : State) (g : Group) (va : W64) (w32 : Bool) (sc : Scope) (lane : Nat) (hs : MemOk s) : MemOk (State.waitRead s g va w32 sc lane).1 := by
  unfold State.waitRead
  with_reducible repeat' (first | assumption | apply ok_of | simp only [ok_mk] | apply State.pass_ok | apply State.globalAt_ok | apply State.readLanes_ok | apply okOpt_some | apply okOpt_none | apply okOpt_mapS | apply okOpt_map | apply okOpt_ite | apply okF_ok | apply okF_error | apply ok_ite | intro _ _ _ | intro _ | (refine ok_fst ?_ (by assumption)) | (refine ok_snd ?_ (by assumption)) | (refine okOpt_elim ?_ (by assumption)) | (refine okXS_elim ?_ (by assumption)) | (refine okXS_elimE ?_ (by assumption)) | (refine okXE_elim ?_ (by assumption)) | (refine okXE_elimE ?_ (by assumption)) | (refine okX_elim ?_ (by assumption)) | (refine okO_elim ?_ (by assumption)) | (refine okOptF_elim ?_ (by assumption)) | (refine okOptS_elim ?_ (by assumption)) | (refine okXF_elim ?_ (by assumption)) | (refine okXO_elim ?_ (by assumption)) | split | dsimp only)

theorem execWaitv_ok (h : Hdr) (cmp : WCmp) (w32 : Bool) (sc : Scope) (d : SReg) (a : SReg) (b : SReg) (s : State) (hs : MemOk s) : OkO (execWaitv h cmp w32 sc d a b s) := by
  unfold execWaitv
  with_reducible repeat' (first | assumption | apply ok_of | simp only [ok_mk] | apply State.waiting_ok | apply State.acquire_ok | apply State.bankEnter_ok | apply onceWord_ok | apply Stop.eff_ok | apply State.waitRead_ok | apply okO_next | apply okO_fault | apply okO_refused | apply okE_done | apply okE_ctl | apply okE_fault | apply okE_stall | apply okE_pause | apply okE_trap | apply okE_async | apply okE_gone | apply okE_late | apply okOpt_some | apply okOpt_none | apply okOpt_mapS | apply okOpt_map | apply okOpt_ite | apply ok_ite | intro _ _ _ | intro _ | (refine ok_fst ?_ (by assumption)) | (refine ok_snd ?_ (by assumption)) | (refine okOpt_elim ?_ (by assumption)) | (refine okXS_elim ?_ (by assumption)) | (refine okXS_elimE ?_ (by assumption)) | (refine okXE_elim ?_ (by assumption)) | (refine okXE_elimE ?_ (by assumption)) | (refine okX_elim ?_ (by assumption)) | (refine okO_elim ?_ (by assumption)) | (refine okOptF_elim ?_ (by assumption)) | (refine okOptS_elim ?_ (by assumption)) | (refine okXF_elim ?_ (by assumption)) | (refine okXO_elim ?_ (by assumption)) | split | dsimp only)

theorem State.wakeResult_ok (s : State) (gid : Nat) (sp : Split) (d : Nat) (v : W64) (lines : List Nat) (hs : MemOk s) : MemOk (State.wakeResult s gid sp d v lines) := by
  unfold State.wakeResult
  with_reducible repeat' (first | assumption | apply ok_of | simp only [ok_mk] | apply State.setGrp_ok | apply State.wakeSplit_ok | apply State.bankEnter_ok | apply okO_next | apply okO_fault | apply okO_refused | apply okOpt_some | apply okOpt_none | apply okOpt_mapS | apply okOpt_map | apply okOpt_ite | apply okOpt_getD | apply ok_ite | intro _ _ _ | intro _ | (refine ok_fst ?_ (by assumption)) | (refine ok_snd ?_ (by assumption)) | (refine okOpt_elim ?_ (by assumption)) | (refine okXS_elim ?_ (by assumption)) | (refine okXS_elimE ?_ (by assumption)) | (refine okXE_elim ?_ (by assumption)) | (refine okXE_elimE ?_ (by assumption)) | (refine okX_elim ?_ (by assumption)) | (refine okO_elim ?_ (by assumption)) | (refine okOptF_elim ?_ (by assumption)) | (refine okOptS_elim ?_ (by assumption)) | (refine okXF_elim ?_ (by assumption)) | (refine okXO_elim ?_ (by assumption)) | split | dsimp only)

theorem execWaitvReread_ok (s : State) (hs : MemOk s) : OkO (execWaitvReread s) := by
  unfold execWaitvReread
  with_reducible repeat' (first | assumption | apply ok_of | simp only [ok_mk] | apply State.waiting_ok | apply State.updGrp_ok | apply State.acquire_ok | apply State.bankEnter_ok | apply State.raise_ok | apply State.waitRead_ok | apply State.wakeResult_ok | apply okO_next | apply okO_fault | apply okO_refused | apply okE_done | apply okE_ctl | apply okE_fault | apply okE_stall | apply okE_pause | apply okE_trap | apply okE_async | apply okE_gone | apply okE_late | apply okOpt_some | apply okOpt_none | apply okOpt_mapS | apply okOpt_map | apply okOpt_ite | apply ok_ite | intro _ _ _ | intro _ | (refine ok_fst ?_ (by assumption)) | (refine ok_snd ?_ (by assumption)) | (refine okOpt_elim ?_ (by assumption)) | (refine okXS_elim ?_ (by assumption)) | (refine okXS_elimE ?_ (by assumption)) | (refine okXE_elim ?_ (by assumption)) | (refine okXE_elimE ?_ (by assumption)) | (refine okX_elim ?_ (by assumption)) | (refine okO_elim ?_ (by assumption)) | (refine okOptF_elim ?_ (by assumption)) | (refine okOptS_elim ?_ (by assumption)) | (refine okXF_elim ?_ (by assumption)) | (refine okXO_elim ?_ (by assumption)) | split | dsimp only)

theorem State.prefetchPages_ok (s : State) (core : Nat) (slot : Nat) (x0 : List (Nat × W64)) (hs : MemOk s) : MemOk (State.prefetchPages s core slot x0).1 := by
  induction x0 generalizing s with
  | nil =>
    unfold State.prefetchPages
    with_reducible repeat' (first | assumption | apply ok_of | simp only [ok_mk] | apply State.coreWalk_ok | apply okF_ok | apply okF_error | apply ok_ite | intro _ _ _ | intro _ | (refine ok_fst ?_ (by assumption)) | (refine ok_snd ?_ (by assumption)) | (refine okOpt_elim ?_ (by assumption)) | (refine okXS_elim ?_ (by assumption)) | (refine okXS_elimE ?_ (by assumption)) | (refine okXE_elim ?_ (by assumption)) | (refine okXE_elimE ?_ (by assumption)) | (refine okX_elim ?_ (by assumption)) | (refine okO_elim ?_ (by assumption)) | (refine okOptF_elim ?_ (by assumption)) | (refine okOptS_elim ?_ (by assumption)) | (refine okXF_elim ?_ (by assumption)) | (refine okXO_elim ?_ (by assumption)) | split | dsimp only)
  | cons y ys ih =>
    unfold State.prefetchPages
    with_reducible repeat' (first | assumption | apply ok_of | simp only [ok_mk] | apply ih | apply State.coreWalk_ok | apply okF_ok | apply okF_error | apply ok_ite | intro _ _ _ | intro _ | (refine ok_fst ?_ (by assumption)) | (refine ok_snd ?_ (by assumption)) | (refine okOpt_elim ?_ (by assumption)) | (refine okXS_elim ?_ (by assumption)) | (refine okXS_elimE ?_ (by assumption)) | (refine okXE_elim ?_ (by assumption)) | (refine okXE_elimE ?_ (by assumption)) | (refine okX_elim ?_ (by assumption)) | (refine okO_elim ?_ (by assumption)) | (refine okOptF_elim ?_ (by assumption)) | (refine okOptS_elim ?_ (by assumption)) | (refine okXF_elim ?_ (by assumption)) | (refine okXO_elim ?_ (by assumption)) | split | dsimp only)

theorem State.prefetch_ok (s : State) (g : Group) (lvl : Nat) (x : LaneAt) (hs : MemOk s) : MemOk (State.prefetch s g lvl x) := by
  unfold State.prefetch
  with_reducible repeat' (first | assumption | apply ok_of | simp only [ok_mk] | apply State.traffick_ok | apply State.clFill_ok | apply State.l1Sector_ok | apply foldl_ok | apply foldl_fst_ok | apply ok_ite | intro _ _ _ | intro _ | (refine ok_fst ?_ (by assumption)) | (refine ok_snd ?_ (by assumption)) | (refine okOpt_elim ?_ (by assumption)) | (refine okXS_elim ?_ (by assumption)) | (refine okXS_elimE ?_ (by assumption)) | (refine okXE_elim ?_ (by assumption)) | (refine okXE_elimE ?_ (by assumption)) | (refine okX_elim ?_ (by assumption)) | (refine okO_elim ?_ (by assumption)) | (refine okOptF_elim ?_ (by assumption)) | (refine okOptS_elim ?_ (by assumption)) | (refine okXF_elim ?_ (by assumption)) | (refine okXO_elim ?_ (by assumption)) | split | dsimp only)

theorem execPrf_ok (h : Hdr) (lvl : BitVec 2) (a : SReg) (b : Reg) (off : BitVec 12) (s : State) (hs : MemOk s) : OkO (execPrf h lvl a b off s) := by
  unfold execPrf
  with_reducible repeat' (first | assumption | apply ok_of | simp only [ok_mk] | apply State.pass_ok | apply State.dropFailed_ok | apply memWord_ok | apply State.prefetchPages_ok | apply State.prefetch_ok | apply okO_next | apply okO_fault | apply okO_refused | apply okE_done | apply okE_ctl | apply okE_fault | apply okE_stall | apply okE_pause | apply okE_trap | apply okE_async | apply okE_gone | apply okE_late | apply okOpt_some | apply okOpt_none | apply okOpt_mapS | apply okOpt_map | apply okOpt_ite | apply foldl_ok | apply foldl_fst_ok | intro _ _ _ | intro _ | (refine ok_fst ?_ (by assumption)) | (refine ok_snd ?_ (by assumption)) | (refine okOpt_elim ?_ (by assumption)) | (refine okXS_elim ?_ (by assumption)) | (refine okXS_elimE ?_ (by assumption)) | (refine okXE_elim ?_ (by assumption)) | (refine okXE_elimE ?_ (by assumption)) | (refine okX_elim ?_ (by assumption)) | (refine okO_elim ?_ (by assumption)) | (refine okOptF_elim ?_ (by assumption)) | (refine okOptS_elim ?_ (by assumption)) | (refine okXF_elim ?_ (by assumption)) | (refine okXO_elim ?_ (by assumption)) | split | dsimp only)

theorem State.rangePages_ok (s : State) (core : Nat) (slot : Nat) (x0 : Nat) (x1 : Nat) (x2 : Nat) (hs : MemOk s) : MemOk (State.rangePages s core slot x0 x1 x2).1 := by
  induction x0 generalizing s x1 x2 with
  | zero =>
    unfold State.rangePages
    with_reducible repeat' (first | assumption | apply ok_of | simp only [ok_mk] | apply State.coreWalk_ok | apply okF_ok | apply okF_error | apply ok_ite | intro _ _ _ | intro _ | (refine ok_fst ?_ (by assumption)) | (refine ok_snd ?_ (by assumption)) | (refine okOpt_elim ?_ (by assumption)) | (refine okXS_elim ?_ (by assumption)) | (refine okXS_elimE ?_ (by assumption)) | (refine okXE_elim ?_ (by assumption)) | (refine okXE_elimE ?_ (by assumption)) | (refine okX_elim ?_ (by assumption)) | (refine okO_elim ?_ (by assumption)) | (refine okOptF_elim ?_ (by assumption)) | (refine okOptS_elim ?_ (by assumption)) | (refine okXF_elim ?_ (by assumption)) | (refine okXO_elim ?_ (by assumption)) | split | dsimp only)
  | succ y ih =>
    unfold State.rangePages
    with_reducible repeat' (first | assumption | apply ok_of | simp only [ok_mk] | apply ih | apply State.coreWalk_ok | apply okF_ok | apply okF_error | apply ok_ite | intro _ _ _ | intro _ | (refine ok_fst ?_ (by assumption)) | (refine ok_snd ?_ (by assumption)) | (refine okOpt_elim ?_ (by assumption)) | (refine okXS_elim ?_ (by assumption)) | (refine okXS_elimE ?_ (by assumption)) | (refine okXE_elim ?_ (by assumption)) | (refine okXE_elimE ?_ (by assumption)) | (refine okX_elim ?_ (by assumption)) | (refine okO_elim ?_ (by assumption)) | (refine okOptF_elim ?_ (by assumption)) | (refine okOptS_elim ?_ (by assumption)) | (refine okXF_elim ?_ (by assumption)) | (refine okXO_elim ?_ (by assumption)) | split | dsimp only)

theorem State.cctl_ok (s : State) (core : Nat) (op : CctlOp) (p : L1Line → Bool) (hs : MemOk s) : MemOk (State.cctl s core op p) := by
  unfold State.cctl
  with_reducible repeat' (first | assumption | apply ok_of | simp only [ok_mk] | apply State.setCore_ok | apply State.writeBack_ok | apply okOpt_some | apply okOpt_none | apply okOpt_mapS | apply okOpt_map | apply okOpt_ite | apply foldl_ok | apply foldl_fst_ok | apply ok_ite | intro _ _ _ | intro _ | (refine ok_fst ?_ (by assumption)) | (refine ok_snd ?_ (by assumption)) | (refine okOpt_elim ?_ (by assumption)) | (refine okXS_elim ?_ (by assumption)) | (refine okXS_elimE ?_ (by assumption)) | (refine okXE_elim ?_ (by assumption)) | (refine okXE_elimE ?_ (by assumption)) | (refine okX_elim ?_ (by assumption)) | (refine okO_elim ?_ (by assumption)) | (refine okOptF_elim ?_ (by assumption)) | (refine okOptS_elim ?_ (by assumption)) | (refine okXF_elim ?_ (by assumption)) | (refine okXO_elim ?_ (by assumption)) | split | dsimp only)

theorem cctlEff_ok (s : State) (c : Ctx) (op : CctlOp) (p : L1Line → Bool) (hs : MemOk s) : OkE (cctlEff s c op p) := by
  unfold cctlEff
  with_reducible repeat' (first | assumption | apply ok_of | simp only [ok_mk] | apply State.pass_ok | apply State.cctl_ok | apply okE_done | apply okE_ctl | apply okE_fault | apply okE_stall | apply okE_pause | apply okE_trap | apply okE_async | apply okE_gone | apply okE_late | intro _ _ _ | intro _ | (refine ok_fst ?_ (by assumption)) | (refine ok_snd ?_ (by assumption)) | (refine okOpt_elim ?_ (by assumption)) | (refine okXS_elim ?_ (by assumption)) | (refine okXS_elimE ?_ (by assumption)) | (refine okXE_elim ?_ (by assumption)) | (refine okXE_elimE ?_ (by assumption)) | (refine okX_elim ?_ (by assumption)) | (refine okO_elim ?_ (by assumption)) | (refine okOptF_elim ?_ (by assumption)) | (refine okOptS_elim ?_ (by assumption)) | (refine okXF_elim ?_ (by assumption)) | (refine okXO_elim ?_ (by assumption)) | split | dsimp only)

theorem execCctl_ok (h : Hdr) (op : CctlOp) (a : SReg) (b : SReg) (s : State) (hs : MemOk s) : OkO (execCctl h op a b s) := by
  unfold execCctl
  with_reducible repeat' (first | assumption | apply ok_of | simp only [ok_mk] | apply State.dropFailed_ok | apply onceWord_ok | apply State.rangePages_ok | apply State.cctl_ok | apply cctlEff_ok | apply okO_next | apply okO_fault | apply okO_refused | apply okE_done | apply okE_ctl | apply okE_fault | apply okE_stall | apply okE_pause | apply okE_trap | apply okE_async | apply okE_gone | apply okE_late | apply okOpt_some | apply okOpt_none | apply okOpt_mapS | apply okOpt_map | apply okOpt_ite | apply ok_ite | intro _ _ _ | intro _ | (refine ok_fst ?_ (by assumption)) | (refine ok_snd ?_ (by assumption)) | (refine okOpt_elim ?_ (by assumption)) | (refine okXS_elim ?_ (by assumption)) | (refine okXS_elimE ?_ (by assumption)) | (refine okXE_elim ?_ (by assumption)) | (refine okXE_elimE ?_ (by assumption)) | (refine okX_elim ?_ (by assumption)) | (refine okO_elim ?_ (by assumption)) | (refine okOptF_elim ?_ (by assumption)) | (refine okOptS_elim ?_ (by assumption)) | (refine okXF_elim ?_ (by assumption)) | (refine okXO_elim ?_ (by assumption)) | split | dsimp only)

theorem execFence_ok (h : Hdr) (o : Ord4) (sc : Scope) (s : State) (hs : MemOk s) : OkO (execFence h o sc s) := by
  unfold execFence
  with_reducible repeat' (first | assumption | apply ok_of | simp only [ok_mk] | apply State.acquire_ok | apply onceWord_ok | apply relAt_ok | apply okO_next | apply okO_fault | apply okO_refused | apply okE_done | apply okE_ctl | apply okE_fault | apply okE_stall | apply okE_pause | apply okE_trap | apply okE_async | apply okE_gone | apply okE_late | apply ok_ite | intro _ _ _ | intro _ | (refine ok_fst ?_ (by assumption)) | (refine ok_snd ?_ (by assumption)) | (refine okOpt_elim ?_ (by assumption)) | (refine okXS_elim ?_ (by assumption)) | (refine okXS_elimE ?_ (by assumption)) | (refine okXE_elim ?_ (by assumption)) | (refine okXE_elimE ?_ (by assumption)) | (refine okX_elim ?_ (by assumption)) | (refine okO_elim ?_ (by assumption)) | (refine okOptF_elim ?_ (by assumption)) | (refine okOptS_elim ?_ (by assumption)) | (refine okXF_elim ?_ (by assumption)) | (refine okXO_elim ?_ (by assumption)) | split | dsimp only)

theorem execLdm_ok (h : Hdr) (n : BitVec 3) (sc : Scope) (ord : Ord4) (d : SReg) (a : SReg) (off : BitVec 12) (s : State) (hs : MemOk s) : OkO (execLdm h n sc ord d a off s) := by
  unfold execLdm
  with_reducible repeat' (first | assumption | apply ok_of | simp only [ok_mk] | apply onceWord_ok | apply Stop.eff_ok | apply State.globalAt_ok | apply loadEff_ok | apply okO_next | apply okO_fault | apply okO_refused | apply okE_done | apply okE_ctl | apply okE_fault | apply okE_stall | apply okE_pause | apply okE_trap | apply okE_async | apply okE_gone | apply okE_late | apply okOpt_some | apply okOpt_none | apply okOpt_mapS | apply okOpt_map | apply okOpt_ite | intro _ _ _ | intro _ | (refine ok_fst ?_ (by assumption)) | (refine ok_snd ?_ (by assumption)) | (refine okOpt_elim ?_ (by assumption)) | (refine okXS_elim ?_ (by assumption)) | (refine okXS_elimE ?_ (by assumption)) | (refine okXE_elim ?_ (by assumption)) | (refine okXE_elimE ?_ (by assumption)) | (refine okX_elim ?_ (by assumption)) | (refine okO_elim ?_ (by assumption)) | (refine okOptF_elim ?_ (by assumption)) | (refine okOptS_elim ?_ (by assumption)) | (refine okXF_elim ?_ (by assumption)) | (refine okXO_elim ?_ (by assumption)) | split | dsimp only)

theorem execStm_ok (h : Hdr) (n : BitVec 3) (sc : Scope) (ord : Ord4) (d : SReg) (a : SReg) (off : BitVec 12) (s : State) (hs : MemOk s) : OkO (execStm h n sc ord d a off s) := by
  unfold execStm
  with_reducible repeat' (first | assumption | apply ok_of | simp only [ok_mk] | apply onceWord_ok | apply relAt_ok | apply Stop.eff_ok | apply State.globalAt_ok | apply State.enqueue_ok | apply okO_next | apply okO_fault | apply okO_refused | apply okE_done | apply okE_ctl | apply okE_fault | apply okE_stall | apply okE_pause | apply okE_trap | apply okE_async | apply okE_gone | apply okE_late | apply okOpt_some | apply okOpt_none | apply okOpt_mapS | apply okOpt_map | apply okOpt_ite | intro _ _ _ | intro _ | (refine ok_fst ?_ (by assumption)) | (refine ok_snd ?_ (by assumption)) | (refine okOpt_elim ?_ (by assumption)) | (refine okXS_elim ?_ (by assumption)) | (refine okXS_elimE ?_ (by assumption)) | (refine okXE_elim ?_ (by assumption)) | (refine okXE_elimE ?_ (by assumption)) | (refine okX_elim ?_ (by assumption)) | (refine okO_elim ?_ (by assumption)) | (refine okOptF_elim ?_ (by assumption)) | (refine okOptS_elim ?_ (by assumption)) | (refine okXF_elim ?_ (by assumption)) | (refine okXO_elim ?_ (by assumption)) | split | dsimp only)

theorem execLongLatencyResult_ok (s : State) (hs : MemOk s) : OkO (execLongLatencyResult s) := by
  unfold execLongLatencyResult
  with_reducible repeat' (first | assumption | apply ok_of | simp only [ok_mk] | apply State.setGrp_ok | apply State.quiet_ok | apply State.raiseLate_ok | apply okO_next | apply okO_fault | apply okO_refused | apply okE_done | apply okE_ctl | apply okE_fault | apply okE_stall | apply okE_pause | apply okE_trap | apply okE_async | apply okE_gone | apply okE_late | apply okOpt_some | apply okOpt_none | apply okOpt_mapS | apply okOpt_map | apply okOpt_ite | apply okOpt_getD | apply ok_ite | intro _ _ _ | intro _ | (refine ok_fst ?_ (by assumption)) | (refine ok_snd ?_ (by assumption)) | (refine okOpt_elim ?_ (by assumption)) | (refine okXS_elim ?_ (by assumption)) | (refine okXS_elimE ?_ (by assumption)) | (refine okXE_elim ?_ (by assumption)) | (refine okXE_elimE ?_ (by assumption)) | (refine okX_elim ?_ (by assumption)) | (refine okO_elim ?_ (by assumption)) | (refine okOptF_elim ?_ (by assumption)) | (refine okOptS_elim ?_ (by assumption)) | (refine okXF_elim ?_ (by assumption)) | (refine okXO_elim ?_ (by assumption)) | split | dsimp only)

theorem execBankQueueServe_ok (s : State) (hs : MemOk s) : OkO (execBankQueueServe s) := by
  unfold execBankQueueServe
  with_reducible repeat' (first | assumption | apply ok_of | simp only [ok_mk] | apply State.setCore_ok | apply State.updGrp_ok | apply State.quiet_ok | apply okO_next | apply okO_fault | apply okO_refused | apply okE_done | apply okE_ctl | apply okE_fault | apply okE_stall | apply okE_pause | apply okE_trap | apply okE_async | apply okE_gone | apply okE_late | apply okOpt_some | apply okOpt_none | apply okOpt_mapS | apply okOpt_map | apply okOpt_ite | intro _ _ _ | intro _ | (refine ok_fst ?_ (by assumption)) | (refine ok_snd ?_ (by assumption)) | (refine okOpt_elim ?_ (by assumption)) | (refine okXS_elim ?_ (by assumption)) | (refine okXS_elimE ?_ (by assumption)) | (refine okXE_elim ?_ (by assumption)) | (refine okXE_elimE ?_ (by assumption)) | (refine okX_elim ?_ (by assumption)) | (refine okO_elim ?_ (by assumption)) | (refine okOptF_elim ?_ (by assumption)) | (refine okOptS_elim ?_ (by assumption)) | (refine okXF_elim ?_ (by assumption)) | (refine okXO_elim ?_ (by assumption)) | split | dsimp only)

theorem State.fifoAtoms_ok (s : State) (gid : Nat) (g : Group) (sc : Scope) (op : AtOp) (w64 : Bool) (w : From) (ls : List AtLane) (hs : MemOk s) : OkOpt (State.fifoAtoms s gid g sc op w64 w ls) := by
  unfold State.fifoAtoms
  with_reducible repeat' (first | assumption | apply ok_of | simp only [ok_mk] | apply State.raiseLate_ok | apply State.atomLanes_ok | apply okOpt_some | apply okOpt_none | apply okOpt_mapS | apply okOpt_map | apply okOpt_ite | intro _ _ _ | intro _ | (refine ok_fst ?_ (by assumption)) | (refine ok_snd ?_ (by assumption)) | (refine okOpt_elim ?_ (by assumption)) | (refine okXS_elim ?_ (by assumption)) | (refine okXS_elimE ?_ (by assumption)) | (refine okXE_elim ?_ (by assumption)) | (refine okXE_elimE ?_ (by assumption)) | (refine okX_elim ?_ (by assumption)) | (refine okO_elim ?_ (by assumption)) | (refine okOptF_elim ?_ (by assumption)) | (refine okOptS_elim ?_ (by assumption)) | (refine okXF_elim ?_ (by assumption)) | (refine okXO_elim ?_ (by assumption)) | split | dsimp only)

theorem execStorePerform_ok (s : State) (hs : MemOk s) : OkO (execStorePerform s) := by
  unfold execStorePerform
  with_reducible repeat' (first | assumption | apply ok_of | simp only [ok_mk] | apply State.pass_ok | apply State.l1Store_ok | apply State.updGrp_ok | apply State.setTeam_ok | apply State.release_ok | apply State.quiet_ok | apply State.bankEnter_ok | apply State.fifoAtoms_ok | apply okO_next | apply okO_fault | apply okO_refused | apply okE_done | apply okE_ctl | apply okE_fault | apply okE_stall | apply okE_pause | apply okE_trap | apply okE_async | apply okE_gone | apply okE_late | apply okOpt_some | apply okOpt_none | apply okOpt_mapS | apply okOpt_map | apply okOpt_ite | apply okOpt_getD | apply ok_ite | intro _ _ _ | intro _ | (refine ok_fst ?_ (by assumption)) | (refine ok_snd ?_ (by assumption)) | (refine okOpt_elim ?_ (by assumption)) | (refine okXS_elim ?_ (by assumption)) | (refine okXS_elimE ?_ (by assumption)) | (refine okXE_elim ?_ (by assumption)) | (refine okXE_elimE ?_ (by assumption)) | (refine okX_elim ?_ (by assumption)) | (refine okO_elim ?_ (by assumption)) | (refine okOptF_elim ?_ (by assumption)) | (refine okOptS_elim ?_ (by assumption)) | (refine okXF_elim ?_ (by assumption)) | (refine okXO_elim ?_ (by assumption)) | split | dsimp only)

theorem atomDone_ok (s : State) (c : Ctx) (acq : Bool) (sc : Scope) (cas : Bool) (w64 : Bool) (d : Option Reg) (lines : List Nat) (rs : List (AtLane × Option W64)) (hs : MemOk s) : OkE (atomDone s c acq sc cas w64 d lines rs) := by
  unfold atomDone
  with_reducible repeat' (first | assumption | apply ok_of | simp only [ok_mk] | apply State.acquire_ok | apply okE_done | apply okE_ctl | apply okE_fault | apply okE_stall | apply okE_pause | apply okE_trap | apply okE_async | apply okE_gone | apply okE_late | apply okOpt_some | apply okOpt_none | apply okOpt_mapS | apply okOpt_map | apply okOpt_ite | apply okOpt_getD | apply ok_ite | intro _ _ _ | intro _ | (refine ok_fst ?_ (by assumption)) | (refine ok_snd ?_ (by assumption)) | (refine okOpt_elim ?_ (by assumption)) | (refine okXS_elim ?_ (by assumption)) | (refine okXS_elimE ?_ (by assumption)) | (refine okXE_elim ?_ (by assumption)) | (refine okXE_elimE ?_ (by assumption)) | (refine okX_elim ?_ (by assumption)) | (refine okO_elim ?_ (by assumption)) | (refine okOptF_elim ?_ (by assumption)) | (refine okOptS_elim ?_ (by assumption)) | (refine okXF_elim ?_ (by assumption)) | (refine okXO_elim ?_ (by assumption)) | split | dsimp only)

theorem atomNow_ok (s : State) (c : Ctx) (op : AtOp) (w64 : Bool) (sc : Scope) (ord : Ord4) (d : Option Reg) (cc : Reg) (ls : List LaneAt) (hs : MemOk s) : OkE (atomNow s c op w64 sc ord d cc ls) := by
  unfold atomNow
  with_reducible repeat' (first | assumption | apply ok_of | simp only [ok_mk] | apply State.pass_ok | apply relAt_ok | apply State.atomLanes_ok | apply atomDone_ok | apply okE_done | apply okE_ctl | apply okE_fault | apply okE_stall | apply okE_pause | apply okE_trap | apply okE_async | apply okE_gone | apply okE_late | apply okOpt_some | apply okOpt_none | apply okOpt_mapS | apply okOpt_map | apply okOpt_ite | apply ok_ite | intro _ _ _ | intro _ | (refine ok_fst ?_ (by assumption)) | (refine ok_snd ?_ (by assumption)) | (refine okOpt_elim ?_ (by assumption)) | (refine okXS_elim ?_ (by assumption)) | (refine okXS_elimE ?_ (by assumption)) | (refine okXE_elim ?_ (by assumption)) | (refine okXE_elimE ?_ (by assumption)) | (refine okX_elim ?_ (by assumption)) | (refine okO_elim ?_ (by assumption)) | (refine okOptF_elim ?_ (by assumption)) | (refine okOptS_elim ?_ (by assumption)) | (refine okXF_elim ?_ (by assumption)) | (refine okXO_elim ?_ (by assumption)) | split | dsimp only)

theorem redQueue_ok (s : State) (c : Ctx) (op : AtOp) (w64 : Bool) (sc : Scope) (cc : Reg) (ls : List LaneAt) (hs : MemOk s) : OkE (redQueue s c op w64 sc cc ls) := by
  unfold redQueue
  with_reducible repeat' (first | assumption | apply ok_of | simp only [ok_mk] | apply State.enqueue_ok | apply okE_done | apply okE_ctl | apply okE_fault | apply okE_stall | apply okE_pause | apply okE_trap | apply okE_async | apply okE_gone | apply okE_late | apply okOpt_some | apply okOpt_none | apply okOpt_mapS | apply okOpt_map | apply okOpt_ite | apply ok_ite | intro _ _ _ | intro _ | (refine ok_fst ?_ (by assumption)) | (refine ok_snd ?_ (by assumption)) | (refine okOpt_elim ?_ (by assumption)) | (refine okXS_elim ?_ (by assumption)) | (refine okXS_elimE ?_ (by assumption)) | (refine okXE_elim ?_ (by assumption)) | (refine okXE_elimE ?_ (by assumption)) | (refine okX_elim ?_ (by assumption)) | (refine okO_elim ?_ (by assumption)) | (refine okOptF_elim ?_ (by assumption)) | (refine okOptS_elim ?_ (by assumption)) | (refine okXF_elim ?_ (by assumption)) | (refine okXO_elim ?_ (by assumption)) | split | dsimp only)

theorem atomWord_ok (s : State) (h : Hdr) (us : List Use) (op : AtOp) (w64 : Bool) (sc : Scope) (ord : Ord4) (d : Option Reg) (a : SReg) (b : Reg) (cc : Reg) (hs : MemOk s) : OkO (atomWord s h us op w64 sc ord d a b cc) := by
  unfold atomWord
  with_reducible repeat' (first | assumption | apply ok_of | simp only [ok_mk] | apply relAt_ok | apply Stop.eff_ok | apply State.globalAt_ok | apply memWord_ok | apply atomNow_ok | apply redQueue_ok | apply okO_next | apply okO_fault | apply okO_refused | apply okE_done | apply okE_ctl | apply okE_fault | apply okE_stall | apply okE_pause | apply okE_trap | apply okE_async | apply okE_gone | apply okE_late | apply ok_ite | intro _ _ _ | intro _ | (refine ok_fst ?_ (by assumption)) | (refine ok_snd ?_ (by assumption)) | (refine okOpt_elim ?_ (by assumption)) | (refine okXS_elim ?_ (by assumption)) | (refine okXS_elimE ?_ (by assumption)) | (refine okXE_elim ?_ (by assumption)) | (refine okXE_elimE ?_ (by assumption)) | (refine okX_elim ?_ (by assumption)) | (refine okO_elim ?_ (by assumption)) | (refine okOptF_elim ?_ (by assumption)) | (refine okOptS_elim ?_ (by assumption)) | (refine okXF_elim ?_ (by assumption)) | (refine okXO_elim ?_ (by assumption)) | split | dsimp only)

theorem atomScrWord_ok (s : State) (h : Hdr) (us : List Use) (op : AtOp) (w64 : Bool) (swz : Bool) (ord : Ord4) (d : Reg) (a : SReg) (b : Reg) (cc : Reg) (hs : MemOk s) : OkO (atomScrWord s h us op w64 swz ord d a b cc) := by
  unfold atomScrWord
  with_reducible repeat' (first | assumption | apply ok_of | simp only [ok_mk] | apply State.setTeam_ok | apply relAt_ok | apply State.atomLanes_ok | apply memWord_ok | apply atomDone_ok | apply okO_next | apply okO_fault | apply okO_refused | apply okE_done | apply okE_ctl | apply okE_fault | apply okE_stall | apply okE_pause | apply okE_trap | apply okE_async | apply okE_gone | apply okE_late | apply okOpt_some | apply okOpt_none | apply okOpt_mapS | apply okOpt_map | apply okOpt_ite | apply ok_ite | intro _ _ _ | intro _ | (refine ok_fst ?_ (by assumption)) | (refine ok_snd ?_ (by assumption)) | (refine okOpt_elim ?_ (by assumption)) | (refine okXS_elim ?_ (by assumption)) | (refine okXS_elimE ?_ (by assumption)) | (refine okXE_elim ?_ (by assumption)) | (refine okXE_elimE ?_ (by assumption)) | (refine okX_elim ?_ (by assumption)) | (refine okO_elim ?_ (by assumption)) | (refine okOptF_elim ?_ (by assumption)) | (refine okOptS_elim ?_ (by assumption)) | (refine okXF_elim ?_ (by assumption)) | (refine okXO_elim ?_ (by assumption)) | split | dsimp only)

theorem execAtom_ok (h : Hdr) (op : AOp) (o : Atm) (s : State) (hs : MemOk s) : OkO (execAtom h op o s) := by
  unfold execAtom
  with_reducible repeat' (first | assumption | apply ok_of | simp only [ok_mk] | apply atomWord_ok | apply okO_next | apply okO_fault | apply okO_refused | apply okE_done | apply okE_ctl | apply okE_fault | apply okE_stall | apply okE_pause | apply okE_trap | apply okE_async | apply okE_gone | apply okE_late | apply okOpt_some | apply okOpt_none | apply okOpt_mapS | apply okOpt_map | apply okOpt_ite | intro _ _ _ | intro _ | (refine ok_fst ?_ (by assumption)) | (refine ok_snd ?_ (by assumption)) | (refine okOpt_elim ?_ (by assumption)) | (refine okXS_elim ?_ (by assumption)) | (refine okXS_elimE ?_ (by assumption)) | (refine okXE_elim ?_ (by assumption)) | (refine okXE_elimE ?_ (by assumption)) | (refine okX_elim ?_ (by assumption)) | (refine okO_elim ?_ (by assumption)) | (refine okOptF_elim ?_ (by assumption)) | (refine okOptS_elim ?_ (by assumption)) | (refine okXF_elim ?_ (by assumption)) | (refine okXO_elim ?_ (by assumption)) | split | dsimp only)

theorem execAtomf_ok (h : Hdr) (fmt : AFmt) (op : FRedOp) (sc : Scope) (ord : Ord4) (d : Reg) (a : SReg) (b : Reg) (c : Reg) (s : State) (hs : MemOk s) : OkO (execAtomf h fmt op sc ord d a b c s) := by
  unfold execAtomf
  with_reducible repeat' (first | assumption | apply ok_of | simp only [ok_mk] | apply atomWord_ok | apply okO_next | apply okO_fault | apply okO_refused | apply okE_done | apply okE_ctl | apply okE_fault | apply okE_stall | apply okE_pause | apply okE_trap | apply okE_async | apply okE_gone | apply okE_late | apply okOpt_some | apply okOpt_none | apply okOpt_mapS | apply okOpt_map | apply okOpt_ite | intro _ _ _ | intro _ | (refine ok_fst ?_ (by assumption)) | (refine ok_snd ?_ (by assumption)) | (refine okOpt_elim ?_ (by assumption)) | (refine okXS_elim ?_ (by assumption)) | (refine okXS_elimE ?_ (by assumption)) | (refine okXE_elim ?_ (by assumption)) | (refine okXE_elimE ?_ (by assumption)) | (refine okX_elim ?_ (by assumption)) | (refine okO_elim ?_ (by assumption)) | (refine okOptF_elim ?_ (by assumption)) | (refine okOptS_elim ?_ (by assumption)) | (refine okXF_elim ?_ (by assumption)) | (refine okXO_elim ?_ (by assumption)) | split | dsimp only)

theorem execCas_ok (h : Hdr) (o : Atm) (s : State) (hs : MemOk s) : OkO (execCas h o s) := by
  unfold execCas
  with_reducible repeat' (first | assumption | apply ok_of | simp only [ok_mk] | apply atomWord_ok | apply okO_next | apply okO_fault | apply okO_refused | apply okE_done | apply okE_ctl | apply okE_fault | apply okE_stall | apply okE_pause | apply okE_trap | apply okE_async | apply okE_gone | apply okE_late | apply okOpt_some | apply okOpt_none | apply okOpt_mapS | apply okOpt_map | apply okOpt_ite | intro _ _ _ | intro _ | (refine ok_fst ?_ (by assumption)) | (refine ok_snd ?_ (by assumption)) | (refine okOpt_elim ?_ (by assumption)) | (refine okXS_elim ?_ (by assumption)) | (refine okXS_elimE ?_ (by assumption)) | (refine okXE_elim ?_ (by assumption)) | (refine okXE_elimE ?_ (by assumption)) | (refine okX_elim ?_ (by assumption)) | (refine okO_elim ?_ (by assumption)) | (refine okOptF_elim ?_ (by assumption)) | (refine okOptS_elim ?_ (by assumption)) | (refine okXF_elim ?_ (by assumption)) | (refine okXO_elim ?_ (by assumption)) | split | dsimp only)

theorem execRed_ok (h : Hdr) (op : AOp) (w64 : Bool) (sc : Scope) (ord : Ord4) (a : SReg) (b : Reg) (c : Reg) (s : State) (hs : MemOk s) : OkO (execRed h op w64 sc ord a b c s) := by
  unfold execRed
  with_reducible repeat' (first | assumption | apply ok_of | simp only [ok_mk] | apply atomWord_ok | apply okO_next | apply okO_fault | apply okO_refused | apply okE_done | apply okE_ctl | apply okE_fault | apply okE_stall | apply okE_pause | apply okE_trap | apply okE_async | apply okE_gone | apply okE_late | apply okOpt_some | apply okOpt_none | apply okOpt_mapS | apply okOpt_map | apply okOpt_ite | intro _ _ _ | intro _ | (refine ok_fst ?_ (by assumption)) | (refine ok_snd ?_ (by assumption)) | (refine okOpt_elim ?_ (by assumption)) | (refine okXS_elim ?_ (by assumption)) | (refine okXS_elimE ?_ (by assumption)) | (refine okXE_elim ?_ (by assumption)) | (refine okXE_elimE ?_ (by assumption)) | (refine okX_elim ?_ (by assumption)) | (refine okO_elim ?_ (by assumption)) | (refine okOptF_elim ?_ (by assumption)) | (refine okOptS_elim ?_ (by assumption)) | (refine okXF_elim ?_ (by assumption)) | (refine okXO_elim ?_ (by assumption)) | split | dsimp only)

theorem execRedf_ok (h : Hdr) (fmt : AFmt) (op : FRedOp) (sc : Scope) (ord : Ord4) (a : SReg) (b : Reg) (c : Reg) (s : State) (hs : MemOk s) : OkO (execRedf h fmt op sc ord a b c s) := by
  unfold execRedf
  with_reducible repeat' (first | assumption | apply ok_of | simp only [ok_mk] | apply atomWord_ok | apply okO_next | apply okO_fault | apply okO_refused | apply okE_done | apply okE_ctl | apply okE_fault | apply okE_stall | apply okE_pause | apply okE_trap | apply okE_async | apply okE_gone | apply okE_late | apply okOpt_some | apply okOpt_none | apply okOpt_mapS | apply okOpt_map | apply okOpt_ite | intro _ _ _ | intro _ | (refine ok_fst ?_ (by assumption)) | (refine ok_snd ?_ (by assumption)) | (refine okOpt_elim ?_ (by assumption)) | (refine okXS_elim ?_ (by assumption)) | (refine okXS_elimE ?_ (by assumption)) | (refine okXE_elim ?_ (by assumption)) | (refine okXE_elimE ?_ (by assumption)) | (refine okX_elim ?_ (by assumption)) | (refine okO_elim ?_ (by assumption)) | (refine okOptF_elim ?_ (by assumption)) | (refine okOptS_elim ?_ (by assumption)) | (refine okXF_elim ?_ (by assumption)) | (refine okXO_elim ?_ (by assumption)) | split | dsimp only)

theorem execAtoms_ok (h : Hdr) (op : ASOp) (w64 : Bool) (swz : Bool) (ord : Ord4) (d : Reg) (a : SReg) (b : Reg) (c : Reg) (s : State) (hs : MemOk s) : OkO (execAtoms h op w64 swz ord d a b c s) := by
  unfold execAtoms
  with_reducible repeat' (first | assumption | apply ok_of | simp only [ok_mk] | apply atomScrWord_ok | apply okO_next | apply okO_fault | apply okO_refused | apply okE_done | apply okE_ctl | apply okE_fault | apply okE_stall | apply okE_pause | apply okE_trap | apply okE_async | apply okE_gone | apply okE_late | intro _ _ _ | intro _ | (refine ok_fst ?_ (by assumption)) | (refine ok_snd ?_ (by assumption)) | (refine okOpt_elim ?_ (by assumption)) | (refine okXS_elim ?_ (by assumption)) | (refine okXS_elimE ?_ (by assumption)) | (refine okXE_elim ?_ (by assumption)) | (refine okXE_elimE ?_ (by assumption)) | (refine okX_elim ?_ (by assumption)) | (refine okO_elim ?_ (by assumption)) | (refine okOptF_elim ?_ (by assumption)) | (refine okOptS_elim ?_ (by assumption)) | (refine okXF_elim ?_ (by assumption)) | (refine okXO_elim ?_ (by assumption)) | split | dsimp only)

theorem execCass_ok (h : Hdr) (w64 : Bool) (swz : Bool) (ord : Ord4) (d : Reg) (a : SReg) (b : Reg) (c : Reg) (s : State) (hs : MemOk s) : OkO (execCass h w64 swz ord d a b c s) := by
  unfold execCass
  with_reducible repeat' (first | assumption | apply ok_of | simp only [ok_mk] | apply atomScrWord_ok | apply okO_next | apply okO_fault | apply okO_refused | apply okE_done | apply okE_ctl | apply okE_fault | apply okE_stall | apply okE_pause | apply okE_trap | apply okE_async | apply okE_gone | apply okE_late | intro _ _ _ | intro _ | (refine ok_fst ?_ (by assumption)) | (refine ok_snd ?_ (by assumption)) | (refine okOpt_elim ?_ (by assumption)) | (refine okXS_elim ?_ (by assumption)) | (refine okXS_elimE ?_ (by assumption)) | (refine okXE_elim ?_ (by assumption)) | (refine okXE_elimE ?_ (by assumption)) | (refine okX_elim ?_ (by assumption)) | (refine okO_elim ?_ (by assumption)) | (refine okOptF_elim ?_ (by assumption)) | (refine okOptS_elim ?_ (by assumption)) | (refine okXF_elim ?_ (by assumption)) | (refine okXO_elim ?_ (by assumption)) | split | dsimp only)

end Sys2Proof.Machine
end

