-- ==== Sys2Proof/Laws/OkAlu.lean ====
section
/-! SUPPORT. Memory's canonical form, kept by the operations of arithmetic and cross-lane words. -/

set_option linter.all false
namespace Sys2Proof.Machine

theorem int2_ok (s : State) (h : Hdr) (o : I2) (f : W64 → W64 × Fl) (hs : MemOk s) : OkO (int2 s h o f) := by
  unfold int2
  with_reducible repeat' (first | assumption | apply ok_of | simp only [ok_mk] | apply aluWord_ok | apply okO_next | apply okO_fault | apply okO_refused | apply okE_done | apply okE_ctl | apply okE_fault | apply okE_stall | apply okE_pause | apply okE_trap | apply okE_async | apply okE_gone | apply okE_late | intro _ _ _ | intro _ | (refine ok_fst ?_ (by assumption)) | (refine ok_snd ?_ (by assumption)) | (refine okOpt_elim ?_ (by assumption)) | (refine okXS_elim ?_ (by assumption)) | (refine okXS_elimE ?_ (by assumption)) | (refine okXE_elim ?_ (by assumption)) | (refine okXE_elimE ?_ (by assumption)) | (refine okX_elim ?_ (by assumption)) | (refine okO_elim ?_ (by assumption)) | (refine okOptF_elim ?_ (by assumption)) | (refine okOptS_elim ?_ (by assumption)) | (refine okXF_elim ?_ (by assumption)) | (refine okXO_elim ?_ (by assumption)) | split | dsimp only)

theorem int3_ok (s : State) (h : Hdr) (lat : Lat) (flg : Bool) (o : I3) (f : W64 → W64 → W64 × Fl) (hs : MemOk s) : OkO (int3 s h lat flg o f) := by
  unfold int3
  with_reducible repeat' (first | assumption | apply ok_of | simp only [ok_mk] | apply aluWord_ok | apply okO_next | apply okO_fault | apply okO_refused | apply okE_done | apply okE_ctl | apply okE_fault | apply okE_stall | apply okE_pause | apply okE_trap | apply okE_async | apply okE_gone | apply okE_late | intro _ _ _ | intro _ | (refine ok_fst ?_ (by assumption)) | (refine ok_snd ?_ (by assumption)) | (refine okOpt_elim ?_ (by assumption)) | (refine okXS_elim ?_ (by assumption)) | (refine okXS_elimE ?_ (by assumption)) | (refine okXE_elim ?_ (by assumption)) | (refine okXE_elimE ?_ (by assumption)) | (refine okX_elim ?_ (by assumption)) | (refine okO_elim ?_ (by assumption)) | (refine okOptF_elim ?_ (by assumption)) | (refine okOptS_elim ?_ (by assumption)) | (refine okXF_elim ?_ (by assumption)) | (refine okXO_elim ?_ (by assumption)) | split | dsimp only)

theorem int4_ok (s : State) (h : Hdr) (o : I4) (f : W64 → W64 → W64 → W64) (hs : MemOk s) : OkO (int4 s h o f) := by
  unfold int4
  with_reducible repeat' (first | assumption | apply ok_of | simp only [ok_mk] | apply aluWord_ok | apply okO_next | apply okO_fault | apply okO_refused | apply okE_done | apply okE_ctl | apply okE_fault | apply okE_stall | apply okE_pause | apply okE_trap | apply okE_async | apply okE_gone | apply okE_late | intro _ _ _ | intro _ | (refine ok_fst ?_ (by assumption)) | (refine ok_snd ?_ (by assumption)) | (refine okOpt_elim ?_ (by assumption)) | (refine okXS_elim ?_ (by assumption)) | (refine okXS_elimE ?_ (by assumption)) | (refine okXE_elim ?_ (by assumption)) | (refine okXE_elimE ?_ (by assumption)) | (refine okX_elim ?_ (by assumption)) | (refine okO_elim ?_ (by assumption)) | (refine okOptF_elim ?_ (by assumption)) | (refine okOptS_elim ?_ (by assumption)) | (refine okXF_elim ?_ (by assumption)) | (refine okXO_elim ?_ (by assumption)) | split | dsimp only)

theorem intShift_ok (s : State) (h : Hdr) (o : I2) (n : ShAmt) (f : W64 → Nat → Int) (hs : MemOk s) : OkO (intShift s h o n f) := by
  unfold intShift
  with_reducible repeat' (first | assumption | apply ok_of | simp only [ok_mk] | apply aluWord_ok | apply okO_next | apply okO_fault | apply okO_refused | apply okE_done | apply okE_ctl | apply okE_fault | apply okE_stall | apply okE_pause | apply okE_trap | apply okE_async | apply okE_gone | apply okE_late | intro _ _ _ | intro _ | (refine ok_fst ?_ (by assumption)) | (refine ok_snd ?_ (by assumption)) | (refine okOpt_elim ?_ (by assumption)) | (refine okXS_elim ?_ (by assumption)) | (refine okXS_elimE ?_ (by assumption)) | (refine okXE_elim ?_ (by assumption)) | (refine okXE_elimE ?_ (by assumption)) | (refine okX_elim ?_ (by assumption)) | (refine okO_elim ?_ (by assumption)) | (refine okOptF_elim ?_ (by assumption)) | (refine okOptS_elim ?_ (by assumption)) | (refine okXF_elim ?_ (by assumption)) | (refine okXO_elim ?_ (by assumption)) | split | dsimp only)

theorem execNop_ok (h : Hdr) (s : State) (hs : MemOk s) : OkO (execNop h s) := by
  unfold execNop
  with_reducible repeat' (first | assumption | apply ok_of | simp only [ok_mk] | apply aluWord_ok | apply okO_next | apply okO_fault | apply okO_refused | apply okE_done | apply okE_ctl | apply okE_fault | apply okE_stall | apply okE_pause | apply okE_trap | apply okE_async | apply okE_gone | apply okE_late | intro _ _ _ | intro _ | (refine ok_fst ?_ (by assumption)) | (refine ok_snd ?_ (by assumption)) | (refine okOpt_elim ?_ (by assumption)) | (refine okXS_elim ?_ (by assumption)) | (refine okXS_elimE ?_ (by assumption)) | (refine okXE_elim ?_ (by assumption)) | (refine okXE_elimE ?_ (by assumption)) | (refine okX_elim ?_ (by assumption)) | (refine okO_elim ?_ (by assumption)) | (refine okOptF_elim ?_ (by assumption)) | (refine okOptS_elim ?_ (by assumption)) | (refine okXF_elim ?_ (by assumption)) | (refine okXO_elim ?_ (by assumption)) | split | dsimp only)

theorem execMov_ok (h : Hdr) (o : I2) (s : State) (hs : MemOk s) : OkO (execMov h o s) := by
  unfold execMov
  with_reducible repeat' (first | assumption | apply ok_of | simp only [ok_mk] | apply int2_ok | apply okO_next | apply okO_fault | apply okO_refused | apply okE_done | apply okE_ctl | apply okE_fault | apply okE_stall | apply okE_pause | apply okE_trap | apply okE_async | apply okE_gone | apply okE_late | intro _ _ _ | intro _ | (refine ok_fst ?_ (by assumption)) | (refine ok_snd ?_ (by assumption)) | (refine okOpt_elim ?_ (by assumption)) | (refine okXS_elim ?_ (by assumption)) | (refine okXS_elimE ?_ (by assumption)) | (refine okXE_elim ?_ (by assumption)) | (refine okXE_elimE ?_ (by assumption)) | (refine okX_elim ?_ (by assumption)) | (refine okO_elim ?_ (by assumption)) | (refine okOptF_elim ?_ (by assumption)) | (refine okOptS_elim ?_ (by assumption)) | (refine okXF_elim ?_ (by assumption)) | (refine okXO_elim ?_ (by assumption)) | split | dsimp only)

theorem execMovi_ok (h : Hdr) (f : MoviForm) (d : Reg) (imm : W32) (s : State) (hs : MemOk s) : OkO (execMovi h f d imm s) := by
  unfold execMovi
  with_reducible repeat' (first | assumption | apply ok_of | simp only [ok_mk] | apply aluWord_ok | apply okO_next | apply okO_fault | apply okO_refused | apply okE_done | apply okE_ctl | apply okE_fault | apply okE_stall | apply okE_pause | apply okE_trap | apply okE_async | apply okE_gone | apply okE_late | intro _ _ _ | intro _ | (refine ok_fst ?_ (by assumption)) | (refine ok_snd ?_ (by assumption)) | (refine okOpt_elim ?_ (by assumption)) | (refine okXS_elim ?_ (by assumption)) | (refine okXS_elimE ?_ (by assumption)) | (refine okXE_elim ?_ (by assumption)) | (refine okXE_elimE ?_ (by assumption)) | (refine okX_elim ?_ (by assumption)) | (refine okO_elim ?_ (by assumption)) | (refine okOptF_elim ?_ (by assumption)) | (refine okOptS_elim ?_ (by assumption)) | (refine okXF_elim ?_ (by assumption)) | (refine okXO_elim ?_ (by assumption)) | split | dsimp only)

theorem execIadd_ok (h : Hdr) (o : I3) (s : State) (hs : MemOk s) : OkO (execIadd h o s) := by
  unfold execIadd
  with_reducible repeat' (first | assumption | apply ok_of | simp only [ok_mk] | apply int3_ok | apply okO_next | apply okO_fault | apply okO_refused | apply okE_done | apply okE_ctl | apply okE_fault | apply okE_stall | apply okE_pause | apply okE_trap | apply okE_async | apply okE_gone | apply okE_late | intro _ _ _ | intro _ | (refine ok_fst ?_ (by assumption)) | (refine ok_snd ?_ (by assumption)) | (refine okOpt_elim ?_ (by assumption)) | (refine okXS_elim ?_ (by assumption)) | (refine okXS_elimE ?_ (by assumption)) | (refine okXE_elim ?_ (by assumption)) | (refine okXE_elimE ?_ (by assumption)) | (refine okX_elim ?_ (by assumption)) | (refine okO_elim ?_ (by assumption)) | (refine okOptF_elim ?_ (by assumption)) | (refine okOptS_elim ?_ (by assumption)) | (refine okXF_elim ?_ (by assumption)) | (refine okXO_elim ?_ (by assumption)) | split | dsimp only)

theorem execIsub_ok (h : Hdr) (o : I3) (s : State) (hs : MemOk s) : OkO (execIsub h o s) := by
  unfold execIsub
  with_reducible repeat' (first | assumption | apply ok_of | simp only [ok_mk] | apply int3_ok | apply okO_next | apply okO_fault | apply okO_refused | apply okE_done | apply okE_ctl | apply okE_fault | apply okE_stall | apply okE_pause | apply okE_trap | apply okE_async | apply okE_gone | apply okE_late | intro _ _ _ | intro _ | (refine ok_fst ?_ (by assumption)) | (refine ok_snd ?_ (by assumption)) | (refine okOpt_elim ?_ (by assumption)) | (refine okXS_elim ?_ (by assumption)) | (refine okXS_elimE ?_ (by assumption)) | (refine okXE_elim ?_ (by assumption)) | (refine okXE_elimE ?_ (by assumption)) | (refine okX_elim ?_ (by assumption)) | (refine okO_elim ?_ (by assumption)) | (refine okOptF_elim ?_ (by assumption)) | (refine okOptS_elim ?_ (by assumption)) | (refine okXF_elim ?_ (by assumption)) | (refine okXO_elim ?_ (by assumption)) | split | dsimp only)

theorem execIaddi_ok (h : Hdr) (o : I2) (imm : BitVec 16) (s : State) (hs : MemOk s) : OkO (execIaddi h o imm s) := by
  unfold execIaddi
  with_reducible repeat' (first | assumption | apply ok_of | simp only [ok_mk] | apply int2_ok | apply okO_next | apply okO_fault | apply okO_refused | apply okE_done | apply okE_ctl | apply okE_fault | apply okE_stall | apply okE_pause | apply okE_trap | apply okE_async | apply okE_gone | apply okE_late | intro _ _ _ | intro _ | (refine ok_fst ?_ (by assumption)) | (refine ok_snd ?_ (by assumption)) | (refine okOpt_elim ?_ (by assumption)) | (refine okXS_elim ?_ (by assumption)) | (refine okXS_elimE ?_ (by assumption)) | (refine okXE_elim ?_ (by assumption)) | (refine okXE_elimE ?_ (by assumption)) | (refine okX_elim ?_ (by assumption)) | (refine okO_elim ?_ (by assumption)) | (refine okOptF_elim ?_ (by assumption)) | (refine okOptS_elim ?_ (by assumption)) | (refine okXF_elim ?_ (by assumption)) | (refine okXO_elim ?_ (by assumption)) | split | dsimp only)

theorem execImul_ok (h : Hdr) (o : I3) (s : State) (hs : MemOk s) : OkO (execImul h o s) := by
  unfold execImul
  with_reducible repeat' (first | assumption | apply ok_of | simp only [ok_mk] | apply int3_ok | apply okO_next | apply okO_fault | apply okO_refused | apply okE_done | apply okE_ctl | apply okE_fault | apply okE_stall | apply okE_pause | apply okE_trap | apply okE_async | apply okE_gone | apply okE_late | intro _ _ _ | intro _ | (refine ok_fst ?_ (by assumption)) | (refine ok_snd ?_ (by assumption)) | (refine okOpt_elim ?_ (by assumption)) | (refine okXS_elim ?_ (by assumption)) | (refine okXS_elimE ?_ (by assumption)) | (refine okXE_elim ?_ (by assumption)) | (refine okXE_elimE ?_ (by assumption)) | (refine okX_elim ?_ (by assumption)) | (refine okO_elim ?_ (by assumption)) | (refine okOptF_elim ?_ (by assumption)) | (refine okOptS_elim ?_ (by assumption)) | (refine okXF_elim ?_ (by assumption)) | (refine okXO_elim ?_ (by assumption)) | split | dsimp only)

theorem execImulh_ok (h : Hdr) (o : I3) (s : State) (hs : MemOk s) : OkO (execImulh h o s) := by
  unfold execImulh
  with_reducible repeat' (first | assumption | apply ok_of | simp only [ok_mk] | apply int3_ok | apply okO_next | apply okO_fault | apply okO_refused | apply okE_done | apply okE_ctl | apply okE_fault | apply okE_stall | apply okE_pause | apply okE_trap | apply okE_async | apply okE_gone | apply okE_late | intro _ _ _ | intro _ | (refine ok_fst ?_ (by assumption)) | (refine ok_snd ?_ (by assumption)) | (refine okOpt_elim ?_ (by assumption)) | (refine okXS_elim ?_ (by assumption)) | (refine okXS_elimE ?_ (by assumption)) | (refine okXE_elim ?_ (by assumption)) | (refine okXE_elimE ?_ (by assumption)) | (refine okX_elim ?_ (by assumption)) | (refine okO_elim ?_ (by assumption)) | (refine okOptF_elim ?_ (by assumption)) | (refine okOptS_elim ?_ (by assumption)) | (refine okXF_elim ?_ (by assumption)) | (refine okXO_elim ?_ (by assumption)) | split | dsimp only)

theorem execImad_ok (h : Hdr) (o : I4) (s : State) (hs : MemOk s) : OkO (execImad h o s) := by
  unfold execImad
  with_reducible repeat' (first | assumption | apply ok_of | simp only [ok_mk] | apply int4_ok | apply okO_next | apply okO_fault | apply okO_refused | apply okE_done | apply okE_ctl | apply okE_fault | apply okE_stall | apply okE_pause | apply okE_trap | apply okE_async | apply okE_gone | apply okE_late | intro _ _ _ | intro _ | (refine ok_fst ?_ (by assumption)) | (refine ok_snd ?_ (by assumption)) | (refine okOpt_elim ?_ (by assumption)) | (refine okXS_elim ?_ (by assumption)) | (refine okXS_elimE ?_ (by assumption)) | (refine okXE_elim ?_ (by assumption)) | (refine okXE_elimE ?_ (by assumption)) | (refine okX_elim ?_ (by assumption)) | (refine okO_elim ?_ (by assumption)) | (refine okOptF_elim ?_ (by assumption)) | (refine okOptS_elim ?_ (by assumption)) | (refine okXF_elim ?_ (by assumption)) | (refine okXO_elim ?_ (by assumption)) | split | dsimp only)

theorem execIdiv_ok (h : Hdr) (o : I3) (s : State) (hs : MemOk s) : OkO (execIdiv h o s) := by
  unfold execIdiv
  with_reducible repeat' (first | assumption | apply ok_of | simp only [ok_mk] | apply int3_ok | apply okO_next | apply okO_fault | apply okO_refused | apply okE_done | apply okE_ctl | apply okE_fault | apply okE_stall | apply okE_pause | apply okE_trap | apply okE_async | apply okE_gone | apply okE_late | intro _ _ _ | intro _ | (refine ok_fst ?_ (by assumption)) | (refine ok_snd ?_ (by assumption)) | (refine okOpt_elim ?_ (by assumption)) | (refine okXS_elim ?_ (by assumption)) | (refine okXS_elimE ?_ (by assumption)) | (refine okXE_elim ?_ (by assumption)) | (refine okXE_elimE ?_ (by assumption)) | (refine okX_elim ?_ (by assumption)) | (refine okO_elim ?_ (by assumption)) | (refine okOptF_elim ?_ (by assumption)) | (refine okOptS_elim ?_ (by assumption)) | (refine okXF_elim ?_ (by assumption)) | (refine okXO_elim ?_ (by assumption)) | split | dsimp only)

theorem execIrem_ok (h : Hdr) (o : I3) (s : State) (hs : MemOk s) : OkO (execIrem h o s) := by
  unfold execIrem
  with_reducible repeat' (first | assumption | apply ok_of | simp only [ok_mk] | apply int3_ok | apply okO_next | apply okO_fault | apply okO_refused | apply okE_done | apply okE_ctl | apply okE_fault | apply okE_stall | apply okE_pause | apply okE_trap | apply okE_async | apply okE_gone | apply okE_late | intro _ _ _ | intro _ | (refine ok_fst ?_ (by assumption)) | (refine ok_snd ?_ (by assumption)) | (refine okOpt_elim ?_ (by assumption)) | (refine okXS_elim ?_ (by assumption)) | (refine okXS_elimE ?_ (by assumption)) | (refine okXE_elim ?_ (by assumption)) | (refine okXE_elimE ?_ (by assumption)) | (refine okX_elim ?_ (by assumption)) | (refine okO_elim ?_ (by assumption)) | (refine okOptF_elim ?_ (by assumption)) | (refine okOptS_elim ?_ (by assumption)) | (refine okXF_elim ?_ (by assumption)) | (refine okXO_elim ?_ (by assumption)) | split | dsimp only)

theorem execImin_ok (h : Hdr) (o : I3) (s : State) (hs : MemOk s) : OkO (execImin h o s) := by
  unfold execImin
  with_reducible repeat' (first | assumption | apply ok_of | simp only [ok_mk] | apply int3_ok | apply okO_next | apply okO_fault | apply okO_refused | apply okE_done | apply okE_ctl | apply okE_fault | apply okE_stall | apply okE_pause | apply okE_trap | apply okE_async | apply okE_gone | apply okE_late | intro _ _ _ | intro _ | (refine ok_fst ?_ (by assumption)) | (refine ok_snd ?_ (by assumption)) | (refine okOpt_elim ?_ (by assumption)) | (refine okXS_elim ?_ (by assumption)) | (refine okXS_elimE ?_ (by assumption)) | (refine okXE_elim ?_ (by assumption)) | (refine okXE_elimE ?_ (by assumption)) | (refine okX_elim ?_ (by assumption)) | (refine okO_elim ?_ (by assumption)) | (refine okOptF_elim ?_ (by assumption)) | (refine okOptS_elim ?_ (by assumption)) | (refine okXF_elim ?_ (by assumption)) | (refine okXO_elim ?_ (by assumption)) | split | dsimp only)

theorem execImax_ok (h : Hdr) (o : I3) (s : State) (hs : MemOk s) : OkO (execImax h o s) := by
  unfold execImax
  with_reducible repeat' (first | assumption | apply ok_of | simp only [ok_mk] | apply int3_ok | apply okO_next | apply okO_fault | apply okO_refused | apply okE_done | apply okE_ctl | apply okE_fault | apply okE_stall | apply okE_pause | apply okE_trap | apply okE_async | apply okE_gone | apply okE_late | intro _ _ _ | intro _ | (refine ok_fst ?_ (by assumption)) | (refine ok_snd ?_ (by assumption)) | (refine okOpt_elim ?_ (by assumption)) | (refine okXS_elim ?_ (by assumption)) | (refine okXS_elimE ?_ (by assumption)) | (refine okXE_elim ?_ (by assumption)) | (refine okXE_elimE ?_ (by assumption)) | (refine okX_elim ?_ (by assumption)) | (refine okO_elim ?_ (by assumption)) | (refine okOptF_elim ?_ (by assumption)) | (refine okOptS_elim ?_ (by assumption)) | (refine okXF_elim ?_ (by assumption)) | (refine okXO_elim ?_ (by assumption)) | split | dsimp only)

theorem execIabs_ok (h : Hdr) (o : I2) (s : State) (hs : MemOk s) : OkO (execIabs h o s) := by
  unfold execIabs
  with_reducible repeat' (first | assumption | apply ok_of | simp only [ok_mk] | apply int2_ok | apply okO_next | apply okO_fault | apply okO_refused | apply okE_done | apply okE_ctl | apply okE_fault | apply okE_stall | apply okE_pause | apply okE_trap | apply okE_async | apply okE_gone | apply okE_late | intro _ _ _ | intro _ | (refine ok_fst ?_ (by assumption)) | (refine ok_snd ?_ (by assumption)) | (refine okOpt_elim ?_ (by assumption)) | (refine okXS_elim ?_ (by assumption)) | (refine okXS_elimE ?_ (by assumption)) | (refine okXE_elim ?_ (by assumption)) | (refine okXE_elimE ?_ (by assumption)) | (refine okX_elim ?_ (by assumption)) | (refine okO_elim ?_ (by assumption)) | (refine okOptF_elim ?_ (by assumption)) | (refine okOptS_elim ?_ (by assumption)) | (refine okXF_elim ?_ (by assumption)) | (refine okXO_elim ?_ (by assumption)) | split | dsimp only)

theorem execIneg_ok (h : Hdr) (o : I2) (s : State) (hs : MemOk s) : OkO (execIneg h o s) := by
  unfold execIneg
  with_reducible repeat' (first | assumption | apply ok_of | simp only [ok_mk] | apply int2_ok | apply okO_next | apply okO_fault | apply okO_refused | apply okE_done | apply okE_ctl | apply okE_fault | apply okE_stall | apply okE_pause | apply okE_trap | apply okE_async | apply okE_gone | apply okE_late | intro _ _ _ | intro _ | (refine ok_fst ?_ (by assumption)) | (refine ok_snd ?_ (by assumption)) | (refine okOpt_elim ?_ (by assumption)) | (refine okXS_elim ?_ (by assumption)) | (refine okXS_elimE ?_ (by assumption)) | (refine okXE_elim ?_ (by assumption)) | (refine okXE_elimE ?_ (by assumption)) | (refine okX_elim ?_ (by assumption)) | (refine okO_elim ?_ (by assumption)) | (refine okOptF_elim ?_ (by assumption)) | (refine okOptS_elim ?_ (by assumption)) | (refine okXF_elim ?_ (by assumption)) | (refine okXO_elim ?_ (by assumption)) | split | dsimp only)

theorem execIsadd_ok (h : Hdr) (sub : Bool) (o : I3) (s : State) (hs : MemOk s) : OkO (execIsadd h sub o s) := by
  unfold execIsadd
  with_reducible repeat' (first | assumption | apply ok_of | simp only [ok_mk] | apply int3_ok | apply okO_next | apply okO_fault | apply okO_refused | apply okE_done | apply okE_ctl | apply okE_fault | apply okE_stall | apply okE_pause | apply okE_trap | apply okE_async | apply okE_gone | apply okE_late | intro _ _ _ | intro _ | (refine ok_fst ?_ (by assumption)) | (refine ok_snd ?_ (by assumption)) | (refine okOpt_elim ?_ (by assumption)) | (refine okXS_elim ?_ (by assumption)) | (refine okXS_elimE ?_ (by assumption)) | (refine okXE_elim ?_ (by assumption)) | (refine okXE_elimE ?_ (by assumption)) | (refine okX_elim ?_ (by assumption)) | (refine okO_elim ?_ (by assumption)) | (refine okOptF_elim ?_ (by assumption)) | (refine okOptS_elim ?_ (by assumption)) | (refine okXF_elim ?_ (by assumption)) | (refine okXO_elim ?_ (by assumption)) | split | dsimp only)

theorem execLop3_ok (h : Hdr) (lut : BitVec 8) (o : I4) (s : State) (hs : MemOk s) : OkO (execLop3 h lut o s) := by
  unfold execLop3
  with_reducible repeat' (first | assumption | apply ok_of | simp only [ok_mk] | apply int4_ok | apply okO_next | apply okO_fault | apply okO_refused | apply okE_done | apply okE_ctl | apply okE_fault | apply okE_stall | apply okE_pause | apply okE_trap | apply okE_async | apply okE_gone | apply okE_late | intro _ _ _ | intro _ | (refine ok_fst ?_ (by assumption)) | (refine ok_snd ?_ (by assumption)) | (refine okOpt_elim ?_ (by assumption)) | (refine okXS_elim ?_ (by assumption)) | (refine okXS_elimE ?_ (by assumption)) | (refine okXE_elim ?_ (by assumption)) | (refine okXE_elimE ?_ (by assumption)) | (refine okX_elim ?_ (by assumption)) | (refine okO_elim ?_ (by assumption)) | (refine okOptF_elim ?_ (by assumption)) | (refine okOptS_elim ?_ (by assumption)) | (refine okXF_elim ?_ (by assumption)) | (refine okXO_elim ?_ (by assumption)) | split | dsimp only)

theorem execAndB_ok (h : Hdr) (o : I3) (s : State) (hs : MemOk s) : OkO (execAndB h o s) := by
  unfold execAndB
  with_reducible repeat' (first | assumption | apply ok_of | simp only [ok_mk] | apply int3_ok | apply okO_next | apply okO_fault | apply okO_refused | apply okE_done | apply okE_ctl | apply okE_fault | apply okE_stall | apply okE_pause | apply okE_trap | apply okE_async | apply okE_gone | apply okE_late | intro _ _ _ | intro _ | (refine ok_fst ?_ (by assumption)) | (refine ok_snd ?_ (by assumption)) | (refine okOpt_elim ?_ (by assumption)) | (refine okXS_elim ?_ (by assumption)) | (refine okXS_elimE ?_ (by assumption)) | (refine okXE_elim ?_ (by assumption)) | (refine okXE_elimE ?_ (by assumption)) | (refine okX_elim ?_ (by assumption)) | (refine okO_elim ?_ (by assumption)) | (refine okOptF_elim ?_ (by assumption)) | (refine okOptS_elim ?_ (by assumption)) | (refine okXF_elim ?_ (by assumption)) | (refine okXO_elim ?_ (by assumption)) | split | dsimp only)

theorem execOrB_ok (h : Hdr) (o : I3) (s : State) (hs : MemOk s) : OkO (execOrB h o s) := by
  unfold execOrB
  with_reducible repeat' (first | assumption | apply ok_of | simp only [ok_mk] | apply int3_ok | apply okO_next | apply okO_fault | apply okO_refused | apply okE_done | apply okE_ctl | apply okE_fault | apply okE_stall | apply okE_pause | apply okE_trap | apply okE_async | apply okE_gone | apply okE_late | intro _ _ _ | intro _ | (refine ok_fst ?_ (by assumption)) | (refine ok_snd ?_ (by assumption)) | (refine okOpt_elim ?_ (by assumption)) | (refine okXS_elim ?_ (by assumption)) | (refine okXS_elimE ?_ (by assumption)) | (refine okXE_elim ?_ (by assumption)) | (refine okXE_elimE ?_ (by assumption)) | (refine okX_elim ?_ (by assumption)) | (refine okO_elim ?_ (by assumption)) | (refine okOptF_elim ?_ (by assumption)) | (refine okOptS_elim ?_ (by assumption)) | (refine okXF_elim ?_ (by assumption)) | (refine okXO_elim ?_ (by assumption)) | split | dsimp only)

theorem execXorB_ok (h : Hdr) (o : I3) (s : State) (hs : MemOk s) : OkO (execXorB h o s) := by
  unfold execXorB
  with_reducible repeat' (first | assumption | apply ok_of | simp only [ok_mk] | apply int3_ok | apply okO_next | apply okO_fault | apply okO_refused | apply okE_done | apply okE_ctl | apply okE_fault | apply okE_stall | apply okE_pause | apply okE_trap | apply okE_async | apply okE_gone | apply okE_late | intro _ _ _ | intro _ | (refine ok_fst ?_ (by assumption)) | (refine ok_snd ?_ (by assumption)) | (refine okOpt_elim ?_ (by assumption)) | (refine okXS_elim ?_ (by assumption)) | (refine okXS_elimE ?_ (by assumption)) | (refine okXE_elim ?_ (by assumption)) | (refine okXE_elimE ?_ (by assumption)) | (refine okX_elim ?_ (by assumption)) | (refine okO_elim ?_ (by assumption)) | (refine okOptF_elim ?_ (by assumption)) | (refine okOptS_elim ?_ (by assumption)) | (refine okXF_elim ?_ (by assumption)) | (refine okXO_elim ?_ (by assumption)) | split | dsimp only)

theorem execShl_ok (h : Hdr) (o : I2) (n : ShAmt) (s : State) (hs : MemOk s) : OkO (execShl h o n s) := by
  unfold execShl
  with_reducible repeat' (first | assumption | apply ok_of | simp only [ok_mk] | apply intShift_ok | apply okO_next | apply okO_fault | apply okO_refused | apply okE_done | apply okE_ctl | apply okE_fault | apply okE_stall | apply okE_pause | apply okE_trap | apply okE_async | apply okE_gone | apply okE_late | intro _ _ _ | intro _ | (refine ok_fst ?_ (by assumption)) | (refine ok_snd ?_ (by assumption)) | (refine okOpt_elim ?_ (by assumption)) | (refine okXS_elim ?_ (by assumption)) | (refine okXS_elimE ?_ (by assumption)) | (refine okXE_elim ?_ (by assumption)) | (refine okXE_elimE ?_ (by assumption)) | (refine okX_elim ?_ (by assumption)) | (refine okO_elim ?_ (by assumption)) | (refine okOptF_elim ?_ (by assumption)) | (refine okOptS_elim ?_ (by assumption)) | (refine okXF_elim ?_ (by assumption)) | (refine okXO_elim ?_ (by assumption)) | split | dsimp only)

theorem execShr_ok (h : Hdr) (o : I2) (n : ShAmt) (s : State) (hs : MemOk s) : OkO (execShr h o n s) := by
  unfold execShr
  with_reducible repeat' (first | assumption | apply ok_of | simp only [ok_mk] | apply intShift_ok | apply okO_next | apply okO_fault | apply okO_refused | apply okE_done | apply okE_ctl | apply okE_fault | apply okE_stall | apply okE_pause | apply okE_trap | apply okE_async | apply okE_gone | apply okE_late | intro _ _ _ | intro _ | (refine ok_fst ?_ (by assumption)) | (refine ok_snd ?_ (by assumption)) | (refine okOpt_elim ?_ (by assumption)) | (refine okXS_elim ?_ (by assumption)) | (refine okXS_elimE ?_ (by assumption)) | (refine okXE_elim ?_ (by assumption)) | (refine okXE_elimE ?_ (by assumption)) | (refine okX_elim ?_ (by assumption)) | (refine okO_elim ?_ (by assumption)) | (refine okOptF_elim ?_ (by assumption)) | (refine okOptS_elim ?_ (by assumption)) | (refine okXF_elim ?_ (by assumption)) | (refine okXO_elim ?_ (by assumption)) | split | dsimp only)

theorem execSar_ok (h : Hdr) (o : I2) (n : ShAmt) (s : State) (hs : MemOk s) : OkO (execSar h o n s) := by
  unfold execSar
  with_reducible repeat' (first | assumption | apply ok_of | simp only [ok_mk] | apply intShift_ok | apply okO_next | apply okO_fault | apply okO_refused | apply okE_done | apply okE_ctl | apply okE_fault | apply okE_stall | apply okE_pause | apply okE_trap | apply okE_async | apply okE_gone | apply okE_late | intro _ _ _ | intro _ | (refine ok_fst ?_ (by assumption)) | (refine ok_snd ?_ (by assumption)) | (refine okOpt_elim ?_ (by assumption)) | (refine okXS_elim ?_ (by assumption)) | (refine okXS_elimE ?_ (by assumption)) | (refine okXE_elim ?_ (by assumption)) | (refine okXE_elimE ?_ (by assumption)) | (refine okX_elim ?_ (by assumption)) | (refine okO_elim ?_ (by assumption)) | (refine okOptF_elim ?_ (by assumption)) | (refine okOptS_elim ?_ (by assumption)) | (refine okXF_elim ?_ (by assumption)) | (refine okXO_elim ?_ (by assumption)) | split | dsimp only)

theorem execRot_ok (h : Hdr) (right : Bool) (o : I2) (n : ShAmt) (s : State) (hs : MemOk s) : OkO (execRot h right o n s) := by
  unfold execRot
  with_reducible repeat' (first | assumption | apply ok_of | simp only [ok_mk] | apply intShift_ok | apply okO_next | apply okO_fault | apply okO_refused | apply okE_done | apply okE_ctl | apply okE_fault | apply okE_stall | apply okE_pause | apply okE_trap | apply okE_async | apply okE_gone | apply okE_late | intro _ _ _ | intro _ | (refine ok_fst ?_ (by assumption)) | (refine ok_snd ?_ (by assumption)) | (refine okOpt_elim ?_ (by assumption)) | (refine okXS_elim ?_ (by assumption)) | (refine okXS_elimE ?_ (by assumption)) | (refine okXE_elim ?_ (by assumption)) | (refine okXE_elimE ?_ (by assumption)) | (refine okX_elim ?_ (by assumption)) | (refine okO_elim ?_ (by assumption)) | (refine okOptF_elim ?_ (by assumption)) | (refine okOptS_elim ?_ (by assumption)) | (refine okXF_elim ?_ (by assumption)) | (refine okXO_elim ?_ (by assumption)) | split | dsimp only)

theorem execBfx_ok (h : Hdr) (o : I3) (s : State) (hs : MemOk s) : OkO (execBfx h o s) := by
  unfold execBfx
  with_reducible repeat' (first | assumption | apply ok_of | simp only [ok_mk] | apply aluWord_ok | apply okO_next | apply okO_fault | apply okO_refused | apply okE_done | apply okE_ctl | apply okE_fault | apply okE_stall | apply okE_pause | apply okE_trap | apply okE_async | apply okE_gone | apply okE_late | intro _ _ _ | intro _ | (refine ok_fst ?_ (by assumption)) | (refine ok_snd ?_ (by assumption)) | (refine okOpt_elim ?_ (by assumption)) | (refine okXS_elim ?_ (by assumption)) | (refine okXS_elimE ?_ (by assumption)) | (refine okXE_elim ?_ (by assumption)) | (refine okXE_elimE ?_ (by assumption)) | (refine okX_elim ?_ (by assumption)) | (refine okO_elim ?_ (by assumption)) | (refine okOptF_elim ?_ (by assumption)) | (refine okOptS_elim ?_ (by assumption)) | (refine okXF_elim ?_ (by assumption)) | (refine okXO_elim ?_ (by assumption)) | split | dsimp only)

theorem execBfi_ok (h : Hdr) (o : I4) (s : State) (hs : MemOk s) : OkO (execBfi h o s) := by
  unfold execBfi
  with_reducible repeat' (first | assumption | apply ok_of | simp only [ok_mk] | apply aluWord_ok | apply okO_next | apply okO_fault | apply okO_refused | apply okE_done | apply okE_ctl | apply okE_fault | apply okE_stall | apply okE_pause | apply okE_trap | apply okE_async | apply okE_gone | apply okE_late | intro _ _ _ | intro _ | (refine ok_fst ?_ (by assumption)) | (refine ok_snd ?_ (by assumption)) | (refine okOpt_elim ?_ (by assumption)) | (refine okXS_elim ?_ (by assumption)) | (refine okXS_elimE ?_ (by assumption)) | (refine okXE_elim ?_ (by assumption)) | (refine okXE_elimE ?_ (by assumption)) | (refine okX_elim ?_ (by assumption)) | (refine okO_elim ?_ (by assumption)) | (refine okOptF_elim ?_ (by assumption)) | (refine okOptS_elim ?_ (by assumption)) | (refine okXF_elim ?_ (by assumption)) | (refine okXO_elim ?_ (by assumption)) | split | dsimp only)

theorem execPopc_ok (h : Hdr) (o : I2) (s : State) (hs : MemOk s) : OkO (execPopc h o s) := by
  unfold execPopc
  with_reducible repeat' (first | assumption | apply ok_of | simp only [ok_mk] | apply int2_ok | apply okO_next | apply okO_fault | apply okO_refused | apply okE_done | apply okE_ctl | apply okE_fault | apply okE_stall | apply okE_pause | apply okE_trap | apply okE_async | apply okE_gone | apply okE_late | intro _ _ _ | intro _ | (refine ok_fst ?_ (by assumption)) | (refine ok_snd ?_ (by assumption)) | (refine okOpt_elim ?_ (by assumption)) | (refine okXS_elim ?_ (by assumption)) | (refine okXS_elimE ?_ (by assumption)) | (refine okXE_elim ?_ (by assumption)) | (refine okXE_elimE ?_ (by assumption)) | (refine okX_elim ?_ (by assumption)) | (refine okO_elim ?_ (by assumption)) | (refine okOptF_elim ?_ (by assumption)) | (refine okOptS_elim ?_ (by assumption)) | (refine okXF_elim ?_ (by assumption)) | (refine okXO_elim ?_ (by assumption)) | split | dsimp only)

theorem execClz_ok (h : Hdr) (o : I2) (s : State) (hs : MemOk s) : OkO (execClz h o s) := by
  unfold execClz
  with_reducible repeat' (first | assumption | apply ok_of | simp only [ok_mk] | apply int2_ok | apply okO_next | apply okO_fault | apply okO_refused | apply okE_done | apply okE_ctl | apply okE_fault | apply okE_stall | apply okE_pause | apply okE_trap | apply okE_async | apply okE_gone | apply okE_late | intro _ _ _ | intro _ | (refine ok_fst ?_ (by assumption)) | (refine ok_snd ?_ (by assumption)) | (refine okOpt_elim ?_ (by assumption)) | (refine okXS_elim ?_ (by assumption)) | (refine okXS_elimE ?_ (by assumption)) | (refine okXE_elim ?_ (by assumption)) | (refine okXE_elimE ?_ (by assumption)) | (refine okX_elim ?_ (by assumption)) | (refine okO_elim ?_ (by assumption)) | (refine okOptF_elim ?_ (by assumption)) | (refine okOptS_elim ?_ (by assumption)) | (refine okXF_elim ?_ (by assumption)) | (refine okXO_elim ?_ (by assumption)) | split | dsimp only)

theorem execBrev_ok (h : Hdr) (o : I2) (s : State) (hs : MemOk s) : OkO (execBrev h o s) := by
  unfold execBrev
  with_reducible repeat' (first | assumption | apply ok_of | simp only [ok_mk] | apply int2_ok | apply okO_next | apply okO_fault | apply okO_refused | apply okE_done | apply okE_ctl | apply okE_fault | apply okE_stall | apply okE_pause | apply okE_trap | apply okE_async | apply okE_gone | apply okE_late | intro _ _ _ | intro _ | (refine ok_fst ?_ (by assumption)) | (refine ok_snd ?_ (by assumption)) | (refine okOpt_elim ?_ (by assumption)) | (refine okXS_elim ?_ (by assumption)) | (refine okXS_elimE ?_ (by assumption)) | (refine okXE_elim ?_ (by assumption)) | (refine okXE_elimE ?_ (by assumption)) | (refine okX_elim ?_ (by assumption)) | (refine okO_elim ?_ (by assumption)) | (refine okOptF_elim ?_ (by assumption)) | (refine okOptS_elim ?_ (by assumption)) | (refine okXF_elim ?_ (by assumption)) | (refine okXO_elim ?_ (by assumption)) | split | dsimp only)

theorem execIcmp_ok (h : Hdr) (k : Bool) (sb : Bool) (ty : ITy) (cmp : ICmp) (bop : BOp) (pd : PReg) (a : Reg) (b : Reg) (pc : PReg) (s : State) (hs : MemOk s) : OkO (execIcmp h k sb ty cmp bop pd a b pc s) := by
  unfold execIcmp
  with_reducible repeat' (first | assumption | apply ok_of | simp only [ok_mk] | apply aluWord_ok | apply okO_next | apply okO_fault | apply okO_refused | apply okE_done | apply okE_ctl | apply okE_fault | apply okE_stall | apply okE_pause | apply okE_trap | apply okE_async | apply okE_gone | apply okE_late | intro _ _ _ | intro _ | (refine ok_fst ?_ (by assumption)) | (refine ok_snd ?_ (by assumption)) | (refine okOpt_elim ?_ (by assumption)) | (refine okXS_elim ?_ (by assumption)) | (refine okXS_elimE ?_ (by assumption)) | (refine okXE_elim ?_ (by assumption)) | (refine okXE_elimE ?_ (by assumption)) | (refine okX_elim ?_ (by assumption)) | (refine okO_elim ?_ (by assumption)) | (refine okOptF_elim ?_ (by assumption)) | (refine okOptS_elim ?_ (by assumption)) | (refine okXF_elim ?_ (by assumption)) | (refine okXO_elim ?_ (by assumption)) | split | dsimp only)

theorem execSel_ok (h : Hdr) (sb : Bool) (ty : ITy) (d : Reg) (a : Reg) (b : Reg) (pc : PReg) (s : State) (hs : MemOk s) : OkO (execSel h sb ty d a b pc s) := by
  unfold execSel
  with_reducible repeat' (first | assumption | apply ok_of | simp only [ok_mk] | apply aluWord_ok | apply okO_next | apply okO_fault | apply okO_refused | apply okE_done | apply okE_ctl | apply okE_fault | apply okE_stall | apply okE_pause | apply okE_trap | apply okE_async | apply okE_gone | apply okE_late | intro _ _ _ | intro _ | (refine ok_fst ?_ (by assumption)) | (refine ok_snd ?_ (by assumption)) | (refine okOpt_elim ?_ (by assumption)) | (refine okXS_elim ?_ (by assumption)) | (refine okXS_elimE ?_ (by assumption)) | (refine okXE_elim ?_ (by assumption)) | (refine okXE_elimE ?_ (by assumption)) | (refine okX_elim ?_ (by assumption)) | (refine okO_elim ?_ (by assumption)) | (refine okOptF_elim ?_ (by assumption)) | (refine okOptS_elim ?_ (by assumption)) | (refine okXF_elim ?_ (by assumption)) | (refine okXO_elim ?_ (by assumption)) | split | dsimp only)

theorem execLea_ok (h : Hdr) (k : Bool) (sb : Bool) (sx : Bool) (sh : BitVec 3) (d : Reg) (a : Reg) (b : Reg) (s : State) (hs : MemOk s) : OkO (execLea h k sb sx sh d a b s) := by
  unfold execLea
  with_reducible repeat' (first | assumption | apply ok_of | simp only [ok_mk] | apply aluWord_ok | apply okO_next | apply okO_fault | apply okO_refused | apply okE_done | apply okE_ctl | apply okE_fault | apply okE_stall | apply okE_pause | apply okE_trap | apply okE_async | apply okE_gone | apply okE_late | apply ok_ite | intro _ _ _ | intro _ | (refine ok_fst ?_ (by assumption)) | (refine ok_snd ?_ (by assumption)) | (refine okOpt_elim ?_ (by assumption)) | (refine okXS_elim ?_ (by assumption)) | (refine okXS_elimE ?_ (by assumption)) | (refine okXE_elim ?_ (by assumption)) | (refine okXE_elimE ?_ (by assumption)) | (refine okX_elim ?_ (by assumption)) | (refine okO_elim ?_ (by assumption)) | (refine okOptF_elim ?_ (by assumption)) | (refine okOptS_elim ?_ (by assumption)) | (refine okXF_elim ?_ (by assumption)) | (refine okXO_elim ?_ (by assumption)) | split | dsimp only)

theorem flt2_ok (s : State) (h : Hdr) (lat : Lat) (o : F2) (f : W32 → W32 × Fl) (hs : MemOk s) : OkO (flt2 s h lat o f) := by
  unfold flt2
  with_reducible repeat' (first | assumption | apply ok_of | simp only [ok_mk] | apply aluWord_ok | apply okO_next | apply okO_fault | apply okO_refused | apply okE_done | apply okE_ctl | apply okE_fault | apply okE_stall | apply okE_pause | apply okE_trap | apply okE_async | apply okE_gone | apply okE_late | intro _ _ _ | intro _ | (refine ok_fst ?_ (by assumption)) | (refine ok_snd ?_ (by assumption)) | (refine okOpt_elim ?_ (by assumption)) | (refine okXS_elim ?_ (by assumption)) | (refine okXS_elimE ?_ (by assumption)) | (refine okXE_elim ?_ (by assumption)) | (refine okXE_elimE ?_ (by assumption)) | (refine okX_elim ?_ (by assumption)) | (refine okO_elim ?_ (by assumption)) | (refine okOptF_elim ?_ (by assumption)) | (refine okOptS_elim ?_ (by assumption)) | (refine okXF_elim ?_ (by assumption)) | (refine okXO_elim ?_ (by assumption)) | split | dsimp only)

theorem flt3_ok (s : State) (h : Hdr) (lat : Lat) (o : F3) (f : W32 → W32 → W32 × Fl) (hs : MemOk s) : OkO (flt3 s h lat o f) := by
  unfold flt3
  with_reducible repeat' (first | assumption | apply ok_of | simp only [ok_mk] | apply aluWord_ok | apply okO_next | apply okO_fault | apply okO_refused | apply okE_done | apply okE_ctl | apply okE_fault | apply okE_stall | apply okE_pause | apply okE_trap | apply okE_async | apply okE_gone | apply okE_late | intro _ _ _ | intro _ | (refine ok_fst ?_ (by assumption)) | (refine ok_snd ?_ (by assumption)) | (refine okOpt_elim ?_ (by assumption)) | (refine okXS_elim ?_ (by assumption)) | (refine okXS_elimE ?_ (by assumption)) | (refine okXE_elim ?_ (by assumption)) | (refine okXE_elimE ?_ (by assumption)) | (refine okX_elim ?_ (by assumption)) | (refine okO_elim ?_ (by assumption)) | (refine okOptF_elim ?_ (by assumption)) | (refine okOptS_elim ?_ (by assumption)) | (refine okXF_elim ?_ (by assumption)) | (refine okXO_elim ?_ (by assumption)) | split | dsimp only)

theorem flt4_ok (s : State) (h : Hdr) (lat : Lat) (o : F4) (f : W32 → W32 → W32 → W32 × Fl) (hs : MemOk s) : OkO (flt4 s h lat o f) := by
  unfold flt4
  with_reducible repeat' (first | assumption | apply ok_of | simp only [ok_mk] | apply aluWord_ok | apply okO_next | apply okO_fault | apply okO_refused | apply okE_done | apply okE_ctl | apply okE_fault | apply okE_stall | apply okE_pause | apply okE_trap | apply okE_async | apply okE_gone | apply okE_late | intro _ _ _ | intro _ | (refine ok_fst ?_ (by assumption)) | (refine ok_snd ?_ (by assumption)) | (refine okOpt_elim ?_ (by assumption)) | (refine okXS_elim ?_ (by assumption)) | (refine okXS_elimE ?_ (by assumption)) | (refine okXE_elim ?_ (by assumption)) | (refine okXE_elimE ?_ (by assumption)) | (refine okX_elim ?_ (by assumption)) | (refine okO_elim ?_ (by assumption)) | (refine okOptF_elim ?_ (by assumption)) | (refine okOptS_elim ?_ (by assumption)) | (refine okXF_elim ?_ (by assumption)) | (refine okXO_elim ?_ (by assumption)) | split | dsimp only)

theorem pair3_ok (s : State) (h : Hdr) (o : F3) (f : Nat → Nat → Nat × Fl) (hs : MemOk s) : OkO (pair3 s h o f) := by
  unfold pair3
  with_reducible repeat' (first | assumption | apply ok_of | simp only [ok_mk] | apply flt3_ok | apply okO_next | apply okO_fault | apply okO_refused | apply okE_done | apply okE_ctl | apply okE_fault | apply okE_stall | apply okE_pause | apply okE_trap | apply okE_async | apply okE_gone | apply okE_late | intro _ _ _ | intro _ | (refine ok_fst ?_ (by assumption)) | (refine ok_snd ?_ (by assumption)) | (refine okOpt_elim ?_ (by assumption)) | (refine okXS_elim ?_ (by assumption)) | (refine okXS_elimE ?_ (by assumption)) | (refine okXE_elim ?_ (by assumption)) | (refine okXE_elimE ?_ (by assumption)) | (refine okX_elim ?_ (by assumption)) | (refine okO_elim ?_ (by assumption)) | (refine okOptF_elim ?_ (by assumption)) | (refine okOptS_elim ?_ (by assumption)) | (refine okXF_elim ?_ (by assumption)) | (refine okXO_elim ?_ (by assumption)) | split | dsimp only)

theorem cvtWord_ok (s : State) (h : Hdr) (us : List Use) (flg : Bool) (k : Bool) (ok : Group → Bool) (f : Group → Nat → List RegWrite × Fl) (hs : MemOk s) : OkO (cvtWord s h us flg k ok f) := by
  unfold cvtWord
  with_reducible repeat' (first | assumption | apply ok_of | simp only [ok_mk] | apply issue_ok | apply okO_next | apply okO_fault | apply okO_refused | apply okE_done | apply okE_ctl | apply okE_fault | apply okE_stall | apply okE_pause | apply okE_trap | apply okE_async | apply okE_gone | apply okE_late | apply ok_ite | intro _ _ _ | intro _ | (refine ok_fst ?_ (by assumption)) | (refine ok_snd ?_ (by assumption)) | (refine okOpt_elim ?_ (by assumption)) | (refine okXS_elim ?_ (by assumption)) | (refine okXS_elimE ?_ (by assumption)) | (refine okXE_elim ?_ (by assumption)) | (refine okXE_elimE ?_ (by assumption)) | (refine okX_elim ?_ (by assumption)) | (refine okO_elim ?_ (by assumption)) | (refine okOptF_elim ?_ (by assumption)) | (refine okOptS_elim ?_ (by assumption)) | (refine okXF_elim ?_ (by assumption)) | (refine okXO_elim ?_ (by assumption)) | split | dsimp only)

theorem special_ok (s : State) (h : Hdr) (f : Num.SFn) (ftz : Bool) (d : Reg) (a : Reg) (hs : MemOk s) : OkO (special s h f ftz d a) := by
  unfold special
  with_reducible repeat' (first | assumption | apply ok_of | simp only [ok_mk] | apply aluWord_ok | apply okO_next | apply okO_fault | apply okO_refused | apply okE_done | apply okE_ctl | apply okE_fault | apply okE_stall | apply okE_pause | apply okE_trap | apply okE_async | apply okE_gone | apply okE_late | intro _ _ _ | intro _ | (refine ok_fst ?_ (by assumption)) | (refine ok_snd ?_ (by assumption)) | (refine okOpt_elim ?_ (by assumption)) | (refine okXS_elim ?_ (by assumption)) | (refine okXS_elimE ?_ (by assumption)) | (refine okXE_elim ?_ (by assumption)) | (refine okXE_elimE ?_ (by assumption)) | (refine okX_elim ?_ (by assumption)) | (refine okO_elim ?_ (by assumption)) | (refine okOptF_elim ?_ (by assumption)) | (refine okOptS_elim ?_ (by assumption)) | (refine okXF_elim ?_ (by assumption)) | (refine okXO_elim ?_ (by assumption)) | split | dsimp only)

theorem execFadd_ok (h : Hdr) (o : F3) (s : State) (hs : MemOk s) : OkO (execFadd h o s) := by
  unfold execFadd
  with_reducible repeat' (first | assumption | apply ok_of | simp only [ok_mk] | apply flt3_ok | apply okO_next | apply okO_fault | apply okO_refused | apply okE_done | apply okE_ctl | apply okE_fault | apply okE_stall | apply okE_pause | apply okE_trap | apply okE_async | apply okE_gone | apply okE_late | intro _ _ _ | intro _ | (refine ok_fst ?_ (by assumption)) | (refine ok_snd ?_ (by assumption)) | (refine okOpt_elim ?_ (by assumption)) | (refine okXS_elim ?_ (by assumption)) | (refine okXS_elimE ?_ (by assumption)) | (refine okXE_elim ?_ (by assumption)) | (refine okXE_elimE ?_ (by assumption)) | (refine okX_elim ?_ (by assumption)) | (refine okO_elim ?_ (by assumption)) | (refine okOptF_elim ?_ (by assumption)) | (refine okOptS_elim ?_ (by assumption)) | (refine okXF_elim ?_ (by assumption)) | (refine okXO_elim ?_ (by assumption)) | split | dsimp only)

theorem execFsub_ok (h : Hdr) (o : F3) (s : State) (hs : MemOk s) : OkO (execFsub h o s) := by
  unfold execFsub
  with_reducible repeat' (first | assumption | apply ok_of | simp only [ok_mk] | apply flt3_ok | apply okO_next | apply okO_fault | apply okO_refused | apply okE_done | apply okE_ctl | apply okE_fault | apply okE_stall | apply okE_pause | apply okE_trap | apply okE_async | apply okE_gone | apply okE_late | intro _ _ _ | intro _ | (refine ok_fst ?_ (by assumption)) | (refine ok_snd ?_ (by assumption)) | (refine okOpt_elim ?_ (by assumption)) | (refine okXS_elim ?_ (by assumption)) | (refine okXS_elimE ?_ (by assumption)) | (refine okXE_elim ?_ (by assumption)) | (refine okXE_elimE ?_ (by assumption)) | (refine okX_elim ?_ (by assumption)) | (refine okO_elim ?_ (by assumption)) | (refine okOptF_elim ?_ (by assumption)) | (refine okOptS_elim ?_ (by assumption)) | (refine okXF_elim ?_ (by assumption)) | (refine okXO_elim ?_ (by assumption)) | split | dsimp only)

theorem execFmul_ok (h : Hdr) (o : F3) (s : State) (hs : MemOk s) : OkO (execFmul h o s) := by
  unfold execFmul
  with_reducible repeat' (first | assumption | apply ok_of | simp only [ok_mk] | apply flt3_ok | apply okO_next | apply okO_fault | apply okO_refused | apply okE_done | apply okE_ctl | apply okE_fault | apply okE_stall | apply okE_pause | apply okE_trap | apply okE_async | apply okE_gone | apply okE_late | intro _ _ _ | intro _ | (refine ok_fst ?_ (by assumption)) | (refine ok_snd ?_ (by assumption)) | (refine okOpt_elim ?_ (by assumption)) | (refine okXS_elim ?_ (by assumption)) | (refine okXS_elimE ?_ (by assumption)) | (refine okXE_elim ?_ (by assumption)) | (refine okXE_elimE ?_ (by assumption)) | (refine okX_elim ?_ (by assumption)) | (refine okO_elim ?_ (by assumption)) | (refine okOptF_elim ?_ (by assumption)) | (refine okOptS_elim ?_ (by assumption)) | (refine okXF_elim ?_ (by assumption)) | (refine okXO_elim ?_ (by assumption)) | split | dsimp only)

theorem execFfma_ok (h : Hdr) (o : F4) (s : State) (hs : MemOk s) : OkO (execFfma h o s) := by
  unfold execFfma
  with_reducible repeat' (first | assumption | apply ok_of | simp only [ok_mk] | apply flt4_ok | apply okO_next | apply okO_fault | apply okO_refused | apply okE_done | apply okE_ctl | apply okE_fault | apply okE_stall | apply okE_pause | apply okE_trap | apply okE_async | apply okE_gone | apply okE_late | intro _ _ _ | intro _ | (refine ok_fst ?_ (by assumption)) | (refine ok_snd ?_ (by assumption)) | (refine okOpt_elim ?_ (by assumption)) | (refine okXS_elim ?_ (by assumption)) | (refine okXS_elimE ?_ (by assumption)) | (refine okXE_elim ?_ (by assumption)) | (refine okXE_elimE ?_ (by assumption)) | (refine okX_elim ?_ (by assumption)) | (refine okO_elim ?_ (by assumption)) | (refine okOptF_elim ?_ (by assumption)) | (refine okOptS_elim ?_ (by assumption)) | (refine okXF_elim ?_ (by assumption)) | (refine okXO_elim ?_ (by assumption)) | split | dsimp only)

theorem execFfms_ok (h : Hdr) (o : F4) (s : State) (hs : MemOk s) : OkO (execFfms h o s) := by
  unfold execFfms
  with_reducible repeat' (first | assumption | apply ok_of | simp only [ok_mk] | apply flt4_ok | apply okO_next | apply okO_fault | apply okO_refused | apply okE_done | apply okE_ctl | apply okE_fault | apply okE_stall | apply okE_pause | apply okE_trap | apply okE_async | apply okE_gone | apply okE_late | intro _ _ _ | intro _ | (refine ok_fst ?_ (by assumption)) | (refine ok_snd ?_ (by assumption)) | (refine okOpt_elim ?_ (by assumption)) | (refine okXS_elim ?_ (by assumption)) | (refine okXS_elimE ?_ (by assumption)) | (refine okXE_elim ?_ (by assumption)) | (refine okXE_elimE ?_ (by assumption)) | (refine okX_elim ?_ (by assumption)) | (refine okO_elim ?_ (by assumption)) | (refine okOptF_elim ?_ (by assumption)) | (refine okOptS_elim ?_ (by assumption)) | (refine okXF_elim ?_ (by assumption)) | (refine okXO_elim ?_ (by assumption)) | split | dsimp only)

theorem execFmin_ok (h : Hdr) (k : Bool) (sb : Bool) (ftz : Bool) (d : Reg) (a : Reg) (b : Reg) (s : State) (hs : MemOk s) : OkO (execFmin h k sb ftz d a b s) := by
  unfold execFmin
  with_reducible repeat' (first | assumption | apply ok_of | simp only [ok_mk] | apply flt3_ok | apply okO_next | apply okO_fault | apply okO_refused | apply okE_done | apply okE_ctl | apply okE_fault | apply okE_stall | apply okE_pause | apply okE_trap | apply okE_async | apply okE_gone | apply okE_late | intro _ _ _ | intro _ | (refine ok_fst ?_ (by assumption)) | (refine ok_snd ?_ (by assumption)) | (refine okOpt_elim ?_ (by assumption)) | (refine okXS_elim ?_ (by assumption)) | (refine okXS_elimE ?_ (by assumption)) | (refine okXE_elim ?_ (by assumption)) | (refine okXE_elimE ?_ (by assumption)) | (refine okX_elim ?_ (by assumption)) | (refine okO_elim ?_ (by assumption)) | (refine okOptF_elim ?_ (by assumption)) | (refine okOptS_elim ?_ (by assumption)) | (refine okXF_elim ?_ (by assumption)) | (refine okXO_elim ?_ (by assumption)) | split | dsimp only)

theorem execFmax_ok (h : Hdr) (k : Bool) (sb : Bool) (ftz : Bool) (d : Reg) (a : Reg) (b : Reg) (s : State) (hs : MemOk s) : OkO (execFmax h k sb ftz d a b s) := by
  unfold execFmax
  with_reducible repeat' (first | assumption | apply ok_of | simp only [ok_mk] | apply flt3_ok | apply okO_next | apply okO_fault | apply okO_refused | apply okE_done | apply okE_ctl | apply okE_fault | apply okE_stall | apply okE_pause | apply okE_trap | apply okE_async | apply okE_gone | apply okE_late | intro _ _ _ | intro _ | (refine ok_fst ?_ (by assumption)) | (refine ok_snd ?_ (by assumption)) | (refine okOpt_elim ?_ (by assumption)) | (refine okXS_elim ?_ (by assumption)) | (refine okXS_elimE ?_ (by assumption)) | (refine okXE_elim ?_ (by assumption)) | (refine okXE_elimE ?_ (by assumption)) | (refine okX_elim ?_ (by assumption)) | (refine okO_elim ?_ (by assumption)) | (refine okOptF_elim ?_ (by assumption)) | (refine okOptS_elim ?_ (by assumption)) | (refine okXF_elim ?_ (by assumption)) | (refine okXO_elim ?_ (by assumption)) | split | dsimp only)

theorem execFabs_ok (h : Hdr) (k : Bool) (d : Reg) (a : Reg) (s : State) (hs : MemOk s) : OkO (execFabs h k d a s) := by
  unfold execFabs
  with_reducible repeat' (first | assumption | apply ok_of | simp only [ok_mk] | apply flt2_ok | apply okO_next | apply okO_fault | apply okO_refused | apply okE_done | apply okE_ctl | apply okE_fault | apply okE_stall | apply okE_pause | apply okE_trap | apply okE_async | apply okE_gone | apply okE_late | intro _ _ _ | intro _ | (refine ok_fst ?_ (by assumption)) | (refine ok_snd ?_ (by assumption)) | (refine okOpt_elim ?_ (by assumption)) | (refine okXS_elim ?_ (by assumption)) | (refine okXS_elimE ?_ (by assumption)) | (refine okXE_elim ?_ (by assumption)) | (refine okXE_elimE ?_ (by assumption)) | (refine okX_elim ?_ (by assumption)) | (refine okO_elim ?_ (by assumption)) | (refine okOptF_elim ?_ (by assumption)) | (refine okOptS_elim ?_ (by assumption)) | (refine okXF_elim ?_ (by assumption)) | (refine okXO_elim ?_ (by assumption)) | split | dsimp only)

theorem execFneg_ok (h : Hdr) (k : Bool) (d : Reg) (a : Reg) (s : State) (hs : MemOk s) : OkO (execFneg h k d a s) := by
  unfold execFneg
  with_reducible repeat' (first | assumption | apply ok_of | simp only [ok_mk] | apply flt2_ok | apply okO_next | apply okO_fault | apply okO_refused | apply okE_done | apply okE_ctl | apply okE_fault | apply okE_stall | apply okE_pause | apply okE_trap | apply okE_async | apply okE_gone | apply okE_late | intro _ _ _ | intro _ | (refine ok_fst ?_ (by assumption)) | (refine ok_snd ?_ (by assumption)) | (refine okOpt_elim ?_ (by assumption)) | (refine okXS_elim ?_ (by assumption)) | (refine okXS_elimE ?_ (by assumption)) | (refine okXE_elim ?_ (by assumption)) | (refine okXE_elimE ?_ (by assumption)) | (refine okX_elim ?_ (by assumption)) | (refine okO_elim ?_ (by assumption)) | (refine okOptF_elim ?_ (by assumption)) | (refine okOptS_elim ?_ (by assumption)) | (refine okXF_elim ?_ (by assumption)) | (refine okXO_elim ?_ (by assumption)) | split | dsimp only)

theorem execFsign_ok (h : Hdr) (k : Bool) (sb : Bool) (op : SOp) (d : Reg) (a : Reg) (b : Reg) (s : State) (hs : MemOk s) : OkO (execFsign h k sb op d a b s) := by
  unfold execFsign
  with_reducible repeat' (first | assumption | apply ok_of | simp only [ok_mk] | apply flt3_ok | apply okO_next | apply okO_fault | apply okO_refused | apply okE_done | apply okE_ctl | apply okE_fault | apply okE_stall | apply okE_pause | apply okE_trap | apply okE_async | apply okE_gone | apply okE_late | intro _ _ _ | intro _ | (refine ok_fst ?_ (by assumption)) | (refine ok_snd ?_ (by assumption)) | (refine okOpt_elim ?_ (by assumption)) | (refine okXS_elim ?_ (by assumption)) | (refine okXS_elimE ?_ (by assumption)) | (refine okXE_elim ?_ (by assumption)) | (refine okXE_elimE ?_ (by assumption)) | (refine okX_elim ?_ (by assumption)) | (refine okO_elim ?_ (by assumption)) | (refine okOptF_elim ?_ (by assumption)) | (refine okOptS_elim ?_ (by assumption)) | (refine okXF_elim ?_ (by assumption)) | (refine okXO_elim ?_ (by assumption)) | split | dsimp only)

theorem execFcmp_ok (h : Hdr) (k : Bool) (sb : Bool) (ftz : Bool) (cmp : FCmp) (bop : BOp) (pd : PReg) (a : Reg) (b : Reg) (pc : PReg) (s : State) (hs : MemOk s) : OkO (execFcmp h k sb ftz cmp bop pd a b pc s) := by
  unfold execFcmp
  with_reducible repeat' (first | assumption | apply ok_of | simp only [ok_mk] | apply aluWord_ok | apply okO_next | apply okO_fault | apply okO_refused | apply okE_done | apply okE_ctl | apply okE_fault | apply okE_stall | apply okE_pause | apply okE_trap | apply okE_async | apply okE_gone | apply okE_late | intro _ _ _ | intro _ | (refine ok_fst ?_ (by assumption)) | (refine ok_snd ?_ (by assumption)) | (refine okOpt_elim ?_ (by assumption)) | (refine okXS_elim ?_ (by assumption)) | (refine okXS_elimE ?_ (by assumption)) | (refine okXE_elim ?_ (by assumption)) | (refine okXE_elimE ?_ (by assumption)) | (refine okX_elim ?_ (by assumption)) | (refine okO_elim ?_ (by assumption)) | (refine okOptF_elim ?_ (by assumption)) | (refine okOptS_elim ?_ (by assumption)) | (refine okXF_elim ?_ (by assumption)) | (refine okXO_elim ?_ (by assumption)) | split | dsimp only)

theorem execFclass_ok (h : Hdr) (k : Bool) (d : Reg) (a : Reg) (s : State) (hs : MemOk s) : OkO (execFclass h k d a s) := by
  unfold execFclass
  with_reducible repeat' (first | assumption | apply ok_of | simp only [ok_mk] | apply flt2_ok | apply okO_next | apply okO_fault | apply okO_refused | apply okE_done | apply okE_ctl | apply okE_fault | apply okE_stall | apply okE_pause | apply okE_trap | apply okE_async | apply okE_gone | apply okE_late | intro _ _ _ | intro _ | (refine ok_fst ?_ (by assumption)) | (refine ok_snd ?_ (by assumption)) | (refine okOpt_elim ?_ (by assumption)) | (refine okXS_elim ?_ (by assumption)) | (refine okXS_elimE ?_ (by assumption)) | (refine okXE_elim ?_ (by assumption)) | (refine okXE_elimE ?_ (by assumption)) | (refine okX_elim ?_ (by assumption)) | (refine okO_elim ?_ (by assumption)) | (refine okOptF_elim ?_ (by assumption)) | (refine okOptS_elim ?_ (by assumption)) | (refine okXF_elim ?_ (by assumption)) | (refine okXO_elim ?_ (by assumption)) | split | dsimp only)

theorem execFrnd_ok (h : Hdr) (o : F2) (s : State) (hs : MemOk s) : OkO (execFrnd h o s) := by
  unfold execFrnd
  with_reducible repeat' (first | assumption | apply ok_of | simp only [ok_mk] | apply flt2_ok | apply okO_next | apply okO_fault | apply okO_refused | apply okE_done | apply okE_ctl | apply okE_fault | apply okE_stall | apply okE_pause | apply okE_trap | apply okE_async | apply okE_gone | apply okE_late | intro _ _ _ | intro _ | (refine ok_fst ?_ (by assumption)) | (refine ok_snd ?_ (by assumption)) | (refine okOpt_elim ?_ (by assumption)) | (refine okXS_elim ?_ (by assumption)) | (refine okXS_elimE ?_ (by assumption)) | (refine okXE_elim ?_ (by assumption)) | (refine okXE_elimE ?_ (by assumption)) | (refine okX_elim ?_ (by assumption)) | (refine okO_elim ?_ (by assumption)) | (refine okOptF_elim ?_ (by assumption)) | (refine okOptS_elim ?_ (by assumption)) | (refine okXF_elim ?_ (by assumption)) | (refine okXO_elim ?_ (by assumption)) | split | dsimp only)

theorem execFscale_ok (h : Hdr) (o : F3) (s : State) (hs : MemOk s) : OkO (execFscale h o s) := by
  unfold execFscale
  with_reducible repeat' (first | assumption | apply ok_of | simp only [ok_mk] | apply flt3_ok | apply okO_next | apply okO_fault | apply okO_refused | apply okE_done | apply okE_ctl | apply okE_fault | apply okE_stall | apply okE_pause | apply okE_trap | apply okE_async | apply okE_gone | apply okE_late | intro _ _ _ | intro _ | (refine ok_fst ?_ (by assumption)) | (refine ok_snd ?_ (by assumption)) | (refine okOpt_elim ?_ (by assumption)) | (refine okXS_elim ?_ (by assumption)) | (refine okXS_elimE ?_ (by assumption)) | (refine okXE_elim ?_ (by assumption)) | (refine okXE_elimE ?_ (by assumption)) | (refine okX_elim ?_ (by assumption)) | (refine okO_elim ?_ (by assumption)) | (refine okOptF_elim ?_ (by assumption)) | (refine okOptS_elim ?_ (by assumption)) | (refine okXF_elim ?_ (by assumption)) | (refine okXO_elim ?_ (by assumption)) | split | dsimp only)

theorem execFdiv_ok (h : Hdr) (o : F3) (s : State) (hs : MemOk s) : OkO (execFdiv h o s) := by
  unfold execFdiv
  with_reducible repeat' (first | assumption | apply ok_of | simp only [ok_mk] | apply flt3_ok | apply okO_next | apply okO_fault | apply okO_refused | apply okE_done | apply okE_ctl | apply okE_fault | apply okE_stall | apply okE_pause | apply okE_trap | apply okE_async | apply okE_gone | apply okE_late | intro _ _ _ | intro _ | (refine ok_fst ?_ (by assumption)) | (refine ok_snd ?_ (by assumption)) | (refine okOpt_elim ?_ (by assumption)) | (refine okXS_elim ?_ (by assumption)) | (refine okXS_elimE ?_ (by assumption)) | (refine okXE_elim ?_ (by assumption)) | (refine okXE_elimE ?_ (by assumption)) | (refine okX_elim ?_ (by assumption)) | (refine okO_elim ?_ (by assumption)) | (refine okOptF_elim ?_ (by assumption)) | (refine okOptS_elim ?_ (by assumption)) | (refine okXF_elim ?_ (by assumption)) | (refine okXO_elim ?_ (by assumption)) | split | dsimp only)

theorem execFsqrt_ok (h : Hdr) (o : F2) (s : State) (hs : MemOk s) : OkO (execFsqrt h o s) := by
  unfold execFsqrt
  with_reducible repeat' (first | assumption | apply ok_of | simp only [ok_mk] | apply flt2_ok | apply okO_next | apply okO_fault | apply okO_refused | apply okE_done | apply okE_ctl | apply okE_fault | apply okE_stall | apply okE_pause | apply okE_trap | apply okE_async | apply okE_gone | apply okE_late | intro _ _ _ | intro _ | (refine ok_fst ?_ (by assumption)) | (refine ok_snd ?_ (by assumption)) | (refine okOpt_elim ?_ (by assumption)) | (refine okXS_elim ?_ (by assumption)) | (refine okXS_elimE ?_ (by assumption)) | (refine okXE_elim ?_ (by assumption)) | (refine okXE_elimE ?_ (by assumption)) | (refine okX_elim ?_ (by assumption)) | (refine okO_elim ?_ (by assumption)) | (refine okOptF_elim ?_ (by assumption)) | (refine okOptS_elim ?_ (by assumption)) | (refine okXF_elim ?_ (by assumption)) | (refine okXO_elim ?_ (by assumption)) | split | dsimp only)

theorem execBadd2_ok (h : Hdr) (o : F3) (s : State) (hs : MemOk s) : OkO (execBadd2 h o s) := by
  unfold execBadd2
  with_reducible repeat' (first | assumption | apply ok_of | simp only [ok_mk] | apply pair3_ok | apply okO_next | apply okO_fault | apply okO_refused | apply okE_done | apply okE_ctl | apply okE_fault | apply okE_stall | apply okE_pause | apply okE_trap | apply okE_async | apply okE_gone | apply okE_late | intro _ _ _ | intro _ | (refine ok_fst ?_ (by assumption)) | (refine ok_snd ?_ (by assumption)) | (refine okOpt_elim ?_ (by assumption)) | (refine okXS_elim ?_ (by assumption)) | (refine okXS_elimE ?_ (by assumption)) | (refine okXE_elim ?_ (by assumption)) | (refine okXE_elimE ?_ (by assumption)) | (refine okX_elim ?_ (by assumption)) | (refine okO_elim ?_ (by assumption)) | (refine okOptF_elim ?_ (by assumption)) | (refine okOptS_elim ?_ (by assumption)) | (refine okXF_elim ?_ (by assumption)) | (refine okXO_elim ?_ (by assumption)) | split | dsimp only)

theorem execBmul2_ok (h : Hdr) (o : F3) (s : State) (hs : MemOk s) : OkO (execBmul2 h o s) := by
  unfold execBmul2
  with_reducible repeat' (first | assumption | apply ok_of | simp only [ok_mk] | apply pair3_ok | apply okO_next | apply okO_fault | apply okO_refused | apply okE_done | apply okE_ctl | apply okE_fault | apply okE_stall | apply okE_pause | apply okE_trap | apply okE_async | apply okE_gone | apply okE_late | intro _ _ _ | intro _ | (refine ok_fst ?_ (by assumption)) | (refine ok_snd ?_ (by assumption)) | (refine okOpt_elim ?_ (by assumption)) | (refine okXS_elim ?_ (by assumption)) | (refine okXS_elimE ?_ (by assumption)) | (refine okXE_elim ?_ (by assumption)) | (refine okXE_elimE ?_ (by assumption)) | (refine okX_elim ?_ (by assumption)) | (refine okO_elim ?_ (by assumption)) | (refine okOptF_elim ?_ (by assumption)) | (refine okOptS_elim ?_ (by assumption)) | (refine okXF_elim ?_ (by assumption)) | (refine okXO_elim ?_ (by assumption)) | split | dsimp only)

theorem execBfma2_ok (h : Hdr) (o : F4) (s : State) (hs : MemOk s) : OkO (execBfma2 h o s) := by
  unfold execBfma2
  with_reducible repeat' (first | assumption | apply ok_of | simp only [ok_mk] | apply flt4_ok | apply okO_next | apply okO_fault | apply okO_refused | apply okE_done | apply okE_ctl | apply okE_fault | apply okE_stall | apply okE_pause | apply okE_trap | apply okE_async | apply okE_gone | apply okE_late | intro _ _ _ | intro _ | (refine ok_fst ?_ (by assumption)) | (refine ok_snd ?_ (by assumption)) | (refine okOpt_elim ?_ (by assumption)) | (refine okXS_elim ?_ (by assumption)) | (refine okXS_elimE ?_ (by assumption)) | (refine okXE_elim ?_ (by assumption)) | (refine okXE_elimE ?_ (by assumption)) | (refine okX_elim ?_ (by assumption)) | (refine okO_elim ?_ (by assumption)) | (refine okOptF_elim ?_ (by assumption)) | (refine okOptS_elim ?_ (by assumption)) | (refine okXF_elim ?_ (by assumption)) | (refine okXO_elim ?_ (by assumption)) | split | dsimp only)

theorem execBmin2_ok (h : Hdr) (o : F3) (s : State) (hs : MemOk s) : OkO (execBmin2 h o s) := by
  unfold execBmin2
  with_reducible repeat' (first | assumption | apply ok_of | simp only [ok_mk] | apply pair3_ok | apply okO_next | apply okO_fault | apply okO_refused | apply okE_done | apply okE_ctl | apply okE_fault | apply okE_stall | apply okE_pause | apply okE_trap | apply okE_async | apply okE_gone | apply okE_late | intro _ _ _ | intro _ | (refine ok_fst ?_ (by assumption)) | (refine ok_snd ?_ (by assumption)) | (refine okOpt_elim ?_ (by assumption)) | (refine okXS_elim ?_ (by assumption)) | (refine okXS_elimE ?_ (by assumption)) | (refine okXE_elim ?_ (by assumption)) | (refine okXE_elimE ?_ (by assumption)) | (refine okX_elim ?_ (by assumption)) | (refine okO_elim ?_ (by assumption)) | (refine okOptF_elim ?_ (by assumption)) | (refine okOptS_elim ?_ (by assumption)) | (refine okXF_elim ?_ (by assumption)) | (refine okXO_elim ?_ (by assumption)) | split | dsimp only)

theorem execBmax2_ok (h : Hdr) (o : F3) (s : State) (hs : MemOk s) : OkO (execBmax2 h o s) := by
  unfold execBmax2
  with_reducible repeat' (first | assumption | apply ok_of | simp only [ok_mk] | apply pair3_ok | apply okO_next | apply okO_fault | apply okO_refused | apply okE_done | apply okE_ctl | apply okE_fault | apply okE_stall | apply okE_pause | apply okE_trap | apply okE_async | apply okE_gone | apply okE_late | intro _ _ _ | intro _ | (refine ok_fst ?_ (by assumption)) | (refine ok_snd ?_ (by assumption)) | (refine okOpt_elim ?_ (by assumption)) | (refine okXS_elim ?_ (by assumption)) | (refine okXS_elimE ?_ (by assumption)) | (refine okXE_elim ?_ (by assumption)) | (refine okXE_elimE ?_ (by assumption)) | (refine okX_elim ?_ (by assumption)) | (refine okO_elim ?_ (by assumption)) | (refine okOptF_elim ?_ (by assumption)) | (refine okOptS_elim ?_ (by assumption)) | (refine okXF_elim ?_ (by assumption)) | (refine okXO_elim ?_ (by assumption)) | split | dsimp only)

theorem execHadd2_ok (h : Hdr) (o : F3) (s : State) (hs : MemOk s) : OkO (execHadd2 h o s) := by
  unfold execHadd2
  with_reducible repeat' (first | assumption | apply ok_of | simp only [ok_mk] | apply pair3_ok | apply okO_next | apply okO_fault | apply okO_refused | apply okE_done | apply okE_ctl | apply okE_fault | apply okE_stall | apply okE_pause | apply okE_trap | apply okE_async | apply okE_gone | apply okE_late | intro _ _ _ | intro _ | (refine ok_fst ?_ (by assumption)) | (refine ok_snd ?_ (by assumption)) | (refine okOpt_elim ?_ (by assumption)) | (refine okXS_elim ?_ (by assumption)) | (refine okXS_elimE ?_ (by assumption)) | (refine okXE_elim ?_ (by assumption)) | (refine okXE_elimE ?_ (by assumption)) | (refine okX_elim ?_ (by assumption)) | (refine okO_elim ?_ (by assumption)) | (refine okOptF_elim ?_ (by assumption)) | (refine okOptS_elim ?_ (by assumption)) | (refine okXF_elim ?_ (by assumption)) | (refine okXO_elim ?_ (by assumption)) | split | dsimp only)

theorem execHmul2_ok (h : Hdr) (o : F3) (s : State) (hs : MemOk s) : OkO (execHmul2 h o s) := by
  unfold execHmul2
  with_reducible repeat' (first | assumption | apply ok_of | simp only [ok_mk] | apply pair3_ok | apply okO_next | apply okO_fault | apply okO_refused | apply okE_done | apply okE_ctl | apply okE_fault | apply okE_stall | apply okE_pause | apply okE_trap | apply okE_async | apply okE_gone | apply okE_late | intro _ _ _ | intro _ | (refine ok_fst ?_ (by assumption)) | (refine ok_snd ?_ (by assumption)) | (refine okOpt_elim ?_ (by assumption)) | (refine okXS_elim ?_ (by assumption)) | (refine okXS_elimE ?_ (by assumption)) | (refine okXE_elim ?_ (by assumption)) | (refine okXE_elimE ?_ (by assumption)) | (refine okX_elim ?_ (by assumption)) | (refine okO_elim ?_ (by assumption)) | (refine okOptF_elim ?_ (by assumption)) | (refine okOptS_elim ?_ (by assumption)) | (refine okXF_elim ?_ (by assumption)) | (refine okXO_elim ?_ (by assumption)) | split | dsimp only)

theorem execHfma2_ok (h : Hdr) (o : F4) (s : State) (hs : MemOk s) : OkO (execHfma2 h o s) := by
  unfold execHfma2
  with_reducible repeat' (first | assumption | apply ok_of | simp only [ok_mk] | apply flt4_ok | apply okO_next | apply okO_fault | apply okO_refused | apply okE_done | apply okE_ctl | apply okE_fault | apply okE_stall | apply okE_pause | apply okE_trap | apply okE_async | apply okE_gone | apply okE_late | intro _ _ _ | intro _ | (refine ok_fst ?_ (by assumption)) | (refine ok_snd ?_ (by assumption)) | (refine okOpt_elim ?_ (by assumption)) | (refine okXS_elim ?_ (by assumption)) | (refine okXS_elimE ?_ (by assumption)) | (refine okXE_elim ?_ (by assumption)) | (refine okXE_elimE ?_ (by assumption)) | (refine okX_elim ?_ (by assumption)) | (refine okO_elim ?_ (by assumption)) | (refine okOptF_elim ?_ (by assumption)) | (refine okOptS_elim ?_ (by assumption)) | (refine okXF_elim ?_ (by assumption)) | (refine okXO_elim ?_ (by assumption)) | split | dsimp only)

theorem execXpr_ok (h : Hdr) (o : F4) (bodyE : Bool) (toks : BitVec 60) (s : State) (hs : MemOk s) : OkO (execXpr h o bodyE toks s) := by
  unfold execXpr
  with_reducible repeat' (first | assumption | apply ok_of | simp only [ok_mk] | apply issue_ok | apply okO_next | apply okO_fault | apply okO_refused | apply okE_done | apply okE_ctl | apply okE_fault | apply okE_stall | apply okE_pause | apply okE_trap | apply okE_async | apply okE_gone | apply okE_late | intro _ _ _ | intro _ | (refine ok_fst ?_ (by assumption)) | (refine ok_snd ?_ (by assumption)) | (refine okOpt_elim ?_ (by assumption)) | (refine okXS_elim ?_ (by assumption)) | (refine okXS_elimE ?_ (by assumption)) | (refine okXE_elim ?_ (by assumption)) | (refine okXE_elimE ?_ (by assumption)) | (refine okX_elim ?_ (by assumption)) | (refine okO_elim ?_ (by assumption)) | (refine okOptF_elim ?_ (by assumption)) | (refine okOptS_elim ?_ (by assumption)) | (refine okXF_elim ?_ (by assumption)) | (refine okXO_elim ?_ (by assumption)) | split | dsimp only)

theorem execLscale_ok (h : Hdr) (dv : Bool) (bf2 : Bool) (o : F2) (s : State) (hs : MemOk s) : OkO (execLscale h dv bf2 o s) := by
  unfold execLscale
  with_reducible repeat' (first | assumption | apply ok_of | simp only [ok_mk] | apply State.updGrp_ok | apply issue_ok | apply okO_next | apply okO_fault | apply okO_refused | apply okE_done | apply okE_ctl | apply okE_fault | apply okE_stall | apply okE_pause | apply okE_trap | apply okE_async | apply okE_gone | apply okE_late | apply ok_ite | intro _ _ _ | intro _ | (refine ok_fst ?_ (by assumption)) | (refine ok_snd ?_ (by assumption)) | (refine okOpt_elim ?_ (by assumption)) | (refine okXS_elim ?_ (by assumption)) | (refine okXS_elimE ?_ (by assumption)) | (refine okXE_elim ?_ (by assumption)) | (refine okXE_elimE ?_ (by assumption)) | (refine okX_elim ?_ (by assumption)) | (refine okO_elim ?_ (by assumption)) | (refine okOptF_elim ?_ (by assumption)) | (refine okOptS_elim ?_ (by assumption)) | (refine okXF_elim ?_ (by assumption)) | (refine okXO_elim ?_ (by assumption)) | split | dsimp only)

theorem execOvf_ok (h : Hdr) (op : OvfOp) (bf2 : Bool) (d : Reg) (a : Reg) (s : State) (hs : MemOk s) : OkO (execOvf h op bf2 d a s) := by
  unfold execOvf
  with_reducible repeat' (first | assumption | apply ok_of | simp only [ok_mk] | apply State.updGrp_ok | apply issue_ok | apply okO_next | apply okO_fault | apply okO_refused | apply okE_done | apply okE_ctl | apply okE_fault | apply okE_stall | apply okE_pause | apply okE_trap | apply okE_async | apply okE_gone | apply okE_late | apply okOpt_some | apply okOpt_none | apply okOpt_mapS | apply okOpt_map | apply okOpt_ite | apply ok_ite | intro _ _ _ | intro _ | (refine ok_fst ?_ (by assumption)) | (refine ok_snd ?_ (by assumption)) | (refine okOpt_elim ?_ (by assumption)) | (refine okXS_elim ?_ (by assumption)) | (refine okXS_elimE ?_ (by assumption)) | (refine okXE_elim ?_ (by assumption)) | (refine okXE_elimE ?_ (by assumption)) | (refine okX_elim ?_ (by assumption)) | (refine okO_elim ?_ (by assumption)) | (refine okOptF_elim ?_ (by assumption)) | (refine okOptS_elim ?_ (by assumption)) | (refine okXF_elim ?_ (by assumption)) | (refine okXO_elim ?_ (by assumption)) | split | dsimp only)

theorem execCvt_ok (h : Hdr) (df : BitVec 4) (sf : BitVec 4) (o : Cv) (s : State) (hs : MemOk s) : OkO (execCvt h df sf o s) := by
  unfold execCvt
  with_reducible repeat' (first | assumption | apply ok_of | simp only [ok_mk] | apply cvtWord_ok | apply okO_next | apply okO_fault | apply okO_refused | apply okE_done | apply okE_ctl | apply okE_fault | apply okE_stall | apply okE_pause | apply okE_trap | apply okE_async | apply okE_gone | apply okE_late | intro _ _ _ | intro _ | (refine ok_fst ?_ (by assumption)) | (refine ok_snd ?_ (by assumption)) | (refine okOpt_elim ?_ (by assumption)) | (refine okXS_elim ?_ (by assumption)) | (refine okXS_elimE ?_ (by assumption)) | (refine okXE_elim ?_ (by assumption)) | (refine okXE_elimE ?_ (by assumption)) | (refine okX_elim ?_ (by assumption)) | (refine okO_elim ?_ (by assumption)) | (refine okOptF_elim ?_ (by assumption)) | (refine okOptS_elim ?_ (by assumption)) | (refine okXF_elim ?_ (by assumption)) | (refine okXO_elim ?_ (by assumption)) | split | dsimp only)

theorem execCvti_ok (h : Hdr) (it : BitVec 3) (sf : BitVec 4) (o : Cv) (s : State) (hs : MemOk s) : OkO (execCvti h it sf o s) := by
  unfold execCvti
  with_reducible repeat' (first | assumption | apply ok_of | simp only [ok_mk] | apply cvtWord_ok | apply okO_next | apply okO_fault | apply okO_refused | apply okE_done | apply okE_ctl | apply okE_fault | apply okE_stall | apply okE_pause | apply okE_trap | apply okE_async | apply okE_gone | apply okE_late | apply ok_ite | intro _ _ _ | intro _ | (refine ok_fst ?_ (by assumption)) | (refine ok_snd ?_ (by assumption)) | (refine okOpt_elim ?_ (by assumption)) | (refine okXS_elim ?_ (by assumption)) | (refine okXS_elimE ?_ (by assumption)) | (refine okXE_elim ?_ (by assumption)) | (refine okXE_elimE ?_ (by assumption)) | (refine okX_elim ?_ (by assumption)) | (refine okO_elim ?_ (by assumption)) | (refine okOptF_elim ?_ (by assumption)) | (refine okOptS_elim ?_ (by assumption)) | (refine okXF_elim ?_ (by assumption)) | (refine okXO_elim ?_ (by assumption)) | split | dsimp only)

theorem execCvtf_ok (h : Hdr) (df : BitVec 4) (it : BitVec 3) (o : Cv) (s : State) (hs : MemOk s) : OkO (execCvtf h df it o s) := by
  unfold execCvtf
  with_reducible repeat' (first | assumption | apply ok_of | simp only [ok_mk] | apply cvtWord_ok | apply okO_next | apply okO_fault | apply okO_refused | apply okE_done | apply okE_ctl | apply okE_fault | apply okE_stall | apply okE_pause | apply okE_trap | apply okE_async | apply okE_gone | apply okE_late | intro _ _ _ | intro _ | (refine ok_fst ?_ (by assumption)) | (refine ok_snd ?_ (by assumption)) | (refine okOpt_elim ?_ (by assumption)) | (refine okXS_elim ?_ (by assumption)) | (refine okXS_elimE ?_ (by assumption)) | (refine okXE_elim ?_ (by assumption)) | (refine okXE_elimE ?_ (by assumption)) | (refine okX_elim ?_ (by assumption)) | (refine okO_elim ?_ (by assumption)) | (refine okOptF_elim ?_ (by assumption)) | (refine okOptS_elim ?_ (by assumption)) | (refine okXF_elim ?_ (by assumption)) | (refine okXO_elim ?_ (by assumption)) | split | dsimp only)

theorem execSrnd_ok (h : Hdr) (n : BitVec 5) (o : Cv) (s : State) (hs : MemOk s) : OkO (execSrnd h n o s) := by
  unfold execSrnd
  with_reducible repeat' (first | assumption | apply ok_of | simp only [ok_mk] | apply cvtWord_ok | apply okO_next | apply okO_fault | apply okO_refused | apply okE_done | apply okE_ctl | apply okE_fault | apply okE_stall | apply okE_pause | apply okE_trap | apply okE_async | apply okE_gone | apply okE_late | apply ok_ite | intro _ _ _ | intro _ | (refine ok_fst ?_ (by assumption)) | (refine ok_snd ?_ (by assumption)) | (refine okOpt_elim ?_ (by assumption)) | (refine okXS_elim ?_ (by assumption)) | (refine okXS_elimE ?_ (by assumption)) | (refine okXE_elim ?_ (by assumption)) | (refine okXE_elimE ?_ (by assumption)) | (refine okX_elim ?_ (by assumption)) | (refine okO_elim ?_ (by assumption)) | (refine okOptF_elim ?_ (by assumption)) | (refine okOptS_elim ?_ (by assumption)) | (refine okXF_elim ?_ (by assumption)) | (refine okXO_elim ?_ (by assumption)) | split | dsimp only)

theorem execQblk_ok (h : Hdr) (df : BitVec 4) (bl32 : Bool) (rm : RM) (d : Reg) (a : Reg) (r : Reg) (s : State) (hs : MemOk s) : OkO (execQblk h df bl32 rm d a r s) := by
  unfold execQblk
  with_reducible repeat' (first | assumption | apply ok_of | simp only [ok_mk] | apply issue_ok | apply okO_next | apply okO_fault | apply okO_refused | apply okE_done | apply okE_ctl | apply okE_fault | apply okE_stall | apply okE_pause | apply okE_trap | apply okE_async | apply okE_gone | apply okE_late | apply okOpt_some | apply okOpt_none | apply okOpt_mapS | apply okOpt_map | apply okOpt_ite | apply ok_ite | intro _ _ _ | intro _ | (refine ok_fst ?_ (by assumption)) | (refine ok_snd ?_ (by assumption)) | (refine okOpt_elim ?_ (by assumption)) | (refine okXS_elim ?_ (by assumption)) | (refine okXS_elimE ?_ (by assumption)) | (refine okXE_elim ?_ (by assumption)) | (refine okXE_elimE ?_ (by assumption)) | (refine okX_elim ?_ (by assumption)) | (refine okO_elim ?_ (by assumption)) | (refine okOptF_elim ?_ (by assumption)) | (refine okOptS_elim ?_ (by assumption)) | (refine okXF_elim ?_ (by assumption)) | (refine okXO_elim ?_ (by assumption)) | split | dsimp only)

theorem execDqblk_ok (h : Hdr) (sf : BitVec 4) (sb : Bool) (rm : RM) (d : Reg) (a : Reg) (b : Reg) (s : State) (hs : MemOk s) : OkO (execDqblk h sf sb rm d a b s) := by
  unfold execDqblk
  with_reducible repeat' (first | assumption | apply ok_of | simp only [ok_mk] | apply cvtWord_ok | apply okO_next | apply okO_fault | apply okO_refused | apply okE_done | apply okE_ctl | apply okE_fault | apply okE_stall | apply okE_pause | apply okE_trap | apply okE_async | apply okE_gone | apply okE_late | intro _ _ _ | intro _ | (refine ok_fst ?_ (by assumption)) | (refine ok_snd ?_ (by assumption)) | (refine okOpt_elim ?_ (by assumption)) | (refine okXS_elim ?_ (by assumption)) | (refine okXS_elimE ?_ (by assumption)) | (refine okXE_elim ?_ (by assumption)) | (refine okXE_elimE ?_ (by assumption)) | (refine okX_elim ?_ (by assumption)) | (refine okO_elim ?_ (by assumption)) | (refine okOptF_elim ?_ (by assumption)) | (refine okOptS_elim ?_ (by assumption)) | (refine okXF_elim ?_ (by assumption)) | (refine okXO_elim ?_ (by assumption)) | split | dsimp only)

theorem execPack_ok (h : Hdr) (df : BitVec 4) (pos : BitVec 3) (sb : Bool) (rm : RM) (d : Reg) (a : Reg) (b : Reg) (r : Reg) (s : State) (hs : MemOk s) : OkO (execPack h df pos sb rm d a b r s) := by
  unfold execPack
  with_reducible repeat' (first | assumption | apply ok_of | simp only [ok_mk] | apply cvtWord_ok | apply okO_next | apply okO_fault | apply okO_refused | apply okE_done | apply okE_ctl | apply okE_fault | apply okE_stall | apply okE_pause | apply okE_trap | apply okE_async | apply okE_gone | apply okE_late | intro _ _ _ | intro _ | (refine ok_fst ?_ (by assumption)) | (refine ok_snd ?_ (by assumption)) | (refine okOpt_elim ?_ (by assumption)) | (refine okXS_elim ?_ (by assumption)) | (refine okXS_elimE ?_ (by assumption)) | (refine okXE_elim ?_ (by assumption)) | (refine okXE_elimE ?_ (by assumption)) | (refine okX_elim ?_ (by assumption)) | (refine okO_elim ?_ (by assumption)) | (refine okOptF_elim ?_ (by assumption)) | (refine okOptS_elim ?_ (by assumption)) | (refine okXF_elim ?_ (by assumption)) | (refine okXO_elim ?_ (by assumption)) | split | dsimp only)

theorem execUnpack_ok (h : Hdr) (sf : BitVec 4) (pos : BitVec 3) (d : Reg) (a : Reg) (s : State) (hs : MemOk s) : OkO (execUnpack h sf pos d a s) := by
  unfold execUnpack
  with_reducible repeat' (first | assumption | apply ok_of | simp only [ok_mk] | apply cvtWord_ok | apply okO_next | apply okO_fault | apply okO_refused | apply okE_done | apply okE_ctl | apply okE_fault | apply okE_stall | apply okE_pause | apply okE_trap | apply okE_async | apply okE_gone | apply okE_late | intro _ _ _ | intro _ | (refine ok_fst ?_ (by assumption)) | (refine ok_snd ?_ (by assumption)) | (refine okOpt_elim ?_ (by assumption)) | (refine okXS_elim ?_ (by assumption)) | (refine okXS_elimE ?_ (by assumption)) | (refine okXE_elim ?_ (by assumption)) | (refine okXE_elimE ?_ (by assumption)) | (refine okX_elim ?_ (by assumption)) | (refine okO_elim ?_ (by assumption)) | (refine okOptF_elim ?_ (by assumption)) | (refine okOptS_elim ?_ (by assumption)) | (refine okXF_elim ?_ (by assumption)) | (refine okXO_elim ?_ (by assumption)) | split | dsimp only)

theorem execRcp_ok (h : Hdr) (ftz : Bool) (d : Reg) (a : Reg) (s : State) (hs : MemOk s) : OkO (execRcp h ftz d a s) := by
  unfold execRcp
  with_reducible repeat' (first | assumption | apply ok_of | simp only [ok_mk] | apply special_ok | apply okO_next | apply okO_fault | apply okO_refused | apply okE_done | apply okE_ctl | apply okE_fault | apply okE_stall | apply okE_pause | apply okE_trap | apply okE_async | apply okE_gone | apply okE_late | intro _ _ _ | intro _ | (refine ok_fst ?_ (by assumption)) | (refine ok_snd ?_ (by assumption)) | (refine okOpt_elim ?_ (by assumption)) | (refine okXS_elim ?_ (by assumption)) | (refine okXS_elimE ?_ (by assumption)) | (refine okXE_elim ?_ (by assumption)) | (refine okXE_elimE ?_ (by assumption)) | (refine okX_elim ?_ (by assumption)) | (refine okO_elim ?_ (by assumption)) | (refine okOptF_elim ?_ (by assumption)) | (refine okOptS_elim ?_ (by assumption)) | (refine okXF_elim ?_ (by assumption)) | (refine okXO_elim ?_ (by assumption)) | split | dsimp only)

theorem execRsq_ok (h : Hdr) (ftz : Bool) (d : Reg) (a : Reg) (s : State) (hs : MemOk s) : OkO (execRsq h ftz d a s) := by
  unfold execRsq
  with_reducible repeat' (first | assumption | apply ok_of | simp only [ok_mk] | apply special_ok | apply okO_next | apply okO_fault | apply okO_refused | apply okE_done | apply okE_ctl | apply okE_fault | apply okE_stall | apply okE_pause | apply okE_trap | apply okE_async | apply okE_gone | apply okE_late | intro _ _ _ | intro _ | (refine ok_fst ?_ (by assumption)) | (refine ok_snd ?_ (by assumption)) | (refine okOpt_elim ?_ (by assumption)) | (refine okXS_elim ?_ (by assumption)) | (refine okXS_elimE ?_ (by assumption)) | (refine okXE_elim ?_ (by assumption)) | (refine okXE_elimE ?_ (by assumption)) | (refine okX_elim ?_ (by assumption)) | (refine okO_elim ?_ (by assumption)) | (refine okOptF_elim ?_ (by assumption)) | (refine okOptS_elim ?_ (by assumption)) | (refine okXF_elim ?_ (by assumption)) | (refine okXO_elim ?_ (by assumption)) | split | dsimp only)

theorem execEx2_ok (h : Hdr) (ftz : Bool) (d : Reg) (a : Reg) (s : State) (hs : MemOk s) : OkO (execEx2 h ftz d a s) := by
  unfold execEx2
  with_reducible repeat' (first | assumption | apply ok_of | simp only [ok_mk] | apply special_ok | apply okO_next | apply okO_fault | apply okO_refused | apply okE_done | apply okE_ctl | apply okE_fault | apply okE_stall | apply okE_pause | apply okE_trap | apply okE_async | apply okE_gone | apply okE_late | intro _ _ _ | intro _ | (refine ok_fst ?_ (by assumption)) | (refine ok_snd ?_ (by assumption)) | (refine okOpt_elim ?_ (by assumption)) | (refine okXS_elim ?_ (by assumption)) | (refine okXS_elimE ?_ (by assumption)) | (refine okXE_elim ?_ (by assumption)) | (refine okXE_elimE ?_ (by assumption)) | (refine okX_elim ?_ (by assumption)) | (refine okO_elim ?_ (by assumption)) | (refine okOptF_elim ?_ (by assumption)) | (refine okOptS_elim ?_ (by assumption)) | (refine okXF_elim ?_ (by assumption)) | (refine okXO_elim ?_ (by assumption)) | split | dsimp only)

theorem execLg2_ok (h : Hdr) (ftz : Bool) (d : Reg) (a : Reg) (s : State) (hs : MemOk s) : OkO (execLg2 h ftz d a s) := by
  unfold execLg2
  with_reducible repeat' (first | assumption | apply ok_of | simp only [ok_mk] | apply special_ok | apply okO_next | apply okO_fault | apply okO_refused | apply okE_done | apply okE_ctl | apply okE_fault | apply okE_stall | apply okE_pause | apply okE_trap | apply okE_async | apply okE_gone | apply okE_late | intro _ _ _ | intro _ | (refine ok_fst ?_ (by assumption)) | (refine ok_snd ?_ (by assumption)) | (refine okOpt_elim ?_ (by assumption)) | (refine okXS_elim ?_ (by assumption)) | (refine okXS_elimE ?_ (by assumption)) | (refine okXE_elim ?_ (by assumption)) | (refine okXE_elimE ?_ (by assumption)) | (refine okX_elim ?_ (by assumption)) | (refine okO_elim ?_ (by assumption)) | (refine okOptF_elim ?_ (by assumption)) | (refine okOptS_elim ?_ (by assumption)) | (refine okXF_elim ?_ (by assumption)) | (refine okXO_elim ?_ (by assumption)) | split | dsimp only)

theorem execSin_ok (h : Hdr) (ftz : Bool) (d : Reg) (a : Reg) (s : State) (hs : MemOk s) : OkO (execSin h ftz d a s) := by
  unfold execSin
  with_reducible repeat' (first | assumption | apply ok_of | simp only [ok_mk] | apply special_ok | apply okO_next | apply okO_fault | apply okO_refused | apply okE_done | apply okE_ctl | apply okE_fault | apply okE_stall | apply okE_pause | apply okE_trap | apply okE_async | apply okE_gone | apply okE_late | intro _ _ _ | intro _ | (refine ok_fst ?_ (by assumption)) | (refine ok_snd ?_ (by assumption)) | (refine okOpt_elim ?_ (by assumption)) | (refine okXS_elim ?_ (by assumption)) | (refine okXS_elimE ?_ (by assumption)) | (refine okXE_elim ?_ (by assumption)) | (refine okXE_elimE ?_ (by assumption)) | (refine okX_elim ?_ (by assumption)) | (refine okO_elim ?_ (by assumption)) | (refine okOptF_elim ?_ (by assumption)) | (refine okOptS_elim ?_ (by assumption)) | (refine okXF_elim ?_ (by assumption)) | (refine okXO_elim ?_ (by assumption)) | split | dsimp only)

theorem execCos_ok (h : Hdr) (ftz : Bool) (d : Reg) (a : Reg) (s : State) (hs : MemOk s) : OkO (execCos h ftz d a s) := by
  unfold execCos
  with_reducible repeat' (first | assumption | apply ok_of | simp only [ok_mk] | apply special_ok | apply okO_next | apply okO_fault | apply okO_refused | apply okE_done | apply okE_ctl | apply okE_fault | apply okE_stall | apply okE_pause | apply okE_trap | apply okE_async | apply okE_gone | apply okE_late | intro _ _ _ | intro _ | (refine ok_fst ?_ (by assumption)) | (refine ok_snd ?_ (by assumption)) | (refine okOpt_elim ?_ (by assumption)) | (refine okXS_elim ?_ (by assumption)) | (refine okXS_elimE ?_ (by assumption)) | (refine okXE_elim ?_ (by assumption)) | (refine okXE_elimE ?_ (by assumption)) | (refine okX_elim ?_ (by assumption)) | (refine okO_elim ?_ (by assumption)) | (refine okOptF_elim ?_ (by assumption)) | (refine okOptS_elim ?_ (by assumption)) | (refine okXF_elim ?_ (by assumption)) | (refine okXO_elim ?_ (by assumption)) | split | dsimp only)

theorem execTanh_ok (h : Hdr) (ftz : Bool) (d : Reg) (a : Reg) (s : State) (hs : MemOk s) : OkO (execTanh h ftz d a s) := by
  unfold execTanh
  with_reducible repeat' (first | assumption | apply ok_of | simp only [ok_mk] | apply special_ok | apply okO_next | apply okO_fault | apply okO_refused | apply okE_done | apply okE_ctl | apply okE_fault | apply okE_stall | apply okE_pause | apply okE_trap | apply okE_async | apply okE_gone | apply okE_late | intro _ _ _ | intro _ | (refine ok_fst ?_ (by assumption)) | (refine ok_snd ?_ (by assumption)) | (refine okOpt_elim ?_ (by assumption)) | (refine okXS_elim ?_ (by assumption)) | (refine okXS_elimE ?_ (by assumption)) | (refine okXE_elim ?_ (by assumption)) | (refine okXE_elimE ?_ (by assumption)) | (refine okX_elim ?_ (by assumption)) | (refine okO_elim ?_ (by assumption)) | (refine okOptF_elim ?_ (by assumption)) | (refine okOptS_elim ?_ (by assumption)) | (refine okXF_elim ?_ (by assumption)) | (refine okXO_elim ?_ (by assumption)) | split | dsimp only)

theorem execErf_ok (h : Hdr) (ftz : Bool) (d : Reg) (a : Reg) (s : State) (hs : MemOk s) : OkO (execErf h ftz d a s) := by
  unfold execErf
  with_reducible repeat' (first | assumption | apply ok_of | simp only [ok_mk] | apply special_ok | apply okO_next | apply okO_fault | apply okO_refused | apply okE_done | apply okE_ctl | apply okE_fault | apply okE_stall | apply okE_pause | apply okE_trap | apply okE_async | apply okE_gone | apply okE_late | intro _ _ _ | intro _ | (refine ok_fst ?_ (by assumption)) | (refine ok_snd ?_ (by assumption)) | (refine okOpt_elim ?_ (by assumption)) | (refine okXS_elim ?_ (by assumption)) | (refine okXS_elimE ?_ (by assumption)) | (refine okXE_elim ?_ (by assumption)) | (refine okXE_elimE ?_ (by assumption)) | (refine okX_elim ?_ (by assumption)) | (refine okO_elim ?_ (by assumption)) | (refine okOptF_elim ?_ (by assumption)) | (refine okOptS_elim ?_ (by assumption)) | (refine okXF_elim ?_ (by assumption)) | (refine okXO_elim ?_ (by assumption)) | split | dsimp only)

theorem laneWord_ok (s : State) (h : Hdr) (us : List Use) (flg : Bool) (fits : Nat → Bool) (f : Group → Lanes → Nat → List RegWrite × Fl) (hs : MemOk s) : OkO (laneWord s h us flg fits f) := by
  unfold laneWord
  with_reducible repeat' (first | assumption | apply ok_of | simp only [ok_mk] | apply State.raise_ok | apply State.issueAt_ok | apply okO_next | apply okO_fault | apply okO_refused | apply okE_done | apply okE_ctl | apply okE_fault | apply okE_stall | apply okE_pause | apply okE_trap | apply okE_async | apply okE_gone | apply okE_late | apply okOpt_some | apply okOpt_none | apply okOpt_mapS | apply okOpt_map | apply okOpt_ite | apply ok_ite | intro _ _ _ | intro _ | (refine ok_fst ?_ (by assumption)) | (refine ok_snd ?_ (by assumption)) | (refine okOpt_elim ?_ (by assumption)) | (refine okXS_elim ?_ (by assumption)) | (refine okXS_elimE ?_ (by assumption)) | (refine okXE_elim ?_ (by assumption)) | (refine okXE_elimE ?_ (by assumption)) | (refine okX_elim ?_ (by assumption)) | (refine okO_elim ?_ (by assumption)) | (refine okOptF_elim ?_ (by assumption)) | (refine okOptS_elim ?_ (by assumption)) | (refine okXF_elim ?_ (by assumption)) | (refine okXO_elim ?_ (by assumption)) | split | dsimp only)

theorem execShfl_ok (h : Hdr) (mode : ShflMode) (w64 : Bool) (sg : BitVec 3) (sb : Bool) (d : Reg) (a : Reg) (b : Reg) (s : State) (hs : MemOk s) : OkO (execShfl h mode w64 sg sb d a b s) := by
  unfold execShfl
  with_reducible repeat' (first | assumption | apply ok_of | simp only [ok_mk] | apply laneWord_ok | apply okO_next | apply okO_fault | apply okO_refused | apply okE_done | apply okE_ctl | apply okE_fault | apply okE_stall | apply okE_pause | apply okE_trap | apply okE_async | apply okE_gone | apply okE_late | intro _ _ _ | intro _ | (refine ok_fst ?_ (by assumption)) | (refine ok_snd ?_ (by assumption)) | (refine okOpt_elim ?_ (by assumption)) | (refine okXS_elim ?_ (by assumption)) | (refine okXS_elimE ?_ (by assumption)) | (refine okXE_elim ?_ (by assumption)) | (refine okXE_elimE ?_ (by assumption)) | (refine okX_elim ?_ (by assumption)) | (refine okO_elim ?_ (by assumption)) | (refine okOptF_elim ?_ (by assumption)) | (refine okOptS_elim ?_ (by assumption)) | (refine okXF_elim ?_ (by assumption)) | (refine okXO_elim ?_ (by assumption)) | split | dsimp only)

theorem execBcast_ok (h : Hdr) (w64 : Bool) (sg : BitVec 3) (n : BitVec 6) (d : Reg) (a : Reg) (s : State) (hs : MemOk s) : OkO (execBcast h w64 sg n d a s) := by
  unfold execBcast
  with_reducible repeat' (first | assumption | apply ok_of | simp only [ok_mk] | apply laneWord_ok | apply okO_next | apply okO_fault | apply okO_refused | apply okE_done | apply okE_ctl | apply okE_fault | apply okE_stall | apply okE_pause | apply okE_trap | apply okE_async | apply okE_gone | apply okE_late | intro _ _ _ | intro _ | (refine ok_fst ?_ (by assumption)) | (refine ok_snd ?_ (by assumption)) | (refine okOpt_elim ?_ (by assumption)) | (refine okXS_elim ?_ (by assumption)) | (refine okXS_elimE ?_ (by assumption)) | (refine okXE_elim ?_ (by assumption)) | (refine okXE_elimE ?_ (by assumption)) | (refine okX_elim ?_ (by assumption)) | (refine okO_elim ?_ (by assumption)) | (refine okOptF_elim ?_ (by assumption)) | (refine okOptS_elim ?_ (by assumption)) | (refine okXF_elim ?_ (by assumption)) | (refine okXO_elim ?_ (by assumption)) | split | dsimp only)

theorem execRdlane_ok (h : Hdr) (w64 : Bool) (d : SReg) (a : Reg) (b : SReg) (s : State) (hs : MemOk s) : OkO (execRdlane h w64 d a b s) := by
  unfold execRdlane
  with_reducible repeat' (first | assumption | apply ok_of | simp only [ok_mk] | apply onceWord_ok | apply okO_next | apply okO_fault | apply okO_refused | apply okE_done | apply okE_ctl | apply okE_fault | apply okE_stall | apply okE_pause | apply okE_trap | apply okE_async | apply okE_gone | apply okE_late | intro _ _ _ | intro _ | (refine ok_fst ?_ (by assumption)) | (refine ok_snd ?_ (by assumption)) | (refine okOpt_elim ?_ (by assumption)) | (refine okXS_elim ?_ (by assumption)) | (refine okXS_elimE ?_ (by assumption)) | (refine okXE_elim ?_ (by assumption)) | (refine okXE_elimE ?_ (by assumption)) | (refine okX_elim ?_ (by assumption)) | (refine okO_elim ?_ (by assumption)) | (refine okOptF_elim ?_ (by assumption)) | (refine okOptS_elim ?_ (by assumption)) | (refine okXF_elim ?_ (by assumption)) | (refine okXO_elim ?_ (by assumption)) | split | dsimp only)

theorem execWrlane_ok (h : Hdr) (w64 : Bool) (d : Reg) (a : SReg) (b : SReg) (s : State) (hs : MemOk s) : OkO (execWrlane h w64 d a b s) := by
  unfold execWrlane
  with_reducible repeat' (first | assumption | apply ok_of | simp only [ok_mk] | apply onceWord_ok | apply okO_next | apply okO_fault | apply okO_refused | apply okE_done | apply okE_ctl | apply okE_fault | apply okE_stall | apply okE_pause | apply okE_trap | apply okE_async | apply okE_gone | apply okE_late | intro _ _ _ | intro _ | (refine ok_fst ?_ (by assumption)) | (refine ok_snd ?_ (by assumption)) | (refine okOpt_elim ?_ (by assumption)) | (refine okXS_elim ?_ (by assumption)) | (refine okXS_elimE ?_ (by assumption)) | (refine okXE_elim ?_ (by assumption)) | (refine okXE_elimE ?_ (by assumption)) | (refine okX_elim ?_ (by assumption)) | (refine okO_elim ?_ (by assumption)) | (refine okOptF_elim ?_ (by assumption)) | (refine okOptS_elim ?_ (by assumption)) | (refine okXF_elim ?_ (by assumption)) | (refine okXO_elim ?_ (by assumption)) | split | dsimp only)

theorem execVote_ok (h : Hdr) (neg : Bool) (pa : PReg) (t : VoteTgt) (s : State) (hs : MemOk s) : OkO (execVote h neg pa t s) := by
  unfold execVote
  with_reducible repeat' (first | assumption | apply ok_of | simp only [ok_mk] | apply onceWord_ok | apply laneWord_ok | apply okO_next | apply okO_fault | apply okO_refused | apply okE_done | apply okE_ctl | apply okE_fault | apply okE_stall | apply okE_pause | apply okE_trap | apply okE_async | apply okE_gone | apply okE_late | apply okOpt_some | apply okOpt_none | apply okOpt_mapS | apply okOpt_map | apply okOpt_ite | intro _ _ _ | intro _ | (refine ok_fst ?_ (by assumption)) | (refine ok_snd ?_ (by assumption)) | (refine okOpt_elim ?_ (by assumption)) | (refine okXS_elim ?_ (by assumption)) | (refine okXS_elimE ?_ (by assumption)) | (refine okXE_elim ?_ (by assumption)) | (refine okXE_elimE ?_ (by assumption)) | (refine okX_elim ?_ (by assumption)) | (refine okO_elim ?_ (by assumption)) | (refine okOptF_elim ?_ (by assumption)) | (refine okOptS_elim ?_ (by assumption)) | (refine okXF_elim ?_ (by assumption)) | (refine okXO_elim ?_ (by assumption)) | split | dsimp only)

theorem execMtch_ok (h : Hdr) (w64 : Bool) (sg : BitVec 3) (d : Reg) (a : Reg) (s : State) (hs : MemOk s) : OkO (execMtch h w64 sg d a s) := by
  unfold execMtch
  with_reducible repeat' (first | assumption | apply ok_of | simp only [ok_mk] | apply laneWord_ok | apply okO_next | apply okO_fault | apply okO_refused | apply okE_done | apply okE_ctl | apply okE_fault | apply okE_stall | apply okE_pause | apply okE_trap | apply okE_async | apply okE_gone | apply okE_late | apply okOpt_some | apply okOpt_none | apply okOpt_mapS | apply okOpt_map | apply okOpt_ite | intro _ _ _ | intro _ | (refine ok_fst ?_ (by assumption)) | (refine ok_snd ?_ (by assumption)) | (refine okOpt_elim ?_ (by assumption)) | (refine okXS_elim ?_ (by assumption)) | (refine okXS_elimE ?_ (by assumption)) | (refine okXE_elim ?_ (by assumption)) | (refine okXE_elimE ?_ (by assumption)) | (refine okX_elim ?_ (by assumption)) | (refine okO_elim ?_ (by assumption)) | (refine okOptF_elim ?_ (by assumption)) | (refine okOptS_elim ?_ (by assumption)) | (refine okXF_elim ?_ (by assumption)) | (refine okXO_elim ?_ (by assumption)) | split | dsimp only)

theorem execElect_ok (h : Hdr) (pd : PReg) (ls : LaneSet) (s : State) (hs : MemOk s) : OkO (execElect h pd ls s) := by
  unfold execElect
  with_reducible repeat' (first | assumption | apply ok_of | simp only [ok_mk] | apply laneWord_ok | apply okO_next | apply okO_fault | apply okO_refused | apply okE_done | apply okE_ctl | apply okE_fault | apply okE_stall | apply okE_pause | apply okE_trap | apply okE_async | apply okE_gone | apply okE_late | apply okOpt_some | apply okOpt_none | apply okOpt_mapS | apply okOpt_map | apply okOpt_ite | intro _ _ _ | intro _ | (refine ok_fst ?_ (by assumption)) | (refine ok_snd ?_ (by assumption)) | (refine okOpt_elim ?_ (by assumption)) | (refine okXS_elim ?_ (by assumption)) | (refine okXS_elimE ?_ (by assumption)) | (refine okXE_elim ?_ (by assumption)) | (refine okXE_elimE ?_ (by assumption)) | (refine okX_elim ?_ (by assumption)) | (refine okO_elim ?_ (by assumption)) | (refine okOptF_elim ?_ (by assumption)) | (refine okOptS_elim ?_ (by assumption)) | (refine okXF_elim ?_ (by assumption)) | (refine okXO_elim ?_ (by assumption)) | split | dsimp only)

theorem execRedux_ok (h : Hdr) (op : RedOp) (ls : LaneSet) (d : Reg) (a : Reg) (s : State) (hs : MemOk s) : OkO (execRedux h op ls d a s) := by
  unfold execRedux
  with_reducible repeat' (first | assumption | apply ok_of | simp only [ok_mk] | apply laneWord_ok | apply okO_next | apply okO_fault | apply okO_refused | apply okE_done | apply okE_ctl | apply okE_fault | apply okE_stall | apply okE_pause | apply okE_trap | apply okE_async | apply okE_gone | apply okE_late | apply foldl_ok | apply foldl_fst_ok | intro _ _ _ | intro _ | (refine ok_fst ?_ (by assumption)) | (refine ok_snd ?_ (by assumption)) | (refine okOpt_elim ?_ (by assumption)) | (refine okXS_elim ?_ (by assumption)) | (refine okXS_elimE ?_ (by assumption)) | (refine okXE_elim ?_ (by assumption)) | (refine okXE_elimE ?_ (by assumption)) | (refine okX_elim ?_ (by assumption)) | (refine okO_elim ?_ (by assumption)) | (refine okOptF_elim ?_ (by assumption)) | (refine okOptS_elim ?_ (by assumption)) | (refine okXF_elim ?_ (by assumption)) | (refine okXO_elim ?_ (by assumption)) | split | dsimp only)

theorem execScan_ok (h : Hdr) (op : RedOp) (excl : Bool) (ls : LaneSet) (d : Reg) (a : Reg) (s : State) (hs : MemOk s) : OkO (execScan h op excl ls d a s) := by
  unfold execScan
  with_reducible repeat' (first | assumption | apply ok_of | simp only [ok_mk] | apply laneWord_ok | apply okO_next | apply okO_fault | apply okO_refused | apply okE_done | apply okE_ctl | apply okE_fault | apply okE_stall | apply okE_pause | apply okE_trap | apply okE_async | apply okE_gone | apply okE_late | apply foldl_ok | apply foldl_fst_ok | intro _ _ _ | intro _ | (refine ok_fst ?_ (by assumption)) | (refine ok_snd ?_ (by assumption)) | (refine okOpt_elim ?_ (by assumption)) | (refine okXS_elim ?_ (by assumption)) | (refine okXS_elimE ?_ (by assumption)) | (refine okXE_elim ?_ (by assumption)) | (refine okXE_elimE ?_ (by assumption)) | (refine okX_elim ?_ (by assumption)) | (refine okO_elim ?_ (by assumption)) | (refine okOptF_elim ?_ (by assumption)) | (refine okOptS_elim ?_ (by assumption)) | (refine okXF_elim ?_ (by assumption)) | (refine okXO_elim ?_ (by assumption)) | split | dsimp only)

theorem execFredux_ok (h : Hdr) (op : FRedOp) (rm : RM) (ftz : Bool) (ls : LaneSet) (d : Reg) (a : Reg) (s : State) (hs : MemOk s) : OkO (execFredux h op rm ftz ls d a s) := by
  unfold execFredux
  with_reducible repeat' (first | assumption | apply ok_of | simp only [ok_mk] | apply laneWord_ok | apply okO_next | apply okO_fault | apply okO_refused | apply okE_done | apply okE_ctl | apply okE_fault | apply okE_stall | apply okE_pause | apply okE_trap | apply okE_async | apply okE_gone | apply okE_late | intro _ _ _ | intro _ | (refine ok_fst ?_ (by assumption)) | (refine ok_snd ?_ (by assumption)) | (refine okOpt_elim ?_ (by assumption)) | (refine okXS_elim ?_ (by assumption)) | (refine okXS_elimE ?_ (by assumption)) | (refine okXE_elim ?_ (by assumption)) | (refine okXE_elimE ?_ (by assumption)) | (refine okX_elim ?_ (by assumption)) | (refine okO_elim ?_ (by assumption)) | (refine okOptF_elim ?_ (by assumption)) | (refine okOptS_elim ?_ (by assumption)) | (refine okXF_elim ?_ (by assumption)) | (refine okXO_elim ?_ (by assumption)) | split | dsimp only)

theorem execFscan_ok (h : Hdr) (op : FRedOp) (rm : RM) (ftz : Bool) (excl : Bool) (ls : LaneSet) (d : Reg) (a : Reg) (s : State) (hs : MemOk s) : OkO (execFscan h op rm ftz excl ls d a s) := by
  unfold execFscan
  with_reducible repeat' (first | assumption | apply ok_of | simp only [ok_mk] | apply laneWord_ok | apply okO_next | apply okO_fault | apply okO_refused | apply okE_done | apply okE_ctl | apply okE_fault | apply okE_stall | apply okE_pause | apply okE_trap | apply okE_async | apply okE_gone | apply okE_late | intro _ _ _ | intro _ | (refine ok_fst ?_ (by assumption)) | (refine ok_snd ?_ (by assumption)) | (refine okOpt_elim ?_ (by assumption)) | (refine okXS_elim ?_ (by assumption)) | (refine okXS_elimE ?_ (by assumption)) | (refine okXE_elim ?_ (by assumption)) | (refine okXE_elimE ?_ (by assumption)) | (refine okX_elim ?_ (by assumption)) | (refine okO_elim ?_ (by assumption)) | (refine okOptF_elim ?_ (by assumption)) | (refine okOptS_elim ?_ (by assumption)) | (refine okXF_elim ?_ (by assumption)) | (refine okXO_elim ?_ (by assumption)) | split | dsimp only)

theorem execPlop_ok (h : Hdr) (lut : BitVec 8) (pd : PReg) (pa : PReg) (pb : PReg) (pc : PReg) (s : State) (hs : MemOk s) : OkO (execPlop h lut pd pa pb pc s) := by
  unfold execPlop
  with_reducible repeat' (first | assumption | apply ok_of | simp only [ok_mk] | apply aluWord_ok | apply okO_next | apply okO_fault | apply okO_refused | apply okE_done | apply okE_ctl | apply okE_fault | apply okE_stall | apply okE_pause | apply okE_trap | apply okE_async | apply okE_gone | apply okE_late | apply ok_ite | intro _ _ _ | intro _ | (refine ok_fst ?_ (by assumption)) | (refine ok_snd ?_ (by assumption)) | (refine okOpt_elim ?_ (by assumption)) | (refine okXS_elim ?_ (by assumption)) | (refine okXS_elimE ?_ (by assumption)) | (refine okXE_elim ?_ (by assumption)) | (refine okXE_elimE ?_ (by assumption)) | (refine okX_elim ?_ (by assumption)) | (refine okO_elim ?_ (by assumption)) | (refine okOptF_elim ?_ (by assumption)) | (refine okOptS_elim ?_ (by assumption)) | (refine okXF_elim ?_ (by assumption)) | (refine okXO_elim ?_ (by assumption)) | split | dsimp only)

theorem execPmovTov_ok (h : Hdr) (d : Reg) (mask : BitVec 7) (s : State) (hs : MemOk s) : OkO (execPmovTov h d mask s) := by
  unfold execPmovTov
  with_reducible repeat' (first | assumption | apply ok_of | simp only [ok_mk] | apply aluWord_ok | apply okO_next | apply okO_fault | apply okO_refused | apply okE_done | apply okE_ctl | apply okE_fault | apply okE_stall | apply okE_pause | apply okE_trap | apply okE_async | apply okE_gone | apply okE_late | apply foldl_ok | apply foldl_fst_ok | apply ok_ite | intro _ _ _ | intro _ | (refine ok_fst ?_ (by assumption)) | (refine ok_snd ?_ (by assumption)) | (refine okOpt_elim ?_ (by assumption)) | (refine okXS_elim ?_ (by assumption)) | (refine okXS_elimE ?_ (by assumption)) | (refine okXE_elim ?_ (by assumption)) | (refine okXE_elimE ?_ (by assumption)) | (refine okX_elim ?_ (by assumption)) | (refine okO_elim ?_ (by assumption)) | (refine okOptF_elim ?_ (by assumption)) | (refine okOptS_elim ?_ (by assumption)) | (refine okXF_elim ?_ (by assumption)) | (refine okXO_elim ?_ (by assumption)) | split | dsimp only)

theorem execPmovTop_ok (h : Hdr) (a : Reg) (mask : BitVec 7) (s : State) (hs : MemOk s) : OkO (execPmovTop h a mask s) := by
  unfold execPmovTop
  with_reducible repeat' (first | assumption | apply ok_of | simp only [ok_mk] | apply aluWord_ok | apply okO_next | apply okO_fault | apply okO_refused | apply okE_done | apply okE_ctl | apply okE_fault | apply okE_stall | apply okE_pause | apply okE_trap | apply okE_async | apply okE_gone | apply okE_late | apply okOpt_some | apply okOpt_none | apply okOpt_mapS | apply okOpt_map | apply okOpt_ite | intro _ _ _ | intro _ | (refine ok_fst ?_ (by assumption)) | (refine ok_snd ?_ (by assumption)) | (refine okOpt_elim ?_ (by assumption)) | (refine okXS_elim ?_ (by assumption)) | (refine okXS_elimE ?_ (by assumption)) | (refine okXE_elim ?_ (by assumption)) | (refine okXE_elimE ?_ (by assumption)) | (refine okX_elim ?_ (by assumption)) | (refine okO_elim ?_ (by assumption)) | (refine okOptF_elim ?_ (by assumption)) | (refine okOptS_elim ?_ (by assumption)) | (refine okXF_elim ?_ (by assumption)) | (refine okXO_elim ?_ (by assumption)) | split | dsimp only)

theorem execRng_ok (h : Hdr) (k : Bool) (w64 : Bool) (d : Reg) (a : Reg) (b : SReg) (s : State) (hs : MemOk s) : OkO (execRng h k w64 d a b s) := by
  unfold execRng
  with_reducible repeat' (first | assumption | apply ok_of | simp only [ok_mk] | apply aluWord_ok | apply okO_next | apply okO_fault | apply okO_refused | apply okE_done | apply okE_ctl | apply okE_fault | apply okE_stall | apply okE_pause | apply okE_trap | apply okE_async | apply okE_gone | apply okE_late | intro _ _ _ | intro _ | (refine ok_fst ?_ (by assumption)) | (refine ok_snd ?_ (by assumption)) | (refine okOpt_elim ?_ (by assumption)) | (refine okXS_elim ?_ (by assumption)) | (refine okXS_elimE ?_ (by assumption)) | (refine okXE_elim ?_ (by assumption)) | (refine okXE_elimE ?_ (by assumption)) | (refine okX_elim ?_ (by assumption)) | (refine okO_elim ?_ (by assumption)) | (refine okOptF_elim ?_ (by assumption)) | (refine okOptS_elim ?_ (by assumption)) | (refine okXF_elim ?_ (by assumption)) | (refine okXO_elim ?_ (by assumption)) | split | dsimp only)

theorem execDrop_ok (h : Hdr) (sb : Bool) (d : Reg) (a : Reg) (b : Reg) (c : SReg) (s : State) (hs : MemOk s) : OkO (execDrop h sb d a b c s) := by
  unfold execDrop
  with_reducible repeat' (first | assumption | apply ok_of | simp only [ok_mk] | apply issue_ok | apply okO_next | apply okO_fault | apply okO_refused | apply okE_done | apply okE_ctl | apply okE_fault | apply okE_stall | apply okE_pause | apply okE_trap | apply okE_async | apply okE_gone | apply okE_late | apply ok_ite | intro _ _ _ | intro _ | (refine ok_fst ?_ (by assumption)) | (refine ok_snd ?_ (by assumption)) | (refine okOpt_elim ?_ (by assumption)) | (refine okXS_elim ?_ (by assumption)) | (refine okXS_elimE ?_ (by assumption)) | (refine okXE_elim ?_ (by assumption)) | (refine okXE_elimE ?_ (by assumption)) | (refine okX_elim ?_ (by assumption)) | (refine okO_elim ?_ (by assumption)) | (refine okOptF_elim ?_ (by assumption)) | (refine okOptS_elim ?_ (by assumption)) | (refine okXF_elim ?_ (by assumption)) | (refine okXO_elim ?_ (by assumption)) | split | dsimp only)

theorem execTqnt_ok (h : Hdr) (sign : Bool) (n : BlkLen) (d : Reg) (a : Reg) (s : State) (hs : MemOk s) : OkO (execTqnt h sign n d a s) := by
  unfold execTqnt
  with_reducible repeat' (first | assumption | apply ok_of | simp only [ok_mk] | apply issue_ok | apply okO_next | apply okO_fault | apply okO_refused | apply okE_done | apply okE_ctl | apply okE_fault | apply okE_stall | apply okE_pause | apply okE_trap | apply okE_async | apply okE_gone | apply okE_late | apply okOpt_some | apply okOpt_none | apply okOpt_mapS | apply okOpt_map | apply okOpt_ite | apply ok_ite | intro _ _ _ | intro _ | (refine ok_fst ?_ (by assumption)) | (refine ok_snd ?_ (by assumption)) | (refine okOpt_elim ?_ (by assumption)) | (refine okXS_elim ?_ (by assumption)) | (refine okXS_elimE ?_ (by assumption)) | (refine okXE_elim ?_ (by assumption)) | (refine okXE_elimE ?_ (by assumption)) | (refine okX_elim ?_ (by assumption)) | (refine okO_elim ?_ (by assumption)) | (refine okOptF_elim ?_ (by assumption)) | (refine okOptS_elim ?_ (by assumption)) | (refine okXF_elim ?_ (by assumption)) | (refine okXO_elim ?_ (by assumption)) | split | dsimp only)

theorem execTdq_ok (h : Hdr) (sign : Bool) (pos : BitVec 3) (sb : Bool) (d : Reg) (a : Reg) (b : Reg) (s : State) (hs : MemOk s) : OkO (execTdq h sign pos sb d a b s) := by
  unfold execTdq
  with_reducible repeat' (first | assumption | apply ok_of | simp only [ok_mk] | apply aluWord_ok | apply okO_next | apply okO_fault | apply okO_refused | apply okE_done | apply okE_ctl | apply okE_fault | apply okE_stall | apply okE_pause | apply okE_trap | apply okE_async | apply okE_gone | apply okE_late | apply okOpt_some | apply okOpt_none | apply okOpt_mapS | apply okOpt_map | apply okOpt_ite | intro _ _ _ | intro _ | (refine ok_fst ?_ (by assumption)) | (refine ok_snd ?_ (by assumption)) | (refine okOpt_elim ?_ (by assumption)) | (refine okXS_elim ?_ (by assumption)) | (refine okXS_elimE ?_ (by assumption)) | (refine okXE_elim ?_ (by assumption)) | (refine okXE_elimE ?_ (by assumption)) | (refine okX_elim ?_ (by assumption)) | (refine okO_elim ?_ (by assumption)) | (refine okOptF_elim ?_ (by assumption)) | (refine okOptS_elim ?_ (by assumption)) | (refine okXF_elim ?_ (by assumption)) | (refine okXO_elim ?_ (by assumption)) | split | dsimp only)

theorem execPairWord_ok (e : Bool) (pg : PReg) (pn : Bool) (h0 : Half) (h1 : Half) (s : State) (hs : MemOk s) : OkO (execPairWord e pg pn h0 h1 s) := by
  unfold execPairWord
  with_reducible repeat' (first | assumption | apply ok_of | simp only [ok_mk] | apply aluWord_ok | apply okO_next | apply okO_fault | apply okO_refused | apply okE_done | apply okE_ctl | apply okE_fault | apply okE_stall | apply okE_pause | apply okE_trap | apply okE_async | apply okE_gone | apply okE_late | intro _ _ _ | intro _ | (refine ok_fst ?_ (by assumption)) | (refine ok_snd ?_ (by assumption)) | (refine okOpt_elim ?_ (by assumption)) | (refine okXS_elim ?_ (by assumption)) | (refine okXS_elimE ?_ (by assumption)) | (refine okXE_elim ?_ (by assumption)) | (refine okXE_elimE ?_ (by assumption)) | (refine okX_elim ?_ (by assumption)) | (refine okO_elim ?_ (by assumption)) | (refine okOptF_elim ?_ (by assumption)) | (refine okOptS_elim ?_ (by assumption)) | (refine okXF_elim ?_ (by assumption)) | (refine okXO_elim ?_ (by assumption)) | split | dsimp only)

end Sys2Proof.Machine
end

