-- ==== Sys2Proof/Laws/OkEngines.lean ====
section
/-! SUPPORT. Memory's canonical form, kept by the operations of the copy engines, the fabric's remote commands and the matrix engine. -/

set_option linter.all false
namespace Sys2Proof.Machine

theorem State.nameEngine_ok (s : State) (c : Ctx) (k : CmdKind) (hs : MemOk s) : MemOk (State.nameEngine s c k) := by
  unfold State.nameEngine
  with_reducible repeat' (first | assumption | apply ok_of | simp only [ok_mk] | apply State.updGrp_ok | intro _ _ _ | intro _ | (refine ok_fst ?_ (by assumption)) | (refine ok_snd ?_ (by assumption)) | (refine okOpt_elim ?_ (by assumption)) | (refine okXS_elim ?_ (by assumption)) | (refine okXS_elimE ?_ (by assumption)) | (refine okXE_elim ?_ (by assumption)) | (refine okXE_elimE ?_ (by assumption)) | (refine okX_elim ?_ (by assumption)) | (refine okO_elim ?_ (by assumption)) | (refine okOptF_elim ?_ (by assumption)) | (refine okOptS_elim ?_ (by assumption)) | (refine okXF_elim ?_ (by assumption)) | (refine okXO_elim ?_ (by assumption)) | split | dsimp only)

theorem issueEngine_ok (s : State) (c : Ctx) (k : CmdKind) (full : Option Why) (sc : Scope) (f : State → Eff) (hs : MemOk s) (hf : ∀ y0, MemOk y0 → OkE (f y0)) : OkE (issueEngine s c k full sc f) := by
  unfold issueEngine
  with_reducible repeat' (first | assumption | apply ok_of | simp only [ok_mk] | apply hf | apply relAt_ok | apply State.nameEngine_ok | apply okE_done | apply okE_ctl | apply okE_fault | apply okE_stall | apply okE_pause | apply okE_trap | apply okE_async | apply okE_gone | apply okE_late | apply okOpt_some | apply okOpt_none | apply okOpt_mapS | apply okOpt_map | apply okOpt_ite | intro _ _ _ | intro _ | (refine ok_fst ?_ (by assumption)) | (refine ok_snd ?_ (by assumption)) | (refine okOpt_elim ?_ (by assumption)) | (refine okXS_elim ?_ (by assumption)) | (refine okXS_elimE ?_ (by assumption)) | (refine okXE_elim ?_ (by assumption)) | (refine okXE_elimE ?_ (by assumption)) | (refine okX_elim ?_ (by assumption)) | (refine okO_elim ?_ (by assumption)) | (refine okOptF_elim ?_ (by assumption)) | (refine okOptS_elim ?_ (by assumption)) | (refine okXF_elim ?_ (by assumption)) | (refine okXO_elim ?_ (by assumption)) | split | dsimp only)

theorem State.sendCount_ok (s : State) (m : PhMsg) (hs : MemOk s) : MemOk (State.sendCount s m) := by
  unfold State.sendCount
  with_reducible repeat' (first | assumption | apply ok_of | simp only [ok_mk] | intro _ _ _ | intro _ | (refine ok_fst ?_ (by assumption)) | (refine ok_snd ?_ (by assumption)) | (refine okOpt_elim ?_ (by assumption)) | (refine okXS_elim ?_ (by assumption)) | (refine okXS_elimE ?_ (by assumption)) | (refine okXE_elim ?_ (by assumption)) | (refine okXE_elimE ?_ (by assumption)) | (refine okX_elim ?_ (by assumption)) | (refine okO_elim ?_ (by assumption)) | (refine okOptF_elim ?_ (by assumption)) | (refine okOptS_elim ?_ (by assumption)) | (refine okXF_elim ?_ (by assumption)) | (refine okXO_elim ?_ (by assumption)) | split | dsimp only)

theorem State.drainDone_ok (s : State) (org : Origin) (k : CmdKind) (hs : MemOk s) : MemOk (State.drainDone s org k) := by
  unfold State.drainDone
  with_reducible repeat' (first | assumption | apply ok_of | simp only [ok_mk] | apply State.updAny_ok | intro _ _ _ | intro _ | (refine ok_fst ?_ (by assumption)) | (refine ok_snd ?_ (by assumption)) | (refine okOpt_elim ?_ (by assumption)) | (refine okXS_elim ?_ (by assumption)) | (refine okXS_elimE ?_ (by assumption)) | (refine okXE_elim ?_ (by assumption)) | (refine okXE_elimE ?_ (by assumption)) | (refine okX_elim ?_ (by assumption)) | (refine okO_elim ?_ (by assumption)) | (refine okOptF_elim ?_ (by assumption)) | (refine okOptS_elim ?_ (by assumption)) | (refine okXF_elim ?_ (by assumption)) | (refine okXO_elim ?_ (by assumption)) | split | dsimp only)

theorem State.afterCmd_ok (s : State) (tid : Option Nat) (ph : Option Nat) (hs : MemOk s) : MemOk (State.afterCmd s tid ph) := by
  unfold State.afterCmd
  with_reducible repeat' (first | assumption | apply ok_of | simp only [ok_mk] | apply State.phaserGc_ok | apply State.tryTeamEnd_ok | apply State.checkEndings_ok | apply okOpt_some | apply okOpt_none | apply okOpt_mapS | apply okOpt_map | apply okOpt_ite | intro _ _ _ | intro _ | (refine ok_fst ?_ (by assumption)) | (refine ok_snd ?_ (by assumption)) | (refine okOpt_elim ?_ (by assumption)) | (refine okXS_elim ?_ (by assumption)) | (refine okXS_elimE ?_ (by assumption)) | (refine okXE_elim ?_ (by assumption)) | (refine okXE_elimE ?_ (by assumption)) | (refine okX_elim ?_ (by assumption)) | (refine okO_elim ?_ (by assumption)) | (refine okOptF_elim ?_ (by assumption)) | (refine okOptS_elim ?_ (by assumption)) | (refine okXF_elim ?_ (by assumption)) | (refine okXO_elim ?_ (by assumption)) | split | dsimp only)

theorem State.setEngine_ok (s : State) (e : Nat) (x : EngineSt) (hs : MemOk s) : MemOk (State.setEngine s e x) := by
  unfold State.setEngine
  with_reducible repeat' (first | assumption | apply ok_of | simp only [ok_mk] | intro _ _ _ | intro _ | (refine ok_fst ?_ (by assumption)) | (refine ok_snd ?_ (by assumption)) | (refine okOpt_elim ?_ (by assumption)) | (refine okXS_elim ?_ (by assumption)) | (refine okXS_elimE ?_ (by assumption)) | (refine okXE_elim ?_ (by assumption)) | (refine okXE_elimE ?_ (by assumption)) | (refine okX_elim ?_ (by assumption)) | (refine okO_elim ?_ (by assumption)) | (refine okOptF_elim ?_ (by assumption)) | (refine okOptS_elim ?_ (by assumption)) | (refine okXF_elim ?_ (by assumption)) | (refine okXO_elim ?_ (by assumption)) | split | dsimp only)

theorem State.pushCopy_ok (s : State) (e : Nat) (c : CopyCmd) (hs : MemOk s) : MemOk (State.pushCopy s e c) := by
  unfold State.pushCopy
  with_reducible repeat' (first | assumption | apply ok_of | simp only [ok_mk] | apply State.setEngine_ok | apply okO_next | apply okO_fault | apply okO_refused | intro _ _ _ | intro _ | (refine ok_fst ?_ (by assumption)) | (refine ok_snd ?_ (by assumption)) | (refine okOpt_elim ?_ (by assumption)) | (refine okXS_elim ?_ (by assumption)) | (refine okXS_elimE ?_ (by assumption)) | (refine okXE_elim ?_ (by assumption)) | (refine okXE_elimE ?_ (by assumption)) | (refine okX_elim ?_ (by assumption)) | (refine okO_elim ?_ (by assumption)) | (refine okOptF_elim ?_ (by assumption)) | (refine okOptS_elim ?_ (by assumption)) | (refine okXF_elim ?_ (by assumption)) | (refine okXO_elim ?_ (by assumption)) | split | dsimp only)

theorem State.setOfs_ok (s : State) (slot : Nat) (e : TlbE) (ofs : Nat) (hs : MemOk s) : MemOk (State.setOfs s slot e ofs) := by
  unfold State.setOfs
  with_reducible repeat' (first | assumption | apply ok_of | simp only [ok_mk] | apply State.homeWrite_ok | apply State.trafficks_ok | apply State.tlbDrop_ok | intro _ _ _ | intro _ | (refine ok_fst ?_ (by assumption)) | (refine ok_snd ?_ (by assumption)) | (refine okOpt_elim ?_ (by assumption)) | (refine okXS_elim ?_ (by assumption)) | (refine okXS_elimE ?_ (by assumption)) | (refine okXE_elim ?_ (by assumption)) | (refine okXE_elimE ?_ (by assumption)) | (refine okX_elim ?_ (by assumption)) | (refine okO_elim ?_ (by assumption)) | (refine okOptF_elim ?_ (by assumption)) | (refine okOptS_elim ?_ (by assumption)) | (refine okXF_elim ?_ (by assumption)) | (refine okXO_elim ?_ (by assumption)) | split | dsimp only)

theorem State.dropPage_ok (s : State) (e : TlbE) (hs : MemOk s) : MemOk (State.dropPage s e) := by
  unfold State.dropPage
  with_reducible repeat' (first | assumption | apply ok_of | simp only [ok_mk] | apply State.loseDirty_ok | apply okOpt_some | apply okOpt_none | apply okOpt_mapS | apply okOpt_map | apply okOpt_ite | intro _ _ _ | intro _ | (refine ok_fst ?_ (by assumption)) | (refine ok_snd ?_ (by assumption)) | (refine okOpt_elim ?_ (by assumption)) | (refine okXS_elim ?_ (by assumption)) | (refine okXS_elimE ?_ (by assumption)) | (refine okXE_elim ?_ (by assumption)) | (refine okXE_elimE ?_ (by assumption)) | (refine okX_elim ?_ (by assumption)) | (refine okO_elim ?_ (by assumption)) | (refine okOptF_elim ?_ (by assumption)) | (refine okOptS_elim ?_ (by assumption)) | (refine okXF_elim ?_ (by assumption)) | (refine okXO_elim ?_ (by assumption)) | split | dsimp only)

theorem State.settlePage_ok (s : State) (c : CopyCmd) (p : PageClaim) (hs : MemOk s) : MemOk (State.settlePage s c p) := by
  unfold State.settlePage
  with_reducible repeat' (first | assumption | apply ok_of | simp only [ok_mk] | apply State.setOfs_ok | apply State.dropPage_ok | apply ok_ite | intro _ _ _ | intro _ | (refine ok_fst ?_ (by assumption)) | (refine ok_snd ?_ (by assumption)) | (refine okOpt_elim ?_ (by assumption)) | (refine okXS_elim ?_ (by assumption)) | (refine okXS_elimE ?_ (by assumption)) | (refine okXE_elim ?_ (by assumption)) | (refine okXE_elimE ?_ (by assumption)) | (refine okX_elim ?_ (by assumption)) | (refine okO_elim ?_ (by assumption)) | (refine okOptF_elim ?_ (by assumption)) | (refine okOptS_elim ?_ (by assumption)) | (refine okXF_elim ?_ (by assumption)) | (refine okXO_elim ?_ (by assumption)) | split | dsimp only)

theorem State.dropCopy_ok (s : State) (id : Nat) (c : CopyCmd) (faulted : Bool) (hs : MemOk s) : MemOk (State.dropCopy s id c faulted) := by
  unfold State.dropCopy
  with_reducible repeat' (first | assumption | apply ok_of | simp only [ok_mk] | apply State.setRegFld_ok | apply State.setEngine_ok | apply ok_ite | intro _ _ _ | intro _ | (refine ok_fst ?_ (by assumption)) | (refine ok_snd ?_ (by assumption)) | (refine okOpt_elim ?_ (by assumption)) | (refine okXS_elim ?_ (by assumption)) | (refine okXS_elimE ?_ (by assumption)) | (refine okXE_elim ?_ (by assumption)) | (refine okXE_elimE ?_ (by assumption)) | (refine okX_elim ?_ (by assumption)) | (refine okO_elim ?_ (by assumption)) | (refine okOptF_elim ?_ (by assumption)) | (refine okOptS_elim ?_ (by assumption)) | (refine okXF_elim ?_ (by assumption)) | (refine okXO_elim ?_ (by assumption)) | split | dsimp only)

theorem State.copyDone_ok (s : State) (id : Nat) (c : CopyCmd) (hs : MemOk s) : MemOk (State.copyDone s id c) := by
  unfold State.copyDone
  with_reducible repeat' (first | assumption | apply ok_of | simp only [ok_mk] | apply State.originDone_ok | apply State.settleWaits_ok | apply State.drainDone_ok | apply State.afterCmd_ok | apply State.dropCopy_ok | intro _ _ _ | intro _ | (refine ok_fst ?_ (by assumption)) | (refine ok_snd ?_ (by assumption)) | (refine okOpt_elim ?_ (by assumption)) | (refine okXS_elim ?_ (by assumption)) | (refine okXS_elimE ?_ (by assumption)) | (refine okXE_elim ?_ (by assumption)) | (refine okXE_elimE ?_ (by assumption)) | (refine okX_elim ?_ (by assumption)) | (refine okO_elim ?_ (by assumption)) | (refine okOptF_elim ?_ (by assumption)) | (refine okOptS_elim ?_ (by assumption)) | (refine okXF_elim ?_ (by assumption)) | (refine okXO_elim ?_ (by assumption)) | split | dsimp only)

theorem State.copyFault_ok (s : State) (id : Nat) (c : CopyCmd) (code : Nat) (detail : Nat) (va : Nat) (hs : MemOk s) : MemOk (State.copyFault s id c code detail va) := by
  unfold State.copyFault
  with_reducible repeat' (first | assumption | apply ok_of | simp only [ok_mk] | apply State.originDone_ok | apply State.settleWaits_ok | apply State.cmdFault_ok | apply State.drainDone_ok | apply State.afterCmd_ok | apply State.settlePage_ok | apply State.dropCopy_ok | apply okOpt_some | apply okOpt_none | apply okOpt_mapS | apply okOpt_map | apply okOpt_ite | apply foldl_ok | apply foldl_fst_ok | apply ok_ite | intro _ _ _ | intro _ | (refine ok_fst ?_ (by assumption)) | (refine ok_snd ?_ (by assumption)) | (refine okOpt_elim ?_ (by assumption)) | (refine okXS_elim ?_ (by assumption)) | (refine okXS_elimE ?_ (by assumption)) | (refine okXE_elim ?_ (by assumption)) | (refine okXE_elimE ?_ (by assumption)) | (refine okX_elim ?_ (by assumption)) | (refine okO_elim ?_ (by assumption)) | (refine okOptF_elim ?_ (by assumption)) | (refine okOptS_elim ?_ (by assumption)) | (refine okXF_elim ?_ (by assumption)) | (refine okXO_elim ?_ (by assumption)) | split | dsimp only)

theorem State.copyAbort_ok (s : State) (id : Nat) (c : CopyCmd) (detail : Nat) (hs : MemOk s) : MemOk (State.copyAbort s id c detail) := by
  unfold State.copyAbort
  with_reducible repeat' (first | assumption | apply ok_of | simp only [ok_mk] | apply State.pass_ok | apply State.copyFault_ok | apply okOpt_some | apply okOpt_none | apply okOpt_mapS | apply okOpt_map | apply okOpt_ite | intro _ _ _ | intro _ | (refine ok_fst ?_ (by assumption)) | (refine ok_snd ?_ (by assumption)) | (refine okOpt_elim ?_ (by assumption)) | (refine okXS_elim ?_ (by assumption)) | (refine okXS_elimE ?_ (by assumption)) | (refine okXE_elim ?_ (by assumption)) | (refine okXE_elimE ?_ (by assumption)) | (refine okX_elim ?_ (by assumption)) | (refine okO_elim ?_ (by assumption)) | (refine okOptF_elim ?_ (by assumption)) | (refine okOptS_elim ?_ (by assumption)) | (refine okXF_elim ?_ (by assumption)) | (refine okXO_elim ?_ (by assumption)) | split | dsimp only)

theorem State.copyCheck_ok (s : State) (id : Nat) (hs : MemOk s) : MemOk (State.copyCheck s id) := by
  unfold State.copyCheck
  with_reducible repeat' (first | assumption | apply ok_of | simp only [ok_mk] | apply State.copyDone_ok | apply State.copyFault_ok | apply okOpt_some | apply okOpt_none | apply okOpt_mapS | apply okOpt_map | apply okOpt_ite | apply ok_ite | intro _ _ _ | intro _ | (refine ok_fst ?_ (by assumption)) | (refine ok_snd ?_ (by assumption)) | (refine okOpt_elim ?_ (by assumption)) | (refine okXS_elim ?_ (by assumption)) | (refine okXS_elimE ?_ (by assumption)) | (refine okXE_elim ?_ (by assumption)) | (refine okXE_elimE ?_ (by assumption)) | (refine okX_elim ?_ (by assumption)) | (refine okO_elim ?_ (by assumption)) | (refine okOptF_elim ?_ (by assumption)) | (refine okOptS_elim ?_ (by assumption)) | (refine okXF_elim ?_ (by assumption)) | (refine okXO_elim ?_ (by assumption)) | split | dsimp only)

theorem State.copyFail_ok (s : State) (id : Nat) (c : CopyCmd) (pos : Nat) (code : Nat) (detail : Nat) (va : Nat) (hs : MemOk s) : MemOk (State.copyFail s id c pos code detail va) := by
  unfold State.copyFail
  with_reducible repeat' (first | assumption | apply ok_of | simp only [ok_mk] | apply State.copyCheck_ok | apply okOpt_some | apply okOpt_none | apply okOpt_mapS | apply okOpt_map | apply okOpt_ite | apply ok_ite | intro _ _ _ | intro _ | (refine ok_fst ?_ (by assumption)) | (refine ok_snd ?_ (by assumption)) | (refine okOpt_elim ?_ (by assumption)) | (refine okXS_elim ?_ (by assumption)) | (refine okXS_elimE ?_ (by assumption)) | (refine okXE_elim ?_ (by assumption)) | (refine okXE_elimE ?_ (by assumption)) | (refine okX_elim ?_ (by assumption)) | (refine okO_elim ?_ (by assumption)) | (refine okOptF_elim ?_ (by assumption)) | (refine okOptS_elim ?_ (by assumption)) | (refine okXF_elim ?_ (by assumption)) | (refine okXO_elim ?_ (by assumption)) | split | dsimp only)

theorem copyIssue_ok (s : State) (c : Ctx) (sc : Scope) (k : CopyCmd) (hs : MemOk s) : OkE (copyIssue s c sc k) := by
  unfold copyIssue
  with_reducible repeat' (first | assumption | apply ok_of | simp only [ok_mk] | apply issueEngine_ok | apply State.pushCopy_ok | apply State.copyAbort_ok | apply okO_next | apply okO_fault | apply okO_refused | apply okE_done | apply okE_ctl | apply okE_fault | apply okE_stall | apply okE_pause | apply okE_trap | apply okE_async | apply okE_gone | apply okE_late | apply okOpt_some | apply okOpt_none | apply okOpt_mapS | apply okOpt_map | apply okOpt_ite | intro _ _ _ | intro _ | (refine ok_fst ?_ (by assumption)) | (refine ok_snd ?_ (by assumption)) | (refine okOpt_elim ?_ (by assumption)) | (refine okXS_elim ?_ (by assumption)) | (refine okXS_elimE ?_ (by assumption)) | (refine okXE_elim ?_ (by assumption)) | (refine okXE_elimE ?_ (by assumption)) | (refine okX_elim ?_ (by assumption)) | (refine okO_elim ?_ (by assumption)) | (refine okOptF_elim ?_ (by assumption)) | (refine okOptS_elim ?_ (by assumption)) | (refine okXF_elim ?_ (by assumption)) | (refine okXO_elim ?_ (by assumption)) | split | dsimp only)

theorem execCpy_ok (h : Hdr) (dir : CpyDir) (np : Bool) (dst : SReg) (src : SReg) (shp : BitVec 3) (ctl : SReg) (s : State) (hs : MemOk s) : OkO (execCpy h dir np dst src shp ctl s) := by
  unfold execCpy
  with_reducible repeat' (first | assumption | apply ok_of | simp only [ok_mk] | apply onceWord_ok | apply copyIssue_ok | apply okO_next | apply okO_fault | apply okO_refused | apply okE_done | apply okE_ctl | apply okE_fault | apply okE_stall | apply okE_pause | apply okE_trap | apply okE_async | apply okE_gone | apply okE_late | apply okOpt_some | apply okOpt_none | apply okOpt_mapS | apply okOpt_map | apply okOpt_ite | apply okOpt_getD | apply ok_ite | intro _ _ _ | intro _ | (refine ok_fst ?_ (by assumption)) | (refine ok_snd ?_ (by assumption)) | (refine okOpt_elim ?_ (by assumption)) | (refine okXS_elim ?_ (by assumption)) | (refine okXS_elimE ?_ (by assumption)) | (refine okXE_elim ?_ (by assumption)) | (refine okXE_elimE ?_ (by assumption)) | (refine okX_elim ?_ (by assumption)) | (refine okO_elim ?_ (by assumption)) | (refine okOptF_elim ?_ (by assumption)) | (refine okOptS_elim ?_ (by assumption)) | (refine okXF_elim ?_ (by assumption)) | (refine okXO_elim ?_ (by assumption)) | split | dsimp only)

theorem offWord_ok (s : State) (h : Hdr) (us : List Use) (np : Bool) (loc : SReg) (rem : SReg) (len : SReg) (ctl : SReg) (f : W64 → W64 → W64 → Nat → CopyOp) (hs : MemOk s) : OkO (offWord s h us np loc rem len ctl f) := by
  unfold offWord
  with_reducible repeat' (first | assumption | apply ok_of | simp only [ok_mk] | apply onceWord_ok | apply copyIssue_ok | apply okO_next | apply okO_fault | apply okO_refused | apply okE_done | apply okE_ctl | apply okE_fault | apply okE_stall | apply okE_pause | apply okE_trap | apply okE_async | apply okE_gone | apply okE_late | apply okOpt_some | apply okOpt_none | apply okOpt_mapS | apply okOpt_map | apply okOpt_ite | intro _ _ _ | intro _ | (refine ok_fst ?_ (by assumption)) | (refine ok_snd ?_ (by assumption)) | (refine okOpt_elim ?_ (by assumption)) | (refine okXS_elim ?_ (by assumption)) | (refine okXS_elimE ?_ (by assumption)) | (refine okXE_elim ?_ (by assumption)) | (refine okXE_elimE ?_ (by assumption)) | (refine okX_elim ?_ (by assumption)) | (refine okO_elim ?_ (by assumption)) | (refine okOptF_elim ?_ (by assumption)) | (refine okOptS_elim ?_ (by assumption)) | (refine okXF_elim ?_ (by assumption)) | (refine okXO_elim ?_ (by assumption)) | split | dsimp only)

theorem execOffl_ok (h : Hdr) (np : Bool) (loc : SReg) (rem : SReg) (len : SReg) (ctl : SReg) (s : State) (hs : MemOk s) : OkO (execOffl h np loc rem len ctl s) := by
  unfold execOffl
  with_reducible repeat' (first | assumption | apply ok_of | simp only [ok_mk] | apply offWord_ok | apply okO_next | apply okO_fault | apply okO_refused | apply okE_done | apply okE_ctl | apply okE_fault | apply okE_stall | apply okE_pause | apply okE_trap | apply okE_async | apply okE_gone | apply okE_late | intro _ _ _ | intro _ | (refine ok_fst ?_ (by assumption)) | (refine ok_snd ?_ (by assumption)) | (refine okOpt_elim ?_ (by assumption)) | (refine okXS_elim ?_ (by assumption)) | (refine okXS_elimE ?_ (by assumption)) | (refine okXE_elim ?_ (by assumption)) | (refine okXE_elimE ?_ (by assumption)) | (refine okX_elim ?_ (by assumption)) | (refine okO_elim ?_ (by assumption)) | (refine okOptF_elim ?_ (by assumption)) | (refine okOptS_elim ?_ (by assumption)) | (refine okXF_elim ?_ (by assumption)) | (refine okXO_elim ?_ (by assumption)) | split | dsimp only)

theorem execRtrn_ok (h : Hdr) (np : Bool) (loc : SReg) (rem : SReg) (len : SReg) (ctl : SReg) (s : State) (hs : MemOk s) : OkO (execRtrn h np loc rem len ctl s) := by
  unfold execRtrn
  with_reducible repeat' (first | assumption | apply ok_of | simp only [ok_mk] | apply offWord_ok | apply okO_next | apply okO_fault | apply okO_refused | apply okE_done | apply okE_ctl | apply okE_fault | apply okE_stall | apply okE_pause | apply okE_trap | apply okE_async | apply okE_gone | apply okE_late | intro _ _ _ | intro _ | (refine ok_fst ?_ (by assumption)) | (refine ok_snd ?_ (by assumption)) | (refine okOpt_elim ?_ (by assumption)) | (refine okXS_elim ?_ (by assumption)) | (refine okXS_elimE ?_ (by assumption)) | (refine okXE_elim ?_ (by assumption)) | (refine okXE_elimE ?_ (by assumption)) | (refine okX_elim ?_ (by assumption)) | (refine okO_elim ?_ (by assumption)) | (refine okOptF_elim ?_ (by assumption)) | (refine okOptS_elim ?_ (by assumption)) | (refine okXF_elim ?_ (by assumption)) | (refine okXO_elim ?_ (by assumption)) | split | dsimp only)

theorem State.leaves_ok (s : State) (die : Nat) (slot : Nat) (x0 : Nat) (x1 : Nat) (x2 : Nat) (hs : MemOk s) : MemOk (State.leaves s die slot x0 x1 x2).1 := by
  induction x0 generalizing s x1 x2 with
  | zero =>
    unfold State.leaves
    with_reducible repeat' (first | assumption | apply ok_of | simp only [ok_mk] | apply State.walkNow_ok | apply okOpt_some | apply okOpt_none | apply okOpt_mapS | apply okOpt_map | apply okOpt_ite | apply okF_ok | apply okF_error | apply ok_ite | intro _ _ _ | intro _ | (refine ok_fst ?_ (by assumption)) | (refine ok_snd ?_ (by assumption)) | (refine okOpt_elim ?_ (by assumption)) | (refine okXS_elim ?_ (by assumption)) | (refine okXS_elimE ?_ (by assumption)) | (refine okXE_elim ?_ (by assumption)) | (refine okXE_elimE ?_ (by assumption)) | (refine okX_elim ?_ (by assumption)) | (refine okO_elim ?_ (by assumption)) | (refine okOptF_elim ?_ (by assumption)) | (refine okOptS_elim ?_ (by assumption)) | (refine okXF_elim ?_ (by assumption)) | (refine okXO_elim ?_ (by assumption)) | split | dsimp only)
  | succ y ih =>
    unfold State.leaves
    with_reducible repeat' (first | assumption | apply ok_of | simp only [ok_mk] | apply ih | apply State.walkNow_ok | apply okOpt_some | apply okOpt_none | apply okOpt_mapS | apply okOpt_map | apply okOpt_ite | apply okF_ok | apply okF_error | apply ok_ite | intro _ _ _ | intro _ | (refine ok_fst ?_ (by assumption)) | (refine ok_snd ?_ (by assumption)) | (refine okOpt_elim ?_ (by assumption)) | (refine okXS_elim ?_ (by assumption)) | (refine okXS_elimE ?_ (by assumption)) | (refine okXE_elim ?_ (by assumption)) | (refine okXE_elimE ?_ (by assumption)) | (refine okX_elim ?_ (by assumption)) | (refine okO_elim ?_ (by assumption)) | (refine okOptF_elim ?_ (by assumption)) | (refine okOptS_elim ?_ (by assumption)) | (refine okXF_elim ?_ (by assumption)) | (refine okXO_elim ?_ (by assumption)) | split | dsimp only)

theorem State.claim_ok (s : State) (c : CopyCmd) (loc : Nat) (len : Nat) (frm : Nat) (ofs : Nat) (hs : MemOk s) : MemOk (State.claim s c loc len frm ofs).1 := by
  unfold State.claim
  with_reducible repeat' (first | assumption | apply ok_of | simp only [ok_mk] | apply State.setOfs_ok | apply State.leaves_ok | apply okOpt_some | apply okOpt_none | apply okOpt_mapS | apply okOpt_map | apply okOpt_ite | apply okF_ok | apply okF_error | apply foldl_ok | apply foldl_fst_ok | apply ok_ite | intro _ _ _ | intro _ | (refine ok_fst ?_ (by assumption)) | (refine ok_snd ?_ (by assumption)) | (refine okOpt_elim ?_ (by assumption)) | (refine okXS_elim ?_ (by assumption)) | (refine okXS_elimE ?_ (by assumption)) | (refine okXE_elim ?_ (by assumption)) | (refine okXE_elimE ?_ (by assumption)) | (refine okX_elim ?_ (by assumption)) | (refine okO_elim ?_ (by assumption)) | (refine okOptF_elim ?_ (by assumption)) | (refine okOptS_elim ?_ (by assumption)) | (refine okXF_elim ?_ (by assumption)) | (refine okXO_elim ?_ (by assumption)) | split | dsimp only)

theorem execCopyCommandStart_ok (s : State) (hs : MemOk s) : OkO (execCopyCommandStart s) := by
  unfold execCopyCommandStart
  with_reducible repeat' (first | assumption | apply ok_of | simp only [ok_mk] | apply State.waiting_ok | apply State.passed_ok | apply State.setEngine_ok | apply State.copyFault_ok | apply State.claim_ok | apply okO_next | apply okO_fault | apply okO_refused | apply okE_done | apply okE_ctl | apply okE_fault | apply okE_stall | apply okE_pause | apply okE_trap | apply okE_async | apply okE_gone | apply okE_late | apply okOpt_some | apply okOpt_none | apply okOpt_mapS | apply okOpt_map | apply okOpt_ite | apply ok_ite | intro _ _ _ | intro _ | (refine ok_fst ?_ (by assumption)) | (refine ok_snd ?_ (by assumption)) | (refine okOpt_elim ?_ (by assumption)) | (refine okXS_elim ?_ (by assumption)) | (refine okXS_elimE ?_ (by assumption)) | (refine okXE_elim ?_ (by assumption)) | (refine okXE_elimE ?_ (by assumption)) | (refine okX_elim ?_ (by assumption)) | (refine okO_elim ?_ (by assumption)) | (refine okOptF_elim ?_ (by assumption)) | (refine okOptS_elim ?_ (by assumption)) | (refine okXF_elim ?_ (by assumption)) | (refine okXO_elim ?_ (by assumption)) | split | dsimp only)

theorem State.sideAt_ok (s : State) (c : CopyCmd) (glob : Bool) (need : Need) (a : Nat) (n : Nat) (hs : MemOk s) : MemOk (State.sideAt s c glob need a n).1 := by
  unfold State.sideAt
  with_reducible repeat' (first | assumption | apply ok_of | simp only [ok_mk] | apply State.engBytes_ok | apply okOpt_some | apply okOpt_none | apply okOpt_mapS | apply okOpt_map | apply okOpt_ite | apply okOpt_bind | apply okF_ok | apply okF_error | apply mapsOk_mem | apply mapsOk_mems | apply mapsOk_burst | apply mapsOk_poisons | apply mapsOk_poison | apply ok_ite | intro _ _ _ | intro _ | (refine ok_fst ?_ (by assumption)) | (refine ok_snd ?_ (by assumption)) | (refine okOpt_elim ?_ (by assumption)) | (refine okXS_elim ?_ (by assumption)) | (refine okXS_elimE ?_ (by assumption)) | (refine okXE_elim ?_ (by assumption)) | (refine okXE_elimE ?_ (by assumption)) | (refine okX_elim ?_ (by assumption)) | (refine okO_elim ?_ (by assumption)) | (refine okOptF_elim ?_ (by assumption)) | (refine okOptS_elim ?_ (by assumption)) | (refine okXF_elim ?_ (by assumption)) | (refine okXO_elim ?_ (by assumption)) | split | dsimp only)

theorem State.sideAsk_ok (s : State) (c : CopyCmd) (glob : Bool) (kind : TKind) (l : List (Nat × Attr)) (hs : MemOk s) : MemOk (State.sideAsk s c glob kind l) := by
  unfold State.sideAsk
  with_reducible repeat' (first | assumption | apply ok_of | simp only [ok_mk] | apply State.engTraffic_ok | apply State.bankPut_ok | apply okOpt_some | apply okOpt_none | apply okOpt_mapS | apply okOpt_map | apply okOpt_ite | apply okOpt_bind | apply ok_ite | intro _ _ _ | intro _ | (refine ok_fst ?_ (by assumption)) | (refine ok_snd ?_ (by assumption)) | (refine okOpt_elim ?_ (by assumption)) | (refine okXS_elim ?_ (by assumption)) | (refine okXS_elimE ?_ (by assumption)) | (refine okXE_elim ?_ (by assumption)) | (refine okXE_elimE ?_ (by assumption)) | (refine okX_elim ?_ (by assumption)) | (refine okO_elim ?_ (by assumption)) | (refine okOptF_elim ?_ (by assumption)) | (refine okOptS_elim ?_ (by assumption)) | (refine okXF_elim ?_ (by assumption)) | (refine okXO_elim ?_ (by assumption)) | split | dsimp only)

theorem State.sidePut_ok (s : State) (c : CopyCmd) (glob : Bool) (l : List (Nat × Attr)) (bs : List Byte) (hs : MemOk s) : MemOk (State.sidePut s c glob l bs) := by
  unfold State.sidePut
  with_reducible repeat' (first | assumption | apply ok_of | simp only [ok_mk] | apply State.homeScatter_ok | apply State.setTeam_ok | apply okOpt_some | apply okOpt_none | apply okOpt_mapS | apply okOpt_map | apply okOpt_ite | apply okOpt_bind | apply ok_ite | intro _ _ _ | intro _ | (refine ok_fst ?_ (by assumption)) | (refine ok_snd ?_ (by assumption)) | (refine okOpt_elim ?_ (by assumption)) | (refine okXS_elim ?_ (by assumption)) | (refine okXS_elimE ?_ (by assumption)) | (refine okXE_elim ?_ (by assumption)) | (refine okXE_elimE ?_ (by assumption)) | (refine okX_elim ?_ (by assumption)) | (refine okO_elim ?_ (by assumption)) | (refine okOptF_elim ?_ (by assumption)) | (refine okOptS_elim ?_ (by assumption)) | (refine okXF_elim ?_ (by assumption)) | (refine okXO_elim ?_ (by assumption)) | split | dsimp only)

theorem State.sides_ok (s : State) (c : CopyCmd) (dir : CpyDir) (pos : Nat) (n : Nat) (hs : MemOk s) : MemOk (State.sides s c dir pos n).1 := by
  unfold State.sides
  with_reducible repeat' (first | assumption | apply ok_of | simp only [ok_mk] | apply State.sideAt_ok | apply okF_ok | apply okF_error | intro _ _ _ | intro _ | (refine ok_fst ?_ (by assumption)) | (refine ok_snd ?_ (by assumption)) | (refine okOpt_elim ?_ (by assumption)) | (refine okXS_elim ?_ (by assumption)) | (refine okXS_elimE ?_ (by assumption)) | (refine okXE_elim ?_ (by assumption)) | (refine okXE_elimE ?_ (by assumption)) | (refine okX_elim ?_ (by assumption)) | (refine okO_elim ?_ (by assumption)) | (refine okOptF_elim ?_ (by assumption)) | (refine okOptS_elim ?_ (by assumption)) | (refine okXF_elim ?_ (by assumption)) | (refine okXO_elim ?_ (by assumption)) | split | dsimp only)

theorem State.moveBytes_ok (s : State) (c : CopyCmd) (dir : CpyDir) (src : List (Nat × Attr)) (dst : List (Nat × Attr)) (hs : MemOk s) : MemOk (State.moveBytes s c dir src dst) := by
  unfold State.moveBytes
  with_reducible repeat' (first | assumption | apply ok_of | simp only [ok_mk] | apply State.sideAsk_ok | apply State.sidePut_ok | intro _ _ _ | intro _ | (refine ok_fst ?_ (by assumption)) | (refine ok_snd ?_ (by assumption)) | (refine okOpt_elim ?_ (by assumption)) | (refine okXS_elim ?_ (by assumption)) | (refine okXS_elimE ?_ (by assumption)) | (refine okXE_elim ?_ (by assumption)) | (refine okXE_elimE ?_ (by assumption)) | (refine okX_elim ?_ (by assumption)) | (refine okO_elim ?_ (by assumption)) | (refine okOptF_elim ?_ (by assumption)) | (refine okOptS_elim ?_ (by assumption)) | (refine okXF_elim ?_ (by assumption)) | (refine okXO_elim ?_ (by assumption)) | split | dsimp only)

theorem State.unitDone_ok (s : State) (id : Nat) (c : CopyCmd) (pos : Nat) (n : Nat) (w : Wrote) (hs : MemOk s) : MemOk (State.unitDone s id c pos n w) := by
  unfold State.unitDone
  with_reducible repeat' (first | assumption | apply ok_of | simp only [ok_mk] | apply State.setReg_ok | apply State.sendCount_ok | apply State.copyCheck_ok | apply okOpt_some | apply okOpt_none | apply okOpt_mapS | apply okOpt_map | apply okOpt_ite | apply ok_ite | intro _ _ _ | intro _ | (refine ok_fst ?_ (by assumption)) | (refine ok_snd ?_ (by assumption)) | (refine okOpt_elim ?_ (by assumption)) | (refine okXS_elim ?_ (by assumption)) | (refine okXS_elimE ?_ (by assumption)) | (refine okXE_elim ?_ (by assumption)) | (refine okXE_elimE ?_ (by assumption)) | (refine okX_elim ?_ (by assumption)) | (refine okO_elim ?_ (by assumption)) | (refine okOptF_elim ?_ (by assumption)) | (refine okOptS_elim ?_ (by assumption)) | (refine okXF_elim ?_ (by assumption)) | (refine okXO_elim ?_ (by assumption)) | split | dsimp only)

theorem State.unitCounted_ok (s : State) (m : PhMsg) (hs : MemOk s) : MemOk (State.unitCounted s m) := by
  unfold State.unitCounted
  with_reducible repeat' (first | assumption | apply ok_of | simp only [ok_mk] | apply State.copyCheck_ok | apply okOpt_some | apply okOpt_none | apply okOpt_mapS | apply okOpt_map | apply okOpt_ite | intro _ _ _ | intro _ | (refine ok_fst ?_ (by assumption)) | (refine ok_snd ?_ (by assumption)) | (refine okOpt_elim ?_ (by assumption)) | (refine okXS_elim ?_ (by assumption)) | (refine okXS_elimE ?_ (by assumption)) | (refine okXE_elim ?_ (by assumption)) | (refine okXE_elimE ?_ (by assumption)) | (refine okX_elim ?_ (by assumption)) | (refine okO_elim ?_ (by assumption)) | (refine okOptF_elim ?_ (by assumption)) | (refine okOptS_elim ?_ (by assumption)) | (refine okXF_elim ?_ (by assumption)) | (refine okXO_elim ?_ (by assumption)) | split | dsimp only)

theorem State.copyUnit_ok (s : State) (id : Nat) (c : CopyCmd) (dir : CpyDir) (pos : Nat) (part : Option Nat) (hs : MemOk s) : MemOk (State.copyUnit s id c dir pos part) := by
  unfold State.copyUnit
  with_reducible repeat' (first | assumption | apply ok_of | simp only [ok_mk] | apply State.waiting_ok | apply State.passed_ok | apply State.copyFail_ok | apply State.sides_ok | apply State.moveBytes_ok | apply State.unitDone_ok | apply okOpt_some | apply okOpt_none | apply okOpt_mapS | apply okOpt_map | apply okOpt_ite | apply okF_ok | apply okF_error | intro _ _ _ | intro _ | (refine ok_fst ?_ (by assumption)) | (refine ok_snd ?_ (by assumption)) | (refine okOpt_elim ?_ (by assumption)) | (refine okXS_elim ?_ (by assumption)) | (refine okXS_elimE ?_ (by assumption)) | (refine okXE_elim ?_ (by assumption)) | (refine okXE_elimE ?_ (by assumption)) | (refine okX_elim ?_ (by assumption)) | (refine okO_elim ?_ (by assumption)) | (refine okOptF_elim ?_ (by assumption)) | (refine okOptS_elim ?_ (by assumption)) | (refine okXF_elim ?_ (by assumption)) | (refine okXO_elim ?_ (by assumption)) | split | dsimp only)

theorem State.pageSettle_ok (s : State) (id : Nat) (idx : Nat) (offl : Bool) (hs : MemOk s) : MemOk (State.pageSettle s id idx offl) := by
  unfold State.pageSettle
  with_reducible repeat' (first | assumption | apply ok_of | simp only [ok_mk] | apply State.passed_ok | apply State.settleWaits_ok | apply State.settlePage_ok | apply State.copyCheck_ok | apply okOpt_some | apply okOpt_none | apply okOpt_mapS | apply okOpt_map | apply okOpt_ite | apply ok_ite | intro _ _ _ | intro _ | (refine ok_fst ?_ (by assumption)) | (refine ok_snd ?_ (by assumption)) | (refine okOpt_elim ?_ (by assumption)) | (refine okXS_elim ?_ (by assumption)) | (refine okXS_elimE ?_ (by assumption)) | (refine okXE_elim ?_ (by assumption)) | (refine okXE_elimE ?_ (by assumption)) | (refine okX_elim ?_ (by assumption)) | (refine okO_elim ?_ (by assumption)) | (refine okOptF_elim ?_ (by assumption)) | (refine okOptS_elim ?_ (by assumption)) | (refine okXF_elim ?_ (by assumption)) | (refine okXO_elim ?_ (by assumption)) | split | dsimp only)

theorem execOffloadPageOut_ok (s : State) (hs : MemOk s) : OkO (execOffloadPageOut s) := by
  unfold execOffloadPageOut
  with_reducible repeat' (first | assumption | apply ok_of | simp only [ok_mk] | apply State.pageSettle_ok | apply okO_next | apply okO_fault | apply okO_refused | apply okE_done | apply okE_ctl | apply okE_fault | apply okE_stall | apply okE_pause | apply okE_trap | apply okE_async | apply okE_gone | apply okE_late | intro _ _ _ | intro _ | (refine ok_fst ?_ (by assumption)) | (refine ok_snd ?_ (by assumption)) | (refine okOpt_elim ?_ (by assumption)) | (refine okXS_elim ?_ (by assumption)) | (refine okXS_elimE ?_ (by assumption)) | (refine okXE_elim ?_ (by assumption)) | (refine okXE_elimE ?_ (by assumption)) | (refine okX_elim ?_ (by assumption)) | (refine okO_elim ?_ (by assumption)) | (refine okOptF_elim ?_ (by assumption)) | (refine okOptS_elim ?_ (by assumption)) | (refine okXF_elim ?_ (by assumption)) | (refine okXO_elim ?_ (by assumption)) | split | dsimp only)

theorem execReturnPageResident_ok (s : State) (hs : MemOk s) : OkO (execReturnPageResident s) := by
  unfold execReturnPageResident
  with_reducible repeat' (first | assumption | apply ok_of | simp only [ok_mk] | apply State.pageSettle_ok | apply okO_next | apply okO_fault | apply okO_refused | apply okE_done | apply okE_ctl | apply okE_fault | apply okE_stall | apply okE_pause | apply okE_trap | apply okE_async | apply okE_gone | apply okE_late | intro _ _ _ | intro _ | (refine ok_fst ?_ (by assumption)) | (refine ok_snd ?_ (by assumption)) | (refine okOpt_elim ?_ (by assumption)) | (refine okXS_elim ?_ (by assumption)) | (refine okXS_elimE ?_ (by assumption)) | (refine okXE_elim ?_ (by assumption)) | (refine okXE_elimE ?_ (by assumption)) | (refine okX_elim ?_ (by assumption)) | (refine okO_elim ?_ (by assumption)) | (refine okOptF_elim ?_ (by assumption)) | (refine okOptS_elim ?_ (by assumption)) | (refine okXF_elim ?_ (by assumption)) | (refine okXO_elim ?_ (by assumption)) | split | dsimp only)

theorem State.retryCopies_ok (s : State) (hs : MemOk s) : MemOk (State.retryCopies s) := by
  unfold State.retryCopies
  with_reducible repeat' (first | assumption | apply ok_of | simp only [ok_mk] | apply State.passed_ok | apply State.copyCheck_ok | apply okOpt_some | apply okOpt_none | apply okOpt_mapS | apply okOpt_map | apply okOpt_ite | apply foldl_ok | apply foldl_fst_ok | intro _ _ _ | intro _ | (refine ok_fst ?_ (by assumption)) | (refine ok_snd ?_ (by assumption)) | (refine okOpt_elim ?_ (by assumption)) | (refine okXS_elim ?_ (by assumption)) | (refine okXS_elimE ?_ (by assumption)) | (refine okXE_elim ?_ (by assumption)) | (refine okXE_elimE ?_ (by assumption)) | (refine okX_elim ?_ (by assumption)) | (refine okO_elim ?_ (by assumption)) | (refine okOptF_elim ?_ (by assumption)) | (refine okOptS_elim ?_ (by assumption)) | (refine okXF_elim ?_ (by assumption)) | (refine okXO_elim ?_ (by assumption)) | split | dsimp only)

theorem State.engineReset_ok (s : State) (e : Nat) (hs : MemOk s) : MemOk (State.engineReset s e) := by
  unfold State.engineReset
  with_reducible repeat' (first | assumption | apply ok_of | simp only [ok_mk] | apply State.copyAbort_ok | apply okOpt_some | apply okOpt_none | apply okOpt_mapS | apply okOpt_map | apply okOpt_ite | apply foldl_ok | apply foldl_fst_ok | intro _ _ _ | intro _ | (refine ok_fst ?_ (by assumption)) | (refine ok_snd ?_ (by assumption)) | (refine okOpt_elim ?_ (by assumption)) | (refine okXS_elim ?_ (by assumption)) | (refine okXS_elimE ?_ (by assumption)) | (refine okXE_elim ?_ (by assumption)) | (refine okXE_elimE ?_ (by assumption)) | (refine okX_elim ?_ (by assumption)) | (refine okO_elim ?_ (by assumption)) | (refine okOptF_elim ?_ (by assumption)) | (refine okOptS_elim ?_ (by assumption)) | (refine okXF_elim ?_ (by assumption)) | (refine okXO_elim ?_ (by assumption)) | split | dsimp only)

theorem State.ceWrite_ok (s : State) (e : Nat) (v : W64) (hs : MemOk s) : MemOk (State.ceWrite s e v) := by
  unfold State.ceWrite
  with_reducible repeat' (first | assumption | apply ok_of | simp only [ok_mk] | apply State.setRegFld_ok | apply State.engineReset_ok | apply ok_ite | intro _ _ _ | intro _ | (refine ok_fst ?_ (by assumption)) | (refine ok_snd ?_ (by assumption)) | (refine okOpt_elim ?_ (by assumption)) | (refine okXS_elim ?_ (by assumption)) | (refine okXS_elimE ?_ (by assumption)) | (refine okXE_elim ?_ (by assumption)) | (refine okXE_elimE ?_ (by assumption)) | (refine okX_elim ?_ (by assumption)) | (refine okO_elim ?_ (by assumption)) | (refine okOptF_elim ?_ (by assumption)) | (refine okOptS_elim ?_ (by assumption)) | (refine okXF_elim ?_ (by assumption)) | (refine okXO_elim ?_ (by assumption)) | split | dsimp only)

theorem execCeReset_ok (s : State) (hs : MemOk s) : OkO (execCeReset s) := by
  unfold execCeReset
  with_reducible repeat' (first | assumption | apply ok_of | simp only [ok_mk] | apply State.engineReset_ok | apply okO_next | apply okO_fault | apply okO_refused | apply okE_done | apply okE_ctl | apply okE_fault | apply okE_stall | apply okE_pause | apply okE_trap | apply okE_async | apply okE_gone | apply okE_late | intro _ _ _ | intro _ | (refine ok_fst ?_ (by assumption)) | (refine ok_snd ?_ (by assumption)) | (refine okOpt_elim ?_ (by assumption)) | (refine okXS_elim ?_ (by assumption)) | (refine okXS_elimE ?_ (by assumption)) | (refine okXE_elim ?_ (by assumption)) | (refine okXE_elimE ?_ (by assumption)) | (refine okX_elim ?_ (by assumption)) | (refine okO_elim ?_ (by assumption)) | (refine okOptF_elim ?_ (by assumption)) | (refine okOptS_elim ?_ (by assumption)) | (refine okXF_elim ?_ (by assumption)) | (refine okXO_elim ?_ (by assumption)) | split | dsimp only)

theorem execCeEn_ok (s : State) (hs : MemOk s) : OkO (execCeEn s) := by
  unfold execCeEn
  with_reducible repeat' (first | assumption | apply ok_of | simp only [ok_mk] | apply State.setRegFld_ok | apply okO_next | apply okO_fault | apply okO_refused | apply okE_done | apply okE_ctl | apply okE_fault | apply okE_stall | apply okE_pause | apply okE_trap | apply okE_async | apply okE_gone | apply okE_late | intro _ _ _ | intro _ | (refine ok_fst ?_ (by assumption)) | (refine ok_snd ?_ (by assumption)) | (refine okOpt_elim ?_ (by assumption)) | (refine okXS_elim ?_ (by assumption)) | (refine okXS_elimE ?_ (by assumption)) | (refine okXE_elim ?_ (by assumption)) | (refine okXE_elimE ?_ (by assumption)) | (refine okX_elim ?_ (by assumption)) | (refine okO_elim ?_ (by assumption)) | (refine okOptF_elim ?_ (by assumption)) | (refine okOptS_elim ?_ (by assumption)) | (refine okXF_elim ?_ (by assumption)) | (refine okXO_elim ?_ (by assumption)) | split | dsimp only)

theorem State.fxFault_ok (s : State) (p : Nat) (code : BitVec 8) (detail : Nat) (addr : W64) (hs : MemOk s) : MemOk (State.fxFault s p code detail addr) := by
  unfold State.fxFault
  with_reducible repeat' (first | assumption | apply ok_of | simp only [ok_mk] | apply State.updAny_ok | apply State.phaserGc_ok | apply State.originDone_ok | apply State.tryTeamEnd_ok | apply State.fxStop_ok | apply State.checkEndings_ok | apply State.cmdFault_ok | apply okOpt_some | apply okOpt_none | apply okOpt_mapS | apply okOpt_map | apply okOpt_ite | intro _ _ _ | intro _ | (refine ok_fst ?_ (by assumption)) | (refine ok_snd ?_ (by assumption)) | (refine okOpt_elim ?_ (by assumption)) | (refine okXS_elim ?_ (by assumption)) | (refine okXS_elimE ?_ (by assumption)) | (refine okXE_elim ?_ (by assumption)) | (refine okXE_elimE ?_ (by assumption)) | (refine okX_elim ?_ (by assumption)) | (refine okO_elim ?_ (by assumption)) | (refine okOptF_elim ?_ (by assumption)) | (refine okOptS_elim ?_ (by assumption)) | (refine okXF_elim ?_ (by assumption)) | (refine okXO_elim ?_ (by assumption)) | split | dsimp only)

theorem State.fxTry_ok (s : State) (p : Nat) (code : BitVec 8) (detail : Nat) (addr : W64) (hs : MemOk s) : MemOk (State.fxTry s p code detail addr) := by
  unfold State.fxTry
  with_reducible repeat' (first | assumption | apply ok_of | simp only [ok_mk] | apply State.pass_ok | apply State.fxIdle_ok | apply State.claim_ok | apply State.fxFault_ok | intro _ _ _ | intro _ | (refine ok_fst ?_ (by assumption)) | (refine ok_snd ?_ (by assumption)) | (refine okOpt_elim ?_ (by assumption)) | (refine okXS_elim ?_ (by assumption)) | (refine okXS_elimE ?_ (by assumption)) | (refine okXE_elim ?_ (by assumption)) | (refine okXE_elimE ?_ (by assumption)) | (refine okX_elim ?_ (by assumption)) | (refine okO_elim ?_ (by assumption)) | (refine okOptF_elim ?_ (by assumption)) | (refine okOptS_elim ?_ (by assumption)) | (refine okXF_elim ?_ (by assumption)) | (refine okXO_elim ?_ (by assumption)) | split | dsimp only)

theorem State.fxFail_ok (s : State) (p : Nat) (code : BitVec 8) (detail : Nat) (addr : W64) (hs : MemOk s) : MemOk (State.fxFail s p code detail addr) := by
  unfold State.fxFail
  with_reducible repeat' (first | assumption | apply ok_of | simp only [ok_mk] | apply State.fxTry_ok | intro _ _ _ | intro _ | (refine ok_fst ?_ (by assumption)) | (refine ok_snd ?_ (by assumption)) | (refine okOpt_elim ?_ (by assumption)) | (refine okXS_elim ?_ (by assumption)) | (refine okXS_elimE ?_ (by assumption)) | (refine okXE_elim ?_ (by assumption)) | (refine okXE_elimE ?_ (by assumption)) | (refine okX_elim ?_ (by assumption)) | (refine okO_elim ?_ (by assumption)) | (refine okOptF_elim ?_ (by assumption)) | (refine okOptS_elim ?_ (by assumption)) | (refine okXF_elim ?_ (by assumption)) | (refine okXO_elim ?_ (by assumption)) | split | dsimp only)

theorem State.fxAbort_ok (s : State) (p : Nat) (hs : MemOk s) : MemOk (State.fxAbort s p) := by
  unfold State.fxAbort
  with_reducible repeat' (first | assumption | apply ok_of | simp only [ok_mk] | apply State.setRegFld_ok | apply State.fxFail_ok | intro _ _ _ | intro _ | (refine ok_fst ?_ (by assumption)) | (refine ok_snd ?_ (by assumption)) | (refine okOpt_elim ?_ (by assumption)) | (refine okXS_elim ?_ (by assumption)) | (refine okXS_elimE ?_ (by assumption)) | (refine okXE_elim ?_ (by assumption)) | (refine okXE_elimE ?_ (by assumption)) | (refine okX_elim ?_ (by assumption)) | (refine okO_elim ?_ (by assumption)) | (refine okOptF_elim ?_ (by assumption)) | (refine okOptS_elim ?_ (by assumption)) | (refine okXF_elim ?_ (by assumption)) | (refine okXO_elim ?_ (by assumption)) | split | dsimp only)

theorem State.retryFx_ok (s : State) (hs : MemOk s) : MemOk (State.retryFx s) := by
  unfold State.retryFx
  with_reducible repeat' (first | assumption | apply ok_of | simp only [ok_mk] | apply State.fxTry_ok | apply foldl_ok | apply foldl_fst_ok | intro _ _ _ | intro _ | (refine ok_fst ?_ (by assumption)) | (refine ok_snd ?_ (by assumption)) | (refine okOpt_elim ?_ (by assumption)) | (refine okXS_elim ?_ (by assumption)) | (refine okXS_elimE ?_ (by assumption)) | (refine okXE_elim ?_ (by assumption)) | (refine okXE_elimE ?_ (by assumption)) | (refine okX_elim ?_ (by assumption)) | (refine okO_elim ?_ (by assumption)) | (refine okOptF_elim ?_ (by assumption)) | (refine okOptS_elim ?_ (by assumption)) | (refine okXF_elim ?_ (by assumption)) | (refine okXO_elim ?_ (by assumption)) | split | dsimp only)

theorem State.serveAt_ok (s : State) (die : Nat) (slot : Nat) (p : Packet) (hs : MemOk s) : MemOk (State.serveAt s die slot p).1 := by
  unfold State.serveAt
  with_reducible repeat' (first | assumption | apply ok_of | simp only [ok_mk] | apply State.rawRead_ok | apply State.rawWrite_ok | apply State.rawUpd_ok | apply okOpt_some | apply okOpt_none | apply okOpt_mapS | apply okOpt_map | apply okOpt_ite | apply ok_ite | intro _ _ _ | intro _ | (refine ok_fst ?_ (by assumption)) | (refine ok_snd ?_ (by assumption)) | (refine okOpt_elim ?_ (by assumption)) | (refine okXS_elim ?_ (by assumption)) | (refine okXS_elimE ?_ (by assumption)) | (refine okXE_elim ?_ (by assumption)) | (refine okXE_elimE ?_ (by assumption)) | (refine okX_elim ?_ (by assumption)) | (refine okO_elim ?_ (by assumption)) | (refine okOptF_elim ?_ (by assumption)) | (refine okOptS_elim ?_ (by assumption)) | (refine okXF_elim ?_ (by assumption)) | (refine okXO_elim ?_ (by assumption)) | split | dsimp only)

theorem State.serve_ok (s : State) (die : Nat) (p : Packet) (hs : MemOk s) : MemOk (State.serve s die p).1 := by
  unfold State.serve
  with_reducible repeat' (first | assumption | apply ok_of | simp only [ok_mk] | apply State.serveAt_ok | apply okOpt_some | apply okOpt_none | apply okOpt_mapS | apply okOpt_map | apply okOpt_ite | intro _ _ _ | intro _ | (refine ok_fst ?_ (by assumption)) | (refine ok_snd ?_ (by assumption)) | (refine okOpt_elim ?_ (by assumption)) | (refine okXS_elim ?_ (by assumption)) | (refine okXS_elimE ?_ (by assumption)) | (refine okXE_elim ?_ (by assumption)) | (refine okXE_elimE ?_ (by assumption)) | (refine okX_elim ?_ (by assumption)) | (refine okO_elim ?_ (by assumption)) | (refine okOptF_elim ?_ (by assumption)) | (refine okOptS_elim ?_ (by assumption)) | (refine okXF_elim ?_ (by assumption)) | (refine okXO_elim ?_ (by assumption)) | split | dsimp only)

theorem execFabricPacketArrival_ok (s : State) (hs : MemOk s) : OkO (execFabricPacketArrival s) := by
  unfold execFabricPacketArrival
  with_reducible repeat' (first | assumption | apply ok_of | simp only [ok_mk] | apply State.waiting_ok | apply State.passed_ok | apply State.serve_ok | apply okO_next | apply okO_fault | apply okO_refused | apply okE_done | apply okE_ctl | apply okE_fault | apply okE_stall | apply okE_pause | apply okE_trap | apply okE_async | apply okE_gone | apply okE_late | apply okOpt_some | apply okOpt_none | apply okOpt_mapS | apply okOpt_map | apply okOpt_ite | apply ok_ite | intro _ _ _ | intro _ | (refine ok_fst ?_ (by assumption)) | (refine ok_snd ?_ (by assumption)) | (refine okOpt_elim ?_ (by assumption)) | (refine okXS_elim ?_ (by assumption)) | (refine okXS_elimE ?_ (by assumption)) | (refine okXE_elim ?_ (by assumption)) | (refine okXE_elimE ?_ (by assumption)) | (refine okX_elim ?_ (by assumption)) | (refine okO_elim ?_ (by assumption)) | (refine okOptF_elim ?_ (by assumption)) | (refine okOptS_elim ?_ (by assumption)) | (refine okXF_elim ?_ (by assumption)) | (refine okXO_elim ?_ (by assumption)) | split | dsimp only)

theorem State.jobWrite_ok (s : State) (n : Nat) (v : W64) (hs : MemOk s) : MemOk (State.jobWrite s n v) := by
  unfold State.jobWrite
  with_reducible repeat' (first | assumption | apply ok_of | simp only [ok_mk] | apply State.regPut_ok | apply ok_ite | intro _ _ _ | intro _ | (refine ok_fst ?_ (by assumption)) | (refine ok_snd ?_ (by assumption)) | (refine okOpt_elim ?_ (by assumption)) | (refine okXS_elim ?_ (by assumption)) | (refine okXS_elimE ?_ (by assumption)) | (refine okXE_elim ?_ (by assumption)) | (refine okXE_elimE ?_ (by assumption)) | (refine okX_elim ?_ (by assumption)) | (refine okO_elim ?_ (by assumption)) | (refine okOptF_elim ?_ (by assumption)) | (refine okOptS_elim ?_ (by assumption)) | (refine okXF_elim ?_ (by assumption)) | (refine okXO_elim ?_ (by assumption)) | split | dsimp only)

theorem execUeJobWrite_ok (s : State) (hs : MemOk s) : OkO (execUeJobWrite s) := by
  unfold execUeJobWrite
  with_reducible repeat' (first | assumption | apply ok_of | simp only [ok_mk] | apply State.jobWrite_ok | apply okO_next | apply okO_fault | apply okO_refused | apply okE_done | apply okE_ctl | apply okE_fault | apply okE_stall | apply okE_pause | apply okE_trap | apply okE_async | apply okE_gone | apply okE_late | intro _ _ _ | intro _ | (refine ok_fst ?_ (by assumption)) | (refine ok_snd ?_ (by assumption)) | (refine okOpt_elim ?_ (by assumption)) | (refine okXS_elim ?_ (by assumption)) | (refine okXS_elimE ?_ (by assumption)) | (refine okXE_elim ?_ (by assumption)) | (refine okXE_elimE ?_ (by assumption)) | (refine okX_elim ?_ (by assumption)) | (refine okO_elim ?_ (by assumption)) | (refine okOptF_elim ?_ (by assumption)) | (refine okOptS_elim ?_ (by assumption)) | (refine okXF_elim ?_ (by assumption)) | (refine okXO_elim ?_ (by assumption)) | split | dsimp only)

theorem State.pageLand_ok (s : State) (id : Nat) (c : CopyCmd) (pos : Nat) (bs : List Byte) (hs : MemOk s) : MemOk (State.pageLand s id c pos bs) := by
  unfold State.pageLand
  with_reducible repeat' (first | assumption | apply ok_of | simp only [ok_mk] | apply State.rawPut_ok | apply State.copyFail_ok | apply State.unitDone_ok | apply okOpt_some | apply okOpt_none | apply okOpt_mapS | apply okOpt_map | apply okOpt_ite | intro _ _ _ | intro _ | (refine ok_fst ?_ (by assumption)) | (refine ok_snd ?_ (by assumption)) | (refine okOpt_elim ?_ (by assumption)) | (refine okXS_elim ?_ (by assumption)) | (refine okXS_elimE ?_ (by assumption)) | (refine okXE_elim ?_ (by assumption)) | (refine okXE_elimE ?_ (by assumption)) | (refine okX_elim ?_ (by assumption)) | (refine okO_elim ?_ (by assumption)) | (refine okOptF_elim ?_ (by assumption)) | (refine okOptS_elim ?_ (by assumption)) | (refine okXF_elim ?_ (by assumption)) | (refine okXO_elim ?_ (by assumption)) | split | dsimp only)

theorem State.answered_ok (s : State) (id : Nat) (part : Nat) (hs : MemOk s) : MemOk (State.answered s id part) := by
  unfold State.answered
  with_reducible repeat' (first | assumption | apply ok_of | simp only [ok_mk] | intro _ _ _ | intro _ | (refine ok_fst ?_ (by assumption)) | (refine ok_snd ?_ (by assumption)) | (refine okOpt_elim ?_ (by assumption)) | (refine okXS_elim ?_ (by assumption)) | (refine okXS_elimE ?_ (by assumption)) | (refine okXE_elim ?_ (by assumption)) | (refine okXE_elimE ?_ (by assumption)) | (refine okX_elim ?_ (by assumption)) | (refine okO_elim ?_ (by assumption)) | (refine okOptF_elim ?_ (by assumption)) | (refine okOptS_elim ?_ (by assumption)) | (refine okXF_elim ?_ (by assumption)) | (refine okXO_elim ?_ (by assumption)) | split | dsimp only)

theorem State.pageReply_ok (s : State) (id : Nat) (c : CopyCmd) (pos : Nat) (r : Reply) (hs : MemOk s) : MemOk (State.pageReply s id c pos r) := by
  unfold State.pageReply
  with_reducible repeat' (first | assumption | apply ok_of | simp only [ok_mk] | apply State.copyFail_ok | apply State.unitDone_ok | apply State.pageLand_ok | apply State.answered_ok | apply okOpt_some | apply okOpt_none | apply okOpt_mapS | apply okOpt_map | apply okOpt_ite | apply ok_ite | intro _ _ _ | intro _ | (refine ok_fst ?_ (by assumption)) | (refine ok_snd ?_ (by assumption)) | (refine okOpt_elim ?_ (by assumption)) | (refine okXS_elim ?_ (by assumption)) | (refine okXS_elimE ?_ (by assumption)) | (refine okXE_elim ?_ (by assumption)) | (refine okXE_elimE ?_ (by assumption)) | (refine okX_elim ?_ (by assumption)) | (refine okO_elim ?_ (by assumption)) | (refine okOptF_elim ?_ (by assumption)) | (refine okOptS_elim ?_ (by assumption)) | (refine okXF_elim ?_ (by assumption)) | (refine okXO_elim ?_ (by assumption)) | split | dsimp only)

theorem State.pageUnit_ok (s : State) (id : Nat) (c : CopyCmd) (pos : Nat) (hs : MemOk s) : MemOk (State.pageUnit s id c pos) := by
  unfold State.pageUnit
  with_reducible repeat' (first | assumption | apply ok_of | simp only [ok_mk] | apply State.waiting_ok | apply State.passed_ok | apply State.rawRead_ok | apply State.copyFail_ok | apply State.serve_ok | apply State.pageReply_ok | apply okOpt_some | apply okOpt_none | apply okOpt_mapS | apply okOpt_map | apply okOpt_ite | apply ok_ite | intro _ _ _ | intro _ | (refine ok_fst ?_ (by assumption)) | (refine ok_snd ?_ (by assumption)) | (refine okOpt_elim ?_ (by assumption)) | (refine okXS_elim ?_ (by assumption)) | (refine okXS_elimE ?_ (by assumption)) | (refine okXE_elim ?_ (by assumption)) | (refine okXE_elimE ?_ (by assumption)) | (refine okX_elim ?_ (by assumption)) | (refine okO_elim ?_ (by assumption)) | (refine okOptF_elim ?_ (by assumption)) | (refine okOptS_elim ?_ (by assumption)) | (refine okXF_elim ?_ (by assumption)) | (refine okXO_elim ?_ (by assumption)) | split | dsimp only)

theorem State.remoteEnd_ok (s : State) (id : Nat) (c : RemoteCmd) (hs : MemOk s) : MemOk (State.remoteEnd s id c) := by
  unfold State.remoteEnd
  with_reducible repeat' (first | assumption | apply ok_of | simp only [ok_mk] | apply State.acquire_ok | apply State.drainDone_ok | apply State.afterCmd_ok | apply okOpt_some | apply okOpt_none | apply okOpt_mapS | apply okOpt_map | apply okOpt_ite | apply ok_ite | intro _ _ _ | intro _ | (refine ok_fst ?_ (by assumption)) | (refine ok_snd ?_ (by assumption)) | (refine okOpt_elim ?_ (by assumption)) | (refine okXS_elim ?_ (by assumption)) | (refine okXS_elimE ?_ (by assumption)) | (refine okXE_elim ?_ (by assumption)) | (refine okXE_elimE ?_ (by assumption)) | (refine okX_elim ?_ (by assumption)) | (refine okO_elim ?_ (by assumption)) | (refine okOptF_elim ?_ (by assumption)) | (refine okOptS_elim ?_ (by assumption)) | (refine okXF_elim ?_ (by assumption)) | (refine okXO_elim ?_ (by assumption)) | split | dsimp only)

theorem State.remoteRaise_ok (s : State) (c : RemoteCmd) (code : Nat) (detail : Nat) (va : W64) (hs : MemOk s) : MemOk (State.remoteRaise s c code detail va) := by
  unfold State.remoteRaise
  with_reducible repeat' (first | assumption | apply ok_of | simp only [ok_mk] | apply State.cmdFault_ok | apply ok_ite | intro _ _ _ | intro _ | (refine ok_fst ?_ (by assumption)) | (refine ok_snd ?_ (by assumption)) | (refine okOpt_elim ?_ (by assumption)) | (refine okXS_elim ?_ (by assumption)) | (refine okXS_elimE ?_ (by assumption)) | (refine okXE_elim ?_ (by assumption)) | (refine okXE_elimE ?_ (by assumption)) | (refine okX_elim ?_ (by assumption)) | (refine okO_elim ?_ (by assumption)) | (refine okOptF_elim ?_ (by assumption)) | (refine okOptS_elim ?_ (by assumption)) | (refine okXF_elim ?_ (by assumption)) | (refine okXO_elim ?_ (by assumption)) | split | dsimp only)

theorem State.remoteFault_ok (s : State) (id : Nat) (c : RemoteCmd) (code : Nat) (detail : Nat) (va : W64) (hs : MemOk s) : MemOk (State.remoteFault s id c code detail va) := by
  unfold State.remoteFault
  with_reducible repeat' (first | assumption | apply ok_of | simp only [ok_mk] | apply State.remoteEnd_ok | apply State.remoteRaise_ok | intro _ _ _ | intro _ | (refine ok_fst ?_ (by assumption)) | (refine ok_snd ?_ (by assumption)) | (refine okOpt_elim ?_ (by assumption)) | (refine okXS_elim ?_ (by assumption)) | (refine okXS_elimE ?_ (by assumption)) | (refine okXE_elim ?_ (by assumption)) | (refine okXE_elimE ?_ (by assumption)) | (refine okX_elim ?_ (by assumption)) | (refine okO_elim ?_ (by assumption)) | (refine okOptF_elim ?_ (by assumption)) | (refine okOptS_elim ?_ (by assumption)) | (refine okXF_elim ?_ (by assumption)) | (refine okXO_elim ?_ (by assumption)) | split | dsimp only)

theorem State.remotePut_ok (s : State) (id : Nat) (c : RemoteCmd) (hs : MemOk s) : MemOk (State.remotePut s id c) := by
  unfold State.remotePut
  with_reducible repeat' (first | assumption | apply ok_of | simp only [ok_mk] | apply State.remoteEnd_ok | apply State.remoteFault_ok | apply okOpt_some | apply okOpt_none | apply okOpt_mapS | apply okOpt_map | apply okOpt_ite | apply ok_ite | intro _ _ _ | intro _ | (refine ok_fst ?_ (by assumption)) | (refine ok_snd ?_ (by assumption)) | (refine okOpt_elim ?_ (by assumption)) | (refine okXS_elim ?_ (by assumption)) | (refine okXS_elimE ?_ (by assumption)) | (refine okXE_elim ?_ (by assumption)) | (refine okXE_elimE ?_ (by assumption)) | (refine okX_elim ?_ (by assumption)) | (refine okO_elim ?_ (by assumption)) | (refine okOptF_elim ?_ (by assumption)) | (refine okOptS_elim ?_ (by assumption)) | (refine okXF_elim ?_ (by assumption)) | (refine okXO_elim ?_ (by assumption)) | split | dsimp only)

theorem State.remoteCount_ok (s : State) (id : Nat) (c : RemoteCmd) (n : Nat) (pos : Nat) (va : W64) (w : Wrote) (hs : MemOk s) : MemOk (State.remoteCount s id c n pos va w) := by
  unfold State.remoteCount
  with_reducible repeat' (first | assumption | apply ok_of | simp only [ok_mk] | apply State.sendCount_ok | apply okOpt_some | apply okOpt_none | apply okOpt_mapS | apply okOpt_map | apply okOpt_ite | apply ok_ite | intro _ _ _ | intro _ | (refine ok_fst ?_ (by assumption)) | (refine ok_snd ?_ (by assumption)) | (refine okOpt_elim ?_ (by assumption)) | (refine okXS_elim ?_ (by assumption)) | (refine okXS_elimE ?_ (by assumption)) | (refine okXE_elim ?_ (by assumption)) | (refine okXE_elimE ?_ (by assumption)) | (refine okX_elim ?_ (by assumption)) | (refine okO_elim ?_ (by assumption)) | (refine okOptF_elim ?_ (by assumption)) | (refine okOptS_elim ?_ (by assumption)) | (refine okXF_elim ?_ (by assumption)) | (refine okXO_elim ?_ (by assumption)) | split | dsimp only)

theorem State.pendAdd_ok (s : State) (c : RemoteCmd) (ws : List RegWrite) (demote : Bool) (hs : MemOk s) : MemOk (State.pendAdd s c ws demote) := by
  unfold State.pendAdd
  with_reducible repeat' (first | assumption | apply ok_of | simp only [ok_mk] | apply State.updGrp_ok | apply okOpt_some | apply okOpt_none | apply okOpt_mapS | apply okOpt_map | apply okOpt_ite | intro _ _ _ | intro _ | (refine ok_fst ?_ (by assumption)) | (refine ok_snd ?_ (by assumption)) | (refine okOpt_elim ?_ (by assumption)) | (refine okXS_elim ?_ (by assumption)) | (refine okXS_elimE ?_ (by assumption)) | (refine okXE_elim ?_ (by assumption)) | (refine okXE_elimE ?_ (by assumption)) | (refine okX_elim ?_ (by assumption)) | (refine okO_elim ?_ (by assumption)) | (refine okOptF_elim ?_ (by assumption)) | (refine okOptS_elim ?_ (by assumption)) | (refine okXF_elim ?_ (by assumption)) | (refine okXO_elim ?_ (by assumption)) | split | dsimp only)

theorem State.partFault_ok (s : State) (id : Nat) (c : RemoteCmd) (part : Nat) (code : Nat) (detail : Nat) (va : W64) (hs : MemOk s) : MemOk (State.partFault s id c part code detail va) := by
  unfold State.partFault
  with_reducible repeat' (first | assumption | apply ok_of | simp only [ok_mk] | apply State.remoteFault_ok | apply State.remotePut_ok | intro _ _ _ | intro _ | (refine ok_fst ?_ (by assumption)) | (refine ok_snd ?_ (by assumption)) | (refine okOpt_elim ?_ (by assumption)) | (refine okXS_elim ?_ (by assumption)) | (refine okXS_elimE ?_ (by assumption)) | (refine okXE_elim ?_ (by assumption)) | (refine okXE_elimE ?_ (by assumption)) | (refine okX_elim ?_ (by assumption)) | (refine okO_elim ?_ (by assumption)) | (refine okOptF_elim ?_ (by assumption)) | (refine okOptS_elim ?_ (by assumption)) | (refine okXF_elim ?_ (by assumption)) | (refine okXO_elim ?_ (by assumption)) | split | dsimp only)

theorem State.remoteReply_ok (s : State) (id : Nat) (c : RemoteCmd) (part : Nat) (r : Reply) (hs : MemOk s) : OkXS (State.remoteReply s id c part r) := by
  unfold State.remoteReply
  with_reducible repeat' (first | assumption | apply ok_of | simp only [ok_mk] | apply State.rawWrite_ok | apply State.answered_ok | apply State.remotePut_ok | apply State.remoteCount_ok | apply State.pendAdd_ok | apply State.partFault_ok | apply okOpt_some | apply okOpt_none | apply okOpt_mapS | apply okOpt_map | apply okOpt_ite | apply okXS_ok | apply okXS_error | apply foldl_ok | apply foldl_fst_ok | apply ok_ite | intro _ _ _ | intro _ | (refine ok_fst ?_ (by assumption)) | (refine ok_snd ?_ (by assumption)) | (refine okOpt_elim ?_ (by assumption)) | (refine okXS_elim ?_ (by assumption)) | (refine okXS_elimE ?_ (by assumption)) | (refine okXE_elim ?_ (by assumption)) | (refine okXE_elimE ?_ (by assumption)) | (refine okX_elim ?_ (by assumption)) | (refine okO_elim ?_ (by assumption)) | (refine okOptF_elim ?_ (by assumption)) | (refine okOptS_elim ?_ (by assumption)) | (refine okXF_elim ?_ (by assumption)) | (refine okXO_elim ?_ (by assumption)) | split | dsimp only)

theorem State.remoteNext_ok (s : State) (c : RemoteCmd) (part : Nat) (hs : MemOk s) : MemOk (State.remoteNext s c part).1 := by
  unfold State.remoteNext
  with_reducible repeat' (first | assumption | apply ok_of | simp only [ok_mk] | apply State.rawRead_ok | apply okOpt_some | apply okOpt_none | apply okOpt_mapS | apply okOpt_map | apply okOpt_ite | apply okF_ok | apply okF_error | apply ok_ite | intro _ _ _ | intro _ | (refine ok_fst ?_ (by assumption)) | (refine ok_snd ?_ (by assumption)) | (refine okOpt_elim ?_ (by assumption)) | (refine okXS_elim ?_ (by assumption)) | (refine okXS_elimE ?_ (by assumption)) | (refine okXE_elim ?_ (by assumption)) | (refine okXE_elimE ?_ (by assumption)) | (refine okX_elim ?_ (by assumption)) | (refine okO_elim ?_ (by assumption)) | (refine okOptF_elim ?_ (by assumption)) | (refine okOptS_elim ?_ (by assumption)) | (refine okXF_elim ?_ (by assumption)) | (refine okXO_elim ?_ (by assumption)) | split | dsimp only)

theorem State.remoteUnit_ok (s : State) (id : Nat) (c : RemoteCmd) (part : Nat) (hs : MemOk s) : MemOk (State.remoteUnit s id c part) := by
  unfold State.remoteUnit
  with_reducible repeat' (first | assumption | apply ok_of | simp only [ok_mk] | apply State.waiting_ok | apply State.passed_ok | apply State.serve_ok | apply State.partFault_ok | apply State.remoteReply_ok | apply State.remoteNext_ok | apply okE_done | apply okE_ctl | apply okE_fault | apply okE_stall | apply okE_pause | apply okE_trap | apply okE_async | apply okE_gone | apply okE_late | apply okOpt_some | apply okOpt_none | apply okOpt_mapS | apply okOpt_map | apply okOpt_ite | apply ok_ite | intro _ _ _ | intro _ | (refine ok_fst ?_ (by assumption)) | (refine ok_snd ?_ (by assumption)) | (refine okOpt_elim ?_ (by assumption)) | (refine okXS_elim ?_ (by assumption)) | (refine okXS_elimE ?_ (by assumption)) | (refine okXE_elim ?_ (by assumption)) | (refine okXE_elimE ?_ (by assumption)) | (refine okX_elim ?_ (by assumption)) | (refine okO_elim ?_ (by assumption)) | (refine okOptF_elim ?_ (by assumption)) | (refine okOptS_elim ?_ (by assumption)) | (refine okXF_elim ?_ (by assumption)) | (refine okXO_elim ?_ (by assumption)) | split | dsimp only)

theorem State.setFx_ok (s : State) (p : Nat) (x : FxSt) (hs : MemOk s) : MemOk (State.setFx s p x) := by
  unfold State.setFx
  with_reducible repeat' (first | assumption | apply ok_of | simp only [ok_mk] | intro _ _ _ | intro _ | (refine ok_fst ?_ (by assumption)) | (refine ok_snd ?_ (by assumption)) | (refine okOpt_elim ?_ (by assumption)) | (refine okXS_elim ?_ (by assumption)) | (refine okXS_elimE ?_ (by assumption)) | (refine okXE_elim ?_ (by assumption)) | (refine okXE_elimE ?_ (by assumption)) | (refine okX_elim ?_ (by assumption)) | (refine okO_elim ?_ (by assumption)) | (refine okOptF_elim ?_ (by assumption)) | (refine okOptS_elim ?_ (by assumption)) | (refine okXF_elim ?_ (by assumption)) | (refine okXO_elim ?_ (by assumption)) | split | dsimp only)

theorem State.pushFx_ok (s : State) (p : Nat) (st : FxStart) (hs : MemOk s) : MemOk (State.pushFx s p st) := by
  unfold State.pushFx
  with_reducible repeat' (first | assumption | apply ok_of | simp only [ok_mk] | apply State.setFx_ok | intro _ _ _ | intro _ | (refine ok_fst ?_ (by assumption)) | (refine ok_snd ?_ (by assumption)) | (refine okOpt_elim ?_ (by assumption)) | (refine okXS_elim ?_ (by assumption)) | (refine okXS_elimE ?_ (by assumption)) | (refine okXE_elim ?_ (by assumption)) | (refine okXE_elimE ?_ (by assumption)) | (refine okX_elim ?_ (by assumption)) | (refine okO_elim ?_ (by assumption)) | (refine okOptF_elim ?_ (by assumption)) | (refine okOptS_elim ?_ (by assumption)) | (refine okXF_elim ?_ (by assumption)) | (refine okXO_elim ?_ (by assumption)) | split | dsimp only)

theorem State.fxAck_ok (s : State) (id : Nat) (r : Reply) (hs : MemOk s) : MemOk (State.fxAck s id r) := by
  unfold State.fxAck
  with_reducible repeat' (first | assumption | apply ok_of | simp only [ok_mk] | apply State.fxFail_ok | apply State.setFx_ok | apply okOpt_some | apply okOpt_none | apply okOpt_mapS | apply okOpt_map | apply okOpt_ite | apply ok_ite | intro _ _ _ | intro _ | (refine ok_fst ?_ (by assumption)) | (refine ok_snd ?_ (by assumption)) | (refine okOpt_elim ?_ (by assumption)) | (refine okXS_elim ?_ (by assumption)) | (refine okXS_elimE ?_ (by assumption)) | (refine okXE_elim ?_ (by assumption)) | (refine okXE_elimE ?_ (by assumption)) | (refine okX_elim ?_ (by assumption)) | (refine okO_elim ?_ (by assumption)) | (refine okOptF_elim ?_ (by assumption)) | (refine okOptS_elim ?_ (by assumption)) | (refine okXF_elim ?_ (by assumption)) | (refine okXO_elim ?_ (by assumption)) | split | dsimp only)

theorem execDeliveryUnitCount_ok (s : State) (hs : MemOk s) : OkO (execDeliveryUnitCount s) := by
  unfold execDeliveryUnitCount
  with_reducible repeat' (first | assumption | apply ok_of | simp only [ok_mk] | apply State.copyUnit_ok | apply State.pageUnit_ok | apply State.remoteUnit_ok | apply okO_next | apply okO_fault | apply okO_refused | apply okE_done | apply okE_ctl | apply okE_fault | apply okE_stall | apply okE_pause | apply okE_trap | apply okE_async | apply okE_gone | apply okE_late | apply okOpt_some | apply okOpt_none | apply okOpt_mapS | apply okOpt_map | apply okOpt_ite | apply ok_ite | intro _ _ _ | intro _ | (refine ok_fst ?_ (by assumption)) | (refine ok_snd ?_ (by assumption)) | (refine okOpt_elim ?_ (by assumption)) | (refine okXS_elim ?_ (by assumption)) | (refine okXS_elimE ?_ (by assumption)) | (refine okXE_elim ?_ (by assumption)) | (refine okXE_elimE ?_ (by assumption)) | (refine okX_elim ?_ (by assumption)) | (refine okO_elim ?_ (by assumption)) | (refine okOptF_elim ?_ (by assumption)) | (refine okOptS_elim ?_ (by assumption)) | (refine okXF_elim ?_ (by assumption)) | (refine okXO_elim ?_ (by assumption)) | split | dsimp only)

theorem State.ckptFail_ok (s : State) (hs : MemOk s) : MemOk (State.ckptFail s) := by
  unfold State.ckptFail
  with_reducible repeat' (first | assumption | apply ok_of | simp only [ok_mk] | apply State.event_ok | apply State.packetDone_ok | apply okOpt_some | apply okOpt_none | apply okOpt_mapS | apply okOpt_map | apply okOpt_ite | intro _ _ _ | intro _ | (refine ok_fst ?_ (by assumption)) | (refine ok_snd ?_ (by assumption)) | (refine okOpt_elim ?_ (by assumption)) | (refine okXS_elim ?_ (by assumption)) | (refine okXS_elimE ?_ (by assumption)) | (refine okXE_elim ?_ (by assumption)) | (refine okXE_elimE ?_ (by assumption)) | (refine okX_elim ?_ (by assumption)) | (refine okO_elim ?_ (by assumption)) | (refine okOptF_elim ?_ (by assumption)) | (refine okOptS_elim ?_ (by assumption)) | (refine okXF_elim ?_ (by assumption)) | (refine okXO_elim ?_ (by assumption)) | split | dsimp only)

theorem execRemoteAcknowledge_ok (s : State) (hs : MemOk s) : OkO (execRemoteAcknowledge s) := by
  unfold execRemoteAcknowledge
  with_reducible repeat' (first | assumption | apply ok_of | simp only [ok_mk] | apply State.waiting_ok | apply State.passed_ok | apply State.pageReply_ok | apply State.remoteReply_ok | apply State.fxAck_ok | apply State.ckptFail_ok | apply okO_next | apply okO_fault | apply okO_refused | apply okE_done | apply okE_ctl | apply okE_fault | apply okE_stall | apply okE_pause | apply okE_trap | apply okE_async | apply okE_gone | apply okE_late | apply okOpt_some | apply okOpt_none | apply okOpt_mapS | apply okOpt_map | apply okOpt_ite | apply ok_ite | intro _ _ _ | intro _ | (refine ok_fst ?_ (by assumption)) | (refine ok_snd ?_ (by assumption)) | (refine okOpt_elim ?_ (by assumption)) | (refine okXS_elim ?_ (by assumption)) | (refine okXS_elimE ?_ (by assumption)) | (refine okXE_elim ?_ (by assumption)) | (refine okXE_elimE ?_ (by assumption)) | (refine okX_elim ?_ (by assumption)) | (refine okO_elim ?_ (by assumption)) | (refine okOptF_elim ?_ (by assumption)) | (refine okOptS_elim ?_ (by assumption)) | (refine okXF_elim ?_ (by assumption)) | (refine okXO_elim ?_ (by assumption)) | split | dsimp only)

theorem execRemoteTriggerFire_ok (s : State) (hs : MemOk s) : OkO (execRemoteTriggerFire s) := by
  unfold execRemoteTriggerFire
  with_reducible repeat' (first | assumption | apply ok_of | simp only [ok_mk] | apply State.engRead_ok | apply State.remoteFault_ok | apply okO_next | apply okO_fault | apply okO_refused | apply okE_done | apply okE_ctl | apply okE_fault | apply okE_stall | apply okE_pause | apply okE_trap | apply okE_async | apply okE_gone | apply okE_late | apply okOpt_some | apply okOpt_none | apply okOpt_mapS | apply okOpt_map | apply okOpt_ite | apply ok_ite | intro _ _ _ | intro _ | (refine ok_fst ?_ (by assumption)) | (refine ok_snd ?_ (by assumption)) | (refine okOpt_elim ?_ (by assumption)) | (refine okXS_elim ?_ (by assumption)) | (refine okXS_elimE ?_ (by assumption)) | (refine okXE_elim ?_ (by assumption)) | (refine okXE_elimE ?_ (by assumption)) | (refine okX_elim ?_ (by assumption)) | (refine okO_elim ?_ (by assumption)) | (refine okOptF_elim ?_ (by assumption)) | (refine okOptS_elim ?_ (by assumption)) | (refine okXF_elim ?_ (by assumption)) | (refine okXO_elim ?_ (by assumption)) | split | dsimp only)

theorem remoteIssue_ok (s : State) (c : Ctx) (sc : Scope) (k : RemoteCmd) (writes : Bool) (hs : MemOk s) : OkE (remoteIssue s c sc k writes) := by
  unfold remoteIssue
  with_reducible repeat' (first | assumption | apply ok_of | simp only [ok_mk] | apply issueEngine_ok | apply okO_next | apply okO_fault | apply okO_refused | apply okE_done | apply okE_ctl | apply okE_fault | apply okE_stall | apply okE_pause | apply okE_trap | apply okE_async | apply okE_gone | apply okE_late | apply okOpt_some | apply okOpt_none | apply okOpt_mapS | apply okOpt_map | apply okOpt_ite | apply ok_ite | intro _ _ _ | intro _ | (refine ok_fst ?_ (by assumption)) | (refine ok_snd ?_ (by assumption)) | (refine okOpt_elim ?_ (by assumption)) | (refine okXS_elim ?_ (by assumption)) | (refine okXS_elimE ?_ (by assumption)) | (refine okXE_elim ?_ (by assumption)) | (refine okXE_elimE ?_ (by assumption)) | (refine okX_elim ?_ (by assumption)) | (refine okO_elim ?_ (by assumption)) | (refine okOptF_elim ?_ (by assumption)) | (refine okOptS_elim ?_ (by assumption)) | (refine okXF_elim ?_ (by assumption)) | (refine okXO_elim ?_ (by assumption)) | split | dsimp only)

theorem blockWord_ok (s : State) (h : Hdr) (us : List Use) (m : RMods) (r : SReg) (l : SReg) (len : SReg) (ctl : SReg) (flag : Option StwsOp) (f : W64 → W64 → W64 → Option (StwsOp × W64) → RemoteOp) (hs : MemOk s) : OkO (blockWord s h us m r l len ctl flag f) := by
  unfold blockWord
  with_reducible repeat' (first | assumption | apply ok_of | simp only [ok_mk] | apply onceWord_ok | apply remoteIssue_ok | apply okO_next | apply okO_fault | apply okO_refused | apply okE_done | apply okE_ctl | apply okE_fault | apply okE_stall | apply okE_pause | apply okE_trap | apply okE_async | apply okE_gone | apply okE_late | apply okOpt_some | apply okOpt_none | apply okOpt_mapS | apply okOpt_map | apply okOpt_ite | apply ok_ite | intro _ _ _ | intro _ | (refine ok_fst ?_ (by assumption)) | (refine ok_snd ?_ (by assumption)) | (refine okOpt_elim ?_ (by assumption)) | (refine okXS_elim ?_ (by assumption)) | (refine okXS_elimE ?_ (by assumption)) | (refine okXE_elim ?_ (by assumption)) | (refine okXE_elimE ?_ (by assumption)) | (refine okX_elim ?_ (by assumption)) | (refine okO_elim ?_ (by assumption)) | (refine okOptF_elim ?_ (by assumption)) | (refine okOptS_elim ?_ (by assumption)) | (refine okXF_elim ?_ (by assumption)) | (refine okXO_elim ?_ (by assumption)) | split | dsimp only)

theorem execPutr_ok (h : Hdr) (m : RMods) (r : SReg) (l : SReg) (len : SReg) (ctl : SReg) (s : State) (hs : MemOk s) : OkO (execPutr h m r l len ctl s) := by
  unfold execPutr
  with_reducible repeat' (first | assumption | apply ok_of | simp only [ok_mk] | apply blockWord_ok | apply okO_next | apply okO_fault | apply okO_refused | apply okE_done | apply okE_ctl | apply okE_fault | apply okE_stall | apply okE_pause | apply okE_trap | apply okE_async | apply okE_gone | apply okE_late | apply okOpt_some | apply okOpt_none | apply okOpt_mapS | apply okOpt_map | apply okOpt_ite | intro _ _ _ | intro _ | (refine ok_fst ?_ (by assumption)) | (refine ok_snd ?_ (by assumption)) | (refine okOpt_elim ?_ (by assumption)) | (refine okXS_elim ?_ (by assumption)) | (refine okXS_elimE ?_ (by assumption)) | (refine okXE_elim ?_ (by assumption)) | (refine okXE_elimE ?_ (by assumption)) | (refine okX_elim ?_ (by assumption)) | (refine okO_elim ?_ (by assumption)) | (refine okOptF_elim ?_ (by assumption)) | (refine okOptS_elim ?_ (by assumption)) | (refine okXF_elim ?_ (by assumption)) | (refine okXO_elim ?_ (by assumption)) | split | dsimp only)

theorem execGetr_ok (h : Hdr) (m : RMods) (r : SReg) (l : SReg) (len : SReg) (ctl : SReg) (s : State) (hs : MemOk s) : OkO (execGetr h m r l len ctl s) := by
  unfold execGetr
  with_reducible repeat' (first | assumption | apply ok_of | simp only [ok_mk] | apply blockWord_ok | apply okO_next | apply okO_fault | apply okO_refused | apply okE_done | apply okE_ctl | apply okE_fault | apply okE_stall | apply okE_pause | apply okE_trap | apply okE_async | apply okE_gone | apply okE_late | apply okOpt_some | apply okOpt_none | apply okOpt_mapS | apply okOpt_map | apply okOpt_ite | intro _ _ _ | intro _ | (refine ok_fst ?_ (by assumption)) | (refine ok_snd ?_ (by assumption)) | (refine okOpt_elim ?_ (by assumption)) | (refine okXS_elim ?_ (by assumption)) | (refine okXS_elimE ?_ (by assumption)) | (refine okXE_elim ?_ (by assumption)) | (refine okXE_elimE ?_ (by assumption)) | (refine okX_elim ?_ (by assumption)) | (refine okO_elim ?_ (by assumption)) | (refine okOptF_elim ?_ (by assumption)) | (refine okOptS_elim ?_ (by assumption)) | (refine okXF_elim ?_ (by assumption)) | (refine okXO_elim ?_ (by assumption)) | split | dsimp only)

theorem execPuts_ok (h : Hdr) (sop : StwsOp) (m : RMods) (r : SReg) (l : SReg) (len : SReg) (ctl : SReg) (s : State) (hs : MemOk s) : OkO (execPuts h sop m r l len ctl s) := by
  unfold execPuts
  with_reducible repeat' (first | assumption | apply ok_of | simp only [ok_mk] | apply blockWord_ok | apply okO_next | apply okO_fault | apply okO_refused | apply okE_done | apply okE_ctl | apply okE_fault | apply okE_stall | apply okE_pause | apply okE_trap | apply okE_async | apply okE_gone | apply okE_late | apply okOpt_some | apply okOpt_none | apply okOpt_mapS | apply okOpt_map | apply okOpt_ite | intro _ _ _ | intro _ | (refine ok_fst ?_ (by assumption)) | (refine ok_snd ?_ (by assumption)) | (refine okOpt_elim ?_ (by assumption)) | (refine okXS_elim ?_ (by assumption)) | (refine okXS_elimE ?_ (by assumption)) | (refine okXE_elim ?_ (by assumption)) | (refine okXE_elimE ?_ (by assumption)) | (refine okX_elim ?_ (by assumption)) | (refine okO_elim ?_ (by assumption)) | (refine okOptF_elim ?_ (by assumption)) | (refine okOptS_elim ?_ (by assumption)) | (refine okXF_elim ?_ (by assumption)) | (refine okXO_elim ?_ (by assumption)) | split | dsimp only)

theorem execAppend_ok (h : Hdr) (d : Reg) (a : SReg) (b : Reg) (s : State) (hs : MemOk s) : OkO (execAppend h d a b s) := by
  unfold execAppend
  with_reducible repeat' (first | assumption | apply ok_of | simp only [ok_mk] | apply issue_ok | apply remoteIssue_ok | apply okO_next | apply okO_fault | apply okO_refused | apply okE_done | apply okE_ctl | apply okE_fault | apply okE_stall | apply okE_pause | apply okE_trap | apply okE_async | apply okE_gone | apply okE_late | apply okOpt_some | apply okOpt_none | apply okOpt_mapS | apply okOpt_map | apply okOpt_ite | apply ok_ite | intro _ _ _ | intro _ | (refine ok_fst ?_ (by assumption)) | (refine ok_snd ?_ (by assumption)) | (refine okOpt_elim ?_ (by assumption)) | (refine okXS_elim ?_ (by assumption)) | (refine okXS_elimE ?_ (by assumption)) | (refine okXE_elim ?_ (by assumption)) | (refine okXE_elimE ?_ (by assumption)) | (refine okX_elim ?_ (by assumption)) | (refine okO_elim ?_ (by assumption)) | (refine okOptF_elim ?_ (by assumption)) | (refine okOptS_elim ?_ (by assumption)) | (refine okXF_elim ?_ (by assumption)) | (refine okXO_elim ?_ (by assumption)) | split | dsimp only)

theorem State.holdNew_ok (s : State) (n : Nat) (hs : MemOk s) : MemOk (State.holdNew s n) := by
  unfold State.holdNew
  with_reducible repeat' (first | assumption | apply ok_of | simp only [ok_mk] | apply State.updGrp_ok | apply okOpt_some | apply okOpt_none | apply okOpt_mapS | apply okOpt_map | apply okOpt_ite | apply okOpt_bind | intro _ _ _ | intro _ | (refine ok_fst ?_ (by assumption)) | (refine ok_snd ?_ (by assumption)) | (refine okOpt_elim ?_ (by assumption)) | (refine okXS_elim ?_ (by assumption)) | (refine okXS_elimE ?_ (by assumption)) | (refine okXE_elim ?_ (by assumption)) | (refine okXE_elimE ?_ (by assumption)) | (refine okX_elim ?_ (by assumption)) | (refine okO_elim ?_ (by assumption)) | (refine okOptF_elim ?_ (by assumption)) | (refine okOptS_elim ?_ (by assumption)) | (refine okXF_elim ?_ (by assumption)) | (refine okXO_elim ?_ (by assumption)) | split | dsimp only)

theorem execRatom_ok (h : Hdr) (op : RAOp) (w64 : Bool) (ord : Ord4) (d : Reg) (a : SReg) (b : Reg) (cc : Reg) (s : State) (hs : MemOk s) : OkO (execRatom h op w64 ord d a b cc s) := by
  unfold execRatom
  with_reducible repeat' (first | assumption | apply ok_of | simp only [ok_mk] | apply issue_ok | apply remoteIssue_ok | apply State.holdNew_ok | apply okO_next | apply okO_fault | apply okO_refused | apply okE_done | apply okE_ctl | apply okE_fault | apply okE_stall | apply okE_pause | apply okE_trap | apply okE_async | apply okE_gone | apply okE_late | apply okOpt_some | apply okOpt_none | apply okOpt_mapS | apply okOpt_map | apply okOpt_ite | apply ok_ite | intro _ _ _ | intro _ | (refine ok_fst ?_ (by assumption)) | (refine ok_snd ?_ (by assumption)) | (refine okOpt_elim ?_ (by assumption)) | (refine okXS_elim ?_ (by assumption)) | (refine okXS_elimE ?_ (by assumption)) | (refine okXE_elim ?_ (by assumption)) | (refine okXE_elimE ?_ (by assumption)) | (refine okX_elim ?_ (by assumption)) | (refine okO_elim ?_ (by assumption)) | (refine okOptF_elim ?_ (by assumption)) | (refine okOptS_elim ?_ (by assumption)) | (refine okXF_elim ?_ (by assumption)) | (refine okXO_elim ?_ (by assumption)) | split | dsimp only)

theorem State.countLost_ok (s : State) (m : PhMsg) (hs : MemOk s) : MemOk (State.countLost s m) := by
  unfold State.countLost
  with_reducible repeat' (first | assumption | apply ok_of | simp only [ok_mk] | apply State.cmdFault_ok | apply State.copyFail_ok | apply State.remoteFault_ok | apply okOpt_some | apply okOpt_none | apply okOpt_mapS | apply okOpt_map | apply okOpt_ite | intro _ _ _ | intro _ | (refine ok_fst ?_ (by assumption)) | (refine ok_snd ?_ (by assumption)) | (refine okOpt_elim ?_ (by assumption)) | (refine okXS_elim ?_ (by assumption)) | (refine okXS_elimE ?_ (by assumption)) | (refine okXE_elim ?_ (by assumption)) | (refine okXE_elimE ?_ (by assumption)) | (refine okX_elim ?_ (by assumption)) | (refine okO_elim ?_ (by assumption)) | (refine okOptF_elim ?_ (by assumption)) | (refine okOptS_elim ?_ (by assumption)) | (refine okXF_elim ?_ (by assumption)) | (refine okXO_elim ?_ (by assumption)) | split | dsimp only)

theorem execPhaserEngineCount_ok (s : State) (hs : MemOk s) : OkO (execPhaserEngineCount s) := by
  unfold execPhaserEngineCount
  with_reducible repeat' (first | assumption | apply ok_of | simp only [ok_mk] | apply State.passed_ok | apply State.phaserGc_ok | apply State.phaserCount_ok | apply State.unitCounted_ok | apply State.countLost_ok | apply okO_next | apply okO_fault | apply okO_refused | apply okE_done | apply okE_ctl | apply okE_fault | apply okE_stall | apply okE_pause | apply okE_trap | apply okE_async | apply okE_gone | apply okE_late | apply okOpt_some | apply okOpt_none | apply okOpt_mapS | apply okOpt_map | apply okOpt_ite | intro _ _ _ | intro _ | (refine ok_fst ?_ (by assumption)) | (refine ok_snd ?_ (by assumption)) | (refine okOpt_elim ?_ (by assumption)) | (refine okXS_elim ?_ (by assumption)) | (refine okXS_elimE ?_ (by assumption)) | (refine okXE_elim ?_ (by assumption)) | (refine okXE_elimE ?_ (by assumption)) | (refine okX_elim ?_ (by assumption)) | (refine okO_elim ?_ (by assumption)) | (refine okOptF_elim ?_ (by assumption)) | (refine okOptS_elim ?_ (by assumption)) | (refine okXF_elim ?_ (by assumption)) | (refine okXO_elim ?_ (by assumption)) | split | dsimp only)

theorem execPhaserEngineFault_ok (s : State) (hs : MemOk s) : OkO (execPhaserEngineFault s) := by
  unfold execPhaserEngineFault
  with_reducible repeat' (first | assumption | apply ok_of | simp only [ok_mk] | apply State.phaserGc_ok | apply State.phaserFault_ok | apply okO_next | apply okO_fault | apply okO_refused | apply okE_done | apply okE_ctl | apply okE_fault | apply okE_stall | apply okE_pause | apply okE_trap | apply okE_async | apply okE_gone | apply okE_late | apply okOpt_some | apply okOpt_none | apply okOpt_mapS | apply okOpt_map | apply okOpt_ite | intro _ _ _ | intro _ | (refine ok_fst ?_ (by assumption)) | (refine ok_snd ?_ (by assumption)) | (refine okOpt_elim ?_ (by assumption)) | (refine okXS_elim ?_ (by assumption)) | (refine okXS_elimE ?_ (by assumption)) | (refine okXE_elim ?_ (by assumption)) | (refine okXE_elimE ?_ (by assumption)) | (refine okX_elim ?_ (by assumption)) | (refine okO_elim ?_ (by assumption)) | (refine okOptF_elim ?_ (by assumption)) | (refine okOptS_elim ?_ (by assumption)) | (refine okXF_elim ?_ (by assumption)) | (refine okXO_elim ?_ (by assumption)) | split | dsimp only)

theorem State.nameCmd_ok (s : State) (c : Ctx) (id : Nat) (hs : MemOk s) : MemOk (State.nameCmd s c id) := by
  unfold State.nameCmd
  with_reducible repeat' (first | assumption | apply ok_of | simp only [ok_mk] | apply State.updGrp_ok | apply okO_next | apply okO_fault | apply okO_refused | intro _ _ _ | intro _ | (refine ok_fst ?_ (by assumption)) | (refine ok_snd ?_ (by assumption)) | (refine okOpt_elim ?_ (by assumption)) | (refine okXS_elim ?_ (by assumption)) | (refine okXS_elimE ?_ (by assumption)) | (refine okXE_elim ?_ (by assumption)) | (refine okXE_elimE ?_ (by assumption)) | (refine okX_elim ?_ (by assumption)) | (refine okO_elim ?_ (by assumption)) | (refine okOptF_elim ?_ (by assumption)) | (refine okOptS_elim ?_ (by assumption)) | (refine okXF_elim ?_ (by assumption)) | (refine okXO_elim ?_ (by assumption)) | split | dsimp only)

theorem State.enterEngine_ok (s : State) (c : Ctx) (op : MatrixOp) (hs : MemOk s) : MemOk (State.enterEngine s c op) := by
  unfold State.enterEngine
  with_reducible repeat' (first | assumption | apply ok_of | simp only [ok_mk] | apply State.nameCmd_ok | apply okO_next | apply okO_fault | apply okO_refused | intro _ _ _ | intro _ | (refine ok_fst ?_ (by assumption)) | (refine ok_snd ?_ (by assumption)) | (refine okOpt_elim ?_ (by assumption)) | (refine okXS_elim ?_ (by assumption)) | (refine okXS_elimE ?_ (by assumption)) | (refine okXE_elim ?_ (by assumption)) | (refine okXE_elimE ?_ (by assumption)) | (refine okX_elim ?_ (by assumption)) | (refine okO_elim ?_ (by assumption)) | (refine okOptF_elim ?_ (by assumption)) | (refine okOptS_elim ?_ (by assumption)) | (refine okXF_elim ?_ (by assumption)) | (refine okXO_elim ?_ (by assumption)) | split | dsimp only)

theorem State.resolve_ok (s : State) (core : Nat) (tid : Nat) (e : Latch) (ms : List (Nat × Latch)) (hs : MemOk s) : MemOk (State.resolve s core tid e ms) := by
  unfold State.resolve
  with_reducible repeat' (first | assumption | apply ok_of | simp only [ok_mk] | apply State.updGrp_ok | apply State.dropLatch_ok | apply okO_next | apply okO_fault | apply okO_refused | apply okOpt_some | apply okOpt_none | apply okOpt_mapS | apply okOpt_map | apply okOpt_ite | apply foldl_ok | apply foldl_fst_ok | apply ok_ite | intro _ _ _ | intro _ | (refine ok_fst ?_ (by assumption)) | (refine ok_snd ?_ (by assumption)) | (refine okOpt_elim ?_ (by assumption)) | (refine okXS_elim ?_ (by assumption)) | (refine okXS_elimE ?_ (by assumption)) | (refine okXE_elim ?_ (by assumption)) | (refine okXE_elimE ?_ (by assumption)) | (refine okX_elim ?_ (by assumption)) | (refine okO_elim ?_ (by assumption)) | (refine okOptF_elim ?_ (by assumption)) | (refine okOptS_elim ?_ (by assumption)) | (refine okXF_elim ?_ (by assumption)) | (refine okXO_elim ?_ (by assumption)) | split | dsimp only)

theorem State.latchSettle_ok (s : State) (core : Nat) (tid : Nat) (hs : MemOk s) : MemOk (State.latchSettle s core tid) := by
  unfold State.latchSettle
  with_reducible repeat' (first | assumption | apply ok_of | simp only [ok_mk] | apply State.dropLatch_ok | apply State.resolve_ok | apply okOpt_some | apply okOpt_none | apply okOpt_mapS | apply okOpt_map | apply okOpt_ite | apply okOpt_bind | apply foldl_ok | apply foldl_fst_ok | apply ok_ite | intro _ _ _ | intro _ | (refine ok_fst ?_ (by assumption)) | (refine ok_snd ?_ (by assumption)) | (refine okOpt_elim ?_ (by assumption)) | (refine okXS_elim ?_ (by assumption)) | (refine okXS_elimE ?_ (by assumption)) | (refine okXE_elim ?_ (by assumption)) | (refine okXE_elimE ?_ (by assumption)) | (refine okX_elim ?_ (by assumption)) | (refine okO_elim ?_ (by assumption)) | (refine okOptF_elim ?_ (by assumption)) | (refine okOptS_elim ?_ (by assumption)) | (refine okXF_elim ?_ (by assumption)) | (refine okXO_elim ?_ (by assumption)) | split | dsimp only)

theorem engineEff_ok (s : State) (c : Ctx) (body : State → Ctx → Team → Except FInfo (State → State)) (hs : MemOk s) (hbody : ∀ y0 y1 y2, MemOk y0 → OkF (body y0 y1 y2)) : OkE (engineEff s c body) := by
  unfold engineEff
  with_reducible repeat' (first | assumption | apply ok_of | simp only [ok_mk] | apply hbody | apply State.release_ok | apply okE_done | apply okE_ctl | apply okE_fault | apply okE_stall | apply okE_pause | apply okE_trap | apply okE_async | apply okE_gone | apply okE_late | apply okOpt_some | apply okOpt_none | apply okOpt_mapS | apply okOpt_map | apply okOpt_ite | apply ok_ite | intro _ _ _ | intro _ | (refine ok_fst ?_ (by assumption)) | (refine ok_snd ?_ (by assumption)) | (refine okOpt_elim ?_ (by assumption)) | (refine okXS_elim ?_ (by assumption)) | (refine okXS_elimE ?_ (by assumption)) | (refine okXE_elim ?_ (by assumption)) | (refine okXE_elimE ?_ (by assumption)) | (refine okX_elim ?_ (by assumption)) | (refine okO_elim ?_ (by assumption)) | (refine okOptF_elim ?_ (by assumption)) | (refine okOptS_elim ?_ (by assumption)) | (refine okXF_elim ?_ (by assumption)) | (refine okXO_elim ?_ (by assumption)) | (refine okF_elim ?_ (by assumption) ?_) | split | dsimp only)

theorem engineWord_ok (s : State) (h : Hdr) (us : List Use) (body : State → Ctx → Team → Except FInfo (State → State)) (hs : MemOk s) (hbody : ∀ y0 y1 y2, MemOk y0 → OkF (body y0 y1 y2)) : OkO (engineWord s h us body) := by
  unfold engineWord
  with_reducible repeat' (first | assumption | apply ok_of | simp only [ok_mk] | apply hbody | apply onceWord_ok | apply engineEff_ok | apply okO_next | apply okO_fault | apply okO_refused | apply okE_done | apply okE_ctl | apply okE_fault | apply okE_stall | apply okE_pause | apply okE_trap | apply okE_async | apply okE_gone | apply okE_late | apply okF_ok | apply okF_error | intro _ _ _ | intro _ | (refine ok_fst ?_ (by assumption)) | (refine ok_snd ?_ (by assumption)) | (refine okOpt_elim ?_ (by assumption)) | (refine okXS_elim ?_ (by assumption)) | (refine okXS_elimE ?_ (by assumption)) | (refine okXE_elim ?_ (by assumption)) | (refine okXE_elimE ?_ (by assumption)) | (refine okX_elim ?_ (by assumption)) | (refine okO_elim ?_ (by assumption)) | (refine okOptF_elim ?_ (by assumption)) | (refine okOptS_elim ?_ (by assumption)) | (refine okXF_elim ?_ (by assumption)) | (refine okXO_elim ?_ (by assumption)) | split | dsimp only)

theorem gangWord_ok (s : State) (h : Hdr) (imm : W32) (hs : MemOk s) : OkO (gangWord s h imm) := by
  unfold gangWord
  with_reducible repeat' (first | assumption | apply ok_of | simp only [ok_mk] | apply State.updGrp_ok | apply limited_ok | apply onceWord_ok | apply okO_next | apply okO_fault | apply okO_refused | apply okE_done | apply okE_ctl | apply okE_fault | apply okE_stall | apply okE_pause | apply okE_trap | apply okE_async | apply okE_gone | apply okE_late | apply ok_ite | intro _ _ _ | intro _ | (refine ok_fst ?_ (by assumption)) | (refine ok_snd ?_ (by assumption)) | (refine okOpt_elim ?_ (by assumption)) | (refine okXS_elim ?_ (by assumption)) | (refine okXS_elimE ?_ (by assumption)) | (refine okXE_elim ?_ (by assumption)) | (refine okXE_elimE ?_ (by assumption)) | (refine okX_elim ?_ (by assumption)) | (refine okO_elim ?_ (by assumption)) | (refine okOptF_elim ?_ (by assumption)) | (refine okOptS_elim ?_ (by assumption)) | (refine okXF_elim ?_ (by assumption)) | (refine okXO_elim ?_ (by assumption)) | split | dsimp only)

theorem execGang_ok (h : Hdr) (imm : W32) (s : State) (hs : MemOk s) : OkO (execGang h imm s) := by
  unfold execGang
  with_reducible repeat' (first | assumption | apply ok_of | simp only [ok_mk] | apply gangWord_ok | apply okO_next | apply okO_fault | apply okO_refused | apply okE_done | apply okE_ctl | apply okE_fault | apply okE_stall | apply okE_pause | apply okE_trap | apply okE_async | apply okE_gone | apply okE_late | apply okF_ok | apply okF_error | intro _ _ _ | intro _ | (refine ok_fst ?_ (by assumption)) | (refine ok_snd ?_ (by assumption)) | (refine okOpt_elim ?_ (by assumption)) | (refine okXS_elim ?_ (by assumption)) | (refine okXS_elimE ?_ (by assumption)) | (refine okXE_elim ?_ (by assumption)) | (refine okXE_elimE ?_ (by assumption)) | (refine okX_elim ?_ (by assumption)) | (refine okO_elim ?_ (by assumption)) | (refine okOptF_elim ?_ (by assumption)) | (refine okOptS_elim ?_ (by assumption)) | (refine okXF_elim ?_ (by assumption)) | (refine okXO_elim ?_ (by assumption)) | split | dsimp only)

theorem execGangClr_ok (h : Hdr) (s : State) (hs : MemOk s) : OkO (execGangClr h s) := by
  unfold execGangClr
  with_reducible repeat' (first | assumption | apply ok_of | simp only [ok_mk] | apply gangWord_ok | apply okO_next | apply okO_fault | apply okO_refused | apply okE_done | apply okE_ctl | apply okE_fault | apply okE_stall | apply okE_pause | apply okE_trap | apply okE_async | apply okE_gone | apply okE_late | apply okF_ok | apply okF_error | intro _ _ _ | intro _ | (refine ok_fst ?_ (by assumption)) | (refine ok_snd ?_ (by assumption)) | (refine okOpt_elim ?_ (by assumption)) | (refine okXS_elim ?_ (by assumption)) | (refine okXS_elimE ?_ (by assumption)) | (refine okXE_elim ?_ (by assumption)) | (refine okXE_elimE ?_ (by assumption)) | (refine okX_elim ?_ (by assumption)) | (refine okO_elim ?_ (by assumption)) | (refine okOptF_elim ?_ (by assumption)) | (refine okOptS_elim ?_ (by assumption)) | (refine okXF_elim ?_ (by assumption)) | (refine okXO_elim ?_ (by assumption)) | split | dsimp only)

theorem execMma_ok (h : Hdr) (za : Bool) (tile : BitVec 4) (rc : BitVec 3) (bb : SReg) (shp : SReg) (sf : SReg) (s : State) (hs : MemOk s) : OkO (execMma h za tile rc bb shp sf s) := by
  unfold execMma
  with_reducible repeat' (first | assumption | apply ok_of | simp only [ok_mk] | apply State.updGrp_ok | apply State.release_ok | apply limited_ok | apply onceWord_ok | apply State.nameCmd_ok | apply State.enterEngine_ok | apply State.latchSettle_ok | apply okO_next | apply okO_fault | apply okO_refused | apply okE_done | apply okE_ctl | apply okE_fault | apply okE_stall | apply okE_pause | apply okE_trap | apply okE_async | apply okE_gone | apply okE_late | apply okOpt_some | apply okOpt_none | apply okOpt_mapS | apply okOpt_map | apply okOpt_ite | apply okOpt_getD | apply ok_ite | intro _ _ _ | intro _ | (refine ok_fst ?_ (by assumption)) | (refine ok_snd ?_ (by assumption)) | (refine okOpt_elim ?_ (by assumption)) | (refine okXS_elim ?_ (by assumption)) | (refine okXS_elimE ?_ (by assumption)) | (refine okXE_elim ?_ (by assumption)) | (refine okXE_elimE ?_ (by assumption)) | (refine okX_elim ?_ (by assumption)) | (refine okO_elim ?_ (by assumption)) | (refine okOptF_elim ?_ (by assumption)) | (refine okOptS_elim ?_ (by assumption)) | (refine okXF_elim ?_ (by assumption)) | (refine okXO_elim ?_ (by assumption)) | split | dsimp only)

theorem execMfence_ok (h : Hdr) (d : SReg) (s : State) (hs : MemOk s) : OkO (execMfence h d s) := by
  unfold execMfence
  with_reducible repeat' (first | assumption | apply ok_of | simp only [ok_mk] | apply State.updGrp_ok | apply onceWord_ok | apply okO_next | apply okO_fault | apply okO_refused | apply okE_done | apply okE_ctl | apply okE_fault | apply okE_stall | apply okE_pause | apply okE_trap | apply okE_async | apply okE_gone | apply okE_late | apply okOpt_some | apply okOpt_none | apply okOpt_mapS | apply okOpt_map | apply okOpt_ite | apply okOpt_getD | apply ok_ite | intro _ _ _ | intro _ | (refine ok_fst ?_ (by assumption)) | (refine ok_snd ?_ (by assumption)) | (refine okOpt_elim ?_ (by assumption)) | (refine okXS_elim ?_ (by assumption)) | (refine okXS_elimE ?_ (by assumption)) | (refine okXE_elim ?_ (by assumption)) | (refine okXE_elimE ?_ (by assumption)) | (refine okX_elim ?_ (by assumption)) | (refine okO_elim ?_ (by assumption)) | (refine okOptF_elim ?_ (by assumption)) | (refine okOptS_elim ?_ (by assumption)) | (refine okXF_elim ?_ (by assumption)) | (refine okXO_elim ?_ (by assumption)) | split | dsimp only)

theorem raiseMatrix_ok (s : State) (c : Ctx) (hs : MemOk s) : OkE (raiseMatrix s c) := by
  unfold raiseMatrix
  with_reducible repeat' (first | assumption | apply ok_of | simp only [ok_mk] | apply State.takeReset_ok | apply okE_done | apply okE_ctl | apply okE_fault | apply okE_stall | apply okE_pause | apply okE_trap | apply okE_async | apply okE_gone | apply okE_late | intro _ _ _ | intro _ | (refine ok_fst ?_ (by assumption)) | (refine ok_snd ?_ (by assumption)) | (refine okOpt_elim ?_ (by assumption)) | (refine okXS_elim ?_ (by assumption)) | (refine okXS_elimE ?_ (by assumption)) | (refine okXE_elim ?_ (by assumption)) | (refine okXE_elimE ?_ (by assumption)) | (refine okX_elim ?_ (by assumption)) | (refine okO_elim ?_ (by assumption)) | (refine okOptF_elim ?_ (by assumption)) | (refine okOptS_elim ?_ (by assumption)) | (refine okXF_elim ?_ (by assumption)) | (refine okXO_elim ?_ (by assumption)) | split | dsimp only)

theorem mwaitWord_ok (s : State) (h : Hdr) (upTo : Group → Nat) (hs : MemOk s) : OkO (mwaitWord s h upTo) := by
  unfold mwaitWord
  with_reducible repeat' (first | assumption | apply ok_of | simp only [ok_mk] | apply State.waiting_ok | apply State.mwaitDone_ok | apply onceWord_ok | apply raiseMatrix_ok | apply okO_next | apply okO_fault | apply okO_refused | apply okE_done | apply okE_ctl | apply okE_fault | apply okE_stall | apply okE_pause | apply okE_trap | apply okE_async | apply okE_gone | apply okE_late | apply ok_ite | intro _ _ _ | intro _ | (refine ok_fst ?_ (by assumption)) | (refine ok_snd ?_ (by assumption)) | (refine okOpt_elim ?_ (by assumption)) | (refine okXS_elim ?_ (by assumption)) | (refine okXS_elimE ?_ (by assumption)) | (refine okXE_elim ?_ (by assumption)) | (refine okXE_elimE ?_ (by assumption)) | (refine okX_elim ?_ (by assumption)) | (refine okO_elim ?_ (by assumption)) | (refine okOptF_elim ?_ (by assumption)) | (refine okOptS_elim ?_ (by assumption)) | (refine okXF_elim ?_ (by assumption)) | (refine okXO_elim ?_ (by assumption)) | split | dsimp only)

theorem execMwait_ok (h : Hdr) (n : BitVec 4) (s : State) (hs : MemOk s) : OkO (execMwait h n s) := by
  unfold execMwait
  with_reducible repeat' (first | assumption | apply ok_of | simp only [ok_mk] | apply mwaitWord_ok | apply okO_next | apply okO_fault | apply okO_refused | apply okE_done | apply okE_ctl | apply okE_fault | apply okE_stall | apply okE_pause | apply okE_trap | apply okE_async | apply okE_gone | apply okE_late | intro _ _ _ | intro _ | (refine ok_fst ?_ (by assumption)) | (refine ok_snd ?_ (by assumption)) | (refine okOpt_elim ?_ (by assumption)) | (refine okXS_elim ?_ (by assumption)) | (refine okXS_elimE ?_ (by assumption)) | (refine okXE_elim ?_ (by assumption)) | (refine okXE_elimE ?_ (by assumption)) | (refine okX_elim ?_ (by assumption)) | (refine okO_elim ?_ (by assumption)) | (refine okOptF_elim ?_ (by assumption)) | (refine okOptS_elim ?_ (by assumption)) | (refine okXF_elim ?_ (by assumption)) | (refine okXO_elim ?_ (by assumption)) | split | dsimp only)

theorem execMwaitAll_ok (h : Hdr) (s : State) (hs : MemOk s) : OkO (execMwaitAll h s) := by
  unfold execMwaitAll
  with_reducible repeat' (first | assumption | apply ok_of | simp only [ok_mk] | apply mwaitWord_ok | apply okO_next | apply okO_fault | apply okO_refused | apply okE_done | apply okE_ctl | apply okE_fault | apply okE_stall | apply okE_pause | apply okE_trap | apply okE_async | apply okE_gone | apply okE_late | intro _ _ _ | intro _ | (refine ok_fst ?_ (by assumption)) | (refine ok_snd ?_ (by assumption)) | (refine okOpt_elim ?_ (by assumption)) | (refine okXS_elim ?_ (by assumption)) | (refine okXS_elimE ?_ (by assumption)) | (refine okXE_elim ?_ (by assumption)) | (refine okXE_elimE ?_ (by assumption)) | (refine okX_elim ?_ (by assumption)) | (refine okO_elim ?_ (by assumption)) | (refine okOptF_elim ?_ (by assumption)) | (refine okOptS_elim ?_ (by assumption)) | (refine okXF_elim ?_ (by assumption)) | (refine okXO_elim ?_ (by assumption)) | split | dsimp only)

theorem execAccz_ok (h : Hdr) (tile : BitVec 4) (s : State) (hs : MemOk s) : OkO (execAccz h tile s) := by
  unfold execAccz
  with_reducible repeat' (first | assumption | apply ok_of | simp only [ok_mk] | apply limited_ok | apply State.enterEngine_ok | apply engineWord_ok | apply okO_next | apply okO_fault | apply okO_refused | apply okE_done | apply okE_ctl | apply okE_fault | apply okE_stall | apply okE_pause | apply okE_trap | apply okE_async | apply okE_gone | apply okE_late | apply okF_ok | apply okF_error | intro _ _ _ | intro _ | (refine ok_fst ?_ (by assumption)) | (refine ok_snd ?_ (by assumption)) | (refine okOpt_elim ?_ (by assumption)) | (refine okXS_elim ?_ (by assumption)) | (refine okXS_elimE ?_ (by assumption)) | (refine okXE_elim ?_ (by assumption)) | (refine okXE_elimE ?_ (by assumption)) | (refine okX_elim ?_ (by assumption)) | (refine okO_elim ?_ (by assumption)) | (refine okOptF_elim ?_ (by assumption)) | (refine okOptS_elim ?_ (by assumption)) | (refine okXF_elim ?_ (by assumption)) | (refine okXO_elim ?_ (by assumption)) | split | dsimp only)

theorem execAccrd_ok (h : Hdr) (nr : BitVec 3) (d : Reg) (tile : BitVec 4) (b : SReg) (s : State) (hs : MemOk s) : OkO (execAccrd h nr d tile b s) := by
  unfold execAccrd
  with_reducible repeat' (first | assumption | apply ok_of | simp only [ok_mk] | apply State.acquireQ_ok | apply issue_ok | apply limited_ok | apply raiseMatrix_ok | apply okO_next | apply okO_fault | apply okO_refused | apply okE_done | apply okE_ctl | apply okE_fault | apply okE_stall | apply okE_pause | apply okE_trap | apply okE_async | apply okE_gone | apply okE_late | apply okOpt_some | apply okOpt_none | apply okOpt_mapS | apply okOpt_map | apply okOpt_ite | apply ok_ite | intro _ _ _ | intro _ | (refine ok_fst ?_ (by assumption)) | (refine ok_snd ?_ (by assumption)) | (refine okOpt_elim ?_ (by assumption)) | (refine okXS_elim ?_ (by assumption)) | (refine okXS_elimE ?_ (by assumption)) | (refine okXE_elim ?_ (by assumption)) | (refine okXE_elimE ?_ (by assumption)) | (refine okX_elim ?_ (by assumption)) | (refine okO_elim ?_ (by assumption)) | (refine okOptF_elim ?_ (by assumption)) | (refine okOptS_elim ?_ (by assumption)) | (refine okXF_elim ?_ (by assumption)) | (refine okXO_elim ?_ (by assumption)) | split | dsimp only)

theorem execAccwr_ok (h : Hdr) (nr : BitVec 3) (tile : BitVec 4) (a : Reg) (b : SReg) (s : State) (hs : MemOk s) : OkO (execAccwr h nr tile a b s) := by
  unfold execAccwr
  with_reducible repeat' (first | assumption | apply ok_of | simp only [ok_mk] | apply limited_ok | apply State.enterEngine_ok | apply engineWord_ok | apply okO_next | apply okO_fault | apply okO_refused | apply okE_done | apply okE_ctl | apply okE_fault | apply okE_stall | apply okE_pause | apply okE_trap | apply okE_async | apply okE_gone | apply okE_late | apply okOpt_some | apply okOpt_none | apply okOpt_mapS | apply okOpt_map | apply okOpt_ite | apply okF_ok | apply okF_error | intro _ _ _ | intro _ | (refine ok_fst ?_ (by assumption)) | (refine ok_snd ?_ (by assumption)) | (refine okOpt_elim ?_ (by assumption)) | (refine okXS_elim ?_ (by assumption)) | (refine okXS_elimE ?_ (by assumption)) | (refine okXE_elim ?_ (by assumption)) | (refine okXE_elimE ?_ (by assumption)) | (refine okX_elim ?_ (by assumption)) | (refine okO_elim ?_ (by assumption)) | (refine okOptF_elim ?_ (by assumption)) | (refine okOptS_elim ?_ (by assumption)) | (refine okXF_elim ?_ (by assumption)) | (refine okXO_elim ?_ (by assumption)) | split | dsimp only)

theorem execAccq_ok (h : Hdr) (df : BitVec 4) (bl16 : Bool) (rm : RM) (gl : Bool) (tile : BitVec 4) (a : SReg) (b : SReg) (cc : SReg) (s : State) (hs : MemOk s) : OkO (execAccq h df bl16 rm gl tile a b cc s) := by
  unfold execAccq
  with_reducible repeat' (first | assumption | apply ok_of | simp only [ok_mk] | apply issue_ok | apply limited_ok | apply State.enterEngine_ok | apply engineEff_ok | apply okO_next | apply okO_fault | apply okO_refused | apply okE_done | apply okE_ctl | apply okE_fault | apply okE_stall | apply okE_pause | apply okE_trap | apply okE_async | apply okE_gone | apply okE_late | apply okOpt_some | apply okOpt_none | apply okOpt_mapS | apply okOpt_map | apply okOpt_ite | apply okF_ok | apply okF_error | apply ok_ite | intro _ _ _ | intro _ | (refine ok_fst ?_ (by assumption)) | (refine ok_snd ?_ (by assumption)) | (refine okOpt_elim ?_ (by assumption)) | (refine okXS_elim ?_ (by assumption)) | (refine okXS_elimE ?_ (by assumption)) | (refine okXE_elim ?_ (by assumption)) | (refine okXE_elimE ?_ (by assumption)) | (refine okX_elim ?_ (by assumption)) | (refine okO_elim ?_ (by assumption)) | (refine okOptF_elim ?_ (by assumption)) | (refine okOptS_elim ?_ (by assumption)) | (refine okXF_elim ?_ (by assumption)) | (refine okXO_elim ?_ (by assumption)) | split | dsimp only)

theorem execShape_ok (h : Hdr) (d : BitVec 3) (a : SReg) (b : SReg) (s : State) (hs : MemOk s) : OkO (execShape h d a b s) := by
  unfold execShape
  with_reducible repeat' (first | assumption | apply ok_of | simp only [ok_mk] | apply onceWord_ok | apply okO_next | apply okO_fault | apply okO_refused | apply okE_done | apply okE_ctl | apply okE_fault | apply okE_stall | apply okE_pause | apply okE_trap | apply okE_async | apply okE_gone | apply okE_late | intro _ _ _ | intro _ | (refine ok_fst ?_ (by assumption)) | (refine ok_snd ?_ (by assumption)) | (refine okOpt_elim ?_ (by assumption)) | (refine okXS_elim ?_ (by assumption)) | (refine okXS_elimE ?_ (by assumption)) | (refine okXE_elim ?_ (by assumption)) | (refine okXE_elimE ?_ (by assumption)) | (refine okX_elim ?_ (by assumption)) | (refine okO_elim ?_ (by assumption)) | (refine okOptF_elim ?_ (by assumption)) | (refine okOptS_elim ?_ (by assumption)) | (refine okXF_elim ?_ (by assumption)) | (refine okXO_elim ?_ (by assumption)) | split | dsimp only)

theorem State.retire_ok (s : State) (id : Nat) (c : MCmd) (hs : MemOk s) : MemOk (State.retire s id c) := by
  unfold State.retire
  with_reducible repeat' (first | assumption | apply ok_of | simp only [ok_mk] | apply State.updGrp_ok | apply State.tryTeamEnd_ok | apply State.checkEndings_ok | apply State.matrixSettle_ok | apply foldl_ok | apply foldl_fst_ok | intro _ _ _ | intro _ | (refine ok_fst ?_ (by assumption)) | (refine ok_snd ?_ (by assumption)) | (refine okOpt_elim ?_ (by assumption)) | (refine okXS_elim ?_ (by assumption)) | (refine okXS_elimE ?_ (by assumption)) | (refine okXE_elim ?_ (by assumption)) | (refine okXE_elimE ?_ (by assumption)) | (refine okX_elim ?_ (by assumption)) | (refine okO_elim ?_ (by assumption)) | (refine okOptF_elim ?_ (by assumption)) | (refine okOptS_elim ?_ (by assumption)) | (refine okXF_elim ?_ (by assumption)) | (refine okXO_elim ?_ (by assumption)) | split | dsimp only)

theorem State.applyMma_ok (s : State) (id : Nat) (c : MCmd) (slot : Nat) (ms : List MMember) (hs : MemOk s) : MemOk (State.applyMma s id c slot ms) := by
  unfold State.applyMma
  with_reducible repeat' (first | assumption | apply ok_of | simp only [ok_mk] | apply State.bankPut_ok | apply State.updGrp_ok | apply State.setTeam_ok | apply State.cmdFault_ok | apply okOpt_some | apply okOpt_none | apply okOpt_mapS | apply okOpt_map | apply okOpt_ite | apply foldl_ok | apply foldl_fst_ok | apply ok_ite | intro _ _ _ | intro _ | (refine ok_fst ?_ (by assumption)) | (refine ok_snd ?_ (by assumption)) | (refine okOpt_elim ?_ (by assumption)) | (refine okXS_elim ?_ (by assumption)) | (refine okXS_elimE ?_ (by assumption)) | (refine okXE_elim ?_ (by assumption)) | (refine okXE_elimE ?_ (by assumption)) | (refine okX_elim ?_ (by assumption)) | (refine okO_elim ?_ (by assumption)) | (refine okOptF_elim ?_ (by assumption)) | (refine okOptS_elim ?_ (by assumption)) | (refine okXF_elim ?_ (by assumption)) | (refine okXO_elim ?_ (by assumption)) | split | dsimp only)

theorem State.scatterOpen_ok (s : State) (c : MCmd) (hs : MemOk s) : MemOk (State.scatterOpen s c) := by
  unfold State.scatterOpen
  with_reducible repeat' (first | assumption | apply ok_of | simp only [ok_mk] | apply State.rawWrite_ok | apply State.setTeam_ok | apply okOpt_some | apply okOpt_none | apply okOpt_mapS | apply okOpt_map | apply okOpt_ite | apply foldl_ok | apply foldl_fst_ok | apply ok_ite | intro _ _ _ | intro _ | (refine ok_fst ?_ (by assumption)) | (refine ok_snd ?_ (by assumption)) | (refine okOpt_elim ?_ (by assumption)) | (refine okXS_elim ?_ (by assumption)) | (refine okXS_elimE ?_ (by assumption)) | (refine okXE_elim ?_ (by assumption)) | (refine okXE_elimE ?_ (by assumption)) | (refine okX_elim ?_ (by assumption)) | (refine okO_elim ?_ (by assumption)) | (refine okOptF_elim ?_ (by assumption)) | (refine okOptS_elim ?_ (by assumption)) | (refine okXF_elim ?_ (by assumption)) | (refine okXO_elim ?_ (by assumption)) | split | dsimp only)

theorem State.accqTargets_ok (s : State) (die : Nat) (slot : Nat) (x0 : List (Nat × Byte)) (hs : MemOk s) : MemOk (State.accqTargets s die slot x0).1 := by
  induction x0 generalizing s with
  | nil =>
    unfold State.accqTargets
    with_reducible repeat' (first | assumption | apply ok_of | simp only [ok_mk] | apply State.engByte_ok | apply okF_ok | apply okF_error | intro _ _ _ | intro _ | (refine ok_fst ?_ (by assumption)) | (refine ok_snd ?_ (by assumption)) | (refine okOpt_elim ?_ (by assumption)) | (refine okXS_elim ?_ (by assumption)) | (refine okXS_elimE ?_ (by assumption)) | (refine okXE_elim ?_ (by assumption)) | (refine okXE_elimE ?_ (by assumption)) | (refine okX_elim ?_ (by assumption)) | (refine okO_elim ?_ (by assumption)) | (refine okOptF_elim ?_ (by assumption)) | (refine okOptS_elim ?_ (by assumption)) | (refine okXF_elim ?_ (by assumption)) | (refine okXO_elim ?_ (by assumption)) | split | dsimp only)
  | cons y ys ih =>
    unfold State.accqTargets
    with_reducible repeat' (first | assumption | apply ok_of | simp only [ok_mk] | apply ih | apply State.engByte_ok | apply okF_ok | apply okF_error | intro _ _ _ | intro _ | (refine ok_fst ?_ (by assumption)) | (refine ok_snd ?_ (by assumption)) | (refine okOpt_elim ?_ (by assumption)) | (refine okXS_elim ?_ (by assumption)) | (refine okXS_elimE ?_ (by assumption)) | (refine okXE_elim ?_ (by assumption)) | (refine okXE_elimE ?_ (by assumption)) | (refine okX_elim ?_ (by assumption)) | (refine okO_elim ?_ (by assumption)) | (refine okOptF_elim ?_ (by assumption)) | (refine okOptS_elim ?_ (by assumption)) | (refine okXF_elim ?_ (by assumption)) | (refine okXO_elim ?_ (by assumption)) | split | dsimp only)

theorem execEngineCommandComplete_ok (s : State) (hs : MemOk s) : OkO (execEngineCommandComplete s) := by
  unfold execEngineCommandComplete
  with_reducible repeat' (first | assumption | apply ok_of | simp only [ok_mk] | apply State.waiting_ok | apply State.passed_ok | apply State.bankPut_ok | apply State.rawPut_ok | apply State.updGrp_ok | apply State.setTeam_ok | apply State.cmdFault_ok | apply State.retire_ok | apply State.applyMma_ok | apply State.scatterOpen_ok | apply State.accqTargets_ok | apply okO_next | apply okO_fault | apply okO_refused | apply okE_done | apply okE_ctl | apply okE_fault | apply okE_stall | apply okE_pause | apply okE_trap | apply okE_async | apply okE_gone | apply okE_late | apply okOpt_some | apply okOpt_none | apply okOpt_mapS | apply okOpt_map | apply okOpt_ite | apply foldl_ok | apply foldl_fst_ok | apply ok_ite | intro _ _ _ | intro _ | (refine ok_fst ?_ (by assumption)) | (refine ok_snd ?_ (by assumption)) | (refine okOpt_elim ?_ (by assumption)) | (refine okXS_elim ?_ (by assumption)) | (refine okXS_elimE ?_ (by assumption)) | (refine okXE_elim ?_ (by assumption)) | (refine okXE_elimE ?_ (by assumption)) | (refine okX_elim ?_ (by assumption)) | (refine okO_elim ?_ (by assumption)) | (refine okOptF_elim ?_ (by assumption)) | (refine okOptS_elim ?_ (by assumption)) | (refine okXF_elim ?_ (by assumption)) | (refine okXO_elim ?_ (by assumption)) | split | dsimp only)

theorem State.pendReset_ok (s : State) (gid : Nat) (f : AFault) (hs : MemOk s) : MemOk (State.pendReset s gid f) := by
  unfold State.pendReset
  with_reducible repeat' (first | assumption | apply ok_of | simp only [ok_mk] | apply State.asyncTo_ok | apply ok_ite | intro _ _ _ | intro _ | (refine ok_fst ?_ (by assumption)) | (refine ok_snd ?_ (by assumption)) | (refine okOpt_elim ?_ (by assumption)) | (refine okXS_elim ?_ (by assumption)) | (refine okXS_elimE ?_ (by assumption)) | (refine okXE_elim ?_ (by assumption)) | (refine okXE_elimE ?_ (by assumption)) | (refine okX_elim ?_ (by assumption)) | (refine okO_elim ?_ (by assumption)) | (refine okOptF_elim ?_ (by assumption)) | (refine okOptS_elim ?_ (by assumption)) | (refine okXF_elim ?_ (by assumption)) | (refine okXO_elim ?_ (by assumption)) | split | dsimp only)

theorem execMatrixEngineReset_ok (s : State) (hs : MemOk s) : OkO (execMatrixEngineReset s) := by
  unfold execMatrixEngineReset
  with_reducible repeat' (first | assumption | apply ok_of | simp only [ok_mk] | apply State.setCore_ok | apply State.updGrp_ok | apply State.event_ok | apply State.tryTeamEnd_ok | apply State.checkEndings_ok | apply State.matrixSettle_ok | apply State.scatterOpen_ok | apply State.pendReset_ok | apply okO_next | apply okO_fault | apply okO_refused | apply okE_done | apply okE_ctl | apply okE_fault | apply okE_stall | apply okE_pause | apply okE_trap | apply okE_async | apply okE_gone | apply okE_late | apply okOpt_some | apply okOpt_none | apply okOpt_mapS | apply okOpt_map | apply okOpt_ite | apply okOpt_getD | apply foldl_ok | apply foldl_fst_ok | apply ok_ite | intro _ _ _ | intro _ | (refine ok_fst ?_ (by assumption)) | (refine ok_snd ?_ (by assumption)) | (refine okOpt_elim ?_ (by assumption)) | (refine okXS_elim ?_ (by assumption)) | (refine okXS_elimE ?_ (by assumption)) | (refine okXE_elim ?_ (by assumption)) | (refine okXE_elimE ?_ (by assumption)) | (refine okX_elim ?_ (by assumption)) | (refine okO_elim ?_ (by assumption)) | (refine okOptF_elim ?_ (by assumption)) | (refine okOptS_elim ?_ (by assumption)) | (refine okXF_elim ?_ (by assumption)) | (refine okXO_elim ?_ (by assumption)) | split | dsimp only)

theorem execMatrixEngineResetEnd_ok (s : State) (hs : MemOk s) : OkO (execMatrixEngineResetEnd s) := by
  unfold execMatrixEngineResetEnd
  with_reducible repeat' (first | assumption | apply ok_of | simp only [ok_mk] | apply State.setCore_ok | apply okO_next | apply okO_fault | apply okO_refused | apply okE_done | apply okE_ctl | apply okE_fault | apply okE_stall | apply okE_pause | apply okE_trap | apply okE_async | apply okE_gone | apply okE_late | apply okOpt_some | apply okOpt_none | apply okOpt_mapS | apply okOpt_map | apply okOpt_ite | intro _ _ _ | intro _ | (refine ok_fst ?_ (by assumption)) | (refine ok_snd ?_ (by assumption)) | (refine okOpt_elim ?_ (by assumption)) | (refine okXS_elim ?_ (by assumption)) | (refine okXS_elimE ?_ (by assumption)) | (refine okXE_elim ?_ (by assumption)) | (refine okXE_elimE ?_ (by assumption)) | (refine okX_elim ?_ (by assumption)) | (refine okO_elim ?_ (by assumption)) | (refine okOptF_elim ?_ (by assumption)) | (refine okOptS_elim ?_ (by assumption)) | (refine okXF_elim ?_ (by assumption)) | (refine okXO_elim ?_ (by assumption)) | split | dsimp only)

end Sys2Proof.Machine
end

