-- ==== Sys2Proof/Laws/OkFabric.lean ====
section
/-! SUPPORT. Memory's canonical form, kept by the operations of the fabric processors. -/

set_option linter.all false
namespace Sys2Proof.Machine

theorem FxEff.apply_ok (p : Nat) (x0 : FxEff) (hx0 : OkFx (x0)) : MemOk (FxEff.apply p x0) := by
  unfold FxEff.apply
  cases x0 <;> unfold OkFx at hx0 <;> dsimp only at hx0 <;> dsimp only <;> (with_reducible repeat' (first | assumption | apply ok_of | simp only [ok_mk] | apply State.fxFault_ok | apply State.setFx_ok | apply okO_next | apply okO_fault | apply okO_refused | apply okE_done | apply okE_ctl | apply okE_fault | apply okE_stall | apply okE_pause | apply okE_trap | apply okE_async | apply okE_gone | apply okE_late | apply okOpt_some | apply okOpt_none | apply okOpt_mapS | apply okOpt_map | apply okOpt_ite | intro _ _ _ | intro _ | (refine ok_fst ?_ (by assumption)) | (refine ok_snd ?_ (by assumption)) | (refine okOpt_elim ?_ (by assumption)) | (refine okXS_elim ?_ (by assumption)) | (refine okXS_elimE ?_ (by assumption)) | (refine okXE_elim ?_ (by assumption)) | (refine okXE_elimE ?_ (by assumption)) | (refine okX_elim ?_ (by assumption)) | (refine okO_elim ?_ (by assumption)) | (refine okOptF_elim ?_ (by assumption)) | (refine okOptS_elim ?_ (by assumption)) | (refine okXF_elim ?_ (by assumption)) | (refine okXO_elim ?_ (by assumption)) | split | dsimp only))

theorem FxEff.run_ok (s : State) (p : Nat) (x0 : FxEff) (hs : MemOk s) (hx0 : OkFx (x0)) : MemOk (FxEff.run s p x0) := by
  have h := FxEff.apply_ok p x0 hx0
  cases x0 <;> unfold FxEff.run <;> first | exact State.passed_ok _ _ hs h | exact State.waiting_ok _ _ hs h

theorem fxWord_ok (s : State) (f : State → Nat → FxSt → FxStart → FxEff) (hs : MemOk s) (hf : ∀ y0 y1 y2 y3, MemOk y0 → OkFx (f y0 y1 y2 y3)) : OkO (fxWord s f) := by
  unfold fxWord
  with_reducible repeat' (first | assumption | apply ok_of | simp only [ok_mk] | apply hf | apply FxEff.run_ok | apply okO_next | apply okO_fault | apply okO_refused | apply okE_done | apply okE_ctl | apply okE_fault | apply okE_stall | apply okE_pause | apply okE_trap | apply okE_async | apply okE_gone | apply okE_late | apply okOpt_some | apply okOpt_none | apply okOpt_mapS | apply okOpt_map | apply okOpt_ite | intro _ _ _ | intro _ | (refine ok_fst ?_ (by assumption)) | (refine ok_snd ?_ (by assumption)) | (refine okOpt_elim ?_ (by assumption)) | (refine okXS_elim ?_ (by assumption)) | (refine okXS_elimE ?_ (by assumption)) | (refine okXE_elim ?_ (by assumption)) | (refine okXE_elimE ?_ (by assumption)) | (refine okX_elim ?_ (by assumption)) | (refine okO_elim ?_ (by assumption)) | (refine okOptF_elim ?_ (by assumption)) | (refine okOptS_elim ?_ (by assumption)) | (refine okXF_elim ?_ (by assumption)) | (refine okXO_elim ?_ (by assumption)) | split | dsimp only)

theorem eng_ok {α : Type} (r : State × Except EStop α) (k : State → α → FxEff) (hr : MemOk (r).1) (hk : ∀ y0 y1, MemOk y0 → OkFx (k y0 y1)) : OkFx (eng r k) := by
  unfold eng
  with_reducible repeat' (first | assumption | apply ok_of | simp only [ok_mk] | apply hk | apply okE_done | apply okE_ctl | apply okE_fault | apply okE_stall | apply okE_pause | apply okE_trap | apply okE_async | apply okE_gone | apply okE_late | apply okFx_next | apply okFx_jump | apply okFx_busy | apply okFx_waits | apply okFx_fault | apply okFx_stall | intro _ _ _ | intro _ | (refine ok_fst ?_ (by assumption)) | (refine ok_snd ?_ (by assumption)) | (refine okOpt_elim ?_ (by assumption)) | (refine okXS_elim ?_ (by assumption)) | (refine okXS_elimE ?_ (by assumption)) | (refine okXE_elim ?_ (by assumption)) | (refine okXE_elimE ?_ (by assumption)) | (refine okX_elim ?_ (by assumption)) | (refine okO_elim ?_ (by assumption)) | (refine okOptF_elim ?_ (by assumption)) | (refine okOptS_elim ?_ (by assumption)) | (refine okXF_elim ?_ (by assumption)) | (refine okXO_elim ?_ (by assumption)) | split | dsimp only)

theorem engSeq_ok {α : Type} {β : Type} (a : State × Except EStop α) (b : State → α → State × Except EStop β) (ha : MemOk (a).1) (hb : ∀ y0 y1, MemOk y0 → MemOk (b y0 y1).1) : MemOk (engSeq a b).1 := by
  unfold engSeq
  with_reducible repeat' (first | assumption | apply ok_of | simp only [ok_mk] | apply hb | intro _ _ _ | intro _ | (refine ok_fst ?_ (by assumption)) | (refine ok_snd ?_ (by assumption)) | (refine okOpt_elim ?_ (by assumption)) | (refine okXS_elim ?_ (by assumption)) | (refine okXS_elimE ?_ (by assumption)) | (refine okXE_elim ?_ (by assumption)) | (refine okXE_elimE ?_ (by assumption)) | (refine okX_elim ?_ (by assumption)) | (refine okO_elim ?_ (by assumption)) | (refine okOptF_elim ?_ (by assumption)) | (refine okOptS_elim ?_ (by assumption)) | (refine okXF_elim ?_ (by assumption)) | (refine okXO_elim ?_ (by assumption)) | split | dsimp only)

theorem fxBad_ok (s : State) (hs : MemOk s) : OkFx (fxBad s) := by
  unfold fxBad
  with_reducible repeat' (first | assumption | apply ok_of | simp only [ok_mk] | apply okFx_next | apply okFx_jump | apply okFx_busy | apply okFx_waits | apply okFx_fault | apply okFx_stall | intro _ _ _ | intro _ | (refine ok_fst ?_ (by assumption)) | (refine ok_snd ?_ (by assumption)) | (refine okOpt_elim ?_ (by assumption)) | (refine okXS_elim ?_ (by assumption)) | (refine okXS_elimE ?_ (by assumption)) | (refine okXE_elim ?_ (by assumption)) | (refine okXE_elimE ?_ (by assumption)) | (refine okX_elim ?_ (by assumption)) | (refine okO_elim ?_ (by assumption)) | (refine okOptF_elim ?_ (by assumption)) | (refine okOptS_elim ?_ (by assumption)) | (refine okXF_elim ?_ (by assumption)) | (refine okXO_elim ?_ (by assumption)) | split | dsimp only)

theorem fxReg_ok (s : State) (a : FReg) (f : FxSt → W64) (hs : MemOk s) : OkO (fxReg s a f) := by
  unfold fxReg
  with_reducible repeat' (first | assumption | apply ok_of | simp only [ok_mk] | apply fxWord_ok | apply okO_next | apply okO_fault | apply okO_refused | apply okE_done | apply okE_ctl | apply okE_fault | apply okE_stall | apply okE_pause | apply okE_trap | apply okE_async | apply okE_gone | apply okE_late | apply okFx_next | apply okFx_jump | apply okFx_busy | apply okFx_waits | apply okFx_fault | apply okFx_stall | intro _ _ _ | intro _ | (refine ok_fst ?_ (by assumption)) | (refine ok_snd ?_ (by assumption)) | (refine okOpt_elim ?_ (by assumption)) | (refine okXS_elim ?_ (by assumption)) | (refine okXS_elimE ?_ (by assumption)) | (refine okXE_elim ?_ (by assumption)) | (refine okXE_elimE ?_ (by assumption)) | (refine okX_elim ?_ (by assumption)) | (refine okO_elim ?_ (by assumption)) | (refine okOptF_elim ?_ (by assumption)) | (refine okOptS_elim ?_ (by assumption)) | (refine okXF_elim ?_ (by assumption)) | (refine okXO_elim ?_ (by assumption)) | split | dsimp only)

theorem execFxNop_ok (s : State) (hs : MemOk s) : OkO (execFxNop s) := by
  unfold execFxNop
  with_reducible repeat' (first | assumption | apply ok_of | simp only [ok_mk] | apply fxWord_ok | apply okO_next | apply okO_fault | apply okO_refused | apply okE_done | apply okE_ctl | apply okE_fault | apply okE_stall | apply okE_pause | apply okE_trap | apply okE_async | apply okE_gone | apply okE_late | apply okFx_next | apply okFx_jump | apply okFx_busy | apply okFx_waits | apply okFx_fault | apply okFx_stall | intro _ _ _ | intro _ | (refine ok_fst ?_ (by assumption)) | (refine ok_snd ?_ (by assumption)) | (refine okOpt_elim ?_ (by assumption)) | (refine okXS_elim ?_ (by assumption)) | (refine okXS_elimE ?_ (by assumption)) | (refine okXE_elim ?_ (by assumption)) | (refine okXE_elimE ?_ (by assumption)) | (refine okX_elim ?_ (by assumption)) | (refine okO_elim ?_ (by assumption)) | (refine okOptF_elim ?_ (by assumption)) | (refine okOptS_elim ?_ (by assumption)) | (refine okXF_elim ?_ (by assumption)) | (refine okXO_elim ?_ (by assumption)) | split | dsimp only)

theorem execFxLdi_ok (a : FReg) (imm : BitVec 44) (s : State) (hs : MemOk s) : OkO (execFxLdi a imm s) := by
  unfold execFxLdi
  with_reducible repeat' (first | assumption | apply ok_of | simp only [ok_mk] | apply fxReg_ok | apply okO_next | apply okO_fault | apply okO_refused | apply okE_done | apply okE_ctl | apply okE_fault | apply okE_stall | apply okE_pause | apply okE_trap | apply okE_async | apply okE_gone | apply okE_late | intro _ _ _ | intro _ | (refine ok_fst ?_ (by assumption)) | (refine ok_snd ?_ (by assumption)) | (refine okOpt_elim ?_ (by assumption)) | (refine okXS_elim ?_ (by assumption)) | (refine okXS_elimE ?_ (by assumption)) | (refine okXE_elim ?_ (by assumption)) | (refine okXE_elimE ?_ (by assumption)) | (refine okX_elim ?_ (by assumption)) | (refine okO_elim ?_ (by assumption)) | (refine okOptF_elim ?_ (by assumption)) | (refine okOptS_elim ?_ (by assumption)) | (refine okXF_elim ?_ (by assumption)) | (refine okXO_elim ?_ (by assumption)) | split | dsimp only)

theorem execFxLdiHi_ok (a : FReg) (imm : BitVec 20) (s : State) (hs : MemOk s) : OkO (execFxLdiHi a imm s) := by
  unfold execFxLdiHi
  with_reducible repeat' (first | assumption | apply ok_of | simp only [ok_mk] | apply fxReg_ok | apply okO_next | apply okO_fault | apply okO_refused | apply okE_done | apply okE_ctl | apply okE_fault | apply okE_stall | apply okE_pause | apply okE_trap | apply okE_async | apply okE_gone | apply okE_late | intro _ _ _ | intro _ | (refine ok_fst ?_ (by assumption)) | (refine ok_snd ?_ (by assumption)) | (refine okOpt_elim ?_ (by assumption)) | (refine okXS_elim ?_ (by assumption)) | (refine okXS_elimE ?_ (by assumption)) | (refine okXE_elim ?_ (by assumption)) | (refine okXE_elimE ?_ (by assumption)) | (refine okX_elim ?_ (by assumption)) | (refine okO_elim ?_ (by assumption)) | (refine okOptF_elim ?_ (by assumption)) | (refine okOptS_elim ?_ (by assumption)) | (refine okXF_elim ?_ (by assumption)) | (refine okXO_elim ?_ (by assumption)) | split | dsimp only)

theorem execFxAdd_ok (a : FReg) (b : FReg) (c : FOp2) (s : State) (hs : MemOk s) : OkO (execFxAdd a b c s) := by
  unfold execFxAdd
  with_reducible repeat' (first | assumption | apply ok_of | simp only [ok_mk] | apply fxReg_ok | apply okO_next | apply okO_fault | apply okO_refused | apply okE_done | apply okE_ctl | apply okE_fault | apply okE_stall | apply okE_pause | apply okE_trap | apply okE_async | apply okE_gone | apply okE_late | intro _ _ _ | intro _ | (refine ok_fst ?_ (by assumption)) | (refine ok_snd ?_ (by assumption)) | (refine okOpt_elim ?_ (by assumption)) | (refine okXS_elim ?_ (by assumption)) | (refine okXS_elimE ?_ (by assumption)) | (refine okXE_elim ?_ (by assumption)) | (refine okXE_elimE ?_ (by assumption)) | (refine okX_elim ?_ (by assumption)) | (refine okO_elim ?_ (by assumption)) | (refine okOptF_elim ?_ (by assumption)) | (refine okOptS_elim ?_ (by assumption)) | (refine okXF_elim ?_ (by assumption)) | (refine okXO_elim ?_ (by assumption)) | split | dsimp only)

theorem execFxSub_ok (a : FReg) (b : FReg) (c : FOp2) (s : State) (hs : MemOk s) : OkO (execFxSub a b c s) := by
  unfold execFxSub
  with_reducible repeat' (first | assumption | apply ok_of | simp only [ok_mk] | apply fxReg_ok | apply okO_next | apply okO_fault | apply okO_refused | apply okE_done | apply okE_ctl | apply okE_fault | apply okE_stall | apply okE_pause | apply okE_trap | apply okE_async | apply okE_gone | apply okE_late | intro _ _ _ | intro _ | (refine ok_fst ?_ (by assumption)) | (refine ok_snd ?_ (by assumption)) | (refine okOpt_elim ?_ (by assumption)) | (refine okXS_elim ?_ (by assumption)) | (refine okXS_elimE ?_ (by assumption)) | (refine okXE_elim ?_ (by assumption)) | (refine okXE_elimE ?_ (by assumption)) | (refine okX_elim ?_ (by assumption)) | (refine okO_elim ?_ (by assumption)) | (refine okOptF_elim ?_ (by assumption)) | (refine okOptS_elim ?_ (by assumption)) | (refine okXF_elim ?_ (by assumption)) | (refine okXO_elim ?_ (by assumption)) | split | dsimp only)

theorem execFxAnd_ok (a : FReg) (b : FReg) (c : FOp2) (s : State) (hs : MemOk s) : OkO (execFxAnd a b c s) := by
  unfold execFxAnd
  with_reducible repeat' (first | assumption | apply ok_of | simp only [ok_mk] | apply fxReg_ok | apply okO_next | apply okO_fault | apply okO_refused | apply okE_done | apply okE_ctl | apply okE_fault | apply okE_stall | apply okE_pause | apply okE_trap | apply okE_async | apply okE_gone | apply okE_late | intro _ _ _ | intro _ | (refine ok_fst ?_ (by assumption)) | (refine ok_snd ?_ (by assumption)) | (refine okOpt_elim ?_ (by assumption)) | (refine okXS_elim ?_ (by assumption)) | (refine okXS_elimE ?_ (by assumption)) | (refine okXE_elim ?_ (by assumption)) | (refine okXE_elimE ?_ (by assumption)) | (refine okX_elim ?_ (by assumption)) | (refine okO_elim ?_ (by assumption)) | (refine okOptF_elim ?_ (by assumption)) | (refine okOptS_elim ?_ (by assumption)) | (refine okXF_elim ?_ (by assumption)) | (refine okXO_elim ?_ (by assumption)) | split | dsimp only)

theorem execFxShl_ok (a : FReg) (b : FReg) (c : FOp2) (s : State) (hs : MemOk s) : OkO (execFxShl a b c s) := by
  unfold execFxShl
  with_reducible repeat' (first | assumption | apply ok_of | simp only [ok_mk] | apply fxReg_ok | apply okO_next | apply okO_fault | apply okO_refused | apply okE_done | apply okE_ctl | apply okE_fault | apply okE_stall | apply okE_pause | apply okE_trap | apply okE_async | apply okE_gone | apply okE_late | intro _ _ _ | intro _ | (refine ok_fst ?_ (by assumption)) | (refine ok_snd ?_ (by assumption)) | (refine okOpt_elim ?_ (by assumption)) | (refine okXS_elim ?_ (by assumption)) | (refine okXS_elimE ?_ (by assumption)) | (refine okXE_elim ?_ (by assumption)) | (refine okXE_elimE ?_ (by assumption)) | (refine okX_elim ?_ (by assumption)) | (refine okO_elim ?_ (by assumption)) | (refine okOptF_elim ?_ (by assumption)) | (refine okOptS_elim ?_ (by assumption)) | (refine okXF_elim ?_ (by assumption)) | (refine okXO_elim ?_ (by assumption)) | split | dsimp only)

theorem execFxCmpb_ok (c : FCond) (a : FReg) (b : FReg) (off : BitVec 44) (s : State) (hs : MemOk s) : OkO (execFxCmpb c a b off s) := by
  unfold execFxCmpb
  with_reducible repeat' (first | assumption | apply ok_of | simp only [ok_mk] | apply fxWord_ok | apply okO_next | apply okO_fault | apply okO_refused | apply okE_done | apply okE_ctl | apply okE_fault | apply okE_stall | apply okE_pause | apply okE_trap | apply okE_async | apply okE_gone | apply okE_late | apply okFx_next | apply okFx_jump | apply okFx_busy | apply okFx_waits | apply okFx_fault | apply okFx_stall | apply ok_ite | intro _ _ _ | intro _ | (refine ok_fst ?_ (by assumption)) | (refine ok_snd ?_ (by assumption)) | (refine okOpt_elim ?_ (by assumption)) | (refine okXS_elim ?_ (by assumption)) | (refine okXS_elimE ?_ (by assumption)) | (refine okXE_elim ?_ (by assumption)) | (refine okXE_elimE ?_ (by assumption)) | (refine okX_elim ?_ (by assumption)) | (refine okO_elim ?_ (by assumption)) | (refine okOptF_elim ?_ (by assumption)) | (refine okOptS_elim ?_ (by assumption)) | (refine okXF_elim ?_ (by assumption)) | (refine okXO_elim ?_ (by assumption)) | split | dsimp only)

theorem execFxJmp_ok (off : BitVec 44) (s : State) (hs : MemOk s) : OkO (execFxJmp off s) := by
  unfold execFxJmp
  with_reducible repeat' (first | assumption | apply ok_of | simp only [ok_mk] | apply fxWord_ok | apply okO_next | apply okO_fault | apply okO_refused | apply okE_done | apply okE_ctl | apply okE_fault | apply okE_stall | apply okE_pause | apply okE_trap | apply okE_async | apply okE_gone | apply okE_late | apply okFx_next | apply okFx_jump | apply okFx_busy | apply okFx_waits | apply okFx_fault | apply okFx_stall | intro _ _ _ | intro _ | (refine ok_fst ?_ (by assumption)) | (refine ok_snd ?_ (by assumption)) | (refine okOpt_elim ?_ (by assumption)) | (refine okXS_elim ?_ (by assumption)) | (refine okXS_elimE ?_ (by assumption)) | (refine okXE_elim ?_ (by assumption)) | (refine okXE_elimE ?_ (by assumption)) | (refine okX_elim ?_ (by assumption)) | (refine okO_elim ?_ (by assumption)) | (refine okOptF_elim ?_ (by assumption)) | (refine okOptS_elim ?_ (by assumption)) | (refine okXF_elim ?_ (by assumption)) | (refine okXO_elim ?_ (by assumption)) | split | dsimp only)

theorem execFxLoop_ok (a : FReg) (off : BitVec 44) (s : State) (hs : MemOk s) : OkO (execFxLoop a off s) := by
  unfold execFxLoop
  with_reducible repeat' (first | assumption | apply ok_of | simp only [ok_mk] | apply fxWord_ok | apply okO_next | apply okO_fault | apply okO_refused | apply okE_done | apply okE_ctl | apply okE_fault | apply okE_stall | apply okE_pause | apply okE_trap | apply okE_async | apply okE_gone | apply okE_late | apply okFx_next | apply okFx_jump | apply okFx_busy | apply okFx_waits | apply okFx_fault | apply okFx_stall | apply ok_ite | intro _ _ _ | intro _ | (refine ok_fst ?_ (by assumption)) | (refine ok_snd ?_ (by assumption)) | (refine okOpt_elim ?_ (by assumption)) | (refine okXS_elim ?_ (by assumption)) | (refine okXS_elimE ?_ (by assumption)) | (refine okXE_elim ?_ (by assumption)) | (refine okXE_elimE ?_ (by assumption)) | (refine okX_elim ?_ (by assumption)) | (refine okO_elim ?_ (by assumption)) | (refine okOptF_elim ?_ (by assumption)) | (refine okOptS_elim ?_ (by assumption)) | (refine okXF_elim ?_ (by assumption)) | (refine okXO_elim ?_ (by assumption)) | split | dsimp only)

theorem execFxLoadc_ok (a : FReg) (b : FReg) (c : FReg) (s : State) (hs : MemOk s) : OkO (execFxLoadc a b c s) := by
  unfold execFxLoadc
  with_reducible repeat' (first | assumption | apply ok_of | simp only [ok_mk] | apply State.rawRead_ok | apply fxWord_ok | apply eng_ok | apply fxBad_ok | apply okO_next | apply okO_fault | apply okO_refused | apply okE_done | apply okE_ctl | apply okE_fault | apply okE_stall | apply okE_pause | apply okE_trap | apply okE_async | apply okE_gone | apply okE_late | apply okFx_next | apply okFx_jump | apply okFx_busy | apply okFx_waits | apply okFx_fault | apply okFx_stall | apply okOpt_some | apply okOpt_none | apply okOpt_mapS | apply okOpt_map | apply okOpt_ite | apply ok_ite | intro _ _ _ | intro _ | (refine ok_fst ?_ (by assumption)) | (refine ok_snd ?_ (by assumption)) | (refine okOpt_elim ?_ (by assumption)) | (refine okXS_elim ?_ (by assumption)) | (refine okXS_elimE ?_ (by assumption)) | (refine okXE_elim ?_ (by assumption)) | (refine okXE_elimE ?_ (by assumption)) | (refine okX_elim ?_ (by assumption)) | (refine okO_elim ?_ (by assumption)) | (refine okOptF_elim ?_ (by assumption)) | (refine okOptS_elim ?_ (by assumption)) | (refine okXF_elim ?_ (by assumption)) | (refine okXO_elim ?_ (by assumption)) | split | dsimp only)

theorem execFxStorec_ok (a : FReg) (b : FReg) (c : FReg) (s : State) (hs : MemOk s) : OkO (execFxStorec a b c s) := by
  unfold execFxStorec
  with_reducible repeat' (first | assumption | apply ok_of | simp only [ok_mk] | apply State.rawWrite_ok | apply fxWord_ok | apply eng_ok | apply fxBad_ok | apply okO_next | apply okO_fault | apply okO_refused | apply okE_done | apply okE_ctl | apply okE_fault | apply okE_stall | apply okE_pause | apply okE_trap | apply okE_async | apply okE_gone | apply okE_late | apply okFx_next | apply okFx_jump | apply okFx_busy | apply okFx_waits | apply okFx_fault | apply okFx_stall | apply okOpt_some | apply okOpt_none | apply okOpt_mapS | apply okOpt_map | apply okOpt_ite | apply ok_ite | intro _ _ _ | intro _ | (refine ok_fst ?_ (by assumption)) | (refine ok_snd ?_ (by assumption)) | (refine okOpt_elim ?_ (by assumption)) | (refine okXS_elim ?_ (by assumption)) | (refine okXS_elimE ?_ (by assumption)) | (refine okXE_elim ?_ (by assumption)) | (refine okXE_elimE ?_ (by assumption)) | (refine okX_elim ?_ (by assumption)) | (refine okO_elim ?_ (by assumption)) | (refine okOptF_elim ?_ (by assumption)) | (refine okOptS_elim ?_ (by assumption)) | (refine okXF_elim ?_ (by assumption)) | (refine okXO_elim ?_ (by assumption)) | split | dsimp only)

theorem fxWaitm_ok (s : State) (p : Nat) (x : FxSt) (slot : Nat) (c : WCmp) (d : Nat) (va : W64) (v : W64) (hs : MemOk s) : OkFx (fxWaitm s p x slot c d va v) := by
  unfold fxWaitm
  with_reducible repeat' (first | assumption | apply ok_of | simp only [ok_mk] | apply State.rawRead_ok | apply eng_ok | apply okO_next | apply okO_fault | apply okO_refused | apply okFx_next | apply okFx_jump | apply okFx_busy | apply okFx_waits | apply okFx_fault | apply okFx_stall | apply okOpt_some | apply okOpt_none | apply okOpt_mapS | apply okOpt_map | apply okOpt_ite | apply ok_ite | intro _ _ _ | intro _ | (refine ok_fst ?_ (by assumption)) | (refine ok_snd ?_ (by assumption)) | (refine okOpt_elim ?_ (by assumption)) | (refine okXS_elim ?_ (by assumption)) | (refine okXS_elimE ?_ (by assumption)) | (refine okXE_elim ?_ (by assumption)) | (refine okXE_elimE ?_ (by assumption)) | (refine okX_elim ?_ (by assumption)) | (refine okO_elim ?_ (by assumption)) | (refine okOptF_elim ?_ (by assumption)) | (refine okOptS_elim ?_ (by assumption)) | (refine okXF_elim ?_ (by assumption)) | (refine okXO_elim ?_ (by assumption)) | split | dsimp only)

theorem execFxWaitm_ok (c : WCmp) (a : FReg) (b : FReg) (d : FReg) (s : State) (hs : MemOk s) : OkO (execFxWaitm c a b d s) := by
  unfold execFxWaitm
  with_reducible repeat' (first | assumption | apply ok_of | simp only [ok_mk] | apply fxWord_ok | apply fxWaitm_ok | apply okO_next | apply okO_fault | apply okO_refused | apply okE_done | apply okE_ctl | apply okE_fault | apply okE_stall | apply okE_pause | apply okE_trap | apply okE_async | apply okE_gone | apply okE_late | apply okFx_next | apply okFx_jump | apply okFx_busy | apply okFx_waits | apply okFx_fault | apply okFx_stall | apply ok_ite | intro _ _ _ | intro _ | (refine ok_fst ?_ (by assumption)) | (refine ok_snd ?_ (by assumption)) | (refine okOpt_elim ?_ (by assumption)) | (refine okXS_elim ?_ (by assumption)) | (refine okXS_elimE ?_ (by assumption)) | (refine okXE_elim ?_ (by assumption)) | (refine okXE_elimE ?_ (by assumption)) | (refine okX_elim ?_ (by assumption)) | (refine okO_elim ?_ (by assumption)) | (refine okOptF_elim ?_ (by assumption)) | (refine okOptS_elim ?_ (by assumption)) | (refine okXF_elim ?_ (by assumption)) | (refine okXO_elim ?_ (by assumption)) | split | dsimp only)

theorem execFxWaitmReread_ok (s : State) (hs : MemOk s) : OkO (execFxWaitmReread s) := by
  unfold execFxWaitmReread
  with_reducible repeat' (first | assumption | apply ok_of | simp only [ok_mk] | apply FxEff.run_ok | apply fxWaitm_ok | apply okO_next | apply okO_fault | apply okO_refused | apply okE_done | apply okE_ctl | apply okE_fault | apply okE_stall | apply okE_pause | apply okE_trap | apply okE_async | apply okE_gone | apply okE_late | apply okOpt_some | apply okOpt_none | apply okOpt_mapS | apply okOpt_map | apply okOpt_ite | intro _ _ _ | intro _ | (refine ok_fst ?_ (by assumption)) | (refine ok_snd ?_ (by assumption)) | (refine okOpt_elim ?_ (by assumption)) | (refine okXS_elim ?_ (by assumption)) | (refine okXS_elimE ?_ (by assumption)) | (refine okXE_elim ?_ (by assumption)) | (refine okXE_elimE ?_ (by assumption)) | (refine okX_elim ?_ (by assumption)) | (refine okO_elim ?_ (by assumption)) | (refine okOptF_elim ?_ (by assumption)) | (refine okOptS_elim ?_ (by assumption)) | (refine okXF_elim ?_ (by assumption)) | (refine okXO_elim ?_ (by assumption)) | split | dsimp only)

theorem execFxSigm_ok (set : Bool) (a : FReg) (b : FReg) (s : State) (hs : MemOk s) : OkO (execFxSigm set a b s) := by
  unfold execFxSigm
  with_reducible repeat' (first | assumption | apply ok_of | simp only [ok_mk] | apply State.rawUpd_ok | apply fxWord_ok | apply eng_ok | apply okO_next | apply okO_fault | apply okO_refused | apply okE_done | apply okE_ctl | apply okE_fault | apply okE_stall | apply okE_pause | apply okE_trap | apply okE_async | apply okE_gone | apply okE_late | apply okFx_next | apply okFx_jump | apply okFx_busy | apply okFx_waits | apply okFx_fault | apply okFx_stall | apply ok_ite | intro _ _ _ | intro _ | (refine ok_fst ?_ (by assumption)) | (refine ok_snd ?_ (by assumption)) | (refine okOpt_elim ?_ (by assumption)) | (refine okXS_elim ?_ (by assumption)) | (refine okXS_elimE ?_ (by assumption)) | (refine okXE_elim ?_ (by assumption)) | (refine okXE_elimE ?_ (by assumption)) | (refine okX_elim ?_ (by assumption)) | (refine okO_elim ?_ (by assumption)) | (refine okOptF_elim ?_ (by assumption)) | (refine okOptS_elim ?_ (by assumption)) | (refine okXF_elim ?_ (by assumption)) | (refine okXO_elim ?_ (by assumption)) | split | dsimp only)

theorem fxSend_ok (s : State) (p : Nat) (x : FxSt) (slot : Nat) (ch : W64) (k : FxPkt) (hs : MemOk s) : OkFx (fxSend s p x slot ch k) := by
  unfold fxSend
  with_reducible repeat' (first | assumption | apply ok_of | simp only [ok_mk] | apply okO_next | apply okO_fault | apply okO_refused | apply okFx_next | apply okFx_jump | apply okFx_busy | apply okFx_waits | apply okFx_fault | apply okFx_stall | apply okOpt_some | apply okOpt_none | apply okOpt_mapS | apply okOpt_map | apply okOpt_ite | intro _ _ _ | intro _ | (refine ok_fst ?_ (by assumption)) | (refine ok_snd ?_ (by assumption)) | (refine okOpt_elim ?_ (by assumption)) | (refine okXS_elim ?_ (by assumption)) | (refine okXS_elimE ?_ (by assumption)) | (refine okXE_elim ?_ (by assumption)) | (refine okXE_elimE ?_ (by assumption)) | (refine okX_elim ?_ (by assumption)) | (refine okO_elim ?_ (by assumption)) | (refine okOptF_elim ?_ (by assumption)) | (refine okOptS_elim ?_ (by assumption)) | (refine okXF_elim ?_ (by assumption)) | (refine okXO_elim ?_ (by assumption)) | split | dsimp only)

theorem execFxSend_ok (a : FReg) (b : FReg) (c : FReg) (s : State) (hs : MemOk s) : OkO (execFxSend a b c s) := by
  unfold execFxSend
  with_reducible repeat' (first | assumption | apply ok_of | simp only [ok_mk] | apply fxWord_ok | apply fxBad_ok | apply fxSend_ok | apply okO_next | apply okO_fault | apply okO_refused | apply okE_done | apply okE_ctl | apply okE_fault | apply okE_stall | apply okE_pause | apply okE_trap | apply okE_async | apply okE_gone | apply okE_late | apply okFx_next | apply okFx_jump | apply okFx_busy | apply okFx_waits | apply okFx_fault | apply okFx_stall | apply okOpt_some | apply okOpt_none | apply okOpt_mapS | apply okOpt_map | apply okOpt_ite | apply ok_ite | intro _ _ _ | intro _ | (refine ok_fst ?_ (by assumption)) | (refine ok_snd ?_ (by assumption)) | (refine okOpt_elim ?_ (by assumption)) | (refine okXS_elim ?_ (by assumption)) | (refine okXS_elimE ?_ (by assumption)) | (refine okXE_elim ?_ (by assumption)) | (refine okXE_elimE ?_ (by assumption)) | (refine okX_elim ?_ (by assumption)) | (refine okO_elim ?_ (by assumption)) | (refine okOptF_elim ?_ (by assumption)) | (refine okOptS_elim ?_ (by assumption)) | (refine okXF_elim ?_ (by assumption)) | (refine okXO_elim ?_ (by assumption)) | split | dsimp only)

theorem fxRecv_ok (s : State) (x : FxSt) (k : FxStart) (va : W64) (d : Nat) (ch : W64) (hs : MemOk s) : OkFx (fxRecv s x k va d ch) := by
  unfold fxRecv
  with_reducible repeat' (first | assumption | apply ok_of | simp only [ok_mk] | apply fxBad_ok | apply okO_next | apply okO_fault | apply okO_refused | apply okFx_next | apply okFx_jump | apply okFx_busy | apply okFx_waits | apply okFx_fault | apply okFx_stall | apply okOpt_some | apply okOpt_none | apply okOpt_mapS | apply okOpt_map | apply okOpt_ite | apply okOpt_bind | intro _ _ _ | intro _ | (refine ok_fst ?_ (by assumption)) | (refine ok_snd ?_ (by assumption)) | (refine okOpt_elim ?_ (by assumption)) | (refine okXS_elim ?_ (by assumption)) | (refine okXS_elimE ?_ (by assumption)) | (refine okXE_elim ?_ (by assumption)) | (refine okXE_elimE ?_ (by assumption)) | (refine okX_elim ?_ (by assumption)) | (refine okO_elim ?_ (by assumption)) | (refine okOptF_elim ?_ (by assumption)) | (refine okOptS_elim ?_ (by assumption)) | (refine okXF_elim ?_ (by assumption)) | (refine okXO_elim ?_ (by assumption)) | split | dsimp only)

theorem execFxRecv_ok (a : FReg) (b : FReg) (c : FReg) (s : State) (hs : MemOk s) : OkO (execFxRecv a b c s) := by
  unfold execFxRecv
  with_reducible repeat' (first | assumption | apply ok_of | simp only [ok_mk] | apply fxWord_ok | apply fxBad_ok | apply fxRecv_ok | apply okO_next | apply okO_fault | apply okO_refused | apply okE_done | apply okE_ctl | apply okE_fault | apply okE_stall | apply okE_pause | apply okE_trap | apply okE_async | apply okE_gone | apply okE_late | apply okFx_next | apply okFx_jump | apply okFx_busy | apply okFx_waits | apply okFx_fault | apply okFx_stall | apply ok_ite | intro _ _ _ | intro _ | (refine ok_fst ?_ (by assumption)) | (refine ok_snd ?_ (by assumption)) | (refine okOpt_elim ?_ (by assumption)) | (refine okXS_elim ?_ (by assumption)) | (refine okXS_elimE ?_ (by assumption)) | (refine okXE_elim ?_ (by assumption)) | (refine okXE_elimE ?_ (by assumption)) | (refine okX_elim ?_ (by assumption)) | (refine okO_elim ?_ (by assumption)) | (refine okOptF_elim ?_ (by assumption)) | (refine okOptS_elim ?_ (by assumption)) | (refine okXF_elim ?_ (by assumption)) | (refine okXO_elim ?_ (by assumption)) | split | dsimp only)

theorem State.acceptMsg_ok (s : State) (p : Nat) (m : RxMsg) (hs : MemOk s) : OkOpt (State.acceptMsg s p m) := by
  unfold State.acceptMsg
  with_reducible repeat' (first | assumption | apply ok_of | simp only [ok_mk] | apply State.setFx_ok | apply FxEff.apply_ok | apply fxRecv_ok | apply okOpt_some | apply okOpt_none | apply okOpt_mapS | apply okOpt_map | apply okOpt_ite | apply ok_ite | intro _ _ _ | intro _ | (refine ok_fst ?_ (by assumption)) | (refine ok_snd ?_ (by assumption)) | (refine okOpt_elim ?_ (by assumption)) | (refine okXS_elim ?_ (by assumption)) | (refine okXS_elimE ?_ (by assumption)) | (refine okXE_elim ?_ (by assumption)) | (refine okXE_elimE ?_ (by assumption)) | (refine okX_elim ?_ (by assumption)) | (refine okO_elim ?_ (by assumption)) | (refine okOptF_elim ?_ (by assumption)) | (refine okOptS_elim ?_ (by assumption)) | (refine okXF_elim ?_ (by assumption)) | (refine okXO_elim ?_ (by assumption)) | split | dsimp only)

theorem execFxTrig_ok (a : FReg) (b : FReg) (c : FReg) (s : State) (hs : MemOk s) : OkO (execFxTrig a b c s) := by
  unfold execFxTrig
  with_reducible repeat' (first | assumption | apply ok_of | simp only [ok_mk] | apply fxWord_ok | apply fxBad_ok | apply fxSend_ok | apply okO_next | apply okO_fault | apply okO_refused | apply okE_done | apply okE_ctl | apply okE_fault | apply okE_stall | apply okE_pause | apply okE_trap | apply okE_async | apply okE_gone | apply okE_late | apply okFx_next | apply okFx_jump | apply okFx_busy | apply okFx_waits | apply okFx_fault | apply okFx_stall | apply ok_ite | intro _ _ _ | intro _ | (refine ok_fst ?_ (by assumption)) | (refine ok_snd ?_ (by assumption)) | (refine okOpt_elim ?_ (by assumption)) | (refine okXS_elim ?_ (by assumption)) | (refine okXS_elimE ?_ (by assumption)) | (refine okXE_elim ?_ (by assumption)) | (refine okXE_elimE ?_ (by assumption)) | (refine okX_elim ?_ (by assumption)) | (refine okO_elim ?_ (by assumption)) | (refine okOptF_elim ?_ (by assumption)) | (refine okOptS_elim ?_ (by assumption)) | (refine okXF_elim ?_ (by assumption)) | (refine okXO_elim ?_ (by assumption)) | split | dsimp only)

theorem State.acceptStart_ok (s : State) (q : Nat) (slot : Nat) (dev : Nat) (proc : Nat) (fpc : W64) (prog : W64) (arg : W64) (hs : MemOk s) : OkOpt (State.acceptStart s q slot dev proc fpc prog arg) := by
  unfold State.acceptStart
  with_reducible repeat' (first | assumption | apply ok_of | simp only [ok_mk] | apply State.pushFx_ok | apply okOpt_some | apply okOpt_none | apply okOpt_mapS | apply okOpt_map | apply okOpt_ite | apply ok_ite | intro _ _ _ | intro _ | (refine ok_fst ?_ (by assumption)) | (refine ok_snd ?_ (by assumption)) | (refine okOpt_elim ?_ (by assumption)) | (refine okXS_elim ?_ (by assumption)) | (refine okXS_elimE ?_ (by assumption)) | (refine okXE_elim ?_ (by assumption)) | (refine okXE_elimE ?_ (by assumption)) | (refine okX_elim ?_ (by assumption)) | (refine okO_elim ?_ (by assumption)) | (refine okOptF_elim ?_ (by assumption)) | (refine okOptS_elim ?_ (by assumption)) | (refine okXF_elim ?_ (by assumption)) | (refine okXO_elim ?_ (by assumption)) | split | dsimp only)

theorem execStartPacketArrival_ok (s : State) (hs : MemOk s) : OkO (execStartPacketArrival s) := by
  unfold execStartPacketArrival
  with_reducible repeat' (first | assumption | apply ok_of | simp only [ok_mk] | apply State.fxAck_ok | apply State.acceptStart_ok | apply okO_next | apply okO_fault | apply okO_refused | apply okE_done | apply okE_ctl | apply okE_fault | apply okE_stall | apply okE_pause | apply okE_trap | apply okE_async | apply okE_gone | apply okE_late | apply okOpt_some | apply okOpt_none | apply okOpt_mapS | apply okOpt_map | apply okOpt_ite | apply ok_ite | intro _ _ _ | intro _ | (refine ok_fst ?_ (by assumption)) | (refine ok_snd ?_ (by assumption)) | (refine okOpt_elim ?_ (by assumption)) | (refine okXS_elim ?_ (by assumption)) | (refine okXS_elimE ?_ (by assumption)) | (refine okXE_elim ?_ (by assumption)) | (refine okXE_elimE ?_ (by assumption)) | (refine okX_elim ?_ (by assumption)) | (refine okO_elim ?_ (by assumption)) | (refine okOptF_elim ?_ (by assumption)) | (refine okOptS_elim ?_ (by assumption)) | (refine okXF_elim ?_ (by assumption)) | (refine okXO_elim ?_ (by assumption)) | split | dsimp only)

theorem execFxDec_ok (sign : Bool) (n : BlkLen) (a : FReg) (b : FReg) (c : FReg) (s : State) (hs : MemOk s) : OkO (execFxDec sign n a b c s) := by
  unfold execFxDec
  with_reducible repeat' (first | assumption | apply ok_of | simp only [ok_mk] | apply State.setFx_ok | apply fxWord_ok | apply fxBad_ok | apply okO_next | apply okO_fault | apply okO_refused | apply okE_done | apply okE_ctl | apply okE_fault | apply okE_stall | apply okE_pause | apply okE_trap | apply okE_async | apply okE_gone | apply okE_late | apply okFx_next | apply okFx_jump | apply okFx_busy | apply okFx_waits | apply okFx_fault | apply okFx_stall | apply okOpt_some | apply okOpt_none | apply okOpt_mapS | apply okOpt_map | apply okOpt_ite | apply ok_ite | intro _ _ _ | intro _ | (refine ok_fst ?_ (by assumption)) | (refine ok_snd ?_ (by assumption)) | (refine okOpt_elim ?_ (by assumption)) | (refine okXS_elim ?_ (by assumption)) | (refine okXS_elimE ?_ (by assumption)) | (refine okXE_elim ?_ (by assumption)) | (refine okXE_elimE ?_ (by assumption)) | (refine okX_elim ?_ (by assumption)) | (refine okO_elim ?_ (by assumption)) | (refine okOptF_elim ?_ (by assumption)) | (refine okOptS_elim ?_ (by assumption)) | (refine okXF_elim ?_ (by assumption)) | (refine okXO_elim ?_ (by assumption)) | split | dsimp only)

theorem execFxEnc_ok (sign : Bool) (n : BlkLen) (a : FReg) (b : FReg) (c : FReg) (s : State) (hs : MemOk s) : OkO (execFxEnc sign n a b c s) := by
  unfold execFxEnc
  with_reducible repeat' (first | assumption | apply ok_of | simp only [ok_mk] | apply fxWord_ok | apply fxBad_ok | apply okO_next | apply okO_fault | apply okO_refused | apply okE_done | apply okE_ctl | apply okE_fault | apply okE_stall | apply okE_pause | apply okE_trap | apply okE_async | apply okE_gone | apply okE_late | apply okFx_next | apply okFx_jump | apply okFx_busy | apply okFx_waits | apply okFx_fault | apply okFx_stall | apply okOpt_some | apply okOpt_none | apply okOpt_mapS | apply okOpt_map | apply okOpt_ite | apply ok_ite | intro _ _ _ | intro _ | (refine ok_fst ?_ (by assumption)) | (refine ok_snd ?_ (by assumption)) | (refine okOpt_elim ?_ (by assumption)) | (refine okXS_elim ?_ (by assumption)) | (refine okXS_elimE ?_ (by assumption)) | (refine okXE_elim ?_ (by assumption)) | (refine okXE_elimE ?_ (by assumption)) | (refine okX_elim ?_ (by assumption)) | (refine okO_elim ?_ (by assumption)) | (refine okOptF_elim ?_ (by assumption)) | (refine okOptS_elim ?_ (by assumption)) | (refine okXF_elim ?_ (by assumption)) | (refine okXO_elim ?_ (by assumption)) | split | dsimp only)

theorem execFxAddb_ok (bf : Bool) (a : FReg) (b : FReg) (c : FReg) (s : State) (hs : MemOk s) : OkO (execFxAddb bf a b c s) := by
  unfold execFxAddb
  with_reducible repeat' (first | assumption | apply ok_of | simp only [ok_mk] | apply fxWord_ok | apply fxBad_ok | apply okO_next | apply okO_fault | apply okO_refused | apply okE_done | apply okE_ctl | apply okE_fault | apply okE_stall | apply okE_pause | apply okE_trap | apply okE_async | apply okE_gone | apply okE_late | apply okFx_next | apply okFx_jump | apply okFx_busy | apply okFx_waits | apply okFx_fault | apply okFx_stall | apply okOpt_some | apply okOpt_none | apply okOpt_mapS | apply okOpt_map | apply okOpt_ite | apply ok_ite | intro _ _ _ | intro _ | (refine ok_fst ?_ (by assumption)) | (refine ok_snd ?_ (by assumption)) | (refine okOpt_elim ?_ (by assumption)) | (refine okXS_elim ?_ (by assumption)) | (refine okXS_elimE ?_ (by assumption)) | (refine okXE_elim ?_ (by assumption)) | (refine okXE_elimE ?_ (by assumption)) | (refine okX_elim ?_ (by assumption)) | (refine okO_elim ?_ (by assumption)) | (refine okOptF_elim ?_ (by assumption)) | (refine okOptS_elim ?_ (by assumption)) | (refine okXF_elim ?_ (by assumption)) | (refine okXO_elim ?_ (by assumption)) | split | dsimp only)

theorem execFxSqacc_ok (bf : Bool) (a : FReg) (c : FReg) (s : State) (hs : MemOk s) : OkO (execFxSqacc bf a c s) := by
  unfold execFxSqacc
  with_reducible repeat' (first | assumption | apply ok_of | simp only [ok_mk] | apply fxWord_ok | apply fxBad_ok | apply okO_next | apply okO_fault | apply okO_refused | apply okE_done | apply okE_ctl | apply okE_fault | apply okE_stall | apply okE_pause | apply okE_trap | apply okE_async | apply okE_gone | apply okE_late | apply okFx_next | apply okFx_jump | apply okFx_busy | apply okFx_waits | apply okFx_fault | apply okFx_stall | apply okOpt_some | apply okOpt_none | apply okOpt_mapS | apply okOpt_map | apply okOpt_ite | apply foldl_ok | apply foldl_fst_ok | apply ok_ite | intro _ _ _ | intro _ | (refine ok_fst ?_ (by assumption)) | (refine ok_snd ?_ (by assumption)) | (refine okOpt_elim ?_ (by assumption)) | (refine okXS_elim ?_ (by assumption)) | (refine okXS_elimE ?_ (by assumption)) | (refine okXE_elim ?_ (by assumption)) | (refine okXE_elimE ?_ (by assumption)) | (refine okX_elim ?_ (by assumption)) | (refine okO_elim ?_ (by assumption)) | (refine okOptF_elim ?_ (by assumption)) | (refine okOptS_elim ?_ (by assumption)) | (refine okXF_elim ?_ (by assumption)) | (refine okXO_elim ?_ (by assumption)) | split | dsimp only)

theorem State.sendPartials_ok (s : State) (p : Nat) (slot : Nat) (ranks : List Nat) (v : W64) (hs : MemOk s) : OkX (State.sendPartials s p slot ranks v) := by
  unfold State.sendPartials
  with_reducible repeat' (first | assumption | apply ok_of | simp only [ok_mk] | apply okO_next | apply okO_fault | apply okO_refused | apply okOpt_some | apply okOpt_none | apply okOpt_mapS | apply okOpt_map | apply okOpt_ite | apply okX_ok | apply okX_error | apply foldlM_ok | intro _ _ _ | intro _ | (refine ok_fst ?_ (by assumption)) | (refine ok_snd ?_ (by assumption)) | (refine okOpt_elim ?_ (by assumption)) | (refine okXS_elim ?_ (by assumption)) | (refine okXS_elimE ?_ (by assumption)) | (refine okXE_elim ?_ (by assumption)) | (refine okXE_elimE ?_ (by assumption)) | (refine okX_elim ?_ (by assumption)) | (refine okO_elim ?_ (by assumption)) | (refine okOptF_elim ?_ (by assumption)) | (refine okOptS_elim ?_ (by assumption)) | (refine okXF_elim ?_ (by assumption)) | (refine okXO_elim ?_ (by assumption)) | split | dsimp only)

theorem execFxNormx_ok (a : FReg) (b : FReg) (c : FReg) (s : State) (hs : MemOk s) : OkO (execFxNormx a b c s) := by
  unfold execFxNormx
  with_reducible repeat' (first | assumption | apply ok_of | simp only [ok_mk] | apply State.rawRead_ok | apply fxWord_ok | apply eng_ok | apply fxBad_ok | apply State.sendPartials_ok | apply okO_next | apply okO_fault | apply okO_refused | apply okE_done | apply okE_ctl | apply okE_fault | apply okE_stall | apply okE_pause | apply okE_trap | apply okE_async | apply okE_gone | apply okE_late | apply okFx_next | apply okFx_jump | apply okFx_busy | apply okFx_waits | apply okFx_fault | apply okFx_stall | apply ok_ite | intro _ _ _ | intro _ | (refine ok_fst ?_ (by assumption)) | (refine ok_snd ?_ (by assumption)) | (refine okOpt_elim ?_ (by assumption)) | (refine okXS_elim ?_ (by assumption)) | (refine okXS_elimE ?_ (by assumption)) | (refine okXE_elim ?_ (by assumption)) | (refine okXE_elimE ?_ (by assumption)) | (refine okX_elim ?_ (by assumption)) | (refine okO_elim ?_ (by assumption)) | (refine okOptF_elim ?_ (by assumption)) | (refine okOptS_elim ?_ (by assumption)) | (refine okXF_elim ?_ (by assumption)) | (refine okXO_elim ?_ (by assumption)) | split | dsimp only)

theorem fxEntry_ok (s : State) (p : Nat) (slot : Nat) (h : W32) (need : Nat) (k : State → List Byte → FxEff) (hs : MemOk s) (hk : ∀ y0 y1, MemOk y0 → OkFx (k y0 y1)) : OkFx (fxEntry s p slot h need k) := by
  unfold fxEntry
  with_reducible repeat' (first | assumption | apply ok_of | simp only [ok_mk] | apply hk | apply State.rawRead_ok | apply eng_ok | apply okFx_next | apply okFx_jump | apply okFx_busy | apply okFx_waits | apply okFx_fault | apply okFx_stall | apply okOpt_some | apply okOpt_none | apply okOpt_mapS | apply okOpt_map | apply okOpt_ite | apply ok_ite | intro _ _ _ | intro _ | (refine ok_fst ?_ (by assumption)) | (refine ok_snd ?_ (by assumption)) | (refine okOpt_elim ?_ (by assumption)) | (refine okXS_elim ?_ (by assumption)) | (refine okXS_elimE ?_ (by assumption)) | (refine okXE_elim ?_ (by assumption)) | (refine okXE_elimE ?_ (by assumption)) | (refine okX_elim ?_ (by assumption)) | (refine okO_elim ?_ (by assumption)) | (refine okOptF_elim ?_ (by assumption)) | (refine okOptS_elim ?_ (by assumption)) | (refine okXF_elim ?_ (by assumption)) | (refine okXO_elim ?_ (by assumption)) | split | dsimp only)

theorem State.glFlags_ok (s : State) (p : Nat) (slot : Nat) (entry : Nat) (setb : W64) (clr : W64) (hs : MemOk s) : MemOk (State.glFlags s p slot entry setb clr).1 := by
  unfold State.glFlags
  with_reducible repeat' (first | assumption | apply ok_of | simp only [ok_mk] | apply State.rawUpd_ok | intro _ _ _ | intro _ | (refine ok_fst ?_ (by assumption)) | (refine ok_snd ?_ (by assumption)) | (refine okOpt_elim ?_ (by assumption)) | (refine okXS_elim ?_ (by assumption)) | (refine okXS_elimE ?_ (by assumption)) | (refine okXE_elim ?_ (by assumption)) | (refine okXE_elimE ?_ (by assumption)) | (refine okX_elim ?_ (by assumption)) | (refine okO_elim ?_ (by assumption)) | (refine okOptF_elim ?_ (by assumption)) | (refine okOptS_elim ?_ (by assumption)) | (refine okXF_elim ?_ (by assumption)) | (refine okXO_elim ?_ (by assumption)) | split | dsimp only)

theorem fxClaim_ok (s : State) (p : Nat) (slot : Nat) (h : W32) (cid : W32) (need : Nat) (k : State → GClaim → FxEff) (hs : MemOk s) (hk : ∀ y0 y1, MemOk y0 → OkFx (k y0 y1)) : OkFx (fxClaim s p slot h cid need k) := by
  unfold fxClaim
  with_reducible repeat' (first | assumption | apply ok_of | simp only [ok_mk] | apply hk | apply State.rawWrite_ok | apply eng_ok | apply engSeq_ok | apply fxEntry_ok | apply State.glFlags_ok | apply okFx_next | apply okFx_jump | apply okFx_busy | apply okFx_waits | apply okFx_fault | apply okFx_stall | apply okOpt_getD | apply ok_ite | intro _ _ _ | intro _ | (refine ok_fst ?_ (by assumption)) | (refine ok_snd ?_ (by assumption)) | (refine okOpt_elim ?_ (by assumption)) | (refine okXS_elim ?_ (by assumption)) | (refine okXS_elimE ?_ (by assumption)) | (refine okXE_elim ?_ (by assumption)) | (refine okXE_elimE ?_ (by assumption)) | (refine okX_elim ?_ (by assumption)) | (refine okO_elim ?_ (by assumption)) | (refine okOptF_elim ?_ (by assumption)) | (refine okOptS_elim ?_ (by assumption)) | (refine okXF_elim ?_ (by assumption)) | (refine okXO_elim ?_ (by assumption)) | split | dsimp only)

theorem execFxGlnClm_ok (a : FReg) (b : FReg) (c : FReg) (s : State) (hs : MemOk s) : OkO (execFxGlnClm a b c s) := by
  unfold execFxGlnClm
  with_reducible repeat' (first | assumption | apply ok_of | simp only [ok_mk] | apply State.claim_ok | apply fxWord_ok | apply fxBad_ok | apply fxClaim_ok | apply okO_next | apply okO_fault | apply okO_refused | apply okE_done | apply okE_ctl | apply okE_fault | apply okE_stall | apply okE_pause | apply okE_trap | apply okE_async | apply okE_gone | apply okE_late | apply okFx_next | apply okFx_jump | apply okFx_busy | apply okFx_waits | apply okFx_fault | apply okFx_stall | apply okOpt_some | apply okOpt_none | apply okOpt_mapS | apply okOpt_map | apply okOpt_ite | apply ok_ite | intro _ _ _ | intro _ | (refine ok_fst ?_ (by assumption)) | (refine ok_snd ?_ (by assumption)) | (refine okOpt_elim ?_ (by assumption)) | (refine okXS_elim ?_ (by assumption)) | (refine okXS_elimE ?_ (by assumption)) | (refine okXE_elim ?_ (by assumption)) | (refine okXE_elimE ?_ (by assumption)) | (refine okX_elim ?_ (by assumption)) | (refine okO_elim ?_ (by assumption)) | (refine okOptF_elim ?_ (by assumption)) | (refine okOptS_elim ?_ (by assumption)) | (refine okXF_elim ?_ (by assumption)) | (refine okXO_elim ?_ (by assumption)) | split | dsimp only)

theorem fxSlots_ok (s : State) (x : FxSt) (a : FReg) (b : FReg) (c : FReg) (k : Nat → Nat → Nat → FxEff) (hs : MemOk s) (hk : ∀ y0 y1 y2, OkFx (k y0 y1 y2)) : OkFx (fxSlots s x a b c k) := by
  unfold fxSlots
  with_reducible repeat' (first | assumption | apply ok_of | simp only [ok_mk] | apply hk | apply State.claim_ok | apply fxBad_ok | apply okFx_next | apply okFx_jump | apply okFx_busy | apply okFx_waits | apply okFx_fault | apply okFx_stall | apply okOpt_some | apply okOpt_none | apply okOpt_mapS | apply okOpt_map | apply okOpt_ite | apply ok_ite | intro _ _ _ | intro _ | (refine ok_fst ?_ (by assumption)) | (refine ok_snd ?_ (by assumption)) | (refine okOpt_elim ?_ (by assumption)) | (refine okXS_elim ?_ (by assumption)) | (refine okXS_elimE ?_ (by assumption)) | (refine okXE_elim ?_ (by assumption)) | (refine okXE_elimE ?_ (by assumption)) | (refine okX_elim ?_ (by assumption)) | (refine okO_elim ?_ (by assumption)) | (refine okOptF_elim ?_ (by assumption)) | (refine okOptS_elim ?_ (by assumption)) | (refine okXF_elim ?_ (by assumption)) | (refine okXO_elim ?_ (by assumption)) | split | dsimp only)

theorem execFxGlnAdd_ok (a : FReg) (b : FReg) (c : FReg) (s : State) (hs : MemOk s) : OkO (execFxGlnAdd a b c s) := by
  unfold execFxGlnAdd
  with_reducible repeat' (first | assumption | apply ok_of | simp only [ok_mk] | apply State.rawRead_ok | apply fxWord_ok | apply eng_ok | apply fxSlots_ok | apply okO_next | apply okO_fault | apply okO_refused | apply okE_done | apply okE_ctl | apply okE_fault | apply okE_stall | apply okE_pause | apply okE_trap | apply okE_async | apply okE_gone | apply okE_late | apply okFx_next | apply okFx_jump | apply okFx_busy | apply okFx_waits | apply okFx_fault | apply okFx_stall | apply okOpt_some | apply okOpt_none | apply okOpt_mapS | apply okOpt_map | apply okOpt_ite | apply ok_ite | intro _ _ _ | intro _ | (refine ok_fst ?_ (by assumption)) | (refine ok_snd ?_ (by assumption)) | (refine okOpt_elim ?_ (by assumption)) | (refine okXS_elim ?_ (by assumption)) | (refine okXS_elimE ?_ (by assumption)) | (refine okXE_elim ?_ (by assumption)) | (refine okXE_elimE ?_ (by assumption)) | (refine okX_elim ?_ (by assumption)) | (refine okO_elim ?_ (by assumption)) | (refine okOptF_elim ?_ (by assumption)) | (refine okOptS_elim ?_ (by assumption)) | (refine okXF_elim ?_ (by assumption)) | (refine okXO_elim ?_ (by assumption)) | split | dsimp only)

theorem State.glStore_ok (s : State) (p : Nat) (slot : Nat) (cl : GClaim) (va : Nat) (vs : List W32) (hs : MemOk s) : MemOk (State.glStore s p slot cl va vs).1 := by
  unfold State.glStore
  with_reducible repeat' (first | assumption | apply ok_of | simp only [ok_mk] | apply State.rawWrite_ok | apply engSeq_ok | apply State.glFlags_ok | apply ok_ite | intro _ _ _ | intro _ | (refine ok_fst ?_ (by assumption)) | (refine ok_snd ?_ (by assumption)) | (refine okOpt_elim ?_ (by assumption)) | (refine okXS_elim ?_ (by assumption)) | (refine okXS_elimE ?_ (by assumption)) | (refine okXE_elim ?_ (by assumption)) | (refine okXE_elimE ?_ (by assumption)) | (refine okX_elim ?_ (by assumption)) | (refine okO_elim ?_ (by assumption)) | (refine okOptF_elim ?_ (by assumption)) | (refine okOptS_elim ?_ (by assumption)) | (refine okXF_elim ?_ (by assumption)) | (refine okXO_elim ?_ (by assumption)) | split | dsimp only)

theorem execFxGlnSt_ok (a : FReg) (b : FReg) (c : FReg) (s : State) (hs : MemOk s) : OkO (execFxGlnSt a b c s) := by
  unfold execFxGlnSt
  with_reducible repeat' (first | assumption | apply ok_of | simp only [ok_mk] | apply State.claim_ok | apply fxWord_ok | apply eng_ok | apply fxSlots_ok | apply State.glStore_ok | apply okO_next | apply okO_fault | apply okO_refused | apply okE_done | apply okE_ctl | apply okE_fault | apply okE_stall | apply okE_pause | apply okE_trap | apply okE_async | apply okE_gone | apply okE_late | apply okFx_next | apply okFx_jump | apply okFx_busy | apply okFx_waits | apply okFx_fault | apply okFx_stall | apply okOpt_some | apply okOpt_none | apply okOpt_mapS | apply okOpt_map | apply okOpt_ite | apply ok_ite | intro _ _ _ | intro _ | (refine ok_fst ?_ (by assumption)) | (refine ok_snd ?_ (by assumption)) | (refine okOpt_elim ?_ (by assumption)) | (refine okXS_elim ?_ (by assumption)) | (refine okXS_elimE ?_ (by assumption)) | (refine okXE_elim ?_ (by assumption)) | (refine okXE_elimE ?_ (by assumption)) | (refine okX_elim ?_ (by assumption)) | (refine okO_elim ?_ (by assumption)) | (refine okOptF_elim ?_ (by assumption)) | (refine okOptS_elim ?_ (by assumption)) | (refine okXF_elim ?_ (by assumption)) | (refine okXO_elim ?_ (by assumption)) | split | dsimp only)

theorem State.glHop_ok (s : State) (p : Nat) (slot : Nat) (cl : GClaim) (hs : MemOk s) : MemOk (State.glHop s p slot cl).1 := by
  unfold State.glHop
  with_reducible repeat' (first | assumption | apply ok_of | simp only [ok_mk] | apply State.rawUpd_ok | intro _ _ _ | intro _ | (refine ok_fst ?_ (by assumption)) | (refine ok_snd ?_ (by assumption)) | (refine okOpt_elim ?_ (by assumption)) | (refine okXS_elim ?_ (by assumption)) | (refine okXS_elimE ?_ (by assumption)) | (refine okXE_elim ?_ (by assumption)) | (refine okXE_elimE ?_ (by assumption)) | (refine okX_elim ?_ (by assumption)) | (refine okO_elim ?_ (by assumption)) | (refine okOptF_elim ?_ (by assumption)) | (refine okOptS_elim ?_ (by assumption)) | (refine okXF_elim ?_ (by assumption)) | (refine okXO_elim ?_ (by assumption)) | split | dsimp only)

theorem execFxGlnHop_ok (s : State) (hs : MemOk s) : OkO (execFxGlnHop s) := by
  unfold execFxGlnHop
  with_reducible repeat' (first | assumption | apply ok_of | simp only [ok_mk] | apply State.claim_ok | apply fxWord_ok | apply eng_ok | apply State.glHop_ok | apply okO_next | apply okO_fault | apply okO_refused | apply okE_done | apply okE_ctl | apply okE_fault | apply okE_stall | apply okE_pause | apply okE_trap | apply okE_async | apply okE_gone | apply okE_late | apply okFx_next | apply okFx_jump | apply okFx_busy | apply okFx_waits | apply okFx_fault | apply okFx_stall | apply okOpt_some | apply okOpt_none | apply okOpt_mapS | apply okOpt_map | apply okOpt_ite | intro _ _ _ | intro _ | (refine ok_fst ?_ (by assumption)) | (refine ok_snd ?_ (by assumption)) | (refine okOpt_elim ?_ (by assumption)) | (refine okXS_elim ?_ (by assumption)) | (refine okXS_elimE ?_ (by assumption)) | (refine okXE_elim ?_ (by assumption)) | (refine okXE_elimE ?_ (by assumption)) | (refine okX_elim ?_ (by assumption)) | (refine okO_elim ?_ (by assumption)) | (refine okOptF_elim ?_ (by assumption)) | (refine okOptS_elim ?_ (by assumption)) | (refine okXF_elim ?_ (by assumption)) | (refine okXO_elim ?_ (by assumption)) | split | dsimp only)

theorem State.glRelease_ok (s : State) (p : Nat) (slot : Nat) (cl : GClaim) (hs : MemOk s) : MemOk (State.glRelease s p slot cl).1 := by
  unfold State.glRelease
  with_reducible repeat' (first | assumption | apply ok_of | simp only [ok_mk] | apply State.rawUpd_ok | apply engSeq_ok | apply State.glFlags_ok | intro _ _ _ | intro _ | (refine ok_fst ?_ (by assumption)) | (refine ok_snd ?_ (by assumption)) | (refine okOpt_elim ?_ (by assumption)) | (refine okXS_elim ?_ (by assumption)) | (refine okXS_elimE ?_ (by assumption)) | (refine okXE_elim ?_ (by assumption)) | (refine okXE_elimE ?_ (by assumption)) | (refine okX_elim ?_ (by assumption)) | (refine okO_elim ?_ (by assumption)) | (refine okOptF_elim ?_ (by assumption)) | (refine okOptS_elim ?_ (by assumption)) | (refine okXF_elim ?_ (by assumption)) | (refine okXO_elim ?_ (by assumption)) | split | dsimp only)

theorem execFxGlnRel_ok (s : State) (hs : MemOk s) : OkO (execFxGlnRel s) := by
  unfold execFxGlnRel
  with_reducible repeat' (first | assumption | apply ok_of | simp only [ok_mk] | apply State.claim_ok | apply fxWord_ok | apply eng_ok | apply State.glRelease_ok | apply okO_next | apply okO_fault | apply okO_refused | apply okE_done | apply okE_ctl | apply okE_fault | apply okE_stall | apply okE_pause | apply okE_trap | apply okE_async | apply okE_gone | apply okE_late | apply okFx_next | apply okFx_jump | apply okFx_busy | apply okFx_waits | apply okFx_fault | apply okFx_stall | apply okOpt_some | apply okOpt_none | apply okOpt_mapS | apply okOpt_map | apply okOpt_ite | intro _ _ _ | intro _ | (refine ok_fst ?_ (by assumption)) | (refine ok_snd ?_ (by assumption)) | (refine okOpt_elim ?_ (by assumption)) | (refine okXS_elim ?_ (by assumption)) | (refine okXS_elimE ?_ (by assumption)) | (refine okXE_elim ?_ (by assumption)) | (refine okXE_elimE ?_ (by assumption)) | (refine okX_elim ?_ (by assumption)) | (refine okO_elim ?_ (by assumption)) | (refine okOptF_elim ?_ (by assumption)) | (refine okOptS_elim ?_ (by assumption)) | (refine okXF_elim ?_ (by assumption)) | (refine okXO_elim ?_ (by assumption)) | split | dsimp only)

theorem execFxGlnRsm_ok (a : FReg) (b : FReg) (c : FReg) (s : State) (hs : MemOk s) : OkO (execFxGlnRsm a b c s) := by
  unfold execFxGlnRsm
  with_reducible repeat' (first | assumption | apply ok_of | simp only [ok_mk] | apply State.claim_ok | apply fxWord_ok | apply fxBad_ok | apply fxEntry_ok | apply okO_next | apply okO_fault | apply okO_refused | apply okE_done | apply okE_ctl | apply okE_fault | apply okE_stall | apply okE_pause | apply okE_trap | apply okE_async | apply okE_gone | apply okE_late | apply okFx_next | apply okFx_jump | apply okFx_busy | apply okFx_waits | apply okFx_fault | apply okFx_stall | apply okOpt_some | apply okOpt_none | apply okOpt_mapS | apply okOpt_map | apply okOpt_ite | apply okOpt_getD | apply ok_ite | intro _ _ _ | intro _ | (refine ok_fst ?_ (by assumption)) | (refine ok_snd ?_ (by assumption)) | (refine okOpt_elim ?_ (by assumption)) | (refine okXS_elim ?_ (by assumption)) | (refine okXS_elimE ?_ (by assumption)) | (refine okXE_elim ?_ (by assumption)) | (refine okXE_elimE ?_ (by assumption)) | (refine okX_elim ?_ (by assumption)) | (refine okO_elim ?_ (by assumption)) | (refine okOptF_elim ?_ (by assumption)) | (refine okOptS_elim ?_ (by assumption)) | (refine okXF_elim ?_ (by assumption)) | (refine okXO_elim ?_ (by assumption)) | split | dsimp only)

theorem execGleaningTableWrite_ok (s : State) (hs : MemOk s) : OkO (execGleaningTableWrite s) := by
  unfold execGleaningTableWrite
  with_reducible repeat' (first | assumption | apply ok_of | simp only [ok_mk] | apply State.regPut_ok | apply okO_next | apply okO_fault | apply okO_refused | apply okE_done | apply okE_ctl | apply okE_fault | apply okE_stall | apply okE_pause | apply okE_trap | apply okE_async | apply okE_gone | apply okE_late | intro _ _ _ | intro _ | (refine ok_fst ?_ (by assumption)) | (refine ok_snd ?_ (by assumption)) | (refine okOpt_elim ?_ (by assumption)) | (refine okXS_elim ?_ (by assumption)) | (refine okXS_elimE ?_ (by assumption)) | (refine okXE_elim ?_ (by assumption)) | (refine okXE_elimE ?_ (by assumption)) | (refine okX_elim ?_ (by assumption)) | (refine okO_elim ?_ (by assumption)) | (refine okOptF_elim ?_ (by assumption)) | (refine okOptS_elim ?_ (by assumption)) | (refine okXF_elim ?_ (by assumption)) | (refine okXO_elim ?_ (by assumption)) | split | dsimp only)

theorem execFxCkptSv_ok (a : FReg) (mask : BitVec 8) (s : State) (hs : MemOk s) : OkO (execFxCkptSv a mask s) := by
  unfold execFxCkptSv
  with_reducible repeat' (first | assumption | apply ok_of | simp only [ok_mk] | apply State.rawWrite_ok | apply fxWord_ok | apply eng_ok | apply okO_next | apply okO_fault | apply okO_refused | apply okE_done | apply okE_ctl | apply okE_fault | apply okE_stall | apply okE_pause | apply okE_trap | apply okE_async | apply okE_gone | apply okE_late | apply okFx_next | apply okFx_jump | apply okFx_busy | apply okFx_waits | apply okFx_fault | apply okFx_stall | apply ok_ite | intro _ _ _ | intro _ | (refine ok_fst ?_ (by assumption)) | (refine ok_snd ?_ (by assumption)) | (refine okOpt_elim ?_ (by assumption)) | (refine okXS_elim ?_ (by assumption)) | (refine okXS_elimE ?_ (by assumption)) | (refine okXE_elim ?_ (by assumption)) | (refine okXE_elimE ?_ (by assumption)) | (refine okX_elim ?_ (by assumption)) | (refine okO_elim ?_ (by assumption)) | (refine okOptF_elim ?_ (by assumption)) | (refine okOptS_elim ?_ (by assumption)) | (refine okXF_elim ?_ (by assumption)) | (refine okXO_elim ?_ (by assumption)) | split | dsimp only)

theorem execFxCkptLd_ok (a : FReg) (s : State) (hs : MemOk s) : OkO (execFxCkptLd a s) := by
  unfold execFxCkptLd
  with_reducible repeat' (first | assumption | apply ok_of | simp only [ok_mk] | apply State.rawRead_ok | apply fxWord_ok | apply eng_ok | apply fxBad_ok | apply okO_next | apply okO_fault | apply okO_refused | apply okE_done | apply okE_ctl | apply okE_fault | apply okE_stall | apply okE_pause | apply okE_trap | apply okE_async | apply okE_gone | apply okE_late | apply okFx_next | apply okFx_jump | apply okFx_busy | apply okFx_waits | apply okFx_fault | apply okFx_stall | apply foldl_ok | apply foldl_fst_ok | apply ok_ite | intro _ _ _ | intro _ | (refine ok_fst ?_ (by assumption)) | (refine ok_snd ?_ (by assumption)) | (refine okOpt_elim ?_ (by assumption)) | (refine okXS_elim ?_ (by assumption)) | (refine okXS_elimE ?_ (by assumption)) | (refine okXE_elim ?_ (by assumption)) | (refine okXE_elimE ?_ (by assumption)) | (refine okX_elim ?_ (by assumption)) | (refine okO_elim ?_ (by assumption)) | (refine okOptF_elim ?_ (by assumption)) | (refine okOptS_elim ?_ (by assumption)) | (refine okXF_elim ?_ (by assumption)) | (refine okXO_elim ?_ (by assumption)) | split | dsimp only)

theorem State.fxEnd_ok (s : State) (p : Nat) (k : FxStart) (hs : MemOk s) : MemOk (State.fxEnd s p k) := by
  unfold State.fxEnd
  with_reducible repeat' (first | assumption | apply ok_of | simp only [ok_mk] | apply State.setReg_ok | apply State.setRegFld_ok | apply State.originDone_ok | apply State.sendCount_ok | apply State.drainDone_ok | apply State.afterCmd_ok | apply State.claim_ok | apply State.setFx_ok | apply okOpt_some | apply okOpt_none | apply okOpt_mapS | apply okOpt_map | apply okOpt_ite | apply ok_ite | intro _ _ _ | intro _ | (refine ok_fst ?_ (by assumption)) | (refine ok_snd ?_ (by assumption)) | (refine okOpt_elim ?_ (by assumption)) | (refine okXS_elim ?_ (by assumption)) | (refine okXS_elimE ?_ (by assumption)) | (refine okXE_elim ?_ (by assumption)) | (refine okXE_elimE ?_ (by assumption)) | (refine okX_elim ?_ (by assumption)) | (refine okO_elim ?_ (by assumption)) | (refine okOptF_elim ?_ (by assumption)) | (refine okOptS_elim ?_ (by assumption)) | (refine okXF_elim ?_ (by assumption)) | (refine okXO_elim ?_ (by assumption)) | split | dsimp only)

theorem execFxHalt_ok (s : State) (hs : MemOk s) : OkO (execFxHalt s) := by
  unfold execFxHalt
  with_reducible repeat' (first | assumption | apply ok_of | simp only [ok_mk] | apply State.waiting_ok | apply State.passed_ok | apply State.claim_ok | apply State.fxFault_ok | apply State.glRelease_ok | apply State.fxEnd_ok | apply okO_next | apply okO_fault | apply okO_refused | apply okE_done | apply okE_ctl | apply okE_fault | apply okE_stall | apply okE_pause | apply okE_trap | apply okE_async | apply okE_gone | apply okE_late | apply okOpt_some | apply okOpt_none | apply okOpt_mapS | apply okOpt_map | apply okOpt_ite | intro _ _ _ | intro _ | (refine ok_fst ?_ (by assumption)) | (refine ok_snd ?_ (by assumption)) | (refine okOpt_elim ?_ (by assumption)) | (refine okXS_elim ?_ (by assumption)) | (refine okXS_elimE ?_ (by assumption)) | (refine okXE_elim ?_ (by assumption)) | (refine okXE_elimE ?_ (by assumption)) | (refine okX_elim ?_ (by assumption)) | (refine okO_elim ?_ (by assumption)) | (refine okOptF_elim ?_ (by assumption)) | (refine okOptS_elim ?_ (by assumption)) | (refine okXF_elim ?_ (by assumption)) | (refine okXO_elim ?_ (by assumption)) | split | dsimp only)

theorem execFxProgramStart_ok (s : State) (hs : MemOk s) : OkO (execFxProgramStart s) := by
  unfold execFxProgramStart
  with_reducible repeat' (first | assumption | apply ok_of | simp only [ok_mk] | apply State.claim_ok | apply State.setFx_ok | apply okO_next | apply okO_fault | apply okO_refused | apply okE_done | apply okE_ctl | apply okE_fault | apply okE_stall | apply okE_pause | apply okE_trap | apply okE_async | apply okE_gone | apply okE_late | apply okOpt_some | apply okOpt_none | apply okOpt_mapS | apply okOpt_map | apply okOpt_ite | apply ok_ite | intro _ _ _ | intro _ | (refine ok_fst ?_ (by assumption)) | (refine ok_snd ?_ (by assumption)) | (refine okOpt_elim ?_ (by assumption)) | (refine okXS_elim ?_ (by assumption)) | (refine okXS_elimE ?_ (by assumption)) | (refine okXE_elim ?_ (by assumption)) | (refine okXE_elimE ?_ (by assumption)) | (refine okX_elim ?_ (by assumption)) | (refine okO_elim ?_ (by assumption)) | (refine okOptF_elim ?_ (by assumption)) | (refine okOptS_elim ?_ (by assumption)) | (refine okXF_elim ?_ (by assumption)) | (refine okXO_elim ?_ (by assumption)) | split | dsimp only)

theorem execFxAbort_ok (s : State) (hs : MemOk s) : OkO (execFxAbort s) := by
  unfold execFxAbort
  with_reducible repeat' (first | assumption | apply ok_of | simp only [ok_mk] | apply State.fxAbort_ok | apply okO_next | apply okO_fault | apply okO_refused | apply okE_done | apply okE_ctl | apply okE_fault | apply okE_stall | apply okE_pause | apply okE_trap | apply okE_async | apply okE_gone | apply okE_late | intro _ _ _ | intro _ | (refine ok_fst ?_ (by assumption)) | (refine ok_snd ?_ (by assumption)) | (refine okOpt_elim ?_ (by assumption)) | (refine okXS_elim ?_ (by assumption)) | (refine okXS_elimE ?_ (by assumption)) | (refine okXE_elim ?_ (by assumption)) | (refine okXE_elimE ?_ (by assumption)) | (refine okX_elim ?_ (by assumption)) | (refine okO_elim ?_ (by assumption)) | (refine okOptF_elim ?_ (by assumption)) | (refine okOptS_elim ?_ (by assumption)) | (refine okXF_elim ?_ (by assumption)) | (refine okXO_elim ?_ (by assumption)) | split | dsimp only)

theorem execFxEn_ok (s : State) (hs : MemOk s) : OkO (execFxEn s) := by
  unfold execFxEn
  with_reducible repeat' (first | assumption | apply ok_of | simp only [ok_mk] | apply State.setRegFld_ok | apply okO_next | apply okO_fault | apply okO_refused | apply okE_done | apply okE_ctl | apply okE_fault | apply okE_stall | apply okE_pause | apply okE_trap | apply okE_async | apply okE_gone | apply okE_late | intro _ _ _ | intro _ | (refine ok_fst ?_ (by assumption)) | (refine ok_snd ?_ (by assumption)) | (refine okOpt_elim ?_ (by assumption)) | (refine okXS_elim ?_ (by assumption)) | (refine okXS_elimE ?_ (by assumption)) | (refine okXE_elim ?_ (by assumption)) | (refine okXE_elimE ?_ (by assumption)) | (refine okX_elim ?_ (by assumption)) | (refine okO_elim ?_ (by assumption)) | (refine okOptF_elim ?_ (by assumption)) | (refine okOptS_elim ?_ (by assumption)) | (refine okXF_elim ?_ (by assumption)) | (refine okXO_elim ?_ (by assumption)) | split | dsimp only)

theorem fxIssue_ok (s : State) (h : Hdr) (us : List Use) (np : Bool) (ctl : SReg) (a : SReg) (align : Nat) (f : State → Ctx → FxStart → FxStart) (hs : MemOk s) : OkO (fxIssue s h us np ctl a align f) := by
  unfold fxIssue
  with_reducible repeat' (first | assumption | apply ok_of | simp only [ok_mk] | apply onceWord_ok | apply issueEngine_ok | apply State.pushFx_ok | apply okO_next | apply okO_fault | apply okO_refused | apply okE_done | apply okE_ctl | apply okE_fault | apply okE_stall | apply okE_pause | apply okE_trap | apply okE_async | apply okE_gone | apply okE_late | apply okOpt_some | apply okOpt_none | apply okOpt_mapS | apply okOpt_map | apply okOpt_ite | apply ok_ite | intro _ _ _ | intro _ | (refine ok_fst ?_ (by assumption)) | (refine ok_snd ?_ (by assumption)) | (refine okOpt_elim ?_ (by assumption)) | (refine okXS_elim ?_ (by assumption)) | (refine okXS_elimE ?_ (by assumption)) | (refine okXE_elim ?_ (by assumption)) | (refine okXE_elimE ?_ (by assumption)) | (refine okX_elim ?_ (by assumption)) | (refine okO_elim ?_ (by assumption)) | (refine okOptF_elim ?_ (by assumption)) | (refine okOptS_elim ?_ (by assumption)) | (refine okXF_elim ?_ (by assumption)) | (refine okXO_elim ?_ (by assumption)) | split | dsimp only)

theorem execColl_ok (h : Hdr) (np : Bool) (a : SReg) (b : SReg) (ctl : SReg) (s : State) (hs : MemOk s) : OkO (execColl h np a b ctl s) := by
  unfold execColl
  with_reducible repeat' (first | assumption | apply ok_of | simp only [ok_mk] | apply fxIssue_ok | apply okO_next | apply okO_fault | apply okO_refused | apply okE_done | apply okE_ctl | apply okE_fault | apply okE_stall | apply okE_pause | apply okE_trap | apply okE_async | apply okE_gone | apply okE_late | intro _ _ _ | intro _ | (refine ok_fst ?_ (by assumption)) | (refine ok_snd ?_ (by assumption)) | (refine okOpt_elim ?_ (by assumption)) | (refine okXS_elim ?_ (by assumption)) | (refine okXS_elimE ?_ (by assumption)) | (refine okXE_elim ?_ (by assumption)) | (refine okXE_elimE ?_ (by assumption)) | (refine okX_elim ?_ (by assumption)) | (refine okO_elim ?_ (by assumption)) | (refine okOptF_elim ?_ (by assumption)) | (refine okOptS_elim ?_ (by assumption)) | (refine okXF_elim ?_ (by assumption)) | (refine okXO_elim ?_ (by assumption)) | split | dsimp only)

theorem execLayx_ok (h : Hdr) (np : Bool) (a : SReg) (ctl : SReg) (s : State) (hs : MemOk s) : OkO (execLayx h np a ctl s) := by
  unfold execLayx
  with_reducible repeat' (first | assumption | apply ok_of | simp only [ok_mk] | apply fxIssue_ok | apply okO_next | apply okO_fault | apply okO_refused | apply okE_done | apply okE_ctl | apply okE_fault | apply okE_stall | apply okE_pause | apply okE_trap | apply okE_async | apply okE_gone | apply okE_late | apply okOpt_some | apply okOpt_none | apply okOpt_mapS | apply okOpt_map | apply okOpt_ite | intro _ _ _ | intro _ | (refine ok_fst ?_ (by assumption)) | (refine ok_snd ?_ (by assumption)) | (refine okOpt_elim ?_ (by assumption)) | (refine okXS_elim ?_ (by assumption)) | (refine okXS_elimE ?_ (by assumption)) | (refine okXE_elim ?_ (by assumption)) | (refine okXE_elimE ?_ (by assumption)) | (refine okX_elim ?_ (by assumption)) | (refine okO_elim ?_ (by assumption)) | (refine okOptF_elim ?_ (by assumption)) | (refine okOptS_elim ?_ (by assumption)) | (refine okXF_elim ?_ (by assumption)) | (refine okXO_elim ?_ (by assumption)) | split | dsimp only)

theorem slotsRead_ok (s : State) (p : Nat) (slot : Nat) (cl : GClaim) (base : Nat) (x0 : List Nat) (hs : MemOk s) : MemOk (slotsRead s p slot cl base x0).1 := by
  induction x0 generalizing s with
  | nil =>
    unfold slotsRead
    with_reducible repeat' (first | assumption | apply ok_of | simp only [ok_mk] | apply State.rawRead_ok | apply okF_ok | apply okF_error | intro _ _ _ | intro _ | (refine ok_fst ?_ (by assumption)) | (refine ok_snd ?_ (by assumption)) | (refine okOpt_elim ?_ (by assumption)) | (refine okXS_elim ?_ (by assumption)) | (refine okXS_elimE ?_ (by assumption)) | (refine okXE_elim ?_ (by assumption)) | (refine okXE_elimE ?_ (by assumption)) | (refine okX_elim ?_ (by assumption)) | (refine okO_elim ?_ (by assumption)) | (refine okOptF_elim ?_ (by assumption)) | (refine okOptS_elim ?_ (by assumption)) | (refine okXF_elim ?_ (by assumption)) | (refine okXO_elim ?_ (by assumption)) | split | dsimp only)
  | cons y ys ih =>
    unfold slotsRead
    with_reducible repeat' (first | assumption | apply ok_of | simp only [ok_mk] | apply ih | apply State.rawRead_ok | apply okF_ok | apply okF_error | intro _ _ _ | intro _ | (refine ok_fst ?_ (by assumption)) | (refine ok_snd ?_ (by assumption)) | (refine okOpt_elim ?_ (by assumption)) | (refine okXS_elim ?_ (by assumption)) | (refine okXS_elimE ?_ (by assumption)) | (refine okXE_elim ?_ (by assumption)) | (refine okXE_elimE ?_ (by assumption)) | (refine okX_elim ?_ (by assumption)) | (refine okO_elim ?_ (by assumption)) | (refine okOptF_elim ?_ (by assumption)) | (refine okOptS_elim ?_ (by assumption)) | (refine okXF_elim ?_ (by assumption)) | (refine okXO_elim ?_ (by assumption)) | split | dsimp only)

theorem State.residuals_ok (s : State) (p : Nat) (slot : Nat) (cl : GClaim) (rs : List (Nat × W32)) (hs : MemOk s) : MemOk (State.residuals s p slot cl rs).1 := by
  unfold State.residuals
  with_reducible repeat' (first | assumption | apply ok_of | simp only [ok_mk] | apply State.engTargets_ok | apply State.rawPut_ok | apply State.glFlags_ok | apply okF_ok | apply okF_error | apply foldl_ok | apply foldl_fst_ok | apply ok_ite | intro _ _ _ | intro _ | (refine ok_fst ?_ (by assumption)) | (refine ok_snd ?_ (by assumption)) | (refine okOpt_elim ?_ (by assumption)) | (refine okXS_elim ?_ (by assumption)) | (refine okXS_elimE ?_ (by assumption)) | (refine okXE_elim ?_ (by assumption)) | (refine okXE_elimE ?_ (by assumption)) | (refine okX_elim ?_ (by assumption)) | (refine okO_elim ?_ (by assumption)) | (refine okOptF_elim ?_ (by assumption)) | (refine okOptS_elim ?_ (by assumption)) | (refine okXF_elim ?_ (by assumption)) | (refine okXO_elim ?_ (by assumption)) | split | dsimp only)

theorem fxStay_ok (s : State) (x : FxSt) (hs : MemOk s) : OkFx (fxStay s x) := by
  unfold fxStay
  with_reducible repeat' (first | assumption | apply ok_of | simp only [ok_mk] | apply okFx_next | apply okFx_jump | apply okFx_busy | apply okFx_waits | apply okFx_fault | apply okFx_stall | intro _ _ _ | intro _ | (refine ok_fst ?_ (by assumption)) | (refine ok_snd ?_ (by assumption)) | (refine okOpt_elim ?_ (by assumption)) | (refine okXS_elim ?_ (by assumption)) | (refine okXS_elimE ?_ (by assumption)) | (refine okXE_elim ?_ (by assumption)) | (refine okXE_elimE ?_ (by assumption)) | (refine okX_elim ?_ (by assumption)) | (refine okO_elim ?_ (by assumption)) | (refine okOptF_elim ?_ (by assumption)) | (refine okOptS_elim ?_ (by assumption)) | (refine okXF_elim ?_ (by assumption)) | (refine okXO_elim ?_ (by assumption)) | split | dsimp only)

theorem layStart_ok (s : State) (p : Nat) (x : FxSt) (k : FxStart) (va : W64) (hs : MemOk s) : OkFx (layStart s p x k va) := by
  unfold layStart
  with_reducible repeat' (first | assumption | apply ok_of | simp only [ok_mk] | apply State.rawRead_ok | apply State.claim_ok | apply eng_ok | apply fxClaim_ok | apply fxStay_ok | apply okFx_next | apply okFx_jump | apply okFx_busy | apply okFx_waits | apply okFx_fault | apply okFx_stall | apply okOpt_some | apply okOpt_none | apply okOpt_mapS | apply okOpt_map | apply okOpt_ite | apply ok_ite | intro _ _ _ | intro _ | (refine ok_fst ?_ (by assumption)) | (refine ok_snd ?_ (by assumption)) | (refine okOpt_elim ?_ (by assumption)) | (refine okXS_elim ?_ (by assumption)) | (refine okXS_elimE ?_ (by assumption)) | (refine okXE_elim ?_ (by assumption)) | (refine okXE_elimE ?_ (by assumption)) | (refine okX_elim ?_ (by assumption)) | (refine okO_elim ?_ (by assumption)) | (refine okOptF_elim ?_ (by assumption)) | (refine okOptS_elim ?_ (by assumption)) | (refine okXF_elim ?_ (by assumption)) | (refine okXO_elim ?_ (by assumption)) | split | dsimp only)

theorem laySend_ok (s : State) (p : Nat) (x : FxSt) (k : FxStart) (r : LayRun) (g : Ring) (hs : MemOk s) : OkFx (laySend s p x k r g) := by
  unfold laySend
  with_reducible repeat' (first | assumption | apply ok_of | simp only [ok_mk] | apply State.claim_ok | apply eng_ok | apply slotsRead_ok | apply fxStay_ok | apply okO_next | apply okO_fault | apply okO_refused | apply okE_done | apply okE_ctl | apply okE_fault | apply okE_stall | apply okE_pause | apply okE_trap | apply okE_async | apply okE_gone | apply okE_late | apply okFx_next | apply okFx_jump | apply okFx_busy | apply okFx_waits | apply okFx_fault | apply okFx_stall | apply okOpt_some | apply okOpt_none | apply okOpt_mapS | apply okOpt_map | apply okOpt_ite | intro _ _ _ | intro _ | (refine ok_fst ?_ (by assumption)) | (refine ok_snd ?_ (by assumption)) | (refine okOpt_elim ?_ (by assumption)) | (refine okXS_elim ?_ (by assumption)) | (refine okXS_elimE ?_ (by assumption)) | (refine okXE_elim ?_ (by assumption)) | (refine okXE_elimE ?_ (by assumption)) | (refine okX_elim ?_ (by assumption)) | (refine okO_elim ?_ (by assumption)) | (refine okOptF_elim ?_ (by assumption)) | (refine okOptS_elim ?_ (by assumption)) | (refine okXF_elim ?_ (by assumption)) | (refine okXO_elim ?_ (by assumption)) | split | dsimp only)

theorem layCount_ok (s : State) (p : Nat) (x : FxSt) (k : FxStart) (r : LayRun) (hs : MemOk s) : OkFx (layCount s p x k r) := by
  unfold layCount
  with_reducible repeat' (first | assumption | apply ok_of | simp only [ok_mk] | apply State.claim_ok | apply eng_ok | apply engSeq_ok | apply State.glHop_ok | apply State.residuals_ok | apply fxStay_ok | apply okFx_next | apply okFx_jump | apply okFx_busy | apply okFx_waits | apply okFx_fault | apply okFx_stall | apply okOpt_some | apply okOpt_none | apply okOpt_mapS | apply okOpt_map | apply okOpt_ite | intro _ _ _ | intro _ | (refine ok_fst ?_ (by assumption)) | (refine ok_snd ?_ (by assumption)) | (refine okOpt_elim ?_ (by assumption)) | (refine okXS_elim ?_ (by assumption)) | (refine okXS_elimE ?_ (by assumption)) | (refine okXE_elim ?_ (by assumption)) | (refine okXE_elimE ?_ (by assumption)) | (refine okX_elim ?_ (by assumption)) | (refine okO_elim ?_ (by assumption)) | (refine okOptF_elim ?_ (by assumption)) | (refine okOptS_elim ?_ (by assumption)) | (refine okXF_elim ?_ (by assumption)) | (refine okXO_elim ?_ (by assumption)) | split | dsimp only)

theorem layHop_ok (s : State) (x : FxSt) (r : LayRun) (g : Ring) (bs : List Byte) (hs : MemOk s) : OkFx (layHop s x r g bs) := by
  unfold layHop
  with_reducible repeat' (first | assumption | apply ok_of | simp only [ok_mk] | apply fxStay_ok | apply okFx_next | apply okFx_jump | apply okFx_busy | apply okFx_waits | apply okFx_fault | apply okFx_stall | apply okOpt_some | apply okOpt_none | apply okOpt_mapS | apply okOpt_map | apply okOpt_ite | intro _ _ _ | intro _ | (refine ok_fst ?_ (by assumption)) | (refine ok_snd ?_ (by assumption)) | (refine okOpt_elim ?_ (by assumption)) | (refine okXS_elim ?_ (by assumption)) | (refine okXS_elimE ?_ (by assumption)) | (refine okXE_elim ?_ (by assumption)) | (refine okXE_elimE ?_ (by assumption)) | (refine okX_elim ?_ (by assumption)) | (refine okO_elim ?_ (by assumption)) | (refine okOptF_elim ?_ (by assumption)) | (refine okOptS_elim ?_ (by assumption)) | (refine okXF_elim ?_ (by assumption)) | (refine okXO_elim ?_ (by assumption)) | split | dsimp only)

theorem layEnd_ok (s : State) (p : Nat) (x : FxSt) (k : FxStart) (hs : MemOk s) : MemOk (layEnd s p x k) := by
  unfold layEnd
  with_reducible repeat' (first | assumption | apply ok_of | simp only [ok_mk] | apply State.waiting_ok | apply State.passed_ok | apply State.claim_ok | apply State.fxFault_ok | apply State.glRelease_ok | apply State.fxEnd_ok | apply okOpt_some | apply okOpt_none | apply okOpt_mapS | apply okOpt_map | apply okOpt_ite | intro _ _ _ | intro _ | (refine ok_fst ?_ (by assumption)) | (refine ok_snd ?_ (by assumption)) | (refine okOpt_elim ?_ (by assumption)) | (refine okXS_elim ?_ (by assumption)) | (refine okXS_elimE ?_ (by assumption)) | (refine okXE_elim ?_ (by assumption)) | (refine okXE_elimE ?_ (by assumption)) | (refine okX_elim ?_ (by assumption)) | (refine okO_elim ?_ (by assumption)) | (refine okOptF_elim ?_ (by assumption)) | (refine okOptS_elim ?_ (by assumption)) | (refine okXF_elim ?_ (by assumption)) | (refine okXO_elim ?_ (by assumption)) | split | dsimp only)

theorem layMove_ok (s : State) (p : Nat) (x : FxSt) (k : FxStart) (va : W64) (hs : MemOk s) : MemOk (layMove s p x k va) := by
  unfold layMove
  with_reducible repeat' (first | assumption | apply ok_of | simp only [ok_mk] | apply State.rawWrite_ok | apply State.setFx_ok | apply FxEff.run_ok | apply eng_ok | apply State.sendPartials_ok | apply fxStay_ok | apply layStart_ok | apply laySend_ok | apply layCount_ok | apply layHop_ok | apply layEnd_ok | apply okFx_next | apply okFx_jump | apply okFx_busy | apply okFx_waits | apply okFx_fault | apply okFx_stall | apply okOpt_some | apply okOpt_none | apply okOpt_mapS | apply okOpt_map | apply okOpt_ite | apply foldl_ok | apply foldl_fst_ok | apply ok_ite | intro _ _ _ | intro _ | (refine ok_fst ?_ (by assumption)) | (refine ok_snd ?_ (by assumption)) | (refine okOpt_elim ?_ (by assumption)) | (refine okXS_elim ?_ (by assumption)) | (refine okXS_elimE ?_ (by assumption)) | (refine okXE_elim ?_ (by assumption)) | (refine okXE_elimE ?_ (by assumption)) | (refine okX_elim ?_ (by assumption)) | (refine okO_elim ?_ (by assumption)) | (refine okOptF_elim ?_ (by assumption)) | (refine okOptS_elim ?_ (by assumption)) | (refine okXF_elim ?_ (by assumption)) | (refine okXO_elim ?_ (by assumption)) | split | dsimp only)

theorem execFxTransferComplete_ok (s : State) (hs : MemOk s) : OkO (execFxTransferComplete s) := by
  unfold execFxTransferComplete
  with_reducible repeat' (first | assumption | apply ok_of | simp only [ok_mk] | apply State.rawWrite_ok | apply State.setFx_ok | apply FxEff.run_ok | apply eng_ok | apply layCount_ok | apply layMove_ok | apply okO_next | apply okO_fault | apply okO_refused | apply okE_done | apply okE_ctl | apply okE_fault | apply okE_stall | apply okE_pause | apply okE_trap | apply okE_async | apply okE_gone | apply okE_late | apply okFx_next | apply okFx_jump | apply okFx_busy | apply okFx_waits | apply okFx_fault | apply okFx_stall | apply okOpt_some | apply okOpt_none | apply okOpt_mapS | apply okOpt_map | apply okOpt_ite | apply ok_ite | intro _ _ _ | intro _ | (refine ok_fst ?_ (by assumption)) | (refine ok_snd ?_ (by assumption)) | (refine okOpt_elim ?_ (by assumption)) | (refine okXS_elim ?_ (by assumption)) | (refine okXS_elimE ?_ (by assumption)) | (refine okXE_elim ?_ (by assumption)) | (refine okXE_elimE ?_ (by assumption)) | (refine okX_elim ?_ (by assumption)) | (refine okO_elim ?_ (by assumption)) | (refine okOptF_elim ?_ (by assumption)) | (refine okOptS_elim ?_ (by assumption)) | (refine okXF_elim ?_ (by assumption)) | (refine okXO_elim ?_ (by assumption)) | split | dsimp only)

theorem State.acceptChunk_ok (s : State) (q : Nat) (slot : Nat) (dev : Nat) (cid : W32) (step : Nat) (bs : List Byte) (hs : MemOk s) : OkOpt (State.acceptChunk s q slot dev cid step bs) := by
  unfold State.acceptChunk
  with_reducible repeat' (first | assumption | apply ok_of | simp only [ok_mk] | apply State.fxFault_ok | apply State.setFx_ok | apply okOpt_some | apply okOpt_none | apply okOpt_mapS | apply okOpt_map | apply okOpt_ite | apply ok_ite | intro _ _ _ | intro _ | (refine ok_fst ?_ (by assumption)) | (refine ok_snd ?_ (by assumption)) | (refine okOpt_elim ?_ (by assumption)) | (refine okXS_elim ?_ (by assumption)) | (refine okXS_elimE ?_ (by assumption)) | (refine okXE_elim ?_ (by assumption)) | (refine okXE_elimE ?_ (by assumption)) | (refine okX_elim ?_ (by assumption)) | (refine okO_elim ?_ (by assumption)) | (refine okOptF_elim ?_ (by assumption)) | (refine okOptS_elim ?_ (by assumption)) | (refine okXF_elim ?_ (by assumption)) | (refine okXO_elim ?_ (by assumption)) | split | dsimp only)

theorem State.acceptPart_ok (s : State) (q : Nat) (slot : Nat) (dev : Nat) (bs : List Byte) (hs : MemOk s) : OkOpt (State.acceptPart s q slot dev bs) := by
  unfold State.acceptPart
  with_reducible repeat' (first | assumption | apply ok_of | simp only [ok_mk] | apply State.setFx_ok | apply okOpt_some | apply okOpt_none | apply okOpt_mapS | apply okOpt_map | apply okOpt_ite | apply ok_ite | intro _ _ _ | intro _ | (refine ok_fst ?_ (by assumption)) | (refine ok_snd ?_ (by assumption)) | (refine okOpt_elim ?_ (by assumption)) | (refine okXS_elim ?_ (by assumption)) | (refine okXS_elimE ?_ (by assumption)) | (refine okXE_elim ?_ (by assumption)) | (refine okXE_elimE ?_ (by assumption)) | (refine okX_elim ?_ (by assumption)) | (refine okO_elim ?_ (by assumption)) | (refine okOptF_elim ?_ (by assumption)) | (refine okOptS_elim ?_ (by assumption)) | (refine okXF_elim ?_ (by assumption)) | (refine okXO_elim ?_ (by assumption)) | split | dsimp only)

theorem execMessageAccept_ok (s : State) (hs : MemOk s) : OkO (execMessageAccept s) := by
  unfold execMessageAccept
  with_reducible repeat' (first | assumption | apply ok_of | simp only [ok_mk] | apply State.passed_ok | apply State.fxAck_ok | apply State.acceptMsg_ok | apply State.acceptChunk_ok | apply State.acceptPart_ok | apply okO_next | apply okO_fault | apply okO_refused | apply okE_done | apply okE_ctl | apply okE_fault | apply okE_stall | apply okE_pause | apply okE_trap | apply okE_async | apply okE_gone | apply okE_late | apply okOpt_some | apply okOpt_none | apply okOpt_mapS | apply okOpt_map | apply okOpt_ite | apply ok_ite | intro _ _ _ | intro _ | (refine ok_fst ?_ (by assumption)) | (refine ok_snd ?_ (by assumption)) | (refine okOpt_elim ?_ (by assumption)) | (refine okXS_elim ?_ (by assumption)) | (refine okXS_elimE ?_ (by assumption)) | (refine okXE_elim ?_ (by assumption)) | (refine okXE_elimE ?_ (by assumption)) | (refine okX_elim ?_ (by assumption)) | (refine okO_elim ?_ (by assumption)) | (refine okOptF_elim ?_ (by assumption)) | (refine okOptS_elim ?_ (by assumption)) | (refine okXF_elim ?_ (by assumption)) | (refine okXO_elim ?_ (by assumption)) | split | dsimp only)

theorem State.remoteLost_ok (s : State) (id : Nat) (hs : MemOk s) : MemOk (State.remoteLost s id) := by
  unfold State.remoteLost
  with_reducible repeat' (first | assumption | apply ok_of | simp only [ok_mk] | apply State.partFault_ok | apply okOpt_some | apply okOpt_none | apply okOpt_mapS | apply okOpt_map | apply okOpt_ite | apply foldl_ok | apply foldl_fst_ok | intro _ _ _ | intro _ | (refine ok_fst ?_ (by assumption)) | (refine ok_snd ?_ (by assumption)) | (refine okOpt_elim ?_ (by assumption)) | (refine okXS_elim ?_ (by assumption)) | (refine okXS_elimE ?_ (by assumption)) | (refine okXE_elim ?_ (by assumption)) | (refine okXE_elimE ?_ (by assumption)) | (refine okX_elim ?_ (by assumption)) | (refine okO_elim ?_ (by assumption)) | (refine okOptF_elim ?_ (by assumption)) | (refine okOptS_elim ?_ (by assumption)) | (refine okXF_elim ?_ (by assumption)) | (refine okXO_elim ?_ (by assumption)) | split | dsimp only)

theorem execTransportFailure_ok (s : State) (hs : MemOk s) : OkO (execTransportFailure s) := by
  unfold execTransportFailure
  with_reducible repeat' (first | assumption | apply ok_of | simp only [ok_mk] | apply State.passed_ok | apply State.copyFail_ok | apply State.fxFail_ok | apply State.remoteLost_ok | apply okO_next | apply okO_fault | apply okO_refused | apply okE_done | apply okE_ctl | apply okE_fault | apply okE_stall | apply okE_pause | apply okE_trap | apply okE_async | apply okE_gone | apply okE_late | apply okOpt_some | apply okOpt_none | apply okOpt_mapS | apply okOpt_map | apply okOpt_ite | intro _ _ _ | intro _ | (refine ok_fst ?_ (by assumption)) | (refine ok_snd ?_ (by assumption)) | (refine okOpt_elim ?_ (by assumption)) | (refine okXS_elim ?_ (by assumption)) | (refine okXS_elimE ?_ (by assumption)) | (refine okXE_elim ?_ (by assumption)) | (refine okXE_elimE ?_ (by assumption)) | (refine okX_elim ?_ (by assumption)) | (refine okO_elim ?_ (by assumption)) | (refine okOptF_elim ?_ (by assumption)) | (refine okOptS_elim ?_ (by assumption)) | (refine okXF_elim ?_ (by assumption)) | (refine okXO_elim ?_ (by assumption)) | split | dsimp only)

end Sys2Proof.Machine
end

