-- ==== Sys2Proof/Laws/PerInstr.lean ====
section
/-! SUPPORT. One lemma per instruction: its first word carries its header; a row that is a step has no words. -/

namespace Sys2Proof

theorem extract_append_high {m n : Nat} (x : BitVec m) (y : BitVec n) (lo k : Nat) (h : n ≤ lo) :
    (x ++ y).extractLsb' lo k = x.extractLsb' (lo - n) k := by
  apply BitVec.eq_of_getLsbD_eq
  intro i hi
  simp only [BitVec.getLsbD_extractLsb', BitVec.getLsbD_append, show ¬ lo + i < n by omega, if_false,
    show lo + i - n = lo - n + i by omega]
theorem extract_append_low {m n : Nat} (x : BitVec m) (y : BitVec n) (lo k : Nat) (h : lo + k ≤ n) :
    (x ++ y).extractLsb' lo k = y.extractLsb' lo k := by
  apply BitVec.eq_of_getLsbD_eq
  intro i hi
  simp [BitVec.getLsbD_append, hi, show lo + i < n by omega]
theorem extract_whole {n : Nat} (x : BitVec n) : x.extractLsb' 0 n = x := by simp
theorem bit_append_high {m n : Nat} (x : BitVec m) (y : BitVec n) (i : Nat) (h : n ≤ i) :
    (x ++ y).getLsbD i = x.getLsbD (i - n) := by simp [BitVec.getLsbD_append, Nat.not_lt.2 h]
theorem bit_append_low {m n : Nat} (x : BitVec m) (y : BitVec n) (i : Nat) (h : i < n) :
    (x ++ y).getLsbD i = y.getLsbD i := by simp [BitVec.getLsbD_append, h]
theorem bit_ofBool (b : Bool) : (BitVec.ofBool b).getLsbD 0 = b := by cases b <;> rfl

theorem Fields.ofWord_toWord (f : Fields) : Fields.ofWord f.toWord = f := by
  obtain ⟨e, op, d, a, b, c, pg, pn, q, la, x⟩ := f
  simp (disch := omega) only [Fields.ofWord, Fields.toWord, extract_append_high, bit_append_high, Nat.reduceSub,
    extract_append_low, bit_append_low, extract_whole, bit_ofBool]

namespace Laws.HeaderKept

/-- The first word of a list of words carries a header: `E` at bit 63, and the single word's fields where bit 62 is 0. -/
def Carries (h : Hdr) : Words → Prop
  | .igyan w => w.getLsbD 63 = h.e ∧ (w.getLsbD 62 = false → (Fields.ofWord w).hdr = h)
  | .igyan2 w _ => w.getLsbD 63 = h.e ∧ w.getLsbD 62 = false ∧ (Fields.ofWord w).hdr = h
  | _ => False

/-- R28, R36: an Igyan word carries its header; a fabric or sieve word has none; a step has no words. -/
def Statement (i : Instr) : Prop :=
  match i.hdr? with
  | some h => Carries h (encode i)
  | none => encode i = .none ∧ Machine.isStep i = true ∨ (∃ w, encode i = .fabric w) ∨ ∃ w, encode i = .sieve w

theorem carries_fields (f : Fields) : Carries f.hdr (.igyan f.toWord) := by
  refine ⟨?_, fun _ => by rw [Fields.ofWord_toWord]⟩
  simp (disch := omega) only [Fields.toWord, Fields.hdr, bit_append_high, Nat.reduceSub, bit_ofBool]
theorem carries_enc1 (h : Hdr) (op d a b c : BitVec 8) (x : BitVec 13) : Carries h (enc1 h op d a b c x) :=
  carries_fields ⟨h.e, op, d, a, b, c, h.pg, h.pn, h.q, h.la, x⟩

theorem nop (h : Hdr) : Statement (.nop h) := carries_enc1 h _ _ _ _ _ _
theorem mov (h : Hdr) (o : I2) : Statement (.mov h o) := carries_enc1 h _ _ _ _ _ _
theorem movi (h : Hdr) (f : MoviForm) (d : Reg) (imm : W32) : Statement (.movi h f d imm) := carries_enc1 h _ _ _ _ _ _
theorem iadd (h : Hdr) (o : I3) : Statement (.iadd h o) := carries_enc1 h _ _ _ _ _ _
theorem isub (h : Hdr) (o : I3) : Statement (.isub h o) := carries_enc1 h _ _ _ _ _ _
theorem iaddi (h : Hdr) (o : I2) (imm : BitVec 16) : Statement (.iaddi h o imm) := carries_enc1 h _ _ _ _ _ _
theorem imul (h : Hdr) (o : I3) : Statement (.imul h o) := carries_enc1 h _ _ _ _ _ _
theorem imulh (h : Hdr) (o : I3) : Statement (.imulh h o) := carries_enc1 h _ _ _ _ _ _
theorem imad (h : Hdr) (o : I4) : Statement (.imad h o) := carries_enc1 h _ _ _ _ _ _
theorem idiv (h : Hdr) (o : I3) : Statement (.idiv h o) := carries_enc1 h _ _ _ _ _ _
theorem irem (h : Hdr) (o : I3) : Statement (.irem h o) := carries_enc1 h _ _ _ _ _ _
theorem imin (h : Hdr) (o : I3) : Statement (.imin h o) := carries_enc1 h _ _ _ _ _ _
theorem imax (h : Hdr) (o : I3) : Statement (.imax h o) := carries_enc1 h _ _ _ _ _ _
theorem iabs (h : Hdr) (o : I2) : Statement (.iabs h o) := carries_enc1 h _ _ _ _ _ _
theorem ineg (h : Hdr) (o : I2) : Statement (.ineg h o) := carries_enc1 h _ _ _ _ _ _
theorem isadd (h : Hdr) (sub : Bool) (o : I3) : Statement (.isadd h sub o) := carries_enc1 h _ _ _ _ _ _
theorem lop3 (h : Hdr) (lut : BitVec 8) (o : I4) : Statement (.lop3 h lut o) := carries_enc1 h _ _ _ _ _ _
theorem andB (h : Hdr) (o : I3) : Statement (.andB h o) := carries_enc1 h _ _ _ _ _ _
theorem orB (h : Hdr) (o : I3) : Statement (.orB h o) := carries_enc1 h _ _ _ _ _ _
theorem xorB (h : Hdr) (o : I3) : Statement (.xorB h o) := carries_enc1 h _ _ _ _ _ _
theorem shl (h : Hdr) (o : I2) (n : ShAmt) : Statement (.shl h o n) := by cases n <;> exact carries_enc1 h _ _ _ _ _ _
theorem shr (h : Hdr) (o : I2) (n : ShAmt) : Statement (.shr h o n) := by cases n <;> exact carries_enc1 h _ _ _ _ _ _
theorem sar (h : Hdr) (o : I2) (n : ShAmt) : Statement (.sar h o n) := by cases n <;> exact carries_enc1 h _ _ _ _ _ _
theorem rot (h : Hdr) (right : Bool) (o : I2) (n : ShAmt) : Statement (.rot h right o n) := by cases n <;> exact carries_enc1 h _ _ _ _ _ _
theorem bfx (h : Hdr) (o : I3) : Statement (.bfx h o) := carries_enc1 h _ _ _ _ _ _
theorem bfi (h : Hdr) (o : I4) : Statement (.bfi h o) := carries_enc1 h _ _ _ _ _ _
theorem popc (h : Hdr) (o : I2) : Statement (.popc h o) := carries_enc1 h _ _ _ _ _ _
theorem clz (h : Hdr) (o : I2) : Statement (.clz h o) := carries_enc1 h _ _ _ _ _ _
theorem brev (h : Hdr) (o : I2) : Statement (.brev h o) := carries_enc1 h _ _ _ _ _ _
theorem icmp (h : Hdr) (k sb : Bool) (ty : ITy) (cmp : ICmp) (bop : BOp) (pd : PReg) (a b : Reg) (pc : PReg) :
    Statement (.icmp h k sb ty cmp bop pd a b pc) := carries_enc1 h _ _ _ _ _ _
theorem sel (h : Hdr) (sb : Bool) (ty : ITy) (d a b : Reg) (pc : PReg) : Statement (.sel h sb ty d a b pc) := carries_enc1 h _ _ _ _ _ _
theorem lea (h : Hdr) (k sb : Bool) (sx : Bool) (sh : BitVec 3) (d a b : Reg) :
    Statement (.lea h k sb sx sh d a b) := carries_enc1 h _ _ _ _ _ _
theorem fadd (h : Hdr) (o : F3) : Statement (.fadd h o) := carries_enc1 h _ _ _ _ _ _
theorem fsub (h : Hdr) (o : F3) : Statement (.fsub h o) := carries_enc1 h _ _ _ _ _ _
theorem fmul (h : Hdr) (o : F3) : Statement (.fmul h o) := carries_enc1 h _ _ _ _ _ _
theorem ffma (h : Hdr) (o : F4) : Statement (.ffma h o) := carries_enc1 h _ _ _ _ _ _
theorem ffms (h : Hdr) (o : F4) : Statement (.ffms h o) := carries_enc1 h _ _ _ _ _ _
theorem fmin (h : Hdr) (k sb ftz : Bool) (d a b : Reg) : Statement (.fmin h k sb ftz d a b) := carries_enc1 h _ _ _ _ _ _
theorem fmax (h : Hdr) (k sb ftz : Bool) (d a b : Reg) : Statement (.fmax h k sb ftz d a b) := carries_enc1 h _ _ _ _ _ _
theorem fabs (h : Hdr) (k : Bool) (d a : Reg) : Statement (.fabs h k d a) := carries_enc1 h _ _ _ _ _ _
theorem fneg (h : Hdr) (k : Bool) (d a : Reg) : Statement (.fneg h k d a) := carries_enc1 h _ _ _ _ _ _
theorem fcmp (h : Hdr) (k sb ftz : Bool) (cmp : FCmp) (bop : BOp) (pd : PReg) (a b : Reg) (pc : PReg) :
    Statement (.fcmp h k sb ftz cmp bop pd a b pc) := carries_enc1 h _ _ _ _ _ _
theorem fclass (h : Hdr) (k : Bool) (d a : Reg) : Statement (.fclass h k d a) := carries_enc1 h _ _ _ _ _ _
theorem frnd (h : Hdr) (o : F2) : Statement (.frnd h o) := carries_enc1 h _ _ _ _ _ _
theorem fscale (h : Hdr) (o : F3) : Statement (.fscale h o) := carries_enc1 h _ _ _ _ _ _
theorem fdiv (h : Hdr) (o : F3) : Statement (.fdiv h o) := carries_enc1 h _ _ _ _ _ _
theorem fsqrt (h : Hdr) (o : F2) : Statement (.fsqrt h o) := carries_enc1 h _ _ _ _ _ _
theorem fsign (h : Hdr) (k sb : Bool) (op : SOp) (d a b : Reg) : Statement (.fsign h k sb op d a b) := carries_enc1 h _ _ _ _ _ _
theorem badd2 (h : Hdr) (o : F3) : Statement (.badd2 h o) := carries_enc1 h _ _ _ _ _ _
theorem bmul2 (h : Hdr) (o : F3) : Statement (.bmul2 h o) := carries_enc1 h _ _ _ _ _ _
theorem bfma2 (h : Hdr) (o : F4) : Statement (.bfma2 h o) := carries_enc1 h _ _ _ _ _ _
theorem bmin2 (h : Hdr) (o : F3) : Statement (.bmin2 h o) := carries_enc1 h _ _ _ _ _ _
theorem bmax2 (h : Hdr) (o : F3) : Statement (.bmax2 h o) := carries_enc1 h _ _ _ _ _ _
theorem hadd2 (h : Hdr) (o : F3) : Statement (.hadd2 h o) := carries_enc1 h _ _ _ _ _ _
theorem hmul2 (h : Hdr) (o : F3) : Statement (.hmul2 h o) := carries_enc1 h _ _ _ _ _ _
theorem hfma2 (h : Hdr) (o : F4) : Statement (.hfma2 h o) := carries_enc1 h _ _ _ _ _ _
theorem xpr (h : Hdr) (o : F4) (bodyE : Bool) (toks : BitVec 60) : Statement (.xpr h o bodyE toks) := by
  refine ⟨?_, ?_, ?_⟩
  · exact (carries_enc1 h _ _ _ _ _ _).1
  · simp (disch := omega) only [Fields.toWord, bit_append_high, Nat.reduceSub, bit_append_low]; rfl
  · exact congrArg Fields.hdr (Fields.ofWord_toWord _)
theorem lscale (h : Hdr) (dv bf2 : Bool) (o : F2) : Statement (.lscale h dv bf2 o) := carries_enc1 h _ _ _ _ _ _
theorem ovf (h : Hdr) (op : OvfOp) (bf2 : Bool) (d a : Reg) : Statement (.ovf h op bf2 d a) := carries_enc1 h _ _ _ _ _ _
theorem cvt (h : Hdr) (df sf : BitVec 4) (o : Cv) : Statement (.cvt h df sf o) := carries_enc1 h _ _ _ _ _ _
theorem cvti (h : Hdr) (it : BitVec 3) (sf : BitVec 4) (o : Cv) : Statement (.cvti h it sf o) := carries_enc1 h _ _ _ _ _ _
theorem cvtf (h : Hdr) (df : BitVec 4) (it : BitVec 3) (o : Cv) : Statement (.cvtf h df it o) := carries_enc1 h _ _ _ _ _ _
theorem srnd (h : Hdr) (n : BitVec 5) (o : Cv) : Statement (.srnd h n o) := carries_enc1 h _ _ _ _ _ _
theorem qblk (h : Hdr) (df : BitVec 4) (bl32 : Bool) (rm : RM) (d a r : Reg) :
    Statement (.qblk h df bl32 rm d a r) := carries_enc1 h _ _ _ _ _ _
theorem dqblk (h : Hdr) (sf : BitVec 4) (sb : Bool) (rm : RM) (d a b : Reg) :
    Statement (.dqblk h sf sb rm d a b) := carries_enc1 h _ _ _ _ _ _
theorem pack (h : Hdr) (df : BitVec 4) (pos : BitVec 3) (sb : Bool) (rm : RM) (d a b r : Reg) :
    Statement (.pack h df pos sb rm d a b r) := carries_enc1 h _ _ _ _ _ _
theorem unpack (h : Hdr) (sf : BitVec 4) (pos : BitVec 3) (d a : Reg) : Statement (.unpack h sf pos d a) := carries_enc1 h _ _ _ _ _ _
theorem rcp (h : Hdr) (ftz : Bool) (d a : Reg) : Statement (.rcp h ftz d a) := carries_enc1 h _ _ _ _ _ _
theorem rsq (h : Hdr) (ftz : Bool) (d a : Reg) : Statement (.rsq h ftz d a) := carries_enc1 h _ _ _ _ _ _
theorem ex2 (h : Hdr) (ftz : Bool) (d a : Reg) : Statement (.ex2 h ftz d a) := carries_enc1 h _ _ _ _ _ _
theorem lg2 (h : Hdr) (ftz : Bool) (d a : Reg) : Statement (.lg2 h ftz d a) := carries_enc1 h _ _ _ _ _ _
theorem sin (h : Hdr) (ftz : Bool) (d a : Reg) : Statement (.sin h ftz d a) := carries_enc1 h _ _ _ _ _ _
theorem cos (h : Hdr) (ftz : Bool) (d a : Reg) : Statement (.cos h ftz d a) := carries_enc1 h _ _ _ _ _ _
theorem tanh (h : Hdr) (ftz : Bool) (d a : Reg) : Statement (.tanh h ftz d a) := carries_enc1 h _ _ _ _ _ _
theorem erf (h : Hdr) (ftz : Bool) (d a : Reg) : Statement (.erf h ftz d a) := carries_enc1 h _ _ _ _ _ _
theorem rng (h : Hdr) (k w64 : Bool) (d a : Reg) (b : SReg) : Statement (.rng h k w64 d a b) := carries_enc1 h _ _ _ _ _ _
theorem drop (h : Hdr) (sb : Bool) (d a b : Reg) (c : SReg) : Statement (.drop h sb d a b c) := carries_enc1 h _ _ _ _ _ _
theorem tqnt (h : Hdr) (sign : Bool) (n : BlkLen) (d a : Reg) : Statement (.tqnt h sign n d a) := carries_enc1 h _ _ _ _ _ _
theorem tdq (h : Hdr) (sign : Bool) (pos : BitVec 3) (sb : Bool) (d a b : Reg) :
    Statement (.tdq h sign pos sb d a b) := carries_enc1 h _ _ _ _ _ _
theorem shfl (h : Hdr) (mode : ShflMode) (w64 : Bool) (sg : BitVec 3) (sb : Bool) (d a b : Reg) :
    Statement (.shfl h mode w64 sg sb d a b) := carries_enc1 h _ _ _ _ _ _
theorem bcast (h : Hdr) (w64 : Bool) (sg : BitVec 3) (n : BitVec 6) (d a : Reg) :
    Statement (.bcast h w64 sg n d a) := carries_enc1 h _ _ _ _ _ _
theorem vote (h : Hdr) (neg : Bool) (pa : PReg) (t : VoteTgt) : Statement (.vote h neg pa t) := by cases t <;> exact carries_enc1 h _ _ _ _ _ _
theorem mtch (h : Hdr) (w64 : Bool) (sg : BitVec 3) (d a : Reg) : Statement (.mtch h w64 sg d a) := carries_enc1 h _ _ _ _ _ _
theorem redux (h : Hdr) (op : RedOp) (ls : LaneSet) (d a : Reg) : Statement (.redux h op ls d a) := carries_enc1 h _ _ _ _ _ _
theorem fredux (h : Hdr) (op : FRedOp) (rm : RM) (ftz : Bool) (ls : LaneSet) (d a : Reg) :
    Statement (.fredux h op rm ftz ls d a) := carries_enc1 h _ _ _ _ _ _
theorem scan (h : Hdr) (op : RedOp) (excl : Bool) (ls : LaneSet) (d a : Reg) :
    Statement (.scan h op excl ls d a) := carries_enc1 h _ _ _ _ _ _
theorem fscan (h : Hdr) (op : FRedOp) (rm : RM) (ftz excl : Bool) (ls : LaneSet) (d a : Reg) :
    Statement (.fscan h op rm ftz excl ls d a) := carries_enc1 h _ _ _ _ _ _
theorem rdlane (h : Hdr) (w64 : Bool) (d : SReg) (a : Reg) (b : SReg) : Statement (.rdlane h w64 d a b) := carries_enc1 h _ _ _ _ _ _
theorem wrlane (h : Hdr) (w64 : Bool) (d : Reg) (a b : SReg) : Statement (.wrlane h w64 d a b) := carries_enc1 h _ _ _ _ _ _
theorem plop (h : Hdr) (lut : BitVec 8) (pd pa pb pc : PReg) : Statement (.plop h lut pd pa pb pc) := carries_enc1 h _ _ _ _ _ _
theorem pmovTov (h : Hdr) (d : Reg) (mask : BitVec 7) : Statement (.pmovTov h d mask) := carries_enc1 h _ _ _ _ _ _
theorem pmovTop (h : Hdr) (a : Reg) (mask : BitVec 7) : Statement (.pmovTop h a mask) := carries_enc1 h _ _ _ _ _ _
theorem elect (h : Hdr) (pd : PReg) (ls : LaneSet) : Statement (.elect h pd ls) := carries_enc1 h _ _ _ _ _ _
theorem ldg (h : Hdr) (o : MemOp) : Statement (.ldg h o) := carries_enc1 h _ _ _ _ _ _
theorem stg (h : Hdr) (o : MemOp) : Statement (.stg h o) := carries_enc1 h _ _ _ _ _ _
theorem lds (h : Hdr) (o : ScrOp) : Statement (.lds h o) := carries_enc1 h _ _ _ _ _ _
theorem sts (h : Hdr) (o : ScrOp) : Statement (.sts h o) := carries_enc1 h _ _ _ _ _ _
theorem ldc (h : Hdr) (s : Bool) (ty : LdcTy) (d : Reg) (a : SReg) (off : BitVec 12) :
    Statement (.ldc h s ty d a off) := carries_enc1 h _ _ _ _ _ _
theorem ldl (h : Hdr) (ty : MTy) (hnt : Hint) (d : Reg) (a : SReg) (b : Reg) (off : BitVec 12) :
    Statement (.ldl h ty hnt d a b off) := carries_enc1 h _ _ _ _ _ _
theorem stl (h : Hdr) (ty : MTy) (hnt : Hint) (d : Reg) (a : SReg) (b : Reg) (off : BitVec 12) :
    Statement (.stl h ty hnt d a b off) := carries_enc1 h _ _ _ _ _ _
theorem ldp (h : Hdr) (w64 : Bool) (sc : Scope) (acq : Bool) (hnt : Hint) (d : Reg) (a : SReg) (b c : Reg) :
    Statement (.ldp h w64 sc acq hnt d a b c) := carries_enc1 h _ _ _ _ _ _
theorem ldv (h : Hdr) (o : MemOp) : Statement (.ldv h o) := carries_enc1 h _ _ _ _ _ _
theorem stws (h : Hdr) (ty : MTy) (sc : Scope) (sop : StwsOp) (d : Reg) (a : SReg) (b : Reg) (c : SReg) :
    Statement (.stws h ty sc sop d a b c) := carries_enc1 h _ _ _ _ _ _
theorem prf (h : Hdr) (lvl : BitVec 2) (a : SReg) (b : Reg) (off : BitVec 12) :
    Statement (.prf h lvl a b off) := carries_enc1 h _ _ _ _ _ _
theorem cctl (h : Hdr) (op : CctlOp) (a b : SReg) : Statement (.cctl h op a b) := carries_enc1 h _ _ _ _ _ _
theorem fence (h : Hdr) (ord : Ord4) (sc : Scope) : Statement (.fence h ord sc) := carries_enc1 h _ _ _ _ _ _
theorem ldm (h : Hdr) (n : BitVec 3) (sc : Scope) (ord : Ord4) (d a : SReg) (off : BitVec 12) :
    Statement (.ldm h n sc ord d a off) := carries_enc1 h _ _ _ _ _ _
theorem stm (h : Hdr) (n : BitVec 3) (sc : Scope) (ord : Ord4) (d a : SReg) (off : BitVec 12) :
    Statement (.stm h n sc ord d a off) := carries_enc1 h _ _ _ _ _ _
theorem waitv (h : Hdr) (cmp : WCmp) (w32 : Bool) (sc : Scope) (d a b : SReg) :
    Statement (.waitv h cmp w32 sc d a b) := carries_enc1 h _ _ _ _ _ _
theorem atom (h : Hdr) (op : AOp) (o : Atm) : Statement (.atom h op o) := carries_enc1 h _ _ _ _ _ _
theorem atomf (h : Hdr) (fmt : AFmt) (op : FRedOp) (sc : Scope) (ord : Ord4) (d : Reg) (a : SReg) (b c : Reg) :
    Statement (.atomf h fmt op sc ord d a b c) := carries_enc1 h _ _ _ _ _ _
theorem cas (h : Hdr) (o : Atm) : Statement (.cas h o) := carries_enc1 h _ _ _ _ _ _
theorem red (h : Hdr) (op : AOp) (w64 : Bool) (sc : Scope) (ord : Ord4) (a : SReg) (b c : Reg) :
    Statement (.red h op w64 sc ord a b c) := carries_enc1 h _ _ _ _ _ _
theorem redf (h : Hdr) (fmt : AFmt) (op : FRedOp) (sc : Scope) (ord : Ord4) (a : SReg) (b c : Reg) :
    Statement (.redf h fmt op sc ord a b c) := carries_enc1 h _ _ _ _ _ _
theorem atoms (h : Hdr) (op : ASOp) (w64 swz : Bool) (ord : Ord4) (d : Reg) (a : SReg) (b c : Reg) :
    Statement (.atoms h op w64 swz ord d a b c) := carries_enc1 h _ _ _ _ _ _
theorem cass (h : Hdr) (w64 swz : Bool) (ord : Ord4) (d : Reg) (a : SReg) (b c : Reg) :
    Statement (.cass h w64 swz ord d a b c) := carries_enc1 h _ _ _ _ _ _
theorem cpy (h : Hdr) (dir : CpyDir) (np : Bool) (dst src : SReg) (shape : BitVec 3) (ctl : SReg) :
    Statement (.cpy h dir np dst src shape ctl) := carries_enc1 h _ _ _ _ _ _
theorem offl (h : Hdr) (np : Bool) (loc rem len ctl : SReg) : Statement (.offl h np loc rem len ctl) := carries_enc1 h _ _ _ _ _ _
theorem rtrn (h : Hdr) (np : Bool) (loc rem len ctl : SReg) : Statement (.rtrn h np loc rem len ctl) := carries_enc1 h _ _ _ _ _ _
theorem putr (h : Hdr) (m : RMods) (r l len ctl : SReg) : Statement (.putr h m r l len ctl) := carries_enc1 h _ _ _ _ _ _
theorem getr (h : Hdr) (m : RMods) (r l len ctl : SReg) : Statement (.getr h m r l len ctl) := carries_enc1 h _ _ _ _ _ _
theorem puts (h : Hdr) (sop : StwsOp) (m : RMods) (r l len ctl : SReg) :
    Statement (.puts h sop m r l len ctl) := carries_enc1 h _ _ _ _ _ _
theorem append (h : Hdr) (d : Reg) (a : SReg) (b : Reg) : Statement (.append h d a b) := carries_enc1 h _ _ _ _ _ _
theorem ratom (h : Hdr) (op : RAOp) (w64 : Bool) (ord : Ord4) (d : Reg) (a : SReg) (b c : Reg) :
    Statement (.ratom h op w64 ord d a b c) := carries_enc1 h _ _ _ _ _ _
theorem coll (h : Hdr) (np : Bool) (prog arg ctl : SReg) : Statement (.coll h np prog arg ctl) := carries_enc1 h _ _ _ _ _ _
theorem layx (h : Hdr) (np : Bool) (desc ctl : SReg) : Statement (.layx h np desc ctl) := carries_enc1 h _ _ _ _ _ _
theorem gang (h : Hdr) (imm : W32) : Statement (.gang h imm) := carries_enc1 h _ _ _ _ _ _
theorem gangClr (h : Hdr) : Statement (.gangClr h) := carries_enc1 h _ _ _ _ _ _
theorem mma (h : Hdr) (za : Bool) (tile : BitVec 4) (rec : BitVec 3) (bb shape sf : SReg) :
    Statement (.mma h za tile rec bb shape sf) := carries_enc1 h _ _ _ _ _ _
theorem mfence (h : Hdr) (d : SReg) : Statement (.mfence h d) := carries_enc1 h _ _ _ _ _ _
theorem mwait (h : Hdr) (n : BitVec 4) : Statement (.mwait h n) := carries_enc1 h _ _ _ _ _ _
theorem mwaitAll (h : Hdr) : Statement (.mwaitAll h) := carries_enc1 h _ _ _ _ _ _
theorem accz (h : Hdr) (tile : BitVec 4) : Statement (.accz h tile) := carries_enc1 h _ _ _ _ _ _
theorem accrd (h : Hdr) (nr : BitVec 3) (d : Reg) (tile : BitVec 4) (b : SReg) :
    Statement (.accrd h nr d tile b) := carries_enc1 h _ _ _ _ _ _
theorem accwr (h : Hdr) (nr : BitVec 3) (tile : BitVec 4) (a : Reg) (b : SReg) :
    Statement (.accwr h nr tile a b) := carries_enc1 h _ _ _ _ _ _
theorem accq (h : Hdr) (df : BitVec 4) (bl16 : Bool) (rm : RM) (g : Bool) (tile : BitVec 4) (a b c : SReg) :
    Statement (.accq h df bl16 rm g tile a b c) := carries_enc1 h _ _ _ _ _ _
theorem shape (h : Hdr) (d : BitVec 3) (a b : SReg) : Statement (.shape h d a b) := carries_enc1 h _ _ _ _ _ _
theorem phjoin (h : Hdr) (mode : PhMode) (d a : SReg) : Statement (.phjoin h mode d a) := carries_enc1 h _ _ _ _ _ _
theorem phdrop (h : Hdr) (a : SReg) : Statement (.phdrop h a) := carries_enc1 h _ _ _ _ _ _
theorem pharr (h : Hdr) (sc : Scope) (d a b : SReg) : Statement (.pharr h sc d a b) := carries_enc1 h _ _ _ _ _ _
theorem phwait (h : Hdr) (sc : Scope) (d a b : SReg) : Statement (.phwait h sc d a b) := carries_enc1 h _ _ _ _ _ _
theorem phexp (h : Hdr) (a b : SReg) : Statement (.phexp h a b) := carries_enc1 h _ _ _ _ _ _
theorem drain (h : Hdr) (mask : BitVec 3) : Statement (.drain h mask) := carries_enc1 h _ _ _ _ _ _
theorem bar (h : Hdr) (id : BitVec 3) (c : SReg) : Statement (.bar h id c) := carries_enc1 h _ _ _ _ _ _
theorem quies (h : Hdr) : Statement (.quies h) := carries_enc1 h _ _ _ _ _ _
theorem grace (h : Hdr) : Statement (.grace h) := carries_enc1 h _ _ _ _ _ _
theorem fallow (h : Hdr) (a b c : SReg) : Statement (.fallow h a b c) := carries_enc1 h _ _ _ _ _ _
theorem tokb (h : Hdr) (d a b c : SReg) : Statement (.tokb h d a b c) := carries_enc1 h _ _ _ _ _ _
theorem vpub (h : Hdr) (hold : Bool) (a b : SReg) : Statement (.vpub h hold a b) := carries_enc1 h _ _ _ _ _ _
theorem vreq (h : Hdr) (own : Bool) (d a : SReg) : Statement (.vreq h own d a) := carries_enc1 h _ _ _ _ _ _
theorem trpop (h : Hdr) (d : SReg) (t : BitVec 8) : Statement (.trpop h d t) := carries_enc1 h _ _ _ _ _ _
theorem trpsh (h : Hdr) (a : SReg) (t : BitVec 8) : Statement (.trpsh h a t) := carries_enc1 h _ _ _ _ _ _
theorem prog (h : Hdr) (k : BitVec 3) : Statement (.prog h k) := carries_enc1 h _ _ _ _ _ _
theorem bra (h : Hdr) (off : BitVec 24) : Statement (.bra h off) := carries_enc1 h _ _ _ _ _ _
theorem brad (h : Hdr) (off : BitVec 24) (rej : BitVec 21) : Statement (.brad h off rej) := carries_enc1 h _ _ _ _ _ _
theorem join (h : Hdr) : Statement (.join h) := carries_enc1 h _ _ _ _ _ _
theorem brk (h : Hdr) (n : BitVec 5) : Statement (.brk h n) := carries_enc1 h _ _ _ _ _ _
theorem brx (h : Hdr) (a : SReg) (b : Reg) : Statement (.brx h a b) := carries_enc1 h _ _ _ _ _ _
theorem call (h : Hdr) (off : BitVec 24) (d : SReg) : Statement (.call h off d) := carries_enc1 h _ _ _ _ _ _
theorem callR (h : Hdr) (a d : SReg) : Statement (.callR h a d) := carries_enc1 h _ _ _ _ _ _
theorem ret (h : Hdr) (a : SReg) : Statement (.ret h a) := carries_enc1 h _ _ _ _ _ _
theorem yield (h : Hdr) : Statement (.yield h) := carries_enc1 h _ _ _ _ _ _
theorem sleep (h : Hdr) (a : SReg) : Statement (.sleep h a) := carries_enc1 h _ _ _ _ _ _
theorem wake (h : Hdr) (a : SReg) : Statement (.wake h a) := carries_enc1 h _ _ _ _ _ _
theorem wakeAll (h : Hdr) : Statement (.wakeAll h) := carries_enc1 h _ _ _ _ _ _
theorem exit (h : Hdr) : Statement (.exit h) := carries_enc1 h _ _ _ _ _ _
theorem trap (h : Hdr) (n : BitVec 12) : Statement (.trap h n) := carries_enc1 h _ _ _ _ _ _
theorem rte (h : Hdr) : Statement (.rte h) := carries_enc1 h _ _ _ _ _ _
theorem bkpt (h : Hdr) (n : BitVec 12) : Statement (.bkpt h n) := carries_enc1 h _ _ _ _ _ _
theorem csrr (h : Hdr) (s : Bool) (d : Reg) (csr : BitVec 12) : Statement (.csrr h s d csr) := carries_enc1 h _ _ _ _ _ _
theorem csrw (h : Hdr) (s : Bool) (a : Reg) (csr : BitVec 12) : Statement (.csrw h s a csr) := carries_enc1 h _ _ _ _ _ _
theorem pairWord (e : Bool) (pg : PReg) (pn : Bool) (h0 h1 : Half) : Statement (.pairWord e pg pn h0 h1) := by
  refine ⟨?_, ?_⟩
  · simp (disch := omega) only [b1, bit_append_high, Nat.reduceSub, bit_ofBool]
  · simp (disch := omega) only [bit_append_high, Nat.reduceSub, bit_append_low]; simp
theorem fxNop : Statement (.fxNop) := Or.inr (Or.inl ⟨_, rfl⟩)
theorem fxLdi (a : FReg) (imm : BitVec 44) : Statement (.fxLdi a imm) := Or.inr (Or.inl ⟨_, rfl⟩)
theorem fxLdiHi (a : FReg) (imm : BitVec 20) : Statement (.fxLdiHi a imm) := Or.inr (Or.inl ⟨_, rfl⟩)
theorem fxAdd (a b : FReg) (c : FOp2) : Statement (.fxAdd a b c) := Or.inr (Or.inl ⟨_, rfl⟩)
theorem fxSub (a b : FReg) (c : FOp2) : Statement (.fxSub a b c) := Or.inr (Or.inl ⟨_, rfl⟩)
theorem fxAnd (a b : FReg) (c : FOp2) : Statement (.fxAnd a b c) := Or.inr (Or.inl ⟨_, rfl⟩)
theorem fxShl (a b : FReg) (c : FOp2) : Statement (.fxShl a b c) := Or.inr (Or.inl ⟨_, rfl⟩)
theorem fxCmpb (c : FCond) (a b : FReg) (off : BitVec 44) : Statement (.fxCmpb c a b off) := Or.inr (Or.inl ⟨_, rfl⟩)
theorem fxJmp (off : BitVec 44) : Statement (.fxJmp off) := Or.inr (Or.inl ⟨_, rfl⟩)
theorem fxLoop (a : FReg) (off : BitVec 44) : Statement (.fxLoop a off) := Or.inr (Or.inl ⟨_, rfl⟩)
theorem fxWaitm (c : WCmp) (a b d : FReg) : Statement (.fxWaitm c a b d) := Or.inr (Or.inl ⟨_, rfl⟩)
theorem fxSigm (set : Bool) (a b : FReg) : Statement (.fxSigm set a b) := Or.inr (Or.inl ⟨_, rfl⟩)
theorem fxLoadc (a b c : FReg) : Statement (.fxLoadc a b c) := Or.inr (Or.inl ⟨_, rfl⟩)
theorem fxStorec (a b c : FReg) : Statement (.fxStorec a b c) := Or.inr (Or.inl ⟨_, rfl⟩)
theorem fxSend (a b c : FReg) : Statement (.fxSend a b c) := Or.inr (Or.inl ⟨_, rfl⟩)
theorem fxRecv (a b c : FReg) : Statement (.fxRecv a b c) := Or.inr (Or.inl ⟨_, rfl⟩)
theorem fxDec (sign : Bool) (n : BlkLen) (a b c : FReg) : Statement (.fxDec sign n a b c) := Or.inr (Or.inl ⟨_, rfl⟩)
theorem fxEnc (sign : Bool) (n : BlkLen) (a b c : FReg) : Statement (.fxEnc sign n a b c) := Or.inr (Or.inl ⟨_, rfl⟩)
theorem fxAddb (bf : Bool) (a b c : FReg) : Statement (.fxAddb bf a b c) := Or.inr (Or.inl ⟨_, rfl⟩)
theorem fxSqacc (bf : Bool) (a c : FReg) : Statement (.fxSqacc bf a c) := Or.inr (Or.inl ⟨_, rfl⟩)
theorem fxNormx (a b c : FReg) : Statement (.fxNormx a b c) := Or.inr (Or.inl ⟨_, rfl⟩)
theorem fxGlnClm (a b c : FReg) : Statement (.fxGlnClm a b c) := Or.inr (Or.inl ⟨_, rfl⟩)
theorem fxGlnAdd (a b c : FReg) : Statement (.fxGlnAdd a b c) := Or.inr (Or.inl ⟨_, rfl⟩)
theorem fxGlnSt (a b c : FReg) : Statement (.fxGlnSt a b c) := Or.inr (Or.inl ⟨_, rfl⟩)
theorem fxGlnHop : Statement (.fxGlnHop) := Or.inr (Or.inl ⟨_, rfl⟩)
theorem fxGlnRel : Statement (.fxGlnRel) := Or.inr (Or.inl ⟨_, rfl⟩)
theorem fxGlnRsm (a b c : FReg) : Statement (.fxGlnRsm a b c) := Or.inr (Or.inl ⟨_, rfl⟩)
theorem fxCkptSv (a : FReg) (mask : BitVec 8) : Statement (.fxCkptSv a mask) := Or.inr (Or.inl ⟨_, rfl⟩)
theorem fxCkptLd (a : FReg) : Statement (.fxCkptLd a) := Or.inr (Or.inl ⟨_, rfl⟩)
theorem fxTrig (a b c : FReg) : Statement (.fxTrig a b c) := Or.inr (Or.inl ⟨_, rfl⟩)
theorem fxHalt : Statement (.fxHalt) := Or.inr (Or.inl ⟨_, rfl⟩)
theorem sieveLdf (d a : BitVec 3) (i : BitVec 20) : Statement (.sieveLdf d a i) := Or.inr (Or.inr ⟨_, rfl⟩)
theorem sieveLdi (d : BitVec 3) (i : BitVec 20) : Statement (.sieveLdi d i) := Or.inr (Or.inr ⟨_, rfl⟩)
theorem sieveAdd (d a : BitVec 3) (i : BitVec 20) : Statement (.sieveAdd d a i) := Or.inr (Or.inr ⟨_, rfl⟩)
theorem sieveSub (d a : BitVec 3) (i : BitVec 20) : Statement (.sieveSub d a i) := Or.inr (Or.inr ⟨_, rfl⟩)
theorem sieveAnd (d a : BitVec 3) (i : BitVec 20) : Statement (.sieveAnd d a i) := Or.inr (Or.inr ⟨_, rfl⟩)
theorem sieveOr (d a : BitVec 3) (i : BitVec 20) : Statement (.sieveOr d a i) := Or.inr (Or.inr ⟨_, rfl⟩)
theorem sieveXor (d a : BitVec 3) (i : BitVec 20) : Statement (.sieveXor d a i) := Or.inr (Or.inr ⟨_, rfl⟩)
theorem sieveShr (d a : BitVec 3) (i : BitVec 20) : Statement (.sieveShr d a i) := Or.inr (Or.inr ⟨_, rfl⟩)
theorem sieveShl (d a : BitVec 3) (i : BitVec 20) : Statement (.sieveShl d a i) := Or.inr (Or.inr ⟨_, rfl⟩)
theorem sieveJeq (d a : BitVec 3) (i : BitVec 20) : Statement (.sieveJeq d a i) := Or.inr (Or.inr ⟨_, rfl⟩)
theorem sieveJne (d a : BitVec 3) (i : BitVec 20) : Statement (.sieveJne d a i) := Or.inr (Or.inr ⟨_, rfl⟩)
theorem sieveJlt (d a : BitVec 3) (i : BitVec 20) : Statement (.sieveJlt d a i) := Or.inr (Or.inr ⟨_, rfl⟩)
theorem sieveKeep : Statement (.sieveKeep) := Or.inr (Or.inr ⟨_, rfl⟩)
theorem sieveDrop : Statement (.sieveDrop) := Or.inr (Or.inr ⟨_, rfl⟩)
theorem sieveCnt (d a : BitVec 3) (i : BitVec 20) : Statement (.sieveCnt d a i) := Or.inr (Or.inr ⟨_, rfl⟩)
theorem sieveTrig (d : BitVec 2) : Statement (.sieveTrig d) := Or.inr (Or.inr ⟨_, rfl⟩)
theorem sieveHist (d : BitVec 2) (a : BitVec 3) (i : BitVec 20) : Statement (.sieveHist d a i) := Or.inr (Or.inr ⟨_, rfl⟩)
theorem runArbitration : Statement (.runArbitration) := Or.inl ⟨rfl, rfl⟩
theorem forcedRunEnd : Statement (.forcedRunEnd) := Or.inl ⟨rfl, rfl⟩
theorem longLatencyResult : Statement (.longLatencyResult) := Or.inl ⟨rfl, rfl⟩
theorem storePerform : Statement (.storePerform) := Or.inl ⟨rfl, rfl⟩
theorem bankQueueServe : Statement (.bankQueueServe) := Or.inl ⟨rfl, rfl⟩
theorem sleepTimeout : Statement (.sleepTimeout) := Or.inl ⟨rfl, rfl⟩
theorem waitvReread : Statement (.waitvReread) := Or.inl ⟨rfl, rfl⟩
theorem pageWalkComplete : Statement (.pageWalkComplete) := Or.inl ⟨rfl, rfl⟩
theorem invalidateRange : Statement (.invalidateRange) := Or.inl ⟨rfl, rfl⟩
theorem invalidateAsid : Statement (.invalidateAsid) := Or.inl ⟨rfl, rfl⟩
theorem invalidateAll : Statement (.invalidateAll) := Or.inl ⟨rfl, rfl⟩
theorem invalidationDone : Statement (.invalidationDone) := Or.inl ⟨rfl, rfl⟩
theorem contextSlotWrite : Statement (.contextSlotWrite) := Or.inl ⟨rfl, rfl⟩
theorem regulatorWrite : Statement (.regulatorWrite) := Or.inl ⟨rfl, rfl⟩
theorem requestSchedule : Statement (.requestSchedule) := Or.inl ⟨rfl, rfl⟩
theorem memoryRequestComplete : Statement (.memoryRequestComplete) := Or.inl ⟨rfl, rfl⟩
theorem refreshDue : Statement (.refreshDue) := Or.inl ⟨rfl, rfl⟩
theorem catchUpEnd : Statement (.catchUpEnd) := Or.inl ⟨rfl, rfl⟩
theorem owedRefresh : Statement (.owedRefresh) := Or.inl ⟨rfl, rfl⟩
theorem rowHammerRefresh : Statement (.rowHammerRefresh) := Or.inl ⟨rfl, rfl⟩
theorem hotrefChange : Statement (.hotrefChange) := Or.inl ⟨rfl, rfl⟩
theorem patrolScrub : Statement (.patrolScrub) := Or.inl ⟨rfl, rfl⟩
theorem correctedError : Statement (.correctedError) := Or.inl ⟨rfl, rfl⟩
theorem uncorrectableError : Statement (.uncorrectableError) := Or.inl ⟨rfl, rfl⟩
theorem keySlotLoad : Statement (.keySlotLoad) := Or.inl ⟨rfl, rfl⟩
theorem copyCommandStart : Statement (.copyCommandStart) := Or.inl ⟨rfl, rfl⟩
theorem deliveryUnitCount : Statement (.deliveryUnitCount) := Or.inl ⟨rfl, rfl⟩
theorem offloadPageOut : Statement (.offloadPageOut) := Or.inl ⟨rfl, rfl⟩
theorem returnPageResident : Statement (.returnPageResident) := Or.inl ⟨rfl, rfl⟩
theorem ceReset : Statement (.ceReset) := Or.inl ⟨rfl, rfl⟩
theorem ceEn : Statement (.ceEn) := Or.inl ⟨rfl, rfl⟩
theorem engineCommandComplete : Statement (.engineCommandComplete) := Or.inl ⟨rfl, rfl⟩
theorem matrixEngineReset : Statement (.matrixEngineReset) := Or.inl ⟨rfl, rfl⟩
theorem fabricPacketArrival : Statement (.fabricPacketArrival) := Or.inl ⟨rfl, rfl⟩
theorem remoteAcknowledge : Statement (.remoteAcknowledge) := Or.inl ⟨rfl, rfl⟩
theorem remoteTriggerFire : Statement (.remoteTriggerFire) := Or.inl ⟨rfl, rfl⟩
theorem ueJobWrite : Statement (.ueJobWrite) := Or.inl ⟨rfl, rfl⟩
theorem gleaningTableWrite : Statement (.gleaningTableWrite) := Or.inl ⟨rfl, rfl⟩
theorem fxProgramStart : Statement (.fxProgramStart) := Or.inl ⟨rfl, rfl⟩
theorem messageAccept : Statement (.messageAccept) := Or.inl ⟨rfl, rfl⟩
theorem startPacketArrival : Statement (.startPacketArrival) := Or.inl ⟨rfl, rfl⟩
theorem fxWaitmReread : Statement (.fxWaitmReread) := Or.inl ⟨rfl, rfl⟩
theorem fxAbort : Statement (.fxAbort) := Or.inl ⟨rfl, rfl⟩
theorem fxEn : Statement (.fxEn) := Or.inl ⟨rfl, rfl⟩
theorem phaserEngineCount : Statement (.phaserEngineCount) := Or.inl ⟨rfl, rfl⟩
theorem phaserEngineFault : Statement (.phaserEngineFault) := Or.inl ⟨rfl, rfl⟩
theorem phwaitWake : Statement (.phwaitWake) := Or.inl ⟨rfl, rfl⟩
theorem graceEnd : Statement (.graceEnd) := Or.inl ⟨rfl, rfl⟩
theorem releaseRingEntry : Statement (.releaseRingEntry) := Or.inl ⟨rfl, rfl⟩
theorem releaseRingBaseWrite : Statement (.releaseRingBaseWrite) := Or.inl ⟨rfl, rfl⟩
theorem vpubWaitEnd : Statement (.vpubWaitEnd) := Or.inl ⟨rfl, rfl⟩
theorem versionRegionConfig : Statement (.versionRegionConfig) := Or.inl ⟨rfl, rfl⟩
theorem nopPacket : Statement (.nopPacket) := Or.inl ⟨rfl, rfl⟩
theorem launchPacket : Statement (.launchPacket) := Or.inl ⟨rfl, rfl⟩
theorem feedPacket : Statement (.feedPacket) := Or.inl ⟨rfl, rfl⟩
theorem waitmemPacket : Statement (.waitmemPacket) := Or.inl ⟨rfl, rfl⟩
theorem writememStore64 : Statement (.writememStore64) := Or.inl ⟨rfl, rfl⟩
theorem writememStore32 : Statement (.writememStore32) := Or.inl ⟨rfl, rfl⟩
theorem writememAdd64 : Statement (.writememAdd64) := Or.inl ⟨rfl, rfl⟩
theorem linksigPacket : Statement (.linksigPacket) := Or.inl ⟨rfl, rfl⟩
theorem linkwaitPacket : Statement (.linkwaitPacket) := Or.inl ⟨rfl, rfl⟩
theorem graphPacket : Statement (.graphPacket) := Or.inl ⟨rfl, rfl⟩
theorem graphNodeFinish : Statement (.graphNodeFinish) := Or.inl ⟨rfl, rfl⟩
theorem copyPacket : Statement (.copyPacket) := Or.inl ⟨rfl, rfl⟩
theorem collPacket : Statement (.collPacket) := Or.inl ⟨rfl, rfl⟩
theorem vpubPacket : Statement (.vpubPacket) := Or.inl ⟨rfl, rfl⟩
theorem ckptPacket : Statement (.ckptPacket) := Or.inl ⟨rfl, rfl⟩
theorem ctxctlEnd : Statement (.ctxctlEnd) := Or.inl ⟨rfl, rfl⟩
theorem ctxctlSuspend : Statement (.ctxctlSuspend) := Or.inl ⟨rfl, rfl⟩
theorem ctxctlResume : Statement (.ctxctlResume) := Or.inl ⟨rfl, rfl⟩
theorem eventQueueRegisterWrite : Statement (.eventQueueRegisterWrite) := Or.inl ⟨rfl, rfl⟩
theorem troughDisable : Statement (.troughDisable) := Or.inl ⟨rfl, rfl⟩
theorem teamPlacement : Statement (.teamPlacement) := Or.inl ⟨rfl, rfl⟩
theorem priorityAgeing : Statement (.priorityAgeing) := Or.inl ⟨rfl, rfl⟩
theorem deadlineMissed : Statement (.deadlineMissed) := Or.inl ⟨rfl, rfl⟩
theorem asyncFaultDelivery : Statement (.asyncFaultDelivery) := Or.inl ⟨rfl, rfl⟩
theorem priorityPreemption : Statement (.priorityPreemption) := Or.inl ⟨rfl, rfl⟩
theorem teamSave : Statement (.teamSave) := Or.inl ⟨rfl, rfl⟩
theorem teamResume : Statement (.teamResume) := Or.inl ⟨rfl, rfl⟩
theorem traceSieveRun : Statement (.traceSieveRun) := Or.inl ⟨rfl, rfl⟩
theorem sieveLoad : Statement (.sieveLoad) := Or.inl ⟨rfl, rfl⟩
theorem trcStatClear : Statement (.trcStatClear) := Or.inl ⟨rfl, rfl⟩
theorem powerGateRequest : Statement (.powerGateRequest) := Or.inl ⟨rfl, rfl⟩
theorem powerGateTimeout : Statement (.powerGateTimeout) := Or.inl ⟨rfl, rfl⟩
theorem debugStopRequest : Statement (.debugStopRequest) := Or.inl ⟨rfl, rfl⟩
theorem debugResume : Statement (.debugResume) := Or.inl ⟨rfl, rfl⟩
theorem trialStart : Statement (.trialStart) := Or.inl ⟨rfl, rfl⟩
theorem trialStop : Statement (.trialStop) := Or.inl ⟨rfl, rfl⟩
theorem trialWindowEnd : Statement (.trialWindowEnd) := Or.inl ⟨rfl, rfl⟩
theorem powerOn : Statement (.powerOn) := Or.inl ⟨rfl, rfl⟩
theorem bootCold : Statement (.bootCold) := Or.inl ⟨rfl, rfl⟩
theorem bootWarm : Statement (.bootWarm) := Or.inl ⟨rfl, rfl⟩
theorem bootOk : Statement (.bootOk) := Or.inl ⟨rfl, rfl⟩
theorem startTimeout : Statement (.startTimeout) := Or.inl ⟨rfl, rfl⟩
theorem attestationRequest : Statement (.attestationRequest) := Or.inl ⟨rfl, rfl⟩
theorem checkpointStreamStart : Statement (.checkpointStreamStart) := Or.inl ⟨rfl, rfl⟩
theorem sendAhead : Statement (.sendAhead) := Or.inl ⟨rfl, rfl⟩
theorem checkpointComplete : Statement (.checkpointComplete) := Or.inl ⟨rfl, rfl⟩
theorem checkpointTransportFailure : Statement (.checkpointTransportFailure) := Or.inl ⟨rfl, rfl⟩
theorem hostPortWrite : Statement (.hostPortWrite) := Or.inl ⟨rfl, rfl⟩
theorem powerSample : Statement (.powerSample) := Or.inl ⟨rfl, rfl⟩
theorem thermalTrip : Statement (.thermalTrip) := Or.inl ⟨rfl, rfl⟩
theorem registerWrite : Statement (.registerWrite) := Or.inl ⟨rfl, rfl⟩
theorem transportFailure : Statement (.transportFailure) := Or.inl ⟨rfl, rfl⟩
theorem perBankRefreshEnd : Statement (.perBankRefreshEnd) := Or.inl ⟨rfl, rfl⟩
theorem matrixEngineResetEnd : Statement (.matrixEngineResetEnd) := Or.inl ⟨rfl, rfl⟩
theorem thermalTripClear : Statement (.thermalTripClear) := Or.inl ⟨rfl, rfl⟩
theorem fxTransferComplete : Statement (.fxTransferComplete) := Or.inl ⟨rfl, rfl⟩

end Laws.HeaderKept
end Sys2Proof
end

