-- ==== Sys2Proof/Laws/Words.lean ====
section
/-! SUPPORT. What a word that acts on registers gives: its results lane by lane, or once (R30, R31, R158, R164, R185). -/

namespace Sys2Proof.Machine

theorem flagWrite_inLane (q : Bool) (l : Nat) (f : Fl) : ∀ w ∈ flagWrite q l f, w.inLane l := by
  intro w hw
  unfold flagWrite at hw
  split at hw
  · cases hw
  · simp only [List.mem_singleton] at hw; subst hw; rfl
theorem getV_flagWrite (g : Group) (q : Bool) (l : Nat) (f : Fl) (n i : Nat) : (g.writes (flagWrite q l f)).getV n i = g.getV n i := by
  unfold flagWrite; split <;> simp [Group.write]
theorem getP_flagWrite (g : Group) (q : Bool) (l : Nat) (f : Fl) (n : Nat) : (g.writes (flagWrite q l f)).getP n = g.getP n := by
  unfold flagWrite; split <;> simp [Group.write]
theorem getFlg_flagWrite (g : Group) (q : Bool) (l : Nat) (f : Fl) :
    (g.writes (flagWrite q l f)).getFlg l = g.getFlg l ||| (if q = true then 0 else f) := by
  unfold flagWrite
  by_cases hf : (q || f == 0) = true
  · rw [if_pos hf]
    rcases Bool.or_eq_true_iff.1 hf with h | h
    · simp [h]
    · have : f = 0 := by simpa using h
      subst this; simp
  · rw [if_neg hf]
    have hq : ¬ q = true := fun h => hf (by simp [h])
    simp only [writes_cons, writes_nil, Group.write, getFlg_orFlg, if_true, hq, if_false, Bool.false_eq_true]
theorem lowLane_mem (m : Lanes) (h : m ≠ 0) : (laneList m).head? = some (lowLane m) := by
  unfold lowLane
  cases e : (laneList m).head? with
  | some l => rfl
  | none =>
    exfalso
    apply h
    have : laneList m = [] := by simpa using e
    apply BitVec.eq_of_getLsbD_eq
    intro i hi
    have hn : i ∉ laneList m := by rw [this]; simp
    rw [mem_laneList] at hn
    simp only [hi, true_and, Bool.not_eq_true] at hn
    rw [hn]; simp
theorem laneList_zero : laneList 0 = [] := by decide

/-- Results of a word that acts in lanes: 32- or 64-bit vector results and flags. -/
theorem laneWork_givesV (q wide : Bool) (act : Lanes) (d : Reg) (f : Nat → W64 × Fl) :
    GivesV (laneWork false q act (fun l => (destW false wide d l (f l).1, (f l).2))) act wide d.toNat (fun l => (f l).1)
      (fun l => if q = true then 0 else (f l).2) := by
  have hF : ∀ i, ∀ w ∈ destW false wide d i (f i).1 ++ flagWrite q i (f i).2, w.inLane i := by
    intro i w hw
    rcases List.mem_append.1 hw with hw | hw
    · unfold destW at hw
      cases wide <;> simp at hw
      · subst hw; rfl
      · rcases hw with rfl | rfl <;> rfl
    · exact flagWrite_inLane _ _ _ w hw
  have hb : ∀ i ∈ laneList act, i < 64 := fun i hi => ((mem_laneList _ _).1 hi).1
  intro g
  unfold laneWork
  simp only [Bool.false_eq_true, if_false]
  refine ⟨?_, ?_, ?_, ?_, ?_⟩
  · intro n l hl
    rw [getV_writes_lanes _ _ _ _ _ hl (laneList_nodup _) hb hF]
    by_cases ha : act.getLsbD l = true
    · rw [if_pos ((mem_laneList _ _).2 ⟨hl, ha⟩), writes_append, getV_flagWrite]
      unfold destW
      cases wide
      · simp only [Bool.false_eq_true, if_false, writes_cons, writes_nil, Group.write]
        rw [getV_setV _ _ _ _ _ _ hl hl]
        by_cases e : d.toNat = n
        · subst e; simp [ha]
        · simp [e, Ne.symm e]
      · simp only [Bool.false_eq_true, if_false, if_true, writes_cons, writes_nil, Group.write]
        rw [getV_setV _ _ _ _ _ _ hl hl, getV_setV _ _ _ _ _ _ hl hl]
        by_cases e : d.toNat = n
        · subst e; simp [ha]
        · by_cases e2 : d.toNat + 1 = n
          · subst e2; simp [ha]
          · simp [e, e2, Ne.symm e, Ne.symm e2]
    · rw [if_neg (by rw [mem_laneList]; simp [ha])]
      simp [ha]
  · intro l hl
    rw [getFlg_writes_lanes _ _ _ _ (laneList_nodup _) hF]
    by_cases ha : act.getLsbD l = true
    · rw [if_pos ((mem_laneList _ _).2 ⟨hl, ha⟩), if_pos ha, writes_append, getFlg_flagWrite]
      congr 1
      unfold destW
      cases wide <;> simp [Group.write]
    · rw [if_neg (by rw [mem_laneList]; simp [ha]), if_neg ha]
  · intro n
    apply getS_writes_lane
    intro w hw
    obtain ⟨i, -, hi⟩ := List.mem_flatMap.1 hw
    exact ⟨i, hF i w hi⟩
  · intro n
    apply getD_writes_lane
    intro w hw
    obtain ⟨i, -, hi⟩ := List.mem_flatMap.1 hw
    exact ⟨i, hF i w hi⟩
  · intro n l hl
    rw [getP_writes_lanes _ _ _ _ _ hl (laneList_nodup _) hF]
    split
    · rw [writes_append, getP_flagWrite]
      unfold destW
      cases wide <;> simp [Group.write]
    · rfl

theorem flagWrites_all (q : Bool) (f : Fl) (ls : List Nat) (hd : ls.Nodup) (g : Group) :
    (∀ n l, (g.writes (ls.flatMap (fun i => flagWrite q i f))).getV n l = g.getV n l)
    ∧ (∀ n, (g.writes (ls.flatMap (fun i => flagWrite q i f))).getS n = g.getS n)
    ∧ (∀ n, (g.writes (ls.flatMap (fun i => flagWrite q i f))).getD n = g.getD n)
    ∧ (∀ n, (g.writes (ls.flatMap (fun i => flagWrite q i f))).getP n = g.getP n)
    ∧ ∀ l, (g.writes (ls.flatMap (fun i => flagWrite q i f))).getFlg l
        = if l ∈ ls then g.getFlg l ||| (if q = true then 0 else f) else g.getFlg l := by
  have hF : ∀ i, ∀ w ∈ flagWrite q i f, w.inLane i := fun i => flagWrite_inLane q i f
  refine ⟨?_, ?_, ?_, ?_, ?_⟩
  · induction ls generalizing g with
    | nil => intro n l; rfl
    | cons i ls ih =>
      intro n l
      rw [List.flatMap_cons, writes_append, ih (List.nodup_cons.1 hd).2, getV_flagWrite]
  · intro n
    apply getS_writes_lane
    intro w hw
    obtain ⟨i, -, hi⟩ := List.mem_flatMap.1 hw
    exact ⟨i, hF i w hi⟩
  · intro n
    apply getD_writes_lane
    intro w hw
    obtain ⟨i, -, hi⟩ := List.mem_flatMap.1 hw
    exact ⟨i, hF i w hi⟩
  · induction ls generalizing g with
    | nil => intro n; rfl
    | cons i ls ih =>
      intro n
      rw [List.flatMap_cons, writes_append, ih (List.nodup_cons.1 hd).2, getP_flagWrite]
  · intro l
    rw [getFlg_writes_lanes _ _ _ _ hd hF]
    split
    · rw [getFlg_flagWrite]
    · rfl

/-- Results of a word that acts once: a scalar result, and flags in every participating lane. -/
theorem laneWork_givesS (q wide : Bool) (act : Lanes) (d : Reg) (f : Nat → W64 × Fl) :
    GivesS (laneWork true q act (fun l => (destW true wide d l (f l).1, (f l).2))) act wide d.toNat (f (lowLane act)).1
      (if q = true then 0 else (f (lowLane act)).2) := by
  intro g
  unfold laneWork
  rw [if_pos rfl]
  by_cases h0 : act = 0
  · subst h0
    rw [laneList_zero]
    simp
  · rw [lowLane_mem _ h0]
    dsimp only
    obtain ⟨a1, a2, a3, a4, a5⟩ := flagWrites_all q (f (lowLane act)).2 (laneList act) (laneList_nodup _)
      (g.writes (destW true wide d (lowLane act) (f (lowLane act)).1))
    rw [writes_append]
    have e : g.writes (destW true wide d (lowLane act) (f (lowLane act)).1)
        = g.setS d.toNat (if wide then (f (lowLane act)).1 else ((f (lowLane act)).1.setWidth 32).setWidth 64) := by
      unfold destW; rfl
    refine ⟨?_, ?_, ?_, ?_, ?_⟩
    · intro n
      rw [a2, e, getS_setS]
      by_cases e : d.toNat = n
      · subst e
        by_cases h6 : d.toNat = 63
        · rw [if_neg (fun h => h.2 h6), if_neg (fun h => h.2.2 h6)]
        · rw [if_pos (And.intro rfl h6), if_pos (And.intro h0 (And.intro rfl h6))]
      · rw [if_neg (fun h => e h.1), if_neg (fun h => e h.2.1.symm)]
    · intro l hl
      rw [a5, e]
      by_cases ha : act.getLsbD l = true
      · rw [if_pos ((mem_laneList _ _).2 ⟨hl, ha⟩), if_pos ha, getFlg_setS]
      · rw [if_neg (by rw [mem_laneList]; simp [ha]), if_neg ha, getFlg_setS]
    · intro n l hl; rw [a1, e, getV_setS]
    · intro n; rw [a3, e, getD_setS]
    · intro n l hl; rw [a4, e, getP_setS]

/-- Results of a word that writes a predicate in lanes. -/
theorem laneWork_givesP (q : Bool) (act : Lanes) (pd : Nat) (f : Nat → Bool) :
    GivesP (laneWork false q act (fun l => ([.p pd l (f l)], 0))) act pd f := by
  have hF : ∀ i, ∀ w ∈ [RegWrite.p pd i (f i)] ++ flagWrite q i 0, w.inLane i := by
    intro i w hw
    rcases List.mem_append.1 hw with hw | hw
    · simp only [List.mem_singleton] at hw; subst hw; rfl
    · exact flagWrite_inLane _ _ _ w hw
  have hb : ∀ i ∈ laneList act, i < 64 := fun i hi => ((mem_laneList _ _).1 hi).1
  intro g
  unfold laneWork
  simp only [Bool.false_eq_true, if_false]
  refine ⟨?_, ?_, ?_, ?_, ?_⟩
  · intro n l hl
    rw [getP_writes_lanes _ _ _ _ _ hl (laneList_nodup _) hF]
    by_cases ha : act.getLsbD l = true
    · rw [if_pos ((mem_laneList _ _).2 ⟨hl, ha⟩), writes_append, getP_flagWrite]
      simp only [writes_cons, writes_nil, Group.write]
      rw [getP_setP _ _ _ _ _ _ hl]
      by_cases e : pd = n
      · subst e; simp [ha]
      · simp [e, Ne.symm e]
    · rw [if_neg (by rw [mem_laneList]; simp [ha])]
      simp [ha]
  · intro l hl
    rw [getFlg_writes_lanes _ _ _ _ (laneList_nodup _) hF]
    split
    · rw [writes_append, getFlg_flagWrite]; simp [Group.write]
    · rfl
  · intro n l hl
    rw [getV_writes_lanes _ _ _ _ _ hl (laneList_nodup _) hb hF]
    split
    · rw [writes_append, getV_flagWrite]; simp [Group.write]
    · rfl
  · intro n
    apply getS_writes_lane
    intro w hw
    obtain ⟨i, -, hi⟩ := List.mem_flatMap.1 hw
    exact ⟨i, hF i w hi⟩
  · intro n
    apply getD_writes_lane
    intro w hw
    obtain ⟨i, -, hi⟩ := List.mem_flatMap.1 hw
    exact ⟨i, hF i w hi⟩

/-- A word whose effect is a list of results completes with them. -/
theorem completes_of (i : Instr) (s : State) (h : Hdr) (lat : Lat) (us : List Use) (flg : Bool) (len : Nat) (c : Ctx)
    (hi : Issues s h us len c) (ws : List RegWrite) (body : State → Ctx → Eff)
    (hx : exec i s = issue s h lat us flg len body) (hb : body s c = .done s (Res.of ws)) :
    Completes i s c len lat us flg ws := by
  obtain ⟨g', h1, h2⟩ := complete_spec s h c hi.ctx lat us flg len ws
  refine ⟨_, g', ?_, h1, h2⟩
  rw [hx, issue_next hi, hb]
  rfl
/-- A word over `aluWord` with an open destination. -/
theorem regWord_alu (i : Instr) (h : Hdr) (lat : Lat) (flg k wide : Bool) (d : Reg) (val : Group → Nat → W64 × Fl)
    (hx : ∀ s, exec i s = aluWord s h lat i.uses flg k (fun g l => (destW k wide d l (val g l).1, (val g l).2))) :
    RegWord i h lat flg k wide d val := by
  intro s c hi
  refine ⟨_, completes_of i s h lat i.uses (flg && !h.q) 1 c hi _ _ (hx s) rfl, ?_, ?_⟩
  · rintro rfl; exact laneWork_givesV _ _ _ _ _
  · rintro rfl; exact laneWork_givesS _ _ _ _ _

/-- Only the bits that a result writes matter: 32 of them for a narrow operand. -/
theorem RegWord.mono {i : Instr} {h : Hdr} {lat : Lat} {flg k wide : Bool} {d : Reg} {val val' : Group → Nat → W64 × Fl}
    (hw : RegWord i h lat flg k wide d val)
    (he : ∀ g l, (val g l).1.setWidth 32 = (val' g l).1.setWidth 32 ∧ (wide = true → (val g l).1 = (val' g l).1)
      ∧ (val g l).2 = (val' g l).2) : RegWord i h lat flg k wide d val' := by
  intro s c hi
  obtain ⟨ws, hc, hv, hs⟩ := hw s c hi
  refine ⟨ws, hc, fun hk g => ?_, fun hk g => ?_⟩
  · obtain ⟨a, b, e⟩ := hv hk g
    refine ⟨fun n l hl => ?_, fun l hl => ?_, e⟩
    · rw [a n l hl]
      dsimp only
      rw [(he c.g l).1]
      cases wide
      · simp
      · rw [(he c.g l).2.1 rfl]
    · rw [b l hl]; dsimp only; rw [(he c.g l).2.2]
  · obtain ⟨a, b, e⟩ := hs hk g
    refine ⟨fun n => ?_, fun l hl => ?_, e⟩
    · rw [a n, (he c.g _).1]
      cases wide
      · simp
      · rw [(he c.g _).2.1 rfl]
    · rw [b l hl]; rw [(he c.g _).2.2]

-- ## The operand forms

theorem regWord_int2 (i : Instr) (h : Hdr) (o : I2) (f : W64 → W64 × Fl) (hu : i.uses = o.uses)
    (hx : ∀ s, exec i s = int2 s h o f) :
    RegWord i h .short false o.k o.ty.wide o.d (fun g l => f (g.src o.k o.ty.wide o.a l)) :=
  regWord_alu _ _ _ _ _ _ _ _ (fun s => by rw [hx, hu]; rfl)
theorem regWord_int3 (i : Instr) (h : Hdr) (lat : Lat) (flg : Bool) (o : I3) (f : W64 → W64 → W64 × Fl) (hu : i.uses = o.uses)
    (hx : ∀ s, exec i s = int3 s h lat flg o f) :
    RegWord i h lat flg o.k o.ty.wide o.d (fun g l => f (g.src o.k o.ty.wide o.a l) (g.src (o.k || o.sb) o.ty.wide o.b l)) :=
  regWord_alu _ _ _ _ _ _ _ _ (fun s => by rw [hx, hu]; rfl)
theorem regWord_int4 (i : Instr) (h : Hdr) (o : I4) (f : W64 → W64 → W64 → W64) (hu : i.uses = o.uses)
    (hx : ∀ s, exec i s = int4 s h o f) :
    RegWord i h .short false o.k o.ty.wide o.d (fun g l => (f (g.src o.k o.ty.wide o.a l) (g.src (o.k || o.sb) o.ty.wide o.b l)
      (g.src o.k o.ty.wide o.c l), 0)) :=
  regWord_alu _ _ _ _ _ _ _ _ (fun s => by rw [hx, hu]; rfl)
theorem regWord_flt2 (i : Instr) (h : Hdr) (lat : Lat) (o : F2) (f : W32 → W32 × Fl) (hu : i.uses = o.uses)
    (hx : ∀ s, exec i s = flt2 s h lat o f) :
    RegWord i h lat true o.k false o.d (fun g l => ((f (g.src32 o.k o.a l)).1.setWidth 64, (f (g.src32 o.k o.a l)).2)) :=
  regWord_alu _ _ _ _ _ _ _ _ (fun s => by rw [hx, hu]; rfl)
theorem regWord_flt3 (i : Instr) (h : Hdr) (lat : Lat) (o : F3) (f : W32 → W32 → W32 × Fl) (hu : i.uses = o.uses)
    (hx : ∀ s, exec i s = flt3 s h lat o f) :
    RegWord i h lat true o.k false o.d (fun g l => ((f (g.src32 o.k o.a l) (g.src32 (o.k || o.sb) o.b l)).1.setWidth 64,
      (f (g.src32 o.k o.a l) (g.src32 (o.k || o.sb) o.b l)).2)) :=
  regWord_alu _ _ _ _ _ _ _ _ (fun s => by rw [hx, hu]; rfl)
theorem regWord_flt4 (i : Instr) (h : Hdr) (lat : Lat) (o : F4) (f : W32 → W32 → W32 → W32 × Fl) (hu : i.uses = o.uses)
    (hx : ∀ s, exec i s = flt4 s h lat o f) :
    RegWord i h lat true o.k false o.d (fun g l =>
      ((f (g.src32 o.k o.a l) (g.src32 (o.k || o.sb) o.b l) (g.src32 o.k o.c l)).1.setWidth 64,
       (f (g.src32 o.k o.a l) (g.src32 (o.k || o.sb) o.b l) (g.src32 o.k o.c l)).2)) :=
  regWord_alu _ _ _ _ _ _ _ _ (fun s => by rw [hx, hu]; rfl)

end Sys2Proof.Machine
end

