-- ==== Sys2Proof/Tests/Slice0.lean ====
section
/-! SUPPORT. The model's own tests: words written out from the encodings of the manual, ill-formed terms, results of the
manual's examples, and for each obligation a state and operands that meet its hypotheses. -/

namespace Sys2Proof.Machine
set_option Elab.async false

-- ## Decoding: words from the encoding examples of the chapters

def hdrE : Hdr := ⟨true, 7, false, false, 0⟩
def hdr0 : Hdr := ⟨false, 7, false, false, 0⟩
def hdrLa (n : BitVec 4) : Hdr := ⟨false, 7, false, false, n⟩

/-- Chapters 2 and 12: `?!P2 IADD V7,V3,S9 ::` and `LOP3 V10,V1,V2,V3,0x96`. -/
theorem test_decode_integer :
    decodeIgyan 0x80C1C0C240140800 0 = .ok (.iadd ⟨true, 2, true, false, 0⟩ ⟨false, true, .s32, 7, 3, 9⟩)
    ∧ decodeIgyan 0x0402804080F80096 0 = .ok (.lop3 hdr0 0x96 ⟨false, false, .s32, 10, 1, 2, 3⟩) := by decide +kernel
/-- Chapter 2: the pair word `FMAC V8,V1,V2 || IADD V12,V5,V6 ::`. -/
theorem test_decode_pair :
    decodeIgyan 0xF81880209046050C 0 = .ok (.pairWord true 7 false ⟨3, 8, 1, 2, false⟩ ⟨0x41, 12, 5, 6, false⟩) := by decide +kernel
/-- Chapter 13: an `XPR` and its body. -/
theorem test_decode_xpr :
    decodeIgyan 0x0E02804080F88000 0x8000000001370C41
      = .ok (.xpr (hdrLa 4) ⟨false, false, .rn, false, 10, 1, 2, 3⟩ true 0x1370C41) := by decide +kernel
/-- Chapter 14: `FREDUX.add.sg4 V10,V1`. -/
theorem test_decode_cross_lane :
    decodeIgyan 0x1942804000380200 0 = .ok (.fredux hdr0 .add .rn false (.sub 2) 10 1) := by decide +kernel
/-- Chapters 9 and 16: `LDG.s16.dv.acq V20,[S4+V8+0x40] la:6` and `CAS.dv.ar V20,[S4+V8],V12 la:4`. -/
theorem test_decode_memory :
    decodeIgyan 0x200501020138CE40 0 = .ok (.ldg (hdrLa 6) ⟨.s16, .device, .acq, .none, 20, 4, 8, 0x40⟩)
    ∧ decodeIgyan 0x28850102033880B0 0 = .ok (.cas (hdrLa 4) ⟨false, .device, .ar, 20, 4, 8, 12⟩) := by decide +kernel
/-- Chapters 7, 15 and 17: `CPY.g2s`, `MMA.za A2,D3,[S10],S11,S12` and `PUTS.addb.trig [S10],[S12],S14,S16`. -/
theorem test_decode_engines :
    decodeIgyan 0x29C2010180780000 0 = .ok (.cpy hdr0 .g2s false 4 6 1 8)
    ∧ decodeIgyan 0x304080C282F8004C 0 = .ok (.mma hdr0 true 2 3 10 11 12)
    ∧ decodeIgyan 0x2B04028303B8000A 0 = .ok (.puts hdr0 .addb ⟨false, true, false⟩ 10 12 14 16) := by decide +kernel
/-- Chapters 22 to 24: `PHARR.cl S20,S8,S9 la:2`, `VPUB S4,S5 ::`, `TOKB S9,[S6],S7,S8 la:2`, `TRPOP S16,5 ::`, `TRPSH S8,5`. -/
theorem test_decode_sync :
    decodeIgyan 0x32C5020240384001 0 = .ok (.pharr (hdrLa 2) .cluster 20 8 9)
    ∧ decodeIgyan 0xB500010140380000 0 = .ok (.vpub hdrE false 4 5)
    ∧ decodeIgyan 0x34C24181C2384000 0 = .ok (.tokb (hdrLa 2) 9 6 7 8)
    ∧ decodeIgyan 0xB584000000380005 0 = .ok (.trpop hdrE 16 5)
    ∧ decodeIgyan 0x35C0020000380005 0 = .ok (.trpsh hdr0 8 5) := by decide +kernel
/-- Chapters 21, 25 and 26: branches, `CSRR S5,0x022`, `RTE ::`, `TRAP 0x15` and `PROG 3 ::`. -/
theorem test_decode_control :
    decodeIgyan 0xB840000000C00007 0 = .ok (.brad ⟨true, 0, false, false, 0⟩ 3 7)
    ∧ decodeIgyan 0xB8C0000000080002 0 = .ok (.brk ⟨true, 1, false, false, 0⟩ 2)
    ∧ decodeIgyan 0xB880000000380000 0 = .ok (.join hdrE)
    ∧ decodeIgyan 0x3B81400000381022 0 = .ok (.csrr hdr0 true 5 0x22)
    ∧ decodeIgyan 0xBB00000000380000 0 = .ok (.rte hdrE)
    ∧ decodeIgyan 0x3AC0000000380015 0 = .ok (.trap hdr0 0x15)
    ∧ decodeIgyan 0xB600000000380003 0 = .ok (.prog hdrE 3) := by decide +kernel
/-- Chapter 19: `ENC.k16.tern F5,F4,F6` and `LOOP F13,-8`. -/
theorem test_decode_fabric :
    decodeFx 0x1054600000000000 = .ok (.fxEnc false .k16 5 4 6) ∧ decodeFx 0x08D00FFFFFFFFFF8 = .ok (.fxLoop 13 (-8)) := by
  decide +kernel
/-- Chapter 26: `AND k1,k0,0xFF`, `JEQ k1,k2,3` and `KEEP`. -/
theorem test_decode_sieve :
    decodeSieve 0x108000FF = some (.sieveAnd 1 0 0xFF) ∧ decodeSieve 0x24A00003 = some (.sieveJeq 1 2 3)
    ∧ decodeSieve 0x30000000 = some .sieveKeep := by decide +kernel
/-- R50: an opcode that no row has, a reserved field, and a register number that the field may not hold. -/
theorem test_decode_refuses :
    decodeIgyan 0x0EC0000000380000 0 = .error .opcode ∧ decodeIgyan 0x0402804080F80196 0 = .error .operand
    ∧ decodeIgyan 0x200510020138CE40 0 = .error .operand ∧ decodeFx 0xFF00000000000000 = .error .opcode
    ∧ decodeSieve 0xFFFFFFFF = none := by decide +kernel

-- ## Well-formedness: each check refuses an ill-formed term

def refusedAll (is : List Instr) : Bool := is.all (fun i => !i.wf)

/-- R30, R32: a pair that starts at an odd register or crosses `VZ`, and a scalar register above 63. -/
theorem test_wf_registers : refusedAll [
    .iadd hdr0 ⟨false, false, .s64, 3, 4, 6⟩, .iadd hdr0 ⟨false, false, .s64, 254, 4, 6⟩, .iadd hdr0 ⟨true, false, .s32, 64, 1, 2⟩,
    .ldg (hdrLa 1) ⟨.b128, .team, .rlx, .none, 2, 4, 8, 0⟩] = true := by decide +kernel
/-- R42, R45, R416: a lookahead on a short word, a control word that does not end its run, a guard on `RTE` and on `JOIN`. -/
theorem test_wf_header : refusedAll [
    .iadd (hdrLa 1) ⟨false, false, .s32, 3, 4, 6⟩, .bra hdr0 1, .exit hdr0, .rte ⟨true, 1, false, false, 0⟩, .join ⟨true, 7, true, false, 0⟩]
    = true := by decide +kernel
/-- Classes 0 and 1: `SB` with `K`, unsigned `IABS`, amounts, rounding modes, reserved codes, illegal bodies. -/
theorem test_wf_arithmetic : refusedAll [
    .nop ⟨false, 7, false, true, 0⟩, .iadd hdr0 ⟨true, true, .s32, 3, 4, 6⟩, .imad hdr0 ⟨true, true, .s32, 3, 4, 6, 7⟩,
    .iabs hdr0 ⟨false, .z32, 3, 4⟩, .shl hdr0 ⟨false, .s32, 3, 4⟩ (.imm 32), .shr hdr0 ⟨true, .s32, 3, 4⟩ (.reg true 4),
    .icmp hdr0 false false .s32 .eq .none 1 3 4 2, .lea hdr0 true true false 0 2 4 6, .fadd hdr0 ⟨false, false, .rs, false, 1, 2, 3⟩,
    .ffma hdr0 ⟨true, true, .rn, false, 1, 2, 3, 4⟩, .fmin hdr0 true true false 1 2 3, .fcmp hdr0 false false false .eq .none 1 3 4 2,
    .frnd hdr0 ⟨false, .rs, false, 1, 2⟩, .fsign hdr0 true true .cp 1 2 3, .badd2 hdr0 ⟨true, false, .rn, false, 1, 2, 3⟩,
    .bfma2 hdr0 ⟨true, false, .rn, false, 1, 2, 3, 4⟩, .xpr hdr0 ⟨false, false, .rn, false, 1, 2, 3, 4⟩ false 0,
    .lscale hdr0 false false ⟨true, .rn, false, 1, 2⟩, .ovf hdr0 .rd true 1 0] = true := by decide +kernel
/-- Classes 2 and 3: random-word registers without `.rs`, positions, sub-group codes. -/
theorem test_wf_conversions : refusedAll [
    .cvt hdr0 0 1 ⟨false, .rn, 1, 2, 3⟩, .srnd hdr0 23 ⟨false, .rn, 1, 2, 0⟩, .qblk hdr0 5 true .rn 2 4 1, .dqblk hdr0 5 false .rs 1 2 3,
    .pack hdr0 1 2 false .rn 1 2 3 0, .unpack hdr0 3 4 1 2, .tdq hdr0 false 5 false 1 2 3, .shfl hdr0 .xor false 7 false 1 2 3,
    .bcast hdr0 false 7 0 1 2, .vote hdr0 false 1 (.set .every 1 (.sub 7)), .mtch hdr0 false 7 2 4, .redux hdr0 .add (.sub 7) 1 2,
    .fredux hdr0 .add .rs false (.sub 0) 1 2] = true := by decide +kernel
/-- Classes 4 and 5: orders, store types, levels, ranges, `EXCH` of a reduction, `NP` with a control word. -/
theorem test_wf_memory : refusedAll [
    .ldg hdr0 ⟨.w32, .team, .rel, .none, 1, 4, 8, 0⟩, .stg hdr0 ⟨.s8, .team, .rlx, .none, 1, 4, 8, 0⟩,
    .stg hdr0 ⟨.w32, .team, .acq, .none, 1, 4, 8, 0⟩, .lds hdr0 ⟨.w32, false, .rel, 1, 4, 8, 0⟩,
    .sts hdr0 ⟨.s16, false, .rlx, 1, 4, 8, 0⟩, .stl hdr0 .s8 .none 1 4 8 0, .stws hdr0 .s8 .team .inc 1 4 8 6, .prf hdr0 3 4 8 0,
    .cctl hdr0 .wball 4 0, .fence hdr0 .rlx .device, .ldm hdr0 1 .team .rel 8 4 0, .stm hdr0 1 .team .acq 8 4 0,
    .red hdr0 .exch false .device .rlx 4 8 12, .atoms hdr0 (.fp .add) true false .rlx 2 4 8 12, .cpy hdr0 .g2s true 4 6 1 8] = true := by
  decide +kernel
/-- Classes 6 and 7 and pair words: gangs, formats, scopes, masks, troughs, levels, CSRs, halves that write one register. -/
theorem test_wf_units : refusedAll [
    .gang hdr0 1, .gang hdr0 0x0000010A, .accq hdr0 0 false .rs true 0 8 9 63, .pharr hdr0 .system 1 2 3, .phwait hdr0 .system 1 2 3, .drain hdrE 0,
    .vreq hdr0 true 2 3, .trpop hdrE 56 0, .trpsh hdr0 56 0, .brk hdrE 0, .csrr hdr0 true 5 0x15, .csrr hdr0 true 5 0x10,
    .csrw hdr0 true 5 0x22, .csrw hdr0 true 5 0x10, .pairWord false 7 false ⟨0x41, 3, 1, 2, false⟩ ⟨0x41, 3, 5, 6, false⟩,
    .pairWord false 7 false ⟨0x0C, 3, 1, 2, false⟩ ⟨0x41, 4, 5, 6, false⟩] = true := by decide +kernel


-- ## The small machine of the tests: one team of two groups on core 0, context slot 0, one mapped page

def page0 : TlbE := ⟨5, 0x10000, 0x10000, 0x200000, 0x100000, 0, 0, 0, false, false, false, true, true, true⟩
def rec0 : LaunchRec := ⟨0x10000, 16, 1024, 4, 4, 0, 8, [(2, 64)]⟩
def grid0 : Grid := ⟨0, 0, .packet 3 1 9, 3, 4, none, 0, false, 4, rec0, [1, 2, 3, 4, 5, 6, 7, 8], 2, 0x10000, 0x100, 0, 1, 0, 0, false⟩
def team0 : Team := ⟨200, 0, 0, 0, 0, 4, 4, 2, 0, 0, [], [], [], 0, []⟩
def group0 (gi : Nat) : Group := Group.placed 100 0 gi 0 gi 16 64 gi 0 0 0x10000 0 2 0x10000 0x100 0
/-- Group 1 issues in partition 0; group 2 stands beside it. -/
def small : State := { State.reset with
  cur := some (1, 0), nextId := 300, groups := [(1, group0 0), (2, group0 1)], teams := [(100, team0)], grids := [(200, grid0)]
  parts := [(0, ⟨some (1, 0), 0, 0, 0, 0, 0, 0, false⟩)]
  cores := [(0, { CoreSt.init with tlb := [page0] })], engTlb := [(0, [page0])]
  mmio := [(ctxCfgAddr 0, 0x10005)], boot := ⟨.open_, none, 1, some [1, 2, 3, 4, 5, 6, 7, 8]⟩ }
/-- Group 1 changed, and its scalar registers set. -/
def State.own (s : State) (f : Group → Group) : State := s.updGrp 1 f
def State.sreg (s : State) (rs : List (Nat × W64)) : State := s.own (fun g => rs.foldl (fun g r => g.setS r.1 r.2) g)
/-- The context of a word of the issuing split. -/
def State.here (s : State) (h : Hdr) : Ctx := (s.ctx? h).getD ⟨0, 0, group0 0, ⟨0, 0, 0, .ready, false, [], []⟩, 0⟩
/-- What a word leaves: a vector register of group 1 in a lane, once its pending results are written. -/
def after (o : Host.Outcome State Fault Refusal) : Group := match o with
  | .next t => (t.grp 1).elim (group0 0) (fun g => g.pend.foldl (fun g p => g.writes p.writes) g)
  | _ => group0 0
def vlanes (n : Nat) (xs : List W32) (s : State) : State := s.own (fun g => (g.writes (xs.zipIdx.map (fun x => .v n x.2 x.1))))

-- ## Results of the manual's examples

/-- R190: the five lanes of the division table (the last is `.z32`). -/
theorem test_idiv :
    let s := vlanes 2 [2, 2, 0, 0xFFFFFFFF, 2] (vlanes 1 [7, 0xFFFFFFF9, 5, 0x80000000, 0xFFFFFFF9] small)
    let g := after (exec (.idiv hdr0 ⟨false, false, .s32, 3, 1, 2⟩) s)
    (List.range 4).map (g.getV 3) = [3, 0xFFFFFFFD, 0xFFFFFFFF, 0x80000000]
    ∧ (after (exec (.idiv hdr0 ⟨false, false, .z32, 3, 1, 2⟩) s)).getV 3 4 = 0x7FFFFFFC
    ∧ g.getFlg 2 = Num.flIDZ ∧ g.getFlg 3 = Num.flIOV ∧ g.getFlg 0 = 0 := by decide +kernel
theorem test_irem :
    let s := vlanes 2 [2, 2, 0, 0xFFFFFFFF, 2] (vlanes 1 [7, 0xFFFFFFF9, 5, 0x80000000, 0xFFFFFFF9] small)
    let g := after (exec (.irem hdr0 ⟨false, false, .s32, 3, 1, 2⟩) s)
    (List.range 4).map (g.getV 3) = [1, 0xFFFFFFFF, 5, 0]
    ∧ (after (exec (.irem hdr0 ⟨false, false, .z32, 3, 1, 2⟩) s)).getV 3 4 = 1 := by decide +kernel
/-- R194: `BFX` of 0x0000F000 at position 12, length 4. -/
theorem test_bfx :
    let s := vlanes 2 [0x40C] (vlanes 1 [0xF000] small)
    (after (exec (.bfx hdr0 ⟨false, false, .z32, 3, 1, 2⟩) s)).getV 3 0 = 0xF
    ∧ (after (exec (.bfx hdr0 ⟨false, false, .s32, 3, 1, 2⟩) s)).getV 3 0 = 0xFFFFFFFF := by decide +kernel
/-- R234: the example of one sub-group of four, whole and with lane 1 inactive. -/
theorem test_fredux :
    let s := vlanes 1 [0x4B800000, 0x3F800000, 0x3F800000, 0xCB800000] small
    let i := Instr.fredux hdr0 .add .rn false (.sub 2) 10 1
    let g := after (exec i s)
    let h := after (exec i (s.own (fun g => { g with splits := g.splits.map (fun x => { x with mask := 0xFFFD }) })))
    g.getV 10 0 = 0x3F800000 ∧ g.getFlg 0 = Num.flNX ∧ h.getV 10 0 = 0x3F800000 ∧ h.getFlg 0 = 0 ∧ h.getV 10 1 = 0 := by decide +kernel

/-- A step goes on, to a state that passes a check. -/
def goesOn (o : Host.Outcome State Fault Refusal) (f : State → Bool) : Bool := match o with
  | .next t => f t
  | _ => false

/-- R198: the `LEA` example, with and without `.sx`. -/
theorem test_lea :
    let s := (vlanes 9 [0, 0, 0, 0xFFFFFFFE] small).sreg [(2, 0x7F0000010000)]
    let g := after (exec (.lea hdr0 false true true 3 4 9 2) s)
    let h := after (exec (.lea hdr0 false true false 3 4 9 2) s)
    g.getV 4 3 = 0x0000FFF0 ∧ g.getV 5 3 = 0x7F00 ∧ h.getV 4 3 = 0x0000FFF0 ∧ h.getV 5 3 = 0x7F08 := by decide +kernel
/-- R217: 300.0 to E4M3, to M8 and to BF16. -/
theorem test_cvt :
    let s := vlanes 1 [0x43960000] small
    let g (df : BitVec 4) := after (exec (.cvt hdr0 df 0 ⟨false, .rn, 3, 1, 0⟩) s)
    (g 3).getV 3 0 = 0x79 ∧ (g 3).getFlg 0 = Num.flNX ∧ (g 5).getV 3 0 = 0x14 ∧ (g 5).getFlg 0 = Num.flNX
    ∧ (g 1).getV 3 0 = 0x4396 ∧ (g 1).getFlg 0 = 0 := by decide +kernel
/-- R182, R183: the block of 16: its scale, its codes. -/
theorem test_tqnt :
    let xs : List W32 := [0x3F000000, 0xBE800000, 0, 0x3F800000, 0xBF800000, 0x3E000000, 0x3F400000, 0xBF000000, 0x3E800000, 0,
      0xBE000000, 0x3F000000, 0x3FC00000, 0xBF400000, 0, 0]
    let g := after (exec (.tqnt hdr0 false .k16 4 1) (vlanes 1 xs small))
    (List.range 16).map (fun l => (g.getV 5 l).toNat / 65536) = [2, 0, 1, 2, 0, 1, 2, 0, 2, 1, 1, 2, 2, 0, 1, 1]
    ∧ (g.getV 5 0).toNat % 65536 = 0x3EE8 ∧ g.getV 4 0 = 0x3EE80000 ∧ g.getV 4 1 = 0xBEE80000 ∧ g.getV 4 2 = 0 := by decide +kernel
/-- R272, R273: four lanes compare and swap one word: the first succeeds, and the split is demoted. -/
theorem test_cas :
    let s := vlanes 13 [1, 2, 3, 4] (small.sreg [(4, 0x10000)])
    let s4 := s.own (fun g => { g with splits := g.splits.map (fun x => { x with mask := 0xF }) })
    let o := exec (.cas (hdrLa 4) ⟨false, .device, .ar, 20, 4, 8, 12⟩) s4
    (List.range 4).map ((after o).getV 20) = [0, 1, 1, 1]
    ∧ goesOn o (fun t => t.homeByte 0 0x200000 == 1 && (t.grp 1).elim [] (fun g => g.pend.map (fun p => p.demote)) == [true]) = true := by
  decide +kernel
/-- R124: banks of the column of a 32-row tile, unswizzled and swizzled with `TSWZ` 0xB. -/
theorem test_swizzle :
    (List.range 32).map (fun l => swizzle 0xB (256 * l) / 32 % 64) = (List.range 32).map (fun l => 8 * (l % 8) + l / 8) := by
  decide +kernel
/-- R69, R70: the two decodes of the worked example. -/
theorem test_device_address :
    canon 0x000012345840 false = 0x12345840 ∧ canon 0x004800005040 true = 0x25040
    ∧ rowName 0x12345840 = (125, 8, 9) ∧ (rowName 0x25040).1 = 450 := by decide +kernel
/-- R247: the product whose window decides. -/
theorem test_mma_window :
    let e : Latch := ⟨0, 0, 1, 0, true, 0, 0, 0x100, 1, 1, 4, 0x11, 0, BitVec.ofNat 128 (8 * 2 ^ 73 + 3 * 2 ^ 60)⟩
    let col : List Nat := [0x3F80, 0x3980, 0x3880, 0x3880]
    let half (k b : Nat) : Byte := BitVec.ofNat 8 (col.getD k 0 / 256 ^ b % 256)
    let rd (o : Nat) : Byte := if o < 8 then half (o / 2) (o % 2) else if o % 32 < 2 then half ((o - 0x100) / 32) (o % 2) else 0
    e.illegal 0x40101 4 = false ∧ e.badFormat = false ∧ e.accElem rd 0 0 0 = (0x3F800000, false) := by decide +kernel
/-- R441: constants of the permutation and the first bytes of SHAKE256 of nothing, as FIPS 202 gives them. -/
theorem test_shake :
    [0, 1, 2, 23].map Crypto.roundConst = [1, 0x8082, 0x800000000000808A, 0x8000000080008008]
    ∧ [(1, 0), (2, 0), (1, 1), (4, 4)].map Crypto.rhoOffset = [1, 62, 44, 14]
    ∧ Crypto.shake256 [] 4 = [0x46, 0xB9, 0xDD, 0x2B] := by decide +kernel
/-- R150, R142: a store at `DEVICE` scope waits in the FIFO, and its bytes are at home once it is performed. -/
theorem test_stg :
    let s := vlanes 1 [0x11223344] (small.sreg [(4, 0x10000)])
    goesOn (exec (.stg hdr0 ⟨.w32, .device, .rlx, .none, 1, 4, 8, 0⟩)
        (s.own (fun g => { g with splits := g.splits.map (fun x => { x with mask := 1 }) })))
      (fun t => t.homeByte 0 0x200000 == 0 && goesOn (exec .storePerform { t with ev := { EvIn.none with unit := 1 } })
        (fun u => (List.range 4).map (fun j => u.homeByte 0 (0x200000 + j)) == [0x44, 0x33, 0x22, 0x11])) = true := by
  decide +kernel
/-- R414, R409: a `TRAP` with a handler enters it: the code and the state are saved, the pc is the handler's. -/
theorem test_trap :
    let s : State := { small with mmio := (small.setReg (trapVecAddr 0) 0x20001).mmio }
    goesOn (exec (.trap hdr0 0x15) s) (fun t => (t.grp 1).map (fun g => (g.hm, g.tcause, g.tdetail, g.tpc, g.splits.map (fun x => x.pc)))
        == some (true, fcTrap.setWidth 32, 0x15, 0x10008, [0x20000])) = true := by decide +kernel
/-- The word of a row as the first instruction after reset. -/
theorem test_step_runs :
    goesOn (step (State.reset.withFetchWord 64 0x0402804080F80096))
      (fun t => (t.groups.map (fun x => x.2.splits.map (fun y => y.pc))).flatten.length == 1) = true
    ∧ decodeTableWord 64 0x0402804080F80096 = some (.lop3 hdr0 0x96 ⟨false, false, .s32, 10, 1, 2, 3⟩) := by decide +kernel

-- ## Premises: for each obligation with hypotheses, a state and operands that meet them, and its clauses' boundaries

def issuesB (s : State) (h : Hdr) (us : List Use) (len : Nat) : Bool :=
  s.ctx? h == some (s.here h) && us.all (fun u => u.within (s.here h).g.budget) && !(s.here h).sp.violates (wordNames h us)
    && decide ((s.here h).sp.blocked (s.here h).g len = [])
theorem issues_of {s : State} {h : Hdr} {us : List Use} {len : Nat} (e : issuesB s h us len = true) :
    Issues s h us len (s.here h) := by
  simp only [issuesB, Bool.and_eq_true, beq_iff_eq, Bool.not_eq_true', decide_eq_true_eq] at e
  exact ⟨e.1.1.1, e.1.1.2, e.1.2, e.2⟩
/-- A result that is no stop. -/
def isOk {ε α : Type} : Except ε α → Bool
  | .ok _ => true
  | .error _ => false
theorem exists_of_isOk {σ ε α : Type} {x : σ × Except ε α} (h : isOk x.2 = true) : ∃ s a, x = (s, .ok a) := by
  obtain ⟨s, r⟩ := x
  cases r with
  | ok a => exact ⟨s, a, rfl⟩
  | error e => cases h
theorem stop_of {σ ε α : Type} {x : σ × Except ε α} (h : isOk x.2 = false) : ∃ s e, x = (s, .error e) := by
  obtain ⟨s, r⟩ := x
  cases r with
  | ok a => cases h
  | error e => exact ⟨s, e, rfl⟩

def c0 : Ctx := small.here hdr0
/-- All of these words issue in `small` together with a guard that no lane meets, or that all meet. -/
def issueAll (is : List Instr) : Bool := is.all (fun i => (i.hdr?).elim false (fun h => issuesB small h i.uses i.words))

theorem test_premises_IntegerArithmetic : issueAll [.iadd hdr0 ⟨false, true, .s32, 7, 3, 9⟩, .isadd hdr0 true ⟨false, false, .s64, 2, 4, 6⟩,
    .idiv hdr0 ⟨true, false, .z64, 2, 4, 6⟩, .imad hdr0 ⟨false, false, .s32, 63, 255, 3, 4⟩] = true := by decide +kernel
theorem test_premises_IntegerShiftsAndMoves : issueAll [.nop hdr0, .shl hdr0 ⟨false, .s32, 3, 4⟩ (.imm 31), .bfx hdr0 ⟨false, false, .s32, 3, 4, 5⟩,
    .movi hdr0 .hi 5 1, .sel hdr0 true .s64 2 4 6 7, .lea hdr0 false true true 7 2 4 6] = true := by decide +kernel
theorem test_premises_BitCounts : issueAll [.popc hdr0 ⟨false, .s64, 2, 4⟩, .clz hdr0 ⟨true, .z32, 2, 4⟩, .brev hdr0 ⟨false, .s32, 63, 0⟩] = true := by
  decide +kernel
theorem test_premises_Predicates : issueAll [.icmp hdr0 false false .s32 .ge .xor 6 3 4 7, .fcmp hdr0 true false true .un .none 0 3 4 0,
    .plop hdr0 0x96 7 0 1 2, .pmovTov hdr0 3 0x7F, .pmovTop hdr0 3 0] = true := by decide +kernel
theorem test_premises_FloatArithmetic : issueAll [.fadd hdr0 ⟨false, false, .rd, true, 3, 4, 5⟩, .fdiv hdr0 ⟨true, false, .ru, false, 3, 4, 5⟩,
      .fmin hdr0 false true false 3 4 5, .fscale hdr0 ⟨false, false, .rz, false, 3, 4, 5⟩] = true
    ∧ [Num.fp32, Num.bf16, Num.fp16, Num.e4m3, Num.e5m2, Num.e2m3, Num.e3m2, Num.e2m1].all (fun f =>
        (f.decode 0).finite && (f.decode 1).finite && decide (1 < 2 ^ f.bits)) = true
    ∧ (Num.fp32.decode 0xFF7FFFFF).finite = true ∧ (Num.fp32.decode 0xFF800000).finite = false := by decide +kernel
theorem test_premises_SignsAndClasses : issueAll [.fabs hdr0 true 3 4, .fsign hdr0 false true .xor 3 4 5, .fclass hdr0 false 3 4] = true
    ∧ (let w : W64 := 0x0BC0000000380003
      w.getLsbD 62 = false ∧ w.extractLsb' 54 8 = 0x2F ∧ w.extractLsb' 0 2 = 3 ∧ decodeIgyan w 0 = .error .operand) := by decide +kernel
theorem test_premises_PackedWords : issueAll [.badd2 hdr0 ⟨false, true, .rn, false, 3, 4, 5⟩,
      .pairWord false 0 true ⟨3, 8, 1, 2, true⟩ ⟨0x41, 12, 5, 6, false⟩] = true
    ∧ issuesB small hdrE (xprUses ⟨false, false, .rn, false, 10, 1, 2, 3⟩ 0x1370C41) 2 = true
    ∧ issuesB small { hdrE with e := false } (xprUses ⟨false, false, .rn, false, 10, 1, 2, 3⟩ 0x1370C41) 2 = true
    ∧ xprLegal ⟨false, false, .rn, false, 10, 1, 2, 3⟩ 0x1370C41 = true
    ∧ (halfSingle hdr0 0x00 1 2 3).isSome = true ∧ (halfSingle hdr0 0x4C 1 2 3).isSome = true := by decide +kernel
theorem test_premises_LossScaling : issueAll [.lscale hdr0 true true ⟨false, .rn, false, 3, 4⟩, .ovf hdr0 .step false 3 0] = true ∧ c0.act ≠ 0 := by
  decide +kernel
/-- Accepted and refused codes at the ends of the ranges; blocks of 16 fit a group of 16 lanes, blocks of 32 do not. -/
theorem test_premises_FormatConversions : issueAll [.cvt hdr0 8 0 ⟨false, .rs, 3, 4, 5⟩, .cvt hdr0 9 0 ⟨false, .rn, 3, 4, 0⟩,
      .cvti hdr0 7 2 ⟨true, .rn, 3, 4, 0⟩, .cvtf hdr0 2 7 ⟨false, .rn, 3, 4, 0⟩, .srnd hdr0 22 ⟨false, .rn, 3, 4, 0⟩,
      .qblk hdr0 5 false .rn 2 4 0, .qblk hdr0 3 true .rn 2 4 0, .dqblk hdr0 10 false .rn 3 4 5, .pack hdr0 10 7 false .rn 3 4 5 0,
      .unpack hdr0 7 1 3 4, .tqnt hdr0 true .k16 2 4, .tqnt hdr0 true .k32 2 4, .tdq hdr0 false 4 true 3 4 5] = true
    ∧ BlkLen.n .k16 = c0.g.width ∧ c0.g.width < BlkLen.n .k32 := by decide +kernel
theorem test_premises_SpecialFunctionWords : issueAll [.rcp hdr0 true 3 4, .tanh hdr0 false 3 4] = true
    ∧ (let a : W32 := 0xBF000000
      a.msb = true ∧ ¬ (a.extractLsb' 23 8 = 255 ∧ a.extractLsb' 0 23 ≠ 0) ∧ a.extractLsb' 23 8 ≠ 0)
    ∧ ((0x7F800001 : W32).extractLsb' 23 8 = 255 ∧ (0x7F800001 : W32).extractLsb' 0 23 ≠ 0)
    ∧ Num.fp32.decode (Num.flushIn Num.fp32 true 0x3F000000) = .fin false 0x800000 0x1000000 ∧ Num.SFn.exact .sin false 0x800000 0x1000000 = false := by
  decide +kernel
/-- Integers at both ends for `EX2`, 9.1 and 3.92; quotients within the format and past it. -/
theorem test_premises_SpecialValues :
    (match Num.fp32.decode 0x42FE0000, Num.fp32.decode 0xC3150000 with
      | .fin false n d, .fin true m e => decide (n = 127 * d ∧ m = 149 * e)
      | _, _ => false) = true
    ∧ (match Num.fp32.decode (Num.flushIn Num.fp32 true 0x4111999A), Num.fp32.decode (Num.flushIn Num.fp32 true 0x407AE148) with
      | .fin false n d, .fin false m e => decide (91 * d ≤ 10 * n ∧ 392 * e ≤ 100 * m)
      | _, _ => false) = true
    ∧ (let v (a : Nat) : Nat := match Num.fp32.decode a with
        | .fin neg n d => if Num.SFn.exact .rcp neg n d then 0 else (Num.fp32.round .rn 0 (Num.SFn.value .rcp neg n d)).1
        | _ => 0
      v 3 = 0x7F800000 ∧ v 0x40400000 = 0x3EAAAAAB) := by decide +kernel
/-- Sub-groups at the group's width and above it; a seed pair with and without reserved bits. -/
theorem test_premises_LaneWords : issueAll [.shfl hdr0 .mir true 4 false 2 4 6, .shfl hdr0 .mir true 5 false 2 4 6, .bcast hdr0 false 0 63 2 4,
      .vote hdr0 true 7 (.set .same 1 (.mask 4)), .vote hdr0 true 7 (.bits 3), .mtch hdr0 false 6 2 4, .elect hdr0 7 (.sub 5),
      .rdlane hdr0 true 63 4 2, .wrlane hdr0 false 3 2 63, .rng hdr0 true true 2 4 6, .drop hdr0 false 3 4 6 8] = true
    ∧ (List.range 6).map (fun n => decide (subWidth c0.g.width (BitVec.ofNat 3 n) ≤ c0.g.width)) = [true, true, true, true, true, false]
    ∧ c0.act ≠ 0 ∧ ((small.sreg [(9, 0x1000000000000)]).here hdr0).g.getS 9 >>> 48 = 1 := by decide +kernel
theorem test_premises_Reductions : issueAll [.redux hdr0 .mins (.mask 4) 3 5, .scan hdr0 .add true (.sub 0) 3 5, .fredux hdr0 .max .rn true (.sub 4) 3 5,
      .fscan hdr0 .min .rn false false (.sub 6) 3 5] = true := by decide +kernel

-- words that reach memory: S4 names the mapped page, S5 an address one byte beyond a word's, S6 the page's last word
def mem0 : State := small.sreg [(4, 0x10000), (5, 0x10001), (6, 0x1FFF0), (9, 0x20000)]
def cm : Ctx := mem0.here hdr0
def lanesIn (as : List (Nat × W64)) : List LaneAt := as.map (fun x => ⟨x.1, x.2, page0.at_ x.2.toNat, page0⟩)
theorem test_mapped : Mapped mem0 0 0 .rw 16 (cm.lanesAt 4 8 0) (lanesIn (cm.lanesAt 4 8 0))
    ∧ Mapped mem0 0 0 .rw 16 (cm.lanesAt 6 8 0) (lanesIn (cm.lanesAt 6 8 0)) := by
  constructor <;> constructor <;> decide +kernel
/-- A page without permissions in the TLB of core 0. -/
def noPerm : TlbE := { page0 with r := false, w := false }
def memNo : State := { mem0 with cores := [(0, { CoreSt.init with tlb := [noPerm] })] }
theorem test_premises_GlobalLoads :
    (∃ pre x post, cm.lanesAt 5 8 0 = pre ++ x :: post ∧ (∀ y ∈ pre, y.2.toNat % 4 = 0) ∧ x.2.toNat % 4 ≠ 0)
    ∧ (tlbFind (memNo.core 0).tlb (memNo.ctxAsid 0) 0x10000 = some noPerm ∧ noPerm.r = false ∧ noPerm.w = false)
    ∧ cm.g.fifoByte false 0x200000 = none ∧ (mem0.core 0).findLine (0x200000 / 128) = none
    ∧ ({ cm.g with fifo := [.global .team false ⟨0, 0, false⟩ ⟨0, []⟩ [⟨0x200000, 7⟩]] } : Group).fifoByte false 0x200000 = some 7
    ∧ (let i : Instr := .ldg hdr0 ⟨.b128, .team, .acq, .none, 8, 4, 8, 0⟩
      let ls := lanesIn (cm.lanesAt 4 8 0)
      issuesB mem0 hdr0 i.uses 1 = true ∧ cm.act ≠ 0 ∧ cm.g.fifoUnknown ls 16 = false ∧ mem0.bankFull 0 (mem0.l1Lines cm.g .team .none 16 ls) = none
        ∧ (mem0.readLanes cm.g .team .none 16 ls).2.2 = none
        ∧ isOk (mem0.pass (mem0.readLanes cm.g .team .none 16 ls).1 false) = true) := by
  refine ⟨⟨[], (0, 0x10001), (cm.lanesAt 5 8 0).tail, by decide +kernel, by simp, by decide⟩, ?_⟩
  decide +kernel
/-- A lane of a page of no region, one of a region's page where no region is, and a copy two versions old; a word that the L1
line holds under the group's slot and key. -/
theorem test_premises_VersionsAndCopies :
    let vr : TlbE := { page0 with vr := true }
    let m (e : TlbE) : State := { mem0 with cores := [(0, { CoreSt.init with tlb := [e] })] }
    let on : State := { m vr with mmio := (((mem0.setReg (vrCfgAddr 255) 0x100000001).setReg (vrBaseAddr 255) 0x10000).setReg (vrVerAddr 255) 2).mmio }
    let l0 : L1Line := ⟨0, 0, 0x4000, 0, 0, 0xF, 0, .team, 0, 0⟩
    page0.vr = false ∧ (m vr).regionOf 0 0x10000 = none ∧ on.regionOf 0 0x10000 = some 255
    ∧ cm.g.vcur ≠ on.vrVer 255 ∧ cm.g.vcur ≠ on.vrVer 255 - 1
    ∧ issuesB on hdr0 (Instr.ldv hdr0 ⟨.w32, .team, .rlx, .none, 8, 4, 8, 0⟩).uses 1 = true ∧ on.permit .r vr = none
    ∧ (({ mem0 with cores := [(0, { CoreSt.init with lines := [l0] })] } : State).core 0).findLine 0x4000 = some l0
    ∧ l0.slot = cm.g.ctx ∧ l0.key = page0.key ∧ (List.range 4).all (fun i => l0.has i) = true ∧ (mem0.clus 0).lines = [] := by decide +kernel
theorem test_premises_GlobalStores : issuesB mem0 hdr0 (Instr.stg hdr0 ⟨.w32, .device, .rel, .nol1, 8, 4, 8, 0⟩).uses 1 = true
    ∧ issuesB mem0 hdr0 (Instr.stws hdr0 .w32 .team .addb 8 4 8 6).uses 1 = true ∧ mem0.relReady 1 cm.g .device = true
    ∧ Mapped mem0 0 0 .w 8 [(lowLane cm.act, cm.g.getS 6)] (lanesIn [(lowLane cm.act, cm.g.getS 6)]) := by
  refine ⟨by decide +kernel, by decide +kernel, by decide +kernel, ?_⟩
  constructor <;> decide +kernel
/-- The last words of the scratchpad region, and constants at the end of `PARAMLEN`, unaligned. -/
theorem test_premises_CoreMemory :
    let s := small.sreg [(4, 4088), (5, 4), (6, 6)]
    let c := s.here hdr0
    s.team c.g.tid = some team0 ∧ s.grid team0.grid = some grid0
    ∧ (∀ x ∈ c.lanesAt 4 8 0, x.2.toNat % 8 = 0 ∧ x.2.toNat + 8 ≤ team0.scratch * 1024)
    ∧ issuesB s hdr0 (Instr.lds hdr0 ⟨.w64, true, .acq, 8, 4, 8, 0⟩).uses 1 = true ∧ s.bankFull 0 [127] = none
    ∧ issuesB s hdr0 (Instr.sts hdr0 ⟨.w64, false, .rel, 8, 4, 8, 0⟩).uses 1 = true ∧ s.relReady 1 c.g .team = true
    ∧ issuesB s hdr0 (Instr.ldc hdr0 false .z32 8 5 0).uses 1 = true
    ∧ (c.g.getS 5).toNat % 4 = 0 ∧ (c.g.getS 6).toNat % 4 ≠ 0
    ∧ ({ team0 with poison := [(swizzle team0.tswz 4088 / 32, true)] } : Team).poison.get false (swizzle team0.tswz 4088 / 32) = true
    ∧ c.g.fifoByte true (swizzle team0.tswz 4088) = none ∧ s.heldBack (s.release c.g .team) false = false := by decide +kernel
/-- `WAITV` on a word that holds and one that does not, and a split that waits. -/
def waiting0 : State := { mem0.own (fun g => { g with splits := g.splits.map (fun x => { x with st := .waiting (.word 0x10000 .ne false .device 2 0 0 0) }) }) with
  ev := { EvIn.none with unit := 1, sub := 0 }, now := 1024 }
theorem test_premises_WaitsAndCacheWords :
    let xs := lanesIn [(lowLane cm.act, cm.g.getS 4)]
    issuesB mem0 hdrE (Instr.waitv hdrE .eq false .device 2 4 3).uses 1 = true ∧ cm.g.fifoUnknown xs 8 = false
    ∧ (mem0.readLanes cm.g .device .none 8 xs).2.2 = none ∧ natOf ((mem0.readLanes cm.g .device .none 8 xs).2.1.flatMap (fun x => x.2)) = 0
    ∧ mem0.heldBack (mem0.readLanes cm.g .device .none 8 xs).1 true = false ∧ waiting0.ev.on = false ∧ 0 + 1024 ≤ waiting0.now
    ∧ (waiting0.grp 1).map (fun g => g.halted) = some false ∧ ((waiting0.grp 1).bind (fun g => g.split? 0)).map (fun x => x.st) = some (.waiting (.word 0x10000 .ne false .device 2 0 0 0))
    ∧ issuesB mem0 hdr0 (Instr.prf hdr0 2 4 8 0).uses 1 = true ∧ mem0.relReady 1 cm.g .system = true
    ∧ issuesB mem0 hdr0 (Instr.cctl hdr0 .dis 4 4).uses 1 = true ∧ (cm.g.getS 4).toNat + (cm.g.getS 4).toNat ≤ 2 ^ 52
    ∧ (match (mem0.rangePages 0 0 ((cm.g.getS 4).toNat / 65536 + 2) 0x10000 0x20000).2 with
        | .ok l => l.length == 1 && l.all (fun p => p.2.2.w)
        | .error _ => false) = true
    ∧ (match (memNo.rangePages 0 0 2 0x10000 0x20000).2 with
        | .ok l => l.any (fun p => !p.2.2.w)
        | .error _ => false) = true
    ∧ 2 ^ 52 < (cm.g.getS 4).toNat + 2 ^ 52 := by decide +kernel

/-- A step's input: the unit and the index it names. -/
def State.told (s : State) (u i : Nat) : State := { s with ev := { EvIn.none with unit := u, idx := i } }
def issuesAllIn (s : State) (is : List Instr) : Bool := is.all (fun i => (i.hdr?).elim false (fun h => issuesB s h i.uses i.words))
def la (l : Nat) (v x : W64) : AtLane := ⟨l, BitVec.ofNat 64 (0x10000 + 4 * l), 0x200000 + 4 * l, page0.attr, v, x⟩

/-- Atomics at home on the first word of the page, and reductions that find it free of poison. -/
theorem test_premises_AtomicOperations :
    let copy : CLine := ⟨0, 0, 0x4000, 0, 0xF, 0, 0⟩
    (({ mem0 with clusters := [(0, { ClusterSt.init with lines := [copy, { copy with line := 0x4001 }] })] } : State).clus 0).lines.map (fun l => l.line)
      = [(la 0 0 0).addr / 128, (la 0 0 0).addr / 128 + 1]
    ∧ ({ mem0 with poison := [(0x10000, true)] } : State).placePoison 0 0 page0.attr .device 0x200000 = true
    ∧ (mem0.core 0).findLine ((la 0 0 0).addr / 128) = none ∧ (List.range 8).all (fun i => !mem0.homePoison (0x200000 + i)) = true
    ∧ issuesAllIn mem0 [.red hdr0 .add false .device .rel 4 8 12, .redf hdr0 .f32 .add .device .rlx 4 8 12] = true
    ∧ mem0.relReady 1 cm.g .device = true ∧ cm.act ≠ 0 ∧ (∀ x ∈ lanesIn (cm.lanesAt 4 8 0), mem0.homePoison x.ca = false) := by decide +kernel
theorem test_premises_Atomics :
    issuesAllIn mem0 [.atom hdr0 .dec ⟨true, .device, .ar, 20, 4, 8, 12⟩, .atomf hdr0 .bf16x2 .max .team .rlx 20 4 8 12,
      .cas hdr0 ⟨true, .system, .rel, 20, 4, 8, 12⟩, .red hdr0 .add false .device .acq 4 8 12, .redf hdr0 .f32 .add .device .ar 4 8 12] = true
    ∧ cm.g.fifo = [] ∧ mem0.relReady 1 cm.g .system = true ∧ mem0.bankFull 0 (bankLines ((lanesIn (cm.lanesAt 4 8 0)).map (·.ca))) = none
    ∧ ([.int .dec, .fp .bf16x2 .max, .cas] : List AtOp).all (fun o => (mem0.atomLanes 0 0 .team o false [la 0 1 0, la 1 2 0]).2.all (fun r => r.2.isSome))
      = true
    ∧ (let s := small.sreg [(4, 4088)]
      let c := s.here hdr0
      issuesAllIn s [.atoms hdr0 (.int .add) true false .ar 20 4 8 12, .cass hdr0 true true .rlx 20 4 8 12] = true
      ∧ (∀ x ∈ c.lanesAt 4 8 0, x.2.toNat % 8 = 0 ∧ x.2.toNat + 8 ≤ team0.scratch * 1024) ∧ s.bankFull 0 [127] = none
      ∧ (team0.atomLanes (.int .add) true [⟨0, 4088, 4088, ⟨0, 0, false⟩, 5, 0⟩, ⟨1, 4088, 4088, ⟨0, 0, false⟩, 5, 0⟩]).2.map (fun r => r.2) = [some 0, some 5]) := by
  decide +kernel
/-- Group 1 with each kind of FIFO head, a result to write, and a request in a bank's queue. -/
theorem test_premises_MemorySteps :
    let pd : Pend := ⟨300, 0, [⟨.v, 1⟩], false, false, 0, [.v 1 0 5], none, 0x10000, 0⟩
    let w (f : FifoE) : State := (small.own (fun g => { g with fifo := [f] })).told 1 0
    let l0 : L1Line := ⟨0, 0, 0x4000, 0, 0, 0xF, 0, .team, 0, 0⟩
    let bs : List StByte := [⟨0x200000, 7⟩, ⟨0x200001, 8⟩]
    pd.lines = 0
    ∧ ({ small with traffic := [(3, [⟨1, 0, 0, 0, 10, 0, 3, 3, .read, 0, false⟩])] } : State).requestsOpen pd.tick = true
    ∧ ((group0 0).splits.map (fun x => x.open_)) = [true]
    ∧ (let s := (small.own (fun g => { g with pend := [pd, { pd with id := 301, bad := some ⟨fcMemory, 0, 0x10000, 3⟩ }] })).told 1 300
      s.requestsOpen pd.tick = false ∧ (s.raiseLate 1 0 ⟨fcMemory, 0, 0x10000, 3⟩ 0x10000).isSome = true)
    ∧ (let s := (small.own (fun g => { g with pend := [pd] })).told 1 300
      s.remotes = [] ∧ (s.grp 1).bind (fun g => g.pend.find? (fun p => p.id == 300)) = some pd ∧ (s.grp 1).map (fun g => g.sleeping) = some false)
    ∧ (let s := { small with cores := [(0, { CoreSt.init with bankq := [(31, [⟨some 1, some 300⟩])] })] }.told 0 31
      s.grp 1 = some (group0 0) ∧ (s.core 0).bankq.get [] 31 = [⟨some 1, some 300⟩])
    ∧ (let s := { small with cores := [(0, { CoreSt.init with bankq := [(31, List.replicate 16 ⟨none, none⟩)] })] }.told 0 31
      s.bankFull 0 [31] = some 31 ∧ s.bankFull 0 [30] = none ∧ ((s.core 0).bankq.get [] 31).map (fun r => r.gid) = List.replicate 16 none)
    ∧ (let s := (small.setReg (l2RegAddr 0 0) 0x8003).setBucket (sliceOf 0x200000) 0 0 0
      s.heldBack (s.trafficks 0 0 .write page0.attr [0x200000]) false = true ∧ small.heldBack (small.trafficks 0 0 .write page0.attr [0x200000]) false = false)
    ∧ (let s := w (.scratch [⟨0, 1⟩, ⟨4095, 2⟩])
      s.team 100 = some team0 ∧ s.bankFull 0 [team0.line 0, team0.line 4095] = none)
    ∧ (bs.map (·.addr)).Nodup ∧ (∀ b ∈ bs, ((w (.global .device true page0.attr ⟨0, []⟩ bs)).core 0).findLine (b.addr / 128) = none)
    ∧ (w (.global .device true page0.attr ⟨0, []⟩ bs)).bankFull 0 (bankLines (bs.map (·.addr))) = none
    ∧ (({ w (.global .team false page0.attr ⟨0, []⟩ bs) with cores := [(0, { CoreSt.init with lines := [l0] })] } : State).core 0).findLine 0x4000 = some l0
    ∧ (({ small with poison := [(0x10000, true)] } : State).atomLanes 0 0 .device (.int .add) false [la 0 1 0]).2 = [(la 0 1 0, none)]
    ∧ ((w (.red (.int .add) false .device ⟨0, 0x10000⟩ ⟨0, []⟩ [la 0 1 0])).atomLanes 0 0 .device (.int .add) false [la 0 1 0]).2 = [(la 0 1 0, some 0)]
    ∧ (let s := w (.signal .system none ⟨0, 0x10000⟩ ⟨0, []⟩ (la 0 0 0))
      s.remoteOpen 1 = false ∧ (s.grp 1).map (fun g => g.cc) = some 0
      ∧ (((s.updGrp 1 (fun g => { g with fifo := [] })).release (group0 0) .system).atomLanes 0 0 .system (.int .exch) true
          [{ la 0 0 0 with v := 1 }]).2.all (fun r => r.2.isSome) = true) := by decide +kernel
/-- Words under a guard no lane meets; a register past the budget, a word under a window, a result awaited. -/
theorem test_premises_MaskedAndChecked :
    let h : Hdr := ⟨false, 7, true, false, 0⟩
    let win (n : Nat) : State := small.own (fun g => { g with pend := [⟨300, 0, [⟨.v, 3⟩], false, false, 0, [], none, 0x10000, 0⟩]
                                                              splits := g.splits.map (fun x => { x with wins := [⟨300, n, [⟨.v, 3⟩]⟩] }) })
    issuesAllIn mem0 [.ldg h ⟨.b128, .team, .acq, .none, 8, 4, 8, 0⟩, .trap h 5, .csrw h true 4 0x12, .accq h 2 false .rn false 1 4 6 8] = true
    ∧ (let past (i : Instr) : Bool := match i with
        | .mma _ _ tile .. => decide (team0.acc ≤ tile.toNat)
        | .gang _ imm => !(gangList imm).contains (mem0.here h).g.gi
        | _ => false
      past (.mma h true 15 1 3 2 4) = true ∧ past (.gang h 0x212) = true ∧ past (.mma h true 3 1 3 2 4) = false)
    ∧ (mem0.here h).g.width < subWidth (mem0.here h).g.width 5 ∧ ¬ (mem0.here h).g.width < subWidth (mem0.here h).g.width 4
    ∧ (mem0.here h).act = 0 ∧ (∃ u ∈ (Instr.iadd hdr0 ⟨false, false, .s32, 64, 3, 4⟩).uses, u.within 64 = false)
    ∧ ((win 1).here hdr0).sp.violates (wordNames hdr0 (Instr.iadd hdr0 ⟨false, false, .s32, 63, 3, 4⟩).uses) = true
    ∧ ((win 0).here hdr0).sp.blocked ((win 0).here hdr0).g 1 = [300] := by decide +kernel
/-- `CPY` at the end of the scratchpad and one byte past it; `OFFL` of one page. -/
theorem test_premises_CopyCommands :
    let s := (small.sreg [(2, 4080), (3, 4081), (4, 0x10000), (5, 9), (6, 0x1000000000000), (7, 0x10000), (8, 0x20000)]).own
      (fun g => g.setD 1 (BitVec.ofNat 128 (15 * 2 ^ 24)))
    let c := s.here hdr0
    issuesAllIn s [.cpy hdr0 .g2s false 2 4 1 5, .offl hdr0 false 7 8 7 5, .rtrn hdr0 true 7 8 7 5] = true ∧ c.act ≠ 0 ∧ s.team 100 = some team0
    ∧ (c.g.getS 2).toNat + 15 < team0.scratch * 1024 ∧ team0.scratch * 1024 ≤ (c.g.getS 3).toNat + 15
    ∧ s.present (.engine 0) = true ∧ s.copyEngine 0 = some 0 ∧ c.g.drCp < 65535 ∧ (s.engine 0).queue.length < 64 ∧ s.relReady 1 c.g .device = true := by
  decide +kernel
/-- A transfer of the longest length and of 0 bytes; starts on processors 0 and 15. -/
theorem test_premises_FabricCommands :
    let s := small.sreg [(2, 0x40000), (3, 0x10000), (4, 0xFFFFFFFF), (5, 0x20000), (6, 0x10080), (8, 0xF0000), (10, 0x10000), (11, 7), (12, 0xFFFFFFFFFFFFF), (14, 0x10000000000000)]
    let c := s.here hdr0
    let m : RMods := ⟨false, false, false⟩
    issuesAllIn s [.putr hdr0 m 2 3 4 5, .getr hdr0 m 2 3 4 5, .puts hdr0 .inc m 2 3 4 5, .append hdr0 20 10 8,
        .ratom hdr0 .cas true .rel 20 10 8 12, .coll hdr0 false 3 4 8, .layx hdr0 true 6 8] = true ∧ c.act ≠ 0
    ∧ (c.g.getS 12).toNat < 2 ^ 52 ∧ 2 ^ 52 ≤ (c.g.getS 14).toNat
    ∧ (∃ pre x post, c.lanesAt 14 8 0 = pre ++ x :: post ∧ pre = [] ∧ x.2.toNat % 8 = 0 ∧ 2 ^ 52 ≤ x.2.toNat)
    ∧ (c.g.getS 4).toNat < 2 ^ 32 ∧ c.g.getS 63 = 0 ∧ (c.g.getS 10).toNat % 32 = 0 ∧ s.present (.fx 15) = true ∧ fld (c.g.getS 8) 19 16 = 15
    ∧ c.g.drRm < 65535 ∧ s.relReady 1 c.g .system = true ∧ (s.fx 15).queue.length < 16 := by
  refine ⟨by decide +kernel, by decide +kernel, by decide +kernel, by decide +kernel, ⟨[], _, _, rfl, rfl, by decide +kernel, by decide +kernel⟩, ?_⟩
  decide +kernel
def ent0 : Latch := ⟨300, 0x10000, 1, 0, true, 0, 0x102, 0, 1, 1, 4, 0x11, 0, BitVec.ofNat 128 (8 * 2 ^ 73 + 3 * 2 ^ 60)⟩
/-- A legal product; a gang of two whose other group waits, and whose other group has its entry; a busy batch. -/
theorem test_premises_MatrixWords :
    let s := small.sreg [(2, 0x40101), (3, 0x100), (4, 0x11), (6, 0x80)]
    let c := s.here hdr0
    let w2 := { s with groups := s.groups.mapV (fun (g : Group) => if g.gi = 1 then { g with latch := some ent0, gang := 0x102 } else { g with gang := 0x102 }) }
    issuesAllIn s [.gang hdr0 3, .gangClr hdr0, .mma hdr0 true 0 1 3 2 4, .mfence hdr0 7, .mwait hdr0 0, .mwaitAll hdr0, .accz hdr0 3,
        .accwr hdr0 7 0 8 6, .accrd hdr0 7 8 0 6, .accq hdr0 1 false .rn false 0 3 4 6, .shape hdr0 1 2 3] = true ∧ s.team 100 = some team0 ∧ c.act ≠ 0
    ∧ c.g.latch = none ∧ c.g.gang.toNat % 8 = 0 ∧ c.g.drained = true ∧ c.g.batches.length < 8 ∧ s.tileBusy c.g 0 = false ∧ c.g.matrixFault (.before 8) = false
    ∧ (let f : Group := { c.g with
          pendq := [⟨fcMemory, 0, 0, 0x10000, 1, .matrix 2 (some 3)⟩], batches := [⟨3, [7]⟩], nextBatch := 4, qwrites := [⟨some 3, 2, [0x40000]⟩] }
      f.matrixFault (.before 4) = true ∧ f.matrixFault (.before 3) = false ∧ f.matrixFault (.tile 2) = true ∧ f.matrixFault (.tile 1) = false
      ∧ ({ f with pendq := f.pendq ++ [⟨fcMatrixReset, 0, 0, 0, 0, .reset false⟩] } : Group).matrixFault (.tile 1) = true
      ∧ f.batches.any (fun x => decide (x.num < 4)) = true ∧ f.batches.all (fun x => decide (3 ≤ x.num)) = true ∧ 3 < f.nextBatch ∧ f.nextBatch ≤ 3 + 16)
    ∧ { ent0 with n := 8 }.n ≠ ent0.n ∧ c.g.pendq.length < 8
    ∧ (w2.here hdr0).g.gang.toNat % 8 ≠ 0 ∧ gangList 0x102 = [0, 1] ∧ (gangList 0x102).map (w2.groupOf 100) = [some 1, some 2]
    ∧ w2.groupOf 100 0 = some 1 ∧ ((w2.grp 2).bind (fun g => g.latch)) = some ent0 ∧ ent0.illegal 0x40101 4 = false ∧ ent0.badFormat = false
    ∧ ent0.misaligned = false := by decide +kernel
-- ## Words and steps that a regulator holds back, that wait for a walk or a key, and the caches that atomics reach

/-- Slot 0's core regulator of the slices, with `CAP` and no tokens; a dirty line of slot 0 at `TEAM` scope in core 0's L1. -/
def dirty0 : L1Line := ⟨0, 0, 0x4000, 0, 0, 0xF, 1, .team, 7, 0⟩
def capped (k : Nat) (s : State) : State :=
  (List.range 256).foldl (fun s i => s.setBucket i 0 k 0) (s.setReg (l2RegAddr 0 k) 0x8003)
def heldS : State := capped 0 { mem0 with cores := [(0, { CoreSt.init with tlb := [page0], lines := [dirty0] })] }
/-- A release, a store of `TOKB`, a save and a checkpoint's release that are held back, and that pass without the regulator. -/
theorem test_premises_HeldBack :
    heldS.relReady 1 cm.g .device = true ∧ isOk (heldS.pass (heldS.release cm.g .device) false) = false
    ∧ isOk (mem0.pass (mem0.release cm.g .device) false) = true
    ∧ (let s := capped 0 mem0
      let x : LaneAt := ⟨0, 0x10000, 0x200000, page0⟩
      isOk (s.pass (s.tokStore cm [x] (s.tokRecord cm.g 1 2)) false) = false ∧ isOk (mem0.pass (mem0.tokStore cm [x] (mem0.tokRecord cm.g 1 2)) false) = true)
    ∧ isOk (heldS.pass heldS.releaseAll false) = false ∧ isOk (small.pass small.releaseAll false) = true := by decide +kernel
/-- Pages that a `PRF` or a `CCTL` waits for, and pages at hand. -/
theorem test_premises_PageWaits :
    let w : State := { mem0 with keyLoad := [page0.key] }
    let t : State := { mem0 with keyLoad := [mem0.ctxTkey 0] }
    isOk (mem0.prefetchPages 0 0 (cm.lanesAt 4 8 0)).2 = true ∧ isOk (w.prefetchPages 0 0 (cm.lanesAt 4 8 0)).2 = false
    ∧ isOk (t.prefetchPages 0 0 (cm.lanesAt 9 8 0)).2 = false ∧ isOk (t.rangePages 0 0 2 0x20000 0x20080).2 = false
    ∧ mem0.placePoison 0 0 page0.attr .device 0x200000 = false
    ∧ (let d : State := { heldS with poison := [(0x10000, true)] }
      d.placePoison 0 0 page0.attr .device 0x200000 = true ∧ d.mayClear cm.g .device ⟨0, 0x10000, 0x200000, page0⟩ = true) := by decide +kernel
/-- An `LDV` of lanes that all lie in no region's page: no copy is left to translate. -/
theorem test_no_copy : Mapped mem0 0 0 .r 4 [] [] := by constructor <;> simp
/-- A word in the L1, in the cluster cache, and in neither. -/
theorem test_premises_AtomicsInCaches :
    let l : L1Line := ⟨0, 0, 0x4000, 0, 0, 0xF, 0, .team, 0, 0⟩
    let copy : CLine := ⟨0, 0, 0x4000, 0, 0xF, 0, 0⟩
    let s1 : State := { mem0 with cores := [(0, { CoreSt.init with tlb := [page0], lines := [l] })] }
    let s2 : State := { mem0 with clusters := [(0, { ClusterSt.init with lines := [copy] })] }
    (s1.core 0).findLine 0x4000 = some l ∧ page0.attr.cp ≠ 2 ∧ (List.range 8).all (fun i => l.has i) = true ∧ l.poison.getLsbD 0 = false
    ∧ (s2.core 0).findLine 0x4000 = none ∧ (s2.clus 0).find 0 0x4000 = some copy ∧ copy.valid.getLsbD 0 = true ∧ copy.poison.getLsbD 0 = false
    ∧ (mem0.clus 0).lines = [] ∧ mem0.homePoison 0x200000 = false
    ∧ ([.int .add, .cas] : List AtOp).all (fun o => (s1.atomGlobal 0 0 .team o false (la 0 1 0)).2.isSome
      && (s2.atomGlobal 0 0 .cluster o false (la 0 1 0)).2.isSome && (mem0.atomGlobal 0 0 .cluster o true (la 0 1 0)).2.isSome) = true := by
  decide +kernel
/-- R266: 1.0 + 2.0 in FP32, in BF16 pairs with -0.0 and 1.0, and the larger of 1.0 and a NaN. -/
theorem test_float_atomics :
    AtOp.new (.fp .f32 .add) false 0x3F800000 0x40000000 0 = 0x40400000
    ∧ AtOp.new (.fp .bf16x2 .add) false 0x80003F80 0x3F804000 0 = 0x3F804040
    ∧ AtOp.new (.fp .f32 .max) false 0x3F800000 0x7FC00000 0 = 0x3F800000 := by decide +kernel
/-- `CSRR` of 0x15, which no chapter assigns, and of a lane's CSR into `S5`; `CSRW` of 0x22, which may only be read. -/
theorem test_premises_AbsentCsrs :
    let r (n : BitVec 64) : W64 := 0x3B80000000380000 ||| n
    let w (n : BitVec 64) : W64 := 0x3BC0000000380000 ||| n
    (r 0x15).getLsbD 62 = false ∧ (r 0x15).extractLsb' 54 8 = 0xEE ∧ (r 0x15).extractLsb' 0 12 = 0x15
    ∧ (r 0x1010).extractLsb' 0 12 = 0x10 ∧ (r 0x1010).getLsbD 12 = true ∧ (w 0x1022).extractLsb' 54 8 = 0xEF ∧ (w 0x1022).extractLsb' 0 12 = 0x22
    ∧ (w 0x12).extractLsb' 0 12 = 0x12 ∧ (w 0x12).getLsbD 12 = false := by decide +kernel
/-- Group 1's `VCUR` against the versions before and after it; partition 2 reads it, partition 3 nothing. -/
theorem test_premises_VersionOrder :
    (∃ x ∈ small.groups, x.2.vpart = 2) ∧ (∀ x ∈ small.groups, x.2.vpart ≠ 3) ∧ small.saved = []
    ∧ (∀ x ∈ small.groups, (x.2.vcur - 0).toNat < 2 ^ 31) ∧ small.minv 3 = small.vpv 3 := by decide +kernel
/-- Requests that find fewer tokens than their bytes. -/
theorem test_premises_Regulated :
    let s := capped 4 small
    let t := s.engTraffic 0 2 .write [(0x200000, page0.attr)]
    s.posts = [] ∧ t.traffic ≠ s.traffic ∧ s.ctxEn 0 = true ∧ 0 ∉ s.ended
    ∧ ((s.newRequests t true).map (fun x => (x.2.cls, x.2.slot, regOf x.1 x.2))) = [(2, 0, 4)]
    ∧ fld (s.reg (l2RegAddr 0 4)) 1 0 = 3 ∧ (s.newRequests t true).all (fun x => decide (s.bucket x.1 0 4 < 65536 * x.2.cost x.1)) = true := by
  decide +kernel
def cc0 (op : CopyOp) (n : Nat) : CopyCmd := ⟨op, true, 0, 0, some 100, 0, .group 1, 0x10000, 1, 0, false, [], n, [], none, []⟩
def ph0 : Phaser := ⟨0, 4, 2, 1, 0, 0, none, ⟨[7], false⟩, [(3, ⟨[8], true⟩)]⟩
/-- Phaser 1023: a member that arrives, a waiter, an engine's count and fault; the join of an unbound phaser. -/
theorem test_premises_PhaserWords :
    let s := { small.sreg [(2, 1023), (3, 4)] with phasers := [(1023, ph0)], phMsgs := [⟨1023, 0, 64, none, .copy, 7, .ended, 0, 0, 0, 0, Wrote.none⟩] }
    let m := s.own (fun g => { g with members := [⟨1023, .aw, 4⟩] })
    let z := m.own (fun g => { g with splits := g.splits.map (fun x => { x with st := .asleep (.phwait 1023 3 5 .device) }) })
    issuesAllIn s [.phjoin hdr0 .aw 4 2, .phdrop hdr0 2, .pharr hdr0 .device 4 2 3, .phexp hdr0 2 3, .phwait hdr0 .team 4 2 3] = true
    ∧ (s.here hdr0).act ≠ 0 ∧ s.phaser 1023 = some ph0 ∧ s.present (.cluster 0) = true ∧ (s.here hdr0).g.member 1023 = none
    ∧ ((m.here hdr0).g.member 1023).map (fun x => x.ap) = some ph0.phase ∧ m.hasMember 1023 = true ∧ s.phMsgs[0]?.map (fun x => x.slot) = some ph0.owner
    ∧ m.relReady 1 (m.here hdr0).g .device = true ∧ ((z.grp 1).bind (fun g => g.split? 0)).map (fun x => x.st) = some (.asleep (.phwait 1023 3 5 .device))
    ∧ (ph0.phase - 3).toNat = 1 ∧ 2 ^ 31 ≤ (ph0.phase - 5).toNat
    ∧ ({ ph0 with pend := 0 } : Phaser).test.phase = 5 ∧ ph0.test = ph0 ∧ (ph0.counted 4).all = true ∧ (ph0.counted 4).secs = [8] ∧ (4 - (3 : W32)).toNat < 2 ^ 31
    ∧ ({ ph0 with flt := some ⟨fcPhaser, 6, 0, 0, 0, .other⟩ } : Phaser).flt.isSome = true
    ∧ ((z.own (fun g => { g with hm := true })).grp 1).map (fun g => g.tlane.toNat / 65536) = some 0
    ∧ s.ecmds.find? 7 = none ∧ 64 < { cc0 (.cpy .g2g 0 0 0) 128 with started := true }.left := by decide +kernel
/-- A new round, and a round of two that group 2 has joined. -/
theorem test_premises_Barriers :
    let s := small.sreg [(2, 2)]
    let r : Round := ⟨2, [2]⟩
    let s2 := { s with teams := [(100, { team0 with rounds := [(5, r)] })] }
    issuesAllIn s [.bar hdr0 5 2, .bar hdr0 0 63] = true ∧ issuesAllIn s2 [.bar hdr0 5 2] = true ∧ s.team 100 = some team0 ∧ (s.here hdr0).act ≠ 0
    ∧ team0.rounds.find? 5 = none ∧ (s.here hdr0).g.drained = true ∧ (s2.team 100).bind (fun t => t.rounds.find? 5) = some r
    ∧ 2 ≤ 1 + ((s.teamGroups 100).filter (fun j => !([1] : List Nat).contains j)).length := by decide +kernel
theorem test_premises_QuietPoints :
    let s := small.sreg [(2, 0x10000), (3, 64)]
    let c := s.here hdr0
    let z := { small with fallow := [(0, [⟨0x10000, 64, 9, 7⟩])], mmio := ((small.setReg (rrAddr 0 0) 0x10004).mmio), graces := [(6, ⟨0, []⟩)] }.told 0 0
    issuesAllIn s [.drain hdr0 7, .quies hdr0, .grace hdr0, .fallow hdr0 2 3 63] = true ∧ c.act ≠ 0 ∧ c.g.drCp = 0 ∧ c.g.hasFault (drainKinds 7) = false
    ∧ c.g.drained = true ∧ (s.fallow.get [] 0).length < 4096 ∧ z.graces.find? 7 = none ∧ fld (z.reg (rrAddr 0 0)) 4 0 = 4
    ∧ fld (z.reg (rrAddr 0 0x18)) 16 16 = 0 ∧ z.graces.find? 6 = some ⟨0, []⟩ ∧ z.groups.sorted = true
    ∧ isOk (z.engWrite 3 0 0 (fld (z.reg (rrAddr 0 0)) 51 12 * 4096) (List.replicate 32 0)).2 = true := by decide +kernel
/-- Region 255, enabled for slot 0 with no reader. -/
theorem test_premises_VersionsAndTokens :
    let s := { small.sreg [(2, 255), (3, 1), (4, 15), (5, 0x10000)] with
      mmio := ((small.setReg (vrCfgAddr 255) (BitVec.ofNat 64 (2 ^ 32 + 1))).mmio), trial := some ⟨false, 100⟩ }
    let c := s.here hdr0
    let z := (s.own (fun g => { g with splits := g.splits.map (fun x => { x with st := .waiting (.publish 255 1 false) }) })).told 1 0
    issuesAllIn s [.vpub hdr0 false 2 3, .vreq hdr0 true 6 63, .vreq hdr0 false 6 4, .tokb hdr0 7 5 2 3, .prog hdr0 7] = true ∧ c.act ≠ 0
    ∧ s.vrEn 255 = true ∧ s.vrSlot 255 = 0 ∧ s.vrVer 255 + 1 = 1 ∧ s.pubReady 255 1 = true ∧ c.g.drained = true ∧ s.team 100 = some team0
    ∧ fld (s.reg (vrCfgAddr 255)) 32 32 = 1 ∧ fld (s.reg (vrCfgAddr 255)) 31 0 ≠ 0
    ∧ fld ((s.setReg (vrCfgAddr 255) 0x100000000).reg (vrCfgAddr 255)) 31 0 = 0
    ∧ s.relReady 1 c.g .device = true ∧ s.heldBack (s.release c.g .device) false = false
    ∧ tlbFind (s.core 0).tlb (s.ctxAsid 0) 0x10000 = some page0 ∧ s.permit .w page0 = none
    ∧ ((z.grp 1).bind (fun g => g.split? 0)).map (fun x => x.st) = some (.waiting (.publish 255 1 false)) := by decide +kernel
/-- Trough 255 of size 2 ^ 4: empty, with a record, with a sleeper of group 2. -/
theorem test_premises_Troughs :
    let on := { small with mmio := (small.setReg (trCfgAddr 255) 0x100000004).mmio }
    let has (t : TroughSt) : State := { on with troughs := [(255, t)] }
    issuesAllIn on [.trpop hdr0 8 255, .trpsh hdr0 8 255] = true ∧ (on.here hdr0).act ≠ 0 ∧ on.trEn 255 = true ∧ on.trSlot 255 = 0
    ∧ fld (on.reg (trCfgAddr 255)) 3 0 = 4 ∧ (on.here hdr0).g.drained = true
    ∧ ((has ⟨[[1, 2, 3, 4, 5, 6, 7, 8]], [], false, true⟩).trough 255).recs ≠ [] ∧ ((has ⟨[], [(2, 0)], false, false⟩).trough 255).sleepers = [(2, 0)]
    ∧ ((small.grp 2).bind (fun g => g.split? 0)).isSome = true := by decide +kernel
/-- The stack empty, with one region of all 16 lanes, and full. -/
theorem test_premises_Branching :
    let rc : Rec := ⟨0x10000, 0xFFFF, 0, 0, 0⟩
    let s := (vlanes 3 [8, 16] (small.sreg [(2, 0x10000)]))
    let r1 := s.own (fun g => { g with stack := [rc] })
    issuesAllIn s [.bra hdr0 0x7FFFFF, .brad hdr0 5 6, .brk hdr0 0, .call hdr0 1 9, .callR hdr0 2 9, .ret hdr0 2, .brx hdr0 2 3, .join hdr0] = true
    ∧ (s.here hdr0).g.stack = [] ∧ (s.here hdr0).g.freeIdx.isSome = true ∧ rc.stands = true ∧ rc.releasable = false
    ∧ ((r1.here hdr0).g.chain (lowLane (r1.here hdr0).sp.mask))[0]? = some rc ∧ issuesAllIn r1 [.join hdr0, .brk hdr0 0] = true
    ∧ ((r1.here hdr0).sp.mask = 0xFFFF ∧ (r1.here hdr0).sp.pc = rc.rejpc) ∧ ((r1.here hdr0).g.dropSplit 0).freeIdx.isSome = true := by decide +kernel
theorem test_premises_SleepingAndExit :
    let s := small.sreg [(2, 1), (3, 100)]
    let z := (small.own (fun g => { g with splits := g.splits.map (fun x => { x with st := .asleep (.sleep (some 100)) }) })).told 1 0
    issuesAllIn s [.yield hdr0, .sleep hdr0 3, .sleep hdr0 63, .wake hdr0 2, .wakeAll hdr0, .exit hdr0] = true ∧ (s.here hdr0).act ≠ 0
    ∧ s.groupOf 100 1 = some 2 ∧ s.groups.sorted = true ∧ (s.here hdr0).g.drained = true ∧ (s.here hdr0).g.pend = [] ∧ team0.teamg = 2
    ∧ ((z.grp 1).bind (fun g => g.split? 0)).map (fun x => x.st) = some (.asleep (.sleep (some 100))) ∧ z.now < 100 := by decide +kernel
/-- Group 1 outside a handler and in one; CSRs that may be written. -/
theorem test_premises_TrapWords :
    let s := { small.sreg [(2, 0x3F800000), (3, 0x10008), (4, 15), (5, 14)] with mmio := (small.setReg (trapVecAddr 0) 0x20001).mmio }
    let c := s.here hdr0
    issuesAllIn s [.trap hdr0 5, .bkpt hdr0 5, .rte hdr0, .csrr hdr0 true 4 0x70, .csrr hdr0 false 4 0x10, .csrw hdr0 false 4 0x10, .csrw hdr0 true 2 0x12,
      .csrw hdr0 true 3 0x51, .csrw hdr0 true 5 0x2E] = true ∧ c.act ≠ 0 ∧ s.trapEn 0 = true ∧ s.bkStop 0 = false ∧ c.g.hm = false
    ∧ s.team 100 = some team0 ∧ s.grid 200 = some grid0 ∧ c.g.pend = [] ∧ (c.g.csrList s team0 grid0 0).length = 37
    ∧ ((s.own (fun g => { g with hm := true })).here hdr0).g.hm = true := by decide +kernel
/-- A group with a pending fault and a handler; partition 1, where nothing runs, and partition 0 at the end of a run. -/
theorem test_premises_FaultsAndArbitration :
    let s := ({ small.own (fun g => { g with pendq := [⟨0x0B, 0, 0, 0, 0, .copy⟩] }) with
      mmio := (small.setReg (trapVecAddr 0) 0x20001).mmio, parts := [] }).told 1 0
    ((s.grp 1).bind (fun g => g.split? 0)).isSome = true ∧ (s.groups.all (fun x => x.2.latch.isNone)) = true ∧ s.fltStop 0 = false ∧ s.trapEn 0 = true ∧ s.running 1 = false
    ∧ (let g : Group := { group0 0 with
        pendq := [⟨fcMemory, 0, 0, 0, 0, .matrix 0 (some 3)⟩]
        splits := (group0 0).splits.map (fun x => { x with st := .waiting (.matrix 4) }) }
      let w := s.setGrp 1 g
      g.matrixFault (.before 4) = true ∧ w.nextSplit 1 g = none ∧ (w.takeReset 1 0x10000).grp 1 = some g
      ∧ (s.setGrp 1 { g with pendq := [⟨fcMatrixReset, 0, 0, 0, 0, .reset false⟩] }).takeReset 1 0x10000
        ≠ s.setGrp 1 { g with pendq := [⟨fcMatrixReset, 0, 0, 0, 0, .reset false⟩] })
    ∧ ((s.grp 1).bind (fun g => s.nextSplit 1 g)).isSome = true ∧ s.stops = [] ∧ (s.part 0).run = none
    ∧ (small.part 0).run = some (1, 0) ∧ team0.grid = 200 := by decide +kernel

-- fabric processors: processor 1 runs a program of slot 0; F1 names buffer 0, F2 the mapped page, F3 a count
def k1 : FxStart := ⟨0, 0, 0x10000, 0, none, .group 1, some 100, 0, 0, true, 0⟩
def fx1 (f : SMap W64) : FxSt := { FxSt.init with f := f, cur := some k1, fpc := 0x10000 }
def onFx (x : FxSt) : State := { small with curFx := some 1, fxs := [(1, x)] }
/-- Quadwords in HBM under key 0. -/
def State.holds (s : State) (ws : List (Nat × Nat)) : State :=
  ws.foldl (fun s w => s.homeWrite 0 ((bytesOf 8 w.2).zipIdx.map (fun p => (w.1 + p.2, p.1)))) s
theorem test_fx_at : FxAt (onFx (fx1 [(2, 0x10000)])) 1 (fx1 [(2, 0x10000)]) k1 := ⟨rfl, rfl, rfl⟩
theorem test_premises_FabricRegisters : (onFx (fx1 [])).curFx = some 1 ∧ ((onFx (fx1 [])).fx 1).cur = some k1
    ∧ (fx1 [(3, 1)]).r 3 = 1 ∧ (fx1 [(3, 64)]).r 3 = 64 := by decide +kernel
/-- Counts of 1, 65536 and 65537 bytes at buffer 0; a matching message; state images that are no image and that are one. -/
theorem test_premises_FabricTransfers :
    let x := { fx1 [(2, 0x10000), (3, 65536), (4, 1), (5, 65537), (6, 0xFFFF)] with store := [⟨0, 0, 0xFFFF, 0, 0, [1, 2, 3]⟩] }
    let s := onFx x
    (x.r 1).toNat % 2 ^ 16 + (x.r 3).toNat ≤ 2 ^ 16 ∧ 2 ^ 16 < (x.r 1).toNat % 2 ^ 16 + (x.r 5).toNat
    ∧ (isOk (s.engRead 2 0 0 0x10000 8).2 && isOk (s.engWrite 2 0 0 0x1FFF8 (x.bytes 0 8)).2 && isOk (s.engUpd 2 0 0 0x10000 8 (fun old => old + 1)).2
        && !isOk (s.engRead 2 0 0 0 8).2 && isOk (s.engRead 2 0 0 0x10000 256).2) = true
    ∧ fld ((fx1 [(6, 0xFFFF)]).r 6) 15 0 = 0xFFFF ∧ s.peerStop 0 0xFFFF = some 9
    ∧ ({ s with mmio := (s.setReg (ueJobAddr 0) 0x100000005).mmio } : State).peerStop 0 0xFFFF = none
    ∧ (match ((s.holds [(0x200000, 1)]).engRead 2 0 0 0x10000 256).2 with
        | .ok h => h.take 8 == [1, 0, 0, 0, 0, 0, 0, 0]
        | .error _ => false) = true := by decide +kernel
/-- 32 elements: images of both forms apart from and over the words; a rank table of this device alone. -/
theorem test_premises_WinnowerWords :
    (imageBytes false 16 32, imageBytes true 16 32) = (12, 8) ∧ 0 + 4 * 32 ≤ 65536 ∧ 65536 % 2 ^ 16 + imageBytes false 16 32 ≤ 2 ^ 16
    ∧ (match (((onFx (fx1 [])).holds [(0x200000, 0xFFFF)]).engRead 2 0 0 0x10000 2).2 with
        | .ok bs => natOf bs == ((onFx (fx1 [])).devId) && decide ([natOf bs].count 0xFFFF = 1)
        | .error _ => false) = true := by decide +kernel
/-- A table of four entries at 0x10000: entry 1 of 16 slots, free and busy. -/
theorem test_premises_GleaningWords :
    let x := fx1 [(1, 1), (3, 16)]
    let s (q1 : Nat) : State := ({ onFx x with mmio := ((onFx x).setReg (fxGltabAddr 0) 0x100009).mmio } : State).holds [(0x200000, 0x10040), (0x200008, q1)]
    let e (q1 : Nat) : List Byte := ((s q1).engRead 2 0 0 0x10000 32).2.toOption.getD []
    let free := 2 ^ 48 + 16
    GlnEntry (s free) 0 1 0x10000 ∧ x.claim = none ∧ fld (entryQ (e free) 1) 48 48 = 1 ∧ fld (entryQ (e free) 1) 63 51 = 0
    ∧ fld (entryQ (e free) 1) 47 32 = 0 ∧ (entryQ (e free) 0).toNat % 64 = 0 ∧ fld (entryQ (e free) 1) 31 0 = 16
    ∧ fld (entryQ (e free) 1) 49 49 = 0 ∧ fld (entryQ (e (free + 2 ^ 49)) 1) 49 49 = 1
    ∧ (isOk ((s free).engWrite 2 0 0 0x10010 (bytesOf 8 0)).2 && isOk ((s free).engByte 0 0 .rw 0x1000E).2
        && isOk ((s free).engUpd 2 0 0 0x10018 8 (fun y => y + 1)).2) = true := by
  unfold GlnEntry; decide +kernel

-- ## Engines

theorem test_eng_mapped : EngMapped small 0 0 .w 0x1FFFE [(0x20FFFE, page0.attr), (0x20FFFF, page0.attr)] := by
  intro j x h
  match j, h with
  | 0, h => cases h; exact ⟨by decide, page0, by decide +kernel⟩
  | 1, h => cases h; exact ⟨by decide, page0, by decide +kernel⟩
/-- The last two bytes of the mapped page; an address that no table maps. -/
theorem test_premises_EngineMemory : tlbFind (small.engTlb.get [] 0) (small.ctxAsid 0) 0x1FFFF = some page0
    ∧ tlbFind (small.engTlb.get [] 0) (small.ctxAsid 0) 0x20000 = none ∧ (small.walk 0 0x20000).toOption = none
    ∧ (([(0x20FFFE, page0.attr), (0x20FFFF, page0.attr)] : List (Nat × Attr)).map Prod.fst).Nodup ∧ small.homePoison 0x20FFFE = false
    ∧ small.walkHeld 0 = false ∧ small.liveWalks 0 = [] ∧ ({ small with keyLoad := [small.ctxTkey 0] } : State).walkHeld 0 = true
    ∧ (let s := (small.setReg (l2RegAddr 0 4) 0x8003).setBucket (sliceOf 0x200000) 0 4 0
      s.heldBack (s.engTraffic 0 2 .write [(0x200000, page0.attr)]) true = true)
    ∧ small.heldBack (small.engTraffic 0 2 .write [(0x20FFFE, page0.attr)]) true = false := by decide +kernel
/-- Tables that map the page at 0x10000 to 0x200000, at four levels. -/
def tables : State := ({ small with mmio := (small.setReg (ctxRootAddr 0) 0x310000).mmio } : State).holds
  [(0x310000, 0x3110 * 2 ^ 24 + 1), (0x311000, 0x3120 * 2 ^ 24 + 1), (0x312000, 0x3130 * 2 ^ 24 + 1), (0x313008, 0x2000 * 2 ^ 24 + 0x17)]
theorem test_premises_CopySteps :
    let ofl := cc0 (.offl 0x10000 0x20000 0x10000 7) 65536
    let cp := { cc0 (.cpy .g2g 0x10020 0x10000 (BitVec.ofNat 128 (15 * 2 ^ 24))) 16 with started := true }
    let s := { tables with ecmds := [(7, ofl)], engines := [(0, ⟨[7], []⟩)] }.told 0 0
    let z := { tables with ecmds := [(8, cp)] }
    let es := (s.leaves 0 0 1 0x10000 0x20000).2.toOption.getD []
    s.ceEn 0 = true ∧ s.paused = false ∧ (s.engine 0).queue = [7] ∧ s.ecmds.find? 7 = some ofl
    ∧ es.length = 1 ∧ (∀ e ∈ es, e.base = 0x10000 ∧ e.size = 0x10000 ∧ e.ofs = 0 ∧ s.permit .r e = none)
    ∧ cp.unitLen 0 = 16 ∧ cp.left ≤ cp.unitLen 0 ∧ isOk (z.sides cp .g2g 0 16).2 = true ∧ (z.firstStop cp .g2g 0 16).isNone = true
    ∧ ({ ofl with pages := es.map (fun e => ⟨e, false⟩) } : CopyCmd).pages.length = 1 ∧ s.walkHeld 0 = false
    ∧ (let y : CopyCmd := { cc0 (.cpy .s2s 0x100 0x200 (BitVec.ofNat 128 (15 * 2 ^ 24))) 16 with started := true, np := false }
      y.unitLen 0 = 16 ∧ 0 ≤ y.firstBelow 3 y.op.bytes 0 ∧ ((List.range 16).map (fun j => y.off team0 (y.dstAt 0 + j))).Nodup
      ∧ (∀ j, j < 16 → team0.poison.get false (y.off team0 (y.srcAt 0 + j) / 32) = false)
      ∧ (let m : PhMsg := countMsg 1023 0 16 .copy 8 (.group 1) 0 0 0x10000 1 Wrote.none
        m.flt = none ∧ m.kind = .copy ∧ y.claims = false ∧ y.left ≤ m.n)
      ∧ y.firstBelow 2 y.op.bytes 0 = 0 ∧ { y with units := [(0, 3)] }.firstBelow 3 y.op.bytes 0 = 16)
    ∧ (let z0 := { z with engTlb := [(0, [noPerm])] }
      isOk (z0.sides cp .g2g 0 16).2 = false ∧ (z0.firstStop cp .g2g 0 16).isSome = true)
    ∧ (let e := { tables with ecmds := [(7, { ofl with started := true }), (8, cp)], engines := [(0, ⟨[8], [7]⟩)] }
      ((e.engine 0).active ++ (e.engine 0).queue).map (fun id => e.ecmds.find? id) = [ofl, cp].map (fun c => some { c with started := true })
      ∧ ([7, 8] : List Nat).Nodup ∧ (group0 0).pendq.length + 2 ≤ 8)
    ∧ s.endings = [] ∧ s.suspends = [] ∧ (∀ y ∈ s.grids, y.2.ended ≠ y.2.teamN) := by
  decide +kernel
def job5 : State := { small with mmio := (small.setReg (ueJobAddr 0) 0x100000005).mmio, wireOut := [⟨5, 0xFFFF, 3, 7, 0, .read 0x10000 8⟩] }
def rc0 : RemoteCmd := ⟨.put 0x40000 0x10000 16 none, 0, 1, 100, 0, 3, true, 0, false, none, 0x10000, 1, none, false, [], 16, false, none, none⟩
/-- Slot 0 runs job 5; device 3 stands in the peer table at 0; a transfer of 16 bytes with its packet on the wire. -/
theorem test_premises_FabricSteps :
    let s := ({ job5 with remotes := [(7, rc0), (8, { rc0 with trig := some (1, 0x10000) })] } : State).holds [(0x30, 1)]
    s.slotOfJob 5 = some 0 ∧ s.slotOfJob 6 = none ∧ s.present (.port 0) = true ∧ s.peerStop 0 3 = none ∧ s.rodBlocked 7 rc0 = false ∧ rc0.unitLen 0 = 16
    ∧ rc0.dev ≠ s.devId ∧ (isOk (s.engRead 2 0 0 0x10000 16).2 && isOk (s.engWrite 2 0 0 0x10000 [1, 2]).2
        && isOk (s.engUpd 2 0 0 0x10000 8 (fun x => x + 1)).2) = true
    ∧ (∃ p ∈ s.wireOut, p.cmd = 7 ∧ p.part = 0) ∧ (∀ p ∈ s.wireOut, p.cmd = 7 → 0 ≤ p.part) ∧ 0 ≤ rc0.firstOpen 16 0
    ∧ { rc0 with units := [(0, 3)] }.firstOpen 16 0 = 16 ∧ rc0.fail = none ∧ rc0.left ≤ rc0.unitLen 0 ∧ (s.grp 1).map (fun g => (g.tid, g.pendq.length)) = some (100, 0)
    ∧ s.suspends = [] ∧ s.fxWires = [] ∧ s.endings = [] ∧ (s.remotes.find? 8).map (fun c => c.trig) = some (some (1, 0x10000)) := by
  decide +kernel
def mc0 (op : MatrixOp) : State := ({ small with mcmds := [(7, ⟨0, 100, 1, 0, 0x10000, 1, 0, op⟩)] } : State).told 7 0
theorem test_premises_MatrixSteps :
    let mm := mc0 (.mma [⟨1, 0, ent0⟩])
    ([mm, mc0 (.accz 3), mc0 (.accwr 0 63 [(63, 127, 9)]), mc0 (.accq 1 false .rn false 0 0 0 0)] : List State).all (fun s =>
      (s.mcmds.find? 7).elim false (fun c => s.mayComplete 7 c && s.endings == [])) = true
    ∧ mm.team 100 = some team0 ∧ ent0.m ≤ 64 ∧ ent0.n ≤ 128 ∧ (accqBytes team0.tiles 1 false .rn 0 0 0 0).length = 2
    ∧ ((accqBytes team0.tiles 1 false .rn 0 0 0 0).map Prod.fst).Nodup ∧ 0 < team0.acc
    ∧ mm.suspends = [] ∧ small.teamHalted 100 = false
    ∧ (let g : Group := { group0 0 with splits := (group0 0).splits.map (fun x => { x with st := .waiting (.matrix 1) }), batches := [⟨0, [7]⟩], openCmds := [] }
      ((g.endCmd 7).trimBatches).mwaitOver 0 1 = true ∧ g.mwaitOver 0 1 = false)
    ∧ (let b : W64 := 0
      (accqShape b).1 = 1 ∧ Num.dec32 0xFFC00001 = .nan)
    ∧ isOk (small.engPass 0 0 .write [(0x200000, page0.attr)]) = true
    ∧ (let s := (small.setReg (l2RegAddr 0 0) 0x8003).setBucket (sliceOf 0x200000) 0 0 0
      isOk (s.engPass 0 0 .write [(0x200000, page0.attr)]) = false)
    ∧ (∃ x ∈ small.teams, x.2.core = 0 ∧ 0 < x.2.acc ∧ x.2.ctx = 0) ∧ small.teamGroups 100 ≠ []
    ∧ (({ small with events := [(0, [⟨0, 0, 0, 0, 0⟩])] } : State).events.get [] 0).length = 1
    ∧ (({ small with cores := [(639, { CoreSt.init with resetEnd := some 4096 })] } : State).core 639).resetEnd = some 4096 := by decide +kernel
/-- A start in a queue, a running program with a transfer, a norm, a barrier word; a message and a start from device 3. -/
theorem test_premises_FabricProcessorSteps :
    let q := { small with fxs := [(1, { FxSt.init with queue := [k1] })] }.told 1 0
    let r (w : FxWait) : State := { small with fxs := [(1, { fx1 [] with wait := w })] }.told 1 0
    (q.fx 1).queue = [k1] ∧ (q.fx 1).cur = none ∧ q.fxEn 1 = true ∧ q.paused = false ∧ q.present (.fx 1) = true ∧ (r .none).fxHeld 1 = false
    ∧ ((r (.norm [0xFFFF] 0x10000)).fx 1).wait = .norm [0xFFFF] 0x10000 ∧ (r .none).devId = 0xFFFF
    ∧ (isOk ((r .none).engWrite 2 0 0 0x10000 (bytesOf 4 0)).2 && isOk ((r .none).engRead 2 0 0 0x10000 8).2) = true
    ∧ k1.desc = none ∧ ((r .none).fx 1).busy = none
    ∧ ((r (.waitm .eq 3 0x10000 0)).fx 1).wait = .waitm .eq 3 0x10000 0 ∧ job5.slotOfJob 5 = some 0 ∧ ((job5.fx 1).store.length < 16)
    ∧ (small.grp 1).map (fun g => g.pendq.length) = some 0 := by decide +kernel
theorem test_premises_TranslationSteps :
    let s := ({ tables with walks := [⟨7, 0, 0, 1, [0], false, none⟩, ⟨8, 0, 0, 2, [0], false, none⟩] } : State)
    let v := { s with invq := [⟨.asid 5, true, 0, 0⟩, ⟨.all, false, 0, 0⟩], now := 640 }
    (s.walks.find? (fun x => x.id == 7)).map (fun w => w.failed) = some none ∧ s.walks.all (fun w => s.walkRuns w) = true ∧ s.walkHeld 0 = false
    ∧ ({ s with keyLoad := [s.ctxTkey 0] } : State).walkHeld 0 = true
    ∧ ({ s with walks := (List.range 1025).map (fun i => ⟨i, 0, 0, i, [0], false, none⟩) } : State).walkRuns ⟨1024, 0, 0, 1024, [0], false, none⟩ = false
    ∧ (let f : FifoE := .global .team false page0.attr ⟨3, [(0x10000, 0x10000)]⟩ [⟨0x200000, 7⟩]
      f.via = some ⟨3, [(0x10000, 0x10000)]⟩ ∧ FifoE.usesKey 0 f = true ∧ 3 < 4)
    ∧ (List.replicate 17 (⟨.all, false, 0, 0⟩ : InvCmd)).length = 17 ∧ s.invHeld = [] ∧ isOk (s.walk 0 65536) = true ∧ isOk (s.walk 0 131072) = false
    ∧ s.invq = [] ∧ (v.groups.all (fun x => x.2.fifo == [])) = true ∧ v.invq.length = 2 ∧ s.ctxEn 0 = true ∧ s.ctxEn 63 = false
    ∧ s.ctxInUse 0 = true ∧ (∀ x ∈ s.groups, ∀ f ∈ x.2.fifo, FifoE.usesKey 255 f = false) := by decide +kernel
/-- Pseudo-channel 1023, bank 15: not due, due, owing, refreshing; a queued request held and served. -/
theorem test_premises_MemoryControllers :
    let y : BankRf := ⟨8, 1, none, [], [], none⟩
    let x : PchSt := ⟨0, 3315, [(15, y)], none, 0, [(⟨1, 0, 0, 0, 10, 0, 3, 0, .read, 0, false⟩, 0)], [(15 * 32768 + 24575, 4095)], [(15, 0), (15, 24574)]⟩
    let s (t : Nat) : State := { small with now := t, pchs := [(1023, x)], traffic := [(3, [⟨1, 0, 0, 0, 10, 0, 3, 3, .read, 0, false⟩])] }.told 1023 15
    (s 0).pch 1023 = x ∧ x.bank 15 = y ∧ (s 0).boot.phase ≠ .off ∧ 0 < x.due 15 ∧ x.due 15 ≤ 100000 ∧ (s 87).now < 0 + 88 ∧ (s 88).now = 88
    ∧ x.acts.get 0 (15 * 32768 + 24575) = 4095 ∧ (15, 0) ∈ x.owed ∧ (15, 24574) ∈ x.owed ∧ (15, 24575) ∉ x.owed
    ∧ (let q : Traffic := ⟨1, 0, 0, 0, 10, 0, 3, 3, .write, 0, true⟩
      ((s 100).slice 3).missing q = 3 ∧ (s 100).latBusy 1023 { x with queue := [(q, 5)] } 15 4 = false ∧ 3 % 128 < 128 ∧ q.secs ≠ 0
      ∧ (s 100).tier 3 q = some 2 ∧ (s 100).tier 3 { q with cls := 3 } = some 1
      ∧ (let on := ((s 100).setReg (l2RegAddr 0 0) 0x8003).setBucket 3 0 0 0
        on.tier 3 q = none ∧ ((on.setReg (l2RegAddr 0 0) 0x8001).setBucket 3 0 0 0).tier 3 q = some 3
        ∧ (on.setBucket 3 0 0 (128 * 65536)).tier 3 q = some 1))
    ∧ (let c := { x with catchUp := some 5000, abLeft := 2 }
      c.catchUp = some 5000 ∧ 4404 + 298 * c.abLeft ≤ 5000 ∧ -8 ≤ (c.bank 3).debt ∧ ((c.credit 4702).bank 3).debt = -1)
    ∧ ((s 100).nextRequest 3).isSome = true ∧ ((s 100).nextRequest 4) = none
    ∧ (x.queue[0]?).isSome = true := by decide +kernel
/-- Steps of engines: pages that a copy cannot read or must wait for, unknown commands' tables, and commands of the past. -/
theorem test_premises_EngineStops :
    let cp := { cc0 (.cpy .g2g 0x10020 0x10000 (BitVec.ofNat 128 (15 * 2 ^ 24))) 16 with started := true }
    let z : State := { tables with ecmds := [(8, cp)] }
    let wait : State := { z with engTlb := [], keyLoad := [tables.ctxTkey 0] }
    let stop (r : State × Except EStop (List TlbE)) : Option Bool := match r.2 with
      | .ok _ => none
      | .error .wait => some true
      | .error (.fault ..) => some false
    stop (tables.leaves 0 0 1 0x10000 0x20000) = none ∧ stop (tables.leaves 0 0 1 0x30000 0x40000) = some false
    ∧ stop (wait.leaves 0 0 1 0x10000 0x20000) = some true
    ∧ (match (wait.sides cp .g2g 0 16).2 with
        | .error .wait => true
        | _ => false) = true
    ∧ (wait.firstStop cp .g2g 0 16).all (fun e => match e with
        | .wait => true
        | _ => false) = true
    ∧ (∀ id ∈ ([7, 8] : List Nat), id < z.nextId)
    ∧ (isOk (small.rawRead 2 0 0 0x10000 8).2 && isOk (small.rawWrite 2 0 0 0x10000 [1, 2]).2 && isOk (small.rawUpd 2 0 0 0x10000 8 (fun x => x + 1)).2
        && !isOk (small.rawRead 2 0 0 0x40000 8).2 && !isOk (wait.rawWrite 2 0 0 0x10000 [1, 2]).2) = true := by decide +kernel
/-- A `GETR` with its second part on the way, a `RATOM` of two lanes and an `APPEND` with a row beyond the capacity. -/
theorem test_premises_Replies :
    let pd : Pend := ⟨400, 0, [⟨.v, 20⟩, ⟨.v, 21⟩], false, false, 0, [], none, 0x10000, 0⟩
    let cmd (op : RemoteOp) (left part : Nat) (rep : Reply) : State := { job5.own (fun g => { g with pend := [pd] }) with
      remotes := [(7, { rc0 with op := op, left := left, pend := some 400 })], wireOut := [⟨5, 0xFFFF, 3, 7, part, .read 0x10000 8⟩]
      ev := { EvIn.none with unit := 7, idx := part, data := .reply rep } }
    let g := cmd (.get 0x40000 0x10000 8192) 8192 0 (.data (List.replicate 4096 1))
    let r := cmd (.ratom .cas true .rel [(0, 0x40000, 1, 2), (1, 0x40008, 1, 2)]) 2 1 (.old 5)
    let a := cmd (.append 0x40000 [(0, 0x10000), (1, 0x10000), (2, 0x10000)]) 4 0 (.queue 62 0x50000 64 32)
    (g.remotes.find? 7).map (fun c => (c.unitLen 0, c.fail)) = some (4096, none) ∧ g.fxWires = [] ∧ g.ecmds.find? 7 = none
    ∧ (∃ p ∈ g.wireOut, p.cmd = 7 ∧ p.part = 0) ∧ isOk (g.rawWrite 2 0 0 0x10000 [1, 2]).2 = true
    ∧ (r.grp 1).bind (fun g => g.pend.find? (fun q => some q.id == some 400)) = some pd ∧ pd.dests.head? = some ⟨.v, 20⟩ ∧ 1 < 2
    ∧ goesOn (exec .remoteAcknowledge r) (fun t => (t.grp 1).elim false (fun g => g.pend.map (fun p => (p.writes, p.demote))
        == [([RegWrite.v 20 1 5, RegWrite.v 21 1 0], true)])) = true
    ∧ goesOn (exec .remoteAcknowledge a) (fun t => (t.grp 1).elim false (fun g => g.pend.map (fun p => p.writes.length) == [2])) = true := by
  decide +kernel
/-- A program that is ending, one that an abort ends at once, and one whose claim's release is held back. -/
theorem test_premises_Ending :
    let x : FxSt := { fx1 [] with wait := .ending fcHang 0 0 }
    let s (y : FxSt) : State := ({ small with fxs := [(1, y)] } : State).told 1 0
    ((s x).fx 1).wait = .ending fcHang 0 0 ∧ ((s (fx1 [])).fx 1).wait = .none ∧ ((s (fx1 [])).fx 1).cur = some k1
    ∧ isOk ((s (fx1 [])).pass ((s (fx1 [])).fxFault 1 fcHang 0 0) true) = true
    ∧ (let e := capped 4 (({ s (fx1 []) with fxs := [(1, { fx1 [] with claim := some ⟨0x10000, 0x10040, 0, 16, 0⟩ })] } : State).holds [(0x200008, 2 ^ 49)])
      isOk (e.pass (e.fxFault 1 fcHang 0 0) true) = false) := by decide +kernel
/-- A request under the key of a slot that is loaded, ways that a removed bank has taken, a start that came too late. -/
theorem test_premises_Controllers :
    let q : Traffic := ⟨1, 0, 0, 3, 10, 9, 3, 0, .write, 0, false⟩
    (({ small with traffic := [(3, [q])] } : State).dropKey 9).keyTraffic 9 = true ∧ (small.dropKey 9).keyTraffic 9 = false
    ∧ ({ small with removedUnits := [.ways 3 17] } : State).sliceWays 3 = (List.range 16).filter (fun w => w != 1) ∧ (small.sliceWays 3).length = 16
    ∧ (let b := { State.reset with boot := ⟨.started, some 5, 1, none⟩, now := 6 }
      b.boot.phase = .started ∧ b.boot.deadline = some 5)
    ∧ small.unbacked 0 = false ∧ (rowName 0).1 / 128 = 0 ∧ (0 : Nat) < hbmEnd := by decide +kernel
/-- What a fetch of a fabric program meets: no page, a page whose walk waits. -/
theorem test_premises_FabricFetch :
    let s := onFx (fx1 [])
    (match (s.fetchFx 1 0 0x10000).2, (s.fetchFx 1 0 0x50000).2, (({ s with keyLoad := [s.ctxTkey 0] } : State).fetchFx 1 0 0x50000).2 with
      | .ok _, .error (.fault ..), .error .wait => true
      | _, _, _ => false) = true := by decide +kernel
theorem test_premises_DeviceSteps :
    let r : RasUnit := .coreBank 639 31
    let b := { State.reset with boot := ⟨.started, some 3400000000, 1, some [1, 2, 3, 4, 5, 6, 7, 8]⟩ }
    State.reset.boot.phase = .off ∧ small.boot.phase ≠ .off ∧ small.power.trip = false ∧ b.boot.phase = .started ∧ RasUnit.exists_ r = true
    ∧ RasUnit.gathers r = true ∧ fld (small.reg (bootAddr 0x100)) 3 0 = 3 ∧ State.reset.enabledSlots = [] ∧ fld (small.reg (mcAddr 7 0)) 1 1 = 1
    ∧ b.now ≤ 3400000000 ∧ 3400000000 < ({ b with now := 3400000001 } : State).now ∧ (small.unbacked 0 = false ∧ ({ small with removedPch := [(rowName 0).1] } : State).unbacked 0 = true)
    ∧ small.boot.measured.map (fun m => m.length) = some 8 ∧ small.power.last + 850000 ≤ ({ small with now := 850000 } : State).now
    ∧ 500 ≤ fld (small.reg (bootAddr 0x208)) 47 32 ∧ fld (small.reg (bootAddr 0x208)) 47 32 ≤ 850 := by decide +kernel

-- ## Tracing, debugging, registers, checkpoints

theorem test_premises_SieveAndTrace :
    let r : TraceRec := ⟨1, 2, 3, 4⟩
    let s := { small with curDie := some 7, traces := [(7, ⟨some [0x30000000], some r, 0, []⟩)] }
    let b := ({ small with mmio := (small.setReg (trcAddr 7 0) 3).mmio, tbufs := [(39, ⟨[r], 0, none, false⟩)] } : State).told 39 0
    let z := ({ small with mmio := ((small.setReg (trcAddr 7 0) 3).setReg (trcAddr 7 8) 0x200000).mmio } : State).holds [(0x200000, 0x30000000)]
    s.curDie = some 7 ∧ (s.trc 7).cur = some r ∧ fld (b.reg (trcAddr 7 0)) 0 0 = 1 ∧ (b.trc 7).cur = none
    ∧ (let lost : TraceRec := ⟨6, 0, 7 * 2 ^ 32, 0⟩
      fld lost.q0 7 0 = 6 ∧ fld lost.q2 63 32 = 7 ∧ (⟨[lost], 0, some 100, false⟩ : TraceBuf).gate = some 100)
    ∧ fld (small.reg (trcAddr 7 0)) 0 0 = 0
    ∧ (b.tbufs.get TraceBuf.init 39).recs = [r] ∧ (b.tbufs.get TraceBuf.init 38).gate = none
    ∧ natOf (z.homeBytes 0 (canon (4 * fld (z.reg (trcAddr 7 8)) 47 2) false) 4) = 0x30000000 := by decide +kernel
/-- What a trace core reads there: one `KEEP`. -/
theorem test_sieve_read : SieveRead (fun i => if i = 0 then 0x30000000 else 0) [0x30000000] := by
  refine ⟨by decide, by decide, ?_, ?_, Or.inr ⟨0x30000000, rfl, by decide, ?_⟩⟩
  · intro i w h
    match i, h with
    | 0, h => cases h; rfl
  · intro i w _ h
    simp at h
  · rintro ⟨j, w, k, h, -⟩
    simp at h
/-- Group 1 running and group 2 at its boundary; one group stopped at a `BKPT`; a window that ends. -/
theorem test_premises_DebugSteps :
    let one (st : SplitSt) : State := { small.own (fun g => { g with dbgStop := true, splits := g.splits.map (fun x => { x with st := st }) }) with
      mmio := (small.setReg (trapVecAddr 0) 0x20001).mmio, parts := [] }
    let s := one (.waiting (.stopped none none))
    (∃ x ∈ small.groups, x.2.ctx = 0 ∧ x.2.dbgStop = false ∧ small.running x.1 = true) ∧ (small.groups.map Prod.fst).Nodup
    ∧ (∃ x ∈ ([(100, ⟨200, 0, 0, 0, 1, 0, 0, [(5, group0 0)], [], [], []⟩)] : SMap SavedTeam), ∃ y ∈ x.2.groups, y.2.dbgStop = false ∧ small.grp y.1 = none)
    ∧ (∃ x ∈ s.groups, x.2.dbgStop = true)
    ∧ small.stops = [] ∧ small.running 1 = true ∧ small.running 2 = false ∧ s.trapEn 0 = true
    ∧ (s.groups.filter (fun x => x.2.ctx == 0 && x.2.dbgStop)).map Prod.fst = [1] ∧ (s.groups.all (fun x => !x.2.hm)) = true
    ∧ ((s.grp 1).map (fun g => g.splits.map (fun x => x.st))) = some [.waiting (.stopped none none)]
    ∧ fld (small.reg (trialAddr 0)) 63 63 = 0 ∧ ({ small with trial := some ⟨true, 850⟩, now := 850 } : State).trial = some ⟨true, 850⟩ := by
  decide +kernel
/-- A register of tables, one that none names, and the last bytes of HBM. -/
theorem test_premises_RegisterWrites :
    (regSpec (ceAddr 31 0)).isSome = true ∧ (regSpec (bootAddr 0x200)).isSome = true ∧ regSpec 0xFF0000000004 = none
    ∧ fld (0x10 : W64) 4 4 = 1 ∧ small.invHeld = [] ∧ fld (0x00050000 : W64) 1 0 = 0
    ∧ ({ small with mmio := (small.setReg (bootAddr 8) 0x10).mmio } : State).opened = true ∧ small.boot.phase ≠ .off
    ∧ fld (({ small with mmio := (small.setReg (linkAddr 0) 0x8000000000000000).mmio } : State).reg (linkAddr 0)) 63 63 = 1
    ∧ small.ownWrite (bootAddr 0x200) 6000 = none ∧ regRange (bootAddr 0x200) 6000 = true
    ∧ small.boot.phase = .open_ ∧ fld (small.reg (bootAddr 0x18)) 23 0 = 0 ∧ (hbmEnd - 2) + 2 ≤ hbmEnd
    ∧ ((List.range 2).all (fun j => !small.unbacked (hbmEnd - 2 + j))) = true ∧ hbmEnd ≤ csrBase ∧ ∃ x ∈ small.groups, x.2.ctx = 0 := by decide +kernel
def ck0 (st : Bool) (n : Nat) : State := { small with
  ckpt := some ⟨0, 0, 0, 0, 3, 0, 0x10000, st, n, [], 0⟩, groups := [], cur := none, parts := [], wireOut := [⟨5, 0xFFFF, 3, 0, 0, .write 0 []⟩] }
theorem test_premises_CheckpointSteps : (ck0 false 0).pauseDone = true ∧ ((ck0 true 5).ckpt.map (fun c => c.ahead.get false 5)) = some false
    ∧ 5 < hbmPages ∧ (∃ p ∈ (ck0 true hbmPages).wireOut, p.cmd = 0) ∧ isOk (({ ck0 true hbmPages with wireOut := [] } : State).engAdd 0 0 0x10000 1).2 = true
    ∧ small.capBytes.length ≤ 61440 := by decide +kernel

-- ## The reeve: queue 0 of a table at 0x300000, its ring at 0x301000, one packet

def packetIn (cfg hdr : Nat) (args : List Nat) (s : State) : State :=
  (({ s with mmio := (((((s.setReg rvQtabAddr 0x300001).setReg (linkAddr 0) 0x8000000000000000).setReg (trCfgAddr 255) 0x100000004).setReg
      (vrCfgAddr 255) 0x100000001).setReg (saveLenAddr 0) 1).mmio } : State).holds
    ([(0x300000, 0x301004), (0x300008, 1), (0x300018, cfg), (0x301000, hdr)] ++ args.zipIdx.map (fun a => (0x301008 + 8 * a.2, a.1)))).told 0 0
def takesB (s : State) (ty : Nat) : Bool :=
  let u := s.observeQueues
  let p := u.nextPkt s.ev.unit
  u.qPending s.ev.unit && u.mapped s.ev.unit && u.qSizeOk s.ev.unit && u.pktOk p (u.qPriv s.ev.unit) && u.takeable p && p.ty == ty
theorem takes_of {s : State} {ty : Nat} (h : takesB s ty = true) :
    Takes s ty (s.observeQueues.nextPkt s.ev.unit) (s.observeQueues.take (s.observeQueues.nextPkt s.ev.unit)) := by
  simp only [takesB, Bool.and_eq_true, beq_iff_eq] at h
  exact ⟨h.1.1.1.1.1, h.1.1.1.1.2, h.1.1.1.2, rfl, h.1.1.2, h.1.2, h.2, rfl⟩
/-- A packet taken, a packet with a reserved bit, a queue of a size that none may have; an event with room and without. -/
theorem test_premises_PacketQueues :
    let s := packetIn 1 0x200 [] small
    let u := s.observeQueues
    let bad := (packetIn 1 0x400 [] small).observeQueues
    takesB s 0 = true ∧ bad.qPending 0 = true ∧ bad.mapped 0 = true ∧ bad.qSizeOk 0 = true ∧ bad.pktOk (bad.nextPkt 0) false = false
    ∧ (s.holds [(0x300000, 0x301011)]).qSizeOk 0 = false ∧ (s.holds [(0x300000, 0x301011)]).qLive 0 = true
    ∧ (let e := packetIn 0x80001 1 [0, 0, 0, 0, 0, 100] small
      e.qEdf 0 = true ∧ u.qEdf 0 = false ∧ (e.nextPkt 0).ty = 1 ∧ (e.nextPkt 0).arg 6 = 100)
    ∧ ({ small with poison := [(0x200000 / 32, true)] } : State).eventPoison 0 0x10000 = true ∧ small.eventPoison 0 0x10000 = false ∧ (s.holds [(0x300018, 0)]).qPending 0 = false ∧ (u.nextPkt 0).num = 0
    ∧ (s.events.get [] 0).length < 256 ∧ fld (s.reg (evBaseAddr 0)) 4 0 = 0
    ∧ (let e := { small with mmio := (small.setReg (evBaseAddr 0) 0x10004).mmio }
      fld (e.reg (evBaseAddr 0)) 4 0 = 4 ∧ isOk (e.engWrite 3 0 0 0x10000 (quadBytes [1, 2, 3, 4])).2 = true) := by decide +kernel
theorem test_premises_PacketWords :
    (takesB (packetIn 1 0 [] small) 0 && takesB (packetIn 1 3 [0x10000, 0, 0] small) 3 && takesB (packetIn 1 4 [0x10000, 5, 0] small) 4
      && takesB (packetIn 1 4 [0x10004, 5, 1] small) 4 && takesB (packetIn 1 4 [0x10001, 5, 2] small) 4 && takesB (packetIn 1 5 [0, 0xFFFFFFFF] small) 5
      && takesB ({ packetIn 1 6 [0, 1] small with mmio := ((packetIn 1 6 [0, 1] small).setReg (linkCntAddr 0) 1).mmio }) 6
      && takesB (packetIn 1 2 [0x1FF, 0x10000] small) 2 && takesB (packetIn 1 2 [0x100FF, 0x10000] small) 2 && takesB (packetIn 1 10 [0xFF, 1] small) 10
      && takesB (packetIn 1 12 [0] small) 12 && takesB (packetIn 1 12 [1] small) 12 && takesB (packetIn 1 12 [2] small) 12) = true
    ∧ (let s := packetIn 1 3 [0x10000, 0, 0] small
      isOk (s.engRead 3 0 0 0x10000 8).2 = true ∧ isOk (s.engRead 3 0 0 0 8).2 = false ∧ isOk (s.engWrite 3 0 0 0x10000 (bytesOf 8 5)).2 = true
      ∧ isOk (s.engRead 3 0 0 0x10000 64).2 = true)
    ∧ isOk ((packetIn 1 4 [0x10000, 5, 2] small).engAdd 0 0 0x10000 5).2 = true ∧ small.suspends = [] ∧ ∃ x ∈ small.teams, x.2.ctx = 0 := by decide +kernel
/-- A record of one group of 16 lanes; its launch, a copy, a start and a checkpoint. -/
def recAt : State := small.holds [(0x200000, 0x10000), (0x200008, 2 ^ 48 + 8 * 2 ^ 32), (0x200010, 0x10 + 2 ^ 44), (0x200018, 0x101)]
theorem test_premises_PacketStarts :
    let l := packetIn 1 1 [0x10000, 0x10080, 1] recAt
    let bs := (l.engRead 3 0 0 0x10000 128).2.toOption.getD []
    (takesB l 1 && takesB (packetIn 1 8 [0x10020, 0x10000, 15 * 2 ^ 24] small) 8 && takesB (packetIn 1 9 [0x10000, 7, 15] small) 9
      && takesB (packetIn 5 11 [0x10000] small) 11) = true
    ∧ parseRecord bs = some ⟨0x10000, 16, 1024, 0, 0, 0, 8, [(1, 8)]⟩ ∧ isOk (l.engRead 3 0 0 0x10080 8).2 = true
    ∧ LaunchRec.fitsEmpty ⟨0x10000, 16, 1024, 0, 0, 0, 8, [(1, 8)]⟩ = true ∧ l.copyEngine 0 = some 0 ∧ l.peerStop 0 0 = some 9
    ∧ l.peerBad 0xFFFF = true ∧ job5.peerStop 0 0xFFFF = none ∧ (job5.holds [(0xFFFF0, 1)]).peerBad 0xFFFF = false := by decide +kernel
/-- A graph of one `END`; a copy that selects it, finished and running. -/
theorem test_premises_GraphSteps :
    let m := packetIn 1 7 [0x10000] (small.holds [(0x200000, 1), (0x200040, 7)])
    let g : GraphSt := ⟨0, 0, 0, 0, 0x10000, 2, 0, [(1, 1)], [], [], [0], false⟩
    let w := { small.holds [(0x200000, 2), (0x200040, 0x104), (0x200048, 0x10100), (0x200060, 1), (0x200080, 0x10007)] with graphs := [(9, g)] }
    takesB m 7 = true ∧ (nodeOf ((m.engRead 3 0 0 0x10040 64).2.toOption.getD [])).ok 1 = true ∧ w.graphs.find? 9 = some g
    ∧ (w.node g 0).2.toOption.map (fun x => (x.ok 2, x.kind, x.nsucc, x.succ 0)) = some (true, 4, 1, 1)
    ∧ (let nd (q0 q1 : W64) : Node := nodeOf (quadBytes [q0, q1, 0, 0, 0, 0, 0, 0])
      (nd 8 0).ok 1 = false ∧ (nd 6 0x10100).kind = 6 ∧ ((nd 6 0x10100).q 1).toNat % 8 = 0)
    ∧ (match ((w.holds [(0x200100, 7)]).engRead 3 0 0 0x10100 8).2 with
        | .ok bs => natOf bs == 7
        | .error _ => false) = true
    ∧ wouldWait (w.engTargets 0 0 0x10100 (bytesOf 8 0)).2 = false ∧ ({ g with aborted := true, running := [1] } : GraphSt).running ≠ []
    ∧ (w.node g 1).2.toOption.map (fun x => (x.ok 2, x.kind, x.nsucc)) = some (true, 7, 0)
    ∧ isOk (w.engWrite 3 0 0 0x10100 (bytesOf 8 0)).2 = true := by decide +kernel
/-- Ready nodes of kinds 0 to 2 with their packets: a copy, a launch and a feed; a node that cannot be read, one that waits. -/
theorem test_premises_NodeStarts :
    let g : GraphSt := ⟨0, 0, 0, 0, 0x10000, 1, 0, [], [0], [], [], false⟩
    let at_ (kind : Nat) (hdr : Nat) (args : List Nat) : State := { (packetIn 1 0 [] recAt).holds
      ([(0x200840, kind), (0x200848, 0x10900), (0x200900, hdr)] ++ args.zipIdx.map (fun a => (0x200908 + 8 * a.2, a.1))) with graphs := [(9, g)] }
    let g' : GraphSt := { g with hdr := 0x10800 }
    let starts (s : State) (kind ty : Nat) : Bool := match s.node g' 0 with
      | (t, .ok x) => x.ok 1 && x.kind == kind && (match t.nodePkt g' x with
          | (_, .ok p) => x.ptype == some ty && p.ty == ty && s.pktOk p false && s.tyReady p
          | _ => false)
      | _ => false
    starts (at_ 0 8 [0x10020, 0x10000, 15 * 2 ^ 24]) 0 8 = true ∧ starts (at_ 1 1 [0x10000, 0x10080, 1]) 1 1 = true
    ∧ starts (at_ 2 2 [0x1FF, 0x10000]) 2 2 = true ∧ (at_ 0 8 []).copyEngine 0 = some 0 ∧ ((at_ 2 2 []).trough 255).sleepers = []
    ∧ g.running = [] ∧ isOk ((at_ 1 1 []).engRead 3 0 0 0x10080 8).2 = true
    ∧ (match ((at_ 0 8 []).node { g with hdr := 0x60000 } 0).2, (({ at_ 0 8 [] with keyLoad := [small.ctxTkey 0] } : State).node { g with hdr := 0x60000 } 0).2 with
        | .error (.fault ..), .error .wait => true
        | _, _ => false) = true := by decide +kernel
def rec1 : LaunchRec := ⟨0x10000, 16, 1024, 0, 0, 0, 8, [(1, 8)]⟩
def grid1 (pr : Nat) (n : Nat) : Grid := { grid0 with rec_ := rec1, prio := pr, teamN := n }
/-- A grid whose team fits beside the one that runs; a queue that ages; a deadline passed. -/
theorem test_premises_TeamPlacement :
    let s := { small with grids := [(200, { grid0 with nextTeam := 4 }), (201, grid1 3 4)] }
    s.dispatch = some (.place 201 [0]) ∧ (s.fitOn 0 [] rec1).isSome = true ∧ s.grid 201 = some (grid1 3 4)
    ∧ ({ grid1 3 4 with deadline := 1 } : Grid).deadline.toNat < ({ s with now := 17 } : State).deviceNs
    ∧ (let q := { packetIn 1 0 [] small with now := 0 }
      q.observeQueues.qEdf 0 = false ∧ q.observeQueues.qLevel 0 = 0 ∧ (q.observeQueues.queue 0).since = some 0) := by decide +kernel
/-- A team of one small group, asked for, saved and read back. -/
def one : State := { State.reset with
  teams := [(100, { team0 with grid := 201, scratch := 0, acc := 0, teamg := 1 })], grids := [(201, grid1 1 4), (202, grid1 5 4)]
  groups := [(1, { group0 0 with budget := 8 })], preempts := [100], engTlb := [(0, [page0])]
  mmio := ((((State.reset.setReg (ctxCfgAddr 0) 0x10005).setReg (saveBaseAddr 0) 0x10000).setReg (saveLenAddr 0) 1).setReg rvPreemptAddr 1).mmio }
theorem test_premises_Preemption :
    let g := { group0 0 with budget := 8 }
    one.cmdsDone 100 = true ∧ ({ g with halted := true } : Group).settled = true ∧ g.settled = false ∧ one.running 1 = false ∧ one.boundaryFault 1 g = none
    ∧ one.stops = [] ∧ (one.groups.map Prod.fst).Nodup ∧ (one.unstall 1 g).demoteNow = g
    ∧ isOk (one.pass (one.release g .device) false) = true
    ∧ (let st : Group := { g with splits := g.splits.map (fun x => { x with st := .stalled .fifoEmpty }) }
      one.splitReady 1 st (st.splits.headD ⟨0, 0, 0, .ready, false, [], []⟩) = true)
    ∧ (one.groups.filter (fun x => x.2.tid == 100)).map Prod.fst = [1] ∧ one.suspends = [] ∧ (one.saveSpace 0 1).isSome = true
    ∧ (one.choiceFor [] 202 (grid1 5 4)).isSome = true ∧ one.choiceFor [] 202 { grid1 5 4 with rec_ := { rec1 with acc := 17 } } = none
    ∧ (geoOf 16 0 0 [(0, 8)]).size ≤ 65536 ∧ fld (one.reg (saveBaseAddr 0)) 51 16 = 1 ∧ one.saveUnits 0 = 1
    ∧ isOk (one.engRead 3 0 0 0x10000 16).2 = true ∧ fld (one.reg rvPreemptAddr) 31 0 = 1 ∧ one.hasUnplaced 202 (grid1 5 4) = true
    ∧ ({ one with groups := [], teams := [], saved := [(100, ⟨201, 0, 0, 0, 1, 0, 0, [(1, g)], [], [], []⟩)] } : State).dispatch.isSome = true := by decide +kernel

-- ## The encodings, the step, memory

theorem test_premises_DecodeEncode : ([.iadd hdr0 ⟨true, false, .z64, 60, 2, 4⟩, .xpr (hdrLa 4) ⟨false, false, .rn, false, 10, 1, 2, 3⟩ true 0x1370C41,
    .fxLoop 13 (-8), .sieveJeq 1 2 3, .pairWord false 0 true ⟨3, 8, 1, 2, true⟩ ⟨0x41, 12, 5, 6, false⟩] : List Instr).all (fun i => i.wf && !isStep i)
    = true := by decide +kernel
theorem test_premises_EncodeDecode : (match decodeIgyan 0x80C1C0C240140800 0, decodeFx 0x08D00FFFFFFFFFF8, decodeSieve 0x108000FF with
    | .ok i, .ok j, some k => i.wf && j.wf && k.wf
    | _, _, _ => false) = true := by decide +kernel
/-- A word at group 1's address, the last of its run, an `XPR` before its body, and turns of every kind. -/
theorem test_premises_StepRuns :
    let s := ({ small with agenda := [.issue 0] } : State).holds [(0x200000, 0x80C1C0C240140800), (0x200008, 0x0E02804080F88000), (0x200010, 0x8000000001370C41)]
    let fetched (a : W64) : Option W64 := match (s.fetchWord (group0 0) a).2 with
      | .word w => some w
      | _ => none
    s.turn = .issue 0 ∧ (s.part 0).run = some (1, 0) ∧ (s.part 0).count = 0 ∧ (s.part 1).run = none
    ∧ tlbFind (s.core 0).tlb (s.ctxAsid 0) 0x10000 = some page0 ∧ page0.x = true ∧ page0.ofs = 0 ∧ s.keyLoaded page0.key = true ∧ s.keyLoad = []
    ∧ fetched 0x10000 = some 0x80C1C0C240140800 ∧ isXprWord 0x80C1C0C240140800 = false
    ∧ (let e : Group := { group0 1 with dbgStop := true }
      (s.nextSplit 2 (group0 1)).isSome = true ∧ e.dbgStop = true ∧ s.running 2 = false ∧ s.grp 3 = none)
    ∧ (match (s.fetchWord (group0 0) 0x30000).2, (({ s with keyLoad := [0] } : State).fetchWord (group0 0) 0x10000).2 with
        | .wait _, .wait _ => true
        | _, _ => false) = true
    ∧ fetched 0x10008 = some 0x0E02804080F88000 ∧ isXprWord 0x0E02804080F88000 = true ∧ fetched 0x10010 = some 0x8000000001370C41 := by
  decide +kernel
/-- A run at its limit, pages that may not be executed or whose key is not loaded, a fabric program and a step that is due. -/
theorem test_premises_StepRunsOtherwise :
    let s (n : Nat) : State := { small with parts := [(0, ⟨some (1, 0), n, 0, 0, 0, 0, 0, false⟩)] }
    ((s 24).part 0).count = 24 ∧ ((s 23).part 0).count = 23 ∧ noPerm.x = true ∧ ({ page0 with x := false } : TlbE).x = false
    ∧ small.keyLoaded 3 = false ∧ ({ small with agenda := [.sync 5] } : State).turn = .sync 5 ∧ (∀ y ∈ small.ecmds, y.2.fail = none) ∧ small.fxs = []
    ∧ ({ small with agenda := [.fx 1], fxs := [(1, fx1 [])] } : State).turn = .fx 1
    ∧ (onFx (fx1 [])).fxHeld 1 = false ∧ isStep .storePerform = true := by decide +kernel
theorem test_premises_MemoryInvariant : State.reset.memWf = true ∧ small.memWf = true
    ∧ goesOn (step { small with agenda := [.elapse 5] }) (fun t => t.memWf) = true := by decide +kernel

end Sys2Proof.Machine
end

section
/-! SUPPORT. Memory at home: what a store at home changes and what it leaves, byte by byte, under every key (R3, R79 to R81, R96,
R97). -/

namespace Sys2Proof

-- ## Sparse maps

/-- After a fold of writes a key reads as `v` where every write at it writes `v` and it held `v` or is written. -/
theorem SMap.get_foldl_set {α β : Type} [DecidableEq α] (d : α) (l : List β) (key : β → Nat) (val : β → α) (m : SMap α) (k : Nat)
    (v : α) (hv : ∀ x ∈ l, key x = k → val x = v) (hk : SMap.get d m k = v ∨ ∃ x ∈ l, key x = k) :
    SMap.get d (l.foldl (fun m x => SMap.set d m (key x) (val x)) m) k = v := by
  induction l generalizing m with
  | nil => simpa using hk
  | cons x l ih =>
    refine ih _ (fun y hy => hv y (List.mem_cons_of_mem x hy)) ?_
    rw [SMap.get_set]
    by_cases e : key x = k
    · rw [if_pos e]; exact Or.inl (hv x List.mem_cons_self e)
    · rw [if_neg e]
      rcases hk with hk | ⟨y, hy, ey⟩
      · exact Or.inl hk
      · rcases List.mem_cons.1 hy with rfl | hy
        · exact absurd ey e
        · exact Or.inr ⟨y, hy, ey⟩
/-- A fold of writes leaves every key that none of them names. -/
theorem SMap.get_foldl_set_ne {α β : Type} [DecidableEq α] (d : α) (l : List β) (key : β → Nat) (val : β → α) (m : SMap α) (k : Nat)
    (h : ∀ x ∈ l, key x ≠ k) : SMap.get d (l.foldl (fun m x => SMap.set d m (key x) (val x)) m) k = SMap.get d m k :=
  SMap.get_foldl_set d l key val m k _ (fun x hx e => absurd e (h x hx)) (Or.inl rfl)

namespace Machine

-- ## Little-endian bytes (R3)

theorem bytesOf_succ (n v : Nat) : bytesOf (n + 1) v = BitVec.ofNat 8 v :: bytesOf n (v / 256) := by
  unfold bytesOf
  rw [List.range_succ_eq_map, List.map_cons, List.map_map]
  congr 1
  · simp
  · refine List.map_congr_left (fun i _ => ?_)
    have : 2 ^ (8 * (i + 1)) = 256 * 2 ^ (8 * i) := by rw [Nat.mul_add, Nat.pow_add, Nat.mul_comm]
    rw [Function.comp_apply, Nat.succ_eq_add_one, this, Nat.div_div_eq_div_mul]
theorem natOf_bytesOf (n v : Nat) : natOf (bytesOf n v) = v % 256 ^ n := by
  induction n generalizing v with
  | zero => simp [bytesOf, natOf, Nat.mod_one]
  | succ n ih =>
    calc natOf (bytesOf (n + 1) v) = v % 256 + 256 * (v / 256 % 256 ^ n) := by rw [bytesOf_succ, natOf, ih, BitVec.toNat_ofNat]
      _ = v % 256 ^ (n + 1) := by rw [Nat.pow_succ', Nat.mod_mul]
theorem bytesOf_natOf (x : List Byte) : bytesOf x.length (natOf x) = x := by
  induction x with
  | nil => rfl
  | cons b x ih =>
    have hb : b.toNat < 256 := b.isLt
    have hdiv : (b.toNat + 256 * natOf x) / 256 = natOf x := by omega
    have hmod : BitVec.ofNat 8 (b.toNat + 256 * natOf x) = b := by
      apply BitVec.eq_of_toNat_eq
      rw [BitVec.toNat_ofNat]; omega
    rw [List.length_cons, natOf, bytesOf_succ, hdiv, ih, hmod]
@[simp] theorem bytesOf_length (n v : Nat) : (bytesOf n v).length = n := by simp [bytesOf]

-- ## What each operation may change

/-- Only requests have been made. -/
def TrafficOnly (s t : State) : Prop := t = { s with traffic := t.traffic, nextId := t.nextId }
/-- Stored bytes, keys and poison are untouched: only what an overwritten byte makes others keep may have changed. -/
def SameStore (s t : State) : Prop :=
  t = { s with stale := t.stale, ckpt := t.ckpt, wireOut := t.wireOut, ecmds := t.ecmds, traffic := t.traffic, nextId := t.nextId }
/-- Only what a write at home may change has changed. -/
def HomeFrame (s t : State) : Prop :=
  t = { s with
    mem := t.mem, burst := t.burst, poison := t.poison, stale := t.stale, ckpt := t.ckpt, wireOut := t.wireOut
    traffic := t.traffic, nextId := t.nextId, ecmds := t.ecmds }

theorem TrafficOnly.refl (s : State) : TrafficOnly s s := rfl
theorem TrafficOnly.trans {s t u : State} (a : TrafficOnly s t) (b : TrafficOnly t u) : TrafficOnly s u := by
  unfold TrafficOnly at *; rw [b, a]
theorem SameStore.refl (s : State) : SameStore s s := rfl
theorem SameStore.trans {s t u : State} (a : SameStore s t) (b : SameStore t u) : SameStore s u := by
  unfold SameStore at *; rw [b, a]
theorem HomeFrame.refl (s : State) : HomeFrame s s := rfl
theorem HomeFrame.trans {s t u : State} (a : HomeFrame s t) (b : HomeFrame t u) : HomeFrame s u := by
  unfold HomeFrame at *; rw [b, a]
theorem TrafficOnly.sameStore {s t : State} (h : TrafficOnly s t) : SameStore s t := by
  unfold TrafficOnly SameStore at *; rw [h]
theorem SameStore.frame {s t : State} (h : SameStore s t) : HomeFrame s t := by
  unfold SameStore HomeFrame at *; rw [h]
theorem TrafficOnly.ecmds {s t : State} (h : TrafficOnly s t) : t.ecmds = s.ecmds := by rw [h]
theorem SameStore.mem {s t : State} (h : SameStore s t) : t.mem = s.mem := by rw [h]
theorem SameStore.burst {s t : State} (h : SameStore s t) : t.burst = s.burst := by rw [h]
theorem SameStore.poison {s t : State} (h : SameStore s t) : t.poison = s.poison := by rw [h]
theorem SameStore.homeByte {s t : State} (h : SameStore s t) (k a : Nat) : t.homeByte k a = s.homeByte k a :=
  homeByte_congr h.mem h.burst (by rw [h]) k a
theorem HomeFrame.keySlots {s t : State} (h : HomeFrame s t) : t.keySlots = s.keySlots := by rw [h]
theorem HomeFrame.keyOf {s t : State} (h : HomeFrame s t) (k : Nat) : t.keyOf k = s.keyOf k := by rw [h]; rfl

theorem SameCopies.refl (s : State) : SameCopies s s := fun _ => rfl
theorem SameCopies.trans {s t u : State} (a : SameCopies s t) (b : SameCopies t u) : SameCopies s u := fun j => (b j).trans (a j)
theorem SameCopies.of_eq {s t : State} (h : t.ecmds = s.ecmds) : SameCopies s t := fun j => by rw [h]

-- ## Requests

theorem traffick_only (s : State) (slot cls w : Nat) (kind : TKind) (need : Bool) (at_ : Attr) :
    TrafficOnly s (s.traffick slot cls w kind need at_) := by
  unfold State.traffick; dsimp only; split <;> rfl
theorem TrafficOnly.foldl {β : Type} (f : State → β → State) (l : List β) (s : State) (hf : ∀ t x, TrafficOnly t (f t x)) :
    TrafficOnly s (l.foldl f s) := by
  induction l generalizing s with
  | nil => exact TrafficOnly.refl s
  | cons x l ih => exact (hf s x).trans (ih _)
theorem pageReads_only (s : State) (page : Nat) : TrafficOnly s (s.pageReads page) :=
  TrafficOnly.foldl _ _ _ (fun t i => by split; exacts [TrafficOnly.refl t, traffick_only ..])
theorem trafficks_only (s : State) (slot cls : Nat) (kind : TKind) (at_ : Attr) (as : List Nat) :
    TrafficOnly s (s.trafficks slot cls kind at_ as) := TrafficOnly.foldl _ _ _ (fun _ _ => traffick_only ..)
theorem engTraffic_only (s : State) (slot cls : Nat) (kind : TKind) (l : List (Nat × Attr)) :
    TrafficOnly s (s.engTraffic slot cls kind l) := TrafficOnly.foldl _ _ _ (fun _ _ => trafficks_only ..)
theorem walkTraffic_only (s : State) (slot va : Nat) : TrafficOnly s (s.walkTraffic slot va) := by
  unfold State.walkTraffic
  split
  · exact TrafficOnly.refl s
  · exact TrafficOnly.foldl _ _ _ (fun _ _ => traffick_only ..)

-- ## What others keep of a burst before it is overwritten (R96, R114, R447)

theorem sendAhead_cases (s : State) (page : Nat) : s.sendAhead page = s ∨ ∃ t c x bs, TrafficOnly s t
    ∧ s.sendAhead page = ({ t with ckpt := x } : State).ckptSend c (page + 1) bs := by
  have h := pageReads_only s page
  unfold State.sendAhead
  generalize s.pageReads page = t at h ⊢
  generalize s.storedPage page = bs
  split
  · split
    · exact Or.inr ⟨t, _, _, bs, h, rfl⟩
    · exact Or.inl rfl
  · exact Or.inl rfl
theorem sendAhead_sameStore (s : State) (page : Nat) : SameStore s (s.sendAhead page) := by
  rcases sendAhead_cases s page with h | ⟨t, c, x, bs, ht, h⟩
  · rw [h]; exact SameStore.refl s
  · rw [h]; exact ht.sameStore.trans rfl
theorem sendAhead_ecmds (s : State) (page : Nat) : (s.sendAhead page).ecmds = s.ecmds := by
  rcases sendAhead_cases s page with h | ⟨t, c, x, bs, ht, h⟩
  · rw [h]
  · rw [h]; exact ht.ecmds
theorem saveClaimed_sameStore (s : State) (burst : Nat) : SameStore s (s.saveClaimed burst) := rfl
theorem saveClaimed_copies (s : State) (burst : Nat) : SameCopies s (s.saveClaimed burst) := by
  intro j
  unfold State.saveClaimed
  dsimp only
  rw [SMap.find?_mapV, Option.map_map]
  congr 1
  funext c
  rw [Function.comp_apply]
  split <;> rfl
theorem takeDirty_sameStore (s : State) (burst : Nat) (k : BitVec 512) : SameStore s (s.takeDirty burst k) := by
  unfold State.takeDirty; split <;> rfl
theorem takeDirty_ecmds (s : State) (burst : Nat) (k : BitVec 512) : (s.takeDirty burst k).ecmds = s.ecmds := by
  unfold State.takeDirty; split <;> rfl

-- ## A burst stored again under other key material (R81)

/-- A byte at home depends on its burst alone: the burst's tag and its 64 bytes. -/
theorem homeByte_of_burst {s t : State} (a : Nat) (hk : t.keySlots = s.keySlots)
    (hb : t.burst.get 0 (a / 64) = s.burst.get 0 (a / 64)) (hm : ∀ c, c / 64 = a / 64 → t.mem.get 0 c = s.mem.get 0 c) (k : Nat) :
    t.homeByte k a = s.homeByte k a := by
  have e1 : t.keyOf k = s.keyOf k := by unfold State.keyOf; rw [hk]
  have e2 : t.plainBurst (a / 64) = s.plainBurst (a / 64) := by
    unfold State.plainBurst
    refine congrArg (fun l => BitVec.ofNat 512 (natOf l)) (List.map_congr_left (fun i hi => hm _ ?_))
    have := List.mem_range.1 hi
    omega
  unfold State.homeByte State.burstUnder
  rw [hb, e1, e2, hm a rfl]
/-- A byte read under the key its burst was written under is the byte as stored. -/
theorem homeByte_of_tag {s : State} {key a : Nat} (h : s.burst.get 0 (a / 64) = s.keyOf key) : s.homeByte key a = s.mem.get 0 a := by
  unfold State.homeByte; rw [if_pos h]
theorem homeByte_of_tag_ne {s : State} {key a : Nat} (h : s.burst.get 0 (a / 64) ≠ s.keyOf key) :
    s.homeByte key a = (s.burstUnder (a / 64) (s.keyOf key) >>> (8 * (a % 64))).setWidth 8 := by
  unfold State.homeByte; rw [if_neg h]

theorem rebase_frame (s : State) (burst : Nat) (k : BitVec 512) : HomeFrame s (s.rebase burst k) := by
  unfold State.rebase; dsimp only; split <;> rfl
theorem rebase_ecmds (s : State) (burst : Nat) (k : BitVec 512) : (s.rebase burst k).ecmds = s.ecmds := by
  unfold State.rebase; dsimp only; split <;> rfl
theorem rebase_poison (s : State) (burst : Nat) (k : BitVec 512) : (s.rebase burst k).poison = s.poison := by
  unfold State.rebase; dsimp only; split <;> rfl
theorem rebase_tag (s : State) (burst : Nat) (k : BitVec 512) : (s.rebase burst k).burst.get 0 burst = k := by
  unfold State.rebase
  dsimp only
  split
  · assumption
  · exact SMap.get_set_self ..
theorem rebase_tag_ne (s : State) {burst b : Nat} (k : BitVec 512) (h : b ≠ burst) :
    (s.rebase burst k).burst.get 0 b = s.burst.get 0 b := by
  unfold State.rebase
  dsimp only
  split
  · rfl
  · exact SMap.get_set_ne _ _ h.symm _
theorem rebase_mem_ne (s : State) {burst a : Nat} (k : BitVec 512) (h : a / 64 ≠ burst) :
    (s.rebase burst k).mem.get 0 a = s.mem.get 0 a := by
  unfold State.rebase
  dsimp only
  split
  · rfl
  · refine SMap.get_foldl_set_ne _ _ _ _ _ _ (fun i hi e => h ?_)
    have := List.mem_range.1 hi
    omega
theorem rebase_mem {s : State} {a : Nat} {k : BitVec 512} (h : s.burst.get 0 (a / 64) ≠ k) :
    (s.rebase (a / 64) k).mem.get 0 a = (s.burstUnder (a / 64) k >>> (8 * (a % 64))).setWidth 8 := by
  unfold State.rebase
  rw [if_neg h]
  refine SMap.get_foldl_set _ _ _ _ _ _ _ (fun i hi e => ?_) (Or.inr ⟨a % 64, List.mem_range.2 (by omega), by omega⟩)
  have := List.mem_range.1 hi
  have : i = a % 64 := by omega
  rw [this]
/-- A burst stored again under a key reads the same under that key. -/
theorem rebase_homeByte (s : State) (burst key a : Nat) {k : BitVec 512} (hk : s.keyOf key = k) :
    (s.rebase burst k).homeByte key a = s.homeByte key a := by
  have hk' : (s.rebase burst k).keyOf key = k := ((rebase_frame ..).keyOf key).trans hk
  by_cases e : a / 64 = burst
  · subst e
    rw [homeByte_of_tag (by rw [hk', rebase_tag])]
    by_cases h : s.burst.get 0 (a / 64) = k
    · unfold State.rebase; rw [if_pos h, homeByte_of_tag (by rw [hk, h])]
    · rw [rebase_mem h, homeByte_of_tag_ne (by rwa [hk]), hk]
  · refine homeByte_of_burst a (rebase_frame ..).keySlots (rebase_tag_ne _ _ e) (fun c hc => rebase_mem_ne _ _ ?_) key
    rwa [hc]
/-- A byte stored in another burst. -/
theorem put_homeByte_ne (s : State) {a c : Nat} (b : Byte) (h : c / 64 ≠ a / 64) (k : Nat) :
    ({ s with mem := s.mem.set 0 a b } : State).homeByte k c = s.homeByte k c := by
  refine homeByte_of_burst (s := s) (t := { s with mem := s.mem.set 0 a b }) c rfl rfl (fun x hx => SMap.get_set_ne _ _ ?_ _) k
  rintro rfl; exact h hx.symm

-- ## One byte written at home (R79 to R81, R97)

/-- The state in which a byte is about to be put: what others keep is kept, and the burst is under the key of the write. -/
def State.readied (s : State) (key a : Nat) : State :=
  (((s.sendAhead (a / 65536)).saveClaimed (a / 64)).takeDirty (a / 64) (s.keyOf key)).rebase (a / 64) (s.keyOf key)
theorem homePut_eq (s : State) (key a : Nat) (b : Byte) :
    s.homePut key a b = { s.readied key a with mem := (s.readied key a).mem.set 0 a b } := rfl

/-- Before the burst is stored again nothing stored has changed. -/
theorem kept_sameStore (s : State) (key a : Nat) :
    SameStore s (((s.sendAhead (a / 65536)).saveClaimed (a / 64)).takeDirty (a / 64) (s.keyOf key)) :=
  ((sendAhead_sameStore s _).trans (saveClaimed_sameStore _ _)).trans (takeDirty_sameStore ..)
theorem readied_frame (s : State) (key a : Nat) : HomeFrame s (s.readied key a) :=
  (kept_sameStore s key a).frame.trans (rebase_frame ..)
theorem readied_tag (s : State) (key a : Nat) : (s.readied key a).burst.get 0 (a / 64) = s.keyOf key := rebase_tag ..
theorem readied_homeByte (s : State) (key a c : Nat) : (s.readied key a).homeByte key c = s.homeByte key c := by
  have h := kept_sameStore s key a
  unfold State.readied
  rw [rebase_homeByte _ _ _ _ (h.frame.keyOf key), h.homeByte]
theorem readied_homeByte_ne (s : State) (key : Nat) {a c : Nat} (h : c / 64 ≠ a / 64) (k : Nat) :
    (s.readied key a).homeByte k c = s.homeByte k c := by
  rw [← (kept_sameStore s key a).homeByte k c]
  exact homeByte_of_burst c (rebase_frame ..).keySlots (rebase_tag_ne _ _ h) (fun x hx => rebase_mem_ne _ _ (by rwa [hx])) k

theorem homePut_frame (s : State) (key a : Nat) (b : Byte) : HomeFrame s (s.homePut key a b) := (readied_frame s key a).trans rfl
theorem homePut_poison (s : State) (key a : Nat) (b : Byte) : (s.homePut key a b).poison = s.poison :=
  (rebase_poison ..).trans (kept_sameStore s key a).poison
theorem homePut_copies (s : State) (key a : Nat) (b : Byte) : SameCopies s (s.homePut key a b) :=
  have h1 : SameCopies s (s.sendAhead (a / 65536)) := SameCopies.of_eq (sendAhead_ecmds s _)
  (h1.trans (saveClaimed_copies _ _)).trans (SameCopies.of_eq ((rebase_ecmds ..).trans (takeDirty_ecmds ..)))
/-- A byte written under a key reads back under it. -/
theorem homePut_homeByte_self (s : State) (key a : Nat) (b : Byte) : (s.homePut key a b).homeByte key a = b := by
  rw [homeByte_of_tag]
  · exact SMap.get_set_self ..
  · rw [(homePut_frame s key a b).keyOf]; exact readied_tag s key a
/-- Under the key of a write every other byte is as it was. -/
theorem homePut_homeByte_ne (s : State) (key : Nat) {a c : Nat} (b : Byte) (h : c ≠ a) :
    (s.homePut key a b).homeByte key c = s.homeByte key c := by
  have hmem : (s.homePut key a b).mem.get 0 c = (s.readied key a).mem.get 0 c := SMap.get_set_ne _ _ h.symm _
  by_cases e : c / 64 = a / 64
  · have ht : (s.readied key a).burst.get 0 (c / 64) = s.keyOf key := by rw [e, readied_tag]
    rw [← readied_homeByte s key a c, homeByte_of_tag (by rw [(homePut_frame s key a b).keyOf]; exact ht), hmem,
      homeByte_of_tag (by rw [(readied_frame s key a).keyOf]; exact ht)]
  · rw [homePut_eq, put_homeByte_ne _ b e, readied_homeByte_ne s key e]
/-- Other bursts are as they were under every key. -/
theorem homePut_homeByte_burst (s : State) (key : Nat) {a c : Nat} (b : Byte) (h : c / 64 ≠ a / 64) (k : Nat) :
    (s.homePut key a b).homeByte k c = s.homeByte k c := by
  rw [homePut_eq, put_homeByte_ne _ b h, readied_homeByte_ne s key h]

-- ## Bytes written at home together

/-- The bytes of a write, before its poison is cleared. -/
def State.homePuts (s : State) (key : Nat) (bs : List (Nat × Byte)) : State := bs.foldl (fun s p => s.homePut key p.1 p.2) s
@[simp] theorem homePuts_cons (s : State) (key : Nat) (p : Nat × Byte) (bs : List (Nat × Byte)) :
    s.homePuts key (p :: bs) = (s.homePut key p.1 p.2).homePuts key bs := rfl
theorem homePuts_frame (s : State) (key : Nat) (bs : List (Nat × Byte)) : HomeFrame s (s.homePuts key bs) := by
  induction bs generalizing s with
  | nil => exact HomeFrame.refl s
  | cons p bs ih => exact (homePut_frame s key p.1 p.2).trans (ih _)
theorem homePuts_copies (s : State) (key : Nat) (bs : List (Nat × Byte)) : SameCopies s (s.homePuts key bs) := by
  induction bs generalizing s with
  | nil => exact SameCopies.refl s
  | cons p bs ih => exact (homePut_copies s key p.1 p.2).trans (ih _)
theorem homePuts_poison (s : State) (key : Nat) (bs : List (Nat × Byte)) : (s.homePuts key bs).poison = s.poison := by
  induction bs generalizing s with
  | nil => rfl
  | cons p bs ih => rw [homePuts_cons, ih, homePut_poison]
theorem homePuts_homeByte_ne (s : State) (key : Nat) (bs : List (Nat × Byte)) {c : Nat} (h : c ∉ bs.map Prod.fst) :
    (s.homePuts key bs).homeByte key c = s.homeByte key c := by
  induction bs generalizing s with
  | nil => rfl
  | cons p bs ih =>
    rw [List.map_cons, List.mem_cons, not_or] at h
    rw [homePuts_cons, ih _ h.2, homePut_homeByte_ne s key p.2 h.1]
theorem homePuts_homeByte_burst (s : State) (key : Nat) (bs : List (Nat × Byte)) {c : Nat} (h : ∀ p ∈ bs, p.1 / 64 ≠ c / 64) (k : Nat) :
    (s.homePuts key bs).homeByte k c = s.homeByte k c := by
  induction bs generalizing s with
  | nil => rfl
  | cons p bs ih =>
    rw [homePuts_cons, ih _ (fun q hq => h q (List.mem_cons_of_mem p hq)),
      homePut_homeByte_burst s key p.2 (h p List.mem_cons_self).symm]
theorem homePuts_homeByte (s : State) (key : Nat) (bs : List (Nat × Byte)) (hd : (bs.map Prod.fst).Nodup) {p : Nat × Byte}
    (hp : p ∈ bs) : (s.homePuts key bs).homeByte key p.1 = p.2 := by
  induction bs generalizing s with
  | nil => cases hp
  | cons q bs ih =>
    rw [List.map_cons, List.nodup_cons] at hd
    rcases List.mem_cons.1 hp with rfl | hp
    · rw [homePuts_cons, homePuts_homeByte_ne _ _ _ hd.1, homePut_homeByte_self]
    · exact ih _ hd.2 hp

theorem mem_wholeWords (as : List Nat) (w : Nat) : w ∈ wholeWords as ↔ ∀ i, i < 32 → 32 * w + i ∈ as := by
  unfold wholeWords
  rw [List.mem_filter, List.mem_dedup, List.mem_map, List.all_eq_true]
  simp only [List.mem_range, List.contains_iff_mem]
  refine and_iff_right_of_imp (fun h => ⟨32 * w, ?_, by omega⟩)
  simpa using h 0 (by omega)

theorem homeWrite_eq (s : State) (key : Nat) (bs : List (Nat × Byte)) : s.homeWrite key bs = { s.homePuts key bs with
    poison := (wholeWords (bs.map Prod.fst)).foldl (fun m w => m.set false w false) (s.homePuts key bs).poison } := rfl
theorem homeWrite_frame (s : State) (key : Nat) (bs : List (Nat × Byte)) : HomeFrame s (s.homeWrite key bs) :=
  (homePuts_frame s key bs).trans rfl
theorem homeWrite_copies (s : State) (key : Nat) (bs : List (Nat × Byte)) : SameCopies s (s.homeWrite key bs) :=
  homePuts_copies s key bs
theorem homeWrite_puts (s : State) (key : Nat) (bs : List (Nat × Byte)) (k c : Nat) :
    (s.homeWrite key bs).homeByte k c = (s.homePuts key bs).homeByte k c := homeByte_congr rfl rfl rfl k c
/-- Bytes written together at distinct addresses read back under their key. -/
theorem homeWrite_homeByte (s : State) (key : Nat) (bs : List (Nat × Byte)) (hd : (bs.map Prod.fst).Nodup) {p : Nat × Byte}
    (hp : p ∈ bs) : (s.homeWrite key bs).homeByte key p.1 = p.2 := by
  rw [homeWrite_puts, homePuts_homeByte s key bs hd hp]
theorem homeWrite_homeByte_ne (s : State) (key : Nat) (bs : List (Nat × Byte)) {c : Nat} (h : c ∉ bs.map Prod.fst) :
    (s.homeWrite key bs).homeByte key c = s.homeByte key c := by
  rw [homeWrite_puts, homePuts_homeByte_ne s key bs h]
theorem homeWrite_homeByte_burst (s : State) (key : Nat) (bs : List (Nat × Byte)) {c : Nat} (h : ∀ p ∈ bs, p.1 / 64 ≠ c / 64)
    (k : Nat) : (s.homeWrite key bs).homeByte k c = s.homeByte k c := by
  rw [homeWrite_puts, homePuts_homeByte_burst s key bs h]
/-- A write clears the poison of the words that it covers whole, and of no others. -/
theorem homeWrite_homePoison (s : State) (key : Nat) (bs : List (Nat × Byte)) (a : Nat) :
    (s.homeWrite key bs).homePoison a = true ↔ s.homePoison a = true ∧ ∃ i, i < 32 ∧ 32 * (a / 32) + i ∉ bs.map Prod.fst := by
  unfold State.homePoison
  rw [homeWrite_eq, homePuts_poison]
  dsimp only
  by_cases h : a / 32 ∈ wholeWords (bs.map Prod.fst)
  · rw [SMap.get_foldl_set false _ (fun w => w) (fun _ => false) s.poison (a / 32) false (fun _ _ _ => rfl) (Or.inr ⟨_, h, rfl⟩)]
    rw [mem_wholeWords] at h
    simp only [Bool.false_eq_true, false_iff, not_and, not_exists, not_not]
    exact fun _ => h
  · rw [SMap.get_foldl_set_ne false _ (fun w => w) (fun _ => false) s.poison (a / 32) (fun w hw e => h (e ▸ hw))]
    rw [mem_wholeWords] at h
    push Not at h
    exact (and_iff_left h).symm

theorem homeMemory : Claim.HomeMemory := by
  intro s key bs
  exact ⟨fun hd p hp => homeWrite_homeByte s key bs hd hp, fun a ha => homeWrite_homeByte_ne s key bs ha,
    fun k a h => homeWrite_homeByte_burst s key bs h k, homeWrite_homePoison s key bs, homeWrite_frame s key bs, bytesOf_natOf,
    natOf_bytesOf⟩

end Machine
end Sys2Proof
end

section
/-! SUPPORT. What a regulator holds back: the outcomes of `State.pass`, and what each leaves (R101, R102). -/

namespace Sys2Proof.Machine

/-- The new requests that a regulator may hold back, each with its slice. -/
def State.regulated (s t : State) (reads : Bool) : List (Nat × Traffic) := (s.newRequests t reads).filter (fun x => decide (x.2.cls < 3))
/-- Requests as a post records them. -/
def postReqs (l : List (Nat × Traffic)) : List Traffic := l.map (fun x => { x.2 with id := 0, tick := 0, age := 0 })

/-- What an access that is held back leaves: its requests in their queues, and itself recorded. -/
def State.holding (s t : State) (reads : Bool) : State :=
  { (s.waiting t).arrive (s.regulated t reads) with posts := s.posts ++ [⟨postReqs (s.regulated t reads), s.tick⟩] }

/-- The outcomes of an access: on with all it made; on with its earlier requests in place of the new; still waiting for those; or
held back, its requests in their queues. -/
theorem pass_cases (s t : State) (reads : Bool) :
    s.pass t reads = .ok t
    ∨ (∃ p tr, s.pass t reads = .ok { t with posts := s.posts.erase p, traffic := tr })
    ∨ s.pass t reads = .error (s.waiting t)
    ∨ s.pass t reads = .error (s.holding t reads) := by
  unfold State.pass
  dsimp only
  split
  · exact Or.inl rfl
  · split
    · split
      · exact Or.inr (Or.inr (Or.inl rfl))
      · exact Or.inr (Or.inl ⟨_, _, rfl⟩)
    · split
      · exact Or.inl rfl
      · exact Or.inr (Or.inr (Or.inr rfl))

theorem pass_of_no_traffic {s t : State} (h : t.traffic = s.traffic) (reads : Bool) : s.pass t reads = .ok t := by
  unfold State.pass
  dsimp only
  rw [if_pos (Or.inl h)]
/-- With no access held back before, one goes on unless a regulator holds it back now. -/
theorem pass_of_free {s t : State} {reads : Bool} (hp : s.posts = []) (h : s.heldBack t reads = false) : s.pass t reads = .ok t := by
  unfold State.pass
  rw [hp, h]
  simp
theorem pass_of_held {s t : State} {reads : Bool} (hp : s.posts = []) (ht : t.traffic ≠ s.traffic) (hr : s.regulated t reads ≠ [])
    (h : s.heldBack t reads = true) : s.pass t reads = .error (s.holding t reads) := by
  have hr' : ¬ (t.traffic = s.traffic ∨ postReqs (s.regulated t reads) = []) := by
    simpa [postReqs, ht] using hr
  unfold State.pass
  dsimp only
  rw [hp]
  split
  · rename_i h'; exact absurd h' hr'
  · show (if (!s.heldBack t reads) = true then _ else _) = _
    rw [h]; simp only [State.holding, hp]; rfl

/-- A regulator without `CAP` admits every request. -/
theorem admitted_of_no_cap {s : State} (h : ∀ n k, fld (s.reg (l2RegAddr n k)) 1 1 = 0) (inst : Nat) (t : Traffic) (n : Nat) :
    s.admitted inst t n = true := by
  unfold State.admitted
  simp [h]
/-- A request that moves more bytes than the bucket of its enabled regulator with `CAP` holds is not admitted. -/
theorem not_admitted {s : State} {inst : Nat} {t : Traffic} {n : Nat} (hc : t.cls < 3) (he : t.slot ∉ s.ended)
    (hx : s.ctxEn t.slot = true) (hen : fld (s.reg (l2RegAddr t.slot (regOf inst t))) 0 0 = 1)
    (hcap : fld (s.reg (l2RegAddr t.slot (regOf inst t))) 1 1 = 1) (hb : s.bucket inst t.slot (regOf inst t) < 65536 * n) :
    s.admitted inst t n = false := by
  have hb' : ¬ n * 65536 ≤ s.bucket inst t.slot (regOf inst t) := by omega
  unfold State.admitted
  simp [hen, hcap, hx, he, hb', hc]

theorem le_foldl_add_of_mem {l : List Nat} {n : Nat} (h : n ∈ l) : n ≤ l.foldl (· + ·) 0 := by
  rw [← List.sum_eq_foldl]; exact List.le_sum_of_mem h
/-- One request that its bucket cannot serve holds the whole access back. -/
theorem heldBack_of_poor {s t : State} {reads : Bool} {x : Nat × Traffic} (hx : x ∈ s.newRequests t reads)
    (h : ∀ n, x.2.cost x.1 ≤ n → s.admitted x.1 x.2 n = false) : s.heldBack t reads = true := by
  unfold State.heldBack
  dsimp only
  rw [List.any_eq_true]
  have hx' : x ∈ s.newRequests t reads ++ s.missesOf (s.newRequests t reads) := List.mem_append_left _ hx
  refine ⟨x, hx', ?_⟩
  rw [h _ (le_foldl_add_of_mem (List.mem_map.2 ⟨x, List.mem_filter.2 ⟨hx', by simp⟩, rfl⟩))]
  rfl

/-- Requests that arrive stand in their queues, and none leaves. -/
theorem mem_arrive (l : List (Nat × Traffic)) (m : SMap (List Traffic)) (y : Nat × Traffic) (h : y ∈ l ∨ y.2 ∈ m.get [] y.1) :
    y.2 ∈ (l.foldl (fun m x => m.insert x.1 (m.get [] x.1 ++ [x.2])) m).get [] y.1 := by
  induction l generalizing m with
  | nil => simpa using h
  | cons x l ih =>
    refine ih _ ?_
    by_cases e : x.1 = y.1
    · have hg : SMap.get [] (m.insert x.1 (m.get [] x.1 ++ [x.2])) y.1 = m.get [] y.1 ++ [x.2] := by
        rw [SMap.get, SMap.find?_insert, if_pos e, e]; rfl
      rw [hg, List.mem_append, List.mem_singleton]
      rcases h with h | h
      · rcases List.mem_cons.1 h with rfl | h
        · exact Or.inr (Or.inr rfl)
        · exact Or.inl h
      · exact Or.inr (Or.inl h)
    · have hg : SMap.get [] (m.insert x.1 (m.get [] x.1 ++ [x.2])) y.1 = m.get [] y.1 := by
        rw [SMap.get, SMap.find?_insert, if_neg e]; rfl
      rw [hg]
      rcases h with h | h
      · rcases List.mem_cons.1 h with rfl | h
        · exact absurd rfl e
        · exact Or.inl h
      · exact Or.inr h

theorem regulated : Claim.Regulated := by
  intro s t reads
  refine ⟨fun u h => ?_, fun w h => ?_, fun h => pass_of_no_traffic h reads, fun hp => ⟨fun hc => ?_, ?_⟩⟩
  · rcases pass_cases s t reads with e | ⟨p, tr, e⟩ | e | e <;> rw [e] at h <;> cases h <;> rfl
  · rcases pass_cases s t reads with e | ⟨p, tr, e⟩ | e | e <;> rw [e] at h <;> cases h <;> rfl
  · refine pass_of_free hp ?_
    unfold State.heldBack
    simp [admitted_of_no_cap hc]
  · intro x hx ht hcls hctx hend k hen hcap hb
    have hheld : s.heldBack t reads = true := heldBack_of_poor hx (fun n hn =>
      not_admitted hcls hend hctx hen hcap (lt_of_lt_of_le hb (Nat.mul_le_mul_left _ hn)))
    have hr : s.regulated t reads ≠ [] := List.ne_nil_of_mem (List.mem_filter.2 ⟨hx, by simpa using hcls⟩)
    refine ⟨_, pass_of_held hp ht hr hheld, fun y hy hcy => ?_⟩
    exact mem_arrive _ _ y (Or.inl (List.mem_filter.2 ⟨hy, by simpa using hcy⟩))

end Sys2Proof.Machine
end

section
/-! SUPPORT. Engine accesses: what one finds at a byte, over a mapped range, and what it leaves at home (R84, R86, R97, R99, R115). -/

namespace Sys2Proof.Machine

-- ## Translation by an engine (R86)

/-- A walk that need not wait is taken in the step that needs it. -/
theorem walkNow_of_ok {s : State} {die slot va : Nat} {e : TlbE} (h : s.walkFree die slot va) (hw : s.walk slot va = .ok e) :
    s.walkNow die slot va none = (s.walkTraffic slot va, .hit e) := by
  obtain ⟨hnone, hheld, hlen⟩ := h
  unfold State.walkNow
  rw [hnone, hheld, hw]
  exact (if_neg (by simp)).trans (if_neg (by omega))
theorem walkNow_of_error {s : State} {die slot va : Nat} {f : XFault} (h : s.walkFree die slot va) (hw : s.walk slot va = .error f) :
    s.walkNow die slot va none = (s.walkTraffic slot va, .bad f) := by
  obtain ⟨hnone, hheld, hlen⟩ := h
  unfold State.walkNow
  rw [hnone, hheld, hw]
  exact (if_neg (by simp)).trans (if_neg (by omega))
/-- A walk that may not be taken now is joined, or takes its place, or waits for the key of its tables. -/
theorem walkNow_of_not_free {s : State} {die slot va : Nat} (h : ¬ s.walkFree die slot va) :
    ∃ s1, s1 = { s with walks := s1.walks, nextId := s1.nextId } ∧ s.walkNow die slot va none = (s1, .wait) := by
  unfold State.walkNow
  split
  · exact ⟨_, rfl, rfl⟩
  · rename_i hnone
    split
    · exact ⟨s, rfl, rfl⟩
    · rename_i hheld
      split
      · exact ⟨_, rfl, rfl⟩
      · rename_i hlen
        exact absurd ⟨hnone, by simpa using hheld, by omega⟩ h

theorem engXlate_of_hit {s : State} {die slot va : Nat} {e : TlbE} (hva : va < 2 ^ 52)
    (h : tlbFind (s.engTlb.get [] die) (s.ctxAsid slot) va = some e) : s.engXlate die slot va = (s, .hit e) := by
  unfold State.engXlate
  rw [if_neg (by omega), h]
/-- After a miss the leaf that a walk finds enters the engine TLB. -/
theorem engXlate_of_walked {s s1 : State} {die slot va : Nat} {e : TlbE} (hva : va < 2 ^ 52)
    (h : tlbFind (s.engTlb.get [] die) (s.ctxAsid slot) va = none) (hw : s.walkNow die slot va none = (s1, .hit e)) :
    s.engXlate die slot va = ({ s1 with engTlb := s1.engTlb.set [] die (tlbAdd 256 (s1.engTlb.get [] die) e) }, .hit e) := by
  unfold State.engXlate
  rw [if_neg (by omega), h]
  simp only [hw]
/-- After a miss a walk that finds no leaf gives the answer. -/
theorem engXlate_of_unwalked {s s1 : State} {die slot va : Nat} {x : XRes} (hva : va < 2 ^ 52)
    (h : tlbFind (s.engTlb.get [] die) (s.ctxAsid slot) va = none) (hw : s.walkNow die slot va none = (s1, x)) (hx : ∀ e, x ≠ .hit e) :
    s.engXlate die slot va = (s1, x) := by
  unfold State.engXlate
  rw [if_neg (by omega), h]
  cases x with
  | hit e => exact absurd rfl (hx e)
  | wait => simp only [hw]
  | bad f => simp only [hw]
/-- An engine that finds a page answers a hit, with no more than its TLB and the walk's requests changed. -/
theorem engXlate_of_finds {s : State} {die slot va : Nat} {e : TlbE} (h : EngFinds s die slot va e) :
    ∃ s1, s1 = { s with engTlb := s1.engTlb, traffic := s1.traffic, nextId := s1.nextId } ∧ s.engXlate die slot va = (s1, .hit e) := by
  obtain ⟨hva, h | ⟨hmiss, hfree, hwalk⟩⟩ := h
  · exact ⟨s, rfl, engXlate_of_hit hva h⟩
  · have ht := walkTraffic_only s slot va
    refine ⟨_, ?_, engXlate_of_walked hva hmiss (walkNow_of_ok hfree hwalk)⟩
    generalize s.walkTraffic slot va = t at ht ⊢
    rw [ht]

-- ## One byte (R84, R115)

/-- What an access to a byte in a page comes to: permissions, the key, the offload state, storage, in that order. -/
def State.byteIn (s : State) (need : Need) (va : Nat) (e : TlbE) : Except EStop (Nat × Attr) :=
  if (need = .r ∨ need = .rw) ∧ e.r = false then .error (.fault 0x07 0x8 va)
  else if (need = .w ∨ need = .rw) ∧ e.w = false then .error (.fault 0x07 0x9 va)
  else if need = .x ∧ e.x = false then .error (.fault 0x07 0xA va)
  else if s.keyLoaded e.key = false then .error (.fault 0x07 0xB va)
  else if s.keyLoad.contains e.key = true then .error .wait
  else if e.ofs = 2 then .error (.fault 0x08 0 va)
  else if e.ofs = 3 ∨ (e.ofs = 1 ∧ (need = .w ∨ need = .rw)) then .error .wait
  else if s.unbacked (e.at_ va) = true then .error (.fault 0x16 0 va)
  else .ok (canon (e.pa + (va - e.base)) e.dl, e.attr)
theorem writes_iff (n : Need) : n.writes = true ↔ n = .w ∨ n = .rw := by cases n <;> simp [Need.writes]
theorem offWait_iff (n : Need) (e : TlbE) : offWait n e = true ↔ e.ofs = 3 ∨ (e.ofs = 1 ∧ (n = .w ∨ n = .rw)) := by
  simp [offWait, writes_iff]
theorem engByte_of_hit {s s1 : State} {die slot va : Nat} {e : TlbE} (need : Need) (h : s.engXlate die slot va = (s1, .hit e)) :
    s.engByte die slot need va = (s1, s1.byteIn need va e) := by
  unfold State.engByte
  rw [h]
  dsimp only
  unfold State.permit State.byteIn
  simp only [Bool.and_eq_true, Bool.or_eq_true, decide_eq_true_eq, Bool.not_eq_true', writes_iff, offWait_iff]
  split_ifs <;> rfl
/-- A byte in a page that permits the access and is in place. -/
theorem byteIn_of_clear {s : State} {need : Need} {va : Nat} {e : TlbE} (hp : s.permit need e = none)
    (hk : s.keyLoad.contains e.key = false) (h2 : e.ofs ≠ 2) (ho : offWait need e = false) (hu : s.unbacked (e.at_ va) = false) :
    s.byteIn need va e = .ok (e.at_ va, e.attr) := by
  unfold State.permit at hp
  simp only [Bool.and_eq_true, Bool.or_eq_true, decide_eq_true_eq, Bool.not_eq_true', writes_iff] at hp
  rw [← Bool.not_eq_true, offWait_iff] at ho
  unfold State.byteIn
  split_ifs at hp with h1 h3 h4 h5
  rw [if_neg h1, if_neg h3, if_neg h4, if_neg h5, hk, if_neg (by simp), if_neg h2, if_neg ho, hu, if_neg (by simp)]
  rfl

-- ## A mapped range (R116)

theorem engByte_of_mapped {s : State} {die slot va j : Nat} {need : Need} {ls : List (Nat × Attr)} {x : Nat × Attr}
    (h : EngMapped s die slot need va ls) (hx : ls[j]? = some x) : s.engByte die slot need (va + j) = (s, .ok x) := by
  obtain ⟨hva, e, he, hp, hk, h2, ho, hu, rfl⟩ := h j x hx
  rw [engByte_of_hit need (engXlate_of_hit hva he), byteIn_of_clear hp hk h2 ho hu]
theorem engBytes_of_mapped {s : State} {die slot va : Nat} {need : Need} {ls : List (Nat × Attr)} (h : EngMapped s die slot need va ls)
    (hp : need = .r ∨ need = .rw → ∀ x ∈ ls, s.homePoison x.1 = false) :
    s.engBytes die slot need va ls.length = (s, .ok ls) := by
  suffices H : ∀ n, n ≤ ls.length → s.engBytes die slot need va n = (s, .ok (ls.take n)) by
    rw [H _ le_rfl, List.take_length]
  intro n hn
  induction n with
  | zero => rfl
  | succ n ih =>
    have hget : ls[n]? = some ls[n] := List.getElem?_eq_getElem hn
    have hclean : ¬ ((need = .r ∨ need = .rw) ∧ s.homePoison ls[n].1 = true) := fun ⟨a, b⟩ => by
      rw [hp a _ (List.getElem_mem hn)] at b; cases b
    unfold State.engBytes
    rw [ih (by omega)]
    dsimp only
    rw [engByte_of_mapped h hget]
    dsimp only
    rw [if_neg hclean, List.take_add_one, hget]
    rfl

-- ## Bytes scattered over pages of several keys (R81, R97)

/-- The bytes of a write that lie in pages of one key. -/
def underKey (l : List (Nat × Attr × Byte)) (k : Nat) : List (Nat × Byte) :=
  (l.filter (fun p => p.2.1.key == k)).map (fun p => (p.1, p.2.2))
theorem mem_underKey {l : List (Nat × Attr × Byte)} {k : Nat} {q : Nat × Byte} :
    q ∈ underKey l k ↔ ∃ p ∈ l, p.2.1.key = k ∧ q = (p.1, p.2.2) := by
  simp only [underKey, List.mem_map, List.mem_filter, beq_iff_eq, and_assoc, eq_comm (a := q)]
theorem underKey_nodup {l : List (Nat × Attr × Byte)} (h : (l.map Prod.fst).Nodup) (k : Nat) : ((underKey l k).map Prod.fst).Nodup := by
  rw [underKey, List.map_map]
  exact h.sublist (List.filter_sublist.map _)
/-- The writes of some of the keys, one after the other. -/
def State.scatters (s : State) (l : List (Nat × Attr × Byte)) (ks : List Nat) : State := ks.foldl (fun s k => s.homeWrite k (underKey l k)) s
theorem homeScatter_eq (s : State) (l : List (Nat × Attr × Byte)) :
    s.homeScatter l = s.scatters l (l.map (fun p => p.2.1.key)).dedup := rfl
@[simp] theorem scatters_cons (s : State) (l : List (Nat × Attr × Byte)) (k : Nat) (ks : List Nat) :
    s.scatters l (k :: ks) = (s.homeWrite k (underKey l k)).scatters l ks := rfl
theorem scatters_frame (s : State) (l : List (Nat × Attr × Byte)) (ks : List Nat) : HomeFrame s (s.scatters l ks) := by
  induction ks generalizing s with
  | nil => exact HomeFrame.refl s
  | cons k ks ih => exact (homeWrite_frame s k _).trans (ih _)
theorem scatters_copies (s : State) (l : List (Nat × Attr × Byte)) (ks : List Nat) : SameCopies s (s.scatters l ks) := by
  induction ks generalizing s with
  | nil => exact SameCopies.refl s
  | cons k ks ih => exact (homeWrite_copies s k _).trans (ih _)
/-- A byte in whose burst none of the keys writes is as it was, under every key. -/
theorem scatters_homeByte_burst (s : State) (l : List (Nat × Attr × Byte)) (ks : List Nat) {c : Nat}
    (h : ∀ p ∈ l, p.2.1.key ∈ ks → p.1 / 64 ≠ c / 64) (k : Nat) : (s.scatters l ks).homeByte k c = s.homeByte k c := by
  induction ks generalizing s with
  | nil => rfl
  | cons k' ks ih =>
    rw [scatters_cons, ih _ (fun p hp hk => h p hp (List.mem_cons_of_mem k' hk))]
    refine homeWrite_homeByte_burst s k' _ (fun q hq => ?_) k
    obtain ⟨p, hp, rfl, rfl⟩ := mem_underKey.1 hq
    exact h p hp List.mem_cons_self
/-- Where the bytes are distinct and no burst is written under two keys, each reads back under the key of its page. -/
theorem scatters_homeByte (s : State) {l : List (Nat × Attr × Byte)} {ks : List Nat} (hd : (l.map Prod.fst).Nodup) (hks : ks.Nodup)
    (hone : ∀ x ∈ l, ∀ y ∈ l, x.1 / 64 = y.1 / 64 → x.2.1.key = y.2.1.key) {p : Nat × Attr × Byte} (hp : p ∈ l)
    (hk : p.2.1.key ∈ ks) : (s.scatters l ks).homeByte p.2.1.key p.1 = p.2.2 := by
  induction ks generalizing s with
  | nil => cases hk
  | cons k ks ih =>
    rw [List.nodup_cons] at hks
    rw [scatters_cons]
    by_cases e : p.2.1.key ∈ ks
    · exact ih _ hks.2 e
    · have ek : p.2.1.key = k := (List.mem_cons.1 hk).resolve_right e
      rw [scatters_homeByte_burst _ l ks (fun q hq hqk hb => e (hone q hq p hp hb ▸ hqk)), ek]
      exact homeWrite_homeByte s k _ (underKey_nodup hd k) (mem_underKey.2 ⟨p, hp, ek, rfl⟩)

-- ## What an engine's write leaves

/-- The bytes of a write at the places found for them. -/
def placed (ls : List (Nat × Attr)) (bs : List Byte) : List (Nat × Attr × Byte) := (ls.zip bs).map (fun p => (p.1.1, p.1.2, p.2))
theorem placed_fst {ls : List (Nat × Attr)} {bs : List Byte} (h : bs.length = ls.length) :
    (placed ls bs).map (fun p => (p.1, p.2.1)) = ls := by
  rw [placed, List.map_map]
  exact List.map_fst_zip (by omega)
theorem mem_placed {ls : List (Nat × Attr)} {bs : List Byte} {p : Nat × Attr × Byte} (h : p ∈ placed ls bs) : (p.1, p.2.1) ∈ ls := by
  obtain ⟨⟨x, b⟩, hx, rfl⟩ := List.mem_map.1 h
  exact (List.of_mem_zip hx).1
theorem placed_of_getElem? {ls : List (Nat × Attr)} {bs : List Byte} {j : Nat} {x : Nat × Attr} {b : Byte} (hx : ls[j]? = some x)
    (hb : bs[j]? = some b) : (x.1, x.2, b) ∈ placed ls bs := by
  refine List.mem_map.2 ⟨(x, b), List.mem_of_getElem? (i := j) ?_, rfl⟩
  rw [List.getElem?_zip_eq_some]
  exact ⟨hx, hb⟩

/-- What an engine leaves at home that has made its requests and written bytes at the places found for them. -/
structure EngWrote (s t : State) (ls : List (Nat × Attr)) (bs : List Byte) : Prop where
  frame : HomeFrame s t
  copies : SameCopies s t
  bytes : ∀ (j : Nat) (x : Nat × Attr) (b : Byte), ls[j]? = some x → bs[j]? = some b → t.homeByte x.2.key x.1 = b
  others : ∀ k a, (∀ x ∈ ls, x.1 / 64 ≠ a / 64) → t.homeByte k a = s.homeByte k a
theorem scattered_wrote {s u : State} (hu : TrafficOnly s u) {ls : List (Nat × Attr)} {bs : List Byte} (hlen : bs.length = ls.length)
    (hd : (ls.map Prod.fst).Nodup) (hone : ∀ x ∈ ls, ∀ y ∈ ls, x.1 / 64 = y.1 / 64 → x.2.key = y.2.key) :
    EngWrote s (u.homeScatter (placed ls bs)) ls bs where
  frame := hu.sameStore.frame.trans (scatters_frame ..)
  copies := (SameCopies.of_eq hu.ecmds).trans (scatters_copies _ _ _)
  bytes j x b hx hb := by
    have hp := placed_of_getElem? hx hb
    have hd' : ((placed ls bs).map Prod.fst).Nodup := by
      rw [← placed_fst hlen, List.map_map] at hd; exact hd
    rw [homeScatter_eq]
    exact scatters_homeByte u hd' (List.nodup_dedup _) (fun x hx y hy => hone _ (mem_placed hx) _ (mem_placed hy)) hp
      (List.mem_dedup.2 (List.mem_map.2 ⟨_, hp, rfl⟩))
  others k a h := by
    rw [homeScatter_eq, scatters_homeByte_burst _ _ _ (fun p hp _ => h _ (mem_placed hp)), hu.sameStore.homeByte]

-- ## Reads, writes and updates over a mapped range (R97, R99, R101)

theorem gate_of_ok {α : Type} {s t u : State} {a : α} (h : s.pass t true = .ok u) : s.gate (t, (.ok a : Except EStop α)) = (u, .ok a) := by
  simp only [State.gate, h]
theorem gate_of_error {α : Type} {s t w : State} {a : α} (h : s.pass t true = .error w) :
    s.gate (t, (.ok a : Except EStop α)) = (w, .error .wait) := by simp only [State.gate, h]

section
variable {s : State} {die slot va : Nat} {ls : List (Nat × Attr)} (cls : Nat)

theorem rawRead_of_mapped (h : EngMapped s die slot .r va ls) (hp : ∀ x ∈ ls, s.homePoison x.1 = false) :
    s.rawRead cls die slot va ls.length = (s.engTraffic slot cls .read ls, .ok (ls.map (fun x => s.homeByte x.2.key x.1))) := by
  unfold State.rawRead
  rw [engBytes_of_mapped h (fun _ => hp)]
theorem rawWrite_of_mapped (h : EngMapped s die slot .w va ls) {bs : List Byte} (hlen : bs.length = ls.length) :
    s.rawWrite cls die slot va bs = ((s.engTraffic slot cls .write ls).homeScatter (placed ls bs), .ok ()) := by
  have hb : s.engBytes die slot .w va ls.length = (s, .ok ls) := engBytes_of_mapped h (by simp)
  have hl : (placed ls bs).map (fun p => (p.1, p.2.1)) = ls := placed_fst hlen
  unfold State.rawWrite State.engTargets
  rw [hlen, hb]
  show (s.rawPut slot cls (placed ls bs), _) = _
  rw [State.rawPut, hl]
theorem rawUpd_of_mapped (h : EngMapped s die slot .rw va ls) (hp : ∀ x ∈ ls, s.homePoison x.1 = false) (f : W64 → W64) :
    s.rawUpd cls die slot va ls.length f =
      ((s.engTraffic slot cls .atom ls).homeScatter (placed ls
          (bytesOf ls.length (f (BitVec.ofNat 64 (natOf (ls.map (fun x => s.homeByte x.2.key x.1))))).toNat)),
        .ok (BitVec.ofNat 64 (natOf (ls.map (fun x => s.homeByte x.2.key x.1))))) := by
  unfold State.rawUpd
  rw [engBytes_of_mapped h (fun _ => hp)]
  rfl
end

theorem engineAccesses : Claim.EngineAccesses := by
  intro s die slot va need
  refine ⟨fun hva => ?_, fun ⟨hva, hmiss⟩ hfree => ?_, fun f ⟨hva, hmiss⟩ hfree hw => ?_, fun e he => ?_, fun cls ls => ⟨?_, ?_, ?_⟩⟩
  · unfold State.engByte State.engXlate
    rw [if_pos hva]
  · obtain ⟨s1, hs, h1⟩ := walkNow_of_not_free hfree
    refine ⟨s1, hs, ?_⟩
    unfold State.engByte
    rw [engXlate_of_unwalked hva hmiss h1 (by simp)]
  · refine ⟨_, walkTraffic_only s slot va, ?_⟩
    unfold State.engByte
    rw [engXlate_of_unwalked hva hmiss (walkNow_of_error hfree hw) (by simp)]
  · obtain ⟨s1, hs, h1⟩ := engXlate_of_finds he
    refine ⟨s1, hs, (engByte_of_hit need h1).trans ?_⟩
    rw [hs]; rfl
  · intro h hp
    unfold State.engRead
    rw [rawRead_of_mapped cls h hp]
    exact ⟨fun w hw => gate_of_error hw, fun u hu => gate_of_ok hu⟩
  · rintro bs h hlen ⟨hd, hone⟩
    obtain ⟨hf, hc, hb, ho⟩ := scattered_wrote (engTraffic_only s slot cls .write ls) hlen hd hone
    refine ⟨_, rawWrite_of_mapped cls h hlen, ⟨hf, hc, hb, ho⟩, ?_⟩
    unfold State.engWrite
    rw [rawWrite_of_mapped cls h hlen]
    exact ⟨fun w hw => gate_of_error hw, fun u hu => gate_of_ok hu⟩
  · rintro f h hp ⟨hd, hone⟩
    obtain ⟨hf, hc, hb, ho⟩ := scattered_wrote (engTraffic_only s slot cls .atom ls) (bytesOf_length ls.length _) hd hone
    refine ⟨_, rawUpd_of_mapped cls h hp f, ⟨hf, hc, hb, ho⟩, ?_⟩
    unfold State.engUpd
    rw [rawUpd_of_mapped cls h hp f]
    exact ⟨fun w hw => gate_of_error hw, fun u hu => gate_of_ok hu⟩

/-- Settles O60: the three claims that it joins, each from the lemmas about the operation it speaks of. -/
theorem engineMemory : Obligations.EngineMemory := ⟨engineAccesses, regulated, homeMemory⟩

end Sys2Proof.Machine
end

section
/-! SUPPORT. Control registers: fields of a quadword, the table entries by address, and what a software write leaves (R7). -/

namespace Sys2Proof.Machine

-- ## Fields

theorem bitsM_getLsbD {hi lo : Nat} (hhi : hi < 64) (hlo : lo ≤ hi) (j : Nat) : (bitsM hi lo).getLsbD j = decide (lo ≤ j ∧ j ≤ hi) := by
  have e : 2 ^ (hi + 1) - 2 ^ lo = (2 ^ (hi + 1 - lo) - 1) * 2 ^ lo := by
    rw [Nat.sub_mul, Nat.one_mul, ← Nat.pow_add, Nat.sub_add_cancel (by omega)]
  rw [bitsM, BitVec.getLsbD_ofNat, e, Nat.testBit_mul_two_pow, Nat.testBit_two_pow_sub_one, Bool.eq_iff_iff]
  simp only [Bool.and_eq_true, decide_eq_true_eq]
  omega
theorem fld_testBit (v : W64) (hi lo j : Nat) : (fld v hi lo).testBit j = (decide (j < hi + 1 - lo) && v.getLsbD (lo + j)) := by
  rw [fld, Nat.testBit_mod_two_pow, Nat.testBit_div_two_pow, BitVec.getLsbD, Nat.add_comm j lo]
/-- A field depends on its own bits alone. -/
theorem fld_congr {v w : W64} {hi lo : Nat} (h : ∀ j, lo ≤ j → j ≤ hi → v.getLsbD j = w.getLsbD j) : fld v hi lo = fld w hi lo := by
  refine Nat.eq_of_testBit_eq (fun j => ?_)
  rw [fld_testBit, fld_testBit]
  by_cases hj : j < hi + 1 - lo
  · rw [h (lo + j) (by omega) (by omega)]
  · simp [hj]
theorem fld_bit (v : W64) (j : Nat) : fld v j j = (v.getLsbD j).toNat := by
  refine Nat.eq_of_testBit_eq (fun i => ?_)
  rw [fld_testBit]
  cases i with
  | zero => cases v.getLsbD j <;> simp
  | succ i => cases v.getLsbD j <;> simp [Nat.testBit_succ]
theorem fld_setFld (v : W64) {hi lo : Nat} (hhi : hi < 64) (hlo : lo ≤ hi) (x : Nat) :
    fld (setFld v hi lo x) hi lo = x % 2 ^ (hi + 1 - lo) := by
  refine Nat.eq_of_testBit_eq (fun j => ?_)
  rw [fld_testBit, Nat.testBit_mod_two_pow]
  by_cases hj : j < hi + 1 - lo
  · have h1 : lo + j < 64 := by omega
    have h2 : j < 64 := by omega
    have h3 : lo + j ≤ hi := by omega
    rw [setFld, BitVec.getLsbD_or, BitVec.getLsbD_and, BitVec.getLsbD_not, bitsM_getLsbD hhi hlo, BitVec.getLsbD_shiftLeft,
      BitVec.getLsbD_ofNat, Nat.testBit_mod_two_pow, Nat.add_sub_cancel_left]
    simp [hj, h1, h2, h3]
  · simp [hj]

-- ## What a software write leaves (R7)

theorem written_getLsbD (r : RegSpec) (old v : W64) (j : Nat) (hj : j < 64) : (r.written old v).getLsbD j =
    ((if r.rw.getLsbD j then v.getLsbD j else old.getLsbD j) && !(r.w1c.getLsbD j && v.getLsbD j)) := by
  simp only [RegSpec.written, BitVec.getLsbD_and, BitVec.getLsbD_or, BitVec.getLsbD_not, hj, decide_true, Bool.true_and]
  cases r.rw.getLsbD j <;> cases r.w1c.getLsbD j <;> cases v.getLsbD j <;> cases old.getLsbD j <;> rfl
/-- A field all of whose bits are `RW` takes its value from the write. -/
theorem fld_written {r : RegSpec} {hi lo : Nat} (hhi : hi < 64)
    (h : ∀ j, lo ≤ j → j ≤ hi → r.rw.getLsbD j = true ∧ r.w1c.getLsbD j = false) (old v : W64) :
    fld (r.written old v) hi lo = fld v hi lo := by
  refine fld_congr (fun j h1 h2 => ?_)
  obtain ⟨hrw, hw1c⟩ := h j h1 h2
  rw [written_getLsbD r old v j (by omega), hrw, hw1c]
  simp
theorem regPut_of_none {s : State} {a : Nat} (h : regSpec a = none) (v : W64) : s.regPut a v = s := by
  unfold State.regPut; rw [h]
theorem regPut_of_some {s : State} {a : Nat} {r : RegSpec} {v : W64} (h : regSpec a = some r) (hr : regRange a v = true) :
    s.regPut a v = s.setReg a (r.written (s.reg a) v) := by
  unfold State.regPut; rw [h]; exact if_pos hr
theorem regPut_of_range {s : State} {a : Nat} {v : W64} (hr : regRange a v = false) : s.regPut a v = s := by
  unfold State.regPut
  split
  · rfl
  · rw [hr]; rfl
@[simp] theorem reg_setReg_self (s : State) (a : Nat) (v : W64) : (s.setReg a v).reg a = v := by rw [reg_setReg, if_pos rfl]
theorem reg_setReg_ne (s : State) {a b : Nat} (v : W64) (h : b ≠ a) : (s.setReg a v).reg b = s.reg b := by
  rw [reg_setReg, if_neg h.symm]

-- ## The registers of a block

theorem unitAt_of_eq {base step n off a j : Nat} (ha : a = base + off + step * j) (hs : 0 < step) (hj : j < n) :
    unitAt base step n off a = some j := by
  have e : a - base - off = step * j := by omega
  unfold unitAt
  rw [e, Nat.mul_div_cancel_left j hs, if_pos ⟨by omega, Nat.mul_mod_right .., hj⟩]
theorem unitAt_of_ge {base step n off a : Nat} (hs : 0 < step) (h : base + off + step * n ≤ a) : unitAt base step n off a = none := by
  unfold unitAt
  refine if_neg (fun ⟨_, _, h'⟩ => ?_)
  rw [Nat.div_lt_iff_lt_mul hs, Nat.mul_comm] at h'
  omega
theorem unitAt_some {base step n off a j : Nat} (h : unitAt base step n off a = some j) : a = base + off + step * j ∧ j < n := by
  unfold unitAt at h
  split at h
  · rename_i hc
    obtain ⟨h1, h2, h3⟩ := hc
    cases h
    have := Nat.div_add_mod (a - base - off) step
    exact ⟨by omega, h3⟩
  · cases h

-- ## Table entries, by block

theorem regSpec_mcAddr {d off : Nat} (hd : d < 8) (ho : off < 0x10000) : regSpec (mcAddr d off) = mcSpec off := by
  have e : (mcAddr d off - 0xFF0000100000) % 0x10000 = off := by unfold mcAddr; omega
  have h : mcAddr d off < 0xFF0000180000 := by unfold mcAddr; omega
  unfold regSpec
  rw [if_neg (by unfold mcAddr; omega), if_pos h, e]
theorem regSpec_xl {a off : Nat} (e : a = 0xFF0000200000 + off) (h : off < 0x100000) : regSpec a = xlSpec off := by
  unfold regSpec
  iterate 3 rw [if_neg (by omega)]
  rw [if_pos (by omega), e, Nat.add_sub_cancel_left]
theorem regSpec_l2RegAddr {n k : Nat} (hn : n < 64) (hk : k < 6) : regSpec (l2RegAddr n k) = some ⟨0, bitsM 63 8 ||| 3, 0⟩ := by
  have e : l2RegAddr n k = 0xFF0000300000 + n * 0x40 + 8 * k := rfl
  unfold regSpec
  iterate 4 rw [if_neg (by omega)]
  rw [if_pos (by omega), if_pos]
  simp only [Bool.and_eq_true, decide_eq_true_eq, beq_iff_eq]
  omega
theorem regSpec_ceAddr {n : Nat} (hn : n < 32) : regSpec (ceAddr n 0) = some ⟨1, 3, 0⟩ := by
  have e : ceAddr n 0 = 0xFF0000400000 + n * 0x40 := rfl
  unfold regSpec
  iterate 6 rw [if_neg (by omega)]
  rw [if_pos (by omega), if_pos (by omega)]
theorem regSpec_ueJobAddr {n : Nat} (hn : n < 64) : regSpec (ueJobAddr n) = some ⟨0, bitsM 32 32 ||| bitsM 23 0, 0⟩ := by
  have e : ueJobAddr n = 0xFF0000500100 + 8 * n := rfl
  unfold regSpec
  iterate 11 rw [if_neg (by omega)]
  rw [if_pos (by omega), if_pos (by omega)]
theorem regSpec_fxAddr {p off : Nat} (hp : p < 16) (ho : off < 0x40) : regSpec (fxAddr p off) = fxSpec off := by
  have e : fxAddr p off = 0xFF0000600000 + p * 0x40 + off := rfl
  have e' : (fxAddr p off - 0xFF0000600000) % 0x40 = off := by omega
  unfold regSpec
  iterate 13 rw [if_neg (by omega)]
  rw [if_pos (by omega), e']
/-- The two registers of a remote-queue ring that software writes. -/
theorem regSpec_rrAddr {n : Nat} (hn : n < 64) :
    regSpec (rrAddr n 0) = some ⟨0, bitsM 51 12 ||| bitsM 4 0, 0⟩ ∧ regSpec (rrAddr n 8) = some ⟨0, bitsM 31 0, 0⟩ := by
  have e0 : rrAddr n 0 = 0xFF0000700000 + n * 0x20 := rfl
  have e8 : rrAddr n 8 = 0xFF0000700000 + n * 0x20 + 8 := rfl
  unfold regSpec
  constructor
  · iterate 17 rw [if_neg (by omega)]
    rw [if_pos (by omega), if_pos (by omega)]
  · iterate 17 rw [if_neg (by omega)]
    rw [if_pos (by omega), if_neg (by omega), if_pos (by omega)]
theorem regSpec_rv {a off : Nat} (e : a = 0xFF0000720000 + off) (h : off < 0x20000) : regSpec a = rvSpec off := by
  unfold regSpec
  iterate 19 rw [if_neg (by omega)]
  rw [if_pos (by omega), e, Nat.add_sub_cancel_left]
theorem regSpec_trcAddr {d off : Nat} (hd : d < 8) (ho : off < 0x400) : regSpec (trcAddr d off) = trcSpec off := by
  have e : trcAddr d off = 0xFF0000740000 + d * 0x400 + off := rfl
  have e' : (trcAddr d off - 0xFF0000740000) % 0x400 = off := by omega
  unfold regSpec
  iterate 20 rw [if_neg (by omega)]
  rw [if_pos (by omega), e']
theorem regSpec_trialAddr {off : Nat} (h : off < 0x40) : regSpec (trialAddr off) = trialSpec off := by
  have e : trialAddr off = 0xFF0000743000 + off := rfl
  unfold regSpec
  iterate 22 rw [if_neg (by omega)]
  rw [if_pos (by omega), e, Nat.add_sub_cancel_left]
theorem regSpec_dbgAddr {n : Nat} (hn : n < 64) : regSpec (dbgAddr n) = some ⟨0, bitsM 3 0, 0⟩ := by
  have e : dbgAddr n = 0xFF0000744000 + 8 * n := rfl
  unfold regSpec
  iterate 24 rw [if_neg (by omega)]
  rw [if_pos (by omega), if_pos (by omega)]
theorem regSpec_bootAddr {off : Nat} (h : off < 0x400) : regSpec (bootAddr off) = bootSpec off := by
  have e : bootAddr off = 0xFF0000780000 + off := rfl
  unfold regSpec
  iterate 26 rw [if_neg (by omega)]
  rw [if_pos (by omega), e, Nat.add_sub_cancel_left]

theorem regSpec_ctxCfgAddr {n : Nat} (hn : n < 64) : regSpec (ctxCfgAddr n) = some ⟨0, bitsM 31 24 ||| bitsM 17 0, 0⟩ := by
  rw [regSpec_xl (off := n * 0x10) (by unfold ctxCfgAddr; omega) (by omega), xlSpec, if_pos (by omega), if_pos (by omega)]
theorem regSpec_ctxRootAddr {n : Nat} (hn : n < 64) : regSpec (ctxRootAddr n) = some ⟨0, bitsM 47 16, 0⟩ := by
  rw [regSpec_xl (off := 8 + n * 0x10) (by unfold ctxRootAddr; omega) (by omega), xlSpec, if_pos (by omega), if_neg (by omega),
    if_pos (by omega)]
theorem regSpec_vrBaseAddr {k : Nat} (hk : k < 256) : regSpec (vrBaseAddr k) = some ⟨0, bitsM 51 16, 0⟩ := by
  rw [regSpec_xl (off := 0x1000 + 16 * k) (by unfold vrBaseAddr; omega) (by omega), xlSpec]
  simp only [Bool.and_eq_true, decide_eq_true_eq]
  iterate 4 rw [if_neg (by omega)]
  rw [if_pos (by omega), if_pos (by omega)]
theorem regSpec_vrCfgAddr {k : Nat} (hk : k < 256) : regSpec (vrCfgAddr k) = some ⟨0, bitsM 63 48 ||| bitsM 45 40 ||| bitsM 32 0, 0⟩ := by
  rw [regSpec_xl (off := 0x1008 + 16 * k) (by unfold vrCfgAddr; omega) (by omega), xlSpec]
  simp only [Bool.and_eq_true, decide_eq_true_eq]
  iterate 4 rw [if_neg (by omega)]
  rw [if_pos (by omega), if_neg (by omega), if_pos (by omega)]
theorem regSpec_invCmdAddr : regSpec invCmdAddr = some ⟨0, bitsM 47 16 ||| 3, 0⟩ := by decide
theorem regSpec_evBaseAddr {n : Nat} (hn : n < 64) : regSpec (evBaseAddr n) = some ⟨0, bitsM 51 12 ||| bitsM 4 0, 0⟩ := by
  rw [regSpec_rv (off := 0x1000 + 16 * n) (by unfold evBaseAddr; omega) (by omega), rvSpec]
  simp only [Bool.and_eq_true, Bool.or_eq_true, decide_eq_true_eq]
  iterate 4 rw [if_neg (by omega)]
  rw [if_pos (by omega), if_pos (by omega)]
theorem regSpec_evPtrAddr {n : Nat} (hn : n < 64) : regSpec (evPtrAddr n) = some ⟨0, bitsM 63 32, 0⟩ := by
  rw [regSpec_rv (off := 0x1008 + 16 * n) (by unfold evPtrAddr; omega) (by omega), rvSpec]
  simp only [Bool.and_eq_true, Bool.or_eq_true, decide_eq_true_eq]
  iterate 4 rw [if_neg (by omega)]
  rw [if_pos (by omega), if_neg (by omega), if_pos (by omega)]
theorem regSpec_linkAddr {k : Nat} (hk : k < 256) : regSpec (linkAddr k) = some ⟨0, bitsM 63 63 ||| bitsM 27 16 ||| bitsM 11 0, 0⟩ := by
  rw [regSpec_rv (off := 0x2000 + 16 * k) (by unfold linkAddr; omega) (by omega), rvSpec]
  simp only [Bool.and_eq_true, Bool.or_eq_true, decide_eq_true_eq]
  iterate 6 rw [if_neg (by omega)]
  rw [if_pos (by omega), if_pos (by omega)]
theorem regSpec_trapVecAddr {n : Nat} (hn : n < 64) : regSpec (trapVecAddr n) = some ⟨0, bitsM 51 3 ||| 1, 0⟩ := by
  rw [regSpec_rv (off := 0x3000 + 32 * n) (by unfold trapVecAddr; omega) (by omega), rvSpec]
  simp only [Bool.and_eq_true, Bool.or_eq_true, decide_eq_true_eq]
  iterate 7 rw [if_neg (by omega)]
  rw [if_pos (by omega), if_pos (by omega)]
theorem regSpec_trCfgAddr {k : Nat} (hk : k < 256) :
    regSpec (trCfgAddr k) = some ⟨12, bitsM 32 32 ||| bitsM 29 24 ||| bitsM 3 0, 0⟩ := by
  rw [regSpec_rv (off := 0x4000 + 16 * k) (by unfold trCfgAddr; omega) (by omega), rvSpec]
  simp only [Bool.and_eq_true, Bool.or_eq_true, decide_eq_true_eq]
  iterate 8 rw [if_neg (by omega)]
  rw [if_pos (by omega), if_pos (by omega)]

end Sys2Proof.Machine
end

section
/-! SUPPORT. The state after reset (R7, R16, R439). -/

namespace Sys2Proof.Machine

theorem reset_reg (a : Nat) : State.reset.reg a = regReset a := rfl
theorem reset_reg_of {a : Nat} {r : RegSpec} (h : regSpec a = some r) : State.reset.reg a = r.reset := by
  rw [reset_reg, regReset, h]
theorem fld_zero (hi lo : Nat) : fld 0 hi lo = 0 := by simp [fld]
/-- Memory of zeros in plaintext, none of it poisoned. -/
theorem reset_homeByte (a : Nat) : State.reset.homeByte 0 a = 0 := homeByte_of_tag rfl
theorem reset_slot {n : Nat} (hn : n < 64) :
    State.reset.ctxEn n = false ∧ State.reset.jobEn n = false ∧ State.reset.trapEn n = false := by
  unfold State.ctxEn State.jobEn State.trapEn
  rw [reset_reg_of (regSpec_ctxCfgAddr hn), reset_reg_of (regSpec_ueJobAddr hn), reset_reg_of (regSpec_trapVecAddr hn)]
  simp only [fld_zero]
  exact ⟨rfl, rfl, rfl⟩
theorem allLanes_getLsbD (w l : Nat) (hl : l < 64) : (allLanes w).getLsbD l = decide (l < w) := by
  rw [allLanes, BitVec.getLsbD_ofNat, Nat.testBit_two_pow_sub_one]
  simp [hl]

/-- Settles O59: every register by its entry in the tables, every other field as reset lists it. -/
theorem resetState : Obligations.ResetState := by
  refine ⟨rfl, fun k a => ⟨reset_homeByte a, rfl, rfl⟩, fun u => rfl, rfl, fun d hd => ⟨?_, ?_⟩, fun e he => ?_, fun p hp => ?_, ?_, ?_, ?_,
    fun k hk => ⟨?_, ?_⟩, fun n hn => reset_slot hn, ?_, ?_, ?_, fun tid ctx gi role rank width budget slot core part entry vcur vpart lbase
    lsize t => ?_⟩
  · exact reset_reg_of (regSpec_mcAddr (off := 0) hd (by omega))
  · exact reset_reg_of (regSpec_trcAddr (off := 0) hd (by omega))
  · exact reset_reg_of (regSpec_ceAddr he)
  · exact reset_reg_of (regSpec_fxAddr (off := 0) hp (by omega))
  · decide
  · decide
  · decide
  · exact reset_reg_of (regSpec_trCfgAddr hk)
  · exact reset_reg_of (regSpec_linkAddr hk)
  · decide
  · decide
  · decide
  · exact ⟨rfl, rfl, rfl, rfl, rfl, rfl, rfl, rfl, rfl, rfl, _, rfl, rfl, rfl, fun l hl => allLanes_getLsbD width l hl⟩

end Sys2Proof.Machine
end

section
/-! SUPPORT. Writes of control registers, and the host port (R7, R20, R439, R448). -/

namespace Sys2Proof.Machine

theorem exec_registerWrite (s : State) : exec .registerWrite s = .next (s.ctlWrite s.ev.addr.toNat s.ev.val) := rfl
theorem exec_hostPortWrite (s : State) : exec .hostPortWrite s =
    .next (if s.boot.phase ≠ .off ∧ s.ev.val.toNat = fld (s.reg (bootAddr 0x18)) 23 0 then s.hostWrite s.ev.addr.toNat s.ev.bytes else s) :=
  rfl
theorem ctlWrite_of_own {s t : State} {a : Nat} {v : W64} (h : s.ownWrite a v = some t) : s.ctlWrite a v = t := by
  unfold State.ctlWrite; rw [h]
theorem ctlWrite_at {s t : State} {a b : Nat} {v : W64} (e : a = b) (h : s.ownWrite b v = some t) : s.ctlWrite a v = t :=
  ctlWrite_of_own (e ▸ h)
theorem ctlWrite_of_none {s : State} {a : Nat} {v : W64} (h : s.ownWrite a v = none) : s.ctlWrite a v = s.regPut a v := by
  unfold State.ctlWrite; rw [h]

-- ## Registers with an effect of their own

theorem ownWrite_invCmd (s : State) (v : W64) : s.ownWrite invCmdAddr v = some (s.invWrite v) := rfl
theorem ownWrite_bootStat (s : State) (v : W64) : s.ownWrite (bootAddr 8) v = some (s.bootStatWrite v) := rfl
theorem ownWrite_fxCtl (s : State) {p : Nat} (hp : p < 16) (v : W64) : s.ownWrite (fxAddr p 0) v = some (s.fxCtlWrite p v) := by
  have e : fxAddr p 0 = 0xFF0000600000 + p * 0x40 := rfl
  unfold State.ownWrite
  iterate 5 rw [if_neg (by omega)]
  rw [if_pos (by omega), unitAt_of_eq (j := p) (by omega) (by omega) hp]
  rfl
theorem ownWrite_trcCtl (s : State) {d : Nat} (hd : d < 8) (v : W64) : s.ownWrite (trcAddr d 0) v = some (s.trcCtlWrite d v) := by
  have e : trcAddr d 0 = 0xFF0000740000 + d * 0x400 := rfl
  unfold State.ownWrite
  iterate 8 rw [if_neg (by omega)]
  rw [if_pos (by omega), unitAt_of_eq (j := d) (by omega) (by omega) hd]
  rfl
theorem ownWrite_link (s : State) {l : Nat} (hl : l < 256) (v : W64) : s.ownWrite (linkAddr l) v = some (s.linkWrite l v) := by
  have e : linkAddr l = 0xFF0000722000 + 16 * l := rfl
  unfold State.ownWrite
  iterate 7 rw [if_neg (by omega)]
  rw [if_pos (by omega), unitAt_of_ge (by omega) (by omega), unitAt_of_ge (by omega) (by omega), unitAt_of_eq (j := l) (by omega) (by omega) hl]
/-- The registers of traps and saving, four quadwords for each slot. -/
theorem ownWrite_trapReg (s : State) {n k : Nat} (hn : n < 64) (hk : k < 4) (v : W64) :
    s.ownWrite (trapVecAddr n + 8 * k) v = some (s.trapRegWrite n (trapVecAddr n + 8 * k) v) := by
  have e : trapVecAddr n = 0xFF0000723000 + 32 * n := rfl
  have en : (4 * n + k) / 4 = n := by omega
  unfold State.ownWrite
  iterate 7 rw [if_neg (by omega)]
  rw [if_pos (by omega), unitAt_of_ge (by omega) (by omega), unitAt_of_ge (by omega) (by omega), unitAt_of_ge (by omega) (by omega),
    unitAt_of_eq (j := 4 * n + k) (by omega) (by omega) (by omega)]
  show some (s.trapRegWrite ((4 * n + k) / 4) _ v) = _
  rw [en]

-- ## Where no register stands

/-- No unit of a block of registers is at an address where no register stands. -/
theorem unitAt_of_no_register {base step n off a : Nat} (h : regSpec a = none)
    (hu : ∀ j, j < n → ∃ b r, base + off + step * j = b ∧ regSpec b = some r) : unitAt base step n off a = none := by
  cases e : unitAt base step n off a with
  | none => rfl
  | some j =>
    obtain ⟨ha, hj⟩ := unitAt_some e
    obtain ⟨b, r, hb, hr⟩ := hu j hj
    rw [ha, hb, hr] at h
    cases h
theorem ne_of_no_register {a b : Nat} {r : RegSpec} (h : regSpec a = none) (hb : regSpec b = some r) : a ≠ b := by
  rintro rfl; rw [h] at hb; cases hb
theorem regSpec_trial_slot {j : Nat} (hj : j < 8) : ∃ r, regSpec (trialAddr (8 * j)) = some r := by
  rw [regSpec_trialAddr (by omega), ← Option.isSome_iff_exists]
  interval_cases j <;> rfl
/-- Every register with an effect of its own has a table entry. Among the registers of traps and saving each slot has one quadword
without (R412), at which nothing is kept. -/
theorem ownWrite_of_no_register (s : State) {a : Nat} (h : regSpec a = none) (v : W64) :
    s.ownWrite a v = none ∨ ∃ n, s.ownWrite a v = some (s.trapRegWrite n a v) := by
  have cfg : unitAt 0xFF0000200000 0x10 64 0 a = none :=
    unitAt_of_no_register h (fun j hj => ⟨_, _, by unfold ctxCfgAddr; omega, regSpec_ctxCfgAddr hj⟩)
  have root : unitAt 0xFF0000200000 0x10 64 8 a = none :=
    unitAt_of_no_register h (fun j hj => ⟨_, _, by unfold ctxRootAddr; omega, regSpec_ctxRootAddr hj⟩)
  have vrb : unitAt 0xFF0000201000 0x10 256 0 a = none :=
    unitAt_of_no_register h (fun j hj => ⟨_, _, by unfold vrBaseAddr; omega, regSpec_vrBaseAddr hj⟩)
  have vrc : unitAt 0xFF0000201000 0x10 256 8 a = none :=
    unitAt_of_no_register h (fun j hj => ⟨_, _, by unfold vrCfgAddr; omega, regSpec_vrCfgAddr hj⟩)
  have ce : unitAt 0xFF0000400000 0x40 32 0 a = none :=
    unitAt_of_no_register h (fun j hj => ⟨_, _, by unfold ceAddr; omega, regSpec_ceAddr hj⟩)
  have job : unitAt 0xFF0000500100 8 64 0 a = none :=
    unitAt_of_no_register h (fun j hj => ⟨_, _, by unfold ueJobAddr; omega, regSpec_ueJobAddr hj⟩)
  have fx : unitAt 0xFF0000600000 0x40 16 0 a = none :=
    unitAt_of_no_register h (fun j hj => ⟨_, _, by unfold fxAddr; omega, regSpec_fxAddr (off := 0) hj (by omega)⟩)
  have rr0 : unitAt 0xFF0000700000 0x20 64 0 a = none :=
    unitAt_of_no_register h (fun j hj => ⟨_, _, by unfold rrAddr; omega, (regSpec_rrAddr hj).1⟩)
  have rr8 : unitAt 0xFF0000700000 0x20 64 8 a = none :=
    unitAt_of_no_register h (fun j hj => ⟨_, _, by unfold rrAddr; omega, (regSpec_rrAddr hj).2⟩)
  have evb : unitAt 0xFF0000721000 16 64 0 a = none :=
    unitAt_of_no_register h (fun j hj => ⟨_, _, by unfold evBaseAddr; omega, regSpec_evBaseAddr hj⟩)
  have evp : unitAt 0xFF0000721000 16 64 8 a = none :=
    unitAt_of_no_register h (fun j hj => ⟨_, _, by unfold evPtrAddr; omega, regSpec_evPtrAddr hj⟩)
  have link : unitAt 0xFF0000722000 16 256 0 a = none :=
    unitAt_of_no_register h (fun j hj => ⟨_, _, by unfold linkAddr; omega, regSpec_linkAddr hj⟩)
  have tr : unitAt 0xFF0000724000 16 256 0 a = none :=
    unitAt_of_no_register h (fun j hj => ⟨_, _, by unfold trCfgAddr; omega, regSpec_trCfgAddr hj⟩)
  have trc : unitAt 0xFF0000740000 0x400 8 0 a = none :=
    unitAt_of_no_register h (fun j hj => ⟨_, _, by unfold trcAddr; omega, regSpec_trcAddr (off := 0) hj (by omega)⟩)
  have trial : unitAt 0xFF0000743000 8 8 0 a = none := unitAt_of_no_register h (fun j hj =>
    (regSpec_trial_slot hj).elim (fun r hr => ⟨_, r, by unfold trialAddr; omega, hr⟩))
  have dbg : unitAt 0xFF0000744000 8 64 0 a = none :=
    unitAt_of_no_register h (fun j hj => ⟨_, _, by unfold dbgAddr; omega, regSpec_dbgAddr hj⟩)
  have reg (f : Nat → State) :
      (if (a - 0xFF0000300000) / 8 % 8 < 6 then (unitAt 0xFF0000300000 8 512 0 a).map f else none) = none := by
    split
    · cases e : unitAt 0xFF0000300000 8 512 0 a with
      | none => rfl
      | some j =>
        obtain ⟨ha, hj⟩ := unitAt_some e
        exact absurd (by unfold l2RegAddr; omega) (ne_of_no_register h (regSpec_l2RegAddr (n := j / 8) (k := j % 8) (by omega) (by omega)))
    · rfl
  have b0 := ne_of_no_register h (regSpec_bootAddr (off := 0) (by omega))
  have b8 := ne_of_no_register h (regSpec_bootAddr (off := 8) (by omega))
  have b20 := ne_of_no_register h (regSpec_bootAddr (off := 0x20) (by omega))
  have inv := ne_of_no_register h regSpec_invCmdAddr
  unfold State.ownWrite
  simp only [cfg, root, vrb, vrc, ce, job, fx, rr0, rr8, evb, evp, link, tr, trc, trial, dbg, reg, if_neg b0, if_neg b8, if_neg b20,
    if_neg inv, Option.map_none, ite_self]
  cases unitAt 0xFF0000723000 8 256 0 a with
  | none => exact Or.inl (by simp only [ite_self])
  | some j =>
    by_cases hlo : a < 0xFF0000720000
    · exact Or.inl (by simp only [if_pos hlo, ite_self])
    · by_cases hhi : a < 0xFF0000740000
      · refine Or.inr ⟨j / 4, ?_⟩
        iterate 7 rw [if_neg (by omega)]
        rw [if_pos hhi]
      · exact Or.inl (by simp only [if_neg hhi, ite_self])
/-- A write where no register stands has no effect. -/
theorem ctlWrite_of_no_register {s : State} {a : Nat} (h : regSpec a = none) (v : W64) : s.ctlWrite a v = s := by
  rcases ownWrite_of_no_register s h v with e | ⟨n, e⟩
  · rw [ctlWrite_of_none e, regPut_of_none h]
  · rw [ctlWrite_of_own e, State.trapRegWrite, regPut_of_none h, ite_self]

-- ## A register without an effect of its own (R7)

/-- What changes of the state where only one control register is written. -/
def OnlyReg (s t : State) (a : Nat) : Prop := t = { s with mmio := t.mmio } ∧ ∀ b, b ≠ a → t.reg b = s.reg b
theorem setReg_onlyReg (s : State) (a : Nat) (v : W64) : OnlyReg s (s.setReg a v) a := ⟨rfl, fun _ hb => reg_setReg_ne s v hb⟩
/-- `bitsM` covers a field that lies within it. -/
theorem bitsM_covers {hi lo j : Nat} (hhi : hi < 64) (h1 : lo ≤ j) (h2 : j ≤ hi) : (bitsM hi lo).getLsbD j = true := by
  rw [bitsM_getLsbD hhi (by omega)]; simp [h1, h2]

-- ## `FX_CTL` (R324), `BOOT_STAT` (R450), `XL_INVCMD` (R90)

theorem fxCtlWrite_of_no_reset {s : State} {v : W64} (p : Nat) (h : fld v 1 1 = 0) :
    s.fxCtlWrite p v = s.setReg (fxAddr p 0) (setFld (s.reg (fxAddr p 0)) 0 0 (fld v 0 0)) := by
  unfold State.fxCtlWrite
  rw [h]
  rfl
theorem bootStatWrite_of_ok {s : State} {v : W64} (h : fld v 4 4 = 1) : s.bootStatWrite v = s.bootOk := by
  unfold State.bootStatWrite; rw [if_pos h]
/-- While `OK` is cleared the device is not open and `BOOT_CAP` reads 0. -/
theorem bootStatWrite_of_clear {s : State} {v : W64} (h : fld v 4 4 = 0) :
    ∃ w, s.bootStatWrite v = (s.setReg (bootAddr 8) w).setReg (bootAddr 0x10) 0 ∧ fld w 4 4 = 0 := by
  have hs : regSpec (bootAddr 8) = some ⟨0, 16, 0⟩ := regSpec_bootAddr (off := 8) (by omega)
  unfold State.bootStatWrite
  rw [h, regPut_of_some hs rfl]
  refine ⟨_, rfl, (fld_written (by omega) (fun j h1 h2 => ?_) _ v).trans h⟩
  obtain rfl : j = 4 := by omega
  exact ⟨rfl, rfl⟩
theorem opened_iff (s : State) : s.opened = true ↔ s.boot.phase = .open_ ∧ fld (s.reg (bootAddr 8)) 4 4 = 1 := by
  unfold State.opened
  rw [Bool.and_eq_true, beq_iff_eq, beq_iff_eq]
theorem not_opened_of_ok {s : State} (h : fld (s.reg (bootAddr 8)) 4 4 = 0) : s.opened = false := by
  rw [← Bool.not_eq_true, opened_iff, h]; simp
theorem capBytes_of_not_opened {s : State} (h : s.opened = false) : s.capBytes = [] := by
  unfold State.capBytes; rw [h]; rfl
theorem invWrite_of_kind_zero {s : State} {v : W64} (h : fld v 1 0 = 0) (hh : s.invHeld = []) :
    s.invWrite v = s.setReg invCmdAddr ((⟨0, bitsM 47 16 ||| 3, 0⟩ : RegSpec).written (s.reg invCmdAddr) v) := by
  unfold State.invWrite State.invTake
  rw [hh, h, regPut_of_some regSpec_invCmdAddr rfl]
  rfl

-- ## `TRC_CTL` (R430)

/-- One cluster's buffer discards its records. -/
def State.emptyTrace (s : State) (cl : Nat) : State :=
  { s with tbufs := s.tbufs.set TraceBuf.init cl ({ s.tbufs.get TraceBuf.init cl with recs := [], lost := 0 } : TraceBuf).settle }
theorem dropTrace_eq (s : State) (d : Nat) : s.dropTrace d = (List.range 5).foldl (fun s i => s.emptyTrace (5 * d + i)) s := rfl
/-- When the first `n` clusters of a die have discarded theirs, those buffers are empty and no other has changed. -/
theorem emptyTrace_range (s : State) (d n : Nat) : ∃ x, (List.range n).foldl (fun s i => s.emptyTrace (5 * d + i)) s = { s with tbufs := x }
    ∧ ∀ k, if 5 * d ≤ k ∧ k < 5 * d + n then (x.get TraceBuf.init k).recs = [] ∧ (x.get TraceBuf.init k).lost = 0
        else x.get TraceBuf.init k = s.tbufs.get TraceBuf.init k := by
  induction n with
  | zero => exact ⟨s.tbufs, rfl, fun k => by rw [if_neg (by omega)]⟩
  | succ n ih =>
    obtain ⟨x, hx, hk⟩ := ih
    rw [List.range_succ, List.foldl_append, hx]
    refine ⟨_, rfl, fun k => ?_⟩
    have hk := hk k
    rw [SMap.get_set]
    by_cases e : 5 * d + n = k
    · rw [if_pos (by omega), if_pos e]
      unfold TraceBuf.settle
      split <;> exact ⟨rfl, rfl⟩
    · rw [if_neg e]
      by_cases hc : 5 * d ≤ k ∧ k < 5 * d + n
      · rw [if_pos hc] at hk; rwa [if_pos (by omega)]
      · rw [if_neg hc] at hk; rwa [if_neg (by omega)]
/-- The buffers of a die's five clusters become empty, and no other does. -/
theorem dropTrace_spec (s : State) (d : Nat) : ∃ x, s.dropTrace d = { s with tbufs := x }
    ∧ ∀ k, if k / 5 = d then (x.get TraceBuf.init k).recs = [] ∧ (x.get TraceBuf.init k).lost = 0
        else x.get TraceBuf.init k = s.tbufs.get TraceBuf.init k := by
  obtain ⟨x, hx, hk⟩ := emptyTrace_range s d 5
  refine ⟨x, (dropTrace_eq s d).trans hx, fun k => ?_⟩
  have hk := hk k
  by_cases e : k / 5 = d
  · rw [if_pos e]; rwa [if_pos (by omega)] at hk
  · rw [if_neg e]; rwa [if_neg (by omega)] at hk

theorem regRange_trcCtl {d : Nat} (hd : d < 8) (v : W64) : regRange (trcAddr d 0) v = true := by
  have e : trcAddr d 0 = 0xFF0000740000 + d * 0x400 := rfl
  have hq : rvQtabAddr = 0xFF0000720000 := rfl
  have ht : trialAddr 0 = 0xFF0000743000 := rfl
  have hp : bootAddr 0x100 = 0xFF0000780100 := rfl
  have hf : bootAddr 0x200 = 0xFF0000780200 := rfl
  simp only [regRange, Bool.and_eq_true, decide_eq_true_eq, beq_iff_eq]
  iterate 8 rw [if_neg (by omega)]
/-- The value `TRC_CTL` takes: `LOAD` stays 1, the other fields come from the write. -/
def trcCtlValue (old v : W64) : W64 := (⟨0, bitsM 23 16 ||| bitsM 12 8 ||| 7, 0⟩ : RegSpec).written old (v ||| (old &&& 2))
theorem trcCtl_regPut (s : State) {d : Nat} (hd : d < 8) (v : W64) : s.regPut (trcAddr d 0) (v ||| (s.reg (trcAddr d 0) &&& 2)) =
    s.setReg (trcAddr d 0) (trcCtlValue (s.reg (trcAddr d 0)) v) := by
  exact regPut_of_some (regSpec_trcAddr (off := 0) hd (by omega)) (regRange_trcCtl hd _)
theorem trcCtlValue_rw {j : Nat} (h : j ≤ 2 ∨ (8 ≤ j ∧ j ≤ 12) ∨ (16 ≤ j ∧ j ≤ 23)) :
    (bitsM 23 16 ||| bitsM 12 8 ||| 7 : W64).getLsbD j = true := by
  have h7 : (7 : W64) = bitsM 2 0 := by decide
  rw [h7, BitVec.getLsbD_or, BitVec.getLsbD_or, bitsM_getLsbD (by omega) (by omega), bitsM_getLsbD (by omega) (by omega),
    bitsM_getLsbD (by omega) (by omega)]
  simp only [Bool.or_eq_true, decide_eq_true_eq]
  omega
/-- A field of `TRC_CTL` other than `LOAD` takes its value from the write. -/
theorem fld_trcCtlValue (old v : W64) {hi lo : Nat}
    (h : ∀ j, lo ≤ j → j ≤ hi → j = 0 ∨ j = 2 ∨ (8 ≤ j ∧ j ≤ 12) ∨ (16 ≤ j ∧ j ≤ 23))
    (hhi : hi < 64) : fld (trcCtlValue old v) hi lo = fld v hi lo := by
  rw [trcCtlValue, fld_written hhi (fun j h1 h2 => ⟨trcCtlValue_rw (by have := h j h1 h2; omega), by simp⟩)]
  refine fld_congr (fun j h1 h2 => ?_)
  have h2' : (2 : W64) = bitsM 1 1 := by decide
  have hj : ¬ (1 ≤ j ∧ j ≤ 1) := by have := h j h1 h2; omega
  rw [h2', BitVec.getLsbD_or, BitVec.getLsbD_and, bitsM_getLsbD (by omega) (by omega)]
  simp [hj]
theorem fld_trcCtlValue_load (old v : W64) : fld (trcCtlValue old v) 1 1 = max (fld old 1 1) (fld v 1 1) := by
  rw [trcCtlValue, fld_written (by omega) (fun j h1 h2 => ⟨trcCtlValue_rw (by omega), by simp⟩), fld_bit, fld_bit, fld_bit,
    BitVec.getLsbD_or, BitVec.getLsbD_and]
  have h2 : (2 : W64).getLsbD 1 = true := by decide
  rw [h2]
  cases v.getLsbD 1 <;> cases old.getLsbD 1 <;> rfl
theorem trcCtlWrite_spec (s : State) {d : Nat} (hd : d < 8) (v : W64) : ∃ x,
    s.trcCtlWrite d v = { s.setReg (trcAddr d 0) (trcCtlValue (s.reg (trcAddr d 0)) v) with tbufs := x }
    ∧ (fld v 0 0 = 1 → x = s.tbufs)
    ∧ (fld v 0 0 = 0 → ∀ k, if k / 5 = d then (x.get TraceBuf.init k).recs = [] ∧ (x.get TraceBuf.init k).lost = 0
        else x.get TraceBuf.init k = s.tbufs.get TraceBuf.init k) := by
  have hon : (s.setReg (trcAddr d 0) (trcCtlValue (s.reg (trcAddr d 0)) v)).trcOn d = (fld v 0 0 == 1) := by
    unfold State.trcOn
    rw [reg_setReg_self, fld_trcCtlValue _ _ (by omega) (by omega)]
  unfold State.trcCtlWrite
  dsimp only
  rw [trcCtl_regPut s hd, hon]
  by_cases h : fld v 0 0 = 1
  · rw [h]
    exact ⟨s.tbufs, rfl, fun _ => rfl, by simp⟩
  · obtain ⟨x, hx, hk⟩ := dropTrace_spec (s.setReg (trcAddr d 0) (trcCtlValue (s.reg (trcAddr d 0)) v)) d
    rw [if_neg (by simpa using h)]
    exact ⟨x, hx, fun h' => absurd h' h, fun _ => hk⟩

-- ## The host port (R20, R448)

theorem canon_false (pa : Nat) : canon pa false = pa := by
  simp only [canon, stackLg, Bool.false_eq_true, if_false, Nat.xor_assoc, Nat.xor_self, Nat.xor_zero]
  omega
/-- Bytes at consecutive addresses. -/
def runOf (a : Nat) (bs : List Byte) : List (Nat × Byte) := bs.zipIdx.map (fun p => (a + p.2, p.1))
theorem mem_runOf {a : Nat} {bs : List Byte} {q : Nat × Byte} : q ∈ runOf a bs ↔ ∃ j, bs[j]? = some q.2 ∧ q.1 = a + j := by
  constructor
  · intro h
    obtain ⟨⟨b, j⟩, hm, rfl⟩ := List.mem_map.1 h
    exact ⟨j, List.mem_zipIdx_iff_getElem?.1 hm, rfl⟩
  · rintro ⟨j, hb, ha⟩
    exact List.mem_map.2 ⟨(q.2, j), List.mem_zipIdx_iff_getElem?.2 hb, by rw [← ha]⟩
theorem lt_of_mem_runOf {a : Nat} {bs : List Byte} {q : Nat × Byte} (h : q ∈ runOf a bs) : ∃ j, j < bs.length ∧ q.1 = a + j := by
  obtain ⟨j, hb, ha⟩ := mem_runOf.1 h
  exact ⟨j, (List.getElem?_eq_some_iff.1 hb).1, ha⟩
theorem runOf_nodup (a : Nat) (bs : List Byte) : ((runOf a bs).map Prod.fst).Nodup := by
  have e : (runOf a bs).map Prod.fst = (bs.zipIdx.map Prod.snd).map (fun j => a + j) := by
    rw [runOf, List.map_map, List.map_map]; rfl
  rw [e, List.zipIdx_map_snd]
  exact (List.nodup_range' ..).map (fun x y h => by omega)
/-- A write by physical address that has storage for all its bytes. -/
theorem physWrite_of_backed {s : State} {a : Nat} {bs : List Byte} (h : ∀ j, j < bs.length → s.unbacked (a + j) = false) :
    s.physWrite a bs = (s.trafficks 0 3 .write ⟨0, 0, false⟩ ((runOf a bs).map Prod.fst)).homeWrite 0 (runOf a bs) := by
  have e : (bs.zipIdx.map (fun p => (canon (a + p.2) false, p.1))).filter (fun p => !s.unbacked p.1) = runOf a bs := by
    simp only [canon_false]
    refine List.filter_eq_self.2 (fun q hq => ?_)
    obtain ⟨j, hj, ha⟩ := lt_of_mem_runOf hq
    rw [ha, h j hj]; rfl
  unfold State.physWrite
  dsimp only
  rw [e]
theorem physWrite_spec {s : State} {a : Nat} {bs : List Byte} (h : ∀ j, j < bs.length → s.unbacked (a + j) = false) :
    HomeFrame s (s.physWrite a bs)
    ∧ (∀ (j : Nat) (b : Byte), bs[j]? = some b → (s.physWrite a bs).homeByte 0 (a + j) = b)
    ∧ (∀ x, x < a ∨ a + bs.length ≤ x → (s.physWrite a bs).homeByte 0 x = s.homeByte 0 x)
    ∧ ∀ k x, (∀ j, j < bs.length → (a + j) / 64 ≠ x / 64) → (s.physWrite a bs).homeByte k x = s.homeByte k x := by
  have ht := (trafficks_only s 0 3 .write ⟨0, 0, false⟩ ((runOf a bs).map Prod.fst)).sameStore
  rw [physWrite_of_backed h]
  refine ⟨ht.frame.trans (homeWrite_frame ..), fun j b hb => ?_, fun x hx => ?_, fun k x hx => ?_⟩
  · exact homeWrite_homeByte _ 0 _ (runOf_nodup a bs) (p := (a + j, b)) (mem_runOf.2 ⟨j, hb, rfl⟩)
  · rw [homeWrite_homeByte_ne, ht.homeByte]
    intro hm
    obtain ⟨q, hq, rfl⟩ := List.mem_map.1 hm
    obtain ⟨j, hj, ha⟩ := lt_of_mem_runOf hq
    omega
  · rw [homeWrite_homeByte_burst, ht.homeByte]
    intro q hq
    obtain ⟨j, hj, ha⟩ := lt_of_mem_runOf hq
    rw [ha]; exact hx j hj

/-- Before the device is open, or past the end of HBM, a host's write of memory does nothing. -/
theorem hostWrite_hbm_refused {s : State} {a : Nat} {bs : List Byte} (h : ¬ s.opened = true ∨ hbmEnd < a + bs.length) (ha : a < hbmEnd) :
    s.hostWrite a bs = s := by
  unfold State.hostWrite
  dsimp only
  rw [if_pos ha, if_neg]
  rintro ⟨h1, h2⟩
  rcases h with h | h
  · exact h h1
  · omega
theorem hostWrite_hbm {s : State} {a : Nat} {bs : List Byte} (h : s.opened = true) (hl : a + bs.length ≤ hbmEnd) (ha : a < hbmEnd) :
    s.hostWrite a bs = s.physWrite a bs := by
  unfold State.hostWrite
  dsimp only
  rw [if_pos ha, if_pos ⟨h, hl⟩]
/-- What the host may write of the control registers. -/
def State.hostMay (s : State) (a : Nat) (bs : List Byte) : Prop :=
  csrBase ≤ a ∧ a % 8 = 0 ∧ bs.length = 8 ∧ a ≠ bootAddr 8 ∧ (s.opened = true ∨ bootBlock a = true)
theorem hostWrite_reg_refused {s : State} {a : Nat} {bs : List Byte} (ha : hbmEnd ≤ a) (h : ¬ s.hostMay a bs) : s.hostWrite a bs = s := by
  unfold State.hostWrite
  dsimp only
  rw [if_neg (by omega)]
  exact if_neg h
theorem hostWrite_reg {s : State} {a : Nat} {bs : List Byte} (h : s.hostMay a bs) :
    s.hostWrite a bs = s.ctlWrite a (BitVec.ofNat 64 (natOf bs)) := by
  have hb : hbmEnd ≤ csrBase := by decide
  have ha : ¬ a < hbmEnd := Nat.not_lt.2 (hb.trans h.1)
  unfold State.hostWrite
  dsimp only
  rw [if_neg ha]
  exact if_pos h
theorem bootBlock_iff (a : Nat) : bootBlock a = true ↔ bootAddr 0 ≤ a ∧ a < bootAddr 0x100 := by
  unfold bootBlock
  rw [Bool.and_eq_true, decide_eq_true_eq, decide_eq_true_eq]

-- ## The clauses of the obligation

/-- A register without an effect of its own. -/
theorem registerWrite_plain {s : State} {a : Nat} {v : W64} {r : RegSpec} (hs : regSpec a = some r) (hw : s.ownWrite a v = none)
    (hr : regRange a v = true) : OnlyReg s (s.ctlWrite a v) a ∧ ∀ j, j < 64 → ((s.ctlWrite a v).reg a).getLsbD j =
      ((if r.rw.getLsbD j then v.getLsbD j else (s.reg a).getLsbD j) && !(r.w1c.getLsbD j && v.getLsbD j)) := by
  rw [ctlWrite_of_none hw, regPut_of_some hs hr, reg_setReg_self]
  exact ⟨setReg_onlyReg .., fun j hj => written_getLsbD r _ v j hj⟩

/-- Settles O46: each register's clause by the effect its table gives it, the host port's by what it lets through. -/
theorem registerWrites : Obligations.RegisterWrites := by
  intro s a v
  rw [exec_registerWrite]
  refine ⟨fun h => ?_, fun r hs hw => ⟨fun hr => ?_, fun hr => ?_⟩, fun p hp ha h => ?_, fun l hl ha h1 h2 => ?_,
    fun n k hn hk ha ⟨x, hx, hc⟩ => ?_, fun ha => ⟨fun h => ?_, fun h => ?_⟩, fun ha h hh => ?_, fun d hd ha => ?_, ?_⟩
  · exact congrArg _ (ctlWrite_of_no_register h v)
  · exact congrArg _ ((ctlWrite_of_none hw).trans (regPut_of_range hr))
  · obtain ⟨⟨h1, h2⟩, h3⟩ := registerWrite_plain hs hw hr
    exact ⟨_, rfl, h1, h2, h3⟩
  · refine ⟨_, congrArg _ ((ctlWrite_at ha (ownWrite_fxCtl s hp v)).trans (fxCtlWrite_of_no_reset p h)), rfl, ?_, ?_⟩
    · rw [ha, reg_setReg_self, fld_setFld _ (by omega) (by omega)]
      exact Nat.mod_mod _ _
    · rw [ha]; exact (setReg_onlyReg ..).2
  · refine congrArg _ ((ctlWrite_at ha (ownWrite_link s hl v)).trans ?_)
    exact if_pos ⟨ha ▸ h1, h2⟩
  · refine congrArg _ ((ctlWrite_at ha (ownWrite_trapReg s hn (by omega) v)).trans ?_)
    refine if_pos ?_
    rw [State.hasGroups, Bool.or_eq_true, List.any_eq_true]
    exact Or.inl ⟨x, hx, by simpa using hc⟩
  · exact congrArg _ ((ctlWrite_at ha (ownWrite_bootStat s v)).trans (bootStatWrite_of_ok h))
  · obtain ⟨w, hw, h4⟩ := bootStatWrite_of_clear (s := s) h
    have ho : ((s.setReg (bootAddr 8) w).setReg (bootAddr 0x10) 0).opened = false := by
      refine not_opened_of_ok ?_
      rw [reg_setReg_ne _ _ (by decide), reg_setReg_self, h4]
    exact ⟨_, congrArg _ ((ctlWrite_at ha (ownWrite_bootStat s v)).trans hw), rfl, ho, capBytes_of_not_opened ho, reg_setReg_self ..⟩
  · refine ⟨_, congrArg _ ((ctlWrite_at ha (ownWrite_invCmd s v)).trans (invWrite_of_kind_zero h hh)), rfl, ?_, ?_⟩
    all_goals
      rw [ha, reg_setReg_self]
      refine fld_written (by omega) (fun j h1 h2 => ⟨?_, by simp⟩) _ v
      rw [BitVec.getLsbD_or, bitsM_covers (by omega) (by omega) (by omega), Bool.true_or]
  · obtain ⟨x, hx, hon, hoff⟩ := trcCtlWrite_spec s hd v
    refine ⟨_, congrArg _ ((ctlWrite_at ha (ownWrite_trcCtl s hd v)).trans hx), rfl, hon, hoff, ?_⟩
    have hreg : ∀ b, ({ s.setReg (trcAddr d 0) (trcCtlValue (s.reg (trcAddr d 0)) v) with tbufs := x } : State).reg b =
        (s.setReg (trcAddr d 0) (trcCtlValue (s.reg (trcAddr d 0)) v)).reg b := fun b => reg_congr rfl b
    simp only [hreg, ha, reg_setReg_self]
    exact ⟨fld_trcCtlValue_load .., fld_trcCtlValue _ _ (by omega) (by omega), fld_trcCtlValue _ _ (by omega) (by omega),
      fld_trcCtlValue _ _ (by omega) (by omega), fld_trcCtlValue _ _ (by omega) (by omega), fun b hb => reg_setReg_ne s _ hb⟩
  · rw [exec_hostPortWrite]
    intro bs named full
    have hfull : s.opened = true ↔ full := opened_iff s
    refine ⟨fun h => ?_, fun hp hn ha h => ?_, fun hn hf hl hb ha => ?_, fun hp hn ha h => ?_, fun hp hn ha h8 hl hne h => ?_⟩
    · refine congrArg _ (if_neg ?_)
      rintro ⟨h1, h2⟩
      rcases h with h | h
      · exact h1 h
      · exact h h2
    · exact congrArg _ ((if_pos ⟨hp, hn⟩).trans (hostWrite_hbm_refused (h.imp_left (mt hfull.1)) ha))
    · obtain ⟨h1, h2, h3, h4⟩ := physWrite_spec hb
      have hp : s.boot.phase ≠ .off := by rw [hf.1]; decide
      exact ⟨_, congrArg _ ((if_pos ⟨hp, hn⟩).trans (hostWrite_hbm (hfull.2 hf) hl ha)), h1, h2, h3, h4⟩
    · refine congrArg _ ((if_pos ⟨hp, hn⟩).trans (hostWrite_reg_refused ha ?_))
      rintro ⟨h1, h2, h3, h4, h5⟩
      rw [bootBlock_iff, hfull] at h5
      rcases h with h | h | h | h | ⟨hf, h⟩
      · omega
      · exact h h2
      · exact h h3
      · exact h4 h
      · obtain ⟨hlo, hhi⟩ := h5.resolve_left hf
        omega
    · refine congrArg _ ((if_pos ⟨hp, hn⟩).trans (hostWrite_reg ⟨ha, h8, hl, hne, ?_⟩))
      rwa [bootBlock_iff, hfull]

end Sys2Proof.Machine
end

section
/-! SUPPORT. Where decoding does not give back the instruction encoded (R28, R137, R148). -/

namespace Sys2Proof

/-- R148 reserves the bits in which the common memory form carries its hint (R137): a hinted `LDP` and one without a hint have the
same words. -/
theorem encode_ldp_hint (h : Hdr) (w64 : Bool) (sc : Scope) (acq : Bool) (hnt : Hint) (d : Reg) (a : SReg) (b c : Reg) :
    encode (.ldp h w64 sc acq hnt d a b c) = encode (.ldp h w64 sc acq .none d a b c) := rfl

/-- Refutes O54: no clause of `Instr.wf` limits the hint of an `LDP`, and its words do not carry it, so the hinted
`LDP.w32.team.acq.strm V8, [S4 + V6], V7` decodes to the same instruction without its hint. -/
theorem not_decodeEncode : ¬ Obligations.DecodeEncode := by
  intro roundTrip
  have hinted := roundTrip (.ldp ⟨false, 7, false, false, 0⟩ false .team true .strm 8 4 6 7) (by decide) (by decide)
  have plain := roundTrip (.ldp ⟨false, 7, false, false, 0⟩ false .team true .none 8 4 6 7) (by decide) (by decide)
  rw [encode_ldp_hint, plain] at hinted
  exact absurd hinted (by decide)

end Sys2Proof
end

section
/-! SUPPORT. Decoding read backwards: the fields that a decoder took apart, put together again (R28, R32, R49, R309, R431). -/

namespace Sys2Proof

-- ## What a decoder can answer

/-- Every answer of a decoder has a property. -/
def Yields {α : Type} (P : α → Prop) (o : Option α) : Prop := ∀ a ∈ o, P a

section
variable {α β : Type} {P : β → Prop} {Q : α → Prop} {o o' : Option β} {x : Option α} {k : α → Option β} {b : Bool}
theorem Yields.none : Yields P none := fun _ h => nomatch h
theorem Yields.some {a : β} (h : P a) : Yields P (some a) := fun _ e => Option.some.inj e ▸ h
theorem Yields.bind (hx : Yields Q x) (h : ∀ a, Q a → Yields P (k a)) : Yields P (x >>= k) := by
  intro i e
  obtain ⟨a, ha, hi⟩ := Option.bind_eq_some_iff.1 e
  exact h a (hx a ha) i hi
theorem Yields.need (h : b = true → Yields P o) : Yields P (need b >>= fun _ => o) := by
  refine .bind (Q := fun _ => b = true) (fun _ e => ?_) fun _ => h
  unfold Sys2Proof.need at e
  split at e
  · assumption
  · cases e
theorem Yields.ite (h1 : b = true → Yields P o) (h2 : (!b) = true → Yields P o') : Yields P (if b = true then o else o') := by
  split
  · exact h1 ‹_›
  · exact h2 (Bool.not_eq_true' b ▸ Bool.eq_false_iff.2 ‹_›)
end

-- ## Codes: what has been read from a code has that code

theorem ITy.code_ofCode : ∀ c, (ITy.ofCode c).code = c := by decide
theorem Scope.code_ofCode : ∀ c, (Scope.ofCode c).code = c := by decide
theorem Ord4.code_ofCode : ∀ c, (Ord4.ofCode c).code = c := by decide
theorem BOp.code_ofCode : ∀ c, (BOp.ofCode c).code = c := by decide
theorem FCmp.code_ofCode : ∀ c, (FCmp.ofCode c).code = c := by decide
theorem WCmp.code_ofCode : ∀ c, (WCmp.ofCode c).code = c := by decide
theorem ShflMode.code_ofCode : ∀ c, (ShflMode.ofCode c).code = c := by decide
theorem RedOp.code_ofCode : ∀ c, (RedOp.ofCode c).code = c := by decide
theorem CpyDir.code_ofCode : ∀ c, (CpyDir.ofCode c).code = c := by decide
theorem RM.code_of_some : ∀ c, Yields (fun r => (RM.code r).toNat = c.toNat) (RM.ofCode c) := by unfold Yields; decide
theorem Hint.code_of_some : ∀ c, Yields (fun r => (Hint.code r).toNat = c.toNat) (Hint.ofCode c) := by unfold Yields; decide
theorem MTy.code_of_some : ∀ c, Yields (fun r => (MTy.code r).toNat = c.toNat) (MTy.ofCode c) := by unfold Yields; decide
theorem ICmp.code_of_some : ∀ c, Yields (fun r => (ICmp.code r).toNat = c.toNat) (ICmp.ofCode c) := by unfold Yields; decide
theorem SOp.code_of_some : ∀ c, Yields (fun r => (SOp.code r).toNat = c.toNat) (SOp.ofCode c) := by unfold Yields; decide
theorem OvfOp.code_of_some : ∀ c, Yields (fun r => (OvfOp.code r).toNat = c.toNat) (OvfOp.ofCode c) := by unfold Yields; decide
theorem BlkLen.code_of_some : ∀ c, Yields (fun r => (BlkLen.code r).toNat = c.toNat) (BlkLen.ofCode c) := by unfold Yields; decide
theorem FRedOp.code_of_some : ∀ c, Yields (fun r => (FRedOp.code r).toNat = c.toNat) (FRedOp.ofCode c) := by unfold Yields; decide
theorem LdcTy.code_of_some : ∀ c, Yields (fun r => (LdcTy.code r).toNat = c.toNat) (LdcTy.ofCode c) := by unfold Yields; decide
theorem StwsOp.code_of_some : ∀ c, Yields (fun r => (StwsOp.code r).toNat = c.toNat) (StwsOp.ofCode c) := by unfold Yields; decide
theorem CctlOp.code_of_some : ∀ c, Yields (fun r => (CctlOp.code r).toNat = c.toNat) (CctlOp.ofCode c) := by unfold Yields; decide
theorem AOp.code_of_some : ∀ c, Yields (fun r => (AOp.code r).toNat = c.toNat) (AOp.ofCode c) := by unfold Yields; decide
theorem AFmt.code_of_some : ∀ c, Yields (fun r => (AFmt.code r).toNat = c.toNat) (AFmt.ofCode c) := by unfold Yields; decide
theorem ASOp.code_of_some : ∀ c, Yields (fun r => (ASOp.code r).toNat = c.toNat) (ASOp.ofCode c) := by unfold Yields; decide
theorem RAOp.code_of_some : ∀ c, Yields (fun r => (RAOp.code r).toNat = c.toNat) (RAOp.ofCode c) := by unfold Yields; decide
theorem PhMode.code_of_some : ∀ c, Yields (fun r => (PhMode.code r).toNat = c.toNat) (PhMode.ofCode c) := by unfold Yields; decide
theorem FCond.code_of_some : ∀ c, Yields (fun r => (FCond.code r).toNat = c.toNat) (FCond.ofCode c) := by unfold Yields; decide
theorem yields_sOf (r : BitVec 8) : Yields (fun a => (r8 a).toNat = r.toNat) (sOf r) := by
  intro a h
  unfold sOf at h
  split at h
  · cases h; unfold r8; rw [BitVec.toNat_setWidth, BitVec.toNat_setWidth]; omega
  · cases h
theorem yields_pOf (r : BitVec 8) : Yields (fun p => (r8 p).toNat = r.toNat) (pOf r) := by
  intro p h
  unfold pOf at h
  split at h
  · cases h; unfold r8; rw [BitVec.toNat_setWidth, BitVec.toNat_setWidth]; omega
  · cases h
theorem yields_tOf (r : BitVec 8) : Yields (fun t => (r8 t).toNat = r.toNat) (tOf r) := by
  intro t h
  unfold tOf at h
  split at h
  · cases h; unfold r8; rw [BitVec.toNat_setWidth, BitVec.toNat_setWidth]; omega
  · cases h

-- ## Bits and fields as numbers

theorem toNat_append_add {m n : Nat} (x : BitVec m) (y : BitVec n) : (x ++ y).toNat = x.toNat * 2 ^ n + y.toNat := by
  rw [BitVec.toNat_append, ← Nat.shiftLeft_add_eq_or_of_lt y.isLt, Nat.shiftLeft_eq]
theorem toNat_extract {n : Nat} (x : BitVec n) (lo k : Nat) : (x.extractLsb' lo k).toNat = x.toNat / 2 ^ lo % 2 ^ k := by
  rw [BitVec.extractLsb'_toNat, Nat.shiftRight_eq_div_pow]
theorem toNat_getLsbD {n : Nat} (x : BitVec n) (i : Nat) : (x.getLsbD i).toNat = x.toNat / 2 ^ i % 2 := by
  unfold BitVec.getLsbD
  rw [Nat.testBit_eq_decide_div_mod_eq]
  rcases Nat.mod_two_eq_zero_or_one (x.toNat / 2 ^ i) with h | h <;> simp [h]
theorem getLsbD_eq_true_toNat {n : Nat} (x : BitVec n) (i : Nat) : (x.getLsbD i = true) = (x.toNat / 2 ^ i % 2 = 1) := by
  rw [← toNat_getLsbD]; cases x.getLsbD i <;> simp
theorem toNat_b1 (b : Bool) : (b1 b).toNat = b.toNat := BitVec.toNat_ofBool b
theorem toNat_not (b : Bool) : (!b).toNat = 1 - b.toNat := by cases b <;> rfl

theorem not_eq_true_toNat (b : Bool) : ((!b) = true) = (b.toNat = 0) := by cases b <;> simp
theorem bne_true_toNat (a b : Bool) : ((a != b) = true) = (a.toNat ≠ b.toNat) := by cases a <;> cases b <;> simp
theorem beq_true_toNat {n : Nat} (x y : BitVec n) : ((x == y) = true) = (x.toNat = y.toNat) := by
  rw [beq_iff_eq, BitVec.toNat_inj]
theorem Fields.toNat_x1 (f : Fields) (i : Nat) : (f.x1 i).toNat = f.x.toNat / 2 ^ i % 2 := toNat_getLsbD ..
theorem Fields.x1_eq_true (f : Fields) (i : Nat) : (f.x1 i = true) = (f.x.toNat / 2 ^ i % 2 = 1) := by
  rw [← f.toNat_x1]; cases f.x1 i <;> simp
theorem Fields.toNat_xb (f : Fields) (lo k : Nat) : (f.xb lo k).toNat = f.x.toNat / 2 ^ lo % 2 ^ k := toNat_extract ..
theorem Fields.toNat_k (f : Fields) : f.k.toNat = f.x.toNat / 2 ^ 12 % 2 := f.toNat_x1 12
theorem Fields.toNat_sb (f : Fields) : f.sb.toNat = f.x.toNat / 2 ^ 11 % 2 := f.toNat_x1 11
theorem Fields.k_eq (f : Fields) (b : Bool) : (f.k = b) = (f.x.toNat / 2 ^ 12 % 2 = b.toNat) := by
  rw [← f.toNat_k]; cases f.k <;> cases b <;> simp
theorem toNat_xKS (k sb : Bool) (r : BitVec 11) : (xKS k sb r).toNat = k.toNat * 2 ^ 12 + sb.toNat * 2 ^ 11 + r.toNat := by
  unfold xKS
  rw [toNat_append_add, toNat_append_add, BitVec.toNat_ofBool, BitVec.toNat_ofBool]
  omega

/-- A decoded instruction is encoded as the words it came from, and is no step. -/
def Backs (W : Words) (i : Instr) : Prop := encode i = W ∧ Machine.isStep i = false

/-- A single word put together from fields with the values of the fields it was taken apart into. -/
theorem enc1_back {f : Fields} {op d a b c : BitVec 8} {x : BitVec 13} (hop : f.op.toNat = op.toNat)
    (h : d.toNat = f.d.toNat ∧ a.toNat = f.a.toNat ∧ b.toNat = f.b.toNat ∧ c.toNat = f.c.toNat ∧ x.toNat = f.x.toNat) :
    enc1 f.hdr op d a b c x = .igyan f.toWord := by
  simp only [BitVec.toNat_inj] at h hop
  obtain ⟨rfl, rfl, rfl, rfl, rfl⟩ := h
  subst hop
  rfl

-- ## Operand forms

/-- The operands of a memory word (R137) have the values of the fields. -/
def Fields.MemIs (f : Fields) (o : MemOp) : Prop :=
  o.d.toNat = f.d.toNat ∧ (r8 o.a).toNat = f.a.toNat ∧ o.b.toNat = f.b.toNat ∧ o.off.toNat = f.off.toNat
    ∧ o.ty.code.toNat = (f.xb 10 3).toNat ∧ o.sc.code.toNat = (f.xb 8 2).toNat ∧ o.ord.code.toNat = (f.xb 6 2).toNat
    ∧ o.hnt.code.toNat = (f.xb 4 2).toNat
/-- The operands of a scratchpad word (R138) likewise: a swizzle and a zero in place of the scope, and no hint. -/
def Fields.ScrIs (f : Fields) (o : ScrOp) : Prop :=
  o.d.toNat = f.d.toNat ∧ (r8 o.a).toNat = f.a.toNat ∧ o.b.toNat = f.b.toNat ∧ o.off.toNat = f.off.toNat
    ∧ o.ty.code.toNat = (f.xb 10 3).toNat ∧ o.swz.toNat = (f.x1 9).toNat ∧ (f.x1 8).toNat = 0 ∧ o.ord.code.toNat = (f.xb 6 2).toNat
    ∧ (f.xb 4 2).toNat = 0
/-- The operands of an atomic (R263) likewise. -/
def Fields.AtmIs (f : Fields) (o : Atm) : Prop :=
  o.w64.toNat = (f.x1 8).toNat ∧ o.sc.code.toNat = (f.xb 6 2).toNat ∧ o.ord.code.toNat = (f.xb 4 2).toNat
    ∧ o.d.toNat = f.d.toNat ∧ (r8 o.a).toNat = f.a.toNat ∧ o.b.toNat = f.b.toNat ∧ o.c.toNat = f.c.toNat

/-- Each form of operands, encoded again with the word's own bits, is the word it was read from. -/
theorem Fields.forms (f : Fields) :
    Yields (fun o => ∀ op, f.op.toNat = op.toNat → encI2 f.hdr op o = .igyan f.toWord) f.i2
    ∧ Yields (fun o => ∀ op, f.op.toNat = op.toNat → encI3 f.hdr op o = .igyan f.toWord) f.i3
    ∧ Yields (fun o => ∀ op, f.op.toNat = op.toNat → encI4 f.hdr op o = .igyan f.toWord) f.i4
    ∧ Yields (fun o => ∀ op, f.op.toNat = op.toNat → encF2 f.hdr op o = .igyan f.toWord) (f.f2 true)
    ∧ Yields (fun o => ∀ op own, f.op.toNat = op.toNat → own.toNat = (f.xb 0 7).toNat → encF2 f.hdr op o own = .igyan f.toWord)
        (f.f2 false)
    ∧ Yields (fun o => ∀ op, f.op.toNat = op.toNat → encF3 f.hdr op o = .igyan f.toWord) f.f3
    ∧ Yields (fun o => ∀ op, f.op.toNat = op.toNat → encF4 f.hdr op o = .igyan f.toWord) f.f4
    ∧ Yields (fun o => ∀ op own, f.op.toNat = op.toNat → own.toNat = (f.xb 0 8).toNat → encCv f.hdr op o own = .igyan f.toWord) f.cv
    ∧ Yields (fun p => ∀ op, f.op.toNat = op.toNat → encSf f.hdr op p.1 p.2.1 p.2.2 = .igyan f.toWord) f.sf := by
  refine ⟨.need fun hz => .some fun op hop => enc1_back hop ?_, .need fun hz => .some fun op hop => enc1_back hop ?_,
    .need fun hz => .some fun op hop => enc1_back hop ?_,
    .need fun hz => .bind (RM.code_of_some _) fun rm hrm => .some fun op hop => enc1_back hop ?_,
    .need fun hz => .bind (RM.code_of_some _) fun rm hrm => .some fun op own hop hown => enc1_back hop ?_,
    .need fun hz => .bind (RM.code_of_some _) fun rm hrm => .some fun op hop => enc1_back hop ?_,
    .need fun hz => .bind (RM.code_of_some _) fun rm hrm => .some fun op hop => enc1_back hop ?_,
    .need fun hz => .bind (RM.code_of_some _) fun rm hrm => .some fun op own hop hown => enc1_back hop ?_,
    .need fun hz => .some fun op hop => enc1_back hop ?_⟩
  all_goals
    simp only [Bool.and_eq_true, beq_true_toNat, not_eq_true_toNat, Fields.ity, toNat_b1, toNat_xKS, toNat_append_add, Fields.toNat_xb,
      Fields.toNat_x1, Fields.toNat_k, Fields.toNat_sb, ITy.code_ofCode, BitVec.reduceToNat, Bool.toNat_false, Bool.not_true,
      Bool.not_false, Bool.false_or, Bool.true_or, true_and, and_true] at *
    omega

theorem Fields.yields_shift (f : Fields) : Yields (fun p : I2 × ShAmt => ∀ (op : BitVec 8) (right : Bool), f.op.toNat = op.toNat →
    right.toNat = (f.x1 7).toNat → encShift f.hdr op p.1 right p.2 = .igyan f.toWord) f.shift := by
  refine .need fun hz => .ite (fun h6 => .need fun hb => .some fun op right hop hr => enc1_back hop ?_)
    fun h6 => .need fun hb => .some fun op right hop hr => enc1_back hop ?_
  all_goals
    simp only [Bool.and_eq_true, beq_true_toNat, not_eq_true_toNat, Fields.x1_eq_true, Fields.ity, toNat_b1, toNat_xKS, toNat_append_add,
      Fields.toNat_xb, Fields.toNat_x1, Fields.toNat_k, Fields.toNat_sb, ITy.code_ofCode, BitVec.reduceToNat, Bool.toNat_false,
      true_and] at *
    omega
theorem Fields.yields_laneSet (f : Fields) :
    Yields (fun ls => ls.c.toNat = f.c.toNat ∧ ls.bits.toNat = (f.xb 7 4).toNat) f.laneSet := by
  refine .ite (fun h7 => .need fun hz => .some ?_) fun h7 => .need fun hz => .some ?_
  all_goals
    simp only [LaneSet.c, LaneSet.bits, beq_true_toNat, not_eq_true_toNat, Fields.x1_eq_true, toNat_append_add, Fields.toNat_xb,
      Fields.toNat_x1, BitVec.reduceToNat, true_and] at *
    omega
theorem voteSet_back {f : Fields} {pa pd : PReg} {ls : LaneSet} (hop : f.op.toNat = 0x62)
    (hz : (!f.k && !f.sb && f.b == 0 && f.xb 3 4 == 0) = true) (ha : (r8 pa).toNat = f.a.toNat) (hd : (r8 pd).toNat = f.d.toNat)
    (hl : ls.c.toNat = f.c.toNat ∧ ls.bits.toNat = (f.xb 7 4).toNat) (v : BitVec 2) (hv : v.toNat = (f.xb 0 2).toNat) :
    enc1 f.hdr 0x62 (r8 pd) (r8 pa) 0 ls.c (0#2 ++ ls.bits ++ 0#4 ++ b1 (f.x1 2) ++ v) = .igyan f.toWord := by
  refine enc1_back hop ?_
  simp only [Bool.and_eq_true, beq_true_toNat, not_eq_true_toNat, toNat_b1, r8, BitVec.toNat_setWidth, toNat_append_add, Fields.toNat_xb,
    Fields.toNat_x1, Fields.toNat_k, Fields.toNat_sb, BitVec.reduceToNat] at *
  omega
theorem Fields.yields_mem (f : Fields) : Yields f.MemIs f.mem :=
  .bind (MTy.code_of_some _) fun _ hty => .bind (Hint.code_of_some _) fun _ hh => .bind (yields_sOf _) fun _ ha =>
    .some ⟨rfl, ha, rfl, rfl, hty, by rw [Scope.code_ofCode], by rw [Ord4.code_ofCode], hh⟩
theorem Fields.yields_scr (f : Fields) : Yields f.ScrIs f.scr := by
  refine .need fun hz => .bind (MTy.code_of_some _) fun _ hty => .bind (yields_sOf _) fun _ ha => ?_
  obtain ⟨h8, h4⟩ := Bool.and_eq_true_iff.1 hz
  exact .some ⟨rfl, ha, rfl, rfl, hty, rfl, (not_eq_true_toNat _).mp h8, by rw [Ord4.code_ofCode], (beq_true_toNat ..).mp h4⟩
theorem Fields.yields_atm (f : Fields) : Yields f.AtmIs f.atm :=
  .bind (yields_sOf _) fun _ ha => .some ⟨rfl, by rw [Scope.code_ofCode], by rw [Ord4.code_ofCode], rfl, ha, rfl, rfl⟩

-- ## The opcode map: arms are named by their place among the opcodes of the class; the bits of each layout are summed up at the end

theorem decodeC0_back (f : Fields) : Yields (Backs (.igyan f.toWord)) (decodeC0 f) := by
  obtain ⟨i2, i3, i4, f2, f2l, f3, f4, cv, sf⟩ := f.forms
  have sft := f.yields_shift
  unfold decodeC0
  split
  case' h_1 hop | h_6 hop | h_16 hop | h_17 hop | h_32 hop => refine .need fun hz => .some ⟨enc1_back hop ?_, rfl⟩
  case' h_2 hop | h_14 hop | h_15 hop | h_27 hop | h_28 hop | h_29 hop => exact .bind i2 fun o ho => .some ⟨ho _ hop, rfl⟩
  case' h_4 hop | h_5 hop | h_7 hop | h_8 hop | h_10 hop | h_11 hop | h_12 hop | h_13 hop | h_18 hop | h_19 hop | h_20 hop | h_25 hop =>
    exact .bind i3 fun o ho => .some ⟨ho _ hop, rfl⟩
  case' h_9 hop | h_26 hop => exact .bind i4 fun o ho => .some ⟨ho _ hop, rfl⟩
  case' h_21 hop | h_22 hop | h_23 hop => refine .need fun hz => .bind sft fun p hp => .some ⟨hp _ false hop ?_, rfl⟩
  case' h_24 hop => exact .bind sft fun p hp => .some ⟨hp _ _ hop rfl, rfl⟩
  case' h_30 hop =>
    refine .need fun hz => .bind (ICmp.code_of_some _) fun _ h0 => .bind (yields_pOf _) fun _ h1 => .bind (yields_pOf _) fun _ h2 =>
      .some ⟨enc1_back hop ?_, rfl⟩
  case' h_31 hop => refine .need fun hz => .bind (yields_pOf _) fun _ h0 => .some ⟨enc1_back hop ?_, rfl⟩
  case' h_3 hop =>
    refine .need fun hz => ?_
    split
    case' h_1 hk ht | h_2 hk ht | h_3 hk ht | h_4 hk ht => refine .some ⟨enc1_back hop ?_, rfl⟩
    case h_5 => exact .none
  case h_33 => exact .none
  all_goals
    simp only [Bool.and_eq_true, beq_true_toNat, not_eq_true_toNat, Fields.k_eq, Fields.ity, Fields.imm32, toNat_b1, r8,
      BitVec.toNat_setWidth, toNat_xKS, toNat_append_add, toNat_extract, Fields.toNat_xb, Fields.toNat_x1, Fields.toNat_k,
      Fields.toNat_sb, ITy.code_ofCode, BOp.code_ofCode, BitVec.reduceToNat, Bool.toNat_false, Bool.toNat_true, true_and] at *
    omega
theorem decodeC1_back (f : Fields) (body : W64) (hx : f.op.toNat ≠ 0x38) : Yields (Backs (.igyan f.toWord)) (decodeC1 f body) := by
  obtain ⟨i2, i3, i4, f2, f2l, f3, f4, cv, sf⟩ := f.forms
  unfold decodeC1
  split
  case' h_1 hop | h_2 hop | h_3 hop | h_13 hop | h_14 hop | h_17 hop | h_18 hop | h_20 hop | h_21 hop | h_22 hop | h_23 hop =>
    exact .bind f3 fun o ho => .some ⟨ho _ hop, rfl⟩
  case' h_4 hop | h_5 hop | h_19 hop | h_24 hop => exact .bind f4 fun o ho => .some ⟨ho _ hop, rfl⟩
  case' h_6 hop | h_7 hop | h_8 hop | h_9 hop | h_11 hop => refine .need fun hz => .some ⟨enc1_back hop ?_, rfl⟩
  case' h_10 hop => refine .need fun hz => .bind (yields_pOf _) fun _ h0 => .bind (yields_pOf _) fun _ h1 => .some ⟨enc1_back hop ?_, rfl⟩
  case' h_12 hop | h_15 hop => exact .bind f2 fun o ho => .some ⟨ho _ hop, rfl⟩
  case' h_16 hop => refine .need fun hz => .bind (SOp.code_of_some _) fun _ h0 => .some ⟨enc1_back hop ?_, rfl⟩
  case' h_25 hop => exact absurd hop hx
  case' h_26 hop => refine .need fun hz => .bind f2l fun o ho => .some ⟨ho _ _ hop ?_, rfl⟩
  case' h_27 hop => refine .need fun hz => .bind (OvfOp.code_of_some _) fun _ h0 => .some ⟨enc1_back hop ?_, rfl⟩
  case h_28 => exact .none
  all_goals
    simp only [Bool.and_eq_true, beq_true_toNat, not_eq_true_toNat, toNat_b1, r8, BitVec.toNat_setWidth, toNat_xKS, toNat_append_add,
      Fields.toNat_xb, Fields.toNat_x1, Fields.toNat_k, Fields.toNat_sb, BOp.code_ofCode, FCmp.code_ofCode, BitVec.reduceToNat,
      Bool.toNat_false, true_and] at *
    omega
theorem decodeC2_back (f : Fields) : Yields (Backs (.igyan f.toWord)) (decodeC2 f) := by
  obtain ⟨i2, i3, i4, f2, f2l, f3, f4, cv, sf⟩ := f.forms
  unfold decodeC2
  split
  case' h_1 hop => refine .bind cv fun o ho => .some ⟨ho _ _ hop ?_, rfl⟩
  case' h_2 hop | h_3 hop | h_4 hop => refine .need fun hz => .bind cv fun o ho => .some ⟨ho _ _ hop ?_, rfl⟩
  case' h_5 hop | h_6 hop | h_7 hop => refine .need fun hz => .bind (RM.code_of_some _) fun _ h0 => .some ⟨enc1_back hop ?_, rfl⟩
  case' h_8 hop | h_20 hop => refine .need fun hz => .some ⟨enc1_back hop ?_, rfl⟩
  case' h_9 hop | h_10 hop | h_11 hop | h_12 hop | h_13 hop | h_14 hop | h_15 hop | h_16 hop =>
    exact .bind sf fun p hp => .some ⟨hp _ hop, rfl⟩
  case' h_17 hop | h_18 hop => refine .need fun hz => .bind (yields_sOf _) fun _ h0 => .some ⟨enc1_back hop ?_, rfl⟩
  case' h_19 hop => refine .need fun hz => .bind (BlkLen.code_of_some _) fun _ h0 => .some ⟨enc1_back hop ?_, rfl⟩
  case h_21 => exact .none
  all_goals
    simp only [Bool.and_eq_true, beq_true_toNat, not_eq_true_toNat, bne_true_toNat, toNat_b1, toNat_not, r8, BitVec.toNat_setWidth,
      toNat_append_add, Fields.toNat_xb, Fields.toNat_x1, Fields.toNat_k, Fields.toNat_sb, BitVec.reduceToNat, true_and] at *
    omega
theorem decodeC3_back (f : Fields) : Yields (Backs (.igyan f.toWord)) (decodeC3 f) := by
  unfold decodeC3
  split
  case' h_1 hop | h_2 hop | h_4 hop => refine .need fun hz => .some ⟨enc1_back hop ?_, rfl⟩
  case' h_5 hop | h_7 hop => refine .need fun hz => .bind f.yields_laneSet fun _ h0 => .some ⟨enc1_back hop ?_, rfl⟩
  case' h_6 hop | h_8 hop =>
    refine .need fun hz => .bind (FRedOp.code_of_some _) fun _ h0 => .bind (RM.code_of_some _) fun _ h1 =>
      .bind f.yields_laneSet fun _ h2 => .some ⟨enc1_back hop ?_, rfl⟩
  case' h_9 hop | h_10 hop =>
    refine .need fun hz => .bind (yields_sOf _) fun _ h0 => .bind (yields_sOf _) fun _ h1 => .some ⟨enc1_back hop ?_, rfl⟩
  case' h_11 hop =>
    refine .need fun hz => .bind (yields_pOf _) fun _ h0 => .bind (yields_pOf _) fun _ h1 => .bind (yields_pOf _) fun _ h2 =>
      .bind (yields_pOf _) fun _ h3 => .some ⟨enc1_back hop ?_, rfl⟩
  case' h_12 hop =>
    refine .need fun hz => .ite (fun h8 => .need fun hd => .some ⟨enc1_back hop ?_, rfl⟩) fun h8 => .need fun ha =>
      .some ⟨enc1_back hop ?_, rfl⟩
  case' h_13 hop =>
    refine .need fun hz => .bind (yields_pOf _) fun _ h0 => .bind f.yields_laneSet fun _ h1 => .some ⟨enc1_back hop ?_, rfl⟩
  case' h_3 hop =>
    refine .need fun hz => .bind (yields_pOf _) fun pa hpa => ?_
    split
    case' h_1 h3 => refine .need fun hc => .bind (yields_sOf _) fun _ h1 => .some ⟨enc1_back hop ?_, rfl⟩
    case h_2 h3 =>
      refine .bind (yields_pOf _) fun pd hpd => .bind f.yields_laneSet fun ls hls => .some ?_
      have ho := voteSet_back hop hz hpa hpd hls
      obtain h2 | h2 | h2 : (f.xb 0 2).toNat = 0 ∨ (f.xb 0 2).toNat = 1 ∨ (f.xb 0 2).toNat = 2 := by
        have := (f.xb 0 2).isLt
        have : (f.xb 0 2).toNat ≠ 3 := h3
        omega
      all_goals
        rw [h2]
        exact ⟨ho _ h2.symm, rfl⟩
  case h_14 => exact .none
  all_goals
    simp only [Bool.and_eq_true, beq_true_toNat, not_eq_true_toNat, Fields.x1_eq_true, toNat_b1, r8, BitVec.toNat_setWidth,
      toNat_append_add, Fields.toNat_xb, Fields.toNat_x1, Fields.toNat_k, Fields.toNat_sb, ShflMode.code_ofCode, RedOp.code_ofCode,
      BitVec.reduceToNat, true_and] at *
    omega
theorem decodeC4_back (f : Fields) : Yields (Backs (.igyan f.toWord)) (decodeC4 f) := by
  unfold decodeC4
  split
  case' h_1 hop | h_2 hop | h_9 hop => refine .bind f.yields_mem fun _ h0 => .some ⟨enc1_back hop ?_, rfl⟩
  case' h_3 hop | h_4 hop => refine .bind f.yields_scr fun _ h0 => .some ⟨enc1_back hop ?_, rfl⟩
  case' h_5 hop =>
    refine .need fun hz => .bind (LdcTy.code_of_some _) fun _ h0 => .bind (yields_sOf _) fun _ h1 => .some ⟨enc1_back hop ?_, rfl⟩
  case' h_6 hop | h_7 hop => refine .need fun hz => .bind f.yields_mem fun _ h0 => .some ⟨enc1_back hop ?_, rfl⟩
  case' h_8 hop => refine .need fun hz => .bind (yields_sOf _) fun _ h0 => .some ⟨enc1_back hop ?_, rfl⟩
  case' h_10 hop =>
    refine .need fun hz => .bind (MTy.code_of_some _) fun _ h0 => .bind (StwsOp.code_of_some _) fun _ h1 =>
      .bind (yields_sOf _) fun _ h2 => .bind (yields_sOf _) fun _ h3 => .some ⟨enc1_back hop ?_, rfl⟩
  case' h_11 hop => refine .need fun hz => .bind (yields_sOf _) fun _ h0 => .need fun hl => .some ⟨enc1_back hop ?_, rfl⟩
  case' h_12 hop =>
    refine .need fun hz => .bind (CctlOp.code_of_some _) fun _ h0 => .bind (yields_sOf _) fun _ h1 => .bind (yields_sOf _) fun _ h2 =>
      .some ⟨enc1_back hop ?_, rfl⟩
  case' h_13 hop => refine .need fun hz => .some ⟨enc1_back hop ?_, rfl⟩
  case' h_14 hop | h_15 hop =>
    refine .need fun hz => .bind (yields_sOf _) fun _ h0 => .bind (yields_sOf _) fun _ h1 => .some ⟨enc1_back hop ?_, rfl⟩
  case' h_16 hop =>
    refine .need fun hz => .bind (yields_sOf _) fun _ h0 => .bind (yields_sOf _) fun _ h1 => .bind (yields_sOf _) fun _ h2 =>
      .some ⟨enc1_back hop ?_, rfl⟩
  case h_17 => exact .none
  all_goals
    simp only [Bool.and_eq_true, decide_eq_true_eq, beq_true_toNat, not_eq_true_toNat, Fields.off, Fields.MemIs, Fields.ScrIs, toNat_b1,
      r8, BitVec.toNat_setWidth, toNat_append_add, toNat_extract, Fields.toNat_xb, Fields.toNat_x1, Scope.code_ofCode, Ord4.code_ofCode,
      WCmp.code_ofCode, BitVec.reduceToNat, true_and] at *
    omega
theorem decodeC5_back (f : Fields) : Yields (Backs (.igyan f.toWord)) (decodeC5 f) := by
  unfold decodeC5
  split
  case' h_1 hop =>
    refine .need fun hz => .bind (AOp.code_of_some _) fun _ h0 => .bind f.yields_atm fun _ h1 => .some ⟨enc1_back hop ?_, rfl⟩
  case' h_2 hop | h_5 hop =>
    refine .need fun hz => .bind (AFmt.code_of_some _) fun _ h0 => .bind (FRedOp.code_of_some _) fun _ h1 =>
      .bind (yields_sOf _) fun _ h2 => .some ⟨enc1_back hop ?_, rfl⟩
  case' h_3 hop => refine .need fun hz => .bind f.yields_atm fun _ h0 => .some ⟨enc1_back hop ?_, rfl⟩
  case' h_4 hop =>
    refine .need fun hz => .bind (AOp.code_of_some _) fun _ h0 => .bind (yields_sOf _) fun _ h1 => .some ⟨enc1_back hop ?_, rfl⟩
  case' h_6 hop =>
    refine .need fun hz => .bind (ASOp.code_of_some _) fun _ h0 => .bind (yields_sOf _) fun _ h1 => .some ⟨enc1_back hop ?_, rfl⟩
  case' h_7 hop | h_14 hop => refine .need fun hz => .bind (yields_sOf _) fun _ h0 => .some ⟨enc1_back hop ?_, rfl⟩
  case' h_8 hop =>
    refine .need fun hz => .bind (yields_sOf _) fun _ h0 => .bind (yields_sOf _) fun _ h1 => .bind (yields_sOf _) fun _ h2 =>
      .bind (yields_pOf _) fun _ h3 => .some ⟨enc1_back hop ?_, rfl⟩
  case' h_9 hop | h_10 hop | h_11 hop | h_12 hop =>
    refine .need fun hz => .bind (yields_sOf _) fun _ h0 => .bind (yields_sOf _) fun _ h1 => .bind (yields_sOf _) fun _ h2 =>
      .bind (yields_sOf _) fun _ h3 => .some ⟨enc1_back hop ?_, rfl⟩
  case' h_13 hop =>
    refine .need fun hz => .bind (StwsOp.code_of_some _) fun _ h0 => .bind (yields_sOf _) fun _ h1 => .bind (yields_sOf _) fun _ h2 =>
      .bind (yields_sOf _) fun _ h3 => .bind (yields_sOf _) fun _ h4 => .some ⟨enc1_back hop ?_, rfl⟩
  case' h_15 hop =>
    refine .need fun hz => .bind (RAOp.code_of_some _) fun _ h0 => .bind (yields_sOf _) fun _ h1 => .some ⟨enc1_back hop ?_, rfl⟩
  case' h_16 hop =>
    refine .need fun hz => .bind (yields_sOf _) fun _ h0 => .bind (yields_sOf _) fun _ h1 => .bind (yields_sOf _) fun _ h2 =>
      .some ⟨enc1_back hop ?_, rfl⟩
  case' h_17 hop => refine .need fun hz => .bind (yields_sOf _) fun _ h0 => .bind (yields_sOf _) fun _ h1 => .some ⟨enc1_back hop ?_, rfl⟩
  case h_18 => exact .none
  all_goals
    simp only [Bool.and_eq_true, beq_true_toNat, not_eq_true_toNat, Fields.rmods, RMods.bits, Fields.AtmIs, toNat_b1, r8,
      BitVec.toNat_setWidth, toNat_append_add, Fields.toNat_xb, Fields.toNat_x1, Scope.code_ofCode, Ord4.code_ofCode, CpyDir.code_ofCode,
      BitVec.reduceToNat, true_and] at *
    omega
theorem decodeC6_back (f : Fields) : Yields (Backs (.igyan f.toWord)) (decodeC6 f) := by
  unfold decodeC6
  split
  case' h_1 hop => refine .need fun hz => .ite (fun h0 => .some ⟨enc1_back hop ?_, rfl⟩) fun h0 => .some ⟨enc1_back hop ?_, rfl⟩
  case' h_2 hop =>
    refine .need fun hz => .bind (yields_tOf _) fun _ h0 => .bind (yields_pOf _) fun _ h1 => .bind (yields_sOf _) fun _ h2 =>
      .bind (yields_sOf _) fun _ h3 => .some ⟨enc1_back hop ?_, rfl⟩
  case' h_3 hop | h_11 hop | h_16 hop | h_23 hop | h_24 hop =>
    refine .need fun hz => .bind (yields_sOf _) fun _ h0 => .some ⟨enc1_back hop ?_, rfl⟩
  case' h_4 hop =>
    refine .need fun hz => .ite (fun h4 => .need fun h0 => .some ⟨enc1_back hop ?_, rfl⟩) fun h4 => .some ⟨enc1_back hop ?_, rfl⟩
  case' h_5 hop => refine .need fun hz => .bind (yields_tOf _) fun _ h0 => .some ⟨enc1_back hop ?_, rfl⟩
  case' h_6 hop | h_7 hop =>
    refine .need fun hz => .bind (yields_tOf _) fun _ h0 => .bind (yields_sOf _) fun _ h1 => .some ⟨enc1_back hop ?_, rfl⟩
  case' h_8 hop =>
    refine .need fun hz => .bind (RM.code_of_some _) fun _ h0 => .bind (yields_tOf _) fun _ h1 => .bind (yields_sOf _) fun _ h2 =>
      .bind (yields_sOf _) fun _ h3 => .bind (yields_sOf _) fun _ h4 => .some ⟨enc1_back hop ?_, rfl⟩
  case' h_9 hop =>
    refine .need fun hz => .bind (yields_pOf _) fun _ h0 => .bind (yields_sOf _) fun _ h1 => .bind (yields_sOf _) fun _ h2 =>
      .some ⟨enc1_back hop ?_, rfl⟩
  case' h_10 hop =>
    refine .need fun hz => .bind (PhMode.code_of_some _) fun _ h0 => .bind (yields_sOf _) fun _ h1 => .bind (yields_sOf _) fun _ h2 =>
      .some ⟨enc1_back hop ?_, rfl⟩
  case' h_12 hop | h_13 hop | h_19 hop =>
    refine .need fun hz => .bind (yields_sOf _) fun _ h0 => .bind (yields_sOf _) fun _ h1 => .bind (yields_sOf _) fun _ h2 =>
      .some ⟨enc1_back hop ?_, rfl⟩
  case' h_14 hop | h_21 hop | h_22 hop =>
    refine .need fun hz => .bind (yields_sOf _) fun _ h0 => .bind (yields_sOf _) fun _ h1 => .some ⟨enc1_back hop ?_, rfl⟩
  case' h_15 hop | h_17 hop | h_18 hop | h_25 hop => refine .need fun hz => .some ⟨enc1_back hop ?_, rfl⟩
  case' h_20 hop =>
    refine .need fun hz => .bind (yields_sOf _) fun _ h0 => .bind (yields_sOf _) fun _ h1 => .bind (yields_sOf _) fun _ h2 =>
      .bind (yields_sOf _) fun _ h3 => .some ⟨enc1_back hop ?_, rfl⟩
  case h_26 => exact .none
  all_goals
    simp only [Bool.and_eq_true, beq_true_toNat, not_eq_true_toNat, Fields.x1_eq_true, Fields.imm32, toNat_b1, r8, BitVec.toNat_setWidth,
      toNat_append_add, toNat_extract, Fields.toNat_xb, Fields.toNat_x1, Scope.code_ofCode, BitVec.reduceToNat, true_and] at *
    omega
theorem decodeC7_back (f : Fields) : Yields (Backs (.igyan f.toWord)) (decodeC7 f) := by
  unfold decodeC7
  split
  case' h_1 hop | h_3 hop | h_4 hop | h_8 hop | h_11 hop | h_12 hop | h_13 hop | h_14 hop | h_15 hop | h_16 hop =>
    refine .need fun hz => .some ⟨enc1_back hop ?_, rfl⟩
  case' h_2 hop => refine .some ⟨enc1_back hop ?_, rfl⟩
  case' h_5 hop | h_7 hop | h_9 hop => refine .need fun hz => .bind (yields_sOf _) fun _ h0 => .some ⟨enc1_back hop ?_, rfl⟩
  case' h_6 hop =>
    refine .need fun hz => .bind (yields_sOf _) fun d hd =>
      .ite (fun h0 => .need fun hbc => .bind (yields_sOf _) fun a ha => .some ⟨enc1_back hop ?_, rfl⟩) fun h0 => .some ⟨enc1_back hop ?_, rfl⟩
  case' h_10 hop =>
    refine .need fun hz => .bind (yields_sOf _) fun a ha => .ite (fun h0 => .need fun h63 => .some ⟨enc1_back hop ?_, rfl⟩) fun h0 =>
      .some ⟨enc1_back hop ?_, rfl⟩
  case h_17 => exact .none
  all_goals
    simp only [Bool.and_eq_true, beq_true_toNat, not_eq_true_toNat, Fields.x1_eq_true, Fields.off24, toNat_b1, r8, BitVec.toNat_setWidth,
      toNat_append_add, toNat_extract, Fields.toNat_xb, Fields.toNat_x1, BitVec.reduceToNat, true_and] at *
    omega

-- ## Fabric words (R309)

theorem encFx_back {f : FxFields} {op : BitVec 8} {a b c : BitVec 4} {imm : BitVec 44} (hop : f.op.toNat = op.toNat)
    (h : a.toNat = f.a.toNat ∧ b.toNat = f.b.toNat ∧ c.toNat = f.c.toNat ∧ imm.toNat = f.imm.toNat) :
    encFx op a b c imm = .fabric f.toWord := by
  simp only [BitVec.toNat_inj] at h hop
  obtain ⟨rfl, rfl, rfl, rfl⟩ := h
  subst hop
  rfl
theorem FxFields.yields_op2 (f : FxFields) :
    Yields (fun c => c.c.toNat = f.c.toNat ∧ c.immBits.toNat = f.imm.toNat) f.op2 := by
  refine .ite (fun h43 => .ite (fun hc => .some ?_) fun _ => .none) fun h43 => .ite (fun hi => .some ?_) fun _ => .none
  all_goals
    simp only [FOp2.c, FOp2.immBits, getLsbD_eq_true_toNat, beq_true_toNat, toNat_append_add, toNat_extract, BitVec.reduceToNat, true_and] at *
    omega
theorem decodeFxBody_back (f : FxFields) : Yields (fun i => Backs (.fabric f.toWord) i ∧ i.wf = true) (decodeFxBody f) := by
  unfold decodeFxBody
  split
  case' h_1 hop | h_8 hop | h_9 hop | h_10 hop | h_11 hop | h_12 hop | h_13 hop | h_14 hop | h_15 hop | h_18 hop | h_19 hop | h_20 hop
    | h_23 hop | h_24 hop => refine .need fun hz => .some ⟨⟨encFx_back hop ?_, rfl⟩, rfl⟩
  case' h_3 hop | h_4 hop | h_5 hop | h_6 hop => exact .bind f.yields_op2 fun c hc => .some ⟨⟨encFx_back hop ⟨rfl, rfl, hc⟩, rfl⟩, rfl⟩
  case' h_7 hop => exact .bind (FCond.code_of_some _) fun c hc => .some ⟨⟨encFx_back hop ⟨rfl, rfl, hc, rfl⟩, rfl⟩, rfl⟩
  case' h_16 hop | h_17 hop => refine .need fun hz => .bind (BlkLen.code_of_some _) fun n hn => .some ⟨⟨encFx_back hop ?_, rfl⟩, rfl⟩
  case' h_22 hop =>
    refine .need fun hz => .ite (fun h8 => .need fun h0 => .some ⟨⟨encFx_back hop ?_, rfl⟩, rfl⟩)
      fun h8 => .some ⟨⟨encFx_back hop ?_, rfl⟩, rfl⟩
  case h_25 => exact .none
  case' h_21 hop =>
    split
    case' h_1 hi | h_2 hi | h_3 hi | h_6 hi => exact .some ⟨⟨encFx_back hop ⟨rfl, rfl, rfl, hi.symm⟩, rfl⟩, rfl⟩
    case' h_4 hi | h_5 hi => refine .need fun hz => .some ⟨⟨encFx_back hop ?_, rfl⟩, rfl⟩
    case h_7 => exact .none
  case' h_2 hop =>
    refine .need fun hz => ?_
    split
    case' h_1 hc => refine .some ⟨⟨encFx_back hop ?_, rfl⟩, rfl⟩
    case' h_2 hc => refine .need fun hi => .some ⟨⟨encFx_back hop ?_, rfl⟩, rfl⟩
    case h_3 => exact .none
  all_goals
    simp only [Bool.and_eq_true, beq_true_toNat, not_eq_true_toNat, getLsbD_eq_true_toNat, toNat_b1, toNat_getLsbD, toNat_append_add,
      toNat_extract, WCmp.code_ofCode, BitVec.reduceToNat, true_and, and_true] at *
    omega

-- ## Sieve words (R431)

theorem encSv_back {w : W32} {op : BitVec 6} {d a : BitVec 3} {i : BitVec 20} (hop : (w.extractLsb' 26 6).toNat = op.toNat)
    (h : d = w.extractLsb' 23 3 ∧ a = w.extractLsb' 20 3 ∧ i = w.extractLsb' 0 20) : encSv op d a i = .sieve w := by
  obtain ⟨rfl, rfl, rfl⟩ := h
  obtain rfl := BitVec.eq_of_toNat_eq hop
  refine congrArg Words.sieve ?_
  simp (disch := rfl) only [BitVec.extractLsb'_append_extractLsb'_eq_extractLsb']
  exact extract_whole w
theorem decodeSieve_back (w : W32) : Yields (fun i => Backs (.sieve w) i ∧ i.wf = true) (decodeSieve w) := by
  have low (d : BitVec 3) (h : (!d.getLsbD 2) = true) : 0#1 ++ d.setWidth 2 = d := by revert d; decide
  unfold decodeSieve
  split
  case h_18 => exact .none
  case h_2 hop => exact .need fun hz => .some ⟨⟨encSv_back hop ⟨rfl, (eq_of_beq hz).symm, rfl⟩, rfl⟩, rfl⟩
  case h_17 hop => exact .need fun hz => .some ⟨⟨encSv_back hop ⟨low _ hz, rfl, rfl⟩, rfl⟩, rfl⟩
  case' h_13 hop | h_14 hop =>
    refine .need fun hz => .some ?_
    obtain ⟨hda, hi⟩ := Bool.and_eq_true_iff.1 hz
    obtain ⟨hd, ha⟩ := Bool.and_eq_true_iff.1 hda
    exact ⟨⟨encSv_back hop ⟨(eq_of_beq hd).symm, (eq_of_beq ha).symm, (eq_of_beq hi).symm⟩, rfl⟩, rfl⟩
  case h_16 hop =>
    refine .need fun hz => .some ?_
    obtain ⟨hai, hd⟩ := Bool.and_eq_true_iff.1 hz
    obtain ⟨ha, hi⟩ := Bool.and_eq_true_iff.1 hai
    exact ⟨⟨encSv_back hop ⟨low _ hd, (eq_of_beq ha).symm, (eq_of_beq hi).symm⟩, rfl⟩, rfl⟩
  all_goals next hop => exact .some ⟨⟨encSv_back hop ⟨rfl, rfl, rfl⟩, rfl⟩, rfl⟩

-- ## Whole words

theorem ofBool_getLsbD {n : Nat} (w : BitVec n) (i : Nat) : BitVec.ofBool (w.getLsbD i) = w.extractLsb' i 1 := by
  refine BitVec.eq_of_getLsbD_eq fun j hj => ?_
  obtain rfl : j = 0 := by omega
  simp
theorem Fields.toWord_ofWord {w : W64} (h : w.getLsbD 62 = false) : (Fields.ofWord w).toWord = w := by
  have h62 : 0#1 = w.extractLsb' 62 1 := by rw [← ofBool_getLsbD, h]; rfl
  simp (disch := rfl) only [Fields.ofWord, Fields.toWord, ofBool_getLsbD, h62, BitVec.extractLsb'_append_extractLsb'_eq_extractLsb']
  exact extract_whole w
theorem FxFields.toWord_ofWord (w : W64) : (FxFields.ofWord w).toWord = w := by
  simp (disch := rfl) only [FxFields.ofWord, FxFields.toWord, BitVec.extractLsb'_append_extractLsb'_eq_extractLsb']
  exact extract_whole w
theorem Half.toBits_halfOf (w : BitVec 29) : (halfOf w).toBits = w := by
  simp (disch := rfl) only [halfOf, Half.toBits, ofBool_getLsbD, BitVec.extractLsb'_append_extractLsb'_eq_extractLsb']
  exact extract_whole w
theorem pairWord_back {w : W64} (h : w.getLsbD 62 = true) : Backs (.igyan w) (.pairWord (w.getLsbD 63) (w.extractLsb' 59 3)
    (w.getLsbD 58) (halfOf (w.extractLsb' 29 29)) (halfOf (w.extractLsb' 0 29))) := by
  have h62 : 1#1 = w.extractLsb' 62 1 := by rw [← ofBool_getLsbD, h]; rfl
  refine ⟨congrArg Words.igyan ?_, rfl⟩
  simp (disch := rfl) only [b1, Half.toBits_halfOf, ofBool_getLsbD, h62, BitVec.extractLsb'_append_extractLsb'_eq_extractLsb']
  exact extract_whole w

/-- An `XPR` takes the word after it as its body (R35). -/
theorem decodeXpr_back (f : Fields) (body : W64) (hop : f.op.toNat = 0x38) :
    Yields (Backs (.igyan2 f.toWord body)) (decodeC1 f body) := by
  have hbody (h : (body.extractLsb' 60 3 == 0) = true) : b1 (body.getLsbD 63) ++ 0#3 ++ body.extractLsb' 0 60 = body := by
    rw [show 0#3 = body.extractLsb' 60 3 from (eq_of_beq h).symm, b1, ofBool_getLsbD]
    simp (disch := rfl) only [BitVec.extractLsb'_append_extractLsb'_eq_extractLsb']
    exact extract_whole body
  unfold decodeC1
  rw [hop]
  refine .need fun hz => .bind f.forms.2.2.2.2.2.2.1 fun o ho => .some ⟨?_, rfl⟩
  show (match encF4 f.hdr 0x38 o with | .igyan w => Words.igyan2 w _ | w => w) = _
  rw [ho 0x38 hop, hbody hz]
theorem decodeClass_back (f : Fields) (body : W64) :
    Yields (Backs (if f.op.toNat = 0x38 then .igyan2 f.toWord body else .igyan f.toWord)) (decodeClass f body) := by
  by_cases h38 : f.op.toNat = 0x38
  · rw [if_pos h38, decodeClass, h38]
    exact decodeXpr_back f body h38
  · rw [if_neg h38, decodeClass]
    split
    · exact decodeC0_back f
    · exact decodeC1_back f body h38
    · exact decodeC2_back f
    · exact decodeC3_back f
    · exact decodeC4_back f
    · exact decodeC5_back f
    · exact decodeC6_back f
    · exact decodeC7_back f
theorem isXprWord_iff {w : W64} (h : w.getLsbD 62 = false) : isXprWord w = true ↔ (Fields.ofWord w).op.toNat = 0x38 := by
  rw [isXprWord, h, Bool.not_false, Bool.true_and, beq_true_toNat]
  rfl
theorem decodeIgyan_back {w b : W64} {i : Instr} (h : decodeIgyan w b = .ok i) :
    i.wf = true ∧ Backs (if isXprWord w = true then .igyan2 w b else .igyan w) i := by
  unfold decodeIgyan at h
  split at h
  case isTrue h62 =>
    have hx : isXprWord w ≠ true := by simp [isXprWord, h62]
    dsimp only at h
    split at h
    case isTrue hwf =>
      cases h
      rw [if_neg hx]
      exact ⟨hwf, pairWord_back h62⟩
    case isFalse => cases h
  case isFalse h62 =>
    have h62 := Bool.eq_false_iff.2 h62
    dsimp only at h
    split at h
    case isFalse => cases h
    split at h
    case h_2 => cases h
    case h_1 j hj =>
      split at h
      case isFalse => cases h
      case isTrue hwf =>
        cases h
        have hb := decodeClass_back _ b i hj
        simp only [Fields.toWord_ofWord h62, ← isXprWord_iff h62] at hb
        exact ⟨hwf, hb⟩
theorem decodeFx_back {w : W64} {i : Instr} (h : decodeFx w = .ok i) : Backs (.fabric w) i ∧ i.wf = true := by
  unfold decodeFx at h
  dsimp only at h
  split at h
  case isFalse => cases h
  split at h
  case h_2 => cases h
  case h_1 j hj =>
    cases h
    have hb := decodeFxBody_back _ i hj
    rwa [FxFields.toWord_ofWord] at hb

/-- Settles O55: by the decoder's arms, each of which constrains every bit of its word that the instruction does not carry. -/
theorem encodeDecode : Obligations.EncodeDecode := by
  refine ⟨fun w b i h => ?_, fun w i h => ?_, fun w i h => ?_⟩
  · obtain ⟨hwf, he, hs⟩ := decodeIgyan_back h
    exact ⟨hwf, hs, he⟩
  · obtain ⟨⟨he, hs⟩, hwf⟩ := decodeFx_back h
    exact ⟨hwf, hs, he⟩
  · obtain ⟨⟨he, hs⟩, hwf⟩ := decodeSieve_back w i h
    exact ⟨hwf, hs, he⟩

end Sys2Proof
end

section
/-! SUPPORT. What a step does on each turn: what advancing leaves, and what a fetch finds (R26, R27, R41, R50, R308, R430). -/

namespace Sys2Proof

theorem SMap.find?_map_val {α : Type} (m : SMap α) (f : Nat × α → Nat × α) (hf : ∀ e, (f e).1 = e.1) (k : Nat) :
    SMap.find? (m.map f) k = (SMap.find? m k).map (fun v => (f (k, v)).2) := by
  induction m with
  | nil => rfl
  | cons e m ih =>
    obtain ⟨a, v⟩ := e
    have ha : (f (a, v)).1 = a := hf (a, v)
    rw [List.map_cons, SMap.find?_cons, ← Prod.mk.eta (p := f (a, v)), SMap.find?_cons, ha, ih]
    split
    · next h => subst h; rfl
    · rfl
theorem SMap.mem_of_find? {α : Type} {m : SMap α} {k : Nat} {v : α} (h : SMap.find? m k = some v) : (k, v) ∈ m := by
  induction m with
  | nil => cases h
  | cons e m ih =>
    obtain ⟨a, w⟩ := e
    rw [SMap.find?_cons] at h
    split at h
    · next e => cases h; subst e; exact List.mem_cons_self
    · exact List.mem_cons_of_mem _ (ih h)
/-- What holds of every entry of a map and of its default holds of every value read. -/
theorem SMap.get_of_all {α : Type} {m : SMap α} {d : α} {P : α → Prop} (hd : P d) (h : ∀ e ∈ m, P e.2) (k : Nat) : P (m.get d k) := by
  unfold SMap.get
  cases e : SMap.find? m k with
  | none => exact hd
  | some v => exact h _ (SMap.mem_of_find? e)

namespace Machine

-- ## Advancing (R340, R407)

theorem grp_advance (s : State) (gid : Nat) : s.advance.grp gid = (s.grp gid).map (fun g => if s.running gid = true then g
    else if (!g.dbgStop && !g.halted && (s.nextSplit gid g).isSome) = true then g.becomeReady s.tick
    else { g with readyAt := none, wait := 0 }) := by
  show SMap.find? (s.groups.map _) gid = _
  rw [SMap.find?_map_val _ _ (fun e => by split; rfl; split <;> rfl)]
  unfold State.grp
  congr 1
  funext g
  split
  · rfl
  · split <;> rfl
theorem becomeReady_eq (g : Group) (t : Nat) :
    g.becomeReady t = { g with readyAt := (g.becomeReady t).readyAt, wait := (g.becomeReady t).wait } := by
  unfold Group.becomeReady; split <;> rfl
theorem becomeReady_isSome (g : Group) (t : Nat) : (g.becomeReady t).readyAt.isSome = true := by
  unfold Group.becomeReady
  split
  · assumption
  · rfl
theorem advance_group {s : State} {gid : Nat} {g : Group} (hg : s.grp gid = some g) :
    ∃ g', s.advance.grp gid = some g' ∧ g' = { g with readyAt := g'.readyAt, wait := g'.wait }
      ∧ (s.running gid = true → g' = g)
      ∧ (s.running gid = false → (g'.readyAt.isSome = true ↔ g.dbgStop = false ∧ g.halted = false ∧ (s.nextSplit gid g).isSome = true)
        ∧ (g.readyAt = none → g'.readyAt = none ∨ g'.readyAt = some s.tick)) := by
  refine ⟨_, by rw [grp_advance, hg]; rfl, ?_, fun h => if_pos h, fun h => ?_⟩
  · split
    · rfl
    · split
      · exact becomeReady_eq ..
      · rfl
  · simp only [h, Bool.false_eq_true, if_false]
    split
    · next hr =>
      simp only [Bool.and_eq_true, Bool.not_eq_true'] at hr
      obtain ⟨⟨hd, hh⟩, hs⟩ := hr
      refine ⟨iff_of_true (becomeReady_isSome ..) ⟨hd, hh, hs⟩, fun hn => Or.inr ?_⟩
      simp [Group.becomeReady, hn]
    · next hr =>
      refine ⟨iff_of_false (by simp) fun ⟨hd, hh, hs⟩ => hr ?_, fun _ => Or.inl rfl⟩
      simp [hd, hh, hs]
theorem running_of_part {s : State} {p gid idx : Nat} (h : (s.part p).run = some (gid, idx)) : s.running gid = true := by
  unfold State.part SMap.get at h
  cases e : SMap.find? s.parts p with
  | none => rw [e] at h; cases h
  | some x =>
    rw [e] at h
    refine List.any_eq_true.2 ⟨_, SMap.mem_of_find? e, ?_⟩
    have h : x.run = some (gid, idx) := h
    simp [h]
/-- A running group is as it was. -/
theorem grp_advance_of_run {s : State} {p gid idx : Nat} {g : Group} (hr : (s.part p).run = some (gid, idx)) (hg : s.grp gid = some g) :
    s.advance.grp gid = some g := by
  obtain ⟨g', hg', -, h, -⟩ := advance_group hg
  rw [hg', h (running_of_part hr)]

-- ## A word of a run (R26, R41, R50)

theorem stepIssue_of {s : State} {p gid idx : Nat} {g : Group} {sp : Split} (ht : s.turn = .issue p)
    (hr : (s.part p).run = some (gid, idx)) (hg : s.grp gid = some g) (hs : g.split? idx = some sp) :
    step s = match s.advance.nextInstr g sp (s.part p).count with
      | (s', .instr i) => exec i { s' with cur := some (gid, idx) }
      | (s', .forced) => exec .forcedRunEnd { s' with ev := { EvIn.none with unit := p } }
      | (s', .wait w) => .next (s'.stallAt gid idx w)
      | (s', .bad f) => .next (s'.raise gid idx f sp.pc) := by
  have hr' : (s.advance.part p).run = some (gid, idx) := hr
  have hg' := grp_advance_of_run hr hg
  unfold step
  rw [ht]
  show stepIssue s.advance p = _
  unfold stepIssue
  rw [hr']
  dsimp only
  rw [hg']
  dsimp only
  rw [hs]
  rfl
theorem rejectFault_eq (x : Reject) : ∃ code, rejectFault x = ⟨code, 0, 0, 0⟩ ∧ code = match x with
    | .opcode => 0x01
    | .operand => 0x02
    | .pair => 0x03 := by
  cases x <;> exact ⟨_, rfl, rfl⟩

-- ## The fetch of a word (R27, R84)

theorem fetchWord_hit {s : State} {g : Group} {pc : W64} {e : TlbE} (hpc : pc.toNat < 2 ^ 52)
    (he : tlbFind (s.core g.core).tlb (s.ctxAsid g.ctx) pc.toNat = some e) :
    s.fetchWord g pc = match s.permit .x e with
      | some f => (s, .bad (flt (BitVec.ofNat 8 f.1) f.2 pc 0))
      | none =>
        if s.keyLoad.contains e.key then (s, .wait (.keyLoad e.key))
        else if e.ofs = 2 then (s, .bad (flt fcOffloaded 0 pc 0))
        else if offWait .x e then (s, .wait (.page g.ctx pc.toNat false))
        else if s.unbacked (e.at_ pc.toNat) || s.homePoison (e.at_ pc.toNat) then (s, .bad (flt fcMemory 0 pc 0))
        else (s, .word (BitVec.ofNat 64 (natOf (s.homeBytes e.key (e.at_ pc.toNat) 8)))) := by
  have hx : s.xlate g.core g.ctx pc.toNat = (s, .hit e) := by
    unfold State.xlate
    rw [if_neg (Nat.not_le.2 hpc)]
    dsimp only
    rw [he]
  unfold State.fetchWord
  dsimp only
  rw [hx] <;> rfl
theorem permit_x (s : State) (e : TlbE) : s.permit .x e
    = if e.x = false then some (0x07, 0xA) else if s.keyLoaded e.key = false then some (0x07, 0xB) else none := by
  unfold State.permit
  cases e.x <;> cases s.keyLoaded e.key <;> rfl
theorem offWait_x (e : TlbE) : offWait .x e = (e.ofs == 3) := by simp [offWait, Need.writes]

-- ## Time passes (R76)

/-- What the reeve notes of its queues changes nothing else. -/
theorem observeQueues_eq (s : State) : ∃ q c, s.observeQueues = { s with queues := q, ckptWait := c } := by
  have h : ∀ (qs : List Nat) (f : State → Nat → QueueSt) (s : State),
      ∃ q, qs.foldl (fun s q => s.setQueue q (f s q)) s = { s with queues := q } := by
    intro qs f
    induction qs with
    | nil => exact fun s => ⟨_, rfl⟩
    | cons x xs ih =>
      intro s
      obtain ⟨q, hq⟩ := ih (s.setQueue x (f s x))
      exact ⟨q, hq⟩
  unfold State.observeQueues
  dsimp only
  obtain ⟨q, hq⟩ := h s.queues_ (fun s q => { s.queue q with
      runnable := if s.qRunnable q = true then some ((s.queue q).runnable.getD s.now) else none
      since := if (s.qRunnable q || s.qUnplaced q) = true then some ((s.queue q).since.getD s.now) else none }) s
  rw [hq]
  exact ⟨_, _, rfl⟩
theorem settleWaits_of_none {s : State} (h : ∀ y ∈ s.grids, y.2.ended ≠ y.2.teamN) : s.settleWaits = s := by
  have e : SMap.keep s.grids (fun _ g => g.ended == g.teamN) = [] :=
    List.filter_eq_nil_iff.2 fun y hy => by simpa using h y hy
  show s.retryGrids = s
  unfold State.retryGrids
  rw [e]
  rfl
theorem retryCopies_of_none {s : State} (h : ∀ y ∈ s.ecmds, y.2.fail = none) : s.retryCopies = s := by
  have e : SMap.keep s.ecmds (fun _ c => c.fail.isSome) = [] :=
    List.filter_eq_nil_iff.2 fun y hy => by simp [h y hy]
  unfold State.retryCopies
  rw [e]
  rfl
theorem retryFx_of_none {s : State} (h : ∀ y ∈ s.fxs, ∀ c d a, y.2.wait ≠ .ending c d a) : s.retryFx = s := by
  have hp : ∀ p c d a, (s.fxs.get FxSt.init p).wait ≠ .ending c d a :=
    fun p => SMap.get_of_all (P := fun x : FxSt => ∀ c d a, x.wait ≠ .ending c d a) (by intro c d a; simp [FxSt.init]) h p
  unfold State.retryFx
  refine List.foldlRecOn (motive := fun t => t = s) _ _ rfl fun t ht p _ => ?_
  subst ht
  split
  · next c d a e => exact absurd e (hp p c d a)
  · rfl
theorem elapse_eq (s : State) (n : Nat) : ∃ r : SMap W64, s.elapse n = { s with mmio := r, now := s.now + n } := by
  unfold State.elapse
  have h : ∀ ds : List Nat, ∃ r : SMap W64, ds.foldl (fun s die =>
      let x := s.pch (s.monitored die)
      let stall := min n (x.stallEnd - s.now)
      if stall = 0 then s else s.mcCount die 0x10 47 0 stall) s = { s with mmio := r } := by
    intro ds
    refine List.foldlRecOn (motive := fun t => ∃ r : SMap W64, t = { s with mmio := r }) _ _ ⟨s.mmio, rfl⟩ ?_
    rintro t ⟨r, rfl⟩ d -
    dsimp only
    split
    · exact ⟨_, rfl⟩
    · exact ⟨_, rfl⟩
  obtain ⟨r, hr⟩ := h (List.range 8)
  rw [hr]
  exact ⟨r, rfl⟩

-- ## The word that a run issues next (R26, R41, R50)

section
variable {s s1 s2 : State} {g : Group} {sp : Split} {n : Nat}

theorem nextInstr_limit (hn : 24 ≤ n) : s.nextInstr g sp n = (s, .forced) := if_pos hn
theorem nextInstr_bad {f : FInfo} (hn : n < 24) (h : s.fetchWord g sp.pc = (s1, .bad f)) : s.nextInstr g sp n = (s1, .bad f) := by
  unfold State.nextInstr
  rw [if_neg (Nat.not_le.2 hn), h]
theorem nextInstr_wait {y : Why} (hn : n < 24) (h : s.fetchWord g sp.pc = (s1, .wait y)) : s.nextInstr g sp n = (s1, .wait y) := by
  unfold State.nextInstr
  rw [if_neg (Nat.not_le.2 hn), h]
/-- The word that a decoding gives. -/
def nextOf : Except Reject Instr → Next
  | .ok i => .instr i
  | .error r => .bad (rejectFault r)
theorem nextInstr_one {w : W64} (hn : n < 24) (h : s.fetchWord g sp.pc = (s1, .word w)) (hx : isXprWord w = false) :
    s.nextInstr g sp n = (s1, nextOf (decodeIgyan w 0)) := by
  unfold State.nextInstr
  rw [if_neg (Nat.not_le.2 hn), h]
  simp only [hx, Bool.false_eq_true, if_false]
  cases decodeIgyan w 0 <;> rfl
theorem nextInstr_two {w : W64} (h : s.fetchWord g sp.pc = (s1, .word w)) (hx : isXprWord w = true) :
    (n = 23 → s.nextInstr g sp n = (s1, .forced))
    ∧ (n < 23 → s.nextInstr g sp n = match s1.fetchWord g (sp.pc + 8) with
      | (s, .wait y) => (s, .wait y)
      | (s, .bad f) => (s, .bad f)
      | (s, .word b) => (s, nextOf (decodeIgyan w b))) := by
  unfold State.nextInstr
  rw [h]
  simp only [hx, if_true]
  refine ⟨fun hn => by rw [if_neg (by omega), if_pos (by omega)], fun hn => ?_⟩
  rw [if_neg (by omega), if_neg (by omega)]
  rcases s1.fetchWord g (sp.pc + 8) with ⟨s2, b | y | f⟩
  · show (match decodeIgyan w b with
      | .ok i => (s2, Next.instr i)
      | .error r => (s2, Next.bad (rejectFault r))) = (s2, nextOf (decodeIgyan w b))
    cases decodeIgyan w b <;> rfl
  · rfl
  · rfl
end

/-- The run of a partition ends at its limit, runs the word that it decodes, or raises the fault of its encoding. -/
theorem step_issue {s : State} {p gid idx : Nat} {g : Group} {sp : Split} (ht : s.turn = .issue p)
    (hr : (s.part p).run = some (gid, idx)) (hg : s.grp gid = some g) (hs : g.split? idx = some sp) {s1 : State} {x : Next}
    (hn : s.advance.nextInstr g sp (s.part p).count = (s1, x)) :
    step s = match (generalizing := false) x with
      | .instr i => exec i { s1 with cur := some (gid, idx) }
      | .forced => exec .forcedRunEnd { s1 with ev := { EvIn.none with unit := p } }
      | .wait w => .next (s1.stallAt gid idx w)
      | .bad f => .next (s1.raise gid idx f sp.pc) := by
  rw [stepIssue_of ht hr hg hs, hn]
  cases x <;> rfl
theorem step_issue_nextOf {s : State} {p gid idx : Nat} {g : Group} {sp : Split} (ht : s.turn = .issue p)
    (hr : (s.part p).run = some (gid, idx)) (hg : s.grp gid = some g) (hs : g.split? idx = some sp) {s1 : State} {r : Except Reject Instr}
    (hn : s.advance.nextInstr g sp (s.part p).count = (s1, nextOf r)) :
    (∀ i, r = .ok i → step s = exec i { s1 with cur := some (gid, idx) })
    ∧ ∀ x, r = .error x → ∃ code, step s = .next (s1.raise gid idx ⟨code, 0, 0, 0⟩ sp.pc)
        ∧ code = match x with
          | .opcode => 0x01
          | .operand => 0x02
          | .pair => 0x03 := by
  have e := step_issue ht hr hg hs hn
  refine ⟨?_, ?_⟩
  · rintro i rfl
    exact e
  · rintro x rfl
    obtain ⟨code, hc, hx⟩ := rejectFault_eq x
    exact ⟨code, by rw [e, ← hc]; rfl, hx⟩

-- ## The other turns

theorem step_fx_held {s : State} {p : Nat} (ht : s.turn = .fx p)
    (h : (s.fx p).cur = none ∨ (s.fx p).wait ≠ .none ∨ (s.fx p).busy ≠ none ∨ s.fxHeld p = true) : step s = .next s.advance := by
  unfold step
  rw [ht]
  show stepFx s.advance p = _
  have hc : (s.advance.fxs.get FxSt.init p) = s.fx p := rfl
  have hh : s.advance.fxHeld p = s.fxHeld p := rfl
  unfold stepFx
  dsimp only
  rw [hc, hh]
  split
  · rfl
  · next k hk =>
    refine if_pos ?_
    rcases h with h | h | h | h
    · exact absurd h (by simp [hk])
    · exact .inl h
    · exact .inr (.inl (Option.isSome_iff_ne_none.2 h))
    · exact .inr (.inr (.inr h))
theorem step_fx {s : State} {p : Nat} {k : FxStart} (ht : s.turn = .fx p) (hc : (s.fx p).cur = some k) (hd : k.desc = none)
    (hw : (s.fx p).wait = .none) (hb : (s.fx p).busy = none) (hh : s.fxHeld p = false) :
    step s = match s.advance.fetchFx p k.slot (s.fx p).fpc with
      | (s', .ok (.ok i)) => exec i { s' with curFx := some p }
      | (s', .ok (.error r)) => .next (s'.fxFail p (rejectFault r).code 0 0)
      | (s', .error (.fault code d va)) => .next (s'.fxFail p (BitVec.ofNat 8 code) d (BitVec.ofNat 64 va))
      | (s', .error .wait) => .next s' := by
  unfold step
  rw [ht]
  show stepFx s.advance p = _
  have ec : (s.advance.fxs.get FxSt.init p) = s.fx p := rfl
  have eh : s.advance.fxHeld p = s.fxHeld p := rfl
  unfold stepFx
  dsimp only
  rw [ec, eh, hc]
  exact if_neg (by simp [hw, hb, hd, hh])
theorem step_sieve {s : State} {d : Nat} {ws : List W32} {w : W32} {i : Instr} (ht : s.turn = .sieve d) (hc : (s.trc d).cur ≠ none)
    (hp : (s.trc d).prog = some ws) (hw : ws[(s.trc d).idx]? = some w) (hi : decodeSieve w = some i) :
    step s = exec i { s.advance with curDie := some d } := by
  obtain ⟨r, hr⟩ := Option.ne_none_iff_exists'.1 hc
  have hf : s.advance.fetchSieve d = some i := by
    have et : s.advance.traces.get TraceSt.init d = s.trc d := rfl
    unfold State.fetchSieve
    dsimp only
    rw [et, hr, hp]
    dsimp only
    rw [hw]
    exact hi
  unfold step
  rw [ht]
  show stepSieve s.advance d = _
  unfold stepSieve
  rw [hf]
theorem step_sync {s : State} {n : Nat} (ht : s.turn = .sync n) :
    ∃ t, step s = .next t ∧ t = { s.advance with timeBase := t.timeBase } ∧ t.deviceNs = max s.deviceNs n := by
  refine ⟨s.advance.syncTime n, by unfold step; rw [ht], rfl, ?_⟩
  show s.timeBase + (n - s.deviceNs) + 20 * s.now / 17 = max s.deviceNs n
  unfold State.deviceNs
  omega
theorem step_elapse {s : State} {n : Nat} (ht : s.turn = .elapse n) (he : ∀ y ∈ s.ecmds, y.2.fail = none)
    (hf : ∀ y ∈ s.fxs, ∀ c d a, y.2.wait ≠ .ending c d a) (hg : ∀ y ∈ s.grids, y.2.ended ≠ y.2.teamN) :
    ∃ t, step s = .next t ∧ t.now = s.now + n ∧ t.groups = s.advance.groups ∧ SameHome s t := by
  refine ⟨s.advance.observeQueues.settleWaits.retryCopies.retryFx.elapse n, by unfold step; rw [ht], ?_⟩
  obtain ⟨q, c, ho⟩ := observeQueues_eq s.advance
  rw [ho, settleWaits_of_none (s := { s.advance with queues := q, ckptWait := c }) hg,
    retryCopies_of_none (s := { s.advance with queues := q, ckptWait := c }) he,
    retryFx_of_none (s := { s.advance with queues := q, ckptWait := c }) hf]
  obtain ⟨r, hr⟩ := elapse_eq { s.advance with queues := q, ckptWait := c } n
  rw [hr]
  exact ⟨rfl, rfl, homeByte_congr rfl rfl rfl⟩

/-- Settles O57: the turn is one of six, and each is the model's step for it, on the state that advancing gives. -/
theorem stepRuns : Obligations.StepRuns := by
  unfold Obligations.StepRuns
  intro s
  dsimp only
  refine ⟨⟨rfl, fun gid h => by rw [grp_advance, h]; rfl, fun gid g hg => advance_group hg⟩, ⟨?_, ?_⟩, ?_, ?_, ?_,
    fun p ht h => step_fx_held ht h, ?_, fun d ws w i ht hc hp hw hi => step_sieve ht hc hp hw hi,
    fun i a ht => by unfold step; rw [ht], fun n ht => step_sync ht, fun n ht he hf hg => step_elapse ht he hf hg⟩
  · intro t l h
    unfold State.turn
    rw [h]
  · intro h
    unfold State.turn
    rw [h]
  · intro p ht hr
    have hr' : (s.advance.part p).run = none := hr
    unfold step
    rw [ht]
    show stepIssue s.advance p = _
    unfold stepIssue
    rw [hr']
  · intro p gid idx g sp ht hr hg hs
    have run {s1 x} (h : s.advance.nextInstr g sp (s.part p).count = (s1, x)) := step_issue ht hr hg hs h
    refine ⟨fun hn => run (nextInstr_limit hn), fun hn s1 w hw => ⟨fun hx => ?_, fun hx h23 => ?_, fun hx h23 s2 b h2 => ?_,
      fun hx h23 s2 f h2 => ?_, fun hx h23 s2 y h2 => ?_⟩, fun hn s1 f hf => run (nextInstr_bad hn hf),
      fun hn s1 y hy => run (nextInstr_wait hn hy)⟩
    · exact step_issue_nextOf ht hr hg hs (nextInstr_one hn hw hx)
    · exact run ((nextInstr_two hw hx).1 h23)
    · exact step_issue_nextOf ht hr hg hs (((nextInstr_two hw hx).2 h23).trans (by rw [h2]))
    · exact run (((nextInstr_two hw hx).2 h23).trans (by rw [h2]))
    · exact run (((nextInstr_two hw hx).2 h23).trans (by rw [h2]))
  · intro g pc e hpc he
    rw [fetchWord_hit hpc he, permit_x, offWait_x]
    refine ⟨fun hx => ?_, fun hx hk => ?_, fun hx hk hl => ?_,
      fun hx hk hl => ⟨fun ho => ?_, fun ho => ?_, fun ho hu => ?_, fun ho hu hp => ?_⟩⟩
    · rw [if_pos hx]; rfl
    · simp only [hx, hk]; rfl
    · simp only [hx, hk, hl]; rfl
    · simp only [hx, hk, hl, ho]; rfl
    · simp only [hx, hk, hl, ho]; rfl
    · have hm : (s.unbacked (e.at_ pc.toNat) || s.homePoison (e.at_ pc.toNat)) = true := by simpa [TlbE.at_] using hu
      rcases ho with ho | ho <;> simp only [hx, hk, hl, ho, hm] <;> rfl
    · have hm : (s.unbacked (e.at_ pc.toNat) || s.homePoison (e.at_ pc.toNat)) = false := by simpa [TlbE.at_] using ⟨hu, hp⟩
      rcases ho with ho | ho <;> simp only [hx, hk, hl, ho, hm] <;> rfl
  · intro p k ht hc hd hw hb hh
    rw [step_fx ht hc hd hw hb hh]
    refine ⟨fun s1 i h => by rw [h], fun s1 r h => ?_, fun s1 c d va h => by rw [h], fun s1 h => by rw [h]⟩
    refine ⟨(rejectFault r).code, by rw [h], ?_, ?_⟩
    · rintro rfl; rfl
    · rintro rfl; rfl
end Machine

namespace Encodings
/-- Settles O56: the model's decoder evaluates each word. -/
theorem decodeWords : Obligations.DecodeWords := by
  unfold Obligations.DecodeWords
  refine ⟨?_, ?_, ?_, ?_, ?_, ?_, ?_, ?_, ?_, ?_⟩
  all_goals decide
end Encodings
end Sys2Proof
end

section
/-! SUPPORT. A word that no lane performs, in a state where the names of remote commands have run ahead (R31, R144, R284). -/

namespace Sys2Proof.Machine

/-- Group 1 issues, and a remote command of group 2 bears the name that the next command would take. -/
def aheadRemote : State := { small with remotes := [(300, { rc0 with gid := 2, pend := some 7 })] }
/-- An acquiring `RATOM` whose guard `!P7` is false in every lane. -/
def maskedRatom : Instr := .ratom ⟨false, 7, true, false, 0⟩ (.int .add) false .acq 8 4 8 12
/-- The results that the splits of a group are held for (R144). -/
def State.heldFor (s : State) (gid : Nat) : Option (List (List Nat)) := (s.grp gid).map (fun g => g.splits.map Split.holdFor)

/-- What a completed register word leaves of the other groups keeps what their splits are held for. -/
theorem Completes.heldFor {i : Instr} {s : State} {c : Ctx} {len : Nat} {lat : Lat} {us : List Use} {flg : Bool} {ws : List RegWrite}
    (h : Completes i s c len lat us flg ws) {gid : Nat} (hg : gid ≠ c.gid) :
    ∃ t, exec i s = .next t ∧ t.heldFor gid = s.heldFor gid := by
  obtain ⟨t, g', ht, only, -⟩ := h
  refine ⟨t, ht, ?_⟩
  have e := congrArg (Option.map (fun g : Group => g.splits.map Split.holdFor)) (only.groups gid hg)
  rw [Option.map_map, Option.map_map] at e
  exact e
/-- The word holds group 2's splits for the command's result, though no lane performs it. -/
theorem maskedRatom_holds : ∃ t, exec maskedRatom aheadRemote = .next t ∧ t.heldFor 2 = some [[7]] := ⟨_, rfl, by decide +kernel⟩

/-- Refutes O31: an acquiring `RATOM` holds the splits of whichever group owns a remote command named at or above the next free name;
where one is (no premise excludes it), the word changes another group's splits though no lane performs it. -/
theorem not_maskedAndChecked : ¬ Obligations.MaskedAndChecked := by
  intro claim
  obtain ⟨⟨masked, -, -⟩, -⟩ := claim
  have issues : issuesB aheadRemote ⟨false, 7, true, false, 0⟩ maskedRatom.uses 1 = true := by decide +kernel
  have completes := masked maskedRatom _ aheadRemote _ rfl id (issues_of issues) (by decide +kernel)
  obtain ⟨t, ht, kept⟩ := completes.heldFor (gid := 2) (by decide +kernel)
  obtain ⟨t', ht', held⟩ := maskedRatom_holds
  rw [ht'] at ht
  cases ht
  rw [held] at kept
  exact absurd kept (by decide +kernel)

end Sys2Proof.Machine
end

section
/-! SUPPORT. Packed 16-bit words, fused expressions and pair words (R36 to R39, R209 to R211). -/

namespace Sys2Proof.Machine
open Sys2Proof.Num

-- ## Packed halves (R209)

theorem regWord_pair3 (i : Instr) (h : Hdr) (o : F3) (f : Nat → Nat → Nat × Fl) (hu : i.uses = o.uses)
    (hx : ∀ s, exec i s = pair3 s h o f) :
    RegWord i h .short true o.k false o.d (fun g l =>
      resPair (f (lo16 (g.src32 o.k o.a l)) (lo16 (g.src32 (o.k || o.sb) o.b l)))
        (f (hi16 (g.src32 o.k o.a l)) (hi16 (g.src32 (o.k || o.sb) o.b l)))) :=
  regWord_flt3 i h .short o (fun a b => fPair (fun x y _ => f x y) a b 0) hu hx
theorem regWord_pair4 (i : Instr) (h : Hdr) (o : F4) (f : Nat → Nat → Nat → Nat × Fl) (hu : i.uses = o.uses)
    (hx : ∀ s, exec i s = flt4 s h .short o (fPair f)) :
    RegWord i h .short true o.k false o.d (fun g l =>
      resPair (f (lo16 (g.src32 o.k o.a l)) (lo16 (g.src32 (o.k || o.sb) o.b l)) (lo16 (g.src32 o.k o.c l)))
        (f (hi16 (g.src32 o.k o.a l)) (hi16 (g.src32 (o.k || o.sb) o.b l)) (hi16 (g.src32 o.k o.c l)))) :=
  regWord_flt4 i h .short o (fPair f) hu hx
theorem packedPairs : Claim.PackedPairs := by
  intro h o x
  have sums (f : Fmt) : op2 f o.rm o.ftz (xAdd o.rm) = op2 f o.rm o.ftz (add (o.rm == .rd)) := rfl
  have fused (f : Fmt) : op3 f x.rm x.ftz (xFma x.rm) = op3 f x.rm x.ftz (fma (x.rm == .rd)) := rfl
  refine ⟨?_, regWord_pair3 _ h o (op2 bf16 o.rm o.ftz mul) rfl fun _ => rfl, ?_,
    regWord_pair3 _ h o (fun v w => (minmax bf16 false o.ftz v w, 0)) rfl fun _ => rfl,
    regWord_pair3 _ h o (fun v w => (minmax bf16 true o.ftz v w, 0)) rfl fun _ => rfl, ?_,
    regWord_pair3 _ h o (op2 fp16 o.rm o.ftz mul) rfl fun _ => rfl, ?_⟩
  · exact regWord_pair3 _ h o (op2 bf16 o.rm o.ftz (add (o.rm == .rd))) rfl fun _ => by rw [← sums]; rfl
  · exact regWord_pair4 _ h x (op3 bf16 x.rm x.ftz (fma (x.rm == .rd))) rfl fun _ => by rw [← fused]; rfl
  · exact regWord_pair3 _ h o (op2 fp16 o.rm o.ftz (add (o.rm == .rd))) rfl fun _ => by rw [← sums]; rfl
  · exact regWord_pair4 _ h x (op3 fp16 x.rm x.ftz (fma (x.rm == .rd))) rfl fun _ => by rw [← fused]; rfl

-- ## The tokens of an expression (R210)

/-- A code is a NaN when its exponent is all ones and its fraction is not zero. -/
theorem dec32_isNan (v : W32) : (dec32 v).isNan = true ↔ v.extractLsb' 23 8 = 255 ∧ v.extractLsb' 0 23 ≠ 0 := by
  have hmag : (dec32 v).isNan = true ↔ 0x7F800000 < v.toNat % 2 ^ 31 := by
    have hmk : ∀ b m e, (mk2 b m e).isNan = false := by intro b m e; unfold mk2; split <;> rfl
    unfold dec32 Fmt.decode
    have e31 : fp32.ew + fp32.fw = 31 := rfl
    rw [e31]
    dsimp only
    have hb : (fp32.hasInf && v.toNat % 2 ^ 31 == fp32.infCode) = decide (v.toNat % 2 ^ 31 = 0x7F800000) := by
      simp [show fp32.hasInf = true from rfl, show fp32.infCode = 0x7F800000 from rfl, beq_eq_decide]
    rw [hb, show fp32.maxCode = 0x7F7FFFFF from rfl]
    split
    · next hm =>
      split
      · next hi => exact iff_of_false Bool.false_ne_true (by have := of_decide_eq_true hi; omega)
      · next hi => exact iff_of_true rfl (by have := of_decide_eq_false (Bool.not_eq_true _ ▸ hi); omega)
    · next hm =>
      refine iff_of_false ?_ (by omega)
      split <;> simp [hmk]
  have he : v.extractLsb' 23 8 = 255 ↔ v.toNat / 2 ^ 23 % 2 ^ 8 = 255 := by
    rw [← BitVec.toNat_inj, BitVec.extractLsb'_toNat, Nat.shiftRight_eq_div_pow]; rfl
  have hf : v.extractLsb' 0 23 = 0 ↔ v.toNat % 2 ^ 23 = 0 := by
    rw [← BitVec.toNat_inj, BitVec.extractLsb'_toNat, Nat.shiftRight_zero]; rfl
  rw [hmag, he, ne_eq, hf]
  have := v.isLt
  omega

/-- A word with its sign bit replaced. -/
theorem withSign (f g : W32) : (f &&& 0x7FFFFFFF) ||| (g &&& 0x80000000) = BitVec.ofBool g.msb ++ f.extractLsb' 0 31 := by
  apply BitVec.eq_of_getLsbD_eq
  intro i hi
  have hc : (0x7FFFFFFF : W32).getLsbD i = decide (i < 31) ∧ (0x80000000 : W32).getLsbD i = decide (i = 31) := by
    revert i; decide
  rw [BitVec.getLsbD_or, BitVec.getLsbD_and, BitVec.getLsbD_and, hc.1, hc.2, BitVec.getLsbD_append, BitVec.getLsbD_extractLsb']
  rcases Nat.lt_or_ge i 31 with h | h
  · simp [h, Nat.ne_of_lt h]
  · have h31 : i = 31 := by omega
    subst h31
    simp [BitVec.msb_eq_getLsbD_last]
theorem fSign_eq (f g : W32) : fSign f g
    = if f.extractLsb' 23 8 = 255 ∧ f.extractLsb' 0 23 ≠ 0 then 0x7FC00000 else BitVec.ofBool g.msb ++ f.extractLsb' 0 31 := by
  unfold fSign
  rw [withSign]
  exact ite_congr (propext (dec32_isNan f)) (fun _ => rfl) (fun _ => rfl)

theorem expressionTokens : Claim.ExpressionTokens := by
  intro x rm ftz u v w st fl
  dsimp only
  refine ⟨rfl, rfl, rfl, rfl, rfl, rfl, rfl, rfl, rfl, rfl, rfl, rfl, rfl, rfl, rfl, rfl, rfl, ?_, ?_, rfl⟩
  · show (fSign _ _ :: st, fl) = _
    rw [fSign_eq, BitVec.msb_not]
    simp
  · show (fSign _ _ :: st, fl) = _
    rw [fSign_eq]
    rfl

-- ## The program of an expression (R210)

theorem xprProgram_eq (toks : BitVec 60) : xprProgram toks
    = ((List.range 12).map (fun i => (toks.extractLsb' (5 * i) 5).toNat)).takeWhile (fun t => t ≠ 0) := by
  unfold xprProgram xprTokens
  have e : (fun i => (toks.extractLsb' (5 * i) 5).toNat) = fun i => toks.toNat / 2 ^ (5 * i) % 32 := by
    funext i
    rw [BitVec.extractLsb'_toNat, Nat.shiftRight_eq_div_pow]
  rw [e]
  congr 1
  funext t
  simp [bne, beq_eq_decide]
/-- A token that the depth allows leaves the depth that it counts. -/
theorem xprTok_length {x : XprIn} {rm : RM} {ftz : Bool} {t : Nat} {ts : List Nat} {st : List W32} {fl : Fl} {n : Nat}
    (h : xprStack (t :: ts) st.length = some n) : xprStack ts (xprTok x rm ftz t (st, fl)).1.length = some n := by
  unfold xprStack at h
  by_cases push : (1 ≤ t && t ≤ 8) = true
  · rw [if_pos push, Option.ite_none_right_eq_some] at h
    obtain ⟨t1, t8⟩ : 1 ≤ t ∧ t ≤ 8 := by simpa using push
    interval_cases t <;> exact h.2
  rw [if_neg push] at h
  by_cases dup : t = 9
  · subst dup
    rw [if_pos rfl, Option.ite_none_right_eq_some] at h
    obtain ⟨hd, h⟩ := h
    rcases st with _ | ⟨y, st⟩
    · simp at hd
    · exact h
  rw [if_neg dup] at h
  by_cases swap : t = 10
  · subst swap
    rw [if_pos rfl, Option.ite_none_right_eq_some] at h
    obtain ⟨hd, h⟩ := h
    rcases st with _ | ⟨y, _ | ⟨z, st⟩⟩
    · simp at hd
    · simp at hd
    · exact h
  rw [if_neg swap] at h
  by_cases two : (t = 11 || t = 12 || t = 13 || t = 15 || t = 16) = true
  · rw [if_pos two, Option.ite_none_right_eq_some] at h
    obtain ⟨hd, h⟩ := h
    rcases st with _ | ⟨y, _ | ⟨z, st⟩⟩
    · simp at hd
    · simp at hd
    · obtain (((rfl | rfl) | rfl) | rfl) | rfl : (((t = 11 ∨ t = 12) ∨ t = 13) ∨ t = 15) ∨ t = 16 := by simpa using two
      all_goals exact h
  rw [if_neg two] at h
  by_cases three : t = 14
  · subst three
    rw [if_pos rfl, Option.ite_none_right_eq_some] at h
    obtain ⟨hd, h⟩ := h
    rcases st with _ | ⟨y, _ | ⟨z, _ | ⟨w, st⟩⟩⟩
    · simp at hd
    · simp at hd
    · simp at hd
    · exact h
  rw [if_neg three] at h
  by_cases one : (t = 17 || t = 18 || t = 19 || t = 20) = true
  · rw [if_pos one, Option.ite_none_right_eq_some] at h
    obtain ⟨hd, h⟩ := h
    rcases st with _ | ⟨y, st⟩
    · simp at hd
    · obtain ((rfl | rfl) | rfl) | rfl : ((t = 17 ∨ t = 18) ∨ t = 19) ∨ t = 20 := by simpa using one
      all_goals exact h
  · rw [if_neg one] at h
    cases h
/-- A program whose depths are allowed leaves as many values as they count. -/
theorem xprFold_length {x : XprIn} {rm : RM} {ftz : Bool} {ts : List Nat} {st : List W32 × Fl} {n : Nat}
    (h : xprStack ts st.1.length = some n) : (ts.foldl (fun st t => xprTok x rm ftz t st) st).1.length = n := by
  induction ts generalizing st with
  | nil => exact Option.some.inj h
  | cons t ts ih => exact ih (xprTok_length h)
/-- A legal body leaves one value, the result. -/
theorem xprEval_of_legal {o : F4} {toks : BitVec 60} (h : xprLegal o toks = true) (x : XprIn) (rm : RM) (ftz : Bool) :
    ∃ v, (xprProgram toks).foldl (fun st t => xprTok x rm ftz t st) ([], 0) = ([v], (xprEval x rm ftz toks).2)
      ∧ (xprEval x rm ftz toks).1 = v := by
  have depth : xprStack (xprProgram toks) 0 = some 1 := by
    simp only [xprLegal, Bool.and_eq_true, beq_iff_eq] at h
    obtain ⟨⟨⟨⟨-, hd⟩, -⟩, -⟩, -⟩ := h
    exact hd
  obtain ⟨v, hv⟩ := List.length_eq_one_iff.1 (xprFold_length (x := x) (rm := rm) (ftz := ftz) (st := ([], 0)) depth)
  exact ⟨v, Prod.ext hv rfl, by unfold xprEval; dsimp only; rw [hv]; rfl⟩

-- ## The two words of an expression (R210, R41)

/-- The bookkeeping of a run's first word moves no run. -/
theorem run_beginRun (s : State) (c : Ctx) (p : Nat) : ((s.beginRun c).part p).run = (s.part p).run := by
  have keep (u : State) (q : Nat) (x : PartSt) (hx : x.run = (u.part q).run) : ((u.setPart q x).part p).run = (u.part p).run := by
    unfold State.part State.setPart
    dsimp only
    rw [SMap.get_set]
    split
    · next h => subst h; exact hx
    · rfl
  have trial (u : State) : ((u.trialRun c.g c.sp.pc).part p).run = (u.part p).run := by
    unfold State.trialRun
    dsimp only
    split
    · split
      · split
        · split
          · rfl
          · rfl
        · split
          · exact keep _ _ _ rfl
          · exact keep _ _ _ rfl
      · rfl
    · rfl
  unfold State.beginRun
  exact (trial _).trans (keep _ _ _ rfl)
theorem part_mapV (s : State) (f : PartSt → PartSt) (hf : f PartSt.init = PartSt.init) (p : Nat) :
    ({ s with parts := s.parts.mapV f } : State).part p = f (s.part p) := by
  unfold State.part SMap.get
  dsimp only
  rw [SMap.find?_mapV]
  cases SMap.find? s.parts p with
  | none => exact hf.symm
  | some x => rfl
theorem run_countWord (s : State) (c : Ctx) (len p : Nat) : ((s.countWord c len false).part p).run = (s.part p).run := by
  have count (u : State) : (({ u with parts := u.parts.mapV (fun x => match x.run with
      | some (i, _) => if i = c.gid then { x with count := x.count + len } else x
      | none => x) } : State).part p).run = (u.part p).run := by
    rw [part_mapV _ _ rfl]
    split
    · split <;> rfl
    · rfl
  unfold State.countWord
  refine (count _).trans ?_
  split
  · exact run_beginRun s c p
  · rfl
theorem run_endRun (s : State) (gid idx : Nat) (sw : Bool) (p i : Nat) : ((s.endRun gid idx sw).part p).run ≠ some (gid, i) := by
  have ends (u : State) : (({ u with parts := u.parts.mapV (fun x => match x.run with
      | some (i, _) => if i = gid then { x with run := none, count := 0, endAt := u.now } else x
      | none => x) } : State).part p).run ≠ some (gid, i) := by
    rw [part_mapV _ _ rfl]
    split
    · next j _ hj =>
      split
      · exact Option.some_ne_none _ |>.symm
      · next hne => rw [hj]; intro e; cases e; exact hne rfl
    · next hj => rw [hj]; exact (Option.some_ne_none _).symm
  exact ends (s.sampleRun gid idx)
/-- A word with `E` ends its group's run; one without it leaves every run going (R41). -/
theorem run_complete (s : State) (c : Ctx) (h : Hdr) (lat : Lat) (us : List Use) (flg : Bool) (len : Nat) (ws : List RegWrite) (p : Nat) :
    if h.e = true then ∀ i, ((s.complete c h lat us flg len (Res.of ws)).part p).run ≠ some (c.gid, i)
    else ((s.complete c h lat us flg len (Res.of ws)).part p).run = (s.part p).run := by
  unfold State.complete
  extract_lets dests late pid s1 s2 s3
  have e3 : s3.part p = s.part p := by
    show s2.part p = s.part p
    show s1.part p = s.part p
    show State.part (if _ then _ else _) p = _
    split <;> rfl
  split
  · next he =>
    intro i
    rw [he]
    exact run_endRun _ _ _ _ _ _
  · next he =>
    have he' : h.e = false := by simpa using he
    rw [he', run_countWord, e3]

theorem expressions : Claim.Expressions := by
  intro h o bodyE toks
  refine ⟨fun s c hi => ?_, fun hl x rm ftz => xprEval_of_legal hl x rm ftz, xprProgram_eq toks⟩
  dsimp only
  obtain ⟨g', only, results⟩ := complete_spec s { h with e := bodyE } c hi.ctx .long (xprUses o toks) (!h.q) 2
    (laneWork false h.q c.act (fun l =>
      let r := xprEval ⟨c.g.getV o.a.toNat l, c.g.src32 o.sb o.b l, c.g.getV o.c.toNat l, c.g.getV o.d.toNat l⟩ o.rm o.ftz toks
      (dest32 false o.d l r.1, r.2)))
  exact ⟨_, _, g', issue_next hi .long (!h.q) _, only, results, fun p => run_complete s c { h with e := bodyE } _ _ _ 2 _ p,
    laneWork_givesV h.q false c.act o.d (fun l =>
      ((xprEval ⟨c.g.getV o.a.toNat l, c.g.src32 o.sb o.b l, c.g.getV o.c.toNat l, c.g.getV o.d.toNat l⟩ o.rm o.ftz toks).1.setWidth 64,
       (xprEval ⟨c.g.getV o.a.toNat l, c.g.src32 o.sb o.b l, c.g.getV o.c.toNat l, c.g.getV o.d.toNat l⟩ o.rm o.ftz toks).2))⟩

-- ## The halves of a pair word (R36, R37, R39)

theorem src_vec (g : Group) (r : Reg) (l : Nat) : g.src false false r l = (g.getV r.toNat l).setWidth 64 := rfl
theorem narrow : ITy.s32.wide = false := rfl
theorem src32_vec (g : Group) (r : Reg) (l : Nat) : g.src32 false r l = g.getV r.toNat l := by
  unfold Group.src32
  rw [src_vec]
  simp
/-- The single word of a half, where its value is that of the half. -/
def HalfOf (op : BitVec 7) (h : Hdr) (d a b : Reg) (i : Instr) (flg : Bool) : Prop :=
  RegWord i h .short flg false false d (fun g l =>
    let r := halfValue op (g.getV a.toNat l) (g.getV b.toNat l) (g.getV d.toNat l)
    (r.1.setWidth 64, r.2))

section
variable {op : BitVec 7} {h : Hdr} {d a b : Reg} {i : Instr}

theorem halfOf_flt2 (f : W32 → W32 × Fl) (hu : i.uses = (⟨false, .rn, false, d, a⟩ : F2).uses)
    (hx : ∀ s, exec i s = flt2 s h .short ⟨false, .rn, false, d, a⟩ f) (hv : ∀ x y z, halfValue op x y z = f x) :
    HalfOf op h d a b i true := by
  have word := regWord_flt2 i h .short ⟨false, .rn, false, d, a⟩ f hu hx
  simp only [src32_vec] at word
  unfold HalfOf
  simp only [hv]
  exact word
theorem halfOf_flt3 (f : W32 → W32 → W32 × Fl) (hu : i.uses = (⟨false, false, .rn, false, d, a, b⟩ : F3).uses)
    (hx : ∀ s, exec i s = flt3 s h .short ⟨false, false, .rn, false, d, a, b⟩ f) (hv : ∀ x y z, halfValue op x y z = f x y) :
    HalfOf op h d a b i true := by
  have word := regWord_flt3 i h .short ⟨false, false, .rn, false, d, a, b⟩ f hu hx
  simp only [src32_vec, Bool.or_self] at word
  unfold HalfOf
  simp only [hv]
  exact word
theorem halfOf_flt4 (f : W32 → W32 → W32 → W32 × Fl) (hu : i.uses = (⟨false, false, .rn, false, d, a, b, d⟩ : F4).uses)
    (hx : ∀ s, exec i s = flt4 s h .short ⟨false, false, .rn, false, d, a, b, d⟩ f) (hv : ∀ x y z, halfValue op x y z = f x y z) :
    HalfOf op h d a b i true := by
  have word := regWord_flt4 i h .short ⟨false, false, .rn, false, d, a, b, d⟩ f hu hx
  simp only [src32_vec, Bool.or_self] at word
  unfold HalfOf
  simp only [hv]
  exact word
theorem halfOf_int2 (f : W64 → W64 × Fl) (hu : i.uses = (⟨false, .s32, d, a⟩ : I2).uses)
    (hx : ∀ s, exec i s = int2 s h ⟨false, .s32, d, a⟩ f)
    (hv : ∀ x y z, halfValue op x y z = ((f (x.setWidth 64)).1.setWidth 32, (f (x.setWidth 64)).2)) : HalfOf op h d a b i false := by
  refine (regWord_int2 i h ⟨false, .s32, d, a⟩ f hu hx).mono fun g l => ?_
  rw [hv]
  exact ⟨by simp [src_vec, narrow], (nomatch ·), rfl⟩
theorem halfOf_int3 (f : W64 → W64 → W64 × Fl) (hu : i.uses = (⟨false, false, .s32, d, a, b⟩ : I3).uses)
    (hx : ∀ s, exec i s = int3 s h .short false ⟨false, false, .s32, d, a, b⟩ f)
    (hv : ∀ x y z, halfValue op x y z = ((f (x.setWidth 64) (y.setWidth 64)).1.setWidth 32, (f (x.setWidth 64) (y.setWidth 64)).2)) :
    HalfOf op h d a b i false := by
  refine (regWord_int3 i h .short false ⟨false, false, .s32, d, a, b⟩ f hu hx).mono fun g l => ?_
  rw [hv]
  exact ⟨by simp [src_vec, narrow], (nomatch ·), rfl⟩
theorem halfOf_shift (f : W64 → Nat → Int)
    (hu : i.uses = (⟨false, .s32, d, a⟩ : I2).uses ++ (ShAmt.reg false b).uses false)
    (hx : ∀ s, exec i s = intShift s h ⟨false, .s32, d, a⟩ (.reg false b) f)
    (hv : ∀ x y z, halfValue op x y z = ((wrI .s32 (f (x.setWidth 64) y.toNat)).setWidth 32, 0)) : HalfOf op h d a b i false := by
  refine (regWord_alu i h .short false false false d (fun g l => (wrI .s32 (f (g.src false false a l) (g.src32 false b l).toNat), 0))
    (fun s => by rw [hx, hu]; rfl)).mono fun g l => ?_
  rw [hv, src32_vec]
  exact ⟨by simp [src_vec], (nomatch ·), rfl⟩
end


/-- A 32-bit sum or difference is that of the operands read as integers. -/
theorem wrI_add (x y : W32) : (wrI .s32 (rdI .s32 (x.setWidth 64) + rdI .s32 (y.setWidth 64))).setWidth 32 = x + y := by
  rw [(wrI_of_modEq .s32 _ (x.setWidth 64 + y.setWidth 64) (modEq_of_word .s32
    (by push_cast; exact (rdI_modEq .s32 _).add (rdI_modEq .s32 _)) (BitVec.toNat_add _ _))).1]
  rw [BitVec.setWidth_add _ _ (by decide)]
  simp
theorem wrI_sub (x y : W32) : (wrI .s32 (rdI .s32 (x.setWidth 64) - rdI .s32 (y.setWidth 64))).setWidth 32 = x - y := by
  have difference : rdI .s32 (x.setWidth 64) - rdI .s32 (y.setWidth 64)
      ≡ ((2 ^ 64 - (y.setWidth 64).toNat + (x.setWidth 64).toNat : Nat) : Int) [ZMOD (2 ^ ITy.s32.bits : Nat)] := by
    refine ((rdI_modEq .s32 _).sub (rdI_modEq .s32 _)).trans (Int.modEq_iff_dvd.2 ⟨2 ^ 32, ?_⟩)
    have := (y.setWidth 64).isLt
    rw [show (2 ^ ITy.s32.bits : Nat) = 2 ^ 32 from rfl]
    push_cast [Nat.cast_sub (Nat.le_of_lt this)]
    ring
  rw [(wrI_of_modEq .s32 _ (x.setWidth 64 - y.setWidth 64) (modEq_of_word .s32 difference (BitVec.toNat_sub _ _))).1]
  apply BitVec.eq_of_toNat_eq
  have := x.isLt
  have := y.isLt
  simp only [BitVec.toNat_setWidth, BitVec.toNat_sub]
  omega

theorem halfOf_single {h : Hdr} {op : BitVec 7} {d a b : Reg} {i : Instr} {flg : Bool} (hs : halfSingle h op d a b = some (i, flg)) :
    HalfOf op h d a b i flg := by
  have val {n : Nat} (hop : op.toNat = n) (x y z : W32) : halfValue op x y z = halfValue (BitVec.ofNat 7 n) x y z := by
    rw [← hop, BitVec.ofNat_toNat, BitVec.setWidth_eq]
  unfold halfSingle at hs
  dsimp only at hs
  split at hs <;> rename_i hop <;> cases hs
  · exact halfOf_flt3 (fBin .rn false (xAdd .rn)) rfl (fun _ => rfl) (val hop)
  · exact halfOf_flt3 (fBin .rn false (xSub .rn)) rfl (fun _ => rfl) (val hop)
  · exact halfOf_flt3 (fBin .rn false mul) rfl (fun _ => rfl) (val hop)
  · exact halfOf_flt4 (fTri .rn false (xFma .rn)) rfl (fun _ => rfl) (val hop)
  · exact halfOf_flt3 (fun x y => (fMinMax false false x y, 0)) rfl (fun _ => rfl) (val hop)
  · exact halfOf_flt3 (fun x y => (fMinMax true false x y, 0)) rfl (fun _ => rfl) (val hop)
  · exact halfOf_flt3 (fun x y => fPair (fun u v _ => op2 bf16 .rn false (xAdd .rn) u v) x y 0) rfl (fun _ => rfl) (val hop)
  · exact halfOf_flt3 (fun x y => fPair (fun u v _ => op2 bf16 .rn false mul u v) x y 0) rfl (fun _ => rfl) (val hop)
  · exact halfOf_flt4 (fPair (op3 bf16 .rn false (xFma .rn))) rfl (fun _ => rfl) (val hop)
  · exact halfOf_flt3 (fun x y => fPair (fun u v _ => op2 fp16 .rn false (xAdd .rn) u v) x y 0) rfl (fun _ => rfl) (val hop)
  · exact halfOf_flt3 (fun x y => fPair (fun u v _ => op2 fp16 .rn false mul u v) x y 0) rfl (fun _ => rfl) (val hop)
  · exact halfOf_flt4 (fPair (op3 fp16 .rn false (xFma .rn))) rfl (fun _ => rfl) (val hop)
  · exact halfOf_int2 (fun x => (x, 0)) rfl (fun _ => rfl) fun x y z => by rw [val hop]; simp [halfValue]
  · exact halfOf_int3 (fun x y => (wrI .s32 (rdI .s32 x + rdI .s32 y), 0)) rfl (fun _ => rfl) fun x y z =>
      (val hop x y z).trans (Prod.ext (wrI_add x y).symm rfl)
  · exact halfOf_int3 (fun x y => (wrI .s32 (rdI .s32 x - rdI .s32 y), 0)) rfl (fun _ => rfl) fun x y z =>
      (val hop x y z).trans (Prod.ext (wrI_sub x y).symm rfl)
  · exact halfOf_int3 (fun x y => (x &&& y, 0)) rfl (fun _ => rfl) fun x y z => by rw [val hop]; simp [halfValue]
  · exact halfOf_int3 (fun x y => (x ||| y, 0)) rfl (fun _ => rfl) fun x y z => by rw [val hop]; simp [halfValue]
  · exact halfOf_int3 (fun x y => (x ^^^ y, 0)) rfl (fun _ => rfl) fun x y z => by rw [val hop]; simp [halfValue]
  · exact halfOf_shift (fShl .s32) rfl (fun _ => rfl) (val hop)
  · exact halfOf_shift (fShr .s32) rfl (fun _ => rfl) (val hop)
  · exact halfOf_shift (fSar .s32) rfl (fun _ => rfl) (val hop)
  · exact halfOf_int3 (fun x y => (wrI .s32 (min (rdI .s32 x) (rdI .s32 y)), 0)) rfl (fun _ => rfl) (val hop)
  · exact halfOf_int3 (fun x y => (wrI .s32 (max (rdI .s32 x) (rdI .s32 y)), 0)) rfl (fun _ => rfl) (val hop)
  · exact halfOf_flt2 (fun x => (fSign x 0, 0)) rfl (fun _ => rfl) (val hop)
  · exact halfOf_flt2 (fun x => (fSign x (~~~ x), 0)) rfl (fun _ => rfl) (val hop)


/-- What a half gives in a lane, from the registers of a group. -/
def halfIn (x : Half) (g : Group) (l : Nat) : W32 × Fl :=
  halfValue x.op (g.getV x.a.toNat l) (g.getV x.b.toNat l) (g.getV x.d.toNat l)
theorem halfWrites_inLane (g : Group) (x : Half) (l : Nat) : ∀ w ∈ halfWrites g x l, w.inLane l := by
  intro w hw
  rcases List.mem_cons.1 hw with rfl | hw
  · rfl
  · exact flagWrite_inLane _ _ _ w hw
theorem getV_halfWrites (g c : Group) (x : Half) {n l : Nat} (hl : l < 64) :
    (g.writes (halfWrites c x l)).getV n l = if n = x.d.toNat then (halfIn x c l).1 else g.getV n l := by
  have hd : x.d.toNat ≠ 255 := by have := x.d.isLt; omega
  show ((g.setV x.d.toNat l (halfIn x c l).1).writes (flagWrite x.q l (halfIn x c l).2)).getV n l = _
  rw [getV_flagWrite, getV_setV _ _ _ _ _ _ hl hl]
  by_cases e : n = x.d.toNat
  · subst e; simp [hd]
  · simp [e, Ne.symm e]
theorem getFlg_halfWrites (g c : Group) (x : Half) (l : Nat) :
    (g.writes (halfWrites c x l)).getFlg l = g.getFlg l ||| (if x.q = true then 0 else (halfIn x c l).2) := by
  show ((g.setV x.d.toNat l (halfIn x c l).1).writes (flagWrite x.q l (halfIn x c l).2)).getFlg l = _
  rw [getFlg_flagWrite, getFlg_setV]
theorem getP_halfWrites (g c : Group) (x : Half) (n l : Nat) : (g.writes (halfWrites c x l)).getP n = g.getP n := by
  show ((g.setV x.d.toNat l (halfIn x c l).1).writes (flagWrite x.q l (halfIn x c l).2)).getP n = _
  rw [getP_flagWrite, getP_setV]

/-- What a pair word writes in a lane: both halves read the registers of `g`. -/
def pairWrites (g : Group) (h0 h1 : Half) (l : Nat) : List RegWrite := (halfWrites g h0 l ++ halfWrites g h1 l) ++ flagWrite false l 0
theorem pairWrites_inLane (g : Group) (h0 h1 : Half) (l : Nat) : ∀ w ∈ pairWrites g h0 h1 l, w.inLane l := by
  intro w hw
  rcases List.mem_append.1 hw with hw | hw
  · rcases List.mem_append.1 hw with hw | hw
    · exact halfWrites_inLane _ _ _ w hw
    · exact halfWrites_inLane _ _ _ w hw
  · exact flagWrite_inLane _ _ _ w hw
theorem pairWrites_lanes (g : Group) (h0 h1 : Half) (ls : List Nat) : ∀ w ∈ ls.flatMap (pairWrites g h0 h1), ∃ l, w.inLane l := by
  intro w hw
  obtain ⟨l, -, hl⟩ := List.mem_flatMap.1 hw
  exact ⟨l, pairWrites_inLane g h0 h1 l w hl⟩
theorem pairWord_completes {e pn : Bool} {pg : PReg} {h0 h1 : Half} {s : State} {c : Ctx}
    (hi : Issues s ⟨e, pg, pn, false, 0⟩ (h0.uses ++ h1.uses) 1 c) :
    Completes (.pairWord e pg pn h0 h1) s c 1 .short (h0.uses ++ h1.uses) false ((laneList c.act).flatMap (pairWrites c.g h0 h1)) :=
  completes_of _ s ⟨e, pg, pn, false, 0⟩ .short (h0.uses ++ h1.uses) false 1 c hi _ _ rfl rfl

theorem pairWords : Claim.PairWords := by
  refine ⟨fun h op d a b i flg hs => halfOf_single hs, fun e pn pg h0 h1 s c => ?_⟩
  dsimp only
  intro hi
  refine ⟨_, pairWord_completes hi, fun g => ?_⟩
  have hF := pairWrites_inLane c.g h0 h1
  have lanes := pairWrites_lanes c.g h0 h1 (laneList c.act)
  have hb : ∀ l ∈ laneList c.act, l < 64 := fun l hl => ((mem_laneList _ _).1 hl).1
  have acts (l : Nat) (hl : l < 64) : l ∈ laneList c.act ↔ c.act.getLsbD l = true := by rw [mem_laneList, and_iff_right hl]
  refine ⟨fun n l hl => ?_, fun l hl => ?_, fun n => getS_writes_lane _ _ _ lanes, fun n => getD_writes_lane _ _ _ lanes, fun n l hl => ?_⟩
  · rw [getV_writes_lanes _ _ _ _ _ hl (laneList_nodup _) hb hF, pairWrites, writes_append, writes_append, getV_flagWrite,
      getV_halfWrites _ _ _ hl, getV_halfWrites _ _ _ hl]
    by_cases ha : c.act.getLsbD l = true <;> simp [acts l hl, halfIn, ha]
  · rw [getFlg_writes_lanes _ _ _ _ (laneList_nodup _) hF, pairWrites, writes_append, writes_append, getFlg_flagWrite,
      getFlg_halfWrites, getFlg_halfWrites]
    simp [acts l hl, halfIn]
  · rw [getP_writes_lanes _ _ _ _ _ hl (laneList_nodup _) hF, pairWrites, writes_append, writes_append, getP_flagWrite,
      getP_halfWrites, getP_halfWrites, ite_self]

/-- Settles O12: the operand forms give the packed and the pair words, a count of the stack's depth the expressions. -/
theorem packedWords : Obligations.PackedWords := ⟨packedPairs, expressions, expressionTokens, pairWords⟩

end Sys2Proof.Machine
end

section
/-! SUPPORT. A result that is written late, in a group two of whose splits share an index (R44, R128, R370). -/

namespace Sys2Proof.Machine

/-- The result of group 1 that asks for the demotion of split 0. -/
def demotingResult : Pend := ⟨300, 0, [], false, true, 0, [], none, 0x10000, 0⟩
/-- Group 1 with two splits of index 0, one asleep and one ready, that awaits this result. -/
def twinSplits : Group := { group0 0 with
  splits := [⟨0, 0x10000, 0xFF, .asleep (.sleep none), false, [], []⟩, ⟨0, 0x10000, 0xFF00, .ready, false, [], []⟩]
  pend := [demotingResult] }
/-- A grace period waits for the group, and its result is due. -/
def twinState : State := { small with
  groups := [(1, twinSplits)], graces := [(7, ⟨5, [1]⟩)], ev := { EvIn.none with unit := 1, idx := 300 } }

/-- Both splits take the place of the first, the group counts as asleep, and the grace period no longer waits for it. -/
theorem twinState_result : ∃ t, exec .longLatencyResult twinState = .next t ∧ t.graces = [(7, ⟨5, []⟩)] := ⟨_, rfl, by decide +kernel⟩

/-- Refutes O19: where two splits share an index (no premise excludes it), demoting the first puts it in the place of both; the group
then counts as asleep, and the step that writes its result also counts its passage in a grace period. -/
theorem not_memorySteps : ¬ Obligations.MemorySteps := by
  intro claim
  obtain ⟨results, -⟩ := claim twinState
  obtain ⟨-, written, -⟩ := results twinSplits demotingResult rfl rfl
  obtain ⟨t, g', ht, frame, -⟩ := written (by decide +kernel) rfl rfl
  obtain ⟨t', ht', passed⟩ := twinState_result
  rw [ht'] at ht
  cases ht
  have kept : t.graces = twinState.graces := by rw [frame]; rfl
  rw [passed] at kept
  exact absurd kept (by decide)

end Sys2Proof.Machine
end

section
/-! SUPPORT. Memory's canonical form, kept by every word, by every step of the hardware and the outside, and by the step that
calls them (R68, R79). -/

namespace Sys2Proof.Machine

/-- Every instruction keeps memory in canonical form: one arm per constructor, as the dispatcher has it. -/
theorem exec_ok (i : Instr) (s : State) (hs : MemOk s) : OkO (exec i s) :=
  match i with
  | .nop h => execNop_ok h s hs
  | .mov h o => execMov_ok h o s hs
  | .movi h f d imm => execMovi_ok h f d imm s hs
  | .iadd h o => execIadd_ok h o s hs
  | .isub h o => execIsub_ok h o s hs
  | .iaddi h o imm => execIaddi_ok h o imm s hs
  | .imul h o => execImul_ok h o s hs
  | .imulh h o => execImulh_ok h o s hs
  | .imad h o => execImad_ok h o s hs
  | .idiv h o => execIdiv_ok h o s hs
  | .irem h o => execIrem_ok h o s hs
  | .imin h o => execImin_ok h o s hs
  | .imax h o => execImax_ok h o s hs
  | .iabs h o => execIabs_ok h o s hs
  | .ineg h o => execIneg_ok h o s hs
  | .isadd h sub o => execIsadd_ok h sub o s hs
  | .lop3 h lut o => execLop3_ok h lut o s hs
  | .andB h o => execAndB_ok h o s hs
  | .orB h o => execOrB_ok h o s hs
  | .xorB h o => execXorB_ok h o s hs
  | .shl h o n => execShl_ok h o n s hs
  | .shr h o n => execShr_ok h o n s hs
  | .sar h o n => execSar_ok h o n s hs
  | .rot h right o n => execRot_ok h right o n s hs
  | .bfx h o => execBfx_ok h o s hs
  | .bfi h o => execBfi_ok h o s hs
  | .popc h o => execPopc_ok h o s hs
  | .clz h o => execClz_ok h o s hs
  | .brev h o => execBrev_ok h o s hs
  | .icmp h k sb ty cmp bop pd a b pc => execIcmp_ok h k sb ty cmp bop pd a b pc s hs
  | .sel h sb ty d a b pc => execSel_ok h sb ty d a b pc s hs
  | .lea h k sb sx sh d a b => execLea_ok h k sb sx sh d a b s hs
  | .fadd h o => execFadd_ok h o s hs
  | .fsub h o => execFsub_ok h o s hs
  | .fmul h o => execFmul_ok h o s hs
  | .ffma h o => execFfma_ok h o s hs
  | .ffms h o => execFfms_ok h o s hs
  | .fmin h k sb ftz d a b => execFmin_ok h k sb ftz d a b s hs
  | .fmax h k sb ftz d a b => execFmax_ok h k sb ftz d a b s hs
  | .fabs h k d a => execFabs_ok h k d a s hs
  | .fneg h k d a => execFneg_ok h k d a s hs
  | .fcmp h k sb ftz cmp bop pd a b pc => execFcmp_ok h k sb ftz cmp bop pd a b pc s hs
  | .fclass h k d a => execFclass_ok h k d a s hs
  | .frnd h o => execFrnd_ok h o s hs
  | .fscale h o => execFscale_ok h o s hs
  | .fdiv h o => execFdiv_ok h o s hs
  | .fsqrt h o => execFsqrt_ok h o s hs
  | .fsign h k sb op d a b => execFsign_ok h k sb op d a b s hs
  | .badd2 h o => execBadd2_ok h o s hs
  | .bmul2 h o => execBmul2_ok h o s hs
  | .bfma2 h o => execBfma2_ok h o s hs
  | .bmin2 h o => execBmin2_ok h o s hs
  | .bmax2 h o => execBmax2_ok h o s hs
  | .hadd2 h o => execHadd2_ok h o s hs
  | .hmul2 h o => execHmul2_ok h o s hs
  | .hfma2 h o => execHfma2_ok h o s hs
  | .xpr h o bodyE toks => execXpr_ok h o bodyE toks s hs
  | .lscale h dv bf2 o => execLscale_ok h dv bf2 o s hs
  | .ovf h op bf2 d a => execOvf_ok h op bf2 d a s hs
  | .cvt h df sf o => execCvt_ok h df sf o s hs
  | .cvti h it sf o => execCvti_ok h it sf o s hs
  | .cvtf h df it o => execCvtf_ok h df it o s hs
  | .srnd h n o => execSrnd_ok h n o s hs
  | .qblk h df bl32 rm d a r => execQblk_ok h df bl32 rm d a r s hs
  | .dqblk h sf sb rm d a b => execDqblk_ok h sf sb rm d a b s hs
  | .pack h df pos sb rm d a b r => execPack_ok h df pos sb rm d a b r s hs
  | .unpack h sf pos d a => execUnpack_ok h sf pos d a s hs
  | .rcp h ftz d a => execRcp_ok h ftz d a s hs
  | .rsq h ftz d a => execRsq_ok h ftz d a s hs
  | .ex2 h ftz d a => execEx2_ok h ftz d a s hs
  | .lg2 h ftz d a => execLg2_ok h ftz d a s hs
  | .sin h ftz d a => execSin_ok h ftz d a s hs
  | .cos h ftz d a => execCos_ok h ftz d a s hs
  | .tanh h ftz d a => execTanh_ok h ftz d a s hs
  | .erf h ftz d a => execErf_ok h ftz d a s hs
  | .rng h k w64 d a b => execRng_ok h k w64 d a b s hs
  | .drop h sb d a b c => execDrop_ok h sb d a b c s hs
  | .tqnt h sign n d a => execTqnt_ok h sign n d a s hs
  | .tdq h sign pos sb d a b => execTdq_ok h sign pos sb d a b s hs
  | .shfl h mode w64 sg sb d a b => execShfl_ok h mode w64 sg sb d a b s hs
  | .bcast h w64 sg n d a => execBcast_ok h w64 sg n d a s hs
  | .vote h neg pa t => execVote_ok h neg pa t s hs
  | .mtch h w64 sg d a => execMtch_ok h w64 sg d a s hs
  | .redux h op ls d a => execRedux_ok h op ls d a s hs
  | .fredux h op rm ftz ls d a => execFredux_ok h op rm ftz ls d a s hs
  | .scan h op excl ls d a => execScan_ok h op excl ls d a s hs
  | .fscan h op rm ftz excl ls d a => execFscan_ok h op rm ftz excl ls d a s hs
  | .rdlane h w64 d a b => execRdlane_ok h w64 d a b s hs
  | .wrlane h w64 d a b => execWrlane_ok h w64 d a b s hs
  | .plop h lut pd pa pb pc => execPlop_ok h lut pd pa pb pc s hs
  | .pmovTov h d mask => execPmovTov_ok h d mask s hs
  | .pmovTop h a mask => execPmovTop_ok h a mask s hs
  | .elect h pd ls => execElect_ok h pd ls s hs
  | .ldg h o => execLdg_ok h o s hs
  | .stg h o => execStg_ok h o s hs
  | .lds h o => execLds_ok h o s hs
  | .sts h o => execSts_ok h o s hs
  | .ldc h sx ty d a off => execLdc_ok h sx ty d a off s hs
  | .ldl h ty hnt d a b off => execLdl_ok h ty hnt d a b off s hs
  | .stl h ty hnt d a b off => execStl_ok h ty hnt d a b off s hs
  | .ldp h w64 sc acq hnt d a b c => execLdp_ok h w64 sc acq hnt d a b c s hs
  | .ldv h o => execLdv_ok h o s hs
  | .stws h ty sc sop d a b c => execStws_ok h ty sc sop d a b c s hs
  | .prf h lvl a b off => execPrf_ok h lvl a b off s hs
  | .cctl h op a b => execCctl_ok h op a b s hs
  | .fence h ord sc => execFence_ok h ord sc s hs
  | .ldm h n sc ord d a off => execLdm_ok h n sc ord d a off s hs
  | .stm h n sc ord d a off => execStm_ok h n sc ord d a off s hs
  | .waitv h cmp w32 sc d a b => execWaitv_ok h cmp w32 sc d a b s hs
  | .atom h op o => execAtom_ok h op o s hs
  | .atomf h fmt op sc ord d a b c => execAtomf_ok h fmt op sc ord d a b c s hs
  | .cas h o => execCas_ok h o s hs
  | .red h op w64 sc ord a b c => execRed_ok h op w64 sc ord a b c s hs
  | .redf h fmt op sc ord a b c => execRedf_ok h fmt op sc ord a b c s hs
  | .atoms h op w64 swz ord d a b c => execAtoms_ok h op w64 swz ord d a b c s hs
  | .cass h w64 swz ord d a b c => execCass_ok h w64 swz ord d a b c s hs
  | .cpy h dir np dst src shape ctl => execCpy_ok h dir np dst src shape ctl s hs
  | .offl h np loc rem len ctl => execOffl_ok h np loc rem len ctl s hs
  | .rtrn h np loc rem len ctl => execRtrn_ok h np loc rem len ctl s hs
  | .putr h m r l len ctl => execPutr_ok h m r l len ctl s hs
  | .getr h m r l len ctl => execGetr_ok h m r l len ctl s hs
  | .puts h sop m r l len ctl => execPuts_ok h sop m r l len ctl s hs
  | .append h d a b => execAppend_ok h d a b s hs
  | .ratom h op w64 ord d a b c => execRatom_ok h op w64 ord d a b c s hs
  | .coll h np prog arg ctl => execColl_ok h np prog arg ctl s hs
  | .layx h np desc ctl => execLayx_ok h np desc ctl s hs
  | .gang h imm => execGang_ok h imm s hs
  | .gangClr h => execGangClr_ok h s hs
  | .mma h za tile rec bb shape sf => execMma_ok h za tile rec bb shape sf s hs
  | .mfence h d => execMfence_ok h d s hs
  | .mwait h n => execMwait_ok h n s hs
  | .mwaitAll h => execMwaitAll_ok h s hs
  | .accz h tile => execAccz_ok h tile s hs
  | .accrd h nr d tile b => execAccrd_ok h nr d tile b s hs
  | .accwr h nr tile a b => execAccwr_ok h nr tile a b s hs
  | .accq h df bl16 rm g tile a b c => execAccq_ok h df bl16 rm g tile a b c s hs
  | .shape h d a b => execShape_ok h d a b s hs
  | .phjoin h mode d a => execPhjoin_ok h mode d a s hs
  | .phdrop h a => execPhdrop_ok h a s hs
  | .pharr h sc d a b => execPharr_ok h sc d a b s hs
  | .phwait h sc d a b => execPhwait_ok h sc d a b s hs
  | .phexp h a b => execPhexp_ok h a b s hs
  | .drain h mask => execDrain_ok h mask s hs
  | .bar h id c => execBar_ok h id c s hs
  | .quies h => execQuies_ok h s hs
  | .grace h => execGrace_ok h s hs
  | .fallow h a b c => execFallow_ok h a b c s hs
  | .tokb h d a b c => execTokb_ok h d a b c s hs
  | .vpub h hold a b => execVpub_ok h hold a b s hs
  | .vreq h own d a => execVreq_ok h own d a s hs
  | .trpop h d t => execTrpop_ok h d t s hs
  | .trpsh h a t => execTrpsh_ok h a t s hs
  | .prog h k => execProg_ok h k s hs
  | .bra h off => execBra_ok h off s hs
  | .brad h off rej => execBrad_ok h off rej s hs
  | .join h => execJoin_ok h s hs
  | .brk h n => execBrk_ok h n s hs
  | .brx h a b => execBrx_ok h a b s hs
  | .call h off d => execCall_ok h off d s hs
  | .callR h a d => execCallR_ok h a d s hs
  | .ret h a => execRet_ok h a s hs
  | .yield h => execYield_ok h s hs
  | .sleep h a => execSleep_ok h a s hs
  | .wake h a => execWake_ok h a s hs
  | .wakeAll h => execWakeAll_ok h s hs
  | .exit h => execExit_ok h s hs
  | .trap h n => execTrap_ok h n s hs
  | .rte h => execRte_ok h s hs
  | .bkpt h n => execBkpt_ok h n s hs
  | .csrr h sx d csr => execCsrr_ok h sx d csr s hs
  | .csrw h sx a csr => execCsrw_ok h sx a csr s hs
  | .pairWord e pg pn h0 h1 => execPairWord_ok e pg pn h0 h1 s hs
  | .fxNop => execFxNop_ok s hs
  | .fxLdi a imm => execFxLdi_ok a imm s hs
  | .fxLdiHi a imm => execFxLdiHi_ok a imm s hs
  | .fxAdd a b c => execFxAdd_ok a b c s hs
  | .fxSub a b c => execFxSub_ok a b c s hs
  | .fxAnd a b c => execFxAnd_ok a b c s hs
  | .fxShl a b c => execFxShl_ok a b c s hs
  | .fxCmpb c a b off => execFxCmpb_ok c a b off s hs
  | .fxJmp off => execFxJmp_ok off s hs
  | .fxLoop a off => execFxLoop_ok a off s hs
  | .fxWaitm c a b d => execFxWaitm_ok c a b d s hs
  | .fxSigm set a b => execFxSigm_ok set a b s hs
  | .fxLoadc a b c => execFxLoadc_ok a b c s hs
  | .fxStorec a b c => execFxStorec_ok a b c s hs
  | .fxSend a b c => execFxSend_ok a b c s hs
  | .fxRecv a b c => execFxRecv_ok a b c s hs
  | .fxDec sign n a b c => execFxDec_ok sign n a b c s hs
  | .fxEnc sign n a b c => execFxEnc_ok sign n a b c s hs
  | .fxAddb bf a b c => execFxAddb_ok bf a b c s hs
  | .fxSqacc bf a c => execFxSqacc_ok bf a c s hs
  | .fxNormx a b c => execFxNormx_ok a b c s hs
  | .fxGlnClm a b c => execFxGlnClm_ok a b c s hs
  | .fxGlnAdd a b c => execFxGlnAdd_ok a b c s hs
  | .fxGlnSt a b c => execFxGlnSt_ok a b c s hs
  | .fxGlnHop => execFxGlnHop_ok s hs
  | .fxGlnRel => execFxGlnRel_ok s hs
  | .fxGlnRsm a b c => execFxGlnRsm_ok a b c s hs
  | .fxCkptSv a mask => execFxCkptSv_ok a mask s hs
  | .fxCkptLd a => execFxCkptLd_ok a s hs
  | .fxTrig a b c => execFxTrig_ok a b c s hs
  | .fxHalt => execFxHalt_ok s hs
  | .sieveLdf d a ix => execSieveLdf_ok d a ix s hs
  | .sieveLdi d ix => execSieveLdi_ok d ix s hs
  | .sieveAdd d a ix => execSieveAdd_ok d a ix s hs
  | .sieveSub d a ix => execSieveSub_ok d a ix s hs
  | .sieveAnd d a ix => execSieveAnd_ok d a ix s hs
  | .sieveOr d a ix => execSieveOr_ok d a ix s hs
  | .sieveXor d a ix => execSieveXor_ok d a ix s hs
  | .sieveShr d a ix => execSieveShr_ok d a ix s hs
  | .sieveShl d a ix => execSieveShl_ok d a ix s hs
  | .sieveJeq d a ix => execSieveJeq_ok d a ix s hs
  | .sieveJne d a ix => execSieveJne_ok d a ix s hs
  | .sieveJlt d a ix => execSieveJlt_ok d a ix s hs
  | .sieveKeep => execSieveKeep_ok s hs
  | .sieveDrop => execSieveDrop_ok s hs
  | .sieveCnt d a ix => execSieveCnt_ok d a ix s hs
  | .sieveTrig d => execSieveTrig_ok d s hs
  | .sieveHist d a ix => execSieveHist_ok d a ix s hs
  | .runArbitration => execRunArbitration_ok s hs
  | .forcedRunEnd => execForcedRunEnd_ok s hs
  | .longLatencyResult => execLongLatencyResult_ok s hs
  | .storePerform => execStorePerform_ok s hs
  | .bankQueueServe => execBankQueueServe_ok s hs
  | .sleepTimeout => execSleepTimeout_ok s hs
  | .waitvReread => execWaitvReread_ok s hs
  | .pageWalkComplete => execPageWalkComplete_ok s hs
  | .invalidateRange => execInvalidateRange_ok s hs
  | .invalidateAsid => execInvalidateAsid_ok s hs
  | .invalidateAll => execInvalidateAll_ok s hs
  | .invalidationDone => execInvalidationDone_ok s hs
  | .contextSlotWrite => execContextSlotWrite_ok s hs
  | .regulatorWrite => execRegulatorWrite_ok s hs
  | .requestSchedule => execRequestSchedule_ok s hs
  | .memoryRequestComplete => execMemoryRequestComplete_ok s hs
  | .refreshDue => execRefreshDue_ok s hs
  | .catchUpEnd => execCatchUpEnd_ok s hs
  | .owedRefresh => execOwedRefresh_ok s hs
  | .rowHammerRefresh => execRowHammerRefresh_ok s hs
  | .hotrefChange => execHotrefChange_ok s hs
  | .patrolScrub => execPatrolScrub_ok s hs
  | .correctedError => execCorrectedError_ok s hs
  | .uncorrectableError => execUncorrectableError_ok s hs
  | .keySlotLoad => execKeySlotLoad_ok s hs
  | .copyCommandStart => execCopyCommandStart_ok s hs
  | .deliveryUnitCount => execDeliveryUnitCount_ok s hs
  | .offloadPageOut => execOffloadPageOut_ok s hs
  | .returnPageResident => execReturnPageResident_ok s hs
  | .ceReset => execCeReset_ok s hs
  | .ceEn => execCeEn_ok s hs
  | .engineCommandComplete => execEngineCommandComplete_ok s hs
  | .matrixEngineReset => execMatrixEngineReset_ok s hs
  | .fabricPacketArrival => execFabricPacketArrival_ok s hs
  | .remoteAcknowledge => execRemoteAcknowledge_ok s hs
  | .remoteTriggerFire => execRemoteTriggerFire_ok s hs
  | .ueJobWrite => execUeJobWrite_ok s hs
  | .gleaningTableWrite => execGleaningTableWrite_ok s hs
  | .fxProgramStart => execFxProgramStart_ok s hs
  | .messageAccept => execMessageAccept_ok s hs
  | .startPacketArrival => execStartPacketArrival_ok s hs
  | .fxWaitmReread => execFxWaitmReread_ok s hs
  | .fxAbort => execFxAbort_ok s hs
  | .fxEn => execFxEn_ok s hs
  | .phaserEngineCount => execPhaserEngineCount_ok s hs
  | .phaserEngineFault => execPhaserEngineFault_ok s hs
  | .phwaitWake => execPhwaitWake_ok s hs
  | .graceEnd => execGraceEnd_ok s hs
  | .releaseRingEntry => execReleaseRingEntry_ok s hs
  | .releaseRingBaseWrite => execReleaseRingBaseWrite_ok s hs
  | .vpubWaitEnd => execVpubWaitEnd_ok s hs
  | .versionRegionConfig => execVersionRegionConfig_ok s hs
  | .nopPacket => execNopPacket_ok s hs
  | .launchPacket => execLaunchPacket_ok s hs
  | .feedPacket => execFeedPacket_ok s hs
  | .waitmemPacket => execWaitmemPacket_ok s hs
  | .writememStore64 => execWritememStore64_ok s hs
  | .writememStore32 => execWritememStore32_ok s hs
  | .writememAdd64 => execWritememAdd64_ok s hs
  | .linksigPacket => execLinksigPacket_ok s hs
  | .linkwaitPacket => execLinkwaitPacket_ok s hs
  | .graphPacket => execGraphPacket_ok s hs
  | .graphNodeFinish => execGraphNodeFinish_ok s hs
  | .copyPacket => execCopyPacket_ok s hs
  | .collPacket => execCollPacket_ok s hs
  | .vpubPacket => execVpubPacket_ok s hs
  | .ckptPacket => execCkptPacket_ok s hs
  | .ctxctlEnd => execCtxctlEnd_ok s hs
  | .ctxctlSuspend => execCtxctlSuspend_ok s hs
  | .ctxctlResume => execCtxctlResume_ok s hs
  | .eventQueueRegisterWrite => execEventQueueRegisterWrite_ok s hs
  | .troughDisable => execTroughDisable_ok s hs
  | .teamPlacement => execTeamPlacement_ok s hs
  | .priorityAgeing => execPriorityAgeing_ok s hs
  | .deadlineMissed => execDeadlineMissed_ok s hs
  | .asyncFaultDelivery => execAsyncFaultDelivery_ok s hs
  | .priorityPreemption => execPriorityPreemption_ok s hs
  | .teamSave => execTeamSave_ok s hs
  | .teamResume => execTeamResume_ok s hs
  | .traceSieveRun => execTraceSieveRun_ok s hs
  | .sieveLoad => execSieveLoad_ok s hs
  | .trcStatClear => execTrcStatClear_ok s hs
  | .powerGateRequest => execPowerGateRequest_ok s hs
  | .powerGateTimeout => execPowerGateTimeout_ok s hs
  | .debugStopRequest => execDebugStopRequest_ok s hs
  | .debugResume => execDebugResume_ok s hs
  | .trialStart => execTrialStart_ok s hs
  | .trialStop => execTrialStop_ok s hs
  | .trialWindowEnd => execTrialWindowEnd_ok s hs
  | .powerOn => execPowerOn_ok s hs
  | .bootCold => execBootCold_ok s hs
  | .bootWarm => execBootWarm_ok s hs
  | .bootOk => execBootOk_ok s hs
  | .startTimeout => execStartTimeout_ok s hs
  | .attestationRequest => execAttestationRequest_ok s hs
  | .checkpointStreamStart => execCheckpointStreamStart_ok s hs
  | .sendAhead => execSendAhead_ok s hs
  | .checkpointComplete => execCheckpointComplete_ok s hs
  | .checkpointTransportFailure => execCheckpointTransportFailure_ok s hs
  | .hostPortWrite => execHostPortWrite_ok s hs
  | .powerSample => execPowerSample_ok s hs
  | .thermalTrip => execThermalTrip_ok s hs
  | .registerWrite => execRegisterWrite_ok s hs
  | .transportFailure => execTransportFailure_ok s hs
  | .perBankRefreshEnd => execPerBankRefreshEnd_ok s hs
  | .matrixEngineResetEnd => execMatrixEngineResetEnd_ok s hs
  | .thermalTripClear => execThermalTripClear_ok s hs
  | .fxTransferComplete => execFxTransferComplete_ok s hs

theorem advance_ok {s : State} (hs : MemOk s) : MemOk s.advance := State.observe_ok s hs
theorem turnsPassed_ok {s : State} (hs : MemOk s) : MemOk s.observeQueues.settleWaits.retryCopies.retryFx :=
  State.retryFx_ok _ (State.retryCopies_ok _ (State.settleWaits_ok _ (State.observeQueues_ok _ hs)))

/-- The next word of a partition's run: none is there, or its fetch gives an instruction, a forced end, a wait or a fault. -/
theorem stepIssue_ok (s : State) (p : Nat) (hs : MemOk s) : OkO (stepIssue s p) := by
  unfold stepIssue
  split
  · exact okO_next hs
  · split
    · exact okO_next hs
    · rename_i g _
      split
      · exact okO_next hs
      · rename_i sp _
        have fetched := State.nextInstr_ok s g sp (s.part p).count hs
        split <;> rename_i e <;> rw [e] at fetched
        · exact exec_ok _ _ fetched
        · exact exec_ok _ _ fetched
        · exact okO_next (State.stallAt_ok _ _ _ _ fetched)
        · exact okO_next (State.raise_ok _ _ _ _ _ fetched)

/-- The next word of a fabric program: it is held, or its fetch gives an instruction, a refusal, a fault or a wait. -/
theorem stepFx_ok (s : State) (p : Nat) (hs : MemOk s) : OkO (stepFx s p) := by
  unfold stepFx
  dsimp only
  split
  · exact okO_next hs
  · rename_i k _
    split
    · exact okO_next hs
    · have fetched := State.fetchFx_ok s p k.slot (s.fxs.get FxSt.init p).fpc hs
      split <;> rename_i e <;> rw [e] at fetched
      · exact exec_ok _ _ fetched
      · exact okO_next (State.fxFail_ok _ _ _ _ _ fetched)
      · exact okO_next (State.fxFail_ok _ _ _ _ _ fetched)
      · exact okO_next fetched

theorem stepSieve_ok (s : State) (d : Nat) (hs : MemOk s) : OkO (stepSieve s d) := by
  unfold stepSieve
  split
  · exact okO_next hs
  · exact exec_ok _ _ hs

theorem step_ok (s : State) (hs : MemOk s) : OkO (step s) := by
  have ha := advance_ok hs
  unfold step
  split
  · exact stepIssue_ok _ _ ha
  · exact stepFx_ok _ _ ha
  · exact stepSieve_ok _ _ ha
  · split
    · exact exec_ok _ _ ha
    · exact okO_next ha
  · exact okO_next (State.elapse_ok _ _ (turnsPassed_ok ha))
  · exact okO_next ha

/-- Settles O58: whatever the turn, the step keeps the three maps of memory in canonical form. -/
theorem memoryInvariant : Obligations.MemoryInvariant := fun s t hs ht =>
  (memWf_iff t).2 (step_ok s ((memWf_iff s).1 hs) t ht)

end Sys2Proof.Machine
end

section
/-! SUPPORT. A word that completes, with bank lines still to be read or a result that faults: what it leaves (R44 to R47, R128,
R141). The scratchpad and the launch constants (R122 to R126, R145, R147). -/

namespace Sys2Proof.Machine

-- ## A word that completes (R44 to R47)

theorem SameRegs.writes {a b : Group} (h : SameRegs a b) (ws : List RegWrite) : SameRegs (a.writes ws) (b.writes ws) := by
  induction ws generalizing a b with
  | nil => exact h
  | cons w ws ih =>
    refine ih ?_
    obtain ⟨hv, hs, hd, hp, hf⟩ := h
    cases w with
    | v n lane x => simp only [Group.write, Group.setV]; split <;> exact ⟨by simp only [hv], hs, hd, hp, hf⟩
    | s n x => simp only [Group.write, Group.setS]; split <;> exact ⟨hv, by simp only [hs], hd, hp, hf⟩
    | p n lane x =>
      simp only [Group.write, Group.setP, Group.setPm, Group.getP]; split <;> exact ⟨hv, hs, hd, by simp only [hp], hf⟩
    | d n x => exact ⟨hv, hs, by simp only [Group.write, Group.setD, hd], hp, hf⟩
    | flg lane x => exact ⟨hv, hs, hd, hp, by simp only [Group.write, Group.orFlg, Group.getFlg, hf]⟩

/-- Whether a word's results are written in a step of their own (R44). -/
def isLate (lat : Lat) (us : List Use) (flg : Bool) (r : Res) : Bool :=
  lat == .long && (!(destNames us).isEmpty || flg || !r.lines.isEmpty || r.demote || r.bad.isSome || r.late)

/-- The windows of the issuing split once its word has completed (R46). -/
def winsAfter (g : Group) (sp : Split) (h : Hdr) (us : List Use) (len pid : Nat) (late : Bool) (r : Res) : List Win :=
  sp.age g len ++ (if late && (!(destNames us).isEmpty || r.bad.isSome) then [⟨pid, h.la.toNat, destNames us⟩] else [])

/-- The issuing split at the next word. -/
def Split.passed (sp : Split) (len : Nat) (wins : List Win) : Split :=
  { sp with pc := sp.pc + BitVec.ofNat 64 (8 * len), wins := wins, holdFor := [], st := .ready }

/-- The result of a word that is awaited. -/
def awaited (s : State) (c : Ctx) (us : List Use) (flg : Bool) (r : Res) : Pend :=
  ⟨s.nextId, c.idx, destNames us, flg, r.demote, r.lines.length, r.ws, r.bad, c.sp.pc, s.tick⟩

/-- The group once its word has completed: the issuing split at the next word, the results awaited or written. -/
def Group.completed (g : Group) (s : State) (c : Ctx) (sp : Split) (us : List Use) (flg late : Bool) (r : Res) : Group :=
  if late then { g.putSplit sp with pend := g.pend ++ [awaited s c us flg r] } else (g.putSplit sp).writes r.ws

theorem completed_own (g : Group) (s : State) (c : Ctx) (sp : Split) (us : List Use) (flg late : Bool) (r : Res) :
    g.completed s c sp us flg late r = (let g' := g.completed s c sp us flg late r
      { g with v := g'.v, s := g'.s, d := g'.d, p := g'.p, flg := g'.flg, splits := (g.putSplit sp).splits, pend := g'.pend }) := by
  unfold Group.completed
  cases late
  · rw [if_neg Bool.false_ne_true, writes_own]; rfl
  · rfl

/-- The next number taken, where the results of a word come late. -/
def State.numbered (s : State) (late : Bool) : State := { s with nextId := if late then s.nextId + 1 else s.nextId }

/-- What completing a word does to its group. -/
def completion (s : State) (c : Ctx) (h : Hdr) (us : List Use) (flg : Bool) (len : Nat) (late : Bool) (r : Res) (g : Group) : Group :=
  match g.split? c.idx with
  | none => g
  | some sp => g.completed s c (sp.passed len (winsAfter g sp h us len s.nextId late r)) us flg late r

/-- The number of the next result, the group and its lines' places in the bank queues: what completing does before it counts the
word. -/
def State.completing (s : State) (c : Ctx) (h : Hdr) (lat : Lat) (us : List Use) (flg : Bool) (len : Nat) (r : Res) : State :=
  let s1 := (s.numbered (isLate lat us flg r)).updGrp c.gid
    (completion s c h us flg len (isLate lat us flg r) r)
  if r.lines.isEmpty then s1 else s1.bankEnter c.g.core c.gid (some s.nextId) r.lines

theorem complete_eq (s : State) (c : Ctx) (h : Hdr) (lat : Lat) (us : List Use) (flg : Bool) (len : Nat) (r : Res) :
    s.complete c h lat us flg len r = (s.completing c h lat us flg len r).countWord c len h.e := by
  unfold State.complete State.completing isLate
  dsimp only
  generalize (lat == .long && (!(destNames us).isEmpty || flg || !r.lines.isEmpty || r.demote || r.bad.isSome || r.late)) = late
  cases late <;> rfl

/-- What completing changes of the state beside groups: the next number where the results come late, and the core's bank queues. -/
theorem completing_state (s : State) (c : Ctx) (h : Hdr) (lat : Lat) (us : List Use) (flg : Bool) (len : Nat) (r : Res) :
    let u := s.completing c h lat us flg len r
    u = { s with groups := u.groups, nextId := if isLate lat us flg r then s.nextId + 1 else s.nextId, cores := u.cores }
      ∧ (r.lines = [] → u.cores = s.cores) := by
  unfold State.completing
  split
  · exact ⟨rfl, fun _ => rfl⟩
  · rename_i hl
    exact ⟨rfl, fun h => absurd (by rw [h]; rfl) hl⟩

theorem completing_grp {s : State} {c : Ctx} {g : Group} {sp : Split} (hg : s.grp c.gid = some g) (hsp : g.split? c.idx = some sp)
    (h : Hdr) (lat : Lat) (us : List Use) (flg : Bool) (len : Nat) (r : Res) : ∃ wins cc,
    (s.completing c h lat us flg len r).grp c.gid
      = some { g.completed s c (sp.passed len wins) us flg (isLate lat us flg r) r with cc := cc } := by
  have own : ((s.numbered (isLate lat us flg r)).updGrp c.gid (completion s c h us flg len (isLate lat us flg r) r)).grp c.gid
      = some (g.completed s c (sp.passed len (winsAfter g sp h us len s.nextId (isLate lat us flg r) r)) us flg (isLate lat us flg r) r) := by
    rw [grp_updGrp, if_pos rfl, show (s.numbered _).grp c.gid = some g from hg, Option.map_some, completion, hsp]
  refine ⟨winsAfter g sp h us len s.nextId (isLate lat us flg r) r, ?_⟩
  unfold State.completing
  dsimp only
  split
  · exact ⟨_, own⟩
  · refine ⟨(g.completed s c (sp.passed len (winsAfter g sp h us len s.nextId (isLate lat us flg r) r)) us flg (isLate lat us flg r) r).cc
      + r.lines.length, ?_⟩
    rw [State.bankEnter, grp_updGrp, if_pos rfl]
    exact congrArg (Option.map _) own
theorem completing_grp_ne (s : State) (c : Ctx) (h : Hdr) (lat : Lat) (us : List Use) (flg : Bool) (len : Nat) (r : Res) {i : Nat}
    (hi : i ≠ c.gid) : (s.completing c h lat us flg len r).grp i = s.grp i := by
  unfold State.completing
  extract_lets s1
  have h1 : s1.grp i = s.grp i := by
    show State.grp (State.updGrp _ _ _) _ = _
    rw [grp_updGrp, if_neg (Ne.symm hi)]
    rfl
  split
  · exact h1
  · unfold State.bankEnter
    rw [grp_updGrp, if_neg (Ne.symm hi)]
    exact h1

/-- The group of a word stands as the word found it, with the split that issues it, but for entries that have joined its FIFO. -/
structure Issuing (s : State) (c : Ctx) (es : List FifoE) (g : Group) (sp : Split) : Prop where
  here : s.grp c.gid = some g
  own : g = { c.g with splits := g.splits, fifo := c.g.fifo ++ es }
  split : g.split? c.idx = some sp
  issued : c.sp = { sp with st := .ready }
  others : ∀ i, i ≠ c.idx → g.split? i = c.g.split? i

theorem issuing_of_ctx {s : State} {h : Hdr} {c : Ctx} (hc : s.ctx? h = some c) : ∃ g sp, Issuing s c [] g sp := by
  obtain ⟨g, sp, hg, hsp, ec, eg, -, -⟩ := ctx?_some hc
  have hidx : c.sp.idx = c.idx := by rw [ec]; exact (split?_idx _ _ _ hsp : sp.idx = c.idx)
  refine ⟨g, sp, hg, ?_, hsp, ec, fun i hi => ?_⟩
  · rw [eg, List.append_nil]; rfl
  · rw [eg, split?_putSplit_ne _ _ _ (by rw [hidx]; exact hi)]

theorem Issuing.enqueue {s : State} {c : Ctx} {g : Group} {sp : Split} (hi : Issuing s c [] g sp) (es : List FifoE) :
    Issuing (s.enqueue c.gid es) c es { g with fifo := g.fifo ++ es } sp where
  here := by rw [State.enqueue, grp_updGrp, if_pos rfl, hi.here]; rfl
  own := by
    have hf : g.fifo = c.g.fifo := by rw [hi.own, List.append_nil]
    rw [hf, hi.own]
  split := hi.split
  issued := hi.issued
  others := hi.others

theorem split?_completed_self {g : Group} {sp : Split} {c : Ctx} (hsp : g.split? c.idx = some sp) (s : State) (len : Nat)
    (wins : List Win) (us : List Use) (flg late : Bool) (r : Res) :
    (g.completed s c (sp.passed len wins) us flg late r).split? c.idx = some (sp.passed len wins) := by
  have hidx := split?_idx _ _ _ hsp
  have put : (g.putSplit (sp.passed len wins)).split? (sp.passed len wins).idx = some (sp.passed len wins) :=
    split?_putSplit_self g _ sp (by rw [show (sp.passed len wins).idx = c.idx from hidx]; exact hsp)
  rw [show (sp.passed len wins).idx = c.idx from hidx] at put
  cases late
  · exact (split?_writes _ _ _).trans put
  · exact put
theorem split?_completed_ne {g : Group} {sp : Split} {c : Ctx} (hsp : g.split? c.idx = some sp) (s : State) (len : Nat)
    (wins : List Win) (us : List Use) (flg late : Bool) (r : Res) {i : Nat} (hi : i ≠ c.idx) :
    (g.completed s c (sp.passed len wins) us flg late r).split? i = g.split? i := by
  have put : (g.putSplit (sp.passed len wins)).split? i = g.split? i :=
    split?_putSplit_ne g _ i (by rw [show (sp.passed len wins).idx = c.idx from (split?_idx _ _ _ hsp : sp.idx = c.idx)]; exact hi)
  cases late
  · exact (split?_writes _ _ _).trans put
  · exact put

theorem completed_frame {s u v t : State} {b : Bool} (hu : u = { s with groups := u.groups })
    (hv : v = { u with groups := v.groups, nextId := if b then u.nextId + 1 else u.nextId, cores := v.cores })
    (ht : t = { v with groups := t.groups, parts := t.parts, mmio := t.mmio, tbufs := t.tbufs }) :
    t = { s with groups := t.groups, parts := t.parts, mmio := t.mmio, tbufs := t.tbufs
                 nextId := if b then s.nextId + 1 else s.nextId, cores := v.cores } := by
  rw [ht, hv, hu]

/-- What a word that completes leaves: its group's results, FIFO and splits, the places of its lines in the bank queues, and nothing
else of memory. -/
theorem complete_memory {s u : State} {c : Ctx} {es : List FifoE} {g : Group} {sp : Split} (hu : u = { s with groups := u.groups })
    (hne : ∀ i, i ≠ c.gid → u.grp i = s.grp i) (hi : Issuing u c es g sp) (h : Hdr) (lat : Lat) (us : List Use) (flg : Bool)
    (len : Nat) (r : Res) {t : State} (ht : u.complete c h lat us flg len r = t) :
    ∃ g', OnlyMemory s t c len es g' ∧ SameHome s t
      ∧ (isLate lat us flg r = true → SameRegs c.g g' ∧ g'.pend = c.g.pend ++ [awaited s c us flg r])
      ∧ (isLate lat us flg r = false → SameRegs (c.g.writes r.ws) g' ∧ g'.pend = c.g.pend
        ∧ (r.lines = [] → t.OnlyIssue s)) := by
  obtain ⟨wins, cc, here⟩ := completing_grp hi.here hi.split h lat us flg len r
  obtain ⟨frame, cores⟩ := completing_state u c h lat us flg len r
  have book := countWord_book (u.completing c h lat us flg len r) c len h.e
  rw [← complete_eq, ht] at book
  have others := fun i => completing_grp_ne u c h lat us flg len r (i := i)
  generalize u.completing c h lat us flg len r = v at *
  obtain ⟨g', here', own', splits'⟩ := book.own _ here
  have state := completed_frame hu frame book.state
  have hcores : u.cores = s.cores := by rw [hu]
  have mmio : v.mmio = s.mmio := by rw [frame, hu]
  have gc := completed_own g u c (sp.passed len wins) us flg (isLate lat us flg r) r
  have regs : SameRegs c.g g := by rw [hi.own]; exact ⟨rfl, rfl, rfl, rfl, rfl⟩
  have pend : g.pend = c.g.pend := by rw [hi.own]
  have aw : awaited u c us flg r = awaited s c us flg r := by rw [hu]; rfl
  refine ⟨g', ⟨?_, ?_, ?_, ?_, here', ?_, ?_, ?_⟩, ?_, ?_, ?_⟩
  · rw [state]
  · exact SameCopies.of_eq (by rw [state])
  · exact fun a h1 h2 => (book.regs a h1 h2).trans (reg_congr mmio a)
  · intro i hne'
    rw [book.groups i hne', others i hne', hne i hne']
  · rw [own', gc, hi.own]
  · obtain ⟨x, hx, he⟩ : ∃ x, g'.split? c.idx = some x ∧ x.core = (sp.passed len wins).core := by
      have e : (g'.split? c.idx).map Split.core = some (sp.passed len wins).core := (splits' c.idx).trans
        (congrArg (Option.map Split.core) (split?_completed_self hi.split u len wins us flg (isLate lat us flg r) r))
      exact Option.map_eq_some_iff.1 e
    have hpc : x.core.pc = (sp.passed len wins).core.pc := congrArg Split.pc he
    have hmask : x.core.mask = (sp.passed len wins).core.mask := congrArg Split.mask he
    have hst : x.core.st = (sp.passed len wins).core.st := congrArg Split.st he
    exact ⟨x, hx, by rw [hi.issued]; exact hpc, by rw [hi.issued]; exact hmask, hst⟩
  · intro i hi'
    rw [splits' i, ← hi.others i hi']
    exact congrArg _ (split?_completed_ne hi.split u len wins us flg (isLate lat us flg r) r hi')
  · exact fun k a => homeByte_congr (by rw [state]) (by rw [state]) (by rw [state]) k a
  · intro hl
    rw [own', hl]
    exact ⟨regs, by rw [← aw, ← pend]; rfl⟩
  · intro hl
    have e : g' = { (g.putSplit (sp.passed len wins)).writes r.ws with
        splits := g'.splits, runs := g'.runs, trdly := g'.trdly, readyAt := g'.readyAt, wait := g'.wait, cc := cc } := by
      rw [own', hl]; rfl
    have wr : SameRegs (c.g.writes r.ws) ((g.putSplit (sp.passed len wins)).writes r.ws) :=
      SameRegs.writes (b := g.putSplit (sp.passed len wins)) regs r.ws
    refine ⟨?_, ?_, fun hl' => ?_⟩
    · rw [e]; exact wr
    · rw [e, ← pend, writes_own]; rfl
    · unfold State.OnlyIssue
      rw [hl, cores hl', hcores] at state
      exact state.trans (by rw [state]; rfl)

-- ## The scratchpad (R122 to R126, R145)

/-- A word of one effect, in lanes that participate, completes with its results. -/
theorem exec_of_done {i : Instr} {s u : State} {h : Hdr} {us : List Use} {c : Ctx} {body : State → Ctx → Eff} {r : Res}
    (hx : exec i s = memWord s h us body) (hi : Issues s h us 1 c) (h0 : c.act ≠ 0) (hb : body s c = .done u r) :
    exec i s = .next (u.complete c h .long us false 1 r) := by
  rw [hx, memWord, onceWord, issue_next hi, if_neg h0, hb]; rfl

theorem checkAt_of_inside {t : Team} {n : Nat} {as : List (Nat × W64)}
    (h : ∀ x ∈ as, x.2.toNat % n = 0 ∧ x.2.toNat + n ≤ t.scratch * 1024) (wr : Bool) : t.checkAt wr n as = none := by
  have aligned : misaligned n as = none := by
    rw [misaligned, Option.map_eq_none_iff, List.find?_eq_none]
    intro x hx; simp [(h x hx).1]
  have inside : as.find? (fun x => decide (t.scratch * 1024 < x.2.toNat + n)) = none := by
    rw [List.find?_eq_none]
    intro x hx
    have := (h x hx).2
    simp; omega
  rw [Team.checkAt, aligned, inside]; rfl

theorem lanesAt_ne_nil {c : Ctx} (h0 : c.act ≠ 0) (a : SReg) (b : Reg) (off : BitVec 12) : c.lanesAt a b off ≠ [] := by
  intro e
  have := lowLane_mem _ h0
  rw [List.map_eq_nil_iff.1 e] at this
  cases this

/-- A byte that a load would take from the scratchpad stands in a poisoned word. -/
def takesPoison (g : Group) (t : Team) (n a : Nat) : Prop :=
  t.poison.get false (a / 32) = true ∧ ∃ i, i < n ∧ g.fifoByte true (a + i) = none
theorem takesPoison_iff (g : Group) (t : Team) (n a : Nat) :
    (t.poison.get false (a / 32) && (List.range n).any (fun i => (g.fifoByte true (a + i)).isNone)) = true ↔ takesPoison g t n a := by
  simp [takesPoison]

/-- The participating lanes of a scratchpad access, each with its offset after the swizzle. -/
def Team.offsets (t : Team) (swz : Bool) (as : List (Nat × W64)) : List (Nat × W64 × Nat) :=
  as.map (fun x => (x.1, x.2, t.off swz x.2.toNat))
/-- The lowest lane that would take a poisoned word's byte from the scratchpad (R79, R141). -/
def firstPoisoned (g : Group) (t : Team) (n : Nat) (os : List (Nat × W64 × Nat)) : Option (Nat × W64 × Nat) :=
  os.find? (fun x => t.poison.get false (x.2.2 / 32) && (List.range n).any (fun i => (g.fifoByte true (x.2.2 + i)).isNone))
/-- What an `LDS` gives: its bytes, or the fault of the lane that consumes poison. -/
def ldsResult (g : Group) (t : Team) (o : ScrOp) (as : List (Nat × W64)) : Res :=
  let lines := (as.map (fun x => t.line (t.off o.swz x.2.toNat))).dedup
  match firstPoisoned g t (tyBytes o.ty) (t.offsets o.swz as) with
  | some x => ⟨[], lines, false, some (flt fcMemory 0 x.2.1 x.1), false⟩
  | none => ⟨(t.offsets o.swz as).flatMap (fun x => loadRegs o.ty o.d.toNat x.1
      ((List.range (tyBytes o.ty)).map (fun i => scrByte g t (x.2.2 + i)))), lines, false, none, false⟩

theorem not_poisoned_of_clean {g : Group} {t : Team} {n : Nat} {swz : Bool} {as : List (Nat × W64)}
    (clean : ∀ x ∈ as, ¬ takesPoison g t n (t.off swz x.2.toNat)) : firstPoisoned g t n (t.offsets swz as) = none := by
  rw [firstPoisoned, List.find?_eq_none]
  intro y hy
  obtain ⟨x, hx, rfl⟩ := List.mem_map.1 hy
  exact fun e => clean x hx ((takesPoison_iff ..).1 e)

theorem ldsResult_of_clean {g : Group} {t : Team} {o : ScrOp} {as : List (Nat × W64)}
    (clean : ∀ x ∈ as, ¬ takesPoison g t (tyBytes o.ty) (t.off o.swz x.2.toNat)) :
    ldsResult g t o as = ⟨as.flatMap (fun x => loadRegs o.ty o.d.toNat x.1
      ((List.range (tyBytes o.ty)).map (fun i => scrByte g t (t.off o.swz x.2.toNat + i)))),
      (as.map (fun x => t.line (t.off o.swz x.2.toNat))).dedup, false, none, false⟩ := by
  rw [ldsResult, not_poisoned_of_clean clean, Team.offsets, List.flatMap_map]

theorem ldsResult_of_poisoned {g : Group} {t : Team} {o : ScrOp} {pre post : List (Nat × W64)} {x : Nat × W64}
    (clean : ∀ y ∈ pre, ¬ takesPoison g t (tyBytes o.ty) (t.off o.swz y.2.toNat))
    (bad : takesPoison g t (tyBytes o.ty) (t.off o.swz x.2.toNat)) :
    ldsResult g t o (pre ++ x :: post) = ⟨[], ((pre ++ x :: post).map (fun x => t.line (t.off o.swz x.2.toNat))).dedup, false,
      some ⟨fcMemory, 0, x.2, x.1⟩, false⟩ := by
  have found : firstPoisoned g t (tyBytes o.ty) (t.offsets o.swz (pre ++ x :: post)) = some (x.1, x.2, t.off o.swz x.2.toNat) := by
    rw [Team.offsets, List.map_append, firstPoisoned, List.find?_append,
      show List.find? _ (List.map _ pre) = none from not_poisoned_of_clean clean, Option.none_or, List.map_cons]
    exact List.find?_cons_of_pos ((takesPoison_iff ..).2 bad)
  rw [ldsResult, found]
  rfl

section
variable {h : Hdr} {o : ScrOp} {s : State} {c : Ctx} {tm : Team}
  (ht : s.team c.g.tid = some tm)
  (inside : ∀ x ∈ c.lanesAt o.a o.b o.off, x.2.toNat % tyBytes o.ty = 0 ∧ x.2.toNat + tyBytes o.ty ≤ tm.scratch * 1024)
include ht inside

/-- What an `LDS` inside its region, whose bank queues have room, does where it issues. -/
theorem exec_lds (hi : Issues s h (Instr.lds h o).uses 1 c) (h0 : c.act ≠ 0)
    (room : s.bankFull c.g.core ((c.lanesAt o.a o.b o.off).map (fun x => tm.line (tm.off o.swz x.2.toNat))).dedup = none) :
    exec (.lds h o) s = .next (s.complete c h .long (Instr.lds h o).uses false 1 (ldsResult c.g tm o (c.lanesAt o.a o.b o.off))) := by
  refine exec_of_done rfl hi h0 ?_
  dsimp only
  rw [ht]
  dsimp only
  rw [show c.addrs (c.g.ea o.a o.b o.off) = c.lanesAt o.a o.b o.off from rfl, checkAt_of_inside inside, List.map_map]
  dsimp only
  rw [show List.map ((fun x => tm.line x.2.2) ∘ fun x => (x.1, x.2, tm.off o.swz x.2.toNat)) (c.lanesAt o.a o.b o.off)
    = (c.lanesAt o.a o.b o.off).map (fun x => tm.line (tm.off o.swz x.2.toNat)) from rfl, room]
  unfold ldsResult
  cases e : firstPoisoned c.g tm (tyBytes o.ty) (tm.offsets o.swz (c.lanesAt o.a o.b o.off))
  all_goals
    unfold firstPoisoned Team.offsets at e
    unfold Team.offsets
    dsimp only
    simp only [e]

/-- What an `STS` inside its region does where it issues, once its release has gone through. -/
theorem exec_sts (hi : Issues s h (Instr.sts h o).uses 1 c) (h0 : c.act ≠ 0) (hr : (o.ord = .rel ∨ o.ord = .ar) → s.mayRelease c .team) :
    exec (.sts h o) s = .next ((s.enqueue c.gid [.scratch ((c.lanesAt o.a o.b o.off).flatMap (fun x =>
      (c.g.storeBytes o.ty o.d x.1).zipIdx.map (fun b => ⟨tm.off o.swz x.2.toNat + b.2, b.1⟩)))]).complete c h .long
        (Instr.sts h o).uses false 1 Res.nil) := by
  have rel : relAt s c (ordRel o.ord) .team = .ok s := by
    unfold relAt
    by_cases hrel : ordRel o.ord = true
    · obtain ⟨ready, -⟩ := hr (by revert hrel; cases o.ord <;> decide)
      simp [hrel, ready, pass_of_no_traffic (s := s) (t := s.release c.g .team) rfl]
      rfl
    · simp [hrel]
  refine exec_of_done rfl hi h0 ?_
  dsimp only
  rw [ht]
  dsimp only
  rw [show c.addrs (c.g.ea o.a o.b o.off) = c.lanesAt o.a o.b o.off from rfl, checkAt_of_inside inside, rel]
end

theorem byte_of_words {x : Nat} (k : Nat) {w : W32} (h : x / 2 ^ (8 * k) % 256 = w.toNat / 2 ^ (8 * (k % 4)) % 256) :
    BitVec.ofNat 8 (x / 2 ^ (8 * k)) = (w >>> (8 * (k % 4))).setWidth 8 := by
  apply BitVec.eq_of_toNat_eq
  rw [BitVec.toNat_ofNat, BitVec.toNat_setWidth, BitVec.toNat_ushiftRight, Nat.shiftRight_eq_div_pow]
  exact h

/-- Words laid end to end, lowest first. -/
def wordsNat (w : Nat → W32) : Nat → Nat
  | 0 => 0
  | n + 1 => wordsNat w n + (w n).toNat * 2 ^ (32 * n)
theorem foldl_words (w : Nat → W32) (n : Nat) : (List.range n).foldl (fun a i => a + (w i).toNat * 2 ^ (32 * i)) 0 = wordsNat w n := by
  induction n with
  | zero => rfl
  | succ n ih => rw [List.range_succ, List.foldl_append, ih]; rfl
theorem wordsNat_lt (w : Nat → W32) (n : Nat) : wordsNat w n < 2 ^ (32 * n) := by
  induction n with
  | zero => simp [wordsNat]
  | succ n ih =>
    have := (w n).isLt
    have e : 2 ^ (32 * (n + 1)) = 2 ^ 32 * 2 ^ (32 * n) := by rw [← Nat.pow_add]; congr 1; ring
    rw [wordsNat, e]
    nlinarith
/-- A byte of words laid end to end is a byte of one of them. -/
theorem wordsNat_byte (w : Nat → W32) {n k : Nat} (h : k < 4 * n) :
    wordsNat w n / 2 ^ (8 * k) % 256 = (w (k / 4)).toNat / 2 ^ (8 * (k % 4)) % 256 := by
  have e : ∀ m, 2 ^ (8 * k) * 2 ^ (8 * m) = 2 ^ (8 * (k + m)) := fun m => by rw [← Nat.pow_add]; congr 1; ring
  induction n with
  | zero => omega
  | succ n ih =>
    rw [wordsNat]
    by_cases hk : k < 4 * n
    · rw [← ih hk]
      obtain ⟨m, hm⟩ : ∃ m, 4 * n = k + (m + 1) := ⟨4 * n - k - 1, by omega⟩
      rw [show 32 * n = 8 * (k + (m + 1)) by omega, ← e, show 8 * (m + 1) = 8 * m + 8 by ring, Nat.pow_add 2 (8 * m) 8,
        show (w n).toNat * (2 ^ (8 * k) * (2 ^ (8 * m) * 2 ^ 8)) = 2 ^ (8 * k) * (((w n).toNat * 2 ^ (8 * m)) * 256) by ring,
        Nat.add_mul_div_left _ _ (by positivity), Nat.add_mul_mod_self_right]
    · obtain ⟨j, rfl⟩ : ∃ j, k = 4 * n + j := ⟨k - 4 * n, by omega⟩
      rw [show (4 * n + j) / 4 = n by omega, show (4 * n + j) % 4 = j by omega, show 8 * (4 * n + j) = 32 * n + 8 * j by ring, Nat.pow_add,
        ← Nat.div_div_eq_div_mul, Nat.add_mul_div_right _ _ (by positivity), Nat.div_eq_of_lt (wordsNat_lt w n), Nat.zero_add]

/-- The bytes that a lane stores are the low bytes of its registers (R139). -/
theorem storeBytes_eq (g : Group) (ty : MTy) (d : Reg) (l : Nat) : g.storeBytes ty d l = g.regBytes ty d l := by
  have enough : tyBytes ty ≤ 4 * ty.cnt := by cases ty <;> decide
  rw [Group.storeBytes, foldl_words (fun i => g.getV (d.toNat + i) l)]
  exact List.map_congr_left fun k hk => byte_of_words k (wordsNat_byte _ (by have := List.mem_range.1 hk; omega))

theorem zipIdx_map_eq {α β : Type} (d : α) (bs : List α) (f : α → Nat → β) :
    bs.zipIdx.map (fun b => f b.1 b.2) = (List.range bs.length).map (fun i => f (bs.getD i d) i) := by
  apply List.ext_getElem
  · simp
  · intro i h1 h2
    simp at h1
    simp [List.getD_eq_getElem?_getD, h1]

theorem isLate_of_lines {us : List Use} {flg : Bool} {r : Res} (h : r.lines ≠ []) : isLate .long us flg r = true := by
  cases e : r.lines with
  | nil => exact absurd e h
  | cons a l => simp [isLate, e]

theorem scratchpad : Claim.Scratchpad := by
  intro h o s c tm ht h0 inside at_ lines byte
  have stored : ∀ x : Nat × W64, (c.g.storeBytes o.ty o.d x.1).zipIdx.map (fun b => (⟨tm.off o.swz x.2.toNat + b.2, b.1⟩ : StByte))
      = (List.range (tyBytes o.ty)).map (fun i => ⟨at_ x + i, (c.g.regBytes o.ty o.d x.1).getD i 0⟩) := by
    intro x
    rw [storeBytes_eq, zipIdx_map_eq 0 _ (fun b i => (⟨tm.off o.swz x.2.toNat + i, b⟩ : StByte))]
    simp [Group.regBytes, at_, Team.off]
  have ne : lines ≠ [] := by
    intro e
    exact lanesAt_ne_nil h0 o.a o.b o.off (List.map_eq_nil_iff.1 ((List.dedup_eq_nil _).1 e))
  have leaves := fun (hi : s.ctx? h = some c) (us : List Use) (r : Res) =>
    let ⟨g, sp, w⟩ := issuing_of_ctx hi
    complete_memory (u := s) rfl (fun _ _ => rfl) w h .long us false 1 r rfl
  refine ⟨fun hi room clean => ?_, fun pre x post hi room e => ?_, fun hi hr => ?_⟩
  · have run := exec_lds ht inside hi h0 room
    obtain ⟨g', mem, home, late, -⟩ := leaves hi.ctx (Instr.lds h o).uses (ldsResult c.g tm o (c.lanesAt o.a o.b o.off))
    rw [ldsResult_of_clean (fun x hx hp => Bool.false_ne_true ((clean x hx).symm.trans hp.1))] at late
    obtain ⟨regs, pend⟩ := late (isLate_of_lines ne)
    refine ⟨_, g', run, mem, home, ?_⟩
    rw [MemResult, if_pos (Or.inr (Or.inl ne))]
    exact ⟨regs, _, pend⟩
  · intro taken clean bad
    have run := exec_lds ht inside hi h0 room
    obtain ⟨g', mem, home, late, -⟩ := leaves hi.ctx (Instr.lds h o).uses (ldsResult c.g tm o (c.lanesAt o.a o.b o.off))
    rw [e, ldsResult_of_poisoned clean bad, ← e] at late
    obtain ⟨regs, pend⟩ := late (isLate_of_lines ne)
    exact ⟨_, g', run, mem, regs, home, _, pend⟩
  · have run := exec_sts ht inside hi h0 hr
    obtain ⟨g, sp, w⟩ := issuing_of_ctx hi.ctx
    simp only [stored] at run
    obtain ⟨g', mem, -, -, now⟩ := complete_memory (s := s) rfl (fun i hne => by rw [State.enqueue, grp_updGrp, if_neg hne.symm])
      (w.enqueue [.scratch ((c.lanesAt o.a o.b o.off).flatMap (fun x =>
          (List.range (tyBytes o.ty)).map (fun i => ⟨at_ x + i, (c.g.regBytes o.ty o.d x.1).getD i 0⟩)))]) h .long (Instr.sts h o).uses
      false 1 Res.nil rfl
    obtain ⟨regs, pend, only⟩ := now (by cases o; rfl)
    exact ⟨_, g', run, mem, regs, pend, only rfl⟩

-- ## The launch constants (R147)

theorem natOf_four (a b c d : Byte) : natOf [a, b, c, d] = (d ++ c ++ b ++ a).toNat := by
  simp only [natOf, toNat_append_add]; omega
theorem natOf_eight (a b c d e f g h : Byte) :
    natOf [a, b, c, d, e, f, g, h] = ((h ++ g ++ f ++ e) ++ (d ++ c ++ b ++ a)).toNat := by
  simp only [natOf, toNat_append_add]; omega

theorem constByte_of {s : State} {tid : Nat} {tm : Team} {gr : Grid} (ht : s.team tid = some tm) (hg : s.grid tm.grid = some gr)
    (a : Nat) : s.constByte tid a = if a < gr.rec_.paramlen then gr.consts.getD a 0 else 0 := by
  simp [State.constByte, ht, hg]

/-- The results of an `LDC`: in every participating lane, or in a scalar register once; nothing where no lane participates. -/
def ldcWrites (sd wide : Bool) (d : Reg) (act : Lanes) (x : W64) : List RegWrite :=
  laneWork sd true act (fun l => (destW sd (sd || wide) d l x, 0))
theorem ldcWrites_eq (sd wide : Bool) (d : Reg) {act : Lanes} (h : act ≠ 0) (x : W64) :
    (if sd then [.s d.toNat x] else (laneList act).flatMap (fun l => destW false wide d l x)) = ldcWrites sd wide d act x := by
  cases sd
  · simp [ldcWrites, laneWork, flagWrite]
  · simp [ldcWrites, laneWork, flagWrite, lowLane_mem _ h, destW]
theorem ldcWrites_no_lane (sd wide : Bool) (d : Reg) (x : W64) : ldcWrites sd wide d 0 x = [] := by
  unfold ldcWrites laneWork
  rw [laneList_zero]
  cases sd <;> rfl

/-- The value that an `LDC` of a type reads at an offset. -/
def State.ldcValue (s : State) (tid : Nat) (ty : LdcTy) (o : Nat) : W64 :=
  let v := natOf ((List.range (if ty = .w64 then 8 else 4)).map (fun i => s.constByte tid (o + i)))
  if ty = .s32 then (BitVec.ofNat 32 v).signExtend 64 else BitVec.ofNat 64 v
theorem ldcValue_eq (s : State) (tid : Nat) (ty : LdcTy) (o : Nat) : s.ldcValue tid ty o =
    (let byte (j : Nat) : Byte := s.constByte tid (o + j)
    let lo : W32 := byte 3 ++ byte 2 ++ byte 1 ++ byte 0
    let hi : W32 := byte 7 ++ byte 6 ++ byte 5 ++ byte 4
    match ty with
    | .z32 => lo.setWidth 64
    | .s32 => lo.signExtend 64
    | .w64 => hi ++ lo) := by
  cases ty
  · simp [State.ldcValue, List.range_succ, natOf_four]
  · simp [State.ldcValue, List.range_succ, natOf_four]
  · simp [State.ldcValue, List.range_succ, natOf_eight]

theorem exec_ldc (h : Hdr) (sd : Bool) (ty : LdcTy) (d : Reg) (a : SReg) (off : BitVec 12) (s : State) :
    exec (.ldc h sd ty d a off) s = issue s h .long (Instr.ldc h sd ty d a off).uses false 1 (fun s c =>
      if c.act = 0 then .done s Res.nil
      else if (c.g.getS a.toNat + off.setWidth 64).toNat % (if ty = .w64 then 8 else 4) ≠ 0 then
        .fault s ⟨fcMisaligned, 0, c.g.getS a.toNat + off.setWidth 64, lowLane c.act⟩
      else .done s (Res.of (if sd then [.s d.toNat (s.ldcValue c.g.tid ty (c.g.getS a.toNat + off.setWidth 64).toNat)]
        else (laneList c.act).flatMap (fun l =>
          destW false (ty == .w64) d l (s.ldcValue c.g.tid ty (c.g.getS a.toNat + off.setWidth 64).toNat))))) := rfl

theorem launchConstants : Claim.LaunchConstants := by
  intro h sd ty d a off s c tm gr ht hg i o n byte lo hi v hiss
  have hv : s.ldcValue c.g.tid ty o.toNat = v := by
    rw [ldcValue_eq]
    simp only [constByte_of ht hg]
    rfl
  constructor
  · intro hal
    refine ⟨ldcWrites sd (ty == .w64) d c.act v, ?_, ?_, ?_⟩
    · refine completes_of i s h .long i.uses false 1 c hiss _ _ (exec_ldc h sd ty d a off s) ?_
      by_cases h0 : c.act = 0
      · rw [if_pos h0, h0, ldcWrites_no_lane]; rfl
      · rw [if_neg h0, if_neg (not_not.2 hal), ← ldcWrites_eq _ _ _ h0, hv]
    · rintro rfl
      exact laneWork_givesS true true c.act d (fun _ => (v, 0))
    · rintro rfl
      exact laneWork_givesV true (ty == .w64) c.act d (fun _ => (v, 0))
  · intro hmis h0
    unfold FaultsAt
    rw [exec_ldc, issue_next hiss, if_neg h0, if_pos hmis]
    rfl

/-- Settles O14: a word that completes leaves only its results, its FIFO entries and its lines' places in the bank queues. -/
theorem coreMemory : Obligations.CoreMemory := ⟨scratchpad, launchConstants⟩

end Sys2Proof.Machine
end

section
/-! SUPPORT. Pseudo-channels: their banks, the credit of all-bank refreshes, and what the steps of a memory controller leave (R72 to
R76). -/

namespace Sys2Proof

theorem SMap.find?_keep_key {α : Type} (m : SMap α) (q : Nat → Bool) (k : Nat) :
    SMap.find? (SMap.keep m (fun k _ => q k)) k = if q k = true then SMap.find? m k else none := by
  induction m with
  | nil => simp [SMap.keep]
  | cons p m ih =>
    obtain ⟨a, v⟩ := p
    unfold SMap.keep at ih ⊢
    rw [List.filter_cons]
    by_cases ha : a = k
    · subst ha
      by_cases hq : q a = true
      · simp [hq, SMap.find?_cons]
      · rw [if_neg hq, ih, if_neg hq, if_neg hq]
    · by_cases hq : q a = true
      · rw [if_pos hq, SMap.find?_cons, if_neg ha, ih, SMap.find?_cons, if_neg ha]
      · rw [if_neg hq, ih, SMap.find?_cons, if_neg ha]
theorem SMap.get_keep_key {α : Type} (d : α) (m : SMap α) (q : Nat → Bool) (k : Nat) :
    SMap.get d (SMap.keep m (fun k _ => q k)) k = if q k = true then SMap.get d m k else d := by
  unfold SMap.get
  rw [SMap.find?_keep_key]
  split <;> rfl

namespace Machine

-- ## Banks

theorem bank_setBank (x : PchSt) (b c : Nat) (y : BankRf) : (x.setBank b y).bank c = if b = c then y else x.bank c :=
  SMap.get_set _ _ _ _ _
@[simp] theorem bank_setBank_self (x : PchSt) (b : Nat) (y : BankRf) : (x.setBank b y).bank b = y := by rw [bank_setBank, if_pos rfl]

/-- One change of every bank below `n`. -/
@[irreducible] def PchSt.eachBank (x : PchSt) (n : Nat) (f : BankRf → BankRf) : PchSt :=
    (List.range n).foldl (fun x b => x.setBank b (f (x.bank b))) x
theorem eachBank_succ (x : PchSt) (n : Nat) (f : BankRf → BankRf) :
    x.eachBank (n + 1) f = (x.eachBank n f).setBank n (f ((x.eachBank n f).bank n)) := by
  unfold PchSt.eachBank
  simp [List.range_succ]
theorem eachBank_frame (x : PchSt) (n : Nat) (f : BankRf → BankRf) : x.eachBank n f = { x with banks := (x.eachBank n f).banks } := by
  induction n with
  | zero => unfold PchSt.eachBank; rfl
  | succ n ih => rw [eachBank_succ]; unfold PchSt.setBank; rw [ih]
theorem bank_eachBank (x : PchSt) (n : Nat) (f : BankRf → BankRf) (b : Nat) :
    (x.eachBank n f).bank b = if b < n then f (x.bank b) else x.bank b := by
  induction n with
  | zero => unfold PchSt.eachBank; rfl
  | succ n ih =>
    rw [eachBank_succ, bank_setBank]
    by_cases e : n = b
    · subst e; rw [if_pos rfl, if_pos (Nat.lt_succ_self n), ih, if_neg (Nat.lt_irrefl n)]
    · rw [if_neg e, ih]
      by_cases h : b < n
      · rw [if_pos h, if_pos (by omega)]
      · rw [if_neg h, if_neg (by omega)]

-- ## The credit of a catch-up (R75)

/-- The all-bank refreshes of a catch-up that have ended by an instant. -/
def PchSt.ended (x : PchSt) (t at_ : Nat) : Nat := x.abLeft - (t - at_ + 297) / 298
/-- A bank whose debt all-bank refreshes have lowered. -/
def BankRf.lowered (y : BankRf) (n : Nat) : BankRf := { y with debt := max (-8) (y.debt - n) }
theorem credit_of_none {x : PchSt} (h : x.catchUp = none) (at_ : Nat) : x.credit at_ = x := by
  unfold PchSt.credit; rw [h]
theorem credit_of_some {x : PchSt} {t : Nat} (h : x.catchUp = some t) (at_ : Nat) :
    x.credit at_ = { x.eachBank 16 (fun y => y.lowered (x.ended t at_)) with abLeft := x.abLeft - x.ended t at_ } := by
  unfold PchSt.credit PchSt.eachBank; rw [h]; rfl
theorem credit_frame (x : PchSt) (at_ : Nat) :
    x.credit at_ = { x with banks := (x.credit at_).banks, abLeft := (x.credit at_).abLeft } := by
  obtain h | ⟨t, h⟩ := Option.eq_none_or_eq_some x.catchUp
  · rw [credit_of_none h]
  · have e := congrArg (fun y : PchSt => { y with abLeft := x.abLeft - x.ended t at_ })
      (eachBank_frame x 16 (fun y => y.lowered (x.ended t at_)))
    rw [credit_of_some h]
    exact e
theorem bank_withAbLeft (x : PchSt) (n b : Nat) : ({ x with abLeft := n } : PchSt).bank b = x.bank b := rfl
theorem bank_credit_of_some {x : PchSt} {t b : Nat} (h : x.catchUp = some t) (hb : b < 16) (at_ : Nat) :
    (x.credit at_).bank b = (x.bank b).lowered (x.ended t at_) := by
  rw [credit_of_some h, bank_withAbLeft, bank_eachBank, if_pos hb]
/-- The credit changes nothing of a bank but its debt. -/
theorem bank_credit (x : PchSt) (at_ b : Nat) : (x.credit at_).bank b = { x.bank b with debt := ((x.credit at_).bank b).debt } := by
  obtain h | ⟨t, h⟩ := Option.eq_none_or_eq_some x.catchUp
  · rw [credit_of_none h]
  · rw [credit_of_some h, bank_withAbLeft, bank_eachBank]
    split <;> rfl
theorem credit_next (x : PchSt) (at_ b : Nat) : ((x.credit at_).bank b).next = (x.bank b).next := by rw [bank_credit]
theorem credit_busy (x : PchSt) (at_ b : Nat) : ((x.credit at_).bank b).busy = (x.bank b).busy := by rw [bank_credit]
theorem credit_more (x : PchSt) (at_ b : Nat) : ((x.credit at_).bank b).more = (x.bank b).more := by rw [bank_credit]
theorem credit_lats (x : PchSt) (at_ b : Nat) : ((x.credit at_).bank b).lats = (x.bank b).lats := by rw [bank_credit]
theorem credit_catchUp (x : PchSt) (at_ : Nat) : (x.credit at_).catchUp = x.catchUp := by rw [credit_frame]
theorem credit_queue (x : PchSt) (at_ : Nat) : (x.credit at_).queue = x.queue := by rw [credit_frame]
theorem credit_owed (x : PchSt) (at_ : Nat) : (x.credit at_).owed = x.owed := by rw [credit_frame]

-- ## A refresh, and a catch-up that starts (R72, R75)

/-- A refresh of n cycles falls to a bank at an instant: it begins then, after the catch-up, or waits behind the one in progress. -/
def Falls (x : PchSt) (y z : BankRf) (at_ n : Nat) : Prop :=
  z.row = none ∧ (y.more = [] → y.busy.getD 0 ≤ max at_ (x.catchUp.getD 0) → z.busy = some (max at_ (x.catchUp.getD 0) + n) ∧ z.more = [])
    ∧ (y.more ≠ [] ∨ max at_ (x.catchUp.getD 0) < y.busy.getD 0 → z.busy = y.busy ∧ z.more = y.more ++ [n])
theorem refresh_falls (x : PchSt) (b at_ n : Nat) :
    Falls x (x.bank b) ((x.refresh b at_ n).bank b) at_ n ∧ ((x.refresh b at_ n).bank b).debt = (x.bank b).debt
      ∧ ((x.refresh b at_ n).bank b).next = (x.bank b).next := by
  unfold PchSt.refresh
  dsimp only
  split
  · rename_i h
    rw [bank_setBank_self]
    exact ⟨⟨rfl, fun hm _ => ⟨rfl, hm⟩, fun h' => h'.elim (absurd h.1) (fun hb => absurd h.2 (Nat.not_le.2 hb))⟩, rfl, rfl⟩
  · rename_i h
    rw [bank_setBank_self]
    exact ⟨⟨rfl, fun hm hb => absurd ⟨hm, hb⟩ h, fun _ => ⟨rfl, rfl⟩⟩, rfl, rfl⟩
theorem refresh_frame (x : PchSt) (b at_ n : Nat) : x.refresh b at_ n = { x with banks := (x.refresh b at_ n).banks } := by
  unfold PchSt.refresh; dsimp only; split <;> rfl
/-- A refresh of an idle bank begins at once. -/
theorem refresh_of_idle {x : PchSt} {b : Nat} (hc : x.catchUp = none) (hb : (x.bank b).busy = none) (hm :
    (x.bank b).more = []) (at_ n : Nat) :
    x.refresh b at_ n = x.setBank b { x.bank b with busy := some (at_ + n), row := none } := by
  unfold PchSt.refresh
  simp [hc, hb, hm]

theorem startCatchUp_of_some {x : PchSt} {t : Nat} (h : x.catchUp = some t) (at_ : Nat) :
    x.startCatchUp at_ = { x with catchUp := some (t + 2682), abLeft := x.abLeft + 9 } := by
  unfold PchSt.startCatchUp; rw [h]
theorem le_foldl_max (f : Nat → Nat) (l : List Nat) (a : Nat) : a ≤ l.foldl (fun t b => max t (f b)) a ∧ ∀ b ∈ l,
    f b ≤ l.foldl (fun t b => max t (f b)) a := by
  induction l generalizing a with
  | nil => simp
  | cons c l ih =>
    obtain ⟨h1, h2⟩ := ih (max a (f c))
    refine ⟨le_trans (le_max_left _ _) h1, fun b hb => ?_⟩
    rcases List.mem_cons.1 hb with rfl | hb
    · exact le_trans (le_max_right _ _) h1
    · exact h2 b hb
/-- A catch-up starts once the refreshes in progress have finished. -/
theorem startCatchUp_of_none {x : PchSt} (h : x.catchUp = none) (at_ : Nat) : ∃ e,
    x.startCatchUp at_ = { x with catchUp := some (e + 2682), abLeft := 9 } ∧ at_ ≤ e ∧ ∀ j, j < 16 → (x.bank j).busy.getD 0 ≤ e := by
  unfold PchSt.startCatchUp; rw [h]
  obtain ⟨h1, h2⟩ := le_foldl_max (fun b => ((x.bank b).busy).getD 0) (List.range 16) at_
  exact ⟨_, rfl, h1, fun j hj => h2 j (List.mem_range.2 hj)⟩
theorem startCatchUp_frame (x : PchSt) (at_ : Nat) :
    x.startCatchUp at_ = { x with catchUp := (x.startCatchUp at_).catchUp, abLeft := (x.startCatchUp at_).abLeft } := by
  unfold PchSt.startCatchUp; split <;> rfl

-- ## Steps of one pseudo-channel

/-- A step has changed one pseudo-channel, and control registers, and nothing else. -/
def PchOnly (s t : State) (p : Nat) : Prop := t = { s with pchs := t.pchs, mmio := t.mmio } ∧ ∀ q, q ≠ p → t.pch q = s.pch q
theorem pch_setPch (s : State) (p q : Nat) (x : PchSt) : (s.setPch p x).pch q = if p = q then x else s.pch q := by
  unfold State.pch State.setPch
  rw [SMap.find?_insert]
  split <;> rfl
@[simp] theorem pch_setPch_self (s : State) (p : Nat) (x : PchSt) : (s.setPch p x).pch p = x := by rw [pch_setPch, if_pos rfl]
theorem pchOnly_setPch (s : State) (m : SMap W64) (p : Nat) (x : PchSt) : PchOnly s (({ s with mmio := m } : State).setPch p x) p :=
  ⟨rfl, fun q h => (pch_setPch _ p q x).trans (if_neg h.symm)⟩
theorem mcCount_eq (s : State) (die off hi lo n : Nat) : ∃ m, s.mcCount die off hi lo n = { s with mmio := m } := ⟨_, rfl⟩
theorem counted_eq (c : Bool) (s : State) (die off hi lo n : Nat) : ∃ m,
    (if c then s.mcCount die off hi lo n else s) = { s with mmio := m } := by
  cases c
  · exact ⟨s.mmio, rfl⟩
  · exact mcCount_eq ..
theorem refreshed_eq (s : State) (m : SMap W64) (p due : Nat) (x y : PchSt) : ∃ m',
    ({ s with mmio := m } : State).refreshed p due x y = ({ s with mmio := m' } : State).setPch p y := by
  unfold State.refreshed
  dsimp only
  split
  · exact ⟨_, rfl⟩
  · exact ⟨m, rfl⟩
theorem latBusy_congr {x y : PchSt} {b : Nat} (hq : x.queue = y.queue) (hl : (x.bank b).lats = (y.bank b).lats) (s : State) (p at_ :
    Nat) :
    s.latBusy p x b at_ = s.latBusy p y b at_ := by
  unfold State.latBusy; rw [hq, hl]

end Machine
end Sys2Proof
end

section
/-! SUPPORT. The refreshes of a bank: due, caught up, owed, ended (R72 to R75). -/

namespace Sys2Proof.Machine

/-- A pseudo-channel at a due instant of a bank: the refreshes that have ended are credited, the instant is counted, the activations
of the bank's rows are forgotten. -/
def PchSt.fallDue (x : PchSt) (b due : Nat) : PchSt :=
  ({ x.credit due with acts := (x.credit due).acts.keep (fun k _ => k / 32768 != b) } : PchSt).setBank b
    { (x.credit due).bank b with
      next := ((x.credit due).bank b).next + 1
      lats := ((x.credit due).bank b).lats.filter (fun l => decide (due < l.2 + 65536)) }

/-- The bank that is due, and the rest of its pseudo-channel. -/
theorem fallDue_spec (x : PchSt) (b due : Nat) :
    ((x.fallDue b due).bank b).next = (x.bank b).next + 1 ∧ ((x.fallDue b due).bank b).busy = (x.bank b).busy
      ∧ ((x.fallDue b due).bank b).more = (x.bank b).more ∧ ((x.fallDue b due).bank b).debt = ((x.credit due).bank b).debt
      ∧ (x.fallDue b due).owed = x.owed ∧ (x.fallDue b due).catchUp = x.catchUp
      ∧ ∀ k, k / 32768 = b → (x.fallDue b due).acts.get 0 k = 0 := by
  have ha : (x.fallDue b due).acts = (x.credit due).acts.keep (fun k _ => k / 32768 != b) := rfl
  unfold PchSt.fallDue
  rw [bank_setBank_self]
  refine ⟨congrArg (· + 1) (credit_next x due b), credit_busy x due b, credit_more x due b, rfl, credit_owed x due,
    credit_catchUp x due, fun k hk => ?_⟩
  refine (congrArg (fun m => SMap.get 0 m k) ha).trans ((SMap.get_keep_key _ _ _ _).trans (if_neg ?_))
  simpa using hk
/-- A catch-up that starts waits for the refreshes in progress of every bank, as they stood before the due instant. -/
theorem busy_fallDue (x : PchSt) (b due j : Nat) : ((x.fallDue b due).bank j).busy = (x.bank j).busy := by
  by_cases h : b = j
  · subst h; exact (fallDue_spec x b due).2.1
  · unfold PchSt.fallDue
    rw [bank_setBank, if_neg h]
    exact credit_busy x due j

/-- The bank at a due instant owes its refresh. -/
def PchSt.owes (x : PchSt) (b : Nat) : PchSt := x.setBank b { x.bank b with debt := (x.bank b).debt + 1 }
/-- What a due instant of a bank other than bank 0 does to its pseudo-channel (R72 to R74): a refresh done ahead is used up, a LAT-busy
bank owes it, or all are caught up, or the refresh falls to the bank. -/
def DueOutcome (w : PchSt) (b due mode : Nat) (lat : Bool) (x : PchSt) : Prop :=
  let debt := (w.bank b).debt
  (debt < 0 ∧ x = w.owes b)
  ∨ (0 ≤ debt ∧ debt < 8 ∧ lat = true ∧ mode = 1 ∧ x = w.owes b)
  ∨ (debt = 8 ∧ lat = true ∧ x = w.startCatchUp due)
  ∨ (0 ≤ debt ∧ ¬ (lat = true ∧ mode = 1 ∧ debt < 8) ∧ ¬ (lat = true ∧ debt = 8) ∧ x = w.refresh b due 102)
theorem exec_refreshDue {s : State} (hp : s.ev.unit < 1024) (hb : s.ev.idx < 16) (h0 : s.ev.idx ≠ 0) (ho : s.boot.phase ≠ .off)
    (hd : (s.pch s.ev.unit).due s.ev.idx < s.now) :
    let p := s.ev.unit
    let b := s.ev.idx
    let due := (s.pch p).due b
    ∃ m x, exec .refreshDue s = .next (({ s with mmio := m } : State).setPch p x)
      ∧ DueOutcome ((s.pch p).fallDue b due) b due (fld (s.reg (mcAddr (p / 128) 0)) 0 0) (s.latBusy p (s.pch p) b due) x := by
  intro p b due
  set w := (s.pch p).fallDue b due with hw
  have hl : s.latBusy p ((s.pch p).credit due) b due = s.latBusy p (s.pch p) b due :=
    latBusy_congr (credit_queue _ _) (credit_lats _ _ _) _ _ _
  have ht : (decide (b = 0) && (s.hotWant.get false p != ((s.pch p).interval == 1658))) = false := by
    rw [decide_eq_false h0, Bool.false_and]
  have hg : ¬ (s.boot.phase = .off ∨ 1024 ≤ p ∨ 16 ≤ b ∨ s.now ≤ due
      ∨ ((decide (b = 0) && (s.hotWant.get false p != ((s.pch p).interval == 1658))) = true
        ∧ (List.range 16).any (fun i => decide ((s.pch p).due i < due)) = true)) := by
    simp only [ht, Bool.false_eq_true, false_and, or_false, not_or, not_le]
    exact ⟨ho, hp, hb, hd⟩
  have e : exec .refreshDue s =
      if (w.bank b).debt < 0 then .next (s.setPch p (w.owes b))
      else if (s.latBusy p (s.pch p) b due && fld (s.reg (mcAddr (p / 128) 0)) 0 0 == 1 && decide ((w.bank b).debt < 8)) = true then
        .next ((if s.isMonitored p then s.mcCount (dieOfPch p) 0x18 31 0 1 else s).setPch p (w.owes b))
      else if (s.latBusy p (s.pch p) b due && (w.bank b).debt == 8) = true then
        .next ((if s.isMonitored p then s.mcCount (dieOfPch p) 0x18 63 32 1 else s).refreshed p due w (w.startCatchUp due))
      else .next (s.refreshed p due w (w.refresh b due 102)) := by
    show execRefreshDue s = _
    unfold execRefreshDue
    dsimp only
    rw [if_neg hg]
    have ht' : (decide (s.ev.idx = 0) && (s.hotWant.get false s.ev.unit != ((s.pch s.ev.unit).interval == 1658))) = false := ht
    simp only [ht', Bool.false_eq_true, if_false]
    rw [hl]
    rfl
  obtain ⟨m, hm⟩ := counted_eq (s.isMonitored p) s (dieOfPch p) 0x18 31 0 1
  obtain ⟨m0, hm0⟩ := counted_eq (s.isMonitored p) s (dieOfPch p) 0x18 63 32 1
  obtain ⟨m1, hm1⟩ := refreshed_eq s m0 p due w (w.startCatchUp due)
  obtain ⟨m2, hm2⟩ := refreshed_eq s s.mmio p due w (w.refresh b due 102)
  rw [hm, hm0, hm1, hm2] at e
  split_ifs at e with h1 h2 h3
  · exact ⟨s.mmio, _, e, .inl ⟨h1, rfl⟩⟩
  · simp only [Bool.and_eq_true, beq_iff_eq, decide_eq_true_eq] at h2
    exact ⟨m, _, e, .inr (.inl ⟨not_lt.1 h1, h2.2, h2.1.1, h2.1.2, rfl⟩)⟩
  · simp only [Bool.and_eq_true, beq_iff_eq] at h3
    exact ⟨m1, _, e, .inr (.inr (.inl ⟨h3.2, h3.1, rfl⟩))⟩
  · simp only [Bool.and_eq_true, beq_iff_eq, decide_eq_true_eq, and_assoc] at h2 h3
    exact ⟨m2, _, e, .inr (.inr (.inr ⟨not_lt.1 h1, h2, h3, rfl⟩))⟩

theorem bank_owes (x : PchSt) (b : Nat) : (x.owes b).bank b = { x.bank b with debt := (x.bank b).debt + 1 } := by
  unfold PchSt.owes; rw [bank_setBank_self]
/-- What every outcome of a due instant keeps of its pseudo-channel. -/
theorem DueOutcome.keeps {w x : PchSt} {b due mode : Nat} {lat : Bool} (h : DueOutcome w b due mode lat x) :
    (x.bank b).next = (w.bank b).next ∧ x.owed = w.owed ∧ x.acts = w.acts := by
  obtain ⟨-, rfl⟩ | ⟨-, -, -, -, rfl⟩ | ⟨-, -, rfl⟩ | ⟨-, -, -, rfl⟩ := h
  · exact ⟨by rw [bank_owes], rfl, rfl⟩
  · exact ⟨by rw [bank_owes], rfl, rfl⟩
  · rw [startCatchUp_frame]; exact ⟨rfl, rfl, rfl⟩
  · exact ⟨(refresh_falls w b due 102).2.2, by rw [refresh_frame], by rw [refresh_frame]⟩

/-- R72 to R75: what a due instant of a bank other than bank 0 does. -/
theorem refreshDue_steps (s : State) :
    let p := s.ev.unit
    let b := s.ev.idx
    let x := s.pch p
    let y := x.bank b
    let mode := fld (s.reg (mcAddr (p / 128) 0)) 0 0
    let due := x.due b
    let debt := ((x.credit due).bank b).debt
    let lat := s.latBusy p x b due
    p < 1024 → b < 16 → b ≠ 0 → s.boot.phase ≠ .off →
    (s.now ≤ due → exec .refreshDue s = .next s)
    ∧ (due < s.now → ∃ t z, exec .refreshDue s = .next t ∧ PchOnly s t p ∧ (t.pch p).bank b = z ∧ z.next = y.next + 1
      ∧ (t.pch p).owed = x.owed ∧ (∀ k, k / 32768 = b → (t.pch p).acts.get 0 k = 0)
      ∧ (debt < 0 → z.debt = debt + 1 ∧ z.busy = y.busy ∧ z.more = y.more)
      ∧ (0 ≤ debt → lat = true → mode = 1 → debt < 8 → z.debt = debt + 1 ∧ z.busy = y.busy ∧ z.more = y.more)
      ∧ (lat = true → debt = 8 → z.debt = 8
        ∧ (x.catchUp = none → (t.pch p).abLeft = 9 ∧ ∃ e, (t.pch p).catchUp = some (e + 2682) ∧ due ≤ e
          ∧ ∀ j, j < 16 → (x.bank j).busy.getD 0 ≤ e)
        ∧ (∀ e, x.catchUp = some e → (t.pch p).catchUp = some (e + 2682)))
      ∧ (0 ≤ debt → debt ≤ 8 → lat = false ∨ (mode = 0 ∧ debt < 8) → z.debt = debt ∧ Falls x y z due 102)) := by
  intro p b x y mode due debt lat hp hb h0 ho
  refine ⟨fun h => if_pos (Or.inr (Or.inr (Or.inr (Or.inl h)))), fun hd => ?_⟩
  obtain ⟨m, x', he, hx⟩ := exec_refreshDue hp hb h0 ho hd
  obtain ⟨hnext, hbusy, hmore, hdebt, howed, hcatch, hacts⟩ := fallDue_spec x b due
  obtain ⟨kn, ko, ka⟩ := hx.keeps
  have hall := busy_fallDue x b due
  change DueOutcome (x.fallDue b due) b due mode lat x' at hx
  generalize x.fallDue b due = w at *
  refine ⟨_, x'.bank b, he, pchOnly_setPch .., by rw [pch_setPch_self], kn.trans hnext, by rw [pch_setPch_self]; exact ko.trans howed,
    by rw [pch_setPch_self, ka]; exact hacts, ?_⟩
  rw [pch_setPch_self]
  have hdebt : (w.bank b).debt = debt := hdebt
  have howes : (w.owes b).bank b = { w.bank b with debt := debt + 1 } := by rw [bank_owes, hdebt]
  unfold DueOutcome at hx
  rw [hdebt] at hx
  obtain ⟨h, rfl⟩ | ⟨h, h8, hl, hm, rfl⟩ | ⟨h, hl, rfl⟩ | ⟨h, hnm, hn8, rfl⟩ := hx
  · rw [howes]
    exact ⟨fun _ => ⟨rfl, hbusy, hmore⟩, by omega, by omega, by omega⟩
  · rw [howes]
    refine ⟨by omega, fun _ _ _ _ => ⟨rfl, hbusy, hmore⟩, by omega, fun _ _ h' => ?_⟩
    rcases h' with h' | ⟨h', -⟩
    · rw [hl] at h'; cases h'
    · omega
  · refine ⟨by omega, by omega, fun _ _ => ⟨?_, fun hc => ?_, fun e hc => ?_⟩, fun _ _ h' => ?_⟩
    · rw [startCatchUp_frame]; exact hdebt.trans h
    · obtain ⟨e, he, hle, hj⟩ := startCatchUp_of_none (hcatch.trans hc) due
      rw [he]
      exact ⟨rfl, e, rfl, hle, fun j hj' => hall j ▸ hj j hj'⟩
    · rw [startCatchUp_of_some (hcatch.trans hc)]
    · rcases h' with h' | ⟨-, h'⟩
      · rw [hl] at h'; cases h'
      · omega
  · refine ⟨by omega, fun _ hl hm h8 => absurd ⟨hl, hm, h8⟩ hnm, fun hl h8 => absurd ⟨hl, h8⟩ hn8, fun _ _ _ => ?_⟩
    obtain ⟨⟨f1, f2, f3⟩, f4, -⟩ := refresh_falls w b due 102
    rw [hmore, hbusy, hcatch] at f2 f3
    exact ⟨f4.trans hdebt, f1, f2, f3⟩
end Sys2Proof.Machine
end

section
/-! SUPPORT. The other steps of a pseudo-channel: the end of a catch-up, owed refreshes, their end, the neighbours of a row, the doubled
rate, the end of a request (R72 to R76). -/

namespace Sys2Proof.Machine

/-- R75: a catch-up ends, every bank has had its all-bank refreshes. -/
theorem catchUpEnd_steps (s : State) :
    let p := s.ev.unit
    let x := s.pch p
    ∀ e, x.catchUp = some e → (s.now < e → exec .catchUpEnd s = .next s)
    ∧ (e ≤ s.now → ∃ t, exec .catchUpEnd s = .next t ∧ PchOnly s t p ∧ (t.pch p).catchUp = none
      ∧ ∀ j, j < 16 → ((t.pch p).bank j).row = none ∧ ((t.pch p).bank j).debt = max (-8) ((x.bank j).debt - x.abLeft)) := by
  intro p x e hc
  refine ⟨fun h => ?_, fun h => ?_⟩
  · show execCatchUpEnd s = _
    unfold execCatchUpEnd
    simp only [show (s.pch s.ev.unit).catchUp = some e from hc]
    exact if_pos h
  · have hx : exec .catchUpEnd s
        = .next (s.setPch p { (x.credit s.now).eachBank 16 (fun y => { y with row := none }) with catchUp := none, abLeft := 0 }) := by
      show execCatchUpEnd s = _
      unfold execCatchUpEnd PchSt.eachBank
      simp only [show (s.pch s.ev.unit).catchUp = some e from hc]
      exact if_neg (Nat.not_lt.2 h)
    have hend : x.ended e s.now = x.abLeft := by unfold PchSt.ended; omega
    have hb (w : PchSt) (j : Nat) : ({ w with catchUp := none, abLeft := 0 } : PchSt).bank j = w.bank j := rfl
    refine ⟨_, hx, pchOnly_setPch s s.mmio p _, by rw [pch_setPch_self], fun j hj => ?_⟩
    rw [pch_setPch_self, hb, bank_eachBank, if_pos hj, bank_credit_of_some hc hj, hend]
    exact ⟨rfl, rfl⟩

/-- While the first all-bank refresh of a catch-up is in progress no debt is lowered. -/
theorem credit_before (x : PchSt) (e at_ j : Nat) (hc : x.catchUp = some e) (h : at_ + 298 * x.abLeft ≤ e) (hj : j < 16)
    (hd : -8 ≤ (x.bank j).debt) : ((x.credit at_).bank j).debt = (x.bank j).debt := by
  have hend : x.ended e at_ = 0 := by unfold PchSt.ended; omega
  rw [bank_credit_of_some hc hj, hend]
  show max (-8) ((x.bank j).debt - ((0 : Nat) : Int)) = _
  omega

/-- R74: an owed refresh. -/
theorem owedRefresh_steps (s : State) :
    let p := s.ev.unit
    let b := s.ev.idx
    let x := s.pch p
    let y := x.bank b
    let due : Prop := 0 < y.debt ∧ s.latBusy p x b s.now = false ∧ y.busy = none ∧ x.catchUp = none
    p < 1024 → b < 16 → (¬ due → exec .owedRefresh s = .next s)
      ∧ (due → y.more = [] → ∃ t, exec .owedRefresh s = .next t ∧ PchOnly s t p ∧ ((t.pch p).bank b).debt = y.debt - 1
        ∧ ((t.pch p).bank b).busy = some (s.now + 102) ∧ ((t.pch p).bank b).row = none) := by
  intro p b x y due hp hb
  have he : exec .owedRefresh s = execOwedRefresh s := rfl
  rw [he]
  unfold execOwedRefresh
  dsimp only
  refine ⟨fun h => if_pos ?_, fun ⟨hd, hl, hbusy, hc⟩ hm => ?_⟩
  · by_cases hc : x.catchUp = none
    · rw [credit_of_none hc]
      by_contra hn
      simp only [not_or, not_le, Bool.not_eq_true, Option.isSome_eq_false_iff, Option.isNone_iff_eq_none] at hn
      exact h ⟨hn.2.2.1, hn.2.2.2.1, hn.2.2.2.2.1, hc⟩
    · refine Or.inr (Or.inr (Or.inr (Or.inr (Or.inr ?_))))
      rw [credit_catchUp]
      exact Option.isSome_iff_ne_none.2 hc
  · have hcr : (s.pch s.ev.unit).credit s.now = x := credit_of_none hc _
    rw [hcr, if_neg (by
      simp only [not_or, not_le, Bool.not_eq_true, Option.isSome_eq_false_iff, Option.isNone_iff_eq_none]
      exact ⟨hp, hb, hd, hl, hbusy, hc⟩)]
    refine ⟨_, rfl, pchOnly_setPch s s.mmio p _, ?_⟩
    rw [pch_setPch_self]
    have hw := refresh_of_idle (x := x.setBank b { y with debt := y.debt - 1 }) (b := b) hc (by rw [bank_setBank_self]; exact hbusy)
      (by rw [bank_setBank_self]; exact hm) s.now 102
    have hbank : ((x.setBank b { y with debt := y.debt - 1 }).refresh b s.now 102).bank b
        = { y with debt := y.debt - 1, busy := some (s.now + 102), row := none } := by
      rw [hw, bank_setBank_self, bank_setBank_self]
    exact ⟨congrArg BankRf.debt hbank, congrArg BankRf.busy hbank, congrArg BankRf.row hbank⟩

/-- R72: a per-bank refresh ends, and the next one follows. -/
theorem perBankRefreshEnd_steps (s : State) :
    let p := s.ev.unit
    let b := s.ev.idx
    let x := s.pch p
    let y := x.bank b
    ∀ e, y.busy = some e → (s.now < e → exec .perBankRefreshEnd s = .next s)
    ∧ (e ≤ s.now → ∃ t, exec .perBankRefreshEnd s = .next t ∧ PchOnly s t p ∧ (t.pch p).bank b = match y.more with
      | [] => { y with busy := none }
      | n :: more => { y with busy := some (max e (x.catchUp.getD 0) + n), more := more }) := by
  intro p b x y e hb
  have he : exec .perBankRefreshEnd s = execPerBankRefreshEnd s := rfl
  rw [he]
  unfold execPerBankRefreshEnd
  simp only [show ((s.pch s.ev.unit).bank s.ev.idx).busy = some e from hb]
  refine ⟨fun h => if_pos h, fun h => ⟨_, if_neg (Nat.not_lt.2 h), pchOnly_setPch s s.mmio p _, ?_⟩⟩
  rw [pch_setPch_self]
  exact (bank_setBank_self x b _).trans rfl

/-- R75: the neighbours of a row that is owed their refresh. -/
theorem rowHammerRefresh_steps (s : State) :
    let p := s.ev.unit
    let b := s.ev.idx
    let x := s.pch p
    let y := x.bank b
    p < 1024 → b < 16 → let row := s.ev.idx2
    ((b, row) ∉ x.owed → exec .rowHammerRefresh s = .next s)
    ∧ ((b, row) ∈ x.owed → x.catchUp = none → y.busy = none → y.more = [] → ∃ t, exec .rowHammerRefresh s = .next t ∧ PchOnly s t p
      ∧ (t.pch p).owed = x.owed.erase (b, row) ∧ ((t.pch p).bank b).busy = some (s.now + 102)
      ∧ ((t.pch p).bank b).more = if row = 0 ∨ row = 24575 then [] else [102]) := by
  intro p b x y hp hb row
  have he : exec .rowHammerRefresh s = execRowHammerRefresh s := rfl
  rw [he]
  unfold execRowHammerRefresh
  dsimp only
  refine ⟨fun h => if_pos (Or.inr ?_), fun h hc hbusy hm => ?_⟩
  · simpa using h
  · have hg : ¬ (1024 ≤ p ∨ x.owed.contains (b, row) = false) := by
      simp only [not_or, not_le, Bool.not_eq_false, List.contains_iff_mem]
      exact ⟨hp, h⟩
    rw [if_neg hg]
    set w : PchSt := ({ x with owed := x.owed.erase (b, row) } : PchSt).refresh b s.now 102 with hw
    have hidle : w = ({ x with owed := x.owed.erase (b, row) } : PchSt).setBank b { y with busy := some (s.now + 102), row := none } :=
      refresh_of_idle (x := { x with owed := x.owed.erase (b, row) }) hc hbusy hm _ _
    have hbank : w.bank b = { y with busy := some (s.now + 102), row := none } := by rw [hidle, bank_setBank_self]
    have hcatch : w.catchUp = none := by rw [hidle]; exact hc
    have howed : w.owed = x.owed.erase (b, row) := by rw [hidle]; rfl
    refine ⟨_, rfl, pchOnly_setPch s s.mmio p _, ?_⟩
    rw [pch_setPch_self]
    by_cases hr : row = 0 ∨ row = 24575
    · rw [if_pos hr, if_pos hr]
      rw [howed, hbank]
      exact ⟨rfl, rfl, hm⟩
    · rw [if_neg hr, if_neg hr]
      change (w.refresh b s.now 102).owed = _ ∧ ((w.refresh b s.now 102).bank b).busy = _ ∧ ((w.refresh b s.now 102).bank b).more = _
      obtain ⟨⟨-, -, hbehind⟩, -⟩ := refresh_falls w b s.now 102
      obtain ⟨hb1, hm1⟩ := hbehind (Or.inr (by rw [hcatch, hbank]; simp))
      rw [hb1, hm1, hbank]
      refine ⟨?_, rfl, ?_⟩
      · rw [refresh_frame]; exact howed
      · show y.more ++ [102] = _
        rw [hm]; rfl

theorem get_setRange (m : SMap Bool) (base n : Nat) (v : Bool) (q : Nat) :
    ((List.range n).foldl (fun m i => m.set false (base + i) v) m).get false q
      = if base ≤ q ∧ q < base + n then v else m.get false q := by
  by_cases h : base ≤ q ∧ q < base + n
  · rw [if_pos h]
    exact SMap.get_foldl_set false (List.range n) (base + ·) (fun _ => v) m q v (fun _ _ _ => rfl)
      (Or.inr ⟨q - base, List.mem_range.2 (by omega), Nat.add_sub_cancel' h.1⟩)
  · rw [if_neg h]
    refine SMap.get_foldl_set_ne false (List.range n) (base + ·) (fun _ => v) m q (fun i hi e => h ?_)
    have := List.mem_range.1 hi
    have e : base + i = q := e
    omega

/-- R72: the rate of a die's pseudo-channels is wanted doubled, or no longer. -/
theorem hotrefChange_steps (s : State) : let p := s.ev.unit
    p < 8 → ∃ t, exec .hotrefChange s = .next t ∧ t = { s with hotWant := t.hotWant, mmio := t.mmio }
      ∧ fld (t.reg (mcAddr p 0)) 2 2 = (if s.ev.on then 1 else 0)
      ∧ ∀ q, t.hotWant.get false q = if 128 * p ≤ q ∧ q < 128 * p + 128 then s.ev.on else s.hotWant.get false q := by
  intro p hp
  have hw := get_setRange s.hotWant (128 * p) 128 s.ev.on
  have he : exec .hotrefChange s = .next { s.setRegFld (mcAddr p 0) 2 2 (if s.ev.on then 1 else 0) with
      hotWant := (List.range 128).foldl (fun m i => m.set false (128 * p + i) s.ev.on) s.hotWant } := if_neg (Nat.not_le.2 hp)
  generalize (List.range 128).foldl (fun m i => m.set false (128 * p + i) s.ev.on) s.hotWant = w at hw he
  refine ⟨_, he, rfl, ?_, hw⟩
  have hbit : (if s.ev.on then 1 else 0) % 2 ^ (2 + 1 - 2) = if s.ev.on then 1 else 0 := by cases s.ev.on <;> rfl
  refine Eq.trans (congrArg (fun v => fld v 2 2) (reg_setReg_self s (mcAddr p 0) _)) ?_
  rw [fld_setFld _ (by omega) (by omega), hbit]
end Sys2Proof.Machine
end

section
/-! SUPPORT. The end of a request at its pseudo-channel (R76). -/

namespace Sys2Proof.Machine

/-- A counter of a controller that has counted: it saturates (R76). -/
theorem fld_mcCount (s : State) (die off : Nat) {hi lo : Nat} (n : Nat) (hhi : hi < 64) (hlo : lo ≤ hi) :
    fld ((s.mcCount die off hi lo n).reg (mcAddr die off)) hi lo
      = min (2 ^ (hi + 1 - lo) - 1) (fld (s.reg (mcAddr die off)) hi lo + n) := by
  have hp : 0 < 2 ^ (hi + 1 - lo) := Nat.two_pow_pos _
  refine Eq.trans (congrArg (fun v => fld v hi lo) (reg_setReg_self s _ _)) ?_
  rw [fld_setFld _ hhi hlo, Nat.mod_eq_of_lt (by omega)]

/-- A row whose activations have been counted: its 4,096th begins the count again and owes its neighbours a refresh (R75). -/
def PchSt.activated (x : PchSt) (q : Traffic) (n : Nat) : PchSt :=
  if 4096 ≤ n then { x with acts := x.acts.set 0 (q.bank * 32768 + q.row) 0, owed := x.owed ++ [(q.bank, q.row)] }
  else { x with acts := x.acts.set 0 (q.bank * 32768 + q.row) n }
theorem activated_of_lt (x : PchSt) (q : Traffic) {n : Nat} (h : n < 4096) :
    (x.activated q n).acts.get 0 (q.bank * 32768 + q.row) = n ∧ (x.activated q n).owed = x.owed := by
  unfold PchSt.activated
  rw [if_neg (Nat.not_le.2 h)]
  exact ⟨(SMap.get_set 0 x.acts _ _ _).trans (if_pos rfl), rfl⟩
theorem activated_of_ge (x : PchSt) (q : Traffic) {n : Nat} (h : 4096 ≤ n) :
    (x.activated q n).acts.get 0 (q.bank * 32768 + q.row) = 0 ∧ (x.activated q n).owed = x.owed ++ [(q.bank, q.row)] := by
  unfold PchSt.activated
  rw [if_pos h]
  refine ⟨?_, rfl⟩
  show SMap.get 0 (SMap.set 0 x.acts (q.bank * 32768 + q.row) 0) (q.bank * 32768 + q.row) = 0
  rw [SMap.get_set, if_pos rfl]
/-- The pseudo-channel after a request of its queue: the row is open, and its activations are counted (R75, R76). -/
def PchSt.complete (x : PchSt) (i : Nat) (q : Traffic) (n t now : Nat) : PchSt :=
  { (x.activated q n).setBank q.bank { x.bank q.bank with
      row := some q.row, lats := if q.lat then (x.bank q.bank).lats ++ [(t, now)] else (x.bank q.bank).lats } with
    queue := x.queue.eraseIdx i }
theorem bank_complete (x : PchSt) (i : Nat) (q : Traffic) (n t now : Nat) :
    (x.complete i q n t now).bank q.bank = { x.bank q.bank with
      row := some q.row, lats := if q.lat then (x.bank q.bank).lats ++ [(t, now)] else (x.bank q.bank).lats } :=
  bank_setBank_self (x.activated q n) q.bank _

theorem exec_memoryRequestComplete {s : State} {q : Traffic} {t : Nat} (h : (s.pch s.ev.unit).queue[s.ev.idx]? = some (q, t)) :
    exec .memoryRequestComplete s = if (s.pch s.ev.unit).held q = true ∨ s.now < t + 88 then .next s
      else .next ((if s.isMonitored s.ev.unit && (q.lat || fld (s.reg (mcAddr (dieOfPch s.ev.unit) 8)) 8 8 == 0)
          then s.mcCount (dieOfPch s.ev.unit) (0x80 + 8 * latBin (s.now - t)) 47 0 1 else s).setPch s.ev.unit
        ((s.pch s.ev.unit).complete s.ev.idx q (if ((s.pch s.ev.unit).bank q.bank).row = some q.row
          then (s.pch s.ev.unit).acts.get 0 (q.bank * 32768 + q.row) else (s.pch s.ev.unit).acts.get 0 (q.bank * 32768 + q.row) + 1)
          t s.now)) := by
  show execMemoryRequestComplete s = _
  unfold execMemoryRequestComplete PchSt.complete PchSt.activated
  simp only [h]
  generalize (if ((s.pch s.ev.unit).bank q.bank).row = some q.row then (s.pch s.ev.unit).acts.get 0 (q.bank * 32768 + q.row)
    else (s.pch s.ev.unit).acts.get 0 (q.bank * 32768 + q.row) + 1) = n
  refine ite_congr rfl (fun _ => rfl) (fun _ => ?_)
  by_cases hn : 4096 ≤ n
  · simp only [hn, if_true]
    rfl
  · simp only [if_neg hn]
    rfl
/-- R76: a request of a pseudo-channel completes. -/
theorem memoryRequestComplete_steps (s : State) :
    let p := s.ev.unit
    let b := s.ev.idx
    let x := s.pch p
    ∀ q t0, x.queue[b]? = some (q, t0) →
    let z := x.bank q.bank
    let held : Prop := x.catchUp ≠ none ∨ z.busy ≠ none ∨ s.now < t0 + 88
    (held → exec .memoryRequestComplete s = .next s)
    ∧ (¬ held → ∃ t, exec .memoryRequestComplete s = .next t ∧ PchOnly s t p ∧ (t.pch p).queue = x.queue.eraseIdx b
      ∧ ((t.pch p).bank q.bank).row = some q.row
      ∧ ((t.pch p).bank q.bank).lats = (if q.lat = true then z.lats ++ [(t0, s.now)] else z.lats)
      ∧ let k := q.bank * 32768 + q.row
        let n := x.acts.get 0 k + if z.row = some q.row then 0 else 1
        (n < 4096 → (t.pch p).acts.get 0 k = n ∧ (t.pch p).owed = x.owed)
        ∧ (4096 ≤ n → (t.pch p).acts.get 0 k = 0 ∧ (t.pch p).owed = x.owed ++ [(q.bank, q.row)])
        ∧ (s.isMonitored p = true → q.lat = true ∨ fld (s.reg (mcAddr (p / 128) 8)) 8 8 = 0 →
          let a := mcAddr (p / 128) (0x80 + 8 * latBin (s.now - t0))
          fld (t.reg a) 47 0 = min (2 ^ 48 - 1) (fld (s.reg a) 47 0 + 1))) := by
  intro p b x q t0 hq z held
  have hheld : (x.held q = true ∨ s.now < t0 + 88) ↔ held := by
    unfold PchSt.held
    rw [Bool.or_eq_true, Option.isSome_iff_ne_none, Option.isSome_iff_ne_none, or_assoc]
  set n := x.acts.get 0 (q.bank * 32768 + q.row) + if z.row = some q.row then 0 else 1 with hn
  set counts := s.isMonitored p && (q.lat || fld (s.reg (mcAddr (dieOfPch p) 8)) 8 8 == 0) with hc
  set s' := if counts then s.mcCount (dieOfPch p) (0x80 + 8 * latBin (s.now - t0)) 47 0 1 else s with hs'
  have he : exec .memoryRequestComplete s = if x.held q = true ∨ s.now < t0 + 88 then .next s
      else .next (s'.setPch p (x.complete b q n t0 s.now)) := by
    have hn' : (if z.row = some q.row then x.acts.get 0 (q.bank * 32768 + q.row) else x.acts.get 0 (q.bank * 32768 + q.row) + 1) = n := by
      rw [hn]; split <;> rfl
    rw [← hn']
    exact exec_memoryRequestComplete hq
  refine ⟨fun h => he.trans (if_pos (hheld.2 h)), fun h => ?_⟩
  obtain ⟨m, hm⟩ := counted_eq counts s (dieOfPch p) (0x80 + 8 * latBin (s.now - t0)) 47 0 1
  have hbank := bank_complete x b q n t0 s.now
  refine ⟨_, he.trans (if_neg (fun h' => h (hheld.1 h'))), hs' ▸ hm ▸ pchOnly_setPch .., ?_⟩
  rw [pch_setPch_self]
  refine ⟨rfl, congrArg BankRf.row hbank, congrArg BankRf.lats hbank, activated_of_lt x q, activated_of_ge x q, fun hmon hl => ?_⟩
  have hcounts : counts = true := by
    rw [hc, hmon, Bool.true_and, Bool.or_eq_true, beq_iff_eq]
    exact hl
  have hset : (s'.setPch p (x.complete b q n t0 s.now)).reg (mcAddr (p / 128) (0x80 + 8 * latBin (s.now - t0)))
      = (s.mcCount (dieOfPch p) (0x80 + 8 * latBin (s.now - t0)) 47 0 1).reg (mcAddr (p / 128) (0x80 + 8 * latBin (s.now - t0))) := by
    rw [hs', hcounts]; rfl
  refine (congrArg (fun v => fld v 47 0) hset).trans ?_
  exact fld_mcCount s (p / 128) _ 1 (by omega) (by omega)
end Sys2Proof.Machine
end

section
/-! SUPPORT. The lines of a slice when it serves a request (R93, R96), and the request served next (R102). -/

namespace Sys2Proof.Machine

-- ## A slice serves a request

/-- The line of a request under its key, if the slice holds it. -/
def SliceSt.found (x : SliceSt) (q : Traffic) : Option L2Line := x.lines.find? (fun l => l.line == q.line && l.key == q.key)
/-- A line of the request's address under another key. -/
def L2Line.staleFor (q : Traffic) (l : L2Line) : Bool := l.line == q.line && l.key != q.key
/-- A line that the request's line displaces from its way. -/
def L2Line.leavesFor (q : Traffic) (way : Nat) (l : L2Line) : Bool :=
  sharedSet l.line == sharedSet q.line && l.way == way && l.line != q.line
/-- The sectors that a request makes dirty. -/
def Traffic.wrote (q : Traffic) : BitVec 4 := if q.kind = .read then 0 else q.secs
/-- The lines that a request leaves under their keys. -/
def SliceSt.kept (x : SliceSt) (q : Traffic) : List L2Line := x.lines.filter (fun l => !l.staleFor q)
/-- The way that a request's line has or gets. -/
def SliceSt.wayFor (x : SliceSt) (ways : List Nat) (q : Traffic) : Option Nat := match x.found q with
  | some l => some l.way
  | none =>
    wayAmong ways (((x.kept q).filter (fun l => sharedSet l.line == sharedSet q.line)).map (·.way)) (x.plru.get 0 (sharedSet q.line))
/-- A request's line in a way after the request. -/
def SliceSt.lineAfter (x : SliceSt) (way : Nat) (q : Traffic) : L2Line :=
  let l := (x.found q).getD ⟨way, q.line, q.key, 0, 0⟩
  { l with valid := l.valid ||| q.secs, dirty := l.dirty ||| q.wrote }

theorem find?_kept (x : SliceSt) (q : Traffic) : (x.kept q).find? (fun l => l.line == q.line) = x.found q := by
  unfold SliceSt.kept SliceSt.found L2Line.staleFor
  rw [List.find?_filter]
  congr 1
  funext l
  by_cases h : l.line = q.line
  · by_cases hk : l.key = q.key <;> simp [h, hk]
  · simp [h]
theorem serve_of_way {x : SliceSt} {ways : List Nat} {q : Traffic} {way : Nat} (h : x.wayFor ways q = some way) :
    x.serve ways q = (⟨(x.kept q).filter (fun y => !y.leavesFor q way && y.line != q.line) ++ [x.lineAfter way q],
        touch16 x.plru q.line way false⟩,
      q.need &&& ~~~ ((x.found q).getD ⟨way, q.line, q.key, 0, 0⟩).valid,
      x.lines.filter (fun y => (y.staleFor q || y.leavesFor q way) && y.dirty != 0)) := by
  unfold SliceSt.wayFor at h
  rw [← find?_kept] at h
  unfold SliceSt.lineAfter
  rw [← find?_kept]
  unfold SliceSt.serve
  dsimp only
  split
  · rename_i e
    cases e.symm.trans h
  · rename_i way' e
    obtain rfl : way' = way := Option.some.inj (e.symm.trans h)
    rfl
theorem serve_of_no_way {x : SliceSt} {ways : List Nat} {q : Traffic} (h : x.wayFor ways q = none) :
    x.serve ways q = ({ x with lines := x.kept q }, q.need,
      (x.lines.filter (·.staleFor q) ++ [(⟨0, q.line, q.key, 0, q.wrote⟩ : L2Line)]).filter (fun y => y.dirty != 0)) := by
  unfold SliceSt.wayFor at h
  rw [← find?_kept] at h
  unfold SliceSt.serve
  dsimp only
  split
  · rfl
  · rename_i e
    cases h.symm.trans e
theorem found_spec {x : SliceSt} {q : Traffic} {l : L2Line} (h : x.found q = some l) : l ∈ x.lines ∧ l.line = q.line ∧ l.key = q.key := by
  have hp := List.find?_some h
  rw [Bool.and_eq_true, beq_iff_eq, beq_iff_eq] at hp
  exact ⟨List.mem_of_find?_eq_some h, hp⟩
theorem mem_kept {x : SliceSt} {q : Traffic} {l : L2Line} : l ∈ x.kept q ↔ l ∈ x.lines ∧ (l.line = q.line → l.key = q.key) := by
  unfold SliceSt.kept L2Line.staleFor
  rw [List.mem_filter]
  by_cases h : l.line = q.line <;> simp [h]
theorem lineAfter_spec (x : SliceSt) (way : Nat) (q : Traffic) :
    (x.lineAfter way q).line = q.line ∧ (x.lineAfter way q).key = q.key ∧ q.secs &&& ~~~ (x.lineAfter way q).valid = 0#4
      ∧ (q.kind ≠ .read → q.secs &&& ~~~ (x.lineAfter way q).dirty = 0#4) := by
  have hand (a b : BitVec 4) : b &&& ~~~ (a ||| b) = 0#4 := by ext i hi; simp; tauto
  have hd (h : q.kind ≠ .read) : q.wrote = q.secs := if_neg h
  unfold SliceSt.lineAfter
  cases h : x.found q with
  | none => exact ⟨rfl, rfl, hand _ _, fun hk => by rw [hd hk]; exact hand _ _⟩
  | some l =>
    obtain ⟨-, h1, h2⟩ := found_spec h
    exact ⟨h1, h2, hand _ _, fun hk => by rw [hd hk]; exact hand _ _⟩
/-- The lines of a slice that has a way for the request's line. -/
theorem mem_serve_of_way {x : SliceSt} {ways : List Nat} {q : Traffic} {way : Nat} (h : x.wayFor ways q = some way) {l : L2Line} :
    l ∈ (x.serve ways q).1.lines ↔ (l ∈ x.lines ∧ l.line ≠ q.line ∧ l.leavesFor q way = false) ∨ l = x.lineAfter way q := by
  rw [serve_of_way h]
  simp only [List.mem_append, List.mem_filter, mem_kept, List.mem_singleton, Bool.and_eq_true, Bool.not_eq_true', bne_iff_ne]
  tauto
theorem mem_serve_of_no_way {x : SliceSt} {ways : List Nat} {q : Traffic} (h : x.wayFor ways q = none) {l : L2Line} :
    l ∈ (x.serve ways q).1.lines ↔ l ∈ x.lines ∧ (l.line = q.line → l.key = q.key) := by
  rw [serve_of_no_way h]
  exact mem_kept
/-- A way of those that serve is always found for a new line. -/
theorem wayAmong_ne_none {ways : List Nat} (hw : ∀ w ∈ ways, w < 16) (h : ways ≠ []) (used : List Nat) (bits : BitVec 32) :
    wayAmong ways used bits ≠ none := by
  unfold wayAmong
  split
  · simp
  · obtain ⟨w, hm⟩ := List.exists_mem_of_ne_nil ways h
    have hlt := hw w hm
    intro hn
    refine List.find?_eq_none.1 hn w (List.mem_map.2 ⟨(w + 16 - plruVictim 16 bits % 16) % 16, List.mem_range.2 (by omega), by omega⟩) ?_
    exact List.contains_iff_mem.2 hm
theorem mem_of_wayAmong {ways used : List Nat} {bits : BitVec 32} {w : Nat} (h : wayAmong ways used bits = some w) : w ∈ ways := by
  unfold wayAmong at h
  split at h
  · rename_i e
    cases h
    exact List.mem_of_find?_eq_some e
  · exact List.contains_iff_mem.1 (List.find?_some h)
theorem wayFor_ne_none {x : SliceSt} {ways : List Nat} (hw : ∀ w ∈ ways, w < 16) (h : ways ≠ []) (q : Traffic) :
    x.wayFor ways q ≠ none := by
  unfold SliceSt.wayFor
  split
  · simp
  · exact wayAmong_ne_none hw h _ _
theorem sliceWays_lt {s : State} {inst w : Nat} (h : w ∈ s.sliceWays inst) : w < 16 :=
  List.mem_range.1 (List.mem_filter.1 h).1

/-- What a slice holds after it has served a request (R93, R96). -/
theorem serve_lines (x : SliceSt) {ways : List Nat} (hw : ∀ w ∈ ways, w < 16) (q : Traffic) :
    (ways ≠ [] → ∃ l ∈ (x.serve ways q).1.lines, l.line = q.line ∧ l.key = q.key ∧ q.secs &&& ~~~ l.valid = 0#4
      ∧ (q.kind ≠ .read → q.secs &&& ~~~ l.dirty = 0#4))
    ∧ (∀ l ∈ (x.serve ways q).1.lines, l.line = q.line → (∀ m ∈ x.lines, ¬ (m.line = q.line ∧ m.key = q.key)) → l.way ∈ ways)
    ∧ (∀ l ∈ (x.serve ways q).1.lines, l.line = q.line → l.key = q.key)
    ∧ (∀ l ∈ x.lines, sharedSet l.line ≠ sharedSet q.line → l ∈ (x.serve ways q).1.lines) := by
  cases h : x.wayFor ways q with
  | none =>
    refine ⟨fun hn => absurd h (wayFor_ne_none hw hn q), fun l hl e hno => ?_, fun l hl e => ?_, fun l hl hne => ?_⟩
    · obtain ⟨h1, h2⟩ := (mem_serve_of_no_way h).1 hl
      exact absurd ⟨e, h2 e⟩ (hno l h1)
    · exact ((mem_serve_of_no_way h).1 hl).2 e
    · exact (mem_serve_of_no_way h).2 ⟨hl, fun e => absurd (congrArg sharedSet e) hne⟩
  | some way =>
    obtain ⟨h1, h2, h3, h4⟩ := lineAfter_spec x way q
    refine ⟨fun _ => ⟨_, (mem_serve_of_way h).2 (.inr rfl), h1, h2, h3, h4⟩, fun l hl e hno => ?_, fun l hl e => ?_, fun l hl hne => ?_⟩
    · obtain ⟨-, hne, -⟩ | rfl := (mem_serve_of_way h).1 hl
      · exact absurd e hne
      · have hf : x.found q = none := by
          rw [Option.eq_none_iff_forall_ne_some]
          intro m hm
          exact hno m (found_spec hm).1 (found_spec hm).2
        unfold SliceSt.wayFor at h
        unfold SliceSt.lineAfter
        rw [hf] at h ⊢
        exact mem_of_wayAmong h
    · obtain ⟨-, hne, -⟩ | rfl := (mem_serve_of_way h).1 hl
      · exact absurd e hne
      · exact h2
    · refine (mem_serve_of_way h).2 (.inl ⟨hl, fun e => hne (congrArg sharedSet e), ?_⟩)
      unfold L2Line.leavesFor
      rw [beq_eq_false_iff_ne.2 hne]
      rfl
/-- The sectors that a slice must fetch for a request. -/
theorem serve_missing (x : SliceSt) (ways : List Nat) (q : Traffic) : (x.serve ways q).2.1 = x.missing q := by
  have hm : x.missing q = match x.found q with
    | some l => q.need &&& ~~~ l.valid
    | none => q.need := rfl
  rw [hm]
  cases h : x.wayFor ways q with
  | none =>
    rw [serve_of_no_way h]
    cases hf : x.found q with
    | none => rfl
    | some l =>
      unfold SliceSt.wayFor at h
      rw [hf] at h
      cases h
  | some way =>
    rw [serve_of_way h]
    cases hf : x.found q with
    | none =>
      show q.need &&& ~~~ 0#4 = q.need
      rw [BitVec.not_zero, BitVec.and_allOnes]
    | some l => rfl
/-- A line that leaves dirty is among those written back. -/
theorem serve_back (x : SliceSt) (ways : List Nat) (q : Traffic) {l : L2Line} (hl : l ∈ x.lines) (hd : l.dirty ≠ 0#4)
    (hno : ∀ m ∈ (x.serve ways q).1.lines, ¬ (m.line = l.line ∧ m.key = l.key)) : l ∈ (x.serve ways q).2.2 := by
  cases h : x.wayFor ways q with
  | none =>
    have hs : l.staleFor q = true := by
      have hn : ¬ (l.line = q.line → l.key = q.key) := fun hk => hno l ((mem_serve_of_no_way h).2 ⟨hl, hk⟩) ⟨rfl, rfl⟩
      unfold L2Line.staleFor
      simp only [Bool.and_eq_true, beq_iff_eq, bne_iff_ne]
      tauto
    rw [serve_of_no_way h]
    exact List.mem_filter.2 ⟨List.mem_append_left _ (List.mem_filter.2 ⟨hl, hs⟩), bne_iff_ne.2 hd⟩
  | some way =>
    obtain ⟨h1, h2, -, -⟩ := lineAfter_spec x way q
    have hs : (l.staleFor q || l.leavesFor q way) = true := by
      by_cases e : l.line = q.line
      · have hk : l.key ≠ q.key := fun hk => hno _ ((mem_serve_of_way h).2 (.inr rfl)) ⟨h1.trans e.symm, h2.trans hk.symm⟩
        simp [L2Line.staleFor, e, hk]
      · cases hlv : l.leavesFor q way with
        | true => simp
        | false => exact absurd ⟨rfl, rfl⟩ (hno l ((mem_serve_of_way h).2 (.inl ⟨hl, e, hlv⟩)))
    rw [serve_of_way h]
    exact List.mem_filter.2 ⟨hl, by rw [hs, Bool.true_and]; exact bne_iff_ne.2 hd⟩

-- ## The request served next (R102)

theorem mem_of_headsOf {seen : List (Nat × Nat)} {l : List Traffic} {z : Traffic} (h : z ∈ headsOf seen l) : z ∈ l := by
  induction l generalizing seen with
  | nil => cases h
  | cons t ts ih =>
    unfold headsOf at h
    split at h
    · exact List.mem_cons_of_mem _ (ih h)
    · obtain rfl | h := List.mem_cons.1 h
      · exact List.mem_cons_self
      · exact List.mem_cons_of_mem _ (ih h)
/-- The better of two requests: the lower tier, then the older, then the lower number (R102). -/
def betterRequest (tier : Traffic → Option Nat) (best : Option (Nat × Traffic)) (t : Traffic) : Option (Nat × Traffic) :=
  match tier t, best with
  | none, _ => best
  | some k, none => some (k, t)
  | some k, some (k', t') => if k < k' ∨ (k = k' ∧ (t.age < t'.age ∨ (t.age = t'.age ∧ t.id < t'.id))) then some (k, t) else best
theorem betterRequest_spec (tier : Traffic → Option Nat) (best : Option (Nat × Traffic)) (t : Traffic) :
    (∀ k q, betterRequest tier best t = some (k, q) → best = some (k, q) ∨ (q = t ∧ tier t = some k))
    ∧ (∀ j, tier t = some j → ∃ k q, betterRequest tier best t = some (k, q) ∧ k ≤ j)
    ∧ (∀ j z, best = some (j, z) → ∃ k q, betterRequest tier best t = some (k, q) ∧ k ≤ j) := by
  unfold betterRequest
  cases ht : tier t with
  | none =>
    refine ⟨fun k q h => .inl h, fun j h => ?_, fun j z h => ⟨j, z, h, le_refl j⟩⟩
    cases h
  | some i =>
    obtain - | ⟨k', t'⟩ := best
    · refine ⟨fun k q h => ?_, fun j h => ⟨i, t, rfl, (Option.some.inj h).le⟩, fun j z h => ?_⟩
      · cases h
        exact .inr ⟨rfl, rfl⟩
      · cases h
    · dsimp only
      split
      · rename_i hlt
        refine ⟨fun k q h => ?_, fun j h => ⟨i, t, rfl, (Option.some.inj h).le⟩, fun j z h => ⟨i, t, rfl, ?_⟩⟩
        · cases h
          exact .inr ⟨rfl, rfl⟩
        · cases h
          omega
      · rename_i hnlt
        refine ⟨fun k q h => .inl h, fun j h => ⟨k', t', rfl, ?_⟩, fun j z h => ⟨j, z, h, le_refl j⟩⟩
        have := Option.some.inj h
        omega
theorem bestRequest_spec (tier : Traffic → Option Nat) (l : List Traffic) (best : Option (Nat × Traffic)) {k : Nat} {q : Traffic}
    (h : l.foldl (betterRequest tier) best = some (k, q)) :
    (best = some (k, q) ∨ (q ∈ l ∧ tier q = some k)) ∧ (∀ z ∈ l, ∀ j, tier z = some j → k ≤ j) ∧ (∀ j z, best = some (j, z) → k ≤ j) := by
  induction l generalizing best with
  | nil => exact ⟨.inl h, fun z hz => absurd hz List.not_mem_nil, fun j z hz => by cases hz.symm.trans h; exact le_refl _⟩
  | cons t ts ih =>
    obtain ⟨h1, h2, h3⟩ := ih _ h
    obtain ⟨b1, b2, b3⟩ := betterRequest_spec tier best t
    refine ⟨?_, fun z hz j hj => ?_, fun j z hz => ?_⟩
    · obtain h1 | ⟨hm, hk⟩ := h1
      · obtain h1 | ⟨rfl, hk⟩ := b1 k q h1
        · exact .inl h1
        · exact .inr ⟨List.mem_cons_self, hk⟩
      · exact .inr ⟨List.mem_cons_of_mem _ hm, hk⟩
    · obtain rfl | hz := List.mem_cons.1 hz
      · obtain ⟨i, w, hb, hle⟩ := b2 j hj
        exact le_trans (h3 i w hb) hle
      · exact h2 z hz j hj
    · obtain ⟨i, w, hb, hle⟩ := b3 j z hz
      exact le_trans (h3 i w hb) hle
/-- R102: the request served next is of the lowest tier among the heads. -/
theorem nextRequest_spec (s : State) (p : Nat) : ∀ q k, s.nextRequest p = some (k, q) → q ∈ s.traffic.get [] p ∧ s.tier p q = some k
    ∧ ∀ z ∈ headsOf [] (s.traffic.get [] p), ∀ j, s.tier p z = some j → k ≤ j := by
  intro q k h
  have he : s.nextRequest p = (headsOf [] (s.traffic.get [] p)).foldl (betterRequest (s.tier p)) none := rfl
  obtain ⟨h1, h2, -⟩ := bestRequest_spec (s.tier p) _ none (he ▸ h)
  obtain h1 | ⟨hm, hk⟩ := h1
  · cases h1
  · exact ⟨mem_of_headsOf hm, hk, h2⟩
/-- R102: the tier of a request. -/
theorem tier_spec (s : State) (p : Nat) : ∀ q : Traffic, let r := s.reg (l2RegAddr q.slot (regOf p q))
    let cost := if p < 128 then 32 * secCount q.secs else 64 * burstCount q.secs
    let fits : Prop := cost * 65536 ≤ s.bucket p q.slot (regOf p q)
    (3 ≤ q.cls → s.tier p q = some 1)
    ∧ (q.cls < 3 → q.slot ∈ s.ended ∨ s.ctxEn q.slot = false ∨ fld r 0 0 = 0 → s.tier p q = some 2)
    ∧ (q.cls < 3 → q.slot ∉ s.ended → s.ctxEn q.slot = true → fld r 0 0 = 1 → (fits → s.tier p q = some 1)
      ∧ (¬ fits → s.tier p q = if fld r 1 1 = 0 then some 3 else none)) := by
  intro q r cost fits
  have hopen (hc : q.cls < 3) : s.tier p q = if (s.ended.contains q.slot || !s.ctxEn q.slot || fld r 0 0 == 0) = true then some 2
      else if fits then some 1 else if (fld r 1 1 == 0) = true then some 3 else none := if_neg (Nat.not_le.2 hc)
  refine ⟨fun hc => if_pos hc, fun hc h => ?_, fun hc h1 h2 h3 => ?_⟩
  · rw [hopen hc, if_pos]
    simp only [Bool.or_eq_true, Bool.not_eq_true', beq_iff_eq, List.contains_iff_mem, or_assoc]
    exact h
  · rw [hopen hc, if_neg]
    · refine ⟨fun hf => if_pos hf, fun hf => ?_⟩
      rw [if_neg hf]
      by_cases h : fld r 1 1 = 0 <;> simp [h]
    · simp [h1, h2, h3]
end Sys2Proof.Machine
end

section
/-! SUPPORT. A slice or a stack controller serves its next request (R96, R99 to R102). -/

namespace Sys2Proof.Machine

-- ## Requests that go on to a stack

/-- What sending requests on to the stacks changes: their queues grow, those of the slices stay. -/
def SentUp (s t : State) : Prop := t = { s with traffic := t.traffic, nextId := t.nextId, stale := t.stale }
  ∧ (∀ j z, z ∈ s.traffic.get [] j → z ∈ t.traffic.get [] j) ∧ ∀ j, j < 128 → t.traffic.get [] j = s.traffic.get [] j
theorem sentUp_refl (s : State) : SentUp s s := ⟨rfl, fun _ _ h => h, fun _ _ => rfl⟩
theorem sentUp_trans {s t u : State} (h : SentUp s t) (h' : SentUp t u) : SentUp s u := by
  obtain ⟨e1, i1, k1⟩ := h
  obtain ⟨e2, i2, k2⟩ := h'
  refine ⟨?_, fun j z hz => i2 j z (i1 j z hz), fun j hj => (k2 j hj).trans (k1 j hj)⟩
  rw [e2, e1]
theorem sendUp_traffic (s : State) (q : Traffic) (j : Nat) : (s.sendUp q).traffic.get [] j
    = if q.up = j then s.traffic.get [] q.up ++ [{ q with id := s.nextId, age := s.now, need := 0 }] else s.traffic.get [] j := by
  unfold State.sendUp SMap.get
  rw [SMap.find?_insert]
  split <;> rfl
theorem sentUp_sendUp (s : State) (q : Traffic) : SentUp s (s.sendUp q) := by
  refine ⟨rfl, fun j z hz => ?_, fun j hj => ?_⟩
  · rw [sendUp_traffic]
    split
    · rename_i e
      subst e
      exact List.mem_append_left _ hz
    · exact hz
  · rw [sendUp_traffic, if_neg]
    unfold Traffic.up
    omega
/-- The request that a stack gets, but for the number it is given. -/
theorem mem_sendUp (s : State) (q : Traffic) :
    { q with id := s.nextId, age := s.now, need := 0 } ∈ (s.sendUp q).traffic.get [] q.up := by
  rw [sendUp_traffic, if_pos rfl]
  exact List.mem_append_right _ List.mem_cons_self
theorem sentUp_sliceBack (s : State) (q : Traffic) (l : L2Line) : SentUp s (s.sliceBack q l) :=
  sentUp_trans (t := s.writtenBack l.line l.dirty) ⟨rfl, fun _ _ h => h, fun _ _ => rfl⟩ (sentUp_sendUp _ _)
/-- The write-back of a line on behalf of a request. -/
def WritesBack (q : Traffic) (l : L2Line) (z : Traffic) : Prop :=
  z.line = l.line ∧ z.key = l.key ∧ z.kind = .write ∧ z.secs = l.dirty ∧ z.slot = q.slot ∧ z.cls = q.cls
theorem sliceBacks_spec (q : Traffic) (ls : List L2Line) (s : State) : SentUp s (ls.foldl (fun s l => s.sliceBack q l) s)
    ∧ ∀ l ∈ ls, ∃ z ∈ (ls.foldl (fun s l => s.sliceBack q l) s).traffic.get [] (128 + (rowName (128 * l.line)).1 / 64),
      WritesBack q l z := by
  induction ls generalizing s with
  | nil => exact ⟨sentUp_refl s, fun l hl => absurd hl List.not_mem_nil⟩
  | cons m ls ih =>
    obtain ⟨h1, h2⟩ := ih (s.sliceBack q m)
    refine ⟨sentUp_trans (sentUp_sliceBack s q m) h1, fun l hl => ?_⟩
    obtain rfl | hl := List.mem_cons.1 hl
    · exact ⟨_, h1.2.1 _ _ (mem_sendUp _ _), rfl, rfl, rfl, rfl, rfl, rfl⟩
    · exact h2 l hl

-- ## Tokens

theorem bucket_of_find? {s : State} {inst slot k n : Nat} (hf : s.buckets.find? (bucketKey inst slot k) = some ⟨n, s.now⟩)
    (h : n ≤ regDepth (s.reg (l2RegAddr slot k)) * 65536) : s.bucket inst slot k = n := by
  unfold State.bucket
  dsimp only
  rw [hf]
  show min (regDepth (s.reg (l2RegAddr slot k)) * 65536) (n + (s.now - s.now) * regRate (s.reg (l2RegAddr slot k))) = n
  rw [Nat.sub_self, Nat.zero_mul, Nat.add_zero, Nat.min_eq_right h]
theorem bucket_setBucket_self (s : State) {inst slot k n : Nat} (h : n ≤ regDepth (s.reg (l2RegAddr slot k)) * 65536) :
    (s.setBucket inst slot k n).bucket inst slot k = n := by
  refine bucket_of_find? ?_ h
  unfold State.setBucket
  rw [SMap.find?_insert, if_pos rfl]
theorem bucket_le (s : State) (inst slot k : Nat) : s.bucket inst slot k ≤ regDepth (s.reg (l2RegAddr slot k)) * 65536 := by
  unfold State.bucket
  dsimp only
  split
  · exact le_refl _
  · exact Nat.min_le_left _ _
theorem bucket_congr {s t : State} (hb : t.buckets = s.buckets) (hm : t.mmio = s.mmio) (hn : t.now = s.now) (inst slot k : Nat) :
    t.bucket inst slot k = s.bucket inst slot k := by
  unfold State.bucket
  rw [reg_congr hm, hb, hn]

-- ## A request is taken and served

/-- Whether a request that conforms takes tokens. -/
def State.takesTokens (s : State) (inst k : Nat) (q : Traffic) : Prop :=
  k = 1 ∧ q.cls < 3 ∧ s.ctxEn q.slot = true ∧ fld (s.reg (l2RegAddr q.slot (regOf inst q))) 0 0 = 1
theorem takeRequest_spec (s : State) (inst k : Nat) (q : Traffic) :
    s.takeRequest inst k q = { s with traffic := (s.takeRequest inst k q).traffic, buckets := (s.takeRequest inst k q).buckets }
    ∧ (∀ z, z ∈ (s.takeRequest inst k q).traffic.get [] inst → z ∈ s.traffic.get [] inst ∧ z.id ≠ q.id)
    ∧ (s.takesTokens inst k q → (s.takeRequest inst k q).bucket inst q.slot (regOf inst q)
        = s.bucket inst q.slot (regOf inst q) - q.cost inst * 65536)
    ∧ (k ≠ 1 → (s.takeRequest inst k q).buckets = s.buckets) := by
  set s' : State := { s with traffic := s.traffic.set [] inst ((s.traffic.get [] inst).filter (fun x => x.id != q.id)) } with hs'
  have hpos (h : s.takesTokens inst k q) : s.takeRequest inst k q
      = s'.setBucket inst q.slot (regOf inst q) (s.bucket inst q.slot (regOf inst q) - q.cost inst * 65536) := if_pos h
  have hneg (h : ¬ s.takesTokens inst k q) : s.takeRequest inst k q = s' := if_neg h
  have hmem (z : Traffic) (hz : z ∈ s'.traffic.get [] inst) : z ∈ s.traffic.get [] inst ∧ z.id ≠ q.id := by
    rw [hs'] at hz
    obtain ⟨h1, h2⟩ := List.mem_filter.1 ((SMap.get_set_self [] s.traffic inst _) ▸ hz)
    exact ⟨h1, bne_iff_ne.1 h2⟩
  by_cases h : s.takesTokens inst k q
  · rw [hpos h]
    refine ⟨rfl, hmem, fun _ => bucket_setBucket_self s' ?_, fun hk => absurd h.1 hk⟩
    exact le_trans (Nat.sub_le _ _) (bucket_le s inst q.slot (regOf inst q))
  · rw [hneg h]
    exact ⟨rfl, hmem, fun h' => absurd h' h, fun _ => rfl⟩
theorem slice_insert (s : State) (i j : Nat) (x : SliceSt) :
    ({ s with slices := s.slices.insert i x } : State).slice j = if i = j then x else s.slice j := by
  unfold State.slice SMap.get
  rw [SMap.find?_insert]
  split <;> rfl
/-- What a slice does when it serves a request (R96). -/
theorem serveSlice_spec (s : State) (p : Nat) (q : Traffic) :
    let r := (s.slice p).serve (s.sliceWays p) q
    ∃ t, s.serveSlice p q = t ∧ t = { s with traffic := t.traffic, slices := t.slices, nextId := t.nextId, stale := t.stale }
      ∧ (∀ j, j < 128 → t.traffic.get [] j = s.traffic.get [] j) ∧ t.slice p = r.1 ∧ (∀ j, j ≠ p → t.slice j = s.slice j)
      ∧ (r.2.1 ≠ 0#4 → ∃ z ∈ t.traffic.get [] q.up, z.line = q.line ∧ z.key = q.key ∧ z.secs = r.2.1 ∧ z.slot = q.slot ∧ z.cls = q.cls
            ∧ z.kind = q.kind ∧ z.lat = q.lat ∧ z.age = s.now)
      ∧ ∀ l ∈ r.2.2, ∃ z ∈ t.traffic.get [] (128 + (rowName (128 * l.line)).1 / 64), WritesBack q l z := by
  intro r
  set s1 : State := { s with slices := s.slices.insert p r.1 } with hs1
  obtain ⟨hback, hwrote⟩ := sliceBacks_spec q r.2.2 s1
  set s2 := r.2.2.foldl (fun s l => s.sliceBack q l) s1 with hs2
  have he : s.serveSlice p q = if r.2.1 = 0#4 then s2 else s2.sendUp { q with secs := r.2.1 } := rfl
  have hup : SentUp s2 (s.serveSlice p q) := by
    rw [he]
    split
    · exact sentUp_refl _
    · exact sentUp_sendUp _ _
  obtain ⟨e, hin, hlow⟩ := sentUp_trans hback hup
  have hslice (j : Nat) : (s.serveSlice p q).slice j = s1.slice j := by rw [e]; rfl
  refine ⟨_, rfl, by rw [e], hlow, ?_, fun j hj => ?_, fun hm => ?_, fun l hl => ?_⟩
  · rw [hslice, slice_insert, if_pos rfl]
  · rw [hslice, slice_insert, if_neg hj.symm]
  · rw [he, if_neg hm]
    have hnow : s2.now = s.now := by rw [hback.1]
    exact ⟨_, mem_sendUp s2 { q with secs := r.2.1 }, rfl, rfl, rfl, rfl, rfl, rfl, rfl, hnow⟩
  · obtain ⟨z, hz, hw⟩ := hwrote l hl
    exact ⟨z, hup.2.1 _ _ hz, hw⟩

/-- R96, R101, R102: a slice or a stack controller serves its next request. -/
theorem requestSchedule_steps (s : State) : let p := s.ev.unit
    (s.nextRequest p = none → exec .requestSchedule s = .next s)
    ∧ ∀ k q, s.nextRequest p = some (k, q) → ∃ t, exec .requestSchedule s = .next t
      ∧ t = { s with
        traffic := t.traffic, buckets := t.buckets, slices := t.slices, pchs := t.pchs, nextId := t.nextId, stale := t.stale }
      ∧ (∀ z, z ∈ t.traffic.get [] p → z ∈ s.traffic.get [] p ∧ z.id ≠ q.id)
      ∧ (k = 1 → q.cls < 3 → s.ctxEn q.slot = true → fld (s.reg (l2RegAddr q.slot (regOf p q))) 0 0 = 1 →
        t.bucket p q.slot (regOf p q) = s.bucket p q.slot (regOf p q) - q.cost p * 65536)
      ∧ (k ≠ 1 → t.buckets = s.buckets)
      ∧ (128 ≤ p → (t.pch q.pch).queue = (s.pch q.pch).queue ++ [(q, s.now)] ∧ t.slices = s.slices)
      ∧ (p < 128 → t.pchs = s.pchs ∧ (∀ j, j ≠ p → t.slice j = s.slice j)
        ∧ (s.sliceWays p ≠ [] → ∃ l ∈ (t.slice p).lines, l.line = q.line ∧ l.key = q.key ∧ q.secs &&& ~~~ l.valid = 0#4
          ∧ (q.kind ≠ .read → q.secs &&& ~~~ l.dirty = 0#4))
        ∧ (∀ l ∈ (t.slice p).lines, l.line = q.line → (∀ m ∈ (s.slice p).lines, ¬ (m.line = q.line ∧ m.key = q.key)) →
          l.way ∈ s.sliceWays p)
        ∧ (∀ l ∈ (t.slice p).lines, l.line = q.line → l.key = q.key)
        ∧ (∀ l ∈ (s.slice p).lines, sharedSet l.line ≠ sharedSet q.line → l ∈ (t.slice p).lines)
        ∧ (let miss := (s.slice p).missing q
          miss ≠ 0#4 → ∃ z ∈ t.traffic.get [] q.up, z.line = q.line ∧ z.key = q.key ∧ z.secs = miss ∧ z.slot = q.slot ∧ z.cls = q.cls
            ∧ z.kind = q.kind ∧ z.lat = q.lat ∧ z.age = s.now)
        ∧ (∀ l ∈ (s.slice p).lines, l.dirty ≠ 0#4 → (∀ m ∈ (t.slice p).lines, ¬ (m.line = l.line ∧ m.key = l.key)) →
          ∃ z ∈ t.traffic.get [] (128 + (rowName (128 * l.line)).1 / 64), z.line = l.line ∧ z.key = l.key ∧ z.kind = .write
            ∧ z.secs = l.dirty ∧ z.slot = q.slot ∧ z.cls = q.cls)) := by
  intro p
  have hx : exec .requestSchedule s = execRequestSchedule s := rfl
  unfold execRequestSchedule at hx
  dsimp only at hx
  refine ⟨fun h => ?_, fun k q h => ?_⟩
  · rw [hx, show s.nextRequest s.ev.unit = none from h]
  · rw [show s.nextRequest s.ev.unit = some (k, q) from h] at hx
    obtain ⟨htake, hmem, htok, hno⟩ := takeRequest_spec s p k q
    set s1 := s.takeRequest p k q with hs1
    by_cases hp : p < 128
    · obtain ⟨t, ht, he, hlow, hself, hother, hmiss, hback⟩ := serveSlice_spec s1 p q
      have hsl (j : Nat) : s1.slice j = s.slice j := by rw [htake]; rfl
      have hways : s1.sliceWays p = s.sliceWays p := by rw [htake]; rfl
      have hnow : s1.now = s.now := by rw [htake]
      rw [hsl, hways] at hself hmiss hback
      obtain ⟨l1, l2, l3, l4⟩ := serve_lines (s.slice p) (fun w => sliceWays_lt (s := s) (inst := p)) q
      rw [serve_missing, hnow] at hmiss
      have hbuckets : t.buckets = s1.buckets := by rw [he]
      refine ⟨t, ?_, ?_, ?_, ?_, ?_, ?_, fun _ => ⟨?_, fun j hj => (hother j hj).trans (hsl j), ?_⟩⟩
      · rw [hx, ← ht]
        exact congrArg _ (if_pos hp)
      · rw [he, htake]
      · rw [hlow p hp]; exact hmem
      · intro h1 h2 h3 h4
        rw [bucket_congr hbuckets (by rw [he]) (by rw [he])]
        exact htok ⟨h1, h2, h3, h4⟩
      · exact fun hk => hbuckets.trans (hno hk)
      · exact fun h => absurd hp (Nat.not_lt.2 h)
      · rw [he, htake]
      · rw [hself]
        exact ⟨l1, l2, l3, l4, hmiss, fun l hl hd hn => hback l (serve_back _ _ _ hl hd hn)⟩
    · refine ⟨_, hx.trans (congrArg _ (if_neg hp)), ?_, hmem, fun h1 h2 h3 h4 => ?_, hno, fun _ => ⟨?_, ?_⟩, fun h => absurd h hp⟩
      · unfold State.serveStack State.setPch
        rw [← hs1, htake]
      · exact (bucket_congr rfl rfl rfl _ _ _).trans (htok ⟨h1, h2, h3, h4⟩)
      · have hpch : s1.pch q.pch = s.pch q.pch := by rw [htake]; rfl
        unfold State.serveStack
        rw [← hs1, pch_setPch_self, hpch]
        rw [htake]
      · show s1.slices = s.slices
        rw [htake]
end Sys2Proof.Machine
end

section
/-! SUPPORT. A write of a regulator (R100, R101, R103). -/

namespace Sys2Proof.Machine

theorem regRange_l2RegAddr {n k : Nat} (hn : n < 64) (hk : k < 6) (v : W64) : regRange (l2RegAddr n k) v = true := by
  have e : l2RegAddr n k = 0xFF0000300000 + n * 0x40 + 8 * k := rfl
  have hq : rvQtabAddr = 0xFF0000720000 := rfl
  have ht : trialAddr 0 = 0xFF0000743000 := rfl
  have hp : bootAddr 0x100 = 0xFF0000780100 := rfl
  have hf : bootAddr 0x200 = 0xFF0000780200 := rfl
  simp only [regRange, Bool.and_eq_true, decide_eq_true_eq, beq_iff_eq]
  iterate 8 rw [if_neg (by omega)]
/-- The value a regulator takes from a write. -/
def l2RegValue (old v : W64) : W64 := (⟨0, bitsM 63 8 ||| 3, 0⟩ : RegSpec).written old v
theorem fld_l2RegValue (old v : W64) {hi lo : Nat} (hhi : hi < 64) (h : 8 ≤ lo ∨ hi ≤ 1) :
    fld (l2RegValue old v) hi lo = fld v hi lo := by
  refine fld_written (r := ⟨0, bitsM 63 8 ||| 3, 0⟩) hhi (fun j h1 h2 => ⟨?_, by simp⟩) old v
  have h3 : (3 : W64) = bitsM 1 0 := by decide
  rw [h3, BitVec.getLsbD_or, bitsM_getLsbD (by omega) (by omega), bitsM_getLsbD (by omega) (by omega)]
  simp only [Bool.or_eq_true, decide_eq_true_eq]
  omega

-- ## The buckets of one regulator

/-- The buckets of a regulator at several instances are set. -/
def State.setBuckets (s : State) (slot k : Nat) (f : Nat → Nat) (l : List Nat) : State :=
    l.foldl (fun t i => t.setBucket i slot k (f i)) s
theorem setBuckets_frame (s : State) (slot k : Nat) (f : Nat → Nat) (l : List Nat) :
    s.setBuckets slot k f l = { s with buckets := (s.setBuckets slot k f l).buckets } := by
  unfold State.setBuckets
  induction l generalizing s with
  | nil => rfl
  | cons i l ih => rw [List.foldl_cons, ih]; rfl
theorem find?_setBuckets (s : State) {slot k i : Nat} (f : Nat → Nat) (l : List Nat) (h :
    i ∈ l ∨ s.buckets.find? (bucketKey i slot k) = some ⟨f i, s.now⟩) :
    (s.setBuckets slot k f l).buckets.find? (bucketKey i slot k) = some ⟨f i, s.now⟩ := by
  unfold State.setBuckets
  induction l generalizing s with
  | nil => exact h.resolve_left List.not_mem_nil
  | cons j l ih =>
    rw [List.foldl_cons]
    refine ih (s.setBucket j slot k (f j)) ?_
    have hb : (s.setBucket j slot k (f j)).buckets = s.buckets.insert (bucketKey j slot k) ⟨f j, s.now⟩ := rfl
    rw [hb, SMap.find?_insert]
    by_cases e : i = j
    · subst e; exact .inr (if_pos rfl)
    · have hk : bucketKey j slot k ≠ bucketKey i slot k := by unfold bucketKey; omega
      rw [if_neg hk]
      exact h.imp_left (fun hm => (List.mem_cons.1 hm).resolve_left e)
theorem bucket_of_find?_none {s : State} {inst slot k : Nat} (hf : s.buckets.find? (bucketKey inst slot k) = none) :
    s.bucket inst slot k = regDepth (s.reg (l2RegAddr slot k)) * 65536 := by
  unfold State.bucket
  dsimp only
  rw [hf]

/-- R100, R101, R103: a write of a regulator. -/
theorem regulatorWrite_steps (s : State) : let p := s.ev.unit
    let b := s.ev.idx
    p < 64 → s.ev.idx < 6 → let a := l2RegAddr p b
    let v := s.ev.val
    ∃ t, exec .regulatorWrite s = .next t ∧ t = { s with mmio := t.mmio, buckets := t.buckets }
      ∧ fld (t.reg a) 63 8 = fld v 63 8 ∧ fld (t.reg a) 1 0 = fld v 1 0 ∧ (∀ z, z ≠ a → t.reg z = s.reg z)
      ∧ ∀ inst, (fld (s.reg a) 0 0 = 0 → fld v 0 0 = 1 → t.bucket inst p b = max 128 (fld v 31 8) * 65536)
        ∧ (fld (s.reg a) 0 0 = 1 → t.bucket inst p b ≤ max 128 (fld v 31 8) * 65536)
        ∧ (inst < 144 → fld (s.reg a) 0 0 = 1 → fld v 0 0 = 1 →
          t.bucket inst p b = min (max 128 (fld v 31 8) * 65536) (s.bucket inst p b)) := by
  intro p b hp hb a v
  set s' := s.setReg a (l2RegValue (s.reg a) v) with hs'
  have hput : s.regPut a v = s' := regPut_of_some (regSpec_l2RegAddr hp hb) (regRange_l2RegAddr hp hb v)
  have hreg : s'.reg a = l2RegValue (s.reg a) v := reg_setReg_self ..
  have hdepth : regDepth (s'.reg a) = max 128 (fld v 31 8) := by
    unfold regDepth
    rw [hreg, fld_l2RegValue _ _ (by omega) (by omega)]
  set gone := s.buckets.keep (fun key _ => key % 512 != p * 8 + b) with hg
  set kept := fun i => min (max 128 (fld v 31 8) * 65536) (s.bucket i p b) with hk
  have hx : exec .regulatorWrite s = .next (if fld (s.reg a) 0 0 = 0 ∨ fld v 0 0 = 0 then { s' with buckets := gone }
      else s'.setBuckets p b kept (List.range 144)) := by
    have h0 : exec .regulatorWrite s = .next (s.regulatorPut p b v) := congrArg _ (if_pos ⟨hp, hb⟩)
    rw [h0]
    unfold State.regulatorPut
    rw [← hput]
    rfl
  split_ifs at hx with hoff
  · have hfind (inst : Nat) : gone.find? (bucketKey inst p b) = none := by
      rw [hg, SMap.find?_keep_key, if_neg]
      unfold bucketKey
      simp only [bne_iff_ne, ne_eq, not_not]
      omega
    have hfull (inst : Nat) : ({ s' with buckets := gone } : State).bucket inst p b = max 128 (fld v 31 8) * 65536 :=
      (bucket_of_find?_none (s := { s' with buckets := gone }) (hfind inst)).trans (congrArg (· * 65536) hdepth)
    refine ⟨_, hx, rfl, ?_, ?_, fun z hz => reg_setReg_ne s _ hz, fun inst => ⟨fun _ _ => hfull inst, fun _ => (hfull inst).le, ?_⟩⟩
    · exact (congrArg (fun r => fld r 63 8) hreg).trans (fld_l2RegValue _ _ (by omega) (by omega))
    · exact (congrArg (fun r => fld r 1 0) hreg).trans (fld_l2RegValue _ _ (by omega) (by omega))
    · intro _ h1 h2
      rw [h1, h2] at hoff
      simp at hoff
  · generalize hl : List.range 144 = l at hx
    have hframe := setBuckets_frame s' p b kept l
    have hbuckets (inst : Nat) (hi : inst ∈ l) := find?_setBuckets s' (slot := p) (k := b) kept l (.inl hi)
    set t := s'.setBuckets p b kept l with ht
    have htreg (z : Nat) : t.reg z = s'.reg z := by rw [hframe]; rfl
    refine ⟨t, hx, ?_, ?_, ?_, fun z hz => (htreg z).trans (reg_setReg_ne s _ hz), fun inst => ⟨fun h _ => absurd (.inl h) hoff,
        fun _ => ?_, ?_⟩⟩
    · rw [hframe]; rfl
    · rw [htreg, hreg, fld_l2RegValue _ _ (by omega) (by omega)]
    · rw [htreg, hreg, fld_l2RegValue _ _ (by omega) (by omega)]
    · refine (bucket_le t inst p b).trans (le_of_eq ?_)
      rw [htreg, hdepth]
    · intro hi _ _
      have hnow : t.now = s'.now := by rw [hframe]
      refine bucket_of_find? ((hbuckets inst (hl ▸ List.mem_range.2 hi)).trans (by rw [hnow])) ?_
      rw [htreg, hdepth]
      exact Nat.min_le_left _ _
end Sys2Proof.Machine
end

section
/-! The memory controllers and the regulators (R72 to R76, R93, R96, R99 to R103). -/

namespace Sys2Proof.Machine

/-- Settles O42, one lemma for each step of a memory controller, a slice or a regulator. -/
theorem memoryControllers : Obligations.MemoryControllers := fun s =>
  have ⟨waits, serves⟩ := requestSchedule_steps s
  ⟨refreshDue_steps s, catchUpEnd_steps s, credit_before (s.pch s.ev.unit), owedRefresh_steps s, perBankRefreshEnd_steps s,
    rowHammerRefresh_steps s, hotrefChange_steps s, memoryRequestComplete_steps s, waits, serves, nextRequest_spec s s.ev.unit,
    tier_spec s s.ev.unit, regulatorWrite_steps s⟩
end Sys2Proof.Machine
end

section
/-! SUPPORT. Events leave the record of errors as it is (R391, R444). -/

namespace Sys2Proof.Machine

theorem walkNow_ras (s : State) (die slot va : Nat) (core : Option Nat) : (s.walkNow die slot va core).1.ras = s.ras := by
  have ht : (s.walkTraffic slot va).ras = s.ras := by rw [walkTraffic_only s slot va]
  unfold State.walkNow
  split
  · rfl
  · split
    · rfl
    · split
      · rfl
      · split
        · exact ht
        · exact ht
theorem engXlate_ras (s : State) (die slot va : Nat) : (s.engXlate die slot va).1.ras = s.ras := by
  unfold State.engXlate
  split
  · rfl
  · split
    · rfl
    · have h := walkNow_ras s die slot va none
      split <;> rename_i e
      · rw [e] at h; exact h
      · exact h
theorem engByte_ras (s : State) (die slot : Nat) (n : Need) (va : Nat) : (s.engByte die slot n va).1.ras = s.ras := by
  have h := engXlate_ras s die slot va
  unfold State.engByte
  split <;> rename_i e <;> rw [e] at h
  · exact h
  · exact h
  · split
    · exact h
    · split_ifs <;> exact h
theorem engBytes_ras (s : State) (die slot : Nat) (need : Need) (va n : Nat) : (s.engBytes die slot need va n).1.ras = s.ras := by
  induction n with
  | zero => rfl
  | succ n ih =>
    unfold State.engBytes
    split <;> rename_i e <;> rw [e] at ih
    · exact ih
    · rename_i s1 l
      have h := engByte_ras s1 die slot need (va + n)
      split <;> rename_i e2 <;> rw [e2] at h
      · exact h.trans ih
      · split_ifs <;> exact h.trans ih
theorem rawPut_ras (s : State) (slot cls : Nat) (l : List (Nat × Attr × Byte)) : (s.rawPut slot cls l).ras = s.ras := by
  unfold State.rawPut
  rw [homeScatter_eq, scatters_frame, engTraffic_only]
theorem rawWrite_ras (s : State) (cls die slot va : Nat) (bs : List Byte) : (s.rawWrite cls die slot va bs).1.ras = s.ras := by
  have h := engBytes_ras s die slot .w va bs.length
  unfold State.rawWrite State.engTargets
  rcases e : s.engBytes die slot .w va bs.length with ⟨s1, x | l⟩ <;> rw [e] at h
  · exact h
  · exact (rawPut_ras _ _ _ _).trans h
theorem gate_ras {α : Type} {s : State} {r : State × Except EStop α} (h : r.1.ras = s.ras) : (s.gate r).1.ras = s.ras := by
  obtain ⟨t, x | a⟩ := r
  · exact h
  · obtain e | ⟨p, tr, e⟩ | e | e := pass_cases s t true
    · rw [gate_of_ok e]; exact h
    · rw [gate_of_ok e]; exact h
    · rw [gate_of_error e]; rfl
    · rw [gate_of_error e]; rfl
theorem engWrite_ras (s : State) (cls die slot va : Nat) (bs : List Byte) : (s.engWrite cls die slot va bs).1.ras = s.ras :=
  gate_ras (rawWrite_ras s cls die slot va bs)
theorem flushEvent_ras (s : State) (slot : Nat) : (s.flushEvent slot).1.ras = s.ras := by
  unfold State.flushEvent
  split
  · rfl
  · dsimp only
    split
    · rfl
    · split
      · rfl
      · split <;> rename_i e
        · exact (congrArg (fun r => r.1.ras) e).symm.trans (engWrite_ras ..)
        · exact (congrArg (fun r => r.1.ras) e).symm.trans (engWrite_ras ..)
theorem flushEvents_ras (s : State) (slot n : Nat) : (s.flushEvents slot n).ras = s.ras := by
  induction n generalizing s with
  | zero => rfl
  | succ n ih =>
    have h := flushEvent_ras s slot
    unfold State.flushEvents
    split <;> rename_i e <;> rw [e] at h
    · exact (ih _).trans h
    · exact h
theorem event_ras (s : State) (slot code fc queue : Nat) (tag : W32) (w1 w2 : W64) :
    (s.event slot code fc queue tag w1 w2).ras = s.ras := by
  unfold State.event
  dsimp only
  split
  · rfl
  · split
    · exact flushEvents_ras ..
    · rfl
end Sys2Proof.Machine
end

section
/-! SUPPORT. Corrected, uncorrectable and lasting errors (R71, R78, R79, R444, R445). -/

namespace Sys2Proof.Machine

-- ## Registers of start-up

theorem bootAddr_ne {i j : Nat} (h : i ≠ j) : bootAddr i ≠ bootAddr j := by unfold bootAddr; omega
theorem reg_setRegFld_ne (s : State) {a b : Nat} (hi lo x : Nat) (h : b ≠ a) :
    (s.setRegFld a hi lo x).reg b = s.reg b := reg_setReg_ne s _ h
theorem setRegFld_keeps (s : State) (a hi lo x : Nat) : let t := s.setRegFld a hi lo x
    t.mem = s.mem ∧ t.burst = s.burst ∧ t.keySlots = s.keySlots ∧ t.poison = s.poison := ⟨rfl, rfl, rfl, rfl⟩
/-- A field that the device has set. -/
theorem fld_setRegFld (s : State) (a : Nat) {hi lo : Nat} (hhi : hi < 64) (hlo : lo ≤ hi) (x : Nat) :
    fld ((s.setRegFld a hi lo x).reg a) hi lo = x % 2 ^ (hi + 1 - lo) :=
  (congrArg (fun v => fld v hi lo) (reg_setReg_self s a _)).trans (fld_setFld _ hhi hlo x)
/-- The other fields of a register that the device has set one of. -/
theorem fld_setRegFld_ne (s : State) (a : Nat) {hi lo hi' lo' : Nat} (hhi : hi < 64) (hlo : lo ≤ hi) (h' : hi' < 64)
    (h : hi < lo' ∨ hi' < lo) (x : Nat) : fld ((s.setRegFld a hi lo x).reg a) hi' lo' = fld (s.reg a) hi' lo' := by
  refine (congrArg (fun v => fld v hi' lo') (reg_setReg_self s a _)).trans (fld_congr (fun j h1 h2 => ?_))
  unfold setFld
  rw [BitVec.getLsbD_or, BitVec.getLsbD_and, BitVec.getLsbD_not, bitsM_getLsbD hhi hlo, BitVec.getLsbD_shiftLeft, BitVec.getLsbD_ofNat]
  have hx : (x % 2 ^ (hi + 1 - lo)).testBit (j - lo) = (decide (j - lo < hi + 1 - lo) && x.testBit (j - lo)) := Nat.testBit_mod_two_pow ..
  rw [hx]
  by_cases hj : j < lo
  · have : ¬ (lo ≤ j ∧ j ≤ hi) := by omega
    simp [hj, this]
    omega
  · have h1 : ¬ (lo ≤ j ∧ j ≤ hi) := by omega
    have h2 : ¬ j - lo < hi + 1 - lo := by omega
    simp [h1, h2]
    omega
theorem ctxEn_congr {s t : State} {n : Nat} (h : t.reg (ctxCfgAddr n) = s.reg (ctxCfgAddr n)) : t.ctxEn n = s.ctxEn n := by
  unfold State.ctxEn; rw [h]
theorem enabledSlots_congr {s t : State} (h : ∀ n, t.reg (ctxCfgAddr n) = s.reg (ctxCfgAddr n)) : t.enabledSlots = s.enabledSlots := by
  unfold State.enabledSlots
  exact List.filter_congr (fun n _ => ctxEn_congr (h n))
theorem enabledSlots_bootReg (s : State) (off : Nat) (v : W64) : (s.setReg (bootAddr off) v).enabledSlots = s.enabledSlots := by
  unfold State.enabledSlots
  refine List.filter_congr (fun n hn => ctxEn_congr (reg_setReg_ne s v ?_))
  have := List.mem_range.1 hn
  unfold ctxCfgAddr bootAddr
  omega

-- ## Lasting faults (R445)

theorem events_ras (u : RasUnit) (l : List Nat) (s : State) :
    (l.foldl (fun s n => s.event n 0x04 fcMemory.toNat 0 0 0 (BitVec.ofNat 64 (RasUnit.name u))) s).ras = s.ras := by
  induction l generalizing s with
  | nil => rfl
  | cons n l ih => exact (ih _).trans (event_ras ..)
theorem mem_lastingFault (s : State) (u : RasUnit) : u ∈ (s.lastingFault u).ras.lasting := by
  unfold State.lastingFault
  split
  · rename_i h
    exact List.contains_iff_mem.1 h
  · dsimp only
    rw [events_ras]
    exact List.mem_append_right _ List.mem_cons_self
/-- Where no context is enabled a lasting fault is only recorded. -/
theorem lastingFault_of_none {s : State} (h : s.enabledSlots = []) (u : RasUnit) : s.lastingFault u = s ∨
    s.lastingFault u = ({ s with ras := (s.lastingFault u).ras } : State).setReg (bootAddr 0x110)
      (BitVec.ofNat 64 (min 65535 (s.lastingFault u).ras.lasting.length)) := by
  unfold State.lastingFault
  split
  · exact .inl rfl
  · right
    dsimp only
    rw [enabledSlots_bootReg]
    have h' : ({ s with ras := { s.ras with lasting := s.ras.lasting ++ [u] } } : State).enabledSlots = [] := h
    rw [h']
    rfl

-- ## Corrected errors (R444)

theorem rasWindow_countCE (s : State) (hi lo x : Nat) : (s.setRegFld (bootAddr 0x108) hi lo x).rasWindow = s.rasWindow := by
  unfold State.rasWindow
  rw [reg_setRegFld_ne _ _ _ _ (bootAddr_ne (by omega))]
/-- The errors of a unit within the window before now. -/
def State.recentErrors (s : State) (u : RasUnit) : List Nat :=
  (s.ras.errs.find? (fun y => y.1 == u)).elim [] (fun y => y.2.filter (fun n => decide (s.now ≤ n + s.rasWindow)))
/-- The state after a corrected error has been counted, and kept with its unit where units gather them. -/
def State.noted (s : State) (u : RasUnit) : State :=
  let t := s.setRegFld (bootAddr 0x108) 31 0 (fld (s.reg (bootAddr 0x108)) 31 0 + 1)
  if RasUnit.gathers u = false then t
  else { t with ras := { s.ras with errs := s.ras.errs.filter (fun e => e.1 != u) ++ [(u, s.recentErrors u ++ [s.now])] } }
theorem corrected_eq (s : State) (u : RasUnit) : s.corrected u =
    if RasUnit.gathers u = true ∧ fld (s.reg (bootAddr 0x100)) 3 0 ≤ (s.recentErrors u).length + 1 then (s.noted u).lastingFault u
    else s.noted u := by
  set t := s.setRegFld (bootAddr 0x108) 31 0 (fld (s.reg (bootAddr 0x108)) 31 0 + 1) with ht
  have hthr : t.reg (bootAddr 0x100) = s.reg (bootAddr 0x100) := reg_setRegFld_ne _ _ _ _ (bootAddr_ne (by omega))
  have hwin : t.rasWindow = s.rasWindow := rasWindow_countCE ..
  cases hg : RasUnit.gathers u with
  | false =>
    unfold State.corrected State.noted
    simp [hg]
  | true =>
    have hc : s.corrected u = if fld (t.reg (bootAddr 0x100)) 3 0 ≤ (t.recentErrors u ++ [s.now]).length
        then ({ t with ras := { s.ras with
          errs := s.ras.errs.filter (fun e => e.1 != u) ++ [(u, t.recentErrors u ++ [s.now])] } } : State).lastingFault u
        else { t with ras := { s.ras with errs := s.ras.errs.filter (fun e => e.1 != u) ++ [(u, t.recentErrors u ++ [s.now])] } } := by
      unfold State.recentErrors State.corrected
      have he : t.ras = s.ras := rfl
      rw [he]
      dsimp only
      rw [if_neg (by simp [hg]), he]
      cases s.ras.errs.find? (fun e => e.1 == u) <;> rfl
    have hrec : t.recentErrors u = s.recentErrors u := by
      unfold State.recentErrors
      rw [hwin]
      rfl
    unfold State.noted
    rw [hc, hrec, hthr, hg, List.length_append, List.length_singleton]
    simp [ht]
theorem noted_spec (s : State) (u : RasUnit) : s.noted u = { s with ras := (s.noted u).ras, mmio := (s.noted u).mmio }
    ∧ (s.noted u).ras.lasting = s.ras.lasting
    ∧ fld ((s.noted u).reg (bootAddr 0x108)) 31 0 = (fld (s.reg (bootAddr 0x108)) 31 0 + 1) % 2 ^ 32 := by
  have hc := fld_setRegFld s (bootAddr 0x108) (hi := 31) (lo := 0) (by omega) (by omega) (fld (s.reg (bootAddr 0x108)) 31 0 + 1)
  unfold State.noted
  dsimp only
  split
  · exact ⟨rfl, rfl, hc⟩
  · exact ⟨rfl, rfl, hc⟩
/-- R444: a corrected error of a unit that exists. -/
theorem correctedError_steps {s : State} {u : RasUnit} (hd : s.ev.data = .ras u) :
    let e := bootAddr 0x108
    let old : List Nat := (s.ras.errs.find? (fun y => y.1 == u)).elim [] (fun y => y.2.filter (fun n => decide (s.now ≤ n + s.rasWindow)))
    let last : Prop := RasUnit.gathers u = true ∧ fld (s.reg (bootAddr 0x100)) 3 0 ≤ old.length + 1
    RasUnit.exists_ u = true → ∃ t, exec .correctedError s = .next t ∧ (last → u ∈ t.ras.lasting)
      ∧ (¬ last → t = { s with ras := t.ras, mmio := t.mmio } ∧ t.ras.lasting = s.ras.lasting
        ∧ fld (t.reg e) 31 0 = (fld (s.reg e) 31 0 + 1) % 2 ^ 32) := by
  intro e old last hu
  have hx : exec .correctedError s = .next (s.corrected u) := by
    show execCorrectedError s = _
    unfold execCorrectedError
    rw [hd]
    exact congrArg _ (if_pos hu)
  have hc : s.corrected u = if last then (s.noted u).lastingFault u else s.noted u := corrected_eq s u
  refine ⟨_, hx, fun hl => ?_, fun hl => ?_⟩
  · rw [hc, if_pos hl]
    exact mem_lastingFault ..
  · rw [hc, if_neg hl]
    exact noted_spec s u

-- ## Uncorrectable errors (R79, R444)

/-- Marking a word changes no stored byte, no register and no record of errors. -/
theorem markWord_keeps (s : State) (u : RasUnit) (owner a : Nat) (scratch : Bool) :
    let t := s.markWord u owner a scratch
    t.mmio = s.mmio ∧ t.mem = s.mem ∧ t.burst = s.burst ∧ t.keySlots = s.keySlots := by
  have hhome (b : Prop) [Decidable b] : let t : State := if b then { s with poison := s.poison.set false (a / 32) true } else s
      t.mmio = s.mmio ∧ t.mem = s.mem ∧ t.burst = s.burst ∧ t.keySlots = s.keySlots := by
    dsimp only
    split <;> exact ⟨rfl, rfl, rfl, rfl⟩
  cases u with
  | row p b r => exact hhome _
  | sliceBank l b => exact hhome _
  | clusterBank k b => exact ⟨rfl, rfl, rfl, rfl⟩
  | link i => exact ⟨rfl, rfl, rfl, rfl⟩
  | coreBank c b =>
    unfold State.markWord
    dsimp only
    split
    · split
      · split <;> exact ⟨rfl, rfl, rfl, rfl⟩
      · exact ⟨rfl, rfl, rfl, rfl⟩
    · exact ⟨rfl, rfl, rfl, rfl⟩
theorem markWord_row {s : State} {p b r a : Nat} (hrow : rowName a = (p, b, r)) (ha : a < hbmEnd) (owner : Nat) (scratch : Bool) :
    (s.markWord (.row p b r) owner a scratch).homePoison a = true := by
  have e : s.markWord (.row p b r) owner a scratch = { s with poison := s.poison.set false (a / 32) true } :=
    if_pos ⟨beq_iff_eq.2 hrow, ha⟩
  rw [e]
  exact SMap.get_set_self false s.poison (a / 32) true
/-- R79, R444: an uncorrectable error of a unit that exists. -/
theorem uncorrectableError_steps {s : State} {u : RasUnit} (hd : s.ev.data = .ras u) :
    let e := bootAddr 0x108
    RasUnit.exists_ u = true → ∃ t, exec .uncorrectableError s = .next t ∧ u ∈ t.ras.lasting
      ∧ (s.enabledSlots = [] → fld (t.reg e) 63 32 = (fld (s.reg e) 63 32 + 1) % 2 ^ 32
        ∧ (∀ p b r, u = .row p b r → rowName s.ev.addr.toNat = (p, b, r) → s.ev.addr.toNat < hbmEnd → t.homePoison s.ev.addr.toNat = true)
        ∧ (∀ k a, t.homeByte k a = s.homeByte k a)) := by
  intro e hu
  obtain ⟨m, hm⟩ : ∃ m, m = s.markWord u s.ev.unit s.ev.addr.toNat s.ev.on := ⟨_, rfl⟩
  obtain ⟨c, hc⟩ : ∃ c, c = m.setRegFld e 63 32 (fld (m.reg e) 63 32 + 1) := ⟨_, rfl⟩
  have hx : exec .uncorrectableError s = .next (c.lastingFault u) := by
    rw [hc, hm]
    show execUncorrectableError s = _
    unfold execUncorrectableError
    rw [hd]
    exact if_neg (by simp [hu])
  refine ⟨_, hx, mem_lastingFault .., fun hn => ?_⟩
  obtain ⟨kmmio, kmem, kburst, kkeys⟩ : m.mmio = s.mmio ∧ m.mem = s.mem ∧ m.burst = s.burst ∧ m.keySlots = s.keySlots :=
    hm ▸ markWord_keeps s u s.ev.unit s.ev.addr.toNat s.ev.on
  obtain ⟨cmem, cburst, ckeys, cpoison⟩ : c.mem = m.mem ∧ c.burst = m.burst ∧ c.keySlots = m.keySlots ∧ c.poison = m.poison := by
    rw [hc]; exact setRegFld_keeps ..
  have hnone : c.enabledSlots = [] := by
    rw [hc]
    exact (enabledSlots_bootReg m 0x108 _).trans ((enabledSlots_congr (fun n => reg_congr kmmio _)).trans hn)
  have hfld : fld (c.reg e) 63 32 = (fld (s.reg e) 63 32 + 1) % 2 ^ 32 := by
    rw [hc, fld_setRegFld _ _ (by omega) (by omega), reg_congr kmmio]
  obtain ⟨hreg, hmem, hburst, hkeys, hpoison⟩ : (c.lastingFault u).reg e = c.reg e ∧ (c.lastingFault u).mem = c.mem
      ∧ (c.lastingFault u).burst = c.burst ∧ (c.lastingFault u).keySlots = c.keySlots ∧ (c.lastingFault u).poison = c.poison := by
    obtain h | h := lastingFault_of_none hnone u
    · rw [h]; exact ⟨rfl, rfl, rfl, rfl, rfl⟩
    · rw [h]; exact ⟨reg_setReg_ne _ _ (bootAddr_ne (by omega)), rfl, rfl, rfl, rfl⟩
  refine ⟨by rw [hreg, hfld], fun p b r hp hrow ha => ?_, fun k a => ?_⟩
  · have hmark : m.homePoison s.ev.addr.toNat = true := by
      rw [hm, hp]
      exact markWord_row hrow ha _ _
    unfold State.homePoison at hmark ⊢
    rw [hpoison, cpoison, hmark]
  · exact homeByte_congr (hmem.trans (cmem.trans kmem)) (hburst.trans (cburst.trans kburst)) (hkeys.trans (ckeys.trans kkeys)) k a

-- ## The patrol scrubber (R78)

/-- The request of a scrub. -/
theorem mem_scrubRequest (s : State) (a : Nat) (kind : TKind) :
    ∃ z ∈ (s.scrubRequest a kind).traffic.get [] (128 + (rowName a).1 / 64), z.line = a / 128 ∧ z.cls = 3 ∧ z.kind = kind := by
  unfold State.scrubRequest SMap.get
  dsimp only
  rw [SMap.find?_insert, if_pos rfl]
  exact ⟨_, List.mem_append_right _ List.mem_cons_self, rfl, rfl, rfl⟩
theorem scrubRequest_keeps (s : State) (a : Nat) (kind : TKind) {j : Nat} {z : Traffic} (h : z ∈ s.traffic.get [] j) :
    z ∈ (s.scrubRequest a kind).traffic.get [] j := by
  unfold State.scrubRequest SMap.get
  dsimp only
  rw [SMap.find?_insert]
  split
  · rename_i e
    subst e
    exact List.mem_append_left _ h
  · exact h
/-- A word that a scrub reads: of this die, in HBM, with storage. -/
def State.scrubs (s : State) : Bool :=
  decide (s.ev.addr.toNat < hbmEnd) && (rowName s.ev.addr.toNat).1 / 128 == s.ev.unit && !s.unbacked s.ev.addr.toNat
/-- R78: a scrub reads its word, and writes it back where it counts the error that it corrected. -/
theorem patrolScrub_steps {s : State} {u : RasUnit} (hd : s.ev.data = .ras u) :
    s.ev.unit < 8 → fld (s.reg (mcAddr s.ev.unit 0)) 1 1 = 1 → ∀ p b r, u = .row p b r → p / 128 = s.ev.unit →
    ∃ s1, s1 = { s with traffic := s1.traffic, nextId := s1.nextId } ∧ exec .patrolScrub s = exec .correctedError s1
      ∧ (s.ev.addr.toNat < hbmEnd → (rowName s.ev.addr.toNat).1 / 128 = s.ev.unit → s.unbacked s.ev.addr.toNat = false →
        ∃ z ∈ s1.traffic.get [] (128 + (rowName s.ev.addr.toNat).1 / 64),
          z.line = s.ev.addr.toNat / 128 ∧ z.cls = 3 ∧ z.kind = .read) := by
  intro hunit hon p b r hu hp
  subst hu
  set a := s.ev.addr.toNat with ha
  set s0 := if s.scrubs = true then s.scrubRequest a .read else s with hs0
  set s2 := if (s.scrubs && rowName a == (p, b, r)) = true then s0.scrubRequest a .write else s0 with hs2
  have h0 : s0 = { s with traffic := s0.traffic, nextId := s0.nextId } := by rw [hs0]; split <;> rfl
  have hev : s0.ev = s.ev := by rw [h0]
  have hx : exec .patrolScrub s =
      if RasUnit.exists_ (.row p b r) = true ∧ p / 128 = s.ev.unit then .next (s2.corrected (.row p b r)) else .next s0 := by
    show execPatrolScrub s = _
    unfold execPatrolScrub
    dsimp only
    rw [if_neg (by omega)]
    rw [show (if (decide (s.ev.addr.toNat < hbmEnd) && (rowName s.ev.addr.toNat).1 / 128 == s.ev.unit
        && !s.unbacked s.ev.addr.toNat) = true
      then s.scrubRequest s.ev.addr.toNat .read else s) = s0 from rfl, hev, hd]
    rfl
  have hread : s.ev.addr.toNat < hbmEnd → (rowName s.ev.addr.toNat).1 / 128 = s.ev.unit → s.unbacked s.ev.addr.toNat = false →
      ∃ z ∈ s0.traffic.get [] (128 + (rowName s.ev.addr.toNat).1 / 64), z.line = s.ev.addr.toNat / 128 ∧ z.cls = 3 ∧ z.kind = .read := by
    intro h1 h2 h3
    have hs : s.scrubs = true := by unfold State.scrubs; simp [h1, h2, h3]
    rw [hs0, if_pos hs]
    exact mem_scrubRequest ..
  have hce (t : State) (ht : t.ev = s.ev) :
      exec .correctedError t = .next (if RasUnit.exists_ (.row p b r) = true then t.corrected (.row p b r) else t) := by
    show execCorrectedError t = _
    unfold execCorrectedError
    rw [ht, hd]
  by_cases he : RasUnit.exists_ (.row p b r) = true
  · have h2 : s2 = { s with traffic := s2.traffic, nextId := s2.nextId } := by
      rw [hs2]
      split
      · unfold State.scrubRequest; rw [h0]
      · exact h0
    refine ⟨s2, h2, ?_, fun h1 h3 h4 => ?_⟩
    · rw [hx, if_pos ⟨he, hp⟩, hce s2 (by rw [h2]), if_pos he]
    · obtain ⟨z, hz, hw⟩ := hread h1 h3 h4
      refine ⟨z, ?_, hw⟩
      rw [hs2]
      split
      · exact scrubRequest_keeps _ _ _ hz
      · exact hz
  · refine ⟨s0, h0, ?_, hread⟩
    rw [hx, if_neg (fun h => he h.1), hce s0 hev, if_neg he]
theorem patrolScrub_off {s : State} (h : 8 ≤ s.ev.unit ∨ fld (s.reg (mcAddr s.ev.unit 0)) 1 1 = 0) : exec .patrolScrub s = .next s :=
  if_pos h
end Sys2Proof.Machine
end

section
/-! SUPPORT. Starts, their end and their timeout (R71, R439, R440, R445). -/

namespace Sys2Proof.Machine

-- ## A start that is overdue

/-- A start that has not had its `OK` in time, whether or not a `START_TIMEOUT` has come (R440). -/
def State.late (s : State) : Bool := decide (s.boot.phase = .started) && (match s.boot.deadline with
  | some dl => decide (dl < s.now)
  | none => false)
theorem overdue_eq (s : State) : s.overdue = if s.late then s.startFails else s := by
  unfold State.overdue State.late
  cases hp : s.boot.phase <;> cases hd : s.boot.deadline <;> simp
theorem fails_lt (s : State) : s.fails < 4 := Nat.mod_lt _ (by decide)
theorem startFails_eq (s : State) : s.startFails = { s with boot := { s.boot with deadline := none }, mmio := s.startFails.mmio } := rfl
theorem fails_startFails (s : State) : s.startFails.fails = min 3 (s.fails + 1) := by
  have h := fld_setRegFld { s with boot := { s.boot with deadline := none } } (bootAddr 8) (hi := 1) (lo := 0) (by omega) (by omega)
    (min 3 (s.fails + 1))
  exact h.trans (Nat.mod_eq_of_lt (by omega))
theorem overdue_keeps (s : State) :
    s.overdue = { s with boot := { s.boot with deadline := s.overdue.boot.deadline }, mmio := s.overdue.mmio } := by
  rw [overdue_eq]
  split
  · exact startFails_eq s
  · rfl
theorem fails_overdue (s : State) : s.overdue.fails = if s.late then min 3 (s.fails + 1) else s.fails := by
  rw [overdue_eq]
  split
  · exact fails_startFails s
  · rfl

-- ## Units that a start removes

/-- What a start removes for a unit with a lasting fault has been removed (R445). -/
def Removed (t : State) : RasUnit → Prop
  | .row p b r => rowKey p b r ∈ t.retiredRows
  | .coreBank c _ => RemovedUnit.cluster (c / 16) ∈ t.removedUnits
  | .clusterBank k _ => RemovedUnit.cluster k ∈ t.removedUnits
  | .sliceBank l w => RemovedUnit.ways l w ∈ t.removedUnits
  | .link j => RemovedUnit.port j ∈ t.removedUnits
/-- A step has removed units and rows, and done nothing else. -/
def RemovesOnly (s t : State) : Prop :=
  t = { s with removedPch := t.removedPch, retiredRows := t.retiredRows, removedUnits := t.removedUnits }
  ∧ (∀ k, k ∈ s.retiredRows → k ∈ t.retiredRows) ∧ ∀ u, u ∈ s.removedUnits → u ∈ t.removedUnits
theorem RemovesOnly.trans {s t u : State} (h : RemovesOnly s t) (h' : RemovesOnly t u) : RemovesOnly s u := by
  obtain ⟨e, r, k⟩ := h
  obtain ⟨e', r', k'⟩ := h'
  refine ⟨?_, fun x hx => r' x (r x hx), fun x hx => k' x (k x hx)⟩
  rw [e', e]
theorem Removed.mono {s t : State} {u : RasUnit} (hr : Removed s u) (h : RemovesOnly s t) : Removed t u := by
  obtain ⟨-, r, k⟩ := h
  cases u with
  | row p b w => exact r _ hr
  | coreBank c b => exact k _ hr
  | clusterBank c b => exact k _ hr
  | sliceBank l b => exact k _ hr
  | link i => exact k _ hr
theorem dropUnit_spec (s : State) (u : RemovedUnit) : RemovesOnly s (s.dropUnit u) ∧ u ∈ (s.dropUnit u).removedUnits := by
  unfold State.dropUnit
  split
  · rename_i h
    exact ⟨⟨rfl, fun _ h => h, fun _ h => h⟩, List.contains_iff_mem.1 h⟩
  · exact ⟨⟨rfl, fun _ h => h, fun _ h => List.mem_append_left _ h⟩, List.mem_append_right _ List.mem_cons_self⟩
theorem removeUnit_spec (s : State) (u : RasUnit) : RemovesOnly s (s.removeUnit u) ∧ Removed (s.removeUnit u) u := by
  cases u with
  | coreBank c b => exact dropUnit_spec s _
  | clusterBank c b => exact dropUnit_spec s _
  | sliceBank l b => exact dropUnit_spec s _
  | link i => exact dropUnit_spec s _
  | row p b r =>
    set t : State := if s.retiredRows.contains (rowKey p b r) then s
      else { s with retiredRows := s.retiredRows ++ [rowKey p b r] } with ht
    have h1 : RemovesOnly s t ∧ rowKey p b r ∈ t.retiredRows := by
      rw [ht]
      split
      · rename_i h
        exact ⟨⟨rfl, fun _ h => h, fun _ h => h⟩, List.contains_iff_mem.1 h⟩
      · exact ⟨⟨rfl, fun _ h => List.mem_append_left _ h, fun _ h => h⟩, List.mem_append_right _ List.mem_cons_self⟩
    have e : s.removeUnit (.row p b r)
      = if 64 < t.retiredOf p ∧ t.removedPch.contains p = false then { t with removedPch := t.removedPch ++ [p] } else t := rfl
    rw [e]
    split
    · exact ⟨h1.1.trans ⟨rfl, fun _ h => h, fun _ h => h⟩, h1.2⟩
    · exact h1
theorem removeUnits_spec (l : List RasUnit) (s : State) :
    RemovesOnly s (l.foldl (fun s u => s.removeUnit u) s) ∧ ∀ u ∈ l, Removed (l.foldl (fun s u => s.removeUnit u) s) u := by
  induction l generalizing s with
  | nil => exact ⟨⟨rfl, fun _ h => h, fun _ h => h⟩, fun u hu => absurd hu List.not_mem_nil⟩
  | cons v l ih =>
    obtain ⟨h1, h2⟩ := ih (s.removeUnit v)
    obtain ⟨k1, k2⟩ := removeUnit_spec s v
    refine ⟨k1.trans h1, fun u hu => ?_⟩
    obtain rfl | hu := List.mem_cons.1 hu
    · exact k2.mono h1
    · exact h2 u hu

-- ## What a start keeps

/-- A step has changed stored bytes, and nothing else. -/
def StoreOnly (s t : State) : Prop := t = { s with mem := t.mem, burst := t.burst, poison := t.poison, stale := t.stale }
theorem loseDirty_storeOnly (s : State) (p : Nat → Bool) : StoreOnly s (s.loseDirty p) := by
  unfold State.loseDirty
  generalize s.stale.keep (fun b _ => p b) = l
  induction l generalizing s with
  | nil => rfl
  | cons e l ih =>
    have h := ih (s.revert e.1 e.2)
    unfold StoreOnly at h ⊢
    rw [List.foldl_cons, h]
    rfl
theorem zeroGranules_storeOnly {s t : State} (h : StoreOnly s t) (gs : List Nat) : StoreOnly s (t.zeroGranules gs) := by
  unfold StoreOnly State.zeroGranules at *
  rw [h]

theorem reg_foldl_setReg_ne {β : Type} (addr : β → Nat) (val : β → W64) (l : List β) (s : State) {a : Nat} (h : ∀ x ∈ l, addr x ≠ a) :
    (l.foldl (fun (r : State) x => r.setReg (addr x) (val x)) s).reg a = s.reg a := by
  induction l generalizing s with
  | nil => rfl
  | cons x l ih =>
    rw [List.foldl_cons, ih _ (fun y hy => h y (List.mem_cons_of_mem _ hy)), reg_setReg_ne _ _ (h x List.mem_cons_self).symm]
theorem reg_foldl_ne {β : Type} (f : State → β → State) (l : List β) (s : State) {a : Nat} (h : ∀ r, ∀ x ∈ l, (f r x).reg a = r.reg a) :
    (l.foldl f s).reg a = s.reg a := by
  induction l generalizing s with
  | nil => rfl
  | cons x l ih => rw [List.foldl_cons, ih _ (fun r y hy => h r y (List.mem_cons_of_mem _ hy)), h s x List.mem_cons_self]
/-- The count of failed starts, and the recovery image, as a start leaves them. -/
theorem startRegs_fails (s t : State) (fails img : Nat) (m : List W64) (warm : Bool) (h : t.mmio = s.startRegs fails img m warm) :
    t.reg (bootAddr 8) = BitVec.ofNat 64 (fails + 8 * img) := by
  unfold State.startRegs at h
  dsimp only at h
  refine (reg_congr h _).trans ?_
  set r := (m.zipIdx).foldl (fun (r : State) x => r.setReg (bootAddr (0x40 + 8 * x.2)) x.1)
    (((State.reset.setReg (bootAddr 0) (s.reg (bootAddr 0) &&& 4)).setReg (bootAddr 8) (BitVec.ofNat 64 (fails + 8 * img))).setReg
      (bootAddr 0x18) (s.reg (bootAddr 0x18))) with hr
  have hreg : r.reg (bootAddr 8) = BitVec.ofNat 64 (fails + 8 * img) := by
    rw [hr, reg_foldl_setReg_ne _ _ _ _ (fun x _ => bootAddr_ne (by omega)), reg_setReg_ne _ _ (bootAddr_ne (by omega)), reg_setReg_self]
  split
  · rw [reg_foldl_ne _ _ _ (fun t d hd => reg_foldl_setReg_ne _ _ _ _ (fun k hk => ?_)), hreg]
    have h1 := List.mem_range.1 hd
    have h2 := List.mem_range.1 hk
    unfold mcAddr bootAddr
    omega
  · exact hreg
theorem fld_fails {fails : Nat} (h : fails < 4) (img : Nat) : fld (BitVec.ofNat 64 (fails + 8 * img)) 1 0 = fails := by
  unfold fld
  rw [BitVec.toNat_ofNat]
  omega

/-- What a start up to step 6 leaves (R439), whatever it was that failed before. -/
theorem startSteps_spec (s : State) (warm : Bool) (m : List W64) (bist : List RasUnit) :
    let t := s.startSteps warm m bist true
    t.power = s.power
    ∧ (t.groups = [] ∧ t.teams = [] ∧ t.grids = [] ∧ t.ecmds = [] ∧ t.remotes = [] ∧ t.mcmds = [] ∧ t.fxs = [] ∧ t.cur = none)
    ∧ t.boot = ⟨.started, some (s.now + 3400000000), s.boot.starts + 1, some m⟩
    ∧ fld (t.reg (bootAddr 8)) 1 0 = s.fails
    ∧ (warm = false → (∀ a, t.homeByte 0 a = 0) ∧ t.keySlots = [])
    ∧ (warm = true → t.keySlots = s.keySlots)
    ∧ ∀ u ∈ s.ras.lasting, Removed t u := by
  intro t
  obtain ⟨hrem, hall⟩ := removeUnits_spec (s.ras.lasting ++ (if warm then [] else bist.filter RasUnit.exists_)) s
  obtain ⟨r, hr⟩ : ∃ r, r = (s.ras.lasting ++ (if warm then [] else bist.filter RasUnit.exists_)).foldl
    (fun s u => s.removeUnit u) s := ⟨_, rfl⟩
  rw [← hr] at hrem hall
  obtain ⟨z, hz⟩ : ∃ z, z = if warm = false ∨ fld (r.reg (bootAddr 0)) 2 2 = 1 then r.zeroHbm
    else (r.loseDirty (fun _ => true)).zeroGranules (r.ended.flatMap (fun n => r.ctxGranules n)) := ⟨_, rfl⟩
  obtain ⟨hpower, hboot, hmmio, hmem, hburst, hkeys, hrows, hunits⟩ : t.power = z.power
      ∧ t.boot = ⟨.started, some (z.now + 3400000000), z.boot.starts + 1, some m⟩
      ∧ t.mmio = z.startRegs s.fails (if s.fails = 3 then 1 else 0) m warm ∧ t.mem = z.mem ∧ t.burst = z.burst
      ∧ t.keySlots = (if warm then z.keySlots else []) ∧ t.retiredRows = z.retiredRows ∧ t.removedUnits = z.removedUnits := by
    rw [hz, hr]
    exact ⟨rfl, rfl, rfl, rfl, rfl, rfl, rfl, rfl⟩
  have hstore : StoreOnly r z := by
    rw [hz]
    split
    · rfl
    · exact zeroGranules_storeOnly (loseDirty_storeOnly r _) _
  have hzs : z.power = s.power ∧ z.now = s.now ∧ z.boot = s.boot ∧ z.keySlots = s.keySlots := by
    rw [hstore, hrem.1]
    exact ⟨rfl, rfl, rfl, rfl⟩
  have hzr : z.retiredRows = r.retiredRows ∧ z.removedUnits = r.removedUnits := by
    rw [hstore]
    exact ⟨rfl, rfl⟩
  obtain ⟨zpower, znow, zboot, zkeys⟩ := hzs
  refine ⟨hpower.trans zpower, ⟨rfl, rfl, rfl, rfl, rfl, rfl, rfl, rfl⟩,
    by rw [hboot, znow, zboot], ?_, fun hw => ?_, fun hw => ?_, fun u hu => ?_⟩
  · rw [startRegs_fails z t _ _ m warm hmmio, fld_fails (fails_lt s)]
  · have hzero : z = r.zeroHbm := by rw [hz, if_pos (.inl hw)]
    refine ⟨fun a => ?_, by rw [hkeys, hw]; rfl⟩
    have hm : t.mem = [] := by rw [hmem, hzero]; rfl
    have hb : t.burst = [] := by rw [hburst, hzero]; rfl
    have htag : t.burst.get 0 (a / 64) = t.keyOf 0 := by rw [hb]; rfl
    rw [homeByte_of_tag htag, hm]
    rfl
  · rw [hkeys, hw]
    exact zkeys
  · have hx := hall u (List.mem_append_left _ hu)
    have hrows' := hrows.trans hzr.1
    have hunits' := hunits.trans hzr.2
    cases u with
    | row p b w => unfold Removed at *; rw [hrows']; exact hx
    | coreBank c b => unfold Removed at *; rw [hunits']; exact hx
    | clusterBank c b => unfold Removed at *; rw [hunits']; exact hx
    | sliceBank l b => unfold Removed at *; rw [hunits']; exact hx
    | link i => unfold Removed at *; rw [hunits']; exact hx

/-- A start without a failing step, that measures what the present step gives. -/
theorem startEv_spec {s : State} (hbad : s.ev.on = false) (htrip : s.power.trip = false) (warm : Bool) :
    let m := (List.range 8).map (Config.measure s.ev.idx)
    let w := warm && s.boot.measured == some m
    let t := s.startEv warm
    t.groups = [] ∧ t.teams = [] ∧ t.grids = [] ∧ t.ecmds = [] ∧ t.remotes = [] ∧ t.mcmds = [] ∧ t.fxs = [] ∧ t.cur = none
    ∧ t.boot = ⟨.started, some (s.now + 3400000000), s.boot.starts + 1, some m⟩
    ∧ (fld (t.reg (bootAddr 8)) 1 0 = if s.late then min 3 (fld (s.reg (bootAddr 8)) 1 0 + 1) else fld (s.reg (bootAddr 8)) 1 0)
    ∧ (w = false → (∀ a, t.homeByte 0 a = 0) ∧ t.keySlots = [])
    ∧ (w = true → t.keySlots = s.keySlots)
    ∧ ∀ u ∈ s.ras.lasting, Removed t u := by
  intro m w t
  have ho := overdue_keeps s
  have hmeas : s.overdue.boot.measured = s.boot.measured := by rw [ho]
  obtain ⟨hpower, ⟨h1, h2, h3, h4, h5, h6, h7, h8⟩, hboot, hfails, hcold, hwarm, hlast⟩ :=
    startSteps_spec s.overdue w m (Payload.units_ s.ev.data)
  have hop : s.overdue.power = s.power := by rw [ho]
  have ht : t = s.overdue.startSteps w m (Payload.units_ s.ev.data) true := by
    show s.start warm s.ev.idx (Payload.units_ s.ev.data) s.ev.on = _
    unfold State.start
    dsimp only
    rw [hbad, hmeas]
    show (if (s.overdue.startSteps w m (Payload.units_ s.ev.data) true).power.trip then _ else _) = _
    rw [hpower, hop, htrip]
    rfl
  rw [ht]
  refine ⟨h1, h2, h3, h4, h5, h6, h7, h8, hboot.trans ?_, hfails.trans ?_, hcold, fun hw => (hwarm hw).trans ?_, fun u hu => hlast u ?_⟩
  · rw [ho]
  · exact fails_overdue s
  · rw [ho]
  · rw [ho]; exact hu
end Sys2Proof.Machine
end

section
/-! SUPPORT. `OK` and the timeout of a start (R440), the power loop (R449). -/

namespace Sys2Proof.Machine

/-- The host port is open, and `BOOT_CAP` shows the list (R440, R443). -/
theorem opens_spec (s : State) : s.opens = { s with mmio := s.opens.mmio, boot := { s.boot with phase := .open_, deadline := none } }
    ∧ fld (s.opens.reg (bootAddr 8)) 4 4 = 1 ∧ fld (s.opens.reg (bootAddr 8)) 1 0 = 0 ∧ s.opens.reg (bootAddr 0x10) = s.capBase
    ∧ s.opens.opened = true := by
  obtain ⟨r, hr⟩ : ∃ r,
    r = ({ s with boot := { s.boot with phase := .open_, deadline := none } } : State).setRegFld (bootAddr 8) 1 0 0 := ⟨_, rfl⟩
  have he : s.opens = (r.setRegFld (bootAddr 8) 4 4 1).setReg (bootAddr 0x10) s.capBase := by rw [hr]; rfl
  have h8 : s.opens.reg (bootAddr 8) = (r.setRegFld (bootAddr 8) 4 4 1).reg (bootAddr 8) := by
    rw [he, reg_setReg_ne _ _ (bootAddr_ne (by omega))]
  have hok : fld (s.opens.reg (bootAddr 8)) 4 4 = 1 := by rw [h8, fld_setRegFld _ _ (by omega) (by omega)]; rfl
  refine ⟨rfl, hok, ?_, by rw [he, reg_setReg_self], (opened_iff _).2 ⟨rfl, hok⟩⟩
  rw [h8, fld_setRegFld_ne _ _ (by omega) (by omega) (by omega) (by omega), hr, fld_setRegFld _ _ (by omega) (by omega)]
  rfl

/-- R440: `OK` and `START_TIMEOUT`. -/
theorem startEnd_steps (s : State) :
    let fails := fld (s.reg (bootAddr 8)) 1 0
    let opens : Prop := ∃ t, exec .bootOk s = .next t
      ∧ t = { s with mmio := t.mmio, boot := { s.boot with phase := .open_, deadline := none } }
      ∧ fld (t.reg (bootAddr 8)) 4 4 = 1 ∧ fld (t.reg (bootAddr 8)) 1 0 = 0 ∧ t.reg (bootAddr 0x10) = s.capBase ∧ t.opened = true
    (∀ dl, s.boot.phase = .started → s.boot.deadline = some dl →
      (s.now < dl → exec .startTimeout s = .next s)
      ∧ (dl ≤ s.now → ∃ t, exec .startTimeout s = .next t ∧ t = { s with mmio := t.mmio, boot := { s.boot with deadline := none } }
        ∧ fld (t.reg (bootAddr 8)) 1 0 = min 3 (fails + 1))
      ∧ (s.now ≤ dl → opens)
      ∧ (dl < s.now → ∃ t, exec .bootOk s = .next t ∧ t = { s with mmio := t.mmio, boot := { s.boot with deadline := none } }
        ∧ fld (t.reg (bootAddr 8)) 1 0 = min 3 (fails + 1)))
    ∧ (s.boot.phase = .open_ → opens)
    ∧ (s.boot.phase = .off ∨ (s.boot.phase = .started ∧ s.boot.deadline = none) → exec .bootOk s = .next s)
    ∧ (s.boot.phase ≠ .started ∨ s.boot.deadline = none → exec .startTimeout s = .next s) := by
  intro fails opens
  have hok : exec .bootOk s = .next s.bootOk := rfl
  have hto : exec .startTimeout s = execStartTimeout s := rfl
  have hfail : s.startFails = { s with mmio := s.startFails.mmio, boot := { s.boot with deadline := none } }
      ∧ fld (s.startFails.reg (bootAddr 8)) 1 0 = min 3 (fails + 1) := ⟨rfl, fails_startFails s⟩
  have hopen : s.bootOk = s.opens → opens := fun h => ⟨_, by rw [hok, h], opens_spec s⟩
  unfold State.bootOk at hok hopen
  unfold execStartTimeout at hto
  refine ⟨fun dl hp hd => ?_, fun hp => ?_, fun h => ?_, fun h => ?_⟩
  · simp only [hp, hd] at hok hopen hto
    refine ⟨fun h => ?_, fun h => ⟨_, ?_, hfail⟩, fun h => ?_, fun h => ⟨_, ?_, hfail⟩⟩
    · rw [hto, if_neg (Nat.not_le.2 h)]
    · rw [hto, if_pos h]
    · exact hopen (if_neg (Nat.not_lt.2 h))
    · rw [hok, if_pos h]
  · simp only [hp] at hopen
    exact hopen trivial
  · obtain hp | ⟨hp, hd⟩ := h
    · simpa only [hp] using hok
    · simpa only [hp, hd] using hok
  · obtain hp | hd := h
    · cases hp' : s.boot.phase with
      | started => exact absurd hp' hp
      | off => simpa only [hp'] using hto
      | open_ => simpa only [hp'] using hto
    · cases hp' : s.boot.phase <;> simpa only [hp', hd] using hto

/-- R449: the power loop. -/
theorem power_steps (s : State) : let w := min 65535 s.ev.val.toNat
    let lim := fld (s.reg (bootAddr 0x200)) 15 0
    let mhz (t : State) : Nat := fld (t.reg (bootAddr 0x208)) 47 32
    (s.now < s.power.last + 850000 → exec .powerSample s = .next s)
    ∧ (s.power.last + 850000 ≤ s.now → 500 ≤ mhz s → mhz s ≤ 850 → ∃ t, exec .powerSample s = .next t
      ∧ t = { s with mmio := t.mmio, power := { s.power with last := s.now } } ∧ fld (t.reg (bootAddr 0x208)) 15 0 = w
      ∧ mhz t = if s.power.trip then 500 else if lim < w then max 500 (mhz s - 50)
          else if 100 * w < 95 * lim then min 850 (mhz s + 50) else mhz s)
    ∧ (∃ t, exec .thermalTrip s = .next t ∧ t = { s with mmio := t.mmio, power := { s.power with trip := true } } ∧ mhz t = 500)
    ∧ exec .thermalTripClear s = .next { s with power := { s.power with trip := false } } := by
  intro w lim mhz
  have hset (t : State) (n : Nat) (hn : n < 2 ^ 16) : mhz (t.setMhz n) = n :=
    (fld_setRegFld t (bootAddr 0x208) (hi := 47) (lo := 32) (by omega) (by omega) n).trans (Nat.mod_eq_of_lt hn)
  have hkeep (t : State) (n : Nat) : fld ((t.setMhz n).reg (bootAddr 0x208)) 15 0 = fld (t.reg (bootAddr 0x208)) 15 0 :=
    fld_setRegFld_ne t (bootAddr 0x208) (by omega) (by omega) (by omega) (by omega) n
  refine ⟨fun h => if_pos h, fun h h5 h8 => ?_, ⟨_, rfl, rfl, hset _ _ (by omega)⟩, rfl⟩
  obtain ⟨p, hp⟩ : ∃ p, p = ({ s with power := { s.power with last := s.now } } : State).setRegFld (bootAddr 0x208) 15 0 w := ⟨_, rfl⟩
  have hframe : p = { s with mmio := p.mmio, power := { s.power with last := s.now } } := by rw [hp]; rfl
  have hw : fld (p.reg (bootAddr 0x208)) 15 0 = w := by
    rw [hp, fld_setRegFld _ _ (by omega) (by omega)]
    exact Nat.mod_eq_of_lt (by omega)
  have hm : mhz p = mhz s := by
    rw [hp]
    exact fld_setRegFld_ne _ (bootAddr 0x208) (by omega) (by omega) (by omega) (by omega) w
  have hx : exec .powerSample s = .next (if s.power.trip then p.setMhz 500 else if lim < w then p.setMhz (max 500 (mhz p - 50))
      else if 100 * w < 95 * lim then p.setMhz (min 850 (mhz p + 50)) else p) := by
    rw [hp]
    exact if_neg (Nat.not_lt.2 h)
  have hset' (n : Nat) (hn : n < 2 ^ 16) : p.setMhz n = { s with mmio := (p.setMhz n).mmio, power := { s.power with last := s.now } }
      ∧ fld ((p.setMhz n).reg (bootAddr 0x208)) 15 0 = w ∧ mhz (p.setMhz n) = n :=
    ⟨by rw [hframe]; rfl, (hkeep p n).trans hw, hset p n hn⟩
  rw [hm] at hx
  refine ⟨_, hx, ?_⟩
  split
  · exact hset' _ (by omega)
  · split
    · exact hset' _ (by omega)
    · split
      · exact hset' _ (by omega)
      · exact ⟨hframe, hw, hm⟩
end Sys2Proof.Machine
end

section
/-! SUPPORT. The attestation report (R441, R442). -/

namespace Sys2Proof

-- ## Lengths (FIPS 202, RFC 8032)

namespace Crypto

@[simp] theorem leBytes_length (n v : Nat) : (leBytes n v).length = n := by simp [leBytes]
theorem keccak_length {a : Sponge} (h : a.length = 25) : (keccak a).length = 25 := by
  unfold keccak
  generalize List.range 24 = l
  induction l generalizing a with
  | nil => exact h
  | cons r l ih => exact ih (by unfold iota sponge; rw [List.length_map, List.length_range])
theorem absorbAll_length (n : Nat) {a : Sponge} (h : a.length = 25) (m : List Byte) : (absorbAll n a m).length = 25 := by
  induction n generalizing a m with
  | zero => exact h
  | succ n ih => exact ih (keccak_length (by rw [List.length_map, List.length_zipIdx, h])) _
theorem squeeze_length (n : Nat) {a : Sponge} (h : a.length = 25) : (squeeze n a).length = 136 * n := by
  induction n generalizing a with
  | zero => rfl
  | succ n ih =>
    have hblock : ((a.take 17).flatMap (fun w => leBytes 8 w.toNat)).length = 136 := by
      rw [List.length_flatMap]
      simp [h]
    unfold squeeze
    rw [List.length_append, hblock, ih (keccak_length h)]
    omega
theorem shake256_length (m : List Byte) (n : Nat) : (shake256 m n).length = n := by
  unfold shake256
  dsimp only
  rw [List.length_take, squeeze_length _ (absorbAll_length _ List.length_replicate _)]
  omega
theorem edPublic_length (key : List Byte) : (edPublic key).length = 57 := leBytes_length ..
theorem edSign_length (key m : List Byte) : (edSign key m).length = 114 := by
  unfold edSign EdPt.enc
  dsimp only
  rw [List.length_append, leBytes_length, leBytes_length]

end Crypto

namespace Machine

theorem quadBytes_length (m : List W64) : (quadBytes m).length = 8 * m.length := by
  unfold quadBytes
  rw [List.length_flatMap]
  simp [Nat.mul_comm]
theorem homeBytes_length (s : State) (key a n : Nat) : (s.homeBytes key a n).length = n := by simp [State.homeBytes]

-- ## Writes by physical address, whatever has storage

/-- The bytes of a physical write that have storage. -/
def State.backedRun (s : State) (a : Nat) (bs : List Byte) : List (Nat × Byte) := (runOf a bs).filter (fun p => !s.unbacked p.1)
theorem physWrite_eq (s : State) (a : Nat) (bs : List Byte) : s.physWrite a bs =
    (s.trafficks 0 3 .write ⟨0, 0, false⟩ ((s.backedRun a bs).map Prod.fst)).homeWrite 0 (s.backedRun a bs) := by
  unfold State.physWrite State.backedRun runOf
  simp only [canon_false]
theorem physWrite_frame (s : State) (a : Nat) (bs : List Byte) : HomeFrame s (s.physWrite a bs) := by
  rw [physWrite_eq]
  exact (trafficks_only ..).sameStore.frame.trans (homeWrite_frame ..)
theorem physWrite_unbacked {s : State} (a : Nat) (bs : List Byte) {x : Nat} (h : s.unbacked x = true) :
    (s.physWrite a bs).homeByte 0 x = s.homeByte 0 x := by
  rw [physWrite_eq, homeWrite_homeByte_ne, (trafficks_only ..).sameStore.homeByte]
  intro hm
  obtain ⟨q, hq, rfl⟩ := List.mem_map.1 hm
  have := (List.mem_filter.1 hq).2
  simp [h] at this
theorem physWrite_far {s : State} {a : Nat} {bs : List Byte} {x : Nat} (h : ∀ j, j < bs.length → (a + j) / 64 ≠ x / 64) (k : Nat) :
    (s.physWrite a bs).homeByte k x = s.homeByte k x := by
  rw [physWrite_eq, homeWrite_homeByte_burst, (trafficks_only ..).sameStore.homeByte]
  intro q hq
  obtain ⟨j, hj, ha⟩ := lt_of_mem_runOf (List.mem_filter.1 hq).1
  rw [ha]; exact h j hj
/-- A part of what a physical write writes. -/
theorem physWrite_part {s : State} {a : Nat} {bs pre mid post : List Byte} (e : bs = pre ++ mid ++ post)
    (h : ∀ j, j < bs.length → s.unbacked (a + j) = false) {j c : Nat} (hj : j < mid.length) (hc : c = a + (pre.length + j)) :
    (s.physWrite a bs).homeByte 0 c = mid.getD j 0 := by
  rw [hc]
  refine (physWrite_spec h).2.1 (pre.length + j) _ ?_
  rw [e, List.append_assoc, List.getElem?_append_right (Nat.le_add_right _ _), Nat.add_sub_cancel_left, List.getElem?_append_left hj,
    List.getElem?_eq_getElem hj, List.getD_eq_getElem _ _ hj]
theorem physRead_of_backed {s : State} {a n : Nat} (h : ∀ j, j < n → s.unbacked (a + j) = false) :
    s.physRead a n = s.homeBytes 0 a n := by
  unfold State.physRead State.homeBytes
  refine List.map_congr_left (fun j hj => ?_)
  simp only [canon_false, h j (List.mem_range.1 hj)]
  rfl

-- ## The write of `BOOT_ATT`

theorem regRange_bootAtt (v : W64) : regRange (bootAddr 0x20) v = true := by
  have e : bootAddr 0x20 = 0xFF0000780020 := rfl
  have hq : rvQtabAddr = 0xFF0000720000 := rfl
  have ht : trialAddr 0 = 0xFF0000743000 := rfl
  have hp : bootAddr 0x100 = 0xFF0000780100 := rfl
  have hf : bootAddr 0x200 = 0xFF0000780200 := rfl
  simp only [regRange, Bool.and_eq_true, decide_eq_true_eq, beq_iff_eq]
  iterate 8 rw [if_neg (by omega)]
theorem bootAtt_regPut (s : State) (v : W64) : s.regPut (bootAddr 0x20) v = s.setReg (bootAddr 0x20) v := by
  have hs : regSpec (bootAddr 0x20) = some ⟨0, bitsM 63 0, 0⟩ := regSpec_bootAddr (by omega)
  have hw : (⟨0, bitsM 63 0, 0⟩ : RegSpec).written (s.reg (bootAddr 0x20)) v = v := by
    have h1 : bitsM 63 0 = BitVec.allOnes 64 := by decide
    unfold RegSpec.written
    rw [h1]
    show ((s.reg (bootAddr 0x20) &&& ~~~BitVec.allOnes 64) ||| (v &&& BitVec.allOnes 64)) &&& ~~~(v &&& 0#64) = v
    rw [BitVec.not_allOnes, BitVec.and_zero, BitVec.zero_or, BitVec.and_zero, BitVec.not_zero, BitVec.and_allOnes, BitVec.and_allOnes]
  rw [regPut_of_some hs (regRange_bootAtt v), hw]
/-- The capability list does not depend on `BOOT_ATT`. -/
theorem capBytes_bootAtt (s : State) (v : W64) : (s.setReg (bootAddr 0x20) v).capBytes = s.capBytes := by
  have ho : (s.setReg (bootAddr 0x20) v).opened = s.opened := by
    unfold State.opened
    rw [reg_setReg_ne _ _ (bootAddr_ne (by omega))]
    rfl
  unfold State.capBytes
  rw [ho]
  rfl

/-- R441, R442: the report of what the last start measured. -/
theorem attestation_steps (s : State) : let a := s.ev.val.toNat
    (hbmEnd < a + 427 ∨ s.boot.measured = none → ∃ t, exec .attestationRequest s = .next t ∧ t = { s with mmio := t.mmio })
    ∧ ∀ m, s.boot.measured = some m → m.length = 8 → a + 427 ≤ hbmEnd → ∃ t, exec .attestationRequest s = .next t
      ∧ t.reg (bootAddr 0x20) = s.ev.val
      ∧ ((∀ j, j < 427 → s.unbacked (a + j) = false) →
        let nonce := s.homeBytes 0 a 64
        let digest := Crypto.shake256 s.capBytes 64
        let key := Crypto.shake256 ([0x42, 0x47, 0x4D, 0x37, 0x34, 0x36, 0x30, 0x2D, 0x49, 0x44]
          ++ (List.range 64).map Config.fused ++ quadBytes m) 57
        (∀ j, j < 64 → t.homeByte 0 (a + 64 + j) = nonce.getD j 0)
        ∧ (∀ j, j < 64 → t.homeByte 0 (a + 128 + j) = (quadBytes m).getD j 0)
        ∧ (∀ j, j < 64 → t.homeByte 0 (a + 192 + j) = digest.getD j 0)
        ∧ (∀ j, j < 57 → t.homeByte 0 (a + 256 + j) = (Crypto.edPublic key).getD j 0)
        ∧ ∀ j, j < 114 → t.homeByte 0 (a + 313 + j)
            = (Crypto.edSign key (Crypto.shake256 (nonce ++ quadBytes m ++ digest) 64)).getD j 0)
      ∧ (∀ x, s.unbacked x = true → t.homeByte 0 x = s.homeByte 0 x)
      ∧ ∀ k x, (x / 64 < (a + 64) / 64 ∨ (a + 426) / 64 < x / 64) → t.homeByte k x = s.homeByte k x := by
  intro a
  obtain ⟨r, hr⟩ : ∃ r, r = s.setReg (bootAddr 0x20) s.ev.val := ⟨_, rfl⟩
  have hx : exec .attestationRequest s = .next (match r.boot.measured with
      | none => r
      | some m => if hbmEnd < a + 427 then r else r.physWrite (a + 64) (r.report (r.physRead a 64) (quadBytes m))) := by
    rw [hr, ← bootAtt_regPut]
    rfl
  have hframe : r = { s with mmio := r.mmio } := by rw [hr]; rfl
  have hmeas : r.boot.measured = s.boot.measured := by rw [hframe]
  refine ⟨fun h => ⟨r, ?_, hframe⟩, fun m hm hl ha => ?_⟩
  · rw [hx, hmeas]
    obtain h | h := h
    · cases s.boot.measured with
      | none => rfl
      | some m => exact congrArg _ (if_pos h)
    · rw [h]
  · have hback (x : Nat) : r.unbacked x = s.unbacked x := by rw [hframe]; rfl
    have hbyte (k x : Nat) : r.homeByte k x = s.homeByte k x := homeByte_congr (by rw [hframe]) (by rw [hframe]) (by rw [hframe]) k x
    have hcap : r.capBytes = s.capBytes := by rw [hr]; exact capBytes_bootAtt s _
    set q := quadBytes m with hq
    have hql : q.length = 64 := by rw [hq, quadBytes_length, hl]
    set digest := Crypto.shake256 s.capBytes 64 with hd
    set key := identityKey q with hk
    have hrep (nonce : List Byte) : r.report nonce q = nonce ++ q ++ digest ++ Crypto.edPublic key
        ++ Crypto.edSign key (Crypto.shake256 (nonce ++ q ++ digest) 64) := by
      unfold State.report
      rw [hcap]
    have hlen (nonce : List Byte) (hn : nonce.length = 64) : (r.report nonce q).length = 363 := by
      rw [hrep]
      simp only [List.length_append, hn, hql, hd, Crypto.shake256_length, Crypto.edPublic_length, Crypto.edSign_length]
    have hnl : (r.physRead a 64).length = 64 := by simp [State.physRead]
    refine ⟨r.physWrite (a + 64) (r.report (r.physRead a 64) q), ?_, ?_, fun hb => ?_, fun x hu => ?_, fun k x hfar => ?_⟩
    · rw [hx, hmeas, hm]
      exact congrArg _ (if_neg (Nat.not_lt.2 ha))
    · rw [reg_congr (s := r) (by rw [physWrite_frame r (a + 64) _]), hr, reg_setReg_self]
    · have hread : r.physRead a 64 = s.homeBytes 0 a 64 := by
        rw [physRead_of_backed (fun j hj => (hback _).trans (hb j (by omega)))]
        exact List.map_congr_left (fun j _ => hbyte 0 _)
      rw [hread]
      intro nonce _ _
      have hn : nonce.length = 64 := homeBytes_length ..
      have hb' (j : Nat) (hj : j < (r.report nonce q).length) : r.unbacked (a + 64 + j) = false := by
        rw [hlen _ hn] at hj
        rw [hback, Nat.add_assoc]
        exact hb _ (by omega)
      have hdl : digest.length = 64 := Crypto.shake256_length ..
      obtain ⟨sig, hsig⟩ : ∃ sig, sig = Crypto.edSign key (Crypto.shake256 (nonce ++ q ++ digest) 64) := ⟨_, rfl⟩
      obtain ⟨pub, hpub⟩ : ∃ pub, pub = Crypto.edPublic key := ⟨_, rfl⟩
      have hsl : sig.length = 114 := hsig ▸ Crypto.edSign_length ..
      have hpl : pub.length = 57 := hpub ▸ Crypto.edPublic_length ..
      have hall : r.report nonce q = nonce ++ q ++ digest ++ pub ++ sig := by rw [hrep, hsig, hpub]
      have hpart {pre mid post : List Byte} (e : nonce ++ q ++ digest ++ pub ++ sig = pre ++ mid ++ post) {j c : Nat}
          (hj : j < mid.length) (hc : c = a + 64 + (pre.length + j)) :
          (r.physWrite (a + 64) (r.report nonce q)).homeByte 0 c = mid.getD j 0 :=
        physWrite_part (hall.trans e) hb' hj hc
      refine ⟨fun j hj => hpart (pre := []) (mid := nonce) (post := q ++ digest ++ pub ++ sig)
          (by simp) (by omega) (by rw [List.length_nil]; omega),
        fun j hj => hpart (pre := nonce) (mid := q) (post := digest ++ pub ++ sig) (by simp) (by omega) (by omega),
        fun j hj => hpart (pre := nonce ++ q) (mid := digest) (post := pub ++ sig)
          (by simp) (by omega) (by rw [List.length_append]; omega),
        fun j hj => ?_, fun j hj => ?_⟩
      · exact (hpart (pre := nonce ++ q ++ digest) (mid := pub) (post := sig) (j := j) (c := a + 256 + j) rfl (by omega)
          (by rw [List.length_append, List.length_append]; omega)).trans (by rw [hpub]; rfl)
      · exact (hpart (pre := nonce ++ q ++ digest ++ pub) (mid := sig) (post := []) (j := j) (c := a + 313 + j)
          (List.append_nil _).symm (by omega)
          (by simp only [List.length_append]; omega)).trans (by rw [hsig]; rfl)
    · rw [physWrite_unbacked _ _ ((hback x).trans hu), hbyte]
    · rw [physWrite_far, hbyte]
      intro j hj
      rw [hlen _ hnl] at hj
      omega
end Machine
end Sys2Proof
end

section
/-! Start-up, trust, reliability and power (R71, R439 to R445, R449). -/

namespace Sys2Proof.Machine

/-- A start that nothing hinders: no step of it fails, and the clock is not held at its lowest. -/
theorem start_steps {s : State} (i : Instr) (warm : Bool) (cold : Prop) (hx : exec i s = .next (s.startEv warm))
    (hcold : cold ↔ (warm && s.boot.measured == some ((List.range 8).map (Config.measure s.ev.idx))) = false) :
    s.ev.on = false → s.power.trip = false → ∃ t, exec i s = .next t
    ∧ t.groups = [] ∧ t.teams = [] ∧ t.grids = [] ∧ t.ecmds = [] ∧ t.remotes = [] ∧ t.mcmds = [] ∧ t.fxs = [] ∧ t.cur = none
    ∧ t.boot = ⟨.started, some (s.now + 3400000000), s.boot.starts + 1, some ((List.range 8).map (Config.measure s.ev.idx))⟩
    ∧ (fld (t.reg (bootAddr 8)) 1 0 = if s.late then min 3 (fld (s.reg (bootAddr 8)) 1 0 + 1) else fld (s.reg (bootAddr 8)) 1 0)
    ∧ (cold → (∀ a, t.homeByte 0 a = 0) ∧ t.keySlots = [])
    ∧ (¬ cold → t.keySlots = s.keySlots)
    ∧ ∀ u ∈ s.ras.lasting, Removed t u := by
  intro hbad htrip
  obtain ⟨h1, h2, h3, h4, h5, h6, h7, h8, hboot, hfails, hzero, hkeys, hlast⟩ := startEv_spec hbad htrip warm
  exact ⟨_, hx, h1, h2, h3, h4, h5, h6, h7, h8, hboot, hfails, fun h => hzero (hcold.1 h),
    fun h => hkeys (Bool.not_eq_false _ ▸ fun h' => h (hcold.2 h')), hlast⟩

/-- Settles O43: each step of start-up, of the errors, of the root of trust and of the power unit by its own lemma. -/
theorem deviceSteps : Obligations.DeviceSteps := by
  intro s
  obtain ⟨attest, report⟩ := attestation_steps s
  have hcold : True ↔ (false && s.boot.measured == some ((List.range 8).map (Config.measure s.ev.idx))) = false := by simp
  have hwarm : (¬ s.boot.measured = some ((List.range 8).map (Config.measure s.ev.idx))) ↔
      (true && s.boot.measured == some ((List.range 8).map (Config.measure s.ev.idx))) = false := by simp
  refine ⟨fun hoff => ⟨start_steps .powerOn false True (congrArg _ (if_pos hoff)) hcold, congrArg _ (if_pos hoff),
      congrArg _ (if_pos hoff)⟩,
    fun hon => ⟨congrArg _ (if_neg hon), start_steps .bootCold false True (congrArg _ (if_neg hon)) hcold,
      start_steps .bootWarm true _ (congrArg _ (if_neg hon)) hwarm⟩,
    startEnd_steps s,
    fun u hd => ⟨correctedError_steps hd, uncorrectableError_steps hd, patrolScrub_steps hd⟩,
    patrolScrub_off, ⟨attest, report⟩, power_steps s⟩
end Sys2Proof.Machine
end

section
/-! SUPPORT. A walk that ends: its leaf in the TLBs of all that wait for it, or its fault (R84, R86). -/

namespace Sys2Proof

/-- A function that keeps the default acts on every reading of a map. -/
theorem SMap.get_mapV {α : Type} {d : α} {f : α → α} (hf : f d = d) (m : SMap α) (k : Nat) :
    SMap.get d (SMap.mapV m f) k = f (SMap.get d m k) := by
  unfold SMap.get
  rw [SMap.find?_mapV]
  cases SMap.find? m k with
  | none => exact hf.symm
  | some x => rfl

namespace Machine

-- ## What a walk reads

theorem entryAt_of_trafficOnly {s t : State} (h : TrafficOnly s t) (slot va lv tbl : Nat) :
    t.entryAt slot va lv tbl = s.entryAt slot va lv tbl := by rw [h]; rfl
theorem walkFrom_of_trafficOnly {s t : State} (h : TrafficOnly s t) (slot va lv tbl : Nat) :
    t.walkFrom slot va lv tbl = s.walkFrom slot va lv tbl := by
  induction lv generalizing tbl with
  | zero => unfold State.walkFrom; rw [entryAt_of_trafficOnly h]
  | succ lv ih =>
    unfold State.walkFrom
    rw [entryAt_of_trafficOnly h]
    simp only [ih]
/-- The requests that a walk makes do not change what it finds. -/
theorem walk_of_trafficOnly {s t : State} (h : TrafficOnly s t) (slot va : Nat) : t.walk slot va = s.walk slot va := by
  have hr : t.ctxRoot slot = s.ctxRoot slot := by rw [h]; rfl
  unfold State.walk
  rw [hr, walkFrom_of_trafficOnly h]

-- ## A leaf enters the TLBs

theorem mem_tlbAdd (cap : Nat) (l : List TlbE) (e : TlbE) : e ∈ tlbAdd cap l e := List.mem_append_right _ List.mem_cons_self
theorem core_setCore (s : State) (c j : Nat) (x : CoreSt) : (s.setCore c x).core j = if c = j then x else s.core j := SMap.get_set ..
theorem clus_setClus (s : State) (k j : Nat) (x : ClusterSt) : (s.setClus k x).clus j = if k = j then x else s.clus j := SMap.get_set ..

/-- A leaf enters the TLB of a core and that of its cluster. -/
def State.tlbEnter (s : State) (e : TlbE) (c : Nat) : State :=
  let s := s.setCore c { s.core c with tlb := tlbAdd 128 (s.core c).tlb e }
  s.setClus (c / 16) { s.clus (c / 16) with tlb := tlbAdd 4096 (s.clus (c / 16)).tlb e }
theorem core_tlbEnter (s : State) (e : TlbE) (c j : Nat) : (s.tlbEnter e c).core j =
    if c = j then { s.core c with tlb := tlbAdd 128 (s.core c).tlb e } else s.core j := core_setCore ..
theorem clus_tlbEnter (s : State) (e : TlbE) (c k : Nat) : (s.tlbEnter e c).clus k =
    if c / 16 = k then { s.clus (c / 16) with tlb := tlbAdd 4096 (s.clus (c / 16)).tlb e } else s.clus k := clus_setClus ..
theorem tlbEnters_only (s : State) (e : TlbE) (cs : List Nat) : let t := cs.foldl (fun s c => s.tlbEnter e c) s
    t = { s with cores := t.cores, clusters := t.clusters } := by
  induction cs generalizing s with
  | nil => rfl
  | cons c cs ih => rw [List.foldl_cons, ih]; rfl
theorem tlbEnters_lines (s : State) (e : TlbE) (cs : List Nat) (j : Nat) :
    ((cs.foldl (fun s c => s.tlbEnter e c) s).core j).lines = (s.core j).lines := by
  induction cs generalizing s with
  | nil => rfl
  | cons c cs ih =>
    rw [List.foldl_cons, ih, core_tlbEnter]
    split
    · rename_i h; subst h; rfl
    · rfl
theorem tlbEnters_core_ne (s : State) (e : TlbE) {cs : List Nat} {j : Nat} (h : j ∉ cs) :
    (cs.foldl (fun s c => s.tlbEnter e c) s).core j = s.core j := by
  induction cs generalizing s with
  | nil => rfl
  | cons c cs ih =>
    obtain ⟨hj, hcs⟩ := List.ne_and_not_mem_of_not_mem_cons h
    rw [List.foldl_cons, ih _ hcs, core_tlbEnter, if_neg hj.symm]
/-- A leaf stays in the TLBs that it has entered. -/
theorem tlbEnter_keeps {s : State} {e : TlbE} {j : Nat} (h : e ∈ (s.core j).tlb ∧ e ∈ (s.clus (j / 16)).tlb) (c : Nat) :
    e ∈ ((s.tlbEnter e c).core j).tlb ∧ e ∈ ((s.tlbEnter e c).clus (j / 16)).tlb := by
  rw [core_tlbEnter, clus_tlbEnter]
  constructor
  · split
    · exact mem_tlbAdd ..
    · exact h.1
  · split
    · exact mem_tlbAdd ..
    · exact h.2
theorem tlbEnter_self (s : State) (e : TlbE) (c : Nat) :
    e ∈ ((s.tlbEnter e c).core c).tlb ∧ e ∈ ((s.tlbEnter e c).clus (c / 16)).tlb := by
  rw [core_tlbEnter, clus_tlbEnter, if_pos rfl, if_pos rfl]
  exact ⟨mem_tlbAdd .., mem_tlbAdd ..⟩
theorem tlbEnters_mem (s : State) (e : TlbE) (cs : List Nat) {j : Nat}
    (h : (e ∈ (s.core j).tlb ∧ e ∈ (s.clus (j / 16)).tlb) ∨ j ∈ cs) :
    e ∈ ((cs.foldl (fun s c => s.tlbEnter e c) s).core j).tlb ∧ e ∈ ((cs.foldl (fun s c => s.tlbEnter e c) s).clus (j / 16)).tlb := by
  induction cs generalizing s with
  | nil => exact h.resolve_right List.not_mem_nil
  | cons c cs ih =>
    refine ih (s.tlbEnter e c) ?_
    rcases h with h | h
    · exact Or.inl (tlbEnter_keeps h c)
    · rcases List.mem_cons.1 h with rfl | h
      · exact Or.inl (tlbEnter_self s e j)
      · exact Or.inr h

-- ## The walk ends

/-- What the end of a walk that found a leaf leaves. -/
def State.walked (s : State) (w : Walk) (e : TlbE) : State :=
  let s := w.cores.foldl (fun s c => s.tlbEnter e c) { s with walks := s.walks.filter (fun x => x.id != w.id) }
  { s with engTlb := if w.eng then s.engTlb.set [] w.die (tlbAdd 256 (s.engTlb.get [] w.die) e) else s.engTlb }
/-- What the end of a walk that failed leaves. -/
def State.walkFailed (s : State) (w : Walk) (f : XFault) : State :=
  let ws := updWhere s.walks (fun x => x.id == w.id) (fun x => { x with failed := some f })
  { s with walks := ws.filter (fun x => x.failed.isNone || !x.cores.isEmpty) }
theorem walked_spec (s : State) (w : Walk) (e : TlbE) : let t := s.walked w e
    t = { s with walks := s.walks.filter (fun x => x.id != w.id), cores := t.cores, clusters := t.clusters, engTlb := t.engTlb }
    ∧ (∀ c ∈ w.cores, e ∈ (t.core c).tlb ∧ e ∈ (t.clus (c / 16)).tlb)
    ∧ (∀ j, (t.core j).lines = (s.core j).lines) ∧ (∀ j, j ∉ w.cores → t.core j = s.core j)
    ∧ ∀ d, t.engTlb.get [] d = if w.eng = true ∧ d = w.die then tlbAdd 256 (s.engTlb.get [] d) e else s.engTlb.get [] d := by
  set b : State := { s with walks := s.walks.filter (fun x => x.id != w.id) }
  have hmem (c : Nat) (h : c ∈ w.cores) := tlbEnters_mem b e w.cores (Or.inr h)
  have hlines := tlbEnters_lines b e w.cores
  have hne (j : Nat) (h : j ∉ w.cores) := tlbEnters_core_ne b e h
  have honly := tlbEnters_only b e w.cores
  have hx : s.walked w e = let c := w.cores.foldl (fun s c => s.tlbEnter e c) b
    { c with engTlb := if w.eng then c.engTlb.set [] w.die (tlbAdd 256 (c.engTlb.get [] w.die) e) else c.engTlb } := rfl
  generalize w.cores.foldl (fun s c => s.tlbEnter e c) b = c at hmem hlines hne honly hx
  have heng : c.engTlb = s.engTlb := by rw [honly]
  rw [hx]
  refine ⟨by rw [honly], hmem, hlines, hne, fun d => ?_⟩
  dsimp only
  rw [heng]
  cases w.eng with
  | false => simp
  | true =>
    rw [if_pos rfl, SMap.get_set]
    by_cases h : w.die = d
    · rw [if_pos h, if_pos ⟨rfl, h.symm⟩, h]
    · rw [if_neg h, if_neg (fun h' => h h'.2.symm)]

/-- The walk that has failed is the first that meets its test still, where a core waits for it. -/
theorem find?_failed {ws : List Walk} {w : Walk} {p : Walk → Bool} {f : XFault} (hp : ∀ x : Walk, p { x with failed := some f } = p x)
    (hw : ws.find? p = some w) (hc : w.cores ≠ []) :
    ((updWhere ws p (fun x => { x with failed := some f })).filter (fun x => x.failed.isNone || !x.cores.isEmpty)).find? p
      = some { w with failed := some f } := by
  unfold updWhere
  induction ws with
  | nil => cases hw
  | cons x ws ih =>
    rw [List.map_cons, List.filter_cons]
    by_cases hx : p x = true
    · rw [List.find?_cons_of_pos hx] at hw
      obtain rfl : x = w := Option.some.inj hw
      rw [if_pos hx, if_pos (by simpa using hc), List.find?_cons_of_pos ((hp x).trans hx)]
    · rw [List.find?_cons_of_neg hx] at hw
      rw [if_neg hx]
      split
      · rw [List.find?_cons_of_neg hx, ih hw]
      · exact ih hw

section
variable {s : State} {w : Walk} (hw : s.walks.find? (fun x => x.id == s.ev.unit) = some w)
include hw

theorem walk_id : w.id = s.ev.unit := by simpa using List.find?_some hw
theorem pageWalkComplete_waits (h : w.failed ≠ none ∨ s.walkRuns w = false ∨ s.walkHeld w.slot = true) :
    exec .pageWalkComplete s = .next s := by
  have hc : (w.failed.isSome || !s.walkRuns w || s.walkHeld w.slot) = true := by
    rw [Bool.or_eq_true, Bool.or_eq_true, Bool.not_eq_true', Option.isSome_iff_ne_none, or_assoc]
    exact h
  show execPageWalkComplete s = _
  unfold execPageWalkComplete
  rw [hw]
  exact if_pos hc

variable (hf : w.failed = none) (hr : s.walkRuns w = true) (hk : s.walkHeld w.slot = false)
include hf hr hk

theorem pageWalkComplete_runs : exec .pageWalkComplete s = .next (match s.walk w.slot (65536 * w.region) with
      | .ok e => (s.walkTraffic w.slot (65536 * w.region)).walked w e
      | .error f => (s.walkTraffic w.slot (65536 * w.region)).walkFailed w f) := by
  have hc : ¬ (w.failed.isSome || !s.walkRuns w || s.walkHeld w.slot) = true := by rw [hf, hr, hk]; decide
  show execPageWalkComplete s = _
  unfold execPageWalkComplete
  rw [hw]
  refine (if_neg hc).trans ?_
  dsimp only
  rw [walk_of_trafficOnly (walkTraffic_only s w.slot (65536 * w.region))]
  cases s.walk w.slot (65536 * w.region) with
  | error f => rfl
  | ok e =>
    unfold State.walked
    cases w.eng <;> rfl
/-- A walk that finds a leaf ends in the TLBs of all that wait for it. -/
theorem pageWalkComplete_ok {e : TlbE} (he : s.walk w.slot (65536 * w.region) = .ok e) : ∃ t, exec .pageWalkComplete s = .next t
      ∧ t = { s with
        walks := t.walks, cores := t.cores, clusters := t.clusters, engTlb := t.engTlb, traffic := t.traffic, nextId := t.nextId }
      ∧ (∀ x, x ∈ t.walks ↔ x ∈ s.walks ∧ x.id ≠ s.ev.unit)
      ∧ (∀ c ∈ w.cores, e ∈ (t.core c).tlb ∧ e ∈ (t.clus (c / 16)).tlb)
      ∧ (∀ j, (t.core j).lines = (s.core j).lines) ∧ (∀ j, j ∉ w.cores → t.core j = s.core j)
      ∧ ∀ d, t.engTlb.get [] d = if w.eng = true ∧ d = w.die then tlbAdd 256 (s.engTlb.get [] d) e else s.engTlb.get [] d := by
  have hx := pageWalkComplete_runs hw hf hr hk
  rw [he] at hx
  have ht := walkTraffic_only s w.slot (65536 * w.region)
  obtain ⟨honly, hmem, hlines, hne, heng⟩ := walked_spec (s.walkTraffic w.slot (65536 * w.region)) w e
  generalize s.walkTraffic w.slot (65536 * w.region) = a at hx ht honly hmem hlines hne heng
  replace hx : exec .pageWalkComplete s = .next (a.walked w e) := hx
  generalize a.walked w e = t at hx honly hmem hlines hne heng
  have hcore (j : Nat) : a.core j = s.core j := by rw [ht]; rfl
  have heng' : a.engTlb = s.engTlb := by rw [ht]
  refine ⟨t, hx, by rw [honly, ht], fun x => ?_, hmem, fun j => (hlines j).trans (by rw [hcore]),
    fun j h => (hne j h).trans (hcore j), fun d => by rw [heng, heng']⟩
  have hwalks : t.walks = s.walks.filter (fun x => x.id != w.id) := by rw [honly, ht]
  rw [hwalks, List.mem_filter, bne_iff_ne, walk_id hw]
/-- A walk that fails takes its fault, and goes where no core waits for it. -/
theorem pageWalkComplete_error {f : XFault} (he : s.walk w.slot (65536 * w.region) = .error f) : ∃ t, exec .pageWalkComplete s = .next t
      ∧ t = { s with walks := t.walks, traffic := t.traffic, nextId := t.nextId }
      ∧ (w.cores ≠ [] → t.walks.find? (fun x => x.id == s.ev.unit) = some { w with failed := some f })
      ∧ (w.cores = [] → (∀ x ∈ s.walks, x.id = s.ev.unit → x = w) → ∀ x ∈ t.walks, x.id ≠ s.ev.unit) := by
  have hx := pageWalkComplete_runs hw hf hr hk
  rw [he] at hx
  have ht := walkTraffic_only s w.slot (65536 * w.region)
  generalize s.walkTraffic w.slot (65536 * w.region) = a at hx ht
  have hwalks : (a.walkFailed w f).walks = (updWhere s.walks (fun x => x.id == s.ev.unit) (fun x => { x with failed := some f })).filter
      (fun x => x.failed.isNone || !x.cores.isEmpty) := by rw [ht, ← walk_id hw]; rfl
  refine ⟨_, hx, by rw [ht]; rfl, fun hne => ?_, fun hnil hall x hx' hid => ?_⟩
  · rw [hwalks]
    exact find?_failed (fun _ => rfl) hw hne
  · rw [hwalks, List.mem_filter] at hx'
    obtain ⟨hmem, hkeep⟩ := hx'
    obtain ⟨y, hy, rfl⟩ := List.mem_map.1 hmem
    by_cases h : (y.id == s.ev.unit) = true
    · obtain rfl := hall y hy (beq_iff_eq.1 h)
      rw [if_pos h, hnil] at hkeep
      exact absurd hkeep (by simp)
    · rw [if_neg h] at hid
      exact h (beq_iff_eq.2 hid)
end
end Machine
end Sys2Proof
end

section
/-! SUPPORT. Invalidations: what a command drops, how one is queued, started, held and completed (R90, R91). -/

namespace Sys2Proof.Machine

/-- The fields of a quadword apart from the one replaced. -/
theorem fld_setFld_ne (v : W64) {hi lo hi' lo' : Nat} (hhi : hi < 64) (hlo : lo ≤ hi) (h' : hi' < 64)
    (h : hi < lo' ∨ hi' < lo) (x : Nat) : fld (setFld v hi lo x) hi' lo' = fld v hi' lo' := by
  have hs := fld_setRegFld_ne (State.reset.setReg 0 v) 0 hhi hlo h' h x
  unfold State.setRegFld at hs
  rwa [reg_setReg_self, reg_setReg_self] at hs

-- ## Entries leave every TLB

theorem core_tlbDrop (s : State) (p : TlbE → Bool) (j : Nat) :
    (s.tlbDrop p).core j = { s.core j with tlb := (s.core j).tlb.filter (fun e => !p e) } :=
  SMap.get_mapV (d := CoreSt.init) (f := fun c => { c with tlb := c.tlb.filter (fun e => !p e) }) rfl s.cores j
theorem clus_tlbDrop (s : State) (p : TlbE → Bool) (j : Nat) :
    (s.tlbDrop p).clus j = { s.clus j with tlb := (s.clus j).tlb.filter (fun e => !p e) } :=
  SMap.get_mapV (d := ClusterSt.init) (f := fun c => { c with tlb := c.tlb.filter (fun e => !p e) }) rfl s.clusters j
theorem engTlb_tlbDrop (s : State) (p : TlbE → Bool) (d : Nat) :
    (s.tlbDrop p).engTlb.get [] d = (s.engTlb.get [] d).filter (fun e => !p e) := SMap.get_mapV rfl ..

-- ## What the operations of the queue change

/-- Only the queue of invalidations, what it holds back, the TLBs and the register of commands may have changed; nothing that was not
held is. -/
def InvOnly (s t : State) : Prop := t = { s with
    cores := t.cores, clusters := t.clusters, engTlb := t.engTlb, invq := t.invq, invHeld := t.invHeld, mmio := t.mmio }
  ∧ (∀ a, a ≠ invCmdAddr → t.reg a = s.reg a) ∧ t.invHeld.length ≤ s.invHeld.length
theorem InvOnly.refl (s : State) : InvOnly s s := ⟨rfl, fun _ _ => rfl, le_refl _⟩
theorem InvOnly.trans {s t u : State} (a : InvOnly s t) (b : InvOnly t u) : InvOnly s u := by
  obtain ⟨e1, r1, l1⟩ := a
  obtain ⟨e2, r2, l2⟩ := b
  exact ⟨by rw [e2, e1], fun x hx => (r2 x hx).trans (r1 x hx), l2.trans l1⟩
theorem InvOnly.sameHome {s t : State} (h : InvOnly s t) : SameHome s t := by
  obtain ⟨e, -, -⟩ := h
  exact homeByte_congr (by rw [e]) (by rw [e]) (by rw [e])

theorem invStart_of_running {s : State} {q : InvCmd} {rest : List InvCmd} (hq : s.invq = q :: rest) (hr : q.running = true) :
    s.invStart = s := by
  unfold State.invStart; rw [hq]; exact if_pos hr
theorem invStart_of_idle {s : State} {q : InvCmd} {rest : List InvCmd} (hq : s.invq = q :: rest) (hr : q.running = false) :
    s.invStart = { s.tlbDrop q.kind.hits with invq := { q with running := true, started := s.now, tick := s.tick } :: rest } := by
  unfold State.invStart; rw [hq]; exact if_neg (by rw [hr]; decide)
theorem invStart_of_nil {s : State} (hq : s.invq = []) : s.invStart = s := by
  unfold State.invStart; rw [hq]
theorem invStart_spec (s : State) : InvOnly s s.invStart ∧ s.invStart.invq.length = s.invq.length ∧ s.invStart.invHeld = s.invHeld := by
  cases hq : s.invq with
  | nil => rw [invStart_of_nil hq]; exact ⟨InvOnly.refl s, congrArg _ hq, rfl⟩
  | cons q rest => cases hr : q.running with
    | true => rw [invStart_of_running hq hr]; exact ⟨InvOnly.refl s, congrArg _ hq, rfl⟩
    | false => rw [invStart_of_idle hq hr]; exact ⟨⟨rfl, fun _ _ => rfl, le_refl _⟩, rfl, rfl⟩

/-- The command that a write of `XL_INVCMD` starts. -/
def invKindOf (v : W64) (base : Nat) : InvKind :=
  if fld v 1 0 = 1 then .range (fld v 47 32) base (if fld v 31 16 = 0 then 65536 else fld v 31 16)
  else if fld v 1 0 = 2 then .asid (fld v 47 32)
  else .all
theorem regPut_invCmd (s : State) (v : W64) :
    s.regPut invCmdAddr v = s.setReg invCmdAddr ((⟨0, bitsM 47 16 ||| 3, 0⟩ : RegSpec).written (s.reg invCmdAddr) v) :=
  regPut_of_some regSpec_invCmdAddr rfl
theorem regPut_invCmd_only (s : State) (v : W64) : InvOnly s (s.regPut invCmdAddr v) := by
  rw [regPut_invCmd]
  exact ⟨rfl, fun _ ha => reg_setReg_ne s _ ha, le_refl _⟩
theorem invTake_of_kind {s : State} {v : W64} (base : Nat) (h : fld v 1 0 ≠ 0) : s.invTake v base =
    ({ s.regPut invCmdAddr v with
      invq := (s.regPut invCmdAddr v).invq ++ [(⟨invKindOf v base, false, 0, 0⟩ : InvCmd)] } : State).invStart := if_neg h
theorem invTake_only (s : State) (v : W64) (base : Nat) : InvOnly s (s.invTake v base) := by
  by_cases h : fld v 1 0 = 0
  · have e : s.invTake v base = s.regPut invCmdAddr v := if_pos h
    rw [e]
    exact regPut_invCmd_only s v
  · rw [invTake_of_kind base h]
    refine ((regPut_invCmd_only s v).trans ?_).trans (invStart_spec _).1
    exact ⟨rfl, fun _ _ => rfl, le_refl _⟩
theorem invFree_only (n : Nat) (s : State) : InvOnly s (s.invFree n) := by
  induction n generalizing s with
  | zero => exact InvOnly.refl s
  | succ n ih =>
    unfold State.invFree
    split
    · exact InvOnly.refl s
    · rename_i v base rest hh
      split
      · exact InvOnly.refl s
      · refine InvOnly.trans (t := { s with invHeld := rest }) ⟨rfl, fun _ _ => rfl, ?_⟩ ((invTake_only _ v base).trans (ih _))
        rw [hh]
        exact Nat.le_succ _
/-- Where the queue has room, the oldest held write is taken. -/
theorem invFree_takes {s : State} {h : W64 × Nat} {hs : List (W64 × Nat)} (hh : s.invHeld = h :: hs) (hq : s.invq.length < 17) (n : Nat) :
    (s.invFree (n + 1)).invHeld.length ≤ hs.length := by
  obtain ⟨v, base⟩ := h
  have hc : ¬ (fld v 1 0 ≠ 0 ∧ 17 ≤ s.invq.length) := fun h => absurd h.2 (by omega)
  unfold State.invFree
  rw [hh]
  dsimp only
  rw [if_neg hc]
  obtain ⟨-, -, hl⟩ := (invTake_only { s with invHeld := hs } v base).trans (invFree_only n _)
  exact hl

-- ## A write of `XL_INVCMD` (R90, R91)

section
variable {s : State} {v : W64} (hk : fld v 1 0 ≠ 0)
include hk

theorem invWrite_held (h : s.invHeld ≠ [] ∨ 17 ≤ s.invq.length) :
    s.invWrite v = { s with invHeld := s.invHeld ++ [(v, fld (s.reg invAddrAddr) 51 16 * 65536)] } := by
  unfold State.invWrite
  exact if_pos (by simpa [hk] using h)
theorem invWrite_taken (hh : s.invHeld = []) (hq : s.invq.length < 17) :
    s.invWrite v = ({ s.regPut invCmdAddr v with
      invq := s.invq ++ [(⟨invKindOf v (fld (s.reg invAddrAddr) 51 16 * 65536), false, 0, 0⟩ : InvCmd)] } : State).invStart := by
  have hc : ¬ (!s.invHeld.isEmpty || (fld v 1 0 != 0 && decide (17 ≤ s.invq.length))) = true := by
    simp only [hh, List.isEmpty_nil, Bool.not_true, Bool.false_or, Bool.and_eq_true, decide_eq_true_eq]
    omega
  have hshow : (s.regPut invCmdAddr v).invq = s.invq := by rw [regPut_invCmd]; rfl
  unfold State.invWrite
  dsimp only
  rw [if_neg hc, invTake_of_kind _ hk, hshow]
/-- Behind the command that runs, a command waits. -/
theorem invWrite_queued (hh : s.invHeld = []) (h1 : 1 ≤ s.invq.length) (hq : s.invq.length < 17)
    (hr : ∀ q ∈ s.invq.head?, q.running = true) : s.invWrite v =
      { s.regPut invCmdAddr v with invq := s.invq ++ [⟨invKindOf v (fld (s.reg invAddrAddr) 51 16 * 65536), false, 0, 0⟩] } := by
  rw [invWrite_taken hk hh hq]
  cases hl : s.invq with
  | nil => rw [hl] at h1; exact absurd h1 (by decide)
  | cons x rest => exact invStart_of_running rfl (hr x (by rw [hl]; rfl))
/-- With no command before it, a command starts at once. -/
theorem invWrite_started (hh : s.invHeld = []) (hq : s.invq = []) :
    let k := invKindOf v (fld (s.reg invAddrAddr) 51 16 * 65536)
    s.invWrite v = { (s.regPut invCmdAddr v).tlbDrop k.hits with invq := [⟨k, true, s.now, s.tick⟩] } := by
  rw [invWrite_taken hk hh (by rw [hq]; decide), hq, regPut_invCmd]
  exact invStart_of_idle (q := ⟨_, false, 0, 0⟩) (rest := []) rfl rfl
end

/-- A write that asks for an invalidation: held, queued, or started at once. -/
theorem invalidate_steps {s : State} {i : Instr} {k : Nat} {dropped : TlbE → Prop} (hk0 : 0 < k) (hk4 : k < 4)
    (hx : exec i s = .next (s.invWrite (setFld s.ev.val 1 0 k)))
    (hd : ∀ e, (invKindOf (setFld s.ev.val 1 0 k) (fld (s.reg invAddrAddr) 51 16 * 65536)).hits e = true ↔ dropped e) :
    (s.invHeld ≠ [] ∨ 17 ≤ s.invq.length →
      exec i s = .next { s with invHeld := s.invHeld ++ [(setFld s.ev.val 1 0 k, fld (s.reg invAddrAddr) 51 16 * 65536)] })
    ∧ (s.invHeld = [] → 1 ≤ s.invq.length → s.invq.length < 17 → (∀ q ∈ s.invq.head?, q.running = true) →
      ∃ t q, exec i s = .next t ∧ t = { s with invq := t.invq, mmio := t.mmio } ∧ t.invq = s.invq ++ [q] ∧ q.running = false)
    ∧ (s.invHeld = [] → s.invq = [] → ∃ t q, exec i s = .next t ∧ t.invq = [q] ∧ q.running = true ∧ q.started = s.now
      ∧ q.tick = s.tick
      ∧ (∀ j, ∀ e ∈ (t.core j).tlb, e ∈ (s.core j).tlb ∧ ¬ dropped e)
      ∧ (∀ j, ∀ e ∈ (s.core j).tlb, ¬ dropped e → e ∈ (t.core j).tlb)
      ∧ (∀ j, ∀ e ∈ (t.clus j).tlb, ¬ dropped e) ∧ (∀ d, ∀ e ∈ t.engTlb.get [] d, ¬ dropped e) ∧ SameHome s t) := by
  have hk : fld (setFld s.ev.val 1 0 k) 1 0 ≠ 0 := by
    rw [fld_setFld _ (by omega) (by omega)]
    omega
  refine ⟨fun h => hx.trans (congrArg _ (invWrite_held hk h)), fun hh h1 hq hr => ?_, fun hh hq => ?_⟩
  · rw [invWrite_queued hk hh h1 hq hr, regPut_invCmd] at hx
    exact ⟨_, _, hx, rfl, rfl, rfl⟩
  · rw [invWrite_started hk hh hq] at hx
    generalize invKindOf (setFld s.ev.val 1 0 k) (fld (s.reg invAddrAddr) 51 16 * 65536) = kind at hx hd
    have hmem {l : List TlbE} {e : TlbE} : e ∈ l.filter (fun e => !kind.hits e) ↔ e ∈ l ∧ ¬ dropped e := by
      rw [List.mem_filter, Bool.not_eq_true', ← hd, Bool.not_eq_true]
    have hcore (j : Nat) : ((s.regPut invCmdAddr (setFld s.ev.val 1 0 k)).core j) = s.core j := by rw [regPut_invCmd]; rfl
    refine ⟨_, _, hx, rfl, rfl, rfl, rfl, fun j e he => ?_, fun j e he hn => ?_, fun j e he => ?_, fun d e he => ?_, ?_⟩
    · have he : e ∈ (((s.regPut invCmdAddr (setFld s.ev.val 1 0 k)).tlbDrop kind.hits).core j).tlb := he
      rw [core_tlbDrop, hcore] at he
      exact hmem.1 he
    · show e ∈ (((s.regPut invCmdAddr (setFld s.ev.val 1 0 k)).tlbDrop kind.hits).core j).tlb
      rw [core_tlbDrop, hcore]
      exact hmem.2 ⟨he, hn⟩
    · have he : e ∈ (((s.regPut invCmdAddr (setFld s.ev.val 1 0 k)).tlbDrop kind.hits).clus j).tlb := he
      rw [clus_tlbDrop] at he
      exact (hmem.1 he).2
    · have he : e ∈ ((s.regPut invCmdAddr (setFld s.ev.val 1 0 k)).tlbDrop kind.hits).engTlb.get [] d := he
      rw [engTlb_tlbDrop] at he
      exact (hmem.1 he).2
    · exact (regPut_invCmd_only s (setFld s.ev.val 1 0 k)).sameHome

-- ## The three kinds (R90, R91)

section
variable (v : W64) (b : Nat) (e : TlbE)

theorem hits_range : (invKindOf (setFld v 1 0 1) b).hits e = true ↔ e.asid = fld v 47 32 ∧ b < e.base + e.size
    ∧ e.base < min (b + 65536 * (if fld v 31 16 = 0 then 65536 else fld v 31 16)) (2 ^ 52) := by
  have h : invKindOf (setFld v 1 0 1) b = .range (fld v 47 32) b (if fld v 31 16 = 0 then 65536 else fld v 31 16) := by
    unfold invKindOf
    rw [fld_setFld _ (by omega) (by omega), if_pos (by decide), fld_setFld_ne _ (by omega) (by omega) (by omega) (by omega),
      fld_setFld_ne _ (by omega) (by omega) (by omega) (by omega)]
  rw [h]
  simp only [InvKind.hits, Bool.and_eq_true, beq_iff_eq, decide_eq_true_eq]
  tauto
theorem hits_asid : (invKindOf (setFld v 1 0 2) b).hits e = true ↔ e.asid = fld v 47 32 := by
  have h : invKindOf (setFld v 1 0 2) b = .asid (fld v 47 32) := by
    unfold invKindOf
    rw [fld_setFld _ (by omega) (by omega), if_neg (by decide), if_pos (by decide),
      fld_setFld_ne _ (by omega) (by omega) (by omega) (by omega)]
  rw [h]
  exact beq_iff_eq
theorem hits_all : (invKindOf (setFld v 1 0 3) b).hits e = true ↔ True := by
  have h : invKindOf (setFld v 1 0 3) b = .all := by
    unfold invKindOf
    rw [fld_setFld _ (by omega) (by omega), if_neg (by decide), if_neg (by decide)]
  rw [h]
  exact ⟨fun _ => trivial, fun _ => rfl⟩
end

-- ## The running command completes (R91)

/-- A page of an address space of which a command drops the entry. -/
def InvKind.covers (k : InvKind) (asid : Nat) (pg : Nat × Nat) : Prop :=
  match k with
  | .range a b n => asid = a ∧ pg.1 < min (b + 65536 * n) (2 ^ 52) ∧ b < pg.1 + pg.2
  | .asid a => asid = a
  | .all => True
theorem page_iff_covers (k : InvKind) (asid : Nat) (pg : Nat × Nat) : k.page asid pg = true ↔ k.covers asid pg := by
  cases k with
  | range a b n => simp only [InvKind.page, InvKind.covers, Bool.and_eq_true, beq_iff_eq, decide_eq_true_eq, and_assoc]
  | asid a => exact beq_iff_eq
  | all => exact ⟨fun _ => trivial, fun _ => rfl⟩
/-- What the running command waits for: its start, its time, or a store translated through what it dropped. -/
theorem invWaits_iff (s : State) (q : InvCmd) : (!q.running || decide (s.now < q.started + 640)
        || s.groups.any (fun e => e.2.fifo.any (fun x => x.via.any (q.holds (s.ctxAsid e.2.ctx))))) = true ↔
      (q.running = false ∨ s.now < q.started + 640 ∨ ∃ x ∈ s.groups, ∃ f ∈ x.2.fifo, ∃ v, f.via = some v ∧ v.tick < q.tick
        ∧ ∃ pg ∈ v.pages, q.kind.covers (s.ctxAsid x.2.ctx) pg) := by
  simp only [Bool.or_eq_true, Bool.not_eq_true', decide_eq_true_eq, or_assoc, List.any_eq_true, Option.any_eq_true, InvCmd.holds,
    Bool.and_eq_true, page_iff_covers]
theorem invalidationDone_steps {s : State} {q : InvCmd} {rest : List InvCmd} (hq : s.invq = q :: rest) :
    let waits : Prop := q.running = false ∨ s.now < q.started + 640
      ∨ ∃ x ∈ s.groups, ∃ f ∈ x.2.fifo, ∃ v, f.via = some v ∧ v.tick < q.tick
      ∧ ∃ pg ∈ v.pages, q.kind.covers (s.ctxAsid x.2.ctx) pg
    (waits → exec .invalidationDone s = .next s)
    ∧ (¬ waits → ∃ t, exec .invalidationDone s = .next t
      ∧ fld (t.reg invDoneAddr) 31 0 = (fld (s.reg invDoneAddr) 31 0 + 1) % 2 ^ 32
      ∧ (s.invHeld = [] → ∀ y rest', rest = y :: rest' → y.running = false →
        t.invq = { y with running := true, started := s.now, tick := s.tick } :: rest')
      ∧ (s.invHeld = [] → rest = [] → t.invq = [])
      ∧ (∀ h hs, s.invHeld = h :: hs → rest.length < 17 → t.invHeld.length ≤ hs.length) ∧ SameHome s t) := by
  have hx : exec .invalidationDone s = execInvalidationDone s := rfl
  unfold execInvalidationDone at hx
  rw [hq] at hx
  dsimp only at hx ⊢
  rw [← invWaits_iff]
  refine ⟨fun h => by rw [hx, if_pos h], fun h => ?_⟩
  rw [if_neg h] at hx
  set n := fld (s.reg invDoneAddr) 31 0
  set a : State := ({ s with invq := rest } : State).setRegFld invDoneAddr 31 0 (n + 1)
  obtain ⟨hstart, hlen, hheld⟩ := invStart_spec a
  replace hheld : a.invStart.invHeld = s.invHeld := hheld
  have hfree := invFree_only a.invStart.invHeld.length a.invStart
  have hreg : (a.invStart.invFree a.invStart.invHeld.length).reg invDoneAddr = a.reg invDoneAddr :=
    (hstart.trans hfree).2.1 invDoneAddr (by decide)
  have hnil (h : s.invHeld = []) : a.invStart.invFree a.invStart.invHeld.length = a.invStart := by
    rw [hheld, h]; rfl
  refine ⟨_, hx, ?_, fun h0 y rest' hr hy => ?_, fun h0 hr => ?_, fun h hs hh hl => ?_, ?_⟩
  · rw [hreg]
    exact fld_setRegFld _ _ (by omega) (by omega) _
  · rw [hnil h0, invStart_of_idle (q := y) (rest := rest') hr hy]
    rfl
  · rw [hnil h0, invStart_of_nil hr]
    exact hr
  · have e : a.invStart.invHeld.length = hs.length + 1 := by rw [hheld, hh]; rfl
    rw [e]
    exact invFree_takes (hheld.trans hh) (by rw [hlen]; exact hl) _
  · exact fun k x => ((hstart.trans hfree).sameHome k x).trans (homeByte_congr rfl rfl rfl k x)

end Sys2Proof.Machine
end

section
/-! SUPPORT. Writes of a context slot's register (R88, R89). -/

namespace Sys2Proof.Machine

theorem regRange_ctxCfgAddr {n : Nat} (hn : n < 64) (v : W64) : regRange (ctxCfgAddr n) v = true := by
  have e : ctxCfgAddr n = 0xFF0000200000 + n * 0x10 := rfl
  have hq : rvQtabAddr = 0xFF0000720000 := rfl
  have ht : trialAddr 0 = 0xFF0000743000 := rfl
  have hp : bootAddr 0x100 = 0xFF0000780100 := rfl
  have hf : bootAddr 0x200 = 0xFF0000780200 := rfl
  simp only [regRange, Bool.and_eq_true, decide_eq_true_eq, beq_iff_eq]
  iterate 8 rw [if_neg (by omega)]
theorem regPut_ctxCfg (s : State) {n : Nat} (hn : n < 64) (v : W64) : s.regPut (ctxCfgAddr n) v =
    s.setReg (ctxCfgAddr n) ((⟨0, bitsM 31 24 ||| bitsM 17 0, 0⟩ : RegSpec).written (s.reg (ctxCfgAddr n)) v) :=
  regPut_of_some (regSpec_ctxCfgAddr hn) (regRange_ctxCfgAddr hn v)
/-- `EN` and `ASID` take their values from the write. -/
theorem fld_regPut_ctxCfg (s : State) {n : Nat} (hn : n < 64) (v : W64) {hi lo : Nat} (h : hi < 18) :
    fld ((s.regPut (ctxCfgAddr n) v).reg (ctxCfgAddr n)) hi lo = fld v hi lo := by
  rw [regPut_ctxCfg s hn, reg_setReg_self]
  refine fld_written (by omega) (fun j h1 h2 => ⟨?_, ?_⟩) _ v
  · show (bitsM 31 24 ||| bitsM 17 0).getLsbD j = true
    rw [BitVec.getLsbD_or, bitsM_covers (hi := 17) (lo := 0) (by omega) (by omega) (by omega), Bool.or_true]
  · exact BitVec.getLsbD_zero

section
variable {s : State} {n : Nat} {v : W64}

/-- While the slot is in use no write but one that ends it is taken, and that one not before its context has gone. -/
theorem ctxWrite_of_used (he : s.ctxEn n = true) (h : fld v 16 16 = 1 ∨ s.ctxInUse n = true) : s.ctxWrite n v = s := by
  unfold State.ctxWrite
  dsimp only
  rw [if_pos he]
  exact if_pos (by rw [Bool.or_eq_true, beq_iff_eq]; exact h)
theorem ctxWrite_of_end (he : s.ctxEn n = true) (h : ¬ fld v 16 16 = 1) (hu : s.ctxInUse n = false) :
    s.ctxWrite n v = s.setRegFld (ctxCfgAddr n) 16 16 0 := by
  unfold State.ctxWrite
  dsimp only
  rw [if_pos he]
  exact if_neg (by rw [Bool.or_eq_true, beq_iff_eq, hu]; simpa using h)
/-- Another slot that is enabled holds the address space. -/
theorem asidTaken_iff (s : State) (n : Nat) (v : W64) : (fld v 16 16 == 1 && (List.range 64).any (fun m => m != n && s.ctxEn m
      && s.ctxAsid m == fld v 15 0)) = true ↔
    fld v 16 16 = 1 ∧ ∃ m, m < 64 ∧ m ≠ n ∧ s.ctxEn m = true ∧ s.ctxAsid m = fld v 15 0 := by
  simp only [Bool.and_eq_true, beq_iff_eq, bne_iff_ne, List.any_eq_true, List.mem_range, and_assoc]
theorem ctxWrite_of_taken (he : s.ctxEn n = false) (h1 : fld v 16 16 = 1)
    (h : ∃ m, m < 64 ∧ m ≠ n ∧ s.ctxEn m = true ∧ s.ctxAsid m = fld v 15 0) : s.ctxWrite n v = s := by
  unfold State.ctxWrite
  dsimp only
  rw [if_neg (by rw [he]; decide)]
  exact if_pos ((asidTaken_iff s n v).2 ⟨h1, h⟩)
/-- A write that a free slot takes. -/
theorem ctxWrite_of_free (he : s.ctxEn n = false)
    (h : fld v 16 16 = 1 → ∀ m, m < 64 → m ≠ n → ¬ (s.ctxEn m = true ∧ s.ctxAsid m = fld v 15 0)) :
    (s.ctxWrite n v).mmio = (s.regPut (ctxCfgAddr n) v).mmio := by
  unfold State.ctxWrite
  dsimp only
  rw [if_neg (by rw [he]; decide), if_neg]
  · split <;> rfl
  · rw [asidTaken_iff]
    rintro ⟨h1, m, hm, hne, ha⟩
    exact h h1 m hm hne ha
/-- No other register changes. -/
theorem ctxWrite_reg_ne (hn : n < 64) {a : Nat} (ha : a ≠ ctxCfgAddr n) : (s.ctxWrite n v).reg a = s.reg a := by
  cases he : s.ctxEn n with
  | true =>
    by_cases h : fld v 16 16 = 1 ∨ s.ctxInUse n = true
    · rw [ctxWrite_of_used he h]
    · rw [not_or, Bool.not_eq_true] at h
      rw [ctxWrite_of_end he h.1 h.2, reg_setRegFld_ne _ _ _ _ ha]
  | false =>
    by_cases h : fld v 16 16 = 1 ∧ ∃ m, m < 64 ∧ m ≠ n ∧ s.ctxEn m = true ∧ s.ctxAsid m = fld v 15 0
    · rw [ctxWrite_of_taken he h.1 h.2]
    · rw [reg_congr (ctxWrite_of_free he (fun h1 m hm hne ha => h ⟨h1, m, hm, hne, ha⟩)), regPut_ctxCfg s hn, reg_setReg_ne _ _ ha]
end

theorem contextSlotWrite_steps {s : State} (hu : s.ev.unit < 64) : ∃ t, exec .contextSlotWrite s = .next t
      ∧ (s.ctxEn s.ev.unit = true → fld s.ev.val 16 16 = 1 ∨ s.ctxInUse s.ev.unit = true → t = s)
      ∧ (s.ctxEn s.ev.unit = true → ¬ fld s.ev.val 16 16 = 1 → s.ctxInUse s.ev.unit = false →
        t = { s with mmio := t.mmio } ∧ t.ctxEn s.ev.unit = false ∧ t.ctxAsid s.ev.unit = s.ctxAsid s.ev.unit)
      ∧ (s.ctxEn s.ev.unit = false → fld s.ev.val 16 16 = 1 →
        (∃ m, m < 64 ∧ m ≠ s.ev.unit ∧ s.ctxEn m = true ∧ s.ctxAsid m = fld s.ev.val 15 0) → t = s)
      ∧ (s.ctxEn s.ev.unit = false →
        (fld s.ev.val 16 16 = 1 → ∀ m, m < 64 → m ≠ s.ev.unit → ¬ (s.ctxEn m = true ∧ s.ctxAsid m = fld s.ev.val 15 0)) →
        t.ctxAsid s.ev.unit = fld s.ev.val 15 0 ∧ (t.ctxEn s.ev.unit = true ↔ fld s.ev.val 16 16 = 1))
      ∧ ∀ x, x ≠ ctxCfgAddr s.ev.unit → t.reg x = s.reg x := by
  refine ⟨s.ctxWrite s.ev.unit s.ev.val, congrArg _ (if_pos hu), ctxWrite_of_used, fun he h hu' => ?_, ctxWrite_of_taken,
    fun he h => ?_, fun x hx => ctxWrite_reg_ne hu hx⟩
  · rw [ctxWrite_of_end he h hu']
    refine ⟨rfl, ?_, fld_setRegFld_ne _ _ (by omega) (by omega) (by omega) (by omega) _⟩
    unfold State.ctxEn
    rw [fld_setRegFld _ _ (by omega) (by omega)]
    rfl
  · have hf {hi lo : Nat} (hhi : hi < 18) :
        fld ((s.ctxWrite s.ev.unit s.ev.val).reg (ctxCfgAddr s.ev.unit)) hi lo = fld s.ev.val hi lo := by
      rw [reg_congr (ctxWrite_of_free he h), fld_regPut_ctxCfg s hu _ hhi]
    unfold State.ctxAsid State.ctxEn
    rw [hf (by omega), hf (by omega)]
    exact ⟨rfl, beq_iff_eq⟩

end Sys2Proof.Machine
end

section
/-! SUPPORT. The load of a key slot: the lines of the key leave every cache, and `MC_KEYVAL` shows it (R77, R81). -/

namespace Sys2Proof.Machine

-- ## What writing lines back may change

/-- Only memory, the caches and what is on its way may have changed. -/
def CacheFrame (s t : State) : Prop := t = { s with
  mem := t.mem, burst := t.burst, poison := t.poison, stale := t.stale, ckpt := t.ckpt, wireOut := t.wireOut
  traffic := t.traffic, nextId := t.nextId, ecmds := t.ecmds, cores := t.cores, clusters := t.clusters, slices := t.slices }
theorem CacheFrame.refl (s : State) : CacheFrame s s := rfl
theorem CacheFrame.trans {s t u : State} (a : CacheFrame s t) (b : CacheFrame t u) : CacheFrame s u := by
  unfold CacheFrame at *; rw [b, a]
theorem HomeFrame.cacheFrame {s t : State} (h : HomeFrame s t) : CacheFrame s t := by
  unfold HomeFrame CacheFrame at *; rw [h]
theorem HomeFrame.cores {s t : State} (h : HomeFrame s t) : t.cores = s.cores := by rw [h]

/-- A write through a cluster cache changes that cache, and what a write at home changes. -/
theorem clWrite_spec (s : State) (cl slot : Nat) (at_ : Attr) {bs : List (Nat × Byte)} (marks : List Nat) (h : bs.isEmpty = false) :
    ∃ x, HomeFrame (s.setClus cl x) (s.clWrite cl slot at_ bs marks) := by
  unfold State.clWrite
  rw [h]
  have marked (t : State) (m : SMap Bool) : HomeFrame t { t with poison := m } := rfl
  exact ⟨_, ((homeWrite_frame _ at_.key bs).trans (marked _ _)).trans (trafficks_only ..).sameStore.frame⟩
theorem clWrite_frame (s : State) (cl slot : Nat) (at_ : Attr) (bs : List (Nat × Byte)) (marks : List Nat) :
    CacheFrame s (s.clWrite cl slot at_ bs marks) ∧ (s.clWrite cl slot at_ bs marks).cores = s.cores := by
  cases h : bs.isEmpty with
  | true =>
    have e : s.clWrite cl slot at_ bs marks = s := if_pos h
    rw [e]
    exact ⟨CacheFrame.refl s, rfl⟩
  | false =>
    obtain ⟨x, hx⟩ := clWrite_spec s cl slot at_ marks h
    exact ⟨CacheFrame.trans (t := s.setClus cl x) rfl hx.cacheFrame, hx.cores⟩
/-- A line written back: no core's lines have changed. -/
theorem writeBack_spec (s : State) (c : Nat) (l : L1Line) :
    CacheFrame s (s.writeBack c l) ∧ ∀ j, ((s.writeBack c l).core j).lines = (s.core j).lines := by
  unfold State.writeBack
  split
  · exact ⟨CacheFrame.refl s, fun _ => rfl⟩
  · have put (ls : List Nat) : CacheFrame s (s.bankPut c ls) := rfl
    obtain ⟨hf, hc⟩ := clWrite_frame (s.bankPut c ((l.dirtyBytes.map (fun p => p.1 / 32)).dedup)) (c / 16) l.slot ⟨l.key, 0, false⟩
      l.dirtyBytes l.marks
    refine ⟨(put _).trans hf, fun j => ?_⟩
    unfold State.core
    rw [hc]
    refine (congrArg CoreSt.lines (core_setCore s c j _)).trans ?_
    split
    · rename_i e; subst e; rfl
    · rfl
theorem writeBacks_spec (s : State) (c : Nat) (ls : List L1Line) : let t := ls.foldl (fun s l => s.writeBack c l) s
    CacheFrame s t ∧ ∀ j, (t.core j).lines = (s.core j).lines := by
  induction ls generalizing s with
  | nil => exact ⟨CacheFrame.refl s, fun _ => rfl⟩
  | cons l ls ih =>
    obtain ⟨f1, h1⟩ := writeBack_spec s c l
    obtain ⟨f2, h2⟩ := ih (s.writeBack c l)
    exact ⟨f1.trans f2, fun j => (h2 j).trans (h1 j)⟩

-- ## The lines of a key leave a core

/-- The lines of a key leave the L1 of a core. -/
def State.keyLeaves (k : Nat) (s : State) (c : Nat) : State :=
  let s := ((s.core c).lines.filter (fun l => l.key == k)).foldl (fun s l => s.writeBack c l) s
  s.setCore c { s.core c with lines := (s.core c).lines.filter (fun l => l.key != k) }
theorem keyLeaves_spec (s : State) (k c : Nat) : CacheFrame s (s.keyLeaves k c)
    ∧ ∀ j, ((s.keyLeaves k c).core j).lines = if c = j then (s.core j).lines.filter (fun l => l.key != k) else (s.core j).lines := by
  obtain ⟨hf, hl⟩ := writeBacks_spec s c ((s.core c).lines.filter (fun l => l.key == k))
  unfold State.keyLeaves
  generalize ((s.core c).lines.filter (fun l => l.key == k)).foldl (fun s l => s.writeBack c l) s = t at hf hl
  refine ⟨hf.trans rfl, fun j => ?_⟩
  rw [core_setCore]
  split
  · rename_i e; subst e; exact congrArg _ (hl c)
  · exact hl j
theorem keyLeavesAll_spec (k : Nat) (cs : List Nat) (s : State) : CacheFrame s (cs.foldl (State.keyLeaves k) s)
    ∧ ∀ j, (j ∈ cs ∨ ∀ l ∈ (s.core j).lines, l.key ≠ k) →
      ∀ l ∈ ((cs.foldl (State.keyLeaves k) s).core j).lines, l.key ≠ k := by
  induction cs generalizing s with
  | nil => exact ⟨CacheFrame.refl s, fun j h => h.resolve_left List.not_mem_nil⟩
  | cons c cs ih =>
    obtain ⟨f1, h1⟩ := keyLeaves_spec s k c
    obtain ⟨f2, h2⟩ := ih (s.keyLeaves k c)
    refine ⟨f1.trans f2, fun j hj => h2 j ?_⟩
    rw [h1]
    by_cases e : c = j
    · refine Or.inr (fun l hl => ?_)
      rw [if_pos e] at hl
      exact bne_iff_ne.1 (List.mem_filter.1 hl).2
    · rw [if_neg e]
      exact hj.imp_left (fun h => (List.mem_cons.1 h).resolve_left (Ne.symm e))
/-- A core that the map does not list holds nothing. -/
theorem core_lines_of_not_listed {s : State} {j : Nat} (h : j ∉ s.cores.map Prod.fst) : (s.core j).lines = [] := by
  have e : SMap.find? s.cores j = none := by
    cases e : SMap.find? s.cores j with
    | none => rfl
    | some x => exact absurd (List.mem_map_of_mem (SMap.mem_of_find? e)) h
  unfold State.core SMap.get
  rw [e]
  rfl

-- ## The lines of a key leave every cache (R81)

/-- A dirty line of a slice goes to its stack. -/
def State.keySent (k : Nat) (s : State) (l : L2Line) : State :=
  (s.writtenBack l.line l.dirty).sendUp ⟨0, s.tick, 0, 3, l.line, k, l.dirty, 0, .write, s.now, false⟩
theorem keySents_only (k : Nat) (ls : List L2Line) (s : State) : let t := ls.foldl (State.keySent k) s
    t = { s with stale := t.stale, traffic := t.traffic, nextId := t.nextId } := by
  induction ls generalizing s with
  | nil => rfl
  | cons l ls ih => rw [List.foldl_cons, ih]; rfl
/-- No cache holds a line of a key. -/
def KeyFree (k : Nat) (t : State) : Prop := (∀ c, ∀ l ∈ (t.core c).lines, l.key ≠ k)
  ∧ (∀ c, ∀ l ∈ (t.clus c).lines, l.key ≠ k) ∧ ∀ c, ∀ l ∈ (t.slice c).lines, l.key ≠ k
theorem KeyFree.congr {k : Nat} {s t : State} (h : KeyFree k s) (h1 : t.cores = s.cores) (h2 : t.clusters = s.clusters)
    (h3 : t.slices = s.slices) : KeyFree k t := by
  unfold KeyFree State.core State.clus State.slice at *
  rw [h1, h2, h3]
  exact h
theorem dropKey_spec (s : State) (k : Nat) : CacheFrame s (s.dropKey k) ∧ KeyFree k (s.dropKey k) := by
  obtain ⟨f1, h1⟩ := keyLeavesAll_spec k (s.cores.map Prod.fst) s
  have hx : s.dropKey k =
      let a := (s.cores.map Prod.fst).foldl (State.keyLeaves k) s
      let b : State := { a with clusters := a.clusters.mapV (fun c => { c with lines := c.lines.filter (fun l => l.key != k) }) }
      let c := (b.slices.flatMap (fun e => e.2.lines.filter (fun l => l.key == k && l.dirty != 0))).foldl (State.keySent k) b
      { c with slices := c.slices.mapV (fun x => { x with lines := x.lines.filter (fun l => l.key != k) }) } := rfl
  generalize (s.cores.map Prod.fst).foldl (State.keyLeaves k) s = a at f1 h1 hx
  set b : State := { a with clusters := a.clusters.mapV (fun c => { c with lines := c.lines.filter (fun l => l.key != k) }) }
  have f2 := keySents_only k (b.slices.flatMap (fun e => e.2.lines.filter (fun l => l.key == k && l.dirty != 0))) b
  dsimp only at hx f2
  generalize (b.slices.flatMap (fun e => e.2.lines.filter (fun l => l.key == k && l.dirty != 0))).foldl (State.keySent k) b = c at hx f2
  have hkey {α : Type} {ls : List α} {key : α → Nat} : ∀ l ∈ ls.filter (fun l => key l != k), key l ≠ k :=
    fun l hl => bne_iff_ne.1 (List.mem_filter.1 hl).2
  have hcl (j : Nat) : c.clus j = { a.clus j with lines := (a.clus j).lines.filter (fun l => l.key != k) } := by
    rw [f2]
    exact SMap.get_mapV (d := ClusterSt.init) (f := fun c => { c with lines := c.lines.filter (fun l => l.key != k) }) rfl a.clusters j
  have hsl (j : Nat) : ((s.dropKey k).slice j).lines = (c.slice j).lines.filter (fun l => l.key != k) := by
    rw [hx]
    exact congrArg SliceSt.lines
      (SMap.get_mapV (d := ⟨[], []⟩) (f := fun x => { x with lines := x.lines.filter (fun l => l.key != k) }) rfl c.slices j)
  refine ⟨?_, fun j => ?_, fun j => ?_, fun j => ?_⟩
  · rw [hx]
    exact f1.trans (CacheFrame.trans (t := b) rfl (CacheFrame.trans (t := c) (by unfold CacheFrame; rw [f2]) rfl))
  · have e : (s.dropKey k).core j = a.core j := by rw [hx, f2]; rfl
    rw [e]
    refine h1 j ?_
    by_cases hj : j ∈ s.cores.map Prod.fst
    · exact Or.inl hj
    · exact Or.inr (fun l hl => absurd hl (by rw [core_lines_of_not_listed hj]; exact List.not_mem_nil))
  · have e : (s.dropKey k).clus j = c.clus j := by rw [hx]; rfl
    rw [e, hcl]
    exact hkey
  · rw [hsl]
    exact hkey

-- ## `MC_KEYVAL` (R77)

/-- Setting the bit of a key in the controllers of the first dies. -/
theorem showKeys_spec (s : State) (k n x : Nat) (hn : n ≤ 8) :
    let t := (List.range n).foldl (fun s d => s.setRegFld (mcAddr d (0x40 + 8 * (k / 64))) (k % 64) (k % 64) x) s
    t = { s with mmio := t.mmio } ∧ ∀ d, d < n → fld (t.reg (mcAddr d (0x40 + 8 * (k / 64)))) (k % 64) (k % 64) = x % 2 := by
  induction n with
  | zero => exact ⟨rfl, fun d hd => absurd hd (Nat.not_lt_zero d)⟩
  | succ n ih =>
    obtain ⟨h1, h2⟩ := ih (by omega)
    rw [List.range_succ, List.foldl_append]
    generalize (List.range n).foldl (fun s d => s.setRegFld (mcAddr d (0x40 + 8 * (k / 64))) (k % 64) (k % 64) x) s = t at h1 h2
    refine ⟨?_, fun d hd => ?_⟩
    · show t.setRegFld _ _ _ _ = { s with mmio := (t.setRegFld _ _ _ _).mmio }
      rw [h1]
      rfl
    · show fld ((t.setRegFld _ _ _ _).reg _) _ _ = _
      by_cases e : d = n
      · subst e
        rw [fld_setRegFld _ _ (by omega) (le_refl _), Nat.add_sub_cancel_left, pow_one]
      · rw [reg_setRegFld_ne _ _ _ _ (by unfold mcAddr; omega)]
        exact h2 d (by omega)
/-- Every die's controller shows a key as loaded or not. -/
def KeyShows (k : Nat) (on : Bool) (t : State) : Prop := ∀ d, d < 8 → (t.reg (mcAddr d (0x40 + 8 * (k / 64)))).getLsbD (k % 64) = on
theorem KeyShows.congr {k : Nat} {on : Bool} {s t : State} (h : KeyShows k on s) (hm : t.mmio = s.mmio) : KeyShows k on t :=
  fun d hd => by rw [reg_congr hm]; exact h d hd
theorem showKey_spec (s : State) (k : Nat) (on : Bool) :
    s.showKey k on = { s with mmio := (s.showKey k on).mmio } ∧ KeyShows k on (s.showKey k on) := by
  obtain ⟨h1, h2⟩ := showKeys_spec s k 8 (if on then 1 else 0) (le_refl 8)
  refine ⟨h1, fun d hd => ?_⟩
  have h : (((s.showKey k on).reg (mcAddr d (0x40 + 8 * (k / 64)))).getLsbD (k % 64)).toNat = (if on then 1 else 0) % 2 :=
    (fld_bit ..).symm.trans (h2 d hd)
  cases on with
  | true => exact Bool.toNat_eq_one.1 h
  | false => exact Bool.toNat_eq_zero.1 h

-- ## The load of a key slot (R81)

theorem keyTraffic_congr {s t : State} (ht : t.traffic = s.traffic) (hp : t.pchs = s.pchs) (k : Nat) :
    t.keyTraffic k = s.keyTraffic k := by
  unfold State.keyTraffic; rw [ht, hp]
/-- Something accepted under a key is not done when its lines have been written back: a store, or a request. -/
def State.keyBusy (s : State) (k : Nat) : Prop :=
  (∃ x ∈ s.groups, ∃ f ∈ x.2.fifo, FifoE.usesKey k f = true) ∨ (s.dropKey k).keyTraffic k = true
/-- The state in which a load begins: the lines of the key are gone, and it does not show. -/
theorem keyHidden_spec (s : State) (k : Nat) : let a := (s.dropKey k).showKey k false
    KeyFree k a ∧ KeyShows k false a ∧ a.keySlots = s.keySlots
    ∧ ((a.groups.any (fun e => e.2.fifo.any (FifoE.usesKey k)) = true ∨ a.keyTraffic k = true) ↔ s.keyBusy k) := by
  obtain ⟨hf, hfree⟩ := dropKey_spec s k
  unfold State.keyBusy
  generalize s.dropKey k = b at hf hfree
  obtain ⟨hm, hoff⟩ := showKey_spec b k false
  generalize b.showKey k false = a at hm hoff
  have hgr : a.groups = s.groups := by rw [hm, hf]
  have htr : a.keyTraffic k = b.keyTraffic k := keyTraffic_congr (by rw [hm]) (by rw [hm]) k
  refine ⟨hfree.congr (by rw [hm]) (by rw [hm]) (by rw [hm]), hoff, by rw [hm, hf], ?_⟩
  rw [hgr, htr]
  simp only [List.any_eq_true]

section
variable {s : State} {k1 k2 : BitVec 256} (hd : s.ev.data = .keys k1 k2)
include hd

theorem keySlotLoad_ignored (h : s.ev.unit = 0 ∨ 256 ≤ s.ev.unit ∨ k1 = k2) : exec .keySlotLoad s = .next s := by
  show execKeySlotLoad s = _
  unfold execKeySlotLoad
  rw [hd]
  exact if_pos h
theorem keySlotLoad_taken (h1 : 1 ≤ s.ev.unit) (h2 : s.ev.unit < 256) (hne : k1 ≠ k2) :
    let a := (s.dropKey s.ev.unit).showKey s.ev.unit false
    exec .keySlotLoad s = if a.groups.any (fun e => e.2.fifo.any (FifoE.usesKey s.ev.unit)) ∨ a.keyTraffic s.ev.unit = true then
        .next { a with keyLoad := if a.keyLoad.contains s.ev.unit then a.keyLoad else a.keyLoad ++ [s.ev.unit] }
      else .next (({ a with keyLoad := a.keyLoad.filter (· != s.ev.unit), keySlots := a.keySlots.insert s.ev.unit (k1 ++ k2) }
        : State).showKey s.ev.unit true) := by
  have hc : ¬ (s.ev.unit = 0 ∨ 256 ≤ s.ev.unit ∨ k1 = k2) := fun h => h.elim (by omega) (fun h => h.elim (by omega) hne)
  show execKeySlotLoad s = _
  unfold execKeySlotLoad
  rw [hd]
  exact if_neg hc
/-- A load that must wait has begun. -/
theorem keySlotLoad_begins (h1 : 1 ≤ s.ev.unit) (h2 : s.ev.unit < 256) (hne : k1 ≠ k2) (hb : s.keyBusy s.ev.unit) :
    ∃ t, exec .keySlotLoad s = .next t ∧ KeyFree s.ev.unit t ∧ KeyShows s.ev.unit false t ∧ s.ev.unit ∈ t.keyLoad
      ∧ t.keySlots = s.keySlots := by
  have hx := keySlotLoad_taken hd h1 h2 hne
  generalize s.ev.unit = u at hx hb
  obtain ⟨hfree, hoff, hks, hbusy⟩ := keyHidden_spec s u
  generalize (s.dropKey u).showKey u false = a at hx hfree hoff hks hbusy
  dsimp only at hx hfree hoff hks hbusy
  rw [if_pos (hbusy.2 hb)] at hx
  have hload : u ∈ if a.keyLoad.contains u = true then a.keyLoad else a.keyLoad ++ [u] := by
    split
    · rename_i hc; exact List.contains_iff_mem.1 hc
    · exact List.mem_append_right _ List.mem_cons_self
  exact ⟨_, hx, hfree.congr rfl rfl rfl, hoff.congr rfl, hload, hks⟩
/-- A load that need not wait is done. -/
theorem keySlotLoad_ends (h1 : 1 ≤ s.ev.unit) (h2 : s.ev.unit < 256) (hne : k1 ≠ k2) (hb : ¬ s.keyBusy s.ev.unit) :
    ∃ t, exec .keySlotLoad s = .next t ∧ KeyFree s.ev.unit t ∧ KeyShows s.ev.unit true t ∧ s.ev.unit ∉ t.keyLoad
      ∧ t.keySlots.find? s.ev.unit = some (k1 ++ k2) := by
  have hx := keySlotLoad_taken hd h1 h2 hne
  generalize s.ev.unit = u at hx hb
  obtain ⟨hfree, -, -, hbusy⟩ := keyHidden_spec s u
  generalize (s.dropKey u).showKey u false = a at hx hfree hbusy
  dsimp only at hx hfree hbusy
  rw [if_neg (fun h => hb (hbusy.1 h))] at hx
  have hload : u ∉ a.keyLoad.filter (· != u) := fun hu => bne_iff_ne.1 (List.mem_filter.1 hu).2 rfl
  have hslot : (a.keySlots.insert u (k1 ++ k2)).find? u = some (k1 ++ k2) := SMap.find?_insert_self ..
  generalize a.keyLoad.filter (· != u) = ks at hx hload
  generalize a.keySlots.insert u (k1 ++ k2) = m at hx hslot
  obtain ⟨hm, hon⟩ := showKey_spec { a with keyLoad := ks, keySlots := m } u true
  generalize State.showKey { a with keyLoad := ks, keySlots := m } u true = t at hx hm hon
  exact ⟨t, hx, hfree.congr (by rw [hm]) (by rw [hm]) (by rw [hm]), hon, by rw [hm]; exact hload, by rw [hm]; exact hslot⟩
theorem keySlotLoad_steps (h1 : 1 ≤ s.ev.unit) (h2 : s.ev.unit < 256) (hne : k1 ≠ k2) : ∃ t, exec .keySlotLoad s = .next t
    ∧ (∀ c, ∀ l ∈ (t.core c).lines, l.key ≠ s.ev.unit) ∧ (∀ c, ∀ l ∈ (t.clus c).lines, l.key ≠ s.ev.unit)
    ∧ (∀ c, ∀ l ∈ (t.slice c).lines, l.key ≠ s.ev.unit)
    ∧ (s.keyBusy s.ev.unit → s.ev.unit ∈ t.keyLoad ∧ t.keySlots = s.keySlots ∧ KeyShows s.ev.unit false t)
    ∧ ((∀ x ∈ s.groups, ∀ f ∈ x.2.fifo, FifoE.usesKey s.ev.unit f = false) →
      (s.dropKey s.ev.unit).keyTraffic s.ev.unit = false → s.ev.unit ∉ t.keyLoad ∧ t.keySlots.find? s.ev.unit = some (k1 ++ k2) ∧ KeyShows s.ev.unit true t) := by
  by_cases hb : s.keyBusy s.ev.unit
  · obtain ⟨t, hx, ⟨hcore, hclus, hslice⟩, hoff, hload, hks⟩ := keySlotLoad_begins hd h1 h2 hne hb
    refine ⟨t, hx, hcore, hclus, hslice, fun _ => ⟨hload, hks, hoff⟩, fun hn hq => ?_⟩
    rcases hb with ⟨x, hx, f, hf, hu⟩ | hu
    · exact absurd ((hn x hx f hf).symm.trans hu) Bool.false_ne_true
    · exact absurd (hq.symm.trans hu) Bool.false_ne_true
  · obtain ⟨t, hx, ⟨hcore, hclus, hslice⟩, hon, hload, hslot⟩ := keySlotLoad_ends hd h1 h2 hne hb
    exact ⟨t, hx, hcore, hclus, hslice, fun h => absurd h hb, fun _ _ => ⟨hload, hslot, hon⟩⟩
end

end Sys2Proof.Machine
end

section
/-! Walks, invalidations, context slots and key loads (R81, R84, R86, R89 to R91). -/

namespace Sys2Proof.Machine

/-- Settles O41: each step of translation by its own lemma. -/
theorem translationSteps : Obligations.TranslationSteps := by
  intro s
  refine ⟨fun w hw => ⟨pageWalkComplete_waits hw, fun hf hr hk =>
      ⟨fun e he => pageWalkComplete_ok hw hf hr hk he, fun f he => pageWalkComplete_error hw hf hr hk he⟩⟩,
    ⟨invalidate_steps (by omega) (by omega) rfl (hits_range _ _), invalidate_steps (by omega) (by omega) rfl (hits_asid _ _),
      invalidate_steps (by omega) (by omega) rfl (hits_all _ _)⟩,
    fun q rest hq => invalidationDone_steps hq, contextSlotWrite_steps,
    fun k1 k2 hd => ⟨keySlotLoad_ignored hd, keySlotLoad_steps hd⟩⟩

end Sys2Proof.Machine
end

section
/-! SUPPORT. A page of an offload whose frame holds its own leaf entry: what is left of the entry once the page has settled (R96, R113,
R114). -/

namespace Sys2Proof.Machine

/-- What stands of a step that a regulator may hold back: the bytes that it stores, or the commands as they were. -/
theorem passed_bytes_or_commands (s t : State) :
    (∀ k a, (s.passed t).homeByte k a = t.homeByte k a) ∨ (s.passed t).ecmds = s.ecmds := by
  unfold State.passed
  obtain e | ⟨p, tr, e⟩ | e | e := pass_cases s t true
  · rw [e]; exact .inl fun _ _ => rfl
  · rw [e]; exact .inl fun k a => homeByte_congr rfl rfl rfl k a
  · rw [e]; exact .inr rfl
  · rw [e]; exact .inr rfl

/-- A page of 64 KiB at the bottom of memory, whose leaf entry is the first of that very frame. -/
def tablePage : TlbE := ⟨5, 0, 0x10000, 0, 0, 0, 0, 0, false, false, false, true, true, true⟩
/-- The next page, in another frame. -/
def dataPage : TlbE := { tablePage with base := 0x10000, pa := 0x200000, entry := 8 }
/-- An offload of both pages; the peer has acknowledged the bytes of the first. -/
def tableOffload : CopyCmd := { copyCmd (.offl 0 0 0x20000 7) false 0 0 (some 100) 0 (.group 1) 0x10000 1 with
  started := true, units := (List.range 16).map (fun i => (4096 * i, 2)), pages := [⟨tablePage, false⟩, ⟨dataPage, false⟩] }
/-- Both leaf entries show the claim, `OFS` 1, and the first page is to settle. -/
def tableState : State := { State.reset with
  mem := [(1, 4), (9, 4)], ecmds := [(1, tableOffload)], ev := { EvIn.none with unit := 1, idx := 0 } }

/-- The page settles, but its leaf entry shows the claim again: the new `OFS` was dirty in the frame whose dirty bytes are dropped. -/
theorem tableState_settles : ∃ t, exec .offloadPageOut tableState = .next t ∧ t.ecmds ≠ tableState.ecmds
    ∧ t.homeByte (tableState.ctxTkey 0) 1 = 4 := ⟨_, rfl, by decide +kernel, by decide +kernel⟩

/-- Refutes O37: where the frame of an offloaded page holds the page's own leaf entry (no premise excludes it), dropping the dirty
bytes of the frame takes back the `OFS` of 2 that the step has just written. -/
theorem not_copySteps : ¬ Obligations.CopySteps := by
  intro claim
  obtain ⟨-, -, -, -, -, -, settling, -⟩ := claim tableState
  obtain ⟨-, settles⟩ := settling tableOffload ⟨tablePage, false⟩ true rfl rfl rfl rfl rfl
  obtain ⟨t, ⟨ht, -⟩, -, left, -⟩ := settles (by decide) (by decide)
  obtain ⟨out, -⟩ := left ⟨1, ⟨dataPage, false⟩, by decide, rfl, rfl⟩ ⟨rfl, rfl, by decide⟩
  rw [if_pos rfl] at ht out
  obtain ⟨t', ht', moved, claimed⟩ := tableState_settles
  rw [ht'] at ht
  cases ht
  obtain same | same := passed_bytes_or_commands tableState t
  · have still : t.homeByte (tableState.ctxTkey 0) 1 = 4 := (same _ _).symm.trans claimed
    have out' : t.homeByte (tableState.ctxTkey 0) 1 >>> 2 &&& 3 = 2 := out
    rw [still] at out'
    exact absurd out' (by decide)
  · exact moved same

end Sys2Proof.Machine
end

section
/-! SUPPORT. What engine accesses, events and the ends of commands leave alone: one frame for each, kept by every operation behind it
(R86, R97, R391, R398, R406). -/

namespace Sys2Proof.Machine

-- ## Engine accesses

/-- Only translation has happened: TLBs of engines, walks, and their requests. -/
def XlateFrame (s t : State) : Prop :=
  t = { s with engTlb := t.engTlb, walks := t.walks, traffic := t.traffic, nextId := t.nextId }
/-- Only what an engine's read or write may change has changed. -/
def AccessFrame (s t : State) : Prop :=
  t = { s with
    engTlb := t.engTlb, walks := t.walks, traffic := t.traffic, nextId := t.nextId
    mem := t.mem, burst := t.burst, poison := t.poison, stale := t.stale, ckpt := t.ckpt, wireOut := t.wireOut, ecmds := t.ecmds
    posts := t.posts }

theorem XlateFrame.refl (s : State) : XlateFrame s s := rfl
theorem XlateFrame.trans {s t u : State} (a : XlateFrame s t) (b : XlateFrame t u) : XlateFrame s u := by
  unfold XlateFrame at *; rw [b, a]
theorem AccessFrame.refl (s : State) : AccessFrame s s := rfl
theorem AccessFrame.trans {s t u : State} (a : AccessFrame s t) (b : AccessFrame t u) : AccessFrame s u := by
  unfold AccessFrame at *; rw [b, a]
theorem TrafficOnly.xlate {s t : State} (h : TrafficOnly s t) : XlateFrame s t := by
  unfold TrafficOnly XlateFrame at *; rw [h]
theorem XlateFrame.access {s t : State} (h : XlateFrame s t) : AccessFrame s t := by
  unfold XlateFrame AccessFrame at *; rw [h]
theorem HomeFrame.access {s t : State} (h : HomeFrame s t) : AccessFrame s t := by
  unfold HomeFrame AccessFrame at *; rw [h]

theorem walkNow_frame (s : State) (die slot va : Nat) (core : Option Nat) : XlateFrame s (s.walkNow die slot va core).1 := by
  unfold State.walkNow
  split
  · rfl
  · split
    · rfl
    · split
      · rfl
      · split <;> exact (walkTraffic_only s slot va).xlate
theorem engXlate_frame (s : State) (die slot va : Nat) : XlateFrame s (s.engXlate die slot va).1 := by
  have h := walkNow_frame s die slot va none
  unfold State.engXlate
  split
  · rfl
  · split
    · rfl
    · split <;> rename_i e
      · rw [e] at h; exact h.trans rfl
      · exact h
theorem engByte_frame (s : State) (die slot : Nat) (n : Need) (va : Nat) : XlateFrame s (s.engByte die slot n va).1 := by
  have h := engXlate_frame s die slot va
  unfold State.engByte
  split <;> rename_i e <;> rw [e] at h
  · exact h
  · exact h
  · split
    · exact h
    · split_ifs <;> exact h
theorem engBytes_frame (s : State) (die slot : Nat) (need : Need) (va n : Nat) : XlateFrame s (s.engBytes die slot need va n).1 := by
  induction n with
  | zero => rfl
  | succ n ih =>
    unfold State.engBytes
    split <;> rename_i e <;> rw [e] at ih
    · exact ih
    · rename_i s1 l
      have h := engByte_frame s1 die slot need (va + n)
      split <;> rename_i e2 <;> rw [e2] at h
      · exact ih.trans h
      · split_ifs <;> exact ih.trans h
/-- An access that goes on has found a place for each byte. -/
theorem engBytes_length {s s1 : State} {die slot va n : Nat} {need : Need} {l : List (Nat × Attr)}
    (h : s.engBytes die slot need va n = (s1, .ok l)) : l.length = n := by
  induction n generalizing s1 l with
  | zero => cases h; rfl
  | succ n ih =>
    unfold State.engBytes at h
    split at h
    · cases h
    · rename_i l0 e
      split at h
      · cases h
      · split at h <;> cases h
        rw [List.length_append, ih e, List.length_singleton]

theorem homeScatter_frame (s : State) (l : List (Nat × Attr × Byte)) : HomeFrame s (s.homeScatter l) := by
  rw [homeScatter_eq]; exact scatters_frame ..
theorem rawPut_frame (s : State) (slot cls : Nat) (l : List (Nat × Attr × Byte)) : HomeFrame s (s.rawPut slot cls l) :=
  (engTraffic_only ..).sameStore.frame.trans (homeScatter_frame ..)
theorem rawRead_frame (s : State) (cls die slot va n : Nat) : XlateFrame s (s.rawRead cls die slot va n).1 := by
  have h := engBytes_frame s die slot .r va n
  unfold State.rawRead
  split <;> rename_i e <;> rw [e] at h
  · exact h
  · exact h.trans (engTraffic_only ..).xlate
theorem rawRead_length {s s1 : State} {cls die slot va n : Nat} {bs : List Byte} (h : s.rawRead cls die slot va n = (s1, .ok bs)) :
    bs.length = n := by
  unfold State.rawRead at h
  split at h
  · cases h
  · rename_i e
    cases h
    rw [List.length_map, engBytes_length e]
theorem rawWrite_frame (s : State) (cls die slot va : Nat) (bs : List Byte) : AccessFrame s (s.rawWrite cls die slot va bs).1 := by
  have h := (engBytes_frame s die slot .w va bs.length).access
  unfold State.rawWrite State.engTargets
  rcases e : s.engBytes die slot .w va bs.length with ⟨s1, x | l⟩ <;> rw [e] at h
  · exact h
  · exact h.trans (rawPut_frame ..).access
theorem rawUpd_frame (s : State) (cls die slot va n : Nat) (f : W64 → W64) : AccessFrame s (s.rawUpd cls die slot va n f).1 := by
  have h := (engBytes_frame s die slot .rw va n).access
  unfold State.rawUpd
  rcases e : s.engBytes die slot .rw va n with ⟨s1, x | l⟩ <;> rw [e] at h
  · exact h
  · exact h.trans ((engTraffic_only ..).sameStore.frame.trans (homeScatter_frame ..)).access
theorem gate_frame {α : Type} {s : State} {r : State × Except EStop α} (h : AccessFrame s r.1) : AccessFrame s (s.gate r).1 := by
  obtain ⟨t, x | a⟩ := r
  · exact h
  · obtain e | ⟨p, tr, e⟩ | e | e := pass_cases s t true
    · rw [gate_of_ok e]; exact h
    · rw [gate_of_ok e]; exact h.trans rfl
    · rw [gate_of_error e]; rfl
    · rw [gate_of_error e]; rfl
theorem engWrite_frame (s : State) (cls die slot va : Nat) (bs : List Byte) : AccessFrame s (s.engWrite cls die slot va bs).1 :=
  gate_frame (rawWrite_frame ..)
theorem frame_of_engWrite {s t : State} {cls die slot va : Nat} {bs : List Byte} {r : Except EStop Unit}
    (h : s.engWrite cls die slot va bs = (t, r)) : AccessFrame s t := by
  have f := engWrite_frame s cls die slot va bs
  rwa [h] at f
theorem engUpd_frame (s : State) (cls die slot va n : Nat) (f : W64 → W64) : AccessFrame s (s.engUpd cls die slot va n f).1 :=
  gate_frame (rawUpd_frame ..)

-- ## Events, and the ends of commands

/-- Only what an event may change has changed. -/
def EventFrame (s t : State) : Prop :=
  t = { s with
    engTlb := t.engTlb, walks := t.walks, traffic := t.traffic, nextId := t.nextId, posts := t.posts
    mem := t.mem, burst := t.burst, poison := t.poison, stale := t.stale, ckpt := t.ckpt, wireOut := t.wireOut, ecmds := t.ecmds
    mmio := t.mmio, events := t.events }
/-- Only what an event, and the end of a packet, a grid, a suspension or a context's ending may change has changed. -/
def EndsFrame (s t : State) : Prop :=
  t = { s with
    engTlb := t.engTlb, walks := t.walks, traffic := t.traffic, nextId := t.nextId, posts := t.posts
    mem := t.mem, burst := t.burst, poison := t.poison, stale := t.stale, ckpt := t.ckpt, wireOut := t.wireOut, ecmds := t.ecmds
    mmio := t.mmio, events := t.events, queues := t.queues, graphs := t.graphs, grids := t.grids
    endings := t.endings, suspends := t.suspends }
/-- The same, and teams and phasers may have gone. -/
def LeavesFrame (s t : State) : Prop :=
  t = { s with
    engTlb := t.engTlb, walks := t.walks, traffic := t.traffic, nextId := t.nextId, posts := t.posts
    mem := t.mem, burst := t.burst, poison := t.poison, stale := t.stale, ckpt := t.ckpt, wireOut := t.wireOut, ecmds := t.ecmds
    mmio := t.mmio, events := t.events, queues := t.queues, graphs := t.graphs, grids := t.grids
    endings := t.endings, suspends := t.suspends, teams := t.teams, phasers := t.phasers }

theorem EndsFrame.refl (s : State) : EndsFrame s s := rfl
theorem EndsFrame.trans {s t u : State} (a : EndsFrame s t) (b : EndsFrame t u) : EndsFrame s u := by
  unfold EndsFrame at *; rw [b, a]
/-- What happens first is given second: the state between is known by then. -/
theorem EndsFrame.after {s t u : State} (b : EndsFrame t u) (a : EndsFrame s t) : EndsFrame s u := a.trans b
theorem EndsFrame.foldl {β : Type} (f : State → β → State) (l : List β) (s : State) (hf : ∀ t x, EndsFrame t (f t x)) :
    EndsFrame s (l.foldl f s) := by
  induction l generalizing s with
  | nil => exact EndsFrame.refl s
  | cons x l ih => exact (hf s x).trans (ih _)
theorem EventFrame.refl (s : State) : EventFrame s s := rfl
theorem EventFrame.trans {s t u : State} (a : EventFrame s t) (b : EventFrame t u) : EventFrame s u := by
  unfold EventFrame at *; rw [b, a]
theorem AccessFrame.event {s t : State} (h : AccessFrame s t) : EventFrame s t := by
  unfold AccessFrame EventFrame at *; rw [h]
theorem EventFrame.ends {s t : State} (h : EventFrame s t) : EndsFrame s t := by
  unfold EventFrame EndsFrame at *; rw [h]
theorem LeavesFrame.trans {s t u : State} (a : LeavesFrame s t) (b : LeavesFrame t u) : LeavesFrame s u := by
  unfold LeavesFrame at *; rw [b, a]
theorem EndsFrame.leaves {s t : State} (h : EndsFrame s t) : LeavesFrame s t := by
  unfold EndsFrame LeavesFrame at *; rw [h]
theorem AccessFrame.ends {s t : State} (h : AccessFrame s t) : EndsFrame s t := by
  unfold AccessFrame EndsFrame at *; rw [h]

theorem flushEvent_frame (s : State) (slot : Nat) : EventFrame s (s.flushEvent slot).1 := by
  unfold State.flushEvent
  split
  · rfl
  · rename_i ev rest _
    dsimp only
    split
    · rfl
    · split
      · rfl
      · split <;> rename_i e
        · exact (frame_of_engWrite e).event
        · exact (frame_of_engWrite e).event.trans rfl
theorem flushEvents_frame (s : State) (slot n : Nat) : EventFrame s (s.flushEvents slot n) := by
  induction n generalizing s with
  | zero => rfl
  | succ n ih =>
    have h := flushEvent_frame s slot
    unfold State.flushEvents
    split <;> rename_i e <;> rw [e] at h
    · exact h.trans (ih _)
    · exact h
theorem event_frame (s : State) (slot code fc queue : Nat) (tag : W32) (w1 w2 : W64) :
    EventFrame s (s.event slot code fc queue tag w1 w2) := by
  unfold State.event
  dsimp only
  split
  · rfl
  · split
    · exact EventFrame.trans (t := { s with events := _ }) rfl (flushEvents_frame ..)
    · rfl
theorem packetDone_frame (s : State) (slot q : Nat) (pkt : W32) : EndsFrame s (s.packetDone slot q pkt) := by
  unfold State.packetDone
  dsimp only
  split
  · exact (event_frame ..).ends.after rfl
  · rfl
theorem originDone_frame (s : State) (slot : Nat) (o : Origin) : EndsFrame s (s.originDone slot o) := by
  unfold State.originDone
  split
  · exact packetDone_frame ..
  · rfl
  · rfl
theorem engAdd_frame (s : State) (die slot va : Nat) (n : W64) : AccessFrame s (s.engAdd die slot va n).1 := by
  unfold State.engAdd
  split
  · rfl
  · exact engUpd_frame ..
theorem doneWord_frame {s t : State} {slot : Nat} {org : Origin} {addr : W64} (h : s.doneWord slot org addr = some t) :
    EndsFrame s t := by
  have ha := (engAdd_frame s 0 slot addr.toNat 1).ends
  unfold State.doneWord at h
  split at h
  · cases h; rfl
  · split at h <;> rename_i e
    · rw [e] at ha; cases h; exact ha
    · rw [e] at ha; cases h; exact ha.trans (event_frame ..).ends
    · cases h
theorem noteLate_frame (s : State) (k : Nat) : EndsFrame s (s.noteLate k) := by
  unfold State.noteLate
  split
  · rfl
  · split
    · rfl
    · exact (event_frame ..).ends.after rfl
theorem gridEnd_frame (s : State) (k : Nat) : EndsFrame s (s.gridEnd k) := by
  have h := noteLate_frame s k
  unfold State.gridEnd
  dsimp only
  generalize s.noteLate k = u at h ⊢
  split
  · exact h
  · split <;> rename_i e
    · exact h.trans ((doneWord_frame e).trans ((originDone_frame ..).after rfl))
    · exact h
theorem checkSuspends_frame (s : State) : EndsFrame s s.checkSuspends :=
  (EndsFrame.foldl _ _ _ fun _ _ => packetDone_frame ..).after rfl
theorem checkEndings_frame (s : State) : EndsFrame s s.checkEndings := by
  have h := checkSuspends_frame s
  unfold State.checkEndings
  dsimp only
  generalize s.checkSuspends = u at h ⊢
  exact h.trans ((EndsFrame.foldl _ _ _ fun _ _ => (event_frame ..).ends.trans (packetDone_frame ..)).after rfl)
/-- A team goes on, or it has ended: what is left then. -/
theorem tryTeamEnd_cases (s : State) (tid : Nat) :
    s.tryTeamEnd tid = s ∨ EndsFrame { s with teams := s.teams.erase tid } (s.tryTeamEnd tid) := by
  unfold State.tryTeamEnd
  split
  · exact .inl rfl
  · split
    · exact .inl rfl
    · right
      dsimp only
      split
      · exact EndsFrame.refl _
      · split
        · exact (gridEnd_frame ..).after rfl
        · rfl
theorem tryTeamEnd_frame (s : State) (tid : Nat) : LeavesFrame s (s.tryTeamEnd tid) := by
  obtain h | h := tryTeamEnd_cases s tid
  · rw [h]; rfl
  · exact LeavesFrame.trans (t := { s with teams := s.teams.erase tid }) rfl h.leaves
theorem phaserGc_frame (s : State) (id : Nat) : LeavesFrame s (s.phaserGc id) := by
  unfold State.phaserGc
  split <;> rfl
theorem afterCmd_frame (s : State) (tid ph : Option Nat) : LeavesFrame s (s.afterCmd tid ph) := by
  have ends (t : State) (tid : Option Nat) : LeavesFrame t (t.afterCmd tid none) := by
    cases tid with
    | none => exact (checkEndings_frame t).leaves
    | some tid => exact (tryTeamEnd_frame t tid).trans (checkEndings_frame _).leaves
  cases ph with
  | none => exact ends s tid
  | some id => exact (phaserGc_frame s id).trans (ends _ tid)

-- ## Where nothing waits for the end

theorem checkEndings_of_idle {s : State} (he : s.endings = []) (hs : s.suspends = []) : s.checkEndings = s := by
  have h : s.checkSuspends = s := by
    unfold State.checkSuspends
    rw [hs]
    show { s with suspends := [] } = s
    rw [← hs]
  unfold State.checkEndings
  dsimp only
  rw [h, he]
  show { s with endings := [] } = s
  rw [← he]
theorem mem_teamGroups {s : State} {gid : Nat} {g : Group} (h : s.grp gid = some g) : gid ∈ s.teamGroups g.tid :=
  List.mem_map.2 ⟨(gid, g), List.mem_filter.2 ⟨SMap.mem_of_find? h, by simp⟩, rfl⟩
/-- A team with a group left goes on. -/
theorem tryTeamEnd_of_group {s : State} {tid : Nat} (h : s.teamGroups tid ≠ []) : s.tryTeamEnd tid = s := by
  unfold State.tryTeamEnd
  split
  · rfl
  · rw [if_pos]
    simp [h]
/-- What becomes of a phaser that a command has left. -/
theorem phaserGc_cases (s : State) (id : Nat) : ∃ x, s.phaserGc id = { s with phasers := x } := by
  unfold State.phaserGc
  split
  · exact ⟨s.phasers, rfl⟩
  · exact ⟨_, rfl⟩
/-- After a command of a resident group's team, with nothing waiting, only its phaser may go. -/
theorem afterCmd_of_idle {s : State} {gid : Nat} {g : Group} (hg : s.grp gid = some g) (he : s.endings = []) (hs : s.suspends = [])
    (ph : Option Nat) : ∃ x, s.afterCmd (some g.tid) ph = { s with phasers := x } := by
  have goes (x) : ({ s with phasers := x } : State).afterCmd (some g.tid) none = { s with phasers := x } := by
    show (({ s with phasers := x } : State).tryTeamEnd g.tid).checkEndings = _
    rw [tryTeamEnd_of_group (List.ne_nil_of_mem (mem_teamGroups (s := { s with phasers := x }) hg)),
      checkEndings_of_idle (s := { s with phasers := x }) he hs]
  cases ph with
  | none => exact ⟨s.phasers, goes s.phasers⟩
  | some id =>
    obtain ⟨x, hx⟩ := phaserGc_cases s id
    refine ⟨x, ?_⟩
    rw [← goes x, ← hx]
    rfl

end Sys2Proof.Machine
end

section
/-! SUPPORT. How a word of a fabric processor takes effect (R308, R311): one rule for each effect, and for the buffers. -/

namespace Sys2Proof.Machine

-- ## A word's effect

/-- Word `i` of processor p has the effect `e`. -/
def FxDoes (i : Instr) (s : State) (p : Nat) (e : FxEff) : Prop := exec i s = .next (e.run s p)

/-- The effect of a word, given for its processor's number, state and start. -/
theorem fxWord_does {i : Instr} {s : State} {p : Nat} {x : FxSt} {k : FxStart} {f : State → Nat → FxSt → FxStart → FxEff}
    (at_ : FxAt s p x k) (h : exec i s = fxWord s f) : FxDoes i s p (f s p x k) := by
  obtain ⟨hcur, rfl, hrun⟩ := at_
  unfold FxDoes
  rw [h, fxWord, hcur]
  dsimp only
  rw [hrun]
theorem leads_of_passed {i : Instr} {s t : State} (h : exec i s = .next (s.passed t)) : Leads i s t := by
  refine ⟨h, fun ⟨u, hu⟩ => ⟨u, ?_, (regulated s t true).1 u hu⟩, fun ht => ?_⟩
  · rw [h, State.passed, hu]
  · rw [h, State.passed, pass_of_no_traffic ht]

@[simp] theorem fx_setFx_self (s : State) (p : Nat) (x : FxSt) : (s.setFx p x).fx p = x := SMap.get_set_self ..
theorem fx_setFx_ne (s : State) {p q : Nat} (h : q ≠ p) (x : FxSt) : (s.setFx p x).fx q = s.fx q := SMap.get_set_ne _ _ h.symm _

theorem fxLeaves_of {i : Instr} {s s1 : State} {p : Nat} {x' : FxSt} (h : exec i s = .next (s.passed (s1.setFx p x'))) :
    FxLeaves i s1 s p x' :=
  ⟨_, leads_of_passed h, rfl, fx_setFx_self .., fun _ hq => fx_setFx_ne _ hq _⟩
/-- A word that writes one register and goes on. -/
theorem fxSets_of {i : Instr} {s s1 : State} {p : Nat} {x : FxSt} {a : FReg} {v : W64}
    (h : FxDoes i s p (.next s1 { x with f := x.f.set 0 a.toNat v })) : FxSets i s1 s p x a v := by
  refine ⟨_, fxLeaves_of h, rfl, fun b => ?_⟩
  show SMap.get 0 (x.f.set 0 a.toNat v) b.toNat = _
  rw [SMap.get_set]
  by_cases e : a = b
  · rw [if_pos (congrArg _ e), if_pos e.symm]
  · rw [if_neg fun h => e (BitVec.eq_of_toNat_eq h), if_neg (Ne.symm e)]; rfl
/-- A word whose access to memory meets a fault. -/
theorem fxFaults_of_eng {i : Instr} {s s1 : State} {p : Nat} {α : Type} {r : State × Except EStop α} {next : State → α → FxEff}
    {c d va : Nat} (h : FxDoes i s p (eng r next)) (hr : r = (s1, .error (.fault c d va))) :
    FxFaults i s1 s p (BitVec.ofNat 8 c) d (BitVec.ofNat 64 va) := by
  subst hr; exact h
/-- A word whose access to memory goes on. -/
theorem fxDoes_of_eng {i : Instr} {s s1 : State} {p : Nat} {α : Type} {r : State × Except EStop α} {next : State → α → FxEff} {a : α}
    (h : FxDoes i s p (eng r next)) (hr : r = (s1, .ok a)) : FxDoes i s p (next s1 a) := by
  subst hr; exact h

-- ## Buffers

theorem bufAt_of_inBuf {v : W64} {n : Nat} (h : InBuf v n) : bufAt v n = some v.toNat := if_pos h
theorem bufAt_of_not_inBuf {v : W64} {n : Nat} (h : ¬ InBuf v n) : bufAt v n = none := if_neg h
theorem xferOk_iff (n : W64) : xferOk n = true ↔ 1 ≤ n.toNat ∧ n.toNat ≤ 65536 := by
  unfold xferOk; rw [Bool.and_eq_true, decide_eq_true_iff, decide_eq_true_iff]
/-- A transfer that may not be: its range leaves the buffer, or its size is none. -/
theorem not_sized {v n : W64} (h : ¬ (InBuf v n.toNat ∧ 1 ≤ n.toNat ∧ n.toNat ≤ 65536)) :
    bufAt v n.toNat = none ∨ (bufAt v n.toNat = some v.toNat ∧ xferOk n = false) := by
  by_cases hb : InBuf v n.toNat
  · exact .inr ⟨bufAt_of_inBuf hb, Bool.eq_false_iff.2 fun hx => h ⟨hb, (xferOk_iff n).1 hx⟩⟩
  · exact .inl (bufAt_of_not_inBuf hb)

theorem get_putBytes (x : FxSt) (o : Nat) (bs : List Byte) (j : Nat) :
    (x.putBytes o bs).buf.get 0 j = if o ≤ j ∧ j < o + bs.length then bs.getD (j - o) 0 else x.buf.get 0 j := by
  unfold FxSt.putBytes
  by_cases h : o ≤ j ∧ j < o + bs.length
  · rw [if_pos h]
    have hj : j - o < bs.length := by omega
    refine SMap.get_foldl_set 0 bs.zipIdx (fun y => o + y.2) (fun y => y.1) x.buf j _ ?_ (Or.inr ⟨(bs[j - o], j - o), ?_, ?_⟩)
    · rintro ⟨b, m⟩ hm (e : o + m = j)
      have hb := (List.mk_mem_zipIdx_iff_getElem?).1 hm
      rw [List.getD_eq_getElem?_getD, show j - o = m by omega, hb]; rfl
    · exact (List.mk_mem_zipIdx_iff_getElem?).2 (List.getElem?_eq_getElem hj)
    · show o + (j - o) = j; omega
  · rw [if_neg h]
    refine SMap.get_foldl_set_ne 0 bs.zipIdx (fun y => o + y.2) (fun y => y.1) x.buf j ?_
    rintro ⟨b, m⟩ hm (e : o + m = j)
    have hm' := List.snd_lt_of_mem_zipIdx hm
    exact h ⟨by omega, by simp only at hm'; omega⟩
theorem bufPut_putBytes (x : FxSt) (o : Nat) (bs : List Byte) : BufPut x (x.putBytes o bs) o bs := ⟨rfl, get_putBytes x o bs⟩

end Sys2Proof.Machine
end

section
/-! SUPPORT. Copies, waits, messages and starts of fabric programs (R314 to R316, R320). -/

namespace Sys2Proof.Machine

variable {s : State} {p : Nat} {x : FxSt} {k : FxStart} (at_ : FxAt s p x k) (a b c d : FReg)
include at_

-- ## Copies

/-- A transfer that may not be faults at once. -/
theorem copies_bad (h : ¬ (InBuf (x.r a) (x.r c).toNat ∧ 1 ≤ (x.r c).toNat ∧ (x.r c).toNat ≤ 65536)) :
    FxFaults (.fxLoadc a b c) s s p fcOperand 0 0 ∧ FxFaults (.fxStorec a b c) s s p fcOperand 0 0
      ∧ FxFaults (.fxSend a b c) s s p fcOperand 0 0 := by
  have load : FxDoes (.fxLoadc a b c) s p _ := fxWord_does at_ (show execFxLoadc a b c s = fxWord s _ from rfl)
  have store : FxDoes (.fxStorec a b c) s p _ := fxWord_does at_ (show execFxStorec a b c s = fxWord s _ from rfl)
  have send : FxDoes (.fxSend a b c) s p _ := fxWord_does at_ (show execFxSend a b c s = fxWord s _ from rfl)
  obtain e | ⟨e, e'⟩ := not_sized h
  · simp only [e] at load store send
    exact ⟨load, store, send⟩
  · simp only [e, e', if_true, true_or] at load store send
    exact ⟨load, store, send⟩

variable {a c} (sized : InBuf (x.r a) (x.r c).toNat ∧ 1 ≤ (x.r c).toNat ∧ (x.r c).toNat ≤ 65536)
include sized

theorem loadc_does : FxDoes (.fxLoadc a b c) s p (eng (s.rawRead 2 (p / 2) k.slot (x.r b).toNat (x.r c).toNat)
    (fun s1 bs => .busy s1 (x.putBytes (x.r a).toNat bs) (x.fpc + 8))) := by
  have h : FxDoes (.fxLoadc a b c) s p _ := fxWord_does at_ (show execFxLoadc a b c s = fxWord s _ from rfl)
  simpa only [bufAt_of_inBuf sized.1, (xferOk_iff _).2 sized.2, Bool.true_eq_false, if_false] using h
theorem storec_does : FxDoes (.fxStorec a b c) s p
    (eng (s.rawWrite 2 (p / 2) k.slot (x.r b).toNat (x.bytes (x.r a).toNat (x.r c).toNat)) (fun s1 _ => .busy s1 x (x.fpc + 8))) := by
  have h : FxDoes (.fxStorec a b c) s p _ := fxWord_does at_ (show execFxStorec a b c s = fxWord s _ from rfl)
  simpa only [bufAt_of_inBuf sized.1, (xferOk_iff _).2 sized.2, Bool.true_eq_false, if_false] using h
theorem send_does : FxDoes (.fxSend a b c) s p (if 2 ^ 36 ≤ (x.r b).toNat then fxBad s else
    fxSend s p x k.slot (x.r b) (.msg (fld (x.r b) 35 20) (x.bytes (x.r a).toNat (x.r c).toNat))) := by
  have h : FxDoes (.fxSend a b c) s p _ := fxWord_does at_ (show execFxSend a b c s = fxWord s _ from rfl)
  simpa only [bufAt_of_inBuf sized.1, (xferOk_iff _).2 sized.2, Bool.true_eq_false, false_or] using h

omit sized
variable (a c)

-- ## Barrier words

theorem waitm_misaligned (cmp : WCmp) (h : (x.r b).toNat % 8 ≠ 0) : FxFaults (.fxWaitm cmp a b d) s s p fcMisaligned 0 (x.r b) := by
  have w : FxDoes (.fxWaitm cmp a b d) s p _ := fxWord_does at_ (show execFxWaitm cmp a b d s = fxWord s _ from rfl)
  rw [if_pos h] at w
  exact w
/-- The word goes on where the comparison holds, and waits where it does not. -/
theorem waitm_does (cmp : WCmp) (h : (x.r b).toNat % 8 = 0) {s1 : State} {bs : List Byte} (hr : FxReads s s1 p k (x.r b) 8 bs) :
    FxDoes (.fxWaitm cmp a b d) s p (if wcmp cmp (BitVec.ofNat 64 (natOf bs)) (x.r d) then
      .next s1 { x with f := x.f.set 0 a.toNat (BitVec.ofNat 64 (natOf bs)), wait := .none }
      else .waits s1 x (.waitm cmp a.toNat (x.r b) (x.r d))) := by
  have w : FxDoes (.fxWaitm cmp a b d) s p _ := fxWord_does at_ (show execFxWaitm cmp a b d s = fxWord s _ from rfl)
  rw [if_neg (not_not.2 h), fxWaitm] at w
  exact (fxDoes_of_eng w hr :)
theorem sigm_misaligned (set : Bool) (h : (x.r a).toNat % 8 ≠ 0) : FxFaults (.fxSigm set a b) s s p fcMisaligned 0 (x.r a) := by
  have w : FxDoes (.fxSigm set a b) s p _ := fxWord_does at_ (show execFxSigm set a b s = fxWord s _ from rfl)
  rw [if_pos h] at w
  exact w
theorem sigm_does (set : Bool) (h : (x.r a).toNat % 8 = 0) {s1 : State} {old : W64}
    (hu : s.rawUpd 2 (p / 2) k.slot (x.r a).toNat 8 (fun old => if set then x.r b else old + x.r b) = (s1, .ok old)) :
    FxDoes (.fxSigm set a b) s p (.next s1 x) := by
  have w : FxDoes (.fxSigm set a b) s p _ := fxWord_does at_ (show execFxSigm set a b s = fxWord s _ from rfl)
  rw [if_neg (not_not.2 h)] at w
  exact (fxDoes_of_eng w hu :)

-- ## Messages and starts

omit at_ in
theorem fxSends_of {i : Instr} {ch : W64} {pkt : FxPkt} (h : FxDoes i s p (fxSend s p x k.slot ch pkt)) : FxSends i s p x k ch pkt := by
  refine ⟨fun cause hc => ?_, fun hc => ?_⟩ <;> simp only [fxSend, hc] at h
  · exact h
  · exact fxLeaves_of h
theorem trig_bad (h : 2 ^ 20 ≤ (x.r a).toNat) : FxFaults (.fxTrig a b c) s s p fcOperand 0 0 := by
  have w : FxDoes (.fxTrig a b c) s p _ := fxWord_does at_ (show execFxTrig a b c s = fxWord s _ from rfl)
  rw [if_pos h] at w
  exact w
theorem trig_misaligned (h : (x.r a).toNat < 2 ^ 20) (hb : (x.r b).toNat % 8 ≠ 0) :
    FxFaults (.fxTrig a b c) s s p fcMisaligned 0 (x.r b) := by
  have w : FxDoes (.fxTrig a b c) s p _ := fxWord_does at_ (show execFxTrig a b c s = fxWord s _ from rfl)
  rw [if_neg (Nat.not_le.2 h), if_pos hb] at w
  exact w
theorem trig_sends (h : (x.r a).toNat < 2 ^ 20) (hb : (x.r b).toNat % 8 = 0) :
    FxSends (.fxTrig a b c) s p x k (x.r a) (.start x.fpc (x.r b) (x.r c)) := by
  have w : FxDoes (.fxTrig a b c) s p _ := fxWord_does at_ (show execFxTrig a b c s = fxWord s _ from rfl)
  rw [if_neg (Nat.not_le.2 h), if_neg (not_not.2 hb)] at w
  exact fxSends_of w
theorem recv_bad (h : ¬ (InBuf (x.r a) 0 ∧ (x.r b).toNat < 2 ^ 36)) : FxFaults (.fxRecv a b c) s s p fcOperand 0 0 := by
  have w : FxDoes (.fxRecv a b c) s p _ := fxWord_does at_ (show execFxRecv a b c s = fxWord s _ from rfl)
  have bad : (bufAt (x.r a) 0).isNone = true ∨ 2 ^ 36 ≤ (x.r b).toNat := by
    rcases not_and_or.1 h with h | h
    · exact .inl (by rw [bufAt_of_not_inBuf h]; rfl)
    · exact .inr (Nat.not_lt.1 h)
  rw [if_pos bad] at w
  exact w
theorem recv_does (h : InBuf (x.r a) 0 ∧ (x.r b).toNat < 2 ^ 36) :
    FxDoes (.fxRecv a b c) s p (fxRecv s x k (x.r a) c.toNat (x.r b)) := by
  have w : FxDoes (.fxRecv a b c) s p _ := fxWord_does at_ (show execFxRecv a b c s = fxWord s _ from rfl)
  have good : ¬ ((bufAt (x.r a) 0).isNone = true ∨ 2 ^ 36 ≤ (x.r b).toNat) := by
    rw [bufAt_of_inBuf h.1]; simpa using h.2
  rw [if_neg good] at w
  exact w

omit at_

/-- A message of a channel, for the context of the program that receives (R316). -/
def RxMsg.isFor (m : RxMsg) (k : FxStart) (ch : W64) : Prop :=
  m.slot = k.slot ∧ m.gen = k.gen ∧ m.dev = fld ch 15 0 ∧ m.proc = fld ch 19 16 ∧ m.tag = fld ch 35 20
theorem pick_eq_none {x : FxSt} {ch : W64} (h : ∀ m ∈ x.store, ¬ m.isFor k ch) : x.pick k ch = none := by
  refine List.findIdx?_eq_none_iff.2 fun m hm => ?_
  rw [Bool.eq_false_iff]
  intro e
  refine h m hm ?_
  simpa only [RxMsg.isFor, Bool.and_eq_true, beq_iff_eq, and_assoc] using e
theorem pick_eq_first {x : FxSt} {ch : W64} {pre post : List RxMsg} {m : RxMsg} (hs : x.store = pre ++ m :: post)
    (hp : ∀ y ∈ pre, ¬ y.isFor k ch) (hm : m.isFor k ch) : x.pick k ch = some pre.length := by
  have before : ({ x with store := pre } : FxSt).pick k ch = none := pick_eq_none hp
  unfold FxSt.pick at before ⊢
  rw [hs, List.findIdx?_append, before, List.findIdx?_cons]
  obtain ⟨h1, h2, h3, h4, h5⟩ := hm
  simp [h1, h2, h3, h4, h5]
theorem fxRecv_none {x : FxSt} {ch va : W64} {d : Nat} (h : ∀ m ∈ x.store, ¬ m.isFor k ch) :
    fxRecv s x k va d ch = .waits s x (.recv va.toNat d ch) := by
  unfold fxRecv
  rw [pick_eq_none h]; rfl
section
variable {x : FxSt} {ch va : W64} {d : Nat} {pre post : List RxMsg} {m : RxMsg} (hs : x.store = pre ++ m :: post)
  (hp : ∀ y ∈ pre, ¬ y.isFor k ch) (hm : m.isFor k ch)
include hs hp hm
theorem fxRecv_over (h : ¬ InBuf va m.bytes.length) : fxRecv s x k va d ch = fxBad s := by
  unfold fxRecv
  rw [pick_eq_first hs hp hm, hs]
  simp [bufAt_of_not_inBuf h]
theorem fxRecv_first (h : InBuf va m.bytes.length) : fxRecv s x k va d ch = .next s { x.putBytes va.toNat m.bytes with
    store := pre ++ post, f := x.f.set 0 d (BitVec.ofNat 64 m.bytes.length), wait := .none } := by
  unfold fxRecv
  rw [pick_eq_first hs hp hm, hs]
  have rest : (pre ++ m :: post).eraseIdx pre.length = pre ++ post := by
    rw [List.eraseIdx_append_of_length_le (le_refl _), Nat.sub_self, List.eraseIdx_cons_zero]
  simp [bufAt_of_inBuf h, FxSt.putBytes, hs, rest]
end

end Sys2Proof.Machine
end

section
/-! SUPPORT. State images of fabric programs: the bytes saved, and what is restored from them (R321). -/

namespace Sys2Proof.Machine

-- ## Little-endian bytes and their parts (R3)

theorem natOf_take (l : List Byte) (n : Nat) : natOf (l.take n) = natOf l % 256 ^ n := by
  induction l generalizing n with
  | nil => rw [List.take_nil]; exact (Nat.zero_mod _).symm
  | cons b l ih =>
    cases n with
    | zero => exact (Nat.mod_one _).symm
    | succ n =>
      have hb : b.toNat < 256 := b.isLt
      show b.toNat + 256 * natOf (l.take n) = (b.toNat + 256 * natOf l) % 256 ^ (n + 1)
      have rest : (b.toNat + 256 * natOf l) / 256 = natOf l := by omega
      rw [ih, Nat.pow_succ, Nat.mul_comm (256 ^ n), Nat.mod_mul, rest]
      omega
theorem natOf_drop (l : List Byte) (n : Nat) : natOf (l.drop n) = natOf l / 256 ^ n := by
  induction l generalizing n with
  | nil => rw [List.drop_nil]; exact (Nat.zero_div _).symm
  | cons b l ih =>
    cases n with
    | zero => exact (Nat.div_one _).symm
    | succ n =>
      have hb : b.toNat < 256 := b.isLt
      show natOf (l.drop n) = (b.toNat + 256 * natOf l) / 256 ^ (n + 1)
      rw [ih, Nat.pow_succ, Nat.mul_comm (256 ^ n), ← Nat.div_div_eq_div_mul]
      congr 1
      omega
theorem bytesOf_mod (n v : Nat) : bytesOf n (v % 256 ^ n) = bytesOf n v := by
  have h := bytesOf_natOf (bytesOf n v)
  rwa [bytesOf_length, natOf_bytesOf] at h

-- ## What is saved

theorem maskBufs_eq (m : BitVec 8) : maskBufs m.toNat = (List.range 8).filter (fun j => m.getLsbD j) := by
  refine List.filter_congr fun j _ => ?_
  rw [BitVec.getLsbD, Nat.testBit_eq_decide_div_mod_eq]
  rfl
/-- The quadwords of an image's header, given that of the claim. -/
def FxSt.header (x : FxSt) (mask n : Nat) : List Byte :=
  bytesOf 8 (1 + mask * 65536) ++ bytesOf 8 (x.fpc + 8).toNat ++ bytesOf 8 x.nacc.toNat
    ++ (List.range 16).flatMap (fun i => bytesOf 8 (x.f.get 0 i).toNat) ++ bytesOf 8 n
/-- A header filled up with zeros. -/
def padded (h : List Byte) : List Byte := h ++ List.replicate (256 - h.length) 0
theorem image_eq_padded (x : FxSt) (mask : Nat) :
    x.image mask = padded (x.header mask (x.claim.elim 0 (fun c => c.handle.toNat + c.cid.toNat * 2 ^ 32)))
      ++ (maskBufs mask).flatMap (fun i => x.bytes (65536 * i) 65536) := by
  unfold FxSt.image padded FxSt.header
  cases hc : x.claim <;> rw [Option.elim]
theorem header_length (x : FxSt) (mask n : Nat) : (x.header mask n).length = 160 := by
  simp only [FxSt.header, List.length_append, List.length_flatMap, bytesOf_length]; rfl
theorem claim_toNat (cl : GClaim) : (cl.cid ++ cl.handle).toNat = cl.handle.toNat + cl.cid.toNat * 2 ^ 32 := by
  rw [toNat_append_add, Nat.add_comm (_ * _)]
/-- The quadword of a claim in an image. -/
def FxSt.claimWord (x : FxSt) : W64 := match x.claim with
  | some cl => cl.cid ++ cl.handle
  | none => 0
theorem claimWord_toNat (x : FxSt) : x.claimWord.toNat = x.claim.elim 0 (fun c => c.handle.toNat + c.cid.toNat * 2 ^ 32) := by
  unfold FxSt.claimWord
  cases x.claim with
  | none => rfl
  | some cl =>
    rw [Option.elim_some]
    exact claim_toNat cl
/-- The image of a state: its quadwords, padded to 256 bytes, and the masked buffers. -/
theorem image_eq (x : FxSt) (mask : BitVec 8) :
    x.image mask.toNat = (([BitVec.ofNat 64 (1 + mask.toNat * 2 ^ 16), x.fpc + 8, x.nacc] ++ (List.range 16).map (fun j => x.f.get 0 j)
        ++ [x.claimWord]).flatMap (fun q => bytesOf 8 q.toNat) ++ List.replicate 96 0)
      ++ ((List.range 8).filter (fun j => mask.getLsbD j)).flatMap (fun j => x.bytes (65536 * j) 65536) := by
  have first : bytesOf 8 (1 + mask.toNat * 65536) = bytesOf 8 (BitVec.ofNat 64 (1 + mask.toNat * 2 ^ 16)).toNat := by
    rw [BitVec.toNat_ofNat]; exact (bytesOf_mod 8 _).symm
  rw [image_eq_padded, ← claimWord_toNat, padded, header_length, FxSt.header, first, maskBufs_eq]
  simp only [List.flatMap_append, List.flatMap_cons, List.flatMap_nil, List.flatMap_map, List.append_assoc, List.append_nil]

-- ## What is restored

/-- The quadword `j` of an image's header. -/
def headerQ (h : List Byte) (j : Nat) : W64 := BitVec.ofNat 64 (natOf ((h.drop (8 * j)).take 8))
theorem headerQ_zero (h : List Byte) : (headerQ h 0).toNat = natOf h % 2 ^ 64 := by
  unfold headerQ
  rw [BitVec.toNat_ofNat, natOf_take, natOf_drop]
  omega
theorem imageOk_iff {h : List Byte} (hl : h.length = 256) :
    imageOk h = true ↔ fld (headerQ h 0) 15 0 = 1 ∧ ∀ j, 0xA0 ≤ j → j < 0x100 → h.getD j 0 = 0 := by
  unfold imageOk
  rw [Bool.and_eq_true, beq_iff_eq, natOf_take, fld, headerQ_zero, List.all_eq_true]
  refine and_congr (by omega) ⟨fun hz j h1 h2 => ?_, fun hz b hb => ?_⟩
  · have hj : j < h.length := by omega
    rw [List.getD_eq_getElem?_getD, List.getElem?_eq_getElem hj]
    refine beq_iff_eq.1 (hz _ (List.mem_iff_getElem?.2 ⟨j - 0xA0, ?_⟩))
    rw [List.getElem?_take_of_lt (by omega), List.getElem?_drop, Nat.add_sub_cancel' h1, List.getElem?_eq_getElem hj]
    rfl
  · obtain ⟨m, hm⟩ := List.mem_iff_getElem?.1 hb
    have hlt : m < 0x60 := by
      have := (List.getElem?_eq_some_iff.1 hm).1
      rw [List.length_take] at this
      omega
    rw [List.getElem?_take_of_lt hlt, List.getElem?_drop] at hm
    have z := hz (0xA0 + m) (by omega) (by omega)
    rw [List.getD_eq_getElem?_getD, hm] at z
    exact beq_iff_eq.2 z
theorem maskBufs_header (h : List Byte) :
    maskBufs (natOf ((h.drop 2).take 1)) = (List.range 8).filter (fun j => (headerQ h 0).getLsbD (16 + j)) := by
  refine List.filter_congr fun j hj => ?_
  have hj8 : j < 8 := List.mem_range.1 hj
  rw [BitVec.getLsbD, headerQ_zero, natOf_take, natOf_drop, Nat.testBit_mod_two_pow, Nat.add_comm 16 j, ← Nat.testBit_div_two_pow]
  have h16 : j + 16 < 64 := by omega
  rw [decide_eq_true h16, Bool.true_and, show (256 ^ 2 : Nat) = 2 ^ 16 from rfl, show (256 ^ 1 : Nat) = 2 ^ 8 from rfl]
  have low := Nat.testBit_mod_two_pow (natOf h / 2 ^ 16) 8 j
  rw [decide_eq_true hj8, Bool.true_and, Nat.testBit_eq_decide_div_mod_eq] at low
  rw [← low]
  rfl

/-- Buffers are restored one after another: `l` pairs each with its place in the image, whose part `g` gives. -/
def FxSt.restore (x : FxSt) (l : List (Nat × Nat)) (g : Nat → List Byte) : FxSt :=
  l.foldl (fun (x : FxSt) y => x.putBytes (65536 * y.1) (g y.2)) x
theorem restore_buf (x : FxSt) (l : List (Nat × Nat)) (g : Nat → List Byte) : x.restore l g = { x with buf := (x.restore l g).buf } := by
  induction l generalizing x with
  | nil => rfl
  | cons z l ih => exact (ih (x.putBytes (65536 * z.1) (g z.2))).trans rfl
theorem get_restore (x : FxSt) (l : List (Nat × Nat)) (g : Nat → List Byte) {j y : Nat} {v : Byte} (hy : y < 65536)
    (hlen : ∀ z ∈ l, (g z.2).length = 65536) (hv : ∀ z ∈ l, z.1 = j → (g z.2).getD y 0 = v)
    (hk : x.buf.get 0 (65536 * j + y) = v ∨ ∃ z ∈ l, z.1 = j) : (x.restore l g).buf.get 0 (65536 * j + y) = v := by
  induction l generalizing x with
  | nil => exact hk.resolve_right (fun ⟨_, hz, _⟩ => absurd hz List.not_mem_nil)
  | cons z l ih =>
    refine ih (x.putBytes (65536 * z.1) (g z.2)) (fun w hw => hlen w (List.mem_cons_of_mem z hw))
      (fun w hw => hv w (List.mem_cons_of_mem z hw)) ?_
    rw [get_putBytes, hlen z List.mem_cons_self]
    by_cases e : z.1 = j
    · rw [if_pos (by omega), e, Nat.add_sub_cancel_left]
      exact .inl (hv z List.mem_cons_self e)
    · rw [if_neg (by omega)]
      obtain hk | ⟨w, hw, ew⟩ := hk
      · exact .inl hk
      · obtain rfl | hw := List.mem_cons.1 hw
        · exact absurd ew e
        · exact .inr ⟨w, hw, ew⟩
/-- The part of a buffer in an image's body. -/
def imagePart (bs : List Byte) (m : Nat) : List Byte := (bs.drop (65536 * m)).take 65536
theorem imagePart_getD (bs : List Byte) (m : Nat) {y : Nat} (hy : y < 65536) : (imagePart bs m).getD y 0 = bs.getD (65536 * m + y) 0 := by
  unfold imagePart
  rw [List.getD_eq_getElem?_getD, List.getElem?_take_of_lt hy, List.getElem?_drop, List.getD_eq_getElem?_getD]
section
variable (x : FxSt) {bufs : List Nat} (hn : bufs.Nodup) {bs : List Byte} (hbs : bs.length = 65536 * bufs.length) {j y : Nat} (hy : y < 65536)
include hbs
theorem imagePart_length {z : Nat × Nat} (hz : z ∈ bufs.zipIdx) : (imagePart bs z.2).length = 65536 := by
  have hm := List.snd_lt_of_mem_zipIdx hz
  rw [imagePart, List.length_take, List.length_drop, hbs]
  omega
include hy
/-- A masked buffer is restored from its part. -/
theorem get_restore_masked (hn : bufs.Nodup) {m : Nat} (hm : bufs[m]? = some j) :
    (x.restore bufs.zipIdx (imagePart bs)).buf.get 0 (65536 * j + y) = bs.getD (65536 * m + y) 0 := by
  have here : (j, m) ∈ bufs.zipIdx := List.mk_mem_zipIdx_iff_getElem?.2 hm
  refine get_restore x _ _ hy (fun z hz => imagePart_length hbs hz) ?_ (.inr ⟨_, here, rfl⟩)
  rintro ⟨j', m'⟩ hz rfl
  have same : m' = m := by
    have hz' := List.mk_mem_zipIdx_iff_getElem?.1 hz
    exact (List.getElem?_inj (List.getElem?_eq_some_iff.1 hz').1 hn).1 (hz'.trans hm.symm)
  rw [same, imagePart_getD bs m hy]
/-- Another buffer keeps its bytes. -/
theorem get_restore_other (hj : j ∉ bufs) :
    (x.restore bufs.zipIdx (imagePart bs)).buf.get 0 (65536 * j + y) = x.buf.get 0 (65536 * j + y) := by
  refine get_restore x _ _ hy (fun z hz => imagePart_length hbs hz) ?_ (.inl rfl)
  rintro ⟨j', m'⟩ hz rfl
  exact absurd (List.fst_mem_of_mem_zipIdx hz) hj
end

end Sys2Proof.Machine
end

section
/-! SUPPORT. The words that save and restore a state image, and the end of a program (R321, R322). -/

namespace Sys2Proof.Machine

section
variable {s : State} {p : Nat} {x : FxSt} {k : FxStart} (at_ : FxAt s p x k) (a : FReg)
include at_

-- ## State images

theorem ckptSv_misaligned (mask : BitVec 8) (h : (x.r a).toNat % 256 ≠ 0) : FxFaults (.fxCkptSv a mask) s s p fcMisaligned 0 (x.r a) := by
  have w : FxDoes (.fxCkptSv a mask) s p _ := fxWord_does at_ (show execFxCkptSv a mask s = fxWord s _ from rfl)
  rw [if_pos h] at w
  exact w
theorem ckptSv_leaves (mask : BitVec 8) (h : (x.r a).toNat % 256 = 0) {s1 : State}
    (hw : FxWrites s s1 p k (x.r a).toNat (x.image mask.toNat)) :
    FxLeaves (.fxCkptSv a mask) s1 s p { x with busy := some (x.fpc + 8) } := by
  have w : FxDoes (.fxCkptSv a mask) s p _ := fxWord_does at_ (show execFxCkptSv a mask s = fxWord s _ from rfl)
  rw [if_neg (not_not.2 h)] at w
  exact fxLeaves_of (fxDoes_of_eng w hw :)
theorem ckptLd_misaligned (h : (x.r a).toNat % 256 ≠ 0) : FxFaults (.fxCkptLd a) s s p fcMisaligned 0 (x.r a) := by
  have w : FxDoes (.fxCkptLd a) s p _ := fxWord_does at_ (show execFxCkptLd a s = fxWord s _ from rfl)
  rw [if_pos h] at w
  exact w

variable {s1 : State} {h : List Byte} (aligned : (x.r a).toNat % 256 = 0) (hr : FxReads s s1 p k (x.r a) 256 h)
include aligned hr

theorem ckptLd_bad (hb : imageOk h = false) : FxFaults (.fxCkptLd a) s1 s p fcOperand 0 0 := by
  have w : FxDoes (.fxCkptLd a) s p _ := fxWord_does at_ (show execFxCkptLd a s = fxWord s _ from rfl)
  rw [if_neg (not_not.2 aligned)] at w
  have w' := fxDoes_of_eng w hr
  rw [if_pos hb] at w'
  exact w'
/-- The registers of an image. -/
def imageRegs (h : List Byte) : SMap W64 := (List.range 16).foldl (fun m i => m.set 0 i (headerQ h (3 + i))) []
omit at_ aligned hr in
theorem get_imageRegs (h : List Byte) {j : Nat} (hj : j < 16) : (imageRegs h).get 0 j = headerQ h (3 + j) :=
  SMap.get_foldl_set 0 (List.range 16) id (fun i => headerQ h (3 + i)) [] j _ (fun _ _ e => by rw [← e]; rfl)
    (.inr ⟨j, List.mem_range.2 hj, rfl⟩)
omit at_ aligned hr in
theorem imageRegs_eq (h : List Byte) : imageRegs h = (List.range 16).foldl (fun m i =>
    SMap.set 0 m i (BitVec.ofNat 64 (natOf ((h.drop (0x18 + 8 * i)).take 8)))) ([] : SMap W64) := by
  unfold imageRegs headerQ
  simp only [Nat.mul_add]
theorem ckptLd_leaves (hok : imageOk h = true) {s2 : State} {bs : List Byte}
    (hb : s1.rawRead 2 (p / 2) k.slot ((x.r a).toNat + 256) (65536 * (maskBufs (natOf ((h.drop 2).take 1))).length) = (s2, .ok bs)) :
    FxLeaves (.fxCkptLd a) s2 s p { x.restore (maskBufs (natOf ((h.drop 2).take 1))).zipIdx (imagePart bs) with
      nacc := headerQ h 2, f := imageRegs h, busy := some (headerQ h 1 &&& ~~~ 7) } := by
  have w : FxDoes (.fxCkptLd a) s p _ := fxWord_does at_ (show execFxCkptLd a s = fxWord s _ from rfl)
  rw [if_neg (not_not.2 aligned)] at w
  have w' := fxDoes_of_eng w hr
  rw [if_neg (by rw [hok]; exact Bool.noConfusion)] at w'
  have w'' := fxDoes_of_eng w' hb
  dsimp only at w''
  rw [← imageRegs_eq] at w''
  exact fxLeaves_of w''
end

-- ## The end of a program

theorem drainDone_fxs (s : State) (org : Origin) (k : CmdKind) : (s.drainDone org k).fxs = s.fxs := by
  unfold State.drainDone
  split
  · unfold State.updAny
    split <;> rfl
  · rfl
theorem updAny_of_grp {s : State} {gid : Nat} {g : Group} {f : Group → Group} (h : s.grp gid = some g) :
    s.updAny gid f = s.setGrp gid (f g) := by
  unfold State.updAny
  rw [h]
theorem drainAdd_neg_one (g : Group) (k : CmdKind) : g.drainAdd k (-1) = g.undrained k := by
  have one (n : Nat) : (Int.ofNat n + (-1)).toNat = n - 1 := by simp only [Int.ofNat_eq_natCast]; omega
  cases k <;> simp only [Group.drainAdd, Group.undrained, one]
/-- A processor with no program. -/
def FxSt.ended (x : FxSt) : FxSt := { x with cur := none, claim := none, wait := .none, busy := none, owes := false, parts := [], lay := none }
/-- The registers after a program's end: where it stopped, and the programs counted. -/
def State.fxCounted (s : State) (p : Nat) : State :=
  let s1 := s.setReg (fxAddr p 0x10) (s.fx p).fpc
  s1.setRegFld (fxAddr p 0x28) 31 0 (fld (s1.reg (fxAddr p 0x28)) 31 0 + 1)
/-- A program's end, before its group and its phaser hear of it. -/
def State.fxLeft (s : State) (p : Nat) : State :=
  { (s.fxCounted p).setFx p (s.fx p).ended with fxWires := (s.fxCounted p).fxWires.filter (fun w => w.p != p) }
theorem fxLeft_eq (s : State) (p : Nat) : s.fxLeft p = { s with
    mmio := (s.fxCounted p).mmio, fxs := s.fxs.set FxSt.init p (s.fx p).ended, fxWires := s.fxWires.filter (fun w => w.p != p) } := by
  have counted : s.fxCounted p = { s with mmio := (s.fxCounted p).mmio } := rfl
  unfold State.fxLeft
  generalize s.fxCounted p = t at counted
  rw [counted]
  rfl
/-- The count that a program's end sends. -/
def State.fxSent (s : State) (p : Nat) (k : FxStart) : State :=
  if k.np then s.fxLeft p
  else (s.fxLeft p).sendCount ⟨k.phaser, k.slot, 1, none, .fabric, 0, k.org, 0, 0, k.site, k.seq, ⟨[], true⟩⟩
theorem fxEnd_eq (s : State) (p : Nat) (k : FxStart) :
    s.fxEnd p k = (((s.fxSent p k).drainDone k.org .fabric).originDone k.slot k.org).afterCmd k.tid (if k.np then none else some k.phaser) := rfl
/-- All that has changed by then. -/
theorem fxSent_frame (s : State) (p : Nat) (k : FxStart) : ∃ f w, s.fxSent p k = { s with
    mmio := (s.fxCounted p).mmio, fxs := f, fxWires := w
    phMsgs := s.phMsgs ++ if k.np then [] else [countMsg k.phaser k.slot 1 .fabric 0 k.org 0 0 k.site k.seq ⟨[], true⟩] } := by
  refine ⟨s.fxs.set FxSt.init p (s.fx p).ended, s.fxWires.filter (fun w => w.p != p), ?_⟩
  unfold State.fxSent
  rw [fxLeft_eq]
  cases k.np
  · rfl
  · rw [if_pos rfl, if_pos rfl, List.append_nil]
theorem fxSent_fx (s : State) (p : Nat) (k : FxStart) : (s.fxSent p k).fx p = (s.fx p).ended := by
  have left : (s.fxLeft p).fx p = (s.fx p).ended := by rw [fxLeft_eq]; exact SMap.get_set_self ..
  unfold State.fxSent
  split <;> exact left
theorem fxEnd_fx (s : State) (p : Nat) (k : FxStart) : (s.fxEnd p k).fx p = (s.fx p).ended := by
  have same : (s.fxEnd p k).fxs = (s.fxSent p k).fxs := by
    rw [fxEnd_eq]
    exact (congrArg State.fxs ((originDone_frame ..).leaves.trans (afterCmd_frame ..))).trans (drainDone_fxs ..)
  rw [← fxSent_fx s p k]
  unfold State.fx
  rw [same]

/-- The end of a program of a resident group, where nothing waits for it. -/
theorem fxEnd_of_idle {s : State} {p gid : Nat} {k : FxStart} {g : Group} (ho : k.org = .group gid) (hg : s.grp gid = some g)
    (ht : k.tid = some g.tid) (he : s.endings = []) (hs : s.suspends = []) :
    ∃ x, s.fxEnd p k = { (s.fxSent p k).setGrp gid { g with drFx := g.drFx - 1 } with phasers := x } := by
  obtain ⟨_, _, frame⟩ := fxSent_frame s p k
  have groups : (s.fxSent p k).grp gid = some g := (congrArg (State.grp · gid) frame).trans hg
  have endings : (s.fxSent p k).endings = [] := (congrArg State.endings frame).trans he
  have suspends : (s.fxSent p k).suspends = [] := (congrArg State.suspends frame).trans hs
  have drained : (s.fxSent p k).drainDone k.org .fabric = (s.fxSent p k).setGrp gid { g with drFx := g.drFx - 1 } := by
    rw [ho]
    exact (updAny_of_grp groups).trans (congrArg _ (drainAdd_neg_one g .fabric))
  have here : ((s.fxSent p k).setGrp gid { g with drFx := g.drFx - 1 }).grp gid = some { g with drFx := g.drFx - 1 } := by
    rw [grp_setGrp, if_pos rfl]
  rw [fxEnd_eq, drained, ho, ht]
  exact afterCmd_of_idle here endings suspends _

theorem halt_ends {s : State} {p : Nat} {x : FxSt} {k : FxStart} (at_ : FxAt s p x k) (hc : x.claim = none) :
    exec .fxHalt s = .next (s.fxEnd p k) := by
  obtain ⟨hcur, rfl, hrun⟩ := at_
  show execFxHalt s = _
  rw [execFxHalt, hcur]
  dsimp only
  rw [hrun, hc]

end Sys2Proof.Machine
end

section
/-! SUPPORT. What the claim of the fabric words' transfers says of each word (R311, R314 to R316, R320 to R322). -/

namespace Sys2Proof.Machine

variable {s : State} {p : Nat} {x : FxSt} {k : FxStart}

/-- Bytes written into a buffer, with the transfer in progress. -/
theorem fxFills_of {i : Instr} {s1 : State} {o : Nat} {bs : List Byte} (h : FxDoes i s p (.busy s1 (x.putBytes o bs) (x.fpc + 8))) :
    FxFills i s1 s p x o bs := ⟨_, bufPut_putBytes x o bs, fxLeaves_of h⟩
/-- A message taken: its bytes in the buffer, its length in the register. -/
theorem recv_sets {i : Instr} {o : Nat} {c : FReg} {bs : List Byte} {store : List RxMsg}
    (h : FxDoes i s p (.next s { x.putBytes o bs with
      store := store, f := x.f.set 0 c.toNat (BitVec.ofNat 64 bs.length), wait := .none })) :
    ∃ x1, BufPut x x1 o bs ∧ FxSets i s s p { x1 with store := store, wait := .none } c (BitVec.ofNat 64 bs.length) :=
  ⟨_, bufPut_putBytes x o bs, fxSets_of h⟩
/-- What a restored image leaves: the registers, the masked buffers, and no other state. -/
theorem restored {x : FxSt} {h bs : List Byte} {bufs : List Nat} (hn : bufs.Nodup) (hbs : bs.length = 65536 * bufs.length) {x' : FxSt}
    (hx : x' = { x.restore bufs.zipIdx (imagePart bs) with
      nacc := headerQ h 2, f := imageRegs h, busy := some (headerQ h 1 &&& ~~~ 7) }) :
    x' = { x with f := x'.f, buf := x'.buf, nacc := headerQ h 2, busy := some (headerQ h 1 &&& ~~~ 7) }
    ∧ (∀ j, j < 16 → x'.f.get 0 j = headerQ h (3 + j))
    ∧ ∀ j y, y < 65536 → (∀ m, bufs.findIdx? (fun m => m == j) = some m → x'.buf.get 0 (65536 * j + y) = bs.getD (65536 * m + y) 0)
      ∧ (bufs.findIdx? (fun m => m == j) = none → x'.buf.get 0 (65536 * j + y) = x.buf.get 0 (65536 * j + y)) := by
  subst hx
  refine ⟨?_, fun j hj => get_imageRegs h hj, fun j y hy => ⟨fun m hm => ?_, fun hm => ?_⟩⟩
  · have kept := restore_buf x bufs.zipIdx (imagePart bs)
    generalize x.restore bufs.zipIdx (imagePart bs) = z at kept
    rw [kept]
  · obtain ⟨hlt, hj, -⟩ := List.findIdx?_eq_some_iff_getElem.1 hm
    exact get_restore_masked x hbs hy hn ((List.getElem?_eq_getElem hlt).trans (congrArg some (beq_iff_eq.1 hj)))
  · refine get_restore_other x hbs hy fun hj => ?_
    have none_ := List.findIdx?_eq_none_iff.1 hm j hj
    rw [beq_self_eq_true] at none_
    exact Bool.noConfusion none_
/-- The end of a program of a resident group, where nothing waits for it: what is counted, and what its phaser hears. -/
theorem fxEnd_effect {gid : Nat} {g : Group} (ho : k.org = .group gid) (hg : s.grp gid = some g) (ht : k.tid = some g.tid)
    (he : s.endings = []) (hs : s.suspends = []) :
    SameHome s (s.fxEnd p k) ∧ (s.fxEnd p k).grp gid = some { g with drFx := g.drFx - 1 }
    ∧ (s.fxEnd p k).reg (fxAddr p 0x10) = (s.fx p).fpc
    ∧ fld ((s.fxEnd p k).reg (fxAddr p 0x28)) 31 0 = (fld (s.reg (fxAddr p 0x28)) 31 0 + 1) % 2 ^ 32
    ∧ (s.fxEnd p k).phMsgs = s.phMsgs
      ++ (if k.np then [] else [countMsg k.phaser k.slot 1 .fabric 0 k.org 0 0 k.site k.seq ⟨[], true⟩]) := by
  obtain ⟨y, hend⟩ := fxEnd_of_idle (p := p) ho hg ht he hs
  obtain ⟨f, w, hsent⟩ := fxSent_frame s p k
  have regs (a : Nat) : (s.fxEnd p k).reg a = (s.fxCounted p).reg a := by rw [hend, hsent]; rfl
  have apart : fxAddr p 0x10 ≠ fxAddr p 0x28 := by unfold fxAddr; omega
  refine ⟨fun k' a => ?_, ?_, ?_, ?_, ?_⟩
  · rw [hend, hsent]; exact homeByte_congr rfl rfl rfl k' a
  · rw [hend]; exact (grp_setGrp _ _ _ _).trans (if_pos rfl)
  · rw [regs]
    exact (reg_setRegFld_ne _ _ _ _ apart).trans (reg_setReg_self ..)
  · rw [regs]
    refine (fld_setRegFld _ _ (by omega) (by omega) _).trans ?_
    rw [reg_setReg_ne _ _ apart.symm]
  · rw [hend, hsent]; rfl

/-- Settles O34, word by word. -/
theorem fabricTransfers : Obligations.FabricTransfers := by
  intro a b c d cmp set mask s p x k at_
  refine ⟨copies_bad at_ a b c, fun sized s1 bs hr => fxFills_of (fxDoes_of_eng (loadc_does at_ b sized) hr :),
    fun sized s1 f dt va hr => fxFaults_of_eng (loadc_does at_ b sized) hr, fun sized s1 hr => ?_,
    fun sized s1 hw => fxLeaves_of (fxDoes_of_eng (storec_does at_ b sized) hw :),
    fun sized s1 f dt va hw => fxFaults_of_eng (storec_does at_ b sized) hw,
    ⟨waitm_misaligned at_ a b d cmp, fun s1 bs ha hr => ?_⟩,
    ⟨sigm_misaligned at_ a b set, fun s1 old ha hu => fxLeaves_of (sigm_does at_ a b set ha hu)⟩,
    ⟨fun sized hch => ?_, fun sized hch => ?_⟩,
    ⟨recv_bad at_ a b c, fun hok none_ => ?_, fun pre m post hok hs hp hm => ⟨fun long => ?_, fun fits => ?_⟩⟩,
    ⟨trig_bad at_ a b c, trig_misaligned at_ a b c, trig_sends at_ a b c⟩,
    ⟨ckptSv_misaligned at_ a mask, fun s1 ha hw => ckptSv_leaves at_ a mask ha ?_⟩,
    ⟨ckptLd_misaligned at_ a, fun s1 h ha hr => ⟨fun bad => ckptLd_bad at_ a ha hr ?_, fun s2 bs ok hb => ?_⟩⟩, fun _ hc => ?_⟩
  case refine_1 =>
    have w := loadc_does at_ b sized
    rw [hr] at w
    exact w
  case refine_2 =>
    have w := waitm_does at_ a b d cmp ha hr
    refine ⟨fun holds => ?_, fun fails => ?_⟩
    · have yes : wcmp cmp (BitVec.ofNat 64 (natOf bs)) (x.r d) = true := by cases cmp <;> simpa [wcmp] using holds
      rw [if_pos yes] at w
      exact fxSets_of w
    · have no : ¬ wcmp cmp (BitVec.ofNat 64 (natOf bs)) (x.r d) = true := by cases cmp <;> simpa [wcmp] using fails
      rw [if_neg no] at w
      exact fxLeaves_of w
  case refine_3 =>
    have w := send_does at_ b sized
    rw [if_pos hch] at w
    exact w
  case refine_4 =>
    have w := send_does at_ b sized
    rw [if_neg (Nat.not_le.2 hch)] at w
    exact fxSends_of w
  case refine_5 =>
    have w := recv_does at_ a b c hok
    rw [fxRecv_none none_] at w
    exact fxLeaves_of w
  case refine_6 =>
    have w := recv_does at_ a b c hok
    rw [fxRecv_over hs hp hm (fun h => absurd h.2 (Nat.not_le.2 long))] at w
    exact w
  case refine_7 =>
    have w := recv_does at_ a b c hok
    rw [fxRecv_first hs hp hm ⟨hok.1.1, fits⟩] at w
    exact recv_sets w
  case refine_8 =>
    rw [image_eq]
    exact hw
  case refine_9 =>
    rw [Bool.eq_false_iff]
    exact fun e => bad ((imageOk_iff (rawRead_length hr)).1 e)
  case refine_10 =>
    have hb' : s1.rawRead 2 (p / 2) k.slot ((x.r a).toNat + 256) (65536 * (maskBufs (natOf ((h.drop 2).take 1))).length) = (s2, .ok bs) := by
      rw [maskBufs_header]; exact hb
    have leaves := ckptLd_leaves at_ a ha hr ((imageOk_iff (rawRead_length hr)).2 ok) hb'
    have nodup : (maskBufs (natOf ((h.drop 2).take 1))).Nodup := List.nodup_range.filter _
    obtain ⟨same, regs, bufs⟩ := restored (h := h) (x := x) nodup (rawRead_length hb') rfl
    rw [maskBufs_header] at leaves same regs bufs
    refine ⟨_, leaves, same, regs, fun j y _ hy => ?_⟩
    obtain ⟨found, kept⟩ := bufs j y hy
    split
    · exact found _ ‹_›
    · exact kept ‹_›
  case refine_11 =>
    obtain ⟨-, rfl, -⟩ := id at_
    have fx := fxEnd_fx s p k
    refine ⟨_, halt_ends at_ hc, by rw [fx]; rfl, by rw [fx]; rfl, by rw [fx]; rfl, by rw [fx]; rfl,
      fun gid g ho hg ht he hs => fxEnd_effect ho hg ht he hs⟩

end Sys2Proof.Machine
end

section
/-! SUPPORT. The waiting `MWAIT`s of a group that complete: what they leave of the group, and of everything else (R253, R254). -/

namespace Sys2Proof.Machine

/-- Only groups, and what cores and clusters hold, have changed. -/
def GroupsFrame (s t : State) : Prop := t = { s with groups := t.groups, cores := t.cores, clusters := t.clusters }
theorem GroupsFrame.refl (s : State) : GroupsFrame s s := rfl
theorem GroupsFrame.trans {s t u : State} (a : GroupsFrame s t) (b : GroupsFrame t u) : GroupsFrame s u := by
  unfold GroupsFrame at *; rw [b, a]
theorem GroupsFrame.foldl {β : Type} (f : State → β → State) (l : List β) (s : State) (hf : ∀ t x, GroupsFrame t (f t x)) :
    GroupsFrame s (l.foldl f s) := by
  induction l generalizing s with
  | nil => exact GroupsFrame.refl s
  | cons x l ih => exact (hf s x).trans (ih _)
theorem GroupsFrame.tick {s t : State} (h : GroupsFrame s t) : t.tick = s.tick := by unfold GroupsFrame at h; rw [h]
theorem updGrp_frame (s : State) (gid : Nat) (f : Group → Group) : GroupsFrame s (s.updGrp gid f) := rfl

theorem grp_updGrp_self {s : State} {gid : Nat} {g : Group} (h : s.grp gid = some g) (f : Group → Group) :
    (s.updGrp gid f).grp gid = some (f g) := by rw [grp_updGrp, if_pos rfl, h]; rfl
theorem grp_updGrp_ne (s : State) {gid i : Nat} (h : i ≠ gid) (f : Group → Group) : (s.updGrp gid f).grp i = s.grp i := by
  rw [grp_updGrp, if_neg h.symm]

-- ## The end of one `MWAIT`

theorem acquireQ_frame (s : State) (g : Group) (d : MatrixDep) :
    s.acquireQ g d = { s with cores := (s.acquireQ g d).cores, clusters := (s.acquireQ g d).clusters } := by
  unfold State.acquireQ
  dsimp only
  split <;> rfl
theorem mwaitDone_frame (s : State) (gid n : Nat) : GroupsFrame s (s.mwaitDone gid n) := by
  unfold State.mwaitDone
  split
  · rename_i g _
    have h := acquireQ_frame s g (.before n)
    generalize s.acquireQ g (.before n) = t at h
    rw [h]
    rfl
  · rfl
theorem wakeSplit_frame (s : State) (gid idx : Nat) : GroupsFrame s (s.wakeSplit gid idx) := rfl
/-- What an `MWAIT` that is over leaves of its group. -/
def Group.waited (g : Group) (n idx t : Nat) : Group :=
  let g' := { g with qwrites := g.qwrites.filter (fun q => !q.isOf (.before n)) }
  match g'.split? idx with
  | some sp => (g'.putSplit { sp with pc := sp.pc + 8, st := .ready }).becomeReady t
  | none => g'
theorem grp_waited {s : State} {gid : Nat} {g : Group} (h : s.grp gid = some g) (n idx : Nat) :
    ((s.mwaitDone gid n).wakeSplit gid idx).grp gid = some (g.waited n idx s.tick) := by
  have done : (s.mwaitDone gid n).grp gid = some { g with qwrites := g.qwrites.filter (fun q => !q.isOf (.before n)) } := by
    unfold State.mwaitDone
    rw [h]
    refine grp_updGrp_self (s := s.acquireQ g (.before n)) ?_ _
    rw [acquireQ_frame]
    exact h
  rw [State.wakeSplit, grp_updGrp_self done, (mwaitDone_frame s gid n).tick]
  rfl
theorem grp_waited_ne (s : State) {gid j : Nat} (h : j ≠ gid) (n idx : Nat) :
    ((s.mwaitDone gid n).wakeSplit gid idx).grp j = s.grp j := by
  rw [State.wakeSplit, grp_updGrp_ne _ h]
  unfold State.mwaitDone
  split
  · rename_i g _
    rw [grp_updGrp_ne _ h, acquireQ_frame]
    rfl
  · rfl

/-- A group in which `MWAIT`s have completed, and nothing else. -/
def Settled (g g' : Group) : Prop :=
  g' = { g with splits := g'.splits, qwrites := g'.qwrites, readyAt := g'.readyAt, wait := g'.wait }
theorem Settled.refl (g : Group) : Settled g g := rfl
theorem Settled.trans {g h k : Group} (a : Settled g h) (b : Settled h k) : Settled g k := by
  unfold Settled at *; rw [b, a]
theorem waited_settled (g : Group) (n idx t : Nat) : Settled g (g.waited n idx t) := by
  unfold Group.waited Settled
  dsimp only
  split
  · rw [becomeReady_eq]; rfl
  · rfl
theorem waited_split_self {g : Group} {sp : Split} (h : g.split? sp.idx = some sp) (n t : Nat) :
    (g.waited n sp.idx t).split? sp.idx = some { sp with pc := sp.pc + 8, st := .ready } := by
  have h' : ({ g with qwrites := g.qwrites.filter (fun q => !q.isOf (.before n)) } : Group).split? sp.idx = some sp := h
  unfold Group.waited
  dsimp only
  rw [h']
  dsimp only
  rw [becomeReady_eq]
  exact split?_putSplit_self _ { sp with pc := sp.pc + 8, st := .ready } sp h'
theorem waited_split_ne (g : Group) {idx i : Nat} (h : i ≠ idx) (n t : Nat) : (g.waited n idx t).split? i = g.split? i := by
  unfold Group.waited
  dsimp only
  split
  · rename_i sp hsp
    have hi : sp.idx = idx := by simpa using List.find?_some hsp
    rw [becomeReady_eq]
    exact split?_putSplit_ne _ { sp with pc := sp.pc + 8, st := .ready } i (by rw [hi]; exact h)
  · rfl

-- ## All of them

/-- A split of a group completes its `MWAIT` where that is over. -/
def State.settleSplit (s : State) (g : Group) (gid : Nat) (sp : Split) : State :=
  match sp.st with
  | .waiting (.matrix n) => if g.mwaitOver sp.idx n then (s.mwaitDone gid n).wakeSplit gid sp.idx else s
  | _ => s
theorem matrixSettle_of_grp {s : State} {gid : Nat} {g : Group} (h : s.grp gid = some g) :
    s.matrixSettle gid = g.splits.foldl (fun s sp => s.settleSplit g gid sp) s := by
  unfold State.matrixSettle
  rw [h]
  rfl
theorem matrixSettle_of_none {s : State} {gid : Nat} (h : s.grp gid = none) : s.matrixSettle gid = s := by
  unfold State.matrixSettle
  rw [h]
theorem settleSplit_cases (s : State) (g : Group) (gid : Nat) (sp : Split) : s.settleSplit g gid sp = s
    ∨ ∃ n, sp.st = .waiting (.matrix n) ∧ g.mwaitOver sp.idx n = true
      ∧ s.settleSplit g gid sp = (s.mwaitDone gid n).wakeSplit gid sp.idx := by
  unfold State.settleSplit
  split
  · rename_i n hst
    split
    · exact .inr ⟨n, hst, ‹_›, rfl⟩
    · exact .inl rfl
  · exact .inl rfl
theorem settleSplit_frame (s : State) (g : Group) (gid : Nat) (sp : Split) : GroupsFrame s (s.settleSplit g gid sp) := by
  obtain e | ⟨n, -, -, e⟩ := settleSplit_cases s g gid sp <;> rw [e]
  · exact GroupsFrame.refl s
  · exact (mwaitDone_frame s gid n).trans (wakeSplit_frame ..)
theorem settleSplit_grp_ne (s : State) (g : Group) {gid j : Nat} (h : j ≠ gid) (sp : Split) :
    (s.settleSplit g gid sp).grp j = s.grp j := by
  obtain e | ⟨n, -, -, e⟩ := settleSplit_cases s g gid sp <;> rw [e]
  exact grp_waited_ne s h n sp.idx
/-- What the group is afterwards: the same, but for the split that waited. -/
theorem settleSplit_grp {s : State} {gid : Nat} {h : Group} (hg : s.grp gid = some h) (g : Group) (sp : Split) :
    ∃ h', (s.settleSplit g gid sp).grp gid = some h' ∧ Settled h h' ∧ ∀ i, i ≠ sp.idx → h'.split? i = h.split? i := by
  obtain e | ⟨n, -, -, e⟩ := settleSplit_cases s g gid sp <;> rw [e]
  · exact ⟨h, hg, Settled.refl h, fun _ _ => rfl⟩
  · exact ⟨_, grp_waited hg n sp.idx, waited_settled .., fun i hi => waited_split_ne h hi ..⟩
theorem settleSplits_grp (g : Group) (gid : Nat) (l : List Split) {s : State} {h : Group} (hg : s.grp gid = some h) :
    ∃ h', (l.foldl (fun s sp => s.settleSplit g gid sp) s).grp gid = some h' ∧ Settled h h'
      ∧ ∀ i, (∀ sp ∈ l, i ≠ sp.idx) → h'.split? i = h.split? i := by
  induction l generalizing s h with
  | nil => exact ⟨h, hg, Settled.refl h, fun _ _ => rfl⟩
  | cons sp l ih =>
    obtain ⟨h1, hg1, st1, eq1⟩ := settleSplit_grp hg g sp
    obtain ⟨h2, hg2, st2, eq2⟩ := ih hg1
    exact ⟨h2, hg2, st1.trans st2, fun i hi =>
      (eq2 i fun x hx => hi x (List.mem_cons_of_mem sp hx)).trans (eq1 i (hi sp List.mem_cons_self))⟩

theorem matrixSettle_frame (s : State) (gid : Nat) : GroupsFrame s (s.matrixSettle gid) := by
  cases h : s.grp gid with
  | none => rw [matrixSettle_of_none h]; exact GroupsFrame.refl s
  | some g =>
    rw [matrixSettle_of_grp h]
    exact GroupsFrame.foldl _ _ _ fun t sp => settleSplit_frame t g gid sp
theorem matrixSettle_grp_ne (s : State) {gid j : Nat} (h : j ≠ gid) : (s.matrixSettle gid).grp j = s.grp j := by
  cases hg : s.grp gid with
  | none => rw [matrixSettle_of_none hg]
  | some g =>
    rw [matrixSettle_of_grp hg]
    generalize g.splits = l
    suffices H : ∀ t : State, t.grp j = s.grp j → (l.foldl (fun s sp => s.settleSplit g gid sp) t).grp j = s.grp j from H s rfl
    intro t ht
    induction l generalizing t with
    | nil => exact ht
    | cons sp l ih => exact ih _ ((settleSplit_grp_ne t g h sp).trans ht)
theorem matrixSettle_grp {s : State} {gid : Nat} {g : Group} (h : s.grp gid = some g) :
    ∃ g', (s.matrixSettle gid).grp gid = some g' ∧ Settled g g' := by
  rw [matrixSettle_of_grp h]
  obtain ⟨g', hg', hs, -⟩ := settleSplits_grp g gid g.splits h
  exact ⟨g', hg', hs⟩
/-- Without a waiting `MWAIT`, nothing happens. -/
theorem matrixSettle_of_unwaiting {s : State} {gid : Nat} {g : Group} (h : s.grp gid = some g)
    (hw : ∀ sp ∈ g.splits, ∀ n, sp.st ≠ .waiting (.matrix n)) : s.matrixSettle gid = s := by
  rw [matrixSettle_of_grp h]
  generalize g.splits = l at hw
  induction l with
  | nil => rfl
  | cons sp l ih =>
    have same : s.settleSplit g gid sp = s := by
      obtain e | ⟨n, hn, -⟩ := settleSplit_cases s g gid sp
      · exact e
      · exact absurd hn (hw sp List.mem_cons_self n)
    rw [List.foldl_cons, same]
    exact ih fun x hx => hw x (List.mem_cons_of_mem sp hx)
theorem idx_ne_of_nodup {pre post : List Split} {sp : Split} (hn : ((pre ++ sp :: post).map (fun x => x.idx)).Nodup) :
    (∀ x ∈ pre, sp.idx ≠ x.idx) ∧ ∀ x ∈ post, sp.idx ≠ x.idx := by
  rw [List.map_append, List.map_cons, List.nodup_append, List.nodup_cons] at hn
  obtain ⟨-, ⟨hp, -⟩, hd⟩ := hn
  refine ⟨fun x hx e => hd x.idx (List.mem_map_of_mem hx) sp.idx List.mem_cons_self e.symm, fun x hx e => hp ?_⟩
  exact e ▸ List.mem_map_of_mem hx
theorem split?_of_mem {g : Group} (hn : (g.splits.map (fun x => x.idx)).Nodup) {sp : Split} (h : sp ∈ g.splits) :
    g.split? sp.idx = some sp := by
  obtain ⟨pre, post, e⟩ := List.append_of_mem h
  rw [e] at hn
  have before := (idx_ne_of_nodup hn).1
  unfold Group.split?
  rw [e, List.find?_append, List.find?_eq_none.2 (fun x hx => by simpa using (before x hx).symm), Option.none_or, List.find?_cons]
  simp
/-- A split that waits at an `MWAIT` goes on where that is over, and else stays. -/
theorem matrixSettle_split {s : State} {gid : Nat} {g : Group} (h : s.grp gid = some g)
    (hn : (g.splits.map (fun x => x.idx)).Nodup) {sp : Split} (hsp : sp ∈ g.splits) {n : Nat} (hst : sp.st = .waiting (.matrix n)) :
    ∃ g', (s.matrixSettle gid).grp gid = some g'
      ∧ g'.split? sp.idx = some (if g.mwaitOver sp.idx n = true then { sp with pc := sp.pc + 8, st := .ready } else sp) := by
  have found := split?_of_mem hn hsp
  obtain ⟨pre, post, e⟩ := List.append_of_mem hsp
  rw [e] at hn
  obtain ⟨before, after⟩ := idx_ne_of_nodup hn
  rw [matrixSettle_of_grp h, e, List.foldl_append, List.foldl_cons]
  obtain ⟨g1, hg1, -, eq1⟩ := settleSplits_grp g gid pre h
  generalize pre.foldl (fun s sp => s.settleSplit g gid sp) s = s1 at hg1
  have here : ∃ g2, (s1.settleSplit g gid sp).grp gid = some g2
      ∧ g2.split? sp.idx = some (if g.mwaitOver sp.idx n = true then { sp with pc := sp.pc + 8, st := .ready } else sp) := by
    have found1 : g1.split? sp.idx = some sp := (eq1 _ before).trans found
    unfold State.settleSplit
    rw [hst]
    dsimp only
    split
    · exact ⟨_, grp_waited hg1 n sp.idx, waited_split_self found1 ..⟩
    · exact ⟨g1, hg1, found1⟩
  obtain ⟨g2, hg2, split2⟩ := here
  obtain ⟨g3, hg3, -, eq3⟩ := settleSplits_grp g gid post hg2
  exact ⟨g3, hg3, (eq3 _ after).trans split2⟩

end Sys2Proof.Machine
end

section
/-! SUPPORT. A matrix-engine command leaves the engine: its groups' lists and batches without it, and their `MWAIT`s (R253, R254). -/

namespace Sys2Proof.Machine

/-- No split of the group waits at an `MWAIT`. -/
def Group.Unwaiting (g : Group) : Prop := ∀ sp ∈ g.splits, ∀ n, sp.st ≠ .waiting (.matrix n)
/-- Neither the open list nor a batch of the group holds the command. -/
def Group.Without (g : Group) (id : Nat) : Prop := id ∉ g.openCmds ∧ ∀ b ∈ g.batches, id ∉ b.cmds
/-- A group that commands have left, and in which `MWAIT`s have completed. -/
def Advanced (g g' : Group) : Prop :=
  g' = { g with
    splits := g'.splits, qwrites := g'.qwrites, readyAt := g'.readyAt, wait := g'.wait, openCmds := g'.openCmds, batches := g'.batches }
theorem Advanced.refl (g : Group) : Advanced g g := rfl
theorem Advanced.trans {g h k : Group} (a : Advanced g h) (b : Advanced h k) : Advanced g k := by
  unfold Advanced at *; rw [b, a]
theorem Settled.advanced {g g' : Group} (h : Settled g g') : Advanced g g' := by
  unfold Settled Advanced at *; rw [h]

theorem endCmd_without (g : Group) (id : Nat) : ((g.endCmd id).trimBatches).Without id := by
  refine ⟨by simp [Group.trimBatches, Group.endCmd], fun b hb => ?_⟩
  obtain ⟨b0, -, rfl⟩ := List.mem_map.1 ((List.dropWhile_sublist _).subset hb)
  simp
theorem Settled.without {g g' : Group} (h : Settled g g') {id : Nat} (hw : g.Without id) : g'.Without id := by
  unfold Settled at h; rw [h]; exact hw

/-- The command leaves one of its groups. -/
def State.retireOne (s : State) (id gid : Nat) : State := (s.updGrp gid (fun g => (g.endCmd id).trimBatches)).matrixSettle gid
theorem retireOne_frame (s : State) (id gid : Nat) : GroupsFrame s (s.retireOne id gid) :=
  (updGrp_frame ..).trans (matrixSettle_frame ..)
theorem retireOne_grp_ne (s : State) (id : Nat) {gid j : Nat} (h : j ≠ gid) : (s.retireOne id gid).grp j = s.grp j :=
  (matrixSettle_grp_ne _ h).trans (grp_updGrp_ne s h _)
theorem retireOne_grp {s : State} {gid : Nat} {g : Group} (h : s.grp gid = some g) (id : Nat) :
    ∃ g', (s.retireOne id gid).grp gid = some g' ∧ Settled ((g.endCmd id).trimBatches) g'
      ∧ (g.Unwaiting → g' = (g.endCmd id).trimBatches) := by
  have left := grp_updGrp_self h (fun g => (g.endCmd id).trimBatches)
  obtain ⟨g', hg', settled⟩ := matrixSettle_grp left
  refine ⟨g', hg', settled, fun hw => ?_⟩
  rw [matrixSettle_of_unwaiting left hw] at hg'
  exact Option.some_inj.1 (hg'.symm.trans left)

/-- The command leaves all of its groups. -/
def State.retireAll (s : State) (id : Nat) (names : List (Nat × W64 × W32)) : State := names.foldl (fun s n => s.retireOne id n.1) s
theorem retireAll_frame (s : State) (id : Nat) (names : List (Nat × W64 × W32)) : GroupsFrame s (s.retireAll id names) :=
  GroupsFrame.foldl _ _ _ fun t n => retireOne_frame t id n.1
/-- What is left of a group when the command has left its groups. -/
structure Retired (id : Nat) (names : List (Nat × W64 × W32)) (j : Nat) (g g' : Group) : Prop where
  advanced : Advanced g g'
  named : (∃ n ∈ names, n.1 = j) → g'.Without id
  other : (∀ n ∈ names, n.1 ≠ j) → g' = g
  unwaiting : g.Unwaiting → g'.splits = g.splits ∧ g'.qwrites = g.qwrites
theorem retireAll_grp (id : Nat) (names : List (Nat × W64 × W32)) {s : State} {j : Nat} {g : Group} (h : s.grp j = some g) :
    ∃ g', (s.retireAll id names).grp j = some g' ∧ Retired id names j g g' ∧ (g.Without id → g'.Without id) := by
  induction names generalizing s g with
  | nil => exact ⟨g, h, ⟨Advanced.refl g, fun ⟨_, hn, _⟩ => absurd hn List.not_mem_nil, fun _ => rfl, fun _ => ⟨rfl, rfl⟩⟩, fun hw => hw⟩
  | cons n names ih =>
    by_cases hj : j = n.1
    · subst hj
      obtain ⟨g1, hg1, settled, still⟩ := retireOne_grp h id
      obtain ⟨g2, hg2, r, keeps⟩ := ih hg1
      have gone : g2.Without id := keeps (settled.without (endCmd_without g id))
      refine ⟨g2, hg2, ⟨Advanced.trans ?_ r.advanced, fun _ => gone, fun hne => absurd rfl (hne n List.mem_cons_self), fun hw => ?_⟩,
        fun _ => gone⟩
      · exact Advanced.trans (h := (g.endCmd id).trimBatches) rfl settled.advanced
      · have e := still hw
        subst e
        exact r.unwaiting hw
    · have same := (retireOne_grp_ne s id hj).trans h
      obtain ⟨g2, hg2, r, keeps⟩ := ih same
      refine ⟨g2, hg2, ⟨r.advanced, fun ⟨m, hm, e⟩ => ?_, fun hne => r.other fun m hm => hne m (List.mem_cons_of_mem n hm), r.unwaiting⟩,
        keeps⟩
      obtain rfl | hm := List.mem_cons.1 hm
      · exact absurd e.symm hj
      · exact r.named ⟨m, hm, e⟩

/-- Where its team has a group and nothing waits for its end, only its groups see a command go. -/
theorem retire_eq {s : State} {c : MCmd} (he : s.endings = []) (hs : s.suspends = []) (hg : ∃ j g, s.grp j = some g ∧ g.tid = c.tid)
    (id : Nat) : s.retire id c = ({ s with mcmds := s.mcmds.erase id } : State).retireAll id c.names := by
  have frame := retireAll_frame { s with mcmds := s.mcmds.erase id } id c.names
  obtain ⟨j, g, hj, ht⟩ := hg
  obtain ⟨g', hg', r, -⟩ := retireAll_grp id c.names (s := { s with mcmds := s.mcmds.erase id }) hj
  have tid : g'.tid = c.tid := by rw [r.advanced]; exact ht
  show ((({ s with mcmds := s.mcmds.erase id } : State).retireAll id c.names).tryTeamEnd c.tid).checkEndings = _
  generalize ({ s with mcmds := s.mcmds.erase id } : State).retireAll id c.names = t at frame hg'
  have resident : t.teamGroups c.tid ≠ [] := tid ▸ List.ne_nil_of_mem (mem_teamGroups hg')
  unfold GroupsFrame at frame
  rw [tryTeamEnd_of_group resident]
  exact checkEndings_of_idle (by rw [frame]; exact he) (by rw [frame]; exact hs)

/-- What stands once a command has left the engine: its team's state `tm`, and the groups without it. -/
def MatrixEnds (s t : State) (u : Nat) (c : MCmd) (tm : Team) : Prop :=
  t.mcmds.find? u = none ∧ (∀ j, j ≠ u → t.mcmds.find? j = s.mcmds.find? j) ∧ t.team c.tid = some tm
    ∧ ∀ j g, s.grp j = some g → ∃ g', t.grp j = some g' ∧ SameRegs g g' ∧ g'.pend = g.pend
      ∧ ((∀ n ∈ c.names, n.1 ≠ j) → g'.splits = g.splits ∧ g'.batches = g.batches ∧ g'.openCmds = g.openCmds)
      ∧ ((∃ n ∈ c.names, n.1 = j) → u ∉ g'.openCmds ∧ ∀ b ∈ g'.batches, u ∉ b.cmds)
      ∧ ((∀ sp ∈ g.splits, ∀ n, sp.st ≠ .waiting (.matrix n)) → g'.splits = g.splits)
/-- A group whose `MX`, and whose record of what `ACCQ`s wrote, may have changed. -/
def Marked (g g' : Group) : Prop := g' = { g with mx := g'.mx, qwrites := g'.qwrites }
theorem matrixEnds_of_retire {s s1 : State} {u : Nat} {c : MCmd} {tm : Team} (hm : s1.mcmds = s.mcmds) (he : s1.endings = [])
    (hs : s1.suspends = []) (ht : s1.team c.tid = some tm) (hr : ∃ j g, s.grp j = some g ∧ g.tid = c.tid)
    (hg : ∀ j g, s.grp j = some g → ∃ g1, s1.grp j = some g1 ∧ Marked g g1) : MatrixEnds s (s1.retire u c) u c tm := by
  have resident : ∃ j g, s1.grp j = some g ∧ g.tid = c.tid := by
    obtain ⟨j, g, hj, e⟩ := hr
    obtain ⟨g1, h1, m⟩ := hg j g hj
    exact ⟨j, g1, h1, by rw [m]; exact e⟩
  rw [retire_eq he hs resident]
  have frame := retireAll_frame { s1 with mcmds := s1.mcmds.erase u } u c.names
  have mcmds : (({ s1 with mcmds := s1.mcmds.erase u } : State).retireAll u c.names).mcmds = s.mcmds.erase u := by
    unfold GroupsFrame at frame; rw [frame, ← hm]
  have teams : (({ s1 with mcmds := s1.mcmds.erase u } : State).retireAll u c.names).teams = s1.teams := by
    unfold GroupsFrame at frame; rw [frame]
  refine ⟨?_, fun j hj => ?_, ?_, fun j g hj => ?_⟩
  · rw [mcmds, SMap.find?_erase, if_pos rfl]
  · rw [mcmds, SMap.find?_erase, if_neg hj.symm]
  · unfold State.team; rw [teams]; exact ht
  · obtain ⟨g1, h1, m⟩ := hg j g hj
    obtain ⟨g', hg', r, -⟩ := retireAll_grp u c.names (s := { s1 with mcmds := s1.mcmds.erase u }) h1
    have splits : g1.splits = g.splits := by rw [m]
    refine ⟨g', hg', ?_, ?_, fun hne => ?_, r.named, fun hw => ?_⟩
    · rw [r.advanced, m]; exact ⟨rfl, rfl, rfl, rfl, rfl⟩
    · rw [r.advanced, m]
    · rw [r.other hne, m]; exact ⟨rfl, rfl, rfl⟩
    · have unwaiting : g1.Unwaiting := by unfold Group.Unwaiting; rw [splits]; exact hw
      exact (r.unwaiting unwaiting).1.trans splits

end Sys2Proof.Machine
end

section
/-! SUPPORT. What each command of the matrix engine does to its team's tiles and bytes (R247, R258, R259). -/

namespace Sys2Proof.Machine

-- ## Taking effect

/-- A group that notes the sectors that its `ACCQ` has written in memory. -/
def Group.noteQ (g : Group) (id tile : Nat) (secs : List Nat) : Group := { g with qwrites := g.qwrites ++ [⟨g.batchOf id, tile, secs⟩] }

section
variable {s : State} {c : MCmd} {tm : Team}

/-- A command that may take effect: what it does, for each kind. -/
theorem complete_mma (hc : s.mcmds.find? s.ev.unit = some c) (ht : s.team c.tid = some tm) (hm : s.mayComplete s.ev.unit c = true)
    {ms : List MMember} (ho : c.op = .mma ms) :
    exec .engineCommandComplete s = .next ((s.applyMma s.ev.unit c tm.ctx ms).retire s.ev.unit c) := by
  show execEngineCommandComplete s = _
  simp only [execEngineCommandComplete, hc, ht, hm, ho, Bool.true_eq_false, if_false]
theorem complete_accz (hc : s.mcmds.find? s.ev.unit = some c) (ht : s.team c.tid = some tm) (hm : s.mayComplete s.ev.unit c = true)
    {tile : Nat} (ho : c.op = .accz tile) : exec .engineCommandComplete s =
      .next ((s.setTeam c.tid { tm with tiles := tm.tiles.keep (fun k _ => k / 8192 != tile) }).retire s.ev.unit c) := by
  show execEngineCommandComplete s = _
  simp only [execEngineCommandComplete, hc, ht, hm, ho, Bool.true_eq_false, if_false]
theorem complete_accwr (hc : s.mcmds.find? s.ev.unit = some c) (ht : s.team c.tid = some tm) (hm : s.mayComplete s.ev.unit c = true)
    {tile r : Nat} {data : List (Nat × Nat × W32)} (ho : c.op = .accwr tile r data) : exec .engineCommandComplete s =
      .next ((s.setTeam c.tid { tm with
        tiles := data.foldl (fun m x => m.set 0 (tileKey tile x.1 x.2.1) x.2.2) tm.tiles }).retire s.ev.unit c) := by
  show execEngineCommandComplete s = _
  simp only [execEngineCommandComplete, hc, ht, hm, ho, Bool.true_eq_false, if_false]
section
variable (hc : s.mcmds.find? s.ev.unit = some c) (ht : s.team c.tid = some tm) (hm : s.mayComplete s.ev.unit c = true)
  {df : Nat} {bl16 : Bool} {rm : RM} {gl : Bool} {tile : Nat} {a b sc : W64} (ho : c.op = .accq df bl16 rm gl tile a b sc)
include hc ht hm ho
theorem complete_accq (hg : gl = false) : exec .engineCommandComplete s =
    .next (((s.bankPut c.core (tm.hullLines (accqHulls df bl16 a b sc))).setTeam c.tid
      (tm.write (accqBytes tm.tiles df bl16 rm tile a b sc))).retire s.ev.unit c) := by
  show execEngineCommandComplete s = _
  subst hg
  simp only [execEngineCommandComplete, hc, ht, hm, ho, Bool.true_eq_false, if_false, Bool.false_eq_true]
theorem complete_accq_global (hg : gl = true) {u : State} {l : List (Nat × Attr × Byte)}
    (hl : s.accqTargets (c.core / 80) tm.ctx (accqBytes tm.tiles df bl16 rm tile a b sc) = (u, .ok l)) :
    exec .engineCommandComplete s = .next (s.passed (((u.rawPut tm.ctx 0 l).updGrp c.gid (fun g =>
      g.noteQ s.ev.unit tile (l.map (fun x => x.1 / 32)).dedup)).retire s.ev.unit c)) := by
  show execEngineCommandComplete s = _
  subst hg
  simp only [execEngineCommandComplete, hc, ht, hm, ho, Bool.true_eq_false, if_false, if_true, hl, Group.noteQ]
end
end

-- ## Tiles

theorem tileKey_inj {t t' i i' n n' : Nat} (hi : i < 64) (hi' : i' < 64) (hn : n < 128) (hn' : n' < 128)
    (h : tileKey t i n = tileKey t' i' n') : t = t' ∧ i = i' ∧ n = n' := by
  unfold tileKey at h
  omega
/-- A fold flows a pair whose halves do not depend on each other. -/
theorem foldl_or {α β : Type} (l : List β) (f : α → β → α) (p : β → Bool) (a : α) (b : Bool) :
    l.foldl (fun (x : α × Bool) y => (f x.1 y, x.2 || p y)) (a, b) = (l.foldl f a, b || l.any p) := by
  induction l generalizing a b with
  | nil => rw [List.any_nil, Bool.or_false]; rfl
  | cons y l ih => rw [List.foldl_cons, ih, List.foldl_cons, List.any_cons, Bool.or_assoc]
/-- The places of an m by n corner of a tile. -/
def corner (m n : Nat) : List (Nat × Nat) := (List.range m).flatMap (fun i => (List.range n).map (fun j => (i, j)))
theorem mem_corner {m n : Nat} {x : Nat × Nat} : x ∈ corner m n ↔ x.1 < m ∧ x.2 < n := by
  obtain ⟨i, j⟩ := x
  simp [corner]

/-- The product's element, given what the tile holds. -/
def Latch.elemOf (e : Latch) (t : Team) (i n : Nat) (old : W32) : W32 × Bool :=
  e.accElem (fun o => t.sram.get 0 o) i n (if e.za then 0 else old)
/-- A member reads no poisoned byte. -/
def Latch.Clean (e : Latch) (t : Team) : Prop :=
  (∀ i, i < e.m → ∀ o ∈ e.aBytes i, t.poison.get false (o / 32) = false)
    ∧ ∀ n, n < e.n → ∀ o ∈ e.bBytes n, t.poison.get false (o / 32) = false
/-- A member's tile after its update. -/
def Latch.tilesOf (e : Latch) (t : Team) : SMap W32 := (corner e.m e.n).foldl (fun m x =>
  m.set 0 (tileKey e.tile x.1 x.2) (e.elemOf t x.1 x.2 (t.tiles.get 0 (tileKey e.tile x.1 x.2))).1) t.tiles
theorem apply_of_clean {e : Latch} {t : Team} (h : e.Clean t) (tick : Nat) : e.apply tick t = (e.tilesOf t,
    (corner e.m e.n).any (fun x => (e.elemOf t x.1 x.2 (t.tiles.get 0 (tileKey e.tile x.1 x.2))).2), false) := by
  have clean : ((List.range e.m).any (fun i => (e.aBytes i).any (fun o => t.poison.get false (o / 32)))
      || (List.range e.n).any (fun n => (e.bBytes n).any (fun o => t.poison.get false (o / 32)))) = false := by
    rw [Bool.or_eq_false_iff, List.any_eq_false, List.any_eq_false]
    refine ⟨fun i hi => ?_, fun n hn => ?_⟩ <;> rw [Bool.not_eq_true, List.any_eq_false]
    · exact fun o ho => by rw [h.1 i (List.mem_range.1 hi) o ho]; exact Bool.false_ne_true
    · exact fun o ho => by rw [h.2 n (List.mem_range.1 hn) o ho]; exact Bool.false_ne_true
  have pairs := foldl_or (corner e.m e.n) (fun (m : SMap W32) (x : Nat × Nat) => m.set 0 (tileKey e.tile x.1 x.2)
    (e.elemOf t x.1 x.2 (t.tiles.get 0 (tileKey e.tile x.1 x.2))).1)
    (fun x => (e.elemOf t x.1 x.2 (t.tiles.get 0 (tileKey e.tile x.1 x.2))).2) t.tiles false
  unfold Latch.apply
  simp only [clean, Bool.false_eq_true, if_false]
  have tiles := congrArg Prod.fst pairs
  have flows := (congrArg Prod.snd pairs).trans (Bool.false_or _)
  exact Prod.ext tiles (Prod.ext flows rfl)
theorem get_tilesOf {e : Latch} (t : Team) (hm : e.m ≤ 64) (hn : e.n ≤ 128) {i n : Nat} (hi : i < e.m) (hj : n < e.n) :
    (e.tilesOf t).get 0 (tileKey e.tile i n) = (e.elemOf t i n (t.tiles.get 0 (tileKey e.tile i n))).1 := by
  refine SMap.get_foldl_set 0 (corner e.m e.n) (fun x => tileKey e.tile x.1 x.2) _ t.tiles _ _ (fun x hx hk => ?_)
    (.inr ⟨(i, n), mem_corner.2 ⟨hi, hj⟩, rfl⟩)
  obtain ⟨h1, h2⟩ := mem_corner.1 hx
  obtain ⟨-, e1, e2⟩ := tileKey_inj (by omega) (by omega) (by omega) (by omega) hk
  rw [e1, e2]
theorem get_tilesOf_ne {e : Latch} (t : Team) {k : Nat} (h : ∀ i n, i < e.m → n < e.n → k ≠ tileKey e.tile i n) :
    (e.tilesOf t).get 0 k = t.tiles.get 0 k :=
  SMap.get_foldl_set_ne 0 (corner e.m e.n) (fun x => tileKey e.tile x.1 x.2) _ t.tiles k fun x hx hk =>
    h x.1 x.2 (mem_corner.1 hx).1 (mem_corner.1 hx).2 hk.symm

-- ## The members of an `MMA`

/-- One member's update. -/
def State.applyMember (s : State) (c : MCmd) (t : Team) (m : MMember) : State :=
  let s1 := (s.bankPut c.core (t.hullLines m.entry.hulls)).setTeam c.tid { t with tiles := m.entry.tilesOf t }
  if (corner m.entry.m m.entry.n).any (fun x => (m.entry.elemOf t x.1 x.2 (t.tiles.get 0 (tileKey m.entry.tile x.1 x.2))).2) then
    s1.updGrp m.gid (fun g => { g with mx := true })
  else s1
theorem applyMma_cons {s : State} {c : MCmd} {t : Team} (ht : s.team c.tid = some t) {m : MMember} (hm : m.entry.Clean t)
    (id slot : Nat) (ms : List MMember) : s.applyMma id c slot (m :: ms) = (s.applyMember c t m).applyMma id c slot ms := by
  unfold State.applyMma
  rw [List.foldl_cons, ht]
  simp only [apply_of_clean hm, Bool.false_eq_true, if_false]
  rfl
theorem applyMember_frame (s : State) (c : MCmd) (t : Team) (m : MMember) : s.applyMember c t m = { s with
    cores := (s.applyMember c t m).cores, groups := (s.applyMember c t m).groups
    teams := s.teams.insert c.tid { t with tiles := m.entry.tilesOf t } } := by
  unfold State.applyMember
  dsimp only
  split <;> rfl
theorem applyMember_team (s : State) (c : MCmd) (t : Team) (m : MMember) :
    (s.applyMember c t m).team c.tid = some { t with tiles := m.entry.tilesOf t } := by
  unfold State.team
  rw [applyMember_frame]
  exact SMap.find?_insert_self ..
/-- `MX` is set where an element overflows, and stays where it is set. -/
theorem applyMember_grp {s : State} {j : Nat} {g : Group} (h : s.grp j = some g) (c : MCmd) (t : Team) (m : MMember) :
    ∃ b, (s.applyMember c t m).grp j = some { g with mx := b } ∧ (g.mx = true → b = true)
      ∧ (m.gid = j → (∃ i n, i < m.entry.m ∧ n < m.entry.n
        ∧ (m.entry.elemOf t i n (t.tiles.get 0 (tileKey m.entry.tile i n))).2 = true) → b = true) := by
  have same : ((s.bankPut c.core (t.hullLines m.entry.hulls)).setTeam c.tid { t with tiles := m.entry.tilesOf t }).grp j = some g := h
  unfold State.applyMember
  dsimp only
  split
  · by_cases hj : m.gid = j
    · subst hj
      exact ⟨true, grp_updGrp_self same _, fun _ => rfl, fun _ _ => rfl⟩
    · exact ⟨g.mx, (grp_updGrp_ne _ (Ne.symm hj) _).trans same, fun hb => hb, fun e => absurd e hj⟩
  · rename_i none_
    refine ⟨g.mx, same, fun hb => hb, fun _ ⟨i, n, hi, hn, ho⟩ => absurd ?_ none_⟩
    exact List.any_eq_true.2 ⟨(i, n), mem_corner.2 ⟨hi, hn⟩, ho⟩

/-- What an `MMA` whose members read no poison leaves: its team's tiles, and `MX`. -/
structure MmaDone (s t : State) (c : MCmd) (tm : Team) (tiles : SMap W32) (ms : List MMember) : Prop where
  frame : t = { s with cores := t.cores, groups := t.groups, teams := t.teams }
  team : t.team c.tid = some { tm with tiles := tiles }
  elems : ∀ m ∈ ms, ∀ i n, i < m.entry.m → n < m.entry.n → tiles.get 0 (tileKey m.entry.tile i n)
    = (m.entry.elemOf tm i n (tm.tiles.get 0 (tileKey m.entry.tile i n))).1
  others : ∀ k, (∀ m ∈ ms, ∀ i n, i < m.entry.m → n < m.entry.n → k ≠ tileKey m.entry.tile i n) → tiles.get 0 k = tm.tiles.get 0 k
  groups : ∀ j g, s.grp j = some g → ∃ b, t.grp j = some { g with mx := b } ∧ (g.mx = true → b = true)
    ∧ ∀ m ∈ ms, m.gid = j → (∃ i n, i < m.entry.m ∧ n < m.entry.n
      ∧ (m.entry.elemOf tm i n (tm.tiles.get 0 (tileKey m.entry.tile i n))).2 = true) → b = true
theorem applyMma_done (id slot : Nat) (c : MCmd) (ms : List MMember) {s : State} {tm : Team} (ht : s.team c.tid = some tm)
    (hn : (ms.map (fun m => m.entry.tile)).Nodup) (hb : ∀ m ∈ ms, m.entry.m ≤ 64 ∧ m.entry.n ≤ 128) (hc : ∀ m ∈ ms, m.entry.Clean tm) :
    ∃ tiles, MmaDone s (s.applyMma id c slot ms) c tm tiles ms := by
  induction ms generalizing s tm with
  | nil => exact ⟨tm.tiles, rfl, ht, fun _ hm => absurd hm List.not_mem_nil, fun _ _ => rfl,
      fun j g hg => ⟨g.mx, hg, fun h => h, fun _ hm => absurd hm List.not_mem_nil⟩⟩
  | cons m ms ih =>
    rw [List.map_cons, List.nodup_cons] at hn
    obtain ⟨hm, hms⟩ := List.forall_mem_cons.1 hb
    obtain ⟨cm, cms⟩ := List.forall_mem_cons.1 hc
    rw [applyMma_cons ht cm]
    obtain ⟨tiles, done⟩ := ih (applyMember_team s c tm m) hn.2 hms cms
    -- the tiles of the members that follow are not the first one's
    have apart : ∀ x ∈ ms, ∀ i n i' n', i < m.entry.m → n < m.entry.n → i' < x.entry.m → n' < x.entry.n →
        tileKey m.entry.tile i n ≠ tileKey x.entry.tile i' n' := by
      intro x hx i n i' n' hi hn' hi' hn'' e
      obtain ⟨h1, h2⟩ := hms x hx
      obtain ⟨same, -, -⟩ := tileKey_inj (by omega) (by omega) (by omega) (by omega) e
      exact hn.1 (List.mem_map.2 ⟨x, hx, same.symm⟩)
    have old : ∀ x ∈ ms, ∀ i n, i < x.entry.m → n < x.entry.n →
        (m.entry.tilesOf tm).get 0 (tileKey x.entry.tile i n) = tm.tiles.get 0 (tileKey x.entry.tile i n) :=
      fun x hx i n hi hn' => get_tilesOf_ne tm fun i' n' hi' hn'' e => apart x hx i' n' i n hi' hn'' hi hn' e.symm
    refine ⟨tiles, ?_, done.team, ?_, ?_, ?_⟩
    · have f1 := applyMember_frame s c tm m
      have f2 := done.frame
      generalize (s.applyMember c tm m).applyMma id c slot ms = t at f2
      generalize s.applyMember c tm m = s1 at f1 f2
      rw [f2, f1]
    · intro x hx i n hi hn'
      obtain rfl | hx := List.mem_cons.1 hx
      · refine (done.others _ fun y hy i' n' hi' hn'' => apart y hy i n i' n' hi hn' hi' hn'').trans ?_
        exact get_tilesOf tm hm.1 hm.2 hi hn'
      · rw [done.elems x hx i n hi hn', show ({ tm with tiles := m.entry.tilesOf tm } : Team).tiles = m.entry.tilesOf tm from rfl,
          old x hx i n hi hn']
        rfl
    · intro k hk
      obtain ⟨hkm, hkms⟩ := List.forall_mem_cons.1 hk
      exact (done.others k hkms).trans (get_tilesOf_ne tm hkm)
    · intro j g hg
      obtain ⟨b1, hg1, keep1, set1⟩ := applyMember_grp hg c tm m
      obtain ⟨b2, hg2, keep2, set2⟩ := done.groups j _ hg1
      refine ⟨b2, hg2, fun h => keep2 (keep1 h), fun x hx e flows => ?_⟩
      obtain rfl | hx := List.mem_cons.1 hx
      · exact keep2 (set1 e flows)
      · obtain ⟨i, n, hi, hn', ho⟩ := flows
        refine set2 x hx e ⟨i, n, hi, hn', ?_⟩
        rw [show ({ tm with tiles := m.entry.tilesOf tm } : Team).tiles = m.entry.tilesOf tm from rfl, old x hx i n hi hn']
        exact ho

end Sys2Proof.Machine
end

section
/-! SUPPORT. The bytes that an `ACCQ` writes, in scratchpad and in memory (R259). -/

namespace Sys2Proof.Machine

/-- The FP32 element that an `ACCQ` of format 0 writes. -/
def accq32 (x : W32) : W32 := if (Num.dec32 x).isNan then 0x7FC00000 else x
theorem bytesOf_getElem? (n v : Nat) {q : Nat} (h : q < n) : (bytesOf n v)[q]? = some (BitVec.ofNat 8 (v / 2 ^ (8 * q))) := by
  unfold bytesOf
  rw [List.getElem?_map, List.getElem?_range h]
  rfl
theorem shiftRight_byte (v : W32) (k : Nat) : (v >>> k).setWidth 8 = BitVec.ofNat 8 (v.toNat / 2 ^ k) := by
  refine BitVec.eq_of_toNat_eq ?_
  rw [BitVec.toNat_setWidth, BitVec.toNat_ushiftRight, Nat.shiftRight_eq_div_pow, BitVec.toNat_ofNat]
/-- Each element of format 0 lies at its place, low byte first. -/
theorem mem_accqBytes (tiles : SMap W32) (bl16 : Bool) (rm : RM) (tile : Nat) (a b sc : W64) {i j : Nat} (hi : i < (accqShape b).1)
    (hj : j < (accqShape b).2.1) {q : Nat} (hq : q < 4) :
    (a.toNat + i * (accqShape b).2.2 + j * 4 + q, (accq32 (tiles.get 0 (tileKey tile i j)) >>> (8 * q)).setWidth 8)
      ∈ accqBytes tiles 0 bl16 rm tile a b sc := by
  have value : (if (Num.dec32 (tiles.get 0 (tileKey tile i j))).isNan then 0x7FC00000 else (tiles.get 0 (tileKey tile i j)).toNat)
      = (accq32 (tiles.get 0 (tileKey tile i j))).toNat := by
    unfold accq32
    split <;> rfl
  unfold accqBytes
  refine List.mem_flatMap.2 ⟨i, List.mem_range.2 hi, ?_⟩
  dsimp only
  rw [if_pos (by omega)]
  refine List.mem_flatMap.2 ⟨j, List.mem_range.2 hj, ?_⟩
  rw [if_pos rfl, value, shiftRight_byte]
  refine List.mem_map.2 ⟨(_, q), List.mk_mem_zipIdx_iff_getElem?.2 (bytesOf_getElem? 4 _ hq), rfl⟩

-- ## In scratchpad

theorem write_frame (t : Team) (bs : List (Nat × Byte)) : t.write bs = { t with sram := (t.write bs).sram, poison := (t.write bs).poison } :=
  rfl
theorem get_write {t : Team} {bs : List (Nat × Byte)} (hn : (bs.map Prod.fst).Nodup) {x : Nat × Byte} (hx : x ∈ bs) :
    (t.write bs).sram.get 0 x.1 = x.2 :=
  SMap.get_foldl_set 0 bs Prod.fst Prod.snd t.sram x.1 x.2
    (fun _ hy e => congrArg Prod.snd (List.inj_on_of_nodup_map hn hy hx e)) (.inr ⟨x, hx, rfl⟩)
theorem get_write_ne (t : Team) {bs : List (Nat × Byte)} {o : Nat} (h : o ∉ bs.map Prod.fst) : (t.write bs).sram.get 0 o = t.sram.get 0 o :=
  SMap.get_foldl_set_ne 0 bs Prod.fst Prod.snd t.sram o fun _ hx e => h (e ▸ List.mem_map_of_mem hx)

-- ## In memory

section
variable {s : State} {die slot : Nat} {bs : List (Nat × Byte)} {f : Nat → Nat × Attr}

/-- The places of mapped bytes, with what each receives. -/
def accqPlaces (f : Nat → Nat × Attr) (bs : List (Nat × Byte)) : List (Nat × Attr × Byte) := bs.map (fun x => ((f x.1).1, (f x.1).2, x.2))
theorem accqTargets_of_mapped (h : ∀ x ∈ bs, EngMapped s die slot .w x.1 [f x.1]) :
    s.accqTargets die slot bs = (s, .ok (accqPlaces f bs)) := by
  induction bs with
  | nil => rfl
  | cons x bs ih =>
    obtain ⟨hx, hbs⟩ := List.forall_mem_cons.1 h
    have here : s.engByte die slot .w (x.1 + 0) = (s, .ok (f x.1)) := engByte_of_mapped hx rfl
    unfold State.accqTargets
    rw [Nat.add_zero] at here
    rw [here]
    dsimp only
    rw [ih hbs]
    rfl
theorem accqPlaces_eq (f : Nat → Nat × Attr) (bs : List (Nat × Byte)) :
    accqPlaces f bs = placed (bs.map (fun x => f x.1)) (bs.map Prod.snd) := by
  unfold accqPlaces placed
  rw [List.zip_map', List.map_map]
  rfl
/-- The bytes stand where they belong, and no other 64-byte burst has changed. -/
theorem rawPut_places (hn : (bs.map (fun x => (f x.1).1)).Nodup)
    (hk : ∀ x ∈ bs, ∀ y ∈ bs, (f x.1).1 / 64 = (f y.1).1 / 64 → (f x.1).2.key = (f y.1).2.key) :
    (∀ x ∈ bs, (s.rawPut slot 0 (accqPlaces f bs)).homeByte (f x.1).2.key (f x.1).1 = x.2)
      ∧ ∀ k y, (∀ x ∈ bs, (f x.1).1 / 64 ≠ y / 64) → (s.rawPut slot 0 (accqPlaces f bs)).homeByte k y = s.homeByte k y := by
  have len : (bs.map Prod.snd).length = (bs.map (fun x => f x.1)).length := by rw [List.length_map, List.length_map]
  have wrote : EngWrote s (s.rawPut slot 0 (accqPlaces f bs)) (bs.map (fun x => f x.1)) (bs.map Prod.snd) := by
    rw [State.rawPut, accqPlaces_eq]
    refine scattered_wrote (engTraffic_only ..) len ?_ ?_
    · rw [List.map_map]; exact hn
    · intro x hx y hy
      obtain ⟨x', hx', rfl⟩ := List.mem_map.1 hx
      obtain ⟨y', hy', rfl⟩ := List.mem_map.1 hy
      exact hk x' hx' y' hy'
  refine ⟨fun x hx => ?_, fun k y hy => wrote.others k y fun z hz => ?_⟩
  · obtain ⟨j, hj⟩ := List.mem_iff_getElem?.1 hx
    exact wrote.bytes j (f x.1) x.2 (by rw [List.getElem?_map, hj]; rfl) (by rw [List.getElem?_map, hj]; rfl)
  · obtain ⟨x, hx, rfl⟩ := List.mem_map.1 hz
    exact hy x hx
end

end Sys2Proof.Machine
end

section
/-! SUPPORT. What stands once each kind of command has taken effect (R247, R251, R253, R258, R259). -/

namespace Sys2Proof.Machine

/-- A command may take effect: nothing waits for the end of its team's commands, and the team has a group. -/
structure MayEnd (s : State) (c : MCmd) (tm : Team) : Prop where
  cmd : s.mcmds.find? s.ev.unit = some c
  team : s.team c.tid = some tm
  may : s.mayComplete s.ev.unit c = true
  endings : s.endings = []
  suspends : s.suspends = []
  resident : ∃ j g, s.grp j = some g ∧ g.tid = c.tid

section
variable {s1 : State} {c : MCmd} (he : s1.endings = []) (hs : s1.suspends = []) (hr : ∃ j g, s1.grp j = some g ∧ g.tid = c.tid)
  (id : Nat)
include he hs hr
theorem retire_home : SameHome s1 (s1.retire id c) := by
  have frame := retireAll_frame { s1 with mcmds := s1.mcmds.erase id } id c.names
  rw [retire_eq he hs hr]
  unfold GroupsFrame at frame
  rw [frame]
  exact fun k a => homeByte_congr rfl rfl rfl k a
theorem retire_grp {j : Nat} {g : Group} (h : s1.grp j = some g) :
    ∃ g', (s1.retire id c).grp j = some g' ∧ Retired id c.names j g g' := by
  rw [retire_eq he hs hr]
  obtain ⟨g', hg', r, -⟩ := retireAll_grp id c.names (s := { s1 with mcmds := s1.mcmds.erase id }) h
  exact ⟨g', hg', r⟩
end

section
variable {s : State} {c : MCmd} {tm : Team} (h : MayEnd s c tm)
include h

/-- A command that changes its team alone: it ends, with memory as it was. -/
theorem ends_of_setTeam (tm' : Team) (x : SMap CoreSt) :
    MatrixEnds s ((({ s with cores := x } : State).setTeam c.tid tm').retire s.ev.unit c) s.ev.unit c tm'
      ∧ SameHome s ((({ s with cores := x } : State).setTeam c.tid tm').retire s.ev.unit c) := by
  refine ⟨matrixEnds_of_retire rfl h.endings h.suspends (SMap.find?_insert_self ..) h.resident fun j g hg => ⟨g, hg, rfl⟩,
    fun k a => ?_⟩
  exact (retire_home (s1 := ({ s with cores := x } : State).setTeam c.tid tm') h.endings h.suspends h.resident _ k a).trans
    (homeByte_congr rfl rfl rfl k a)

theorem accz_ends {tile : Nat} (ho : c.op = .accz tile) : ∃ t tm', exec .engineCommandComplete s = .next t
    ∧ MatrixEnds s t s.ev.unit c tm' ∧ SameHome s t ∧ tm' = { tm with tiles := tm'.tiles }
    ∧ (∀ k, tm'.tiles.find? k = if k / 8192 = tile then none else tm.tiles.find? k)
    ∧ ∀ g, s.grp c.gid = some g → (g.splits.map (fun x => x.idx)).Nodup → ∀ sp ∈ g.splits, ∀ n, sp.st = .waiting (.matrix n) →
      ∃ g', t.grp c.gid = some g' ∧ g'.split? sp.idx = some (if ((g.endCmd s.ev.unit).trimBatches).mwaitOver sp.idx n = true then
        { sp with pc := sp.pc + 8, st := .ready } else sp) := by
  obtain ⟨ends, home⟩ := ends_of_setTeam h { tm with tiles := tm.tiles.keep (fun k _ => k / 8192 != tile) } s.cores
  refine ⟨_, _, complete_accz h.cmd h.team h.may ho, ends, home, rfl, fun k => ?_, fun g hg hn sp hsp n hst => ?_⟩
  · refine (SMap.find?_keep_key tm.tiles (fun k => k / 8192 != tile) k).trans ?_
    by_cases e : k / 8192 = tile <;> simp [e]
  · have names : c.names = [(c.gid, c.site, c.seq)] := by rw [MCmd.names, ho]
    rw [retire_eq (s := s.setTeam c.tid { tm with tiles := tm.tiles.keep (fun k _ => k / 8192 != tile) }) h.endings h.suspends
      h.resident, names]
    exact matrixSettle_split (grp_updGrp_self (s := { s.setTeam c.tid { tm with
      tiles := tm.tiles.keep (fun k _ => k / 8192 != tile) } with mcmds := s.mcmds.erase s.ev.unit }) hg _) hn hsp hst

theorem accwr_ends {tile r : Nat} {data : List (Nat × Nat × W32)} (ho : c.op = .accwr tile r data)
    (hn : (data.map (fun x => tileKey tile x.1 x.2.1)).Nodup) : ∃ t tm', exec .engineCommandComplete s = .next t
    ∧ MatrixEnds s t s.ev.unit c tm' ∧ SameHome s t ∧ tm' = { tm with tiles := tm'.tiles }
    ∧ (∀ x ∈ data, tm'.tiles.get 0 (tileKey tile x.1 x.2.1) = x.2.2)
    ∧ ∀ k, k ∉ data.map (fun x => tileKey tile x.1 x.2.1) → tm'.tiles.get 0 k = tm.tiles.get 0 k := by
  obtain ⟨ends, home⟩ := ends_of_setTeam h { tm with
    tiles := data.foldl (fun m x => m.set 0 (tileKey tile x.1 x.2.1) x.2.2) tm.tiles } s.cores
  refine ⟨_, _, complete_accwr h.cmd h.team h.may ho, ends, home, rfl, fun x hx => ?_, fun k hk => ?_⟩
  · exact SMap.get_foldl_set 0 data (fun x => tileKey tile x.1 x.2.1) (fun x => x.2.2) tm.tiles _ _
      (fun y hy e => congrArg (fun x => x.2.2) (List.inj_on_of_nodup_map hn hy hx e)) (.inr ⟨x, hx, rfl⟩)
  · exact SMap.get_foldl_set_ne 0 data (fun x => tileKey tile x.1 x.2.1) (fun x => x.2.2) tm.tiles k
      fun x hx e => hk (e ▸ List.mem_map_of_mem hx)

theorem accq_ends {df : Nat} {bl16 : Bool} {rm : RM} {gl : Bool} {tile : Nat} {a b sc : W64} (ho : c.op = .accq df bl16 rm gl tile a b sc)
    {bs : List (Nat × Byte)} (hb : accqBytes tm.tiles df bl16 rm tile a b sc = bs) (hn : (bs.map Prod.fst).Nodup) (hg : gl = false) :
    ∃ t tm', exec .engineCommandComplete s = .next t ∧ MatrixEnds s t s.ev.unit c tm' ∧ SameHome s t
    ∧ tm' = { tm with sram := tm'.sram, poison := tm'.poison }
    ∧ (∀ x ∈ bs, tm'.sram.get 0 x.1 = x.2) ∧ ∀ o, o ∉ bs.map Prod.fst → tm'.sram.get 0 o = tm.sram.get 0 o := by
  obtain ⟨ends, home⟩ := ends_of_setTeam h (tm.write bs) (s.bankPut c.core (tm.hullLines (accqHulls df bl16 a b sc))).cores
  have done := complete_accq h.cmd h.team h.may ho hg
  rw [hb] at done
  exact ⟨_, _, done, ends, home, write_frame .., fun x hx => get_write hn hx, fun o ho => get_write_ne tm ho⟩

theorem accq_global_ends {df : Nat} {bl16 : Bool} {rm : RM} {gl : Bool} {tile : Nat} {a b sc : W64}
    (ho : c.op = .accq df bl16 rm gl tile a b sc) {bs : List (Nat × Byte)} (hb : accqBytes tm.tiles df bl16 rm tile a b sc = bs)
    (hg : gl = true) {f : Nat → Nat × Attr} (hf : ∀ x ∈ bs, EngMapped s (c.core / 80) tm.ctx .w x.1 [f x.1])
    (hn : (bs.map (fun x => (f x.1).1)).Nodup)
    (hk : ∀ x ∈ bs, ∀ y ∈ bs, (f x.1).1 / 64 = (f y.1).1 / 64 → (f x.1).2.key = (f y.1).2.key) :
    ∃ t, Leads .engineCommandComplete s t ∧ MatrixEnds s t s.ev.unit c tm
      ∧ (∀ x ∈ bs, t.homeByte (f x.1).2.key (f x.1).1 = x.2)
      ∧ (∀ k y, (∀ x ∈ bs, (f x.1).1 / 64 ≠ y / 64) → t.homeByte k y = s.homeByte k y)
      ∧ ∀ g, s.grp c.gid = some g → (∀ sp ∈ g.splits, ∀ n, sp.st ≠ .waiting (.matrix n)) → ∃ g', t.grp c.gid = some g'
        ∧ g'.qwrites = g.qwrites ++ [⟨g.batchOf s.ev.unit, tile, (bs.map (fun x => (f x.1).1 / 32)).dedup⟩] := by
  have targets := accqTargets_of_mapped hf
  obtain ⟨bytes, others⟩ := rawPut_places (s := s) (slot := tm.ctx) hn hk
  have frame := rawPut_frame s tm.ctx 0 (accqPlaces f bs)
  have done := leads_of_passed (complete_accq_global h.cmd h.team h.may ho hg (by rw [hb]; exact targets))
  generalize s.rawPut tm.ctx 0 (accqPlaces f bs) = w at bytes others frame done
  unfold HomeFrame at frame
  have sectors : (accqPlaces f bs).map (fun x => x.1 / 32) = bs.map (fun x => (f x.1).1 / 32) := List.map_map
  rw [sectors] at done
  generalize (bs.map (fun x => (f x.1).1 / 32)).dedup = secs at done
  have same (j : Nat) : w.grp j = s.grp j := by rw [frame]; rfl
  have marks (j : Nat) (g : Group) (hg : s.grp j = some g) :
      ∃ g1, (w.updGrp c.gid (fun g => g.noteQ s.ev.unit tile secs)).grp j = some g1 ∧ Marked g g1 := by
    by_cases hj : j = c.gid
    · subst hj; exact ⟨_, grp_updGrp_self ((same _).trans hg) _, rfl⟩
    · exact ⟨g, (grp_updGrp_ne w hj _).trans ((same j).trans hg), rfl⟩
  have noted (g : Group) (hg : s.grp c.gid = some g) := grp_updGrp_self ((same _).trans hg) (fun g => g.noteQ s.ev.unit tile secs)
  have home (k a : Nat) : (w.updGrp c.gid (fun g => g.noteQ s.ev.unit tile secs)).homeByte k a = w.homeByte k a :=
    homeByte_congr rfl rfl rfl k a
  have he : (w.updGrp c.gid (fun g => g.noteQ s.ev.unit tile secs)).endings = [] := by rw [frame]; exact h.endings
  have hs : (w.updGrp c.gid (fun g => g.noteQ s.ev.unit tile secs)).suspends = [] := by rw [frame]; exact h.suspends
  have hm : (w.updGrp c.gid (fun g => g.noteQ s.ev.unit tile secs)).mcmds = s.mcmds := by rw [frame]; rfl
  have ht : (w.updGrp c.gid (fun g => g.noteQ s.ev.unit tile secs)).team c.tid = some tm := by rw [frame]; exact h.team
  generalize w.updGrp c.gid (fun g => g.noteQ s.ev.unit tile secs) = v at done marks noted home he hs hm ht
  have resident : ∃ j g, v.grp j = some g ∧ g.tid = c.tid := by
    obtain ⟨j, g, hj, e⟩ := h.resident
    obtain ⟨g1, h1, m⟩ := marks j g hj
    exact ⟨j, g1, h1, by rw [m]; exact e⟩
  have kept := retire_home he hs resident s.ev.unit
  refine ⟨_, done, matrixEnds_of_retire hm he hs ht h.resident marks, fun x hx => ?_, fun k y hy => ?_, fun g hg hw => ?_⟩
  · exact (kept _ _).trans ((home _ _).trans (bytes x hx))
  · exact (kept _ _).trans ((home _ _).trans (others k y hy))
  · obtain ⟨g', hg', r⟩ := retire_grp he hs resident s.ev.unit (noted g hg)
    exact ⟨g', hg', (r.unwaiting hw).2⟩

theorem mma_ends {ms : List MMember} (ho : c.op = .mma ms) (hn : (ms.map (fun m => m.entry.tile)).Nodup)
    (hb : ∀ m ∈ ms, m.entry.m ≤ 64 ∧ m.entry.n ≤ 128) (hc : ∀ m ∈ ms, m.entry.Clean tm) :
    ∃ t tm', exec .engineCommandComplete s = .next t ∧ MatrixEnds s t s.ev.unit c tm' ∧ SameHome s t ∧ tm' = { tm with tiles := tm'.tiles }
      ∧ (∀ m ∈ ms, ∀ i n, i < m.entry.m → n < m.entry.n → tm'.tiles.get 0 (tileKey m.entry.tile i n)
        = (m.entry.elemOf tm i n (tm.tiles.get 0 (tileKey m.entry.tile i n))).1)
      ∧ (∀ k, (∀ m ∈ ms, ∀ i n, i < m.entry.m → n < m.entry.n → k ≠ tileKey m.entry.tile i n) → tm'.tiles.get 0 k = tm.tiles.get 0 k)
      ∧ ∀ m ∈ ms, ∀ g, s.grp m.gid = some g → (∃ i n, i < m.entry.m ∧ n < m.entry.n
        ∧ (m.entry.elemOf tm i n (tm.tiles.get 0 (tileKey m.entry.tile i n))).2 = true) → ∃ g', t.grp m.gid = some g' ∧ g'.mx = true := by
  obtain ⟨tiles, done⟩ := applyMma_done s.ev.unit tm.ctx c ms h.team hn hb hc
  have exec_ := complete_mma h.cmd h.team h.may ho
  have frame := done.frame
  generalize s.applyMma s.ev.unit c tm.ctx ms = w at done exec_ frame
  have he : w.endings = [] := by rw [frame]; exact h.endings
  have hs : w.suspends = [] := by rw [frame]; exact h.suspends
  have resident : ∃ j g, w.grp j = some g ∧ g.tid = c.tid := by
    obtain ⟨j, g, hj, e⟩ := h.resident
    obtain ⟨b, hg, -⟩ := done.groups j g hj
    exact ⟨j, _, hg, e⟩
  refine ⟨_, _, exec_, matrixEnds_of_retire (by rw [frame]) he hs done.team h.resident fun j g hg => ?_, fun k a => ?_, rfl, done.elems,
    done.others, fun m hm g hg flows => ?_⟩
  · obtain ⟨b, hg', -⟩ := done.groups j g hg
    exact ⟨_, hg', rfl⟩
  · refine (retire_home he hs resident _ k a).trans ?_
    rw [frame]
    exact homeByte_congr rfl rfl rfl k a
  · obtain ⟨b, hg', -, set_⟩ := done.groups m.gid g hg
    obtain ⟨g', hg'', r⟩ := retire_grp he hs resident s.ev.unit hg'
    exact ⟨g', hg'', by rw [r.advanced]; exact set_ m hm rfl flows⟩
end

end Sys2Proof.Machine
end

section
/-! SUPPORT. What even the end of a context leaves alone: the time, and the commands of the matrix engines, which it can only take
away (R406, R414). -/

namespace Sys2Proof.Machine

/-- The time is the same, and no matrix-engine command is new. -/
def NoNewMcmds (s t : State) : Prop := t.now = s.now ∧ ∀ x ∈ t.mcmds, x ∈ s.mcmds

theorem NoNewMcmds.refl (s : State) : NoNewMcmds s s := ⟨rfl, fun _ h => h⟩
theorem NoNewMcmds.trans {s t u : State} (a : NoNewMcmds s t) (b : NoNewMcmds t u) : NoNewMcmds s u :=
  ⟨b.1.trans a.1, fun x h => a.2 x (b.2 x h)⟩
theorem NoNewMcmds.of_eq {s t : State} (hn : t.now = s.now) (hm : t.mcmds = s.mcmds) : NoNewMcmds s t := ⟨hn, fun _ h => hm ▸ h⟩
theorem NoNewMcmds.foldl {β : Type} (f : State → β → State) (l : List β) (s : State) (hf : ∀ t x, NoNewMcmds t (f t x)) :
    NoNewMcmds s (l.foldl f s) := by
  induction l generalizing s with
  | nil => exact NoNewMcmds.refl s
  | cons x l ih => exact (hf s x).trans (ih _)
theorem EndsFrame.noNew {s t : State} (h : EndsFrame s t) : NoNewMcmds s t := by
  unfold EndsFrame at h
  exact .of_eq (by rw [h]) (by rw [h])
theorem LeavesFrame.noNew {s t : State} (h : LeavesFrame s t) : NoNewMcmds s t := by
  unfold LeavesFrame at h
  exact .of_eq (by rw [h]) (by rw [h])
theorem AccessFrame.noNew {s t : State} (h : AccessFrame s t) : NoNewMcmds s t := h.ends.noNew

theorem endGroups_noNew (s : State) (slot : Nat) : NoNewMcmds s (s.endGroups slot) := .of_eq rfl rfl
theorem packetGone_frame (s : State) (slot : Nat) (o : Origin) : EndsFrame s (s.packetGone slot o) := by
  unfold State.packetGone
  split
  · exact packetDone_frame ..
  · rfl
theorem endCommands_noNew (s : State) (slot : Nat) : NoNewMcmds s (s.endCommands slot) := by
  have h := EndsFrame.foldl (fun (s : State) (e : Nat × CopyCmd) => s.packetGone slot e.2.org)
    (s.ecmds.keep (fun _ c => c.ctx == slot && !c.started)) s fun t e => packetGone_frame t slot e.2.org
  refine h.noNew.trans ⟨rfl, fun x hx => ?_⟩
  exact (List.mem_filter.1 hx).1
theorem dropClaim_noNew {s t : State} {p slot entry : Nat} (h : s.dropClaim p slot entry = .ok t ∨ s.dropClaim p slot entry = .error t) :
    NoNewMcmds s t := by
  have frame := rawUpd_frame s 2 (p / 2) slot (entry + 0x0E) 1 (· &&& 0xFD)
  unfold State.dropClaim at h
  split at h <;> rename_i e <;> rw [e] at frame <;> obtain h | h := h <;> cases h
  · exact .of_eq rfl rfl
  · exact frame.noNew
theorem setReg_noNew (s : State) (a : Nat) (v : W64) : NoNewMcmds s (s.setReg a v) := .of_eq rfl rfl
theorem setRegFld_noNew (s : State) (a hi lo x : Nat) : NoNewMcmds s (s.setRegFld a hi lo x) := setReg_noNew ..
theorem fxIdle_noNew (s : State) (p : Nat) (cur : Option FxStart) (claim : Option GClaim) (w : FxWait) :
    NoNewMcmds s (s.fxIdle p cur claim w) := .of_eq rfl rfl
/-- The registers of a program that has stopped. -/
def State.fxStopped (s : State) (p : Nat) (code : BitVec 8) (detail : Nat) (addr fpc : W64) : State :=
  let s := s.fxIdle p none none .none
  let s := s.setReg (fxAddr p 0x18) (BitVec.ofNat 64 (detail * 65536 + code.toNat))
  let s := s.setReg (fxAddr p 0x20) addr
  let s := s.setReg (fxAddr p 0x10) fpc
  let s := s.setRegFld (fxAddr p 0x28) 63 32 (fld (s.reg (fxAddr p 0x28)) 63 32 + 1)
  s.setRegFld (fxAddr p 0) 1 1 0
theorem fxStopped_noNew (s : State) (p : Nat) (code : BitVec 8) (detail : Nat) (addr fpc : W64) :
    NoNewMcmds s (s.fxStopped p code detail addr fpc) := by
  unfold State.fxStopped
  exact (fxIdle_noNew ..).trans ((setReg_noNew ..).trans ((setReg_noNew ..).trans ((setReg_noNew ..).trans
    ((setRegFld_noNew ..).trans (setRegFld_noNew ..)))))
/-- A program stops where its claim can be released, and waits where it cannot. -/
theorem fxStop_cases (s : State) (p : Nat) (code : BitVec 8) (detail : Nat) (addr : W64) :
    s.fxStop p code detail addr = .ok (s.fxStopped p code detail addr (s.fxs.get FxSt.init p).fpc)
    ∨ ∃ slot entry, (∃ u, s.dropClaim p slot entry = .ok u
        ∧ s.fxStop p code detail addr = .ok (u.fxStopped p code detail addr (s.fxs.get FxSt.init p).fpc))
      ∨ ∃ w cur claim, s.dropClaim p slot entry = .error w
        ∧ s.fxStop p code detail addr = .error (w.fxIdle p cur claim (.ending code detail addr)) := by
  cases hcur : (s.fxs.get FxSt.init p).cur with
  | none => left; simp only [State.fxStop, hcur]; rfl
  | some c =>
    cases hclaim : (s.fxs.get FxSt.init p).claim with
    | none => left; simp only [State.fxStop, hcur, hclaim]; rfl
    | some cl =>
      right
      refine ⟨c.slot, cl.entry, ?_⟩
      cases hd : s.dropClaim p c.slot cl.entry with
      | ok u => left; refine ⟨u, rfl, ?_⟩; simp only [State.fxStop, hcur, hclaim, hd]; rfl
      | error w => right; refine ⟨w, some c, some cl, rfl, ?_⟩; simp only [State.fxStop, hcur, hclaim, hd]
theorem fxStop_noNew {s t : State} {p : Nat} {code : BitVec 8} {detail : Nat} {addr : W64}
    (h : s.fxStop p code detail addr = .ok t ∨ s.fxStop p code detail addr = .error t) : NoNewMcmds s t := by
  obtain e | ⟨slot, entry, ⟨u, hu, e⟩ | ⟨w, cur, claim, hw, e⟩⟩ := fxStop_cases s p code detail addr <;> rw [e] at h <;>
    obtain h | h := h <;> cases h
  · exact fxStopped_noNew ..
  · exact (dropClaim_noNew (.inl hu)).trans (fxStopped_noNew ..)
  · exact (dropClaim_noNew (.inr hw)).trans (fxIdle_noNew ..)

theorem fxEndCtx_noNew (s : State) (slot : Nat) : NoNewMcmds s (s.fxEndCtx slot) := by
  refine NoNewMcmds.foldl _ _ s fun t p => ?_
  dsimp only
  -- its queued starts are discarded first
  have gone (u : State) (l : List FxStart) : NoNewMcmds u (l.foldl (fun s c => s.packetGone slot c.org) u) :=
    NoNewMcmds.foldl _ _ u fun v c => (packetGone_frame v slot c.org).noNew
  refine NoNewMcmds.trans (.of_eq rfl rfl) ((gone { t with fxs := t.fxs.set FxSt.init p { t.fxs.get FxSt.init p with
    queue := (t.fxs.get FxSt.init p).queue.filter (fun c => c.slot != slot)
    store := (t.fxs.get FxSt.init p).store.filter (fun m => m.slot != slot) } }
    ((t.fxs.get FxSt.init p).queue.filter (fun c => c.slot == slot))).trans ?_)
  generalize ((t.fxs.get FxSt.init p).queue.filter (fun c => c.slot == slot)).foldl _ _ = u
  split
  · split
    · split <;> rename_i e
      · exact (fxStop_noNew (.inr e)).trans (.of_eq rfl rfl)
      · refine (fxStop_noNew (.inl e)).trans ?_
        split
        · exact (event_frame ..).ends.noNew
        · exact ((event_frame ..).ends.trans (packetDone_frame ..)).noNew
        · exact (event_frame ..).ends.noNew
        · exact NoNewMcmds.refl _
    · exact NoNewMcmds.refl _
  · exact NoNewMcmds.refl _
theorem endPhasers_noNew (s : State) (slot : Nat) : NoNewMcmds s (s.endPhasers slot) :=
  NoNewMcmds.trans (t := { s with
    phasers := s.phasers.keep (fun _ p => p.owner != slot), phMsgs := s.phMsgs.filter (fun m => m.slot != slot) })
    (.of_eq rfl rfl) (setReg_noNew ..)
theorem endRegions_noNew (s : State) (slot : Nat) : NoNewMcmds s (s.endRegions slot) := by
  refine NoNewMcmds.foldl _ _ s fun t k => ?_
  split
  · exact (setRegFld_noNew ..).trans (setReg_noNew ..)
  · exact NoNewMcmds.refl t
theorem endTroughs_noNew (s : State) (slot : Nat) : NoNewMcmds s (s.endTroughs slot) := by
  refine NoNewMcmds.foldl _ _ s fun t k => ?_
  split
  · exact NoNewMcmds.trans (t := { t with troughs := t.troughs.erase k }) (.of_eq rfl rfl) (setRegFld_noNew ..)
  · exact NoNewMcmds.refl t
theorem endLinks_noNew (s : State) (slot : Nat) : NoNewMcmds s (s.endLinks slot) := by
  refine NoNewMcmds.foldl _ _ s fun t k => ?_
  dsimp only
  split
  · exact setRegFld_noNew ..
  · exact NoNewMcmds.refl t
theorem endQueues_noNew (s : State) (slot : Nat) (keep : Option Nat) : NoNewMcmds s (s.endQueues slot keep) := by
  refine NoNewMcmds.foldl _ _ s fun t q => ?_
  split
  · exact (physWrite_frame ..).access.noNew
  · exact NoNewMcmds.refl t
theorem endGrids_noNew (s : State) (slot : Nat) (lost : SMap SavedTeam) : NoNewMcmds s (s.endGrids slot lost) :=
  NoNewMcmds.trans (t := { s with
    graphs := s.graphs.mapV (fun g => if g.slot = slot then { g with aborted := true, ready := [], running := [], fin := [] } else g)
    grids := s.grids.mapV (fun g => if g.slot = slot then { g with killed := true, teamN := g.nextTeam } else g) })
    (.of_eq rfl rfl) (NoNewMcmds.foldl _ _ _ fun _ _ => .of_eq rfl rfl)
theorem endTeams_noNew (s : State) (slot : Nat) : NoNewMcmds s (s.endTeams slot) :=
  (NoNewMcmds.foldl _ _ s fun _ _ => (tryTeamEnd_frame ..).noNew).trans (NoNewMcmds.foldl _ _ _ fun _ _ => (gridEnd_frame ..).noNew)
theorem endContext_noNew (s : State) (slot : Nat) (keep : Option Nat) : NoNewMcmds s (s.endContext slot keep) :=
  (endGroups_noNew s slot).trans ((endCommands_noNew ..).trans ((fxEndCtx_noNew ..).trans ((endPhasers_noNew ..).trans
    ((endRegions_noNew ..).trans ((endTroughs_noNew ..).trans ((endLinks_noNew ..).trans ((endQueues_noNew ..).trans
    ((endGrids_noNew ..).trans ((endTeams_noNew ..).trans (checkEndings_frame _).noNew)))))))))
theorem unhandled_noNew (s : State) (slot : Nat) (code : BitVec 8) (seq : W32) (site : W64) :
    NoNewMcmds s (s.unhandled slot code seq site) := (endContext_noNew ..).trans (event_frame ..).ends.noNew
theorem asyncTo_noNew (s : State) (gid : Nat) (f : AFault) : NoNewMcmds s (s.asyncTo gid f) := by
  unfold State.asyncTo
  split
  · split
    · exact .of_eq rfl rfl
    · exact unhandled_noNew ..
  · exact .of_eq rfl rfl

end Sys2Proof.Machine
end

section
/-! SUPPORT. A matrix engine's reset: its groups and their batches, the fault that each has pending, and the teams' tiles (R261). -/

namespace Sys2Proof.Machine

-- ## What is discarded

/-- Only a team's bytes in scratchpad and their poison differ. -/
def SameTeam (t t' : Team) : Prop := t' = { t with sram := t'.sram, poison := t'.poison }
theorem SameTeam.trans {t u v : Team} (a : SameTeam t u) (b : SameTeam u v) : SameTeam t v := by
  unfold SameTeam at *; rw [b, a]
/-- Only memory, and what teams hold in scratchpad, has changed. -/
structure ScatterFrame (s t : State) : Prop where
  frame : ∃ x, AccessFrame { s with teams := x } t
  teams : ∀ k tm, s.team k = some tm → ∃ tm', t.team k = some tm' ∧ SameTeam tm tm'
theorem ScatterFrame.refl (s : State) : ScatterFrame s s := ⟨⟨s.teams, rfl⟩, fun _ tm h => ⟨tm, h, rfl⟩⟩
theorem ScatterFrame.trans {s t u : State} (a : ScatterFrame s t) (b : ScatterFrame t u) : ScatterFrame s u := by
  obtain ⟨⟨x, ha⟩, ta⟩ := a
  obtain ⟨⟨y, hb⟩, tb⟩ := b
  refine ⟨⟨y, ?_⟩, fun k tm h => ?_⟩
  · unfold AccessFrame at *; rw [hb, ha]
  · obtain ⟨tm1, h1, e1⟩ := ta k tm h
    obtain ⟨tm2, h2, e2⟩ := tb k tm1 h1
    exact ⟨tm2, h2, e1.trans e2⟩
theorem AccessFrame.scatter {s t : State} (h : AccessFrame s t) : ScatterFrame s t :=
  ⟨⟨s.teams, h⟩, fun k tm ht => ⟨tm, by unfold AccessFrame at h; rw [h]; exact ht, rfl⟩⟩
theorem AccessFrame.foldl {β : Type} (f : State → β → State) (l : List β) (s : State) (hf : ∀ t x, AccessFrame t (f t x)) :
    AccessFrame s (l.foldl f s) := by
  induction l generalizing s with
  | nil => exact AccessFrame.refl s
  | cons x l ih => exact (hf s x).trans (ih _)
theorem scatterOpen_frame (s : State) (c : MCmd) : ScatterFrame s (s.scatterOpen c) := by
  unfold State.scatterOpen
  split
  · rename_i df bl16 rm gl tile a b sc tm ho ht
    dsimp only
    split
    · exact (AccessFrame.foldl _ _ s fun u x => rawWrite_frame ..).scatter
    · refine ⟨⟨s.teams.insert c.tid (tm.write _), rfl⟩, fun k tm' h => ?_⟩
      by_cases hk : k = c.tid
      · subst hk
        obtain rfl : tm = tm' := Option.some_inj.1 (ht.symm.trans h)
        exact ⟨_, SMap.find?_insert_self .., rfl⟩
      · exact ⟨tm', (SMap.find?_insert_ne _ (Ne.symm hk) _).trans h, rfl⟩
  · exact ScatterFrame.refl s
theorem scatterAll_frame (l : List (Nat × MCmd)) (s : State) : ScatterFrame s (l.foldl (fun s e => s.scatterOpen e.2) s) := by
  induction l generalizing s with
  | nil => exact ScatterFrame.refl s
  | cons x l ih => exact (scatterOpen_frame s x.2).trans (ih _)

-- ## A group after the reset

/-- The commands of a group that a reset leaves: its latch entry, where that is for an image. -/
def Group.keepsCmd (g : Group) (keep : Bool) (i : Nat) : Bool := keep && g.latch.any (fun e => e.id == i)
theorem afterReset_eq (g : Group) (keep : Bool) : g.afterReset keep = { g with
    latch := if keep then g.latch else none, openCmds := g.openCmds.filter (g.keepsCmd keep)
    batches := (g.batches.map (fun b => { b with cmds := b.cmds.filter (g.keepsCmd keep) })).dropWhile (fun b => b.cmds.isEmpty) } := rfl
theorem filter_filter_self {α : Type} (l : List α) (p : α → Bool) : (l.filter p).filter p = l.filter p := by
  rw [List.filter_filter]
  simp
/-- A second reset finds nothing more to discard. -/
theorem afterReset_afterReset (g : Group) (keep : Bool) : (g.afterReset keep).afterReset keep = g.afterReset keep := by
  have stays : (g.afterReset keep).keepsCmd keep = g.keepsCmd keep := by
    unfold Group.keepsCmd
    cases keep <;> rfl
  have latch : (if keep then (g.afterReset keep).latch else none) = if keep then g.latch else none := by cases keep <;> rfl
  have cmds (b : Batch) (hb : b ∈ (g.afterReset keep).batches) : { b with cmds := b.cmds.filter (g.keepsCmd keep) } = b := by
    obtain ⟨b0, -, rfl⟩ := List.mem_map.1 ((List.dropWhile_sublist _).subset hb)
    exact congrArg (Batch.mk b0.num) (filter_filter_self b0.cmds (g.keepsCmd keep))
  rw [afterReset_eq (g.afterReset keep), stays, latch, List.map_congr_left cmds, List.map_id']
  rw [afterReset_eq g]
  simp only [filter_filter_self, List.dropWhile_idempotent]
/-- A group after a reset, its pending fault included. -/
def Group.wasReset (g : Group) (keep : Bool) (f : AFault) : Group :=
  { g.afterReset keep with pendq := if g.pendq.any AFault.isReset then g.pendq else g.pendq ++ [f] }
/-- The pending queue of a group takes the fault of a reset, or has it already. -/
def Group.HasRoom (g : Group) : Prop := g.pendq.length < 8 ∨ g.pendq.any AFault.isReset = true
theorem wasReset_isReset (g : Group) (keep : Bool) {f : AFault} (hf : f.isReset = true) :
    (g.wasReset keep f).pendq.any AFault.isReset = true := by
  unfold Group.wasReset
  dsimp only
  split
  · assumption
  · simp [hf]
/-- A group that was reset, and whose `MWAIT`s have gone on, is as it was after another reset. -/
theorem wasReset_of_settled {g h : Group} {keep : Bool} {f f' : AFault} (hf : f.isReset = true) (s : Settled (g.wasReset keep f) h) :
    Settled (g.wasReset keep f) (h.wasReset keep f') := by
  have again := afterReset_afterReset g keep
  have pend := wasReset_isReset g keep hf
  have pendq : h.pendq = (g.wasReset keep f).pendq := by unfold Settled at s; rw [s]
  have other (sp : List Split) (q : List QWrite) (r : Option Nat) (w : Nat) (p : List AFault) (x : Group) :
      ({ x with splits := sp, qwrites := q, readyAt := r, wait := w, pendq := p } : Group).afterReset keep
        = { x.afterReset keep with splits := sp, qwrites := q, readyAt := r, wait := w, pendq := p } := rfl
  have reset : h.afterReset keep = { g.afterReset keep with
      splits := h.splits, qwrites := h.qwrites, readyAt := h.readyAt, wait := h.wait, pendq := h.pendq } := by
    have e : h = { g.afterReset keep with
        splits := h.splits, qwrites := h.qwrites, readyAt := h.readyAt, wait := h.wait, pendq := h.pendq } := by
      unfold Settled Group.wasReset at s; rw [s]
    exact (congrArg (fun x : Group => x.afterReset keep) e).trans ((other ..).trans (by rw [again]))
  unfold Settled
  rw [Group.wasReset, pendq, if_pos pend, reset]
  rfl

-- ## The reset of one group after another

/-- One group is reset. -/
def State.resetOne (s : State) (gid : Nat) (keep : Bool) (f : AFault) : State :=
  ((s.updGrp gid (fun g => g.afterReset keep)).pendReset gid f).matrixSettle gid
theorem pendReset_of_room {s : State} {gid : Nat} {g : Group} (h : s.grp gid = some g) (hr : g.HasRoom) (f : AFault) :
    s.pendReset gid f = s ∧ g.pendq.any AFault.isReset = true
      ∨ s.pendReset gid f = s.setGrp gid { g with pendq := g.pendq ++ [f] } ∧ g.pendq.any AFault.isReset = false := by
  unfold State.pendReset
  rw [h, Option.any_some]
  cases hp : g.pendq.any AFault.isReset with
  | true => exact .inl ⟨if_pos rfl, rfl⟩
  | false =>
    right
    have room : g.pendq.length < 8 := hr.resolve_right (by rw [hp]; exact Bool.false_ne_true)
    rw [if_neg Bool.false_ne_true]
    unfold State.asyncTo Group.pushFault
    rw [h]
    dsimp only
    rw [if_neg (Nat.not_le.2 room)]
    exact ⟨rfl, rfl⟩
theorem setGrp_frame (s : State) (gid : Nat) (g : Group) : GroupsFrame s (s.setGrp gid g) := rfl
section
variable {s : State} {gid : Nat} {g : Group} (h : s.grp gid = some g) (hr : g.HasRoom) (keep : Bool) (f : AFault)
include h hr
theorem resetOne_grp : ∃ g', (s.resetOne gid keep f).grp gid = some g' ∧ Settled (g.wasReset keep f) g' := by
  have here := grp_updGrp_self h (fun g => g.afterReset keep)
  unfold State.resetOne
  obtain ⟨e, hp⟩ | ⟨e, hp⟩ := pendReset_of_room here hr f <;> rw [e]
  · obtain ⟨g', hg', settled⟩ := matrixSettle_grp here
    have same : g.wasReset keep f = g.afterReset keep := by
      have hp' : g.pendq.any AFault.isReset = true := hp
      unfold Group.wasReset
      rw [if_pos hp']
      rfl
    exact ⟨g', hg', same ▸ settled⟩
  · have pended : ((s.updGrp gid (fun g => g.afterReset keep)).setGrp gid { g.afterReset keep with
        pendq := (g.afterReset keep).pendq ++ [f] }).grp gid = some (g.wasReset keep f) := by
      have hp' : ¬ g.pendq.any AFault.isReset = true := by rw [show g.pendq.any AFault.isReset = false from hp]; exact Bool.false_ne_true
      rw [grp_setGrp, if_pos rfl, Group.wasReset, if_neg hp']
      rfl
    exact matrixSettle_grp pended
theorem resetOne_frame : GroupsFrame s (s.resetOne gid keep f) := by
  have here := grp_updGrp_self h (fun g => g.afterReset keep)
  unfold State.resetOne
  obtain ⟨e, -⟩ | ⟨e, -⟩ := pendReset_of_room here hr f <;> rw [e]
  · exact (updGrp_frame ..).trans (matrixSettle_frame ..)
  · exact (updGrp_frame ..).trans ((setGrp_frame ..).trans (matrixSettle_frame ..))
theorem resetOne_grp_ne {j : Nat} (hj : j ≠ gid) : (s.resetOne gid keep f).grp j = s.grp j := by
  have here := grp_updGrp_self h (fun g => g.afterReset keep)
  unfold State.resetOne
  obtain ⟨e, -⟩ | ⟨e, -⟩ := pendReset_of_room here hr f <;> rw [e, matrixSettle_grp_ne _ hj]
  · exact grp_updGrp_ne _ hj _
  · rw [grp_setGrp, if_neg hj.symm]
    exact grp_updGrp_ne _ hj _
end

/-- The groups that a reset reaches, each with whether its latch entry stays, and its fault. -/
def State.resetAll (s : State) (l : List (Nat × Bool × AFault)) : State := l.foldl (fun s f => s.resetOne f.1 f.2.1 f.2.2) s
/-- Each of the groups is there, and all have room for a fault that tells of a reset. -/
structure Resettable (s : State) (l : List (Nat × Bool × AFault)) : Prop where
  room : ∀ j g, s.grp j = some g → g.HasRoom
  here : ∀ e ∈ l, ∃ g, s.grp e.1 = some g
  reset : ∀ e ∈ l, e.2.2.isReset = true
theorem Resettable.tail {s : State} {e : Nat × Bool × AFault} {l : List (Nat × Bool × AFault)} (h : Resettable s (e :: l)) :
    Resettable (s.resetOne e.1 e.2.1 e.2.2) l := by
  obtain ⟨g, hg⟩ := h.here e List.mem_cons_self
  have room := h.room _ g hg
  obtain ⟨g', hg', settled⟩ := resetOne_grp hg room e.2.1 e.2.2
  refine ⟨fun j x hx => ?_, fun y hy => ?_, fun y hy => h.reset y (List.mem_cons_of_mem e hy)⟩
  · by_cases hj : j = e.1
    · subst hj
      obtain rfl := Option.some_inj.1 (hg'.symm.trans hx)
      right
      have isReset := wasReset_isReset g e.2.1 (h.reset e List.mem_cons_self)
      unfold Settled at settled
      rw [settled]
      exact isReset
    · exact h.room j x ((resetOne_grp_ne hg room e.2.1 e.2.2 hj).symm.trans hx)
  · by_cases hj : y.1 = e.1
    · exact ⟨g', hj ▸ hg'⟩
    · obtain ⟨x, hx⟩ := h.here y (List.mem_cons_of_mem e hy)
      exact ⟨x, (resetOne_grp_ne hg room e.2.1 e.2.2 hj).trans hx⟩
theorem resetAll_frame (l : List (Nat × Bool × AFault)) {s : State} (h : Resettable s l) : GroupsFrame s (s.resetAll l) := by
  induction l generalizing s with
  | nil => exact GroupsFrame.refl s
  | cons e l ih =>
    obtain ⟨g, hg⟩ := h.here e List.mem_cons_self
    exact (resetOne_frame hg (h.room _ g hg) e.2.1 e.2.2).trans (ih h.tail)
/-- A group that the list names, always with the same fault, is reset; another is as it was. -/
theorem resetAll_grp (l : List (Nat × Bool × AFault)) {s : State} (h : Resettable s l) {j : Nat} {g x : Group} {keep : Bool} {f : AFault}
    (hx : s.grp j = some x) (hf : f.isReset = true) (hl : ∀ e ∈ l, e.1 = j → e.2 = (keep, f))
    (was : x = g ∨ Settled (g.wasReset keep f) x) :
    ∃ g', (s.resetAll l).grp j = some g' ∧ (Settled (g.wasReset keep f) g' ∨ g' = x ∧ ∀ e ∈ l, e.1 ≠ j) := by
  induction l generalizing s x with
  | nil => exact ⟨x, hx, .inr ⟨rfl, fun _ he => absurd he List.not_mem_nil⟩⟩
  | cons e l ih =>
    obtain ⟨y, hy⟩ := h.here e List.mem_cons_self
    have room := h.room _ y hy
    have rest : ∀ z ∈ l, z.1 = j → z.2 = (keep, f) := fun z hz => hl z (List.mem_cons_of_mem e hz)
    by_cases hj : j = e.1
    · obtain ⟨gid, keep', f'⟩ := e
      obtain rfl : j = gid := hj
      obtain ⟨rfl, rfl⟩ := Prod.mk.inj (hl _ List.mem_cons_self rfl)
      obtain rfl := Option.some_inj.1 (hx.symm.trans hy)
      obtain ⟨x1, hx1, settled⟩ := resetOne_grp hx room keep' f'
      have reset : Settled (g.wasReset keep' f') x1 := by
        obtain rfl | was := was
        · exact settled
        · exact (wasReset_of_settled hf was).trans settled
      obtain ⟨g', hg', r | ⟨rfl, -⟩⟩ := ih h.tail hx1 rest (.inr reset)
      · exact ⟨g', hg', .inl r⟩
      · exact ⟨g', hg', .inl reset⟩
    · obtain ⟨g', hg', r | ⟨rfl, none_⟩⟩ := ih h.tail ((resetOne_grp_ne hy room e.2.1 e.2.2 hj).trans hx) rest was
      · exact ⟨g', hg', .inl r⟩
      · exact ⟨g', hg', .inr ⟨rfl, List.forall_mem_cons.2 ⟨Ne.symm hj, none_⟩⟩⟩
theorem pendReset_noNew (s : State) (gid : Nat) (f : AFault) : NoNewMcmds s (s.pendReset gid f) := by
  unfold State.pendReset
  split
  · exact NoNewMcmds.refl s
  · exact asyncTo_noNew ..
theorem GroupsFrame.noNew {s t : State} (h : GroupsFrame s t) : NoNewMcmds s t := by
  unfold GroupsFrame at h
  exact .of_eq (by rw [h]) (by rw [h])
theorem resetAll_noNew (s : State) (l : List (Nat × Bool × AFault)) : NoNewMcmds s (s.resetAll l) :=
  NoNewMcmds.foldl _ _ s fun _ _ => (updGrp_frame ..).noNew.trans ((pendReset_noNew ..).trans (matrixSettle_frame ..).noNew)

end Sys2Proof.Machine
end

section
/-! SUPPORT. The events of a reset, its teams, and groups that stay in their teams (R261, R391, R398). -/

namespace Sys2Proof

/-- An entry of a map stays when another is placed, unless it is the one that is replaced. -/
theorem SMap.mem_insert {α : Type} {m : SMap α} {x : Nat × α} (h : x ∈ m) (k : Nat) (v : α) :
    x ∈ SMap.insert m k v ∨ (x.1 = k ∧ SMap.find? m k = some x.2) := by
  induction m with
  | nil => exact absurd h List.not_mem_nil
  | cons e m ih =>
    obtain ⟨a, w⟩ := e
    unfold SMap.insert
    rw [SMap.find?_cons]
    by_cases h1 : k < a
    · rw [if_pos h1]; exact .inl (List.mem_cons_of_mem _ h)
    · rw [if_neg h1]
      by_cases h2 : k = a
      · rw [if_pos h2, if_pos h2.symm]
        obtain rfl | h := List.mem_cons.1 h
        · exact .inr ⟨h2.symm, rfl⟩
        · exact .inl (List.mem_cons_of_mem _ h)
      · rw [if_neg h2, if_neg (Ne.symm h2)]
        obtain rfl | h := List.mem_cons.1 h
        · exact .inl List.mem_cons_self
        · exact (ih h).imp_left (List.mem_cons_of_mem _)
theorem SMap.exists_find?_of_mem {α : Type} {m : SMap α} {k : Nat} {v : α} (h : (k, v) ∈ m) : ∃ w, SMap.find? m k = some w := by
  induction m with
  | nil => exact absurd h List.not_mem_nil
  | cons e m ih =>
    obtain ⟨a, w⟩ := e
    rw [SMap.find?_cons]
    by_cases e : a = k
    · exact ⟨w, if_pos e⟩
    · rw [if_neg e]
      exact ih ((List.mem_cons.1 h).resolve_left fun h => e (Prod.mk.inj h).1.symm)
theorem SMap.mem_insert_self {α : Type} (m : SMap α) (k : Nat) (v : α) : (k, v) ∈ SMap.insert m k v :=
  SMap.mem_of_find? (SMap.find?_insert_self m k v)

namespace Machine

-- ## Groups that stay in their teams

/-- Every listed group is still listed, in the same team. -/
def SameTids (s t : State) : Prop := ∀ k g, (k, g) ∈ s.groups → ∃ g', (k, g') ∈ t.groups ∧ g'.tid = g.tid
theorem SameTids.refl (s : State) : SameTids s s := fun _ g h => ⟨g, h, rfl⟩
theorem SameTids.of_eq {s t : State} (h : t.groups = s.groups) : SameTids s t := fun _ g hg => ⟨g, h ▸ hg, rfl⟩
theorem SameTids.trans {s t u : State} (a : SameTids s t) (b : SameTids t u) : SameTids s u := by
  intro k g h
  obtain ⟨g1, h1, e1⟩ := a k g h
  obtain ⟨g2, h2, e2⟩ := b k g1 h1
  exact ⟨g2, h2, e2.trans e1⟩
theorem SameTids.foldl {β : Type} (f : State → β → State) (l : List β) (s : State) (hf : ∀ t x, SameTids t (f t x)) :
    SameTids s (l.foldl f s) := by
  induction l generalizing s with
  | nil => exact SameTids.refl s
  | cons x l ih => exact (hf s x).trans (ih _)
theorem setGrp_tids {s : State} {gid : Nat} {g g' : Group} (h : s.grp gid = some g) (ht : g'.tid = g.tid) : SameTids s (s.setGrp gid g') := by
  intro k x hx
  obtain hm | ⟨rfl, hk⟩ := SMap.mem_insert hx gid g'
  · exact ⟨x, hm, rfl⟩
  · obtain rfl := Option.some_inj.1 (h.symm.trans hk)
    exact ⟨g', SMap.mem_insert_self .., ht⟩
theorem updGrp_tids (s : State) (gid : Nat) {f : Group → Group} (hf : ∀ g, (f g).tid = g.tid) : SameTids s (s.updGrp gid f) := by
  cases h : s.grp gid with
  | none =>
    refine SameTids.of_eq ?_
    show SMap.adjust s.groups gid f = s.groups
    rw [SMap.adjust, show SMap.find? s.groups gid = none from h]
  | some g =>
    have e : (s.updGrp gid f).groups = (s.setGrp gid (f g)).groups := by
      show SMap.adjust s.groups gid f = _
      rw [SMap.adjust, show SMap.find? s.groups gid = some g from h]
      rfl
    exact (setGrp_tids h (hf g)).trans (.of_eq e)
theorem mwaitDone_tids (s : State) (gid n : Nat) : SameTids s (s.mwaitDone gid n) := by
  unfold State.mwaitDone
  split
  · rename_i g _
    exact (SameTids.of_eq (by rw [acquireQ_frame])).trans (updGrp_tids _ _ fun _ => rfl)
  · exact SameTids.refl s
theorem wakeSplit_tids (s : State) (gid idx : Nat) : SameTids s (s.wakeSplit gid idx) := by
  refine updGrp_tids _ _ fun g => ?_
  split
  · rw [becomeReady_eq]; rfl
  · rfl
theorem matrixSettle_tids (s : State) (gid : Nat) : SameTids s (s.matrixSettle gid) := by
  cases h : s.grp gid with
  | none => rw [matrixSettle_of_none h]; exact SameTids.refl s
  | some g =>
    rw [matrixSettle_of_grp h]
    refine SameTids.foldl _ _ s fun t sp => ?_
    obtain e | ⟨n, -, -, e⟩ := settleSplit_cases t g gid sp <;> rw [e]
    · exact SameTids.refl t
    · exact (mwaitDone_tids t gid n).trans (wakeSplit_tids _ gid sp.idx)
theorem resetAll_tids (l : List (Nat × Bool × AFault)) {s : State} (h : Resettable s l) : SameTids s (s.resetAll l) := by
  induction l generalizing s with
  | nil => exact SameTids.refl s
  | cons e l ih =>
    obtain ⟨g, hg⟩ := h.here e List.mem_cons_self
    have here := grp_updGrp_self hg (fun g => g.afterReset e.2.1)
    refine SameTids.trans ?_ (ih h.tail)
    unfold State.resetOne
    refine (updGrp_tids s e.1 (f := fun g => g.afterReset e.2.1) fun _ => rfl).trans (SameTids.trans ?_ (matrixSettle_tids _ e.1))
    obtain ⟨e', -⟩ | ⟨e', -⟩ := pendReset_of_room here (h.room _ g hg) e.2.2 <;> rw [e']
    · exact SameTids.refl _
    · exact setGrp_tids here rfl
theorem SameTids.teamGroups {s t : State} (h : SameTids s t) {tid : Nat} (hs : s.teamGroups tid ≠ []) : t.teamGroups tid ≠ [] := by
  obtain ⟨k, hk⟩ := List.exists_mem_of_ne_nil _ hs
  obtain ⟨⟨k, g⟩, hg, rfl⟩ := List.mem_map.1 hk
  obtain ⟨hm, ht⟩ := List.mem_filter.1 hg
  obtain ⟨g', hm', e⟩ := h k g hm
  refine List.ne_nil_of_mem (a := k) (List.mem_map.2 ⟨(k, g'), List.mem_filter.2 ⟨hm', ?_⟩, rfl⟩)
  exact (congrArg (· == tid) e).trans ht

-- ## Events

theorem engWrite_events {s t : State} {cls die slot va : Nat} {bs : List Byte} {r : Except EStop Unit}
    (h : s.engWrite cls die slot va bs = (t, r)) : t.events = s.events := by
  have frame := frame_of_engWrite h
  unfold AccessFrame at frame
  rw [frame]
/-- Writing waiting events of one context leaves those of another. -/
theorem flushEvent_other (s : State) {slot m : Nat} (h : m ≠ slot) : (s.flushEvent slot).1.events.get [] m = s.events.get [] m := by
  unfold State.flushEvent
  split
  · rfl
  · rename_i rest _
    dsimp only
    split
    · rfl
    · split
      · rfl
      · split <;> rename_i e
        · rw [engWrite_events e]
        · exact (SMap.get_set_ne [] _ h.symm rest).trans (congrArg (SMap.get [] · m) (engWrite_events e))
theorem flushEvents_other (s : State) {slot m : Nat} (h : m ≠ slot) (n : Nat) :
    (s.flushEvents slot n).events.get [] m = s.events.get [] m := by
  induction n generalizing s with
  | zero => rfl
  | succ n ih =>
    have one := flushEvent_other s h
    unfold State.flushEvents
    split <;> rename_i e <;> rw [e] at one
    · exact (ih _).trans one
    · exact one
theorem event_other (s : State) {slot m : Nat} (h : m ≠ slot) (code fc queue : Nat) (tag : W32) (w1 w2 : W64) :
    (s.event slot code fc queue tag w1 w2).events.get [] m = s.events.get [] m := by
  unfold State.event
  dsimp only
  split
  · rfl
  · split
    · exact (flushEvents_other _ h 1).trans (SMap.get_set_ne _ _ h.symm _)
    · exact SMap.get_set_ne _ _ h.symm _
/-- An event joins those that wait, where some wait and there is room. -/
theorem event_joins {s : State} {slot : Nat} {q : List EventRec} (hq : s.events.get [] slot = q) (hne : q ≠ []) (hl : q.length < 256)
    (code fc queue : Nat) (tag : W32) (w1 w2 : W64) : ∃ e : EventRec,
      e.w0 = BitVec.ofNat 64 (code + fc * 256 + queue % 4096 * 65536 + tag.toNat * 2 ^ 32)
      ∧ (s.event slot code fc queue tag w1 w2).events.get [] slot = q ++ [e] := by
  refine ⟨⟨slot, BitVec.ofNat 64 (code + fc * 256 + queue % 4096 * 65536 + tag.toNat * 2 ^ 32), w1, w2,
    BitVec.ofNat 64 (2 ^ 63 + s.deviceNs % 2 ^ 63)⟩, rfl, ?_⟩
  unfold State.event
  dsimp only
  rw [hq, if_neg (Nat.not_le.2 hl), if_neg (by rw [List.isEmpty_iff]; exact hne)]
  exact SMap.get_set_self ..
/-- The event of a reset, for each context of a list, with the command that it names. -/
def State.resetEvents (s : State) (l : List (Nat × W64 × W32)) : State :=
  l.foldl (fun s e => s.event e.1 0x06 0x10 0 0 (e.2.2.setWidth 64) e.2.1) s
theorem resetEvents_frame (s : State) (l : List (Nat × W64 × W32)) : EventFrame s (s.resetEvents l) := by
  unfold State.resetEvents
  induction l generalizing s with
  | nil => exact EventFrame.refl s
  | cons e l ih => exact (event_frame ..).trans (ih _)
theorem resetEvents_other (l : List (Nat × W64 × W32)) (s : State) {m : Nat} (h : m ∉ l.map Prod.fst) :
    (s.resetEvents l).events.get [] m = s.events.get [] m := by
  unfold State.resetEvents
  induction l generalizing s with
  | nil => rfl
  | cons e l ih =>
    rw [List.map_cons, List.mem_cons, not_or] at h
    exact (ih _ h.2).trans (event_other s h.1 ..)
theorem resetEvents_joins (l : List (Nat × W64 × W32)) {s : State} {n : Nat} {q : List EventRec} (hd : (l.map Prod.fst).Nodup)
    (hn : n ∈ l.map Prod.fst) (hq : s.events.get [] n = q) (hne : q ≠ []) (hl : q.length < 256) :
    ∃ e : EventRec, (s.resetEvents l).events.get [] n = q ++ [e] ∧ fld e.w0 7 0 = 0x06 ∧ fld e.w0 15 8 = 0x10 := by
  induction l generalizing s with
  | nil => exact absurd hn List.not_mem_nil
  | cons x l ih =>
    rw [List.map_cons, List.nodup_cons] at hd
    by_cases hx : n = x.1
    · subst hx
      obtain ⟨e, hw, he⟩ := event_joins hq hne hl 0x06 0x10 0 0 (x.2.2.setWidth 64) x.2.1
      refine ⟨e, (resetEvents_other l _ hd.1).trans he, ?_, ?_⟩ <;> rw [hw] <;> rfl
    · rw [List.map_cons, List.mem_cons] at hn
      exact ih hd.2 (hn.resolve_left hx) ((event_other s hx ..).trans hq)

-- ## Teams

theorem tryTeamEnd_of_busy {s : State} {tid : Nat} (h : s.teamBusy tid = true) : s.tryTeamEnd tid = s := by
  unfold State.tryTeamEnd
  split
  · rfl
  · rw [if_pos]
    rw [h, Bool.or_true]
/-- Where no team of a list may end, nothing happens. -/
theorem tryTeamEnds_of_busy (l : List Nat) {s : State} (h : ∀ tid ∈ l, s.teamGroups tid ≠ [] ∨ s.teamBusy tid = true) :
    l.foldl (fun s t => s.tryTeamEnd t) s = s := by
  induction l with
  | nil => rfl
  | cons tid l ih =>
    have same : s.tryTeamEnd tid = s := (h tid List.mem_cons_self).elim tryTeamEnd_of_group tryTeamEnd_of_busy
    rw [List.foldl_cons, same]
    exact ih fun t ht => h t (List.mem_cons_of_mem tid ht)
theorem tryTeamEnds_frame (l : List Nat) (s : State) : LeavesFrame s (l.foldl (fun s t => s.tryTeamEnd t) s) := by
  induction l generalizing s with
  | nil => exact (EndsFrame.refl s).leaves
  | cons tid l ih => exact (tryTeamEnd_frame s tid).trans (ih _)
/-- A team with a group stays, whichever teams end. -/
theorem tryTeamEnds_team (l : List Nat) {s : State} {j : Nat} {g : Group} {tm : Team} (hg : s.grp j = some g) (ht : s.team g.tid = some tm) :
    (l.foldl (fun s t => s.tryTeamEnd t) s).team g.tid = some tm := by
  induction l generalizing s with
  | nil => exact ht
  | cons tid l ih =>
    refine ih ?_ ?_
    · have frame := tryTeamEnd_frame s tid
      unfold LeavesFrame at frame
      dsimp only
      rw [frame]
      exact hg
    · dsimp only
      by_cases e : tid = g.tid
      · rw [e, tryTeamEnd_of_group (List.ne_nil_of_mem (mem_teamGroups hg))]
        exact ht
      · obtain h | h := tryTeamEnd_cases s tid
        · rw [h]; exact ht
        · unfold EndsFrame at h
          rw [h]
          exact (SMap.find?_erase ..).trans ((if_neg e).trans ht)

end Machine
end Sys2Proof
end

section
/-! SUPPORT. The step that resets a matrix engine, taken apart (R261). -/

namespace Sys2Proof.Machine

-- ## Its parts

/-- The teams with tiles on the core. -/
def State.tiled (s : State) (u : Nat) : SMap Team := s.teams.keep (fun _ t => t.core == u && decide (0 < t.acc))
/-- The engine's commands. -/
def State.onCore (s : State) (u : Nat) : SMap MCmd := s.mcmds.keep (fun _ c => c.core == u)
/-- The destination bytes of discarded `ACCQ`s stand open. -/
def State.scattered (s : State) (u : Nat) : State := (s.onCore u).foldl (fun s e => s.scatterOpen e.2) s
/-- The groups that the reset reaches. -/
def State.struck (s : State) (u : Nat) : SMap Group := (s.scattered u).groups.keep (fun _ g => ((s.tiled u).map Prod.fst).contains g.tid)
/-- The fault of a group: it names the oldest command discarded, where there is one. -/
def State.resetFault (s : State) (u : Nat) (e : Nat × Group) : AFault := match s.oldestOf u e.1 e.2 with
  | some x => ⟨fcMatrixReset, 0, 0, x.1, x.2, .reset true⟩
  | none => ⟨fcMatrixReset, 0, 0, 0, 0, .reset false⟩
def State.resetList (s : State) (u : Nat) : List (Nat × Bool × AFault) :=
  (s.struck u).map (fun e => (e.1, (s.scattered u).teamHalted e.2.tid, (s.scattered u).resetFault u e))
/-- The command that the event of a context names. -/
def State.resetName (s : State) (u n : Nat) : Option (W64 × W32) :=
  match List.find? (fun (e : Nat × MCmd) => (s.tiled u).any (fun t => t.1 == e.2.tid && t.2.ctx == n)) (s.onCore u) with
  | some e => some (e.2.site, e.2.seq)
  | none => ((s.struck u).keep (fun _ g => g.ctx == n)).findSome? (fun e => (s.scattered u).oldestOf u e.1 e.2)
def State.resetEvs (s : State) (u : Nat) : List (Nat × W64 × W32) :=
  (((s.tiled u).vals.map (fun t => t.ctx)).dedup).map (fun n => (n, (s.resetName u n).getD (0, 0)))
/-- A team that loses the content of its tiles. -/
def Team.zeroedOn (u : Nat) (t : Team) : Team := if t.core = u ∧ 0 < t.acc then { t with tiles := [] } else t
/-- The commands are gone, and the tiles hold zeros. -/
def State.cleared (s : State) (u : Nat) : State := { s.scattered u with
  mcmds := (s.scattered u).mcmds.keep (fun _ c => c.core != u)
  teams := (s.scattered u).teams.mapV (Team.zeroedOn u) }
/-- The groups have been told, and the engine is resetting. -/
def State.groupsReset (s : State) (u : Nat) : State := (s.cleared u).resetAll (s.resetList u)
def State.engineStopped (s : State) (u : Nat) : State := (s.groupsReset u).setCore u { (s.groupsReset u).core u with resetEnd := some ((s.groupsReset u).now + 4096) }
/-- The contexts have their events. -/
def State.resetDone (s : State) (u : Nat) : State := (s.engineStopped u).resetEvents (s.resetEvs u)

theorem reset_of_none {s : State} (h : s.onCore s.ev.unit = []) : exec .matrixEngineReset s = .next s := by
  show execMatrixEngineReset s = _
  unfold execMatrixEngineReset
  dsimp only
  split
  · rfl
  · rename_i e
    exact absurd (e.symm.trans h) (List.cons_ne_nil _ _)
theorem reset_of_some {s : State} (h : s.onCore s.ev.unit ≠ []) : exec .matrixEngineReset s =
    .next ((((s.tiled s.ev.unit).map Prod.fst).foldl (fun s t => s.tryTeamEnd t) (s.resetDone s.ev.unit)).checkEndings) := by
  show execMatrixEngineReset s = _
  unfold execMatrixEngineReset
  dsimp only
  split
  · rename_i e
    exact absurd e h
  · rfl

-- ## What holds of each part

section
variable (s : State) (u : Nat)

theorem scattered_frame : ScatterFrame s (s.scattered u) := scatterAll_frame ..
theorem scattered_groups : (s.scattered u).groups = s.groups := by
  obtain ⟨x, h⟩ := (scattered_frame s u).frame
  unfold AccessFrame at h
  rw [h]
theorem scattered_mcmds : (s.scattered u).mcmds = s.mcmds := by
  obtain ⟨x, h⟩ := (scattered_frame s u).frame
  unfold AccessFrame at h
  rw [h]
theorem scattered_waits : (s.scattered u).events = s.events ∧ (s.scattered u).endings = s.endings
    ∧ (s.scattered u).suspends = s.suspends := by
  obtain ⟨x, h⟩ := (scattered_frame s u).frame
  unfold AccessFrame at h
  rw [h]
  exact ⟨rfl, rfl, rfl⟩
theorem scattered_oldestOf (gid : Nat) (g : Group) : (s.scattered u).oldestOf u gid g = s.oldestOf u gid g := by
  unfold State.oldestOf State.teamHalted
  rw [scattered_groups, scattered_mcmds]
theorem scattered_teamHalted (tid : Nat) : (s.scattered u).teamHalted tid = s.teamHalted tid := by
  unfold State.teamHalted
  rw [scattered_groups]
theorem scattered_noNew : NoNewMcmds s (s.scattered u) := by
  obtain ⟨x, h⟩ := (scattered_frame s u).frame
  exact (NoNewMcmds.of_eq rfl rfl).trans h.noNew
theorem cleared_noNew : NoNewMcmds s (s.cleared u) := (scattered_noNew s u).trans ⟨rfl, fun _ h => (List.mem_filter.1 h).1⟩
theorem cleared_groups : (s.cleared u).groups = s.groups := scattered_groups s u
theorem cleared_core : ∀ x ∈ (s.cleared u).mcmds, x.2.core ≠ u := fun x hx => by simpa using (List.mem_filter.1 hx).2
theorem cleared_team (k : Nat) : (s.cleared u).team k
    = ((s.scattered u).team k).map (Team.zeroedOn u) := SMap.find?_mapV _ _ _
theorem resetFault_isReset (e : Nat × Group) : (s.resetFault u e).isReset = true ∧ (s.resetFault u e).code = fcMatrixReset := by
  unfold State.resetFault
  split <;> exact ⟨rfl, rfl⟩
theorem groupsReset_noNew : NoNewMcmds (s.cleared u) (s.groupsReset u) := resetAll_noNew ..
theorem resetDone_frame : EventFrame (s.engineStopped u) (s.resetDone u) := resetEvents_frame ..

/-- The whole reset: no command of the engine is left, and it ends after 4,096 cycles. -/
theorem reset_engine (t : State) (h : LeavesFrame (s.resetDone u) t) :
    (∀ j x, t.mcmds.find? j = some x → x.core ≠ u) ∧ (t.core u).resetEnd = some (s.now + 4096) := by
  have frame := (resetDone_frame s u).ends.leaves.trans h
  unfold LeavesFrame at frame
  refine ⟨fun j x hx => ?_, ?_⟩
  · have mem : (j, x) ∈ t.mcmds := SMap.mem_of_find? hx
    rw [frame] at mem
    exact cleared_core s u _ ((groupsReset_noNew s u).2 _ mem)
  · have now : (s.groupsReset u).now = s.now := (groupsReset_noNew s u).1.trans (cleared_noNew s u).1
    have here : ((s.engineStopped u).core u).resetEnd = some (s.now + 4096) := by
      rw [State.engineStopped, core_setCore, if_pos rfl, now]
    rw [frame]
    exact here
end

section
variable {s : State} (room : ∀ x ∈ s.groups, x.2.pendq.length < 8 ∨ x.2.pendq.any AFault.isReset = true) (u : Nat)
include room

theorem resettable : Resettable (s.cleared u) (s.resetList u) := by
  have groups := cleared_groups s u
  refine ⟨fun j g hg => ?_, fun e he => ?_, fun e he => ?_⟩
  · unfold State.grp at hg
    rw [groups] at hg
    exact room _ (SMap.mem_of_find? hg)
  · obtain ⟨x, hx, rfl⟩ := List.mem_map.1 he
    have mem := (List.mem_filter.1 hx).1
    rw [scattered_groups] at mem
    unfold State.grp
    rw [groups]
    exact SMap.exists_find?_of_mem mem
  · obtain ⟨x, -, rfl⟩ := List.mem_map.1 he
    exact (resetFault_isReset _ u x).1
theorem groupsReset_frame : GroupsFrame (s.cleared u) (s.groupsReset u) := resetAll_frame _ (resettable room u)
/-- A group with tiles on the core, after the step. -/
theorem reset_group {j : Nat} {g : Group} {tm : Team} (hg : s.grp j = some g) (only : ∀ x ∈ s.groups, x.1 = j → x.2 = g)
    (ht : s.team g.tid = some tm) (hc : tm.core = u) (ha : 0 < tm.acc) :
    ∃ g', (s.groupsReset u).grp j = some g' ∧ Settled (g.wasReset (s.teamHalted g.tid) ((s.scattered u).resetFault u (j, g))) g' := by
  have groups := cleared_groups s u
  have here : (s.cleared u).grp j = some g := by unfold State.grp; rw [groups]; exact hg
  have same : ∀ e ∈ s.resetList u, e.1 = j → e.2 = (s.teamHalted g.tid, (s.scattered u).resetFault u (j, g)) := by
    intro e he hj
    obtain ⟨⟨k, x⟩, hx, rfl⟩ := List.mem_map.1 he
    have mem := (List.mem_filter.1 hx).1
    rw [scattered_groups] at mem
    obtain rfl : k = j := hj
    obtain rfl : x = g := only _ mem rfl
    rw [scattered_teamHalted]
  have listed : ∃ e ∈ s.resetList u, e.1 = j := by
    refine ⟨_, List.mem_map.2 ⟨(j, g), List.mem_filter.2 ⟨?_, ?_⟩, rfl⟩, rfl⟩
    · rw [scattered_groups]; exact SMap.mem_of_find? hg
    · have tiled : (g.tid, tm) ∈ s.tiled u := List.mem_filter.2 ⟨SMap.mem_of_find? ht, by simp [hc, ha]⟩
      simpa using ⟨tm, tiled⟩
  obtain ⟨g', hg', r | ⟨-, none_⟩⟩ := resetAll_grp _ (resettable room u) here (resetFault_isReset _ u (j, g)).1 same (.inl rfl)
  · exact ⟨g', hg', r⟩
  · obtain ⟨e, he, hj⟩ := listed
    exact absurd hj (none_ e he)
/-- Its team's tiles hold zeros. -/
theorem reset_team {k : Nat} {tm : Team} (ht : s.team k = some tm) (hc : tm.core = u) (ha : 0 < tm.acc) :
    ∃ tm', (s.engineStopped u).team k = some tm' ∧ tm'.tiles = [] := by
  obtain ⟨tm1, h1, e1⟩ := (scattered_frame s u).teams k tm ht
  have told := groupsReset_frame room u
  unfold GroupsFrame at told
  have core : tm1.core = u := by rw [e1]; exact hc
  have acc : 0 < tm1.acc := by rw [e1]; exact ha
  refine ⟨{ tm1 with tiles := [] }, ?_, rfl⟩
  have cleared : (s.cleared u).team k = some { tm1 with tiles := [] } := by
    rw [cleared_team, h1, Option.map_some, Team.zeroedOn, if_pos ⟨core, acc⟩]
  show (s.groupsReset u).team k = _
  rw [told]
  exact cleared
/-- The step ends no team and no context where every team with tiles there has a group, or a command elsewhere. -/
theorem reset_quiet (idle : s.idleEnds) (teams : ∀ x ∈ s.teams, x.2.core = u → 0 < x.2.acc →
      s.teamGroups x.1 ≠ [] ∨ s.mcmds.any (fun e => e.2.core != u && e.2.tid == x.1) = true) :
    (((s.tiled u).map Prod.fst).foldl (fun s t => s.tryTeamEnd t) (s.resetDone u)).checkEndings = s.resetDone u := by
  have told := groupsReset_frame room u
  have done := resetDone_frame s u
  unfold GroupsFrame at told
  unfold EventFrame at done
  obtain ⟨-, sameEndings, sameSuspends⟩ := scattered_waits s u
  have groups : (s.resetDone u).groups = (s.groupsReset u).groups := by rw [done]; rfl
  have mcmds : (s.resetDone u).mcmds = s.mcmds.keep (fun _ c => c.core != u) := by
    rw [done, ← scattered_mcmds s u]
    show (s.groupsReset u).mcmds = _
    rw [told]
    rfl
  have endings : (s.resetDone u).endings = [] := by
    rw [done]
    show (s.groupsReset u).endings = []
    rw [told]
    exact sameEndings.trans idle.1
  have suspends : (s.resetDone u).suspends = [] := by
    rw [done]
    show (s.groupsReset u).suspends = []
    rw [told]
    exact sameSuspends.trans idle.2.1
  have tids : SameTids s (s.resetDone u) :=
    (SameTids.of_eq (cleared_groups s u)).trans ((resetAll_tids _ (resettable room u)).trans (.of_eq groups))
  rw [tryTeamEnds_of_busy, checkEndings_of_idle endings suspends]
  intro tid htid
  obtain ⟨⟨tid, tm⟩, hm, rfl⟩ := List.mem_map.1 htid
  obtain ⟨mem, on⟩ := List.mem_filter.1 hm
  rw [Bool.and_eq_true, beq_iff_eq, decide_eq_true_iff] at on
  refine (teams _ mem on.1 on.2).imp tids.teamGroups fun elsewhere => ?_
  obtain ⟨e, he, hp⟩ := List.any_eq_true.1 elsewhere
  rw [Bool.and_eq_true] at hp
  unfold State.teamBusy
  rw [mcmds]
  have busy : (s.mcmds.keep (fun _ c => c.core != u)).any (fun e => e.2.tid == tid) = true :=
    List.any_eq_true.2 ⟨e, List.mem_filter.2 ⟨he, hp.1⟩, hp.2⟩
  rw [busy, Bool.or_true, Bool.true_or]
/-- Each context with tiles on the core has its event. -/
theorem reset_event {n : Nat} {q : List EventRec} (hn : ∃ x ∈ s.teams, x.2.core = u ∧ 0 < x.2.acc ∧ x.2.ctx = n)
    (hq : s.events.get [] n = q) (hne : q ≠ []) (hl : q.length < 256) :
    ∃ e : EventRec, (s.resetDone u).events.get [] n = q ++ [e] ∧ fld e.w0 7 0 = 0x06 ∧ fld e.w0 15 8 = 0x10 := by
  have told := groupsReset_frame room u
  unfold GroupsFrame at told
  have events : (s.engineStopped u).events = s.events := by
    show (s.groupsReset u).events = _
    rw [told]
    exact (scattered_waits s u).1
  have firsts : (s.resetEvs u).map Prod.fst = ((s.tiled u).vals.map (fun t => t.ctx)).dedup := by
    unfold State.resetEvs
    rw [List.map_map]
    exact List.map_id _
  refine resetEvents_joins _ (by rw [firsts]; exact List.nodup_dedup _) ?_ (by rw [events]; exact hq) hne hl
  obtain ⟨y, hy, hc, ha, hx⟩ := hn
  rw [firsts, List.mem_dedup, SMap.vals, List.map_map]
  exact List.mem_map.2 ⟨y, List.mem_filter.2 ⟨hy, by simp [hc, ha]⟩, hx⟩
end

end Sys2Proof.Machine
end

section
/-! What the commands of a matrix engine, its reset and the end of the reset do (R247, R251 to R261). -/

namespace Sys2Proof.Machine

theorem complete_of_not_may {s : State} {c : MCmd} (hc : s.mcmds.find? s.ev.unit = some c) (hm : s.mayComplete s.ev.unit c = false) :
    exec .engineCommandComplete s = .next s := by
  show execEngineCommandComplete s = _
  unfold execEngineCommandComplete
  dsimp only
  rw [hc]
  dsimp only
  split
  · rfl
  · exact if_pos hm
theorem onCore_eq_nil {s : State} {u : Nat} (h : ∀ x ∈ s.mcmds, x.2.core ≠ u) : s.onCore u = [] :=
  List.filter_eq_nil_iff.2 fun x hx => by simpa using h x hx
theorem onCore_ne_nil {s : State} {u id : Nat} {c : MCmd} (h : s.mcmds.find? id = some c) (hc : c.core = u) : s.onCore u ≠ [] :=
  List.ne_nil_of_mem (List.mem_filter.2 ⟨SMap.mem_of_find? h, by simpa using hc⟩)

/-- What the whole reset leaves of the state in which every context has its event. -/
def State.resetOver (s : State) (u : Nat) : State :=
  (((s.tiled u).map Prod.fst).foldl (fun s t => s.tryTeamEnd t) (s.resetDone u)).checkEndings
theorem resetOver_frame (s : State) (u : Nat) : LeavesFrame (s.resetDone u) (s.resetOver u) :=
  (tryTeamEnds_frame _ _).trans (checkEndings_frame _).leaves
theorem resetOver_grp (s : State) (u j : Nat) : (s.resetOver u).grp j = (s.groupsReset u).grp j := by
  have done := resetDone_frame s u
  have over_ := resetOver_frame s u
  unfold EventFrame at done
  unfold LeavesFrame at over_
  rw [over_, done]
  rfl
/-- A team with a group keeps its place. -/
theorem resetOver_team {s : State} {u j : Nat} {g : Group} {tm : Team} (hg : (s.groupsReset u).grp j = some g)
    (ht : (s.engineStopped u).team g.tid = some tm) : (s.resetOver u).team g.tid = some tm := by
  have done := resetDone_frame s u
  have ends := checkEndings_frame (((s.tiled u).map Prod.fst).foldl (fun s t => s.tryTeamEnd t) (s.resetDone u))
  unfold EventFrame at done
  have grp : (s.resetDone u).grp j = some g := by rw [done]; exact hg
  have team : (s.resetDone u).team g.tid = some tm := by rw [done]; exact ht
  have kept := tryTeamEnds_team ((s.tiled u).map Prod.fst) grp team
  unfold State.resetOver
  unfold EndsFrame at ends
  rw [ends]
  exact kept
theorem resetFault_of_oldest {s : State} {u j : Nat} {g : Group} {x : W64 × W32} (h : s.oldestOf u j g = some x) :
    (s.scattered u).resetFault u (j, g) = ⟨fcMatrixReset, 0, 0, x.1, x.2, .reset true⟩ := by
  unfold State.resetFault
  rw [scattered_oldestOf, h]

theorem resetEnd_step {s : State} {dl : Nat} (h : (s.core s.ev.unit).resetEnd = some dl) : exec .matrixEngineResetEnd s =
    .next (if dl ≤ s.now then s.setCore s.ev.unit { s.core s.ev.unit with resetEnd := none } else s) := by
  show execMatrixEngineResetEnd s = _
  unfold execMatrixEngineResetEnd
  rw [h]

/-- Settles O39: a command that may take effect does so and leaves the engine; a reset is taken apart into its steps. -/
theorem matrixSteps : Obligations.MatrixSteps := by
  unfold Obligations.MatrixSteps
  intro s
  refine ⟨fun c hc hm => complete_of_not_may hc hm, fun c tm hc ht hm idle resident => ?_, fun h => reset_of_none (onCore_eq_nil h),
    fun id c hc hu => ?_, fun dl hd => ?_⟩
  · obtain ⟨endings, suspends, -⟩ := idle
    have may : MayEnd s c tm := ⟨hc, ht, hm, endings, suspends, resident⟩
    refine ⟨fun ms ho hn hb clean => mma_ends may ho hn hb clean, fun tile ho => accz_ends may ho,
      fun tile r data ho hn => accwr_ends may ho hn, fun df bl16 rm gl tile a b sc ho => ⟨?_, fun hn => ⟨?_, ?_⟩⟩⟩
    · rintro rfl i j hi hj - - q hq
      exact mem_accqBytes tm.tiles bl16 rm tile a b sc hi hj hq
    · exact accq_ends may ho rfl hn
    · exact fun hg f hf hnf hk => accq_global_ends may ho rfl hg hf hnf hk
  · obtain ⟨gone, resets⟩ := reset_engine s s.ev.unit (s.resetOver s.ev.unit) (resetOver_frame s s.ev.unit)
    refine ⟨s.resetOver s.ev.unit, reset_of_some (onCore_ne_nil hc hu), gone, resets, fun room => ⟨fun j g tm hg only ht hcore ha => ?_,
      fun n q hn idle teams hq hne hl => ?_⟩⟩
    · obtain ⟨g', hg', settled⟩ := reset_group room s.ev.unit hg only ht hcore ha
      obtain ⟨tm', ht', zero⟩ := reset_team room s.ev.unit ht hcore ha
      obtain ⟨isReset, code⟩ := resetFault_isReset (s.scattered s.ev.unit) s.ev.unit (j, g)
      unfold Settled at settled
      have tid : g'.tid = g.tid := by rw [settled]; rfl
      refine ⟨g', tm', (s.scattered s.ev.unit).resetFault s.ev.unit (j, g), (resetOver_grp ..).trans hg', settled, code, isReset,
        fun x hx => resetFault_of_oldest hx, tid ▸ resetOver_team hg' (tid.symm ▸ ht'), zero⟩
    · have quiet : s.resetOver s.ev.unit = s.resetDone s.ev.unit := reset_quiet room s.ev.unit idle teams
      rw [quiet]
      exact reset_event room s.ev.unit hn hq hne hl
  · refine ⟨fun early => ?_, fun late => ⟨s.setCore s.ev.unit { s.core s.ev.unit with resetEnd := none }, ?_, rfl, ?_, fun v hv => ?_⟩⟩
    · rw [resetEnd_step hd, if_neg (Nat.not_le.2 early)]
    · rw [resetEnd_step hd, if_pos late]
    · rw [core_setCore, if_pos rfl]
    · rw [core_setCore, if_neg hv.symm]

end Sys2Proof.Machine
end

section
/-! SUPPORT. A peer's packet at its destination: what it does there, and its answer (R276 to R278, R283). -/

namespace Sys2Proof.Machine

/-- The answer to an access of a packet; none while a page makes it wait. -/
def answerOf {α : Type} (r : State × Except EStop α) (k : α → Reply) : State × Option Reply := match r with
  | (s, .ok x) => (s, some (k x))
  | (s, .error .wait) => (s, none)
  | (s, .error (.fault c d va)) => (s, some (replyFault c d va))
/-- Word `i` of a queue's header (R283). -/
def queueWord (bs : List Byte) (i : Nat) : W64 := BitVec.ofNat 64 (natOf ((bs.drop (8 * i)).take 8))
theorem headerOk_iff (w : W64) : headerOk w = true ↔ 8 ≤ w.toNat ∧ w.toNat ≤ 4096 ∧ w.toNat % 8 = 0 := by
  unfold headerOk
  rw [Bool.and_eq_true, Bool.and_eq_true, decide_eq_true_iff, decide_eq_true_iff, beq_iff_eq, and_assoc]
theorem replyFault_eq (c d va : Nat) : replyFault c d va =
    .fault (if c = 0x06 then 2 else if c = 0x07 then 3 else if c = 0x08 then 4 else 5)
      (if c = 0x06 ∨ c = 0x07 then BitVec.ofNat 6 (d % 64) else 0) (BitVec.ofNat 64 va) := by
  unfold replyFault remoteCause
  by_cases h6 : c = 6
  · simp [h6]
  · by_cases h7 : c = 7
    · simp [h7]
    · by_cases h8 : c = 8 <;> simp [h6, h7, h8]

section
variable {s : State} {die n : Nat} {p : Packet}

theorem serve_of_no_slot (h : s.slotOfJob p.job.toNat = none) : s.serve die p = (s, some (.fault 1 0 (PktKind.addr p.kind))) := by
  unfold State.serve
  rw [h]
theorem serve_of_slot (h : s.slotOfJob p.job.toNat = some n) : s.serve die p = s.serveAt die n p := by
  unfold State.serve
  rw [h]

variable (s die n)
theorem serveAt_bytes {va : W64} {bs : List Byte} (h : p.kind = .write va bs ∨ p.kind = .row va bs) :
    s.serveAt die n p = answerOf (s.rawWrite 2 die n va.toNat bs) (fun _ => .ok) := by
  unfold State.serveAt
  obtain h | h := h <;> rw [h] <;> rfl
theorem serveAt_read {va : W64} {len : Nat} (h : p.kind = .read va len) :
    s.serveAt die n p = answerOf (s.rawRead 2 die n va.toNat len) .data := by
  unfold State.serveAt
  rw [h]
  rfl
theorem serveAt_flag {va : W64} {op : StwsOp} {len : Nat} (h : p.kind = .flag va op len) :
    s.serveAt die n p = answerOf (s.rawUpd 2 die n va.toNat 8 (flagNew op len)) (fun _ => .ok) := by
  unfold State.serveAt
  rw [h]
  rfl
/-- The operation that an atomic packet performs. -/
def atomicOf (op : RAOp) : AtOp := match op with
  | .int o => .int o
  | .cas => .cas
theorem serveAt_atomic {va : W64} {w64 : Bool} {op : RAOp} {v cmp : W64} (h : p.kind = .atomic va w64 op v cmp) :
    s.serveAt die n p = answerOf (s.rawUpd 2 die n va.toNat (if w64 then 8 else 4) (fun old => (atomicOf op).new w64 old v cmp)) .old := by
  unfold State.serveAt
  rw [h]
  cases op <;> rfl

variable {s die n}
section
variable {hd : W64} {k : Nat} (h : p.kind = .append hd k) {s1 : State} {bs : List Byte}
  (hr : s.rawRead 2 die n hd.toNat 32 = (s1, .ok bs))
include h hr
theorem serveAt_append_bad (hb : headerOk (queueWord bs 3) = false) : s.serveAt die n p = (s1, some (.fault 7 0 hd)) := by
  unfold State.serveAt
  rw [h]
  dsimp only
  rw [hr]
  exact if_neg (ne_true_of_eq_false hb)
theorem serveAt_append (hb : headerOk (queueWord bs 3) = true) : s.serveAt die n p =
    answerOf (s1.rawUpd 2 die n hd.toNat 8 (fun x => x + BitVec.ofNat 64 k))
      (fun x => .queue x (queueWord bs 1) (queueWord bs 2) (queueWord bs 3)) := by
  unfold State.serveAt
  rw [h]
  dsimp only
  rw [hr]
  exact if_pos hb
end
end

/-- The packet `p` is answered by `r`, and leaves `s1`. -/
def State.Answers (s : State) (p : Packet) (s1 : State) (r : Reply) : Prop :=
  Leads .fabricPacketArrival s { s1 with replies := s1.replies ++ [(p.src, p.cmd, p.part, r)] }

/-- What its service leaves: the answer is sent, unless a regulator holds the packet back. -/
def State.served (s : State) (p : Packet) (r : State × Option Reply) : State := match r with
  | (t, some r) => s.passed { t with replies := t.replies ++ [(p.src, p.cmd, p.part, r)] }
  | (t, none) => s.waiting t

section
variable {s : State} {p : Packet} (hd : s.ev.data = .packet p) (hu : s.ev.unit < 64) (hp : s.present (.port s.ev.unit) = true)
include hd hu hp

theorem arrival_step : exec .fabricPacketArrival s = .next (s.served p (s.serve (s.ev.unit / 8) p)) := by
  have here : ¬ (64 ≤ s.ev.unit ∨ s.present (.port s.ev.unit) = false) := by
    rw [hp]
    simpa using hu
  show execFabricPacketArrival s = _
  unfold execFabricPacketArrival
  rw [hd]
  dsimp only
  rw [if_neg here]
  obtain ⟨t, r⟩ := s.serve (s.ev.unit / 8) p
  cases r <;> rfl
theorem answers_of_serve {s1 : State} {r : Reply} (h : s.serve (s.ev.unit / 8) p = (s1, some r)) : s.Answers p s1 r := by
  refine leads_of_passed ?_
  rw [arrival_step hd hu hp, h]
  rfl
theorem waits_of_serve {s1 : State} (h : s.serve (s.ev.unit / 8) p = (s1, none)) :
    exec .fabricPacketArrival s = .next (s.waiting s1) := by
  rw [arrival_step hd hu hp, h]
  rfl
end

end Sys2Proof.Machine
end

section
/-! SUPPORT. What records the progress of a remote command, and what ends it (R116, R278, R281, R282). -/

namespace Sys2Proof.Machine

theorem block_eq {c : RemoteCmd} {len : W64} (h : (∃ r l flag, c.op = .put r l len flag) ∨ ∃ r l, c.op = .get r l len) :
    c.block? = some len.toNat := by
  unfold RemoteCmd.block?
  obtain ⟨r, l, flag, e⟩ | ⟨r, l, e⟩ := h <;> rw [e]

-- ## The end of a block transfer

/-- The command has left its die's queue, and the wire. -/
def State.remoteDropped (s : State) (id : Nat) : State :=
  { s with remotes := s.remotes.erase id, wireOut := s.wireOut.filter (fun p => p.cmd != id) }

section
variable {c : RemoteCmd} {len : Nat} (hb : c.block? = some len)
include hb

/-- What a block transfer counts into a phaser. -/
theorem counts_of_block : c.counts = if c.np then none else some c.phaser := by
  unfold RemoteCmd.block? at hb
  unfold RemoteCmd.counts
  split at hb
  · rfl
  · rfl
  · exact nomatch hb
/-- A block transfer ends without an acquire. -/
theorem remoteEnd_of_block (s : State) (id : Nat) : s.remoteEnd id c =
    ((s.remoteDropped id).drainDone (.group c.gid) .remote).afterCmd (some c.tid) c.counts := by
  have same (t : State) : (match t.grp c.gid with
      | some _ => t
      | none => t) = t := by cases t.grp c.gid <;> rfl
  unfold RemoteCmd.block? at hb
  unfold State.remoteEnd
  split at hb
  · rename_i e; rw [e]; exact congrArg (State.afterCmd · (some c.tid) c.counts) (same _)
  · rename_i e; rw [e]; exact congrArg (State.afterCmd · (some c.tid) c.counts) (same _)
  · exact nomatch hb
theorem remoteEnd_gone (s : State) (id : Nat) : (s.remoteEnd id c).remotes.find? id = none := by
  rw [remoteEnd_of_block hb]
  have drained : ((s.remoteDropped id).drainDone (.group c.gid) .remote).remotes = s.remotes.erase id := by
    unfold State.drainDone State.updAny
    dsimp only
    split <;> rfl
  have frame := afterCmd_frame ((s.remoteDropped id).drainDone (.group c.gid) .remote) (some c.tid) c.counts
  unfold LeavesFrame at frame
  rw [frame]
  show SMap.find? (State.remotes _) id = none
  rw [drained, SMap.find?_erase, if_pos rfl]
/-- Where nothing waits for the end, only the command goes, its group counts it, and its phaser may go. -/
theorem remoteEnd_of_idle {s : State} (id : Nat) {g : Group} (hg : s.grp c.gid = some g) (ht : g.tid = c.tid) (he : s.endings = [])
    (hs : s.suspends = []) : ∃ x, s.remoteEnd id c = { (s.remoteDropped id).setGrp c.gid (g.undrained .remote) with phasers := x } := by
  have here : (s.remoteDropped id).grp c.gid = some g := hg
  have drained : (s.remoteDropped id).drainDone (.group c.gid) .remote = (s.remoteDropped id).setGrp c.gid (g.undrained .remote) :=
    (updAny_of_grp here).trans (by rw [drainAdd_neg_one])
  have left : ((s.remoteDropped id).setGrp c.gid (g.undrained .remote)).grp c.gid = some (g.undrained .remote) :=
    SMap.find?_insert_self ..
  rw [remoteEnd_of_block hb, drained, ← ht]
  exact afterCmd_of_idle left he hs c.counts

/-- The fault of a block transfer reaches its group, and the phaser it counts into. -/
theorem remoteRaise_of_room {s : State} {g : Group} (hg : s.grp c.gid = some g) (room : g.pendq.length < 8) (hf : c.faulted = false)
    (code detail : Nat) (va : W64) : s.remoteRaise c code detail va = { s.setGrp c.gid { g with pendq := g.pendq ++ [c.faultAs code detail va] } with
      phMsgs := s.phMsgs ++ if c.np then [] else [faultMsg c.phaser c.ctx (.group c.gid) (c.faultAs code detail va)] } := by
  have push (t : State) (ht : t.grp c.gid = some g) (f : AFault) : t.groupLives c.gid = true ∧
      t.asyncTo c.gid f = t.setGrp c.gid { g with pendq := g.pendq ++ [f] } := by
    unfold State.groupLives State.asyncTo Group.pushFault
    rw [ht]
    dsimp only
    rw [if_neg (Nat.not_le.2 room)]
    exact ⟨rfl, rfl⟩
  unfold State.remoteRaise
  rw [hf, if_neg Bool.false_ne_true, counts_of_block hb]
  unfold State.cmdFault
  cases c.np with
  | true =>
    obtain ⟨lives, told⟩ := push s hg (c.faultAs code detail va)
    rw [if_pos rfl, if_pos rfl, List.append_nil]
    exact (if_pos lives).trans told
  | false =>
    rw [if_neg Bool.false_ne_true, if_neg Bool.false_ne_true]
    obtain ⟨lives, told⟩ := push { s with phMsgs := s.phMsgs ++ [faultMsg c.phaser c.ctx (.group c.gid) (c.faultAs code detail va)] } hg
      (c.faultAs code detail va)
    exact (if_pos lives).trans told
/-- A block transfer ends by a fault, where nothing waits for the end. -/
theorem remoteFault_of_idle {s : State} (id : Nat) {g : Group} (hg : s.grp c.gid = some g) (ht : g.tid = c.tid) (room : g.pendq.length < 8)
    (hf : c.faulted = false) (he : s.endings = []) (hs : s.suspends = []) (code detail : Nat) (va : W64) :
    RemoteFailed s (s.remoteFault id c code detail va) id c g (c.faultAs code detail va) := by
  have raised := remoteRaise_of_room hb hg room hf code detail va
  have here : (s.remoteRaise c code detail va).grp c.gid = some { g with pendq := g.pendq ++ [c.faultAs code detail va] } := by
    rw [raised]; exact SMap.find?_insert_self ..
  have others (j : Nat) (hj : j ≠ c.gid) : (s.remoteRaise c code detail va).grp j = s.grp j := by
    rw [raised]; exact SMap.find?_insert_ne _ hj.symm _
  obtain ⟨x, ended⟩ := remoteEnd_of_idle (g := { g with pendq := g.pendq ++ [c.faultAs code detail va] }) hb id here ht
    (by rw [raised]; exact he) (by rw [raised]; exact hs)
  have frame : s.remoteRaise c code detail va = { s with
      groups := (s.remoteRaise c code detail va).groups, phMsgs := (s.remoteRaise c code detail va).phMsgs } := by rw [raised]; rfl
  have msgs : (s.remoteRaise c code detail va).phMsgs = s.phMsgs ++ if c.np then [] else [faultMsg c.phaser c.ctx (.group c.gid) (c.faultAs code detail va)] := by
    rw [raised]
  unfold State.remoteFault
  generalize s.remoteRaise c code detail va = t at here others ended frame msgs
  have remotes : t.remotes = s.remotes := by rw [frame]
  have wire : t.wireOut = s.wireOut := by rw [frame]
  rw [ended]
  refine ⟨?_, ?_, fun j hj => ?_, ?_, fun j hj => ?_, msgs, fun p => ?_⟩
  · rw [frame]; rfl
  · exact (SMap.find?_erase ..).trans (if_pos rfl)
  · exact (SMap.find?_erase ..).trans ((if_neg hj.symm).trans (by rw [remotes]))
  · exact SMap.find?_insert_self ..
  · exact (SMap.find?_insert_ne _ hj.symm _).trans (others j hj)
  · show p ∈ t.wireOut.filter _ ↔ _
    rw [wire, List.mem_filter, bne_iff_ne]
end

-- ## Its progress

section
variable {c : RemoteCmd}

theorem remotePut_goes (h : c.fail = none) (hl : c.left ≠ 0) (s : State) (id : Nat) :
    s.remotePut id c = { s with remotes := s.remotes.insert id c } := by
  unfold State.remotePut
  rw [h]
  exact if_neg fun e => hl e.1
theorem remotePut_ends (h : c.fail = none) (hl : c.left = 0) (hf : c.flagLeft = false) (s : State) (id : Nat) :
    s.remotePut id c = s.remoteEnd id c := by
  unfold State.remotePut
  rw [h]
  exact if_pos ⟨hl, hf⟩

variable {len pos code d : Nat} {va : W64} (hb : c.block? = some len) (h : c.fail = some (pos, code, d, va)) (s : State) (id : Nat)
include hb h
theorem remotePut_fails (hp : pos ≤ c.firstOpen len 0) : s.remotePut id c = s.remoteFault id c code d va := by
  unfold State.remotePut
  rw [h, hb]
  exact if_pos hp
theorem remotePut_records (hp : c.firstOpen len 0 < pos) : s.remotePut id c = { s with remotes := s.remotes.insert id c } := by
  unfold State.remotePut
  rw [h, hb]
  exact if_neg (Nat.not_le.2 hp)
end

/-- A unit or the flag of a block transfer fails. -/
theorem partFault_of_block {c : RemoteCmd} {len : Nat} (hb : c.block? = some len) (s : State) (id part code detail : Nat) (va : W64) :
    s.partFault id c part code detail va = s.remotePut id (c.fails part code detail va) := by
  unfold RemoteCmd.block? at hb
  unfold State.partFault
  split at hb
  · rename_i e; rw [e]
  · rename_i e; rw [e]
  · exact nomatch hb
/-- What has failed moves no unit. -/
theorem firstOpen_fail (c : RemoteCmd) (f : Option (Nat × Nat × Nat × W64)) (n pos : Nat) :
    ({ c with fail := f } : RemoteCmd).firstOpen n pos = c.firstOpen n pos := by
  induction n generalizing pos with
  | zero => rfl
  | succ n ih =>
    unfold RemoteCmd.firstOpen
    dsimp only
    rw [ih]
    rfl

end Sys2Proof.Machine
end

section
/-! SUPPORT. A unit of a remote command is sent, and what its answer brings (R109, R276, R278, R281, R283, R284). -/

namespace Sys2Proof.Machine

-- ## Sending

/-- What a unit that carries bytes of local memory sends, or where reading them stops. -/
def loaded (r : State × Except EStop (List Byte)) (k : List Byte → PktKind) : State × Option (Except EStop PktKind) := match r with
  | (s, .ok bs) => (s, some (.ok (k bs)))
  | (s, .error x) => (s, some (.error x))

section
variable {s : State} {c : RemoteCmd} {id part : Nat}

theorem remoteNext_put {r l len : W64} {flag : Option (StwsOp × W64)} (ho : c.op = .put r l len flag) (hu : c.units.get 0 part = 0)
    (hf : c.fail = none) (hn : c.unitLen part ≠ 0) : s.remoteNext c part =
    loaded (s.rawRead 2 c.die c.ctx (l.toNat + part) (c.unitLen part)) (.write (r + BitVec.ofNat 64 part)) := by
  have open_ : ¬ (c.units.get 0 part ≠ 0 ∨ (c.block?.isSome ∧ c.fail.any (fun f => decide (f.1 ≤ part)) = true)) := by
    rw [hu, hf]
    simp
  unfold State.remoteNext
  dsimp only
  rw [if_neg open_, ho]
  exact if_pos hn

/-- Nothing holds a unit of the command back. -/
structure UnitGoes (s : State) (c : RemoteCmd) (id : Nat) : Prop where
  trig : c.trig = none
  rod : s.rodBlocked id c = false
  paused : s.paused = false
variable (h : UnitGoes s c id) {t : State}
include h
theorem UnitGoes.free : ¬ (c.trig.isSome || s.rodBlocked id c || (s.paused && !c.sent)) = true := by
  rw [h.trig, h.rod, h.paused]
  exact Bool.false_ne_true
theorem remoteUnit_waits (hn : s.remoteNext c part = (t, some (.error .wait))) : s.remoteUnit id c part = s.waiting t := by
  unfold State.remoteUnit
  rw [if_neg h.free, hn]
theorem remoteUnit_faults {code d va : Nat} (hn : s.remoteNext c part = (t, some (.error (.fault code d va)))) :
    s.remoteUnit id c part = s.passed (t.partFault id c part code d (BitVec.ofNat 64 va)) := by
  unfold State.remoteUnit
  rw [if_neg h.free, hn]
theorem remoteUnit_sends {k : PktKind} (hn : s.remoteNext c part = (t, some (.ok k))) (hp : s.peerStop c.ctx c.dev = none)
    (hd : c.dev ≠ s.devId) : s.remoteUnit id c part = s.passed { t with
      remotes := t.remotes.insert id { c with units := c.units.set 0 part 1, sent := true }
      wireOut := t.wireOut ++ [t.packet c.ctx c.dev id part k] } := by
  unfold State.remoteUnit
  rw [if_neg h.free, hn]
  dsimp only
  rw [hp]
  exact if_neg hd
end
theorem unit_step {s : State} {c : RemoteCmd} (he : s.ecmds.find? s.ev.unit = none) (hc : s.remotes.find? s.ev.unit = some c) :
    exec .deliveryUnitCount s = .next (s.remoteUnit s.ev.unit c s.ev.idx) := by
  show execDeliveryUnitCount s = _
  unfold execDeliveryUnitCount
  dsimp only
  rw [he, hc]

-- ## Answers

/-- A command with one more part done. -/
def RemoteCmd.marked (c : RemoteCmd) (part k : Nat) : RemoteCmd := { c with units := c.units.set 0 part 3, left := c.left - k, sent := true }
section
variable {s : State} {c : RemoteCmd} {id part : Nat}

theorem reply_fault (s : State) (c : RemoteCmd) (id part : Nat) (cause : BitVec 8) (d : BitVec 6) (va : W64) :
    s.remoteReply id c part (.fault cause d va) =
      .ok ((s.answered id part).partFault id c part 0x12 (fabricDetail cause.toNat d.toNat) va) := rfl
theorem reply_put {r l len : W64} (ho : c.op = .put r l len none) (hp : part ≠ len.toNat) : s.remoteReply id c part .ok =
    .ok (((s.answered id part).remoteCount id c (c.unitLen part) part (c.remoteAt part) (s.putWrote c part (c.unitLen part))).remotePut id
      (c.marked part (c.unitLen part))) := by
  obtain ⟨_, _⟩ := c
  obtain rfl := ho
  unfold State.remoteReply
  exact if_neg hp
section
variable {r l len : W64} {bs : List Byte} (ho : c.op = .get r l len) {t : State}
include ho
theorem reply_get (hw : s.rawWrite 2 c.die c.ctx (l.toNat + part) (bs.take (c.unitLen part)) = (t, .ok ())) :
    s.remoteReply id c part (.data bs) = .ok (((t.answered id part).remoteCount id c (c.unitLen part) part (l + BitVec.ofNat 64 part)
      (t.sectorsAt c.die c.ctx (l.toNat + part) (c.unitLen part))).remotePut id (c.marked part (c.unitLen part))) := by
  obtain ⟨_, _⟩ := c
  obtain rfl := ho
  unfold State.remoteReply
  dsimp only at hw ⊢
  rw [hw]
  rfl
theorem reply_get_waits (hw : s.rawWrite 2 c.die c.ctx (l.toNat + part) (bs.take (c.unitLen part)) = (t, .error .wait)) :
    s.remoteReply id c part (.data bs) = .error t := by
  obtain ⟨_, _⟩ := c
  obtain rfl := ho
  unfold State.remoteReply
  dsimp only at hw ⊢
  rw [hw]
theorem reply_get_faults {code d va : Nat}
    (hw : s.rawWrite 2 c.die c.ctx (l.toNat + part) (bs.take (c.unitLen part)) = (t, .error (.fault code d va))) :
    s.remoteReply id c part (.data bs) = .ok ((t.answered id part).partFault id c part code d (BitVec.ofNat 64 va)) := by
  obtain ⟨_, _⟩ := c
  obtain rfl := ho
  unfold State.remoteReply
  dsimp only at hw ⊢
  rw [hw]
end
theorem reply_ratom {op : RAOp} {w64 : Bool} {o : Ord4} {ls : List (Nat × W64 × W64 × W64)} {lane : Nat} {a x y v : W64}
    (ho : c.op = .ratom op w64 o ls) (hl : ls[part]? = some (lane, a, x, y)) : s.remoteReply id c part (.old v) =
    .ok (((s.answered id part).pendAdd c (if w64 then lane64 (s.laneDest c) lane v else [.v (s.laneDest c) lane (v.setWidth 32)])
      (op == .cas && v != y)).remotePut id (c.marked part 1)) := by
  obtain ⟨_, _⟩ := c
  obtain rfl := ho
  unfold State.remoteReply
  dsimp only
  rw [hl]
  rfl
theorem reply_row {hd : W64} {ls : List (Nat × W64)} {k lane : Nat} {va tl base cap rowb : W64} (ho : c.op = .append hd ls)
    (hp : part = k + 1) (hl : ls[k]? = some (lane, va)) (hh : c.head = some (tl, base, cap, rowb)) : s.remoteReply id c part .ok =
    .ok (((s.answered id part).pendAdd c (lane64 (s.laneDest c) lane (tl + BitVec.ofNat 64 k)) false).remotePut id (c.marked part 1)) := by
  subst hp
  obtain ⟨_, _⟩ := c
  obtain rfl := ho
  unfold State.remoteReply
  dsimp only
  dsimp only at hh
  rw [Nat.add_sub_cancel, hl, hh]
  rfl

/-- The rows that a queue has no room for. -/
def lateRows (ls : List (Nat × W64)) (tl cap : W64) : List ((Nat × W64) × Nat) := ls.zipIdx.filter (fun x => decide (cap.toNat ≤ tl.toNat + x.2))
/-- The units of an `APPEND` that has read the queue's header: rows with no room are done. -/
def rowUnits (units : SMap Nat) (late : List ((Nat × W64) × Nat)) : SMap Nat :=
  late.foldl (fun m x => m.set 0 (x.2 + 1) 3) (units.set 0 0 3)
theorem reply_queue {hd : W64} {ls : List (Nat × W64)} (ho : c.op = .append hd ls) (tl base cap rowb : W64) :
    s.remoteReply id c part (.queue tl base cap rowb) = .ok (((s.answered id part).pendAdd c ((lateRows ls tl cap).flatMap (fun x =>
      lane64 (s.laneDest c) x.1.1 (BitVec.ofNat 64 (2 ^ 63 + (tl.toNat + x.2))))) false).remotePut id
        { c with units := rowUnits c.units (lateRows ls tl cap), left := c.left - (lateRows ls tl cap).length
                 head := some (tl, base, cap, rowb), sent := true }) := by
  obtain ⟨_, _⟩ := c
  obtain rfl := ho
  rfl
theorem get_rowUnits_zero (units : SMap Nat) (late : List ((Nat × W64) × Nat)) : (rowUnits units late).get 0 0 = 3 := by
  unfold rowUnits
  rw [SMap.get_foldl_set_ne 0 late (fun x => x.2 + 1) (fun _ => 3) _ 0 (fun _ _ => Nat.succ_ne_zero _)]
  exact SMap.get_set_self ..
theorem get_rowUnits (units : SMap Nat) {ls : List (Nat × W64)} (tl cap : W64) {k : Nat} (hk : k < ls.length) :
    (rowUnits units (lateRows ls tl cap)).get 0 (k + 1) = if cap.toNat ≤ tl.toNat + k then 3 else units.get 0 (k + 1) := by
  unfold rowUnits
  by_cases full : cap.toNat ≤ tl.toNat + k
  · rw [if_pos full]
    refine SMap.get_foldl_set 0 _ (fun x => x.2 + 1) (fun _ => 3) _ _ _ (fun _ _ _ => rfl) (.inr ⟨(ls[k], k), ?_, rfl⟩)
    exact List.mem_filter.2 ⟨List.mk_mem_zipIdx_iff_getElem?.2 (List.getElem?_eq_getElem hk), decide_eq_true full⟩
  · rw [if_neg full, SMap.get_foldl_set_ne 0 (lateRows ls tl cap) (fun x => x.2 + 1) (fun _ => 3)]
    · exact SMap.get_set_ne _ _ (Nat.succ_ne_zero k).symm _
    · intro x hx e
      have late := of_decide_eq_true (List.mem_filter.1 hx).2
      have row : x.2 = k := Nat.succ_injective e
      exact full (row ▸ late)
end

/-- What is left once the answer to a packet has been taken, unless it waits. -/
def State.replied (s : State) (r : Except State State) : State := match r with
  | .ok t => s.passed t
  | .error t => s.waiting t
/-- An answer `r` reaches the command `c` that it is for. -/
structure Answered (s : State) (c : RemoteCmd) (r : Reply) : Prop where
  data : s.ev.data = .reply r
  fx : s.fxWires = []
  wire : ∃ p ∈ s.wireOut, p.cmd = s.ev.unit ∧ p.part = s.ev.idx
  copy : s.ecmds.find? s.ev.unit = none
  cmd : s.remotes.find? s.ev.unit = some c
theorem ack_step {s : State} {c : RemoteCmd} {r : Reply} (h : Answered s c r) :
    exec .remoteAcknowledge s = .next (s.replied (s.remoteReply s.ev.unit c s.ev.idx r)) := by
  obtain ⟨p, hp, cmd, part⟩ := h.wire
  have sent : s.wireOut.any (fun p => p.cmd == s.ev.unit && p.part == s.ev.idx) = true :=
    List.any_eq_true.2 ⟨p, hp, by simp [cmd, part]⟩
  show execRemoteAcknowledge s = _
  unfold execRemoteAcknowledge
  rw [h.data]
  dsimp only
  rw [h.fx, List.any_nil, if_neg Bool.false_ne_true, sent, Bool.not_true, if_neg Bool.false_ne_true, h.copy, h.cmd]
  dsimp only
  cases s.remoteReply s.ev.unit c s.ev.idx r <;> rfl
/-- A part that has been answered is off the wire, and nothing else is. -/
theorem mem_answered (s : State) (id part : Nat) (p : Packet) :
    p ∈ (s.answered id part).wireOut ↔ p ∈ s.wireOut ∧ ¬ (p.cmd = id ∧ p.part = part) := by
  show p ∈ s.wireOut.filter _ ↔ _
  rw [List.mem_filter, Bool.not_eq_true', Bool.and_eq_false_imp]
  simp

end Sys2Proof.Machine
end

section
/-! SUPPORT. What is on the wire of a command whose transport has failed (R278). -/

namespace Sys2Proof.Machine

-- ## The earliest part

/-- The earlier of a part and one that failed before. -/
def soonest (m : Option Nat) (part : Nat) : Nat := m.elim part (fun q => min q part)
/-- The earliest of several parts, and of one that failed before. -/
def earliest (m : Option Nat) (parts : List Nat) : Option Nat := parts.foldl (fun m part => some (soonest m part)) m
theorem soonest_of_le {m : Option Nat} {part pos : Nat} (hm : ∀ q ∈ m, pos ≤ q) (hp : pos ≤ part) : pos ≤ soonest m part := by
  cases m with
  | none => exact hp
  | some q => exact le_min (hm q rfl) hp
theorem earliest_eq {parts : List Nat} {m : Option Nat} {pos : Nat} (h : pos ∈ parts ∨ m = some pos) (hm : ∀ q ∈ m, pos ≤ q)
    (hp : ∀ part ∈ parts, pos ≤ part) : earliest m parts = some pos := by
  induction parts generalizing m with
  | nil => exact h.resolve_left List.not_mem_nil
  | cons part parts ih =>
    obtain ⟨here, rest⟩ := List.forall_mem_cons.1 hp
    have le := soonest_of_le hm here
    refine ih ?_ (fun q hq => Option.some_inj.1 hq ▸ le) rest
    rw [List.mem_cons, or_assoc] at h
    obtain rfl | h | rfl := h
    · refine .inr (congrArg some (le_antisymm ?_ le))
      cases m with
      | none => exact Nat.le_refl _
      | some q => exact min_le_right _ _
    · exact .inl h
    · exact .inr (congrArg some (min_eq_left here))

/-- The least of a list is the first place that a command names. -/
theorem foldl_min_eq {n pos : Nat} {ns : List Nat} (h : pos ∈ n :: ns) (hp : ∀ part ∈ n :: ns, pos ≤ part) : ns.foldl min n = pos := by
  have least : (n :: ns).min? = some pos := List.min?_eq_some_iff.2 ⟨h, hp⟩
  exact Option.some_inj.1 (List.min?_cons'.symm.trans least)

-- ## A remote command

/-- A command of whose parts the transport has lost some, the earliest at `m`. -/
def RemoteCmd.lost (c : RemoteCmd) (m : Option Nat) : RemoteCmd := { c with fail := m.map (fun q => (q, 0x12, 6, c.remoteAt q)) }
theorem lost_none {c : RemoteCmd} (h : c.fail = none) : c.lost none = c := by
  unfold RemoteCmd.lost
  rw [Option.map_none, ← h]
theorem lost_fails (c : RemoteCmd) (m : Option Nat) (part : Nat) :
    (c.lost m).fails part 0x12 6 ((c.lost m).remoteAt part) = c.lost (some (soonest m part)) := by
  cases m with
  | none => rfl
  | some q =>
    have at_ (k : Nat) : (c.lost (some q)).remoteAt k = c.remoteAt k := rfl
    unfold RemoteCmd.fails soonest
    dsimp only [RemoteCmd.lost, Option.map_some, Option.elim_some]
    by_cases h : q < part
    · rw [if_pos h, min_eq_left (Nat.le_of_lt h)]
    · rw [if_neg h, min_eq_right (Nat.not_lt.1 h)]; rfl
theorem lost_firstOpen (c : RemoteCmd) (m : Option Nat) (n : Nat) : (c.lost m).firstOpen n 0 = c.firstOpen n 0 := firstOpen_fail ..

/-- The parts of a command that are on the wire. -/
def State.wireParts (s : State) (id : Nat) : List Nat := (s.wireOut.filter (fun w => w.cmd == id)).map (fun w => w.part)
theorem mem_wireParts {s : State} {id part : Nat} : part ∈ s.wireParts id ↔ ∃ p ∈ s.wireOut, p.cmd = id ∧ p.part = part := by
  unfold State.wireParts
  simp [and_assoc]
/-- The transport loses a part. -/
def State.losePart (s : State) (id part : Nat) : State := match s.remotes.find? id with
  | some c => s.partFault id c part 0x12 6 (c.remoteAt part)
  | none => s
theorem remoteLost_eq (s : State) (id : Nat) : s.remoteLost id =
    (s.wireParts id).foldl (fun s part => s.losePart id part)
      { s with wireOut := s.wireOut.filter (fun w => w.cmd != id) } := rfl
theorem losePart_of_gone {s : State} {id : Nat} (h : s.remotes.find? id = none) (parts : List Nat) :
    parts.foldl (fun s part => s.losePart id part) s = s := by
  induction parts with
  | nil => rfl
  | cons part parts ih =>
    have same : s.losePart id part = s := by unfold State.losePart; rw [h]
    rw [List.foldl_cons, same, ih]

section
variable {c : RemoteCmd} {len : Nat} (hb : c.block? = some len) {id : Nat}
include hb

theorem losePart_eq {s : State} {m : Option Nat} (hc : s.remotes.find? id = some (c.lost m)) (part : Nat) :
    s.losePart id part = s.remotePut id (c.lost (some (soonest m part))) := by
  unfold State.losePart
  rw [hc]
  dsimp only
  rw [partFault_of_block (c := c.lost m) hb, lost_fails]
theorem losePart_records {s : State} {m : Option Nat} (hc : s.remotes.find? id = some (c.lost m)) {part : Nat}
    (h : c.firstOpen len 0 < soonest m part) :
    s.losePart id part = { s with remotes := s.remotes.insert id (c.lost (some (soonest m part))) } := by
  rw [losePart_eq hb hc]
  exact remotePut_records (c := c.lost (some (soonest m part))) hb rfl s id (by rw [lost_firstOpen]; exact h)
theorem losePart_fails {s : State} {m : Option Nat} (hc : s.remotes.find? id = some (c.lost m)) {part : Nat}
    (h : soonest m part ≤ c.firstOpen len 0) : s.losePart id part =
      s.remoteFault id (c.lost (some (soonest m part))) 0x12 6 (c.remoteAt (soonest m part)) := by
  rw [losePart_eq hb hc]
  exact remotePut_fails (c := c.lost (some (soonest m part))) hb rfl s id (by rw [lost_firstOpen]; exact h)
/-- Bytes before the lost ones are open: the loss is recorded. -/
theorem loseParts_record {parts : List Nat} {s : State} {m : Option Nat} (hc : s.remotes.find? id = some (c.lost m))
    (hm : ∀ q ∈ m, c.firstOpen len 0 < q) (hp : ∀ part ∈ parts, c.firstOpen len 0 < part) :
    ∃ x, parts.foldl (fun s part => s.losePart id part) s = { s with remotes := x } ∧ SMap.find? x id = some (c.lost (earliest m parts)) := by
  induction parts generalizing s m with
  | nil => exact ⟨s.remotes, rfl, hc⟩
  | cons part parts ih =>
    obtain ⟨here, rest⟩ := List.forall_mem_cons.1 hp
    have late : c.firstOpen len 0 < soonest m part := soonest_of_le (pos := c.firstOpen len 0 + 1) hm here
    rw [List.foldl_cons, losePart_records hb hc late]
    exact ih (SMap.find?_insert_self ..) (fun q hq => Option.some_inj.1 hq ▸ late) rest
/-- The first lost byte follows bytes that are done: the command ends by its loss. -/
theorem loseParts_fail {parts : List Nat} {s : State} {m : Option Nat} (hc : s.remotes.find? id = some (c.lost m))
    (hm : ∀ q ∈ m, c.firstOpen len 0 < q) (hp : ∀ part ∈ parts, c.firstOpen len 0 ≤ part) (hf : c.firstOpen len 0 ∈ parts) :
    ∃ x, (∀ j, j ≠ id → SMap.find? x j = s.remotes.find? j) ∧ parts.foldl (fun s part => s.losePart id part) s =
      ({ s with remotes := x } : State).remoteFault id (c.lost (some (c.firstOpen len 0))) 0x12 6 (c.remoteAt (c.firstOpen len 0)) := by
  induction parts generalizing s m with
  | nil => exact absurd hf List.not_mem_nil
  | cons part parts ih =>
    obtain ⟨here, rest⟩ := List.forall_mem_cons.1 hp
    rw [List.foldl_cons]
    obtain e | late := Nat.eq_or_lt_of_le here
    · have first : soonest m part = c.firstOpen len 0 := by
        cases m with
        | none => exact e.symm
        | some q => exact (min_eq_right (e ▸ Nat.le_of_lt (hm q rfl))).trans e.symm
      have failed := losePart_fails hb hc (Nat.le_of_eq first)
      rw [first] at failed
      refine ⟨s.remotes, fun _ _ => rfl, ?_⟩
      rw [failed]
      exact losePart_of_gone (remoteEnd_gone (c := c.lost (some (c.firstOpen len 0))) hb _ id) parts
    · have later : c.firstOpen len 0 < soonest m part := soonest_of_le (pos := c.firstOpen len 0 + 1) hm late
      rw [losePart_records hb hc later]
      obtain ⟨x, same, ended⟩ := ih (s := { s with remotes := s.remotes.insert id (c.lost (some (soonest m part))) })
        (SMap.find?_insert_self ..) (fun q hq => Option.some_inj.1 hq ▸ later) rest
        ((List.mem_cons.1 hf).resolve_left (Nat.ne_of_lt late))
      exact ⟨x, fun j hj => (same j hj).trans (SMap.find?_insert_ne _ hj.symm _), ended⟩
end

/-- A command that has failed, seen from before it left the wire and its failure was recorded. -/
theorem RemoteFailed.of_recorded {s s1 t : State} {id : Nat} {c : RemoteCmd} {x : Option (Nat × Nat × Nat × W64)} {g : Group} {f : AFault}
    (h : RemoteFailed s1 t id { c with fail := x } g f) (frame : s1 = { s with remotes := s1.remotes, wireOut := s1.wireOut })
    (hr : ∀ j, j ≠ id → s1.remotes.find? j = s.remotes.find? j)
    (hw : ∀ p : Packet, p.cmd ≠ id → (p ∈ s1.wireOut ↔ p ∈ s.wireOut)) : RemoteFailed s t id c g f where
  state := h.state.trans (by rw [frame])
  gone := h.gone
  kept j hj := (h.kept j hj).trans (hr j hj)
  group := h.group
  others j hj := (h.others j hj).trans (by rw [frame]; rfl)
  phaser := h.phaser.trans (by rw [frame])
  wire p := (h.wire p).trans (and_congr_left (hw p))

section
variable {s : State} {id pos : Nat} {c : RemoteCmd} {len : Nat} (hc : s.remotes.find? id = some c) (hb : c.block? = some len)
  (hn : c.fail = none) (hp : ∃ p ∈ s.wireOut, p.cmd = id ∧ p.part = pos)
include hc hb hn hp
/-- A byte before the lost ones is open: the command stays, and its earliest loss is recorded. -/
theorem remoteLost_records (first : ∀ p ∈ s.wireOut, p.cmd = id → pos ≤ p.part) (late : c.firstOpen len 0 < pos) :
    ∃ x, s.remoteLost id = { s with wireOut := s.wireOut.filter (fun w => w.cmd != id), remotes := x }
      ∧ SMap.find? x id = some { c with fail := some (pos, 0x12, 6, c.remoteAt pos) } := by
  have parts (part : Nat) (h : part ∈ s.wireParts id) : pos ≤ part := by
    obtain ⟨p, hp, cmd, rfl⟩ := mem_wireParts.1 h
    exact first p hp cmd
  obtain ⟨x, e, found⟩ := loseParts_record (s := { s with wireOut := s.wireOut.filter (fun w => w.cmd != id) }) (m := none) hb
    (hc.trans (congrArg some (lost_none hn).symm)) (fun _ h => nomatch h) (fun part h => Nat.lt_of_lt_of_le late (parts part h))
  rw [earliest_eq (m := none) (.inl (mem_wireParts.2 hp)) (fun _ h => nomatch h) parts] at found
  exact ⟨x, (remoteLost_eq s id).trans e, found⟩
/-- Every byte before the first lost one is done: the command ends by its loss. -/
theorem remoteLost_fails (first : ∀ p ∈ s.wireOut, p.cmd = id → c.firstOpen len 0 ≤ p.part) (done : pos ≤ c.firstOpen len 0) {g : Group}
    (hg : s.grp c.gid = some g) (ht : g.tid = c.tid) (room : g.pendq.length < 8) (hf : c.faulted = false) (he : s.endings = [])
    (hs : s.suspends = []) : RemoteFailed s (s.remoteLost id) id c g (c.faultAs 0x12 6 (c.remoteAt pos)) := by
  have parts (part : Nat) (h : part ∈ s.wireParts id) : c.firstOpen len 0 ≤ part := by
    obtain ⟨p, hp, cmd, rfl⟩ := mem_wireParts.1 h
    exact first p hp cmd
  obtain ⟨p, hp, cmd, rfl⟩ := hp
  have here : p.part = c.firstOpen len 0 := le_antisymm done (first p hp cmd)
  have listed : c.firstOpen len 0 ∈ s.wireParts id := mem_wireParts.2 ⟨p, hp, cmd, here⟩
  obtain ⟨x, same, e⟩ := loseParts_fail (s := { s with wireOut := s.wireOut.filter (fun w => w.cmd != id) }) (m := none) hb
    (hc.trans (congrArg some (lost_none hn).symm)) (fun _ h => nomatch h) parts listed
  rw [here, remoteLost_eq, e]
  have failed := remoteFault_of_idle (s := { s with wireOut := s.wireOut.filter (fun w => w.cmd != id), remotes := x })
    (c := c.lost (some (c.firstOpen len 0))) hb id hg ht room hf he hs 0x12 6 (c.remoteAt (c.firstOpen len 0))
  exact failed.of_recorded rfl same fun p hp => by simp [hp]
end

-- ## A copy-engine command

theorem wirePos_eq {s : State} {id pos : Nat} (hp : ∃ p ∈ s.wireOut, p.cmd = id ∧ p.part = pos)
    (first : ∀ p ∈ s.wireOut, p.cmd = id → pos ≤ p.part) : s.wirePos id = pos := by
  have here := mem_wireParts.2 hp
  have parts (part : Nat) (h : part ∈ s.wireParts id) : pos ≤ part := by
    obtain ⟨p, hp, cmd, rfl⟩ := mem_wireParts.1 h
    exact first p hp cmd
  show (match s.wireParts id with
    | [] => 0
    | n :: ns => ns.foldl min n) = pos
  cases e : s.wireParts id with
  | nil => rw [e] at here; exact absurd here List.not_mem_nil
  | cons n ns => rw [e] at here parts; exact foldl_min_eq here parts
/-- Every byte before the failing one has been counted: the command ends. -/
theorem copyFail_ends {s : State} {id pos code d va : Nat} {c : CopyCmd} (hn : c.fail = none) (done : pos ≤ c.firstBelow 3 c.op.bytes 0) :
    s.copyFail id c pos code d va = ({ s with ecmds := s.ecmds.insert id { c with fail := some (pos, code, d, va) } } : State).copyFault id
      { c with fail := some (pos, code, d, va) } code d va := by
  have moved (n at_ : Nat) : ({ c with fail := some (pos, code, d, va) } : CopyCmd).firstBelow 3 n at_ = c.firstBelow 3 n at_ := by
    induction n generalizing at_ with
    | zero => rfl
    | succ n ih => unfold CopyCmd.firstBelow; dsimp only; rw [ih]; rfl
  unfold State.copyFail State.copyCheck
  dsimp only
  rw [hn, SMap.find?_insert_self]
  dsimp only
  rw [moved]
  exact if_pos done

end Sys2Proof.Machine
end

section
/-! SUPPORT. The job and table registers, and what an answer leaves of its command (R277, R281, R283, R284, R299). -/

namespace Sys2Proof.Machine

-- ## Registers

/-- The registers before the reeve's take any value. -/
theorem regRange_of_lt {a : Nat} (h : a < 0xFF0000700000) (v : W64) : regRange a v = true := by
  have hq : rvQtabAddr = 0xFF0000720000 := rfl
  have ht : trialAddr 0 = 0xFF0000743000 := rfl
  have hp : bootAddr 0x100 = 0xFF0000780100 := rfl
  have hf : bootAddr 0x200 = 0xFF0000780200 := rfl
  simp only [regRange, Bool.and_eq_true, decide_eq_true_eq, beq_iff_eq]
  iterate 8 rw [if_neg (by omega)]
theorem regSpec_fxGltabAddr {n : Nat} (hn : n < 64) : regSpec (fxGltabAddr n) = some ⟨0, bitsM 55 0, 0⟩ := by
  have e : fxGltabAddr n = 0xFF0000608000 + 8 * n := rfl
  unfold regSpec
  iterate 15 rw [if_neg (by omega)]
  rw [if_pos (by omega), if_pos (by omega)]
/-- A write of a register with no side effect changes that register alone. -/
theorem regPut_frame (s : State) (a : Nat) (v : W64) : s.regPut a v = { s with mmio := (s.regPut a v).mmio } := by
  unfold State.regPut
  split
  · rfl
  · split <;> rfl
section
variable {n : Nat} (hn : n < 64) (s : State) (v : W64) {hi lo : Nat}
include hn

theorem fld_regPut_ueJob (hhi : hi < 64) (h : ∀ j, lo ≤ j → j ≤ hi → j ≤ 23 ∨ j = 32) :
    fld ((s.regPut (ueJobAddr n) v).reg (ueJobAddr n)) hi lo = fld v hi lo := by
  have e : ueJobAddr n = 0xFF0000500100 + 8 * n := rfl
  rw [regPut_of_some (regSpec_ueJobAddr hn) (regRange_of_lt (by omega) v), reg_setReg_self]
  refine fld_written hhi (fun j h1 h2 => ⟨?_, BitVec.getLsbD_zero⟩) _ v
  show (bitsM 32 32 ||| bitsM 23 0).getLsbD j = true
  rw [BitVec.getLsbD_or]
  obtain low | rfl := h j h1 h2
  · rw [bitsM_covers (hi := 23) (lo := 0) (by omega) (by omega) low, Bool.or_true]
  · rw [bitsM_covers (hi := 32) (lo := 32) (by omega) (by omega) (by omega), Bool.true_or]
theorem regPut_fxGltab : s.regPut (fxGltabAddr n) v = s.setReg (fxGltabAddr n) ((⟨0, bitsM 55 0, 0⟩ : RegSpec).written (s.reg (fxGltabAddr n)) v) := by
  have e : fxGltabAddr n = 0xFF0000608000 + 8 * n := rfl
  exact regPut_of_some (regSpec_fxGltabAddr hn) (regRange_of_lt (by omega) v)
theorem fld_regPut_fxGltab (hhi : hi ≤ 55) : fld ((s.regPut (fxGltabAddr n) v).reg (fxGltabAddr n)) hi lo = fld v hi lo := by
  rw [regPut_fxGltab hn, reg_setReg_self]
  exact fld_written (by omega) (fun j _ h2 => ⟨bitsM_covers (by omega) (by omega) (by omega), BitVec.getLsbD_zero⟩) _ v
theorem reg_regPut_fxGltab_ne {a : Nat} (h : a ≠ fxGltabAddr n) : (s.regPut (fxGltabAddr n) v).reg a = s.reg a := by
  rw [regPut_fxGltab hn, reg_setReg_ne _ _ h]
end
/-- Another enabled slot holds the job that a write would enable. -/
def State.JobTaken (s : State) (n : Nat) (v : W64) : Prop := ∃ m, m < 64 ∧ m ≠ n ∧ fld v 32 32 = 1 ∧ s.jobEn m = true ∧ s.job m = fld v 23 0
theorem jobTaken_iff (s : State) (n : Nat) (v : W64) : s.JobTaken n v ↔
    fld v 32 32 = 1 ∧ (List.range 64).any (fun m => m != n && s.jobEn m && s.job m == fld v 23 0) = true := by
  unfold State.JobTaken
  simp only [List.any_eq_true, List.mem_range, Bool.and_eq_true, bne_iff_ne, beq_iff_eq]
  constructor
  · rintro ⟨m, hm, hne, on, en, job⟩
    exact ⟨on, m, hm, ⟨hne, en⟩, job⟩
  · rintro ⟨on, m, hm, ⟨hne, en⟩, job⟩
    exact ⟨m, hm, hne, on, en, job⟩
theorem jobWrite_of_taken {s : State} {n : Nat} {v : W64} (h : s.JobTaken n v) : s.jobWrite n v = s := if_pos ((jobTaken_iff s n v).1 h)
theorem jobWrite_of_free {s : State} {n : Nat} {v : W64} (h : ¬ s.JobTaken n v) : s.jobWrite n v = s.regPut (ueJobAddr n) v :=
  if_neg fun e => h ((jobTaken_iff s n v).2 e)
theorem jobWrite_frame (s : State) (n : Nat) (v : W64) : s.jobWrite n v = { s with mmio := (s.jobWrite n v).mmio } := by
  by_cases h : s.JobTaken n v
  · rw [jobWrite_of_taken h]
  · rw [jobWrite_of_free h]
    exact regPut_frame ..

-- ## Answers

theorem passed_of_no_traffic {s t : State} (h : t.traffic = s.traffic) : s.passed t = t := by
  unfold State.passed
  rw [pass_of_no_traffic h]
theorem ack_of_reply {s t : State} {c : RemoteCmd} {r : Reply} (h : Answered s c r) (hr : s.remoteReply s.ev.unit c s.ev.idx r = .ok t) :
    exec .remoteAcknowledge s = .next (s.passed t) := by
  rw [ack_step h, hr]
  rfl
theorem remoteCount_eq (s : State) (id : Nat) (c : RemoteCmd) (n pos : Nat) (va : W64) (w : Wrote) :
    s.remoteCount id c n pos va w = { s with
      phMsgs := s.phMsgs ++ if c.np then [] else [countMsg c.phaser c.ctx n .remote id (.group c.gid) pos va c.site c.seq w] } := by
  unfold State.remoteCount
  cases c.np
  · rfl
  · rw [if_pos rfl, if_pos rfl, List.append_nil]
/-- A unit counts, and its command goes on. -/
theorem unit_counts {c : RemoteCmd} {k : Nat} (hf : c.fail = none) (hl : k < c.left) (s : State) (id part n pos : Nat) (va : W64) (w : Wrote) :
    ((s.answered id part).remoteCount id c n pos va w).remotePut id (c.marked part k) = { s.answered id part with
      remotes := s.remotes.insert id (c.marked part k)
      phMsgs := s.phMsgs ++ if c.np then [] else [countMsg c.phaser c.ctx n .remote id (.group c.gid) pos va c.site c.seq w] } := by
  have left : (c.marked part k).left ≠ 0 := by
    show c.left - k ≠ 0
    omega
  rw [remotePut_goes (c := c.marked part k) hf left, remoteCount_eq]
  rfl

/-- An answer brings a group's lanes register bytes, and its command goes on as `c'` (R283, R284). -/
def Brings (s : State) (c : RemoteCmd) (g : Group) (ws : List RegWrite) (dem : Bool) (c' : RemoteCmd) : Prop :=
  ∃ t, exec .remoteAcknowledge s = .next t
    ∧ t = { s with wireOut := t.wireOut, remotes := t.remotes, groups := t.groups }
    ∧ t.grp c.gid = some { g with pend := g.pend.map (fun q =>
        if c.pend = some q.id then { q with writes := q.writes ++ ws, demote := q.demote || dem } else q) }
    ∧ (∀ j, j ≠ c.gid → t.grp j = s.grp j) ∧ t.remotes.find? s.ev.unit = some c'
    ∧ ∀ w, w ∈ t.wireOut ↔ w ∈ s.wireOut ∧ ¬ (w.cmd = s.ev.unit ∧ w.part = s.ev.idx)
theorem brings_of_reply {s : State} {c c' : RemoteCmd} {r : Reply} {g : Group} {ws : List RegWrite} {dem : Bool} (h : Answered s c r)
    (hg : s.grp c.gid = some g) (hf : c'.fail = none) (hl : c'.left ≠ 0)
    (hr : s.remoteReply s.ev.unit c s.ev.idx r = .ok (((s.answered s.ev.unit s.ev.idx).pendAdd c ws dem).remotePut s.ev.unit c')) :
    Brings s c g ws dem c' := by
  rw [remotePut_goes hf hl] at hr
  have pends : (updWhere g.pend (fun p => c.pend == some p.id) (fun p => { p with writes := p.writes ++ ws, demote := p.demote || dem }))
      = g.pend.map (fun q => if c.pend = some q.id then { q with writes := q.writes ++ ws, demote := q.demote || dem } else q) :=
    List.map_congr_left fun q _ => by simp only [beq_iff_eq]
  refine ⟨_, (ack_of_reply h hr).trans (congrArg _ (passed_of_no_traffic rfl)), rfl, ?_, fun j hj => ?_, SMap.find?_insert_self ..,
    mem_answered s _ _⟩
  · rw [← pends]
    exact grp_updGrp_self (s := s.answered s.ev.unit s.ev.idx) hg _
  · exact grp_updGrp_ne (s.answered s.ev.unit s.ev.idx) hj _
theorem laneDest_eq {s : State} {c : RemoteCmd} {g : Group} {p : Pend} {d : RName} (hg : s.grp c.gid = some g)
    (hp : g.pend.find? (fun q => c.pend == some q.id) = some p) (hd : p.dests.head? = some d) : s.laneDest c = d.n := by
  unfold State.laneDest
  rw [hg]
  dsimp only
  rw [hp, Option.bind_some, hd]

end Sys2Proof.Machine
end

section
/-! What the fabric's packets, remote units, answers, triggers and transport failures do (R276 to R284). -/

namespace Sys2Proof.Machine

-- ## A unit of a `PUTR` or `PUTS`

theorem packet_of_xlate {s t : State} (h : XlateFrame s t) (slot dev cmd part : Nat) (k : PktKind) :
    t.packet slot dev cmd part k = s.packet slot dev cmd part k := by
  unfold XlateFrame at h
  rw [h]
  rfl
section
variable {s : State} {c : RemoteCmd} {r l len : W64} {flag : Option (StwsOp × W64)} (he : s.ecmds.find? s.ev.unit = none)
  (hc : s.remotes.find? s.ev.unit = some c) (ho : c.op = .put r l len flag) (goes : UnitGoes s c s.ev.unit)
  (hu : c.units.get 0 s.ev.idx = 0) (hf : c.fail = none) (hn : c.unitLen s.ev.idx ≠ 0) {s1 : State}
include he hc ho goes hu hf hn

theorem putUnit_sends (hp : s.peerStop c.ctx c.dev = none) (hd : c.dev ≠ s.devId) {bs : List Byte}
    (hr : s.rawRead 2 c.die c.ctx (l.toNat + s.ev.idx) (c.unitLen s.ev.idx) = (s1, .ok bs)) : ∃ t, Leads .deliveryUnitCount s t
      ∧ t = { s1 with
        remotes := t.remotes
        wireOut := s1.wireOut ++ [s.packet c.ctx c.dev s.ev.unit s.ev.idx (.write (r + BitVec.ofNat 64 s.ev.idx) bs)] }
      ∧ t.remotes.find? s.ev.unit = some { c with units := c.units.set 0 s.ev.idx 1, sent := true }
      ∧ ∀ j, j ≠ s.ev.unit → t.remotes.find? j = s.remotes.find? j := by
  have frame : XlateFrame s s1 := by
    have h := rawRead_frame s 2 c.die c.ctx (l.toNat + s.ev.idx) (c.unitLen s.ev.idx)
    rwa [hr] at h
  have remotes : s1.remotes = s.remotes := by
    have h := frame
    unfold XlateFrame at h
    rw [h]
  have next := remoteNext_put (s := s) ho hu hf hn
  rw [hr] at next
  have sends := (unit_step he hc).trans (congrArg _ (remoteUnit_sends goes next hp hd))
  rw [packet_of_xlate frame] at sends
  refine ⟨_, leads_of_passed sends, rfl, SMap.find?_insert_self .., fun j hj => ?_⟩
  rw [← remotes]
  exact SMap.find?_insert_ne _ hj.symm _
theorem putUnit_waits (hr : s.rawRead 2 c.die c.ctx (l.toNat + s.ev.idx) (c.unitLen s.ev.idx) = (s1, .error .wait)) :
    exec .deliveryUnitCount s = .next (s.waiting s1) := by
  have next := remoteNext_put (s := s) ho hu hf hn
  rw [hr] at next
  exact (unit_step he hc).trans (congrArg _ (remoteUnit_waits goes next))
theorem putUnit_faults {code d va : Nat}
    (hr : s.rawRead 2 c.die c.ctx (l.toNat + s.ev.idx) (c.unitLen s.ev.idx) = (s1, .error (.fault code d va))) :
    exec .deliveryUnitCount s = .next (s.passed (s1.partFault s.ev.unit c s.ev.idx code d (BitVec.ofNat 64 va))) := by
  have next := remoteNext_put (s := s) ho hu hf hn
  rw [hr] at next
  exact (unit_step he hc).trans (congrArg _ (remoteUnit_faults goes next))
end

-- ## The answer to a unit of a `PUTR`

/-- A command whose first failure is recorded. -/
def RemoteCmd.failing (c : RemoteCmd) (x : Nat × Nat × Nat × W64) : RemoteCmd := { c with fail := some x }
theorem fails_eq {c : RemoteCmd} (h : c.fail = none) (part code detail : Nat) (va : W64) :
    c.fails part code detail va = c.failing (part, code, detail, va) := by
  unfold RemoteCmd.fails
  rw [h]
  rfl

section
variable {s : State} {c : RemoteCmd} {r l len : W64} {rep : Reply} (h : Answered s c rep) (ho : c.op = .put r l len none)
include h ho

theorem put_counts (hr : rep = .ok) (hp : s.ev.idx ≠ len.toNat) (hf : c.fail = none) (hd : c.dev ≠ s.devId)
    (hl : c.unitLen s.ev.idx < c.left) : ∃ t, exec .remoteAcknowledge s = .next t
      ∧ t = { s with wireOut := t.wireOut, remotes := t.remotes, phMsgs := t.phMsgs }
      ∧ t.remotes.find? s.ev.unit = some (c.marked s.ev.idx (c.unitLen s.ev.idx))
      ∧ t.phMsgs = s.phMsgs ++ (if c.np then [] else [countMsg c.phaser c.ctx (c.unitLen s.ev.idx) .remote s.ev.unit (.group c.gid) s.ev.idx
          (r + BitVec.ofNat 64 s.ev.idx) c.site c.seq Wrote.none])
      ∧ ∀ p, p ∈ t.wireOut ↔ p ∈ s.wireOut ∧ ¬ (p.cmd = s.ev.unit ∧ p.part = s.ev.idx) := by
  subst hr
  have away : s.putWrote c s.ev.idx (c.unitLen s.ev.idx) = Wrote.none := if_neg hd
  have at_ : c.remoteAt s.ev.idx = r + BitVec.ofNat 64 s.ev.idx := by unfold RemoteCmd.remoteAt; rw [ho]
  have reply := reply_put (s := s) (id := s.ev.unit) ho hp
  rw [unit_counts hf hl, away, at_] at reply
  exact ⟨_, (ack_of_reply h reply).trans (congrArg _ (passed_of_no_traffic rfl)), rfl, SMap.find?_insert_self .., rfl, mem_answered s _ _⟩
theorem put_ends (hr : rep = .ok) (hp : s.ev.idx ≠ len.toNat) (hf : c.fail = none) (hl : c.left ≤ c.unitLen s.ev.idx) {g : Group}
    (hg : s.grp c.gid = some g) (ht : g.tid = c.tid) (he : s.endings = []) (hs : s.suspends = []) :
    ∃ t, exec .remoteAcknowledge s = .next t ∧ t.remotes.find? s.ev.unit = none ∧ t.grp c.gid = some (g.undrained .remote) := by
  subst hr
  have hb : (c.marked s.ev.idx (c.unitLen s.ev.idx)).block? = some len.toNat := block_eq (.inl ⟨r, l, none, ho⟩)
  have flag : (c.marked s.ev.idx (c.unitLen s.ev.idx)).flagLeft = false := by
    unfold RemoteCmd.flagLeft
    rw [show (c.marked s.ev.idx (c.unitLen s.ev.idx)).op = .put r l len none from ho]
  have left : (c.marked s.ev.idx (c.unitLen s.ev.idx)).left = 0 := Nat.sub_eq_zero_of_le hl
  have reply := reply_put (s := s) (id := s.ev.unit) ho hp
  rw [remotePut_ends (c := c.marked s.ev.idx (c.unitLen s.ev.idx)) hf left flag, remoteCount_eq] at reply
  obtain ⟨x, ended⟩ := remoteEnd_of_idle hb s.ev.unit (s := { s.answered s.ev.unit s.ev.idx with phMsgs := _ }) hg ht he hs
  rw [ended] at reply
  refine ⟨_, (ack_of_reply h reply).trans (congrArg _ (passed_of_no_traffic rfl)), ?_, ?_⟩
  · exact (SMap.find?_erase ..).trans (if_pos rfl)
  · exact SMap.find?_insert_self ..

variable {cause : BitVec 8} {d : BitVec 6} {va : W64} (hr : rep = .fault cause d va) (hf : c.fail = none)
include hr hf
omit h in
theorem put_faults : s.remoteReply s.ev.unit c s.ev.idx rep =
    .ok ((s.answered s.ev.unit s.ev.idx).remotePut s.ev.unit (c.failing (s.ev.idx, 0x12, cause.toNat + 256 * d.toNat, va))) := by
  rw [hr, reply_fault, partFault_of_block (block_eq (.inl ⟨r, l, none, ho⟩)), fabricDetail, Nat.mul_comm d.toNat 256, fails_eq hf]
theorem put_records (hp : c.firstOpen len.toNat 0 < s.ev.idx) : ∃ t, exec .remoteAcknowledge s = .next t
    ∧ t = { s with wireOut := t.wireOut, remotes := t.remotes }
    ∧ (∀ p, p ∈ t.wireOut ↔ p ∈ s.wireOut ∧ ¬ (p.cmd = s.ev.unit ∧ p.part = s.ev.idx))
    ∧ t.remotes.find? s.ev.unit = some (c.failing (s.ev.idx, 0x12, cause.toNat + 256 * d.toNat, va)) := by
  have reply := put_faults (s := s) ho hr hf
  rw [remotePut_records (c := c.failing _) (block_eq (.inl ⟨r, l, none, ho⟩)) rfl _ _ ((firstOpen_fail ..).trans_lt hp)] at reply
  exact ⟨_, (ack_of_reply h reply).trans (congrArg _ (passed_of_no_traffic rfl)), rfl, mem_answered s _ _, SMap.find?_insert_self ..⟩
theorem put_fails (hp : s.ev.idx ≤ c.firstOpen len.toNat 0) {g : Group} (hg : s.grp c.gid = some g) (ht : g.tid = c.tid)
    (room : g.pendq.length < 8) (hn : c.faulted = false) (he : s.endings = []) (hs : s.suspends = []) :
    ∃ t, exec .remoteAcknowledge s = .next t ∧ RemoteFailed s t s.ev.unit c g (c.faultAs 0x12 (cause.toNat + 256 * d.toNat) va) := by
  have hb : c.block? = some len.toNat := block_eq (.inl ⟨r, l, none, ho⟩)
  have reply := put_faults (s := s) ho hr hf
  rw [remotePut_fails (c := c.failing _) hb rfl _ _ (hp.trans_eq (firstOpen_fail ..).symm)] at reply
  have failed := remoteFault_of_idle (s := s.answered s.ev.unit s.ev.idx)
    (c := c.failing (s.ev.idx, 0x12, cause.toNat + 256 * d.toNat, va)) hb s.ev.unit hg ht room hn he hs 0x12 (cause.toNat + 256 * d.toNat) va
  refine ⟨_, (ack_of_reply h reply).trans (congrArg _ (passed_of_no_traffic (congrArg State.traffic failed.state :))), ?_⟩
  exact failed.of_recorded rfl (fun _ _ => rfl) fun p hp => (mem_answered s _ _ p).trans (and_iff_left fun e => hp e.1)
end

end Sys2Proof.Machine
end

section
/-! What answers bring, and the fabric's statement whole (R276 to R284). -/

namespace Sys2Proof.Machine

-- ## What the answers to `GETR`, `RATOM` and `APPEND` bring

section
variable {s s1 : State} {c : RemoteCmd} {r l len : W64} {bs : List Byte} (h : Answered s c (.data bs)) (ho : c.op = .get r l len)
include h ho

theorem get_brings (hf : c.fail = none) (hl : c.unitLen s.ev.idx < c.left)
    (hw : s.rawWrite 2 c.die c.ctx (l.toNat + s.ev.idx) (bs.take (c.unitLen s.ev.idx)) = (s1, .ok ())) : ∃ t, Leads .remoteAcknowledge s t
      ∧ t = { s1 with wireOut := t.wireOut, remotes := t.remotes, phMsgs := t.phMsgs }
      ∧ t.remotes.find? s.ev.unit = some (c.marked s.ev.idx (c.unitLen s.ev.idx))
      ∧ t.phMsgs = s1.phMsgs ++ (if c.np then [] else [countMsg c.phaser c.ctx (c.unitLen s.ev.idx) .remote s.ev.unit (.group c.gid) s.ev.idx
          (l + BitVec.ofNat 64 s.ev.idx) c.site c.seq (s1.sectorsAt c.die c.ctx (l.toNat + s.ev.idx) (c.unitLen s.ev.idx))])
      ∧ ∀ p, p ∈ t.wireOut ↔ p ∈ s1.wireOut ∧ ¬ (p.cmd = s.ev.unit ∧ p.part = s.ev.idx) := by
  have reply := reply_get (s := s) (id := s.ev.unit) ho hw
  rw [unit_counts hf hl] at reply
  exact ⟨_, leads_of_passed (ack_of_reply h reply), rfl, SMap.find?_insert_self .., rfl, mem_answered s1 _ _⟩
theorem get_waits (hw : s.rawWrite 2 c.die c.ctx (l.toNat + s.ev.idx) (bs.take (c.unitLen s.ev.idx)) = (s1, .error .wait)) :
    exec .remoteAcknowledge s = .next (s.waiting s1) := by
  rw [ack_step h, reply_get_waits ho hw]
  rfl
theorem get_faults {code d va : Nat}
    (hw : s.rawWrite 2 c.die c.ctx (l.toNat + s.ev.idx) (bs.take (c.unitLen s.ev.idx)) = (s1, .error (.fault code d va))) :
    exec .remoteAcknowledge s =
      .next (s.passed ((s1.answered s.ev.unit s.ev.idx).partFault s.ev.unit c s.ev.idx code d (BitVec.ofNat 64 va))) :=
  ack_of_reply h (reply_get_faults ho hw)
end

section
variable {s : State} {c : RemoteCmd} {rep : Reply} {g : Group} {p : Pend} {d : RName} (h : Answered s c rep) (hf : c.fail = none)
  (hg : s.grp c.gid = some g) (hp : g.pend.find? (fun q => c.pend == some q.id) = some p) (hd : p.dests.head? = some d)
include h hf hg hp hd

/-- The registers of a lane's result. -/
def laneWrites (d : RName) (l : Nat) (w64 : Bool) (v : W64) : List RegWrite :=
  .v d.n l (v.setWidth 32) :: (if w64 then [.v (d.n + 1) l ((v >>> 32).setWidth 32)] else [])
theorem ratom_brings {op : RAOp} {w64 : Bool} {o : Ord4} {ls : List (Nat × W64 × W64 × W64)} {v a x y : W64} {l : Nat}
    (ho : c.op = .ratom op w64 o ls) (hr : rep = .old v) (hl : ls[s.ev.idx]? = some (l, a, x, y)) (left : 1 < c.left) :
    Brings s c g (laneWrites d l w64 v) (decide (op = .cas ∧ v ≠ y)) (c.marked s.ev.idx 1) := by
  subst hr
  have reply := reply_ratom (s := s) (id := s.ev.unit) (v := v) ho hl
  have writes : (if w64 then lane64 (s.laneDest c) l v else [.v (s.laneDest c) l (v.setWidth 32)]) = laneWrites d l w64 v := by
    rw [laneDest_eq hg hp hd]
    cases w64 <;> rfl
  have demotes : (op == .cas && v != y) = decide (op = .cas ∧ v ≠ y) := by
    rw [Bool.eq_iff_iff, decide_eq_true_iff, Bool.and_eq_true, beq_iff_eq, bne_iff_ne]
  rw [writes, demotes] at reply
  exact brings_of_reply h hg hf (Nat.sub_ne_zero_of_lt left) reply
theorem row_brings {hdr : W64} {ls : List (Nat × W64)} {k l : Nat} {va tl base cap rowb : W64} (ho : c.op = .append hdr ls) (hr : rep = .ok)
    (hk : s.ev.idx = k + 1) (hl : ls[k]? = some (l, va)) (hh : c.head = some (tl, base, cap, rowb)) (left : 1 < c.left) :
    Brings s c g (laneWrites d l true (tl + BitVec.ofNat 64 k)) false (c.marked s.ev.idx 1) := by
  subst hr
  have reply := reply_row (s := s) (id := s.ev.unit) ho hk hl hh
  rw [laneDest_eq hg hp hd] at reply
  exact brings_of_reply h hg hf (Nat.sub_ne_zero_of_lt left) reply
theorem queue_brings {hdr : W64} {ls : List (Nat × W64)} {tl base cap rowb : W64} (ho : c.op = .append hdr ls)
    (hr : rep = .queue tl base cap rowb) (left : (lateRows ls tl cap).length < c.left) :
    Brings s c g ((lateRows ls tl cap).flatMap (fun x => laneWrites d x.1.1 true (BitVec.ofNat 64 (2 ^ 63 + (tl.toNat + x.2))))) false
      { c with units := rowUnits c.units (lateRows ls tl cap), left := c.left - (lateRows ls tl cap).length
               head := some (tl, base, cap, rowb), sent := true } := by
  subst hr
  have reply := reply_queue (s := s) (id := s.ev.unit) (part := s.ev.idx) ho tl base cap rowb
  rw [laneDest_eq hg hp hd] at reply
  exact brings_of_reply h hg hf (Nat.sub_ne_zero_of_lt left) reply
end

-- ## Triggers and transport failures

theorem trigger_step {s s1 : State} {c : RemoteCmd} {th va : W64} {bs : List Byte} (hc : s.remotes.find? s.ev.unit = some c)
    (ht : c.trig = some (th, va)) (hr : s.engRead 2 c.die c.ctx va.toNat 8 = (s1, .ok bs)) : exec .remoteTriggerFire s =
      if th.toNat ≤ natOf bs then .next { s1 with remotes := s1.remotes.insert s.ev.unit { c with trig := none } } else .next s1 := by
  show execRemoteTriggerFire s = _
  unfold execRemoteTriggerFire
  dsimp only
  rw [hc]
  dsimp only
  rw [ht]
  dsimp only
  rw [hr]
theorem transport_remote {s : State} {cl id : Nat} (h : s.ev.data = .wire (.remote cl id)) :
    exec .transportFailure s = .next (s.remoteLost id) := by
  show execTransportFailure s = _
  unfold execTransportFailure
  rw [h]
theorem transport_fx {s : State} {p : Nat} (h : s.ev.data = .wire (.fx p)) (hw : ∃ w ∈ s.fxWires, w.p = p ∧ w.dev ≠ s.devId) :
    exec .transportFailure s = .next (s.fxFail p fcFabric 6 0) := by
  obtain ⟨w, mem, hp, hd⟩ := hw
  have out : s.fxWires.any (fun w => w.p == p && w.dev != s.devId) = true := List.any_eq_true.2 ⟨w, mem, by simp [hp, hd]⟩
  show execTransportFailure s = _
  unfold execTransportFailure
  rw [h]
  exact congrArg _ (if_pos out)
theorem transport_copy {s : State} {cl id pos : Nat} {c : CopyCmd} (h : s.ev.data = .wire (.copy cl id)) (hc : s.ecmds.find? id = some c)
    (hn : c.fail = none) (hp : ∃ p ∈ s.wireOut, p.cmd = id ∧ p.part = pos) (first : ∀ p ∈ s.wireOut, p.cmd = id → pos ≤ p.part)
    (done : pos ≤ c.firstBelow 3 c.op.bytes 0) : exec .transportFailure s = .next (s.passed (({ s with
      wireOut := s.wireOut.filter (fun w => w.cmd != id)
      ecmds := s.ecmds.insert id { c with fail := some (pos, 0x12, 6, c.remoteAt pos) } } : State).copyFault id
        { c with fail := some (pos, 0x12, 6, c.remoteAt pos) } 0x12 6 (c.remoteAt pos))) := by
  have out : s.wireOut.any (fun w => w.cmd == id) = true := by
    obtain ⟨w, mem, cmd, -⟩ := hp
    exact List.any_eq_true.2 ⟨w, mem, beq_iff_eq.2 cmd⟩
  show execTransportFailure s = _
  unfold execTransportFailure
  rw [h]
  dsimp only
  rw [hc]
  dsimp only
  rw [out, if_pos rfl, wirePos_eq hp first, copyFail_ends hn done]

end Sys2Proof.Machine
end

section
/-! The fabric's statement, assembled (R276 to R284). -/

namespace Sys2Proof.Machine

/-- Settles O38: each packet, unit, answer, trigger and failure by its own rule. -/
theorem fabricSteps : Obligations.FabricSteps := by
  unfold Obligations.FabricSteps
  intro s
  refine ⟨fun p hd hu hp => ⟨fun hj => ?_, fun n hj => ?_⟩, ?_, ?_, ?_, ?_, ?_, ?_, ?_, ?_, ?_⟩
  -- a packet arrives
  · exact answers_of_serve hd hu hp (serve_of_no_slot hj)
  · have served : s.serve (s.ev.unit / 8) p = s.serveAt (s.ev.unit / 8) n p := serve_of_slot hj
    refine ⟨fun va bs s1 hk => ⟨fun hw => ?_, fun hw => ?_, fun code dt a hw => ?_⟩, fun va len s1 bs hk hr => ?_,
      fun va op len s1 v hk hw => ?_, fun va w64 op v cmp s1 old hk hw => ?_, fun hdr k s1 s2 bs tail hk hr => ⟨fun hb => ?_, fun h1 h2 h3 hw => ?_⟩⟩
    · exact answers_of_serve hd hu hp (by rw [served, serveAt_bytes _ _ _ hk, hw]; rfl)
    · exact waits_of_serve hd hu hp (by rw [served, serveAt_bytes _ _ _ hk, hw]; rfl)
    · rw [← replyFault_eq]
      exact answers_of_serve hd hu hp (by rw [served, serveAt_bytes _ _ _ hk, hw]; rfl)
    · exact answers_of_serve hd hu hp (by rw [served, serveAt_read _ _ _ hk, hr]; rfl)
    · have upd : s.rawUpd 2 (s.ev.unit / 8) n va.toNat 8 (flagNew op len) = (s1, .ok v) := hw
      exact answers_of_serve hd hu hp (by rw [served, serveAt_flag _ _ _ hk, upd]; rfl)
    · have upd : s.rawUpd 2 (s.ev.unit / 8) n va.toNat (if w64 then 8 else 4) (fun x => (atomicOf op).new w64 x v cmp) = (s1, .ok old) := hw
      exact answers_of_serve hd hu hp (by rw [served, serveAt_atomic _ _ _ hk, upd]; rfl)
    · have bad : headerOk (queueWord bs 3) = false := Bool.eq_false_iff.2 fun e => hb ((headerOk_iff _).1 e)
      exact answers_of_serve hd hu hp (by rw [served, serveAt_append_bad hk hr bad])
    · have good : headerOk (queueWord bs 3) = true := (headerOk_iff _).2 ⟨h1, h2, h3⟩
      exact answers_of_serve hd hu hp (by rw [served, serveAt_append hk hr good, hw]; rfl)
  -- a unit is sent
  · intro c r l len flag he hc ho ht hpause hrod hp hdev hu hf
    have goes : UnitGoes s c s.ev.unit := ⟨ht, hrod, hpause⟩
    exact fun hn => ⟨fun s1 bs hr => putUnit_sends he hc ho goes hu hf hn hp hdev hr, fun s1 hr => putUnit_waits he hc ho goes hu hf hn hr,
      fun s1 f dt va hr => putUnit_faults he hc ho goes hu hf hn hr⟩
  -- a unit is answered
  · intro c r l len rep hd hfx hwire he hc ho hp hf hdev
    have ack : Answered s c rep := ⟨hd, hfx, hwire, he, hc⟩
    refine ⟨fun hr hl => put_counts ack ho hr hp hf hdev hl, fun cause d va hr => ⟨fun hq g hg ht room hn idle => ?_, fun hq => ?_⟩,
      fun g hr hl hg ht idle => ?_⟩
    · exact put_fails ack ho hr hf hq hg ht room hn idle.1 idle.2.1
    · exact put_records ack ho hr hf hq
    · exact put_ends ack ho hr hp hf hl hg ht idle.1 idle.2.1
  -- an answer brings bytes or registers
  · intro c rep hd hfx hwire he hc hf
    have ack : Answered s c rep := ⟨hd, hfx, hwire, he, hc⟩
    refine ⟨fun r l len bs ho hr => ?_, fun g p d hg hp hdest => ⟨fun op w64 o ls v l a x y ho hr hl left => ?_, fun hdr ls ho =>
      ⟨fun tl base cap rowb hr left => ?_, fun k l va tl base cap rowb hr hk hl hh left => ?_⟩⟩⟩
    · subst hr
      exact ⟨fun s1 hw hl => get_brings ack ho hf hl hw, fun s1 hw => get_waits ack ho hw, fun s1 f dt va hw => get_faults ack ho hw⟩
    · exact ratom_brings ack hf hg hp hdest ho hr hl left
    · exact ⟨rowUnits c.units (lateRows ls tl cap), queue_brings ack hf hg hp hdest ho hr left, get_rowUnits_zero .., fun k hk => get_rowUnits _ _ _ hk⟩
    · exact row_brings ack hf hg hp hdest ho hr hk hl hh left
  -- a trigger fires
  · intro c th va s1 bs hc ht hr
    have step := trigger_step hc ht hr
    refine ⟨fun early => ?_, fun late => ⟨_, step.trans (if_pos late), rfl, SMap.find?_insert_self ..⟩⟩
    exact step.trans (if_neg (Nat.not_le.2 early))
  -- a transport fails: for a remote command, a copy command, a fabric processor
  · intro id c len cl pos hd hc hop hn hw first
    have step := transport_remote hd
    have hb := block_eq hop
    refine ⟨fun done g hg ht room hf idle => ⟨_, step, ?_⟩, fun late => ?_⟩
    · exact remoteLost_fails hc hb hn hw (fun p hp hcmd => (first p hp hcmd).2) done hg ht room hf idle.1 idle.2.1
    · obtain ⟨x, lost, found⟩ := remoteLost_records hc hb hn hw (fun p hp hcmd => (first p hp hcmd).1) late
      rw [lost] at step
      refine ⟨_, step, rfl, found, fun p => ?_⟩
      show p ∈ s.wireOut.filter _ ↔ _
      rw [List.mem_filter, bne_iff_ne]
  · exact fun id c cl pos hd hc hn hw first done => transport_copy hd hc hn hw first done
  · exact fun p k hd _ _ hw => transport_fx hd hw
  -- registers
  · intro hu
    have step : exec .ueJobWrite s = .next (s.jobWrite s.ev.unit s.ev.val) := congrArg _ (if_pos hu)
    refine ⟨_, step, jobWrite_frame .., fun taken => jobWrite_of_taken taken, fun free => ?_⟩
    rw [jobWrite_of_free fun ⟨m, hm, hne, taken⟩ => free m hm hne taken]
    exact ⟨fld_regPut_ueJob hu s _ (by omega) (fun j _ _ => by omega), fld_regPut_ueJob hu s _ (by omega) (fun j _ _ => by omega)⟩
  · intro hu
    have step : exec .gleaningTableWrite s = .next (s.regPut (fxGltabAddr s.ev.unit) s.ev.val) := congrArg _ (if_pos hu)
    exact ⟨_, step, regPut_frame .., fld_regPut_fxGltab hu s _ (by omega), fld_regPut_fxGltab hu s _ (by omega),
      fun a ha => reg_regPut_fxGltab_ne hu s _ ha⟩

end Sys2Proof.Machine
end

section
/-! SUPPORT. A word that stalls, or that faults at one of its checks: what it leaves (R41, R50, R51). -/

namespace Sys2Proof.Machine

-- ## The end of a run, where no word is counted (R41, R427)

theorem trace_frame (s : State) (g : Group) (idx kind : Nat) (pc : W64) (seq : W32) (a b : Nat) :
    s.trace g idx kind pc seq a b = { s with tbufs := (s.trace g idx kind pc seq a b).tbufs } := by
  unfold State.trace
  dsimp only
  split <;> rfl
theorem sampleRun_frame (s : State) (gid idx : Nat) : s.sampleRun gid idx = { s with tbufs := (s.sampleRun gid idx).tbufs } := by
  unfold State.sampleRun
  split
  · rfl
  · dsimp only
    split
    · exact trace_frame ..
    · rfl

/-- The end of a run changes groups, partitions and trace buffers alone. -/
theorem endRun_frame (s : State) (gid idx : Nat) (sw : Bool) : s.endRun gid idx sw = { s with
    groups := (s.endRun gid idx sw).groups, parts := (s.endRun gid idx sw).parts, tbufs := (s.endRun gid idx sw).tbufs } := by
  have h := sampleRun_frame s gid idx
  unfold State.endRun State.updGrp
  dsimp only
  rw [h]
/-- A group whose run ends: a demoted or switching split goes to the back, and the group counts as ready from now (R41, R343). -/
def Group.runEnded (g : Group) (idx : Nat) (switch : Bool) (tick : Nat) : Group :=
  let back := switch || (match g.split? idx with
    | some sp => sp.demote
    | none => false)
  let g := match g.split? idx with
    | some sp => g.putSplit { sp with demote := false }
    | none => g
  let g := if back then g.toBack idx else g
  { g with readyAt := if g.splits.any (fun x => x.st == .ready) then some tick else none, wait := 0 }
theorem runEnded_own (g : Group) (idx : Nat) (sw : Bool) (tick : Nat) : g.runEnded idx sw tick = { g with
    splits := (g.runEnded idx sw tick).splits, readyAt := (g.runEnded idx sw tick).readyAt, wait := (g.runEnded idx sw tick).wait } := by
  unfold Group.runEnded
  cases g.split? idx <;> dsimp only [Group.putSplit, Group.toBack] <;> split <;> rfl
theorem endRun_groups (s : State) (gid idx : Nat) (sw : Bool) :
    (s.endRun gid idx sw).groups = s.groups.adjust gid (fun g => g.runEnded idx sw s.tick) := by
  show (s.sampleRun gid idx).groups.adjust gid (fun g => g.runEnded idx sw (s.sampleRun gid idx).tick) = _
  rw [sampleRun_frame]
theorem endRun_grp_ne (s : State) {gid i : Nat} (idx : Nat) (sw : Bool) (h : i ≠ gid) : (s.endRun gid idx sw).grp i = s.grp i := by
  unfold State.grp
  rw [endRun_groups, SMap.find?_adjust, if_neg h.symm]
theorem endRun_grp {s : State} {gid : Nat} {g : Group} (hg : s.grp gid = some g) (idx : Nat) (sw : Bool) :
    (s.endRun gid idx sw).grp gid = some (g.runEnded idx sw s.tick) := by
  unfold State.grp at hg ⊢
  rw [endRun_groups, SMap.find?_adjust, if_pos rfl, hg]
  rfl
/-- The end of a run changes no split but its place in the queue. -/
theorem split?_runEnded {s : State} {gid : Nat} {g : Group} (hg : s.grp gid = some g) (idx : Nat) (sw : Bool) (i : Nat) :
    ((g.runEnded idx sw s.tick).split? i).map Split.core = (g.split? i).map Split.core := by
  obtain ⟨g', here, -, splits⟩ := (endRun_book s gid idx sw).own g hg
  cases (endRun_grp hg idx sw).symm.trans here
  exact splits i

-- ## A word that stalls

/-- A stall leaves its split at the word, and ends its run. -/
theorem stallsIn_of {i : Instr} {s u : State} {h h' : Hdr} {c : Ctx} {lat : Lat} {us : List Use} {flg : Bool} {len : Nat} {w : Why}
    (hc : s.ctx? h = some c) (hu : u.groups = s.groups) (hx : exec i s = .next (applyEff c h' lat us flg len (.stall u w))) :
    StallsIn i s u c w := by
  obtain ⟨g, sp, hg, hsp, ec, eg, -, -⟩ := ctx?_some hc
  have hidx : sp.idx = c.idx := split?_idx _ _ _ hsp
  have grpu (j : Nat) : u.grp j = s.grp j := by unfold State.grp; rw [hu]
  let stand (g : Group) : Group := match g.split? c.idx with
    | some sp => g.putSplit { sp with st := .stalled w }
    | none => g
  have stood : stand g = g.putSplit { sp with st := .stalled w } := by simp only [stand, hsp]
  have here : (u.updGrp c.gid stand).grp c.gid = some (g.putSplit { sp with st := .stalled w }) := by
    rw [grp_updGrp_self ((grpu _).trans hg), stood]
  have splits := split?_runEnded here c.idx true
  refine ⟨_, _, hx, ?_, fun j hj => ?_, endRun_grp here c.idx true, ?_, ?_, fun j hj => ?_⟩
  · exact endRun_frame ..
  · exact (endRun_grp_ne _ _ _ hj).trans ((grp_updGrp_ne _ hj _).trans (grpu j))
  · rw [runEnded_own, eg]; rfl
  · have self : (g.putSplit { sp with st := .stalled w }).split? c.idx = some { sp with st := .stalled w } := by
      rw [← hidx]; exact split?_putSplit_self g { sp with st := .stalled w } sp (by rw [hidx]; exact hsp)
    obtain ⟨x, hx', e⟩ := Option.map_eq_some_iff.1 ((splits c.idx).trans (congrArg (Option.map Split.core) self))
    rw [ec]
    exact ⟨x, hx', (congrArg Split.pc e :), (congrArg Split.mask e :), (congrArg Split.st e :)⟩
  · rw [splits j, split?_putSplit_ne _ _ _ (by rw [show Split.idx _ = c.idx from hidx]; exact hj), eg,
      split?_putSplit_ne _ _ _ (by rw [ec, show Split.idx _ = c.idx from hidx]; exact hj)]

-- ## Checks before an effect (R50, R51)

/-- What a word does once its checks have been made: the fault of the first that failed, or its effect. -/
def checked (s : State) (f : Option FInfo) (e : Eff) : Eff := match f with
  | some f => .fault s f
  | none => e

/-- A check that comes first, and those after it. -/
theorem checks_cons {i : Instr} {s : State} {c : Ctx} {h : Hdr} {lat : Lat} {us : List Use} {flg : Bool} {len : Nat} {e : Eff}
    {p : Prop} [Decidable p] {code : BitVec 8} {detail : Nat} {addr : W64} {lane : Nat} {rest : Option FInfo}
    {l : List (Prop × BitVec 8 × Nat × W64 × Nat)} {done : Prop}
    (hx : exec i s = .next (applyEff c h lat us flg len (checked s (if p then some (flt code detail addr lane) else rest) e)))
    (hr : exec i s = .next (applyEff c h lat us flg len (checked s rest e)) → Checks i s c l done) :
    Checks i s c ((p, code, detail, addr, lane) :: l) done :=
  ⟨fun hp => by rw [if_pos hp] at hx; exact hx, fun hp => hr (by rwa [if_neg hp] at hx)⟩

/-- A word that acts once, for at least one lane. -/
theorem onceWord_next {s : State} {h : Hdr} {us : List Use} {c : Ctx} (hi : Issues s h us 1 c) (h0 : c.act ≠ 0) (lat : Lat)
    (body : State → Ctx → Eff) : onceWord s h lat us body = .next (applyEff c h lat us false 1 (body s c)) := by
  unfold onceWord
  rw [issue_next hi, if_neg h0]

end Sys2Proof.Machine
end

section
/-! SUPPORT. What a release writes back, and what it leaves (R101, R132, R144). -/

namespace Sys2Proof.Machine

/-- Lines of an L1 have been written back: the caches, what a write at home may change and what is on its way have changed, and no
byte at home outside the bursts of the lines' dirty bytes. -/
structure WroteBack (s t : State) (ls : List L1Line) : Prop where
  state : t = { s with
    cores := t.cores, clusters := t.clusters, mem := t.mem, burst := t.burst, poison := t.poison, stale := t.stale, ckpt := t.ckpt
    wireOut := t.wireOut, traffic := t.traffic, posts := t.posts, nextId := t.nextId, ecmds := t.ecmds }
  copies : SameCopies s t
  home : ∀ k a, (∀ l ∈ ls, ∀ p ∈ l.dirtyBytes, p.1 / 64 ≠ a / 64) → t.homeByte k a = s.homeByte k a

theorem WroteBack.refl (s : State) (ls : List L1Line) : WroteBack s s ls := ⟨rfl, SameCopies.refl s, fun _ _ _ => rfl⟩
theorem WroteBack.trans {s t u : State} {ls : List L1Line} (a : WroteBack s t ls) (b : WroteBack t u ls) : WroteBack s u ls :=
  ⟨by rw [b.state, a.state], a.copies.trans b.copies, fun k x h => (b.home k x h).trans (a.home k x h)⟩
/-- Nothing stored has changed but marks of poison. -/
theorem WroteBack.of_caches {s t : State} (h : t = { s with
    cores := t.cores, clusters := t.clusters, poison := t.poison, traffic := t.traffic, posts := t.posts, nextId := t.nextId })
    (ls : List L1Line) : WroteBack s t ls :=
  ⟨by rw [h], SameCopies.of_eq (by rw [h]), fun k a _ => homeByte_congr (by rw [h]) (by rw [h]) (by rw [h]) k a⟩
theorem WroteBack.of_traffic {s t : State} (h : TrafficOnly s t) (ls : List L1Line) : WroteBack s t ls :=
  WroteBack.of_caches (by unfold TrafficOnly at h; rw [h]) ls
theorem WroteBack.of_homeWrite (s : State) (key : Nat) {bs : List (Nat × Byte)} {ls : List L1Line}
    (hb : ∀ p ∈ bs, ∃ l ∈ ls, p ∈ l.dirtyBytes) : WroteBack s (s.homeWrite key bs) ls := by
  have frame := homeWrite_frame s key bs
  refine ⟨?_, homeWrite_copies s key bs, fun k a h => homeWrite_homeByte_burst s key bs (fun p hp => ?_) k⟩
  · unfold HomeFrame at frame; rw [frame]
  · obtain ⟨l, hl, hp⟩ := hb p hp
    exact h l hl p hp
theorem WroteBack.engines {s t : State} {ls : List L1Line} (h : WroteBack s t ls) : t.engines = s.engines := by rw [h.state]
theorem WroteBack.remotes {s t : State} {ls : List L1Line} (h : WroteBack s t ls) : t.remotes = s.remotes := by rw [h.state]
theorem WroteBack.fxs {s t : State} {ls : List L1Line} (h : WroteBack s t ls) : t.fxs = s.fxs := by rw [h.state]

theorem clWrite_wroteBack (s : State) (cl slot : Nat) (at_ : Attr) {bs : List (Nat × Byte)} (marks : List Nat) {ls : List L1Line}
    (hb : ∀ p ∈ bs, ∃ l ∈ ls, p ∈ l.dirtyBytes) : WroteBack s (s.clWrite cl slot at_ bs marks) ls := by
  unfold State.clWrite
  split
  · exact WroteBack.refl s ls
  · exact (((WroteBack.of_caches (t := s.setClus cl _) rfl ls).trans (WroteBack.of_homeWrite _ at_.key hb)).trans
      (WroteBack.of_caches rfl ls)).trans (WroteBack.of_traffic (trafficks_only ..) ls)
theorem writeBack_wroteBack (s : State) (core : Nat) {l : L1Line} {ls : List L1Line} (hl : l ∈ ls) :
    WroteBack s (s.writeBack core l) ls := by
  unfold State.writeBack
  split
  · exact WroteBack.refl s ls
  · exact (WroteBack.of_caches (t := s.bankPut core _) rfl ls).trans (clWrite_wroteBack _ _ _ _ _ fun p hp => ⟨l, hl, hp⟩)
theorem writeBacks_wroteBack (core : Nat) {todo ls : List L1Line} (h : todo ⊆ ls) (s : State) :
    WroteBack s (todo.foldl (fun s l => s.writeBack core l) s) ls := by
  induction todo generalizing s with
  | nil => exact WroteBack.refl s ls
  | cons l todo ih =>
    obtain ⟨hl, htodo⟩ := List.cons_subset.1 h
    exact (writeBack_wroteBack s core hl).trans (ih htodo _)
theorem cleanLines_wroteBack (s : State) (core : Nat) (p : L1Line → Bool) :
    WroteBack s (s.cleanLines core p) (s.core core).lines := by
  unfold State.cleanLines
  exact (writeBacks_wroteBack core (List.filter_subset_self _) s).trans (WroteBack.of_caches rfl _)
theorem release_wroteBack (s : State) (g : Group) (sc : Scope) : WroteBack s (s.release g sc) (s.core g.core).lines := by
  unfold State.release State.l1Release
  split
  · exact WroteBack.refl s _
  · exact cleanLines_wroteBack ..
/-- A release that goes through, whether or not a regulator has held its requests back before. -/
theorem WroteBack.pass {s t u : State} {ls : List L1Line} {reads : Bool} (h : WroteBack s t ls) (hu : s.pass t reads = .ok u) :
    WroteBack s u ls := by
  rw [(regulated s t reads).1 u hu]
  exact h.trans (WroteBack.of_caches rfl ls)
/-- A release that is held back changes no group. -/
theorem groups_of_held {s t u : State} {reads : Bool} (hu : s.pass t reads = .error u) : u.groups = s.groups := by
  rw [(regulated s t reads).2.1 u hu]

-- ## The release of a word, and its outcomes

section
variable {s : State} {c : Ctx} {sc : Scope}

theorem relAt_of_not_ready (h : s.relReady c.gid c.g sc = false) :
    relAt s c true sc = .error (.stall s (if sc = .system then .ordered else .fifoEmpty)) := by
  simp [relAt, h]
theorem relAt_of_held {u : State} (h : s.relReady c.gid c.g sc = true) (hu : s.pass (s.release c.g sc) false = .error u) :
    relAt s c true sc = .error (.stall u .regulator) := by
  simp [relAt, h, hu]
theorem relAt_of_passes {u : State} (h : s.relReady c.gid c.g sc = true) (hu : s.pass (s.release c.g sc) false = .ok u) :
    relAt s c true sc = .ok u := by
  simp [relAt, h, hu]
end

end Sys2Proof.Machine
end

section
/-! SUPPORT. An engine command once its checks have passed: its stalls, its release, and its word's completion (R104, R256, R337, R369). -/

namespace Sys2Proof.Machine

-- ## A command is named, joins a queue, and its word completes

/-- A command has been named in its group, and may have joined a queue; its word has not yet completed. -/
structure Named (s v : State) (c : Ctx) (k : CmdKind) (g : Group) (sp : Split) : Prop where
  state : v = { s with
    groups := v.groups, cores := v.cores, clusters := v.clusters, mem := v.mem, burst := v.burst, poison := v.poison
    stale := v.stale, ckpt := v.ckpt, wireOut := v.wireOut, traffic := v.traffic, posts := v.posts, nextId := v.nextId
    engines := v.engines, ecmds := v.ecmds, remotes := v.remotes, fxs := v.fxs }
  groups : ∀ i, i ≠ c.gid → v.grp i = s.grp i
  here : v.grp c.gid = some g
  own : g = { c.g with
    splits := g.splits, cmdseq := c.g.cmdseq + 1, drCp := c.g.drCp + (if k = .copy then 1 else 0)
    drRm := c.g.drRm + (if k = .remote then 1 else 0), drFx := c.g.drFx + (if k = .fabric then 1 else 0) }
  split : g.split? c.idx = some sp
  issued : c.sp = { sp with st := .ready }
  others : ∀ i, i ≠ c.idx → g.split? i = c.g.split? i
  kept : HomeKept s v c.g.core

theorem drainAdd_one (g : Group) (k : CmdKind) : g.drainAdd k 1 = { g with
    drCp := g.drCp + (if k = .copy then 1 else 0), drRm := g.drRm + (if k = .remote then 1 else 0)
    drFx := g.drFx + (if k = .fabric then 1 else 0) } := by
  cases k <;> rfl

/-- After its release a command is named: the group's sequence number and its class counter have advanced. -/
theorem nameEngine_named {s u : State} {h : Hdr} {c : Ctx} (hc : s.ctx? h = some c) (wrote : WroteBack s u (s.core c.g.core).lines)
    (k : CmdKind) : ∃ g sp, Named s (u.nameEngine c k) c k g sp := by
  obtain ⟨g, sp, hi⟩ := issuing_of_ctx hc
  have state := wrote.state
  have grpu (i : Nat) : u.grp i = s.grp i := by rw [state]; rfl
  refine ⟨_, sp, ?_, fun i hne => ?_, grp_updGrp_self ((grpu _).trans hi.here) _, ?_, ?_, hi.issued, fun i hne => ?_, fun k a hd => ?_⟩
  · exact (congrArg (State.nameEngine · c k) state).trans (by rw [state]; rfl)
  · exact (grp_updGrp_ne _ hne _).trans (grpu i)
  · rw [drainAdd_one, hi.own, List.append_nil]
  · rw [drainAdd_one]; exact hi.split
  · rw [drainAdd_one]; exact hi.others i hne
  · rw [← wrote.home k a hd]
    exact homeByte_congr rfl rfl rfl k a

/-- A named command joins a queue. -/
theorem Named.joins {s v w : State} {c : Ctx} {k : CmdKind} {g : Group} {sp : Split} (n : Named s v c k g sp)
    (hw : w = { v with nextId := w.nextId, engines := w.engines, ecmds := w.ecmds, remotes := w.remotes, fxs := w.fxs }) :
    Named s w c k g sp := by
  have grp (i : Nat) : w.grp i = v.grp i := by rw [hw]; rfl
  refine ⟨?_, fun i hne => (grp i).trans (n.groups i hne), (grp _).trans n.here, n.own, n.split, n.issued, n.others, fun k a hd => ?_⟩
  · rw [hw, n.state]
  · rw [← n.kept k a hd]
    exact homeByte_congr (by rw [hw]) (by rw [hw]) (by rw [hw]) k a

theorem completing_grp_of_no_lines {s : State} {c : Ctx} {g : Group} {sp : Split} (hg : s.grp c.gid = some g)
    (hsp : g.split? c.idx = some sp) (h : Hdr) (lat : Lat) (us : List Use) (flg : Bool) (len : Nat) {r : Res} (hl : r.lines = []) :
    ∃ wins, (s.completing c h lat us flg len r).grp c.gid
      = some (g.completed s c (sp.passed len wins) us flg (isLate lat us flg r) r) := by
  refine ⟨winsAfter g sp h us len s.nextId (isLate lat us flg r) r, ?_⟩
  unfold State.completing
  rw [hl]
  exact (grp_updGrp_self (s := s.numbered _) hg _).trans (by rw [completion, hsp])
theorem completed_of_no_writes (g : Group) (s : State) (c : Ctx) (sp : Split) (us : List Use) (flg late : Bool) {r : Res}
    (hw : r.ws = []) : g.completed s c sp us flg late r
      = { g.putSplit sp with pend := g.pend ++ (if late then [awaited s c us flg r] else []) } := by
  unfold Group.completed
  cases late
  · rw [hw]
    show _ = { g.putSplit sp with pend := g.pend ++ [] }
    rw [List.append_nil]
    rfl
  · rfl

/-- The word of a command that has joined its queue completes; only a result that it awaits is left of it in its group. -/
theorem Named.completes {s w : State} {c : Ctx} {k : CmdKind} {g : Group} {sp : Split} (n : Named s w c k g sp) (h : Hdr)
    (us : List Use) {r : Res} (hl : r.lines = []) (hws : r.ws = []) {t : State} (ht : w.complete c h .long us false 1 r = t) :
    ∃ g', Commanded s t c k g' ∧ g'.pend = c.g.pend ++ (if isLate .long us false r then [awaited w c us false r] else [])
      ∧ t = { w with groups := t.groups, parts := t.parts, mmio := t.mmio, tbufs := t.tbufs, nextId := t.nextId } := by
  obtain ⟨wins, here⟩ := completing_grp_of_no_lines n.here n.split h .long us false 1 hl
  rw [completed_of_no_writes _ _ _ _ _ _ _ hws] at here
  have hne := fun i => completing_grp_ne w c h .long us false 1 r (i := i)
  obtain ⟨frame, cores⟩ := completing_state w c h .long us false 1 r
  have book := countWord_book (w.completing c h .long us false 1 r) c 1 h.e
  rw [← complete_eq, ht] at book
  generalize w.completing c h .long us false 1 r = v at *
  rw [cores hl] at frame
  obtain ⟨g', here', own, splits⟩ := book.own _ here
  have state : t = { w with groups := t.groups, parts := t.parts, mmio := t.mmio, tbufs := t.tbufs, nextId := t.nextId } := by
    rw [book.state, frame]
  have pend : g.pend = c.g.pend := by rw [n.own]
  have hidx : (sp.passed 1 wins).idx = c.idx := (split?_idx _ _ _ n.split : sp.idx = c.idx)
  have self : (g.putSplit (sp.passed 1 wins)).split? c.idx = some (sp.passed 1 wins) := by
    rw [← hidx]
    exact split?_putSplit_self g _ sp (by rw [hidx]; exact n.split)
  have gk := n.own
  refine ⟨g', ⟨?_, fun a h1 h2 => ?_, fun i hi => ?_, here', ?_, ⟨?_, fun i hi => ?_⟩, fun k a hd => ?_⟩, ?_, state⟩
  · rw [state, n.state]
  · rw [book.regs a h1 h2]
    exact reg_congr (by rw [frame, n.state]) a
  · rw [book.groups i hi, hne i hi, n.groups i hi]
  · rw [own, gk]; rfl
  · obtain ⟨x, hx, e⟩ := Option.map_eq_some_iff.1 ((splits c.idx).trans (congrArg (Option.map Split.core) self))
    rw [n.issued]
    exact ⟨x, hx, (congrArg Split.pc e :), (congrArg Split.mask e :), (congrArg Split.st e :)⟩
  · rw [splits i, ← n.others i hi]
    exact congrArg _ (split?_putSplit_ne g _ _ (by rw [hidx]; exact hi))
  · rw [← n.kept k a hd]
    exact homeByte_congr (by rw [state]) (by rw [state]) (by rw [state]) k a
  · rw [own, ← pend]

-- ## The stalls and the release before a command

section
variable {c : Ctx} {k : CmdKind} {sc : Scope} {f : State → Eff}

theorem issueEngine_of_drainFull {w : Why} (h : c.g.drainFull k = some w) (s : State) (full : Option Why) :
    issueEngine s c k full sc f = .stall s w := by
  unfold issueEngine; rw [h]
theorem issueEngine_of_full {w : Why} (h : c.g.drainFull k = none) (s : State) : issueEngine s c k (some w) sc f = .stall s w := by
  unfold issueEngine; rw [h]
theorem issueEngine_of_not_ready {s : State} (h : c.g.drainFull k = none) (late : s.relReady c.gid c.g sc = false) :
    issueEngine s c k none sc f = .stall s (if sc = .system then .ordered else .fifoEmpty) := by
  unfold issueEngine; rw [h, relAt_of_not_ready late]
theorem issueEngine_of_held {s u : State} (h : c.g.drainFull k = none) (ready : s.relReady c.gid c.g sc = true)
    (held : s.pass (s.release c.g sc) false = .error u) : issueEngine s c k none sc f = .stall u .regulator := by
  unfold issueEngine; rw [h, relAt_of_held ready held]
theorem issueEngine_of_passes {s u : State} (h : c.g.drainFull k = none) (ready : s.relReady c.gid c.g sc = true)
    (passes : s.pass (s.release c.g sc) false = .ok u) : issueEngine s c k none sc f = f (u.nameEngine c k) := by
  unfold issueEngine; rw [h, relAt_of_passes ready passes]
end

end Sys2Proof.Machine
end

section
/-! The commands of the copy engines: `CPY`, `OFFL` and `RTRN` (R104, R106 to R109, R112, R369). -/

namespace Sys2Proof.Machine

-- ## A command joins an engine's queue (R104)

theorem engine_setEngine (s : State) (e j : Nat) (x : EngineSt) : (s.setEngine e x).engine j = if e = j then x else s.engine j :=
  SMap.get_set ..
theorem pushCopy_frame (s : State) (e : Nat) (k : CopyCmd) : s.pushCopy e k
    = { s with nextId := (s.pushCopy e k).nextId, engines := (s.pushCopy e k).engines, ecmds := (s.pushCopy e k).ecmds } := rfl
theorem pushCopy_engine (s : State) (e j : Nat) (k : CopyCmd) : (s.pushCopy e k).engine j
    = if e = j then ⟨(s.engine e).queue ++ [s.nextId], (s.engine e).active⟩ else s.engine j := engine_setEngine ..

theorem SameCopies.erase {s t u : State} (h : SameCopies s t) {id : Nat} {x : CopyCmd} (hu : u.ecmds = t.ecmds.insert id x) :
    SameCopies { s with ecmds := s.ecmds.erase id } { u with ecmds := u.ecmds.erase id } := by
  intro j
  dsimp only
  rw [hu, SMap.find?_erase, SMap.find?_erase, SMap.find?_insert]
  split
  · rfl
  · exact h j

/-- The engine of a core's place among its die's four, where it is present. -/
theorem copyEngine_of_present {s : State} {e : Nat} (h : s.present (.engine e) = true) : s.copyEngine e = some e := by
  have here : 4 * (e / 4) + (e + 0) % 4 = e := by omega
  have found : ((List.range 4).map (fun j => 4 * (e / 4) + (e + j) % 4)).find? (fun i => s.present (.engine i)) = some e := by
    rw [show List.range 4 = 0 :: [1, 2, 3] from rfl, List.map_cons, here]
    exact List.find?_cons_of_pos h
  unfold State.copyEngine
  dsimp only
  rw [found]

theorem drainFull_copy_of_full {g : Group} (h : 65535 ≤ g.drCp) : g.drainFull .copy = some (.drainFull 0) := if_pos h
theorem drainFull_copy_of_room {g : Group} (h : g.drCp < 65535) : g.drainFull .copy = none := if_neg (Nat.not_le.2 h)

/-- After its release a command joins the queue of its engine, and its word completes. -/
theorem pushCopy_completes {s u t : State} {h : Hdr} {c : Ctx} {us : List Use} (hc : s.ctx? h = some c) (hd : destNames us = [])
    (wrote : WroteBack s u (s.core c.g.core).lines) (e : Nat) (k : CopyCmd)
    (ht : ((u.nameEngine c .copy).pushCopy e k).complete c h .long us false 1 Res.nil = t) :
    ∃ g', Commanded s t c .copy g' ∧ g'.pend = c.g.pend
      ∧ t.engine e = ⟨(s.engine e).queue ++ [u.nextId], (s.engine e).active⟩ ∧ (∀ x, x ≠ e → t.engine x = s.engine x)
      ∧ t.ecmds.find? u.nextId = some { k with engine := e }
      ∧ SameCopies { s with ecmds := s.ecmds.erase u.nextId } { t with ecmds := t.ecmds.erase u.nextId }
      ∧ t.remotes = s.remotes ∧ t.fxs = s.fxs := by
  obtain ⟨g, sp, named⟩ := nameEngine_named hc wrote .copy
  obtain ⟨g', only, pend, state⟩ := (named.joins (pushCopy_frame _ e k)).completes h us (r := Res.nil) rfl rfl ht
  have late : isLate .long us false Res.nil = false := by simp [isLate, hd, Res.nil]
  rw [late, if_neg Bool.false_ne_true, List.append_nil] at pend
  have engines : t.engines = ((u.nameEngine c .copy).pushCopy e k).engines := by rw [state]
  have ecmds : t.ecmds = u.ecmds.insert u.nextId { k with engine := e } := by rw [state]; rfl
  have same (j : Nat) : (u.nameEngine c .copy).engine j = s.engine j :=
    congrArg (SMap.get EngineSt.init · j) wrote.engines
  have engine (j : Nat) : t.engine j = if e = j then ⟨(s.engine e).queue ++ [u.nextId], (s.engine e).active⟩ else s.engine j := by
    rw [← same, ← same, State.engine, engines]
    exact pushCopy_engine ..
  refine ⟨g', only, pend, ?_, fun x hne => ?_, ?_, wrote.copies.erase ecmds, ?_, ?_⟩
  · rw [engine, if_pos rfl]
  · rw [engine, if_neg hne.symm]
  · rw [ecmds, SMap.find?_insert_self]
  · rw [state]; exact wrote.remotes
  · rw [state]; exact wrote.fxs

/-- A checked command of a copy engine stalls, or joins the engine's queue. -/
theorem copyQueued_of {i : Instr} {s : State} {c : Ctx} {h : Hdr} {us : List Use} {sc : Scope} {op : CopyOp} {np : Bool} {ph : Nat}
    {tswz : BitVec 4} (hc : s.ctx? h = some c) (hd : destNames us = [])
    (hx : exec i s = .next (applyEff c h .long us false 1 (copyIssue s c sc
      (copyCmd op np ph c.g.ctx (some c.g.tid) tswz (.group c.gid) c.sp.pc (c.g.cmdseq + 1))))) :
    CopyQueued i s c sc op np ph tswz := by
  intro e he
  unfold copyIssue at hx
  rw [he] at hx
  dsimp only at hx
  refine ⟨fun full => ?_, fun open_ full => ?_, fun open_ room late hsc => ?_, fun open_ room ready u held => ?_,
    fun open_ room ⟨ready, u, passes⟩ => ?_⟩
  · rw [issueEngine_of_drainFull (drainFull_copy_of_full full)] at hx
    exact stallsIn_of hc rfl hx
  · rw [if_pos full, issueEngine_of_full (drainFull_copy_of_room open_)] at hx
    exact stallsIn_of hc rfl hx
  · rw [if_neg (Nat.not_le.2 room), issueEngine_of_not_ready (drainFull_copy_of_room open_) late, if_neg hsc] at hx
    exact stallsIn_of hc rfl hx
  · rw [if_neg (Nat.not_le.2 room), issueEngine_of_held (drainFull_copy_of_room open_) ready held] at hx
    exact stallsIn_of hc (groups_of_held held) hx
  · rw [if_neg (Nat.not_le.2 room), issueEngine_of_passes (drainFull_copy_of_room open_) ready passes] at hx
    obtain ⟨g', joined⟩ := pushCopy_completes hc hd ((release_wroteBack s c.g sc).pass passes) e _ rfl
    exact ⟨_, g', u.nextId, hx, joined⟩

-- ## The checks of `CPY`, `OFFL` and `RTRN` (R106, R108, R112)

/-- The bits of a shape, from bit `lo`. -/
def shapeBits (d : W128) (lo n : Nat) : Nat := (d.extractLsb' lo n).toNat

theorem cshape_eq (d : W128) : cshape d
    = ⟨shapeBits d 48 16 + 1, shapeBits d 24 20 + 1, shapeBits d 96 32, shapeBits d 64 32, d.getLsbD 16⟩ := by
  have top : d.toNat / 2 ^ 96 < 2 ^ 32 := by have := d.isLt; omega
  unfold cshape shapeBits
  simp only [toNat_extract]
  rw [Nat.mod_eq_of_lt top]
theorem cshapeBad_iff (d : W128) : cshapeBad d = true ↔ shapeBits d 44 4 ≠ 0 ∨ shapeBits d 17 7 ≠ 0 ∨ shapeBits d 0 16 ≠ 0 := by
  unfold cshapeBad shapeBits
  simp only [toNat_extract, Bool.or_eq_true, bne_iff_ne, or_assoc]
  norm_num
theorem cshape_bytes (d : W128) : (cshape d).bytes = (shapeBits d 48 16 + 1) * (shapeBits d 24 20 + 1) := by
  rw [cshape_eq]; rfl
theorem cshape_span (d : W128) (stride : Nat) : (cshape d).span stride = shapeBits d 48 16 * stride + shapeBits d 24 20 := by
  rw [cshape_eq]; rfl

/-- The checks of `CPY` by the bits of its shape: its words, its overlap, its hulls (R108). -/
theorem cpyCheck_eq (tm : Team) (dir : CpyDir) (dst src : W64) (d : W128) (ph lane : Nat) : cpyCheck tm dir dst src d ph lane =
    (let f := shapeBits d
    let sEnd := src.toNat + (f 48 16 * f 96 32 + f 24 20)
    let dEnd := dst.toNat + (f 48 16 * f 64 32 + f 24 20)
    let sg := dir = .g2s ∨ dir = .g2g
    let dg := dir = .s2g ∨ dir = .g2g
    if 2 ^ 16 ≤ ph ∨ f 44 4 ≠ 0 ∨ f 17 7 ≠ 0 ∨ f 0 16 ≠ 0 ∨ 2 ^ 32 ≤ (f 48 16 + 1) * (f 24 20 + 1) then some (flt fcOperand)
    else if (sg ↔ dg) ∧ src.toNat ≤ dEnd ∧ dst.toNat ≤ sEnd then some (flt fcOperand)
    else if sg ∧ 2 ^ 52 ≤ sEnd then some (flt fcTranslation 1 src lane)
    else if dg ∧ 2 ^ 52 ≤ dEnd then some (flt fcTranslation 1 dst lane)
    else if ¬ sg ∧ tm.scratch * 1024 ≤ sEnd then some (flt fcProtection 8 src lane)
    else if ¬ dg ∧ tm.scratch * 1024 ≤ dEnd then some (flt fcProtection 9 dst lane)
    else none) := by
  have sstr : (cshape d).sstr = shapeBits d 96 32 := by rw [cshape_eq]
  have dstr : (cshape d).dstr = shapeBits d 64 32 := by rw [cshape_eq]
  unfold cpyCheck
  simp only [← ite_or, cshapeBad_iff, cshape_bytes, cshape_span, sstr, dstr, or_assoc]

/-- What `CPY` does where it issues: its checks, then its command. -/
theorem exec_cpy {h : Hdr} {dir : CpyDir} {np : Bool} {dst src ctl : SReg} {shp : BitVec 3} {s : State} {c : Ctx} {tm : Team}
    (ht : s.team c.g.tid = some tm) (hi : Issues s h (Instr.cpy h dir np dst src shp ctl).uses 1 c) (h0 : c.act ≠ 0) :
    let ph := if np then 0 else (c.g.getS ctl.toNat).toNat
    let da := c.g.getS dst.toNat
    let sa := c.g.getS src.toNat
    let d := c.g.getD shp.toNat
    exec (.cpy h dir np dst src shp ctl) s = .next (applyEff c h .long (Instr.cpy h dir np dst src shp ctl).uses false 1
      (checked s (cpyCheck tm dir da sa d ph (lowLane c.act)) (copyIssue s c (if dir = .s2s then .team else .device)
        (copyCmd (.cpy dir da sa d) np ph c.g.ctx (some c.g.tid) tm.tswz (.group c.gid) c.sp.pc (c.g.cmdseq + 1))))) := by
  intro ph da sa d
  show execCpy h dir np dst src shp ctl s = _
  unfold execCpy
  rw [onceWord_next hi h0, ht]
  rfl

/-- The checks of an offload or a return, and what follows them. -/
theorem offWord_checks {i : Instr} {h : Hdr} {us : List Use} {np : Bool} {loc rem len ctl : SReg} {f : W64 → W64 → W64 → Nat → CopyOp}
    {s : State} {c : Ctx} (hx : exec i s = offWord s h us np loc rem len ctl f) (hi : Issues s h us 1 c) (h0 : c.act ≠ 0)
    (hd : destNames us = []) :
    let w := c.g.getS ctl.toNat
    let la := c.g.getS loc.toNat
    let ra := c.g.getS rem.toNat
    let n := c.g.getS len.toNat
    Checks i s c
      [ (2 ^ 32 ≤ w.toNat ∨ n = 0 ∨ n.toNat % 65536 ≠ 0 ∨ la.toNat % 65536 ≠ 0 ∨ ra.toNat % 65536 ≠ 0, fcOperand, 0, 0, 0),
        (2 ^ 52 ≤ ra.toNat, fcOperand, 0, 0, 0), (2 ^ 52 < la.toNat + n.toNat, fcTranslation, 1, la, lowLane c.act) ]
      (CopyQueued i s c .device (f la ra n (fld w 31 16)) np (fld w 15 0) 0) := by
  intro w la ra n
  have run : exec i s = .next (applyEff c h .long us false 1 (checked s (offCheck la ra n w (lowLane c.act)) (copyIssue s c .device
      (copyCmd (f la ra n (fld w 31 16)) np (fld w 15 0) c.g.ctx (some c.g.tid) 0 (.group c.gid) c.sp.pc (c.g.cmdseq + 1))))) := by
    rw [hx, offWord, onceWord_next hi h0]
    rfl
  unfold offCheck at run
  exact checks_cons run fun run => checks_cons run fun run => checks_cons run fun run => copyQueued_of hi.ctx hd run

/-- Settles O20: each word's checks one by one, then the command's stalls, its release and its place in the queue. -/
theorem copyCommands : Obligations.CopyCommands := by
  intro h dir np dst src ctl loc rem len shp s c h0 lane w d f ph size sa da sEnd dEnd sg dg i
  refine ⟨fun tm ht hi => ?_, ⟨fun hi => ?_, fun hi => ?_⟩, fun here => copyEngine_of_present here⟩
  · have run := exec_cpy ht hi h0
    dsimp only at run
    rw [cpyCheck_eq] at run
    exact checks_cons run fun run => checks_cons run fun run => checks_cons run fun run => checks_cons run fun run =>
      checks_cons run fun run => checks_cons run fun run => copyQueued_of hi.ctx (by cases np <;> rfl) run
  · exact offWord_checks (f := .offl) rfl hi h0 rfl
  · exact offWord_checks (f := .rtrn) rfl hi h0 rfl

end Sys2Proof.Machine
end
